-- ==== Sys2Proof/Word.lean ====
section
/-! DEFINITION. The plainest data types of the ES-9600 model: bytes, words, byte strings and sparse maps. -/

namespace Sys2Proof

/-- One byte. -/
abbrev Byte := BitVec 8

/-- A register word (R5: every register is 64 bits wide). -/
abbrev Word := BitVec 64

/-- A byte string: a frame, an image, a chunk of a DMA transfer. -/
abbrev Bytes := List Byte

/-- A sparse map from natural keys, in one canonical form: keys strictly rising, and no entry that
equals what an unlisted key reads as (`SMap.wf` in Machine/Bits.lean). -/
abbrev SMap (α : Type) := List (Nat × α)

end Sys2Proof
end

