-- ==== Sys2Proof/Syntax.lean ====
section
/-! DEFINITION. The commands the ES-9600 takes from outside: one constructor of `Instr` for each row of
spec/opcode_table.json, with the row's operands, and the operand types. -/

namespace Sys2Proof

/-- A PCIe function: the port and the physical function number within it (R370, R371). -/
structure Fn where
  port : Nat
  func : Nat
  deriving DecidableEq, Repr

/-- What the SECDED check of the words that a step reads finds (R78, R131, R149, R196, R222, R257 ...); `badCheck`: the
words pass and the CHECK field of a table entry does not match (R142, R150, R158). -/
inductive Ecc where
  | ok | corr | uncorr | badCheck
  deriving DecidableEq, Repr

/-- How a DMA read of host memory ends: with data, with a completion timeout or with poisoned data (R52, R171, R423). -/
inductive Dma where
  | data (b : Bytes) | timeout | poison
  deriving DecidableEq, Repr

/-- How the tail of a frame ends at the MAC: good, with a bad FCS or an uncorrectable codeword (R84), or cut by
loss of link (R85, R87). -/
inductive Tail where
  | good | badFcs | cut
  deriving DecidableEq, Repr

/-- The FEC codewords of a port's receive stream since the port's last event (R84, R104): corrected and uncorrectable
ones that hold bytes of the frame, and the same of those that hold none of them. A codeword that two frames share
belongs to the first; `bad` of the second then says what it did. -/
structure Fec where
  corr       : Nat
  uncorr     : Nat
  idleCorr   : Nat
  idleUncorr : Nat
  deriving DecidableEq, Repr

/-- How the three sequencer copies vote on an output word (R494): all agree, copy i is outvoted, or no two agree. -/
inductive Vote where
  | agree | outvoted (copy : Nat) | noMajority
  deriving DecidableEq, Repr

/-- The straps sampled at the rising edge of POR_N (R524). -/
structure Straps where
  flashSel : Bool
  pcieMode : Nat
  twinEn   : Bool
  deriving DecidableEq, Repr

/-- The rise of POR_N: the straps it samples, and where the power had failed in the flash writes of the command before it:
0 behind them all, else that many of the intermediate contents back (`State.cuts`, R460). -/
structure PowerUp where
  straps : Straps
  cut    : Nat
  deriving DecidableEq, Repr

/-- What a pipeline stage meets besides the packet: the plate-store words it reads (R79), the check of the table
words it reads and of the entry that a next-hop resolution ends on, the posted RX descriptor's read and whether the DMA write of a host-bound packet succeeds (R388). -/
structure StageIn where
  reads  : List Nat
  ecc    : Ecc
  eccNh  : Ecc
  desc   : Dma
  dmaOk  : Bool
  ecc1   : Ecc := .ok      -- a stencil's root word (R140)
  ecc2   : Ecc := .ok      -- its second-level word
  eccGrp : Ecc := .ok      -- the ECMP group entry of a resolution (R157)
  eccMem : Ecc := .ok      -- the member entry
  deriving DecidableEq, Repr

/-- The memories of the BPM in which R222 finds an error. -/
inductive BpmMem where
  | summary (pool stack : Nat)            -- a summary word of a free bitmap
  | leaf (pool stack word : Nat)          -- a leaf word of a free bitmap: 64 pages
  | count (entry : Nat)                   -- an entry of the reference-count table
  | record (pool page : Nat)              -- a page record
  deriving DecidableEq, Repr

/-- The memories of the queue engine in which R257 finds an error. -/
inductive QMem where
  | obj (code index : Nat)                -- a word of an object of R258; a curve's active copy by the curve's number
  | list (queue : Nat)                    -- a word of a queue's list
  | stby (code point : Nat)               -- a point of a curve's standby copy, by the object code of the curve's points
  | count (queue i : Nat)                 -- a counter of a queue: 0 FWD_BYTES, 1 DROP_PKTS, 2 MC_COPY_DROP
  | devCount (i : Nat)                    -- a device-wide counter
  deriving DecidableEq, Repr

/-- What the ASA scrubber finds in a row (R196). -/
inductive AsaFind where
  | clean | mismatch | shadowCorr | shadowUncorr
  deriving DecidableEq, Repr

/-- A mailbox command that a steward fault finds pending (R38): its partition and opcode; for a CALIB_WRITE the record
and how far its four steps had come (R491): 0 nothing written, 1 the scratch area holds part of the record, 2 it holds the
whole and the record area is erased, 3 the record area holds part as well, 4 it holds the whole. -/
structure MbxCut where
  part : Nat
  op   : Nat
  rec_ : Bytes
  step : Nat
  deriving DecidableEq, Repr

/-- The formats of a read that the SMBus target answers (R395). -/
inductive SmbFmt where
  | byte | word | block
  deriving DecidableEq, Repr

/-- A power domain of R475. -/
inductive Domain where
  | port (n : Nat) | pair (n : Nat) | group (g : Nat) | burin
  deriving DecidableEq, Repr

/-- How steps 3 to 5 of an ACTIVATE end: all switched, a failure of the given flash in step 3, or the component of the
given TYPE not switched, with its code (R452, R453). -/
inductive SwitchEnd where
  | done | flashFail (chip : Nat) (rewriteFails : Bool) | failed (type code : Nat)
  deriving DecidableEq, Repr

/-- The commands and events of the block, in the order of the table. -/
inductive Instr where
  -- reset and register access
  | powerOnReset (up : PowerUp)
  | regWrite (fn : Fn) (off size : Nat) (v : Word)
  | halfWriteLow (fn : Fn) (off : Nat) (v : BitVec 32)
  | counterLowRead (fn : Fn) (off : Nat)
  | readClear (fn : Fn) (off size : Nat)
  | lineTsFifoLoRead (fn : Fn) (port : Nat)
  | pwrTbTimeRead (fn : Fn)
  -- boot
  | bootCalibCheck
  | bridgeWireTest (failed : List (Nat × Nat))
  | bootSetSelect
  | bootManifestCheck
  | pmapLock
  | bootImageLoad
  | hbmTrainingDone (stack : Nat) (ok : Bool)
  | serdesCalibrationDone
  | bootPlateLoad
  | bootTraceCheck (echo : List (Nat × List Bytes))
  | ready
  | bootFailed
  -- bridge, steward, error records
  | bridgeFlitReceive (dir chan seq : Nat) (crcOk : Bool) (flit : Bytes)
  | stewardFault (cut : List MbxCut)
  | stewardRestart
  | erqAck (fn : Fn) (die : Nat) (v : Word)
  | erqFatalClr (fn : Fn) (die : Nat)
  -- line side
  | headerSegmentArrive (port : Nat) (seg : Bytes) (whole bad : Bool) (fec : Fec)
  | frameTailArrive (port : Nat) (rest : Bytes) (tail : Tail) (fec : Fec)
  | pauseFrameReceive (port len : Nat) (bad : Bool) (quanta : Nat) (fec : Fec)
  | pfcFrameReceive (port len : Nat) (bad : Bool) (enables : BitVec 8) (quanta : List Nat) (fec : Fec)
  | pauseExpire (port : Nat)
  | linkStateChange (port : Nat) (up localFault remoteFault : Bool) (fec : Fec)
  | synceSquelch (out : Nat) (bad : Bool)
  | lineOctetModeWrite (fn : Fn) (octet mode : Nat)
  | flowMatch (port : Nat) (first : Bytes) (firstBit : Nat) (fec : Fec) (vote : Vote)
  | schedOverlen (port : Nat) (body : Bytes) (fec : Fec)
  | schedFrameTail (port : Nat) (body : Bytes) (tail : Tail) (fec : Fec)
  | packetParse (pkt : Nat) (x : StageIn)
  | pipelineStage (pkt : Nat) (x : StageIn)
  | ppmScanEnd (pkt : Nat) (errs : List (Nat × Ecc))
  | reorderArrival (stream seq : Nat)
  | reorderTimeout (stream : Nat)
  | egressEntry (port : Nat)
  | txFrame (port : Nat)
  | xoffSignal (port prio : Nat)
  | xonSignal (port prio : Nat)
  | pfcRefresh (port prio : Nat)
  -- plates
  | plateLoad (fn : Fn) (bank gen : Nat)
  | plateSwap (fn : Fn) (bank gen : Nat)
  | plateAbort (fn : Fn) (bank gen : Nat)
  | plateLoadData (d : Dma) (storeOk : Bool)
  | plateVerifyDone
  | plateSwapPoint
  | plateDrainEnd
  | plateDrainOverrun
  | plateScrub (bank word : Nat) (ecc : Ecc)
  | pipeQuiesce (fn : Fn) (v : Word)
  | pipelineQuiesced (pipe : Nat)
  -- payload pattern matcher
  | ppmWrite (fn : Fn) (index : Nat)
  | ppmRead (fn : Fn) (index : Nat) (ecc : Ecc)
  | ppmInvalidate (fn : Fn) (index : Nat)
  -- tables
  | tblWrite (fn : Fn) (table : Nat)
  | tblRead (fn : Fn) (table : Nat) (mask : BitVec 16) (ecc : Ecc)
  | tblInsert (fn : Fn) (table : Nat) (mask : BitVec 16)
  | tblDelete (fn : Fn) (table : Nat) (mask : BitVec 16)
  | tblLookup (fn : Fn) (table : Nat) (mask : BitVec 16)
  | tblCommit (fn : Fn)
  | tblFence (fn : Fn)
  | tblFenceDone (part : Nat) (ring : Bool)
  | tblFenceTimeout (part : Nat) (ring : Bool)
  | tblRingGroup (part : Nat) (d : Dma) (group : Nat)
  | macAgerVisit (pipe slot : Nat)
  | tblScrub (table pipe index : Nat) (ecc : Ecc)
  -- associative search array
  | asaWrite (fn : Fn) (table : Nat)
  | asaRead (fn : Fn) (table : Nat) (ecc : Ecc)
  | asaInvalidate (fn : Fn) (table : Nat)
  | asaInsertAt (fn : Fn) (table : Nat) (ecc : Ecc)
  | asaSearchCmd (fn : Fn) (table : Nat) (ecc : Ecc)
  | asaTableCfgWrite (fn : Fn) (table : Nat) (v : Word)
  | asaScrubVisit (bank row : Nat) (find : AsaFind)
  -- buffer pool manager
  | pageRequest (r pool : Nat) (body : Option Nat)
  | pageFree (r pool head count : Nat)
  | refInc (r pool head : Nat)
  | refDec (r pool head count : Nat)
  | bpmReadRec (fn : Fn) (ecc : Ecc)
  | bpmReadRef (fn : Fn) (ecc : Ecc)
  | bpmRetire (fn : Fn)
  | bpmRestore (fn : Fn)
  | bpmQuotaWrite (fn : Fn) (r k : Nat) (v : Word)
  | bpmStackFailed (stack : Nat) (phyLost : Bool) (uncorr : Nat)
  | bpmMemoryError (m : BpmMem) (ecc : Ecc)
  -- queue engine
  | queueArrival (r : Nat)
  | packetTailStored (pkt : Nat)
  | recircReturn
  | egressDequeue (port : Nat)
  | ctUnderrun (port : Nat)
  | voqPacketStart (q : Nat)
  | creditRefresh (q : Nat)
  | requestReceive
  | requestExpire (port tc dev : Nat)
  | grantIssue (port : Nat)
  | grantReceive
  | qWrite (fn : Fn) (object : Nat)
  | qRead (fn : Fn) (object : Nat) (ecc : Ecc)
  | qCommit (fn : Fn) (object : Nat)
  | qFlush (fn : Fn)
  | flushDone (part : Nat)
  | flushTimeout (part : Nat)
  | qEccUncorr (mem : QMem) (ecc : Ecc)
  | fallbackAutoClear (fn : Fn)
  -- calendar
  | schedLoad (fn : Fn) (bank gen : Nat)
  | schedSwap (fn : Fn) (bank gen : Nat)
  | schedAbort (fn : Fn) (bank gen : Nat)
  | schedRestart (fn : Fn) (vote : Vote)
  | schedLoadData (d : Dma) (storeOk : Bool)
  | schedVerifyDone
  | schedArm
  | schedBankEccError (bank : Nat)
  | multiframeBoundary (vote : Vote)
  | cellSlotPick (lane pos : Nat) (arrived : Bytes) (ecc : Ecc) (vote : Vote)
  | schedCellReceive (ecc : Ecc) (vote : Vote)
  | schedRelease (bank release : Nat) (vote : Vote)
  -- fabric
  | framerStart (fn : Fn)
  | framerStop (fn : Fn)
  | framerRun
  | fabLaneEnable (fn : Fn) (lane : Nat) (v : Word)
  | traceCheck (fn : Fn) (lane : Nat)
  | fabReachWrite (fn : Fn) (d : Nat) (v : Word)
  | fabFrameTransmit (lane : Nat)
  | fabFrameReceive (lane pos : Nat) (frame : Bytes)
  | fabLos (lane : Nat)
  | groupFrameRead (group : Nat)
  | fabCellReceive (lane pos : Nat) (cell : Bytes)
  | fabMsgReceive (lane : Nat) (msg : Word)
  | reasmTimeout (srcDev srcGroup tc : Nat)
  | repinGuardExpire (d : Nat)
  | fabPmLatch
  -- burin engines
  | burinEvent (fn : Fn) (evtOp : Nat)
  | burinCreate (fn : Fn)
  | burinDelete (fn : Fn)
  | burinCtxRead (fn : Fn) (ecc : Ecc)
  | burinClearFault (fn : Fn)
  | burinLoad (fn : Fn) (image : Dma)
  | burinRegionSwitch
  | burinEventStart (engine session : Nat) (ecc : Ecc)
  | burinEventEnd (engine : Nat) (errs : List (Nat × Ecc))
  | burinEventAbandon (engine : Nat) (errs : List (Nat × Ecc))
  | burinFault (engine : Nat) (errs : List (Nat × Ecc))
  | burinTimerExpire (session timer : Nat)
  -- host interface
  | perstN (port : Nat)
  | functionLevelReset (fn : Fn)
  | pioTxDescriptor (part ring : Nat) (desc frame : Dma)
  | pioRingDisable (fn : Fn) (ring : Nat) (v : Word)
  | rxCoalExpire (part ring : Nat)
  | intStatusClear (fn : Fn) (rings : Bool) (v : Word)
  | msixUnmask (fn : Fn) (vec : Nat)
  | mbxVersion (fn : Fn)
  | mbxThermal (fn : Fn)
  | mbxPing (fn : Fn)
  | settingsGet (fn : Fn)
  | settingsPut (fn : Fn)
  | calibRead (fn : Fn) (dma : Dma)
  | calibWrite (fn : Fn) (rec : Dma)
  | smbusRead (addr : Nat) (sent : Bytes) (fmt : SmbFmt) (pec : Bool)
  -- seal engine
  | sealAcquire (fn : Fn)
  | sealRelease (fn : Fn)
  | sealBreak (fn : Fn)
  | sealUnwrap (fn : Fn) (slot : Nat) (blob : Dma) (ecc kekEcc : Ecc)
  | sealEncrypt (fn : Fn) (slot tagLen : Nat) (aad text : Dma) (part : Bytes) (ecc : Ecc)
  | sealDecrypt (fn : Fn) (slot tagLen : Nat) (stream : Bool) (aad text : Dma) (part : Bytes) (ecc : Ecc)
  | sealClear (fn : Fn) (slot : Nat) (ecc : Ecc)
  -- update controller
  | updOpen (fn : Fn) (manifest : Dma)
  | updWrite (fn : Fn) (comp : Nat) (chunk : Dma) (progOk : Bool)
  | updVerify (fn : Fn)
  | updSealWaitTimeout
  | updActivate (fn : Fn) (sw : SwitchEnd)
  | stewardReady
  | updConfirm (fn : Fn)
  | updRevert (fn : Fn)
  | updClose (fn : Fn)
  | updPreempt (fn : Fn)
  | updSessionLapsed
  | confirmTimerExpire
  -- power, thermal, timebase
  | ptpMfBoundary (phaseIn phaseOut : Nat)
  | pwrRailCfgWrite (fn : Fn) (die : Nat) (v : Word)
  | avsReadback (rail mv : Nat)
  | thermalRead (readings : List Int)
  | thermalStale
  | domainSleep (d : Domain)
  | domainWake (d : Domain) (tookNs : Nat)
  | wakeBudgetWrite (fn : Fn) (d : Domain) (v : Word)
  | ppsOut
  | ppsInEdge
  | ppsLoss
  -- twin mode
  | twinEnable (fn : Fn) (v : Word)
  | twinSwitch (fn : Fn)
  | twinForceActive (fn : Fn)
  | twinClearFailed (fn : Fn)
  | twinRecordReceive (lane : Nat) (cell : Bytes)
  | twinLinkDown
  | twinHealthInFall
  | twinHealthWaitExpire
  | fabSignalLock (lane : Nat)
  | perstNRise (port : Nat)
  | voqAgeDiscard (q : Nat)
  | twinHealthInRise
  deriving DecidableEq, Repr

end Sys2Proof
end

