-- ==== Sys2Proof/Machine/Bits.lean ====
section
/-! DEFINITION. The plain operations the whole model is written in: sparse maps in canonical form, fields of a
register word, little-endian bytes, timestamps of R10. -/

namespace Sys2Proof.Machine

/-! ### Sparse maps -/

/-- The value at key `k`; `d` says what an unlisted key reads as. -/
def smapGet {α : Type} (d : Nat → α) (k : Nat) : SMap α → α
  | [] => d k
  | (k', v) :: m => if k = k' then v else smapGet d k m

/-- The entry at key `k`, if one is listed. -/
def smapFind {α : Type} (k : Nat) : SMap α → Option α
  | [] => none
  | (k', v) :: m => if k = k' then some v else smapFind k m

/-- Put an entry at its place in a map whose keys rise. -/
def smapInsert {α : Type} (k : Nat) (v : α) : SMap α → SMap α
  | [] => [(k, v)]
  | (k', v') :: m =>
    if k < k' then (k, v) :: (k', v') :: m
    else if k = k' then (k, v) :: m
    else (k', v') :: smapInsert k v m

/-- Take the entry at `k` out. -/
def smapErase {α : Type} (k : Nat) : SMap α → SMap α
  | [] => []
  | (k', v') :: m => if k = k' then smapErase k m else (k', v') :: smapErase k m

/-- Write `v` at `k` and keep the canonical form: the value an unlisted key reads as is not listed. -/
def smapPut {α : Type} [DecidableEq α] (d : Nat → α) (k : Nat) (v : α) (m : SMap α) : SMap α :=
  if v = d k then smapErase k m else smapInsert k v m

/-- The canonical form: keys strictly rising, no entry equal to what its key reads as unlisted. -/
def SMapWf {α : Type} (d : Nat → α) (m : SMap α) : Prop :=
  m.Pairwise (fun a b => a.1 < b.1) ∧ ∀ e ∈ m, e.2 ≠ d e.1

/-- Keys strictly rising: the form of a map whose unlisted keys hold nothing. -/
def SMapSorted {α : Type} (m : SMap α) : Prop := m.Pairwise (fun a b => a.1 < b.1)

/-- Replace element `i` of a list. -/
def setNth {α : Type} (i : Nat) (v : α) (l : List α) : List α := l.set i v

/-- Element `i` of a list, `d` past its end. -/
def nth {α : Type} (d : α) (i : Nat) (l : List α) : α := l.getD i d

/-! ### Fields of a register word -/

/-- A field's place: its highest and its lowest bit. -/
abbrev Fld := Nat × Nat

/-- A field's width in bits. -/
def fldWidth (f : Fld) : Nat := f.1 + 1 - f.2

/-- The mask of `n` low bits. -/
def lowMask (n : Nat) : Word := BitVec.ofNat 64 (2 ^ n - 1)

/-- The value of field `f` of word `w`. -/
def getF (w : Word) (f : Fld) : Nat := ((w >>> f.2) &&& lowMask (fldWidth f)).toNat

/-- Word `w` with field `f` set to `v` (its low bits). -/
def setF (w : Word) (f : Fld) (v : Nat) : Word :=
  (w &&& ~~~ (lowMask (fldWidth f) <<< f.2)) ||| ((BitVec.ofNat 64 v &&& lowMask (fldWidth f)) <<< f.2)

/-- Bit `i` of a word. -/
def bitOf (w : Word) (i : Nat) : Bool := w.getLsbD i

/-- Word `w` with bit `i` set or cleared. -/
def setBit (w : Word) (i : Nat) (b : Bool) : Word := setF w (i, i) (if b then 1 else 0)

/-- A Bool as a field value. -/
def b2n (b : Bool) : Nat := if b then 1 else 0

/-- Whether bit `i` of a natural number is 1. -/
def nbit (n i : Nat) : Bool := n.testBit i

/-! ### Bytes -/

/-- The little-endian value of a byte string. -/
def leNat : Bytes → Nat
  | [] => 0
  | b :: bs => b.toNat + 256 * leNat bs

/-- The big-endian value of a byte string. -/
def beNat (bs : Bytes) : Nat := bs.foldl (fun a b => 256 * a + b.toNat) 0

/-- The `n` little-endian bytes of a value. -/
def toLe : Nat → Nat → Bytes
  | 0, _ => []
  | n + 1, v => BitVec.ofNat 8 v :: toLe n (v / 256)

/-- The `n` big-endian bytes of a value. -/
def toBe (n v : Nat) : Bytes := (toLe n v).reverse

/-- `n` zero bytes. -/
def zeros (n : Nat) : Bytes := List.replicate n 0

/-- The bytes `o` to `o + n − 1`; a byte past the end reads 0. -/
def slice (o n : Nat) (bs : Bytes) : Bytes :=
  let t := (bs.drop o).take n
  t ++ zeros (n - t.length)

/-- The little-endian field of `n` bytes at offset `o`. -/
def leAt (o n : Nat) (bs : Bytes) : Nat := leNat (slice o n bs)

/-- The big-endian field of `n` bytes at offset `o`. -/
def beAt (o n : Nat) (bs : Bytes) : Nat := beNat (slice o n bs)

/-- Byte `i`, 0 past the end. -/
def byteAt (i : Nat) (bs : Bytes) : Nat := (bs.getD i 0).toNat

/-- A byte string with `new` written at offset `o`. -/
def patch (o : Nat) (new bs : Bytes) : Bytes :=
  slice 0 o bs ++ new ++ bs.drop (o + new.length)

/-- Bytes 8i to 8i + 7 as a register word, byte 8i + j in bits [8j+7:8j]. -/
def wordAt (i : Nat) (bs : Bytes) : Word := BitVec.ofNat 64 (leAt (8 * i) 8 bs)

/-- The bytes of consecutive register words. -/
def wordsToBytes (ws : List Word) : Bytes := ws.flatMap (fun w => toLe 8 w.toNat)

/-- All bytes are 0. -/
def allZero (bs : Bytes) : Bool := bs.all (· == 0)

/-- Bits [hi:lo] of a natural number. -/
def nbits (n hi lo : Nat) : Nat := n / 2 ^ lo % 2 ^ (hi + 1 - lo)

/-- Ceiling division. -/
def ceilDiv (a b : Nat) : Nat := (a + b - 1) / b

/-! ### Time: ticks of 0.1 ns, and the 80-bit PTP time of R10 -/

/-- One second in ticks. -/
def ticksPerSec : Nat := 10000000000

/-- Ticks of a number of ns. -/
def nsT (n : Nat) : Nat := 10 * n

/-- Ticks of a number of µs. -/
def usT (n : Nat) : Nat := 10000 * n

/-- Ticks of a number of ms. -/
def msT (n : Nat) : Nat := 10000000 * n

/-- Seconds in bits [79:32] and nanoseconds in bits [31:0] (R10). -/
def stampOf (t : Nat) : Nat := 2 ^ 32 * (t / ticksPerSec % 2 ^ 48) + t % ticksPerSec / 10

/-- Bits [63:0] of a timestamp: what its first register holds (R10). -/
def stampLo (t : Nat) : Nat := stampOf t % 2 ^ 64

/-- Bits [79:64] of a timestamp: what bits [15:0] of its second register hold (R10). -/
def stampHi (t : Nat) : Nat := stampOf t / 2 ^ 64

end Sys2Proof.Machine
end

