-- ==== Sys2Proof/Machine/Crc.lean ====
section
/-! DEFINITION. The cyclic redundancy checks of the spec: reflected CRCs (CRC-32C of R48, the Ethernet FCS) and
most-significant-bit-first CRCs (the checks of the fabric and the twin digests). -/

namespace Sys2Proof.Machine

/-- One bit of a reflected CRC. -/
def crcRefBit (poly reg : Nat) : Nat := if reg % 2 = 1 then (reg / 2) ^^^ poly else reg / 2

/-- `k` bits of a reflected CRC. -/
def crcRefBits (poly : Nat) : Nat → Nat → Nat
  | 0, reg => reg
  | k + 1, reg => crcRefBits poly k (crcRefBit poly reg)

/-- The register of a reflected CRC after a byte string; `poly` is bit-reversed, `init` is loaded as written (R146). -/
def crcRefRun (poly : Nat) : Nat → Bytes → Nat
  | reg, [] => reg
  | reg, b :: bs => crcRefRun poly (crcRefBits poly 8 (reg ^^^ b.toNat)) bs

/-- CRC-32C with a given initial value (R48, R146): polynomial 0x1EDC6F41 reflected is 0x82F63B78. -/
def crc32cInit (init : Nat) (b : Bytes) : Nat := crcRefRun 0x82F63B78 init b ^^^ 0xFFFFFFFF

/-- CRC-32C (R48). -/
def crc32c (b : Bytes) : Nat := crc32cInit 0xFFFFFFFF b

/-- The CRC-32 of IEEE 802.3, which a frame's FCS carries. -/
def crc32 (b : Bytes) : Nat := crcRefRun 0xEDB88320 0xFFFFFFFF b ^^^ 0xFFFFFFFF

/-- The four bytes of a correct FCS, in the order sent. -/
def fcsBytes (b : Bytes) : Bytes := toLe 4 (crc32 b)

/-- The one's complement of the correct FCS: the end of a stomped frame (R94). -/
def stompBytes (b : Bytes) : Bytes := toLe 4 (crc32 b ^^^ 0xFFFFFFFF)

/-- One bit of an MSB-first CRC of `w` bits. -/
def crcMsbBit (w poly reg : Nat) : Nat :=
  if reg / 2 ^ (w - 1) % 2 = 1 then (2 * reg % 2 ^ w) ^^^ poly else 2 * reg % 2 ^ w

def crcMsbBits (w poly : Nat) : Nat → Nat → Nat
  | 0, reg => reg
  | k + 1, reg => crcMsbBits w poly k (crcMsbBit w poly reg)

/-- The register of an MSB-first CRC of `w` bits, at least 8, after a byte string. -/
def crcMsbRun (w poly : Nat) : Nat → Bytes → Nat
  | reg, [] => reg
  | reg, b :: bs => crcMsbRun w poly (crcMsbBits w poly 8 (reg ^^^ (b.toNat * 2 ^ (w - 8)))) bs

end Sys2Proof.Machine
end

