-- ==== Sys2Proof/Config.lean ====
section
/-! DEFINITION. What one device fixes and the spec leaves open: the sizes of its fixed parts, the decoded form of the
plate sections whose byte encodings Bibasyn keeps to itself (R549), and the free values, constants without a body. -/

namespace Sys2Proof

/-- One extract descriptor of a key builder (R121): source, header type, occurrence byte, bit offset and width. -/
structure Extract where
  src        : Nat
  absentMiss : Bool
  hdrType    : Nat
  occurrence : Nat
  layer      : Nat
  bitOffset  : Nat
  bitWidth   : Nat
  deriving DecidableEq, Repr

/-- The table that a stage reads (R133 and the table chapters). -/
inductive TableRef where
  | none | stencil (sid : Nat) | label | host | mac | asa (t : Nat) (wide : Bool)
  deriving DecidableEq, Repr

/-- The fields that the matcher writes at the end of a scan (R125). -/
inductive PpmField where
  | done | hit | classMap | firstId | firstOff
  deriving DecidableEq, Repr

/-- Where a stage action takes a number from: the plate, metadata bytes, or bits of the stage result (R343). -/
inductive ActSrc where
  | const (v : Nat) | md (off bytes : Nat) | result (lo width : Nat)
  deriving DecidableEq, Repr

/-- The things a stage programme may do with a result: the list of R549. -/
inductive Action where
  | drop                                       -- plate action: hole marker of R92
  | trap (part ring : Nat)                     -- to a host ring, REASON PLATE (R387, R388)
  | forward                                    -- the packet leaves the pipeline
  | recirc                                     -- the recirculation decision (R43)
  | resolve                                    -- next-hop resolution (R157, R158, R554)
  | hatch (builder : Nat)                      -- the hatch input (R332)
  | learn (fidOff macOff destOff : Nat)        -- R151, the places in the metadata
  | scan                                       -- select a payload scan (R124 to R127)
  | copyPpm (off : Nat)                        -- R125: class map and first match into metadata bytes 16 to 31
  | copyField (f : PpmField) (off : Nat)       -- R125: one matcher field into those bytes
  | burin (evtOp sess : ActSrc)                -- hand-over to a burin (R343)
  | setBits (lo width value : Nat)             -- metadata bits (R228)
  | putResult (lo width : Nat)                 -- the result into metadata bits
  | classify                                   -- the class maps of the plate
  | edit                                       -- the edit templates of the plate
  deriving DecidableEq, Repr

/-- One stage of a stage programme: the builder and table it uses, and what it does on a result, on a SPECIAL
result by its action code (R136), on a miss and when a learn finds no space (the flood action of R151); the rings
it names for next hops of TYPE TRAP and RECEIVE (R554); whether it reads matcher results (R126). -/
structure Stage where
  builder  : Option Nat
  table    : TableRef
  hashB    : Option Nat
  onHit    : List Action
  onSpec   : List (Nat × List Action)
  onMiss   : List Action
  onFlood  : List Action
  trapRing : Option (Nat × Nat)
  recvRing : Option (Nat × Nat)
  readsPpm : Bool
  deriving DecidableEq, Repr

/-- The stage programme of one pipeline: its role (R42) and its stages. -/
structure StageProg where
  role   : Nat
  stages : List Stage
  deriving DecidableEq, Repr

/-- What the sections of a plate say once decoded: the stage programmes of pipelines 0 to 15, the builders, the table
types of the 160 carvable banks, the bytes that each edit template pushes and removes, the number of class maps, and
names for the contents of the last two. Codes of `carving`: 0 free, 1 stencil, 2 label, 3 host route, 4 next hop, 5 ECMP
group, 6 ECMP member, 16 + n MAC of pipeline n. -/
structure PlateCode where
  progs     : List StageProg
  builders  : List (List Extract)
  carving   : List Nat
  templates : List (Nat × Nat)
  classMaps : Nat
  editCode  : Nat
  classCode : Nat
  deriving DecidableEq, Repr

/-- What Bibasyn's framing of those sections holds: as `PlateCode`, the builders as lists of 8-byte descriptors (R121). -/
structure PlateRaw where
  progs     : List StageProg
  builders  : List (List Bytes)
  carving   : List Nat
  templates : List (Nat × Nat)
  classMaps : Nat
  editCode  : Nat
  classCode : Nat
  deriving DecidableEq, Repr

/-- The timestamp action that an egress pipeline's metadata selects (R101). `corr` is the offset of the
correctionField, `csum` the offset of the UDP checksum to be updated, where there is one. -/
inductive TsAction where
  | none | twoStep (tag : Nat) | oneStep (corr : Nat) (csum : Option Nat)
  deriving DecidableEq, Repr, Inhabited

/-- A BFD control packet that the reception rules of RFC 5880 let through (R356): the sender's state, its detection
multiplier, its discriminator, DesiredMinTx and RequiredMinRx in µs, whether it polls, its authentication sequence. -/
structure BfdPkt where
  state : Nat
  mult  : Nat
  disc  : Nat
  minTx : Nat
  minRx : Nat
  poll  : Bool
  seq   : Option Nat
  deriving DecidableEq, Repr, Inhabited

/-- A CCM (R356): its level, MEP, interval code, sequence number and MAID, its RDI bit, and whether a TLV of it names a bad
port or interface. -/
structure CcmPkt where
  level  : Nat
  mep    : Nat
  code   : Nat
  seq    : Nat
  maid   : Bytes
  rdi    : Bool
  macBad : Bool
  deriving DecidableEq, Repr, Inhabited

namespace Config

/-! ### Free values: nothing in Lean can evaluate them -/

/-- The plate code that one TARGET_ID and TARGET_STEP reads in the images of the sections KEY_BUILDERS,
STAGE_PROGRAMME (instances 0 to 15 joined), SRAM_CARVING, EDIT_TEMPLATES and CLASS_MAPS (R549); none where the
encodings are not well formed; log 32. -/
opaque plateCode : (builders progs carving templates classMaps : Bytes) → Option PlateRaw

/-- What an edit template of a plate image does to the bytes of a packet with this metadata, next hop and label entry and
the results it carries (R41, R133, R147, R156, R549); log 33. -/
opaque editPacket : (templates : Nat) → (md nh label : Bytes) → (results : List Bytes) → (pkt : Bytes) → Bytes

/-- The traffic class and drop colour that the class maps give a packet (R41, R549); log 33. -/
opaque classOf : (classMaps : Nat) → (parseResult md pkt : Bytes) → Nat × Nat

/-- The timestamp action the metadata of an egress packet selects (R101, R549); log 33. -/
opaque tsAction : (md : Bytes) → TsAction

/-- What the two bytes of EFF_END hold for an effective end beyond 65,535, to which R120 gives no value; log 161. -/
opaque effEndWide : Nat → BitVec 16

/-- The `n`-th fresh 16-bit random number of the queue engine (R236); log 70. -/
opaque ecnRandom : Nat → BitVec 16

/-- The `n`-th 32-bit random number of the burin engines (R353, RAND); log 105. -/
opaque burinRand : Nat → BitVec 32

/-- What MEMDATA reads in a step that reads no memory (R353 gives it a value only where the step reads); log 105. -/
opaque noMemData : Nat → Word

/-- The block of 64 bytes that the vendor action SHA1 takes from the transmit buffer, and the place in the buffer where
its digest goes (R355 says neither); log 105. -/
opaque sha1Input : (arg : Nat) → (res : Word) → (txb : Bytes) → Bytes
opaque sha1Place : (arg : Nat) → (res : Word) → Nat

/-- The object code that a record gives a device-wide counter of the queue engine, which R258 lists no object for; log 163. -/
opaque qDevObj : Nat

/-- Which of a queue's three counters a READ finds bad (R257); log 163. -/
opaque qBadCount : Nat → Fin 3

/-- The poisoned data that a read of a FAILED stack returns, by head page and byte (R219); log 64. -/
opaque poison : Nat → Nat → BitVec 8

/-- What the record of a lost page reads (R215 and R222 say that it is lost, not what its record holds); log 63. -/
opaque lostRecord : Nat → Word

/-- The table and index in a record of a row of the search array whose bank no table holds (R196 names both for every
row); log 61. -/
opaque unheldRow : (bank row : Nat) → Nat × Nat

/-- Which of several routed cells that are ready goes first, where several TCs of a group have one (R316 and R334 let
them interleave and name no order); log 92. -/
opaque streamPick : Nat → Nat

/-- The worst-case speed curve of mask ROM (R487): the period in units of 0.25 ps at grid voltage v and grid temperature
t, the same for every class; log 131. -/
opaque worstCurve : (v t : Nat) → Nat

/-- The instance in an error record that a function without a partition raises (R398 names partitions only); log 18. -/
opaque unownedInstance : Nat → Nat

/-- The Ouvba public key held in mask ROM, a point of P-384 (R431, R485); log 130. -/
opaque vendorKey : Nat × Nat

/-- The hash of the boot code, fixed in mask ROM (R434): 8 bytes, little-endian; log 130. -/
opaque bootHash : Nat

/-- The UNIT_ID of this device (R485); log 130. -/
opaque unitId : Nat

/-- The vendor region of the burin store in a MICROCODE image: micro-words, nano-words, dispatch entries, and the
word that stands in the places the image does not fill (R430 gives the contents, not their layout); log 110. -/
opaque vendorRegion : Bytes → (List Nat × List Nat) × (List Nat × Nat)

/-- What the built-in services read in the packets they receive, by the standards R356 names, none where those discard the
packet: a BFD control packet for a context, a CCM, the three times in ns of a DMR, the three counts of an LMR, and the
address that an ARP request or neighbour solicitation asks for; log 165. -/
opaque bfdRead : (ctx pdu : Bytes) → Option BfdPkt
opaque ccmRead : (pdu : Bytes) → Option CcmPkt
opaque dmrRead : (pdu : Bytes) → Option (Nat × Nat × Nat)
opaque lmrRead : (pdu : Bytes) → Option (Nat × Nat × Nat)
opaque arpAsks : (pdu : Bytes) → Option Bytes

/-- What the built-in services send after their template, the CODE and DATA of what they notify, and the IPFIX record of a
sampled packet (R356 names all of these and gives none its bytes); log 165. -/
opaque svcPdu : (op : Nat) → (ctx evt frame : Bytes) → Bytes
opaque svcNote : (op : Nat) → (ctx evt : Bytes) → Nat × Bytes
opaque svcRecord : (evt frame : Bytes) → Bytes

/-- The offset in a sample's ARG, and what KP and KI make of it: the new INTEGRAL and FREQ_ADJ (R356, R360); log 165. -/
opaque servoSample : (arg : Bytes) → Word
opaque servoLaw : (kp ki : Nat) → (offset integral freq : Word) → Word × Word

/-- Whether a DMM finds the one before it unanswered, and whether the results of a period start again after they have been
notified (R356, R360); log 165. -/
opaque dmMissed : Nat → Bool
opaque svcFresh : Bool

/-- What the rules of a SETTINGS image make of a record of an earlier format (R430, R449); log 125. -/
opaque settingsConvert : (image : Bytes) → (key : Nat) → (value : Bytes) → Nat × Bytes

/-- The number of records the settings store holds (the PUT of R449 can find it full; the spec gives no number); log 125. -/
opaque settingsCapacity : Nat

/-- The code, less 1, with which an update command that a pre-emption stops completes: not OK, for it was not done in full
(R13; R443 names none); log 129. -/
opaque preemptCode : Nat → Fin 15

/-- The section of a MICROCODE image that holds the microcode of the T-die (R430 names it, no rule gives its place); log
164. -/
opaque tSection : Bytes → Bytes

/-- What the two copies of the boot control record hold after a failed write whose repair failed as well (R453):
0 the record before, 1 the trial record, 2 the repaired record, any other value no valid record; log 127. -/
opaque bcrLeft : Nat → Nat × Nat

/-- The estimate of the package power in W (R395 names its reading, no rule its value); log 117. -/
opaque packagePower : Nat → Nat

/-- The code of the fatal record of stack F0 going out of service (R28 names severity F, no rule a code); log 24. -/
opaque f0Code : Nat

/-- CODE and DETAIL of a boot that finds no valid owner configuration (R531 names no pair); log 24. -/
opaque noOwner : Nat × Nat

/-- CODE and DETAIL of a set slot that is not VERIFIED (R456 names no pair); log 24. -/
opaque slotBad : Nat × Nat

/-- How the context of CALIB_ABSENT names the condition of R486 that fails, counted from 0 (R492 gives no numbers); log 24. -/
opaque calibCheck : Nat → Nat

/-- What host memory holds, how its read ends, and what a word that is read is found to be, for a command written with
REG_WRITE, whose operands carry no data from outside: free, as any host memory may stand there; log 9. -/
opaque hostBytes : Nat → Bytes
opaque hostEnd : Nat → Nat
opaque wordEcc : Nat → Nat

/-- How the switching of an ACTIVATE written with REG_WRITE ends; log 9. -/
opaque switchEnd : Nat → Nat

/-- What the instruction register of the TAP captures, whose length is the register's, and the instruction of each of its
codes (R538 names instructions and no code); log 147. -/
opaque tapIr : List Bool
opaque tapCode : List Bool → Nat

/-- The number of packets of a queue that its list still reaches once a word of it is bad (R257 gives none); log 154. -/
opaque listReach : Nat → Nat

/-- The number of packets that a FLUSH which times out has discarded (R261 gives none); log 80. -/
opaque flushSoFar : Nat → Nat

/-- What the boot code and the steward write to the UART, possibly nothing (R396 and R531 name no text); log 24. -/
opaque bootLog : Nat → Bytes

/-- The units of its output that a seal command has written when a read of its text fails (R423 gives none); log 156. -/
opaque sealPart : Nat → Nat

/-- The bytes of a record that have reached the flash when its programming is cut off (R491 calls the area invalid and
says no more); log 140. -/
opaque flashPart : Nat → Nat

/-- How far the T-die's copy of the timebase stands from the master at a time, in ticks of 0.1 ns, before it is brought
below 2 ns either way (01_architecture.md gives the bound alone); log 158. -/
opaque copyOffset : Nat → Nat

end Config

end Sys2Proof
end

