-- ==== Sys2Proof/Machine/Crypto.lean ====
section
/-! DEFINITION. The cryptographic algorithms that the spec names: SHA-384 (R49), ECDSA over P-384 (R49), AES-256,
GCM (R414 to R421) and AES key wrap with padding (R410 to R413). -/

namespace Sys2Proof.Machine

/-! ### SHA-384 (FIPS 180-4) -/

/-- The primes below `n`, for `n` up to 528: a composite number below 23² has a prime factor of at most 19. -/
def smallPrimes (n : Nat) : List Nat :=
  ((List.range n).drop 2).filter (fun k => [2, 3, 5, 7, 11, 13, 17, 19].all (fun p => k == p || k % p != 0))

/-- The whole part of the `e`-th root of `n`, its bits below `bits` found from the highest; `a` holds those found. -/
def rootFloor (e n : Nat) : (bits : Nat) → (a : Nat) → Nat
  | 0, a => a
  | k + 1, a => rootFloor e n k (if (a + 2 ^ k) ^ e ≤ n then a + 2 ^ k else a)

/-- The first 64 bits of the fractional part of the `e`-th root of `p`. -/
def rootFrac (e p : Nat) : Word := BitVec.ofNat 64 (rootFloor e (p * 2 ^ (64 * e)) 69 0)

/-- The 80 round constants: the cube roots of the first 80 primes. -/
def sha512K : List Word := (smallPrimes 410).map (rootFrac 3)

/-- The initial hash value of SHA-384: the square roots of the ninth to the sixteenth prime. -/
def sha384Init : List Word := ((smallPrimes 54).drop 8).map (rootFrac 2)

/-- Rotation to the right. -/
def rotr (x : Word) (n : Nat) : Word := (x >>> n) ||| (x <<< (64 - n))

/-- The message schedule: `ws` holds the words so far, newest first. -/
def sha512Expand : Nat → List Word → List Word
  | 0, ws => ws
  | n + 1, ws =>
    let w := fun (i : Nat) => ws.getD (i - 1) 0
    let s0 := rotr (w 15) 1 ^^^ rotr (w 15) 8 ^^^ (w 15 >>> 7)
    let s1 := rotr (w 2) 19 ^^^ rotr (w 2) 61 ^^^ (w 2 >>> 6)
    sha512Expand n ((w 16 + s0 + w 7 + s1) :: ws)

/-- One round on the working variables a to h. -/
def sha512Round (v : List Word) (kw : Word × Word) : List Word :=
  match v with
  | [a, b, c, d, e, f, g, h] =>
    let t1 := h + (rotr e 14 ^^^ rotr e 18 ^^^ rotr e 41) + ((e &&& f) ^^^ (~~~e &&& g)) + kw.1 + kw.2
    let t2 := (rotr a 28 ^^^ rotr a 34 ^^^ rotr a 39) + ((a &&& b) ^^^ (a &&& c) ^^^ (b &&& c))
    [t1 + t2, a, b, c, d + t1, e, f, g]
  | _ => v

/-- One block of 128 bytes. -/
def sha512Block (hs : List Word) (blk : Bytes) : List Word :=
  let w16 := (List.range 16).map (fun i => BitVec.ofNat 64 (beAt (8 * i) 8 blk))
  let ws := (sha512Expand 64 w16.reverse).reverse
  let v := (sha512K.zip ws).foldl sha512Round hs
  (hs.zip v).map (fun p => p.1 + p.2)

/-- The padded message. -/
def sha512Pad (m : Bytes) : Bytes :=
  m ++ [0x80] ++ zeros ((128 - (m.length + 17) % 128) % 128) ++ toBe 16 (8 * m.length)

/-- The first `n` blocks of a message. -/
def sha512Run : Nat → Bytes → List Word → List Word
  | 0, _, hs => hs
  | n + 1, m, hs => sha512Run n (m.drop 128) (sha512Block hs (m.take 128))

/-- SHA-384: 48 bytes. -/
def sha384 (m : Bytes) : Bytes :=
  let p := sha512Pad m
  (sha512Run (p.length / 128) p sha384Init).flatMap (fun w => toBe 8 w.toNat) |>.take 48

/-! ### One SHA-1 block (FIPS 180-4), for the vendor action SHA1 (R355) -/

def rotl32 (x : BitVec 32) (n : Nat) : BitVec 32 := (x <<< n) ||| (x >>> (32 - n))

/-- The four round constants: 2^30 times the square roots of 2, 3, 5 and 10. -/
def sha1K (t : Nat) : BitVec 32 := BitVec.ofNat 32 (rootFloor 2 (([2, 3, 5, 10].getD (t / 20) 0) * 2 ^ 60) 32 0)

/-- The message schedule, newest word first. -/
def sha1Expand : Nat → List (BitVec 32) → List (BitVec 32)
  | 0, l => l
  | n + 1, l => sha1Expand n (rotl32 ([2, 7, 13, 15].foldl (fun x i => x ^^^ l.getD i 0) 0) 1 :: l)

/-- The function of round `t`: choice, parity, majority, parity. -/
def sha1F (t : Nat) (x y z : BitVec 32) : BitVec 32 :=
  match t / 20 with
  | 0 => (x &&& y) ||| (~~~x &&& z)
  | 2 => (x &&& y) ||| (x &&& z) ||| (y &&& z)
  | _ => x ^^^ y ^^^ z

/-- The working variables after round `t` with schedule word `w`. -/
def sha1Round (w : BitVec 32) (t : Nat) : List (BitVec 32) → List (BitVec 32)
  | [a, b, c, d, e] => [rotl32 a 5 + sha1F t b c d + e + sha1K t + w, a, rotl32 b 30, c, d]
  | v => v

/-- The digest of one block of 64 bytes: 20 bytes. -/
def sha1Block (blk : Bytes) : Bytes :=
  let h0 : List (BitVec 32) := [0x67452301, 0xEFCDAB89, 0x98BADCFE, 0x10325476, 0xC3D2E1F0]
  let ws := (sha1Expand 64 ((List.range 16).map (fun i => BitVec.ofNat 32 (beAt (4 * i) 4 blk))).reverse).reverse
  let v := (ws.zip (List.range 80)).foldl (fun v x => sha1Round x.1 x.2 v) h0
  ((h0.zip v).map (fun p => p.1 + p.2)).flatMap (fun w => toBe 4 w.toNat)

/-! ### ECDSA over P-384 (FIPS 186-5) -/

def p384P : Nat := 2 ^ 384 - 2 ^ 128 - 2 ^ 96 + 2 ^ 32 - 1
def p384N : Nat := 0xffffffffffffffffffffffffffffffffffffffffffffffffc7634d81f4372ddf581a0db248b0a77aecec196accc52973
def p384B : Nat := 0xb3312fa7e23ee7e4988e056be3f82d19181d9c6efe8141120314088f5013875ac656398d8a2ed19d2a85c8edd3ec2aef
def p384Gx : Nat := 0xaa87ca22be8b05378eb1c71ef320ad746e1d3b628ba79b9859f741e082542a385502f25dbf55296c3a545e3872760ab7
def p384Gy : Nat := 0x3617de4a96262c6f5d9e98bf9292dc29f8f41dbd289a147ce9da3113b5f0b8c00a60b1ce1d7e819d7a431d7c90ea0e5f

/-- `b ^ e mod m`, `e` read over `k` bits from the lowest. -/
def powMod (m : Nat) : Nat → Nat → Nat → Nat
  | 0, _, _ => 1 % m
  | k + 1, b, e =>
    let r := powMod m k (b * b % m) (e / 2)
    if e % 2 = 1 then r * b % m else r

/-- The inverse modulo a prime. -/
def invMod (m a : Nat) : Nat := powMod m 384 (a % m) (m - 2)

/-- Difference modulo `m`. -/
def subMod (m a b : Nat) : Nat := (a % m + m - b % m) % m

/-- Sum of two points of P-384; none is the point at infinity. -/
def ecAdd : Option (Nat × Nat) → Option (Nat × Nat) → Option (Nat × Nat)
  | none, q => q
  | p, none => p
  | some (x1, y1), some (x2, y2) =>
    if x1 = x2 ∧ (y1 + y2) % p384P = 0 then none
    else
      let l := if x1 = x2 then (3 * x1 * x1 + (p384P - 3)) * invMod p384P (2 * y1) % p384P
        else subMod p384P y2 y1 * invMod p384P (subMod p384P x2 x1) % p384P
      let x3 := subMod p384P (l * l) (x1 + x2)
      some (x3, subMod p384P (l * subMod p384P x1 x3) y1)

/-- `k` times a point, `k` read over `n` bits. -/
def ecMul : Nat → Nat → Option (Nat × Nat) → Option (Nat × Nat)
  | 0, _, _ => none
  | n + 1, k, p =>
    let r := ecMul n (k / 2) (ecAdd p p)
    if k % 2 = 1 then ecAdd p r else r

/-- A public key is a point of the curve. -/
def onCurve (q : Nat × Nat) : Bool :=
  q.1 < p384P && q.2 < p384P && (q.2 * q.2) % p384P == (q.1 * q.1 * q.1 + (p384P - 3) * q.1 + p384B) % p384P

/-- The signature (r, s) of a message digest verifies under a public key. -/
def ecdsaVerify (q : Nat × Nat) (digest : Bytes) (r s : Nat) : Bool :=
  if onCurve q && 0 < r && r < p384N && 0 < s && s < p384N then
    let w := invMod p384N s
    let u1 := beNat digest * w % p384N
    let u2 := r * w % p384N
    match ecAdd (ecMul 384 u1 (some (p384Gx, p384Gy))) (ecMul 384 u2 (some q)) with
    | none => false
    | some (x, _) => x % p384N == r
  else false

/-! ### AES-256 (FIPS 197) -/

/-- Multiplication by x in GF(2^8). -/
def xtime (a : Nat) : Nat := (2 * a % 256) ^^^ (if 128 ≤ a then 0x1B else 0)

/-- Multiplication in GF(2^8), `b` read over `n` bits. -/
def gfMul8 : Nat → Nat → Nat → Nat
  | 0, _, _ => 0
  | n + 1, a, b => (if b % 2 = 1 then a else 0) ^^^ gfMul8 n (xtime a) (b / 2)

def gf (a b : Nat) : Nat := gfMul8 8 a b

/-- The inverse in GF(2^8): the 254th power; 0 stays 0. -/
def gfInv (a : Nat) : Nat :=
  let a2 := gf a a
  let a4 := gf a2 a2
  let a8 := gf a4 a4
  let a16 := gf a8 a8
  let a32 := gf a16 a16
  let a64 := gf a32 a32
  gf (gf (gf a2 a4) (gf a8 a16)) (gf (gf a32 a64) (gf a64 a64))

/-- Rotation of a byte to the left. -/
def rotl8 (a n : Nat) : Nat := (a * 2 ^ n) % 256 ||| (a / 2 ^ (8 - n))

/-- SubBytes. -/
def sbox (a : Nat) : Nat :=
  let b := gfInv a
  b ^^^ rotl8 b 1 ^^^ rotl8 b 2 ^^^ rotl8 b 3 ^^^ rotl8 b 4 ^^^ 0x63

/-- InvSubBytes. -/
def sboxInv (a : Nat) : Nat := gfInv (rotl8 a 1 ^^^ rotl8 a 3 ^^^ rotl8 a 6 ^^^ 0x05)

/-- The key schedule of AES-256: 240 bytes, built word by word; `w` holds the words so far, newest first, `i` their
number. -/
def aesExpand : Nat → Nat → Nat → List (List Nat) → List (List Nat)
  | 0, _, _, w => w
  | n + 1, i, rcon, w =>
    let prev := w.getD 0 [0, 0, 0, 0]
    let back := w.getD 7 [0, 0, 0, 0]
    let t :=
      if i % 8 = 0 then
        match prev with
        | [a, b, c, d] => [sbox b ^^^ rcon, sbox c, sbox d, sbox a]
        | l => l
      else if i % 8 = 4 then prev.map sbox
      else prev
    aesExpand n (i + 1) (if i % 8 = 0 then xtime rcon else rcon) (((back.zip t).map (fun p => p.1 ^^^ p.2)) :: w)

/-- The 15 round keys of a 32-byte key, 16 numbers each. -/
def aesKeys (key : Bytes) : List (List Nat) :=
  let k := (List.range 8).map (fun i => (List.range 4).map (fun j => byteAt (4 * i + j) key))
  let ws := (aesExpand 52 8 1 k.reverse).reverse
  (List.range 15).map (fun r => ((ws.drop (4 * r)).take 4).flatten)

def xorL (a b : List Nat) : List Nat := (a.zip b).map (fun p => p.1 ^^^ p.2)

/-- ShiftRows: byte 4c + r takes byte 4(c + r) + r. -/
def shiftRows (s : List Nat) : List Nat :=
  (List.range 16).map (fun i => s.getD (4 * ((i / 4 + i % 4) % 4) + i % 4) 0)

def invShiftRows (s : List Nat) : List Nat :=
  (List.range 16).map (fun i => s.getD (4 * ((i / 4 + 4 - i % 4) % 4) + i % 4) 0)

/-- A column times the circulant of (a, b, c, d). -/
def mixWith (a b c d : Nat) (s : List Nat) : List Nat :=
  (List.range 16).map (fun i =>
    let x := fun k => s.getD (4 * (i / 4) + (i % 4 + k) % 4) 0
    gf a (x 0) ^^^ gf b (x 1) ^^^ gf c (x 2) ^^^ gf d (x 3))

/-- Rounds 1 to 14 of encryption. -/
def aesRounds : List (List Nat) → List Nat → List Nat
  | [], s => s
  | [k], s => xorL (shiftRows (s.map sbox)) k
  | k :: ks, s => aesRounds ks (xorL (mixWith 2 3 1 1 (shiftRows (s.map sbox))) k)

/-- One block under AES-256. -/
def aesEnc (key blk : Bytes) : Bytes :=
  match aesKeys key with
  | k0 :: ks => (aesRounds ks (xorL (blk.map (·.toNat)) k0)).map (BitVec.ofNat 8)
  | [] => blk

/-- The rounds of decryption; the keys come last first. -/
def aesInvRounds : List (List Nat) → List Nat → List Nat
  | [], s => s
  | [k], s => xorL ((invShiftRows s).map sboxInv) k
  | k :: ks, s => aesInvRounds ks (mixWith 14 11 13 9 (xorL ((invShiftRows s).map sboxInv) k))

/-- The inverse cipher. -/
def aesDec (key blk : Bytes) : Bytes :=
  match (aesKeys key).reverse with
  | k0 :: ks => (aesInvRounds ks (xorL (blk.map (·.toNat)) k0)).map (BitVec.ofNat 8)
  | [] => blk

/-! ### GCM (NIST SP 800-38D) -/

/-- Multiplication in GF(2^128), bit 0 of the block the most significant bit of the number; `v` walks through the
multiples of y. -/
def ghashMulN : Nat → Nat → Nat → Nat → Nat
  | 0, _, _, z => z
  | n + 1, x, v, z =>
    ghashMulN n x (if v % 2 = 1 then (v / 2) ^^^ (0xE1 * 2 ^ 120) else v / 2) (if x.testBit n then z ^^^ v else z)

def ghashMul (x y : Nat) : Nat := ghashMulN 128 x y 0

/-- The blocks of 16 bytes of a string, the last padded with zeros. -/
def blocks16 (b : Bytes) : List Bytes := (List.range (ceilDiv b.length 16)).map (fun i => slice (16 * i) 16 b)

/-- GHASH over AAD and text. -/
def ghash (h : Nat) (aad text : Bytes) : Nat :=
  let l := blocks16 aad ++ blocks16 text ++ [toBe 8 (8 * aad.length) ++ toBe 8 (8 * text.length)]
  l.foldl (fun y b => ghashMul (y ^^^ beNat b) h) 0

def xorBytes (a b : Bytes) : Bytes := (a.zip b).map (fun p => p.1 ^^^ p.2)

/-- Counter mode from counter 2 on, under a 96-bit IV. -/
def gcmCtr (key iv text : Bytes) : Bytes :=
  (List.range (ceilDiv text.length 16)).flatMap (fun i =>
    xorBytes ((text.drop (16 * i)).take 16) (aesEnc key (iv ++ toBe 4 ((i + 2) % 2 ^ 32))))

/-- The full tag of a ciphertext. -/
def gcmTag (key iv aad cipher : Bytes) : Bytes :=
  let h := beNat (aesEnc key (zeros 16))
  xorBytes (toBe 16 (ghash h aad cipher)) (aesEnc key (iv ++ toBe 4 1))

/-! ### AES key wrap with padding (RFC 5649) -/

/-- One step of the unwrapping: `t` counts down, `a` is the check half, `rs` the blocks. -/
def unwrapStep (key : Bytes) (n t : Nat) (s : Bytes × List Bytes) : Bytes × List Bytes :=
  let i := (t - 1) % n
  let b := aesDec key (toBe 8 (beNat s.1 ^^^ t) ++ s.2.getD i (zeros 8))
  (b.take 8, s.2.set i (b.drop 8))

/-- The unwrapping of 48 bytes: the check half and the 40 bytes. -/
def unwrapRaw (key wrapped : Bytes) : Bytes × Bytes :=
  let rs := (List.range 5).map (fun i => slice (8 * (i + 1)) 8 wrapped)
  let s := (List.range 30).foldl (fun s k => unwrapStep key 5 (30 - k) s) (slice 0 8 wrapped, rs)
  (s.1, s.2.flatten)

/-- The 40-byte key record, where the alternative initial value and length check (R411). -/
def unwrapKey (key wrapped : Bytes) : Option Bytes :=
  let r := unwrapRaw key wrapped
  if r.1 == toBe 4 0xA65959A6 ++ toBe 4 40 then some r.2 else none

end Sys2Proof.Machine
end

