-- ==== Sys2Proof/Machine/Image.lean ====
section
/-! DEFINITION. The signed container of plate, calendar and customer images: section table, CRCs, signature block, and
the checks made as the bytes arrive (R46 to R52, R550). -/

namespace Sys2Proof.Machine

/-- A failure: completion code and DETAIL. -/
abbrev Fail := Nat × Nat

/-- An entry of a section table (R47). -/
structure Sec where
  type : Nat
  inst : Nat
  res  : Nat
  off  : Nat
  len  : Nat
  crc  : Nat
  deriving DecidableEq, Repr

/-- What a kind of image fixes: the magic number, and the types and counts of its sections. -/
structure ImgKind where
  magic  : Nat
  counts : List Nat
  once   : List Nat
  perInst : Option (Nat × Nat)
  deriving DecidableEq, Repr

/-- A plate (R41, R46): section 0x03 has an instance for each pipeline. -/
def plateKind : ImgKind :=
  { magic := 0x4C50554F, counts := [21, 22], once := [1, 2, 4, 5, 6], perInst := some (3, 16) }

/-- A customer image of the burin (R365). -/
def burinKind : ImgKind := { magic := 0x5242554F, counts := [3, 4], once := [1, 2, 3], perInst := none }

/-- Header fields (R46). -/
def imgCount (b : Bytes) : Nat := leAt 6 2 b
def imgLength (b : Bytes) : Nat := leAt 8 4 b

/-- The end of the section table. -/
def tableEnd (b : Bytes) : Nat := 0x40 + 16 * imgCount b

def imgSec (b : Bytes) (i : Nat) : Sec :=
  let o := 0x40 + 16 * i
  { type := byteAt o b, inst := byteAt (o + 1) b, res := leAt (o + 2) 2 b, off := leAt (o + 4) 4 b,
    len := leAt (o + 8) 4 b, crc := leAt (o + 12) 4 b }

def imgSecs (b : Bytes) : List Sec := (List.range (imgCount b)).map (imgSec b)

/-- The bytes of a section. -/
def secBytes (b : Bytes) (x : Sec) : Bytes := slice x.off x.len b

/-- The sections of a list follow one another from `start` on and end at the image's end, rounded up to 64 (R47). -/
def secsFollow (len : Nat) : Nat → List Sec → Bool
  | last, [] => len == ceilDiv last 64 * 64
  | last, x :: xs =>
    x.off % 64 == 0 && last ≤ x.off && x.off + x.len ≤ len && x.res == 0 && secsFollow len (x.off + x.len) xs

/-- Check 6: the layout of the section table and IMAGE_LENGTH. -/
def secsLayoutOk (b : Bytes) : Bool := tableEnd b ≤ imgLength b && secsFollow (imgLength b) (tableEnd b) (imgSecs b)

/-- Check 7: section types, instances and counts (R41); type 0x0F, INFO, may stand once. -/
def secsTypesOk (k : ImgKind) (xs : List Sec) : Bool :=
  k.counts.contains xs.length &&
  xs.all (fun x =>
    match k.perInst with
    | some (t, n) => if x.type = t then x.inst < n else x.inst == 0
    | none => x.inst == 0) &&
  xs.all (fun x => k.once.contains x.type || x.type == 0x0F || (k.perInst.map (·.1)) == some x.type) &&
  k.once.all (fun t => xs.countP (fun x => x.type == t) == 1) && xs.countP (fun x => x.type == 0x0F) ≤ 1 &&
  (match k.perInst with
   | some (t, n) => (List.range n).all (fun i => xs.countP (fun x => x.type == t && x.inst == i) == 1)
   | none => true)

/-- The first failure of a list of (holds, failure). -/
def firstBad : List (Bool × Fail) → Option Fail
  | [] => none
  | (ok, f) :: l => if ok then firstBad l else some f

/-- DEV_ID and DEV_STEP. -/
def devId : Nat := 0x0B9A9600
def devStep : Nat := 0xA1

/-- Checks 2 to 5, on a whole header (R51). -/
def headerChecks (k : ImgKind) (argLen : Nat) (b : Bytes) : List (Bool × Fail) :=
  [(leAt 0 4 b == k.magic, (0x09, 0x01)), (leAt 4 2 b == 1, (0x09, 0x02)),
   (leAt 0x10 4 b == devId && leAt 0x14 4 b == devStep, (0x09, 0x03)), (imgLength b + 512 == argLen, (0x06, 0x05))]

/-- The checks of R51 that the bytes arrived so far decide, in order: 2 to 5, 6 and 7, 8 of each section, 9 (R550). A
header or a section table that the whole transfer does not hold is judged at its end, its missing bytes as 0. -/
def arrivedChecks (k : ImgKind) (argLen : Nat) (b : Bytes) : List (Bool × Fail) :=
  if b.length < 64 && b.length < argLen then []
  else
    headerChecks k argLen b ++
    (if b.length < tableEnd b && b.length < argLen then []
     else
      [(secsLayoutOk b, (0x06, 0x06)), (secsTypesOk k (imgSecs b), (0x09, 0x07))] ++
      (((imgSecs b).filter (fun x => x.off + x.len ≤ b.length)).map
        (fun x => (crc32c (secBytes b x) == x.crc, (0x0A, 0x09)))) ++
      (if b.length < imgLength b then []
       else [(crc32c (patch 0x0C (zeros 4) (b.take (imgLength b))) == leAt 0x0C 4 b, (0x0A, 0x08))]))

/-- The first failure that the arrived bytes show. -/
def arrivedFail (k : ImgKind) (argLen : Nat) (b : Bytes) : Option Fail := firstBad (arrivedChecks k argLen b)

/-! ### Signature blocks (R49, R50) -/

/-- Keys of the owner configuration: four places, and the mask of those revoked. -/
structure KeySet where
  keys    : List (Option (Nat × Nat))
  revoked : Nat
  deriving DecidableEq, Repr

/-- The key that a signature block names: present and not revoked. -/
def KeySet.key (k : KeySet) (i : Nat) : Option (Nat × Nat) :=
  if i < 4 && !nbit k.revoked i then (k.keys.getD i none) else none

/-- Check 10: magic, algorithm, reserved bytes and key. -/
def sigKeyOk (k : KeySet) (sig : Bytes) : Bool :=
  leAt 0 4 sig == 0x4753554F && leAt 4 2 sig == 1 && allZero (slice 152 360 sig) && (k.key (leAt 6 2 sig)).isSome

/-- Check 11: the digest of the signed bytes, and the signature over it. -/
def sigVerifyOk (k : KeySet) (signed sig : Bytes) : Bool :=
  slice 8 48 sig == sha384 signed &&
  (match k.key (leAt 6 2 sig) with
   | some q => ecdsaVerify q (slice 8 48 sig) (beAt 56 48 sig) (beAt 104 48 sig)
   | none => false)

/-- Checks 10 and 11 on a block behind the signed bytes. -/
def sigChecks (k : KeySet) (signed sig : Bytes) : List (Bool × Fail) :=
  [(sigKeyOk k sig, (0x0A, 0x0A)), (sigVerifyOk k signed sig, (0x0A, 0x0B))]

/-- Checks 10 and 11 on an image with its signature block. -/
def imgSigChecks (k : KeySet) (b : Bytes) : List (Bool × Fail) :=
  sigChecks k (b.take (imgLength b)) (slice (imgLength b) 512 b)

end Sys2Proof.Machine
end

