-- ==== Sys2Proof/Machine/Regs.lean ====
section
/-! DEFINITION. The register map of BAR0: every register of the spec's register tables, with its offset, its array
form, and each field's bits, class, access, reset value and stated range (R5, R11, R17, R548). -/

namespace Sys2Proof.Machine

/-- The access codes of R10's table. -/
inductive Access where
  | rw | ro | wo | w1c | rc
  deriving DecidableEq, Repr

/-- The field classes of R11. -/
inductive FieldClass where
  | live | quiesce | boot | plate
  deriving DecidableEq, Repr

/-- One field of a register: bits [hi:lo], access, class, reset value; `ranges` lists the values a table states
(none listed: every value of the width), `mult` the multiple it states. -/
structure FieldDesc where
  hi     : Nat
  lo     : Nat
  acc    : Access
  cls    : FieldClass
  reset  : Nat
  ranges : List (Nat × Nat)
  mult   : Nat
  deriving DecidableEq, Repr

/-- The registers of the device, each name of the manual once; arrays carry their index apart. -/
inductive Reg where
  | devId | devStep | devWhoami | bootState | bootFabFail0 | bootFabFail1 | plateCmd | plateArg0 | plateArg1
  | plateStatus | plateBank | plateId | plateVer | plateCtl | plateQstat | plateSwapTs0 | plateSwapTs1
  | plateDrainNs | plateSwapCount | plateDrainDrop | plateEccCorr | plateEccUncorr | plateRecircDrop
  | plateMetaReject | platePipe | lineOctetCfg | lineSynceCfg | linePortCfg | linePortStat | linePfcCfg
  | linePtpAdj | lineTsFifoHi | lineTsFifoLo | lineCtr | reorderCfg | reorderRecircSkip | reorderRecircLate
  | parserGraphInfo | parserTpid | parserCtr | ppmCmd | ppmStatus | ppmCfg | ppmData | ppmEccCorr | ppmEccUncorr
  | tblCmd | tblArg | tblStatus | tblData | tblRingBase | tblRingCfg | tblRingHead | tblRingTail | tblStencilRoot
  | tblAgeCfg | tblLearnCfg | tblScrubCfg | tblEvqBase | tblEvqCfg | tblEvqHead | tblEvqTail | tblPipeCtr
  | tblDevCtr | asaCmd | asaArg | asaStatus | asaCtl | asaData | asaTableCfg | asaScrubCfg | asaTableCtr
  | asaDevCtr | bpmPoolStat | bpmSharedStat | bpmStack | bpmCfg | bpmQuota | bpmUsed | bpmCmd | bpmArg | bpmStatus
  | bpmData | bpmReqCtr | bpmDevCtr | qCmd | qArg | qStatus | qCtl | qData | qAdmitCfg | qFbShared | qFbStat
  | qCreditCfg | qRecircCfg | qPortCfg | qPortTcw | qPfc | qPortDepth | qDevCtr | schedCmd | schedArg0 | schedArg1
  | schedStatus | schedBank | schedCtl | schedMfOffset | schedMfStat | schedSlack | schedSlackMin | schedVote
  | schedSwapTs0 | schedSwapTs1 | schedCtr | schedFlowCtr | fabCtl | fabDevIndex | fabRxCfg | fabPmStamp0
  | fabPmStamp1 | fabLaneCfg | fabLaneStat | fabGroupCfg | fabGroupStat | fabReach | fabTtiTx | fabTtiExp
  | fabTtiAcc | tsiStat | tsiLaneStat | fabLaneCtr | fabGroupCtr | fabDevCtr | burinCmd | burinArg | burinStatus
  | burinCtl | burinData | burinNqBase | burinNqCfg | burinNqHead | burinNqTail | burinCfg | burinCustId
  | burinCustVer | burinEng | burinCtr | pmapLock | pmap | mbxCmd | mbxStatus | mbxData | intStatus | intEnable
  | intRingStatus | intRingEnable | intPinCfg | intVec | pioRingBase | pioRingCfg | pioRingHead | pioRingTail
  | ringCtr | erqStat | erqRec | erqAck | erqFatal | erqFatalClr | erqDropped | sealLock | sealCmd | sealSrc
  | sealDst | sealAad | sealLen | sealIv0 | sealIv1 | sealTag0 | sealTag1 | sealStatus | sealBytesOut | sealCtl
  | sealSlot | sealCtr | sealSlotId | sealCount | updCmd | updArg0 | updArg1 | updStatus | updSession | updPreempt
  | updCfg | updBcr | updRcvd | updCtr | pwrCtl | pwrRailCfg | pwrRailStat | pwrThermCfg | pwrThermStat
  | pwrSensorBad | pwrWakePort | pwrWakePair | pwrWakeGroup | pwrWakeBurin | pwrTbTime0 | pwrTbTime1 | pwrTbStat
  | pwrTbPps0 | pwrTbPps1 | pwrTbCfg | pwrCtr | twinCfg | twinCmd | twinStatus | twinState | twinDigestLocal
  | twinDigestMate | twinDigestMf | twinCtr
  deriving DecidableEq, Repr

/-- One register or register array: its base offset, its dimensions (count and stride, outermost first), whether it
is a 64-bit counter (R8), whether it is one of the per-partition register sets of R381 (the first index is the
partition), whether R548 exempts it as part of a command interface, and its fields. -/
structure RegDesc where
  reg     : Reg
  base    : Nat
  dims    : List (Nat × Nat)
  counter : Bool
  perPart : Bool
  cmdIf   : Bool
  fields  : List FieldDesc
  deriving DecidableEq, Repr

/-! ### Offsets, by the manual's register names -/

namespace R

def devId : Nat := 0x00000000
def devStep : Nat := 0x00000008
def devWhoami : Nat := 0x00000010
def bootState : Nat := 0x00000018
def bootFabFail0 : Nat := 0x00000020
def bootFabFail1 : Nat := 0x00000028
def plateCmd : Nat := 0x00200000
def plateArg0 : Nat := 0x00200008
def plateArg1 : Nat := 0x00200010
def plateStatus : Nat := 0x00200018
def plateBank (i : Nat) : Nat := 0x00200020 + 0x8 * i
def plateId (i : Nat) : Nat := 0x00200030 + 0x8 * i
def plateVer (i : Nat) : Nat := 0x00200040 + 0x8 * i
def plateCtl : Nat := 0x00200050
def plateQstat : Nat := 0x00200058
def plateSwapTs0 : Nat := 0x00200060
def plateSwapTs1 : Nat := 0x00200068
def plateDrainNs : Nat := 0x00200070
def plateSwapCount : Nat := 0x00200078
def plateDrainDrop : Nat := 0x00200080
def plateEccCorr : Nat := 0x00200088
def plateEccUncorr : Nat := 0x00200090
def plateRecircDrop (i : Nat) : Nat := 0x00200100 + 0x8 * i
def plateMetaReject (i : Nat) : Nat := 0x00200180 + 0x8 * i
def platePipe (i : Nat) : Nat := 0x00200200 + 0x8 * i
def lineOctetCfg (i : Nat) : Nat := 0x00400000 + 0x8 * i
def lineSynceCfg (i : Nat) : Nat := 0x00400080 + 0x8 * i
def linePortCfg (i : Nat) : Nat := 0x00410000 + 0x400 * i
def linePortStat (i : Nat) : Nat := 0x00410008 + 0x400 * i
def linePfcCfg (i : Nat) : Nat := 0x00410010 + 0x400 * i
def linePtpAdj (i : Nat) : Nat := 0x00410018 + 0x400 * i
def lineTsFifoHi (i : Nat) : Nat := 0x00410020 + 0x400 * i
def lineTsFifoLo (i : Nat) : Nat := 0x00410028 + 0x400 * i
def lineCtr (i j : Nat) : Nat := 0x00410100 + 0x400 * i + 0x8 * j
def reorderCfg : Nat := 0x0060F000
def reorderRecircSkip : Nat := 0x0060F008
def reorderRecircLate : Nat := 0x0060F010
def parserGraphInfo : Nat := 0x00601000
def parserTpid : Nat := 0x00601008
def parserCtr (i j : Nat) : Nat := 0x00602000 + 0x100 * i + 0x8 * j
def ppmCmd : Nat := 0x00608000
def ppmStatus : Nat := 0x00608008
def ppmCfg : Nat := 0x00608010
def ppmData (i : Nat) : Nat := 0x00608040 + 0x8 * i
def ppmEccCorr : Nat := 0x00608100
def ppmEccUncorr : Nat := 0x00608108
def tblCmd (i : Nat) : Nat := 0x00800000 + 0x1000 * i
def tblArg (i : Nat) : Nat := 0x00800008 + 0x1000 * i
def tblStatus (i : Nat) : Nat := 0x00800010 + 0x1000 * i
def tblData (i j : Nat) : Nat := 0x00800040 + 0x1000 * i + 0x8 * j
def tblRingBase (i : Nat) : Nat := 0x00800080 + 0x1000 * i
def tblRingCfg (i : Nat) : Nat := 0x00800088 + 0x1000 * i
def tblRingHead (i : Nat) : Nat := 0x00800090 + 0x1000 * i
def tblRingTail (i : Nat) : Nat := 0x00800098 + 0x1000 * i
def tblStencilRoot (i : Nat) : Nat := 0x00804000 + 0x8 * i
def tblAgeCfg : Nat := 0x00804200
def tblLearnCfg : Nat := 0x00804208
def tblScrubCfg : Nat := 0x00804210
def tblEvqBase : Nat := 0x00804218
def tblEvqCfg : Nat := 0x00804220
def tblEvqHead : Nat := 0x00804228
def tblEvqTail : Nat := 0x00804230
def tblPipeCtr (i j : Nat) : Nat := 0x00805000 + 0x100 * i + 0x8 * j
def tblDevCtr (i : Nat) : Nat := 0x00806000 + 0x8 * i
def asaCmd (i : Nat) : Nat := 0x00A00000 + 0x1000 * i
def asaArg (i : Nat) : Nat := 0x00A00008 + 0x1000 * i
def asaStatus (i : Nat) : Nat := 0x00A00010 + 0x1000 * i
def asaCtl (i : Nat) : Nat := 0x00A00018 + 0x1000 * i
def asaData (i j : Nat) : Nat := 0x00A00040 + 0x1000 * i + 0x8 * j
def asaTableCfg (i : Nat) : Nat := 0x00A04000 + 0x8 * i
def asaScrubCfg : Nat := 0x00A04080
def asaTableCtr (i j : Nat) : Nat := 0x00A05000 + 0x40 * i + 0x8 * j
def asaDevCtr (i : Nat) : Nat := 0x00A06000 + 0x8 * i
def bpmPoolStat (i : Nat) : Nat := 0x00C00000 + 0x8 * i
def bpmSharedStat (i : Nat) : Nat := 0x00C00020 + 0x8 * i
def bpmStack (i : Nat) : Nat := 0x00C00040 + 0x8 * i
def bpmCfg : Nat := 0x00C00068
def bpmQuota (i j : Nat) : Nat := 0x00C01000 + 0x10 * i + 0x8 * j
def bpmUsed (i j : Nat) : Nat := 0x00C01200 + 0x10 * i + 0x8 * j
def bpmCmd (i : Nat) : Nat := 0x00C02000 + 0x100 * i
def bpmArg (i : Nat) : Nat := 0x00C02008 + 0x100 * i
def bpmStatus (i : Nat) : Nat := 0x00C02010 + 0x100 * i
def bpmData (i : Nat) : Nat := 0x00C02018 + 0x100 * i
def bpmReqCtr (i j : Nat) : Nat := 0x00C03000 + 0x40 * i + 0x8 * j
def bpmDevCtr (i : Nat) : Nat := 0x00C04000 + 0x8 * i
def qCmd (i : Nat) : Nat := 0x00D00000 + 0x1000 * i
def qArg (i : Nat) : Nat := 0x00D00008 + 0x1000 * i
def qStatus (i : Nat) : Nat := 0x00D00010 + 0x1000 * i
def qCtl (i : Nat) : Nat := 0x00D00018 + 0x1000 * i
def qData (i j : Nat) : Nat := 0x00D00040 + 0x1000 * i + 0x8 * j
def qAdmitCfg : Nat := 0x00D04000
def qFbShared : Nat := 0x00D04008
def qFbStat : Nat := 0x00D04010
def qCreditCfg : Nat := 0x00D04018
def qRecircCfg : Nat := 0x00D04020
def qPortCfg (i : Nat) : Nat := 0x00D04400 + 0x8 * i
def qPortTcw (i : Nat) : Nat := 0x00D04700 + 0x8 * i
def qPfc (i : Nat) : Nat := 0x00D04A00 + 0x8 * i
def qPortDepth (i : Nat) : Nat := 0x00D04D00 + 0x8 * i
def qDevCtr (i : Nat) : Nat := 0x00D06000 + 0x8 * i
def schedCmd : Nat := 0x01000000
def schedArg0 : Nat := 0x01000008
def schedArg1 : Nat := 0x01000010
def schedStatus : Nat := 0x01000018
def schedBank (i : Nat) : Nat := 0x01000020 + 0x8 * i
def schedCtl : Nat := 0x01000030
def schedMfOffset : Nat := 0x01000038
def schedMfStat : Nat := 0x01000040
def schedSlack : Nat := 0x01000048
def schedSlackMin : Nat := 0x01000050
def schedVote : Nat := 0x01000058
def schedSwapTs0 : Nat := 0x01000060
def schedSwapTs1 : Nat := 0x01000068
def schedCtr (i : Nat) : Nat := 0x01000100 + 0x8 * i
def schedFlowCtr (i j : Nat) : Nat := 0x01008000 + 0x20 * i + 0x8 * j
def fabCtl : Nat := 0x01100000
def fabDevIndex : Nat := 0x01100008
def fabRxCfg : Nat := 0x01100010
def fabPmStamp0 : Nat := 0x01100018
def fabPmStamp1 : Nat := 0x01100020
def fabLaneCfg (i : Nat) : Nat := 0x01101000 + 0x8 * i
def fabLaneStat (i : Nat) : Nat := 0x01101400 + 0x8 * i
def fabGroupCfg (i : Nat) : Nat := 0x01102000 + 0x8 * i
def fabGroupStat (i : Nat) : Nat := 0x01102100 + 0x8 * i
def fabReach (i : Nat) : Nat := 0x01104000 + 0x8 * i
def fabTtiTx (i j : Nat) : Nat := 0x0110C000 + 0x40 * i + 0x8 * j
def fabTtiExp (i j : Nat) : Nat := 0x0110E000 + 0x40 * i + 0x8 * j
def fabTtiAcc (i j : Nat) : Nat := 0x01110000 + 0x40 * i + 0x8 * j
def tsiStat : Nat := 0x01118000
def tsiLaneStat (i : Nat) : Nat := 0x01118100 + 0x8 * i
def fabLaneCtr (i j : Nat) : Nat := 0x01120000 + 0x40 * i + 0x8 * j
def fabGroupCtr (i j : Nat) : Nat := 0x01124000 + 0x40 * i + 0x8 * j
def fabDevCtr (i : Nat) : Nat := 0x01125000 + 0x8 * i
def burinCmd (i : Nat) : Nat := 0x01300000 + 0x1000 * i
def burinArg (i : Nat) : Nat := 0x01300008 + 0x1000 * i
def burinStatus (i : Nat) : Nat := 0x01300010 + 0x1000 * i
def burinCtl (i : Nat) : Nat := 0x01300018 + 0x1000 * i
def burinData (i j : Nat) : Nat := 0x01300040 + 0x1000 * i + 0x8 * j
def burinNqBase (i : Nat) : Nat := 0x01300200 + 0x1000 * i
def burinNqCfg (i : Nat) : Nat := 0x01300208 + 0x1000 * i
def burinNqHead (i : Nat) : Nat := 0x01300210 + 0x1000 * i
def burinNqTail (i : Nat) : Nat := 0x01300218 + 0x1000 * i
def burinCfg : Nat := 0x01308000
def burinCustId : Nat := 0x01308008
def burinCustVer : Nat := 0x01308010
def burinEng (i : Nat) : Nat := 0x01308400 + 0x8 * i
def burinCtr (i : Nat) : Nat := 0x01309000 + 0x8 * i
def pmapLock : Nat := 0x00100000
def pmap (i j : Nat) : Nat := 0x00101000 + 0x100 * i + 0x8 * j
def mbxCmd (i : Nat) : Nat := 0x00108000 + 0x100 * i
def mbxStatus (i : Nat) : Nat := 0x00108008 + 0x100 * i
def mbxData (i j : Nat) : Nat := 0x00108040 + 0x100 * i + 0x8 * j
def intStatus (i : Nat) : Nat := 0x00120000 + 0x1000 * i
def intEnable (i : Nat) : Nat := 0x00120008 + 0x1000 * i
def intRingStatus (i : Nat) : Nat := 0x00120010 + 0x1000 * i
def intRingEnable (i : Nat) : Nat := 0x00120018 + 0x1000 * i
def intPinCfg (i : Nat) : Nat := 0x00120020 + 0x1000 * i
def intVec (i j : Nat) : Nat := 0x00120100 + 0x1000 * i + 0x8 * j
def pioRingBase (i j : Nat) : Nat := 0x00140000 + 0x1000 * i + 0x20 * j
def pioRingCfg (i j : Nat) : Nat := 0x00140008 + 0x1000 * i + 0x20 * j
def pioRingHead (i j : Nat) : Nat := 0x00140010 + 0x1000 * i + 0x20 * j
def pioRingTail (i j : Nat) : Nat := 0x00140018 + 0x1000 * i + 0x20 * j
def ringCtr (i j k : Nat) : Nat := 0x00160000 + 0x1000 * i + 0x20 * j + 0x8 * k
def erqStat (i : Nat) : Nat := 0x01800000 + 0x100 * i
def erqRec (i j : Nat) : Nat := 0x01800008 + 0x100 * i + 0x8 * j
def erqAck (i : Nat) : Nat := 0x01800028 + 0x100 * i
def erqFatal (i j : Nat) : Nat := 0x01800030 + 0x100 * i + 0x8 * j
def erqFatalClr (i : Nat) : Nat := 0x01800050 + 0x100 * i
def erqDropped (i : Nat) : Nat := 0x01800080 + 0x100 * i
def sealLock : Nat := 0x01500000
def sealCmd : Nat := 0x01500008
def sealSrc : Nat := 0x01500010
def sealDst : Nat := 0x01500018
def sealAad : Nat := 0x01500020
def sealLen : Nat := 0x01500028
def sealIv0 : Nat := 0x01500030
def sealIv1 : Nat := 0x01500038
def sealTag0 : Nat := 0x01500040
def sealTag1 : Nat := 0x01500048
def sealStatus : Nat := 0x01500050
def sealBytesOut : Nat := 0x01500058
def sealCtl : Nat := 0x01500060
def sealSlot (i : Nat) : Nat := 0x01500100 + 0x8 * i
def sealCtr (i : Nat) : Nat := 0x01500200 + 0x8 * i
def sealSlotId (i : Nat) : Nat := 0x01500300 + 0x8 * i
def sealCount (i : Nat) : Nat := 0x01500400 + 0x8 * i
def updCmd : Nat := 0x01510000
def updArg0 : Nat := 0x01510008
def updArg1 : Nat := 0x01510010
def updStatus : Nat := 0x01510018
def updSession : Nat := 0x01510020
def updPreempt : Nat := 0x01510028
def updCfg : Nat := 0x01510030
def updBcr : Nat := 0x01510038
def updRcvd (i : Nat) : Nat := 0x01510040 + 0x8 * i
def updCtr (i : Nat) : Nat := 0x01510100 + 0x8 * i
def pwrCtl : Nat := 0x01600000
def pwrRailCfg (i : Nat) : Nat := 0x01600010 + 0x8 * i
def pwrRailStat (i : Nat) : Nat := 0x01600020 + 0x8 * i
def pwrThermCfg : Nat := 0x01600030
def pwrThermStat : Nat := 0x01600038
def pwrSensorBad : Nat := 0x01600040
def pwrWakePort (i : Nat) : Nat := 0x01601000 + 0x8 * i
def pwrWakePair (i : Nat) : Nat := 0x01601400 + 0x8 * i
def pwrWakeGroup (i : Nat) : Nat := 0x01601500 + 0x8 * i
def pwrWakeBurin : Nat := 0x016015C0
def pwrTbTime0 : Nat := 0x01602000
def pwrTbTime1 : Nat := 0x01602008
def pwrTbStat : Nat := 0x01602010
def pwrTbPps0 : Nat := 0x01602018
def pwrTbPps1 : Nat := 0x01602020
def pwrTbCfg : Nat := 0x01602028
def pwrCtr (i : Nat) : Nat := 0x01603000 + 0x8 * i
def twinCfg : Nat := 0x01700000
def twinCmd : Nat := 0x01700008
def twinStatus : Nat := 0x01700010
def twinState : Nat := 0x01700018
def twinDigestLocal : Nat := 0x01700020
def twinDigestMate : Nat := 0x01700028
def twinDigestMf : Nat := 0x01700030
def twinCtr (i : Nat) : Nat := 0x01700100 + 0x8 * i

end R

/-! ### Fields, by the manual's register and field names -/

namespace F

def devIdDevId : Fld := (31, 0)
def devStepDevStep : Fld := (31, 0)
def devWhoamiPmapLocked : Fld := (7, 7)
def devWhoamiPort : Fld := (3, 3)
def devWhoamiFunc : Fld := (2, 2)
def devWhoamiPartition : Fld := (1, 0)
def bootStateReadyMs : Fld := (63, 48)
def bootStateTwinEn : Fld := (43, 43)
def bootStatePcieMode : Fld := (42, 41)
def bootStateBootFlashSel : Fld := (40, 40)
def bootStateFailDetail : Fld := (39, 32)
def bootStateFailCode : Fld := (31, 24)
def bootStateStage : Fld := (15, 8)
def bootStateState : Fld := (7, 0)
def bootFabFail0LanesLow : Fld := (63, 0)
def bootFabFail1LanesHigh : Fld := (55, 0)
def plateCmdGen : Fld := (47, 32)
def plateCmdBank : Fld := (8, 8)
def plateCmdOpcode : Fld := (7, 0)
def plateArg0Addr : Fld := (63, 0)
def plateArg1Length : Fld := (23, 0)
def plateStatusDetail : Fld := (55, 48)
def plateStatusCode : Fld := (39, 32)
def plateStatusLastOp : Fld := (31, 24)
def plateStatusIssuer : Fld := (17, 16)
def plateStatusDrained : Fld := (3, 3)
def plateStatusOverrun : Fld := (2, 2)
def plateStatusDone : Fld := (1, 1)
def plateStatusBusy : Fld := (0, 0)
def plateBankGen : Fld := (47, 32)
def plateBankMetaEmit : Fld := (31, 16)
def plateBankCarvingMatch : Fld := (7, 7)
def plateBankState : Fld := (3, 0)
def plateIdPlateId : Fld := (63, 0)
def plateVerBibasynVersion : Fld := (63, 32)
def plateVerPlateVersion : Fld := (31, 0)
def plateCtlDoneIrqEn : Fld := (16, 16)
def plateCtlPipeQuiesce : Fld := (15, 0)
def plateQstatQuiesced : Fld := (15, 0)
def plateSwapTs0TsLow : Fld := (63, 0)
def plateSwapTs1TsHigh : Fld := (15, 0)
def plateDrainNsDrainNs : Fld := (31, 0)
def platePipeStages : Fld := (15, 8)
def platePipeRole : Fld := (1, 0)
def lineOctetCfgQuiesced : Fld := (4, 4)
def lineOctetCfgMode : Fld := (3, 0)
def lineSynceCfgSquelched : Fld := (16, 16)
def lineSynceCfgFreq : Fld := (9, 8)
def lineSynceCfgEn : Fld := (7, 7)
def lineSynceCfgLane : Fld := (6, 0)
def linePortCfgMaxFrame : Fld := (15, 1)
def linePortCfgPortEn : Fld := (0, 0)
def linePortStatQuiesced : Fld := (11, 11)
def linePortStatPaused : Fld := (10, 3)
def linePortStatRemoteFault : Fld := (2, 2)
def linePortStatLocalFault : Fld := (1, 1)
def linePortStatLinkUp : Fld := (0, 0)
def linePfcCfgPauseMode : Fld := (33, 32)
def linePfcCfgPfcQuanta : Fld := (31, 16)
def linePfcCfgTxEn : Fld := (15, 8)
def linePfcCfgRxEn : Fld := (7, 0)
def linePtpAdjTxAdjPs : Fld := (63, 32)
def linePtpAdjRxAdjPs : Fld := (31, 0)
def lineTsFifoHiValid : Fld := (63, 63)
def lineTsFifoHiTag : Fld := (47, 32)
def lineTsFifoHiTsHigh : Fld := (15, 0)
def lineTsFifoLoTsLow : Fld := (63, 0)
def reorderCfgReorderTimeoutNs : Fld := (31, 0)
def parserGraphInfoTrapRing : Fld := (63, 56)
def parserGraphInfoExcActLen : Fld := (51, 50)
def parserGraphInfoExcActTrunc : Fld := (49, 48)
def parserGraphInfoRecircStart : Fld := (47, 40)
def parserGraphInfoEgressStart : Fld := (39, 32)
def parserGraphInfoIngressStart : Fld := (31, 24)
def parserGraphInfoNumStates : Fld := (8, 0)
def parserTpidTpid1 : Fld := (31, 16)
def parserTpidTpid0 : Fld := (15, 0)
def ppmCmdIndex : Fld := (27, 16)
def ppmCmdOpcode : Fld := (7, 0)
def ppmStatusCode : Fld := (39, 32)
def ppmStatusIssuer : Fld := (17, 16)
def ppmStatusOverrun : Fld := (2, 2)
def ppmStatusDone : Fld := (1, 1)
def ppmStatusBusy : Fld := (0, 0)
def ppmCfgDoneIrqEn : Fld := (8, 8)
def ppmCfgPpmEn : Fld := (0, 0)
def ppmDataData : Fld := (63, 0)
def tblCmdPipeMask : Fld := (63, 48)
def tblCmdTable : Fld := (39, 32)
def tblCmdOpcode : Fld := (7, 0)
def tblArgIndex : Fld := (31, 0)
def tblStatusCode : Fld := (39, 32)
def tblStatusLastOp : Fld := (31, 24)
def tblStatusMoves : Fld := (15, 8)
def tblStatusOverrun : Fld := (2, 2)
def tblStatusDone : Fld := (1, 1)
def tblStatusBusy : Fld := (0, 0)
def tblDataData : Fld := (63, 0)
def tblRingBaseAddr : Fld := (63, 0)
def tblRingCfgQuiesced : Fld := (32, 32)
def tblRingCfgIrqEn : Fld := (17, 17)
def tblRingCfgRingEn : Fld := (16, 16)
def tblRingCfgSizeLog2 : Fld := (4, 0)
def tblRingHeadHead : Fld := (31, 0)
def tblRingTailTail : Fld := (31, 0)
def tblStencilRootValid : Fld := (63, 63)
def tblStencilRootRootBits : Fld := (52, 48)
def tblStencilRootRootBase : Fld := (23, 0)
def tblAgeCfgAgePeriodS : Fld := (31, 16)
def tblAgeCfgAgeEn : Fld := (0, 0)
def tblLearnCfgEvPart : Fld := (17, 16)
def tblLearnCfgEvEn : Fld := (5, 1)
def tblLearnCfgLearnEn : Fld := (0, 0)
def tblScrubCfgScrubEn : Fld := (16, 16)
def tblScrubCfgScrubPeriodMs : Fld := (15, 0)
def tblEvqBaseAddr : Fld := (63, 0)
def tblEvqCfgQuiesced : Fld := (32, 32)
def tblEvqCfgIrqEn : Fld := (17, 17)
def tblEvqCfgEvqEn : Fld := (16, 16)
def tblEvqCfgSizeLog2 : Fld := (4, 0)
def tblEvqHeadHead : Fld := (31, 0)
def tblEvqTailTail : Fld := (31, 0)
def asaCmdTable : Fld := (35, 32)
def asaCmdOpcode : Fld := (7, 0)
def asaArgIndex : Fld := (17, 0)
def asaStatusCode : Fld := (39, 32)
def asaStatusLastOp : Fld := (31, 24)
def asaStatusMoves : Fld := (15, 8)
def asaStatusOverrun : Fld := (2, 2)
def asaStatusDone : Fld := (1, 1)
def asaStatusBusy : Fld := (0, 0)
def asaCtlDoneIrqEn : Fld := (0, 0)
def asaDataData : Fld := (63, 0)
def asaTableCfgQuiesced : Fld := (32, 32)
def asaTableCfgEn : Fld := (16, 16)
def asaTableCfgHoleLog2 : Fld := (15, 12)
def asaTableCfgWidth : Fld := (9, 9)
def asaTableCfgBankCount : Fld := (8, 4)
def asaTableCfgFirstBank : Fld := (3, 0)
def asaScrubCfgScrubEn : Fld := (16, 16)
def asaScrubCfgScrubPeriodMs : Fld := (15, 0)
def bpmPoolStatInService : Fld := (60, 32)
def bpmPoolStatFree : Fld := (28, 0)
def bpmSharedStatSharedFree : Fld := (60, 32)
def bpmSharedStatMinSharedFree : Fld := (28, 0)
def bpmStackUsed : Fld := (58, 32)
def bpmStackState : Fld := (2, 0)
def bpmCfgFailThresh : Fld := (31, 16)
def bpmCfgIrqEn : Fld := (0, 0)
def bpmQuotaRes : Fld := (63, 32)
def bpmQuotaSmax : Fld := (31, 0)
def bpmUsedUsed : Fld := (28, 0)
def bpmCmdOpcode : Fld := (7, 0)
def bpmArgPool : Fld := (29, 28)
def bpmArgIndex : Fld := (27, 0)
def bpmStatusCode : Fld := (39, 32)
def bpmStatusLastOp : Fld := (31, 24)
def bpmStatusOverrun : Fld := (2, 2)
def bpmStatusDone : Fld := (1, 1)
def bpmStatusBusy : Fld := (0, 0)
def bpmDataData : Fld := (63, 0)
def qCmdObject : Fld := (39, 32)
def qCmdOpcode : Fld := (7, 0)
def qArgIndex : Fld := (31, 0)
def qStatusCode : Fld := (39, 32)
def qStatusLastOp : Fld := (31, 24)
def qStatusOverrun : Fld := (2, 2)
def qStatusDone : Fld := (1, 1)
def qStatusBusy : Fld := (0, 0)
def qCtlDoneIrqEn : Fld := (0, 0)
def qDataData : Fld := (63, 0)
def qAdmitCfgDefaultLen : Fld := (63, 48)
def qAdmitCfgRShift : Fld := (18, 16)
def qAdmitCfgYShift : Fld := (14, 12)
def qAdmitCfgFbActive : Fld := (2, 2)
def qAdmitCfgAuto : Fld := (1, 1)
def qAdmitCfgMode : Fld := (0, 0)
def qFbSharedFbShared : Fld := (39, 0)
def qFbStatFbu : Fld := (39, 0)
def qCreditCfgCreditSpeedup : Fld := (56, 48)
def qCreditCfgRefreshUs : Fld := (39, 24)
def qCreditCfgCbMax : Fld := (23, 8)
def qCreditCfgGrantUnits : Fld := (7, 0)
def qRecircCfgLimit : Fld := (31, 0)
def qPortCfgCtMin : Fld := (31, 16)
def qPortCfgCreditCurve : Fld := (10, 8)
def qPortCfgEgressPipe : Fld := (3, 0)
def qPortTcwWeight : Fld := (63, 0)
def qPfcXoffBytes : Fld := (63, 32)
def qPfcXonBytes : Fld := (31, 0)
def qPortDepthDPort : Fld := (39, 0)
def schedCmdGen : Fld := (47, 32)
def schedCmdBank : Fld := (8, 8)
def schedCmdOpcode : Fld := (7, 0)
def schedArg0AddrOrMf : Fld := (63, 0)
def schedArg1Length : Fld := (23, 0)
def schedStatusDetail : Fld := (55, 48)
def schedStatusCode : Fld := (39, 32)
def schedStatusLastOp : Fld := (31, 24)
def schedStatusIssuer : Fld := (17, 16)
def schedStatusDisarmed : Fld := (4, 4)
def schedStatusSwapped : Fld := (3, 3)
def schedStatusOverrun : Fld := (2, 2)
def schedStatusDone : Fld := (1, 1)
def schedStatusBusy : Fld := (0, 0)
def schedBankGen : Fld := (47, 32)
def schedBankFlowCount : Fld := (31, 18)
def schedBankEpoch : Fld := (16, 16)
def schedBankState : Fld := (3, 0)
def schedCtlAlignTolNs : Fld := (63, 48)
def schedCtlSlackRaisePs : Fld := (47, 32)
def schedCtlQuiesced : Fld := (3, 3)
def schedCtlAlarmIrqEn : Fld := (2, 2)
def schedCtlDoneIrqEn : Fld := (1, 1)
def schedCtlEn : Fld := (0, 0)
def schedMfOffsetMfOffset : Fld := (19, 0)
def schedMfStatAlignErrPs : Fld := (63, 32)
def schedMfStatMfNum : Fld := (31, 0)
def schedSlackSlackLow : Fld := (63, 63)
def schedSlackAlignAlarm : Fld := (62, 62)
def schedSlackSlackPs : Fld := (31, 0)
def schedSlackMinMinSlackPs : Fld := (31, 0)
def schedVoteHalt : Fld := (8, 8)
def schedVoteResync : Fld := (6, 4)
def schedVoteDisagree : Fld := (2, 0)
def schedSwapTs0TsLow : Fld := (63, 0)
def schedSwapTs1TsHigh : Fld := (15, 0)
def fabCtlFramerRun : Fld := (3, 3)
def fabCtlIrqEn : Fld := (2, 2)
def fabCtlFramerStop : Fld := (1, 1)
def fabCtlFramerStart : Fld := (0, 0)
def fabDevIndexQuiesced : Fld := (32, 32)
def fabDevIndexDevIndex : Fld := (11, 0)
def fabRxCfgRepinGuardUs : Fld := (63, 48)
def fabRxCfgDegThresh : Fld := (47, 16)
def fabRxCfgReasmTimeoutUs : Fld := (15, 0)
def fabPmStamp0TsLow : Fld := (63, 0)
def fabPmStamp1TsHigh : Fld := (15, 0)
def fabLaneCfgTraceCheck : Fld := (17, 17)
def fabLaneCfgTimEn : Fld := (16, 16)
def fabLaneCfgForceAis : Fld := (15, 15)
def fabLaneCfgGroup : Fld := (12, 8)
def fabLaneCfgMember : Fld := (6, 4)
def fabLaneCfgEn : Fld := (0, 0)
def fabLaneStatRxDev : Fld := (63, 52)
def fabLaneStatRxLane : Fld := (51, 45)
def fabLaneStatRxGroup : Fld := (44, 40)
def fabLaneStatRxMember : Fld := (39, 37)
def fabLaneStatRxSize : Fld := (36, 33)
def fabLaneStatTraceMatch : Fld := (12, 12)
def fabLaneStatTraceDone : Fld := (11, 11)
def fabLaneStatAlign : Fld := (10, 9)
def fabLaneStatDeg : Fld := (8, 8)
def fabLaneStatTim : Fld := (7, 7)
def fabLaneStatRdiS : Fld := (6, 6)
def fabLaneStatAis : Fld := (5, 5)
def fabLaneStatLof : Fld := (4, 4)
def fabLaneStatLos : Fld := (3, 3)
def fabGroupCfgSize : Fld := (7, 4)
def fabGroupCfgEn : Fld := (0, 0)
def fabGroupStatSkewNs : Fld := (47, 32)
def fabGroupStatTxService : Fld := (6, 6)
def fabGroupStatCfgErr : Fld := (5, 5)
def fabGroupStatRdiP : Fld := (4, 4)
def fabGroupStatGmm : Fld := (3, 3)
def fabGroupStatLoa : Fld := (2, 2)
def fabGroupStatUp : Fld := (0, 0)
def fabReachGroupMask : Fld := (23, 0)
def fabTtiTxTx : Fld := (63, 0)
def fabTtiExpExp : Fld := (63, 0)
def fabTtiAccAcc : Fld := (63, 0)
def tsiStatSwapMf : Fld := (63, 32)
def tsiStatAnnounce : Fld := (1, 1)
def tsiStatPage : Fld := (0, 0)
def tsiLaneStatRxSwapMf : Fld := (63, 32)
def tsiLaneStatMismatch : Fld := (3, 3)
def tsiLaneStatRxAgree : Fld := (2, 2)
def tsiLaneStatRxAnnounce : Fld := (1, 1)
def tsiLaneStatRxPage : Fld := (0, 0)
def burinCmdEvtOp : Fld := (23, 16)
def burinCmdOpcode : Fld := (7, 0)
def burinArgSession : Fld := (13, 0)
def burinStatusDetail : Fld := (55, 48)
def burinStatusCode : Fld := (39, 32)
def burinStatusLastOp : Fld := (31, 24)
def burinStatusOverrun : Fld := (2, 2)
def burinStatusDone : Fld := (1, 1)
def burinStatusBusy : Fld := (0, 0)
def burinCtlDoneIrqEn : Fld := (0, 0)
def burinDataData : Fld := (63, 0)
def burinNqBaseAddr : Fld := (63, 0)
def burinNqCfgQuiesced : Fld := (32, 32)
def burinNqCfgIrqEn : Fld := (17, 17)
def burinNqCfgNqEn : Fld := (16, 16)
def burinNqCfgSizeLog2 : Fld := (4, 0)
def burinNqHeadHead : Fld := (31, 0)
def burinNqTailTail : Fld := (31, 0)
def burinCfgStepLimit : Fld := (31, 16)
def burinCfgEn : Fld := (0, 0)
def burinCustIdImageId : Fld := (63, 0)
def burinCustVerLoaded : Fld := (32, 32)
def burinCustVerVersion : Fld := (31, 0)
def burinEngOpcode : Fld := (47, 40)
def burinEngState : Fld := (33, 32)
def burinEngSession : Fld := (29, 16)
def burinEngMicroPc : Fld := (15, 0)
def pmapLockPmapLock : Fld := (0, 0)
def pmapRecord : Fld := (63, 0)
def mbxCmdOpcode : Fld := (7, 0)
def mbxStatusCode : Fld := (39, 32)
def mbxStatusIrqEn : Fld := (3, 3)
def mbxStatusOverrun : Fld := (2, 2)
def mbxStatusDone : Fld := (1, 1)
def mbxStatusBusy : Fld := (0, 0)
def mbxDataData : Fld := (63, 0)
def intStatusStatus : Fld := (16, 0)
def intEnableEnable : Fld := (16, 0)
def intRingStatusRingStatus : Fld := (63, 0)
def intRingEnableRingEnable : Fld := (63, 0)
def intPinCfgPinEn : Fld := (2, 2)
def intPinCfgPin : Fld := (1, 0)
def intVecVector : Fld := (7, 0)
def pioRingBaseAddr : Fld := (63, 0)
def pioRingCfgCoalUs : Fld := (63, 48)
def pioRingCfgCoalPkts : Fld := (47, 40)
def pioRingCfgQuiesced : Fld := (32, 32)
def pioRingCfgDir : Fld := (18, 18)
def pioRingCfgIrqEn : Fld := (17, 17)
def pioRingCfgRingEn : Fld := (16, 16)
def pioRingCfgSizeLog2 : Fld := (4, 0)
def pioRingHeadHead : Fld := (31, 0)
def pioRingTailTail : Fld := (31, 0)
def erqStatHeadSeq : Fld := (47, 32)
def erqStatPartial : Fld := (10, 10)
def erqStatFatal : Fld := (9, 9)
def erqStatErqOvf : Fld := (8, 8)
def erqStatDepth : Fld := (6, 0)
def erqRecRec : Fld := (63, 0)
def erqAckSeq : Fld := (31, 16)
def erqAckCount : Fld := (15, 0)
def erqFatalRec : Fld := (63, 0)
def erqFatalClrClr : Fld := (0, 0)
def sealLockHolder : Fld := (6, 4)
def sealLockBreak : Fld := (2, 2)
def sealLockRelease : Fld := (1, 1)
def sealLockAcquire : Fld := (0, 0)
def sealCmdTagLen : Fld := (28, 24)
def sealCmdMode : Fld := (16, 16)
def sealCmdSlot : Fld := (12, 8)
def sealCmdOpcode : Fld := (7, 0)
def sealSrcAddr : Fld := (63, 0)
def sealDstAddr : Fld := (63, 0)
def sealAadAddr : Fld := (63, 0)
def sealLenLen : Fld := (63, 32)
def sealLenAadLen : Fld := (20, 0)
def sealIv0IvLow : Fld := (63, 0)
def sealIv1IvHigh : Fld := (31, 0)
def sealTag0TagLow : Fld := (63, 0)
def sealTag1TagHigh : Fld := (63, 0)
def sealStatusCode : Fld := (39, 32)
def sealStatusLastOp : Fld := (31, 24)
def sealStatusOverrun : Fld := (2, 2)
def sealStatusDone : Fld := (1, 1)
def sealStatusBusy : Fld := (0, 0)
def sealBytesOutBytesOut : Fld := (31, 0)
def sealCtlDoneIrqEn : Fld := (0, 0)
def sealSlotFixed : Fld := (63, 32)
def sealSlotUsage : Fld := (18, 16)
def sealSlotState : Fld := (1, 0)
def sealCtrCounter : Fld := (63, 0)
def sealSlotIdBlobId : Fld := (63, 0)
def updCmdComp : Fld := (15, 8)
def updCmdOpcode : Fld := (7, 0)
def updArg0Addr : Fld := (63, 0)
def updArg1Offset : Fld := (63, 32)
def updArg1Length : Fld := (31, 0)
def updStatusDetail : Fld := (55, 48)
def updStatusCode : Fld := (39, 32)
def updStatusLastOp : Fld := (31, 24)
def updStatusIssuer : Fld := (17, 16)
def updStatusFallback : Fld := (5, 5)
def updStatusReverted : Fld := (4, 4)
def updStatusOverrun : Fld := (2, 2)
def updStatusDone : Fld := (1, 1)
def updStatusBusy : Fld := (0, 0)
def updSessionConfirmLeftS : Fld := (63, 48)
def updSessionLapseLeftS : Fld := (47, 32)
def updSessionState : Fld := (11, 8)
def updSessionHolder : Fld := (2, 0)
def updPreemptPreempt : Fld := (0, 0)
def updCfgConfirmS : Fld := (47, 32)
def updCfgDoneIrqEn : Fld := (0, 0)
def updBcrSeq : Fld := (63, 32)
def updBcrTries : Fld := (25, 24)
def updBcrConfArea : Fld := (19, 19)
def updBcrDual : Fld := (18, 18)
def updBcrConfirming : Fld := (17, 17)
def updBcrTrial : Fld := (16, 16)
def updBcrTrialSlot : Fld := (8, 8)
def updBcrConfirmedSlot : Fld := (0, 0)
def updRcvdReceived : Fld := (31, 0)
def pwrCtlIrqEn : Fld := (16, 16)
def pwrCtlLoadMode : Fld := (8, 8)
def pwrCtlPmEn : Fld := (0, 0)
def pwrRailCfgVmaxMv : Fld := (31, 16)
def pwrRailCfgVminMv : Fld := (15, 0)
def pwrRailStatAvsFault : Fld := (52, 52)
def pwrRailStatReason : Fld := (51, 48)
def pwrRailStatVreadMv : Fld := (47, 32)
def pwrRailStatVsetMv : Fld := (31, 16)
def pwrThermCfgThrottleDc : Fld := (31, 16)
def pwrThermCfgWarnDc : Fld := (15, 0)
def pwrThermStatTHotT : Fld := (63, 48)
def pwrThermStatTHotF : Fld := (47, 32)
def pwrThermStatStale : Fld := (2, 2)
def pwrThermStatThrottle : Fld := (1, 1)
def pwrThermStatWarn : Fld := (0, 0)
def pwrSensorBadBad : Fld := (31, 0)
def pwrWakePortState : Fld := (33, 32)
def pwrWakePortBudgetNs : Fld := (31, 0)
def pwrWakePairState : Fld := (33, 32)
def pwrWakePairBudgetNs : Fld := (31, 0)
def pwrWakeGroupState : Fld := (33, 32)
def pwrWakeGroupBudgetNs : Fld := (31, 0)
def pwrWakeBurinState : Fld := (33, 32)
def pwrWakeBurinBudgetNs : Fld := (31, 0)
def pwrTbTime0TsLow : Fld := (63, 0)
def pwrTbTime1TsHigh : Fld := (15, 0)
def pwrTbStatPpsLoss : Fld := (2, 2)
def pwrTbStatState : Fld := (1, 0)
def pwrTbPps0TsLow : Fld := (63, 0)
def pwrTbPps1TsHigh : Fld := (15, 0)
def pwrTbCfgPpsInEn : Fld := (2, 2)
def pwrTbCfgMfSyncEn : Fld := (1, 1)
def pwrTbCfgPpsOutEn : Fld := (0, 0)
def twinCfgMismatchMf : Fld := (19, 16)
def twinCfgQuiesced : Fld := (9, 9)
def twinCfgSide : Fld := (8, 8)
def twinCfgIrqEn : Fld := (1, 1)
def twinCfgEn : Fld := (0, 0)
def twinCmdOpcode : Fld := (7, 0)
def twinStatusCode : Fld := (39, 32)
def twinStatusLastOp : Fld := (31, 24)
def twinStatusOverrun : Fld := (2, 2)
def twinStatusDone : Fld := (1, 1)
def twinStatusBusy : Fld := (0, 0)
def twinStateActiveSince : Fld := (63, 32)
def twinStateMismatchCount : Fld := (19, 16)
def twinStateMateLost : Fld := (11, 11)
def twinStateLinkUp : Fld := (10, 10)
def twinStatePinIn : Fld := (9, 9)
def twinStateHealthOut : Fld := (8, 8)
def twinStateMateState : Fld := (6, 4)
def twinStateState : Fld := (2, 0)
def twinDigestLocalDigest : Fld := (63, 0)
def twinDigestMateDigest : Fld := (63, 0)
def twinDigestMfMf : Fld := (31, 0)

end F

/-! ### The register tables, one list per block of R17 -/

/-- The registers of the Identity block. -/
def regsIdentity : List RegDesc := [
  ⟨.devId, 0x00000000, [], false, false, false,
    [⟨31, 0, .ro, .boot, 194680320, [], 1⟩]⟩,
  ⟨.devStep, 0x00000008, [], false, false, false,
    [⟨31, 0, .ro, .boot, 161, [], 1⟩]⟩,
  ⟨.devWhoami, 0x00000010, [], false, false, false,
    [⟨7, 7, .ro, .boot, 0, [], 1⟩, ⟨3, 3, .ro, .boot, 0, [], 1⟩, ⟨2, 2, .ro, .boot, 0, [], 1⟩, ⟨1, 0, .ro, .boot, 0, [], 1⟩]⟩,
  ⟨.bootState, 0x00000018, [], false, false, false,
    [⟨63, 48, .ro, .boot, 0, [], 1⟩, ⟨43, 43, .ro, .boot, 0, [], 1⟩, ⟨42, 41, .ro, .boot, 0, [], 1⟩, ⟨40, 40, .ro, .boot, 0, [], 1⟩, ⟨39, 32, .ro, .boot, 0, [], 1⟩, ⟨31, 24, .ro, .boot, 0, [], 1⟩, ⟨15, 8, .ro, .boot, 0, [], 1⟩, ⟨7, 0, .ro, .boot, 0, [], 1⟩]⟩,
  ⟨.bootFabFail0, 0x00000020, [], false, false, false,
    [⟨63, 0, .ro, .boot, 0, [], 1⟩]⟩,
  ⟨.bootFabFail1, 0x00000028, [], false, false, false,
    [⟨55, 0, .ro, .boot, 0, [], 1⟩]⟩]

/-- The registers of the Steward block. -/
def regsSteward : List RegDesc := [
  ⟨.pmapLock, 0x00100000, [], false, false, false,
    [⟨0, 0, .ro, .boot, 0, [], 1⟩]⟩,
  ⟨.pmap, 0x00101000, [(4, 0x100), (32, 0x8)], false, false, false,
    [⟨63, 0, .ro, .boot, 0, [], 1⟩]⟩,
  ⟨.mbxCmd, 0x00108000, [(4, 0x100)], false, true, true,
    [⟨7, 0, .wo, .live, 0, [], 1⟩]⟩,
  ⟨.mbxStatus, 0x00108008, [(4, 0x100)], false, true, false,
    [⟨39, 32, .ro, .live, 0, [], 1⟩, ⟨3, 3, .rw, .live, 0, [], 1⟩, ⟨2, 2, .w1c, .live, 0, [], 1⟩, ⟨1, 1, .w1c, .live, 0, [], 1⟩, ⟨0, 0, .ro, .live, 0, [], 1⟩]⟩,
  ⟨.mbxData, 0x00108040, [(4, 0x100), (8, 0x8)], false, true, true,
    [⟨63, 0, .rw, .live, 0, [], 1⟩]⟩,
  ⟨.intStatus, 0x00120000, [(4, 0x1000)], false, true, false,
    [⟨16, 0, .w1c, .live, 0, [], 1⟩]⟩,
  ⟨.intEnable, 0x00120008, [(4, 0x1000)], false, true, false,
    [⟨16, 0, .rw, .live, 0, [], 1⟩]⟩,
  ⟨.intRingStatus, 0x00120010, [(4, 0x1000)], false, true, false,
    [⟨63, 0, .w1c, .live, 0, [], 1⟩]⟩,
  ⟨.intRingEnable, 0x00120018, [(4, 0x1000)], false, true, false,
    [⟨63, 0, .rw, .live, 0, [], 1⟩]⟩,
  ⟨.intPinCfg, 0x00120020, [(4, 0x1000)], false, true, false,
    [⟨2, 2, .rw, .live, 0, [], 1⟩, ⟨1, 0, .rw, .live, 0, [], 1⟩]⟩,
  ⟨.intVec, 0x00120100, [(4, 0x1000), (81, 0x8)], false, true, false,
    [⟨7, 0, .rw, .live, 0, [], 1⟩]⟩,
  ⟨.pioRingBase, 0x00140000, [(4, 0x1000), (64, 0x20)], false, true, false,
    [⟨63, 0, .rw, .quiesce, 0, [], 64⟩]⟩,
  ⟨.pioRingCfg, 0x00140008, [(4, 0x1000), (64, 0x20)], false, true, false,
    [⟨63, 48, .rw, .live, 0, [], 1⟩, ⟨47, 40, .rw, .live, 1, [], 1⟩, ⟨32, 32, .ro, .live, 1, [], 1⟩, ⟨18, 18, .rw, .quiesce, 0, [], 1⟩, ⟨17, 17, .rw, .live, 0, [], 1⟩, ⟨16, 16, .rw, .live, 0, [], 1⟩, ⟨4, 0, .rw, .quiesce, 6, [(6, 16)], 1⟩]⟩,
  ⟨.pioRingHead, 0x00140010, [(4, 0x1000), (64, 0x20)], false, true, false,
    [⟨31, 0, .ro, .live, 0, [], 1⟩]⟩,
  ⟨.pioRingTail, 0x00140018, [(4, 0x1000), (64, 0x20)], false, true, false,
    [⟨31, 0, .rw, .live, 0, [], 1⟩]⟩,
  ⟨.ringCtr, 0x00160000, [(4, 0x1000), (64, 0x20), (4, 0x8)], true, true, false,
    [⟨63, 0, .ro, .live, 0, [], 1⟩]⟩]

/-- The registers of the Plate block. -/
def regsPlate : List RegDesc := [
  ⟨.plateCmd, 0x00200000, [], false, false, true,
    [⟨47, 32, .wo, .live, 0, [], 1⟩, ⟨8, 8, .wo, .live, 0, [], 1⟩, ⟨7, 0, .wo, .live, 0, [], 1⟩]⟩,
  ⟨.plateArg0, 0x00200008, [], false, false, true,
    [⟨63, 0, .rw, .live, 0, [], 1⟩]⟩,
  ⟨.plateArg1, 0x00200010, [], false, false, true,
    [⟨23, 0, .rw, .live, 0, [], 1⟩]⟩,
  ⟨.plateStatus, 0x00200018, [], false, false, false,
    [⟨55, 48, .ro, .live, 0, [], 1⟩, ⟨39, 32, .ro, .live, 0, [], 1⟩, ⟨31, 24, .ro, .live, 0, [], 1⟩, ⟨17, 16, .ro, .live, 0, [], 1⟩, ⟨3, 3, .w1c, .live, 0, [], 1⟩, ⟨2, 2, .w1c, .live, 0, [], 1⟩, ⟨1, 1, .w1c, .live, 0, [], 1⟩, ⟨0, 0, .ro, .live, 0, [], 1⟩]⟩,
  ⟨.plateBank, 0x00200020, [(2, 0x8)], false, false, false,
    [⟨47, 32, .ro, .live, 0, [], 1⟩, ⟨31, 16, .ro, .live, 0, [], 1⟩, ⟨7, 7, .ro, .live, 0, [], 1⟩, ⟨3, 0, .ro, .live, 0, [], 1⟩]⟩,
  ⟨.plateId, 0x00200030, [(2, 0x8)], false, false, false,
    [⟨63, 0, .ro, .live, 0, [], 1⟩]⟩,
  ⟨.plateVer, 0x00200040, [(2, 0x8)], false, false, false,
    [⟨63, 32, .ro, .live, 0, [], 1⟩, ⟨31, 0, .ro, .live, 0, [], 1⟩]⟩,
  ⟨.plateCtl, 0x00200050, [], false, false, false,
    [⟨16, 16, .rw, .live, 0, [], 1⟩, ⟨15, 0, .rw, .live, 0, [], 1⟩]⟩,
  ⟨.plateQstat, 0x00200058, [], false, false, false,
    [⟨15, 0, .ro, .live, 0, [], 1⟩]⟩,
  ⟨.plateSwapTs0, 0x00200060, [], false, false, false,
    [⟨63, 0, .ro, .live, 0, [], 1⟩]⟩,
  ⟨.plateSwapTs1, 0x00200068, [], false, false, false,
    [⟨15, 0, .ro, .live, 0, [], 1⟩]⟩,
  ⟨.plateDrainNs, 0x00200070, [], false, false, false,
    [⟨31, 0, .ro, .live, 0, [], 1⟩]⟩,
  ⟨.plateSwapCount, 0x00200078, [], true, false, false,
    [⟨63, 0, .ro, .live, 0, [], 1⟩]⟩,
  ⟨.plateDrainDrop, 0x00200080, [], true, false, false,
    [⟨63, 0, .ro, .live, 0, [], 1⟩]⟩,
  ⟨.plateEccCorr, 0x00200088, [], true, false, false,
    [⟨63, 0, .ro, .live, 0, [], 1⟩]⟩,
  ⟨.plateEccUncorr, 0x00200090, [], true, false, false,
    [⟨63, 0, .ro, .live, 0, [], 1⟩]⟩,
  ⟨.plateRecircDrop, 0x00200100, [(16, 0x8)], true, false, false,
    [⟨63, 0, .ro, .live, 0, [], 1⟩]⟩,
  ⟨.plateMetaReject, 0x00200180, [(16, 0x8)], true, false, false,
    [⟨63, 0, .ro, .live, 0, [], 1⟩]⟩,
  ⟨.platePipe, 0x00200200, [(16, 0x8)], false, false, false,
    [⟨15, 8, .ro, .plate, 0, [], 1⟩, ⟨1, 0, .ro, .plate, 0, [], 1⟩]⟩]

/-- The registers of the Line block. -/
def regsLine : List RegDesc := [
  ⟨.lineOctetCfg, 0x00400000, [(12, 0x8)], false, false, false,
    [⟨4, 4, .ro, .live, 1, [], 1⟩, ⟨3, 0, .rw, .quiesce, 0, [(0, 5)], 1⟩]⟩,
  ⟨.lineSynceCfg, 0x00400080, [(2, 0x8)], false, false, false,
    [⟨16, 16, .ro, .live, 1, [], 1⟩, ⟨9, 8, .rw, .live, 0, [(0, 1)], 1⟩, ⟨7, 7, .rw, .live, 0, [], 1⟩, ⟨6, 0, .rw, .live, 0, [(0, 95)], 1⟩]⟩,
  ⟨.linePortCfg, 0x00410000, [(96, 0x400)], false, false, false,
    [⟨15, 1, .rw, .quiesce, 9600, [(1518, 16128)], 1⟩, ⟨0, 0, .rw, .live, 0, [], 1⟩]⟩,
  ⟨.linePortStat, 0x00410008, [(96, 0x400)], false, false, false,
    [⟨11, 11, .ro, .live, 1, [], 1⟩, ⟨10, 3, .ro, .live, 0, [], 1⟩, ⟨2, 2, .ro, .live, 0, [], 1⟩, ⟨1, 1, .ro, .live, 0, [], 1⟩, ⟨0, 0, .ro, .live, 0, [], 1⟩]⟩,
  ⟨.linePfcCfg, 0x00410010, [(96, 0x400)], false, false, false,
    [⟨33, 32, .rw, .quiesce, 0, [(0, 2)], 1⟩, ⟨31, 16, .rw, .live, 65535, [], 1⟩, ⟨15, 8, .rw, .live, 0, [], 1⟩, ⟨7, 0, .rw, .live, 0, [], 1⟩]⟩,
  ⟨.linePtpAdj, 0x00410018, [(96, 0x400)], false, false, false,
    [⟨63, 32, .rw, .live, 0, [], 1⟩, ⟨31, 0, .rw, .live, 0, [], 1⟩]⟩,
  ⟨.lineTsFifoHi, 0x00410020, [(96, 0x400)], false, false, false,
    [⟨63, 63, .ro, .live, 0, [], 1⟩, ⟨47, 32, .ro, .live, 0, [], 1⟩, ⟨15, 0, .ro, .live, 0, [], 1⟩]⟩,
  ⟨.lineTsFifoLo, 0x00410028, [(96, 0x400)], false, false, false,
    [⟨63, 0, .rc, .live, 0, [], 1⟩]⟩,
  ⟨.lineCtr, 0x00410100, [(96, 0x400), (28, 0x8)], true, false, false,
    [⟨63, 0, .ro, .live, 0, [], 1⟩]⟩]

/-- The registers of the Parser block. -/
def regsParser : List RegDesc := [
  ⟨.reorderCfg, 0x0060F000, [], false, false, false,
    [⟨31, 0, .rw, .live, 48000, [(41000, 1000000)], 1⟩]⟩,
  ⟨.reorderRecircSkip, 0x0060F008, [], true, false, false,
    [⟨63, 0, .ro, .live, 0, [], 1⟩]⟩,
  ⟨.reorderRecircLate, 0x0060F010, [], true, false, false,
    [⟨63, 0, .ro, .live, 0, [], 1⟩]⟩,
  ⟨.parserGraphInfo, 0x00601000, [], false, false, false,
    [⟨63, 56, .ro, .plate, 0, [], 1⟩, ⟨51, 50, .ro, .plate, 0, [], 1⟩, ⟨49, 48, .ro, .plate, 0, [], 1⟩, ⟨47, 40, .ro, .plate, 0, [], 1⟩, ⟨39, 32, .ro, .plate, 0, [], 1⟩, ⟨31, 24, .ro, .plate, 0, [], 1⟩, ⟨8, 0, .ro, .plate, 0, [], 1⟩]⟩,
  ⟨.parserTpid, 0x00601008, [], false, false, false,
    [⟨31, 16, .rw, .live, 0, [], 1⟩, ⟨15, 0, .rw, .live, 0, [], 1⟩]⟩,
  ⟨.parserCtr, 0x00602000, [(16, 0x100), (12, 0x8)], true, false, false,
    [⟨63, 0, .ro, .live, 0, [], 1⟩]⟩,
  ⟨.ppmCmd, 0x00608000, [], false, false, true,
    [⟨27, 16, .wo, .live, 0, [], 1⟩, ⟨7, 0, .wo, .live, 0, [], 1⟩]⟩,
  ⟨.ppmStatus, 0x00608008, [], false, false, false,
    [⟨39, 32, .ro, .live, 0, [], 1⟩, ⟨17, 16, .ro, .live, 0, [], 1⟩, ⟨2, 2, .w1c, .live, 0, [], 1⟩, ⟨1, 1, .w1c, .live, 0, [], 1⟩, ⟨0, 0, .ro, .live, 0, [], 1⟩]⟩,
  ⟨.ppmCfg, 0x00608010, [], false, false, false,
    [⟨8, 8, .rw, .live, 0, [], 1⟩, ⟨0, 0, .rw, .live, 0, [], 1⟩]⟩,
  ⟨.ppmData, 0x00608040, [(16, 0x8)], false, false, true,
    [⟨63, 0, .rw, .live, 0, [], 1⟩]⟩,
  ⟨.ppmEccCorr, 0x00608100, [], true, false, false,
    [⟨63, 0, .ro, .live, 0, [], 1⟩]⟩,
  ⟨.ppmEccUncorr, 0x00608108, [], true, false, false,
    [⟨63, 0, .ro, .live, 0, [], 1⟩]⟩]

/-- The registers of the Tables block. -/
def regsTables : List RegDesc := [
  ⟨.tblCmd, 0x00800000, [(4, 0x1000)], false, true, true,
    [⟨63, 48, .wo, .live, 0, [], 1⟩, ⟨39, 32, .wo, .live, 0, [], 1⟩, ⟨7, 0, .wo, .live, 0, [], 1⟩]⟩,
  ⟨.tblArg, 0x00800008, [(4, 0x1000)], false, true, true,
    [⟨31, 0, .rw, .live, 0, [], 1⟩]⟩,
  ⟨.tblStatus, 0x00800010, [(4, 0x1000)], false, true, false,
    [⟨39, 32, .ro, .live, 0, [], 1⟩, ⟨31, 24, .ro, .live, 0, [], 1⟩, ⟨15, 8, .ro, .live, 0, [], 1⟩, ⟨2, 2, .w1c, .live, 0, [], 1⟩, ⟨1, 1, .w1c, .live, 0, [], 1⟩, ⟨0, 0, .ro, .live, 0, [], 1⟩]⟩,
  ⟨.tblData, 0x00800040, [(4, 0x1000), (8, 0x8)], false, true, true,
    [⟨63, 0, .rw, .live, 0, [], 1⟩]⟩,
  ⟨.tblRingBase, 0x00800080, [(4, 0x1000)], false, true, false,
    [⟨63, 0, .rw, .quiesce, 0, [], 128⟩]⟩,
  ⟨.tblRingCfg, 0x00800088, [(4, 0x1000)], false, true, false,
    [⟨32, 32, .ro, .live, 1, [], 1⟩, ⟨17, 17, .rw, .live, 0, [], 1⟩, ⟨16, 16, .rw, .live, 0, [], 1⟩, ⟨4, 0, .rw, .quiesce, 6, [(6, 16)], 1⟩]⟩,
  ⟨.tblRingHead, 0x00800090, [(4, 0x1000)], false, true, false,
    [⟨31, 0, .ro, .live, 0, [], 1⟩]⟩,
  ⟨.tblRingTail, 0x00800098, [(4, 0x1000)], false, true, false,
    [⟨31, 0, .rw, .live, 0, [], 1⟩]⟩,
  ⟨.tblStencilRoot, 0x00804000, [(64, 0x8)], false, false, false,
    [⟨63, 63, .ro, .live, 0, [], 1⟩, ⟨52, 48, .ro, .live, 0, [], 1⟩, ⟨23, 0, .ro, .live, 0, [], 1⟩]⟩,
  ⟨.tblAgeCfg, 0x00804200, [], false, false, false,
    [⟨31, 16, .rw, .live, 300, [(1, 65535)], 1⟩, ⟨0, 0, .rw, .live, 0, [], 1⟩]⟩,
  ⟨.tblLearnCfg, 0x00804208, [], false, false, false,
    [⟨17, 16, .rw, .live, 0, [], 1⟩, ⟨5, 1, .rw, .live, 0, [], 1⟩, ⟨0, 0, .rw, .live, 0, [], 1⟩]⟩,
  ⟨.tblScrubCfg, 0x00804210, [], false, false, false,
    [⟨16, 16, .rw, .live, 1, [], 1⟩, ⟨15, 0, .rw, .live, 1000, [(100, 60000)], 1⟩]⟩,
  ⟨.tblEvqBase, 0x00804218, [], false, false, false,
    [⟨63, 0, .rw, .quiesce, 0, [], 64⟩]⟩,
  ⟨.tblEvqCfg, 0x00804220, [], false, false, false,
    [⟨32, 32, .ro, .live, 1, [], 1⟩, ⟨17, 17, .rw, .live, 0, [], 1⟩, ⟨16, 16, .rw, .live, 0, [], 1⟩, ⟨4, 0, .rw, .quiesce, 8, [(6, 20)], 1⟩]⟩,
  ⟨.tblEvqHead, 0x00804228, [], false, false, false,
    [⟨31, 0, .rw, .live, 0, [], 1⟩]⟩,
  ⟨.tblEvqTail, 0x00804230, [], false, false, false,
    [⟨31, 0, .ro, .live, 0, [], 1⟩]⟩,
  ⟨.tblPipeCtr, 0x00805000, [(16, 0x100), (11, 0x8)], true, false, false,
    [⟨63, 0, .ro, .live, 0, [], 1⟩]⟩,
  ⟨.tblDevCtr, 0x00806000, [(6, 0x8)], true, false, false,
    [⟨63, 0, .ro, .live, 0, [], 1⟩]⟩]

/-- The registers of the Asa block. -/
def regsAsa : List RegDesc := [
  ⟨.asaCmd, 0x00A00000, [(4, 0x1000)], false, true, true,
    [⟨35, 32, .wo, .live, 0, [], 1⟩, ⟨7, 0, .wo, .live, 0, [], 1⟩]⟩,
  ⟨.asaArg, 0x00A00008, [(4, 0x1000)], false, true, true,
    [⟨17, 0, .rw, .live, 0, [], 1⟩]⟩,
  ⟨.asaStatus, 0x00A00010, [(4, 0x1000)], false, true, false,
    [⟨39, 32, .ro, .live, 0, [], 1⟩, ⟨31, 24, .ro, .live, 0, [], 1⟩, ⟨15, 8, .ro, .live, 0, [], 1⟩, ⟨2, 2, .w1c, .live, 0, [], 1⟩, ⟨1, 1, .w1c, .live, 0, [], 1⟩, ⟨0, 0, .ro, .live, 0, [], 1⟩]⟩,
  ⟨.asaCtl, 0x00A00018, [(4, 0x1000)], false, true, false,
    [⟨0, 0, .rw, .live, 0, [], 1⟩]⟩,
  ⟨.asaData, 0x00A00040, [(4, 0x1000), (24, 0x8)], false, true, true,
    [⟨63, 0, .rw, .live, 0, [], 1⟩]⟩,
  ⟨.asaTableCfg, 0x00A04000, [(16, 0x8)], false, false, false,
    [⟨32, 32, .ro, .live, 1, [], 1⟩, ⟨16, 16, .rw, .live, 0, [], 1⟩, ⟨15, 12, .rw, .quiesce, 6, [(4, 8)], 1⟩, ⟨9, 9, .rw, .quiesce, 0, [], 1⟩, ⟨8, 4, .rw, .quiesce, 0, [(0, 16)], 1⟩, ⟨3, 0, .rw, .quiesce, 0, [], 1⟩]⟩,
  ⟨.asaScrubCfg, 0x00A04080, [], false, false, false,
    [⟨16, 16, .rw, .live, 1, [], 1⟩, ⟨15, 0, .rw, .live, 100, [(10, 60000)], 1⟩]⟩,
  ⟨.asaTableCtr, 0x00A05000, [(16, 0x40), (6, 0x8)], true, false, false,
    [⟨63, 0, .ro, .live, 0, [], 1⟩]⟩,
  ⟨.asaDevCtr, 0x00A06000, [(4, 0x8)], true, false, false,
    [⟨63, 0, .ro, .live, 0, [], 1⟩]⟩]

/-- The registers of the Bpm block. -/
def regsBpm : List RegDesc := [
  ⟨.bpmPoolStat, 0x00C00000, [(3, 0x8)], false, false, false,
    [⟨60, 32, .ro, .live, 0, [], 1⟩, ⟨28, 0, .ro, .live, 0, [], 1⟩]⟩,
  ⟨.bpmSharedStat, 0x00C00020, [(2, 0x8)], false, false, false,
    [⟨60, 32, .ro, .live, 0, [], 1⟩, ⟨28, 0, .rc, .live, 0, [], 1⟩]⟩,
  ⟨.bpmStack, 0x00C00040, [(4, 0x8)], false, false, false,
    [⟨58, 32, .ro, .live, 0, [], 1⟩, ⟨2, 0, .ro, .live, 0, [], 1⟩]⟩,
  ⟨.bpmCfg, 0x00C00068, [], false, false, false,
    [⟨31, 16, .rw, .live, 1024, [(1, 65535)], 1⟩, ⟨0, 0, .rw, .live, 0, [], 1⟩]⟩,
  ⟨.bpmQuota, 0x00C01000, [(23, 0x10), (2, 0x8)], false, false, false,
    [⟨63, 32, .rw, .live, 0, [], 1⟩, ⟨31, 0, .rw, .live, 4294967295, [], 1⟩]⟩,
  ⟨.bpmUsed, 0x00C01200, [(23, 0x10), (2, 0x8)], false, false, false,
    [⟨28, 0, .ro, .live, 0, [], 1⟩]⟩,
  ⟨.bpmCmd, 0x00C02000, [(4, 0x100)], false, true, true,
    [⟨7, 0, .wo, .live, 0, [], 1⟩]⟩,
  ⟨.bpmArg, 0x00C02008, [(4, 0x100)], false, true, true,
    [⟨29, 28, .rw, .live, 0, [], 1⟩, ⟨27, 0, .rw, .live, 0, [], 1⟩]⟩,
  ⟨.bpmStatus, 0x00C02010, [(4, 0x100)], false, true, false,
    [⟨39, 32, .ro, .live, 0, [], 1⟩, ⟨31, 24, .ro, .live, 0, [], 1⟩, ⟨2, 2, .w1c, .live, 0, [], 1⟩, ⟨1, 1, .w1c, .live, 0, [], 1⟩, ⟨0, 0, .ro, .live, 0, [], 1⟩]⟩,
  ⟨.bpmData, 0x00C02018, [(4, 0x100)], false, true, true,
    [⟨63, 0, .ro, .live, 0, [], 1⟩]⟩,
  ⟨.bpmReqCtr, 0x00C03000, [(23, 0x40), (5, 0x8)], true, false, false,
    [⟨63, 0, .ro, .live, 0, [], 1⟩]⟩,
  ⟨.bpmDevCtr, 0x00C04000, [(5, 0x8)], true, false, false,
    [⟨63, 0, .ro, .live, 0, [], 1⟩]⟩]

/-- The registers of the Queue block. -/
def regsQueue : List RegDesc := [
  ⟨.qCmd, 0x00D00000, [(4, 0x1000)], false, true, true,
    [⟨39, 32, .wo, .live, 0, [], 1⟩, ⟨7, 0, .wo, .live, 0, [], 1⟩]⟩,
  ⟨.qArg, 0x00D00008, [(4, 0x1000)], false, true, true,
    [⟨31, 0, .rw, .live, 0, [], 1⟩]⟩,
  ⟨.qStatus, 0x00D00010, [(4, 0x1000)], false, true, false,
    [⟨39, 32, .ro, .live, 0, [], 1⟩, ⟨31, 24, .ro, .live, 0, [], 1⟩, ⟨2, 2, .w1c, .live, 0, [], 1⟩, ⟨1, 1, .w1c, .live, 0, [], 1⟩, ⟨0, 0, .ro, .live, 0, [], 1⟩]⟩,
  ⟨.qCtl, 0x00D00018, [(4, 0x1000)], false, true, false,
    [⟨0, 0, .rw, .live, 0, [], 1⟩]⟩,
  ⟨.qData, 0x00D00040, [(4, 0x1000), (4, 0x8)], false, true, true,
    [⟨63, 0, .rw, .live, 0, [], 1⟩]⟩,
  ⟨.qAdmitCfg, 0x00D04000, [], false, false, false,
    [⟨63, 48, .rw, .live, 9600, [(64, 16128)], 1⟩, ⟨18, 16, .rw, .live, 2, [], 1⟩, ⟨14, 12, .rw, .live, 1, [], 1⟩, ⟨2, 2, .ro, .live, 0, [], 1⟩, ⟨1, 1, .w1c, .live, 0, [], 1⟩, ⟨0, 0, .rw, .live, 0, [], 1⟩]⟩,
  ⟨.qFbShared, 0x00D04008, [], false, false, false,
    [⟨39, 0, .rw, .live, 0, [], 1⟩]⟩,
  ⟨.qFbStat, 0x00D04010, [], false, false, false,
    [⟨39, 0, .ro, .live, 0, [], 1⟩]⟩,
  ⟨.qCreditCfg, 0x00D04018, [], false, false, false,
    [⟨56, 48, .rw, .live, 269, [(256, 300)], 1⟩, ⟨39, 24, .rw, .live, 100, [(10, 10000)], 1⟩, ⟨23, 8, .rw, .live, 64, [(1, 65535)], 1⟩, ⟨7, 0, .rw, .live, 16, [(1, 255)], 1⟩]⟩,
  ⟨.qRecircCfg, 0x00D04020, [], false, false, false,
    [⟨31, 0, .rw, .live, 1048576, [], 1⟩]⟩,
  ⟨.qPortCfg, 0x00D04400, [(96, 0x8)], false, false, false,
    [⟨31, 16, .rw, .live, 1024, [(64, 16128)], 1⟩, ⟨10, 8, .rw, .live, 0, [], 1⟩, ⟨3, 0, .rw, .quiesce, 0, [], 1⟩]⟩,
  ⟨.qPortTcw, 0x00D04700, [(96, 0x8)], false, false, false,
    [⟨63, 0, .rw, .live, 72340172838076673, [], 1⟩]⟩,
  ⟨.qPfc, 0x00D04A00, [(96, 0x8)], false, false, false,
    [⟨63, 32, .rw, .live, 0, [], 1⟩, ⟨31, 0, .rw, .live, 0, [], 1⟩]⟩,
  ⟨.qPortDepth, 0x00D04D00, [(96, 0x8)], false, false, false,
    [⟨39, 0, .ro, .live, 0, [], 1⟩]⟩,
  ⟨.qDevCtr, 0x00D06000, [(24, 0x8)], true, false, false,
    [⟨63, 0, .ro, .live, 0, [], 1⟩]⟩]

/-- The registers of the Calendar block. -/
def regsCalendar : List RegDesc := [
  ⟨.schedCmd, 0x01000000, [], false, false, true,
    [⟨47, 32, .wo, .live, 0, [], 1⟩, ⟨8, 8, .wo, .live, 0, [], 1⟩, ⟨7, 0, .wo, .live, 0, [], 1⟩]⟩,
  ⟨.schedArg0, 0x01000008, [], false, false, true,
    [⟨63, 0, .rw, .live, 0, [], 1⟩]⟩,
  ⟨.schedArg1, 0x01000010, [], false, false, true,
    [⟨23, 0, .rw, .live, 0, [], 1⟩]⟩,
  ⟨.schedStatus, 0x01000018, [], false, false, false,
    [⟨55, 48, .ro, .live, 0, [], 1⟩, ⟨39, 32, .ro, .live, 0, [], 1⟩, ⟨31, 24, .ro, .live, 0, [], 1⟩, ⟨17, 16, .ro, .live, 0, [], 1⟩, ⟨4, 4, .w1c, .live, 0, [], 1⟩, ⟨3, 3, .w1c, .live, 0, [], 1⟩, ⟨2, 2, .w1c, .live, 0, [], 1⟩, ⟨1, 1, .w1c, .live, 0, [], 1⟩, ⟨0, 0, .ro, .live, 0, [], 1⟩]⟩,
  ⟨.schedBank, 0x01000020, [(2, 0x8)], false, false, false,
    [⟨47, 32, .ro, .live, 0, [], 1⟩, ⟨31, 18, .ro, .live, 0, [], 1⟩, ⟨16, 16, .ro, .live, 0, [], 1⟩, ⟨3, 0, .ro, .live, 0, [], 1⟩]⟩,
  ⟨.schedCtl, 0x01000030, [], false, false, false,
    [⟨63, 48, .rw, .live, 10, [(1, 1000)], 1⟩, ⟨47, 32, .rw, .live, 3000, [], 1⟩, ⟨3, 3, .ro, .live, 1, [], 1⟩, ⟨2, 2, .rw, .live, 0, [], 1⟩, ⟨1, 1, .rw, .live, 0, [], 1⟩, ⟨0, 0, .rw, .live, 0, [], 1⟩]⟩,
  ⟨.schedMfOffset, 0x01000038, [], false, false, false,
    [⟨19, 0, .rw, .quiesce, 0, [], 1⟩]⟩,
  ⟨.schedMfStat, 0x01000040, [], false, false, false,
    [⟨63, 32, .ro, .live, 0, [], 1⟩, ⟨31, 0, .ro, .live, 0, [], 1⟩]⟩,
  ⟨.schedSlack, 0x01000048, [], false, false, false,
    [⟨63, 63, .ro, .live, 0, [], 1⟩, ⟨62, 62, .w1c, .live, 0, [], 1⟩, ⟨31, 0, .ro, .live, 0, [], 1⟩]⟩,
  ⟨.schedSlackMin, 0x01000050, [], false, false, false,
    [⟨31, 0, .rc, .live, 2147483647, [], 1⟩]⟩,
  ⟨.schedVote, 0x01000058, [], false, false, false,
    [⟨8, 8, .ro, .live, 0, [], 1⟩, ⟨6, 4, .ro, .live, 0, [], 1⟩, ⟨2, 0, .w1c, .live, 0, [], 1⟩]⟩,
  ⟨.schedSwapTs0, 0x01000060, [], false, false, false,
    [⟨63, 0, .ro, .live, 0, [], 1⟩]⟩,
  ⟨.schedSwapTs1, 0x01000068, [], false, false, false,
    [⟨15, 0, .ro, .live, 0, [], 1⟩]⟩,
  ⟨.schedCtr, 0x01000100, [(11, 0x8)], true, false, false,
    [⟨63, 0, .ro, .live, 0, [], 1⟩]⟩,
  ⟨.schedFlowCtr, 0x01008000, [(8192, 0x20), (4, 0x8)], true, false, false,
    [⟨63, 0, .ro, .live, 0, [], 1⟩]⟩]

/-- The registers of the Fabric block. -/
def regsFabric : List RegDesc := [
  ⟨.fabCtl, 0x01100000, [], false, false, false,
    [⟨3, 3, .ro, .live, 0, [], 1⟩, ⟨2, 2, .rw, .live, 0, [], 1⟩, ⟨1, 1, .wo, .live, 0, [], 1⟩, ⟨0, 0, .wo, .live, 0, [], 1⟩]⟩,
  ⟨.fabDevIndex, 0x01100008, [], false, false, false,
    [⟨32, 32, .ro, .live, 1, [], 1⟩, ⟨11, 0, .rw, .quiesce, 0, [], 1⟩]⟩,
  ⟨.fabRxCfg, 0x01100010, [], false, false, false,
    [⟨63, 48, .rw, .live, 10, [(1, 1000)], 1⟩, ⟨47, 16, .rw, .live, 2441, [], 1⟩, ⟨15, 0, .rw, .live, 100, [(10, 10000)], 1⟩]⟩,
  ⟨.fabPmStamp0, 0x01100018, [], false, false, false,
    [⟨63, 0, .ro, .live, 0, [], 1⟩]⟩,
  ⟨.fabPmStamp1, 0x01100020, [], false, false, false,
    [⟨15, 0, .ro, .live, 0, [], 1⟩]⟩,
  ⟨.fabLaneCfg, 0x01101000, [(120, 0x8)], false, false, false,
    [⟨17, 17, .wo, .live, 0, [], 1⟩, ⟨16, 16, .rw, .live, 0, [], 1⟩, ⟨15, 15, .rw, .live, 0, [], 1⟩, ⟨12, 8, .rw, .quiesce, 0, [(0, 23)], 1⟩, ⟨6, 4, .rw, .quiesce, 0, [], 1⟩, ⟨0, 0, .rw, .live, 0, [], 1⟩]⟩,
  ⟨.fabLaneStat, 0x01101400, [(120, 0x8)], false, false, false,
    [⟨63, 52, .ro, .live, 0, [], 1⟩, ⟨51, 45, .ro, .live, 0, [], 1⟩, ⟨44, 40, .ro, .live, 0, [], 1⟩, ⟨39, 37, .ro, .live, 0, [], 1⟩, ⟨36, 33, .ro, .live, 0, [], 1⟩, ⟨12, 12, .ro, .live, 0, [], 1⟩, ⟨11, 11, .w1c, .live, 0, [], 1⟩, ⟨10, 9, .ro, .live, 0, [], 1⟩, ⟨8, 8, .ro, .live, 0, [], 1⟩, ⟨7, 7, .ro, .live, 0, [], 1⟩, ⟨6, 6, .ro, .live, 0, [], 1⟩, ⟨5, 5, .ro, .live, 0, [], 1⟩, ⟨4, 4, .ro, .live, 1, [], 1⟩, ⟨3, 3, .ro, .live, 1, [], 1⟩]⟩,
  ⟨.fabGroupCfg, 0x01102000, [(24, 0x8)], false, false, false,
    [⟨7, 4, .rw, .quiesce, 1, [(1, 8)], 1⟩, ⟨0, 0, .rw, .live, 0, [], 1⟩]⟩,
  ⟨.fabGroupStat, 0x01102100, [(24, 0x8)], false, false, false,
    [⟨47, 32, .ro, .live, 0, [], 1⟩, ⟨6, 6, .ro, .live, 0, [], 1⟩, ⟨5, 5, .ro, .live, 0, [], 1⟩, ⟨4, 4, .ro, .live, 0, [], 1⟩, ⟨3, 3, .ro, .live, 0, [], 1⟩, ⟨2, 2, .ro, .live, 0, [], 1⟩, ⟨0, 0, .ro, .live, 0, [], 1⟩]⟩,
  ⟨.fabReach, 0x01104000, [(4096, 0x8)], false, false, false,
    [⟨23, 0, .rw, .live, 0, [], 1⟩]⟩,
  ⟨.fabTtiTx, 0x0110C000, [(120, 0x40), (8, 0x8)], false, false, false,
    [⟨63, 0, .rw, .live, 0, [], 1⟩]⟩,
  ⟨.fabTtiExp, 0x0110E000, [(120, 0x40), (8, 0x8)], false, false, false,
    [⟨63, 0, .rw, .live, 0, [], 1⟩]⟩,
  ⟨.fabTtiAcc, 0x01110000, [(120, 0x40), (8, 0x8)], false, false, false,
    [⟨63, 0, .ro, .live, 0, [], 1⟩]⟩,
  ⟨.tsiStat, 0x01118000, [], false, false, false,
    [⟨63, 32, .ro, .live, 0, [], 1⟩, ⟨1, 1, .ro, .live, 0, [], 1⟩, ⟨0, 0, .ro, .live, 0, [], 1⟩]⟩,
  ⟨.tsiLaneStat, 0x01118100, [(120, 0x8)], false, false, false,
    [⟨63, 32, .ro, .live, 0, [], 1⟩, ⟨3, 3, .w1c, .live, 0, [], 1⟩, ⟨2, 2, .ro, .live, 0, [], 1⟩, ⟨1, 1, .ro, .live, 0, [], 1⟩, ⟨0, 0, .ro, .live, 0, [], 1⟩]⟩,
  ⟨.fabLaneCtr, 0x01120000, [(120, 0x40), (7, 0x8)], true, false, false,
    [⟨63, 0, .ro, .live, 0, [], 1⟩]⟩,
  ⟨.fabGroupCtr, 0x01124000, [(24, 0x40), (7, 0x8)], true, false, false,
    [⟨63, 0, .ro, .live, 0, [], 1⟩]⟩,
  ⟨.fabDevCtr, 0x01125000, [(12, 0x8)], true, false, false,
    [⟨63, 0, .ro, .live, 0, [], 1⟩]⟩]

/-- The registers of the Burin block. -/
def regsBurin : List RegDesc := [
  ⟨.burinCmd, 0x01300000, [(4, 0x1000)], false, true, true,
    [⟨23, 16, .wo, .live, 0, [], 1⟩, ⟨7, 0, .wo, .live, 0, [], 1⟩]⟩,
  ⟨.burinArg, 0x01300008, [(4, 0x1000)], false, true, true,
    [⟨13, 0, .rw, .live, 0, [], 1⟩]⟩,
  ⟨.burinStatus, 0x01300010, [(4, 0x1000)], false, true, false,
    [⟨55, 48, .ro, .live, 0, [], 1⟩, ⟨39, 32, .ro, .live, 0, [], 1⟩, ⟨31, 24, .ro, .live, 0, [], 1⟩, ⟨2, 2, .w1c, .live, 0, [], 1⟩, ⟨1, 1, .w1c, .live, 0, [], 1⟩, ⟨0, 0, .ro, .live, 0, [], 1⟩]⟩,
  ⟨.burinCtl, 0x01300018, [(4, 0x1000)], false, true, false,
    [⟨0, 0, .rw, .live, 0, [], 1⟩]⟩,
  ⟨.burinData, 0x01300040, [(4, 0x1000), (32, 0x8)], false, true, true,
    [⟨63, 0, .rw, .live, 0, [], 1⟩]⟩,
  ⟨.burinNqBase, 0x01300200, [(4, 0x1000)], false, true, false,
    [⟨63, 0, .rw, .quiesce, 0, [], 64⟩]⟩,
  ⟨.burinNqCfg, 0x01300208, [(4, 0x1000)], false, true, false,
    [⟨32, 32, .ro, .live, 1, [], 1⟩, ⟨17, 17, .rw, .live, 0, [], 1⟩, ⟨16, 16, .rw, .live, 0, [], 1⟩, ⟨4, 0, .rw, .quiesce, 8, [(6, 20)], 1⟩]⟩,
  ⟨.burinNqHead, 0x01300210, [(4, 0x1000)], false, true, false,
    [⟨31, 0, .rw, .live, 0, [], 1⟩]⟩,
  ⟨.burinNqTail, 0x01300218, [(4, 0x1000)], false, true, false,
    [⟨31, 0, .ro, .live, 0, [], 1⟩]⟩,
  ⟨.burinCfg, 0x01308000, [], false, false, false,
    [⟨31, 16, .rw, .live, 8192, [(256, 65535)], 1⟩, ⟨0, 0, .rw, .live, 0, [], 1⟩]⟩,
  ⟨.burinCustId, 0x01308008, [], false, false, false,
    [⟨63, 0, .ro, .live, 0, [], 1⟩]⟩,
  ⟨.burinCustVer, 0x01308010, [], false, false, false,
    [⟨32, 32, .ro, .live, 0, [], 1⟩, ⟨31, 0, .ro, .live, 0, [], 1⟩]⟩,
  ⟨.burinEng, 0x01308400, [(64, 0x8)], false, false, false,
    [⟨47, 40, .ro, .live, 0, [], 1⟩, ⟨33, 32, .ro, .live, 0, [], 1⟩, ⟨29, 16, .ro, .live, 0, [], 1⟩, ⟨15, 0, .ro, .live, 0, [], 1⟩]⟩,
  ⟨.burinCtr, 0x01309000, [(12, 0x8)], true, false, false,
    [⟨63, 0, .ro, .live, 0, [], 1⟩]⟩]

/-- The registers of the Seal block. -/
def regsSeal : List RegDesc := [
  ⟨.sealLock, 0x01500000, [], false, false, false,
    [⟨6, 4, .ro, .live, 7, [], 1⟩, ⟨2, 2, .wo, .live, 0, [], 1⟩, ⟨1, 1, .wo, .live, 0, [], 1⟩, ⟨0, 0, .wo, .live, 0, [], 1⟩]⟩,
  ⟨.sealCmd, 0x01500008, [], false, false, true,
    [⟨28, 24, .wo, .live, 0, [], 1⟩, ⟨16, 16, .wo, .live, 0, [], 1⟩, ⟨12, 8, .wo, .live, 0, [], 1⟩, ⟨7, 0, .wo, .live, 0, [], 1⟩]⟩,
  ⟨.sealSrc, 0x01500010, [], false, false, true,
    [⟨63, 0, .rw, .live, 0, [], 1⟩]⟩,
  ⟨.sealDst, 0x01500018, [], false, false, true,
    [⟨63, 0, .rw, .live, 0, [], 1⟩]⟩,
  ⟨.sealAad, 0x01500020, [], false, false, true,
    [⟨63, 0, .rw, .live, 0, [], 1⟩]⟩,
  ⟨.sealLen, 0x01500028, [], false, false, true,
    [⟨63, 32, .rw, .live, 0, [], 1⟩, ⟨20, 0, .rw, .live, 0, [], 1⟩]⟩,
  ⟨.sealIv0, 0x01500030, [], false, false, true,
    [⟨63, 0, .rw, .live, 0, [], 1⟩]⟩,
  ⟨.sealIv1, 0x01500038, [], false, false, true,
    [⟨31, 0, .rw, .live, 0, [], 1⟩]⟩,
  ⟨.sealTag0, 0x01500040, [], false, false, true,
    [⟨63, 0, .rw, .live, 0, [], 1⟩]⟩,
  ⟨.sealTag1, 0x01500048, [], false, false, true,
    [⟨63, 0, .rw, .live, 0, [], 1⟩]⟩,
  ⟨.sealStatus, 0x01500050, [], false, false, false,
    [⟨39, 32, .ro, .live, 0, [], 1⟩, ⟨31, 24, .ro, .live, 0, [], 1⟩, ⟨2, 2, .w1c, .live, 0, [], 1⟩, ⟨1, 1, .w1c, .live, 0, [], 1⟩, ⟨0, 0, .ro, .live, 0, [], 1⟩]⟩,
  ⟨.sealBytesOut, 0x01500058, [], false, false, false,
    [⟨31, 0, .ro, .live, 0, [], 1⟩]⟩,
  ⟨.sealCtl, 0x01500060, [], false, false, false,
    [⟨0, 0, .rw, .live, 0, [], 1⟩]⟩,
  ⟨.sealSlot, 0x01500100, [(32, 0x8)], false, false, false,
    [⟨63, 32, .ro, .live, 0, [], 1⟩, ⟨18, 16, .ro, .live, 0, [], 1⟩, ⟨1, 0, .ro, .live, 0, [], 1⟩]⟩,
  ⟨.sealCtr, 0x01500200, [(32, 0x8)], false, false, false,
    [⟨63, 0, .ro, .live, 0, [], 1⟩]⟩,
  ⟨.sealSlotId, 0x01500300, [(32, 0x8)], false, false, false,
    [⟨63, 0, .ro, .live, 0, [], 1⟩]⟩,
  ⟨.sealCount, 0x01500400, [(4, 0x8)], true, false, false,
    [⟨63, 0, .ro, .live, 0, [], 1⟩]⟩]

/-- The registers of the Update block. -/
def regsUpdate : List RegDesc := [
  ⟨.updCmd, 0x01510000, [], false, false, true,
    [⟨15, 8, .wo, .live, 0, [], 1⟩, ⟨7, 0, .wo, .live, 0, [], 1⟩]⟩,
  ⟨.updArg0, 0x01510008, [], false, false, true,
    [⟨63, 0, .rw, .live, 0, [], 1⟩]⟩,
  ⟨.updArg1, 0x01510010, [], false, false, true,
    [⟨63, 32, .rw, .live, 0, [], 1⟩, ⟨31, 0, .rw, .live, 0, [], 1⟩]⟩,
  ⟨.updStatus, 0x01510018, [], false, false, false,
    [⟨55, 48, .ro, .live, 0, [], 1⟩, ⟨39, 32, .ro, .live, 0, [], 1⟩, ⟨31, 24, .ro, .live, 0, [], 1⟩, ⟨17, 16, .ro, .live, 0, [], 1⟩, ⟨5, 5, .w1c, .live, 0, [], 1⟩, ⟨4, 4, .w1c, .live, 0, [], 1⟩, ⟨2, 2, .w1c, .live, 0, [], 1⟩, ⟨1, 1, .w1c, .live, 0, [], 1⟩, ⟨0, 0, .ro, .live, 0, [], 1⟩]⟩,
  ⟨.updSession, 0x01510020, [], false, false, false,
    [⟨63, 48, .ro, .live, 0, [], 1⟩, ⟨47, 32, .ro, .live, 0, [], 1⟩, ⟨11, 8, .ro, .live, 0, [], 1⟩, ⟨2, 0, .ro, .live, 7, [], 1⟩]⟩,
  ⟨.updPreempt, 0x01510028, [], false, false, false,
    [⟨0, 0, .wo, .live, 0, [], 1⟩]⟩,
  ⟨.updCfg, 0x01510030, [], false, false, false,
    [⟨47, 32, .rw, .live, 1800, [(0, 0), (60, 65535)], 1⟩, ⟨0, 0, .rw, .live, 0, [], 1⟩]⟩,
  ⟨.updBcr, 0x01510038, [], false, false, false,
    [⟨63, 32, .ro, .live, 0, [], 1⟩, ⟨25, 24, .ro, .live, 0, [], 1⟩, ⟨19, 19, .ro, .live, 0, [], 1⟩, ⟨18, 18, .ro, .live, 0, [], 1⟩, ⟨17, 17, .ro, .live, 0, [], 1⟩, ⟨16, 16, .ro, .live, 0, [], 1⟩, ⟨8, 8, .ro, .live, 0, [], 1⟩, ⟨0, 0, .ro, .live, 0, [], 1⟩]⟩,
  ⟨.updRcvd, 0x01510040, [(5, 0x8)], false, false, false,
    [⟨31, 0, .ro, .live, 0, [], 1⟩]⟩,
  ⟨.updCtr, 0x01510100, [(5, 0x8)], true, false, false,
    [⟨63, 0, .ro, .live, 0, [], 1⟩]⟩]

/-- The registers of the Power block. -/
def regsPower : List RegDesc := [
  ⟨.pwrCtl, 0x01600000, [], false, false, false,
    [⟨16, 16, .rw, .live, 0, [], 1⟩, ⟨8, 8, .rw, .live, 0, [], 1⟩, ⟨0, 0, .rw, .live, 0, [], 1⟩]⟩,
  ⟨.pwrRailCfg, 0x01600010, [(2, 0x8)], false, false, false,
    [⟨31, 16, .rw, .live, 950, [], 1⟩, ⟨15, 0, .rw, .live, 600, [], 1⟩]⟩,
  ⟨.pwrRailStat, 0x01600020, [(2, 0x8)], false, false, false,
    [⟨52, 52, .ro, .live, 0, [], 1⟩, ⟨51, 48, .ro, .live, 0, [], 1⟩, ⟨47, 32, .ro, .live, 0, [], 1⟩, ⟨31, 16, .ro, .live, 0, [], 1⟩]⟩,
  ⟨.pwrThermCfg, 0x01600030, [], false, false, false,
    [⟨31, 16, .rw, .live, 1030, [(800, 1080)], 1⟩, ⟨15, 0, .rw, .live, 1000, [(600, 1080)], 1⟩]⟩,
  ⟨.pwrThermStat, 0x01600038, [], false, false, false,
    [⟨63, 48, .ro, .live, 0, [], 1⟩, ⟨47, 32, .ro, .live, 0, [], 1⟩, ⟨2, 2, .ro, .live, 0, [], 1⟩, ⟨1, 1, .ro, .live, 0, [], 1⟩, ⟨0, 0, .ro, .live, 0, [], 1⟩]⟩,
  ⟨.pwrSensorBad, 0x01600040, [], false, false, false,
    [⟨31, 0, .ro, .live, 0, [], 1⟩]⟩,
  ⟨.pwrWakePort, 0x01601000, [(96, 0x8)], false, false, false,
    [⟨33, 32, .ro, .live, 0, [], 1⟩, ⟨31, 0, .rw, .live, 0, [], 1⟩]⟩,
  ⟨.pwrWakePair, 0x01601400, [(8, 0x8)], false, false, false,
    [⟨33, 32, .ro, .live, 0, [], 1⟩, ⟨31, 0, .rw, .live, 0, [], 1⟩]⟩,
  ⟨.pwrWakeGroup, 0x01601500, [(24, 0x8)], false, false, false,
    [⟨33, 32, .ro, .live, 0, [], 1⟩, ⟨31, 0, .rw, .live, 0, [], 1⟩]⟩,
  ⟨.pwrWakeBurin, 0x016015C0, [], false, false, false,
    [⟨33, 32, .ro, .live, 0, [], 1⟩, ⟨31, 0, .rw, .live, 0, [], 1⟩]⟩,
  ⟨.pwrTbTime0, 0x01602000, [], false, false, false,
    [⟨63, 0, .ro, .live, 0, [], 1⟩]⟩,
  ⟨.pwrTbTime1, 0x01602008, [], false, false, false,
    [⟨15, 0, .ro, .live, 0, [], 1⟩]⟩,
  ⟨.pwrTbStat, 0x01602010, [], false, false, false,
    [⟨2, 2, .ro, .live, 0, [], 1⟩, ⟨1, 0, .ro, .live, 0, [], 1⟩]⟩,
  ⟨.pwrTbPps0, 0x01602018, [], false, false, false,
    [⟨63, 0, .ro, .live, 0, [], 1⟩]⟩,
  ⟨.pwrTbPps1, 0x01602020, [], false, false, false,
    [⟨15, 0, .ro, .live, 0, [], 1⟩]⟩,
  ⟨.pwrTbCfg, 0x01602028, [], false, false, false,
    [⟨2, 2, .rw, .live, 0, [], 1⟩, ⟨1, 1, .rw, .live, 0, [], 1⟩, ⟨0, 0, .rw, .live, 0, [], 1⟩]⟩,
  ⟨.pwrCtr, 0x01603000, [(7, 0x8)], true, false, false,
    [⟨63, 0, .ro, .live, 0, [], 1⟩]⟩]

/-- The registers of the Twin block. -/
def regsTwin : List RegDesc := [
  ⟨.twinCfg, 0x01700000, [], false, false, false,
    [⟨19, 16, .rw, .live, 3, [(1, 15)], 1⟩, ⟨9, 9, .ro, .live, 1, [], 1⟩, ⟨8, 8, .rw, .quiesce, 0, [], 1⟩, ⟨1, 1, .rw, .live, 0, [], 1⟩, ⟨0, 0, .rw, .live, 0, [], 1⟩]⟩,
  ⟨.twinCmd, 0x01700008, [], false, false, true,
    [⟨7, 0, .wo, .live, 0, [], 1⟩]⟩,
  ⟨.twinStatus, 0x01700010, [], false, false, false,
    [⟨39, 32, .ro, .live, 0, [], 1⟩, ⟨31, 24, .ro, .live, 0, [], 1⟩, ⟨2, 2, .w1c, .live, 0, [], 1⟩, ⟨1, 1, .w1c, .live, 0, [], 1⟩, ⟨0, 0, .ro, .live, 0, [], 1⟩]⟩,
  ⟨.twinState, 0x01700018, [], false, false, false,
    [⟨63, 32, .ro, .live, 0, [], 1⟩, ⟨19, 16, .ro, .live, 0, [], 1⟩, ⟨11, 11, .w1c, .live, 0, [], 1⟩, ⟨10, 10, .ro, .live, 0, [], 1⟩, ⟨9, 9, .ro, .live, 0, [], 1⟩, ⟨8, 8, .ro, .live, 0, [], 1⟩, ⟨6, 4, .ro, .live, 0, [], 1⟩, ⟨2, 0, .ro, .live, 0, [], 1⟩]⟩,
  ⟨.twinDigestLocal, 0x01700020, [], false, false, false,
    [⟨63, 0, .ro, .live, 0, [], 1⟩]⟩,
  ⟨.twinDigestMate, 0x01700028, [], false, false, false,
    [⟨63, 0, .ro, .live, 0, [], 1⟩]⟩,
  ⟨.twinDigestMf, 0x01700030, [], false, false, false,
    [⟨31, 0, .ro, .live, 0, [], 1⟩]⟩,
  ⟨.twinCtr, 0x01700100, [(7, 0x8)], true, false, false,
    [⟨63, 0, .ro, .live, 0, [], 1⟩]⟩]

/-- The registers of the Errq block. -/
def regsErrq : List RegDesc := [
  ⟨.erqStat, 0x01800000, [(2, 0x100)], false, false, false,
    [⟨47, 32, .ro, .live, 0, [], 1⟩, ⟨10, 10, .w1c, .live, 0, [], 1⟩, ⟨9, 9, .ro, .live, 0, [], 1⟩, ⟨8, 8, .w1c, .live, 0, [], 1⟩, ⟨6, 0, .ro, .live, 0, [], 1⟩]⟩,
  ⟨.erqRec, 0x01800008, [(2, 0x100), (4, 0x8)], false, false, false,
    [⟨63, 0, .ro, .live, 0, [], 1⟩]⟩,
  ⟨.erqAck, 0x01800028, [(2, 0x100)], false, false, false,
    [⟨31, 16, .wo, .live, 0, [], 1⟩, ⟨15, 0, .wo, .live, 0, [], 1⟩]⟩,
  ⟨.erqFatal, 0x01800030, [(2, 0x100), (4, 0x8)], false, false, false,
    [⟨63, 0, .ro, .live, 0, [], 1⟩]⟩,
  ⟨.erqFatalClr, 0x01800050, [(2, 0x100)], false, false, false,
    [⟨0, 0, .wo, .live, 0, [], 1⟩]⟩,
  ⟨.erqDropped, 0x01800080, [(2, 0x100)], true, false, false,
    [⟨63, 0, .ro, .live, 0, [], 1⟩]⟩]

/-- The base offsets of the blocks, in the order of R17. -/
def blockBases : List Nat := [0x00000000, 0x00100000, 0x00200000, 0x00400000, 0x00600000, 0x00800000, 0x00A00000, 0x00C00000, 0x00D00000, 0x01000000, 0x01100000, 0x01300000, 0x01500000, 0x01510000, 0x01600000, 0x01700000, 0x01800000]

/-- The block an offset lies in: the last whose base is not above it (R17). -/
def blockOf (off : Nat) : Nat := (blockBases.filter (fun b => b ≤ off)).length - 1

/-- The registers of block `i` of R17. -/
def regsOfBlock : Nat → List RegDesc
  | 0 => regsIdentity
  | 1 => regsSteward
  | 2 => regsPlate
  | 3 => regsLine
  | 4 => regsParser
  | 5 => regsTables
  | 6 => regsAsa
  | 7 => regsBpm
  | 8 => regsQueue
  | 9 => regsCalendar
  | 10 => regsFabric
  | 11 => regsBurin
  | 12 => regsSeal
  | 13 => regsUpdate
  | 14 => regsPower
  | 15 => regsTwin
  | 16 => regsErrq
  | _ => []

/-- The indices at which offset `x` past the base falls in an array of these dimensions, if it does. -/
def indexIn : List (Nat × Nat) → Nat → Option (List Nat)
  | [], x => if x = 0 then some [] else none
  | (n, s) :: ds, x =>
    if x / s < n then (indexIn ds (x % s)).map (x / s :: ·)
    else none

/-- The register of a list that stands at an offset, with its indices. -/
def findReg (off : Nat) : List RegDesc → Option (RegDesc × List Nat)
  | [] => none
  | d :: ds =>
    if off < d.base then findReg off ds
    else match indexIn d.dims (off - d.base) with
      | some ix => some (d, ix)
      | none => findReg off ds

/-- The documented register at an offset, with its indices; none at a reserved offset (R18). -/
def regAt (off : Nat) : Option (RegDesc × List Nat) := findReg off (regsOfBlock (blockOf off))

/-- The reset value the field tables give a register. -/
def fieldsReset : List FieldDesc → Word
  | [] => 0
  | f :: fs => setF (fieldsReset fs) (f.hi, f.lo) f.reset

/-- What a register of index `ix` holds after reset beside the value its field table states: the sizes of the pools
(R199, R204) and the default egress pipeline of a port (R250's register table: 8 + n / 12). -/
def resetExtra (r : Reg) (ix : List Nat) : Word :=
  match r with
  | .qPortCfg => setF 0 F.qPortCfgEgressPipe (8 + ix.headD 0 / 12)
  | .bpmPoolStat =>
    let n := match ix.headD 0 with | 0 => 2 ^ 28 | 1 => 2 ^ 18 | _ => 2 ^ 16
    setF (setF 0 F.bpmPoolStatInService n) F.bpmPoolStatFree n
  | .bpmSharedStat =>
    let n := match ix.headD 0 with | 0 => 2 ^ 28 | _ => 2 ^ 18
    setF (setF 0 F.bpmSharedStatSharedFree n) F.bpmSharedStatMinSharedFree n
  | _ => 0

/-- The value the register at an offset holds after reset; 0 at a reserved offset. -/
def regReset (off : Nat) : Word :=
  match regAt off with
  | some (d, ix) => fieldsReset d.fields ||| resetExtra d.reg ix
  | none => 0

end Sys2Proof.Machine
end

