-- ==== Sys2Proof/Machine/State.lean ====
section
/-! DEFINITION. The state of the device as plain data: the registers, the state of each unit that no register shows,
what has left the device, the queue of waiting commands, and the state after power-on reset. -/

namespace Sys2Proof.Machine

/-! ### What leaves the device -/

/-- One thing seen outside the device. The list of them is the model's own: host memory, the lines, the fabric
and the pins stand outside it. -/
inductive Out where
  | readReply (fn : Fn) (off : Nat) (v : Nat)                 -- the completion of a register read
  | unsupported (fn : Fn)                                     -- an Unsupported Request completion (R374)
  | msix (part vec : Nat) (addr data : Nat)                   -- an MSI-X message, as its table entry has it (R373, R391)
  | dmaWrite (part addr : Nat) (b : Bytes)                    -- a write to host memory
  | lineFrame (port : Nat) (b : Bytes) (stomped sched : Bool) (stamp : Nat)   -- a frame sent by a line MAC (R94)
  | pauseFrame (port prio quanta : Nat)                       -- a Pause or PFC frame sent (R98)
  | bridgeAck (dir seq : Nat)                                 -- a flit accepted in order (R22)
  | bridgeNak (dir chan seq : Nat)                            -- a replay asked for (R24)
  | pageGrant (r pool page : Nat)                             -- a page granted to a requester (R204)
  | fabFrame (lane : Nat) (b : Bytes)                         -- an overhead block sent on a lane (R304)
  | fabCell (lane pos : Nat) (b : Bytes)                      -- a cell sent in a slot
  | message (lane : Nat) (m : Word)                           -- a credit message sent (R337)
  | smbus (b : Bytes)                                         -- the reply of the SMBus target (R395)
  | smbusNak                                                  -- a byte that the SMBus target does not acknowledge
  | avs (rail mv : Nat)                                       -- an AVSBus request (R467)
  | uart (b : Bytes)                                          -- text on the UART (R396)
  | pulse (pin : Nat)                                         -- PPS_OUT (0) or MF_SYNC (1) rises (R483)
  deriving DecidableEq, Repr

/-! ### Host interface -/

/-- One record of an error record queue (R397), with the time of its latest merge (R400). -/
structure ErqRec where
  unit  : Nat
  code  : Nat
  count : Nat
  stamp : Nat
  last  : Nat
  ctx   : Bytes
  deriving DecidableEq, Repr

/-- The host interface beside its registers. `recOk` says which partition records passed the checks of R382 and whose
function the strap presents; `inReset` which partitions are in reset (R384); `perst` which ports have PERST_N
asserted; `held` the low half a function has written (R375), by 2 × port + func; `latch` the high half latched by a
32-bit read of a counter (R8), by its offset × 4 + 2 × port + func; `msixTbl` the message words of the MSI-X table, by
512 × partition + 2 × vector the address, one more the data, `msixOpen` and `msixPend` the vectors unmasked and pending, by
256 × partition + vector (R373, R391); `forced` the fatal sources that hold the pins (R402); `coal` the completions of RX rings not yet
signalled and the deadline, by 64 × partition + ring (R389); `smb` and
`smbAt` the steward's readings for SMBus commands 0x03 to 0x07 and when they were refreshed (R395); `training` the ports whose link trains (R523). -/
structure HostSt where
  recOk    : List Bool
  inReset  : List Bool
  perst    : List Bool
  training : List Bool
  held     : SMap (Nat × BitVec 32)
  latch    : SMap Nat
  msixTbl  : SMap Word
  msixOpen : List Nat
  msixPend : List Nat
  forced   : List Nat
  coal     : SMap (Nat × Nat)
  erqF     : List ErqRec
  erqT     : List ErqRec
  smb      : List Nat
  smbAt    : Nat
  deriving DecidableEq, Repr

/-! ### Boot, bridge, steward -/

/-- Boot and steward state: whether POR_N has been released, the sampled straps, the results of the boot stages that no
register holds, whether the steward firmware runs, and whether it is restarting (R37, R38, R526). `porAt` is the time
POR_N rose, `faultAt` that of the last steward fault; `presets` and `seeds` what the boot code has applied of the calibration
record: the SerDes presets of all lanes, and the HBM seeds of T0 to T3 and F0, empty where none were used (R486, R487). -/
structure BootSt where
  straps     : Straps
  porAt      : Nat
  stewardUp  : Bool
  restarting : Bool
  faultAt    : Nat
  hbmDone    : List Bool
  hbmBad     : List Bool
  serdesDone : Bool
  traceDone  : Bool
  f0Out      : Bool
  ready      : Bool
  failed     : Bool
  halted     : Bool
  presets    : Bytes
  seeds      : List Bytes
  deriving DecidableEq, Repr

/-- A flit of the bridge: its class (R23), the routed packet whose bytes it carries, if one is listed, its bytes without the filling
up to 64. -/
structure BrFlit where
  sched : Bool
  owner : Option Nat
  bytes : Bytes
  deriving DecidableEq, Repr

/-- The wires of one channel (R26): the data wires that a spare replaces, with the spare, and the spares that failed. -/
structure ChanWires where
  used : List (Nat × Nat)
  bad  : List Nat
  deriving DecidableEq, Repr

/-- One direction of the Septien bridge. Sender: the flits of the two classes that wait for a channel (R23), the number of
the next flit to start, the replay buffer, which holds each flit started and not acknowledged with its channel (48 while
no copy of it has arrived), and the flits of retired channels to be resent, in order (R24, R25). Receiver: the next
number to deliver, the flits that wait for an earlier one, those delivered (R22). `replays` counts the failed copies of
a flit on its channel, `retired` lists the retired channels, `stopped` says that an eighth one stopped the direction (R16,
R25), `wires` holds the spares of each channel (R26). -/
structure BridgeDir where
  schedQ  : List BrFlit
  routedQ : List BrFlit
  next    : Nat
  sent    : SMap (Nat × BrFlit)
  resend  : List Nat
  expect  : Nat
  waiting : SMap BrFlit
  got     : List BrFlit
  replays : SMap (Nat × Nat)
  retired : List Nat
  stopped : Bool
  wires   : SMap ChanWires
  deriving DecidableEq, Repr

/-! ### The JTAG TAP (R4, R538) -/

/-- The states of the TAP controller of IEEE 1149.1. -/
inductive TapCtl where
  | reset | idle
  | selDr | captDr | shiftDr | exit1Dr | pauseDr | exit2Dr | updDr
  | selIr | captIr | shiftIr | exit1Ir | pauseIr | exit2Ir | updIr
  deriving DecidableEq, Repr

/-- The instructions that the spec names, and BYPASS, which IEEE 1149.1 gives every other code. -/
inductive TapInstr where
  | bypass | idcode | extest | extestPulse | extestTrain
  deriving DecidableEq, Repr

/-- The TAP: controller, instruction, the shift registers of instruction and data, the boundary cells' update stage, whether
the AC-coupled balls stand at the inverse of their cells (EXTEST_PULSE and EXTEST_TRAIN, R538). -/
structure TapSt where
  ctl   : TapCtl
  instr : TapInstr
  ir    : List Bool
  dr    : List Bool
  cells : List Bool
  ac    : Bool
  deriving DecidableEq, Repr

/-! ### Packets inside the F-die -/

/-- Where a packet stands. -/
inductive Place where
  | pipe            -- in a pipeline
  | done            -- past its last stage, on its way to the reorder unit
  | reorder         -- held by the reorder unit until its number comes (R91)
  | bridge          -- handed to the T-die; it stays listed until its tail is stored
  | dropped         -- dropped on the T-die while its body still arrives
  | ring (part ring reason at_ : Nat) (desc : Bytes)   -- trapped to a host ring, its tail still to come
  | toBurin (op sess : Nat)                            -- handed to a burin, its tail still to come
  | egressWait      -- released by the egress scheduler, waiting for a context (R250)
  | mac             -- handed by an egress pipeline to the line MAC
  deriving DecidableEq, Repr

/-- How a frame was found bad after handover (R87). -/
inductive BadTail where
  | fcs | oversize
  deriving DecidableEq, Repr

/-- A running scan of the matcher: the pattern store that it uses (R130), and the frame bytes that it is given: `head` as they
stood before the last edit, then those of the packet from `base` on, which arrived after it (R124). -/
structure Scan where
  pats : SMap Bytes
  head : Bytes
  base : Nat
  deriving DecidableEq, Repr

/-- A packet of the routed class. `stream` is its reorder stream: its port, or 96 for the recirculation stream;
`pair` the pair whose context it holds; `stage` the next stage of its programme, none before the parse of the pass;
`bytes` what has arrived of it, without its FCS once the tail is in; `effEnd` the effective end of its parse, none while
unlimited (R109); `scan` its running scan;
`hatch` the hash that pins it (R332); `prio` the priority under which a received pause holds it, PFC_PRIO of the queue it
left (R97, R249) and `queue` that queue; `nh` the next-hop entry resolved, `label` the label entry read last, `results` every
result read, oldest first, from its first pass on (R133). -/
structure Packet where
  place   : Place
  stream  : Nat
  seq     : Nat
  port    : Nat
  egress  : Bool
  pipe    : Nat
  bank    : Nat
  pass    : Nat
  stage   : Option Nat
  bytes   : Bytes
  tailIn  : Bool
  stomp   : Bool
  bad     : Option BadTail
  md      : Bytes
  stamp   : Nat
  pr      : Bytes
  prev    : Nat
  effEnd  : Option Nat
  scan    : Option Scan
  hatch   : Nat
  nh      : Bytes
  label   : Bytes
  outPort : Nat
  prio    : Nat
  queue   : Nat
  results : List Bytes
  deriving DecidableEq, Repr

/-- What a line port is receiving after the header segment was handed over: the packet it fills, if it was not
dropped, the bytes seen so far and whether one of their codewords was uncorrectable (R84); a scheduled frame names its
flow and window instead (R269). `wait` says that flow match left the frame to the spreader and its header segment is
still to come. -/
structure RxCur where
  pkt   : Option Nat
  len   : Nat
  sched : Option Nat
  bad   : Bool
  wait  : Bool
  deriving DecidableEq, Repr

/-- What the line MAC has been handed to send: a routed packet, or the frame of a release with its flow and its TIME as a
time of the timebase (R275). -/
inductive MacItem where
  | routed (pkt : Nat)
  | sched (b : Bytes) (flow at_ : Nat)
  deriving DecidableEq, Repr

/-- A reorder stream (R89 to R93): the next number to assign, E, the time since which E is awaited, and the hole
markers ahead of E. -/
structure Reorder where
  next  : Nat
  e     : Nat
  since : Nat
  holes : List Nat
  deriving DecidableEq, Repr

/-- The line side: the spreader's rotation, the streams, the frames in reception, the MAC queues, the two-step
timestamp FIFOs (tag and time), the received pause holds by 8 × port + priority with their ends, the XOFF states sent
by 8 × port + priority with the time of the next repeat, the ports that send remote fault (R95), and the hole markers
on their way to the reorder unit by stream and number (R92). -/
structure LineSt where
  rr      : Nat
  streams : SMap Reorder
  rx      : SMap RxCur
  macQ    : SMap (List MacItem)
  tsFifo  : SMap (List (Nat × Nat))
  holds   : SMap Nat
  xoff    : SMap Nat
  sendRf  : List Nat
  markers : List (Nat × Nat)
  deriving DecidableEq, Repr

/-! ### Plates -/

/-- A plate bank beside its registers: the image bytes received, its accepted layouts, its parse graph and decoded
sections, the store words found bad, those whose first use has been recorded (R79), and whether the update controller is
loading it (R57). -/
structure PlateBank where
  image    : Bytes
  metaAcc  : List Nat
  graph    : Bytes
  code     : Option PlateCode
  badWords : List Nat
  badSeen  : List Nat
  byUpd    : Bool
  deriving DecidableEq, Repr

/-- The plate controller: the two banks, the live bank, the SWAP accepted and not yet at its swap point, the time of
the swap point whose drain runs, the bank of the LOAD in progress and the length the LOAD was accepted with. -/
structure PlateSt where
  banks   : List PlateBank
  live    : Option Nat
  swapTo  : Option Nat
  swapAt  : Nat
  loading : Option Nat
  len     : Nat
  deriving DecidableEq, Repr

/-- The pattern store (128-byte entries, unlisted ones all 0) and the entries out of matching (R131). -/
structure PpmSt where
  store : SMap Bytes
  bad   : List Nat
  deriving DecidableEq, Repr

/-! ### Tables -/

/-- A FENCE in progress: the packets it waits for and the time it was ordered (R172). -/
structure Fence where
  pkts : List Nat
  at_  : Nat
  deriving DecidableEq, Repr

/-- The tables. `words` holds stencil words by index, `leaves` the 64-byte leaves, `nextHop`, `group`, `member` their
entries, `em` the exact-match slots of a table: 0 label, 1 host route, 2 + n MAC of pipeline n, by slot number. `bad`
lists the entries that an error made bad until they are written again, by table code, pipeline and index; `told` those
whose event has been recorded. `fenceC` and `fenceR` are the fences of a partition's command interface and ring. `big`
marks a ring that refuses descriptors up to the next END (R168). `visited` is when a MAC slot was last visited by the
ager (R153), `scrubbed` when an entry was last visited by the scrubber (R149). -/
structure TblSt where
  words   : SMap Word
  leaves  : SMap Bytes
  nextHop : SMap Bytes
  group   : SMap Bytes
  member  : SMap Bytes
  em      : SMap (SMap Bytes)
  bad     : List (Nat × Nat × Nat)
  told    : List (Nat × Nat × Nat)
  fenceC  : List (Option Fence)
  fenceR  : List (Option (Fence × Nat × Nat))
  big     : List Bool
  evSeq   : Nat
  visited : SMap Nat
  scrubbed : SMap Nat
  deriving DecidableEq, Repr

/-- The ASA: the entry images by bank × 16,384 + first row, those never written not listed, and the entries whose
result word was found bad (R197), by the same places. `told` lists the places whose bad result word has been recorded,
`lost` those whose lost shadow has been counted and recorded (R196), `scrubbed` the times of the scrubber's last visits by
bank × 16,384 + row. -/
structure AsaSt where
  rows   : SMap Bytes
  badRes : List Nat
  told   : List Nat
  lost   : List Nat
  scrubbed : SMap Nat
  deriving DecidableEq, Repr

/-! ### Buffer pool manager -/

/-- A page that is not free: its record (R202), a record that cannot be read, or a page lost until POR_N (R215). -/
inductive PageSt where
  | used (w : Word)
  | unreadable
  | lost
  deriving DecidableEq, Repr

/-- The BPM beside its registers: the pages not free by pool × 2^28 + page, the reference counts in use, the count
entries that cannot be read, the stack of the last first page (R201), the lost pages of the stacks, of the egress pool
and of the scheduled pool (R215, R218), whether the HBM pool grants no more (R220), the pages that scheduled flows hold
(R216) as ranges of first page and count, and the uncorrectable reads of each stack in the second `uncSec` of timebase
time (R217). -/
structure BpmSt where
  pages   : SMap PageSt
  refs    : SMap Nat
  badRefs : List Nat
  lastStk : Nat
  lostStk : List Nat
  stopped : Bool
  schedRes : List (Nat × Nat)
  unc     : List Nat
  uncSec  : Nat
  deriving DecidableEq, Repr

/-! ### Queue engine -/

/-- A packet stored on the T-die: its bytes once its tail is stored or its body cut short (R210, R219), whether its tail is
stored, the stomp, whether its body was cut short, its pages, the requester, the line port and priority and the bytes it is counted under (R239), the number of
queue entries and packets in progress that name it, its hatch, the time it arrived, its line port. -/
structure Stored where
  bytes  : Bytes
  tailIn : Bool
  stomp  : Bool
  cut    : Bool
  req    : Nat
  pool   : Nat
  head   : Nat
  pages  : Nat
  pfc    : Option (Nat × Nat)
  acct   : Nat
  copies : Nat
  hatch  : Nat
  stamp  : Nat
  port   : Nat
  deriving DecidableEq, Repr

/-- An entry of a queue: the stored packet, the length counted for it, the time of its enqueue, its metadata. -/
structure QEnt where
  pkt : Nat
  len : Nat
  at_ : Nat
  md  : Bytes
  deriving DecidableEq, Repr

/-- A queue: its image (R259), its entries from the head, its depth, its bytes in the egress pool, its credit balance,
shaper tokens (bytes × 80,000) and their time, its deficit, its counters, its bad word flag, the time of its last
REQUEST and the state it gave, and the packet it is sending (R253). -/
structure QueueSt where
  img     : Bytes
  ents    : List QEnt
  depth   : Nat
  ondie   : Nat
  cb      : Int
  tokens  : Int
  tokAt   : Nat
  deficit : Int
  fwd     : Nat
  drop    : Nat
  mcDrop  : Nat
  bad     : Bool
  reqAt   : Nat
  active  : Bool
  deriving DecidableEq, Repr

/-- A node of the hierarchy, or a port as its level 4: image, shaper, deficit, the child served last per priority. -/
structure NodeSt where
  img     : Bytes
  tokens  : Int
  tokAt   : Nat
  deficit : Int
  ptr     : SMap Nat
  bad     : Bool
  deriving DecidableEq, Repr

/-- A policer: image, the two buckets in bytes × 8 × 10^7 and their time, its bad word flag (R231). -/
structure PolicerSt where
  img  : Bytes
  c    : Nat
  p    : Nat
  at_  : Nat
  bad  : Bool
  deriving DecidableEq, Repr

/-- A source of the active set (R248). -/
structure Source where
  port : Nat
  tc   : Nat
  dev  : Nat
  voq  : Nat
  at_  : Nat
  deriving DecidableEq, Repr

/-- A REQUEST (R246). -/
structure ReqMsg where
  issuer : Nat
  target : Nat
  voq    : Nat
  port   : Nat
  tc     : Nat
  active : Bool
  deriving DecidableEq, Repr

/-- A GRANT (R246). -/
structure GrantMsg where
  issuer : Nat
  target : Nat
  voq    : Nat
  credit : Nat
  deriving DecidableEq, Repr

/-- A credit message (R337). -/
inductive CreditMsg where
  | req (m : ReqMsg) | grant (m : GrantMsg)
  deriving DecidableEq, Repr

/-- An egress packet that started in cut-through (R253, R255): the packet on its way to the egress pipeline, the stored
packet it streams from, its port, the time it started, the bytes it had then. -/
structure Started where
  pkt  : Nat
  st   : Nat
  port : Nat
  at_  : Nat
  had  : Nat
  deriving DecidableEq, Repr

/-- A flush in progress (R252): the queue and the time it was accepted. -/
structure Flush where
  q   : Nat
  at_ : Nat
  deriving DecidableEq, Repr

/-- The queue engine beside its registers. `arrivals` holds the packets that wait for the handling of R229, by
requester, oldest first, and `order` lists those that the reorder unit sent, in the order in which it sent them (R22).
Curves hold their standby and active copies by 32 × curve + point; `bad`
lists objects with an uncorrectable word by object code and index; `portN` is level 4 of the hierarchy; `tcDef` and
`srcPtr` are the weighted and plain round robins of the grants by port (and 8 × port + TC); `grantAt` is when the next
grant of a port is due. -/
structure QSt where
  arrivals : SMap (List Nat)
  order    : List Nat
  nextPkt  : Nat
  stored   : SMap Stored
  queues   : SMap QueueSt
  n1       : SMap NodeSt
  n2       : SMap NodeSt
  n3       : SMap NodeSt
  portN    : SMap NodeSt
  policers : SMap PolicerSt
  ecnStby  : SMap Word
  ecnAct   : SMap Word
  crStby   : SMap Word
  crAct    : SMap Word
  mcIn     : SMap Word
  mcEg     : SMap Word
  mcEnt    : SMap Word
  bad      : List (Nat × Nat)
  pfcHeld  : SMap Nat
  pfcXoff  : List Nat
  sources  : List Source
  tcDef    : SMap Nat
  srcPtr   : SMap Nat
  grantAt  : SMap Nat
  reqIn    : List ReqMsg
  grantIn  : List GrantMsg
  recirc   : List QEnt
  recircAt : Nat
  started  : List Started
  flushes  : List (Option Flush)
  deriving DecidableEq, Repr

/-! ### Burin engines -/

/-- An event (R342, R357): its descriptor and the frame of a packet event. `src` is SOURCE of the descriptor. -/
structure BurinEv where
  op     : Nat
  src    : Nat
  sess   : Nat
  part   : Nat
  port   : Nat
  len    : Nat
  payOff : Nat
  stamp  : Nat
  arg    : Bytes
  frame  : Bytes
  deriving DecidableEq, Repr

/-- One region of the control store (R349): micro-words, the word that stands beyond them, nano-words, dispatch
entries. -/
structure BurinRegion where
  micro : List Nat
  fill  : Nat
  nano  : List Nat
  disp  : List Nat
  deriving DecidableEq, Repr

/-- The burin unit beside its registers: contexts by session, pending events in the order they reached the dispatcher,
the running event and the transmit buffer of each engine, the two regions, the words found bad (micro address a,
65,536 + nano address, 131,072 + opcode), the next SEQ of each notification queue, the timers whose delay has been
counted (2 × session + timer), the DELETEs that wait for a running event (partition, session), the customer image
whose signature the steward verifies and the one that waits for its switch, each with its partition, the vendor image that waits for its own (R367, R452). -/
structure BurinSt where
  ctx     : SMap Bytes
  queue   : List BurinEv
  run     : SMap BurinEv
  txb     : SMap Bytes
  vendor  : BurinRegion
  cust    : BurinRegion
  bad     : List Nat
  nqSeq   : List Nat
  late    : List Nat
  deletes : List (Nat × Nat)
  verify  : Option (Nat × Bytes)
  load    : Option (Nat × Bytes)
  vload   : Option Bytes
  deriving DecidableEq, Repr

/-! ### Flash, update controller, seal engine -/

/-- One copy of the owner configuration, decoded: whether its signature checks, the four partition records of R378, the
plate-signing and update-signing keys with their revocation masks (R49, R432), the owner root key (R412),
MIN_SET_VERSION, and whether it enables console input (R396). -/
structure OwnerCfg where
  valid     : Bool
  recs      : List Bytes
  plateKeys : KeySet
  updKeys   : KeySet
  rootKey   : Bytes
  minSet    : Nat
  console   : Bool
  deriving DecidableEq, Repr

/-- The fields of a boot control record (R439). -/
structure Bcr where
  seq        : Nat
  confirmed  : Nat
  trialSlot  : Nat
  trial      : Bool
  confirming : Bool
  dual       : Bool
  confArea   : Nat
  tries      : Nat
  confId     : Nat
  trialId    : Nat
  deriving DecidableEq, Repr

/-- A set slot (R438): its 64-byte slot record, the manifest with its signature block, the ciphertexts of the five images,
and whether a program failure has spoilt it (R447). -/
structure SetSlot where
  head     : Bytes
  manifest : Bytes
  images   : List Bytes
  spoilt   : Bool
  deriving DecidableEq, Repr

/-- The two set flashes and the on-package flash: what survives POR_N (R437, R484). `bcr` holds the 64 bytes of each copy
of the BCR (R439); `areas` are the settings areas A and B (R449); `calib` and `scratch` the record area and the scratch area
(R490), empty where erased. -/
structure FlashSt where
  owner   : List OwnerCfg
  bcr     : List Bytes
  slots   : List SetSlot
  areas   : List (SMap Bytes)
  calib   : Bytes
  scratch : Bytes
  deriving DecidableEq, Repr

/-- A set that runs: the hashes of its five components (R434), its COMPAT part and SET_ID, and its slot. -/
structure RunSet where
  hashes : List Bytes
  compat : Bytes
  setId  : Nat
  slot   : Nat
  deriving DecidableEq, Repr

/-- What brings the confirmed set back while the device runs: a REVERT, by a command or the timer, with its cause (R458,
R459, R462), or the undoing of an ACTIVATE whose component of a TYPE failed with a code (R453). -/
inductive Back where
  | revert (cause : Nat) (cmd : Bool) | undo (type code : Nat)
  deriving DecidableEq, Repr

/-- The update acts that wait for the seal lock (R408, R448): an OPEN with its manifest, a VERIFY, an ACTIVATE with the way
its switching will end, a return of the confirmed set, which waits for the plate controller as well. -/
inductive UpdWait where
  | opening (manifest : Bytes) | verify | activate (sw : SwitchEnd) | back (k : Back)
  deriving DecidableEq, Repr

/-- What follows once both sections of the microcode have been switched (R452): the components after it, or the end of a
return of the confirmed set. -/
inductive McNext where
  | forward (sw : SwitchEnd) | back (k : Back)
  deriving DecidableEq, Repr

/-- A command of a T-die interface that is held, accepted, while the T-die section of the microcode waits for its multiframe
boundary (R452). -/
inductive HeldCmd where
  | bpm (fn : Fn) (part op pool index : Nat) (ecc : Ecc)
  | q (fn : Fn) (part op obj index : Nat) (ecc : Ecc)
  | sched (op bank gen : Nat) (v : Vote)
  deriving DecidableEq, Repr

/-- The update controller beside its registers: the owner configuration the boot code read, the BCR in force, the set
that runs and the one it replaced, whether the TRIAL is a trial boot's, the time of the holder's last command, the
start of the confirm timer, the act that waits for the seal lock and since when, what follows the switching of the
microcode, the T-die section that waits for its multiframe boundary, the T-die commands held for it, and the T-die
microcode that runs (R452), since when the new steward firmware is awaited, a pre-emption that waits (R443), the content
key in the hidden slot (R436), and a source 14 that waits for enabled partitions (R456). -/
structure UpdSt where
  cfg       : OwnerCfg
  bcr       : Bcr
  run       : RunSet
  prev      : Option RunSet
  trialBoot : Bool
  lastCmd   : Nat
  confirmAt : Option Nat
  wait      : Option (Nat × UpdWait)
  mcNext    : Option McNext
  tload     : Option Bytes
  tHeld     : List HeldCmd
  tMicro    : Bytes
  readyWait : Option Nat
  preempt   : Bool
  hidden    : Bytes
  irqWait   : Bool
  deriving DecidableEq, Repr

/-- The seal engine beside its registers: the keys of the slots (R409). -/
structure SealSt where
  keys : SMap Bytes
  deriving DecidableEq, Repr

/-! ### Power manager and timebase -/

/-- A core rail (R467, R472): the requests repeated since the last confirmed one, when its periodic read-back is due, the
read-backs due 200 µs after requests, oldest first, and whether the last request is still to be confirmed. -/
structure RailSt where
  tries  : Nat
  readAt : Nat
  due    : List Nat
  open_  : Bool
  deriving DecidableEq, Repr

/-- The power manager and timebase beside their registers: the frequency adjustment in ppb × 2^16 and the carried
fraction of a tick (R482), calibration-absent mode (R487), the calibration record applied at boot, the one whose curves
and offsets are in force and one that takes effect at the next boundary (R490; empty: none), the corrected readings
of the sensors and the time of the last one (R478, R479), the PTP multiframe boundaries since a rail was last raised and
last lowered (R471), the time of the next boundary, the rails, the time throttled and not yet counted (R480), the
time of the last 1PPS edge (R483), the next whole second of PPS_OUT, when each pipeline pair last held a packet (R475),
the times of the last 1 ms at which a packet was assigned to an ingress and to an egress pipeline, newest first (R470), the
PM_EN in force since the last boundary (R473), when PPS_OUT and MF_SYNC fall (R483), and whether the device has tripped (R481). -/
structure PwrSt where
  adj     : Int
  frac    : Int
  absent  : Bool
  record  : Bytes
  curves  : Bytes
  newCrv  : Bytes
  temps   : List Int
  readAt  : Nat
  raised  : Nat
  lowered : Nat
  nextMf  : Nat
  rails   : List RailSt
  thrAcc  : Nat
  ppsAt   : Nat
  ppsNext : Nat
  pairAt  : SMap Nat
  passIn  : List Nat
  passOut : List Nat
  pmOn    : Bool
  ppsFall : Nat
  mfFall  : Nat
  tripped : Bool
  deriving DecidableEq, Repr

/-! ### Fabric -/

/-- A frame in a group store (R317): its numbers, the parity of its 40 cells, the fields of its overhead that the group
reads, its credit message slots and its cells, descrambled, and the time it was whole. -/
structure MemFrame where
  mfn   : Nat
  fn    : Nat
  par   : Nat
  bipP  : Nat
  reiP  : Nat
  rdiP  : Bool
  group : Nat
  memb  : Nat
  size  : Nat
  msgs  : List Word
  cells : List Bytes
  at_   : Nat
  deriving DecidableEq, Repr

/-- A lane beside its registers. Receive: the noted position and FN (R313), the missed FAWs in a row, the frames SYNC has
held (up to 8), the parity of the last frame received, the frames in a row that contradict AIS and RDI_S, the trace
cycle being received, the last whole cycle, how often it came in a row and whether a comparison is due (R326), the
result of the last BIP_S check (R321). Transmit: the number, counted from the framer's start, of the next frame, the next
cell of the frame being sent (40: none), the parity of the last frame sent and of the one being sent (R319), whether that
frame carries AIS (R322, R501, R514), and whether its lane is out of its group's stream (FORCE_AIS 1 or EN 0). -/
structure LaneSt where
  pos    : Nat
  fn     : Nat
  miss   : Nat
  held   : Nat
  par    : Option Nat
  aisRun : Nat
  rdiRun : Nat
  ttiOn  : Bool
  tti    : Bytes
  ttiOld : Bytes
  ttiRep : Nat
  due    : Bool
  reiS   : Nat
  txNext : Nat
  txCell : Nat
  txPar  : Nat
  txAcc  : Nat
  ais    : Bool
  off    : Bool
  deriving DecidableEq, Repr

/-- A routed packet in progress on a stream (R334): the stored packet, its VOQ, destination, PKT_SEQ, the number of the
next cell, its metadata. -/
structure VoqTx where
  st   : Nat
  q    : Nat
  dev  : Nat
  seq  : Nat
  cell : Nat
  md   : Bytes
  deriving DecidableEq, Repr

/-- A link group beside its registers: the stores of its members, the number of the last frame read and its parity, the
frames in a row aligned (for LOA) and those that contradict GMM and RDI_P, the result of the last BIP_P check, the
parity of the cells sent in the last frame and in the present one, with that frame's number plus 1 (R320), the packets in
progress and the next PKT_SEQ by TC, the message queue (R338), the messages of the frame being sent, the reference
period of the next read, and the cells (lane, position, cell) and messages (lane, word) of the frames read that wait for
their handling, in the order of the stream (R316). -/
structure GroupSt where
  stores : SMap (List MemFrame)
  last   : Option (Nat × Nat)
  par    : Nat
  loaRun : Nat
  gmmRun : Nat
  rdiRun : Nat
  reiP   : Nat
  txPar  : Nat
  txAcc  : Nat
  txNum  : Nat
  tx     : SMap VoqTx
  seq    : SMap Nat
  msgs   : List Word
  frame  : List Word
  readAt : Nat
  cells  : List (Nat × Nat × Bytes)
  inMsgs : List (Nat × Word)
  deriving DecidableEq, Repr

/-- A reassembly context (R335): the packet it fills, the CELL_SEQ it expects, when its last cell came; a context that is
not open only discards the cells that follow a stomp (R336). -/
structure Reasm where
  pkt   : Nat
  next  : Nat
  at_   : Nat
  open_ : Bool
  deriving DecidableEq, Repr

/-- The fabric interface beside its registers: the live counts of its counters by register offset (R340), the reference
periods counted, the period at which the framer started and that of the present multiframe's boundary, the PTP time a
waiting start awaits, lanes and groups, the reassembly contexts and last PKT_SEQ by (SRC_DEV, SRC_GROUP, TC), the ends of
the repin holds by device (R333), and the last second latched. -/
structure FabSt where
  ctr     : SMap Word
  ref     : Nat
  run0    : Nat
  mfRef   : Nat
  startAt : Option Nat
  lanes   : SMap LaneSt
  groups  : SMap GroupSt
  ctx     : SMap Reasm
  seqs    : SMap Nat
  hold    : SMap Nat
  second  : Nat
  deriving DecidableEq, Repr

/-! ### Calendar -/

/-- A frame admitted in a window (R270): its flow, how many of its bytes the TX buffer holds, whether it is whole, bad or
cut, the cells passed, whether a cell was late (R273) and the multiframe of its window. -/
structure TxFrame where
  flow  : Nat
  len   : Nat
  whole : Bool
  stomp : Bool
  sent  : Nat
  late  : Bool
  mf    : Nat
  deriving DecidableEq, Repr

/-- An RX buffer that a release will empty (R274, R275): the lengths of the cells held by cell number, the number of the
last cell, whether a cell carries a stomp, and the time of the release that has judged it, after which it is empty. -/
structure RxBuf where
  cells : SMap Nat
  last  : Option Nat
  stomp : Bool
  endAt : Option Nat
  deriving DecidableEq, Repr

/-- A scheduled cell that waits to be placed: lane, position, the cell, whether its PCRC was wrong. -/
structure RxCell where
  lane : Nat
  pos  : Nat
  cell : Bytes
  bad  : Bool
  deriving DecidableEq, Repr

/-- How the calendar runs (R295): stopped, running, the multiframe in which EN was cleared, the one more multiframe in
which frames run out. -/
inductive CalRun where
  | off | on | ending | runOut
  deriving DecidableEq, Repr

/-- The calendar beside its registers: the images of the banks with their signature blocks, the bank loading and the
length its LOAD was accepted with, the SWAP being armed and the armed banks with their multiframes, whether the live bank
became live at the last boundary, how it runs, the pages of the scheduled pool (R271, 256 bytes each), the frames of
windows by bank × 16,384 + window, the RX buffers by first page, the last release made of each bank × 16,384 + release
with its multiframe and its frame's length, the cells waiting to be placed, the multiframe at which output resumes after a
RESTART (R298), and what the digest of the present multiframe covers (R505): cells by lane × 16,384 + position, releases
by index, those of the live bank from 16,384 on, those made early for the next multiframe from 32,768 on. -/
structure CalSt where
  images  : List Bytes
  loading : Option Nat
  len     : Nat
  swapReq : Option (Nat × Nat)
  armed   : List (Nat × Nat)
  fresh   : Bool
  run     : CalRun
  pool    : SMap Bytes
  frames  : SMap TxFrame
  rx      : SMap RxBuf
  relDone : SMap (Nat × Nat)
  cells   : List RxCell
  resume  : Option Nat
  digTx   : SMap Bytes
  digRel  : SMap (Option Bytes)
  deriving DecidableEq, Repr

/-! ### Twin mode -/

/-- The twin controller beside its registers: when the last STATUS record was accepted, the MFN, the mate's health byte
and ACTIVE_SINCE in it, the last STATUS records accepted with their lanes (R504) as 256 × MFN + frame number, the last four
digests of this device and of the mate with their multiframes, newest first, the SWITCH multiframe announced and the one the
mate announced, whether FORCE_ACTIVE waits for its boundary, the multiframe at which an INIT device takes its role, whether a lost contest waits for its
boundary (R510), the end of the wait for a STATUS record after the fall of TWIN_HEALTH_IN (R508), and the last changes of
STATE, oldest first: their times and whether the output was held before (R514). -/
structure TwinSt where
  statAt  : Option Nat
  statMf  : Nat
  mateHl  : Nat
  mateAct : Nat
  seen    : List (Nat × Nat)
  digs    : List (Nat × Nat)
  mate    : List (Nat × Nat)
  switchM : Option Nat
  mateM   : Option Nat
  force   : Bool
  initM   : Option Nat
  yield_  : Bool
  waitTo  : Option Nat
  heldLog : List (Nat × Bool)
  deriving DecidableEq, Repr


/-! ### The device -/

/-- The whole machine. `now` is the timebase in ticks of 0.1 ns; `freeCtr` numbers the free values drawn, and both
`outs` (newest first) and `freeCtr` are the model's own, and so are `cuts`, the contents the flashes went through during the
command that wrote them last, oldest first, and the time of that command, `cutAt` (R460). `regs` holds every register whose value differs from its
reset value, by its BAR0 offset. -/
structure State where
  regs    : SMap Word
  now     : Nat
  freeCtr : Nat
  outs    : List Out
  pending : List Instr
  host    : HostSt
  boot    : BootSt
  brFT    : BridgeDir
  brTF    : BridgeDir
  tap     : TapSt
  pkts    : SMap Packet
  line    : LineSt
  plate   : PlateSt
  ppm     : PpmSt
  tbl     : TblSt
  asa     : AsaSt
  bpm     : BpmSt
  q       : QSt
  burin   : BurinSt
  flash   : FlashSt
  cuts    : List FlashSt
  cutAt   : Nat
  upd     : UpdSt
  sealSt  : SealSt
  pwr     : PwrSt
  fab     : FabSt
  cal     : CalSt
  twin    : TwinSt
  deriving DecidableEq, Repr

/-- Faults: no behaviour of the spec stops the block as a whole, so there is none. -/
inductive Fault where
  deriving DecidableEq, Repr

/-- Refusals. -/
inductive Refusal where
  /-- An arm of the dispatcher whose command has no meaning yet. Safe: the machine stops. -/
  | notModelled (mnemonic : String)
  /-- Raised by every meaning on operands that name nothing the device has (`Instr.wf`). Safe: the machine stops. -/
  | illFormed
  deriving DecidableEq, Repr

/-! ### Reset values of the parts -/

def emptyBank : PlateBank :=
  { image := [], metaAcc := [], graph := [], code := none, badWords := [], badSeen := [],
    byUpd := false }

def emptyReorder : Reorder := { next := 0, e := 0, since := 0, holes := [] }

def emptyDir : BridgeDir :=
  { schedQ := [], routedQ := [], next := 0, sent := [], resend := [], expect := 0, waiting := [], got := [],
    replays := [], retired := [], stopped := false, wires := [] }

def emptyTap : TapSt := { ctl := .reset, instr := .idcode, ir := [], dr := [], cells := [], ac := false }

def emptyQueue : QueueSt :=
  { img := zeros 32, ents := [], depth := 0, ondie := 0, cb := 0, tokens := 0, tokAt := 0, deficit := 0, fwd := 0,
    drop := 0, mcDrop := 0, bad := false, reqAt := 0, active := false }

def emptyNode : NodeSt :=
  { img := zeros 16, tokens := 0, tokAt := 0, deficit := 0, ptr := [], bad := false }

def emptyPolicer : PolicerSt := { img := zeros 32, c := 0, p := 0, at_ := 0, bad := false }

def emptyOwner : OwnerCfg :=
  { valid := false, recs := [], plateKeys := ⟨[], 0⟩, updKeys := ⟨[], 0⟩, rootKey := [], minSet := 0, console := false }

/-- What is taken where neither copy of the BCR is valid: slot 0 confirmed, no trial (R440). -/
def emptyBcr : Bcr :=
  { seq := 0, confirmed := 0, trialSlot := 0, trial := false, confirming := false, dual := false, confArea := 0,
    tries := 0, confId := 0, trialId := 0 }

/-- 64 bytes of erased NOR flash. -/
def blank64 : Bytes := List.replicate 64 0xFF

/-- An erased slot. -/
def emptySlot : SetSlot := { head := blank64, manifest := [], images := [[], [], [], [], []], spoilt := false }

def emptySet : RunSet := { hashes := [], compat := [], setId := 0, slot := 0 }

/-- The state after power-on reset, POR_N still to rise (R19, R525). -/
def State.reset : State :=
  { regs := [], now := 0, freeCtr := 0, outs := [], pending := [],
    host := { recOk := [false, false, false, false], inReset := [false, false, false, false],
              perst := [false, false], training := [false, false], held := [], latch := [], msixTbl := [], msixOpen := [],
              msixPend := [], forced := [0, 0, 0, 0], coal := [], erqF := [], erqT := [],
              smb := [0, 0, 0, 0, 0], smbAt := 0 },
    boot := { straps := ⟨false, 0, false⟩, porAt := 0, stewardUp := false, restarting := false, faultAt := 0,
              hbmDone := [false, false, false, false, false], hbmBad := [false, false, false, false, false],
              serdesDone := false, traceDone := false, f0Out := false, ready := false, failed := false,
              halted := false, presets := [], seeds := [[], [], [], [], []] },
    brFT := emptyDir, brTF := emptyDir, tap := emptyTap,
    pkts := [],
    line := { rr := 0, streams := [], rx := [], macQ := [], tsFifo := [], holds := [], xoff := [], sendRf := [],
              markers := [] },
    plate := { banks := [emptyBank, emptyBank], live := none, swapTo := none, swapAt := 0, loading := none, len := 0 },
    ppm := { store := [], bad := [] },
    tbl := { words := [], leaves := [], nextHop := [], group := [], member := [], em := [], bad := [], told := [],
             fenceC := [none, none, none, none], fenceR := [none, none, none, none],
             big := [false, false, false, false], evSeq := 0, visited := [], scrubbed := [] },
    asa := { rows := [], badRes := [], told := [], lost := [], scrubbed := [] },
    bpm := { pages := [], refs := [], badRefs := [], lastStk := 3, lostStk := [0, 0, 0, 0, 0, 0], stopped := false,
             schedRes := [], unc := [0, 0, 0, 0], uncSec := 0 },
    q := { arrivals := [], order := [], nextPkt := 0, stored := [], queues := [], n1 := [], n2 := [], n3 := [], portN := [],
           policers := [], ecnStby := [], ecnAct := [], crStby := [], crAct := [], mcIn := [], mcEg := [],
           mcEnt := [], bad := [], pfcHeld := [], pfcXoff := [], sources := [], tcDef := [], srcPtr := [],
           grantAt := [], reqIn := [], grantIn := [], recirc := [], recircAt := 0, started := [],
           flushes := [none, none, none, none] }
    burin := { ctx := [], queue := [], run := [], txb := [], vendor := ⟨[], 0, [], []⟩, cust := ⟨[], 0, [], []⟩,
               bad := [], nqSeq := [0, 0, 0, 0], late := [], deletes := [], verify := none, load := none, vload := none }
    flash := { owner := [emptyOwner, emptyOwner], bcr := [blank64, blank64], slots := [emptySlot, emptySlot], areas := [[], []],
               calib := [], scratch := [] }
    cuts := []
    cutAt := 0
    upd := { cfg := emptyOwner, bcr := emptyBcr, run := emptySet, prev := none, trialBoot := false, lastCmd := 0,
             confirmAt := none, wait := none, readyWait := none, mcNext := none, tload := none, tHeld := [], tMicro := [],
             preempt := false, hidden := [], irqWait := false }
    sealSt := { keys := [] }
    pwr := { adj := 0, frac := 0, absent := false, record := [], curves := [], newCrv := [], temps := [], readAt := 0,
             raised := 0, lowered := 0, nextMf := 0, rails := [⟨0, 0, [], false⟩, ⟨0, 0, [], false⟩], thrAcc := 0, ppsAt := 0,
             ppsNext := 0, pairAt := [], passIn := [], passOut := [], pmOn := false, ppsFall := 0, mfFall := 0, tripped := false }
    fab := { ctr := [], ref := 0, run0 := 0, mfRef := 0, startAt := none, lanes := [], groups := [], ctx := [], seqs := [],
             hold := [], second := 0 }
    cal := { images := [[], []], loading := none, len := 0, swapReq := none, armed := [], fresh := false, run := .off,
             pool := [], frames := [], rx := [], relDone := [], cells := [], resume := none, digTx := [], digRel := [] }
    twin := { statAt := none, statMf := 0, mateHl := 0, mateAct := 0, seen := [], digs := [], mate := [], switchM := none,
              mateM := none, force := false, initM := none, yield_ := false, waitTo := none, heldLog := [] }
  }

end Sys2Proof.Machine
end

