-- ==== Sys2Proof/Machine/Ops.lean ====
section
/-! DEFINITION. The shared operations: reading and writing registers, error records (R397 to R402), interrupts (R390
to R392), the partition map (R370 to R383) and the life of a command (R546, R547). -/

namespace Sys2Proof.Machine

/-- What a command answers. -/
abbrev Res := Host.Outcome State Fault Refusal

/-- Run a command whose operands name something the device has; refuse any other by name. -/
def guardWf (ok : Bool) (t : State) : Res := if ok then .next t else .refused .illFormed

/-! ### Registers -/

/-- The register at an offset. -/
def State.rd (s : State) (off : Nat) : Word := smapGet regReset off s.regs

/-- Store a register. -/
def State.wr (off : Nat) (v : Word) (s : State) : State := { s with regs := smapPut regReset off v s.regs }

/-- A field of a register. -/
def State.fld (s : State) (off : Nat) (f : Fld) : Nat := getF (s.rd off) f

/-- A one-bit field read as a Bool. -/
def State.flag (s : State) (off : Nat) (f : Fld) : Bool := s.fld off f != 0

/-- Store a field of a register. -/
def State.setFld (off : Nat) (f : Fld) (v : Nat) (s : State) : State := s.wr off (setF (s.rd off) f v)

/-- Add to a 64-bit counter, which wraps (R9). -/
def State.bump (off n : Nat) (s : State) : State := s.wr off (s.rd off + BitVec.ofNat 64 n)

/-- Add 1 to a counter. -/
def State.inc (off : Nat) (s : State) : State := s.bump off 1

/-- Something leaves the device. -/
def State.emit (o : Out) (s : State) : State := { s with outs := o :: s.outs }

/-- Do `f` where `b` holds. -/
def doIf (b : Bool) (f : State → State) (s : State) : State := if b then f s else s

/-- Do `f` for each element of a list in order. -/
def forEach {α : Type} (l : List α) (f : α → State → State) (s : State) : State := l.foldl (fun s a => f a s) s

/-! ### The partition map (R370 to R383) -/

/-- Word `i` of partition record `p` (R378). -/
def State.pmap (s : State) (p i : Nat) : Nat := (s.rd (R.pmap p i)).toNat

/-- PMAP_LOCK (R382). -/
def State.locked (s : State) : Bool := s.flag R.pmapLock F.pmapLockPmapLock

/-- Whether partition `p` is enabled: its record passed and its function is presented (R371, R382). -/
def State.enabled (s : State) (p : Nat) : Bool := s.locked && s.host.recOk.getD p false

/-- PORT and FUNC of record `p`. -/
def State.fnOf (s : State) (p : Nat) : Fn := ⟨nbits (s.pmap p 0) 15 8, nbits (s.pmap p 0) 23 16⟩

/-- The partition that owns a function (R371). -/
def State.partOf (s : State) (fn : Fn) : Option Nat :=
  [0, 1, 2, 3].find? (fun p => s.enabled p && s.fnOf p == fn)

/-- BLOCK_ACCESS of block `b`: 0 none, 1 read, 2 read-write. -/
def State.blockAccess (s : State) (p b : Nat) : Nat := nbits (s.pmap p 1) (2 * b + 1) (2 * b)

/-- Right `i` of R379. -/
def State.right (s : State) (p i : Nat) : Bool := nbit (s.pmap p 0) (32 + i)

namespace Right
def plate : Nat := 0
def calendar : Nat := 1
def bpm : Nat := 2
def burinLoad : Nat := 3
def label : Nat := 4
def hostRoute : Nat := 5
def mac : Nat := 6
def update : Nat := 7
def sealEng : Nat := 8
def calib : Nat := 9
end Right

/-- Bit `n` of STENCIL_MASK. -/
def State.stencilOk (s : State) (p n : Nat) : Bool := nbit (s.pmap p 2) n
/-- Bit `n` of KEY_SLOT_MASK. -/
def State.slotOk (s : State) (p n : Nat) : Bool := nbit (s.pmap p 3) n && n < 32
/-- Bit `t` of ASA_MASK. -/
def State.asaOk (s : State) (p t : Nat) : Bool := nbit (s.pmap p 3) (32 + t) && t < 16
/-- Bit `n` of MAC_PIPE_MASK. -/
def State.macPipeOk (s : State) (p n : Nat) : Bool := nbit (s.pmap p 3) (48 + n) && n < 16
/-- Bit `r` of QUOTA_MASK. -/
def State.quotaOk (s : State) (p r : Nat) : Bool := nbit (s.pmap p 28) r && r < 32

/-- Whether range `kind` of R380 grants the indices `first` to `first + n − 1`. -/
def State.inRange (s : State) (p kind first n : Nat) : Bool :=
  let base := s.pmap p (4 + kind) % 2 ^ 32
  let cnt := s.pmap p (4 + kind) / 2 ^ 32
  0 < cnt && base ≤ first && first + n ≤ base + cnt

/-- The functions the PCIE_MODE strap presents (R370). -/
def presented (mode : Nat) (fn : Fn) : Bool :=
  match mode with
  | 0 => fn == ⟨0, 0⟩
  | 1 => fn == ⟨0, 0⟩ || fn == ⟨1, 0⟩
  | 2 => fn == ⟨0, 0⟩ || fn == ⟨0, 1⟩
  | _ => fn.port < 2 && fn.func < 2

/-! ### Interrupts (R390 to R392) -/

/-- Interrupts of a partition are sent while it is enabled and not in reset (R384). -/
def State.mayInt (s : State) (p : Nat) : Bool := s.enabled p && !s.host.inReset.getD p false

/-- The message of a vector, with the address and data of its table entry (R373). -/
def State.msiOut (s : State) (p vec : Nat) : Out :=
  let w := fun (i : Nat) => (smapGet (fun _ => (0 : Word)) (512 * p + 2 * vec + i) s.host.msixTbl).toNat
  .msix p vec (w 0) (w 1)

/-- Send the MSI-X message of a source, or hold it pending while its vector is masked (R391). -/
def sendMsi (p src : Nat) (s : State) : State :=
  let vec := s.fld (R.intVec p src) F.intVecVector
  if s.host.msixOpen.contains (256 * p + vec) then s.emit (s.msiOut p vec)
  else if s.host.msixPend.contains (256 * p + vec) then s
  else { s with host := { s.host with msixPend := s.host.msixPend ++ [256 * p + vec] } }

/-- Write an interrupt status or enable register and send a message for each bit of STATUS AND ENABLE that turns
from 0 to 1 (R391); `src0` is the source of bit 0. -/
def intWrite (p src0 n statOff enOff : Nat) (stat en : Word) (s : State) : State :=
  let was := s.rd statOff &&& s.rd enOff
  let is := stat &&& en
  let s := (s.wr statOff stat).wr enOff en
  forEach (List.range n) (fun i s => doIf (bitOf is i && !bitOf was i) (sendMsi p (src0 + i)) s) s

/-- A source raises its status bit (R391). -/
def raiseSrc (p src : Nat) (s : State) : State :=
  if s.mayInt p then
    if src < 17 then
      intWrite p 0 17 (R.intStatus p) (R.intEnable p) (setBit (s.rd (R.intStatus p)) src true)
        (s.rd (R.intEnable p)) s
    else
      intWrite p 17 64 (R.intRingStatus p) (R.intRingEnable p)
        (setBit (s.rd (R.intRingStatus p)) (src - 17) true) (s.rd (R.intRingEnable p)) s
  else s

/-- A source delivered to the partitions with read access to a block (R390). -/
def raiseBlock (src blk : Nat) (s : State) : State :=
  forEach [0, 1, 2, 3] (fun p s => doIf (1 ≤ s.blockAccess p blk) (raiseSrc p src) s) s

/-- A source delivered to the partitions that hold a right (R390). -/
def raiseRight (src right : Nat) (s : State) : State :=
  forEach [0, 1, 2, 3] (fun p s => doIf (s.right p right) (raiseSrc p src) s) s

/-- A fatal record: source 0 or 1 in every enabled partition that is not in reset, with its message whatever
INT_ENABLE says, and the pins (R402). -/
def raiseFatal (src : Nat) (s : State) : State :=
  forEach [0, 1, 2, 3] (fun p s =>
    if s.mayInt p then
      let s := s.wr (R.intStatus p) (setBit (s.rd (R.intStatus p)) src true)
      sendMsi p src { s with host := { s.host with
        forced := s.host.forced.set p (s.host.forced.getD p 0 ||| 2 ^ src) } }
    else s) s

/-- Whether pin INT_N_k is asserted (low): a partition with PIN_EN 1 and PIN k has a bit in STATUS AND ENABLE or in
RING_STATUS AND RING_ENABLE (R392), or a fatal source holds it (R402). -/
def State.intPin (s : State) (k : Nat) : Bool :=
  [0, 1, 2, 3].any (fun p =>
    s.flag (R.intPinCfg p) F.intPinCfgPinEn && s.fld (R.intPinCfg p) F.intPinCfgPin == k &&
      ((s.rd (R.intStatus p) &&& s.rd (R.intEnable p)) != 0 ||
       (s.rd (R.intRingStatus p) &&& s.rd (R.intRingEnable p)) != 0 ||
       (s.rd (R.intStatus p)).toNat &&& s.host.forced.getD p 0 != 0))

/-- MF_SYNC rises at calendar time 0 and is high for 409.6 ns (R483). -/
def mfPulse (s : State) : State :=
  if s.flag R.pwrTbCfg F.pwrTbCfgMfSyncEn then
    ({ s with pwr := { s.pwr with mfFall := s.now + 4096 } }).emit (.pulse 1)
  else s

/-! ### Error records (R397 to R402) -/

/-- Severities of R16. -/
inductive Sev where
  | c | k | f
  deriving DecidableEq, Repr

def Sev.bits : Sev → Nat
  | .c => 0
  | .k => 1
  | .f => 2

/-- The two dies with an ERQ. -/
inductive Die where
  | f | t
  deriving DecidableEq, Repr

def Die.num : Die → Nat
  | .f => 0
  | .t => 1

/-- The 32 bytes of a record (R397). -/
def ErqRec.bytes (r : ErqRec) : Bytes :=
  toLe 2 r.unit ++ toLe 2 r.code ++ toLe 2 r.count ++ toLe 10 (stampOf r.stamp) ++ slice 0 16 r.ctx

/-- The records queued on a die, oldest first. -/
def State.erq (s : State) : Die → List ErqRec
  | .f => s.host.erqF
  | .t => s.host.erqT

def setErq (d : Die) (l : List ErqRec) (s : State) : State :=
  match d with
  | .f => { s with host := { s.host with erqF := l } }
  | .t => { s with host := { s.host with erqT := l } }

/-- Merge an occurrence into the record of its UNIT and CODE, if one is queued: COUNT rises by 1 and stays at 65,535
(R397, R399). -/
def mergeRec (unit code now : Nat) : List ErqRec → Option (List ErqRec)
  | [] => none
  | r :: rs =>
    if r.unit = unit ∧ r.code = code then
      some ({ r with count := min (r.count + 1) 65535, last := now } :: rs)
    else (mergeRec unit code now rs).map (r :: ·)

/-- The context bytes of the items a rule names, each little-endian in its natural width (R397). -/
def ctxBytes (items : List (Nat × Nat)) : Bytes := slice 0 16 (items.flatMap (fun i => toLe i.2 i.1))

/-- The state of the twin controller (R512). -/
def State.twinState (s : State) : Nat := s.fld R.twinState F.twinStateState

/-- A device in INIT, STANDBY or FAILED holds its output (R501). -/
def State.outputHeld (s : State) : Bool := s.twinState == 1 || s.twinState == 2 || s.twinState == 4

/-- A state change of the twin controller, with its interrupt; the fabric output follows at the next frame (R514). -/
def twinTo (st : Nat) (s : State) : State :=
  let l := s.twin.heldLog ++ [(s.now, s.outputHeld)]
  let s := { s with twin := { s.twin with heldLog := l.drop (l.length - 4) } }
  doIf (s.flag R.twinCfg F.twinCfgIrqEn) (raiseBlock 16 15) (s.setFld R.twinState F.twinStateState st)

/-- A fatal occurrence other than a steward fault sends an ACTIVE twin to FAILED (R498). -/
def twinFall (s : State) : State := if s.twinState = 3 then twinTo 4 s else s

/-- The time a die reads: the master's on the F-die; on the T-die the slaved copy, less than 2 ns away from it (R20). -/
def State.nowOf (s : State) (d : Die) : Nat :=
  match d with
  | .f => s.now
  | .t => s.now + Config.copyOffset s.now % 39 - 19

/-- An error occurrence (R399, R401, R402): merged, queued, or dropped and counted; a fatal one escalates. -/
def report (d : Die) (cls inst : Nat) (sev : Sev) (code : Nat) (items : List (Nat × Nat)) (s : State) : State :=
  let unit := 1024 * cls + inst % 1024
  let cw := 16384 * sev.bits + code
  let now := s.nowOf d
  let r : ErqRec := { unit := unit, code := cw, count := 1, stamp := now, last := now, ctx := ctxBytes items }
  let n := d.num
  let s := doIf (sev == .f && !s.flag (R.erqStat n) F.erqStatFatal)
    (fun s => forEach [0, 1, 2, 3] (fun i s => s.wr (R.erqFatal n i) (wordAt i r.bytes))
      (s.setFld (R.erqStat n) F.erqStatFatal 1)) s
  let q := s.erq d
  let merged := mergeRec unit cw now q
  let s :=
    match merged with
    | some q' => setErq d q' s
    | none =>
      if q.length < 64 then setErq d (q ++ [r]) s
      else (s.setFld (R.erqStat n) F.erqStatErqOvf 1).inc (R.erqDropped n)
  if sev == .f then doIf (cls != 0x02) twinFall (raiseFatal n s)
  else doIf (merged.isNone && q.length < 64) (raiseBlock n 16) s

/-- The record of a denied access (R7, R398): the offset, the port, the function, and the access: 0 read, 1 write,
2 command. -/
def denied (fn : Fn) (off acc : Nat) (s : State) : State :=
  report .f 0x01 ((s.partOf fn).getD (Config.unownedInstance (2 * fn.port + fn.func))) .k 0x001
    [(off, 8), (fn.port, 1), (fn.func, 1), (acc, 1)] s

/-- The record of a write rejected with QUIESCE_REQUIRED (R11, R398). -/
def quiesceLog (fn : Fn) (off acc : Nat) (s : State) : State :=
  report .f 0x01 ((s.partOf fn).getD (Config.unownedInstance (2 * fn.port + fn.func))) .k 0x002
    [(off, 8), (fn.port, 1), (fn.func, 1), (acc, 1)] s

/-! ### Register access by a function -/

/-- What the partition map says of an access. -/
inductive Verdict where
  | ok (part : Nat) | silent | denied
  deriving DecidableEq, Repr

/-- The verdict on an access of a function to a documented register (R2, R372, R381, R383). The identity block ignores
writes without logging; PMAP registers answer every assigned function, and a write to them meets their class. -/
def permit (s : State) (fn : Fn) (d : RegDesc) (ix : List Nat) (write : Bool) : Verdict :=
  let b := blockOf d.base
  if b = 0 then (if write then .silent else .ok ((s.partOf fn).getD 0))
  else if !s.locked then .silent
  else match s.partOf fn with
    | none => .denied
    | some p =>
      if d.perPart then (if ix.headD 0 = p then .ok p else .denied)
      else if b = 1 then .ok p
      else if write && d.reg == .bpmQuota then
        (if s.right p Right.bpm && s.quotaOk p (ix.headD 0) then .ok p else .denied)
      else if (if write then 2 else 1) ≤ s.blockAccess p b then .ok p
      else .denied

/-- Key of a function in the per-function maps. -/
def fnKey (fn : Fn) : Nat := 2 * fn.port + fn.func

/-- Any access of a function discards the low half it holds (R375). -/
def dropHeld (fn : Fn) (s : State) : State :=
  { s with host := { s.host with held := smapErase (fnKey fn) s.host.held } }

/-- A function reaches the device: the strap presents it (R370) and PERST_N of its port is high. -/
def State.reached (s : State) (fn : Fn) : Bool :=
  presented s.boot.straps.pcieMode fn && !s.host.perst.getD fn.port false

/-- A register access of a function: filtered by the map, `k` runs on the register with the partition; a denied one is
logged (R7), a reserved offset is neither read nor logged (R18). `acc` is 0 read, 1 write; a write to a command register that
the map denies is a write, for it issues no command. -/
def access (fn : Fn) (off acc : Nat) (k : Nat → RegDesc → List Nat → State → State) (s : State) : State :=
  if !s.reached fn then s
  else
    let s := dropHeld fn s
    match regAt off with
    | none => s
    | some (d, ix) =>
      match permit s fn d ix (acc != 0) with
      | .ok p => k p d ix s
      | .silent => s
      | .denied => denied fn off acc s

/-! ### Completion codes (R13) -/

namespace Code
def ok : Nat := 0x00
def busy : Nat := 0x01
def nospace : Nat := 0x02
def notfound : Nat := 0x03
def denied : Nat := 0x04
def staleBank : Nat := 0x05
def length : Nat := 0x06
def tagFail : Nat := 0x07
def exhausted : Nat := 0x08
def incompatible : Nat := 0x09
def signature : Nat := 0x0A
def quiesceRequired : Nat := 0x0B
def eccUncorrectable : Nat := 0x0C
def timeout : Nat := 0x0D
def updBusy : Nat := 0x0E
def bankBusy : Nat := 0x0F
end Code

/-! ### The life of a command (R547) -/

/-- The command interfaces; those of a partition carry it. -/
inductive Ifc where
  | plate | ppm | tbl (p : Nat) | asa (p : Nat) | bpm (p : Nat) | q (p : Nat) | sched | burin (p : Nat) | sealE
  | upd | twin | mbx (p : Nat)
  deriving DecidableEq, Repr

/-- The status register of an interface. -/
def Ifc.status : Ifc → Nat
  | .plate => R.plateStatus
  | .ppm => R.ppmStatus
  | .tbl p => R.tblStatus p
  | .asa p => R.asaStatus p
  | .bpm p => R.bpmStatus p
  | .q p => R.qStatus p
  | .sched => R.schedStatus
  | .burin p => R.burinStatus p
  | .sealE => R.sealStatus
  | .upd => R.updStatus
  | .twin => R.twinStatus
  | .mbx p => R.mbxStatus p

/-- The command register of an interface. -/
def Ifc.cmd : Ifc → Nat
  | .plate => R.plateCmd
  | .ppm => R.ppmCmd
  | .tbl p => R.tblCmd p
  | .asa p => R.asaCmd p
  | .bpm p => R.bpmCmd p
  | .q p => R.qCmd p
  | .sched => R.schedCmd
  | .burin p => R.burinCmd p
  | .sealE => R.sealCmd
  | .upd => R.updCmd
  | .twin => R.twinCmd
  | .mbx p => R.mbxCmd p

/-- Whether the status register has LAST_OP. -/
def Ifc.hasLastOp : Ifc → Bool
  | .ppm | .mbx _ => false
  | _ => true

/-- Whether the status register has ISSUER. -/
def Ifc.hasIssuer : Ifc → Bool
  | .plate | .ppm | .sched | .upd => true
  | _ => false

/-- Whether the status register has DETAIL. -/
def Ifc.hasDetail : Ifc → Bool
  | .plate | .sched | .burin _ | .upd => true
  | _ => false

/-- The fields every status register has at the same bits. -/
def stBusy : Fld := (0, 0)
def stDone : Fld := (1, 1)
def stOverrun : Fld := (2, 2)
def stIssuer : Fld := (17, 16)
def stLastOp : Fld := (31, 24)
def stCode : Fld := (39, 32)
def stDetail : Fld := (55, 48)

/-- DONE of an interface raises its interrupt source where its enable bit is 1 (R390 and the interface's register). -/
def doneIrq (i : Ifc) (s : State) : State :=
  match i with
  | .plate => doIf (s.flag R.plateCtl F.plateCtlDoneIrqEn) (raiseBlock 3 2) s
  | .ppm => doIf (s.flag R.ppmCfg F.ppmCfgDoneIrqEn) (raiseBlock 4 4) s
  | .tbl _ => s
  | .asa p => doIf (s.flag (R.asaCtl p) F.asaCtlDoneIrqEn) (raiseSrc p 6) s
  | .bpm p => doIf (s.flag R.bpmCfg F.bpmCfgIrqEn) (raiseSrc p 7) s
  | .q p => doIf (s.flag (R.qCtl p) F.qCtlDoneIrqEn) (raiseSrc p 8) s
  | .sched => doIf (s.flag R.schedCtl F.schedCtlDoneIrqEn) (raiseBlock 9 9) s
  | .burin p => doIf (s.flag (R.burinCtl p) F.burinCtlDoneIrqEn) (raiseSrc p 12) s
  | .sealE =>
    doIf (s.flag R.sealCtl F.sealCtlDoneIrqEn && s.fld R.sealLock F.sealLockHolder < 4)
      (raiseSrc (s.fld R.sealLock F.sealLockHolder) 13) s
  | .upd => doIf (s.flag R.updCfg F.updCfgDoneIrqEn) (raiseRight 14 Right.update) s
  | .twin => doIf (s.flag R.twinCfg F.twinCfgIrqEn) (raiseBlock 16 15) s
  | .mbx p => doIf (s.flag (R.mbxStatus p) F.mbxStatusIrqEn) (raiseSrc p 2) s

/-- The acceptance of a command: BUSY set, DONE cleared, LAST_OP and ISSUER written in one step (R547). -/
def accept (i : Ifc) (op p : Nat) (s : State) : State :=
  let w := setF (setF (s.rd i.status) stBusy 1) stDone 0
  let w := if i.hasLastOp then setF w stLastOp op else w
  let w := if i.hasIssuer then setF w stIssuer p else w
  s.wr i.status w

/-- The completion of a command: CODE and DETAIL written, BUSY cleared, DONE set in one step (R547), and the done
interrupt. -/
def complete (i : Ifc) (code detail : Nat) (s : State) : State :=
  let w := setF (setF (setF (s.rd i.status) stCode code) stBusy 0) stDone 1
  let w := if i.hasDetail then setF w stDetail detail else w
  doneIrq i (s.wr i.status w)

/-- BUSY of an interface. -/
def State.busy (s : State) (i : Ifc) : Bool := s.flag i.status stBusy

/-- A command that finds BUSY set is discarded and sets OVERRUN (R58 and its like). -/
def overrun (i : Ifc) (s : State) : State := s.setFld i.status stOverrun 1

/-- A flash is written: the contents before it are among those at which the power can fail in this command (R460). -/
def flashTo (f : FlashSt → FlashSt) (s : State) : State :=
  { s with flash := f s.flash, cuts := (if s.cutAt = s.now then s.cuts else []) ++ [s.flash], cutAt := s.now }

/-- An accepted command of a T-die interface acts, or is held while the T-die section of the microcode waits for its
multiframe boundary (R452). -/
def orHold (h : HeldCmd) (act : State → State) (s : State) : State :=
  if s.upd.tload.isSome then { s with upd := { s.upd with tHeld := s.upd.tHeld ++ [h] } } else act s

/-- The way of every command written to a command register once the map has let the write through: discarded under
OVERRUN, else accepted; before READY it completes with BUSY (R528); else `act` decides. -/
def issue (i : Ifc) (op p : Nat) (act : State → State) (s : State) : State :=
  if s.busy i then overrun i s
  else
    let s := accept i op p s
    if s.boot.ready then act s else complete i Code.busy 0 s

/-- A command whose checks fail with `code` completes with it and changes nothing else (R15); DENIED is logged
(R546). -/
def failCmd (i : Ifc) (fn : Fn) (code : Nat) (s : State) : State :=
  complete i code 0 (doIf (code == Code.denied) (denied fn i.cmd 2) s)

/-- Perform `act` if no check fails, else complete with the code of the first that does (R546). -/
def runChecks (i : Ifc) (fn : Fn) (checks : List (Bool × Nat)) (act : State → State) (s : State) : State :=
  match checks.find? (fun c => !c.1) with
  | some c => failCmd i fn c.2 s
  | none => act s

/-- The bytes of consecutive data registers. -/
def State.dataBytes (s : State) (off : Nat → Nat) (n : Nat) : Bytes :=
  (List.range n).flatMap (fun i => toLe 8 (s.rd (off i)).toNat)

/-- Fill consecutive data registers from bytes; bytes past the end are 0. -/
def setData (off : Nat → Nat) (n : Nat) (b : Bytes) (s : State) : State :=
  forEach (List.range n) (fun i s => s.wr (off i) (wordAt i b)) s

end Sys2Proof.Machine
end

