-- ==== Sys2Proof/Machine/Operands.lean ====
section
/-! DEFINITION. What commands name and shared units read: the ports that exist (R82), packets and their contexts
(R32, R33), the live plate (R63), hole markers (R92). -/

namespace Sys2Proof.Machine

/-! ### Ports (R82, R226) -/

/-- Lanes of a port in a MODE; 0 where the mode has no port. -/
def modeLanes (m : Nat) : Nat :=
  match m with
  | 1 => 1
  | 2 => 1
  | 3 => 2
  | 4 => 4
  | 5 => 8
  | _ => 0

/-- Rate in Gb/s of a port in a MODE. -/
def modeRate (m : Nat) : Nat :=
  match m with
  | 1 => 100
  | 2 => 200
  | 3 => 400
  | 4 => 800
  | 5 => 1600
  | _ => 0

/-- MODE of the octet of a lane. -/
def State.laneMode (s : State) (n : Nat) : Nat := s.fld (R.lineOctetCfg (n / 8)) F.lineOctetCfgMode

/-- Lanes of port `n`. -/
def State.portWidth (s : State) (n : Nat) : Nat := modeLanes (s.laneMode n)

/-- Port `n` exists: it is the first lane of a port in the present mode (R82). -/
def State.portExists (s : State) (n : Nat) : Bool := n < 96 && s.portWidth n != 0 && n % 8 % s.portWidth n == 0

/-- Rate of port `n` in Gb/s. -/
def State.portRate (s : State) (n : Nat) : Nat := modeRate (s.laneMode n)

/-- The port exists and PORT_EN is 1; a write of PORT_EN takes effect once the port's domain is in S0 (R477), and a trip
idles every lane (R481). -/
def State.portOn (s : State) (n : Nat) : Bool :=
  s.portExists n && s.flag (R.linePortCfg n) F.linePortCfgPortEn &&
    s.fld (R.pwrWakePort n) F.pwrWakePortState == 0 && !s.pwr.tripped

/-- LINK_UP of a port. -/
def State.linkUp (s : State) (n : Nat) : Bool := s.flag (R.linePortStat n) F.linePortStatLinkUp

/-- The port receives (R104). -/
def State.rxOn (s : State) (n : Nat) : Bool := s.portOn n && s.linkUp n

/-- Counters of a line port (R104). -/
def lineCtr (port i : Nat) : Nat := R.lineCtr port i

/-- STATE of BOOT_STATE. -/
def State.bootStateOf (s : State) : Nat := s.fld R.bootState F.bootStateState

/-! ### Packets -/

/-- A packet as it enters the device, its fields at 0. -/
def noPacket : Packet :=
  { place := .pipe, stream := 0, seq := 0, port := 0, egress := false, pipe := 0, bank := 0, pass := 0, stage := none,
    bytes := [], tailIn := true, stomp := false, bad := none, md := zeros 32, stamp := 0, pr := zeros 128, prev := 0,
    effEnd := none, scan := none, hatch := 0, nh := zeros 16, label := zeros 16, outPort := 0, prio := 0, queue := 0,
    results := [] }

/-- Packet `id`, if it is listed. -/
def State.pkt (s : State) (id : Nat) : Option Packet := smapFind id s.pkts

/-- A pipeline pair holds a packet, or has held it until now (R475). -/
def touchPair (p : Packet) (s : State) : State :=
  if p.place = .pipe then { s with pwr := { s.pwr with pairAt := smapInsert (p.pipe % 8) s.now s.pwr.pairAt } } else s

/-- The times of the last 1 ms and now, newest first. -/
def passNow (now : Nat) (l : List Nat) : List Nat := now :: l.filter (fun t => decide (now < t + msT 1))

/-- A packet is assigned to a pipeline of a role: 1 ingress, 2 egress (R470). -/
def notePass (role : Nat) (s : State) : State :=
  if role = 1 then { s with pwr := { s.pwr with passIn := passNow s.now s.pwr.passIn } }
  else { s with pwr := { s.pwr with passOut := passNow s.now s.pwr.passOut } }

/-- The present entry of a packet touches its pair. -/
def touchOld (id : Nat) (s : State) : State :=
  match s.pkt id with
  | some p => touchPair p s
  | none => s

def setPkt (id : Nat) (p : Packet) (s : State) : State :=
  let s := touchPair p (touchOld id s)
  { s with pkts := smapInsert id p s.pkts }

def erasePkt (id : Nat) (s : State) : State :=
  let s := touchOld id s
  { s with pkts := smapErase id s.pkts }

/-- List a new packet; its identity is the next number. -/
def newPkt (p : Packet) (s : State) : State :=
  let s := touchPair p s
  { s with pkts := smapInsert s.q.nextPkt p s.pkts, q := { s.q with nextPkt := s.q.nextPkt + 1 } }

/-- A flit of a packet is still on its way in a direction. -/
def BridgeDir.holds (b : BridgeDir) (id : Nat) : Bool :=
  b.schedQ.any (·.owner == some id) || b.routedQ.any (·.owner == some id) ||
    b.sent.any (·.2.2.owner == some id) || b.waiting.any (·.2.owner == some id)

/-- The bytes of a packet that are still to be delivered of those handed over. -/
def BridgeDir.owed (b : BridgeDir) (id : Nat) : Nat :=
  let mine := fun (f : BrFlit) => if f.owner = some id then f.bytes.length else 0
  (b.routedQ.map mine).sum + (b.sent.map (fun e => mine e.2.2)).sum + (b.waiting.map (fun e => mine e.2)).sum

/-- Packet `id` holds a context of its pair: from its pipeline on until the whole of it has left the F-die, an ingress
packet across the bridge, an egress packet through the line MAC (R33). A packet on the bridge that has a stage came from a
pipeline. -/
def State.holdsCtx (s : State) (id : Nat) (p : Packet) : Bool :=
  match p.place with
  | .pipe | .done | .reorder | .mac => true
  | .bridge => p.stage.isSome && (!p.tailIn || s.brFT.holds id)
  | _ => false

/-- Contexts of pair `n` in use (R32). -/
def State.ctxUsed (s : State) (n : Nat) : Nat :=
  (s.pkts.filter (fun e => s.holdsCtx e.1 e.2 && e.2.pipe % 8 == n)).length

/-- Pair `n` has a free context of its 32,768. -/
def State.ctxFree (s : State) (n : Nat) : Bool := s.ctxUsed n < 32768

/-- Packets that pipeline `n` holds. -/
def State.pipeHolds (s : State) (n : Nat) : Bool := s.pkts.any (fun e => e.2.place == .pipe && e.2.pipe == n)

/-! ### The live plate -/

/-- The pair of pipeline `n` is in S0 (R477). -/
def State.pairAwake (s : State) (n : Nat) : Bool := s.fld (R.pwrWakePair (n % 8)) F.pwrWakePairState == 0

/-- A bank of the plate controller. -/
def State.bank (s : State) (b : Nat) : PlateBank := s.plate.banks.getD b emptyBank

def setBank (b : Nat) (k : PlateBank) (s : State) : State :=
  { s with plate := { s.plate with banks := s.plate.banks.set b k } }

/-- The role of pipeline `n` in the live bank; 0 while no bank is live (R42). -/
def State.role (s : State) (n : Nat) : Nat := s.fld (R.platePipe n) F.platePipeRole

/-- PIPE_QUIESCE bit of pipeline `n` (R75). -/
def State.quiescing (s : State) (n : Nat) : Bool := nbit (s.fld R.plateCtl F.plateCtlPipeQuiesce) n

/-- The spreader may give pipeline `n` a packet (R89). -/
def State.ingressOk (s : State) (n : Nat) : Bool :=
  s.plate.live.isSome && s.role n == 1 && !s.quiescing n && s.ctxFree (n % 8)

/-- The stage programme that bank `b` gives pipeline `n`. -/
def State.prog (s : State) (b n : Nat) : StageProg :=
  match (s.bank b).code with
  | some c => c.progs.getD n ⟨0, []⟩
  | none => ⟨0, []⟩

/-! ### Dropping a packet inside a pipeline (R92) -/

/-- A hole marker sets out for the reorder unit. -/
def marker (stream seq : Nat) (s : State) : State :=
  { s with line := { s.line with markers := s.line.markers ++ [(stream, seq)] } }

/-- The packet leaves the F-die: its context is free; an ingress packet leaves a hole marker with its port and
sequence number. -/
def leaveHole (id : Nat) (s : State) : State :=
  match s.pkt id with
  | none => s
  | some p => doIf (!p.egress) (marker p.stream p.seq) (erasePkt id s)

/-- Bits [lo + w − 1:lo] of the metadata read as one little-endian value (R228). -/
def mdGet (md : Bytes) (lo w : Nat) : Nat := leNat md / 2 ^ lo % 2 ^ w

/-- The metadata with those bits set to `v`. -/
def mdSet (lo w v : Nat) (md : Bytes) : Bytes :=
  let x := leNat md
  toLe 32 (x - x / 2 ^ lo % 2 ^ w * 2 ^ lo + v % 2 ^ w * 2 ^ lo)

namespace Md
/-- The fields of the fixed metadata (R228): lowest bit and width. -/
def layout : Nat × Nat := (0, 16)
def voq : Nat × Nat := (16, 18)
def outPort : Nat × Nat := (34, 7)
def eqOffset : Nat × Nat := (41, 16)
def tc : Nat × Nat := (57, 3)
def colour : Nat × Nat := (60, 2)
def polEn : Nat × Nat := (62, 1)
def policer : Nat × Nat := (63, 19)
def ect : Nat × Nat := (82, 1)
def ceMark : Nat × Nat := (83, 1)
def mc : Nat × Nat := (84, 1)
def mcGroup : Nat × Nat := (85, 16)
def len : Nat × Nat := (101, 14)
def target : Nat × Nat := (115, 2)
end Md

/-- A field of the fixed metadata. -/
def mdF (md : Bytes) (f : Nat × Nat) : Nat := mdGet md f.1 f.2

/-- The metadata with a fixed field set. -/
def mdPut (f : Nat × Nat) (v : Nat) (md : Bytes) : Bytes := mdSet f.1 f.2 v md

/-! ### Arrivals at the queue engine -/

/-- Packet `id` of requester `r` is on its way to the queue engine and waits for its handling (R229). -/
def arrive (r id : Nat) (s : State) : State :=
  { s with q := { s.q with arrivals := smapInsert r (smapGet (fun _ => []) r s.q.arrivals ++ [id]) s.q.arrivals } }

end Sys2Proof.Machine
end

