-- ==== Sys2Proof/Machine/Bridge.lean ====
section
/-! DEFINITION. The Septien bridge (R22 to R26): the sender of each direction with its two classes and its replay
buffer, the receiver that puts flits in order, retirement of channels, spare wires. -/

namespace Sys2Proof.Machine

/-- Direction 0 F to T, 1 T to F. -/
def State.bridge (s : State) (dir : Nat) : BridgeDir := if dir = 0 then s.brFT else s.brTF
def setBridge (dir : Nat) (b : BridgeDir) (s : State) : State :=
  if dir = 0 then { s with brFT := b } else { s with brTF := b }

/-! ### The sender -/

/-- The flits of a byte string: 64 bytes each, the filling of the last left out; log 146. -/
def flitsOf (sched : Bool) (owner : Option Nat) (b : Bytes) : List BrFlit :=
  (List.range (ceilDiv b.length 64)).map (fun i => ⟨sched, owner, (b.drop (64 * i)).take 64⟩)

/-- Bytes of a routed packet are handed to the bridge. -/
def bridgeRouted (dir id : Nat) (b : Bytes) (s : State) : State :=
  let d := s.bridge dir
  setBridge dir { d with routedQ := d.routedQ ++ flitsOf false (some id) b } s

/-- The tail of a routed packet is handed to the bridge: a flit of its own where no bytes are left. -/
def bridgeTail (dir id : Nat) (b : Bytes) (s : State) : State :=
  if b.isEmpty then
    let d := s.bridge dir
    setBridge dir { d with routedQ := d.routedQ ++ [⟨false, some id, []⟩] } s
  else bridgeRouted dir id b s

/-- Bytes of the scheduled class are handed to the bridge. -/
def bridgeSched (dir : Nat) (b : Bytes) (s : State) : State :=
  let d := s.bridge dir
  setBridge dir { d with schedQ := d.schedQ ++ flitsOf true none b } s

/-- The arbitration of a channel that is free to start a flit (R23): a scheduled flit before any routed one; with neither
waiting, a flit `other` of a unit whose flits the model does not queue. A started flit is never taken back. -/
def BridgeDir.start (other : Bytes) (b : BridgeDir) : BridgeDir :=
  let f := (b.schedQ ++ b.routedQ).headD ⟨false, none, other⟩
  { b with next := b.next + 1, sent := smapInsert b.next (48, f) b.sent, schedQ := b.schedQ.tail,
           routedQ := if b.schedQ.isEmpty then b.routedQ.tail else b.routedQ }

/-- Start `n` flits, each on a channel of its own. -/
def BridgeDir.startN (other : Bytes) : Nat → BridgeDir → BridgeDir
  | 0, b => b
  | n + 1, b => BridgeDir.startN other n (b.start other)

/-- Flit `seq` is started, with those before it. DESIGN CHOICE: a flit that waits starts when a copy of it, or of a later one,
is received, and not before, so a scheduled flit handed over in between goes first; log 146. -/
def BridgeDir.started (seq : Nat) (other : Bytes) (b : BridgeDir) : BridgeDir := b.startN other (seq + 1 - b.next)

/-- Flit `seq` can arrive on channel `chan` now: the flits of a retired channel are resent, in order, before any flit is
started (R25); a flit that is on its way stays on its channel. -/
def BridgeDir.mayCarry (b : BridgeDir) (chan seq : Nat) : Bool :=
  match smapFind seq b.sent with
  | some (c, _) => if b.resend.contains seq then b.resend.head? == some seq else c == chan || c == 48
  | none => b.next ≤ seq && b.resend.isEmpty

/-- What was handed over of a packet has crossed, and no packet that the same unit sent before it is still to be handled
(R22). -/
def State.crossed (s : State) (dir id : Nat) : Bool :=
  !(s.bridge dir).holds id && (!s.q.order.contains id || s.q.order.head? == some id)

/-! ### Retirement (R25) -/

/-- A record of a channel: on the receiving die, with the direction in bit 6 of the instance (R398). -/
def bridgeRecord (dir chan : Nat) (sev : Sev) (code : Nat) (s : State) : State :=
  report (if dir = 0 then .t else .f) 0x03 (64 * dir + chan) sev code [] s

/-- The numbers of the unacknowledged flits of a channel. -/
def BridgeDir.unacked (b : BridgeDir) (chan : Nat) : List Nat :=
  (b.sent.filter (fun e => e.2.1 == chan)).map (·.1)

/-- The flits to be resent once a channel is retired as well, in the order in which they were sent. -/
def BridgeDir.toResend (b : BridgeDir) (chan : Nat) : List Nat :=
  (b.sent.filter (fun e => b.resend.contains e.1 || e.2.1 == chan)).map (·.1)

/-- A channel is retired: its unacknowledged flits wait to be resent; an eighth one is fatal and stops the direction
(R16, R25). -/
def retireChannel (dir chan : Nat) (s : State) : State :=
  let b := s.bridge dir
  if b.retired.contains chan then s
  else
    let l := b.unacked chan
    let b := { b with retired := b.retired ++ [chan], resend := b.toResend chan,
                      replays := b.replays.filter (fun e => !l.contains e.1) }
    let last := b.retired.length == 8
    let s := bridgeRecord dir chan .k 0x003 (setBridge dir { b with stopped := b.stopped || last } s)
    doIf last (bridgeRecord dir chan .f 0x004) s

/-! ### The receiver -/

/-- The flits that follow in sequence are delivered; `n` is how many may wait. -/
def bridgeDrain : Nat → BridgeDir → BridgeDir
  | 0, b => b
  | n + 1, b =>
    match smapFind b.expect b.waiting with
    | some f => bridgeDrain n { b with expect := b.expect + 1, waiting := smapErase b.expect b.waiting, got := b.got ++ [f] }
    | none => b

/-- The flits of a packet that waits for its handling are taken from those delivered. -/
def takeFlits (dir id : Nat) (s : State) : State :=
  let b := s.bridge dir
  setBridge dir { b with got := b.got.filter (fun f => f.owner != some id) } s

/-- What a good copy shows of a flit: the bytes that the model queued, or the copy's own for a unit whose flits it does not
queue. -/
def BrFlit.seen (copy : Bytes) (f : BrFlit) : BrFlit :=
  if f.sched || f.owner.isSome then f else { f with bytes := copy }

/-- A good flit leaves the replay buffer and is delivered in the order of sequence numbers. -/
def flitGood (dir seq : Nat) (copy : Bytes) (s : State) : State :=
  let b := s.bridge dir
  match smapFind seq b.sent with
  | some (_, f) =>
    let b := { b with sent := smapErase seq b.sent, resend := b.resend.filter (· != seq),
                      replays := smapErase seq b.replays, waiting := smapInsert seq (f.seen copy) b.waiting }
    (setBridge dir (bridgeDrain (b.waiting.length + 1) b) s).emit (.bridgeAck dir seq)
  | none => s

/-- A flit that fails its CRC stays in the replay buffer and is asked for again; 8 failed replays of the same flit in a
row retire the channel. -/
def flitBad (dir chan seq : Nat) (s : State) : State :=
  let b := s.bridge dir
  let old := smapGet (fun _ => (chan, 0)) seq b.replays
  let n := if old.1 = chan then old.2 + 1 else 1
  let s := bridgeRecord dir chan .c 0x001 (setBridge dir { b with replays := smapInsert seq (chan, n) b.replays } s)
  if 9 ≤ n then retireChannel dir chan s else s.emit (.bridgeNak dir chan seq)

/-- A flit arrives on a channel; one already delivered is acknowledged again and discarded. What a good copy holds is what
the sender sent, so `flit` counts only for a unit whose flits the model does not queue. -/
def flitReceive (dir chan seq : Nat) (crcOk : Bool) (flit : Bytes) (s : State) : State :=
  let b := s.bridge dir
  if b.stopped || b.retired.contains chan then s
  else if b.mayCarry chan seq then
    let b := b.started seq flit
    let f := (smapFind seq b.sent).map (·.2)
    let s := setBridge dir { b with sent := smapInsert seq (chan, f.getD ⟨false, none, flit⟩) b.sent } s
    if crcOk then flitGood dir seq flit s else flitBad dir chan seq s
  else if seq < b.next && (smapFind seq b.sent).isNone && crcOk then s.emit (.bridgeAck dir seq)
  else s

/-! ### Spare wires (R26) -/

def noWires : ChanWires := { used := [], bad := [] }

def BridgeDir.chan (b : BridgeDir) (chan : Nat) : ChanWires := smapGet (fun _ => noWires) chan b.wires

def setWires (dir chan : Nat) (w : ChanWires) (s : State) : State :=
  let b := s.bridge dir
  setBridge dir { b with wires := smapInsert chan w b.wires } s

/-- The map of a record for one channel (R484): byte i belongs to spare i, bit 7 in use, bits [5:0] the data wire. -/
def mapWires (b : Bytes) (dir chan : Nat) : ChanWires :=
  { bad := [], used := [0, 1].filterMap (fun i =>
      let v := byteAt (0x2B00 + 4 * (48 * dir + chan) + i) b
      if nbit v 7 then some (v % 64, i) else none) }

/-- A spare of the channel that no data wire uses and that has not failed. -/
def ChanWires.free (w : ChanWires) : Option Nat :=
  [0, 1].find? (fun i => !w.used.any (·.2 == i) && !w.bad.contains i)

/-- A data wire takes a free spare of its channel, or the channel is retired. -/
def replaceWire (dir chan wire : Nat) (s : State) : State :=
  let w := (s.bridge dir).chan chan
  match w.free with
  | some i => bridgeRecord dir chan .c 0x002 (setWires dir chan { w with used := w.used ++ [(wire, i)] } s)
  | none => retireChannel dir chan s

/-- A wire fails its test: 0 to 39 a data wire, 40 and 41 the spares. A spare that fails serves no longer, and the data
wire that it replaced needs another. A data wire that a spare replaces carries nothing, and its test changes nothing. -/
def wireFail (dir chan wire : Nat) (s : State) : State :=
  let w := (s.bridge dir).chan chan
  if wire < 40 then (if w.used.any (·.1 == wire) then s else replaceWire dir chan wire s)
  else
    let i := wire - 40
    let s := setWires dir chan { used := w.used.filter (·.2 != i), bad := w.bad ++ [i] } s
    match w.used.find? (·.2 == i) with
    | some u => replaceWire dir chan u.1 s
    | none => s

/-- The spare-wire map of a record is applied. -/
def applyWires (rec_ : Bytes) (s : State) : State :=
  forEach [0, 1] (fun dir s => forEach (List.range 48) (fun c s =>
    let w := mapWires rec_ dir c
    doIf (!w.used.isEmpty) (setWires dir c w) s) s) s

end Sys2Proof.Machine
end

