-- ==== Sys2Proof/Machine/Line.lean ====
section
/-! DEFINITION. The line side: reception, spreading, reordering, transmission, pause and PFC (R82 to R104). -/

namespace Sys2Proof.Machine

/-! ### Streams of the reorder unit -/

/-- The stream of recirculated packets (R256). -/
def recircStream : Nat := 96

def State.stream (s : State) (n : Nat) : Reorder := smapGet (fun _ => emptyReorder) n s.line.streams

def setStream (n : Nat) (r : Reorder) (s : State) : State :=
  { s with line := { s.line with streams := smapPut (fun _ => emptyReorder) n r s.line.streams } }

/-- Numbers outstanding in a stream (R90). -/
def Reorder.outstanding (r : Reorder) : Nat := (65536 + r.next - r.e) % 65536

/-- A number ahead of E, or E itself (R91). -/
def Reorder.ahead (r : Reorder) (seq : Nat) : Bool := (65536 + seq - r.e) % 65536 < 32768

/-- Count a late arrival or a skip of a stream (R104, R552). -/
def countLate (n : Nat) (s : State) : State :=
  if n = recircStream then s.inc R.reorderRecircLate else s.inc (lineCtr n 27)

def countSkip (n : Nat) (s : State) : State :=
  if n = recircStream then s.inc R.reorderRecircSkip else s.inc (lineCtr n 26)

/-- The packet of a stream that the reorder unit holds under a number. -/
def State.heldPkt (s : State) (n seq : Nat) : Option Nat :=
  (s.pkts.find? (fun e => e.2.place == .reorder && e.2.stream == n && e.2.seq == seq)).map (·.1)

/-- E is released and advances (R91); the next number is awaited from now. -/
def advanceE (n : Nat) (s : State) : State :=
  let r := s.stream n
  setStream n { r with e := (r.e + 1) % 65536, since := s.now, holes := r.holes.filter (· != r.e) } s

/-- A packet of the F-die is handed to the bridge, on its way to the queue engine as a packet of requester `r` (R203). -/
def toBridge (r id : Nat) (p : Packet) (s : State) : State :=
  arrive r id (bridgeRouted 0 id p.bytes (setPkt id { p with place := .bridge } s))

/-- The reorder unit sends a packet: the bridge delivers its packets in this order (R22). -/
def sendReordered (id : Nat) (p : Packet) (s : State) : State :=
  let s := toBridge (p.pipe % 8) id p s
  { s with q := { s.q with order := s.q.order ++ [id] } }

/-- Release every number that is present from E on: a packet goes to the bridge, a marker is discarded. -/
def releaseRun (n : Nat) : Nat → State → State
  | 0, s => s
  | fuel + 1, s =>
    let r := s.stream n
    if r.holes.contains r.e then releaseRun n fuel (advanceE n s)
    else match s.heldPkt n r.e with
      | some id =>
        match s.pkt id with
        | some p => releaseRun n fuel (sendReordered id p (advanceE n s))
        | none => s
      | none => s

/-- As many steps as a release can take: the markers and packets held. -/
def release (n : Nat) (s : State) : State :=
  releaseRun n ((s.stream n).holes.length + s.pkts.length + 1) s

/-- A hole takes its place in a stream (R91, R92): behind E it is late. -/
def holeArrives (n seq : Nat) (s : State) : State :=
  let r := s.stream n
  if r.ahead seq then release n (setStream n { r with holes := r.holes ++ [seq] } s)
  else countLate n s

/-! ### Reception -/

/-- Count a bad frame by its reason (R87). -/
def countBad (port : Nat) (b : BadTail) (s : State) : State :=
  match b with
  | .fcs => s.inc (lineCtr port 2)
  | .oversize => s.inc (lineCtr port 4)

/-- The codewords of the receive stream are counted, whatever they hold (R104). -/
def countFec (port : Nat) (fec : Fec) (s : State) : State :=
  (s.bump (lineCtr port 23) (fec.corr + fec.idleCorr)).bump (lineCtr port 24) (fec.uncorr + fec.idleUncorr)

/-- A received frame and the codewords are counted (R104). -/
def countRx (port len : Nat) (fec : Fec) (s : State) : State :=
  countFec port fec ((s.inc (lineCtr port 0)).bump (lineCtr port 1) len)

/-- A frame found bad after its handover is counted in RX_STOMP and by its reason (R87). -/
def countStomp (port : Nat) (b : BadTail) (s : State) : State := countBad port b (s.inc (lineCtr port 7))

/-- The next pipeline of the rotating order 0 to 15 that may take a packet, from `from_` on (R89). -/
def nextPipe (s : State) (from_ : Nat) : Option Nat :=
  ((List.range 16).map (fun i => (from_ + i) % 16)).find? (fun n => s.ingressOk n)

/-- A signed 32-bit field in ps. -/
def signed32 (v : Nat) : Int := if v < 2147483648 then v else (v : Int) - 4294967296

/-- Ticks in which a number of bytes passes a port. -/
def State.sendTicks (s : State) (port n : Nat) : Nat := ceilDiv (n * 80) (max 1 (s.portRate port))

/-- The receive timestamp of a frame whose first `len` bytes have arrived: the time of its first bit, corrected by RX_ADJ_PS
(R99), in ticks of 0.1 ns; log 43. -/
def State.rxStamp (s : State) (port len : Nat) : Nat :=
  ((100 * ((s.now - s.sendTicks port len : Nat) : Int) +
    signed32 (s.fld (R.linePtpAdj port) F.linePtpAdjRxAdjPs)) / 100).toNat

/-- The transmit timestamp of a first bit that leaves at time t. -/
def State.txStampAt (s : State) (port t : Nat) : Nat :=
  ((100 * (t : Int) + signed32 (s.fld (R.linePtpAdj port) F.linePtpAdjTxAdjPs)) / 100).toNat

/-- The transmit timestamp. -/
def State.txStamp (s : State) (port : Nat) : Nat := s.txStampAt port s.now

/-- Give a packet to an ingress pipeline with the stream's next number and the live bank's tag (R63, R89). -/
def admitTo (n pipe : Nat) (p : Packet) (s : State) : State :=
  let r := s.stream n
  let s := notePass 1 { s with line := { s.line with rr := (pipe + 1) % 16 } }
  let s := setStream n { r with next := (r.next + 1) % 65536,
                                since := if r.next = r.e then s.now else r.since } s
  newPkt { p with place := .pipe, stream := n, seq := r.next, egress := false, pipe := pipe,
                  bank := s.plate.live.getD 0, pass := 0, stage := none } s

/-- The spreader on a header segment of a port (R33, R89, R90), a whole frame without its FCS: RX_REORDER_FULL is judged
first. The packet it lists is the newest one. -/
def spread (port : Nat) (bytes : Bytes) (whole : Bool) (s : State) : State :=
  if 32768 ≤ (s.stream port).outstanding then s.inc (lineCtr port 6)
  else match nextPipe s s.line.rr with
    | none => s.inc (lineCtr port 5)
    | some pipe =>
      admitTo port pipe { noPacket with port := port, bytes := bytes, tailIn := whole, stamp := s.rxStamp port (bytes.length + if whole then 4 else 0) } s

/-- The frame less its FCS. -/
def dropFcs (b : Bytes) : Bytes := b.take (b.length - 4)

/-- No frame is being received on a port, or one that waits for its header segment. -/
def State.rxFree (s : State) (port : Nat) : Bool := ((smapFind port s.line.rx).map (·.wait)).getD true

def clearCur (port : Nat) (s : State) : State := { s with line := { s.line with rx := smapErase port s.line.rx } }

/-- The header segment of a frame is complete (R85, R86). A frame that is received whole is judged first: a runt, a bad
frame, or a frame for the spreader. An uncorrectable codeword in the segment of a longer frame makes that frame bad (R84). -/
def headerSegment (port : Nat) (seg : Bytes) (whole bad : Bool) (fec : Fec) (s : State) : State :=
  if s.rxOn port && s.rxFree port then
    let bad := bad || ((smapFind port s.line.rx).map (·.bad)).getD false
    let s := clearCur port s
    if whole then
      let s := countRx port seg.length fec s
      if seg.length < 64 then s.inc (lineCtr port 3)
      else if bad || 0 < fec.uncorr then s.inc (lineCtr port 2)
      else spread port (dropFcs seg) true s
    else
      let s := countFec port fec s
      let t := spread port seg false s
      let cur : RxCur := { pkt := if t.q.nextPkt = s.q.nextPkt then none else some s.q.nextPkt,
                           len := seg.length, sched := none, bad := bad || 0 < fec.uncorr, wait := false }
      { t with line := { t.line with rx := smapInsert port cur t.line.rx } }
  else s

/-- The tail of a packet ends before the parse did: LEN_LATE (R115); `len` is the frame's length without its FCS. -/
def lenLate (p : Packet) (len : Nat) (s : State) : State :=
  doIf ((p.effEnd.map (fun e => decide (len < e))).getD false) (fun s => s.inc (R.parserCtr p.pipe 6)) s

/-- The tail of a packet that the MAC is still receiving (R87): `had` bytes came before it, `b` says why it is bad. An
oversize frame is cut at MAX_FRAME bytes as received. A packet found bad in a pipeline is counted where it goes on; one
that its pipeline then drops is counted in none of RX_STOMP, RX_FCS_ERR and RX_OVERSIZE; log 40. -/
def tailOf (port id : Nat) (rest : Bytes) (had : Nat) (b : Option BadTail) (s : State) : State :=
  match s.pkt id with
  | none => s
  | some p =>
    let s := doIf (p.place != .dropped && (p.stage.isSome || p.pass != 0)) (lenLate p (had + rest.length - 4)) s
    let rest := rest.take (s.fld (R.linePortCfg port) F.linePortCfgMaxFrame - had)
    let p' := { p with bytes := dropFcs (p.bytes ++ rest), tailIn := true, stomp := p.stomp || b.isSome, bad := b }
    match p.place with
    | .dropped => erasePkt id (match b with
      | some why => countStomp port why s
      | none => s)
    | .bridge =>
      let s := match b with
        | some why => countStomp port why s
        | none => s
      bridgeTail 0 id (p'.bytes.drop p.bytes.length) (setPkt id p' s)
    | .ring _ _ _ _ _ | .toBurin _ _ => setPkt id p' (match b with
      | some why => countStomp port why s
      | none => s)
    | .reorder =>
      match b with
      | some why => holeArrives p.stream p.seq (countBad port why (erasePkt id s))
      | none => setPkt id p' s
    | _ => setPkt id p' s

/-- The tail of a frame longer than 384 bytes arrives (R87), or a cut ends a frame that waits for its header segment (R85: a
runt below 64 bytes). A frame over MAX_FRAME is oversize, a bad FCS, codeword or cut makes it bad. DESIGN CHOICE: a frame that is both counts as oversize alone; log 40. -/
def frameTail (port : Nat) (rest : Bytes) (tail : Tail) (fec : Fec) (s : State) : State :=
  match smapFind port s.line.rx with
  | some cur =>
    if s.rxOn port && cur.sched.isNone then
      let full := cur.len + rest.length
      let s := countRx port full fec s
      let s := clearCur port s
      let b : Option BadTail :=
        if s.fld (R.linePortCfg port) F.linePortCfgMaxFrame < full then some .oversize
        else if tail != .good || cur.bad || 0 < fec.uncorr then some .fcs
        else none
      match cur.pkt with
      | some id => tailOf port id rest cur.len b s
      | none =>
        if cur.wait && full < 64 then s.inc (lineCtr port 3)
        else match b with
          | some why => doIf cur.wait (countBad port why) s
          | none => s
    else s
  | none => s

/-! ### Pause and PFC (R96 to R98) -/

/-- Ticks that a number of quanta lasts on a port: 512 bit times each (R97). -/
def quantaTicks (s : State) (port quanta : Nat) : Nat := ceilDiv (quanta * 5120) (max 1 (s.portRate port))

/-- Hold a priority of a port until `q` quanta have passed; quanta 0 ends the hold at once (R97). -/
def holdPrio (port quanta prio : Nat) (s : State) : State :=
  let paused := s.fld (R.linePortStat port) F.linePortStatPaused
  if quanta = 0 then
    let s := s.setFld (R.linePortStat port) F.linePortStatPaused (paused &&& (255 - 2 ^ prio))
    { s with line := { s.line with holds := smapErase (8 * port + prio) s.line.holds } }
  else
    let s := s.setFld (R.linePortStat port) F.linePortStatPaused (paused ||| 2 ^ prio)
    { s with line := { s.line with
        holds := smapInsert (8 * port + prio) (s.now + quantaTicks s port quanta) s.line.holds } }

/-- A control frame is first judged as any frame (R85); `k` acts on a good one. Its first bytes may wait at the port. -/
def controlFrame (port len : Nat) (bad : Bool) (fec : Fec) (k : State → State) (s : State) : State :=
  if s.rxOn port then
    let bad := bad || ((smapFind port s.line.rx).map (fun c => c.wait && c.bad)).getD false
    let s := countRx port len fec (doIf (s.rxFree port) (clearCur port) s)
    if len < 64 then s.inc (lineCtr port 3)
    else if bad || 0 < fec.uncorr then s.inc (lineCtr port 2)
    else k s
  else s

def State.pauseMode (s : State) (port : Nat) : Nat := s.fld (R.linePfcCfg port) F.linePfcCfgPauseMode

/-- A received Pause frame: counted, and obeyed in link pause mode on all priorities (R96, R97). -/
def pauseReceive (port len : Nat) (bad : Bool) (quanta : Nat) (fec : Fec) (s : State) : State :=
  controlFrame port len bad fec (fun s =>
    let s := s.inc (lineCtr port 8)
    doIf (s.pauseMode port == 1) (forEach (List.range 8) (holdPrio port quanta)) s) s

/-- A received PFC frame: counted per enabled priority, obeyed in PFC mode where RX_EN is set (R96, R97). -/
def pfcReceive (port len : Nat) (bad : Bool) (enables : BitVec 8) (quanta : List Nat) (fec : Fec) (s : State) :
    State :=
  controlFrame port len bad fec (fun s =>
    forEach (List.range 8) (fun p s =>
      if enables.getLsbD p then
        let s := s.inc (lineCtr port (9 + p))
        doIf (s.pauseMode port == 2 && nbit (s.fld (R.linePfcCfg port) F.linePfcCfgRxEn) p)
          (holdPrio port (quanta.getD p 0) p) s
      else s) s) s

/-- The quanta of a port's holds run out and the holds end (R97). -/
def pauseEnd (port : Nat) (s : State) : State :=
  forEach (List.range 8) (fun p s =>
    match smapFind (8 * port + p) s.line.holds with
    | some t => doIf (t ≤ s.now) (holdPrio port 0 p) s
    | none => s) s

def execPauseFrameReceive (port len : Nat) (bad : Bool) (quanta : Nat) (fec : Fec) (s : State) : Res :=
  guardWf (port < 96 && quanta < 65536) (pauseReceive port len bad quanta fec s)

def execPfcFrameReceive (port len : Nat) (bad : Bool) (enables : BitVec 8) (quanta : List Nat) (fec : Fec)
    (s : State) : Res :=
  guardWf (port < 96 && quanta.all (· < 65536)) (pfcReceive port len bad enables quanta fec s)

def execPauseExpire (port : Nat) (s : State) : Res := guardWf (port < 96) (pauseEnd port s)

/-- Bytes held on the T-die that arrived on a port with a TC (R239). -/
def State.pfcHeldOf (s : State) (port prio : Nat) : Nat := smapGet (fun _ => 0) (8 * port + prio) s.q.pfcHeld

/-- The MAC sends a PFC frame, or a Pause frame in link pause mode, where TX_EN allows it, and counts it in TX_PAUSE
(R98); not while the device holds its line lanes idle (R501). DESIGN CHOICE: TX_FRAMES and TX_BYTES, of which R104 says only
'frames sent', leave these frames out; log 148. -/
def sendPause (port prio quanta : Nat) (s : State) : State :=
  if s.portOn port && s.linkUp port && !s.outputHeld && s.pauseMode port != 0 &&
      nbit (s.fld (R.linePfcCfg port) F.linePfcCfgTxEn) prio
  then (s.emit (.pauseFrame port prio quanta)).inc (lineCtr port 20)
  else s

/-- The time after which a sent XOFF is repeated: half its quanta (R98). -/
def xoffRepeat (s : State) (port : Nat) : Nat :=
  s.now + quantaTicks s port (s.fld (R.linePfcCfg port) F.linePfcCfgPfcQuanta) / 2

/-- XOFF: the count has reached XOFF_BYTES (R239); the MAC sends PFC_QUANTA (R98). -/
def xoffNow (port prio : Nat) (s : State) : State :=
  let xoff := s.fld (R.qPfc port) F.qPfcXoffBytes
  if s.portExists port && xoff != 0 && xoff ≤ s.pfcHeldOf port prio && !s.q.pfcXoff.contains (8 * port + prio) then
    let s := { s with q := { s.q with pfcXoff := s.q.pfcXoff ++ [8 * port + prio] },
                      line := { s.line with xoff := smapInsert (8 * port + prio) (xoffRepeat s port) s.line.xoff } }
    sendPause port prio (s.fld (R.linePfcCfg port) F.linePfcCfgPfcQuanta) s
  else s

/-- XON: the count has fallen to XON_BYTES, or signalling is disabled (R239); quanta 0 is sent once (R98). -/
def xonNow (port prio : Nat) (s : State) : State :=
  if s.q.pfcXoff.contains (8 * port + prio) &&
      (s.pfcHeldOf port prio ≤ s.fld (R.qPfc port) F.qPfcXonBytes || s.fld (R.qPfc port) F.qPfcXoffBytes == 0) then
    let s := { s with q := { s.q with pfcXoff := s.q.pfcXoff.filter (· != 8 * port + prio) },
                      line := { s.line with xoff := smapErase (8 * port + prio) s.line.xoff } }
    sendPause port prio 0 s
  else s

/-- Half the sent quanta has elapsed while XOFF holds: the MAC repeats the frame (R98). -/
def xoffAgain (port prio : Nat) (s : State) : State :=
  match smapFind (8 * port + prio) s.line.xoff with
  | some t =>
    if t ≤ s.now then
      let s := { s with line := { s.line with xoff := smapInsert (8 * port + prio) (xoffRepeat s port) s.line.xoff } }
      sendPause port prio (s.fld (R.linePfcCfg port) F.linePfcCfgPfcQuanta) s
    else s
  | none => s

def execXoffSignal (port prio : Nat) (s : State) : Res := guardWf (port < 96 && prio < 8) (xoffNow port prio s)
def execXonSignal (port prio : Nat) (s : State) : Res := guardWf (port < 96 && prio < 8) (xonNow port prio s)
def execPfcRefresh (port prio : Nat) (s : State) : Res := guardWf (port < 96 && prio < 8) (xoffAgain port prio s)

/-! ### Transmission (R94, R95, R101) -/

def State.macQueue (s : State) (port : Nat) : List MacItem := smapGet (fun _ => []) port s.line.macQ

def setMacQueue (port : Nat) (l : List MacItem) (s : State) : State :=
  { s with line := { s.line with macQ := smapPut (fun _ => []) port l s.line.macQ } }

/-- Hand a frame to the line MAC of a port. -/
def macPush (port : Nat) (m : MacItem) (s : State) : State := setMacQueue port (s.macQueue port ++ [m]) s

/-- A received pause holds a frame at the MAC (R97): a routed packet by the priority of the queue it left (R249), a
scheduled frame never. -/
def State.heldAtMac (s : State) (port : Nat) (m : MacItem) : Bool :=
  match m with
  | .sched .. => false
  | .routed id => ((s.pkt id).map (fun p => nbit (s.fld (R.linePortStat port) F.linePortStatPaused) p.prio)).getD false

/-- All of a frame has come to the MAC. -/
def State.wholeAtMac (s : State) (m : MacItem) : Bool :=
  match m with
  | .sched .. => true
  | .routed id => ((s.pkt id).map (·.tailIn)).getD true

/-- One's complement sum of 16-bit words with end-around carry. -/
def ones16 (a b : Nat) : Nat := (a + b) % 65536 + (a + b) / 65536

/-- The 16-bit words of a byte string, big-endian. -/
def words16 : Bytes → List Nat
  | a :: b :: t => (256 * a.toNat + b.toNat) :: words16 t
  | [a] => [256 * a.toNat]
  | [] => []

/-- The UDP checksum after a field of the datagram changed, updated incrementally; 0 stays 0 (R101). -/
def csumUpdate (old : Nat) (was is : Bytes) : Nat :=
  if old = 0 then 0
  else
    let a := (words16 was).foldl (fun x w => ones16 x (65535 - w)) (65535 - old)
    let b := (words16 is).foldl ones16 a
    if 65535 - b = 0 then 65535 else 65535 - b

/-- Add a time in ticks of 0.1 ns to the correctionField, which counts in 2^−16 ns. -/
def addCorrection (corr t : Nat) (b : Bytes) : Bytes :=
  patch corr (toBe 8 ((beAt corr 8 b + 65536 * t / 10) % 2 ^ 64)) b

/-- One-step timestamping (R101): the residence time goes into the correctionField and the checksum follows. -/
def oneStep (corr : Nat) (csum : Option Nat) (residence : Nat) (b : Bytes) : Bytes :=
  let b' := addCorrection corr residence b
  match csum with
  | none => b'
  | some o => patch o (toBe 2 (csumUpdate (beAt o 2 b) (slice corr 8 b) (slice corr 8 b'))) b'

/-- Two-step timestamping (R101): an entry of the port's 64-entry FIFO, or TS_FIFO_OVF. -/
def tsPush (port tag : Nat) (s : State) : State :=
  let l := smapGet (fun _ => []) port s.line.tsFifo
  if l.length < 64 then
    { s with line := { s.line with tsFifo := smapInsert port (l ++ [(tag, s.txStamp port)]) s.line.tsFifo } }
  else s.inc (lineCtr port 25)

/-- The frame goes out with its FCS, or with the complement of it where it is stomped (R94). -/
def sendFrame (port : Nat) (b : Bytes) (stomp sched : Bool) (s : State) : State :=
  let s := s.emit (.lineFrame port (b ++ if stomp then stompBytes b else fcsBytes b) stomp sched (s.txStamp port))
  let s := (s.inc (lineCtr port 17)).bump (lineCtr port 18) (b.length + 4)
  doIf stomp (fun s => s.inc (lineCtr port 19)) s

/-- The frame of a release goes out byte for byte as received, FCS included (R97, R276); `at_` is when its first bit
leaves. -/
def sendSched (port : Nat) (b : Bytes) (at_ : Nat) (s : State) : State :=
  let s := s.emit (.lineFrame port b false true (s.txStampAt port at_))
  (s.inc (lineCtr port 17)).bump (lineCtr port 18) b.length

/-- Send one routed packet with the timestamp action its metadata selects. -/
def sendRouted (port : Nat) (p : Packet) (s : State) : State :=
  match Config.tsAction p.md with
  | .none => sendFrame port p.bytes p.stomp false s
  | .twoStep tag => sendFrame port p.bytes p.stomp false (tsPush port tag s)
  | .oneStep corr csum => sendFrame port (oneStep corr csum (s.txStamp port - p.stamp) p.bytes) p.stomp false s

/-- Take one item out of a list. -/
def takeFirst {α : Type} (f : α → Bool) : List α → Option (α × List α)
  | [] => none
  | a :: l => if f a then some (a, l) else (takeFirst f l).map (fun r => (r.1, a :: r.2))

/-- The flow's priority, under which TX_SCHED_UNPAUSED counts (R97): any hold of the port. -/
def State.anyHold (s : State) (port : Nat) : Bool := s.fld (R.linePortStat port) F.linePortStatPaused != 0

/-! ### Link state (R85, R87, R95) -/

/-- Discard what the MAC of a port holds to send (R95). -/
def dropMacQueue (port : Nat) (s : State) : State :=
  let l := s.macQueue port
  let s := setMacQueue port [] s
  forEach l (fun m s =>
    let s := s.inc (lineCtr port 21)
    match m with
    | .routed id => erasePkt id s
    | .sched _ _ _ => s) s

/-- A link or fault state change: LINK_UP is 1 on an enabled port (R275) with the link up and no fault; remote fault is sent under local fault;
loss of link cuts the frame in reception and discards the frames released to the port. -/
def linkChange (port : Nat) (up lf rf : Bool) (fec : Fec) (s : State) : State :=
  if s.portExists port then
    let now := up && !lf && !rf && s.portOn port
    let s := doIf (s.rxOn port) (fun s =>
      if !now && ((smapFind port s.line.rx).map (·.sched.isNone)).getD false then frameTail port [] .cut fec s
      else countFec port fec s) s
    let st := R.linePortStat port
    let s := ((s.setFld st F.linePortStatLinkUp (b2n now)).setFld st F.linePortStatLocalFault (b2n lf)).setFld st
      F.linePortStatRemoteFault (b2n rf)
    let s := { s with line := { s.line with
      sendRf := if lf then (s.line.sendRf.filter (· != port)) ++ [port] else s.line.sendRf.filter (· != port) } }
    doIf (!now) (dropMacQueue port) s
  else s

/-- A SyncE output is held low while its lane has no good clock (R102). -/
def execSynceSquelch (out : Nat) (bad : Bool) (s : State) : Res :=
  guardWf (out < 2) (s.setFld (R.lineSynceCfg out) F.lineSynceCfgSquelched (b2n bad))

/-! ### Reordering (R91 to R93) -/

/-- A packet of a stream on its way to the reorder unit. -/
def State.donePkt (s : State) (n seq : Nat) : Option Nat :=
  (s.pkts.find? (fun e => e.2.place == .done && e.2.stream == n && e.2.seq == seq)).map (·.1)

/-- A packet or hole marker reaches the reorder unit: late behind E; a packet found bad is a hole, counted by its
reason only (R87); else it takes its place and every number present from E on is released. -/
def reorderArrival (n seq : Nat) (s : State) : State :=
  match s.donePkt n seq with
  | some id =>
    match s.pkt id with
    | none => s
    | some p =>
      if (s.stream n).ahead seq then
        match p.bad with
        | some why => holeArrives n seq (countBad p.port why (erasePkt id s))
        | none => release n (setPkt id { p with place := .reorder } s)
      else countLate n (erasePkt id s)
  | none =>
    if s.line.markers.contains (n, seq) then
      holeArrives n seq { s with line := { s.line with markers := s.line.markers.erase (n, seq) } }
    else s

/-- E has been awaited for REORDER_TIMEOUT_NS: it is skipped, counted and recorded (R93). -/
def reorderTimeout (n : Nat) (s : State) : State :=
  let r := s.stream n
  if r.next != r.e && r.since + nsT (s.fld R.reorderCfg F.reorderCfgReorderTimeoutNs) ≤ s.now then
    release n (advanceE n (report .f 0x05 n .k 0x001 [] (countSkip n s)))
  else s

def execReorderArrival (stream seq : Nat) (s : State) : Res :=
  guardWf (stream ≤ 96 && seq < 65536) (reorderArrival stream seq s)

def execReorderTimeout (stream : Nat) (s : State) : Res := guardWf (stream ≤ 96) (reorderTimeout stream s)

/-- The egress pipeline releases a packet to the line MAC of its port, which discards it while LINK_UP is 0 (R95). -/
def toMac (id : Nat) (p : Packet) (s : State) : State :=
  if s.linkUp p.outPort then macPush p.outPort (.routed id) (setPkt id { p with place := .mac } s)
  else (erasePkt id s).inc (lineCtr p.outPort 21)

end Sys2Proof.Machine
end

