-- ==== Sys2Proof/Machine/Rings.lean ====
section
/-! DEFINITION. The packet I/O rings of the partitions (R384 to R389): delivery to a host ring, transmit descriptors,
interrupt coalescing. -/

namespace Sys2Proof.Machine

/-- A DMA fault on behalf of a partition is recorded (R386, R388). -/
def dmaFault (part : Nat) (s : State) : State := report .f 0x01 part .k 0x004 [] s

/-- The completion code of a DMA read that fails (R52, R171, R386). -/
def dmaCode : Dma → Nat
  | .data _ => Code.ok
  | .timeout => Code.timeout
  | .poison => Code.eccUncorrectable

/-- A ring is enabled in a direction (0 TX, 1 RX) and its partition is enabled and not in reset. -/
def State.ringOn (s : State) (p r dir : Nat) : Bool :=
  s.mayInt p && s.flag (R.pioRingCfg p r) F.pioRingCfgRingEn && s.fld (R.pioRingCfg p r) F.pioRingCfgDir == dir

/-- The slot of an index that runs free (R385). -/
def ringSlot (index log2 : Nat) : Nat := index % 2 ^ log2

def State.ringHead (s : State) (p r : Nat) : Nat := s.fld (R.pioRingHead p r) F.pioRingHeadHead
def State.ringTail (s : State) (p r : Nat) : Nat := s.fld (R.pioRingTail p r) F.pioRingTailTail

/-- Bus address of the descriptor at HEAD. -/
def State.ringDesc (s : State) (p r size : Nat) : Nat :=
  (s.rd (R.pioRingBase p r)).toNat + size * ringSlot (s.ringHead p r) (s.fld (R.pioRingCfg p r) F.pioRingCfgSizeLog2)

/-- HEAD advances over 32 bits. -/
def ringAdvance (p r : Nat) (s : State) : State :=
  s.setFld (R.pioRingHead p r) F.pioRingHeadHead ((s.ringHead p r + 1) % 2 ^ 32)

/-- Raise the interrupt of a ring where IRQ_EN is 1. -/
def ringIrq (p r : Nat) (s : State) : State :=
  doIf (s.flag (R.pioRingCfg p r) F.pioRingCfgIrqEn) (raiseSrc p (17 + r)) s

/-- A completion on an RX ring: signalled at once, after COAL_PKTS completions, or COAL_US after the first (R389). -/
def rxComplete (p r : Nat) (s : State) : State :=
  let cfg := R.pioRingCfg p r
  let n := s.fld cfg F.pioRingCfgCoalPkts
  let us := s.fld cfg F.pioRingCfgCoalUs
  let was := smapGet (fun _ => (0, s.now + usT us)) (64 * p + r) s.host.coal
  if n ≤ 1 || us = 0 || n ≤ was.1 + 1 then
    ringIrq p r { s with host := { s.host with coal := smapErase (64 * p + r) s.host.coal } }
  else { s with host := { s.host with coal := smapInsert (64 * p + r) (was.1 + 1, was.2) s.host.coal } }

/-- COAL_US after the first completion not yet signalled the interrupt is raised (R389). -/
def rxCoal (p r : Nat) (s : State) : State :=
  match smapFind (64 * p + r) s.host.coal with
  | some (_, t) =>
    doIf (t ≤ s.now) (fun s => ringIrq p r { s with host := { s.host with
      coal := smapErase (64 * p + r) s.host.coal } }) s
  | none => s

/-- The part of an RX descriptor that the device writes, from FLAGS on (R387). -/
def rxWriteBack (p : Packet) (reason bufLen : Nat) : Bytes :=
  toLe 1 (1 + 2 * b2n (bufLen < p.bytes.length)) ++ toLe 1 reason ++ toLe 2 p.bytes.length ++ toLe 1 p.port ++
    toLe 1 p.pipe ++ toLe 10 (stampOf p.stamp) ++ zeros 6 ++ slice 16 16 p.md ++ zeros 16

/-- A whole packet that holds a posted descriptor is written to host memory, and its descriptor is done. -/
def ringWrite (id : Nat) (s : State) : State :=
  match s.pkt id with
  | none => s
  | some p =>
    match p.place with
    | .ring q r reason at_ d =>
      if p.tailIn then
        let bufLen := leAt 8 2 d
        let s := s.emit (.dmaWrite q (leAt 0 8 d) (p.bytes.take bufLen))
        let s := s.emit (.dmaWrite q (at_ + 10) (rxWriteBack p reason bufLen))
        rxComplete q r ((erasePkt id s).inc (R.ringCtr q r 0))
      else s
    | _ => s

/-- Deliver a packet to ring `r` of partition `q` (R388): dropped and counted where the ring is no enabled RX ring,
where no posted descriptor is free, or where the DMA fails; else it takes the next posted descriptor, and is written as
its last byte arrives. -/
def ringDeliver (id q r reason : Nat) (p : Packet) (desc : Dma) (dmaOk : Bool) (s : State) : State :=
  if !s.ringOn q r 1 then erasePkt id (s.inc (R.ringCtr q r 2))
  else if s.ringHead q r == s.ringTail q r then erasePkt id (s.inc (R.ringCtr q r 1))
  else match desc, dmaOk with
    | .data d, true =>
      let place := Place.ring q r reason (s.ringDesc q r 64) d
      ringWrite id (ringAdvance q r (setPkt id { p with place := place } s))
    | _, _ => dmaFault q (erasePkt id (s.inc (R.ringCtr q r 3)))

/-- A packet found bad in its pipeline is counted as it goes on to a host ring or to a burin (R87). -/
def goesOn (p : Packet) (s : State) : State :=
  match p.bad with
  | some why => countStomp p.port why s
  | none => s

/-- A packet that a pipeline sends to a host ring leaves the pipeline as R116 describes for TRAP: its context is free,
and an ingress packet leaves a hole marker. -/
def trapPacket (id q r reason : Nat) (x : StageIn) (s : State) : State :=
  match s.pkt id with
  | none => s
  | some p => ringDeliver id q r reason p x.desc x.dmaOk (goesOn p (doIf (!p.egress) (marker p.stream p.seq) s))

/-- The queue that the metadata of a host frame names (R225). -/
def mdQueue (md : Bytes) : Nat :=
  if mdF md Md.target = 0 then mdF md Md.voq
  else 262144 + 8192 * mdF md Md.outPort + mdF md Md.eqOffset

/-- A host frame names only what its partition is granted (R386). -/
def State.txGranted (s : State) (p : Nat) (md : Bytes) : Bool :=
  (mdF md Md.target == 2 || (mdF md Md.target == 0 && mdF md Md.mc == 1) || s.inRange p 7 (mdQueue md) 1) &&
  (mdF md Md.mc == 0 || s.inRange p 14 (mdF md Md.mcGroup) 1) &&
  (mdF md Md.polEn == 0 || s.inRange p 11 (mdF md Md.policer) 1)

/-- The code with which a TX descriptor completes (R386). -/
def txCode (s : State) (p : Nat) (desc frame : Dma) : Nat :=
  match desc with
  | .data d =>
    let len := leAt 8 2 d
    if len < 92 || 16156 < len then Code.length
    else match frame with
      | .data f => if s.txGranted p (slice 0 32 f) then Code.ok else Code.denied
      | f => dmaCode f
  | d => dmaCode d

/-- A descriptor is consumed: CODE and DONE are written, HEAD advances (R386). -/
def txDone (p r code : Nat) (s : State) : State :=
  let s := s.emit (.dmaWrite p (s.ringDesc p r 32 + 10) (toLe 1 1 ++ toLe 1 code))
  let s := ringAdvance p r s
  let s := doIf (code == Code.ok) (fun s => s.inc (R.ringCtr p r 0)) s
  ringIrq p r s

/-- The frame of a TX descriptor goes to the queue engine as requester 18 + p: LEN bytes, of which the first 32 are the
metadata (R385, R386). -/
def txSend (p len : Nat) (f : Bytes) (s : State) : State :=
  let f := slice 0 len f
  toBridge (18 + p) s.q.nextPkt { noPacket with
    place := .bridge, port := 127, bytes := f.drop 32, md := f.take 32, stamp := s.now }
    { s with q := { s.q with nextPkt := s.q.nextPkt + 1 } }

/-- The next TX descriptor of a ring, in order (R386). -/
def txDescriptor (p r : Nat) (desc frame : Dma) (s : State) : State :=
  if s.ringOn p r 0 && s.ringHead p r != s.ringTail p r then
    let code := txCode s p desc frame
    let bad := code == Code.timeout || code == Code.eccUncorrectable
    let s := doIf bad (fun s => dmaFault p (s.inc (R.ringCtr p r 3))) s
    let s :=
      match code == Code.ok, desc, frame with
      | true, .data d, .data f => txSend p (leAt 8 2 d) f s
      | _, _, _ => s
    txDone p r code s
  else s

def execPioTxDescriptor (part ring : Nat) (desc frame : Dma) (s : State) : Res :=
  guardWf (part < 4 && ring < 64) (txDescriptor part ring desc frame s)

def execRxCoalExpire (part ring : Nat) (s : State) : Res :=
  guardWf (part < 4 && ring < 64) (rxCoal part ring s)

end Sys2Proof.Machine
end

