-- ==== Sys2Proof/Machine/Parser.lean ====
section
/-! DEFINITION. The parser (R105 to R120) and the key builders (R121 to R123). -/

namespace Sys2Proof.Machine

/-! ### The parse graph -/

/-- The 64-byte entry of state `n` (R107, R108). -/
def graphState (g : Bytes) (n : Nat) : Bytes := slice (64 + 64 * n) 64 g

/-- Bits of FLAGS in a state entry. -/
def gNoHeader (e : Bytes) : Bool := nbit (byteAt 1 e) 0
def gDefaultAccept (e : Bytes) : Bool := nbit (byteAt 1 e) 1
def gInner (e : Bytes) : Bool := nbit (byteAt 1 e) 2
def gFragV4 (e : Bytes) : Bool := nbit (byteAt 1 e) 3
def gFragV6 (e : Bytes) : Bool := nbit (byteAt 1 e) 4

/-- Bits of the FLAGS of the parse result (R120). -/
def pfAccepted : Nat := 1
def pfTrunc : Nat := 2
def pfLenConflict : Nat := 4
def pfFrag : Nat := 8
def pfFragLater : Nat := 16
def pfTagMore : Nat := 32
def pfLayerSat : Nat := 64
def pfPpmHit : Nat := 128
def pfPpmSkipped : Nat := 256
def pfPpmDone : Nat := 512

/-- A recorded header: type, layer, offset, length. -/
structure Hdr where
  type  : Nat
  layer : Nat
  off   : Nat
  len   : Nat
  deriving DecidableEq, Repr

/-- The parser in the middle of a packet (R109); `effEnd` is none while unlimited. -/
structure Parse where
  pos    : Nat
  layer  : Nat
  effEnd : Option Nat
  flags  : Nat
  hdrs   : List Hdr
  last   : Nat
  deriving DecidableEq, Repr

/-- An offset is at or beyond an effective end. -/
def atOrBeyond (x : Nat) (effEnd : Option Nat) : Bool :=
  match effEnd with
  | some e => decide (e ≤ x)
  | none => false

/-- A read of `n` bytes, big-endian (R108): a byte at or beyond EFF_END reads 0; one below it at offset 384 or beyond
stops the parse (R110). -/
def parseRead (pkt : Bytes) (effEnd : Option Nat) (off : Nat) : Nat → Option Nat
  | 0 => some 0
  | n + 1 =>
    match parseRead pkt effEnd off n with
    | none => none
    | some v =>
      let i := off + n
      if atOrBeyond i effEnd then some (256 * v)
      else if 384 ≤ i then none
      else some (256 * v + byteAt i pkt)

/-- How visiting a state goes on. -/
inductive ParseStep where
  | stop (p : Parse)
  | goto (p : Parse) (state : Nat)
  deriving DecidableEq, Repr

def Parse.flag (p : Parse) (f : Nat) : Parse := { p with flags := p.flags ||| f }

/-- The first valid transition, in order, whose VALUE equals the masked select (R110): NEXT and ACCEPT. -/
def graphMatch (e : Bytes) (sel : Nat) : Option (Nat × Bool) :=
  ([0, 1, 2, 3, 4].find? (fun i =>
      nbit (byteAt (0x14 + 8 * i + 5) e) 0 && leAt (0x14 + 8 * i) 4 e == sel)).map
    (fun i => (byteAt (0x14 + 8 * i + 4) e, nbit (byteAt (0x14 + 8 * i + 5) e) 1))

/-- The branch at the end of a state. -/
def parseBranch (e : Bytes) (sel : Nat) (p : Parse) : ParseStep :=
  match graphMatch e sel with
  | some (next, acc) => if acc then .stop (p.flag pfAccepted) else .goto p next
  | none => if gDefaultAccept e then .stop (p.flag pfAccepted) else .goto p (byteAt 0x0D e)

/-- The masked select read; none where it stops the parse. With SEL_MASK 0 no read is made (R110). -/
def parseSelect (pkt e : Bytes) (effEnd : Option Nat) (pos : Nat) : Option Nat :=
  let m := leAt 0x10 4 e
  if m = 0 then some 0 else (parseRead pkt effEnd (pos + byteAt 0x0C e) 4).map (fun v => v &&& m)

/-- The header length of a state (R109); none where its read stops the parse. -/
def parseLen (pkt e : Bytes) (effEnd : Option Nat) (pos : Nat) : Option Nat :=
  let m := leAt 6 2 e
  let sm := byteAt 5 e
  if m = 0 then some (leAt 2 2 e)
  else (parseRead pkt effEnd (pos + byteAt 4 e) 2).map
    (fun v => leAt 2 2 e + ((v &&& m) / 2 ^ (sm / 16)) * 2 ^ (sm % 4))

/-- Is the header a fragment, and a later one (R117); none where the read of its bytes stops the parse (R110, R114). -/
def fragOf (pkt e : Bytes) (effEnd : Option Nat) (pos : Nat) : Option (Bool × Bool) :=
  if gFragV4 e then
    (parseRead pkt effEnd (pos + 6) 2).map (fun v => (nbit v 13 || v % 8192 != 0, v % 8192 != 0))
  else if gFragV6 e then
    (parseRead pkt effEnd (pos + 2) 2).map (fun v => (nbit v 0 || v / 8 != 0, v / 8 != 0))
  else some (false, false)

/-- A header is beyond an effective end. -/
def beyond (x : Nat) (effEnd : Option Nat) : Bool :=
  match effEnd with
  | some e => decide (e < x)
  | none => false

/-- The header part of a state after its length is known: the claim, the record, the fragment, the select (R109). `was`
is what the previous state left, restored where a read stops the parse (R110). -/
def parseHeader (pkt e : Bytes) (st len : Nat) (was p : Parse) : ParseStep :=
  if len < leAt 0x0E 2 e then .stop (p.flag pfLenConflict)
  else if 384 < p.pos + len then .stop (p.flag pfTrunc)
  else
    let tm := leAt 0x0A 2 e
    let claimed : Option Parse :=
      if tm = 0 then some p
      else (parseRead pkt p.effEnd (p.pos + byteAt 8 e) 2).map (fun v =>
        let claim := p.pos + (v &&& tm) + byteAt 9 e
        if beyond claim p.effEnd then p.flag pfLenConflict else { p with effEnd := some claim })
    match claimed with
    | none => .stop (was.flag pfTrunc)
    | some p =>
      if beyond (p.pos + len) p.effEnd then .stop (p.flag pfLenConflict)
      else
        let p := if gInner e then
            (if p.layer = 3 then p.flag pfLayerSat else { p with layer := p.layer + 1 }) else p
        let pos := p.pos
        let p := { p with hdrs := p.hdrs ++ [Hdr.mk (byteAt 0 e) p.layer pos len] }
        match fragOf pkt e p.effEnd pos with
        | none => .stop (was.flag pfTrunc)
        | some (true, later) =>
          let p := (p.flag pfFrag).flag pfAccepted
          .stop { (if later then p.flag pfFragLater else p) with pos := pos + len, last := st }
        | some (false, _) =>
          match parseSelect pkt e p.effEnd pos with
          | none => .stop (was.flag pfTrunc)
          | some sel => parseBranch e sel { p with pos := pos + len }

/-- One state visit (R109). -/
def parseVisit (g pkt : Bytes) (st : Nat) (was : Parse) : ParseStep :=
  let e := graphState g st
  let p := { was with last := st }
  if gNoHeader e then
    match parseSelect pkt e p.effEnd p.pos with
    | none => .stop (was.flag pfTrunc)
    | some sel => parseBranch e sel p
  else if p.hdrs.length = 24 then .stop (p.flag pfTrunc)
  else match parseLen pkt e p.effEnd p.pos with
    | none => .stop (was.flag pfTrunc)
    | some len => parseHeader pkt e st len was p

/-- At most 64 state visits; the 65th sets PARSE_TRUNC (R109, R112). -/
def parseRun (g pkt : Bytes) : Nat → Nat → Parse → Parse
  | 0, st, p => { (p.flag pfTrunc) with last := st }
  | n + 1, st, p =>
    match parseVisit g pkt st p with
    | .stop p => p
    | .goto p st' => parseRun g pkt n st' p

/-- The parse of a packet from a start state; its frame end is known where it is 384 bytes or fewer with its FCS and
has arrived (R106). -/
def parseGraph (g pkt : Bytes) (start : Nat) (known : Bool) : Parse :=
  parseRun g pkt 64 start
    { pos := 0, layer := 0, effEnd := if known then some pkt.length else none, flags := 0, hdrs := [], last := start }

/-! ### The VLAN recogniser (R119) -/

/-- The TPID index of a value, if it is one. -/
def tpidIndex (v tpid0 tpid1 : Nat) : Option Nat :=
  if v = 0x8100 then some 0
  else if v = 0x88A8 then some 1
  else if tpid0 ≠ 0 ∧ v = tpid0 then some 2
  else if tpid1 ≠ 0 ∧ v = tpid1 then some 3
  else none

/-- Up to two tags from an offset on, each with its TPID index and TCI, and TAG_MORE. -/
def vlanTags (pkt : Bytes) (limit tpid0 tpid1 off : Nat) : Nat → List (Nat × Nat) × Bool
  | 0 =>
    ([], decide (off + 2 ≤ limit) && (tpidIndex (beAt off 2 pkt) tpid0 tpid1).isSome)
  | n + 1 =>
    if off + 4 ≤ limit then
      match tpidIndex (beAt off 2 pkt) tpid0 tpid1 with
      | none => ([], false)
      | some i =>
        let r := vlanTags pkt limit tpid0 tpid1 (off + 4) n
        ((i, beAt (off + 2) 2 pkt) :: r.1, r.2)
    else ([], false)

/-! ### The parse result (R120) -/

/-- The 32 bits of a header entry. -/
def Hdr.word (h : Hdr) : Nat := 2 ^ 24 * h.type + 2 ^ 22 * h.layer + 2 ^ 13 * h.off + h.len * 2 ^ 4

/-- The 128 bytes of a parse result. An effective end beyond 65,535, which a claim of R109 can reach, leaves EFF_END open;
the device judges lengths by the end itself; log 161. -/
def parseResult (p : Parse) (tags : List (Nat × Nat)) (more : Bool) : Bytes :=
  let flags := p.flags ||| (if more then pfTagMore else 0)
  let t0 := tags.getD 0 (0, 0)
  let t1 := tags.getD 1 (0, 0)
  slice 0 128 (toLe 2 flags ++ toLe 1 p.hdrs.length ++ toLe 1 p.last ++ toLe 2 p.pos ++
    toLe 2 (match p.effEnd with | some e => if e ≤ 0xFFFF then e else (Config.effEndWide e).toNat | none => 0xFFFF) ++
    toLe 1 (tags.length + 4 * t0.1 + 16 * t1.1) ++ zeros 1 ++ toLe 2 t0.2 ++ toLe 2 t1.2 ++ zeros 18 ++
    p.hdrs.flatMap (fun h => toLe 4 h.word))

/-- The whole parse of a packet's bytes. -/
def parsePacket (g pkt : Bytes) (start : Nat) (known : Bool) (tpid0 tpid1 : Nat) : Bytes :=
  let p := parseGraph g pkt start known
  let limit := match p.effEnd with | some e => min e 384 | none => 384
  let v := vlanTags pkt (min limit (if known then pkt.length else 384)) tpid0 tpid1 12 2
  parseResult p v.1 v.2

/-- The effective end with which the parse of a packet's bytes ends (R109, R113). -/
def parseEnd (g pkt : Bytes) (start : Nat) (known : Bool) : Option Nat := (parseGraph g pkt start known).effEnd

/-- FLAGS of a parse result. -/
def prFlags (pr : Bytes) : Nat := leAt 0 2 pr

/-! ### Plate-store words that a packet reads (R79) -/

/-- A packet that reads a bad word of its bank is dropped with a hole marker; the first such event of each word is
recorded. Else `k` runs. -/
def withPlateWords (id : Nat) (p : Packet) (reads : List Nat) (k : State → State) (s : State) : State :=
  let b := s.bank p.bank
  if reads.any (fun w => b.badWords.contains w) then
    let new := (b.badWords.filter reads.contains).filter (fun w => !b.badSeen.contains w)
    let s := forEach new (fun _ => report .f 0x04 p.bank .k 0x003 [])
      (setBank p.bank { b with badSeen := b.badSeen ++ new } s)
    leaveHole id s
  else k s

/-! ### PACKET_PARSE (R105, R116) -/

/-- Counters of the parser of a pipeline (R132). -/
def parserCtr (pipe i : Nat) : Nat := R.parserCtr pipe i

/-- The start state of a pass (R105, R107). -/
def startState (g : Bytes) (p : Packet) : Nat :=
  if p.pass != 0 then byteAt 4 g else if p.egress then byteAt 3 g else byteAt 2 g

/-- The stronger of two exception actions (R116): DROP over TRAP over CONTINUE. -/
def stronger (a b : Nat) : Nat :=
  if a = 0 || b = 0 then 0 else if a = 2 || b = 2 then 2 else 1

/-- The action that the section header gives a packet with these flags (R116), if it has one. -/
def excAction (g : Bytes) (flags : Nat) : Nat :=
  let t := if flags &&& pfTrunc != 0 then byteAt 5 g else 1
  let l := if flags &&& pfLenConflict != 0 then byteAt 6 g else 1
  stronger t l

/-- Count the flags of a parse (R112, R113, R117). -/
def countFlags (pipe flags : Nat) (s : State) : State :=
  let s := doIf (flags &&& pfTrunc != 0) (fun s => s.inc (parserCtr pipe 1)) s
  let s := doIf (flags &&& pfLenConflict != 0) (fun s => s.inc (parserCtr pipe 2)) s
  doIf (flags &&& pfFrag != 0)
    (fun s => if flags &&& pfFragLater != 0 then s.inc (parserCtr pipe 8) else s.inc (parserCtr pipe 7)) s

/-- The header segment of the packet has arrived: its first 384 bytes, or all of it (R86, R105). -/
def Packet.hasSegment (p : Packet) : Bool := p.tailIn || 384 ≤ p.bytes.length

/-- A frame longer than 384 bytes whose tail came before its first parse is judged by it (R115). -/
def lateBefore (p : Packet) (effEnd : Option Nat) (s : State) : State :=
  doIf (p.pass == 0 && p.tailIn && 384 < p.bytes.length + 4) (lenLate { p with effEnd := effEnd } p.bytes.length) s

/-- The parse at the start of a pass: result, counts, and the exception action of the packet's bank. DESIGN CHOICE: a scan that
the last pass left running ends here, without results or a count; log 161. -/
def packetParse (id : Nat) (x : StageIn) (s : State) : State :=
  match s.pkt id with
  | none => s
  | some p =>
    if p.place == .pipe && p.stage.isNone && p.hasSegment && s.pairAwake p.pipe && !s.pwr.tripped then
      let g := (s.bank p.bank).graph
      let known := p.tailIn && p.bytes.length + 4 ≤ 384
      let pr := parsePacket g p.bytes (startState g p) known
        (s.fld R.parserTpid F.parserTpidTpid0) (s.fld R.parserTpid F.parserTpidTpid1)
      let effEnd := parseEnd g p.bytes (startState g p) known
      let flags := prFlags pr
      let act := excAction g flags
      withPlateWords id p x.reads (fun s =>
        let s := lateBefore p effEnd (countFlags p.pipe flags s)
        let s := setPkt id { p with pr := pr, effEnd := effEnd, stage := some 0, scan := none } s
        if act = 0 then
          let both := flags &&& pfLenConflict != 0 && byteAt 6 g == 0
          leaveHole id (s.inc (parserCtr p.pipe (if both then 4 else 3)))
        else if act = 2 then
          trapPacket id (byteAt 7 g / 64) (byteAt 7 g % 64) 0x01 x (s.inc (parserCtr p.pipe 5))
        else s) (s.inc (parserCtr p.pipe 0))
    else s

def execPacketParse (pkt : Nat) (x : StageIn) (s : State) : Res := guardWf true (packetParse pkt x s)

/-! ### Key builders (R121 to R123) -/

/-- `w` bits at bit offset `o` of a byte string, counted from the most significant bit of byte 0. -/
def bitsAt (b : Bytes) (o w : Nat) : Nat :=
  let n := (o % 8 + w + 7) / 8
  beAt (o / 8) n b / 2 ^ (8 * n - o % 8 - w) % 2 ^ w

/-- The header that an extract names: the occurrence among those of its type and layer, 31 the last (R121). -/
def findHdr (pr : Bytes) (x : Extract) : Option (Nat × Nat) :=
  let n := byteAt 2 pr
  let hs := ((List.range n).map (fun i => leAt (0x20 + 4 * i) 4 pr)).filter
    (fun h => h / 2 ^ 24 == x.hdrType && (x.layer == 7 || h / 2 ^ 22 % 4 == x.layer))
  let h? := if x.occurrence = 31 then hs.getLast? else hs[x.occurrence]?
  h?.map (fun h => (h / 2 ^ 13 % 512, h / 2 ^ 4 % 512))

/-- One field of a key; none where it is absent (R123). -/
def extractField (p : Packet) (x : Extract) : Option Nat :=
  match x.src with
  | 0 =>
    match findHdr p.pr x with
    | none => none
    | some (off, _) =>
      let o := 8 * off + x.bitOffset
      if atOrBeyond (o + x.bitWidth - 1) (p.effEnd.map (8 * ·)) || 8 * 384 < o + x.bitWidth then none
      else some (bitsAt p.bytes o x.bitWidth)
  | 1 => if 8 * 128 < x.bitOffset + x.bitWidth then none else some (bitsAt p.pr x.bitOffset x.bitWidth)
  | 2 => if 8 * 32 < x.bitOffset + x.bitWidth then none else some (bitsAt p.md x.bitOffset x.bitWidth)
  | 3 => if 64 < x.bitOffset + x.bitWidth then none else some (bitsAt (toBe 8 p.prev) x.bitOffset x.bitWidth)
  | _ => some (x.bitOffset % 2 ^ x.bitWidth)

/-- A key in the making: its value, its width, and whether an ABSENT_MISS field was absent. -/
def buildKeyRaw (p : Packet) (xs : List Extract) : Nat × Nat × Bool :=
  xs.foldl (fun k x =>
    match extractField p x with
    | some v => (k.1 * 2 ^ x.bitWidth + v, k.2.1 + x.bitWidth, k.2.2)
    | none => (k.1 * 2 ^ x.bitWidth, k.2.1 + x.bitWidth, k.2.2 || x.absentMiss)) (0, 0, false)

/-- The key of a builder, padded with zeros at the least significant end to `width` bits (R122), as bytes from the most
significant; none where an absent field makes the stage miss (R123). -/
def buildKey (p : Packet) (xs : List Extract) (width : Nat) : Option Bytes :=
  let k := buildKeyRaw p xs
  if k.2.2 then none else some (toBe (width / 8) (k.1 * 2 ^ (width - k.2.1)))

end Sys2Proof.Machine
end

