-- ==== Sys2Proof/Machine/Tables.lean ====
section
/-! DEFINITION. The forwarding tables: formats and checks (R134 to R158), exact match, learning and ageing (R146 to
R155), the table command interface, the rings and fences (R160 to R174). -/

namespace Sys2Proof.Machine

/-! ### Carving (R134) -/

/-- Banks of a carving code in the live plate. -/
def State.banksOf (s : State) (code : Nat) : Nat :=
  match s.plate.live with
  | none => 0
  | some b =>
    match (s.bank b).code with
    | some c => c.carving.countP (· == code)
    | none => 0

/-- The index spaces that the live carving gives. -/
def State.stencilWords (s : State) : Nat := 131072 * s.banksOf 1
def State.nextHops (s : State) : Nat := 65536 * s.banksOf 4
def State.ecmpGroups (s : State) : Nat := min 65536 (131072 * s.banksOf 5)
def State.ecmpMembers (s : State) : Nat := 262144 * s.banksOf 6

/-- Leaves in F0: 32 GiB of 64 bytes (R27, R139). -/
def f0Leaves : Nat := 2 ^ 29

/-- The exact-match tables: 0 label, 1 host route, 2 + n MAC of pipeline n. Entry size (R134). -/
def emSize (t : Nat) : Nat := if t = 1 then 32 else 16

/-- Entries per 64-byte bucket. -/
def emPer (t : Nat) : Nat := if t = 1 then 2 else 4

/-- Slots that the carving gives an exact-match table. -/
def State.emSlots (s : State) (t : Nat) : Nat :=
  if t = 0 then 65536 * s.banksOf 2
  else if t = 1 then 32768 * s.banksOf 3
  else 65536 * s.banksOf (16 + (t - 2))

/-- Buckets per way (R146). -/
def State.emBuckets (s : State) (t : Nat) : Nat := s.emSlots t / (2 * emPer t)

/-! ### Entries and their checks -/

/-- A result word that R136 allows. -/
def resultOk (w : Nat) : Bool :=
  match w / 2 ^ 22 % 4 with
  | 0 => w % 2 ^ 22 < 2 ^ 20
  | 1 => w % 2 ^ 22 < 2 ^ 16
  | 2 => w % 2 ^ 22 < 2 ^ 8
  | _ => w % 2 ^ 24 == 0xFFFFFF

/-- The low 16 bits of CRC-32C, the CHECK of an entry (R140, R147). -/
def check16 (b : Bytes) : Nat := crc32c b % 65536

/-- An entry with its CHECK, the last two bytes, computed by the device (R553). -/
def withCheck (b : Bytes) : Bytes :=
  let body := b.take (b.length - 2)
  body ++ toLe 2 (check16 (body ++ zeros 2))

/-- A leaf with its CHECK, over bytes 0 to 61 (R140). -/
def leafCheck (b : Bytes) : Bytes :=
  let body := slice 0 62 b
  body ++ toLe 2 (check16 body)

/-- CHECK of an entry holds, or the entry is all 0 (R553). -/
def checkOk (b : Bytes) : Bool := allZero b || withCheck b == b

/-- Fields of a leaf (R140). -/
def leafW (b : Bytes) : Nat := byteAt 0 b / 64
def leafK (b : Bytes) : Nat := byteAt 0 b % 64
def leafBytes (b : Bytes) : Nat := 2 ^ leafW b
def leafBound (b : Bytes) (i : Nat) : Nat := leAt (2 + i * leafBytes b) (leafBytes b) b
def leafResult (b : Bytes) (i : Nat) : Nat := leAt (2 + leafK b * leafBytes b + 3 * i) 3 b

/-- The largest K of a compare width (R140). -/
def leafMaxK (w : Nat) : Nat :=
  match w with
  | 0 => 14
  | 1 => 11
  | 2 => 8
  | _ => 5

/-- A leaf that a write may store (R141). -/
def leafOk (b : Bytes) : Bool :=
  let k := leafK b
  let endOff := 2 + k * leafBytes b + 3 * (k + 1)
  k ≤ leafMaxK (leafW b) && byteAt 1 b == 0 &&
  (List.range (k - 1)).all (fun i => leafBound b i < leafBound b (i + 1)) &&
  (List.range (k + 1)).all (fun i => resultOk (leafResult b i)) &&
  allZero (slice endOff (62 - endOff) b)

/-- Fields of stencil words (R139). -/
def rootL2Base (w : Word) : Nat := getF w (63, 40)
def rootStride (w : Word) : Nat := getF w (36, 32)
def l2Leaf (w : Word) : Nat := getF w (60, 32)

def rootWordOk (s : State) (w : Word) : Bool :=
  getF w (39, 37) == 0 && getF w (31, 0) == 0 && rootStride w ≤ 20 && rootL2Base w + 2 ^ rootStride w ≤ s.stencilWords

def l2WordOk (w : Word) : Bool := getF w (63, 61) == 0 && getF w (31, 0) == 0 && l2Leaf w < f0Leaves

/-- The root table of a valid stencil covers an index (R141). -/
def State.inRootTable (s : State) (i : Nat) : Bool :=
  (List.range 64).any (fun n =>
    let r := R.tblStencilRoot n
    s.flag r F.tblStencilRootValid && s.fld r F.tblStencilRootRootBase ≤ i &&
      i < s.fld r F.tblStencilRootRootBase + 2 ^ s.fld r F.tblStencilRootRootBits)

def stencilWordOk (s : State) (i : Nat) (w : Word) : Bool :=
  if s.inRootTable i then rootWordOk s w else rootWordOk s w || l2WordOk w

/-- A next-hop image that a write may store (R156). -/
def nextHopOk (b : Bytes) : Bool :=
  leAt 0 3 b < 2 ^ 18 && byteAt 3 b < 4 && leAt 4 2 b < 4096 && byteAt 6 b < 96 && byteAt 7 b < 2 && leAt 8 2 b < 4096 &&
    leAt 10 3 b < 2 ^ 20 && byteAt 13 b == 0

def groupBase (b : Bytes) : Nat := leAt 0 3 b
def groupSize (b : Bytes) : Nat := leAt 3 2 b

/-- An ECMP group image (R156). -/
def groupOk (s : State) (b : Bytes) : Bool :=
  groupBase b < 2 ^ 23 && 1 ≤ groupSize b && groupSize b ≤ 512 && byteAt 5 b < 2 &&
    groupBase b + groupSize b ≤ s.ecmpMembers

/-- An ECMP member image (R156). -/
def memberOk (b : Bytes) : Bool := nbits (leAt 0 4 b) 30 20 == 0

/-- The bytes of an exact-match entry that are its key (R147). -/
def emKeyLen (t : Nat) : Nat := if t = 0 then 3 else if t = 1 then 20 else 8

/-- The offset of FLAGS, whose bit 0 is VALID. -/
def emFlagsOff (t : Nat) : Nat := if t = 0 then 3 else if t = 1 then 23 else 11

/-- The offset of the result word. -/
def emResultOff (t : Nat) : Nat := if t = 0 then 4 else if t = 1 then 20 else 8

def emKey (t : Nat) (e : Bytes) : Bytes := slice 0 (emKeyLen t) e
def emValid (t : Nat) (e : Bytes) : Bool := nbit (byteAt (emFlagsOff t) e) 0
def emResult (t : Nat) (e : Bytes) : Nat := leAt (emResultOff t) 3 e

/-- An exact-match image that an INSERT may store (R147). -/
def emOk (t : Nat) (e : Bytes) : Bool :=
  resultOk (emResult t e) &&
  (if t = 0 then byteAt 3 e < 2 && byteAt 7 e < 4 && leAt 8 3 e < 2 ^ 20 && allZero (slice 11 3 e)
   else if t = 1 then
    (byteAt 2 e == 4 && allZero (slice 8 12 e) || byteAt 2 e == 6) && byteAt 3 e == 0 && byteAt 23 e < 2 &&
      allZero (slice 24 6 e)
   else byteAt 11 e < 8 && allZero (slice 12 2 e))

/-! ### Reading and storing entries -/

def noLeaf : Bytes := zeros 64

def State.word (s : State) (i : Nat) : Word := smapGet (fun _ => 0) i s.tbl.words
def State.leaf (s : State) (i : Nat) : Bytes := smapGet (fun _ => zeros 64) i s.tbl.leaves
def State.nextHop (s : State) (i : Nat) : Bytes := smapGet (fun _ => zeros 16) i s.tbl.nextHop
def State.group (s : State) (i : Nat) : Bytes := smapGet (fun _ => zeros 8) i s.tbl.group
def State.member (s : State) (i : Nat) : Bytes := smapGet (fun _ => zeros 4) i s.tbl.member

/-- The slots of an exact-match table. -/
def State.emTab (s : State) (t : Nat) : SMap Bytes := smapGet (fun _ => []) t s.tbl.em

/-- The entry in a slot; a free slot reads all 0 (R553). -/
def emGet (t slot : Nat) (tab : SMap Bytes) : Bytes := smapGet (fun _ => zeros (emSize t)) slot tab

def emPut (t slot : Nat) (e : Bytes) (tab : SMap Bytes) : SMap Bytes := smapPut (fun _ => zeros (emSize t)) slot e tab

def setEm (t : Nat) (tab : SMap Bytes) (s : State) : State :=
  { s with tbl := { s.tbl with em := smapPut (fun _ => []) t tab s.tbl.em } }

/-- An entry written again is bad no longer. -/
def clearBad (table pipe i : Nat) (s : State) : State :=
  { s with tbl := { s.tbl with bad := s.tbl.bad.filter (· != (table, pipe, i)),
                               told := s.tbl.told.filter (· != (table, pipe, i)) } }

def State.isBad (s : State) (table pipe i : Nat) : Bool := s.tbl.bad.contains (table, pipe, i)

def markBad (table pipe i : Nat) (s : State) : State :=
  if s.isBad table pipe i then s else { s with tbl := { s.tbl with bad := s.tbl.bad ++ [(table, pipe, i)] } }

/-- Record an event once for each address (R142, R158). -/
def tellOnce (inst table i code : Nat) (s : State) : State :=
  if s.tbl.told.contains (table, 0, i) then s
  else report .f 0x07 inst .k code [(i, 8)]
    { s with tbl := { s.tbl with told := s.tbl.told ++ [(table, 0, i)] } }

/-! ### Exact match (R146, R148) -/

/-- The bucket of a key in a way (R146). -/
def emBucket (buckets way : Nat) (key : Bytes) : Nat :=
  crc32cInit (if way = 0 then 0xFFFFFFFF else 0x9E3779B9) key % buckets

/-- The slot numbers of a bucket: way 0 first, then way 1, buckets and entries in order (DESIGN CHOICE, log 21). -/
def bucketSlots (t buckets way b : Nat) : List Nat :=
  (List.range (emPer t)).map (fun i => way * (buckets * emPer t) + b * emPer t + i)

/-- The slots where a key may stand, way 0 first. -/
def keySlots (t buckets : Nat) (key : Bytes) : List Nat :=
  if buckets = 0 then []
  else bucketSlots t buckets 0 (emBucket buckets 0 key) ++ bucketSlots t buckets 1 (emBucket buckets 1 key)

/-- A lookup: the slot whose valid entry has the key. -/
def emFind (t buckets : Nat) (key : Bytes) (tab : SMap Bytes) : Option Nat :=
  (keySlots t buckets key).find? (fun i => emValid t (emGet t i tab) && emKey t (emGet t i tab) == key)

def emFree (t : Nat) (tab : SMap Bytes) (slot : Nat) : Bool := !emValid t (emGet t slot tab)

/-- The slots in the other bucket of the entry in `slot`. -/
def altSlots (t buckets : Nat) (tab : SMap Bytes) (slot : Nat) : List Nat :=
  let key := emKey t (emGet t slot tab)
  if slot < buckets * emPer t then bucketSlots t buckets 1 (emBucket buckets 1 key)
  else bucketSlots t buckets 0 (emBucket buckets 0 key)

/-- Search for a displacement chain of at most `n` moves, level by level: each path lists slots from the deepest to
the one to be freed. -/
def chainSearch (t buckets : Nat) (tab : SMap Bytes) : Nat → List Nat → List (List Nat) → Option (List Nat)
  | 0, _, _ => none
  | n + 1, seen, paths =>
    let nexts := paths.flatMap (fun path =>
      match path with
      | [] => []
      | slot :: _ => (altSlots t buckets tab slot).map (fun a => a :: path))
    match nexts.find? (fun path => match path with | a :: _ => emFree t tab a | [] => false) with
    | some path => some path
    | none =>
      let fresh := nexts.filter (fun path => match path with | a :: _ => !seen.contains a | [] => false)
      match fresh with
      | [] => none
      | _ => chainSearch t buckets tab n (seen ++ fresh.filterMap List.head?) fresh

/-- Perform a chain, the deepest move first: each entry is written into its new slot before the old one is cleared
(R148). -/
def chainMove (t : Nat) : List Nat → SMap Bytes → SMap Bytes
  | a :: b :: rest, tab => chainMove t (b :: rest) (emPut t b (zeros (emSize t)) (emPut t a (emGet t b tab) tab))
  | _, tab => tab

/-- An insertion (R148): the table after it, the slot, the moves; none where no chain is found (NOSPACE). -/
def emInsert (t buckets maxMoves : Nat) (e : Bytes) (tab : SMap Bytes) : Option (SMap Bytes × Nat × Nat) :=
  let key := emKey t e
  match emFind t buckets key tab with
  | some i => some (emPut t i (withCheck e) tab, i, 0)
  | none =>
    let slots := keySlots t buckets key
    match slots.find? (emFree t tab) with
    | some i => some (emPut t i (withCheck e) tab, i, 0)
    | none =>
      match chainSearch t buckets tab maxMoves slots (slots.map (fun i => [i])) with
      | none => none
      | some path =>
        match path.getLast? with
        | none => none
        | some i => some (emPut t i (withCheck e) (chainMove t path tab), i, path.length - 1)

/-- What a check of an entry finds: CHECK is not compared where all its bytes are 0 (R553). -/
def eccOn (e : Bytes) (x : Ecc) : Ecc := if x = .badCheck && allZero e then .ok else x

/-- The check finds the entry unusable: an uncorrectable word, or a CHECK that does not match. -/
def eccLost (x : Ecc) : Bool := x == .uncorr || x == .badCheck

/-- A correctable error in the words that a unit reads is corrected in the data used and counted (R142, R149). -/
def countCorr (x : Ecc) (s : State) : State := doIf (x == .corr) (fun s => s.inc (R.tblDevCtr 0)) s

/-! ### Learn events (R154, R155) -/

/-- A learn event of an enabled type: written to the event queue, or counted as dropped; its SEQ is used. -/
def learnEvent (type pipe : Nat) (key : Bytes) (old new : Nat) (s : State) : State :=
  if nbit (s.fld R.tblLearnCfg F.tblLearnCfgEvEn * 2) type then
    let part := s.fld R.tblLearnCfg F.tblLearnCfgEvPart
    let rec_ := toLe 1 type ++ toLe 1 pipe ++ slice 6 2 key ++ slice 0 6 key ++ toLe 3 old ++ toLe 3 new ++
      toLe 10 (stampOf s.now) ++ zeros 2 ++ toLe 4 s.tbl.evSeq
    let s := { s with tbl := { s.tbl with evSeq := (s.tbl.evSeq + 1) % 2 ^ 32 } }
    let head := s.fld R.tblEvqHead F.tblEvqHeadHead
    let tail := s.fld R.tblEvqTail F.tblEvqTailTail
    let log2 := s.fld R.tblEvqCfg F.tblEvqCfgSizeLog2
    if s.flag R.tblEvqCfg F.tblEvqCfgEvqEn && (2 ^ 32 + tail - head) % 2 ^ 32 != 2 ^ log2 then
      let s := s.emit (.dmaWrite part ((s.rd R.tblEvqBase).toNat + 32 * ringSlot tail log2) rec_)
      let s := s.setFld R.tblEvqTail F.tblEvqTailTail ((tail + 1) % 2 ^ 32)
      doIf (s.flag R.tblEvqCfg F.tblEvqCfgIrqEn) (raiseSrc part 5) s
    else s.inc (R.tblDevCtr 4)
  else s

/-- An exact-match entry with an uncorrectable word, or whose CHECK does not match, is lost (R150): its slot is freed, it
is counted in counter `ctr` and recorded, and in a MAC table a LOST event is sent. -/
def entryLost (t slot ctr : Nat) (s : State) : State :=
  let e := emGet t slot (s.emTab t)
  let s := setEm t (emPut t slot (zeros (emSize t)) (s.emTab t)) s
  let pipe := if t < 2 then 0x3FF else t - 2
  let s := report .f 0x07 pipe .k 0x003 [(if t < 2 then 3 + t else 5, 1), (pipe, 2), (slot, 4)] (s.inc (R.tblDevCtr ctr))
  doIf (2 ≤ t) (learnEvent 5 (t - 2) (emKey t e) (emResult t e) 0xFFFFFF) s

/-! ### The ager (R153) and the scrubber (R149, R150) -/

/-- Set or clear HIT of a MAC entry. -/
def setHit (hit : Bool) (e : Bytes) : Bytes :=
  withCheck (patch 11 (toLe 1 (byteAt 11 e &&& 3 ||| (if hit then 4 else 0))) e)

def macStatic (e : Bytes) : Bool := nbit (byteAt 11 e) 1
def macHit (e : Bytes) : Bool := nbit (byteAt 11 e) 2

/-- The ager visits an entry once per AGE_PERIOD_S: HIT is cleared, or an unused entry that is not static removed. -/
def agerVisit (pipe slot : Nat) (s : State) : State :=
  let t := 2 + pipe
  let key := 2 ^ 20 * pipe + slot
  let period := ticksPerSec * s.fld R.tblAgeCfg F.tblAgeCfgAgePeriodS
  let due := match smapFind key s.tbl.visited with
    | some v => decide (v + period ≤ s.now)
    | none => true
  if s.flag R.tblAgeCfg F.tblAgeCfgAgeEn && slot < s.emSlots t && due then
    let s := { s with tbl := { s.tbl with visited := smapInsert key s.now s.tbl.visited } }
    let e := emGet t slot (s.emTab t)
    if !emValid t e then s
    else if macHit e then setEm t (emPut t slot (setHit false e) (s.emTab t)) s
    else if macStatic e then s
    else
      let s := setEm t (emPut t slot (zeros 16) (s.emTab t)) s
      learnEvent 3 pipe (emKey t e) (emResult t e) 0xFFFFFF (s.inc (R.tblPipeCtr pipe 8))
  else s

def execMacAgerVisit (pipe slot : Nat) (s : State) : Res := guardWf (pipe < 16) (agerVisit pipe slot s)

/-- The instance of a table's records: the pipeline, or 0x3FF device-wide (R398). -/
def tblInst (table pipe : Nat) : Nat := if table = 5 then pipe else 0x3FF

/-- The entries that the carving gives a table, of one pipeline where each has its own. -/
def State.tblCarved (s : State) (table pipe : Nat) : Nat :=
  match table with
  | 1 => s.stencilWords
  | 3 => s.emSlots 0
  | 4 => s.emSlots 1
  | 5 => s.emSlots (2 + pipe)
  | 6 => s.nextHops
  | 7 => s.ecmpGroups
  | _ => s.ecmpMembers

/-- The bytes of an entry as the scrubber reads it; a stencil word has no CHECK. -/
def State.tblBytes (s : State) (table pipe i : Nat) : Bytes :=
  match table with
  | 3 => emGet 0 i (s.emTab 0)
  | 4 => emGet 1 i (s.emTab 1)
  | 5 => emGet (2 + pipe) i (s.emTab (2 + pipe))
  | 6 => s.nextHop i
  | 7 => s.group i
  | _ => []

/-- Key of an entry in the times of the scrubber's visits; MAC tables alone are kept per pipeline. -/
def scrubKey (table pipe i : Nat) : Nat := 2 ^ 32 * (16 * table + if table = 5 then pipe else 0) + i

/-- The scrubber's visit to an entry is due: SCRUB_PERIOD_MS has passed since the last (R149). -/
def State.scrubDue (s : State) (table pipe i : Nat) : Bool :=
  match smapFind (scrubKey table pipe i) s.tbl.scrubbed with
  | some t => decide (t + msT (s.fld R.tblScrubCfg F.tblScrubCfgScrubPeriodMs) ≤ s.now)
  | none => true

/-- The scrubber reads an entry within the carving, once per SCRUB_PERIOD_MS: a corrected word is written back and
counted; an uncorrectable one, or a CHECK that does not match, loses an exact-match entry, or makes the entry bad until it
is written again. -/
def scrub (table pipe i : Nat) (ecc : Ecc) (s : State) : State :=
  if s.flag R.tblScrubCfg F.tblScrubCfgScrubEn && i < s.tblCarved table pipe && s.scrubDue table pipe i then
    let s := { s with tbl := { s.tbl with scrubbed := smapInsert (scrubKey table pipe i) s.now s.tbl.scrubbed } }
    match eccOn (s.tblBytes table pipe i) ecc with
    | .ok => s
    | .corr => report .f 0x07 (tblInst table pipe) .c 0x001 [] (s.inc (R.tblDevCtr 0))
    | .uncorr | .badCheck =>
      let ctr := if ecc = .uncorr then 1 else 2
      if table = 3 then entryLost 0 i ctr s
      else if table = 4 then entryLost 1 i ctr s
      else if table = 5 then entryLost (2 + pipe) i ctr s
      else markBad table 0 i s
  else s

def execTblScrub (table pipe index : Nat) (ecc : Ecc) (s : State) : Res :=
  guardWf (1 ≤ table && table ≤ 8 && table != 2 && pipe < 16) (scrub table pipe index ecc s)

/-! ### The table command interface (R160 to R163) -/

/-- One table command: an image of TBL_CMD, TBL_ARG and TBL_DATA. -/
structure TblOp where
  op    : Nat
  table : Nat
  mask  : Nat
  arg   : Nat
  data  : Bytes
  deriving DecidableEq, Repr

/-- The pipelines of a PIPE_MASK in ascending order. -/
def maskPipes (m : Nat) : List Nat := (List.range 16).filter (nbit m)

/-- The exact-match tables that a command works on. -/
def TblOp.ems (o : TblOp) : List Nat :=
  if o.table = 3 then [0] else if o.table = 4 then [1] else (maskPipes o.mask).map (· + 2)

/-- Opcode and table are listed together (R160). -/
def tblListed (o : TblOp) : Bool :=
  match o.op with
  | 1 => o.table == 1 || o.table == 2 || o.table == 6 || o.table == 7 || o.table == 8
  | 2 => 1 ≤ o.table && o.table ≤ 8
  | 3 => 3 ≤ o.table && o.table ≤ 5
  | 4 => 3 ≤ o.table && o.table ≤ 5
  | 5 => 3 ≤ o.table && o.table ≤ 5
  | 6 => true
  | 7 => o.table == 9
  | _ => false

/-- PIPE_MASK of a MAC command: one pipeline for READ and LOOKUP, one or more else, each of role 1 (R160). -/
def tblMaskOk (s : State) (o : TblOp) : Bool :=
  o.table != 5 || o.op == 6 ||
    ((maskPipes o.mask).all (fun n => s.role n == 1) &&
     (if o.op = 2 ∨ o.op = 5 then (maskPipes o.mask).length == 1 else !(maskPipes o.mask).isEmpty))

/-- The size of the index space of a table (R134). -/
def tblSpace (s : State) (o : TblOp) : Nat :=
  match o.table with
  | 1 => s.stencilWords
  | 2 => f0Leaves
  | 6 => s.nextHops
  | 7 => s.ecmpGroups
  | 8 => s.ecmpMembers
  | 9 => 64
  | _ => s.emSlots ((o.ems).headD 0)

/-- The index a command names exists. -/
def tblIndexOk (s : State) (o : TblOp) : Bool :=
  match o.op with
  | 1 | 2 | 7 => o.arg < tblSpace s o
  | _ => true

/-- The partition map grants the command (R162, R379, R380); FENCE needs no grant. -/
def tblGranted (s : State) (p : Nat) (o : TblOp) : Bool :=
  o.op == 6 ||
  match o.table with
  | 1 => s.inRange p 0 o.arg 1
  | 2 => s.inRange p 1 o.arg 1
  | 3 => s.right p Right.label
  | 4 => s.right p Right.hostRoute
  | 5 => s.right p Right.mac && (maskPipes o.mask).all (s.macPipeOk p)
  | 6 => s.inRange p 2 o.arg 1
  | 7 => s.inRange p 3 o.arg 1
  | 8 => s.inRange p 4 o.arg 1
  | _ => s.stencilOk p o.arg

/-- The image of a COMMIT (R160). -/
def commitOk (s : State) (w : Word) : Bool :=
  getF w (62, 53) == 0 && getF w (47, 24) == 0 &&
  (!bitOf w 63 ||
    (8 ≤ getF w F.tblStencilRootRootBits && getF w F.tblStencilRootRootBits ≤ 16 &&
     getF w F.tblStencilRootRootBase + 2 ^ getF w F.tblStencilRootRootBits ≤ s.stencilWords))

/-- The contents that a command writes lie within their limits. -/
def tblContents (s : State) (o : TblOp) : Bool :=
  match o.op with
  | 1 =>
    match o.table with
    | 1 => stencilWordOk s o.arg (wordAt 0 o.data)
    | 2 => leafOk o.data
    | 6 => nextHopOk o.data
    | 7 => groupOk s (slice 0 8 o.data)
    | _ => memberOk o.data
  | 3 => emOk ((o.ems).headD 0) o.data
  | 7 => commitOk s (wordAt 0 o.data)
  | _ => true

/-- The checks of R546 on a table command, in order. -/
def tblChecks (s : State) (p : Nat) (o : TblOp) : List (Bool × Nat) :=
  [(tblListed o && tblMaskOk s o, Code.notfound), (tblIndexOk s o, Code.notfound),
   (tblGranted s p o, Code.denied), (tblContents s o, Code.length)]

/-- The code of the first check that fails. -/
def firstFail (cs : List (Bool × Nat)) : Nat :=
  match cs.find? (fun c => !c.1) with
  | some c => c.2
  | none => Code.ok

/-- WRITE stores the entry (R160). -/
def tblStore (o : TblOp) (s : State) : State :=
  let s := clearBad o.table 0 o.arg s
  match o.table with
  | 1 => { s with tbl := { s.tbl with words := smapPut (fun _ => 0) o.arg (wordAt 0 o.data) s.tbl.words } }
  | 2 => { s with tbl := { s.tbl with leaves := smapPut (fun _ => zeros 64) o.arg (leafCheck o.data) s.tbl.leaves } }
  | 6 => { s with tbl := { s.tbl with
      nextHop := smapPut (fun _ => zeros 16) o.arg (withCheck (slice 0 16 o.data)) s.tbl.nextHop } }
  | 7 => { s with tbl := { s.tbl with
      group := smapPut (fun _ => zeros 8) o.arg (withCheck (slice 0 8 o.data)) s.tbl.group } }
  | _ => { s with tbl := { s.tbl with
      member := smapPut (fun _ => zeros 4) o.arg (slice 0 4 o.data) s.tbl.member } }

/-- The image of an INSERT with VALID set. -/
def emImage (t : Nat) (d : Bytes) : Bytes :=
  patch (emFlagsOff t) (toLe 1 (byteAt (emFlagsOff t) d ||| 1)) (slice 0 (emSize t) d)

/-- INSERT into each table in order; none where one fails (R161): then nothing is changed. The slot and moves of the
last. -/
def tblInsertAll (s : State) (o : TblOp) : Option (State × Nat × Nat) :=
  o.ems.foldl (fun a t =>
    match a with
    | none => none
    | some (s, _, _) =>
      (emInsert t (s.emBuckets t) 32 (emImage t o.data) (s.emTab t)).map (fun r => (setEm t r.1 s, r.2.1, r.2.2)))
    (some (s, 0, 0))

/-- DELETE in each table in order; none where one has no such key. -/
def tblDeleteAll (s : State) (o : TblOp) : Option State :=
  o.ems.foldl (fun a t =>
    match a with
    | none => none
    | some s =>
      (emFind t (s.emBuckets t) (emKey t o.data) (s.emTab t)).map (fun i =>
        setEm t (emPut t i (zeros (emSize t)) (s.emTab t)) s)) (some s)

/-- COMMIT writes a stencil's root pointer, the one order of the switch (R144). -/
def tblCommitRoot (o : TblOp) (s : State) : State := s.wr (R.tblStencilRoot o.arg) (wordAt 0 o.data)

/-- The stream that packets reassembled from the fabric are listed under; they never were in the F-die. -/
def fabricStream : Nat := 97

/-- Packet `id` is inside the F-die (R172): in a pipeline, recirculating, in the reorder unit, at a line MAC, waiting for
an egress pipeline with bytes across the bridge, or waiting for the bridge with bytes still to cross or to come. -/
def State.inDie (s : State) (id : Nat) (p : Packet) : Bool :=
  s.holdsCtx id p ||
  match p.place with
  | .egressWait => s.brTF.got.any (·.owner == some id) || !s.brTF.holds id
  | .bridge => p.stream != fabricStream && (s.brFT.holds id || !p.tailIn)
  | _ => false

/-- Packets inside the F-die now (R172). -/
def State.inFdie (s : State) : List Nat := (s.pkts.filter (fun e => s.inDie e.1 e.2)).map (·.1)

/-- The entry bytes that a READ returns. -/
def tblEntry (s : State) (o : TblOp) : Bytes :=
  match o.table with
  | 1 => toLe 8 (s.word o.arg).toNat
  | 2 => s.leaf o.arg
  | 6 => s.nextHop o.arg
  | 7 => s.group o.arg
  | 8 => s.member o.arg
  | _ => emGet ((o.ems).headD 0) o.arg (s.emTab ((o.ems).headD 0))

/-- READ: the entry goes into DATA; an uncorrectable word completes it with ECC_UNCORRECTABLE. -/
def tblRead (p : Nat) (o : TblOp) (ecc : Ecc) (s : State) : State :=
  if ecc == .uncorr || s.isBad o.table 0 o.arg then complete (.tbl p) Code.eccUncorrectable 0 s
  else
    let s := doIf (ecc == .corr) (fun s =>
      report .f 0x07 (tblInst o.table ((maskPipes o.mask).headD 0)) .c 0x001 [] (s.inc (R.tblDevCtr 0))) s
    complete (.tbl p) Code.ok 0 (setData (R.tblData p) 8 (tblEntry s o) s)

/-- LOOKUP: the entry for the key, and its slot in ARG. -/
def tblLookup (p : Nat) (o : TblOp) (s : State) : State :=
  let t := (o.ems).headD 0
  match emFind t (s.emBuckets t) (emKey t o.data) (s.emTab t) with
  | none => complete (.tbl p) Code.notfound 0 s
  | some i =>
    let s := setData (R.tblData p) 8 (emGet t i (s.emTab t)) s
    complete (.tbl p) Code.ok 0 (s.setFld (R.tblArg p) F.tblArgIndex i)

/-- A fence is ordered: it waits for the packets inside the F-die now (R172). -/
def newFence (s : State) : Fence := { pkts := s.inFdie, at_ := s.now }

/-- Perform an accepted table command that passed its checks. -/
def tblPerform (p : Nat) (o : TblOp) (ecc : Ecc) (s : State) : State :=
  let i : Ifc := .tbl p
  match o.op with
  | 1 => complete i Code.ok 0 (tblStore o s)
  | 2 => tblRead p o ecc s
  | 3 =>
    match tblInsertAll s o with
    | none => complete i Code.nospace 0 s
    | some (s, slot, moves) =>
      complete i Code.ok 0 ((s.setFld (R.tblArg p) F.tblArgIndex slot).setFld (R.tblStatus p) F.tblStatusMoves moves)
  | 4 =>
    match tblDeleteAll s o with
    | none => complete i Code.notfound 0 s
    | some s => complete i Code.ok 0 s
  | 5 => tblLookup p o s
  | 6 => { (s.inc (R.tblDevCtr 3)) with tbl := { s.tbl with fenceC := s.tbl.fenceC.set p (some (newFence s)) } }
  | _ => complete i Code.ok 0 (tblCommitRoot o s)

/-- A table command of partition `p` with what stands in its ARG and DATA registers. -/
def tblOpOf (s : State) (p op table mask : Nat) : TblOp :=
  { op := op, table := table, mask := mask, arg := s.fld (R.tblArg p) F.tblArgIndex, data := s.dataBytes (R.tblData p) 8 }

/-- A write to TBL_CMD_p that the map let through. An INSERT starts with no displacement made: MOVES is 0 after one that fails
(R148); log 53. -/
def tblCommand (fn : Fn) (p : Nat) (w : Word) (ecc : Ecc) (s : State) : State :=
  let op := getF w F.tblCmdOpcode
  issue (.tbl p) op p (fun s =>
    let o := tblOpOf s p op (getF w F.tblCmdTable) (getF w F.tblCmdPipeMask)
    let s := doIf (op == 3) (fun s => s.setFld (R.tblStatus p) F.tblStatusMoves 0) s
    runChecks (.tbl p) fn (tblChecks s p o) (tblPerform p o ecc) s) s

/-- The image of TBL_CMD. -/
def tblWord (op table mask : Nat) : Word :=
  setF (setF (setF 0 F.tblCmdOpcode op) F.tblCmdTable table) F.tblCmdPipeMask mask

/-- A command written by a function to its own partition's TBL_CMD (R381). -/
def tblIssue (fn : Fn) (op table mask : Nat) (ecc : Ecc) (s : State) : State :=
  access fn (R.tblCmd ((s.partOf fn).getD 0)) 1 (fun p _ _ s => tblCommand fn p (tblWord op table mask) ecc s) s

def fnOk (fn : Fn) : Bool := fn.port < 2 && fn.func < 2

def execTblWrite (fn : Fn) (table : Nat) (s : State) : Res :=
  guardWf (fnOk fn && table < 256) (tblIssue fn 1 table 0 .ok s)
def execTblRead (fn : Fn) (table : Nat) (mask : BitVec 16) (ecc : Ecc) (s : State) : Res :=
  guardWf (fnOk fn && table < 256) (tblIssue fn 2 table mask.toNat ecc s)
def execTblInsert (fn : Fn) (table : Nat) (mask : BitVec 16) (s : State) : Res :=
  guardWf (fnOk fn && table < 256) (tblIssue fn 3 table mask.toNat .ok s)
def execTblDelete (fn : Fn) (table : Nat) (mask : BitVec 16) (s : State) : Res :=
  guardWf (fnOk fn && table < 256) (tblIssue fn 4 table mask.toNat .ok s)
def execTblLookup (fn : Fn) (table : Nat) (mask : BitVec 16) (s : State) : Res :=
  guardWf (fnOk fn && table < 256) (tblIssue fn 5 table mask.toNat .ok s)
def execTblCommit (fn : Fn) (s : State) : Res := guardWf (fnOk fn) (tblIssue fn 7 9 0 .ok s)
def execTblFence (fn : Fn) (s : State) : Res := guardWf (fnOk fn) (tblIssue fn 6 0 0 .ok s)

/-! ### The table ring (R166 to R171) -/

/-- Descriptor `i` of a run of ring bytes. -/
def ringOp (d : Bytes) (i : Nat) : TblOp :=
  let b := slice (128 * i) 128 d
  let w := wordAt 0 b
  { op := getF w F.tblCmdOpcode, table := getF w F.tblCmdTable, mask := getF w F.tblCmdPipeMask,
    arg := leAt 8 4 b, data := slice 0x40 64 b }

/-- END of descriptor `i`. -/
def ringEnd (d : Bytes) (i : Nat) : Bool := nbit (byteAt (128 * i + 0x10) d) 0

def State.tblHead (s : State) (p : Nat) : Nat := s.fld (R.tblRingHead p) F.tblRingHeadHead

/-- Write CODE and DONE into descriptor HEAD + i and advance HEAD past it. -/
def ringComplete (p i code endBit : Nat) (s : State) : State :=
  let head := s.tblHead p
  let slot := ringSlot (head + i) (s.fld (R.tblRingCfg p) F.tblRingCfgSizeLog2)
  let s := s.emit (.dmaWrite p ((s.rd (R.tblRingBase p)).toNat + 128 * slot + 0x10) (toLe 1 (2 + endBit) ++ toLe 1 code))
  let s := s.setFld (R.tblRingHead p) F.tblRingHeadHead ((head + i + 1) % 2 ^ 32)
  let s := doIf (code == Code.ok) (fun s => s.inc (R.tblDevCtr 5)) s
  doIf (s.flag (R.tblRingCfg p) F.tblRingCfgIrqEn) (raiseSrc p 5) s

/-- A descriptor that may not stand at its place in a group (R167), then the checks of R546. DESIGN CHOICE: an INSERT, DELETE,
COMMIT or FENCE before the last place is refused with NOTFOUND, as R167 says of READ and LOOKUP; log 162. -/
def ringCheck (s : State) (p : Nat) (last : Bool) (o : TblOp) : Nat :=
  if o.op == 1 || (last && (o.op == 3 || o.op == 4 || o.op == 7 || o.op == 6)) then firstFail (tblChecks s p o)
  else Code.notfound

/-- The code of the first descriptor of a group that fails its checks (R169). -/
def groupCheck (s : State) (p : Nat) (d : Bytes) (n : Nat) : Nat :=
  match ((List.range n).map (fun i => ringCheck s p (i + 1 == n) (ringOp d i))).find? (· != Code.ok) with
  | some c => c
  | none => Code.ok

/-- The function of a partition, for the record of a denied ring command. -/
def State.partFn (s : State) (p : Nat) : Fn := s.fnOf p

/-- A group whose END is descriptor `n − 1` (R169, R170): checked whole, then written in order, or refused whole. -/
def runGroup (p n : Nat) (d : Bytes) (s : State) : State :=
  let code := if s.boot.ready then groupCheck s p d n else Code.busy
  if code != Code.ok then
    ringComplete p (n - 1) code 1 (doIf (code == Code.denied) (denied (s.partFn p) (R.tblCmd p) 2) s)
  else
    let t := forEach (List.range (n - 1)) (fun i s => tblStore (ringOp d i) s) s
    let o := ringOp d (n - 1)
    match o.op with
    | 1 => ringComplete p (n - 1) Code.ok 1 (tblStore o t)
    | 3 =>
      match tblInsertAll t o with
      | none => ringComplete p (n - 1) Code.nospace 1 s
      | some (t, _, _) => ringComplete p (n - 1) Code.ok 1 t
    | 4 =>
      match tblDeleteAll t o with
      | none => ringComplete p (n - 1) Code.notfound 1 s
      | some t => ringComplete p (n - 1) Code.ok 1 t
    | 7 => ringComplete p (n - 1) Code.ok 1 (tblCommitRoot o t)
    | _ => { (t.inc (R.tblDevCtr 3)) with
              tbl := { t.tbl with fenceR := t.tbl.fenceR.set p (some (newFence t, n - 1, 0)) } }

/-- Mark, or unmark, that the group of a ring has outgrown what is read at a time. -/
def setBig (p : Nat) (v : Bool) (s : State) : State := { s with tbl := { s.tbl with big := s.tbl.big.set p v } }

/-- The ring goes on with `m` descriptors read (R168 to R171); `full`: no more of them can be read before they are
taken from the ring. -/
def ringRun (p m : Nat) (full : Bool) (b : Bytes) (s : State) : State :=
  match (List.range m).find? (fun i => ringEnd b i) with
  | some i =>
    if s.tbl.big.getD p false then setBig p false (ringComplete p i Code.length 1 s)
    else runGroup p (i + 1) b s
  | none =>
    if s.tbl.big.getD p false then s.setFld (R.tblRingHead p) F.tblRingHeadHead ((s.tblHead p + m) % 2 ^ 32)
    else if full then setBig p true (ringComplete p (m - 1) Code.length 0 s)
    else s

/-- The ring of a partition goes on (R168 to R171): `d` is what the device reads from HEAD to TAIL − 1. Where that read
fails, `group` says how many descriptors the group at HEAD has in host memory; one whose END TAIL does not cover is not
started. A failed read ends a refusal of R168 with the group's END. DESIGN CHOICE: with TAIL further ahead of HEAD than the
ring has slots, of which R168 says nothing, the ring stands still; log 162. -/
def ringGroup (p : Nat) (d : Dma) (group : Nat) (s : State) : State :=
  let cfg := R.tblRingCfg p
  let n := (2 ^ 32 + s.fld (R.tblRingTail p) F.tblRingTailTail - s.tblHead p) % 2 ^ 32
  let cap := 2 ^ s.fld cfg F.tblRingCfgSizeLog2
  if s.mayInt p && s.flag cfg F.tblRingCfgRingEn && (s.tbl.fenceR.getD p none).isNone && 0 < n && n ≤ cap then
    match d with
    | .data b => ringRun p (min n 4096) (n = cap || min n 4096 = 4096) b s
    | f => doIf (1 ≤ group && group ≤ n) (fun s => setBig p false (ringComplete p (group - 1) (dmaCode f) 1 s)) s
  else s

def execTblRingGroup (part : Nat) (d : Dma) (group : Nat) (s : State) : Res :=
  guardWf (part < 4) (ringGroup part d group s)

/-! ### Fences (R172, R173) -/

/-- No packet that the fence waits for is left in the F-die. -/
def Fence.over (f : Fence) (s : State) : Bool := f.pkts.all (fun i => !s.inFdie.contains i)

def clearFence (p : Nat) (ring : Bool) (s : State) : State :=
  if ring then { s with tbl := { s.tbl with fenceR := s.tbl.fenceR.set p none } }
  else { s with tbl := { s.tbl with fenceC := s.tbl.fenceC.set p none } }

/-- A fence ends with a code: the command or the END descriptor completes. -/
def fenceEnd (p : Nat) (ring : Bool) (code n : Nat) (s : State) : State :=
  let s := clearFence p ring s
  if ring then ringComplete p n code 1 s else complete (.tbl p) code 0 s

/-- The fence of a partition's interface or ring, with the END descriptor of its group. -/
def State.fence (s : State) (p : Nat) (ring : Bool) : Option (Fence × Nat) :=
  if ring then (s.tbl.fenceR.getD p none).map (fun f => (f.1, f.2.1)) else (s.tbl.fenceC.getD p none).map (fun f => (f, 0))

def fenceDone (p : Nat) (ring : Bool) (s : State) : State :=
  match s.fence p ring with
  | some (f, n) => doIf (f.over s) (fenceEnd p ring Code.ok n) s
  | none => s

/-- 100 µs after the order the fence completes with TIMEOUT and is recorded (R173). -/
def fenceTimeout (p : Nat) (ring : Bool) (s : State) : State :=
  match s.fence p ring with
  | some (f, n) =>
    doIf (!f.over s && f.at_ + usT 100 ≤ s.now)
      (fun s => fenceEnd p ring Code.timeout n (report .f 0x07 0x3FF .k 0x005 [] s)) s
  | none => s

def execTblFenceDone (part : Nat) (ring : Bool) (s : State) : Res := guardWf (part < 4) (fenceDone part ring s)
def execTblFenceTimeout (part : Nat) (ring : Bool) (s : State) : Res := guardWf (part < 4) (fenceTimeout part ring s)

end Sys2Proof.Machine
end

