-- ==== Sys2Proof/Machine/Asa.lean ====
section
/-! DEFINITION. The associative search array: tables, searches, commands, ordered insertion, scrubbing (R175 to R198). -/

namespace Sys2Proof.Machine

/-! ### Tables (R175 to R177) -/

/-- The geometry of a table, from its ASA_TABLE_CFG. -/
structure AsaTab where
  first : Nat
  count : Nat
  wide  : Bool
  hole  : Nat
  on    : Bool
  deriving DecidableEq, Repr

/-- The geometry that an image of ASA_TABLE_CFG gives. -/
def asaTabOf (w : Word) : AsaTab :=
  { first := getF w F.asaTableCfgFirstBank, count := getF w F.asaTableCfgBankCount,
    wide := getF w F.asaTableCfgWidth != 0, hole := getF w F.asaTableCfgHoleLog2, on := getF w F.asaTableCfgEn != 0 }

def State.asaTab (s : State) (t : Nat) : AsaTab := asaTabOf (s.rd (R.asaTableCfg t))

/-- Entries per bank (R175). -/
def AsaTab.per (a : AsaTab) : Nat := if a.wide then 4096 else 16384

/-- Rows per entry (R175). -/
def AsaTab.step (a : AsaTab) : Nat := if a.wide then 4 else 1

/-- Entries of the table (R177), in banks that exist: with EN 0 a geometry can name banks beyond 15 (R194). -/
def AsaTab.size (a : AsaTab) : Nat := (min (a.first + a.count) 16 - a.first) * a.per

/-- Bytes of VALUE, and of MASK (R186). -/
def AsaTab.keyLen (a : AsaTab) : Nat := if a.wide then 80 else 20

/-- Bytes of an entry image (R186). -/
def AsaTab.imgLen (a : AsaTab) : Nat := if a.wide then 192 else 64

/-- The place of index `x`: bank × 16,384 + first row (R177). -/
def AsaTab.key (a : AsaTab) (x : Nat) : Nat := 16384 * (a.first + x / a.per) + x % a.per * a.step

/-- The index of a place of the table. -/
def AsaTab.index (a : AsaTab) (k : Nat) : Nat := (k / 16384 - a.first) * a.per + k % 16384 / a.step

/-- A place lies in a bank of the table. -/
def AsaTab.holds (a : AsaTab) (k : Nat) : Bool := a.first ≤ k / 16384 && k / 16384 < a.first + a.count

/-! ### Images (R186, R187) -/

def asaValue (a : AsaTab) (e : Bytes) : Bytes := slice 0 a.keyLen e
def asaMask (a : AsaTab) (e : Bytes) : Bytes := slice a.keyLen a.keyLen e
def asaResult (a : AsaTab) (e : Bytes) : Nat := leAt (2 * a.keyLen) 8 e
def asaPrio (a : AsaTab) (e : Bytes) : Nat := leAt (2 * a.keyLen + 8) 2 e
def asaFlagsOff (a : AsaTab) : Nat := 2 * a.keyLen + 10
def asaValid (a : AsaTab) (e : Bytes) : Bool := nbit (byteAt (asaFlagsOff a) e) 0

/-- The image with VALID cleared. -/
def asaClear (a : AsaTab) (e : Bytes) : Bytes :=
  patch (asaFlagsOff a) (toLe 1 (byteAt (asaFlagsOff a) e / 2 * 2)) e

/-- An image that a write or insertion may store: no VALUE bit outside MASK, no reserved bit (R187). -/
def asaOkImage (a : AsaTab) (e : Bytes) : Bool :=
  (List.range a.keyLen).all (fun i => byteAt i e &&& (255 - byteAt (a.keyLen + i) e) == 0) &&
    byteAt (asaFlagsOff a) e < 2 && allZero (slice (asaFlagsOff a + 1) (a.imgLen - asaFlagsOff a - 1) e)

/-- A listed image is one of the table's width. Tables with EN 0 may share a bank (R194), and a bank holds entries of one
width at a time (R175): an entry of the other width is none of this table's. -/
def AsaTab.fits (a : AsaTab) (e : Bytes) : Bool := e.length == a.imgLen

/-- The image at a place; one never written reads 0. -/
def State.asaGet (s : State) (a : AsaTab) (x : Nat) : Bytes :=
  let e := smapGet (fun _ => []) (a.key x) s.asa.rows
  slice 0 a.imgLen (if a.fits e then e else [])

/-- Store an image; the entry's result word is bad no longer (R197). The entries of the other width in its bank are lost
(R175); DESIGN CHOICE, log 151. -/
def asaPut (a : AsaTab) (x : Nat) (e : Bytes) (s : State) : State :=
  let k := a.key x
  let rows := s.asa.rows.filter (fun r => r.1 / 16384 != k / 16384 || a.fits r.2)
  { s with asa := { s.asa with
                    rows := smapPut (fun _ => []) k (if allZero e then [] else e) rows,
                    badRes := s.asa.badRes.filter (· != k), told := s.asa.told.filter (· != k),
                    lost := s.asa.lost.filter (· != k) } }

/-- Store an image whose result memory stays as it was: a bad result word stays bad (R197). -/
def asaPutRow (a : AsaTab) (x : Nat) (e : Bytes) (s : State) : State :=
  let t := asaPut a x e s
  { t with asa := { t.asa with badRes := s.asa.badRes, told := s.asa.told } }

/-- A slot of a table's banks goes to a write (R185). -/
def asaSlot (t : Nat) (s : State) : State := s.inc (R.asaTableCtr t 2)

/-- Write an entry: one slot (R185). -/
def asaWriteAt (t : Nat) (a : AsaTab) (x : Nat) (e : Bytes) (s : State) : State := asaSlot t (asaPut a x e s)

/-! ### Searches (R178 to R180) -/

/-- An entry matches a key (R178). -/
def asaMatches (a : AsaTab) (key e : Bytes) : Bool :=
  asaValid a e && (List.range a.keyLen).all (fun i => (byteAt i key ^^^ byteAt i e) &&& byteAt (a.keyLen + i) e == 0)

/-- The matching entries of a table, by rising index. -/
def asaHits (s : State) (a : AsaTab) (key : Bytes) : List (Nat × Bytes) :=
  (s.asa.rows.filter (fun r => a.holds r.1 && a.fits r.2 && asaMatches a key (slice 0 a.imgLen r.2))).map
    (fun r => (a.index r.1, slice 0 a.imgLen r.2))

/-- The entry of lowest PRIORITY, the first of equals. -/
def lowestPrio (a : AsaTab) : List (Nat × Bytes) → Option (Nat × Bytes)
  | [] => none
  | h :: t =>
    match lowestPrio a t with
    | none => some h
    | some b => if asaPrio a b.2 < asaPrio a h.2 then some b else some h

/-- The winner of a search: index and image (R176, R179). -/
def asaWinner (s : State) (a : AsaTab) (key : Bytes) : Option (Nat × Bytes) :=
  let hits := asaHits s a key
  if a.count = 1 then lowestPrio a hits else hits.head?

/-- Search a table: counted, with its winner (R198). -/
def asaSearch (t : Nat) (key : Bytes) (s : State) : State × Option (Nat × Bytes) :=
  let a := s.asaTab t
  let w := asaWinner s a key
  (doIf w.isSome (fun s => s.inc (R.asaTableCtr t 1)) (s.inc (R.asaTableCtr t 0)), w)

/-- The result word of a winner has an uncorrectable word: it stays bad until the entry is written again, and the first
such event is recorded (R197). -/
def asaResultBad (t x : Nat) (s : State) : State :=
  let k := (s.asaTab t).key x
  if s.asa.told.contains k then s
  else
    report .f 0x08 t .k 0x004 []
      { s with asa := { s.asa with badRes := s.asa.badRes.filter (· != k) ++ [k], told := s.asa.told ++ [k] } }

/-- Whether the result word of a winner can be used: its check, or an error met before (R197). -/
def State.asaBad (s : State) (t x : Nat) (ecc : Ecc) : Bool :=
  ecc == .uncorr || s.asa.badRes.contains ((s.asaTab t).key x)

/-! ### Ordered insertion (R193) -/

/-- The plan of INSERT_AT: where the new entry lands, and the moves as (from, to) in order. -/
structure AsaPlan where
  land  : Nat
  moves : List (Nat × Nat)
  deriving DecidableEq, Repr

/-- Numbers `a` to `b − 1`. -/
def fromTo (a b : Nat) : List Nat := (List.range (b - a)).map (a + ·)

/-- The plan at index `i`; none where the segment has no hole (NOSPACE). -/
def asaPlan (s : State) (a : AsaTab) (i : Nat) : Option AsaPlan :=
  let seg := 2 ^ a.hole
  let lo := i / seg * seg
  let valid := fun x => asaValid a (s.asaGet a x)
  if !valid i then some { land := i, moves := [] }
  else
    let up := (fromTo (i + 1) (lo + seg)).find? (fun h => !valid h)
    let dn := (fromTo lo i).reverse.find? (fun h => !valid h)
    let goUp := fun u => { land := i, moves := (fromTo i u).reverse.map (fun k => (k, k + 1)) : AsaPlan }
    let goDn := fun d => { land := i - 1, moves := (fromTo (d + 1) i).map (fun k => (k, k - 1)) : AsaPlan }
    match up, dn with
    | none, none => none
    | some u, none => some (goUp u)
    | none, some d => some (goDn d)
    | some u, some d => if u - i ≤ i - d then some (goUp u) else some (goDn d)

/-- Every index that the insertion writes, reads or moves (R381). -/
def AsaPlan.touched (p : AsaPlan) (i : Nat) : List Nat := i :: p.land :: p.moves.flatMap (fun m => [m.1, m.2])

/-- One move: the entry goes with its result word, bad or not (R193). -/
def asaMove (t : Nat) (a : AsaTab) (m : Nat × Nat) (s : State) : State :=
  let bad := s.asa.badRes.contains (a.key m.1)
  let s := asaWriteAt t a m.2 (s.asaGet a m.1) s
  if bad then { s with asa := { s.asa with badRes := s.asa.badRes ++ [a.key m.2] } } else s

/-! ### Commands (R188 to R191) -/

/-- The indices that a command on table `t` at `x` names, reads, writes or moves (R381); a SEARCH reads its winner's. -/
def asaTouched (s : State) (op t x : Nat) (img : Bytes) : List Nat :=
  let a := s.asaTab t
  if op = 4 then ((asaPlan s a x).map (fun p => p.touched x)).getD [x]
  else if op = 5 then ((asaWinner s a (asaValue a img)).map (·.1)).toList
  else [x]

/-- The checks of R546. A SEARCH names a table and no index. -/
def asaChecks (s : State) (p op t x : Nat) (img : Bytes) : List (Bool × Nat) :=
  let a := s.asaTab t
  [(1 ≤ op && op ≤ 5 && t < 16 && a.count != 0 && !(op == 4 && a.count == 1), Code.notfound),
   (op == 5 || x < a.size, Code.notfound),
   (s.asaOk p t && (asaTouched s op t x img).all (fun i => s.inRange p 6 i 1), Code.denied),
   (!(op == 1 || op == 4) || asaOkImage a img, Code.length)]

/-- READ: the shadow and the result memory (R188). -/
def asaRead (p t x : Nat) (ecc : Ecc) (s : State) : State :=
  let a := s.asaTab t
  if s.asaBad t x ecc then complete (.asa p) Code.eccUncorrectable 0 s
  else complete (.asa p) Code.ok 0 (setData (R.asaData p) (a.imgLen / 8) (s.asaGet a x) s)

/-- INSERT_AT after its checks. -/
def asaInsert (p t x : Nat) (img : Bytes) (ecc : Ecc) (s : State) : State :=
  let a := s.asaTab t
  match asaPlan s a x with
  | none => complete (.asa p) Code.nospace 0 s
  | some plan =>
    if ecc == .uncorr && !plan.moves.isEmpty then complete (.asa p) Code.eccUncorrectable 0 s
    else
      let s := asaWriteAt t a plan.land img (forEach plan.moves (asaMove t a) s)
      let s := s.setFld (R.asaArg p) F.asaArgIndex plan.land
      complete (.asa p) Code.ok 0 (s.setFld (R.asaStatus p) F.asaStatusMoves plan.moves.length)

/-- The winner of a SEARCH is shown; a bad result word completes it with ECC_UNCORRECTABLE (R197). -/
def asaHit (p t x : Nat) (e : Bytes) (ecc : Ecc) (s : State) : State :=
  if s.asaBad t x ecc then complete (.asa p) Code.eccUncorrectable 0 (asaResultBad t x s)
  else
    complete (.asa p) Code.ok 0
      ((setData (R.asaData p) ((s.asaTab t).imgLen / 8) e (doIf (ecc == .corr) (fun s => s.inc (R.asaDevCtr 3)) s)).setFld (R.asaArg p)
        F.asaArgIndex x)

/-- SEARCH: the winner's index and image (R197). -/
def asaSearchDo (p t : Nat) (img : Bytes) (ecc : Ecc) (s : State) : State :=
  match asaSearch t (asaValue (s.asaTab t) img) s with
  | (s, none) => complete (.asa p) Code.notfound 0 s
  | (s, some (x, e)) => asaHit p t x e ecc s

/-- Perform a command that passed its checks. -/
def asaPerform (p op t x : Nat) (img : Bytes) (ecc : Ecc) (s : State) : State :=
  let a := s.asaTab t
  match op with
  | 1 => complete (.asa p) Code.ok 0 (asaWriteAt t a x (slice 0 a.imgLen img) s)
  | 2 => asaRead p t x ecc s
  | 3 => complete (.asa p) Code.ok 0 (asaSlot t (asaPutRow a x (asaClear a (s.asaGet a x)) s))
  | 4 => asaInsert p t x (slice 0 a.imgLen img) ecc s
  | _ => asaSearchDo p t img ecc s

/-- A write to ASA_CMD_p that the map let through. An INSERT_AT starts with no moves made. -/
def asaCommand (fn : Fn) (p : Nat) (w : Word) (ecc : Ecc) (s : State) : State :=
  let op := getF w F.asaCmdOpcode
  let t := getF w F.asaCmdTable
  issue (.asa p) op p (fun s =>
    let x := s.fld (R.asaArg p) F.asaArgIndex
    let img := s.dataBytes (R.asaData p) 24
    let s := doIf (op == 4) (fun s => s.setFld (R.asaStatus p) F.asaStatusMoves 0) s
    runChecks (.asa p) fn (asaChecks s p op t x img) (asaPerform p op t x img ecc) s) s

/-- The image of ASA_CMD. -/
def asaWord (op t : Nat) : Word := setF (setF 0 F.asaCmdOpcode op) F.asaCmdTable t

def asaIssue (fn : Fn) (op t : Nat) (ecc : Ecc) (s : State) : State :=
  access fn (R.asaCmd ((s.partOf fn).getD 0)) 1 (fun p _ _ s => asaCommand fn p (asaWord op t) ecc s) s

def execAsaWrite (fn : Fn) (table : Nat) (s : State) : Res :=
  guardWf (fnOk fn && table < 16) (asaIssue fn 1 table .ok s)
def execAsaRead (fn : Fn) (table : Nat) (ecc : Ecc) (s : State) : Res :=
  guardWf (fnOk fn && table < 16) (asaIssue fn 2 table ecc s)
def execAsaInvalidate (fn : Fn) (table : Nat) (s : State) : Res :=
  guardWf (fnOk fn && table < 16) (asaIssue fn 3 table .ok s)
def execAsaInsertAt (fn : Fn) (table : Nat) (ecc : Ecc) (s : State) : Res :=
  guardWf (fnOk fn && table < 16) (asaIssue fn 4 table ecc s)
def execAsaSearchCmd (fn : Fn) (table : Nat) (ecc : Ecc) (s : State) : Res :=
  guardWf (fnOk fn && table < 16) (asaIssue fn 5 table ecc s)

/-! ### Configuration (R194, R195) -/

/-- Two tables share a bank. -/
def AsaTab.meets (a b : AsaTab) : Bool :=
  a.count != 0 && b.count != 0 && a.first < b.first + b.count && b.first < a.first + a.count

/-- What R194 asks of a write to ASA_TABLE_CFG_t beside its field ranges. -/
def asaCfgOk (t : Nat) (new : Word) (s : State) : Bool :=
  let a := asaTabOf new
  !a.on || (a.first + a.count ≤ 16 && (List.range 16).all (fun u => u == t || !a.meets (s.asaTab u)))

/-- The banks whose table or width a write changes: held before or after, and not by both at one width. -/
def asaChanged (a b : AsaTab) (k : Nat) : Bool :=
  let x := a.first ≤ k && k < a.first + a.count
  let y := b.first ≤ k && k < b.first + b.count
  (x || y) && !(x && y && a.wide == b.wide)

/-- After a write to ASA_TABLE_CFG the entries of every bank whose table or width changed are invalid (R195); they read
as never written. DESIGN CHOICE: so are those that another disabled table, which names the bank too, has in it; log 59. -/
def asaCfgEffect (old new : Word) (s : State) : State :=
  let chg := fun k => asaChanged (asaTabOf old) (asaTabOf new) (k / 16384)
  { s with asa := { s.asa with
                    rows := s.asa.rows.filter (fun r => !chg r.1), badRes := s.asa.badRes.filter (fun k => !chg k),
                    told := s.asa.told.filter (fun k => !chg k), lost := s.asa.lost.filter (fun k => !chg k) } }

/-! ### Scrubbing (R196) -/

/-- The entries that a bank lists are of a table's width. -/
def State.asaWidthFits (s : State) (bank t : Nat) : Bool :=
  s.asa.rows.all (fun r => r.1 / 16384 != bank || (s.asaTab t).fits r.2)

/-- The table that holds a bank. DESIGN CHOICE: of several tables with EN 0 that share it (R194), the lowest whose width its
entries have; log 61. -/
def State.asaTableOf (s : State) (bank : Nat) : Option Nat :=
  let held := (List.range 16).filter (fun t => (s.asaTab t).holds (16384 * bank))
  (held.find? (s.asaWidthFits bank)).or held.head?

/-- The table and index that a record of a row names; free where no table holds its bank. -/
def State.asaRowOf (s : State) (bank row : Nat) : Nat × Nat :=
  match s.asaTableOf bank with
  | some t => (t, (s.asaTab t).index (16384 * bank + row))
  | none => Config.unheldRow bank row

/-- The place of the entry that a row belongs to; the row's own where no table holds its bank. -/
def State.asaPlace (s : State) (bank row : Nat) : Nat :=
  match s.asaTableOf bank with
  | some t => (s.asaTab t).key ((s.asaTab t).index (16384 * bank + row))
  | none => 16384 * bank + row

/-- The entry of a row whose shadow is lost becomes a hole until it is written again; a bank that no table holds has no
entries (R195). -/
def asaHole (bank row : Nat) (s : State) : State :=
  let k := s.asaPlace bank row
  let s := match s.asaTableOf bank with
    | some t =>
      let a := s.asaTab t
      let x := a.index (16384 * bank + row)
      asaPutRow a x (asaClear a (s.asaGet a x)) s
    | none => s
  { s with asa := { s.asa with lost := s.asa.lost ++ [k] } }

/-- A row is due for its visit: SCRUB_PERIOD_MS has passed since the last one, or there was none (R196). -/
def State.asaScrubDue (s : State) (bank row : Nat) : Bool :=
  ((smapFind (16384 * bank + row) s.asa.scrubbed).map (fun t =>
    decide (t + msT (s.fld R.asaScrubCfg F.asaScrubCfgScrubPeriodMs) ≤ s.now))).getD true

/-- The scrubber has visited a row. -/
def asaVisited (bank row : Nat) (s : State) : State :=
  { s with asa := { s.asa with scrubbed := smapInsert (16384 * bank + row) s.now s.asa.scrubbed } }

/-- The scrubber visits a row: it repairs a row from its shadow, corrects the shadow, or turns an entry whose shadow is
lost into a hole. -/
def asaScrub (bank row : Nat) (find : AsaFind) (s : State) : State :=
  if s.flag R.asaScrubCfg F.asaScrubCfgScrubEn && s.asaScrubDue bank row then
    let r := s.asaRowOf bank row
    let s := asaVisited bank row s
    match find with
    | .clean => s
    | .mismatch => report .f 0x08 r.1 .c 0x001 [] (s.inc (R.asaDevCtr 0))
    | .shadowCorr => report .f 0x08 r.1 .c 0x002 [] (s.inc (R.asaDevCtr 1))
    | .shadowUncorr =>
      if s.asa.lost.contains (s.asaPlace bank row) then s
      else report .f 0x08 r.1 .k 0x003 [(r.1, 1), (r.2, 4)] ((asaHole bank row s).inc (R.asaDevCtr 2))
  else s

def execAsaScrubVisit (bank row : Nat) (find : AsaFind) (s : State) : Res :=
  guardWf (bank < 16 && row < 16384) (asaScrub bank row find s)

end Sys2Proof.Machine
end

