-- ==== Sys2Proof/Machine/Ppm.lean ====
section
/-! DEFINITION. The payload pattern matcher: entries, scans, commands, errors (R124 to R132). -/

namespace Sys2Proof.Machine

/-! ### Entries (R128) -/

def ppmLen (e : Bytes) : Nat := byteAt 0 e
def ppmClass (e : Bytes) : Nat := byteAt 1 e
def ppmValid (e : Bytes) : Bool := nbit (byteAt 2 e) 0
def ppmFold (e : Bytes) : Bool := nbit (byteAt 2 e) 1
def ppmOffMin (e : Bytes) : Nat := leAt 4 2 e
def ppmOffMax (e : Bytes) : Nat := leAt 6 2 e
def ppmWild (e : Bytes) : Nat := leAt 8 8 e
def ppmByte (e : Bytes) (j : Nat) : Nat := byteAt (0x40 + j) e

/-- An entry that a WRITE may store (R128, R129). -/
def ppmOk (e : Bytes) : Bool :=
  1 ≤ ppmLen e && ppmLen e ≤ 64 && ppmClass e ≤ 31 && byteAt 2 e < 4 && byteAt 3 e == 0 &&
    ppmOffMin e ≤ 1023 && ppmOffMin e ≤ ppmOffMax e && ppmOffMax e ≤ 1023 && allZero (slice 0x10 48 e) &&
    allZero (slice (0x40 + ppmLen e) (64 - ppmLen e) e) && ppmOffMax e + ppmLen e ≤ 1024

def State.pattern (s : State) (i : Nat) : Bytes := smapGet (fun _ => zeros 128) i s.ppm.store

/-- Store an entry; it matches again (R131). -/
def setPattern (i : Nat) (e : Bytes) (s : State) : State :=
  { s with ppm := { store := smapPut (fun _ => zeros 128) i e s.ppm.store, bad := s.ppm.bad.filter (· != i) } }

/-- Entry `i` takes part in no scan, those that run among them, until it is written again (R131). -/
def ppmLose (i : Nat) (s : State) : State :=
  { s with ppm := { s.ppm with bad := s.ppm.bad ++ [i] },
           pkts := s.pkts.map (fun e => (e.1, { e.2 with scan := e.2.scan.map (fun c => { c with pats := smapErase i c.pats }) })) }

/-- An error in the pattern store (R131). DESIGN CHOICE: the instance of its record has 10 bits (R397) and a pattern number up to
12 (R398), so the record names the pattern modulo 1,024; log 161. -/
def ppmError (i : Nat) (ecc : Ecc) (s : State) : State :=
  match ecc with
  | .ok | .badCheck => s
  | .corr => report .f 0x06 i .c 0x001 [] (s.inc R.ppmEccCorr)
  | .uncorr =>
    if s.ppm.bad.contains i then s
    else report .f 0x06 i .k 0x002 [] ((ppmLose i s).inc R.ppmEccUncorr)

/-! ### Scans (R124 to R127) -/

/-- A byte with its case folded. -/
def foldCase (b : Nat) : Nat := if 0x41 ≤ b ∧ b ≤ 0x5A then b + 0x20 else b

/-- A pattern matches a payload at an offset (R124). -/
def ppmMatchAt (e payload : Bytes) (o : Nat) : Bool :=
  ppmOffMin e ≤ o && o ≤ ppmOffMax e && o + ppmLen e ≤ payload.length &&
  (List.range (ppmLen e)).all (fun j =>
    nbit (ppmWild e) j ||
      (if ppmFold e then foldCase (byteAt (o + j) payload) == foldCase (ppmByte e j)
       else byteAt (o + j) payload == ppmByte e j))

/-- A match: end offset, pattern, class, start. -/
structure PpmHit where
  endOff : Nat
  id     : Nat
  cls    : Nat
  off    : Nat
  deriving DecidableEq, Repr

/-- All matches of a store in a payload (R124). -/
def ppmHits (store : SMap Bytes) (payload : Bytes) : List PpmHit :=
  store.flatMap (fun e =>
    if ppmValid e.2 then
      ((List.range payload.length).filter (ppmMatchAt e.2 payload)).map
        (fun o => { endOff := o + ppmLen e.2, id := e.1, cls := ppmClass e.2, off := o })
    else [])

/-- The first match: the lowest end, then the lowest identifier (R125). -/
def ppmFirst : List PpmHit → Option PpmHit
  | [] => none
  | h :: t =>
    match ppmFirst t with
    | none => some h
    | some b => if b.endOff < h.endOff ∨ (b.endOff = h.endOff ∧ b.id < h.id) then some b else some h

/-- The bytes of the frame that a scan has been given: as received, whatever edits its packet has had since. -/
def Scan.frame (c : Scan) (bytes : Bytes) : Bytes :=
  (c.head ++ bytes.drop c.base).take (c.head.length + bytes.length - c.base)

/-- A frame received so far, as the scan of packet `p` sees it. -/
def scanFrame (p : Packet) : Bytes := ((p.scan.map (·.frame p.bytes)).getD p.bytes)

/-- Where a scan ends in a frame (R124): at EFF_END or after 1,024 payload bytes. -/
def scanEndOff (p : Packet) : Nat :=
  let last := leAt 4 2 p.pr + 1024
  (p.effEnd.map (min last)).getD last

/-- The payload that a scan covers, as far as it has been received (R124). -/
def scanPayload (p : Packet) : Bytes := ((scanFrame p).take (scanEndOff p)).drop (leAt 4 2 p.pr)

/-- The byte at the scan end has been received, or the tail of the frame (R126). -/
def scanDue (p : Packet) : Bool := p.tailIn || scanEndOff p ≤ (scanFrame p).length

/-- An edit gives a packet new bytes; a running scan keeps those that it was given. -/
def editBytes (p : Packet) (bytes : Bytes) : Packet :=
  { p with bytes := bytes,
           scan := p.scan.map (fun c => { c with head := c.frame p.bytes, base := bytes.length }) }

/-- The parse result with flags set and the matcher fields written (R120, R125). -/
def ppmResult (flags map id off : Nat) (pr : Bytes) : Bytes :=
  patch 0x10 (toLe 4 map ++ toLe 2 id ++ toLe 2 off) (patch 0 (toLe 2 (prFlags pr ||| flags)) pr)

/-- Scans outstanding of a pipeline (R127). -/
def State.scansOf (s : State) (pipe : Nat) : Nat := (s.pkts.filter (fun e => e.2.scan.isSome && e.2.pipe == pipe)).length

/-- A stage requests a scan: it starts on the store as it is now, or is skipped (R127, R130). -/
def scanStart (id : Nat) (p : Packet) (s : State) : State :=
  let clear := fun pr => patch 0 (toLe 2 (prFlags pr &&& (65535 - (pfPpmHit + pfPpmSkipped + pfPpmDone))))
    (patch 0x10 (zeros 8) pr)
  if !s.flag R.ppmCfg F.ppmCfgPpmEn || 256 ≤ s.scansOf p.pipe then
    setPkt id { p with pr := ppmResult (pfPpmSkipped + pfPpmDone) 0 0 0 (clear p.pr), scan := none }
      (s.inc (parserCtr p.pipe 10))
  else
    setPkt id { p with pr := clear p.pr, scan := some ⟨s.ppm.store.filter (fun e => !s.ppm.bad.contains e.1), [], 0⟩ }
      (s.inc (parserCtr p.pipe 9))

/-- A scan ends and writes its results (R125); the errors that it met in the store take their entries out of it (R131). -/
def scanEnd (id : Nat) (errs : List (Nat × Ecc)) (s : State) : State :=
  match s.pkt id with
  | none => s
  | some p =>
    if p.scan.isSome && scanDue p then
      let s := forEach errs (fun e => ppmError e.1 e.2) s
      let hits := ppmHits ((((s.pkt id).bind (·.scan)).map (·.pats)).getD []) (scanPayload p)
      let pr :=
        match ppmFirst hits with
        | none => ppmResult pfPpmDone 0 0 0 p.pr
        | some h => ppmResult (pfPpmDone + pfPpmHit) (hits.foldl (fun m h => m ||| 2 ^ h.cls) 0) h.id h.off p.pr
      setPkt id { p with pr := pr, scan := none } (doIf (!hits.isEmpty) (fun s => s.inc (parserCtr p.pipe 11)) s)
    else s

def execPpmScanEnd (pkt : Nat) (errs : List (Nat × Ecc)) (s : State) : Res :=
  guardWf (errs.all (fun e => e.1 < 4096)) (scanEnd pkt errs s)

/-! ### Commands (R129) -/

/-- The checks of R546 on a matcher command. -/
def ppmChecks (s : State) (p op i : Nat) (e : Bytes) : List (Bool × Nat) :=
  [(1 ≤ op && op ≤ 3, Code.notfound), (i < 4096, Code.notfound), (s.inRange p 5 i 1, Code.denied),
   (op != 1 || ppmOk e, Code.length)]

/-- Perform a matcher command. -/
def ppmPerform (op i : Nat) (e : Bytes) (ecc : Ecc) (s : State) : State :=
  match op with
  | 1 => complete .ppm Code.ok 0 (setPattern i e s)
  | 2 =>
    if ecc == .uncorr || s.ppm.bad.contains i then complete .ppm Code.eccUncorrectable 0 (ppmError i .uncorr s)
    else complete .ppm Code.ok 0 (setData R.ppmData 16 (s.pattern i) (ppmError i ecc s))
  | _ =>
    let e := s.pattern i
    let bad := s.ppm.bad
    let s := setPattern i (patch 2 (toLe 1 (byteAt 2 e / 2 * 2)) e) s
    complete .ppm Code.ok 0 { s with ppm := { s.ppm with bad := bad } }

/-- A write to PPM_CMD that the map let through. -/
def ppmCommand (fn : Fn) (p : Nat) (w : Word) (ecc : Ecc) (s : State) : State :=
  let op := getF w F.ppmCmdOpcode
  let i := getF w F.ppmCmdIndex
  issue .ppm op p (fun s =>
    let e := s.dataBytes R.ppmData 16
    runChecks .ppm fn (ppmChecks s p op i e) (ppmPerform op i e ecc) s) s

def ppmIssue (fn : Fn) (op i : Nat) (ecc : Ecc) (s : State) : State :=
  access fn R.ppmCmd 1 (fun p _ _ s =>
    ppmCommand fn p (setF (setF 0 F.ppmCmdOpcode op) F.ppmCmdIndex i) ecc s) s

def execPpmWrite (fn : Fn) (index : Nat) (s : State) : Res :=
  guardWf (fnOk fn && index < 4096) (ppmIssue fn 1 index .ok s)
def execPpmRead (fn : Fn) (index : Nat) (ecc : Ecc) (s : State) : Res :=
  guardWf (fnOk fn && index < 4096) (ppmIssue fn 2 index ecc s)
def execPpmInvalidate (fn : Fn) (index : Nat) (s : State) : Res :=
  guardWf (fnOk fn && index < 4096) (ppmIssue fn 3 index .ok s)

end Sys2Proof.Machine
end

