-- ==== Sys2Proof/Machine/Services.lean ====
section
/-! DEFINITION. Session contexts and queued actions of the burin engines, and what the vendor region's code for each
built-in service does at an event (R355 to R360): its behaviour by R356, over the fields of R360. What R356 leaves to the
standards that it names, and to the code, is free (log 165). -/

namespace Sys2Proof.Machine

/-! ### Session contexts (R359) -/

def State.ctxOf (s : State) (n : Nat) : Bytes := smapGet (fun _ => zeros 256) n s.burin.ctx

def setCtx (n : Nat) (b : Bytes) (s : State) : State :=
  { s with burin := { s.burin with ctx := smapPut (fun _ => zeros 256) n b s.burin.ctx } }

def ctxService (c : Bytes) : Nat := byteAt 0 c
def ctxFaulted (c : Bytes) : Bool := nbit (byteAt 1 c) 0
def ctxOwner (c : Bytes) : Nat := byteAt 2 c
def ctxTimerOp (c : Bytes) (t : Nat) : Nat := byteAt (3 + t) c
def ctxDue (c : Bytes) (t : Nat) : Nat := beAt (8 + 8 * t) 8 c
def setDue (t v : Nat) (c : Bytes) : Bytes := patch (8 + 8 * t) (toBe 8 (v % 2 ^ 64)) c

/-- The session of service 7, the PTP servo (R361). -/
def State.servoSession (s : State) : Option Nat := (s.burin.ctx.find? (fun e => ctxService e.2 == 7)).map (·.1)

/-- TIME_NS and TIME_US (R353). -/
def State.timeNs (s : State) : Nat := s.now / 10 % 2 ^ 64
def State.timeUs (s : State) : Nat := s.timeNs / 1000

/-- A queued action (R355). -/
inductive BurinAct where
  | tx (b : Bytes)
  | timer (t due : Nat)
  | notify (code : Nat) (data : Bytes)
  | tbAdj (arg : Nat) (res : Word)
  | sha1 (arg : Nat) (res : Word)
  deriving DecidableEq, Repr

/-- The event descriptor (R357). -/
def evtBytes (e : BurinEv) : Bytes :=
  toBe 1 e.op ++ toBe 1 e.src ++ toBe 2 e.sess ++ toBe 1 e.port ++ toBe 1 e.part ++ toBe 2 e.len ++ toBe 2 e.payOff ++
    zeros 6 ++ toBe 10 e.stamp ++ zeros 6 ++ slice 0 32 e.arg

/-! ### The fields of R360 -/

/-- A field of a context, as offset and size: its value, the context with another value in it, and with `n` more. -/
def cget (f : Nat × Nat) (c : Bytes) : Nat := beAt f.1 f.2 c
def cput (f : Nat × Nat) (v : Nat) (c : Bytes) : Bytes := patch f.1 (toBe f.2 (v % 2 ^ (8 * f.2))) c
def cadd (f : Nat × Nat) (n : Nat) (c : Bytes) : Bytes := cput f (cget f c + n) c

namespace Svc

def bfdYourDisc : Nat × Nat := (0x24, 4)
def bfdState : Nat × Nat := (0x28, 1)
def bfdRemoteState : Nat × Nat := (0x29, 1)
def bfdDiag : Nat × Nat := (0x2A, 1)
def bfdMult : Nat × Nat := (0x2B, 1)
def bfdMode : Nat × Nat := (0x2C, 1)
def bfdMinTx : Nat × Nat := (0x30, 4)
def bfdMinRx : Nat × Nat := (0x34, 4)
def bfdRemoteMinRx : Nat × Nat := (0x3C, 4)
def bfdXmitSeq : Nat × Nat := (0x40, 4)
def bfdRcvSeq : Nat × Nat := (0x44, 4)
def bfdRx : Nat × Nat := (0xC8, 8)
def bfdTx : Nat × Nat := (0xD0, 8)
def bfdChanges : Nat × Nat := (0xD8, 4)

def cfmMep : Nat × Nat := (0x20, 2)
def cfmLevel : Nat × Nat := (0x22, 1)
def cfmInterval : Nat × Nat := (0x23, 1)
def cfmRmep : Nat × Nat := (0x54, 2)
def cfmRmepState : Nat × Nat := (0x56, 1)
def cfmDefects : Nat × Nat := (0x57, 1)
def cfmTxSeq : Nat × Nat := (0x58, 4)
def cfmRxSeq : Nat × Nat := (0x5C, 4)
def cfmRx : Nat × Nat := (0xC8, 8)
def cfmTx : Nat × Nat := (0xD0, 8)
def cfmSeqErr : Nat × Nat := (0xD8, 8)

def periodUs : Nat × Nat := (0x24, 4)
def dmLast : Nat × Nat := (0x28, 8)
def dmMin : Nat × Nat := (0x30, 8)
def dmMax : Nat × Nat := (0x38, 8)
def dmSum : Nat × Nat := (0x40, 8)
def dmSamples : Nat × Nat := (0x48, 4)
def dmLost : Nat × Nat := (0x4C, 4)

def lmPort : Nat × Nat := (0x23, 1)
def lmPrev (i : Nat) : Nat × Nat := (0x28 + 8 * i, 8)
def lmNear : Nat × Nat := (0x48, 8)
def lmFar : Nat × Nat := (0x50, 8)

def arpAf : Nat × Nat := (0x30, 1)
def arpRequests : Nat × Nat := (0x40, 8)
def arpReplies : Nat × Nat := (0x48, 8)

def ipfixLen : Nat × Nat := (0x26, 2)
def ipfixMs : Nat × Nat := (0x28, 4)
def ipfixSeq : Nat × Nat := (0x2C, 4)
def ipfixRecords : Nat × Nat := (0x30, 8)
def ipfixHeld : Nat × Nat := (0x38, 1)

def servoOffset : Nat × Nat := (0x20, 8)
def servoFreq : Nat × Nat := (0x28, 8)
def servoKp : Nat × Nat := (0x30, 4)
def servoKi : Nat × Nat := (0x34, 4)
def servoIntegral : Nat × Nat := (0x38, 8)
def servoState : Nat × Nat := (0x40, 1)
def servoStep : Nat × Nat := (0x44, 4)
def servoLock : Nat × Nat := (0x48, 4)
def servoSamples : Nat × Nat := (0x50, 8)

end Svc

/-! ### What the services have in common -/

/-- How the code of a service ends an event: the context it writes back with the actions it queues, or nothing at all. -/
inductive SvcEnd where
  | commit (ctx : Bytes) (acts : List BurinAct)
  | ignore
  deriving DecidableEq, Repr

/-- The service's PDU in a packet event. -/
def svcIn (ev : BurinEv) : Bytes := ev.frame.drop ev.payOff

/-- A packet of a service: TMPL_LEN bytes of its template (R360), then what it sends, in the sizes of R355. -/
def svcTx (ev : BurinEv) (c : Bytes) : BurinAct :=
  let tmpl := if ctxService c = 6 then slice 0 (byteAt 0x39 c) (slice 0x40 96 c) else slice 0 (byteAt 0xC0 c) (slice 0x60 96 c)
  let b := (tmpl ++ Config.svcPdu ev.op c (evtBytes ev) ev.frame).take 544
  .tx (b ++ zeros (96 - b.length))

/-- A notification of a service. -/
def svcNotify (ev : BurinEv) (c : Bytes) : BurinAct :=
  let n := Config.svcNote ev.op c (evtBytes ev)
  .notify (n.1 % 256) (slice 0 12 n.2)

/-- An action where a condition holds. -/
def actIf (c : Bool) (a : BurinAct) : List BurinAct := if c then [a] else []

/-! ### BFD: the state machines of RFC 5880 -/

/-- The next STATE of a session in state `own` that receives `got`; 0 AdminDown, 1 Down, 2 Init, 3 Up. -/
def bfdNext (own got : Nat) : Nat :=
  if got = 0 then 1
  else if own = 1 then (if got = 1 then 2 else if got = 2 then 3 else 1)
  else if own = 2 then (if got = 1 then 2 else 3)
  else if got = 1 then 1 else 3

/-- A session whose STATE becomes `st`: each change is counted. -/
def bfdTo (st : Nat) (c : Bytes) : Bytes :=
  if cget Svc.bfdState c = st then c else cadd Svc.bfdChanges 1 (cput Svc.bfdState st c)

/-- The negotiated transmit interval in µs: at least 1 s unless Up. -/
def bfdInterval (c : Bytes) : Nat :=
  let own := cget Svc.bfdMinTx c
  max (if cget Svc.bfdState c = 3 then own else max own 1000000) (cget Svc.bfdRemoteMinRx c)

/-- The interval jittered to 75 to 100 %, to at most 90 % where DETECT_MULT is 1. -/
def bfdJitter (rnd : Nat) (c : Bytes) : Nat :=
  let i := bfdInterval c
  let top := if cget Svc.bfdMult c = 1 then 15 else 25
  i * 75 / 100 + (Config.burinRand rnd).toNat % (i * top / 100 + 1)

def bfdReceive (ev : BurinEv) (us : Nat) (c : Bytes) : SvcEnd :=
  match Config.bfdRead c (svcIn ev) with
  | none => .ignore
  | some k =>
    let own := cget Svc.bfdState c
    if own = 0 then .ignore
    else
      let st := bfdNext own k.state
      let d := cadd Svc.bfdRx 1 (cput Svc.bfdRemoteMinRx k.minRx (cput Svc.bfdRemoteState k.state (cput Svc.bfdYourDisc k.disc c)))
      let d := match k.seq with
        | some n => cput Svc.bfdRcvSeq n d
        | none => d
      let d := bfdTo st (if st = 1 && own != 1 then cput Svc.bfdDiag 3 d else d)
      .commit d (.timer 1 (us + k.mult * max (cget Svc.bfdMinRx d) k.minTx) :: actIf k.poll (svcTx ev d) ++
        actIf (st != own) (svcNotify ev d))

/-- A packet at each interval, none while the peer asks for none. -/
def bfdTransmit (ev : BurinEv) (us rnd : Nat) (c : Bytes) : SvcEnd :=
  let sends := cget Svc.bfdRemoteMinRx c != 0
  let d := if !sends then c
    else cadd Svc.bfdTx 1 (if cget Svc.bfdMode c / 4 % 4 = 2 then cadd Svc.bfdXmitSeq 1 c else c)
  .commit d (actIf sends (svcTx ev d) ++ [.timer 0 (us + bfdJitter rnd c)])

/-- The detection time has passed without a packet. -/
def bfdDetect (ev : BurinEv) (c : Bytes) : SvcEnd :=
  if cget Svc.bfdState c ≤ 1 then .ignore
  else
    let d := bfdTo 1 (cput Svc.bfdDiag 1 (cput Svc.bfdYourDisc 0 c))
    .commit d [svcNotify ev d]

/-! ### CFM -/

/-- The CCM interval of a code, in sixths of a microsecond: 3⅓ ms, 10 ms, 100 ms, 1 s, 10 s, 1 min, 10 min. -/
def ccmInterval (code : Nat) : Nat := [0, 20000, 60000, 600000, 6000000, 60000000, 360000000, 3600000000].getD code 0

/-- 3.5 intervals in µs, rounded up. -/
def ccmDetect (code : Nat) : Nat := ceilDiv (7 * ccmInterval code) 12

/-- DEFECTS with one bit set to a value. -/
def defect (bit : Nat) (v : Bool) (n : Nat) : Nat := if v then n ||| 2 ^ bit else n - (n &&& 2 ^ bit)

/-- A CCM: one of another level or MAID is a cross-connect, one of another MEP or interval an error, any other is the
remote MEP's. -/
def ccmReceive (ev : BurinEv) (us : Nat) (c : Bytes) : SvcEnd :=
  match Config.ccmRead (svcIn ev) with
  | none => .ignore
  | some k =>
    let was := cget Svc.cfmDefects c
    let code := cget Svc.cfmInterval c
    let told := fun (d : Bytes) (l : List BurinAct) => SvcEnd.commit d (l ++ actIf (cget Svc.cfmDefects d != was) (svcNotify ev d))
    if cget Svc.cfmLevel c < k.level then .ignore
    else if k.level < cget Svc.cfmLevel c || k.maid != slice 0x24 48 c then told (cput Svc.cfmDefects (defect 4 true was) c) []
    else if k.mep != cget Svc.cfmRmep c || k.code != code then told (cput Svc.cfmDefects (defect 3 true was) c) []
    else
      let last := cget Svc.cfmRxSeq c
      let d := if last != 0 && k.seq != (last + 1) % 2 ^ 32 then cadd Svc.cfmSeqErr 1 c else c
      let d := cput Svc.cfmRmepState 2 (cadd Svc.cfmRx 1 (cput Svc.cfmRxSeq k.seq d))
      told (cput Svc.cfmDefects (defect 2 false (defect 1 k.macBad (defect 0 k.rdi was))) d) [.timer 1 (us + ccmDetect code)]

def ccmTransmit (ev : BurinEv) (us : Nat) (c : Bytes) : SvcEnd :=
  let d := cadd Svc.cfmTx 1 (cadd Svc.cfmTxSeq 1 c)
  .commit d [svcTx ev d, .timer 0 (us + ccmInterval (cget Svc.cfmInterval c) / 6)]

/-- The remote MEP has failed. -/
def ccmFail (ev : BurinEv) (c : Bytes) : SvcEnd :=
  let was := cget Svc.cfmDefects c
  let d := cput Svc.cfmRmepState 3 (cput Svc.cfmDefects (defect 2 true was) c)
  .commit d (actIf (!nbit was 2) (svcNotify ev d))

/-! ### Y.1731 delay and loss measurement -/

/-- A stamp in ns. -/
def stampNs (t : Nat) : Nat := t / 2 ^ 32 * 1000000000 + t % 2 ^ 32

/-- A DMR: the two-way delay less the time the peer held it. -/
def dmReceive (ev : BurinEv) (c : Bytes) : SvcEnd :=
  match Config.dmrRead (svcIn ev) with
  | none => .ignore
  | some (t1, t2, t3) =>
    let d := (stampNs ev.stamp + t2) - (t1 + t3)
    let first := cget Svc.dmSamples c == 0
    .commit (cadd Svc.dmSamples 1 (cadd Svc.dmSum d (cput Svc.dmMax (if first then d else max d (cget Svc.dmMax c))
      (cput Svc.dmMin (if first then d else min d (cget Svc.dmMin c)) (cput Svc.dmLast d c))))) []

/-- The results start again, or are carried on. -/
def svcRestart (fields : List (Nat × Nat)) (c : Bytes) : Bytes :=
  if Config.svcFresh then fields.foldl (fun c f => cput f 0 c) c else c

/-- A DMM at each period, and the totals of the period before. -/
def dmTransmit (ev : BurinEv) (us rnd : Nat) (c : Bytes) : SvcEnd :=
  let d := if Config.dmMissed rnd then cadd Svc.dmLost 1 c else c
  .commit (svcRestart [Svc.dmMin, Svc.dmMax, Svc.dmSum, Svc.dmSamples, Svc.dmLost] d)
    [svcNotify ev d, svcTx ev d, .timer 0 (us + cget Svc.periodUs c)]

/-- What a 32-bit count has advanced. -/
def countStep (now before : Nat) : Nat := (2 ^ 32 + now % 2 ^ 32 - before % 2 ^ 32) % 2 ^ 32

/-- An LMR: the losses of either direction since the one before it; the first gives none. -/
def lmReceive (s : State) (ev : BurinEv) (c : Bytes) : SvcEnd :=
  match Config.lmrRead (svcIn ev) with
  | none => .ignore
  | some (txf, rxf, txb) =>
    let rxl := (s.rd (R.lineCtr (cget Svc.lmPort c) 0)).toNat
    let p := fun i => cget (Svc.lmPrev i) c
    let far := countStep txf (p 0) - countStep rxf (p 1)
    let near := countStep txb (p 2) - countStep rxl (p 3)
    let d := if slice 0x28 32 c == zeros 32 then c else cadd Svc.lmFar far (cadd Svc.lmNear near c)
    .commit (cput (Svc.lmPrev 0) txf (cput (Svc.lmPrev 1) rxf (cput (Svc.lmPrev 2) txb (cput (Svc.lmPrev 3) rxl d)))) []

/-- An LMM at each period, and the totals of the period before. -/
def lmTransmit (ev : BurinEv) (us : Nat) (c : Bytes) : SvcEnd :=
  .commit (svcRestart [Svc.lmNear, Svc.lmFar] c) [svcNotify ev c, svcTx ev c, .timer 0 (us + cget Svc.periodUs c)]

/-! ### ARP and ND, IPFIX, the PTP servo -/

/-- A request for the session's address is answered, every other one ignored. -/
def arpReceive (ev : BurinEv) (c : Bytes) : SvcEnd :=
  let af := if ev.op = 6 then 4 else 6
  let n := if ev.op = 6 then 4 else 16
  if (Config.arpAsks (svcIn ev)).map (slice 0 n) == some (slice 0x20 n c) && cget Svc.arpAf c == af then
    let d := cadd Svc.arpReplies 1 (cadd Svc.arpRequests 1 c)
    .commit d [svcTx ev d]
  else .ignore

/-- The records held are sent: SEQ counts them. -/
def ipfixSend (ev : BurinEv) (c : Bytes) (l : List BurinAct) : SvcEnd :=
  .commit (cput Svc.ipfixHeld 0 (cadd Svc.ipfixSeq (cget Svc.ipfixHeld c) c)) (svcTx ev c :: l)

/-- A sampled packet: one more record; a full area is sent. -/
def ipfixSample (ev : BurinEv) (c : Bytes) : SvcEnd :=
  let n := cget Svc.ipfixLen c
  let held := cget Svc.ipfixHeld c
  if n = 0 || 96 < (held + 1) * n then .ignore
  else
    let d := cput Svc.ipfixHeld (held + 1) (cadd Svc.ipfixRecords 1
      (patch (0xA0 + held * n) (slice 0 n (Config.svcRecord (evtBytes ev) ev.frame)) c))
    if 96 < (held + 2) * n then ipfixSend ev d [] else .commit d []

/-- The export interval. -/
def ipfixExport (ev : BurinEv) (us : Nat) (c : Bytes) : SvcEnd :=
  let again := [BurinAct.timer 0 (us + 1000 * cget Svc.ipfixMs c)]
  if cget Svc.ipfixHeld c = 0 then .commit c again else ipfixSend ev c again

/-- An offset sample: one over STEP_THRESH_NS steps the phase once, any other moves the frequency. -/
def servoSample (ev : BurinEv) (c : Bytes) : SvcEnd :=
  let o := Config.servoSample ev.arg
  let d := cadd Svc.servoSamples 1 (cput Svc.servoOffset o.toNat c)
  if cget Svc.servoStep c < o.toInt.natAbs && cget Svc.servoState c != 1 then
    .commit (cput Svc.servoState 1 d) [.tbAdj 1 (-o)]
  else
    let r := Config.servoLaw (cget Svc.servoKp c) (cget Svc.servoKi c) o (BitVec.ofNat 64 (cget Svc.servoIntegral c))
      (BitVec.ofNat 64 (cget Svc.servoFreq c))
    let locked := decide (o.toInt.natAbs ≤ cget Svc.servoLock c)
    .commit (cput Svc.servoState (if locked then 2 else if cget Svc.servoState c = 2 then 0 else cget Svc.servoState c) (cput Svc.servoIntegral r.1.toNat (cput Svc.servoFreq r.2.toNat d)))
      [.tbAdj 0 r.2]

/-! ### The events of R356 -/

/-- What the code of a built-in service does at an event of R356 that its session is for, from the source that the rule
gives it; nothing is said of the other events. `rnd` numbers the draws. -/
def svcRun (s : State) (ev : BurinEv) (rnd : Nat) (c : Bytes) : Option SvcEnd :=
  let us := s.timeUs
  match ev.src, ev.op, ctxService c with
  | 0, 0x01, 1 => some (bfdReceive ev us c)
  | 0, 0x03, 2 => some (ccmReceive ev us c)
  | 0, 0x04, 3 => some (dmReceive ev c)
  | 0, 0x05, 4 => some (lmReceive s ev c)
  | 0, 0x06, 5 | 0, 0x07, 5 => some (arpReceive ev c)
  | 0, 0x08, 6 => some (ipfixSample ev c)
  | 1, 0x20, 1 => some (bfdTransmit ev us rnd c)
  | 1, 0x20, 2 => some (ccmTransmit ev us c)
  | 1, 0x20, 3 => some (dmTransmit ev us rnd c)
  | 1, 0x20, 4 => some (lmTransmit ev us c)
  | 2, 0x21, 1 => some (bfdDetect ev c)
  | 2, 0x21, 2 => some (ccmFail ev c)
  | 1, 0x22, 6 => some (ipfixExport ev us c)
  | 3, 0x44, 7 => some (servoSample ev c)
  | _, _, _ => none

end Sys2Proof.Machine
end

