-- ==== Sys2Proof/Machine/Burin.lean ====
section
/-! DEFINITION. The burin service engines: events and the dispatcher, the microcode engine, timers, notifications,
commands, the customer region (R342 to R369). -/

namespace Sys2Proof.Machine

/-! ### The dispatcher (R344, R345) -/

/-- The dispatcher has room for an event of a session. -/
def State.burinRoom (s : State) (sess : Nat) : Bool :=
  s.burin.queue.length < 8192 && (s.burin.queue.filter (fun e => e.sess == sess)).length < 8

/-- Queue an event. -/
def burinPush (e : BurinEv) (s : State) : State := { s with burin := { s.burin with queue := s.burin.queue ++ [e] } }

/-- The events of a region are held while its switch waits (R367, R452). -/
def State.opHeld (s : State) (op : Nat) : Bool :=
  if 0xC0 ≤ op then s.burin.load.isSome else s.burin.vload.isSome

/-- A session has a running event. -/
def State.sessRuns (s : State) (sess : Nat) : Bool := s.burin.run.any (fun e => e.2.sess == sess)

/-- A packet event: the first 512 bytes of the frame, its stamp, its parse result and metadata bytes 16 to 31 (R343,
R357). -/
def packetEvent (op sess : Nat) (p : Packet) : BurinEv :=
  { op := op, src := 0, sess := sess, part := 0, port := p.port, len := p.bytes.length, payOff := leAt 4 2 p.pr,
    stamp := stampOf p.stamp, arg := slice 16 16 p.md ++ zeros 16, frame := p.bytes.take 512 }

/-- A packet event reaches the dispatcher: queued, or discarded and counted (R345). -/
def burinPacket (op sess : Nat) (p : Packet) (s : State) : State :=
  if s.burinRoom sess then burinPush (packetEvent op sess p) s else s.inc (R.burinCtr 2)

/-- An event with no packet. -/
def plainEvent (op src sess part stamp : Nat) (arg : Bytes) : BurinEv :=
  { op := op, src := src, sess := sess, part := part, port := 0, len := 0, payOff := 0, stamp := stamp, arg := arg,
    frame := [] }

/-! ### The control store (R349, R350) -/

def State.microWord (s : State) (a : Nat) : Nat :=
  if a < 0xC000 then s.burin.vendor.micro.getD a s.burin.vendor.fill
  else s.burin.cust.micro.getD (a - 0xC000) s.burin.cust.fill

def State.nanoWord (s : State) (a : Nat) : Nat :=
  if a < 0x1800 then s.burin.vendor.nano.getD a 0 else s.burin.cust.nano.getD (a - 0x1800) 0

def State.dispWord (s : State) (op : Nat) : Nat :=
  if op < 0xC0 then s.burin.vendor.disp.getD op 0 else s.burin.cust.disp.getD (op - 0xC0) 0

/-- The name of a store word in the list of bad words. -/
def microKey (a : Nat) : Nat := a
def nanoKey (a : Nat) : Nat := 65536 + a
def dispKey (op : Nat) : Nat := 131072 + op

/-- Errors met in the control store (R368): a corrected word is counted and recorded, an uncorrectable one once. -/
def storeError (engine key : Nat) (ecc : Ecc) (s : State) : State :=
  match ecc with
  | .ok | .badCheck => s
  | .corr => report .f 0x09 engine .c 0x002 [] (s.inc (R.burinCtr 10))
  | .uncorr =>
    if s.burin.bad.contains key then s
    else report .f 0x09 engine .k 0x003 []
      ({ s with burin := { s.burin with bad := s.burin.bad ++ [key] } }.inc (R.burinCtr 11))

/-! ### The engine (R346, R351 to R355) -/

/-- An engine in the middle of an event. `rnd` numbers the random words drawn, `steps` the micro-words executed. -/
structure Eng where
  pc    : Nat
  g     : List Word
  z     : Bool
  n     : Bool
  c     : Bool
  stack : List Nat
  ctx   : Bytes
  txb   : Bytes
  acts  : List BurinAct
  rnd   : Nat
  steps : Nat
  deriving DecidableEq, Repr

/-- How an event ends (R346, R347). -/
inductive EngEnd where
  | done | abandon | fault (cause : Nat)
  deriving DecidableEq, Repr

/-- The fields of a nano-word (R352). -/
structure Nano where
  w : Nat
  deriving DecidableEq, Repr

def Nano.f (x : Nano) (hi lo : Nat) : Nat := nbits x.w hi lo
def Nano.memIdx (x : Nano) : Bool := x.f 248 248 == 1
def Nano.alu (x : Nano) : Nat := x.f 247 240
def Nano.memOp (x : Nano) : Nat := x.f 223 221
def Nano.memSize (x : Nano) : Nat := 2 ^ x.f 220 219
def Nano.cond (x : Nano) : Nat := x.f 207 203
def Nano.action (x : Nano) : Nat := x.f 202 198
def Nano.actArg (x : Nano) : Nat := x.f 197 192

/-- The bytes of a memory that the engine reads, and its length (R354). -/
def engMem (e : Eng) (ev : BurinEv) (op : Nat) : Bytes :=
  match op with
  | 1 | 2 => slice 0 256 e.ctx
  | 3 => slice 0 512 ev.frame
  | 4 | 5 => slice 0 544 e.txb
  | 6 => evtBytes ev
  | _ => []

def memReads (op : Nat) : Bool := op == 1 || op == 3 || op == 4 || op == 6
def memWrites (op : Nat) : Bool := op == 2 || op == 5

/-- Whether an access faults, and with which cause. -/
def memFault (e : Eng) (ev : BurinEv) (op a size : Nat) : Option Nat :=
  if op = 0 then none
  else if (engMem e ev op).length < a + size then some 0x04
  else if op = 2 ∧ a < 0x20 then some 0x05
  else none

/-- A source operand (R353). -/
def engSrc (s : State) (e : Eng) (imm : Nat) (const memdata : Word) (sel : Nat) : Word :=
  if sel < 16 then e.g.getD sel 0
  else match sel with
    | 16 => BitVec.ofNat 64 imm
    | 17 => const
    | 18 => memdata
    | 19 => BitVec.ofNat 64 s.timeNs
    | 20 => BitVec.ofNat 64 s.timeUs
    | 21 => (Config.burinRand e.rnd).setWidth 64
    | _ => 0

/-- A word with its 8 bytes reversed. -/
def bswap (a : Word) : Word := BitVec.ofNat 64 (leNat (toBe 8 a.toNat))

/-- The result and carry of an ALU operation (R353). -/
def aluOp (op : Nat) (a b : Word) : Word × Bool :=
  match op with
  | 0x01 => (a, false)
  | 0x02 => (a + b, decide (2 ^ 64 ≤ a.toNat + b.toNat))
  | 0x03 => (a - b, decide (a.toNat < b.toNat))
  | 0x04 => (a &&& b, false)
  | 0x05 => (a ||| b, false)
  | 0x06 => (a ^^^ b, false)
  | 0x07 => (a <<< (b.toNat % 64), false)
  | 0x08 => (a >>> (b.toNat % 64), false)
  | 0x09 => (a.sshiftRight (b.toNat % 64), false)
  | 0x0A => (a * b, false)
  | 0x0B => (if a.toNat ≤ b.toNat then a else b, false)
  | 0x0C => (if a.toNat ≤ b.toNat then b else a, false)
  | 0x0D => (a - b, decide (a.toNat < b.toNat))
  | 0x0E => (bswap a, false)
  | _ => (0, false)

/-- Whether a condition holds (R353). -/
def condHolds (e : Eng) (c : Nat) : Bool :=
  match c with
  | 0 => true
  | 1 => e.z
  | 2 => !e.z
  | 3 => e.n
  | 4 => !e.n
  | 5 => e.c
  | 6 => !e.c
  | 7 => e.z || e.n
  | 8 => !e.z && !e.n
  | _ => false

/-- What a step leads to. -/
inductive EngStep where
  | go (e : Eng)
  | stop (e : Eng) (how : EngEnd)
  deriving DecidableEq, Repr

/-- The actions of a kind already queued. -/
def countTx (l : List BurinAct) : Nat := l.countP (fun a => match a with | .tx _ => true | _ => false)
def countNotify (l : List BurinAct) : Nat := l.countP (fun a => match a with | .notify _ _ => true | _ => false)

/-- Queue an action, or the cause of the fault (R347, R355, R358). -/
def queueAction (s : State) (e : Eng) (act arg : Nat) (res : Word) : Eng ⊕ Nat :=
  match act with
  | 1 =>
    let l := res.toNat % 65536
    if 4 ≤ countTx e.acts then .inr 0x06
    else if l < 96 ∨ 544 < l then .inr 0x04
    else .inl { e with acts := e.acts ++ [.tx (slice 0 l e.txb)] }
  | 2 =>
    if res.toNat ≠ 0 ∧ 2 ^ 32 + s.timeUs < res.toNat then .inr 0x04
    else .inl { e with acts := e.acts ++ [.timer (arg % 2) res.toNat] }
  | 3 =>
    if 8 ≤ countNotify e.acts then .inr 0x06
    else .inl { e with acts := e.acts ++ [.notify (res.toNat % 256)
      (toLe 8 (e.g.getD 13 0).toNat ++ toLe 4 (e.g.getD 14 0).toNat)] }
  | 4 => .inl { e with acts := e.acts ++ [.tbAdj (arg % 2) res] }
  | 5 => .inl { e with acts := e.acts ++ [.sha1 arg res] }
  | _ => .inl e

/-- The sequencing of a micro-word (R351). -/
def engSeq (e : Eng) (seq target cond : Nat) : EngStep :=
  let nextPc := (e.pc + 1) % 65536
  match seq with
  | 0 => .go { e with pc := nextPc }
  | 1 => .go { e with pc := target }
  | 2 => .go { e with pc := if condHolds e cond then target else nextPc }
  | 3 => if 4 ≤ e.stack.length then .stop e (.fault 0x03) else .go { e with pc := target, stack := nextPc :: e.stack }
  | 4 =>
    match e.stack with
    | [] => .stop e (.fault 0x03)
    | a :: st => .go { e with pc := a, stack := st }
  | 5 => .stop e .done
  | 6 => .stop e .abandon
  | _ => .stop e (.fault 0x02)

/-- Write a result to a memory, big-endian. -/
def engWrite (e : Eng) (op a size : Nat) (res : Word) : Eng :=
  let b := toBe size res.toNat
  match op with
  | 2 => { e with ctx := patch a b (slice 0 256 e.ctx) }
  | 5 => { e with txb := patch a b (slice 0 544 e.txb) }
  | _ => e

/-- The operation of a nano-word, in the order of R354, up to the sequencing; the cause where it faults. -/
def engOp (s : State) (ev : BurinEv) (x : Nano) (imm : Nat) (e : Eng) : Eng ⊕ Nat :=
  let a := (x.f 218 208 + if x.memIdx then (e.g.getD 15 0).toNat else 0) % 2 ^ 64
  match memFault e ev x.memOp a x.memSize with
  | some c => .inr c
  | none =>
    let memdata := if memReads x.memOp then BitVec.ofNat 64 (beAt a x.memSize (engMem e ev x.memOp))
      else Config.noMemData e.rnd
    let src := engSrc s e imm (BitVec.ofNat 64 (x.f 191 128)) memdata
    let r := aluOp x.alu (src (x.f 239 235)) (src (x.f 234 230))
    let e := { e with rnd := e.rnd + b2n (x.f 239 235 == 21 || x.f 234 230 == 21) }
    let m : Word := if x.f 127 64 = 0 then BitVec.allOnes 64 else BitVec.ofNat 64 (x.f 127 64)
    let dst := x.f 229 226
    let e := if x.f 225 225 == 1 && x.alu != 0x0D
      then { e with g := e.g.set dst ((e.g.getD dst 0 &&& ~~~ m) ||| (r.1 &&& m)) } else e
    let e := if x.f 224 224 == 1 && x.alu != 0 then { e with z := r.1 == 0, n := bitOf r.1 63, c := r.2 } else e
    let e := if memWrites x.memOp && x.alu != 0x0D then engWrite e x.memOp a x.memSize r.1 else e
    queueAction s e x.action x.actArg r.1

/-- One micro-word (R351, R354); `bad` are the store words that cannot be read (R368). -/
def engStep (s : State) (bad : List Nat) (ev : BurinEv) (e : Eng) : EngStep :=
  let w := s.microWord e.pc
  let seq := nbits w 31 29
  let nano := nbits w 28 16
  let field := w % 65536
  if bad.contains (microKey e.pc) || bad.contains (nanoKey nano) then .stop e (.fault 0x07)
  else
    let x : Nano := ⟨s.nanoWord nano⟩
    let imm := if seq = 1 ∨ seq = 2 ∨ seq = 3 then 0 else field
    let e := { e with steps := e.steps + 1 }
    match engOp s ev x imm e with
    | .inr c => .stop e (.fault c)
    | .inl e => engSeq e seq field x.cond

/-- Run an event for at most STEP_LIMIT micro-words (R347). -/
def engRun (s : State) (bad : List Nat) (ev : BurinEv) : Nat → Eng → Eng × EngEnd
  | 0, e => (e, .fault 0x01)
  | n + 1, e =>
    match engStep s bad ev e with
    | .go e => engRun s bad ev n e
    | .stop e h => (e, h)

/-- The engine at the start of an event (R346). -/
def engStart (s : State) (engine : Nat) (ev : BurinEv) : Eng :=
  { pc := s.dispWord ev.op % 65536, g := List.replicate 16 0, z := false, n := false, c := false, stack := [],
    ctx := s.ctxOf ev.sess, txb := smapGet (fun _ => zeros 544) engine s.burin.txb, acts := [], rnd := s.freeCtr,
    steps := 0 }

/-- The words that cannot be read: those found before and those met now. -/
def badNow (s : State) (errs : List (Nat × Ecc)) : List Nat :=
  s.burin.bad ++ (errs.filter (fun e => e.2 == .uncorr)).map (·.1)

/-- A timer set more than 2^32 µs ahead (R358). -/
def timerFar (us : Nat) (a : BurinAct) : Bool :=
  match a with
  | .timer _ due => decide (2 ^ 32 + us < due)
  | _ => false

/-- An event of a built-in service: the code of the vendor region does what R356 says of the service (log 165), unless it
meets a store word it cannot read or STEP_LIMIT; of an event that it ignores it keeps nothing, by END or by ABANDON. -/
def svcEnds (s : State) (ev : BurinEv) (r : Eng × EngEnd) : Eng × EngEnd :=
  match svcRun s ev r.1.rnd (s.ctxOf ev.sess), r.2 with
  | none, _ | _, .fault 0x01 | _, .fault 0x07 => r
  | some (.commit c acts), _ =>
    let e := { r.1 with ctx := c, acts := acts, rnd := r.1.rnd + 1 }
    if acts.any (timerFar s.timeUs) then (e, .fault 0x04) else (e, .done)
  | some .ignore, how =>
    ({ r.1 with ctx := s.ctxOf ev.sess, acts := [] }, if how = .done then .done else .abandon)

/-- How the event of an engine runs on this state: its micro-code, which for a built-in service does what R356 says. -/
def State.eventRun (s : State) (engine : Nat) (errs : List (Nat × Ecc)) : Option (BurinEv × Eng × EngEnd) :=
  (smapFind engine s.burin.run).map (fun ev =>
    (ev, svcEnds s ev (engRun s (badNow s errs) ev (s.fld R.burinCfg F.burinCfgStepLimit) (engStart s engine ev))))

/-! ### Notifications (R362) -/

/-- Write a notification record, or drop and count it; its SEQ is used either way. -/
def notify (sess code : Nat) (data : Bytes) (s : State) : State :=
  let c := s.ctxOf sess
  let p := ctxOwner c
  let seq := s.burin.nqSeq.getD p 0
  let rec_ := toLe 1 code ++ toLe 1 (ctxService c) ++ toLe 2 sess ++ slice 0 12 data ++ toLe 10 (stampOf s.now) ++
    zeros 2 ++ toLe 4 seq
  let s := { s with burin := { s.burin with nqSeq := s.burin.nqSeq.set p ((seq + 1) % 2 ^ 32) } }
  let head := s.fld (R.burinNqHead p) F.burinNqHeadHead
  let tail := s.fld (R.burinNqTail p) F.burinNqTailTail
  let log2 := s.fld (R.burinNqCfg p) F.burinNqCfgSizeLog2
  if s.flag (R.burinNqCfg p) F.burinNqCfgNqEn && (2 ^ 32 + tail - head) % 2 ^ 32 != 2 ^ log2 then
    let s := s.emit (.dmaWrite p ((s.rd (R.burinNqBase p)).toNat + 32 * ringSlot tail log2) rec_)
    let s := s.setFld (R.burinNqTail p) F.burinNqTailTail ((tail + 1) % 2 ^ 32)
    doIf (s.flag (R.burinNqCfg p) F.burinNqCfgIrqEn) (raiseSrc p 12) s
  else s.inc (R.burinCtr 9)

/-! ### The timebase (R482) -/

/-- A signed 64-bit word. -/
def sword (w : Word) : Int := w.toInt

/-- TB_ADJ: a frequency adjustment in ppb × 2^16, at most ±200 ppm, or a phase step in ns, recorded and counted. -/
def tbAdj (arg : Nat) (res : Word) (s : State) : State :=
  if arg = 0 then
    let lim : Int := 65536 * 200000
    { s with pwr := { s.pwr with adj := max (-lim) (min lim (sword res)) } }
  else
    let now := ((s.now : Int) + 10 * sword res).toNat
    let s := { s with
      now := now, fab := { s.fab with second := now / ticksPerSec }, pwr := { s.pwr with ppsNext := 0, nextMf := 0 } }
    report .f 0x0C 0 .c 0x007 [(res.toNat, 8)] (s.inc (R.pwrCtr 6))

/-! ### Ends of events (R346, R347) -/

/-- A DELETE takes effect: the session's queued events are discarded and counted, its timers cancelled, SERVICE is 0. -/
def deleteNow (sess : Nat) (s : State) : State :=
  let n := (s.burin.queue.filter (fun e => e.sess == sess)).length
  let c := setDue 0 0 (setDue 1 0 (patch 0 [0] (s.ctxOf sess)))
  let s := setCtx sess c (s.bump (R.burinCtr 5) n)
  { s with burin := { s.burin with queue := s.burin.queue.filter (fun e => e.sess != sess),
                                   late := s.burin.late.filter (fun t => t / 2 != sess) } }

/-- The DELETEs that waited for a running event of their session complete together (R363): a partition reset leaves one
without an owner, after which another can be ordered while the event still runs. -/
def finishDelete (sess : Nat) (s : State) : State :=
  let ds := s.burin.deletes.filter (fun d => d.2 == sess)
  if ds.isEmpty then s
  else
    let s := deleteNow sess { s with burin := { s.burin with deletes := s.burin.deletes.filter (fun d => d.2 != sess) } }
    forEach ds (fun d s => doIf (decide (d.1 < 4)) (complete (.burin d.1) Code.ok 0) s) s

/-- An engine is idle again: its event has left, its micro-words are counted, its transmit buffer stays. -/
def engineIdle (engine : Nat) (e : Eng) (s : State) : State :=
  let txb := smapPut (fun _ => zeros 544) engine (slice 0 544 e.txb) s.burin.txb
  let s := { s with burin := { s.burin with run := smapErase engine s.burin.run, txb := txb } }
  let s := { s with freeCtr := e.rnd }
  (s.wr (R.burinEng engine) 0).bump (R.burinCtr 1) e.steps

/-- Perform one queued action (R355). -/
def performAct (engine sess : Nat) (a : BurinAct) (s : State) : State :=
  match a with
  | .tx b =>
    toBridge 17 s.q.nextPkt { noPacket with
      place := .bridge, port := 127, bytes := b.drop 32, md := b.take 32, stamp := s.now }
      { s.inc (R.burinCtr 8) with q := { s.q with nextPkt := s.q.nextPkt + 1 } }
  | .timer t due =>
    setCtx sess (setDue t due (s.ctxOf sess))
      { s with burin := { s.burin with late := s.burin.late.filter (· != 2 * sess + t) } }
  | .notify code data => notify sess code data s
  | .tbAdj arg res => tbAdj arg res s
  | .sha1 arg res =>
    let was := smapGet (fun _ => zeros 544) engine s.burin.txb
    let digest := sha1Block (slice 0 64 (Config.sha1Input arg res was))
    let txb := smapPut (fun _ => zeros 544) engine (slice 0 544 (patch (Config.sha1Place arg res) digest was)) s.burin.txb
    { s with burin := { s.burin with txb := txb } }

/-- The fields that a built-in service has in bytes 0x20 to 0xFF of its context: offset and size (R360). -/
def svcFields : Nat → List (Nat × Nat)
  | 1 => [(0x20, 14), (0x30, 24), (0x48, 20), (0x60, 96), (0xC0, 1), (0xC8, 16), (0xD8, 4)]
  | 2 => [(0x20, 64), (0x60, 96), (0xC0, 1), (0xC8, 24)]
  | 3 => [(0x20, 3), (0x24, 44), (0x60, 96), (0xC0, 1)]
  | 4 => [(0x20, 56), (0x60, 96), (0xC0, 1)]
  | 5 => [(0x20, 17), (0x32, 8), (0x40, 16), (0x60, 96), (0xC0, 1)]
  | 6 => [(0x20, 26), (0x40, 192)]
  | 7 => [(0x20, 33), (0x44, 8), (0x50, 8)]
  | _ => [(0x20, 224)]

/-- The context with every byte 0 that the service has no field for (R360): so the built-in services leave it. -/
def svcClean (service : Nat) (c : Bytes) : Bytes :=
  (List.range 256).map (fun i =>
    if i < 0x20 || (svcFields service).any (fun f => f.1 ≤ i && i < f.1 + f.2) then byteAt i c else 0)

/-- END: the copy is written back, the header's EVENTS advances, and the queued actions are performed. -/
def eventEnd (engine : Nat) (errs : List (Nat × Ecc)) (s : State) : State :=
  match s.eventRun engine errs with
  | some (ev, e, .done) =>
    let s := forEach errs (fun x => storeError engine x.1 x.2) s
    let s := engineIdle engine e s
    let old := s.ctxOf ev.sess
    let c := slice 0 0x20 old ++ slice 0x20 224 e.ctx
    let c := if ev.op < 0xC0 then svcClean (ctxService old) c else c
    let s := setCtx ev.sess (patch 0x18 (toBe 4 ((beAt 0x18 4 old + 1) % 2 ^ 32)) c) (s.inc (R.burinCtr 0))
    finishDelete ev.sess (forEach e.acts (performAct engine ev.sess) s)
  | _ => s

/-- ABANDON: the copy and everything queued are discarded. -/
def eventAbandon (engine : Nat) (errs : List (Nat × Ecc)) (s : State) : State :=
  match s.eventRun engine errs with
  | some (ev, e, .abandon) =>
    let s := forEach errs (fun x => storeError engine x.1 x.2) s
    finishDelete ev.sess (engineIdle engine e s)
  | _ => s

/-- The treatment of a faulting event (R347). -/
def faultEvent (engine : Nat) (ev : BurinEv) (pc cause : Nat) (s : State) : State :=
  let s := report .f 0x09 engine .k 0x001 [(engine, 1), (ev.sess, 2), (ev.op, 1), (pc, 2), (cause, 1)]
    (s.inc (R.burinCtr 6))
  let c := s.ctxOf ev.sess
  let s := setCtx ev.sess (patch 1 (toBe 1 (byteAt 1 c ||| 1)) c) s
  notify ev.sess 0xFF (toLe 8 cause ++ toLe 4 pc) s

def eventFault (engine : Nat) (errs : List (Nat × Ecc)) (s : State) : State :=
  match s.eventRun engine errs with
  | some (ev, e, .fault cause) =>
    let s := forEach errs (fun x => storeError engine x.1 x.2) s
    finishDelete ev.sess (faultEvent engine ev e.pc cause (engineIdle engine e s))
  | _ => s

/-- The name of a control store word that an error may name. -/
def storeErrsOk (errs : List (Nat × Ecc)) : Bool := errs.all (fun e => e.1 < 131072 + 256)

def execBurinEventEnd (engine : Nat) (errs : List (Nat × Ecc)) (s : State) : Res :=
  guardWf (engine < 64 && storeErrsOk errs) (doIf (!s.pwr.tripped) (eventEnd engine errs) s)
def execBurinEventAbandon (engine : Nat) (errs : List (Nat × Ecc)) (s : State) : Res :=
  guardWf (engine < 64 && storeErrsOk errs) (doIf (!s.pwr.tripped) (eventAbandon engine errs) s)
def execBurinFault (engine : Nat) (errs : List (Nat × Ecc)) (s : State) : Res :=
  guardWf (engine < 64 && storeErrsOk errs) (doIf (!s.pwr.tripped) (eventFault engine errs) s)

/-! ### Starts of events (R344, R348, R350) -/

/-- Take the first event of a session out of the queue. -/
def takeSession (sess : Nat) : List BurinEv → Option (BurinEv × List BurinEv)
  | [] => none
  | e :: l => if e.sess = sess then some (e, l) else (takeSession sess l).map (fun r => (r.1, e :: r.2))

/-- The dispatcher may start events: EN is 1, the burin pool is in S0 and the device has not tripped. -/
def State.burinOn (s : State) : Bool :=
  s.flag R.burinCfg F.burinCfgEn && s.fld R.pwrWakeBurin F.pwrWakeBurinState == 0 && !s.pwr.tripped

/-- The register of a running engine. -/
def engWord (op sess pc : Nat) : Word :=
  setF (setF (setF (setF 0 F.burinEngOpcode op) F.burinEngState 1) F.burinEngSession sess) F.burinEngMicroPc pc

/-- The dispatcher takes a session's next event: discarded where the session is faulted or the opcode is not served,
a fault where its dispatch entry cannot be read, else started on the engine. -/
def eventStart (engine sess : Nat) (ecc : Ecc) (s : State) : State :=
  if s.burinOn && (smapFind engine s.burin.run).isNone && !s.sessRuns sess then
    match takeSession sess s.burin.queue with
    | none => s
    | some (ev, rest) =>
      if s.opHeld ev.op then s
      else
        let s := { s with burin := { s.burin with queue := rest } }
        if ctxFaulted (s.ctxOf sess) then s.inc (R.burinCtr 7)
        else
          let s := storeError engine (dispKey ev.op) ecc s
          if s.burin.bad.contains (dispKey ev.op) then faultEvent engine ev 0 0x07 s
          else if !nbit (s.dispWord ev.op) 31 then s.inc (R.burinCtr 4)
          else
            let s := { s with burin := { s.burin with run := smapInsert engine ev s.burin.run } }
            s.wr (R.burinEng engine) (engWord ev.op sess (s.dispWord ev.op % 65536))
  else s

def execBurinEventStart (engine session : Nat) (ecc : Ecc) (s : State) : Res :=
  guardWf (engine < 64 && session < 16384) (eventStart engine session ecc s)

/-! ### Timers (R358) -/

/-- A timer whose deadline has arrived raises its event and disarms itself, but for a session whose DELETE has been
ordered; while the dispatcher has no room the event stays in the wheel, and the delay is counted once. -/
def timerExpire (sess t : Nat) (s : State) : State :=
  let c := s.ctxOf sess
  let due := ctxDue c t
  let op := ctxTimerOp c t
  if ctxService c != 0 && due != 0 && due ≤ s.timeUs && !s.opHeld op && s.burin.deletes.all (·.2 != sess) then
    if s.burinRoom sess then
      let s := burinPush (plainEvent op (1 + t) sess 0 (stampOf (s.now / 10000 * 10000)) []) s
      let s := { s with burin := { s.burin with late := s.burin.late.filter (· != 2 * sess + t) } }
      setCtx sess (setDue t 0 c) s
    else if s.burin.late.contains (2 * sess + t) then s
    else { s with burin := { s.burin with late := s.burin.late ++ [2 * sess + t] } }.inc (R.burinCtr 3)
  else s

def execBurinTimerExpire (session timer : Nat) (s : State) : Res :=
  guardWf (session < 16384 && timer < 2) (timerExpire session timer s)

/-- An edge of the 1PPS input raises event 0x60 (R356, R483): for the session of the PTP servo, where there is one. -/
def burinPps (stamp : Nat) (s : State) : State :=
  match s.servoSession with
  | none => s
  | some sess => doIf (s.burinRoom sess) (burinPush (plainEvent 0x60 4 sess 0 stamp [])) s

/-! ### Commands (R363, R364) -/

/-- BURIN_DATA_p_0 to 3 as ARG: each word's bytes from most to least significant (R357). -/
def hostArg (s : State) (p : Nat) : Bytes := (List.range 4).flatMap (fun i => toBe 8 (s.rd (R.burinData p i)).toNat)

/-- A SERVICE that CREATE accepts. -/
def serviceOk (v : Nat) : Bool := (1 ≤ v && v ≤ 7) || (0x80 ≤ v && v ≤ 0xFF)

/-- The context that CREATE writes (R363). -/
def newCtx (service t0 t1 owner : Nat) : Bytes :=
  toBe 1 service ++ zeros 1 ++ toBe 1 owner ++ toBe 1 t0 ++ toBe 1 t1 ++ zeros 251

/-- Byte `i` of BURIN_DATA_p_4. -/
def createByte (s : State) (p i : Nat) : Nat := byteAt i (toLe 8 (s.rd (R.burinData p 4)).toNat)

/-- The checks of R546 on a session command. -/
def burinChecks (s : State) (p op sess : Nat) : List (Bool × Nat) :=
  let c := s.ctxOf sess
  let free := ctxService c == 0
  let sv := createByte s p 0
  [(1 ≤ op && op ≤ 5 && (op != 2 || serviceOk sv), Code.notfound), (sess < 16384, Code.notfound),
   (s.inRange p 17 sess 1 && (free || ctxOwner c == p), Code.denied),
   (op == 2 || !free, Code.notfound),
   (op != 2 || (free && !(sv == 7 && s.servoSession.isSome)), Code.nospace),
   (!(op == 1 || op == 2) || s.burinRoom sess, Code.busy)]

/-- Perform a session command. -/
def burinPerform (p op sess evtOp : Nat) (ecc : Ecc) (s : State) : State :=
  let ok := complete (.burin p) Code.ok 0
  match op with
  | 1 => ok (burinPush (plainEvent evtOp 3 sess p 0 (hostArg s p)) s)
  | 2 =>
    let b := createByte s p
    ok (burinPush (plainEvent (b 1) 3 sess p 0 (hostArg s p)) (setCtx sess (newCtx (b 0) (b 2) (b 3) p) s))
  | 3 =>
    if s.sessRuns sess then { s with burin := { s.burin with deletes := s.burin.deletes ++ [(p, sess)] } }
    else ok (deleteNow sess s)
  | 4 =>
    if ecc == .uncorr then complete (.burin p) Code.eccUncorrectable 0 s
    else
      let c := s.ctxOf sess
      let c := if ctxService c = 1 then patch 0x48 (zeros 20) c else c
      ok (setData (R.burinData p) 32 c s)
  | _ =>
    let c := s.ctxOf sess
    ok (setCtx sess (patch 1 (toBe 1 (byteAt 1 c / 2 * 2)) c) s)

/-! ### Loading the customer region (R365 to R367) -/

/-- The section of a type. -/
def secOf (b : Bytes) (t : Nat) : Bytes :=
  match (imgSecs b).find? (fun x => x.type == t) with
  | some x => secBytes b x
  | none => []

/-- The words of a section, `n` bytes each. -/
def secWords (n : Nat) (b : Bytes) : List Nat := (List.range (b.length / n)).map (fun i => leAt (n * i) n b)

/-- A customer micro-word (R366). -/
def microOk (w : Nat) : Bool :=
  let seq := nbits w 31 29
  0x1800 ≤ nbits w 28 16 && nbits w 28 16 ≤ 0x1FFF && (!(seq == 1 || seq == 2 || seq == 3) || 0xC000 ≤ w % 65536)

/-- A customer nano-word: listed codes, reserved bits 0, no vendor action, every fixed access within R354. -/
def nanoOk (w : Nat) : Bool :=
  let x : Nano := ⟨w⟩
  let lim := match x.memOp with | 1 | 2 => 256 | 3 => 512 | 4 | 5 => 544 | _ => 64
  x.f 255 249 == 0 && x.f 63 0 == 0 && x.alu ≤ 0x0E && x.f 239 235 ≤ 22 && x.f 234 230 ≤ 22 && x.memOp ≤ 6 &&
    x.cond ≤ 8 && x.action ≤ 3 &&
    (x.memOp == 0 || x.memIdx || (x.f 218 208 + x.memSize ≤ lim && !(x.memOp == 2 && x.f 218 208 < 0x20)))

def dispOk (w : Nat) : Bool := !nbit w 31 || 0xC000 ≤ w % 65536

/-- The checks of R366 after check 11. -/
def custChecks (b : Bytes) : List (Bool × Fail) :=
  [(byteAt 0x24 b == 1, (Code.incompatible, 0x30)),
   (allZero (slice 0x25 27 b) && (secOf b 1).length ≤ 65536 && (secOf b 1).length % 4 == 0 &&
    (secOf b 2).length ≤ 65536 && (secOf b 2).length % 32 == 0 && (secOf b 3).length == 256 &&
    (secOf b 0x0F).length ≤ 4096 && (secWords 4 (secOf b 1)).all microOk && (secWords 32 (secOf b 2)).all nanoOk &&
    (secWords 4 (secOf b 3)).all dispOk, (Code.length, 0x0C))]

/-- The failure of a LOAD before the steward verifies the signature: the first of R51 and R52, if there is one. -/
def loadFail (addr len : Nat) (d : Dma) : Option Fail :=
  if addr % 64 ≠ 0 ∨ len % 64 ≠ 0 ∨ 139776 < len then some (Code.length, 0x04)
  else match d with
    | .timeout => some (Code.timeout, 0x0F)
    | .poison => some (Code.eccUncorrectable, 0x0F)
    | .data b => firstBad (arrivedChecks burinKind len b)

/-- The checks that the steward makes on a whole image: the signature, then those of R366. -/
def loadVerifyChecks (k : KeySet) (b : Bytes) : List (Bool × Fail) := imgSigChecks k b ++ custChecks b

/-- LOAD: the image is read and checked as far as R51 goes without the steward, who then verifies it. A bad one, or a
steward that restarts or a LOAD already in hand (BUSY), changes nothing. -/
def burinLoad (fn : Fn) (p : Nat) (d : Dma) (s : State) : State :=
  if !s.right p Right.burinLoad then failCmd (.burin p) fn Code.denied s
  else if s.boot.restarting || s.burin.load.isSome || s.burin.verify.isSome then complete (.burin p) Code.busy 0 s
  else match loadFail (s.rd (R.burinData p 0)).toNat (s.rd (R.burinData p 1)).toNat d, d with
    | some f, _ => complete (.burin p) f.1 f.2 s
    | none, .data b => { s with burin := { s.burin with verify := some (p, b) } }
    | none, _ => s

/-- A LOAD whose image is not yet verified ends with a failure; one whose partition was reset has no one to tell. -/
def loadEnd (p : Nat) (f : Fail) (s : State) : State :=
  doIf (decide (p < 4)) (complete (.burin p) f.1 f.2) { s with burin := { s.burin with verify := none } }

/-- A steward that restarts while it verifies the signature of an image fails the LOAD (R52, R366). -/
def loadDrop (s : State) : State :=
  match s.burin.verify with
  | none => s
  | some (p, _) => loadEnd p (Code.timeout, 0x10) s

/-- The steward has verified an image: a good one waits for the switch of R367. -/
def loadVerify (s : State) : State :=
  match s.burin.verify with
  | none => s
  | some (p, b) =>
    if s.boot.restarting then s
    else match firstBad (loadVerifyChecks s.upd.cfg.plateKeys b) with
      | some f => loadEnd p f s
      | none => { s with burin := { s.burin with verify := none, load := some (p, b) } }

/-- The region of a customer image (R365). -/
def custRegion (b : Bytes) : BurinRegion :=
  { micro := secWords 4 (secOf b 1), fill := 0xE0000000, nano := secWords 32 (secOf b 2), disp := secWords 4 (secOf b 3) }

/-- The opcodes of the vendor region that R356 lists. -/
def servedOps : List Nat := [1, 2, 3, 4, 5, 6, 7, 8, 0x20, 0x21, 0x22, 0x40, 0x41, 0x43, 0x44, 0x60]

/-- The dispatch entries of a vendor image: a listed opcode is served from an address of the region, every other one has
VALID 0 (R350, R356). -/
def vendorDisp (l : List Nat) : List Nat :=
  (List.range 0xC0).map (fun op => if servedOps.contains op then 2 ^ 31 + l.getD op 0 % 0xC000 else 0)

/-- The vendor region is written; words of it found bad are good again (R368). -/
def writeVendor (image : Bytes) (s : State) : State :=
  let v := Config.vendorRegion image
  let keep := fun a => (0xC000 ≤ a && a < 65536) || (65536 + 0x1800 ≤ a && a < 131072) || 131072 + 0xC0 ≤ a
  { s with burin := { s.burin with
      vendor := { micro := v.1.1, fill := v.2.2, nano := v.1.2, disp := vendorDisp v.2.1 }
      vload := none, bad := s.burin.bad.filter keep } }

/-- An engine runs an event of the vendor region, or of the customer region. -/
def State.regionRuns (s : State) (cust : Bool) : Bool := s.burin.run.any (fun e => decide (0xC0 ≤ e.2.op) == cust)

/-- The vendor region is replaced under the hold of R367 (R452): at once where no engine runs an event of it. -/
def loadVendor (image : Bytes) (s : State) : State :=
  if s.regionRuns false then { s with burin := { s.burin with vload := some image } } else writeVendor image s

/-- A vendor image that waits is written once no engine runs an event of its region. -/
def vendorSwitch (s : State) : State :=
  match s.burin.vload with
  | some b => if s.regionRuns false then s else writeVendor b s
  | none => s

/-- Once no engine runs a customer opcode, the region and the dispatch entries are written and events resume (R367);
words found bad in the region are good again (R368). -/
def regionSwitch (s : State) : State :=
  match s.burin.load with
  | none => s
  | some (p, b) =>
    if s.regionRuns true then s
    else
      let keep := fun k => if k < 65536 then decide (k < 0xC000) else if k < 131072 then decide (k < 65536 + 0x1800)
        else decide (k < 131072 + 0xC0)
      let s := { s with burin := { s.burin with cust := custRegion b, load := none, bad := s.burin.bad.filter keep } }
      let s := (s.wr R.burinCustId (wordAt 0 (slice 0x18 8 b))).wr R.burinCustVer
        (setF (setF 0 F.burinCustVerLoaded 1) F.burinCustVerVersion (leAt 0x20 4 b))
      doIf (decide (p < 4)) (complete (.burin p) Code.ok 0) s

/-- The switch event: the image under verification is judged, and each region that waits is written if it can be. -/
def burinSwitch (s : State) : State := doIf (!s.pwr.tripped) (fun s => regionSwitch (vendorSwitch (loadVerify s))) s

/-- A write to BURIN_CMD_p that the map let through. -/
def burinCommand (fn : Fn) (p : Nat) (w : Word) (ecc : Ecc) (d : Dma) (s : State) : State :=
  let op := getF w F.burinCmdOpcode
  issue (.burin p) op p (fun s =>
    if op = 6 then burinLoad fn p d s
    else
      let sess := s.fld (R.burinArg p) F.burinArgSession
      runChecks (.burin p) fn (burinChecks s p op sess) (burinPerform p op sess (getF w F.burinCmdEvtOp) ecc) s) s

def burinIssue (fn : Fn) (op evtOp : Nat) (ecc : Ecc) (d : Dma) (s : State) : State :=
  access fn (R.burinCmd ((s.partOf fn).getD 0)) 1 (fun p _ _ s =>
    burinCommand fn p (setF (setF 0 F.burinCmdOpcode op) F.burinCmdEvtOp evtOp) ecc d s) s

def execBurinEvent (fn : Fn) (evtOp : Nat) (s : State) : Res :=
  guardWf (fnOk fn && evtOp < 256) (burinIssue fn 1 evtOp .ok .timeout s)
def execBurinCreate (fn : Fn) (s : State) : Res := guardWf (fnOk fn) (burinIssue fn 2 0 .ok .timeout s)
def execBurinDelete (fn : Fn) (s : State) : Res := guardWf (fnOk fn) (burinIssue fn 3 0 .ok .timeout s)
def execBurinCtxRead (fn : Fn) (ecc : Ecc) (s : State) : Res := guardWf (fnOk fn) (burinIssue fn 4 0 ecc .timeout s)
def execBurinClearFault (fn : Fn) (s : State) : Res := guardWf (fnOk fn) (burinIssue fn 5 0 .ok .timeout s)
def execBurinLoad (fn : Fn) (image : Dma) (s : State) : Res := guardWf (fnOk fn) (burinIssue fn 6 0 .ok image s)

end Sys2Proof.Machine
end

