-- ==== Sys2Proof/Machine/Pipeline.lean ====
section
/-! DEFINITION. The stages of a pipeline: table reads, results and miss actions, resolution, learning, the actions of a
stage programme (R133, R136 to R158, R178 to R181, R549, R554), and the frame tails that end a hand-over. -/

namespace Sys2Proof.Machine

/-! ### Packets handed off before their tail has come -/

/-- A packet handed to a burin reaches the dispatcher once it is whole (R343). -/
def burinWhole (id : Nat) (s : State) : State :=
  match s.pkt id with
  | none => s
  | some p =>
    match p.place with
    | .toBurin op sess => doIf p.tailIn (fun s => burinPacket op sess p (erasePkt id s)) s
    | _ => s

/-- The frame tail of a port, and what waited for it. -/
def tailAndAfter (port : Nat) (k : State → State) (s : State) : State :=
  match (smapFind port s.line.rx).bind (fun c => c.pkt) with
  | some id => burinWhole id (ringWrite id (k s))
  | none => k s

def execFrameTailArrive (port : Nat) (rest : Bytes) (tail : Tail) (fec : Fec) (s : State) : Res :=
  guardWf (port < 96) (tailAndAfter port (frameTail port rest tail fec) s)

/-! ### Stencil lookup (R138, R142) -/

/-- An 80-bit key's bits; those at offset 80 and beyond read 0. -/
def keyBits (key : Bytes) (o n : Nat) : Nat := bitsAt (slice 0 10 key) o n

/-- A lookup that meets a bad word drops its packet: counted, the first such event at the address recorded. -/
def stencilErr (pipe table i : Nat) (s : State) : State := tellOnce pipe table i 0x002 (s.inc (R.tblPipeCtr pipe 2))

/-- Access 3: the leaf, and the range compare; none where the packet is dropped. -/
def stencilLeaf (pipe leaf p : Nat) (key : Bytes) (ecc : Ecc) (s : State) : State × Option Nat :=
  let lf := s.leaf leaf
  if s.isBad 2 0 leaf || eccLost ecc then (stencilErr pipe 2 leaf (markBad 2 0 leaf s), none)
  else if s.boot.f0Out then (stencilErr pipe 2 leaf s, none)
  else if leafCheck lf != lf then (stencilErr pipe 2 leaf (countCorr ecc s), none)
  else
    let s := countCorr ecc s
    let v := keyBits key p (8 * leafBytes lf)
    let j := ((List.range (leafK lf)).filter (fun i => leafBound lf i ≤ v)).length
    let r := leafResult lf j
    (doIf (r / 2 ^ 22 == 3) (fun s => s.inc (R.tblPipeCtr pipe 1)) s, some r)

/-- Access 1 or 2: a stencil word that reads bad stays bad until it is written again. -/
def stencilWordLost (pipe i : Nat) (ecc : Ecc) (s : State) : State :=
  stencilErr pipe 1 i (doIf (ecc == .uncorr) (markBad 1 0 i) s)

/-- Access 2: the L2 entry at `i`, and access 3 at key bit `p`. -/
def stencilL2 (pipe i p : Nat) (key : Bytes) (x : StageIn) (s : State) : State × Option Nat :=
  let le := s.word i
  if s.stencilWords ≤ i || s.isBad 1 0 i || x.ecc2 == .uncorr then (stencilWordLost pipe i x.ecc2 s, none)
  else if f0Leaves ≤ l2Leaf le then (stencilErr pipe 1 i (countCorr x.ecc2 s), none)
  else stencilLeaf pipe (l2Leaf le) p key x.ecc (countCorr x.ecc2 s)

/-- A stencil lookup: the result word, or none where the packet is dropped. -/
def stencilLookup (pipe sid : Nat) (key : Bytes) (x : StageIn) (s : State) : State × Option Nat :=
  let s := s.inc (R.tblPipeCtr pipe 0)
  let rp := R.tblStencilRoot sid
  if !s.flag rp F.tblStencilRootValid then (s.inc (R.tblPipeCtr pipe 1), some 0xFFFFFF)
  else
    let rb := s.fld rp F.tblStencilRootRootBits
    let i1 := s.fld rp F.tblStencilRootRootBase + keyBits key 0 rb
    let re := s.word i1
    if s.stencilWords ≤ i1 || s.isBad 1 0 i1 || x.ecc1 == .uncorr then (stencilWordLost pipe i1 x.ecc1 s, none)
    else if 20 < rootStride re || s.stencilWords < rootL2Base re + 2 ^ rootStride re then
      (stencilErr pipe 1 i1 (countCorr x.ecc1 s), none)
    else
      stencilL2 pipe (rootL2Base re + keyBits key rb (rootStride re)) (rb + rootStride re) key x (countCorr x.ecc1 s)

/-! ### Exact-match lookup (R146, R150, R152) -/

/-- A lookup by a pipeline in table `t`: the entry hit. An entry whose word cannot be read is lost and the lookup
misses; a MAC hit sets HIT. -/
def emLookup (pipe t : Nat) (key : Bytes) (ecc : Ecc) (s : State) : State × Option Bytes :=
  let s := s.inc (R.tblPipeCtr pipe 3)
  match emFind t (s.emBuckets t) key (s.emTab t) with
  | none => (s, none)
  | some i =>
    match ecc with
    | .uncorr => (entryLost t i 1 s, none)
    | .badCheck => (entryLost t i 2 s, none)
    | _ =>
      let s := countCorr ecc s
      let e := emGet t i (s.emTab t)
      (doIf (2 ≤ t) (fun s => setEm t (emPut t i (setHit true e) (s.emTab t)) s) s, some e)

/-! ### Next-hop resolution (R157, R158, R554) -/

/-- A packet that a resolution drops: counted in `ctr`, with a hole marker; an entry that cannot be used is recorded once
for each index. -/
def resolveDrop (id pipe ctr : Nat) (tell : Option (Nat × Nat)) (s : State) : State :=
  let s := s.inc (R.tblPipeCtr pipe ctr)
  let s := match tell with
    | some (table, i) => tellOnce pipe table i 0x004 s
    | none => s
  leaveHole id s

/-- What is left of a packet after an action: it goes on, it has left, or a learn found no space (R151). -/
inductive ActEnd where
  | on (s : State)
  | gone (s : State)
  | flood (s : State)

/-- The packet carries a result it has read (R133). -/
def carry (id : Nat) (e : Bytes) (s : State) : State :=
  match s.pkt id with
  | some p => setPkt id { p with results := p.results ++ [e] } s
  | none => s

/-- A resolution reads entry `i` of a table (R158): none where it drops the packet, by an entry that cannot be used,
which stays bad until it is written again, or by VALID 0; else `k` goes on with the entry. -/
def readEntry (id pipe ctr table i space : Nat) (valid : Bool) (e : Bytes) (ecc : Ecc) (k : State → ActEnd) (s : State) :
    ActEnd :=
  if space ≤ i || s.isBad table 0 i || (table != 8 && !checkOk e) || eccLost (eccOn e ecc) then
    .gone (resolveDrop id pipe ctr (some (table, i)) (doIf (eccLost (eccOn e ecc)) (markBad table 0 i) s))
  else if !valid then .gone (resolveDrop id pipe ctr none s)
  else k (carry id e (countCorr ecc s))

/-- The decoded code of a packet's bank. -/
def State.codeOf (s : State) (p : Packet) : PlateCode :=
  ((s.bank p.bank).code).getD ⟨[], [], [], [], 0, 0, 0⟩

/-- The descriptors of a builder; none for a stage that names none. -/
def State.builder (s : State) (p : Packet) (b : Option Nat) : List Extract := ((s.codeOf p).builders).getD (b.getD 64) []

/-- The hash of a builder's key, padded to whole bytes; an absent field gives zeros (R157, R332). -/
def hashKey (s : State) (p : Packet) (b : Option Nat) : Nat :=
  let k := buildKeyRaw p (s.builder p b)
  let n := (k.2.1 + 7) / 8
  crc32c (toBe n (k.1 * 2 ^ (8 * n - k.2.1)))

/-- Send a packet to the ring that a stage names, or drop it as NH_DROP (R554). -/
def nhRing (id : Nat) (p : Packet) (ring : Option (Nat × Nat)) (reason : Nat) (x : StageIn) (s : State) : State :=
  match ring with
  | some (q, r) => trapPacket id q r reason x s
  | none => resolveDrop id p.pipe 9 none s

/-- Read next hop `n` and act on its TYPE: FORWARD puts VOQ and OUT_PORT into the fixed metadata. -/
def nextHopAct (id n : Nat) (p : Packet) (st : Stage) (x : StageIn) (s : State) : ActEnd :=
  let e := s.nextHop n
  readEntry id p.pipe 9 6 n s.nextHops (nbit (byteAt 7 e) 0) e x.eccNh (fun s =>
    match byteAt 3 e with
    | 0 =>
      let md := mdPut Md.voq (leAt 0 3 e) (mdPut Md.outPort (byteAt 6 e) p.md)
      .on (setPkt id { p with nh := e, md := md, results := p.results ++ [e] } s)
    | 1 => .gone (leaveHole id s)
    | 2 => .gone (nhRing id p st.trapRing 0x03 x s)
    | _ => .gone (nhRing id p st.recvRing 0x04 x s)) s

/-- Read ECMP group `g`, the member that hash `h` picks, and its next hop (R157). -/
def ecmpAct (id g h : Nat) (p : Packet) (st : Stage) (x : StageIn) (s : State) : ActEnd :=
  let e := s.group g
  readEntry id p.pipe 10 7 g s.ecmpGroups (nbit (byteAt 5 e) 0) e x.eccGrp (fun s =>
    let i := groupBase e + h * groupSize e / 2 ^ 32
    let m := s.member i
    readEntry id p.pipe 10 8 i s.ecmpMembers (nbit (leAt 0 4 m) 31) m x.eccMem (fun s =>
      nextHopAct id (leAt 0 4 m % 2 ^ 20) { p with results := p.results ++ [e, m] } st x s) s) s

/-- Resolve the previous result, a result word in bits [23:0]; `h` is the hash of the stage's hash builder. -/
def resolveAct (id h : Nat) (p : Packet) (st : Stage) (x : StageIn) (s : State) : ActEnd :=
  let w := p.prev % 2 ^ 24
  match w / 2 ^ 22 with
  | 0 => nextHopAct id (w % 2 ^ 20) p st x s
  | 1 => ecmpAct id (w % 2 ^ 16) h p st x s
  | _ => .on s

/-! ### Learning (R151) -/

/-- A learn in the pipeline's own MAC table. -/
def learnAct (pipe : Nat) (key : Bytes) (dest : Nat) (s : State) : ActEnd :=
  let t := 2 + pipe
  if !s.flag R.tblLearnCfg F.tblLearnCfgLearnEn then .on s
  else match emFind t (s.emBuckets t) key (s.emTab t) with
    | some i =>
      let e := emGet t i (s.emTab t)
      if emResult t e = dest then .on (setEm t (emPut t i (setHit true e) (s.emTab t)) s)
      else if macStatic e then .on (s.inc (R.tblPipeCtr pipe 6))
      else
        let e' := setHit true (patch 8 (toLe 3 dest) e)
        .on (learnEvent 2 pipe key (emResult t e) dest
          ((setEm t (emPut t i e' (s.emTab t)) s).inc (R.tblPipeCtr pipe 5)))
    | none =>
      let e := slice 0 16 (key ++ toLe 3 dest ++ toLe 1 5)
      match emInsert t (s.emBuckets t) 4 e (s.emTab t) with
      | some r => .on (learnEvent 1 pipe key 0xFFFFFF dest ((setEm t r.1 s).inc (R.tblPipeCtr pipe 4)))
      | none => .flood (learnEvent 4 pipe key 0xFFFFFF 0xFFFFFF (s.inc (R.tblPipeCtr pipe 7)))

/-! ### Leaving a pipeline (R43, R44, R66) -/

/-- The last stage of the last pass is complete: an ingress packet goes to the reorder unit with its emitted layout and
its length: that of the frame where its tail is in, else what its plate took from the headers (R230); an egress packet
goes to its line MAC. While routed forwarding is stopped (R28), a packet that came from a line port or from the fabric
goes nowhere; those of hosts and burins still do. DESIGN CHOICE: forwarding stops here alone, so a routed packet already
past its pipeline (reorder unit, bridge, queue, line MAC) when F0 leaves service still goes on; log 25. -/
def leavePipe (id : Nat) (p : Packet) (s : State) : State :=
  if s.boot.f0Out && p.port != 127 then leaveHole id s
  else if p.egress then toMac id p s
  else
    let len := if p.tailIn then p.bytes.length + 4 else mdF p.md Md.len
    let emit := s.fld (R.plateBank p.bank) F.plateBankMetaEmit
    setPkt id { p with place := .done, md := mdPut Md.layout emit (mdPut Md.len len p.md) } s

/-- A recirculation pass: the fifth request drops the packet. -/
def recircAct (id : Nat) (p : Packet) (s : State) : State :=
  if 4 ≤ p.pass then leaveHole id (s.inc (R.plateRecircDrop p.pipe))
  else setPkt id { p with pass := p.pass + 1, stage := none } s

/-! ### The actions of a stage -/

/-- A number that an action takes for a packet. -/
def actVal (p : Packet) : ActSrc → Nat
  | .const v => v
  | .md off n => leAt off n p.md
  | .result lo w => p.prev / 2 ^ lo % 2 ^ w

/-- The value of a matcher field, and how many metadata bytes it takes (R120, R125). -/
def ppmFieldOf (pr : Bytes) : PpmField → Bytes
  | .done => toLe 1 (b2n (nbit (leAt 0 2 pr) 9))
  | .hit => toLe 1 (b2n (nbit (leAt 0 2 pr) 7))
  | .classMap => slice 0x10 4 pr
  | .firstId => slice 0x14 2 pr
  | .firstOff => slice 0x16 2 pr

/-- Bytes into metadata bytes 16 to 31. -/
def mdUpper (off : Nat) (b : Bytes) (md : Bytes) : Bytes := slice 0 32 (patch (max 16 off) b md)

/-- One action on packet `id` (R549); `p0` is the packet as its stage began, when its builders ran. -/
def runAct (x : StageIn) (st : Stage) (p0 : Packet) (id : Nat) (p : Packet) (a : Action) (s : State) : ActEnd :=
  match a with
  | .drop => .gone (leaveHole id s)
  | .trap q r => .gone (trapPacket id q r 0x02 x s)
  | .forward => .gone (leavePipe id p s)
  | .recirc => .gone (recircAct id p s)
  | .resolve => resolveAct id (hashKey s p0 st.hashB) p st x s
  | .hatch b => .on (setPkt id { p with hatch := hashKey s p0 (some b) / 65536 } s)
  | .learn f m d => learnAct p.pipe (slice m 6 p.md ++ slice f 2 p.md) (leAt d 3 p.md) s
  | .scan => .on (scanStart id p s)
  | .copyPpm off => .on (setPkt id { p with md := mdUpper off (slice 0x10 8 p.pr) p.md } s)
  | .copyField f off => .on (setPkt id { p with md := mdUpper off (ppmFieldOf p.pr f) p.md } s)
  | .burin op sess =>
    let p' := { p with place := .toBurin (actVal p op % 256) (actVal p sess % 16384) }
    .gone (burinWhole id (goesOn p (doIf (!p.egress) (marker p.stream p.seq) (setPkt id p' s))))
  | .setBits lo w v => .on (setPkt id { p with md := mdSet lo w v p.md } s)
  | .putResult lo w => .on (setPkt id { p with md := mdSet lo w p.prev p.md } s)
  | .classify =>
    let c := Config.classOf (s.codeOf p).classCode p.pr p.md p.bytes
    .on (setPkt id { p with md := mdPut Md.tc (c.1 % 8) (mdPut Md.colour (c.2 % 3) p.md) } s)
  | .edit => .on (setPkt id (editBytes p (Config.editPacket (s.codeOf p).editCode p.md p.nh p.label p.results p.bytes)) s)

/-- The packet goes on to its next stage, or has passed its last. -/
def stageNext (id : Nat) (s : State) : State :=
  match s.pkt id with
  | none => s
  | some p =>
    match p.stage with
    | none => s
    | some n =>
      if n + 1 < (s.prog p.bank p.pipe).stages.length then setPkt id { p with stage := some (n + 1) } s
      else leavePipe id p s

/-- The actions of a list in order; a learn without space goes on with `flood` in place of the rest. -/
def runActs (x : StageIn) (st : Stage) (p0 : Packet) (flood : State → State) (id : Nat) : List Action → State → State
  | [], s => stageNext id s
  | a :: l, s =>
    match s.pkt id with
    | none => s
    | some p =>
      match runAct x st p0 id p a s with
      | .on s => runActs x st p0 flood id l s
      | .gone s => s
      | .flood s => flood s

/-- The actions of a stage's list, with the stage's flood action. -/
def stageActs (x : StageIn) (st : Stage) (p0 : Packet) (id : Nat) (l : List Action) (s : State) : State :=
  runActs x st p0 (runActs x st p0 (stageNext id) id st.onFlood) id l s

/-- Actions on a result word: its kind chooses (R136). -/
def onWord (x : StageIn) (st : Stage) (p0 : Packet) (id w : Nat) (s : State) : State :=
  match w / 2 ^ 22 with
  | 2 => stageActs x st p0 id (((st.onSpec.find? (fun c => c.1 == w % 256)).map (·.2)).getD []) s
  | 3 => stageActs x st p0 id st.onMiss s
  | _ => stageActs x st p0 id st.onHit s

/-- Set the previous stage result of a packet, which carries it from now on (R133). -/
def setPrev (id v : Nat) (s : State) : State :=
  match s.pkt id with
  | some p => setPkt id { p with prev := v, results := p.results ++ [toLe 8 v] } s
  | none => s

/-- The stage result is a word of R136, and its actions follow. -/
def withWord (x : StageIn) (st : Stage) (p0 : Packet) (id w : Nat) (s : State) : State :=
  onWord x st p0 id w (setPrev id w s)

/-- Key widths in bits (R122, R137, R147, R181). -/
def tableWidth (t : TableRef) : Nat :=
  match t with
  | .none => 0
  | .stencil _ => 80
  | .label => 24
  | .host => 160
  | .mac => 64
  | .asa _ w => if w then 640 else 160

/-- A search of an ASA table by a stage (R178 to R181, R197). -/
def asaStage (x : StageIn) (st : Stage) (p0 : Packet) (id t : Nat) (wide : Bool) (key : Bytes) (s : State) : State :=
  let miss := fun s => stageActs x st p0 id st.onMiss (setPrev id 0 s)
  let off := !(s.asaTab t).on
  let unlike := (s.asaTab t).wide != wide
  let s := doIf unlike (fun s => s.inc (R.asaTableCtr t 5)) (doIf off (fun s => s.inc (R.asaTableCtr t 4)) s)
  if off || unlike then miss s
  else match asaSearch t key s with
    | (s, none) => miss s
    | (s, some (i, e)) =>
      if s.asaBad t i x.ecc then leaveHole id (asaResultBad t i (s.inc (R.asaTableCtr t 3)))
      else
        let s := doIf (x.ecc == .corr) (fun s => s.inc (R.asaDevCtr 3)) s
        stageActs x st p0 id st.onHit (setPrev id (asaResult (s.asaTab t) e) (carry id e s))

/-- ACTION 3 DROP of a label entry (R147). -/
def labelDrop (e : Bytes) : Bool := byteAt 7 e == 3

/-- An exact-match stage: the result word of the entry hit, or the word MISS. DESIGN CHOICE: a label entry whose ACTION is DROP
drops its packet in place of the stage's actions, with a hole marker as any drop of a pipeline (R92); log 52. -/
def emStage (x : StageIn) (st : Stage) (id : Nat) (p : Packet) (t : Nat) (key : Bytes) (s : State) : State :=
  match emLookup p.pipe t key x.ecc s with
  | (s, none) => withWord x st p id 0xFFFFFF s
  | (s, some e) =>
    let s := doIf (t == 0) (setPkt id { p with label := e }) s
    if t == 0 && labelDrop e then leaveHole id s
    else withWord x st p id (emResult t e) (carry id e s)

/-- The builders of a stage that run as it starts: its key builder, its hash builder and those of the hatches in its lists of
actions. -/
def stageBuilders (st : Stage) : List (Option Nat) :=
  st.builder :: st.hashB :: (st.onHit ++ st.onMiss ++ st.onFlood ++ st.onSpec.flatMap (·.2)).filterMap (fun a =>
    match a with
    | .hatch b => some (some b)
    | _ => none)

/-- An absent field with ABSENT_MISS in any of them makes the stage take its miss action without reading its table
(R123). -/
def State.absentMiss (s : State) (st : Stage) (p : Packet) : Bool :=
  (stageBuilders st).any (fun b => (buildKeyRaw p (s.builder p b)).2.2)

/-- The key of a stage, none where it takes its miss action without reading its table. -/
def State.stageKey (s : State) (st : Stage) (p : Packet) : Option Bytes :=
  if s.absentMiss st p then none else buildKey p (s.builder p st.builder) (tableWidth st.table)

/-- The stage of a packet: its key, its table, its actions. -/
def runStage (x : StageIn) (st : Stage) (id : Nat) (p : Packet) (s : State) : State :=
  match st.table, s.stageKey st p with
  | .none, some _ => stageActs x st p id st.onHit s
  | .none, none => stageActs x st p id st.onMiss s
  | .asa _ _, none => stageActs x st p id st.onMiss (setPrev id 0 s)
  | _, none => withWord x st p id 0xFFFFFF s
  | .stencil sid, some key =>
    match stencilLookup p.pipe sid key x s with
    | (s, none) => leaveHole id s
    | (s, some w) => withWord x st p id w s
  | .label, some key => emStage x st id p 0 key s
  | .host, some key => emStage x st id p 1 key s
  | .mac, some key => emStage x st id p (2 + p.pipe) key s
  | .asa t w, some key => asaStage x st p id t w key s

/-- A packet's next stage (R66, R126): it waits while its pair sleeps, and, where the stage reads matcher results, while
a scan runs. A programme without stages lets the packet through. -/
def pipelineStage (id : Nat) (x : StageIn) (s : State) : State :=
  match s.pkt id with
  | none => s
  | some p =>
    match p.stage with
    | none => s
    | some n =>
      if p.place == .pipe && s.pairAwake p.pipe && !s.pwr.tripped then
        match (s.prog p.bank p.pipe).stages[n]? with
        | none => leavePipe id p s
        | some st =>
          if st.readsPpm && p.scan.isSome then s
          else withPlateWords id p x.reads (runStage x st id p) s
      else s

def execPipelineStage (pkt : Nat) (x : StageIn) (s : State) : Res := guardWf true (pipelineStage pkt x s)

end Sys2Proof.Machine
end

