-- ==== Sys2Proof/Machine/Plates.lean ====
section
/-! DEFINITION. The plate controller (R40 to R81, R107, R108, R111, R134, R550, R551): loading and checking a plate, the
two banks, swaps, quiesce, and errors in the plate store. -/

namespace Sys2Proof.Machine

/-! ### Bank states (R54, R55) -/

namespace Pb
def empty : Nat := 0
def loading : Nat := 1
def verifying : Nat := 2
def proof : Nat := 3
def live : Nat := 4
def draining : Nat := 5
def invalid : Nat := 6
end Pb

def State.bankState (s : State) (b : Nat) : Nat := s.fld (R.plateBank b) F.plateBankState
def State.bankGen (s : State) (b : Nat) : Nat := s.fld (R.plateBank b) F.plateBankGen

/-- A bank that holds a checked plate. -/
def State.holdsPlate (s : State) (b : Nat) : Bool := 3 ≤ s.bankState b && s.bankState b ≤ 5

/-- Two banks have the same carving and pipeline roles (R67). -/
def State.carvingMatch (s : State) (b : Nat) : Bool :=
  match s.plate.live with
  | none => false
  | some l =>
    if b = l then true
    else match s.holdsPlate b, (s.bank b).code, (s.bank l).code with
      | true, some x, some y => x.carving == y.carving && x.progs.map (·.role) == y.progs.map (·.role)
      | _, _, _ => false

/-- CARVING_MATCH of both banks follows. -/
def plateRefresh (s : State) : State :=
  forEach [0, 1] (fun b s => s.setFld (R.plateBank b) F.plateBankCarvingMatch (b2n (s.carvingMatch b))) s

/-- The registers that show a bank's plate: from its header, or 0 while it holds none. -/
def plateShow (b : Nat) (hdr : Bytes) (s : State) : State :=
  let s := s.setFld (R.plateBank b) F.plateBankMetaEmit (leAt 0x28 2 hdr)
  (s.wr (R.plateId b) (wordAt 0 (slice 0x18 8 hdr))).wr (R.plateVer b) (wordAt 0 (slice 0x20 8 hdr))

/-- A bank enters a state. LOADING and EMPTY raise GEN; a bank that holds no checked plate shows none. -/
def bankTo (b st : Nat) (s : State) : State :=
  let s := s.setFld (R.plateBank b) F.plateBankState st
  let s := doIf (st == Pb.empty || st == Pb.loading)
    (fun s => s.setFld (R.plateBank b) F.plateBankGen ((s.bankGen b + 1) % 65536)) s
  let s := doIf (st == Pb.empty || st == Pb.loading || st == Pb.invalid)
    (fun s => plateShow b [] (setBank b { emptyBank with byUpd := (s.bank b).byUpd } s)) s
  plateRefresh s

/-! ### The limits of the sections (check 12) -/

/-- A cycle of NO_HEADER states is left: states reachable over NO_HEADER states only (R111). -/
def graphNexts (e : Bytes) : List Nat :=
  ([0, 1, 2, 3, 4].filter (fun i => nbit (byteAt (0x14 + 8 * i + 5) e) 0 && !nbit (byteAt (0x14 + 8 * i + 5) e) 1)).map
    (fun i => byteAt (0x14 + 8 * i + 4) e) ++ (if gDefaultAccept e then [] else [byteAt 0x0D e])

/-- Remove, round by round, the NO_HEADER states none of whose branches leads to one still listed. -/
def peel (g : Bytes) : Nat → List Nat → List Nat
  | 0, l => l
  | n + 1, l => peel g n (l.filter (fun st => (graphNexts (graphState g st)).any l.contains))

/-- No cycle consists of NO_HEADER states only. -/
def noBareCycle (g : Bytes) (n : Nat) : Bool :=
  let bare := (List.range n).filter (fun st => gNoHeader (graphState g st))
  (peel g bare.length bare).isEmpty

/-- A transition with its reserved bits. -/
def transOk (e : Bytes) (n i : Nat) : Bool :=
  let o := 0x14 + 8 * i
  byteAt (o + 5) e < 4 && leAt (o + 6) 2 e == 0 && (!nbit (byteAt (o + 5) e) 0 || byteAt (o + 4) e < n)

/-- A state entry within R108 and R111. -/
def stateEntryOk (g : Bytes) (n st : Nat) : Bool :=
  let e := graphState g st
  let bare := gNoHeader e
  byteAt 1 e < 32 && leAt 2 2 e ≤ 384 && byteAt 4 e ≤ 62 && nbits (byteAt 5 e) 3 2 == 0 && byteAt 8 e ≤ 62 &&
    byteAt 0x0C e ≤ 252 && leAt 0x0E 2 e ≤ 384 && leAt 0x3C 4 e == 0 && byteAt 0x0D e < n &&
    [0, 1, 2, 3, 4].all (transOk e n) &&
    !(bare && (gInner e || gFragV4 e || gFragV6 e || leAt 6 2 e != 0 || leAt 0x0A 2 e != 0)) &&
    !(gFragV4 e && gFragV6 e) && (leAt 6 2 e != 0 || leAt 0x0E 2 e ≤ leAt 2 2 e)

/-- A PARSE_GRAPH section (R107, R108, R111). -/
def graphOk (g : Bytes) : Bool :=
  let n := leAt 0 2 g
  1 ≤ n && n ≤ 256 && g.length == 64 + 64 * n && byteAt 2 g < n && byteAt 3 g < n && byteAt 4 g < n &&
    byteAt 5 g < 3 && byteAt 6 g < 3 && allZero (slice 8 56 g) && (List.range n).all (stateEntryOk g n) &&
    noBareCycle g n

/-- An extract within R121. -/
def extractOk (x : Extract) : Bool :=
  x.src ≤ 4 && x.hdrType < 256 && x.occurrence < 32 && (x.layer ≤ 3 || x.layer == 7) &&
    (if x.src = 4 then x.bitOffset < 65536 && x.bitWidth ≤ 16 else x.bitOffset ≤ 3071) &&
    1 ≤ x.bitWidth && x.bitWidth ≤ 128

/-- Total width of a builder. -/
def builderWidth (xs : List Extract) : Nat := (xs.map (·.bitWidth)).sum

/-- The builders of a plate (R41, R121, R122). -/
def buildersOk (c : PlateCode) : Bool :=
  c.builders.length ≤ 64 && c.builders.all (fun xs =>
    1 ≤ xs.length && xs.length ≤ 32 && xs.all extractOk && builderWidth xs ≤ 640) &&
  c.progs.all (fun g => g.stages.all (fun st =>
    match st.table with
    | .none => true
    | t => builderWidth (c.builders.getD (st.builder.getD 64) []) ≤ tableWidth t))

/-- The stage programmes (R41, R42). -/
def progsOk (c : PlateCode) : Bool :=
  c.progs.length == 16 && c.progs.all (fun g => g.role ≤ 2 && g.stages.length ≤ 32) &&
    c.progs.any (fun g => g.role == 1) && c.progs.any (fun g => g.role == 2)

/-- The most banks that a carving code may have (R134). -/
def maxBanks (code : Nat) : Nat :=
  match code with
  | 1 => 96
  | 2 => 16
  | 3 => 64
  | 4 => 16
  | 5 => 1
  | 6 => 32
  | _ => 4

/-- The carving (R41, R134). -/
def carvingOk (c : PlateCode) : Bool :=
  c.carving.length == 160 && c.carving.all (fun k => k ≤ 6 || (16 ≤ k && k < 32)) &&
    c.carving.all (fun k => k == 0 || c.carving.countP (· == k) ≤ maxBanks k)

/-- Edit templates and class maps (R41). -/
def editsOk (c : PlateCode) : Bool :=
  c.templates.length ≤ 4096 && c.templates.all (fun t => t.1 ≤ 128 && t.2 ≤ 64) && c.classMaps ≤ 64

/-- META_EMIT and META_ACCEPT of a header (R44, R46). -/
def metaEmitOf (b : Bytes) : Nat := leAt 0x28 2 b
def metaAccOf (b : Bytes) : List Nat := ([leAt 0x2A 2 b, leAt 0x2C 2 b, leAt 0x2E 2 b]).filter (· != 0)

/-- An extract descriptor of 8 bytes (R121); none where a reserved bit is set or SRC names no source. -/
def extractOf (b : Bytes) : Option Extract :=
  let src := byteAt 0 b
  if src % 8 ≤ 4 && nbits src 6 3 == 0 && byteAt 3 b == 0 && byteAt 7 b == 0 && b.length == 8 then
    some { src := src % 8, absentMiss := nbit src 7, hdrType := byteAt 1 b, occurrence := byteAt 2 b % 32,
           layer := byteAt 2 b / 32, bitOffset := leAt 4 2 b, bitWidth := byteAt 6 b }
  else none

/-- The plate code that Bibasyn's framing and the descriptors of R121 give. -/
def decodePlate (x : PlateRaw) : Option PlateCode :=
  (x.builders.mapM (fun (l : List Bytes) => l.mapM extractOf)).map (fun bs =>
    { progs := x.progs, builders := bs, carving := x.carving, templates := x.templates, classMaps := x.classMaps,
      editCode := x.editCode, classCode := x.classCode })

/-- The decoded sections of an image (R549). -/
def codeOfImage (b : Bytes) : Option PlateCode :=
  let progs := (List.range 16).flatMap (fun i =>
    match (imgSecs b).find? (fun x => x.type == 3 && x.inst == i) with
    | some x => secBytes b x
    | none => [])
  (Config.plateCode (secOf b 2) progs (secOf b 4) (secOf b 5) (secOf b 6)).bind decodePlate

/-- Check 12 (R41, R42, R44). -/
def plateLimitsOk (b : Bytes) : Bool :=
  allZero (slice 0x30 16 b) && metaEmitOf b != 0 && (metaAccOf b).contains (metaEmitOf b) && graphOk (secOf b 1) &&
    (secOf b 0x0F).length ≤ 4096 &&
    (match codeOfImage b with
     | some c => buildersOk c && progsOk c && carvingOk c && editsOk c
     | none => false)

/-- The checks 10 to 12 on a whole image (R51). -/
def plateVerifyChecks (k : KeySet) (b : Bytes) : List (Bool × Fail) :=
  imgSigChecks k b ++ [(plateLimitsOk b, (Code.length, 0x0C))]

/-- A checked plate takes its place in a bank, which enters PROOF. -/
def plateProof (b : Nat) (img : Bytes) (s : State) : State :=
  let k : PlateBank := { emptyBank with image := img, metaAcc := metaAccOf img, graph := secOf img 1, code := codeOfImage img }
  bankTo b Pb.proof (plateShow b img (setBank b k s))

/-! ### LOAD (R51 to R53, R58 to R62) -/

/-- The plate load has ended without a proof (R53). -/
def plateFail (b : Nat) (f : Fail) (s : State) : State :=
  complete .plate f.1 f.2 (bankTo b Pb.invalid { s with plate := { s.plate with loading := none } })

/-- Check 1. -/
def plateArgsOk (s : State) : Bool :=
  s.fld R.plateArg0 F.plateArg0Addr % 64 == 0 && s.fld R.plateArg1 F.plateArg1Length % 64 == 0 &&
    s.fld R.plateArg1 F.plateArg1Length ≤ 8389120

/-- LOAD: the bank enters LOADING; the arguments are taken, and check 1 is made before any read. -/
def plateLoad (b : Nat) (s : State) : State :=
  let s := bankTo b Pb.loading { s with plate := { s.plate with
    loading := some b, len := s.fld R.plateArg1 F.plateArg1Length } }
  if plateArgsOk s then s else plateFail b (Code.length, 0x04) s

/-- ABORT: the bank becomes EMPTY. -/
def plateAbort (b : Nat) (s : State) : State :=
  complete .plate Code.ok 0 (bankTo b Pb.empty { s with plate := { s.plate with loading := none } })

/-- A SWAP that meets R68 waits for its swap point. -/
def plateSwap (b : Nat) (s : State) : State := { s with plate := { s.plate with swapTo := some b } }

/-- The checks of R62 with their details; the target's states by opcode (R60, R61). DESIGN CHOICE: DETAIL of a completion
for which no rule names one is 0; log 149. -/
def plateChecks (s : State) (op b gen : Nat) : List (Bool × Fail) :=
  let st := s.bankState b
  let liveEmit := match s.plate.live with
    | some l => s.fld (R.plateBank l) F.plateBankMetaEmit
    | none => 0
  [(1 ≤ op && op ≤ 3, (Code.notfound, 0)), (gen == s.bankGen b, (Code.staleBank, 0)),
   (st != Pb.draining && !(s.bank b).byUpd, (Code.bankBusy, 0)),
   (if op = 1 then st == Pb.empty || st == Pb.invalid
    else if op = 2 then st == Pb.proof
    else st == Pb.loading || st == Pb.verifying || st == Pb.proof, (Code.notfound, 0)),
   (op != 2 || s.plate.live.isNone || (s.bank b).metaAcc.contains liveEmit, (Code.incompatible, 0x0D)),
   (op != 2 || s.carvingMatch b || s.fld R.plateQstat F.plateQstatQuiesced == 0xFFFF, (Code.quiesceRequired, 0x0E))]

/-- Perform an accepted plate command. -/
def platePerform (op b gen : Nat) (s : State) : State :=
  if op = 1 && s.boot.restarting then complete .plate Code.busy 0 s
  else match firstBad (plateChecks s op b gen) with
    | some f => complete .plate f.1 f.2 s
    | none =>
      match op with
      | 1 => plateLoad b s
      | 2 => plateSwap b s
      | _ => plateAbort b s

/-- The one command that is accepted while BUSY: an ABORT of the load in progress (R58). -/
def abortsLoad (s : State) (op b gen : Nat) : Bool := op == 3 && s.plate.loading == some b && gen == s.bankGen b

/-- A write to PLATE_CMD that the map let through: the plate right (R59), then the life of a command. -/
def plateCommand (fn : Fn) (p : Nat) (w : Word) (s : State) : State :=
  let op := getF w F.plateCmdOpcode
  let b := getF w F.plateCmdBank
  let gen := getF w F.plateCmdGen
  if !s.right p Right.plate then denied fn R.plateCmd 2 s
  else if s.busy .plate && abortsLoad s op b gen then plateAbort b (accept .plate op p s)
  else issue .plate op p (platePerform op b gen) s

def plateIssue (fn : Fn) (op b gen : Nat) (s : State) : State :=
  access fn R.plateCmd 1 (fun p _ _ s =>
    plateCommand fn p (setF (setF (setF 0 F.plateCmdOpcode op) F.plateCmdBank b) F.plateCmdGen gen) s) s

def execPlateLoad (fn : Fn) (bank gen : Nat) (s : State) : Res :=
  guardWf (fnOk fn && bank < 2 && gen < 65536) (plateIssue fn 1 bank gen s)
def execPlateSwap (fn : Fn) (bank gen : Nat) (s : State) : Res :=
  guardWf (fnOk fn && bank < 2 && gen < 65536) (plateIssue fn 2 bank gen s)

/-- Bytes of the image arrive: the checks that they decide are made; with the last byte the bank enters VERIFYING, or
fails where the steward restarts (R52, R550). -/
def plateData (d : Dma) (storeOk : Bool) (s : State) : State :=
  match s.plate.loading with
  | none => s
  | some b =>
    if s.bankState b != Pb.loading then s
    else if !storeOk then plateFail b (Code.eccUncorrectable, 0x11) (s.inc R.plateEccUncorr)
    else match d with
      | .timeout => plateFail b (Code.timeout, 0x0F) s
      | .poison => plateFail b (Code.eccUncorrectable, 0x0F) s
      | .data x =>
        let len := s.plate.len
        let img := ((s.bank b).image ++ x).take len
        let s := setBank b { s.bank b with image := img } s
        match arrivedFail plateKind len img with
        | some f => plateFail b f s
        | none =>
          if img.length < len then s
          else if s.boot.restarting then plateFail b (Code.timeout, 0x10) s
          else bankTo b Pb.verifying s

/-- The steward has verified the signature: checks 10 to 12 decide between PROOF and INVALID. -/
def plateVerify (s : State) : State :=
  match s.plate.loading with
  | none => s
  | some b =>
    if s.bankState b == Pb.verifying && !s.boot.restarting then
      let img := (s.bank b).image
      match firstBad (plateVerifyChecks s.upd.cfg.plateKeys img) with
      | some f => plateFail b f s
      | none => complete .plate Code.ok 0 (plateProof b img { s with plate := { s.plate with loading := none } })
    else s

/-! ### Swaps (R63 to R77) -/

/-- Banks of a code in a carving, in order. -/
def banksWith (carving : List Nat) (code : Nat) : List Nat :=
  (List.range carving.length).filter (fun b => carving.getD b 0 == code)

/-- The index that an entry has after a change of carving; none where its bank was cleared (R76). -/
def remapIdx (old new : List Nat) (code per i : Nat) : Option Nat :=
  match (banksWith old code)[i / per]? with
  | none => none
  | some b =>
    if new.getD b 0 = code then
      ((banksWith new code).findIdx? (· == b)).map (fun k => k * per + i % per)
    else none

/-- The entries of a table after a change of carving. -/
def remapTab {α : Type} (old new : List Nat) (code per : Nat) (m : SMap α) : SMap α :=
  m.foldl (fun t e =>
    match remapIdx old new code per e.1 with
    | some i => smapInsert i e.2 t
    | none => t) []

/-- The carving code of an exact-match table, and its entries per bank. -/
def emCode (t : Nat) : Nat := if t = 0 then 2 else if t = 1 then 3 else 16 + (t - 2)
def emBankEntries (t : Nat) : Nat := if t = 1 then 32768 else 65536

/-- The marks on entries follow their banks. -/
def remapMarks (old new : List Nat) (l : List (Nat × Nat × Nat)) : List (Nat × Nat × Nat) :=
  let go := fun (code per : Nat) (x : Nat × Nat × Nat) => (remapIdx old new code per x.2.2).map (fun i => (x.1, x.2.1, i))
  l.filterMap (fun x =>
    match x.1 with
    | 1 => go 1 131072 x
    | 6 => go 4 65536 x
    | 7 => go 5 131072 x
    | 8 => go 6 262144 x
    | _ => some x)

/-- Every table bank whose type changes is cleared; the others keep their contents (R76). DESIGN CHOICE: the MAC table of each
pipeline counts as a type of its own, so a bank that passes from one to another is cleared; log 162. -/
def carve (old new : List Nat) (s : State) : State :=
  let t := s.tbl
  { s with tbl := { t with
      words := remapTab old new 1 131072 t.words
      nextHop := remapTab old new 4 65536 t.nextHop
      group := remapTab old new 5 131072 t.group
      member := remapTab old new 6 262144 t.member
      em := (t.em.map (fun e => (e.1, remapTab old new (emCode e.1) (emBankEntries e.1) e.2))).filter (fun e => e.2 != [])
      bad := remapMarks old new t.bad
      told := remapMarks old new t.told
      visited := [], scrubbed := [] } }

/-- The carving of a bank. -/
def State.carvingOf (s : State) (b : Option Nat) : List Nat :=
  match b.bind (fun b => (s.bank b).code) with
  | some c => c.carving
  | none => []

/-- PLATE_PIPE_n of the new live bank. -/
def showPipes (b : Nat) (s : State) : State :=
  forEach (List.range 16) (fun n s =>
    let g := s.prog b n
    s.wr (R.platePipe n) (setF (setF 0 F.platePipeRole g.role) F.platePipeStages g.stages.length)) s

/-- Bank `b` becomes the live bank, with the tables carved for it. -/
def goLive (b : Nat) (s : State) : State :=
  let old := s.carvingOf s.plate.live
  let new := s.carvingOf (some b)
  let s := { s with plate := { s.plate with live := some b } }
  let s := bankTo b Pb.live (showPipes b s)
  doIf (old != new) (carve old new) s

/-- A drain has ended: the old bank enters PROOF, or INVALID where a word of it is bad (R72, R79). -/
def drainDone (b : Nat) (s : State) : State :=
  let s := bankTo b (if (s.bank b).badWords.isEmpty then Pb.proof else Pb.invalid) s
  let s := s.setFld R.plateDrainNs F.plateDrainNsDrainNs ((s.now - s.plate.swapAt) / 10)
  let s := s.setFld R.plateStatus F.plateStatusDrained 1
  doneIrq .plate s

/-- Every pair to which the proof gives a role is awake (R477). -/
def State.proofAwake (s : State) (b : Nat) : Bool :=
  (List.range 16).all (fun n => (s.prog b n).role == 0 || s.pairAwake n)

/-- The swap point (R64, R68, R74 to R77). A proof lost before it fails the SWAP (R551). DESIGN CHOICE: QUIESCED is judged
when the SWAP is accepted and not again here, so that the drain of a quiesced swap ends at once even where the host has
cleared PIPE_QUIESCE since; log 150. -/
def swapPoint (s : State) : State :=
  match s.plate.swapTo with
  | none => s
  | some b =>
    if s.bankState b != Pb.proof then
      complete .plate Code.eccUncorrectable 0x11 { s with plate := { s.plate with swapTo := none } }
    else if !s.carvingMatch b && !s.proofAwake b then s
    else
      let hitless := s.carvingMatch b
      let old := s.plate.live
      let s := { s with plate := { s.plate with swapTo := none, swapAt := s.now } }
      let s := match old with
        | some l => bankTo l Pb.draining s
        | none => s
      let s := goLive b s
      let s := (s.wr R.plateSwapTs0 (BitVec.ofNat 64 (stampLo s.now))).wr R.plateSwapTs1 (BitVec.ofNat 64 (stampHi s.now))
      let s := complete .plate Code.ok 0 (s.inc R.plateSwapCount)
      match old with
      | some l => doIf (!hitless) (drainDone l) s
      | none => s

/-- The bank that drains. -/
def State.draining (s : State) : Option Nat := [0, 1].find? (fun b => s.bankState b == Pb.draining)

/-- The packets with a bank's tag that are in a pipeline (R66). -/
def State.tagged (s : State) (b : Nat) : List Nat :=
  (s.pkts.filter (fun e => e.2.place == .pipe && e.2.bank == b)).map (·.1)

/-- The last packet with the old tag has finished (R70, R72). -/
def drainEnd (s : State) : State :=
  match s.draining with
  | none => s
  | some b => doIf (s.tagged b).isEmpty (drainDone b) s

/-- 40 µs after the swap point the packets left are dropped (R71). -/
def drainOverrun (s : State) : State :=
  match s.draining with
  | none => s
  | some b =>
    if !(s.tagged b).isEmpty && s.plate.swapAt + usT 40 ≤ s.now then
      let s := forEach (s.tagged b) (fun id s => leaveHole id (s.inc R.plateDrainDrop)) s
      drainDone b (report .f 0x04 b .k 0x001 [] s)
    else s

/-! ### Errors in a stored plate (R78, R79, R551) -/

/-- The scrubber finds an error in a word of a bank. DESIGN CHOICE: a word already marked bad counts again at each visit;
log 37. -/
def plateScrub (b word : Nat) (ecc : Ecc) (s : State) : State :=
  let st := s.bankState b
  match ecc with
    | .ok | .badCheck => s
    | .corr => report .f 0x04 b .c 0x002 [] (s.inc R.plateEccCorr)
    | .uncorr =>
      let s := s.inc R.plateEccUncorr
      if st == Pb.empty || st == Pb.invalid then s
      else if st == Pb.loading || st == Pb.verifying then
        if s.plate.loading == some b then plateFail b (Code.eccUncorrectable, 0x11) s else bankTo b Pb.invalid s
      else if st == Pb.proof then bankTo b Pb.invalid (report .f 0x04 b .k 0x003 [] s)
      else
        let k := s.bank b
        if k.badWords.contains word then s else setBank b { k with badWords := k.badWords ++ [word] } s

/-! ### Quiesce (R75) -/

/-- A pipeline asked to quiesce that holds no packet reports QUIESCED. -/
def pipeQuiet (n : Nat) (s : State) : State :=
  doIf (s.quiescing n && !s.pipeHolds n)
    (fun s => s.setFld R.plateQstat F.plateQstatQuiesced (s.fld R.plateQstat F.plateQstatQuiesced ||| 2 ^ n)) s

/-- After a write of PIPE_QUIESCE, a pipeline no longer asked reports QUIESCED no more. -/
def quiesceEffect (s : State) : State :=
  s.setFld R.plateQstat F.plateQstatQuiesced
    (s.fld R.plateQstat F.plateQstatQuiesced &&& s.fld R.plateCtl F.plateCtlPipeQuiesce)

def execPipelineQuiesced (pipe : Nat) (s : State) : Res := guardWf (pipe < 16) (pipeQuiet pipe s)

end Sys2Proof.Machine
end

