-- ==== Sys2Proof/Machine/Bpm.lean ====
section
/-! DEFINITION. The buffer pool manager (R199 to R224): pages and their records, quotas, allocation, freeing and
references, stacks out of service, errors in its memories, its commands. -/

namespace Sys2Proof.Machine

/-! ### Pools, pages and records (R199 to R202) -/

/-- Pages of a pool. -/
def poolSize (k : Nat) : Nat :=
  match k with
  | 0 => 2 ^ 28
  | 1 => 2 ^ 18
  | 2 => 2 ^ 16
  | _ => 0

/-- Bytes of a page. -/
def pageBytes (k : Nat) : Nat := if k = 0 then 512 else 256

/-- The key of a page in the map of pages. -/
def pageKey (pool page : Nat) : Nat := 2 ^ 28 * pool + page

/-- The first page of the stack, or of the on-die pool, that a page lies in. -/
def spaceBase (pool page : Nat) : Nat := if pool = 0 then 2 ^ 26 * (page / 2 ^ 26) else 0

/-- The place of a page's stack or pool in the list of lost pages. -/
def spaceIdx (pool page : Nat) : Nat := if pool = 0 then page / 2 ^ 26 else 3 + pool

/-- The instance of a memory in error records (R222). -/
def memInst (pool stack : Nat) : Nat := if pool = 0 then 0x100 + stack else 0x103 + pool

def recShared (w : Word) : Bool := bitOf w 63
def recOwner (w : Word) : Nat := getF w (62, 58)
def recRef (w : Word) : Nat := getF w (57, 36)
def recLast (w : Word) : Bool := bitOf w 27
def recNext (w : Word) : Nat := getF w (25, 0)

/-- The record of a packet's only page. -/
def newRec (owner : Nat) : Word := setBit (setF 0 (62, 58) owner) 27 true

def State.page (s : State) (pool page : Nat) : Option PageSt := smapFind (pageKey pool page) s.bpm.pages

/-- The record of a page in use whose record can be read. -/
def State.record (s : State) (pool page : Nat) : Option Word :=
  (s.page pool page).bind (fun x => match x with
    | .used w => some w
    | .unreadable => none
    | .lost => none)

def setPage (pool page : Nat) (p : PageSt) (s : State) : State :=
  { s with bpm := { s.bpm with pages := smapInsert (pageKey pool page) p s.bpm.pages } }

def erasePage (pool page : Nat) (s : State) : State :=
  { s with bpm := { s.bpm with pages := smapErase (pageKey pool page) s.bpm.pages } }

/-- The page that NEXT of a record names. -/
def nextPage (pool page : Nat) (w : Word) : Nat := spaceBase pool page + recNext w

/-! ### Quantities (R204, R206, R216) -/

def State.stackState (s : State) (i : Nat) : Nat := s.fld (R.bpmStack i) F.bpmStackState

/-- Lost pages of a stack or on-die pool. -/
def State.lostOf (s : State) (i : Nat) : Nat := s.bpm.lostStk.getD i 0

/-- IN_SERVICE of a pool. -/
def State.inService (s : State) (k : Nat) : Nat :=
  if k = 0 then (([0, 1, 2, 3].filter (fun i => s.stackState i == 0)).map (fun i => 2 ^ 26 - s.lostOf i)).sum
  else poolSize k - s.lostOf (3 + k)

def State.usedOf (s : State) (r k : Nat) : Nat := s.fld (R.bpmUsed r k) F.bpmUsedUsed
def State.resOf (s : State) (r k : Nat) : Nat := s.fld (R.bpmQuota r k) F.bpmQuotaRes
def State.smaxOf (s : State) (r k : Nat) : Nat := s.fld (R.bpmQuota r k) F.bpmQuotaSmax

/-- Requester r's use of the shared space. -/
def State.sharedUse (s : State) (r k : Nat) : Nat := s.usedOf r k - s.resOf r k

def sumReq (f : Nat → Nat) : Nat := ((List.range 23).map f).sum

/-- FREE of a pool: what is in service and not used, which keeps the equation of R206's example in every state; in the
scheduled pool, what no calendar bank reserves. -/
def State.freeOf (s : State) (k : Nat) : Nat :=
  if k = 2 then s.inService 2 - (s.bpm.schedRes.map (·.2)).sum
  else s.inService k - sumReq (fun r => s.usedOf r k)

/-- SHARED_FREE of a pool (R204). -/
def State.sharedFree (s : State) (k : Nat) : Nat :=
  min (s.freeOf k) (s.inService k - sumReq (fun r => s.resOf r k) - sumReq (fun r => s.sharedUse r k))

/-- A change of a stack's state, or DONE, raises the interrupt where IRQ_EN is 1. -/
def stackIrq (s : State) : State := doIf (s.flag R.bpmCfg F.bpmCfgIrqEn) (raiseBlock 7 7) s

/-- A RETIRING stack of which no page is used becomes RETIRED (R217). -/
def retireCheck (s : State) : State :=
  forEach [0, 1, 2, 3] (fun i s =>
    if s.stackState i == 1 && s.fld (R.bpmStack i) F.bpmStackUsed == 0 then
      stackIrq (s.setFld (R.bpmStack i) F.bpmStackState 2)
    else s) s

/-- The pool registers follow the quantities; MIN_SHARED_FREE keeps the lowest SHARED_FREE. -/
def bpmRefresh (s : State) : State :=
  let s := retireCheck s
  let s := forEach [0, 1, 2] (fun k s =>
    (s.setFld (R.bpmPoolStat k) F.bpmPoolStatInService (s.inService k)).setFld (R.bpmPoolStat k) F.bpmPoolStatFree
      (s.freeOf k)) s
  forEach [0, 1] (fun k s =>
    let n := s.sharedFree k
    let s := s.setFld (R.bpmSharedStat k) F.bpmSharedStatSharedFree n
    s.setFld (R.bpmSharedStat k) F.bpmSharedStatMinSharedFree
      (min n (s.fld (R.bpmSharedStat k) F.bpmSharedStatMinSharedFree))) s

/-! ### Allocation (R201, R204, R207 to R210) -/

/-- The lowest page from `lo` on that is not listed. -/
def firstFreeFrom (lo : Nat) : SMap PageSt → Nat
  | [] => lo
  | (k, _) :: m => if k < lo then firstFreeFrom lo m else if k = lo then firstFreeFrom (lo + 1) m else lo

/-- The lowest free page of a stack or pool (R207). -/
def State.firstFree (s : State) (pool base size : Nat) : Option Nat :=
  let k := firstFreeFrom (pageKey pool base) s.bpm.pages
  if k < pageKey pool base + size then some (k - 2 ^ 28 * pool) else none

/-- The lowest free page of a stack. -/
def State.stackFree (s : State) (i : Nat) : Option Nat := s.firstFree 0 (2 ^ 26 * i) (2 ^ 26)

/-- The stack of an HBM packet's first page: the next in rotation that is IN_SERVICE and has a free page (R201). -/
def State.nextStack (s : State) : Option Nat :=
  ((List.range 4).map (fun i => (s.bpm.lastStk + 1 + i) % 4)).find? (fun i =>
    s.stackState i == 0 && (s.stackFree i).isSome)

/-- The quota rule of R204. -/
def State.quotaAllows (s : State) (r k : Nat) : Bool :=
  (s.usedOf r k < s.resOf r k && 0 < s.freeOf k) || (s.sharedUse r k < s.smaxOf r k && 0 < s.sharedFree k)

/-- The page a request would get: a first page, or one for the packet of a head page. -/
def State.pageFor (s : State) (pool : Nat) (head : Option Nat) : Option Nat :=
  if pool = 0 then
    if s.bpm.stopped then none
    else match head with
      | none => s.nextStack.bind s.stackFree
      | some h => if s.stackState (h / 2 ^ 26) ≤ 1 then s.stackFree (h / 2 ^ 26) else none
  else if pool = 1 then s.firstFree 1 0 (2 ^ 18)
  else none

/-- The last page of a packet's chain. -/
def State.lastPage (s : State) (pool : Nat) : Nat → Nat → Nat
  | 0, h => h
  | n + 1, h =>
    match s.record pool h with
    | some w => if recLast w then h else s.lastPage pool n (nextPage pool h w)
    | none => h

/-- A granted body page becomes the last of its packet. -/
def linkPage (pool head page : Nat) (s : State) : State :=
  let l := s.lastPage pool s.bpm.pages.length head
  match s.record pool l with
  | some w => setPage pool l (.used (setF (setBit w 27 false) (25, 0) (page - spaceBase pool page))) s
  | none => s

def addUsed (r pool page : Nat) (s : State) : State :=
  let s := s.setFld (R.bpmUsed r pool) F.bpmUsedUsed (s.usedOf r pool + 1)
  doIf (pool == 0) (fun s => s.setFld (R.bpmStack (page / 2 ^ 26)) F.bpmStackUsed
    (s.fld (R.bpmStack (page / 2 ^ 26)) F.bpmStackUsed + 1)) s

/-- A page request of requester r: the state after it, and the page where it is granted. -/
def grantPage (r pool : Nat) (head : Option Nat) (s : State) : State × Option Nat :=
  match s.quotaAllows r pool, s.pageFor pool head with
  | true, some page =>
    let s := match head with
      | some h => linkPage pool h page s
      | none => doIf (pool == 0) (fun s => { s with bpm := { s.bpm with lastStk := page / 2 ^ 26 } }) s
    let s := addUsed r pool page (setPage pool page (.used (newRec r)) s)
    (bpmRefresh (s.inc (R.bpmReqCtr r 0)), some page)
  | _, _ => (s.inc (R.bpmReqCtr r 2), none)

/-! ### Stored packets (R209, R210, R219) -/

def State.store (s : State) (id : Nat) : Option Stored := smapFind id s.q.stored

def setStore (id : Nat) (k : Stored) (s : State) : State :=
  { s with q := { s.q with stored := smapInsert id k s.q.stored } }

/-- What has arrived on the T-die of a packet that is handed over in pieces: all but what still crosses the bridge. -/
def State.here (s : State) (id : Nat) (p : Packet) : Nat := p.bytes.length - s.brFT.owed id

/-- What is kept of a packet: while its body arrives, what has arrived as far as its pages reach; a body cut short keeps what
it had then (R210). -/
def State.keptBytes (s : State) (id : Nat) : Bytes :=
  match s.store id, s.pkt id with
  | some k, some p =>
    if k.tailIn || k.cut then k.bytes else p.bytes.take (min (s.here id p) (k.pages * pageBytes k.pool))
  | some k, none => k.bytes
  | none, _ => []

/-- The page lies on a FAILED stack: what is read there is poisoned, and writes are discarded (R219). -/
def State.onFailed (s : State) (pool page : Nat) : Bool := pool == 0 && s.stackState (page / 2 ^ 26) == 3

/-- What is read of a stored packet: what is kept of it, and poisoned data of a FAILED stack (R219). -/
def State.storedBytes (s : State) (id : Nat) : Bytes :=
  match s.store id with
  | some k =>
    let b := s.keptBytes id
    if s.onFailed k.pool k.head then (List.range b.length).map (fun i => Config.poison k.head i) else b
  | none => []

/-- Change what is stored of the packet with a given head page. -/
def onStored (pool head : Nat) (f : Nat → Stored → Stored) (s : State) : State :=
  { s with q := { s.q with stored := s.q.stored.map (fun e =>
      if e.2.pool == pool && e.2.head == head then (e.1, f e.1 e.2) else e) } }

/-- A body of which no more is kept: it has a stomp, and the rest is discarded; the pages already taken are kept (R210). -/
def State.cutShort (s : State) (id : Nat) (k : Stored) : Stored :=
  { k with stomp := true, cut := true, bytes := s.keptBytes id }

/-- A refused body page cuts the packet short (R210). -/
def cutStored (pool head : Nat) (s : State) : State := onStored pool head s.cutShort s

/-! ### Stacks out of service (R217 to R221, R235) -/

/-- Some stack is not IN_SERVICE. -/
def State.stackOut (s : State) : Bool := [0, 1, 2, 3].any (fun i => s.stackState i != 0)

/-- FB_ACTIVE follows MODE and AUTO (R235). -/
def fbRefresh (s : State) : State :=
  s.setFld R.qAdmitCfg F.qAdmitCfgFbActive
    (b2n (s.flag R.qAdmitCfg F.qAdmitCfgMode || s.flag R.qAdmitCfg F.qAdmitCfgAuto))

/-- A stack leaves IN_SERVICE: fallback admission, whose entry is counted where AUTO was not yet set (R235); a second one
out stops the HBM pool. -/
def stackLeaves (i : Nat) (s : State) : State :=
  let second := [0, 1, 2, 3].any (fun j => j != i && s.stackState j != 0)
  let s := doIf (!s.flag R.qAdmitCfg F.qAdmitCfgAuto) (State.inc (R.qDevCtr 21)) s
  let s := fbRefresh (s.setFld R.qAdmitCfg F.qAdmitCfgAuto 1)
  if second then
    report .t 0x10 (0x100 + i) .f 0x005 [] { s with bpm := { s.bpm with stopped := true } }
  else s

/-- A stack changes its state. -/
def setStack (i st : Nat) (s : State) : State :=
  let was := s.stackState i
  if was = st then s
  else
    let s := doIf (was == 0) (stackLeaves i) s
    let s := s.setFld (R.bpmStack i) F.bpmStackState st
    let s := doIf (st == 3) (report .t 0x10 (0x100 + i) .k 0x004 []) s
    bpmRefresh (stackIrq s)

/-- A stack fails (R219): a packet being written to it is stomped and holds no more than it has, and what is read of any packet
on it from now on is poisoned, so a packet that is being sent ends with a stomp (R254); log 64. -/
def failStack (i : Nat) (s : State) : State :=
  let t := setStack i 3 s
  { t with q := { t.q with stored := t.q.stored.map (fun e =>
      if e.2.pool == 0 && e.2.head / 2 ^ 26 == i then
        (e.1, { e.2 with stomp := true, cut := e.2.cut || !e.2.tailIn, bytes := s.keptBytes e.1 })
      else e) } }

/-- `n` more reads on a stack were uncorrectable: counted in the present second of timebase time (R217). -/
def countUnc (i n : Nat) (s : State) : State :=
  let sec := s.now / ticksPerSec
  let l := if s.bpm.uncSec = sec then s.bpm.unc else [0, 0, 0, 0]
  { s with bpm := { s.bpm with uncSec := sec, unc := l.set i (l.getD i 0 + n) } }

/-- The uncorrectable reads of a stack in this second reach FAIL_THRESH, or its PHY link is lost: it fails (R217). -/
def stackFailed (i : Nat) (phyLost : Bool) (uncorr : Nat) (s : State) : State :=
  let s := countUnc i uncorr s
  if s.stackState i ≤ 1 && (phyLost || s.fld R.bpmCfg F.bpmCfgFailThresh ≤ s.bpm.unc.getD i 0) then failStack i s else s

/-- Stack F0 is out of service: routed forwarding stops (R28). -/
def f0Fail (s : State) : State :=
  report .f 0x07 0x3FF .f (Config.f0Code % 2 ^ 14) [] { s with boot := { s.boot with f0Out := true } }

/-- Stacks 0 to 3 are T0 to T3, with the uncorrectable reads of their data since the last command; 4 is F0, whose PHY link
is lost (R28; no row names it, log 24). -/
def execBpmStackFailed (stack : Nat) (phyLost : Bool) (uncorr : Nat) (s : State) : Res :=
  guardWf (stack < 5) (if stack = 4 then doIf (phyLost && !s.boot.f0Out) f0Fail s else stackFailed stack phyLost uncorr s)

/-! ### Page requests (R208 to R210) -/

/-- A requester asks for a first page, or for a body page of the packet with a given head. -/
def pageRequest (r pool : Nat) (body : Option Nat) (s : State) : State :=
  match grantPage r pool body s with
  | (s, some page) =>
    let s := match body with
      | some h => onStored pool h (fun _ k => { k with pages := k.pages + 1 }) s
      | none => s
    s.emit (.pageGrant r pool page)
  | (s, none) =>
    match body with
    | some h => cutStored pool h s
    | none => s

def execPageRequest (r pool : Nat) (body : Option Nat) (s : State) : Res :=
  guardWf (r < 23 && pool < 2 && (match body with | some h => decide (h < poolSize pool) | none => true))
    (pageRequest r pool body s)

/-! ### Freeing (R211 to R215, R219) -/

/-- USED of an owner, and of the stack, drop. -/
def dropUsed (r pool page n : Nat) (s : State) : State :=
  let s := doIf (r < 23) (fun s => s.setFld (R.bpmUsed r pool) F.bpmUsedUsed (s.usedOf r pool - n)) s
  doIf (pool == 0) (fun s => s.setFld (R.bpmStack (page / 2 ^ 26)) F.bpmStackUsed
    (s.fld (R.bpmStack (page / 2 ^ 26)) F.bpmStackUsed - n)) s

/-- Pages are lost until POR_N: counted, and taken off IN_SERVICE once (R215). -/
def losePages (pool page n : Nat) (s : State) : State :=
  let i := spaceIdx pool page
  { (s.bump (R.bpmDevCtr 2) n) with bpm := { s.bpm with lostStk := s.bpm.lostStk.set i (s.lostOf i + n) } }

/-- How a walk ends: the pages freed, whether it was whole, the page after the last one freed, and whether an unreadable
record stopped it. -/
structure Walk where
  freed : Nat
  whole : Bool
  next  : Option Nat
  unread : Bool
  deriving DecidableEq, Repr

/-- A record that cannot be read is met: a read on its stack was uncorrectable (R217). -/
def unreadRead (pool page : Nat) (s : State) : State :=
  doIf (pool == 0 && s.page pool page == some .unreadable) (stackFailed (page / 2 ^ 26) false 1) s

/-- Free the pages of a chain until the count given is reached or the chain ends (R215). -/
def walkFree (pool : Nat) : Nat → Nat → Walk → State → State × Walk
  | 0, _, k, s => (s, k)
  | n + 1, page, k, s =>
    match s.record pool page with
    | some w =>
      let s := erasePage pool page s
      let k := { k with freed := k.freed + 1 }
      if recLast w then (s, { k with whole := n == 0 })
      else if n = 0 then (s, { k with next := some (nextPage pool page w) })
      else walkFree pool n (nextPage pool page w) k s
    | none => (unreadRead pool page s, { k with unread := s.page pool page == some .unreadable })

/-- Pages read on past the count given, without freeing, until LAST, a free page or an unreadable record: their number;
they are marked lost. -/
def walkOn (pool : Nat) : Nat → Nat → State → State × Nat
  | 0, _, s => (s, 0)
  | n + 1, page, s =>
    match s.record pool page with
    | some w =>
      let s := setPage pool page .lost s
      if recLast w then (s, 1)
      else
        let r := walkOn pool n (nextPage pool page w) s
        (r.1, r.2 + 1)
    | none => (unreadRead pool page s, 0)

/-- Free an unshared packet of `count` pages by its chain; without a walk on a FAILED stack (R219). -/
def freeChain (r pool head count : Nat) (s : State) : State :=
  if s.onFailed pool head then bpmRefresh (dropUsed r pool head count s)
  else
    let (s, k) := walkFree pool count head ⟨0, false, none, false⟩ s
    let s := s.bump (R.bpmReqCtr r 1) k.freed
    if k.whole then bpmRefresh (dropUsed r pool head k.freed s)
    else
      let (s, extra) := match k.next with
        | some p => walkOn pool 64 p s
        | none => (s, 0)
      let lost := (count - k.freed) + extra
      let s := losePages pool head lost (dropUsed r pool head (k.freed + lost) s)
      let s := s.inc (R.bpmDevCtr 3)
      bpmRefresh (report .t 0x10 (if k.unread then memInst pool (head / 2 ^ 26) else r) .k 0x003 [] s)

/-- The count of a reference entry. -/
def State.refCount (s : State) (i : Nat) : Nat := smapGet (fun _ => 0) i s.bpm.refs

def setRef (i n : Nat) (s : State) : State :=
  { s with bpm := { s.bpm with refs := smapPut (fun _ => 0) i n s.bpm.refs } }

/-- The lowest free reference entry; one that cannot be read is never handed out (R222). -/
def State.freeRef (s : State) : Nat :=
  ((List.range (s.bpm.refs.length + s.bpm.badRefs.length + 1)).find? (fun i =>
    (smapFind i s.bpm.refs).isNone && !s.bpm.badRefs.contains i)).getD 0

/-- What a FREE, INC or DEC finds at the head page (R213, R214). -/
inductive HeadFind where
  | free | mismatch (owner : Nat) | unreadable | ok (w : Word)
  deriving DecidableEq, Repr

/-- What stands at a head page. DESIGN CHOICE: the record of a page marked lost counts as one that cannot be read; log 63. -/
def State.headFind (s : State) (r pool head : Nat) : HeadFind :=
  if pool = 2 then .mismatch 31
  else match s.page pool head with
    | none => .free
    | some (.used w) => if recOwner w = r then .ok w else .mismatch (recOwner w)
    | some .unreadable => .unreadable
    | some .lost => .unreadable

/-- A rejected operation is counted and recorded. -/
def rejectOp (r head : Nat) (h : HeadFind) (s : State) : State :=
  match h with
  | .free => report .t 0x10 r .k 0x001 [(head, 4), (r, 1)] (s.inc (R.bpmReqCtr r 3))
  | .mismatch o => report .t 0x10 r .k 0x002 [(head, 4), (r, 1), (o, 1)] (s.inc (R.bpmReqCtr r 4))
  | .unreadable => s
  | .ok _ => s

/-- FREE and DEC: a shared packet loses a reference, and goes with the last one; a packet whose count entry cannot be read
stays. On a FAILED stack the record counts as it stood: DESIGN CHOICE, log 153. -/
def bpmRelease (r pool head count : Nat) (s : State) : State :=
  match s.headFind r pool head with
  | .ok w =>
    if !recShared w then freeChain r pool head count s
    else if s.bpm.badRefs.contains (recRef w) then s
    else if s.refCount (recRef w) ≤ 1 then freeChain r pool head count (setRef (recRef w) 0 s)
    else setRef (recRef w) (s.refCount (recRef w) - 1) s
  | .unreadable => freeChain r pool head count s
  | .free => rejectOp r head .free s
  | .mismatch o => rejectOp r head (.mismatch o) s

/-- INC: the state, and whether the reference was taken (R211, R212); the record of a page on a FAILED stack cannot be
read (R214, R219). -/
def bpmInc (r pool head : Nat) (s : State) : State × Bool :=
  match (if s.onFailed pool head && (s.page pool head).isSome then .unreadable else s.headFind r pool head) with
  | .ok w =>
    if !recShared w then
      let i := s.freeRef
      if 4194304 ≤ i then (s.inc (R.bpmDevCtr 0), false)
      else (setRef i 2 (setPage pool head (.used (setF (setBit w 63 true) (57, 36) i)) s), true)
    else if s.bpm.badRefs.contains (recRef w) then (s, false)
    else if 255 ≤ s.refCount (recRef w) then (s.inc (R.bpmDevCtr 1), false)
    else (setRef (recRef w) (s.refCount (recRef w) + 1) s, true)
  | .unreadable =>
    (report .t 0x10 (memInst pool (head / 2 ^ 26)) .k 0x003 [] ((unreadRead pool head s).inc (R.bpmDevCtr 3)), false)
  | .free => (rejectOp r head .free s, false)
  | .mismatch o => (rejectOp r head (.mismatch o) s, false)

def execPageFree (r pool head count : Nat) (s : State) : Res :=
  guardWf (r < 23 && pool < 3 && head < poolSize pool) (bpmRelease r pool head count s)
def execRefInc (r pool head : Nat) (s : State) : Res :=
  guardWf (r < 23 && pool < 3 && head < poolSize pool) (bpmInc r pool head s).1
def execRefDec (r pool head count : Nat) (s : State) : Res :=
  guardWf (r < 23 && pool < 3 && head < poolSize pool) (bpmRelease r pool head count s)

/-! ### Errors in BPM memories (R222) -/

/-- The pages of a leaf word that are free become lost. -/
def loseLeaf (pool base : Nat) (s : State) : State :=
  let free := ((List.range 64).map (base + ·)).filter (fun p => (s.page pool p).isNone)
  let s := forEach free (fun p s => setPage pool p .lost s) s
  losePages pool base free.length s

/-- The packet that a count entry counts: its head. -/
def State.refHead (s : State) (i : Nat) : Option (Nat × Word) :=
  s.bpm.pages.findSome? (fun e =>
    match e.2 with
    | .used w => if recShared w && recRef w == i then some (e.1, w) else none
    | .unreadable => none
    | .lost => none)

/-- The length of a chain. -/
def State.chainLen (s : State) (pool : Nat) : Nat → Nat → Nat
  | 0, _ => 0
  | n + 1, p =>
    match s.record pool p with
    | some w => if recLast w then 1 else 1 + s.chainLen pool n (nextPage pool p w)
    | none => 0

/-- A count entry is lost: its packet stays unfreed, and its pages are lost. -/
def loseRef (i : Nat) (s : State) : State :=
  if s.bpm.badRefs.contains i then s
  else
    let s := { s with bpm := { s.bpm with badRefs := s.bpm.badRefs ++ [i] } }
    let s := match s.refHead i with
      | none => s
      | some (k, w) =>
        let pool := k / 2 ^ 28
        let head := k % 2 ^ 28
        let n := s.chainLen pool s.bpm.pages.length head
        losePages pool head n (dropUsed (recOwner w) pool head n s)
    report .t 0x10 0x106 .k 0x007 [] s

/-- The instance of a BPM memory. -/
def bpmInst (m : BpmMem) : Nat :=
  match m with
  | .summary pool stack => memInst pool stack
  | .leaf pool stack _ => memInst pool stack
  | .count _ => 0x106
  | .record pool page => memInst pool (page / 2 ^ 26)

/-- A scheduled-pool page that a calendar bank reserves. -/
def State.schedPage (s : State) (page : Nat) : Bool := s.bpm.schedRes.any (fun r => r.1 ≤ page && page < r.1 + r.2)

/-- A page of the scheduled pool that has a record: one that a calendar bank reserves. -/
def State.schedPageOf (s : State) (pool page : Nat) : Bool := pool == 2 && s.schedPage page

/-- An error that a BPM memory shows (R222); a record that cannot be read stays so until it is written again. -/
def bpmError (m : BpmMem) (ecc : Ecc) (s : State) : State :=
  match ecc with
  | .ok | .badCheck => s
  | .corr => report .t 0x10 (bpmInst m) .c 0x006 [] (s.inc (R.bpmDevCtr 4))
  | .uncorr =>
    match m with
    | .summary _ _ => report .t 0x10 (bpmInst m) .c 0x006 [] s
    | .leaf pool stack word =>
      bpmRefresh (report .t 0x10 (bpmInst m) .k 0x007 [] (loseLeaf pool ((if pool = 0 then 2 ^ 26 * stack else 0) + 64 * word) s))
    | .count i => bpmRefresh (loseRef i s)
    | .record pool page =>
      let s := doIf (pool == 0) (stackFailed (page / 2 ^ 26) false 1) s
      if (s.record pool page).isSome || s.schedPageOf pool page then setPage pool page .unreadable s else s

/-- The memory named exists. -/
def bpmMemOk (m : BpmMem) : Bool :=
  match m with
  | .summary pool stack => pool < 2 && stack < 4
  | .leaf pool stack word => pool < 2 && stack < 4 && word < (if pool = 0 then 1048576 else 4096)
  | .count i => i < 4194304
  | .record pool page => pool < 3 && page < poolSize pool

def execBpmMemoryError (m : BpmMem) (ecc : Ecc) (s : State) : Res := guardWf (bpmMemOk m) (bpmError m ecc s)

/-! ### Commands (R223) -/

/-- READ_REC. -/
def readRec (p pool page : Nat) (ecc : Ecc) (s : State) : State :=
  let none_ := fun s => complete (.bpm p) Code.notfound 0 (s.wr (R.bpmData p) 0)
  let ok := fun (w : Word) s => complete (.bpm p) Code.ok 0 (s.wr (R.bpmData p) w)
  let bad := complete (.bpm p) Code.eccUncorrectable 0
  if poolSize pool ≤ page then none_ s
  else if pool = 2 then
    if !s.schedPage page then none_ s
    else
      let s := bpmError (.record pool page) ecc s
      if s.page pool page == some .unreadable then bad s else ok (setF 0 (62, 58) 31) s
  else match s.page pool page with
    | none => none_ s
    | some x =>
      if s.onFailed pool page then bad s
      else
        let s := bpmError (.record pool page) ecc s
        match ecc == .uncorr, x with
        | false, .used w => ok w s
        | false, .lost => ok (Config.lostRecord (pageKey pool page)) s
        | false, .unreadable => bad (unreadRead pool page s)
        | true, _ => bad s

/-- READ_REF. -/
def readRef (p i : Nat) (ecc : Ecc) (s : State) : State :=
  let s := bpmError (.count i) ecc s
  if s.bpm.badRefs.contains i then complete (.bpm p) Code.eccUncorrectable 0 s
  else complete (.bpm p) Code.ok 0 (s.wr (R.bpmData p) (BitVec.ofNat 64 (s.refCount i)))

/-- RETIRE (R221). -/
def retireStack (p i : Nat) (s : State) : State :=
  if 4 ≤ i || s.stackState i != 0 then complete (.bpm p) Code.notfound 0 s
  else if s.stackOut then complete (.bpm p) Code.nospace 0 s
  else complete (.bpm p) Code.ok 0 (setStack i 1 s)

/-- RESTORE (R221). -/
def restoreStack (p i : Nat) (s : State) : State :=
  if 4 ≤ i || s.stackState i != 2 then complete (.bpm p) Code.notfound 0 s
  else complete (.bpm p) Code.ok 0 (setStack i 0 s)

def bpmPerform (p op pool i : Nat) (ecc : Ecc) (s : State) : State :=
  match op with
  | 1 => readRec p pool i ecc s
  | 2 => readRef p i ecc s
  | 3 => retireStack p i s
  | _ => restoreStack p i s

/-- ARG names something that a command of an opcode can name (R223). -/
def bpmArgOk (op pool i : Nat) : Bool :=
  match op with
  | 1 => i < poolSize pool
  | 2 => i < 4194304
  | _ => i < 4

/-- An accepted BPM command with the checks of R546; a READ_REC of no page returns DATA 0. -/
def bpmAct (fn : Fn) (p op pool i : Nat) (ecc : Ecc) (s : State) : State :=
  let s := doIf (op == 1 && !bpmArgOk op pool i) (State.wr (R.bpmData p) 0) s
  runChecks (.bpm p) fn [(1 ≤ op && op ≤ 4, Code.notfound), (bpmArgOk op pool i, Code.notfound),
    (s.right p Right.bpm, Code.denied)] (bpmPerform p op pool i ecc) s

/-- A write to BPM_CMD_p that the map let through. -/
def bpmCommand (fn : Fn) (p : Nat) (w : Word) (ecc : Ecc) (s : State) : State :=
  let op := getF w F.bpmCmdOpcode
  let pool := s.fld (R.bpmArg p) F.bpmArgPool
  let i := s.fld (R.bpmArg p) F.bpmArgIndex
  issue (.bpm p) op p (orHold (.bpm fn p op pool i ecc) (bpmAct fn p op pool i ecc)) s

def bpmIssue (fn : Fn) (op : Nat) (ecc : Ecc) (s : State) : State :=
  access fn (R.bpmCmd ((s.partOf fn).getD 0)) 1 (fun p _ _ s =>
    bpmCommand fn p (setF 0 F.bpmCmdOpcode op) ecc s) s

def execBpmReadRec (fn : Fn) (ecc : Ecc) (s : State) : Res := guardWf (fnOk fn) (bpmIssue fn 1 ecc s)
def execBpmReadRef (fn : Fn) (ecc : Ecc) (s : State) : Res := guardWf (fnOk fn) (bpmIssue fn 2 ecc s)
def execBpmRetire (fn : Fn) (s : State) : Res := guardWf (fnOk fn) (bpmIssue fn 3 .ok s)
def execBpmRestore (fn : Fn) (s : State) : Res := guardWf (fnOk fn) (bpmIssue fn 4 .ok s)

end Sys2Proof.Machine
end

