-- ==== Sys2Proof/Machine/Lanes.lean ====
section
/-! DEFINITION. What the queue engine, the calendar and the fabric interface share: the live fabric counters (R340), link
groups in service and the choice of a group by hatch (R332, R333), credit messages (R337 to R339), calendar time (R266,
R267), the roles of twin mode that hold output (R501). -/

namespace Sys2Proof.Machine

/-! ### Counters, interrupts, records -/

/-- Add to a fabric counter's live count. -/
def fabBump (off n : Nat) (s : State) : State :=
  { s with fab := { s.fab with ctr := smapPut (fun _ => 0) off (smapGet (fun _ => 0) off s.fab.ctr + BitVec.ofNat 64 n) s.fab.ctr } }

def fabInc (off : Nat) (s : State) : State := fabBump off 1 s

/-- The fabric interrupt where IRQ_EN is 1. -/
def fabIrq (s : State) : State := doIf (s.flag R.fabCtl F.fabCtlIrqEn) (raiseBlock 11 10) s

def emptyLane : LaneSt :=
  { pos := 0, fn := 0, miss := 0, held := 0, par := none, aisRun := 0, rdiRun := 0, ttiOn := false, tti := [],
    ttiOld := [], ttiRep := 0, due := false, reiS := 0, txNext := 0, txCell := 40, txPar := 0, txAcc := 0, ais := false,
    off := false }

def emptyGroup : GroupSt :=
  { stores := [], last := none, par := 0, loaRun := 0, gmmRun := 0, rdiRun := 0, reiP := 0, txPar := 0, txAcc := 0,
    txNum := 0, tx := [], seq := [], msgs := [], frame := [], readAt := 0, cells := [], inMsgs := [] }

def State.lane (s : State) (l : Nat) : LaneSt := smapGet (fun _ => emptyLane) l s.fab.lanes
def setLane (l : Nat) (k : LaneSt) (s : State) : State :=
  { s with fab := { s.fab with lanes := smapPut (fun _ => emptyLane) l k s.fab.lanes } }
def State.linkGroup (s : State) (g : Nat) : GroupSt := smapGet (fun _ => emptyGroup) g s.fab.groups
def setGroup (g : Nat) (k : GroupSt) (s : State) : State :=
  { s with fab := { s.fab with groups := smapPut (fun _ => emptyGroup) g k s.fab.groups } }

/-! ### Lanes and groups (R315, R324) -/

def State.devIndex (s : State) : Nat := s.fld R.fabDevIndex F.fabDevIndexDevIndex
def State.framerRun (s : State) : Bool := s.flag R.fabCtl F.fabCtlFramerRun
def State.laneEn (s : State) (l : Nat) : Bool := s.flag (R.fabLaneCfg l) F.fabLaneCfgEn
def State.laneGroup (s : State) (l : Nat) : Nat := s.fld (R.fabLaneCfg l) F.fabLaneCfgGroup
def State.laneMember (s : State) (l : Nat) : Nat := s.fld (R.fabLaneCfg l) F.fabLaneCfgMember
def State.groupEn (s : State) (g : Nat) : Bool := s.flag (R.fabGroupCfg g) F.fabGroupCfgEn
def State.groupSize (s : State) (g : Nat) : Nat := s.fld (R.fabGroupCfg g) F.fabGroupCfgSize

/-- A lane of the twin link (R36, R499). -/
def State.twinLane (s : State) (l : Nat) : Bool := (l == 118 || l == 119) && s.boot.straps.twinEn

/-- The lane runs: it is enabled and the domain of its group is awake (R477), or it carries the twin link. -/
def State.laneOn (s : State) (l : Nat) : Bool :=
  (s.laneEn l && s.fld (R.pwrWakeGroup (s.laneGroup l)) F.pwrWakeGroupState == 0) || s.twinLane l

/-- The enabled lanes that name a group. -/
def State.members (s : State) (g : Nat) : List Nat := (List.range 120).filter (fun l => s.laneEn l && s.laneGroup l == g)

/-- The lane of member m of a group. -/
def State.memberLane (s : State) (g m : Nat) : Option Nat := (s.members g).find? (fun l => s.laneMember l == m)

/-- A group is correctly configured (R315). -/
def State.groupCfgOk (s : State) (g : Nat) : Bool :=
  let z := s.groupSize g
  1 ≤ z && z ≤ 8 && (s.members g).length == z && (List.range z).all (fun m => (s.memberLane g m).isSome)

/-- A group is in transmit service (R324). -/
def State.txService (s : State) (g : Nat) : Bool := s.flag (R.fabGroupStat g) F.fabGroupStatTxService

/-- The mask of the groups that reach a device and are in service (R332). -/
def State.reachMask (s : State) (d : Nat) : List Nat :=
  (List.range 24).filter (fun g => nbit (s.fld (R.fabReach d) F.fabReachGroupMask) g && s.txService g)

/-- The group that a hatch pins a packet to (R332). -/
def hatchGroup (a : List Nat) (h : Nat) : Option Nat := a[h % 65536 * a.length / 65536]?

/-- The mask of a destination changes: new packet starts are held (R333). -/
def repin (d : Nat) (s : State) : State :=
  let until_ := s.now + usT (s.fld R.fabRxCfg F.fabRxCfgRepinGuardUs)
  fabInc (R.fabDevCtr 7) { s with fab := { s.fab with hold := smapInsert d until_ s.fab.hold } }

/-- Destinations that a group reaches, by their registers. -/
def State.reachedBy (s : State) (g : Nat) : List Nat :=
  (s.regs.filter (fun e => R.fabReach 0 ≤ e.1 && e.1 ≤ R.fabReach 4095 && bitOf e.2 g)).map (fun e => (e.1 - R.fabReach 0) / 8)

/-- A hold of new starts for a destination lasts (R333). -/
def State.repinHeld (s : State) (d : Nat) : Bool := (smapFind d s.fab.hold).isSome

/-! ### Calendar time (R266, R267) -/

/-- Calendar time in ticks from the present multiframe's boundary, by the framer's count. -/
def State.calTime (s : State) : Nat := (s.fab.ref - s.fab.mfRef) * 64

/-- The present multiframe number. -/
def State.mfNum (s : State) : Nat := s.fld R.schedMfStat F.schedMfStatMfNum

/-- Multiframes that have begun since the framer started, less one. -/
def State.mfIndex (s : State) : Nat := (s.fab.mfRef - s.fab.run0) / 16384

/-- The number, from the framer's start, of the frame in progress. -/
def State.curFrame (s : State) : Nat := 256 * s.mfIndex + min 255 (s.calTime / 4096)

/-- Ticks of a multiframe. -/
def mfTicks : Nat := 1048576

/-- The pick time of a slot position (R267). -/
def pickTime (p : Nat) : Nat := 4096 * (p / 40) + 4096 * (p % 40 + 1) / 41

/-- Multiframe numbers are taken modulo 2^32; `mfBefore a b`: a comes before b in the window of R289. -/
def mfDist (m n : Nat) : Nat := (2 ^ 32 + m - n % 2 ^ 32) % 2 ^ 32

/-- m lies at or before n. -/
def mfReached (m n : Nat) : Bool := mfDist n m < 2 ^ 31

/-- The time at which the frame in progress began. -/
def State.frameAt (s : State) : Nat := s.now - (s.calTime - 4096 * min 255 (s.calTime / 4096))

/-- The frames that begin now are held: the output was held before they began, for a change of STATE reaches the fabric at the
next frame boundary (R501, R514). -/
def State.frameHeld (s : State) : Bool :=
  ((s.twin.heldLog.find? (fun e => decide (s.frameAt ≤ e.1))).map (·.2)).getD s.outputHeld

/-- A lane carries nothing of its group: FORCE_AIS is 1 or the group's EN is 0 (R322). -/
def State.laneOff (s : State) (l : Nat) : Bool :=
  !s.twinLane l && (s.flag (R.fabLaneCfg l) F.fabLaneCfgForceAis || !s.groupEn (s.laneGroup l))

/-- A frame that a lane begins carries AIS (R322, R501). -/
def State.sendsAis (s : State) (l : Nat) : Bool := s.laneOff l || (!s.twinLane l && s.frameHeld)

/-! ### Credit messages (R246, R337, R338) -/

/-- CRC-8 of a message. -/
def crc8 (b : Bytes) : Nat := crcMsbRun 8 0x07 0 b

/-- A message with its check. -/
def sealMsg (w : Nat) : Word := BitVec.ofNat 64 (w * 256 + crc8 (toBe 7 w))

/-- The 56 bits above the check of a REQUEST. -/
def reqBits (m : ReqMsg) : Nat :=
  1 * 2 ^ 54 + 2 ^ 42 * (m.issuer % 4096) + 2 ^ 30 * (m.target % 4096) + 2 ^ 12 * (m.voq % 2 ^ 18) + m.port % 128 * 2 ^ 5 +
    m.tc % 8 * 2 ^ 2 + b2n m.active * 2

/-- The 56 bits above the check of a GRANT. -/
def grantBits (m : GrantMsg) : Nat :=
  2 * 2 ^ 54 + 2 ^ 42 * (m.issuer % 4096) + 2 ^ 30 * (m.target % 4096) + 2 ^ 12 * (m.voq % 2 ^ 18) + m.credit % 256 * 2 ^ 4

def creditWord (m : CreditMsg) : Word :=
  match m with
  | .req r => sealMsg (reqBits r)
  | .grant g => sealMsg (grantBits g)

/-- What a message word says; none for an empty or reserved type or a wrong check. -/
def creditOf (w : Word) : Option CreditMsg :=
  let n := w.toNat
  if crc8 (toBe 7 (n / 256)) != n % 256 then none
  else match nbits n 63 62 with
    | 1 => some (.req { issuer := nbits n 61 50, target := nbits n 49 38, voq := nbits n 37 20, port := nbits n 19 13,
                        tc := nbits n 12 10, active := nbit n 9 })
    | 2 => some (.grant { issuer := nbits n 61 50, target := nbits n 49 38, voq := nbits n 37 20, credit := nbits n 19 12 })
    | _ => none

/-- The queue engine takes a message. -/
def takeCredit (m : CreditMsg) (s : State) : State :=
  match m with
  | .req r => { s with q := { s.q with reqIn := s.q.reqIn ++ [r] } }
  | .grant g => { s with q := { s.q with grantIn := s.q.grantIn ++ [g] } }

/-- A message for device `t`: inside the device, or on the lowest group that reaches it in service; with none, or a full
queue, it is dropped (R248, R338). -/
def sendCredit (t : Nat) (m : CreditMsg) (s : State) : State :=
  if t = s.devIndex then takeCredit m s
  else match (s.reachMask t).head? with
    | none => fabInc (R.fabDevCtr 8) s
    | some g =>
      let k := s.linkGroup g
      if k.msgs.length < 2048 then setGroup g { k with msgs := k.msgs ++ [creditWord m] } s
      else fabInc (R.fabDevCtr 8) s

end Sys2Proof.Machine
end

