-- ==== Sys2Proof/Machine/Queue.lean ====
section
/-! DEFINITION. The queue engine (R225 to R262): queue numbers and images, policers, admission, ECN, multicast, storage and
its release, virtual output queues and credit, the egress hierarchy, ageing and flushing, recirculation, its memories'
errors and its commands. -/

namespace Sys2Proof.Machine

/-! ### Queue numbers (R225 to R227) -/

/-- The first egress queue; lower numbers are VOQs. -/
def voqCount : Nat := 262144

/-- The port whose blocks hold lane block b. -/
def State.blockPort (s : State) (b : Nat) : Option Nat :=
  (List.range 96).find? (fun n => s.portExists n && n ≤ b && b < n + s.portWidth n)

/-- The lane block of an egress queue. -/
def queueBlock (q : Nat) : Nat := (q - voqCount) / 8192

/-- The port of an egress queue. -/
def State.queuePort (s : State) (q : Nat) : Option Nat := if q < voqCount then none else s.blockPort (queueBlock q)

/-- The queue exists: a VOQ, or an egress queue of a block in a port. -/
def State.queueExists (s : State) (q : Nat) : Bool := q < voqCount || (q < 1048576 && (s.queuePort q).isSome)

/-- The egress queue that OUT_PORT and EQ_OFFSET name. -/
def egressQueue (port off : Nat) : Nat := voqCount + 8192 * port + off

/-! ### Images (R259, R260) -/

def qEn (i : Bytes) : Bool := nbit (byteAt 0 i) 0
def qCtEn (i : Bytes) : Bool := nbit (byteAt 0 i) 1
def qEcnEn (i : Bytes) : Bool := nbit (byteAt 0 i) 2
def qNonectDrop (i : Bytes) : Bool := nbit (byteAt 0 i) 3
def qAlpha (i : Bytes) : Nat := byteAt 1 i % 16
def qCurve (i : Bytes) : Nat := byteAt 2 i % 16
def qPrio (i : Bytes) : Nat := byteAt 3 i % 8
def qPfcPrio (i : Bytes) : Nat := byteAt 3 i / 16 % 8
def qGmin (i : Bytes) : Nat := leAt 4 4 i
def qAge (i : Bytes) : Nat := leAt 8 4 i % 2 ^ 24
def qWeight (i : Bytes) : Nat := leAt 0xC 2 i
def qParent (i : Bytes) : Nat := leAt 0xE 2 i
def qRate (i : Bytes) : Nat := leAt 0x10 4 i
def qBurst (i : Bytes) : Nat := leAt 0x14 4 i
def qDest (i : Bytes) : Nat := leAt 0x18 4 i
def qDestDev (i : Bytes) : Nat := qDest i % 4096
def qDestPort (i : Bytes) : Nat := nbits (qDest i) 18 12
def qDestTc (i : Bytes) : Nat := nbits (qDest i) 21 19
def qOndie (i : Bytes) : Nat := leAt 0x1C 4 i

def nEn (i : Bytes) : Bool := nbit (byteAt 0 i) 0
def nPrio (i : Bytes) : Nat := byteAt 1 i % 8
def nWeight (i : Bytes) : Nat := leAt 2 2 i
def nParent (i : Bytes) : Nat := leAt 4 2 i
def nRate (i : Bytes) : Nat := leAt 8 4 i
def nBurst (i : Bytes) : Nat := leAt 0xC 4 i

/-! ### Queues and depths (R230, R234, R238, R248) -/

def State.que (s : State) (q : Nat) : QueueSt := smapGet (fun _ => emptyQueue) q s.q.queues

/-- EN of a queue, taken as 0 while a word of it is bad (R257). -/
def QueueSt.en (k : QueueSt) : Bool := qEn k.img && !k.bad

/-- E(D(q)) of R234. -/
def QueueSt.excess (k : QueueSt) : Nat := k.depth - qGmin k.img

/-- Store a queue; FBU and D_PORT follow its depth. -/
def setQue (q : Nat) (k : QueueSt) (s : State) : State :=
  let old := s.que q
  let s := { s with q := { s.q with queues := smapPut (fun _ => emptyQueue) q k s.q.queues } }
  let s := s.setFld R.qFbStat F.qFbStatFbu (s.fld R.qFbStat F.qFbStatFbu + k.excess - old.excess)
  match s.queuePort q with
  | some n => s.setFld (R.qPortDepth n) F.qPortDepthDPort (s.fld (R.qPortDepth n) F.qPortDepthDPort + k.depth - old.depth)
  | none => s

/-- Q_PORT_DEPTH_n of every port anew: lane blocks have changed their port (R83). -/
def portDepths (s : State) : State :=
  forEach (List.range 96) (fun n s =>
    s.setFld (R.qPortDepth n) F.qPortDepthDPort
      ((s.q.queues.filter (fun e => s.queuePort e.1 == some n)).map (·.2.depth)).sum) s

/-- Change a queue. -/
def onQue (q : Nat) (f : QueueSt → QueueSt) (s : State) : State := setQue q (f (s.que q)) s

/-- Count a dropped packet for a queue. -/
def countDrop (q : Nat) (s : State) : State := onQue q (fun k => { k with drop := (k.drop + 1) % 2 ^ 64 }) s

/-- Count a rejected copy for its queue. -/
def countMcDrop (q : Nat) (s : State) : State := onQue q (fun k => { k with mcDrop := (k.mcDrop + 1) % 2 ^ 64 }) s

/-! ### Stored packets and their release (R211, R243) -/

/-- Bytes counted for a port and priority (R239). -/
def addPfc (k : Option (Nat × Nat)) (add sub : Nat) (s : State) : State :=
  match k with
  | some (n, p) =>
    { s with q := { s.q with pfcHeld := smapPut (fun _ => 0) (8 * n + p) (s.pfcHeldOf n p + add - sub) s.q.pfcHeld } }
  | none => s

/-- The packet a T-die drops while its body may still arrive: the rest is discarded. -/
def forgetPkt (id : Nat) (s : State) : State :=
  match s.pkt id with
  | some p => if p.tailIn then erasePkt id s else setPkt id { p with place := .dropped } s
  | none => s

/-- One entry or packet in progress lets go of a stored packet: FREE or DEC, and with the last one the packet is gone. -/
def dropRef (id : Nat) (s : State) : State :=
  match s.store id with
  | none => s
  | some k =>
    let s := bpmRelease k.req k.pool k.head k.pages s
    if k.copies ≤ 1 then
      let s := forgetPkt id (addPfc k.pfc 0 k.acct s)
      { s with q := { s.q with stored := smapErase id s.q.stored } }
    else
      match s.store id with
      | some k => setStore id { k with copies := k.copies - 1 } s
      | none => s

/-! ### VOQ state and REQUESTs (R247) -/

/-- A VOQ sends a REQUEST with its state. -/
def sendRequest (q : Nat) (s : State) : State :=
  let k := s.que q
  let s := onQue q (fun k => { k with reqAt := s.now }) (s.inc (R.qDevCtr 14))
  sendCredit (qDestDev k.img) (.req { issuer := s.devIndex, target := qDestDev k.img, voq := q, port := qDestPort k.img,
                                      tc := qDestTc k.img, active := k.active }) s

/-- A VOQ that turned ACTIVE or EMPTY says so. -/
def voqState (q : Nat) (s : State) : State :=
  let k := s.que q
  if q < voqCount && k.active == k.ents.isEmpty then
    sendRequest q (setQue q { k with active := !k.ents.isEmpty } s)
  else s

/-! ### Nodes (R227, R249) -/

def State.node (s : State) (level i : Nat) : NodeSt :=
  smapGet (fun _ => emptyNode) i
    (match level with
     | 1 => s.q.n1
     | 2 => s.q.n2
     | 3 => s.q.n3
     | _ => s.q.portN)

def setNode (level i : Nat) (k : NodeSt) (s : State) : State :=
  let put := smapPut (fun _ => emptyNode) i k
  match level with
  | 1 => { s with q := { s.q with n1 := put s.q.n1 } }
  | 2 => { s with q := { s.q with n2 := put s.q.n2 } }
  | 3 => { s with q := { s.q with n3 := put s.q.n3 } }
  | _ => { s with q := { s.q with portN := put s.q.portN } }

/-- Elements per lane block. -/
def perBlock (level : Nat) : Nat :=
  match level with
  | 0 => 8192
  | 1 => 1024
  | 2 => 128
  | 3 => 16
  | _ => 1

/-- The queues of a port that hold packets. -/
def State.portQueues (s : State) (port : Nat) : List (Nat × QueueSt) :=
  s.q.queues.filter (fun e => s.queuePort e.1 == some port && !e.2.ents.isEmpty)

/-- The port, and its lane blocks, that hold an element of a level; a block in no port is taken alone. -/
def State.elemPort (s : State) (block : Nat) : Nat × Nat :=
  match s.blockPort block with
  | some n => (n, s.portWidth n)
  | none => (block, 1)

/-- Some queue below a node holds a packet. -/
def State.nodeHolds (s : State) (level i : Nat) : Bool :=
  let n := (s.elemPort (i / perBlock level)).1
  (s.portQueues n).any (fun e =>
    let l1 := 1024 * n + qParent e.2.img
    let l2 := 128 * n + nParent (s.node 1 l1).img
    let l3 := 16 * n + nParent (s.node 2 l2).img
    (level == 1 && l1 == i) || (level == 2 && l2 == i) || (level == 3 && l3 == i))

/-- The nodes above an egress queue, as level and index: level 1 to level 3. -/
def State.nodesOf (s : State) (port q : Nat) : List (Nat × Nat) :=
  let n1 := 1024 * port + qParent (s.que q).img
  let n2 := 128 * port + nParent (s.node 1 n1).img
  [(1, n1), (2, n2), (3, 16 * port + nParent (s.node 2 n2).img)]

/-- A node below which nothing is left loses its deficit, as an empty queue does (R249); log 76. -/
def restNodes (q : Nat) (s : State) : State :=
  match s.queuePort q with
  | none => s
  | some port =>
    forEach (s.nodesOf port q) (fun x s =>
      if s.nodeHolds x.1 x.2 then s else setNode x.1 x.2 { s.node x.1 x.2 with deficit := 0 } s) s

/-! ### Heads of queues -/

/-- The entry at the head leaves the queue: its depth falls, the copy stays referred to by who took it. -/
def popEnt (q : Nat) (s : State) : State :=
  let k := s.que q
  match k.ents with
  | [] => s
  | e :: es =>
    let inOndie := match s.store e.pkt with
      | some st => st.pool == 1
      | none => false
    let s := setQue q { k with
      ents := es, depth := k.depth - e.len, ondie := if inOndie then k.ondie - e.len else k.ondie,
      deficit := if es.isEmpty then 0 else k.deficit } s
    voqState q (doIf es.isEmpty (restNodes q) s)

/-- Discard the head packet of a queue, counted in `ctr` where one is named, and in DROP_PKTS. -/
def discardHead (q : Nat) (ctr : Option Nat) (s : State) : State :=
  match (s.que q).ents with
  | [] => s
  | e :: _ =>
    let s := match ctr with
      | some c => s.inc (R.qDevCtr c)
      | none => s
    dropRef e.pkt (countDrop q (popEnt q s))

/-! ### Policers (R231, R232) -/

def State.policer (s : State) (i : Nat) : PolicerSt := smapGet (fun _ => emptyPolicer) i s.q.policers
def setPolicer (i : Nat) (k : PolicerSt) (s : State) : State :=
  { s with q := { s.q with policers := smapPut (fun _ => emptyPolicer) i k s.q.policers } }

/-- Bucket units in a byte: kb/s fill one unit each in a tick of 0.1 ns. -/
def polUnit : Nat := 80000000

/-- The buckets filled up to now. -/
def PolicerSt.filled (k : PolicerSt) (now : Nat) : PolicerSt :=
  { k with c := min (k.c + leAt 0 4 k.img * (now - k.at_)) (leAt 8 4 k.img * polUnit),
           p := min (k.p + leAt 4 4 k.img * (now - k.at_)) (leAt 0xC 4 k.img * polUnit), at_ := now }

/-- The colour that a packet of `b` bytes gets, and the buckets after it. -/
def PolicerSt.judge (k : PolicerSt) (aware : Bool) (colour b : Nat) : Nat × PolicerSt :=
  let n := b * polUnit
  if k.p < n || (aware && 2 ≤ colour) then (2, k)
  else if k.c < n || (aware && colour == 1) then (1, { k with p := k.p - n })
  else (0, { k with p := k.p - n, c := k.c - n })

/-- The policer's verdict: the metadata with its colour, or none where the packet is dropped (counted in POL_DROP). -/
def police (md : Bytes) (len : Nat) (s : State) : State × Option Bytes :=
  if mdF md Md.polEn = 0 then (s, some md)
  else
    let i := mdF md Md.policer
    let k := (s.policer i).filled s.now
    let fl := byteAt 0x10 k.img
    if k.bad then (s.inc (R.qDevCtr 12), none)
    else if !nbit fl 0 then (s, some md)
    else
      let (c, k) := k.judge (nbit fl 1) (mdF md Md.colour) len
      let s := (setPolicer i k s).inc (R.qDevCtr (9 + c))
      if (c == 1 && nbit fl 2) || (c == 2 && nbit fl 3) then (s.inc (R.qDevCtr 12), none)
      else (s, some (mdPut Md.colour c md))

/-! ### Admission (R233 to R235) -/

/-- The shift of a colour. -/
def State.colourShift (s : State) (c : Nat) : Nat :=
  match c with
  | 0 => 0
  | 1 => s.fld R.qAdmitCfg F.qAdmitCfgYShift
  | _ => s.fld R.qAdmitCfg F.qAdmitCfgRShift

/-- T_c(q) of R233. -/
def State.threshold (s : State) (k : QueueSt) (c : Nat) : Nat :=
  max (qGmin k.img) (s.sharedFree 0 * 512 * 2 ^ qAlpha k.img / 2 ^ (7 + s.colourShift c))

/-- A packet of `len` bytes and colour c may join queue k. -/
def State.admits (s : State) (k : QueueSt) (len c : Nat) : Bool :=
  if s.flag R.qAdmitCfg F.qAdmitCfgFbActive then
    k.depth + len ≤ qGmin k.img ||
      s.fld R.qFbStat F.qFbStatFbu + (k.depth + len - qGmin k.img) - k.excess
        ≤ s.fld R.qFbShared F.qFbSharedFbShared / 2 ^ s.colourShift c
  else k.depth + len ≤ s.threshold k c

/-! ### Curves (R236, R237) -/

/-- The values of the points of a curve: 0xFFFF stands for 1, which is 65,536. -/
def pointDepth (w : Word) : Nat := getF w (63, 24)
def pointVal (w : Word) : Nat := if getF w (15, 0) = 65535 then 65536 else getF w (15, 0)

/-- The value of a curve at a depth, as numerator and denominator of a number in units of 1/65,536. -/
def curveAt (d : Nat) : List Word → Nat × Nat
  | [] => (0, 1)
  | [w] => if d < pointDepth w then (0, 1) else (pointVal w, 1)
  | w :: w' :: ws =>
    if d < pointDepth w then (0, 1)
    else if d < pointDepth w' then
      (pointVal w * (pointDepth w' - d) + pointVal w' * (d - pointDepth w), pointDepth w' - pointDepth w)
    else curveAt d (w' :: ws)

/-- Points at reset. -/
def ecnReset : Nat → Word := fun _ => 0
def creditReset : Nat → Word := fun _ => 0xFFFF

/-- The active copy of an ECN curve; bad, it marks nothing. -/
def State.ecnCurve (s : State) (c : Nat) : List Word :=
  if s.q.bad.contains (6, c) then [] else (List.range 32).map (fun i => smapGet ecnReset (32 * c + i) s.q.ecnAct)

/-- The active copy of a credit curve; bad, it reads as at reset. -/
def State.creditCurve (s : State) (c : Nat) : List Word :=
  (List.range 32).map (fun i => if s.q.bad.contains (7, c) then 0xFFFF else smapGet creditReset (32 * c + i) s.q.crAct)

/-- ECN marking at enqueue, with the depth before the packet: the metadata, or none where it is dropped. -/
def ecnMark (q : Nat) (md : Bytes) (s : State) : State × Option Bytes :=
  let k := s.que q
  if !qEcnEn k.img then (s, some md)
  else
    let (n, d) := curveAt k.depth (s.ecnCurve (qCurve k.img))
    let r := (Config.ecnRandom s.freeCtr).toNat
    let s := { s with freeCtr := s.freeCtr + 1 }
    if n ≤ r * d then (s, some md)
    else if mdF md Md.ect = 1 then (s.inc (R.qDevCtr 3), some (mdPut Md.ceMark 1 md))
    else if qNonectDrop k.img then (s.inc (R.qDevCtr 4), none)
    else (s, some md)

/-! ### Enqueue (R229, R230, R238 to R242) -/

/-- L of R230. -/
def State.admitLen (s : State) (md : Bytes) : Nat :=
  if mdF md Md.len = 0 then s.fld R.qAdmitCfg F.qAdmitCfgDefaultLen else mdF md Md.len

/-- How a packet fares at one queue (steps 1, 3 and 4): admitted with its metadata, or not: the queue does not exist,
is disabled, or refuses it. -/
inductive Fare where
  | admitted (md : Bytes) | missing | disabled | refused
  deriving DecidableEq, Repr

/-- Steps 3 and 4 for queue q. -/
def admitStep (q len : Nat) (md : Bytes) (s : State) : State × Fare :=
  if !s.admits (s.que q) len (mdF md Md.colour) then (s.inc (R.qDevCtr 2), .refused)
  else match ecnMark q md s with
    | (s, some md) => (s, .admitted md)
    | (s, none) => (s, .refused)

/-- Steps 1, 3 and 4; an admitted packet adds to the depth that the next copy sees. -/
def tryQueue (q len : Nat) (md : Bytes) (s : State) : State × Fare :=
  if !s.queueExists q then (s, .missing)
  else if !(s.que q).en then (s, .disabled)
  else match admitStep q len md s with
    | (s, .admitted md) => (onQue q (fun k => { k with depth := k.depth + len }) s, .admitted md)
    | r => r

/-- The packet is dropped before it took a page. -/
def refusePkt (id : Nat) (s : State) : State := forgetPkt id s

/-- The depth that an admitted packet added falls again. -/
def undoDepth (q len : Nat) (s : State) : State := onQue q (fun k => { k with depth := k.depth - len }) s

/-- The line port and priority under which a packet is counted (R239). -/
def pfcOf (r : Nat) (p : Packet) (md : Bytes) : Option (Nat × Nat) :=
  if r < 16 && p.port < 96 then some (p.port, mdF md Md.tc) else none

/-- A packet takes its place in the store, counted for PFC. -/
def storePkt (id r pool head len copies : Nat) (p : Packet) (md : Bytes) (s : State) : State :=
  addPfc (pfcOf r p md) len 0 (setStore id
    { bytes := [], tailIn := false, stomp := false, cut := false, req := r, pool := pool, head := head, pages := 1,
      pfc := pfcOf r p md, acct := len, copies := copies, hatch := p.hatch, stamp := p.stamp, port := p.port } s)

/-- An entry joins the tail of a queue whose depth has risen already. -/
def pushEnt (q id len pool : Nat) (md : Bytes) (s : State) : State :=
  let s := onQue q (fun k => { k with
    ents := k.ents ++ [{ pkt := id, len := len, at_ := s.now, md := md }],
    ondie := if pool = 1 then k.ondie + len else k.ondie }) (s.inc (R.qDevCtr 0))
  voqState q s

/-- The pool of a packet for queue q (R238). -/
def State.poolFor (s : State) (q len : Nat) : Nat :=
  let k := s.que q
  if voqCount ≤ q && k.ondie + len ≤ qOndie k.img then 1 else 0

/-- Body pages, one by one; false where one is refused. -/
def bodyPages (r pool head : Nat) : Nat → Nat → State → State × Nat × Bool
  | 0, got, s => (s, got, true)
  | n + 1, got, s =>
    match grantPage r pool (some head) s with
    | (s, some _) => bodyPages r pool head n (got + 1) s
    | (s, none) => (s, got, false)

/-- What has arrived of a packet's body takes its pages (R209); where one is refused, the body is cut short (R210). -/
def takeBody (id : Nat) (s : State) : State :=
  match s.store id, s.pkt id with
  | some k, some p =>
    if k.cut || k.tailIn then s
    else
      let (s, got, whole) := bodyPages k.req k.pool k.head (ceilDiv (s.here id p) (pageBytes k.pool) - k.pages) 0 s
      let k := { k with pages := k.pages + got }
      let s := setStore id k s
      doIf (!whole) (fun s => setStore id (s.cutShort id k) s) s
  | _, _ => s

/-- An admitted unicast packet takes its first page and joins its queue; a refusal drops it (R229). -/
def enqueueOne (mc : Bool) (r id q len : Nat) (p : Packet) (md : Bytes) (s : State) : State :=
  let pool := s.poolFor q len
  match grantPage r pool none s with
  | (s, some head) =>
    takeBody id (doIf mc (fun s => s.inc (R.qDevCtr 13)) (pushEnt q id len pool md (storePkt id r pool head len 1 p md s)))
  | (s, none) => refusePkt id ((if mc then countMcDrop q else countDrop q) (undoDepth q len s))

/-- One packet for one queue (R229). -/
def unicast (r id q len : Nat) (p : Packet) (md : Bytes) (s : State) : State :=
  match tryQueue q len md s with
  | (s, .admitted md) => enqueueOne false r id q len p md s
  | (s, .missing) => refusePkt id (s.inc (R.qDevCtr 1))
  | (s, .disabled) => refusePkt id (countDrop q (s.inc (R.qDevCtr 1)))
  | (s, .refused) => refusePkt id (countDrop q s)

/-- The copies of a list, judged one by one (R241): the admitted ones with their metadata. -/
def judgeCopies (len : Nat) : List (Option (Nat × Bytes)) → State → State × List (Nat × Bytes)
  | [], s => (s, [])
  | none :: l, s => judgeCopies len l (s.inc (R.qDevCtr 1))
  | some (q, md) :: l, s =>
    match tryQueue q len md s with
    | (s, .admitted md) =>
      let r := judgeCopies len l s
      (r.1, (q, md) :: r.2)
    | (s, .missing) => judgeCopies len l (s.inc (R.qDevCtr 1))
    | (s, _) => judgeCopies len l (countMcDrop q s)

/-- Each further admitted copy takes a reference; a refused INC rejects its copy and every later one (R242). -/
def takeRefs (r id head len : Nat) : List (Nat × Bytes) → State → State
  | [], s => s
  | (q, md) :: l, s =>
    match bpmInc r 0 head s with
    | (s, true) =>
      let s := match s.store id with
        | some k => setStore id { k with copies := k.copies + 1 } s
        | none => s
      takeRefs r id head len l (pushEnt q id len 0 md (s.inc (R.qDevCtr 13)))
    | (s, false) => forEach ((q, md) :: l) (fun c s => countMcDrop c.1 (undoDepth c.1 len s)) s

/-- The pages of a replicated packet, and its copies (R241). -/
def storeCopies (r id len : Nat) (p : Packet) (l : List (Nat × Bytes)) (s : State) : State :=
  match l with
  | [] => refusePkt id s
  | [(q, md)] => enqueueOne true r id q len p md s
  | (q, md) :: rest =>
    match grantPage r 0 none s with
    | (s, none) => refusePkt id (forEach l (fun c s => countMcDrop c.1 (undoDepth c.1 len s)) s)
    | (s, some head) =>
      takeRefs r id head len rest
        (takeBody id (pushEnt q id len 0 md ((storePkt id r 0 head len 1 p md s).inc (R.qDevCtr 13))))

/-- A multicast entry; none where its word is bad (R257). -/
def State.mcEntry (s : State) (i : Nat) : Option Word :=
  if s.q.bad.contains (10, i) then none else some (smapGet (fun _ => 0) i s.q.mcEnt)

/-- The egress queue that a packet names: no queue has the number of one whose OUT_PORT is no port or whose EQ_OFFSET lies
beyond its blocks (R226). -/
def State.namedQueue (s : State) (port off : Nat) : Nat :=
  if s.portExists port && off < 8192 * s.portWidth port then egressQueue port off else 1048576

/-- The queue and metadata of each copy of a group; none where the group is not valid (R240). -/
def State.mcCopies (s : State) (egress : Bool) (md : Bytes) : Option (List (Option (Nat × Bytes))) :=
  let g := mdF md Md.mcGroup
  let w := smapGet (fun _ => 0) g (if egress then s.q.mcEg else s.q.mcIn)
  if !bitOf w 31 || s.q.bad.contains (if egress then 9 else 8, g) then none
  else some ((List.range (getF w (24, 17))).map (fun i =>
    (s.mcEntry (getF w (16, 0) + i)).map (fun e =>
      if egress then (s.namedQueue (getF e (6, 0)) (getF e (22, 7)), mdPut Md.mcGroup (getF e (38, 23)) md)
      else (getF e (17, 0), mdPut Md.voq (getF e (17, 0)) md))))

/-- Replication (R240, R241). -/
def multicast (r id len : Nat) (egress : Bool) (p : Packet) (md : Bytes) (s : State) : State :=
  match s.mcCopies egress md with
  | none => refusePkt id (s.inc (R.qDevCtr 1))
  | some l =>
    let (s, adm) := judgeCopies len l s
    storeCopies r id len p adm s

/-- Depth of the recirculation queue (R256). -/
def State.recircDepth (s : State) : Nat := (s.q.recirc.map (·.len)).sum

/-- A packet with TARGET 2 joins the recirculation queue, charged to requester 22. -/
def recircEnqueue (r id len : Nat) (p : Packet) (md : Bytes) (s : State) : State :=
  if s.fld R.qRecircCfg F.qRecircCfgLimit < s.recircDepth + len then refusePkt id (s.inc (R.qDevCtr 20))
  else match grantPage 22 0 none s with
    | (s, none) => refusePkt id s
    | (s, some head) =>
      let s := addPfc (pfcOf r p md) len 0 (setStore id
        { bytes := [], tailIn := false, stomp := false, cut := false, req := 22, pool := 0, head := head, pages := 1,
          pfc := pfcOf r p md, acct := len, copies := 1, hatch := p.hatch, stamp := p.stamp, port := p.port } s)
      takeBody id { (s.inc (R.qDevCtr 0)) with
        q := { (s.inc (R.qDevCtr 0)).q with
               recirc := s.q.recirc ++ [{ pkt := id, len := len, at_ := s.now, md := md }] } }

/-- The queue of a packet that is not replicated. -/
def State.targetQueue (s : State) (fabric : Bool) (md : Bytes) : Nat :=
  if fabric || mdF md Md.target = 1 then s.namedQueue (mdF md Md.outPort) (mdF md Md.eqOffset) else mdF md Md.voq

/-- Step 2 comes after step 1 for one queue: a queue that does not exist or is disabled takes no tokens. -/
def policedUnicast (r id q len : Nat) (p : Packet) (md : Bytes) (s : State) : State :=
  if !s.queueExists q || !(s.que q).en || 16 ≤ r then unicast r id q len p md s
  else match police md len s with
    | (s, some md) => unicast r id q len p md s
    | (s, none) => refusePkt id (countDrop q s)

/-- The handling of R229 for packet `id` of requester r. -/
def handleArrival (r id : Nat) (p : Packet) (s : State) : State :=
  let md := p.md
  let fabric := r == 16
  let len := s.admitLen md
  let target := mdF md Md.target
  if !fabric && target == 3 then refusePkt id (s.inc (R.qDevCtr 1))
  else if !fabric && target == 2 then
    if 16 ≤ r then recircEnqueue r id len p md s
    else match police md len s with
      | (s, some md) => recircEnqueue r id len p md s
      | (s, none) => refusePkt id s
  else if mdF md Md.mc == 1 && (fabric || target == 0) then
    if 16 ≤ r then multicast r id len fabric p md s
    else match police md len s with
      | (s, some md) => multicast r id len fabric p md s
      | (s, none) => refusePkt id s
  else policedUnicast r id (s.targetQueue fabric md) len p md s

/-- A packet has left the bridge: its flits are taken, and the reorder unit's next packet may be handled (R22). -/
def offBridge (dir id : Nat) (s : State) : State :=
  let s := takeFlits dir id s
  { s with q := { s.q with order := s.q.order.filter (· != id) } }

/-- The oldest packet of requester r that waits is handled, once it has crossed the bridge in its turn. -/
def queueArrival (r : Nat) (s : State) : State :=
  match smapGet (fun _ => []) r s.q.arrivals with
  | [] => s
  | id :: l =>
    if s.crossed 0 id then
      let s := offBridge 0 id { s with q := { s.q with arrivals := smapPut (fun _ => []) r l s.q.arrivals } }
      match s.pkt id with
      | some p => if p.place == .bridge then handleArrival r id p s else s
      | none => s
    else s

def execQueueArrival (r : Nat) (s : State) : Res := guardWf (r < 23) (queueArrival r s)

/-! ### The tail (R210, R230, R254) -/

/-- The length counted for an entry becomes the stored frame's. -/
def correctEnts (id len : Nat) (pool : Nat) (s : State) : State :=
  forEach s.q.queues (fun e s =>
    let k := s.que e.1
    let mine := (k.ents.filter (fun x => x.pkt == id)).map (·.len)
    if mine.isEmpty then s
    else
      let now := len * mine.length
      setQue e.1 { k with
        ents := k.ents.map (fun x => if x.pkt == id then { x with len := len } else x),
        depth := k.depth + now - mine.sum,
        ondie := if pool = 1 then k.ondie + now - mine.sum else k.ondie } s)
    { s with q := { s.q with
        recirc := s.q.recirc.map (fun x => if x.pkt == id then { x with len := len } else x) } }

/-- The tail reaches a packet that streams to its port (R254, R255). -/
def tailToEgress (id : Nat) (bytes : Bytes) (stomp : Bool) (s : State) : State :=
  match s.q.started.filter (fun x => x.st == id) with
  | [] => s
  | l =>
    let s := { s with q := { s.q with started := s.q.started.filter (fun x => x.st != id) } }
    forEach l (fun x s =>
      let s := dropRef id s
      match s.pkt x.pkt with
      | some p =>
        let s := doIf (p.stage.isSome || p.pass != 0) (lenLate p bytes.length) s
        bridgeTail 1 x.pkt (bytes.drop x.had)
          (setPkt x.pkt { p with bytes := p.bytes ++ bytes.drop x.had, tailIn := true, stomp := stomp } s)
      | none => s) s

/-- The tail of a packet is stored: its length is known, a stomp is recorded. A body cut short is stored as far as its
pages reach. -/
def tailKept (id : Nat) (s : State) : State :=
  match s.store id, s.pkt id with
  | some k, some p =>
    let bytes := s.keptBytes id
    let stomp := k.stomp || p.stomp
    let s := offBridge 0 id (erasePkt id s)
    let s := setStore id { k with bytes := bytes, tailIn := true, stomp := stomp, acct := bytes.length + 4 }
      (addPfc k.pfc (bytes.length + 4) k.acct s)
    tailToEgress id (s.storedBytes id) stomp (correctEnts id (bytes.length + 4) k.pool s)
  | _, _ => s

/-- The tail of packet `id` has crossed the bridge: the pages still wanting are taken, and it is stored. -/
def tailStored (id : Nat) (s : State) : State :=
  match s.store id, s.pkt id with
  | some k, some p =>
    if p.place == .bridge && p.tailIn && !k.tailIn && !(s.bridge 0).holds id then tailKept id (takeBody id s) else s
  | _, _ => s

/-- A flit arrives on a channel, and what it completes of stored packets takes its pages (R209). -/
def flitAndPages (dir chan seq : Nat) (crcOk : Bool) (flit : Bytes) (s : State) : State :=
  let t := flitReceive dir chan seq crcOk flit s
  let new := (t.brFT.got.drop s.brFT.got.length).filterMap (·.owner)
  forEach new takeBody t

def execBridgeFlitReceive (dir chan seq : Nat) (crcOk : Bool) (flit : Bytes) (s : State) : Res :=
  guardWf (dir < 2 && chan < 48 && flit.length == 64) (flitAndPages dir chan seq crcOk flit s)

def execPacketTailStored (pkt : Nat) (s : State) : Res := guardWf true (tailStored pkt s)

/-! ### Ageing (R251) -/

/-- The head of a queue is older than its limit, both in whole µs. -/
def State.headAged (s : State) (k : QueueSt) : Bool :=
  match k.ents with
  | [] => false
  | e :: _ => qAge k.img != 0 && qAge k.img < s.now / 10000 - e.at_ / 10000

/-- A VOQ with an aged head is served for the discard. -/
def voqAge (q : Nat) (s : State) : State :=
  if q < voqCount && s.headAged (s.que q) then discardHead q (some 5) s else s

def execVoqAgeDiscard (q : Nat) (s : State) : Res := guardWf (q < voqCount) (voqAge q s)

/-- A head that is discarded at its dequeue: its counter (R219, R254); none counted for a stack that failed. -/
def State.headBad (s : State) (e : QEnt) : Option (Option Nat) :=
  match s.store e.pkt with
  | none => some none
  | some k =>
    if s.onFailed k.pool k.head then some none
    else if k.tailIn && k.stomp then some (some 7)
    else none

/-! ### Shapers (R249) -/

/-- Tokens at `now`, in bytes × 80,000; MB/s fill one unit each in a tick. -/
def tokensNow (rate burst : Nat) (tok : Int) (at_ now : Nat) : Int :=
  if rate = 0 then 0 else min (tok + rate * (now - at_ : Nat)) (burst * 80000 : Nat)

/-- A started packet takes its length from a shaper. -/
def takeTokens (rate burst : Nat) (tok : Int) (at_ now len : Nat) : Int :=
  if rate = 0 then 0 else tokensNow rate burst tok at_ now - (len * 80000 : Nat)

def QueueSt.shaped (k : QueueSt) (now : Nat) : Bool := 0 ≤ tokensNow (qRate k.img) (qBurst k.img) k.tokens k.tokAt now

def chargeQue (q len : Nat) (s : State) : State :=
  onQue q (fun k => { k with
    tokens := takeTokens (qRate k.img) (qBurst k.img) k.tokens k.tokAt s.now len, tokAt := s.now,
    fwd := (k.fwd + len) % 2 ^ 64 }) s

/-! ### VOQ start (R247, R253, R254, R332 to R334) -/

/-- A VOQ starts its head packet on the group its hatch pins it to; with no group the packet is discarded. -/
def startHead (q : Nat) (e : QEnt) (s : State) : State :=
  let k := s.que q
  let dev := qDestDev k.img
  let tc := qDestTc k.img
  let h := match s.store e.pkt with
    | some st => st.hatch
    | none => 0
  match hatchGroup (s.reachMask dev) h with
  | none => dropRef e.pkt (popEnt q (fabInc (R.fabDevCtr 6) s))
  | some g =>
    let gs := s.linkGroup g
    if (smapFind tc gs.tx).isSome then s
    else
      let n := smapGet (fun _ => 0) tc gs.seq
      let s := setGroup g { gs with
        seq := smapPut (fun _ => 0) tc ((n + 1) % 256) gs.seq,
        tx := smapInsert tc { st := e.pkt, q := q, dev := dev, seq := n, cell := 0, md := e.md } gs.tx } s
      let s := chargeQue q e.len s
      let s := onQue q (fun k => { k with cb := k.cb - e.len }) s
      popEnt q s

/-- A VOQ with credit serves its head: an aged one is discarded whatever the credit, a stomped one at its dequeue. -/
def voqStart (q : Nat) (s : State) : State :=
  let k := s.que q
  match k.ents with
  | [] => s
  | e :: _ =>
    if s.headAged k then discardHead q (some 5) s
    else if 0 < k.cb && k.shaped s.now && !s.repinHeld (qDestDev k.img) then
      match s.headBad e with
      | some ctr => discardHead q ctr s
      | none => startHead q e s
    else s

def execVoqPacketStart (q : Nat) (s : State) : Res := guardWf (q < voqCount) (voqStart q s)

/-- REFRESH_US has passed for an ACTIVE VOQ. -/
def creditRefresh (q : Nat) (s : State) : State :=
  let k := s.que q
  if k.active && k.reqAt + usT (s.fld R.qCreditCfg F.qCreditCfgRefreshUs) ≤ s.now then sendRequest q s else s

def execCreditRefresh (q : Nat) (s : State) : Res := guardWf (q < voqCount) (creditRefresh q s)

/-- A GRANT: stray, or credit up to the cap. -/
def takeGrant (m : GrantMsg) (s : State) : State :=
  let k := s.que m.voq
  if !k.en || qDestDev k.img != m.issuer then s.inc (R.qDevCtr 18)
  else
    let cap : Int := (s.fld R.qCreditCfg F.qCreditCfgCbMax * 256 : Nat)
    let cb := k.cb + (m.credit * 256 : Nat)
    let s := s.inc (R.qDevCtr 16)
    let s := doIf (cap < cb) (fun s => s.inc (R.qDevCtr 17)) s
    setQue m.voq { s.que m.voq with cb := if cap < cb then max cap k.cb else cb } s

def grantReceive (s : State) : State :=
  match s.q.grantIn with
  | [] => s
  | m :: l => takeGrant m { s with q := { s.q with grantIn := l } }

def execGrantReceive (s : State) : Res := guardWf true (grantReceive s)

/-! ### Sources and grants (R248) -/

/-- A REQUEST updates the active set of its port and TC. -/
def takeReq (m : ReqMsg) (s : State) : State :=
  let rest := s.q.sources.filter (fun x => !(x.port == m.port && x.tc == m.tc && x.dev == m.issuer))
  let add := if m.active then [{ port := m.port, tc := m.tc, dev := m.issuer, voq := m.voq, at_ := s.now : Source }] else []
  { s with q := { s.q with sources := rest ++ add } }

def requestReceive (s : State) : State :=
  match s.q.reqIn with
  | [] => s
  | m :: l => takeReq m { s with q := { s.q with reqIn := l } }

def execRequestReceive (s : State) : Res := guardWf true (requestReceive s)

/-- A source not heard of for 3 × REFRESH_US leaves the set. -/
def requestExpire (port tc dev : Nat) (s : State) : State :=
  let lim := 3 * usT (s.fld R.qCreditCfg F.qCreditCfgRefreshUs)
  { s with q := { s.q with sources := s.q.sources.filter (fun x =>
      !(x.port == port && x.tc == tc && x.dev == dev && x.at_ + lim ≤ s.now)) } }

def execRequestExpire (port tc dev : Nat) (s : State) : Res :=
  guardWf (port < 128 && tc < 8 && dev < 4096) (requestExpire port tc dev s)

/-- The weight of a TC of a port. -/
def State.tcWeight (s : State) (port t : Nat) : Nat := getF (s.rd (R.qPortTcw port)) (8 * t + 7, 8 * t)

/-- The sources of a port and TC. -/
def State.srcs (s : State) (port t : Nat) : List Source := s.q.sources.filter (fun x => x.port == port && x.tc == t)

/-- Weighted round robin: the TC that is served now, and the grants it has left after this one. -/
def State.pickTc (s : State) (port : Nat) : Option (Nat × Nat) :=
  let cur := smapGet (fun _ => 7 * 256) port s.q.tcDef
  let ok := fun t => 0 < s.tcWeight port t && !(s.srcs port t).isEmpty
  if 0 < cur % 256 && ok (cur / 256) then some (cur / 256, cur % 256 - 1)
  else (((List.range 8).map (fun i => (cur / 256 + 1 + i) % 8)).find? ok).map (fun t => (t, s.tcWeight port t - 1))

/-- Round robin among sources by device number: the next one after the last. -/
def nextSource (last : Nat) (l : List Source) : Option Source :=
  let best := fun (l : List Source) => l.foldl (fun (b : Option Source) x =>
    match b with
    | none => some x
    | some y => if x.dev < y.dev then some x else some y) none
  match best (l.filter (fun x => last ≤ x.dev)) with
  | some x => some x
  | none => best l

/-- Ticks between two grants of a port at rate R_n; none while the rate is 0. -/
def State.grantGap (s : State) (port : Nat) : Option Nat :=
  let c := s.creditCurve (s.fld (R.qPortCfg port) F.qPortCfgCreditCurve)
  let (n, d) := curveAt (s.fld (R.qPortDepth port) F.qPortDepthDPort) c
  let rate := s.portRate port * s.fld R.qCreditCfg F.qCreditCfgCreditSpeedup * n
  if rate = 0 then none
  else some (ceilDiv (s.fld R.qCreditCfg F.qCreditCfgGrantUnits * 2048 * 10 * 256 * 65536 * d) rate)

/-- The next grant of a port, once it is due. -/
def grantIssue (port : Nat) (s : State) : State :=
  if s.portExists port && smapGet (fun _ => 0) port s.q.grantAt ≤ s.now then
    match s.grantGap port, s.pickTc port with
    | some gap, some (t, left) =>
      match nextSource (smapGet (fun _ => 0) (8 * port + t) s.q.srcPtr) (s.srcs port t) with
      | none => s
      | some x =>
        let s := { s with q := { s.q with
          tcDef := smapInsert port (t * 256 + left) s.q.tcDef,
          srcPtr := smapInsert (8 * port + t) (x.dev + 1) s.q.srcPtr,
          grantAt := smapInsert port (s.now + gap) s.q.grantAt } }
        sendCredit x.dev (.grant { issuer := s.devIndex, target := x.dev, voq := x.voq,
                                   credit := s.fld R.qCreditCfg F.qCreditCfgGrantUnits }) (s.inc (R.qDevCtr 15))
    | _, _ => s
  else s

def execGrantIssue (port : Nat) (s : State) : Res := guardWf (port < 96) (grantIssue port s)

/-! ### The egress hierarchy (R249, R250) -/

/-- A child that may be served: its index, priority, weight, deficit, the queue that would be served, its head. -/
structure Cand where
  idx : Nat
  prio : Nat
  weight : Nat
  deficit : Int
  q : Nat
  len : Nat
  deriving DecidableEq, Repr

/-- Rounds of quanta that a child needs to serve its head. -/
def Cand.rounds (c : Cand) : Nat :=
  let miss := (c.len : Int) - c.deficit
  max 1 (ceilDiv miss.toNat (max 1 c.weight * 256))

/-- The children of the best priority, in the order of the round robin after `ptr`. -/
def bestPrio (ptr : SMap Nat) (l : List Cand) : List Cand :=
  let p := l.foldl (fun m c => min m c.prio) 7
  let cs := l.filter (fun c => c.prio == p)
  let last := smapGet (fun _ => 0) p ptr
  cs.filter (fun c => last ≤ c.idx) ++ cs.filter (fun c => c.idx < last)

/-- Strict priority, then deficit round robin: the child served, and the deficits after it. `ptr` holds, by priority,
one more than the child served last; that child goes on while its deficit covers its head. -/
def drr (ptr : SMap Nat) (l : List Cand) : Option (Cand × List (Nat × Int)) :=
  let order := bestPrio ptr l
  match order.getLast? with
  | none => none
  | some z =>
    if smapGet (fun _ => 0) z.prio ptr = z.idx + 1 && (z.len : Int) ≤ z.deficit then
      some (z, [(z.idx, z.deficit - z.len)])
    else
      let r := order.foldl (fun m c => min m c.rounds) z.rounds
      let pre := order.takeWhile (fun c => c.rounds != r)
      match order.drop pre.length with
      | [] => none
      | w :: post =>
        let add := fun (n : Nat) (c : Cand) => (c.idx, c.deficit + (n * (max 1 c.weight * 256) : Nat))
        some (w, pre.map (add r) ++ (w.idx, w.deficit + (r * (max 1 w.weight * 256) : Nat) - w.len) :: post.map (add (r - 1)))

/-- What a node of a level offers: the choice among its children. -/
def State.nodeCand (s : State) (level base : Nat) (kids : List Cand) (loc : Nat) : Option Cand :=
  let i := base + loc
  let n := s.node level i
  let ok := n.bad || (nEn n.img && 0 ≤ tokensNow (nRate n.img) (nBurst n.img) n.tokens n.tokAt s.now)
  if !ok then none
  else (drr n.ptr kids).map (fun r =>
    { idx := i, prio := if n.bad then 7 else nPrio n.img, weight := if n.bad then 1 else nWeight n.img,
      deficit := n.deficit, q := r.1.q, len := r.1.len })

/-- The parents' local indices of the children of a level. -/
def State.parentOf (s : State) (level : Nat) (c : Cand) : Nat :=
  if level = 0 then qParent (s.que c.idx).img else nParent (s.node level c.idx).img

/-- The nodes of the next level above some children, by rising index. -/
def State.levelUp (s : State) (level port : Nat) (l : List Cand) : List Cand :=
  let locs := (l.foldl (fun m c => smapInsert (s.parentOf level c) () m) []).map (·.1)
  locs.filterMap (fun loc =>
    s.nodeCand (level + 1) (perBlock (level + 1) * port) (l.filter (fun c => s.parentOf level c == loc)) loc)

/-- The head of a queue may start: its tail is stored, or CT_MIN bytes in cut-through (R253). -/
def State.mayStart (s : State) (port : Nat) (k : QueueSt) (e : QEnt) : Bool :=
  match s.store e.pkt with
  | none => true
  | some st => st.tailIn || (qCtEn k.img && s.fld (R.qPortCfg port) F.qPortCfgCtMin ≤ (s.storedBytes e.pkt).length)

/-- The eligible queues of a port. -/
def State.queueCands (s : State) (port : Nat) : List Cand :=
  (s.portQueues port).filterMap (fun e =>
    match e.2.ents with
    | [] => none
    | h :: _ =>
      if s.mayStart port e.2 h && e.2.shaped s.now &&
          !nbit (s.fld (R.linePortStat port) F.linePortStatPaused) (qPfcPrio e.2.img) then
        some { idx := e.1, prio := qPrio e.2.img, weight := qWeight e.2.img, deficit := e.2.deficit, q := e.1, len := h.len }
      else none)

/-- Store the deficits of the children of a level and the pointer of their parent. -/
def drrStore (level parentLevel parent : Nat) (r : Cand × List (Nat × Int)) (s : State) : State :=
  let s := forEach r.2 (fun d s =>
    if level = 0 then onQue d.1 (fun k => { k with deficit := d.2 }) s
    else setNode level d.1 { s.node level d.1 with deficit := d.2 } s) s
  let n := s.node parentLevel parent
  setNode parentLevel parent { n with ptr := smapInsert r.1.prio (r.1.idx + 1) n.ptr } s

/-- A node's shaper pays for a started packet; a bad node has none (R257). -/
def chargeNode (level i len : Nat) (s : State) : State :=
  let n := s.node level i
  if n.bad then s
  else setNode level i
    { n with tokens := takeTokens (nRate n.img) (nBurst n.img) n.tokens n.tokAt s.now len, tokAt := s.now } s

/-- The shapers on the path from a queue of a port to the port pay for a started packet (R249). -/
def chargePath (port q len : Nat) (s : State) : State :=
  let n1 := 1024 * port + qParent (s.que q).img
  let n2 := 128 * port + nParent (s.node 1 n1).img
  let n3 := 16 * port + nParent (s.node 2 n2).img
  chargeNode 3 n3 len (chargeNode 2 n2 len (chargeNode 1 n1 len (chargeQue q len s)))

/-- The candidates of each level of a port: queues, and nodes of levels 1, 2 and 3. -/
def State.hierarchy (s : State) (port : Nat) : List Cand × List Cand × List Cand × List Cand :=
  let c0 := s.queueCands port
  let c1 := s.levelUp 0 port c0
  let c2 := s.levelUp 1 port c1
  (c0, c1, c2, s.levelUp 2 port c2)

/-- The path of the choice: the children of the chosen parent at each level. -/
def serveLevel (level parentLevel parent : Nat) (kids : List Cand) (s : State) : State × Option Cand :=
  match drr (s.node parentLevel parent).ptr kids with
  | none => (s, none)
  | some r => (drrStore level parentLevel parent r s, some r.1)

/-- The queue that a port serves next, with the deficits of its path settled. -/
def pickQueue (port : Nat) (s : State) : State × Option Nat :=
  let (c0, c1, c2, c3) := s.hierarchy port
  let own := fun (level base : Nat) (p : Cand) (l : List Cand) => l.filter (fun c => base + s.parentOf level c == p.idx)
  match serveLevel 3 4 port c3 s with
  | (s, some n3) =>
    match serveLevel 2 3 n3.idx (own 2 (16 * port) n3 c2) s with
    | (s, some n2) =>
      match serveLevel 1 2 n2.idx (own 1 (128 * port) n2 c1) s with
      | (s, some n1) =>
        match serveLevel 0 1 n1.idx (own 0 (1024 * port) n1 c0) s with
        | (s, some q) =>
          (s, some q.q)
        | (s, none) => (s, none)
      | (s, none) => (s, none)
    | (s, none) => (s, none)
  | (s, none) => (s, none)

/-- The egress pipeline of a port. -/
def State.egressPipe (s : State) (port : Nat) : Nat := s.fld (R.qPortCfg port) F.qPortCfgEgressPipe

/-- The packet that leaves for the egress pipeline (R250, R253). -/
def egressPkt (port prio q : Nat) (e : QEnt) (st : Stored) (bytes : Bytes) : Packet :=
  { noPacket with
    place := .egressWait, egress := true, stream := port, port := st.port, outPort := port, prio := prio, queue := q, bytes := bytes,
    tailIn := st.tailIn, stomp := st.stomp, md := e.md, stamp := st.stamp }

/-- A port is busy while a packet of `len` bytes leaves at its line rate, with preamble and gap. -/
def portBusy (port len : Nat) (s : State) : State :=
  let n := s.node 4 port
  setNode 4 port { n with tokAt := s.now + ceilDiv ((len + 20) * 80) (max 1 (s.portRate port)) } s

/-- The head of queue q starts: whole, or in cut-through. -/
def startEgress (port q : Nat) (e : QEnt) (st : Stored) (s : State) : State :=
  let s := portBusy port e.len (chargePath port q e.len s)
  let new := s.q.nextPkt
  let b := s.storedBytes e.pkt
  let s := bridgeRouted 1 new b (newPkt (egressPkt port (qPfcPrio (s.que q).img) q e st b) (popEnt q s))
  if st.tailIn then dropRef e.pkt s
  else { s with q := { s.q with started := s.q.started ++ [{ pkt := new, st := e.pkt, port := port, at_ := s.now, had := b.length }] } }

/-- The chosen queue's head starts, or is discarded at its dequeue (R219, R250, R254). -/
def serveEgress (port q : Nat) (s : State) : State :=
  match (s.que q).ents with
  | [] => s
  | e :: _ =>
    match s.headBad e, s.store e.pkt with
    | some ctr, _ => discardHead q ctr s
    | none, none => s
    | none, some st =>
      if s.role (s.egressPipe port) != 2 then discardHead q (some 19) s
      else startEgress port q e st s

/-- An aged head of the port's queues. -/
def State.agedQueue (s : State) (port : Nat) : Option Nat :=
  ((s.portQueues port).find? (fun e => s.headAged e.2)).map (·.1)

/-- The egress scheduler of a port: an aged head is served for the discard; else, with the link up and the line free,
the next eligible queue. -/
def egressDequeue (port : Nat) (s : State) : State :=
  if !s.portExists port then s
  else match s.agedQueue port with
    | some q => discardHead q (some 5) s
    | none =>
      if s.linkUp port && (s.node 4 port).tokAt ≤ s.now then
        match pickQueue port s with
        | (t, some q) => serveEgress port q t
        | (_, none) => s
      else s

def execEgressDequeue (port : Nat) (s : State) : Res := guardWf (port < 96) (egressDequeue port s)

/-- The bytes that a port has needed of a packet since it started. -/
def State.bytesNeeded (s : State) (x : Started) : Nat := (s.now - x.at_) * s.portRate x.port / 80

/-- A byte is needed that is not stored: the frame ends with a stomp after what was stored and streamed, the rest of the body is discarded (R255). -/
def underrun (port : Nat) (s : State) : State :=
  match s.q.started.find? (fun x => x.port == port && (s.storedBytes x.st).length < s.bytesNeeded x) with
  | none => s
  | some x =>
    let s := { (s.inc (R.qDevCtr 8)) with
      q := { (s.inc (R.qDevCtr 8)).q with started := s.q.started.filter (fun y => y.pkt != x.pkt) } }
    let more := (s.storedBytes x.st).drop x.had
    let s := dropRef x.st s
    match s.pkt x.pkt with
    | some p => bridgeTail 1 x.pkt more (setPkt x.pkt { p with bytes := p.bytes ++ more, tailIn := true, stomp := true } s)
    | none => s

def execCtUnderrun (port : Nat) (s : State) : Res := guardWf (port < 96) (underrun port s)

/-! ### Entry to an egress pipeline (R45, R63, R250) -/

/-- The oldest packet that waits for its egress context, once it has crossed the bridge. -/
def State.egressWaiting (s : State) (port : Nat) : Option (Nat × Packet) :=
  match s.pkts.find? (fun e => e.2.place == .egressWait && e.2.outPort == port) with
  | some e => if (s.bridge 1).holds e.1 then none else some e
  | none => none

/-- A packet released by the egress scheduler takes a context of its egress pipeline with the live bank's tag; a layout
that the bank does not accept drops it. -/
def egressEntry (port : Nat) (s : State) : State :=
  match s.egressWaiting port with
  | none => s
  | some (id, p) =>
    let pipe := s.egressPipe port
    match s.plate.live with
    | none => s
    | some b =>
      if s.role pipe != 2 then erasePkt id (countDrop p.queue (takeFlits 1 id (s.inc (R.qDevCtr 19))))
      else if s.quiescing pipe || !s.ctxFree (pipe % 8) then s
      else if !(s.bank b).metaAcc.contains (mdF p.md Md.layout) then
        erasePkt id (takeFlits 1 id (s.inc (R.plateMetaReject pipe)))
      else
        setPkt id { p with place := .pipe, egress := true, pipe := pipe, bank := b, pass := 0, stage := none }
          (notePass 2 (takeFlits 1 id s))

def execEgressEntry (port : Nat) (s : State) : Res := guardWf (port < 96) (egressEntry port s)

/-! ### Recirculation (R256) -/

/-- The recirculation queue returns its head to the spreader, no faster than 5 % of the ingress packet rate; it waits
while the stream is full or no pipeline may take it. -/
def recircReturn (s : State) : State :=
  match s.q.recirc with
  | [] => s
  | e :: l =>
    match s.store e.pkt with
    | none => { s with q := { s.q with recirc := l } }
    | some st =>
      if !st.tailIn || s.now < s.q.recircAt then s
      else
        let pop := fun (s : State) => { s with q := { s.q with recirc := l, recircAt := s.now + 16 } }
        match s.headBad e with
        | some ctr => dropRef e.pkt (pop (match ctr with
          | some c => s.inc (R.qDevCtr c)
          | none => s))
        | none =>
          if 32768 ≤ (s.stream recircStream).outstanding then s
          else match nextPipe s s.line.rr with
            | none => s
            | some pipe =>
              admitTo recircStream pipe { noPacket with port := st.port, bytes := st.bytes, stamp := st.stamp }
                (dropRef e.pkt (pop s))

def execRecircReturn (s : State) : Res := guardWf true (recircReturn s)

/-! ### Errors in queue engine memories (R257) -/

/-- The index range and the opcodes of an object (R258): WRITE 1, READ 2, COMMIT 3, FLUSH 4. -/
def objCount (obj : Nat) : Nat :=
  match obj with
  | 1 => 1048576
  | 2 => 98304
  | 3 => 12288
  | 4 => 1536
  | 5 => 524288
  | 6 => 512
  | 7 => 256
  | 8 => 65536
  | 9 => 65536
  | 10 => 131072
  | 11 => 1048576
  | _ => 0

def objOps (obj : Nat) : List Nat :=
  match obj with
  | 1 => [1, 2, 4]
  | 6 => [1, 2, 3]
  | 7 => [1, 2, 3]
  | 11 => [2]
  | n => if 2 ≤ n && n ≤ 10 then [1, 2] else []

/-- Indices that an opcode takes: a COMMIT names a curve. -/
def objLimit (obj op : Nat) : Nat := if op = 3 then objCount obj / 32 else objCount obj

/-- Discard the first `n` packets of a queue, each counted in FLUSH_DROP and DROP_PKTS. -/
def flushSome (q n : Nat) (s : State) : State := forEach ((s.que q).ents.take n) (fun _ s => discardHead q (some 6) s) s

/-- Discard what a queue holds. -/
def flushQue (q : Nat) (s : State) : State := flushSome q (s.que q).ents.length s

/-- The entry at the head can no longer be reached: its pages are lost (R215, R257); a packet that other entries name
only loses this reference. -/
def loseHead (q : Nat) (s : State) : State :=
  match (s.que q).ents with
  | [] => s
  | e :: _ =>
    let s := popEnt q s
    match s.store e.pkt with
    | none => s
    | some k =>
      if 1 < k.copies then dropRef e.pkt s
      else
        let s := (walkOn k.pool k.pages k.head s).1
        let s := bpmRefresh (losePages k.pool k.head k.pages (dropUsed k.req k.pool k.head k.pages s))
        let s := forgetPkt e.pkt (addPfc k.pfc 0 k.acct s)
        { s with q := { s.q with stored := smapErase e.pkt s.q.stored } }

/-- The list of a queue can be read up to some packet, which no rule tells (R257): those before it are discarded, the
rest cannot be reached; log 154. -/
def queueBroken (q : Nat) (s : State) : State :=
  let n := Config.listReach s.freeCtr % ((s.que q).ents.length + 1)
  let s := flushSome q n { s with freeCtr := s.freeCtr + 1 }
  forEach (s.que q).ents (fun _ s => loseHead q s) s

/-- The object has an uncorrectable word. -/
def State.objBad (s : State) (obj i : Nat) : Bool :=
  match obj with
  | 1 => (s.que i).bad
  | 2 => (s.node 1 i).bad
  | 3 => (s.node 2 i).bad
  | 4 => (s.node 3 i).bad
  | 5 => (s.policer i).bad
  | n => s.q.bad.contains (n, i)

def setObjBad (obj i : Nat) (b : Bool) (s : State) : State :=
  match obj with
  | 1 => onQue i (fun k => { k with bad := b }) s
  | 2 => setNode 1 i { s.node 1 i with bad := b } s
  | 3 => setNode 2 i { s.node 2 i with bad := b } s
  | 4 => setNode 3 i { s.node 3 i with bad := b } s
  | 5 => setPolicer i { s.policer i with bad := b } s
  | n =>
    let l := s.q.bad.filter (· != (n, i))
    { s with q := { s.q with bad := if b then l ++ [(n, i)] else l } }

/-- A counter of a queue has an uncorrectable word: counted, recorded and reset. -/
def qCountBad (q i : Nat) (s : State) : State :=
  onQue q (fun k => match i with
    | 0 => { k with fwd := 0 }
    | 1 => { k with drop := 0 }
    | _ => { k with mcDrop := 0 }) (report .t 0x11 0 .k 0x002 [(11, 1), (q, 4)] (s.inc (R.qDevCtr 23)))

/-- An uncorrectable word: counted, recorded once, and the object behaves as R257's table says; a queue's packets are
discarded. The bad one of a queue's counters that a READ finds is free. -/
def qEccBad (obj i : Nat) (s : State) : State :=
  if obj = 11 then qCountBad i (Config.qBadCount s.freeCtr) { s with freeCtr := s.freeCtr + 1 }
  else
    let s := s.inc (R.qDevCtr 23)
    let s := doIf (!s.objBad obj i) (report .t 0x11 0 .k 0x002 [(if obj < 16 then obj else obj - 10, 1), (i, 4)]) s
    doIf (obj == 1) (queueBroken i) (setObjBad obj i true s)

/-- A correctable error. -/
def qEccFix (obj i : Nat) (s : State) : State := report .t 0x11 0 .c 0x001 [(obj, 1), (i, 4)] (s.inc (R.qDevCtr 22))

/-- The object and index exist; a curve is named by its number. -/
def qObjOk (obj i : Nat) : Bool := 1 ≤ obj && obj ≤ 11 && i < (if obj = 6 ∨ obj = 7 then objCount obj / 32 else objCount obj)

/-- The memory named exists. -/
def qMemOk (m : QMem) : Bool :=
  match m with
  | .obj code i => code != 11 && qObjOk code i
  | .list q => q < 1048576
  | .stby code i => (code == 6 || code == 7) && i < objCount code
  | .count q i => q < 1048576 && i < 3
  | .devCount i => i < 24

/-- The object code and index that a record of a memory gives. -/
def qMemCtx (m : QMem) : Nat × Nat :=
  match m with
  | .obj code i => (code, i)
  | .list q => (1, q)
  | .stby code i => (code, i)
  | .count q _ => (11, q)
  | .devCount i => (Config.qDevObj, i)

/-- An uncorrectable word of a memory (R257): a queue whose list is bad is a bad queue, a counter is reset. -/
def qMemBad (m : QMem) (s : State) : State :=
  match m with
  | .obj code i => qEccBad code i s
  | .list q => qEccBad 1 q s
  | .stby code i => qEccBad (code + 10) i s
  | .count q i => qCountBad q i s
  | .devCount i => report .t 0x11 0 .k 0x002 [(Config.qDevObj, 1), (i, 4)] ((s.wr (R.qDevCtr i) 0).inc (R.qDevCtr 23))

/-- An error that the queue engine finds in one of its memories, whatever read it. -/
def qEccFound (m : QMem) (ecc : Ecc) (s : State) : State :=
  match ecc with
  | .ok | .badCheck => s
  | .corr => qEccFix (qMemCtx m).1 (qMemCtx m).2 s
  | .uncorr => qMemBad m s

def execQEccUncorr (mem : QMem) (ecc : Ecc) (s : State) : Res := guardWf (qMemOk mem) (qEccFound mem ecc s)

/-! ### Checks of images (R259, R260) -/

/-- The number of local indices of the next level in the port of an element. -/
def State.parentLimit (s : State) (level i : Nat) : Nat :=
  let b := if level = 0 then queueBlock i else i / perBlock level
  if level = 3 then 1 else perBlock (level + 1) * (s.elemPort b).2

def shaperOk (rate burst : Nat) : Bool := rate == 0 || 16384 ≤ burst

def queueImgOk (s : State) (q : Nat) (i : Bytes) : Bool :=
  byteAt 0 i < 16 && byteAt 1 i < 16 && byteAt 2 i < 16 && byteAt 3 i &&& 0x88 == 0 && leAt 8 4 i < 2 ^ 24 &&
    leAt 0x18 4 i < 2 ^ 22 && shaperOk (qRate i) (qBurst i) &&
    (q < voqCount || (1 ≤ qWeight i && qWeight i ≤ 1024 && qParent i < s.parentLimit 0 q))

def nodeImgOk (s : State) (level n : Nat) (i : Bytes) : Bool :=
  byteAt 0 i < 2 && byteAt 1 i < 8 && 1 ≤ nWeight i && nWeight i ≤ 1024 && nParent i < s.parentLimit level n &&
    leAt 6 2 i == 0 && shaperOk (nRate i) (nBurst i)

def policerImgOk (i : Bytes) : Bool :=
  leAt 0 4 i ≤ leAt 4 4 i && 1 ≤ leAt 8 4 i && 1 ≤ leAt 0xC 4 i && byteAt 0x10 i < 16 && allZero (slice 0x11 3 i) &&
    allZero (slice 0x1C 4 i)

def pointOk (w : Word) : Bool := getF w (23, 16) == 0

def mcGroupOk (w : Word) : Bool :=
  getF w (63, 32) == 0 && getF w (30, 25) == 0 && 1 ≤ getF w (24, 17) &&
    getF w (16, 0) + getF w (24, 17) ≤ 131072

/-- A valid group of a table names entry `i`. -/
def groupNames (m : SMap Word) (i : Nat) : Bool :=
  m.any (fun g => bitOf g.2 31 && getF g.2 (16, 0) ≤ i && i < getF g.2 (16, 0) + getF g.2 (24, 17))

/-- An entry that an egress group names gives a port and EQ_OFFSET that exist; one that an ingress group names has no bit
above its VOQ. DESIGN CHOICE: an entry that no valid group names meets one of the two; log 155. -/
def entryOk (s : State) (i : Nat) (w : Word) : Bool :=
  let voq := getF w (38, 18) == 0
  let eg := s.portExists (getF w (6, 0)) && getF w (22, 7) < 8192 * s.portWidth (getF w (6, 0))
  getF w (63, 39) == 0 &&
    (if groupNames s.q.mcEg i then eg else if groupNames s.q.mcIn i then voq else voq || eg)

/-- The image passes the checks that end in LENGTH. -/
def State.imgOk (s : State) (obj i : Nat) (b : Bytes) : Bool :=
  let w := wordAt 0 b
  match obj with
  | 1 => queueImgOk s i b
  | 2 => nodeImgOk s 1 i b
  | 3 => nodeImgOk s 2 i b
  | 4 => nodeImgOk s 3 i b
  | 5 => policerImgOk b
  | 6 => pointOk w
  | 7 => pointOk w
  | 8 => mcGroupOk w
  | 9 => mcGroupOk w
  | _ => entryOk s i w

/-- QUIESCED of a queue or node (R259); a bad node is served as EN 1. -/
def State.objQuiesced (s : State) (obj i : Nat) : Bool :=
  match obj with
  | 1 => !(s.que i).en && (s.que i).depth == 0
  | 2 => !(nEn (s.node 1 i).img || (s.node 1 i).bad) && !s.nodeHolds 1 i
  | 3 => !(nEn (s.node 2 i).img || (s.node 2 i).bad) && !s.nodeHolds 2 i
  | 4 => !(nEn (s.node 3 i).img || (s.node 3 i).bad) && !s.nodeHolds 3 i
  | _ => true

/-- The fields of class Q of an image. -/
def qFields (obj : Nat) (b : Bytes) : Bytes :=
  match obj with
  | 1 => slice 0xE 2 b ++ slice 0x18 4 b
  | 2 => slice 4 2 b
  | 3 => slice 4 2 b
  | 4 => slice 4 2 b
  | _ => []

/-- The stored image of an object, as READ gives it. -/
def State.objImg (s : State) (obj i : Nat) : Bytes :=
  match obj with
  | 1 => (s.que i).img
  | 2 => (s.node 1 i).img
  | 3 => (s.node 2 i).img
  | 4 => (s.node 3 i).img
  | 5 =>
    let k := (s.policer i).filled s.now
    patch 0x14 (toLe 4 (k.c / polUnit) ++ toLe 4 (k.p / polUnit)) k.img
  | 6 => toLe 8 (smapGet ecnReset i s.q.ecnStby).toNat
  | 7 => toLe 8 (smapGet creditReset i s.q.crStby).toNat
  | 8 => toLe 8 (smapGet (fun _ => 0) i s.q.mcIn).toNat
  | 9 => toLe 8 (smapGet (fun _ => 0) i s.q.mcEg).toNat
  | 10 => toLe 8 (smapGet (fun _ => 0) i s.q.mcEnt).toNat
  | _ => toLe 8 (s.que i).fwd ++ toLe 8 (s.que i).drop ++ toLe 8 (s.que i).mcDrop

/-- Bytes of an image. -/
def objBytes (obj : Nat) : Nat :=
  match obj with
  | 1 => 32
  | 2 => 16
  | 3 => 16
  | 4 => 16
  | 5 => 32
  | 11 => 24
  | _ => 8

/-! ### Commands (R258 to R261) -/

/-- The object code under which a bad word that a command names is kept: a point of the standby copy of a curve is 10 above
its object, whose own mark is that of the active copy. -/
def wordObj (obj : Nat) : Nat := if obj = 6 ∨ obj = 7 then obj + 10 else obj

/-- A WRITE stores the image; a policer's buckets are filled (R232); the element's bad mark goes. -/
def qStore (obj i : Nat) (b : Bytes) (s : State) : State :=
  let w := wordAt 0 b
  let q := s.q
  let s :=
    match obj with
    | 1 => onQue i (fun k => { k with img := b }) s
    | 2 => setNode 1 i { s.node 1 i with img := b } s
    | 3 => setNode 2 i { s.node 2 i with img := b } s
    | 4 => setNode 3 i { s.node 3 i with img := b } s
    | 5 => setPolicer i { img := patch 0x14 (zeros 8) b, c := leAt 8 4 b * polUnit, p := leAt 0xC 4 b * polUnit,
                          at_ := s.now, bad := false } s
    | 6 => { s with q := { q with ecnStby := smapPut ecnReset i w q.ecnStby } }
    | 7 => { s with q := { q with crStby := smapPut creditReset i w q.crStby } }
    | 8 => { s with q := { q with mcIn := smapPut (fun _ => 0) i w q.mcIn } }
    | 9 => { s with q := { q with mcEg := smapPut (fun _ => 0) i w q.mcEg } }
    | _ => { s with q := { q with mcEnt := smapPut (fun _ => 0) i w q.mcEnt } }
  setObjBad (wordObj obj) i false s

/-- WRITE: class Q (R11, R259), which is logged, then the image checks. -/
def qWriteDo (fn : Fn) (p obj i : Nat) (s : State) : State :=
  let b := slice 0 (objBytes obj) (s.dataBytes (R.qData p) 4)
  if qFields obj b != qFields obj (s.objImg obj i) && !s.objQuiesced obj i then
    complete (.q p) Code.quiesceRequired 0 (quiesceLog fn (R.qCmd p) 2 s)
  else if !s.imgOk obj i b then complete (.q p) Code.length 0 s
  else complete (.q p) Code.ok 0 (qStore obj i b s)

/-- READ, which checks the words it reads; a bad object, or a bad point of a standby copy, cannot be read. -/
def qReadDo (p obj i : Nat) (ecc : Ecc) (s : State) : State :=
  let s := doIf (ecc == .corr) (qEccFix obj i) s
  let s := doIf (ecc == .uncorr && !s.objBad (wordObj obj) i) (qEccBad (wordObj obj) i) s
  if ecc == .uncorr || s.objBad (wordObj obj) i then complete (.q p) Code.eccUncorrectable 0 s
  else complete (.q p) Code.ok 0 (setData (R.qData p) 4 (s.objImg obj i) s)

/-- The DEPTHs of a curve do not decrease. -/
def depthsRise : List Word → Bool
  | a :: b :: l => pointDepth a ≤ pointDepth b && depthsRise (b :: l)
  | _ => true

/-- COMMIT (R237). DESIGN CHOICE: one that meets a bad standby point completes with ECC_UNCORRECTABLE; log 154. -/
def qCommitDo (p obj c : Nat) (s : State) : State :=
  let q := s.q
  let idx := (List.range 32).map (fun i => 32 * c + i)
  let d := if obj = 6 then ecnReset else creditReset
  let pts := idx.map (fun i => smapGet d i (if obj = 6 then q.ecnStby else q.crStby))
  if idx.any (s.objBad (wordObj obj)) then complete (.q p) Code.eccUncorrectable 0 s
  else if !depthsRise pts then complete (.q p) Code.length 0 s
  else
    let put := fun m => (idx.zip pts).foldl (fun m e => smapPut d e.1 e.2 m) m
    let s := if obj = 6 then { s with q := { q with ecnAct := put q.ecnAct } }
             else { s with q := { q with crAct := put q.crAct } }
    complete (.q p) Code.ok 0 (setObjBad obj c false s)

/-- FLUSH of a queue whose EN is 0 starts; it is done at once by FLUSH_DONE, or times out (R252, R261). -/
def qFlushDo (p i : Nat) (s : State) : State :=
  if (s.que i).en then complete (.q p) Code.quiesceRequired 0 s
  else { s with q := { s.q with flushes := s.q.flushes.set p (some { q := i, at_ := s.now }) } }

/-- The flushed queue of a partition becomes empty and the FLUSH completes. -/
def flushDone (p : Nat) (s : State) : State :=
  match s.q.flushes.getD p none with
  | none => s
  | some f =>
    complete (.q p) Code.ok 0 (flushQue f.q { s with q := { s.q with flushes := s.q.flushes.set p none } })

/-- A FLUSH not done within 100 ms completes with TIMEOUT; the packets that it has discarded by then, fewer than all, stay
discarded (R261). How many is open; log 80. -/
def flushTimeout (p : Nat) (s : State) : State :=
  match s.q.flushes.getD p none with
  | none => s
  | some f =>
    if f.at_ + msT 100 ≤ s.now then
      let n := Config.flushSoFar s.freeCtr % max 1 (s.que f.q).ents.length
      complete (.q p) Code.timeout 0 (flushSome f.q n
        { s with freeCtr := s.freeCtr + 1, q := { s.q with flushes := s.q.flushes.set p none } })
    else s

def execFlushDone (part : Nat) (s : State) : Res := guardWf (part < 4) (flushDone part s)
def execFlushTimeout (part : Nat) (s : State) : Res := guardWf (part < 4) (flushTimeout part s)

/-- The range of R380 that grants an object; a queue's counters go with the queue. -/
def objRange (obj : Nat) : Nat := if obj = 11 then 7 else obj + 6

/-- The index that is judged against the range: curves are granted whole. -/
def objUnit (obj op i : Nat) : Nat := if (obj = 6 ∨ obj = 7) ∧ op ≠ 3 then i / 32 else i

def qPerform (fn : Fn) (p op obj i : Nat) (ecc : Ecc) (s : State) : State :=
  match op with
  | 1 => qWriteDo fn p obj i s
  | 2 => qReadDo p obj i ecc s
  | 3 => qCommitDo p obj i s
  | _ => qFlushDo p i s

/-- The checks of R546 on a queue command. -/
def qChecks (s : State) (p op obj i : Nat) : List (Bool × Nat) :=
  [((objOps obj).contains op, Code.notfound), (i < objLimit obj op, Code.notfound),
   (s.inRange p (objRange obj) (objUnit obj op i) 1, Code.denied)]

/-- An accepted queue command. -/
def qAct (fn : Fn) (p op obj i : Nat) (ecc : Ecc) (s : State) : State :=
  runChecks (.q p) fn (qChecks s p op obj i) (qPerform fn p op obj i ecc) s

/-- A write to Q_CMD_p that the map let through. -/
def qCommand (fn : Fn) (p : Nat) (w : Word) (ecc : Ecc) (s : State) : State :=
  let op := getF w F.qCmdOpcode
  let obj := getF w F.qCmdObject
  let i := s.fld (R.qArg p) F.qArgIndex
  issue (.q p) op p (orHold (.q fn p op obj i ecc) (qAct fn p op obj i ecc)) s

def qIssue (fn : Fn) (op obj : Nat) (ecc : Ecc) (s : State) : State :=
  access fn (R.qCmd ((s.partOf fn).getD 0)) 1 (fun p _ _ s =>
    qCommand fn p (setF (setF 0 F.qCmdOpcode op) F.qCmdObject obj) ecc s) s

def execQWrite (fn : Fn) (object : Nat) (s : State) : Res := guardWf (fnOk fn && object < 256) (qIssue fn 1 object .ok s)
def execQRead (fn : Fn) (object : Nat) (ecc : Ecc) (s : State) : Res :=
  guardWf (fnOk fn && object < 256) (qIssue fn 2 object ecc s)
def execQCommit (fn : Fn) (object : Nat) (s : State) : Res := guardWf (fnOk fn && object < 256) (qIssue fn 3 object .ok s)
def execQFlush (fn : Fn) (s : State) : Res := guardWf (fnOk fn) (qIssue fn 4 1 .ok s)

/-! ### Fallback (R235) -/

/-- A write of 1 to AUTO clears it, unless a stack is not IN_SERVICE. -/
def clearAuto (s : State) : State :=
  if s.stackOut then s else fbRefresh (s.setFld R.qAdmitCfg F.qAdmitCfgAuto 0)

end Sys2Proof.Machine
end

