-- ==== Sys2Proof/Machine/Speed.lean ====
section
/-! DEFINITION. The speed curves (R464, R465, R484, R487), the present voltages and temperatures, and the slack that they
give a calendar's steps (R296). -/

namespace Sys2Proof.Machine

/-- The grid of R465: voltages in mV, temperatures in 0.1 °C. -/
def gridV : List Nat := [600, 650, 700, 750, 800, 850, 900, 950]
def gridT : List Int := [0, 250, 500, 700, 850, 1000]

/-- The classes of R464 that are not reserved. -/
def classOk (c : Nat) : Bool := c ≤ 0x07 || (0x10 ≤ c && c ≤ 0x15)

/-- A curve entry in units of 0.25 ps. -/
def State.curveEntry (s : State) (die cls v t : Nat) : Nat :=
  if s.pwr.curves.isEmpty then Config.worstCurve v t
  else leAt (0x80 + 96 * (16 * die + cls % 16) + 2 * (6 * v + t)) 2 s.pwr.curves

/-- The voltage segment used for v: the one that holds it, else the nearest. -/
def segV (v : Int) : Nat := ((List.range 6).filter (fun i => ((gridV.getD (i + 1) 0 : Nat) : Int) ≤ v)).length

/-- The temperature segment used for t. -/
def segT (t : Int) : Nat := ((List.range 4).filter (fun i => gridT.getD (i + 1) 0 ≤ t)).length

/-- period_ps in units of 1/600,000 ps: bilinear between the grid points around (v, t), linear beyond them (R465). -/
def State.period (s : State) (die cls : Nat) (v t : Int) : Int :=
  let i := segV v
  let j := segT t
  let v0 : Int := (gridV.getD i 0 : Nat)
  let t0 := gridT.getD j 0
  let w := gridT.getD (j + 1) 0 - t0
  let e := fun a b => ((s.curveEntry die cls a b : Nat) : Int)
  let atT := fun a => e a j * (t0 + w - t) + e a (j + 1) * (t - t0)
  (atT i * (v0 + 50 - v) + atT (i + 1) * (v - v0)) * (3000 / w)

/-- A signed field of 16 bits. -/
def signed16 (v : Nat) : Int := if v < 32768 then v else (v : Int) - 65536

/-- The voltage last requested of a rail; while none has been requested, its maximum (R473). -/
def State.railSet (s : State) (d : Nat) : Nat :=
  let v := s.fld (R.pwrRailStat d) F.pwrRailStatVsetMv
  if v = 0 then s.fld (R.pwrRailCfg d) F.pwrRailCfgVmaxMv else v

/-- The present voltage of a rail: the lower of the last request and the last read-back (R467). -/
def State.railNow (s : State) (d : Nat) : Nat :=
  let r := s.fld (R.pwrRailStat d) F.pwrRailStatVreadMv
  if r = 0 then s.railSet d else min (s.railSet d) r

/-- Two voltages within the 10 mV of a confirmed request. -/
def mvNear (a b : Nat) : Bool := a ≤ b + 10 && b ≤ a + 10

/-- The voltage from which a rail is raised or lowered by grid steps: the present one (R467), taken as the requested grid
voltage where the read-back confirms it. DESIGN CHOICE; log 131. -/
def State.railBase (s : State) (d : Nat) : Nat := if mvNear (s.railNow d) (s.railSet d) then s.railSet d else s.railNow d

/-- The present temperature of a die in 0.1 °C (R478, R479): 105 °C before the first reading. -/
def State.dieTemp (s : State) (d : Nat) : Int :=
  if s.pwr.temps.isEmpty then 1050
  else signed16 (s.fld R.pwrThermStat (if d = 0 then F.pwrThermStatTHotF else F.pwrThermStatTHotT))

/-- The droop offset of a die at the grid voltage of a request; 0 in calibration-absent mode. -/
def State.droop (s : State) (d v : Nat) : Nat :=
  if s.pwr.curves.isEmpty then 0 else leAt (0xCC0 + 16 * d + 2 * (gridV.findIdx? (· == v) |>.getD 0)) 2 s.pwr.curves

/-- The slack in ps of a STEPS section with given voltages of the two dies (R296). -/
def State.slackOf (s : State) (steps : Bytes) (volt : Nat → Int) : Int :=
  let total := (List.range (steps.length / 16)).foldl (fun (a : Int) i =>
    let e := slice (16 * i) 16 steps
    let d := byteAt 1 e
    a + (leAt 8 4 e * 600000 : Nat) - (leAt 4 4 e : Nat) * s.period d (byteAt 0 e) (volt d) (s.dieTemp d)) 0
  total / 600000

/-- The voltage that R296 uses for a die: the present one less the droop offset. -/
def State.slackVolt (s : State) (d : Nat) : Int := (s.railNow d : Int) - s.droop d (s.railSet d)

/-- The same where the rail is at a given grid voltage. -/
def State.slackVoltAt (s : State) (d v : Nat) : Int := (v : Int) - s.droop d v

end Sys2Proof.Machine
end

