-- ==== Sys2Proof/Machine/Calendar.lean ====
section
/-! DEFINITION. The calendar (R263 to R299): its images and their checks, the banks, swaps and slack, flow match, scheduled
cells, releases, the voting sequencer (R494, R495), and the line MAC's transmission beside releases (R94, R276). -/

namespace Sys2Proof.Machine

/-! ### Images (R280 to R284) -/

/-- A calendar image. -/
def calKind : ImgKind := { magic := 0x4C43554F, counts := [6, 7], once := [1, 2, 3, 4, 5, 6], perInst := none }

def calEpoch (b : Bytes) : Nat := byteAt 0x2A b % 2
def calFlowCount (b : Bytes) : Nat := leAt 0x2C 2 b

def calFlows (b : Bytes) : Bytes := secOf b 1
def calWins (b : Bytes) : Bytes := secOf b 2
def calTx (b : Bytes) : Bytes := secOf b 3
def calRx (b : Bytes) : Bytes := secOf b 4
def calRels (b : Bytes) : Bytes := secOf b 5
def calSteps (b : Bytes) : Bytes := secOf b 6

/-- Flow entry f. -/
def flowEnt (b : Bytes) (f : Nat) : Bytes := slice (32 * f) 32 (calFlows b)
def fValid (e : Bytes) : Bool := nbit (byteAt 0 e) 0
def fAligned (e : Bytes) : Bool := nbit (byteAt 0 e) 1
def fDemote (e : Bytes) : Bool := nbit (byteAt 0 e) 2
def fTx (e : Bytes) : Bool := fValid e && nbit (byteAt 0 e) 3
def fRx (e : Bytes) : Bool := fValid e && nbit (byteAt 0 e) 4
def fMatch (e : Bytes) : Nat := byteAt 1 e % 4
def fIn (e : Bytes) : Nat := byteAt 2 e
def fOut (e : Bytes) : Nat := byteAt 3 e
def fVid (e : Bytes) : Nat := leAt 4 2 e
def fDmac (e : Bytes) : Bytes := slice 6 6 e
def fMaxLen (e : Bytes) : Nat := leAt 0xC 2 e
def fPages (e : Bytes) : Nat := byteAt 0xE e
def fTxBufs (e : Bytes) : Nat := byteAt 0xF e % 16
def fRxBufs (e : Bytes) : Nat := byteAt 0xF e / 16
def fTxBase (e : Bytes) : Nat := leAt 0x10 2 e
def fRxBase (e : Bytes) : Nat := leAt 0x12 2 e

/-- Window entry w. -/
def winEnt (b : Bytes) (w : Nat) : Nat := leAt (8 * w) 8 (calWins b)
def wBuf (n : Nat) : Nat := nbits n 48 45
def wFlow (n : Nat) : Nat := nbits n 44 32
def wWidth (n : Nat) : Nat := nbits n 31 20
def wOpen (n : Nat) : Nat := nbits n 19 0

/-- Release entry r. -/
def relEnt (b : Bytes) (r : Nat) : Nat := leAt (8 * r) 8 (calRels b)
def rCarry (n : Nat) : Bool := nbit n 37
def rBuf (n : Nat) : Nat := nbits n 36 33
def rFlow (n : Nat) : Nat := nbits n 32 20
def rTime (n : Nat) : Nat := nbits n 19 0

/-- Slot entries: cell, the window or release named, position. -/
def sCell (n : Nat) : Nat := nbits n 31 28
def sRef (n : Nat) : Nat := nbits n 27 14
def sPos (n : Nat) : Nat := nbits n 13 0

def winCount (b : Bytes) : Nat := (calWins b).length / 8
def relCount (b : Bytes) : Nat := (calRels b).length / 8
def flowEntries (b : Bytes) : Nat := (calFlows b).length / 32

/-- COUNT and FIRST of a lane in a slot section. -/
def laneCount (sec : Bytes) (l : Nat) : Nat := nbits (leAt (4 * l) 4 sec) 30 17
def laneFirst (sec : Bytes) (l : Nat) : Nat := nbits (leAt (4 * l) 4 sec) 16 0

/-- The slot entries of a lane. -/
def laneSlots (sec : Bytes) (l : Nat) : List Nat :=
  (List.range (laneCount sec l)).map (fun i => leAt (512 + 4 * (laneFirst sec l + i)) 4 sec)

/-- The entry of a lane and position. -/
def slotAt (sec : Bytes) (l p : Nat) : Option Nat := (laneSlots sec l).find? (fun e => sPos e == p)

/-- A TX slot is a carry slot (R283). -/
def txCarry (b : Bytes) (e : Nat) : Bool := pickTime (sPos e) < wOpen (winEnt b (sRef e))

/-! ### Check 13 (R285) -/

/-- The reserved bits of a flow entry. -/
def flowResOk (e : Bytes) : Bool :=
  byteAt 0 e < 32 && byteAt 1 e < 4 && leAt 4 2 e < 4096 && byteAt 0xE e < 16 && allZero (slice 0x14 12 e)

/-- The fields of a valid flow entry (R282) at the present port modes (R82). -/
def flowOk (s : State) (e : Bytes) : Bool :=
  flowResOk e && (!fValid e ||
    ((fMatch e != 0) == fTx e && (!fTx e || fIn e < 96) && (!fRx e || fOut e < 96) && (fMatch e != 1 || fVid e == 0) &&
     (fMatch e == 3 || allZero (fDmac e)) && 64 ≤ fMaxLen e && fMaxLen e ≤ 3840 &&
     fPages e == ceilDiv (fMaxLen e) 256 && (0 < fTxBufs e) == fTx e && (0 < fRxBufs e) == fRx e &&
     (!fTx e || s.portExists (fIn e)) && (!fRx e || s.portExists (fOut e)) &&
     (!fTx e || fTxBase e + fTxBufs e * fPages e ≤ 65536) && (!fRx e || fRxBase e + fRxBufs e * fPages e ≤ 65536)))

/-- The pages of the buffers of a flow, as first page and count. -/
def flowPages (e : Bytes) : List (Nat × Nat) :=
  (if fTx e then [(fTxBase e, fTxBufs e * fPages e)] else []) ++
    (if fRx e then [(fRxBase e, fRxBufs e * fPages e)] else [])

/-- All the buffers' pages of an image. -/
def calPages (b : Bytes) : List (Nat × Nat) := (List.range (flowEntries b)).flatMap (fun f => flowPages (flowEnt b f))

/-- No two ranges of a list share a page. -/
def disjoint : List (Nat × Nat) → Bool
  | [] => true
  | a :: l => l.all (fun c => a.1 + a.2 ≤ c.1 || c.1 + c.2 ≤ a.1) && disjoint l

/-- The key under which a TX flow matches; two flows must not share it. -/
def flowKey (e : Bytes) : Nat × Nat × Nat × Bytes := (fIn e, fMatch e, fVid e, fDmac e)

/-- No element of a list stands in it twice. -/
def allDiff {α : Type} [DecidableEq α] : List α → Bool
  | [] => true
  | a :: l => !l.contains a && allDiff l

/-- A list never falls. -/
def rises : List Nat → Bool
  | a :: b :: l => a ≤ b && rises (b :: l)
  | _ => true

/-- A list strictly rises. -/
def strictly : List Nat → Bool
  | a :: b :: l => a < b && strictly (b :: l)
  | _ => true

/-- A window entry. -/
def winOk (b : Bytes) (n : Nat) : Bool :=
  n < 2 ^ 49 && 1 ≤ wWidth n && wOpen n + wWidth n ≤ 1048575 && wFlow n < flowEntries b && fTx (flowEnt b (wFlow n)) &&
    wBuf n < fTxBufs (flowEnt b (wFlow n))

/-- A release entry. -/
def relOk (b : Bytes) (n : Nat) : Bool :=
  n < 2 ^ 38 && rFlow n < flowEntries b && fRx (flowEnt b (rFlow n)) && rBuf n < fRxBufs (flowEnt b (rFlow n))

/-- The windows of one flow do not overlap. -/
def winsApart : List Nat → Bool
  | [] => true
  | n :: l => l.all (fun m => wFlow m != wFlow n || wOpen n + wWidth n < wOpen m || wOpen m + wWidth m < wOpen n) && winsApart l

/-- The lane index and slot entries of a section; `limit` is the number of windows or releases. -/
def slotsOk (s : State) (sec : Bytes) (limit : Nat) : Bool :=
  let counts := (List.range 120).map (laneCount sec)
  512 ≤ sec.length && sec.length == 512 + 4 * counts.sum && counts.sum ≤ 122880 && allZero (slice 480 32 sec) &&
    (List.range 120).all (fun l =>
      leAt (4 * l) 4 sec < 2 ^ 31 &&
      (laneCount sec l == 0 || (laneFirst sec l == (counts.take l).sum && !s.twinLane l)) &&
      (laneSlots sec l).all (fun e => sPos e < 10240 && sRef e < limit) && strictly ((laneSlots sec l).map sPos))

/-- All slot entries of a section. -/
def allSlots (sec : Bytes) : List Nat := (List.range 120).flatMap (laneSlots sec)

/-- ⌈a / b⌉ of integers, b positive. -/
def iceil (a b : Int) : Int := -((-a) / b)

/-- R277 for one TX slot at the present rate of IN_PORT. -/
def r277 (s : State) (b : Bytes) (e : Nat) : Bool :=
  let w := winEnt b (sRef e)
  let f := flowEnt b (wFlow w)
  let wait : Int := ((mfTicks + pickTime (sPos e) - wOpen w) % mfTicks : Nat)
  let part : Int := (min (240 * (sCell e + 1)) (fMaxLen f) : Nat) - 240
  (wWidth w : Int) + 1600 + iceil (80 * part) (max 1 (s.portRate (fIn f)) : Nat) ≤ wait

/-- R278 for one TX slot. -/
def r278 (b : Bytes) (e : Nat) : Bool :=
  let w := winEnt b (sRef e)
  !fAligned (flowEnt b (wFlow w)) || sCell e != 0 || pickTime (sPos e) == (wOpen w + 1640) % mfTicks

/-- Every window of an ALIGNED flow is narrow, and some slot carries its cell 0 (R278). -/
def alignedWidth (b : Bytes) (slots : List Nat) (w : Nat) : Bool :=
  let n := winEnt b w
  !fAligned (flowEnt b (wFlow n)) || (wWidth n ≤ 40 && slots.any (fun e => sRef e == w && sCell e == 0))

/-- Ticks in which MAX_LEN bytes of a release's flow leave at its port's present rate. -/
def relTicks (s : State) (b : Bytes) (n : Nat) : Nat :=
  ceilDiv (fMaxLen (flowEnt b (rFlow n)) * 80) (max 1 (s.portRate (fOut (flowEnt b (rFlow n)))))

/-- Two releases of one image do not overlap on a port. -/
def relPair (s : State) (b : Bytes) (n m : Nat) : Bool :=
  fOut (flowEnt b (rFlow n)) != fOut (flowEnt b (rFlow m)) ||
    (relTicks s b n ≤ (mfTicks + rTime m - rTime n) % mfTicks && relTicks s b m ≤ (mfTicks + rTime n - rTime m) % mfTicks)

def relsApart (s : State) (b : Bytes) : List Nat → Bool
  | [] => true
  | n :: l => l.all (relPair s b n) && relsApart s b l

/-- An RX slot lies before its release, or in the multiframe before it. -/
def rxSlotOk (b : Bytes) (e : Nat) : Bool :=
  let r := relEnt b (sRef e)
  if rCarry r then rTime r < pickTime (sPos e) else pickTime (sPos e) < rTime r

/-- A STEPS entry (R284, R464). -/
def stepOk (e : Bytes) : Bool :=
  classOk (byteAt 0 e) && byteAt 1 e == byteAt 0 e / 16 && leAt 2 2 e == 0 && leAt 0xC 4 e == 0

def calWinList (b : Bytes) : List Nat := (List.range (winCount b)).map (winEnt b)
def calRelList (b : Bytes) : List Nat := (List.range (relCount b)).map (relEnt b)
def calFlowList (b : Bytes) : List Bytes := (List.range (flowEntries b)).map (flowEnt b)

/-- The limits of check 13. -/
def calLimitsOk (s : State) (b : Bytes) : Bool :=
  byteAt 0x2A b < 2 && byteAt 0x2B b == 0 && leAt 0x28 2 b < 4096 && allZero (slice 0x2E 18 b) &&
    (calFlows b).length % 32 == 0 && 1 ≤ flowEntries b && flowEntries b ≤ 8192 && calFlowCount b == flowEntries b &&
    (calWins b).length % 8 == 0 && winCount b ≤ 16384 && (calRels b).length % 8 == 0 && relCount b ≤ 16384 &&
    (calSteps b).length % 16 == 0 && (calSteps b).length ≤ 128 && (secOf b 0x0F).length ≤ 4096 &&
    (calFlowList b).all (flowOk s) && (calWinList b).all (winOk b) && (calRelList b).all (relOk b) &&
    rises ((calWinList b).map wOpen) && rises ((calRelList b).map rTime) &&
    slotsOk s (calTx b) (winCount b) && slotsOk s (calRx b) (relCount b) &&
    (List.range ((calSteps b).length / 16)).all (fun i => stepOk (slice (16 * i) 16 (calSteps b))) &&
    allDiff (((calFlowList b).filter fTx).map flowKey) && winsApart (calWinList b) &&
    (allSlots (calTx b)).all (r277 s b) && (allSlots (calTx b)).all (r278 b) && (List.range (winCount b)).all (alignedWidth b (allSlots (calTx b))) &&
    disjoint (calPages b) && relsApart s b (calRelList b) && (allSlots (calRx b)).all (rxSlotOk b)

/-- SLACK_RAISE_PS. -/
def State.slackRaise (s : State) : Int := (s.fld R.schedCtl F.schedCtlSlackRaisePs : Nat)

/-- Checks 10 to 14 (R285). -/
def calVerifyChecks (s : State) (b : Bytes) : List (Bool × Fail) :=
  imgSigChecks s.upd.cfg.plateKeys b ++
  [(leAt 0x28 2 b % 4096 == s.devIndex, (Code.incompatible, 0x23)), (calLimitsOk s b, (Code.length, 0x0C)),
   (s.slackRaise ≤ s.slackOf (calSteps b) (fun d => s.slackVoltAt d (s.fld (R.pwrRailCfg d) F.pwrRailCfgVmaxMv)),
    (Code.incompatible, 0x20))]

/-! ### Banks (R286, R287) -/

namespace Cb
def empty : Nat := 0
def loading : Nat := 1
def verifying : Nat := 2
def standby : Nat := 3
def armed : Nat := 4
def live : Nat := 5
def retiring : Nat := 6
def invalid : Nat := 7
end Cb

def State.calState (s : State) (b : Nat) : Nat := s.fld (R.schedBank b) F.schedBankState
def State.calGen (s : State) (b : Nat) : Nat := s.fld (R.schedBank b) F.schedBankGen
def State.calImg (s : State) (b : Nat) : Bytes := s.cal.images.getD b []
def State.calLive (s : State) : Option Nat := [0, 1].find? (fun b => s.calState b == Cb.live)
def State.calRetiring (s : State) : Option Nat := [0, 1].find? (fun b => s.calState b == Cb.retiring)

def setCalImg (b : Nat) (i : Bytes) (s : State) : State :=
  { s with cal := { s.cal with images := s.cal.images.set b i } }

/-- What SCHED_BANK shows of an image. -/
def calShow (b flows epoch : Nat) (s : State) : State :=
  (s.setFld (R.schedBank b) F.schedBankFlowCount flows).setFld (R.schedBank b) F.schedBankEpoch epoch

/-- A bank enters a state; LOADING and EMPTY raise GEN, and a bank that holds no checked image shows none. -/
def calTo (b st : Nat) (s : State) : State :=
  let s := s.setFld (R.schedBank b) F.schedBankState st
  let s := doIf (st == Cb.empty || st == Cb.loading)
    (fun s => s.setFld (R.schedBank b) F.schedBankGen ((s.calGen b + 1) % 65536)) s
  doIf (st == Cb.empty || st == Cb.loading || st == Cb.invalid) (fun s => calShow b 0 0 (setCalImg b [] s)) s

/-- TSI_STAT follows: PAGE is the EPOCH of the live bank, the announcement that of the first armed one (R330). -/
def tsiRefresh (s : State) : State :=
  let page := match s.calLive with
    | some b => calEpoch (s.calImg b)
    | none => 0
  let s := s.setFld R.tsiStat F.tsiStatPage page
  match s.cal.armed.head? with
  | some (_, m) => (s.setFld R.tsiStat F.tsiStatAnnounce 1).setFld R.tsiStat F.tsiStatSwapMf m
  | none => (s.setFld R.tsiStat F.tsiStatAnnounce 0).setFld R.tsiStat F.tsiStatSwapMf 0

/-- The pages that the live and retiring images reserve (R216, R293); the record of a page newly reserved is written. -/
def calReserve (s : State) : State :=
  let of := fun (b : Option Nat) => match b with
    | some b => calPages (s.calImg b)
    | none => []
  let t := { s with bpm := { s.bpm with schedRes := (of s.calRetiring ++ of s.calLive).eraseDups } }
  let kept := fun (k : Nat) => k < pageKey 2 0 || (s.schedPage (k - pageKey 2 0) && t.schedPage (k - pageKey 2 0))
  bpmRefresh { t with bpm := { t.bpm with pages := t.bpm.pages.filter (fun e => kept e.1) } }

/-- A bank is no longer armed. -/
def disarm (b : Nat) (s : State) : State :=
  tsiRefresh { s with cal := { s.cal with armed := s.cal.armed.filter (fun a => a.1 != b) } }

/-! ### Interrupts and votes (R298, R494, R495) -/

def calAlarm (s : State) : State := doIf (s.flag R.schedCtl F.schedCtlAlarmIrqEn) (raiseBlock 10 9) s
def State.halted (s : State) : Bool := s.flag R.schedVote F.schedVoteHalt

/-- No two copies agree: all scheduled output halts. -/
def voteHalt (s : State) : State := calAlarm (report .t 0x12 3 .f 0x005 [] (s.setFld R.schedVote F.schedVoteHalt 1))

/-- A copy is outvoted and excluded until the next boundary; with one excluded already, no two agree. -/
def outvote (c : Nat) (s : State) : State :=
  let out := s.fld R.schedVote F.schedVoteResync
  if nbit out c then s
  else if out != 0 then voteHalt s
  else
    let s := s.setFld R.schedVote F.schedVoteResync (2 ^ c)
    let s := s.setFld R.schedVote F.schedVoteDisagree (s.fld R.schedVote F.schedVoteDisagree ||| 2 ^ c)
    report .t 0x12 c .c 0x004 [] (s.inc (R.schedCtr 9))

/-- The vote on one output word; a halted sequencer votes no more. -/
def voteWord (v : Vote) (s : State) : State :=
  if s.halted then s
  else match v with
    | .agree => s
    | .outvoted c => outvote c s
    | .noMajority => voteHalt s

def voteOk (v : Vote) : Bool :=
  match v with
  | .outvoted c => c < 3
  | _ => true

/-! ### Commands (R286, R288, R289) -/

/-- Overlap of R292: a carry TX slot of the live image on a position of a non-carry slot of the other, or a CARRY 1
release of the live image against a CARRY 0 release of the other. -/
def swapOverlap (s : State) (live b : Bytes) : Bool :=
  (List.range 120).any (fun l =>
    ((laneSlots (calTx live) l).filter (txCarry live)).any (fun e =>
      (laneSlots (calTx b) l).any (fun x => sPos x == sPos e && !txCarry b x))) ||
  ((calRelList live).filter rCarry).any (fun n =>
    ((calRelList b).filter (fun m => !rCarry m)).any (fun m =>
      fOut (flowEnt live (rFlow n)) == fOut (flowEnt b (rFlow m)) &&
        rTime n < rTime m + relTicks s b m && rTime m < rTime n + relTicks s live n))

/-- Ports, R277 and releases at the present modes (check 4 of R289). -/
def calPortsOk (s : State) (b : Bytes) : Bool :=
  (calFlowList b).all (fun e => (!fTx e || s.portExists (fIn e)) && (!fRx e || s.portExists (fOut e))) &&
    (allSlots (calTx b)).all (r277 s b) && relsApart s b (calRelList b)

/-- The checks of R289. -/
def swapChecks (s : State) (b m : Nat) : List (Bool × Fail) :=
  let img := s.calImg b
  let live := s.calLive.map s.calImg
  let lead := mfDist m s.mfNum
  [(16 ≤ lead && lead < 2 ^ 31, (Code.length, 0x24)),
   ((match live with | some l => calEpoch l != calEpoch img | none => true), (Code.incompatible, 0x22)),
   ((match live with | some l => !swapOverlap s l img | none => true), (Code.incompatible, 0x21)),
   (calPortsOk s img, (Code.incompatible, 0x25))]

/-- An ABORT of an ARMED bank at or after multiframe M − 2. -/
def State.lateAbort (s : State) (b : Nat) : Bool :=
  match s.cal.armed.find? (fun a => a.1 == b) with
  | some (_, m) => mfReached ((2 ^ 32 + m - 2) % 2 ^ 32) s.mfNum
  | none => false

/-- The checks of LOAD, SWAP and ABORT in the order of R62 (R288). -/
def schedChecks (s : State) (op b gen : Nat) : List (Bool × Fail) :=
  let st := s.calState b
  [(gen == s.calGen b, (Code.staleBank, 0)),
   (st != Cb.retiring && !(op == 3 && st == Cb.armed && s.lateAbort b), (Code.bankBusy, 0)),
   (if op = 1 then st == Cb.empty || st == Cb.invalid
    else if op = 2 then st == Cb.standby
    else st == Cb.loading || st == Cb.verifying || st == Cb.standby || st == Cb.armed, (Code.notfound, 0))]

/-- A load ends without a checked image. -/
def calFail (b : Nat) (f : Fail) (s : State) : State :=
  complete .sched f.1 f.2 (calTo b Cb.invalid { s with cal := { s.cal with loading := none } })

/-- LOAD: check 1 is made before any read; the length is the one at acceptance. -/
def schedLoad (b : Nat) (s : State) : State :=
  let s := calTo b Cb.loading
    { s with cal := { s.cal with loading := some b, len := s.fld R.schedArg1 F.schedArg1Length } }
  if s.fld R.schedArg0 F.schedArg0AddrOrMf % 64 == 0 && s.fld R.schedArg1 F.schedArg1Length % 64 == 0 &&
      s.fld R.schedArg1 F.schedArg1Length ≤ 1540608 then s
  else calFail b (Code.length, 0x04) s

/-- SWAP: the checks of R289, then the wait for slack. -/
def schedSwapAt (b m : Nat) (s : State) : State :=
  match firstBad (swapChecks s b m) with
  | some f => complete .sched f.1 f.2 s
  | none => { s with cal := { s.cal with swapReq := some (b, m) } }

/-- SWAP takes its multiframe from SCHED_ARG0 (R296). -/
def schedSwap (b : Nat) (s : State) : State := schedSwapAt b (s.fld R.schedArg0 F.schedArg0AddrOrMf % 2 ^ 32) s

/-- ABORT: an armed bank is disarmed, any other becomes EMPTY. -/
def schedAbort (b : Nat) (s : State) : State :=
  let s :=
    if s.calState b = Cb.armed then disarm b (calTo b Cb.standby s)
    else calTo b Cb.empty { s with cal := { s.cal with loading := if s.cal.loading = some b then none else s.cal.loading } }
  complete .sched Code.ok 0 s

/-- RESTART ends a halt at the first multiframe at least 2 after it (R298). A sequencer that is not halted votes on; `v` is
what the copies show as the command is carried out. -/
def schedRestart (v : Vote) (s : State) : State :=
  if s.halted then { s with cal := { s.cal with resume := some ((s.mfNum + 2) % 2 ^ 32) } }
  else complete .sched Code.notfound 0 (voteWord v s)

def schedPerform (op b gen : Nat) (v : Vote) (s : State) : State :=
  if op = 1 && s.boot.restarting then complete .sched Code.busy 0 s
  else if op = 4 then schedRestart v s
  else if !(1 ≤ op && op ≤ 3) then complete .sched Code.notfound 0 s
  else match firstBad (schedChecks s op b gen) with
    | some f => complete .sched f.1 f.2 s
    | none =>
      match op with
      | 1 => schedLoad b s
      | 2 => schedSwap b s
      | _ => schedAbort b s

/-- The ABORT of the load in progress is accepted while BUSY (R58). -/
def abortsCal (s : State) (op b gen : Nat) : Bool := op == 3 && s.cal.loading == some b && gen == s.calGen b

/-- A write to SCHED_CMD that the map let through: the calendar right (R59, R286), then the life of a command. -/
def schedCommand (fn : Fn) (p : Nat) (w : Word) (v : Vote) (s : State) : State :=
  let op := getF w F.schedCmdOpcode
  let b := getF w F.schedCmdBank
  let gen := getF w F.schedCmdGen
  if !s.right p Right.calendar then denied fn R.schedCmd 2 s
  else if s.busy .sched && abortsCal s op b gen then
    orHold (.sched op b gen v) (schedAbort b) (accept .sched op p s)
  else issue .sched op p (orHold (.sched op b gen v) (schedPerform op b gen v)) s

def schedIssue (fn : Fn) (op b gen : Nat) (v : Vote) (s : State) : State :=
  access fn R.schedCmd 1 (fun p _ _ s =>
    schedCommand fn p (setF (setF (setF 0 F.schedCmdOpcode op) F.schedCmdBank b) F.schedCmdGen gen) v s) s

def execSchedLoad (fn : Fn) (bank gen : Nat) (s : State) : Res :=
  guardWf (fnOk fn && bank < 2 && gen < 65536) (schedIssue fn 1 bank gen .agree s)
def execSchedSwap (fn : Fn) (bank gen : Nat) (s : State) : Res :=
  guardWf (fnOk fn && bank < 2 && gen < 65536) (schedIssue fn 2 bank gen .agree s)
def execSchedAbort (fn : Fn) (bank gen : Nat) (s : State) : Res :=
  guardWf (fnOk fn && bank < 2 && gen < 65536) (schedIssue fn 3 bank gen .agree s)
def execSchedRestart (fn : Fn) (vote : Vote) (s : State) : Res :=
  guardWf (fnOk fn && voteOk vote) (schedIssue fn 4 0 0 vote s)

/-- Image bytes arrive (R52, R285, R550). -/
def schedData (d : Dma) (storeOk : Bool) (s : State) : State :=
  match s.cal.loading with
  | none => s
  | some b =>
    if s.calState b != Cb.loading then s
    else if !storeOk then calFail b (Code.eccUncorrectable, 0x11) s
    else match d with
      | .timeout => calFail b (Code.timeout, 0x0F) s
      | .poison => calFail b (Code.eccUncorrectable, 0x0F) s
      | .data x =>
        let len := s.cal.len
        let img := (s.calImg b ++ x).take len
        let s := setCalImg b img s
        match arrivedFail calKind len img with
        | some f => calFail b f s
        | none =>
          if img.length < len then s
          else if s.boot.restarting then calFail b (Code.timeout, 0x10) s
          else calTo b Cb.verifying s

def execSchedLoadData (d : Dma) (storeOk : Bool) (s : State) : Res := guardWf true (schedData d storeOk s)

/-- Checks 10 to 14 end. -/
def schedVerify (s : State) : State :=
  match s.cal.loading with
  | none => s
  | some b =>
    if s.calState b == Cb.verifying && !s.boot.restarting then
      let img := s.calImg b
      match firstBad (calVerifyChecks s img) with
      | some f => calFail b f s
      | none =>
        let s := calShow b (calFlowCount img) (calEpoch img)
          (calTo b Cb.standby { s with cal := { s.cal with loading := none } })
        complete .sched Code.ok 0 s
    else s

def execSchedVerifyDone (s : State) : Res := guardWf true (schedVerify s)

/-- The present slack of a bank. -/
def State.bankSlack (s : State) (b : Nat) : Int := s.slackOf (calSteps (s.calImg b)) s.slackVolt

/-- The slack of the live bank and of the bank of a SWAP has reached SLACK_RAISE_PS: the bank becomes ARMED. -/
def schedArm (s : State) : State :=
  match s.cal.swapReq with
  | none => s
  | some (b, m) =>
    let liveOk := match s.calLive with
      | some l => s.slackRaise ≤ s.bankSlack l
      | none => true
    if liveOk && s.slackRaise ≤ s.bankSlack b then
      let s := calTo b Cb.armed { s with cal := { s.cal with swapReq := none, armed := s.cal.armed ++ [(b, m)] } }
      complete .sched Code.ok 0 (tsiRefresh s)
    else s

def execSchedArm (s : State) : Res := guardWf true (schedArm s)

/-- SCHED_SWAP_DISARMED (R290). -/
def disarmedEvent (b m : Nat) (s : State) : State :=
  calAlarm (report .t 0x12 3 .k 0x006 [(b, 1), (m, 4)] ((disarm b s).setFld R.schedStatus F.schedStatusDisarmed 1))

/-- An uncorrectable error in a bank (R287, R288): a STANDBY or ARMED one becomes INVALID, a load in progress ends as a
fault of R52. -/
def calEcc (b : Nat) (s : State) : State :=
  let st := s.calState b
  if (st = Cb.loading ∨ st = Cb.verifying) ∧ s.cal.loading = some b then calFail b (Code.eccUncorrectable, 0x11) s
  else if st = Cb.armed then
    let m := ((s.cal.armed.find? (fun a => a.1 == b)).map (·.2)).getD 0
    disarmedEvent b m (calTo b Cb.invalid s)
  else if st = Cb.standby then
    match s.cal.swapReq with
    | some (c, _) =>
      if c = b then complete .sched Code.eccUncorrectable 0x11 (calTo b Cb.invalid { s with cal := { s.cal with swapReq := none } })
      else calTo b Cb.invalid s
    | none => calTo b Cb.invalid s
  else s

def execSchedBankEccError (bank : Nat) (s : State) : Res := guardWf (bank < 2) (calEcc bank s)

/-! ### Flow match (R265, R269, R270) -/

/-- The TX flow of a bank that a frame matches: DMAC_VID before VID before PORT. -/
def matchFlow (b : Bytes) (port : Nat) (f : Bytes) : Option Nat :=
  let tag := beAt 12 2 f
  let tagged := tag == 0x8100 || tag == 0x88A8
  let vid := beAt 14 2 f % 4096
  let hit := fun (kind : Nat) (i : Nat) =>
    let e := flowEnt b i
    fTx e && fIn e == port && fMatch e == kind &&
      (match kind with
       | 3 => tagged && fVid e == vid && fDmac e == slice 0 6 f
       | 2 => tagged && fVid e == vid
       | _ => true)
  [3, 2, 1].findSome? (fun k => (List.range (flowEntries b)).find? (hit k))

/-- The key of a window or release in the maps of frames and buffers. -/
def calKey (bank i : Nat) : Nat := 16384 * bank + i

/-- The window of a flow that a first bit at t falls in. -/
def windowAt (b : Bytes) (flow t : Nat) : Option Nat :=
  (List.range (winCount b)).find? (fun w =>
    wFlow (winEnt b w) == flow && wOpen (winEnt b w) ≤ t && t ≤ wOpen (winEnt b w) + wWidth (winEnt b w))

/-- The frame that holds a window. -/
def State.txFrameOf (s : State) (key : Nat) : Option TxFrame := smapFind key s.cal.frames

def setTxFrame (key : Nat) (f : TxFrame) (s : State) : State :=
  { s with cal := { s.cal with frames := smapInsert key f s.cal.frames } }

/-! ### The scheduled pool (R271) -/

/-- A page of the scheduled pool. -/
def State.poolPage (s : State) (p : Nat) : Bytes := smapGet (fun _ => zeros 256) p s.cal.pool

def setPoolPage (p : Nat) (b : Bytes) (s : State) : State :=
  { s with cal := { s.cal with pool := smapPut (fun _ => zeros 256) p b s.cal.pool } }

/-- Bytes are written to the pool from byte address a on, page by page. -/
def poolWrite (a : Nat) (b : Bytes) (s : State) : State :=
  forEach (List.range (ceilDiv (a % 256 + b.length) 256)) (fun i s =>
    let off := if i = 0 then a % 256 else 0
    setPoolPage (a / 256 + i) (patch off ((b.drop (256 * i - a % 256)).take (256 - off)) (s.poolPage (a / 256 + i))) s) s

/-- n bytes of the pool from byte address a on. -/
def State.poolRead (s : State) (a n : Nat) : Bytes :=
  (((List.range (ceilDiv (a % 256 + n) 256)).flatMap (fun i => s.poolPage (a / 256 + i))).drop (a % 256)).take n

/-- First page of TX buffer and of RX buffer n of a flow. -/
def txPage (e : Bytes) (n : Nat) : Nat := fTxBase e + n * fPages e
def rxPage (e : Bytes) (n : Nat) : Nat := fRxBase e + n * fPages e

/-- The byte address of the TX buffer that the window of a key names. -/
def State.txAddr (s : State) (key : Nat) : Nat :=
  let b := s.calImg (key / 16384)
  let w := winEnt b (key % 16384)
  256 * txPage (flowEnt b (wFlow w)) (wBuf w)

/-- MAX_LEN of a frame's flow. -/
def State.maxLenOf (s : State) (key flow : Nat) : Nat := fMaxLen (flowEnt (s.calImg (key / 16384)) flow)

/-- Bytes of a frame cross the bridge in the scheduled class (R23) and enter its TX buffer after those that it holds. -/
def storeTx (key : Nat) (f : TxFrame) (b : Bytes) (s : State) : State :=
  setTxFrame key { f with len := f.len + b.length } (poolWrite (s.txAddr key + f.len) b (bridgeSched 0 b s))

/-! ### Admission (R265, R269, R270) -/

def setCur (port : Nat) (c : RxCur) (s : State) : State :=
  { s with line := { s.line with rx := smapInsert port c s.line.rx } }

/-- The rest of a frame is discarded as it arrives. -/
def discardRx (port len : Nat) (s : State) : State :=
  setCur port { pkt := none, len := len, sched := none, bad := false, wait := false } s

/-- A frame is left to the spreader; `bad` tells of an uncorrectable codeword in the bytes seen. -/
def awaitSegment (port len : Nat) (bad : Bool) (s : State) : State :=
  setCur port { pkt := none, len := len, sched := none, bad := bad, wait := true } s

/-- A non-conforming frame is counted, and demoted to the spreader or dropped at the MAC. -/
def nonConforming (port len : Nat) (bad : Bool) (e : Bytes) (flow : Nat) (s : State) : State :=
  let s := s.inc (R.schedFlowCtr flow 1)
  if fDemote e then awaitSegment port len bad (s.inc (R.schedCtr 1)) else discardRx port len (s.inc (R.schedCtr 0))

/-- The bank that governs a first bit at calendar time t and its multiframe: a time that is still to come was one of the
multiframe before. -/
def State.firstBitIn (s : State) (t : Nat) : Option (Nat × Nat) :=
  if t ≤ s.calTime then s.calLive.map (fun b => (b, s.mfIndex))
  else if s.mfIndex = 0 then none
  else (if s.cal.fresh then s.calRetiring else s.calLive).map (fun b => (b, s.mfIndex - 1))

/-- A frame of a flow at its 64th byte, its first bit at t in multiframe mf. -/
def admitFlow (bank mf flow port : Nat) (first : Bytes) (t : Nat) (bad : Bool) (s : State) : State :=
  let img := s.calImg bank
  let e := flowEnt img flow
  match windowAt img flow t with
  | none => nonConforming port first.length bad e flow s
  | some w =>
    let key := calKey bank w
    if ((s.txFrameOf key).map (·.mf == mf)).getD false then nonConforming port first.length bad e flow s
    else
      let s := storeTx key { flow := flow, len := 0, whole := false, stomp := false, sent := 0, late := false, mf := mf } first s
      let s := setCur port { pkt := none, len := first.length, sched := some key, bad := bad, wait := false } s
      s.inc (R.schedFlowCtr flow 0)

/-- The bank, multiframe and TX flow of a frame; matching runs while EN is 1 and a bank is live. -/
def State.flowOf (s : State) (port : Nat) (first : Bytes) (t : Nat) : Option (Nat × Nat × Nat) :=
  if s.cal.run == .on then
    (s.firstBitIn t).bind (fun x => (matchFlow (s.calImg x.1) port first).map (fun f => (x.1, x.2, f)))
  else none

/-- The first 64 bytes of a frame, or all of a shorter one: a runt counts as a runt only (R269). -/
def flowMatch (port : Nat) (first : Bytes) (t : Nat) (fec : Fec) (v : Vote) (s : State) : State :=
  if s.rxOn port && (smapFind port s.line.rx).isNone then
    let bad : Bool := 0 < fec.uncorr
    match s.flowOf port first t with
    | none => awaitSegment port first.length bad (countFec port fec s)
    | some (b, mf, f) =>
      let s := voteWord v s
      if first.length < 64 then (countRx port first.length fec s).inc (lineCtr port 3)
      else
        let s := countFec port fec s
        if s.halted then discardRx port first.length (s.inc (R.schedCtr 8)) else admitFlow b mf f port first t bad s
  else s

def execFlowMatch (port : Nat) (first : Bytes) (firstBit : Nat) (fec : Fec) (vote : Vote) (s : State) : Res :=
  guardWf (port < 96 && first.length ≤ 64 && 16 ≤ first.length && firstBit < mfTicks && voteOk vote)
    (flowMatch port first firstBit fec vote s)

/-- A header segment is one of a frame that a TX flow matches: what becomes of it is for `flowMatch` to say. -/
def State.segMatches (s : State) (port : Nat) (seg : Bytes) : Bool :=
  s.cal.run == .on && 64 ≤ seg.length && (smapFind port s.line.rx).isNone &&
    (s.calLive.bind (fun b => matchFlow (s.calImg b) port seg)).isSome

/-- The header segment of a routed frame (R86): one that no flow matches, or that `flowMatch` left to the spreader. -/
def routedSegment (port : Nat) (seg : Bytes) (whole bad : Bool) (fec : Fec) (s : State) : State :=
  if s.segMatches port seg then s else headerSegment port seg whole bad fec s

def execHeaderSegmentArrive (port : Nat) (seg : Bytes) (whole bad : Bool) (fec : Fec) (s : State) : Res :=
  guardWf (port < 96 && seg.length ≤ 384 && (whole || seg.length == 384)) (routedSegment port seg whole bad fec s)

/-- The scheduled frame that a port is receiving. -/
def State.schedCur (s : State) (port : Nat) : Option (Nat × TxFrame) :=
  match smapFind port s.line.rx with
  | some c => c.sched.bind (fun k => (s.txFrameOf k).map (fun f => (k, f)))
  | none => none

/-- Byte MAX_LEN + 1 arrives: the frame is cut at MAX_LEN with a stomp, the rest discarded. -/
def overlenCut (port key : Nat) (f : TxFrame) (body : Bytes) (s : State) : State :=
  let s := storeTx key { f with whole := true, stomp := true } (body.take (s.maxLenOf key f.flow - f.len)) s
  let s := discardRx port (f.len + body.length) s
  (s.inc (R.schedFlowCtr f.flow 1)).inc (R.schedCtr 2)

/-- An uncorrectable codeword makes the frame in reception bad (R84, R265). -/
def markCur (port : Nat) (fec : Fec) (s : State) : State :=
  match smapFind port s.line.rx with
  | some c => setCur port { c with bad := c.bad || 0 < fec.uncorr } s
  | none => s

def schedOverlen (port : Nat) (body : Bytes) (fec : Fec) (s : State) : State :=
  match s.schedCur port with
  | none => s
  | some (k, f) =>
    let s := countFec port fec s
    if f.len + body.length ≤ s.maxLenOf k f.flow then markCur port fec s else overlenCut port k f body s

def execSchedOverlen (port : Nat) (body : Bytes) (fec : Fec) (s : State) : Res :=
  guardWf (port < 96) (schedOverlen port body fec s)

/-- The port's frame in reception has had an uncorrectable codeword. -/
def State.curBad (s : State) (port : Nat) : Bool := ((smapFind port s.line.rx).map (·.bad)).getD false

/-- The tail of a scheduled frame, or the cut: one longer than MAX_LEN is cut there, a bad frame of which a cell has gone
ends with a stomp, any other bad frame sends nothing. -/
def schedTail (port : Nat) (body : Bytes) (tail : Tail) (fec : Fec) (s : State) : State :=
  match s.schedCur port with
  | none => s
  | some (k, f) =>
    let len := f.len + body.length
    let bad := tail != .good || s.curBad port || 0 < fec.uncorr
    if s.maxLenOf k f.flow < len then clearCur port (countRx port len fec (overlenCut port k f body s))
    else
      let s := clearCur port (countRx port len fec s)
      if !bad then storeTx k { f with whole := true } body s
      else
        let s := s.inc (lineCtr port (if tail = .cut ∧ len < 64 then 3 else 2))
        if 0 < f.sent then storeTx k { f with whole := true, stomp := true } body s
        else setTxFrame k { f with len := 0, whole := true } s

def execSchedFrameTail (port : Nat) (body : Bytes) (tail : Tail) (fec : Fec) (s : State) : Res :=
  guardWf (port < 96) (schedTail port body tail fec s)

def noFec : Fec := ⟨0, 0, 0, 0⟩

/-- A link or fault state change also cuts a scheduled frame in reception (R85, R87, R95, R265). -/
def linkAndSched (port : Nat) (up lf rf : Bool) (fec : Fec) (s : State) : State :=
  if !(up && !lf && !rf) && s.rxOn port && (s.schedCur port).isSome then
    tailAndAfter port (linkChange port up lf rf noFec) (schedTail port [] .cut fec s)
  else tailAndAfter port (linkChange port up lf rf fec) s

def execLinkStateChange (port : Nat) (up lf rf : Bool) (fec : Fec) (s : State) : Res :=
  guardWf (port < 96) (linkAndSched port up lf rf fec s)

/-! ### Cells (R272, R273, R307 to R309) -/

/-- A cell from its header fields above the checks and its payload. -/
def mkCell (top : Nat) (payload : Bytes) : Bytes :=
  let pay := slice 0 240 payload
  let h := toBe 6 (top % 2 ^ 48) ++ toBe 4 0
  let hdr := (toBe 16 (2 ^ 65 * top)).take 10 ++ toBe 4 (crc32c pay)
  if h.length = 10 then hdr ++ toBe 2 (crcMsbRun 16 0x1021 0xFFFF hdr) ++ pay else []

/-- The header bits [127:65] of a cell (R307). -/
def cellTop (type first last stomp epoch dest src tc grp seq num len : Nat) : Nat :=
  2 ^ 61 * type + 2 ^ 60 * first + 2 ^ 59 * last + 2 ^ 58 * stomp + 2 ^ 57 * epoch + 2 ^ 43 * (dest % 4096) +
    2 ^ 31 * (src % 4096) + 2 ^ 28 * (tc % 8) + 2 ^ 23 * (grp % 32) + 2 ^ 15 * (seq % 256) + num % 128 * 2 ^ 8 + len % 256

/-- An IDLE cell (R309). -/
def idleCell : Bytes := mkCell 0 []

/-- The SCHED cell k of a frame, with its payload. -/
def schedCellOf (src epoch k : Nat) (f : TxFrame) (pay : Bytes) : Bytes :=
  let last := f.whole && f.len ≤ 240 * (k + 1)
  mkCell (cellTop 2 (b2n (k == 0)) (b2n last) (b2n (last && f.stomp)) epoch 0 src 0 0 0 k pay.length) pay

/-- The entry that serves a slot: of the retiring bank its carry slots, of the live bank all, but no carry slot in its
first multiframe (R292, R295). -/
def State.servingSlot (s : State) (lane pos : Nat) : Option (Nat × Nat × Bool) :=
  if s.cal.run == .off then none
  else
    let at_ := fun (b : Option Nat) => b.bind (fun b => (slotAt (calTx (s.calImg b)) lane pos).map (fun e => (b, e)))
    match at_ s.calRetiring with
    | some (b, e) => if txCarry (s.calImg b) e then some (b, e, true) else
        (at_ s.calLive).map (fun x => (x.1, x.2, !(txCarry (s.calImg x.1) x.2 && s.cal.fresh)))
    | none => (at_ s.calLive).map (fun x =>
        (x.1, x.2, !(txCarry (s.calImg x.1) x.2 && s.cal.fresh) && (s.cal.run != .runOut || txCarry (s.calImg x.1) x.2)))

/-- Further bytes of a frame are stored before a pick. -/
def storeArrived (key : Nat) (arrived : Bytes) (s : State) : State :=
  match s.txFrameOf key with
  | none => s
  | some f =>
    if f.whole || arrived.isEmpty then s
    else
      let port := fIn (flowEnt (s.calImg (key / 16384)) f.flow)
      let len := f.len + arrived.length
      if s.maxLenOf key f.flow < len then overlenCut port key f arrived s
      else
        let s := storeTx key f arrived s
        match smapFind port s.line.rx with
        | some c => setCur port { c with len := len } s
        | none => s

/-- The payload of cell k of the frame of a key, as its TX buffer holds it now. -/
def State.cellBytes (s : State) (key k : Nat) (f : TxFrame) : Bytes :=
  s.poolRead (s.txAddr key + 240 * k) (min 240 (f.len - 240 * k))

/-- A cell is late: counted; the first of its frame is recorded (R273). -/
def lateCell (key lane pos : Nat) (f : TxFrame) (s : State) : State :=
  let s := (s.inc (R.schedFlowCtr f.flow 2)).inc (R.schedCtr 3)
  let s := doIf (!f.late) (report .t 0x12 3 .k 0x002 [(f.flow, 2), (lane, 1), (pos, 2)]) s
  setTxFrame key { f with late := true } s

/-- The cell that an entry yields at its pick: of the frame of its window in the right multiframe. -/
def entryCell (bank e lane pos : Nat) (arrived : Bytes) (s : State) : State × Bytes :=
  let img := s.calImg bank
  let key := calKey bank (sRef e)
  let k := sCell e
  let s := storeArrived key arrived s
  match s.txFrameOf key with
  | none => (s, idleCell)
  | some f =>
    if f.mf + b2n (txCarry img e) != s.mfIndex then (s, idleCell)
    else if f.whole && f.len ≤ 240 * k then (s, idleCell)
    else if f.late || (!f.whole && f.len < 240 * (k + 1)) then (lateCell key lane pos f s, idleCell)
    else (setTxFrame key { f with sent := k + 1 } s, schedCellOf s.devIndex (calEpoch img) k f (s.cellBytes key k f))

/-- A TSI word that a slot reads is corrected, or bad: the slot idles (R329). -/
def tsiWord (lane : Nat) (ecc : Ecc) (s : State) : State :=
  match ecc with
  | .corr => report .t 0x13 lane .c 0x006 [] s
  | .uncorr => report .t 0x13 lane .k 0x007 [] (fabInc (R.fabDevCtr 10) s)
  | _ => s

/-- A cell that the digest covers (R505). -/
def digestCell (lane pos : Nat) (c : Bytes) (s : State) : State :=
  doIf s.boot.straps.twinEn (fun s => { s with cal := { s.cal with digTx := smapInsert (16384 * lane + pos) c s.cal.digTx } }) s

/-- The cell that a slot reads: of its entry, or an idle cell. -/
def calCell (bank e : Nat) (act : Bool) (lane pos : Nat) (arrived : Bytes) (ecc : Ecc) (s : State) : State × Bytes :=
  if s.halted || ecc == .uncorr || !act then (s, idleCell) else entryCell bank e lane pos arrived s

/-- The cell of a slot under an entry; `act` tells whether the entry acts in this multiframe. -/
def schedSlot (bank e : Nat) (act : Bool) (lane pos : Nat) (arrived : Bytes) (ecc : Ecc) (v : Vote) (s : State) : State × Bytes :=
  let s := tsiWord lane ecc (voteWord v s)
  let r := calCell bank e act lane pos arrived ecc s
  (digestCell lane pos r.2 r.1, r.2)

/-! ### Receive and release (R274, R275) -/

def cellType (c : Bytes) : Nat := byteAt 0 c / 64
def cellFirst (c : Bytes) : Bool := nbit (byteAt 0 c) 5
def cellLast (c : Bytes) : Bool := nbit (byteAt 0 c) 4
def cellStomp (c : Bytes) : Bool := nbit (byteAt 0 c) 3
def cellEpoch (c : Bytes) : Nat := byteAt 0 c / 4 % 2
def cellDest (c : Bytes) : Nat := byteAt 1 c * 16 + byteAt 2 c / 16
def cellSrc (c : Bytes) : Nat := byteAt 2 c % 16 * 256 + byteAt 3 c
def cellTc (c : Bytes) : Nat := byteAt 4 c / 32
def cellGroup (c : Bytes) : Nat := byteAt 4 c % 32
def cellSeqNo (c : Bytes) : Nat := byteAt 5 c
def cellNum (c : Bytes) : Nat := byteAt 6 c / 2
def cellLen (c : Bytes) : Nat := byteAt 6 c % 2 * 128 + byteAt 7 c / 2
def cellPay (c : Bytes) : Bytes := (slice 16 240 c).take (cellLen c)
def hecOk (c : Bytes) : Bool := crcMsbRun 16 0x1021 0xFFFF (slice 0 14 c) == beAt 14 2 c
def pcrcOk (c : Bytes) : Bool := crc32c (slice 16 240 c) == beAt 10 4 c

def emptyRx : RxBuf := { cells := [], last := none, stomp := false, endAt := none }

/-- An RX buffer as it stands: empty after the time of the release that judged it (R275). -/
def State.rxBuf (s : State) (key : Nat) : RxBuf :=
  let r := smapGet (fun _ => emptyRx) key s.cal.rx
  if (r.endAt.map (fun t => decide (t < s.now))).getD false then emptyRx else r

def setRxBuf (key : Nat) (r : RxBuf) (s : State) : State :=
  { s with cal := { s.cal with rx := smapPut (fun _ => emptyRx) key r s.cal.rx } }

/-- The bank whose RX slots a cell's EPOCH selects: live or retiring. -/
def State.epochBank (s : State) (epoch : Nat) : Option Nat :=
  [0, 1].find? (fun b => (s.calState b == Cb.live || s.calState b == Cb.retiring) && calEpoch (s.calImg b) == epoch)

/-- The RX slot entry of a cell: its bank and the entry. -/
def State.rxSlot (s : State) (x : RxCell) : Option (Nat × Nat) :=
  (s.epochBank (cellEpoch x.cell)).bind (fun b => (slotAt (calRx (s.calImg b)) x.lane x.pos).map (fun e => (b, e)))

/-- First page of the RX buffer that a release entry names. -/
def relPage (b : Bytes) (n : Nat) : Nat := rxPage (flowEnt b (rFlow n)) (rBuf n)

/-- A scheduled cell is written to the RX buffer that its release names. -/
def placeCell (x : RxCell) (b e : Nat) (s : State) : State :=
  let page := relPage (s.calImg b) (relEnt (s.calImg b) (sRef e))
  let r := s.rxBuf page
  let pay := cellPay x.cell
  setRxBuf page { r with
                  cells := smapInsert (sCell e) pay.length r.cells,
                  last := if cellLast x.cell then some (sCell e) else r.last,
                  stomp := r.stomp || cellStomp x.cell || x.bad } (poolWrite (256 * page + 240 * sCell e) pay s)

/-- The oldest scheduled cell that waits is placed by its slot entry, whose word carries SECDED (R329); without an entry it
is discarded and counted (R274). Under a halt, while the calendar is stopped and on a bad word it is discarded. -/
def schedCellReceive (ecc : Ecc) (v : Vote) (s : State) : State :=
  match s.cal.cells with
  | [] => s
  | x :: l =>
    let s := voteWord v { s with cal := { s.cal with cells := l } }
    if s.halted then s
    else match s.rxSlot x with
      | none => s.inc (R.schedCtr 4)
      | some (b, e) =>
        let s := tsiWord x.lane ecc s
        if s.cal.run == .off || ecc == .uncorr then s else placeCell x b e s

def execSchedCellReceive (ecc : Ecc) (vote : Vote) (s : State) : Res :=
  guardWf (voteOk vote) (schedCellReceive ecc vote s)

/-- A buffer holds every cell up to the last. -/
def RxBuf.complete (r : RxBuf) : Bool :=
  match r.last with
  | some n => (List.range (n + 1)).all (fun k => (smapFind k r.cells).isSome)
  | none => false

/-- Bytes of the frame that a buffer holds. -/
def RxBuf.len (r : RxBuf) : Nat := (r.cells.map (·.2)).sum

/-- The frame that the buffer of a page holds. -/
def State.rxFrame (s : State) (page : Nat) : Bytes :=
  (s.rxBuf page).cells.flatMap (fun c => s.poolRead (256 * page + 240 * c.1) c.2)

/-- How the banks stand in a multiframe: the live and the retiring one, whether the live one is in its first multiframe,
and how the calendar runs. -/
structure CalTurn where
  live     : Option Nat
  retiring : Option Nat
  fresh    : Bool
  run      : CalRun
  deriving DecidableEq, Repr

def State.calTurn (s : State) : CalTurn := { live := s.calLive, retiring := s.calRetiring, fresh := s.cal.fresh, run := s.cal.run }

/-- How the calendar runs from the next boundary on (R295). -/
def State.runNext (s : State) : CalRun :=
  if s.flag R.schedCtl F.schedCtlEn && !s.pwr.tripped then .on
  else match s.cal.run with
    | .on => .runOut
    | .ending => .runOut
    | _ => .off

/-- The next multiframe as things stand: the bank armed for it becomes live. -/
def State.nextTurn (s : State) : CalTurn :=
  match s.cal.armed.find? (fun a => mfReached a.2 ((s.mfNum + 1) % 2 ^ 32)) with
  | some (b, _) => { live := some b, retiring := s.calLive, fresh := true, run := s.runNext }
  | none => { live := s.calLive, retiring := none, fresh := false, run := s.runNext }

/-- A release acts in a multiframe: of the retiring bank those with CARRY 1, of the live bank all, but none with CARRY 1
in its first one. -/
def CalTurn.acts (t : CalTurn) (bank n : Nat) : Bool :=
  t.run != .off && ((t.retiring == some bank && rCarry n) ||
    (t.live == some bank && !(rCarry n && t.fresh) && (t.run != .runOut || rCarry n)))

/-- The multiframe whose release is due: 150 ns before TIME, which for a TIME below 1,500 lie in the multiframe before
(R275); a release acts once in its multiframe. -/
def State.relDue (s : State) (bank r : Nat) : Option Nat :=
  let n := relEnt (s.calImg bank) r
  let last := (smapFind (calKey bank r) s.cal.relDone).map (·.1)
  if relCount (s.calImg bank) ≤ r then none
  else if mfTicks + rTime n ≤ s.calTime + 1500 ∧ s.nextTurn.acts bank n ∧ last ≠ some (s.mfIndex + 1) then some (s.mfIndex + 1)
  else if rTime n ≤ s.calTime + 1500 ∧ s.calTurn.acts bank n ∧ last ≠ some s.mfIndex ∧ last ≠ some (s.mfIndex + 1) then
    some s.mfIndex
  else none

/-- What the digest covers of a release: the frame, or nothing. -/
def digestRel (bank r mf : Nat) (f : Option Bytes) (s : State) : State :=
  let next := s.mfIndex < mf
  let old := (if next then s.nextTurn else s.calTurn).retiring == some bank
  doIf s.boot.straps.twinEn (fun s => { s with cal := { s.cal with
    digRel := smapInsert ((if next then 32768 else 0) + (if old then 0 else 16384) + r) f s.cal.digRel } }) s

/-- TIME of a release in multiframe mf, the present or the next one, as a time of the timebase. -/
def State.relAt (s : State) (n mf : Nat) : Nat := s.now + (mf - s.mfIndex) * mfTicks + rTime n - s.calTime

/-- The release is judged: its buffer is empty after TIME, its multiframe and the length of the frame released are kept. -/
def relOver (bank r mf len : Nat) (f : Option Bytes) (s : State) : State :=
  let n := relEnt (s.calImg bank) r
  let page := relPage (s.calImg bank) n
  let s := setRxBuf page { s.rxBuf page with endAt := some (s.relAt n mf) } (digestRel bank r mf f s)
  { s with cal := { s.cal with relDone := smapInsert (calKey bank r) (mf, len) s.cal.relDone } }

/-- The frame of a buffer crosses the bridge in the scheduled class and goes to the line MAC ahead of routed frames; with
LINK_UP 0 it is discarded there. -/
def releaseFrame (bank r mf : Nat) (s : State) : State :=
  let img := s.calImg bank
  let n := relEnt img r
  let port := fOut (flowEnt img (rFlow n))
  let b := s.rxFrame (relPage img n)
  let s := bridgeSched 1 b (s.inc (R.schedFlowCtr (rFlow n) 3))
  let s :=
    if s.linkUp port then setMacQueue port (.sched b (rFlow n) (s.relAt n mf) :: s.macQueue port) s
    else s.inc (lineCtr port 21)
  relOver bank r mf b.length (some b) s

def schedRelease (bank r : Nat) (v : Vote) (s : State) : State :=
  match s.relDue bank r with
  | none => s
  | some mf =>
    let buf := s.rxBuf (relPage (s.calImg bank) (relEnt (s.calImg bank) r))
    let s := voteWord v s
    if s.halted then relOver bank r mf 0 none s
    else if buf.cells.isEmpty then relOver bank r mf 0 none (s.inc (R.schedCtr 5))
    else if !buf.complete then relOver bank r mf 0 none (s.inc (R.schedCtr 6))
    else if buf.stomp then relOver bank r mf 0 none (s.inc (R.schedCtr 7))
    else releaseFrame bank r mf s

def execSchedRelease (bank release : Nat) (vote : Vote) (s : State) : Res :=
  guardWf (bank < 2 && release < 16384 && voteOk vote) (schedRelease bank release vote s)

/-! ### The line MAC beside releases (R94, R276, R501) -/

/-- The frame length that a release of multiframe mf has sent, or will send as its buffer stands: 0 while that is not
complete. -/
def State.relLen (s : State) (bank r mf : Nat) : Nat :=
  let buf := s.rxBuf (relPage (s.calImg bank) (relEnt (s.calImg bank) r))
  let next := if buf.complete then buf.len else 0
  match smapFind (calKey bank r) s.cal.relDone with
  | some (m, l) => if m = mf then l else next
  | none => next

/-- A routed frame may not start on a port: the interval of R276 of a release of this multiframe, of the next one, or of
one made in the last one whose frame is still being sent, covers the present calendar time. -/
def State.relGuard (s : State) (port : Nat) : Bool :=
  let g := s.sendTicks port (s.fld (R.linePortCfg port) F.linePortCfgMaxFrame + 20)
  let t := s.calTime
  s.framerRun && !s.halted && [0, 1].any (fun b =>
    (List.range (relCount (s.calImg b))).any (fun r =>
      let n := relEnt (s.calImg b) r
      fOut (flowEnt (s.calImg b) (rFlow n)) == port &&
        ((s.calTurn.acts b n && rTime n ≤ t + g && t < rTime n + s.sendTicks port (s.relLen b r s.mfIndex)) ||
         (s.nextTurn.acts b n && mfTicks + rTime n ≤ t + g) ||
         (match smapFind (calKey b r) s.cal.relDone with
          | some (m, l) => m + 1 == s.mfIndex && t + mfTicks < rTime n + s.sendTicks port l
          | none => false))))

/-- A frame handed to the MAC of a device that holds its output is discarded (R501). -/
def heldFrame (s : State) : State := s.inc (R.twinCtr 4)

/-- The MAC sends an item whose turn it is; the first bit of a release's frame leaves between TIME and TIME + 4 ns (R275). -/
def sendItem (port : Nat) (m : MacItem) (s : State) : State :=
  match m with
  | .routed id =>
    match s.pkt id with
    | none => s
    | some p =>
      let s := erasePkt id s
      if s.outputHeld then heldFrame s
      else if s.linkUp port then sendRouted port p s
      else s.inc (lineCtr port 21)
  | .sched b _ at_ =>
    if s.outputHeld then heldFrame s
    else if s.linkUp port then
      sendSched port b (min s.now (at_ + 40)) (doIf (s.anyHold port) (fun s => s.inc (lineCtr port 22)) s)
    else s.inc (lineCtr port 21)

/-- An item is not stopped by itself: the TIME of a release has come, a routed frame is not held by pause. -/
def State.turnAtMac (s : State) (port : Nat) (m : MacItem) : Bool :=
  match m with
  | .sched _ _ at_ => at_ ≤ s.now
  | .routed _ => !s.linkUp port || !s.heldAtMac port m

/-- The line MAC sends the next frame it may (R94): releases at their TIME, routed frames outside the intervals of
releases, in the order of the hand-over among those that no pause holds; a frame whose tail is not in holds up the rest. -/
def txFrame (port : Nat) (s : State) : State :=
  if s.pwr.tripped then s
  else match takeFirst (s.turnAtMac port) (s.macQueue port) with
    | none => s
    | some (m, rest) =>
      let go := match m with
        | .sched _ _ _ => true
        | .routed _ => !s.linkUp port || (s.wholeAtMac m && !s.relGuard port)
      if go then sendItem port m (setMacQueue port rest s) else s

def execTxFrame (port : Nat) (s : State) : Res := guardWf (port < 96) (txFrame port s)

/-! ### Boundaries (R268, R290, R292, R294 to R297) -/

/-- The framer's boundary against the PTP boundary of multiframe n (R268), in ticks: positive where the framer is late. -/
def State.alignErr (s : State) (n : Nat) : Int :=
  let off := s.fld R.schedMfOffset F.schedMfOffsetMfOffset
  let d : Int := (s.now : Int) - (s.calTime : Int) - off - (n * mfTicks : Nat)
  let span : Int := (2 ^ 32 * mfTicks : Nat)
  let r := d % span
  if span ≤ 2 * r then r - span else r

/-- ALIGN_ERR_PS is written and judged. -/
def alignCheck (n : Nat) (s : State) : State :=
  let e := s.alignErr n
  let s := s.setFld R.schedMfStat F.schedMfStatAlignErrPs ((100 * e) % (2 ^ 32 : Nat)).toNat
  if s.fld R.schedCtl F.schedCtlAlignTolNs * 10 < e.natAbs then
    calAlarm (report .t 0x12 3 .k 0x001 [] (s.setFld R.schedSlack F.schedSlackAlignAlarm 1))
  else s

/-- The banks whose slack a boundary computes: live, armed, and that of a SWAP being armed. -/
def State.slackBanks (s : State) : List Nat :=
  (match s.calLive with
   | some b => [b]
   | none => []) ++ s.cal.armed.map (·.1) ++
  (match s.cal.swapReq with
   | some (b, _) => [b]
   | none => [])

/-- The dies that the STEPS of an image name. -/
def stepDies (b : Bytes) : List Nat :=
  [0, 1].filter (fun d => (List.range ((calSteps b).length / 16)).any (fun i => byteAt (16 * i + 1) (calSteps b) == d))

/-- A rail can be raised no further: at VMAX_MV, or not answering (R297, R472). -/
def State.railMax (s : State) (d : Nat) : Bool :=
  s.fld (R.pwrRailCfg d) F.pwrRailCfgVmaxMv ≤ s.railSet d || s.flag (R.pwrRailStat d) F.pwrRailStatAvsFault

/-- The smallest of a list. -/
def minList : List Int → Option Int
  | [] => none
  | a :: l => some (l.foldl min a)

/-- The slack of R296 at a boundary, and SLACK_LOW (R297). -/
def slackCheck (s : State) : State :=
  match minList (s.slackBanks.map s.bankSlack) with
  | none => s
  | some sl =>
    let s := s.setFld R.schedSlack F.schedSlackSlackPs (sl % (2 ^ 32 : Nat)).toNat
    let m := s.fld R.schedSlackMin F.schedSlackMinMinSlackPs
    let m : Int := if m < 2 ^ 31 then m else (m : Int) - (2 ^ 32 : Nat)
    let s := doIf (sl < m) (fun s => s.setFld R.schedSlackMin F.schedSlackMinMinSlackPs (sl % (2 ^ 32 : Nat)).toNat) s
    let dies := s.slackBanks.flatMap (fun b => stepDies (s.calImg b))
    if sl < s.slackRaise && dies.all s.railMax && !s.flag R.schedSlack F.schedSlackSlackLow then
      calAlarm (report .t 0x12 3 .k 0x003 [] (s.setFld R.schedSlack F.schedSlackSlackLow 1))
    else doIf (s.slackRaise + 1000 ≤ sl) (fun s => s.setFld R.schedSlack F.schedSlackSlackLow 0) s

/-- Four multiframes before M: an armed bank short of slack is disarmed, a SWAP not armed completes with TIMEOUT. -/
def armDeadline (n : Nat) (s : State) : State :=
  let due := fun m => mfReached ((2 ^ 32 + m - 4) % 2 ^ 32) n
  let s := forEach s.cal.armed (fun a s =>
    doIf (a.2 == (n + 4) % 2 ^ 32 && s.bankSlack a.1 < s.slackRaise)
      (fun s => disarmedEvent a.1 a.2 (calTo a.1 Cb.standby s)) s) s
  match s.cal.swapReq with
  | some (_, m) =>
    if due m then complete .sched Code.timeout 0x20 { s with cal := { s.cal with swapReq := none } } else s
  | none => s

/-- A lane that lists TX or RX slots in either bank. -/
def State.laneListed (s : State) (l : Nat) : Bool :=
  [0, 1].any (fun b => 3 ≤ s.calState b && s.calState b ≤ 6 &&
    (0 < laneCount (calTx (s.calImg b)) l || 0 < laneCount (calRx (s.calImg b)) l))

/-- Two multiframes before M every listed lane in SYNC must have received the announcement (R331). -/
def tsiCheck (n : Nat) (s : State) : State :=
  match s.cal.armed.find? (fun a => a.2 == (n + 2) % 2 ^ 32) with
  | none => s
  | some (_, m) =>
    forEach (List.range 120) (fun l s =>
      let ok := s.flag (R.tsiLaneStat l) F.tsiLaneStatRxAnnounce && s.fld (R.tsiLaneStat l) F.tsiLaneStatRxSwapMf == m
      doIf (s.fld (R.fabLaneStat l) F.fabLaneStatAlign == 2 && s.laneListed l && !ok) (fun s =>
        report .t 0x13 l .k 0x008 []
          (fabInc (R.fabDevCtr 11) (s.setFld (R.tsiLaneStat l) F.tsiLaneStatMismatch 1))) s) s

/-- The armed bank of multiframe n becomes live, the live one retires (R292, R294). -/
def swapLive (b : Nat) (s : State) : State :=
  let s := match s.calLive with
    | some l => calTo l Cb.retiring s
    | none => s
  let s := calTo b Cb.live { s with cal := { s.cal with armed := s.cal.armed.filter (fun a => a.1 != b), fresh := true } }
  let at_ := (s.now - s.calTime)
  let s := s.wr R.schedSwapTs0 (BitVec.ofNat 64 (stampLo at_))
  let s := s.setFld R.schedSwapTs1 F.schedSwapTs1TsHigh (stampHi at_)
  let s := (s.setFld R.schedStatus F.schedStatusSwapped 1).inc (R.schedCtr 10)
  let s := doIf (s.flag R.schedCtl F.schedCtlDoneIrqEn) (raiseBlock 9 9) s
  calReserve (tsiRefresh s)

/-- A bank that has been RETIRING for its multiframe returns to STANDBY. -/
def retireEnd (s : State) : State :=
  match s.calRetiring with
  | some b => calReserve (calTo b Cb.standby s)
  | none => s

/-- EN takes effect at a boundary (R295). -/
def calRunNext (s : State) : State :=
  let r := s.runNext
  let s := { s with cal := { s.cal with run := r } }
  doIf (r == .off) (fun s => { s with cal := { s.cal with frames := [], rx := [] } }) s

/-- A halt ends at the multiframe that RESTART named (R298). -/
def haltEnd (n : Nat) (s : State) : State :=
  match s.cal.resume with
  | some r =>
    if mfReached r n then
      let s := s.setFld R.schedVote F.schedVoteHalt 0
      complete .sched Code.ok 0 { s with cal := { s.cal with resume := none } }
    else s
  | none => s

/-- What the digest covers of releases made early for the multiframe that begins (R505). -/
def earlyRels (m : SMap (Option Bytes)) : SMap (Option Bytes) :=
  (m.filter (fun e => 32768 ≤ e.1)).map (fun e => (e.1 - 32768, e.2))

/-- The calendar at the boundary that begins multiframe n, of which mfIndex tells already; the page hand-over is a word
of the sequencer (R298). -/
def calBoundary (n : Nat) (v : Vote) (s : State) : State :=
  let s := s.setFld R.schedMfStat F.schedMfStatMfNum n
  let s := alignCheck n s
  let s := s.setFld R.schedVote F.schedVoteResync 0
  let s := voteWord v (haltEnd n s)
  let keep := s.cal.frames.filter (fun e => decide (s.mfIndex ≤ e.2.mf + 1))
  let done := s.cal.relDone.filter (fun e => decide (s.mfIndex ≤ e.2.1 + 1))
  let c := { s.cal with fresh := false, relDone := done, digTx := [], digRel := earlyRels s.cal.digRel, frames := keep }
  let s := { s with cal := c }
  let s := retireEnd s
  let s := match s.cal.armed.find? (fun a => mfReached a.2 n) with
    | some (b, _) => swapLive b s
    | none => s
  let s := calRunNext s
  tsiCheck n (armDeadline n (slackCheck s))

/-- QUIESCED of SCHED_CTL: EN has been 0 for a full multiframe and no frame is held. -/
def State.calQuiesced (s : State) : Bool :=
  s.cal.run == .off && !s.flag R.schedCtl F.schedCtlEn && s.cal.frames.isEmpty &&
    s.cal.rx.all (fun e => s.rxBuf e.1 == emptyRx)

end Sys2Proof.Machine
end

