-- ==== Sys2Proof/Machine/Fabric.lean ====
section
/-! DEFINITION. The fabric interface (chapter 10): the framer, the lane stream and its scrambler, frame alignment, link
groups, parity and defects, trace identifiers, the slots of the TSI, routed cells out and in, credit messages, the
latched counters. -/

namespace Sys2Proof.Machine

/-! ### The scrambler (R306) and parity (R319, R320) -/

/-- One bit of the generator: its next state and the keystream bit. -/
def scrBit (r : Nat) : Nat × Nat := ((2 * r + (r / 2 ^ 30 + r / 2 ^ 27) % 2) % 2 ^ 31, r / 2 ^ 30 % 2)

/-- `n` bits of keystream, the first one the most significant. -/
def scrBits : Nat → Nat → Nat → Nat × Nat
  | 0, r, acc => (r, acc)
  | n + 1, r, acc => scrBits n (scrBit r).1 (2 * acc + (scrBit r).2)

/-- Scramble a byte string from a state of the generator. -/
def scramble : Nat → Bytes → Bytes
  | _, [] => []
  | r, b :: bs => let x := scrBits 8 r 0; (b ^^^ BitVec.ofNat 8 x.2) :: scramble x.1 bs

/-- The state after `n` bytes. -/
def scrSkip : Nat → Nat → Nat
  | 0, r => r
  | n + 1, r => scrSkip n (scrBits 8 r 0).1

/-- The state at byte 0x08 of a frame. -/
def scrInit : Nat := 0x7FFFFFFF

/-- The frame alignment word. -/
def faw : Bytes := toBe 8 0xF6F6F6F628282828

/-- An overhead block or a whole frame, scrambled or descrambled: the FAW stays. -/
def scrFrame (b : Bytes) : Bytes := b.take 8 ++ scramble scrInit (b.drop 8)

/-- Cell c of a frame, scrambled. -/
def scrCell (c : Nat) (b : Bytes) : Bytes := scramble (scrSkip (248 + 256 * c) scrInit) b

/-- Even bit-interleaved parity of bytes. -/
def bip8 (b : Bytes) : Nat := (b.foldl (fun a x => a ^^^ x) 0).toNat

/-- The number of bits of a byte that are 1. -/
def ones8 (n : Nat) : Nat := ((List.range 8).filter (fun i => nbit n i)).length

/-- The number of bits in which eight bytes differ from the FAW. -/
def fawErrors (b : Bytes) : Nat := ((List.range 8).map (fun i => ones8 (byteAt i b ^^^ byteAt i faw))).sum

/-! ### Symbols (R301) -/

/-- The PAM4 level of two bits, the first one the more significant: 00, 01, 11, 10 are levels 0 to 3. -/
def grayLevel (first second : Bool) : BitVec 2 :=
  match first, second with
  | false, false => 0
  | false, true => 1
  | true, true => 2
  | true, false => 3

/-- The four symbols of a byte, which goes out most significant bit first. -/
def byteLevels (b : Byte) : List (BitVec 2) :=
  [3, 2, 1, 0].map (fun i => grayLevel (b.getLsbD (2 * i + 1)) (b.getLsbD (2 * i)))

/-- The symbols of a byte string on a lane. -/
def pam4 (b : Bytes) : List (BitVec 2) := b.flatMap byteLevels

/-- What a fabric ball sends with something that left the device: the lane and its symbols. -/
def Out.symbols : Out → Option (Nat × List (BitVec 2))
  | .fabFrame lane b => some (lane, pam4 b)
  | .fabCell lane _ b => some (lane, pam4 b)
  | _ => none

/-! ### Lane and group state -/

def State.laneStat (s : State) (l : Nat) (f : Fld) : Nat := s.fld (R.fabLaneStat l) f
def State.laneFlag (s : State) (l : Nat) (f : Fld) : Bool := s.flag (R.fabLaneStat l) f
def setLaneStat (l : Nat) (f : Fld) (v : Nat) (s : State) : State := s.setFld (R.fabLaneStat l) f v

/-- A lane in SYNC (R313). -/
def State.inSync (s : State) (l : Nat) : Bool := s.laneOn l && s.laneStat l F.fabLaneStatAlign == 2

/-- A lane without LOS, LOF, AIS or TIM. -/
def State.laneClean (s : State) (l : Nat) : Bool :=
  [F.fabLaneStatLos, F.fabLaneStatLof, F.fabLaneStatAis, F.fabLaneStatTim].all (fun f => !s.laneFlag l f)

/-- The members of a group in SYNC without LOS, LOF, AIS or TIM. -/
def State.membersUp (s : State) (g : Nat) : Bool := (s.members g).all (fun l => s.inSync l && s.laneClean l)

/-- The destinations of a group are pinned anew: its transmit service changed (R333). -/
def repinGroup (g : Nat) (s : State) : State := forEach (s.reachedBy g) repin s

/-- The state of a group follows its lanes and defects (R315, R324, R325). -/
def refreshGroup (g : Nat) (s : State) : State :=
  let st := R.fabGroupStat g
  let was := s.flag st F.fabGroupStatUp
  let served := s.txService g
  let up := s.groupEn g && s.groupCfgOk g && s.membersUp g && !s.flag st F.fabGroupStatLoa && !s.flag st F.fabGroupStatGmm
  let service := up && !s.flag st F.fabGroupStatRdiP
  let s := ((s.setFld st F.fabGroupStatCfgErr (b2n (s.groupEn g && !s.groupCfgOk g))).setFld st F.fabGroupStatUp (b2n up)).setFld
    st F.fabGroupStatTxService (b2n service)
  let s := doIf (was && !up) (report .t 0x13 (0x200 + g) .k 0x002 []) s
  doIf (served != service) (repinGroup g) s

/-- A lane's group follows it. -/
def refreshLane (l : Nat) (s : State) : State := if s.twinLane l then s else refreshGroup (s.laneGroup l) s

/-- The defects that are recorded (R325): the status bit, the byte of the record's context. -/
def defLos : Fld × Nat := (F.fabLaneStatLos, 0)
def defLof : Fld × Nat := (F.fabLaneStatLof, 1)
def defAis : Fld × Nat := (F.fabLaneStatAis, 2)
def defTim : Fld × Nat := (F.fabLaneStatTim, 3)

/-- A lane defect is declared and recorded. -/
def laneDefect (d : Fld × Nat) (l : Nat) (s : State) : State :=
  fabIrq (report .t 0x13 l .k 0x001 [(d.2, 1)] (setLaneStat l d.1 1 s))

/-- A group defect is declared: its bit, its byte. -/
def groupDefect (f : Fld) (byte g : Nat) (s : State) : State :=
  if s.flag (R.fabGroupStat g) f then s
  else fabIrq (report .t 0x13 (0x200 + g) .k 0x001 [(byte, 1)] (s.setFld (R.fabGroupStat g) f 1))

/-- What the receiver of a lane forgets when it leaves SYNC. -/
def LaneSt.searching (k : LaneSt) : LaneSt :=
  { k with pos := 0, fn := 0, miss := 0, held := 0, par := none, aisRun := 0, rdiRun := 0, ttiOn := false, tti := [],
           ttiOld := [], ttiRep := 0 }

/-- A member leaves its group's store: the frames of the others can no longer be aligned with its own. The runs of GMM go on
while another member is in SYNC, those of RDI_P while member 0 is (R323). -/
def clearStore (l : Nat) (s : State) : State :=
  let g := s.laneGroup l
  let k := s.linkGroup g
  let m := s.fld (R.fabLaneCfg l) F.fabLaneCfgMember
  setGroup g { k with stores := smapErase m k.stores, last := none, loaRun := 0,
                      gmmRun := if (s.members g).any (fun x => x != l && s.inSync x) then k.gmmRun else 0,
                      rdiRun := if m = 0 then 0 else k.rdiRun } s

/-- A lane goes to HUNT; from SYNC that declares LOF (R313, R323). -/
def toHunt (l : Nat) (s : State) : State :=
  let sync := s.laneStat l F.fabLaneStatAlign == 2
  let s := setLane l (s.lane l).searching (setLaneStat l F.fabLaneStatAlign 0 s)
  let s := doIf (!s.twinLane l) (clearStore l) s
  doIf (sync && !s.laneFlag l F.fabLaneStatLof) (laneDefect defLof l) s

/-! ### LOS (R323) -/

/-- The SerDes has reported loss for a frame. -/
def fabLos (l : Nat) (s : State) : State :=
  let s := doIf (!s.laneFlag l F.fabLaneStatLos) (laneDefect defLos l) s
  refreshLane l (toHunt l s)

def execFabLos (lane : Nat) (s : State) : Res := guardWf (lane < 120) (fabLos lane s)

/-- Signal and CDR lock have held for 32 frames: LOS clears, the lane hunts. -/
def fabSignalLock (l : Nat) (s : State) : State :=
  if s.laneFlag l F.fabLaneStatLos then refreshLane l (setLaneStat l F.fabLaneStatLos 0 s) else s

def execFabSignalLock (lane : Nat) (s : State) : Res := guardWf (lane < 120) (fabSignalLock lane s)

/-! ### The framer (R311, R312) -/

/-- The number of the PTP multiframe that holds a time (R266). -/
def State.ptpMf (s : State) (t : Nat) : Int := ((t : Int) - (s.fld R.schedMfOffset F.schedMfOffsetMfOffset : Nat)) / (mfTicks : Nat)

/-- The first PTP multiframe boundary at or after a time. -/
def State.ptpBoundary (s : State) (t : Nat) : Nat :=
  ((s.ptpMf t + (if ((t : Int) - (s.fld R.schedMfOffset F.schedMfOffsetMfOffset : Nat)) % (mfTicks : Nat) = 0 then 0 else 1)) *
    (mfTicks : Nat) + (s.fld R.schedMfOffset F.schedMfOffsetMfOffset : Nat)).toNat

/-- A write of 1 to FRAMER_START. -/
def framerStart (s : State) : State :=
  if s.framerRun || s.fab.startAt.isSome then s
  else { s with fab := { s.fab with startAt := some (s.ptpBoundary (s.now + 2 * mfTicks)) } }

/-- The slots that a lane has passed since the framer started. -/
def State.slotsPast (s : State) (l : Nat) : Nat :=
  let k := s.lane l
  if k.txNext = 0 then 0 else 40 * (k.txNext - 1) + k.txCell

/-- A slot entry of a lane is still to come for a frame that holds its cell. -/
def State.slotToCome (s : State) (key : Nat) (f : TxFrame) (l e : Nat) : Bool :=
  sRef e == key % 16384 && 240 * sCell e < f.len &&
    s.slotsPast l ≤ 10240 * (f.mf + b2n (txCarry (s.calImg (key / 16384)) e)) + sPos e

/-- The cells of a frame whose pick times no longer arrive (R312). -/
def State.cellsLeft (s : State) (key : Nat) (f : TxFrame) : Nat :=
  (((List.range 120).filter s.laneOn).map (fun l =>
    ((laneSlots (calTx (s.calImg (key / 16384))) l).filter (s.slotToCome key f l)).length)).sum

/-- A write of 1 to FRAMER_STOP: lanes stop, or a waiting start is cancelled. A calendar that runs stops with its
frames. -/
def framerStop (s : State) : State :=
  let s := { s with fab := { s.fab with startAt := none } }
  if s.framerRun then
    let s := doIf (s.cal.run != .off && !s.halted) (fun s =>
      forEach (s.cal.frames.map (fun e => (e.2.flow, s.cellsLeft e.1 e.2)))
        (fun x s => (s.bump (R.schedFlowCtr x.1 2) x.2).bump (R.schedCtr 3) x.2) s) s
    let c := { s.cal with run := .off, frames := [], rx := [] }
    fabIrq ({ s with cal := c }.setFld R.fabCtl F.fabCtlFramerRun 0)
  else s

/-- Transmit state of a lane at the start of the framer. -/
def LaneSt.fresh (k : LaneSt) (n : Nat) : LaneSt := { k with txNext := n, txCell := 40, txPar := 0, txAcc := 0 }

/-- The awaited boundary has come: the framer and calendar time start there. -/
def framerRun (s : State) : State :=
  match s.fab.startAt with
  | none => s
  | some t =>
    if s.now < t then s
    else
      let r := s.fab.ref - (s.now - t) / 64
      let lanes := s.fab.lanes.map (fun e => (e.1, e.2.fresh 0))
      let groups := s.fab.groups.map (fun e => (e.1, { e.2 with txPar := 0, txAcc := 0, txNum := 0, frame := [] }))
      let s := { s with fab := { s.fab with startAt := none, run0 := r, mfRef := r, lanes := lanes, groups := groups },
                        cal := { s.cal with relDone := [] } }
      let s := fabIrq (s.setFld R.fabCtl F.fabCtlFramerRun 1)
      let s := mfPulse s
      calBoundary ((s.ptpMf t) % (2 ^ 32 : Nat)).toNat .agree s

def execFramerRun (s : State) : Res := guardWf true (framerRun s)

/-! ### Lane configuration (R311, R313, R315, R323, R326) -/

/-- An enabled lane starts: LOF is declared, it hunts, and it sends from the next frame boundary. -/
def laneStart (l : Nat) (s : State) : State :=
  let n := if s.framerRun then s.curFrame + 1 else 0
  let s := setLane l ((s.lane l).searching.fresh n) (setLaneStat l F.fabLaneStatAlign 0 s)
  laneDefect defLof l s

/-- A disabled lane hunts. -/
def laneStop (l : Nat) (s : State) : State := toHunt l s

/-- A trace comparison is due at the next acceptance, which starts anew. -/
def traceDue (l : Nat) (s : State) : State :=
  let k := s.lane l
  setLane l { k with due := true, ttiOn := false, tti := [], ttiOld := [], ttiRep := 0 } s

/-- The effect of a write to FAB_LANE_CFG_l that has been stored; `old` is its value before. -/
def laneCfgEffect (l : Nat) (old : Word) (check : Bool) (s : State) : State :=
  let was := getF old F.fabLaneCfgEn != 0
  let awake := s.fld (R.pwrWakeGroup (s.laneGroup l)) F.pwrWakeGroupState == 0
  let s := doIf (!was && s.laneEn l && awake) (laneStart l) s
  let s := doIf (was && !s.laneEn l) (laneStop l) s
  let s := doIf (getF old F.fabLaneCfgTimEn != 0 && !s.flag (R.fabLaneCfg l) F.fabLaneCfgTimEn) (setLaneStat l F.fabLaneStatTim 0) s
  let s := doIf check (traceDue l) s
  refreshGroup (getF old F.fabLaneCfgGroup) (refreshGroup (s.laneGroup l) s)

/-- The effect of a write to FAB_REACH_d: a mask that changes starts the hold (R333). -/
def reachEffect (d : Nat) (old : Word) (s : State) : State :=
  let mask := fun w => (List.range 24).filter (fun g => bitOf w g && s.txService g)
  doIf (mask old != mask (s.rd (R.fabReach d))) (repin d) s

/-- The hold of a destination ends. -/
def repinGuard (d : Nat) (s : State) : State :=
  match smapFind d s.fab.hold with
  | some t => if t ≤ s.now then { s with fab := { s.fab with hold := smapErase d s.fab.hold } } else s
  | none => s

def execRepinGuardExpire (d : Nat) (s : State) : Res := guardWf (d < 4096) (repinGuard d s)

/-! ### Health and twin records (R496, R502, R503) -/

/-- ERQ_FATAL_d holds a fatal record other than STEWARD_FAULT. -/
def State.fatalHeld (s : State) (d : Nat) : Bool :=
  s.flag (R.erqStat d) F.erqStatFatal && (s.rd (R.erqFatal d 0)).toNat % 2 ^ 32 != 0x80010800

/-- The conditions of R496 but for the state. -/
def State.healthCond (s : State) : Bool :=
  s.boot.ready && !s.fatalHeld 0 && !s.fatalHeld 1 && !s.halted && !s.pwr.tripped

/-- TWIN_HEALTH_OUT. -/
def State.healthOut (s : State) : Bool := s.healthCond && 1 ≤ s.twinState && s.twinState ≤ 3

/-- The HEALTH byte of a record. -/
def State.healthByte (s : State) : Nat :=
  b2n s.healthOut + 2 * b2n (s.flag (R.erqStat 0) F.erqStatFatal || s.flag (R.erqStat 1) F.erqStatFatal) +
    4 * b2n s.halted + 8 * b2n s.boot.ready

/-- A twin record in its cell. -/
def twinCell (kind arg digest : Nat) (s : State) : Bytes :=
  let rec_ := toBe 1 kind ++ toBe 1 s.twinState ++ toBe 1 s.healthByte ++ toBe 1 (s.fld R.twinCfg F.twinCfgSide) ++
    toBe 4 s.mfNum ++ toBe 4 arg ++ zeros 4 ++ toBe 8 digest ++ zeros 40
  mkCell (cellTop 3 1 1 0 0 0 s.devIndex 0 0 0 0 64) rec_

/-- What cell c of frame f carries on a twin lane. -/
def twinSlot (f c : Nat) (s : State) : Bytes :=
  let before := (2 ^ 32 + s.mfNum - 1) % 2 ^ 32
  match c with
  | 0 => twinCell 1 (s.fld R.twinState F.twinStateActiveSince) 0 s
  | 1 => match smapFind before s.twin.digs with
    | some d => if f < 8 then twinCell 2 before d s else idleCell
    | none => idleCell
  | 2 => match s.twin.switchM with
    | some m => twinCell 3 m 0 s
    | none => idleCell
  | _ => idleCell

/-! ### The overhead block (R304, R319 to R322, R326, R330, R338) -/

/-- The lanes of a group that carry messages, in the order of MEMBER. -/
def State.carriers (s : State) (g : Nat) : List Nat :=
  (List.range 8).flatMap (fun m => (s.members g).filter (fun l => s.laneMember l == m && s.laneOn l && !s.laneOff l))

/-- The first member to begin frame n turns the group to it: the parity of the frame before is whole, the messages of
this one leave the queue. -/
def turnGroup (g n : Nat) (s : State) : State :=
  let k := s.linkGroup g
  if k.txNum = n + 1 then s
  else
    let room := 24 * (s.carriers g).length
    setGroup g { k with txPar := if k.txNum = n then k.txAcc else 0, txAcc := 0, txNum := n + 1,
                        frame := k.msgs.take room, msgs := k.msgs.drop room } s

/-- The 24 message slots of a lane; a frame with AIS sends them empty. -/
def State.slotsOf (s : State) (l : Nat) : Bytes :=
  let g := s.laneGroup l
  let c := s.carriers g
  match (if s.sendsAis l then none else c.findIdx? (· == l)) with
  | some j => (List.range 24).flatMap (fun i => toBe 8 ((s.linkGroup g).frame.getD (i * c.length + j) 0).toNat)
  | none => zeros 192

/-- The FLAGS byte. -/
def State.flagsOf (s : State) (l : Nat) : Nat :=
  let g := s.laneGroup l
  128 * b2n (!s.laneClean l) +
    64 * b2n (!s.twinLane l && s.groupEn g && !s.flag (R.fabGroupStat g) F.fabGroupStatUp) + 32 * b2n (s.sendsAis l)

/-- The TSI byte: PAGE, ANNOUNCE, and AGREE where the lane last received the announcement it sends. -/
def State.tsiByte (s : State) (l : Nat) : Nat :=
  let ann := s.flag R.tsiStat F.tsiStatAnnounce
  let agree := ann && s.flag (R.tsiLaneStat l) F.tsiLaneStatRxAnnounce &&
    s.fld (R.tsiLaneStat l) F.tsiLaneStatRxSwapMf == s.fld R.tsiStat F.tsiStatSwapMf
  128 * s.fld R.tsiStat F.tsiStatPage + 64 * b2n ann + 32 * b2n agree

/-- Byte i of the string a lane sends. -/
def State.ttiByte (s : State) (l i : Nat) : Nat := byteAt (i % 8) (toLe 8 (s.rd (R.fabTtiTx l (i / 8))).toNat)

/-- The overhead block of frame n of a lane before scrambling, the parity of the frame before it given. -/
def overhead (l n par : Nat) (s : State) : Bytes :=
  let g := s.laneGroup l
  let k := s.linkGroup g
  let twin := s.twinLane l
  let fn := n % 256
  faw ++ toBe 1 fn ++ toBe 4 s.mfNum ++ toBe 1 par ++ toBe 1 (if twin then 0 else k.txPar) ++
    toBe 1 (16 * (s.lane l).reiS + (if twin then 0 else k.reiP)) ++ toBe 1 (s.flagsOf l) ++ toBe 1 (s.ttiByte l (fn % 64)) ++
    toBe 1 (s.tsiByte l) ++ toBe 4 (s.fld R.tsiStat F.tsiStatSwapMf) ++
    toBe 2 (16 * s.devIndex) ++ toBe 1 l ++ toBe 1 (if twin then 0 else 8 * g + s.laneMember l) ++
    toBe 1 (if twin then 0 else 16 * s.groupSize g) ++ zeros 36 ++ (if twin then zeros 192 else s.slotsOf l)

/-- A lane begins the frame in progress. -/
def frameTransmit (l : Nat) (s : State) : State :=
  let k := s.lane l
  let n := s.curFrame
  if s.framerRun && !s.pwr.tripped && s.laneOn l && k.txNext ≤ n then
    let par := if k.txNext = n ∧ k.txCell = 40 then k.txAcc else 0
    let s := doIf (!s.twinLane l) (turnGroup (s.laneGroup l) n) s
    let w := scrFrame (overhead l n par s)
    let s := setLane l { k with txNext := n + 1, txCell := 0, txPar := par, txAcc := bip8 w, ais := s.sendsAis l,
                                off := s.laneOff l } s
    s.emit (.fabFrame l w)
  else s

def execFabFrameTransmit (lane : Nat) (s : State) : Res := guardWf (lane < 120) (frameTransmit lane s)

/-! ### Slots (R316, R328, R334) -/

/-- The bytes that a packet in progress sends. -/
def State.txStream (s : State) (v : VoqTx) : Bytes := slice 0 32 v.md ++ s.storedBytes v.st

/-- The tail of a packet in progress is stored; one whose store is gone ends. -/
def State.txTail (s : State) (v : VoqTx) : Bool :=
  match s.store v.st with
  | some k => k.tailIn
  | none => true

def State.txStomp (s : State) (v : VoqTx) : Bool :=
  match s.store v.st with
  | some k => k.stomp
  | none => true

/-- The next cell of a packet in progress is its last. -/
def State.txLast (s : State) (v : VoqTx) : Bool := s.txTail v && (s.txStream v).length ≤ 240 * (v.cell + 1)

/-- The next cell of a packet in progress can be sent: its 240 bytes, or the tail, are stored (R253). DESIGN CHOICE: a cell of
240 bytes waits for the byte after it or the tail, since a LAST cell holds at least one byte (R307); log 93. -/
def State.txReady (s : State) (v : VoqTx) : Bool := s.txTail v || 240 * (v.cell + 1) < (s.txStream v).length

/-- The stream whose cell goes next, by TC. -/
def pickStream (g : Nat) (s : State) : State × Option (Nat × VoqTx) :=
  match (s.linkGroup g).tx.filter (fun e => s.txReady e.2) with
  | [] => (s, none)
  | [e] => (s, some e)
  | l => ({ s with freeCtr := s.freeCtr + 1 }, l[Config.streamPick s.freeCtr % l.length]?)

/-- The next routed cell of a group, or an IDLE cell. -/
def routedCell (g : Nat) (s : State) : State × Bytes :=
  match pickStream g s with
  | (s, none) => (s, idleCell)
  | (s, some (tc, v)) =>
    let last := s.txLast v
    let pay := ((s.txStream v).drop (240 * v.cell)).take 240
    let cell := mkCell (cellTop 1 (b2n (v.cell == 0)) (b2n last) (b2n (last && s.txStomp v)) 0 v.dev s.devIndex tc g v.seq v.cell
      pay.length) pay
    let k := s.linkGroup g
    let s := fabInc (R.fabGroupCtr g 4) s
    if last then (dropRef v.st (setGroup g { k with tx := smapErase tc k.tx } s), cell)
    else (setGroup g { k with tx := smapInsert tc { v with cell := v.cell + 1 } k.tx } s, cell)

/-- The cell of a slot: a twin record, the cell of an entry, the next routed cell, an IDLE cell. A frame with AIS carries IDLE
cells in place of those that the TSI produces (R501); a lane out of its group's stream takes none of it. -/
def slotCell (l pos : Nat) (arrived : Bytes) (ecc : Ecc) (v : Vote) (s : State) : State × Bytes :=
  if s.twinLane l then (s, twinSlot (pos / 40) (pos % 40) s)
  else
    match s.servingSlot l pos with
    | some (b, e, act) =>
      let r := schedSlot b e act l pos arrived ecc v s
      (r.1, if (s.lane l).ais then idleCell else r.2)
    | none =>
      if (s.lane l).off then (s, idleCell)
      else
        let r := routedCell (s.laneGroup l) s
        (r.1, if (s.lane l).ais then idleCell else r.2)

/-- The slots of a group's stream are taken in the order frame, cell, MEMBER (R316): the other members have passed those
before a slot of this lane. -/
def State.slotTurn (s : State) (l : Nat) : Bool :=
  let at_ := fun (x : Nat) => 40 * (s.lane x).txNext + (s.lane x).txCell
  (s.members (s.laneGroup l)).all (fun x =>
    x == l || !s.laneOn x || at_ l + b2n (s.laneMember x < s.laneMember l) ≤ at_ x)

/-- A slot that carries routed cells waits for its turn in the stream of the group. -/
def State.slotMay (s : State) (l pos : Nat) : Bool :=
  s.twinLane l || (s.lane l).off || (s.servingSlot l pos).isSome || s.slotTurn l

/-- The pick time of a slot of the frame that a lane is sending. -/
def slotPick (l pos : Nat) (arrived : Bytes) (ecc : Ecc) (v : Vote) (s : State) : State :=
  let k := s.lane l
  if s.framerRun && !s.pwr.tripped && s.laneOn l && k.txCell < 40 && k.txNext == s.curFrame + 1 &&
      pos == 40 * (s.curFrame % 256) + k.txCell && pickTime pos ≤ s.calTime && s.slotMay l pos then
    let r := slotCell l pos arrived ecc v s
    let w := scrCell k.txCell r.2
    let g := s.laneGroup l
    let s := setLane l { k with txCell := k.txCell + 1, txAcc := k.txAcc ^^^ bip8 w } r.1
    let s := doIf (!s.twinLane l) (fun s =>
      let gs := s.linkGroup g
      setGroup g { gs with txAcc := gs.txAcc ^^^ bip8 r.2 } s) s
    s.emit (.fabCell l pos w)
  else s

def execCellSlotPick (lane pos : Nat) (arrived : Bytes) (ecc : Ecc) (vote : Vote) (s : State) : Res :=
  guardWf (lane < 120 && pos < 10240 && voteOk vote) (slotPick lane pos arrived ecc vote s)

/-! ### Receive: alignment and overhead (R313, R314, R319 to R326) -/

/-- A defect of three frames in a row: its new run and whether it flips. -/
def runOf (state seen : Bool) (run : Nat) : Nat × Bool := if state == seen then (0, false) else if run = 2 then (0, true) else (run + 1, false)

/-- AIS of a received frame. -/
def aisFrame (l : Nat) (seen : Bool) (s : State) : State :=
  let k := s.lane l
  let r := runOf (s.laneFlag l F.fabLaneStatAis) seen k.aisRun
  let s := setLane l { k with aisRun := r.1 } s
  if r.2 then (if seen then laneDefect defAis l s else setLaneStat l F.fabLaneStatAis 0 s) else s

/-- RDI_S of a received frame. -/
def rdiFrame (l : Nat) (seen : Bool) (s : State) : State :=
  let k := s.lane l
  let r := runOf (s.laneFlag l F.fabLaneStatRdiS) seen k.rdiRun
  let s := setLane l { k with rdiRun := r.1 } s
  if r.2 then doIf seen fabIrq (setLaneStat l F.fabLaneStatRdiS (b2n seen) s) else s

/-- A string is accepted: shown, and compared where a comparison is due. -/
def traceAccept (l : Nat) (str : Bytes) (s : State) : State :=
  let s := forEach (List.range 8) (fun i s => s.wr (R.fabTtiAcc l i) (wordAt i str)) s
  let k := s.lane l
  if k.due then
    let s := setLane l { k with due := false } s
    if s.flag (R.fabLaneCfg l) F.fabLaneCfgTimEn then
      let exp := wordsToBytes ((List.range 8).map (fun i => s.rd (R.fabTtiExp l i)))
      let same := str == exp
      let s := setLaneStat l F.fabLaneStatTraceMatch (b2n same) (setLaneStat l F.fabLaneStatTraceDone 1 s)
      let s := fabIrq s
      if same then setLaneStat l F.fabLaneStatTim 0 s
      else if s.laneFlag l F.fabLaneStatTim then s else laneDefect defTim l s
    else s
  else s

/-- The trace byte of a received frame. A cycle that is not complete breaks the run of equal ones. -/
def traceByte (l fn : Nat) (b : BitVec 8) (s : State) : State :=
  let k := s.lane l
  if fn % 64 = 0 then
    setLane l { k with ttiOn := true, tti := [b], ttiOld := if k.ttiOn then [] else k.ttiOld,
                       ttiRep := if k.ttiOn then 0 else k.ttiRep } s
  else if k.ttiOn then
    let str := k.tti ++ [b]
    if fn % 64 = 63 then
      if str.length = 64 then
        let n := if str = k.ttiOld then min 3 (k.ttiRep + 1) else 1
        let s := setLane l { k with ttiOn := false, tti := [], ttiOld := str, ttiRep := n } s
        if n = 3 then traceAccept l str s else s
      else setLane l { k with ttiOn := false, tti := [], ttiOld := [], ttiRep := 0 } s
    else setLane l { k with tti := str } s
  else setLane l { k with ttiOld := [], ttiRep := 0 } s

/-- BIP_S of a received frame against the frame before it. -/
def bipCheck (l : Nat) (wire : Bytes) (carried : Nat) (s : State) : State :=
  let k := s.lane l
  let k' := { k with par := some (bip8 wire) }
  match k.par with
  | none => setLane l k' s
  | some p =>
    let n := ones8 (p ^^^ carried)
    let s := setLane l { k' with reiS := n } (fabBump (R.fabLaneCtr l 0) n s)
    doIf (n != 0) (fabInc (R.fabLaneCtr l 1)) s

/-- The fields of the overhead that registers show. -/
def showOverhead (l : Nat) (d : Bytes) (s : State) : State :=
  let s := setLaneStat l F.fabLaneStatRxDev (beAt 0x17 2 d / 16) s
  let s := setLaneStat l F.fabLaneStatRxLane (byteAt 0x19 d % 128) s
  let s := setLaneStat l F.fabLaneStatRxGroup (byteAt 0x1A d / 8) s
  let s := setLaneStat l F.fabLaneStatRxMember (byteAt 0x1A d % 8) s
  let s := setLaneStat l F.fabLaneStatRxSize (byteAt 0x1B d / 16) s
  let t := R.tsiLaneStat l
  let s := s.setFld t F.tsiLaneStatRxSwapMf (beAt 0x13 4 d)
  let s := s.setFld t F.tsiLaneStatRxAgree (byteAt 0x12 d / 32 % 2)
  let s := s.setFld t F.tsiLaneStatRxAnnounce (byteAt 0x12 d / 64 % 2)
  s.setFld t F.tsiLaneStatRxPage (byteAt 0x12 d / 128)

/-- The frame goes to the store of its member, which holds four. -/
def storeFrame (l : Nat) (d : Bytes) (s : State) : State :=
  let g := s.laneGroup l
  let m := s.laneMember l
  let k := s.linkGroup g
  let f : MemFrame := { mfn := beAt 9 4 d, fn := byteAt 8 d, par := bip8 (d.drop 256), bipP := byteAt 0xE d,
                        reiP := byteAt 0xF d % 16, rdiP := nbit (byteAt 0x10 d) 6, group := byteAt 0x1A d / 8,
                        memb := byteAt 0x1A d % 8, size := byteAt 0x1B d / 16,
                        msgs := (List.range 24).map (fun i => BitVec.ofNat 64 (beAt (0x40 + 8 * i) 8 d)),
                        cells := (List.range 40).map (fun c => slice (256 + 256 * c) 256 d), at_ := s.now }
  let old := smapGet (fun _ => []) m k.stores
  let new := (old ++ [f]).drop (old.length + 1 - 4)
  setGroup g { k with stores := smapInsert m new k.stores } s

/-- SYNC has held for another frame: after 8, LOF clears. -/
def heldFrameMore (l : Nat) (s : State) : State :=
  let k := s.lane l
  let s := setLane l { k with held := min 8 (k.held + 1) } s
  doIf (k.held == 7) (setLaneStat l F.fabLaneStatLof 0) s

/-! #### GMM and RDI_P (R323), evaluated on lanes in SYNC -/

/-- The members of a group in SYNC, by MEMBER. -/
def State.syncMembers (s : State) (g : Nat) : List Nat :=
  (List.range 8).flatMap (fun m => (s.members g).filter (fun l => s.laneMember l == m && s.inSync l))

/-- What the members in SYNC last received does not agree with their configuration, or among them. -/
def State.gmmSeen (s : State) (g : Nat) : Bool :=
  let ls := s.syncMembers g
  ls.any (fun l => s.laneStat l F.fabLaneStatRxMember != s.laneMember l || s.laneStat l F.fabLaneStatRxSize != s.groupSize g ||
    s.laneStat l F.fabLaneStatRxGroup != s.laneStat (ls.headD 0) F.fabLaneStatRxGroup)

/-- GMM over three frames of a group. -/
def gmmFrame (g : Nat) (s : State) : State :=
  let st := R.fabGroupStat g
  let k := s.linkGroup g
  let was := s.flag st F.fabGroupStatGmm
  let r := runOf was (s.gmmSeen g) k.gmmRun
  let s := setGroup g { k with gmmRun := r.1 } s
  if r.2 then (if was then s.setFld st F.fabGroupStatGmm 0 else groupDefect F.fabGroupStatGmm 5 g s) else s

/-- RDI_P over three frames of member 0. -/
def rdiPFrame (g : Nat) (seen : Bool) (s : State) : State :=
  let st := R.fabGroupStat g
  let k := s.linkGroup g
  let r := runOf (s.flag st F.fabGroupStatRdiP) seen k.rdiRun
  let s := setGroup g { k with rdiRun := r.1 } s
  if r.2 then doIf seen fabIrq (s.setFld st F.fabGroupStatRdiP (b2n seen)) else s

/-- A frame received on a member: the first one in SYNC counts the group's frames, member 0 shows RDI_P. -/
def memberFrame (l : Nat) (rdiP : Bool) (s : State) : State :=
  let g := s.laneGroup l
  let s := doIf ((s.syncMembers g).head? == some l) (gmmFrame g) s
  doIf (s.laneMember l == 0) (rdiPFrame g rdiP) s

/-- A frame received in SYNC. -/
def readFrame (l : Nat) (wire : Bytes) (s : State) : State :=
  let d := scrFrame wire
  let s := setLane l { s.lane l with fn := byteAt 8 d } s
  let s := bipCheck l wire (byteAt 0xD d) s
  let s := fabBump (R.fabLaneCtr l 2) (min 8 (byteAt 0xF d / 16)) s
  let s := showOverhead l d s
  let s := aisFrame l (nbit (byteAt 0x10 d) 5) s
  let s := rdiFrame l (nbit (byteAt 0x10 d) 7) s
  let s := traceByte l (byteAt 8 d) (BitVec.ofNat 8 (byteAt 0x11 d)) s
  refreshLane l (doIf (!s.twinLane l) (fun s => memberFrame l (nbit (byteAt 0x10 d) 6) (storeFrame l d s)) s)

/-- A lane enters SYNC: the comparison of its trace is due at the first acceptance. -/
def enterSync (l : Nat) (s : State) : State :=
  let k := s.lane l
  setLane l { k with miss := 0, held := 0, par := none, aisRun := 0, rdiRun := 0, ttiOn := false, tti := [], ttiOld := [],
                     ttiRep := 0, due := true } (setLaneStat l F.fabLaneStatAlign 2 s)

/-- The alignment state machine at a frame position of the bit stream. -/
def frameReceive (l pos : Nat) (wire : Bytes) (s : State) : State :=
  let k := s.lane l
  if !s.laneOn l || s.laneFlag l F.fabLaneStatLos then s
  else
    let errs := fawErrors wire
    let fn := byteAt 8 (scrFrame (wire.take 9))
    match s.laneStat l F.fabLaneStatAlign with
    | 2 =>
      if pos != k.pos then s
      else if errs ≤ 2 then readFrame l wire (heldFrameMore l (setLane l { k with miss := 0 } s))
      else if k.miss = 4 then refreshLane l (toHunt l s)
      else readFrame l wire (heldFrameMore l (fabInc (R.fabLaneCtr l 3) (setLane l { k with miss := k.miss + 1 } s)))
    | 1 =>
      if pos != k.pos then s
      else if errs = 0 ∧ fn = (k.fn + 1) % 256 then readFrame l wire (enterSync l s)
      else toHunt l s
    | _ =>
      if errs = 0 then setLane l { k with pos := pos, fn := fn } (setLaneStat l F.fabLaneStatAlign 1 s) else s

def execFabFrameReceive (lane pos : Nat) (frame : Bytes) (s : State) : Res :=
  guardWf (lane < 120 && pos < 83968 && frame.length == 10496) (frameReceive lane pos frame s)

/-! ### Group reads (R317, R318, R320, R321, R323) -/

/-- The number of a frame by (MFN, FN). -/
def MemFrame.key (f : MemFrame) : Nat := f.mfn * 256 + f.fn

/-- a − b as a signed difference of frame numbers. -/
def keyDist (a b : Nat) : Int :=
  let d : Nat := (2 ^ 40 + a - b % 2 ^ 40) % 2 ^ 40
  if d < 2 ^ 39 then (d : Int) else (d : Int) - (2 ^ 40 : Nat)

def GroupSt.store (k : GroupSt) (m : Nat) : List MemFrame := smapGet (fun _ => []) m k.stores

/-- Frame `key` of every member, none where a member lacks it. -/
def GroupSt.across (k : GroupSt) (z key : Nat) : Option (List MemFrame) :=
  (List.range z).mapM (fun m => (k.store m).find? (fun f => f.key == key))

/-- The numbers of the frames that every member holds, oldest first. -/
def GroupSt.common (k : GroupSt) (z : Nat) : List Nat :=
  ((k.store 0).map (·.key)).filter (fun n => (k.across z n).isSome)

/-- The time a frame was whole on the member that receives it last. -/
def lastAt (l : List MemFrame) : Nat := (l.map (·.at_)).foldl max 0

/-- The difference in arrival between the earliest and the latest member. -/
def skewOf (l : List MemFrame) : Nat :=
  match l with
  | [] => 0
  | f :: r => lastAt l - (r.map (·.at_)).foldl min f.at_

/-- How far behind the newest frame of all members a frame is, in ticks. -/
def lagOf (newest at_ key now : Nat) : Int := 4096 * keyDist newest key + (now - at_ : Nat)

/-- Skew and LOA of a group frame. -/
def groupSkew (g : Nat) (l : List MemFrame) (s : State) : State :=
  let st := R.fabGroupStat g
  let k := s.linkGroup g
  let sk := skewOf l
  let s := s.setFld st F.fabGroupStatSkewNs (min 65535 (sk / 10))
  if 8192 < sk then groupDefect F.fabGroupStatLoa 4 g (setGroup g { k with loaRun := 0 } s)
  else
    let s := setGroup g { k with loaRun := min 8 (k.loaRun + 1) } s
    doIf (7 ≤ k.loaRun) (fun s => s.setFld st F.fabGroupStatLoa 0) s

/-- BIP_P and REI_P of a group frame: the parity is checked where the frame before was read. -/
def groupParity (g n : Nat) (l : List MemFrame) (s : State) : State :=
  let k := s.linkGroup g
  let carried := (l.map (·.bipP)).headD 0
  let s := match k.last with
    | some (b, p) =>
      if keyDist n b = 1 then
        let e := ones8 (p ^^^ carried)
        setGroup g { k with reiP := e } (fabBump (R.fabGroupCtr g 0) e s)
      else s
    | none => s
  fabBump (R.fabGroupCtr g 1) (min 8 ((l.map (·.reiP)).headD 0)) s

/-- The frames of a group frame with their lanes, by MEMBER. -/
def State.withLanes (s : State) (g : Nat) (l : List MemFrame) : List (Nat × MemFrame) :=
  (List.range l.length).filterMap (fun m => (s.memberLane g m).bind (fun x => (l[m]?).map (fun f => (x, f))))

/-- The cells of a group frame in the order cell, MEMBER, each with its lane and slot position. -/
def cellsOf (l : List (Nat × MemFrame)) : List (Nat × Nat × Bytes) :=
  (List.range 40).flatMap (fun c => l.map (fun e => (e.1, 40 * e.2.fn + c, e.2.cells.getD c [])))

/-- Its messages in the order slot, MEMBER, the empty ones left out. -/
def msgsOf (l : List (Nat × MemFrame)) : List (Nat × Word) :=
  ((List.range 24).flatMap (fun i => l.map (fun e => (e.1, e.2.msgs.getD i 0)))).filter (fun e => e.2 != 0)

/-- A group frame is read: its cells and messages wait for their handling. -/
def groupTake (g n : Nat) (l : List MemFrame) (s : State) : State :=
  let s := groupSkew g l (groupParity g n l s)
  let k := s.linkGroup g
  let par := (l.map (·.par)).foldl (· ^^^ ·) 0
  let stores := k.stores.map (fun e => (e.1, e.2.filter (fun f => 0 < keyDist f.key n)))
  let ls := s.withLanes g l
  refreshGroup g (setGroup g { k with last := some (n, par), stores := stores, cells := k.cells ++ cellsOf ls,
                                      inMsgs := k.inMsgs ++ msgsOf ls } s)

/-- The group repeats its frame: nothing of it is read again (R318). -/
def groupRepeat (g : Nat) (s : State) : State := report .t 0x13 (0x200 + g) .c 0x004 [] (fabInc (R.fabGroupCtr g 3) s)

/-- The group drops a frame with its cells and messages: the one after it is read. -/
def groupDrop (g z n : Nat) (s : State) : State :=
  let s := report .t 0x13 (0x200 + g) .k 0x003 [] (fabInc (R.fabGroupCtr g 2) s)
  let next := (n + 1) % 2 ^ 40
  match (s.linkGroup g).across z next with
  | some l => groupTake g next l s
  | none => setGroup g { s.linkGroup g with last := none } s

/-- The read of a group whose members are all in SYNC. -/
def groupAdvance (g z : Nat) (s : State) : State :=
  let k := s.linkGroup g
  match (k.common z).getLast? with
  | none =>
    if (List.range z).any (fun m => 4 ≤ (k.store m).length) then
      refreshGroup g (groupDefect F.fabGroupStatLoa 4 g (setGroup g { k with last := none, loaRun := 0 } s))
    else doIf k.last.isSome (groupRepeat g) s
  | some newest =>
    let at_ := ((k.across z newest).map lastAt).getD s.now
    match k.last with
    | none =>
      let n := if lagOf newest at_ newest s.now < 1024 then (2 ^ 40 + newest - 1) % 2 ^ 40 else newest
      match k.across z n with
      | some l => groupTake g n l s
      | none => s
    | some (b, _) =>
      let n := (b + 1) % 2 ^ 40
      let lag := lagOf newest at_ n s.now
      if lag < 1024 then groupRepeat g s
      else if 7168 < lag then groupDrop g z n s
      else match k.across z n with
        | some l => groupTake g n l s
        | none => setGroup g { k with last := none } s

/-- One read per 409.6 ns of the reference; LOA is judged also while a member is out of SYNC (R323); log 96. -/
def groupFrameRead (g : Nat) (s : State) : State :=
  let k := s.linkGroup g
  if s.groupEn g && s.groupCfgOk g && k.readAt ≤ s.fab.ref then
    let next := if s.fab.ref < k.readAt + 64 then k.readAt + 64 else s.fab.ref + 64
    groupAdvance g (s.groupSize g) (setGroup g { k with readAt := next } s)
  else s

def execGroupFrameRead (group : Nat) (s : State) : Res := guardWf (group < 24) (groupFrameRead group s)

/-! ### Routed receive (R310, R324, R335, R336) -/

/-- The key of a reassembly context. -/
def reasmKey (src g tc : Nat) : Nat := src * 256 + g * 8 + tc

def setReasm (key : Nat) (c : Reasm) (s : State) : State := { s with fab := { s.fab with ctx := smapInsert key c s.fab.ctx } }

/-- The tail of a packet in reassembly. -/
def endPacket (id : Nat) (stomp : Bool) (s : State) : State :=
  match s.pkt id with
  | none => s
  | some p => if p.place == .dropped then erasePkt id s else setPkt id { p with tailIn := true, stomp := stomp } s

/-- The open packet of a key, if any, ends with a stomp; the cells that follow are discarded up to the next FIRST. -/
def stompCtx (key : Nat) (s : State) : State :=
  match smapFind key s.fab.ctx with
  | some c => setReasm key { c with open_ := false } (doIf c.open_ (endPacket c.pkt true) s)
  | none => s

/-- The same, counted in FAB_REASM_ERR. -/
def reasmErr (key : Nat) (s : State) : State := stompCtx key (fabInc (R.fabDevCtr 2) s)

/-- Contexts in use. -/
def State.ctxOpen (s : State) : Nat := (s.fab.ctx.filter (fun e => e.2.open_)).length

/-- A gap in PKT_SEQ is counted; the number is kept. -/
def seqCheck (key seq : Nat) (s : State) : State :=
  let s := match smapFind key s.fab.seqs with
    | some n => doIf ((n + 1) % 256 != seq) (fabInc (R.fabDevCtr 5)) s
    | none => s
  { s with fab := { s.fab with seqs := smapInsert key seq s.fab.seqs } }

/-- A FIRST cell opens a packet, which goes to the queue engine. -/
def firstCell (g key : Nat) (c : Bytes) (s : State) : State :=
  let s := match smapFind key s.fab.ctx with
    | some x => doIf x.open_ (reasmErr key) s
    | none => s
  if 32768 ≤ s.ctxOpen then
    { s with fab := { s.fab with ctx := smapErase key s.fab.ctx } } |> fabInc (R.fabDevCtr 4)
  else
    let s := seqCheck key (cellSeqNo c) (fabInc (R.fabGroupCtr g 5) s)
    let id := s.q.nextPkt
    let fin := cellLast c || cellStomp c
    let s := newPkt { noPacket with
      place := .bridge, stream := 97, md := slice 0 32 (cellPay c), bytes := (cellPay c).drop 32,
      tailIn := fin, stomp := cellStomp c, stamp := s.now } s
    let s := arrive 16 id s
    let ctx := if cellLast c && !cellStomp c then smapErase key s.fab.ctx
      else smapInsert key { pkt := id, next := 1, at_ := s.now, open_ := !cellStomp c } s.fab.ctx
    { s with fab := { s.fab with ctx := ctx } }

/-- A later cell of a packet. -/
def laterCell (g key : Nat) (c : Bytes) (s : State) : State :=
  match smapFind key s.fab.ctx with
  | none => fabInc (R.fabDevCtr 2) s
  | some x =>
    if !x.open_ then s
    else if cellNum c != x.next then reasmErr key s
    else
      let s := fabInc (R.fabGroupCtr g 5) s
      let s := match s.pkt x.pkt with
        | some p => takeBody x.pkt (setPkt x.pkt { p with bytes := p.bytes ++ cellPay c } s)
        | none => s
      if cellStomp c then stompCtx key s
      else if cellLast c then
        endPacket x.pkt false { s with fab := { s.fab with ctx := smapErase key s.fab.ctx } }
      else setReasm key { x with next := x.next + 1, at_ := s.now } s

/-- A ROUTED cell of a good header for this device. -/
def routedReceive (l : Nat) (c : Bytes) (s : State) : State :=
  let g := s.laneGroup l
  let key := reasmKey (cellSrc c) (cellGroup c) (cellTc c)
  let good := pcrcOk c
  let s := doIf (!good) (fabInc (R.fabLaneCtr l 5)) s
  if !s.flag (R.fabGroupStat g) F.fabGroupStatUp then fabInc (R.fabGroupCtr g 6) s
  else if !good || (cellFirst c && cellNum c != 0) then
    match smapFind key s.fab.ctx with
    | some x => if x.open_ || cellFirst c then reasmErr key s else s
    | none =>
      let s := fabInc (R.fabDevCtr 2) s
      doIf (cellFirst c) (setReasm key { pkt := 0, next := 0, at_ := s.now, open_ := false }) s
  else if cellFirst c then firstCell g key c s
  else laterCell g key c s

/-- A SCHED cell is checked, and kept for its slot where the lane has no defect (R324). -/
def schedReceive (l pos : Nat) (c : Bytes) (s : State) : State :=
  let good := pcrcOk c
  let s := doIf (!good) (fabInc (R.fabLaneCtr l 5)) s
  if s.laneClean l then
    { s with cal := { s.cal with cells := s.cal.cells ++ [{ lane := l, pos := pos, cell := c, bad := !good }] } }
  else s

/-- A cell of a lane in SYNC is checked (R310, R502). A twin record is taken by TWIN_RECORD_RECEIVE. -/
def cellReceive (l pos : Nat) (c : Bytes) (s : State) : State :=
  if !s.inSync l then s
  else if !hecOk c then fabInc (R.fabLaneCtr l 4) s
  else
    match cellType c with
    | 0 => s
    | 3 => if s.twinLane l then s else fabInc (R.fabDevCtr 0) s
    | t =>
      if s.twinLane l then fabInc (R.fabDevCtr 0) s
      else if t = 1 then
        if cellDest c != s.devIndex then fabInc (R.fabDevCtr 1) s else routedReceive l c s
      else schedReceive l pos c s

/-- A group reads its members: it is enabled and configured, every member is in SYNC, and LOA is absent. -/
def State.groupReads (s : State) (g : Nat) : Bool :=
  s.groupEn g && s.groupCfgOk g && (s.members g).all s.inSync && !s.flag (R.fabGroupStat g) F.fabGroupStatLoa

/-- A cell comes: the next one that the lane's group has read, in the order of its stream (R316); from a lane whose group
does not read, every cell, as it arrives. -/
def takeCell (l pos : Nat) (c : Bytes) (s : State) : State :=
  let g := s.laneGroup l
  let k := s.linkGroup g
  if !s.twinLane l && k.cells.head? == some (l, pos, c) then cellReceive l pos c (setGroup g { k with cells := k.cells.tail } s)
  else if s.twinLane l || !s.groupReads g then cellReceive l pos c s
  else s

def execFabCellReceive (lane pos : Nat) (cell : Bytes) (s : State) : Res :=
  guardWf (lane < 120 && pos < 10240 && cell.length == 256) (takeCell lane pos cell s)

/-- No cell of an open context came for REASM_TIMEOUT_US. -/
def reasmTimeout (key : Nat) (s : State) : State :=
  match smapFind key s.fab.ctx with
  | some c =>
    if c.open_ && c.at_ + usT (s.fld R.fabRxCfg F.fabRxCfgReasmTimeoutUs) ≤ s.now then
      stompCtx key (fabInc (R.fabDevCtr 3) s)
    else s
  | none => s

def execReasmTimeout (srcDev srcGroup tc : Nat) (s : State) : Res :=
  guardWf (srcDev < 4096 && srcGroup < 32 && tc < 8) (reasmTimeout (reasmKey srcDev srcGroup tc) s)

/-! ### Credit messages (R339) -/

/-- The device that a message names. -/
def msgTarget : CreditMsg → Nat
  | .req m => m.target
  | .grant m => m.target

/-- A message slot of a lane in SYNC without AIS or TIM. -/
def msgReceive (l : Nat) (w : Word) (s : State) : State :=
  if !s.inSync l || s.twinLane l || s.laneFlag l F.fabLaneStatAis || s.laneFlag l F.fabLaneStatTim then s
  else if crc8 (toBe 7 (w.toNat / 256)) != w.toNat % 256 || nbits w.toNat 63 62 == 3 then fabInc (R.fabLaneCtr l 6) s
  else
    match creditOf w with
    | none => s
    | some m => if msgTarget m = s.devIndex then takeCredit m s else fabInc (R.fabDevCtr 9) s

/-- A message comes: one of a frame that the lane's group has read, or from a lane whose group does not read. -/
def takeMsg (l : Nat) (w : Word) (s : State) : State :=
  let g := s.laneGroup l
  let k := s.linkGroup g
  if !s.twinLane l && k.inMsgs.contains (l, w) then msgReceive l w (setGroup g { k with inMsgs := k.inMsgs.erase (l, w) } s)
  else if s.twinLane l || !s.groupReads g then msgReceive l w s
  else s

def execFabMsgReceive (lane : Nat) (msg : Word) (s : State) : Res := guardWf (lane < 120) (takeMsg lane msg s)

/-! ### Performance counters (R340) -/

/-- DEG of a lane for a latched second, before the latch. -/
def degJudge (l : Nat) (s : State) : State :=
  let live := smapGet (fun _ => 0) (R.fabLaneCtr l 1) s.fab.ctr
  let n := (live - s.rd (R.fabLaneCtr l 1)).toNat
  let was := s.laneFlag l F.fabLaneStatDeg
  let deg := decide (s.fld R.fabRxCfg F.fabRxCfgDegThresh < n)
  let s := setLaneStat l F.fabLaneStatDeg (b2n deg) s
  doIf (deg && !was) (fun s => fabIrq (report .t 0x13 l .c 0x005 [] s)) s

/-- The latched registers of the fabric counters. -/
def fabLatched (off : Nat) : Bool :=
  (R.fabLaneCtr 0 0 ≤ off && off < R.fabLaneCtr 120 0) || (R.fabGroupCtr 0 0 ≤ off && off < R.fabGroupCtr 24 0) ||
    (R.fabDevCtr 0 ≤ off && off < R.fabDevCtr 12)

/-- All of them take their counts at one instant; a count of 0 is not listed. -/
def latchAll (s : State) : State :=
  forEach s.fab.ctr (fun e s => s.wr e.1 e.2) { s with regs := s.regs.filter (fun e => !fabLatched e.1) }

/-- Every fabric counter is latched at a whole second. -/
def pmLatch (s : State) : State :=
  let sec := s.now / ticksPerSec
  if sec ≤ s.fab.second then s
  else
    let s := forEach (List.range 120) degJudge s
    let s := latchAll s
    let s := s.wr R.fabPmStamp0 (BitVec.ofNat 64 (stampLo (sec * ticksPerSec)))
    let s := s.setFld R.fabPmStamp1 F.fabPmStamp1TsHigh (stampHi (sec * ticksPerSec))
    { s with fab := { s.fab with second := sec } }

def execFabPmLatch (s : State) : Res := guardWf true (pmLatch s)

end Sys2Proof.Machine
end

