-- ==== Sys2Proof/Machine/Power.lean ====
section
/-! DEFINITION. The power manager and the timebase (chapter 15): core voltages (R466 to R473), sleep states (R474 to R477),
thermal sensors (R478 to R481), the 1PPS pins (R483). -/

namespace Sys2Proof.Machine

/-- WARN, THROTTLE, AVS_FAULT and PPS_LOSS raise source 15 where IRQ_EN is 1. -/
def pwrIrq (s : State) : State := doIf (s.flag R.pwrCtl F.pwrCtlIrqEn) (raiseBlock 15 14) s

/-! ### Voltage requests (R466, R467, R472) -/

def State.rail (s : State) (d : Nat) : RailSt := s.pwr.rails.getD d ⟨0, 0, [], false⟩

def setRail (d : Nat) (r : RailSt) (s : State) : State := { s with pwr := { s.pwr with rails := s.pwr.rails.set d r } }

/-- A request for a rail goes out; its read-back is due in 200 µs, beside those still due and the periodic one. -/
def askRail (d v tries : Nat) (s : State) : State :=
  let s := s.setFld (R.pwrRailStat d) F.pwrRailStatVsetMv v
  let r := s.rail d
  (setRail d { r with tries := tries, due := r.due ++ [s.now + usT 200], open_ := true } s).emit (.avs d v)

/-- A new request. -/
def requestRail (d v : Nat) (s : State) : State := askRail d v 0 s

/-- A read-back of a rail is due: the periodic one, or one 200 µs after a request. -/
def State.readDue (s : State) (d : Nat) : Bool :=
  decide ((s.rail d).readAt ≤ s.now) || (s.rail d).due.any (fun t => decide (t ≤ s.now))

/-- A read-back due: a request is confirmed within 10 mV; else, where the last request has had its 200 µs, it is repeated, up
to three times, and then AVS_FAULT. -/
def avsReadback (d mv : Nat) (s : State) : State :=
  if !s.readDue d then s
  else
    let r := s.rail d
    let left := r.due.filter (fun t => decide (s.now < t))
    let r := { r with due := left, readAt := if r.readAt ≤ s.now then s.now + msT 1 else r.readAt }
    let s := s.setFld (R.pwrRailStat d) F.pwrRailStatVreadMv mv
    let set := s.fld (R.pwrRailStat d) F.pwrRailStatVsetMv
    let idle := { r with tries := 0, open_ := false }
    if !r.open_ then setRail d r s
    else if mvNear mv set then
      setRail d idle (s.setFld (R.pwrRailStat d) F.pwrRailStatAvsFault 0)
    else if !left.isEmpty then setRail d r s
    else if r.tries < 3 then askRail d set (r.tries + 1) (setRail d r (s.inc (R.pwrCtr 2)))
    else
      let s := setRail d idle (s.setFld (R.pwrRailStat d) F.pwrRailStatAvsFault 1)
      pwrIrq (report .f 0x0C d .k 0x001 [(d, 1), (set, 2)] s)

def execAvsReadback (rail mv : Nat) (s : State) : Res := guardWf (rail < 2 && mv < 65536) (avsReadback rail mv s)

/-! ### The load condition (R469, R470) -/

/-- Pipelines with a role in the live bank. -/
def State.rolePipes (s : State) (r : Nat) : List Nat := (List.range 16).filter (fun n => s.role n == r)

/-- The provisioned rate in bits per second: the ports with PORT_EN 1. -/
def State.provisioned (s : State) : Nat :=
  ((List.range 96).map (fun n => if s.portExists n && s.flag (R.linePortCfg n) F.linePortCfgPortEn then s.portRate n * 10 ^ 9 else 0)).sum

/-- The highest packet rate, per second, in the 10 µs windows of the last 1 ms, which start at times that leave `phase`
modulo 10 µs: how the windows lie is not said (R470). -/
def State.measured (s : State) (times : List Nat) (phase : Nat) : Nat :=
  let win := fun (t : Nat) => (t + usT 10 - phase % usT 10) / usT 10
  let l := (times.filter (fun t => decide (s.now < t + msT 1))).map win
  100000 * (l.map (fun w => l.count w)).foldl max 0

/-- A packet rate in units of 1/601,600 per second (R470); `meas` is the highest rate measured in the last 1 ms. -/
def State.packetRate (s : State) (meas : Nat) : Nat :=
  let p := s.provisioned
  if s.flag R.pwrCtl F.pwrCtlLoadMode then
    max (4 * p) (if s.flag R.pwrThermStat F.pwrThermStatThrottle then 601600 * meas else 752000 * meas)
  else 400 * p

/-- units ÷ period ≥ need, the need given in steps per second × 601,600. -/
def State.carries (s : State) (die cls v units need : Nat) : Bool :=
  decide ((need : Int) * s.period die cls v (s.dieTemp die) ≤ ((units * 10 ^ 12 * 600000 * 601600 : Nat) : Int))

/-- The largest number of pipelines with role 1 in one pair. -/
def State.pairShare (s : State) : Nat :=
  ((List.range 8).map (fun n => b2n (s.role n == 1) + b2n (s.role (n + 8) == 1))).foldl max 0

/-- The load condition of a die at a voltage. -/
def State.loadOk (s : State) (d v rin rout : Nat) : Bool :=
  if d = 0 then
    s.carries 0 0x00 v (s.rolePipes 1).length rin && s.carries 0 0x00 v (s.rolePipes 2).length rout
  else
    let n := (s.rolePipes 1).length
    s.carries 1 0x13 v 24 (2 * (rin + rout)) && s.carries 1 0x12 v (2 * n) (rin * s.pairShare) && s.carries 1 0x12 v 16 rout

/-! ### The evaluation at a PTP boundary (R466, R468, R471, R473) -/

def State.vmin (s : State) (d : Nat) : Nat := s.fld (R.pwrRailCfg d) F.pwrRailCfgVminMv
def State.vmax (s : State) (d : Nat) : Nat := s.fld (R.pwrRailCfg d) F.pwrRailCfgVmaxMv

/-- The grid voltages a rail may take. -/
def State.gridOf (s : State) (d : Nat) : List Nat := gridV.filter (fun v => s.vmin d ≤ v && v ≤ s.vmax d)

/-- The lowest grid voltage that meets the load, else the highest. -/
def State.loadVolt (s : State) (d rin rout : Nat) : Nat :=
  ((s.gridOf d).find? (fun v => s.loadOk d v rin rout)).getD (s.vmax d)

/-- A calendar that runs or is to run is short of slack. -/
def State.slackShort (s : State) : Bool := s.slackBanks.any (fun b => decide (s.bankSlack b < s.slackRaise))

/-- The dies that the STEPS of those calendars name. -/
def State.slackDies (s : State) : List Nat := s.slackBanks.flatMap (fun b => stepDies (s.calImg b))

/-- The voltage a rail must rise to: its limit, the load, one step for slack. -/
def State.raiseTo (s : State) (d rin rout : Nat) : Nat :=
  let now := s.railBase d
  let step := if s.slackShort && s.slackDies.contains d then ((s.gridOf d).find? (fun v => now < v)).getD now else now
  max (s.loadVolt d rin rout) step

/-- One rail is raised, or brought within its limits; no lowering is requested of a rail in AVS_FAULT (R472), and what is
already requested is not requested again. -/
def railUp (d rin rout : Nat) (s : State) : State :=
  let set := s.railSet d
  if s.vmax d < set then
    if s.flag (R.pwrRailStat d) F.pwrRailStatAvsFault then s
    else
      let s := requestRail d (s.vmax d) s
      { s with pwr := { s.pwr with lowered := 0 } }
  else if set < s.vmin d then
    let s := requestRail d (s.vmin d) s
    { s with pwr := { s.pwr with raised := 0 } }
  else
    let v := s.raiseTo d rin rout
    if set < v then
      let s := (requestRail d v s).inc (R.pwrCtr 0)
      { s with pwr := { s.pwr with raised := 0 } }
    else s

/-- The slack of every such calendar stays 1,000 ps above SLACK_RAISE_PS with a rail at a lower voltage. -/
def State.slackAt (s : State) (d v : Nat) : Bool :=
  s.slackBanks.all (fun b => decide (s.slackRaise + 1000 ≤ s.slackOf (calSteps (s.calImg b))
    (fun e => if e = d then s.slackVoltAt d v else s.slackVolt e)))

/-- The grid voltage below a rail's. -/
def State.below (s : State) (d : Nat) : Option Nat := (gridV.filter (fun v => v < s.railBase d)).getLast?

/-- A rail can be lowered. -/
def State.canLower (s : State) (d rin rout : Nat) : Bool :=
  match s.below d with
  | none => false
  | some v => s.vmin d ≤ v && !s.flag (R.pwrRailStat d) F.pwrRailStatAvsFault && s.loadOk d v rin rout && s.slackAt d v

/-- What holds the present voltage of a rail. -/
def State.railReason (s : State) (d rin rout : Nat) : Nat :=
  match s.below d with
  | none => 4
  | some v => if v < s.vmin d then 4 else b2n (!s.loadOk d v rin rout) + 2 * b2n (!s.slackAt d v)

/-- At most one rail is lowered, the higher one first. Both counts take in the present boundary; the 10 boundaries without a
raise are those before it, the 10 with one lowering end with it. -/
def railDown (rin rout : Nat) (s : State) : State :=
  if (10 < s.pwr.raised && 10 ≤ s.pwr.lowered) || s.flag R.pwrThermStat F.pwrThermStatThrottle then
    let order := if s.railNow 0 < s.railNow 1 then [1, 0] else [0, 1]
    match order.find? (fun d => s.canLower d rin rout) with
    | none => s
    | some d =>
      let s := (requestRail d ((s.below d).getD 0) s).inc (R.pwrCtr 1)
      { s with pwr := { s.pwr with lowered := 0 } }
  else s

/-- The power manager with PM_EN 1. -/
def railEval (rin rout : Nat) (s : State) : State :=
  let s := railDown rin rout (railUp 1 rin rout (railUp 0 rin rout s))
  forEach [0, 1] (fun d s => s.setFld (R.pwrRailStat d) F.pwrRailStatReason (s.railReason d rin rout)) s

/-- The power manager with PM_EN 0: VMAX_MV on both rails. -/
def railTop (s : State) : State :=
  forEach [0, 1] (fun d s =>
    let set := s.fld (R.pwrRailStat d) F.pwrRailStatVsetMv
    let s :=
      if set < s.vmax d then
        let s := requestRail d (s.vmax d) s
        { s with pwr := { s.pwr with raised := 0 } }
      else if s.vmax d < set && !s.flag (R.pwrRailStat d) F.pwrRailStatAvsFault then
        let s := requestRail d (s.vmax d) s
        { s with pwr := { s.pwr with lowered := 0 } }
      else s
    s.setFld (R.pwrRailStat d) F.pwrRailStatReason 8) s

/-! ### Thermal sensors (R478 to R481) -/

/-- A die trips: every lane goes idle, and with it every link down, pipelines, calendar and burin engines stop, both rails go
to VMIN_MV. -/
def trip (d : Nat) (s : State) : State :=
  let s := report .f 0x0C d .f 0x005 [(d, 1), (((s.dieTemp d) % 65536).toNat, 2)] s
  let s := forEach (List.range 96) (fun n s => doIf (s.linkUp n) (linkAndSched n false false false noFec) s) s
  let s := { s with pwr := { s.pwr with tripped := true }, cal := { s.cal with run := .off, frames := [], rx := [] } }
  forEach [0, 1] (fun e s => requestRail e (s.vmin e) s) s

/-- One threshold: its flag sets at the first die at or above it, and clears 3.0 °C below. -/
def thermFlag (f : Fld) (thr : Nat) (sev : Sev) (code : Nat) (s : State) : State :=
  if s.flag R.pwrThermStat f then
    doIf ([0, 1].all (fun d => decide (s.dieTemp d ≤ (thr : Int) - 30))) (fun s => s.setFld R.pwrThermStat f 0) s
  else
    match [0, 1].filter (fun d => decide ((thr : Int) ≤ s.dieTemp d)) with
    | [] => s
    | l =>
      let s := forEach l (fun d s => report .f 0x0C d sev code [(d, 1), (((s.dieTemp d) % 65536).toNat, 2)] s) s
      pwrIrq (s.setFld R.pwrThermStat f 1)

/-- The temperatures are judged. -/
def thermJudge (s : State) : State :=
  if s.pwr.temps.isEmpty && !s.flag R.pwrThermStat F.pwrThermStatStale then s
  else
    let s := thermFlag F.pwrThermStatWarn (s.fld R.pwrThermCfg F.pwrThermCfgWarnDc) .c 0x003 s
    let s := thermFlag F.pwrThermStatThrottle (s.fld R.pwrThermCfg F.pwrThermCfgThrottleDc) .k 0x004 s
    if s.pwr.tripped then s
    else match [0, 1].find? (fun d => decide (1100 ≤ s.dieTemp d)) with
      | some d => trip d s
      | none => s

/-- The present temperatures are shown. -/
def showTemps (f t : Int) (s : State) : State :=
  (s.setFld R.pwrThermStat F.pwrThermStatTHotF (f % 65536).toNat).setFld R.pwrThermStat F.pwrThermStatTHotT (t % 65536).toNat

/-- No reading for 20 ms: both dies are taken to be at 105.0 °C. -/
def thermalStale (s : State) : State :=
  if s.pwr.readAt + msT 20 ≤ s.now && !s.flag R.pwrThermStat F.pwrThermStatStale then
    thermJudge (showTemps 1050 1050 (s.setFld R.pwrThermStat F.pwrThermStatStale 1))
  else s

def execThermalStale (s : State) : Res := guardWf true (thermalStale s)

/-- The offset of a sensor in force. -/
def State.sensorOffset (s : State) (i : Nat) : Int := if s.pwr.curves.isEmpty then 0 else signed16 (leAt (0xC80 + 2 * i) 2 s.pwr.curves)

/-- A sensor is bad (R478). -/
def State.sensorBad (s : State) (i : Nat) : Bool := nbit (s.fld R.pwrSensorBad F.pwrSensorBadBad) i

/-- Insert into a list of rising readings. -/
def insertInt (a : Int) : List Int → List Int
  | [] => [a]
  | b :: l => if a ≤ b then a :: b :: l else b :: insertInt a l

/-- Twice the median of readings. -/
def median2 (l : List Int) : Int :=
  let r := l.foldr insertInt []
  r.getD ((r.length - 1) / 2) 0 + r.getD (r.length / 2) 0

def inReach (x : Int) : Bool := decide (-400 ≤ x) && decide (x ≤ 1500)

/-- The sensors of a die that a reading marks bad. -/
def newlyBad (s : State) (temps : List Int) (die : Nat) : List Nat :=
  let mine := (List.range 16).map (· + 16 * die)
  let live := mine.filter (fun i => !s.sensorBad i)
  let good := live.filter (fun i => inReach (temps.getD i 0))
  let m := median2 (good.map (fun i => temps.getD i 0))
  live.filter (fun i => !inReach (temps.getD i 0) || decide (300 < (2 * temps.getD i 0 - m).natAbs))

def markSensor (temps : List Int) (i : Nat) (s : State) : State :=
  let s := s.setFld R.pwrSensorBad F.pwrSensorBadBad (s.fld R.pwrSensorBad F.pwrSensorBadBad ||| 2 ^ i)
  report .f 0x0C (0x100 + i) .k 0x002 [(i, 1), ((temps.getD i 0 % 65536).toNat, 2)] s

/-- The highest good reading of a die; none good: 105.0 °C. -/
def hottest (s : State) (temps : List Int) (die : Nat) : Int :=
  match (((List.range 16).map (· + 16 * die)).filter (fun i => !s.sensorBad i)).map (fun i => temps.getD i 0) with
  | [] => 1050
  | a :: l => l.foldl max a

/-- The steward reads the sensors. -/
def thermalRead (raw : List Int) (s : State) : State :=
  if s.boot.restarting then s
  else
    let temps := (List.range 32).map (fun i => raw.getD i 0 + s.sensorOffset i)
    let s := forEach (newlyBad s temps 0 ++ newlyBad s temps 1) (markSensor temps) s
    let s := { s with pwr := { s.pwr with temps := temps, readAt := s.now } }
    let s := showTemps (hottest s temps 0) (hottest s temps 1) (s.setFld R.pwrThermStat F.pwrThermStatStale 0)
    thermJudge s

def execThermalRead (readings : List Int) (s : State) : Res :=
  guardWf (readings.length == 32 && readings.all (fun x => decide (-32000 ≤ x) && decide (x ≤ 32000))) (thermalRead readings s)

/-! ### The boundary itself -/

/-- The time spent throttled. -/
def throttled (s : State) : State :=
  if s.flag R.pwrThermStat F.pwrThermStatThrottle then
    let t := mfTicks + s.pwr.thrAcc
    ({ s with pwr := { s.pwr with thrAcc := t % ticksPerSec } }).bump (R.pwrCtr 5) (t / ticksPerSec)
  else s

/-- A PTP multiframe boundary; `phaseIn` and `phaseOut` say how the windows lie in which packets are measured (R470). Nothing
is requested of the rails before the boot code runs (R525). -/
def ptpMfBoundary (phaseIn phaseOut : Nat) (s : State) : State :=
  if s.now < s.pwr.nextMf || s.bootStateOf = 0 then s
  else
    let p := s.pwr
    let c := if p.newCrv.isEmpty then p.curves else p.newCrv
    let on := s.flag R.pwrCtl F.pwrCtlPmEn && !p.absent
    let s := { s with pwr := { p with
      nextMf := s.ptpBoundary (s.now + 1), curves := c, newCrv := [], pmOn := on,
      raised := p.raised + 1, lowered := p.lowered + 1 } }
    let s := thermJudge (throttled s)
    if s.pwr.tripped then s
    else if on then
      railEval (s.packetRate (s.measured s.pwr.passIn phaseIn)) (s.packetRate (s.measured s.pwr.passOut phaseOut)) s
    else railTop s

/-! ### Sleep states (R474 to R477) -/

/-- The budget register of a domain. -/
def domainReg : Domain → Nat
  | .port n => R.pwrWakePort n
  | .pair n => R.pwrWakePair n
  | .group g => R.pwrWakeGroup g
  | .burin => R.pwrWakeBurin

def domainOk : Domain → Bool
  | .port n => n < 96
  | .pair n => n < 8
  | .group g => g < 24
  | .burin => true

/-- The fields are the same in every budget register. -/
def wakeState : Fld := F.pwrWakePortState
def wakeBudget : Fld := F.pwrWakePortBudgetNs

/-- The longest wake from a state, in ns (R474). -/
def wakeMax (k : Nat) : Nat :=
  match k with
  | 0 => 0
  | 1 => 1000
  | 2 => 20000
  | _ => 2000000

/-- State k is allowed for a domain by its activity (R475). -/
def State.mayEnter (s : State) (d : Domain) (k : Nat) : Bool :=
  match d with
  | .port n => !s.flag (R.linePortCfg n) F.linePortCfgPortEn
  | .pair n =>
    if k = 1 then !s.pipeHolds n && !s.pipeHolds (n + 8) && smapGet (fun _ => 0) n s.pwr.pairAt + usT 10 ≤ s.now
    else s.role n == 0 && s.role (n + 8) == 0
  | .group g => !s.groupEn g && (s.members g).isEmpty
  | .burin => s.burin.run.isEmpty && s.burin.queue.isEmpty && (k != 3 || s.burin.ctx.all (fun e => ctxService e.2 == 0))

/-- The deepest state whose wake fits a budget; 0 holds S0. -/
def budgetState (budget : Nat) : Nat := ([3, 2, 1].find? (fun k => wakeMax k ≤ budget)).getD 0

/-- PM_EN as it acts: set with the write, cleared at the next boundary (R473); never in calibration-absent mode (R487). -/
def State.pmEn (s : State) : Bool := (s.flag R.pwrCtl F.pwrCtlPmEn || s.pwr.pmOn) && !s.pwr.absent

/-- The deepest state a domain may enter. -/
def State.sleepState (s : State) (d : Domain) : Nat :=
  if !s.pmEn || s.pwr.tripped then 0
  else ([3, 2, 1].find? (fun k => k ≤ budgetState (s.fld (domainReg d) wakeBudget) && s.mayEnter d k)).getD 0

/-- A domain enters the deepest allowed state; power-gating the burin pool loses its transmit buffers. -/
def domainSleep (d : Domain) (s : State) : State :=
  let k := s.sleepState d
  if s.fld (domainReg d) wakeState < k then
    let s := s.setFld (domainReg d) wakeState k
    doIf (d == .burin && k == 3) (fun s => { s with burin := { s.burin with txb := [] } }) s
  else s

def execDomainSleep (d : Domain) (s : State) : Res := guardWf (domainOk d) (domainSleep d s)

/-- Something asks for a domain to wake (R473, R477): with PM_EN 0 the boundary does, and DOMAIN_WAKE ends the wake. -/
def State.wakeWanted (s : State) (d : Domain) : Bool :=
  !s.pmEn ||
  match d with
  | .port n => s.flag (R.linePortCfg n) F.linePortCfgPortEn
  | .pair n =>
    s.pipeHolds n || s.pipeHolds (n + 8) ||
    match s.plate.swapTo with
    | some b => (s.prog b n).role != 0 || (s.prog b (n + 8)).role != 0
    | none => false
  | .group g => !(s.members g).isEmpty
  | .burin => !s.burin.queue.isEmpty

/-- The index of a domain's register. -/
def domainIndex (d : Domain) : Nat := ((domainReg d) - R.pwrWakePort 0) / 8

/-- A wake is counted; one that took too long is recorded. -/
def wakeDone (d : Domain) (k tookNs : Nat) (s : State) : State :=
  let s := s.inc (R.pwrCtr 3)
  doIf (wakeMax k < tookNs) (fun s =>
    report .f 0x0C (0x200 + domainIndex d) .k 0x006 [(domainIndex d, 2), (k, 1), (tookNs, 4)] (s.inc (R.pwrCtr 4))) s

/-- A domain has reached S0: the lanes enabled meanwhile start. -/
def reachedS0 (d : Domain) (s : State) : State :=
  match d with
  | .group g => refreshGroup g (forEach (s.members g) laneStart s)
  | _ => s

/-- A waking domain reaches S0. -/
def domainWake (d : Domain) (tookNs : Nat) (s : State) : State :=
  let k := s.fld (domainReg d) wakeState
  if k != 0 && s.wakeWanted d then reachedS0 d (wakeDone d k tookNs (s.setFld (domainReg d) wakeState 0))
  else s

def execDomainWake (d : Domain) (tookNs : Nat) (s : State) : Res := guardWf (domainOk d && tookNs < 2 ^ 32) (domainWake d tookNs s)

/-- The effect of a budget just stored: a domain deeper than it allows is woken to the deepest state it does allow. -/
def budgetEffect (off : Nat) (s : State) : State :=
  let k := budgetState (s.fld off wakeBudget)
  if k < s.fld off wakeState then
    let s := (s.setFld off wakeState k).inc (R.pwrCtr 3)
    match (List.range 24).find? (fun g => R.pwrWakeGroup g == off) with
    | some g => doIf (k == 0) (reachedS0 (.group g)) s
    | none => s
  else s

/-! ### 1PPS (R483) -/

/-- A whole second of the timebase: PPS_OUT rises and is high for 1 ms. -/
def ppsOut (s : State) : State :=
  if s.flag R.pwrTbCfg F.pwrTbCfgPpsOutEn && s.now % ticksPerSec < 65 && s.pwr.ppsNext ≤ s.now then
    let s := { s with pwr := { s.pwr with 
      ppsNext := (s.now / ticksPerSec + 1) * ticksPerSec, ppsFall := s.now / ticksPerSec * ticksPerSec + msT 1 } }
    s.emit (.pulse 0)
  else s

def execPpsOut (s : State) : Res := guardWf true (ppsOut s)

/-- A rising edge of the 1PPS input. -/
def ppsInEdge (s : State) : State :=
  if s.flag R.pwrTbCfg F.pwrTbCfgPpsInEn then
    let s := s.wr R.pwrTbPps0 (BitVec.ofNat 64 (stampLo s.now))
    let s := s.setFld R.pwrTbPps1 F.pwrTbPps1TsHigh (stampHi s.now)
    let s := s.setFld R.pwrTbStat F.pwrTbStatPpsLoss 0
    burinPps (stampOf s.now) { s with pwr := { s.pwr with ppsAt := s.now } }
  else s

def execPpsInEdge (s : State) : Res := guardWf true (ppsInEdge s)

/-- No edge for 1.5 s. -/
def ppsLoss (s : State) : State :=
  if s.flag R.pwrTbCfg F.pwrTbCfgPpsInEn && !s.flag R.pwrTbStat F.pwrTbStatPpsLoss && s.pwr.ppsAt + msT 1500 ≤ s.now then
    pwrIrq (report .f 0x0C 0 .k 0x008 [] (s.setFld R.pwrTbStat F.pwrTbStatPpsLoss 1))
  else s

def execPpsLoss (s : State) : Res := guardWf true (ppsLoss s)

end Sys2Proof.Machine
end

