-- ==== Sys2Proof/Machine/Twin.lean ====
section
/-! DEFINITION. Twin mode (chapter 16): records, digests, the health path, the roles and their commands; and the framer's
multiframe boundary, which the calendar and the twin controller share. -/

namespace Sys2Proof.Machine

/-! ### Small parts -/

def twinIrq (s : State) : State := doIf (s.flag R.twinCfg F.twinCfgIrqEn) (raiseBlock 16 15) s

/-- A twin record in the T-die's ERQ, with its interrupt (R516). -/
def twinLog (code : Nat) (items : List (Nat × Nat)) (s : State) : State := twinIrq (report .t 0x14 0 .k code items s)

def State.twinLinkUp (s : State) : Bool := s.flag R.twinState F.twinStateLinkUp
def State.mateState (s : State) : Nat := s.fld R.twinState F.twinStateMateState
def State.activeSince (s : State) : Nat := s.fld R.twinState F.twinStateActiveSince

/-- The mate's last STATUS record shows HEALTHY. -/
def State.mateHealthy (s : State) : Bool := nbit s.twin.mateHl 0

/-- The mate's last STATUS record shows ACTIVE and HEALTHY. -/
def State.mateActiveOk (s : State) : Bool := s.mateState == 3 && s.mateHealthy

/-- Entry to ACTIVE from STANDBY or INIT. -/
def enterActive (since : Nat) (s : State) : State :=
  (twinTo 3 (s.setFld R.twinState F.twinStateActiveSince since)).inc (R.twinCtr 3)

/-- TWIN_SWITCHOVER with its cause and the new state. -/
def switchover (cause : Nat) (s : State) : State := twinLog 0x003 [(cause, 1), (s.twinState, 1)] s

/-- The first multiframe boundary at least two multiframes from now (R512, R513). -/
def State.mfAfter2 (s : State) : Nat := (s.mfNum + (if s.calTime = 0 then 2 else 3)) % 2 ^ 32

/-- The later of two multiframe numbers (R440). -/
def mfLater (a b : Nat) : Nat := if mfReached a b then b else a

/-! ### Records (R504, R508, R510, R512) -/

/-- The twin link comes up with both devices ACTIVE: the later one, or SIDE 1, is to yield. -/
def dualActive (s : State) : State :=
  let own := s.activeSince
  let mate := s.twin.mateAct
  let yields := if own = mate then s.flag R.twinCfg F.twinCfgSide else mfReached mate own
  twinLog 0x005 [(own, 4), (mate, 4)] { s with twin := { s.twin with yield_ := s.twin.yield_ || yields } }

/-- What a STATUS record ends: the wait of a STANDBY device whose mate's pin fell. -/
def statusWait (s : State) : State :=
  match s.twin.waitTo with
  | none => s
  | some _ =>
    let s := { s with twin := { s.twin with waitTo := none } }
    if s.twinState != 2 then s
    else if s.mateActiveOk then twinLog 0x004 [] (s.inc (R.twinCtr 6))
    else switchover 1 (enterActive s.mfNum s)

/-- The INIT state under a STATUS record. -/
def statusInit (s : State) : State :=
  if s.twinState != 1 then s
  else if s.mateState = 3 then twinTo 2 { s with twin := { s.twin with initM := none } }
  else if s.mateState = 1 && s.healthOut && s.mateHealthy then
    { s with twin := { s.twin with initM := some (s.twin.initM.getD s.mfAfter2) } }
  else { s with twin := { s.twin with initM := none } }

/-- A STATUS record of frame `key` comes on lane `l` after the other lane gave it: it is discarded (R504). -/
def State.statusCopy (s : State) (l key : Nat) : Bool := s.twin.seen.any (fun e => e.1 == key && e.2 != l)

/-- A STATUS record is accepted. -/
def twinStatus (l key : Nat) (r : Bytes) (s : State) : State :=
  let was := s.twinLinkUp
  let s := (s.setFld R.twinState F.twinStateMateState (byteAt 1 r % 8)).setFld R.twinState F.twinStateLinkUp 1
  let s := { s with twin := { s.twin with
    seen := ((key, l) :: s.twin.seen).take 16, statAt := some s.now, statMf := beAt 4 4 r, mateHl := byteAt 2 r, mateAct := beAt 8 4 r } }
  let s := doIf (!was && s.twinState == 3 && s.mateState == 3) dualActive s
  statusInit (statusWait s)

/-- The digest of a multiframe joins the last ones, of which four are kept. -/
def keepFour (n d : Nat) (l : List (Nat × Nat)) : List (Nat × Nat) := ((n, d) :: l.filter (fun e => e.1 != n)).take 4

/-- A record accepted from a twin lane. The frame that carries it is the last one that the lane read. -/
def twinRecord (l : Nat) (r : Bytes) (s : State) : State :=
  match byteAt 0 r with
  | 1 =>
    let key := 256 * beAt 4 4 r + (s.lane l).fn
    if s.statusCopy l key then s else twinStatus l key r s
  | 2 =>
    let n := beAt 8 4 r
    if (smapFind n s.twin.mate).isSome then s
    else { s with twin := { s.twin with mate := keepFour n (beAt 0x10 8 r) s.twin.mate } }
  | 3 =>
    let m := beAt 8 4 r
    match s.twin.switchM with
    | some own => { s with twin := { s.twin with switchM := some (mfLater own m), mateM := some m } }
    | none => { s with twin := { s.twin with mateM := some m } }
  | _ => s

/-- A cell of TYPE 3 on a twin lane. -/
def twinReceive (l : Nat) (c : Bytes) (s : State) : State :=
  if !s.twinLane l || !s.inSync l then s
  else if !hecOk c then fabInc (R.fabLaneCtr l 4) s
  else if cellType c != 3 || !pcrcOk c || s.laneFlag l F.fabLaneStatLos || s.laneFlag l F.fabLaneStatLof ||
      s.laneFlag l F.fabLaneStatAis || s.twinState == 0 then s
  else twinRecord l (slice 16 64 c) s

def execTwinRecordReceive (lane : Nat) (cell : Bytes) (s : State) : Res :=
  guardWf (lane < 120 && cell.length == 256) (twinReceive lane cell s)

/-! ### The link and the health pin (R497, R504, R508, R509) -/

/-- The pin is low while the link is down: a STANDBY device has lost its mate. -/
def mateLost (s : State) : State :=
  if s.twinState = 2 then twinLog 0x006 [] (s.setFld R.twinState F.twinStateMateLost 1) else s

/-- Eight frames without a STATUS record. -/
def twinLinkDown (s : State) : State :=
  match s.twin.statAt with
  | none => s
  | some t =>
    if s.twinLinkUp && 32768 + t ≤ s.now then
      let s := (s.setFld R.twinState F.twinStateLinkUp 0).setFld R.twinState F.twinStateMismatchCount 0
      let s := twinLog 0x001 [(s.twin.statMf, 4)] (s.inc (R.twinCtr 5))
      doIf (!s.flag R.twinState F.twinStatePinIn && s.twin.waitTo.isNone) mateLost s
    else s

def execTwinLinkDown (s : State) : Res := guardWf true (twinLinkDown s)

/-- TWIN_HEALTH_IN has read low for 1 µs. -/
def healthInFall (s : State) : State :=
  if s.flag R.twinState F.twinStatePinIn then
    let s := s.setFld R.twinState F.twinStatePinIn 0
    if s.twinState != 2 then s
    else if s.twinLinkUp then { s with twin := { s.twin with waitTo := some (16384 + s.now) } }
    else mateLost s
  else s

def execTwinHealthInFall (s : State) : Res := guardWf true (healthInFall s)

/-- The pin is high again; a wait of R508 goes on. -/
def healthInRise (s : State) : State := s.setFld R.twinState F.twinStatePinIn 1

def execTwinHealthInRise (s : State) : Res := guardWf true (healthInRise s)

/-- No STATUS record within four frames of the fall. -/
def healthWait (s : State) : State :=
  match s.twin.waitTo with
  | none => s
  | some t =>
    if t ≤ s.now then
      let s := { s with twin := { s.twin with waitTo := none } }
      if s.twinState = 2 then switchover 1 (enterActive s.mfNum s) else s
    else s

def execTwinHealthWaitExpire (s : State) : Res := guardWf true (healthWait s)

/-! ### Commands (R513) -/

/-- The state a command needs, and what else must hold. -/
def twinChecks (s : State) (op : Nat) : List (Bool × Nat) :=
  let st := s.twinState
  match op with
  | 1 =>
    [(st == 2 || st == 3, Code.notfound),
     (s.twinLinkUp && ((st == 3 && s.mateState == 2) || (st == 2 && s.mateState == 3)) && s.healthOut && s.mateHealthy, Code.busy)]
  | 2 => [(st == 1 || st == 2, Code.notfound), (!s.mateActiveOk, Code.busy)]
  | 3 => [(st == 4, Code.notfound), (s.healthCond, Code.busy)]
  | _ => [(false, Code.notfound)]

def twinAct (op : Nat) (s : State) : State :=
  match op with
  | 1 =>
    let own := mfLater (s.twin.switchM.getD s.mfAfter2) s.mfAfter2
    let m := match s.twin.mateM with
      | some x => if mfReached x s.mfNum then own else mfLater own x
      | none => own
    { s with twin := { s.twin with switchM := some m } }
  | 2 => { s with twin := { s.twin with force := true } }
  | _ => twinTo 2 s

def twinCommand (fn : Fn) (p : Nat) (w : Word) (s : State) : State :=
  let op := getF w F.twinCmdOpcode
  issue .twin op p (fun s => runChecks .twin fn (twinChecks s op) (fun s => complete .twin Code.ok 0 (twinAct op s)) s) s

def twinIssue (fn : Fn) (op : Nat) (s : State) : State :=
  access fn R.twinCmd 1 (fun p _ _ s => twinCommand fn p (setF 0 F.twinCmdOpcode op) s) s

def execTwinSwitch (fn : Fn) (s : State) : Res := guardWf (fnOk fn) (twinIssue fn 1 s)
def execTwinForceActive (fn : Fn) (s : State) : Res := guardWf (fnOk fn) (twinIssue fn 2 s)
def execTwinClearFailed (fn : Fn) (s : State) : Res := guardWf (fnOk fn) (twinIssue fn 3 s)

/-- The effect of a write to TWIN_CFG just stored (R512): EN 1 starts in INIT, EN 0 returns to DISABLED. -/
def twinCfgEffect (old : Word) (s : State) : State :=
  let was := getF old F.twinCfgEn != 0
  let is := s.flag R.twinCfg F.twinCfgEn
  if was == is then s
  else
    let s := { s with twin := { statAt := none, statMf := 0, mateHl := 0, mateAct := 0, seen := [], digs := s.twin.digs,
                                mate := [], switchM := none, mateM := none, force := false, initM := none, yield_ := false,
                                waitTo := none, heldLog := s.twin.heldLog } }
    let s := (s.setFld R.twinState F.twinStateLinkUp 0).setFld R.twinState F.twinStateMismatchCount 0
    twinTo (if is then 1 else 0) s

/-! ### Digests (R505 to R507) -/

/-- CRC-64 of R505. -/
def crc64 (b : Bytes) : Nat := crcRefRun 0xC96C5795D7870F42 0xFFFFFFFFFFFFFFFF b ^^^ 0xFFFFFFFFFFFFFFFF

/-- The releases that the digest of the multiframe that ends covers: those made, and with nothing each other one of the live
bank, as one left idle under R292 (R505). -/
def State.digestRels (s : State) : SMap (Option Bytes) :=
  let all := match s.calLive with
    | some b => List.range (relCount (s.calImg b))
    | none => []
  all.foldl (fun m r => if (smapFind (16384 + r) m).isSome then m else smapInsert (16384 + r) none m)
    (s.cal.digRel.filter (fun e => e.1 < 32768))

/-- What the digest of the multiframe that ends covers. -/
def State.digestBytes (s : State) : Bytes :=
  s.cal.digTx.flatMap (·.2) ++ s.digestRels.flatMap (fun e => toLe 2 (e.1 % 16384) ++ e.2.getD [])

/-- The digest of the multiframe n − 1, at the boundary that begins n. -/
def digestEnd (n : Nat) (s : State) : State :=
  if s.boot.straps.twinEn then
    let before := (2 ^ 32 + n - 1) % 2 ^ 32
    { s with twin := { s.twin with digs := keepFour before (crc64 s.digestBytes) s.twin.digs } }
  else s

/-- Both devices compute the same thing: each is ACTIVE or STANDBY. -/
def State.comparing (s : State) : Bool :=
  s.twinLinkUp && (s.twinState == 2 || s.twinState == 3) && (s.mateState == 2 || s.mateState == 3)

/-- A confirmed mismatch (R507). -/
def mismatch (n m loc mate : Nat) (s : State) : State :=
  let s := twinLog 0x002 [(m, 4), (loc, 8), (mate, 8)] s
  if s.healthOut && s.mateHealthy then
    if s.twinState = 3 && s.mateState = 2 then switchover 0 (twinTo 4 s)
    else if s.twinState = 2 && s.mateState = 3 then switchover 0 (enterActive n s)
    else s
  else s

/-- The digests of multiframe n − 2 are compared at the boundary of n. -/
def digestCompare (n : Nat) (s : State) : State :=
  let m := (2 ^ 32 + n - 2) % 2 ^ 32
  let zero := fun (s : State) => s.setFld R.twinState F.twinStateMismatchCount 0
  if !s.comparing then zero s
  else
    match smapFind m s.twin.digs, smapFind m s.twin.mate with
    | none, _ => zero s
    | some _, none => zero (s.inc (R.twinCtr 2))
    | some a, some b =>
      let s := ((s.wr R.twinDigestLocal (BitVec.ofNat 64 a)).wr R.twinDigestMate (BitVec.ofNat 64 b)).setFld
        R.twinDigestMf F.twinDigestMfMf m
      let s := s.inc (R.twinCtr 0)
      if a = b then zero s
      else
        let k := min 15 (s.fld R.twinState F.twinStateMismatchCount + 1)
        let s := (s.setFld R.twinState F.twinStateMismatchCount k).inc (R.twinCtr 1)
        if s.fld R.twinCfg F.twinCfgMismatchMf ≤ k then mismatch n m a b s else s

/-! ### Roles at a boundary (R510, R512, R513) -/

/-- An announced SWITCH whose multiframe has come. -/
def switchEnd (n : Nat) (s : State) : State :=
  match s.twin.switchM with
  | none => s
  | some m =>
    if mfReached m n then
      let s := { s with twin := { s.twin with switchM := none, mateM := none } }
      if s.twinState = 2 then switchover 2 (enterActive n s)
      else if s.twinState = 3 then switchover 2 (twinTo 2 s)
      else s
    else s

def forceEnd (n : Nat) (s : State) : State :=
  if s.twin.force then
    let s := { s with twin := { s.twin with force := false, initM := none } }
    if s.twinState = 1 ∨ s.twinState = 2 then switchover 3 (enterActive n s) else s
  else s

/-- Two INIT devices take their roles. -/
def initEnd (n : Nat) (s : State) : State :=
  match s.twin.initM with
  | none => s
  | some m =>
    if s.twinState = 1 && s.twinLinkUp && s.mateState = 1 && s.healthOut && s.mateHealthy then
      if mfReached m n then
        let s := { s with twin := { s.twin with initM := none } }
        if s.flag R.twinCfg F.twinCfgSide then twinTo 2 s else enterActive n s
      else s
    else { s with twin := { s.twin with initM := none } }

def yieldEnd (s : State) : State :=
  if s.twin.yield_ then
    let s := { s with twin := { s.twin with yield_ := false } }
    if s.twinState = 3 then twinTo 2 s else s
  else s

/-- The twin controller at the boundary that begins multiframe n. -/
def twinBoundary (n : Nat) (s : State) : State :=
  initEnd n (forceEnd n (switchEnd n (yieldEnd (digestCompare n s))))

/-! ### The framer's multiframe boundary (R268) -/

/-- The framer runs and has counted the 16,384 reference periods of a multiframe. -/
def State.mfDue (s : State) : Bool := s.framerRun && decide (16384 + s.fab.mfRef ≤ s.fab.ref)

/-- The framer has counted 16,384 reference periods; `v` is the vote on the page hand-over (R298). -/
def multiframeBoundary (v : Vote) (s : State) : State :=
  if s.mfDue then
    let n := (s.mfNum + 1) % 2 ^ 32
    let s := { s with fab := { s.fab with mfRef := 16384 + s.fab.mfRef } }
    let s := mfPulse s
    twinBoundary n (calBoundary n v (digestEnd n s))
  else s

end Sys2Proof.Machine
end

