-- ==== Sys2Proof/Machine/Lock.lean ====
section
/-! DEFINITION. What the seal engine and the update controller share: the seal lock (R404 to R408), wrapped blobs
(R410 to R413), decryption with a tag (R417, R435). -/

namespace Sys2Proof.Machine

/-! ### The lock -/

/-- HOLDER of SEAL_LOCK: 0 to 3 a partition, 4 the update controller, 7 free. -/
def State.holder (s : State) : Nat := s.fld R.sealLock F.sealLockHolder

/-- The registers that a change of HOLDER resets (R407). -/
def sealRegs : List Nat :=
  [R.sealCmd, R.sealSrc, R.sealDst, R.sealAad, R.sealLen, R.sealIv0, R.sealIv1, R.sealTag0, R.sealTag1, R.sealStatus,
   R.sealBytesOut, R.sealCtl]

/-- HOLDER changes, and with it the registers from SEAL_CMD to SEAL_CTL are reset (R407). -/
def lockTo (h : Nat) (s : State) : State :=
  forEach sealRegs (fun r s => s.wr r (regReset r)) (s.setFld R.sealLock F.sealLockHolder h)

/-- The update controller takes the free lock for the images it processes and releases it (R408). -/
def lockPass (s : State) : State := lockTo 7 (lockTo 4 s)

/-! ### Wrapped blobs -/

def blobKek (b : Bytes) : Nat := byteAt 5 b
def blobId (b : Bytes) : Word := wordAt 0 (slice 8 8 b)

/-- MAGIC, FORMAT and WRAPPED_LEN (R410, R413). -/
def blobFormOk (b : Bytes) : Bool := leAt 0 4 b == 0x5742554F && byteAt 4 b == 1 && leAt 6 2 b == 48

/-- The key record that a blob wraps under a key; none where the integrity check of RFC 5649 fails (R411). -/
def blobRecord (kek b : Bytes) : Option Bytes := unwrapKey kek (slice 16 48 b)

/-- KEY_LEN is 32, USAGE is not 0 and reserved bits are 0 (R411, R413). -/
def recordOk (r : Bytes) : Bool := byteAt 1 r == 32 && byteAt 0 r != 0 && byteAt 0 r < 8 && leAt 2 2 r == 0

def recordUsage (r : Bytes) : Nat := byteAt 0 r
def recordFixed (r : Bytes) : Nat := leAt 4 4 r
def recordKey (r : Bytes) : Bytes := slice 8 32 r

/-! ### AES-256-GCM with a tag of n bytes -/

/-- The leftmost `n` bytes of the full tag (R417). -/
def tagOf (key iv aad cipher : Bytes) (n : Nat) : Bytes := (gcmTag key iv aad cipher).take n

end Sys2Proof.Machine
end

