-- ==== Sys2Proof/Machine/Update.lean ====
section
/-! DEFINITION. The update controller (R430 to R463): the manifest and its checks, the boot control record, the session,
settings in two formats, activation, confirmation and reversion. -/

namespace Sys2Proof.Machine

/-! ### The manifest (R432 to R434) -/

def manLen (b : Bytes) : Nat := leAt 8 4 b
def manCompat (b : Bytes) : Nat := byteAt 7 b
def manSetId (b : Bytes) : Nat := leAt 0x18 8 b
def manVersion (b : Bytes) : Nat := leAt 0x20 4 b
def manMode (b : Bytes) : Nat := byteAt 0x24 b
def manBlob (b : Bytes) : Bytes := slice 0x40 64 b

/-- The entry of component `i`, counted from 0 (R433). -/
def manEntry (b : Bytes) (i : Nat) : Bytes := slice (0x80 + 128 * i) 128 b

def entryLen (e : Bytes) : Nat := leAt 4 4 e
def entryIv (e : Bytes) : Bytes := slice 0x10 12 e
def entryTag (e : Bytes) : Bytes := slice 0x20 16 e
def entryDigest (e : Bytes) : Bytes := slice 0x30 48 e

/-- The longest image of each component (R430). -/
def compLimit : List Nat := [8388608, 1048576, 2097152, 8389120, 1048576]

/-- An entry in its place with its reserved fields 0. -/
def compEntryOk (e : Bytes) (i : Nat) : Bool :=
  byteAt 0 e == i + 1 && leAt 1 3 e == 0 && entryLen e ≤ compLimit.getD i 0 && leAt 0x0C 4 e == 0 &&
    leAt 0x1C 4 e == 0 && allZero (slice 0x60 32 e)

/-- Check 3 of R446. -/
def manLayoutOk (b : Bytes) : Bool :=
  byteAt 6 b == 5 && 1 ≤ manCompat b && manCompat b ≤ 64 &&
    manLen b == ceilDiv (768 + 48 * manCompat b) 64 * 64 && manLen b ≤ 3840 && manMode b ≤ 1 &&
    allZero (slice 0x25 27 b) && (List.range 5).all (fun i => compEntryOk (manEntry b i) i) &&
    (List.range 5).all (fun i => (List.range i).all (fun j => entryIv (manEntry b i) != entryIv (manEntry b j))) &&
    allZero (slice (768 + 48 * manCompat b) (manLen b - (768 + 48 * manCompat b)) b)

/-- The COMPAT part. -/
def compatPart (b : Bytes) : Bytes := slice 0x300 (48 * manCompat b) b

/-- A compatibility tuple: the hash of the boot code and five hashes (R434). -/
def tupleOf (hashes : List Bytes) : Bytes := toLe 8 Config.bootHash ++ hashes.flatMap (slice 0 8)

/-- The hashes of the five components of a manifest. -/
def manHashes (b : Bytes) : List Bytes := (List.range 5).map (fun i => slice 0 8 (entryDigest (manEntry b i)))

/-- One tuple of COMPAT equals `t`. -/
def compatHas (b t : Bytes) : Bool := (List.range (manCompat b)).any (fun i => slice (0x300 + 48 * i) 48 b == t)

/-- Checks 2 to 6 of R446. -/
def manChecks (k : KeySet) (b : Bytes) : List (Bool × Fail) :=
  [(leAt 0 4 b == 0x464D554F, (Code.incompatible, 0x01)), (leAt 4 2 b == 1, (Code.incompatible, 0x02)),
   (leAt 0x10 4 b == devId && leAt 0x14 4 b == devStep, (Code.incompatible, 0x03)),
   (manLayoutOk b, (Code.length, 0x0C)),
   (crc32c (patch 0x0C (zeros 4) (slice 0 (manLen b) b)) == leAt 0x0C 4 b, (Code.signature, 0x08))] ++
  sigChecks k (slice 0 (manLen b) b) (slice (manLen b) 512 b)

/-- Check 8 of R446. -/
def manCompatCheck (b : Bytes) : Bool × Fail := (compatHas b (tupleOf (manHashes b)), (Code.incompatible, 0x41))

/-- The content key that a manifest's blob wraps under the owner root key, or the failure of check 9 (R413, R432,
R446). -/
def contentKey (root b : Bytes) : Except Fail Bytes :=
  let x := manBlob b
  if !blobFormOk x || blobKek x != 0x20 then .error (Code.length, 0x47)
  else match blobRecord root x with
    | none => .error (Code.tagFail, 0x47)
    | some r => if recordOk r && recordUsage r == 2 then .ok (recordKey r) else .error (Code.length, 0x47)

/-! ### Images (R431, R435, R448) -/

/-- The plaintext of image `i`. -/
def imgPlain (man key : Bytes) (i : Nat) (cipher : Bytes) : Bytes := gcmCtr key (entryIv (manEntry man i)) cipher

/-- TAG and DIGEST of image `i`. -/
def imgSealChecks (man key : Bytes) (i : Nat) (cipher : Bytes) : List (Bool × Fail) :=
  let e := manEntry man i
  [(gcmTag key (entryIv e) (slice 0 16 e) cipher == entryTag e, (Code.tagFail, 0x47)),
   (sha384 (imgPlain man key i cipher) == entryDigest e, (Code.signature, 0x46))]

/-- The keys that sign vendor images: key 0 is the Ouvba key. -/
def vendorKeys : KeySet := { keys := [some Config.vendorKey], revoked := 0 }

/-- The signature block at the end of a vendor image (R431). -/
def vendorSigOk (b : Bytes) : Bool :=
  let n := b.length - 512
  512 ≤ b.length && leAt 6 2 (slice n 512 b) == 0 && (sigChecks vendorKeys (b.take n) (slice n 512 b)).all (·.1)

/-- The checks of R51 on a plate that is not loaded by address. -/
def plateChecksOf (k : KeySet) (b : Bytes) : List (Bool × Fail) :=
  (b.length % 64 == 0 && b.length ≤ 8389120, (Code.length, 0x04)) ::
    (64 ≤ b.length, (Code.length, 0x05)) :: (arrivedChecks plateKind b.length b ++ plateVerifyChecks k b)

/-- The checks of image `i` as it is loaded: TAG and DIGEST, and the signature of a vendor image, before any unit reads,
loads or executes the plaintext (R349, R420). The plate's own checks are those of the bank it goes into. -/
def imgLoadChecks (man key : Bytes) (i : Nat) (cipher : Bytes) : List (Bool × Fail) :=
  imgSealChecks man key i cipher ++
    (if i = 3 then [] else [(vendorSigOk (imgPlain man key i cipher), (Code.signature, 0x45))])

/-- Every check of R448 on image `i`. -/
def imgChecks (k : KeySet) (man key : Bytes) (i : Nat) (cipher : Bytes) : List (Bool × Fail) :=
  imgLoadChecks man key i cipher ++ (if i = 3 then plateChecksOf k (imgPlain man key i cipher) else [])

/-! ### The boot control record (R439, R440) -/

/-- UPD_BCR shows the record in force. -/
def showBcr (s : State) : State :=
  let b := s.upd.bcr
  let w := setF (setF 0 F.updBcrSeq b.seq) F.updBcrTries b.tries
  let w := setF (setF w F.updBcrConfArea b.confArea) F.updBcrDual (b2n b.dual)
  let w := setF (setF w F.updBcrConfirming (b2n b.confirming)) F.updBcrTrial (b2n b.trial)
  s.wr R.updBcr (setF (setF w F.updBcrTrialSlot b.trialSlot) F.updBcrConfirmedSlot b.confirmed)

/-- Take a record as the one in force. -/
def useBcr (b : Bcr) (s : State) : State := showBcr { s with upd := { s.upd with bcr := b } }

/-- MAGIC of a copy of the record. -/
def bcrMagic : Nat := 0x4342554F

/-- FLAGS of a record. -/
def bcrFlags (b : Bcr) : Nat := b2n b.trial + 2 * b2n b.confirming + 4 * b2n b.dual + 8 * (b.confArea % 2)

/-- Bytes 0x00 to 0x3B of a record (R439). -/
def bcrHead (b : Bcr) : Bytes :=
  toLe 4 bcrMagic ++ toLe 4 b.seq ++ toLe 1 b.confirmed ++ toLe 1 b.trialSlot ++ toLe 1 (bcrFlags b) ++ toLe 1 b.tries ++
    zeros 4 ++ toLe 8 b.confId ++ toLe 8 b.trialId ++ zeros 28

/-- The 64 bytes of a record, with its CRC (R439). -/
def bcrBytes (b : Bcr) : Bytes := bcrHead b ++ toLe 4 (crc32c (bcrHead b))

/-- The record that the bytes of a copy hold; none where MAGIC or CRC do not check (R440). -/
def bcrOf (x : Bytes) : Option Bcr :=
  if leAt 0 4 x == bcrMagic && crc32c (slice 0 60 x) == leAt 0x3C 4 x then
    some { seq := leAt 4 4 x, confirmed := byteAt 8 x % 2, trialSlot := byteAt 9 x % 2, trial := nbit (byteAt 0x0A x) 0,
           confirming := nbit (byteAt 0x0A x) 1, dual := nbit (byteAt 0x0A x) 2,
           confArea := b2n (nbit (byteAt 0x0A x) 3), tries := byteAt 0x0B x, confId := leAt 0x10 8 x,
           trialId := leAt 0x18 8 x }
  else none

/-- Erase and program copy `n`. DESIGN CHOICE: a copy whose programming is cut off reads as erased flash; log 127. -/
def writeCopy (n : Nat) (x : Bytes) (s : State) : State :=
  let put := fun (x : Bytes) => flashTo (fun f => { f with bcr := f.bcr.set n x })
  put x (put blank64 s)

/-- Erase and program copy 0 and then copy 1 with a record (R440). -/
def writeCopies (b : Bcr) (s : State) : State := writeCopy 1 (bcrBytes b) (writeCopy 0 (bcrBytes b) s)

/-- Write the record with SEQ one above the previous one. -/
def writeBcr (b : Bcr) (s : State) : State :=
  let b := { b with seq := (s.upd.bcr.seq + 1) % 2 ^ 32 }
  useBcr b (writeCopies b s)

/-- Copy `a` is newer than copy `b`. -/
def bcrNewer (a b : Bcr) : Bool := 1 ≤ (2 ^ 32 + a.seq - b.seq) % 2 ^ 32 && (2 ^ 32 + a.seq - b.seq) % 2 ^ 32 < 2 ^ 31

/-- The newest valid copy. -/
def newestBcr (copies : List Bytes) : Option Bcr :=
  match bcrOf (copies.getD 0 []), bcrOf (copies.getD 1 []) with
  | some a, some b => if bcrNewer b a then some b else some a
  | some a, none => some a
  | none, some b => some b
  | none, none => none

/-- A record without a trial. -/
def Bcr.noTrial (b : Bcr) : Bcr := { b with trial := false, tries := 0, trialId := 0 }

/-! ### Slots and the session -/

/-! States of the session (R444). -/
namespace Us
def idle : Nat := 0
def isOpen : Nat := 1
def verifying : Nat := 2
def verified : Nat := 3
def activating : Nat := 4
def trial : Nat := 5
def pendingReset : Nat := 6
end Us

/-! STATE bytes of a slot (R438). -/
namespace Ss
def downloading : Nat := 0x7F
def verified : Nat := 0x3F
def invalid : Nat := 0x00
end Ss

def State.updState (s : State) : Nat := s.fld R.updSession F.updSessionState
def State.updHolder (s : State) : Nat := s.fld R.updSession F.updSessionHolder
def updTo (st : Nat) (s : State) : State := s.setFld R.updSession F.updSessionState st
def updHold (p : Nat) (s : State) : State := s.setFld R.updSession F.updSessionHolder p

/-- The staging slot: the one that CONFIRMED_SLOT does not name. -/
def State.staging (s : State) : Nat := 1 - s.upd.bcr.confirmed

def State.slot (s : State) (n : Nat) : SetSlot := s.flash.slots.getD n emptySlot
def setSlot (n : Nat) (x : SetSlot) (s : State) : State := flashTo (fun f => { f with slots := f.slots.set n x }) s

/-- STATE of a slot record. -/
def SetSlot.state (k : SetSlot) : Nat := byteAt 4 k.head

/-- A slot record (R438). -/
def slotHead (st : Nat) : Bytes := toLe 4 0x5453554F ++ toLe 1 st ++ zeros 59

/-- A slot with another STATE, whose bits are only ever cleared (R438). -/
def SetSlot.to (st : Nat) (k : SetSlot) : SetSlot := { k with head := patch 4 (toLe 1 (k.state &&& st)) k.head }

/-- A slot is usable only with its MAGIC and in VERIFIED (R438). -/
def SetSlot.usable (k : SetSlot) : Bool := leAt 0 4 k.head == 0x5453554F && k.state == Ss.verified

/-- The set of a manifest, as it runs. -/
def setOf (slot : Nat) (man : Bytes) : RunSet :=
  { hashes := manHashes man, compat := compatPart man, setId := manSetId man, slot := slot }

/-- A settings area. -/
def State.area (s : State) (a : Nat) : SMap Bytes := s.flash.areas.getD a []
def setArea (a : Nat) (m : SMap Bytes) (s : State) : State := flashTo (fun f => { f with areas := f.areas.set a m }) s

/-- The new-format area is discarded and DUAL cleared (R450); the record becomes `b`. -/
def dropNewArea (b : Bcr) (s : State) : State :=
  let s := doIf s.upd.bcr.dual (setArea (1 - s.upd.bcr.confArea) []) s
  writeBcr { b with dual := false } s

/-- The session ends (R442): the staging slot is INVALID, a new-format area is discarded, the hidden slot cleared, source
14 raised. -/
def endSession (s : State) : State :=
  let n := s.staging
  let s := setSlot n ((s.slot n).to Ss.invalid) s
  let s := doIf s.upd.bcr.dual (dropNewArea s.upd.bcr) s
  let s := { s with upd := { s.upd with hidden := [], wait := none } }
  raiseRight 14 Right.update (updHold 7 (updTo Us.idle s))

/-- An update command completes; its time counts as progress of the holder (R442). -/
def updDone (code detail : Nat) (s : State) : State :=
  complete .upd code detail { s with upd := { s.upd with lastCmd := s.now } }

/-- A record of the update controller (R462). -/
def updRecord (sev : Sev) (code : Nat) (items : List (Nat × Nat)) (s : State) : State :=
  report .f 0x0B 0 sev code items s

/-- A session of holder `h` ends under R442 with its record. -/
def lapseSession (h : Nat) (s : State) : State := updRecord .k 0x003 [(h, 1)] (endSession s)

/-! ### Pre-emption (R443) -/

/-- Partition 0 takes the session. -/
def preemptNow (s : State) : State :=
  let former := s.updHolder
  let st := s.updState
  if st = Us.activating then { s with upd := { s.upd with preempt := true } }
  else
    let s := doIf (st != Us.trial && st != Us.pendingReset && former != 7)
      (fun s =>
        let s := doIf s.upd.wait.isSome
          (fun s => complete .upd ((Config.preemptCode s.freeCtr).val + 1) 0 { s with freeCtr := s.freeCtr + 1 }) s
        lapseSession former s) s
    let s := updHold 0 { s with upd := { s.upd with preempt := false, lastCmd := s.now } }
    updRecord .k 0x004 [(former, 1)] s

/-- A pre-emption that waited for an activation. -/
def latePreempt (s : State) : State := doIf s.upd.preempt preemptNow s

/-- A write to UPD_PREEMPT: any partition but partition 0 with UPDATE is denied. -/
def preemptWrite (fn : Fn) (p : Nat) (one : Bool) (s : State) : State :=
  if p = 0 && s.right 0 Right.update then doIf one preemptNow s else denied fn R.updPreempt 1 s

def execUpdPreempt (fn : Fn) (s : State) : Res :=
  guardWf (fnOk fn) (access fn R.updPreempt 1 (fun p _ _ s => preemptWrite fn p true s) s)

/-! ### OPEN (R446) -/

/-- Check 9 and the acts of OPEN. -/
def openFinish (b : Bytes) (s : State) : State :=
  let s := { s with upd := { s.upd with wait := none } }
  match contentKey s.upd.cfg.rootKey b with
  | .error f => updDone f.1 f.2 s
  | .ok key =>
    let s := setSlot s.staging emptySlot s
    let s := setSlot s.staging { emptySlot with head := slotHead Ss.downloading, manifest := b } s
    let s := forEach [0, 1, 2, 3, 4] (fun i s => s.wr (R.updRcvd i) 0) s
    updDone Code.ok 0 (updTo Us.isOpen ((({ s with upd := { s.upd with hidden := key } } : State)).inc (R.updCtr 0)))

/-- Begin an act that needs the seal engine: now, or when the lock is free (R408). -/
def whenLockFree (w : UpdWait) (act : State → State) (s : State) : State :=
  if s.holder = 7 then act (lockPass s) else { s with upd := { s.upd with wait := some (s.now, w) } }

/-- The checks of R446 before the content key: the manifest `b` with its signature block is `len` bytes long. -/
def openChecks (s : State) (len : Nat) (b : Bytes) : List (Bool × Fail) :=
  (manLen b + 512 == len, (Code.length, 0x05)) :: (manChecks s.upd.cfg.updKeys b ++
    [(decide (s.upd.cfg.minSet ≤ manVersion b), (Code.incompatible, 0x40)), manCompatCheck b])

/-- OPEN by partition `p`. -/
def openAct (p : Nat) (d : Dma) (s : State) : State :=
  let s := updHold p s
  let len := s.fld R.updArg1 F.updArg1Length
  if s.fld R.updArg0 F.updArg0Addr % 64 != 0 then updDone Code.length 0x04 s
  else if 4352 < len then updDone Code.length 0x05 s
  else match d with
    | .data x =>
      let b := slice 0 len x
      match firstBad (openChecks s len b) with
      | some f => updDone f.1 f.2 s
      | none => whenLockFree (.opening b) (openFinish b) s
    | f => updDone (dmaCode f) 0 (dmaFault p s)

/-! ### WRITE (R447) -/

/-- Where image `i` starts in its slot (R438). -/
def imgStart (man : Bytes) (i : Nat) : Nat :=
  0x2000 + ((List.range i).map (fun j => ceilDiv (entryLen (manEntry man j)) 4096 * 4096)).sum

def writeAct (p comp : Nat) (d : Dma) (progOk : Bool) (s : State) : State :=
  let i := comp - 1
  if comp = 0 || 5 < comp then updDone Code.notfound 0 s
  else
    let n := s.staging
    let total := entryLen (manEntry (s.slot n).manifest i)
    let off := s.fld R.updArg1 F.updArg1Offset
    let len := s.fld R.updArg1 F.updArg1Length
    if off != s.fld (R.updRcvd i) F.updRcvdReceived || 1048576 < len || (len % 4096 != 0 && off + len != total) ||
        total < off + len then updDone Code.length 0x43 s
    else match d with
      | .data x =>
        let k := s.slot n
        if progOk then
          let images := k.images.set i (k.images.getD i [] ++ slice 0 len x)
          let s := setSlot n { k with images := images } s
          updDone Code.ok 0 (s.setFld (R.updRcvd i) F.updRcvdReceived (off + len))
        else
          let s := setSlot n { k with spoilt := true } s
          updDone Code.eccUncorrectable 0x42
            (updRecord .k 0x006 [(n, 1), (0x400000 + imgStart k.manifest i + off, 4)] s)
      | f => updDone (dmaCode f) 0 (dmaFault p s)

/-! ### VERIFY (R448, R449) -/

/-- Every record of an area by the rules of a SETTINGS image. -/
def convertArea (image : Bytes) (m : SMap Bytes) : SMap Bytes :=
  m.foldl (fun t e =>
    let r := Config.settingsConvert image e.1 e.2
    smapInsert r.1 (slice 0 56 r.2) t) []

/-- The settings are converted where the SETTINGS hash differs from the running one. -/
def convertSettings (man key : Bytes) (images : List Bytes) (s : State) : State :=
  if (manHashes man).getD 4 [] == s.upd.run.hashes.getD 4 [] then s
  else
    let a := s.upd.bcr.confArea
    let s := setArea (1 - a) (convertArea (imgPlain man key 4 (images.getD 4 [])) (s.area a)) s
    writeBcr { s.upd.bcr with dual := true } s

/-- The checks of all images in TYPE order. -/
def allImgChecks (s : State) : List (Bool × Fail) :=
  let k := s.slot s.staging
  (!k.spoilt, (Code.tagFail, 0x47)) ::
    (List.range 5).flatMap (fun i => imgChecks s.upd.cfg.plateKeys k.manifest s.upd.hidden i (k.images.getD i []))

def verifyFinish (s : State) : State :=
  let s := { s with upd := { s.upd with wait := none } }
  match firstBad (allImgChecks s) with
  | some f => updDone f.1 f.2 (updTo Us.isOpen s)
  | none =>
    let n := s.staging
    let k := s.slot n
    let s := convertSettings k.manifest s.upd.hidden k.images s
    updDone Code.ok 0 (updTo Us.verified (setSlot n (k.to Ss.verified) s))

def verifyAct (s : State) : State :=
  let man := (s.slot s.staging).manifest
  let all := (List.range 5).all (fun i => s.fld (R.updRcvd i) F.updRcvdReceived == entryLen (manEntry man i))
  if all then whenLockFree .verify verifyFinish (updTo Us.verifying s) else updDone Code.length 0x44 s

/-- The seal lock has not become free within 60 s. -/
def sealWaitTimeout (s : State) : State :=
  match s.upd.wait with
  | some (t, .verify) =>
    if 60 * ticksPerSec + t ≤ s.now then
      updDone Code.timeout 0x4D (updTo Us.isOpen { s with upd := { s.upd with wait := none } })
    else s
  | _ => s

def execUpdSealWaitTimeout (s : State) : Res := guardWf true (sealWaitTimeout s)

/-! ### Switching components (R452) -/

/-- A plate swap of the update controller: the one of the swap point without a plate command. -/
def updSwap (b : Nat) (s : State) : State :=
  let hitless := s.carvingMatch b
  let old := s.plate.live
  let s := { s with plate := { s.plate with swapAt := s.now } }
  let s := match old with
    | some l => bankTo l Pb.draining s
    | none => s
  let s := goLive b s
  let s := (s.wr R.plateSwapTs0 (BitVec.ofNat 64 (stampLo s.now))).wr R.plateSwapTs1 (BitVec.ofNat 64 (stampHi s.now))
  let s := s.inc R.plateSwapCount
  match old with
  | some l => doIf (!hitless) (drainDone l) s
  | none => s

/-- The bank that is not live. -/
def State.spareBank (s : State) : Nat :=
  match s.plate.live with
  | some b => 1 - b
  | none => 0

def setByUpd (b : Nat) (x : Bool) (s : State) : State := setBank b { s.bank b with byUpd := x } s

/-- The content key of a slot in flash; none where its blob does not unwrap. -/
def State.slotKey (s : State) (n : Nat) : Except Fail Bytes := contentKey s.upd.cfg.rootKey (s.slot n).manifest

/-- The plaintext of image `i` of a slot under the key in the hidden slot (R436). -/
def State.slotPlain (s : State) (n i : Nat) : Bytes :=
  imgPlain (s.slot n).manifest s.upd.hidden i ((s.slot n).images.getD i [])

def setHidden (k : Bytes) (s : State) : State := { s with upd := { s.upd with hidden := k } }

/-- Act on a slot with its content key in the hidden slot (R436); what the hidden slot held is put back, the key of the
session, or nothing at boot. -/
def underKey (n : Nat) (act : State → State) (s : State) : State :=
  match s.slotKey n with
  | .error _ => s
  | .ok k => setHidden s.upd.hidden (act (setHidden k s))

/-- Mailbox commands pending as the steward stops complete with TIMEOUT, and so does a load whose signature it was
verifying (R38, R52, R285, R366). -/
def stewardDrop (s : State) : State :=
  let s := forEach [0, 1, 2, 3] (fun p s => doIf (s.busy (.mbx p)) (complete (.mbx p) Code.timeout 0) s) s
  let s := match s.plate.loading with
    | some b => doIf (s.bankState b == Pb.verifying) (plateFail b (Code.timeout, 0x10)) s
    | none => s
  let s := loadDrop s
  match s.cal.loading with
  | some b => doIf (s.calState b == Cb.verifying) (calFail b (Code.timeout, 0x10)) s
  | none => s

/-- The steward restarts on another image (R37, R38). -/
def restartSteward (s : State) : State :=
  let s := stewardDrop s
  { s with boot := { s.boot with restarting := true } }

/-! #### The two sections of the microcode -/

/-- The microcode of a slot whose images have been checked begins to be switched: the vendor region under the hold of R367,
the T-die section at the next multiframe boundary with T-die commands held; `k` follows both. -/
def microSwitch (k : McNext) (n : Nat) (s : State) : State :=
  let b := s.slotPlain n 1
  let s := { s with upd := { s.upd with tload := some (Config.tSection b), mcNext := some k } }
  loadVendor b s

/-- A held command is carried out. -/
def runHeld (h : HeldCmd) (s : State) : State :=
  match h with
  | .bpm fn p op pool i ecc => bpmAct fn p op pool i ecc s
  | .q fn p op obj i ecc => qAct fn p op obj i ecc s
  | .sched op b gen v => schedPerform op b gen v s

/-- The T-die section is written, and the commands held for it are carried out in their order. -/
def tSwitch (s : State) : State :=
  match s.upd.tload with
  | none => s
  | some b =>
    let held := s.upd.tHeld
    forEach held runHeld { s with upd := { s.upd with tload := none, tHeld := [], tMicro := b } }

/-! #### The way back (R453, R458) -/

/-- The plate of slot `n` goes live: from the other bank if that still holds it, else reloaded there (R458); a proof of the
host's that stands there is aborted first. Nothing is to be done where it is live. -/
def plateBack (n : Nat) (s : State) : State :=
  let img := s.slotPlain n 3
  let b := s.spareBank
  let proof := s.bankState b == Pb.proof
  if (s.bank (s.plate.live.getD 2)).image == img then s
  else updSwap b (if proof && (s.bank b).image == img then s
    else plateProof b img (bankTo b Pb.loading (doIf proof (bankTo b Pb.empty) s)))

/-- The first check that fails on the images that come back from slot `n`: the content key, TAG, DIGEST and signature of
each, the checks of R51 on the plate (R408, R420). -/
def backFail (s : State) (n : Nat) : Option Fail :=
  match s.slotKey n with
  | .error f => some f
  | .ok key =>
    let k := s.slot n
    firstBad ([0, 1, 2, 3].flatMap (fun i => imgChecks s.upd.cfg.plateKeys k.manifest key i (k.images.getD i [])))

/-- The steward and the plate come back too; they had not been switched where the plate failed (R453). -/
def Back.whole : Back → Bool
  | .undo 4 _ => false
  | _ => true

/-- The plate of slot `n` is live. -/
def State.plateLive (s : State) (n : Nat) : Bool :=
  match s.slotKey n with
  | .error _ => true
  | .ok k => (s.bank (s.plate.live.getD 2)).image == (setHidden k s).slotPlain n 3

/-- The way back cannot begin: the seal lock is held (R408), or the plate has to change while a plate command is in progress,
whose target no other act may change (R551), or while a bank drains, from which only the drain leads (R55). DESIGN CHOICE:
the whole of it waits for both; log 152. -/
def State.backHeld (s : State) (k : Back) : Bool :=
  s.holder != 7 || (k.whole && !s.plateLive s.upd.bcr.confirmed && (s.busy .plate || s.draining.isSome))

/-- A return of the confirmed set waits to begin. -/
def State.backWaits (s : State) : Bool :=
  match s.upd.wait with
  | some (_, .back _) => true
  | _ => false

/-- A return of the confirmed set waits or is under way, or a microcode is being switched. -/
def State.switching (s : State) : Bool := s.upd.mcNext.isSome || s.backWaits

/-! ### ACTIVATE (R451 to R455) -/

/-- The record that names the trial (step 3 of R452). -/
def trialBcr (s : State) : Bcr :=
  { s.upd.bcr with trial := true, trialSlot := s.staging, tries := 0,
                   trialId := manSetId (s.slot s.staging).manifest }

/-- A command fails before a component has been switched: the proof is aborted, STATE is VERIFIED (R453). -/
def activateEnd (f : Fail) (s : State) : State :=
  let b := s.spareBank
  let s := doIf (s.bankState b == Pb.proof && (s.bank b).byUpd) (bankTo b Pb.empty) s
  latePreempt (updDone f.1 f.2 (updTo Us.verified (setByUpd b false s)))

/-- A copy of the record fails to program: it is written once more with the content in force before, and if that fails
as well the copies hold what they hold (R453). -/
def bcrRepair (chip : Nat) (rewriteFails : Bool) (s : State) : State :=
  let old := s.upd.bcr
  let trialB := { trialBcr s with seq := (old.seq + 1) % 2 ^ 32 }
  let fixed := { old with seq := (old.seq + 2) % 2 ^ 32 }
  let s :=
    if rewriteFails then
      let pick := fun (n : Nat) => match n with
        | 0 => bcrBytes old
        | 1 => bcrBytes trialB
        | 2 => bcrBytes fixed
        | _ => blank64
      let left := Config.bcrLeft s.freeCtr
      let copies := [pick left.1, pick left.2]
      useBcr ((newestBcr copies).getD emptyBcr)
        (flashTo (fun f => { f with bcr := copies }) { s with freeCtr := s.freeCtr + 1 })
    else useBcr fixed (writeCopies fixed s)
  updRecord .k 0x006 [(chip, 1), (0x10000, 4)] s

/-- A failure in step 4 or 5 after the components switched so far have been switched back (R453). -/
def activateUndo (type code : Nat) (s : State) : State :=
  let s := writeBcr s.upd.bcr.noTrial s
  let s := updRecord .k 0x005 [(type, 1), (code, 1)] s
  let s := { s with upd := { s.upd with readyWait := none } }
  latePreempt (updDone code (0x48 + type - 1) (updTo Us.verified (setByUpd s.spareBank false s)))

/-- The confirm timer starts. -/
def startConfirm (s : State) : State := { s with upd := { s.upd with confirmAt := some s.now } }

/-- The record of a reversion, its count, and its bit (R456, R459, R462). -/
def revertMark (setId cause : Nat) (s : State) : State :=
  let s := updRecord .k 0x002 [(setId, 8), (cause, 1)] s
  (s.inc (R.updCtr 3)).setFld R.updStatus F.updStatusReverted 1

/-- What a REVERT writes (R458), its record and its interrupt; a command completes, with the failure of the way back where
there was one. -/
def revertEnd (cause : Nat) (cmd : Bool) (f : Option Fail) (s : State) : State :=
  let id := s.upd.bcr.trialId
  let st := if s.updState = Us.trial && s.upd.trialBoot then Us.pendingReset else Us.idle
  let s := dropNewArea s.upd.bcr.noTrial s
  let s := updTo st { s with upd := { s.upd with confirmAt := none } }
  let s := raiseRight 14 Right.update (revertMark id cause s)
  doIf cmd (updDone (f.getD (Code.ok, 0)).1 (f.getD (Code.ok, 0)).2) s

/-- The confirmed set is back, or could not come back. DESIGN CHOICE: where an image of it does not check, nothing is
switched back and the act ends as it would have; log 128. -/
def backFinish (k : Back) (f : Option Fail) (s : State) : State :=
  let c := s.upd.bcr.confirmed
  let s := doIf f.isNone
    (fun s => { s with upd := { s.upd with run := s.upd.prev.getD (setOf c (s.slot c).manifest), prev := none } }) s
  match k with
  | .undo type code => activateUndo type code s
  | .revert cause cmd => revertEnd cause cmd f s

/-- The components are switched back in the reverse order: the steward, the plate, the microcode (R453, R458). -/
def backGo (k : Back) (s : State) : State :=
  let n := s.upd.bcr.confirmed
  let s := lockPass { s with upd := { s.upd with wait := none } }
  match backFail s n with
  | some f => backFinish k (some f) s
  | none =>
    let s := doIf k.whole restartSteward s
    underKey n (fun s => microSwitch (.back k) n (doIf k.whole (plateBack n) s)) s

/-- The confirmed set comes back, now or when it can. -/
def backStart (k : Back) (s : State) : State :=
  let s := drainEnd s
  if s.backHeld k then { s with upd := { s.upd with wait := some (s.now, .back k) } } else backGo k s

/-- A return of the confirmed set that waits tries again. -/
def lateBack (s : State) : State :=
  match s.upd.wait with
  | some (_, .back k) => if s.backHeld k then s else backGo k s
  | _ => s

/-- Steps 4 and 5, the record written: the microcode is switched first, unless one of the components up to it fails. -/
def activateSwitch (sw : SwitchEnd) (s : State) : State :=
  match sw with
  | .failed type code =>
    if type = 1 || type = 4 then microSwitch (.forward sw) s.staging s else activateUndo type code s
  | _ => microSwitch (.forward sw) s.staging s

/-- Once the microcode has been switched, the plate and then the steward follow. A proof that an error in the store took
meanwhile is a plate that cannot be switched. -/
def forwardGo (sw : SwitchEnd) (s : State) : State :=
  let b := s.spareBank
  match sw with
  | .failed 4 code => backStart (.undo 4 code) s
  | _ =>
    if s.bankState b != Pb.proof then backStart (.undo 4 Code.eccUncorrectable) s
    else
      let s := { s with upd := { s.upd with prev := some s.upd.run, run := setOf s.staging (s.slot s.staging).manifest } }
      let s := restartSteward (setByUpd b false (updSwap b s))
      match sw with
      | .failed _ code => backStart (.undo 1 code) s
      | _ => { s with upd := { s.upd with readyWait := some s.now, trialBoot := false } }

/-- What waits for the microcode follows once both of its sections have been switched (R452). -/
def mcGo (s : State) : State :=
  match s.upd.mcNext with
  | none => s
  | some k =>
    if s.burin.vload.isSome || s.upd.tload.isSome then s
    else
      let s := { s with upd := { s.upd with mcNext := none } }
      match k with
      | .forward sw => forwardGo sw s
      | .back k => backFinish k none s

/-! The commands and events after which it can go. -/

def execPlateAbort (fn : Fn) (bank gen : Nat) (s : State) : Res :=
  guardWf (fnOk fn && bank < 2 && gen < 65536) (lateBack (plateIssue fn 3 bank gen s))
def execPlateLoadData (d : Dma) (storeOk : Bool) (s : State) : Res := guardWf true (lateBack (plateData d storeOk s))
def execPlateVerifyDone (s : State) : Res := guardWf true (lateBack (plateVerify s))
def execPlateSwapPoint (s : State) : Res := guardWf true (lateBack (swapPoint s))
def execPlateDrainEnd (s : State) : Res := guardWf true (lateBack (drainEnd s))
def execPlateDrainOverrun (s : State) : Res := guardWf true (lateBack (drainOverrun s))
def execPlateScrub (bank word : Nat) (ecc : Ecc) (s : State) : Res :=
  guardWf (bank < 2 && word < 1048576) (lateBack (plateScrub bank word ecc s))
def execBurinRegionSwitch (s : State) : Res := guardWf true (mcGo (burinSwitch s))

/-- A multiframe begins at which the T-die section is switched (R452). -/
def microBoundary (s : State) : State := mcGo (tSwitch s)

def execMultiframeBoundary (vote : Vote) (s : State) : Res :=
  guardWf (voteOk vote) (doIf s.mfDue microBoundary (multiframeBoundary vote s))

/-- DESIGN CHOICE: while the framer stands still, the T-die section is switched at a PTP multiframe boundary; log 164. -/
def execPtpMfBoundary (phaseIn phaseOut : Nat) (s : State) : Res :=
  guardWf true (doIf (!s.framerRun && decide (s.pwr.nextMf ≤ s.now)) microBoundary (ptpMfBoundary phaseIn phaseOut s))

/-- A SWAP whose proof an error in the store took completes before the bank is loaded (R551). -/
def lostSwap (s : State) : State :=
  match s.plate.swapTo with
  | some b => doIf (s.bankState b != Pb.proof) swapPoint s
  | none => s

/-- The steps of R452 once the seal engine is there. Each component's TAG and DIGEST are checked again, and the signature
of the microcode, whose vendor region is loaded (R349). -/
def activateSteps (sw : SwitchEnd) (s : State) : State :=
  let s := lostSwap { s with upd := { s.upd with wait := none } }
  let n := s.staging
  let b := s.spareBank
  let k := s.slot n
  let key := s.upd.hidden
  let s := bankTo b Pb.loading s
  match firstBad (imgChecks s.upd.cfg.plateKeys k.manifest key 3 (k.images.getD 3 [])) with
  | some f => activateEnd f (bankTo b Pb.invalid s)
  | none =>
    let s := setByUpd b true (plateProof b (imgPlain k.manifest key 3 (k.images.getD 3 [])) s)
    let emit := match s.plate.live with
      | some l => s.fld (R.plateBank l) F.plateBankMetaEmit
      | none => 0
    let checks := [(s.carvingMatch b, (Code.quiesceRequired, 0x0E)),
      (s.plate.live.isNone || (s.bank b).metaAcc.contains emit, (Code.incompatible, 0x0D))] ++
      [0, 1, 2].flatMap (fun i => imgLoadChecks k.manifest key i (k.images.getD i []))
    match firstBad checks with
    | some f => activateEnd f s
    | none =>
      match sw with
      | .flashFail chip rw => activateEnd (Code.eccUncorrectable, 0x42) (bcrRepair chip rw s)
      | sw => activateSwitch sw (writeBcr (trialBcr s) s)

/-- ACTIVATE (R451 to R455). DESIGN CHOICE: the update controller counts as loading the bank (R57) from the acceptance on,
also while it waits for the seal lock; log 152. -/
def activateAct (sw : SwitchEnd) (s : State) : State :=
  let man := (s.slot s.staging).manifest
  let b := s.spareBank
  if manMode man = 1 then
    match sw with
    | .flashFail chip rw =>
      latePreempt (updDone Code.eccUncorrectable 0x42 (updTo Us.verified (bcrRepair chip rw s)))
    | _ => updDone Code.ok 0 (updTo Us.pendingReset ((writeBcr (trialBcr s) s).inc (R.updCtr 1)))
  else if s.bankState b != Pb.empty && s.bankState b != Pb.invalid then updDone Code.bankBusy 0 s
  else if !compatHas man (tupleOf s.upd.run.hashes) then updDone Code.incompatible 0x41 s
  else whenLockFree (.activate sw) (activateSteps sw) (setByUpd b true (updTo Us.activating s))

/-- The new steward firmware reports ready; later than 500 ms after its restart, the activation has failed. -/
def stewardReady (s : State) : State :=
  match s.upd.readyWait with
  | none => s
  | some t =>
    if t + msT 500 < s.now then
      backStart (.undo 1 Code.timeout) { s with upd := { s.upd with readyWait := none } }
    else
      let s := { s with boot := { s.boot with restarting := false }, upd := { s.upd with readyWait := none } }
      latePreempt (updDone Code.ok 0 (startConfirm (updTo Us.trial (s.inc (R.updCtr 1)))))

def execStewardReady (s : State) : Res := guardWf true (stewardReady s)

/-! ### CONFIRM and REVERT (R457 to R459) -/

def confirmAct (s : State) : State :=
  let s := writeBcr { s.upd.bcr with tries := 0, confirming := true } s
  let b := s.upd.bcr
  let oldArea := b.confArea
  let s := writeBcr { b with trial := false, confirming := false, confirmed := b.trialSlot, confId := b.trialId,
                             trialId := 0, confArea := if b.dual then 1 - b.confArea else b.confArea, dual := false } s
  let s := doIf b.dual (setArea oldArea []) s
  let s := { s with upd := { s.upd with confirmAt := none, prev := none, trialBoot := false } }
  updTo Us.idle (s.inc (R.updCtr 2))

/-- REVERT, by a command or by the timer: after an activation that switched components they come back first (R458). -/
def revertAct (cause : Nat) (cmd : Bool) (s : State) : State :=
  if s.updState = Us.trial && !s.upd.trialBoot then
    backStart (.revert cause cmd) { s with upd := { s.upd with confirmAt := none } }
  else revertEnd cause cmd none s

/-- The confirm timer runs out; a CONFIRM_S of 0 stops it. -/
def confirmExpire (s : State) : State :=
  let n := s.fld R.updCfg F.updCfgConfirmS
  match s.upd.confirmAt with
  | some t => doIf (s.updState == Us.trial && n != 0 && t + n * ticksPerSec ≤ s.now) (revertAct 0 false) s
  | none => s

def execConfirmTimerExpire (s : State) : Res := guardWf true (confirmExpire s)

/-- A write of UPD_CFG: a CONFIRM_S of 0 stops the timer. -/
def updCfgEffect (s : State) : State :=
  if s.fld R.updCfg F.updCfgConfirmS = 0 then { s with upd := { s.upd with confirmAt := none } } else s

/-! ### The session (R441, R442, R444, R445) -/

/-- The states in which a command is listed (R445). -/
def updAllowed (s : State) (op p : Nat) : Bool :=
  let st := s.updState
  match op with
  | 2 | 3 => st == Us.isOpen
  | 4 => st == Us.verified
  | 5 => st == Us.trial
  | 6 => st == Us.trial || (st == Us.pendingReset && s.upd.bcr.trial)
  | 7 => s.updHolder == p && (st == Us.idle || st == Us.isOpen || st == Us.verified)
  | _ => false

/-- A write to UPD_CMD that the map let through; `comp` is the COMP of a WRITE, which R546 judges with the opcode. -/
def updCommand (fn : Fn) (op p comp : Nat) (act : State → State) (s : State) : State :=
  issue .upd op p (fun s =>
    let h := s.updHolder
    let s := doIf (h == p) (fun s => { s with upd := { s.upd with lastCmd := s.now } }) s
    if s.boot.restarting || s.switching then complete .upd Code.busy 0 s
    else if op = 0 || 7 < op || (op == 2 && (comp == 0 || 5 < comp)) then complete .upd Code.notfound 0 s
    else if !s.right p Right.update then failCmd .upd fn Code.denied s
    else if h != 7 && h != p then complete .upd Code.updBusy 0 s
    else if op = 1 then (if s.updState = Us.idle then act s else complete .upd Code.updBusy 0 s)
    else if updAllowed s op p then act (doIf (h == 7) (updHold p) s)
    else complete .upd Code.notfound 0 s) s

def updIssue (fn : Fn) (op comp : Nat) (act : Nat → State → State) (s : State) : State :=
  access fn R.updCmd 1 (fun p _ _ s =>
    updCommand fn op p comp (act p) s) s

/-- CLOSE: the session ends as under R442, without a record. -/
def closeAct (s : State) : State := updDone Code.ok 0 (endSession s)

def execUpdOpen (fn : Fn) (manifest : Dma) (s : State) : Res :=
  guardWf (fnOk fn) (updIssue fn 1 0 (fun p => openAct p manifest) s)
def execUpdWrite (fn : Fn) (comp : Nat) (chunk : Dma) (progOk : Bool) (s : State) : Res :=
  guardWf (fnOk fn && comp < 256) (updIssue fn 2 comp (fun p => writeAct p comp chunk progOk) s)
def execUpdVerify (fn : Fn) (s : State) : Res := guardWf (fnOk fn) (updIssue fn 3 0 (fun _ => verifyAct) s)
/-- The operands of an ACTIVATE name a flash, or a component and a code of R13. -/
def switchOk : SwitchEnd → Bool
  | .done => true
  | .flashFail chip _ => chip < 2
  | .failed type code => 1 ≤ type && type ≤ 5 && 1 ≤ code && code < 16
def execUpdActivate (fn : Fn) (sw : SwitchEnd) (s : State) : Res :=
  guardWf (fnOk fn && switchOk sw) (updIssue fn 4 0 (fun _ => activateAct sw) s)
def execUpdConfirm (fn : Fn) (s : State) : Res :=
  guardWf (fnOk fn) (updIssue fn 5 0 (fun _ s => updDone Code.ok 0 (confirmAct s)) s)
def execUpdRevert (fn : Fn) (s : State) : Res :=
  guardWf (fnOk fn) (updIssue fn 6 0 (fun _ => revertAct 2 true) s)
def execUpdClose (fn : Fn) (s : State) : Res := guardWf (fnOk fn) (updIssue fn 7 0 (fun _ => closeAct) s)

/-- A session without an accepted command for 600 s lapses. -/
def sessionLapse (s : State) : State :=
  let st := s.updState
  let h := s.updHolder
  let live := (st == Us.idle && h != 7) || st == Us.isOpen || st == Us.verified
  if live && !s.busy .upd && 600 * ticksPerSec + s.upd.lastCmd ≤ s.now then
    lapseSession h s
  else s

def execUpdSessionLapsed (s : State) : Res := guardWf true (sessionLapse s)

/-- The seal lock is free: the update controller takes it ahead of any ACQUIRE (R408). -/
def updResume (s : State) : State :=
  if s.holder = 7 then
    match s.upd.wait with
    | some (_, .opening b) => openFinish b (lockPass s)
    | some (_, .verify) => verifyFinish (lockPass s)
    | some (_, .activate sw) => activateSteps sw (lockPass s)
    | some (_, .back _) => lateBack s
    | none => s
  else s

end Sys2Proof.Machine
end

