-- ==== Sys2Proof/Machine/Seal.lean ====
section
/-! DEFINITION. The seal engine (R404 to R429): taking, giving up and breaking the lock, key slots and nonces, UNWRAP,
ENCRYPT, DECRYPT and CLEAR. -/

namespace Sys2Proof.Machine

/-! ### The lock (R404 to R408) -/

/-- The lock is free again; the update controller is first to take it. -/
def lockFree (s : State) : State := updResume (lockTo 7 s)

/-- ACQUIRE. -/
def lockAcquire (fn : Fn) (p : Nat) (s : State) : State :=
  if !s.right p Right.sealEng then denied fn R.sealLock 1 s
  else if s.holder = 7 then lockTo p s
  else s

/-- RELEASE by the holder, with no command in progress. -/
def lockRelease (p : Nat) (s : State) : State := if s.holder = p && !s.busy .sealE then lockFree s else s

/-- BREAK by partition 0 of another partition's lock. -/
def lockBreak (p : Nat) (s : State) : State :=
  let h := s.holder
  if p = 0 && s.right 0 Right.sealEng && 1 ≤ h && h < 4 then
    report .f 0x0A 0 .k 0x003 [(h, 1), (0, 1)] ((lockFree s).inc (R.sealCount 3))
  else s

/-- A write to SEAL_LOCK acts by its bits, the lowest first. -/
def lockWrite (fn : Fn) (p : Nat) (w : Word) (s : State) : State :=
  let s := doIf (getF w F.sealLockAcquire == 1) (lockAcquire fn p) s
  let s := doIf (getF w F.sealLockRelease == 1) (lockRelease p) s
  doIf (getF w F.sealLockBreak == 1) (lockBreak p) s

def execSealAcquire (fn : Fn) (s : State) : Res :=
  guardWf (fnOk fn) (access fn R.sealLock 1 (fun p _ _ s => lockAcquire fn p s) s)
def execSealRelease (fn : Fn) (s : State) : Res :=
  guardWf (fnOk fn) (access fn R.sealLock 1 (fun p _ _ s => lockRelease p s) s)
def execSealBreak (fn : Fn) (s : State) : Res :=
  guardWf (fnOk fn) (access fn R.sealLock 1 (fun p _ _ s => lockBreak p s) s)

/-- A reset of the holder's function releases the lock (R406). -/
def lockReset (p : Nat) (s : State) : State := if s.holder = p then lockFree s else s

/-! ### Key slots (R409, R414, R415, R426) -/

/-- States of a slot. -/
def slotEmpty : Nat := 0
def slotLoaded : Nat := 1
def slotExhausted : Nat := 2

def State.keyState (s : State) (n : Nat) : Nat := s.fld (R.sealSlot n) F.sealSlotState
def State.keyUsage (s : State) (n : Nat) : Nat := s.fld (R.sealSlot n) F.sealSlotUsage
def State.slotFixed (s : State) (n : Nat) : Nat := s.fld (R.sealSlot n) F.sealSlotFixed
def State.keyBytes (s : State) (n : Nat) : Bytes := smapGet (fun _ => zeros 32) n s.sealSt.keys

/-- Every field of the slot is zeroed (R413). -/
def slotClear (n : Nat) (s : State) : State :=
  let s := { s with sealSt := { s.sealSt with keys := smapErase n s.sealSt.keys } }
  ((s.wr (R.sealSlot n) 0).wr (R.sealCtr n) 0).wr (R.sealSlotId n) 0

/-- The counter of a slot; one that has reached 2^64 − 1 exhausts the slot. -/
def slotCount (n c : Nat) (s : State) : State :=
  (s.wr (R.sealCtr n) (BitVec.ofNat 64 c)).setFld (R.sealSlot n) F.sealSlotState
    (if c = 2 ^ 64 - 1 then slotExhausted else slotLoaded)

/-- A key record takes its place in a slot. -/
def slotLoad (n : Nat) (r : Bytes) (id : Word) (ctr : Nat) (s : State) : State :=
  let s := { s with sealSt := { s.sealSt with keys := smapPut (fun _ => zeros 32) n (recordKey r) s.sealSt.keys } }
  let w := setF (setF 0 F.sealSlotFixed (recordFixed r)) F.sealSlotUsage (recordUsage r)
  slotCount n ctr ((s.wr (R.sealSlot n) w).wr (R.sealSlotId n) id)

/-! ### Commands (R417, R418) -/

/-- A seal command completes and is counted (R429). -/
def sealDone (code : Nat) (s : State) : State :=
  let s := doIf (code == Code.ok) (fun s => s.inc (R.sealCount 0)) s
  let s := doIf (code == Code.tagFail) (fun s => s.inc (R.sealCount 1)) s
  let s := doIf (code == Code.exhausted) (fun s => s.inc (R.sealCount 2)) s
  complete .sealE code 0 s

/-- A check fails; DENIED is logged. -/
def sealFail (fn : Fn) (code : Nat) (s : State) : State :=
  sealDone code (doIf (code == Code.denied) (denied fn R.sealCmd 2) s)

/-- Perform `act` if no check fails. -/
def sealChecks (fn : Fn) (checks : List (Bool × Nat)) (act : State → State) (s : State) : State :=
  match checks.find? (fun c => !c.1) with
  | some c => sealFail fn c.2 s
  | none => act s

/-- The words of a slot are read (R426). -/
def slotRead (n : Nat) (ecc : Ecc) (act : State → State) (s : State) : State :=
  match ecc with
  | .corr => act (report .f 0x0A 0 .c 0x001 [(n, 1)] s)
  | .uncorr => sealDone Code.eccUncorrectable (report .f 0x0A 0 .k 0x002 [(n, 1)] (slotClear n s))
  | _ => act s

/-- A command on a slot: only the holder's write takes effect (R404), and the slot must be granted (R409). -/
def sealIssue (fn : Fn) (op slot : Nat) (ecc : Ecc) (act : Nat → State → State) (s : State) : State :=
  access fn R.sealCmd 1 (fun p _ _ s =>
    if s.holder != p then denied fn R.sealCmd 1 s
    else issue .sealE op p (fun s =>
      let s := s.wr R.sealBytesOut 0
      sealChecks fn [(s.slotOk p slot, Code.denied)] (slotRead slot ecc (act p)) s) s) s

/-- `n` bytes read from host memory; none are read where `n` is 0. -/
def sealBytes (n : Nat) (d : Dma) : Option Bytes :=
  if n = 0 then some []
  else match d with
    | .data b => some (slice 0 n b)
    | _ => none

/-- A DMA read has failed (R423). -/
def sealDmaFail (p : Nat) (d : Dma) (s : State) : State := sealDone (dmaCode d) (dmaFault p s)

/-! ### UNWRAP and CLEAR (R412, R413) -/

/-- The key of a KEK: a slot, or the owner root key. -/
def kekKey (s : State) (k : Nat) : Bytes := if k = 0x20 then s.upd.cfg.rootKey else s.keyBytes k

/-- The checks of R413 on a blob that has been read, and the exhaustion of R415. -/
def unwrapChecks (s : State) (p : Nat) (b : Bytes) : List (Bool × Nat) :=
  let k := blobKek b
  let granted := k == 0x20 || (k < 32 && s.slotOk p k)
  [(granted, Code.denied), (k == 0x20 || s.keyState k != slotExhausted, Code.exhausted),
   (k == 0x20 || (s.keyState k == slotLoaded && nbit (s.keyUsage k) 2), Code.denied), (blobFormOk b, Code.length)]

/-- The words of the KEK's slot are read (R426); the owner root key stands in no slot. -/
def kekRead (k : Nat) (kekEcc : Ecc) (act : State → State) (s : State) : State :=
  if k = 0x20 then act s else slotRead k kekEcc act s

def unwrapAct (fn : Fn) (slot : Nat) (blob : Dma) (kekEcc : Ecc) (p : Nat) (s : State) : State :=
  if s.keyState slot != slotEmpty then sealFail fn Code.nospace s
  else match blob with
    | .data x =>
      let b := slice 0 64 x
      sealChecks fn (unwrapChecks s p b) (kekRead (blobKek b) kekEcc (fun s =>
        match blobRecord (kekKey s (blobKek b)) b with
        | none => sealFail fn Code.tagFail s
        | some r =>
          if recordOk r then sealDone Code.ok (slotLoad slot r (blobId b) (s.rd R.sealIv0).toNat s)
          else sealFail fn Code.length s)) s
    | d => sealDmaFail p d s

def execSealUnwrap (fn : Fn) (slot : Nat) (blob : Dma) (ecc kekEcc : Ecc) (s : State) : Res :=
  guardWf (fnOk fn && slot < 32) (sealIssue fn 1 slot ecc (unwrapAct fn slot blob kekEcc) s)

def execSealClear (fn : Fn) (slot : Nat) (ecc : Ecc) (s : State) : Res :=
  guardWf (fnOk fn && slot < 32) (sealIssue fn 4 slot ecc (fun _ s => sealDone Code.ok (slotClear slot s)) s)

/-! ### ENCRYPT and DECRYPT (R414, R418 to R423) -/

/-- Checks 3 to 5 of R418; `use` is the bit of USAGE. -/
def cryptChecks (s : State) (slot use tagLen maxLen : Nat) : List (Bool × Nat) :=
  [(s.keyState slot != slotEmpty, Code.notfound), (s.keyState slot != slotExhausted, Code.exhausted),
   (nbit (s.keyUsage slot) use, Code.denied),
   (s.fld R.sealLen F.sealLenAadLen ≤ 1048576 && s.fld R.sealLen F.sealLenLen ≤ maxLen &&
     12 ≤ tagLen && tagLen ≤ 16, Code.length)]

/-- The nonce of the present counter (R414). -/
def slotNonce (s : State) (slot : Nat) : Bytes := toLe 4 (s.slotFixed slot) ++ toBe 8 (s.rd (R.sealCtr slot)).toNat

/-- A nonce is drawn: it stands in SEAL_IV_0 and SEAL_IV_1, and the counter is one higher. -/
def drawNonce (slot : Nat) (s : State) : State :=
  let iv := slotNonce s slot
  let c := (s.rd (R.sealCtr slot)).toNat
  slotCount slot (c + 1) ((s.wr R.sealIv0 (wordAt 0 iv)).wr R.sealIv1 (wordAt 1 iv))

/-- The result is written to host memory. -/
def sealOut (p : Nat) (b : Bytes) (s : State) : State :=
  let s := s.wr R.sealBytesOut (BitVec.ofNat 64 b.length)
  doIf (!b.isEmpty) (fun s => s.emit (.dmaWrite p (s.rd R.sealDst).toNat b)) s

/-- The read of the text fails after `part` of it: what the command has written by then, in units of `unit` bytes, stays
written, and SEAL_BYTES_OUT gives it (R423). How many of the units read have been written is open (log 156). -/
def sealCut (p unit : Nat) (d : Dma) (out : Bytes) (s : State) : State :=
  let n := Config.sealPart s.freeCtr % (out.length / unit + 1)
  sealDmaFail p d (sealOut p (out.take (unit * n)) { s with freeCtr := s.freeCtr + 1 })

/-- ENCRYPT; `part` is what a read of the text that fails has brought before. -/
def encryptAct (fn : Fn) (slot tagLen : Nat) (aad text : Dma) (part : Bytes) (p : Nat) (s : State) : State :=
  sealChecks fn (cryptChecks s slot 0 tagLen (2 ^ 32 - 1)) (fun s =>
    let iv := slotNonce s slot
    let key := s.keyBytes slot
    let s := drawNonce slot s
    match sealBytes (s.fld R.sealLen F.sealLenAadLen) aad with
    | none => sealDmaFail p aad s
    | some a =>
      match sealBytes (s.fld R.sealLen F.sealLenLen) text with
      | none => sealCut p 1 text (gcmCtr key iv (part.take (s.fld R.sealLen F.sealLenLen - 1))) s
      | some t =>
        let c := gcmCtr key iv t
        let tag := tagOf key iv a c tagLen
        let s := (s.wr R.sealTag0 (wordAt 0 tag)).wr R.sealTag1 (wordAt 1 tag)
        sealDone Code.ok (sealOut p c s)) s

def execSealEncrypt (fn : Fn) (slot tagLen : Nat) (aad text : Dma) (part : Bytes) (ecc : Ecc) (s : State) : Res :=
  guardWf (fnOk fn && slot < 32 && tagLen < 32) (sealIssue fn 2 slot ecc (encryptAct fn slot tagLen aad text part) s)

/-- The plaintext bytes that a DECRYPT releases (R419, R421). -/
def released (stream tagOk : Bool) (text : Bytes) : Bytes :=
  if tagOk then text
  else if stream then text.take (4096 * (ceilDiv text.length 4096 - 1))
  else []

/-- DECRYPT; `part` is what a read of the text that fails has brought before. In verify mode nothing is written then. -/
def decryptAct (fn : Fn) (slot tagLen : Nat) (stream : Bool) (aad text : Dma) (part : Bytes) (p : Nat) (s : State) : State :=
  sealChecks fn (cryptChecks s slot 1 tagLen (if stream then 2 ^ 32 - 1 else 1048576)) (fun s =>
    let iv := slice 0 12 (toLe 8 (s.rd R.sealIv0).toNat ++ toLe 4 (s.rd R.sealIv1).toNat)
    let key := s.keyBytes slot
    let given := toLe 8 (s.rd R.sealTag0).toNat ++ toLe 8 (s.rd R.sealTag1).toNat
    match sealBytes (s.fld R.sealLen F.sealLenAadLen) aad with
    | none => sealDmaFail p aad s
    | some a =>
      match sealBytes (s.fld R.sealLen F.sealLenLen) text with
      | none =>
        if stream then sealCut p 4096 text (gcmCtr key iv (part.take (s.fld R.sealLen F.sealLenLen - 1))) s
        else sealDmaFail p text s
      | some c =>
        let ok := tagOf key iv a c tagLen == given.take tagLen
        sealDone (if ok then Code.ok else Code.tagFail) (sealOut p (released stream ok (gcmCtr key iv c)) s)) s

def execSealDecrypt (fn : Fn) (slot tagLen : Nat) (stream : Bool) (aad text : Dma) (part : Bytes) (ecc : Ecc) (s : State) : Res :=
  guardWf (fnOk fn && slot < 32 && tagLen < 32)
    (sealIssue fn 3 slot ecc (decryptAct fn slot tagLen stream aad text part) s)

end Sys2Proof.Machine
end

