-- ==== Sys2Proof/Machine/Hosts.lean ====
section
/-! DEFINITION. The host interface: resetting one partition (R384), interrupt registers (R391), acknowledging error
records (R400, R402), mailboxes (R393, R394, R449, R488 to R490) and the SMBus target (R395). -/

namespace Sys2Proof.Machine

/-! ### Resetting one partition (R384) -/

/-- A register that PERST_N and a function level reset put back: the per-partition sets but for counters and the
notification queue, whose contents survive. -/
def resetByPerst (d : RegDesc) : Bool :=
  d.perPart && !d.counter && !([Reg.burinNqBase, .burinNqCfg, .burinNqHead, .burinNqTail].contains d.reg)

/-- The registers of partition `p` take their reset values. -/
def perstRegs (p : Nat) (s : State) : State :=
  { s with regs := s.regs.filter (fun e =>
      match regAt e.1 with
      | some (d, ix) => !(resetByPerst d && ix.headD 0 == p)
      | none => true) }

/-- The partition of a held command. -/
def HeldCmd.part? : HeldCmd → Option Nat
  | .bpm _ p _ _ _ _ | .q _ p _ _ _ _ => some p
  | .sched _ _ _ _ => none

/-- Commands of partition `p` in progress complete internally and discard their completion. DESIGN CHOICE: those held for the
microcode of the T-die are carried out at once; log 164. -/
def dropCommands (p : Nat) (s : State) : State :=
  let mine := s.upd.tHeld.filter (fun h => h.part? == some p)
  let s := forEach mine runHeld { s with upd := { s.upd with tHeld := s.upd.tHeld.filter (fun h => h.part? != some p) } }
  let s := match s.q.flushes.getD p none with
    | some f => flushQue f.q { s with q := { s.q with flushes := s.q.flushes.set p none } }
    | none => s
  { s with
    tbl := { s.tbl with fenceC := s.tbl.fenceC.set p none, fenceR := s.tbl.fenceR.set p none, big := s.tbl.big.set p false }
    burin := { s.burin with
      deletes := s.burin.deletes.map (fun d => if d.1 = p then (4, d.2) else d)
      verify := s.burin.verify.map (fun l => if l.1 = p then (4, l.2) else l)
      load := s.burin.load.map (fun l => if l.1 = p then (4, l.2) else l) } }

/-- Packets that hold a buffer of a ring of partition `p` are dropped (R384, R388). -/
def dropRingPkts (p : Nat) (s : State) : State :=
  forEach s.pkts (fun e s =>
    match e.2.place with
    | .ring q r _ _ _ => doIf (q == p) (fun s => erasePkt e.1 (s.inc (R.ringCtr q r 2))) s
    | _ => s) s

/-- Interrupts, MSI-X state, held halves, latches and coalescing of partition `p`. -/
def dropInterrupts (p : Nat) (s : State) : State :=
  let h := s.host
  let k := fnKey (s.fnOf p)
  { s with host := { h with
      msixTbl := h.msixTbl.filter (fun e => e.1 / 512 != p)
      msixOpen := h.msixOpen.filter (fun v => v / 256 != p)
      msixPend := h.msixPend.filter (fun v => v / 256 != p)
      forced := h.forced.set p 0
      coal := h.coal.filter (fun e => e.1 / 64 != p)
      held := smapErase k h.held
      latch := h.latch.filter (fun e => e.1 % 4 != k) } }

/-- The host interface state of a partition is reset, and the seal lock released if it held it (R384, R406). -/
def resetPartition (p : Nat) (s : State) : State :=
  lockReset p (dropInterrupts p (perstRegs p (dropRingPkts p (dropCommands p s))))

/-- The enabled partitions of a port. -/
def State.partsOn (s : State) (port : Nat) : List Nat :=
  [0, 1, 2, 3].filter (fun p => s.enabled p && (s.fnOf p).port == port)

def perstSet (port : Nat) (x : Bool) (s : State) : State :=
  { s with host := { s.host with perst := s.host.perst.set port x } }

def inResetSet (p : Nat) (x : Bool) (s : State) : State :=
  { s with host := { s.host with inReset := s.host.inReset.set p x } }

/-- Link training of a port starts once PERST_N is high and the boot has passed stage 6 (R523). -/
def trainPort (port : Nat) (s : State) : State :=
  { s with host := { s.host with training := s.host.training.set port (s.locked && !s.host.perst.getD port false) } }

/-- PERST_N of a port is asserted. -/
def perstFall (port : Nat) (s : State) : State :=
  let s := trainPort port (perstSet port true s)
  forEach (s.partsOn port) (fun p s => inResetSet p true (resetPartition p s)) s

/-- PERST_N of a port is released: its partitions leave reset. -/
def perstRise (port : Nat) (s : State) : State :=
  let s := trainPort port (perstSet port false s)
  forEach (s.partsOn port) (fun p s => inResetSet p false s) s

/-- A function level reset. -/
def flr (fn : Fn) (s : State) : State :=
  if s.reached fn then
    match s.partOf fn with
    | some p => resetPartition p s
    | none => s
  else s

def execPerstN (port : Nat) (s : State) : Res := guardWf (port < 2) (perstFall port s)
def execPerstNRise (port : Nat) (s : State) : Res := guardWf (port < 2) (perstRise port s)
def execFunctionLevelReset (fn : Fn) (s : State) : Res := guardWf (fnOk fn) (flr fn s)

/-! ### Interrupt registers (R391, R402) -/

/-- A fatal source holds the pins until its status bit is cleared. -/
def keepForced (p : Nat) (s : State) : State :=
  { s with host := { s.host with
      forced := s.host.forced.set p (s.host.forced.getD p 0 &&& (s.rd (R.intStatus p)).toNat) } }

/-- A write of ones to INT_STATUS_p or INT_RING_STATUS_p clears those bits. -/
def intClear (p : Nat) (rings : Bool) (v : Word) (s : State) : State :=
  if rings then
    intWrite p 17 64 (R.intRingStatus p) (R.intRingEnable p) (s.rd (R.intRingStatus p) &&& ~~~v)
      (s.rd (R.intRingEnable p)) s
  else
    keepForced p (intWrite p 0 17 (R.intStatus p) (R.intEnable p) (s.rd (R.intStatus p) &&& ~~~v)
      (s.rd (R.intEnable p)) s)

/-- A write to INT_ENABLE_p or INT_RING_ENABLE_p. -/
def intEnableTo (p : Nat) (rings : Bool) (v : Word) (s : State) : State :=
  if rings then
    intWrite p 17 64 (R.intRingStatus p) (R.intRingEnable p) (s.rd (R.intRingStatus p)) v s
  else
    intWrite p 0 17 (R.intStatus p) (R.intEnable p) (s.rd (R.intStatus p)) (v &&& lowMask 17) s

def execIntStatusClear (fn : Fn) (rings : Bool) (v : Word) (s : State) : Res :=
  guardWf (fnOk fn) (access fn (if rings then R.intRingStatus ((s.partOf fn).getD 0) else R.intStatus ((s.partOf fn).getD 0)) 1
    (fun p _ _ s => intClear p rings v s) s)

/-- A vector is unmasked under PCIe: a message that waits is sent. -/
def unmask (p vec : Nat) (s : State) : State :=
  let k := 256 * p + vec
  let pend := s.host.msixPend.contains k
  let s := { s with host := { s.host with
    msixOpen := if s.host.msixOpen.contains k then s.host.msixOpen else s.host.msixOpen ++ [k]
    msixPend := s.host.msixPend.filter (· != k) } }
  doIf pend (fun s => s.emit (s.msiOut p vec)) s

/-- A vector is masked under PCIe. -/
def mask (p vec : Nat) (s : State) : State :=
  { s with host := { s.host with msixOpen := s.host.msixOpen.filter (· != 256 * p + vec) } }

def msixUnmask (fn : Fn) (vec : Nat) (s : State) : State :=
  if s.reached fn then
    let s := dropHeld fn s
    match s.partOf fn with
    | some p => unmask p vec s
    | none => s
  else s

/-! ### BAR2 (R373) -/

def setMsixWord (k : Nat) (w : Word) (s : State) : State :=
  { s with host := { s.host with msixTbl := smapPut (fun _ => 0) k w s.host.msixTbl } }

/-- A 64-bit word of BAR2 of a partition: the MSI-X table at 0, 16 bytes an entry (address, data, vector control with the
mask in bit 0), the pending bits at 0x8000. The layout is PCIe's; log 157. -/
def State.bar2Word (s : State) (p i : Nat) : Word :=
  if i < 512 then
    let w := smapGet (fun _ => (0 : Word)) (512 * p + i) s.host.msixTbl
    if i % 2 = 0 then w else setBit w 32 (!s.host.msixOpen.contains (256 * p + i / 2))
  else if 4096 ≤ i ∧ i < 4100 then
    (List.range 64).foldl (fun w n => setBit w n (s.host.msixPend.contains (256 * p + 64 * (i - 4096) + n))) 0
  else 0

/-- A word of the table is written: address, or data and vector control. -/
def bar2Write (p i : Nat) (w : Word) (s : State) : State :=
  if 512 ≤ i then s
  else if i % 2 = 0 then setMsixWord (512 * p + i) w s
  else
    let s := setMsixWord (512 * p + i) (w &&& lowMask 32) s
    if bitOf w 32 then mask p (i / 2) s else unmask p (i / 2) s

/-- A write of `size` bytes at an offset of BAR2; one of 32 bits leaves the other half of its word. Like every access it
ends what the function has held (R375). -/
def bar2Store (fn : Fn) (off size : Nat) (v : Word) (s : State) : State :=
  if !s.reached fn then s
  else
    let s := dropHeld fn s
    match s.partOf fn with
    | none => s
    | some p =>
      let old := s.bar2Word p (off / 8)
      if size = 8 ∧ off % 8 = 0 then bar2Write p (off / 8) v s
      else if size = 4 ∧ off % 4 = 0 then
        bar2Write p (off / 8) (setF old (if off % 8 = 0 then (31, 0) else (63, 32)) (v.toNat % 2 ^ 32)) s
      else s.emit (.unsupported fn)

/-- A read of `size` bytes at an offset of BAR2. -/
def bar2Load (fn : Fn) (off size : Nat) (s : State) : State :=
  if !s.reached fn then s
  else
    let s := dropHeld fn s
    let w := match s.partOf fn with
      | none => 0
      | some p => s.bar2Word p (off / 8)
    if size = 8 ∧ off % 8 = 0 then s.emit (.readReply fn (2 ^ 28 + off) w.toNat)
    else if size = 4 ∧ off % 4 = 0 then s.emit (.readReply fn (2 ^ 28 + off) (getF w (if off % 8 = 0 then (31, 0) else (63, 32))))
    else s.emit (.unsupported fn)

/-! ### Configuration requests (R532) -/

/-- How a function answers a configuration request. -/
inductive CfgAnswer where
  | silent | retry | success
  deriving DecidableEq, Repr

/-- Configuration Request Retry Status until PMAP_LOCK is set; a function that the strap does not present, or whose port is
in reset, answers nothing. -/
def State.configAnswer (s : State) (fn : Fn) : CfgAnswer :=
  if s.fld R.bootState F.bootStateState == 0 || !presented s.boot.straps.pcieMode fn || s.host.perst.getD fn.port false then .silent
  else if !s.locked then .retry
  else .success

def execMsixUnmask (fn : Fn) (vec : Nat) (s : State) : Res := guardWf (fnOk fn && vec < 256) (msixUnmask fn vec s)

/-! ### Error records (R400, R402) -/

def dieOf (n : Nat) : Die := if n = 0 then .f else .t

/-- A write to ERQ_ACK_d: SEQ and COUNT of the head record. -/
def ackWrite (n : Nat) (v : Word) (s : State) : State :=
  let seq := getF v F.erqAckSeq
  let cnt := getF v F.erqAckCount
  match s.erq (dieOf n) with
  | [] => s
  | r :: rest =>
    if seq ≠ s.fld (R.erqStat n) F.erqStatHeadSeq ∨ cnt = 0 ∨ r.count < cnt then s
    else if cnt = r.count then (setErq (dieOf n) rest s).setFld (R.erqStat n) F.erqStatHeadSeq ((seq + 1) % 65536)
    else (setErq (dieOf n) ({ r with count := r.count - cnt, stamp := r.last } :: rest) s).setFld (R.erqStat n)
      F.erqStatPartial 1

/-- A write of 1 to ERQ_FATAL_CLR_d. -/
def fatalClear (n : Nat) (s : State) : State :=
  forEach [0, 1, 2, 3] (fun i s => s.wr (R.erqFatal n i) 0) (s.setFld (R.erqStat n) F.erqStatFatal 0)

def execErqAck (fn : Fn) (die : Nat) (v : Word) (s : State) : Res :=
  guardWf (fnOk fn && die < 2) (access fn (R.erqAck die) 1 (fun _ _ _ s => ackWrite die v s) s)
def execErqFatalClr (fn : Fn) (die : Nat) (s : State) : Res :=
  guardWf (fnOk fn && die < 2) (access fn (R.erqFatalClr die) 1 (fun _ _ _ s => fatalClear die s) s)

/-! ### The calibration record (R484 to R490) -/

/-- MAGIC, FORMAT, TARGET_ID, TARGET_STEP and UNIT_ID. -/
def calibHeadOk (b : Bytes) : Bool :=
  leAt 0 4 b == 0x4143554F && leAt 4 2 b == 1 && leAt 8 4 b == devId && leAt 0x0C 4 b == devStep &&
    slice 0x10 16 b == toLe 16 Config.unitId

/-- WRITER, WRITE_COUNT and the CRC field. -/
def calibWriter (b : Bytes) : Nat := byteAt 6 b
def calibCount (b : Bytes) : Nat := leAt 0x20 4 b
def calibCrcField (b : Bytes) : Nat := leAt 0x24 4 b

/-- The CRC over bytes 0x0000 to 0xFDFF with its own field taken as 0. -/
def calibCrcOk (b : Bytes) : Bool := crc32c (patch 0x24 (zeros 4) (slice 0 0xFE00 b)) == calibCrcField b

/-- The signature: with the Ouvba key and KEY_INDEX 0 for WRITER 0, with an owner key for WRITER 1. -/
def calibSigOk (owner : KeySet) (b : Bytes) : Bool :=
  let sig := slice 0xFE00 512 b
  let keys := if calibWriter b = 0 then vendorKeys else owner
  calibWriter b ≤ 1 && (sigChecks keys (slice 0 0xFE00 b) sig).all (·.1)

/-- The grid holds exactly the values of R465. -/
def calibGridOk (b : Bytes) : Bool :=
  slice 0x40 28 b == gridV.flatMap (toLe 2) ++ gridT.flatMap (fun t => toLe 2 t.toNat) && allZero (slice 0x5C 36 b)

/-- Entry (v, t) of a curve, by class code. -/
def calibEntry (b : Bytes) (c v t : Nat) : Nat := leAt (0x80 + 96 * c + 2 * (6 * v + t)) 2 b

/-- A curve that is no reserved one is non-zero and no period rises with the voltage; a reserved one holds 0. -/
def calibCurveOk (b : Bytes) (c : Nat) : Bool :=
  if classOk c then
    (List.range 6).all (fun t => (List.range 8).all (fun v => calibEntry b c v t != 0) &&
      (List.range 7).all (fun v => calibEntry b c (v + 1) t ≤ calibEntry b c v t))
  else allZero (slice (0x80 + 96 * c) 96 b)

/-- The remaining conditions of R486: grid, curves, reserved bytes. -/
def calibRestOk (b : Bytes) : Bool :=
  calibGridOk b && (List.range 32).all (calibCurveOk b) && byteAt 7 b == 0 && allZero (slice 0x28 24 b) &&
    allZero (slice 0xCE0 32 b) && (List.range 96).all (fun c => leAt (0x2B02 + 4 * c) 2 b == 0) &&
    allZero (slice 0x2C80 896 b) && allZero (slice 0x8000 32256 b)

/-- A record is valid (R486). -/
def calibValid (owner : KeySet) (b : Bytes) : Bool :=
  b.length == 65536 && calibHeadOk b && calibCrcOk b && calibSigOk owner b && calibRestOk b

/-! ### Mailboxes (R393, R394) -/

/-- A mailbox command: BUSY before the steward runs and while it restarts (R394, R528). -/
def mbxIssue (p : Nat) (act : State → State) (s : State) : State :=
  let i := Ifc.mbx p
  if s.busy i then overrun i s
  else
    let s := accept i 0 p s
    if !s.boot.stewardUp || s.boot.restarting then complete i Code.busy 0 s else act s

def mbxData (p : Nat) (s : State) (i : Nat) : Nat := (s.rd (R.mbxData p i)).toNat

/-- VERSION. -/
def mbxVersion (p : Nat) (s : State) : State :=
  let b := toLe 8 Config.bootHash ++ (List.range 5).flatMap (fun i => slice 0 8 (s.upd.run.hashes.getD i [])) ++
    slice 0 8 (sha384 s.upd.run.compat)
  complete (.mbx p) Code.ok 0 (setData (R.mbxData p) 7 b s)

/-- A reading as a signed 16-bit value. -/
def temp16 (t : Int) : Nat := (t % 65536).toNat

/-- THERMAL: the last corrected readings, 0 for a sensor not yet read. -/
def mbxThermal (p : Nat) (s : State) : State :=
  complete (.mbx p) Code.ok 0
    (setData (R.mbxData p) 8 ((List.range 32).flatMap (fun i => toLe 2 (temp16 (s.pwr.temps.getD i 0)))) s)

def mbxPing (p : Nat) (s : State) : State := complete (.mbx p) Code.ok 0 s

/-- The area that the running firmware reads (R450). -/
def State.readArea (s : State) : Nat :=
  let b := s.upd.bcr
  if b.dual && b.trial && s.upd.run.slot == b.trialSlot then 1 - b.confArea else b.confArea

/-- SETTINGS_GET. -/
def settingsGet (p : Nat) (s : State) : State :=
  match smapFind (mbxData p s 0 % 2 ^ 32) (s.area s.readArea) with
  | none => complete (.mbx p) Code.notfound 0 s
  | some v => complete (.mbx p) Code.ok 0 (setData (fun i => R.mbxData p (i + 1)) 7 v s)

/-- The areas a PUT writes, in order (R449). -/
def State.putAreas (s : State) : List Nat :=
  if s.upd.bcr.dual then [s.upd.bcr.confArea, 1 - s.upd.bcr.confArea] else [s.upd.bcr.confArea]

/-- SETTINGS_PUT: to every area it must reach, or to none where one is full. -/
def settingsPut (p : Nat) (s : State) : State :=
  let key := mbxData p s 0 % 2 ^ 32
  let v := s.dataBytes (fun i => R.mbxData p (i + 1)) 7
  if s.putAreas.any (fun a => (smapFind key (s.area a)).isNone && Config.settingsCapacity ≤ (s.area a).length) then
    complete (.mbx p) Code.nospace 0 s
  else
    complete (.mbx p) Code.ok 0 (forEach s.putAreas (fun a s => setArea a (smapInsert key v (s.area a)) s) s)

/-- CALIB_READ: the whole record, or zeros in calibration-absent mode. -/
def calibRead (p : Nat) (d : Dma) (s : State) : State :=
  if mbxData p s 0 % 64 != 0 then complete (.mbx p) Code.length 0 s
  else match d with
    | .data _ =>
      let b := if s.pwr.absent then zeros 65536 else slice 0 65536 s.flash.calib
      complete (.mbx p) Code.ok 0 (s.emit (.dmaWrite p (mbxData p s 0) b))
    | f => complete (.mbx p) (dmaCode f) 0 (dmaFault p s)

/-- The checks of R489 on a record that has been read. -/
def calibChecks (s : State) (p : Nat) (b : Bytes) : List (Bool × Nat) :=
  [(mbxData p s 1 % 2 ^ 32 == calibCrcField b, Code.denied), (calibHeadOk b, Code.incompatible),
   (calibWriter b == 1 && calibCount b == calibCount s.flash.calib + 1, Code.length),
   (calibCrcOk b && calibSigOk s.upd.cfg.updKeys b, Code.signature), (calibRestOk b, Code.length)]

/-- The three steps of R490 on the flash. -/
def calibFlash (b : Bytes) (s : State) : State :=
  let part := b.take (Config.flashPart s.freeCtr % 65536)
  let scratch := fun (x : Bytes) => flashTo (fun f => { f with scratch := x })
  let record := fun (x : Bytes) => flashTo (fun f => { f with calib := x })
  let s := scratch b (scratch part { s with freeCtr := s.freeCtr + 1 })
  scratch [] (record b (record part (record [] s)))

/-- CALIB_WRITE (R489, R490). -/
def calibWrite (fn : Fn) (p : Nat) (d : Dma) (s : State) : State :=
  if !(p == 0 && s.right 0 Right.calib && mbxData p s 2 % 2 ^ 32 == 0x4F565752) then
    failCmd (.mbx p) fn Code.denied s
  else match d with
    | .data x =>
      let b := slice 0 65536 x
      runChecks (.mbx p) fn (calibChecks s p b) (fun s =>
        let s := calibFlash b { s with pwr := { s.pwr with newCrv := b } }
        complete (.mbx p) Code.ok 0 (report .f 0x0C 0 .c 0x00A [(calibCount b, 4)] s)) s
    | f => complete (.mbx p) (dmaCode f) 0 (dmaFault p s)

/-- The flash as a steward fault leaves it in a CALIB_WRITE, by how far the steps of R490 had come (R491). -/
def calibCut (step : Nat) (b : Bytes) (s : State) : State :=
  let part := b.take (Config.flashPart s.freeCtr % 65536)
  let s := { s with freeCtr := s.freeCtr + 1 }
  match step with
  | 0 => s
  | 1 => { s with flash := { s.flash with scratch := part } }
  | 2 => { s with flash := { s.flash with scratch := b, calib := [] } }
  | 3 => { s with flash := { s.flash with scratch := b, calib := part } }
  | _ => { s with flash := { s.flash with scratch := b, calib := b } }

/-- A mailbox command that a steward fault finds pending (R38): accepted before it, it completes with TIMEOUT; a
CALIB_WRITE whose checks had passed leaves the flash as far as it had come. -/
def mbxCut (c : MbxCut) (s : State) : State :=
  let i := Ifc.mbx c.part
  if !s.enabled c.part || s.busy i then s
  else
    let s := accept i 0 c.part s
    let b := slice 0 65536 c.rec_
    let passed := c.op == 0x31 && c.part == 0 && s.right 0 Right.calib && mbxData 0 s 2 % 2 ^ 32 == 0x4F565752 &&
      (calibChecks s 0 b).all (·.1)
    complete i Code.timeout 0 (doIf passed (calibCut c.step b) s)

/-- A command of a function to its own mailbox. -/
def mbxDo (fn : Fn) (act : Nat → State → State) (s : State) : State :=
  access fn (R.mbxCmd ((s.partOf fn).getD 0)) 1 (fun p _ _ s => mbxIssue p (act p) s) s

def execMbxVersion (fn : Fn) (s : State) : Res := guardWf (fnOk fn) (mbxDo fn mbxVersion s)
def execMbxThermal (fn : Fn) (s : State) : Res := guardWf (fnOk fn) (mbxDo fn mbxThermal s)
def execMbxPing (fn : Fn) (s : State) : Res := guardWf (fnOk fn) (mbxDo fn mbxPing s)
def execSettingsGet (fn : Fn) (s : State) : Res := guardWf (fnOk fn) (mbxDo fn settingsGet s)
def execSettingsPut (fn : Fn) (s : State) : Res := guardWf (fnOk fn) (mbxDo fn settingsPut s)
def execCalibRead (fn : Fn) (dma : Dma) (s : State) : Res := guardWf (fnOk fn) (mbxDo fn (fun p => calibRead p dma) s)
def execCalibWrite (fn : Fn) (rec : Dma) (s : State) : Res :=
  guardWf (fnOk fn) (mbxDo fn (fun p => calibWrite fn p rec) s)

/-! ### SMBus (R395) -/

/-- The steward refreshes its readings every 10 ms, but not while it restarts. -/
def smbRefresh (s : State) : State :=
  if s.boot.stewardUp && !s.boot.restarting && s.host.smbAt + msT 10 ≤ s.now then
    let power := Config.packagePower s.freeCtr
    { s with
      freeCtr := s.freeCtr + 1
      host := { s.host with
        smb := [s.fld R.pwrThermStat F.pwrThermStatTHotF, s.fld R.pwrThermStat F.pwrThermStatTHotT, power % 65536,
                s.fld (R.pwrRailStat 0) F.pwrRailStatVreadMv, s.fld (R.pwrRailStat 1) F.pwrRailStatVreadMv]
        smbAt := s.now } }
  else s

/-- The bytes that answer a command code. -/
def smbReply (s : State) (cmd : Nat) : Bytes :=
  let fatal := fun n => b2n (s.flag (R.erqStat n) F.erqStatFatal)
  match cmd with
  | 0 => toLe 4 devId
  | 1 => toLe 2 devStep
  | 2 => toLe 1 s.bootStateOf
  | 3 | 4 | 5 | 6 | 7 => toLe 2 (s.host.smb.getD (cmd - 3) 0)
  | 8 => toLe 1 (fatal 0 + 2 * fatal 1 + 4 * b2n (s.flag R.pwrThermStat F.pwrThermStatThrottle) +
      8 * b2n (s.flag R.schedSlack F.schedSlackSlackLow) + 16 * b2n s.boot.restarting)
  | 9 => toLe 1 s.host.erqF.length ++ toLe 1 s.host.erqT.length
  | _ => [0]

/-- The reply in a format: a Block Read begins with its count of bytes; an item of another length is cut, or filled with
zeros (log 117). -/
def smbFormat (fmt : SmbFmt) (b : Bytes) : Bytes :=
  match fmt with
  | .byte => slice 0 1 b
  | .word => slice 0 2 b
  | .block => toLe 1 b.length ++ b

/-- The CRC-8 of a transaction (log 117). -/
def smbPec (b : Bytes) : Byte := BitVec.ofNat 8 (crc8 b)

/-- What the master has sent after the address is a command code, and nothing else but its PEC. -/
def smbSentOk (sent : Bytes) : Bool :=
  match sent with
  | [_] => true
  | [c, p] => p == smbPec [0xB4, c]
  | _ => false

/-- A read at 7-bit address `addr`: the target acknowledges its own address once POR_N is high (R525), the command code and
a PEC that is right; any other byte written to it is refused. With `pec` the master reads a PEC over the whole transaction
too. -/
def smbusRead (addr : Nat) (sent : Bytes) (fmt : SmbFmt) (pec : Bool) (s : State) : State :=
  if s.bootStateOf = 0 || addr != 0x5A || !smbSentOk sent then s.emit .smbusNak
  else
    let b := smbFormat fmt (smbReply s (byteAt 0 sent))
    s.emit (.smbus (if pec then b ++ [smbPec ([0xB4] ++ sent.take 1 ++ [0xB5] ++ b)] else b))

def execSmbusRead (addr : Nat) (sent : Bytes) (fmt : SmbFmt) (pec : Bool) (s : State) : Res :=
  guardWf (addr < 128 && 1 ≤ sent.length) (smbusRead addr sent fmt pec s)

/-- The UART accepts console input (R396). No input of it changes configuration, tables or the partition map. -/
def State.consoleOn (s : State) : Bool := s.upd.cfg.console

end Sys2Proof.Machine
end

