-- ==== Sys2Proof/Machine/Boot.lean ====
section
/-! DEFINITION. Reset and boot (R19, R26, R456, R486, R491, R524 to R532), the partition map (R371 to R382), the Septien
bridge (R22 to R25), and steward faults (R37, R38). -/

namespace Sys2Proof.Machine

/-! ### Stages (R526) -/

def State.stage (s : State) : Nat := s.fld R.bootState F.bootStateStage
def stageTo (n : Nat) (s : State) : State := s.setFld R.bootState F.bootStateStage n
def bootTo (st : Nat) (s : State) : State := s.setFld R.bootState F.bootStateState st

/-- Text on the UART: the boot log, the steward's messages (R396). -/
def uartText (s : State) : State := { s with freeCtr := s.freeCtr + 1, outs := .uart (Config.bootLog s.freeCtr) :: s.outs }

/-- The work of stage `n` is done, and logged, where the boot has reached the stage before it and has not failed. -/
def atStage (n : Nat) (act : State → State) (s : State) : State :=
  if s.stage + 1 = n && !s.boot.failed then uartText (act s) else s

/-- The boot fails with the check that failed (R531). -/
def bootFail (f : Fail) (s : State) : State :=
  let s := (s.setFld R.bootState F.bootStateFailCode f.1).setFld R.bootState F.bootStateFailDetail f.2
  { s with boot := { s.boot with failed := true } }

/-- What the flashes hold when the power has failed `cut` contents before the last that the command of this moment wrote: the
command that was under way is lost with everything else (R460). No command writes the owner configuration. -/
def State.flashAt (s : State) (cut : Nat) : FlashSt :=
  if s.cutAt = s.now && 1 ≤ cut && cut ≤ s.cuts.length then
    { s.cuts.getD (s.cuts.length - cut) s.flash with owner := s.flash.owner }
  else s.flash

/-- The state that a rise of POR_N leaves before the boot code has run: everything but the flashes is reset; what stands
outside the device, the pins among it, stays. -/
def freshState (up : PowerUp) (s : State) : State :=
  { State.reset with
    tap := s.tap, flash := s.flashAt up.cut, outs := s.outs, freeCtr := s.freeCtr, pending := s.pending
    host := { State.reset.host with perst := s.host.perst }
    boot := { State.reset.boot with straps := up.straps } }

/-- POR_N has been low and rises: the straps are sampled, and the boot code runs and requests VMAX_MV (R19, R473, R521,
R524). -/
def powerOn (up : PowerUp) (s : State) : State :=
  let st := up.straps
  let w := setF (setF (setF 0 F.bootStateTwinEn (b2n st.twinEn)) F.bootStatePcieMode st.pcieMode)
    F.bootStateBootFlashSel (b2n st.flashSel)
  let r := freshState up s
  uartText (requestRail 1 (r.vmax 1) (requestRail 0 (r.vmax 0) (stageTo 1 (bootTo 1 (r.wr R.bootState w)))))

def execPowerOnReset (up : PowerUp) (s : State) : Res := guardWf (up.straps.pcieMode < 4) (powerOn up s)

/-! ### Stage 2: the calibration record (R486, R487, R491) -/

/-- The copy of the owner configuration the boot code uses: of the strapped flash, or of the other where that one's
signature fails (R437). -/
def State.ownerOf (s : State) : Option OwnerCfg :=
  let n := b2n s.boot.straps.flashSel
  ([n, 1 - n].map (fun i => s.flash.owner.getD i emptyOwner)).find? (·.valid)

/-- The conditions of R486 in order. -/
def calibConds (k : KeySet) (b : Bytes) : List Bool :=
  [b.length == 65536 && calibHeadOk b, calibCrcOk b && calibSigOk k b, calibGridOk b,
   (List.range 32).all (calibCurveOk b), calibRestOk b]

/-- The PTP corrections of a record (R99). -/
def applyPtp (b : Bytes) (s : State) : State :=
  forEach (List.range 96) (fun n s =>
    s.wr (R.linePtpAdj n) (setF (setF 0 F.linePtpAdjTxAdjPs (leAt (0xD00 + 8 * n) 4 b)) F.linePtpAdjRxAdjPs
      (leAt (0xD04 + 8 * n) 4 b))) s

/-- A record that stands whole in the scratch area and not in the record area is copied; the scratch area is erased. -/
def calibMend (k : KeySet) (s : State) : State :=
  let f := s.flash
  if !calibValid k f.calib && calibValid k f.scratch then
    flashTo (fun f => { f with scratch := [] }) (flashTo (fun f => { f with calib := f.scratch }) s)
  else flashTo (fun f => { f with scratch := [] }) s

def calibStage (s : State) : State :=
  let k := (s.ownerOf.map (·.updKeys)).getD ⟨[], 0⟩
  let s := calibMend k s
  let b := s.flash.calib
  let s := if calibValid k b then applyPtp b { s with pwr := { s.pwr with absent := false, record := b, curves := b } }
    else
      let i := (calibConds k b).findIdx (fun x => !x)
      report .f 0x0C 0 .k 0x009 [(Config.calibCheck i, 1)]
        { s with pwr := { s.pwr with absent := true, record := [], curves := [] } }
  stageTo 2 s

def execBootCalibCheck (s : State) : Res := guardWf true (atStage 2 calibStage s)

/-! ### Stage 3: the bridge wires (R26) -/

/-- The spare-wire map of the record is applied and every wire tested. -/
def wireStage (failed : List (Nat × Nat)) (s : State) : State :=
  stageTo 3 (forEach failed (fun w s => wireFail (w.1 / 48) (w.1 % 48) w.2 s) (applyWires s.pwr.record s))

/-- The failed wires are named by channel, T-to-F channels from 48 on, and wire: 0 to 39 data, 40 and 41 spare. -/
def execBridgeWireTest (failed : List (Nat × Nat)) (s : State) : Res :=
  guardWf (failed.all (fun w => w.1 < 96 && w.2 < 42)) (atStage 3 (wireStage failed) s)

/-! ### Stages 4 and 5: choosing the set (R440, R456) -/

/-- The newest valid copy is used, and an invalid copy rewritten from it. -/
def bcrRead (s : State) : State :=
  let copies := s.flash.bcr
  match newestBcr copies with
  | none => useBcr emptyBcr s
  | some b =>
    let bad := [0, 1].find? (fun i => (bcrOf (copies.getD i [])).isNone)
    match bad with
    | some i => updRecord .c 0x007 [(i, 1)] (useBcr b (writeCopy i (bcrBytes b) s))
    | none => useBcr b s

/-- The tries of a trial, its end after two, and the slot chosen (R456). -/
def chooseSlot (s : State) : Nat × State :=
  let b := s.upd.bcr
  if b.trial && b.tries < 2 then (b.trialSlot, writeBcr { b with tries := b.tries + 1 } s)
  else if b.trial then
    let s := dropNewArea b.noTrial s
    let s := revertMark b.trialId 1 s
    (b.confirmed, { s with upd := { s.upd with irqWait := true } })
  else (b.confirmed, doIf b.dual (dropNewArea b) s)

/-- The set of slot `n` is the one that boots. -/
def bootSlot (n : Nat) (s : State) : State :=
  { s with upd := { s.upd with run := setOf n (s.slot n).manifest } }

def setStage (s : State) : State :=
  match s.ownerOf with
  | none => bootFail Config.noOwner s
  | some c =>
    let s := bcrRead { s with upd := { s.upd with cfg := c } }
    let r := chooseSlot s
    stageTo 4 (bootSlot r.1 r.2)

def execBootSetSelect (s : State) : Res := guardWf true (atStage 4 setStage s)

/-- The part of set_ok that the manifest decides: VERIFIED, and checks 2 to 6 and 8 of R446. -/
def slotManFail (s : State) (n : Nat) : Option Fail :=
  let k := s.slot n
  firstBad ((k.usable, Config.slotBad) :: (manChecks s.upd.cfg.updKeys k.manifest ++
    [manCompatCheck k.manifest]))

/-- The part of set_ok that the images decide: the content key, and the TAG and DIGEST of each, the signature of a vendor
image (R420). -/
def slotImgFail (s : State) (n : Nat) : Option Fail :=
  let k := s.slot n
  match contentKey s.upd.cfg.rootKey k.manifest with
  | .error f => some f
  | .ok key => firstBad ((List.range 5).flatMap (fun i => imgLoadChecks k.manifest key i (k.images.getD i [])))

/-- The part that its plate decides (R51). -/
def slotPlateFail (s : State) (n : Nat) : Option Fail :=
  match s.slotKey n with
  | .error f => some f
  | .ok k => firstBad (plateChecksOf s.upd.cfg.plateKeys ((setHidden k s).slotPlain n 3))

/-- set_ok as far as stage `n` has asked: 5 the manifest, 7 the images too, 10 the plate too. -/
def slotFail (s : State) (stage slot : Nat) : Option Fail :=
  match slotManFail s slot with
  | some f => some f
  | none =>
    if stage < 7 then none
    else match slotImgFail s slot with
      | some f => some f
      | none => if stage < 10 then none else slotPlateFail s slot

/-- The chosen set passes, or a trial set falls back to the confirmed one, which must pass in its turn (R456); `fall` makes
good what earlier stages have loaded of the trial set. -/
def setOkElse (stage : Nat) (fall act : State → State) (s : State) : State :=
  let n := s.upd.run.slot
  match slotFail s stage n with
  | none => act s
  | some f =>
    let b := s.upd.bcr
    if b.trial && n == b.trialSlot then
      let s := dropNewArea b.noTrial s
      let s := updRecord .k 0x001 [(n, 1), (f.1, 1), (f.2, 1)] s
      let s := (s.inc (R.updCtr 4)).setFld R.updStatus F.updStatusFallback 1
      let s := bootSlot b.confirmed { s with upd := { s.upd with irqWait := true } }
      match slotFail s stage b.confirmed with
      | none => act (fall s)
      | some g => bootFail g s
    else bootFail f s

def execBootManifestCheck (s : State) : Res := guardWf true (atStage 5 (setOkElse 5 id (stageTo 5)) s)

/-! ### Stage 6: the partition map (R371, R378 to R382) -/

def recEnabled (r : Bytes) : Bool := nbit (byteAt 0 r) 0
def recFn (r : Bytes) : Fn := ⟨byteAt 1 r, byteAt 2 r⟩

/-- A record meets R378 to R380. -/
def recFormOk (r : Bytes) : Bool :=
  byteAt 0 r < 2 && byteAt 1 r < 2 && byteAt 2 r < 2 && byteAt 3 r == 0 && leAt 4 4 r < 2 ^ 10 &&
    (List.range 17).all (fun b => nbits (leAt 8 8 r) (2 * b + 1) (2 * b) != 3) && leAt 8 8 r < 2 ^ 34 &&
    [18, 19, 20, 21, 22, 23].all (fun i => leAt (0x24 + 8 * i) 4 r == 0) && allZero (slice 0xE4 28 r)

/-- CALIB is cleared in a record of partition 1, 2 or 3 (R379). -/
def recClear (p : Nat) (r : Bytes) : Bytes :=
  if p != 0 && nbit (leAt 4 4 r) Right.calib then patch 4 (toLe 4 (leAt 4 4 r - 2 ^ Right.calib)) r else r

/-- Record `p` is accepted: its form is right, and no lower accepted record that is enabled names its function
(R371). -/
def recAccepted (recs : List Bytes) : Nat → Bool
  | p =>
    let r := recs.getD p []
    recFormOk r && (!recEnabled r || (List.range p).all (fun q =>
      let x := recs.getD q []
      !(recFormOk x && recEnabled x && recFn x == recFn r)))

/-- A record takes its place in the map. -/
def pmapRecord (recs : List Bytes) (p : Nat) (s : State) : State :=
  let was := slice 0 256 (s.upd.cfg.recs.getD p [])
  let r := recs.getD p []
  let s := forEach (List.range 32) (fun i s => s.wr (R.pmap p i) (wordAt i r)) s
  let s := doIf (was != r) (report .f 0x01 p .k 0x006 [(Right.calib, 1)]) s
  let ok := recAccepted recs p
  let s := doIf (!ok) (report .f 0x01 p .k 0x005 []) s
  { s with host := { s.host with
      recOk := s.host.recOk.set p (ok && recEnabled r && presented s.boot.straps.pcieMode (recFn r)) } }

/-- The ports train where PERST_N is high; partitions of a port whose PERST_N is low are in reset (R384, R523). -/
def portsOn (s : State) : State :=
  forEach [0, 1] (fun port s =>
    let s := trainPort port s
    forEach (s.partsOn port) (fun p s => inResetSet p (s.host.perst.getD port false) s) s) s

/-- A source 14 that waited for the partitions (R456). -/
def lateIrq (s : State) : State :=
  if s.upd.irqWait then raiseRight 14 Right.update { s with upd := { s.upd with irqWait := false } } else s

def pmapStage (s : State) : State :=
  let s := { s with host := { s.host with held := [] } }
  let recs := (List.range 4).map (fun p => recClear p (slice 0 256 (s.upd.cfg.recs.getD p [])))
  let s := forEach [0, 1, 2, 3] (pmapRecord recs) s
  lateIrq (portsOn (stageTo 6 (s.setFld R.pmapLock F.pmapLockPmapLock 1)))

def execPmapLock (s : State) : Res := guardWf true (atStage 6 pmapStage s)

/-! ### Stages 7 to 11 -/

/-- Both sections of the microcode of the set are in place; the key has stood in the hidden slot, which is clear again
(R436). -/
def bootMicro (s : State) : State :=
  let n := s.upd.run.slot
  underKey n (fun s =>
    let b := s.slotPlain n 1
    loadVendor b { s with upd := { s.upd with tMicro := Config.tSection b } }) s

/-- The images are good: the microcode is in place and the steward firmware runs. -/
def imageStage (s : State) : State :=
  lateIrq (stageTo 7 (bootTo 2 (bootMicro { s with boot := { s.boot with stewardUp := true } })))

def execBootImageLoad (s : State) : Res := guardWf true (atStage 7 (setOkElse 7 id imageStage) s)

/-- Training of a stack ends, from the seeds of the record where there is one: 0 to 3 are T0 to T3, 4 is F0 (R484, R529). With the last one the stage is done. -/
def hbmStage (stack : Nat) (ok : Bool) (s : State) : State :=
  let b := s.boot
  let seed := if s.pwr.record.isEmpty then [] else slice (0x3000 + 4096 * ((stack + 1) % 5)) 4096 s.pwr.record
  let s := { s with boot := { b with
    hbmDone := b.hbmDone.set stack true, hbmBad := b.hbmBad.set stack (!ok), seeds := b.seeds.set stack seed } }
  let s := doIf (!ok) (if stack = 4 then f0Fail else failStack stack) s
  doIf (s.boot.hbmDone.all id) (fun s => stageTo 8 (bootTo 3 s)) s

def execHbmTrainingDone (stack : Nat) (ok : Bool) (s : State) : Res :=
  guardWf (stack < 5) (if s.boot.hbmDone.getD stack true then s else atStage 8 (hbmStage stack ok) s)

/-- Every lane holds its firmware and is calibrated from its preset: that of the record, or the default one. -/
def serdesStage (s : State) : State :=
  let p := if s.pwr.record.isEmpty then [] else slice 0x1000 6912 s.pwr.record
  stageTo 9 { s with boot := { s.boot with serdesDone := true, presets := p } }

def execSerdesCalibrationDone (s : State) : Res := guardWf true (atStage 9 serdesStage s)

/-- The plate of the set goes into bank A and is live (R56). -/
def plateStage (s : State) : State :=
  let n := s.upd.run.slot
  lateIrq (stageTo 10 (underKey n (fun s => goLive 0 (plateProof 0 (s.slotPlain n 3) (bankTo 0 Pb.loading s))) s))

/-- A fallback after stage 7 loads the images of the confirmed set in the place of the trial set's: its microcode, and its
steward firmware, on which the steward restarts (R527). -/
def imagesAgain (s : State) : State := bootMicro (restartSteward s)

def execBootPlateLoad (s : State) : Res := guardWf true (atStage 10 (setOkElse 10 imagesAgain plateStage) s)

/-- The trace identifier that a lane sends in the boot trace check: UNIT_ID, the lane, zeros (R530). -/
def bootTrace (lane : Nat) : Bytes := toLe 16 Config.unitId ++ toLe 1 lane ++ zeros 47

/-- The string that stands first in three cycles running (R326). -/
def acceptedOf : List Bytes → Option Bytes
  | a :: b :: c :: l => if a = b && b = c then some a else acceptedOf (b :: c :: l)
  | _ => none

/-- The complete cycles of 64 frames that fit in the 10 ms of the check. -/
def traceCycles : Nat := 100000000 / (64 * 4096)

/-- What a lane accepts in the check: in the loopback it receives what it sends, where `echo` does not say which cycles it
received in place of that. -/
def bootAccepted (echo : List (Nat × List Bytes)) (lane : Nat) : Option Bytes :=
  match echo.find? (fun e => e.1 == lane) with
  | none => some (bootTrace lane)
  | some e => acceptedOf (e.2.take traceCycles)

/-- A lane whose trace did not come back (R530). -/
def traceFail (lane : Nat) (s : State) : State :=
  let off := if lane < 64 then R.bootFabFail0 else R.bootFabFail1
  report .t 0x13 lane .k 0x001 [(3, 1)] (s.wr off (setBit (s.rd off) (lane % 64) true))

/-- The check of one lane: what it accepts is shown and compared as under R326, and the lane returned to EN 0. -/
def traceLane (echo : List (Nat × List Bytes)) (lane : Nat) (s : State) : State :=
  let s := match bootAccepted echo lane with
    | none => traceFail lane s
    | some str =>
      let ok := str == bootTrace lane
      let s := forEach (List.range 8) (fun i s => s.wr (R.fabTtiAcc lane i) (wordAt i str)) s
      let s := setLaneStat lane F.fabLaneStatTraceMatch (b2n ok) (setLaneStat lane F.fabLaneStatTraceDone 1 s)
      doIf (!ok) (traceFail lane) s
  let old := s.rd (R.fabLaneCfg lane)
  doIf (s.laneEn lane) (fun s => laneCfgEffect lane old false (s.setFld (R.fabLaneCfg lane) F.fabLaneCfgEn 0)) s

def traceStage (echo : List (Nat × List Bytes)) (s : State) : State :=
  stageTo 11 (forEach (List.range 120) (traceLane echo) { s with boot := { s.boot with traceDone := true } })

def execBootTraceCheck (echo : List (Nat × List Bytes)) (s : State) : Res :=
  guardWf (echo.all (fun e => e.1 < 120)) (atStage 11 (traceStage echo) s)

/-! ### READY and the failed boot (R527, R531) -/

/-- The conditions of R527. -/
def State.readyConds (s : State) : Bool :=
  s.locked && s.boot.stewardUp && !s.boot.restarting && s.boot.hbmDone.all id && s.boot.serdesDone && s.bankState 0 == Pb.live &&
    s.boot.traceDone

/-- READY of a trial boot: STATE is TRIAL and the confirm timer starts (R444, R459). -/
def trialReady (s : State) : State :=
  let b := s.upd.bcr
  if b.trial && s.upd.run.slot == b.trialSlot then
    startConfirm (updTo Us.trial { s with upd := { s.upd with trialBoot := true } })
  else s

/-- An old-format area not yet erased is erased (R460). -/
def eraseOldArea (s : State) : State := doIf (!s.upd.bcr.dual) (setArea (1 - s.upd.bcr.confArea) []) s

def readyStage (s : State) : State :=
  let s := s.setFld R.bootState F.bootStateReadyMs ((s.now - s.boot.porAt) / msT 1)
  trialReady (eraseOldArea (stageTo 12 (bootTo 4 { s with boot := { s.boot with ready := true } })))

def execReady (s : State) : Res := guardWf true (if s.readyConds then atStage 12 readyStage s else s)

/-- A boot that failed enters the boot-failed state: the map is locked with every partition disabled. -/
def failStage (s : State) : State :=
  if s.boot.failed && s.bootStateOf != 0x80 then
    let s := { s with host := { s.host with recOk := [false, false, false, false] } }
    uartText (portsOn (bootTo 0x80 (s.setFld R.pmapLock F.pmapLockPmapLock 1)))
  else s

def execBootFailed (s : State) : Res := guardWf true (failStage s)

/-! ### The steward (R37, R38, R52) -/

/-- The steward firmware faults; `cut` names the mailbox commands that it was carrying out. -/
def stewardFault (cut : List MbxCut) (s : State) : State :=
  if s.boot.stewardUp && !s.boot.restarting then
    let s := restartSteward (forEach cut mbxCut s)
    uartText (report .f 0x02 0 .f 0x001 [] (lateBack { s with boot := { s.boot with faultAt := s.now } }))
  else s

def cutOk (c : MbxCut) : Bool := c.part < 4 && c.op < 256 && c.step < 5

def execStewardFault (cut : List MbxCut) (s : State) : Res := guardWf (cut.all cutOk) (stewardFault cut s)

/-- The watchdog has restarted the steward from its running image, 5 ms after the fault at the earliest (R38). -/
def stewardRestart (s : State) : State :=
  if s.boot.restarting && s.upd.readyWait.isNone && !s.backWaits && s.boot.faultAt + msT 5 ≤ s.now then
    uartText { s with boot := { s.boot with restarting := false } }
  else s

def execStewardRestart (s : State) : Res := guardWf true (stewardRestart s)

end Sys2Proof.Machine
end

