-- ==== Sys2Proof/Machine/Flags.lean ====
section
/-! DEFINITION. What a read of a register returns: the stored word, with the status flags and fields that follow the
state of their unit computed at the read (R10, R11, and each register's table). -/

namespace Sys2Proof.Machine

/-! ### QUIESCED of the units (R11) -/

/-- The reorder unit holds a frame of a port. -/
def State.reorderHolds (s : State) (port : Nat) : Bool :=
  s.pkts.any (fun e => e.2.place == .reorder && e.2.stream == port)

/-- A port: PORT_EN is 0 and the reorder unit holds none of its frames (R83). -/
def State.portQuiet (s : State) (port : Nat) : Bool :=
  !s.flag (R.linePortCfg port) F.linePortCfgPortEn && !s.reorderHolds port

/-- An octet: all its ports (R83). -/
def State.octetQuiet (s : State) (o : Nat) : Bool := (List.range 8).all (fun i => s.portQuiet (8 * o + i))

/-- A table ring: RING_EN is 0 and no group is in progress. -/
def State.tblRingQuiet (s : State) (p : Nat) : Bool :=
  !s.flag (R.tblRingCfg p) F.tblRingCfgRingEn && (s.tbl.fenceR.getD p none).isNone

/-- The event queue of the tables: EVQ_EN is 0. -/
def State.evqQuiet (s : State) : Bool := !s.flag R.tblEvqCfg F.tblEvqCfgEvqEn

/-- An ASA table: EN is 0; searches and commands end in the step that makes them (R194). -/
def State.asaQuiet (s : State) (t : Nat) : Bool := !s.flag (R.asaTableCfg t) F.asaTableCfgEn

/-- A notification queue: NQ_EN is 0. -/
def State.nqQuiet (s : State) (p : Nat) : Bool := !s.flag (R.burinNqCfg p) F.burinNqCfgNqEn

/-- A packet fills a buffer of a ring. -/
def State.ringBusy (s : State) (p r : Nat) : Bool :=
  s.pkts.any (fun e => match e.2.place with
    | .ring q k _ _ _ => q == p && k == r
    | _ => false)

/-- A packet ring: RING_EN is 0 and no descriptor is in progress (R389). -/
def State.ringQuiet (s : State) (p r : Nat) : Bool :=
  !s.flag (R.pioRingCfg p r) F.pioRingCfgRingEn && !s.ringBusy p r

/-- The fabric device: FRAMER_RUN is 0 and every lane has EN 0. -/
def State.fabQuiet (s : State) : Bool :=
  !s.flag R.fabCtl F.fabCtlFramerRun && (List.range 120).all (fun l => !s.flag (R.fabLaneCfg l) F.fabLaneCfgEn)

/-- The twin controller: EN is 0. -/
def State.twinQuiet (s : State) : Bool := !s.flag R.twinCfg F.twinCfgEn

/-- Whether the unit that owns the Q fields of a register reports QUIESCED. -/
def State.quiet (s : State) (r : Reg) (ix : List Nat) : Bool :=
  let a := ix.headD 0
  match r with
  | .pioRingBase | .pioRingCfg => s.ringQuiet a (ix.getD 1 0)
  | .lineOctetCfg => s.octetQuiet a
  | .linePortCfg | .linePfcCfg => s.portQuiet a
  | .qPortCfg => s.octetQuiet (a / 8)
  | .tblRingBase | .tblRingCfg => s.tblRingQuiet a
  | .tblEvqBase | .tblEvqCfg => s.evqQuiet
  | .asaTableCfg => s.asaQuiet a
  | .schedMfOffset => s.calQuiesced
  | .fabDevIndex => s.fabQuiet
  | .fabLaneCfg => !s.flag (R.fabLaneCfg a) F.fabLaneCfgEn
  | .fabGroupCfg => !s.flag (R.fabGroupCfg a) F.fabGroupCfgEn
  | .burinNqBase | .burinNqCfg => s.nqQuiet a
  | .twinCfg => s.twinQuiet
  | _ => true

/-! ### Fields that follow the state -/

/-- DEV_WHOAMI names the function that reads it. PARTITION of a function that no partition owns reads 0: DESIGN CHOICE,
log 159, for its table gives no value. -/
def State.whoami (s : State) (fn : Fn) : Word :=
  let w := setF 0 F.devWhoamiPmapLocked (b2n s.locked)
  let w := setF (setF w F.devWhoamiPort fn.port) F.devWhoamiFunc fn.func
  setF w F.devWhoamiPartition ((s.partOf fn).getD 0)

/-- PARSER_GRAPH_INFO shows the section header of the live graph (R107); 0 while no bank is live. -/
def State.graphInfo (s : State) : Word :=
  match s.plate.live with
  | none => 0
  | some b =>
    let g := (s.bank b).graph
    let w := setF (setF 0 F.parserGraphInfoNumStates (leAt 0 2 g)) F.parserGraphInfoIngressStart (byteAt 2 g)
    let w := setF (setF w F.parserGraphInfoEgressStart (byteAt 3 g)) F.parserGraphInfoRecircStart (byteAt 4 g)
    let w := setF (setF w F.parserGraphInfoExcActTrunc (byteAt 5 g)) F.parserGraphInfoExcActLen (byteAt 6 g)
    setF w F.parserGraphInfoTrapRing (byteAt 7 g)

/-- The head of a two-step FIFO: tag and time (R103). -/
def State.tsHead (s : State) (port : Nat) : Option (Nat × Nat) := (smapGet (fun _ => []) port s.line.tsFifo).head?

def State.tsFifoHi (s : State) (port : Nat) : Word :=
  match s.tsHead port with
  | none => 0
  | some e =>
    setF (setF (setF 0 F.lineTsFifoHiValid 1) F.lineTsFifoHiTag e.1) F.lineTsFifoHiTsHigh (stampHi e.2)

def State.tsFifoLo (s : State) (port : Nat) : Word :=
  match s.tsHead port with
  | none => 0
  | some e => BitVec.ofNat 64 (stampLo e.2)

/-- STATE of PWR_TB_STAT: byte 0x40 of the context of the servo session, of the four states of R361; 0 without one. -/
def State.servoState (s : State) : Nat :=
  match s.servoSession with
  | some n => byteAt 0x40 (s.ctxOf n) % 4
  | none => 0

/-- CONFIRM_LEFT_S: the seconds before the confirm timer expires (R459). -/
def State.confirmLeft (s : State) : Nat :=
  let n := s.fld R.updCfg F.updCfgConfirmS
  match s.upd.confirmAt with
  | some t => if n = 0 then 0 else ceilDiv (t + n * ticksPerSec - s.now) ticksPerSec
  | none => 0

/-- LAPSE_LEFT_S: the seconds before the session lapses (R442). -/
def State.lapseLeft (s : State) : Nat :=
  let st := s.updState
  if (st = Us.idle ∧ s.updHolder ≠ 7) ∨ st = Us.isOpen ∨ st = Us.verified then
    if s.busy .upd then 600 else ceilDiv (600 * ticksPerSec + s.upd.lastCmd - s.now) ticksPerSec
  else 0

/-- The head record of a die's queue, as ERQ_REC shows it (R397). -/
def State.erqHead (s : State) (n i : Nat) : Word :=
  match s.erq (dieOf n) with
  | [] => 0
  | r :: _ => wordAt i r.bytes

/-- The stored word `w` of a register with the fields that follow the state. -/
def State.viewOf (s : State) (fn : Fn) (r : Reg) (ix : List Nat) (w : Word) : Word :=
  let a := ix.headD 0
  match r with
  | .devWhoami => s.whoami fn
  | .lineOctetCfg => setF w F.lineOctetCfgQuiesced (b2n (s.octetQuiet a))
  | .linePortStat => setF w F.linePortStatQuiesced (b2n (s.portQuiet a))
  | .lineTsFifoHi => s.tsFifoHi a
  | .lineTsFifoLo => s.tsFifoLo a
  | .parserGraphInfo => s.graphInfo
  | .tblRingCfg => setF w F.tblRingCfgQuiesced (b2n (s.tblRingQuiet a))
  | .tblEvqCfg => setF w F.tblEvqCfgQuiesced (b2n s.evqQuiet)
  | .asaTableCfg => setF w F.asaTableCfgQuiesced (b2n (s.asaQuiet a))
  | .burinNqCfg => setF w F.burinNqCfgQuiesced (b2n (s.nqQuiet a))
  | .pioRingCfg => setF w F.pioRingCfgQuiesced (b2n (s.ringQuiet a (ix.getD 1 0)))
  | .schedCtl => setF w F.schedCtlQuiesced (b2n s.calQuiesced)
  | .fabDevIndex => setF w F.fabDevIndexQuiesced (b2n s.fabQuiet)
  | .twinCfg => setF w F.twinCfgQuiesced (b2n s.twinQuiet)
  | .twinState => setF w F.twinStateHealthOut (b2n s.healthOut)
  | .pwrTbTime0 => BitVec.ofNat 64 (stampLo s.now)
  | .pwrTbStat => setF w F.pwrTbStatState s.servoState
  | .updSession => setF (setF w F.updSessionConfirmLeftS s.confirmLeft) F.updSessionLapseLeftS s.lapseLeft
  | .erqStat => setF w F.erqStatDepth (s.erq (dieOf a)).length
  | .erqRec => s.erqHead a (ix.getD 1 0)
  | _ => w

/-- A register of a line port that the present MODE does not have (R82). The registers that other blocks keep for each
port (Q_PORT_CFG_n, Q_PORT_TCW_n, Q_PFC_n, Q_PORT_DEPTH_n, PWR_WAKE_PORT_n) stay readable and writable: DESIGN CHOICE,
log 160. -/
def State.noPort (s : State) (r : Reg) (ix : List Nat) : Bool :=
  match r with
  | .linePortCfg | .linePortStat | .linePfcCfg | .linePtpAdj | .lineTsFifoHi | .lineTsFifoLo | .lineCtr =>
    !s.portExists (ix.headD 0)
  | _ => false

/-- A seal slot register whose slot is not in the reader's KEY_SLOT_MASK. -/
def State.slotHidden (s : State) (p : Nat) (r : Reg) (ix : List Nat) : Bool :=
  match r with
  | .sealSlot | .sealCtr | .sealSlotId => !s.slotOk p (ix.headD 0)
  | _ => false

/-- What partition `p`'s function reads at an offset it may read. -/
def State.view (s : State) (fn : Fn) (p off : Nat) (r : Reg) (ix : List Nat) : Word :=
  if s.noPort r ix || s.slotHidden p r ix then 0 else s.viewOf fn r ix (s.rd off)

end Sys2Proof.Machine
end

