-- ==== Sys2Proof/Machine/RegWrite.lean ====
section
/-! DEFINITION. Register writes and reads by a function: the rejections of R11, R12 and R548, the effects of a stored
write, commands written to their registers, 32-bit halves (R375), counters, read-clear fields and latches (R8, R10,
R103, R482). -/

namespace Sys2Proof.Machine

/-! ### A field against a write (R11, R548) -/

def FieldDesc.fld (f : FieldDesc) : Fld := (f.hi, f.lo)
def FieldDesc.mask (f : FieldDesc) : Word := lowMask (fldWidth f.fld) <<< f.lo

/-- The value stands in the register table: in one of the ranges, where it states some, and on its multiple. -/
def FieldDesc.admits (f : FieldDesc) (v : Nat) : Bool :=
  (f.ranges.isEmpty || f.ranges.any (fun r => r.1 ≤ v && v ≤ r.2)) && v % f.mult == 0

/-- The bits of the fields with an access code. -/
def RegDesc.maskOf (d : RegDesc) (a : Access) : Word :=
  (d.fields.filter (fun f => f.acc == a)).foldl (fun m f => m ||| f.mask) 0

/-- The word a write leaves: RW fields as written, W1C bits cleared where written 1, all others as they were. -/
def RegDesc.merge (d : RegDesc) (old v : Word) : Word :=
  let rw := d.maskOf .rw
  ((old &&& ~~~rw) ||| (v &&& rw)) &&& ~~~(v &&& d.maskOf .w1c)

/-- The register belongs to the boot code or the plate. -/
def RegDesc.locked (d : RegDesc) : Bool := d.fields.all (fun f => f.cls == .boot || f.cls == .plate)

/-- Every RW field is written with a value its table lists. -/
def RegDesc.inTable (d : RegDesc) (v : Word) : Bool :=
  d.cmdIf || d.fields.all (fun f => f.acc != .rw || f.admits (getF v f.fld))

/-- The write changes a field of class Q. -/
def RegDesc.changesQ (d : RegDesc) (old v : Word) : Bool :=
  d.fields.any (fun f => f.cls == .quiesce && f.acc == .rw && getF old f.fld != getF v f.fld)

/-! ### What single registers ask of a write -/

/-- The sum of the reservations of a pool with requester `r`'s as written (R205). -/
def quotaOk (s : State) (r k : Nat) (v : Word) : Bool :=
  sumReq (fun q => if q = r then getF v F.bpmQuotaRes else s.resOf q k) ≤ (if k = 0 then 201326592 else 262144)

/-- A calendar bank in ARMED, LIVE or RETIRING names a port of the octet (R291). -/
def octetNamed (s : State) (o : Nat) : Bool :=
  [0, 1].any (fun b => (s.calState b == Cb.armed || s.calState b == Cb.live || s.calState b == Cb.retiring) &&
    (calFlowList (s.calImg b)).any (fun e => (fTx e && fIn e / 8 == o) || (fRx e && fOut e / 8 == o)))

/-- The registers that only the holder of SEAL_LOCK writes (R404), SEAL_CMD apart. -/
def sealArg : Reg → Bool
  | .sealSrc | .sealDst | .sealAad | .sealLen | .sealIv0 | .sealIv1 | .sealTag0 | .sealTag1 => true
  | _ => false

/-- The conditions that a rule adds to the ranges of a register's table. -/
def writeOk (s : State) (p : Nat) (r : Reg) (ix : List Nat) (v : Word) : Bool :=
  let a := ix.headD 0
  match r with
  | .asaTableCfg => asaCfgOk a v s                                                         -- R194
  | .bpmQuota => quotaOk s a (ix.getD 1 0) v                                               -- R205
  | .lineOctetCfg =>                                                                       -- R291
    getF v F.lineOctetCfgMode == s.fld (R.lineOctetCfg a) F.lineOctetCfgMode || !octetNamed s a
  | .qPfc => getF v F.qPfcXoffBytes == 0 || getF v F.qPfcXonBytes < getF v F.qPfcXoffBytes -- R239
  | .pwrRailCfg =>                                                                         -- R466
    gridV.contains (getF v F.pwrRailCfgVminMv) && gridV.contains (getF v F.pwrRailCfgVmaxMv) &&
      getF v F.pwrRailCfgVminMv ≤ getF v F.pwrRailCfgVmaxMv
  | .pwrThermCfg => getF v F.pwrThermCfgWarnDc ≤ getF v F.pwrThermCfgThrottleDc
  | .fabLaneCfg => !(118 ≤ a && s.boot.straps.twinEn && getF v F.fabLaneCfgEn == 1)        -- R315
  | .twinCfg => !(getF v F.twinCfgEn == 1 && !s.boot.straps.twinEn)                        -- R499
  | _ => !sealArg r || s.holder == p                                                       -- R404

/-! ### Effects of a stored write -/

/-- AUTO of Q_ADMIT_CFG is cleared by a 1 only with every stack in service; FB_ACTIVE follows (R235). -/
def admitEffect (old v : Word) (s : State) : State :=
  let auto := getF old F.qAdmitCfgAuto
  let s := doIf (getF v F.qAdmitCfgAuto == 1) (fun s => clearAuto (s.setFld R.qAdmitCfg F.qAdmitCfgAuto auto)) s
  fbRefresh s

/-- What follows once a write has been stored; `old` is the word before it, `v` the word written. -/
def writeEffect (r : Reg) (ix : List Nat) (off : Nat) (old v : Word) (s : State) : State :=
  let a := ix.headD 0
  match r with
  | .plateCtl => quiesceEffect s
  | .lineOctetCfg => portDepths s
  | .asaTableCfg => asaCfgEffect old (s.rd off) s
  | .bpmQuota => bpmRefresh s
  | .qAdmitCfg => admitEffect old v s
  | .schedCtl =>
    doIf (getF old F.schedCtlEn == 1 && getF v F.schedCtlEn == 0 && s.cal.run == .on)
      (fun s => { s with cal := { s.cal with run := .ending } }) s
  | .fabCtl => doIf (getF v F.fabCtlFramerStop == 1) framerStop (doIf (getF v F.fabCtlFramerStart == 1) framerStart s)
  | .fabLaneCfg => laneCfgEffect a old (getF v F.fabLaneCfgTraceCheck == 1) s
  | .fabGroupCfg => refreshGroup a s
  | .fabReach => reachEffect a old s
  | .pwrCtl => doIf s.pwr.absent (fun s => s.setFld R.pwrCtl F.pwrCtlPmEn 0) s
  | .pwrWakePort | .pwrWakePair | .pwrWakeGroup | .pwrWakeBurin => budgetEffect off s
  | .pwrTbCfg =>
    doIf (getF old F.pwrTbCfgPpsInEn == 0 && getF v F.pwrTbCfgPpsInEn == 1)
      (fun s => { s with pwr := { s.pwr with ppsAt := s.now } }) s
  | .twinCfg => twinCfgEffect old s
  | .updCfg => updCfgEffect s
  | _ => s

/-- A port whose PORT_EN is cleared loses its link first (R275, R87, R95). -/
def portOff (r : Reg) (ix : List Nat) (v : Word) (s : State) : State :=
  let n := ix.headD 0
  if r = .linePortCfg ∧ getF v F.linePortCfgPortEn = 0 ∧ s.linkUp n = true then
    linkAndSched n false (s.flag (R.linePortStat n) F.linePortStatLocalFault)
      (s.flag (R.linePortStat n) F.linePortStatRemoteFault) noFec s
  else s

/-- Store a write that passed every check. -/
def storeWrite (d : RegDesc) (ix : List Nat) (off : Nat) (v : Word) (s : State) : State :=
  let s := portOff d.reg ix v s
  let old := s.rd off
  writeEffect d.reg ix off old v (s.wr off (d.merge old v))

/-! ### Commands written to their registers -/

/-- The free end of a DMA read. -/
def freeDma (n : Nat) : Dma :=
  match Config.hostEnd n % 3 with
  | 0 => .data (Config.hostBytes n)
  | 1 => .timeout
  | _ => .poison

/-- What a word that is read is free to be. -/
def freeEcc (n : Nat) : Ecc :=
  match Config.wordEcc n % 4 with
  | 0 => .ok
  | 1 => .corr
  | 2 => .uncorr
  | _ => .badCheck

/-- The free end of an ACTIVATE. -/
def freeSwitch (n : Nat) : SwitchEnd :=
  let k := Config.switchEnd n
  match k % 3 with
  | 0 => .done
  | 1 => .flashFail (k / 3 % 2) (k / 6 % 2 == 1)
  | _ => .failed (k / 3 % 5 + 1) (k / 15 % 15 + 1)

/-- A write to SEAL_CMD. -/
def sealWord (fn : Fn) (p n : Nat) (w : Word) (s : State) : State :=
  let slot := getF w F.sealCmdSlot
  let tagLen := getF w F.sealCmdTagLen
  let stream := getF w F.sealCmdMode == 1
  match getF w F.sealCmdOpcode with
  | 1 => sealIssue fn 1 slot (freeEcc n) (unwrapAct fn slot (freeDma n) (freeEcc (n + 1))) s
  | 2 => sealIssue fn 2 slot (freeEcc n) (encryptAct fn slot tagLen (freeDma n) (freeDma (n + 1)) (Config.hostBytes n)) s
  | 3 => sealIssue fn 3 slot (freeEcc n) (decryptAct fn slot tagLen stream (freeDma n) (freeDma (n + 1)) (Config.hostBytes n)) s
  | 4 => sealIssue fn 4 slot (freeEcc n) (fun _ s => sealDone Code.ok (slotClear slot s)) s
  | op =>
    if s.holder = p then issue .sealE op p (fun s => sealDone Code.notfound (s.wr R.sealBytesOut 0)) s
    else denied fn R.sealCmd 1 s

/-- What the opcode in UPD_CMD does. -/
def updWordAct (p n op comp : Nat) (s : State) : State :=
  match op with
  | 1 => openAct p (freeDma n) s
  | 2 => writeAct p comp (freeDma n) (Config.wordEcc n % 2 == 0) s
  | 3 => verifyAct s
  | 4 => activateAct (freeSwitch n) s
  | 5 => updDone Code.ok 0 (confirmAct s)
  | 6 => revertAct 2 true s
  | _ => closeAct s

/-- A write to UPD_CMD. -/
def updWord (fn : Fn) (p n : Nat) (w : Word) (s : State) : State :=
  let op := getF w F.updCmdOpcode
  let comp := getF w F.updCmdComp
  updCommand fn op p comp (updWordAct p n op comp) s

/-- What the opcode in MBX_CMD_p does. -/
def mbxWordAct (fn : Fn) (p n op : Nat) (s : State) : State :=
  match op with
  | 0x01 => mbxVersion p s
  | 0x02 => mbxThermal p s
  | 0x03 => mbxPing p s
  | 0x20 => settingsGet p s
  | 0x21 => settingsPut p s
  | 0x30 => calibRead p (freeDma n) s
  | 0x31 => calibWrite fn p (freeDma n) s
  | _ => complete (.mbx p) Code.notfound 0 s

/-- A write to MBX_CMD_p. -/
def mbxWord (fn : Fn) (p n : Nat) (w : Word) (s : State) : State :=
  mbxIssue p (mbxWordAct fn p n (getF w F.mbxCmdOpcode)) s

/-- A register whose write issues a command (R547). -/
def isCmd : Reg → Bool
  | .plateCmd | .ppmCmd | .tblCmd | .asaCmd | .bpmCmd | .qCmd | .schedCmd | .burinCmd | .sealCmd | .updCmd | .twinCmd
  | .mbxCmd => true
  | _ => false

/-- A command written with REG_WRITE: what it meets outside the device is free. -/
def cmdWrite (fn : Fn) (p : Nat) (r : Reg) (w : Word) (s : State) : State :=
  let n := s.freeCtr
  let s := { s with freeCtr := n + 2 }
  match r with
  | .plateCmd => lateBack (plateCommand fn p w s)
  | .ppmCmd => ppmCommand fn p w (freeEcc n) s
  | .tblCmd => tblCommand fn p w (freeEcc n) s
  | .asaCmd => asaCommand fn p w (freeEcc n) s
  | .bpmCmd => bpmCommand fn p w (freeEcc n) s
  | .qCmd => qCommand fn p w (freeEcc n) s
  | .schedCmd => schedCommand fn p w .agree s
  | .burinCmd => burinCommand fn p w (freeEcc n) (freeDma n) s
  | .sealCmd => sealWord fn p n w s
  | .updCmd => updWord fn p n w s
  | .twinCmd => twinCommand fn p w s
  | _ => mbxWord fn p n w s

/-! ### A write of 64 bits -/

/-- A write to a register that stores: discarded where the port does not exist (R82), rejected whole as DENIED or with
QUIESCE_REQUIRED (R11, R12, R548), or stored. -/
def plainWrite (fn : Fn) (p off : Nat) (d : RegDesc) (ix : List Nat) (v : Word) (s : State) : State :=
  if s.noPort d.reg ix then s
  else if d.locked || !d.inTable v || !writeOk s p d.reg ix v then denied fn off 1 s
  else if d.changesQ (s.rd off) v && !s.quiet d.reg ix then quiesceLog fn off 1 s
  else storeWrite d ix off v s

/-- A write the map let through. The registers that act on what is written store nothing of it. -/
def letWrite (fn : Fn) (p off : Nat) (d : RegDesc) (ix : List Nat) (v : Word) (s : State) : State :=
  let a := ix.headD 0
  match d.reg with
  | .sealLock => lockWrite fn p v s
  | .updPreempt => preemptWrite fn p (getF v F.updPreemptPreempt == 1) s
  | .erqAck => ackWrite a v s
  | .erqFatalClr => doIf (getF v F.erqFatalClrClr == 1) (fatalClear a) s
  | .intStatus => intClear p false v s
  | .intRingStatus => intClear p true v s
  | .intEnable => intEnableTo p false v s
  | .intRingEnable => intEnableTo p true v s
  | _ => plainWrite fn p off d ix v s

/-- A write of 64 bits by a function. -/
def hostWrite (fn : Fn) (off : Nat) (v : Word) (s : State) : State :=
  access fn off 1 (fun p d ix s =>
    if isCmd d.reg then cmdWrite fn p d.reg v s else letWrite fn p off d ix v s) s

/-! ### Writes of other sizes (R374, R375) -/

/-- The low half is held for the next access of the function. -/
def holdLow (fn : Fn) (off : Nat) (v : BitVec 32) (s : State) : State :=
  if s.reached fn then
    { s with host := { s.host with held := smapInsert (fnKey fn) (off, v) s.host.held } }
  else s

/-- A write to the high half takes the held low half of the same register, or 0. -/
def writeHigh (fn : Fn) (off : Nat) (v : BitVec 32) (s : State) : State :=
  let low := match smapFind (fnKey fn) s.host.held with
    | some (o, x) => if o = off then x.toNat else 0
    | none => 0
  hostWrite fn off (BitVec.ofNat 64 (2 ^ 32 * v.toNat + low)) s

/-- An access that is not an aligned one of 32 or 64 bits (R374). -/
def badSize (fn : Fn) (s : State) : State :=
  if s.reached fn then
    let s := (dropHeld fn s).emit (.unsupported fn)
    doIf s.locked (report .f 0x01 ((s.partOf fn).getD (Config.unownedInstance (fnKey fn))) .k 0x003 []) s
  else s

/-- A write of `size` bytes at an offset of BAR0. -/
def regWrite (fn : Fn) (off size : Nat) (v : Word) (s : State) : State :=
  if size = 8 ∧ off % 8 = 0 then hostWrite fn off v s
  else if size = 4 ∧ off % 8 = 0 then holdLow fn off (v.setWidth 32) s
  else if size = 4 ∧ off % 8 = 4 then writeHigh fn (off - 4) (v.setWidth 32) s
  else badSize fn s

/-- BAR0 holds 256 MiB (R373); the offsets of an access that follow are those of BAR2, 64 KiB (log 157). -/
def barOk (off : Nat) : Bool := off < 2 ^ 28 + 2 ^ 16
def inBar2 (off : Nat) : Bool := 2 ^ 28 ≤ off

def execRegWrite (fn : Fn) (off size : Nat) (v : Word) (s : State) : Res :=
  guardWf (fnOk fn && barOk off)
    (if inBar2 off then bar2Store fn (off - 2 ^ 28) size v s else regWrite fn off size v s)

def execHalfWriteLow (fn : Fn) (off : Nat) (v : BitVec 32) (s : State) : Res :=
  guardWf (fnOk fn && off < 2 ^ 28 && off % 8 == 0) (holdLow fn off v s)

/-! ### Reads (R7, R8, R10) -/

/-- What a read of a register does beside its answer: read-clear fields, the two-step FIFO, the latch of the time.
MIN_SHARED_FREE starts again at the present value and SCHED_SLACK_MIN at its greatest. -/
def readEffect (r : Reg) (ix : List Nat) (off : Nat) (s : State) : State :=
  let a := ix.headD 0
  match r with
  | .lineTsFifoLo =>
    { s with line := { s.line with tsFifo := smapPut (fun _ => []) a (smapGet (fun _ => []) a s.line.tsFifo).tail s.line.tsFifo } }
  | .bpmSharedStat => s.setFld off F.bpmSharedStatMinSharedFree (s.fld off F.bpmSharedStatSharedFree)
  | .schedSlackMin => s.setFld off F.schedSlackMinMinSlackPs 0x7FFFFFFF
  | .pwrTbTime0 => s.setFld R.pwrTbTime1 F.pwrTbTime1TsHigh (stampHi s.now)
  | _ => s

/-- The part of a word that a read asks for: bits [31:0] (`half` 0), [63:32] (1) or all (2). -/
def partWord (half : Nat) (w : Word) : Nat :=
  match half with
  | 0 => w.toNat % 2 ^ 32
  | 1 => w.toNat / 2 ^ 32
  | _ => w.toNat

/-- A read reaches a register: a low half of a counter latches its high half, the next read of which returns the
latch (R8). -/
def readReg (fn : Fn) (p : Nat) (off half : Nat) (d : RegDesc) (ix : List Nat) (s : State) : State :=
  let at_ := off + (if half = 1 then 4 else 0)
  let w := s.view fn p off d.reg ix
  let k := 4 * off + fnKey fn
  if half = 1 then
    match if d.counter then smapFind k s.host.latch else none with
    | some h => { s with host := { s.host with latch := smapErase k s.host.latch } }.emit (.readReply fn at_ h)
    | none => s.emit (.readReply fn at_ (partWord 1 w))
  else
    let s := doIf (d.counter && half == 0)
      (fun s => { s with host := { s.host with latch := smapInsert k (partWord 1 w) s.host.latch } }) s
    readEffect d.reg ix off (s.emit (.readReply fn at_ (partWord half w)))

/-- A read by a function: 0 where it is reserved, silent or denied; a denied one is logged (R7, R18, R372, R383), as is
a seal slot register that the reader is not granted. -/
def hostRead (fn : Fn) (off half : Nat) (s : State) : State :=
  let zero := fun (s : State) => s.emit (.readReply fn (off + (if half = 1 then 4 else 0)) 0)
  if !s.reached fn then s
  else
    let s := dropHeld fn s
    match regAt off with
    | none => zero s
    | some (d, ix) =>
      match permit s fn d ix false with
      | .ok p => if s.slotHidden p d.reg ix then denied fn off 0 (zero s) else readReg fn p off half d ix s
      | .silent => zero s
      | .denied => denied fn off 0 (zero s)

/-- A read of 32 bits. -/
def read32 (fn : Fn) (off : Nat) (s : State) : State := hostRead fn (off / 8 * 8) (off % 8 / 4) s

/-- A read of 64 bits. -/
def read64 (fn : Fn) (off : Nat) (s : State) : State := hostRead fn off 2 s

/-- A read of `size` bytes at an offset of BAR0 (R374). -/
def regRead (fn : Fn) (off size : Nat) (s : State) : State :=
  if size = 8 ∧ off % 8 = 0 then read64 fn off s
  else if size = 4 ∧ off % 4 = 0 then read32 fn off s
  else badSize fn s

def barRead (fn : Fn) (off size : Nat) (s : State) : State :=
  if inBar2 off then bar2Load fn (off - 2 ^ 28) size s else regRead fn off size s

/-- COUNTER_LOW_READ, and with it every read of 32 bits. -/
def execCounterLowRead (fn : Fn) (off : Nat) (s : State) : Res := guardWf (fnOk fn && barOk off) (barRead fn off 4 s)

/-- READ_CLEAR, and with it every read, of whatever size. -/
def execReadClear (fn : Fn) (off size : Nat) (s : State) : Res := guardWf (fnOk fn && barOk off) (barRead fn off size s)

def execLineTsFifoLoRead (fn : Fn) (port : Nat) (s : State) : Res :=
  guardWf (fnOk fn && port < 96) (read64 fn (R.lineTsFifoLo port) s)

def execPwrTbTimeRead (fn : Fn) (s : State) : Res := guardWf (fnOk fn) (read64 fn R.pwrTbTime0 s)

/-! ### Writes with a row of their own -/

def execLineOctetModeWrite (fn : Fn) (octet mode : Nat) (s : State) : Res :=
  guardWf (fnOk fn && octet < 12 && mode < 16)
    (hostWrite fn (R.lineOctetCfg octet) (setF 0 F.lineOctetCfgMode mode) s)

def execPipeQuiesce (fn : Fn) (v : Word) (s : State) : Res := guardWf (fnOk fn) (hostWrite fn R.plateCtl v s)

def execAsaTableCfgWrite (fn : Fn) (table : Nat) (v : Word) (s : State) : Res :=
  guardWf (fnOk fn && table < 16) (hostWrite fn (R.asaTableCfg table) v s)

def execBpmQuotaWrite (fn : Fn) (r k : Nat) (v : Word) (s : State) : Res :=
  guardWf (fnOk fn && r < 23 && k < 2) (hostWrite fn (R.bpmQuota r k) v s)

/-- A write of 1 to AUTO with the other fields as they stand. -/
def execFallbackAutoClear (fn : Fn) (s : State) : Res :=
  guardWf (fnOk fn) (hostWrite fn R.qAdmitCfg (setF (s.rd R.qAdmitCfg) F.qAdmitCfgAuto 1) s)

/-- A write of 1 to FRAMER_START with the other fields as they stand. -/
def execFramerStart (fn : Fn) (s : State) : Res :=
  guardWf (fnOk fn) (hostWrite fn R.fabCtl (setF (s.rd R.fabCtl) F.fabCtlFramerStart 1) s)

def execFramerStop (fn : Fn) (s : State) : Res :=
  guardWf (fnOk fn) (hostWrite fn R.fabCtl (setF (s.rd R.fabCtl) F.fabCtlFramerStop 1) s)

def execFabLaneEnable (fn : Fn) (lane : Nat) (v : Word) (s : State) : Res :=
  guardWf (fnOk fn && lane < 120) (hostWrite fn (R.fabLaneCfg lane) v s)

/-- A write of 1 to TRACE_CHECK with the other fields as they stand. -/
def execTraceCheck (fn : Fn) (lane : Nat) (s : State) : Res :=
  guardWf (fnOk fn && lane < 120)
    (hostWrite fn (R.fabLaneCfg lane) (setF (s.rd (R.fabLaneCfg lane)) F.fabLaneCfgTraceCheck 1) s)

def execFabReachWrite (fn : Fn) (d : Nat) (v : Word) (s : State) : Res :=
  guardWf (fnOk fn && d < 4096) (hostWrite fn (R.fabReach d) v s)

/-- Clearing RING_EN of a ring of the function's own partition (R389). -/
def execPioRingDisable (fn : Fn) (ring : Nat) (v : Word) (s : State) : Res :=
  guardWf (fnOk fn && ring < 64) (hostWrite fn (R.pioRingCfg ((s.partOf fn).getD 0) ring) (setF v F.pioRingCfgRingEn 0) s)

def execPwrRailCfgWrite (fn : Fn) (die : Nat) (v : Word) (s : State) : Res :=
  guardWf (fnOk fn && die < 2) (hostWrite fn (R.pwrRailCfg die) v s)

def execWakeBudgetWrite (fn : Fn) (d : Domain) (v : Word) (s : State) : Res :=
  guardWf (fnOk fn && domainOk d) (hostWrite fn (domainReg d) v s)

def execTwinEnable (fn : Fn) (v : Word) (s : State) : Res := guardWf (fnOk fn) (hostWrite fn R.twinCfg v s)

end Sys2Proof.Machine
end

