-- ==== Sys2Proof/Machine/Dispatch.lean ====
section
/-! DEFINITION. The dispatcher: the meaning of each command. -/

namespace Sys2Proof.Machine

def exec (i : Instr) (s : State) : Host.Outcome State Fault Refusal :=
  match i with
  | .powerOnReset up => Sys2Proof.Machine.execPowerOnReset up s
  | .regWrite fn off size v => Sys2Proof.Machine.execRegWrite fn off size v s
  | .halfWriteLow fn off v => Sys2Proof.Machine.execHalfWriteLow fn off v s
  | .counterLowRead fn off => Sys2Proof.Machine.execCounterLowRead fn off s
  | .readClear fn off size => Sys2Proof.Machine.execReadClear fn off size s
  | .lineTsFifoLoRead fn port => Sys2Proof.Machine.execLineTsFifoLoRead fn port s
  | .pwrTbTimeRead fn => Sys2Proof.Machine.execPwrTbTimeRead fn s
  | .bootCalibCheck => Sys2Proof.Machine.execBootCalibCheck s
  | .bridgeWireTest failed => Sys2Proof.Machine.execBridgeWireTest failed s
  | .bootSetSelect => Sys2Proof.Machine.execBootSetSelect s
  | .bootManifestCheck => Sys2Proof.Machine.execBootManifestCheck s
  | .pmapLock => Sys2Proof.Machine.execPmapLock s
  | .bootImageLoad => Sys2Proof.Machine.execBootImageLoad s
  | .hbmTrainingDone stack ok => Sys2Proof.Machine.execHbmTrainingDone stack ok s
  | .serdesCalibrationDone => Sys2Proof.Machine.execSerdesCalibrationDone s
  | .bootPlateLoad => Sys2Proof.Machine.execBootPlateLoad s
  | .bootTraceCheck echo => Sys2Proof.Machine.execBootTraceCheck echo s
  | .ready => Sys2Proof.Machine.execReady s
  | .bootFailed => Sys2Proof.Machine.execBootFailed s
  | .bridgeFlitReceive dir chan seq crcOk flit => Sys2Proof.Machine.execBridgeFlitReceive dir chan seq crcOk flit s
  | .stewardFault cut => Sys2Proof.Machine.execStewardFault cut s
  | .stewardRestart => Sys2Proof.Machine.execStewardRestart s
  | .erqAck fn die v => Sys2Proof.Machine.execErqAck fn die v s
  | .erqFatalClr fn die => Sys2Proof.Machine.execErqFatalClr fn die s
  | .headerSegmentArrive port seg whole bad fec => Sys2Proof.Machine.execHeaderSegmentArrive port seg whole bad fec s
  | .frameTailArrive port rest tail fec => Sys2Proof.Machine.execFrameTailArrive port rest tail fec s
  | .pauseFrameReceive port len bad quanta fec => Sys2Proof.Machine.execPauseFrameReceive port len bad quanta fec s
  | .pfcFrameReceive port len bad enables quanta fec => Sys2Proof.Machine.execPfcFrameReceive port len bad enables quanta fec s
  | .pauseExpire port => Sys2Proof.Machine.execPauseExpire port s
  | .linkStateChange port up lf rf fec => Sys2Proof.Machine.execLinkStateChange port up lf rf fec s
  | .synceSquelch out bad => Sys2Proof.Machine.execSynceSquelch out bad s
  | .lineOctetModeWrite fn octet mode => Sys2Proof.Machine.execLineOctetModeWrite fn octet mode s
  | .flowMatch port first firstBit fec vote => Sys2Proof.Machine.execFlowMatch port first firstBit fec vote s
  | .schedOverlen port body fec => Sys2Proof.Machine.execSchedOverlen port body fec s
  | .schedFrameTail port body tail fec => Sys2Proof.Machine.execSchedFrameTail port body tail fec s
  | .packetParse pkt x => Sys2Proof.Machine.execPacketParse pkt x s
  | .pipelineStage pkt x => Sys2Proof.Machine.execPipelineStage pkt x s
  | .ppmScanEnd pkt errs => Sys2Proof.Machine.execPpmScanEnd pkt errs s
  | .reorderArrival stream seq => Sys2Proof.Machine.execReorderArrival stream seq s
  | .reorderTimeout stream => Sys2Proof.Machine.execReorderTimeout stream s
  | .egressEntry port => Sys2Proof.Machine.execEgressEntry port s
  | .txFrame port => Sys2Proof.Machine.execTxFrame port s
  | .xoffSignal port prio => Sys2Proof.Machine.execXoffSignal port prio s
  | .xonSignal port prio => Sys2Proof.Machine.execXonSignal port prio s
  | .pfcRefresh port prio => Sys2Proof.Machine.execPfcRefresh port prio s
  | .plateLoad fn bank gen => Sys2Proof.Machine.execPlateLoad fn bank gen s
  | .plateSwap fn bank gen => Sys2Proof.Machine.execPlateSwap fn bank gen s
  | .plateAbort fn bank gen => Sys2Proof.Machine.execPlateAbort fn bank gen s
  | .plateLoadData d storeOk => Sys2Proof.Machine.execPlateLoadData d storeOk s
  | .plateVerifyDone => Sys2Proof.Machine.execPlateVerifyDone s
  | .plateSwapPoint => Sys2Proof.Machine.execPlateSwapPoint s
  | .plateDrainEnd => Sys2Proof.Machine.execPlateDrainEnd s
  | .plateDrainOverrun => Sys2Proof.Machine.execPlateDrainOverrun s
  | .plateScrub bank word ecc => Sys2Proof.Machine.execPlateScrub bank word ecc s
  | .pipeQuiesce fn v => Sys2Proof.Machine.execPipeQuiesce fn v s
  | .pipelineQuiesced pipe => Sys2Proof.Machine.execPipelineQuiesced pipe s
  | .ppmWrite fn index => Sys2Proof.Machine.execPpmWrite fn index s
  | .ppmRead fn index ecc => Sys2Proof.Machine.execPpmRead fn index ecc s
  | .ppmInvalidate fn index => Sys2Proof.Machine.execPpmInvalidate fn index s
  | .tblWrite fn table => Sys2Proof.Machine.execTblWrite fn table s
  | .tblRead fn table mask ecc => Sys2Proof.Machine.execTblRead fn table mask ecc s
  | .tblInsert fn table mask => Sys2Proof.Machine.execTblInsert fn table mask s
  | .tblDelete fn table mask => Sys2Proof.Machine.execTblDelete fn table mask s
  | .tblLookup fn table mask => Sys2Proof.Machine.execTblLookup fn table mask s
  | .tblCommit fn => Sys2Proof.Machine.execTblCommit fn s
  | .tblFence fn => Sys2Proof.Machine.execTblFence fn s
  | .tblFenceDone part ring => Sys2Proof.Machine.execTblFenceDone part ring s
  | .tblFenceTimeout part ring => Sys2Proof.Machine.execTblFenceTimeout part ring s
  | .tblRingGroup part d group => Sys2Proof.Machine.execTblRingGroup part d group s
  | .macAgerVisit pipe slot => Sys2Proof.Machine.execMacAgerVisit pipe slot s
  | .tblScrub table pipe index ecc => Sys2Proof.Machine.execTblScrub table pipe index ecc s
  | .asaWrite fn table => Sys2Proof.Machine.execAsaWrite fn table s
  | .asaRead fn table ecc => Sys2Proof.Machine.execAsaRead fn table ecc s
  | .asaInvalidate fn table => Sys2Proof.Machine.execAsaInvalidate fn table s
  | .asaInsertAt fn table ecc => Sys2Proof.Machine.execAsaInsertAt fn table ecc s
  | .asaSearchCmd fn table ecc => Sys2Proof.Machine.execAsaSearchCmd fn table ecc s
  | .asaTableCfgWrite fn table v => Sys2Proof.Machine.execAsaTableCfgWrite fn table v s
  | .asaScrubVisit bank row find => Sys2Proof.Machine.execAsaScrubVisit bank row find s
  | .pageRequest r pool body => Sys2Proof.Machine.execPageRequest r pool body s
  | .pageFree r pool head count => Sys2Proof.Machine.execPageFree r pool head count s
  | .refInc r pool head => Sys2Proof.Machine.execRefInc r pool head s
  | .refDec r pool head count => Sys2Proof.Machine.execRefDec r pool head count s
  | .bpmReadRec fn ecc => Sys2Proof.Machine.execBpmReadRec fn ecc s
  | .bpmReadRef fn ecc => Sys2Proof.Machine.execBpmReadRef fn ecc s
  | .bpmRetire fn => Sys2Proof.Machine.execBpmRetire fn s
  | .bpmRestore fn => Sys2Proof.Machine.execBpmRestore fn s
  | .bpmQuotaWrite fn r k v => Sys2Proof.Machine.execBpmQuotaWrite fn r k v s
  | .bpmStackFailed stack phyLost uncorr => Sys2Proof.Machine.execBpmStackFailed stack phyLost uncorr s
  | .bpmMemoryError m ecc => Sys2Proof.Machine.execBpmMemoryError m ecc s
  | .queueArrival r => Sys2Proof.Machine.execQueueArrival r s
  | .packetTailStored pkt => Sys2Proof.Machine.execPacketTailStored pkt s
  | .recircReturn => Sys2Proof.Machine.execRecircReturn s
  | .egressDequeue port => Sys2Proof.Machine.execEgressDequeue port s
  | .ctUnderrun port => Sys2Proof.Machine.execCtUnderrun port s
  | .voqPacketStart q => Sys2Proof.Machine.execVoqPacketStart q s
  | .creditRefresh q => Sys2Proof.Machine.execCreditRefresh q s
  | .requestReceive => Sys2Proof.Machine.execRequestReceive s
  | .requestExpire port tc dev => Sys2Proof.Machine.execRequestExpire port tc dev s
  | .grantIssue port => Sys2Proof.Machine.execGrantIssue port s
  | .grantReceive => Sys2Proof.Machine.execGrantReceive s
  | .qWrite fn object => Sys2Proof.Machine.execQWrite fn object s
  | .qRead fn object ecc => Sys2Proof.Machine.execQRead fn object ecc s
  | .qCommit fn object => Sys2Proof.Machine.execQCommit fn object s
  | .qFlush fn => Sys2Proof.Machine.execQFlush fn s
  | .flushDone part => Sys2Proof.Machine.execFlushDone part s
  | .flushTimeout part => Sys2Proof.Machine.execFlushTimeout part s
  | .qEccUncorr mem ecc => Sys2Proof.Machine.execQEccUncorr mem ecc s
  | .fallbackAutoClear fn => Sys2Proof.Machine.execFallbackAutoClear fn s
  | .schedLoad fn bank gen => Sys2Proof.Machine.execSchedLoad fn bank gen s
  | .schedSwap fn bank gen => Sys2Proof.Machine.execSchedSwap fn bank gen s
  | .schedAbort fn bank gen => Sys2Proof.Machine.execSchedAbort fn bank gen s
  | .schedRestart fn vote => Sys2Proof.Machine.execSchedRestart fn vote s
  | .schedLoadData d storeOk => Sys2Proof.Machine.execSchedLoadData d storeOk s
  | .schedVerifyDone => Sys2Proof.Machine.execSchedVerifyDone s
  | .schedArm => Sys2Proof.Machine.execSchedArm s
  | .schedBankEccError bank => Sys2Proof.Machine.execSchedBankEccError bank s
  | .multiframeBoundary vote => Sys2Proof.Machine.execMultiframeBoundary vote s
  | .cellSlotPick lane pos arrived ecc vote => Sys2Proof.Machine.execCellSlotPick lane pos arrived ecc vote s
  | .schedCellReceive ecc vote => Sys2Proof.Machine.execSchedCellReceive ecc vote s
  | .schedRelease bank release vote => Sys2Proof.Machine.execSchedRelease bank release vote s
  | .framerStart fn => Sys2Proof.Machine.execFramerStart fn s
  | .framerStop fn => Sys2Proof.Machine.execFramerStop fn s
  | .framerRun => Sys2Proof.Machine.execFramerRun s
  | .fabLaneEnable fn lane v => Sys2Proof.Machine.execFabLaneEnable fn lane v s
  | .traceCheck fn lane => Sys2Proof.Machine.execTraceCheck fn lane s
  | .fabReachWrite fn d v => Sys2Proof.Machine.execFabReachWrite fn d v s
  | .fabFrameTransmit lane => Sys2Proof.Machine.execFabFrameTransmit lane s
  | .fabFrameReceive lane pos frame => Sys2Proof.Machine.execFabFrameReceive lane pos frame s
  | .fabLos lane => Sys2Proof.Machine.execFabLos lane s
  | .groupFrameRead group => Sys2Proof.Machine.execGroupFrameRead group s
  | .fabCellReceive lane pos cell => Sys2Proof.Machine.execFabCellReceive lane pos cell s
  | .fabMsgReceive lane msg => Sys2Proof.Machine.execFabMsgReceive lane msg s
  | .reasmTimeout srcDev srcGroup tc => Sys2Proof.Machine.execReasmTimeout srcDev srcGroup tc s
  | .repinGuardExpire d => Sys2Proof.Machine.execRepinGuardExpire d s
  | .fabPmLatch => Sys2Proof.Machine.execFabPmLatch s
  | .burinEvent fn evtOp => Sys2Proof.Machine.execBurinEvent fn evtOp s
  | .burinCreate fn => Sys2Proof.Machine.execBurinCreate fn s
  | .burinDelete fn => Sys2Proof.Machine.execBurinDelete fn s
  | .burinCtxRead fn ecc => Sys2Proof.Machine.execBurinCtxRead fn ecc s
  | .burinClearFault fn => Sys2Proof.Machine.execBurinClearFault fn s
  | .burinLoad fn image => Sys2Proof.Machine.execBurinLoad fn image s
  | .burinRegionSwitch => Sys2Proof.Machine.execBurinRegionSwitch s
  | .burinEventStart engine session ecc => Sys2Proof.Machine.execBurinEventStart engine session ecc s
  | .burinEventEnd engine errs => Sys2Proof.Machine.execBurinEventEnd engine errs s
  | .burinEventAbandon engine errs => Sys2Proof.Machine.execBurinEventAbandon engine errs s
  | .burinFault engine errs => Sys2Proof.Machine.execBurinFault engine errs s
  | .burinTimerExpire session timer => Sys2Proof.Machine.execBurinTimerExpire session timer s
  | .perstN port => Sys2Proof.Machine.execPerstN port s
  | .functionLevelReset fn => Sys2Proof.Machine.execFunctionLevelReset fn s
  | .pioTxDescriptor part ring desc frame => Sys2Proof.Machine.execPioTxDescriptor part ring desc frame s
  | .pioRingDisable fn ring v => Sys2Proof.Machine.execPioRingDisable fn ring v s
  | .rxCoalExpire part ring => Sys2Proof.Machine.execRxCoalExpire part ring s
  | .intStatusClear fn rings v => Sys2Proof.Machine.execIntStatusClear fn rings v s
  | .msixUnmask fn vec => Sys2Proof.Machine.execMsixUnmask fn vec s
  | .mbxVersion fn => Sys2Proof.Machine.execMbxVersion fn s
  | .mbxThermal fn => Sys2Proof.Machine.execMbxThermal fn s
  | .mbxPing fn => Sys2Proof.Machine.execMbxPing fn s
  | .settingsGet fn => Sys2Proof.Machine.execSettingsGet fn s
  | .settingsPut fn => Sys2Proof.Machine.execSettingsPut fn s
  | .calibRead fn dma => Sys2Proof.Machine.execCalibRead fn dma s
  | .calibWrite fn rec => Sys2Proof.Machine.execCalibWrite fn rec s
  | .smbusRead addr sent fmt pec => Sys2Proof.Machine.execSmbusRead addr sent fmt pec s
  | .sealAcquire fn => Sys2Proof.Machine.execSealAcquire fn s
  | .sealRelease fn => Sys2Proof.Machine.execSealRelease fn s
  | .sealBreak fn => Sys2Proof.Machine.execSealBreak fn s
  | .sealUnwrap fn slot blob ecc kekEcc => Sys2Proof.Machine.execSealUnwrap fn slot blob ecc kekEcc s
  | .sealEncrypt fn slot tagLen aad text part ecc => Sys2Proof.Machine.execSealEncrypt fn slot tagLen aad text part ecc s
  | .sealDecrypt fn slot tagLen stream aad text part ecc => Sys2Proof.Machine.execSealDecrypt fn slot tagLen stream aad text part ecc s
  | .sealClear fn slot ecc => Sys2Proof.Machine.execSealClear fn slot ecc s
  | .updOpen fn manifest => Sys2Proof.Machine.execUpdOpen fn manifest s
  | .updWrite fn comp chunk progOk => Sys2Proof.Machine.execUpdWrite fn comp chunk progOk s
  | .updVerify fn => Sys2Proof.Machine.execUpdVerify fn s
  | .updSealWaitTimeout => Sys2Proof.Machine.execUpdSealWaitTimeout s
  | .updActivate fn sw => Sys2Proof.Machine.execUpdActivate fn sw s
  | .stewardReady => Sys2Proof.Machine.execStewardReady s
  | .updConfirm fn => Sys2Proof.Machine.execUpdConfirm fn s
  | .updRevert fn => Sys2Proof.Machine.execUpdRevert fn s
  | .updClose fn => Sys2Proof.Machine.execUpdClose fn s
  | .updPreempt fn => Sys2Proof.Machine.execUpdPreempt fn s
  | .updSessionLapsed => Sys2Proof.Machine.execUpdSessionLapsed s
  | .confirmTimerExpire => Sys2Proof.Machine.execConfirmTimerExpire s
  | .ptpMfBoundary phaseIn phaseOut => Sys2Proof.Machine.execPtpMfBoundary phaseIn phaseOut s
  | .pwrRailCfgWrite fn die v => Sys2Proof.Machine.execPwrRailCfgWrite fn die v s
  | .avsReadback rail mv => Sys2Proof.Machine.execAvsReadback rail mv s
  | .thermalRead readings => Sys2Proof.Machine.execThermalRead readings s
  | .thermalStale => Sys2Proof.Machine.execThermalStale s
  | .domainSleep d => Sys2Proof.Machine.execDomainSleep d s
  | .domainWake d tookNs => Sys2Proof.Machine.execDomainWake d tookNs s
  | .wakeBudgetWrite fn d v => Sys2Proof.Machine.execWakeBudgetWrite fn d v s
  | .ppsOut => Sys2Proof.Machine.execPpsOut s
  | .ppsInEdge => Sys2Proof.Machine.execPpsInEdge s
  | .ppsLoss => Sys2Proof.Machine.execPpsLoss s
  | .twinEnable fn v => Sys2Proof.Machine.execTwinEnable fn v s
  | .twinSwitch fn => Sys2Proof.Machine.execTwinSwitch fn s
  | .twinForceActive fn => Sys2Proof.Machine.execTwinForceActive fn s
  | .twinClearFailed fn => Sys2Proof.Machine.execTwinClearFailed fn s
  | .twinRecordReceive lane cell => Sys2Proof.Machine.execTwinRecordReceive lane cell s
  | .twinLinkDown => Sys2Proof.Machine.execTwinLinkDown s
  | .twinHealthInFall => Sys2Proof.Machine.execTwinHealthInFall s
  | .twinHealthWaitExpire => Sys2Proof.Machine.execTwinHealthWaitExpire s
  | .fabSignalLock lane => Sys2Proof.Machine.execFabSignalLock lane s
  | .perstNRise port => Sys2Proof.Machine.execPerstNRise port s
  | .voqAgeDiscard q => Sys2Proof.Machine.execVoqAgeDiscard q s
  | .twinHealthInRise => Sys2Proof.Machine.execTwinHealthInRise s

end Sys2Proof.Machine
end

