-- ==== Sys2Proof/Machine/Idle.lean ====
section
/-! DEFINITION. What passes while no command waits: one period of the 156.25 MHz reference (R266, R482). -/

namespace Sys2Proof.Machine

/-- One reference period in ticks of 0.1 ns. -/
def refTicks : Nat := 64

/-- The timebase advances by one reference period, adjusted by the servo's frequency in ppb × 2^16 with the fraction of
a tick carried (R482). This is the master on the F-die; what the T-die reads as its own copy is `State.nowOf`. The pace of
the T-die's units is judged by the master: DESIGN CHOICE, log 158. -/
def timeAdvance (s : State) : State :=
  let unit : Int := 1000000000 * 65536
  let f := s.pwr.frac + s.pwr.adj * (refTicks : Int)
  { s with now := s.now + ((refTicks : Int) + f / unit).toNat, pwr := { s.pwr with frac := f % unit } }

/-- A reference period passes once POR_N is high: the timebase and the framer's count advance, and the steward refreshes
its readings when they are due (R395). Everything else that time brings is a command of its own, which acts when it is
due. -/
def idleTick (s : State) : State :=
  if s.bootStateOf = 0 then s
  else
    let s := timeAdvance s
    smbRefresh { s with fab := { s.fab with ref := s.fab.ref + 1 } }

end Sys2Proof.Machine
end

