-- ==== Sys2Proof/Machine/Jtag.lean ====
section
/-! DEFINITION. The JTAG TAP (R4, R538): the controller of IEEE 1149.1, the IDCODE of stepping A1, BYPASS and the
boundary-scan instructions the spec names. No row of the table drives its pins, so no command calls these; log 147. -/

namespace Sys2Proof.Machine

/-- The controller at a rising edge of TCK with TMS; PRESUMED: the state diagram of IEEE 1149.1, which R4 names. -/
def tapNext (tms : Bool) : TapCtl → TapCtl
  | .reset => if tms then .reset else .idle
  | .idle => if tms then .selDr else .idle
  | .selDr => if tms then .selIr else .captDr
  | .captDr => if tms then .exit1Dr else .shiftDr
  | .shiftDr => if tms then .exit1Dr else .shiftDr
  | .exit1Dr => if tms then .updDr else .pauseDr
  | .pauseDr => if tms then .exit2Dr else .pauseDr
  | .exit2Dr => if tms then .updDr else .shiftDr
  | .updDr => if tms then .selDr else .idle
  | .selIr => if tms then .reset else .captIr
  | .captIr => if tms then .exit1Ir else .shiftIr
  | .shiftIr => if tms then .exit1Ir else .shiftIr
  | .exit1Ir => if tms then .updIr else .pauseIr
  | .pauseIr => if tms then .exit2Ir else .pauseIr
  | .exit2Ir => if tms then .updIr else .shiftIr
  | .updIr => if tms then .selDr else .idle

/-- The IDCODE of stepping A1 (R538). -/
def idcode : Nat := 0x109600F3

/-- The bits of a word of `n` bits, the first to be shifted out first. -/
def lsbFirst (n v : Nat) : List Bool := (List.range n).map (nbit v)

/-- What the data register of an instruction captures: the IDCODE, a single 0 for BYPASS, or the levels of the pins. -/
def tapCapture (pins : List Bool) : TapInstr → List Bool
  | .bypass => [false]
  | .idcode => lsbFirst 32 idcode
  | .extest | .extestPulse | .extestTrain => pins

/-- A shift register moves one bit towards TDO and takes TDI. -/
def tapShift (tdi : Bool) (l : List Bool) : List Bool := l.drop 1 ++ [tdi]

/-- TDO. -/
def tapOut (t : TapSt) : Bool :=
  match t.ctl with
  | .shiftDr => t.dr.headD false
  | .shiftIr => t.ir.headD false
  | _ => false

/-- The instruction of a code: the four that the spec names, BYPASS for every other code. -/
def tapInstrOf : Nat → TapInstr
  | 0 => .idcode
  | 1 => .extest
  | 2 => .extestPulse
  | 3 => .extestTrain
  | _ => .bypass

/-- What a state of the controller does until the next rising edge of TCK. In Run-Test/Idle EXTEST_PULSE holds the AC-coupled
balls at the inverse of their cells and EXTEST_TRAIN toggles them with TCK; PRESUMED: IEEE 1149.6, which R538 names. -/
def tapActIn (tdi : Bool) (pins : List Bool) (t : TapSt) : TapSt :=
  match t.ctl with
  | .reset => { t with instr := .idcode, ac := false }
  | .idle => { t with ac := t.instr == .extestPulse || (t.instr == .extestTrain && !t.ac) }
  | .captDr => { t with dr := tapCapture pins t.instr }
  | .shiftDr => { t with dr := tapShift tdi t.dr }
  | .updDr =>
    match t.instr with
    | .extest | .extestPulse | .extestTrain => { t with cells := t.dr }
    | _ => t
  | .captIr => { t with ir := Config.tapIr }
  | .shiftIr => { t with ir := tapShift tdi t.ir }
  | .updIr => { t with instr := tapInstrOf (Config.tapCode t.ir) }
  | _ => t

/-- The same, the AC-coupled balls back at their cells outside Run-Test/Idle. -/
def tapAct (tdi : Bool) (pins : List Bool) (t : TapSt) : TapSt :=
  let u := tapActIn tdi pins t
  if t.ctl = .idle then u else { u with ac := false }

/-- A rising edge of TCK. -/
def tapClock (tms tdi : Bool) (pins : List Bool) (t : TapSt) : TapSt :=
  let u := tapAct tdi pins t
  { u with ctl := tapNext tms t.ctl }

/-- TRST_N low resets the TAP, whatever POR_N says (R525). -/
def tapReset : TapSt := emptyTap

/-- The level at which a boundary cell drives its ball: its value, or the inverse while an AC test inverts an AC-coupled
ball. -/
def tapLevel (t : TapSt) (coupled : Bool) (cell : Bool) : Bool := cell != (coupled && t.ac)

/-- The cells of the boundary register drive the pins while one of the EXTEST instructions stands. -/
def tapDrives (t : TapSt) : Bool :=
  match t.instr with
  | .extest | .extestPulse | .extestTrain => true
  | _ => false

end Sys2Proof.Machine
end

