-- ==== Sys2Proof/WellFormed.lean ====
section
/-! DEFINITION. Which commands name something the device has: the condition under which a command runs. One that does
not meet it is refused as `illFormed`. -/

namespace Sys2Proof

open Sys2Proof.Machine

/-- The operands of a command lie within what the device has: its functions, ports, lanes, slots, the widths of its
fields. -/
def Instr.wf (i : Instr) : Bool :=
  match i with
  | .powerOnReset up => up.straps.pcieMode < 4
  | .regWrite fn off _ _ => fnOk fn && barOk off
  | .halfWriteLow fn off _ => fnOk fn && off < 2 ^ 28 && off % 8 == 0
  | .counterLowRead fn off => fnOk fn && barOk off
  | .readClear fn off _ => fnOk fn && barOk off
  | .lineTsFifoLoRead fn port => fnOk fn && port < 96
  | .pwrTbTimeRead fn => fnOk fn
  | .bootCalibCheck => true
  | .bridgeWireTest failed => failed.all (fun w => w.1 < 96 && w.2 < 42)
  | .bootSetSelect => true
  | .bootManifestCheck => true
  | .pmapLock => true
  | .bootImageLoad => true
  | .hbmTrainingDone stack _ => stack < 5
  | .serdesCalibrationDone => true
  | .bootPlateLoad => true
  | .bootTraceCheck echo => echo.all (fun e => e.1 < 120)
  | .ready => true
  | .bootFailed => true
  | .bridgeFlitReceive dir chan _ _ flit => dir < 2 && chan < 48 && flit.length == 64
  | .stewardFault cut => cut.all cutOk
  | .stewardRestart => true
  | .erqAck fn die _ => fnOk fn && die < 2
  | .erqFatalClr fn die => fnOk fn && die < 2
  | .headerSegmentArrive port seg whole _ _ => port < 96 && seg.length ≤ 384 && (whole || seg.length == 384)
  | .frameTailArrive port _ _ _ => port < 96
  | .pauseFrameReceive port _ _ quanta _ => port < 96 && quanta < 65536
  | .pfcFrameReceive port _ _ _ quanta _ => port < 96 && quanta.all (· < 65536)
  | .pauseExpire port => port < 96
  | .linkStateChange port _ _ _ _ => port < 96
  | .synceSquelch out _ => out < 2
  | .lineOctetModeWrite fn octet mode => fnOk fn && octet < 12 && mode < 16
  | .flowMatch port first firstBit _ vote => port < 96 && first.length ≤ 64 && 16 ≤ first.length && firstBit < mfTicks && voteOk vote
  | .schedOverlen port _ _ => port < 96
  | .schedFrameTail port _ _ _ => port < 96
  | .packetParse _ _ => true
  | .pipelineStage _ _ => true
  | .ppmScanEnd _ errs => errs.all (fun e => e.1 < 4096)
  | .reorderArrival stream seq => stream ≤ 96 && seq < 65536
  | .reorderTimeout stream => stream ≤ 96
  | .egressEntry port => port < 96
  | .txFrame port => port < 96
  | .xoffSignal port prio => port < 96 && prio < 8
  | .xonSignal port prio => port < 96 && prio < 8
  | .pfcRefresh port prio => port < 96 && prio < 8
  | .plateLoad fn bank gen => fnOk fn && bank < 2 && gen < 65536
  | .plateSwap fn bank gen => fnOk fn && bank < 2 && gen < 65536
  | .plateAbort fn bank gen => fnOk fn && bank < 2 && gen < 65536
  | .plateLoadData _ _ => true
  | .plateVerifyDone => true
  | .plateSwapPoint => true
  | .plateDrainEnd => true
  | .plateDrainOverrun => true
  | .plateScrub bank word _ => bank < 2 && word < 1048576
  | .pipeQuiesce fn _ => fnOk fn
  | .pipelineQuiesced pipe => pipe < 16
  | .ppmWrite fn index => fnOk fn && index < 4096
  | .ppmRead fn index _ => fnOk fn && index < 4096
  | .ppmInvalidate fn index => fnOk fn && index < 4096
  | .tblWrite fn table => fnOk fn && table < 256
  | .tblRead fn table _ _ => fnOk fn && table < 256
  | .tblInsert fn table _ => fnOk fn && table < 256
  | .tblDelete fn table _ => fnOk fn && table < 256
  | .tblLookup fn table _ => fnOk fn && table < 256
  | .tblCommit fn => fnOk fn
  | .tblFence fn => fnOk fn
  | .tblFenceDone part _ => part < 4
  | .tblFenceTimeout part _ => part < 4
  | .tblRingGroup part _ _ => part < 4
  | .macAgerVisit pipe _ => pipe < 16
  | .tblScrub table pipe _ _ => 1 ≤ table && table ≤ 8 && table != 2 && pipe < 16
  | .asaWrite fn table => fnOk fn && table < 16
  | .asaRead fn table _ => fnOk fn && table < 16
  | .asaInvalidate fn table => fnOk fn && table < 16
  | .asaInsertAt fn table _ => fnOk fn && table < 16
  | .asaSearchCmd fn table _ => fnOk fn && table < 16
  | .asaTableCfgWrite fn table _ => fnOk fn && table < 16
  | .asaScrubVisit bank row _ => bank < 16 && row < 16384
  | .pageRequest r pool body => r < 23 && pool < 2 && (match body with | some h => decide (h < poolSize pool) | none => true)
  | .pageFree r pool head _ => r < 23 && pool < 3 && head < poolSize pool
  | .refInc r pool head => r < 23 && pool < 3 && head < poolSize pool
  | .refDec r pool head _ => r < 23 && pool < 3 && head < poolSize pool
  | .bpmReadRec fn _ => fnOk fn
  | .bpmReadRef fn _ => fnOk fn
  | .bpmRetire fn => fnOk fn
  | .bpmRestore fn => fnOk fn
  | .bpmQuotaWrite fn r k _ => fnOk fn && r < 23 && k < 2
  | .bpmStackFailed stack _ _ => stack < 5
  | .bpmMemoryError m _ => bpmMemOk m
  | .queueArrival r => r < 23
  | .packetTailStored _ => true
  | .recircReturn => true
  | .egressDequeue port => port < 96
  | .ctUnderrun port => port < 96
  | .voqPacketStart q => q < voqCount
  | .creditRefresh q => q < voqCount
  | .requestReceive => true
  | .requestExpire port tc dev => port < 128 && tc < 8 && dev < 4096
  | .grantIssue port => port < 96
  | .grantReceive => true
  | .qWrite fn object => fnOk fn && object < 256
  | .qRead fn object _ => fnOk fn && object < 256
  | .qCommit fn object => fnOk fn && object < 256
  | .qFlush fn => fnOk fn
  | .flushDone part => part < 4
  | .flushTimeout part => part < 4
  | .qEccUncorr mem _ => qMemOk mem
  | .fallbackAutoClear fn => fnOk fn
  | .schedLoad fn bank gen => fnOk fn && bank < 2 && gen < 65536
  | .schedSwap fn bank gen => fnOk fn && bank < 2 && gen < 65536
  | .schedAbort fn bank gen => fnOk fn && bank < 2 && gen < 65536
  | .schedRestart fn vote => fnOk fn && voteOk vote
  | .schedLoadData _ _ => true
  | .schedVerifyDone => true
  | .schedArm => true
  | .schedBankEccError bank => bank < 2
  | .multiframeBoundary vote => voteOk vote
  | .cellSlotPick lane pos _ _ vote => lane < 120 && pos < 10240 && voteOk vote
  | .schedCellReceive _ vote => voteOk vote
  | .schedRelease bank release vote => bank < 2 && release < 16384 && voteOk vote
  | .framerStart fn => fnOk fn
  | .framerStop fn => fnOk fn
  | .framerRun => true
  | .fabLaneEnable fn lane _ => fnOk fn && lane < 120
  | .traceCheck fn lane => fnOk fn && lane < 120
  | .fabReachWrite fn d _ => fnOk fn && d < 4096
  | .fabFrameTransmit lane => lane < 120
  | .fabFrameReceive lane pos frame => lane < 120 && pos < 83968 && frame.length == 10496
  | .fabLos lane => lane < 120
  | .groupFrameRead group => group < 24
  | .fabCellReceive lane pos cell => lane < 120 && pos < 10240 && cell.length == 256
  | .fabMsgReceive lane _ => lane < 120
  | .reasmTimeout srcDev srcGroup tc => srcDev < 4096 && srcGroup < 32 && tc < 8
  | .repinGuardExpire d => d < 4096
  | .fabPmLatch => true
  | .burinEvent fn evtOp => fnOk fn && evtOp < 256
  | .burinCreate fn => fnOk fn
  | .burinDelete fn => fnOk fn
  | .burinCtxRead fn _ => fnOk fn
  | .burinClearFault fn => fnOk fn
  | .burinLoad fn _ => fnOk fn
  | .burinRegionSwitch => true
  | .burinEventStart engine session _ => engine < 64 && session < 16384
  | .burinEventEnd engine errs => engine < 64 && storeErrsOk errs
  | .burinEventAbandon engine errs => engine < 64 && storeErrsOk errs
  | .burinFault engine errs => engine < 64 && storeErrsOk errs
  | .burinTimerExpire session timer => session < 16384 && timer < 2
  | .perstN port => port < 2
  | .functionLevelReset fn => fnOk fn
  | .pioTxDescriptor part ring _ _ => part < 4 && ring < 64
  | .pioRingDisable fn ring _ => fnOk fn && ring < 64
  | .rxCoalExpire part ring => part < 4 && ring < 64
  | .intStatusClear fn _ _ => fnOk fn
  | .msixUnmask fn vec => fnOk fn && vec < 256
  | .mbxVersion fn => fnOk fn
  | .mbxThermal fn => fnOk fn
  | .mbxPing fn => fnOk fn
  | .settingsGet fn => fnOk fn
  | .settingsPut fn => fnOk fn
  | .calibRead fn _ => fnOk fn
  | .calibWrite fn _ => fnOk fn
  | .smbusRead addr sent _ _ => addr < 128 && 1 ≤ sent.length
  | .sealAcquire fn => fnOk fn
  | .sealRelease fn => fnOk fn
  | .sealBreak fn => fnOk fn
  | .sealUnwrap fn slot _ _ _ => fnOk fn && slot < 32
  | .sealEncrypt fn slot tagLen _ _ _ _ => fnOk fn && slot < 32 && tagLen < 32
  | .sealDecrypt fn slot tagLen _ _ _ _ _ => fnOk fn && slot < 32 && tagLen < 32
  | .sealClear fn slot _ => fnOk fn && slot < 32
  | .updOpen fn _ => fnOk fn
  | .updWrite fn comp _ _ => fnOk fn && comp < 256
  | .updVerify fn => fnOk fn
  | .updSealWaitTimeout => true
  | .updActivate fn sw => fnOk fn && switchOk sw
  | .stewardReady => true
  | .updConfirm fn => fnOk fn
  | .updRevert fn => fnOk fn
  | .updClose fn => fnOk fn
  | .updPreempt fn => fnOk fn
  | .updSessionLapsed => true
  | .confirmTimerExpire => true
  | .ptpMfBoundary _ _ => true
  | .pwrRailCfgWrite fn die _ => fnOk fn && die < 2
  | .avsReadback rail mv => rail < 2 && mv < 65536
  | .thermalRead readings => readings.length == 32 && readings.all (fun x => decide (-32000 ≤ x) && decide (x ≤ 32000))
  | .thermalStale => true
  | .domainSleep d => domainOk d
  | .domainWake d tookNs => domainOk d && tookNs < 2 ^ 32
  | .wakeBudgetWrite fn d _ => fnOk fn && domainOk d
  | .ppsOut => true
  | .ppsInEdge => true
  | .ppsLoss => true
  | .twinEnable fn _ => fnOk fn
  | .twinSwitch fn => fnOk fn
  | .twinForceActive fn => fnOk fn
  | .twinClearFailed fn => fnOk fn
  | .twinRecordReceive lane cell => lane < 120 && cell.length == 256
  | .twinLinkDown => true
  | .twinHealthInFall => true
  | .twinHealthWaitExpire => true
  | .fabSignalLock lane => lane < 120
  | .perstNRise port => port < 2
  | .voqAgeDiscard q => q < voqCount
  | .twinHealthInRise => true

end Sys2Proof
end

