-- ==== Sys2Proof/Safety.lean ====
section
/-! DEFINITION. What claims speak of: the sound state, the function of a partition, an interface that takes a command,
what a step leaves alone. -/

namespace Sys2Proof.Machine

/-- The invariant of every state that a run reaches: the register store is in its canonical form, and each error record
queue holds at most its 64 records (R397). -/
structure State.Sound (s : State) : Prop where
  regs : SMapWf regReset s.regs
  erqF : s.host.erqF.length ≤ 64
  erqT : s.host.erqT.length ≤ 64

/-- What no command touches: the queue of waiting commands, the owner configuration in flash, and what has already left
the device, to which more may be added. -/
structure State.Leaves (s t : State) : Prop where
  queue : t.pending = s.pending
  owner : t.flash.owner = s.flash.owner
  said  : s.outs <:+ t.outs

/-- The function is the one of partition `p`, and it reaches the device. -/
structure State.Owns (s : State) (fn : Fn) (p : Nat) : Prop where
  shape   : fnOk fn = true
  reached : s.reached fn = true
  part    : s.partOf fn = some p

/-- The function of partition `p` may write the registers of block `b`. -/
structure State.MayWrite (s : State) (fn : Fn) (p b : Nat) : Prop extends s.Owns fn p where
  block : 2 ≤ s.blockAccess p b

/-- The interface takes the next command: it is not busy and the device is READY. -/
structure State.Takes (s : State) (i : Ifc) : Prop where
  free  : s.busy i = false
  ready : s.boot.ready = true

/-- The state once the interface has accepted a command with opcode `op` from partition `p`'s function. -/
def State.taken (s : State) (fn : Fn) (i : Ifc) (op p : Nat) : State := accept i op p (dropHeld fn s)

/-- Every check of a list passes. -/
abbrev Passes {α : Type} (checks : List (Bool × α)) : Prop := checks.all (·.1) = true

/-- A write of `v` by the function of partition `p` to the register at `off` passes every check and is stored: the map
lets it through, the register stores what is written and stands in a port that exists, and R11, R12, R548 and the
register's own rules allow the value. -/
structure State.Stores (s : State) (fn : Fn) (p off : Nat) (d : RegDesc) (ix : List Nat) (v : Word) : Prop where
  shape   : fnOk fn = true
  reached : s.reached fn = true
  place   : regAt off = some (d, ix)
  plain   : isCmd d.reg = false ∧ ¬(d.reg ∈ [.sealLock, .updPreempt, .erqAck, .erqFatalClr, .intStatus, .intRingStatus,
              .intEnable, .intRingEnable])
  map     : permit s fn d ix true = .ok p
  exists_ : s.noPort d.reg ix = false
  writes  : d.locked = false ∧ d.inTable v = true ∧ writeOk s p d.reg ix v = true
  still   : d.changesQ (s.rd off) v = false ∨ s.quiet d.reg ix = true

end Sys2Proof.Machine
end

