-- ==== Sys2Proof/Certificates/Slice0/Obligations.lean ====
section
/-! DEFINITION. The statements for the provers. Each names the rules of spec/ it rests on. -/

open Sys2Proof Sys2Proof.Machine

/-! ### Whole machine -/

/-- Every step from a sound state that answers a next state answers a sound one. -/
def Obligations.StepKeepsSound : Prop :=
  ∀ s t : State, s.Sound → step s = .next t → t.Sound

/-- No step removes what has left the device, rewrites the owner configuration in flash, or touches a waiting command but
the one it takes from the front. -/
def Obligations.StepLeavesTheRest : Prop :=
  ∀ s t : State, step s = .next t →
    t.pending = s.pending.tail ∧ t.flash.owner = s.flash.owner ∧ s.outs <:+ t.outs

/-- A command whose operands name what the device has answers a next state, whatever the state; any other is refused by
name (the refusal is the model's, log entry 1). -/
def Obligations.WellFormedCommandsAnswer : Prop :=
  ∀ (i : Instr) (s : State),
    (i.wf = true → ∃ t, exec i s = .next t) ∧ (i.wf = false → exec i s = .refused .illFormed)

/-! ### Plates, parser and pattern search -/

/-- LOAD, SWAP and ABORT of a bank in the states of R60 and R61, and ABORT of the load in progress while the interface is
BUSY (R58). DETAIL 0 of a completion with OK is the model's choice (log entry 149); with no return to the confirmed set
waiting, none is carried out then (log entry 152 says when the model does). -/
def Obligations.PlateCommandsRun : Prop :=
  ∀ (s : State) (fn : Fn) (p b : Nat),
    s.MayWrite fn p 2 → s.right p Right.plate = true → b < 2 → (s.bank b).byUpd = false →
    (s.Takes .plate → (s.bankState b = Pb.empty ∨ s.bankState b = Pb.invalid) → s.boot.restarting = false →
      plateArgsOk s = true →
      exec (.plateLoad fn b (s.bankGen b)) s = .next (bankTo b Pb.loading { s.taken fn .plate 1 p with
          plate := { s.plate with loading := some b, len := s.fld R.plateArg1 F.plateArg1Length } })) ∧
    (s.Takes .plate → s.bankState b = Pb.proof → s.plate.live = none → s.fld R.plateQstat F.plateQstatQuiesced = 0xFFFF →
      exec (.plateSwap fn b (s.bankGen b)) s = .next { s.taken fn .plate 2 p with plate := { s.plate with swapTo := some b } }) ∧
    (∀ l, s.Takes .plate → s.bankState b = Pb.proof → s.plate.live = some l →
      (s.carvingMatch b = true ∨ s.fld R.plateQstat F.plateQstatQuiesced = 0xFFFF) →
      s.fld (R.plateBank l) F.plateBankMetaEmit ∈ (s.bank b).metaAcc →
      exec (.plateSwap fn b (s.bankGen b)) s = .next { s.taken fn .plate 2 p with plate := { s.plate with swapTo := some b } }) ∧
    (s.backWaits = false →
      ((s.Takes .plate ∧ (s.bankState b = Pb.loading ∨ s.bankState b = Pb.verifying ∨ s.bankState b = Pb.proof)) ∨
        (s.busy .plate = true ∧ s.plate.loading = some b)) →
      exec (.plateAbort fn b (s.bankGen b)) s = .next (complete .plate Code.ok 0
          (bankTo b Pb.empty { s.taken fn .plate 3 p with plate := { s.plate with loading := none } })))

/-- A plate image is judged as it arrives; the last byte of a sound one puts its bank into VERIFYING. Stated while no
return to the confirmed set waits for the plate (log entry 152). -/
def Obligations.PlateLoadReadsTheImage : Prop :=
  ∀ (s : State) (b : Nat) (x : Bytes), s.plate.loading = some b → s.bankState b = Pb.loading →
    s.boot.restarting = false → s.backWaits = false →
    let len := s.plate.len
    let img := ((s.bank b).image ++ x).take len
    let t := setBank b { s.bank b with image := img } s
    exec (.plateLoadData (.data x) true) s = .next (match arrivedFail plateKind len img with
      | some f => plateFail b f t
      | none => if img.length < len then t else bankTo b Pb.verifying t)

/-- A verified image becomes a proof, and at the swap point its bank goes live while the old one drains. That QUIESCED is
not judged again at the swap point is the model's choice (log entry 150), and DETAIL 0 of a completion is too (log entry
149); stated while no return to the confirmed set waits for the plate (log entry 152). -/
def Obligations.PlateProofGoesLive : Prop :=
  ∀ (s : State) (b : Nat), b < 2 → s.backWaits = false →
    (s.plate.loading = some b → s.bankState b = Pb.verifying → s.boot.restarting = false → exec .plateVerifyDone s =
        .next (match firstBad (plateVerifyChecks s.upd.cfg.plateKeys (s.bank b).image) with
          | some f => plateFail b f s
          | none => complete .plate Code.ok 0
              (plateProof b (s.bank b).image { s with plate := { s.plate with loading := none } }))) ∧
    (s.plate.live = none → s.plate.swapTo = some b → s.bankState b = Pb.proof → s.proofAwake b = true →
      ∃ t, exec .plateSwapPoint s = .next t ∧ t.plate.live = some b ∧ t.plate.swapTo = none ∧ t.plate.swapAt = s.now ∧
        t.bankState b = Pb.live ∧ t.rd R.plateSwapTs0 = BitVec.ofNat 64 (stampLo s.now) ∧
        t.rd R.plateSwapCount = s.rd R.plateSwapCount + 1 ∧ t.fld R.plateStatus stCode = Code.ok ∧ t.busy .plate = false) ∧
    (∀ l, l < 2 → l ≠ b → s.plate.swapTo = some b → s.bankState b = Pb.proof → s.plate.live = some l →
      (s.carvingMatch b = true ∨ s.proofAwake b = true) →
      ∃ t, exec .plateSwapPoint s = .next t ∧ t.plate.live = some b ∧ t.plate.swapTo = none ∧ t.plate.swapAt = s.now ∧
        t.bankState b = Pb.live ∧ t.rd R.plateSwapTs0 = BitVec.ofNat 64 (stampLo s.now) ∧
        t.rd R.plateSwapCount = s.rd R.plateSwapCount + 1 ∧ t.fld R.plateStatus stCode = Code.ok ∧
        t.busy .plate = false ∧
        (s.carvingMatch b = true → t.bankState l = Pb.draining) ∧
        (s.carvingMatch b = false → t.bankState l = Pb.proof ∨ t.bankState l = Pb.invalid))

/-- A drain ends empty or by 40 µs; errors in the plate store; an empty pipeline reports QUIESCED. What the store does with
a word already marked bad, and with EMPTY and INVALID banks, is the model's choice (log entry 37); stated while no return
to the confirmed set waits for the plate (log entry 152). -/
def Obligations.DrainsErrorsAndQuiesce : Prop :=
  ∀ (s : State) (b w n : Nat), b < 2 → n < 16 → s.backWaits = false →
    (s.draining = some b → (s.tagged b = [] → exec .plateDrainEnd s = .next (drainDone b s)) ∧
      (s.tagged b ≠ [] → s.plate.swapAt + 400000 ≤ s.now →
        exec .plateDrainOverrun s = .next (drainDone b (report .f 0x04 b .k 0x001 []
          (forEach (s.tagged b) (fun id t => leaveHole id (t.inc R.plateDrainDrop)) s))))) ∧
    (w < 1048576 → exec (.plateScrub b w .corr) s = .next (report .f 0x04 b .c 0x002 [] (s.inc R.plateEccCorr))) ∧
    (s.bankState b = Pb.proof → w < 1048576 → exec (.plateScrub b w .uncorr) s =
        .next (bankTo b Pb.invalid (report .f 0x04 b .k 0x003 [] (s.inc R.plateEccUncorr)))) ∧
    ((s.bankState b = Pb.live ∨ s.bankState b = Pb.draining) → w < 1048576 → w ∉ (s.bank b).badWords →
      exec (.plateScrub b w .uncorr) s = .next (setBank b
        { s.bank b with badWords := (s.bank b).badWords ++ [w] } (s.inc R.plateEccUncorr))) ∧
    (s.quiescing n = true → s.pipeHolds n = false → ∃ t, exec (.pipelineQuiesced n) s = .next t ∧
        t.fld R.plateQstat F.plateQstatQuiesced = s.fld R.plateQstat F.plateQstatQuiesced ||| 2 ^ n ∧
        ∀ r, r ≠ R.plateQstat → t.rd r = s.rd r)

/-- WRITE, READ and INVALIDATE of a pattern; a scan ends with the first match in the parse result. The store that a scan
uses is the model's reading (log entry 49). -/
def Obligations.PpmCommandsRun : Prop :=
  (∀ (s : State) (fn : Fn) (p i : Nat) (ecc : Ecc), s.MayWrite fn p 4 → s.Takes .ppm → i < 4096 → s.inRange p 5 i 1 = true →
    (ppmOk (s.dataBytes R.ppmData 16) = true → exec (.ppmWrite fn i) s =
        .next (complete .ppm Code.ok 0 (setPattern i (s.dataBytes R.ppmData 16) (s.taken fn .ppm 1 p)))) ∧
    (ecc ≠ .uncorr → i ∉ s.ppm.bad → exec (.ppmRead fn i ecc) s =
        .next (complete .ppm Code.ok 0 (setData R.ppmData 16 (s.pattern i) (ppmError i ecc (s.taken fn .ppm 2 p))))) ∧
    ((ecc = .uncorr ∨ i ∈ s.ppm.bad) → exec (.ppmRead fn i ecc) s =
        .next (complete .ppm Code.eccUncorrectable 0 (ppmError i .uncorr (s.taken fn .ppm 2 p)))) ∧
    (∃ t, exec (.ppmInvalidate fn i) s = .next (complete .ppm Code.ok 0 t) ∧ ppmValid (t.pattern i) = false ∧
      (∀ j, j ≠ i → t.pattern j = s.pattern j) ∧ t.ppm.bad = s.ppm.bad)) ∧
  (∀ (s : State) (id : Nat) (q : Packet) (c : Scan), s.pkt id = some q → q.scan = some c → scanDue q = true →
    (ppmHits c.pats (scanPayload q) = [] →
      exec (.ppmScanEnd id []) s = .next (setPkt id { q with pr := ppmResult pfPpmDone 0 0 0 q.pr, scan := none } s)) ∧
    (∀ h, ppmFirst (ppmHits c.pats (scanPayload q)) = some h → exec (.ppmScanEnd id []) s = .next (setPkt id { q with
        pr := ppmResult (pfPpmDone + pfPpmHit)
          ((ppmHits c.pats (scanPayload q)).foldl (fun m h => m ||| 2 ^ h.cls) 0) h.id h.off q.pr
        scan := none } (s.inc (parserCtr q.pipe 11)))))

/-! ### Tables and search array -/

/-- WRITE, READ, INSERT, DELETE, LOOKUP and COMMIT. The model's choices: how slots are numbered (log entry 21), which slot
an INSERT takes and how many entries it moves (log entry 53), zeros for an entry nothing has written (log entry 51),
DETAIL 0 (log entry 149). -/
def Obligations.TableCommandsRun : Prop :=
  ∀ (s : State) (fn : Fn) (p table : Nat) (mask : BitVec 16) (ecc : Ecc),
    s.Owns fn p → s.Takes (.tbl p) → table < 256 →
    let o := fun (op m : Nat) => tblOpOf s p op table m
    let t := fun (op : Nat) => s.taken fn (.tbl p) op p
    (Passes (tblChecks (t 1) p (o 1 0)) →
      exec (.tblWrite fn table) s = .next (complete (.tbl p) Code.ok 0 (tblStore (o 1 0) (t 1)))) ∧
    (Passes (tblChecks (t 2) p (o 2 mask.toNat)) → ecc = .ok → s.isBad table 0 (o 2 mask.toNat).arg = false →
      exec (.tblRead fn table mask ecc) s =
        .next (complete (.tbl p) Code.ok 0 (setData (R.tblData p) 8 (tblEntry (t 2) (o 2 mask.toNat)) (t 2)))) ∧
    (let t3 := (t 3).setFld (R.tblStatus p) F.tblStatusMoves 0
     ∀ u slot moves, Passes (tblChecks t3 p (o 3 mask.toNat)) → tblInsertAll t3 (o 3 mask.toNat) = some (u, slot, moves) →
      exec (.tblInsert fn table mask) s = .next (complete (.tbl p) Code.ok 0
          ((u.setFld (R.tblArg p) F.tblArgIndex slot).setFld (R.tblStatus p) F.tblStatusMoves moves))) ∧
    (∀ u, Passes (tblChecks (t 4) p (o 4 mask.toNat)) → tblDeleteAll (t 4) (o 4 mask.toNat) = some u →
      exec (.tblDelete fn table mask) s = .next (complete (.tbl p) Code.ok 0 u)) ∧
    (Passes (tblChecks (t 5) p (o 5 mask.toNat)) →
      let e := (o 5 mask.toNat).ems.headD 0
      ∀ i, emFind e ((t 5).emBuckets e) (emKey e (o 5 mask.toNat).data) ((t 5).emTab e) = some i →
        exec (.tblLookup fn table mask) s = .next (complete (.tbl p) Code.ok 0
            ((setData (R.tblData p) 8 (emGet e i ((t 5).emTab e)) (t 5)).setFld (R.tblArg p) F.tblArgIndex i))) ∧
    (table = 9 → Passes (tblChecks (t 7) p (o 7 0)) → exec (.tblCommit fn) s =
        .next (complete (.tbl p) Code.ok 0 ((t 7).wr (R.tblStencilRoot (o 7 0).arg) (wordAt 0 (o 7 0).data))))

/-- A FENCE ends when its packets have left, or after 100 µs; a ring group of one sound WRITE stores its entry. -/
def Obligations.FencesAndRingGroups : Prop :=
  ∀ (s : State) (fn : Fn) (p : Nat) (f : Fence) (b : Bytes),
    (s.Owns fn p → s.Takes (.tbl p) → exec (.tblFence fn) s = .next (let t := (s.taken fn (.tbl p) 6 p).inc (R.tblDevCtr 3)
          { t with tbl := { t.tbl with fenceC := t.tbl.fenceC.set p (some { pkts := s.inFdie, at_ := s.now }) } })) ∧
    (p < 4 → s.tbl.fenceC.getD p none = some f → (∀ i ∈ f.pkts, i ∉ s.inFdie) →
      exec (.tblFenceDone p false) s = .next (complete (.tbl p) Code.ok 0 (clearFence p false s))) ∧
    (∀ i, p < 4 → s.tbl.fenceC.getD p none = some f → i ∈ f.pkts → i ∈ s.inFdie → f.at_ + 1000000 ≤ s.now →
      exec (.tblFenceTimeout p false) s =
        .next (complete (.tbl p) Code.timeout 0 (clearFence p false (report .f 0x07 0x3FF .k 0x005 [] s)))) ∧
    (p < 4 → s.boot.ready = true → s.mayInt p = true → s.flag (R.tblRingCfg p) F.tblRingCfgRingEn = true →
      s.tbl.fenceR.getD p none = none → s.tbl.big.getD p false = false →
      (2 ^ 32 + s.fld (R.tblRingTail p) F.tblRingTailTail - s.tblHead p) % 2 ^ 32 = 1 → ringEnd b 0 = true →
      groupCheck s p b 1 = Code.ok → (ringOp b 0).op = 1 →
      exec (.tblRingGroup p (.data b) 1) s = .next (ringComplete p 0 Code.ok 1 (tblStore (ringOp b 0) s)))

/-- The ager clears HIT and removes unused entries; the scrubbers free, mark or mend what they find. The model's choices:
a row that has had no visit is due, and an uncorrectable stencil word stays bad until it is written (log entry 55); the
table and index in a record of a search-array bank that no table holds are free (log entry 61). -/
def Obligations.AgerAndScrubbersVisit : Prop :=
  ∀ (s : State) (pipe slot : Nat), pipe < 16 →
    (s.flag R.tblAgeCfg F.tblAgeCfgAgeEn = true → slot < s.emSlots (2 + pipe) →
      (∀ v, smapFind (2 ^ 20 * pipe + slot) s.tbl.visited = some v →
        v + ticksPerSec * s.fld R.tblAgeCfg F.tblAgeCfgAgePeriodS ≤ s.now) →
      let e := emGet (2 + pipe) slot (s.emTab (2 + pipe))
      emValid (2 + pipe) e = true →
      let t := { s with tbl := { s.tbl with visited := smapInsert (2 ^ 20 * pipe + slot) s.now s.tbl.visited } }
      (macHit e = true → exec (.macAgerVisit pipe slot) s =
        .next (setEm (2 + pipe) (emPut (2 + pipe) slot (setHit false e) (s.emTab (2 + pipe))) t)) ∧
      (macHit e = false → macStatic e = false → exec (.macAgerVisit pipe slot) s =
        .next (learnEvent 3 pipe (emKey (2 + pipe) e) (emResult (2 + pipe) e) 0xFFFFFF
          ((setEm (2 + pipe) (emPut (2 + pipe) slot (zeros 16) (s.emTab (2 + pipe))) t).inc (R.tblPipeCtr pipe 8))))) ∧
    (∀ table, s.flag R.tblScrubCfg F.tblScrubCfgScrubEn = true → slot < s.tblCarved table pipe →
      s.scrubDue table pipe slot = true →
      let t := { s with tbl := { s.tbl with scrubbed := smapInsert (scrubKey table pipe slot) s.now s.tbl.scrubbed } }
      (table = 5 → exec (.tblScrub 5 pipe slot .uncorr) s = .next (entryLost (2 + pipe) slot 1 t)) ∧
      (table = 1 → exec (.tblScrub 1 pipe slot .uncorr) s = .next (markBad 1 0 slot t))) ∧
    (∀ bank row, bank < 16 → row < 16384 → s.flag R.asaScrubCfg F.asaScrubCfgScrubEn = true →
      s.asaScrubDue bank row = true →
      exec (.asaScrubVisit bank row .mismatch) s =
        .next (report .f 0x08 (s.asaRowOf bank row).1 .c 0x001 [] ((asaVisited bank row s).inc (R.asaDevCtr 0))) ∧
      (s.asaPlace bank row ∉ s.asa.lost → exec (.asaScrubVisit bank row .shadowUncorr) s =
        .next (report .f 0x08 (s.asaRowOf bank row).1 .k 0x003 [((s.asaRowOf bank row).1, 1), ((s.asaRowOf bank row).2, 4)]
          ((asaHole bank row (asaVisited bank row s)).inc (R.asaDevCtr 2)))))

/-- WRITE, READ, INVALIDATE, INSERT_AT and SEARCH on an index that the map grants. The model's choices: an entry that
shares its place with one of another width loses it (log entry 151), an entry nothing has written reads zeros (log entry
59), DETAIL 0 (log entry 149). -/
def Obligations.AsaCommandsRun : Prop :=
  ∀ (s : State) (fn : Fn) (p table : Nat) (ecc : Ecc), s.Owns fn p → s.Takes (.asa p) → table < 16 →
    let x := s.fld (R.asaArg p) F.asaArgIndex
    let img := s.dataBytes (R.asaData p) 24
    let t := fun (op : Nat) => s.taken fn (.asa p) op p
    let a := s.asaTab table
    (Passes (asaChecks (t 1) p 1 table x img) → exec (.asaWrite fn table) s =
        .next (complete (.asa p) Code.ok 0 (asaWriteAt table a x (slice 0 a.imgLen img) (t 1)))) ∧
    (Passes (asaChecks (t 2) p 2 table x img) → s.asaBad table x ecc = false → exec (.asaRead fn table ecc) s =
        .next (complete (.asa p) Code.ok 0 (setData (R.asaData p) (a.imgLen / 8) (s.asaGet a x) (t 2)))) ∧
    (Passes (asaChecks (t 3) p 3 table x img) →
      ∃ u, exec (.asaInvalidate fn table) s = .next u ∧ u.asaGet a x = asaClear a (s.asaGet a x) ∧
        ((s.asa.rows.map (·.1)).Pairwise (· < ·) → ∀ y, a.key y ≠ a.key x → u.asaGet a y = s.asaGet a y) ∧ u.asa.badRes = s.asa.badRes) ∧
    (let t4 := (t 4).setFld (R.asaStatus p) F.asaStatusMoves 0
     ∀ plan, Passes (asaChecks t4 p 4 table x img) → asaPlan s a x = some plan → ecc ≠ .uncorr →
      exec (.asaInsertAt fn table ecc) s = .next (complete (.asa p) Code.ok 0
          (((asaWriteAt table a plan.land (slice 0 a.imgLen img)
              (forEach plan.moves (asaMove table a) t4)).setFld
            (R.asaArg p) F.asaArgIndex plan.land).setFld (R.asaStatus p) F.asaStatusMoves plan.moves.length))) ∧
    (∀ i e, Passes (asaChecks (t 5) p 5 table x img) → asaWinner s a (asaValue a img) = some (i, e) →
      s.asaBad table i ecc = false →
      ∃ u, exec (.asaSearchCmd fn table ecc) s = .next u ∧ u.fld (R.asaArg p) F.asaArgIndex = i % 2 ^ fldWidth F.asaArgIndex ∧
        (∀ k < a.imgLen / 8, u.rd (R.asaData p k) = wordAt k e) ∧ u.fld (R.asaStatus p) stCode = Code.ok ∧ u.rd (R.asaTableCtr table 1) = s.rd (R.asaTableCtr table 1) + 1)

/-! ### Buffers and queues -/

/-- READ_REC, READ_REF, RETIRE and RESTORE. The model's choices: an entry that counts nothing reads 0 (log entry 65), what
a stack that leaves or returns does to AUTO and the stop of the pool (log entry 64), DETAIL 0 (log entry 149); a command
waits while new microcode for the T-die does (log entry 164). -/
def Obligations.BpmCommandsRun : Prop :=
  ∀ (s : State) (fn : Fn) (p : Nat), s.Owns fn p → s.Takes (.bpm p) → s.upd.tload = none → s.right p Right.bpm = true →
    let pool := s.fld (R.bpmArg p) F.bpmArgPool
    let x := s.fld (R.bpmArg p) F.bpmArgIndex
    let t := fun (op : Nat) => s.taken fn (.bpm p) op p
    (∀ w, pool < 2 → x < poolSize pool → s.page pool x = some (.used w) → s.onFailed pool x = false →
      exec (.bpmReadRec fn .ok) s = .next (complete (.bpm p) Code.ok 0 ((t 1).wr (R.bpmData p) w))) ∧
    (x < 4194304 → x ∉ s.bpm.badRefs → exec (.bpmReadRef fn .ok) s =
        .next (complete (.bpm p) Code.ok 0 ((t 2).wr (R.bpmData p) (BitVec.ofNat 64 (s.refCount x))))) ∧
    (x < 4 → (∀ i < 4, s.stackState i = 0) → exec (.bpmRetire fn) s = .next (complete (.bpm p) Code.ok 0 (setStack x 1 (t 3)))) ∧
    (x < 4 → s.stackState x = 2 → exec (.bpmRestore fn) s = .next (complete (.bpm p) Code.ok 0 (setStack x 0 (t 4))))

/-- INC, DEC and FREE of a chain whose head the requester owns count its references, and the last frees it. On a FAILED
stack a packet that is not shared goes without a walk; that its record is still known there is the model's choice (log
entry 153). -/
def Obligations.ReferencesCount : Prop :=
  ∀ (s : State) (r pool head count : Nat) (w : Word), r < 23 → pool < 2 → head < poolSize pool →
    (s.page pool head = some (.used w) → s.onFailed pool head = false → recOwner w = r → recShared w = false →
      s.freeRef < 4194304 →
      exec (.refInc r pool head) s = .next (setRef (s.freeRef) 2
          (setPage pool head (.used (setF (setBit w 63 true) (57, 36) (s.freeRef))) s))) ∧
    (s.page pool head = some (.used w) → s.onFailed pool head = false → recOwner w = r → recShared w = true →
      recRef w ∉ s.bpm.badRefs →
      (s.refCount (recRef w) < 255 →
        exec (.refInc r pool head) s = .next (setRef (recRef w) (s.refCount (recRef w) + 1) s)) ∧
      (1 < s.refCount (recRef w) → exec (.refDec r pool head count) s = .next (setRef (recRef w) (s.refCount (recRef w) - 1) s) ∧
        exec (.pageFree r pool head count) s = .next (setRef (recRef w) (s.refCount (recRef w) - 1) s)) ∧
      (s.refCount (recRef w) ≤ 1 →
        exec (.refDec r pool head count) s = .next (freeChain r pool head count (setRef (recRef w) 0 s)))) ∧
    (s.page pool head = some (.used w) → s.onFailed pool head = false → recOwner w = r → recShared w = false →
      exec (.pageFree r pool head count) s = .next (freeChain r pool head count s) ∧
      exec (.refDec r pool head count) s = .next (freeChain r pool head count s)) ∧
    (s.page pool head = some (.used w) → s.onFailed pool head = true → recOwner w = r → recShared w = false →
      exec (.pageFree r pool head count) s = .next (bpmRefresh (dropUsed r pool head count s)))

/-- Pages are granted by the quota rule, to a packet's head and to its body; a stack fails at FAIL_THRESH reads in one second
of timebase time, and F0 with its link, which is R28 as log entries 24 and 25 read it. How a granted body page joins its
chain is log entry 62. -/
def Obligations.PagesAndStacks : Prop :=
  ∀ (s : State) (r page st n i : Nat), r < 23 → st < 4 → i < 4194304 →
    (page < poolSize 1 → s.usedOf r 1 + 1 < 2 ^ 29 → s.quotaAllows r 1 = true → s.firstFree 1 0 (2 ^ 18) = some page →
      ∃ t, exec (.pageRequest r 1 none) s = .next t ∧ t.page 1 page = some (.used (newRec r)) ∧
        t.usedOf r 1 = s.usedOf r 1 + 1 ∧ t.outs.head? = some (.pageGrant r 1 page) ∧
        (∀ q, q ≠ page → t.page 1 q = s.page 1 q)) ∧
    (∀ k, s.bpm.stopped = false → s.usedOf r 0 + 1 < 2 ^ 29 → s.quotaAllows r 0 = true → s.nextStack = some k →
      s.firstFree 0 (2 ^ 26 * k) (2 ^ 26) = some page →
      ∃ t, exec (.pageRequest r 0 none) s = .next t ∧ t.page 0 page = some (.used (newRec r)) ∧
        t.usedOf r 0 = s.usedOf r 0 + 1 ∧ t.bpm.lastStk = page / 2 ^ 26 ∧ t.outs.head? = some (.pageGrant r 0 page) ∧
        (∀ q, q ≠ page → t.page 0 q = s.page 0 q)) ∧
    (∀ pool h w, pool < 2 → h < poolSize pool → h ≠ page → s.quotaAllows r pool = true →
      s.pageFor pool (some h) = some page → s.record pool h = some w → recLast w = true →
      ∃ t, exec (.pageRequest r pool (some h)) s = .next t ∧ t.page pool page = some (.used (newRec r)) ∧
        t.page pool h = some (.used (setF (setBit w 27 false) (25, 0) (page - spaceBase pool page))) ∧
        t.outs.head? = some (.pageGrant r pool page)) ∧
    (∀ pool h, pool < 2 → h < poolSize pool → s.quotaAllows r pool = false →
      exec (.pageRequest r pool none) s = .next (s.inc (R.bpmReqCtr r 2)) ∧
      exec (.pageRequest r pool (some h)) s = .next (cutStored pool h (s.inc (R.bpmReqCtr r 2)))) ∧
    (let c : Nat := (if s.bpm.uncSec = s.now / ticksPerSec then s.bpm.unc.getD st 0 else 0) + n;
      s.bpm.unc.length = 4 →
      s.stackState st ≤ 1 → s.fld R.bpmCfg F.bpmCfgFailThresh ≤ c →
        ∃ t, exec (.bpmStackFailed st false n) s = .next t ∧ t.stackState st = 3) ∧
    (s.boot.f0Out = false → exec (.bpmStackFailed 4 true n) s = .next (f0Fail s)) ∧
    exec (.bpmMemoryError (.count i) .uncorr) s = .next (bpmRefresh (loseRef i s))

/-- WRITE, READ, COMMIT and FLUSH of an object; a FLUSH ends empty or after 100 ms; errors in objects are counted, recorded
and marked. The model's choices: how far a FLUSH has come when it times out (log entry 80), objects that nothing has
written and what a WRITE keeps (log entry 81), COMMIT of a curve with a bad standby point and the list of a bad queue (log
entry 154), entries of no valid group (log entry 155), DETAIL 0 (log entry 149). -/
def Obligations.QueueCommandsRun : Prop :=
  ∀ (s : State) (fn : Fn) (p obj : Nat), s.Owns fn p → s.Takes (.q p) → s.upd.tload = none → obj < 256 →
    let i := s.fld (R.qArg p) F.qArgIndex
    let b := slice 0 (objBytes obj) (s.dataBytes (R.qData p) 4)
    let t := fun (op : Nat) => s.taken fn (.q p) op p
    (Passes (qChecks (t 1) p 1 obj i) → (t 1).imgOk obj i b = true →
      (qFields obj b = qFields obj (s.objImg obj i) ∨ (t 1).objQuiesced obj i = true) →
      exec (.qWrite fn obj) s = .next (complete (.q p) Code.ok 0 (qStore obj i b (t 1)))) ∧
    (Passes (qChecks (t 2) p 2 obj i) → s.objBad (wordObj obj) i = false → exec (.qRead fn obj .ok) s =
        .next (complete (.q p) Code.ok 0 (setData (R.qData p) 4 ((t 2).objImg obj i) (t 2)))) ∧
    (obj = 6 → Passes (qChecks (t 3) p 3 obj i) → (∀ k < 32, s.objBad 16 (32 * i + k) = false) →
      depthsRise ((List.range 32).map (fun k => smapGet ecnReset (32 * i + k) s.q.ecnStby)) = true →
      ∃ u, exec (.qCommit fn obj) s = .next (complete (.q p) Code.ok 0 u) ∧
        ∀ k < 32, smapGet ecnReset (32 * i + k) u.q.ecnAct = smapGet ecnReset (32 * i + k) s.q.ecnStby) ∧
    (obj = 7 → Passes (qChecks (t 3) p 3 obj i) → (∀ k < 32, s.objBad 17 (32 * i + k) = false) →
      depthsRise ((List.range 32).map (fun k => smapGet creditReset (32 * i + k) s.q.crStby)) = true →
      ∃ u, exec (.qCommit fn obj) s = .next (complete (.q p) Code.ok 0 u) ∧
        ∀ k < 32, smapGet creditReset (32 * i + k) u.q.crAct = smapGet creditReset (32 * i + k) s.q.crStby) ∧
    (Passes (qChecks (t 4) p 4 1 i) → (s.que i).en = false → exec (.qFlush fn) s =
        .next { t 4 with q := { s.q with flushes := s.q.flushes.set p (some { q := i, at_ := s.now }) } }) ∧
    (∀ f, p < 4 → s.q.flushes.getD p none = some f →
      let u := { s with q := { s.q with flushes := s.q.flushes.set p none } }
      exec (.flushDone p) s = .next (complete (.q p) Code.ok 0 (flushQue f.q u)) ∧
      (f.at_ + 1000000000 ≤ s.now → ∃ n < max 1 (s.que f.q).ents.length, exec (.flushTimeout p) s =
            .next (complete (.q p) Code.timeout 0 (flushSome f.q n { u with freeCtr := s.freeCtr + 1 })))) ∧
    (∀ k, 1 ≤ obj → obj ≤ 10 → qObjOk obj k = true → s.objBad obj k = false →
      let u := setObjBad obj k true (report .t 0x11 0 .k 0x002 [(obj, 1), (k, 4)] (s.inc (R.qDevCtr 23)))
      exec (.qEccUncorr (.obj obj k) .uncorr) s = .next (if obj = 1 then queueBroken k u else u)) ∧
    (∀ m, qMemOk m = true → exec (.qEccUncorr m .corr) s =
        .next (report .t 0x11 0 .c 0x001 [((qMemCtx m).1, 1), ((qMemCtx m).2, 4)] (s.inc (R.qDevCtr 22))))

/-- A packet for an enabled queue that admits it takes a page and joins the tail, with the colour that its policer and the
mark that its curve give it; the policer or the curve may drop it. TARGET 2 joins the recirculation queue, and a
multicast packet goes to its group's copies. The draw for an ECN mark is free (log entry 70). -/
def Obligations.UnicastArrivalIsQueued : Prop :=
  ∀ (s : State) (r id : Nat) (l : List Nat) (k : Packet) (u1 : State) (m1 : Bytes),
    r < 23 → smapGet (fun _ => []) r s.q.arrivals = id :: l → s.pkt id = some k → k.place = .bridge →
    s.crossed 0 id = true →
    let u := offBridge 0 id { s with q := { s.q with arrivals := smapPut (fun _ => []) r l s.q.arrivals } }
    let target := mdF k.md Md.target
    let q := s.targetQueue (r == 16) k.md
    let len := s.admitLen k.md
    let one := r = 16 ∧ mdF k.md Md.mc = 0 ∨ r ≠ 16 ∧ (target = 1 ∨ target = 0 ∧ mdF k.md Md.mc = 0)
    let group := mdF k.md Md.mc = 1 ∧ (r = 16 ∨ target = 0)
    (one → s.queueExists q = true → (s.que q).en = true →
      (r < 16 → police k.md len u = (u1, none) → exec (.queueArrival r) s = .next (refusePkt id (countDrop q u1))) ∧
      ((if r < 16 then police k.md len u else (u, some k.md)) = (u1, some m1) →
        s.admits (s.que q) len (mdF m1 Md.colour) = true →
        (∀ u2, ecnMark q m1 u1 = (u2, none) → exec (.queueArrival r) s = .next (refusePkt id (countDrop q u2))) ∧
        (∀ u2 m2 head, ecnMark q m1 u1 = (u2, some m2) → s.quotaAllows r (s.poolFor q len) = true →
          s.pageFor (s.poolFor q len) none = some head →
          ∃ t, exec (.queueArrival r) s = .next t ∧
            (t.que q).ents = (s.que q).ents ++ [{ pkt := id, len := len, at_ := s.now, md := m2 }] ∧
            (t.que q).depth = (s.que q).depth + len ∧ (∀ x, x ≠ q → t.que x = s.que x) ∧
            (∃ w, t.page (s.poolFor q len) head = some (.used w) ∧ recOwner w = r) ∧
            smapGet (fun _ => []) r t.q.arrivals = l))) ∧
    (r ≠ 16 → target = 2 → (if r < 16 then police k.md len u else (u, some k.md)) = (u1, some m1) →
      s.recircDepth + len ≤ s.fld R.qRecircCfg F.qRecircCfgLimit → s.quotaAllows 22 0 = true →
      ∀ head, s.pageFor 0 none = some head →
        ∃ t, exec (.queueArrival r) s = .next t ∧
          t.q.recirc = s.q.recirc ++ [{ pkt := id, len := len, at_ := s.now, md := m1 }] ∧
          ∃ w, t.page 0 head = some (.used w) ∧ recOwner w = 22) ∧
    (group → (if r < 16 then police k.md len u else (u, some k.md)) = (u1, some m1) →
      (u1.mcCopies (r == 16) m1 = none → exec (.queueArrival r) s = .next (refusePkt id (u1.inc (R.qDevCtr 1)))) ∧
      (∀ c, u1.mcCopies (r == 16) m1 = some c → exec (.queueArrival r) s =
        .next (storeCopies r id len k (judgeCopies len c u1).2 (judgeCopies len c u1).1)))

/-- Tails are stored, heads start on credit or age out, egress is served, recirculation returns. The lengths counted (log
entry 68), the recirculation queue's pace and its counts (log entry 72), the order of the reasons for a discard (log entry
73), one packet per group and class (log entry 74) and the pace of a port (log entry 77) are the model's reading. -/
def Obligations.PacketsMoveThroughTheQueues : Prop :=
  ∀ (s : State) (id q port pipe : Nat) (k : Stored) (p : Packet) (e : QEnt) (es : List QEnt),
    (s.store id = some k → s.pkt id = some p → p.place = .bridge → p.tailIn = true → k.tailIn = false → k.cut = false →
      (s.bridge 0).holds id = false → s.brFT.owed id = 0 → p.bytes.length ≤ k.pages * pageBytes k.pool → (∀ x ∈ s.q.started, x.st ≠ id) →
      ∃ t, exec (.packetTailStored id) s = .next t ∧ t.pkt id = none ∧
        t.store id = some { k with bytes := p.bytes, tailIn := true, stomp := k.stomp || p.stomp, acct := p.bytes.length + 4 }) ∧
    (q < voqCount → s.headAged (s.que q) = true → exec (.voqAgeDiscard q) s = .next (discardHead q (some 5) s)) ∧
    (q < voqCount → (s.que q).ents = e :: es → s.headAged (s.que q) = false → 0 < (s.que q).cb →
      (s.que q).shaped s.now = true → s.repinHeld (qDestDev (s.que q).img) = false → s.headBad e = none →
      let dev := qDestDev (s.que q).img
      let tc := qDestTc (s.que q).img
      ∀ g, hatchGroup (s.reachMask dev) (((s.store e.pkt).map (·.hatch)).getD 0) = some g →
        smapFind tc (s.linkGroup g).tx = none →
      ∃ t, exec (.voqPacketStart q) s = .next t ∧ (t.que q).ents = es ∧ (t.que q).cb = (s.que q).cb - e.len ∧
        (t.que q).depth = (s.que q).depth - e.len ∧
        smapFind tc (t.linkGroup g).tx = some
          { st := e.pkt, q := q, dev := dev, seq := smapGet (fun _ => 0) tc (s.linkGroup g).seq, cell := 0, md := e.md }) ∧
    (port < 96 → s.portExists port = true → s.agedQueue port = none → s.linkUp port = true →
      (s.node 4 port).tokAt ≤ s.now → ∀ t, pickQueue port s = (t, some q) →
      exec (.egressDequeue port) s = .next (serveEgress port q t)) ∧
    (∀ b, port < 96 → s.egressWaiting port = some (id, p) → s.egressPipe port = pipe →
        s.plate.live = some b → s.role pipe = 2 → s.quiescing pipe = false → s.ctxFree (pipe % 8) = true →
        mdF p.md Md.layout ∈ (s.bank b).metaAcc →
        exec (.egressEntry port) s =
          .next (setPkt id { p with place := .pipe, egress := true, pipe := pipe, bank := b, pass := 0, stage := none }
            (notePass 2 (takeFlits 1 id s)))) ∧
    (∀ x, port < 96 → s.q.started.find? (fun x => x.port == port && (s.storedBytes x.st).length < s.bytesNeeded x) = some x →
      x.st ≠ x.pkt → s.pkt x.pkt = some p →
      ∃ t, exec (.ctUnderrun port) s = .next t ∧ t.rd (R.qDevCtr 8) = s.rd (R.qDevCtr 8) + 1 ∧
        t.q.started = s.q.started.filter (fun y => y.pkt != x.pkt) ∧
        t.pkt x.pkt = some { p with bytes := p.bytes ++ (s.storedBytes x.st).drop x.had, tailIn := true, stomp := true }) ∧
    (s.q.recirc = e :: es → s.store e.pkt = some k → k.tailIn = true → s.q.recircAt ≤ s.now → s.headBad e = none →
      (s.stream recircStream).outstanding < 32768 → nextPipe s s.line.rr = some pipe →
      exec .recircReturn s = .next (admitTo recircStream pipe { noPacket with port := k.port, bytes := k.bytes, stamp := k.stamp }
        (dropRef e.pkt { s with q := { s.q with recirc := es, recircAt := s.now + 16 } })))

/-- REQUEST and GRANT messages keep the sources and the credit of the VOQs. The round robins and the pace of the grants are
the model's reading (log entry 75), and so is a GRANT above the cap (log entry 74). -/
def Obligations.CreditMoves : Prop :=
  ∀ (s : State) (q port tc dev : Nat) (m : GrantMsg) (n : ReqMsg) (ms : List GrantMsg) (ns : List ReqMsg),
    (q < voqCount → (s.que q).active = true → (s.que q).reqAt + usT (s.fld R.qCreditCfg F.qCreditCfgRefreshUs) ≤ s.now →
      exec (.creditRefresh q) s = .next (sendRequest q s)) ∧
    (s.q.reqIn = n :: ns → ∃ t, exec .requestReceive s = .next t ∧ t.q.reqIn = ns ∧
        (n.active = true → { port := n.port, tc := n.tc, dev := n.issuer, voq := n.voq, at_ := s.now } ∈ t.q.sources) ∧
        (n.active = false → ∀ x ∈ t.q.sources, ¬(x.port = n.port ∧ x.tc = n.tc ∧ x.dev = n.issuer))) ∧
    (port < 128 → tc < 8 → dev < 4096 → ∃ t, exec (.requestExpire port tc dev) s = .next t ∧
        ∀ x, x ∈ t.q.sources ↔ x ∈ s.q.sources ∧ ¬(x.port = port ∧ x.tc = tc ∧ x.dev = dev ∧
          x.at_ + 3 * usT (s.fld R.qCreditCfg F.qCreditCfgRefreshUs) ≤ s.now)) ∧
    (∀ gap left x, port < 96 → s.portExists port = true → smapGet (fun _ => 0) port s.q.grantAt ≤ s.now →
      s.grantGap port = some gap → s.pickTc port = some (tc, left) →
      nextSource (smapGet (fun _ => 0) (8 * port + tc) s.q.srcPtr) (s.srcs port tc) = some x →
      let g : GrantMsg := { issuer := s.devIndex, target := x.dev, voq := x.voq,
                            credit := s.fld R.qCreditCfg F.qCreditCfgGrantUnits }
      ∃ u t, exec (.grantIssue port) s = .next t ∧ t = sendCredit x.dev (.grant g) u ∧
        smapGet (fun _ => 0) port t.q.grantAt = s.now + gap ∧ t.rd (R.qDevCtr 15) = s.rd (R.qDevCtr 15) + 1 ∧
        (x.dev = s.devIndex → t.q.grantIn = s.q.grantIn ++ [g]) ∧
        (∀ k ks, x.dev ≠ s.devIndex → s.reachMask x.dev = k :: ks → (s.linkGroup k).msgs.length < 2048 →
          (t.linkGroup k).msgs = (s.linkGroup k).msgs ++ [creditWord (.grant g)])) ∧
    (s.q.grantIn = m :: ms → (s.que m.voq).en = true → qDestDev (s.que m.voq).img = m.issuer →
      (s.que m.voq).cb + (m.credit * 256 : Nat) ≤ (s.fld R.qCreditCfg F.qCreditCfgCbMax * 256 : Nat) →
      ∃ t, exec .grantReceive s = .next t ∧ (t.que m.voq).cb = (s.que m.voq).cb + (m.credit * 256 : Nat) ∧
        t.rd (R.qDevCtr 16) = s.rd (R.qDevCtr 16) + 1 ∧ t.q.grantIn = ms) ∧
    (s.q.grantIn = m :: ms → (s.que m.voq).en = true → qDestDev (s.que m.voq).img = m.issuer →
      (s.fld R.qCreditCfg F.qCreditCfgCbMax * 256 : Nat) < (s.que m.voq).cb + (m.credit * 256 : Nat) →
      ∃ t, exec .grantReceive s = .next t ∧
        (t.que m.voq).cb = max ((s.fld R.qCreditCfg F.qCreditCfgCbMax * 256 : Nat) : Int) (s.que m.voq).cb ∧
        t.rd (R.qDevCtr 16) = s.rd (R.qDevCtr 16) + 1 ∧ t.rd (R.qDevCtr 17) = s.rd (R.qDevCtr 17) + 1 ∧ t.q.grantIn = ms)

/-! ### Calendar -/

/-- LOAD, SWAP, ABORT and RESTART in the states of R286, R288 and R298. DETAIL 0 is the model's choice (log entry 149); a
command waits while new microcode for the T-die does (log entry 164). -/
def Obligations.SchedCommandsRun : Prop :=
  ∀ (s : State) (fn : Fn) (p b : Nat),
    s.MayWrite fn p 9 → s.right p Right.calendar = true → s.upd.tload = none → b < 2 →
    let t := fun (op : Nat) => s.taken fn .sched op p
    let m := s.fld R.schedArg0 F.schedArg0AddrOrMf % 2 ^ 32
    (s.Takes .sched → ((s.calState b = Cb.empty ∨ s.calState b = Cb.invalid) → s.boot.restarting = false →
        s.fld R.schedArg0 F.schedArg0AddrOrMf % 64 = 0 → s.fld R.schedArg1 F.schedArg1Length % 64 = 0 →
        s.fld R.schedArg1 F.schedArg1Length ≤ 1540608 →
        exec (.schedLoad fn b (s.calGen b)) s = .next (calTo b Cb.loading { t 1 with cal := { s.cal with
            loading := some b, len := s.fld R.schedArg1 F.schedArg1Length } })) ∧
      (s.calState b = Cb.standby → Passes (swapChecks (t 2) b m) →
        exec (.schedSwap fn b (s.calGen b)) s = .next { t 2 with cal := { s.cal with swapReq := some (b, m) } }) ∧
      (s.calState b = Cb.standby → s.cal.loading = none →
        exec (.schedAbort fn b (s.calGen b)) s = .next (complete .sched Code.ok 0 (calTo b Cb.empty (t 3)))) ∧
      (s.calState b = Cb.armed → s.lateAbort b = false → exec (.schedAbort fn b (s.calGen b)) s =
          .next (complete .sched Code.ok 0 (disarm b (calTo b Cb.standby (t 3))))) ∧
      (∀ v, s.halted = true → voteOk v = true →
        exec (.schedRestart fn v) s = .next { t 4 with cal := { s.cal with resume := some ((s.mfNum + 2) % 2 ^ 32) } })) ∧
    (s.busy .sched = true → s.cal.loading = some b → s.calState b ≠ Cb.armed → exec (.schedAbort fn b (s.calGen b)) s =
        .next (complete .sched Code.ok 0 (calTo b Cb.empty { t 3 with cal := { s.cal with loading := none } })))

/-- A calendar image is read, verified and armed; an uncorrectable error takes its bank out. -/
def Obligations.SchedLoads : Prop :=
  ∀ (s : State) (b m : Nat) (x : Bytes), b < 2 →
    (s.cal.loading = some b → s.calState b = Cb.loading →
      let len := s.cal.len
      let img := (s.calImg b ++ x).take len
      let t := setCalImg b img s
      s.boot.restarting = false → exec (.schedLoadData (.data x) true) s = .next (match arrivedFail calKind len img with
          | some f => calFail b f t
          | none => if img.length < len then t else calTo b Cb.verifying t)) ∧
    (s.cal.loading = some b → s.calState b = Cb.verifying → s.boot.restarting = false →
      ∃ t, exec .schedVerifyDone s = .next t ∧ t.cal.loading = none ∧ t.busy .sched = false ∧
        (∀ f, firstBad (calVerifyChecks s (s.calImg b)) = some f → t = calFail b f s) ∧
        (firstBad (calVerifyChecks s (s.calImg b)) = none → t.calState b = Cb.standby ∧ t.calImg b = s.calImg b ∧
          t.calGen b = s.calGen b ∧
          t.fld (R.schedBank b) F.schedBankFlowCount = calFlowCount (s.calImg b) % 2 ^ 14 ∧
          t.fld (R.schedBank b) F.schedBankEpoch = calEpoch (s.calImg b) ∧ t.fld R.schedStatus stCode = Code.ok)) ∧
    (s.cal.swapReq = some (b, m) → (∀ l, s.calLive = some l → s.slackRaise ≤ s.bankSlack l) → s.slackRaise ≤ s.bankSlack b →
        ∃ t, exec .schedArm s = .next t ∧ t.calState b = Cb.armed ∧ t.cal.swapReq = none ∧
          t.cal.armed = s.cal.armed ++ [(b, m)] ∧ t.fld R.schedStatus stCode = Code.ok ∧
          (s.cal.armed = [] → t.fld R.tsiStat F.tsiStatAnnounce = 1 ∧ t.fld R.tsiStat F.tsiStatSwapMf = m % 2 ^ 32)) ∧
    (s.calState b = Cb.standby → s.cal.swapReq = none → exec (.schedBankEccError b) s = .next (calTo b Cb.invalid s))

/-- A frame of a TX flow is admitted in its window and held; it is cut at MAX_LEN and ended by its tail. -/
def Obligations.ScheduledFrames : Prop :=
  ∀ (s : State) (port t : Nat) (first body : Bytes) (fec : Fec), port < 96 →
    (16 ≤ first.length → first.length ≤ 64 → t < mfTicks → s.rxOn port = true → smapFind port s.line.rx = none →
      (s.flowOf port first t = none →
        exec (.flowMatch port first t fec .agree) s = .next (awaitSegment port first.length (0 < fec.uncorr) (countFec port fec s))) ∧
      (∀ b mf f w, s.flowOf port first t = some (b, mf, f) → first.length = 64 → s.halted = false → windowAt (s.calImg b) f t = some w →
          (∀ g, s.txFrameOf (calKey b w) = some g → g.mf ≠ mf) →
          ∃ x, exec (.flowMatch port first t fec .agree) s = .next x ∧
            x.txFrameOf (calKey b w) = some { flow := f, len := 64, whole := false, stomp := false, sent := 0,
                                              late := false, mf := mf } ∧
            x.rd (R.schedFlowCtr f 0) = s.rd (R.schedFlowCtr f 0) + 1)) ∧
    (∀ k g, s.schedCur port = some (k, g) →
      let max := s.maxLenOf k g.flow
      (max < g.len + body.length → g.flow < 8192 → ∃ u, exec (.schedOverlen port body fec) s = .next u ∧
          u.txFrameOf k = some { g with len := g.len + (max - g.len), whole := true, stomp := true } ∧
          u.rd (R.schedCtr 2) = s.rd (R.schedCtr 2) + 1) ∧
      (g.len + body.length ≤ max → s.curBad port = false → fec.uncorr = 0 →
        ∃ u, exec (.schedFrameTail port body .good fec) s = .next u ∧ smapFind port u.line.rx = none ∧
          u.txFrameOf k = some { g with len := g.len + body.length, whole := true }))

/-- A SCHED cell goes to the RX buffer that its slot names; a release that is due sends a whole buffer. When a release is
judged and how its frame is queued is the model's reading (log entry 86). -/
def Obligations.ScheduledReleases : Prop :=
  ∀ (s : State) (x : RxCell) (l : List RxCell) (b e r mf : Nat),
    (s.cal.cells = x :: l → s.halted = false → s.cal.run ≠ .off → s.rxSlot x = some (b, e) →
        let page := relPage (s.calImg b) (relEnt (s.calImg b) (sRef e))
        ∃ t, exec (.schedCellReceive .ok .agree) s = .next t ∧ t.cal.cells = l ∧
          smapFind (sCell e) (t.rxBuf page).cells = some (cellPay x.cell).length ∧
          t.cal.pool = (poolWrite (256 * page + 240 * sCell e) (cellPay x.cell) s).cal.pool ∧
          (cellLast x.cell = true → (t.rxBuf page).last = some (sCell e))) ∧
    (b < 2 → r < 16384 → s.relDue b r = some mf → s.halted = false →
      let n := relEnt (s.calImg b) r
      let page := relPage (s.calImg b) n
      let buf := s.rxBuf page
      let port := fOut (flowEnt (s.calImg b) (rFlow n))
      buf.complete = true → buf.stomp = false → s.linkUp port = true → ∃ t, exec (.schedRelease b r .agree) s = .next t ∧
          t.macQueue port = .sched (s.rxFrame page) (rFlow n) (s.relAt n mf) :: s.macQueue port ∧
          (∀ u : State, u.cal.rx = t.cal.rx → s.relAt n mf < u.now → u.rxBuf page = emptyRx) ∧
          t.rd (R.schedFlowCtr (rFlow n) 3) = s.rd (R.schedFlowCtr (rFlow n) 3) + 1 ∧ t.relDue b r ≠ some mf)

/-- At its pick time a slot sends, scrambled, the cell of the held frame that its entry names. -/
def Obligations.SlotsSendTheirCells : Prop :=
  ∀ (s : State) (l pos b e : Nat) (f : TxFrame), l < 120 → pos < 10240 →
    (s.framerRun = true → s.pwr.tripped = false → s.laneOn l = true → (s.lane l).txCell < 40 →
      (s.lane l).txNext = s.curFrame + 1 → pos = 40 * (s.curFrame % 256) + (s.lane l).txCell → pickTime pos ≤ s.calTime →
      s.twinLane l = false →
      s.servingSlot l pos = some (b, e, true) → (s.lane l).ais = false → s.halted = false →
        s.txFrameOf (calKey b (sRef e)) = some f → f.mf + b2n (txCarry (s.calImg b) e) = s.mfIndex → f.late = false →
        240 * (sCell e + 1) ≤ f.len →
        ∃ t, exec (.cellSlotPick l pos [] .ok .agree) s = .next t ∧ t.outs = .fabCell l pos (scrCell (s.lane l).txCell
            (schedCellOf s.devIndex (calEpoch (s.calImg b)) (sCell e) f (s.cellBytes (calKey b (sRef e)) (sCell e) f))) :: s.outs ∧
          t.txFrameOf (calKey b (sRef e)) = some { f with sent := sCell e + 1 })

/-- The next multiframe begins after 16,384 periods; a start runs the framer at its PTP boundary. With the boundary new
microcode for the T-die takes its place (R452 as log entry 164 reads it). -/
def Obligations.BoundariesComeOnTime : Prop :=
  ∀ s : State,
    (s.framerRun = true → 16384 + s.fab.mfRef ≤ s.fab.ref → ∀ v, voteOk v = true → ∃ u, exec (.multiframeBoundary v) s =
          .next (microBoundary (twinBoundary ((s.mfNum + 1) % 2 ^ 32) (calBoundary ((s.mfNum + 1) % 2 ^ 32) v u))) ∧
        u.fab.mfRef = s.fab.mfRef + 16384 ∧ u.regs = s.regs) ∧
    (∀ t, s.fab.startAt = some t → t ≤ s.now →
      ∃ u, exec .framerRun s = .next (calBoundary ((s.ptpMf t) % (2 ^ 32 : Nat)).toNat .agree u) ∧
        u.framerRun = true ∧ u.fab.startAt = none ∧ u.fab.mfRef = s.fab.ref - (s.now - t) / 64 ∧ u.fab.run0 = u.fab.mfRef)

/-! ### Fabric -/

/-- Groups are read every 64 periods; good cells and messages reach the queue engine; waits and holds end. -/
def Obligations.FabricReceives : Prop :=
  ∀ (s : State) (g l pos d key src tc : Nat) (c : Bytes) (w : Word) (x : Reasm) (u : State),
    let k := s.linkGroup (s.laneGroup l)
    (g < 24 → s.groupEn g = true → s.groupCfgOk g = true → (∀ l ∈ s.members g, s.inSync l = true) →
      (s.linkGroup g).readAt ≤ s.fab.ref → s.fab.ref < (s.linkGroup g).readAt + 64 →
        exec (.groupFrameRead g) s = .next (groupAdvance g (s.groupSize g)
          (setGroup g { s.linkGroup g with readAt := (s.linkGroup g).readAt + 64 } s))) ∧
    (l < 120 → pos < 10240 → c.length = 256 → s.inSync l = true → s.twinLane l = false →
      ((k.cells.head? = some (l, pos, c) ∧ u = setGroup (s.laneGroup l) { k with cells := k.cells.tail } s) ∨
        (k.cells.head? ≠ some (l, pos, c) ∧ s.groupReads (s.laneGroup l) = false ∧ u = s)) →
      (hecOk c = true → cellType c = 1 → cellDest c = s.devIndex → pcrcOk c = true → cellFirst c = true → cellNum c = 0 →
        s.flag (R.fabGroupStat (s.laneGroup l)) F.fabGroupStatUp = true → s.ctxOpen < 32768 →
        smapFind (reasmKey (cellSrc c) (cellGroup c) (cellTc c)) s.fab.ctx = none →
        ∃ t k, exec (.fabCellReceive l pos c) s = .next t ∧ t.pkt s.q.nextPkt = some k ∧
          k.md = slice 0 32 (cellPay c) ∧ k.bytes = (cellPay c).drop 32 ∧ k.tailIn = (cellLast c || cellStomp c) ∧
          smapGet (fun _ => []) 16 t.q.arrivals = smapGet (fun _ => []) 16 s.q.arrivals ++ [s.q.nextPkt]) ∧
      (hecOk c = true → cellType c = 2 → s.laneClean l = true → pcrcOk c = true → exec (.fabCellReceive l pos c) s =
          .next { u with cal := { s.cal with cells := s.cal.cells ++ [{ lane := l, pos := pos, cell := c, bad := false }] } })) ∧
    (l < 120 → s.inSync l = true → s.twinLane l = false → s.laneFlag l F.fabLaneStatAis = false →
      s.laneFlag l F.fabLaneStatTim = false →
      (((l, w) ∈ k.inMsgs ∧ u = setGroup (s.laneGroup l) { k with inMsgs := k.inMsgs.erase (l, w) } s) ∨
        ((l, w) ∉ k.inMsgs ∧ s.groupReads (s.laneGroup l) = false ∧ u = s)) →
      ∀ m, creditOf w = some m → msgTarget m = s.devIndex → exec (.fabMsgReceive l w) s = .next (takeCredit m u)) ∧
    (src < 4096 → g < 32 → tc < 8 → key = reasmKey src g tc → smapFind key s.fab.ctx = some x → x.open_ = true →
      x.at_ + usT (s.fld R.fabRxCfg F.fabRxCfgReasmTimeoutUs) ≤ s.now →
        exec (.reasmTimeout src g tc) s = .next (setReasm key { x with open_ := false }
          (endPacket x.pkt true (fabInc (R.fabDevCtr 3) s)))) ∧
    (∀ end_, d < 4096 → smapFind d s.fab.hold = some end_ → end_ ≤ s.now →
      ∃ t, exec (.repinGuardExpire d) s = .next t ∧ t.repinHeld d = false) ∧
    (s.fab.second < s.now / ticksPerSec → ∃ t, exec .fabPmLatch s = .next t ∧ t.fab.second = s.now / ticksPerSec ∧
      t.rd R.fabPmStamp0 = BitVec.ofNat 64 (stampLo (s.now / ticksPerSec * ticksPerSec)) ∧
      ((s.fab.ctr.map (·.1)).Nodup → ∀ e ∈ s.fab.ctr, fabLatched e.1 = true → t.rd e.1 = e.2))

/-- LOS, lock, frame transmission, and the steps of a lane from HUNT to SYNC and back. -/
def Obligations.LanesAlign : Prop :=
  ∀ (s : State) (l pos : Nat) (w : Bytes), l < 120 →
    (∃ t, exec (.fabLos l) s = .next t ∧ t.laneFlag l F.fabLaneStatLos = true ∧ t.laneStat l F.fabLaneStatAlign = 0) ∧
    (s.laneFlag l F.fabLaneStatLos = true → ∃ t, exec (.fabSignalLock l) s = .next t ∧ t.laneFlag l F.fabLaneStatLos = false) ∧
    (s.framerRun = true → s.pwr.tripped = false → s.laneOn l = true → (s.lane l).txNext ≤ s.curFrame →
      ∃ t w, exec (.fabFrameTransmit l) s = .next t ∧ t.outs = .fabFrame l w :: s.outs ∧ w.take 8 = faw ∧
        (t.lane l).txNext = s.curFrame + 1 ∧ (t.lane l).txCell = 0) ∧
    (w.length = 10496 → pos < 83968 → s.laneOn l = true → s.laneFlag l F.fabLaneStatLos = false →
      let n := byteAt 8 (scrFrame (w.take 9))
      (s.laneStat l F.fabLaneStatAlign = 0 → fawErrors w = 0 →
        ∃ t, exec (.fabFrameReceive l pos w) s = .next t ∧ t.laneStat l F.fabLaneStatAlign = 1 ∧
          (t.lane l).pos = pos ∧ (t.lane l).fn = n) ∧
      (s.laneStat l F.fabLaneStatAlign = 1 → (s.lane l).pos = pos → fawErrors w = 0 → n = ((s.lane l).fn + 1) % 256 →
        ∃ t, exec (.fabFrameReceive l pos w) s = .next t ∧ t.laneStat l F.fabLaneStatAlign = 2) ∧
      (s.laneStat l F.fabLaneStatAlign = 2 → (s.lane l).pos = pos → 2 < fawErrors w → (s.lane l).miss = 4 →
        exec (.fabFrameReceive l pos w) s = .next (refreshLane l (toHunt l s))))

/-! ### Burins -/

/-- EVENT, CREATE, DELETE, CTX_READ, CLEAR_FAULT and LOAD on a session that the map grants. CTX_READ shows no key (R361). The
codes of a LOAD that fails are log entry 111's where no rule names them, and DETAIL 0 is log entry 149. -/
def Obligations.BurinCommandsRun : Prop :=
  ∀ (s : State) (fn : Fn) (p : Nat), s.Owns fn p → s.Takes (.burin p) →
    let x := s.fld (R.burinArg p) F.burinArgSession
    let t := fun (op : Nat) => s.taken fn (.burin p) op p
    let c := s.ctxOf x
    (∀ op, op < 256 → Passes (burinChecks (t 1) p 1 x) → exec (.burinEvent fn op) s =
        .next (complete (.burin p) Code.ok 0 (burinPush (plainEvent op 3 x p 0 (hostArg s p)) (t 1)))) ∧
    (Passes (burinChecks (t 2) p 2 x) → exec (.burinCreate fn) s =
        .next (complete (.burin p) Code.ok 0 (burinPush (plainEvent (createByte s p 1) 3 x p 0 (hostArg s p))
          (setCtx x (newCtx (createByte s p 0) (createByte s p 2) (createByte s p 3) p) (t 2))))) ∧
    (Passes (burinChecks (t 3) p 3 x) →
      (s.sessRuns x = false → exec (.burinDelete fn) s = .next (complete (.burin p) Code.ok 0 (deleteNow x (t 3)))) ∧
      (s.sessRuns x = true →
        exec (.burinDelete fn) s = .next { t 3 with burin := { s.burin with deletes := s.burin.deletes ++ [(p, x)] } })) ∧
    (Passes (burinChecks (t 4) p 4 x) → exec (.burinCtxRead fn .ok) s = .next (complete (.burin p) Code.ok 0
        (setData (R.burinData p) 32 (if ctxService c = 1 then patch 0x48 (zeros 20) c else c) (t 4)))) ∧
    (Passes (burinChecks (t 5) p 5 x) →
      ∃ u, exec (.burinClearFault fn) s = .next u ∧ ctxFaulted (u.ctxOf x) = false ∧ ∀ y, y ≠ x → u.ctxOf y = s.ctxOf y) ∧
    (s.right p Right.burinLoad = true → s.boot.restarting = false → s.burin.load = none → s.burin.verify = none → ∀ b,
      exec (.burinLoad fn (.data b)) s = .next (match loadFail (s.rd (R.burinData p 0)).toNat (s.rd (R.burinData p 1)).toNat (.data b) with
          | some f => complete (.burin p) f.1 f.2 (t 6)
          | none => { t 6 with burin := { s.burin with verify := some (p, b) } }))

/-- Events start on idle engines and end by END, ABANDON or a fault; timers fire; regions switch; a detection time that passes
fails the remote MEP of a CFM session and takes a BFD session down (R356, by log entry 165). When an engine
is idle again and what its transmit buffer holds then (log entries 103 and 104), and a timer's STAMP in whole microseconds
(log entry 109), are the model's reading. -/
def Obligations.BurinEventsRun : Prop :=
  ∀ (s : State) (g sess : Nat) (ev : BurinEv) (rest : List BurinEv) (e : Eng), g < 64 → sess < 16384 →
    (s.burinOn = true → smapFind g s.burin.run = none → s.sessRuns sess = false →
      takeSession sess s.burin.queue = some (ev, rest) → s.opHeld ev.op = false →
      ctxFaulted (s.ctxOf sess) = false → dispKey ev.op ∉ s.burin.bad → nbit (s.dispWord ev.op) 31 = true →
          ∃ t, exec (.burinEventStart g sess .ok) s = .next t ∧ smapFind g t.burin.run = some ev ∧ t.burin.queue = rest ∧
            t.rd (R.burinEng g) = engWord ev.op sess (s.dispWord ev.op % 65536)) ∧
    (s.pwr.tripped = false →
      let i := engineIdle g e s
      let old := s.ctxOf ev.sess
      smapFind g i.burin.run = none ∧ i.rd (R.burinEng g) = 0 ∧
      (s.eventRun g [] = some (ev, e, .done) →
        let c := slice 0 0x20 old ++ slice 0x20 224 e.ctx
        exec (.burinEventEnd g []) s = .next (finishDelete ev.sess (forEach e.acts (performAct g ev.sess)
          (setCtx ev.sess (patch 0x18 (toBe 4 ((beAt 0x18 4 old + 1) % 2 ^ 32))
            (if ev.op < 0xC0 then svcClean (ctxService old) c else c)) (i.inc (R.burinCtr 0)))))) ∧
      (s.eventRun g [] = some (ev, e, .abandon) → exec (.burinEventAbandon g []) s = .next (finishDelete ev.sess i)) ∧
      (∀ cause, s.eventRun g [] = some (ev, e, .fault cause) →
        exec (.burinFault g []) s = .next (finishDelete ev.sess (faultEvent g ev e.pc cause i))) ∧
      (∀ p b f, s.burin.verify = some (p, b) → s.boot.restarting = false → s.burin.load = none → s.burin.vload = none →
        s.upd.mcNext = none → firstBad (loadVerifyChecks s.upd.cfg.plateKeys b) = some f →
        exec .burinRegionSwitch s = .next (loadEnd p f s)) ∧
      (∀ p b, (s.burin.load = some (p, b) ∧ s.burin.verify = none ∨ s.burin.verify = some (p, b) ∧
          s.boot.restarting = false ∧ firstBad (loadVerifyChecks s.upd.cfg.plateKeys b) = none) →
        s.burin.vload = none → s.upd.mcNext = none → p < 4 → (∀ r ∈ s.burin.run, r.2.op < 0xC0) →
        ∃ t, exec .burinRegionSwitch s = .next t ∧ t.burin.cust = custRegion b ∧ t.burin.load = none ∧
          t.fld (R.burinStatus p) stCode = Code.ok ∧ t.busy (.burin p) = false ∧
          t.rd R.burinCustId = wordAt 0 (slice 0x18 8 b))) ∧
    (smapFind g s.burin.run = some ev → ev.op = 0x21 → ev.src = 2 →
      (engRun s (badNow s []) ev (s.fld R.burinCfg F.burinCfgStepLimit) (engStart s g ev)).2 = .done →
      let c := s.ctxOf ev.sess
      (ctxService c = 2 → ∃ u, s.eventRun g [] = some (ev, u, .done) ∧ cget Svc.cfmRmepState u.ctx = 3 ∧
        nbit (cget Svc.cfmDefects u.ctx) 2 = true ∧ (nbit (cget Svc.cfmDefects c) 2 = false → u.acts = [svcNotify ev u.ctx])) ∧
      (ctxService c = 1 → 2 ≤ cget Svc.bfdState c → ∃ u, s.eventRun g [] = some (ev, u, .done) ∧
        cget Svc.bfdState u.ctx = 1 ∧ cget Svc.bfdDiag u.ctx = 1 ∧ u.acts = [svcNotify ev u.ctx])) ∧
    (∀ n, n < 2 →
      let c := s.ctxOf sess
      ctxService c ≠ 0 → ctxDue c n ≠ 0 → ctxDue c n ≤ s.timeUs → s.opHeld (ctxTimerOp c n) = false →
      (∀ d ∈ s.burin.deletes, d.2 ≠ sess) → s.burinRoom sess = true →
          ∃ t, exec (.burinTimerExpire sess n) s = .next t ∧ t.ctxOf sess = setDue n 0 c ∧ t.burin.queue = s.burin.queue ++
              [plainEvent (ctxTimerOp c n) (1 + n) sess 0 (stampOf (s.now / 10000 * 10000)) []])

/-! ### Seal and update -/

/-- The holder's UNWRAP, ENCRYPT, DECRYPT and CLEAR on a slot that the map grants. -/
def Obligations.SealCommandsRun : Prop :=
  ∀ (s : State) (fn : Fn) (p slot tagLen : Nat),
    s.MayWrite fn p 12 → s.holder = p → s.Takes .sealE → slot < 32 → tagLen < 32 → s.slotOk p slot = true →
    let t := fun (op : Nat) => (s.taken fn .sealE op p).wr R.sealBytesOut 0
    let key := s.keyBytes slot
    let aadLen := s.fld R.sealLen F.sealLenAadLen
    let len := s.fld R.sealLen F.sealLenLen
    (s.keyState slot = slotEmpty → ∀ x, let b := slice 0 64 x
        Passes (unwrapChecks (t 1) p b) →
        exec (.sealUnwrap fn slot (.data x) .ok .ok) s = .next (match blobRecord (kekKey s (blobKek b)) b with
          | none => sealFail fn Code.tagFail (t 1)
          | some r => if recordOk r = true then sealDone Code.ok (slotLoad slot r (blobId b) (s.rd R.sealIv0).toNat (t 1))
              else sealFail fn Code.length (t 1))) ∧
    (Passes (cryptChecks (t 2) slot 0 tagLen (2 ^ 32 - 1)) → ∀ a x,
      let iv := slotNonce s slot
      let c := gcmCtr key iv (slice 0 len x)
      let tag := tagOf key iv (slice 0 aadLen a) c tagLen
      ∃ u, exec (.sealEncrypt fn slot tagLen (.data a) (.data x) [] .ok) s = .next u ∧
        u.rd (R.sealCtr slot) = s.rd (R.sealCtr slot) + 1 ∧ u.rd R.sealIv0 = wordAt 0 iv ∧ u.rd R.sealIv1 = wordAt 1 iv ∧
        u.rd R.sealTag0 = wordAt 0 tag ∧ u.rd R.sealTag1 = wordAt 1 tag ∧
        u.rd R.sealBytesOut = BitVec.ofNat 64 c.length ∧ (c ≠ [] → .dmaWrite p (s.rd R.sealDst).toNat c ∈ u.outs) ∧
        u.fld R.sealStatus stCode = Code.ok ∧ u.busy .sealE = false) ∧
    (∀ stream a x, Passes (cryptChecks (t 3) slot 1 tagLen (if stream then 2 ^ 32 - 1 else 1048576)) →
      let iv := slice 0 12 (toLe 8 (s.rd R.sealIv0).toNat ++ toLe 4 (s.rd R.sealIv1).toNat)
      let given := toLe 8 (s.rd R.sealTag0).toNat ++ toLe 8 (s.rd R.sealTag1).toNat
      let c := slice 0 len x
      exec (.sealDecrypt fn slot tagLen stream (.data a) (.data x) [] .ok) s =
        .next (if tagOf key iv (slice 0 aadLen a) c tagLen = given.take tagLen
          then sealDone Code.ok (sealOut p (gcmCtr key iv c) (t 3))
          else sealDone Code.tagFail (sealOut p (released stream false (gcmCtr key iv c)) (t 3)))) ∧
    exec (.sealClear fn slot .ok) s = .next (sealDone Code.ok (slotClear slot (t 4)))

/-- ACQUIRE takes a free lock, RELEASE by its holder frees it, BREAK by partition 0 takes it away. -/
def Obligations.TheSealLockPasses : Prop :=
  ∀ (s : State) (fn : Fn) (p : Nat), s.MayWrite fn p 12 → s.right p Right.sealEng = true →
    let d := dropHeld fn s
    (s.holder = 7 → ∃ t, exec (.sealAcquire fn) s = .next t ∧ t.holder = p ∧ ∀ r ∈ sealRegs, t.rd r = regReset r) ∧
    (s.holder = p → s.busy .sealE = false → exec (.sealRelease fn) s = .next (lockFree d)) ∧
    (p = 0 → 1 ≤ s.holder → s.holder < 4 → exec (.sealBreak fn) s =
        .next (report .f 0x0A 0 .k 0x003 [(s.holder, 1), (0, 1)] ((lockFree d).inc (R.sealCount 3))))

/-- The commands of the update controller in the states that R444 lists. That a slot record and a copy of the boot control
record are written in the steps of log entries 12 and 127, and DETAIL 0 (log entry 149), are the model's choice. -/
def Obligations.UpdateCommandsRun : Prop :=
  ∀ (s : State) (fn : Fn) (p : Nat),
    s.MayWrite fn p 13 → s.right p Right.update = true → s.Takes .upd → s.boot.restarting = false → s.switching = false →
    s.flash.slots.length = 2 → s.flash.bcr.length = 2 →
    let t := fun (op : Nat) => { s.taken fn .upd op p with upd := { s.upd with lastCmd := s.now } }
    let n := s.staging
    let man := (s.slot n).manifest
    (s.updHolder = 7 → s.updState = Us.idle → s.fld R.updArg0 F.updArg0Addr % 64 = 0 →
      s.fld R.updArg1 F.updArg1Length ≤ 4352 → ∀ x,
      let b := slice 0 (s.fld R.updArg1 F.updArg1Length) x
      firstBad (openChecks s (s.fld R.updArg1 F.updArg1Length) b) = none → s.holder = 7 →
      ∀ key, contentKey s.upd.cfg.rootKey b = .ok key →
      ∃ w, exec (.updOpen fn (.data x)) s = .next w ∧ w.updState = Us.isOpen ∧ w.updHolder = p ∧ w.upd.hidden = key ∧
        w.slot n = { emptySlot with head := slotHead Ss.downloading, manifest := b } ∧ w.fld R.updStatus stCode = Code.ok ∧
        w.busy .upd = false) ∧
    (s.updHolder = p → (∀ comp x, 1 ≤ comp → comp ≤ 5 → s.updState = Us.isOpen →
        let off := s.fld R.updArg1 F.updArg1Offset
        let len := s.fld R.updArg1 F.updArg1Length
        let total := entryLen (manEntry man (comp - 1))
        off = s.fld (R.updRcvd (comp - 1)) F.updRcvdReceived → len ≤ 1048576 → (len % 4096 = 0 ∨ off + len = total) →
        off + len ≤ total →
        exec (.updWrite fn comp (.data x) true) s = .next (updDone Code.ok 0 ((setSlot n { s.slot n with
            images := (s.slot n).images.set (comp - 1) ((s.slot n).images.getD (comp - 1) [] ++ slice 0 len x) } (t 2)).setFld
              (R.updRcvd (comp - 1)) F.updRcvdReceived (off + len)))) ∧
      (s.updState = Us.isOpen → (s.slot n).head = slotHead Ss.downloading →
        (List.range 5).all (fun i => s.fld (R.updRcvd i) F.updRcvdReceived == entryLen (manEntry man i)) = true →
        s.holder = 7 → firstBad (allImgChecks s) = none →
        ∃ u, exec (.updVerify fn) s = .next u ∧ u.busy .upd = false ∧ u.updState = Us.verified ∧ (u.slot n).state = Ss.verified ∧
          u.fld R.updStatus stCode = Code.ok) ∧
      (s.updState = Us.verified → manMode man = 1 →
        ∃ u, exec (.updActivate fn .done) s = .next u ∧ u.updState = Us.pendingReset ∧ u.upd.bcr.trial = true ∧
          u.upd.bcr.trialSlot = n ∧ u.flash.bcr = [bcrBytes u.upd.bcr, bcrBytes u.upd.bcr]) ∧
      (s.updState = Us.verified → manMode man ≠ 1 → s.holder = 7 →
        (s.bankState s.spareBank = Pb.empty ∨ s.bankState s.spareBank = Pb.invalid) →
        compatHas man (tupleOf s.upd.run.hashes) = true → exec (.updActivate fn .done) s =
          .next (activateSteps .done (lockPass (setByUpd s.spareBank true (updTo Us.activating (t 4)))))) ∧
      (s.updState = Us.trial → (∃ u, exec (.updConfirm fn) s = .next u ∧ u.updState = Us.idle ∧ u.upd.bcr.trial = false ∧
          u.upd.bcr.confirmed = s.upd.bcr.trialSlot ∧ u.flash.bcr = [bcrBytes u.upd.bcr, bcrBytes u.upd.bcr] ∧
          u.upd.confirmAt = none) ∧
        (s.upd.trialBoot = true → ∃ u, exec (.updRevert fn) s = .next u ∧ u.upd.bcr.trial = false ∧
          u.flag R.updStatus F.updStatusReverted = true ∧ u.upd.confirmAt = none ∧ u.updState = Us.pendingReset ∧
          u.busy .upd = false) ∧
        (s.upd.trialBoot = false → exec (.updRevert fn) s =
          .next (backStart (.revert 2 true) { t 6 with upd := { (t 6).upd with confirmAt := none } }))) ∧
      ((s.updState = Us.idle ∨ s.updState = Us.isOpen ∨ s.updState = Us.verified) →
        ∃ u, exec (.updClose fn) s = .next u ∧ u.updState = Us.idle ∧ u.updHolder = 7 ∧ u.upd.hidden = [] ∧
          (u.slot u.staging).state = Ss.invalid))

/-- UPD_PREEMPT, the wait for the seal lock, new firmware, the lapse of a session, the end of a return to the confirmed set,
the confirm timer. How a pre-emption ends a session is log entry 129, when a return begins and ends log entries 152 and
164. -/
def Obligations.UpdateEventsEnd : Prop :=
  ∀ (s : State) (fn : Fn) (p t n : Nat),
    (s.MayWrite fn p 13 → (p = 0 → s.right 0 Right.update = true → (s.updState = Us.activating →
          exec (.updPreempt fn) s = .next { dropHeld fn s with upd := { s.upd with preempt := true } }) ∧
        (s.updState ∈ [Us.idle, Us.isOpen, Us.verifying, Us.verified] → s.updHolder ≠ 7 →
          ∃ u, exec (.updPreempt fn) s = .next u ∧ u.updHolder = 0 ∧ u.updState = Us.idle ∧ u.upd.hidden = []) ∧
        (s.updState = Us.idle ∧ s.updHolder = 7 ∨ s.updState ∈ [Us.trial, Us.pendingReset] →
          ∃ u, exec (.updPreempt fn) s = .next u ∧ u.updHolder = 0 ∧ u.updState = s.updState))) ∧
    (s.upd.wait = some (t, .verify) → 60 * ticksPerSec + t ≤ s.now → exec .updSealWaitTimeout s =
        .next (updDone Code.timeout 0x4D (updTo Us.isOpen { s with upd := { s.upd with wait := none } }))) ∧
    (s.upd.readyWait = some t → (s.now ≤ t + msT 500 → s.upd.preempt = false →
        ∃ u, exec .stewardReady s = .next u ∧ u.updState = Us.trial ∧ u.boot.restarting = false ∧
          u.upd.readyWait = none ∧ u.upd.confirmAt = some s.now ∧ u.fld R.updStatus stCode = Code.ok)) ∧
    (((s.updState = Us.idle ∧ s.updHolder ≠ 7) ∨ s.updState = Us.isOpen ∨ s.updState = Us.verified) → s.busy .upd = false →
      600 * ticksPerSec + s.upd.lastCmd ≤ s.now →
      ∃ u, exec .updSessionLapsed s = .next u ∧ u.updState = Us.idle ∧ u.updHolder = 7 ∧ u.upd.hidden = []) ∧
    (∀ k, let u := burinSwitch s
      u.upd.mcNext = some (.back k) → u.upd.tload = none → u.burin.vload = none →
      exec .burinRegionSwitch s = .next (backFinish k none { u with upd := { u.upd with mcNext := none } })) ∧
    (s.upd.confirmAt = some t → s.updState = Us.trial → n = s.fld R.updCfg F.updCfgConfirmS → n ≠ 0 →
      t + n * ticksPerSec ≤ s.now →
      (s.upd.trialBoot = true → ∃ u, exec .confirmTimerExpire s = .next u ∧ u.upd.bcr.trial = false ∧ u.upd.confirmAt = none ∧
        u.flag R.updStatus F.updStatusReverted = true) ∧
      (s.upd.trialBoot = false → exec .confirmTimerExpire s =
        .next (backStart (.revert 0 false) { s with upd := { s.upd with confirmAt := none } })))

/-! ### Boot, steward, twin -/

/-- Each stage of the boot acts once, after the stage before it. What the commands' operands name as failed is taken out:
wires (R26), stacks (R28 as log entry 25 reads it), lanes (R530). -/
def Obligations.BootStagesFollow : Prop :=
  ∀ s : State,
    s.boot.failed = false → (s.stage = 1 → ∀ c, s.ownerOf = some c →
        ∃ t, exec .bootCalibCheck s = .next t ∧ t.stage = 2 ∧ t.flash.scratch = [] ∧
          (calibValid c.updKeys s.flash.calib = true → t.pwr.absent = false ∧ t.pwr.curves = s.flash.calib) ∧
          (calibValid c.updKeys s.flash.calib = false → calibValid c.updKeys s.flash.scratch = false →
            t.pwr.absent = true ∧ t.pwr.curves = []) ∧
          (calibValid c.updKeys s.flash.calib = false → calibValid c.updKeys s.flash.scratch = true →
            t.pwr.absent = false ∧ t.flash.calib = s.flash.scratch ∧ t.pwr.curves = s.flash.scratch)) ∧
      (s.stage = 2 → ∀ failed, failed.all (fun w => w.1 < 96 && w.2 < 42) = true →
        exec (.bridgeWireTest failed) s = .next (uartText (stageTo 3
          (forEach failed (fun w s => wireFail (w.1 / 48) (w.1 % 48) w.2 s) (applyWires s.pwr.record s))))) ∧
      (∀ dir chan, s.stage = 2 → dir < 2 → chan < 48 → chan ∉ (s.bridge dir).retired → s.pwr.record = [] →
        (s.bridge dir).wires = [] →
        (∀ w i, w < 40 → i < 2 → ∃ t, exec (.bridgeWireTest [(48 * dir + chan, 40 + i), (48 * dir + chan, w)]) s = .next t ∧
          t.stage = 3 ∧ (t.bridge dir).chan chan = { used := [(w, 1 - i)], bad := [i] } ∧ chan ∉ (t.bridge dir).retired) ∧
        (∀ v w x, v < w → w < x → x < 40 → ∃ t, exec (.bridgeWireTest [(48 * dir + chan, v), (48 * dir + chan, w),
            (48 * dir + chan, x)]) s = .next t ∧ t.stage = 3 ∧ chan ∈ (t.bridge dir).retired)) ∧
      (s.stage = 3 → ∀ c, s.ownerOf = some c → ∃ t, exec .bootSetSelect s = .next t ∧ t.stage = 4 ∧ t.upd.cfg = c) ∧
      (s.stage = 4 → let n := s.upd.run.slot
        let b := s.upd.bcr
        (slotFail s 5 n = none → exec .bootManifestCheck s = .next (uartText (stageTo 5 s))) ∧
        (∀ f, slotFail s 5 n = some f → (b.trial = false ∨ n ≠ b.trialSlot) →
          exec .bootManifestCheck s = .next (uartText (bootFail f s))) ∧
        (∀ f, slotFail s 5 n = some f → b.trial = true → n = b.trialSlot → ∃ t, exec .bootManifestCheck s = .next t ∧
          t.flag R.updStatus F.updStatusFallback = true ∧ t.upd.run.slot = b.confirmed ∧ t.upd.bcr.trial = false)) ∧
      (s.stage = 5 → ∃ t, exec .pmapLock s = .next t ∧ t.stage = 6 ∧ t.locked = true) ∧
      (s.stage = 6 → slotFail s 7 s.upd.run.slot = none → ∃ t, exec .bootImageLoad s = .next t ∧ t.stage = 7 ∧
        t.bootStateOf = 2 ∧ t.boot.stewardUp = true ∧ t.upd.hidden = s.upd.hidden) ∧
      (s.stage = 7 → ∀ k, k < 5 → s.boot.hbmDone.getD k true = false →
        ∃ t, exec (.hbmTrainingDone k true) s = .next t ∧ t.boot.hbmDone = s.boot.hbmDone.set k true ∧
          ((s.boot.hbmDone.set k true).all id = true → t.stage = 8 ∧ t.bootStateOf = 3) ∧
          ((s.boot.hbmDone.set k true).all id = false → t.stage = 7)) ∧
      (s.stage = 7 → ∀ k, k < 5 → s.boot.hbmDone.getD k true = false →
        ∃ t, exec (.hbmTrainingDone k false) s = .next t ∧ t.boot.hbmDone = s.boot.hbmDone.set k true ∧
          (k < 4 → t.stackState k = 3) ∧ (k = 4 → t.boot.f0Out = true)) ∧
      (s.stage = 8 → exec .serdesCalibrationDone s =
        .next (uartText (stageTo 9 { s with boot := { s.boot with
          serdesDone := true, presets := if s.pwr.record.isEmpty then [] else slice 0x1000 6912 s.pwr.record } }))) ∧
      (s.stage = 9 → slotFail s 10 s.upd.run.slot = none →
        ∃ t, exec .bootPlateLoad s = .next t ∧ t.stage = 10 ∧ t.plate.live = some 0 ∧ t.bankState 0 = Pb.live) ∧
      (s.stage = 10 → ∀ echo, echo.all (fun e => e.1 < 120) = true → (∀ l < 120, s.laneEn l = false) →
        ∃ t, exec (.bootTraceCheck echo) s = .next t ∧ t.stage = 11 ∧ t.boot.traceDone = true ∧ ∀ l < 120,
          let off := if l < 64 then R.bootFabFail0 else R.bootFabFail1
          (bootAccepted echo l = some (bootTrace l) → bitOf (t.rd off) (l % 64) = bitOf (s.rd off) (l % 64)) ∧
          (bootAccepted echo l ≠ some (bootTrace l) → bitOf (t.rd off) (l % 64) = true)) ∧
      (s.stage = 11 → s.readyConds = true → ∃ t, exec .ready s = .next t ∧ t.stage = 12 ∧ t.bootStateOf = 4 ∧ t.boot.ready = true)

/-- POR_N, a failed boot, a steward fault and its restart, and the flits of the bridge. What the flashes hold when the power
fails while they are written is log entry 12; when a flit that waits starts is log entry 146. -/
def Obligations.ResetAndFaults : Prop :=
  ∀ (s : State) (st : Straps) (cut dir chan seq : Nat) (flit : Bytes),
    (st.pcieMode < 4 → ∃ t, exec (.powerOnReset ⟨st, cut⟩) s = .next t ∧ t.stage = 1 ∧ t.bootStateOf = 1 ∧
        t.flash = s.flashAt cut ∧ (cut = 0 → t.flash = s.flash) ∧
        t.pending = s.pending ∧ t.boot.straps = st ∧ t.boot.ready = false ∧ t.holder = 7 ∧ t.locked = false ∧
        t.fld R.bootState F.bootStatePcieMode = st.pcieMode) ∧
    (s.boot.failed = true → s.bootStateOf ≠ 0x80 →
      ∃ t, exec .bootFailed s = .next t ∧ t.bootStateOf = 0x80 ∧ t.locked = true ∧ ∀ p < 4, t.enabled p = false) ∧
    (∀ cut, cut.all cutOk = true → s.boot.stewardUp = true → s.boot.restarting = false → s.backWaits = false →
      ∃ t, exec (.stewardFault cut) s = .next t ∧ t.boot.restarting = true ∧ t.flag (R.erqStat 0) F.erqStatFatal = true ∧
        ∀ p < 4, t.busy (.mbx p) = false) ∧
    (s.boot.restarting = true → s.upd.readyWait = none → s.backWaits = false → s.boot.faultAt + msT 5 ≤ s.now →
      exec .stewardRestart s = .next (uartText { s with boot := { s.boot with restarting := false } })) ∧
    (dir < 2 → chan < 48 → flit.length = 64 →
      let b := s.bridge dir
      b.stopped = false → chan ∉ b.retired →
      (∀ f, (seq < b.next ∧ (smapFind seq b.sent).map (·.2) = some f) ∨
          (smapFind seq b.sent = none ∧ seq = b.next ∧ f = (b.schedQ ++ b.routedQ).headD ⟨false, none, flit⟩) →
        b.mayCarry chan seq = true → seq = b.expect → b.waiting = [] →
        ∃ t, exec (.bridgeFlitReceive dir chan seq true flit) s = .next t ∧ (t.bridge dir).got = b.got ++ [f.seen flit] ∧
          (t.bridge dir).expect = seq + 1 ∧ (.bridgeAck dir seq :: s.outs) <:+ t.outs) ∧
      (b.mayCarry chan seq = true → smapFind seq b.replays = some (chan, 8) →
        ∃ t, exec (.bridgeFlitReceive dir chan seq false flit) s = .next t ∧ chan ∈ (t.bridge dir).retired))

/-- Domains sleep as deep as they may and wake when wanted; 1PPS out, in and its loss. -/
def Obligations.DomainsAndPulses : Prop :=
  ∀ (s : State) (d : Domain) (ns : Nat), domainOk d = true → ns < 2 ^ 32 →
    let st := s.fld (domainReg d) wakeState
    (st < s.sleepState d → ∃ t, exec (.domainSleep d) s = .next t ∧ t.fld (domainReg d) wakeState = s.sleepState d ∧
      ∀ r, r ≠ domainReg d → t.rd r = s.rd r) ∧
    (st ≠ 0 → s.wakeWanted d = true → ∃ t, exec (.domainWake d ns) s = .next t ∧ t.fld (domainReg d) wakeState = 0 ∧
      t.rd (R.pwrCtr 3) = s.rd (R.pwrCtr 3) + 1) ∧
    (s.flag R.pwrTbCfg F.pwrTbCfgPpsOutEn = true → s.now % ticksPerSec < 65 → s.pwr.ppsNext ≤ s.now →
      ∃ t, exec .ppsOut s = .next t ∧ t.outs = .pulse 0 :: s.outs ∧
        t.pwr.ppsNext = (s.now / ticksPerSec + 1) * ticksPerSec ∧
        t.pwr.ppsFall = s.now / ticksPerSec * ticksPerSec + msT 1 ∧ t.regs = s.regs) ∧
    (s.flag R.pwrTbCfg F.pwrTbCfgPpsInEn = true →
      (∃ t, exec .ppsInEdge s = .next t ∧ t.rd R.pwrTbPps0 = BitVec.ofNat 64 (stampLo s.now) ∧
        t.flag R.pwrTbStat F.pwrTbStatPpsLoss = false ∧ t.pwr.ppsAt = s.now) ∧
      (s.flag R.pwrTbStat F.pwrTbStatPpsLoss = false → s.pwr.ppsAt + msT 1500 ≤ s.now →
        ∃ t, exec .ppsLoss s = .next t ∧ t.flag R.pwrTbStat F.pwrTbStatPpsLoss = true))

/-- Rails and sensors are read and judged. Which read-backs are due (log entry 133), the phase of the windows of the measured
rate (log entry 132) and the order of an evaluation (log entry 134) are the model's; a PTP boundary switches the T-die's
microcode while the framer stands still (log entry 164). -/
def Obligations.RailsAndSensors : Prop :=
  ∀ (s : State) (d mv : Nat) (raw : List Int), d < 2 → mv < 65536 → s.pwr.rails.length = 2 →
    (s.readDue d = true → (s.rail d).open_ = true →
      let set := s.fld (R.pwrRailStat d) F.pwrRailStatVsetMv
      let left := (s.rail d).due.filter (fun t => decide (s.now < t))
      let next := if (s.rail d).readAt ≤ s.now then s.now + msT 1 else (s.rail d).readAt
      (mv ≤ set + 10 → set ≤ mv + 10 →
        ∃ t, exec (.avsReadback d mv) s = .next t ∧ t.flag (R.pwrRailStat d) F.pwrRailStatAvsFault = false ∧
          t.rail d = { tries := 0, readAt := next, due := left, open_ := false } ∧ t.outs = s.outs) ∧
      ((set + 10 < mv ∨ mv + 10 < set) →
        (left ≠ [] → ∃ t, exec (.avsReadback d mv) s = .next t ∧ t.outs = s.outs ∧
          t.rail d = { s.rail d with readAt := next, due := left }) ∧
        (left = [] → (s.rail d).tries < 3 →
          ∃ t, exec (.avsReadback d mv) s = .next t ∧ t.outs = .avs d set :: s.outs ∧
            t.rail d = { tries := (s.rail d).tries + 1, readAt := next, due := [s.now + usT 200], open_ := true } ∧
            t.rd (R.pwrCtr 2) = s.rd (R.pwrCtr 2) + 1) ∧
        (left = [] → 3 ≤ (s.rail d).tries → ∃ t, exec (.avsReadback d mv) s = .next t ∧
          t.flag (R.pwrRailStat d) F.pwrRailStatAvsFault = true ∧
          t.rail d = { tries := 0, readAt := next, due := [], open_ := false }))) ∧
    (raw.length = 32 → raw.all (fun x => decide (-32000 ≤ x) && decide (x ≤ 32000)) = true → s.boot.restarting = false →
      ∃ t, exec (.thermalRead raw) s = .next t ∧ t.pwr.readAt = s.now ∧
        t.pwr.temps = (List.range 32).map (fun i => raw.getD i 0 + s.sensorOffset i) ∧
        t.flag R.pwrThermStat F.pwrThermStatStale = false) ∧
    (s.pwr.readAt + msT 20 ≤ s.now → s.flag R.pwrThermStat F.pwrThermStatStale = false →
      ∃ t, exec .thermalStale s = .next t ∧ t.flag R.pwrThermStat F.pwrThermStatStale = true) ∧
    (∀ a b, s.pwr.nextMf ≤ s.now → s.bootStateOf ≠ 0 → s.pwr.temps = [] →
      s.flag R.pwrThermStat F.pwrThermStatStale = false → s.flag R.pwrThermStat F.pwrThermStatThrottle = false →
      s.pwr.tripped = false → s.pwr.newCrv = [] →
      let on := s.flag R.pwrCtl F.pwrCtlPmEn && !s.pwr.absent
      let u := { s with pwr := { s.pwr with nextMf := s.ptpBoundary (s.now + 1), pmOn := on, raised := s.pwr.raised + 1,
                                            lowered := s.pwr.lowered + 1 } }
      (on = false → exec (.ptpMfBoundary a b) s = .next (doIf (!s.framerRun) microBoundary (railTop u)) ∧
        ∀ e < 2, (railTop u).fld (R.pwrRailStat e) F.pwrRailStatReason = 8) ∧
      (on = true → exec (.ptpMfBoundary a b) s = .next (doIf (!s.framerRun) microBoundary
        (railEval (u.packetRate (u.measured s.pwr.passIn a)) (u.packetRate (u.measured s.pwr.passOut b)) u))))

/-- SWITCH, FORCE_ACTIVE and CLEAR_FAILED; STATUS records keep the link; a lost mate is replaced. -/
def Obligations.TwinsChangeRoles : Prop :=
  ∀ (s : State) (fn : Fn) (p l at_ : Nat) (c : Bytes),
    (s.MayWrite fn p 15 → s.Takes .twin → (Passes (twinChecks (s.taken fn .twin 1 p) 1) →
        let own := mfLater (s.twin.switchM.getD s.mfAfter2) s.mfAfter2
        let m := match s.twin.mateM with
          | none => own
          | some x => if mfReached x s.mfNum then own else mfLater own x
        ∃ t, exec (.twinSwitch fn) s = .next t ∧ t.twin.switchM = some m ∧ t.fld R.twinStatus stCode = Code.ok ∧
          t.twinState = s.twinState) ∧
      (Passes (twinChecks (s.taken fn .twin 2 p) 2) → exec (.twinForceActive fn) s =
          .next (complete .twin Code.ok 0 { s.taken fn .twin 2 p with twin := { s.twin with force := true } })) ∧
      (Passes (twinChecks (s.taken fn .twin 3 p) 3) →
        ∃ t, exec (.twinClearFailed fn) s = .next t ∧ t.twinState = 2 ∧ t.fld R.twinStatus stCode = Code.ok)) ∧
    (l < 120 → c.length = 256 → s.twinLane l = true → s.inSync l = true →
      (hecOk c = true → cellType c = 3 → pcrcOk c = true → s.laneClean l = true → s.laneFlag l F.fabLaneStatTim = false →
        s.twinState ≠ 0 → byteAt 0 (slice 16 64 c) = 1 →
        (s.statusCopy l (256 * beAt 4 4 (slice 16 64 c) + (s.lane l).fn) = true → exec (.twinRecordReceive l c) s = .next s) ∧
        (s.statusCopy l (256 * beAt 4 4 (slice 16 64 c) + (s.lane l).fn) = false →
        ∃ t, exec (.twinRecordReceive l c) s = .next t ∧ t.twinLinkUp = true ∧ t.twin.statAt = some s.now ∧
          t.mateState = byteAt 1 (slice 16 64 c) % 8))) ∧
    (s.twin.statAt = some at_ → s.twinLinkUp = true → 32768 + at_ ≤ s.now →
      ∃ t, exec .twinLinkDown s = .next t ∧ t.twinLinkUp = false ∧ t.rd (R.twinCtr 5) = s.rd (R.twinCtr 5) + 1) ∧
    (s.flag R.twinState F.twinStatePinIn = true →
      ∃ t, exec .twinHealthInFall s = .next t ∧ t.flag R.twinState F.twinStatePinIn = false ∧
        (s.twinState = 2 → s.twinLinkUp = true → t.twin.waitTo = some (16384 + s.now))) ∧
    (∃ t, exec .twinHealthInRise s = .next t ∧ t.flag R.twinState F.twinStatePinIn = true ∧ t.twin = s.twin) ∧
    (s.twin.waitTo = some at_ → at_ ≤ s.now → s.twinState = 2 → ∃ t, exec .twinHealthWaitExpire s = .next t ∧ t.twinState = 3 ∧
        t.activeSince = s.mfNum ∧ t.twin.waitTo = none)

/-- Mailbox commands while the steward runs; SMBus answers at address 0x5A. -/
def Obligations.MailboxesAnswer : Prop :=
  ∀ (s : State) (fn : Fn) (p : Nat) (x : Bytes),
    (s.Owns fn p → s.busy (.mbx p) = false → s.boot.stewardUp = true → s.boot.restarting = false →
      let t := s.taken fn (.mbx p) 0 p
      let key := mbxData p s 0 % 2 ^ 32
      let val := s.dataBytes (fun i => R.mbxData p (i + 1)) 7
      (exec (.mbxPing fn) s = .next (complete (.mbx p) Code.ok 0 t)) ∧
      (∃ u, exec (.mbxVersion fn) s = .next u ∧ u.fld (R.mbxStatus p) stCode = Code.ok ∧
        u.rd (R.mbxData p 0) = BitVec.ofNat 64 Config.bootHash) ∧
      (∃ u, exec (.mbxThermal fn) s = .next u ∧ u.fld (R.mbxStatus p) stCode = Code.ok ∧
        u.rd (R.mbxData p 0) = wordAt 0 ((List.range 4).flatMap (fun i => toLe 2 (temp16 (s.pwr.temps.getD i 0))))) ∧
      (∀ v, smapFind key (s.area s.readArea) = some v →
        exec (.settingsGet fn) s = .next (complete (.mbx p) Code.ok 0 (setData (fun i => R.mbxData p (i + 1)) 7 v t))) ∧
      ((∀ a ∈ s.putAreas, a < s.flash.areas.length) →
        s.putAreas.any (fun a => (smapFind key (s.area a)).isNone && Config.settingsCapacity ≤ (s.area a).length) = false →
        ∃ u, exec (.settingsPut fn) s = .next u ∧ u.fld (R.mbxStatus p) stCode = Code.ok ∧
          ∀ a ∈ s.putAreas, smapFind key (u.area a) = some val) ∧
      (mbxData p s 0 % 64 = 0 → s.pwr.absent = false → exec (.calibRead fn (.data [])) s = .next (complete (.mbx p) Code.ok 0
          (t.emit (.dmaWrite p (mbxData p s 0) (slice 0 65536 s.flash.calib))))) ∧
      (p = 0 → s.right 0 Right.calib = true → mbxData p s 2 % 2 ^ 32 = 0x4F565752 →
        ∃ u, exec (.calibWrite fn (.data x)) s = .next u ∧ u.busy (.mbx p) = false ∧
          (Passes (calibChecks s p (slice 0 65536 x)) → u.flash.calib = slice 0 65536 x ∧
            u.pwr.newCrv = slice 0 65536 x ∧ u.fld (R.mbxStatus p) stCode = Code.ok) ∧
          (¬ Passes (calibChecks s p (slice 0 65536 x)) → u.flash = s.flash ∧ u.pwr = s.pwr))) ∧
    (∀ (c : Byte) fmt pec, s.bootStateOf ≠ 0 →
      let b := smbFormat fmt (if c = 0 then toLe 4 devId else if c = 1 then toLe 2 devStep else smbReply s c.toNat)
      exec (.smbusRead 0x5A [c] fmt pec) s = .next (s.emit (.smbus (if pec then b ++ [smbPec ([0xB4, c, 0xB5] ++ b)] else b))))

/-! ### Hosts -/

/-- PERST_N, function level reset with the frame of the other partitions, interrupt status, and a vector that is unmasked. -/
def Obligations.HostResetsAndInterrupts : Prop :=
  ∀ (s : State) (fn : Fn) (p port vec : Nat) (v : Word), s.upd.wait = none →
    (port < 2 → port < s.host.perst.length →
      (∃ t, exec (.perstN port) s = .next t ∧ ∀ g : Fn, g.port = port → t.reached g = false) ∧
      (∃ t, exec (.perstNRise port) s = .next t ∧ t.host.perst.getD port true = false ∧
        ∀ g : Fn, g.port = port → t.reached g = presented s.boot.straps.pcieMode g)) ∧
    (s.Owns fn p → (∃ t, exec (.functionLevelReset fn) s = .next t ∧
        ∀ off d ix, regAt off = some (d, ix) → resetByPerst d = true → ix.headD 0 = p → t.rd off = regReset off) ∧
      (s.holder ≠ p → s.upd.tHeld = [] → s.q.flushes.getD p none = none →
        (∀ e ∈ s.pkts, ∀ q r n at_ desc, e.2.place = .ring q r n at_ desc → r < 64) → ∃ t, exec (.functionLevelReset fn) s = .next t ∧
        (∀ off d ix, regAt off = some (d, ix) → (d.perPart = false ∨ ix.headD 0 ≠ p) → t.rd off = s.rd off) ∧
        (∀ v, v / 256 ≠ p → (v ∈ t.host.msixOpen ↔ v ∈ s.host.msixOpen) ∧ (v ∈ t.host.msixPend ↔ v ∈ s.host.msixPend)) ∧
        t.tbl.words = s.tbl.words ∧ t.tbl.leaves = s.tbl.leaves ∧ t.tbl.nextHop = s.tbl.nextHop ∧ t.tbl.group = s.tbl.group ∧
        t.tbl.member = s.tbl.member ∧ t.tbl.em = s.tbl.em ∧ t.asa = s.asa ∧ t.ppm = s.ppm ∧ t.plate = s.plate ∧ t.q = s.q ∧
        t.burin.ctx = s.burin.ctx ∧ t.burin.nqSeq = s.burin.nqSeq) ∧
      (∃ t, exec (.intStatusClear fn false v) s = .next t ∧ t.rd (R.intStatus p) = s.rd (R.intStatus p) &&& ~~~v) ∧
      (∃ t, exec (.intStatusClear fn true v) s = .next t ∧ t.rd (R.intRingStatus p) = s.rd (R.intRingStatus p) &&& ~~~v) ∧
      (vec < 256 → ∃ t, exec (.msixUnmask fn vec) s = .next t ∧ t.regs = s.regs ∧ 256 * p + vec ∈ t.host.msixOpen ∧
          256 * p + vec ∉ t.host.msixPend ∧
          t.outs = (if 256 * p + vec ∈ s.host.msixPend then [s.msiOut p vec] else []) ++ s.outs))

/-- A TX descriptor is consumed and its frame of LEN bytes queued; RX completions are signalled. -/
def Obligations.HostRingsRun : Prop :=
  ∀ (s : State) (p r : Nat) (d f : Bytes), p < 4 → r < 64 →
    (s.ringOn p r 0 = true → s.ringHead p r ≠ s.ringTail p r → ∃ t, exec (.pioTxDescriptor p r (.data d) (.data f)) s = .next t ∧
          t.ringHead p r = (s.ringHead p r + 1) % 2 ^ 32 ∧
          .dmaWrite p (s.ringDesc p r 32 + 10) (toLe 1 1 ++ toLe 1 (txCode s p (.data d) (.data f))) ∈ t.outs ∧
          (txCode s p (.data d) (.data f) = Code.ok →
            ∃ k, t.pkt s.q.nextPkt = some k ∧ k.md ++ k.bytes = slice 0 (leAt 8 2 d) f ∧ k.md.length = 32 ∧ k.port = 127 ∧
              smapGet (fun _ => []) (18 + p) t.q.arrivals = smapGet (fun _ => []) (18 + p) s.q.arrivals ++ [s.q.nextPkt]) ∧
          (txCode s p (.data d) (.data f) ≠ Code.ok → t.pkts = s.pkts)) ∧
    (∀ n t0, smapFind (64 * p + r) s.host.coal = some (n, t0) → t0 ≤ s.now →
      ∃ t, exec (.rxCoalExpire p r) s = .next t ∧ smapFind (64 * p + r) t.host.coal = none ∧
        (s.mayInt p = true → s.flag (R.pioRingCfg p r) F.pioRingCfgIrqEn = true →
          t.rd (R.intRingStatus p) = setBit (s.rd (R.intRingStatus p)) r true ∧
          (bitOf (s.rd (R.intRingStatus p)) r = false → bitOf (s.rd (R.intRingEnable p)) r = true → t.outs = (sendMsi p (17 + r) s).outs)))

/-- The rows that write one register write it as REG_WRITE does, which stores what passes every check; a command register
carries its command out, and the MSI-X table of BAR2 takes what is written (log entry 157). -/
def Obligations.ConfigurationWritesStore : Prop :=
  ∀ (s : State) (fn : Fn) (p : Nat) (d : RegDesc) (ix : List Nat),
    (∀ off v, off < 2 ^ 28 → off % 8 = 0 → s.Stores fn p off d ix v →
      exec (.regWrite fn off 8 v) s = .next (storeWrite d ix off v (dropHeld fn s))) ∧
    (∀ o m, o < 12 → m < 16 → s.Stores fn p (R.lineOctetCfg o) d ix (setF 0 F.lineOctetCfgMode m) →
      exec (.lineOctetModeWrite fn o m) s =
        .next (storeWrite d ix (R.lineOctetCfg o) (setF 0 F.lineOctetCfgMode m) (dropHeld fn s))) ∧
    (∀ v, s.Stores fn p R.plateCtl d ix v → exec (.pipeQuiesce fn v) s = .next (storeWrite d ix R.plateCtl v (dropHeld fn s))) ∧
    (∀ t v, t < 16 → s.Stores fn p (R.asaTableCfg t) d ix v →
      exec (.asaTableCfgWrite fn t v) s = .next (storeWrite d ix (R.asaTableCfg t) v (dropHeld fn s))) ∧
    (∀ r k v, r < 23 → k < 2 → s.Stores fn p (R.bpmQuota r k) d ix v →
      exec (.bpmQuotaWrite fn r k v) s = .next (storeWrite d ix (R.bpmQuota r k) v (dropHeld fn s))) ∧
    (∀ v, s.Stores fn p R.qAdmitCfg d ix v → v = setF (s.rd R.qAdmitCfg) F.qAdmitCfgAuto 1 →
      exec (.fallbackAutoClear fn) s = .next (storeWrite d ix R.qAdmitCfg v (dropHeld fn s))) ∧
    (∀ v, s.Stores fn p R.fabCtl d ix v → v = setF (s.rd R.fabCtl) F.fabCtlFramerStart 1 →
      exec (.framerStart fn) s = .next (storeWrite d ix R.fabCtl v (dropHeld fn s))) ∧
    (∀ v, s.Stores fn p R.fabCtl d ix v → v = setF (s.rd R.fabCtl) F.fabCtlFramerStop 1 →
      exec (.framerStop fn) s = .next (storeWrite d ix R.fabCtl v (dropHeld fn s))) ∧
    (∀ l v, l < 120 → s.Stores fn p (R.fabLaneCfg l) d ix v →
      exec (.fabLaneEnable fn l v) s = .next (storeWrite d ix (R.fabLaneCfg l) v (dropHeld fn s))) ∧
    (∀ l v, l < 120 → s.Stores fn p (R.fabLaneCfg l) d ix v → v = setF (s.rd (R.fabLaneCfg l)) F.fabLaneCfgTraceCheck 1 →
      exec (.traceCheck fn l) s = .next (storeWrite d ix (R.fabLaneCfg l) v (dropHeld fn s))) ∧
    (∀ n v, n < 4096 → s.Stores fn p (R.fabReach n) d ix v →
      exec (.fabReachWrite fn n v) s = .next (storeWrite d ix (R.fabReach n) v (dropHeld fn s))) ∧
    (∀ r v, r < 64 → s.Stores fn p (R.pioRingCfg p r) d ix (setF v F.pioRingCfgRingEn 0) → s.partOf fn = some p →
      exec (.pioRingDisable fn r v) s =
        .next (storeWrite d ix (R.pioRingCfg p r) (setF v F.pioRingCfgRingEn 0) (dropHeld fn s))) ∧
    (∀ die v, die < 2 → s.Stores fn p (R.pwrRailCfg die) d ix v →
      exec (.pwrRailCfgWrite fn die v) s = .next (storeWrite d ix (R.pwrRailCfg die) v (dropHeld fn s))) ∧
    (∀ x v, domainOk x = true → s.Stores fn p (domainReg x) d ix v →
      exec (.wakeBudgetWrite fn x v) s = .next (storeWrite d ix (domainReg x) v (dropHeld fn s))) ∧
    (∀ v, s.Stores fn p R.twinCfg d ix v → exec (.twinEnable fn v) s = .next (storeWrite d ix R.twinCfg v (dropHeld fn s))) ∧
    (∀ off v, off < 2 ^ 28 → off % 8 = 0 → fnOk fn = true → s.reached fn = true → regAt off = some (d, ix) →
      isCmd d.reg = true → permit s fn d ix true = .ok p →
      exec (.regWrite fn off 8 v) s = .next (cmdWrite fn p d.reg v (dropHeld fn s))) ∧
    (s.MayWrite fn p 15 → exec (.regWrite fn R.twinCmd 8 (setF 0 F.twinCmdOpcode 1)) s =
          exec (.twinSwitch fn) { s with freeCtr := s.freeCtr + 2 } ∧
        exec (.regWrite fn R.twinCmd 8 (setF 0 F.twinCmdOpcode 2)) s =
          exec (.twinForceActive fn) { s with freeCtr := s.freeCtr + 2 } ∧
        exec (.regWrite fn R.twinCmd 8 (setF 0 F.twinCmdOpcode 3)) s =
          exec (.twinClearFailed fn) { s with freeCtr := s.freeCtr + 2 }) ∧
    (exec (.regWrite fn R.sealLock 8 (setF 0 F.sealLockAcquire 1)) s = exec (.sealAcquire fn) s ∧
      exec (.regWrite fn R.sealLock 8 (setF 0 F.sealLockRelease 1)) s = exec (.sealRelease fn) s ∧
      exec (.regWrite fn R.sealLock 8 (setF 0 F.sealLockBreak 1)) s = exec (.sealBreak fn) s ∧
      exec (.regWrite fn R.updPreempt 8 (setF 0 F.updPreemptPreempt 1)) s = exec (.updPreempt fn) s) ∧
    (s.Owns fn p → ∀ v,
      (∃ t, exec (.regWrite fn (R.intEnable p) 8 v) s = .next t ∧ t.rd (R.intEnable p) = v &&& lowMask 17 ∧
        ∀ r, r ≠ R.intEnable p → t.rd r = s.rd r) ∧
      (∃ t, exec (.regWrite fn (R.intRingEnable p) 8 v) s = .next t ∧ t.rd (R.intRingEnable p) = v ∧
        ∀ r, r ≠ R.intRingEnable p → t.rd r = s.rd r)) ∧
    (s.Owns fn p → ∀ vec v, vec < 256 →
      (∃ t, exec (.regWrite fn (2 ^ 28 + 16 * vec) 8 v) s = .next t ∧ t.bar2Word p (2 * vec) = v ∧ t.regs = s.regs) ∧
      (∃ t, exec (.regWrite fn (2 ^ 28 + 16 * vec + 8) 8 v) s = .next t ∧ t.regs = s.regs ∧
        t.bar2Word p (2 * vec + 1) = setBit (v &&& lowMask 32) 32 (bitOf v 32) ∧
        (bitOf v 32 = true → t.outs = s.outs) ∧
        (bitOf v 32 = false → 256 * p + vec ∉ t.host.msixPend ∧
          t.outs = (if 256 * p + vec ∈ s.host.msixPend then [t.msiOut p vec] else []) ++ s.outs)))

/-- A read answers and clears; what the MIN fields start again from is the model's reading (log entry 22). -/
def Obligations.ReadsAnswerAndClear : Prop :=
  ∀ (s : State) (fn : Fn) (p off : Nat) (d : RegDesc) (ix : List Nat),
    fnOk fn = true → s.reached fn = true → off < 2 ^ 28 → off % 8 = 0 → regAt off = some (d, ix) →
    permit s fn d ix false = .ok p → s.slotHidden p d.reg ix = false →
    ∃ t, exec (.readClear fn off 8) s = .next t ∧ t.outs = .readReply fn off (s.view fn p off d.reg ix).toNat :: s.outs ∧
      (d.reg = .bpmSharedStat → t.fld off F.bpmSharedStatMinSharedFree = t.fld off F.bpmSharedStatSharedFree) ∧
      (d.reg = .schedSlackMin → t.fld off F.schedSlackMinMinSlackPs = 0x7FFFFFFF) ∧
      (off = R.pwrTbTime0 → exec (.pwrTbTimeRead fn) s = .next t ∧
        t.fld R.pwrTbTime1 F.pwrTbTime1TsHigh = stampHi s.now % 2 ^ fldWidth F.pwrTbTime1TsHigh) ∧
      (∀ port < 96, off = R.lineTsFifoLo port → exec (.lineTsFifoLoRead fn port) s = .next t ∧
        smapGet (fun _ => []) port t.line.tsFifo = (smapGet (fun _ => []) port s.line.tsFifo).tail) ∧
      (d.reg ∉ [.bpmSharedStat, .schedSlackMin, .pwrTbTime0] → t.regs = s.regs) ∧
      (d.counter = false →
        (∃ u, exec (.counterLowRead fn off) s = .next u ∧
          u.outs = .readReply fn off ((s.view fn p off d.reg ix).toNat % 2 ^ 32) :: s.outs ∧ u.regs = t.regs) ∧
        (∃ u, exec (.counterLowRead fn (off + 4)) s = .next u ∧
          u.outs = .readReply fn (off + 4) ((s.view fn p off d.reg ix).toNat / 2 ^ 32) :: s.outs ∧ u.regs = s.regs)) ∧
      (∀ at_ size v, at_ < 2 ^ 28 → ¬ (size = 8 ∧ at_ % 8 = 0) → ¬ (size = 4 ∧ at_ % 4 = 0) →
        let u := (dropHeld fn s).emit (.unsupported fn)
        exec (.regWrite fn at_ size v) s = exec (.readClear fn at_ size) s ∧
        (s.locked = false → exec (.readClear fn at_ size) s = .next u) ∧
        (s.locked = true → s.partOf fn = some p →
          exec (.readClear fn at_ size) s = .next (report .f 0x01 p .k 0x003 [] u))) ∧
      (∀ i, i < 8192 → s.partOf fn = some p → ∃ u, exec (.readClear fn (2 ^ 28 + 8 * i) 8) s = .next u ∧
        u.outs = .readReply fn (2 ^ 28 + 8 * i) (s.bar2Word p i).toNat :: s.outs ∧ u.regs = s.regs)

/-- A 32-bit write is held, and joins the next access if that is the high half of the same register. -/
def Obligations.HalfWritesJoin : Prop :=
  ∀ (s : State) (fn : Fn) (off : Nat) (lo hi : BitVec 32),
    fnOk fn = true → s.reached fn = true → off + 4 < 2 ^ 28 → off % 8 = 0 →
    let t := holdLow fn off lo s
    let d := dropHeld fn s
    exec (.halfWriteLow fn off lo) s = .next t ∧ t.regs = s.regs ∧ t.outs = s.outs ∧
      exec (.regWrite fn (off + 4) 4 (hi.setWidth 64)) t = exec (.regWrite fn off 8 (hi ++ lo)) d ∧
      (∀ o w, o % 8 = 0 →
        exec (.regWrite fn o 8 w) t = exec (.regWrite fn o 8 w) d ∧ exec (.readClear fn o 8) t = exec (.readClear fn o 8) d ∧
          exec (.counterLowRead fn o) t = exec (.counterLowRead fn o) d ∧
          (o ≠ off → exec (.regWrite fn (o + 4) 4 w) t = exec (.regWrite fn (o + 4) 4 w) d)) ∧
      (∀ o w, o ≠ off →
        exec (.regWrite fn (off + 4) 4 (hi.setWidth 64)) (holdLow fn o w t) = exec (.regWrite fn off 8 (hi ++ 0#32)) d) ∧
      exec (.regWrite fn (off + 4) 4 (hi.setWidth 64)) d = exec (.regWrite fn off 8 (hi ++ 0#32)) d

/-- ERQ_ACK of the head removes it or a part of it; ERQ_FATAL_CLR clears the fatal record. -/
def Obligations.ErrorsAreAcknowledged : Prop :=
  ∀ (s : State) (fn : Fn) (p n : Nat) (v : Word) (r : ErqRec) (rest : List ErqRec),
    s.MayWrite fn p 16 → n < 2 → s.erq (dieOf n) = r :: rest →
    let seq := s.fld (R.erqStat n) F.erqStatHeadSeq
    let cnt := getF v F.erqAckCount
    (getF v F.erqAckSeq = seq → cnt = r.count → cnt ≠ 0 → ∃ t, exec (.erqAck fn n v) s = .next t ∧ t.erq (dieOf n) = rest ∧
        t.fld (R.erqStat n) F.erqStatHeadSeq = (seq + 1) % 65536) ∧
    (getF v F.erqAckSeq = seq → cnt ≠ 0 → cnt < r.count → ∃ t, exec (.erqAck fn n v) s = .next t ∧
        t.erq (dieOf n) = { r with count := r.count - cnt, stamp := r.last } :: rest ∧
        t.fld (R.erqStat n) F.erqStatHeadSeq = seq ∧ t.flag (R.erqStat n) F.erqStatPartial = true) ∧
    ((getF v F.erqAckSeq ≠ seq ∨ cnt = 0 ∨ r.count < cnt) → exec (.erqAck fn n v) s = .next (dropHeld fn s)) ∧
    (∃ t, exec (.erqFatalClr fn n) s = .next t ∧ t.flag (R.erqStat n) F.erqStatFatal = false ∧ ∀ i < 4, t.rd (R.erqFatal n i) = 0)

/-! ### Line and pipelines -/

/-- A frame that no TX flow matches becomes a packet of the next pipeline; its tail makes it good or bad. -/
def Obligations.FramesArrive : Prop :=
  ∀ (s : State) (port pipe : Nat) (seg rest : Bytes) (fec : Fec),
    port < 96 → s.rxOn port = true →
    (s.rxFree port = true → s.curBad port = false → s.segMatches port seg = false → seg.length ≤ 384 →
      64 ≤ seg.length → (s.stream port).outstanding < 32768 → nextPipe s s.line.rr = some pipe →
          ∀ whole, (whole = true ∧ fec.uncorr = 0 ∨ whole = false ∧ seg.length = 384) →
          ∃ t k, exec (.headerSegmentArrive port seg whole false fec) s = .next t ∧ t.pkt s.q.nextPkt = some k ∧
            k.bytes = (if whole then seg.take (seg.length - 4) else seg) ∧ k.port = port ∧ k.place = .pipe ∧ k.pipe = pipe ∧
            k.stream = port ∧ k.seq = (s.stream port).next ∧ k.tailIn = whole ∧ k.bank = s.plate.live.getD 0 ∧
            (t.stream port).next = ((s.stream port).next + 1) % 65536 ∧ t.line.rr = (pipe + 1) % 16 ∧
            (whole = false → smapFind port t.line.rx =
              some { pkt := some s.q.nextPkt, len := 384, sched := none, bad := 0 < fec.uncorr, wait := false })) ∧
    (∀ id len p tail cur, smapFind port s.line.rx = some cur → cur.pkt = some id → cur.len = len → cur.sched = none →
      s.pkt id = some p → p.place = .pipe →
      let most := s.fld (R.linePortCfg port) F.linePortCfgMaxFrame
      let full := p.bytes ++ rest.take (most - len)
      let whole := { p with bytes := full.take (full.length - 4), tailIn := true }
      let good := len + rest.length ≤ most ∧ tail = .good ∧ cur.bad = false ∧ fec.uncorr = 0
      ∃ t, exec (.frameTailArrive port rest tail fec) s = .next t ∧ smapFind port t.line.rx = none ∧
        (good → t.pkt id = some { whole with bad := none }) ∧
        (¬ good → t.pkt id = some { whole with
          stomp := true, bad := some (if most < len + rest.length then .oversize else .fcs) }))

/-- Pause and PFC hold and release priorities, XOFF and XON are sent, links change, SyncE is squelched. -/
def Obligations.PausesAndLinks : Prop :=
  ∀ (s : State) (port prio len quanta : Nat) (qs : List Nat) (en : BitVec 8) (fec : Fec),
    port < 96 → prio < 8 → 0 < quanta → quanta < 65536 → 64 ≤ len → fec.uncorr = 0 →
    (∀ c, smapFind port s.line.rx = some c → c.wait = true → c.bad = false) →
    (s.rxOn port = true → (s.pauseMode port = 1 → ∃ t, exec (.pauseFrameReceive port len false quanta fec) s = .next t ∧
          t.fld (R.linePortStat port) F.linePortStatPaused = 255 ∧
          smapFind (8 * port + prio) t.line.holds = some (s.now + quantaTicks s port quanta)) ∧
      (s.pauseMode port = 2 → qs.all (· < 65536) = true → 0 < qs.getD prio 0 → en.getLsbD prio = true →
        nbit (s.fld (R.linePfcCfg port) F.linePfcCfgRxEn) prio = true →
        ∃ t, exec (.pfcFrameReceive port len false en qs fec) s = .next t ∧
          smapFind (8 * port + prio) t.line.holds = some (s.now + quantaTicks s port (qs.getD prio 0)) ∧
          nbit (t.fld (R.linePortStat port) F.linePortStatPaused) prio = true)) ∧
    (∀ at_, smapFind (8 * port + prio) s.line.holds = some at_ → at_ ≤ s.now →
      ∃ t, exec (.pauseExpire port) s = .next t ∧ smapFind (8 * port + prio) t.line.holds = none ∧
        nbit (t.fld (R.linePortStat port) F.linePortStatPaused) prio = false) ∧
    (let k := 8 * port + prio
      let sends := s.portOn port = true ∧ s.linkUp port = true ∧ s.outputHeld = false ∧ s.pauseMode port ≠ 0 ∧
        nbit (s.fld (R.linePfcCfg port) F.linePfcCfgTxEn) prio = true
      let full := s.fld (R.linePfcCfg port) F.linePfcCfgPfcQuanta
      (s.portExists port = true → 0 < s.fld (R.qPfc port) F.qPfcXoffBytes →
        s.fld (R.qPfc port) F.qPfcXoffBytes ≤ s.pfcHeldOf port prio → k ∉ s.q.pfcXoff →
        ∃ t, exec (.xoffSignal port prio) s = .next t ∧ k ∈ t.q.pfcXoff ∧
          smapFind k t.line.xoff = some (xoffRepeat s port) ∧ (sends → t.outs = .pauseFrame port prio full :: s.outs)) ∧
      (k ∈ s.q.pfcXoff → s.pfcHeldOf port prio ≤ s.fld (R.qPfc port) F.qPfcXonBytes →
        ∃ t, exec (.xonSignal port prio) s = .next t ∧ k ∉ t.q.pfcXoff ∧ smapFind k t.line.xoff = none ∧
          (sends → t.outs = .pauseFrame port prio 0 :: s.outs)) ∧
      (∀ at_, smapFind k s.line.xoff = some at_ → at_ ≤ s.now → ∃ t, exec (.pfcRefresh port prio) s = .next t ∧
          smapFind k t.line.xoff = some (xoffRepeat s port) ∧ (sends → t.outs = .pauseFrame port prio full :: s.outs))) ∧
    (s.portExists port = true →
      (∃ t, exec (.linkStateChange port false false false fec) s = .next t ∧ t.linkUp port = false ∧ t.macQueue port = []) ∧
      (s.portOn port = true → ∃ t, exec (.linkStateChange port true false false fec) s = .next t ∧ t.linkUp port = true)) ∧
    (∀ out bad, out < 2 →
      ∃ t, exec (.synceSquelch out bad) s = .next t ∧ t.flag (R.lineSynceCfg out) F.lineSynceCfgSquelched = bad ∧
        ∀ r, r ≠ R.lineSynceCfg out → t.rd r = s.rd r)

/-- Packets are parsed, staged, reordered or skipped, and sent by the line MAC. -/
def Obligations.PacketsMoveThroughThePipelines : Prop :=
  ∀ (s : State) (id n seq port : Nat) (p : Packet) (x : StageIn), s.pkt id = some p → x.reads = [] →
    (p.place = .pipe → s.pairAwake p.pipe = true → s.pwr.tripped = false → (p.stage = none →
        let g := (s.bank p.bank).graph
        let pr := parsePacket g p.bytes (startState g p) (p.tailIn && p.bytes.length + 4 ≤ 384)
          (s.fld R.parserTpid F.parserTpidTpid0) (s.fld R.parserTpid F.parserTpidTpid1)
        p.hasSegment = true → excAction g (prFlags pr) = 1 → p.pipe < 16 →
        ∃ t, exec (.packetParse id x) s = .next t ∧ t.pkt id = some { p with
            pr := pr, effEnd := parseEnd g p.bytes (startState g p) (p.tailIn && p.bytes.length + 4 ≤ 384), stage := some 0, scan := none } ∧
          t.rd (R.parserCtr p.pipe 0) = s.rd (R.parserCtr p.pipe 0) + 1) ∧
      (∀ k, p.stage = some k →
        ((s.prog p.bank p.pipe).stages[k]? = none → exec (.pipelineStage id x) s = .next (leavePipe id p s)) ∧
        (∀ st, (s.prog p.bank p.pipe).stages[k]? = some st →
          (st.readsPpm = false ∨ p.scan = none) → exec (.pipelineStage id x) s = .next (runStage x st id p s)))) ∧
    (n ≤ 96 → seq < 65536 → s.donePkt n seq = some id → p.stream = n → p.seq = seq → p.bad = none →
      (s.stream n).ahead seq = true →
        exec (.reorderArrival n seq) s = .next (release n (setPkt id { p with place := .reorder } s))) ∧
    (n ≤ 96 → (s.stream n).next ≠ (s.stream n).e → (s.stream n).since + nsT (s.fld R.reorderCfg F.reorderCfgReorderTimeoutNs) ≤ s.now →
      exec (.reorderTimeout n) s = .next (release n (advanceE n (report .f 0x05 n .k 0x001 [] (countSkip n s))))) ∧
    (port < 96 → s.pwr.tripped = false → s.linkUp port = true →
      (∀ rest, s.macQueue port = .routed id :: rest → s.heldAtMac port (.routed id) = false → p.tailIn = true → s.relGuard port = false →
        s.outputHeld = false → exec (.txFrame port) s = .next (sendRouted port p (erasePkt id (setMacQueue port rest s)))) ∧
      (∀ rest b flow at_, s.macQueue port = .sched b flow at_ :: rest → at_ ≤ s.now → s.outputHeld = false → s.anyHold port = false →
        exec (.txFrame port) s = .next (sendSched port b (min s.now (at_ + 40)) (setMacQueue port rest s))))

/-! ### Reset, errors and access -/

/-- The state after reset is sound: every register stands in the canonical form and no error record waits. -/
def Obligations.ResetIsSound : Prop := State.reset.Sound

/-- A step with a command at the front of the queue is that command on the state with the queue's rest. -/
def Obligations.StepRunsTheFrontCommand : Prop :=
  ∀ (s : State) (c : Instr) (rest : List Instr),
    step { s with pending := c :: rest } = exec c { s with pending := rest }

/-- With no command waiting a reference period passes (the model's choice, log entry 4): nothing happens before POR_N has
risen; after it the framer's count of periods is one higher, and no register changes. -/
def Obligations.IdleStepPassesAPeriod : Prop :=
  ∀ s : State, s.pending = [] →
    (s.bootStateOf = 0 → step s = .next s) ∧
    (s.bootStateOf ≠ 0 → ∃ t, step s = .next t ∧ t.fab.ref = s.fab.ref + 1 ∧ t.regs = s.regs ∧ t.outs = s.outs)

/-- After reset the seal lock and the update session have no holder, both plate banks and both calendar banks are EMPTY,
every key slot is EMPTY, every counter of the seal engine is 0, no partition is enabled, and DEV_ID holds the device's number.
Until PMAP_LOCK is set a configuration request that a function answers is answered with Configuration Request Retry Status.
The TAP's instruction after its reset is IDCODE, which captures 0x1096_00F3. -/
def Obligations.ResetRegisters : Prop :=
  State.reset.holder = 7 ∧ State.reset.updHolder = 7 ∧ State.reset.updState = Us.idle ∧
    (∀ b < 2, State.reset.bankState b = Pb.empty ∧ State.reset.calState b = Cb.empty) ∧
    (∀ n < 32, State.reset.keyState n = slotEmpty) ∧ (∀ i < 4, State.reset.rd (R.sealCount i) = 0) ∧
    (∀ p < 4, State.reset.enabled p = false) ∧ State.reset.rd R.devId = 0x0B9A9600#64 ∧
    (∀ (s : State) (fn : Fn), s.locked = false → s.configAnswer fn ≠ .success) ∧
    (∀ (s : State) (fn : Fn), s.locked = false → s.bootStateOf ≠ 0 → presented s.boot.straps.pcieMode fn = true →
      s.host.perst.getD fn.port false = false → s.configAnswer fn = .retry) ∧
    (∀ (t : TapSt) pins tdi tms, t.ctl = .captDr → t.instr = .idcode → (tapClock tms tdi pins t).dr = lsbFirst 32 0x109600F3) ∧
    tapReset.instr = .idcode

/-- One read of 64 bits answers a counter whole. The read of its low half answers bits [31:0] and latches bits [63:32];
the next read of its high half, in whatever state that finds the counter, answers the latch. -/
def Obligations.CounterHalvesAgree : Prop :=
  ∀ (s : State) (fn : Fn) (p off : Nat) (d : RegDesc) (ix : List Nat),
    fnOk fn = true → s.reached fn = true → off + 4 < 2 ^ 28 → off % 8 = 0 → regAt off = some (d, ix) →
    d.counter = true → permit s fn d ix false = .ok p → s.slotHidden p d.reg ix = false →
    let w := (s.view fn p off d.reg ix).toNat
    (∃ t, exec (.readClear fn off 8) s = .next t ∧ t.outs = .readReply fn off w :: s.outs) ∧
    ∃ t, exec (.counterLowRead fn off) s = .next t ∧ t.outs = .readReply fn off (w % 2 ^ 32) :: s.outs ∧
      ∀ v q, v.host.latch = t.host.latch → v.reached fn = true → permit v fn d ix false = .ok q →
        v.slotHidden q d.reg ix = false →
        ∃ u, exec (.counterLowRead fn (off + 4)) v = .next u ∧ u.outs = .readReply fn (off + 4) (w / 2 ^ 32) :: v.outs

/-- A stored write leaves RW fields as written, clears W1C fields where a 1 is written, and keeps every other bit; a
register whose fields have no further effect is left exactly so, and nothing else is changed. -/
def Obligations.StoredWordMergesByAccess : Prop :=
  ∀ (s : State) (fn : Fn) (p off : Nat) (d : RegDesc) (ix : List Nat) (v : Word),
    s.Stores fn p off d ix v →
    (d.reg ∉ [.linePortCfg, .plateCtl, .lineOctetCfg, .asaTableCfg, .bpmQuota, .qAdmitCfg, .schedCtl, .fabCtl, .fabLaneCfg,
        .fabGroupCfg, .fabReach, .pwrCtl, .pwrWakePort, .pwrWakePair, .pwrWakeGroup, .pwrWakeBurin, .pwrTbCfg, .twinCfg, .updCfg] →
      storeWrite d ix off v (dropHeld fn s) = (dropHeld fn s).wr off (d.merge (s.rd off) v) ∧
      (storeWrite d ix off v (dropHeld fn s)).rd off = d.merge (s.rd off) v) ∧
    (∀ f ∈ d.fields, ∀ i, f.lo ≤ i → i ≤ f.hi →
      (f.acc = .rw → (d.merge (s.rd off) v).getLsbD i = v.getLsbD i) ∧
      (f.acc = .w1c → (d.merge (s.rd off) v).getLsbD i = ((s.rd off).getLsbD i && !v.getLsbD i)) ∧
      (f.acc ≠ .rw → f.acc ≠ .w1c → (d.merge (s.rd off) v).getLsbD i = (s.rd off).getLsbD i)) ∧
    (∀ i, (∀ f ∈ d.fields, ¬ (f.lo ≤ i ∧ i ≤ f.hi)) → (d.merge (s.rd off) v).getLsbD i = (s.rd off).getLsbD i)

/-- A write that is rejected for any field is rejected as a whole: one that meets a field only the boot code writes, or a
value outside its register's table or rules, as DENIED; one that would change a class Q field of a unit that is not
quiesced, with QUIESCE_REQUIRED. Either is recorded, and no register changes but those of the error records and
interrupts. A write that leaves every class Q field at its present value is stored whole, quiesced or not. -/
def Obligations.RejectedWritesAreRejectedWhole : Prop :=
  ∀ (s : State) (fn : Fn) (p off : Nat) (d : RegDesc) (ix : List Nat) (v : Word),
    off < 2 ^ 28 → off % 8 = 0 → fnOk fn = true → s.reached fn = true → regAt off = some (d, ix) →
    isCmd d.reg = false →
    d.reg ∉ [.sealLock, .updPreempt, .erqAck, .erqFatalClr, .intStatus, .intRingStatus, .intEnable, .intRingEnable] →
    permit s fn d ix true = .ok p → s.noPort d.reg ix = false →
    ((d.locked = true ∨ d.inTable v = false ∨ writeOk s p d.reg ix v = false) →
      exec (.regWrite fn off 8 v) s = .next (denied fn off 1 (dropHeld fn s))) ∧
    (d.locked = false → d.inTable v = true → writeOk s p d.reg ix v = true → d.changesQ (s.rd off) v = true →
      s.quiet d.reg ix = false → exec (.regWrite fn off 8 v) s = .next (quiesceLog fn off 1 (dropHeld fn s))) ∧
    (d.locked = false → d.inTable v = true → writeOk s p d.reg ix v = true → d.changesQ (s.rd off) v = false →
      exec (.regWrite fn off 8 v) s = .next (storeWrite d ix off v (dropHeld fn s))) ∧
    (∀ r, r ≠ R.erqStat 0 → r ≠ R.erqDropped 0 → (∀ p < 4, r ≠ R.intStatus p) →
      (denied fn off 1 (dropHeld fn s)).rd r = s.rd r ∧ (quiesceLog fn off 1 (dropHeld fn s)).rd r = s.rd r)

/-- A write that the map denies is recorded, changes no register but those that show error records and interrupts, and
completes no command. -/
def Obligations.DeniedWriteChangesOnlyTheLog : Prop :=
  ∀ (s : State) (fn : Fn) (off : Nat) (d : RegDesc) (ix : List Nat) (v : Word),
    off < 2 ^ 28 → off % 8 = 0 → fnOk fn = true → s.reached fn = true → regAt off = some (d, ix) →
    permit s fn d ix true = .denied →
    exec (.regWrite fn off 8 v) s = .next (denied fn off 1 (dropHeld fn s)) ∧
      ∀ r, r ≠ R.erqStat 0 → r ≠ R.erqDropped 0 → (∀ p < 4, r ≠ R.intStatus p) → (denied fn off 1 (dropHeld fn s)).rd r = s.rd r

/-- An error joins the first record of its UNIT and CODE that waits, even in a full queue: COUNT rises by 1 (up to 65,535),
no record is added, and where it is not fatal nothing else changes and no interrupt is raised. Else it takes a new record at
the end of the queue while fewer than 64 wait; with 64 it is dropped and counted, and the 64 are kept. -/
def Obligations.ErrorsMergeOrQueue : Prop :=
  ∀ (s : State) (d : Die) (cls inst : Nat) (sev : Sev) (code : Nat) (items : List (Nat × Nat)),
    let unit := 1024 * cls + inst % 1024
    let cw := 16384 * sev.bits + code
    let t := report d cls inst sev code items s
    (∀ l r m, s.erq d = l ++ r :: m → (∀ x ∈ l, ¬(x.unit = unit ∧ x.code = cw)) → r.unit = unit → r.code = cw →
      let q := l ++ { r with count := min (r.count + 1) 65535, last := s.nowOf d } :: m
      t.erq d = q ∧ (sev ≠ .f → t = setErq d q s)) ∧
    ((∀ x ∈ s.erq d, ¬(x.unit = unit ∧ x.code = cw)) → ((s.erq d).length < 64 →
        t.erq d = s.erq d ++ [{ unit := unit, code := cw, count := 1, stamp := s.nowOf d, last := s.nowOf d, ctx := ctxBytes items }]) ∧
      (64 ≤ (s.erq d).length → t.erq d = s.erq d ∧ t.rd (R.erqDropped d.num) = s.rd (R.erqDropped d.num) + 1 ∧
          t.flag (R.erqStat d.num) F.erqStatErqOvf = true))

/-! ### What does not go through -/

/-- Commands that the spec turns away: each completes with its code, or does nothing, and none of its effect takes place. -/
def Obligations.CommandsThatAreTurnedAway : Prop :=
  ∀ (s : State) (fn : Fn) (p : Nat),
    (∀ b gen, s.MayWrite fn p 2 → s.right p Right.plate = true → s.Takes .plate → b < 2 → gen < 65536 → gen ≠ s.bankGen b →
      s.boot.restarting = false → s.backWaits = false →
      let t := fun (op : Nat) => complete .plate Code.staleBank 0 (s.taken fn .plate op p)
      exec (.plateLoad fn b gen) s = .next (t 1) ∧ exec (.plateSwap fn b gen) s = .next (t 2) ∧
        exec (.plateAbort fn b gen) s = .next (t 3)) ∧
    (s.MayWrite fn p 9 → s.right p Right.calendar = true → s.Takes .sched → s.upd.tload = none →
      let t := fun (op : Nat) => s.taken fn .sched op p
      (∀ b gen, b < 2 → gen < 65536 → gen ≠ s.calGen b → s.boot.restarting = false →
        exec (.schedLoad fn b gen) s = .next (complete .sched Code.staleBank 0 (t 1)) ∧
        exec (.schedSwap fn b gen) s = .next (complete .sched Code.staleBank 0 (t 2)) ∧
        exec (.schedAbort fn b gen) s = .next (complete .sched Code.staleBank 0 (t 3))) ∧
      (s.halted = false → exec (.schedRestart fn .agree) s = .next (complete .sched Code.notfound 0 (t 4)))) ∧
    (∀ table (mask : BitVec 16), s.Owns fn p → s.Takes (.tbl p) → table < 256 →
      let o := tblOpOf s p 5 table mask.toNat
      let t := s.taken fn (.tbl p) 5 p
      Passes (tblChecks t p o) →
      emFind (o.ems.headD 0) (t.emBuckets (o.ems.headD 0)) (emKey (o.ems.headD 0) o.data) (t.emTab (o.ems.headD 0)) = none →
      exec (.tblLookup fn table mask) s = .next (complete (.tbl p) Code.notfound 0 t)) ∧
    (∀ table ecc, s.Owns fn p → s.Takes (.asa p) → table < 16 →
      let x := s.fld (R.asaArg p) F.asaArgIndex
      let img := s.dataBytes (R.asaData p) 24
      let t := fun (op : Nat) => s.taken fn (.asa p) op p
      (Passes (asaChecks (t 4) p 4 table x img) → asaPlan s (s.asaTab table) x = none → exec (.asaInsertAt fn table ecc) s =
          .next (complete (.asa p) Code.nospace 0 ((t 4).setFld (R.asaStatus p) F.asaStatusMoves 0))) ∧
      (Passes (asaChecks (t 5) p 5 table x img) → asaWinner s (s.asaTab table) (asaValue (s.asaTab table) img) = none →
        exec (.asaSearchCmd fn table ecc) s = .next (complete (.asa p) Code.notfound 0 ((t 5).inc (R.asaTableCtr table 0))))) ∧
    (s.Owns fn p → s.Takes (.bpm p) → s.right p Right.bpm = true → s.upd.tload = none →
      let x := s.fld (R.bpmArg p) F.bpmArgIndex
      x < 4 → s.stackState x = 0 → (∃ i < 4, s.stackState i ≠ 0) →
      exec (.bpmRetire fn) s = .next (complete (.bpm p) Code.nospace 0 (s.taken fn (.bpm p) 3 p))) ∧
    (∀ obj, s.Owns fn p → s.Takes (.q p) → obj < 256 → s.upd.tload = none →
      let i := s.fld (R.qArg p) F.qArgIndex
      let b := slice 0 (objBytes obj) (s.dataBytes (R.qData p) 4)
      let t := fun (op : Nat) => s.taken fn (.q p) op p
      (Passes (qChecks (t 1) p 1 obj i) → qFields obj b ≠ qFields obj (s.objImg obj i) → (t 1).objQuiesced obj i = false →
        exec (.qWrite fn obj) s = .next (complete (.q p) Code.quiesceRequired 0 (quiesceLog fn (R.qCmd p) 2 (t 1)))) ∧
      (Passes (qChecks (t 4) p 4 1 i) → (s.que i).en = true →
        exec (.qFlush fn) s = .next (complete (.q p) Code.quiesceRequired 0 (t 4)))) ∧
    (s.Owns fn p → s.Takes (.burin p) →
      let t := s.taken fn (.burin p) 4 p
      Passes (burinChecks t p 4 (s.fld (R.burinArg p) F.burinArgSession)) →
      exec (.burinCtxRead fn .uncorr) s = .next (complete (.burin p) Code.eccUncorrectable 0 t)) ∧
    (s.MayWrite fn p 12 → s.right p Right.sealEng = true →
      let d := dropHeld fn s
      (s.holder ≠ 7 → exec (.sealAcquire fn) s = .next d) ∧
      (s.holder ≠ p → exec (.sealRelease fn) s = .next d) ∧
      (s.busy .sealE = true → exec (.sealRelease fn) s = .next d) ∧
      (p ≠ 0 → exec (.sealBreak fn) s = .next d)) ∧
    (∀ slot, s.MayWrite fn p 12 → s.holder = p → s.Takes .sealE → slot < 32 → s.slotOk p slot = true →
      let t := (s.taken fn .sealE 1 p).wr R.sealBytesOut 0
      (s.keyState slot ≠ slotEmpty → ∀ d ke, exec (.sealUnwrap fn slot d .ok ke) s = .next (sealFail fn Code.nospace t)) ∧
      (s.keyState slot = slotEmpty → ∀ ke, exec (.sealUnwrap fn slot .timeout .ok ke) s = .next (sealDmaFail p .timeout t))) ∧
    (s.MayWrite fn p 13 → p ≠ 0 → exec (.updPreempt fn) s = .next (denied fn R.updPreempt 1 (dropHeld fn s))) ∧
    (s.MayWrite fn p 13 → s.right p Right.update = true → s.Takes .upd → s.boot.restarting = false → s.switching = false →
      let t := fun (op : Nat) => { s.taken fn .upd op p with upd := { s.upd with lastCmd := s.now } }
      let man := (s.slot s.staging).manifest
      (s.updHolder = 7 → s.updState = Us.idle → s.fld R.updArg0 F.updArg0Addr % 64 = 0 →
        s.fld R.updArg1 F.updArg1Length ≤ 4352 → ∀ x,
        let b := slice 0 (s.fld R.updArg1 F.updArg1Length) x
        let u := updHold p (s.taken fn .upd 1 p)
        (∀ f, firstBad (openChecks s (s.fld R.updArg1 F.updArg1Length) b) = some f →
          exec (.updOpen fn (.data x)) s = .next (updDone f.1 f.2 u)) ∧
        (firstBad (openChecks s (s.fld R.updArg1 F.updArg1Length) b) = none → s.holder ≠ 7 →
          exec (.updOpen fn (.data x)) s = .next { u with upd := { s.upd with wait := some (s.now, .opening b) } })) ∧
      (s.updHolder = p → s.updState = Us.isOpen →
        (List.range 5).all (fun i => s.fld (R.updRcvd i) F.updRcvdReceived == entryLen (manEntry man i)) = true →
        (s.holder ≠ 7 → exec (.updVerify fn) s =
          .next (updTo Us.verifying { t 3 with upd := { s.upd with lastCmd := s.now, wait := some (s.now, .verify) } })) ∧
        (s.holder = 7 → ∀ f, firstBad (allImgChecks s) = some f →
          ∃ u, exec (.updVerify fn) s = .next u ∧ u.busy .upd = false ∧ u.updState = Us.isOpen ∧
            u.fld R.updStatus stCode = f.1 % 256)) ∧
      (s.updHolder = p → s.updState = Us.verified → manMode man ≠ 1 → s.holder = 7 →
        (s.bankState s.spareBank = Pb.empty ∨ s.bankState s.spareBank = Pb.invalid) →
        compatHas man (tupleOf s.upd.run.hashes) = false →
        exec (.updActivate fn .done) s = .next (updDone Code.incompatible 0x41 (t 4)))) ∧
    (s.Owns fn p → s.busy (.mbx p) = false → s.boot.stewardUp = true → s.boot.restarting = false →
      let t := s.taken fn (.mbx p) 0 p
      (smapFind (mbxData p s 0 % 2 ^ 32) (s.area s.readArea) = none →
        exec (.settingsGet fn) s = .next (complete (.mbx p) Code.notfound 0 t)) ∧
      (∀ d, mbxData p s 2 % 2 ^ 32 ≠ 0x4F565752 → exec (.calibWrite fn d) s = .next (failCmd (.mbx p) fn Code.denied t))) ∧
    (∀ addr sent fmt pec, addr < 128 → sent ≠ [] → (s.bootStateOf = 0 ∨ addr ≠ 0x5A) →
      exec (.smbusRead addr sent fmt pec) s = .next (s.emit .smbusNak))

/-- What arrives bad, late or where nothing takes it fails, is dropped or is discarded, and is counted and recorded. -/
def Obligations.BadArrivalsAreHandled : Prop :=
  (∀ (s : State) (b w : Nat) (x : Bytes), s.backWaits = false →
    (s.plate.loading = some b → s.bankState b = Pb.loading →
      exec (.plateLoadData .timeout true) s = .next (plateFail b (Code.timeout, 0x0F) s) ∧
      exec (.plateLoadData .poison true) s = .next (plateFail b (Code.eccUncorrectable, 0x0F) s) ∧
      exec (.plateLoadData (.data x) false) s =
        .next (plateFail b (Code.eccUncorrectable, 0x11) (s.inc R.plateEccUncorr))) ∧
    (s.plate.swapTo = some b → s.bankState b ≠ Pb.proof →
      exec .plateSwapPoint s = .next (complete .plate Code.eccUncorrectable 0x11
        { s with plate := { s.plate with swapTo := none } })) ∧
    (b < 2 → w < 1048576 → exec (.plateScrub b w .corr) s = .next (report .f 0x04 b .c 0x002 [] (s.inc R.plateEccCorr)) ∧
      ((s.bankState b = Pb.empty ∨ s.bankState b = Pb.invalid) →
        exec (.plateScrub b w .uncorr) s = .next (s.inc R.plateEccUncorr)) ∧
      (s.bankState b = Pb.live → w ∉ (s.bank b).badWords → exec (.plateScrub b w .uncorr) s =
          .next (setBank b { s.bank b with badWords := (s.bank b).badWords ++ [w] } (s.inc R.plateEccUncorr))))) ∧
  (∀ (s : State) (p : Nat) (b : Bytes), p < 4 → s.mayInt p = true → s.flag (R.tblRingCfg p) F.tblRingCfgRingEn = true →
    s.tbl.fenceR.getD p none = none → s.tbl.big.getD p false = false →
    (2 ^ 32 + s.fld (R.tblRingTail p) F.tblRingTailTail - s.tblHead p) % 2 ^ 32 = 1 →
    (ringEnd b 0 = true → groupCheck s p b 1 ≠ Code.ok →
      ∃ t, exec (.tblRingGroup p (.data b) 1) s = .next t ∧ t.tbl = s.tbl ∧ t.tblHead p = (s.tblHead p + 1) % 2 ^ 32) ∧
    exec (.tblRingGroup p .timeout 1) s = .next (setBig p false (ringComplete p 0 Code.timeout 1 s)) ∧
    exec (.tblRingGroup p .poison 1) s = .next (setBig p false (ringComplete p 0 Code.eccUncorrectable 1 s))) ∧
  (∀ (s : State) (pipe slot bank row : Nat), pipe < 16 → bank < 16 → row < 16384 →
    (s.flag R.tblScrubCfg F.tblScrubCfgScrubEn = true → slot < s.tblCarved 5 pipe →
      smapFind (scrubKey 5 pipe slot) s.tbl.scrubbed = none →
      let t := { s with tbl := { s.tbl with scrubbed := smapInsert (scrubKey 5 pipe slot) s.now s.tbl.scrubbed } }
      exec (.tblScrub 5 pipe slot .corr) s = .next (report .f 0x07 pipe .c 0x001 [] (t.inc (R.tblDevCtr 0)))) ∧
    (s.flag R.asaScrubCfg F.asaScrubCfgScrubEn = true → s.asaScrubDue bank row = true →
      exec (.asaScrubVisit bank row .shadowCorr) s =
        .next (report .f 0x08 (s.asaRowOf bank row).1 .c 0x002 [] ((asaVisited bank row s).inc (R.asaDevCtr 1))) ∧
      (s.asaPlace bank row ∈ s.asa.lost → exec (.asaScrubVisit bank row .shadowUncorr) s = .next (asaVisited bank row s)) ∧
      (s.asaPlace bank row ∉ s.asa.lost → ∃ t, exec (.asaScrubVisit bank row .shadowUncorr) s = .next t ∧
        t.rd (R.asaDevCtr 2) = s.rd (R.asaDevCtr 2) + 1 ∧ s.asaPlace bank row ∈ t.asa.lost ∧
        (∀ u, s.asaTableOf bank = some u →
          let a := s.asaTab u
          let x := a.index (16384 * bank + row)
          s.asaRowOf bank row = (u, x) ∧ t.asaGet a x = asaClear a (s.asaGet a x)) ∧
        (s.asaTableOf bank = none → t.asa.rows = s.asa.rows)))) ∧
  (∀ (s : State) (r pool head count i : Nat) (w : Word), r < 23 → pool < 2 → head < poolSize pool → i < 4194304 →
    (s.page pool head = none → exec (.pageFree r pool head count) s =
      .next (report .t 0x10 r .k 0x001 [(head, 4), (r, 1)] (s.inc (R.bpmReqCtr r 3)))) ∧
    (s.page pool head = some (.used w) → recOwner w ≠ r → exec (.pageFree r pool head count) s =
      .next (report .t 0x10 r .k 0x002 [(head, 4), (r, 1), (recOwner w, 1)] (s.inc (R.bpmReqCtr r 4)))) ∧
    (s.quotaAllows r 1 = false → exec (.pageRequest r 1 none) s = .next (s.inc (R.bpmReqCtr r 2))) ∧
    exec (.bpmMemoryError (.count i) .corr) s = .next (report .t 0x10 0x106 .c 0x006 [] (s.inc (R.bpmDevCtr 4)))) ∧
  (∀ (s : State) (r id port : Nat) (l : List Nat) (k : Packet) (m : GrantMsg) (ms : List GrantMsg),
    (r < 16 → smapGet (fun _ => []) r s.q.arrivals = id :: l → s.pkt id = some k → k.place = .bridge →
      s.crossed 0 id = true → mdF k.md Md.target = 3 →
      exec (.queueArrival r) s = .next (forgetPkt id
        ((offBridge 0 id { s with q := { s.q with arrivals := smapPut (fun _ => []) r l s.q.arrivals } }).inc (R.qDevCtr 1)))) ∧
    (∀ b, port < 96 → s.egressWaiting port = some (id, k) → s.plate.live = some b → s.role (s.egressPipe port) ≠ 2 →
      exec (.egressEntry port) s = .next (erasePkt id (countDrop k.queue (takeFlits 1 id (s.inc (R.qDevCtr 19)))))) ∧
    (s.q.grantIn = m :: ms → ((s.que m.voq).en = false ∨ qDestDev (s.que m.voq).img ≠ m.issuer) →
      exec .grantReceive s = .next (({ s with q := { s.q with grantIn := ms } } : State).inc (R.qDevCtr 18))) ∧
    (∀ i < 1048576, ∀ j < 3, ∃ t, exec (.qEccUncorr (.count i j) .uncorr) s = .next t ∧
      (t.que i).fwd = (if j = 0 then 0 else (s.que i).fwd) ∧ (t.que i).drop = (if j = 1 then 0 else (s.que i).drop) ∧
      (t.que i).mcDrop = (if j = 2 then 0 else (s.que i).mcDrop) ∧ (t.que i).ents = (s.que i).ents ∧
      t.rd (R.qDevCtr 23) = s.rd (R.qDevCtr 23) + 1)) ∧
  (∀ (s : State) (b m : Nat) (x : Bytes), b < 2 →
    (s.cal.loading = some b → s.calState b = Cb.loading →
      exec (.schedLoadData .timeout true) s = .next (calFail b (Code.timeout, 0x0F) s) ∧
      exec (.schedLoadData .poison true) s = .next (calFail b (Code.eccUncorrectable, 0x0F) s) ∧
      exec (.schedLoadData (.data x) false) s = .next (calFail b (Code.eccUncorrectable, 0x11) s)) ∧
    (s.cal.loading = some b → (s.calState b = Cb.loading ∨ s.calState b = Cb.verifying) →
      exec (.schedBankEccError b) s = .next (calFail b (Code.eccUncorrectable, 0x11) s)) ∧
    (s.cal.swapReq = some (b, m) → s.calState b = Cb.standby → exec (.schedBankEccError b) s =
      .next (complete .sched Code.eccUncorrectable 0x11 (calTo b Cb.invalid { s with cal := { s.cal with swapReq := none } }))) ∧
    (s.calState b = Cb.armed → s.cal.armed.find? (fun a => a.1 == b) = some (b, m) →
      exec (.schedBankEccError b) s = .next (disarmedEvent b m (calTo b Cb.invalid s)))) ∧
  (∀ (s : State) (port t b mf f k : Nat) (g : TxFrame) (first body : Bytes) (fec : Fec), port < 96 →
    (16 ≤ first.length → t < mfTicks → s.rxOn port = true → smapFind port s.line.rx = none →
      s.flowOf port first t = some (b, mf, f) →
      let u := countFec port fec s
      (first.length < 64 →
        exec (.flowMatch port first t fec .agree) s = .next ((countRx port first.length fec s).inc (lineCtr port 3))) ∧
      (first.length = 64 → s.halted = true →
        exec (.flowMatch port first t fec .agree) s = .next (discardRx port 64 (u.inc (R.schedCtr 8)))) ∧
      (first.length = 64 → s.halted = false → windowAt (s.calImg b) f t = none → exec (.flowMatch port first t fec .agree) s =
          .next (nonConforming port 64 (0 < fec.uncorr) (flowEnt (s.calImg b) f) f u))) ∧
    (s.schedCur port = some (k, g) →
      let max := s.maxLenOf k g.flow
      (max < g.len + body.length → ∀ tail, ∃ u, exec (.schedFrameTail port body tail fec) s = .next u ∧
        smapFind port u.line.rx = none ∧
        u.txFrameOf k = some { g with len := g.len + (max - g.len), whole := true, stomp := true }) ∧
      (g.len + body.length ≤ max → ∃ u, exec (.schedFrameTail port body .cut fec) s = .next u ∧
        (0 < g.sent → u.txFrameOf k = some { g with len := g.len + body.length, whole := true, stomp := true }) ∧
        (g.sent = 0 → u.txFrameOf k = some { g with len := 0, whole := true })))) ∧
  (∀ (s : State) (x : RxCell) (l : List RxCell) (b r mf : Nat),
    (s.cal.cells = x :: l →
      let u := { s with cal := { s.cal with cells := l } }
      (s.halted = true → exec (.schedCellReceive .ok .agree) s = .next u) ∧
      (s.halted = false → s.rxSlot x = none → exec (.schedCellReceive .ok .agree) s = .next (u.inc (R.schedCtr 4)))) ∧
    (b < 2 → r < 16384 → s.relDue b r = some mf → s.halted = false →
      let buf := s.rxBuf (relPage (s.calImg b) (relEnt (s.calImg b) r))
      (buf.cells = [] → exec (.schedRelease b r .agree) s = .next (relOver b r mf 0 none (s.inc (R.schedCtr 5)))) ∧
      (buf.cells ≠ [] → buf.complete = false →
        exec (.schedRelease b r .agree) s = .next (relOver b r mf 0 none (s.inc (R.schedCtr 6)))) ∧
      (buf.cells ≠ [] → buf.complete = true → buf.stomp = true →
        exec (.schedRelease b r .agree) s = .next (relOver b r mf 0 none (s.inc (R.schedCtr 7)))))) ∧
  (∀ (s : State) (l pos : Nat) (c w : Bytes) (m : Word) (u : State), l < 120 →
    let k := s.linkGroup (s.laneGroup l)
    (pos < 10240 → c.length = 256 → s.inSync l = true → s.twinLane l = false →
      ((k.cells.head? = some (l, pos, c) ∧ u = setGroup (s.laneGroup l) { k with cells := k.cells.tail } s) ∨
        (k.cells.head? ≠ some (l, pos, c) ∧ s.groupReads (s.laneGroup l) = false ∧ u = s)) →
      (hecOk c = false → exec (.fabCellReceive l pos c) s = .next (fabInc (R.fabLaneCtr l 4) u)) ∧
      (hecOk c = true → cellType c = 1 → cellDest c ≠ s.devIndex →
        exec (.fabCellReceive l pos c) s = .next (fabInc (R.fabDevCtr 1) u))) ∧
    (s.inSync l = true → s.twinLane l = false → s.laneFlag l F.fabLaneStatAis = false → s.laneFlag l F.fabLaneStatTim = false →
      (((l, m) ∈ k.inMsgs ∧ u = setGroup (s.laneGroup l) { k with inMsgs := k.inMsgs.erase (l, m) } s) ∨
        ((l, m) ∉ k.inMsgs ∧ s.groupReads (s.laneGroup l) = false ∧ u = s)) →
      crc8 (toBe 7 (m.toNat / 256)) ≠ m.toNat % 256 →
      exec (.fabMsgReceive l m) s = .next (fabInc (R.fabLaneCtr l 6) u)) ∧
    (w.length = 10496 → pos < 83968 → s.laneOn l = true → s.laneFlag l F.fabLaneStatLos = false →
      (s.laneStat l F.fabLaneStatAlign = 0 → fawErrors w ≠ 0 → exec (.fabFrameReceive l pos w) s = .next s) ∧
      (s.laneStat l F.fabLaneStatAlign = 1 → (s.lane l).pos = pos →
        (fawErrors w ≠ 0 ∨ byteAt 8 (scrFrame (w.take 9)) ≠ ((s.lane l).fn + 1) % 256) →
        exec (.fabFrameReceive l pos w) s = .next (toHunt l s))) ∧
    (c.length = 256 → s.twinLane l = true → s.inSync l = true → hecOk c = false →
      exec (.twinRecordReceive l c) s = .next (fabInc (R.fabLaneCtr l 4) s))) ∧
  (∀ (s : State) (g sess n : Nat) (ev : BurinEv) (rest : List BurinEv), g < 64 → sess < 16384 → n < 2 →
    (s.burinOn = true → smapFind g s.burin.run = none → s.sessRuns sess = false →
      takeSession sess s.burin.queue = some (ev, rest) → s.opHeld ev.op = false →
      let u := { s with burin := { s.burin with queue := rest } }
      (ctxFaulted (s.ctxOf sess) = true → exec (.burinEventStart g sess .ok) s = .next (u.inc (R.burinCtr 7))) ∧
      (ctxFaulted (s.ctxOf sess) = false → dispKey ev.op ∉ s.burin.bad → nbit (s.dispWord ev.op) 31 = false →
        exec (.burinEventStart g sess .ok) s = .next (u.inc (R.burinCtr 4)))) ∧
    (let c := s.ctxOf sess;
      ctxService c ≠ 0 → ctxDue c n ≠ 0 → ctxDue c n ≤ s.timeUs → s.opHeld (ctxTimerOp c n) = false →
      (∀ d ∈ s.burin.deletes, d.2 ≠ sess) → s.burinRoom sess = false → 2 * sess + n ∉ s.burin.late →
      ∃ t, exec (.burinTimerExpire sess n) s = .next t ∧ t.burin.queue = s.burin.queue ∧
        t.rd (R.burinCtr 3) = s.rd (R.burinCtr 3) + 1) ∧
    (∀ b, s.pwr.tripped = false → s.burin.vload = some b → s.burin.load = none → s.burin.verify = none → s.upd.mcNext = none →
      (∀ r ∈ s.burin.run, 0xC0 ≤ r.2.op) →
      exec .burinRegionSwitch s = .next (writeVendor b s))) ∧
  (∀ (s : State) (t : Nat), s.upd.readyWait = some t → t + msT 500 < s.now →
    exec .stewardReady s = .next (backStart (.undo 1 Code.timeout) { s with upd := { s.upd with readyWait := none } })) ∧
  (∀ s : State, s.boot.failed = false →
    (s.stage = 3 → s.ownerOf = none → exec .bootSetSelect s = .next (uartText (bootFail Config.noOwner s))) ∧
    (∀ f, s.upd.bcr.trial = false →
      (s.stage = 6 → slotFail s 7 s.upd.run.slot = some f → exec .bootImageLoad s = .next (uartText (bootFail f s))) ∧
      (s.stage = 9 → slotFail s 10 s.upd.run.slot = some f → exec .bootPlateLoad s = .next (uartText (bootFail f s))))) ∧
  (∀ (s : State) (dir chan seq : Nat) (flit : Bytes), dir < 2 → chan < 48 → flit.length = 64 →
    let b := s.bridge dir
    b.stopped = false → chan ∉ b.retired →
    (seq < b.next → smapFind seq b.sent = none →
      exec (.bridgeFlitReceive dir chan seq true flit) s = .next (s.emit (.bridgeAck dir seq))) ∧
    (b.mayCarry chan seq = true → smapFind seq b.replays = none →
      ∃ t, exec (.bridgeFlitReceive dir chan seq false flit) s = .next t ∧
        t.outs.head? = some (.bridgeNak dir chan seq) ∧ (t.bridge dir).got = b.got)) ∧
  (∀ (s : State) (d mv : Nat), d < 2 → mv < 65536 → s.pwr.rails.length = 2 → (s.rail d).readAt ≤ s.now → (∀ x ∈ (s.rail d).due, x ≤ s.now) →
    (s.rail d).open_ = true → 3 ≤ (s.rail d).tries →
    let set := s.fld (R.pwrRailStat d) F.pwrRailStatVsetMv
    (set + 10 < mv ∨ mv + 10 < set) →
    ∃ t, exec (.avsReadback d mv) s = .next t ∧ t.flag (R.pwrRailStat d) F.pwrRailStatAvsFault = true ∧
      (t.rail d).open_ = false) ∧
  (∀ (s : State) (port len quanta : Nat) (seg : Bytes) (fec : Fec), port < 96 → s.rxOn port = true →
    (s.rxFree port = true → s.curBad port = false → s.segMatches port seg = false → seg.length ≤ 384 →
      let c := countRx port seg.length fec (clearCur port s)
      (seg.length < 64 → exec (.headerSegmentArrive port seg true false fec) s = .next (c.inc (R.lineCtr port 3))) ∧
      (64 ≤ seg.length → (∀ bad, (bad = true ∨ 0 < fec.uncorr) →
          exec (.headerSegmentArrive port seg true bad fec) s = .next (c.inc (R.lineCtr port 2))) ∧
        (fec.uncorr = 0 → 32768 ≤ (s.stream port).outstanding →
          exec (.headerSegmentArrive port seg true false fec) s = .next (c.inc (R.lineCtr port 6))) ∧
        (fec.uncorr = 0 → (s.stream port).outstanding < 32768 → nextPipe s s.line.rr = none →
          exec (.headerSegmentArrive port seg true false fec) s = .next (c.inc (R.lineCtr port 5))))) ∧
    (s.pauseMode port ≠ 1 → quanta < 65536 → 64 ≤ len → fec.uncorr = 0 →
      exec (.pauseFrameReceive port len false quanta fec) s = .next ((countRx port len fec s).inc (R.lineCtr port 8)))) ∧
  (∀ (s : State) (id n seq port : Nat) (p : Packet) (rest : List MacItem), s.pkt id = some p →
    (n ≤ 96 → seq < 65536 → s.donePkt n seq = some id →
      ((s.stream n).ahead seq = false → exec (.reorderArrival n seq) s = .next (countLate n (erasePkt id s))) ∧
      (∀ why, (s.stream n).ahead seq = true → p.bad = some why →
        exec (.reorderArrival n seq) s = .next (holeArrives n seq (countBad p.port why (erasePkt id s))))) ∧
    (port < 96 → s.pwr.tripped = false → s.linkUp port = true → s.macQueue port = .routed id :: rest →
      s.heldAtMac port (.routed id) = false → p.tailIn = true → s.relGuard port = false → s.outputHeld = true →
      exec (.txFrame port) s = .next (heldFrame (erasePkt id (setMacQueue port rest s)))))

/-- An event that is not due, or whose condition does not hold, does nothing: the model's choice (log entry 2). -/
def Obligations.EventsThatAreNotDue : Prop :=
  ∀ s : State,
    (∀ b, s.draining = some b → s.backWaits = false → (s.tagged b ≠ [] → exec .plateDrainEnd s = .next s) ∧
      (s.now < s.plate.swapAt + 400000 → exec .plateDrainOverrun s = .next s)) ∧
    (∀ q < voqCount, s.headAged (s.que q) = false →
      exec (.voqAgeDiscard q) s = .next s ∧ ((s.que q).cb ≤ 0 → exec (.voqPacketStart q) s = .next s)) ∧
    (∀ p f, p < 4 → s.q.flushes.getD p none = some f → s.now < f.at_ + 1000000000 → exec (.flushTimeout p) s = .next s) ∧
    (∀ st n, st < 4 → s.bpm.unc.length = 4 →
      (if s.bpm.uncSec = s.now / ticksPerSec then s.bpm.unc.getD st 0 else 0) + n < s.fld R.bpmCfg F.bpmCfgFailThresh →
      exec (.bpmStackFailed st false n) s = .next (countUnc st n s)) ∧
    (∀ b m, s.cal.swapReq = some (b, m) → s.bankSlack b < s.slackRaise → exec .schedArm s = .next s) ∧
    (∀ b r v, b < 2 → r < 16384 → voteOk v = true → s.relDue b r = none → exec (.schedRelease b r v) s = .next s) ∧
    (∀ port seg whole bad fec, port < 96 → seg.length ≤ 384 → (whole = true ∨ seg.length = 384) →
      s.segMatches port seg = true → exec (.headerSegmentArrive port seg whole bad fec) s = .next s) ∧
    (∀ port k g body fec, port < 96 → s.schedCur port = some (k, g) → g.len + body.length ≤ s.maxLenOf k g.flow →
      exec (.schedOverlen port body fec) s = .next (markCur port fec (countFec port fec s))) ∧
    (∀ l pos x ecc v, l < 120 → pos < 10240 → voteOk v = true → s.calTime < pickTime pos →
      exec (.cellSlotPick l pos x ecc v) s = .next s) ∧
    (∀ v, voteOk v = true → (s.framerRun = false ∨ s.fab.ref < 16384 + s.fab.mfRef) → exec (.multiframeBoundary v) s = .next s) ∧
    (∀ t, s.fab.startAt = some t → s.now < t → exec .framerRun s = .next s) ∧
    (∀ g < 24, s.fab.ref < (s.linkGroup g).readAt → exec (.groupFrameRead g) s = .next s) ∧
    (∀ src g tc x, src < 4096 → g < 32 → tc < 8 → smapFind (reasmKey src g tc) s.fab.ctx = some x →
      s.now < x.at_ + usT (s.fld R.fabRxCfg F.fabRxCfgReasmTimeoutUs) → exec (.reasmTimeout src g tc) s = .next s) ∧
    (∀ d end_, d < 4096 → smapFind d s.fab.hold = some end_ → s.now < end_ → exec (.repinGuardExpire d) s = .next s) ∧
    (s.now / ticksPerSec ≤ s.fab.second → exec .fabPmLatch s = .next s) ∧
    (∀ l < 120, s.curFrame < (s.lane l).txNext → exec (.fabFrameTransmit l) s = .next s) ∧
    (s.burin.vload = none → s.burin.verify = none → s.upd.mcNext = none → (∃ r ∈ s.burin.run, 0xC0 ≤ r.2.op) → exec .burinRegionSwitch s = .next s) ∧
    (∀ sess n, sess < 16384 → n < 2 → s.timeUs < ctxDue (s.ctxOf sess) n → exec (.burinTimerExpire sess n) s = .next s) ∧
    (∀ d mv, d < 2 → mv < 65536 → s.readDue d = false → exec (.avsReadback d mv) s = .next s) ∧
    (s.now < s.pwr.readAt + msT 20 → exec .thermalStale s = .next s) ∧
    (∀ a b, s.now < s.pwr.nextMf → exec (.ptpMfBoundary a b) s = .next s) ∧
    (∀ d ns, domainOk d = true → ns < 2 ^ 32 →
      (s.sleepState d ≤ s.fld (domainReg d) wakeState → exec (.domainSleep d) s = .next s) ∧
      (s.wakeWanted d = false → exec (.domainWake d ns) s = .next s)) ∧
    (s.flag R.pwrTbCfg F.pwrTbCfgPpsOutEn = false → exec .ppsOut s = .next s) ∧
    (s.flag R.pwrTbCfg F.pwrTbCfgPpsInEn = false → exec .ppsInEdge s = .next s ∧ exec .ppsLoss s = .next s) ∧
    (∀ t, s.twin.statAt = some t → s.now < 32768 + t → exec .twinLinkDown s = .next s) ∧
    (∀ t, s.twin.waitTo = some t → s.now < t → exec .twinHealthWaitExpire s = .next s) ∧
    (∀ t, s.upd.wait = some (t, .verify) → s.now < 60 * ticksPerSec + t → exec .updSealWaitTimeout s = .next s) ∧
    (s.now < 600 * ticksPerSec + s.upd.lastCmd → exec .updSessionLapsed s = .next s) ∧
    (∀ t, s.upd.confirmAt = some t →
      (s.fld R.updCfg F.updCfgConfirmS = 0 ∨ s.now < t + s.fld R.updCfg F.updCfgConfirmS * ticksPerSec) →
      exec .confirmTimerExpire s = .next s) ∧
    (s.readyConds = false → exec .ready s = .next s) ∧
    (s.boot.failed = true → ∀ c ∈ ([.bootCalibCheck, .bridgeWireTest [], .bootSetSelect, .bootManifestCheck, .pmapLock,
      .bootImageLoad, .hbmTrainingDone 0 true, .serdesCalibrationDone, .bootPlateLoad, .bootTraceCheck [], .ready] : List Instr),
      exec c s = .next s) ∧
    (s.boot.failed = false → exec .bootFailed s = .next s) ∧
    (∀ cut, cut.all cutOk = true → s.boot.stewardUp = false → exec (.stewardFault cut) s = .next s) ∧
    (s.now < s.boot.faultAt + msT 5 → exec .stewardRestart s = .next s) ∧
    (∀ dir chan seq ok flit, dir < 2 → chan < 48 → flit.length = 64 → chan ∈ (s.bridge dir).retired →
      exec (.bridgeFlitReceive dir chan seq ok flit) s = .next s) ∧
    (∀ p r d f, p < 4 → r < 64 → s.ringHead p r = s.ringTail p r → exec (.pioTxDescriptor p r d f) s = .next s) ∧
    (∀ p r n t, p < 4 → r < 64 → smapFind (64 * p + r) s.host.coal = some (n, t) → s.now < t →
      exec (.rxCoalExpire p r) s = .next s) ∧
    (∀ port prio, port < 96 → prio < 8 →
      (s.pfcHeldOf port prio < s.fld (R.qPfc port) F.qPfcXoffBytes → exec (.xoffSignal port prio) s = .next s) ∧
      (∀ t, smapFind (8 * port + prio) s.line.xoff = some t → s.now < t → exec (.pfcRefresh port prio) s = .next s)) ∧
    (∀ id p x, s.pkt id = some p →
      (p.place ≠ .pipe → exec (.packetParse id x) s = .next s ∧ exec (.pipelineStage id x) s = .next s) ∧
      (∀ k st, p.stage = some k → (s.prog p.bank p.pipe).stages[k]? = some st → st.readsPpm = true → p.scan ≠ none →
        exec (.pipelineStage id x) s = .next s)) ∧
    (∀ n ≤ 96, s.now < (s.stream n).since + nsT (s.fld R.reorderCfg F.reorderCfgReorderTimeoutNs) →
      exec (.reorderTimeout n) s = .next s) ∧
    (∀ port b flow t, port < 96 → s.macQueue port = [.sched b flow t] → s.now < t → exec (.txFrame port) s = .next s)
end

