-- ==== Sys2Proof/Laws/Field.lean ====
section
/-! SUPPORT. Fields of a register word: what is stored is read back, and the other fields stand. -/

namespace Sys2Proof.Machine

/-- A field that lies in a register. -/
abbrev FldOk (f : Fld) : Prop := f.2 ≤ f.1 ∧ f.1 < 64

theorem lowMask_bit {n i : Nat} (hi : i < 64) : (lowMask n).getLsbD i = decide (i < n) := by
  unfold lowMask
  rw [BitVec.getLsbD_ofNat, Nat.testBit_two_pow_sub_one]
  simp [hi]

theorem getF_eq (w : Word) (f : Fld) : getF w f = w.toNat / 2 ^ f.2 % 2 ^ fldWidth f := by
  have hm : (lowMask (fldWidth f)).toNat = (2 ^ fldWidth f - 1) % 2 ^ 64 := by simp [lowMask]
  unfold getF
  rw [BitVec.toNat_and, hm, BitVec.toNat_ushiftRight, Nat.shiftRight_eq_div_pow]
  have hlt : w.toNat / 2 ^ f.2 < 2 ^ 64 := lt_of_le_of_lt (Nat.div_le_self _ _) w.isLt
  apply Nat.eq_of_testBit_eq
  intro i
  rw [Nat.testBit_and, Nat.testBit_mod_two_pow, Nat.testBit_mod_two_pow, Nat.testBit_two_pow_sub_one]
  by_cases h : i < 64
  · simp [h, Bool.and_comm]
  · have : (w.toNat / 2 ^ f.2).testBit i = false :=
      Nat.testBit_lt_two_pow (lt_of_lt_of_le hlt (Nat.pow_le_pow_right (by decide) (by omega)))
    simp [this]

theorem getF_lt (w : Word) (f : Fld) : getF w f < 2 ^ fldWidth f := by
  rw [getF_eq]; exact Nat.mod_lt _ (Nat.two_pow_pos _)

theorem getF_bit (w : Word) (f : Fld) (i : Nat) :
    (getF w f).testBit i = (decide (i < fldWidth f) && w.getLsbD (f.2 + i)) := by
  rw [getF_eq, Nat.testBit_mod_two_pow, Nat.testBit_div_two_pow, Nat.add_comm i f.2]
  rfl

theorem setF_bit (w : Word) (f : Fld) (v i : Nat) (hf : FldOk f) (hi : i < 64) :
    (setF w f v).getLsbD i = if f.2 ≤ i ∧ i ≤ f.1 then v.testBit (i - f.2) else w.getLsbD i := by
  obtain ⟨h1, h2⟩ := hf
  unfold setF
  simp only [BitVec.getLsbD_or, BitVec.getLsbD_and, BitVec.getLsbD_not, BitVec.getLsbD_shiftLeft, hi, decide_true,
    Bool.true_and]
  by_cases h : i < f.2
  · have : ¬(f.2 ≤ i ∧ i ≤ f.1) := by omega
    simp [h, this]
  · have hlt : i - f.2 < 64 := by omega
    rw [lowMask_bit hlt, BitVec.getLsbD_ofNat]
    by_cases h3 : i ≤ f.1
    · have : i - f.2 < fldWidth f := by unfold fldWidth; omega
      have h4 : f.2 ≤ i ∧ i ≤ f.1 := ⟨by omega, h3⟩
      simp [h, this, h4, hlt]
    · have : ¬(i - f.2 < fldWidth f) := by unfold fldWidth; omega
      have h4 : ¬(f.2 ≤ i ∧ i ≤ f.1) := by omega
      simp [this, h4]

/-- A field reads as it was stored. -/
theorem getF_setF (w : Word) (f : Fld) (v : Nat) (hf : FldOk f) : getF (setF w f v) f = v % 2 ^ fldWidth f := by
  apply Nat.eq_of_testBit_eq
  intro i
  rw [getF_bit, Nat.testBit_mod_two_pow]
  by_cases h : i < fldWidth f
  · have hh := hf
    obtain ⟨h1, h2⟩ := hh
    have : f.2 + i ≤ f.1 := by unfold fldWidth at h; omega
    rw [setF_bit _ _ _ _ hf (by omega)]
    have h4 : f.2 ≤ f.2 + i ∧ f.2 + i ≤ f.1 := ⟨by omega, this⟩
    simp [h, h4]
  · simp [h]

/-- A field stands when another one is stored. -/
theorem getF_setF_ne (w : Word) (f g : Fld) (v : Nat) (hf : FldOk f) (hg : FldOk g) (h : f.1 < g.2 ∨ g.1 < f.2) :
    getF (setF w f v) g = getF w g := by
  apply Nat.eq_of_testBit_eq
  intro i
  rw [getF_bit, getF_bit]
  by_cases hi : i < fldWidth g
  · obtain ⟨g1, g2⟩ := hg
    have : g.2 + i ≤ g.1 := by unfold fldWidth at hi; omega
    rw [setF_bit _ _ _ _ hf (by omega)]
    have h4 : ¬(f.2 ≤ g.2 + i ∧ g.2 + i ≤ f.1) := by omega
    simp [hi, h4]
  · simp [hi]

theorem getF_zero (f : Fld) : getF 0 f = 0 := by rw [getF_eq]; simp

end Sys2Proof.Machine
end

