-- ==== Sys2Proof/Laws/Map.lean ====
section
/-! SUPPORT. The sparse maps: what a read gives after a write, and that every operation keeps the canonical form. -/

namespace Sys2Proof.Machine

variable {α : Type}

/-- Keys strictly rising. -/
def Rising (m : SMap α) : Prop := m.Pairwise (fun a b => a.1 < b.1)

theorem mem_smapErase {k : Nat} {m : SMap α} {e : Nat × α} (h : e ∈ smapErase k m) : e ∈ m := by
  induction m with
  | nil => simp [smapErase] at h
  | cons a m ih =>
    simp only [smapErase] at h
    split at h
    · exact List.mem_cons_of_mem _ (ih h)
    · rcases List.mem_cons.1 h with h | h
      · exact h ▸ List.mem_cons_self
      · exact List.mem_cons_of_mem _ (ih h)

theorem mem_smapInsert {k : Nat} {v : α} {m : SMap α} {e : Nat × α} (h : e ∈ smapInsert k v m) : e = (k, v) ∨ e ∈ m := by
  induction m with
  | nil => simpa [smapInsert] using h
  | cons a m ih =>
    simp only [smapInsert] at h
    split at h
    · simpa using h
    · split at h
      · rcases List.mem_cons.1 h with h | h
        · exact .inl h
        · exact .inr (List.mem_cons_of_mem _ h)
      · rcases List.mem_cons.1 h with h | h
        · exact .inr (h ▸ List.mem_cons_self)
        · exact (ih h).imp_right (List.mem_cons_of_mem _)

theorem rising_erase {k : Nat} {m : SMap α} (h : Rising m) : Rising (smapErase k m) := by
  induction m with
  | nil => simp [smapErase, Rising]
  | cons a m ih =>
    have ⟨h1, h2⟩ := List.pairwise_cons.1 h
    simp only [smapErase]
    split
    · exact ih h2
    · exact List.pairwise_cons.2 ⟨fun e he => h1 e (mem_smapErase he), ih h2⟩

theorem rising_insert {k : Nat} {v : α} {m : SMap α} (h : Rising m) : Rising (smapInsert k v m) := by
  induction m with
  | nil => simp [smapInsert, Rising]
  | cons a m ih =>
    have ⟨h1, h2⟩ := List.pairwise_cons.1 h
    simp only [smapInsert]
    split
    · next hk =>
      refine List.pairwise_cons.2 ⟨fun e he => ?_, h⟩
      rcases List.mem_cons.1 he with rfl | he
      · exact hk
      · exact Nat.lt_trans hk (h1 e he)
    · split
      · next hk => exact List.pairwise_cons.2 ⟨fun e he => hk ▸ h1 e he, h2⟩
      · refine List.pairwise_cons.2 ⟨fun e he => ?_, ih h2⟩
        rcases mem_smapInsert he with rfl | he
        · simp only; omega
        · exact h1 e he

/-- A filter keeps the canonical form. -/
theorem SMapWf.filter {d : Nat → α} {m : SMap α} (h : SMapWf d m) (p : Nat × α → Bool) : SMapWf d (m.filter p) :=
  ⟨h.1.sublist List.filter_sublist, fun e he => h.2 e (List.mem_filter.1 he).1⟩

theorem SMapWf.nil (d : Nat → α) : SMapWf d ([] : SMap α) := ⟨List.Pairwise.nil, by simp⟩

theorem SMapWf.erase {d : Nat → α} {k : Nat} {m : SMap α} (h : SMapWf d m) : SMapWf d (smapErase k m) :=
  ⟨rising_erase h.1, fun e he => h.2 e (mem_smapErase he)⟩

/-- A write keeps the canonical form. -/
theorem SMapWf.put [DecidableEq α] {d : Nat → α} {k : Nat} {v : α} {m : SMap α} (h : SMapWf d m) :
    SMapWf d (smapPut d k v m) := by
  unfold smapPut
  split
  · exact h.erase
  · next hv =>
    refine ⟨rising_insert h.1, fun e he => ?_⟩
    rcases mem_smapInsert he with rfl | he
    · exact hv
    · exact h.2 e he

theorem smapGet_insert_same {d : Nat → α} {k : Nat} {v : α} {m : SMap α} : smapGet d k (smapInsert k v m) = v := by
  induction m with
  | nil => simp [smapInsert, smapGet]
  | cons a m ih =>
    simp only [smapInsert]
    split
    · simp [smapGet]
    · split
      · simp [smapGet]
      · next h => simp [smapGet, h, ih]

theorem smapGet_insert_ne {d : Nat → α} {k j : Nat} {v : α} {m : SMap α} (h : j ≠ k) :
    smapGet d j (smapInsert k v m) = smapGet d j m := by
  induction m with
  | nil => simp [smapInsert, smapGet, h]
  | cons a m ih =>
    simp only [smapInsert]
    split
    · simp [smapGet, h]
    · split
      · next hk => simp [smapGet, h, ← hk]
      · simp only [smapGet, ih]

theorem smapGet_erase_same {d : Nat → α} {k : Nat} {m : SMap α} : smapGet d k (smapErase k m) = d k := by
  induction m with
  | nil => simp [smapErase, smapGet]
  | cons a m ih =>
    simp only [smapErase]
    split
    · exact ih
    · next h => simp [smapGet, h, ih]

theorem smapGet_erase_ne {d : Nat → α} {k j : Nat} {m : SMap α} (h : j ≠ k) :
    smapGet d j (smapErase k m) = smapGet d j m := by
  induction m with
  | nil => simp [smapErase]
  | cons a m ih =>
    simp only [smapErase]
    split
    · next hk => simp [smapGet, ← hk, h, ih]
    · simp only [smapGet, ih]

/-! The same of a look-up. -/

theorem smapFind_insert_same {k : Nat} {v : α} {m : SMap α} : smapFind k (smapInsert k v m) = some v := by
  induction m with
  | nil => simp [smapInsert, smapFind]
  | cons a m ih =>
    simp only [smapInsert]
    split
    · simp [smapFind]
    · split
      · simp [smapFind]
      · next h => simp [smapFind, h, ih]

theorem smapFind_insert_ne {k j : Nat} {v : α} {m : SMap α} (h : j ≠ k) :
    smapFind j (smapInsert k v m) = smapFind j m := by
  induction m with
  | nil => simp [smapInsert, smapFind, h]
  | cons a m ih =>
    simp only [smapInsert]
    split
    · simp [smapFind, h]
    · split
      · next hk => simp [smapFind, h, ← hk]
      · simp only [smapFind, ih]

theorem smapFind_erase_same {k : Nat} {m : SMap α} : smapFind k (smapErase k m) = none := by
  induction m with
  | nil => simp [smapErase, smapFind]
  | cons a m ih =>
    simp only [smapErase]
    split
    · exact ih
    · next h => simp [smapFind, h, ih]

theorem smapFind_erase_ne {k j : Nat} {m : SMap α} (h : j ≠ k) :
    smapFind j (smapErase k m) = smapFind j m := by
  induction m with
  | nil => simp [smapErase]
  | cons a m ih =>
    simp only [smapErase]
    split
    · next hk => simp [smapFind, ← hk, h, ih]
    · simp only [smapFind, ih]

/-- A read after a write to the same key gives the value written. -/
theorem smapGet_put_same [DecidableEq α] {d : Nat → α} {k : Nat} {v : α} {m : SMap α} :
    smapGet d k (smapPut d k v m) = v := by
  unfold smapPut
  split
  · next h => rw [smapGet_erase_same, h]
  · exact smapGet_insert_same

/-- A write leaves every other key alone. -/
theorem smapGet_put_ne [DecidableEq α] {d : Nat → α} {k j : Nat} {v : α} {m : SMap α} (h : j ≠ k) :
    smapGet d j (smapPut d k v m) = smapGet d j m := by
  unfold smapPut
  split
  · exact smapGet_erase_ne h
  · exact smapGet_insert_ne h

end Sys2Proof.Machine
end

