-- ==== Sys2Proof/Laws/State.lean ====
section
/-! SUPPORT. What each register update leaves of every field of the state, and what a register reads after it. -/

namespace Sys2Proof.Machine

variable (s : State)

@[simp] theorem State.wr_now (off : Nat) (v : Word) : (s.wr off v).now = s.now := rfl
@[simp] theorem State.wr_freeCtr (off : Nat) (v : Word) : (s.wr off v).freeCtr = s.freeCtr := rfl
@[simp] theorem State.wr_outs (off : Nat) (v : Word) : (s.wr off v).outs = s.outs := rfl
@[simp] theorem State.wr_pending (off : Nat) (v : Word) : (s.wr off v).pending = s.pending := rfl
@[simp] theorem State.wr_host (off : Nat) (v : Word) : (s.wr off v).host = s.host := rfl
@[simp] theorem State.wr_boot (off : Nat) (v : Word) : (s.wr off v).boot = s.boot := rfl
@[simp] theorem State.wr_brFT (off : Nat) (v : Word) : (s.wr off v).brFT = s.brFT := rfl
@[simp] theorem State.wr_brTF (off : Nat) (v : Word) : (s.wr off v).brTF = s.brTF := rfl
@[simp] theorem State.wr_tap (off : Nat) (v : Word) : (s.wr off v).tap = s.tap := rfl
@[simp] theorem State.wr_pkts (off : Nat) (v : Word) : (s.wr off v).pkts = s.pkts := rfl
@[simp] theorem State.wr_line (off : Nat) (v : Word) : (s.wr off v).line = s.line := rfl
@[simp] theorem State.wr_plate (off : Nat) (v : Word) : (s.wr off v).plate = s.plate := rfl
@[simp] theorem State.wr_ppm (off : Nat) (v : Word) : (s.wr off v).ppm = s.ppm := rfl
@[simp] theorem State.wr_tbl (off : Nat) (v : Word) : (s.wr off v).tbl = s.tbl := rfl
@[simp] theorem State.wr_asa (off : Nat) (v : Word) : (s.wr off v).asa = s.asa := rfl
@[simp] theorem State.wr_bpm (off : Nat) (v : Word) : (s.wr off v).bpm = s.bpm := rfl
@[simp] theorem State.wr_q (off : Nat) (v : Word) : (s.wr off v).q = s.q := rfl
@[simp] theorem State.wr_burin (off : Nat) (v : Word) : (s.wr off v).burin = s.burin := rfl
@[simp] theorem State.wr_flash (off : Nat) (v : Word) : (s.wr off v).flash = s.flash := rfl
@[simp] theorem State.wr_cuts (off : Nat) (v : Word) : (s.wr off v).cuts = s.cuts := rfl
@[simp] theorem State.wr_cutAt (off : Nat) (v : Word) : (s.wr off v).cutAt = s.cutAt := rfl
@[simp] theorem State.wr_upd (off : Nat) (v : Word) : (s.wr off v).upd = s.upd := rfl
@[simp] theorem State.wr_sealSt (off : Nat) (v : Word) : (s.wr off v).sealSt = s.sealSt := rfl
@[simp] theorem State.wr_pwr (off : Nat) (v : Word) : (s.wr off v).pwr = s.pwr := rfl
@[simp] theorem State.wr_fab (off : Nat) (v : Word) : (s.wr off v).fab = s.fab := rfl
@[simp] theorem State.wr_cal (off : Nat) (v : Word) : (s.wr off v).cal = s.cal := rfl
@[simp] theorem State.wr_twin (off : Nat) (v : Word) : (s.wr off v).twin = s.twin := rfl

@[simp] theorem State.setFld_now (off : Nat) (f : Fld) (v : Nat) : (s.setFld off f v).now = s.now := rfl
@[simp] theorem State.setFld_freeCtr (off : Nat) (f : Fld) (v : Nat) : (s.setFld off f v).freeCtr = s.freeCtr := rfl
@[simp] theorem State.setFld_outs (off : Nat) (f : Fld) (v : Nat) : (s.setFld off f v).outs = s.outs := rfl
@[simp] theorem State.setFld_pending (off : Nat) (f : Fld) (v : Nat) : (s.setFld off f v).pending = s.pending := rfl
@[simp] theorem State.setFld_host (off : Nat) (f : Fld) (v : Nat) : (s.setFld off f v).host = s.host := rfl
@[simp] theorem State.setFld_boot (off : Nat) (f : Fld) (v : Nat) : (s.setFld off f v).boot = s.boot := rfl
@[simp] theorem State.setFld_brFT (off : Nat) (f : Fld) (v : Nat) : (s.setFld off f v).brFT = s.brFT := rfl
@[simp] theorem State.setFld_brTF (off : Nat) (f : Fld) (v : Nat) : (s.setFld off f v).brTF = s.brTF := rfl
@[simp] theorem State.setFld_tap (off : Nat) (f : Fld) (v : Nat) : (s.setFld off f v).tap = s.tap := rfl
@[simp] theorem State.setFld_pkts (off : Nat) (f : Fld) (v : Nat) : (s.setFld off f v).pkts = s.pkts := rfl
@[simp] theorem State.setFld_line (off : Nat) (f : Fld) (v : Nat) : (s.setFld off f v).line = s.line := rfl
@[simp] theorem State.setFld_plate (off : Nat) (f : Fld) (v : Nat) : (s.setFld off f v).plate = s.plate := rfl
@[simp] theorem State.setFld_ppm (off : Nat) (f : Fld) (v : Nat) : (s.setFld off f v).ppm = s.ppm := rfl
@[simp] theorem State.setFld_tbl (off : Nat) (f : Fld) (v : Nat) : (s.setFld off f v).tbl = s.tbl := rfl
@[simp] theorem State.setFld_asa (off : Nat) (f : Fld) (v : Nat) : (s.setFld off f v).asa = s.asa := rfl
@[simp] theorem State.setFld_bpm (off : Nat) (f : Fld) (v : Nat) : (s.setFld off f v).bpm = s.bpm := rfl
@[simp] theorem State.setFld_q (off : Nat) (f : Fld) (v : Nat) : (s.setFld off f v).q = s.q := rfl
@[simp] theorem State.setFld_burin (off : Nat) (f : Fld) (v : Nat) : (s.setFld off f v).burin = s.burin := rfl
@[simp] theorem State.setFld_flash (off : Nat) (f : Fld) (v : Nat) : (s.setFld off f v).flash = s.flash := rfl
@[simp] theorem State.setFld_cuts (off : Nat) (f : Fld) (v : Nat) : (s.setFld off f v).cuts = s.cuts := rfl
@[simp] theorem State.setFld_cutAt (off : Nat) (f : Fld) (v : Nat) : (s.setFld off f v).cutAt = s.cutAt := rfl
@[simp] theorem State.setFld_upd (off : Nat) (f : Fld) (v : Nat) : (s.setFld off f v).upd = s.upd := rfl
@[simp] theorem State.setFld_sealSt (off : Nat) (f : Fld) (v : Nat) : (s.setFld off f v).sealSt = s.sealSt := rfl
@[simp] theorem State.setFld_pwr (off : Nat) (f : Fld) (v : Nat) : (s.setFld off f v).pwr = s.pwr := rfl
@[simp] theorem State.setFld_fab (off : Nat) (f : Fld) (v : Nat) : (s.setFld off f v).fab = s.fab := rfl
@[simp] theorem State.setFld_cal (off : Nat) (f : Fld) (v : Nat) : (s.setFld off f v).cal = s.cal := rfl
@[simp] theorem State.setFld_twin (off : Nat) (f : Fld) (v : Nat) : (s.setFld off f v).twin = s.twin := rfl

@[simp] theorem State.bump_now (off n : Nat) : (s.bump off n).now = s.now := rfl
@[simp] theorem State.bump_freeCtr (off n : Nat) : (s.bump off n).freeCtr = s.freeCtr := rfl
@[simp] theorem State.bump_outs (off n : Nat) : (s.bump off n).outs = s.outs := rfl
@[simp] theorem State.bump_pending (off n : Nat) : (s.bump off n).pending = s.pending := rfl
@[simp] theorem State.bump_host (off n : Nat) : (s.bump off n).host = s.host := rfl
@[simp] theorem State.bump_boot (off n : Nat) : (s.bump off n).boot = s.boot := rfl
@[simp] theorem State.bump_brFT (off n : Nat) : (s.bump off n).brFT = s.brFT := rfl
@[simp] theorem State.bump_brTF (off n : Nat) : (s.bump off n).brTF = s.brTF := rfl
@[simp] theorem State.bump_tap (off n : Nat) : (s.bump off n).tap = s.tap := rfl
@[simp] theorem State.bump_pkts (off n : Nat) : (s.bump off n).pkts = s.pkts := rfl
@[simp] theorem State.bump_line (off n : Nat) : (s.bump off n).line = s.line := rfl
@[simp] theorem State.bump_plate (off n : Nat) : (s.bump off n).plate = s.plate := rfl
@[simp] theorem State.bump_ppm (off n : Nat) : (s.bump off n).ppm = s.ppm := rfl
@[simp] theorem State.bump_tbl (off n : Nat) : (s.bump off n).tbl = s.tbl := rfl
@[simp] theorem State.bump_asa (off n : Nat) : (s.bump off n).asa = s.asa := rfl
@[simp] theorem State.bump_bpm (off n : Nat) : (s.bump off n).bpm = s.bpm := rfl
@[simp] theorem State.bump_q (off n : Nat) : (s.bump off n).q = s.q := rfl
@[simp] theorem State.bump_burin (off n : Nat) : (s.bump off n).burin = s.burin := rfl
@[simp] theorem State.bump_flash (off n : Nat) : (s.bump off n).flash = s.flash := rfl
@[simp] theorem State.bump_cuts (off n : Nat) : (s.bump off n).cuts = s.cuts := rfl
@[simp] theorem State.bump_cutAt (off n : Nat) : (s.bump off n).cutAt = s.cutAt := rfl
@[simp] theorem State.bump_upd (off n : Nat) : (s.bump off n).upd = s.upd := rfl
@[simp] theorem State.bump_sealSt (off n : Nat) : (s.bump off n).sealSt = s.sealSt := rfl
@[simp] theorem State.bump_pwr (off n : Nat) : (s.bump off n).pwr = s.pwr := rfl
@[simp] theorem State.bump_fab (off n : Nat) : (s.bump off n).fab = s.fab := rfl
@[simp] theorem State.bump_cal (off n : Nat) : (s.bump off n).cal = s.cal := rfl
@[simp] theorem State.bump_twin (off n : Nat) : (s.bump off n).twin = s.twin := rfl

@[simp] theorem State.inc_now (off : Nat) : (s.inc off).now = s.now := rfl
@[simp] theorem State.inc_freeCtr (off : Nat) : (s.inc off).freeCtr = s.freeCtr := rfl
@[simp] theorem State.inc_outs (off : Nat) : (s.inc off).outs = s.outs := rfl
@[simp] theorem State.inc_pending (off : Nat) : (s.inc off).pending = s.pending := rfl
@[simp] theorem State.inc_host (off : Nat) : (s.inc off).host = s.host := rfl
@[simp] theorem State.inc_boot (off : Nat) : (s.inc off).boot = s.boot := rfl
@[simp] theorem State.inc_brFT (off : Nat) : (s.inc off).brFT = s.brFT := rfl
@[simp] theorem State.inc_brTF (off : Nat) : (s.inc off).brTF = s.brTF := rfl
@[simp] theorem State.inc_tap (off : Nat) : (s.inc off).tap = s.tap := rfl
@[simp] theorem State.inc_pkts (off : Nat) : (s.inc off).pkts = s.pkts := rfl
@[simp] theorem State.inc_line (off : Nat) : (s.inc off).line = s.line := rfl
@[simp] theorem State.inc_plate (off : Nat) : (s.inc off).plate = s.plate := rfl
@[simp] theorem State.inc_ppm (off : Nat) : (s.inc off).ppm = s.ppm := rfl
@[simp] theorem State.inc_tbl (off : Nat) : (s.inc off).tbl = s.tbl := rfl
@[simp] theorem State.inc_asa (off : Nat) : (s.inc off).asa = s.asa := rfl
@[simp] theorem State.inc_bpm (off : Nat) : (s.inc off).bpm = s.bpm := rfl
@[simp] theorem State.inc_q (off : Nat) : (s.inc off).q = s.q := rfl
@[simp] theorem State.inc_burin (off : Nat) : (s.inc off).burin = s.burin := rfl
@[simp] theorem State.inc_flash (off : Nat) : (s.inc off).flash = s.flash := rfl
@[simp] theorem State.inc_cuts (off : Nat) : (s.inc off).cuts = s.cuts := rfl
@[simp] theorem State.inc_cutAt (off : Nat) : (s.inc off).cutAt = s.cutAt := rfl
@[simp] theorem State.inc_upd (off : Nat) : (s.inc off).upd = s.upd := rfl
@[simp] theorem State.inc_sealSt (off : Nat) : (s.inc off).sealSt = s.sealSt := rfl
@[simp] theorem State.inc_pwr (off : Nat) : (s.inc off).pwr = s.pwr := rfl
@[simp] theorem State.inc_fab (off : Nat) : (s.inc off).fab = s.fab := rfl
@[simp] theorem State.inc_cal (off : Nat) : (s.inc off).cal = s.cal := rfl
@[simp] theorem State.inc_twin (off : Nat) : (s.inc off).twin = s.twin := rfl

@[simp] theorem State.emit_regs (o : Out) : (s.emit o).regs = s.regs := rfl
@[simp] theorem State.emit_outs (o : Out) : (s.emit o).outs = o :: s.outs := rfl
@[simp] theorem State.emit_now (o : Out) : (s.emit o).now = s.now := rfl
@[simp] theorem State.emit_freeCtr (o : Out) : (s.emit o).freeCtr = s.freeCtr := rfl
@[simp] theorem State.emit_pending (o : Out) : (s.emit o).pending = s.pending := rfl
@[simp] theorem State.emit_host (o : Out) : (s.emit o).host = s.host := rfl
@[simp] theorem State.emit_boot (o : Out) : (s.emit o).boot = s.boot := rfl
@[simp] theorem State.emit_brFT (o : Out) : (s.emit o).brFT = s.brFT := rfl
@[simp] theorem State.emit_brTF (o : Out) : (s.emit o).brTF = s.brTF := rfl
@[simp] theorem State.emit_tap (o : Out) : (s.emit o).tap = s.tap := rfl
@[simp] theorem State.emit_pkts (o : Out) : (s.emit o).pkts = s.pkts := rfl
@[simp] theorem State.emit_line (o : Out) : (s.emit o).line = s.line := rfl
@[simp] theorem State.emit_plate (o : Out) : (s.emit o).plate = s.plate := rfl
@[simp] theorem State.emit_ppm (o : Out) : (s.emit o).ppm = s.ppm := rfl
@[simp] theorem State.emit_tbl (o : Out) : (s.emit o).tbl = s.tbl := rfl
@[simp] theorem State.emit_asa (o : Out) : (s.emit o).asa = s.asa := rfl
@[simp] theorem State.emit_bpm (o : Out) : (s.emit o).bpm = s.bpm := rfl
@[simp] theorem State.emit_q (o : Out) : (s.emit o).q = s.q := rfl
@[simp] theorem State.emit_burin (o : Out) : (s.emit o).burin = s.burin := rfl
@[simp] theorem State.emit_flash (o : Out) : (s.emit o).flash = s.flash := rfl
@[simp] theorem State.emit_cuts (o : Out) : (s.emit o).cuts = s.cuts := rfl
@[simp] theorem State.emit_cutAt (o : Out) : (s.emit o).cutAt = s.cutAt := rfl
@[simp] theorem State.emit_upd (o : Out) : (s.emit o).upd = s.upd := rfl
@[simp] theorem State.emit_sealSt (o : Out) : (s.emit o).sealSt = s.sealSt := rfl
@[simp] theorem State.emit_pwr (o : Out) : (s.emit o).pwr = s.pwr := rfl
@[simp] theorem State.emit_fab (o : Out) : (s.emit o).fab = s.fab := rfl
@[simp] theorem State.emit_cal (o : Out) : (s.emit o).cal = s.cal := rfl
@[simp] theorem State.emit_twin (o : Out) : (s.emit o).twin = s.twin := rfl

/-- A register reads as it was written. -/
@[simp] theorem State.rd_wr_same (off : Nat) (v : Word) : (s.wr off v).rd off = v := smapGet_put_same

/-- A write leaves every other register alone. -/
theorem State.rd_wr_ne {off o : Nat} (v : Word) (h : o ≠ off) : (s.wr off v).rd o = s.rd o := smapGet_put_ne h

theorem State.rd_wr (off o : Nat) (v : Word) : (s.wr off v).rd o = if o = off then v else s.rd o := by
  split
  · next h => subst h; exact State.rd_wr_same s o v
  · next h => exact State.rd_wr_ne s v h

@[simp] theorem State.rd_emit (o : Out) (off : Nat) : (s.emit o).rd off = s.rd off := rfl

@[simp] theorem State.rd_setFld_same (off : Nat) (f : Fld) (v : Nat) :
    (s.setFld off f v).rd off = setF (s.rd off) f v := State.rd_wr_same s off _

theorem State.rd_setFld_ne {off o : Nat} (f : Fld) (v : Nat) (h : o ≠ off) : (s.setFld off f v).rd o = s.rd o :=
  State.rd_wr_ne s _ h

@[simp] theorem State.rd_inc_same (off : Nat) : (s.inc off).rd off = s.rd off + 1 := State.rd_wr_same s off _

theorem State.rd_inc_ne {off o : Nat} (h : o ≠ off) : (s.inc off).rd o = s.rd o := State.rd_wr_ne s _ h

@[simp] theorem doIf_true (f : State → State) : doIf true f s = f s := rfl
@[simp] theorem doIf_false (f : State → State) : doIf false f s = s := rfl
@[simp] theorem guardWf_true (t : State) : guardWf true t = .next t := rfl
@[simp] theorem guardWf_false (t : State) : guardWf false t = .refused .illFormed := rfl

/-- A guarded command that answers a next state is well formed and answers the state given. -/
theorem guardWf_next {ok : Bool} {t t' : State} (h : guardWf ok t = .next t') : ok = true ∧ t = t' := by
  cases ok
  · cases h
  · exact ⟨rfl, by cases h; rfl⟩

end Sys2Proof.Machine
end

