-- ==== Sys2Proof/Laws/Ops.lean ====
section
/-! SUPPORT. What each shared operation can do: a register access through the partition map, the life of a command,
checks, error records. -/

namespace Sys2Proof.Machine

variable {s : State} {fn : Fn} {p off acc : Nat} {d : RegDesc} {ix : List Nat}
  {k : Nat → RegDesc → List Nat → State → State}

/-! ### The partition map -/

theorem partOf_lt (h : s.partOf fn = some p) : p < 4 := by
  have := List.mem_of_find?_eq_some h
  simp at this
  omega

theorem partOf_enabled (h : s.partOf fn = some p) : s.enabled p = true := by
  have := List.find?_some h
  simp at this
  exact this.1

theorem partOf_locked (h : s.partOf fn = some p) : s.locked = true := by
  have := partOf_enabled h
  simp [State.enabled] at this
  exact this.1

@[simp] theorem dropHeld_rd (off : Nat) : (dropHeld fn s).rd off = s.rd off := rfl
@[simp] theorem dropHeld_partOf (g : Fn) : (dropHeld fn s).partOf g = s.partOf g := rfl
@[simp] theorem dropHeld_locked : (dropHeld fn s).locked = s.locked := rfl
@[simp] theorem dropHeld_busy (i : Ifc) : (dropHeld fn s).busy i = s.busy i := rfl
@[simp] theorem dropHeld_boot : (dropHeld fn s).boot = s.boot := rfl
@[simp] theorem dropHeld_blockAccess (p b : Nat) : (dropHeld fn s).blockAccess p b = s.blockAccess p b := rfl
@[simp] theorem dropHeld_right (p i : Nat) : (dropHeld fn s).right p i = s.right p i := rfl

theorem permit_dropHeld (g : Fn) (w : Bool) : permit (dropHeld fn s) g d ix w = permit s g d ix w := rfl

/-- An access that the map lets through runs. -/
theorem access_ok (hr : s.reached fn = true) (ha : regAt off = some (d, ix)) (hp : permit s fn d ix (acc != 0) = .ok p) :
    access fn off acc k s = k p d ix (dropHeld fn s) := by
  unfold access
  simp [hr, ha, permit_dropHeld, hp]

/-- An access that the map denies is recorded. -/
theorem access_denied (hr : s.reached fn = true) (ha : regAt off = some (d, ix))
    (hp : permit s fn d ix (acc != 0) = .denied) : access fn off acc k s = denied fn off acc (dropHeld fn s) := by
  unfold access
  simp [hr, ha, permit_dropHeld, hp]

/-- An access that the map leaves without an answer. -/
theorem access_silent (hr : s.reached fn = true) (ha : regAt off = some (d, ix))
    (hp : permit s fn d ix (acc != 0) = .silent) : access fn off acc k s = dropHeld fn s := by
  unfold access
  simp [hr, ha, permit_dropHeld, hp]

theorem access_unreached (hr : s.reached fn = false) : access fn off acc k s = s := by simp [access, hr]

/-- A write to a register that stands once in a block that the function's partition may write. -/
theorem permit_block {b : Nat} (h : s.MayWrite fn p b) (hb : blockOf d.base = b) (h1 : 1 < b) (hd : d.perPart = false)
    (hq : d.reg ≠ .bpmQuota) : permit s fn d ix true = .ok p := by
  subst hb
  have hp := h.part
  have hl := partOf_locked hp
  have h0 : blockOf d.base ≠ 0 := by omega
  have h1' : blockOf d.base ≠ 1 := by omega
  have := h.block
  unfold permit
  simp [h0, h1', hl, hp, hd, hq, this]

/-- A write to a register of the function's own partition's set. -/
theorem permit_own (h : s.Owns fn p) (h0 : blockOf d.base ≠ 0) (hd : d.perPart = true) (hi : ix.headD 0 = p) (w : Bool) :
    permit s fn d ix w = .ok p := by
  have hp := h.part
  have hl := partOf_locked hp
  unfold permit
  simp only [List.headD_eq_head?_getD] at hi
  simp [h0, hl, hp, hd, hi]

/-! ### The life of a command -/

/-- A free interface of a READY device accepts a command and performs it. -/
theorem issue_takes {i : Ifc} {op : Nat} {act : State → State} (h : s.Takes i) :
    issue i op p act (dropHeld fn s) = act (s.taken fn i op p) := by
  unfold issue State.taken
  have h1 := h.free
  have h2 : (accept i op p (dropHeld fn s)).boot.ready = true := h.ready
  simp [h1, h2]

/-- A busy interface discards it. -/
theorem issue_busy {i : Ifc} {op : Nat} {act : State → State} (h : s.busy i = true) : issue i op p act s = overrun i s := by
  simp [issue, h]

/-- Before READY it completes with BUSY (R528). -/
theorem issue_early {i : Ifc} {op : Nat} {act : State → State} (h : s.busy i = false) (hr : s.boot.ready = false) :
    issue i op p act s = complete i Code.busy 0 (accept i op p s) := by
  have h2 : (accept i op p s).boot.ready = false := hr
  simp [issue, h, h2]

/-- Checks that all pass. -/
theorem runChecks_pass {i : Ifc} {cs : List (Bool × Nat)} {act : State → State} (h : cs.all (·.1) = true) :
    runChecks i fn cs act s = act s := by
  unfold runChecks
  have : cs.find? (fun c => !c.1) = none := by
    rw [List.find?_eq_none]
    intro c hc
    simp [List.all_eq_true.1 h c hc]
  rw [this]

/-- Checks of which one fails. -/
theorem runChecks_fail {i : Ifc} {cs : List (Bool × Nat)} {act : State → State} {c : Bool × Nat}
    (h : cs.find? (fun c => !c.1) = some c) : runChecks i fn cs act s = failCmd i fn c.2 s := by
  unfold runChecks
  rw [h]

theorem firstBad_pass {cs : List (Bool × Fail)} (h : cs.all (·.1) = true) : firstBad cs = none := by
  induction cs with
  | nil => rfl
  | cons c cs ih =>
    simp only [List.all_cons, Bool.and_eq_true] at h
    obtain ⟨ok, f⟩ := c
    simp only at h
    simp [firstBad, h.1, ih h.2]

/-! ### Interrupts: what a raised source leaves alone -/

/-- The interrupt registers of a partition. -/
def IntReg (p off : Nat) : Prop :=
  off = R.intStatus p ∨ off = R.intEnable p ∨ off = R.intRingStatus p ∨ off = R.intRingEnable p

theorem forEach_rd {α : Type} {as : List α} {f : α → State → State} (hf : ∀ a ∈ as, ∀ s, (f a s).rd off = s.rd off) (s : State) :
    (forEach as f s).rd off = s.rd off := by
  unfold forEach
  induction as generalizing s with
  | nil => rfl
  | cons a as ih => 
    rw [List.foldl_cons, ih (fun b hb => hf b (List.mem_cons_of_mem _ hb)), hf a (List.mem_cons_self ..)]

theorem doIf_rd {b : Bool} {f : State → State} (hf : ∀ s, (f s).rd off = s.rd off) (s : State) :
    (doIf b f s).rd off = s.rd off := by cases b <;> [rfl; exact hf s]

theorem sendMsi_rd (p src : Nat) (s : State) : (sendMsi p src s).rd off = s.rd off := by
  unfold sendMsi
  dsimp only
  split
  · rfl
  · split <;> rfl

theorem raiseSrc_rd {src : Nat} (h : ¬IntReg p off) (s : State) : (raiseSrc p src s).rd off = s.rd off := by
  unfold IntReg at h
  push Not at h
  have hw : ∀ (a b src0 n : Nat) (v w : Word), off ≠ a → off ≠ b → (intWrite p src0 n a b v w s).rd off = s.rd off := by
    intro a b src0 n v w ha hb
    unfold intWrite
    dsimp only
    rw [forEach_rd (fun i _ s => doIf_rd (sendMsi_rd _ _) s), State.rd_wr_ne _ _ hb, State.rd_wr_ne _ _ ha]
  unfold raiseSrc
  split
  · split <;> exact hw _ _ _ _ _ _ (by tauto) (by tauto)
  · rfl

theorem raiseBlock_rd {src blk : Nat} (h : ∀ p < 4, ¬IntReg p off) (s : State) : (raiseBlock src blk s).rd off = s.rd off :=
  forEach_rd (fun p hp s => doIf_rd (raiseSrc_rd (h p (by simp at hp; omega))) s) s

theorem raiseRight_rd {src rt : Nat} (h : ∀ p < 4, ¬IntReg p off) (s : State) : (raiseRight src rt s).rd off = s.rd off :=
  forEach_rd (fun p hp s => doIf_rd (raiseSrc_rd (h p (by simp at hp; omega))) s) s

theorem doneIrq_rd {i : Ifc} (h : ∀ p, ¬IntReg p off) (s : State) : (doneIrq i s).rd off = s.rd off := by
  unfold doneIrq
  split <;> first
    | rfl
    | exact doIf_rd (raiseBlock_rd (fun p _ => h p)) s
    | exact doIf_rd (raiseRight_rd (fun p _ => h p)) s
    | exact doIf_rd (raiseSrc_rd (h _)) s

end Sys2Proof.Machine
end

