-- ==== Sys2Proof/Laws/Commands.lean ====
section
/-! SUPPORT. A command written by a function that may write it, on an interface that takes it: what stands in its word is
what is performed, on the state that has accepted it. -/

namespace Sys2Proof.Machine

variable {s : State} {fn : Fn} {p : Nat}

/-- A write to a register that stands once in a block: `acc` is 1 for a register, 2 for a command. -/
theorem access_block {off b acc : Nat} {d : RegDesc} {ix : List Nat} {k : Nat → RegDesc → List Nat → State → State}
    (h : s.MayWrite fn p b) (ha : regAt off = some (d, ix)) (hacc : acc ≠ 0)
    (hd : (blockOf d.base == b && decide (1 < b) && !d.perPart && d.reg != .bpmQuota) = true) :
    access fn off acc k s = k p d ix (dropHeld fn s) := by
  simp at hd
  refine access_ok h.reached ha ?_
  have : (acc != 0) = true := by simpa using hacc
  rw [this]
  exact permit_block h hd.1.1.1 hd.1.1.2 hd.1.2 hd.2

/-- An access to a register of the function's own partition's set. -/
theorem access_own {off acc : Nat} {d : RegDesc} {ix : List Nat} {k : Nat → RegDesc → List Nat → State → State}
    (h : s.Owns fn p) (ha : regAt off = some (d, ix))
    (hd : (blockOf d.base != 0 && d.perPart && ix.headD 0 == p) = true) :
    access fn off acc k s = k p d ix (dropHeld fn s) := by
  simp only [Bool.and_eq_true, bne_iff_ne, beq_iff_eq] at hd
  exact access_ok h.reached ha (permit_own h hd.1.1 hd.1.2 hd.2 _)

theorem taken_rd {i : Ifc} {op off : Nat} (h : off ≠ i.status) : (s.taken fn i op p).rd off = s.rd off :=
  State.rd_wr_ne _ _ h

theorem dataBytes_congr {t : State} {off : Nat → Nat} {n : Nat} (h : ∀ i < n, t.rd (off i) = s.rd (off i)) :
    t.dataBytes off n = s.dataBytes off n := by
  unfold State.dataBytes
  rw [List.flatMap_def, List.flatMap_def]
  congr 1
  apply List.map_congr_left
  intro i hi
  rw [h i (List.mem_range.1 hi)]

theorem own_lt (h : s.Owns fn p) : p < 4 := partOf_lt h.part

/-- The one field of a word. -/
theorem getF_one (f : Fld) (v : Nat) (hf : FldOk f) (hv : v < 2 ^ fldWidth f) : getF (setF 0 f v) f = v := by
  rw [getF_setF _ _ _ hf, Nat.mod_eq_of_lt hv]

theorem getF_last (w : Word) (f : Fld) (v : Nat) (hf : FldOk f) (hv : v < 2 ^ fldWidth f) : getF (setF w f v) f = v := by
  rw [getF_setF _ _ _ hf, Nat.mod_eq_of_lt hv]

/-! ### The interfaces that stand once -/

theorem plate_takes {op b gen : Nat} (h : s.MayWrite fn p 2) (hr : s.right p Right.plate = true) (ht : s.Takes .plate)
    (ho : op < 256) (hb : b < 2) (hg : gen < 65536) :
    plateIssue fn op b gen s = platePerform op b gen (s.taken fn .plate op p) := by
  have e1 : getF (setF (setF (setF 0 F.plateCmdOpcode op) F.plateCmdBank b) F.plateCmdGen gen) F.plateCmdOpcode = op := by
    rw [getF_setF_ne _ _ _ _ (by decide) (by decide) (by decide), getF_setF_ne _ _ _ _ (by decide) (by decide) (by decide),
      getF_one _ _ (by decide) ho]
  have e2 : getF (setF (setF (setF 0 F.plateCmdOpcode op) F.plateCmdBank b) F.plateCmdGen gen) F.plateCmdBank = b := by
    rw [getF_setF_ne _ _ _ _ (by decide) (by decide) (by decide), getF_last _ _ _ (by decide) hb]
  have e3 : getF (setF (setF (setF 0 F.plateCmdOpcode op) F.plateCmdBank b) F.plateCmdGen gen) F.plateCmdGen = gen :=
    getF_last _ _ _ (by decide) hg
  unfold plateIssue
  rw [access_block h (d := _) (ix := _) rfl (by decide) (by decide)]
  have hf : (dropHeld fn s).busy .plate = false := ht.free
  unfold plateCommand
  simp only [e1, e2, e3, dropHeld_right, hr, hf, Bool.not_true, Bool.false_and, if_false, Bool.false_eq_true]
  exact issue_takes ht

/-- A command of the T-die acts at once while no new microcode of its section waits. -/
theorem orHold_acts {c : HeldCmd} {act : State → State} (h : s.upd.tload = none) : orHold c act s = act s := by
  unfold orHold
  rw [h]
  rfl

theorem sched_takes {op b gen : Nat} {v : Vote} (h : s.MayWrite fn p 9) (hr : s.right p Right.calendar = true) (ht : s.Takes .sched)
    (hu : s.upd.tload = none) (ho : op < 256) (hb : b < 2) (hg : gen < 65536) :
    schedIssue fn op b gen v s = schedPerform op b gen v (s.taken fn .sched op p) := by
  have e1 : getF (setF (setF (setF 0 F.schedCmdOpcode op) F.schedCmdBank b) F.schedCmdGen gen) F.schedCmdOpcode = op := by
    rw [getF_setF_ne _ _ _ _ (by decide) (by decide) (by decide), getF_setF_ne _ _ _ _ (by decide) (by decide) (by decide),
      getF_one _ _ (by decide) ho]
  have e2 : getF (setF (setF (setF 0 F.schedCmdOpcode op) F.schedCmdBank b) F.schedCmdGen gen) F.schedCmdBank = b := by
    rw [getF_setF_ne _ _ _ _ (by decide) (by decide) (by decide), getF_last _ _ _ (by decide) hb]
  have e3 : getF (setF (setF (setF 0 F.schedCmdOpcode op) F.schedCmdBank b) F.schedCmdGen gen) F.schedCmdGen = gen :=
    getF_last _ _ _ (by decide) hg
  unfold schedIssue
  rw [access_block h (d := _) (ix := _) rfl (by decide) (by decide)]
  have hf : (dropHeld fn s).busy .sched = false := ht.free
  unfold schedCommand
  simp only [e1, e2, e3, dropHeld_right, hr, hf, Bool.not_true, Bool.false_and, if_false, Bool.false_eq_true]
  rw [issue_takes ht]
  exact orHold_acts hu

theorem ppm_takes {op i : Nat} {ecc : Ecc} (h : s.MayWrite fn p 4) (ht : s.Takes .ppm) (ho : op < 256) (hi : i < 4096)
    (hc : Passes (ppmChecks (s.taken fn .ppm op p) p op i (s.dataBytes R.ppmData 16))) :
    ppmIssue fn op i ecc s = ppmPerform op i (s.dataBytes R.ppmData 16) ecc (s.taken fn .ppm op p) := by
  have e1 : getF (setF (setF 0 F.ppmCmdOpcode op) F.ppmCmdIndex i) F.ppmCmdOpcode = op := by
    rw [getF_setF_ne _ _ _ _ (by decide) (by decide) (by decide), getF_one _ _ (by decide) ho]
  have e2 : getF (setF (setF 0 F.ppmCmdOpcode op) F.ppmCmdIndex i) F.ppmCmdIndex = i :=
    getF_last _ _ _ (by decide) hi
  have hd : (s.taken fn .ppm op p).dataBytes R.ppmData 16 = s.dataBytes R.ppmData 16 := by
    apply dataBytes_congr
    intro j hj
    apply taken_rd
    simp [Ifc.status, R.ppmData, R.ppmStatus]
    omega
  unfold ppmIssue
  rw [access_block h (d := _) (ix := _) rfl (by decide) (by decide)]
  unfold ppmCommand
  simp only [e1, e2]
  rw [issue_takes ht, hd, runChecks_pass hc]

theorem twin_takes {op : Nat} (h : s.MayWrite fn p 15) (ht : s.Takes .twin) (ho : op < 256)
    (hc : Passes (twinChecks (s.taken fn .twin op p) op)) :
    twinIssue fn op s = complete .twin Code.ok 0 (twinAct op (s.taken fn .twin op p)) := by
  have e1 : getF (setF 0 F.twinCmdOpcode op) F.twinCmdOpcode = op := getF_one _ _ (by decide) ho
  unfold twinIssue
  rw [access_block h (d := _) (ix := _) rfl (by decide) (by decide)]
  unfold twinCommand
  simp only [e1]
  rw [issue_takes ht, runChecks_pass hc]

/-! ### The interfaces of a partition -/

/-- The state a table command is performed on: an INSERT has moved nothing yet. -/
abbrev State.tblTaken (s : State) (fn : Fn) (op p : Nat) : State :=
  doIf (op == 3) (fun t => t.setFld (R.tblStatus p) F.tblStatusMoves 0) (s.taken fn (.tbl p) op p)

/-- The state an ASA command is performed on: an INSERT_AT has moved nothing yet. -/
abbrev State.asaTaken (s : State) (fn : Fn) (op p : Nat) : State :=
  doIf (op == 4) (fun t => t.setFld (R.asaStatus p) F.asaStatusMoves 0) (s.taken fn (.asa p) op p)

theorem tbl_takes {op table mask : Nat} {ecc : Ecc} (h : s.Owns fn p) (ht : s.Takes (.tbl p)) (ho : op < 256)
    (hb : table < 256) (hm : mask < 65536)
    (hc : Passes (tblChecks (s.tblTaken fn op p) p (tblOpOf s p op table mask))) :
    tblIssue fn op table mask ecc s = tblPerform p (tblOpOf s p op table mask) ecc (s.tblTaken fn op p) := by
  have e1 : getF (tblWord op table mask) F.tblCmdOpcode = op := by
    unfold tblWord
    rw [getF_setF_ne _ _ _ _ (by decide) (by decide) (by decide), getF_setF_ne _ _ _ _ (by decide) (by decide) (by decide),
      getF_one _ _ (by decide) ho]
  have e2 : getF (tblWord op table mask) F.tblCmdTable = table := by
    unfold tblWord
    rw [getF_setF_ne _ _ _ _ (by decide) (by decide) (by decide), getF_last _ _ _ (by decide) hb]
  have e3 : getF (tblWord op table mask) F.tblCmdPipeMask = mask := getF_last _ _ _ (by decide) hm
  have hp : p < 4 := own_lt h
  unfold tblIssue
  rw [h.part]
  have ha : ∃ d, regAt (R.tblCmd p) = some (d, [p]) ∧ (blockOf d.base != 0 && d.perPart && [p].headD 0 == p) = true := by
    interval_cases p <;> exact ⟨_, rfl, by decide⟩
  obtain ⟨d, ha, hd⟩ := ha
  rw [Option.getD_some, access_own h ha hd]
  have hq : tblOpOf (s.taken fn (.tbl p) op p) p op table mask = tblOpOf s p op table mask := by
    have h1 : R.tblArg p ≠ (Ifc.tbl p).status := by simp [Ifc.status, R.tblArg, R.tblStatus]
    have h2 : ∀ i < 8, R.tblData p i ≠ (Ifc.tbl p).status := by
      intro i hi; simp [Ifc.status, R.tblData, R.tblStatus]; omega
    unfold tblOpOf
    rw [State.fld, taken_rd h1, dataBytes_congr (fun i hi => taken_rd (h2 i hi))]
    rfl
  unfold tblCommand
  simp only [e1, e2, e3]
  rw [issue_takes ht, hq]
  exact runChecks_pass hc

theorem asa_takes {op t : Nat} {ecc : Ecc} (h : s.Owns fn p) (ht : s.Takes (.asa p)) (ho : op < 256) (hb : t < 16)
    (hc : Passes (asaChecks (s.asaTaken fn op p) p op t (s.fld (R.asaArg p) F.asaArgIndex)
      (s.dataBytes (R.asaData p) 24))) :
    asaIssue fn op t ecc s =
      asaPerform p op t (s.fld (R.asaArg p) F.asaArgIndex) (s.dataBytes (R.asaData p) 24) ecc (s.asaTaken fn op p) := by
  have e1 : getF (asaWord op t) F.asaCmdOpcode = op := by
    unfold asaWord
    rw [getF_setF_ne _ _ _ _ (by decide) (by decide) (by decide), getF_one _ _ (by decide) ho]
  have e2 : getF (asaWord op t) F.asaCmdTable = t := getF_last _ _ _ (by decide) hb
  have hp : p < 4 := own_lt h
  unfold asaIssue
  rw [h.part]
  have ha : ∃ d, regAt (R.asaCmd p) = some (d, [p]) ∧ (blockOf d.base != 0 && d.perPart && [p].headD 0 == p) = true := by
    interval_cases p <;> exact ⟨_, rfl, by decide⟩
  obtain ⟨d, ha, hd⟩ := ha
  rw [Option.getD_some, access_own h ha hd]
  have h1 : R.asaArg p ≠ (Ifc.asa p).status := by simp [Ifc.status, R.asaArg, R.asaStatus]
  have h2 : ∀ i < 24, R.asaData p i ≠ (Ifc.asa p).status := by
    intro i hi; simp [Ifc.status, R.asaData, R.asaStatus]; omega
  unfold asaCommand
  simp only [e1, e2]
  rw [issue_takes ht, State.fld, taken_rd h1, dataBytes_congr (fun i hi => taken_rd (h2 i hi))]
  exact runChecks_pass hc

theorem bpm_takes {op : Nat} {ecc : Ecc} (h : s.Owns fn p) (hu : s.upd.tload = none) (ht : s.Takes (.bpm p)) (hr : s.right p Right.bpm = true)
    (ho : 1 ≤ op ∧ op ≤ 4)
    (hx : bpmArgOk op (s.fld (R.bpmArg p) F.bpmArgPool) (s.fld (R.bpmArg p) F.bpmArgIndex) = true) :
    bpmIssue fn op ecc s = bpmPerform p op (s.fld (R.bpmArg p) F.bpmArgPool) (s.fld (R.bpmArg p) F.bpmArgIndex) ecc
      (s.taken fn (.bpm p) op p) := by
  have e1 : getF (setF 0 F.bpmCmdOpcode op) F.bpmCmdOpcode = op :=
    getF_one _ _ (by decide) (by simp [fldWidth, F.bpmCmdOpcode]; omega)
  have hp : p < 4 := own_lt h
  unfold bpmIssue
  rw [h.part]
  have ha : ∃ d, regAt (R.bpmCmd p) = some (d, [p]) ∧ (blockOf d.base != 0 && d.perPart && [p].headD 0 == p) = true := by
    interval_cases p <;> exact ⟨_, rfl, by decide⟩
  obtain ⟨d, ha, hd⟩ := ha
  rw [Option.getD_some, access_own h ha hd]
  unfold bpmCommand
  simp only [e1]
  have h1 : (dropHeld fn s).fld (R.bpmArg p) F.bpmArgPool = s.fld (R.bpmArg p) F.bpmArgPool := rfl
  have h2 : (dropHeld fn s).fld (R.bpmArg p) F.bpmArgIndex = s.fld (R.bpmArg p) F.bpmArgIndex := rfl
  rw [issue_takes ht, h1, h2, orHold_acts (by exact hu)]
  unfold bpmAct
  simp only [hx, Bool.not_true, Bool.and_false]
  rw [runChecks_pass]
  · rfl
  · have : (s.taken fn (.bpm p) op p).right p Right.bpm = s.right p Right.bpm := by
      unfold State.right State.pmap
      rw [taken_rd]
      simp [Ifc.status, R.pmap, R.bpmStatus]
    simp [doIf, this, hr, ho]

theorem q_takes {op obj : Nat} {ecc : Ecc} (h : s.Owns fn p) (hu : s.upd.tload = none) (ht : s.Takes (.q p)) (ho : op < 256) (hb : obj < 256)
    (hc : Passes (qChecks (s.taken fn (.q p) op p) p op obj (s.fld (R.qArg p) F.qArgIndex))) :
    qIssue fn op obj ecc s = qPerform fn p op obj (s.fld (R.qArg p) F.qArgIndex) ecc (s.taken fn (.q p) op p) := by
  have e1 : getF (setF (setF 0 F.qCmdOpcode op) F.qCmdObject obj) F.qCmdOpcode = op := by
    rw [getF_setF_ne _ _ _ _ (by decide) (by decide) (by decide), getF_one _ _ (by decide) ho]
  have e2 : getF (setF (setF 0 F.qCmdOpcode op) F.qCmdObject obj) F.qCmdObject = obj :=
    getF_last _ _ _ (by decide) hb
  have hp : p < 4 := own_lt h
  unfold qIssue
  rw [h.part]
  have ha : ∃ d, regAt (R.qCmd p) = some (d, [p]) ∧ (blockOf d.base != 0 && d.perPart && [p].headD 0 == p) = true := by
    interval_cases p <;> exact ⟨_, rfl, by decide⟩
  obtain ⟨d, ha, hd⟩ := ha
  rw [Option.getD_some, access_own h ha hd]
  have h1 : R.qArg p ≠ (Ifc.q p).status := by simp [Ifc.status, R.qArg, R.qStatus]
  have h2 : (dropHeld fn s).fld (R.qArg p) F.qArgIndex = s.fld (R.qArg p) F.qArgIndex := rfl
  unfold qCommand
  simp only [e1, e2, h2]
  rw [issue_takes ht, orHold_acts (by exact hu)]
  exact runChecks_pass hc

theorem burin_takes {op evtOp : Nat} {ecc : Ecc} {d : Dma} (h : s.Owns fn p) (ht : s.Takes (.burin p)) (ho : op < 6)
    (hb : evtOp < 256)
    (hc : Passes (burinChecks (s.taken fn (.burin p) op p) p op (s.fld (R.burinArg p) F.burinArgSession))) :
    burinIssue fn op evtOp ecc d s =
      burinPerform p op (s.fld (R.burinArg p) F.burinArgSession) evtOp ecc (s.taken fn (.burin p) op p) := by
  have e1 : getF (setF (setF 0 F.burinCmdOpcode op) F.burinCmdEvtOp evtOp) F.burinCmdOpcode = op := by
    rw [getF_setF_ne _ _ _ _ (by decide) (by decide) (by decide),
      getF_one _ _ (by decide) (by simp [fldWidth, F.burinCmdOpcode]; omega)]
  have e2 : getF (setF (setF 0 F.burinCmdOpcode op) F.burinCmdEvtOp evtOp) F.burinCmdEvtOp = evtOp :=
    getF_last _ _ _ (by decide) hb
  have hp : p < 4 := own_lt h
  have h6 : op ≠ 6 := by omega
  have hst : R.burinArg p ≠ (Ifc.burin p).status := by simp [Ifc.status, R.burinArg, R.burinStatus]
  unfold burinIssue
  rw [h.part]
  have ha : ∃ d, regAt (R.burinCmd p) = some (d, [p]) ∧ (blockOf d.base != 0 && d.perPart && [p].headD 0 == p) = true := by
    interval_cases p <;> exact ⟨_, rfl, by decide⟩
  obtain ⟨d, ha, hd⟩ := ha
  rw [Option.getD_some, access_own h ha hd]
  unfold burinCommand
  simp only [e1, e2]
  rw [issue_takes ht, if_neg h6]
  simp only [State.fld, taken_rd hst]
  exact runChecks_pass hc

theorem burinLoad_takes {d : Dma} (h : s.Owns fn p) (ht : s.Takes (.burin p)) :
    burinIssue fn 6 0 .ok d s = burinLoad fn p d (s.taken fn (.burin p) 6 p) := by
  have hp : p < 4 := own_lt h
  unfold burinIssue
  rw [h.part]
  have ha : ∃ d, regAt (R.burinCmd p) = some (d, [p]) ∧ (blockOf d.base != 0 && d.perPart && [p].headD 0 == p) = true := by
    interval_cases p <;> exact ⟨_, rfl, by decide⟩
  obtain ⟨d, ha, hd⟩ := ha
  rw [Option.getD_some, access_own h ha hd]
  have e1 : getF (setF (setF 0 F.burinCmdOpcode 6) F.burinCmdEvtOp 0) F.burinCmdOpcode = 6 := by decide
  unfold burinCommand
  simp only [e1, if_true]
  exact issue_takes ht

theorem mbx_takes {act : Nat → State → State} (h : s.Owns fn p) (hb : s.busy (.mbx p) = false)
    (hu : s.boot.stewardUp = true) (hr : s.boot.restarting = false) :
    mbxDo fn act s = act p (s.taken fn (.mbx p) 0 p) := by
  have hp : p < 4 := own_lt h
  unfold mbxDo
  rw [h.part]
  have ha : ∃ d, regAt (R.mbxCmd p) = some (d, [p]) ∧ (blockOf d.base != 0 && d.perPart && [p].headD 0 == p) = true := by
    interval_cases p <;> exact ⟨_, rfl, by decide⟩
  obtain ⟨d, ha, hd⟩ := ha
  rw [Option.getD_some, access_own h ha hd]
  have h1 : (accept (.mbx p) 0 p (dropHeld fn s)).boot.stewardUp = true := hu
  have h2 : (accept (.mbx p) 0 p (dropHeld fn s)).boot.restarting = false := hr
  have h3 : (dropHeld fn s).busy (.mbx p) = false := hb
  unfold mbxIssue
  simp [h1, h2, h3, State.taken]

/-! ### The seal engine and the update controller -/

theorem seal_takes {op slot : Nat} {ecc : Ecc} {act : Nat → State → State} (h : s.MayWrite fn p 12)
    (hh : s.holder = p) (ht : s.Takes .sealE) (hs : s.slotOk p slot = true) :
    sealIssue fn op slot ecc act s = slotRead slot ecc (act p) ((s.taken fn .sealE op p).wr R.sealBytesOut 0) := by
  unfold sealIssue
  rw [access_block h (d := _) (ix := _) rfl (by decide) (by decide)]
  have hd : (dropHeld fn s).holder = p := hh
  simp only [hd, bne_self_eq_false, Bool.false_eq_true, if_false]
  rw [issue_takes ht]
  have hp : p < 4 := own_lt h.toOwns
  have : ((s.taken fn .sealE op p).wr R.sealBytesOut 0).slotOk p slot = true := by
    unfold State.slotOk State.pmap at hs ⊢
    rw [State.rd_wr_ne, taken_rd]
    · exact hs
    · simp [Ifc.status, R.pmap, R.sealStatus]; omega
    · simp [R.pmap, R.sealBytesOut]; omega
  have h0 : ([(((s.taken fn .sealE op p).wr R.sealBytesOut 0).slotOk p slot, Code.denied)].find? fun c => !c.1) = none := by
    rw [this]; rfl
  show sealChecks fn _ _ _ = _
  unfold sealChecks
  rw [h0]

/-- An update command past the checks of R441 and R445. -/
theorem upd_takes {op comp : Nat} {act : Nat → State → State} (h : s.MayWrite fn p 13) (hr : s.right p Right.update = true)
    (ht : s.Takes .upd) (hs : s.boot.restarting = false)
    (hw : s.switching = false) (ho : 2 ≤ op ∧ op ≤ 7) (hh : s.updHolder = p)
    (hc : op = 2 → 1 ≤ comp ∧ comp ≤ 5)
    (ha : updAllowed s op p = true) :
    updIssue fn op comp act s =
      act p { s.taken fn .upd op p with upd := { s.upd with lastCmd := s.now } } := by
  have hp : p < 4 := own_lt h.toOwns
  have hR : (s.taken fn .upd op p).right p Right.update = true := by
    unfold State.right State.pmap at hr ⊢
    rw [taken_rd]
    · exact hr
    · simp [Ifc.status, R.pmap, R.updStatus]; omega
  have hH : (s.taken fn .upd op p).updHolder = p := by
    unfold State.updHolder State.fld at hh ⊢
    rw [taken_rd (by decide)]; exact hh
  have hA : updAllowed { s.taken fn .upd op p with upd := { s.upd with lastCmd := s.now } } op p = true := by
    have h1 : ({ s.taken fn .upd op p with upd := { s.upd with lastCmd := s.now } } : State).updState = s.updState := by
      show (s.taken fn .upd op p).updState = s.updState
      unfold State.updState State.fld
      rw [taken_rd (by decide)]
    have h2 : ({ s.taken fn .upd op p with upd := { s.upd with lastCmd := s.now } } : State).updHolder = s.updHolder := by
      rw [hh]; exact hH
    unfold updAllowed at ha ⊢
    rw [h1, h2]; exact ha
  unfold updIssue
  rw [access_block h (d := _) (ix := _) rfl (by decide) (by decide)]
  unfold updCommand
  rw [issue_takes ht]
  have hu : doIf ((s.taken fn .upd op p).updHolder == p)
      (fun t => { t with upd := { t.upd with lastCmd := t.now } }) (s.taken fn .upd op p) =
      { s.taken fn .upd op p with upd := { s.upd with lastCmd := s.now } } := by
    rw [hH, beq_self_eq_true]; rfl
  have e2 : (p != 7 && p != p) = false := by simp
  have e3 : op ≠ 1 := by omega
  have e4 : (p == 7) = false := by simp; omega
  have hb' : ({ s.taken fn .upd op p with upd := { s.upd with lastCmd := s.now } } : State).boot.restarting = false := hs
  have hw' : ({ s.taken fn .upd op p with upd := { s.upd with lastCmd := s.now } } : State).switching = false := hw
  have hR' : ({ s.taken fn .upd op p with upd := { s.upd with lastCmd := s.now } } : State).right p Right.update = true := hR
  dsimp only
  rw [hu, hH, if_neg (by rw [hb', hw']; decide), if_neg (by simp; omega), if_neg (by rw [hR']; decide),
    if_neg (by rw [e2]; decide), if_neg e3, if_pos hA, e4]
  rfl

end Sys2Proof.Machine
end

