-- ==== Sys2Proof/Laws/Kept.lean ====
section
/-! SUPPORT. The form in which it is shown of every operation that it keeps the sound state and leaves the queue, the
owner configuration and what has left the device alone. -/

namespace Sys2Proof.Machine

/-- What every operation keeps: `kl` waiting commands, `ko` the owner configuration, `ku` what has left the device. -/
structure Kept (kl : List Instr) (ko : List OwnerCfg) (ku : List Out) (s : State) : Prop where
  regs  : SMapWf regReset s.regs
  queue : s.pending = kl
  owner : s.flash.owner = ko
  erqF  : s.host.erqF.length ≤ 64
  erqT  : s.host.erqT.length ≤ 64
  said  : ku <:+ s.outs

variable {kl : List Instr} {ko : List OwnerCfg} {ku : List Out} {s : State}

/-- An update of any other field keeps it. -/
theorem Kept.upd {regs now freeCtr outs pending host boot brFT brTF tap pkts line plate ppm tbl asa bpm q burin flash cuts cutAt upd
    sealSt pwr fab cal twin} (h : Kept kl ko ku s) (hr : regs = s.regs) (ho : outs = s.outs) (hp : pending = s.pending)
    (hf : host.erqF = s.host.erqF) (ht : host.erqT = s.host.erqT) (hw : flash.owner = s.flash.owner) :
    Kept kl ko ku ⟨regs, now, freeCtr, outs, pending, host, boot, brFT, brTF, tap, pkts, line, plate, ppm, tbl, asa, bpm, q,
      burin, flash, cuts, cutAt, upd, sealSt, pwr, fab, cal, twin⟩ :=
  ⟨hr ▸ h.regs, hp ▸ h.queue, hw ▸ h.owner, hf ▸ h.erqF, ht ▸ h.erqT, ho ▸ h.said⟩

/-- A value on the way that is kept may be taken for any kept state. -/
theorem Kept.gen {x : State} (hv : Kept kl ko ku x) {P : Prop} (hb : Kept kl ko ku x → P) : P := hb hv

theorem Kept.ite {c : Prop} [Decidable c] {a b : State} (ha : c → Kept kl ko ku a) (hb : ¬c → Kept kl ko ku b) :
    Kept kl ko ku (if c then a else b) := by
  by_cases h : c
  · rw [if_pos h]; exact ha h
  · rw [if_neg h]; exact hb h

theorem Kept.ofFst {α : Type _} {p : State × α} {a : State} {b : α} (h : Kept kl ko ku p.1) (e : p = (a, b)) :
    Kept kl ko ku a := by subst e; exact h

theorem Kept.ofSnd {α : Type _} {p : α × State} {a : State} {b : α} (h : Kept kl ko ku p.2) (e : p = (b, a)) :
    Kept kl ko ku a := by subst e; exact h

theorem kept_wr (off : Nat) (v : Word) (h : Kept kl ko ku s) : Kept kl ko ku (s.wr off v) :=
  ⟨h.regs.put, h.queue, h.owner, h.erqF, h.erqT, h.said⟩

theorem kept_emit (x : Out) (h : Kept kl ko ku s) : Kept kl ko ku (s.emit x) :=
  ⟨h.regs, h.queue, h.owner, h.erqF, h.erqT, h.said.trans (List.suffix_cons _ _)⟩

theorem kept_doIf {b : Bool} {f : State → State} (hf : ∀ s, Kept kl ko ku s → Kept kl ko ku (f s)) (h : Kept kl ko ku s) :
    Kept kl ko ku (doIf b f s) := by cases b <;> [exact h; exact hf s h]

theorem kept_forEach {α : Type} {f : α → State → State} {as : List α}
    (hf : ∀ a s, Kept kl ko ku s → Kept kl ko ku (f a s)) (h : Kept kl ko ku s) : Kept kl ko ku (forEach as f s) := by
  unfold forEach
  induction as generalizing s with
  | nil => exact h
  | cons a as ih => exact ih (hf a s h)

theorem mergeRec_length {unit code now : Nat} {q q' : List ErqRec} (h : mergeRec unit code now q = some q') :
    q'.length = q.length := by
  induction q generalizing q' with
  | nil => simp [mergeRec] at h
  | cons r rs ih =>
    simp only [mergeRec] at h
    split at h
    · cases h; rfl
    · cases hm : mergeRec unit code now rs with
      | none => simp [hm] at h
      | some x => simp only [hm, Option.map_some, Option.some.injEq] at h; subst h; simp [ih hm]

theorem kept_setErq {d : Die} {q : List ErqRec} (hq : q.length ≤ 64) (h : Kept kl ko ku s) : Kept kl ko ku (setErq d q s) := by
  cases d
  · exact ⟨h.regs, h.queue, h.owner, hq, h.erqT, h.said⟩
  · exact ⟨h.regs, h.queue, h.owner, h.erqF, hq, h.said⟩

theorem Kept.erqLen (h : Kept kl ko ku s) (d : Die) : (s.erq d).length ≤ 64 := by cases d <;> [exact h.erqF; exact h.erqT]

end Sys2Proof.Machine
end

