-- ==== Sys2Proof/Laws/KeptOps.lean ====
section
/-! SUPPORT. Every operation of the modules named below keeps what Kept says:
Ops, Operands, Bridge, Line, Rings, Parser, Tables. -/

namespace Sys2Proof.Machine

set_option linter.unreachableTactic false
set_option linter.unusedTactic false
set_option linter.unusedVariables false

variable {kl : List Instr} {ko : List OwnerCfg} {ku : List Out} {s : State}

theorem kept_setFld {off : Nat} {f : Fld} {v : Nat} (h0 : Kept kl ko ku s) :
    Kept kl ko ku (s.setFld off f v) := by
  unfold State.setFld
  repeat' first
    | with_reducible assumption | with_reducible refine Kept.ite (fun _ => ?_) (fun _ => ?_)
    | with_reducible apply kept_wr | fail_if_no_progress (with_reducible refine Kept.upd ?_ rfl rfl rfl rfl rfl rfl)
    | split | with_reducible refine Kept.ofFst ?_ (by assumption)
    | with_reducible refine Kept.ofSnd ?_ (by assumption) | (clear_value *; split)

theorem kept_bump {off n : Nat} (h0 : Kept kl ko ku s) :
    Kept kl ko ku (s.bump off n) := by
  unfold State.bump
  repeat' first
    | with_reducible assumption | with_reducible refine Kept.ite (fun _ => ?_) (fun _ => ?_)
    | with_reducible apply kept_wr | fail_if_no_progress (with_reducible refine Kept.upd ?_ rfl rfl rfl rfl rfl rfl)
    | split | with_reducible refine Kept.ofFst ?_ (by assumption)
    | with_reducible refine Kept.ofSnd ?_ (by assumption) | (clear_value *; split)

theorem kept_inc {off : Nat} (h0 : Kept kl ko ku s) :
    Kept kl ko ku (s.inc off) := by
  unfold State.inc
  repeat' first
    | with_reducible assumption | with_reducible refine Kept.ite (fun _ => ?_) (fun _ => ?_)
    | with_reducible refine kept_bump ?_
    | fail_if_no_progress (with_reducible refine Kept.upd ?_ rfl rfl rfl rfl rfl rfl) | split
    | with_reducible refine Kept.ofFst ?_ (by assumption) | with_reducible refine Kept.ofSnd ?_ (by assumption)
    | (clear_value *; split)

theorem kept_sendMsi {p src : Nat} (h0 : Kept kl ko ku s) :
    Kept kl ko ku (sendMsi p src s) := by
  unfold sendMsi
  repeat' first
    | with_reducible assumption | with_reducible refine Kept.ite (fun _ => ?_) (fun _ => ?_)
    | (intro x; with_reducible refine Kept.gen (kl := kl) (ko := ko) (ku := ku) (x := x) ?_ ?_; (on_goal 1 => unfold x); (on_goal 2 => (intro _; clear_value x)))
    | (intro x; (have t : Nat := x; clear t); clear_value x) | (intro x) | lift_lets -underBinder
    | with_reducible apply kept_emit | fail_if_no_progress (with_reducible refine Kept.upd ?_ rfl rfl rfl rfl rfl rfl)
    | split | with_reducible refine Kept.ofFst ?_ (by assumption) | with_reducible refine Kept.ofSnd ?_ (by assumption)
    | (clear_value *; split)

theorem kept_intWrite {p src0 n statOff enOff : Nat} {stat en : Word} (h0 : Kept kl ko ku s) :
    Kept kl ko ku (intWrite p src0 n statOff enOff stat en s) := by
  unfold intWrite
  repeat' first
    | with_reducible assumption | with_reducible refine Kept.ite (fun _ => ?_) (fun _ => ?_)
    | (intro x; with_reducible refine Kept.gen (kl := kl) (ko := ko) (ku := ku) (x := x) ?_ ?_; (on_goal 1 => unfold x); (on_goal 2 => (intro _; clear_value x)))
    | (intro x; (have t : Nat := x; clear t); clear_value x) | (intro x) | lift_lets -underBinder
    | with_reducible refine kept_doIf (fun _ _ => ?_) ?_ | with_reducible refine kept_forEach (fun _ _ _ => ?_) ?_
    | with_reducible apply kept_wr | with_reducible refine kept_sendMsi ?_
    | fail_if_no_progress (with_reducible refine Kept.upd ?_ rfl rfl rfl rfl rfl rfl) | split
    | with_reducible refine Kept.ofFst ?_ (by assumption) | with_reducible refine Kept.ofSnd ?_ (by assumption)
    | (clear_value *; split)

theorem kept_raiseSrc {p src : Nat} (h0 : Kept kl ko ku s) :
    Kept kl ko ku (raiseSrc p src s) := by
  unfold raiseSrc
  repeat' first
    | with_reducible assumption | with_reducible refine Kept.ite (fun _ => ?_) (fun _ => ?_)
    | with_reducible refine kept_intWrite ?_
    | fail_if_no_progress (with_reducible refine Kept.upd ?_ rfl rfl rfl rfl rfl rfl) | split
    | with_reducible refine Kept.ofFst ?_ (by assumption) | with_reducible refine Kept.ofSnd ?_ (by assumption)
    | (clear_value *; split)

theorem kept_raiseBlock {src blk : Nat} (h0 : Kept kl ko ku s) :
    Kept kl ko ku (raiseBlock src blk s) := by
  unfold raiseBlock
  repeat' first
    | with_reducible assumption | with_reducible refine Kept.ite (fun _ => ?_) (fun _ => ?_)
    | with_reducible refine kept_doIf (fun _ _ => ?_) ?_ | with_reducible refine kept_forEach (fun _ _ _ => ?_) ?_
    | with_reducible refine kept_raiseSrc ?_
    | fail_if_no_progress (with_reducible refine Kept.upd ?_ rfl rfl rfl rfl rfl rfl) | split
    | with_reducible refine Kept.ofFst ?_ (by assumption) | with_reducible refine Kept.ofSnd ?_ (by assumption)
    | (clear_value *; split)

theorem kept_raiseRight {src right : Nat} (h0 : Kept kl ko ku s) :
    Kept kl ko ku (raiseRight src right s) := by
  unfold raiseRight
  repeat' first
    | with_reducible assumption | with_reducible refine Kept.ite (fun _ => ?_) (fun _ => ?_)
    | with_reducible refine kept_doIf (fun _ _ => ?_) ?_ | with_reducible refine kept_forEach (fun _ _ _ => ?_) ?_
    | with_reducible refine kept_raiseSrc ?_
    | fail_if_no_progress (with_reducible refine Kept.upd ?_ rfl rfl rfl rfl rfl rfl) | split
    | with_reducible refine Kept.ofFst ?_ (by assumption) | with_reducible refine Kept.ofSnd ?_ (by assumption)
    | (clear_value *; split)

theorem kept_raiseFatal {src : Nat} (h0 : Kept kl ko ku s) :
    Kept kl ko ku (raiseFatal src s) := by
  unfold raiseFatal
  repeat' first
    | with_reducible assumption | with_reducible refine Kept.ite (fun _ => ?_) (fun _ => ?_)
    | (intro x; with_reducible refine Kept.gen (kl := kl) (ko := ko) (ku := ku) (x := x) ?_ ?_; (on_goal 1 => unfold x); (on_goal 2 => (intro _; clear_value x)))
    | (intro x; (have t : Nat := x; clear t); clear_value x) | (intro x) | lift_lets -underBinder
    | with_reducible refine kept_forEach (fun _ _ _ => ?_) ?_ | with_reducible apply kept_wr
    | with_reducible refine kept_sendMsi ?_
    | fail_if_no_progress (with_reducible refine Kept.upd ?_ rfl rfl rfl rfl rfl rfl) | split
    | with_reducible refine Kept.ofFst ?_ (by assumption) | with_reducible refine Kept.ofSnd ?_ (by assumption)
    | (clear_value *; split)

theorem kept_mfPulse (h0 : Kept kl ko ku s) :
    Kept kl ko ku (mfPulse s) := by
  unfold mfPulse
  repeat' first
    | with_reducible assumption | with_reducible refine Kept.ite (fun _ => ?_) (fun _ => ?_)
    | with_reducible apply kept_emit | fail_if_no_progress (with_reducible refine Kept.upd ?_ rfl rfl rfl rfl rfl rfl)
    | split | with_reducible refine Kept.ofFst ?_ (by assumption) | with_reducible refine Kept.ofSnd ?_ (by assumption)
    | (clear_value *; split)

theorem kept_twinTo {st : Nat} (h0 : Kept kl ko ku s) :
    Kept kl ko ku (twinTo st s) := by
  unfold twinTo
  repeat' first
    | with_reducible assumption | with_reducible refine Kept.ite (fun _ => ?_) (fun _ => ?_)
    | (intro x; with_reducible refine Kept.gen (kl := kl) (ko := ko) (ku := ku) (x := x) ?_ ?_; (on_goal 1 => unfold x); (on_goal 2 => (intro _; clear_value x)))
    | (intro x; (have t : Nat := x; clear t); clear_value x) | (intro x) | lift_lets -underBinder
    | with_reducible refine kept_doIf (fun _ _ => ?_) ?_ | with_reducible refine kept_setFld ?_
    | with_reducible refine kept_raiseBlock ?_
    | fail_if_no_progress (with_reducible refine Kept.upd ?_ rfl rfl rfl rfl rfl rfl) | split
    | with_reducible refine Kept.ofFst ?_ (by assumption) | with_reducible refine Kept.ofSnd ?_ (by assumption)
    | (clear_value *; split)

theorem kept_twinFall (h0 : Kept kl ko ku s) :
    Kept kl ko ku (twinFall s) := by
  unfold twinFall
  repeat' first
    | with_reducible assumption | with_reducible refine Kept.ite (fun _ => ?_) (fun _ => ?_)
    | with_reducible refine kept_twinTo ?_
    | fail_if_no_progress (with_reducible refine Kept.upd ?_ rfl rfl rfl rfl rfl rfl) | split
    | with_reducible refine Kept.ofFst ?_ (by assumption) | with_reducible refine Kept.ofSnd ?_ (by assumption)
    | (clear_value *; split)

theorem kept_report {d : Die} {cls inst : Nat} {sev : Sev} {code : Nat} {items : List (Nat × Nat)} (h : Kept kl ko ku s) :
    Kept kl ko ku (report d cls inst sev code items s) := by
  unfold report
  extract_lets unit cw now r n s1 q merged s2
  have h1 : Kept kl ko ku s1 := by
    refine kept_doIf (fun s hs => ?_) h
    exact kept_forEach (fun _ _ hs => kept_wr _ _ hs) (kept_setFld hs)
  have h2 : Kept kl ko ku s2 := by
    unfold s2
    rcases hm : merged with _ | q' <;> dsimp only
    · split
      · next hq => exact kept_setErq (by simp; omega) h1
      · exact kept_inc (kept_setFld h1)
    · exact kept_setErq (by rw [mergeRec_length hm]; exact h1.erqLen d) h1
  split
  · exact kept_doIf (fun _ hs => kept_twinFall hs) (kept_raiseFatal h2)
  · exact kept_doIf (fun _ hs => kept_raiseBlock hs) h2

theorem kept_denied {fn : Fn} {off acc : Nat} (h0 : Kept kl ko ku s) :
    Kept kl ko ku (denied fn off acc s) := by
  unfold denied
  repeat' first
    | with_reducible assumption | with_reducible refine Kept.ite (fun _ => ?_) (fun _ => ?_)
    | with_reducible refine kept_report ?_
    | fail_if_no_progress (with_reducible refine Kept.upd ?_ rfl rfl rfl rfl rfl rfl) | split
    | with_reducible refine Kept.ofFst ?_ (by assumption) | with_reducible refine Kept.ofSnd ?_ (by assumption)
    | (clear_value *; split)

theorem kept_quiesceLog {fn : Fn} {off acc : Nat} (h0 : Kept kl ko ku s) :
    Kept kl ko ku (quiesceLog fn off acc s) := by
  unfold quiesceLog
  repeat' first
    | with_reducible assumption | with_reducible refine Kept.ite (fun _ => ?_) (fun _ => ?_)
    | with_reducible refine kept_report ?_
    | fail_if_no_progress (with_reducible refine Kept.upd ?_ rfl rfl rfl rfl rfl rfl) | split
    | with_reducible refine Kept.ofFst ?_ (by assumption) | with_reducible refine Kept.ofSnd ?_ (by assumption)
    | (clear_value *; split)

theorem kept_dropHeld {fn : Fn} (h0 : Kept kl ko ku s) :
    Kept kl ko ku (dropHeld fn s) := by
  unfold dropHeld
  repeat' first
    | with_reducible assumption | with_reducible refine Kept.ite (fun _ => ?_) (fun _ => ?_)
    | (intro x; with_reducible refine Kept.gen (kl := kl) (ko := ko) (ku := ku) (x := x) ?_ ?_; (on_goal 1 => unfold x); (on_goal 2 => (intro _; clear_value x)))
    | (intro x; (have t : Nat := x; clear t); clear_value x) | (intro x) | lift_lets -underBinder
    | fail_if_no_progress (with_reducible refine Kept.upd ?_ rfl rfl rfl rfl rfl rfl) | split
    | with_reducible refine Kept.ofFst ?_ (by assumption) | with_reducible refine Kept.ofSnd ?_ (by assumption)
    | (clear_value *; split)

theorem kept_access {fn : Fn} {off acc : Nat} {k : Nat → RegDesc → List Nat → State → State} (hk : ∀ x0 x1 x2 s, Kept kl ko ku s → Kept kl ko ku (k x0 x1 x2 s)) (h0 : Kept kl ko ku s) :
    Kept kl ko ku (access fn off acc k s) := by
  unfold access
  repeat' first
    | with_reducible assumption | with_reducible refine Kept.ite (fun _ => ?_) (fun _ => ?_)
    | (intro x; with_reducible refine Kept.gen (kl := kl) (ko := ko) (ku := ku) (x := x) ?_ ?_; (on_goal 1 => unfold x); (on_goal 2 => (intro _; clear_value x)))
    | (intro x; (have t : Nat := x; clear t); clear_value x) | (intro x) | lift_lets -underBinder
    | with_reducible refine hk _ _ _ _ ?_ | with_reducible refine kept_denied ?_
    | with_reducible refine kept_dropHeld ?_
    | fail_if_no_progress (with_reducible refine Kept.upd ?_ rfl rfl rfl rfl rfl rfl) | split
    | with_reducible refine Kept.ofFst ?_ (by assumption) | with_reducible refine Kept.ofSnd ?_ (by assumption)
    | (clear_value *; split)

theorem kept_doneIrq {i : Ifc} (h0 : Kept kl ko ku s) :
    Kept kl ko ku (doneIrq i s) := by
  unfold doneIrq
  repeat' first
    | with_reducible assumption | with_reducible refine Kept.ite (fun _ => ?_) (fun _ => ?_)
    | (intro x; with_reducible refine Kept.gen (kl := kl) (ko := ko) (ku := ku) (x := x) ?_ ?_; (on_goal 1 => unfold x); (on_goal 2 => (intro _; clear_value x)))
    | (intro x; (have t : Nat := x; clear t); clear_value x) | (intro x) | lift_lets -underBinder
    | with_reducible refine kept_doIf (fun _ _ => ?_) ?_ | with_reducible refine kept_raiseSrc ?_
    | with_reducible refine kept_raiseBlock ?_ | with_reducible refine kept_raiseRight ?_
    | fail_if_no_progress (with_reducible refine Kept.upd ?_ rfl rfl rfl rfl rfl rfl) | split
    | with_reducible refine Kept.ofFst ?_ (by assumption) | with_reducible refine Kept.ofSnd ?_ (by assumption)
    | (clear_value *; split)

theorem kept_accept {i : Ifc} {op p : Nat} (h0 : Kept kl ko ku s) :
    Kept kl ko ku (accept i op p s) := by
  unfold accept
  repeat' first
    | with_reducible assumption | with_reducible refine Kept.ite (fun _ => ?_) (fun _ => ?_)
    | (intro x; with_reducible refine Kept.gen (kl := kl) (ko := ko) (ku := ku) (x := x) ?_ ?_; (on_goal 1 => unfold x); (on_goal 2 => (intro _; clear_value x)))
    | (intro x; (have t : Nat := x; clear t); clear_value x) | (intro x) | lift_lets -underBinder
    | with_reducible apply kept_wr | fail_if_no_progress (with_reducible refine Kept.upd ?_ rfl rfl rfl rfl rfl rfl)
    | split | with_reducible refine Kept.ofFst ?_ (by assumption)
    | with_reducible refine Kept.ofSnd ?_ (by assumption) | (clear_value *; split)

theorem kept_complete {i : Ifc} {code detail : Nat} (h0 : Kept kl ko ku s) :
    Kept kl ko ku (complete i code detail s) := by
  unfold complete
  repeat' first
    | with_reducible assumption | with_reducible refine Kept.ite (fun _ => ?_) (fun _ => ?_)
    | (intro x; with_reducible refine Kept.gen (kl := kl) (ko := ko) (ku := ku) (x := x) ?_ ?_; (on_goal 1 => unfold x); (on_goal 2 => (intro _; clear_value x)))
    | (intro x; (have t : Nat := x; clear t); clear_value x) | (intro x) | lift_lets -underBinder
    | with_reducible apply kept_wr | with_reducible refine kept_doneIrq ?_
    | fail_if_no_progress (with_reducible refine Kept.upd ?_ rfl rfl rfl rfl rfl rfl) | split
    | with_reducible refine Kept.ofFst ?_ (by assumption) | with_reducible refine Kept.ofSnd ?_ (by assumption)
    | (clear_value *; split)

theorem kept_overrun {i : Ifc} (h0 : Kept kl ko ku s) :
    Kept kl ko ku (overrun i s) := by
  unfold overrun
  repeat' first
    | with_reducible assumption | with_reducible refine Kept.ite (fun _ => ?_) (fun _ => ?_)
    | with_reducible refine kept_setFld ?_
    | fail_if_no_progress (with_reducible refine Kept.upd ?_ rfl rfl rfl rfl rfl rfl) | split
    | with_reducible refine Kept.ofFst ?_ (by assumption) | with_reducible refine Kept.ofSnd ?_ (by assumption)
    | (clear_value *; split)

theorem kept_flashTo {f : FlashSt → FlashSt} (hf : ∀ x : FlashSt, (f x).owner = x.owner) (h : Kept kl ko ku s) :
    Kept kl ko ku (flashTo f s) :=
  ⟨h.regs, h.queue, (hf _).trans h.owner, h.erqF, h.erqT, h.said⟩

theorem kept_orHold {h : HeldCmd} {act : State → State} (hact : ∀ s, Kept kl ko ku s → Kept kl ko ku (act s)) (h0 : Kept kl ko ku s) :
    Kept kl ko ku (orHold h act s) := by
  unfold orHold
  repeat' first
    | with_reducible assumption | with_reducible refine Kept.ite (fun _ => ?_) (fun _ => ?_)
    | with_reducible refine hact _ ?_ | fail_if_no_progress (with_reducible refine Kept.upd ?_ rfl rfl rfl rfl rfl rfl)
    | split | with_reducible refine Kept.ofFst ?_ (by assumption) | with_reducible refine Kept.ofSnd ?_ (by assumption)
    | (clear_value *; split)

theorem kept_issue {i : Ifc} {op p : Nat} {act : State → State} (hact : ∀ s, Kept kl ko ku s → Kept kl ko ku (act s)) (h0 : Kept kl ko ku s) :
    Kept kl ko ku (issue i op p act s) := by
  unfold issue
  repeat' first
    | with_reducible assumption | with_reducible refine Kept.ite (fun _ => ?_) (fun _ => ?_)
    | (intro x; with_reducible refine Kept.gen (kl := kl) (ko := ko) (ku := ku) (x := x) ?_ ?_; (on_goal 1 => unfold x); (on_goal 2 => (intro _; clear_value x)))
    | (intro x; (have t : Nat := x; clear t); clear_value x) | (intro x) | lift_lets -underBinder
    | with_reducible refine hact _ ?_ | with_reducible refine kept_accept ?_
    | with_reducible refine kept_complete ?_ | with_reducible refine kept_overrun ?_
    | fail_if_no_progress (with_reducible refine Kept.upd ?_ rfl rfl rfl rfl rfl rfl) | split
    | with_reducible refine Kept.ofFst ?_ (by assumption) | with_reducible refine Kept.ofSnd ?_ (by assumption)
    | (clear_value *; split)

theorem kept_failCmd {i : Ifc} {fn : Fn} {code : Nat} (h0 : Kept kl ko ku s) :
    Kept kl ko ku (failCmd i fn code s) := by
  unfold failCmd
  repeat' first
    | with_reducible assumption | with_reducible refine Kept.ite (fun _ => ?_) (fun _ => ?_)
    | with_reducible refine kept_doIf (fun _ _ => ?_) ?_ | with_reducible refine kept_denied ?_
    | with_reducible refine kept_complete ?_
    | fail_if_no_progress (with_reducible refine Kept.upd ?_ rfl rfl rfl rfl rfl rfl) | split
    | with_reducible refine Kept.ofFst ?_ (by assumption) | with_reducible refine Kept.ofSnd ?_ (by assumption)
    | (clear_value *; split)

theorem kept_runChecks {i : Ifc} {fn : Fn} {checks : List (Bool × Nat)} {act : State → State} (hact : ∀ s, Kept kl ko ku s → Kept kl ko ku (act s)) (h0 : Kept kl ko ku s) :
    Kept kl ko ku (runChecks i fn checks act s) := by
  unfold runChecks
  repeat' first
    | with_reducible assumption | with_reducible refine Kept.ite (fun _ => ?_) (fun _ => ?_)
    | (intro x; with_reducible refine Kept.gen (kl := kl) (ko := ko) (ku := ku) (x := x) ?_ ?_; (on_goal 1 => unfold x); (on_goal 2 => (intro _; clear_value x)))
    | (intro x; (have t : Nat := x; clear t); clear_value x) | (intro x) | lift_lets -underBinder
    | with_reducible refine hact _ ?_ | with_reducible refine kept_failCmd ?_
    | fail_if_no_progress (with_reducible refine Kept.upd ?_ rfl rfl rfl rfl rfl rfl) | split
    | with_reducible refine Kept.ofFst ?_ (by assumption) | with_reducible refine Kept.ofSnd ?_ (by assumption)
    | (clear_value *; split)

theorem kept_setData {off : Nat → Nat} {n : Nat} {b : Bytes} (h0 : Kept kl ko ku s) :
    Kept kl ko ku (setData off n b s) := by
  unfold setData
  repeat' first
    | with_reducible assumption | with_reducible refine Kept.ite (fun _ => ?_) (fun _ => ?_)
    | with_reducible refine kept_forEach (fun _ _ _ => ?_) ?_ | with_reducible apply kept_wr
    | fail_if_no_progress (with_reducible refine Kept.upd ?_ rfl rfl rfl rfl rfl rfl) | split
    | with_reducible refine Kept.ofFst ?_ (by assumption) | with_reducible refine Kept.ofSnd ?_ (by assumption)
    | (clear_value *; split)

theorem kept_touchPair {p : Packet} (h0 : Kept kl ko ku s) :
    Kept kl ko ku (touchPair p s) := by
  unfold touchPair
  repeat' first
    | with_reducible assumption | with_reducible refine Kept.ite (fun _ => ?_) (fun _ => ?_)
    | (intro x; with_reducible refine Kept.gen (kl := kl) (ko := ko) (ku := ku) (x := x) ?_ ?_; (on_goal 1 => unfold x); (on_goal 2 => (intro _; clear_value x)))
    | (intro x; (have t : Nat := x; clear t); clear_value x) | (intro x) | lift_lets -underBinder
    | fail_if_no_progress (with_reducible refine Kept.upd ?_ rfl rfl rfl rfl rfl rfl) | split
    | with_reducible refine Kept.ofFst ?_ (by assumption) | with_reducible refine Kept.ofSnd ?_ (by assumption)
    | (clear_value *; split)

theorem kept_notePass {role : Nat} (h0 : Kept kl ko ku s) :
    Kept kl ko ku (notePass role s) := by
  unfold notePass
  repeat' first
    | with_reducible assumption | with_reducible refine Kept.ite (fun _ => ?_) (fun _ => ?_)
    | fail_if_no_progress (with_reducible refine Kept.upd ?_ rfl rfl rfl rfl rfl rfl) | split
    | with_reducible refine Kept.ofFst ?_ (by assumption) | with_reducible refine Kept.ofSnd ?_ (by assumption)
    | (clear_value *; split)

theorem kept_touchOld {id : Nat} (h0 : Kept kl ko ku s) :
    Kept kl ko ku (touchOld id s) := by
  unfold touchOld
  repeat' first
    | with_reducible assumption | with_reducible refine Kept.ite (fun _ => ?_) (fun _ => ?_)
    | (intro x; with_reducible refine Kept.gen (kl := kl) (ko := ko) (ku := ku) (x := x) ?_ ?_; (on_goal 1 => unfold x); (on_goal 2 => (intro _; clear_value x)))
    | (intro x; (have t : Nat := x; clear t); clear_value x) | (intro x) | lift_lets -underBinder
    | with_reducible refine kept_touchPair ?_
    | fail_if_no_progress (with_reducible refine Kept.upd ?_ rfl rfl rfl rfl rfl rfl) | split
    | with_reducible refine Kept.ofFst ?_ (by assumption) | with_reducible refine Kept.ofSnd ?_ (by assumption)
    | (clear_value *; split)

theorem kept_setPkt {id : Nat} {p : Packet} (h0 : Kept kl ko ku s) :
    Kept kl ko ku (setPkt id p s) := by
  unfold setPkt
  repeat' first
    | with_reducible assumption | with_reducible refine Kept.ite (fun _ => ?_) (fun _ => ?_)
    | (intro x; with_reducible refine Kept.gen (kl := kl) (ko := ko) (ku := ku) (x := x) ?_ ?_; (on_goal 1 => unfold x); (on_goal 2 => (intro _; clear_value x)))
    | (intro x; (have t : Nat := x; clear t); clear_value x) | (intro x) | lift_lets -underBinder
    | with_reducible refine kept_touchPair ?_ | with_reducible refine kept_touchOld ?_
    | fail_if_no_progress (with_reducible refine Kept.upd ?_ rfl rfl rfl rfl rfl rfl) | split
    | with_reducible refine Kept.ofFst ?_ (by assumption) | with_reducible refine Kept.ofSnd ?_ (by assumption)
    | (clear_value *; split)

theorem kept_erasePkt {id : Nat} (h0 : Kept kl ko ku s) :
    Kept kl ko ku (erasePkt id s) := by
  unfold erasePkt
  repeat' first
    | with_reducible assumption | with_reducible refine Kept.ite (fun _ => ?_) (fun _ => ?_)
    | (intro x; with_reducible refine Kept.gen (kl := kl) (ko := ko) (ku := ku) (x := x) ?_ ?_; (on_goal 1 => unfold x); (on_goal 2 => (intro _; clear_value x)))
    | (intro x; (have t : Nat := x; clear t); clear_value x) | (intro x) | lift_lets -underBinder
    | with_reducible refine kept_touchOld ?_
    | fail_if_no_progress (with_reducible refine Kept.upd ?_ rfl rfl rfl rfl rfl rfl) | split
    | with_reducible refine Kept.ofFst ?_ (by assumption) | with_reducible refine Kept.ofSnd ?_ (by assumption)
    | (clear_value *; split)

theorem kept_newPkt {p : Packet} (h0 : Kept kl ko ku s) :
    Kept kl ko ku (newPkt p s) := by
  unfold newPkt
  repeat' first
    | with_reducible assumption | with_reducible refine Kept.ite (fun _ => ?_) (fun _ => ?_)
    | (intro x; with_reducible refine Kept.gen (kl := kl) (ko := ko) (ku := ku) (x := x) ?_ ?_; (on_goal 1 => unfold x); (on_goal 2 => (intro _; clear_value x)))
    | (intro x; (have t : Nat := x; clear t); clear_value x) | (intro x) | lift_lets -underBinder
    | with_reducible refine kept_touchPair ?_
    | fail_if_no_progress (with_reducible refine Kept.upd ?_ rfl rfl rfl rfl rfl rfl) | split
    | with_reducible refine Kept.ofFst ?_ (by assumption) | with_reducible refine Kept.ofSnd ?_ (by assumption)
    | (clear_value *; split)

theorem kept_setBank {b : Nat} {k : PlateBank} (h0 : Kept kl ko ku s) :
    Kept kl ko ku (setBank b k s) := by
  unfold setBank
  repeat' first
    | with_reducible assumption | with_reducible refine Kept.ite (fun _ => ?_) (fun _ => ?_)
    | (intro x; with_reducible refine Kept.gen (kl := kl) (ko := ko) (ku := ku) (x := x) ?_ ?_; (on_goal 1 => unfold x); (on_goal 2 => (intro _; clear_value x)))
    | (intro x; (have t : Nat := x; clear t); clear_value x) | (intro x) | lift_lets -underBinder
    | fail_if_no_progress (with_reducible refine Kept.upd ?_ rfl rfl rfl rfl rfl rfl) | split
    | with_reducible refine Kept.ofFst ?_ (by assumption) | with_reducible refine Kept.ofSnd ?_ (by assumption)
    | (clear_value *; split)

theorem kept_marker {stream seq : Nat} (h0 : Kept kl ko ku s) :
    Kept kl ko ku (marker stream seq s) := by
  unfold marker
  repeat' first
    | with_reducible assumption | with_reducible refine Kept.ite (fun _ => ?_) (fun _ => ?_)
    | (intro x; with_reducible refine Kept.gen (kl := kl) (ko := ko) (ku := ku) (x := x) ?_ ?_; (on_goal 1 => unfold x); (on_goal 2 => (intro _; clear_value x)))
    | (intro x; (have t : Nat := x; clear t); clear_value x) | (intro x) | lift_lets -underBinder
    | fail_if_no_progress (with_reducible refine Kept.upd ?_ rfl rfl rfl rfl rfl rfl) | split
    | with_reducible refine Kept.ofFst ?_ (by assumption) | with_reducible refine Kept.ofSnd ?_ (by assumption)
    | (clear_value *; split)

theorem kept_leaveHole {id : Nat} (h0 : Kept kl ko ku s) :
    Kept kl ko ku (leaveHole id s) := by
  unfold leaveHole
  repeat' first
    | with_reducible assumption | with_reducible refine Kept.ite (fun _ => ?_) (fun _ => ?_)
    | (intro x; with_reducible refine Kept.gen (kl := kl) (ko := ko) (ku := ku) (x := x) ?_ ?_; (on_goal 1 => unfold x); (on_goal 2 => (intro _; clear_value x)))
    | (intro x; (have t : Nat := x; clear t); clear_value x) | (intro x) | lift_lets -underBinder
    | with_reducible refine kept_doIf (fun _ _ => ?_) ?_ | with_reducible refine kept_erasePkt ?_
    | with_reducible refine kept_marker ?_
    | fail_if_no_progress (with_reducible refine Kept.upd ?_ rfl rfl rfl rfl rfl rfl) | split
    | with_reducible refine Kept.ofFst ?_ (by assumption) | with_reducible refine Kept.ofSnd ?_ (by assumption)
    | (clear_value *; split)

theorem kept_arrive {r id : Nat} (h0 : Kept kl ko ku s) :
    Kept kl ko ku (arrive r id s) := by
  unfold arrive
  repeat' first
    | with_reducible assumption | with_reducible refine Kept.ite (fun _ => ?_) (fun _ => ?_)
    | (intro x; with_reducible refine Kept.gen (kl := kl) (ko := ko) (ku := ku) (x := x) ?_ ?_; (on_goal 1 => unfold x); (on_goal 2 => (intro _; clear_value x)))
    | (intro x; (have t : Nat := x; clear t); clear_value x) | (intro x) | lift_lets -underBinder
    | fail_if_no_progress (with_reducible refine Kept.upd ?_ rfl rfl rfl rfl rfl rfl) | split
    | with_reducible refine Kept.ofFst ?_ (by assumption) | with_reducible refine Kept.ofSnd ?_ (by assumption)
    | (clear_value *; split)

theorem kept_setBridge {dir : Nat} {b : BridgeDir} (h0 : Kept kl ko ku s) :
    Kept kl ko ku (setBridge dir b s) := by
  unfold setBridge
  repeat' first
    | with_reducible assumption | with_reducible refine Kept.ite (fun _ => ?_) (fun _ => ?_)
    | (intro x; with_reducible refine Kept.gen (kl := kl) (ko := ko) (ku := ku) (x := x) ?_ ?_; (on_goal 1 => unfold x); (on_goal 2 => (intro _; clear_value x)))
    | (intro x; (have t : Nat := x; clear t); clear_value x) | (intro x) | lift_lets -underBinder
    | fail_if_no_progress (with_reducible refine Kept.upd ?_ rfl rfl rfl rfl rfl rfl) | split
    | with_reducible refine Kept.ofFst ?_ (by assumption) | with_reducible refine Kept.ofSnd ?_ (by assumption)
    | (clear_value *; split)

theorem kept_bridgeRouted {dir id : Nat} {b : Bytes} (h0 : Kept kl ko ku s) :
    Kept kl ko ku (bridgeRouted dir id b s) := by
  unfold bridgeRouted
  repeat' first
    | with_reducible assumption | with_reducible refine Kept.ite (fun _ => ?_) (fun _ => ?_)
    | (intro x; with_reducible refine Kept.gen (kl := kl) (ko := ko) (ku := ku) (x := x) ?_ ?_; (on_goal 1 => unfold x); (on_goal 2 => (intro _; clear_value x)))
    | (intro x; (have t : Nat := x; clear t); clear_value x) | (intro x) | lift_lets -underBinder
    | with_reducible refine kept_setBridge ?_
    | fail_if_no_progress (with_reducible refine Kept.upd ?_ rfl rfl rfl rfl rfl rfl) | split
    | with_reducible refine Kept.ofFst ?_ (by assumption) | with_reducible refine Kept.ofSnd ?_ (by assumption)
    | (clear_value *; split)

theorem kept_bridgeTail {dir id : Nat} {b : Bytes} (h0 : Kept kl ko ku s) :
    Kept kl ko ku (bridgeTail dir id b s) := by
  unfold bridgeTail
  repeat' first
    | with_reducible assumption | with_reducible refine Kept.ite (fun _ => ?_) (fun _ => ?_)
    | (intro x; with_reducible refine Kept.gen (kl := kl) (ko := ko) (ku := ku) (x := x) ?_ ?_; (on_goal 1 => unfold x); (on_goal 2 => (intro _; clear_value x)))
    | (intro x; (have t : Nat := x; clear t); clear_value x) | (intro x) | lift_lets -underBinder
    | with_reducible refine kept_setBridge ?_ | with_reducible refine kept_bridgeRouted ?_
    | fail_if_no_progress (with_reducible refine Kept.upd ?_ rfl rfl rfl rfl rfl rfl) | split
    | with_reducible refine Kept.ofFst ?_ (by assumption) | with_reducible refine Kept.ofSnd ?_ (by assumption)
    | (clear_value *; split)

theorem kept_bridgeSched {dir : Nat} {b : Bytes} (h0 : Kept kl ko ku s) :
    Kept kl ko ku (bridgeSched dir b s) := by
  unfold bridgeSched
  repeat' first
    | with_reducible assumption | with_reducible refine Kept.ite (fun _ => ?_) (fun _ => ?_)
    | (intro x; with_reducible refine Kept.gen (kl := kl) (ko := ko) (ku := ku) (x := x) ?_ ?_; (on_goal 1 => unfold x); (on_goal 2 => (intro _; clear_value x)))
    | (intro x; (have t : Nat := x; clear t); clear_value x) | (intro x) | lift_lets -underBinder
    | with_reducible refine kept_setBridge ?_
    | fail_if_no_progress (with_reducible refine Kept.upd ?_ rfl rfl rfl rfl rfl rfl) | split
    | with_reducible refine Kept.ofFst ?_ (by assumption) | with_reducible refine Kept.ofSnd ?_ (by assumption)
    | (clear_value *; split)

theorem kept_bridgeRecord {dir chan : Nat} {sev : Sev} {code : Nat} (h0 : Kept kl ko ku s) :
    Kept kl ko ku (bridgeRecord dir chan sev code s) := by
  unfold bridgeRecord
  repeat' first
    | with_reducible assumption | with_reducible refine Kept.ite (fun _ => ?_) (fun _ => ?_)
    | with_reducible refine kept_report ?_
    | fail_if_no_progress (with_reducible refine Kept.upd ?_ rfl rfl rfl rfl rfl rfl) | split
    | with_reducible refine Kept.ofFst ?_ (by assumption) | with_reducible refine Kept.ofSnd ?_ (by assumption)
    | (clear_value *; split)

theorem kept_retireChannel {dir chan : Nat} (h0 : Kept kl ko ku s) :
    Kept kl ko ku (retireChannel dir chan s) := by
  unfold retireChannel
  repeat' first
    | with_reducible assumption | with_reducible refine Kept.ite (fun _ => ?_) (fun _ => ?_)
    | (intro x; with_reducible refine Kept.gen (kl := kl) (ko := ko) (ku := ku) (x := x) ?_ ?_; (on_goal 1 => unfold x); (on_goal 2 => (intro _; clear_value x)))
    | (intro x; (have t : Nat := x; clear t); clear_value x) | (intro x) | lift_lets -underBinder
    | with_reducible refine kept_doIf (fun _ _ => ?_) ?_ | with_reducible refine kept_setBridge ?_
    | with_reducible refine kept_bridgeRecord ?_
    | fail_if_no_progress (with_reducible refine Kept.upd ?_ rfl rfl rfl rfl rfl rfl) | split
    | with_reducible refine Kept.ofFst ?_ (by assumption) | with_reducible refine Kept.ofSnd ?_ (by assumption)
    | (clear_value *; split)

theorem kept_takeFlits {dir id : Nat} (h0 : Kept kl ko ku s) :
    Kept kl ko ku (takeFlits dir id s) := by
  unfold takeFlits
  repeat' first
    | with_reducible assumption | with_reducible refine Kept.ite (fun _ => ?_) (fun _ => ?_)
    | (intro x; with_reducible refine Kept.gen (kl := kl) (ko := ko) (ku := ku) (x := x) ?_ ?_; (on_goal 1 => unfold x); (on_goal 2 => (intro _; clear_value x)))
    | (intro x; (have t : Nat := x; clear t); clear_value x) | (intro x) | lift_lets -underBinder
    | with_reducible refine kept_setBridge ?_
    | fail_if_no_progress (with_reducible refine Kept.upd ?_ rfl rfl rfl rfl rfl rfl) | split
    | with_reducible refine Kept.ofFst ?_ (by assumption) | with_reducible refine Kept.ofSnd ?_ (by assumption)
    | (clear_value *; split)

theorem kept_flitGood {dir seq : Nat} {copy : Bytes} (h0 : Kept kl ko ku s) :
    Kept kl ko ku (flitGood dir seq copy s) := by
  unfold flitGood
  repeat' first
    | with_reducible assumption | with_reducible refine Kept.ite (fun _ => ?_) (fun _ => ?_)
    | (intro x; with_reducible refine Kept.gen (kl := kl) (ko := ko) (ku := ku) (x := x) ?_ ?_; (on_goal 1 => unfold x); (on_goal 2 => (intro _; clear_value x)))
    | (intro x; (have t : Nat := x; clear t); clear_value x) | (intro x) | lift_lets -underBinder
    | with_reducible apply kept_emit | with_reducible refine kept_setBridge ?_
    | fail_if_no_progress (with_reducible refine Kept.upd ?_ rfl rfl rfl rfl rfl rfl) | split
    | with_reducible refine Kept.ofFst ?_ (by assumption) | with_reducible refine Kept.ofSnd ?_ (by assumption)
    | (clear_value *; split)

theorem kept_flitBad {dir chan seq : Nat} (h0 : Kept kl ko ku s) :
    Kept kl ko ku (flitBad dir chan seq s) := by
  unfold flitBad
  repeat' first
    | with_reducible assumption | with_reducible refine Kept.ite (fun _ => ?_) (fun _ => ?_)
    | (intro x; with_reducible refine Kept.gen (kl := kl) (ko := ko) (ku := ku) (x := x) ?_ ?_; (on_goal 1 => unfold x); (on_goal 2 => (intro _; clear_value x)))
    | (intro x; (have t : Nat := x; clear t); clear_value x) | (intro x) | lift_lets -underBinder
    | with_reducible apply kept_emit | with_reducible refine kept_setBridge ?_
    | with_reducible refine kept_bridgeRecord ?_ | with_reducible refine kept_retireChannel ?_
    | fail_if_no_progress (with_reducible refine Kept.upd ?_ rfl rfl rfl rfl rfl rfl) | split
    | with_reducible refine Kept.ofFst ?_ (by assumption) | with_reducible refine Kept.ofSnd ?_ (by assumption)
    | (clear_value *; split)

theorem kept_flitReceive {dir chan seq : Nat} {crcOk : Bool} {flit : Bytes} (h0 : Kept kl ko ku s) :
    Kept kl ko ku (flitReceive dir chan seq crcOk flit s) := by
  unfold flitReceive
  repeat' first
    | with_reducible assumption | with_reducible refine Kept.ite (fun _ => ?_) (fun _ => ?_)
    | (intro x; with_reducible refine Kept.gen (kl := kl) (ko := ko) (ku := ku) (x := x) ?_ ?_; (on_goal 1 => unfold x); (on_goal 2 => (intro _; clear_value x)))
    | (intro x; (have t : Nat := x; clear t); clear_value x) | (intro x) | lift_lets -underBinder
    | with_reducible apply kept_emit | with_reducible refine kept_setBridge ?_ | with_reducible refine kept_flitGood ?_
    | with_reducible refine kept_flitBad ?_
    | fail_if_no_progress (with_reducible refine Kept.upd ?_ rfl rfl rfl rfl rfl rfl) | split
    | with_reducible refine Kept.ofFst ?_ (by assumption) | with_reducible refine Kept.ofSnd ?_ (by assumption)
    | (clear_value *; split)

theorem kept_setWires {dir chan : Nat} {w : ChanWires} (h0 : Kept kl ko ku s) :
    Kept kl ko ku (setWires dir chan w s) := by
  unfold setWires
  repeat' first
    | with_reducible assumption | with_reducible refine Kept.ite (fun _ => ?_) (fun _ => ?_)
    | (intro x; with_reducible refine Kept.gen (kl := kl) (ko := ko) (ku := ku) (x := x) ?_ ?_; (on_goal 1 => unfold x); (on_goal 2 => (intro _; clear_value x)))
    | (intro x; (have t : Nat := x; clear t); clear_value x) | (intro x) | lift_lets -underBinder
    | with_reducible refine kept_setBridge ?_
    | fail_if_no_progress (with_reducible refine Kept.upd ?_ rfl rfl rfl rfl rfl rfl) | split
    | with_reducible refine Kept.ofFst ?_ (by assumption) | with_reducible refine Kept.ofSnd ?_ (by assumption)
    | (clear_value *; split)

theorem kept_replaceWire {dir chan wire : Nat} (h0 : Kept kl ko ku s) :
    Kept kl ko ku (replaceWire dir chan wire s) := by
  unfold replaceWire
  repeat' first
    | with_reducible assumption | with_reducible refine Kept.ite (fun _ => ?_) (fun _ => ?_)
    | (intro x; with_reducible refine Kept.gen (kl := kl) (ko := ko) (ku := ku) (x := x) ?_ ?_; (on_goal 1 => unfold x); (on_goal 2 => (intro _; clear_value x)))
    | (intro x; (have t : Nat := x; clear t); clear_value x) | (intro x) | lift_lets -underBinder
    | with_reducible refine kept_bridgeRecord ?_ | with_reducible refine kept_retireChannel ?_
    | with_reducible refine kept_setWires ?_
    | fail_if_no_progress (with_reducible refine Kept.upd ?_ rfl rfl rfl rfl rfl rfl) | split
    | with_reducible refine Kept.ofFst ?_ (by assumption) | with_reducible refine Kept.ofSnd ?_ (by assumption)
    | (clear_value *; split)

theorem kept_wireFail {dir chan wire : Nat} (h0 : Kept kl ko ku s) :
    Kept kl ko ku (wireFail dir chan wire s) := by
  unfold wireFail
  repeat' first
    | with_reducible assumption | with_reducible refine Kept.ite (fun _ => ?_) (fun _ => ?_)
    | (intro x; with_reducible refine Kept.gen (kl := kl) (ko := ko) (ku := ku) (x := x) ?_ ?_; (on_goal 1 => unfold x); (on_goal 2 => (intro _; clear_value x)))
    | (intro x; (have t : Nat := x; clear t); clear_value x) | (intro x) | lift_lets -underBinder
    | with_reducible refine kept_setWires ?_ | with_reducible refine kept_replaceWire ?_
    | fail_if_no_progress (with_reducible refine Kept.upd ?_ rfl rfl rfl rfl rfl rfl) | split
    | with_reducible refine Kept.ofFst ?_ (by assumption) | with_reducible refine Kept.ofSnd ?_ (by assumption)
    | (clear_value *; split)

theorem kept_applyWires {rec_ : Bytes} (h0 : Kept kl ko ku s) :
    Kept kl ko ku (applyWires rec_ s) := by
  unfold applyWires
  repeat' first
    | with_reducible assumption | with_reducible refine Kept.ite (fun _ => ?_) (fun _ => ?_)
    | (intro x; with_reducible refine Kept.gen (kl := kl) (ko := ko) (ku := ku) (x := x) ?_ ?_; (on_goal 1 => unfold x); (on_goal 2 => (intro _; clear_value x)))
    | (intro x; (have t : Nat := x; clear t); clear_value x) | (intro x) | lift_lets -underBinder
    | with_reducible refine kept_doIf (fun _ _ => ?_) ?_ | with_reducible refine kept_forEach (fun _ _ _ => ?_) ?_
    | with_reducible refine kept_setWires ?_
    | fail_if_no_progress (with_reducible refine Kept.upd ?_ rfl rfl rfl rfl rfl rfl) | split
    | with_reducible refine Kept.ofFst ?_ (by assumption) | with_reducible refine Kept.ofSnd ?_ (by assumption)
    | (clear_value *; split)

theorem kept_setStream {n : Nat} {r : Reorder} (h0 : Kept kl ko ku s) :
    Kept kl ko ku (setStream n r s) := by
  unfold setStream
  repeat' first
    | with_reducible assumption | with_reducible refine Kept.ite (fun _ => ?_) (fun _ => ?_)
    | (intro x; with_reducible refine Kept.gen (kl := kl) (ko := ko) (ku := ku) (x := x) ?_ ?_; (on_goal 1 => unfold x); (on_goal 2 => (intro _; clear_value x)))
    | (intro x; (have t : Nat := x; clear t); clear_value x) | (intro x) | lift_lets -underBinder
    | fail_if_no_progress (with_reducible refine Kept.upd ?_ rfl rfl rfl rfl rfl rfl) | split
    | with_reducible refine Kept.ofFst ?_ (by assumption) | with_reducible refine Kept.ofSnd ?_ (by assumption)
    | (clear_value *; split)

theorem kept_countLate {n : Nat} (h0 : Kept kl ko ku s) :
    Kept kl ko ku (countLate n s) := by
  unfold countLate
  repeat' first
    | with_reducible assumption | with_reducible refine Kept.ite (fun _ => ?_) (fun _ => ?_)
    | with_reducible refine kept_inc ?_
    | fail_if_no_progress (with_reducible refine Kept.upd ?_ rfl rfl rfl rfl rfl rfl) | split
    | with_reducible refine Kept.ofFst ?_ (by assumption) | with_reducible refine Kept.ofSnd ?_ (by assumption)
    | (clear_value *; split)

theorem kept_countSkip {n : Nat} (h0 : Kept kl ko ku s) :
    Kept kl ko ku (countSkip n s) := by
  unfold countSkip
  repeat' first
    | with_reducible assumption | with_reducible refine Kept.ite (fun _ => ?_) (fun _ => ?_)
    | with_reducible refine kept_inc ?_
    | fail_if_no_progress (with_reducible refine Kept.upd ?_ rfl rfl rfl rfl rfl rfl) | split
    | with_reducible refine Kept.ofFst ?_ (by assumption) | with_reducible refine Kept.ofSnd ?_ (by assumption)
    | (clear_value *; split)

theorem kept_advanceE {n : Nat} (h0 : Kept kl ko ku s) :
    Kept kl ko ku (advanceE n s) := by
  unfold advanceE
  repeat' first
    | with_reducible assumption | with_reducible refine Kept.ite (fun _ => ?_) (fun _ => ?_)
    | (intro x; with_reducible refine Kept.gen (kl := kl) (ko := ko) (ku := ku) (x := x) ?_ ?_; (on_goal 1 => unfold x); (on_goal 2 => (intro _; clear_value x)))
    | (intro x; (have t : Nat := x; clear t); clear_value x) | (intro x) | lift_lets -underBinder
    | with_reducible refine kept_setStream ?_
    | fail_if_no_progress (with_reducible refine Kept.upd ?_ rfl rfl rfl rfl rfl rfl) | split
    | with_reducible refine Kept.ofFst ?_ (by assumption) | with_reducible refine Kept.ofSnd ?_ (by assumption)
    | (clear_value *; split)

theorem kept_toBridge {r id : Nat} {p : Packet} (h0 : Kept kl ko ku s) :
    Kept kl ko ku (toBridge r id p s) := by
  unfold toBridge
  repeat' first
    | with_reducible assumption | with_reducible refine Kept.ite (fun _ => ?_) (fun _ => ?_)
    | with_reducible refine kept_setPkt ?_ | with_reducible refine kept_arrive ?_
    | with_reducible refine kept_bridgeRouted ?_
    | fail_if_no_progress (with_reducible refine Kept.upd ?_ rfl rfl rfl rfl rfl rfl) | split
    | with_reducible refine Kept.ofFst ?_ (by assumption) | with_reducible refine Kept.ofSnd ?_ (by assumption)
    | (clear_value *; split)

theorem kept_sendReordered {id : Nat} {p : Packet} (h0 : Kept kl ko ku s) :
    Kept kl ko ku (sendReordered id p s) := by
  unfold sendReordered
  repeat' first
    | with_reducible assumption | with_reducible refine Kept.ite (fun _ => ?_) (fun _ => ?_)
    | (intro x; with_reducible refine Kept.gen (kl := kl) (ko := ko) (ku := ku) (x := x) ?_ ?_; (on_goal 1 => unfold x); (on_goal 2 => (intro _; clear_value x)))
    | (intro x; (have t : Nat := x; clear t); clear_value x) | (intro x) | lift_lets -underBinder
    | with_reducible refine kept_toBridge ?_
    | fail_if_no_progress (with_reducible refine Kept.upd ?_ rfl rfl rfl rfl rfl rfl) | split
    | with_reducible refine Kept.ofFst ?_ (by assumption) | with_reducible refine Kept.ofSnd ?_ (by assumption)
    | (clear_value *; split)

theorem kept_releaseRun {n fuel : Nat} (h : Kept kl ko ku s) : Kept kl ko ku (releaseRun n fuel s) := by
  induction fuel generalizing s with
  | zero => exact h
  | succ fuel ih =>
    unfold releaseRun
    dsimp only
    split
    · exact ih (kept_advanceE h)
    · split
      · split
        · exact ih (kept_sendReordered (kept_advanceE h))
        · exact h
      · exact h

theorem kept_release {n : Nat} (h0 : Kept kl ko ku s) :
    Kept kl ko ku (release n s) := by
  unfold release
  repeat' first
    | with_reducible assumption | with_reducible refine Kept.ite (fun _ => ?_) (fun _ => ?_)
    | with_reducible refine kept_releaseRun ?_
    | fail_if_no_progress (with_reducible refine Kept.upd ?_ rfl rfl rfl rfl rfl rfl) | split
    | with_reducible refine Kept.ofFst ?_ (by assumption) | with_reducible refine Kept.ofSnd ?_ (by assumption)
    | (clear_value *; split)

theorem kept_holeArrives {n seq : Nat} (h0 : Kept kl ko ku s) :
    Kept kl ko ku (holeArrives n seq s) := by
  unfold holeArrives
  repeat' first
    | with_reducible assumption | with_reducible refine Kept.ite (fun _ => ?_) (fun _ => ?_)
    | (intro x; with_reducible refine Kept.gen (kl := kl) (ko := ko) (ku := ku) (x := x) ?_ ?_; (on_goal 1 => unfold x); (on_goal 2 => (intro _; clear_value x)))
    | (intro x; (have t : Nat := x; clear t); clear_value x) | (intro x) | lift_lets -underBinder
    | with_reducible refine kept_setStream ?_ | with_reducible refine kept_countLate ?_
    | with_reducible refine kept_release ?_
    | fail_if_no_progress (with_reducible refine Kept.upd ?_ rfl rfl rfl rfl rfl rfl) | split
    | with_reducible refine Kept.ofFst ?_ (by assumption) | with_reducible refine Kept.ofSnd ?_ (by assumption)
    | (clear_value *; split)

theorem kept_countBad {port : Nat} {b : BadTail} (h0 : Kept kl ko ku s) :
    Kept kl ko ku (countBad port b s) := by
  unfold countBad
  repeat' first
    | with_reducible assumption | with_reducible refine Kept.ite (fun _ => ?_) (fun _ => ?_)
    | (intro x; with_reducible refine Kept.gen (kl := kl) (ko := ko) (ku := ku) (x := x) ?_ ?_; (on_goal 1 => unfold x); (on_goal 2 => (intro _; clear_value x)))
    | (intro x; (have t : Nat := x; clear t); clear_value x) | (intro x) | lift_lets -underBinder
    | with_reducible refine kept_inc ?_
    | fail_if_no_progress (with_reducible refine Kept.upd ?_ rfl rfl rfl rfl rfl rfl) | split
    | with_reducible refine Kept.ofFst ?_ (by assumption) | with_reducible refine Kept.ofSnd ?_ (by assumption)
    | (clear_value *; split)

theorem kept_countFec {port : Nat} {fec : Fec} (h0 : Kept kl ko ku s) :
    Kept kl ko ku (countFec port fec s) := by
  unfold countFec
  repeat' first
    | with_reducible assumption | with_reducible refine Kept.ite (fun _ => ?_) (fun _ => ?_)
    | with_reducible refine kept_bump ?_
    | fail_if_no_progress (with_reducible refine Kept.upd ?_ rfl rfl rfl rfl rfl rfl) | split
    | with_reducible refine Kept.ofFst ?_ (by assumption) | with_reducible refine Kept.ofSnd ?_ (by assumption)
    | (clear_value *; split)

theorem kept_countRx {port len : Nat} {fec : Fec} (h0 : Kept kl ko ku s) :
    Kept kl ko ku (countRx port len fec s) := by
  unfold countRx
  repeat' first
    | with_reducible assumption | with_reducible refine Kept.ite (fun _ => ?_) (fun _ => ?_)
    | with_reducible refine kept_bump ?_ | with_reducible refine kept_inc ?_ | with_reducible refine kept_countFec ?_
    | fail_if_no_progress (with_reducible refine Kept.upd ?_ rfl rfl rfl rfl rfl rfl) | split
    | with_reducible refine Kept.ofFst ?_ (by assumption) | with_reducible refine Kept.ofSnd ?_ (by assumption)
    | (clear_value *; split)

theorem kept_countStomp {port : Nat} {b : BadTail} (h0 : Kept kl ko ku s) :
    Kept kl ko ku (countStomp port b s) := by
  unfold countStomp
  repeat' first
    | with_reducible assumption | with_reducible refine Kept.ite (fun _ => ?_) (fun _ => ?_)
    | with_reducible refine kept_inc ?_ | with_reducible refine kept_countBad ?_
    | fail_if_no_progress (with_reducible refine Kept.upd ?_ rfl rfl rfl rfl rfl rfl) | split
    | with_reducible refine Kept.ofFst ?_ (by assumption) | with_reducible refine Kept.ofSnd ?_ (by assumption)
    | (clear_value *; split)

theorem kept_admitTo {n pipe : Nat} {p : Packet} (h0 : Kept kl ko ku s) :
    Kept kl ko ku (admitTo n pipe p s) := by
  unfold admitTo
  repeat' first
    | with_reducible assumption | with_reducible refine Kept.ite (fun _ => ?_) (fun _ => ?_)
    | (intro x; with_reducible refine Kept.gen (kl := kl) (ko := ko) (ku := ku) (x := x) ?_ ?_; (on_goal 1 => unfold x); (on_goal 2 => (intro _; clear_value x)))
    | (intro x; (have t : Nat := x; clear t); clear_value x) | (intro x) | lift_lets -underBinder
    | with_reducible refine kept_notePass ?_ | with_reducible refine kept_newPkt ?_
    | with_reducible refine kept_setStream ?_
    | fail_if_no_progress (with_reducible refine Kept.upd ?_ rfl rfl rfl rfl rfl rfl) | split
    | with_reducible refine Kept.ofFst ?_ (by assumption) | with_reducible refine Kept.ofSnd ?_ (by assumption)
    | (clear_value *; split)

theorem kept_spread {port : Nat} {bytes : Bytes} {whole : Bool} (h0 : Kept kl ko ku s) :
    Kept kl ko ku (spread port bytes whole s) := by
  unfold spread
  repeat' first
    | with_reducible assumption | with_reducible refine Kept.ite (fun _ => ?_) (fun _ => ?_)
    | with_reducible refine kept_inc ?_ | with_reducible refine kept_admitTo ?_
    | fail_if_no_progress (with_reducible refine Kept.upd ?_ rfl rfl rfl rfl rfl rfl) | split
    | with_reducible refine Kept.ofFst ?_ (by assumption) | with_reducible refine Kept.ofSnd ?_ (by assumption)
    | (clear_value *; split)

theorem kept_clearCur {port : Nat} (h0 : Kept kl ko ku s) :
    Kept kl ko ku (clearCur port s) := by
  unfold clearCur
  repeat' first
    | with_reducible assumption | with_reducible refine Kept.ite (fun _ => ?_) (fun _ => ?_)
    | (intro x; with_reducible refine Kept.gen (kl := kl) (ko := ko) (ku := ku) (x := x) ?_ ?_; (on_goal 1 => unfold x); (on_goal 2 => (intro _; clear_value x)))
    | (intro x; (have t : Nat := x; clear t); clear_value x) | (intro x) | lift_lets -underBinder
    | fail_if_no_progress (with_reducible refine Kept.upd ?_ rfl rfl rfl rfl rfl rfl) | split
    | with_reducible refine Kept.ofFst ?_ (by assumption) | with_reducible refine Kept.ofSnd ?_ (by assumption)
    | (clear_value *; split)

theorem kept_headerSegment {port : Nat} {seg : Bytes} {whole bad : Bool} {fec : Fec} (h0 : Kept kl ko ku s) :
    Kept kl ko ku (headerSegment port seg whole bad fec s) := by
  unfold headerSegment
  repeat' first
    | with_reducible assumption | with_reducible refine Kept.ite (fun _ => ?_) (fun _ => ?_)
    | (intro x; with_reducible refine Kept.gen (kl := kl) (ko := ko) (ku := ku) (x := x) ?_ ?_; (on_goal 1 => unfold x); (on_goal 2 => (intro _; clear_value x)))
    | (intro x; (have t : Nat := x; clear t); clear_value x) | (intro x) | lift_lets -underBinder
    | with_reducible refine kept_inc ?_ | with_reducible refine kept_countFec ?_
    | with_reducible refine kept_countRx ?_ | with_reducible refine kept_spread ?_
    | with_reducible refine kept_clearCur ?_
    | fail_if_no_progress (with_reducible refine Kept.upd ?_ rfl rfl rfl rfl rfl rfl) | split
    | with_reducible refine Kept.ofFst ?_ (by assumption) | with_reducible refine Kept.ofSnd ?_ (by assumption)
    | (clear_value *; split)

theorem kept_lenLate {p : Packet} {len : Nat} (h0 : Kept kl ko ku s) :
    Kept kl ko ku (lenLate p len s) := by
  unfold lenLate
  repeat' first
    | with_reducible assumption | with_reducible refine Kept.ite (fun _ => ?_) (fun _ => ?_)
    | with_reducible refine kept_doIf (fun _ _ => ?_) ?_ | with_reducible refine kept_inc ?_
    | fail_if_no_progress (with_reducible refine Kept.upd ?_ rfl rfl rfl rfl rfl rfl) | split
    | with_reducible refine Kept.ofFst ?_ (by assumption) | with_reducible refine Kept.ofSnd ?_ (by assumption)
    | (clear_value *; split)

theorem kept_tailOf {port id : Nat} {rest : Bytes} {had : Nat} {b : Option BadTail} (h0 : Kept kl ko ku s) :
    Kept kl ko ku (tailOf port id rest had b s) := by
  unfold tailOf
  repeat' first
    | with_reducible assumption | with_reducible refine Kept.ite (fun _ => ?_) (fun _ => ?_)
    | (intro x; with_reducible refine Kept.gen (kl := kl) (ko := ko) (ku := ku) (x := x) ?_ ?_; (on_goal 1 => unfold x); (on_goal 2 => (intro _; clear_value x)))
    | (intro x; (have t : Nat := x; clear t); clear_value x) | (intro x) | lift_lets -underBinder
    | with_reducible refine kept_doIf (fun _ _ => ?_) ?_ | with_reducible refine kept_setPkt ?_
    | with_reducible refine kept_erasePkt ?_ | with_reducible refine kept_bridgeTail ?_
    | with_reducible refine kept_holeArrives ?_ | with_reducible refine kept_countBad ?_
    | with_reducible refine kept_countStomp ?_ | with_reducible refine kept_lenLate ?_
    | fail_if_no_progress (with_reducible refine Kept.upd ?_ rfl rfl rfl rfl rfl rfl) | split
    | with_reducible refine Kept.ofFst ?_ (by assumption) | with_reducible refine Kept.ofSnd ?_ (by assumption)
    | (clear_value *; split)

theorem kept_frameTail {port : Nat} {rest : Bytes} {tail : Tail} {fec : Fec} (h0 : Kept kl ko ku s) :
    Kept kl ko ku (frameTail port rest tail fec s) := by
  unfold frameTail
  repeat' first
    | with_reducible assumption | with_reducible refine Kept.ite (fun _ => ?_) (fun _ => ?_)
    | (intro x; with_reducible refine Kept.gen (kl := kl) (ko := ko) (ku := ku) (x := x) ?_ ?_; (on_goal 1 => unfold x); (on_goal 2 => (intro _; clear_value x)))
    | (intro x; (have t : Nat := x; clear t); clear_value x) | (intro x) | lift_lets -underBinder
    | with_reducible refine kept_doIf (fun _ _ => ?_) ?_ | with_reducible refine kept_inc ?_
    | with_reducible refine kept_countBad ?_ | with_reducible refine kept_countRx ?_
    | with_reducible refine kept_clearCur ?_ | with_reducible refine kept_tailOf ?_
    | fail_if_no_progress (with_reducible refine Kept.upd ?_ rfl rfl rfl rfl rfl rfl) | split
    | with_reducible refine Kept.ofFst ?_ (by assumption) | with_reducible refine Kept.ofSnd ?_ (by assumption)
    | (clear_value *; split)

theorem kept_holdPrio {port quanta prio : Nat} (h0 : Kept kl ko ku s) :
    Kept kl ko ku (holdPrio port quanta prio s) := by
  unfold holdPrio
  repeat' first
    | with_reducible assumption | with_reducible refine Kept.ite (fun _ => ?_) (fun _ => ?_)
    | (intro x; with_reducible refine Kept.gen (kl := kl) (ko := ko) (ku := ku) (x := x) ?_ ?_; (on_goal 1 => unfold x); (on_goal 2 => (intro _; clear_value x)))
    | (intro x; (have t : Nat := x; clear t); clear_value x) | (intro x) | lift_lets -underBinder
    | with_reducible refine kept_setFld ?_
    | fail_if_no_progress (with_reducible refine Kept.upd ?_ rfl rfl rfl rfl rfl rfl) | split
    | with_reducible refine Kept.ofFst ?_ (by assumption) | with_reducible refine Kept.ofSnd ?_ (by assumption)
    | (clear_value *; split)

theorem kept_controlFrame {port len : Nat} {bad : Bool} {fec : Fec} {k : State → State} (hk : ∀ s, Kept kl ko ku s → Kept kl ko ku (k s)) (h0 : Kept kl ko ku s) :
    Kept kl ko ku (controlFrame port len bad fec k s) := by
  unfold controlFrame
  repeat' first
    | with_reducible assumption | with_reducible refine Kept.ite (fun _ => ?_) (fun _ => ?_)
    | (intro x; with_reducible refine Kept.gen (kl := kl) (ko := ko) (ku := ku) (x := x) ?_ ?_; (on_goal 1 => unfold x); (on_goal 2 => (intro _; clear_value x)))
    | (intro x; (have t : Nat := x; clear t); clear_value x) | (intro x) | lift_lets -underBinder
    | with_reducible refine hk _ ?_ | with_reducible refine kept_doIf (fun _ _ => ?_) ?_
    | with_reducible refine kept_inc ?_ | with_reducible refine kept_countRx ?_
    | with_reducible refine kept_clearCur ?_
    | fail_if_no_progress (with_reducible refine Kept.upd ?_ rfl rfl rfl rfl rfl rfl) | split
    | with_reducible refine Kept.ofFst ?_ (by assumption) | with_reducible refine Kept.ofSnd ?_ (by assumption)
    | (clear_value *; split)

theorem kept_pauseReceive {port len : Nat} {bad : Bool} {quanta : Nat} {fec : Fec} (h0 : Kept kl ko ku s) :
    Kept kl ko ku (pauseReceive port len bad quanta fec s) := by
  unfold pauseReceive
  repeat' first
    | with_reducible assumption | with_reducible refine Kept.ite (fun _ => ?_) (fun _ => ?_)
    | (intro x; with_reducible refine Kept.gen (kl := kl) (ko := ko) (ku := ku) (x := x) ?_ ?_; (on_goal 1 => unfold x); (on_goal 2 => (intro _; clear_value x)))
    | (intro x; (have t : Nat := x; clear t); clear_value x) | (intro x) | lift_lets -underBinder
    | with_reducible refine kept_doIf (fun _ _ => ?_) ?_ | with_reducible refine kept_forEach (fun _ _ _ => ?_) ?_
    | with_reducible refine kept_inc ?_ | with_reducible refine kept_holdPrio ?_
    | with_reducible refine kept_controlFrame (fun _ _ => ?_) ?_
    | fail_if_no_progress (with_reducible refine Kept.upd ?_ rfl rfl rfl rfl rfl rfl) | split
    | with_reducible refine Kept.ofFst ?_ (by assumption) | with_reducible refine Kept.ofSnd ?_ (by assumption)
    | (clear_value *; split)

theorem kept_pfcReceive {port len : Nat} {bad : Bool} {enables : BitVec 8} {quanta : List Nat} {fec : Fec} (h0 : Kept kl ko ku s) :
    Kept kl ko ku (pfcReceive port len bad enables quanta fec s) := by
  unfold pfcReceive
  repeat' first
    | with_reducible assumption | with_reducible refine Kept.ite (fun _ => ?_) (fun _ => ?_)
    | (intro x; with_reducible refine Kept.gen (kl := kl) (ko := ko) (ku := ku) (x := x) ?_ ?_; (on_goal 1 => unfold x); (on_goal 2 => (intro _; clear_value x)))
    | (intro x; (have t : Nat := x; clear t); clear_value x) | (intro x) | lift_lets -underBinder
    | with_reducible refine kept_doIf (fun _ _ => ?_) ?_ | with_reducible refine kept_forEach (fun _ _ _ => ?_) ?_
    | with_reducible refine kept_inc ?_ | with_reducible refine kept_holdPrio ?_
    | with_reducible refine kept_controlFrame (fun _ _ => ?_) ?_
    | fail_if_no_progress (with_reducible refine Kept.upd ?_ rfl rfl rfl rfl rfl rfl) | split
    | with_reducible refine Kept.ofFst ?_ (by assumption) | with_reducible refine Kept.ofSnd ?_ (by assumption)
    | (clear_value *; split)

theorem kept_pauseEnd {port : Nat} (h0 : Kept kl ko ku s) :
    Kept kl ko ku (pauseEnd port s) := by
  unfold pauseEnd
  repeat' first
    | with_reducible assumption | with_reducible refine Kept.ite (fun _ => ?_) (fun _ => ?_)
    | (intro x; with_reducible refine Kept.gen (kl := kl) (ko := ko) (ku := ku) (x := x) ?_ ?_; (on_goal 1 => unfold x); (on_goal 2 => (intro _; clear_value x)))
    | (intro x; (have t : Nat := x; clear t); clear_value x) | (intro x) | lift_lets -underBinder
    | with_reducible refine kept_doIf (fun _ _ => ?_) ?_ | with_reducible refine kept_forEach (fun _ _ _ => ?_) ?_
    | with_reducible refine kept_holdPrio ?_
    | fail_if_no_progress (with_reducible refine Kept.upd ?_ rfl rfl rfl rfl rfl rfl) | split
    | with_reducible refine Kept.ofFst ?_ (by assumption) | with_reducible refine Kept.ofSnd ?_ (by assumption)
    | (clear_value *; split)

theorem kept_sendPause {port prio quanta : Nat} (h0 : Kept kl ko ku s) :
    Kept kl ko ku (sendPause port prio quanta s) := by
  unfold sendPause
  repeat' first
    | with_reducible assumption | with_reducible refine Kept.ite (fun _ => ?_) (fun _ => ?_)
    | with_reducible apply kept_emit | with_reducible refine kept_inc ?_
    | fail_if_no_progress (with_reducible refine Kept.upd ?_ rfl rfl rfl rfl rfl rfl) | split
    | with_reducible refine Kept.ofFst ?_ (by assumption) | with_reducible refine Kept.ofSnd ?_ (by assumption)
    | (clear_value *; split)

theorem kept_xoffNow {port prio : Nat} (h0 : Kept kl ko ku s) :
    Kept kl ko ku (xoffNow port prio s) := by
  unfold xoffNow
  repeat' first
    | with_reducible assumption | with_reducible refine Kept.ite (fun _ => ?_) (fun _ => ?_)
    | (intro x; with_reducible refine Kept.gen (kl := kl) (ko := ko) (ku := ku) (x := x) ?_ ?_; (on_goal 1 => unfold x); (on_goal 2 => (intro _; clear_value x)))
    | (intro x; (have t : Nat := x; clear t); clear_value x) | (intro x) | lift_lets -underBinder
    | with_reducible refine kept_sendPause ?_
    | fail_if_no_progress (with_reducible refine Kept.upd ?_ rfl rfl rfl rfl rfl rfl) | split
    | with_reducible refine Kept.ofFst ?_ (by assumption) | with_reducible refine Kept.ofSnd ?_ (by assumption)
    | (clear_value *; split)

theorem kept_xonNow {port prio : Nat} (h0 : Kept kl ko ku s) :
    Kept kl ko ku (xonNow port prio s) := by
  unfold xonNow
  repeat' first
    | with_reducible assumption | with_reducible refine Kept.ite (fun _ => ?_) (fun _ => ?_)
    | (intro x; with_reducible refine Kept.gen (kl := kl) (ko := ko) (ku := ku) (x := x) ?_ ?_; (on_goal 1 => unfold x); (on_goal 2 => (intro _; clear_value x)))
    | (intro x; (have t : Nat := x; clear t); clear_value x) | (intro x) | lift_lets -underBinder
    | with_reducible refine kept_sendPause ?_
    | fail_if_no_progress (with_reducible refine Kept.upd ?_ rfl rfl rfl rfl rfl rfl) | split
    | with_reducible refine Kept.ofFst ?_ (by assumption) | with_reducible refine Kept.ofSnd ?_ (by assumption)
    | (clear_value *; split)

theorem kept_xoffAgain {port prio : Nat} (h0 : Kept kl ko ku s) :
    Kept kl ko ku (xoffAgain port prio s) := by
  unfold xoffAgain
  repeat' first
    | with_reducible assumption | with_reducible refine Kept.ite (fun _ => ?_) (fun _ => ?_)
    | (intro x; with_reducible refine Kept.gen (kl := kl) (ko := ko) (ku := ku) (x := x) ?_ ?_; (on_goal 1 => unfold x); (on_goal 2 => (intro _; clear_value x)))
    | (intro x; (have t : Nat := x; clear t); clear_value x) | (intro x) | lift_lets -underBinder
    | with_reducible refine kept_sendPause ?_
    | fail_if_no_progress (with_reducible refine Kept.upd ?_ rfl rfl rfl rfl rfl rfl) | split
    | with_reducible refine Kept.ofFst ?_ (by assumption) | with_reducible refine Kept.ofSnd ?_ (by assumption)
    | (clear_value *; split)

theorem kept_setMacQueue {port : Nat} {l : List MacItem} (h0 : Kept kl ko ku s) :
    Kept kl ko ku (setMacQueue port l s) := by
  unfold setMacQueue
  repeat' first
    | with_reducible assumption | with_reducible refine Kept.ite (fun _ => ?_) (fun _ => ?_)
    | (intro x; with_reducible refine Kept.gen (kl := kl) (ko := ko) (ku := ku) (x := x) ?_ ?_; (on_goal 1 => unfold x); (on_goal 2 => (intro _; clear_value x)))
    | (intro x; (have t : Nat := x; clear t); clear_value x) | (intro x) | lift_lets -underBinder
    | fail_if_no_progress (with_reducible refine Kept.upd ?_ rfl rfl rfl rfl rfl rfl) | split
    | with_reducible refine Kept.ofFst ?_ (by assumption) | with_reducible refine Kept.ofSnd ?_ (by assumption)
    | (clear_value *; split)

theorem kept_macPush {port : Nat} {m : MacItem} (h0 : Kept kl ko ku s) :
    Kept kl ko ku (macPush port m s) := by
  unfold macPush
  repeat' first
    | with_reducible assumption | with_reducible refine Kept.ite (fun _ => ?_) (fun _ => ?_)
    | with_reducible refine kept_setMacQueue ?_
    | fail_if_no_progress (with_reducible refine Kept.upd ?_ rfl rfl rfl rfl rfl rfl) | split
    | with_reducible refine Kept.ofFst ?_ (by assumption) | with_reducible refine Kept.ofSnd ?_ (by assumption)
    | (clear_value *; split)

theorem kept_tsPush {port tag : Nat} (h0 : Kept kl ko ku s) :
    Kept kl ko ku (tsPush port tag s) := by
  unfold tsPush
  repeat' first
    | with_reducible assumption | with_reducible refine Kept.ite (fun _ => ?_) (fun _ => ?_)
    | (intro x; with_reducible refine Kept.gen (kl := kl) (ko := ko) (ku := ku) (x := x) ?_ ?_; (on_goal 1 => unfold x); (on_goal 2 => (intro _; clear_value x)))
    | (intro x; (have t : Nat := x; clear t); clear_value x) | (intro x) | lift_lets -underBinder
    | with_reducible refine kept_inc ?_
    | fail_if_no_progress (with_reducible refine Kept.upd ?_ rfl rfl rfl rfl rfl rfl) | split
    | with_reducible refine Kept.ofFst ?_ (by assumption) | with_reducible refine Kept.ofSnd ?_ (by assumption)
    | (clear_value *; split)

theorem kept_sendFrame {port : Nat} {b : Bytes} {stomp sched : Bool} (h0 : Kept kl ko ku s) :
    Kept kl ko ku (sendFrame port b stomp sched s) := by
  unfold sendFrame
  repeat' first
    | with_reducible assumption | with_reducible refine Kept.ite (fun _ => ?_) (fun _ => ?_)
    | (intro x; with_reducible refine Kept.gen (kl := kl) (ko := ko) (ku := ku) (x := x) ?_ ?_; (on_goal 1 => unfold x); (on_goal 2 => (intro _; clear_value x)))
    | (intro x; (have t : Nat := x; clear t); clear_value x) | (intro x) | lift_lets -underBinder
    | with_reducible refine kept_doIf (fun _ _ => ?_) ?_ | with_reducible apply kept_emit
    | with_reducible refine kept_bump ?_ | with_reducible refine kept_inc ?_
    | fail_if_no_progress (with_reducible refine Kept.upd ?_ rfl rfl rfl rfl rfl rfl) | split
    | with_reducible refine Kept.ofFst ?_ (by assumption) | with_reducible refine Kept.ofSnd ?_ (by assumption)
    | (clear_value *; split)

theorem kept_sendSched {port : Nat} {b : Bytes} {at_ : Nat} (h0 : Kept kl ko ku s) :
    Kept kl ko ku (sendSched port b at_ s) := by
  unfold sendSched
  repeat' first
    | with_reducible assumption | with_reducible refine Kept.ite (fun _ => ?_) (fun _ => ?_)
    | (intro x; with_reducible refine Kept.gen (kl := kl) (ko := ko) (ku := ku) (x := x) ?_ ?_; (on_goal 1 => unfold x); (on_goal 2 => (intro _; clear_value x)))
    | (intro x; (have t : Nat := x; clear t); clear_value x) | (intro x) | lift_lets -underBinder
    | with_reducible apply kept_emit | with_reducible refine kept_bump ?_ | with_reducible refine kept_inc ?_
    | fail_if_no_progress (with_reducible refine Kept.upd ?_ rfl rfl rfl rfl rfl rfl) | split
    | with_reducible refine Kept.ofFst ?_ (by assumption) | with_reducible refine Kept.ofSnd ?_ (by assumption)
    | (clear_value *; split)

theorem kept_sendRouted {port : Nat} {p : Packet} (h0 : Kept kl ko ku s) :
    Kept kl ko ku (sendRouted port p s) := by
  unfold sendRouted
  repeat' first
    | with_reducible assumption | with_reducible refine Kept.ite (fun _ => ?_) (fun _ => ?_)
    | (intro x; with_reducible refine Kept.gen (kl := kl) (ko := ko) (ku := ku) (x := x) ?_ ?_; (on_goal 1 => unfold x); (on_goal 2 => (intro _; clear_value x)))
    | (intro x; (have t : Nat := x; clear t); clear_value x) | (intro x) | lift_lets -underBinder
    | with_reducible refine kept_tsPush ?_ | with_reducible refine kept_sendFrame ?_
    | fail_if_no_progress (with_reducible refine Kept.upd ?_ rfl rfl rfl rfl rfl rfl) | split
    | with_reducible refine Kept.ofFst ?_ (by assumption) | with_reducible refine Kept.ofSnd ?_ (by assumption)
    | (clear_value *; split)

theorem kept_dropMacQueue {port : Nat} (h0 : Kept kl ko ku s) :
    Kept kl ko ku (dropMacQueue port s) := by
  unfold dropMacQueue
  repeat' first
    | with_reducible assumption | with_reducible refine Kept.ite (fun _ => ?_) (fun _ => ?_)
    | (intro x; with_reducible refine Kept.gen (kl := kl) (ko := ko) (ku := ku) (x := x) ?_ ?_; (on_goal 1 => unfold x); (on_goal 2 => (intro _; clear_value x)))
    | (intro x; (have t : Nat := x; clear t); clear_value x) | (intro x) | lift_lets -underBinder
    | with_reducible refine kept_forEach (fun _ _ _ => ?_) ?_ | with_reducible refine kept_inc ?_
    | with_reducible refine kept_erasePkt ?_ | with_reducible refine kept_setMacQueue ?_
    | fail_if_no_progress (with_reducible refine Kept.upd ?_ rfl rfl rfl rfl rfl rfl) | split
    | with_reducible refine Kept.ofFst ?_ (by assumption) | with_reducible refine Kept.ofSnd ?_ (by assumption)
    | (clear_value *; split)

theorem kept_linkChange {port : Nat} {up lf rf : Bool} {fec : Fec} (h0 : Kept kl ko ku s) :
    Kept kl ko ku (linkChange port up lf rf fec s) := by
  unfold linkChange
  repeat' first
    | with_reducible assumption | with_reducible refine Kept.ite (fun _ => ?_) (fun _ => ?_)
    | (intro x; with_reducible refine Kept.gen (kl := kl) (ko := ko) (ku := ku) (x := x) ?_ ?_; (on_goal 1 => unfold x); (on_goal 2 => (intro _; clear_value x)))
    | (intro x; (have t : Nat := x; clear t); clear_value x) | (intro x) | lift_lets -underBinder
    | with_reducible refine kept_doIf (fun _ _ => ?_) ?_ | with_reducible refine kept_setFld ?_
    | with_reducible refine kept_countFec ?_ | with_reducible refine kept_frameTail ?_
    | with_reducible refine kept_dropMacQueue ?_
    | fail_if_no_progress (with_reducible refine Kept.upd ?_ rfl rfl rfl rfl rfl rfl) | split
    | with_reducible refine Kept.ofFst ?_ (by assumption) | with_reducible refine Kept.ofSnd ?_ (by assumption)
    | (clear_value *; split)

theorem kept_reorderArrival {n seq : Nat} (h0 : Kept kl ko ku s) :
    Kept kl ko ku (reorderArrival n seq s) := by
  unfold reorderArrival
  repeat' first
    | with_reducible assumption | with_reducible refine Kept.ite (fun _ => ?_) (fun _ => ?_)
    | (intro x; with_reducible refine Kept.gen (kl := kl) (ko := ko) (ku := ku) (x := x) ?_ ?_; (on_goal 1 => unfold x); (on_goal 2 => (intro _; clear_value x)))
    | (intro x; (have t : Nat := x; clear t); clear_value x) | (intro x) | lift_lets -underBinder
    | with_reducible refine kept_setPkt ?_ | with_reducible refine kept_erasePkt ?_
    | with_reducible refine kept_countLate ?_ | with_reducible refine kept_release ?_
    | with_reducible refine kept_holeArrives ?_ | with_reducible refine kept_countBad ?_
    | fail_if_no_progress (with_reducible refine Kept.upd ?_ rfl rfl rfl rfl rfl rfl) | split
    | with_reducible refine Kept.ofFst ?_ (by assumption) | with_reducible refine Kept.ofSnd ?_ (by assumption)
    | (clear_value *; split)

theorem kept_reorderTimeout {n : Nat} (h0 : Kept kl ko ku s) :
    Kept kl ko ku (reorderTimeout n s) := by
  unfold reorderTimeout
  repeat' first
    | with_reducible assumption | with_reducible refine Kept.ite (fun _ => ?_) (fun _ => ?_)
    | (intro x; with_reducible refine Kept.gen (kl := kl) (ko := ko) (ku := ku) (x := x) ?_ ?_; (on_goal 1 => unfold x); (on_goal 2 => (intro _; clear_value x)))
    | (intro x; (have t : Nat := x; clear t); clear_value x) | (intro x) | lift_lets -underBinder
    | with_reducible refine kept_report ?_ | with_reducible refine kept_countSkip ?_
    | with_reducible refine kept_advanceE ?_ | with_reducible refine kept_release ?_
    | fail_if_no_progress (with_reducible refine Kept.upd ?_ rfl rfl rfl rfl rfl rfl) | split
    | with_reducible refine Kept.ofFst ?_ (by assumption) | with_reducible refine Kept.ofSnd ?_ (by assumption)
    | (clear_value *; split)

theorem kept_toMac {id : Nat} {p : Packet} (h0 : Kept kl ko ku s) :
    Kept kl ko ku (toMac id p s) := by
  unfold toMac
  repeat' first
    | with_reducible assumption | with_reducible refine Kept.ite (fun _ => ?_) (fun _ => ?_)
    | with_reducible refine kept_inc ?_ | with_reducible refine kept_setPkt ?_ | with_reducible refine kept_erasePkt ?_
    | with_reducible refine kept_macPush ?_
    | fail_if_no_progress (with_reducible refine Kept.upd ?_ rfl rfl rfl rfl rfl rfl) | split
    | with_reducible refine Kept.ofFst ?_ (by assumption) | with_reducible refine Kept.ofSnd ?_ (by assumption)
    | (clear_value *; split)

theorem kept_dmaFault {part : Nat} (h0 : Kept kl ko ku s) :
    Kept kl ko ku (dmaFault part s) := by
  unfold dmaFault
  repeat' first
    | with_reducible assumption | with_reducible refine Kept.ite (fun _ => ?_) (fun _ => ?_)
    | with_reducible refine kept_report ?_
    | fail_if_no_progress (with_reducible refine Kept.upd ?_ rfl rfl rfl rfl rfl rfl) | split
    | with_reducible refine Kept.ofFst ?_ (by assumption) | with_reducible refine Kept.ofSnd ?_ (by assumption)
    | (clear_value *; split)

theorem kept_ringAdvance {p r : Nat} (h0 : Kept kl ko ku s) :
    Kept kl ko ku (ringAdvance p r s) := by
  unfold ringAdvance
  repeat' first
    | with_reducible assumption | with_reducible refine Kept.ite (fun _ => ?_) (fun _ => ?_)
    | with_reducible refine kept_setFld ?_
    | fail_if_no_progress (with_reducible refine Kept.upd ?_ rfl rfl rfl rfl rfl rfl) | split
    | with_reducible refine Kept.ofFst ?_ (by assumption) | with_reducible refine Kept.ofSnd ?_ (by assumption)
    | (clear_value *; split)

theorem kept_ringIrq {p r : Nat} (h0 : Kept kl ko ku s) :
    Kept kl ko ku (ringIrq p r s) := by
  unfold ringIrq
  repeat' first
    | with_reducible assumption | with_reducible refine Kept.ite (fun _ => ?_) (fun _ => ?_)
    | with_reducible refine kept_doIf (fun _ _ => ?_) ?_ | with_reducible refine kept_raiseSrc ?_
    | fail_if_no_progress (with_reducible refine Kept.upd ?_ rfl rfl rfl rfl rfl rfl) | split
    | with_reducible refine Kept.ofFst ?_ (by assumption) | with_reducible refine Kept.ofSnd ?_ (by assumption)
    | (clear_value *; split)

theorem kept_rxComplete {p r : Nat} (h0 : Kept kl ko ku s) :
    Kept kl ko ku (rxComplete p r s) := by
  unfold rxComplete
  repeat' first
    | with_reducible assumption | with_reducible refine Kept.ite (fun _ => ?_) (fun _ => ?_)
    | (intro x; with_reducible refine Kept.gen (kl := kl) (ko := ko) (ku := ku) (x := x) ?_ ?_; (on_goal 1 => unfold x); (on_goal 2 => (intro _; clear_value x)))
    | (intro x; (have t : Nat := x; clear t); clear_value x) | (intro x) | lift_lets -underBinder
    | with_reducible refine kept_ringIrq ?_
    | fail_if_no_progress (with_reducible refine Kept.upd ?_ rfl rfl rfl rfl rfl rfl) | split
    | with_reducible refine Kept.ofFst ?_ (by assumption) | with_reducible refine Kept.ofSnd ?_ (by assumption)
    | (clear_value *; split)

theorem kept_rxCoal {p r : Nat} (h0 : Kept kl ko ku s) :
    Kept kl ko ku (rxCoal p r s) := by
  unfold rxCoal
  repeat' first
    | with_reducible assumption | with_reducible refine Kept.ite (fun _ => ?_) (fun _ => ?_)
    | (intro x; with_reducible refine Kept.gen (kl := kl) (ko := ko) (ku := ku) (x := x) ?_ ?_; (on_goal 1 => unfold x); (on_goal 2 => (intro _; clear_value x)))
    | (intro x; (have t : Nat := x; clear t); clear_value x) | (intro x) | lift_lets -underBinder
    | with_reducible refine kept_doIf (fun _ _ => ?_) ?_ | with_reducible refine kept_ringIrq ?_
    | fail_if_no_progress (with_reducible refine Kept.upd ?_ rfl rfl rfl rfl rfl rfl) | split
    | with_reducible refine Kept.ofFst ?_ (by assumption) | with_reducible refine Kept.ofSnd ?_ (by assumption)
    | (clear_value *; split)

theorem kept_ringWrite {id : Nat} (h0 : Kept kl ko ku s) :
    Kept kl ko ku (ringWrite id s) := by
  unfold ringWrite
  repeat' first
    | with_reducible assumption | with_reducible refine Kept.ite (fun _ => ?_) (fun _ => ?_)
    | (intro x; with_reducible refine Kept.gen (kl := kl) (ko := ko) (ku := ku) (x := x) ?_ ?_; (on_goal 1 => unfold x); (on_goal 2 => (intro _; clear_value x)))
    | (intro x; (have t : Nat := x; clear t); clear_value x) | (intro x) | lift_lets -underBinder
    | with_reducible apply kept_emit | with_reducible refine kept_inc ?_ | with_reducible refine kept_erasePkt ?_
    | with_reducible refine kept_rxComplete ?_
    | fail_if_no_progress (with_reducible refine Kept.upd ?_ rfl rfl rfl rfl rfl rfl) | split
    | with_reducible refine Kept.ofFst ?_ (by assumption) | with_reducible refine Kept.ofSnd ?_ (by assumption)
    | (clear_value *; split)

theorem kept_ringDeliver {id q r reason : Nat} {p : Packet} {desc : Dma} {dmaOk : Bool} (h0 : Kept kl ko ku s) :
    Kept kl ko ku (ringDeliver id q r reason p desc dmaOk s) := by
  unfold ringDeliver
  repeat' first
    | with_reducible assumption | with_reducible refine Kept.ite (fun _ => ?_) (fun _ => ?_)
    | (intro x; with_reducible refine Kept.gen (kl := kl) (ko := ko) (ku := ku) (x := x) ?_ ?_; (on_goal 1 => unfold x); (on_goal 2 => (intro _; clear_value x)))
    | (intro x; (have t : Nat := x; clear t); clear_value x) | (intro x) | lift_lets -underBinder
    | with_reducible refine kept_inc ?_ | with_reducible refine kept_setPkt ?_
    | with_reducible refine kept_erasePkt ?_ | with_reducible refine kept_dmaFault ?_
    | with_reducible refine kept_ringAdvance ?_ | with_reducible refine kept_ringWrite ?_
    | fail_if_no_progress (with_reducible refine Kept.upd ?_ rfl rfl rfl rfl rfl rfl) | split
    | with_reducible refine Kept.ofFst ?_ (by assumption) | with_reducible refine Kept.ofSnd ?_ (by assumption)
    | (clear_value *; split)

theorem kept_goesOn {p : Packet} (h0 : Kept kl ko ku s) :
    Kept kl ko ku (goesOn p s) := by
  unfold goesOn
  repeat' first
    | with_reducible assumption | with_reducible refine Kept.ite (fun _ => ?_) (fun _ => ?_)
    | with_reducible refine kept_countStomp ?_
    | fail_if_no_progress (with_reducible refine Kept.upd ?_ rfl rfl rfl rfl rfl rfl) | split
    | with_reducible refine Kept.ofFst ?_ (by assumption) | with_reducible refine Kept.ofSnd ?_ (by assumption)
    | (clear_value *; split)

theorem kept_trapPacket {id q r reason : Nat} {x : StageIn} (h0 : Kept kl ko ku s) :
    Kept kl ko ku (trapPacket id q r reason x s) := by
  unfold trapPacket
  repeat' first
    | with_reducible assumption | with_reducible refine Kept.ite (fun _ => ?_) (fun _ => ?_)
    | with_reducible refine kept_doIf (fun _ _ => ?_) ?_ | with_reducible refine kept_marker ?_
    | with_reducible refine kept_ringDeliver ?_ | with_reducible refine kept_goesOn ?_
    | fail_if_no_progress (with_reducible refine Kept.upd ?_ rfl rfl rfl rfl rfl rfl) | split
    | with_reducible refine Kept.ofFst ?_ (by assumption) | with_reducible refine Kept.ofSnd ?_ (by assumption)
    | (clear_value *; split)

theorem kept_txDone {p r code : Nat} (h0 : Kept kl ko ku s) :
    Kept kl ko ku (txDone p r code s) := by
  unfold txDone
  repeat' first
    | with_reducible assumption | with_reducible refine Kept.ite (fun _ => ?_) (fun _ => ?_)
    | (intro x; with_reducible refine Kept.gen (kl := kl) (ko := ko) (ku := ku) (x := x) ?_ ?_; (on_goal 1 => unfold x); (on_goal 2 => (intro _; clear_value x)))
    | (intro x; (have t : Nat := x; clear t); clear_value x) | (intro x) | lift_lets -underBinder
    | with_reducible refine kept_doIf (fun _ _ => ?_) ?_ | with_reducible apply kept_emit
    | with_reducible refine kept_inc ?_ | with_reducible refine kept_ringAdvance ?_
    | with_reducible refine kept_ringIrq ?_
    | fail_if_no_progress (with_reducible refine Kept.upd ?_ rfl rfl rfl rfl rfl rfl) | split
    | with_reducible refine Kept.ofFst ?_ (by assumption) | with_reducible refine Kept.ofSnd ?_ (by assumption)
    | (clear_value *; split)

theorem kept_txSend {p len : Nat} {f : Bytes} (h0 : Kept kl ko ku s) :
    Kept kl ko ku (txSend p len f s) := by
  unfold txSend
  repeat' first
    | with_reducible assumption | with_reducible refine Kept.ite (fun _ => ?_) (fun _ => ?_)
    | (intro x; with_reducible refine Kept.gen (kl := kl) (ko := ko) (ku := ku) (x := x) ?_ ?_; (on_goal 1 => unfold x); (on_goal 2 => (intro _; clear_value x)))
    | (intro x; (have t : Nat := x; clear t); clear_value x) | (intro x) | lift_lets -underBinder
    | with_reducible refine kept_toBridge ?_
    | fail_if_no_progress (with_reducible refine Kept.upd ?_ rfl rfl rfl rfl rfl rfl) | split
    | with_reducible refine Kept.ofFst ?_ (by assumption) | with_reducible refine Kept.ofSnd ?_ (by assumption)
    | (clear_value *; split)

theorem kept_txDescriptor {p r : Nat} {desc frame : Dma} (h0 : Kept kl ko ku s) :
    Kept kl ko ku (txDescriptor p r desc frame s) := by
  unfold txDescriptor
  repeat' first
    | with_reducible assumption | with_reducible refine Kept.ite (fun _ => ?_) (fun _ => ?_)
    | (intro x; with_reducible refine Kept.gen (kl := kl) (ko := ko) (ku := ku) (x := x) ?_ ?_; (on_goal 1 => unfold x); (on_goal 2 => (intro _; clear_value x)))
    | (intro x; (have t : Nat := x; clear t); clear_value x) | (intro x) | lift_lets -underBinder
    | with_reducible refine kept_doIf (fun _ _ => ?_) ?_ | with_reducible refine kept_inc ?_
    | with_reducible refine kept_dmaFault ?_ | with_reducible refine kept_txDone ?_
    | with_reducible refine kept_txSend ?_
    | fail_if_no_progress (with_reducible refine Kept.upd ?_ rfl rfl rfl rfl rfl rfl) | split
    | with_reducible refine Kept.ofFst ?_ (by assumption) | with_reducible refine Kept.ofSnd ?_ (by assumption)
    | (clear_value *; split)

theorem kept_withPlateWords {id : Nat} {p : Packet} {reads : List Nat} {k : State → State} (hk : ∀ s, Kept kl ko ku s → Kept kl ko ku (k s)) (h0 : Kept kl ko ku s) :
    Kept kl ko ku (withPlateWords id p reads k s) := by
  unfold withPlateWords
  repeat' first
    | with_reducible assumption | with_reducible refine Kept.ite (fun _ => ?_) (fun _ => ?_)
    | (intro x; with_reducible refine Kept.gen (kl := kl) (ko := ko) (ku := ku) (x := x) ?_ ?_; (on_goal 1 => unfold x); (on_goal 2 => (intro _; clear_value x)))
    | (intro x; (have t : Nat := x; clear t); clear_value x) | (intro x) | lift_lets -underBinder
    | with_reducible refine hk _ ?_ | with_reducible refine kept_forEach (fun _ _ _ => ?_) ?_
    | with_reducible refine kept_report ?_ | with_reducible refine kept_setBank ?_
    | with_reducible refine kept_leaveHole ?_
    | fail_if_no_progress (with_reducible refine Kept.upd ?_ rfl rfl rfl rfl rfl rfl) | split
    | with_reducible refine Kept.ofFst ?_ (by assumption) | with_reducible refine Kept.ofSnd ?_ (by assumption)
    | (clear_value *; split)

theorem kept_countFlags {pipe flags : Nat} (h0 : Kept kl ko ku s) :
    Kept kl ko ku (countFlags pipe flags s) := by
  unfold countFlags
  repeat' first
    | with_reducible assumption | with_reducible refine Kept.ite (fun _ => ?_) (fun _ => ?_)
    | (intro x; with_reducible refine Kept.gen (kl := kl) (ko := ko) (ku := ku) (x := x) ?_ ?_; (on_goal 1 => unfold x); (on_goal 2 => (intro _; clear_value x)))
    | (intro x; (have t : Nat := x; clear t); clear_value x) | (intro x) | lift_lets -underBinder
    | with_reducible refine kept_doIf (fun _ _ => ?_) ?_ | with_reducible refine kept_inc ?_
    | fail_if_no_progress (with_reducible refine Kept.upd ?_ rfl rfl rfl rfl rfl rfl) | split
    | with_reducible refine Kept.ofFst ?_ (by assumption) | with_reducible refine Kept.ofSnd ?_ (by assumption)
    | (clear_value *; split)

theorem kept_lateBefore {p : Packet} {effEnd : Option Nat} (h0 : Kept kl ko ku s) :
    Kept kl ko ku (lateBefore p effEnd s) := by
  unfold lateBefore
  repeat' first
    | with_reducible assumption | with_reducible refine Kept.ite (fun _ => ?_) (fun _ => ?_)
    | with_reducible refine kept_doIf (fun _ _ => ?_) ?_ | with_reducible refine kept_lenLate ?_
    | fail_if_no_progress (with_reducible refine Kept.upd ?_ rfl rfl rfl rfl rfl rfl) | split
    | with_reducible refine Kept.ofFst ?_ (by assumption) | with_reducible refine Kept.ofSnd ?_ (by assumption)
    | (clear_value *; split)

theorem kept_packetParse {id : Nat} {x : StageIn} (h0 : Kept kl ko ku s) :
    Kept kl ko ku (packetParse id x s) := by
  unfold packetParse
  repeat' first
    | with_reducible assumption | with_reducible refine Kept.ite (fun _ => ?_) (fun _ => ?_)
    | (intro x; with_reducible refine Kept.gen (kl := kl) (ko := ko) (ku := ku) (x := x) ?_ ?_; (on_goal 1 => unfold x); (on_goal 2 => (intro _; clear_value x)))
    | (intro x; (have t : Nat := x; clear t); clear_value x) | (intro x) | lift_lets -underBinder
    | with_reducible refine kept_inc ?_ | with_reducible refine kept_setPkt ?_
    | with_reducible refine kept_leaveHole ?_ | with_reducible refine kept_trapPacket ?_
    | with_reducible refine kept_withPlateWords (fun _ _ => ?_) ?_ | with_reducible refine kept_countFlags ?_
    | with_reducible refine kept_lateBefore ?_
    | fail_if_no_progress (with_reducible refine Kept.upd ?_ rfl rfl rfl rfl rfl rfl) | split
    | with_reducible refine Kept.ofFst ?_ (by assumption) | with_reducible refine Kept.ofSnd ?_ (by assumption)
    | (clear_value *; split)

theorem kept_setEm {t : Nat} {tab : SMap Bytes} (h0 : Kept kl ko ku s) :
    Kept kl ko ku (setEm t tab s) := by
  unfold setEm
  repeat' first
    | with_reducible assumption | with_reducible refine Kept.ite (fun _ => ?_) (fun _ => ?_)
    | (intro x; with_reducible refine Kept.gen (kl := kl) (ko := ko) (ku := ku) (x := x) ?_ ?_; (on_goal 1 => unfold x); (on_goal 2 => (intro _; clear_value x)))
    | (intro x; (have t : Nat := x; clear t); clear_value x) | (intro x) | lift_lets -underBinder
    | fail_if_no_progress (with_reducible refine Kept.upd ?_ rfl rfl rfl rfl rfl rfl) | split
    | with_reducible refine Kept.ofFst ?_ (by assumption) | with_reducible refine Kept.ofSnd ?_ (by assumption)
    | (clear_value *; split)

theorem kept_clearBad {table pipe i : Nat} (h0 : Kept kl ko ku s) :
    Kept kl ko ku (clearBad table pipe i s) := by
  unfold clearBad
  repeat' first
    | with_reducible assumption | with_reducible refine Kept.ite (fun _ => ?_) (fun _ => ?_)
    | (intro x; with_reducible refine Kept.gen (kl := kl) (ko := ko) (ku := ku) (x := x) ?_ ?_; (on_goal 1 => unfold x); (on_goal 2 => (intro _; clear_value x)))
    | (intro x; (have t : Nat := x; clear t); clear_value x) | (intro x) | lift_lets -underBinder
    | fail_if_no_progress (with_reducible refine Kept.upd ?_ rfl rfl rfl rfl rfl rfl) | split
    | with_reducible refine Kept.ofFst ?_ (by assumption) | with_reducible refine Kept.ofSnd ?_ (by assumption)
    | (clear_value *; split)

theorem kept_markBad {table pipe i : Nat} (h0 : Kept kl ko ku s) :
    Kept kl ko ku (markBad table pipe i s) := by
  unfold markBad
  repeat' first
    | with_reducible assumption | with_reducible refine Kept.ite (fun _ => ?_) (fun _ => ?_)
    | (intro x; with_reducible refine Kept.gen (kl := kl) (ko := ko) (ku := ku) (x := x) ?_ ?_; (on_goal 1 => unfold x); (on_goal 2 => (intro _; clear_value x)))
    | (intro x; (have t : Nat := x; clear t); clear_value x) | (intro x) | lift_lets -underBinder
    | fail_if_no_progress (with_reducible refine Kept.upd ?_ rfl rfl rfl rfl rfl rfl) | split
    | with_reducible refine Kept.ofFst ?_ (by assumption) | with_reducible refine Kept.ofSnd ?_ (by assumption)
    | (clear_value *; split)

theorem kept_tellOnce {inst table i code : Nat} (h0 : Kept kl ko ku s) :
    Kept kl ko ku (tellOnce inst table i code s) := by
  unfold tellOnce
  repeat' first
    | with_reducible assumption | with_reducible refine Kept.ite (fun _ => ?_) (fun _ => ?_)
    | (intro x; with_reducible refine Kept.gen (kl := kl) (ko := ko) (ku := ku) (x := x) ?_ ?_; (on_goal 1 => unfold x); (on_goal 2 => (intro _; clear_value x)))
    | (intro x; (have t : Nat := x; clear t); clear_value x) | (intro x) | lift_lets -underBinder
    | with_reducible refine kept_report ?_
    | fail_if_no_progress (with_reducible refine Kept.upd ?_ rfl rfl rfl rfl rfl rfl) | split
    | with_reducible refine Kept.ofFst ?_ (by assumption) | with_reducible refine Kept.ofSnd ?_ (by assumption)
    | (clear_value *; split)

theorem kept_countCorr {x : Ecc} (h0 : Kept kl ko ku s) :
    Kept kl ko ku (countCorr x s) := by
  unfold countCorr
  repeat' first
    | with_reducible assumption | with_reducible refine Kept.ite (fun _ => ?_) (fun _ => ?_)
    | with_reducible refine kept_doIf (fun _ _ => ?_) ?_ | with_reducible refine kept_inc ?_
    | fail_if_no_progress (with_reducible refine Kept.upd ?_ rfl rfl rfl rfl rfl rfl) | split
    | with_reducible refine Kept.ofFst ?_ (by assumption) | with_reducible refine Kept.ofSnd ?_ (by assumption)
    | (clear_value *; split)

theorem kept_learnEvent {type pipe : Nat} {key : Bytes} {old new : Nat} (h0 : Kept kl ko ku s) :
    Kept kl ko ku (learnEvent type pipe key old new s) := by
  unfold learnEvent
  repeat' first
    | with_reducible assumption | with_reducible refine Kept.ite (fun _ => ?_) (fun _ => ?_)
    | (intro x; with_reducible refine Kept.gen (kl := kl) (ko := ko) (ku := ku) (x := x) ?_ ?_; (on_goal 1 => unfold x); (on_goal 2 => (intro _; clear_value x)))
    | (intro x; (have t : Nat := x; clear t); clear_value x) | (intro x) | lift_lets -underBinder
    | with_reducible refine kept_doIf (fun _ _ => ?_) ?_ | with_reducible apply kept_emit
    | with_reducible refine kept_setFld ?_ | with_reducible refine kept_inc ?_
    | with_reducible refine kept_raiseSrc ?_
    | fail_if_no_progress (with_reducible refine Kept.upd ?_ rfl rfl rfl rfl rfl rfl) | split
    | with_reducible refine Kept.ofFst ?_ (by assumption) | with_reducible refine Kept.ofSnd ?_ (by assumption)
    | (clear_value *; split)

theorem kept_entryLost {t slot ctr : Nat} (h0 : Kept kl ko ku s) :
    Kept kl ko ku (entryLost t slot ctr s) := by
  unfold entryLost
  repeat' first
    | with_reducible assumption | with_reducible refine Kept.ite (fun _ => ?_) (fun _ => ?_)
    | (intro x; with_reducible refine Kept.gen (kl := kl) (ko := ko) (ku := ku) (x := x) ?_ ?_; (on_goal 1 => unfold x); (on_goal 2 => (intro _; clear_value x)))
    | (intro x; (have t : Nat := x; clear t); clear_value x) | (intro x) | lift_lets -underBinder
    | with_reducible refine kept_doIf (fun _ _ => ?_) ?_ | with_reducible refine kept_inc ?_
    | with_reducible refine kept_report ?_ | with_reducible refine kept_setEm ?_
    | with_reducible refine kept_learnEvent ?_
    | fail_if_no_progress (with_reducible refine Kept.upd ?_ rfl rfl rfl rfl rfl rfl) | split
    | with_reducible refine Kept.ofFst ?_ (by assumption) | with_reducible refine Kept.ofSnd ?_ (by assumption)
    | (clear_value *; split)

theorem kept_agerVisit {pipe slot : Nat} (h0 : Kept kl ko ku s) :
    Kept kl ko ku (agerVisit pipe slot s) := by
  unfold agerVisit
  repeat' first
    | with_reducible assumption | with_reducible refine Kept.ite (fun _ => ?_) (fun _ => ?_)
    | (intro x; with_reducible refine Kept.gen (kl := kl) (ko := ko) (ku := ku) (x := x) ?_ ?_; (on_goal 1 => unfold x); (on_goal 2 => (intro _; clear_value x)))
    | (intro x; (have t : Nat := x; clear t); clear_value x) | (intro x) | lift_lets -underBinder
    | with_reducible refine kept_inc ?_ | with_reducible refine kept_setEm ?_
    | with_reducible refine kept_learnEvent ?_
    | fail_if_no_progress (with_reducible refine Kept.upd ?_ rfl rfl rfl rfl rfl rfl) | split
    | with_reducible refine Kept.ofFst ?_ (by assumption) | with_reducible refine Kept.ofSnd ?_ (by assumption)
    | (clear_value *; split)

theorem kept_scrub {table pipe i : Nat} {ecc : Ecc} (h0 : Kept kl ko ku s) :
    Kept kl ko ku (scrub table pipe i ecc s) := by
  unfold scrub
  repeat' first
    | with_reducible assumption | with_reducible refine Kept.ite (fun _ => ?_) (fun _ => ?_)
    | (intro x; with_reducible refine Kept.gen (kl := kl) (ko := ko) (ku := ku) (x := x) ?_ ?_; (on_goal 1 => unfold x); (on_goal 2 => (intro _; clear_value x)))
    | (intro x; (have t : Nat := x; clear t); clear_value x) | (intro x) | lift_lets -underBinder
    | with_reducible refine kept_inc ?_ | with_reducible refine kept_report ?_ | with_reducible refine kept_markBad ?_
    | with_reducible refine kept_entryLost ?_
    | fail_if_no_progress (with_reducible refine Kept.upd ?_ rfl rfl rfl rfl rfl rfl) | split
    | with_reducible refine Kept.ofFst ?_ (by assumption) | with_reducible refine Kept.ofSnd ?_ (by assumption)
    | (clear_value *; split)

theorem kept_tblStore {o : TblOp} (h0 : Kept kl ko ku s) :
    Kept kl ko ku (tblStore o s) := by
  unfold tblStore
  repeat' first
    | with_reducible assumption | with_reducible refine Kept.ite (fun _ => ?_) (fun _ => ?_)
    | (intro x; with_reducible refine Kept.gen (kl := kl) (ko := ko) (ku := ku) (x := x) ?_ ?_; (on_goal 1 => unfold x); (on_goal 2 => (intro _; clear_value x)))
    | (intro x; (have t : Nat := x; clear t); clear_value x) | (intro x) | lift_lets -underBinder
    | with_reducible refine kept_clearBad ?_
    | fail_if_no_progress (with_reducible refine Kept.upd ?_ rfl rfl rfl rfl rfl rfl) | split
    | with_reducible refine Kept.ofFst ?_ (by assumption) | with_reducible refine Kept.ofSnd ?_ (by assumption)
    | (clear_value *; split)

theorem kept_tblInsertAll {x : TblOp} {r : State × Nat × Nat} (h : Kept kl ko ku s) (e : tblInsertAll s x = some r) :
    Kept kl ko ku r.1 := by
  unfold tblInsertAll at e
  suffices ∀ (ts : List Nat) (a : Option (State × Nat × Nat)), (∀ y, a = some y → Kept kl ko ku y.1) →
      ∀ y, ts.foldl (fun a t =>
        match a with
        | none => none
        | some (s, _, _) =>
          (emInsert t (s.emBuckets t) 32 (emImage t x.data) (s.emTab t)).map (fun r => (setEm t r.1 s, r.2.1, r.2.2))) a
        = some y → Kept kl ko ku y.1 from this _ _ (by rintro y ⟨⟩; exact h) r e
  intro ts
  induction ts with
  | nil => intro a ha y hy; exact ha y hy
  | cons t ts ih =>
    intro a ha y hy
    refine ih _ ?_ y hy
    rintro z hz
    cases a with
    | none => cases hz
    | some b =>
      obtain ⟨r, -, rfl⟩ := Option.map_eq_some_iff.1 hz
      exact kept_setEm (ha b rfl)

theorem kept_tblInsertAll' {x : TblOp} {t : State} {a b : Nat} (e : tblInsertAll s x = some (t, a, b)) (h : Kept kl ko ku s) :
    Kept kl ko ku t := kept_tblInsertAll (r := (t, a, b)) h e

theorem kept_tblDeleteAll {x : TblOp} {r : State} (h : Kept kl ko ku s) (e : tblDeleteAll s x = some r) : Kept kl ko ku r := by
  unfold tblDeleteAll at e
  suffices ∀ (ts : List Nat) (a : Option State), (∀ y, a = some y → Kept kl ko ku y) →
      ∀ y, ts.foldl (fun a t =>
        match a with
        | none => none
        | some s =>
          (emFind t (s.emBuckets t) (emKey t x.data) (s.emTab t)).map (fun i =>
            setEm t (emPut t i (zeros (emSize t)) (s.emTab t)) s)) a
        = some y → Kept kl ko ku y from this _ _ (by rintro y ⟨⟩; exact h) r e
  intro ts
  induction ts with
  | nil => intro a ha y hy; exact ha y hy
  | cons t ts ih =>
    intro a ha y hy
    refine ih _ ?_ y hy
    rintro z hz
    cases a with
    | none => cases hz
    | some b =>
      obtain ⟨r, -, rfl⟩ := Option.map_eq_some_iff.1 hz
      exact kept_setEm (ha b rfl)

theorem kept_tblCommitRoot {o : TblOp} (h0 : Kept kl ko ku s) :
    Kept kl ko ku (tblCommitRoot o s) := by
  unfold tblCommitRoot
  repeat' first
    | with_reducible assumption | with_reducible refine Kept.ite (fun _ => ?_) (fun _ => ?_)
    | with_reducible apply kept_wr | fail_if_no_progress (with_reducible refine Kept.upd ?_ rfl rfl rfl rfl rfl rfl)
    | split | with_reducible refine Kept.ofFst ?_ (by assumption)
    | with_reducible refine Kept.ofSnd ?_ (by assumption) | (clear_value *; split)

theorem kept_tblRead {p : Nat} {o : TblOp} {ecc : Ecc} (h0 : Kept kl ko ku s) :
    Kept kl ko ku (tblRead p o ecc s) := by
  unfold tblRead
  repeat' first
    | with_reducible assumption | with_reducible refine Kept.ite (fun _ => ?_) (fun _ => ?_)
    | (intro x; with_reducible refine Kept.gen (kl := kl) (ko := ko) (ku := ku) (x := x) ?_ ?_; (on_goal 1 => unfold x); (on_goal 2 => (intro _; clear_value x)))
    | (intro x; (have t : Nat := x; clear t); clear_value x) | (intro x) | lift_lets -underBinder
    | with_reducible refine kept_doIf (fun _ _ => ?_) ?_ | with_reducible refine kept_inc ?_
    | with_reducible refine kept_report ?_ | with_reducible refine kept_complete ?_
    | with_reducible refine kept_setData ?_
    | fail_if_no_progress (with_reducible refine Kept.upd ?_ rfl rfl rfl rfl rfl rfl) | split
    | with_reducible refine Kept.ofFst ?_ (by assumption) | with_reducible refine Kept.ofSnd ?_ (by assumption)
    | (clear_value *; split)

theorem kept_tblLookup {p : Nat} {o : TblOp} (h0 : Kept kl ko ku s) :
    Kept kl ko ku (tblLookup p o s) := by
  unfold tblLookup
  repeat' first
    | with_reducible assumption | with_reducible refine Kept.ite (fun _ => ?_) (fun _ => ?_)
    | (intro x; with_reducible refine Kept.gen (kl := kl) (ko := ko) (ku := ku) (x := x) ?_ ?_; (on_goal 1 => unfold x); (on_goal 2 => (intro _; clear_value x)))
    | (intro x; (have t : Nat := x; clear t); clear_value x) | (intro x) | lift_lets -underBinder
    | with_reducible refine kept_setFld ?_ | with_reducible refine kept_complete ?_
    | with_reducible refine kept_setData ?_
    | fail_if_no_progress (with_reducible refine Kept.upd ?_ rfl rfl rfl rfl rfl rfl) | split
    | with_reducible refine Kept.ofFst ?_ (by assumption) | with_reducible refine Kept.ofSnd ?_ (by assumption)
    | (clear_value *; split)

theorem kept_tblPerform {p : Nat} {o : TblOp} {ecc : Ecc} (h0 : Kept kl ko ku s) :
    Kept kl ko ku (tblPerform p o ecc s) := by
  unfold tblPerform
  repeat' first
    | with_reducible assumption | with_reducible refine Kept.ite (fun _ => ?_) (fun _ => ?_)
    | (intro x; with_reducible refine Kept.gen (kl := kl) (ko := ko) (ku := ku) (x := x) ?_ ?_; (on_goal 1 => unfold x); (on_goal 2 => (intro _; clear_value x)))
    | (intro x; (have t : Nat := x; clear t); clear_value x) | (intro x) | lift_lets -underBinder
    | with_reducible refine kept_tblInsertAll' (by assumption) ?_
    | with_reducible refine kept_tblDeleteAll ?_ (by assumption) | with_reducible refine kept_setFld ?_
    | with_reducible refine kept_inc ?_ | with_reducible refine kept_complete ?_
    | with_reducible refine kept_tblStore ?_ | with_reducible refine kept_tblCommitRoot ?_
    | with_reducible refine kept_tblRead ?_ | with_reducible refine kept_tblLookup ?_
    | fail_if_no_progress (with_reducible refine Kept.upd ?_ rfl rfl rfl rfl rfl rfl) | split
    | with_reducible refine Kept.ofFst ?_ (by assumption) | with_reducible refine Kept.ofSnd ?_ (by assumption)
    | (clear_value *; split)

theorem kept_tblCommand {fn : Fn} {p : Nat} {w : Word} {ecc : Ecc} (h0 : Kept kl ko ku s) :
    Kept kl ko ku (tblCommand fn p w ecc s) := by
  unfold tblCommand
  repeat' first
    | with_reducible assumption | with_reducible refine Kept.ite (fun _ => ?_) (fun _ => ?_)
    | (intro x; with_reducible refine Kept.gen (kl := kl) (ko := ko) (ku := ku) (x := x) ?_ ?_; (on_goal 1 => unfold x); (on_goal 2 => (intro _; clear_value x)))
    | (intro x; (have t : Nat := x; clear t); clear_value x) | (intro x) | lift_lets -underBinder
    | with_reducible refine kept_doIf (fun _ _ => ?_) ?_ | with_reducible refine kept_setFld ?_
    | with_reducible refine kept_issue (fun _ _ => ?_) ?_ | with_reducible refine kept_runChecks (fun _ _ => ?_) ?_
    | with_reducible refine kept_tblPerform ?_
    | fail_if_no_progress (with_reducible refine Kept.upd ?_ rfl rfl rfl rfl rfl rfl) | split
    | with_reducible refine Kept.ofFst ?_ (by assumption) | with_reducible refine Kept.ofSnd ?_ (by assumption)
    | (clear_value *; split)

theorem kept_tblIssue {fn : Fn} {op table mask : Nat} {ecc : Ecc} (h0 : Kept kl ko ku s) :
    Kept kl ko ku (tblIssue fn op table mask ecc s) := by
  unfold tblIssue
  repeat' first
    | with_reducible assumption | with_reducible refine Kept.ite (fun _ => ?_) (fun _ => ?_)
    | with_reducible refine kept_access (fun _ _ _ _ _ => ?_) ?_ | with_reducible refine kept_tblCommand ?_
    | fail_if_no_progress (with_reducible refine Kept.upd ?_ rfl rfl rfl rfl rfl rfl) | split
    | with_reducible refine Kept.ofFst ?_ (by assumption) | with_reducible refine Kept.ofSnd ?_ (by assumption)
    | (clear_value *; split)

theorem kept_ringComplete {p i code endBit : Nat} (h0 : Kept kl ko ku s) :
    Kept kl ko ku (ringComplete p i code endBit s) := by
  unfold ringComplete
  repeat' first
    | with_reducible assumption | with_reducible refine Kept.ite (fun _ => ?_) (fun _ => ?_)
    | (intro x; with_reducible refine Kept.gen (kl := kl) (ko := ko) (ku := ku) (x := x) ?_ ?_; (on_goal 1 => unfold x); (on_goal 2 => (intro _; clear_value x)))
    | (intro x; (have t : Nat := x; clear t); clear_value x) | (intro x) | lift_lets -underBinder
    | with_reducible refine kept_doIf (fun _ _ => ?_) ?_ | with_reducible apply kept_emit
    | with_reducible refine kept_setFld ?_ | with_reducible refine kept_inc ?_
    | with_reducible refine kept_raiseSrc ?_
    | fail_if_no_progress (with_reducible refine Kept.upd ?_ rfl rfl rfl rfl rfl rfl) | split
    | with_reducible refine Kept.ofFst ?_ (by assumption) | with_reducible refine Kept.ofSnd ?_ (by assumption)
    | (clear_value *; split)

theorem kept_runGroup {p n : Nat} {d : Bytes} (h0 : Kept kl ko ku s) :
    Kept kl ko ku (runGroup p n d s) := by
  unfold runGroup
  repeat' first
    | with_reducible assumption | with_reducible refine Kept.ite (fun _ => ?_) (fun _ => ?_)
    | with_reducible refine kept_tblInsertAll' (by assumption) ?_
    | with_reducible refine kept_tblDeleteAll ?_ (by assumption)
    | (intro x; with_reducible refine Kept.gen (kl := kl) (ko := ko) (ku := ku) (x := x) ?_ ?_; (on_goal 1 => unfold x); (on_goal 2 => (intro _; clear_value x)))
    | (intro x; (have t : Nat := x; clear t); clear_value x) | (intro x) | lift_lets -underBinder
    | with_reducible refine kept_doIf (fun _ _ => ?_) ?_ | with_reducible refine kept_forEach (fun _ _ _ => ?_) ?_
    | with_reducible refine kept_inc ?_ | with_reducible refine kept_denied ?_ | with_reducible refine kept_tblStore ?_
    | with_reducible refine kept_tblCommitRoot ?_ | with_reducible refine kept_ringComplete ?_
    | fail_if_no_progress (with_reducible refine Kept.upd ?_ rfl rfl rfl rfl rfl rfl) | split
    | with_reducible refine Kept.ofFst ?_ (by assumption) | with_reducible refine Kept.ofSnd ?_ (by assumption)
    | (clear_value *; split)

theorem kept_setBig {p : Nat} {v : Bool} (h0 : Kept kl ko ku s) :
    Kept kl ko ku (setBig p v s) := by
  unfold setBig
  repeat' first
    | with_reducible assumption | with_reducible refine Kept.ite (fun _ => ?_) (fun _ => ?_)
    | (intro x; with_reducible refine Kept.gen (kl := kl) (ko := ko) (ku := ku) (x := x) ?_ ?_; (on_goal 1 => unfold x); (on_goal 2 => (intro _; clear_value x)))
    | (intro x; (have t : Nat := x; clear t); clear_value x) | (intro x) | lift_lets -underBinder
    | fail_if_no_progress (with_reducible refine Kept.upd ?_ rfl rfl rfl rfl rfl rfl) | split
    | with_reducible refine Kept.ofFst ?_ (by assumption) | with_reducible refine Kept.ofSnd ?_ (by assumption)
    | (clear_value *; split)

theorem kept_ringRun {p m : Nat} {full : Bool} {b : Bytes} (h0 : Kept kl ko ku s) :
    Kept kl ko ku (ringRun p m full b s) := by
  unfold ringRun
  repeat' first
    | with_reducible assumption | with_reducible refine Kept.ite (fun _ => ?_) (fun _ => ?_)
    | (intro x; with_reducible refine Kept.gen (kl := kl) (ko := ko) (ku := ku) (x := x) ?_ ?_; (on_goal 1 => unfold x); (on_goal 2 => (intro _; clear_value x)))
    | (intro x; (have t : Nat := x; clear t); clear_value x) | (intro x) | lift_lets -underBinder
    | with_reducible refine kept_setFld ?_ | with_reducible refine kept_ringComplete ?_
    | with_reducible refine kept_runGroup ?_ | with_reducible refine kept_setBig ?_
    | fail_if_no_progress (with_reducible refine Kept.upd ?_ rfl rfl rfl rfl rfl rfl) | split
    | with_reducible refine Kept.ofFst ?_ (by assumption) | with_reducible refine Kept.ofSnd ?_ (by assumption)
    | (clear_value *; split)

theorem kept_ringGroup {p : Nat} {d : Dma} {group : Nat} (h0 : Kept kl ko ku s) :
    Kept kl ko ku (ringGroup p d group s) := by
  unfold ringGroup
  repeat' first
    | with_reducible assumption | with_reducible refine Kept.ite (fun _ => ?_) (fun _ => ?_)
    | (intro x; with_reducible refine Kept.gen (kl := kl) (ko := ko) (ku := ku) (x := x) ?_ ?_; (on_goal 1 => unfold x); (on_goal 2 => (intro _; clear_value x)))
    | (intro x; (have t : Nat := x; clear t); clear_value x) | (intro x) | lift_lets -underBinder
    | with_reducible refine kept_doIf (fun _ _ => ?_) ?_ | with_reducible refine kept_ringComplete ?_
    | with_reducible refine kept_setBig ?_ | with_reducible refine kept_ringRun ?_
    | fail_if_no_progress (with_reducible refine Kept.upd ?_ rfl rfl rfl rfl rfl rfl) | split
    | with_reducible refine Kept.ofFst ?_ (by assumption) | with_reducible refine Kept.ofSnd ?_ (by assumption)
    | (clear_value *; split)

theorem kept_clearFence {p : Nat} {ring : Bool} (h0 : Kept kl ko ku s) :
    Kept kl ko ku (clearFence p ring s) := by
  unfold clearFence
  repeat' first
    | with_reducible assumption | with_reducible refine Kept.ite (fun _ => ?_) (fun _ => ?_)
    | (intro x; with_reducible refine Kept.gen (kl := kl) (ko := ko) (ku := ku) (x := x) ?_ ?_; (on_goal 1 => unfold x); (on_goal 2 => (intro _; clear_value x)))
    | (intro x; (have t : Nat := x; clear t); clear_value x) | (intro x) | lift_lets -underBinder
    | fail_if_no_progress (with_reducible refine Kept.upd ?_ rfl rfl rfl rfl rfl rfl) | split
    | with_reducible refine Kept.ofFst ?_ (by assumption) | with_reducible refine Kept.ofSnd ?_ (by assumption)
    | (clear_value *; split)

theorem kept_fenceEnd {p : Nat} {ring : Bool} {code n : Nat} (h0 : Kept kl ko ku s) :
    Kept kl ko ku (fenceEnd p ring code n s) := by
  unfold fenceEnd
  repeat' first
    | with_reducible assumption | with_reducible refine Kept.ite (fun _ => ?_) (fun _ => ?_)
    | (intro x; with_reducible refine Kept.gen (kl := kl) (ko := ko) (ku := ku) (x := x) ?_ ?_; (on_goal 1 => unfold x); (on_goal 2 => (intro _; clear_value x)))
    | (intro x; (have t : Nat := x; clear t); clear_value x) | (intro x) | lift_lets -underBinder
    | with_reducible refine kept_complete ?_ | with_reducible refine kept_ringComplete ?_
    | with_reducible refine kept_clearFence ?_
    | fail_if_no_progress (with_reducible refine Kept.upd ?_ rfl rfl rfl rfl rfl rfl) | split
    | with_reducible refine Kept.ofFst ?_ (by assumption) | with_reducible refine Kept.ofSnd ?_ (by assumption)
    | (clear_value *; split)

theorem kept_fenceDone {p : Nat} {ring : Bool} (h0 : Kept kl ko ku s) :
    Kept kl ko ku (fenceDone p ring s) := by
  unfold fenceDone
  repeat' first
    | with_reducible assumption | with_reducible refine Kept.ite (fun _ => ?_) (fun _ => ?_)
    | (intro x; with_reducible refine Kept.gen (kl := kl) (ko := ko) (ku := ku) (x := x) ?_ ?_; (on_goal 1 => unfold x); (on_goal 2 => (intro _; clear_value x)))
    | (intro x; (have t : Nat := x; clear t); clear_value x) | (intro x) | lift_lets -underBinder
    | with_reducible refine kept_doIf (fun _ _ => ?_) ?_ | with_reducible refine kept_fenceEnd ?_
    | fail_if_no_progress (with_reducible refine Kept.upd ?_ rfl rfl rfl rfl rfl rfl) | split
    | with_reducible refine Kept.ofFst ?_ (by assumption) | with_reducible refine Kept.ofSnd ?_ (by assumption)
    | (clear_value *; split)

theorem kept_fenceTimeout {p : Nat} {ring : Bool} (h0 : Kept kl ko ku s) :
    Kept kl ko ku (fenceTimeout p ring s) := by
  unfold fenceTimeout
  repeat' first
    | with_reducible assumption | with_reducible refine Kept.ite (fun _ => ?_) (fun _ => ?_)
    | (intro x; with_reducible refine Kept.gen (kl := kl) (ko := ko) (ku := ku) (x := x) ?_ ?_; (on_goal 1 => unfold x); (on_goal 2 => (intro _; clear_value x)))
    | (intro x; (have t : Nat := x; clear t); clear_value x) | (intro x) | lift_lets -underBinder
    | with_reducible refine kept_doIf (fun _ _ => ?_) ?_ | with_reducible refine kept_report ?_
    | with_reducible refine kept_fenceEnd ?_
    | fail_if_no_progress (with_reducible refine Kept.upd ?_ rfl rfl rfl rfl rfl rfl) | split
    | with_reducible refine Kept.ofFst ?_ (by assumption) | with_reducible refine Kept.ofSnd ?_ (by assumption)
    | (clear_value *; split)

end Sys2Proof.Machine
end

