-- ==== Sys2Proof/Laws/KeptPipe.lean ====
section
/-! SUPPORT. Every operation of the modules named below keeps what Kept says:
Asa, Ppm, Burin, Pipeline, Plates. -/

namespace Sys2Proof.Machine

set_option linter.unreachableTactic false
set_option linter.unusedTactic false
set_option linter.unusedVariables false

variable {kl : List Instr} {ko : List OwnerCfg} {ku : List Out} {s : State}

theorem kept_asaPut {a : AsaTab} {x : Nat} {e : Bytes} (h0 : Kept kl ko ku s) :
    Kept kl ko ku (asaPut a x e s) := by
  unfold asaPut
  repeat' first
    | with_reducible assumption | with_reducible refine Kept.ite (fun _ => ?_) (fun _ => ?_)
    | (intro x; with_reducible refine Kept.gen (kl := kl) (ko := ko) (ku := ku) (x := x) ?_ ?_; (on_goal 1 => unfold x); (on_goal 2 => (intro _; clear_value x)))
    | (intro x; (have t : Nat := x; clear t); clear_value x) | (intro x) | lift_lets -underBinder
    | fail_if_no_progress (with_reducible refine Kept.upd ?_ rfl rfl rfl rfl rfl rfl) | split
    | with_reducible refine Kept.ofFst ?_ (by assumption) | with_reducible refine Kept.ofSnd ?_ (by assumption)
    | (clear_value *; split)

theorem kept_asaPutRow {a : AsaTab} {x : Nat} {e : Bytes} (h0 : Kept kl ko ku s) :
    Kept kl ko ku (asaPutRow a x e s) := by
  unfold asaPutRow
  repeat' first
    | with_reducible assumption | with_reducible refine Kept.ite (fun _ => ?_) (fun _ => ?_)
    | (intro x; with_reducible refine Kept.gen (kl := kl) (ko := ko) (ku := ku) (x := x) ?_ ?_; (on_goal 1 => unfold x); (on_goal 2 => (intro _; clear_value x)))
    | (intro x; (have t : Nat := x; clear t); clear_value x) | (intro x) | lift_lets -underBinder
    | with_reducible refine kept_asaPut ?_
    | fail_if_no_progress (with_reducible refine Kept.upd ?_ rfl rfl rfl rfl rfl rfl) | split
    | with_reducible refine Kept.ofFst ?_ (by assumption) | with_reducible refine Kept.ofSnd ?_ (by assumption)
    | (clear_value *; split)

theorem kept_asaSlot {t : Nat} (h0 : Kept kl ko ku s) :
    Kept kl ko ku (asaSlot t s) := by
  unfold asaSlot
  repeat' first
    | with_reducible assumption | with_reducible refine Kept.ite (fun _ => ?_) (fun _ => ?_)
    | with_reducible refine kept_inc ?_
    | fail_if_no_progress (with_reducible refine Kept.upd ?_ rfl rfl rfl rfl rfl rfl) | split
    | with_reducible refine Kept.ofFst ?_ (by assumption) | with_reducible refine Kept.ofSnd ?_ (by assumption)
    | (clear_value *; split)

theorem kept_asaWriteAt {t : Nat} {a : AsaTab} {x : Nat} {e : Bytes} (h0 : Kept kl ko ku s) :
    Kept kl ko ku (asaWriteAt t a x e s) := by
  unfold asaWriteAt
  repeat' first
    | with_reducible assumption | with_reducible refine Kept.ite (fun _ => ?_) (fun _ => ?_)
    | with_reducible refine kept_asaPut ?_ | with_reducible refine kept_asaSlot ?_
    | fail_if_no_progress (with_reducible refine Kept.upd ?_ rfl rfl rfl rfl rfl rfl) | split
    | with_reducible refine Kept.ofFst ?_ (by assumption) | with_reducible refine Kept.ofSnd ?_ (by assumption)
    | (clear_value *; split)

theorem kept_asaSearch {t : Nat} {key : Bytes} (h0 : Kept kl ko ku s) :
    Kept kl ko ku (asaSearch t key s).1 := by
  unfold asaSearch
  repeat' first
    | with_reducible assumption | with_reducible refine Kept.ite (fun _ => ?_) (fun _ => ?_)
    | (intro x; with_reducible refine Kept.gen (kl := kl) (ko := ko) (ku := ku) (x := x) ?_ ?_; (on_goal 1 => unfold x); (on_goal 2 => (intro _; clear_value x)))
    | (intro x; (have t : Nat := x; clear t); clear_value x) | (intro x) | lift_lets -underBinder
    | with_reducible refine kept_doIf (fun _ _ => ?_) ?_ | with_reducible refine kept_inc ?_
    | fail_if_no_progress (with_reducible refine Kept.upd ?_ rfl rfl rfl rfl rfl rfl) | split
    | with_reducible refine Kept.ofFst ?_ (by assumption) | with_reducible refine Kept.ofSnd ?_ (by assumption)
    | (clear_value *; split)

theorem kept_asaResultBad {t x : Nat} (h0 : Kept kl ko ku s) :
    Kept kl ko ku (asaResultBad t x s) := by
  unfold asaResultBad
  repeat' first
    | with_reducible assumption | with_reducible refine Kept.ite (fun _ => ?_) (fun _ => ?_)
    | (intro x; with_reducible refine Kept.gen (kl := kl) (ko := ko) (ku := ku) (x := x) ?_ ?_; (on_goal 1 => unfold x); (on_goal 2 => (intro _; clear_value x)))
    | (intro x; (have t : Nat := x; clear t); clear_value x) | (intro x) | lift_lets -underBinder
    | with_reducible refine kept_report ?_
    | fail_if_no_progress (with_reducible refine Kept.upd ?_ rfl rfl rfl rfl rfl rfl) | split
    | with_reducible refine Kept.ofFst ?_ (by assumption) | with_reducible refine Kept.ofSnd ?_ (by assumption)
    | (clear_value *; split)

theorem kept_asaMove {t : Nat} {a : AsaTab} {m : Nat × Nat} (h0 : Kept kl ko ku s) :
    Kept kl ko ku (asaMove t a m s) := by
  unfold asaMove
  repeat' first
    | with_reducible assumption | with_reducible refine Kept.ite (fun _ => ?_) (fun _ => ?_)
    | (intro x; with_reducible refine Kept.gen (kl := kl) (ko := ko) (ku := ku) (x := x) ?_ ?_; (on_goal 1 => unfold x); (on_goal 2 => (intro _; clear_value x)))
    | (intro x; (have t : Nat := x; clear t); clear_value x) | (intro x) | lift_lets -underBinder
    | with_reducible refine kept_asaWriteAt ?_
    | fail_if_no_progress (with_reducible refine Kept.upd ?_ rfl rfl rfl rfl rfl rfl) | split
    | with_reducible refine Kept.ofFst ?_ (by assumption) | with_reducible refine Kept.ofSnd ?_ (by assumption)
    | (clear_value *; split)

theorem kept_asaRead {p t x : Nat} {ecc : Ecc} (h0 : Kept kl ko ku s) :
    Kept kl ko ku (asaRead p t x ecc s) := by
  unfold asaRead
  repeat' first
    | with_reducible assumption | with_reducible refine Kept.ite (fun _ => ?_) (fun _ => ?_)
    | (intro x; with_reducible refine Kept.gen (kl := kl) (ko := ko) (ku := ku) (x := x) ?_ ?_; (on_goal 1 => unfold x); (on_goal 2 => (intro _; clear_value x)))
    | (intro x; (have t : Nat := x; clear t); clear_value x) | (intro x) | lift_lets -underBinder
    | with_reducible refine kept_complete ?_ | with_reducible refine kept_setData ?_
    | fail_if_no_progress (with_reducible refine Kept.upd ?_ rfl rfl rfl rfl rfl rfl) | split
    | with_reducible refine Kept.ofFst ?_ (by assumption) | with_reducible refine Kept.ofSnd ?_ (by assumption)
    | (clear_value *; split)

theorem kept_asaInsert {p t x : Nat} {img : Bytes} {ecc : Ecc} (h0 : Kept kl ko ku s) :
    Kept kl ko ku (asaInsert p t x img ecc s) := by
  unfold asaInsert
  repeat' first
    | with_reducible assumption | with_reducible refine Kept.ite (fun _ => ?_) (fun _ => ?_)
    | (intro x; with_reducible refine Kept.gen (kl := kl) (ko := ko) (ku := ku) (x := x) ?_ ?_; (on_goal 1 => unfold x); (on_goal 2 => (intro _; clear_value x)))
    | (intro x; (have t : Nat := x; clear t); clear_value x) | (intro x) | lift_lets -underBinder
    | with_reducible refine kept_forEach (fun _ _ _ => ?_) ?_ | with_reducible refine kept_setFld ?_
    | with_reducible refine kept_complete ?_ | with_reducible refine kept_asaWriteAt ?_
    | with_reducible refine kept_asaMove ?_
    | fail_if_no_progress (with_reducible refine Kept.upd ?_ rfl rfl rfl rfl rfl rfl) | split
    | with_reducible refine Kept.ofFst ?_ (by assumption) | with_reducible refine Kept.ofSnd ?_ (by assumption)
    | (clear_value *; split)

theorem kept_asaHit {p t x : Nat} {e : Bytes} {ecc : Ecc} (h0 : Kept kl ko ku s) :
    Kept kl ko ku (asaHit p t x e ecc s) := by
  unfold asaHit
  repeat' first
    | with_reducible assumption | with_reducible refine Kept.ite (fun _ => ?_) (fun _ => ?_)
    | with_reducible refine kept_doIf (fun _ _ => ?_) ?_ | with_reducible refine kept_setFld ?_
    | with_reducible refine kept_inc ?_ | with_reducible refine kept_complete ?_
    | with_reducible refine kept_setData ?_ | with_reducible refine kept_asaResultBad ?_
    | fail_if_no_progress (with_reducible refine Kept.upd ?_ rfl rfl rfl rfl rfl rfl) | split
    | with_reducible refine Kept.ofFst ?_ (by assumption) | with_reducible refine Kept.ofSnd ?_ (by assumption)
    | (clear_value *; split)

theorem kept_asaSearchDo {p t : Nat} {img : Bytes} {ecc : Ecc} (h0 : Kept kl ko ku s) :
    Kept kl ko ku (asaSearchDo p t img ecc s) := by
  unfold asaSearchDo
  repeat' first
    | with_reducible assumption | with_reducible refine Kept.ite (fun _ => ?_) (fun _ => ?_)
    | (intro x; with_reducible refine Kept.gen (kl := kl) (ko := ko) (ku := ku) (x := x) ?_ ?_; (on_goal 1 => unfold x); (on_goal 2 => (intro _; clear_value x)))
    | (intro x; (have t : Nat := x; clear t); clear_value x) | (intro x) | lift_lets -underBinder
    | with_reducible refine kept_complete ?_ | with_reducible refine kept_asaSearch ?_
    | with_reducible refine kept_asaHit ?_
    | fail_if_no_progress (with_reducible refine Kept.upd ?_ rfl rfl rfl rfl rfl rfl) | split
    | with_reducible refine Kept.ofFst ?_ (by assumption) | with_reducible refine Kept.ofSnd ?_ (by assumption)
    | (clear_value *; split)

theorem kept_asaPerform {p op t x : Nat} {img : Bytes} {ecc : Ecc} (h0 : Kept kl ko ku s) :
    Kept kl ko ku (asaPerform p op t x img ecc s) := by
  unfold asaPerform
  repeat' first
    | with_reducible assumption | with_reducible refine Kept.ite (fun _ => ?_) (fun _ => ?_)
    | (intro x; with_reducible refine Kept.gen (kl := kl) (ko := ko) (ku := ku) (x := x) ?_ ?_; (on_goal 1 => unfold x); (on_goal 2 => (intro _; clear_value x)))
    | (intro x; (have t : Nat := x; clear t); clear_value x) | (intro x) | lift_lets -underBinder
    | with_reducible refine kept_complete ?_ | with_reducible refine kept_asaPutRow ?_
    | with_reducible refine kept_asaSlot ?_ | with_reducible refine kept_asaWriteAt ?_
    | with_reducible refine kept_asaRead ?_ | with_reducible refine kept_asaInsert ?_
    | with_reducible refine kept_asaSearchDo ?_
    | fail_if_no_progress (with_reducible refine Kept.upd ?_ rfl rfl rfl rfl rfl rfl) | split
    | with_reducible refine Kept.ofFst ?_ (by assumption) | with_reducible refine Kept.ofSnd ?_ (by assumption)
    | (clear_value *; split)

theorem kept_asaCommand {fn : Fn} {p : Nat} {w : Word} {ecc : Ecc} (h0 : Kept kl ko ku s) :
    Kept kl ko ku (asaCommand fn p w ecc s) := by
  unfold asaCommand
  repeat' first
    | with_reducible assumption | with_reducible refine Kept.ite (fun _ => ?_) (fun _ => ?_)
    | (intro x; with_reducible refine Kept.gen (kl := kl) (ko := ko) (ku := ku) (x := x) ?_ ?_; (on_goal 1 => unfold x); (on_goal 2 => (intro _; clear_value x)))
    | (intro x; (have t : Nat := x; clear t); clear_value x) | (intro x) | lift_lets -underBinder
    | with_reducible refine kept_doIf (fun _ _ => ?_) ?_ | with_reducible refine kept_setFld ?_
    | with_reducible refine kept_issue (fun _ _ => ?_) ?_ | with_reducible refine kept_runChecks (fun _ _ => ?_) ?_
    | with_reducible refine kept_asaPerform ?_
    | fail_if_no_progress (with_reducible refine Kept.upd ?_ rfl rfl rfl rfl rfl rfl) | split
    | with_reducible refine Kept.ofFst ?_ (by assumption) | with_reducible refine Kept.ofSnd ?_ (by assumption)
    | (clear_value *; split)

theorem kept_asaIssue {fn : Fn} {op t : Nat} {ecc : Ecc} (h0 : Kept kl ko ku s) :
    Kept kl ko ku (asaIssue fn op t ecc s) := by
  unfold asaIssue
  repeat' first
    | with_reducible assumption | with_reducible refine Kept.ite (fun _ => ?_) (fun _ => ?_)
    | with_reducible refine kept_access (fun _ _ _ _ _ => ?_) ?_ | with_reducible refine kept_asaCommand ?_
    | fail_if_no_progress (with_reducible refine Kept.upd ?_ rfl rfl rfl rfl rfl rfl) | split
    | with_reducible refine Kept.ofFst ?_ (by assumption) | with_reducible refine Kept.ofSnd ?_ (by assumption)
    | (clear_value *; split)

theorem kept_asaCfgEffect {old new : Word} (h0 : Kept kl ko ku s) :
    Kept kl ko ku (asaCfgEffect old new s) := by
  unfold asaCfgEffect
  dsimp only
  repeat' first
    | with_reducible assumption | with_reducible refine Kept.ite (fun _ => ?_) (fun _ => ?_)
    | fail_if_no_progress (with_reducible refine Kept.upd ?_ rfl rfl rfl rfl rfl rfl) | split
    | with_reducible refine Kept.ofFst ?_ (by assumption) | with_reducible refine Kept.ofSnd ?_ (by assumption)
    | (clear_value *; split)

theorem kept_asaHole {bank row : Nat} (h0 : Kept kl ko ku s) : Kept kl ko ku (asaHole bank row s) := by
  unfold asaHole
  refine Kept.upd ?_ rfl rfl rfl rfl rfl rfl
  split
  · exact kept_asaPutRow h0
  · exact h0

theorem kept_asaVisited {bank row : Nat} (h0 : Kept kl ko ku s) :
    Kept kl ko ku (asaVisited bank row s) := by
  unfold asaVisited
  repeat' first
    | with_reducible assumption | with_reducible refine Kept.ite (fun _ => ?_) (fun _ => ?_)
    | fail_if_no_progress (with_reducible refine Kept.upd ?_ rfl rfl rfl rfl rfl rfl) | split
    | with_reducible refine Kept.ofFst ?_ (by assumption) | with_reducible refine Kept.ofSnd ?_ (by assumption)
    | (clear_value *; split)

theorem kept_asaScrub {bank row : Nat} {find : AsaFind} (h0 : Kept kl ko ku s) :
    Kept kl ko ku (asaScrub bank row find s) := by
  unfold asaScrub
  repeat' first
    | with_reducible assumption | with_reducible refine Kept.ite (fun _ => ?_) (fun _ => ?_)
    | (intro x; with_reducible refine Kept.gen (kl := kl) (ko := ko) (ku := ku) (x := x) ?_ ?_; (on_goal 1 => unfold x); (on_goal 2 => (intro _; clear_value x)))
    | (intro x; (have t : Nat := x; clear t); clear_value x) | (intro x) | lift_lets -underBinder
    | with_reducible refine kept_inc ?_ | with_reducible refine kept_report ?_ | with_reducible refine kept_asaHole ?_
    | with_reducible refine kept_asaVisited ?_
    | fail_if_no_progress (with_reducible refine Kept.upd ?_ rfl rfl rfl rfl rfl rfl) | split
    | with_reducible refine Kept.ofFst ?_ (by assumption) | with_reducible refine Kept.ofSnd ?_ (by assumption)
    | (clear_value *; split)

theorem kept_setPattern {i : Nat} {e : Bytes} (h0 : Kept kl ko ku s) :
    Kept kl ko ku (setPattern i e s) := by
  unfold setPattern
  repeat' first
    | with_reducible assumption | with_reducible refine Kept.ite (fun _ => ?_) (fun _ => ?_)
    | (intro x; with_reducible refine Kept.gen (kl := kl) (ko := ko) (ku := ku) (x := x) ?_ ?_; (on_goal 1 => unfold x); (on_goal 2 => (intro _; clear_value x)))
    | (intro x; (have t : Nat := x; clear t); clear_value x) | (intro x) | lift_lets -underBinder
    | fail_if_no_progress (with_reducible refine Kept.upd ?_ rfl rfl rfl rfl rfl rfl) | split
    | with_reducible refine Kept.ofFst ?_ (by assumption) | with_reducible refine Kept.ofSnd ?_ (by assumption)
    | (clear_value *; split)

theorem kept_ppmLose {i : Nat} (h0 : Kept kl ko ku s) :
    Kept kl ko ku (ppmLose i s) := by
  unfold ppmLose
  repeat' first
    | with_reducible assumption | with_reducible refine Kept.ite (fun _ => ?_) (fun _ => ?_)
    | fail_if_no_progress (with_reducible refine Kept.upd ?_ rfl rfl rfl rfl rfl rfl) | split
    | with_reducible refine Kept.ofFst ?_ (by assumption) | with_reducible refine Kept.ofSnd ?_ (by assumption)
    | (clear_value *; split)

theorem kept_ppmError {i : Nat} {ecc : Ecc} (h0 : Kept kl ko ku s) :
    Kept kl ko ku (ppmError i ecc s) := by
  unfold ppmError
  repeat' first
    | with_reducible assumption | with_reducible refine Kept.ite (fun _ => ?_) (fun _ => ?_)
    | with_reducible refine kept_inc ?_ | with_reducible refine kept_report ?_ | with_reducible refine kept_ppmLose ?_
    | fail_if_no_progress (with_reducible refine Kept.upd ?_ rfl rfl rfl rfl rfl rfl) | split
    | with_reducible refine Kept.ofFst ?_ (by assumption) | with_reducible refine Kept.ofSnd ?_ (by assumption)
    | (clear_value *; split)

theorem kept_scanStart {id : Nat} {p : Packet} (h0 : Kept kl ko ku s) :
    Kept kl ko ku (scanStart id p s) := by
  unfold scanStart
  dsimp only
  repeat' first
    | with_reducible assumption | with_reducible refine Kept.ite (fun _ => ?_) (fun _ => ?_)
    | with_reducible refine kept_inc ?_ | with_reducible refine kept_setPkt ?_
    | fail_if_no_progress (with_reducible refine Kept.upd ?_ rfl rfl rfl rfl rfl rfl) | split
    | with_reducible refine Kept.ofFst ?_ (by assumption) | with_reducible refine Kept.ofSnd ?_ (by assumption)
    | (clear_value *; split)

theorem kept_scanEnd {id : Nat} {errs : List (Nat × Ecc)} (h0 : Kept kl ko ku s) :
    Kept kl ko ku (scanEnd id errs s) := by
  unfold scanEnd
  dsimp only
  repeat' first
    | with_reducible assumption | with_reducible refine Kept.ite (fun _ => ?_) (fun _ => ?_)
    | with_reducible refine kept_doIf (fun _ _ => ?_) ?_ | with_reducible refine kept_forEach (fun _ _ _ => ?_) ?_
    | with_reducible refine kept_inc ?_ | with_reducible refine kept_setPkt ?_ | with_reducible refine kept_ppmError ?_
    | fail_if_no_progress (with_reducible refine Kept.upd ?_ rfl rfl rfl rfl rfl rfl) | split
    | with_reducible refine Kept.ofFst ?_ (by assumption) | with_reducible refine Kept.ofSnd ?_ (by assumption)
    | (clear_value *; split)

theorem kept_ppmPerform {op i : Nat} {e : Bytes} {ecc : Ecc} (h0 : Kept kl ko ku s) :
    Kept kl ko ku (ppmPerform op i e ecc s) := by
  unfold ppmPerform
  repeat' first
    | with_reducible assumption | with_reducible refine Kept.ite (fun _ => ?_) (fun _ => ?_)
    | (intro x; with_reducible refine Kept.gen (kl := kl) (ko := ko) (ku := ku) (x := x) ?_ ?_; (on_goal 1 => unfold x); (on_goal 2 => (intro _; clear_value x)))
    | (intro x; (have t : Nat := x; clear t); clear_value x) | (intro x) | lift_lets -underBinder
    | with_reducible refine kept_complete ?_ | with_reducible refine kept_setData ?_
    | with_reducible refine kept_setPattern ?_ | with_reducible refine kept_ppmError ?_
    | fail_if_no_progress (with_reducible refine Kept.upd ?_ rfl rfl rfl rfl rfl rfl) | split
    | with_reducible refine Kept.ofFst ?_ (by assumption) | with_reducible refine Kept.ofSnd ?_ (by assumption)
    | (clear_value *; split)

theorem kept_ppmCommand {fn : Fn} {p : Nat} {w : Word} {ecc : Ecc} (h0 : Kept kl ko ku s) :
    Kept kl ko ku (ppmCommand fn p w ecc s) := by
  unfold ppmCommand
  repeat' first
    | with_reducible assumption | with_reducible refine Kept.ite (fun _ => ?_) (fun _ => ?_)
    | (intro x; with_reducible refine Kept.gen (kl := kl) (ko := ko) (ku := ku) (x := x) ?_ ?_; (on_goal 1 => unfold x); (on_goal 2 => (intro _; clear_value x)))
    | (intro x; (have t : Nat := x; clear t); clear_value x) | (intro x) | lift_lets -underBinder
    | with_reducible refine kept_issue (fun _ _ => ?_) ?_ | with_reducible refine kept_runChecks (fun _ _ => ?_) ?_
    | with_reducible refine kept_ppmPerform ?_
    | fail_if_no_progress (with_reducible refine Kept.upd ?_ rfl rfl rfl rfl rfl rfl) | split
    | with_reducible refine Kept.ofFst ?_ (by assumption) | with_reducible refine Kept.ofSnd ?_ (by assumption)
    | (clear_value *; split)

theorem kept_ppmIssue {fn : Fn} {op i : Nat} {ecc : Ecc} (h0 : Kept kl ko ku s) :
    Kept kl ko ku (ppmIssue fn op i ecc s) := by
  unfold ppmIssue
  repeat' first
    | with_reducible assumption | with_reducible refine Kept.ite (fun _ => ?_) (fun _ => ?_)
    | with_reducible refine kept_access (fun _ _ _ _ _ => ?_) ?_ | with_reducible refine kept_ppmCommand ?_
    | fail_if_no_progress (with_reducible refine Kept.upd ?_ rfl rfl rfl rfl rfl rfl) | split
    | with_reducible refine Kept.ofFst ?_ (by assumption) | with_reducible refine Kept.ofSnd ?_ (by assumption)
    | (clear_value *; split)

theorem kept_setCtx {n : Nat} {b : Bytes} (h0 : Kept kl ko ku s) :
    Kept kl ko ku (setCtx n b s) := by
  unfold setCtx
  repeat' first
    | with_reducible assumption | with_reducible refine Kept.ite (fun _ => ?_) (fun _ => ?_)
    | (intro x; with_reducible refine Kept.gen (kl := kl) (ko := ko) (ku := ku) (x := x) ?_ ?_; (on_goal 1 => unfold x); (on_goal 2 => (intro _; clear_value x)))
    | (intro x; (have t : Nat := x; clear t); clear_value x) | (intro x) | lift_lets -underBinder
    | fail_if_no_progress (with_reducible refine Kept.upd ?_ rfl rfl rfl rfl rfl rfl) | split
    | with_reducible refine Kept.ofFst ?_ (by assumption) | with_reducible refine Kept.ofSnd ?_ (by assumption)
    | (clear_value *; split)

theorem kept_burinPush {e : BurinEv} (h0 : Kept kl ko ku s) :
    Kept kl ko ku (burinPush e s) := by
  unfold burinPush
  repeat' first
    | with_reducible assumption | with_reducible refine Kept.ite (fun _ => ?_) (fun _ => ?_)
    | (intro x; with_reducible refine Kept.gen (kl := kl) (ko := ko) (ku := ku) (x := x) ?_ ?_; (on_goal 1 => unfold x); (on_goal 2 => (intro _; clear_value x)))
    | (intro x; (have t : Nat := x; clear t); clear_value x) | (intro x) | lift_lets -underBinder
    | fail_if_no_progress (with_reducible refine Kept.upd ?_ rfl rfl rfl rfl rfl rfl) | split
    | with_reducible refine Kept.ofFst ?_ (by assumption) | with_reducible refine Kept.ofSnd ?_ (by assumption)
    | (clear_value *; split)

theorem kept_burinPacket {op sess : Nat} {p : Packet} (h0 : Kept kl ko ku s) :
    Kept kl ko ku (burinPacket op sess p s) := by
  unfold burinPacket
  repeat' first
    | with_reducible assumption | with_reducible refine Kept.ite (fun _ => ?_) (fun _ => ?_)
    | with_reducible refine kept_inc ?_ | with_reducible refine kept_burinPush ?_
    | fail_if_no_progress (with_reducible refine Kept.upd ?_ rfl rfl rfl rfl rfl rfl) | split
    | with_reducible refine Kept.ofFst ?_ (by assumption) | with_reducible refine Kept.ofSnd ?_ (by assumption)
    | (clear_value *; split)

theorem kept_storeError {engine key : Nat} {ecc : Ecc} (h0 : Kept kl ko ku s) :
    Kept kl ko ku (storeError engine key ecc s) := by
  unfold storeError
  repeat' first
    | with_reducible assumption | with_reducible refine Kept.ite (fun _ => ?_) (fun _ => ?_)
    | (intro x; with_reducible refine Kept.gen (kl := kl) (ko := ko) (ku := ku) (x := x) ?_ ?_; (on_goal 1 => unfold x); (on_goal 2 => (intro _; clear_value x)))
    | (intro x; (have t : Nat := x; clear t); clear_value x) | (intro x) | lift_lets -underBinder
    | with_reducible refine kept_inc ?_ | with_reducible refine kept_report ?_
    | fail_if_no_progress (with_reducible refine Kept.upd ?_ rfl rfl rfl rfl rfl rfl) | split
    | with_reducible refine Kept.ofFst ?_ (by assumption) | with_reducible refine Kept.ofSnd ?_ (by assumption)
    | (clear_value *; split)

theorem kept_notify {sess code : Nat} {data : Bytes} (h0 : Kept kl ko ku s) :
    Kept kl ko ku (notify sess code data s) := by
  unfold notify
  repeat' first
    | with_reducible assumption | with_reducible refine Kept.ite (fun _ => ?_) (fun _ => ?_)
    | (intro x; with_reducible refine Kept.gen (kl := kl) (ko := ko) (ku := ku) (x := x) ?_ ?_; (on_goal 1 => unfold x); (on_goal 2 => (intro _; clear_value x)))
    | (intro x; (have t : Nat := x; clear t); clear_value x) | (intro x) | lift_lets -underBinder
    | with_reducible refine kept_doIf (fun _ _ => ?_) ?_ | with_reducible apply kept_emit
    | with_reducible refine kept_setFld ?_ | with_reducible refine kept_inc ?_
    | with_reducible refine kept_raiseSrc ?_
    | fail_if_no_progress (with_reducible refine Kept.upd ?_ rfl rfl rfl rfl rfl rfl) | split
    | with_reducible refine Kept.ofFst ?_ (by assumption) | with_reducible refine Kept.ofSnd ?_ (by assumption)
    | (clear_value *; split)

theorem kept_tbAdj {arg : Nat} {res : Word} (h0 : Kept kl ko ku s) :
    Kept kl ko ku (tbAdj arg res s) := by
  unfold tbAdj
  repeat' first
    | with_reducible assumption | with_reducible refine Kept.ite (fun _ => ?_) (fun _ => ?_)
    | (intro x; with_reducible refine Kept.gen (kl := kl) (ko := ko) (ku := ku) (x := x) ?_ ?_; (on_goal 1 => unfold x); (on_goal 2 => (intro _; clear_value x)))
    | (intro x; (have t : Nat := x; clear t); clear_value x) | (intro x) | lift_lets -underBinder
    | with_reducible refine kept_inc ?_ | with_reducible refine kept_report ?_
    | fail_if_no_progress (with_reducible refine Kept.upd ?_ rfl rfl rfl rfl rfl rfl) | split
    | with_reducible refine Kept.ofFst ?_ (by assumption) | with_reducible refine Kept.ofSnd ?_ (by assumption)
    | (clear_value *; split)

theorem kept_deleteNow {sess : Nat} (h0 : Kept kl ko ku s) :
    Kept kl ko ku (deleteNow sess s) := by
  unfold deleteNow
  repeat' first
    | with_reducible assumption | with_reducible refine Kept.ite (fun _ => ?_) (fun _ => ?_)
    | (intro x; with_reducible refine Kept.gen (kl := kl) (ko := ko) (ku := ku) (x := x) ?_ ?_; (on_goal 1 => unfold x); (on_goal 2 => (intro _; clear_value x)))
    | (intro x; (have t : Nat := x; clear t); clear_value x) | (intro x) | lift_lets -underBinder
    | with_reducible refine kept_bump ?_ | with_reducible refine kept_setCtx ?_
    | fail_if_no_progress (with_reducible refine Kept.upd ?_ rfl rfl rfl rfl rfl rfl) | split
    | with_reducible refine Kept.ofFst ?_ (by assumption) | with_reducible refine Kept.ofSnd ?_ (by assumption)
    | (clear_value *; split)

theorem kept_finishDelete {sess : Nat} (h0 : Kept kl ko ku s) :
    Kept kl ko ku (finishDelete sess s) := by
  unfold finishDelete
  repeat' first
    | with_reducible assumption | with_reducible refine Kept.ite (fun _ => ?_) (fun _ => ?_)
    | (intro x; with_reducible refine Kept.gen (kl := kl) (ko := ko) (ku := ku) (x := x) ?_ ?_; (on_goal 1 => unfold x); (on_goal 2 => (intro _; clear_value x)))
    | (intro x; (have t : Nat := x; clear t); clear_value x) | (intro x) | lift_lets -underBinder
    | with_reducible refine kept_doIf (fun _ _ => ?_) ?_ | with_reducible refine kept_forEach (fun _ _ _ => ?_) ?_
    | with_reducible refine kept_complete ?_ | with_reducible refine kept_deleteNow ?_
    | fail_if_no_progress (with_reducible refine Kept.upd ?_ rfl rfl rfl rfl rfl rfl) | split
    | with_reducible refine Kept.ofFst ?_ (by assumption) | with_reducible refine Kept.ofSnd ?_ (by assumption)
    | (clear_value *; split)

theorem kept_engineIdle {engine : Nat} {e : Eng} (h0 : Kept kl ko ku s) :
    Kept kl ko ku (engineIdle engine e s) := by
  unfold engineIdle
  repeat' first
    | with_reducible assumption | with_reducible refine Kept.ite (fun _ => ?_) (fun _ => ?_)
    | (intro x; with_reducible refine Kept.gen (kl := kl) (ko := ko) (ku := ku) (x := x) ?_ ?_; (on_goal 1 => unfold x); (on_goal 2 => (intro _; clear_value x)))
    | (intro x; (have t : Nat := x; clear t); clear_value x) | (intro x) | lift_lets -underBinder
    | with_reducible apply kept_wr | with_reducible refine kept_bump ?_
    | fail_if_no_progress (with_reducible refine Kept.upd ?_ rfl rfl rfl rfl rfl rfl) | split
    | with_reducible refine Kept.ofFst ?_ (by assumption) | with_reducible refine Kept.ofSnd ?_ (by assumption)
    | (clear_value *; split)

theorem kept_performAct {engine sess : Nat} {a : BurinAct} (h0 : Kept kl ko ku s) :
    Kept kl ko ku (performAct engine sess a s) := by
  unfold performAct
  repeat' first
    | with_reducible assumption | with_reducible refine Kept.ite (fun _ => ?_) (fun _ => ?_)
    | (intro x; with_reducible refine Kept.gen (kl := kl) (ko := ko) (ku := ku) (x := x) ?_ ?_; (on_goal 1 => unfold x); (on_goal 2 => (intro _; clear_value x)))
    | (intro x; (have t : Nat := x; clear t); clear_value x) | (intro x) | lift_lets -underBinder
    | with_reducible refine kept_inc ?_ | with_reducible refine kept_toBridge ?_ | with_reducible refine kept_setCtx ?_
    | with_reducible refine kept_notify ?_ | with_reducible refine kept_tbAdj ?_
    | fail_if_no_progress (with_reducible refine Kept.upd ?_ rfl rfl rfl rfl rfl rfl) | split
    | with_reducible refine Kept.ofFst ?_ (by assumption) | with_reducible refine Kept.ofSnd ?_ (by assumption)
    | (clear_value *; split)

theorem kept_eventEnd {engine : Nat} {errs : List (Nat × Ecc)} (h0 : Kept kl ko ku s) :
    Kept kl ko ku (eventEnd engine errs s) := by
  unfold eventEnd
  repeat' first
    | with_reducible assumption | with_reducible refine Kept.ite (fun _ => ?_) (fun _ => ?_)
    | (intro x; with_reducible refine Kept.gen (kl := kl) (ko := ko) (ku := ku) (x := x) ?_ ?_; (on_goal 1 => unfold x); (on_goal 2 => (intro _; clear_value x)))
    | (intro x; (have t : Nat := x; clear t); clear_value x) | (intro x) | lift_lets -underBinder
    | with_reducible refine kept_forEach (fun _ _ _ => ?_) ?_ | with_reducible refine kept_inc ?_
    | with_reducible refine kept_setCtx ?_ | with_reducible refine kept_storeError ?_
    | with_reducible refine kept_finishDelete ?_ | with_reducible refine kept_engineIdle ?_
    | with_reducible refine kept_performAct ?_
    | fail_if_no_progress (with_reducible refine Kept.upd ?_ rfl rfl rfl rfl rfl rfl) | split
    | with_reducible refine Kept.ofFst ?_ (by assumption) | with_reducible refine Kept.ofSnd ?_ (by assumption)
    | (clear_value *; split)

theorem kept_eventAbandon {engine : Nat} {errs : List (Nat × Ecc)} (h0 : Kept kl ko ku s) :
    Kept kl ko ku (eventAbandon engine errs s) := by
  unfold eventAbandon
  repeat' first
    | with_reducible assumption | with_reducible refine Kept.ite (fun _ => ?_) (fun _ => ?_)
    | (intro x; with_reducible refine Kept.gen (kl := kl) (ko := ko) (ku := ku) (x := x) ?_ ?_; (on_goal 1 => unfold x); (on_goal 2 => (intro _; clear_value x)))
    | (intro x; (have t : Nat := x; clear t); clear_value x) | (intro x) | lift_lets -underBinder
    | with_reducible refine kept_forEach (fun _ _ _ => ?_) ?_ | with_reducible refine kept_storeError ?_
    | with_reducible refine kept_finishDelete ?_ | with_reducible refine kept_engineIdle ?_
    | fail_if_no_progress (with_reducible refine Kept.upd ?_ rfl rfl rfl rfl rfl rfl) | split
    | with_reducible refine Kept.ofFst ?_ (by assumption) | with_reducible refine Kept.ofSnd ?_ (by assumption)
    | (clear_value *; split)

theorem kept_faultEvent {engine : Nat} {ev : BurinEv} {pc cause : Nat} (h0 : Kept kl ko ku s) :
    Kept kl ko ku (faultEvent engine ev pc cause s) := by
  unfold faultEvent
  repeat' first
    | with_reducible assumption | with_reducible refine Kept.ite (fun _ => ?_) (fun _ => ?_)
    | (intro x; with_reducible refine Kept.gen (kl := kl) (ko := ko) (ku := ku) (x := x) ?_ ?_; (on_goal 1 => unfold x); (on_goal 2 => (intro _; clear_value x)))
    | (intro x; (have t : Nat := x; clear t); clear_value x) | (intro x) | lift_lets -underBinder
    | with_reducible refine kept_inc ?_ | with_reducible refine kept_report ?_
    | with_reducible refine kept_setCtx ?_ | with_reducible refine kept_notify ?_
    | fail_if_no_progress (with_reducible refine Kept.upd ?_ rfl rfl rfl rfl rfl rfl) | split
    | with_reducible refine Kept.ofFst ?_ (by assumption) | with_reducible refine Kept.ofSnd ?_ (by assumption)
    | (clear_value *; split)

theorem kept_eventFault {engine : Nat} {errs : List (Nat × Ecc)} (h0 : Kept kl ko ku s) :
    Kept kl ko ku (eventFault engine errs s) := by
  unfold eventFault
  repeat' first
    | with_reducible assumption | with_reducible refine Kept.ite (fun _ => ?_) (fun _ => ?_)
    | (intro x; with_reducible refine Kept.gen (kl := kl) (ko := ko) (ku := ku) (x := x) ?_ ?_; (on_goal 1 => unfold x); (on_goal 2 => (intro _; clear_value x)))
    | (intro x; (have t : Nat := x; clear t); clear_value x) | (intro x) | lift_lets -underBinder
    | with_reducible refine kept_forEach (fun _ _ _ => ?_) ?_ | with_reducible refine kept_storeError ?_
    | with_reducible refine kept_finishDelete ?_ | with_reducible refine kept_engineIdle ?_
    | with_reducible refine kept_faultEvent ?_
    | fail_if_no_progress (with_reducible refine Kept.upd ?_ rfl rfl rfl rfl rfl rfl) | split
    | with_reducible refine Kept.ofFst ?_ (by assumption) | with_reducible refine Kept.ofSnd ?_ (by assumption)
    | (clear_value *; split)

theorem kept_eventStart {engine sess : Nat} {ecc : Ecc} (h0 : Kept kl ko ku s) :
    Kept kl ko ku (eventStart engine sess ecc s) := by
  unfold eventStart
  repeat' first
    | with_reducible assumption | with_reducible refine Kept.ite (fun _ => ?_) (fun _ => ?_)
    | (intro x; with_reducible refine Kept.gen (kl := kl) (ko := ko) (ku := ku) (x := x) ?_ ?_; (on_goal 1 => unfold x); (on_goal 2 => (intro _; clear_value x)))
    | (intro x; (have t : Nat := x; clear t); clear_value x) | (intro x) | lift_lets -underBinder
    | with_reducible apply kept_wr | with_reducible refine kept_inc ?_ | with_reducible refine kept_storeError ?_
    | with_reducible refine kept_faultEvent ?_
    | fail_if_no_progress (with_reducible refine Kept.upd ?_ rfl rfl rfl rfl rfl rfl) | split
    | with_reducible refine Kept.ofFst ?_ (by assumption) | with_reducible refine Kept.ofSnd ?_ (by assumption)
    | (clear_value *; split)

theorem kept_timerExpire {sess t : Nat} (h0 : Kept kl ko ku s) :
    Kept kl ko ku (timerExpire sess t s) := by
  unfold timerExpire
  repeat' first
    | with_reducible assumption | with_reducible refine Kept.ite (fun _ => ?_) (fun _ => ?_)
    | (intro x; with_reducible refine Kept.gen (kl := kl) (ko := ko) (ku := ku) (x := x) ?_ ?_; (on_goal 1 => unfold x); (on_goal 2 => (intro _; clear_value x)))
    | (intro x; (have t : Nat := x; clear t); clear_value x) | (intro x) | lift_lets -underBinder
    | with_reducible refine kept_inc ?_ | with_reducible refine kept_setCtx ?_
    | with_reducible refine kept_burinPush ?_
    | fail_if_no_progress (with_reducible refine Kept.upd ?_ rfl rfl rfl rfl rfl rfl) | split
    | with_reducible refine Kept.ofFst ?_ (by assumption) | with_reducible refine Kept.ofSnd ?_ (by assumption)
    | (clear_value *; split)

theorem kept_burinPps {stamp : Nat} (h0 : Kept kl ko ku s) :
    Kept kl ko ku (burinPps stamp s) := by
  unfold burinPps
  repeat' first
    | with_reducible assumption | with_reducible refine Kept.ite (fun _ => ?_) (fun _ => ?_)
    | (intro x; with_reducible refine Kept.gen (kl := kl) (ko := ko) (ku := ku) (x := x) ?_ ?_; (on_goal 1 => unfold x); (on_goal 2 => (intro _; clear_value x)))
    | (intro x; (have t : Nat := x; clear t); clear_value x) | (intro x) | lift_lets -underBinder
    | with_reducible refine kept_doIf (fun _ _ => ?_) ?_ | with_reducible refine kept_burinPush ?_
    | fail_if_no_progress (with_reducible refine Kept.upd ?_ rfl rfl rfl rfl rfl rfl) | split
    | with_reducible refine Kept.ofFst ?_ (by assumption) | with_reducible refine Kept.ofSnd ?_ (by assumption)
    | (clear_value *; split)

theorem kept_burinPerform {p op sess evtOp : Nat} {ecc : Ecc} (h0 : Kept kl ko ku s) :
    Kept kl ko ku (burinPerform p op sess evtOp ecc s) := by
  unfold burinPerform
  repeat' first
    | with_reducible assumption | with_reducible refine Kept.ite (fun _ => ?_) (fun _ => ?_)
    | (intro x; with_reducible refine Kept.gen (kl := kl) (ko := ko) (ku := ku) (x := x) ?_ ?_; (on_goal 1 => unfold x); (on_goal 2 => (intro _; clear_value x)))
    | (intro x; (have t : Nat := x; clear t); clear_value x) | (intro x) | lift_lets -underBinder
    | with_reducible refine kept_complete ?_ | with_reducible refine kept_setData ?_
    | with_reducible refine kept_setCtx ?_ | with_reducible refine kept_burinPush ?_
    | with_reducible refine kept_deleteNow ?_
    | fail_if_no_progress (with_reducible refine Kept.upd ?_ rfl rfl rfl rfl rfl rfl) | split
    | with_reducible refine Kept.ofFst ?_ (by assumption) | with_reducible refine Kept.ofSnd ?_ (by assumption)
    | (clear_value *; split)

theorem kept_burinLoad {fn : Fn} {p : Nat} {d : Dma} (h0 : Kept kl ko ku s) :
    Kept kl ko ku (burinLoad fn p d s) := by
  unfold burinLoad
  repeat' first
    | with_reducible assumption | with_reducible refine Kept.ite (fun _ => ?_) (fun _ => ?_)
    | with_reducible refine kept_denied ?_ | with_reducible refine kept_complete ?_
    | with_reducible refine kept_failCmd ?_
    | fail_if_no_progress (with_reducible refine Kept.upd ?_ rfl rfl rfl rfl rfl rfl) | split
    | with_reducible refine Kept.ofFst ?_ (by assumption) | with_reducible refine Kept.ofSnd ?_ (by assumption)
    | (clear_value *; split)

theorem kept_loadEnd {p : Nat} {f : Fail} (h0 : Kept kl ko ku s) :
    Kept kl ko ku (loadEnd p f s) := by
  unfold loadEnd
  repeat' first
    | with_reducible assumption | with_reducible refine Kept.ite (fun _ => ?_) (fun _ => ?_)
    | with_reducible refine kept_doIf (fun _ _ => ?_) ?_ | with_reducible refine kept_complete ?_
    | fail_if_no_progress (with_reducible refine Kept.upd ?_ rfl rfl rfl rfl rfl rfl) | split
    | with_reducible refine Kept.ofFst ?_ (by assumption) | with_reducible refine Kept.ofSnd ?_ (by assumption)
    | (clear_value *; split)

theorem kept_loadDrop (h0 : Kept kl ko ku s) :
    Kept kl ko ku (loadDrop s) := by
  unfold loadDrop
  repeat' first
    | with_reducible assumption | with_reducible refine Kept.ite (fun _ => ?_) (fun _ => ?_)
    | with_reducible refine kept_loadEnd ?_
    | fail_if_no_progress (with_reducible refine Kept.upd ?_ rfl rfl rfl rfl rfl rfl) | split
    | with_reducible refine Kept.ofFst ?_ (by assumption) | with_reducible refine Kept.ofSnd ?_ (by assumption)
    | (clear_value *; split)

theorem kept_loadVerify (h0 : Kept kl ko ku s) :
    Kept kl ko ku (loadVerify s) := by
  unfold loadVerify
  repeat' first
    | with_reducible assumption | with_reducible refine Kept.ite (fun _ => ?_) (fun _ => ?_)
    | with_reducible refine kept_loadEnd ?_
    | fail_if_no_progress (with_reducible refine Kept.upd ?_ rfl rfl rfl rfl rfl rfl) | split
    | with_reducible refine Kept.ofFst ?_ (by assumption) | with_reducible refine Kept.ofSnd ?_ (by assumption)
    | (clear_value *; split)

theorem kept_writeVendor {image : Bytes} (h0 : Kept kl ko ku s) :
    Kept kl ko ku (writeVendor image s) := by
  unfold writeVendor
  repeat' first
    | with_reducible assumption | with_reducible refine Kept.ite (fun _ => ?_) (fun _ => ?_)
    | (intro x; with_reducible refine Kept.gen (kl := kl) (ko := ko) (ku := ku) (x := x) ?_ ?_; (on_goal 1 => unfold x); (on_goal 2 => (intro _; clear_value x)))
    | (intro x; (have t : Nat := x; clear t); clear_value x) | (intro x) | lift_lets -underBinder
    | fail_if_no_progress (with_reducible refine Kept.upd ?_ rfl rfl rfl rfl rfl rfl) | split
    | with_reducible refine Kept.ofFst ?_ (by assumption) | with_reducible refine Kept.ofSnd ?_ (by assumption)
    | (clear_value *; split)

theorem kept_loadVendor {image : Bytes} (h0 : Kept kl ko ku s) :
    Kept kl ko ku (loadVendor image s) := by
  unfold loadVendor
  dsimp only
  repeat' first
    | with_reducible assumption | with_reducible refine Kept.ite (fun _ => ?_) (fun _ => ?_)
    | with_reducible refine kept_writeVendor ?_
    | fail_if_no_progress (with_reducible refine Kept.upd ?_ rfl rfl rfl rfl rfl rfl) | split
    | with_reducible refine Kept.ofFst ?_ (by assumption) | with_reducible refine Kept.ofSnd ?_ (by assumption)
    | (clear_value *; split)

theorem kept_vendorSwitch (h0 : Kept kl ko ku s) :
    Kept kl ko ku (vendorSwitch s) := by
  unfold vendorSwitch
  repeat' first
    | with_reducible assumption | with_reducible refine Kept.ite (fun _ => ?_) (fun _ => ?_)
    | with_reducible refine kept_writeVendor ?_
    | fail_if_no_progress (with_reducible refine Kept.upd ?_ rfl rfl rfl rfl rfl rfl) | split
    | with_reducible refine Kept.ofFst ?_ (by assumption) | with_reducible refine Kept.ofSnd ?_ (by assumption)
    | (clear_value *; split)

theorem kept_regionSwitch (h0 : Kept kl ko ku s) :
    Kept kl ko ku (regionSwitch s) := by
  unfold regionSwitch
  dsimp only
  repeat' first
    | with_reducible assumption | with_reducible refine Kept.ite (fun _ => ?_) (fun _ => ?_)
    | with_reducible refine kept_doIf (fun _ _ => ?_) ?_ | with_reducible apply kept_wr
    | with_reducible refine kept_complete ?_
    | fail_if_no_progress (with_reducible refine Kept.upd ?_ rfl rfl rfl rfl rfl rfl) | split
    | with_reducible refine Kept.ofFst ?_ (by assumption) | with_reducible refine Kept.ofSnd ?_ (by assumption)
    | (clear_value *; split)

theorem kept_burinSwitch (h0 : Kept kl ko ku s) :
    Kept kl ko ku (burinSwitch s) := by
  unfold burinSwitch
  repeat' first
    | with_reducible assumption | with_reducible refine Kept.ite (fun _ => ?_) (fun _ => ?_)
    | with_reducible refine kept_doIf (fun _ _ => ?_) ?_ | with_reducible refine kept_loadVerify ?_
    | with_reducible refine kept_vendorSwitch ?_ | with_reducible refine kept_regionSwitch ?_
    | fail_if_no_progress (with_reducible refine Kept.upd ?_ rfl rfl rfl rfl rfl rfl) | split
    | with_reducible refine Kept.ofFst ?_ (by assumption) | with_reducible refine Kept.ofSnd ?_ (by assumption)
    | (clear_value *; split)

theorem kept_burinCommand {fn : Fn} {p : Nat} {w : Word} {ecc : Ecc} {d : Dma} (h0 : Kept kl ko ku s) :
    Kept kl ko ku (burinCommand fn p w ecc d s) := by
  unfold burinCommand
  repeat' first
    | with_reducible assumption | with_reducible refine Kept.ite (fun _ => ?_) (fun _ => ?_)
    | (intro x; with_reducible refine Kept.gen (kl := kl) (ko := ko) (ku := ku) (x := x) ?_ ?_; (on_goal 1 => unfold x); (on_goal 2 => (intro _; clear_value x)))
    | (intro x; (have t : Nat := x; clear t); clear_value x) | (intro x) | lift_lets -underBinder
    | with_reducible refine kept_issue (fun _ _ => ?_) ?_ | with_reducible refine kept_runChecks (fun _ _ => ?_) ?_
    | with_reducible refine kept_burinPerform ?_ | with_reducible refine kept_burinLoad ?_
    | fail_if_no_progress (with_reducible refine Kept.upd ?_ rfl rfl rfl rfl rfl rfl) | split
    | with_reducible refine Kept.ofFst ?_ (by assumption) | with_reducible refine Kept.ofSnd ?_ (by assumption)
    | (clear_value *; split)

theorem kept_burinIssue {fn : Fn} {op evtOp : Nat} {ecc : Ecc} {d : Dma} (h0 : Kept kl ko ku s) :
    Kept kl ko ku (burinIssue fn op evtOp ecc d s) := by
  unfold burinIssue
  repeat' first
    | with_reducible assumption | with_reducible refine Kept.ite (fun _ => ?_) (fun _ => ?_)
    | with_reducible refine kept_access (fun _ _ _ _ _ => ?_) ?_ | with_reducible refine kept_burinCommand ?_
    | fail_if_no_progress (with_reducible refine Kept.upd ?_ rfl rfl rfl rfl rfl rfl) | split
    | with_reducible refine Kept.ofFst ?_ (by assumption) | with_reducible refine Kept.ofSnd ?_ (by assumption)
    | (clear_value *; split)

theorem kept_burinWhole {id : Nat} (h0 : Kept kl ko ku s) :
    Kept kl ko ku (burinWhole id s) := by
  unfold burinWhole
  repeat' first
    | with_reducible assumption | with_reducible refine Kept.ite (fun _ => ?_) (fun _ => ?_)
    | (intro x; with_reducible refine Kept.gen (kl := kl) (ko := ko) (ku := ku) (x := x) ?_ ?_; (on_goal 1 => unfold x); (on_goal 2 => (intro _; clear_value x)))
    | (intro x; (have t : Nat := x; clear t); clear_value x) | (intro x) | lift_lets -underBinder
    | with_reducible refine kept_doIf (fun _ _ => ?_) ?_ | with_reducible refine kept_erasePkt ?_
    | with_reducible refine kept_burinPacket ?_
    | fail_if_no_progress (with_reducible refine Kept.upd ?_ rfl rfl rfl rfl rfl rfl) | split
    | with_reducible refine Kept.ofFst ?_ (by assumption) | with_reducible refine Kept.ofSnd ?_ (by assumption)
    | (clear_value *; split)

theorem kept_tailAndAfter {port : Nat} {k : State → State} (hk : ∀ s, Kept kl ko ku s → Kept kl ko ku (k s)) (h0 : Kept kl ko ku s) :
    Kept kl ko ku (tailAndAfter port k s) := by
  unfold tailAndAfter
  repeat' first
    | with_reducible assumption | with_reducible refine Kept.ite (fun _ => ?_) (fun _ => ?_)
    | (intro x; with_reducible refine Kept.gen (kl := kl) (ko := ko) (ku := ku) (x := x) ?_ ?_; (on_goal 1 => unfold x); (on_goal 2 => (intro _; clear_value x)))
    | (intro x; (have t : Nat := x; clear t); clear_value x) | (intro x) | lift_lets -underBinder
    | with_reducible refine hk _ ?_ | with_reducible refine kept_ringWrite ?_
    | with_reducible refine kept_burinWhole ?_
    | fail_if_no_progress (with_reducible refine Kept.upd ?_ rfl rfl rfl rfl rfl rfl) | split
    | with_reducible refine Kept.ofFst ?_ (by assumption) | with_reducible refine Kept.ofSnd ?_ (by assumption)
    | (clear_value *; split)

theorem kept_stencilErr {pipe table i : Nat} (h0 : Kept kl ko ku s) :
    Kept kl ko ku (stencilErr pipe table i s) := by
  unfold stencilErr
  repeat' first
    | with_reducible assumption | with_reducible refine Kept.ite (fun _ => ?_) (fun _ => ?_)
    | with_reducible refine kept_inc ?_ | with_reducible refine kept_tellOnce ?_
    | fail_if_no_progress (with_reducible refine Kept.upd ?_ rfl rfl rfl rfl rfl rfl) | split
    | with_reducible refine Kept.ofFst ?_ (by assumption) | with_reducible refine Kept.ofSnd ?_ (by assumption)
    | (clear_value *; split)

theorem kept_stencilLeaf {pipe leaf p : Nat} {key : Bytes} {ecc : Ecc} (h0 : Kept kl ko ku s) :
    Kept kl ko ku (stencilLeaf pipe leaf p key ecc s).1 := by
  unfold stencilLeaf
  repeat' first
    | with_reducible assumption | with_reducible refine Kept.ite (fun _ => ?_) (fun _ => ?_)
    | (intro x; with_reducible refine Kept.gen (kl := kl) (ko := ko) (ku := ku) (x := x) ?_ ?_; (on_goal 1 => unfold x); (on_goal 2 => (intro _; clear_value x)))
    | (intro x; (have t : Nat := x; clear t); clear_value x) | (intro x) | lift_lets -underBinder
    | with_reducible refine kept_doIf (fun _ _ => ?_) ?_ | with_reducible refine kept_inc ?_
    | with_reducible refine kept_markBad ?_ | with_reducible refine kept_countCorr ?_
    | with_reducible refine kept_stencilErr ?_
    | fail_if_no_progress (with_reducible refine Kept.upd ?_ rfl rfl rfl rfl rfl rfl) | split
    | with_reducible refine Kept.ofFst ?_ (by assumption) | with_reducible refine Kept.ofSnd ?_ (by assumption)
    | (clear_value *; split)

theorem kept_stencilWordLost {pipe i : Nat} {ecc : Ecc} (h0 : Kept kl ko ku s) :
    Kept kl ko ku (stencilWordLost pipe i ecc s) := by
  unfold stencilWordLost
  repeat' first
    | with_reducible assumption | with_reducible refine Kept.ite (fun _ => ?_) (fun _ => ?_)
    | with_reducible refine kept_doIf (fun _ _ => ?_) ?_ | with_reducible refine kept_markBad ?_
    | with_reducible refine kept_stencilErr ?_
    | fail_if_no_progress (with_reducible refine Kept.upd ?_ rfl rfl rfl rfl rfl rfl) | split
    | with_reducible refine Kept.ofFst ?_ (by assumption) | with_reducible refine Kept.ofSnd ?_ (by assumption)
    | (clear_value *; split)

theorem kept_stencilL2 {pipe i p : Nat} {key : Bytes} {x : StageIn} (h0 : Kept kl ko ku s) :
    Kept kl ko ku (stencilL2 pipe i p key x s).1 := by
  unfold stencilL2
  repeat' first
    | with_reducible assumption | with_reducible refine Kept.ite (fun _ => ?_) (fun _ => ?_)
    | (intro x; with_reducible refine Kept.gen (kl := kl) (ko := ko) (ku := ku) (x := x) ?_ ?_; (on_goal 1 => unfold x); (on_goal 2 => (intro _; clear_value x)))
    | (intro x; (have t : Nat := x; clear t); clear_value x) | (intro x) | lift_lets -underBinder
    | with_reducible refine kept_countCorr ?_ | with_reducible refine kept_stencilErr ?_
    | with_reducible refine kept_stencilLeaf ?_ | with_reducible refine kept_stencilWordLost ?_
    | fail_if_no_progress (with_reducible refine Kept.upd ?_ rfl rfl rfl rfl rfl rfl) | split
    | with_reducible refine Kept.ofFst ?_ (by assumption) | with_reducible refine Kept.ofSnd ?_ (by assumption)
    | (clear_value *; split)

theorem kept_stencilLookup {pipe sid : Nat} {key : Bytes} {x : StageIn} (h0 : Kept kl ko ku s) :
    Kept kl ko ku (stencilLookup pipe sid key x s).1 := by
  unfold stencilLookup
  repeat' first
    | with_reducible assumption | with_reducible refine Kept.ite (fun _ => ?_) (fun _ => ?_)
    | (intro x; with_reducible refine Kept.gen (kl := kl) (ko := ko) (ku := ku) (x := x) ?_ ?_; (on_goal 1 => unfold x); (on_goal 2 => (intro _; clear_value x)))
    | (intro x; (have t : Nat := x; clear t); clear_value x) | (intro x) | lift_lets -underBinder
    | with_reducible refine kept_inc ?_ | with_reducible refine kept_countCorr ?_
    | with_reducible refine kept_stencilErr ?_ | with_reducible refine kept_stencilWordLost ?_
    | with_reducible refine kept_stencilL2 ?_
    | fail_if_no_progress (with_reducible refine Kept.upd ?_ rfl rfl rfl rfl rfl rfl) | split
    | with_reducible refine Kept.ofFst ?_ (by assumption) | with_reducible refine Kept.ofSnd ?_ (by assumption)
    | (clear_value *; split)

theorem kept_emLookup {pipe t : Nat} {key : Bytes} {ecc : Ecc} (h0 : Kept kl ko ku s) :
    Kept kl ko ku (emLookup pipe t key ecc s).1 := by
  unfold emLookup
  repeat' first
    | with_reducible assumption | with_reducible refine Kept.ite (fun _ => ?_) (fun _ => ?_)
    | (intro x; with_reducible refine Kept.gen (kl := kl) (ko := ko) (ku := ku) (x := x) ?_ ?_; (on_goal 1 => unfold x); (on_goal 2 => (intro _; clear_value x)))
    | (intro x; (have t : Nat := x; clear t); clear_value x) | (intro x) | lift_lets -underBinder
    | with_reducible refine kept_doIf (fun _ _ => ?_) ?_ | with_reducible refine kept_inc ?_
    | with_reducible refine kept_setEm ?_ | with_reducible refine kept_countCorr ?_
    | with_reducible refine kept_entryLost ?_
    | fail_if_no_progress (with_reducible refine Kept.upd ?_ rfl rfl rfl rfl rfl rfl) | split
    | with_reducible refine Kept.ofFst ?_ (by assumption) | with_reducible refine Kept.ofSnd ?_ (by assumption)
    | (clear_value *; split)

theorem kept_resolveDrop {id pipe ctr : Nat} {tell : Option (Nat × Nat)} (h0 : Kept kl ko ku s) :
    Kept kl ko ku (resolveDrop id pipe ctr tell s) := by
  unfold resolveDrop
  repeat' first
    | with_reducible assumption | with_reducible refine Kept.ite (fun _ => ?_) (fun _ => ?_)
    | (intro x; with_reducible refine Kept.gen (kl := kl) (ko := ko) (ku := ku) (x := x) ?_ ?_; (on_goal 1 => unfold x); (on_goal 2 => (intro _; clear_value x)))
    | (intro x; (have t : Nat := x; clear t); clear_value x) | (intro x) | lift_lets -underBinder
    | with_reducible refine kept_inc ?_ | with_reducible refine kept_leaveHole ?_
    | with_reducible refine kept_tellOnce ?_
    | fail_if_no_progress (with_reducible refine Kept.upd ?_ rfl rfl rfl rfl rfl rfl) | split
    | with_reducible refine Kept.ofFst ?_ (by assumption) | with_reducible refine Kept.ofSnd ?_ (by assumption)
    | (clear_value *; split)

theorem kept_carry {id : Nat} {e : Bytes} (h0 : Kept kl ko ku s) :
    Kept kl ko ku (carry id e s) := by
  unfold carry
  repeat' first
    | with_reducible assumption | with_reducible refine Kept.ite (fun _ => ?_) (fun _ => ?_)
    | with_reducible refine kept_setPkt ?_
    | fail_if_no_progress (with_reducible refine Kept.upd ?_ rfl rfl rfl rfl rfl rfl) | split
    | with_reducible refine Kept.ofFst ?_ (by assumption) | with_reducible refine Kept.ofSnd ?_ (by assumption)
    | (clear_value *; split)

theorem kept_nhRing {id : Nat} {p : Packet} {ring : Option (Nat × Nat)} {reason : Nat} {x : StageIn} (h0 : Kept kl ko ku s) :
    Kept kl ko ku (nhRing id p ring reason x s) := by
  unfold nhRing
  repeat' first
    | with_reducible assumption | with_reducible refine Kept.ite (fun _ => ?_) (fun _ => ?_)
    | (intro x; with_reducible refine Kept.gen (kl := kl) (ko := ko) (ku := ku) (x := x) ?_ ?_; (on_goal 1 => unfold x); (on_goal 2 => (intro _; clear_value x)))
    | (intro x; (have t : Nat := x; clear t); clear_value x) | (intro x) | lift_lets -underBinder
    | with_reducible refine kept_trapPacket ?_ | with_reducible refine kept_resolveDrop ?_
    | fail_if_no_progress (with_reducible refine Kept.upd ?_ rfl rfl rfl rfl rfl rfl) | split
    | with_reducible refine Kept.ofFst ?_ (by assumption) | with_reducible refine Kept.ofSnd ?_ (by assumption)
    | (clear_value *; split)

/-- The state in which an action ends. -/
def endState : ActEnd → State
  | .on s => s
  | .gone s => s
  | .flood s => s

theorem kept_readEntry {id pipe code table i size : Nat} {valid : Bool} {e : Bytes} {ecc : Ecc} {k : State → ActEnd}
    (hk : ∀ s, Kept kl ko ku s → Kept kl ko ku (endState (k s))) (h : Kept kl ko ku s) :
    Kept kl ko ku (endState (readEntry id pipe code table i size valid e ecc k s)) := by
  unfold readEntry
  split
  · simp only [endState]; exact kept_resolveDrop (kept_doIf (fun _ hs => kept_markBad hs) h)
  · split
    · simp only [endState]; exact kept_resolveDrop h
    · exact hk _ (kept_carry (kept_countCorr h))

theorem kept_nhRing' {id n : Nat} {p : Packet} {st : Stage} {x : StageIn} (h : Kept kl ko ku s) :
    Kept kl ko ku (endState (nextHopAct id n p st x s)) := by
  unfold nextHopAct
  lift_lets
  intro e
  refine kept_readEntry (fun s hs => ?_) h
  split
  · exact kept_setPkt hs
  · exact kept_leaveHole hs
  · exact kept_nhRing hs
  · exact kept_nhRing hs

theorem kept_ecmpAct {id g i : Nat} {p : Packet} {st : Stage} {x : StageIn} (h : Kept kl ko ku s) :
    Kept kl ko ku (endState (ecmpAct id g i p st x s)) := by
  unfold ecmpAct
  lift_lets
  intro e
  refine kept_readEntry (fun s hs => ?_) h
  exact kept_readEntry (fun s hs => kept_nhRing' hs) hs

theorem kept_resolveAct {id i : Nat} {p : Packet} {st : Stage} {x : StageIn} (h : Kept kl ko ku s) :
    Kept kl ko ku (endState (resolveAct id i p st x s)) := by
  unfold resolveAct
  dsimp only
  split
  · exact kept_nhRing' h
  · exact kept_ecmpAct h
  · exact h

theorem kept_learnAct {pipe dest : Nat} {key : Bytes} (h : Kept kl ko ku s) :
    Kept kl ko ku (endState (learnAct pipe key dest s)) := by
  unfold learnAct
  dsimp only
  repeat' first
    | split
    | exact h
    | exact kept_setEm h
    | exact kept_inc h
    | exact kept_learnEvent (kept_inc (kept_setEm h))
    | exact kept_learnEvent (kept_inc h)

theorem kept_leavePipe {id : Nat} {p : Packet} (h0 : Kept kl ko ku s) :
    Kept kl ko ku (leavePipe id p s) := by
  unfold leavePipe
  repeat' first
    | with_reducible assumption | with_reducible refine Kept.ite (fun _ => ?_) (fun _ => ?_)
    | (intro x; with_reducible refine Kept.gen (kl := kl) (ko := ko) (ku := ku) (x := x) ?_ ?_; (on_goal 1 => unfold x); (on_goal 2 => (intro _; clear_value x)))
    | (intro x; (have t : Nat := x; clear t); clear_value x) | (intro x) | lift_lets -underBinder
    | with_reducible apply kept_emit | with_reducible refine kept_setPkt ?_ | with_reducible refine kept_leaveHole ?_
    | with_reducible refine kept_toMac ?_
    | fail_if_no_progress (with_reducible refine Kept.upd ?_ rfl rfl rfl rfl rfl rfl) | split
    | with_reducible refine Kept.ofFst ?_ (by assumption) | with_reducible refine Kept.ofSnd ?_ (by assumption)
    | (clear_value *; split)

theorem kept_recircAct {id : Nat} {p : Packet} (h0 : Kept kl ko ku s) :
    Kept kl ko ku (recircAct id p s) := by
  unfold recircAct
  repeat' first
    | with_reducible assumption | with_reducible refine Kept.ite (fun _ => ?_) (fun _ => ?_)
    | (intro x; with_reducible refine Kept.gen (kl := kl) (ko := ko) (ku := ku) (x := x) ?_ ?_; (on_goal 1 => unfold x); (on_goal 2 => (intro _; clear_value x)))
    | (intro x; (have t : Nat := x; clear t); clear_value x) | (intro x) | lift_lets -underBinder
    | with_reducible refine kept_inc ?_ | with_reducible refine kept_setPkt ?_
    | with_reducible refine kept_leaveHole ?_
    | fail_if_no_progress (with_reducible refine Kept.upd ?_ rfl rfl rfl rfl rfl rfl) | split
    | with_reducible refine Kept.ofFst ?_ (by assumption) | with_reducible refine Kept.ofSnd ?_ (by assumption)
    | (clear_value *; split)

theorem kept_runAct {x : StageIn} {st : Stage} {p0 : Packet} {id : Nat} {p : Packet} {a : Action} (h : Kept kl ko ku s) :
    Kept kl ko ku (endState (runAct x st p0 id p a s)) := by
  unfold runAct
  cases a with
  | drop => exact kept_leaveHole h
  | trap q r => exact kept_trapPacket h
  | forward => exact kept_leavePipe h
  | recirc => exact kept_recircAct h
  | resolve => exact kept_resolveAct h
  | hatch b => exact kept_setPkt h
  | learn f m d => exact kept_learnAct h
  | scan => exact kept_scanStart h
  | copyPpm off => exact kept_setPkt h
  | copyField f off => exact kept_setPkt h
  | burin op off => exact kept_burinWhole (kept_goesOn (kept_doIf (fun _ hs => kept_marker hs) (kept_setPkt h)))
  | setBits lo w v => exact kept_setPkt h
  | putResult lo w => exact kept_setPkt h
  | classify => exact kept_setPkt h
  | edit => exact kept_setPkt h

theorem kept_stageNext {id : Nat} (h0 : Kept kl ko ku s) :
    Kept kl ko ku (stageNext id s) := by
  unfold stageNext
  repeat' first
    | with_reducible assumption | with_reducible refine Kept.ite (fun _ => ?_) (fun _ => ?_)
    | (intro x; with_reducible refine Kept.gen (kl := kl) (ko := ko) (ku := ku) (x := x) ?_ ?_; (on_goal 1 => unfold x); (on_goal 2 => (intro _; clear_value x)))
    | (intro x; (have t : Nat := x; clear t); clear_value x) | (intro x) | lift_lets -underBinder
    | with_reducible refine kept_setPkt ?_ | with_reducible refine kept_leavePipe ?_
    | fail_if_no_progress (with_reducible refine Kept.upd ?_ rfl rfl rfl rfl rfl rfl) | split
    | with_reducible refine Kept.ofFst ?_ (by assumption) | with_reducible refine Kept.ofSnd ?_ (by assumption)
    | (clear_value *; split)

theorem kept_runActs {x : StageIn} {st : Stage} {p0 : Packet} {flood : State → State} {id : Nat} {as : List Action}
    (hf : ∀ s, Kept kl ko ku s → Kept kl ko ku (flood s)) (h : Kept kl ko ku s) :
    Kept kl ko ku (runActs x st p0 flood id as s) := by
  induction as generalizing s with
  | nil => exact kept_stageNext h
  | cons a as ih =>
    unfold runActs
    split
    · exact h
    · next p _ =>
      have hr := kept_runAct (x := x) (st := st) (p0 := p0) (id := id) (p := p) (a := a) h
      split
      · next t e => rw [e] at hr; exact ih hr
      · next t e => rw [e] at hr; exact hr
      · next t e => rw [e] at hr; exact hf _ hr

theorem kept_stageActs {x : StageIn} {st : Stage} {p0 : Packet} {id : Nat} {as : List Action} (h : Kept kl ko ku s) :
    Kept kl ko ku (stageActs x st p0 id as s) :=
  kept_runActs (fun _ hs => kept_runActs (fun _ hs => kept_stageNext hs) hs) h

theorem kept_onWord {x : StageIn} {st : Stage} {p0 : Packet} {id w : Nat} (h0 : Kept kl ko ku s) :
    Kept kl ko ku (onWord x st p0 id w s) := by
  unfold onWord
  repeat' first
    | with_reducible assumption | with_reducible refine Kept.ite (fun _ => ?_) (fun _ => ?_)
    | with_reducible refine kept_stageActs ?_
    | fail_if_no_progress (with_reducible refine Kept.upd ?_ rfl rfl rfl rfl rfl rfl) | split
    | with_reducible refine Kept.ofFst ?_ (by assumption) | with_reducible refine Kept.ofSnd ?_ (by assumption)
    | (clear_value *; split)

theorem kept_setPrev {id v : Nat} (h0 : Kept kl ko ku s) :
    Kept kl ko ku (setPrev id v s) := by
  unfold setPrev
  repeat' first
    | with_reducible assumption | with_reducible refine Kept.ite (fun _ => ?_) (fun _ => ?_)
    | with_reducible refine kept_setPkt ?_
    | fail_if_no_progress (with_reducible refine Kept.upd ?_ rfl rfl rfl rfl rfl rfl) | split
    | with_reducible refine Kept.ofFst ?_ (by assumption) | with_reducible refine Kept.ofSnd ?_ (by assumption)
    | (clear_value *; split)

theorem kept_withWord {x : StageIn} {st : Stage} {p0 : Packet} {id w : Nat} (h0 : Kept kl ko ku s) :
    Kept kl ko ku (withWord x st p0 id w s) := by
  unfold withWord
  repeat' first
    | with_reducible assumption | with_reducible refine Kept.ite (fun _ => ?_) (fun _ => ?_)
    | with_reducible refine kept_onWord ?_ | with_reducible refine kept_setPrev ?_
    | fail_if_no_progress (with_reducible refine Kept.upd ?_ rfl rfl rfl rfl rfl rfl) | split
    | with_reducible refine Kept.ofFst ?_ (by assumption) | with_reducible refine Kept.ofSnd ?_ (by assumption)
    | (clear_value *; split)

theorem kept_asaStage {x : StageIn} {st : Stage} {p0 : Packet} {id t : Nat} {wide : Bool} {key : Bytes} (h0 : Kept kl ko ku s) :
    Kept kl ko ku (asaStage x st p0 id t wide key s) := by
  unfold asaStage
  dsimp only
  repeat' first
    | with_reducible assumption | with_reducible refine Kept.ite (fun _ => ?_) (fun _ => ?_)
    | with_reducible refine kept_doIf (fun _ _ => ?_) ?_ | with_reducible refine kept_inc ?_
    | with_reducible refine kept_leaveHole ?_ | with_reducible refine kept_asaSearch ?_
    | with_reducible refine kept_asaResultBad ?_ | with_reducible refine kept_carry ?_
    | with_reducible refine kept_stageActs ?_ | with_reducible refine kept_setPrev ?_
    | fail_if_no_progress (with_reducible refine Kept.upd ?_ rfl rfl rfl rfl rfl rfl) | split
    | with_reducible refine Kept.ofFst ?_ (by assumption) | with_reducible refine Kept.ofSnd ?_ (by assumption)
    | (clear_value *; split)

theorem kept_emStage {x : StageIn} {st : Stage} {id : Nat} {p : Packet} {t : Nat} {key : Bytes} (h0 : Kept kl ko ku s) :
    Kept kl ko ku (emStage x st id p t key s) := by
  unfold emStage
  repeat' first
    | with_reducible assumption | with_reducible refine Kept.ite (fun _ => ?_) (fun _ => ?_)
    | (intro x; with_reducible refine Kept.gen (kl := kl) (ko := ko) (ku := ku) (x := x) ?_ ?_; (on_goal 1 => unfold x); (on_goal 2 => (intro _; clear_value x)))
    | (intro x; (have t : Nat := x; clear t); clear_value x) | (intro x) | lift_lets -underBinder
    | with_reducible refine kept_doIf (fun _ _ => ?_) ?_ | with_reducible refine kept_setPkt ?_
    | with_reducible refine kept_leaveHole ?_ | with_reducible refine kept_emLookup ?_
    | with_reducible refine kept_carry ?_ | with_reducible refine kept_withWord ?_
    | fail_if_no_progress (with_reducible refine Kept.upd ?_ rfl rfl rfl rfl rfl rfl) | split
    | with_reducible refine Kept.ofFst ?_ (by assumption) | with_reducible refine Kept.ofSnd ?_ (by assumption)
    | (clear_value *; split)

theorem kept_runStage {x : StageIn} {st : Stage} {id : Nat} {p : Packet} (h0 : Kept kl ko ku s) :
    Kept kl ko ku (runStage x st id p s) := by
  unfold runStage
  repeat' first
    | with_reducible assumption | with_reducible refine Kept.ite (fun _ => ?_) (fun _ => ?_)
    | with_reducible refine kept_leaveHole ?_ | with_reducible refine kept_stencilLookup ?_
    | with_reducible refine kept_stageActs ?_ | with_reducible refine kept_setPrev ?_
    | with_reducible refine kept_withWord ?_ | with_reducible refine kept_asaStage ?_
    | with_reducible refine kept_emStage ?_
    | fail_if_no_progress (with_reducible refine Kept.upd ?_ rfl rfl rfl rfl rfl rfl) | split
    | with_reducible refine Kept.ofFst ?_ (by assumption) | with_reducible refine Kept.ofSnd ?_ (by assumption)
    | (clear_value *; split)

theorem kept_pipelineStage {id : Nat} {x : StageIn} (h0 : Kept kl ko ku s) :
    Kept kl ko ku (pipelineStage id x s) := by
  unfold pipelineStage
  repeat' first
    | with_reducible assumption | with_reducible refine Kept.ite (fun _ => ?_) (fun _ => ?_)
    | (intro x; with_reducible refine Kept.gen (kl := kl) (ko := ko) (ku := ku) (x := x) ?_ ?_; (on_goal 1 => unfold x); (on_goal 2 => (intro _; clear_value x)))
    | (intro x; (have t : Nat := x; clear t); clear_value x) | (intro x) | lift_lets -underBinder
    | with_reducible refine kept_withPlateWords (fun _ _ => ?_) ?_ | with_reducible refine kept_leavePipe ?_
    | with_reducible refine kept_runStage ?_
    | fail_if_no_progress (with_reducible refine Kept.upd ?_ rfl rfl rfl rfl rfl rfl) | split
    | with_reducible refine Kept.ofFst ?_ (by assumption) | with_reducible refine Kept.ofSnd ?_ (by assumption)
    | (clear_value *; split)

theorem kept_plateRefresh (h0 : Kept kl ko ku s) :
    Kept kl ko ku (plateRefresh s) := by
  unfold plateRefresh
  repeat' first
    | with_reducible assumption | with_reducible refine Kept.ite (fun _ => ?_) (fun _ => ?_)
    | with_reducible refine kept_forEach (fun _ _ _ => ?_) ?_ | with_reducible refine kept_setFld ?_
    | fail_if_no_progress (with_reducible refine Kept.upd ?_ rfl rfl rfl rfl rfl rfl) | split
    | with_reducible refine Kept.ofFst ?_ (by assumption) | with_reducible refine Kept.ofSnd ?_ (by assumption)
    | (clear_value *; split)

theorem kept_plateShow {b : Nat} {hdr : Bytes} (h0 : Kept kl ko ku s) :
    Kept kl ko ku (plateShow b hdr s) := by
  unfold plateShow
  repeat' first
    | with_reducible assumption | with_reducible refine Kept.ite (fun _ => ?_) (fun _ => ?_)
    | (intro x; with_reducible refine Kept.gen (kl := kl) (ko := ko) (ku := ku) (x := x) ?_ ?_; (on_goal 1 => unfold x); (on_goal 2 => (intro _; clear_value x)))
    | (intro x; (have t : Nat := x; clear t); clear_value x) | (intro x) | lift_lets -underBinder
    | with_reducible apply kept_wr | with_reducible refine kept_setFld ?_
    | fail_if_no_progress (with_reducible refine Kept.upd ?_ rfl rfl rfl rfl rfl rfl) | split
    | with_reducible refine Kept.ofFst ?_ (by assumption) | with_reducible refine Kept.ofSnd ?_ (by assumption)
    | (clear_value *; split)

theorem kept_bankTo {b st : Nat} (h0 : Kept kl ko ku s) :
    Kept kl ko ku (bankTo b st s) := by
  unfold bankTo
  repeat' first
    | with_reducible assumption | with_reducible refine Kept.ite (fun _ => ?_) (fun _ => ?_)
    | (intro x; with_reducible refine Kept.gen (kl := kl) (ko := ko) (ku := ku) (x := x) ?_ ?_; (on_goal 1 => unfold x); (on_goal 2 => (intro _; clear_value x)))
    | (intro x; (have t : Nat := x; clear t); clear_value x) | (intro x) | lift_lets -underBinder
    | with_reducible refine kept_doIf (fun _ _ => ?_) ?_ | with_reducible refine kept_setFld ?_
    | with_reducible refine kept_setBank ?_ | with_reducible refine kept_plateRefresh ?_
    | with_reducible refine kept_plateShow ?_
    | fail_if_no_progress (with_reducible refine Kept.upd ?_ rfl rfl rfl rfl rfl rfl) | split
    | with_reducible refine Kept.ofFst ?_ (by assumption) | with_reducible refine Kept.ofSnd ?_ (by assumption)
    | (clear_value *; split)

theorem kept_plateProof {b : Nat} {img : Bytes} (h0 : Kept kl ko ku s) :
    Kept kl ko ku (plateProof b img s) := by
  unfold plateProof
  repeat' first
    | with_reducible assumption | with_reducible refine Kept.ite (fun _ => ?_) (fun _ => ?_)
    | (intro x; with_reducible refine Kept.gen (kl := kl) (ko := ko) (ku := ku) (x := x) ?_ ?_; (on_goal 1 => unfold x); (on_goal 2 => (intro _; clear_value x)))
    | (intro x; (have t : Nat := x; clear t); clear_value x) | (intro x) | lift_lets -underBinder
    | with_reducible refine kept_setBank ?_ | with_reducible refine kept_plateShow ?_
    | with_reducible refine kept_bankTo ?_
    | fail_if_no_progress (with_reducible refine Kept.upd ?_ rfl rfl rfl rfl rfl rfl) | split
    | with_reducible refine Kept.ofFst ?_ (by assumption) | with_reducible refine Kept.ofSnd ?_ (by assumption)
    | (clear_value *; split)

theorem kept_plateFail {b : Nat} {f : Fail} (h0 : Kept kl ko ku s) :
    Kept kl ko ku (plateFail b f s) := by
  unfold plateFail
  repeat' first
    | with_reducible assumption | with_reducible refine Kept.ite (fun _ => ?_) (fun _ => ?_)
    | (intro x; with_reducible refine Kept.gen (kl := kl) (ko := ko) (ku := ku) (x := x) ?_ ?_; (on_goal 1 => unfold x); (on_goal 2 => (intro _; clear_value x)))
    | (intro x; (have t : Nat := x; clear t); clear_value x) | (intro x) | lift_lets -underBinder
    | with_reducible refine kept_complete ?_ | with_reducible refine kept_bankTo ?_
    | fail_if_no_progress (with_reducible refine Kept.upd ?_ rfl rfl rfl rfl rfl rfl) | split
    | with_reducible refine Kept.ofFst ?_ (by assumption) | with_reducible refine Kept.ofSnd ?_ (by assumption)
    | (clear_value *; split)

theorem kept_plateLoad {b : Nat} (h0 : Kept kl ko ku s) :
    Kept kl ko ku (plateLoad b s) := by
  unfold plateLoad
  repeat' first
    | with_reducible assumption | with_reducible refine Kept.ite (fun _ => ?_) (fun _ => ?_)
    | (intro x; with_reducible refine Kept.gen (kl := kl) (ko := ko) (ku := ku) (x := x) ?_ ?_; (on_goal 1 => unfold x); (on_goal 2 => (intro _; clear_value x)))
    | (intro x; (have t : Nat := x; clear t); clear_value x) | (intro x) | lift_lets -underBinder
    | with_reducible refine kept_bankTo ?_ | with_reducible refine kept_plateFail ?_
    | fail_if_no_progress (with_reducible refine Kept.upd ?_ rfl rfl rfl rfl rfl rfl) | split
    | with_reducible refine Kept.ofFst ?_ (by assumption) | with_reducible refine Kept.ofSnd ?_ (by assumption)
    | (clear_value *; split)

theorem kept_plateAbort {b : Nat} (h0 : Kept kl ko ku s) :
    Kept kl ko ku (plateAbort b s) := by
  unfold plateAbort
  repeat' first
    | with_reducible assumption | with_reducible refine Kept.ite (fun _ => ?_) (fun _ => ?_)
    | (intro x; with_reducible refine Kept.gen (kl := kl) (ko := ko) (ku := ku) (x := x) ?_ ?_; (on_goal 1 => unfold x); (on_goal 2 => (intro _; clear_value x)))
    | (intro x; (have t : Nat := x; clear t); clear_value x) | (intro x) | lift_lets -underBinder
    | with_reducible refine kept_complete ?_ | with_reducible refine kept_bankTo ?_
    | fail_if_no_progress (with_reducible refine Kept.upd ?_ rfl rfl rfl rfl rfl rfl) | split
    | with_reducible refine Kept.ofFst ?_ (by assumption) | with_reducible refine Kept.ofSnd ?_ (by assumption)
    | (clear_value *; split)

theorem kept_plateSwap {b : Nat} (h0 : Kept kl ko ku s) :
    Kept kl ko ku (plateSwap b s) := by
  unfold plateSwap
  repeat' first
    | with_reducible assumption | with_reducible refine Kept.ite (fun _ => ?_) (fun _ => ?_)
    | (intro x; with_reducible refine Kept.gen (kl := kl) (ko := ko) (ku := ku) (x := x) ?_ ?_; (on_goal 1 => unfold x); (on_goal 2 => (intro _; clear_value x)))
    | (intro x; (have t : Nat := x; clear t); clear_value x) | (intro x) | lift_lets -underBinder
    | fail_if_no_progress (with_reducible refine Kept.upd ?_ rfl rfl rfl rfl rfl rfl) | split
    | with_reducible refine Kept.ofFst ?_ (by assumption) | with_reducible refine Kept.ofSnd ?_ (by assumption)
    | (clear_value *; split)

theorem kept_platePerform {op b gen : Nat} (h0 : Kept kl ko ku s) :
    Kept kl ko ku (platePerform op b gen s) := by
  unfold platePerform
  repeat' first
    | with_reducible assumption | with_reducible refine Kept.ite (fun _ => ?_) (fun _ => ?_)
    | (intro x; with_reducible refine Kept.gen (kl := kl) (ko := ko) (ku := ku) (x := x) ?_ ?_; (on_goal 1 => unfold x); (on_goal 2 => (intro _; clear_value x)))
    | (intro x; (have t : Nat := x; clear t); clear_value x) | (intro x) | lift_lets -underBinder
    | with_reducible refine kept_complete ?_ | with_reducible refine kept_plateLoad ?_
    | with_reducible refine kept_plateAbort ?_ | with_reducible refine kept_plateSwap ?_
    | fail_if_no_progress (with_reducible refine Kept.upd ?_ rfl rfl rfl rfl rfl rfl) | split
    | with_reducible refine Kept.ofFst ?_ (by assumption) | with_reducible refine Kept.ofSnd ?_ (by assumption)
    | (clear_value *; split)

theorem kept_plateCommand {fn : Fn} {p : Nat} {w : Word} (h0 : Kept kl ko ku s) :
    Kept kl ko ku (plateCommand fn p w s) := by
  unfold plateCommand
  repeat' first
    | with_reducible assumption | with_reducible refine Kept.ite (fun _ => ?_) (fun _ => ?_)
    | (intro x; with_reducible refine Kept.gen (kl := kl) (ko := ko) (ku := ku) (x := x) ?_ ?_; (on_goal 1 => unfold x); (on_goal 2 => (intro _; clear_value x)))
    | (intro x; (have t : Nat := x; clear t); clear_value x) | (intro x) | lift_lets -underBinder
    | with_reducible refine kept_denied ?_ | with_reducible refine kept_accept ?_
    | with_reducible refine kept_issue (fun _ _ => ?_) ?_ | with_reducible refine kept_plateAbort ?_
    | with_reducible refine kept_platePerform ?_
    | fail_if_no_progress (with_reducible refine Kept.upd ?_ rfl rfl rfl rfl rfl rfl) | split
    | with_reducible refine Kept.ofFst ?_ (by assumption) | with_reducible refine Kept.ofSnd ?_ (by assumption)
    | (clear_value *; split)

theorem kept_plateIssue {fn : Fn} {op b gen : Nat} (h0 : Kept kl ko ku s) :
    Kept kl ko ku (plateIssue fn op b gen s) := by
  unfold plateIssue
  repeat' first
    | with_reducible assumption | with_reducible refine Kept.ite (fun _ => ?_) (fun _ => ?_)
    | with_reducible refine kept_access (fun _ _ _ _ _ => ?_) ?_ | with_reducible refine kept_plateCommand ?_
    | fail_if_no_progress (with_reducible refine Kept.upd ?_ rfl rfl rfl rfl rfl rfl) | split
    | with_reducible refine Kept.ofFst ?_ (by assumption) | with_reducible refine Kept.ofSnd ?_ (by assumption)
    | (clear_value *; split)

theorem kept_plateData {d : Dma} {storeOk : Bool} (h0 : Kept kl ko ku s) :
    Kept kl ko ku (plateData d storeOk s) := by
  unfold plateData
  repeat' first
    | with_reducible assumption | with_reducible refine Kept.ite (fun _ => ?_) (fun _ => ?_)
    | (intro x; with_reducible refine Kept.gen (kl := kl) (ko := ko) (ku := ku) (x := x) ?_ ?_; (on_goal 1 => unfold x); (on_goal 2 => (intro _; clear_value x)))
    | (intro x; (have t : Nat := x; clear t); clear_value x) | (intro x) | lift_lets -underBinder
    | with_reducible refine kept_inc ?_ | with_reducible refine kept_setBank ?_ | with_reducible refine kept_bankTo ?_
    | with_reducible refine kept_plateFail ?_
    | fail_if_no_progress (with_reducible refine Kept.upd ?_ rfl rfl rfl rfl rfl rfl) | split
    | with_reducible refine Kept.ofFst ?_ (by assumption) | with_reducible refine Kept.ofSnd ?_ (by assumption)
    | (clear_value *; split)

theorem kept_plateVerify (h0 : Kept kl ko ku s) :
    Kept kl ko ku (plateVerify s) := by
  unfold plateVerify
  repeat' first
    | with_reducible assumption | with_reducible refine Kept.ite (fun _ => ?_) (fun _ => ?_)
    | (intro x; with_reducible refine Kept.gen (kl := kl) (ko := ko) (ku := ku) (x := x) ?_ ?_; (on_goal 1 => unfold x); (on_goal 2 => (intro _; clear_value x)))
    | (intro x; (have t : Nat := x; clear t); clear_value x) | (intro x) | lift_lets -underBinder
    | with_reducible refine kept_complete ?_ | with_reducible refine kept_plateProof ?_
    | with_reducible refine kept_plateFail ?_
    | fail_if_no_progress (with_reducible refine Kept.upd ?_ rfl rfl rfl rfl rfl rfl) | split
    | with_reducible refine Kept.ofFst ?_ (by assumption) | with_reducible refine Kept.ofSnd ?_ (by assumption)
    | (clear_value *; split)

theorem kept_carve {old new : List Nat} (h0 : Kept kl ko ku s) :
    Kept kl ko ku (carve old new s) := by
  unfold carve
  repeat' first
    | with_reducible assumption | with_reducible refine Kept.ite (fun _ => ?_) (fun _ => ?_)
    | (intro x; with_reducible refine Kept.gen (kl := kl) (ko := ko) (ku := ku) (x := x) ?_ ?_; (on_goal 1 => unfold x); (on_goal 2 => (intro _; clear_value x)))
    | (intro x; (have t : Nat := x; clear t); clear_value x) | (intro x) | lift_lets -underBinder
    | fail_if_no_progress (with_reducible refine Kept.upd ?_ rfl rfl rfl rfl rfl rfl) | split
    | with_reducible refine Kept.ofFst ?_ (by assumption) | with_reducible refine Kept.ofSnd ?_ (by assumption)
    | (clear_value *; split)

theorem kept_showPipes {b : Nat} (h0 : Kept kl ko ku s) :
    Kept kl ko ku (showPipes b s) := by
  unfold showPipes
  repeat' first
    | with_reducible assumption | with_reducible refine Kept.ite (fun _ => ?_) (fun _ => ?_)
    | (intro x; with_reducible refine Kept.gen (kl := kl) (ko := ko) (ku := ku) (x := x) ?_ ?_; (on_goal 1 => unfold x); (on_goal 2 => (intro _; clear_value x)))
    | (intro x; (have t : Nat := x; clear t); clear_value x) | (intro x) | lift_lets -underBinder
    | with_reducible refine kept_forEach (fun _ _ _ => ?_) ?_ | with_reducible apply kept_wr
    | fail_if_no_progress (with_reducible refine Kept.upd ?_ rfl rfl rfl rfl rfl rfl) | split
    | with_reducible refine Kept.ofFst ?_ (by assumption) | with_reducible refine Kept.ofSnd ?_ (by assumption)
    | (clear_value *; split)

theorem kept_goLive {b : Nat} (h0 : Kept kl ko ku s) :
    Kept kl ko ku (goLive b s) := by
  unfold goLive
  repeat' first
    | with_reducible assumption | with_reducible refine Kept.ite (fun _ => ?_) (fun _ => ?_)
    | (intro x; with_reducible refine Kept.gen (kl := kl) (ko := ko) (ku := ku) (x := x) ?_ ?_; (on_goal 1 => unfold x); (on_goal 2 => (intro _; clear_value x)))
    | (intro x; (have t : Nat := x; clear t); clear_value x) | (intro x) | lift_lets -underBinder
    | with_reducible refine kept_doIf (fun _ _ => ?_) ?_ | with_reducible refine kept_bankTo ?_
    | with_reducible refine kept_carve ?_ | with_reducible refine kept_showPipes ?_
    | fail_if_no_progress (with_reducible refine Kept.upd ?_ rfl rfl rfl rfl rfl rfl) | split
    | with_reducible refine Kept.ofFst ?_ (by assumption) | with_reducible refine Kept.ofSnd ?_ (by assumption)
    | (clear_value *; split)

theorem kept_drainDone {b : Nat} (h0 : Kept kl ko ku s) :
    Kept kl ko ku (drainDone b s) := by
  unfold drainDone
  repeat' first
    | with_reducible assumption | with_reducible refine Kept.ite (fun _ => ?_) (fun _ => ?_)
    | (intro x; with_reducible refine Kept.gen (kl := kl) (ko := ko) (ku := ku) (x := x) ?_ ?_; (on_goal 1 => unfold x); (on_goal 2 => (intro _; clear_value x)))
    | (intro x; (have t : Nat := x; clear t); clear_value x) | (intro x) | lift_lets -underBinder
    | with_reducible refine kept_setFld ?_ | with_reducible refine kept_doneIrq ?_
    | with_reducible refine kept_bankTo ?_
    | fail_if_no_progress (with_reducible refine Kept.upd ?_ rfl rfl rfl rfl rfl rfl) | split
    | with_reducible refine Kept.ofFst ?_ (by assumption) | with_reducible refine Kept.ofSnd ?_ (by assumption)
    | (clear_value *; split)

theorem kept_swapPoint (h0 : Kept kl ko ku s) :
    Kept kl ko ku (swapPoint s) := by
  unfold swapPoint
  repeat' first
    | with_reducible assumption | with_reducible refine Kept.ite (fun _ => ?_) (fun _ => ?_)
    | (intro x; with_reducible refine Kept.gen (kl := kl) (ko := ko) (ku := ku) (x := x) ?_ ?_; (on_goal 1 => unfold x); (on_goal 2 => (intro _; clear_value x)))
    | (intro x; (have t : Nat := x; clear t); clear_value x) | (intro x) | lift_lets -underBinder
    | with_reducible refine kept_doIf (fun _ _ => ?_) ?_ | with_reducible apply kept_wr
    | with_reducible refine kept_inc ?_ | with_reducible refine kept_complete ?_
    | with_reducible refine kept_bankTo ?_ | with_reducible refine kept_goLive ?_
    | with_reducible refine kept_drainDone ?_
    | fail_if_no_progress (with_reducible refine Kept.upd ?_ rfl rfl rfl rfl rfl rfl) | split
    | with_reducible refine Kept.ofFst ?_ (by assumption) | with_reducible refine Kept.ofSnd ?_ (by assumption)
    | (clear_value *; split)

theorem kept_drainEnd (h0 : Kept kl ko ku s) :
    Kept kl ko ku (drainEnd s) := by
  unfold drainEnd
  repeat' first
    | with_reducible assumption | with_reducible refine Kept.ite (fun _ => ?_) (fun _ => ?_)
    | (intro x; with_reducible refine Kept.gen (kl := kl) (ko := ko) (ku := ku) (x := x) ?_ ?_; (on_goal 1 => unfold x); (on_goal 2 => (intro _; clear_value x)))
    | (intro x; (have t : Nat := x; clear t); clear_value x) | (intro x) | lift_lets -underBinder
    | with_reducible refine kept_doIf (fun _ _ => ?_) ?_ | with_reducible refine kept_drainDone ?_
    | fail_if_no_progress (with_reducible refine Kept.upd ?_ rfl rfl rfl rfl rfl rfl) | split
    | with_reducible refine Kept.ofFst ?_ (by assumption) | with_reducible refine Kept.ofSnd ?_ (by assumption)
    | (clear_value *; split)

theorem kept_drainOverrun (h0 : Kept kl ko ku s) :
    Kept kl ko ku (drainOverrun s) := by
  unfold drainOverrun
  repeat' first
    | with_reducible assumption | with_reducible refine Kept.ite (fun _ => ?_) (fun _ => ?_)
    | (intro x; with_reducible refine Kept.gen (kl := kl) (ko := ko) (ku := ku) (x := x) ?_ ?_; (on_goal 1 => unfold x); (on_goal 2 => (intro _; clear_value x)))
    | (intro x; (have t : Nat := x; clear t); clear_value x) | (intro x) | lift_lets -underBinder
    | with_reducible refine kept_forEach (fun _ _ _ => ?_) ?_ | with_reducible refine kept_inc ?_
    | with_reducible refine kept_report ?_ | with_reducible refine kept_leaveHole ?_
    | with_reducible refine kept_drainDone ?_
    | fail_if_no_progress (with_reducible refine Kept.upd ?_ rfl rfl rfl rfl rfl rfl) | split
    | with_reducible refine Kept.ofFst ?_ (by assumption) | with_reducible refine Kept.ofSnd ?_ (by assumption)
    | (clear_value *; split)

theorem kept_plateScrub {b word : Nat} {ecc : Ecc} (h0 : Kept kl ko ku s) :
    Kept kl ko ku (plateScrub b word ecc s) := by
  unfold plateScrub
  repeat' first
    | with_reducible assumption | with_reducible refine Kept.ite (fun _ => ?_) (fun _ => ?_)
    | (intro x; with_reducible refine Kept.gen (kl := kl) (ko := ko) (ku := ku) (x := x) ?_ ?_; (on_goal 1 => unfold x); (on_goal 2 => (intro _; clear_value x)))
    | (intro x; (have t : Nat := x; clear t); clear_value x) | (intro x) | lift_lets -underBinder
    | with_reducible refine kept_inc ?_ | with_reducible refine kept_report ?_ | with_reducible refine kept_setBank ?_
    | with_reducible refine kept_bankTo ?_ | with_reducible refine kept_plateFail ?_
    | fail_if_no_progress (with_reducible refine Kept.upd ?_ rfl rfl rfl rfl rfl rfl) | split
    | with_reducible refine Kept.ofFst ?_ (by assumption) | with_reducible refine Kept.ofSnd ?_ (by assumption)
    | (clear_value *; split)

theorem kept_pipeQuiet {n : Nat} (h0 : Kept kl ko ku s) :
    Kept kl ko ku (pipeQuiet n s) := by
  unfold pipeQuiet
  repeat' first
    | with_reducible assumption | with_reducible refine Kept.ite (fun _ => ?_) (fun _ => ?_)
    | with_reducible refine kept_doIf (fun _ _ => ?_) ?_ | with_reducible refine kept_setFld ?_
    | fail_if_no_progress (with_reducible refine Kept.upd ?_ rfl rfl rfl rfl rfl rfl) | split
    | with_reducible refine Kept.ofFst ?_ (by assumption) | with_reducible refine Kept.ofSnd ?_ (by assumption)
    | (clear_value *; split)

theorem kept_quiesceEffect (h0 : Kept kl ko ku s) :
    Kept kl ko ku (quiesceEffect s) := by
  unfold quiesceEffect
  repeat' first
    | with_reducible assumption | with_reducible refine Kept.ite (fun _ => ?_) (fun _ => ?_)
    | with_reducible refine kept_setFld ?_
    | fail_if_no_progress (with_reducible refine Kept.upd ?_ rfl rfl rfl rfl rfl rfl) | split
    | with_reducible refine Kept.ofFst ?_ (by assumption) | with_reducible refine Kept.ofSnd ?_ (by assumption)
    | (clear_value *; split)

end Sys2Proof.Machine
end

