-- ==== Sys2Proof/Laws/KeptQueue.lean ====
section
/-! SUPPORT. Every operation of the modules named below keeps what Kept says:
Bpm, Lanes, Queue. -/

namespace Sys2Proof.Machine

set_option linter.unreachableTactic false
set_option linter.unusedTactic false
set_option linter.unusedVariables false

variable {kl : List Instr} {ko : List OwnerCfg} {ku : List Out} {s : State}

theorem kept_setPage {pool page : Nat} {p : PageSt} (h0 : Kept kl ko ku s) :
    Kept kl ko ku (setPage pool page p s) := by
  unfold setPage
  repeat' first
    | with_reducible assumption | with_reducible refine Kept.ite (fun _ => ?_) (fun _ => ?_)
    | (intro x; with_reducible refine Kept.gen (kl := kl) (ko := ko) (ku := ku) (x := x) ?_ ?_; (on_goal 1 => unfold x); (on_goal 2 => (intro _; clear_value x)))
    | (intro x; (have t : Nat := x; clear t); clear_value x) | (intro x) | lift_lets -underBinder
    | fail_if_no_progress (with_reducible refine Kept.upd ?_ rfl rfl rfl rfl rfl rfl) | split
    | with_reducible refine Kept.ofFst ?_ (by assumption) | with_reducible refine Kept.ofSnd ?_ (by assumption)
    | (clear_value *; split)

theorem kept_erasePage {pool page : Nat} (h0 : Kept kl ko ku s) :
    Kept kl ko ku (erasePage pool page s) := by
  unfold erasePage
  repeat' first
    | with_reducible assumption | with_reducible refine Kept.ite (fun _ => ?_) (fun _ => ?_)
    | (intro x; with_reducible refine Kept.gen (kl := kl) (ko := ko) (ku := ku) (x := x) ?_ ?_; (on_goal 1 => unfold x); (on_goal 2 => (intro _; clear_value x)))
    | (intro x; (have t : Nat := x; clear t); clear_value x) | (intro x) | lift_lets -underBinder
    | fail_if_no_progress (with_reducible refine Kept.upd ?_ rfl rfl rfl rfl rfl rfl) | split
    | with_reducible refine Kept.ofFst ?_ (by assumption) | with_reducible refine Kept.ofSnd ?_ (by assumption)
    | (clear_value *; split)

theorem kept_stackIrq (h0 : Kept kl ko ku s) :
    Kept kl ko ku (stackIrq s) := by
  unfold stackIrq
  repeat' first
    | with_reducible assumption | with_reducible refine Kept.ite (fun _ => ?_) (fun _ => ?_)
    | with_reducible refine kept_doIf (fun _ _ => ?_) ?_ | with_reducible refine kept_raiseBlock ?_
    | fail_if_no_progress (with_reducible refine Kept.upd ?_ rfl rfl rfl rfl rfl rfl) | split
    | with_reducible refine Kept.ofFst ?_ (by assumption) | with_reducible refine Kept.ofSnd ?_ (by assumption)
    | (clear_value *; split)

theorem kept_retireCheck (h0 : Kept kl ko ku s) :
    Kept kl ko ku (retireCheck s) := by
  unfold retireCheck
  repeat' first
    | with_reducible assumption | with_reducible refine Kept.ite (fun _ => ?_) (fun _ => ?_)
    | with_reducible refine kept_forEach (fun _ _ _ => ?_) ?_ | with_reducible refine kept_setFld ?_
    | with_reducible refine kept_stackIrq ?_
    | fail_if_no_progress (with_reducible refine Kept.upd ?_ rfl rfl rfl rfl rfl rfl) | split
    | with_reducible refine Kept.ofFst ?_ (by assumption) | with_reducible refine Kept.ofSnd ?_ (by assumption)
    | (clear_value *; split)

theorem kept_bpmRefresh (h0 : Kept kl ko ku s) :
    Kept kl ko ku (bpmRefresh s) := by
  unfold bpmRefresh
  repeat' first
    | with_reducible assumption | with_reducible refine Kept.ite (fun _ => ?_) (fun _ => ?_)
    | (intro x; with_reducible refine Kept.gen (kl := kl) (ko := ko) (ku := ku) (x := x) ?_ ?_; (on_goal 1 => unfold x); (on_goal 2 => (intro _; clear_value x)))
    | (intro x; (have t : Nat := x; clear t); clear_value x) | (intro x) | lift_lets -underBinder
    | with_reducible refine kept_forEach (fun _ _ _ => ?_) ?_ | with_reducible refine kept_setFld ?_
    | with_reducible refine kept_retireCheck ?_
    | fail_if_no_progress (with_reducible refine Kept.upd ?_ rfl rfl rfl rfl rfl rfl) | split
    | with_reducible refine Kept.ofFst ?_ (by assumption) | with_reducible refine Kept.ofSnd ?_ (by assumption)
    | (clear_value *; split)

theorem kept_linkPage {pool head page : Nat} (h0 : Kept kl ko ku s) :
    Kept kl ko ku (linkPage pool head page s) := by
  unfold linkPage
  repeat' first
    | with_reducible assumption | with_reducible refine Kept.ite (fun _ => ?_) (fun _ => ?_)
    | (intro x; with_reducible refine Kept.gen (kl := kl) (ko := ko) (ku := ku) (x := x) ?_ ?_; (on_goal 1 => unfold x); (on_goal 2 => (intro _; clear_value x)))
    | (intro x; (have t : Nat := x; clear t); clear_value x) | (intro x) | lift_lets -underBinder
    | with_reducible refine kept_setPage ?_
    | fail_if_no_progress (with_reducible refine Kept.upd ?_ rfl rfl rfl rfl rfl rfl) | split
    | with_reducible refine Kept.ofFst ?_ (by assumption) | with_reducible refine Kept.ofSnd ?_ (by assumption)
    | (clear_value *; split)

theorem kept_addUsed {r pool page : Nat} (h0 : Kept kl ko ku s) :
    Kept kl ko ku (addUsed r pool page s) := by
  unfold addUsed
  repeat' first
    | with_reducible assumption | with_reducible refine Kept.ite (fun _ => ?_) (fun _ => ?_)
    | (intro x; with_reducible refine Kept.gen (kl := kl) (ko := ko) (ku := ku) (x := x) ?_ ?_; (on_goal 1 => unfold x); (on_goal 2 => (intro _; clear_value x)))
    | (intro x; (have t : Nat := x; clear t); clear_value x) | (intro x) | lift_lets -underBinder
    | with_reducible refine kept_doIf (fun _ _ => ?_) ?_ | with_reducible refine kept_setFld ?_
    | fail_if_no_progress (with_reducible refine Kept.upd ?_ rfl rfl rfl rfl rfl rfl) | split
    | with_reducible refine Kept.ofFst ?_ (by assumption) | with_reducible refine Kept.ofSnd ?_ (by assumption)
    | (clear_value *; split)

theorem kept_grantPage {r pool : Nat} {head : Option Nat} (h0 : Kept kl ko ku s) :
    Kept kl ko ku (grantPage r pool head s).1 := by
  unfold grantPage
  repeat' first
    | with_reducible assumption | with_reducible refine Kept.ite (fun _ => ?_) (fun _ => ?_)
    | (intro x; with_reducible refine Kept.gen (kl := kl) (ko := ko) (ku := ku) (x := x) ?_ ?_; (on_goal 1 => unfold x); (on_goal 2 => (intro _; clear_value x)))
    | (intro x; (have t : Nat := x; clear t); clear_value x) | (intro x) | lift_lets -underBinder
    | with_reducible refine kept_doIf (fun _ _ => ?_) ?_ | with_reducible refine kept_inc ?_
    | with_reducible refine kept_setPage ?_ | with_reducible refine kept_bpmRefresh ?_
    | with_reducible refine kept_linkPage ?_ | with_reducible refine kept_addUsed ?_
    | fail_if_no_progress (with_reducible refine Kept.upd ?_ rfl rfl rfl rfl rfl rfl) | split
    | with_reducible refine Kept.ofFst ?_ (by assumption) | with_reducible refine Kept.ofSnd ?_ (by assumption)
    | (clear_value *; split)

theorem kept_setStore {id : Nat} {k : Stored} (h0 : Kept kl ko ku s) :
    Kept kl ko ku (setStore id k s) := by
  unfold setStore
  repeat' first
    | with_reducible assumption | with_reducible refine Kept.ite (fun _ => ?_) (fun _ => ?_)
    | (intro x; with_reducible refine Kept.gen (kl := kl) (ko := ko) (ku := ku) (x := x) ?_ ?_; (on_goal 1 => unfold x); (on_goal 2 => (intro _; clear_value x)))
    | (intro x; (have t : Nat := x; clear t); clear_value x) | (intro x) | lift_lets -underBinder
    | fail_if_no_progress (with_reducible refine Kept.upd ?_ rfl rfl rfl rfl rfl rfl) | split
    | with_reducible refine Kept.ofFst ?_ (by assumption) | with_reducible refine Kept.ofSnd ?_ (by assumption)
    | (clear_value *; split)

theorem kept_onStored {pool head : Nat} {f : Nat → Stored → Stored} (h0 : Kept kl ko ku s) :
    Kept kl ko ku (onStored pool head f s) := by
  unfold onStored
  repeat' first
    | with_reducible assumption | with_reducible refine Kept.ite (fun _ => ?_) (fun _ => ?_)
    | fail_if_no_progress (with_reducible refine Kept.upd ?_ rfl rfl rfl rfl rfl rfl) | split
    | with_reducible refine Kept.ofFst ?_ (by assumption) | with_reducible refine Kept.ofSnd ?_ (by assumption)
    | (clear_value *; split)

theorem kept_cutStored {pool head : Nat} (h0 : Kept kl ko ku s) :
    Kept kl ko ku (cutStored pool head s) := by
  unfold cutStored
  repeat' first
    | with_reducible assumption | with_reducible refine Kept.ite (fun _ => ?_) (fun _ => ?_)
    | with_reducible refine kept_onStored ?_
    | fail_if_no_progress (with_reducible refine Kept.upd ?_ rfl rfl rfl rfl rfl rfl) | split
    | with_reducible refine Kept.ofFst ?_ (by assumption) | with_reducible refine Kept.ofSnd ?_ (by assumption)
    | (clear_value *; split)

theorem kept_fbRefresh (h0 : Kept kl ko ku s) :
    Kept kl ko ku (fbRefresh s) := by
  unfold fbRefresh
  repeat' first
    | with_reducible assumption | with_reducible refine Kept.ite (fun _ => ?_) (fun _ => ?_)
    | with_reducible refine kept_setFld ?_
    | fail_if_no_progress (with_reducible refine Kept.upd ?_ rfl rfl rfl rfl rfl rfl) | split
    | with_reducible refine Kept.ofFst ?_ (by assumption) | with_reducible refine Kept.ofSnd ?_ (by assumption)
    | (clear_value *; split)

theorem kept_stackLeaves {i : Nat} (h0 : Kept kl ko ku s) :
    Kept kl ko ku (stackLeaves i s) := by
  unfold stackLeaves
  repeat' first
    | with_reducible assumption | with_reducible refine Kept.ite (fun _ => ?_) (fun _ => ?_)
    | (intro x; with_reducible refine Kept.gen (kl := kl) (ko := ko) (ku := ku) (x := x) ?_ ?_; (on_goal 1 => unfold x); (on_goal 2 => (intro _; clear_value x)))
    | (intro x; (have t : Nat := x; clear t); clear_value x) | (intro x) | lift_lets -underBinder
    | with_reducible refine kept_doIf (fun _ _ => ?_) ?_ | with_reducible refine kept_setFld ?_
    | with_reducible refine kept_inc ?_ | with_reducible refine kept_report ?_
    | with_reducible refine kept_fbRefresh ?_
    | fail_if_no_progress (with_reducible refine Kept.upd ?_ rfl rfl rfl rfl rfl rfl) | split
    | with_reducible refine Kept.ofFst ?_ (by assumption) | with_reducible refine Kept.ofSnd ?_ (by assumption)
    | (clear_value *; split)

theorem kept_setStack {i st : Nat} (h0 : Kept kl ko ku s) :
    Kept kl ko ku (setStack i st s) := by
  unfold setStack
  repeat' first
    | with_reducible assumption | with_reducible refine Kept.ite (fun _ => ?_) (fun _ => ?_)
    | (intro x; with_reducible refine Kept.gen (kl := kl) (ko := ko) (ku := ku) (x := x) ?_ ?_; (on_goal 1 => unfold x); (on_goal 2 => (intro _; clear_value x)))
    | (intro x; (have t : Nat := x; clear t); clear_value x) | (intro x) | lift_lets -underBinder
    | with_reducible refine kept_doIf (fun _ _ => ?_) ?_ | with_reducible refine kept_setFld ?_
    | with_reducible refine kept_report ?_ | with_reducible refine kept_stackIrq ?_
    | with_reducible refine kept_bpmRefresh ?_ | with_reducible refine kept_stackLeaves ?_
    | fail_if_no_progress (with_reducible refine Kept.upd ?_ rfl rfl rfl rfl rfl rfl) | split
    | with_reducible refine Kept.ofFst ?_ (by assumption) | with_reducible refine Kept.ofSnd ?_ (by assumption)
    | (clear_value *; split)

theorem kept_failStack {i : Nat} (h0 : Kept kl ko ku s) :
    Kept kl ko ku (failStack i s) := by
  unfold failStack
  repeat' first
    | with_reducible assumption | with_reducible refine Kept.ite (fun _ => ?_) (fun _ => ?_)
    | (intro x; with_reducible refine Kept.gen (kl := kl) (ko := ko) (ku := ku) (x := x) ?_ ?_; (on_goal 1 => unfold x); (on_goal 2 => (intro _; clear_value x)))
    | (intro x; (have t : Nat := x; clear t); clear_value x) | (intro x) | lift_lets -underBinder
    | with_reducible refine kept_setStack ?_
    | fail_if_no_progress (with_reducible refine Kept.upd ?_ rfl rfl rfl rfl rfl rfl) | split
    | with_reducible refine Kept.ofFst ?_ (by assumption) | with_reducible refine Kept.ofSnd ?_ (by assumption)
    | (clear_value *; split)

theorem kept_countUnc {i n : Nat} (h0 : Kept kl ko ku s) :
    Kept kl ko ku (countUnc i n s) := by
  unfold countUnc
  repeat' first
    | with_reducible assumption | with_reducible refine Kept.ite (fun _ => ?_) (fun _ => ?_)
    | (intro x; with_reducible refine Kept.gen (kl := kl) (ko := ko) (ku := ku) (x := x) ?_ ?_; (on_goal 1 => unfold x); (on_goal 2 => (intro _; clear_value x)))
    | (intro x; (have t : Nat := x; clear t); clear_value x) | (intro x) | lift_lets -underBinder
    | fail_if_no_progress (with_reducible refine Kept.upd ?_ rfl rfl rfl rfl rfl rfl) | split
    | with_reducible refine Kept.ofFst ?_ (by assumption) | with_reducible refine Kept.ofSnd ?_ (by assumption)
    | (clear_value *; split)

theorem kept_stackFailed {i : Nat} {phyLost : Bool} {uncorr : Nat} (h0 : Kept kl ko ku s) :
    Kept kl ko ku (stackFailed i phyLost uncorr s) := by
  unfold stackFailed
  repeat' first
    | with_reducible assumption | with_reducible refine Kept.ite (fun _ => ?_) (fun _ => ?_)
    | (intro x; with_reducible refine Kept.gen (kl := kl) (ko := ko) (ku := ku) (x := x) ?_ ?_; (on_goal 1 => unfold x); (on_goal 2 => (intro _; clear_value x)))
    | (intro x; (have t : Nat := x; clear t); clear_value x) | (intro x) | lift_lets -underBinder
    | with_reducible refine kept_failStack ?_ | with_reducible refine kept_countUnc ?_
    | fail_if_no_progress (with_reducible refine Kept.upd ?_ rfl rfl rfl rfl rfl rfl) | split
    | with_reducible refine Kept.ofFst ?_ (by assumption) | with_reducible refine Kept.ofSnd ?_ (by assumption)
    | (clear_value *; split)

theorem kept_f0Fail (h0 : Kept kl ko ku s) :
    Kept kl ko ku (f0Fail s) := by
  unfold f0Fail
  repeat' first
    | with_reducible assumption | with_reducible refine Kept.ite (fun _ => ?_) (fun _ => ?_)
    | (intro x; with_reducible refine Kept.gen (kl := kl) (ko := ko) (ku := ku) (x := x) ?_ ?_; (on_goal 1 => unfold x); (on_goal 2 => (intro _; clear_value x)))
    | (intro x; (have t : Nat := x; clear t); clear_value x) | (intro x) | lift_lets -underBinder
    | with_reducible refine kept_report ?_
    | fail_if_no_progress (with_reducible refine Kept.upd ?_ rfl rfl rfl rfl rfl rfl) | split
    | with_reducible refine Kept.ofFst ?_ (by assumption) | with_reducible refine Kept.ofSnd ?_ (by assumption)
    | (clear_value *; split)

theorem kept_pageRequest {r pool : Nat} {body : Option Nat} (h0 : Kept kl ko ku s) :
    Kept kl ko ku (pageRequest r pool body s) := by
  unfold pageRequest
  repeat' first
    | with_reducible assumption | with_reducible refine Kept.ite (fun _ => ?_) (fun _ => ?_)
    | (intro x; with_reducible refine Kept.gen (kl := kl) (ko := ko) (ku := ku) (x := x) ?_ ?_; (on_goal 1 => unfold x); (on_goal 2 => (intro _; clear_value x)))
    | (intro x; (have t : Nat := x; clear t); clear_value x) | (intro x) | lift_lets -underBinder
    | with_reducible apply kept_emit | with_reducible refine kept_grantPage ?_ | with_reducible refine kept_onStored ?_
    | with_reducible refine kept_cutStored ?_
    | fail_if_no_progress (with_reducible refine Kept.upd ?_ rfl rfl rfl rfl rfl rfl) | split
    | with_reducible refine Kept.ofFst ?_ (by assumption) | with_reducible refine Kept.ofSnd ?_ (by assumption)
    | (clear_value *; split)

theorem kept_dropUsed {r pool page n : Nat} (h0 : Kept kl ko ku s) :
    Kept kl ko ku (dropUsed r pool page n s) := by
  unfold dropUsed
  repeat' first
    | with_reducible assumption | with_reducible refine Kept.ite (fun _ => ?_) (fun _ => ?_)
    | (intro x; with_reducible refine Kept.gen (kl := kl) (ko := ko) (ku := ku) (x := x) ?_ ?_; (on_goal 1 => unfold x); (on_goal 2 => (intro _; clear_value x)))
    | (intro x; (have t : Nat := x; clear t); clear_value x) | (intro x) | lift_lets -underBinder
    | with_reducible refine kept_doIf (fun _ _ => ?_) ?_ | with_reducible refine kept_setFld ?_
    | fail_if_no_progress (with_reducible refine Kept.upd ?_ rfl rfl rfl rfl rfl rfl) | split
    | with_reducible refine Kept.ofFst ?_ (by assumption) | with_reducible refine Kept.ofSnd ?_ (by assumption)
    | (clear_value *; split)

theorem kept_losePages {pool page n : Nat} (h0 : Kept kl ko ku s) :
    Kept kl ko ku (losePages pool page n s) := by
  unfold losePages
  repeat' first
    | with_reducible assumption | with_reducible refine Kept.ite (fun _ => ?_) (fun _ => ?_)
    | (intro x; with_reducible refine Kept.gen (kl := kl) (ko := ko) (ku := ku) (x := x) ?_ ?_; (on_goal 1 => unfold x); (on_goal 2 => (intro _; clear_value x)))
    | (intro x; (have t : Nat := x; clear t); clear_value x) | (intro x) | lift_lets -underBinder
    | with_reducible refine kept_bump ?_
    | fail_if_no_progress (with_reducible refine Kept.upd ?_ rfl rfl rfl rfl rfl rfl) | split
    | with_reducible refine Kept.ofFst ?_ (by assumption) | with_reducible refine Kept.ofSnd ?_ (by assumption)
    | (clear_value *; split)

theorem kept_unreadRead {pool page : Nat} (h0 : Kept kl ko ku s) :
    Kept kl ko ku (unreadRead pool page s) := by
  unfold unreadRead
  repeat' first
    | with_reducible assumption | with_reducible refine Kept.ite (fun _ => ?_) (fun _ => ?_)
    | with_reducible refine kept_doIf (fun _ _ => ?_) ?_ | with_reducible refine kept_stackFailed ?_
    | fail_if_no_progress (with_reducible refine Kept.upd ?_ rfl rfl rfl rfl rfl rfl) | split
    | with_reducible refine Kept.ofFst ?_ (by assumption) | with_reducible refine Kept.ofSnd ?_ (by assumption)
    | (clear_value *; split)

theorem kept_walkFree {pool n page : Nat} {k : Walk} (h : Kept kl ko ku s) : Kept kl ko ku (walkFree pool n page k s).1 := by
  induction n generalizing page k s with
  | zero => exact h
  | succ n ih =>
    unfold walkFree
    split
    · lift_lets -underBinder
      intro s1 k1
      split
      · exact kept_erasePage h
      · split
        · exact kept_erasePage h
        · exact ih (kept_erasePage h)
    · exact kept_unreadRead h

theorem kept_walkOn {pool n page : Nat} (h : Kept kl ko ku s) : Kept kl ko ku (walkOn pool n page s).1 := by
  induction n generalizing page s with
  | zero => exact h
  | succ n ih =>
    unfold walkOn
    split
    · lift_lets -underBinder
      intro s1
      split
      · exact kept_setPage h
      · exact ih (kept_setPage h)
    · exact kept_unreadRead h

theorem kept_freeChain {r pool head count : Nat} (h0 : Kept kl ko ku s) :
    Kept kl ko ku (freeChain r pool head count s) := by
  unfold freeChain
  repeat' first
    | with_reducible assumption | with_reducible refine Kept.ite (fun _ => ?_) (fun _ => ?_)
    | (intro x; with_reducible refine Kept.gen (kl := kl) (ko := ko) (ku := ku) (x := x) ?_ ?_; (on_goal 1 => unfold x); (on_goal 2 => (intro _; clear_value x)))
    | (intro x; (have t : Nat := x; clear t); clear_value x) | (intro x) | lift_lets -underBinder
    | with_reducible refine kept_bump ?_ | with_reducible refine kept_inc ?_ | with_reducible refine kept_report ?_
    | with_reducible refine kept_bpmRefresh ?_ | with_reducible refine kept_dropUsed ?_
    | with_reducible refine kept_losePages ?_ | with_reducible refine kept_walkFree ?_
    | with_reducible refine kept_walkOn ?_
    | fail_if_no_progress (with_reducible refine Kept.upd ?_ rfl rfl rfl rfl rfl rfl) | split
    | with_reducible refine Kept.ofFst ?_ (by assumption) | with_reducible refine Kept.ofSnd ?_ (by assumption)
    | (clear_value *; split)

theorem kept_setRef {i n : Nat} (h0 : Kept kl ko ku s) :
    Kept kl ko ku (setRef i n s) := by
  unfold setRef
  repeat' first
    | with_reducible assumption | with_reducible refine Kept.ite (fun _ => ?_) (fun _ => ?_)
    | (intro x; with_reducible refine Kept.gen (kl := kl) (ko := ko) (ku := ku) (x := x) ?_ ?_; (on_goal 1 => unfold x); (on_goal 2 => (intro _; clear_value x)))
    | (intro x; (have t : Nat := x; clear t); clear_value x) | (intro x) | lift_lets -underBinder
    | fail_if_no_progress (with_reducible refine Kept.upd ?_ rfl rfl rfl rfl rfl rfl) | split
    | with_reducible refine Kept.ofFst ?_ (by assumption) | with_reducible refine Kept.ofSnd ?_ (by assumption)
    | (clear_value *; split)

theorem kept_rejectOp {r head : Nat} {h : HeadFind} (h0 : Kept kl ko ku s) :
    Kept kl ko ku (rejectOp r head h s) := by
  unfold rejectOp
  repeat' first
    | with_reducible assumption | with_reducible refine Kept.ite (fun _ => ?_) (fun _ => ?_)
    | (intro x; with_reducible refine Kept.gen (kl := kl) (ko := ko) (ku := ku) (x := x) ?_ ?_; (on_goal 1 => unfold x); (on_goal 2 => (intro _; clear_value x)))
    | (intro x; (have t : Nat := x; clear t); clear_value x) | (intro x) | lift_lets -underBinder
    | with_reducible refine kept_inc ?_ | with_reducible refine kept_report ?_
    | fail_if_no_progress (with_reducible refine Kept.upd ?_ rfl rfl rfl rfl rfl rfl) | split
    | with_reducible refine Kept.ofFst ?_ (by assumption) | with_reducible refine Kept.ofSnd ?_ (by assumption)
    | (clear_value *; split)

theorem kept_bpmRelease {r pool head count : Nat} (h0 : Kept kl ko ku s) :
    Kept kl ko ku (bpmRelease r pool head count s) := by
  unfold bpmRelease
  repeat' first
    | with_reducible assumption | with_reducible refine Kept.ite (fun _ => ?_) (fun _ => ?_)
    | (intro x; with_reducible refine Kept.gen (kl := kl) (ko := ko) (ku := ku) (x := x) ?_ ?_; (on_goal 1 => unfold x); (on_goal 2 => (intro _; clear_value x)))
    | (intro x; (have t : Nat := x; clear t); clear_value x) | (intro x) | lift_lets -underBinder
    | with_reducible refine kept_freeChain ?_ | with_reducible refine kept_setRef ?_
    | with_reducible refine kept_rejectOp ?_
    | fail_if_no_progress (with_reducible refine Kept.upd ?_ rfl rfl rfl rfl rfl rfl) | split
    | with_reducible refine Kept.ofFst ?_ (by assumption) | with_reducible refine Kept.ofSnd ?_ (by assumption)
    | (clear_value *; split)

theorem kept_bpmInc {r pool head : Nat} (h0 : Kept kl ko ku s) :
    Kept kl ko ku (bpmInc r pool head s).1 := by
  unfold bpmInc
  repeat' first
    | with_reducible assumption | with_reducible refine Kept.ite (fun _ => ?_) (fun _ => ?_)
    | (intro x; with_reducible refine Kept.gen (kl := kl) (ko := ko) (ku := ku) (x := x) ?_ ?_; (on_goal 1 => unfold x); (on_goal 2 => (intro _; clear_value x)))
    | (intro x; (have t : Nat := x; clear t); clear_value x) | (intro x) | lift_lets -underBinder
    | with_reducible refine kept_inc ?_ | with_reducible refine kept_report ?_ | with_reducible refine kept_setPage ?_
    | with_reducible refine kept_unreadRead ?_ | with_reducible refine kept_setRef ?_
    | with_reducible refine kept_rejectOp ?_
    | fail_if_no_progress (with_reducible refine Kept.upd ?_ rfl rfl rfl rfl rfl rfl) | split
    | with_reducible refine Kept.ofFst ?_ (by assumption) | with_reducible refine Kept.ofSnd ?_ (by assumption)
    | (clear_value *; split)

theorem kept_loseLeaf {pool base : Nat} (h0 : Kept kl ko ku s) :
    Kept kl ko ku (loseLeaf pool base s) := by
  unfold loseLeaf
  repeat' first
    | with_reducible assumption | with_reducible refine Kept.ite (fun _ => ?_) (fun _ => ?_)
    | (intro x; with_reducible refine Kept.gen (kl := kl) (ko := ko) (ku := ku) (x := x) ?_ ?_; (on_goal 1 => unfold x); (on_goal 2 => (intro _; clear_value x)))
    | (intro x; (have t : Nat := x; clear t); clear_value x) | (intro x) | lift_lets -underBinder
    | with_reducible refine kept_forEach (fun _ _ _ => ?_) ?_ | with_reducible refine kept_setPage ?_
    | with_reducible refine kept_losePages ?_
    | fail_if_no_progress (with_reducible refine Kept.upd ?_ rfl rfl rfl rfl rfl rfl) | split
    | with_reducible refine Kept.ofFst ?_ (by assumption) | with_reducible refine Kept.ofSnd ?_ (by assumption)
    | (clear_value *; split)

theorem kept_loseRef {i : Nat} (h0 : Kept kl ko ku s) :
    Kept kl ko ku (loseRef i s) := by
  unfold loseRef
  repeat' first
    | with_reducible assumption | with_reducible refine Kept.ite (fun _ => ?_) (fun _ => ?_)
    | (intro x; with_reducible refine Kept.gen (kl := kl) (ko := ko) (ku := ku) (x := x) ?_ ?_; (on_goal 1 => unfold x); (on_goal 2 => (intro _; clear_value x)))
    | (intro x; (have t : Nat := x; clear t); clear_value x) | (intro x) | lift_lets -underBinder
    | with_reducible refine kept_report ?_ | with_reducible refine kept_dropUsed ?_
    | with_reducible refine kept_losePages ?_
    | fail_if_no_progress (with_reducible refine Kept.upd ?_ rfl rfl rfl rfl rfl rfl) | split
    | with_reducible refine Kept.ofFst ?_ (by assumption) | with_reducible refine Kept.ofSnd ?_ (by assumption)
    | (clear_value *; split)

theorem kept_bpmError {m : BpmMem} {ecc : Ecc} (h0 : Kept kl ko ku s) :
    Kept kl ko ku (bpmError m ecc s) := by
  unfold bpmError
  repeat' first
    | with_reducible assumption | with_reducible refine Kept.ite (fun _ => ?_) (fun _ => ?_)
    | (intro x; with_reducible refine Kept.gen (kl := kl) (ko := ko) (ku := ku) (x := x) ?_ ?_; (on_goal 1 => unfold x); (on_goal 2 => (intro _; clear_value x)))
    | (intro x; (have t : Nat := x; clear t); clear_value x) | (intro x) | lift_lets -underBinder
    | with_reducible refine kept_doIf (fun _ _ => ?_) ?_ | with_reducible refine kept_inc ?_
    | with_reducible refine kept_report ?_ | with_reducible refine kept_setPage ?_
    | with_reducible refine kept_bpmRefresh ?_ | with_reducible refine kept_stackFailed ?_
    | with_reducible refine kept_loseLeaf ?_ | with_reducible refine kept_loseRef ?_
    | fail_if_no_progress (with_reducible refine Kept.upd ?_ rfl rfl rfl rfl rfl rfl) | split
    | with_reducible refine Kept.ofFst ?_ (by assumption) | with_reducible refine Kept.ofSnd ?_ (by assumption)
    | (clear_value *; split)

theorem kept_readRec {p pool page : Nat} {ecc : Ecc} (h0 : Kept kl ko ku s) :
    Kept kl ko ku (readRec p pool page ecc s) := by
  have h1 := kept_bpmError (m := .record pool page) (ecc := ecc) h0
  unfold readRec
  extract_lets none_ ok bad
  have hn : ∀ s, Kept kl ko ku s → Kept kl ko ku (none_ s) := fun _ hs => kept_complete (kept_wr _ _ hs)
  have ho : ∀ w s, Kept kl ko ku s → Kept kl ko ku (ok w s) := fun _ _ hs => kept_complete (kept_wr _ _ hs)
  have hb : ∀ s, Kept kl ko ku s → Kept kl ko ku (bad s) := fun _ hs => kept_complete hs
  clear_value none_ ok bad
  refine Kept.ite (fun _ => hn _ h0) (fun _ => Kept.ite (fun _ => Kept.ite (fun _ => hn _ h0) (fun _ => ?_)) (fun _ => ?_))
  · exact Kept.ite (fun _ => hb _ h1) (fun _ => ho _ _ h1)
  · rcases s.page pool page with _ | x
    · exact hn _ h0
    · refine Kept.ite (fun _ => hb _ h0) (fun _ => ?_)
      generalize (ecc == .uncorr) = b
      cases b <;> cases x <;> first | exact hb _ h1 | exact ho _ _ h1 | exact hb _ (kept_unreadRead h1)

theorem kept_readRef {p i : Nat} {ecc : Ecc} (h0 : Kept kl ko ku s) :
    Kept kl ko ku (readRef p i ecc s) := by
  unfold readRef
  repeat' first
    | with_reducible assumption | with_reducible refine Kept.ite (fun _ => ?_) (fun _ => ?_)
    | (intro x; with_reducible refine Kept.gen (kl := kl) (ko := ko) (ku := ku) (x := x) ?_ ?_; (on_goal 1 => unfold x); (on_goal 2 => (intro _; clear_value x)))
    | (intro x; (have t : Nat := x; clear t); clear_value x) | (intro x) | lift_lets -underBinder
    | with_reducible apply kept_wr | with_reducible refine kept_complete ?_ | with_reducible refine kept_bpmError ?_
    | fail_if_no_progress (with_reducible refine Kept.upd ?_ rfl rfl rfl rfl rfl rfl) | split
    | with_reducible refine Kept.ofFst ?_ (by assumption) | with_reducible refine Kept.ofSnd ?_ (by assumption)
    | (clear_value *; split)

theorem kept_retireStack {p i : Nat} (h0 : Kept kl ko ku s) :
    Kept kl ko ku (retireStack p i s) := by
  unfold retireStack
  repeat' first
    | with_reducible assumption | with_reducible refine Kept.ite (fun _ => ?_) (fun _ => ?_)
    | with_reducible refine kept_complete ?_ | with_reducible refine kept_setStack ?_
    | fail_if_no_progress (with_reducible refine Kept.upd ?_ rfl rfl rfl rfl rfl rfl) | split
    | with_reducible refine Kept.ofFst ?_ (by assumption) | with_reducible refine Kept.ofSnd ?_ (by assumption)
    | (clear_value *; split)

theorem kept_restoreStack {p i : Nat} (h0 : Kept kl ko ku s) :
    Kept kl ko ku (restoreStack p i s) := by
  unfold restoreStack
  repeat' first
    | with_reducible assumption | with_reducible refine Kept.ite (fun _ => ?_) (fun _ => ?_)
    | with_reducible refine kept_complete ?_ | with_reducible refine kept_setStack ?_
    | fail_if_no_progress (with_reducible refine Kept.upd ?_ rfl rfl rfl rfl rfl rfl) | split
    | with_reducible refine Kept.ofFst ?_ (by assumption) | with_reducible refine Kept.ofSnd ?_ (by assumption)
    | (clear_value *; split)

theorem kept_bpmPerform {p op pool i : Nat} {ecc : Ecc} (h0 : Kept kl ko ku s) :
    Kept kl ko ku (bpmPerform p op pool i ecc s) := by
  unfold bpmPerform
  repeat' first
    | with_reducible assumption | with_reducible refine Kept.ite (fun _ => ?_) (fun _ => ?_)
    | (intro x; with_reducible refine Kept.gen (kl := kl) (ko := ko) (ku := ku) (x := x) ?_ ?_; (on_goal 1 => unfold x); (on_goal 2 => (intro _; clear_value x)))
    | (intro x; (have t : Nat := x; clear t); clear_value x) | (intro x) | lift_lets -underBinder
    | with_reducible refine kept_readRec ?_ | with_reducible refine kept_readRef ?_
    | with_reducible refine kept_retireStack ?_ | with_reducible refine kept_restoreStack ?_
    | fail_if_no_progress (with_reducible refine Kept.upd ?_ rfl rfl rfl rfl rfl rfl) | split
    | with_reducible refine Kept.ofFst ?_ (by assumption) | with_reducible refine Kept.ofSnd ?_ (by assumption)
    | (clear_value *; split)

theorem kept_bpmAct {fn : Fn} {p op pool i : Nat} {ecc : Ecc} (h0 : Kept kl ko ku s) :
    Kept kl ko ku (bpmAct fn p op pool i ecc s) := by
  unfold bpmAct
  repeat' first
    | with_reducible assumption | with_reducible refine Kept.ite (fun _ => ?_) (fun _ => ?_)
    | (intro x; with_reducible refine Kept.gen (kl := kl) (ko := ko) (ku := ku) (x := x) ?_ ?_; (on_goal 1 => unfold x); (on_goal 2 => (intro _; clear_value x)))
    | (intro x; (have t : Nat := x; clear t); clear_value x) | (intro x) | lift_lets -underBinder
    | with_reducible refine kept_doIf (fun _ _ => ?_) ?_ | with_reducible apply kept_wr
    | with_reducible refine kept_denied ?_ | with_reducible refine kept_runChecks (fun _ _ => ?_) ?_
    | with_reducible refine kept_bpmPerform ?_
    | fail_if_no_progress (with_reducible refine Kept.upd ?_ rfl rfl rfl rfl rfl rfl) | split
    | with_reducible refine Kept.ofFst ?_ (by assumption) | with_reducible refine Kept.ofSnd ?_ (by assumption)
    | (clear_value *; split)

theorem kept_bpmCommand {fn : Fn} {p : Nat} {w : Word} {ecc : Ecc} (h0 : Kept kl ko ku s) :
    Kept kl ko ku (bpmCommand fn p w ecc s) := by
  unfold bpmCommand
  repeat' first
    | with_reducible assumption | with_reducible refine Kept.ite (fun _ => ?_) (fun _ => ?_)
    | (intro x; with_reducible refine Kept.gen (kl := kl) (ko := ko) (ku := ku) (x := x) ?_ ?_; (on_goal 1 => unfold x); (on_goal 2 => (intro _; clear_value x)))
    | (intro x; (have t : Nat := x; clear t); clear_value x) | (intro x) | lift_lets -underBinder
    | with_reducible refine kept_orHold (fun _ _ => ?_) ?_ | with_reducible refine kept_issue (fun _ _ => ?_) ?_
    | with_reducible refine kept_bpmAct ?_
    | fail_if_no_progress (with_reducible refine Kept.upd ?_ rfl rfl rfl rfl rfl rfl) | split
    | with_reducible refine Kept.ofFst ?_ (by assumption) | with_reducible refine Kept.ofSnd ?_ (by assumption)
    | (clear_value *; split)

theorem kept_bpmIssue {fn : Fn} {op : Nat} {ecc : Ecc} (h0 : Kept kl ko ku s) :
    Kept kl ko ku (bpmIssue fn op ecc s) := by
  unfold bpmIssue
  repeat' first
    | with_reducible assumption | with_reducible refine Kept.ite (fun _ => ?_) (fun _ => ?_)
    | with_reducible refine kept_access (fun _ _ _ _ _ => ?_) ?_ | with_reducible refine kept_bpmCommand ?_
    | fail_if_no_progress (with_reducible refine Kept.upd ?_ rfl rfl rfl rfl rfl rfl) | split
    | with_reducible refine Kept.ofFst ?_ (by assumption) | with_reducible refine Kept.ofSnd ?_ (by assumption)
    | (clear_value *; split)

theorem kept_fabBump {off n : Nat} (h0 : Kept kl ko ku s) :
    Kept kl ko ku (fabBump off n s) := by
  unfold fabBump
  repeat' first
    | with_reducible assumption | with_reducible refine Kept.ite (fun _ => ?_) (fun _ => ?_)
    | (intro x; with_reducible refine Kept.gen (kl := kl) (ko := ko) (ku := ku) (x := x) ?_ ?_; (on_goal 1 => unfold x); (on_goal 2 => (intro _; clear_value x)))
    | (intro x; (have t : Nat := x; clear t); clear_value x) | (intro x) | lift_lets -underBinder
    | fail_if_no_progress (with_reducible refine Kept.upd ?_ rfl rfl rfl rfl rfl rfl) | split
    | with_reducible refine Kept.ofFst ?_ (by assumption) | with_reducible refine Kept.ofSnd ?_ (by assumption)
    | (clear_value *; split)

theorem kept_fabInc {off : Nat} (h0 : Kept kl ko ku s) :
    Kept kl ko ku (fabInc off s) := by
  unfold fabInc
  repeat' first
    | with_reducible assumption | with_reducible refine Kept.ite (fun _ => ?_) (fun _ => ?_)
    | with_reducible refine kept_fabBump ?_
    | fail_if_no_progress (with_reducible refine Kept.upd ?_ rfl rfl rfl rfl rfl rfl) | split
    | with_reducible refine Kept.ofFst ?_ (by assumption) | with_reducible refine Kept.ofSnd ?_ (by assumption)
    | (clear_value *; split)

theorem kept_fabIrq (h0 : Kept kl ko ku s) :
    Kept kl ko ku (fabIrq s) := by
  unfold fabIrq
  repeat' first
    | with_reducible assumption | with_reducible refine Kept.ite (fun _ => ?_) (fun _ => ?_)
    | with_reducible refine kept_doIf (fun _ _ => ?_) ?_ | with_reducible refine kept_raiseBlock ?_
    | fail_if_no_progress (with_reducible refine Kept.upd ?_ rfl rfl rfl rfl rfl rfl) | split
    | with_reducible refine Kept.ofFst ?_ (by assumption) | with_reducible refine Kept.ofSnd ?_ (by assumption)
    | (clear_value *; split)

theorem kept_setLane {l : Nat} {k : LaneSt} (h0 : Kept kl ko ku s) :
    Kept kl ko ku (setLane l k s) := by
  unfold setLane
  repeat' first
    | with_reducible assumption | with_reducible refine Kept.ite (fun _ => ?_) (fun _ => ?_)
    | (intro x; with_reducible refine Kept.gen (kl := kl) (ko := ko) (ku := ku) (x := x) ?_ ?_; (on_goal 1 => unfold x); (on_goal 2 => (intro _; clear_value x)))
    | (intro x; (have t : Nat := x; clear t); clear_value x) | (intro x) | lift_lets -underBinder
    | fail_if_no_progress (with_reducible refine Kept.upd ?_ rfl rfl rfl rfl rfl rfl) | split
    | with_reducible refine Kept.ofFst ?_ (by assumption) | with_reducible refine Kept.ofSnd ?_ (by assumption)
    | (clear_value *; split)

theorem kept_setGroup {g : Nat} {k : GroupSt} (h0 : Kept kl ko ku s) :
    Kept kl ko ku (setGroup g k s) := by
  unfold setGroup
  repeat' first
    | with_reducible assumption | with_reducible refine Kept.ite (fun _ => ?_) (fun _ => ?_)
    | (intro x; with_reducible refine Kept.gen (kl := kl) (ko := ko) (ku := ku) (x := x) ?_ ?_; (on_goal 1 => unfold x); (on_goal 2 => (intro _; clear_value x)))
    | (intro x; (have t : Nat := x; clear t); clear_value x) | (intro x) | lift_lets -underBinder
    | fail_if_no_progress (with_reducible refine Kept.upd ?_ rfl rfl rfl rfl rfl rfl) | split
    | with_reducible refine Kept.ofFst ?_ (by assumption) | with_reducible refine Kept.ofSnd ?_ (by assumption)
    | (clear_value *; split)

theorem kept_repin {d : Nat} (h0 : Kept kl ko ku s) :
    Kept kl ko ku (repin d s) := by
  unfold repin
  repeat' first
    | with_reducible assumption | with_reducible refine Kept.ite (fun _ => ?_) (fun _ => ?_)
    | (intro x; with_reducible refine Kept.gen (kl := kl) (ko := ko) (ku := ku) (x := x) ?_ ?_; (on_goal 1 => unfold x); (on_goal 2 => (intro _; clear_value x)))
    | (intro x; (have t : Nat := x; clear t); clear_value x) | (intro x) | lift_lets -underBinder
    | with_reducible refine kept_fabInc ?_
    | fail_if_no_progress (with_reducible refine Kept.upd ?_ rfl rfl rfl rfl rfl rfl) | split
    | with_reducible refine Kept.ofFst ?_ (by assumption) | with_reducible refine Kept.ofSnd ?_ (by assumption)
    | (clear_value *; split)

theorem kept_takeCredit {m : CreditMsg} (h0 : Kept kl ko ku s) :
    Kept kl ko ku (takeCredit m s) := by
  unfold takeCredit
  repeat' first
    | with_reducible assumption | with_reducible refine Kept.ite (fun _ => ?_) (fun _ => ?_)
    | (intro x; with_reducible refine Kept.gen (kl := kl) (ko := ko) (ku := ku) (x := x) ?_ ?_; (on_goal 1 => unfold x); (on_goal 2 => (intro _; clear_value x)))
    | (intro x; (have t : Nat := x; clear t); clear_value x) | (intro x) | lift_lets -underBinder
    | fail_if_no_progress (with_reducible refine Kept.upd ?_ rfl rfl rfl rfl rfl rfl) | split
    | with_reducible refine Kept.ofFst ?_ (by assumption) | with_reducible refine Kept.ofSnd ?_ (by assumption)
    | (clear_value *; split)

theorem kept_sendCredit {t : Nat} {m : CreditMsg} (h0 : Kept kl ko ku s) :
    Kept kl ko ku (sendCredit t m s) := by
  unfold sendCredit
  repeat' first
    | with_reducible assumption | with_reducible refine Kept.ite (fun _ => ?_) (fun _ => ?_)
    | (intro x; with_reducible refine Kept.gen (kl := kl) (ko := ko) (ku := ku) (x := x) ?_ ?_; (on_goal 1 => unfold x); (on_goal 2 => (intro _; clear_value x)))
    | (intro x; (have t : Nat := x; clear t); clear_value x) | (intro x) | lift_lets -underBinder
    | with_reducible refine kept_fabInc ?_ | with_reducible refine kept_setGroup ?_
    | with_reducible refine kept_takeCredit ?_
    | fail_if_no_progress (with_reducible refine Kept.upd ?_ rfl rfl rfl rfl rfl rfl) | split
    | with_reducible refine Kept.ofFst ?_ (by assumption) | with_reducible refine Kept.ofSnd ?_ (by assumption)
    | (clear_value *; split)

theorem kept_setQue {q : Nat} {k : QueueSt} (h0 : Kept kl ko ku s) :
    Kept kl ko ku (setQue q k s) := by
  unfold setQue
  repeat' first
    | with_reducible assumption | with_reducible refine Kept.ite (fun _ => ?_) (fun _ => ?_)
    | (intro x; with_reducible refine Kept.gen (kl := kl) (ko := ko) (ku := ku) (x := x) ?_ ?_; (on_goal 1 => unfold x); (on_goal 2 => (intro _; clear_value x)))
    | (intro x; (have t : Nat := x; clear t); clear_value x) | (intro x) | lift_lets -underBinder
    | with_reducible refine kept_setFld ?_
    | fail_if_no_progress (with_reducible refine Kept.upd ?_ rfl rfl rfl rfl rfl rfl) | split
    | with_reducible refine Kept.ofFst ?_ (by assumption) | with_reducible refine Kept.ofSnd ?_ (by assumption)
    | (clear_value *; split)

theorem kept_portDepths (h0 : Kept kl ko ku s) :
    Kept kl ko ku (portDepths s) := by
  unfold portDepths
  repeat' first
    | with_reducible assumption | with_reducible refine Kept.ite (fun _ => ?_) (fun _ => ?_)
    | with_reducible refine kept_forEach (fun _ _ _ => ?_) ?_ | with_reducible refine kept_setFld ?_
    | fail_if_no_progress (with_reducible refine Kept.upd ?_ rfl rfl rfl rfl rfl rfl) | split
    | with_reducible refine Kept.ofFst ?_ (by assumption) | with_reducible refine Kept.ofSnd ?_ (by assumption)
    | (clear_value *; split)

theorem kept_onQue {q : Nat} {f : QueueSt → QueueSt} (h0 : Kept kl ko ku s) :
    Kept kl ko ku (onQue q f s) := by
  unfold onQue
  repeat' first
    | with_reducible assumption | with_reducible refine Kept.ite (fun _ => ?_) (fun _ => ?_)
    | with_reducible refine kept_setQue ?_
    | fail_if_no_progress (with_reducible refine Kept.upd ?_ rfl rfl rfl rfl rfl rfl) | split
    | with_reducible refine Kept.ofFst ?_ (by assumption) | with_reducible refine Kept.ofSnd ?_ (by assumption)
    | (clear_value *; split)

theorem kept_countDrop {q : Nat} (h0 : Kept kl ko ku s) :
    Kept kl ko ku (countDrop q s) := by
  unfold countDrop
  repeat' first
    | with_reducible assumption | with_reducible refine Kept.ite (fun _ => ?_) (fun _ => ?_)
    | (intro x; with_reducible refine Kept.gen (kl := kl) (ko := ko) (ku := ku) (x := x) ?_ ?_; (on_goal 1 => unfold x); (on_goal 2 => (intro _; clear_value x)))
    | (intro x; (have t : Nat := x; clear t); clear_value x) | (intro x) | lift_lets -underBinder
    | with_reducible refine kept_onQue ?_
    | fail_if_no_progress (with_reducible refine Kept.upd ?_ rfl rfl rfl rfl rfl rfl) | split
    | with_reducible refine Kept.ofFst ?_ (by assumption) | with_reducible refine Kept.ofSnd ?_ (by assumption)
    | (clear_value *; split)

theorem kept_countMcDrop {q : Nat} (h0 : Kept kl ko ku s) :
    Kept kl ko ku (countMcDrop q s) := by
  unfold countMcDrop
  repeat' first
    | with_reducible assumption | with_reducible refine Kept.ite (fun _ => ?_) (fun _ => ?_)
    | (intro x; with_reducible refine Kept.gen (kl := kl) (ko := ko) (ku := ku) (x := x) ?_ ?_; (on_goal 1 => unfold x); (on_goal 2 => (intro _; clear_value x)))
    | (intro x; (have t : Nat := x; clear t); clear_value x) | (intro x) | lift_lets -underBinder
    | with_reducible refine kept_onQue ?_
    | fail_if_no_progress (with_reducible refine Kept.upd ?_ rfl rfl rfl rfl rfl rfl) | split
    | with_reducible refine Kept.ofFst ?_ (by assumption) | with_reducible refine Kept.ofSnd ?_ (by assumption)
    | (clear_value *; split)

theorem kept_addPfc {k : Option (Nat × Nat)} {add sub : Nat} (h0 : Kept kl ko ku s) :
    Kept kl ko ku (addPfc k add sub s) := by
  unfold addPfc
  repeat' first
    | with_reducible assumption | with_reducible refine Kept.ite (fun _ => ?_) (fun _ => ?_)
    | (intro x; with_reducible refine Kept.gen (kl := kl) (ko := ko) (ku := ku) (x := x) ?_ ?_; (on_goal 1 => unfold x); (on_goal 2 => (intro _; clear_value x)))
    | (intro x; (have t : Nat := x; clear t); clear_value x) | (intro x) | lift_lets -underBinder
    | fail_if_no_progress (with_reducible refine Kept.upd ?_ rfl rfl rfl rfl rfl rfl) | split
    | with_reducible refine Kept.ofFst ?_ (by assumption) | with_reducible refine Kept.ofSnd ?_ (by assumption)
    | (clear_value *; split)

theorem kept_forgetPkt {id : Nat} (h0 : Kept kl ko ku s) :
    Kept kl ko ku (forgetPkt id s) := by
  unfold forgetPkt
  repeat' first
    | with_reducible assumption | with_reducible refine Kept.ite (fun _ => ?_) (fun _ => ?_)
    | (intro x; with_reducible refine Kept.gen (kl := kl) (ko := ko) (ku := ku) (x := x) ?_ ?_; (on_goal 1 => unfold x); (on_goal 2 => (intro _; clear_value x)))
    | (intro x; (have t : Nat := x; clear t); clear_value x) | (intro x) | lift_lets -underBinder
    | with_reducible refine kept_setPkt ?_ | with_reducible refine kept_erasePkt ?_
    | fail_if_no_progress (with_reducible refine Kept.upd ?_ rfl rfl rfl rfl rfl rfl) | split
    | with_reducible refine Kept.ofFst ?_ (by assumption) | with_reducible refine Kept.ofSnd ?_ (by assumption)
    | (clear_value *; split)

theorem kept_dropRef {id : Nat} (h0 : Kept kl ko ku s) :
    Kept kl ko ku (dropRef id s) := by
  unfold dropRef
  repeat' first
    | with_reducible assumption | with_reducible refine Kept.ite (fun _ => ?_) (fun _ => ?_)
    | (intro x; with_reducible refine Kept.gen (kl := kl) (ko := ko) (ku := ku) (x := x) ?_ ?_; (on_goal 1 => unfold x); (on_goal 2 => (intro _; clear_value x)))
    | (intro x; (have t : Nat := x; clear t); clear_value x) | (intro x) | lift_lets -underBinder
    | with_reducible refine kept_setStore ?_ | with_reducible refine kept_bpmRelease ?_
    | with_reducible refine kept_addPfc ?_ | with_reducible refine kept_forgetPkt ?_
    | fail_if_no_progress (with_reducible refine Kept.upd ?_ rfl rfl rfl rfl rfl rfl) | split
    | with_reducible refine Kept.ofFst ?_ (by assumption) | with_reducible refine Kept.ofSnd ?_ (by assumption)
    | (clear_value *; split)

theorem kept_sendRequest {q : Nat} (h0 : Kept kl ko ku s) :
    Kept kl ko ku (sendRequest q s) := by
  unfold sendRequest
  repeat' first
    | with_reducible assumption | with_reducible refine Kept.ite (fun _ => ?_) (fun _ => ?_)
    | (intro x; with_reducible refine Kept.gen (kl := kl) (ko := ko) (ku := ku) (x := x) ?_ ?_; (on_goal 1 => unfold x); (on_goal 2 => (intro _; clear_value x)))
    | (intro x; (have t : Nat := x; clear t); clear_value x) | (intro x) | lift_lets -underBinder
    | with_reducible refine kept_inc ?_ | with_reducible refine kept_sendCredit ?_
    | with_reducible refine kept_onQue ?_
    | fail_if_no_progress (with_reducible refine Kept.upd ?_ rfl rfl rfl rfl rfl rfl) | split
    | with_reducible refine Kept.ofFst ?_ (by assumption) | with_reducible refine Kept.ofSnd ?_ (by assumption)
    | (clear_value *; split)

theorem kept_voqState {q : Nat} (h0 : Kept kl ko ku s) :
    Kept kl ko ku (voqState q s) := by
  unfold voqState
  repeat' first
    | with_reducible assumption | with_reducible refine Kept.ite (fun _ => ?_) (fun _ => ?_)
    | (intro x; with_reducible refine Kept.gen (kl := kl) (ko := ko) (ku := ku) (x := x) ?_ ?_; (on_goal 1 => unfold x); (on_goal 2 => (intro _; clear_value x)))
    | (intro x; (have t : Nat := x; clear t); clear_value x) | (intro x) | lift_lets -underBinder
    | with_reducible refine kept_setQue ?_ | with_reducible refine kept_sendRequest ?_
    | fail_if_no_progress (with_reducible refine Kept.upd ?_ rfl rfl rfl rfl rfl rfl) | split
    | with_reducible refine Kept.ofFst ?_ (by assumption) | with_reducible refine Kept.ofSnd ?_ (by assumption)
    | (clear_value *; split)

theorem kept_setNode {level i : Nat} {k : NodeSt} (h0 : Kept kl ko ku s) :
    Kept kl ko ku (setNode level i k s) := by
  unfold setNode
  repeat' first
    | with_reducible assumption | with_reducible refine Kept.ite (fun _ => ?_) (fun _ => ?_)
    | (intro x; with_reducible refine Kept.gen (kl := kl) (ko := ko) (ku := ku) (x := x) ?_ ?_; (on_goal 1 => unfold x); (on_goal 2 => (intro _; clear_value x)))
    | (intro x; (have t : Nat := x; clear t); clear_value x) | (intro x) | lift_lets -underBinder
    | fail_if_no_progress (with_reducible refine Kept.upd ?_ rfl rfl rfl rfl rfl rfl) | split
    | with_reducible refine Kept.ofFst ?_ (by assumption) | with_reducible refine Kept.ofSnd ?_ (by assumption)
    | (clear_value *; split)

theorem kept_restNodes {q : Nat} (h0 : Kept kl ko ku s) :
    Kept kl ko ku (restNodes q s) := by
  unfold restNodes
  repeat' first
    | with_reducible assumption | with_reducible refine Kept.ite (fun _ => ?_) (fun _ => ?_)
    | with_reducible refine kept_forEach (fun _ _ _ => ?_) ?_ | with_reducible refine kept_setNode ?_
    | fail_if_no_progress (with_reducible refine Kept.upd ?_ rfl rfl rfl rfl rfl rfl) | split
    | with_reducible refine Kept.ofFst ?_ (by assumption) | with_reducible refine Kept.ofSnd ?_ (by assumption)
    | (clear_value *; split)

theorem kept_popEnt {q : Nat} (h0 : Kept kl ko ku s) :
    Kept kl ko ku (popEnt q s) := by
  unfold popEnt
  repeat' first
    | with_reducible assumption | with_reducible refine Kept.ite (fun _ => ?_) (fun _ => ?_)
    | (intro x; with_reducible refine Kept.gen (kl := kl) (ko := ko) (ku := ku) (x := x) ?_ ?_; (on_goal 1 => unfold x); (on_goal 2 => (intro _; clear_value x)))
    | (intro x; (have t : Nat := x; clear t); clear_value x) | (intro x) | lift_lets -underBinder
    | with_reducible refine kept_doIf (fun _ _ => ?_) ?_ | with_reducible refine kept_setQue ?_
    | with_reducible refine kept_voqState ?_ | with_reducible refine kept_restNodes ?_
    | fail_if_no_progress (with_reducible refine Kept.upd ?_ rfl rfl rfl rfl rfl rfl) | split
    | with_reducible refine Kept.ofFst ?_ (by assumption) | with_reducible refine Kept.ofSnd ?_ (by assumption)
    | (clear_value *; split)

theorem kept_discardHead {q : Nat} {ctr : Option Nat} (h0 : Kept kl ko ku s) :
    Kept kl ko ku (discardHead q ctr s) := by
  unfold discardHead
  repeat' first
    | with_reducible assumption | with_reducible refine Kept.ite (fun _ => ?_) (fun _ => ?_)
    | (intro x; with_reducible refine Kept.gen (kl := kl) (ko := ko) (ku := ku) (x := x) ?_ ?_; (on_goal 1 => unfold x); (on_goal 2 => (intro _; clear_value x)))
    | (intro x; (have t : Nat := x; clear t); clear_value x) | (intro x) | lift_lets -underBinder
    | with_reducible refine kept_inc ?_ | with_reducible refine kept_countDrop ?_
    | with_reducible refine kept_dropRef ?_ | with_reducible refine kept_popEnt ?_
    | fail_if_no_progress (with_reducible refine Kept.upd ?_ rfl rfl rfl rfl rfl rfl) | split
    | with_reducible refine Kept.ofFst ?_ (by assumption) | with_reducible refine Kept.ofSnd ?_ (by assumption)
    | (clear_value *; split)

theorem kept_setPolicer {i : Nat} {k : PolicerSt} (h0 : Kept kl ko ku s) :
    Kept kl ko ku (setPolicer i k s) := by
  unfold setPolicer
  repeat' first
    | with_reducible assumption | with_reducible refine Kept.ite (fun _ => ?_) (fun _ => ?_)
    | (intro x; with_reducible refine Kept.gen (kl := kl) (ko := ko) (ku := ku) (x := x) ?_ ?_; (on_goal 1 => unfold x); (on_goal 2 => (intro _; clear_value x)))
    | (intro x; (have t : Nat := x; clear t); clear_value x) | (intro x) | lift_lets -underBinder
    | fail_if_no_progress (with_reducible refine Kept.upd ?_ rfl rfl rfl rfl rfl rfl) | split
    | with_reducible refine Kept.ofFst ?_ (by assumption) | with_reducible refine Kept.ofSnd ?_ (by assumption)
    | (clear_value *; split)

theorem kept_police {md : Bytes} {len : Nat} (h0 : Kept kl ko ku s) :
    Kept kl ko ku (police md len s).1 := by
  unfold police
  repeat' first
    | with_reducible assumption | with_reducible refine Kept.ite (fun _ => ?_) (fun _ => ?_)
    | (intro x; with_reducible refine Kept.gen (kl := kl) (ko := ko) (ku := ku) (x := x) ?_ ?_; (on_goal 1 => unfold x); (on_goal 2 => (intro _; clear_value x)))
    | (intro x; (have t : Nat := x; clear t); clear_value x) | (intro x) | lift_lets -underBinder
    | with_reducible refine kept_inc ?_ | with_reducible refine kept_setPolicer ?_
    | fail_if_no_progress (with_reducible refine Kept.upd ?_ rfl rfl rfl rfl rfl rfl) | split
    | with_reducible refine Kept.ofFst ?_ (by assumption) | with_reducible refine Kept.ofSnd ?_ (by assumption)
    | (clear_value *; split)

theorem kept_ecnMark {q : Nat} {md : Bytes} (h0 : Kept kl ko ku s) :
    Kept kl ko ku (ecnMark q md s).1 := by
  unfold ecnMark
  repeat' first
    | with_reducible assumption | with_reducible refine Kept.ite (fun _ => ?_) (fun _ => ?_)
    | (intro x; with_reducible refine Kept.gen (kl := kl) (ko := ko) (ku := ku) (x := x) ?_ ?_; (on_goal 1 => unfold x); (on_goal 2 => (intro _; clear_value x)))
    | (intro x; (have t : Nat := x; clear t); clear_value x) | (intro x) | lift_lets -underBinder
    | with_reducible refine kept_inc ?_
    | fail_if_no_progress (with_reducible refine Kept.upd ?_ rfl rfl rfl rfl rfl rfl) | split
    | with_reducible refine Kept.ofFst ?_ (by assumption) | with_reducible refine Kept.ofSnd ?_ (by assumption)
    | (clear_value *; split)

theorem kept_admitStep {q len : Nat} {md : Bytes} (h0 : Kept kl ko ku s) :
    Kept kl ko ku (admitStep q len md s).1 := by
  unfold admitStep
  repeat' first
    | with_reducible assumption | with_reducible refine Kept.ite (fun _ => ?_) (fun _ => ?_)
    | (intro x; with_reducible refine Kept.gen (kl := kl) (ko := ko) (ku := ku) (x := x) ?_ ?_; (on_goal 1 => unfold x); (on_goal 2 => (intro _; clear_value x)))
    | (intro x; (have t : Nat := x; clear t); clear_value x) | (intro x) | lift_lets -underBinder
    | with_reducible refine kept_inc ?_ | with_reducible refine kept_ecnMark ?_
    | fail_if_no_progress (with_reducible refine Kept.upd ?_ rfl rfl rfl rfl rfl rfl) | split
    | with_reducible refine Kept.ofFst ?_ (by assumption) | with_reducible refine Kept.ofSnd ?_ (by assumption)
    | (clear_value *; split)

theorem kept_tryQueue {q len : Nat} {md : Bytes} (h0 : Kept kl ko ku s) :
    Kept kl ko ku (tryQueue q len md s).1 := by
  unfold tryQueue
  repeat' first
    | with_reducible assumption | with_reducible refine Kept.ite (fun _ => ?_) (fun _ => ?_)
    | (intro x; with_reducible refine Kept.gen (kl := kl) (ko := ko) (ku := ku) (x := x) ?_ ?_; (on_goal 1 => unfold x); (on_goal 2 => (intro _; clear_value x)))
    | (intro x; (have t : Nat := x; clear t); clear_value x) | (intro x) | lift_lets -underBinder
    | with_reducible refine kept_onQue ?_ | with_reducible refine kept_admitStep ?_
    | fail_if_no_progress (with_reducible refine Kept.upd ?_ rfl rfl rfl rfl rfl rfl) | split
    | with_reducible refine Kept.ofFst ?_ (by assumption) | with_reducible refine Kept.ofSnd ?_ (by assumption)
    | (clear_value *; split)

theorem kept_refusePkt {id : Nat} (h0 : Kept kl ko ku s) :
    Kept kl ko ku (refusePkt id s) := by
  unfold refusePkt
  repeat' first
    | with_reducible assumption | with_reducible refine Kept.ite (fun _ => ?_) (fun _ => ?_)
    | with_reducible refine kept_forgetPkt ?_
    | fail_if_no_progress (with_reducible refine Kept.upd ?_ rfl rfl rfl rfl rfl rfl) | split
    | with_reducible refine Kept.ofFst ?_ (by assumption) | with_reducible refine Kept.ofSnd ?_ (by assumption)
    | (clear_value *; split)

theorem kept_undoDepth {q len : Nat} (h0 : Kept kl ko ku s) :
    Kept kl ko ku (undoDepth q len s) := by
  unfold undoDepth
  repeat' first
    | with_reducible assumption | with_reducible refine Kept.ite (fun _ => ?_) (fun _ => ?_)
    | (intro x; with_reducible refine Kept.gen (kl := kl) (ko := ko) (ku := ku) (x := x) ?_ ?_; (on_goal 1 => unfold x); (on_goal 2 => (intro _; clear_value x)))
    | (intro x; (have t : Nat := x; clear t); clear_value x) | (intro x) | lift_lets -underBinder
    | with_reducible refine kept_onQue ?_
    | fail_if_no_progress (with_reducible refine Kept.upd ?_ rfl rfl rfl rfl rfl rfl) | split
    | with_reducible refine Kept.ofFst ?_ (by assumption) | with_reducible refine Kept.ofSnd ?_ (by assumption)
    | (clear_value *; split)

theorem kept_storePkt {id r pool head len copies : Nat} {p : Packet} {md : Bytes} (h0 : Kept kl ko ku s) :
    Kept kl ko ku (storePkt id r pool head len copies p md s) := by
  unfold storePkt
  repeat' first
    | with_reducible assumption | with_reducible refine Kept.ite (fun _ => ?_) (fun _ => ?_)
    | with_reducible refine kept_setStore ?_ | with_reducible refine kept_addPfc ?_
    | fail_if_no_progress (with_reducible refine Kept.upd ?_ rfl rfl rfl rfl rfl rfl) | split
    | with_reducible refine Kept.ofFst ?_ (by assumption) | with_reducible refine Kept.ofSnd ?_ (by assumption)
    | (clear_value *; split)

theorem kept_pushEnt {q id len pool : Nat} {md : Bytes} (h0 : Kept kl ko ku s) :
    Kept kl ko ku (pushEnt q id len pool md s) := by
  unfold pushEnt
  repeat' first
    | with_reducible assumption | with_reducible refine Kept.ite (fun _ => ?_) (fun _ => ?_)
    | (intro x; with_reducible refine Kept.gen (kl := kl) (ko := ko) (ku := ku) (x := x) ?_ ?_; (on_goal 1 => unfold x); (on_goal 2 => (intro _; clear_value x)))
    | (intro x; (have t : Nat := x; clear t); clear_value x) | (intro x) | lift_lets -underBinder
    | with_reducible refine kept_inc ?_ | with_reducible refine kept_onQue ?_
    | with_reducible refine kept_voqState ?_
    | fail_if_no_progress (with_reducible refine Kept.upd ?_ rfl rfl rfl rfl rfl rfl) | split
    | with_reducible refine Kept.ofFst ?_ (by assumption) | with_reducible refine Kept.ofSnd ?_ (by assumption)
    | (clear_value *; split)

theorem kept_bodyPages {r pool head n got : Nat} (h : Kept kl ko ku s) : Kept kl ko ku (bodyPages r pool head n got s).1 := by
  induction n generalizing got s with
  | zero => exact h
  | succ n ih =>
    have ht := kept_grantPage (r := r) (pool := pool) (head := some head) h
    unfold bodyPages
    split
    · next e => rw [e] at ht; exact ih ht
    · next e => rw [e] at ht; exact ht

theorem kept_takeBody {id : Nat} (h0 : Kept kl ko ku s) :
    Kept kl ko ku (takeBody id s) := by
  unfold takeBody
  repeat' first
    | with_reducible assumption | with_reducible refine Kept.ite (fun _ => ?_) (fun _ => ?_)
    | (intro x; with_reducible refine Kept.gen (kl := kl) (ko := ko) (ku := ku) (x := x) ?_ ?_; (on_goal 1 => unfold x); (on_goal 2 => (intro _; clear_value x)))
    | (intro x; (have t : Nat := x; clear t); clear_value x) | (intro x) | lift_lets -underBinder
    | with_reducible refine kept_doIf (fun _ _ => ?_) ?_ | with_reducible refine kept_setStore ?_
    | with_reducible refine kept_bodyPages ?_
    | fail_if_no_progress (with_reducible refine Kept.upd ?_ rfl rfl rfl rfl rfl rfl) | split
    | with_reducible refine Kept.ofFst ?_ (by assumption) | with_reducible refine Kept.ofSnd ?_ (by assumption)
    | (clear_value *; split)

theorem kept_enqueueOne {mc : Bool} {r id q len : Nat} {p : Packet} {md : Bytes} (h0 : Kept kl ko ku s) :
    Kept kl ko ku (enqueueOne mc r id q len p md s) := by
  unfold enqueueOne
  repeat' first
    | with_reducible assumption | with_reducible refine Kept.ite (fun _ => ?_) (fun _ => ?_)
    | (intro x; with_reducible refine Kept.gen (kl := kl) (ko := ko) (ku := ku) (x := x) ?_ ?_; (on_goal 1 => unfold x); (on_goal 2 => (intro _; clear_value x)))
    | (intro x; (have t : Nat := x; clear t); clear_value x) | (intro x) | lift_lets -underBinder
    | with_reducible refine kept_doIf (fun _ _ => ?_) ?_ | with_reducible refine kept_inc ?_
    | with_reducible refine kept_grantPage ?_ | with_reducible refine kept_countDrop ?_
    | with_reducible refine kept_countMcDrop ?_ | with_reducible refine kept_refusePkt ?_
    | with_reducible refine kept_undoDepth ?_ | with_reducible refine kept_storePkt ?_
    | with_reducible refine kept_pushEnt ?_ | with_reducible refine kept_takeBody ?_
    | fail_if_no_progress (with_reducible refine Kept.upd ?_ rfl rfl rfl rfl rfl rfl) | split
    | with_reducible refine Kept.ofFst ?_ (by assumption) | with_reducible refine Kept.ofSnd ?_ (by assumption)
    | (clear_value *; split)

theorem kept_unicast {r id q len : Nat} {p : Packet} {md : Bytes} (h0 : Kept kl ko ku s) :
    Kept kl ko ku (unicast r id q len p md s) := by
  unfold unicast
  repeat' first
    | with_reducible assumption | with_reducible refine Kept.ite (fun _ => ?_) (fun _ => ?_)
    | (intro x; with_reducible refine Kept.gen (kl := kl) (ko := ko) (ku := ku) (x := x) ?_ ?_; (on_goal 1 => unfold x); (on_goal 2 => (intro _; clear_value x)))
    | (intro x; (have t : Nat := x; clear t); clear_value x) | (intro x) | lift_lets -underBinder
    | with_reducible refine kept_inc ?_ | with_reducible refine kept_countDrop ?_
    | with_reducible refine kept_tryQueue ?_ | with_reducible refine kept_refusePkt ?_
    | with_reducible refine kept_enqueueOne ?_
    | fail_if_no_progress (with_reducible refine Kept.upd ?_ rfl rfl rfl rfl rfl rfl) | split
    | with_reducible refine Kept.ofFst ?_ (by assumption) | with_reducible refine Kept.ofSnd ?_ (by assumption)
    | (clear_value *; split)

theorem kept_judgeCopies {len : Nat} {cs : List (Option (Nat × Bytes))} (h : Kept kl ko ku s) :
    Kept kl ko ku (judgeCopies len cs s).1 := by
  induction cs generalizing s with
  | nil => exact h
  | cons c cs ih =>
    cases c with
    | none => exact ih (kept_inc h)
    | some x =>
      have ht := kept_tryQueue (q := x.1) (len := len) (md := x.2) h
      unfold judgeCopies
      dsimp only
      split
      · next e => rw [e] at ht; exact ih ht
      · next e => rw [e] at ht; exact ih (kept_inc ht)
      · next e => rw [e] at ht; exact ih (kept_countMcDrop ht)

theorem kept_takeRefs {r id head len : Nat} {cs : List (Nat × Bytes)} (h : Kept kl ko ku s) :
    Kept kl ko ku (takeRefs r id head len cs s) := by
  induction cs generalizing s with
  | nil => exact h
  | cons c cs ih =>
    have ht := kept_bpmInc (r := r) (pool := 0) (head := head) h
    unfold takeRefs
    dsimp only
    split
    · next e =>
      rw [e] at ht
      refine ih (kept_pushEnt (kept_inc ?_))
      split
      · exact kept_setStore ht
      · exact ht
    · next e =>
      rw [e] at ht
      exact kept_forEach (fun _ _ hs => kept_countMcDrop (kept_undoDepth hs)) ht

theorem kept_storeCopies {r id len : Nat} {p : Packet} {l : List (Nat × Bytes)} (h0 : Kept kl ko ku s) :
    Kept kl ko ku (storeCopies r id len p l s) := by
  unfold storeCopies
  repeat' first
    | with_reducible assumption | with_reducible refine Kept.ite (fun _ => ?_) (fun _ => ?_)
    | with_reducible refine kept_forEach (fun _ _ _ => ?_) ?_ | with_reducible refine kept_inc ?_
    | with_reducible refine kept_grantPage ?_ | with_reducible refine kept_countMcDrop ?_
    | with_reducible refine kept_refusePkt ?_ | with_reducible refine kept_undoDepth ?_
    | with_reducible refine kept_storePkt ?_ | with_reducible refine kept_pushEnt ?_
    | with_reducible refine kept_takeBody ?_ | with_reducible refine kept_enqueueOne ?_
    | with_reducible refine kept_takeRefs ?_
    | fail_if_no_progress (with_reducible refine Kept.upd ?_ rfl rfl rfl rfl rfl rfl) | split
    | with_reducible refine Kept.ofFst ?_ (by assumption) | with_reducible refine Kept.ofSnd ?_ (by assumption)
    | (clear_value *; split)

theorem kept_multicast {r id len : Nat} {egress : Bool} {p : Packet} {md : Bytes} (h0 : Kept kl ko ku s) :
    Kept kl ko ku (multicast r id len egress p md s) := by
  unfold multicast
  repeat' first
    | with_reducible assumption | with_reducible refine Kept.ite (fun _ => ?_) (fun _ => ?_)
    | (intro x; with_reducible refine Kept.gen (kl := kl) (ko := ko) (ku := ku) (x := x) ?_ ?_; (on_goal 1 => unfold x); (on_goal 2 => (intro _; clear_value x)))
    | (intro x; (have t : Nat := x; clear t); clear_value x) | (intro x) | lift_lets -underBinder
    | with_reducible refine kept_inc ?_ | with_reducible refine kept_refusePkt ?_
    | with_reducible refine kept_judgeCopies ?_ | with_reducible refine kept_storeCopies ?_
    | fail_if_no_progress (with_reducible refine Kept.upd ?_ rfl rfl rfl rfl rfl rfl) | split
    | with_reducible refine Kept.ofFst ?_ (by assumption) | with_reducible refine Kept.ofSnd ?_ (by assumption)
    | (clear_value *; split)

theorem kept_recircEnqueue {r id len : Nat} {p : Packet} {md : Bytes} (h0 : Kept kl ko ku s) :
    Kept kl ko ku (recircEnqueue r id len p md s) := by
  unfold recircEnqueue
  repeat' first
    | with_reducible assumption | with_reducible refine Kept.ite (fun _ => ?_) (fun _ => ?_)
    | (intro x; with_reducible refine Kept.gen (kl := kl) (ko := ko) (ku := ku) (x := x) ?_ ?_; (on_goal 1 => unfold x); (on_goal 2 => (intro _; clear_value x)))
    | (intro x; (have t : Nat := x; clear t); clear_value x) | (intro x) | lift_lets -underBinder
    | with_reducible refine kept_inc ?_ | with_reducible refine kept_grantPage ?_
    | with_reducible refine kept_setStore ?_ | with_reducible refine kept_addPfc ?_
    | with_reducible refine kept_refusePkt ?_ | with_reducible refine kept_takeBody ?_
    | fail_if_no_progress (with_reducible refine Kept.upd ?_ rfl rfl rfl rfl rfl rfl) | split
    | with_reducible refine Kept.ofFst ?_ (by assumption) | with_reducible refine Kept.ofSnd ?_ (by assumption)
    | (clear_value *; split)

theorem kept_policedUnicast {r id q len : Nat} {p : Packet} {md : Bytes} (h0 : Kept kl ko ku s) :
    Kept kl ko ku (policedUnicast r id q len p md s) := by
  unfold policedUnicast
  repeat' first
    | with_reducible assumption | with_reducible refine Kept.ite (fun _ => ?_) (fun _ => ?_)
    | (intro x; with_reducible refine Kept.gen (kl := kl) (ko := ko) (ku := ku) (x := x) ?_ ?_; (on_goal 1 => unfold x); (on_goal 2 => (intro _; clear_value x)))
    | (intro x; (have t : Nat := x; clear t); clear_value x) | (intro x) | lift_lets -underBinder
    | with_reducible refine kept_countDrop ?_ | with_reducible refine kept_police ?_
    | with_reducible refine kept_refusePkt ?_ | with_reducible refine kept_unicast ?_
    | fail_if_no_progress (with_reducible refine Kept.upd ?_ rfl rfl rfl rfl rfl rfl) | split
    | with_reducible refine Kept.ofFst ?_ (by assumption) | with_reducible refine Kept.ofSnd ?_ (by assumption)
    | (clear_value *; split)

theorem kept_handleArrival {r id : Nat} {p : Packet} (h0 : Kept kl ko ku s) :
    Kept kl ko ku (handleArrival r id p s) := by
  unfold handleArrival
  repeat' first
    | with_reducible assumption | with_reducible refine Kept.ite (fun _ => ?_) (fun _ => ?_)
    | (intro x; with_reducible refine Kept.gen (kl := kl) (ko := ko) (ku := ku) (x := x) ?_ ?_; (on_goal 1 => unfold x); (on_goal 2 => (intro _; clear_value x)))
    | (intro x; (have t : Nat := x; clear t); clear_value x) | (intro x) | lift_lets -underBinder
    | with_reducible refine kept_inc ?_ | with_reducible refine kept_police ?_
    | with_reducible refine kept_refusePkt ?_ | with_reducible refine kept_multicast ?_
    | with_reducible refine kept_recircEnqueue ?_ | with_reducible refine kept_policedUnicast ?_
    | fail_if_no_progress (with_reducible refine Kept.upd ?_ rfl rfl rfl rfl rfl rfl) | split
    | with_reducible refine Kept.ofFst ?_ (by assumption) | with_reducible refine Kept.ofSnd ?_ (by assumption)
    | (clear_value *; split)

theorem kept_offBridge {dir id : Nat} (h0 : Kept kl ko ku s) :
    Kept kl ko ku (offBridge dir id s) := by
  unfold offBridge
  repeat' first
    | with_reducible assumption | with_reducible refine Kept.ite (fun _ => ?_) (fun _ => ?_)
    | (intro x; with_reducible refine Kept.gen (kl := kl) (ko := ko) (ku := ku) (x := x) ?_ ?_; (on_goal 1 => unfold x); (on_goal 2 => (intro _; clear_value x)))
    | (intro x; (have t : Nat := x; clear t); clear_value x) | (intro x) | lift_lets -underBinder
    | with_reducible refine kept_takeFlits ?_
    | fail_if_no_progress (with_reducible refine Kept.upd ?_ rfl rfl rfl rfl rfl rfl) | split
    | with_reducible refine Kept.ofFst ?_ (by assumption) | with_reducible refine Kept.ofSnd ?_ (by assumption)
    | (clear_value *; split)

theorem kept_queueArrival {r : Nat} (h0 : Kept kl ko ku s) :
    Kept kl ko ku (queueArrival r s) := by
  unfold queueArrival
  repeat' first
    | with_reducible assumption | with_reducible refine Kept.ite (fun _ => ?_) (fun _ => ?_)
    | (intro x; with_reducible refine Kept.gen (kl := kl) (ko := ko) (ku := ku) (x := x) ?_ ?_; (on_goal 1 => unfold x); (on_goal 2 => (intro _; clear_value x)))
    | (intro x; (have t : Nat := x; clear t); clear_value x) | (intro x) | lift_lets -underBinder
    | with_reducible refine kept_handleArrival ?_ | with_reducible refine kept_offBridge ?_
    | fail_if_no_progress (with_reducible refine Kept.upd ?_ rfl rfl rfl rfl rfl rfl) | split
    | with_reducible refine Kept.ofFst ?_ (by assumption) | with_reducible refine Kept.ofSnd ?_ (by assumption)
    | (clear_value *; split)

theorem kept_correctEnts {id len : Nat} {pool : Nat} (h0 : Kept kl ko ku s) :
    Kept kl ko ku (correctEnts id len pool s) := by
  unfold correctEnts
  repeat' first
    | with_reducible assumption | with_reducible refine Kept.ite (fun _ => ?_) (fun _ => ?_)
    | (intro x; with_reducible refine Kept.gen (kl := kl) (ko := ko) (ku := ku) (x := x) ?_ ?_; (on_goal 1 => unfold x); (on_goal 2 => (intro _; clear_value x)))
    | (intro x; (have t : Nat := x; clear t); clear_value x) | (intro x) | lift_lets -underBinder
    | with_reducible refine kept_forEach (fun _ _ _ => ?_) ?_ | with_reducible refine kept_setQue ?_
    | fail_if_no_progress (with_reducible refine Kept.upd ?_ rfl rfl rfl rfl rfl rfl) | split
    | with_reducible refine Kept.ofFst ?_ (by assumption) | with_reducible refine Kept.ofSnd ?_ (by assumption)
    | (clear_value *; split)

theorem kept_tailToEgress {id : Nat} {bytes : Bytes} {stomp : Bool} (h0 : Kept kl ko ku s) :
    Kept kl ko ku (tailToEgress id bytes stomp s) := by
  unfold tailToEgress
  repeat' first
    | with_reducible assumption | with_reducible refine Kept.ite (fun _ => ?_) (fun _ => ?_)
    | (intro x; with_reducible refine Kept.gen (kl := kl) (ko := ko) (ku := ku) (x := x) ?_ ?_; (on_goal 1 => unfold x); (on_goal 2 => (intro _; clear_value x)))
    | (intro x; (have t : Nat := x; clear t); clear_value x) | (intro x) | lift_lets -underBinder
    | with_reducible refine kept_doIf (fun _ _ => ?_) ?_ | with_reducible refine kept_forEach (fun _ _ _ => ?_) ?_
    | with_reducible refine kept_setPkt ?_ | with_reducible refine kept_bridgeTail ?_
    | with_reducible refine kept_lenLate ?_ | with_reducible refine kept_dropRef ?_
    | fail_if_no_progress (with_reducible refine Kept.upd ?_ rfl rfl rfl rfl rfl rfl) | split
    | with_reducible refine Kept.ofFst ?_ (by assumption) | with_reducible refine Kept.ofSnd ?_ (by assumption)
    | (clear_value *; split)

theorem kept_tailKept {id : Nat} (h0 : Kept kl ko ku s) :
    Kept kl ko ku (tailKept id s) := by
  unfold tailKept
  repeat' first
    | with_reducible assumption | with_reducible refine Kept.ite (fun _ => ?_) (fun _ => ?_)
    | (intro x; with_reducible refine Kept.gen (kl := kl) (ko := ko) (ku := ku) (x := x) ?_ ?_; (on_goal 1 => unfold x); (on_goal 2 => (intro _; clear_value x)))
    | (intro x; (have t : Nat := x; clear t); clear_value x) | (intro x) | lift_lets -underBinder
    | with_reducible refine kept_erasePkt ?_ | with_reducible refine kept_setStore ?_
    | with_reducible refine kept_addPfc ?_ | with_reducible refine kept_offBridge ?_
    | with_reducible refine kept_correctEnts ?_ | with_reducible refine kept_tailToEgress ?_
    | fail_if_no_progress (with_reducible refine Kept.upd ?_ rfl rfl rfl rfl rfl rfl) | split
    | with_reducible refine Kept.ofFst ?_ (by assumption) | with_reducible refine Kept.ofSnd ?_ (by assumption)
    | (clear_value *; split)

theorem kept_tailStored {id : Nat} (h0 : Kept kl ko ku s) :
    Kept kl ko ku (tailStored id s) := by
  unfold tailStored
  repeat' first
    | with_reducible assumption | with_reducible refine Kept.ite (fun _ => ?_) (fun _ => ?_)
    | with_reducible refine kept_takeBody ?_ | with_reducible refine kept_tailKept ?_
    | fail_if_no_progress (with_reducible refine Kept.upd ?_ rfl rfl rfl rfl rfl rfl) | split
    | with_reducible refine Kept.ofFst ?_ (by assumption) | with_reducible refine Kept.ofSnd ?_ (by assumption)
    | (clear_value *; split)

theorem kept_flitAndPages {dir chan seq : Nat} {crcOk : Bool} {flit : Bytes} (h0 : Kept kl ko ku s) :
    Kept kl ko ku (flitAndPages dir chan seq crcOk flit s) := by
  unfold flitAndPages
  repeat' first
    | with_reducible assumption | with_reducible refine Kept.ite (fun _ => ?_) (fun _ => ?_)
    | (intro x; with_reducible refine Kept.gen (kl := kl) (ko := ko) (ku := ku) (x := x) ?_ ?_; (on_goal 1 => unfold x); (on_goal 2 => (intro _; clear_value x)))
    | (intro x; (have t : Nat := x; clear t); clear_value x) | (intro x) | lift_lets -underBinder
    | with_reducible refine kept_forEach (fun _ _ _ => ?_) ?_ | with_reducible refine kept_flitReceive ?_
    | with_reducible refine kept_takeBody ?_
    | fail_if_no_progress (with_reducible refine Kept.upd ?_ rfl rfl rfl rfl rfl rfl) | split
    | with_reducible refine Kept.ofFst ?_ (by assumption) | with_reducible refine Kept.ofSnd ?_ (by assumption)
    | (clear_value *; split)

theorem kept_voqAge {q : Nat} (h0 : Kept kl ko ku s) :
    Kept kl ko ku (voqAge q s) := by
  unfold voqAge
  repeat' first
    | with_reducible assumption | with_reducible refine Kept.ite (fun _ => ?_) (fun _ => ?_)
    | with_reducible refine kept_discardHead ?_
    | fail_if_no_progress (with_reducible refine Kept.upd ?_ rfl rfl rfl rfl rfl rfl) | split
    | with_reducible refine Kept.ofFst ?_ (by assumption) | with_reducible refine Kept.ofSnd ?_ (by assumption)
    | (clear_value *; split)

theorem kept_chargeQue {q len : Nat} (h0 : Kept kl ko ku s) :
    Kept kl ko ku (chargeQue q len s) := by
  unfold chargeQue
  repeat' first
    | with_reducible assumption | with_reducible refine Kept.ite (fun _ => ?_) (fun _ => ?_)
    | (intro x; with_reducible refine Kept.gen (kl := kl) (ko := ko) (ku := ku) (x := x) ?_ ?_; (on_goal 1 => unfold x); (on_goal 2 => (intro _; clear_value x)))
    | (intro x; (have t : Nat := x; clear t); clear_value x) | (intro x) | lift_lets -underBinder
    | with_reducible refine kept_onQue ?_
    | fail_if_no_progress (with_reducible refine Kept.upd ?_ rfl rfl rfl rfl rfl rfl) | split
    | with_reducible refine Kept.ofFst ?_ (by assumption) | with_reducible refine Kept.ofSnd ?_ (by assumption)
    | (clear_value *; split)

theorem kept_startHead {q : Nat} {e : QEnt} (h0 : Kept kl ko ku s) :
    Kept kl ko ku (startHead q e s) := by
  unfold startHead
  repeat' first
    | with_reducible assumption | with_reducible refine Kept.ite (fun _ => ?_) (fun _ => ?_)
    | (intro x; with_reducible refine Kept.gen (kl := kl) (ko := ko) (ku := ku) (x := x) ?_ ?_; (on_goal 1 => unfold x); (on_goal 2 => (intro _; clear_value x)))
    | (intro x; (have t : Nat := x; clear t); clear_value x) | (intro x) | lift_lets -underBinder
    | with_reducible refine kept_fabInc ?_ | with_reducible refine kept_setGroup ?_
    | with_reducible refine kept_onQue ?_ | with_reducible refine kept_dropRef ?_
    | with_reducible refine kept_popEnt ?_ | with_reducible refine kept_chargeQue ?_
    | fail_if_no_progress (with_reducible refine Kept.upd ?_ rfl rfl rfl rfl rfl rfl) | split
    | with_reducible refine Kept.ofFst ?_ (by assumption) | with_reducible refine Kept.ofSnd ?_ (by assumption)
    | (clear_value *; split)

theorem kept_voqStart {q : Nat} (h0 : Kept kl ko ku s) :
    Kept kl ko ku (voqStart q s) := by
  unfold voqStart
  repeat' first
    | with_reducible assumption | with_reducible refine Kept.ite (fun _ => ?_) (fun _ => ?_)
    | (intro x; with_reducible refine Kept.gen (kl := kl) (ko := ko) (ku := ku) (x := x) ?_ ?_; (on_goal 1 => unfold x); (on_goal 2 => (intro _; clear_value x)))
    | (intro x; (have t : Nat := x; clear t); clear_value x) | (intro x) | lift_lets -underBinder
    | with_reducible refine kept_discardHead ?_ | with_reducible refine kept_startHead ?_
    | fail_if_no_progress (with_reducible refine Kept.upd ?_ rfl rfl rfl rfl rfl rfl) | split
    | with_reducible refine Kept.ofFst ?_ (by assumption) | with_reducible refine Kept.ofSnd ?_ (by assumption)
    | (clear_value *; split)

theorem kept_creditRefresh {q : Nat} (h0 : Kept kl ko ku s) :
    Kept kl ko ku (creditRefresh q s) := by
  unfold creditRefresh
  repeat' first
    | with_reducible assumption | with_reducible refine Kept.ite (fun _ => ?_) (fun _ => ?_)
    | (intro x; with_reducible refine Kept.gen (kl := kl) (ko := ko) (ku := ku) (x := x) ?_ ?_; (on_goal 1 => unfold x); (on_goal 2 => (intro _; clear_value x)))
    | (intro x; (have t : Nat := x; clear t); clear_value x) | (intro x) | lift_lets -underBinder
    | with_reducible refine kept_sendRequest ?_
    | fail_if_no_progress (with_reducible refine Kept.upd ?_ rfl rfl rfl rfl rfl rfl) | split
    | with_reducible refine Kept.ofFst ?_ (by assumption) | with_reducible refine Kept.ofSnd ?_ (by assumption)
    | (clear_value *; split)

theorem kept_takeGrant {m : GrantMsg} (h0 : Kept kl ko ku s) :
    Kept kl ko ku (takeGrant m s) := by
  unfold takeGrant
  repeat' first
    | with_reducible assumption | with_reducible refine Kept.ite (fun _ => ?_) (fun _ => ?_)
    | (intro x; with_reducible refine Kept.gen (kl := kl) (ko := ko) (ku := ku) (x := x) ?_ ?_; (on_goal 1 => unfold x); (on_goal 2 => (intro _; clear_value x)))
    | (intro x; (have t : Nat := x; clear t); clear_value x) | (intro x) | lift_lets -underBinder
    | with_reducible refine kept_doIf (fun _ _ => ?_) ?_ | with_reducible refine kept_inc ?_
    | with_reducible refine kept_setQue ?_
    | fail_if_no_progress (with_reducible refine Kept.upd ?_ rfl rfl rfl rfl rfl rfl) | split
    | with_reducible refine Kept.ofFst ?_ (by assumption) | with_reducible refine Kept.ofSnd ?_ (by assumption)
    | (clear_value *; split)

theorem kept_grantReceive (h0 : Kept kl ko ku s) :
    Kept kl ko ku (grantReceive s) := by
  unfold grantReceive
  repeat' first
    | with_reducible assumption | with_reducible refine Kept.ite (fun _ => ?_) (fun _ => ?_)
    | (intro x; with_reducible refine Kept.gen (kl := kl) (ko := ko) (ku := ku) (x := x) ?_ ?_; (on_goal 1 => unfold x); (on_goal 2 => (intro _; clear_value x)))
    | (intro x; (have t : Nat := x; clear t); clear_value x) | (intro x) | lift_lets -underBinder
    | with_reducible refine kept_takeGrant ?_
    | fail_if_no_progress (with_reducible refine Kept.upd ?_ rfl rfl rfl rfl rfl rfl) | split
    | with_reducible refine Kept.ofFst ?_ (by assumption) | with_reducible refine Kept.ofSnd ?_ (by assumption)
    | (clear_value *; split)

theorem kept_takeReq {m : ReqMsg} (h0 : Kept kl ko ku s) :
    Kept kl ko ku (takeReq m s) := by
  unfold takeReq
  repeat' first
    | with_reducible assumption | with_reducible refine Kept.ite (fun _ => ?_) (fun _ => ?_)
    | (intro x; with_reducible refine Kept.gen (kl := kl) (ko := ko) (ku := ku) (x := x) ?_ ?_; (on_goal 1 => unfold x); (on_goal 2 => (intro _; clear_value x)))
    | (intro x; (have t : Nat := x; clear t); clear_value x) | (intro x) | lift_lets -underBinder
    | fail_if_no_progress (with_reducible refine Kept.upd ?_ rfl rfl rfl rfl rfl rfl) | split
    | with_reducible refine Kept.ofFst ?_ (by assumption) | with_reducible refine Kept.ofSnd ?_ (by assumption)
    | (clear_value *; split)

theorem kept_requestReceive (h0 : Kept kl ko ku s) :
    Kept kl ko ku (requestReceive s) := by
  unfold requestReceive
  repeat' first
    | with_reducible assumption | with_reducible refine Kept.ite (fun _ => ?_) (fun _ => ?_)
    | (intro x; with_reducible refine Kept.gen (kl := kl) (ko := ko) (ku := ku) (x := x) ?_ ?_; (on_goal 1 => unfold x); (on_goal 2 => (intro _; clear_value x)))
    | (intro x; (have t : Nat := x; clear t); clear_value x) | (intro x) | lift_lets -underBinder
    | with_reducible refine kept_takeReq ?_
    | fail_if_no_progress (with_reducible refine Kept.upd ?_ rfl rfl rfl rfl rfl rfl) | split
    | with_reducible refine Kept.ofFst ?_ (by assumption) | with_reducible refine Kept.ofSnd ?_ (by assumption)
    | (clear_value *; split)

theorem kept_requestExpire {port tc dev : Nat} (h0 : Kept kl ko ku s) :
    Kept kl ko ku (requestExpire port tc dev s) := by
  unfold requestExpire
  repeat' first
    | with_reducible assumption | with_reducible refine Kept.ite (fun _ => ?_) (fun _ => ?_)
    | (intro x; with_reducible refine Kept.gen (kl := kl) (ko := ko) (ku := ku) (x := x) ?_ ?_; (on_goal 1 => unfold x); (on_goal 2 => (intro _; clear_value x)))
    | (intro x; (have t : Nat := x; clear t); clear_value x) | (intro x) | lift_lets -underBinder
    | fail_if_no_progress (with_reducible refine Kept.upd ?_ rfl rfl rfl rfl rfl rfl) | split
    | with_reducible refine Kept.ofFst ?_ (by assumption) | with_reducible refine Kept.ofSnd ?_ (by assumption)
    | (clear_value *; split)

theorem kept_grantIssue {port : Nat} (h0 : Kept kl ko ku s) :
    Kept kl ko ku (grantIssue port s) := by
  unfold grantIssue
  repeat' first
    | with_reducible assumption | with_reducible refine Kept.ite (fun _ => ?_) (fun _ => ?_)
    | (intro x; with_reducible refine Kept.gen (kl := kl) (ko := ko) (ku := ku) (x := x) ?_ ?_; (on_goal 1 => unfold x); (on_goal 2 => (intro _; clear_value x)))
    | (intro x; (have t : Nat := x; clear t); clear_value x) | (intro x) | lift_lets -underBinder
    | with_reducible refine kept_inc ?_ | with_reducible refine kept_sendCredit ?_
    | fail_if_no_progress (with_reducible refine Kept.upd ?_ rfl rfl rfl rfl rfl rfl) | split
    | with_reducible refine Kept.ofFst ?_ (by assumption) | with_reducible refine Kept.ofSnd ?_ (by assumption)
    | (clear_value *; split)

theorem kept_drrStore {level parentLevel parent : Nat} {r : Cand × List (Nat × Int)} (h0 : Kept kl ko ku s) :
    Kept kl ko ku (drrStore level parentLevel parent r s) := by
  unfold drrStore
  repeat' first
    | with_reducible assumption | with_reducible refine Kept.ite (fun _ => ?_) (fun _ => ?_)
    | (intro x; with_reducible refine Kept.gen (kl := kl) (ko := ko) (ku := ku) (x := x) ?_ ?_; (on_goal 1 => unfold x); (on_goal 2 => (intro _; clear_value x)))
    | (intro x; (have t : Nat := x; clear t); clear_value x) | (intro x) | lift_lets -underBinder
    | with_reducible refine kept_forEach (fun _ _ _ => ?_) ?_ | with_reducible refine kept_onQue ?_
    | with_reducible refine kept_setNode ?_
    | fail_if_no_progress (with_reducible refine Kept.upd ?_ rfl rfl rfl rfl rfl rfl) | split
    | with_reducible refine Kept.ofFst ?_ (by assumption) | with_reducible refine Kept.ofSnd ?_ (by assumption)
    | (clear_value *; split)

theorem kept_chargeNode {level i len : Nat} (h0 : Kept kl ko ku s) :
    Kept kl ko ku (chargeNode level i len s) := by
  unfold chargeNode
  repeat' first
    | with_reducible assumption | with_reducible refine Kept.ite (fun _ => ?_) (fun _ => ?_)
    | (intro x; with_reducible refine Kept.gen (kl := kl) (ko := ko) (ku := ku) (x := x) ?_ ?_; (on_goal 1 => unfold x); (on_goal 2 => (intro _; clear_value x)))
    | (intro x; (have t : Nat := x; clear t); clear_value x) | (intro x) | lift_lets -underBinder
    | with_reducible refine kept_setNode ?_
    | fail_if_no_progress (with_reducible refine Kept.upd ?_ rfl rfl rfl rfl rfl rfl) | split
    | with_reducible refine Kept.ofFst ?_ (by assumption) | with_reducible refine Kept.ofSnd ?_ (by assumption)
    | (clear_value *; split)

theorem kept_chargePath {port q len : Nat} (h0 : Kept kl ko ku s) :
    Kept kl ko ku (chargePath port q len s) := by
  unfold chargePath
  exact kept_chargeNode (kept_chargeNode (kept_chargeNode (kept_chargeQue h0)))

theorem kept_serveLevel {level parentLevel parent : Nat} {kids : List Cand} (h0 : Kept kl ko ku s) :
    Kept kl ko ku (serveLevel level parentLevel parent kids s).1 := by
  unfold serveLevel
  repeat' first
    | with_reducible assumption | with_reducible refine Kept.ite (fun _ => ?_) (fun _ => ?_)
    | (intro x; with_reducible refine Kept.gen (kl := kl) (ko := ko) (ku := ku) (x := x) ?_ ?_; (on_goal 1 => unfold x); (on_goal 2 => (intro _; clear_value x)))
    | (intro x; (have t : Nat := x; clear t); clear_value x) | (intro x) | lift_lets -underBinder
    | with_reducible refine kept_drrStore ?_
    | fail_if_no_progress (with_reducible refine Kept.upd ?_ rfl rfl rfl rfl rfl rfl) | split
    | with_reducible refine Kept.ofFst ?_ (by assumption) | with_reducible refine Kept.ofSnd ?_ (by assumption)
    | (clear_value *; split)

theorem kept_pickQueue {port : Nat} (h0 : Kept kl ko ku s) :
    Kept kl ko ku (pickQueue port s).1 := by
  unfold pickQueue
  dsimp only
  repeat' first
    | with_reducible assumption | with_reducible refine Kept.ite (fun _ => ?_) (fun _ => ?_)
    | with_reducible refine kept_serveLevel ?_
    | fail_if_no_progress (with_reducible refine Kept.upd ?_ rfl rfl rfl rfl rfl rfl) | split
    | with_reducible refine Kept.ofFst ?_ (by assumption) | with_reducible refine Kept.ofSnd ?_ (by assumption)
    | (clear_value *; split)

theorem kept_portBusy {port len : Nat} (h0 : Kept kl ko ku s) :
    Kept kl ko ku (portBusy port len s) := by
  unfold portBusy
  repeat' first
    | with_reducible assumption | with_reducible refine Kept.ite (fun _ => ?_) (fun _ => ?_)
    | (intro x; with_reducible refine Kept.gen (kl := kl) (ko := ko) (ku := ku) (x := x) ?_ ?_; (on_goal 1 => unfold x); (on_goal 2 => (intro _; clear_value x)))
    | (intro x; (have t : Nat := x; clear t); clear_value x) | (intro x) | lift_lets -underBinder
    | with_reducible refine kept_setNode ?_
    | fail_if_no_progress (with_reducible refine Kept.upd ?_ rfl rfl rfl rfl rfl rfl) | split
    | with_reducible refine Kept.ofFst ?_ (by assumption) | with_reducible refine Kept.ofSnd ?_ (by assumption)
    | (clear_value *; split)

theorem kept_startEgress {port q : Nat} {e : QEnt} {st : Stored} (h0 : Kept kl ko ku s) :
    Kept kl ko ku (startEgress port q e st s) := by
  unfold startEgress
  repeat' first
    | with_reducible assumption | with_reducible refine Kept.ite (fun _ => ?_) (fun _ => ?_)
    | (intro x; with_reducible refine Kept.gen (kl := kl) (ko := ko) (ku := ku) (x := x) ?_ ?_; (on_goal 1 => unfold x); (on_goal 2 => (intro _; clear_value x)))
    | (intro x; (have t : Nat := x; clear t); clear_value x) | (intro x) | lift_lets -underBinder
    | with_reducible refine kept_newPkt ?_ | with_reducible refine kept_bridgeRouted ?_
    | with_reducible refine kept_dropRef ?_ | with_reducible refine kept_popEnt ?_
    | with_reducible refine kept_chargePath ?_ | with_reducible refine kept_portBusy ?_
    | fail_if_no_progress (with_reducible refine Kept.upd ?_ rfl rfl rfl rfl rfl rfl) | split
    | with_reducible refine Kept.ofFst ?_ (by assumption) | with_reducible refine Kept.ofSnd ?_ (by assumption)
    | (clear_value *; split)

theorem kept_serveEgress {port q : Nat} (h0 : Kept kl ko ku s) :
    Kept kl ko ku (serveEgress port q s) := by
  unfold serveEgress
  repeat' first
    | with_reducible assumption | with_reducible refine Kept.ite (fun _ => ?_) (fun _ => ?_)
    | (intro x; with_reducible refine Kept.gen (kl := kl) (ko := ko) (ku := ku) (x := x) ?_ ?_; (on_goal 1 => unfold x); (on_goal 2 => (intro _; clear_value x)))
    | (intro x; (have t : Nat := x; clear t); clear_value x) | (intro x) | lift_lets -underBinder
    | with_reducible refine kept_discardHead ?_ | with_reducible refine kept_startEgress ?_
    | fail_if_no_progress (with_reducible refine Kept.upd ?_ rfl rfl rfl rfl rfl rfl) | split
    | with_reducible refine Kept.ofFst ?_ (by assumption) | with_reducible refine Kept.ofSnd ?_ (by assumption)
    | (clear_value *; split)

theorem kept_egressDequeue {port : Nat} (h0 : Kept kl ko ku s) :
    Kept kl ko ku (egressDequeue port s) := by
  unfold egressDequeue
  repeat' first
    | with_reducible assumption | with_reducible refine Kept.ite (fun _ => ?_) (fun _ => ?_)
    | (intro x; with_reducible refine Kept.gen (kl := kl) (ko := ko) (ku := ku) (x := x) ?_ ?_; (on_goal 1 => unfold x); (on_goal 2 => (intro _; clear_value x)))
    | (intro x; (have t : Nat := x; clear t); clear_value x) | (intro x) | lift_lets -underBinder
    | with_reducible refine kept_discardHead ?_ | with_reducible refine kept_pickQueue ?_
    | with_reducible refine kept_serveEgress ?_
    | fail_if_no_progress (with_reducible refine Kept.upd ?_ rfl rfl rfl rfl rfl rfl) | split
    | with_reducible refine Kept.ofFst ?_ (by assumption) | with_reducible refine Kept.ofSnd ?_ (by assumption)
    | (clear_value *; split)

theorem kept_underrun {port : Nat} (h0 : Kept kl ko ku s) :
    Kept kl ko ku (underrun port s) := by
  unfold underrun
  repeat' first
    | with_reducible assumption | with_reducible refine Kept.ite (fun _ => ?_) (fun _ => ?_)
    | (intro x; with_reducible refine Kept.gen (kl := kl) (ko := ko) (ku := ku) (x := x) ?_ ?_; (on_goal 1 => unfold x); (on_goal 2 => (intro _; clear_value x)))
    | (intro x; (have t : Nat := x; clear t); clear_value x) | (intro x) | lift_lets -underBinder
    | with_reducible refine kept_inc ?_ | with_reducible refine kept_setPkt ?_
    | with_reducible refine kept_bridgeTail ?_ | with_reducible refine kept_dropRef ?_
    | fail_if_no_progress (with_reducible refine Kept.upd ?_ rfl rfl rfl rfl rfl rfl) | split
    | with_reducible refine Kept.ofFst ?_ (by assumption) | with_reducible refine Kept.ofSnd ?_ (by assumption)
    | (clear_value *; split)

theorem kept_egressEntry {port : Nat} (h0 : Kept kl ko ku s) :
    Kept kl ko ku (egressEntry port s) := by
  unfold egressEntry
  repeat' first
    | with_reducible assumption | with_reducible refine Kept.ite (fun _ => ?_) (fun _ => ?_)
    | (intro x; with_reducible refine Kept.gen (kl := kl) (ko := ko) (ku := ku) (x := x) ?_ ?_; (on_goal 1 => unfold x); (on_goal 2 => (intro _; clear_value x)))
    | (intro x; (have t : Nat := x; clear t); clear_value x) | (intro x) | lift_lets -underBinder
    | with_reducible refine kept_inc ?_ | with_reducible refine kept_notePass ?_ | with_reducible refine kept_setPkt ?_
    | with_reducible refine kept_erasePkt ?_ | with_reducible refine kept_takeFlits ?_
    | with_reducible refine kept_countDrop ?_
    | fail_if_no_progress (with_reducible refine Kept.upd ?_ rfl rfl rfl rfl rfl rfl) | split
    | with_reducible refine Kept.ofFst ?_ (by assumption) | with_reducible refine Kept.ofSnd ?_ (by assumption)
    | (clear_value *; split)

theorem kept_recircReturn (h0 : Kept kl ko ku s) :
    Kept kl ko ku (recircReturn s) := by
  unfold recircReturn
  dsimp only
  repeat' first
    | with_reducible assumption | with_reducible refine Kept.ite (fun _ => ?_) (fun _ => ?_)
    | with_reducible refine kept_inc ?_ | with_reducible refine kept_admitTo ?_ | with_reducible refine kept_dropRef ?_
    | fail_if_no_progress (with_reducible refine Kept.upd ?_ rfl rfl rfl rfl rfl rfl) | split
    | with_reducible refine Kept.ofFst ?_ (by assumption) | with_reducible refine Kept.ofSnd ?_ (by assumption)
    | (clear_value *; split)

theorem kept_flushSome {q n : Nat} (h0 : Kept kl ko ku s) :
    Kept kl ko ku (flushSome q n s) := by
  unfold flushSome
  repeat' first
    | with_reducible assumption | with_reducible refine Kept.ite (fun _ => ?_) (fun _ => ?_)
    | with_reducible refine kept_forEach (fun _ _ _ => ?_) ?_ | with_reducible refine kept_discardHead ?_
    | fail_if_no_progress (with_reducible refine Kept.upd ?_ rfl rfl rfl rfl rfl rfl) | split
    | with_reducible refine Kept.ofFst ?_ (by assumption) | with_reducible refine Kept.ofSnd ?_ (by assumption)
    | (clear_value *; split)

theorem kept_flushQue {q : Nat} (h0 : Kept kl ko ku s) :
    Kept kl ko ku (flushQue q s) := by
  unfold flushQue
  repeat' first
    | with_reducible assumption | with_reducible refine Kept.ite (fun _ => ?_) (fun _ => ?_)
    | with_reducible refine kept_flushSome ?_
    | fail_if_no_progress (with_reducible refine Kept.upd ?_ rfl rfl rfl rfl rfl rfl) | split
    | with_reducible refine Kept.ofFst ?_ (by assumption) | with_reducible refine Kept.ofSnd ?_ (by assumption)
    | (clear_value *; split)

theorem kept_loseHead {q : Nat} (h0 : Kept kl ko ku s) :
    Kept kl ko ku (loseHead q s) := by
  unfold loseHead
  repeat' first
    | with_reducible assumption | with_reducible refine Kept.ite (fun _ => ?_) (fun _ => ?_)
    | (intro x; with_reducible refine Kept.gen (kl := kl) (ko := ko) (ku := ku) (x := x) ?_ ?_; (on_goal 1 => unfold x); (on_goal 2 => (intro _; clear_value x)))
    | (intro x; (have t : Nat := x; clear t); clear_value x) | (intro x) | lift_lets -underBinder
    | with_reducible refine kept_bpmRefresh ?_ | with_reducible refine kept_dropUsed ?_
    | with_reducible refine kept_losePages ?_ | with_reducible refine kept_walkOn ?_
    | with_reducible refine kept_addPfc ?_ | with_reducible refine kept_forgetPkt ?_
    | with_reducible refine kept_dropRef ?_ | with_reducible refine kept_popEnt ?_
    | fail_if_no_progress (with_reducible refine Kept.upd ?_ rfl rfl rfl rfl rfl rfl) | split
    | with_reducible refine Kept.ofFst ?_ (by assumption) | with_reducible refine Kept.ofSnd ?_ (by assumption)
    | (clear_value *; split)

theorem kept_queueBroken {q : Nat} (h0 : Kept kl ko ku s) :
    Kept kl ko ku (queueBroken q s) := by
  unfold queueBroken
  repeat' first
    | with_reducible assumption | with_reducible refine Kept.ite (fun _ => ?_) (fun _ => ?_)
    | (intro x; with_reducible refine Kept.gen (kl := kl) (ko := ko) (ku := ku) (x := x) ?_ ?_; (on_goal 1 => unfold x); (on_goal 2 => (intro _; clear_value x)))
    | (intro x; (have t : Nat := x; clear t); clear_value x) | (intro x) | lift_lets -underBinder
    | with_reducible refine kept_forEach (fun _ _ _ => ?_) ?_ | with_reducible refine kept_flushSome ?_
    | with_reducible refine kept_loseHead ?_
    | fail_if_no_progress (with_reducible refine Kept.upd ?_ rfl rfl rfl rfl rfl rfl) | split
    | with_reducible refine Kept.ofFst ?_ (by assumption) | with_reducible refine Kept.ofSnd ?_ (by assumption)
    | (clear_value *; split)

theorem kept_setObjBad {obj i : Nat} {b : Bool} (h0 : Kept kl ko ku s) :
    Kept kl ko ku (setObjBad obj i b s) := by
  unfold setObjBad
  repeat' first
    | with_reducible assumption | with_reducible refine Kept.ite (fun _ => ?_) (fun _ => ?_)
    | (intro x; with_reducible refine Kept.gen (kl := kl) (ko := ko) (ku := ku) (x := x) ?_ ?_; (on_goal 1 => unfold x); (on_goal 2 => (intro _; clear_value x)))
    | (intro x; (have t : Nat := x; clear t); clear_value x) | (intro x) | lift_lets -underBinder
    | with_reducible refine kept_onQue ?_ | with_reducible refine kept_setPolicer ?_
    | with_reducible refine kept_setNode ?_
    | fail_if_no_progress (with_reducible refine Kept.upd ?_ rfl rfl rfl rfl rfl rfl) | split
    | with_reducible refine Kept.ofFst ?_ (by assumption) | with_reducible refine Kept.ofSnd ?_ (by assumption)
    | (clear_value *; split)

theorem kept_qCountBad {q i : Nat} (h0 : Kept kl ko ku s) :
    Kept kl ko ku (qCountBad q i s) := by
  unfold qCountBad
  repeat' first
    | with_reducible assumption | with_reducible refine Kept.ite (fun _ => ?_) (fun _ => ?_)
    | with_reducible refine kept_inc ?_ | with_reducible refine kept_report ?_ | with_reducible refine kept_onQue ?_
    | fail_if_no_progress (with_reducible refine Kept.upd ?_ rfl rfl rfl rfl rfl rfl) | split
    | with_reducible refine Kept.ofFst ?_ (by assumption) | with_reducible refine Kept.ofSnd ?_ (by assumption)
    | (clear_value *; split)

theorem kept_qEccBad {obj i : Nat} (h0 : Kept kl ko ku s) :
    Kept kl ko ku (qEccBad obj i s) := by
  unfold qEccBad
  repeat' first
    | with_reducible assumption | with_reducible refine Kept.ite (fun _ => ?_) (fun _ => ?_)
    | (intro x; with_reducible refine Kept.gen (kl := kl) (ko := ko) (ku := ku) (x := x) ?_ ?_; (on_goal 1 => unfold x); (on_goal 2 => (intro _; clear_value x)))
    | (intro x; (have t : Nat := x; clear t); clear_value x) | (intro x) | lift_lets -underBinder
    | with_reducible refine kept_doIf (fun _ _ => ?_) ?_ | with_reducible refine kept_inc ?_
    | with_reducible refine kept_report ?_ | with_reducible refine kept_queueBroken ?_
    | with_reducible refine kept_setObjBad ?_ | with_reducible refine kept_qCountBad ?_
    | fail_if_no_progress (with_reducible refine Kept.upd ?_ rfl rfl rfl rfl rfl rfl) | split
    | with_reducible refine Kept.ofFst ?_ (by assumption) | with_reducible refine Kept.ofSnd ?_ (by assumption)
    | (clear_value *; split)

theorem kept_qEccFix {obj i : Nat} (h0 : Kept kl ko ku s) :
    Kept kl ko ku (qEccFix obj i s) := by
  unfold qEccFix
  repeat' first
    | with_reducible assumption | with_reducible refine Kept.ite (fun _ => ?_) (fun _ => ?_)
    | with_reducible refine kept_inc ?_ | with_reducible refine kept_report ?_
    | fail_if_no_progress (with_reducible refine Kept.upd ?_ rfl rfl rfl rfl rfl rfl) | split
    | with_reducible refine Kept.ofFst ?_ (by assumption) | with_reducible refine Kept.ofSnd ?_ (by assumption)
    | (clear_value *; split)

theorem kept_qMemBad {m : QMem} (h0 : Kept kl ko ku s) :
    Kept kl ko ku (qMemBad m s) := by
  unfold qMemBad
  repeat' first
    | with_reducible assumption | with_reducible refine Kept.ite (fun _ => ?_) (fun _ => ?_)
    | with_reducible apply kept_wr | with_reducible refine kept_inc ?_ | with_reducible refine kept_report ?_
    | with_reducible refine kept_qCountBad ?_ | with_reducible refine kept_qEccBad ?_
    | fail_if_no_progress (with_reducible refine Kept.upd ?_ rfl rfl rfl rfl rfl rfl) | split
    | with_reducible refine Kept.ofFst ?_ (by assumption) | with_reducible refine Kept.ofSnd ?_ (by assumption)
    | (clear_value *; split)

theorem kept_qEccFound {m : QMem} {ecc : Ecc} (h0 : Kept kl ko ku s) :
    Kept kl ko ku (qEccFound m ecc s) := by
  unfold qEccFound
  repeat' first
    | with_reducible assumption | with_reducible refine Kept.ite (fun _ => ?_) (fun _ => ?_)
    | with_reducible refine kept_qEccFix ?_ | with_reducible refine kept_qMemBad ?_
    | fail_if_no_progress (with_reducible refine Kept.upd ?_ rfl rfl rfl rfl rfl rfl) | split
    | with_reducible refine Kept.ofFst ?_ (by assumption) | with_reducible refine Kept.ofSnd ?_ (by assumption)
    | (clear_value *; split)

theorem kept_qStore {obj i : Nat} {b : Bytes} (h0 : Kept kl ko ku s) :
    Kept kl ko ku (qStore obj i b s) := by
  unfold qStore
  repeat' first
    | with_reducible assumption | with_reducible refine Kept.ite (fun _ => ?_) (fun _ => ?_)
    | (intro x; with_reducible refine Kept.gen (kl := kl) (ko := ko) (ku := ku) (x := x) ?_ ?_; (on_goal 1 => unfold x); (on_goal 2 => (intro _; clear_value x)))
    | (intro x; (have t : Nat := x; clear t); clear_value x) | (intro x) | lift_lets -underBinder
    | with_reducible refine kept_onQue ?_ | with_reducible refine kept_setNode ?_
    | with_reducible refine kept_setPolicer ?_ | with_reducible refine kept_setObjBad ?_
    | fail_if_no_progress (with_reducible refine Kept.upd ?_ rfl rfl rfl rfl rfl rfl) | split
    | with_reducible refine Kept.ofFst ?_ (by assumption) | with_reducible refine Kept.ofSnd ?_ (by assumption)
    | (clear_value *; split)

theorem kept_qWriteDo {fn : Fn} {p obj i : Nat} (h0 : Kept kl ko ku s) :
    Kept kl ko ku (qWriteDo fn p obj i s) := by
  unfold qWriteDo
  repeat' first
    | with_reducible assumption | with_reducible refine Kept.ite (fun _ => ?_) (fun _ => ?_)
    | (intro x; with_reducible refine Kept.gen (kl := kl) (ko := ko) (ku := ku) (x := x) ?_ ?_; (on_goal 1 => unfold x); (on_goal 2 => (intro _; clear_value x)))
    | (intro x; (have t : Nat := x; clear t); clear_value x) | (intro x) | lift_lets -underBinder
    | with_reducible refine kept_quiesceLog ?_ | with_reducible refine kept_complete ?_
    | with_reducible refine kept_qStore ?_
    | fail_if_no_progress (with_reducible refine Kept.upd ?_ rfl rfl rfl rfl rfl rfl) | split
    | with_reducible refine Kept.ofFst ?_ (by assumption) | with_reducible refine Kept.ofSnd ?_ (by assumption)
    | (clear_value *; split)

theorem kept_qReadDo {p obj i : Nat} {ecc : Ecc} (h0 : Kept kl ko ku s) :
    Kept kl ko ku (qReadDo p obj i ecc s) := by
  unfold qReadDo
  repeat' first
    | with_reducible assumption | with_reducible refine Kept.ite (fun _ => ?_) (fun _ => ?_)
    | (intro x; with_reducible refine Kept.gen (kl := kl) (ko := ko) (ku := ku) (x := x) ?_ ?_; (on_goal 1 => unfold x); (on_goal 2 => (intro _; clear_value x)))
    | (intro x; (have t : Nat := x; clear t); clear_value x) | (intro x) | lift_lets -underBinder
    | with_reducible refine kept_doIf (fun _ _ => ?_) ?_ | with_reducible refine kept_complete ?_
    | with_reducible refine kept_setData ?_ | with_reducible refine kept_qEccBad ?_
    | with_reducible refine kept_qEccFix ?_
    | fail_if_no_progress (with_reducible refine Kept.upd ?_ rfl rfl rfl rfl rfl rfl) | split
    | with_reducible refine Kept.ofFst ?_ (by assumption) | with_reducible refine Kept.ofSnd ?_ (by assumption)
    | (clear_value *; split)

theorem kept_qCommitDo {p obj c : Nat} (h0 : Kept kl ko ku s) :
    Kept kl ko ku (qCommitDo p obj c s) := by
  unfold qCommitDo
  dsimp only
  repeat' first
    | with_reducible assumption | with_reducible refine Kept.ite (fun _ => ?_) (fun _ => ?_)
    | with_reducible refine kept_complete ?_ | with_reducible refine kept_setObjBad ?_
    | fail_if_no_progress (with_reducible refine Kept.upd ?_ rfl rfl rfl rfl rfl rfl) | split
    | with_reducible refine Kept.ofFst ?_ (by assumption) | with_reducible refine Kept.ofSnd ?_ (by assumption)
    | (clear_value *; split)

theorem kept_qFlushDo {p i : Nat} (h0 : Kept kl ko ku s) :
    Kept kl ko ku (qFlushDo p i s) := by
  unfold qFlushDo
  repeat' first
    | with_reducible assumption | with_reducible refine Kept.ite (fun _ => ?_) (fun _ => ?_)
    | (intro x; with_reducible refine Kept.gen (kl := kl) (ko := ko) (ku := ku) (x := x) ?_ ?_; (on_goal 1 => unfold x); (on_goal 2 => (intro _; clear_value x)))
    | (intro x; (have t : Nat := x; clear t); clear_value x) | (intro x) | lift_lets -underBinder
    | with_reducible refine kept_complete ?_
    | fail_if_no_progress (with_reducible refine Kept.upd ?_ rfl rfl rfl rfl rfl rfl) | split
    | with_reducible refine Kept.ofFst ?_ (by assumption) | with_reducible refine Kept.ofSnd ?_ (by assumption)
    | (clear_value *; split)

theorem kept_flushDone {p : Nat} (h0 : Kept kl ko ku s) :
    Kept kl ko ku (flushDone p s) := by
  unfold flushDone
  repeat' first
    | with_reducible assumption | with_reducible refine Kept.ite (fun _ => ?_) (fun _ => ?_)
    | (intro x; with_reducible refine Kept.gen (kl := kl) (ko := ko) (ku := ku) (x := x) ?_ ?_; (on_goal 1 => unfold x); (on_goal 2 => (intro _; clear_value x)))
    | (intro x; (have t : Nat := x; clear t); clear_value x) | (intro x) | lift_lets -underBinder
    | with_reducible refine kept_complete ?_ | with_reducible refine kept_flushQue ?_
    | fail_if_no_progress (with_reducible refine Kept.upd ?_ rfl rfl rfl rfl rfl rfl) | split
    | with_reducible refine Kept.ofFst ?_ (by assumption) | with_reducible refine Kept.ofSnd ?_ (by assumption)
    | (clear_value *; split)

theorem kept_flushTimeout {p : Nat} (h0 : Kept kl ko ku s) :
    Kept kl ko ku (flushTimeout p s) := by
  unfold flushTimeout
  repeat' first
    | with_reducible assumption | with_reducible refine Kept.ite (fun _ => ?_) (fun _ => ?_)
    | (intro x; with_reducible refine Kept.gen (kl := kl) (ko := ko) (ku := ku) (x := x) ?_ ?_; (on_goal 1 => unfold x); (on_goal 2 => (intro _; clear_value x)))
    | (intro x; (have t : Nat := x; clear t); clear_value x) | (intro x) | lift_lets -underBinder
    | with_reducible refine kept_complete ?_ | with_reducible refine kept_flushSome ?_
    | fail_if_no_progress (with_reducible refine Kept.upd ?_ rfl rfl rfl rfl rfl rfl) | split
    | with_reducible refine Kept.ofFst ?_ (by assumption) | with_reducible refine Kept.ofSnd ?_ (by assumption)
    | (clear_value *; split)

theorem kept_qPerform {fn : Fn} {p op obj i : Nat} {ecc : Ecc} (h0 : Kept kl ko ku s) :
    Kept kl ko ku (qPerform fn p op obj i ecc s) := by
  unfold qPerform
  repeat' first
    | with_reducible assumption | with_reducible refine Kept.ite (fun _ => ?_) (fun _ => ?_)
    | (intro x; with_reducible refine Kept.gen (kl := kl) (ko := ko) (ku := ku) (x := x) ?_ ?_; (on_goal 1 => unfold x); (on_goal 2 => (intro _; clear_value x)))
    | (intro x; (have t : Nat := x; clear t); clear_value x) | (intro x) | lift_lets -underBinder
    | with_reducible refine kept_qWriteDo ?_ | with_reducible refine kept_qReadDo ?_
    | with_reducible refine kept_qCommitDo ?_ | with_reducible refine kept_qFlushDo ?_
    | fail_if_no_progress (with_reducible refine Kept.upd ?_ rfl rfl rfl rfl rfl rfl) | split
    | with_reducible refine Kept.ofFst ?_ (by assumption) | with_reducible refine Kept.ofSnd ?_ (by assumption)
    | (clear_value *; split)

theorem kept_qAct {fn : Fn} {p op obj i : Nat} {ecc : Ecc} (h0 : Kept kl ko ku s) :
    Kept kl ko ku (qAct fn p op obj i ecc s) := by
  unfold qAct
  repeat' first
    | with_reducible assumption | with_reducible refine Kept.ite (fun _ => ?_) (fun _ => ?_)
    | with_reducible refine kept_runChecks (fun _ _ => ?_) ?_ | with_reducible refine kept_qPerform ?_
    | fail_if_no_progress (with_reducible refine Kept.upd ?_ rfl rfl rfl rfl rfl rfl) | split
    | with_reducible refine Kept.ofFst ?_ (by assumption) | with_reducible refine Kept.ofSnd ?_ (by assumption)
    | (clear_value *; split)

theorem kept_qCommand {fn : Fn} {p : Nat} {w : Word} {ecc : Ecc} (h0 : Kept kl ko ku s) :
    Kept kl ko ku (qCommand fn p w ecc s) := by
  unfold qCommand
  repeat' first
    | with_reducible assumption | with_reducible refine Kept.ite (fun _ => ?_) (fun _ => ?_)
    | (intro x; with_reducible refine Kept.gen (kl := kl) (ko := ko) (ku := ku) (x := x) ?_ ?_; (on_goal 1 => unfold x); (on_goal 2 => (intro _; clear_value x)))
    | (intro x; (have t : Nat := x; clear t); clear_value x) | (intro x) | lift_lets -underBinder
    | with_reducible refine kept_orHold (fun _ _ => ?_) ?_ | with_reducible refine kept_issue (fun _ _ => ?_) ?_
    | with_reducible refine kept_qAct ?_
    | fail_if_no_progress (with_reducible refine Kept.upd ?_ rfl rfl rfl rfl rfl rfl) | split
    | with_reducible refine Kept.ofFst ?_ (by assumption) | with_reducible refine Kept.ofSnd ?_ (by assumption)
    | (clear_value *; split)

theorem kept_qIssue {fn : Fn} {op obj : Nat} {ecc : Ecc} (h0 : Kept kl ko ku s) :
    Kept kl ko ku (qIssue fn op obj ecc s) := by
  unfold qIssue
  repeat' first
    | with_reducible assumption | with_reducible refine Kept.ite (fun _ => ?_) (fun _ => ?_)
    | with_reducible refine kept_access (fun _ _ _ _ _ => ?_) ?_ | with_reducible refine kept_qCommand ?_
    | fail_if_no_progress (with_reducible refine Kept.upd ?_ rfl rfl rfl rfl rfl rfl) | split
    | with_reducible refine Kept.ofFst ?_ (by assumption) | with_reducible refine Kept.ofSnd ?_ (by assumption)
    | (clear_value *; split)

theorem kept_clearAuto (h0 : Kept kl ko ku s) :
    Kept kl ko ku (clearAuto s) := by
  unfold clearAuto
  repeat' first
    | with_reducible assumption | with_reducible refine Kept.ite (fun _ => ?_) (fun _ => ?_)
    | with_reducible refine kept_setFld ?_ | with_reducible refine kept_fbRefresh ?_
    | fail_if_no_progress (with_reducible refine Kept.upd ?_ rfl rfl rfl rfl rfl rfl) | split
    | with_reducible refine Kept.ofFst ?_ (by assumption) | with_reducible refine Kept.ofSnd ?_ (by assumption)
    | (clear_value *; split)

end Sys2Proof.Machine
end

