-- ==== Sys2Proof/Laws/KeptFabric.lean ====
section
/-! SUPPORT. Every operation of the modules named below keeps what Kept says:
Calendar, Fabric. -/

namespace Sys2Proof.Machine

set_option linter.unreachableTactic false
set_option linter.unusedTactic false
set_option linter.unusedVariables false

variable {kl : List Instr} {ko : List OwnerCfg} {ku : List Out} {s : State}

theorem kept_setCalImg {b : Nat} {i : Bytes} (h0 : Kept kl ko ku s) :
    Kept kl ko ku (setCalImg b i s) := by
  unfold setCalImg
  repeat' first
    | with_reducible assumption | with_reducible refine Kept.ite (fun _ => ?_) (fun _ => ?_)
    | (intro x; with_reducible refine Kept.gen (kl := kl) (ko := ko) (ku := ku) (x := x) ?_ ?_; (on_goal 1 => unfold x); (on_goal 2 => (intro _; clear_value x)))
    | (intro x; (have t : Nat := x; clear t); clear_value x) | (intro x) | lift_lets -underBinder
    | fail_if_no_progress (with_reducible refine Kept.upd ?_ rfl rfl rfl rfl rfl rfl) | split
    | with_reducible refine Kept.ofFst ?_ (by assumption) | with_reducible refine Kept.ofSnd ?_ (by assumption)
    | (clear_value *; split)

theorem kept_calShow {b flows epoch : Nat} (h0 : Kept kl ko ku s) :
    Kept kl ko ku (calShow b flows epoch s) := by
  unfold calShow
  repeat' first
    | with_reducible assumption | with_reducible refine Kept.ite (fun _ => ?_) (fun _ => ?_)
    | with_reducible refine kept_setFld ?_
    | fail_if_no_progress (with_reducible refine Kept.upd ?_ rfl rfl rfl rfl rfl rfl) | split
    | with_reducible refine Kept.ofFst ?_ (by assumption) | with_reducible refine Kept.ofSnd ?_ (by assumption)
    | (clear_value *; split)

theorem kept_calTo {b st : Nat} (h0 : Kept kl ko ku s) :
    Kept kl ko ku (calTo b st s) := by
  unfold calTo
  repeat' first
    | with_reducible assumption | with_reducible refine Kept.ite (fun _ => ?_) (fun _ => ?_)
    | (intro x; with_reducible refine Kept.gen (kl := kl) (ko := ko) (ku := ku) (x := x) ?_ ?_; (on_goal 1 => unfold x); (on_goal 2 => (intro _; clear_value x)))
    | (intro x; (have t : Nat := x; clear t); clear_value x) | (intro x) | lift_lets -underBinder
    | with_reducible refine kept_doIf (fun _ _ => ?_) ?_ | with_reducible refine kept_setFld ?_
    | with_reducible refine kept_setCalImg ?_ | with_reducible refine kept_calShow ?_
    | fail_if_no_progress (with_reducible refine Kept.upd ?_ rfl rfl rfl rfl rfl rfl) | split
    | with_reducible refine Kept.ofFst ?_ (by assumption) | with_reducible refine Kept.ofSnd ?_ (by assumption)
    | (clear_value *; split)

theorem kept_tsiRefresh (h0 : Kept kl ko ku s) :
    Kept kl ko ku (tsiRefresh s) := by
  unfold tsiRefresh
  repeat' first
    | with_reducible assumption | with_reducible refine Kept.ite (fun _ => ?_) (fun _ => ?_)
    | (intro x; with_reducible refine Kept.gen (kl := kl) (ko := ko) (ku := ku) (x := x) ?_ ?_; (on_goal 1 => unfold x); (on_goal 2 => (intro _; clear_value x)))
    | (intro x; (have t : Nat := x; clear t); clear_value x) | (intro x) | lift_lets -underBinder
    | with_reducible refine kept_setFld ?_
    | fail_if_no_progress (with_reducible refine Kept.upd ?_ rfl rfl rfl rfl rfl rfl) | split
    | with_reducible refine Kept.ofFst ?_ (by assumption) | with_reducible refine Kept.ofSnd ?_ (by assumption)
    | (clear_value *; split)

theorem kept_calReserve (h0 : Kept kl ko ku s) :
    Kept kl ko ku (calReserve s) := by
  unfold calReserve
  dsimp only
  repeat' first
    | with_reducible assumption | with_reducible refine Kept.ite (fun _ => ?_) (fun _ => ?_)
    | with_reducible refine kept_bpmRefresh ?_
    | fail_if_no_progress (with_reducible refine Kept.upd ?_ rfl rfl rfl rfl rfl rfl) | split
    | with_reducible refine Kept.ofFst ?_ (by assumption) | with_reducible refine Kept.ofSnd ?_ (by assumption)
    | (clear_value *; split)

theorem kept_disarm {b : Nat} (h0 : Kept kl ko ku s) :
    Kept kl ko ku (disarm b s) := by
  unfold disarm
  repeat' first
    | with_reducible assumption | with_reducible refine Kept.ite (fun _ => ?_) (fun _ => ?_)
    | (intro x; with_reducible refine Kept.gen (kl := kl) (ko := ko) (ku := ku) (x := x) ?_ ?_; (on_goal 1 => unfold x); (on_goal 2 => (intro _; clear_value x)))
    | (intro x; (have t : Nat := x; clear t); clear_value x) | (intro x) | lift_lets -underBinder
    | with_reducible refine kept_tsiRefresh ?_
    | fail_if_no_progress (with_reducible refine Kept.upd ?_ rfl rfl rfl rfl rfl rfl) | split
    | with_reducible refine Kept.ofFst ?_ (by assumption) | with_reducible refine Kept.ofSnd ?_ (by assumption)
    | (clear_value *; split)

theorem kept_calAlarm (h0 : Kept kl ko ku s) :
    Kept kl ko ku (calAlarm s) := by
  unfold calAlarm
  repeat' first
    | with_reducible assumption | with_reducible refine Kept.ite (fun _ => ?_) (fun _ => ?_)
    | with_reducible refine kept_doIf (fun _ _ => ?_) ?_ | with_reducible refine kept_raiseBlock ?_
    | fail_if_no_progress (with_reducible refine Kept.upd ?_ rfl rfl rfl rfl rfl rfl) | split
    | with_reducible refine Kept.ofFst ?_ (by assumption) | with_reducible refine Kept.ofSnd ?_ (by assumption)
    | (clear_value *; split)

theorem kept_voteHalt (h0 : Kept kl ko ku s) :
    Kept kl ko ku (voteHalt s) := by
  unfold voteHalt
  repeat' first
    | with_reducible assumption | with_reducible refine Kept.ite (fun _ => ?_) (fun _ => ?_)
    | with_reducible refine kept_setFld ?_ | with_reducible refine kept_report ?_
    | with_reducible refine kept_calAlarm ?_
    | fail_if_no_progress (with_reducible refine Kept.upd ?_ rfl rfl rfl rfl rfl rfl) | split
    | with_reducible refine Kept.ofFst ?_ (by assumption) | with_reducible refine Kept.ofSnd ?_ (by assumption)
    | (clear_value *; split)

theorem kept_outvote {c : Nat} (h0 : Kept kl ko ku s) :
    Kept kl ko ku (outvote c s) := by
  unfold outvote
  repeat' first
    | with_reducible assumption | with_reducible refine Kept.ite (fun _ => ?_) (fun _ => ?_)
    | (intro x; with_reducible refine Kept.gen (kl := kl) (ko := ko) (ku := ku) (x := x) ?_ ?_; (on_goal 1 => unfold x); (on_goal 2 => (intro _; clear_value x)))
    | (intro x; (have t : Nat := x; clear t); clear_value x) | (intro x) | lift_lets -underBinder
    | with_reducible refine kept_setFld ?_ | with_reducible refine kept_inc ?_
    | with_reducible refine kept_report ?_ | with_reducible refine kept_voteHalt ?_
    | fail_if_no_progress (with_reducible refine Kept.upd ?_ rfl rfl rfl rfl rfl rfl) | split
    | with_reducible refine Kept.ofFst ?_ (by assumption) | with_reducible refine Kept.ofSnd ?_ (by assumption)
    | (clear_value *; split)

theorem kept_voteWord {v : Vote} (h0 : Kept kl ko ku s) :
    Kept kl ko ku (voteWord v s) := by
  unfold voteWord
  repeat' first
    | with_reducible assumption | with_reducible refine Kept.ite (fun _ => ?_) (fun _ => ?_)
    | (intro x; with_reducible refine Kept.gen (kl := kl) (ko := ko) (ku := ku) (x := x) ?_ ?_; (on_goal 1 => unfold x); (on_goal 2 => (intro _; clear_value x)))
    | (intro x; (have t : Nat := x; clear t); clear_value x) | (intro x) | lift_lets -underBinder
    | with_reducible refine kept_voteHalt ?_ | with_reducible refine kept_outvote ?_
    | fail_if_no_progress (with_reducible refine Kept.upd ?_ rfl rfl rfl rfl rfl rfl) | split
    | with_reducible refine Kept.ofFst ?_ (by assumption) | with_reducible refine Kept.ofSnd ?_ (by assumption)
    | (clear_value *; split)

theorem kept_calFail {b : Nat} {f : Fail} (h0 : Kept kl ko ku s) :
    Kept kl ko ku (calFail b f s) := by
  unfold calFail
  repeat' first
    | with_reducible assumption | with_reducible refine Kept.ite (fun _ => ?_) (fun _ => ?_)
    | (intro x; with_reducible refine Kept.gen (kl := kl) (ko := ko) (ku := ku) (x := x) ?_ ?_; (on_goal 1 => unfold x); (on_goal 2 => (intro _; clear_value x)))
    | (intro x; (have t : Nat := x; clear t); clear_value x) | (intro x) | lift_lets -underBinder
    | with_reducible refine kept_complete ?_ | with_reducible refine kept_calTo ?_
    | fail_if_no_progress (with_reducible refine Kept.upd ?_ rfl rfl rfl rfl rfl rfl) | split
    | with_reducible refine Kept.ofFst ?_ (by assumption) | with_reducible refine Kept.ofSnd ?_ (by assumption)
    | (clear_value *; split)

theorem kept_schedLoad {b : Nat} (h0 : Kept kl ko ku s) :
    Kept kl ko ku (schedLoad b s) := by
  unfold schedLoad
  repeat' first
    | with_reducible assumption | with_reducible refine Kept.ite (fun _ => ?_) (fun _ => ?_)
    | (intro x; with_reducible refine Kept.gen (kl := kl) (ko := ko) (ku := ku) (x := x) ?_ ?_; (on_goal 1 => unfold x); (on_goal 2 => (intro _; clear_value x)))
    | (intro x; (have t : Nat := x; clear t); clear_value x) | (intro x) | lift_lets -underBinder
    | with_reducible refine kept_calTo ?_ | with_reducible refine kept_calFail ?_
    | fail_if_no_progress (with_reducible refine Kept.upd ?_ rfl rfl rfl rfl rfl rfl) | split
    | with_reducible refine Kept.ofFst ?_ (by assumption) | with_reducible refine Kept.ofSnd ?_ (by assumption)
    | (clear_value *; split)

theorem kept_schedSwapAt {b m : Nat} (h0 : Kept kl ko ku s) :
    Kept kl ko ku (schedSwapAt b m s) := by
  unfold schedSwapAt
  repeat' first
    | with_reducible assumption | with_reducible refine Kept.ite (fun _ => ?_) (fun _ => ?_)
    | (intro x; with_reducible refine Kept.gen (kl := kl) (ko := ko) (ku := ku) (x := x) ?_ ?_; (on_goal 1 => unfold x); (on_goal 2 => (intro _; clear_value x)))
    | (intro x; (have t : Nat := x; clear t); clear_value x) | (intro x) | lift_lets -underBinder
    | with_reducible refine kept_complete ?_
    | fail_if_no_progress (with_reducible refine Kept.upd ?_ rfl rfl rfl rfl rfl rfl) | split
    | with_reducible refine Kept.ofFst ?_ (by assumption) | with_reducible refine Kept.ofSnd ?_ (by assumption)
    | (clear_value *; split)

theorem kept_schedSwap {b : Nat} (h0 : Kept kl ko ku s) :
    Kept kl ko ku (schedSwap b s) := by
  unfold schedSwap
  repeat' first
    | with_reducible assumption | with_reducible refine Kept.ite (fun _ => ?_) (fun _ => ?_)
    | with_reducible refine kept_schedSwapAt ?_
    | fail_if_no_progress (with_reducible refine Kept.upd ?_ rfl rfl rfl rfl rfl rfl) | split
    | with_reducible refine Kept.ofFst ?_ (by assumption) | with_reducible refine Kept.ofSnd ?_ (by assumption)
    | (clear_value *; split)

theorem kept_schedAbort {b : Nat} (h0 : Kept kl ko ku s) :
    Kept kl ko ku (schedAbort b s) := by
  unfold schedAbort
  repeat' first
    | with_reducible assumption | with_reducible refine Kept.ite (fun _ => ?_) (fun _ => ?_)
    | (intro x; with_reducible refine Kept.gen (kl := kl) (ko := ko) (ku := ku) (x := x) ?_ ?_; (on_goal 1 => unfold x); (on_goal 2 => (intro _; clear_value x)))
    | (intro x; (have t : Nat := x; clear t); clear_value x) | (intro x) | lift_lets -underBinder
    | with_reducible refine kept_complete ?_ | with_reducible refine kept_calTo ?_
    | with_reducible refine kept_disarm ?_
    | fail_if_no_progress (with_reducible refine Kept.upd ?_ rfl rfl rfl rfl rfl rfl) | split
    | with_reducible refine Kept.ofFst ?_ (by assumption) | with_reducible refine Kept.ofSnd ?_ (by assumption)
    | (clear_value *; split)

theorem kept_schedRestart {v : Vote} (h0 : Kept kl ko ku s) :
    Kept kl ko ku (schedRestart v s) := by
  unfold schedRestart
  repeat' first
    | with_reducible assumption | with_reducible refine Kept.ite (fun _ => ?_) (fun _ => ?_)
    | with_reducible refine kept_complete ?_ | with_reducible refine kept_voteWord ?_
    | fail_if_no_progress (with_reducible refine Kept.upd ?_ rfl rfl rfl rfl rfl rfl) | split
    | with_reducible refine Kept.ofFst ?_ (by assumption) | with_reducible refine Kept.ofSnd ?_ (by assumption)
    | (clear_value *; split)

theorem kept_schedPerform {op b gen : Nat} {v : Vote} (h0 : Kept kl ko ku s) :
    Kept kl ko ku (schedPerform op b gen v s) := by
  unfold schedPerform
  repeat' first
    | with_reducible assumption | with_reducible refine Kept.ite (fun _ => ?_) (fun _ => ?_)
    | with_reducible refine kept_complete ?_ | with_reducible refine kept_schedLoad ?_
    | with_reducible refine kept_schedSwap ?_ | with_reducible refine kept_schedAbort ?_
    | with_reducible refine kept_schedRestart ?_
    | fail_if_no_progress (with_reducible refine Kept.upd ?_ rfl rfl rfl rfl rfl rfl) | split
    | with_reducible refine Kept.ofFst ?_ (by assumption) | with_reducible refine Kept.ofSnd ?_ (by assumption)
    | (clear_value *; split)

theorem kept_schedCommand {fn : Fn} {p : Nat} {w : Word} {v : Vote} (h0 : Kept kl ko ku s) :
    Kept kl ko ku (schedCommand fn p w v s) := by
  unfold schedCommand
  repeat' first
    | with_reducible assumption | with_reducible refine Kept.ite (fun _ => ?_) (fun _ => ?_)
    | (intro x; with_reducible refine Kept.gen (kl := kl) (ko := ko) (ku := ku) (x := x) ?_ ?_; (on_goal 1 => unfold x); (on_goal 2 => (intro _; clear_value x)))
    | (intro x; (have t : Nat := x; clear t); clear_value x) | (intro x) | lift_lets -underBinder
    | with_reducible refine kept_denied ?_ | with_reducible refine kept_accept ?_
    | with_reducible refine kept_orHold (fun _ _ => ?_) ?_ | with_reducible refine kept_issue (fun _ _ => ?_) ?_
    | with_reducible refine kept_schedAbort ?_ | with_reducible refine kept_schedPerform ?_
    | fail_if_no_progress (with_reducible refine Kept.upd ?_ rfl rfl rfl rfl rfl rfl) | split
    | with_reducible refine Kept.ofFst ?_ (by assumption) | with_reducible refine Kept.ofSnd ?_ (by assumption)
    | (clear_value *; split)

theorem kept_schedIssue {fn : Fn} {op b gen : Nat} {v : Vote} (h0 : Kept kl ko ku s) :
    Kept kl ko ku (schedIssue fn op b gen v s) := by
  unfold schedIssue
  repeat' first
    | with_reducible assumption | with_reducible refine Kept.ite (fun _ => ?_) (fun _ => ?_)
    | with_reducible refine kept_access (fun _ _ _ _ _ => ?_) ?_ | with_reducible refine kept_schedCommand ?_
    | fail_if_no_progress (with_reducible refine Kept.upd ?_ rfl rfl rfl rfl rfl rfl) | split
    | with_reducible refine Kept.ofFst ?_ (by assumption) | with_reducible refine Kept.ofSnd ?_ (by assumption)
    | (clear_value *; split)

theorem kept_schedData {d : Dma} {storeOk : Bool} (h0 : Kept kl ko ku s) :
    Kept kl ko ku (schedData d storeOk s) := by
  unfold schedData
  repeat' first
    | with_reducible assumption | with_reducible refine Kept.ite (fun _ => ?_) (fun _ => ?_)
    | (intro x; with_reducible refine Kept.gen (kl := kl) (ko := ko) (ku := ku) (x := x) ?_ ?_; (on_goal 1 => unfold x); (on_goal 2 => (intro _; clear_value x)))
    | (intro x; (have t : Nat := x; clear t); clear_value x) | (intro x) | lift_lets -underBinder
    | with_reducible refine kept_setCalImg ?_ | with_reducible refine kept_calTo ?_
    | with_reducible refine kept_calFail ?_
    | fail_if_no_progress (with_reducible refine Kept.upd ?_ rfl rfl rfl rfl rfl rfl) | split
    | with_reducible refine Kept.ofFst ?_ (by assumption) | with_reducible refine Kept.ofSnd ?_ (by assumption)
    | (clear_value *; split)

theorem kept_schedVerify (h0 : Kept kl ko ku s) :
    Kept kl ko ku (schedVerify s) := by
  unfold schedVerify
  repeat' first
    | with_reducible assumption | with_reducible refine Kept.ite (fun _ => ?_) (fun _ => ?_)
    | (intro x; with_reducible refine Kept.gen (kl := kl) (ko := ko) (ku := ku) (x := x) ?_ ?_; (on_goal 1 => unfold x); (on_goal 2 => (intro _; clear_value x)))
    | (intro x; (have t : Nat := x; clear t); clear_value x) | (intro x) | lift_lets -underBinder
    | with_reducible refine kept_complete ?_ | with_reducible refine kept_calShow ?_
    | with_reducible refine kept_calTo ?_ | with_reducible refine kept_calFail ?_
    | fail_if_no_progress (with_reducible refine Kept.upd ?_ rfl rfl rfl rfl rfl rfl) | split
    | with_reducible refine Kept.ofFst ?_ (by assumption) | with_reducible refine Kept.ofSnd ?_ (by assumption)
    | (clear_value *; split)

theorem kept_schedArm (h0 : Kept kl ko ku s) :
    Kept kl ko ku (schedArm s) := by
  unfold schedArm
  repeat' first
    | with_reducible assumption | with_reducible refine Kept.ite (fun _ => ?_) (fun _ => ?_)
    | (intro x; with_reducible refine Kept.gen (kl := kl) (ko := ko) (ku := ku) (x := x) ?_ ?_; (on_goal 1 => unfold x); (on_goal 2 => (intro _; clear_value x)))
    | (intro x; (have t : Nat := x; clear t); clear_value x) | (intro x) | lift_lets -underBinder
    | with_reducible refine kept_complete ?_ | with_reducible refine kept_calTo ?_
    | with_reducible refine kept_tsiRefresh ?_
    | fail_if_no_progress (with_reducible refine Kept.upd ?_ rfl rfl rfl rfl rfl rfl) | split
    | with_reducible refine Kept.ofFst ?_ (by assumption) | with_reducible refine Kept.ofSnd ?_ (by assumption)
    | (clear_value *; split)

theorem kept_disarmedEvent {b m : Nat} (h0 : Kept kl ko ku s) :
    Kept kl ko ku (disarmedEvent b m s) := by
  unfold disarmedEvent
  repeat' first
    | with_reducible assumption | with_reducible refine Kept.ite (fun _ => ?_) (fun _ => ?_)
    | with_reducible refine kept_setFld ?_ | with_reducible refine kept_report ?_
    | with_reducible refine kept_disarm ?_ | with_reducible refine kept_calAlarm ?_
    | fail_if_no_progress (with_reducible refine Kept.upd ?_ rfl rfl rfl rfl rfl rfl) | split
    | with_reducible refine Kept.ofFst ?_ (by assumption) | with_reducible refine Kept.ofSnd ?_ (by assumption)
    | (clear_value *; split)

theorem kept_calEcc {b : Nat} (h0 : Kept kl ko ku s) :
    Kept kl ko ku (calEcc b s) := by
  unfold calEcc
  repeat' first
    | with_reducible assumption | with_reducible refine Kept.ite (fun _ => ?_) (fun _ => ?_)
    | (intro x; with_reducible refine Kept.gen (kl := kl) (ko := ko) (ku := ku) (x := x) ?_ ?_; (on_goal 1 => unfold x); (on_goal 2 => (intro _; clear_value x)))
    | (intro x; (have t : Nat := x; clear t); clear_value x) | (intro x) | lift_lets -underBinder
    | with_reducible refine kept_complete ?_ | with_reducible refine kept_calTo ?_
    | with_reducible refine kept_calFail ?_ | with_reducible refine kept_disarmedEvent ?_
    | fail_if_no_progress (with_reducible refine Kept.upd ?_ rfl rfl rfl rfl rfl rfl) | split
    | with_reducible refine Kept.ofFst ?_ (by assumption) | with_reducible refine Kept.ofSnd ?_ (by assumption)
    | (clear_value *; split)

theorem kept_setTxFrame {key : Nat} {f : TxFrame} (h0 : Kept kl ko ku s) :
    Kept kl ko ku (setTxFrame key f s) := by
  unfold setTxFrame
  repeat' first
    | with_reducible assumption | with_reducible refine Kept.ite (fun _ => ?_) (fun _ => ?_)
    | (intro x; with_reducible refine Kept.gen (kl := kl) (ko := ko) (ku := ku) (x := x) ?_ ?_; (on_goal 1 => unfold x); (on_goal 2 => (intro _; clear_value x)))
    | (intro x; (have t : Nat := x; clear t); clear_value x) | (intro x) | lift_lets -underBinder
    | fail_if_no_progress (with_reducible refine Kept.upd ?_ rfl rfl rfl rfl rfl rfl) | split
    | with_reducible refine Kept.ofFst ?_ (by assumption) | with_reducible refine Kept.ofSnd ?_ (by assumption)
    | (clear_value *; split)

theorem kept_setPoolPage {p : Nat} {b : Bytes} (h0 : Kept kl ko ku s) :
    Kept kl ko ku (setPoolPage p b s) := by
  unfold setPoolPage
  repeat' first
    | with_reducible assumption | with_reducible refine Kept.ite (fun _ => ?_) (fun _ => ?_)
    | fail_if_no_progress (with_reducible refine Kept.upd ?_ rfl rfl rfl rfl rfl rfl) | split
    | with_reducible refine Kept.ofFst ?_ (by assumption) | with_reducible refine Kept.ofSnd ?_ (by assumption)
    | (clear_value *; split)

theorem kept_poolWrite {a : Nat} {b : Bytes} (h0 : Kept kl ko ku s) :
    Kept kl ko ku (poolWrite a b s) := by
  unfold poolWrite
  repeat' first
    | with_reducible assumption | with_reducible refine Kept.ite (fun _ => ?_) (fun _ => ?_)
    | (intro x; with_reducible refine Kept.gen (kl := kl) (ko := ko) (ku := ku) (x := x) ?_ ?_; (on_goal 1 => unfold x); (on_goal 2 => (intro _; clear_value x)))
    | (intro x; (have t : Nat := x; clear t); clear_value x) | (intro x) | lift_lets -underBinder
    | with_reducible refine kept_forEach (fun _ _ _ => ?_) ?_ | with_reducible refine kept_setPoolPage ?_
    | fail_if_no_progress (with_reducible refine Kept.upd ?_ rfl rfl rfl rfl rfl rfl) | split
    | with_reducible refine Kept.ofFst ?_ (by assumption) | with_reducible refine Kept.ofSnd ?_ (by assumption)
    | (clear_value *; split)

theorem kept_storeTx {key : Nat} {f : TxFrame} {b : Bytes} (h0 : Kept kl ko ku s) :
    Kept kl ko ku (storeTx key f b s) := by
  unfold storeTx
  repeat' first
    | with_reducible assumption | with_reducible refine Kept.ite (fun _ => ?_) (fun _ => ?_)
    | with_reducible refine kept_bridgeSched ?_ | with_reducible refine kept_setTxFrame ?_
    | with_reducible refine kept_poolWrite ?_
    | fail_if_no_progress (with_reducible refine Kept.upd ?_ rfl rfl rfl rfl rfl rfl) | split
    | with_reducible refine Kept.ofFst ?_ (by assumption) | with_reducible refine Kept.ofSnd ?_ (by assumption)
    | (clear_value *; split)

theorem kept_setCur {port : Nat} {c : RxCur} (h0 : Kept kl ko ku s) :
    Kept kl ko ku (setCur port c s) := by
  unfold setCur
  repeat' first
    | with_reducible assumption | with_reducible refine Kept.ite (fun _ => ?_) (fun _ => ?_)
    | fail_if_no_progress (with_reducible refine Kept.upd ?_ rfl rfl rfl rfl rfl rfl) | split
    | with_reducible refine Kept.ofFst ?_ (by assumption) | with_reducible refine Kept.ofSnd ?_ (by assumption)
    | (clear_value *; split)

theorem kept_discardRx {port len : Nat} (h0 : Kept kl ko ku s) :
    Kept kl ko ku (discardRx port len s) := by
  unfold discardRx
  repeat' first
    | with_reducible assumption | with_reducible refine Kept.ite (fun _ => ?_) (fun _ => ?_)
    | with_reducible refine kept_setCur ?_
    | fail_if_no_progress (with_reducible refine Kept.upd ?_ rfl rfl rfl rfl rfl rfl) | split
    | with_reducible refine Kept.ofFst ?_ (by assumption) | with_reducible refine Kept.ofSnd ?_ (by assumption)
    | (clear_value *; split)

theorem kept_awaitSegment {port len : Nat} {bad : Bool} (h0 : Kept kl ko ku s) :
    Kept kl ko ku (awaitSegment port len bad s) := by
  unfold awaitSegment
  repeat' first
    | with_reducible assumption | with_reducible refine Kept.ite (fun _ => ?_) (fun _ => ?_)
    | with_reducible refine kept_setCur ?_
    | fail_if_no_progress (with_reducible refine Kept.upd ?_ rfl rfl rfl rfl rfl rfl) | split
    | with_reducible refine Kept.ofFst ?_ (by assumption) | with_reducible refine Kept.ofSnd ?_ (by assumption)
    | (clear_value *; split)

theorem kept_nonConforming {port len : Nat} {bad : Bool} {e : Bytes} {flow : Nat} (h0 : Kept kl ko ku s) :
    Kept kl ko ku (nonConforming port len bad e flow s) := by
  unfold nonConforming
  repeat' first
    | with_reducible assumption | with_reducible refine Kept.ite (fun _ => ?_) (fun _ => ?_)
    | (intro x; with_reducible refine Kept.gen (kl := kl) (ko := ko) (ku := ku) (x := x) ?_ ?_; (on_goal 1 => unfold x); (on_goal 2 => (intro _; clear_value x)))
    | (intro x; (have t : Nat := x; clear t); clear_value x) | (intro x) | lift_lets -underBinder
    | with_reducible refine kept_inc ?_ | with_reducible refine kept_discardRx ?_
    | with_reducible refine kept_awaitSegment ?_
    | fail_if_no_progress (with_reducible refine Kept.upd ?_ rfl rfl rfl rfl rfl rfl) | split
    | with_reducible refine Kept.ofFst ?_ (by assumption) | with_reducible refine Kept.ofSnd ?_ (by assumption)
    | (clear_value *; split)

theorem kept_admitFlow {bank mf flow port : Nat} {first : Bytes} {t : Nat} {bad : Bool} (h0 : Kept kl ko ku s) :
    Kept kl ko ku (admitFlow bank mf flow port first t bad s) := by
  unfold admitFlow
  repeat' first
    | with_reducible assumption | with_reducible refine Kept.ite (fun _ => ?_) (fun _ => ?_)
    | (intro x; with_reducible refine Kept.gen (kl := kl) (ko := ko) (ku := ku) (x := x) ?_ ?_; (on_goal 1 => unfold x); (on_goal 2 => (intro _; clear_value x)))
    | (intro x; (have t : Nat := x; clear t); clear_value x) | (intro x) | lift_lets -underBinder
    | with_reducible refine kept_inc ?_ | with_reducible refine kept_storeTx ?_ | with_reducible refine kept_setCur ?_
    | with_reducible refine kept_nonConforming ?_
    | fail_if_no_progress (with_reducible refine Kept.upd ?_ rfl rfl rfl rfl rfl rfl) | split
    | with_reducible refine Kept.ofFst ?_ (by assumption) | with_reducible refine Kept.ofSnd ?_ (by assumption)
    | (clear_value *; split)

theorem kept_flowMatch {port : Nat} {first : Bytes} {t : Nat} {fec : Fec} {v : Vote} (h0 : Kept kl ko ku s) :
    Kept kl ko ku (flowMatch port first t fec v s) := by
  unfold flowMatch
  repeat' first
    | with_reducible assumption | with_reducible refine Kept.ite (fun _ => ?_) (fun _ => ?_)
    | (intro x; with_reducible refine Kept.gen (kl := kl) (ko := ko) (ku := ku) (x := x) ?_ ?_; (on_goal 1 => unfold x); (on_goal 2 => (intro _; clear_value x)))
    | (intro x; (have t : Nat := x; clear t); clear_value x) | (intro x) | lift_lets -underBinder
    | with_reducible refine kept_inc ?_ | with_reducible refine kept_countFec ?_
    | with_reducible refine kept_countRx ?_ | with_reducible refine kept_voteWord ?_
    | with_reducible refine kept_discardRx ?_ | with_reducible refine kept_awaitSegment ?_
    | with_reducible refine kept_admitFlow ?_
    | fail_if_no_progress (with_reducible refine Kept.upd ?_ rfl rfl rfl rfl rfl rfl) | split
    | with_reducible refine Kept.ofFst ?_ (by assumption) | with_reducible refine Kept.ofSnd ?_ (by assumption)
    | (clear_value *; split)

theorem kept_routedSegment {port : Nat} {seg : Bytes} {whole bad : Bool} {fec : Fec} (h0 : Kept kl ko ku s) :
    Kept kl ko ku (routedSegment port seg whole bad fec s) := by
  unfold routedSegment
  repeat' first
    | with_reducible assumption | with_reducible refine Kept.ite (fun _ => ?_) (fun _ => ?_)
    | with_reducible refine kept_headerSegment ?_
    | fail_if_no_progress (with_reducible refine Kept.upd ?_ rfl rfl rfl rfl rfl rfl) | split
    | with_reducible refine Kept.ofFst ?_ (by assumption) | with_reducible refine Kept.ofSnd ?_ (by assumption)
    | (clear_value *; split)

theorem kept_overlenCut {port key : Nat} {f : TxFrame} {body : Bytes} (h0 : Kept kl ko ku s) :
    Kept kl ko ku (overlenCut port key f body s) := by
  unfold overlenCut
  repeat' first
    | with_reducible assumption | with_reducible refine Kept.ite (fun _ => ?_) (fun _ => ?_)
    | (intro x; with_reducible refine Kept.gen (kl := kl) (ko := ko) (ku := ku) (x := x) ?_ ?_; (on_goal 1 => unfold x); (on_goal 2 => (intro _; clear_value x)))
    | (intro x; (have t : Nat := x; clear t); clear_value x) | (intro x) | lift_lets -underBinder
    | with_reducible refine kept_inc ?_ | with_reducible refine kept_storeTx ?_
    | with_reducible refine kept_discardRx ?_
    | fail_if_no_progress (with_reducible refine Kept.upd ?_ rfl rfl rfl rfl rfl rfl) | split
    | with_reducible refine Kept.ofFst ?_ (by assumption) | with_reducible refine Kept.ofSnd ?_ (by assumption)
    | (clear_value *; split)

theorem kept_markCur {port : Nat} {fec : Fec} (h0 : Kept kl ko ku s) :
    Kept kl ko ku (markCur port fec s) := by
  unfold markCur
  repeat' first
    | with_reducible assumption | with_reducible refine Kept.ite (fun _ => ?_) (fun _ => ?_)
    | with_reducible refine kept_setCur ?_
    | fail_if_no_progress (with_reducible refine Kept.upd ?_ rfl rfl rfl rfl rfl rfl) | split
    | with_reducible refine Kept.ofFst ?_ (by assumption) | with_reducible refine Kept.ofSnd ?_ (by assumption)
    | (clear_value *; split)

theorem kept_schedOverlen {port : Nat} {body : Bytes} {fec : Fec} (h0 : Kept kl ko ku s) :
    Kept kl ko ku (schedOverlen port body fec s) := by
  unfold schedOverlen
  repeat' first
    | with_reducible assumption | with_reducible refine Kept.ite (fun _ => ?_) (fun _ => ?_)
    | (intro x; with_reducible refine Kept.gen (kl := kl) (ko := ko) (ku := ku) (x := x) ?_ ?_; (on_goal 1 => unfold x); (on_goal 2 => (intro _; clear_value x)))
    | (intro x; (have t : Nat := x; clear t); clear_value x) | (intro x) | lift_lets -underBinder
    | with_reducible refine kept_countFec ?_ | with_reducible refine kept_overlenCut ?_
    | with_reducible refine kept_markCur ?_
    | fail_if_no_progress (with_reducible refine Kept.upd ?_ rfl rfl rfl rfl rfl rfl) | split
    | with_reducible refine Kept.ofFst ?_ (by assumption) | with_reducible refine Kept.ofSnd ?_ (by assumption)
    | (clear_value *; split)

theorem kept_schedTail {port : Nat} {body : Bytes} {tail : Tail} {fec : Fec} (h0 : Kept kl ko ku s) :
    Kept kl ko ku (schedTail port body tail fec s) := by
  unfold schedTail
  repeat' first
    | with_reducible assumption | with_reducible refine Kept.ite (fun _ => ?_) (fun _ => ?_)
    | (intro x; with_reducible refine Kept.gen (kl := kl) (ko := ko) (ku := ku) (x := x) ?_ ?_; (on_goal 1 => unfold x); (on_goal 2 => (intro _; clear_value x)))
    | (intro x; (have t : Nat := x; clear t); clear_value x) | (intro x) | lift_lets -underBinder
    | with_reducible refine kept_inc ?_ | with_reducible refine kept_countRx ?_
    | with_reducible refine kept_clearCur ?_ | with_reducible refine kept_setTxFrame ?_
    | with_reducible refine kept_storeTx ?_ | with_reducible refine kept_overlenCut ?_
    | fail_if_no_progress (with_reducible refine Kept.upd ?_ rfl rfl rfl rfl rfl rfl) | split
    | with_reducible refine Kept.ofFst ?_ (by assumption) | with_reducible refine Kept.ofSnd ?_ (by assumption)
    | (clear_value *; split)

theorem kept_linkAndSched {port : Nat} {up lf rf : Bool} {fec : Fec} (h0 : Kept kl ko ku s) :
    Kept kl ko ku (linkAndSched port up lf rf fec s) := by
  unfold linkAndSched
  repeat' first
    | with_reducible assumption | with_reducible refine Kept.ite (fun _ => ?_) (fun _ => ?_)
    | with_reducible refine kept_linkChange ?_ | with_reducible refine kept_tailAndAfter (fun _ _ => ?_) ?_
    | with_reducible refine kept_schedTail ?_
    | fail_if_no_progress (with_reducible refine Kept.upd ?_ rfl rfl rfl rfl rfl rfl) | split
    | with_reducible refine Kept.ofFst ?_ (by assumption) | with_reducible refine Kept.ofSnd ?_ (by assumption)
    | (clear_value *; split)

theorem kept_storeArrived {key : Nat} {arrived : Bytes} (h0 : Kept kl ko ku s) :
    Kept kl ko ku (storeArrived key arrived s) := by
  unfold storeArrived
  repeat' first
    | with_reducible assumption | with_reducible refine Kept.ite (fun _ => ?_) (fun _ => ?_)
    | (intro x; with_reducible refine Kept.gen (kl := kl) (ko := ko) (ku := ku) (x := x) ?_ ?_; (on_goal 1 => unfold x); (on_goal 2 => (intro _; clear_value x)))
    | (intro x; (have t : Nat := x; clear t); clear_value x) | (intro x) | lift_lets -underBinder
    | with_reducible refine kept_storeTx ?_ | with_reducible refine kept_setCur ?_
    | with_reducible refine kept_overlenCut ?_
    | fail_if_no_progress (with_reducible refine Kept.upd ?_ rfl rfl rfl rfl rfl rfl) | split
    | with_reducible refine Kept.ofFst ?_ (by assumption) | with_reducible refine Kept.ofSnd ?_ (by assumption)
    | (clear_value *; split)

theorem kept_lateCell {key lane pos : Nat} {f : TxFrame} (h0 : Kept kl ko ku s) :
    Kept kl ko ku (lateCell key lane pos f s) := by
  unfold lateCell
  repeat' first
    | with_reducible assumption | with_reducible refine Kept.ite (fun _ => ?_) (fun _ => ?_)
    | (intro x; with_reducible refine Kept.gen (kl := kl) (ko := ko) (ku := ku) (x := x) ?_ ?_; (on_goal 1 => unfold x); (on_goal 2 => (intro _; clear_value x)))
    | (intro x; (have t : Nat := x; clear t); clear_value x) | (intro x) | lift_lets -underBinder
    | with_reducible refine kept_doIf (fun _ _ => ?_) ?_ | with_reducible refine kept_inc ?_
    | with_reducible refine kept_report ?_ | with_reducible refine kept_setTxFrame ?_
    | fail_if_no_progress (with_reducible refine Kept.upd ?_ rfl rfl rfl rfl rfl rfl) | split
    | with_reducible refine Kept.ofFst ?_ (by assumption) | with_reducible refine Kept.ofSnd ?_ (by assumption)
    | (clear_value *; split)

theorem kept_entryCell {bank e lane pos : Nat} {arrived : Bytes} (h0 : Kept kl ko ku s) :
    Kept kl ko ku (entryCell bank e lane pos arrived s).1 := by
  unfold entryCell
  repeat' first
    | with_reducible assumption | with_reducible refine Kept.ite (fun _ => ?_) (fun _ => ?_)
    | (intro x; with_reducible refine Kept.gen (kl := kl) (ko := ko) (ku := ku) (x := x) ?_ ?_; (on_goal 1 => unfold x); (on_goal 2 => (intro _; clear_value x)))
    | (intro x; (have t : Nat := x; clear t); clear_value x) | (intro x) | lift_lets -underBinder
    | with_reducible refine kept_setTxFrame ?_ | with_reducible refine kept_storeArrived ?_
    | with_reducible refine kept_lateCell ?_
    | fail_if_no_progress (with_reducible refine Kept.upd ?_ rfl rfl rfl rfl rfl rfl) | split
    | with_reducible refine Kept.ofFst ?_ (by assumption) | with_reducible refine Kept.ofSnd ?_ (by assumption)
    | (clear_value *; split)

theorem kept_tsiWord {lane : Nat} {ecc : Ecc} (h0 : Kept kl ko ku s) :
    Kept kl ko ku (tsiWord lane ecc s) := by
  unfold tsiWord
  repeat' first
    | with_reducible assumption | with_reducible refine Kept.ite (fun _ => ?_) (fun _ => ?_)
    | (intro x; with_reducible refine Kept.gen (kl := kl) (ko := ko) (ku := ku) (x := x) ?_ ?_; (on_goal 1 => unfold x); (on_goal 2 => (intro _; clear_value x)))
    | (intro x; (have t : Nat := x; clear t); clear_value x) | (intro x) | lift_lets -underBinder
    | with_reducible refine kept_report ?_ | with_reducible refine kept_fabInc ?_
    | fail_if_no_progress (with_reducible refine Kept.upd ?_ rfl rfl rfl rfl rfl rfl) | split
    | with_reducible refine Kept.ofFst ?_ (by assumption) | with_reducible refine Kept.ofSnd ?_ (by assumption)
    | (clear_value *; split)

theorem kept_digestCell {lane pos : Nat} {c : Bytes} (h0 : Kept kl ko ku s) :
    Kept kl ko ku (digestCell lane pos c s) := by
  unfold digestCell
  repeat' first
    | with_reducible assumption | with_reducible refine Kept.ite (fun _ => ?_) (fun _ => ?_)
    | (intro x; with_reducible refine Kept.gen (kl := kl) (ko := ko) (ku := ku) (x := x) ?_ ?_; (on_goal 1 => unfold x); (on_goal 2 => (intro _; clear_value x)))
    | (intro x; (have t : Nat := x; clear t); clear_value x) | (intro x) | lift_lets -underBinder
    | with_reducible refine kept_doIf (fun _ _ => ?_) ?_
    | fail_if_no_progress (with_reducible refine Kept.upd ?_ rfl rfl rfl rfl rfl rfl) | split
    | with_reducible refine Kept.ofFst ?_ (by assumption) | with_reducible refine Kept.ofSnd ?_ (by assumption)
    | (clear_value *; split)

theorem kept_calCell {bank e : Nat} {act : Bool} {lane pos : Nat} {arrived : Bytes} {ecc : Ecc} (h0 : Kept kl ko ku s) :
    Kept kl ko ku (calCell bank e act lane pos arrived ecc s).1 := by
  unfold calCell
  repeat' first
    | with_reducible assumption | with_reducible refine Kept.ite (fun _ => ?_) (fun _ => ?_)
    | with_reducible refine kept_entryCell ?_
    | fail_if_no_progress (with_reducible refine Kept.upd ?_ rfl rfl rfl rfl rfl rfl) | split
    | with_reducible refine Kept.ofFst ?_ (by assumption) | with_reducible refine Kept.ofSnd ?_ (by assumption)
    | (clear_value *; split)

theorem kept_schedSlot {bank e : Nat} {act : Bool} {lane pos : Nat} {arrived : Bytes} {ecc : Ecc} {v : Vote} (h0 : Kept kl ko ku s) :
    Kept kl ko ku (schedSlot bank e act lane pos arrived ecc v s).1 := by
  unfold schedSlot
  repeat' first
    | with_reducible assumption | with_reducible refine Kept.ite (fun _ => ?_) (fun _ => ?_)
    | (intro x; with_reducible refine Kept.gen (kl := kl) (ko := ko) (ku := ku) (x := x) ?_ ?_; (on_goal 1 => unfold x); (on_goal 2 => (intro _; clear_value x)))
    | (intro x; (have t : Nat := x; clear t); clear_value x) | (intro x) | lift_lets -underBinder
    | with_reducible refine kept_voteWord ?_ | with_reducible refine kept_tsiWord ?_
    | with_reducible refine kept_digestCell ?_ | with_reducible refine kept_calCell ?_
    | fail_if_no_progress (with_reducible refine Kept.upd ?_ rfl rfl rfl rfl rfl rfl) | split
    | with_reducible refine Kept.ofFst ?_ (by assumption) | with_reducible refine Kept.ofSnd ?_ (by assumption)
    | (clear_value *; split)

theorem kept_setRxBuf {key : Nat} {r : RxBuf} (h0 : Kept kl ko ku s) :
    Kept kl ko ku (setRxBuf key r s) := by
  unfold setRxBuf
  repeat' first
    | with_reducible assumption | with_reducible refine Kept.ite (fun _ => ?_) (fun _ => ?_)
    | (intro x; with_reducible refine Kept.gen (kl := kl) (ko := ko) (ku := ku) (x := x) ?_ ?_; (on_goal 1 => unfold x); (on_goal 2 => (intro _; clear_value x)))
    | (intro x; (have t : Nat := x; clear t); clear_value x) | (intro x) | lift_lets -underBinder
    | fail_if_no_progress (with_reducible refine Kept.upd ?_ rfl rfl rfl rfl rfl rfl) | split
    | with_reducible refine Kept.ofFst ?_ (by assumption) | with_reducible refine Kept.ofSnd ?_ (by assumption)
    | (clear_value *; split)

theorem kept_placeCell {x : RxCell} {b e : Nat} (h0 : Kept kl ko ku s) :
    Kept kl ko ku (placeCell x b e s) := by
  unfold placeCell
  repeat' first
    | with_reducible assumption | with_reducible refine Kept.ite (fun _ => ?_) (fun _ => ?_)
    | (intro x; with_reducible refine Kept.gen (kl := kl) (ko := ko) (ku := ku) (x := x) ?_ ?_; (on_goal 1 => unfold x); (on_goal 2 => (intro _; clear_value x)))
    | (intro x; (have t : Nat := x; clear t); clear_value x) | (intro x) | lift_lets -underBinder
    | with_reducible refine kept_poolWrite ?_ | with_reducible refine kept_setRxBuf ?_
    | fail_if_no_progress (with_reducible refine Kept.upd ?_ rfl rfl rfl rfl rfl rfl) | split
    | with_reducible refine Kept.ofFst ?_ (by assumption) | with_reducible refine Kept.ofSnd ?_ (by assumption)
    | (clear_value *; split)

theorem kept_schedCellReceive {ecc : Ecc} {v : Vote} (h0 : Kept kl ko ku s) :
    Kept kl ko ku (schedCellReceive ecc v s) := by
  unfold schedCellReceive
  repeat' first
    | with_reducible assumption | with_reducible refine Kept.ite (fun _ => ?_) (fun _ => ?_)
    | (intro x; with_reducible refine Kept.gen (kl := kl) (ko := ko) (ku := ku) (x := x) ?_ ?_; (on_goal 1 => unfold x); (on_goal 2 => (intro _; clear_value x)))
    | (intro x; (have t : Nat := x; clear t); clear_value x) | (intro x) | lift_lets -underBinder
    | with_reducible refine kept_inc ?_ | with_reducible refine kept_voteWord ?_
    | with_reducible refine kept_tsiWord ?_ | with_reducible refine kept_placeCell ?_
    | fail_if_no_progress (with_reducible refine Kept.upd ?_ rfl rfl rfl rfl rfl rfl) | split
    | with_reducible refine Kept.ofFst ?_ (by assumption) | with_reducible refine Kept.ofSnd ?_ (by assumption)
    | (clear_value *; split)

theorem kept_digestRel {bank r mf : Nat} {f : Option Bytes} (h0 : Kept kl ko ku s) :
    Kept kl ko ku (digestRel bank r mf f s) := by
  unfold digestRel
  repeat' first
    | with_reducible assumption | with_reducible refine Kept.ite (fun _ => ?_) (fun _ => ?_)
    | (intro x; with_reducible refine Kept.gen (kl := kl) (ko := ko) (ku := ku) (x := x) ?_ ?_; (on_goal 1 => unfold x); (on_goal 2 => (intro _; clear_value x)))
    | (intro x; (have t : Nat := x; clear t); clear_value x) | (intro x) | lift_lets -underBinder
    | with_reducible refine kept_doIf (fun _ _ => ?_) ?_
    | fail_if_no_progress (with_reducible refine Kept.upd ?_ rfl rfl rfl rfl rfl rfl) | split
    | with_reducible refine Kept.ofFst ?_ (by assumption) | with_reducible refine Kept.ofSnd ?_ (by assumption)
    | (clear_value *; split)

theorem kept_relOver {bank r mf len : Nat} {f : Option Bytes} (h0 : Kept kl ko ku s) :
    Kept kl ko ku (relOver bank r mf len f s) := by
  unfold relOver
  repeat' first
    | with_reducible assumption | with_reducible refine Kept.ite (fun _ => ?_) (fun _ => ?_)
    | (intro x; with_reducible refine Kept.gen (kl := kl) (ko := ko) (ku := ku) (x := x) ?_ ?_; (on_goal 1 => unfold x); (on_goal 2 => (intro _; clear_value x)))
    | (intro x; (have t : Nat := x; clear t); clear_value x) | (intro x) | lift_lets -underBinder
    | with_reducible refine kept_setRxBuf ?_ | with_reducible refine kept_digestRel ?_
    | fail_if_no_progress (with_reducible refine Kept.upd ?_ rfl rfl rfl rfl rfl rfl) | split
    | with_reducible refine Kept.ofFst ?_ (by assumption) | with_reducible refine Kept.ofSnd ?_ (by assumption)
    | (clear_value *; split)

theorem kept_releaseFrame {bank r mf : Nat} (h0 : Kept kl ko ku s) :
    Kept kl ko ku (releaseFrame bank r mf s) := by
  unfold releaseFrame
  repeat' first
    | with_reducible assumption | with_reducible refine Kept.ite (fun _ => ?_) (fun _ => ?_)
    | (intro x; with_reducible refine Kept.gen (kl := kl) (ko := ko) (ku := ku) (x := x) ?_ ?_; (on_goal 1 => unfold x); (on_goal 2 => (intro _; clear_value x)))
    | (intro x; (have t : Nat := x; clear t); clear_value x) | (intro x) | lift_lets -underBinder
    | with_reducible refine kept_inc ?_ | with_reducible refine kept_bridgeSched ?_
    | with_reducible refine kept_setMacQueue ?_ | with_reducible refine kept_relOver ?_
    | fail_if_no_progress (with_reducible refine Kept.upd ?_ rfl rfl rfl rfl rfl rfl) | split
    | with_reducible refine Kept.ofFst ?_ (by assumption) | with_reducible refine Kept.ofSnd ?_ (by assumption)
    | (clear_value *; split)

theorem kept_schedRelease {bank r : Nat} {v : Vote} (h0 : Kept kl ko ku s) :
    Kept kl ko ku (schedRelease bank r v s) := by
  unfold schedRelease
  repeat' first
    | with_reducible assumption | with_reducible refine Kept.ite (fun _ => ?_) (fun _ => ?_)
    | (intro x; with_reducible refine Kept.gen (kl := kl) (ko := ko) (ku := ku) (x := x) ?_ ?_; (on_goal 1 => unfold x); (on_goal 2 => (intro _; clear_value x)))
    | (intro x; (have t : Nat := x; clear t); clear_value x) | (intro x) | lift_lets -underBinder
    | with_reducible refine kept_inc ?_ | with_reducible refine kept_complete ?_
    | with_reducible refine kept_voteWord ?_ | with_reducible refine kept_relOver ?_
    | with_reducible refine kept_releaseFrame ?_
    | fail_if_no_progress (with_reducible refine Kept.upd ?_ rfl rfl rfl rfl rfl rfl) | split
    | with_reducible refine Kept.ofFst ?_ (by assumption) | with_reducible refine Kept.ofSnd ?_ (by assumption)
    | (clear_value *; split)

theorem kept_heldFrame (h0 : Kept kl ko ku s) :
    Kept kl ko ku (heldFrame s) := by
  unfold heldFrame
  repeat' first
    | with_reducible assumption | with_reducible refine Kept.ite (fun _ => ?_) (fun _ => ?_)
    | with_reducible refine kept_inc ?_
    | fail_if_no_progress (with_reducible refine Kept.upd ?_ rfl rfl rfl rfl rfl rfl) | split
    | with_reducible refine Kept.ofFst ?_ (by assumption) | with_reducible refine Kept.ofSnd ?_ (by assumption)
    | (clear_value *; split)

theorem kept_sendItem {port : Nat} {m : MacItem} (h0 : Kept kl ko ku s) :
    Kept kl ko ku (sendItem port m s) := by
  unfold sendItem
  repeat' first
    | with_reducible assumption | with_reducible refine Kept.ite (fun _ => ?_) (fun _ => ?_)
    | (intro x; with_reducible refine Kept.gen (kl := kl) (ko := ko) (ku := ku) (x := x) ?_ ?_; (on_goal 1 => unfold x); (on_goal 2 => (intro _; clear_value x)))
    | (intro x; (have t : Nat := x; clear t); clear_value x) | (intro x) | lift_lets -underBinder
    | with_reducible refine kept_doIf (fun _ _ => ?_) ?_ | with_reducible refine kept_inc ?_
    | with_reducible refine kept_erasePkt ?_ | with_reducible refine kept_sendSched ?_
    | with_reducible refine kept_sendRouted ?_ | with_reducible refine kept_heldFrame ?_
    | fail_if_no_progress (with_reducible refine Kept.upd ?_ rfl rfl rfl rfl rfl rfl) | split
    | with_reducible refine Kept.ofFst ?_ (by assumption) | with_reducible refine Kept.ofSnd ?_ (by assumption)
    | (clear_value *; split)

theorem kept_txFrame {port : Nat} (h0 : Kept kl ko ku s) :
    Kept kl ko ku (txFrame port s) := by
  unfold txFrame
  dsimp only
  repeat' first
    | with_reducible assumption | with_reducible refine Kept.ite (fun _ => ?_) (fun _ => ?_)
    | with_reducible refine kept_setMacQueue ?_ | with_reducible refine kept_sendItem ?_
    | fail_if_no_progress (with_reducible refine Kept.upd ?_ rfl rfl rfl rfl rfl rfl) | split
    | with_reducible refine Kept.ofFst ?_ (by assumption) | with_reducible refine Kept.ofSnd ?_ (by assumption)
    | (clear_value *; split)

theorem kept_alignCheck {n : Nat} (h0 : Kept kl ko ku s) :
    Kept kl ko ku (alignCheck n s) := by
  unfold alignCheck
  repeat' first
    | with_reducible assumption | with_reducible refine Kept.ite (fun _ => ?_) (fun _ => ?_)
    | (intro x; with_reducible refine Kept.gen (kl := kl) (ko := ko) (ku := ku) (x := x) ?_ ?_; (on_goal 1 => unfold x); (on_goal 2 => (intro _; clear_value x)))
    | (intro x; (have t : Nat := x; clear t); clear_value x) | (intro x) | lift_lets -underBinder
    | with_reducible refine kept_setFld ?_ | with_reducible refine kept_report ?_
    | with_reducible refine kept_calAlarm ?_
    | fail_if_no_progress (with_reducible refine Kept.upd ?_ rfl rfl rfl rfl rfl rfl) | split
    | with_reducible refine Kept.ofFst ?_ (by assumption) | with_reducible refine Kept.ofSnd ?_ (by assumption)
    | (clear_value *; split)

theorem kept_slackCheck (h0 : Kept kl ko ku s) :
    Kept kl ko ku (slackCheck s) := by
  unfold slackCheck
  repeat' first
    | with_reducible assumption | with_reducible refine Kept.ite (fun _ => ?_) (fun _ => ?_)
    | (intro x; with_reducible refine Kept.gen (kl := kl) (ko := ko) (ku := ku) (x := x) ?_ ?_; (on_goal 1 => unfold x); (on_goal 2 => (intro _; clear_value x)))
    | (intro x; (have t : Nat := x; clear t); clear_value x) | (intro x) | lift_lets -underBinder
    | with_reducible refine kept_doIf (fun _ _ => ?_) ?_ | with_reducible refine kept_setFld ?_
    | with_reducible refine kept_report ?_ | with_reducible refine kept_calAlarm ?_
    | fail_if_no_progress (with_reducible refine Kept.upd ?_ rfl rfl rfl rfl rfl rfl) | split
    | with_reducible refine Kept.ofFst ?_ (by assumption) | with_reducible refine Kept.ofSnd ?_ (by assumption)
    | (clear_value *; split)

theorem kept_armDeadline {n : Nat} (h0 : Kept kl ko ku s) :
    Kept kl ko ku (armDeadline n s) := by
  unfold armDeadline
  dsimp only
  repeat' first
    | with_reducible assumption | with_reducible refine Kept.ite (fun _ => ?_) (fun _ => ?_)
    | with_reducible refine kept_doIf (fun _ _ => ?_) ?_ | with_reducible refine kept_forEach (fun _ _ _ => ?_) ?_
    | with_reducible refine kept_complete ?_ | with_reducible refine kept_calTo ?_
    | with_reducible refine kept_disarmedEvent ?_
    | fail_if_no_progress (with_reducible refine Kept.upd ?_ rfl rfl rfl rfl rfl rfl) | split
    | with_reducible refine Kept.ofFst ?_ (by assumption) | with_reducible refine Kept.ofSnd ?_ (by assumption)
    | (clear_value *; split)

theorem kept_tsiCheck {n : Nat} (h0 : Kept kl ko ku s) :
    Kept kl ko ku (tsiCheck n s) := by
  unfold tsiCheck
  repeat' first
    | with_reducible assumption | with_reducible refine Kept.ite (fun _ => ?_) (fun _ => ?_)
    | (intro x; with_reducible refine Kept.gen (kl := kl) (ko := ko) (ku := ku) (x := x) ?_ ?_; (on_goal 1 => unfold x); (on_goal 2 => (intro _; clear_value x)))
    | (intro x; (have t : Nat := x; clear t); clear_value x) | (intro x) | lift_lets -underBinder
    | with_reducible refine kept_doIf (fun _ _ => ?_) ?_ | with_reducible refine kept_forEach (fun _ _ _ => ?_) ?_
    | with_reducible refine kept_setFld ?_ | with_reducible refine kept_report ?_
    | with_reducible refine kept_fabInc ?_
    | fail_if_no_progress (with_reducible refine Kept.upd ?_ rfl rfl rfl rfl rfl rfl) | split
    | with_reducible refine Kept.ofFst ?_ (by assumption) | with_reducible refine Kept.ofSnd ?_ (by assumption)
    | (clear_value *; split)

theorem kept_swapLive {b : Nat} (h0 : Kept kl ko ku s) :
    Kept kl ko ku (swapLive b s) := by
  unfold swapLive
  repeat' first
    | with_reducible assumption | with_reducible refine Kept.ite (fun _ => ?_) (fun _ => ?_)
    | (intro x; with_reducible refine Kept.gen (kl := kl) (ko := ko) (ku := ku) (x := x) ?_ ?_; (on_goal 1 => unfold x); (on_goal 2 => (intro _; clear_value x)))
    | (intro x; (have t : Nat := x; clear t); clear_value x) | (intro x) | lift_lets -underBinder
    | with_reducible refine kept_doIf (fun _ _ => ?_) ?_ | with_reducible apply kept_wr
    | with_reducible refine kept_setFld ?_ | with_reducible refine kept_inc ?_
    | with_reducible refine kept_raiseBlock ?_ | with_reducible refine kept_calTo ?_
    | with_reducible refine kept_tsiRefresh ?_ | with_reducible refine kept_calReserve ?_
    | fail_if_no_progress (with_reducible refine Kept.upd ?_ rfl rfl rfl rfl rfl rfl) | split
    | with_reducible refine Kept.ofFst ?_ (by assumption) | with_reducible refine Kept.ofSnd ?_ (by assumption)
    | (clear_value *; split)

theorem kept_retireEnd (h0 : Kept kl ko ku s) :
    Kept kl ko ku (retireEnd s) := by
  unfold retireEnd
  repeat' first
    | with_reducible assumption | with_reducible refine Kept.ite (fun _ => ?_) (fun _ => ?_)
    | (intro x; with_reducible refine Kept.gen (kl := kl) (ko := ko) (ku := ku) (x := x) ?_ ?_; (on_goal 1 => unfold x); (on_goal 2 => (intro _; clear_value x)))
    | (intro x; (have t : Nat := x; clear t); clear_value x) | (intro x) | lift_lets -underBinder
    | with_reducible refine kept_calTo ?_ | with_reducible refine kept_calReserve ?_
    | fail_if_no_progress (with_reducible refine Kept.upd ?_ rfl rfl rfl rfl rfl rfl) | split
    | with_reducible refine Kept.ofFst ?_ (by assumption) | with_reducible refine Kept.ofSnd ?_ (by assumption)
    | (clear_value *; split)

theorem kept_calRunNext (h0 : Kept kl ko ku s) :
    Kept kl ko ku (calRunNext s) := by
  unfold calRunNext
  repeat' first
    | with_reducible assumption | with_reducible refine Kept.ite (fun _ => ?_) (fun _ => ?_)
    | (intro x; with_reducible refine Kept.gen (kl := kl) (ko := ko) (ku := ku) (x := x) ?_ ?_; (on_goal 1 => unfold x); (on_goal 2 => (intro _; clear_value x)))
    | (intro x; (have t : Nat := x; clear t); clear_value x) | (intro x) | lift_lets -underBinder
    | with_reducible refine kept_doIf (fun _ _ => ?_) ?_
    | fail_if_no_progress (with_reducible refine Kept.upd ?_ rfl rfl rfl rfl rfl rfl) | split
    | with_reducible refine Kept.ofFst ?_ (by assumption) | with_reducible refine Kept.ofSnd ?_ (by assumption)
    | (clear_value *; split)

theorem kept_haltEnd {n : Nat} (h0 : Kept kl ko ku s) :
    Kept kl ko ku (haltEnd n s) := by
  unfold haltEnd
  repeat' first
    | with_reducible assumption | with_reducible refine Kept.ite (fun _ => ?_) (fun _ => ?_)
    | (intro x; with_reducible refine Kept.gen (kl := kl) (ko := ko) (ku := ku) (x := x) ?_ ?_; (on_goal 1 => unfold x); (on_goal 2 => (intro _; clear_value x)))
    | (intro x; (have t : Nat := x; clear t); clear_value x) | (intro x) | lift_lets -underBinder
    | with_reducible refine kept_setFld ?_ | with_reducible refine kept_complete ?_
    | fail_if_no_progress (with_reducible refine Kept.upd ?_ rfl rfl rfl rfl rfl rfl) | split
    | with_reducible refine Kept.ofFst ?_ (by assumption) | with_reducible refine Kept.ofSnd ?_ (by assumption)
    | (clear_value *; split)

theorem kept_calBoundary {n : Nat} {v : Vote} (h0 : Kept kl ko ku s) :
    Kept kl ko ku (calBoundary n v s) := by
  unfold calBoundary
  repeat' first
    | with_reducible assumption | with_reducible refine Kept.ite (fun _ => ?_) (fun _ => ?_)
    | (intro x; with_reducible refine Kept.gen (kl := kl) (ko := ko) (ku := ku) (x := x) ?_ ?_; (on_goal 1 => unfold x); (on_goal 2 => (intro _; clear_value x)))
    | (intro x; (have t : Nat := x; clear t); clear_value x) | (intro x) | lift_lets -underBinder
    | with_reducible refine kept_setFld ?_ | with_reducible refine kept_voteWord ?_
    | with_reducible refine kept_alignCheck ?_ | with_reducible refine kept_slackCheck ?_
    | with_reducible refine kept_armDeadline ?_ | with_reducible refine kept_tsiCheck ?_
    | with_reducible refine kept_swapLive ?_ | with_reducible refine kept_retireEnd ?_
    | with_reducible refine kept_calRunNext ?_ | with_reducible refine kept_haltEnd ?_
    | fail_if_no_progress (with_reducible refine Kept.upd ?_ rfl rfl rfl rfl rfl rfl) | split
    | with_reducible refine Kept.ofFst ?_ (by assumption) | with_reducible refine Kept.ofSnd ?_ (by assumption)
    | (clear_value *; split)

theorem kept_setLaneStat {l : Nat} {f : Fld} {v : Nat} (h0 : Kept kl ko ku s) :
    Kept kl ko ku (setLaneStat l f v s) := by
  unfold setLaneStat
  repeat' first
    | with_reducible assumption | with_reducible refine Kept.ite (fun _ => ?_) (fun _ => ?_)
    | with_reducible refine kept_setFld ?_
    | fail_if_no_progress (with_reducible refine Kept.upd ?_ rfl rfl rfl rfl rfl rfl) | split
    | with_reducible refine Kept.ofFst ?_ (by assumption) | with_reducible refine Kept.ofSnd ?_ (by assumption)
    | (clear_value *; split)

theorem kept_repinGroup {g : Nat} (h0 : Kept kl ko ku s) :
    Kept kl ko ku (repinGroup g s) := by
  unfold repinGroup
  repeat' first
    | with_reducible assumption | with_reducible refine Kept.ite (fun _ => ?_) (fun _ => ?_)
    | with_reducible refine kept_forEach (fun _ _ _ => ?_) ?_ | with_reducible refine kept_repin ?_
    | fail_if_no_progress (with_reducible refine Kept.upd ?_ rfl rfl rfl rfl rfl rfl) | split
    | with_reducible refine Kept.ofFst ?_ (by assumption) | with_reducible refine Kept.ofSnd ?_ (by assumption)
    | (clear_value *; split)

theorem kept_refreshGroup {g : Nat} (h0 : Kept kl ko ku s) :
    Kept kl ko ku (refreshGroup g s) := by
  unfold refreshGroup
  repeat' first
    | with_reducible assumption | with_reducible refine Kept.ite (fun _ => ?_) (fun _ => ?_)
    | (intro x; with_reducible refine Kept.gen (kl := kl) (ko := ko) (ku := ku) (x := x) ?_ ?_; (on_goal 1 => unfold x); (on_goal 2 => (intro _; clear_value x)))
    | (intro x; (have t : Nat := x; clear t); clear_value x) | (intro x) | lift_lets -underBinder
    | with_reducible refine kept_doIf (fun _ _ => ?_) ?_ | with_reducible refine kept_setFld ?_
    | with_reducible refine kept_report ?_ | with_reducible refine kept_repinGroup ?_
    | fail_if_no_progress (with_reducible refine Kept.upd ?_ rfl rfl rfl rfl rfl rfl) | split
    | with_reducible refine Kept.ofFst ?_ (by assumption) | with_reducible refine Kept.ofSnd ?_ (by assumption)
    | (clear_value *; split)

theorem kept_refreshLane {l : Nat} (h0 : Kept kl ko ku s) :
    Kept kl ko ku (refreshLane l s) := by
  unfold refreshLane
  repeat' first
    | with_reducible assumption | with_reducible refine Kept.ite (fun _ => ?_) (fun _ => ?_)
    | with_reducible refine kept_refreshGroup ?_
    | fail_if_no_progress (with_reducible refine Kept.upd ?_ rfl rfl rfl rfl rfl rfl) | split
    | with_reducible refine Kept.ofFst ?_ (by assumption) | with_reducible refine Kept.ofSnd ?_ (by assumption)
    | (clear_value *; split)

theorem kept_laneDefect {d : Fld × Nat} {l : Nat} (h0 : Kept kl ko ku s) :
    Kept kl ko ku (laneDefect d l s) := by
  unfold laneDefect
  repeat' first
    | with_reducible assumption | with_reducible refine Kept.ite (fun _ => ?_) (fun _ => ?_)
    | with_reducible refine kept_report ?_ | with_reducible refine kept_fabIrq ?_
    | with_reducible refine kept_setLaneStat ?_
    | fail_if_no_progress (with_reducible refine Kept.upd ?_ rfl rfl rfl rfl rfl rfl) | split
    | with_reducible refine Kept.ofFst ?_ (by assumption) | with_reducible refine Kept.ofSnd ?_ (by assumption)
    | (clear_value *; split)

theorem kept_groupDefect {f : Fld} {byte g : Nat} (h0 : Kept kl ko ku s) :
    Kept kl ko ku (groupDefect f byte g s) := by
  unfold groupDefect
  repeat' first
    | with_reducible assumption | with_reducible refine Kept.ite (fun _ => ?_) (fun _ => ?_)
    | with_reducible refine kept_setFld ?_ | with_reducible refine kept_report ?_
    | with_reducible refine kept_fabIrq ?_
    | fail_if_no_progress (with_reducible refine Kept.upd ?_ rfl rfl rfl rfl rfl rfl) | split
    | with_reducible refine Kept.ofFst ?_ (by assumption) | with_reducible refine Kept.ofSnd ?_ (by assumption)
    | (clear_value *; split)

theorem kept_clearStore {l : Nat} (h0 : Kept kl ko ku s) :
    Kept kl ko ku (clearStore l s) := by
  unfold clearStore
  repeat' first
    | with_reducible assumption | with_reducible refine Kept.ite (fun _ => ?_) (fun _ => ?_)
    | (intro x; with_reducible refine Kept.gen (kl := kl) (ko := ko) (ku := ku) (x := x) ?_ ?_; (on_goal 1 => unfold x); (on_goal 2 => (intro _; clear_value x)))
    | (intro x; (have t : Nat := x; clear t); clear_value x) | (intro x) | lift_lets -underBinder
    | with_reducible refine kept_setGroup ?_
    | fail_if_no_progress (with_reducible refine Kept.upd ?_ rfl rfl rfl rfl rfl rfl) | split
    | with_reducible refine Kept.ofFst ?_ (by assumption) | with_reducible refine Kept.ofSnd ?_ (by assumption)
    | (clear_value *; split)

theorem kept_toHunt {l : Nat} (h0 : Kept kl ko ku s) :
    Kept kl ko ku (toHunt l s) := by
  unfold toHunt
  repeat' first
    | with_reducible assumption | with_reducible refine Kept.ite (fun _ => ?_) (fun _ => ?_)
    | (intro x; with_reducible refine Kept.gen (kl := kl) (ko := ko) (ku := ku) (x := x) ?_ ?_; (on_goal 1 => unfold x); (on_goal 2 => (intro _; clear_value x)))
    | (intro x; (have t : Nat := x; clear t); clear_value x) | (intro x) | lift_lets -underBinder
    | with_reducible refine kept_doIf (fun _ _ => ?_) ?_ | with_reducible refine kept_setLane ?_
    | with_reducible refine kept_setLaneStat ?_ | with_reducible refine kept_laneDefect ?_
    | with_reducible refine kept_clearStore ?_
    | fail_if_no_progress (with_reducible refine Kept.upd ?_ rfl rfl rfl rfl rfl rfl) | split
    | with_reducible refine Kept.ofFst ?_ (by assumption) | with_reducible refine Kept.ofSnd ?_ (by assumption)
    | (clear_value *; split)

theorem kept_fabLos {l : Nat} (h0 : Kept kl ko ku s) :
    Kept kl ko ku (fabLos l s) := by
  unfold fabLos
  repeat' first
    | with_reducible assumption | with_reducible refine Kept.ite (fun _ => ?_) (fun _ => ?_)
    | (intro x; with_reducible refine Kept.gen (kl := kl) (ko := ko) (ku := ku) (x := x) ?_ ?_; (on_goal 1 => unfold x); (on_goal 2 => (intro _; clear_value x)))
    | (intro x; (have t : Nat := x; clear t); clear_value x) | (intro x) | lift_lets -underBinder
    | with_reducible refine kept_doIf (fun _ _ => ?_) ?_ | with_reducible refine kept_refreshLane ?_
    | with_reducible refine kept_laneDefect ?_ | with_reducible refine kept_toHunt ?_
    | fail_if_no_progress (with_reducible refine Kept.upd ?_ rfl rfl rfl rfl rfl rfl) | split
    | with_reducible refine Kept.ofFst ?_ (by assumption) | with_reducible refine Kept.ofSnd ?_ (by assumption)
    | (clear_value *; split)

theorem kept_fabSignalLock {l : Nat} (h0 : Kept kl ko ku s) :
    Kept kl ko ku (fabSignalLock l s) := by
  unfold fabSignalLock
  repeat' first
    | with_reducible assumption | with_reducible refine Kept.ite (fun _ => ?_) (fun _ => ?_)
    | with_reducible refine kept_setLaneStat ?_ | with_reducible refine kept_refreshLane ?_
    | fail_if_no_progress (with_reducible refine Kept.upd ?_ rfl rfl rfl rfl rfl rfl) | split
    | with_reducible refine Kept.ofFst ?_ (by assumption) | with_reducible refine Kept.ofSnd ?_ (by assumption)
    | (clear_value *; split)

theorem kept_framerStart (h0 : Kept kl ko ku s) :
    Kept kl ko ku (framerStart s) := by
  unfold framerStart
  repeat' first
    | with_reducible assumption | with_reducible refine Kept.ite (fun _ => ?_) (fun _ => ?_)
    | (intro x; with_reducible refine Kept.gen (kl := kl) (ko := ko) (ku := ku) (x := x) ?_ ?_; (on_goal 1 => unfold x); (on_goal 2 => (intro _; clear_value x)))
    | (intro x; (have t : Nat := x; clear t); clear_value x) | (intro x) | lift_lets -underBinder
    | fail_if_no_progress (with_reducible refine Kept.upd ?_ rfl rfl rfl rfl rfl rfl) | split
    | with_reducible refine Kept.ofFst ?_ (by assumption) | with_reducible refine Kept.ofSnd ?_ (by assumption)
    | (clear_value *; split)

theorem kept_framerStop (h0 : Kept kl ko ku s) :
    Kept kl ko ku (framerStop s) := by
  unfold framerStop
  repeat' first
    | with_reducible assumption | with_reducible refine Kept.ite (fun _ => ?_) (fun _ => ?_)
    | (intro x; with_reducible refine Kept.gen (kl := kl) (ko := ko) (ku := ku) (x := x) ?_ ?_; (on_goal 1 => unfold x); (on_goal 2 => (intro _; clear_value x)))
    | (intro x; (have t : Nat := x; clear t); clear_value x) | (intro x) | lift_lets -underBinder
    | with_reducible refine kept_doIf (fun _ _ => ?_) ?_ | with_reducible refine kept_forEach (fun _ _ _ => ?_) ?_
    | with_reducible refine kept_setFld ?_ | with_reducible refine kept_bump ?_ | with_reducible refine kept_fabIrq ?_
    | fail_if_no_progress (with_reducible refine Kept.upd ?_ rfl rfl rfl rfl rfl rfl) | split
    | with_reducible refine Kept.ofFst ?_ (by assumption) | with_reducible refine Kept.ofSnd ?_ (by assumption)
    | (clear_value *; split)

theorem kept_framerRun (h0 : Kept kl ko ku s) :
    Kept kl ko ku (framerRun s) := by
  unfold framerRun
  repeat' first
    | with_reducible assumption | with_reducible refine Kept.ite (fun _ => ?_) (fun _ => ?_)
    | (intro x; with_reducible refine Kept.gen (kl := kl) (ko := ko) (ku := ku) (x := x) ?_ ?_; (on_goal 1 => unfold x); (on_goal 2 => (intro _; clear_value x)))
    | (intro x; (have t : Nat := x; clear t); clear_value x) | (intro x) | lift_lets -underBinder
    | with_reducible refine kept_setFld ?_ | with_reducible refine kept_mfPulse ?_
    | with_reducible refine kept_fabIrq ?_ | with_reducible refine kept_calBoundary ?_
    | fail_if_no_progress (with_reducible refine Kept.upd ?_ rfl rfl rfl rfl rfl rfl) | split
    | with_reducible refine Kept.ofFst ?_ (by assumption) | with_reducible refine Kept.ofSnd ?_ (by assumption)
    | (clear_value *; split)

theorem kept_laneStart {l : Nat} (h0 : Kept kl ko ku s) :
    Kept kl ko ku (laneStart l s) := by
  unfold laneStart
  repeat' first
    | with_reducible assumption | with_reducible refine Kept.ite (fun _ => ?_) (fun _ => ?_)
    | (intro x; with_reducible refine Kept.gen (kl := kl) (ko := ko) (ku := ku) (x := x) ?_ ?_; (on_goal 1 => unfold x); (on_goal 2 => (intro _; clear_value x)))
    | (intro x; (have t : Nat := x; clear t); clear_value x) | (intro x) | lift_lets -underBinder
    | with_reducible refine kept_setLane ?_ | with_reducible refine kept_setLaneStat ?_
    | with_reducible refine kept_laneDefect ?_
    | fail_if_no_progress (with_reducible refine Kept.upd ?_ rfl rfl rfl rfl rfl rfl) | split
    | with_reducible refine Kept.ofFst ?_ (by assumption) | with_reducible refine Kept.ofSnd ?_ (by assumption)
    | (clear_value *; split)

theorem kept_laneStop {l : Nat} (h0 : Kept kl ko ku s) :
    Kept kl ko ku (laneStop l s) := by
  unfold laneStop
  repeat' first
    | with_reducible assumption | with_reducible refine Kept.ite (fun _ => ?_) (fun _ => ?_)
    | with_reducible refine kept_toHunt ?_
    | fail_if_no_progress (with_reducible refine Kept.upd ?_ rfl rfl rfl rfl rfl rfl) | split
    | with_reducible refine Kept.ofFst ?_ (by assumption) | with_reducible refine Kept.ofSnd ?_ (by assumption)
    | (clear_value *; split)

theorem kept_traceDue {l : Nat} (h0 : Kept kl ko ku s) :
    Kept kl ko ku (traceDue l s) := by
  unfold traceDue
  repeat' first
    | with_reducible assumption | with_reducible refine Kept.ite (fun _ => ?_) (fun _ => ?_)
    | (intro x; with_reducible refine Kept.gen (kl := kl) (ko := ko) (ku := ku) (x := x) ?_ ?_; (on_goal 1 => unfold x); (on_goal 2 => (intro _; clear_value x)))
    | (intro x; (have t : Nat := x; clear t); clear_value x) | (intro x) | lift_lets -underBinder
    | with_reducible refine kept_setLane ?_
    | fail_if_no_progress (with_reducible refine Kept.upd ?_ rfl rfl rfl rfl rfl rfl) | split
    | with_reducible refine Kept.ofFst ?_ (by assumption) | with_reducible refine Kept.ofSnd ?_ (by assumption)
    | (clear_value *; split)

theorem kept_laneCfgEffect {l : Nat} {old : Word} {check : Bool} (h0 : Kept kl ko ku s) :
    Kept kl ko ku (laneCfgEffect l old check s) := by
  unfold laneCfgEffect
  repeat' first
    | with_reducible assumption | with_reducible refine Kept.ite (fun _ => ?_) (fun _ => ?_)
    | (intro x; with_reducible refine Kept.gen (kl := kl) (ko := ko) (ku := ku) (x := x) ?_ ?_; (on_goal 1 => unfold x); (on_goal 2 => (intro _; clear_value x)))
    | (intro x; (have t : Nat := x; clear t); clear_value x) | (intro x) | lift_lets -underBinder
    | with_reducible refine kept_doIf (fun _ _ => ?_) ?_ | with_reducible refine kept_setLaneStat ?_
    | with_reducible refine kept_refreshGroup ?_ | with_reducible refine kept_laneStart ?_
    | with_reducible refine kept_laneStop ?_ | with_reducible refine kept_traceDue ?_
    | fail_if_no_progress (with_reducible refine Kept.upd ?_ rfl rfl rfl rfl rfl rfl) | split
    | with_reducible refine Kept.ofFst ?_ (by assumption) | with_reducible refine Kept.ofSnd ?_ (by assumption)
    | (clear_value *; split)

theorem kept_reachEffect {d : Nat} {old : Word} (h0 : Kept kl ko ku s) :
    Kept kl ko ku (reachEffect d old s) := by
  unfold reachEffect
  dsimp only
  repeat' first
    | with_reducible assumption | with_reducible refine Kept.ite (fun _ => ?_) (fun _ => ?_)
    | with_reducible refine kept_doIf (fun _ _ => ?_) ?_ | with_reducible refine kept_repin ?_
    | fail_if_no_progress (with_reducible refine Kept.upd ?_ rfl rfl rfl rfl rfl rfl) | split
    | with_reducible refine Kept.ofFst ?_ (by assumption) | with_reducible refine Kept.ofSnd ?_ (by assumption)
    | (clear_value *; split)

theorem kept_repinGuard {d : Nat} (h0 : Kept kl ko ku s) :
    Kept kl ko ku (repinGuard d s) := by
  unfold repinGuard
  repeat' first
    | with_reducible assumption | with_reducible refine Kept.ite (fun _ => ?_) (fun _ => ?_)
    | (intro x; with_reducible refine Kept.gen (kl := kl) (ko := ko) (ku := ku) (x := x) ?_ ?_; (on_goal 1 => unfold x); (on_goal 2 => (intro _; clear_value x)))
    | (intro x; (have t : Nat := x; clear t); clear_value x) | (intro x) | lift_lets -underBinder
    | fail_if_no_progress (with_reducible refine Kept.upd ?_ rfl rfl rfl rfl rfl rfl) | split
    | with_reducible refine Kept.ofFst ?_ (by assumption) | with_reducible refine Kept.ofSnd ?_ (by assumption)
    | (clear_value *; split)

theorem kept_turnGroup {g n : Nat} (h0 : Kept kl ko ku s) :
    Kept kl ko ku (turnGroup g n s) := by
  unfold turnGroup
  repeat' first
    | with_reducible assumption | with_reducible refine Kept.ite (fun _ => ?_) (fun _ => ?_)
    | (intro x; with_reducible refine Kept.gen (kl := kl) (ko := ko) (ku := ku) (x := x) ?_ ?_; (on_goal 1 => unfold x); (on_goal 2 => (intro _; clear_value x)))
    | (intro x; (have t : Nat := x; clear t); clear_value x) | (intro x) | lift_lets -underBinder
    | with_reducible refine kept_setGroup ?_
    | fail_if_no_progress (with_reducible refine Kept.upd ?_ rfl rfl rfl rfl rfl rfl) | split
    | with_reducible refine Kept.ofFst ?_ (by assumption) | with_reducible refine Kept.ofSnd ?_ (by assumption)
    | (clear_value *; split)

theorem kept_frameTransmit {l : Nat} (h0 : Kept kl ko ku s) :
    Kept kl ko ku (frameTransmit l s) := by
  unfold frameTransmit
  repeat' first
    | with_reducible assumption | with_reducible refine Kept.ite (fun _ => ?_) (fun _ => ?_)
    | (intro x; with_reducible refine Kept.gen (kl := kl) (ko := ko) (ku := ku) (x := x) ?_ ?_; (on_goal 1 => unfold x); (on_goal 2 => (intro _; clear_value x)))
    | (intro x; (have t : Nat := x; clear t); clear_value x) | (intro x) | lift_lets -underBinder
    | with_reducible refine kept_doIf (fun _ _ => ?_) ?_ | with_reducible apply kept_emit
    | with_reducible refine kept_setLane ?_ | with_reducible refine kept_framerRun ?_
    | with_reducible refine kept_turnGroup ?_
    | fail_if_no_progress (with_reducible refine Kept.upd ?_ rfl rfl rfl rfl rfl rfl) | split
    | with_reducible refine Kept.ofFst ?_ (by assumption) | with_reducible refine Kept.ofSnd ?_ (by assumption)
    | (clear_value *; split)

theorem kept_pickStream {g : Nat} (h0 : Kept kl ko ku s) :
    Kept kl ko ku (pickStream g s).1 := by
  unfold pickStream
  repeat' first
    | with_reducible assumption | with_reducible refine Kept.ite (fun _ => ?_) (fun _ => ?_)
    | (intro x; with_reducible refine Kept.gen (kl := kl) (ko := ko) (ku := ku) (x := x) ?_ ?_; (on_goal 1 => unfold x); (on_goal 2 => (intro _; clear_value x)))
    | (intro x; (have t : Nat := x; clear t); clear_value x) | (intro x) | lift_lets -underBinder
    | fail_if_no_progress (with_reducible refine Kept.upd ?_ rfl rfl rfl rfl rfl rfl) | split
    | with_reducible refine Kept.ofFst ?_ (by assumption) | with_reducible refine Kept.ofSnd ?_ (by assumption)
    | (clear_value *; split)

theorem kept_routedCell {g : Nat} (h0 : Kept kl ko ku s) :
    Kept kl ko ku (routedCell g s).1 := by
  unfold routedCell
  repeat' first
    | with_reducible assumption | with_reducible refine Kept.ite (fun _ => ?_) (fun _ => ?_)
    | (intro x; with_reducible refine Kept.gen (kl := kl) (ko := ko) (ku := ku) (x := x) ?_ ?_; (on_goal 1 => unfold x); (on_goal 2 => (intro _; clear_value x)))
    | (intro x; (have t : Nat := x; clear t); clear_value x) | (intro x) | lift_lets -underBinder
    | with_reducible refine kept_fabInc ?_ | with_reducible refine kept_setGroup ?_
    | with_reducible refine kept_dropRef ?_ | with_reducible refine kept_pickStream ?_
    | fail_if_no_progress (with_reducible refine Kept.upd ?_ rfl rfl rfl rfl rfl rfl) | split
    | with_reducible refine Kept.ofFst ?_ (by assumption) | with_reducible refine Kept.ofSnd ?_ (by assumption)
    | (clear_value *; split)

theorem kept_slotCell {l pos : Nat} {arrived : Bytes} {ecc : Ecc} {v : Vote} (h0 : Kept kl ko ku s) :
    Kept kl ko ku (slotCell l pos arrived ecc v s).1 := by
  unfold slotCell
  repeat' first
    | with_reducible assumption | with_reducible refine Kept.ite (fun _ => ?_) (fun _ => ?_)
    | (intro x; with_reducible refine Kept.gen (kl := kl) (ko := ko) (ku := ku) (x := x) ?_ ?_; (on_goal 1 => unfold x); (on_goal 2 => (intro _; clear_value x)))
    | (intro x; (have t : Nat := x; clear t); clear_value x) | (intro x) | lift_lets -underBinder
    | with_reducible refine kept_schedSlot ?_ | with_reducible refine kept_routedCell ?_
    | fail_if_no_progress (with_reducible refine Kept.upd ?_ rfl rfl rfl rfl rfl rfl) | split
    | with_reducible refine Kept.ofFst ?_ (by assumption) | with_reducible refine Kept.ofSnd ?_ (by assumption)
    | (clear_value *; split)

theorem kept_slotPick {l pos : Nat} {arrived : Bytes} {ecc : Ecc} {v : Vote} (h0 : Kept kl ko ku s) :
    Kept kl ko ku (slotPick l pos arrived ecc v s) := by
  unfold slotPick
  repeat' first
    | with_reducible assumption | with_reducible refine Kept.ite (fun _ => ?_) (fun _ => ?_)
    | (intro x; with_reducible refine Kept.gen (kl := kl) (ko := ko) (ku := ku) (x := x) ?_ ?_; (on_goal 1 => unfold x); (on_goal 2 => (intro _; clear_value x)))
    | (intro x; (have t : Nat := x; clear t); clear_value x) | (intro x) | lift_lets -underBinder
    | with_reducible refine kept_doIf (fun _ _ => ?_) ?_ | with_reducible apply kept_emit
    | with_reducible refine kept_setLane ?_ | with_reducible refine kept_setGroup ?_
    | with_reducible refine kept_framerRun ?_ | with_reducible refine kept_slotCell ?_
    | fail_if_no_progress (with_reducible refine Kept.upd ?_ rfl rfl rfl rfl rfl rfl) | split
    | with_reducible refine Kept.ofFst ?_ (by assumption) | with_reducible refine Kept.ofSnd ?_ (by assumption)
    | (clear_value *; split)

theorem kept_aisFrame {l : Nat} {seen : Bool} (h0 : Kept kl ko ku s) :
    Kept kl ko ku (aisFrame l seen s) := by
  unfold aisFrame
  repeat' first
    | with_reducible assumption | with_reducible refine Kept.ite (fun _ => ?_) (fun _ => ?_)
    | (intro x; with_reducible refine Kept.gen (kl := kl) (ko := ko) (ku := ku) (x := x) ?_ ?_; (on_goal 1 => unfold x); (on_goal 2 => (intro _; clear_value x)))
    | (intro x; (have t : Nat := x; clear t); clear_value x) | (intro x) | lift_lets -underBinder
    | with_reducible refine kept_setLane ?_ | with_reducible refine kept_setLaneStat ?_
    | with_reducible refine kept_laneDefect ?_
    | fail_if_no_progress (with_reducible refine Kept.upd ?_ rfl rfl rfl rfl rfl rfl) | split
    | with_reducible refine Kept.ofFst ?_ (by assumption) | with_reducible refine Kept.ofSnd ?_ (by assumption)
    | (clear_value *; split)

theorem kept_rdiFrame {l : Nat} {seen : Bool} (h0 : Kept kl ko ku s) :
    Kept kl ko ku (rdiFrame l seen s) := by
  unfold rdiFrame
  repeat' first
    | with_reducible assumption | with_reducible refine Kept.ite (fun _ => ?_) (fun _ => ?_)
    | (intro x; with_reducible refine Kept.gen (kl := kl) (ko := ko) (ku := ku) (x := x) ?_ ?_; (on_goal 1 => unfold x); (on_goal 2 => (intro _; clear_value x)))
    | (intro x; (have t : Nat := x; clear t); clear_value x) | (intro x) | lift_lets -underBinder
    | with_reducible refine kept_doIf (fun _ _ => ?_) ?_ | with_reducible refine kept_fabIrq ?_
    | with_reducible refine kept_setLane ?_ | with_reducible refine kept_setLaneStat ?_
    | fail_if_no_progress (with_reducible refine Kept.upd ?_ rfl rfl rfl rfl rfl rfl) | split
    | with_reducible refine Kept.ofFst ?_ (by assumption) | with_reducible refine Kept.ofSnd ?_ (by assumption)
    | (clear_value *; split)

theorem kept_traceAccept {l : Nat} {str : Bytes} (h0 : Kept kl ko ku s) :
    Kept kl ko ku (traceAccept l str s) := by
  unfold traceAccept
  repeat' first
    | with_reducible assumption | with_reducible refine Kept.ite (fun _ => ?_) (fun _ => ?_)
    | (intro x; with_reducible refine Kept.gen (kl := kl) (ko := ko) (ku := ku) (x := x) ?_ ?_; (on_goal 1 => unfold x); (on_goal 2 => (intro _; clear_value x)))
    | (intro x; (have t : Nat := x; clear t); clear_value x) | (intro x) | lift_lets -underBinder
    | with_reducible refine kept_forEach (fun _ _ _ => ?_) ?_ | with_reducible apply kept_wr
    | with_reducible refine kept_fabIrq ?_ | with_reducible refine kept_setLane ?_
    | with_reducible refine kept_setLaneStat ?_ | with_reducible refine kept_laneDefect ?_
    | fail_if_no_progress (with_reducible refine Kept.upd ?_ rfl rfl rfl rfl rfl rfl) | split
    | with_reducible refine Kept.ofFst ?_ (by assumption) | with_reducible refine Kept.ofSnd ?_ (by assumption)
    | (clear_value *; split)

theorem kept_traceByte {l fn : Nat} {b : BitVec 8} (h0 : Kept kl ko ku s) :
    Kept kl ko ku (traceByte l fn b s) := by
  unfold traceByte
  repeat' first
    | with_reducible assumption | with_reducible refine Kept.ite (fun _ => ?_) (fun _ => ?_)
    | (intro x; with_reducible refine Kept.gen (kl := kl) (ko := ko) (ku := ku) (x := x) ?_ ?_; (on_goal 1 => unfold x); (on_goal 2 => (intro _; clear_value x)))
    | (intro x; (have t : Nat := x; clear t); clear_value x) | (intro x) | lift_lets -underBinder
    | with_reducible refine kept_setLane ?_ | with_reducible refine kept_traceAccept ?_
    | fail_if_no_progress (with_reducible refine Kept.upd ?_ rfl rfl rfl rfl rfl rfl) | split
    | with_reducible refine Kept.ofFst ?_ (by assumption) | with_reducible refine Kept.ofSnd ?_ (by assumption)
    | (clear_value *; split)

theorem kept_bipCheck {l : Nat} {wire : Bytes} {carried : Nat} (h0 : Kept kl ko ku s) :
    Kept kl ko ku (bipCheck l wire carried s) := by
  unfold bipCheck
  repeat' first
    | with_reducible assumption | with_reducible refine Kept.ite (fun _ => ?_) (fun _ => ?_)
    | (intro x; with_reducible refine Kept.gen (kl := kl) (ko := ko) (ku := ku) (x := x) ?_ ?_; (on_goal 1 => unfold x); (on_goal 2 => (intro _; clear_value x)))
    | (intro x; (have t : Nat := x; clear t); clear_value x) | (intro x) | lift_lets -underBinder
    | with_reducible refine kept_doIf (fun _ _ => ?_) ?_ | with_reducible refine kept_fabBump ?_
    | with_reducible refine kept_fabInc ?_ | with_reducible refine kept_setLane ?_
    | fail_if_no_progress (with_reducible refine Kept.upd ?_ rfl rfl rfl rfl rfl rfl) | split
    | with_reducible refine Kept.ofFst ?_ (by assumption) | with_reducible refine Kept.ofSnd ?_ (by assumption)
    | (clear_value *; split)

theorem kept_showOverhead {l : Nat} {d : Bytes} (h0 : Kept kl ko ku s) :
    Kept kl ko ku (showOverhead l d s) := by
  unfold showOverhead
  repeat' first
    | with_reducible assumption | with_reducible refine Kept.ite (fun _ => ?_) (fun _ => ?_)
    | (intro x; with_reducible refine Kept.gen (kl := kl) (ko := ko) (ku := ku) (x := x) ?_ ?_; (on_goal 1 => unfold x); (on_goal 2 => (intro _; clear_value x)))
    | (intro x; (have t : Nat := x; clear t); clear_value x) | (intro x) | lift_lets -underBinder
    | with_reducible refine kept_setFld ?_ | with_reducible refine kept_setLaneStat ?_
    | fail_if_no_progress (with_reducible refine Kept.upd ?_ rfl rfl rfl rfl rfl rfl) | split
    | with_reducible refine Kept.ofFst ?_ (by assumption) | with_reducible refine Kept.ofSnd ?_ (by assumption)
    | (clear_value *; split)

theorem kept_storeFrame {l : Nat} {d : Bytes} (h0 : Kept kl ko ku s) :
    Kept kl ko ku (storeFrame l d s) := by
  unfold storeFrame
  repeat' first
    | with_reducible assumption | with_reducible refine Kept.ite (fun _ => ?_) (fun _ => ?_)
    | (intro x; with_reducible refine Kept.gen (kl := kl) (ko := ko) (ku := ku) (x := x) ?_ ?_; (on_goal 1 => unfold x); (on_goal 2 => (intro _; clear_value x)))
    | (intro x; (have t : Nat := x; clear t); clear_value x) | (intro x) | lift_lets -underBinder
    | with_reducible refine kept_setGroup ?_
    | fail_if_no_progress (with_reducible refine Kept.upd ?_ rfl rfl rfl rfl rfl rfl) | split
    | with_reducible refine Kept.ofFst ?_ (by assumption) | with_reducible refine Kept.ofSnd ?_ (by assumption)
    | (clear_value *; split)

theorem kept_heldFrameMore {l : Nat} (h0 : Kept kl ko ku s) :
    Kept kl ko ku (heldFrameMore l s) := by
  unfold heldFrameMore
  repeat' first
    | with_reducible assumption | with_reducible refine Kept.ite (fun _ => ?_) (fun _ => ?_)
    | (intro x; with_reducible refine Kept.gen (kl := kl) (ko := ko) (ku := ku) (x := x) ?_ ?_; (on_goal 1 => unfold x); (on_goal 2 => (intro _; clear_value x)))
    | (intro x; (have t : Nat := x; clear t); clear_value x) | (intro x) | lift_lets -underBinder
    | with_reducible refine kept_doIf (fun _ _ => ?_) ?_ | with_reducible refine kept_setLane ?_
    | with_reducible refine kept_setLaneStat ?_
    | fail_if_no_progress (with_reducible refine Kept.upd ?_ rfl rfl rfl rfl rfl rfl) | split
    | with_reducible refine Kept.ofFst ?_ (by assumption) | with_reducible refine Kept.ofSnd ?_ (by assumption)
    | (clear_value *; split)

theorem kept_gmmFrame {g : Nat} (h0 : Kept kl ko ku s) :
    Kept kl ko ku (gmmFrame g s) := by
  unfold gmmFrame
  repeat' first
    | with_reducible assumption | with_reducible refine Kept.ite (fun _ => ?_) (fun _ => ?_)
    | (intro x; with_reducible refine Kept.gen (kl := kl) (ko := ko) (ku := ku) (x := x) ?_ ?_; (on_goal 1 => unfold x); (on_goal 2 => (intro _; clear_value x)))
    | (intro x; (have t : Nat := x; clear t); clear_value x) | (intro x) | lift_lets -underBinder
    | with_reducible refine kept_setFld ?_ | with_reducible refine kept_setGroup ?_
    | with_reducible refine kept_groupDefect ?_
    | fail_if_no_progress (with_reducible refine Kept.upd ?_ rfl rfl rfl rfl rfl rfl) | split
    | with_reducible refine Kept.ofFst ?_ (by assumption) | with_reducible refine Kept.ofSnd ?_ (by assumption)
    | (clear_value *; split)

theorem kept_rdiPFrame {g : Nat} {seen : Bool} (h0 : Kept kl ko ku s) :
    Kept kl ko ku (rdiPFrame g seen s) := by
  unfold rdiPFrame
  repeat' first
    | with_reducible assumption | with_reducible refine Kept.ite (fun _ => ?_) (fun _ => ?_)
    | (intro x; with_reducible refine Kept.gen (kl := kl) (ko := ko) (ku := ku) (x := x) ?_ ?_; (on_goal 1 => unfold x); (on_goal 2 => (intro _; clear_value x)))
    | (intro x; (have t : Nat := x; clear t); clear_value x) | (intro x) | lift_lets -underBinder
    | with_reducible refine kept_doIf (fun _ _ => ?_) ?_ | with_reducible refine kept_setFld ?_
    | with_reducible refine kept_fabIrq ?_ | with_reducible refine kept_setGroup ?_
    | fail_if_no_progress (with_reducible refine Kept.upd ?_ rfl rfl rfl rfl rfl rfl) | split
    | with_reducible refine Kept.ofFst ?_ (by assumption) | with_reducible refine Kept.ofSnd ?_ (by assumption)
    | (clear_value *; split)

theorem kept_memberFrame {l : Nat} {rdiP : Bool} (h0 : Kept kl ko ku s) :
    Kept kl ko ku (memberFrame l rdiP s) := by
  unfold memberFrame
  repeat' first
    | with_reducible assumption | with_reducible refine Kept.ite (fun _ => ?_) (fun _ => ?_)
    | (intro x; with_reducible refine Kept.gen (kl := kl) (ko := ko) (ku := ku) (x := x) ?_ ?_; (on_goal 1 => unfold x); (on_goal 2 => (intro _; clear_value x)))
    | (intro x; (have t : Nat := x; clear t); clear_value x) | (intro x) | lift_lets -underBinder
    | with_reducible refine kept_doIf (fun _ _ => ?_) ?_ | with_reducible refine kept_gmmFrame ?_
    | with_reducible refine kept_rdiPFrame ?_
    | fail_if_no_progress (with_reducible refine Kept.upd ?_ rfl rfl rfl rfl rfl rfl) | split
    | with_reducible refine Kept.ofFst ?_ (by assumption) | with_reducible refine Kept.ofSnd ?_ (by assumption)
    | (clear_value *; split)

theorem kept_readFrame {l : Nat} {wire : Bytes} (h0 : Kept kl ko ku s) :
    Kept kl ko ku (readFrame l wire s) := by
  unfold readFrame
  repeat' first
    | with_reducible assumption | with_reducible refine Kept.ite (fun _ => ?_) (fun _ => ?_)
    | (intro x; with_reducible refine Kept.gen (kl := kl) (ko := ko) (ku := ku) (x := x) ?_ ?_; (on_goal 1 => unfold x); (on_goal 2 => (intro _; clear_value x)))
    | (intro x; (have t : Nat := x; clear t); clear_value x) | (intro x) | lift_lets -underBinder
    | with_reducible refine kept_doIf (fun _ _ => ?_) ?_ | with_reducible refine kept_fabBump ?_
    | with_reducible refine kept_setLane ?_ | with_reducible refine kept_refreshLane ?_
    | with_reducible refine kept_aisFrame ?_ | with_reducible refine kept_rdiFrame ?_
    | with_reducible refine kept_traceByte ?_ | with_reducible refine kept_bipCheck ?_
    | with_reducible refine kept_showOverhead ?_ | with_reducible refine kept_storeFrame ?_
    | with_reducible refine kept_memberFrame ?_
    | fail_if_no_progress (with_reducible refine Kept.upd ?_ rfl rfl rfl rfl rfl rfl) | split
    | with_reducible refine Kept.ofFst ?_ (by assumption) | with_reducible refine Kept.ofSnd ?_ (by assumption)
    | (clear_value *; split)

theorem kept_enterSync {l : Nat} (h0 : Kept kl ko ku s) :
    Kept kl ko ku (enterSync l s) := by
  unfold enterSync
  repeat' first
    | with_reducible assumption | with_reducible refine Kept.ite (fun _ => ?_) (fun _ => ?_)
    | (intro x; with_reducible refine Kept.gen (kl := kl) (ko := ko) (ku := ku) (x := x) ?_ ?_; (on_goal 1 => unfold x); (on_goal 2 => (intro _; clear_value x)))
    | (intro x; (have t : Nat := x; clear t); clear_value x) | (intro x) | lift_lets -underBinder
    | with_reducible refine kept_setLane ?_ | with_reducible refine kept_setLaneStat ?_
    | fail_if_no_progress (with_reducible refine Kept.upd ?_ rfl rfl rfl rfl rfl rfl) | split
    | with_reducible refine Kept.ofFst ?_ (by assumption) | with_reducible refine Kept.ofSnd ?_ (by assumption)
    | (clear_value *; split)

theorem kept_frameReceive {l pos : Nat} {wire : Bytes} (h0 : Kept kl ko ku s) :
    Kept kl ko ku (frameReceive l pos wire s) := by
  unfold frameReceive
  repeat' first
    | with_reducible assumption | with_reducible refine Kept.ite (fun _ => ?_) (fun _ => ?_)
    | (intro x; with_reducible refine Kept.gen (kl := kl) (ko := ko) (ku := ku) (x := x) ?_ ?_; (on_goal 1 => unfold x); (on_goal 2 => (intro _; clear_value x)))
    | (intro x; (have t : Nat := x; clear t); clear_value x) | (intro x) | lift_lets -underBinder
    | with_reducible refine kept_fabInc ?_ | with_reducible refine kept_setLane ?_
    | with_reducible refine kept_setLaneStat ?_ | with_reducible refine kept_refreshLane ?_
    | with_reducible refine kept_toHunt ?_ | with_reducible refine kept_heldFrameMore ?_
    | with_reducible refine kept_readFrame ?_ | with_reducible refine kept_enterSync ?_
    | fail_if_no_progress (with_reducible refine Kept.upd ?_ rfl rfl rfl rfl rfl rfl) | split
    | with_reducible refine Kept.ofFst ?_ (by assumption) | with_reducible refine Kept.ofSnd ?_ (by assumption)
    | (clear_value *; split)

theorem kept_groupSkew {g : Nat} {l : List MemFrame} (h0 : Kept kl ko ku s) :
    Kept kl ko ku (groupSkew g l s) := by
  unfold groupSkew
  repeat' first
    | with_reducible assumption | with_reducible refine Kept.ite (fun _ => ?_) (fun _ => ?_)
    | (intro x; with_reducible refine Kept.gen (kl := kl) (ko := ko) (ku := ku) (x := x) ?_ ?_; (on_goal 1 => unfold x); (on_goal 2 => (intro _; clear_value x)))
    | (intro x; (have t : Nat := x; clear t); clear_value x) | (intro x) | lift_lets -underBinder
    | with_reducible refine kept_doIf (fun _ _ => ?_) ?_ | with_reducible refine kept_setFld ?_
    | with_reducible refine kept_setGroup ?_ | with_reducible refine kept_groupDefect ?_
    | fail_if_no_progress (with_reducible refine Kept.upd ?_ rfl rfl rfl rfl rfl rfl) | split
    | with_reducible refine Kept.ofFst ?_ (by assumption) | with_reducible refine Kept.ofSnd ?_ (by assumption)
    | (clear_value *; split)

theorem kept_groupParity {g n : Nat} {l : List MemFrame} (h0 : Kept kl ko ku s) :
    Kept kl ko ku (groupParity g n l s) := by
  unfold groupParity
  repeat' first
    | with_reducible assumption | with_reducible refine Kept.ite (fun _ => ?_) (fun _ => ?_)
    | (intro x; with_reducible refine Kept.gen (kl := kl) (ko := ko) (ku := ku) (x := x) ?_ ?_; (on_goal 1 => unfold x); (on_goal 2 => (intro _; clear_value x)))
    | (intro x; (have t : Nat := x; clear t); clear_value x) | (intro x) | lift_lets -underBinder
    | with_reducible refine kept_fabBump ?_ | with_reducible refine kept_setGroup ?_
    | fail_if_no_progress (with_reducible refine Kept.upd ?_ rfl rfl rfl rfl rfl rfl) | split
    | with_reducible refine Kept.ofFst ?_ (by assumption) | with_reducible refine Kept.ofSnd ?_ (by assumption)
    | (clear_value *; split)

theorem kept_groupTake {g n : Nat} {l : List MemFrame} (h0 : Kept kl ko ku s) :
    Kept kl ko ku (groupTake g n l s) := by
  unfold groupTake
  repeat' first
    | with_reducible assumption | with_reducible refine Kept.ite (fun _ => ?_) (fun _ => ?_)
    | (intro x; with_reducible refine Kept.gen (kl := kl) (ko := ko) (ku := ku) (x := x) ?_ ?_; (on_goal 1 => unfold x); (on_goal 2 => (intro _; clear_value x)))
    | (intro x; (have t : Nat := x; clear t); clear_value x) | (intro x) | lift_lets -underBinder
    | with_reducible refine kept_setGroup ?_ | with_reducible refine kept_refreshGroup ?_
    | with_reducible refine kept_groupSkew ?_ | with_reducible refine kept_groupParity ?_
    | fail_if_no_progress (with_reducible refine Kept.upd ?_ rfl rfl rfl rfl rfl rfl) | split
    | with_reducible refine Kept.ofFst ?_ (by assumption) | with_reducible refine Kept.ofSnd ?_ (by assumption)
    | (clear_value *; split)

theorem kept_groupRepeat {g : Nat} (h0 : Kept kl ko ku s) :
    Kept kl ko ku (groupRepeat g s) := by
  unfold groupRepeat
  repeat' first
    | with_reducible assumption | with_reducible refine Kept.ite (fun _ => ?_) (fun _ => ?_)
    | with_reducible refine kept_report ?_ | with_reducible refine kept_fabInc ?_
    | fail_if_no_progress (with_reducible refine Kept.upd ?_ rfl rfl rfl rfl rfl rfl) | split
    | with_reducible refine Kept.ofFst ?_ (by assumption) | with_reducible refine Kept.ofSnd ?_ (by assumption)
    | (clear_value *; split)

theorem kept_groupDrop {g z n : Nat} (h0 : Kept kl ko ku s) :
    Kept kl ko ku (groupDrop g z n s) := by
  unfold groupDrop
  repeat' first
    | with_reducible assumption | with_reducible refine Kept.ite (fun _ => ?_) (fun _ => ?_)
    | (intro x; with_reducible refine Kept.gen (kl := kl) (ko := ko) (ku := ku) (x := x) ?_ ?_; (on_goal 1 => unfold x); (on_goal 2 => (intro _; clear_value x)))
    | (intro x; (have t : Nat := x; clear t); clear_value x) | (intro x) | lift_lets -underBinder
    | with_reducible refine kept_report ?_ | with_reducible refine kept_fabInc ?_
    | with_reducible refine kept_setGroup ?_ | with_reducible refine kept_groupTake ?_
    | fail_if_no_progress (with_reducible refine Kept.upd ?_ rfl rfl rfl rfl rfl rfl) | split
    | with_reducible refine Kept.ofFst ?_ (by assumption) | with_reducible refine Kept.ofSnd ?_ (by assumption)
    | (clear_value *; split)

theorem kept_groupAdvance {g z : Nat} (h0 : Kept kl ko ku s) :
    Kept kl ko ku (groupAdvance g z s) := by
  unfold groupAdvance
  repeat' first
    | with_reducible assumption | with_reducible refine Kept.ite (fun _ => ?_) (fun _ => ?_)
    | (intro x; with_reducible refine Kept.gen (kl := kl) (ko := ko) (ku := ku) (x := x) ?_ ?_; (on_goal 1 => unfold x); (on_goal 2 => (intro _; clear_value x)))
    | (intro x; (have t : Nat := x; clear t); clear_value x) | (intro x) | lift_lets -underBinder
    | with_reducible refine kept_doIf (fun _ _ => ?_) ?_ | with_reducible refine kept_setGroup ?_
    | with_reducible refine kept_refreshGroup ?_ | with_reducible refine kept_groupDefect ?_
    | with_reducible refine kept_groupTake ?_ | with_reducible refine kept_groupRepeat ?_
    | with_reducible refine kept_groupDrop ?_
    | fail_if_no_progress (with_reducible refine Kept.upd ?_ rfl rfl rfl rfl rfl rfl) | split
    | with_reducible refine Kept.ofFst ?_ (by assumption) | with_reducible refine Kept.ofSnd ?_ (by assumption)
    | (clear_value *; split)

theorem kept_groupFrameRead {g : Nat} (h0 : Kept kl ko ku s) :
    Kept kl ko ku (groupFrameRead g s) := by
  unfold groupFrameRead
  repeat' first
    | with_reducible assumption | with_reducible refine Kept.ite (fun _ => ?_) (fun _ => ?_)
    | (intro x; with_reducible refine Kept.gen (kl := kl) (ko := ko) (ku := ku) (x := x) ?_ ?_; (on_goal 1 => unfold x); (on_goal 2 => (intro _; clear_value x)))
    | (intro x; (have t : Nat := x; clear t); clear_value x) | (intro x) | lift_lets -underBinder
    | with_reducible refine kept_setGroup ?_ | with_reducible refine kept_groupAdvance ?_
    | fail_if_no_progress (with_reducible refine Kept.upd ?_ rfl rfl rfl rfl rfl rfl) | split
    | with_reducible refine Kept.ofFst ?_ (by assumption) | with_reducible refine Kept.ofSnd ?_ (by assumption)
    | (clear_value *; split)

theorem kept_setReasm {key : Nat} {c : Reasm} (h0 : Kept kl ko ku s) :
    Kept kl ko ku (setReasm key c s) := by
  unfold setReasm
  repeat' first
    | with_reducible assumption | with_reducible refine Kept.ite (fun _ => ?_) (fun _ => ?_)
    | (intro x; with_reducible refine Kept.gen (kl := kl) (ko := ko) (ku := ku) (x := x) ?_ ?_; (on_goal 1 => unfold x); (on_goal 2 => (intro _; clear_value x)))
    | (intro x; (have t : Nat := x; clear t); clear_value x) | (intro x) | lift_lets -underBinder
    | fail_if_no_progress (with_reducible refine Kept.upd ?_ rfl rfl rfl rfl rfl rfl) | split
    | with_reducible refine Kept.ofFst ?_ (by assumption) | with_reducible refine Kept.ofSnd ?_ (by assumption)
    | (clear_value *; split)

theorem kept_endPacket {id : Nat} {stomp : Bool} (h0 : Kept kl ko ku s) :
    Kept kl ko ku (endPacket id stomp s) := by
  unfold endPacket
  repeat' first
    | with_reducible assumption | with_reducible refine Kept.ite (fun _ => ?_) (fun _ => ?_)
    | (intro x; with_reducible refine Kept.gen (kl := kl) (ko := ko) (ku := ku) (x := x) ?_ ?_; (on_goal 1 => unfold x); (on_goal 2 => (intro _; clear_value x)))
    | (intro x; (have t : Nat := x; clear t); clear_value x) | (intro x) | lift_lets -underBinder
    | with_reducible refine kept_setPkt ?_ | with_reducible refine kept_erasePkt ?_
    | fail_if_no_progress (with_reducible refine Kept.upd ?_ rfl rfl rfl rfl rfl rfl) | split
    | with_reducible refine Kept.ofFst ?_ (by assumption) | with_reducible refine Kept.ofSnd ?_ (by assumption)
    | (clear_value *; split)

theorem kept_stompCtx {key : Nat} (h0 : Kept kl ko ku s) :
    Kept kl ko ku (stompCtx key s) := by
  unfold stompCtx
  repeat' first
    | with_reducible assumption | with_reducible refine Kept.ite (fun _ => ?_) (fun _ => ?_)
    | (intro x; with_reducible refine Kept.gen (kl := kl) (ko := ko) (ku := ku) (x := x) ?_ ?_; (on_goal 1 => unfold x); (on_goal 2 => (intro _; clear_value x)))
    | (intro x; (have t : Nat := x; clear t); clear_value x) | (intro x) | lift_lets -underBinder
    | with_reducible refine kept_doIf (fun _ _ => ?_) ?_ | with_reducible refine kept_setReasm ?_
    | with_reducible refine kept_endPacket ?_
    | fail_if_no_progress (with_reducible refine Kept.upd ?_ rfl rfl rfl rfl rfl rfl) | split
    | with_reducible refine Kept.ofFst ?_ (by assumption) | with_reducible refine Kept.ofSnd ?_ (by assumption)
    | (clear_value *; split)

theorem kept_reasmErr {key : Nat} (h0 : Kept kl ko ku s) :
    Kept kl ko ku (reasmErr key s) := by
  unfold reasmErr
  repeat' first
    | with_reducible assumption | with_reducible refine Kept.ite (fun _ => ?_) (fun _ => ?_)
    | with_reducible refine kept_fabInc ?_ | with_reducible refine kept_stompCtx ?_
    | fail_if_no_progress (with_reducible refine Kept.upd ?_ rfl rfl rfl rfl rfl rfl) | split
    | with_reducible refine Kept.ofFst ?_ (by assumption) | with_reducible refine Kept.ofSnd ?_ (by assumption)
    | (clear_value *; split)

theorem kept_seqCheck {key seq : Nat} (h0 : Kept kl ko ku s) :
    Kept kl ko ku (seqCheck key seq s) := by
  unfold seqCheck
  repeat' first
    | with_reducible assumption | with_reducible refine Kept.ite (fun _ => ?_) (fun _ => ?_)
    | (intro x; with_reducible refine Kept.gen (kl := kl) (ko := ko) (ku := ku) (x := x) ?_ ?_; (on_goal 1 => unfold x); (on_goal 2 => (intro _; clear_value x)))
    | (intro x; (have t : Nat := x; clear t); clear_value x) | (intro x) | lift_lets -underBinder
    | with_reducible refine kept_doIf (fun _ _ => ?_) ?_ | with_reducible refine kept_fabInc ?_
    | fail_if_no_progress (with_reducible refine Kept.upd ?_ rfl rfl rfl rfl rfl rfl) | split
    | with_reducible refine Kept.ofFst ?_ (by assumption) | with_reducible refine Kept.ofSnd ?_ (by assumption)
    | (clear_value *; split)

theorem kept_firstCell {g key : Nat} {c : Bytes} (h0 : Kept kl ko ku s) :
    Kept kl ko ku (firstCell g key c s) := by
  unfold firstCell
  repeat' first
    | with_reducible assumption | with_reducible refine Kept.ite (fun _ => ?_) (fun _ => ?_)
    | (intro x; with_reducible refine Kept.gen (kl := kl) (ko := ko) (ku := ku) (x := x) ?_ ?_; (on_goal 1 => unfold x); (on_goal 2 => (intro _; clear_value x)))
    | (intro x; (have t : Nat := x; clear t); clear_value x) | (intro x) | lift_lets -underBinder
    | with_reducible refine kept_doIf (fun _ _ => ?_) ?_ | with_reducible refine kept_newPkt ?_
    | with_reducible refine kept_arrive ?_ | with_reducible refine kept_fabInc ?_
    | with_reducible refine kept_reasmErr ?_ | with_reducible refine kept_seqCheck ?_
    | fail_if_no_progress (with_reducible refine Kept.upd ?_ rfl rfl rfl rfl rfl rfl) | split
    | with_reducible refine Kept.ofFst ?_ (by assumption) | with_reducible refine Kept.ofSnd ?_ (by assumption)
    | (clear_value *; split)

theorem kept_laterCell {g key : Nat} {c : Bytes} (h0 : Kept kl ko ku s) :
    Kept kl ko ku (laterCell g key c s) := by
  unfold laterCell
  repeat' first
    | with_reducible assumption | with_reducible refine Kept.ite (fun _ => ?_) (fun _ => ?_)
    | (intro x; with_reducible refine Kept.gen (kl := kl) (ko := ko) (ku := ku) (x := x) ?_ ?_; (on_goal 1 => unfold x); (on_goal 2 => (intro _; clear_value x)))
    | (intro x; (have t : Nat := x; clear t); clear_value x) | (intro x) | lift_lets -underBinder
    | with_reducible refine kept_setPkt ?_ | with_reducible refine kept_fabInc ?_
    | with_reducible refine kept_takeBody ?_ | with_reducible refine kept_setReasm ?_
    | with_reducible refine kept_endPacket ?_ | with_reducible refine kept_stompCtx ?_
    | with_reducible refine kept_reasmErr ?_
    | fail_if_no_progress (with_reducible refine Kept.upd ?_ rfl rfl rfl rfl rfl rfl) | split
    | with_reducible refine Kept.ofFst ?_ (by assumption) | with_reducible refine Kept.ofSnd ?_ (by assumption)
    | (clear_value *; split)

theorem kept_routedReceive {l : Nat} {c : Bytes} (h0 : Kept kl ko ku s) :
    Kept kl ko ku (routedReceive l c s) := by
  unfold routedReceive
  repeat' first
    | with_reducible assumption | with_reducible refine Kept.ite (fun _ => ?_) (fun _ => ?_)
    | (intro x; with_reducible refine Kept.gen (kl := kl) (ko := ko) (ku := ku) (x := x) ?_ ?_; (on_goal 1 => unfold x); (on_goal 2 => (intro _; clear_value x)))
    | (intro x; (have t : Nat := x; clear t); clear_value x) | (intro x) | lift_lets -underBinder
    | with_reducible refine kept_doIf (fun _ _ => ?_) ?_ | with_reducible refine kept_fabInc ?_
    | with_reducible refine kept_setReasm ?_ | with_reducible refine kept_reasmErr ?_
    | with_reducible refine kept_firstCell ?_ | with_reducible refine kept_laterCell ?_
    | fail_if_no_progress (with_reducible refine Kept.upd ?_ rfl rfl rfl rfl rfl rfl) | split
    | with_reducible refine Kept.ofFst ?_ (by assumption) | with_reducible refine Kept.ofSnd ?_ (by assumption)
    | (clear_value *; split)

theorem kept_schedReceive {l pos : Nat} {c : Bytes} (h0 : Kept kl ko ku s) :
    Kept kl ko ku (schedReceive l pos c s) := by
  unfold schedReceive
  repeat' first
    | with_reducible assumption | with_reducible refine Kept.ite (fun _ => ?_) (fun _ => ?_)
    | (intro x; with_reducible refine Kept.gen (kl := kl) (ko := ko) (ku := ku) (x := x) ?_ ?_; (on_goal 1 => unfold x); (on_goal 2 => (intro _; clear_value x)))
    | (intro x; (have t : Nat := x; clear t); clear_value x) | (intro x) | lift_lets -underBinder
    | with_reducible refine kept_doIf (fun _ _ => ?_) ?_ | with_reducible refine kept_fabInc ?_
    | fail_if_no_progress (with_reducible refine Kept.upd ?_ rfl rfl rfl rfl rfl rfl) | split
    | with_reducible refine Kept.ofFst ?_ (by assumption) | with_reducible refine Kept.ofSnd ?_ (by assumption)
    | (clear_value *; split)

theorem kept_cellReceive {l pos : Nat} {c : Bytes} (h0 : Kept kl ko ku s) :
    Kept kl ko ku (cellReceive l pos c s) := by
  unfold cellReceive
  repeat' first
    | with_reducible assumption | with_reducible refine Kept.ite (fun _ => ?_) (fun _ => ?_)
    | (intro x; with_reducible refine Kept.gen (kl := kl) (ko := ko) (ku := ku) (x := x) ?_ ?_; (on_goal 1 => unfold x); (on_goal 2 => (intro _; clear_value x)))
    | (intro x; (have t : Nat := x; clear t); clear_value x) | (intro x) | lift_lets -underBinder
    | with_reducible refine kept_fabInc ?_ | with_reducible refine kept_routedReceive ?_
    | with_reducible refine kept_schedReceive ?_
    | fail_if_no_progress (with_reducible refine Kept.upd ?_ rfl rfl rfl rfl rfl rfl) | split
    | with_reducible refine Kept.ofFst ?_ (by assumption) | with_reducible refine Kept.ofSnd ?_ (by assumption)
    | (clear_value *; split)

theorem kept_takeCell {l pos : Nat} {c : Bytes} (h0 : Kept kl ko ku s) :
    Kept kl ko ku (takeCell l pos c s) := by
  unfold takeCell
  repeat' first
    | with_reducible assumption | with_reducible refine Kept.ite (fun _ => ?_) (fun _ => ?_)
    | (intro x; with_reducible refine Kept.gen (kl := kl) (ko := ko) (ku := ku) (x := x) ?_ ?_; (on_goal 1 => unfold x); (on_goal 2 => (intro _; clear_value x)))
    | (intro x; (have t : Nat := x; clear t); clear_value x) | (intro x) | lift_lets -underBinder
    | with_reducible refine kept_setGroup ?_ | with_reducible refine kept_cellReceive ?_
    | fail_if_no_progress (with_reducible refine Kept.upd ?_ rfl rfl rfl rfl rfl rfl) | split
    | with_reducible refine Kept.ofFst ?_ (by assumption) | with_reducible refine Kept.ofSnd ?_ (by assumption)
    | (clear_value *; split)

theorem kept_reasmTimeout {key : Nat} (h0 : Kept kl ko ku s) :
    Kept kl ko ku (reasmTimeout key s) := by
  unfold reasmTimeout
  repeat' first
    | with_reducible assumption | with_reducible refine Kept.ite (fun _ => ?_) (fun _ => ?_)
    | (intro x; with_reducible refine Kept.gen (kl := kl) (ko := ko) (ku := ku) (x := x) ?_ ?_; (on_goal 1 => unfold x); (on_goal 2 => (intro _; clear_value x)))
    | (intro x; (have t : Nat := x; clear t); clear_value x) | (intro x) | lift_lets -underBinder
    | with_reducible refine kept_fabInc ?_ | with_reducible refine kept_stompCtx ?_
    | fail_if_no_progress (with_reducible refine Kept.upd ?_ rfl rfl rfl rfl rfl rfl) | split
    | with_reducible refine Kept.ofFst ?_ (by assumption) | with_reducible refine Kept.ofSnd ?_ (by assumption)
    | (clear_value *; split)

theorem kept_msgReceive {l : Nat} {w : Word} (h0 : Kept kl ko ku s) :
    Kept kl ko ku (msgReceive l w s) := by
  unfold msgReceive
  repeat' first
    | with_reducible assumption | with_reducible refine Kept.ite (fun _ => ?_) (fun _ => ?_)
    | (intro x; with_reducible refine Kept.gen (kl := kl) (ko := ko) (ku := ku) (x := x) ?_ ?_; (on_goal 1 => unfold x); (on_goal 2 => (intro _; clear_value x)))
    | (intro x; (have t : Nat := x; clear t); clear_value x) | (intro x) | lift_lets -underBinder
    | with_reducible refine kept_fabInc ?_ | with_reducible refine kept_takeCredit ?_
    | fail_if_no_progress (with_reducible refine Kept.upd ?_ rfl rfl rfl rfl rfl rfl) | split
    | with_reducible refine Kept.ofFst ?_ (by assumption) | with_reducible refine Kept.ofSnd ?_ (by assumption)
    | (clear_value *; split)

theorem kept_takeMsg {l : Nat} {w : Word} (h0 : Kept kl ko ku s) :
    Kept kl ko ku (takeMsg l w s) := by
  unfold takeMsg
  repeat' first
    | with_reducible assumption | with_reducible refine Kept.ite (fun _ => ?_) (fun _ => ?_)
    | (intro x; with_reducible refine Kept.gen (kl := kl) (ko := ko) (ku := ku) (x := x) ?_ ?_; (on_goal 1 => unfold x); (on_goal 2 => (intro _; clear_value x)))
    | (intro x; (have t : Nat := x; clear t); clear_value x) | (intro x) | lift_lets -underBinder
    | with_reducible refine kept_setGroup ?_ | with_reducible refine kept_msgReceive ?_
    | fail_if_no_progress (with_reducible refine Kept.upd ?_ rfl rfl rfl rfl rfl rfl) | split
    | with_reducible refine Kept.ofFst ?_ (by assumption) | with_reducible refine Kept.ofSnd ?_ (by assumption)
    | (clear_value *; split)

theorem kept_degJudge {l : Nat} (h0 : Kept kl ko ku s) :
    Kept kl ko ku (degJudge l s) := by
  unfold degJudge
  repeat' first
    | with_reducible assumption | with_reducible refine Kept.ite (fun _ => ?_) (fun _ => ?_)
    | (intro x; with_reducible refine Kept.gen (kl := kl) (ko := ko) (ku := ku) (x := x) ?_ ?_; (on_goal 1 => unfold x); (on_goal 2 => (intro _; clear_value x)))
    | (intro x; (have t : Nat := x; clear t); clear_value x) | (intro x) | lift_lets -underBinder
    | with_reducible refine kept_doIf (fun _ _ => ?_) ?_ | with_reducible refine kept_report ?_
    | with_reducible refine kept_fabIrq ?_ | with_reducible refine kept_setLaneStat ?_
    | fail_if_no_progress (with_reducible refine Kept.upd ?_ rfl rfl rfl rfl rfl rfl) | split
    | with_reducible refine Kept.ofFst ?_ (by assumption) | with_reducible refine Kept.ofSnd ?_ (by assumption)
    | (clear_value *; split)

theorem kept_latchAll (h : Kept kl ko ku s) : Kept kl ko ku (latchAll s) :=
  kept_forEach (fun _ _ hs => kept_wr _ _ hs) ⟨h.regs.filter _, h.queue, h.owner, h.erqF, h.erqT, h.said⟩

theorem kept_pmLatch (h0 : Kept kl ko ku s) :
    Kept kl ko ku (pmLatch s) := by
  unfold pmLatch
  repeat' first
    | with_reducible assumption | with_reducible refine Kept.ite (fun _ => ?_) (fun _ => ?_)
    | (intro x; with_reducible refine Kept.gen (kl := kl) (ko := ko) (ku := ku) (x := x) ?_ ?_; (on_goal 1 => unfold x); (on_goal 2 => (intro _; clear_value x)))
    | (intro x; (have t : Nat := x; clear t); clear_value x) | (intro x) | lift_lets -underBinder
    | with_reducible refine kept_forEach (fun _ _ _ => ?_) ?_ | with_reducible apply kept_wr
    | with_reducible refine kept_setFld ?_ | with_reducible refine kept_degJudge ?_
    | with_reducible refine kept_latchAll ?_
    | fail_if_no_progress (with_reducible refine Kept.upd ?_ rfl rfl rfl rfl rfl rfl) | split
    | with_reducible refine Kept.ofFst ?_ (by assumption) | with_reducible refine Kept.ofSnd ?_ (by assumption)
    | (clear_value *; split)

end Sys2Proof.Machine
end

