-- ==== Sys2Proof/Laws/KeptTwin.lean ====
section
/-! SUPPORT. Every operation of the modules named below keeps what Kept says:
Power, Twin, Lock, Update. -/

namespace Sys2Proof.Machine

set_option linter.unreachableTactic false
set_option linter.unusedTactic false
set_option linter.unusedVariables false

variable {kl : List Instr} {ko : List OwnerCfg} {ku : List Out} {s : State}

theorem kept_pwrIrq (h0 : Kept kl ko ku s) :
    Kept kl ko ku (pwrIrq s) := by
  unfold pwrIrq
  repeat' first
    | with_reducible assumption | with_reducible refine Kept.ite (fun _ => ?_) (fun _ => ?_)
    | with_reducible refine kept_doIf (fun _ _ => ?_) ?_ | with_reducible refine kept_raiseBlock ?_
    | fail_if_no_progress (with_reducible refine Kept.upd ?_ rfl rfl rfl rfl rfl rfl) | split
    | with_reducible refine Kept.ofFst ?_ (by assumption) | with_reducible refine Kept.ofSnd ?_ (by assumption)
    | (clear_value *; split)

theorem kept_setRail {d : Nat} {r : RailSt} (h0 : Kept kl ko ku s) :
    Kept kl ko ku (setRail d r s) := by
  unfold setRail
  repeat' first
    | with_reducible assumption | with_reducible refine Kept.ite (fun _ => ?_) (fun _ => ?_)
    | (intro x; with_reducible refine Kept.gen (kl := kl) (ko := ko) (ku := ku) (x := x) ?_ ?_; (on_goal 1 => unfold x); (on_goal 2 => (intro _; clear_value x)))
    | (intro x; (have t : Nat := x; clear t); clear_value x) | (intro x) | lift_lets -underBinder
    | fail_if_no_progress (with_reducible refine Kept.upd ?_ rfl rfl rfl rfl rfl rfl) | split
    | with_reducible refine Kept.ofFst ?_ (by assumption) | with_reducible refine Kept.ofSnd ?_ (by assumption)
    | (clear_value *; split)

theorem kept_askRail {d v tries : Nat} (h0 : Kept kl ko ku s) :
    Kept kl ko ku (askRail d v tries s) := by
  unfold askRail
  repeat' first
    | with_reducible assumption | with_reducible refine Kept.ite (fun _ => ?_) (fun _ => ?_)
    | (intro x; with_reducible refine Kept.gen (kl := kl) (ko := ko) (ku := ku) (x := x) ?_ ?_; (on_goal 1 => unfold x); (on_goal 2 => (intro _; clear_value x)))
    | (intro x; (have t : Nat := x; clear t); clear_value x) | (intro x) | lift_lets -underBinder
    | with_reducible apply kept_emit | with_reducible refine kept_setFld ?_ | with_reducible refine kept_setRail ?_
    | fail_if_no_progress (with_reducible refine Kept.upd ?_ rfl rfl rfl rfl rfl rfl) | split
    | with_reducible refine Kept.ofFst ?_ (by assumption) | with_reducible refine Kept.ofSnd ?_ (by assumption)
    | (clear_value *; split)

theorem kept_requestRail {d v : Nat} (h0 : Kept kl ko ku s) :
    Kept kl ko ku (requestRail d v s) := by
  unfold requestRail
  repeat' first
    | with_reducible assumption | with_reducible refine Kept.ite (fun _ => ?_) (fun _ => ?_)
    | with_reducible refine kept_askRail ?_
    | fail_if_no_progress (with_reducible refine Kept.upd ?_ rfl rfl rfl rfl rfl rfl) | split
    | with_reducible refine Kept.ofFst ?_ (by assumption) | with_reducible refine Kept.ofSnd ?_ (by assumption)
    | (clear_value *; split)

theorem kept_avsReadback {d mv : Nat} (h0 : Kept kl ko ku s) :
    Kept kl ko ku (avsReadback d mv s) := by
  unfold avsReadback
  repeat' first
    | with_reducible assumption | with_reducible refine Kept.ite (fun _ => ?_) (fun _ => ?_)
    | (intro x; with_reducible refine Kept.gen (kl := kl) (ko := ko) (ku := ku) (x := x) ?_ ?_; (on_goal 1 => unfold x); (on_goal 2 => (intro _; clear_value x)))
    | (intro x; (have t : Nat := x; clear t); clear_value x) | (intro x) | lift_lets -underBinder
    | with_reducible refine kept_setFld ?_ | with_reducible refine kept_inc ?_ | with_reducible refine kept_report ?_
    | with_reducible refine kept_pwrIrq ?_ | with_reducible refine kept_setRail ?_
    | with_reducible refine kept_askRail ?_
    | fail_if_no_progress (with_reducible refine Kept.upd ?_ rfl rfl rfl rfl rfl rfl) | split
    | with_reducible refine Kept.ofFst ?_ (by assumption) | with_reducible refine Kept.ofSnd ?_ (by assumption)
    | (clear_value *; split)

theorem kept_railUp {d rin rout : Nat} (h0 : Kept kl ko ku s) :
    Kept kl ko ku (railUp d rin rout s) := by
  unfold railUp
  repeat' first
    | with_reducible assumption | with_reducible refine Kept.ite (fun _ => ?_) (fun _ => ?_)
    | (intro x; with_reducible refine Kept.gen (kl := kl) (ko := ko) (ku := ku) (x := x) ?_ ?_; (on_goal 1 => unfold x); (on_goal 2 => (intro _; clear_value x)))
    | (intro x; (have t : Nat := x; clear t); clear_value x) | (intro x) | lift_lets -underBinder
    | with_reducible refine kept_inc ?_ | with_reducible refine kept_requestRail ?_
    | fail_if_no_progress (with_reducible refine Kept.upd ?_ rfl rfl rfl rfl rfl rfl) | split
    | with_reducible refine Kept.ofFst ?_ (by assumption) | with_reducible refine Kept.ofSnd ?_ (by assumption)
    | (clear_value *; split)

theorem kept_railDown {rin rout : Nat} (h0 : Kept kl ko ku s) :
    Kept kl ko ku (railDown rin rout s) := by
  unfold railDown
  repeat' first
    | with_reducible assumption | with_reducible refine Kept.ite (fun _ => ?_) (fun _ => ?_)
    | (intro x; with_reducible refine Kept.gen (kl := kl) (ko := ko) (ku := ku) (x := x) ?_ ?_; (on_goal 1 => unfold x); (on_goal 2 => (intro _; clear_value x)))
    | (intro x; (have t : Nat := x; clear t); clear_value x) | (intro x) | lift_lets -underBinder
    | with_reducible refine kept_inc ?_ | with_reducible refine kept_requestRail ?_
    | fail_if_no_progress (with_reducible refine Kept.upd ?_ rfl rfl rfl rfl rfl rfl) | split
    | with_reducible refine Kept.ofFst ?_ (by assumption) | with_reducible refine Kept.ofSnd ?_ (by assumption)
    | (clear_value *; split)

theorem kept_railEval {rin rout : Nat} (h0 : Kept kl ko ku s) :
    Kept kl ko ku (railEval rin rout s) := by
  unfold railEval
  repeat' first
    | with_reducible assumption | with_reducible refine Kept.ite (fun _ => ?_) (fun _ => ?_)
    | (intro x; with_reducible refine Kept.gen (kl := kl) (ko := ko) (ku := ku) (x := x) ?_ ?_; (on_goal 1 => unfold x); (on_goal 2 => (intro _; clear_value x)))
    | (intro x; (have t : Nat := x; clear t); clear_value x) | (intro x) | lift_lets -underBinder
    | with_reducible refine kept_forEach (fun _ _ _ => ?_) ?_ | with_reducible refine kept_setFld ?_
    | with_reducible refine kept_railUp ?_ | with_reducible refine kept_railDown ?_
    | fail_if_no_progress (with_reducible refine Kept.upd ?_ rfl rfl rfl rfl rfl rfl) | split
    | with_reducible refine Kept.ofFst ?_ (by assumption) | with_reducible refine Kept.ofSnd ?_ (by assumption)
    | (clear_value *; split)

theorem kept_railTop (h0 : Kept kl ko ku s) :
    Kept kl ko ku (railTop s) := by
  unfold railTop
  repeat' first
    | with_reducible assumption | with_reducible refine Kept.ite (fun _ => ?_) (fun _ => ?_)
    | (intro x; with_reducible refine Kept.gen (kl := kl) (ko := ko) (ku := ku) (x := x) ?_ ?_; (on_goal 1 => unfold x); (on_goal 2 => (intro _; clear_value x)))
    | (intro x; (have t : Nat := x; clear t); clear_value x) | (intro x) | lift_lets -underBinder
    | with_reducible refine kept_forEach (fun _ _ _ => ?_) ?_ | with_reducible refine kept_setFld ?_
    | with_reducible refine kept_requestRail ?_
    | fail_if_no_progress (with_reducible refine Kept.upd ?_ rfl rfl rfl rfl rfl rfl) | split
    | with_reducible refine Kept.ofFst ?_ (by assumption) | with_reducible refine Kept.ofSnd ?_ (by assumption)
    | (clear_value *; split)

theorem kept_trip {d : Nat} (h0 : Kept kl ko ku s) :
    Kept kl ko ku (trip d s) := by
  unfold trip
  repeat' first
    | with_reducible assumption | with_reducible refine Kept.ite (fun _ => ?_) (fun _ => ?_)
    | (intro x; with_reducible refine Kept.gen (kl := kl) (ko := ko) (ku := ku) (x := x) ?_ ?_; (on_goal 1 => unfold x); (on_goal 2 => (intro _; clear_value x)))
    | (intro x; (have t : Nat := x; clear t); clear_value x) | (intro x) | lift_lets -underBinder
    | with_reducible refine kept_doIf (fun _ _ => ?_) ?_ | with_reducible refine kept_forEach (fun _ _ _ => ?_) ?_
    | with_reducible refine kept_report ?_ | with_reducible refine kept_linkAndSched ?_
    | with_reducible refine kept_requestRail ?_
    | fail_if_no_progress (with_reducible refine Kept.upd ?_ rfl rfl rfl rfl rfl rfl) | split
    | with_reducible refine Kept.ofFst ?_ (by assumption) | with_reducible refine Kept.ofSnd ?_ (by assumption)
    | (clear_value *; split)

theorem kept_thermFlag {f : Fld} {thr : Nat} {sev : Sev} {code : Nat} (h0 : Kept kl ko ku s) :
    Kept kl ko ku (thermFlag f thr sev code s) := by
  unfold thermFlag
  repeat' first
    | with_reducible assumption | with_reducible refine Kept.ite (fun _ => ?_) (fun _ => ?_)
    | (intro x; with_reducible refine Kept.gen (kl := kl) (ko := ko) (ku := ku) (x := x) ?_ ?_; (on_goal 1 => unfold x); (on_goal 2 => (intro _; clear_value x)))
    | (intro x; (have t : Nat := x; clear t); clear_value x) | (intro x) | lift_lets -underBinder
    | with_reducible refine kept_doIf (fun _ _ => ?_) ?_ | with_reducible refine kept_forEach (fun _ _ _ => ?_) ?_
    | with_reducible refine kept_setFld ?_ | with_reducible refine kept_report ?_
    | with_reducible refine kept_pwrIrq ?_
    | fail_if_no_progress (with_reducible refine Kept.upd ?_ rfl rfl rfl rfl rfl rfl) | split
    | with_reducible refine Kept.ofFst ?_ (by assumption) | with_reducible refine Kept.ofSnd ?_ (by assumption)
    | (clear_value *; split)

theorem kept_thermJudge (h0 : Kept kl ko ku s) :
    Kept kl ko ku (thermJudge s) := by
  unfold thermJudge
  repeat' first
    | with_reducible assumption | with_reducible refine Kept.ite (fun _ => ?_) (fun _ => ?_)
    | (intro x; with_reducible refine Kept.gen (kl := kl) (ko := ko) (ku := ku) (x := x) ?_ ?_; (on_goal 1 => unfold x); (on_goal 2 => (intro _; clear_value x)))
    | (intro x; (have t : Nat := x; clear t); clear_value x) | (intro x) | lift_lets -underBinder
    | with_reducible refine kept_trip ?_ | with_reducible refine kept_thermFlag ?_
    | fail_if_no_progress (with_reducible refine Kept.upd ?_ rfl rfl rfl rfl rfl rfl) | split
    | with_reducible refine Kept.ofFst ?_ (by assumption) | with_reducible refine Kept.ofSnd ?_ (by assumption)
    | (clear_value *; split)

theorem kept_showTemps {f t : Int} (h0 : Kept kl ko ku s) :
    Kept kl ko ku (showTemps f t s) := by
  unfold showTemps
  repeat' first
    | with_reducible assumption | with_reducible refine Kept.ite (fun _ => ?_) (fun _ => ?_)
    | with_reducible refine kept_setFld ?_
    | fail_if_no_progress (with_reducible refine Kept.upd ?_ rfl rfl rfl rfl rfl rfl) | split
    | with_reducible refine Kept.ofFst ?_ (by assumption) | with_reducible refine Kept.ofSnd ?_ (by assumption)
    | (clear_value *; split)

theorem kept_thermalStale (h0 : Kept kl ko ku s) :
    Kept kl ko ku (thermalStale s) := by
  unfold thermalStale
  repeat' first
    | with_reducible assumption | with_reducible refine Kept.ite (fun _ => ?_) (fun _ => ?_)
    | with_reducible refine kept_setFld ?_ | with_reducible refine kept_thermJudge ?_
    | with_reducible refine kept_showTemps ?_
    | fail_if_no_progress (with_reducible refine Kept.upd ?_ rfl rfl rfl rfl rfl rfl) | split
    | with_reducible refine Kept.ofFst ?_ (by assumption) | with_reducible refine Kept.ofSnd ?_ (by assumption)
    | (clear_value *; split)

theorem kept_markSensor {temps : List Int} {i : Nat} (h0 : Kept kl ko ku s) :
    Kept kl ko ku (markSensor temps i s) := by
  unfold markSensor
  repeat' first
    | with_reducible assumption | with_reducible refine Kept.ite (fun _ => ?_) (fun _ => ?_)
    | (intro x; with_reducible refine Kept.gen (kl := kl) (ko := ko) (ku := ku) (x := x) ?_ ?_; (on_goal 1 => unfold x); (on_goal 2 => (intro _; clear_value x)))
    | (intro x; (have t : Nat := x; clear t); clear_value x) | (intro x) | lift_lets -underBinder
    | with_reducible refine kept_setFld ?_ | with_reducible refine kept_report ?_
    | fail_if_no_progress (with_reducible refine Kept.upd ?_ rfl rfl rfl rfl rfl rfl) | split
    | with_reducible refine Kept.ofFst ?_ (by assumption) | with_reducible refine Kept.ofSnd ?_ (by assumption)
    | (clear_value *; split)

theorem kept_thermalRead {raw : List Int} (h0 : Kept kl ko ku s) :
    Kept kl ko ku (thermalRead raw s) := by
  unfold thermalRead
  repeat' first
    | with_reducible assumption | with_reducible refine Kept.ite (fun _ => ?_) (fun _ => ?_)
    | (intro x; with_reducible refine Kept.gen (kl := kl) (ko := ko) (ku := ku) (x := x) ?_ ?_; (on_goal 1 => unfold x); (on_goal 2 => (intro _; clear_value x)))
    | (intro x; (have t : Nat := x; clear t); clear_value x) | (intro x) | lift_lets -underBinder
    | with_reducible refine kept_forEach (fun _ _ _ => ?_) ?_ | with_reducible refine kept_setFld ?_
    | with_reducible refine kept_thermJudge ?_ | with_reducible refine kept_showTemps ?_
    | with_reducible refine kept_markSensor ?_
    | fail_if_no_progress (with_reducible refine Kept.upd ?_ rfl rfl rfl rfl rfl rfl) | split
    | with_reducible refine Kept.ofFst ?_ (by assumption) | with_reducible refine Kept.ofSnd ?_ (by assumption)
    | (clear_value *; split)

theorem kept_throttled (h0 : Kept kl ko ku s) :
    Kept kl ko ku (throttled s) := by
  unfold throttled
  repeat' first
    | with_reducible assumption | with_reducible refine Kept.ite (fun _ => ?_) (fun _ => ?_)
    | (intro x; with_reducible refine Kept.gen (kl := kl) (ko := ko) (ku := ku) (x := x) ?_ ?_; (on_goal 1 => unfold x); (on_goal 2 => (intro _; clear_value x)))
    | (intro x; (have t : Nat := x; clear t); clear_value x) | (intro x) | lift_lets -underBinder
    | with_reducible refine kept_bump ?_
    | fail_if_no_progress (with_reducible refine Kept.upd ?_ rfl rfl rfl rfl rfl rfl) | split
    | with_reducible refine Kept.ofFst ?_ (by assumption) | with_reducible refine Kept.ofSnd ?_ (by assumption)
    | (clear_value *; split)

theorem kept_ptpMfBoundary {phaseIn phaseOut : Nat} (h0 : Kept kl ko ku s) :
    Kept kl ko ku (ptpMfBoundary phaseIn phaseOut s) := by
  unfold ptpMfBoundary
  repeat' first
    | with_reducible assumption | with_reducible refine Kept.ite (fun _ => ?_) (fun _ => ?_)
    | (intro x; with_reducible refine Kept.gen (kl := kl) (ko := ko) (ku := ku) (x := x) ?_ ?_; (on_goal 1 => unfold x); (on_goal 2 => (intro _; clear_value x)))
    | (intro x; (have t : Nat := x; clear t); clear_value x) | (intro x) | lift_lets -underBinder
    | with_reducible refine kept_railEval ?_ | with_reducible refine kept_railTop ?_
    | with_reducible refine kept_thermJudge ?_ | with_reducible refine kept_throttled ?_
    | fail_if_no_progress (with_reducible refine Kept.upd ?_ rfl rfl rfl rfl rfl rfl) | split
    | with_reducible refine Kept.ofFst ?_ (by assumption) | with_reducible refine Kept.ofSnd ?_ (by assumption)
    | (clear_value *; split)

theorem kept_domainSleep {d : Domain} (h0 : Kept kl ko ku s) :
    Kept kl ko ku (domainSleep d s) := by
  unfold domainSleep
  repeat' first
    | with_reducible assumption | with_reducible refine Kept.ite (fun _ => ?_) (fun _ => ?_)
    | (intro x; with_reducible refine Kept.gen (kl := kl) (ko := ko) (ku := ku) (x := x) ?_ ?_; (on_goal 1 => unfold x); (on_goal 2 => (intro _; clear_value x)))
    | (intro x; (have t : Nat := x; clear t); clear_value x) | (intro x) | lift_lets -underBinder
    | with_reducible refine kept_doIf (fun _ _ => ?_) ?_ | with_reducible refine kept_setFld ?_
    | fail_if_no_progress (with_reducible refine Kept.upd ?_ rfl rfl rfl rfl rfl rfl) | split
    | with_reducible refine Kept.ofFst ?_ (by assumption) | with_reducible refine Kept.ofSnd ?_ (by assumption)
    | (clear_value *; split)

theorem kept_wakeDone {d : Domain} {k tookNs : Nat} (h0 : Kept kl ko ku s) :
    Kept kl ko ku (wakeDone d k tookNs s) := by
  unfold wakeDone
  repeat' first
    | with_reducible assumption | with_reducible refine Kept.ite (fun _ => ?_) (fun _ => ?_)
    | (intro x; with_reducible refine Kept.gen (kl := kl) (ko := ko) (ku := ku) (x := x) ?_ ?_; (on_goal 1 => unfold x); (on_goal 2 => (intro _; clear_value x)))
    | (intro x; (have t : Nat := x; clear t); clear_value x) | (intro x) | lift_lets -underBinder
    | with_reducible refine kept_doIf (fun _ _ => ?_) ?_ | with_reducible refine kept_inc ?_
    | with_reducible refine kept_report ?_
    | fail_if_no_progress (with_reducible refine Kept.upd ?_ rfl rfl rfl rfl rfl rfl) | split
    | with_reducible refine Kept.ofFst ?_ (by assumption) | with_reducible refine Kept.ofSnd ?_ (by assumption)
    | (clear_value *; split)

theorem kept_reachedS0 {d : Domain} (h0 : Kept kl ko ku s) :
    Kept kl ko ku (reachedS0 d s) := by
  unfold reachedS0
  repeat' first
    | with_reducible assumption | with_reducible refine Kept.ite (fun _ => ?_) (fun _ => ?_)
    | with_reducible refine kept_forEach (fun _ _ _ => ?_) ?_ | with_reducible refine kept_refreshGroup ?_
    | with_reducible refine kept_laneStart ?_
    | fail_if_no_progress (with_reducible refine Kept.upd ?_ rfl rfl rfl rfl rfl rfl) | split
    | with_reducible refine Kept.ofFst ?_ (by assumption) | with_reducible refine Kept.ofSnd ?_ (by assumption)
    | (clear_value *; split)

theorem kept_domainWake {d : Domain} {tookNs : Nat} (h0 : Kept kl ko ku s) :
    Kept kl ko ku (domainWake d tookNs s) := by
  unfold domainWake
  repeat' first
    | with_reducible assumption | with_reducible refine Kept.ite (fun _ => ?_) (fun _ => ?_)
    | (intro x; with_reducible refine Kept.gen (kl := kl) (ko := ko) (ku := ku) (x := x) ?_ ?_; (on_goal 1 => unfold x); (on_goal 2 => (intro _; clear_value x)))
    | (intro x; (have t : Nat := x; clear t); clear_value x) | (intro x) | lift_lets -underBinder
    | with_reducible refine kept_setFld ?_ | with_reducible refine kept_wakeDone ?_
    | with_reducible refine kept_reachedS0 ?_
    | fail_if_no_progress (with_reducible refine Kept.upd ?_ rfl rfl rfl rfl rfl rfl) | split
    | with_reducible refine Kept.ofFst ?_ (by assumption) | with_reducible refine Kept.ofSnd ?_ (by assumption)
    | (clear_value *; split)

theorem kept_budgetEffect {off : Nat} (h0 : Kept kl ko ku s) :
    Kept kl ko ku (budgetEffect off s) := by
  unfold budgetEffect
  repeat' first
    | with_reducible assumption | with_reducible refine Kept.ite (fun _ => ?_) (fun _ => ?_)
    | (intro x; with_reducible refine Kept.gen (kl := kl) (ko := ko) (ku := ku) (x := x) ?_ ?_; (on_goal 1 => unfold x); (on_goal 2 => (intro _; clear_value x)))
    | (intro x; (have t : Nat := x; clear t); clear_value x) | (intro x) | lift_lets -underBinder
    | with_reducible refine kept_doIf (fun _ _ => ?_) ?_ | with_reducible refine kept_setFld ?_
    | with_reducible refine kept_inc ?_ | with_reducible refine kept_reachedS0 ?_
    | fail_if_no_progress (with_reducible refine Kept.upd ?_ rfl rfl rfl rfl rfl rfl) | split
    | with_reducible refine Kept.ofFst ?_ (by assumption) | with_reducible refine Kept.ofSnd ?_ (by assumption)
    | (clear_value *; split)

theorem kept_ppsOut (h0 : Kept kl ko ku s) :
    Kept kl ko ku (ppsOut s) := by
  unfold ppsOut
  repeat' first
    | with_reducible assumption | with_reducible refine Kept.ite (fun _ => ?_) (fun _ => ?_)
    | (intro x; with_reducible refine Kept.gen (kl := kl) (ko := ko) (ku := ku) (x := x) ?_ ?_; (on_goal 1 => unfold x); (on_goal 2 => (intro _; clear_value x)))
    | (intro x; (have t : Nat := x; clear t); clear_value x) | (intro x) | lift_lets -underBinder
    | with_reducible apply kept_emit | fail_if_no_progress (with_reducible refine Kept.upd ?_ rfl rfl rfl rfl rfl rfl)
    | split | with_reducible refine Kept.ofFst ?_ (by assumption) | with_reducible refine Kept.ofSnd ?_ (by assumption)
    | (clear_value *; split)

theorem kept_ppsInEdge (h0 : Kept kl ko ku s) :
    Kept kl ko ku (ppsInEdge s) := by
  unfold ppsInEdge
  repeat' first
    | with_reducible assumption | with_reducible refine Kept.ite (fun _ => ?_) (fun _ => ?_)
    | (intro x; with_reducible refine Kept.gen (kl := kl) (ko := ko) (ku := ku) (x := x) ?_ ?_; (on_goal 1 => unfold x); (on_goal 2 => (intro _; clear_value x)))
    | (intro x; (have t : Nat := x; clear t); clear_value x) | (intro x) | lift_lets -underBinder
    | with_reducible apply kept_wr | with_reducible refine kept_setFld ?_ | with_reducible refine kept_burinPps ?_
    | fail_if_no_progress (with_reducible refine Kept.upd ?_ rfl rfl rfl rfl rfl rfl) | split
    | with_reducible refine Kept.ofFst ?_ (by assumption) | with_reducible refine Kept.ofSnd ?_ (by assumption)
    | (clear_value *; split)

theorem kept_ppsLoss (h0 : Kept kl ko ku s) :
    Kept kl ko ku (ppsLoss s) := by
  unfold ppsLoss
  repeat' first
    | with_reducible assumption | with_reducible refine Kept.ite (fun _ => ?_) (fun _ => ?_)
    | with_reducible refine kept_setFld ?_ | with_reducible refine kept_report ?_
    | with_reducible refine kept_pwrIrq ?_
    | fail_if_no_progress (with_reducible refine Kept.upd ?_ rfl rfl rfl rfl rfl rfl) | split
    | with_reducible refine Kept.ofFst ?_ (by assumption) | with_reducible refine Kept.ofSnd ?_ (by assumption)
    | (clear_value *; split)

theorem kept_twinIrq (h0 : Kept kl ko ku s) :
    Kept kl ko ku (twinIrq s) := by
  unfold twinIrq
  repeat' first
    | with_reducible assumption | with_reducible refine Kept.ite (fun _ => ?_) (fun _ => ?_)
    | with_reducible refine kept_doIf (fun _ _ => ?_) ?_ | with_reducible refine kept_raiseBlock ?_
    | fail_if_no_progress (with_reducible refine Kept.upd ?_ rfl rfl rfl rfl rfl rfl) | split
    | with_reducible refine Kept.ofFst ?_ (by assumption) | with_reducible refine Kept.ofSnd ?_ (by assumption)
    | (clear_value *; split)

theorem kept_twinLog {code : Nat} {items : List (Nat × Nat)} (h0 : Kept kl ko ku s) :
    Kept kl ko ku (twinLog code items s) := by
  unfold twinLog
  repeat' first
    | with_reducible assumption | with_reducible refine Kept.ite (fun _ => ?_) (fun _ => ?_)
    | with_reducible refine kept_report ?_ | with_reducible refine kept_twinIrq ?_
    | fail_if_no_progress (with_reducible refine Kept.upd ?_ rfl rfl rfl rfl rfl rfl) | split
    | with_reducible refine Kept.ofFst ?_ (by assumption) | with_reducible refine Kept.ofSnd ?_ (by assumption)
    | (clear_value *; split)

theorem kept_enterActive {since : Nat} (h0 : Kept kl ko ku s) :
    Kept kl ko ku (enterActive since s) := by
  unfold enterActive
  repeat' first
    | with_reducible assumption | with_reducible refine Kept.ite (fun _ => ?_) (fun _ => ?_)
    | with_reducible refine kept_setFld ?_ | with_reducible refine kept_inc ?_
    | with_reducible refine kept_twinTo ?_
    | fail_if_no_progress (with_reducible refine Kept.upd ?_ rfl rfl rfl rfl rfl rfl) | split
    | with_reducible refine Kept.ofFst ?_ (by assumption) | with_reducible refine Kept.ofSnd ?_ (by assumption)
    | (clear_value *; split)

theorem kept_switchover {cause : Nat} (h0 : Kept kl ko ku s) :
    Kept kl ko ku (switchover cause s) := by
  unfold switchover
  repeat' first
    | with_reducible assumption | with_reducible refine Kept.ite (fun _ => ?_) (fun _ => ?_)
    | with_reducible refine kept_twinLog ?_
    | fail_if_no_progress (with_reducible refine Kept.upd ?_ rfl rfl rfl rfl rfl rfl) | split
    | with_reducible refine Kept.ofFst ?_ (by assumption) | with_reducible refine Kept.ofSnd ?_ (by assumption)
    | (clear_value *; split)

theorem kept_dualActive (h0 : Kept kl ko ku s) :
    Kept kl ko ku (dualActive s) := by
  unfold dualActive
  repeat' first
    | with_reducible assumption | with_reducible refine Kept.ite (fun _ => ?_) (fun _ => ?_)
    | (intro x; with_reducible refine Kept.gen (kl := kl) (ko := ko) (ku := ku) (x := x) ?_ ?_; (on_goal 1 => unfold x); (on_goal 2 => (intro _; clear_value x)))
    | (intro x; (have t : Nat := x; clear t); clear_value x) | (intro x) | lift_lets -underBinder
    | with_reducible refine kept_twinLog ?_
    | fail_if_no_progress (with_reducible refine Kept.upd ?_ rfl rfl rfl rfl rfl rfl) | split
    | with_reducible refine Kept.ofFst ?_ (by assumption) | with_reducible refine Kept.ofSnd ?_ (by assumption)
    | (clear_value *; split)

theorem kept_statusWait (h0 : Kept kl ko ku s) :
    Kept kl ko ku (statusWait s) := by
  unfold statusWait
  repeat' first
    | with_reducible assumption | with_reducible refine Kept.ite (fun _ => ?_) (fun _ => ?_)
    | (intro x; with_reducible refine Kept.gen (kl := kl) (ko := ko) (ku := ku) (x := x) ?_ ?_; (on_goal 1 => unfold x); (on_goal 2 => (intro _; clear_value x)))
    | (intro x; (have t : Nat := x; clear t); clear_value x) | (intro x) | lift_lets -underBinder
    | with_reducible refine kept_inc ?_ | with_reducible refine kept_twinLog ?_
    | with_reducible refine kept_enterActive ?_ | with_reducible refine kept_switchover ?_
    | fail_if_no_progress (with_reducible refine Kept.upd ?_ rfl rfl rfl rfl rfl rfl) | split
    | with_reducible refine Kept.ofFst ?_ (by assumption) | with_reducible refine Kept.ofSnd ?_ (by assumption)
    | (clear_value *; split)

theorem kept_statusInit (h0 : Kept kl ko ku s) :
    Kept kl ko ku (statusInit s) := by
  unfold statusInit
  repeat' first
    | with_reducible assumption | with_reducible refine Kept.ite (fun _ => ?_) (fun _ => ?_)
    | (intro x; with_reducible refine Kept.gen (kl := kl) (ko := ko) (ku := ku) (x := x) ?_ ?_; (on_goal 1 => unfold x); (on_goal 2 => (intro _; clear_value x)))
    | (intro x; (have t : Nat := x; clear t); clear_value x) | (intro x) | lift_lets -underBinder
    | with_reducible refine kept_twinTo ?_
    | fail_if_no_progress (with_reducible refine Kept.upd ?_ rfl rfl rfl rfl rfl rfl) | split
    | with_reducible refine Kept.ofFst ?_ (by assumption) | with_reducible refine Kept.ofSnd ?_ (by assumption)
    | (clear_value *; split)

theorem kept_twinStatus {l key : Nat} {r : Bytes} (h0 : Kept kl ko ku s) :
    Kept kl ko ku (twinStatus l key r s) := by
  unfold twinStatus
  repeat' first
    | with_reducible assumption | with_reducible refine Kept.ite (fun _ => ?_) (fun _ => ?_)
    | (intro x; with_reducible refine Kept.gen (kl := kl) (ko := ko) (ku := ku) (x := x) ?_ ?_; (on_goal 1 => unfold x); (on_goal 2 => (intro _; clear_value x)))
    | (intro x; (have t : Nat := x; clear t); clear_value x) | (intro x) | lift_lets -underBinder
    | with_reducible refine kept_doIf (fun _ _ => ?_) ?_ | with_reducible refine kept_setFld ?_
    | with_reducible refine kept_dualActive ?_ | with_reducible refine kept_statusWait ?_
    | with_reducible refine kept_statusInit ?_
    | fail_if_no_progress (with_reducible refine Kept.upd ?_ rfl rfl rfl rfl rfl rfl) | split
    | with_reducible refine Kept.ofFst ?_ (by assumption) | with_reducible refine Kept.ofSnd ?_ (by assumption)
    | (clear_value *; split)

theorem kept_twinRecord {l : Nat} {r : Bytes} (h0 : Kept kl ko ku s) :
    Kept kl ko ku (twinRecord l r s) := by
  unfold twinRecord
  repeat' first
    | with_reducible assumption | with_reducible refine Kept.ite (fun _ => ?_) (fun _ => ?_)
    | (intro x; with_reducible refine Kept.gen (kl := kl) (ko := ko) (ku := ku) (x := x) ?_ ?_; (on_goal 1 => unfold x); (on_goal 2 => (intro _; clear_value x)))
    | (intro x; (have t : Nat := x; clear t); clear_value x) | (intro x) | lift_lets -underBinder
    | with_reducible refine kept_twinStatus ?_
    | fail_if_no_progress (with_reducible refine Kept.upd ?_ rfl rfl rfl rfl rfl rfl) | split
    | with_reducible refine Kept.ofFst ?_ (by assumption) | with_reducible refine Kept.ofSnd ?_ (by assumption)
    | (clear_value *; split)

theorem kept_twinReceive {l : Nat} {c : Bytes} (h0 : Kept kl ko ku s) :
    Kept kl ko ku (twinReceive l c s) := by
  unfold twinReceive
  repeat' first
    | with_reducible assumption | with_reducible refine Kept.ite (fun _ => ?_) (fun _ => ?_)
    | with_reducible refine kept_fabInc ?_ | with_reducible refine kept_twinRecord ?_
    | fail_if_no_progress (with_reducible refine Kept.upd ?_ rfl rfl rfl rfl rfl rfl) | split
    | with_reducible refine Kept.ofFst ?_ (by assumption) | with_reducible refine Kept.ofSnd ?_ (by assumption)
    | (clear_value *; split)

theorem kept_mateLost (h0 : Kept kl ko ku s) :
    Kept kl ko ku (mateLost s) := by
  unfold mateLost
  repeat' first
    | with_reducible assumption | with_reducible refine Kept.ite (fun _ => ?_) (fun _ => ?_)
    | with_reducible refine kept_setFld ?_ | with_reducible refine kept_twinLog ?_
    | fail_if_no_progress (with_reducible refine Kept.upd ?_ rfl rfl rfl rfl rfl rfl) | split
    | with_reducible refine Kept.ofFst ?_ (by assumption) | with_reducible refine Kept.ofSnd ?_ (by assumption)
    | (clear_value *; split)

theorem kept_twinLinkDown (h0 : Kept kl ko ku s) :
    Kept kl ko ku (twinLinkDown s) := by
  unfold twinLinkDown
  repeat' first
    | with_reducible assumption | with_reducible refine Kept.ite (fun _ => ?_) (fun _ => ?_)
    | (intro x; with_reducible refine Kept.gen (kl := kl) (ko := ko) (ku := ku) (x := x) ?_ ?_; (on_goal 1 => unfold x); (on_goal 2 => (intro _; clear_value x)))
    | (intro x; (have t : Nat := x; clear t); clear_value x) | (intro x) | lift_lets -underBinder
    | with_reducible refine kept_doIf (fun _ _ => ?_) ?_ | with_reducible refine kept_setFld ?_
    | with_reducible refine kept_inc ?_ | with_reducible refine kept_twinLog ?_
    | with_reducible refine kept_mateLost ?_
    | fail_if_no_progress (with_reducible refine Kept.upd ?_ rfl rfl rfl rfl rfl rfl) | split
    | with_reducible refine Kept.ofFst ?_ (by assumption) | with_reducible refine Kept.ofSnd ?_ (by assumption)
    | (clear_value *; split)

theorem kept_healthInFall (h0 : Kept kl ko ku s) :
    Kept kl ko ku (healthInFall s) := by
  unfold healthInFall
  repeat' first
    | with_reducible assumption | with_reducible refine Kept.ite (fun _ => ?_) (fun _ => ?_)
    | (intro x; with_reducible refine Kept.gen (kl := kl) (ko := ko) (ku := ku) (x := x) ?_ ?_; (on_goal 1 => unfold x); (on_goal 2 => (intro _; clear_value x)))
    | (intro x; (have t : Nat := x; clear t); clear_value x) | (intro x) | lift_lets -underBinder
    | with_reducible refine kept_setFld ?_ | with_reducible refine kept_mateLost ?_
    | fail_if_no_progress (with_reducible refine Kept.upd ?_ rfl rfl rfl rfl rfl rfl) | split
    | with_reducible refine Kept.ofFst ?_ (by assumption) | with_reducible refine Kept.ofSnd ?_ (by assumption)
    | (clear_value *; split)

theorem kept_healthInRise (h0 : Kept kl ko ku s) :
    Kept kl ko ku (healthInRise s) := by
  unfold healthInRise
  repeat' first
    | with_reducible assumption | with_reducible refine Kept.ite (fun _ => ?_) (fun _ => ?_)
    | with_reducible refine kept_setFld ?_
    | fail_if_no_progress (with_reducible refine Kept.upd ?_ rfl rfl rfl rfl rfl rfl) | split
    | with_reducible refine Kept.ofFst ?_ (by assumption) | with_reducible refine Kept.ofSnd ?_ (by assumption)
    | (clear_value *; split)

theorem kept_healthWait (h0 : Kept kl ko ku s) :
    Kept kl ko ku (healthWait s) := by
  unfold healthWait
  repeat' first
    | with_reducible assumption | with_reducible refine Kept.ite (fun _ => ?_) (fun _ => ?_)
    | (intro x; with_reducible refine Kept.gen (kl := kl) (ko := ko) (ku := ku) (x := x) ?_ ?_; (on_goal 1 => unfold x); (on_goal 2 => (intro _; clear_value x)))
    | (intro x; (have t : Nat := x; clear t); clear_value x) | (intro x) | lift_lets -underBinder
    | with_reducible refine kept_enterActive ?_ | with_reducible refine kept_switchover ?_
    | fail_if_no_progress (with_reducible refine Kept.upd ?_ rfl rfl rfl rfl rfl rfl) | split
    | with_reducible refine Kept.ofFst ?_ (by assumption) | with_reducible refine Kept.ofSnd ?_ (by assumption)
    | (clear_value *; split)

theorem kept_twinAct {op : Nat} (h0 : Kept kl ko ku s) :
    Kept kl ko ku (twinAct op s) := by
  unfold twinAct
  repeat' first
    | with_reducible assumption | with_reducible refine Kept.ite (fun _ => ?_) (fun _ => ?_)
    | (intro x; with_reducible refine Kept.gen (kl := kl) (ko := ko) (ku := ku) (x := x) ?_ ?_; (on_goal 1 => unfold x); (on_goal 2 => (intro _; clear_value x)))
    | (intro x; (have t : Nat := x; clear t); clear_value x) | (intro x) | lift_lets -underBinder
    | with_reducible refine kept_twinTo ?_
    | fail_if_no_progress (with_reducible refine Kept.upd ?_ rfl rfl rfl rfl rfl rfl) | split
    | with_reducible refine Kept.ofFst ?_ (by assumption) | with_reducible refine Kept.ofSnd ?_ (by assumption)
    | (clear_value *; split)

theorem kept_twinCommand {fn : Fn} {p : Nat} {w : Word} (h0 : Kept kl ko ku s) :
    Kept kl ko ku (twinCommand fn p w s) := by
  unfold twinCommand
  repeat' first
    | with_reducible assumption | with_reducible refine Kept.ite (fun _ => ?_) (fun _ => ?_)
    | (intro x; with_reducible refine Kept.gen (kl := kl) (ko := ko) (ku := ku) (x := x) ?_ ?_; (on_goal 1 => unfold x); (on_goal 2 => (intro _; clear_value x)))
    | (intro x; (have t : Nat := x; clear t); clear_value x) | (intro x) | lift_lets -underBinder
    | with_reducible refine kept_complete ?_ | with_reducible refine kept_issue (fun _ _ => ?_) ?_
    | with_reducible refine kept_runChecks (fun _ _ => ?_) ?_ | with_reducible refine kept_twinAct ?_
    | fail_if_no_progress (with_reducible refine Kept.upd ?_ rfl rfl rfl rfl rfl rfl) | split
    | with_reducible refine Kept.ofFst ?_ (by assumption) | with_reducible refine Kept.ofSnd ?_ (by assumption)
    | (clear_value *; split)

theorem kept_twinIssue {fn : Fn} {op : Nat} (h0 : Kept kl ko ku s) :
    Kept kl ko ku (twinIssue fn op s) := by
  unfold twinIssue
  repeat' first
    | with_reducible assumption | with_reducible refine Kept.ite (fun _ => ?_) (fun _ => ?_)
    | with_reducible refine kept_access (fun _ _ _ _ _ => ?_) ?_ | with_reducible refine kept_twinCommand ?_
    | fail_if_no_progress (with_reducible refine Kept.upd ?_ rfl rfl rfl rfl rfl rfl) | split
    | with_reducible refine Kept.ofFst ?_ (by assumption) | with_reducible refine Kept.ofSnd ?_ (by assumption)
    | (clear_value *; split)

theorem kept_twinCfgEffect {old : Word} (h0 : Kept kl ko ku s) :
    Kept kl ko ku (twinCfgEffect old s) := by
  unfold twinCfgEffect
  repeat' first
    | with_reducible assumption | with_reducible refine Kept.ite (fun _ => ?_) (fun _ => ?_)
    | (intro x; with_reducible refine Kept.gen (kl := kl) (ko := ko) (ku := ku) (x := x) ?_ ?_; (on_goal 1 => unfold x); (on_goal 2 => (intro _; clear_value x)))
    | (intro x; (have t : Nat := x; clear t); clear_value x) | (intro x) | lift_lets -underBinder
    | with_reducible refine kept_setFld ?_ | with_reducible refine kept_twinTo ?_
    | fail_if_no_progress (with_reducible refine Kept.upd ?_ rfl rfl rfl rfl rfl rfl) | split
    | with_reducible refine Kept.ofFst ?_ (by assumption) | with_reducible refine Kept.ofSnd ?_ (by assumption)
    | (clear_value *; split)

theorem kept_digestEnd {n : Nat} (h0 : Kept kl ko ku s) :
    Kept kl ko ku (digestEnd n s) := by
  unfold digestEnd
  repeat' first
    | with_reducible assumption | with_reducible refine Kept.ite (fun _ => ?_) (fun _ => ?_)
    | (intro x; with_reducible refine Kept.gen (kl := kl) (ko := ko) (ku := ku) (x := x) ?_ ?_; (on_goal 1 => unfold x); (on_goal 2 => (intro _; clear_value x)))
    | (intro x; (have t : Nat := x; clear t); clear_value x) | (intro x) | lift_lets -underBinder
    | fail_if_no_progress (with_reducible refine Kept.upd ?_ rfl rfl rfl rfl rfl rfl) | split
    | with_reducible refine Kept.ofFst ?_ (by assumption) | with_reducible refine Kept.ofSnd ?_ (by assumption)
    | (clear_value *; split)

theorem kept_mismatch {n m loc mate : Nat} (h0 : Kept kl ko ku s) :
    Kept kl ko ku (mismatch n m loc mate s) := by
  unfold mismatch
  repeat' first
    | with_reducible assumption | with_reducible refine Kept.ite (fun _ => ?_) (fun _ => ?_)
    | (intro x; with_reducible refine Kept.gen (kl := kl) (ko := ko) (ku := ku) (x := x) ?_ ?_; (on_goal 1 => unfold x); (on_goal 2 => (intro _; clear_value x)))
    | (intro x; (have t : Nat := x; clear t); clear_value x) | (intro x) | lift_lets -underBinder
    | with_reducible refine kept_twinLog ?_ | with_reducible refine kept_twinTo ?_
    | with_reducible refine kept_enterActive ?_ | with_reducible refine kept_switchover ?_
    | fail_if_no_progress (with_reducible refine Kept.upd ?_ rfl rfl rfl rfl rfl rfl) | split
    | with_reducible refine Kept.ofFst ?_ (by assumption) | with_reducible refine Kept.ofSnd ?_ (by assumption)
    | (clear_value *; split)

theorem kept_digestCompare {n : Nat} (h0 : Kept kl ko ku s) :
    Kept kl ko ku (digestCompare n s) := by
  unfold digestCompare
  dsimp only
  repeat' first
    | with_reducible assumption | with_reducible refine Kept.ite (fun _ => ?_) (fun _ => ?_)
    | with_reducible apply kept_wr | with_reducible refine kept_setFld ?_ | with_reducible refine kept_inc ?_
    | with_reducible refine kept_mismatch ?_
    | fail_if_no_progress (with_reducible refine Kept.upd ?_ rfl rfl rfl rfl rfl rfl) | split
    | with_reducible refine Kept.ofFst ?_ (by assumption) | with_reducible refine Kept.ofSnd ?_ (by assumption)
    | (clear_value *; split)

theorem kept_switchEnd {n : Nat} (h0 : Kept kl ko ku s) :
    Kept kl ko ku (switchEnd n s) := by
  unfold switchEnd
  repeat' first
    | with_reducible assumption | with_reducible refine Kept.ite (fun _ => ?_) (fun _ => ?_)
    | (intro x; with_reducible refine Kept.gen (kl := kl) (ko := ko) (ku := ku) (x := x) ?_ ?_; (on_goal 1 => unfold x); (on_goal 2 => (intro _; clear_value x)))
    | (intro x; (have t : Nat := x; clear t); clear_value x) | (intro x) | lift_lets -underBinder
    | with_reducible refine kept_twinTo ?_ | with_reducible refine kept_enterActive ?_
    | with_reducible refine kept_switchover ?_
    | fail_if_no_progress (with_reducible refine Kept.upd ?_ rfl rfl rfl rfl rfl rfl) | split
    | with_reducible refine Kept.ofFst ?_ (by assumption) | with_reducible refine Kept.ofSnd ?_ (by assumption)
    | (clear_value *; split)

theorem kept_forceEnd {n : Nat} (h0 : Kept kl ko ku s) :
    Kept kl ko ku (forceEnd n s) := by
  unfold forceEnd
  repeat' first
    | with_reducible assumption | with_reducible refine Kept.ite (fun _ => ?_) (fun _ => ?_)
    | (intro x; with_reducible refine Kept.gen (kl := kl) (ko := ko) (ku := ku) (x := x) ?_ ?_; (on_goal 1 => unfold x); (on_goal 2 => (intro _; clear_value x)))
    | (intro x; (have t : Nat := x; clear t); clear_value x) | (intro x) | lift_lets -underBinder
    | with_reducible refine kept_enterActive ?_ | with_reducible refine kept_switchover ?_
    | fail_if_no_progress (with_reducible refine Kept.upd ?_ rfl rfl rfl rfl rfl rfl) | split
    | with_reducible refine Kept.ofFst ?_ (by assumption) | with_reducible refine Kept.ofSnd ?_ (by assumption)
    | (clear_value *; split)

theorem kept_initEnd {n : Nat} (h0 : Kept kl ko ku s) :
    Kept kl ko ku (initEnd n s) := by
  unfold initEnd
  repeat' first
    | with_reducible assumption | with_reducible refine Kept.ite (fun _ => ?_) (fun _ => ?_)
    | (intro x; with_reducible refine Kept.gen (kl := kl) (ko := ko) (ku := ku) (x := x) ?_ ?_; (on_goal 1 => unfold x); (on_goal 2 => (intro _; clear_value x)))
    | (intro x; (have t : Nat := x; clear t); clear_value x) | (intro x) | lift_lets -underBinder
    | with_reducible refine kept_twinTo ?_ | with_reducible refine kept_enterActive ?_
    | fail_if_no_progress (with_reducible refine Kept.upd ?_ rfl rfl rfl rfl rfl rfl) | split
    | with_reducible refine Kept.ofFst ?_ (by assumption) | with_reducible refine Kept.ofSnd ?_ (by assumption)
    | (clear_value *; split)

theorem kept_yieldEnd (h0 : Kept kl ko ku s) :
    Kept kl ko ku (yieldEnd s) := by
  unfold yieldEnd
  repeat' first
    | with_reducible assumption | with_reducible refine Kept.ite (fun _ => ?_) (fun _ => ?_)
    | (intro x; with_reducible refine Kept.gen (kl := kl) (ko := ko) (ku := ku) (x := x) ?_ ?_; (on_goal 1 => unfold x); (on_goal 2 => (intro _; clear_value x)))
    | (intro x; (have t : Nat := x; clear t); clear_value x) | (intro x) | lift_lets -underBinder
    | with_reducible refine kept_twinTo ?_
    | fail_if_no_progress (with_reducible refine Kept.upd ?_ rfl rfl rfl rfl rfl rfl) | split
    | with_reducible refine Kept.ofFst ?_ (by assumption) | with_reducible refine Kept.ofSnd ?_ (by assumption)
    | (clear_value *; split)

theorem kept_twinBoundary {n : Nat} (h0 : Kept kl ko ku s) :
    Kept kl ko ku (twinBoundary n s) := by
  unfold twinBoundary
  repeat' first
    | with_reducible assumption | with_reducible refine Kept.ite (fun _ => ?_) (fun _ => ?_)
    | with_reducible refine kept_digestCompare ?_ | with_reducible refine kept_switchEnd ?_
    | with_reducible refine kept_forceEnd ?_ | with_reducible refine kept_initEnd ?_
    | with_reducible refine kept_yieldEnd ?_
    | fail_if_no_progress (with_reducible refine Kept.upd ?_ rfl rfl rfl rfl rfl rfl) | split
    | with_reducible refine Kept.ofFst ?_ (by assumption) | with_reducible refine Kept.ofSnd ?_ (by assumption)
    | (clear_value *; split)

theorem kept_multiframeBoundary {v : Vote} (h0 : Kept kl ko ku s) :
    Kept kl ko ku (multiframeBoundary v s) := by
  unfold multiframeBoundary
  repeat' first
    | with_reducible assumption | with_reducible refine Kept.ite (fun _ => ?_) (fun _ => ?_)
    | (intro x; with_reducible refine Kept.gen (kl := kl) (ko := ko) (ku := ku) (x := x) ?_ ?_; (on_goal 1 => unfold x); (on_goal 2 => (intro _; clear_value x)))
    | (intro x; (have t : Nat := x; clear t); clear_value x) | (intro x) | lift_lets -underBinder
    | with_reducible refine kept_mfPulse ?_ | with_reducible refine kept_calBoundary ?_
    | with_reducible refine kept_digestEnd ?_ | with_reducible refine kept_twinBoundary ?_
    | fail_if_no_progress (with_reducible refine Kept.upd ?_ rfl rfl rfl rfl rfl rfl) | split
    | with_reducible refine Kept.ofFst ?_ (by assumption) | with_reducible refine Kept.ofSnd ?_ (by assumption)
    | (clear_value *; split)

theorem kept_lockTo {h : Nat} (h0 : Kept kl ko ku s) :
    Kept kl ko ku (lockTo h s) := by
  unfold lockTo
  repeat' first
    | with_reducible assumption | with_reducible refine Kept.ite (fun _ => ?_) (fun _ => ?_)
    | with_reducible refine kept_forEach (fun _ _ _ => ?_) ?_ | with_reducible apply kept_wr
    | with_reducible refine kept_setFld ?_
    | fail_if_no_progress (with_reducible refine Kept.upd ?_ rfl rfl rfl rfl rfl rfl) | split
    | with_reducible refine Kept.ofFst ?_ (by assumption) | with_reducible refine Kept.ofSnd ?_ (by assumption)
    | (clear_value *; split)

theorem kept_lockPass (h0 : Kept kl ko ku s) :
    Kept kl ko ku (lockPass s) := by
  unfold lockPass
  repeat' first
    | with_reducible assumption | with_reducible refine Kept.ite (fun _ => ?_) (fun _ => ?_)
    | with_reducible refine kept_lockTo ?_
    | fail_if_no_progress (with_reducible refine Kept.upd ?_ rfl rfl rfl rfl rfl rfl) | split
    | with_reducible refine Kept.ofFst ?_ (by assumption) | with_reducible refine Kept.ofSnd ?_ (by assumption)
    | (clear_value *; split)

theorem kept_showBcr (h0 : Kept kl ko ku s) :
    Kept kl ko ku (showBcr s) := by
  unfold showBcr
  repeat' first
    | with_reducible assumption | with_reducible refine Kept.ite (fun _ => ?_) (fun _ => ?_)
    | (intro x; with_reducible refine Kept.gen (kl := kl) (ko := ko) (ku := ku) (x := x) ?_ ?_; (on_goal 1 => unfold x); (on_goal 2 => (intro _; clear_value x)))
    | (intro x; (have t : Nat := x; clear t); clear_value x) | (intro x) | lift_lets -underBinder
    | with_reducible apply kept_wr | fail_if_no_progress (with_reducible refine Kept.upd ?_ rfl rfl rfl rfl rfl rfl)
    | split | with_reducible refine Kept.ofFst ?_ (by assumption)
    | with_reducible refine Kept.ofSnd ?_ (by assumption) | (clear_value *; split)

theorem kept_useBcr {b : Bcr} (h0 : Kept kl ko ku s) :
    Kept kl ko ku (useBcr b s) := by
  unfold useBcr
  repeat' first
    | with_reducible assumption | with_reducible refine Kept.ite (fun _ => ?_) (fun _ => ?_)
    | (intro x; with_reducible refine Kept.gen (kl := kl) (ko := ko) (ku := ku) (x := x) ?_ ?_; (on_goal 1 => unfold x); (on_goal 2 => (intro _; clear_value x)))
    | (intro x; (have t : Nat := x; clear t); clear_value x) | (intro x) | lift_lets -underBinder
    | with_reducible refine kept_showBcr ?_
    | fail_if_no_progress (with_reducible refine Kept.upd ?_ rfl rfl rfl rfl rfl rfl) | split
    | with_reducible refine Kept.ofFst ?_ (by assumption) | with_reducible refine Kept.ofSnd ?_ (by assumption)
    | (clear_value *; split)

theorem kept_writeCopy {n : Nat} {x : Bytes} (h0 : Kept kl ko ku s) :
    Kept kl ko ku (writeCopy n x s) := by
  unfold writeCopy
  repeat' first
    | with_reducible assumption | with_reducible refine Kept.ite (fun _ => ?_) (fun _ => ?_)
    | (intro x; with_reducible refine Kept.gen (kl := kl) (ko := ko) (ku := ku) (x := x) ?_ ?_; (on_goal 1 => unfold x); (on_goal 2 => (intro _; clear_value x)))
    | (intro x; (have t : Nat := x; clear t); clear_value x) | (intro x) | lift_lets -underBinder
    | with_reducible refine kept_flashTo (fun _ => rfl) ?_
    | fail_if_no_progress (with_reducible refine Kept.upd ?_ rfl rfl rfl rfl rfl rfl) | split
    | with_reducible refine Kept.ofFst ?_ (by assumption) | with_reducible refine Kept.ofSnd ?_ (by assumption)
    | (clear_value *; split)

theorem kept_writeCopies {b : Bcr} (h0 : Kept kl ko ku s) :
    Kept kl ko ku (writeCopies b s) := by
  unfold writeCopies
  repeat' first
    | with_reducible assumption | with_reducible refine Kept.ite (fun _ => ?_) (fun _ => ?_)
    | with_reducible refine kept_writeCopy ?_
    | fail_if_no_progress (with_reducible refine Kept.upd ?_ rfl rfl rfl rfl rfl rfl) | split
    | with_reducible refine Kept.ofFst ?_ (by assumption) | with_reducible refine Kept.ofSnd ?_ (by assumption)
    | (clear_value *; split)

theorem kept_writeBcr {b : Bcr} (h0 : Kept kl ko ku s) :
    Kept kl ko ku (writeBcr b s) := by
  unfold writeBcr
  repeat' first
    | with_reducible assumption | with_reducible refine Kept.ite (fun _ => ?_) (fun _ => ?_)
    | (intro x; with_reducible refine Kept.gen (kl := kl) (ko := ko) (ku := ku) (x := x) ?_ ?_; (on_goal 1 => unfold x); (on_goal 2 => (intro _; clear_value x)))
    | (intro x; (have t : Nat := x; clear t); clear_value x) | (intro x) | lift_lets -underBinder
    | with_reducible refine kept_useBcr ?_ | with_reducible refine kept_writeCopies ?_
    | fail_if_no_progress (with_reducible refine Kept.upd ?_ rfl rfl rfl rfl rfl rfl) | split
    | with_reducible refine Kept.ofFst ?_ (by assumption) | with_reducible refine Kept.ofSnd ?_ (by assumption)
    | (clear_value *; split)

theorem kept_updTo {st : Nat} (h0 : Kept kl ko ku s) :
    Kept kl ko ku (updTo st s) := by
  unfold updTo
  repeat' first
    | with_reducible assumption | with_reducible refine Kept.ite (fun _ => ?_) (fun _ => ?_)
    | with_reducible refine kept_setFld ?_
    | fail_if_no_progress (with_reducible refine Kept.upd ?_ rfl rfl rfl rfl rfl rfl) | split
    | with_reducible refine Kept.ofFst ?_ (by assumption) | with_reducible refine Kept.ofSnd ?_ (by assumption)
    | (clear_value *; split)

theorem kept_updHold {p : Nat} (h0 : Kept kl ko ku s) :
    Kept kl ko ku (updHold p s) := by
  unfold updHold
  repeat' first
    | with_reducible assumption | with_reducible refine Kept.ite (fun _ => ?_) (fun _ => ?_)
    | with_reducible refine kept_setFld ?_
    | fail_if_no_progress (with_reducible refine Kept.upd ?_ rfl rfl rfl rfl rfl rfl) | split
    | with_reducible refine Kept.ofFst ?_ (by assumption) | with_reducible refine Kept.ofSnd ?_ (by assumption)
    | (clear_value *; split)

theorem kept_setSlot {n : Nat} {x : SetSlot} (h0 : Kept kl ko ku s) :
    Kept kl ko ku (setSlot n x s) := by
  unfold setSlot
  repeat' first
    | with_reducible assumption | with_reducible refine Kept.ite (fun _ => ?_) (fun _ => ?_)
    | with_reducible refine kept_flashTo (fun _ => rfl) ?_
    | fail_if_no_progress (with_reducible refine Kept.upd ?_ rfl rfl rfl rfl rfl rfl) | split
    | with_reducible refine Kept.ofFst ?_ (by assumption) | with_reducible refine Kept.ofSnd ?_ (by assumption)
    | (clear_value *; split)

theorem kept_setArea {a : Nat} {m : SMap Bytes} (h0 : Kept kl ko ku s) :
    Kept kl ko ku (setArea a m s) := by
  unfold setArea
  repeat' first
    | with_reducible assumption | with_reducible refine Kept.ite (fun _ => ?_) (fun _ => ?_)
    | with_reducible refine kept_flashTo (fun _ => rfl) ?_
    | fail_if_no_progress (with_reducible refine Kept.upd ?_ rfl rfl rfl rfl rfl rfl) | split
    | with_reducible refine Kept.ofFst ?_ (by assumption) | with_reducible refine Kept.ofSnd ?_ (by assumption)
    | (clear_value *; split)

theorem kept_dropNewArea {b : Bcr} (h0 : Kept kl ko ku s) :
    Kept kl ko ku (dropNewArea b s) := by
  unfold dropNewArea
  repeat' first
    | with_reducible assumption | with_reducible refine Kept.ite (fun _ => ?_) (fun _ => ?_)
    | (intro x; with_reducible refine Kept.gen (kl := kl) (ko := ko) (ku := ku) (x := x) ?_ ?_; (on_goal 1 => unfold x); (on_goal 2 => (intro _; clear_value x)))
    | (intro x; (have t : Nat := x; clear t); clear_value x) | (intro x) | lift_lets -underBinder
    | with_reducible refine kept_doIf (fun _ _ => ?_) ?_ | with_reducible refine kept_writeBcr ?_
    | with_reducible refine kept_setArea ?_
    | fail_if_no_progress (with_reducible refine Kept.upd ?_ rfl rfl rfl rfl rfl rfl) | split
    | with_reducible refine Kept.ofFst ?_ (by assumption) | with_reducible refine Kept.ofSnd ?_ (by assumption)
    | (clear_value *; split)

theorem kept_endSession (h0 : Kept kl ko ku s) :
    Kept kl ko ku (endSession s) := by
  unfold endSession
  repeat' first
    | with_reducible assumption | with_reducible refine Kept.ite (fun _ => ?_) (fun _ => ?_)
    | (intro x; with_reducible refine Kept.gen (kl := kl) (ko := ko) (ku := ku) (x := x) ?_ ?_; (on_goal 1 => unfold x); (on_goal 2 => (intro _; clear_value x)))
    | (intro x; (have t : Nat := x; clear t); clear_value x) | (intro x) | lift_lets -underBinder
    | with_reducible refine kept_doIf (fun _ _ => ?_) ?_ | with_reducible refine kept_raiseRight ?_
    | with_reducible refine kept_updTo ?_ | with_reducible refine kept_updHold ?_
    | with_reducible refine kept_setSlot ?_ | with_reducible refine kept_dropNewArea ?_
    | fail_if_no_progress (with_reducible refine Kept.upd ?_ rfl rfl rfl rfl rfl rfl) | split
    | with_reducible refine Kept.ofFst ?_ (by assumption) | with_reducible refine Kept.ofSnd ?_ (by assumption)
    | (clear_value *; split)

theorem kept_updDone {code detail : Nat} (h0 : Kept kl ko ku s) :
    Kept kl ko ku (updDone code detail s) := by
  unfold updDone
  repeat' first
    | with_reducible assumption | with_reducible refine Kept.ite (fun _ => ?_) (fun _ => ?_)
    | (intro x; with_reducible refine Kept.gen (kl := kl) (ko := ko) (ku := ku) (x := x) ?_ ?_; (on_goal 1 => unfold x); (on_goal 2 => (intro _; clear_value x)))
    | (intro x; (have t : Nat := x; clear t); clear_value x) | (intro x) | lift_lets -underBinder
    | with_reducible refine kept_complete ?_
    | fail_if_no_progress (with_reducible refine Kept.upd ?_ rfl rfl rfl rfl rfl rfl) | split
    | with_reducible refine Kept.ofFst ?_ (by assumption) | with_reducible refine Kept.ofSnd ?_ (by assumption)
    | (clear_value *; split)

theorem kept_updRecord {sev : Sev} {code : Nat} {items : List (Nat × Nat)} (h0 : Kept kl ko ku s) :
    Kept kl ko ku (updRecord sev code items s) := by
  unfold updRecord
  repeat' first
    | with_reducible assumption | with_reducible refine Kept.ite (fun _ => ?_) (fun _ => ?_)
    | with_reducible refine kept_report ?_
    | fail_if_no_progress (with_reducible refine Kept.upd ?_ rfl rfl rfl rfl rfl rfl) | split
    | with_reducible refine Kept.ofFst ?_ (by assumption) | with_reducible refine Kept.ofSnd ?_ (by assumption)
    | (clear_value *; split)

theorem kept_lapseSession {h : Nat} (h0 : Kept kl ko ku s) :
    Kept kl ko ku (lapseSession h s) := by
  unfold lapseSession
  repeat' first
    | with_reducible assumption | with_reducible refine Kept.ite (fun _ => ?_) (fun _ => ?_)
    | with_reducible refine kept_endSession ?_ | with_reducible refine kept_updRecord ?_
    | fail_if_no_progress (with_reducible refine Kept.upd ?_ rfl rfl rfl rfl rfl rfl) | split
    | with_reducible refine Kept.ofFst ?_ (by assumption) | with_reducible refine Kept.ofSnd ?_ (by assumption)
    | (clear_value *; split)

theorem kept_preemptNow (h0 : Kept kl ko ku s) :
    Kept kl ko ku (preemptNow s) := by
  unfold preemptNow
  repeat' first
    | with_reducible assumption | with_reducible refine Kept.ite (fun _ => ?_) (fun _ => ?_)
    | (intro x; with_reducible refine Kept.gen (kl := kl) (ko := ko) (ku := ku) (x := x) ?_ ?_; (on_goal 1 => unfold x); (on_goal 2 => (intro _; clear_value x)))
    | (intro x; (have t : Nat := x; clear t); clear_value x) | (intro x) | lift_lets -underBinder
    | with_reducible refine kept_doIf (fun _ _ => ?_) ?_ | with_reducible refine kept_complete ?_
    | with_reducible refine kept_updHold ?_ | with_reducible refine kept_updRecord ?_
    | with_reducible refine kept_lapseSession ?_
    | fail_if_no_progress (with_reducible refine Kept.upd ?_ rfl rfl rfl rfl rfl rfl) | split
    | with_reducible refine Kept.ofFst ?_ (by assumption) | with_reducible refine Kept.ofSnd ?_ (by assumption)
    | (clear_value *; split)

theorem kept_latePreempt (h0 : Kept kl ko ku s) :
    Kept kl ko ku (latePreempt s) := by
  unfold latePreempt
  repeat' first
    | with_reducible assumption | with_reducible refine Kept.ite (fun _ => ?_) (fun _ => ?_)
    | with_reducible refine kept_doIf (fun _ _ => ?_) ?_ | with_reducible refine kept_preemptNow ?_
    | fail_if_no_progress (with_reducible refine Kept.upd ?_ rfl rfl rfl rfl rfl rfl) | split
    | with_reducible refine Kept.ofFst ?_ (by assumption) | with_reducible refine Kept.ofSnd ?_ (by assumption)
    | (clear_value *; split)

theorem kept_preemptWrite {fn : Fn} {p : Nat} {one : Bool} (h0 : Kept kl ko ku s) :
    Kept kl ko ku (preemptWrite fn p one s) := by
  unfold preemptWrite
  repeat' first
    | with_reducible assumption | with_reducible refine Kept.ite (fun _ => ?_) (fun _ => ?_)
    | with_reducible refine kept_doIf (fun _ _ => ?_) ?_ | with_reducible refine kept_denied ?_
    | with_reducible refine kept_preemptNow ?_
    | fail_if_no_progress (with_reducible refine Kept.upd ?_ rfl rfl rfl rfl rfl rfl) | split
    | with_reducible refine Kept.ofFst ?_ (by assumption) | with_reducible refine Kept.ofSnd ?_ (by assumption)
    | (clear_value *; split)

theorem kept_openFinish {b : Bytes} (h0 : Kept kl ko ku s) :
    Kept kl ko ku (openFinish b s) := by
  unfold openFinish
  repeat' first
    | with_reducible assumption | with_reducible refine Kept.ite (fun _ => ?_) (fun _ => ?_)
    | (intro x; with_reducible refine Kept.gen (kl := kl) (ko := ko) (ku := ku) (x := x) ?_ ?_; (on_goal 1 => unfold x); (on_goal 2 => (intro _; clear_value x)))
    | (intro x; (have t : Nat := x; clear t); clear_value x) | (intro x) | lift_lets -underBinder
    | with_reducible refine kept_forEach (fun _ _ _ => ?_) ?_ | with_reducible apply kept_wr
    | with_reducible refine kept_inc ?_ | with_reducible refine kept_updTo ?_ | with_reducible refine kept_setSlot ?_
    | with_reducible refine kept_updDone ?_
    | fail_if_no_progress (with_reducible refine Kept.upd ?_ rfl rfl rfl rfl rfl rfl) | split
    | with_reducible refine Kept.ofFst ?_ (by assumption) | with_reducible refine Kept.ofSnd ?_ (by assumption)
    | (clear_value *; split)

theorem kept_whenLockFree {w : UpdWait} {act : State → State} (hact : ∀ s, Kept kl ko ku s → Kept kl ko ku (act s)) (h0 : Kept kl ko ku s) :
    Kept kl ko ku (whenLockFree w act s) := by
  unfold whenLockFree
  repeat' first
    | with_reducible assumption | with_reducible refine Kept.ite (fun _ => ?_) (fun _ => ?_)
    | (intro x; with_reducible refine Kept.gen (kl := kl) (ko := ko) (ku := ku) (x := x) ?_ ?_; (on_goal 1 => unfold x); (on_goal 2 => (intro _; clear_value x)))
    | (intro x; (have t : Nat := x; clear t); clear_value x) | (intro x) | lift_lets -underBinder
    | with_reducible refine hact _ ?_ | with_reducible refine kept_lockPass ?_
    | fail_if_no_progress (with_reducible refine Kept.upd ?_ rfl rfl rfl rfl rfl rfl) | split
    | with_reducible refine Kept.ofFst ?_ (by assumption) | with_reducible refine Kept.ofSnd ?_ (by assumption)
    | (clear_value *; split)

theorem kept_openAct {p : Nat} {d : Dma} (h0 : Kept kl ko ku s) :
    Kept kl ko ku (openAct p d s) := by
  unfold openAct
  repeat' first
    | with_reducible assumption | with_reducible refine Kept.ite (fun _ => ?_) (fun _ => ?_)
    | (intro x; with_reducible refine Kept.gen (kl := kl) (ko := ko) (ku := ku) (x := x) ?_ ?_; (on_goal 1 => unfold x); (on_goal 2 => (intro _; clear_value x)))
    | (intro x; (have t : Nat := x; clear t); clear_value x) | (intro x) | lift_lets -underBinder
    | with_reducible refine kept_dmaFault ?_ | with_reducible refine kept_updHold ?_
    | with_reducible refine kept_updDone ?_ | with_reducible refine kept_openFinish ?_
    | with_reducible refine kept_whenLockFree (fun _ _ => ?_) ?_
    | fail_if_no_progress (with_reducible refine Kept.upd ?_ rfl rfl rfl rfl rfl rfl) | split
    | with_reducible refine Kept.ofFst ?_ (by assumption) | with_reducible refine Kept.ofSnd ?_ (by assumption)
    | (clear_value *; split)

theorem kept_writeAct {p comp : Nat} {d : Dma} {progOk : Bool} (h0 : Kept kl ko ku s) :
    Kept kl ko ku (writeAct p comp d progOk s) := by
  unfold writeAct
  repeat' first
    | with_reducible assumption | with_reducible refine Kept.ite (fun _ => ?_) (fun _ => ?_)
    | (intro x; with_reducible refine Kept.gen (kl := kl) (ko := ko) (ku := ku) (x := x) ?_ ?_; (on_goal 1 => unfold x); (on_goal 2 => (intro _; clear_value x)))
    | (intro x; (have t : Nat := x; clear t); clear_value x) | (intro x) | lift_lets -underBinder
    | with_reducible refine kept_setFld ?_ | with_reducible refine kept_dmaFault ?_
    | with_reducible refine kept_setSlot ?_ | with_reducible refine kept_updDone ?_
    | with_reducible refine kept_updRecord ?_
    | fail_if_no_progress (with_reducible refine Kept.upd ?_ rfl rfl rfl rfl rfl rfl) | split
    | with_reducible refine Kept.ofFst ?_ (by assumption) | with_reducible refine Kept.ofSnd ?_ (by assumption)
    | (clear_value *; split)

theorem kept_convertSettings {man key : Bytes} {images : List Bytes} (h0 : Kept kl ko ku s) :
    Kept kl ko ku (convertSettings man key images s) := by
  unfold convertSettings
  repeat' first
    | with_reducible assumption | with_reducible refine Kept.ite (fun _ => ?_) (fun _ => ?_)
    | (intro x; with_reducible refine Kept.gen (kl := kl) (ko := ko) (ku := ku) (x := x) ?_ ?_; (on_goal 1 => unfold x); (on_goal 2 => (intro _; clear_value x)))
    | (intro x; (have t : Nat := x; clear t); clear_value x) | (intro x) | lift_lets -underBinder
    | with_reducible refine kept_writeBcr ?_ | with_reducible refine kept_setArea ?_
    | fail_if_no_progress (with_reducible refine Kept.upd ?_ rfl rfl rfl rfl rfl rfl) | split
    | with_reducible refine Kept.ofFst ?_ (by assumption) | with_reducible refine Kept.ofSnd ?_ (by assumption)
    | (clear_value *; split)

theorem kept_verifyFinish (h0 : Kept kl ko ku s) :
    Kept kl ko ku (verifyFinish s) := by
  unfold verifyFinish
  repeat' first
    | with_reducible assumption | with_reducible refine Kept.ite (fun _ => ?_) (fun _ => ?_)
    | (intro x; with_reducible refine Kept.gen (kl := kl) (ko := ko) (ku := ku) (x := x) ?_ ?_; (on_goal 1 => unfold x); (on_goal 2 => (intro _; clear_value x)))
    | (intro x; (have t : Nat := x; clear t); clear_value x) | (intro x) | lift_lets -underBinder
    | with_reducible refine kept_updTo ?_ | with_reducible refine kept_setSlot ?_
    | with_reducible refine kept_updDone ?_ | with_reducible refine kept_convertSettings ?_
    | fail_if_no_progress (with_reducible refine Kept.upd ?_ rfl rfl rfl rfl rfl rfl) | split
    | with_reducible refine Kept.ofFst ?_ (by assumption) | with_reducible refine Kept.ofSnd ?_ (by assumption)
    | (clear_value *; split)

theorem kept_verifyAct (h0 : Kept kl ko ku s) :
    Kept kl ko ku (verifyAct s) := by
  unfold verifyAct
  repeat' first
    | with_reducible assumption | with_reducible refine Kept.ite (fun _ => ?_) (fun _ => ?_)
    | (intro x; with_reducible refine Kept.gen (kl := kl) (ko := ko) (ku := ku) (x := x) ?_ ?_; (on_goal 1 => unfold x); (on_goal 2 => (intro _; clear_value x)))
    | (intro x; (have t : Nat := x; clear t); clear_value x) | (intro x) | lift_lets -underBinder
    | with_reducible refine kept_updTo ?_ | with_reducible refine kept_updDone ?_
    | with_reducible refine kept_whenLockFree (fun _ _ => ?_) ?_ | with_reducible refine kept_verifyFinish ?_
    | fail_if_no_progress (with_reducible refine Kept.upd ?_ rfl rfl rfl rfl rfl rfl) | split
    | with_reducible refine Kept.ofFst ?_ (by assumption) | with_reducible refine Kept.ofSnd ?_ (by assumption)
    | (clear_value *; split)

theorem kept_sealWaitTimeout (h0 : Kept kl ko ku s) :
    Kept kl ko ku (sealWaitTimeout s) := by
  unfold sealWaitTimeout
  repeat' first
    | with_reducible assumption | with_reducible refine Kept.ite (fun _ => ?_) (fun _ => ?_)
    | (intro x; with_reducible refine Kept.gen (kl := kl) (ko := ko) (ku := ku) (x := x) ?_ ?_; (on_goal 1 => unfold x); (on_goal 2 => (intro _; clear_value x)))
    | (intro x; (have t : Nat := x; clear t); clear_value x) | (intro x) | lift_lets -underBinder
    | with_reducible refine kept_updTo ?_ | with_reducible refine kept_updDone ?_
    | fail_if_no_progress (with_reducible refine Kept.upd ?_ rfl rfl rfl rfl rfl rfl) | split
    | with_reducible refine Kept.ofFst ?_ (by assumption) | with_reducible refine Kept.ofSnd ?_ (by assumption)
    | (clear_value *; split)

theorem kept_updSwap {b : Nat} (h0 : Kept kl ko ku s) :
    Kept kl ko ku (updSwap b s) := by
  unfold updSwap
  repeat' first
    | with_reducible assumption | with_reducible refine Kept.ite (fun _ => ?_) (fun _ => ?_)
    | (intro x; with_reducible refine Kept.gen (kl := kl) (ko := ko) (ku := ku) (x := x) ?_ ?_; (on_goal 1 => unfold x); (on_goal 2 => (intro _; clear_value x)))
    | (intro x; (have t : Nat := x; clear t); clear_value x) | (intro x) | lift_lets -underBinder
    | with_reducible refine kept_doIf (fun _ _ => ?_) ?_ | with_reducible apply kept_wr
    | with_reducible refine kept_inc ?_ | with_reducible refine kept_bankTo ?_ | with_reducible refine kept_goLive ?_
    | with_reducible refine kept_drainDone ?_
    | fail_if_no_progress (with_reducible refine Kept.upd ?_ rfl rfl rfl rfl rfl rfl) | split
    | with_reducible refine Kept.ofFst ?_ (by assumption) | with_reducible refine Kept.ofSnd ?_ (by assumption)
    | (clear_value *; split)

theorem kept_setByUpd {b : Nat} {x : Bool} (h0 : Kept kl ko ku s) :
    Kept kl ko ku (setByUpd b x s) := by
  unfold setByUpd
  repeat' first
    | with_reducible assumption | with_reducible refine Kept.ite (fun _ => ?_) (fun _ => ?_)
    | (intro x; with_reducible refine Kept.gen (kl := kl) (ko := ko) (ku := ku) (x := x) ?_ ?_; (on_goal 1 => unfold x); (on_goal 2 => (intro _; clear_value x)))
    | (intro x; (have t : Nat := x; clear t); clear_value x) | (intro x) | lift_lets -underBinder
    | with_reducible refine kept_setBank ?_
    | fail_if_no_progress (with_reducible refine Kept.upd ?_ rfl rfl rfl rfl rfl rfl) | split
    | with_reducible refine Kept.ofFst ?_ (by assumption) | with_reducible refine Kept.ofSnd ?_ (by assumption)
    | (clear_value *; split)

theorem kept_setHidden {k : Bytes} (h0 : Kept kl ko ku s) :
    Kept kl ko ku (setHidden k s) := by
  unfold setHidden
  repeat' first
    | with_reducible assumption | with_reducible refine Kept.ite (fun _ => ?_) (fun _ => ?_)
    | fail_if_no_progress (with_reducible refine Kept.upd ?_ rfl rfl rfl rfl rfl rfl) | split
    | with_reducible refine Kept.ofFst ?_ (by assumption) | with_reducible refine Kept.ofSnd ?_ (by assumption)
    | (clear_value *; split)

theorem kept_underKey {n : Nat} {act : State → State} (hact : ∀ s, Kept kl ko ku s → Kept kl ko ku (act s)) (h0 : Kept kl ko ku s) :
    Kept kl ko ku (underKey n act s) := by
  unfold underKey
  repeat' first
    | with_reducible assumption | with_reducible refine Kept.ite (fun _ => ?_) (fun _ => ?_)
    | with_reducible refine hact _ ?_ | with_reducible refine kept_setHidden ?_
    | fail_if_no_progress (with_reducible refine Kept.upd ?_ rfl rfl rfl rfl rfl rfl) | split
    | with_reducible refine Kept.ofFst ?_ (by assumption) | with_reducible refine Kept.ofSnd ?_ (by assumption)
    | (clear_value *; split)

theorem kept_stewardDrop (h0 : Kept kl ko ku s) :
    Kept kl ko ku (stewardDrop s) := by
  unfold stewardDrop
  repeat' first
    | with_reducible assumption | with_reducible refine Kept.ite (fun _ => ?_) (fun _ => ?_)
    | (intro x; with_reducible refine Kept.gen (kl := kl) (ko := ko) (ku := ku) (x := x) ?_ ?_; (on_goal 1 => unfold x); (on_goal 2 => (intro _; clear_value x)))
    | (intro x; (have t : Nat := x; clear t); clear_value x) | (intro x) | lift_lets -underBinder
    | with_reducible refine kept_doIf (fun _ _ => ?_) ?_ | with_reducible refine kept_forEach (fun _ _ _ => ?_) ?_
    | with_reducible refine kept_complete ?_ | with_reducible refine kept_loadDrop ?_
    | with_reducible refine kept_plateFail ?_ | with_reducible refine kept_calFail ?_
    | fail_if_no_progress (with_reducible refine Kept.upd ?_ rfl rfl rfl rfl rfl rfl) | split
    | with_reducible refine Kept.ofFst ?_ (by assumption) | with_reducible refine Kept.ofSnd ?_ (by assumption)
    | (clear_value *; split)

theorem kept_restartSteward (h0 : Kept kl ko ku s) :
    Kept kl ko ku (restartSteward s) := by
  unfold restartSteward
  repeat' first
    | with_reducible assumption | with_reducible refine Kept.ite (fun _ => ?_) (fun _ => ?_)
    | (intro x; with_reducible refine Kept.gen (kl := kl) (ko := ko) (ku := ku) (x := x) ?_ ?_; (on_goal 1 => unfold x); (on_goal 2 => (intro _; clear_value x)))
    | (intro x; (have t : Nat := x; clear t); clear_value x) | (intro x) | lift_lets -underBinder
    | with_reducible refine kept_stewardDrop ?_
    | fail_if_no_progress (with_reducible refine Kept.upd ?_ rfl rfl rfl rfl rfl rfl) | split
    | with_reducible refine Kept.ofFst ?_ (by assumption) | with_reducible refine Kept.ofSnd ?_ (by assumption)
    | (clear_value *; split)

theorem kept_microSwitch {k : McNext} {n : Nat} (h0 : Kept kl ko ku s) :
    Kept kl ko ku (microSwitch k n s) := by
  unfold microSwitch
  repeat' first
    | with_reducible assumption | with_reducible refine Kept.ite (fun _ => ?_) (fun _ => ?_)
    | (intro x; with_reducible refine Kept.gen (kl := kl) (ko := ko) (ku := ku) (x := x) ?_ ?_; (on_goal 1 => unfold x); (on_goal 2 => (intro _; clear_value x)))
    | (intro x; (have t : Nat := x; clear t); clear_value x) | (intro x) | lift_lets -underBinder
    | with_reducible refine kept_loadVendor ?_
    | fail_if_no_progress (with_reducible refine Kept.upd ?_ rfl rfl rfl rfl rfl rfl) | split
    | with_reducible refine Kept.ofFst ?_ (by assumption) | with_reducible refine Kept.ofSnd ?_ (by assumption)
    | (clear_value *; split)

theorem kept_runHeld {h : HeldCmd} (h0 : Kept kl ko ku s) :
    Kept kl ko ku (runHeld h s) := by
  unfold runHeld
  repeat' first
    | with_reducible assumption | with_reducible refine Kept.ite (fun _ => ?_) (fun _ => ?_)
    | with_reducible refine kept_bpmAct ?_ | with_reducible refine kept_qAct ?_
    | with_reducible refine kept_schedPerform ?_
    | fail_if_no_progress (with_reducible refine Kept.upd ?_ rfl rfl rfl rfl rfl rfl) | split
    | with_reducible refine Kept.ofFst ?_ (by assumption) | with_reducible refine Kept.ofSnd ?_ (by assumption)
    | (clear_value *; split)

theorem kept_tSwitch (h0 : Kept kl ko ku s) :
    Kept kl ko ku (tSwitch s) := by
  unfold tSwitch
  repeat' first
    | with_reducible assumption | with_reducible refine Kept.ite (fun _ => ?_) (fun _ => ?_)
    | (intro x; with_reducible refine Kept.gen (kl := kl) (ko := ko) (ku := ku) (x := x) ?_ ?_; (on_goal 1 => unfold x); (on_goal 2 => (intro _; clear_value x)))
    | (intro x; (have t : Nat := x; clear t); clear_value x) | (intro x) | lift_lets -underBinder
    | with_reducible refine kept_forEach (fun _ _ _ => ?_) ?_ | with_reducible refine kept_runHeld ?_
    | fail_if_no_progress (with_reducible refine Kept.upd ?_ rfl rfl rfl rfl rfl rfl) | split
    | with_reducible refine Kept.ofFst ?_ (by assumption) | with_reducible refine Kept.ofSnd ?_ (by assumption)
    | (clear_value *; split)

theorem kept_plateBack {n : Nat} (h0 : Kept kl ko ku s) :
    Kept kl ko ku (plateBack n s) := by
  unfold plateBack
  repeat' first
    | with_reducible assumption | with_reducible refine Kept.ite (fun _ => ?_) (fun _ => ?_)
    | (intro x; with_reducible refine Kept.gen (kl := kl) (ko := ko) (ku := ku) (x := x) ?_ ?_; (on_goal 1 => unfold x); (on_goal 2 => (intro _; clear_value x)))
    | (intro x; (have t : Nat := x; clear t); clear_value x) | (intro x) | lift_lets -underBinder
    | with_reducible refine kept_doIf (fun _ _ => ?_) ?_ | with_reducible refine kept_bankTo ?_
    | with_reducible refine kept_plateProof ?_ | with_reducible refine kept_updSwap ?_
    | fail_if_no_progress (with_reducible refine Kept.upd ?_ rfl rfl rfl rfl rfl rfl) | split
    | with_reducible refine Kept.ofFst ?_ (by assumption) | with_reducible refine Kept.ofSnd ?_ (by assumption)
    | (clear_value *; split)

theorem kept_activateEnd {f : Fail} (h0 : Kept kl ko ku s) :
    Kept kl ko ku (activateEnd f s) := by
  unfold activateEnd
  repeat' first
    | with_reducible assumption | with_reducible refine Kept.ite (fun _ => ?_) (fun _ => ?_)
    | (intro x; with_reducible refine Kept.gen (kl := kl) (ko := ko) (ku := ku) (x := x) ?_ ?_; (on_goal 1 => unfold x); (on_goal 2 => (intro _; clear_value x)))
    | (intro x; (have t : Nat := x; clear t); clear_value x) | (intro x) | lift_lets -underBinder
    | with_reducible refine kept_doIf (fun _ _ => ?_) ?_ | with_reducible refine kept_bankTo ?_
    | with_reducible refine kept_updTo ?_ | with_reducible refine kept_updDone ?_
    | with_reducible refine kept_latePreempt ?_ | with_reducible refine kept_setByUpd ?_
    | fail_if_no_progress (with_reducible refine Kept.upd ?_ rfl rfl rfl rfl rfl rfl) | split
    | with_reducible refine Kept.ofFst ?_ (by assumption) | with_reducible refine Kept.ofSnd ?_ (by assumption)
    | (clear_value *; split)

theorem kept_bcrRepair {chip : Nat} {rewriteFails : Bool} (h0 : Kept kl ko ku s) :
    Kept kl ko ku (bcrRepair chip rewriteFails s) := by
  unfold bcrRepair
  dsimp only
  repeat' first
    | with_reducible assumption | with_reducible refine Kept.ite (fun _ => ?_) (fun _ => ?_)
    | with_reducible refine kept_flashTo (fun _ => rfl) ?_ | with_reducible refine kept_useBcr ?_
    | with_reducible refine kept_writeCopies ?_ | with_reducible refine kept_updRecord ?_
    | fail_if_no_progress (with_reducible refine Kept.upd ?_ rfl rfl rfl rfl rfl rfl) | split
    | with_reducible refine Kept.ofFst ?_ (by assumption) | with_reducible refine Kept.ofSnd ?_ (by assumption)
    | (clear_value *; split)

theorem kept_activateUndo {type code : Nat} (h0 : Kept kl ko ku s) :
    Kept kl ko ku (activateUndo type code s) := by
  unfold activateUndo
  repeat' first
    | with_reducible assumption | with_reducible refine Kept.ite (fun _ => ?_) (fun _ => ?_)
    | (intro x; with_reducible refine Kept.gen (kl := kl) (ko := ko) (ku := ku) (x := x) ?_ ?_; (on_goal 1 => unfold x); (on_goal 2 => (intro _; clear_value x)))
    | (intro x; (have t : Nat := x; clear t); clear_value x) | (intro x) | lift_lets -underBinder
    | with_reducible refine kept_writeBcr ?_ | with_reducible refine kept_updTo ?_
    | with_reducible refine kept_updDone ?_ | with_reducible refine kept_updRecord ?_
    | with_reducible refine kept_latePreempt ?_ | with_reducible refine kept_setByUpd ?_
    | fail_if_no_progress (with_reducible refine Kept.upd ?_ rfl rfl rfl rfl rfl rfl) | split
    | with_reducible refine Kept.ofFst ?_ (by assumption) | with_reducible refine Kept.ofSnd ?_ (by assumption)
    | (clear_value *; split)

theorem kept_startConfirm (h0 : Kept kl ko ku s) :
    Kept kl ko ku (startConfirm s) := by
  unfold startConfirm
  repeat' first
    | with_reducible assumption | with_reducible refine Kept.ite (fun _ => ?_) (fun _ => ?_)
    | (intro x; with_reducible refine Kept.gen (kl := kl) (ko := ko) (ku := ku) (x := x) ?_ ?_; (on_goal 1 => unfold x); (on_goal 2 => (intro _; clear_value x)))
    | (intro x; (have t : Nat := x; clear t); clear_value x) | (intro x) | lift_lets -underBinder
    | fail_if_no_progress (with_reducible refine Kept.upd ?_ rfl rfl rfl rfl rfl rfl) | split
    | with_reducible refine Kept.ofFst ?_ (by assumption) | with_reducible refine Kept.ofSnd ?_ (by assumption)
    | (clear_value *; split)

theorem kept_revertMark {setId cause : Nat} (h0 : Kept kl ko ku s) :
    Kept kl ko ku (revertMark setId cause s) := by
  unfold revertMark
  repeat' first
    | with_reducible assumption | with_reducible refine Kept.ite (fun _ => ?_) (fun _ => ?_)
    | (intro x; with_reducible refine Kept.gen (kl := kl) (ko := ko) (ku := ku) (x := x) ?_ ?_; (on_goal 1 => unfold x); (on_goal 2 => (intro _; clear_value x)))
    | (intro x; (have t : Nat := x; clear t); clear_value x) | (intro x) | lift_lets -underBinder
    | with_reducible refine kept_setFld ?_ | with_reducible refine kept_inc ?_
    | with_reducible refine kept_updRecord ?_
    | fail_if_no_progress (with_reducible refine Kept.upd ?_ rfl rfl rfl rfl rfl rfl) | split
    | with_reducible refine Kept.ofFst ?_ (by assumption) | with_reducible refine Kept.ofSnd ?_ (by assumption)
    | (clear_value *; split)

theorem kept_revertEnd {cause : Nat} {cmd : Bool} {f : Option Fail} (h0 : Kept kl ko ku s) :
    Kept kl ko ku (revertEnd cause cmd f s) := by
  unfold revertEnd
  repeat' first
    | with_reducible assumption | with_reducible refine Kept.ite (fun _ => ?_) (fun _ => ?_)
    | (intro x; with_reducible refine Kept.gen (kl := kl) (ko := ko) (ku := ku) (x := x) ?_ ?_; (on_goal 1 => unfold x); (on_goal 2 => (intro _; clear_value x)))
    | (intro x; (have t : Nat := x; clear t); clear_value x) | (intro x) | lift_lets -underBinder
    | with_reducible refine kept_doIf (fun _ _ => ?_) ?_ | with_reducible refine kept_raiseRight ?_
    | with_reducible refine kept_updTo ?_ | with_reducible refine kept_dropNewArea ?_
    | with_reducible refine kept_updDone ?_ | with_reducible refine kept_revertMark ?_
    | fail_if_no_progress (with_reducible refine Kept.upd ?_ rfl rfl rfl rfl rfl rfl) | split
    | with_reducible refine Kept.ofFst ?_ (by assumption) | with_reducible refine Kept.ofSnd ?_ (by assumption)
    | (clear_value *; split)

theorem kept_backFinish {k : Back} {f : Option Fail} (h0 : Kept kl ko ku s) :
    Kept kl ko ku (backFinish k f s) := by
  unfold backFinish
  repeat' first
    | with_reducible assumption | with_reducible refine Kept.ite (fun _ => ?_) (fun _ => ?_)
    | (intro x; with_reducible refine Kept.gen (kl := kl) (ko := ko) (ku := ku) (x := x) ?_ ?_; (on_goal 1 => unfold x); (on_goal 2 => (intro _; clear_value x)))
    | (intro x; (have t : Nat := x; clear t); clear_value x) | (intro x) | lift_lets -underBinder
    | with_reducible refine kept_doIf (fun _ _ => ?_) ?_ | with_reducible refine kept_activateUndo ?_
    | with_reducible refine kept_revertEnd ?_
    | fail_if_no_progress (with_reducible refine Kept.upd ?_ rfl rfl rfl rfl rfl rfl) | split
    | with_reducible refine Kept.ofFst ?_ (by assumption) | with_reducible refine Kept.ofSnd ?_ (by assumption)
    | (clear_value *; split)

theorem kept_backGo {k : Back} (h0 : Kept kl ko ku s) :
    Kept kl ko ku (backGo k s) := by
  unfold backGo
  repeat' first
    | with_reducible assumption | with_reducible refine Kept.ite (fun _ => ?_) (fun _ => ?_)
    | (intro x; with_reducible refine Kept.gen (kl := kl) (ko := ko) (ku := ku) (x := x) ?_ ?_; (on_goal 1 => unfold x); (on_goal 2 => (intro _; clear_value x)))
    | (intro x; (have t : Nat := x; clear t); clear_value x) | (intro x) | lift_lets -underBinder
    | with_reducible refine kept_doIf (fun _ _ => ?_) ?_ | with_reducible refine kept_lockPass ?_
    | with_reducible refine kept_underKey (fun _ _ => ?_) ?_ | with_reducible refine kept_restartSteward ?_
    | with_reducible refine kept_microSwitch ?_ | with_reducible refine kept_plateBack ?_
    | with_reducible refine kept_backFinish ?_
    | fail_if_no_progress (with_reducible refine Kept.upd ?_ rfl rfl rfl rfl rfl rfl) | split
    | with_reducible refine Kept.ofFst ?_ (by assumption) | with_reducible refine Kept.ofSnd ?_ (by assumption)
    | (clear_value *; split)

theorem kept_backStart {k : Back} (h0 : Kept kl ko ku s) :
    Kept kl ko ku (backStart k s) := by
  unfold backStart
  repeat' first
    | with_reducible assumption | with_reducible refine Kept.ite (fun _ => ?_) (fun _ => ?_)
    | (intro x; with_reducible refine Kept.gen (kl := kl) (ko := ko) (ku := ku) (x := x) ?_ ?_; (on_goal 1 => unfold x); (on_goal 2 => (intro _; clear_value x)))
    | (intro x; (have t : Nat := x; clear t); clear_value x) | (intro x) | lift_lets -underBinder
    | with_reducible refine kept_drainEnd ?_ | with_reducible refine kept_backGo ?_
    | fail_if_no_progress (with_reducible refine Kept.upd ?_ rfl rfl rfl rfl rfl rfl) | split
    | with_reducible refine Kept.ofFst ?_ (by assumption) | with_reducible refine Kept.ofSnd ?_ (by assumption)
    | (clear_value *; split)

theorem kept_lateBack (h0 : Kept kl ko ku s) :
    Kept kl ko ku (lateBack s) := by
  unfold lateBack
  repeat' first
    | with_reducible assumption | with_reducible refine Kept.ite (fun _ => ?_) (fun _ => ?_)
    | with_reducible refine kept_backGo ?_
    | fail_if_no_progress (with_reducible refine Kept.upd ?_ rfl rfl rfl rfl rfl rfl) | split
    | with_reducible refine Kept.ofFst ?_ (by assumption) | with_reducible refine Kept.ofSnd ?_ (by assumption)
    | (clear_value *; split)

theorem kept_activateSwitch {sw : SwitchEnd} (h0 : Kept kl ko ku s) :
    Kept kl ko ku (activateSwitch sw s) := by
  unfold activateSwitch
  repeat' first
    | with_reducible assumption | with_reducible refine Kept.ite (fun _ => ?_) (fun _ => ?_)
    | with_reducible refine kept_microSwitch ?_ | with_reducible refine kept_activateUndo ?_
    | fail_if_no_progress (with_reducible refine Kept.upd ?_ rfl rfl rfl rfl rfl rfl) | split
    | with_reducible refine Kept.ofFst ?_ (by assumption) | with_reducible refine Kept.ofSnd ?_ (by assumption)
    | (clear_value *; split)

theorem kept_forwardGo {sw : SwitchEnd} (h0 : Kept kl ko ku s) :
    Kept kl ko ku (forwardGo sw s) := by
  unfold forwardGo
  repeat' first
    | with_reducible assumption | with_reducible refine Kept.ite (fun _ => ?_) (fun _ => ?_)
    | (intro x; with_reducible refine Kept.gen (kl := kl) (ko := ko) (ku := ku) (x := x) ?_ ?_; (on_goal 1 => unfold x); (on_goal 2 => (intro _; clear_value x)))
    | (intro x; (have t : Nat := x; clear t); clear_value x) | (intro x) | lift_lets -underBinder
    | with_reducible refine kept_updSwap ?_ | with_reducible refine kept_setByUpd ?_
    | with_reducible refine kept_restartSteward ?_ | with_reducible refine kept_backStart ?_
    | fail_if_no_progress (with_reducible refine Kept.upd ?_ rfl rfl rfl rfl rfl rfl) | split
    | with_reducible refine Kept.ofFst ?_ (by assumption) | with_reducible refine Kept.ofSnd ?_ (by assumption)
    | (clear_value *; split)

theorem kept_mcGo (h0 : Kept kl ko ku s) :
    Kept kl ko ku (mcGo s) := by
  unfold mcGo
  repeat' first
    | with_reducible assumption | with_reducible refine Kept.ite (fun _ => ?_) (fun _ => ?_)
    | (intro x; with_reducible refine Kept.gen (kl := kl) (ko := ko) (ku := ku) (x := x) ?_ ?_; (on_goal 1 => unfold x); (on_goal 2 => (intro _; clear_value x)))
    | (intro x; (have t : Nat := x; clear t); clear_value x) | (intro x) | lift_lets -underBinder
    | with_reducible refine kept_backFinish ?_ | with_reducible refine kept_forwardGo ?_
    | fail_if_no_progress (with_reducible refine Kept.upd ?_ rfl rfl rfl rfl rfl rfl) | split
    | with_reducible refine Kept.ofFst ?_ (by assumption) | with_reducible refine Kept.ofSnd ?_ (by assumption)
    | (clear_value *; split)

theorem kept_microBoundary (h0 : Kept kl ko ku s) :
    Kept kl ko ku (microBoundary s) := by
  unfold microBoundary
  repeat' first
    | with_reducible assumption | with_reducible refine Kept.ite (fun _ => ?_) (fun _ => ?_)
    | with_reducible refine kept_tSwitch ?_ | with_reducible refine kept_mcGo ?_
    | fail_if_no_progress (with_reducible refine Kept.upd ?_ rfl rfl rfl rfl rfl rfl) | split
    | with_reducible refine Kept.ofFst ?_ (by assumption) | with_reducible refine Kept.ofSnd ?_ (by assumption)
    | (clear_value *; split)

theorem kept_lostSwap (h0 : Kept kl ko ku s) :
    Kept kl ko ku (lostSwap s) := by
  unfold lostSwap
  repeat' first
    | with_reducible assumption | with_reducible refine Kept.ite (fun _ => ?_) (fun _ => ?_)
    | with_reducible refine kept_doIf (fun _ _ => ?_) ?_ | with_reducible refine kept_swapPoint ?_
    | fail_if_no_progress (with_reducible refine Kept.upd ?_ rfl rfl rfl rfl rfl rfl) | split
    | with_reducible refine Kept.ofFst ?_ (by assumption) | with_reducible refine Kept.ofSnd ?_ (by assumption)
    | (clear_value *; split)

theorem kept_activateSteps {sw : SwitchEnd} (h0 : Kept kl ko ku s) :
    Kept kl ko ku (activateSteps sw s) := by
  unfold activateSteps
  repeat' first
    | with_reducible assumption | with_reducible refine Kept.ite (fun _ => ?_) (fun _ => ?_)
    | (intro x; with_reducible refine Kept.gen (kl := kl) (ko := ko) (ku := ku) (x := x) ?_ ?_; (on_goal 1 => unfold x); (on_goal 2 => (intro _; clear_value x)))
    | (intro x; (have t : Nat := x; clear t); clear_value x) | (intro x) | lift_lets -underBinder
    | with_reducible apply kept_emit | with_reducible refine kept_bankTo ?_ | with_reducible refine kept_plateProof ?_
    | with_reducible refine kept_writeBcr ?_ | with_reducible refine kept_setByUpd ?_
    | with_reducible refine kept_activateEnd ?_ | with_reducible refine kept_bcrRepair ?_
    | with_reducible refine kept_activateSwitch ?_ | with_reducible refine kept_lostSwap ?_
    | fail_if_no_progress (with_reducible refine Kept.upd ?_ rfl rfl rfl rfl rfl rfl) | split
    | with_reducible refine Kept.ofFst ?_ (by assumption) | with_reducible refine Kept.ofSnd ?_ (by assumption)
    | (clear_value *; split)

theorem kept_activateAct {sw : SwitchEnd} (h0 : Kept kl ko ku s) :
    Kept kl ko ku (activateAct sw s) := by
  unfold activateAct
  repeat' first
    | with_reducible assumption | with_reducible refine Kept.ite (fun _ => ?_) (fun _ => ?_)
    | (intro x; with_reducible refine Kept.gen (kl := kl) (ko := ko) (ku := ku) (x := x) ?_ ?_; (on_goal 1 => unfold x); (on_goal 2 => (intro _; clear_value x)))
    | (intro x; (have t : Nat := x; clear t); clear_value x) | (intro x) | lift_lets -underBinder
    | with_reducible refine kept_inc ?_ | with_reducible refine kept_writeBcr ?_
    | with_reducible refine kept_updTo ?_ | with_reducible refine kept_updDone ?_
    | with_reducible refine kept_latePreempt ?_ | with_reducible refine kept_whenLockFree (fun _ _ => ?_) ?_
    | with_reducible refine kept_setByUpd ?_ | with_reducible refine kept_bcrRepair ?_
    | with_reducible refine kept_activateSteps ?_
    | fail_if_no_progress (with_reducible refine Kept.upd ?_ rfl rfl rfl rfl rfl rfl) | split
    | with_reducible refine Kept.ofFst ?_ (by assumption) | with_reducible refine Kept.ofSnd ?_ (by assumption)
    | (clear_value *; split)

theorem kept_stewardReady (h0 : Kept kl ko ku s) :
    Kept kl ko ku (stewardReady s) := by
  unfold stewardReady
  repeat' first
    | with_reducible assumption | with_reducible refine Kept.ite (fun _ => ?_) (fun _ => ?_)
    | (intro x; with_reducible refine Kept.gen (kl := kl) (ko := ko) (ku := ku) (x := x) ?_ ?_; (on_goal 1 => unfold x); (on_goal 2 => (intro _; clear_value x)))
    | (intro x; (have t : Nat := x; clear t); clear_value x) | (intro x) | lift_lets -underBinder
    | with_reducible refine kept_inc ?_ | with_reducible refine kept_updTo ?_ | with_reducible refine kept_updDone ?_
    | with_reducible refine kept_latePreempt ?_ | with_reducible refine kept_startConfirm ?_
    | with_reducible refine kept_backStart ?_
    | fail_if_no_progress (with_reducible refine Kept.upd ?_ rfl rfl rfl rfl rfl rfl) | split
    | with_reducible refine Kept.ofFst ?_ (by assumption) | with_reducible refine Kept.ofSnd ?_ (by assumption)
    | (clear_value *; split)

theorem kept_confirmAct (h0 : Kept kl ko ku s) :
    Kept kl ko ku (confirmAct s) := by
  unfold confirmAct
  repeat' first
    | with_reducible assumption | with_reducible refine Kept.ite (fun _ => ?_) (fun _ => ?_)
    | (intro x; with_reducible refine Kept.gen (kl := kl) (ko := ko) (ku := ku) (x := x) ?_ ?_; (on_goal 1 => unfold x); (on_goal 2 => (intro _; clear_value x)))
    | (intro x; (have t : Nat := x; clear t); clear_value x) | (intro x) | lift_lets -underBinder
    | with_reducible refine kept_doIf (fun _ _ => ?_) ?_ | with_reducible refine kept_inc ?_
    | with_reducible refine kept_writeBcr ?_ | with_reducible refine kept_updTo ?_
    | with_reducible refine kept_setArea ?_
    | fail_if_no_progress (with_reducible refine Kept.upd ?_ rfl rfl rfl rfl rfl rfl) | split
    | with_reducible refine Kept.ofFst ?_ (by assumption) | with_reducible refine Kept.ofSnd ?_ (by assumption)
    | (clear_value *; split)

theorem kept_revertAct {cause : Nat} {cmd : Bool} (h0 : Kept kl ko ku s) :
    Kept kl ko ku (revertAct cause cmd s) := by
  unfold revertAct
  repeat' first
    | with_reducible assumption | with_reducible refine Kept.ite (fun _ => ?_) (fun _ => ?_)
    | with_reducible refine kept_revertEnd ?_ | with_reducible refine kept_backStart ?_
    | fail_if_no_progress (with_reducible refine Kept.upd ?_ rfl rfl rfl rfl rfl rfl) | split
    | with_reducible refine Kept.ofFst ?_ (by assumption) | with_reducible refine Kept.ofSnd ?_ (by assumption)
    | (clear_value *; split)

theorem kept_confirmExpire (h0 : Kept kl ko ku s) :
    Kept kl ko ku (confirmExpire s) := by
  unfold confirmExpire
  repeat' first
    | with_reducible assumption | with_reducible refine Kept.ite (fun _ => ?_) (fun _ => ?_)
    | (intro x; with_reducible refine Kept.gen (kl := kl) (ko := ko) (ku := ku) (x := x) ?_ ?_; (on_goal 1 => unfold x); (on_goal 2 => (intro _; clear_value x)))
    | (intro x; (have t : Nat := x; clear t); clear_value x) | (intro x) | lift_lets -underBinder
    | with_reducible refine kept_doIf (fun _ _ => ?_) ?_ | with_reducible refine kept_revertAct ?_
    | fail_if_no_progress (with_reducible refine Kept.upd ?_ rfl rfl rfl rfl rfl rfl) | split
    | with_reducible refine Kept.ofFst ?_ (by assumption) | with_reducible refine Kept.ofSnd ?_ (by assumption)
    | (clear_value *; split)

theorem kept_updCfgEffect (h0 : Kept kl ko ku s) :
    Kept kl ko ku (updCfgEffect s) := by
  unfold updCfgEffect
  repeat' first
    | with_reducible assumption | with_reducible refine Kept.ite (fun _ => ?_) (fun _ => ?_)
    | (intro x; with_reducible refine Kept.gen (kl := kl) (ko := ko) (ku := ku) (x := x) ?_ ?_; (on_goal 1 => unfold x); (on_goal 2 => (intro _; clear_value x)))
    | (intro x; (have t : Nat := x; clear t); clear_value x) | (intro x) | lift_lets -underBinder
    | fail_if_no_progress (with_reducible refine Kept.upd ?_ rfl rfl rfl rfl rfl rfl) | split
    | with_reducible refine Kept.ofFst ?_ (by assumption) | with_reducible refine Kept.ofSnd ?_ (by assumption)
    | (clear_value *; split)

theorem kept_updCommand {fn : Fn} {op p comp : Nat} {act : State → State} (hact : ∀ s, Kept kl ko ku s → Kept kl ko ku (act s)) (h0 : Kept kl ko ku s) :
    Kept kl ko ku (updCommand fn op p comp act s) := by
  unfold updCommand
  repeat' first
    | with_reducible assumption | with_reducible refine Kept.ite (fun _ => ?_) (fun _ => ?_)
    | (intro x; with_reducible refine Kept.gen (kl := kl) (ko := ko) (ku := ku) (x := x) ?_ ?_; (on_goal 1 => unfold x); (on_goal 2 => (intro _; clear_value x)))
    | (intro x; (have t : Nat := x; clear t); clear_value x) | (intro x) | lift_lets -underBinder
    | with_reducible refine hact _ ?_ | with_reducible refine kept_doIf (fun _ _ => ?_) ?_
    | with_reducible refine kept_denied ?_ | with_reducible refine kept_complete ?_
    | with_reducible refine kept_issue (fun _ _ => ?_) ?_ | with_reducible refine kept_failCmd ?_
    | with_reducible refine kept_updHold ?_
    | fail_if_no_progress (with_reducible refine Kept.upd ?_ rfl rfl rfl rfl rfl rfl) | split
    | with_reducible refine Kept.ofFst ?_ (by assumption) | with_reducible refine Kept.ofSnd ?_ (by assumption)
    | (clear_value *; split)

theorem kept_updIssue {fn : Fn} {op comp : Nat} {act : Nat → State → State} (hact : ∀ x0 s, Kept kl ko ku s → Kept kl ko ku (act x0 s)) (h0 : Kept kl ko ku s) :
    Kept kl ko ku (updIssue fn op comp act s) := by
  unfold updIssue
  repeat' first
    | with_reducible assumption | with_reducible refine Kept.ite (fun _ => ?_) (fun _ => ?_)
    | with_reducible refine hact _ _ ?_ | with_reducible refine kept_access (fun _ _ _ _ _ => ?_) ?_
    | with_reducible refine kept_updCommand (fun _ _ => ?_) ?_
    | fail_if_no_progress (with_reducible refine Kept.upd ?_ rfl rfl rfl rfl rfl rfl) | split
    | with_reducible refine Kept.ofFst ?_ (by assumption) | with_reducible refine Kept.ofSnd ?_ (by assumption)
    | (clear_value *; split)

theorem kept_closeAct (h0 : Kept kl ko ku s) :
    Kept kl ko ku (closeAct s) := by
  unfold closeAct
  repeat' first
    | with_reducible assumption | with_reducible refine Kept.ite (fun _ => ?_) (fun _ => ?_)
    | with_reducible refine kept_endSession ?_ | with_reducible refine kept_updDone ?_
    | fail_if_no_progress (with_reducible refine Kept.upd ?_ rfl rfl rfl rfl rfl rfl) | split
    | with_reducible refine Kept.ofFst ?_ (by assumption) | with_reducible refine Kept.ofSnd ?_ (by assumption)
    | (clear_value *; split)

theorem kept_sessionLapse (h0 : Kept kl ko ku s) :
    Kept kl ko ku (sessionLapse s) := by
  unfold sessionLapse
  repeat' first
    | with_reducible assumption | with_reducible refine Kept.ite (fun _ => ?_) (fun _ => ?_)
    | (intro x; with_reducible refine Kept.gen (kl := kl) (ko := ko) (ku := ku) (x := x) ?_ ?_; (on_goal 1 => unfold x); (on_goal 2 => (intro _; clear_value x)))
    | (intro x; (have t : Nat := x; clear t); clear_value x) | (intro x) | lift_lets -underBinder
    | with_reducible refine kept_lapseSession ?_
    | fail_if_no_progress (with_reducible refine Kept.upd ?_ rfl rfl rfl rfl rfl rfl) | split
    | with_reducible refine Kept.ofFst ?_ (by assumption) | with_reducible refine Kept.ofSnd ?_ (by assumption)
    | (clear_value *; split)

theorem kept_updResume (h0 : Kept kl ko ku s) :
    Kept kl ko ku (updResume s) := by
  unfold updResume
  repeat' first
    | with_reducible assumption | with_reducible refine Kept.ite (fun _ => ?_) (fun _ => ?_)
    | with_reducible refine kept_lockPass ?_ | with_reducible refine kept_openFinish ?_
    | with_reducible refine kept_verifyFinish ?_ | with_reducible refine kept_lateBack ?_
    | with_reducible refine kept_activateSteps ?_
    | fail_if_no_progress (with_reducible refine Kept.upd ?_ rfl rfl rfl rfl rfl rfl) | split
    | with_reducible refine Kept.ofFst ?_ (by assumption) | with_reducible refine Kept.ofSnd ?_ (by assumption)
    | (clear_value *; split)

end Sys2Proof.Machine
end

