-- ==== Sys2Proof/Laws/KeptExec.lean ====
section
/-! SUPPORT. Every command and every step keeps what Kept says. -/

namespace Sys2Proof.Machine

set_option linter.unreachableTactic false
set_option linter.unusedTactic false
set_option linter.unusedVariables false

variable {kl : List Instr} {ko : List OwnerCfg} {ku : List Out} {s t : State}

theorem kept_execBurinEventEnd {engine : Nat} {errs : List (Nat × Ecc)} (h : execBurinEventEnd engine errs s = .next
    t) (h0 : Kept kl ko ku s) : Kept kl ko ku t := by
  unfold execBurinEventEnd at h
  obtain ⟨-, rfl⟩ := guardWf_next h
  repeat' first
    | with_reducible assumption | with_reducible refine kept_doIf (fun _ _ => ?_) ?_
    | with_reducible refine kept_eventEnd ?_

theorem kept_execBurinEventAbandon {engine : Nat} {errs : List (Nat × Ecc)} (h : execBurinEventAbandon engine errs s
    = .next t) (h0 : Kept kl ko ku s) : Kept kl ko ku t := by
  unfold execBurinEventAbandon at h
  obtain ⟨-, rfl⟩ := guardWf_next h
  repeat' first
    | with_reducible assumption | with_reducible refine kept_doIf (fun _ _ => ?_) ?_
    | with_reducible refine kept_eventAbandon ?_

theorem kept_execBurinFault {engine : Nat} {errs : List (Nat × Ecc)} (h : execBurinFault engine errs s = .next t)
    (h0 : Kept kl ko ku s) : Kept kl ko ku t := by
  unfold execBurinFault at h
  obtain ⟨-, rfl⟩ := guardWf_next h
  repeat' first
    | with_reducible assumption | with_reducible refine kept_doIf (fun _ _ => ?_) ?_
    | with_reducible refine kept_eventFault ?_

theorem kept_execBurinEventStart {engine : Nat} {session : Nat} {ecc : Ecc} (h : execBurinEventStart engine session
    ecc s = .next t) (h0 : Kept kl ko ku s) : Kept kl ko ku t := by
  unfold execBurinEventStart at h
  obtain ⟨-, rfl⟩ := guardWf_next h
  repeat' first
    | with_reducible assumption | with_reducible refine kept_eventStart ?_

theorem kept_execBurinTimerExpire {session : Nat} {timer : Nat} (h : execBurinTimerExpire session timer s = .next t)
    (h0 : Kept kl ko ku s) : Kept kl ko ku t := by
  unfold execBurinTimerExpire at h
  obtain ⟨-, rfl⟩ := guardWf_next h
  repeat' first
    | with_reducible assumption | with_reducible refine kept_timerExpire ?_

theorem kept_execBurinRegionSwitch (h : execBurinRegionSwitch s = .next t) (h0 : Kept kl ko ku s) : Kept kl ko ku t :=
    by
  unfold execBurinRegionSwitch at h
  obtain ⟨-, rfl⟩ := guardWf_next h
  repeat' first
    | with_reducible assumption | with_reducible refine kept_burinSwitch ?_ | with_reducible refine kept_mcGo ?_

theorem kept_execBurinEvent {fn : Fn} {evtOp : Nat} (h : execBurinEvent fn evtOp s = .next t) (h0 : Kept kl ko ku s)
    : Kept kl ko ku t := by
  unfold execBurinEvent at h
  obtain ⟨-, rfl⟩ := guardWf_next h
  repeat' first
    | with_reducible assumption | with_reducible refine kept_burinIssue ?_

theorem kept_execBurinCreate {fn : Fn} (h : execBurinCreate fn s = .next t) (h0 : Kept kl ko ku s) : Kept kl ko ku t
    := by
  unfold execBurinCreate at h
  obtain ⟨-, rfl⟩ := guardWf_next h
  repeat' first
    | with_reducible assumption | with_reducible refine kept_burinIssue ?_

theorem kept_execBurinDelete {fn : Fn} (h : execBurinDelete fn s = .next t) (h0 : Kept kl ko ku s) : Kept kl ko ku t
    := by
  unfold execBurinDelete at h
  obtain ⟨-, rfl⟩ := guardWf_next h
  repeat' first
    | with_reducible assumption | with_reducible refine kept_burinIssue ?_

theorem kept_execBurinCtxRead {fn : Fn} {ecc : Ecc} (h : execBurinCtxRead fn ecc s = .next t) (h0 : Kept kl ko ku s)
    : Kept kl ko ku t := by
  unfold execBurinCtxRead at h
  obtain ⟨-, rfl⟩ := guardWf_next h
  repeat' first
    | with_reducible assumption | with_reducible refine kept_burinIssue ?_

theorem kept_execBurinClearFault {fn : Fn} (h : execBurinClearFault fn s = .next t) (h0 : Kept kl ko ku s) : Kept kl
    ko ku t := by
  unfold execBurinClearFault at h
  obtain ⟨-, rfl⟩ := guardWf_next h
  repeat' first
    | with_reducible assumption | with_reducible refine kept_burinIssue ?_

theorem kept_execBurinLoad {fn : Fn} {image : Dma} (h : execBurinLoad fn image s = .next t) (h0 : Kept kl ko ku s) :
    Kept kl ko ku t := by
  unfold execBurinLoad at h
  obtain ⟨-, rfl⟩ := guardWf_next h
  repeat' first
    | with_reducible assumption | with_reducible refine kept_burinIssue ?_

theorem kept_execPlateLoad {fn : Fn} {bank : Nat} {gen : Nat} (h : execPlateLoad fn bank gen s = .next t) (h0 : Kept
    kl ko ku s) : Kept kl ko ku t := by
  unfold execPlateLoad at h
  obtain ⟨-, rfl⟩ := guardWf_next h
  repeat' first
    | with_reducible assumption | with_reducible refine kept_plateIssue ?_

theorem kept_execPlateSwap {fn : Fn} {bank : Nat} {gen : Nat} (h : execPlateSwap fn bank gen s = .next t) (h0 : Kept
    kl ko ku s) : Kept kl ko ku t := by
  unfold execPlateSwap at h
  obtain ⟨-, rfl⟩ := guardWf_next h
  repeat' first
    | with_reducible assumption | with_reducible refine kept_plateIssue ?_

theorem kept_execPlateAbort {fn : Fn} {bank gen : Nat} (h : execPlateAbort fn bank gen s = .next t) (h0 : Kept kl ko
    ku s) : Kept kl ko ku t := by
  unfold execPlateAbort at h
  obtain ⟨-, rfl⟩ := guardWf_next h
  repeat' first
    | with_reducible assumption | with_reducible refine kept_plateIssue ?_ | with_reducible refine kept_lateBack ?_

theorem kept_execPlateLoadData {d : Dma} {storeOk : Bool} (h : execPlateLoadData d storeOk s = .next t) (h0 : Kept kl
    ko ku s) : Kept kl ko ku t := by
  unfold execPlateLoadData at h
  obtain ⟨-, rfl⟩ := guardWf_next h
  repeat' first
    | with_reducible assumption | with_reducible refine kept_plateData ?_ | with_reducible refine kept_lateBack ?_

theorem kept_execPlateVerifyDone (h : execPlateVerifyDone s = .next t) (h0 : Kept kl ko ku s) : Kept kl ko ku t := by
  unfold execPlateVerifyDone at h
  obtain ⟨-, rfl⟩ := guardWf_next h
  repeat' first
    | with_reducible assumption | with_reducible refine kept_plateVerify ?_ | with_reducible refine kept_lateBack ?_

theorem kept_execPlateSwapPoint (h : execPlateSwapPoint s = .next t) (h0 : Kept kl ko ku s) : Kept kl ko ku t := by
  unfold execPlateSwapPoint at h
  obtain ⟨-, rfl⟩ := guardWf_next h
  repeat' first
    | with_reducible assumption | with_reducible refine kept_swapPoint ?_ | with_reducible refine kept_lateBack ?_

theorem kept_execPlateDrainEnd (h : execPlateDrainEnd s = .next t) (h0 : Kept kl ko ku s) : Kept kl ko ku t := by
  unfold execPlateDrainEnd at h
  obtain ⟨-, rfl⟩ := guardWf_next h
  repeat' first
    | with_reducible assumption | with_reducible refine kept_drainEnd ?_ | with_reducible refine kept_lateBack ?_

theorem kept_execPlateDrainOverrun (h : execPlateDrainOverrun s = .next t) (h0 : Kept kl ko ku s) : Kept kl ko ku t :=
    by
  unfold execPlateDrainOverrun at h
  obtain ⟨-, rfl⟩ := guardWf_next h
  repeat' first
    | with_reducible assumption | with_reducible refine kept_drainOverrun ?_ | with_reducible refine kept_lateBack ?_

theorem kept_execPlateScrub {bank word : Nat} {ecc : Ecc} (h : execPlateScrub bank word ecc s = .next t) (h0 : Kept kl
    ko ku s) : Kept kl ko ku t := by
  unfold execPlateScrub at h
  obtain ⟨-, rfl⟩ := guardWf_next h
  repeat' first
    | with_reducible assumption | with_reducible refine kept_plateScrub ?_ | with_reducible refine kept_lateBack ?_

theorem kept_execPipelineQuiesced {pipe : Nat} (h : execPipelineQuiesced pipe s = .next t) (h0 : Kept kl ko ku s) :
    Kept kl ko ku t := by
  unfold execPipelineQuiesced at h
  obtain ⟨-, rfl⟩ := guardWf_next h
  repeat' first
    | with_reducible assumption | with_reducible refine kept_pipeQuiet ?_

theorem kept_execPacketParse {pkt : Nat} {x : StageIn} (h : execPacketParse pkt x s = .next t) (h0 : Kept kl ko ku
    s) : Kept kl ko ku t := by
  unfold execPacketParse at h
  obtain ⟨-, rfl⟩ := guardWf_next h
  repeat' first
    | with_reducible assumption | with_reducible refine kept_packetParse ?_

theorem kept_execSealAcquire {fn : Fn} (h : execSealAcquire fn s = .next t) (h0 : Kept kl ko ku s) : Kept kl ko ku t
    := by
  unfold execSealAcquire at h
  obtain ⟨-, rfl⟩ := guardWf_next h
  repeat' first
    | with_reducible assumption | with_reducible refine kept_access (fun _ _ _ _ _ => ?_) ?_
    | with_reducible refine kept_lockAcquire ?_

theorem kept_execSealRelease {fn : Fn} (h : execSealRelease fn s = .next t) (h0 : Kept kl ko ku s) : Kept kl ko ku t
    := by
  unfold execSealRelease at h
  obtain ⟨-, rfl⟩ := guardWf_next h
  repeat' first
    | with_reducible assumption | with_reducible refine kept_access (fun _ _ _ _ _ => ?_) ?_
    | with_reducible refine kept_lockRelease ?_

theorem kept_execSealBreak {fn : Fn} (h : execSealBreak fn s = .next t) (h0 : Kept kl ko ku s) : Kept kl ko ku t :=
    by
  unfold execSealBreak at h
  obtain ⟨-, rfl⟩ := guardWf_next h
  repeat' first
    | with_reducible assumption | with_reducible refine kept_access (fun _ _ _ _ _ => ?_) ?_
    | with_reducible refine kept_lockBreak ?_

theorem kept_execSealUnwrap {fn : Fn} {slot : Nat} {blob : Dma} {ecc kekEcc : Ecc} (h : execSealUnwrap fn slot blob ecc kekEcc s =
    .next t) (h0 : Kept kl ko ku s) : Kept kl ko ku t := by
  unfold execSealUnwrap at h
  obtain ⟨-, rfl⟩ := guardWf_next h
  repeat' first
    | with_reducible assumption | with_reducible refine kept_sealIssue (fun _ _ _ => ?_) ?_
    | with_reducible refine kept_unwrapAct ?_

theorem kept_execSealClear {fn : Fn} {slot : Nat} {ecc : Ecc} (h : execSealClear fn slot ecc s = .next t) (h0 : Kept
    kl ko ku s) : Kept kl ko ku t := by
  unfold execSealClear at h
  obtain ⟨-, rfl⟩ := guardWf_next h
  repeat' first
    | with_reducible assumption | with_reducible refine kept_slotClear ?_ | with_reducible refine kept_sealDone ?_
    | with_reducible refine kept_sealIssue (fun _ _ _ => ?_) ?_

theorem kept_execSealEncrypt {fn : Fn} {slot tagLen : Nat} {aad text : Dma} {part : Bytes} {ecc : Ecc} (h :
    execSealEncrypt fn slot tagLen aad text part ecc s = .next t) (h0 : Kept kl ko ku s) : Kept kl ko ku t := by
  unfold execSealEncrypt at h
  obtain ⟨-, rfl⟩ := guardWf_next h
  repeat' first
    | with_reducible assumption | with_reducible refine kept_sealIssue (fun _ _ _ => ?_) ?_
    | with_reducible refine kept_encryptAct ?_

theorem kept_execSealDecrypt {fn : Fn} {slot tagLen : Nat} {stream : Bool} {aad text : Dma} {part : Bytes} {ecc : Ecc}
    (h : execSealDecrypt fn slot tagLen stream aad text part ecc s = .next t) (h0 : Kept kl ko ku s) : Kept kl ko ku t
    := by
  unfold execSealDecrypt at h
  obtain ⟨-, rfl⟩ := guardWf_next h
  repeat' first
    | with_reducible assumption | with_reducible refine kept_sealIssue (fun _ _ _ => ?_) ?_
    | with_reducible refine kept_decryptAct ?_

theorem kept_execTwinRecordReceive {lane : Nat} {cell : Bytes} (h : execTwinRecordReceive lane cell s = .next t) (h0
    : Kept kl ko ku s) : Kept kl ko ku t := by
  unfold execTwinRecordReceive at h
  obtain ⟨-, rfl⟩ := guardWf_next h
  repeat' first
    | with_reducible assumption | with_reducible refine kept_twinReceive ?_

theorem kept_execTwinLinkDown (h : execTwinLinkDown s = .next t) (h0 : Kept kl ko ku s) : Kept kl ko ku t := by
  unfold execTwinLinkDown at h
  obtain ⟨-, rfl⟩ := guardWf_next h
  repeat' first
    | with_reducible assumption | with_reducible refine kept_twinLinkDown ?_

theorem kept_execTwinHealthInFall (h : execTwinHealthInFall s = .next t) (h0 : Kept kl ko ku s) : Kept kl ko ku t :=
    by
  unfold execTwinHealthInFall at h
  obtain ⟨-, rfl⟩ := guardWf_next h
  repeat' first
    | with_reducible assumption | with_reducible refine kept_healthInFall ?_

theorem kept_execTwinHealthInRise (h : execTwinHealthInRise s = .next t) (h0 : Kept kl ko ku s) : Kept kl ko ku t :=
    by
  unfold execTwinHealthInRise at h
  obtain ⟨-, rfl⟩ := guardWf_next h
  repeat' first
    | with_reducible assumption | with_reducible refine kept_healthInRise ?_

theorem kept_execTwinHealthWaitExpire (h : execTwinHealthWaitExpire s = .next t) (h0 : Kept kl ko ku s) : Kept kl ko
    ku t := by
  unfold execTwinHealthWaitExpire at h
  obtain ⟨-, rfl⟩ := guardWf_next h
  repeat' first
    | with_reducible assumption | with_reducible refine kept_healthWait ?_

theorem kept_execTwinSwitch {fn : Fn} (h : execTwinSwitch fn s = .next t) (h0 : Kept kl ko ku s) : Kept kl ko ku t
    := by
  unfold execTwinSwitch at h
  obtain ⟨-, rfl⟩ := guardWf_next h
  repeat' first
    | with_reducible assumption | with_reducible refine kept_twinIssue ?_

theorem kept_execTwinForceActive {fn : Fn} (h : execTwinForceActive fn s = .next t) (h0 : Kept kl ko ku s) : Kept kl
    ko ku t := by
  unfold execTwinForceActive at h
  obtain ⟨-, rfl⟩ := guardWf_next h
  repeat' first
    | with_reducible assumption | with_reducible refine kept_twinIssue ?_

theorem kept_execTwinClearFailed {fn : Fn} (h : execTwinClearFailed fn s = .next t) (h0 : Kept kl ko ku s) : Kept kl
    ko ku t := by
  unfold execTwinClearFailed at h
  obtain ⟨-, rfl⟩ := guardWf_next h
  repeat' first
    | with_reducible assumption | with_reducible refine kept_twinIssue ?_

theorem kept_execMultiframeBoundary {vote : Vote} (h : execMultiframeBoundary vote s = .next t) (h0 : Kept kl ko ku s)
    : Kept kl ko ku t := by
  unfold execMultiframeBoundary at h
  obtain ⟨-, rfl⟩ := guardWf_next h
  repeat' first
    | with_reducible assumption | with_reducible refine kept_doIf (fun _ _ => ?_) ?_
    | with_reducible refine kept_multiframeBoundary ?_ | with_reducible refine kept_microBoundary ?_

theorem kept_execUpdPreempt {fn : Fn} (h : execUpdPreempt fn s = .next t) (h0 : Kept kl ko ku s) : Kept kl ko ku t
    := by
  unfold execUpdPreempt at h
  obtain ⟨-, rfl⟩ := guardWf_next h
  repeat' first
    | with_reducible assumption | with_reducible refine kept_access (fun _ _ _ _ _ => ?_) ?_
    | with_reducible refine kept_preemptWrite ?_

theorem kept_execUpdSealWaitTimeout (h : execUpdSealWaitTimeout s = .next t) (h0 : Kept kl ko ku s) : Kept kl ko ku
    t := by
  unfold execUpdSealWaitTimeout at h
  obtain ⟨-, rfl⟩ := guardWf_next h
  repeat' first
    | with_reducible assumption | with_reducible refine kept_sealWaitTimeout ?_

theorem kept_execStewardReady (h : execStewardReady s = .next t) (h0 : Kept kl ko ku s) : Kept kl ko ku t := by
  unfold execStewardReady at h
  obtain ⟨-, rfl⟩ := guardWf_next h
  repeat' first
    | with_reducible assumption | with_reducible refine kept_stewardReady ?_

theorem kept_execConfirmTimerExpire (h : execConfirmTimerExpire s = .next t) (h0 : Kept kl ko ku s) : Kept kl ko ku
    t := by
  unfold execConfirmTimerExpire at h
  obtain ⟨-, rfl⟩ := guardWf_next h
  repeat' first
    | with_reducible assumption | with_reducible refine kept_confirmExpire ?_

theorem kept_execUpdOpen {fn : Fn} {manifest : Dma} (h : execUpdOpen fn manifest s = .next t) (h0 : Kept kl ko ku s) :
    Kept kl ko ku t := by
  unfold execUpdOpen at h
  obtain ⟨-, rfl⟩ := guardWf_next h
  repeat' first
    | with_reducible assumption | with_reducible refine kept_openAct ?_
    | with_reducible refine kept_updIssue (fun _ _ _ => ?_) ?_

theorem kept_execUpdWrite {fn : Fn} {comp : Nat} {chunk : Dma} {progOk : Bool} (h : execUpdWrite fn comp chunk progOk
    s = .next t) (h0 : Kept kl ko ku s) : Kept kl ko ku t := by
  unfold execUpdWrite at h
  obtain ⟨-, rfl⟩ := guardWf_next h
  repeat' first
    | with_reducible assumption | with_reducible refine kept_writeAct ?_
    | with_reducible refine kept_updIssue (fun _ _ _ => ?_) ?_

theorem kept_execUpdVerify {fn : Fn} (h : execUpdVerify fn s = .next t) (h0 : Kept kl ko ku s) : Kept kl ko ku t := by
  unfold execUpdVerify at h
  obtain ⟨-, rfl⟩ := guardWf_next h
  repeat' first
    | with_reducible assumption | with_reducible refine kept_verifyAct ?_
    | with_reducible refine kept_updIssue (fun _ _ _ => ?_) ?_

theorem kept_execUpdActivate {fn : Fn} {sw : SwitchEnd} (h : execUpdActivate fn sw s = .next t) (h0 : Kept kl ko ku s)
    : Kept kl ko ku t := by
  unfold execUpdActivate at h
  obtain ⟨-, rfl⟩ := guardWf_next h
  repeat' first
    | with_reducible assumption | with_reducible refine kept_activateAct ?_
    | with_reducible refine kept_updIssue (fun _ _ _ => ?_) ?_

theorem kept_execUpdConfirm {fn : Fn} (h : execUpdConfirm fn s = .next t) (h0 : Kept kl ko ku s) : Kept kl ko ku t :=
    by
  unfold execUpdConfirm at h
  obtain ⟨-, rfl⟩ := guardWf_next h
  repeat' first
    | with_reducible assumption | with_reducible refine kept_updDone ?_ | with_reducible refine kept_confirmAct ?_
    | with_reducible refine kept_updIssue (fun _ _ _ => ?_) ?_

theorem kept_execUpdRevert {fn : Fn} (h : execUpdRevert fn s = .next t) (h0 : Kept kl ko ku s) : Kept kl ko ku t := by
  unfold execUpdRevert at h
  obtain ⟨-, rfl⟩ := guardWf_next h
  repeat' first
    | with_reducible assumption | with_reducible refine kept_revertAct ?_
    | with_reducible refine kept_updIssue (fun _ _ _ => ?_) ?_

theorem kept_execUpdClose {fn : Fn} (h : execUpdClose fn s = .next t) (h0 : Kept kl ko ku s) : Kept kl ko ku t := by
  unfold execUpdClose at h
  obtain ⟨-, rfl⟩ := guardWf_next h
  repeat' first
    | with_reducible assumption | with_reducible refine kept_updIssue (fun _ _ _ => ?_) ?_
    | with_reducible refine kept_closeAct ?_

theorem kept_execUpdSessionLapsed (h : execUpdSessionLapsed s = .next t) (h0 : Kept kl ko ku s) : Kept kl ko ku t :=
    by
  unfold execUpdSessionLapsed at h
  obtain ⟨-, rfl⟩ := guardWf_next h
  repeat' first
    | with_reducible assumption | with_reducible refine kept_sessionLapse ?_

theorem kept_execHeaderSegmentArrive {port : Nat} {seg : Bytes} {whole bad : Bool} {fec : Fec} (h :
    execHeaderSegmentArrive port seg whole bad fec s = .next t) (h0 : Kept kl ko ku s) : Kept kl ko ku t := by
  unfold execHeaderSegmentArrive at h
  obtain ⟨-, rfl⟩ := guardWf_next h
  repeat' first
    | with_reducible assumption | with_reducible refine kept_routedSegment ?_

theorem kept_execPauseFrameReceive {port len : Nat} {bad : Bool} {quanta : Nat} {fec : Fec} (h : execPauseFrameReceive
    port len bad quanta fec s = .next t) (h0 : Kept kl ko ku s) : Kept kl ko ku t := by
  unfold execPauseFrameReceive at h
  obtain ⟨-, rfl⟩ := guardWf_next h
  repeat' first
    | with_reducible assumption | with_reducible refine kept_pauseReceive ?_

theorem kept_execPfcFrameReceive {port len : Nat} {bad : Bool} {enables : BitVec 8} {quanta : List Nat} {fec : Fec} (h
    : execPfcFrameReceive port len bad enables quanta fec s = .next t) (h0 : Kept kl ko ku s) : Kept kl ko ku t := by
  unfold execPfcFrameReceive at h
  obtain ⟨-, rfl⟩ := guardWf_next h
  repeat' first
    | with_reducible assumption | with_reducible refine kept_pfcReceive ?_

theorem kept_execPauseExpire {port : Nat} (h : execPauseExpire port s = .next t) (h0 : Kept kl ko ku s) : Kept kl ko
    ku t := by
  unfold execPauseExpire at h
  obtain ⟨-, rfl⟩ := guardWf_next h
  repeat' first
    | with_reducible assumption | with_reducible refine kept_pauseEnd ?_

theorem kept_execXoffSignal {port : Nat} {prio : Nat} (h : execXoffSignal port prio s = .next t) (h0 : Kept kl ko ku
    s) : Kept kl ko ku t := by
  unfold execXoffSignal at h
  obtain ⟨-, rfl⟩ := guardWf_next h
  repeat' first
    | with_reducible assumption | with_reducible refine kept_xoffNow ?_

theorem kept_execXonSignal {port : Nat} {prio : Nat} (h : execXonSignal port prio s = .next t) (h0 : Kept kl ko ku
    s) : Kept kl ko ku t := by
  unfold execXonSignal at h
  obtain ⟨-, rfl⟩ := guardWf_next h
  repeat' first
    | with_reducible assumption | with_reducible refine kept_xonNow ?_

theorem kept_execPfcRefresh {port : Nat} {prio : Nat} (h : execPfcRefresh port prio s = .next t) (h0 : Kept kl ko ku
    s) : Kept kl ko ku t := by
  unfold execPfcRefresh at h
  obtain ⟨-, rfl⟩ := guardWf_next h
  repeat' first
    | with_reducible assumption | with_reducible refine kept_xoffAgain ?_

theorem kept_execSynceSquelch {out : Nat} {bad : Bool} (h : execSynceSquelch out bad s = .next t) (h0 : Kept kl ko
    ku s) : Kept kl ko ku t := by
  unfold execSynceSquelch at h
  obtain ⟨-, rfl⟩ := guardWf_next h
  repeat' first
    | with_reducible assumption | with_reducible refine kept_setFld ?_

theorem kept_execReorderArrival {stream : Nat} {seq : Nat} (h : execReorderArrival stream seq s = .next t) (h0 :
    Kept kl ko ku s) : Kept kl ko ku t := by
  unfold execReorderArrival at h
  obtain ⟨-, rfl⟩ := guardWf_next h
  repeat' first
    | with_reducible assumption | with_reducible refine kept_reorderArrival ?_

theorem kept_execReorderTimeout {stream : Nat} (h : execReorderTimeout stream s = .next t) (h0 : Kept kl ko ku s) :
    Kept kl ko ku t := by
  unfold execReorderTimeout at h
  obtain ⟨-, rfl⟩ := guardWf_next h
  repeat' first
    | with_reducible assumption | with_reducible refine kept_reorderTimeout ?_

theorem kept_execFabLos {lane : Nat} (h : execFabLos lane s = .next t) (h0 : Kept kl ko ku s) : Kept kl ko ku t :=
    by
  unfold execFabLos at h
  obtain ⟨-, rfl⟩ := guardWf_next h
  repeat' first
    | with_reducible assumption | with_reducible refine kept_fabLos ?_

theorem kept_execFabSignalLock {lane : Nat} (h : execFabSignalLock lane s = .next t) (h0 : Kept kl ko ku s) : Kept
    kl ko ku t := by
  unfold execFabSignalLock at h
  obtain ⟨-, rfl⟩ := guardWf_next h
  repeat' first
    | with_reducible assumption | with_reducible refine kept_fabSignalLock ?_

theorem kept_execFramerRun (h : execFramerRun s = .next t) (h0 : Kept kl ko ku s) : Kept kl ko ku t := by
  unfold execFramerRun at h
  obtain ⟨-, rfl⟩ := guardWf_next h
  repeat' first
    | with_reducible assumption | with_reducible refine kept_framerRun ?_

theorem kept_execRepinGuardExpire {d : Nat} (h : execRepinGuardExpire d s = .next t) (h0 : Kept kl ko ku s) : Kept
    kl ko ku t := by
  unfold execRepinGuardExpire at h
  obtain ⟨-, rfl⟩ := guardWf_next h
  repeat' first
    | with_reducible assumption | with_reducible refine kept_repinGuard ?_

theorem kept_execFabFrameTransmit {lane : Nat} (h : execFabFrameTransmit lane s = .next t) (h0 : Kept kl ko ku s) :
    Kept kl ko ku t := by
  unfold execFabFrameTransmit at h
  obtain ⟨-, rfl⟩ := guardWf_next h
  repeat' first
    | with_reducible assumption | with_reducible refine kept_frameTransmit ?_

theorem kept_execCellSlotPick {lane : Nat} {pos : Nat} {arrived : Bytes} {ecc : Ecc} {vote : Vote} (h :
    execCellSlotPick lane pos arrived ecc vote s = .next t) (h0 : Kept kl ko ku s) : Kept kl ko ku t := by
  unfold execCellSlotPick at h
  obtain ⟨-, rfl⟩ := guardWf_next h
  repeat' first
    | with_reducible assumption | with_reducible refine kept_slotPick ?_

theorem kept_execFabFrameReceive {lane : Nat} {pos : Nat} {frame : Bytes} (h : execFabFrameReceive lane pos frame s
    = .next t) (h0 : Kept kl ko ku s) : Kept kl ko ku t := by
  unfold execFabFrameReceive at h
  obtain ⟨-, rfl⟩ := guardWf_next h
  repeat' first
    | with_reducible assumption | with_reducible refine kept_frameReceive ?_

theorem kept_execGroupFrameRead {group : Nat} (h : execGroupFrameRead group s = .next t) (h0 : Kept kl ko ku s) :
    Kept kl ko ku t := by
  unfold execGroupFrameRead at h
  obtain ⟨-, rfl⟩ := guardWf_next h
  repeat' first
    | with_reducible assumption | with_reducible refine kept_groupFrameRead ?_

theorem kept_execFabCellReceive {lane pos : Nat} {cell : Bytes} (h : execFabCellReceive lane pos cell s = .next t) (h0
    : Kept kl ko ku s) : Kept kl ko ku t := by
  unfold execFabCellReceive at h
  obtain ⟨-, rfl⟩ := guardWf_next h
  repeat' first
    | with_reducible assumption | with_reducible refine kept_takeCell ?_

theorem kept_execReasmTimeout {srcDev : Nat} {srcGroup : Nat} {tc : Nat} (h : execReasmTimeout srcDev srcGroup tc s
    = .next t) (h0 : Kept kl ko ku s) : Kept kl ko ku t := by
  unfold execReasmTimeout at h
  obtain ⟨-, rfl⟩ := guardWf_next h
  repeat' first
    | with_reducible assumption | with_reducible refine kept_reasmTimeout ?_

theorem kept_execFabMsgReceive {lane : Nat} {msg : Word} (h : execFabMsgReceive lane msg s = .next t) (h0 : Kept kl ko
    ku s) : Kept kl ko ku t := by
  unfold execFabMsgReceive at h
  obtain ⟨-, rfl⟩ := guardWf_next h
  repeat' first
    | with_reducible assumption | with_reducible refine kept_takeMsg ?_

theorem kept_execFabPmLatch (h : execFabPmLatch s = .next t) (h0 : Kept kl ko ku s) : Kept kl ko ku t := by
  unfold execFabPmLatch at h
  obtain ⟨-, rfl⟩ := guardWf_next h
  repeat' first
    | with_reducible assumption | with_reducible refine kept_pmLatch ?_

theorem kept_execQueueArrival {r : Nat} (h : execQueueArrival r s = .next t) (h0 : Kept kl ko ku s) : Kept kl ko ku
    t := by
  unfold execQueueArrival at h
  obtain ⟨-, rfl⟩ := guardWf_next h
  repeat' first
    | with_reducible assumption | with_reducible refine kept_queueArrival ?_

theorem kept_execPacketTailStored {pkt : Nat} (h : execPacketTailStored pkt s = .next t) (h0 : Kept kl ko ku s) :
    Kept kl ko ku t := by
  unfold execPacketTailStored at h
  obtain ⟨-, rfl⟩ := guardWf_next h
  repeat' first
    | with_reducible assumption | with_reducible refine kept_tailStored ?_

theorem kept_execVoqAgeDiscard {q : Nat} (h : execVoqAgeDiscard q s = .next t) (h0 : Kept kl ko ku s) : Kept kl ko
    ku t := by
  unfold execVoqAgeDiscard at h
  obtain ⟨-, rfl⟩ := guardWf_next h
  repeat' first
    | with_reducible assumption | with_reducible refine kept_voqAge ?_

theorem kept_execVoqPacketStart {q : Nat} (h : execVoqPacketStart q s = .next t) (h0 : Kept kl ko ku s) : Kept kl ko
    ku t := by
  unfold execVoqPacketStart at h
  obtain ⟨-, rfl⟩ := guardWf_next h
  repeat' first
    | with_reducible assumption | with_reducible refine kept_voqStart ?_

theorem kept_execCreditRefresh {q : Nat} (h : execCreditRefresh q s = .next t) (h0 : Kept kl ko ku s) : Kept kl ko
    ku t := by
  unfold execCreditRefresh at h
  obtain ⟨-, rfl⟩ := guardWf_next h
  repeat' first
    | with_reducible assumption | with_reducible refine kept_creditRefresh ?_

theorem kept_execGrantReceive (h : execGrantReceive s = .next t) (h0 : Kept kl ko ku s) : Kept kl ko ku t := by
  unfold execGrantReceive at h
  obtain ⟨-, rfl⟩ := guardWf_next h
  repeat' first
    | with_reducible assumption | with_reducible refine kept_grantReceive ?_

theorem kept_execRequestReceive (h : execRequestReceive s = .next t) (h0 : Kept kl ko ku s) : Kept kl ko ku t := by
  unfold execRequestReceive at h
  obtain ⟨-, rfl⟩ := guardWf_next h
  repeat' first
    | with_reducible assumption | with_reducible refine kept_requestReceive ?_

theorem kept_execRequestExpire {port : Nat} {tc : Nat} {dev : Nat} (h : execRequestExpire port tc dev s = .next t)
    (h0 : Kept kl ko ku s) : Kept kl ko ku t := by
  unfold execRequestExpire at h
  obtain ⟨-, rfl⟩ := guardWf_next h
  repeat' first
    | with_reducible assumption | with_reducible refine kept_requestExpire ?_

theorem kept_execGrantIssue {port : Nat} (h : execGrantIssue port s = .next t) (h0 : Kept kl ko ku s) : Kept kl ko
    ku t := by
  unfold execGrantIssue at h
  obtain ⟨-, rfl⟩ := guardWf_next h
  repeat' first
    | with_reducible assumption | with_reducible refine kept_grantIssue ?_

theorem kept_execEgressDequeue {port : Nat} (h : execEgressDequeue port s = .next t) (h0 : Kept kl ko ku s) : Kept
    kl ko ku t := by
  unfold execEgressDequeue at h
  obtain ⟨-, rfl⟩ := guardWf_next h
  repeat' first
    | with_reducible assumption | with_reducible refine kept_egressDequeue ?_

theorem kept_execCtUnderrun {port : Nat} (h : execCtUnderrun port s = .next t) (h0 : Kept kl ko ku s) : Kept kl ko
    ku t := by
  unfold execCtUnderrun at h
  obtain ⟨-, rfl⟩ := guardWf_next h
  repeat' first
    | with_reducible assumption | with_reducible refine kept_underrun ?_

theorem kept_execEgressEntry {port : Nat} (h : execEgressEntry port s = .next t) (h0 : Kept kl ko ku s) : Kept kl ko
    ku t := by
  unfold execEgressEntry at h
  obtain ⟨-, rfl⟩ := guardWf_next h
  repeat' first
    | with_reducible assumption | with_reducible refine kept_egressEntry ?_

theorem kept_execRecircReturn (h : execRecircReturn s = .next t) (h0 : Kept kl ko ku s) : Kept kl ko ku t := by
  unfold execRecircReturn at h
  obtain ⟨-, rfl⟩ := guardWf_next h
  repeat' first
    | with_reducible assumption | with_reducible refine kept_recircReturn ?_

theorem kept_execQEccUncorr {mem : QMem} {ecc : Ecc} (h : execQEccUncorr mem ecc s = .next t) (h0 : Kept kl ko ku s) :
    Kept kl ko ku t := by
  unfold execQEccUncorr at h
  obtain ⟨-, rfl⟩ := guardWf_next h
  repeat' first
    | with_reducible assumption | with_reducible refine kept_qEccFound ?_

theorem kept_execFlushDone {part : Nat} (h : execFlushDone part s = .next t) (h0 : Kept kl ko ku s) : Kept kl ko ku
    t := by
  unfold execFlushDone at h
  obtain ⟨-, rfl⟩ := guardWf_next h
  repeat' first
    | with_reducible assumption | with_reducible refine kept_flushDone ?_

theorem kept_execFlushTimeout {part : Nat} (h : execFlushTimeout part s = .next t) (h0 : Kept kl ko ku s) : Kept kl
    ko ku t := by
  unfold execFlushTimeout at h
  obtain ⟨-, rfl⟩ := guardWf_next h
  repeat' first
    | with_reducible assumption | with_reducible refine kept_flushTimeout ?_

theorem kept_execQWrite {fn : Fn} {object : Nat} (h : execQWrite fn object s = .next t) (h0 : Kept kl ko ku s) :
    Kept kl ko ku t := by
  unfold execQWrite at h
  obtain ⟨-, rfl⟩ := guardWf_next h
  repeat' first
    | with_reducible assumption | with_reducible refine kept_qIssue ?_

theorem kept_execQRead {fn : Fn} {object : Nat} {ecc : Ecc} (h : execQRead fn object ecc s = .next t) (h0 : Kept kl
    ko ku s) : Kept kl ko ku t := by
  unfold execQRead at h
  obtain ⟨-, rfl⟩ := guardWf_next h
  repeat' first
    | with_reducible assumption | with_reducible refine kept_qIssue ?_

theorem kept_execQCommit {fn : Fn} {object : Nat} (h : execQCommit fn object s = .next t) (h0 : Kept kl ko ku s) :
    Kept kl ko ku t := by
  unfold execQCommit at h
  obtain ⟨-, rfl⟩ := guardWf_next h
  repeat' first
    | with_reducible assumption | with_reducible refine kept_qIssue ?_

theorem kept_execQFlush {fn : Fn} (h : execQFlush fn s = .next t) (h0 : Kept kl ko ku s) : Kept kl ko ku t := by
  unfold execQFlush at h
  obtain ⟨-, rfl⟩ := guardWf_next h
  repeat' first
    | with_reducible assumption | with_reducible refine kept_qIssue ?_

theorem kept_execAvsReadback {rail : Nat} {mv : Nat} (h : execAvsReadback rail mv s = .next t) (h0 : Kept kl ko ku
    s) : Kept kl ko ku t := by
  unfold execAvsReadback at h
  obtain ⟨-, rfl⟩ := guardWf_next h
  repeat' first
    | with_reducible assumption | with_reducible refine kept_avsReadback ?_

theorem kept_execThermalStale (h : execThermalStale s = .next t) (h0 : Kept kl ko ku s) : Kept kl ko ku t := by
  unfold execThermalStale at h
  obtain ⟨-, rfl⟩ := guardWf_next h
  repeat' first
    | with_reducible assumption | with_reducible refine kept_thermalStale ?_

theorem kept_execThermalRead {readings : List Int} (h : execThermalRead readings s = .next t) (h0 : Kept kl ko ku s)
    : Kept kl ko ku t := by
  unfold execThermalRead at h
  obtain ⟨-, rfl⟩ := guardWf_next h
  repeat' first
    | with_reducible assumption | with_reducible refine kept_thermalRead ?_

theorem kept_execPtpMfBoundary {phaseIn phaseOut : Nat} (h : execPtpMfBoundary phaseIn phaseOut s = .next t) (h0 :
    Kept kl ko ku s) : Kept kl ko ku t := by
  unfold execPtpMfBoundary at h
  obtain ⟨-, rfl⟩ := guardWf_next h
  repeat' first
    | with_reducible assumption | with_reducible refine kept_doIf (fun _ _ => ?_) ?_
    | with_reducible refine kept_framerRun ?_ | with_reducible refine kept_ptpMfBoundary ?_
    | with_reducible refine kept_microBoundary ?_

theorem kept_execDomainSleep {d : Domain} (h : execDomainSleep d s = .next t) (h0 : Kept kl ko ku s) : Kept kl ko ku
    t := by
  unfold execDomainSleep at h
  obtain ⟨-, rfl⟩ := guardWf_next h
  repeat' first
    | with_reducible assumption | with_reducible refine kept_domainSleep ?_

theorem kept_execDomainWake {d : Domain} {tookNs : Nat} (h : execDomainWake d tookNs s = .next t) (h0 : Kept kl ko
    ku s) : Kept kl ko ku t := by
  unfold execDomainWake at h
  obtain ⟨-, rfl⟩ := guardWf_next h
  repeat' first
    | with_reducible assumption | with_reducible refine kept_domainWake ?_

theorem kept_execPpsOut (h : execPpsOut s = .next t) (h0 : Kept kl ko ku s) : Kept kl ko ku t := by
  unfold execPpsOut at h
  obtain ⟨-, rfl⟩ := guardWf_next h
  repeat' first
    | with_reducible assumption | with_reducible refine kept_ppsOut ?_

theorem kept_execPpsInEdge (h : execPpsInEdge s = .next t) (h0 : Kept kl ko ku s) : Kept kl ko ku t := by
  unfold execPpsInEdge at h
  obtain ⟨-, rfl⟩ := guardWf_next h
  repeat' first
    | with_reducible assumption | with_reducible refine kept_ppsInEdge ?_

theorem kept_execPpsLoss (h : execPpsLoss s = .next t) (h0 : Kept kl ko ku s) : Kept kl ko ku t := by
  unfold execPpsLoss at h
  obtain ⟨-, rfl⟩ := guardWf_next h
  repeat' first
    | with_reducible assumption | with_reducible refine kept_ppsLoss ?_

theorem kept_execAsaWrite {fn : Fn} {table : Nat} (h : execAsaWrite fn table s = .next t) (h0 : Kept kl ko ku s) :
    Kept kl ko ku t := by
  unfold execAsaWrite at h
  obtain ⟨-, rfl⟩ := guardWf_next h
  repeat' first
    | with_reducible assumption | with_reducible refine kept_asaIssue ?_

theorem kept_execAsaRead {fn : Fn} {table : Nat} {ecc : Ecc} (h : execAsaRead fn table ecc s = .next t) (h0 : Kept
    kl ko ku s) : Kept kl ko ku t := by
  unfold execAsaRead at h
  obtain ⟨-, rfl⟩ := guardWf_next h
  repeat' first
    | with_reducible assumption | with_reducible refine kept_asaIssue ?_

theorem kept_execAsaInvalidate {fn : Fn} {table : Nat} (h : execAsaInvalidate fn table s = .next t) (h0 : Kept kl ko
    ku s) : Kept kl ko ku t := by
  unfold execAsaInvalidate at h
  obtain ⟨-, rfl⟩ := guardWf_next h
  repeat' first
    | with_reducible assumption | with_reducible refine kept_asaIssue ?_

theorem kept_execAsaInsertAt {fn : Fn} {table : Nat} {ecc : Ecc} (h : execAsaInsertAt fn table ecc s = .next t) (h0
    : Kept kl ko ku s) : Kept kl ko ku t := by
  unfold execAsaInsertAt at h
  obtain ⟨-, rfl⟩ := guardWf_next h
  repeat' first
    | with_reducible assumption | with_reducible refine kept_asaIssue ?_

theorem kept_execAsaSearchCmd {fn : Fn} {table : Nat} {ecc : Ecc} (h : execAsaSearchCmd fn table ecc s = .next t)
    (h0 : Kept kl ko ku s) : Kept kl ko ku t := by
  unfold execAsaSearchCmd at h
  obtain ⟨-, rfl⟩ := guardWf_next h
  repeat' first
    | with_reducible assumption | with_reducible refine kept_asaIssue ?_

theorem kept_execAsaScrubVisit {bank : Nat} {row : Nat} {find : AsaFind} (h : execAsaScrubVisit bank row find s =
    .next t) (h0 : Kept kl ko ku s) : Kept kl ko ku t := by
  unfold execAsaScrubVisit at h
  obtain ⟨-, rfl⟩ := guardWf_next h
  repeat' first
    | with_reducible assumption | with_reducible refine kept_asaScrub ?_

theorem kept_execRegWrite {fn : Fn} {off size : Nat} {v : Word} (h : execRegWrite fn off size v s = .next t) (h0 :
    Kept kl ko ku s) : Kept kl ko ku t := by
  unfold execRegWrite at h
  obtain ⟨-, rfl⟩ := guardWf_next h
  repeat' first
    | with_reducible assumption | with_reducible refine Kept.ite (fun _ => ?_) (fun _ => ?_)
    | with_reducible refine kept_bar2Store ?_ | with_reducible refine kept_regWrite ?_

theorem kept_execHalfWriteLow {fn : Fn} {off : Nat} {v : BitVec 32} (h : execHalfWriteLow fn off v s = .next t) (h0 :
    Kept kl ko ku s) : Kept kl ko ku t := by
  unfold execHalfWriteLow at h
  obtain ⟨-, rfl⟩ := guardWf_next h
  repeat' first
    | with_reducible assumption | with_reducible refine kept_holdLow ?_

theorem kept_execCounterLowRead {fn : Fn} {off : Nat} (h : execCounterLowRead fn off s = .next t) (h0 : Kept kl ko ku
    s) : Kept kl ko ku t := by
  unfold execCounterLowRead at h
  obtain ⟨-, rfl⟩ := guardWf_next h
  repeat' first
    | with_reducible assumption | with_reducible refine kept_barRead ?_

theorem kept_execReadClear {fn : Fn} {off size : Nat} (h : execReadClear fn off size s = .next t) (h0 : Kept kl ko ku
    s) : Kept kl ko ku t := by
  unfold execReadClear at h
  obtain ⟨-, rfl⟩ := guardWf_next h
  repeat' first
    | with_reducible assumption | with_reducible refine kept_barRead ?_

theorem kept_execLineTsFifoLoRead {fn : Fn} {port : Nat} (h : execLineTsFifoLoRead fn port s = .next t) (h0 : Kept
    kl ko ku s) : Kept kl ko ku t := by
  unfold execLineTsFifoLoRead at h
  obtain ⟨-, rfl⟩ := guardWf_next h
  repeat' first
    | with_reducible assumption | with_reducible refine kept_read64 ?_

theorem kept_execPwrTbTimeRead {fn : Fn} (h : execPwrTbTimeRead fn s = .next t) (h0 : Kept kl ko ku s) : Kept kl ko
    ku t := by
  unfold execPwrTbTimeRead at h
  obtain ⟨-, rfl⟩ := guardWf_next h
  repeat' first
    | with_reducible assumption | with_reducible refine kept_read64 ?_

theorem kept_execLineOctetModeWrite {fn : Fn} {octet : Nat} {mode : Nat} (h : execLineOctetModeWrite fn octet mode s
    = .next t) (h0 : Kept kl ko ku s) : Kept kl ko ku t := by
  unfold execLineOctetModeWrite at h
  obtain ⟨-, rfl⟩ := guardWf_next h
  repeat' first
    | with_reducible assumption | with_reducible refine kept_hostWrite ?_

theorem kept_execPipeQuiesce {fn : Fn} {v : Word} (h : execPipeQuiesce fn v s = .next t) (h0 : Kept kl ko ku s) :
    Kept kl ko ku t := by
  unfold execPipeQuiesce at h
  obtain ⟨-, rfl⟩ := guardWf_next h
  repeat' first
    | with_reducible assumption | with_reducible refine kept_hostWrite ?_

theorem kept_execAsaTableCfgWrite {fn : Fn} {table : Nat} {v : Word} (h : execAsaTableCfgWrite fn table v s = .next
    t) (h0 : Kept kl ko ku s) : Kept kl ko ku t := by
  unfold execAsaTableCfgWrite at h
  obtain ⟨-, rfl⟩ := guardWf_next h
  repeat' first
    | with_reducible assumption | with_reducible refine kept_hostWrite ?_

theorem kept_execBpmQuotaWrite {fn : Fn} {r : Nat} {k : Nat} {v : Word} (h : execBpmQuotaWrite fn r k v s = .next t)
    (h0 : Kept kl ko ku s) : Kept kl ko ku t := by
  unfold execBpmQuotaWrite at h
  obtain ⟨-, rfl⟩ := guardWf_next h
  repeat' first
    | with_reducible assumption | with_reducible refine kept_hostWrite ?_

theorem kept_execFallbackAutoClear {fn : Fn} (h : execFallbackAutoClear fn s = .next t) (h0 : Kept kl ko ku s) :
    Kept kl ko ku t := by
  unfold execFallbackAutoClear at h
  obtain ⟨-, rfl⟩ := guardWf_next h
  repeat' first
    | with_reducible assumption | with_reducible refine kept_hostWrite ?_

theorem kept_execFramerStart {fn : Fn} (h : execFramerStart fn s = .next t) (h0 : Kept kl ko ku s) : Kept kl ko ku t
    := by
  unfold execFramerStart at h
  obtain ⟨-, rfl⟩ := guardWf_next h
  repeat' first
    | with_reducible assumption | with_reducible refine kept_hostWrite ?_

theorem kept_execFramerStop {fn : Fn} (h : execFramerStop fn s = .next t) (h0 : Kept kl ko ku s) : Kept kl ko ku t
    := by
  unfold execFramerStop at h
  obtain ⟨-, rfl⟩ := guardWf_next h
  repeat' first
    | with_reducible assumption | with_reducible refine kept_hostWrite ?_

theorem kept_execFabLaneEnable {fn : Fn} {lane : Nat} {v : Word} (h : execFabLaneEnable fn lane v s = .next t) (h0 :
    Kept kl ko ku s) : Kept kl ko ku t := by
  unfold execFabLaneEnable at h
  obtain ⟨-, rfl⟩ := guardWf_next h
  repeat' first
    | with_reducible assumption | with_reducible refine kept_hostWrite ?_

theorem kept_execTraceCheck {fn : Fn} {lane : Nat} (h : execTraceCheck fn lane s = .next t) (h0 : Kept kl ko ku s) :
    Kept kl ko ku t := by
  unfold execTraceCheck at h
  obtain ⟨-, rfl⟩ := guardWf_next h
  repeat' first
    | with_reducible assumption | with_reducible refine kept_hostWrite ?_

theorem kept_execFabReachWrite {fn : Fn} {d : Nat} {v : Word} (h : execFabReachWrite fn d v s = .next t) (h0 : Kept
    kl ko ku s) : Kept kl ko ku t := by
  unfold execFabReachWrite at h
  obtain ⟨-, rfl⟩ := guardWf_next h
  repeat' first
    | with_reducible assumption | with_reducible refine kept_hostWrite ?_

theorem kept_execPioRingDisable {fn : Fn} {ring : Nat} {v : Word} (h : execPioRingDisable fn ring v s = .next t) (h0
    : Kept kl ko ku s) : Kept kl ko ku t := by
  unfold execPioRingDisable at h
  obtain ⟨-, rfl⟩ := guardWf_next h
  repeat' first
    | with_reducible assumption | with_reducible refine kept_hostWrite ?_

theorem kept_execPwrRailCfgWrite {fn : Fn} {die : Nat} {v : Word} (h : execPwrRailCfgWrite fn die v s = .next t) (h0
    : Kept kl ko ku s) : Kept kl ko ku t := by
  unfold execPwrRailCfgWrite at h
  obtain ⟨-, rfl⟩ := guardWf_next h
  repeat' first
    | with_reducible assumption | with_reducible refine kept_hostWrite ?_

theorem kept_execWakeBudgetWrite {fn : Fn} {d : Domain} {v : Word} (h : execWakeBudgetWrite fn d v s = .next t) (h0
    : Kept kl ko ku s) : Kept kl ko ku t := by
  unfold execWakeBudgetWrite at h
  obtain ⟨-, rfl⟩ := guardWf_next h
  repeat' first
    | with_reducible assumption | with_reducible refine kept_hostWrite ?_

theorem kept_execTwinEnable {fn : Fn} {v : Word} (h : execTwinEnable fn v s = .next t) (h0 : Kept kl ko ku s) : Kept
    kl ko ku t := by
  unfold execTwinEnable at h
  obtain ⟨-, rfl⟩ := guardWf_next h
  repeat' first
    | with_reducible assumption | with_reducible refine kept_hostWrite ?_

theorem kept_execPpmScanEnd {pkt : Nat} {errs : List (Nat × Ecc)} (h : execPpmScanEnd pkt errs s = .next t) (h0 :
    Kept kl ko ku s) : Kept kl ko ku t := by
  unfold execPpmScanEnd at h
  obtain ⟨-, rfl⟩ := guardWf_next h
  repeat' first
    | with_reducible assumption | with_reducible refine kept_scanEnd ?_

theorem kept_execPpmWrite {fn : Fn} {index : Nat} (h : execPpmWrite fn index s = .next t) (h0 : Kept kl ko ku s) :
    Kept kl ko ku t := by
  unfold execPpmWrite at h
  obtain ⟨-, rfl⟩ := guardWf_next h
  repeat' first
    | with_reducible assumption | with_reducible refine kept_ppmIssue ?_

theorem kept_execPpmRead {fn : Fn} {index : Nat} {ecc : Ecc} (h : execPpmRead fn index ecc s = .next t) (h0 : Kept
    kl ko ku s) : Kept kl ko ku t := by
  unfold execPpmRead at h
  obtain ⟨-, rfl⟩ := guardWf_next h
  repeat' first
    | with_reducible assumption | with_reducible refine kept_ppmIssue ?_

theorem kept_execPpmInvalidate {fn : Fn} {index : Nat} (h : execPpmInvalidate fn index s = .next t) (h0 : Kept kl ko
    ku s) : Kept kl ko ku t := by
  unfold execPpmInvalidate at h
  obtain ⟨-, rfl⟩ := guardWf_next h
  repeat' first
    | with_reducible assumption | with_reducible refine kept_ppmIssue ?_

theorem kept_execPowerOnReset {up : PowerUp} (h : execPowerOnReset up s = .next t) (h0 : Kept kl ko ku s) : Kept kl ko
    ku t := by
  unfold execPowerOnReset at h
  obtain ⟨-, rfl⟩ := guardWf_next h
  repeat' first
    | with_reducible assumption | with_reducible refine kept_powerOn ?_

theorem kept_execBootCalibCheck (h : execBootCalibCheck s = .next t) (h0 : Kept kl ko ku s) : Kept kl ko ku t := by
  unfold execBootCalibCheck at h
  obtain ⟨-, rfl⟩ := guardWf_next h
  repeat' first
    | with_reducible assumption | with_reducible refine kept_atStage (fun _ _ => ?_) ?_
    | with_reducible refine kept_calibStage ?_

theorem kept_execBridgeWireTest {failed : List (Nat × Nat)} (h : execBridgeWireTest failed s = .next t) (h0 : Kept kl
    ko ku s) : Kept kl ko ku t := by
  unfold execBridgeWireTest at h
  obtain ⟨-, rfl⟩ := guardWf_next h
  repeat' first
    | with_reducible assumption | with_reducible refine kept_atStage (fun _ _ => ?_) ?_
    | with_reducible refine kept_wireStage ?_

theorem kept_execBridgeFlitReceive {dir chan seq : Nat} {crcOk : Bool} {flit : Bytes} (h : execBridgeFlitReceive dir
    chan seq crcOk flit s = .next t) (h0 : Kept kl ko ku s) : Kept kl ko ku t := by
  unfold execBridgeFlitReceive at h
  obtain ⟨-, rfl⟩ := guardWf_next h
  repeat' first
    | with_reducible assumption | with_reducible refine kept_flitAndPages ?_

theorem kept_execBootSetSelect (h : execBootSetSelect s = .next t) (h0 : Kept kl ko ku s) : Kept kl ko ku t := by
  unfold execBootSetSelect at h
  obtain ⟨-, rfl⟩ := guardWf_next h
  repeat' first
    | with_reducible assumption | with_reducible refine kept_atStage (fun _ _ => ?_) ?_
    | with_reducible refine kept_setStage ?_

theorem kept_execBootManifestCheck (h : execBootManifestCheck s = .next t) (h0 : Kept kl ko ku s) : Kept kl ko ku t :=
    by
  unfold execBootManifestCheck at h
  obtain ⟨-, rfl⟩ := guardWf_next h
  repeat' first
    | with_reducible assumption | (dsimp only [id]; assumption) | with_reducible refine kept_stageTo ?_
    | with_reducible refine kept_atStage (fun _ _ => ?_) ?_
    | with_reducible refine kept_setOkElse (fun _ _ => ?_) (fun _ _ => ?_) ?_

theorem kept_execPmapLock (h : execPmapLock s = .next t) (h0 : Kept kl ko ku s) : Kept kl ko ku t := by
  unfold execPmapLock at h
  obtain ⟨-, rfl⟩ := guardWf_next h
  repeat' first
    | with_reducible assumption | with_reducible refine kept_atStage (fun _ _ => ?_) ?_
    | with_reducible refine kept_pmapStage ?_

theorem kept_execBootImageLoad (h : execBootImageLoad s = .next t) (h0 : Kept kl ko ku s) : Kept kl ko ku t := by
  unfold execBootImageLoad at h
  obtain ⟨-, rfl⟩ := guardWf_next h
  repeat' first
    | with_reducible assumption | (dsimp only [id]; assumption) | with_reducible refine kept_atStage (fun _ _ => ?_) ?_
    | with_reducible refine kept_setOkElse (fun _ _ => ?_) (fun _ _ => ?_) ?_
    | with_reducible refine kept_imageStage ?_

theorem kept_execHbmTrainingDone {stack : Nat} {ok : Bool} (h : execHbmTrainingDone stack ok s = .next t) (h0 : Kept
    kl ko ku s) : Kept kl ko ku t := by
  unfold execHbmTrainingDone at h
  obtain ⟨-, rfl⟩ := guardWf_next h
  repeat' first
    | with_reducible assumption | with_reducible refine Kept.ite (fun _ => ?_) (fun _ => ?_)
    | with_reducible refine kept_atStage (fun _ _ => ?_) ?_ | with_reducible refine kept_hbmStage ?_

theorem kept_execSerdesCalibrationDone (h : execSerdesCalibrationDone s = .next t) (h0 : Kept kl ko ku s) : Kept kl
    ko ku t := by
  unfold execSerdesCalibrationDone at h
  obtain ⟨-, rfl⟩ := guardWf_next h
  repeat' first
    | with_reducible assumption | with_reducible refine kept_atStage (fun _ _ => ?_) ?_
    | with_reducible refine kept_serdesStage ?_

theorem kept_execBootPlateLoad (h : execBootPlateLoad s = .next t) (h0 : Kept kl ko ku s) : Kept kl ko ku t := by
  unfold execBootPlateLoad at h
  obtain ⟨-, rfl⟩ := guardWf_next h
  repeat' first
    | with_reducible assumption | with_reducible refine kept_atStage (fun _ _ => ?_) ?_
    | with_reducible refine kept_setOkElse (fun _ _ => ?_) (fun _ _ => ?_) ?_
    | with_reducible refine kept_plateStage ?_ | with_reducible refine kept_imagesAgain ?_

theorem kept_execBootTraceCheck {echo : List (Nat × List Bytes)} (h : execBootTraceCheck echo s = .next t) (h0 : Kept
    kl ko ku s) : Kept kl ko ku t := by
  unfold execBootTraceCheck at h
  obtain ⟨-, rfl⟩ := guardWf_next h
  repeat' first
    | with_reducible assumption | with_reducible refine kept_atStage (fun _ _ => ?_) ?_
    | with_reducible refine kept_traceStage ?_

theorem kept_execReady (h : execReady s = .next t) (h0 : Kept kl ko ku s) : Kept kl ko ku t := by
  unfold execReady at h
  obtain ⟨-, rfl⟩ := guardWf_next h
  repeat' first
    | with_reducible assumption | with_reducible refine Kept.ite (fun _ => ?_) (fun _ => ?_)
    | with_reducible refine kept_atStage (fun _ _ => ?_) ?_ | with_reducible refine kept_readyStage ?_

theorem kept_execBootFailed (h : execBootFailed s = .next t) (h0 : Kept kl ko ku s) : Kept kl ko ku t := by
  unfold execBootFailed at h
  obtain ⟨-, rfl⟩ := guardWf_next h
  repeat' first
    | with_reducible assumption | with_reducible refine kept_failStage ?_

theorem kept_execStewardFault {cut : List MbxCut} (h : execStewardFault cut s = .next t) (h0 : Kept kl ko ku s) : Kept
    kl ko ku t := by
  unfold execStewardFault at h
  obtain ⟨-, rfl⟩ := guardWf_next h
  repeat' first
    | with_reducible assumption | with_reducible refine kept_stewardFault ?_

theorem kept_execStewardRestart (h : execStewardRestart s = .next t) (h0 : Kept kl ko ku s) : Kept kl ko ku t := by
  unfold execStewardRestart at h
  obtain ⟨-, rfl⟩ := guardWf_next h
  repeat' first
    | with_reducible assumption | with_reducible refine kept_stewardRestart ?_

theorem kept_execPerstN {port : Nat} (h : execPerstN port s = .next t) (h0 : Kept kl ko ku s) : Kept kl ko ku t :=
    by
  unfold execPerstN at h
  obtain ⟨-, rfl⟩ := guardWf_next h
  repeat' first
    | with_reducible assumption | with_reducible refine kept_perstFall ?_

theorem kept_execPerstNRise {port : Nat} (h : execPerstNRise port s = .next t) (h0 : Kept kl ko ku s) : Kept kl ko
    ku t := by
  unfold execPerstNRise at h
  obtain ⟨-, rfl⟩ := guardWf_next h
  repeat' first
    | with_reducible assumption | with_reducible refine kept_perstRise ?_

theorem kept_execFunctionLevelReset {fn : Fn} (h : execFunctionLevelReset fn s = .next t) (h0 : Kept kl ko ku s) :
    Kept kl ko ku t := by
  unfold execFunctionLevelReset at h
  obtain ⟨-, rfl⟩ := guardWf_next h
  repeat' first
    | with_reducible assumption | with_reducible refine kept_flr ?_

theorem kept_execIntStatusClear {fn : Fn} {rings : Bool} {v : Word} (h : execIntStatusClear fn rings v s = .next t)
    (h0 : Kept kl ko ku s) : Kept kl ko ku t := by
  unfold execIntStatusClear at h
  obtain ⟨-, rfl⟩ := guardWf_next h
  repeat' first
    | with_reducible assumption | with_reducible refine Kept.ite (fun _ => ?_) (fun _ => ?_)
    | with_reducible refine kept_access (fun _ _ _ _ _ => ?_) ?_ | with_reducible refine kept_intClear ?_
    | fail_if_no_progress (with_reducible refine Kept.upd ?_ rfl rfl rfl rfl rfl rfl) | split

theorem kept_execMsixUnmask {fn : Fn} {vec : Nat} (h : execMsixUnmask fn vec s = .next t) (h0 : Kept kl ko ku s) :
    Kept kl ko ku t := by
  unfold execMsixUnmask at h
  obtain ⟨-, rfl⟩ := guardWf_next h
  repeat' first
    | with_reducible assumption | with_reducible refine kept_msixUnmask ?_

theorem kept_execErqAck {fn : Fn} {die : Nat} {v : Word} (h : execErqAck fn die v s = .next t) (h0 : Kept kl ko ku
    s) : Kept kl ko ku t := by
  unfold execErqAck at h
  obtain ⟨-, rfl⟩ := guardWf_next h
  repeat' first
    | with_reducible assumption | with_reducible refine kept_access (fun _ _ _ _ _ => ?_) ?_
    | with_reducible refine kept_ackWrite ?_

theorem kept_execErqFatalClr {fn : Fn} {die : Nat} (h : execErqFatalClr fn die s = .next t) (h0 : Kept kl ko ku s) :
    Kept kl ko ku t := by
  unfold execErqFatalClr at h
  obtain ⟨-, rfl⟩ := guardWf_next h
  repeat' first
    | with_reducible assumption | with_reducible refine kept_access (fun _ _ _ _ _ => ?_) ?_
    | with_reducible refine kept_fatalClear ?_

theorem kept_execMbxVersion {fn : Fn} (h : execMbxVersion fn s = .next t) (h0 : Kept kl ko ku s) : Kept kl ko ku t
    := by
  unfold execMbxVersion at h
  obtain ⟨-, rfl⟩ := guardWf_next h
  repeat' first
    | with_reducible assumption | with_reducible refine kept_mbxVersion ?_
    | with_reducible refine kept_mbxDo (fun _ _ _ => ?_) ?_

theorem kept_execMbxThermal {fn : Fn} (h : execMbxThermal fn s = .next t) (h0 : Kept kl ko ku s) : Kept kl ko ku t
    := by
  unfold execMbxThermal at h
  obtain ⟨-, rfl⟩ := guardWf_next h
  repeat' first
    | with_reducible assumption | with_reducible refine kept_mbxThermal ?_
    | with_reducible refine kept_mbxDo (fun _ _ _ => ?_) ?_

theorem kept_execMbxPing {fn : Fn} (h : execMbxPing fn s = .next t) (h0 : Kept kl ko ku s) : Kept kl ko ku t := by
  unfold execMbxPing at h
  obtain ⟨-, rfl⟩ := guardWf_next h
  repeat' first
    | with_reducible assumption | with_reducible refine kept_mbxPing ?_
    | with_reducible refine kept_mbxDo (fun _ _ _ => ?_) ?_

theorem kept_execSettingsGet {fn : Fn} (h : execSettingsGet fn s = .next t) (h0 : Kept kl ko ku s) : Kept kl ko ku t
    := by
  unfold execSettingsGet at h
  obtain ⟨-, rfl⟩ := guardWf_next h
  repeat' first
    | with_reducible assumption | with_reducible refine kept_settingsGet ?_
    | with_reducible refine kept_mbxDo (fun _ _ _ => ?_) ?_

theorem kept_execSettingsPut {fn : Fn} (h : execSettingsPut fn s = .next t) (h0 : Kept kl ko ku s) : Kept kl ko ku t
    := by
  unfold execSettingsPut at h
  obtain ⟨-, rfl⟩ := guardWf_next h
  repeat' first
    | with_reducible assumption | with_reducible refine kept_settingsPut ?_
    | with_reducible refine kept_mbxDo (fun _ _ _ => ?_) ?_

theorem kept_execCalibRead {fn : Fn} {dma : Dma} (h : execCalibRead fn dma s = .next t) (h0 : Kept kl ko ku s) :
    Kept kl ko ku t := by
  unfold execCalibRead at h
  obtain ⟨-, rfl⟩ := guardWf_next h
  repeat' first
    | with_reducible assumption | with_reducible refine kept_calibRead ?_
    | with_reducible refine kept_mbxDo (fun _ _ _ => ?_) ?_

theorem kept_execCalibWrite {fn : Fn} {rec : Dma} (h : execCalibWrite fn rec s = .next t) (h0 : Kept kl ko ku s) :
    Kept kl ko ku t := by
  unfold execCalibWrite at h
  obtain ⟨-, rfl⟩ := guardWf_next h
  repeat' first
    | with_reducible assumption | with_reducible refine kept_calibWrite ?_
    | with_reducible refine kept_mbxDo (fun _ _ _ => ?_) ?_

theorem kept_execSmbusRead {addr : Nat} {sent : Bytes} {fmt : SmbFmt} {pec : Bool} (h : execSmbusRead addr sent fmt
    pec s = .next t) (h0 : Kept kl ko ku s) : Kept kl ko ku t := by
  unfold execSmbusRead at h
  obtain ⟨-, rfl⟩ := guardWf_next h
  repeat' first
    | with_reducible assumption | with_reducible refine kept_smbusRead ?_

theorem kept_execSchedLoad {fn : Fn} {bank gen : Nat} (h : execSchedLoad fn bank gen s = .next t) (h0 : Kept kl ko ku
    s) : Kept kl ko ku t := by
  unfold execSchedLoad at h
  obtain ⟨-, rfl⟩ := guardWf_next h
  repeat' first
    | with_reducible assumption | with_reducible refine kept_schedIssue ?_

theorem kept_execSchedSwap {fn : Fn} {bank gen : Nat} (h : execSchedSwap fn bank gen s = .next t) (h0 : Kept kl ko ku
    s) : Kept kl ko ku t := by
  unfold execSchedSwap at h
  obtain ⟨-, rfl⟩ := guardWf_next h
  repeat' first
    | with_reducible assumption | with_reducible refine kept_schedIssue ?_

theorem kept_execSchedAbort {fn : Fn} {bank gen : Nat} (h : execSchedAbort fn bank gen s = .next t) (h0 : Kept kl ko
    ku s) : Kept kl ko ku t := by
  unfold execSchedAbort at h
  obtain ⟨-, rfl⟩ := guardWf_next h
  repeat' first
    | with_reducible assumption | with_reducible refine kept_schedIssue ?_

theorem kept_execSchedRestart {fn : Fn} {vote : Vote} (h : execSchedRestart fn vote s = .next t) (h0 : Kept kl ko ku
    s) : Kept kl ko ku t := by
  unfold execSchedRestart at h
  obtain ⟨-, rfl⟩ := guardWf_next h
  repeat' first
    | with_reducible assumption | with_reducible refine kept_schedIssue ?_

theorem kept_execSchedLoadData {d : Dma} {storeOk : Bool} (h : execSchedLoadData d storeOk s = .next t) (h0 : Kept
    kl ko ku s) : Kept kl ko ku t := by
  unfold execSchedLoadData at h
  obtain ⟨-, rfl⟩ := guardWf_next h
  repeat' first
    | with_reducible assumption | with_reducible refine kept_schedData ?_

theorem kept_execSchedVerifyDone (h : execSchedVerifyDone s = .next t) (h0 : Kept kl ko ku s) : Kept kl ko ku t :=
    by
  unfold execSchedVerifyDone at h
  obtain ⟨-, rfl⟩ := guardWf_next h
  repeat' first
    | with_reducible assumption | with_reducible refine kept_schedVerify ?_

theorem kept_execSchedArm (h : execSchedArm s = .next t) (h0 : Kept kl ko ku s) : Kept kl ko ku t := by
  unfold execSchedArm at h
  obtain ⟨-, rfl⟩ := guardWf_next h
  repeat' first
    | with_reducible assumption | with_reducible refine kept_schedArm ?_

theorem kept_execSchedBankEccError {bank : Nat} (h : execSchedBankEccError bank s = .next t) (h0 : Kept kl ko ku s)
    : Kept kl ko ku t := by
  unfold execSchedBankEccError at h
  obtain ⟨-, rfl⟩ := guardWf_next h
  repeat' first
    | with_reducible assumption | with_reducible refine kept_calEcc ?_

theorem kept_execFlowMatch {port : Nat} {first : Bytes} {firstBit : Nat} {fec : Fec} {vote : Vote} (h : execFlowMatch
    port first firstBit fec vote s = .next t) (h0 : Kept kl ko ku s) : Kept kl ko ku t := by
  unfold execFlowMatch at h
  obtain ⟨-, rfl⟩ := guardWf_next h
  repeat' first
    | with_reducible assumption | with_reducible refine kept_flowMatch ?_

theorem kept_execSchedOverlen {port : Nat} {body : Bytes} {fec : Fec} (h : execSchedOverlen port body fec s = .next t)
    (h0 : Kept kl ko ku s) : Kept kl ko ku t := by
  unfold execSchedOverlen at h
  obtain ⟨-, rfl⟩ := guardWf_next h
  repeat' first
    | with_reducible assumption | with_reducible refine kept_schedOverlen ?_

theorem kept_execSchedFrameTail {port : Nat} {body : Bytes} {tail : Tail} {fec : Fec} (h : execSchedFrameTail port
    body tail fec s = .next t) (h0 : Kept kl ko ku s) : Kept kl ko ku t := by
  unfold execSchedFrameTail at h
  obtain ⟨-, rfl⟩ := guardWf_next h
  repeat' first
    | with_reducible assumption | with_reducible refine kept_schedTail ?_

theorem kept_execLinkStateChange {port : Nat} {up lf rf : Bool} {fec : Fec} (h : execLinkStateChange port up lf rf fec
    s = .next t) (h0 : Kept kl ko ku s) : Kept kl ko ku t := by
  unfold execLinkStateChange at h
  obtain ⟨-, rfl⟩ := guardWf_next h
  repeat' first
    | with_reducible assumption | with_reducible refine kept_linkAndSched ?_

theorem kept_execSchedCellReceive {ecc : Ecc} {vote : Vote} (h : execSchedCellReceive ecc vote s = .next t) (h0 : Kept
    kl ko ku s) : Kept kl ko ku t := by
  unfold execSchedCellReceive at h
  obtain ⟨-, rfl⟩ := guardWf_next h
  repeat' first
    | with_reducible assumption | with_reducible refine kept_schedCellReceive ?_

theorem kept_execSchedRelease {bank : Nat} {release : Nat} {vote : Vote} (h : execSchedRelease bank release vote s =
    .next t) (h0 : Kept kl ko ku s) : Kept kl ko ku t := by
  unfold execSchedRelease at h
  obtain ⟨-, rfl⟩ := guardWf_next h
  repeat' first
    | with_reducible assumption | with_reducible refine kept_release ?_ | with_reducible refine kept_schedRelease ?_

theorem kept_execTxFrame {port : Nat} (h : execTxFrame port s = .next t) (h0 : Kept kl ko ku s) : Kept kl ko ku t :=
    by
  unfold execTxFrame at h
  obtain ⟨-, rfl⟩ := guardWf_next h
  repeat' first
    | with_reducible assumption | with_reducible refine kept_txFrame ?_

theorem kept_execPageRequest {r : Nat} {pool : Nat} {body : Option Nat} (h : execPageRequest r pool body s = .next
    t) (h0 : Kept kl ko ku s) : Kept kl ko ku t := by
  unfold execPageRequest at h
  obtain ⟨-, rfl⟩ := guardWf_next h
  repeat' first
    | with_reducible assumption
    | (intro x; with_reducible refine Kept.gen (kl := kl) (ko := ko) (ku := ku) (x := x) ?_ ?_; (on_goal 1 => unfold x); (on_goal 2 => (intro _; clear_value x)))
    | (intro x) | lift_lets -underBinder | with_reducible refine kept_pageRequest ?_
    | fail_if_no_progress (with_reducible refine Kept.upd ?_ rfl rfl rfl rfl rfl rfl) | split

theorem kept_execPageFree {r : Nat} {pool : Nat} {head : Nat} {count : Nat} (h : execPageFree r pool head count s =
    .next t) (h0 : Kept kl ko ku s) : Kept kl ko ku t := by
  unfold execPageFree at h
  obtain ⟨-, rfl⟩ := guardWf_next h
  repeat' first
    | with_reducible assumption | with_reducible refine kept_bpmRelease ?_

theorem kept_execRefInc {r : Nat} {pool : Nat} {head : Nat} (h : execRefInc r pool head s = .next t) (h0 : Kept kl
    ko ku s) : Kept kl ko ku t := by
  unfold execRefInc at h
  obtain ⟨-, rfl⟩ := guardWf_next h
  repeat' first
    | with_reducible assumption | with_reducible refine kept_bpmInc ?_

theorem kept_execRefDec {r : Nat} {pool : Nat} {head : Nat} {count : Nat} (h : execRefDec r pool head count s =
    .next t) (h0 : Kept kl ko ku s) : Kept kl ko ku t := by
  unfold execRefDec at h
  obtain ⟨-, rfl⟩ := guardWf_next h
  repeat' first
    | with_reducible assumption | with_reducible refine kept_bpmRelease ?_

theorem kept_execBpmStackFailed {stack : Nat} {phyLost : Bool} {uncorr : Nat} (h : execBpmStackFailed stack phyLost
    uncorr s = .next t) (h0 : Kept kl ko ku s) : Kept kl ko ku t := by
  unfold execBpmStackFailed at h
  obtain ⟨-, rfl⟩ := guardWf_next h
  repeat' first
    | with_reducible assumption | with_reducible refine Kept.ite (fun _ => ?_) (fun _ => ?_)
    | with_reducible refine kept_doIf (fun _ _ => ?_) ?_ | with_reducible refine kept_stackFailed ?_
    | with_reducible refine kept_f0Fail ?_

theorem kept_execBpmMemoryError {m : BpmMem} {ecc : Ecc} (h : execBpmMemoryError m ecc s = .next t) (h0 : Kept kl ko
    ku s) : Kept kl ko ku t := by
  unfold execBpmMemoryError at h
  obtain ⟨-, rfl⟩ := guardWf_next h
  repeat' first
    | with_reducible assumption | with_reducible refine kept_bpmError ?_

theorem kept_execBpmReadRec {fn : Fn} {ecc : Ecc} (h : execBpmReadRec fn ecc s = .next t) (h0 : Kept kl ko ku s) :
    Kept kl ko ku t := by
  unfold execBpmReadRec at h
  obtain ⟨-, rfl⟩ := guardWf_next h
  repeat' first
    | with_reducible assumption | with_reducible refine kept_bpmIssue ?_

theorem kept_execBpmReadRef {fn : Fn} {ecc : Ecc} (h : execBpmReadRef fn ecc s = .next t) (h0 : Kept kl ko ku s) :
    Kept kl ko ku t := by
  unfold execBpmReadRef at h
  obtain ⟨-, rfl⟩ := guardWf_next h
  repeat' first
    | with_reducible assumption | with_reducible refine kept_bpmIssue ?_

theorem kept_execBpmRetire {fn : Fn} (h : execBpmRetire fn s = .next t) (h0 : Kept kl ko ku s) : Kept kl ko ku t :=
    by
  unfold execBpmRetire at h
  obtain ⟨-, rfl⟩ := guardWf_next h
  repeat' first
    | with_reducible assumption | with_reducible refine kept_bpmIssue ?_

theorem kept_execBpmRestore {fn : Fn} (h : execBpmRestore fn s = .next t) (h0 : Kept kl ko ku s) : Kept kl ko ku t
    := by
  unfold execBpmRestore at h
  obtain ⟨-, rfl⟩ := guardWf_next h
  repeat' first
    | with_reducible assumption | with_reducible refine kept_bpmIssue ?_

theorem kept_execFrameTailArrive {port : Nat} {rest : Bytes} {tail : Tail} {fec : Fec} (h : execFrameTailArrive port
    rest tail fec s = .next t) (h0 : Kept kl ko ku s) : Kept kl ko ku t := by
  unfold execFrameTailArrive at h
  obtain ⟨-, rfl⟩ := guardWf_next h
  repeat' first
    | with_reducible assumption | with_reducible refine kept_frameTail ?_
    | with_reducible refine kept_tailAndAfter (fun _ _ => ?_) ?_

theorem kept_execPipelineStage {pkt : Nat} {x : StageIn} (h : execPipelineStage pkt x s = .next t) (h0 : Kept kl ko
    ku s) : Kept kl ko ku t := by
  unfold execPipelineStage at h
  obtain ⟨-, rfl⟩ := guardWf_next h
  repeat' first
    | with_reducible assumption | with_reducible refine kept_pipelineStage ?_

theorem kept_execMacAgerVisit {pipe : Nat} {slot : Nat} (h : execMacAgerVisit pipe slot s = .next t) (h0 : Kept kl
    ko ku s) : Kept kl ko ku t := by
  unfold execMacAgerVisit at h
  obtain ⟨-, rfl⟩ := guardWf_next h
  repeat' first
    | with_reducible assumption | with_reducible refine kept_agerVisit ?_

theorem kept_execTblScrub {table : Nat} {pipe : Nat} {index : Nat} {ecc : Ecc} (h : execTblScrub table pipe index
    ecc s = .next t) (h0 : Kept kl ko ku s) : Kept kl ko ku t := by
  unfold execTblScrub at h
  obtain ⟨-, rfl⟩ := guardWf_next h
  repeat' first
    | with_reducible assumption | with_reducible refine kept_scrub ?_

theorem kept_execTblWrite {fn : Fn} {table : Nat} (h : execTblWrite fn table s = .next t) (h0 : Kept kl ko ku s) :
    Kept kl ko ku t := by
  unfold execTblWrite at h
  obtain ⟨-, rfl⟩ := guardWf_next h
  repeat' first
    | with_reducible assumption | with_reducible refine kept_tblIssue ?_

theorem kept_execTblRead {fn : Fn} {table : Nat} {mask : BitVec 16} {ecc : Ecc} (h : execTblRead fn table mask ecc s
    = .next t) (h0 : Kept kl ko ku s) : Kept kl ko ku t := by
  unfold execTblRead at h
  obtain ⟨-, rfl⟩ := guardWf_next h
  repeat' first
    | with_reducible assumption | with_reducible refine kept_tblIssue ?_

theorem kept_execTblInsert {fn : Fn} {table : Nat} {mask : BitVec 16} (h : execTblInsert fn table mask s = .next t)
    (h0 : Kept kl ko ku s) : Kept kl ko ku t := by
  unfold execTblInsert at h
  obtain ⟨-, rfl⟩ := guardWf_next h
  repeat' first
    | with_reducible assumption | with_reducible refine kept_tblIssue ?_

theorem kept_execTblDelete {fn : Fn} {table : Nat} {mask : BitVec 16} (h : execTblDelete fn table mask s = .next t)
    (h0 : Kept kl ko ku s) : Kept kl ko ku t := by
  unfold execTblDelete at h
  obtain ⟨-, rfl⟩ := guardWf_next h
  repeat' first
    | with_reducible assumption | with_reducible refine kept_tblIssue ?_

theorem kept_execTblLookup {fn : Fn} {table : Nat} {mask : BitVec 16} (h : execTblLookup fn table mask s = .next t)
    (h0 : Kept kl ko ku s) : Kept kl ko ku t := by
  unfold execTblLookup at h
  obtain ⟨-, rfl⟩ := guardWf_next h
  repeat' first
    | with_reducible assumption | with_reducible refine kept_tblIssue ?_

theorem kept_execTblCommit {fn : Fn} (h : execTblCommit fn s = .next t) (h0 : Kept kl ko ku s) : Kept kl ko ku t :=
    by
  unfold execTblCommit at h
  obtain ⟨-, rfl⟩ := guardWf_next h
  repeat' first
    | with_reducible assumption | with_reducible refine kept_tblIssue ?_

theorem kept_execTblFence {fn : Fn} (h : execTblFence fn s = .next t) (h0 : Kept kl ko ku s) : Kept kl ko ku t := by
  unfold execTblFence at h
  obtain ⟨-, rfl⟩ := guardWf_next h
  repeat' first
    | with_reducible assumption | with_reducible refine kept_tblIssue ?_

theorem kept_execTblRingGroup {part : Nat} {d : Dma} {group : Nat} (h : execTblRingGroup part d group s = .next t) (h0
    : Kept kl ko ku s) : Kept kl ko ku t := by
  unfold execTblRingGroup at h
  obtain ⟨-, rfl⟩ := guardWf_next h
  repeat' first
    | with_reducible assumption | with_reducible refine kept_ringGroup ?_

theorem kept_execTblFenceDone {part : Nat} {ring : Bool} (h : execTblFenceDone part ring s = .next t) (h0 : Kept kl
    ko ku s) : Kept kl ko ku t := by
  unfold execTblFenceDone at h
  obtain ⟨-, rfl⟩ := guardWf_next h
  repeat' first
    | with_reducible assumption | with_reducible refine kept_fenceDone ?_

theorem kept_execTblFenceTimeout {part : Nat} {ring : Bool} (h : execTblFenceTimeout part ring s = .next t) (h0 :
    Kept kl ko ku s) : Kept kl ko ku t := by
  unfold execTblFenceTimeout at h
  obtain ⟨-, rfl⟩ := guardWf_next h
  repeat' first
    | with_reducible assumption | with_reducible refine kept_fenceTimeout ?_

theorem kept_execPioTxDescriptor {part : Nat} {ring : Nat} {desc : Dma} {frame : Dma} (h : execPioTxDescriptor part
    ring desc frame s = .next t) (h0 : Kept kl ko ku s) : Kept kl ko ku t := by
  unfold execPioTxDescriptor at h
  obtain ⟨-, rfl⟩ := guardWf_next h
  repeat' first
    | with_reducible assumption | with_reducible refine kept_txDescriptor ?_

theorem kept_execRxCoalExpire {part : Nat} {ring : Nat} (h : execRxCoalExpire part ring s = .next t) (h0 : Kept kl
    ko ku s) : Kept kl ko ku t := by
  unfold execRxCoalExpire at h
  obtain ⟨-, rfl⟩ := guardWf_next h
  repeat' first
    | with_reducible assumption | with_reducible refine kept_rxCoal ?_

/-- Every command keeps what Kept says. -/

theorem kept_exec {i : Instr} (h : exec i s = .next t) (h0 : Kept kl ko ku s) : Kept kl ko ku t :=
  match i, h with
  | .powerOnReset _, h => kept_execPowerOnReset h h0
  | .regWrite _ _ _ _, h => kept_execRegWrite h h0
  | .halfWriteLow _ _ _, h => kept_execHalfWriteLow h h0
  | .counterLowRead _ _, h => kept_execCounterLowRead h h0
  | .readClear _ _ _, h => kept_execReadClear h h0
  | .lineTsFifoLoRead _ _, h => kept_execLineTsFifoLoRead h h0
  | .pwrTbTimeRead _, h => kept_execPwrTbTimeRead h h0
  | .bootCalibCheck, h => kept_execBootCalibCheck h h0
  | .bridgeWireTest _, h => kept_execBridgeWireTest h h0
  | .bootSetSelect, h => kept_execBootSetSelect h h0
  | .bootManifestCheck, h => kept_execBootManifestCheck h h0
  | .pmapLock, h => kept_execPmapLock h h0
  | .bootImageLoad, h => kept_execBootImageLoad h h0
  | .hbmTrainingDone _ _, h => kept_execHbmTrainingDone h h0
  | .serdesCalibrationDone, h => kept_execSerdesCalibrationDone h h0
  | .bootPlateLoad, h => kept_execBootPlateLoad h h0
  | .bootTraceCheck _, h => kept_execBootTraceCheck h h0
  | .ready, h => kept_execReady h h0
  | .bootFailed, h => kept_execBootFailed h h0
  | .bridgeFlitReceive _ _ _ _ _, h => kept_execBridgeFlitReceive h h0
  | .stewardFault _, h => kept_execStewardFault h h0
  | .stewardRestart, h => kept_execStewardRestart h h0
  | .erqAck _ _ _, h => kept_execErqAck h h0
  | .erqFatalClr _ _, h => kept_execErqFatalClr h h0
  | .headerSegmentArrive _ _ _ _ _, h => kept_execHeaderSegmentArrive h h0
  | .frameTailArrive _ _ _ _, h => kept_execFrameTailArrive h h0
  | .pauseFrameReceive _ _ _ _ _, h => kept_execPauseFrameReceive h h0
  | .pfcFrameReceive _ _ _ _ _ _, h => kept_execPfcFrameReceive h h0
  | .pauseExpire _, h => kept_execPauseExpire h h0
  | .linkStateChange _ _ _ _ _, h => kept_execLinkStateChange h h0
  | .synceSquelch _ _, h => kept_execSynceSquelch h h0
  | .lineOctetModeWrite _ _ _, h => kept_execLineOctetModeWrite h h0
  | .flowMatch _ _ _ _ _, h => kept_execFlowMatch h h0
  | .schedOverlen _ _ _, h => kept_execSchedOverlen h h0
  | .schedFrameTail _ _ _ _, h => kept_execSchedFrameTail h h0
  | .packetParse _ _, h => kept_execPacketParse h h0
  | .pipelineStage _ _, h => kept_execPipelineStage h h0
  | .ppmScanEnd _ _, h => kept_execPpmScanEnd h h0
  | .reorderArrival _ _, h => kept_execReorderArrival h h0
  | .reorderTimeout _, h => kept_execReorderTimeout h h0
  | .egressEntry _, h => kept_execEgressEntry h h0
  | .txFrame _, h => kept_execTxFrame h h0
  | .xoffSignal _ _, h => kept_execXoffSignal h h0
  | .xonSignal _ _, h => kept_execXonSignal h h0
  | .pfcRefresh _ _, h => kept_execPfcRefresh h h0
  | .plateLoad _ _ _, h => kept_execPlateLoad h h0
  | .plateSwap _ _ _, h => kept_execPlateSwap h h0
  | .plateAbort _ _ _, h => kept_execPlateAbort h h0
  | .plateLoadData _ _, h => kept_execPlateLoadData h h0
  | .plateVerifyDone, h => kept_execPlateVerifyDone h h0
  | .plateSwapPoint, h => kept_execPlateSwapPoint h h0
  | .plateDrainEnd, h => kept_execPlateDrainEnd h h0
  | .plateDrainOverrun, h => kept_execPlateDrainOverrun h h0
  | .plateScrub _ _ _, h => kept_execPlateScrub h h0
  | .pipeQuiesce _ _, h => kept_execPipeQuiesce h h0
  | .pipelineQuiesced _, h => kept_execPipelineQuiesced h h0
  | .ppmWrite _ _, h => kept_execPpmWrite h h0
  | .ppmRead _ _ _, h => kept_execPpmRead h h0
  | .ppmInvalidate _ _, h => kept_execPpmInvalidate h h0
  | .tblWrite _ _, h => kept_execTblWrite h h0
  | .tblRead _ _ _ _, h => kept_execTblRead h h0
  | .tblInsert _ _ _, h => kept_execTblInsert h h0
  | .tblDelete _ _ _, h => kept_execTblDelete h h0
  | .tblLookup _ _ _, h => kept_execTblLookup h h0
  | .tblCommit _, h => kept_execTblCommit h h0
  | .tblFence _, h => kept_execTblFence h h0
  | .tblFenceDone _ _, h => kept_execTblFenceDone h h0
  | .tblFenceTimeout _ _, h => kept_execTblFenceTimeout h h0
  | .tblRingGroup _ _ _, h => kept_execTblRingGroup h h0
  | .macAgerVisit _ _, h => kept_execMacAgerVisit h h0
  | .tblScrub _ _ _ _, h => kept_execTblScrub h h0
  | .asaWrite _ _, h => kept_execAsaWrite h h0
  | .asaRead _ _ _, h => kept_execAsaRead h h0
  | .asaInvalidate _ _, h => kept_execAsaInvalidate h h0
  | .asaInsertAt _ _ _, h => kept_execAsaInsertAt h h0
  | .asaSearchCmd _ _ _, h => kept_execAsaSearchCmd h h0
  | .asaTableCfgWrite _ _ _, h => kept_execAsaTableCfgWrite h h0
  | .asaScrubVisit _ _ _, h => kept_execAsaScrubVisit h h0
  | .pageRequest _ _ _, h => kept_execPageRequest h h0
  | .pageFree _ _ _ _, h => kept_execPageFree h h0
  | .refInc _ _ _, h => kept_execRefInc h h0
  | .refDec _ _ _ _, h => kept_execRefDec h h0
  | .bpmReadRec _ _, h => kept_execBpmReadRec h h0
  | .bpmReadRef _ _, h => kept_execBpmReadRef h h0
  | .bpmRetire _, h => kept_execBpmRetire h h0
  | .bpmRestore _, h => kept_execBpmRestore h h0
  | .bpmQuotaWrite _ _ _ _, h => kept_execBpmQuotaWrite h h0
  | .bpmStackFailed _ _ _, h => kept_execBpmStackFailed h h0
  | .bpmMemoryError _ _, h => kept_execBpmMemoryError h h0
  | .queueArrival _, h => kept_execQueueArrival h h0
  | .packetTailStored _, h => kept_execPacketTailStored h h0
  | .recircReturn, h => kept_execRecircReturn h h0
  | .egressDequeue _, h => kept_execEgressDequeue h h0
  | .ctUnderrun _, h => kept_execCtUnderrun h h0
  | .voqPacketStart _, h => kept_execVoqPacketStart h h0
  | .creditRefresh _, h => kept_execCreditRefresh h h0
  | .requestReceive, h => kept_execRequestReceive h h0
  | .requestExpire _ _ _, h => kept_execRequestExpire h h0
  | .grantIssue _, h => kept_execGrantIssue h h0
  | .grantReceive, h => kept_execGrantReceive h h0
  | .qWrite _ _, h => kept_execQWrite h h0
  | .qRead _ _ _, h => kept_execQRead h h0
  | .qCommit _ _, h => kept_execQCommit h h0
  | .qFlush _, h => kept_execQFlush h h0
  | .flushDone _, h => kept_execFlushDone h h0
  | .flushTimeout _, h => kept_execFlushTimeout h h0
  | .qEccUncorr _ _, h => kept_execQEccUncorr h h0
  | .fallbackAutoClear _, h => kept_execFallbackAutoClear h h0
  | .schedLoad _ _ _, h => kept_execSchedLoad h h0
  | .schedSwap _ _ _, h => kept_execSchedSwap h h0
  | .schedAbort _ _ _, h => kept_execSchedAbort h h0
  | .schedRestart _ _, h => kept_execSchedRestart h h0
  | .schedLoadData _ _, h => kept_execSchedLoadData h h0
  | .schedVerifyDone, h => kept_execSchedVerifyDone h h0
  | .schedArm, h => kept_execSchedArm h h0
  | .schedBankEccError _, h => kept_execSchedBankEccError h h0
  | .multiframeBoundary _, h => kept_execMultiframeBoundary h h0
  | .cellSlotPick _ _ _ _ _, h => kept_execCellSlotPick h h0
  | .schedCellReceive _ _, h => kept_execSchedCellReceive h h0
  | .schedRelease _ _ _, h => kept_execSchedRelease h h0
  | .framerStart _, h => kept_execFramerStart h h0
  | .framerStop _, h => kept_execFramerStop h h0
  | .framerRun, h => kept_execFramerRun h h0
  | .fabLaneEnable _ _ _, h => kept_execFabLaneEnable h h0
  | .traceCheck _ _, h => kept_execTraceCheck h h0
  | .fabReachWrite _ _ _, h => kept_execFabReachWrite h h0
  | .fabFrameTransmit _, h => kept_execFabFrameTransmit h h0
  | .fabFrameReceive _ _ _, h => kept_execFabFrameReceive h h0
  | .fabLos _, h => kept_execFabLos h h0
  | .groupFrameRead _, h => kept_execGroupFrameRead h h0
  | .fabCellReceive _ _ _, h => kept_execFabCellReceive h h0
  | .fabMsgReceive _ _, h => kept_execFabMsgReceive h h0
  | .reasmTimeout _ _ _, h => kept_execReasmTimeout h h0
  | .repinGuardExpire _, h => kept_execRepinGuardExpire h h0
  | .fabPmLatch, h => kept_execFabPmLatch h h0
  | .burinEvent _ _, h => kept_execBurinEvent h h0
  | .burinCreate _, h => kept_execBurinCreate h h0
  | .burinDelete _, h => kept_execBurinDelete h h0
  | .burinCtxRead _ _, h => kept_execBurinCtxRead h h0
  | .burinClearFault _, h => kept_execBurinClearFault h h0
  | .burinLoad _ _, h => kept_execBurinLoad h h0
  | .burinRegionSwitch, h => kept_execBurinRegionSwitch h h0
  | .burinEventStart _ _ _, h => kept_execBurinEventStart h h0
  | .burinEventEnd _ _, h => kept_execBurinEventEnd h h0
  | .burinEventAbandon _ _, h => kept_execBurinEventAbandon h h0
  | .burinFault _ _, h => kept_execBurinFault h h0
  | .burinTimerExpire _ _, h => kept_execBurinTimerExpire h h0
  | .perstN _, h => kept_execPerstN h h0
  | .functionLevelReset _, h => kept_execFunctionLevelReset h h0
  | .pioTxDescriptor _ _ _ _, h => kept_execPioTxDescriptor h h0
  | .pioRingDisable _ _ _, h => kept_execPioRingDisable h h0
  | .rxCoalExpire _ _, h => kept_execRxCoalExpire h h0
  | .intStatusClear _ _ _, h => kept_execIntStatusClear h h0
  | .msixUnmask _ _, h => kept_execMsixUnmask h h0
  | .mbxVersion _, h => kept_execMbxVersion h h0
  | .mbxThermal _, h => kept_execMbxThermal h h0
  | .mbxPing _, h => kept_execMbxPing h h0
  | .settingsGet _, h => kept_execSettingsGet h h0
  | .settingsPut _, h => kept_execSettingsPut h h0
  | .calibRead _ _, h => kept_execCalibRead h h0
  | .calibWrite _ _, h => kept_execCalibWrite h h0
  | .smbusRead _ _ _ _, h => kept_execSmbusRead h h0
  | .sealAcquire _, h => kept_execSealAcquire h h0
  | .sealRelease _, h => kept_execSealRelease h h0
  | .sealBreak _, h => kept_execSealBreak h h0
  | .sealUnwrap _ _ _ _ _, h => kept_execSealUnwrap h h0
  | .sealEncrypt _ _ _ _ _ _ _, h => kept_execSealEncrypt h h0
  | .sealDecrypt _ _ _ _ _ _ _ _, h => kept_execSealDecrypt h h0
  | .sealClear _ _ _, h => kept_execSealClear h h0
  | .updOpen _ _, h => kept_execUpdOpen h h0
  | .updWrite _ _ _ _, h => kept_execUpdWrite h h0
  | .updVerify _, h => kept_execUpdVerify h h0
  | .updSealWaitTimeout, h => kept_execUpdSealWaitTimeout h h0
  | .updActivate _ _, h => kept_execUpdActivate h h0
  | .stewardReady, h => kept_execStewardReady h h0
  | .updConfirm _, h => kept_execUpdConfirm h h0
  | .updRevert _, h => kept_execUpdRevert h h0
  | .updClose _, h => kept_execUpdClose h h0
  | .updPreempt _, h => kept_execUpdPreempt h h0
  | .updSessionLapsed, h => kept_execUpdSessionLapsed h h0
  | .confirmTimerExpire, h => kept_execConfirmTimerExpire h h0
  | .ptpMfBoundary _ _, h => kept_execPtpMfBoundary h h0
  | .pwrRailCfgWrite _ _ _, h => kept_execPwrRailCfgWrite h h0
  | .avsReadback _ _, h => kept_execAvsReadback h h0
  | .thermalRead _, h => kept_execThermalRead h h0
  | .thermalStale, h => kept_execThermalStale h h0
  | .domainSleep _, h => kept_execDomainSleep h h0
  | .domainWake _ _, h => kept_execDomainWake h h0
  | .wakeBudgetWrite _ _ _, h => kept_execWakeBudgetWrite h h0
  | .ppsOut, h => kept_execPpsOut h h0
  | .ppsInEdge, h => kept_execPpsInEdge h h0
  | .ppsLoss, h => kept_execPpsLoss h h0
  | .twinEnable _ _, h => kept_execTwinEnable h h0
  | .twinSwitch _, h => kept_execTwinSwitch h h0
  | .twinForceActive _, h => kept_execTwinForceActive h h0
  | .twinClearFailed _, h => kept_execTwinClearFailed h h0
  | .twinRecordReceive _ _, h => kept_execTwinRecordReceive h h0
  | .twinLinkDown, h => kept_execTwinLinkDown h h0
  | .twinHealthInFall, h => kept_execTwinHealthInFall h h0
  | .twinHealthWaitExpire, h => kept_execTwinHealthWaitExpire h h0
  | .fabSignalLock _, h => kept_execFabSignalLock h h0
  | .perstNRise _, h => kept_execPerstNRise h h0
  | .voqAgeDiscard _, h => kept_execVoqAgeDiscard h h0
  | .twinHealthInRise, h => kept_execTwinHealthInRise h h0

end Sys2Proof.Machine
end

