-- ==== Sys2Proof/Machine/Pins.lean ====
section
/-! DEFINITION. The levels of the balls that the device drives, as a function of the state (R102, R392, R483, R497, R525,
R531, R540). -/

namespace Sys2Proof.Machine

/-- The outputs whose level the spec gives. -/
inductive Ball where
  | serdesTx (lane : Nat) | twinHealthOut | intN (k : Nat) | spiSck | spiIo (n : Nat) | spiCs (n : Nat) | uartTx
  | ppsOut | mfSync | synceClk (m : Nat) | gpio (n : Nat) | avsBus
  deriving DecidableEq, Repr

/-- What stands at a ball: a level, a weak pull, no drive, a clock of a frequency in kHz, or the signals of its bus. -/
inductive Level where
  | low | high | weakLow | weakHigh | floating | clock (khz : Nat) | bus
  deriving DecidableEq, Repr

/-- The SPI balls are released while POR_N is low and in the boot-failed state (R525, R531). -/
def State.spiFree (s : State) : Bool := s.bootStateOf == 0 || s.bootStateOf == 0x80

/-- SYNCE_CLK_m: the recovered clock at its frequency while it is enabled and not squelched, else low (R102, R540). -/
def State.synceLevel (s : State) (m : Nat) : Level :=
  let r := R.lineSynceCfg m
  if s.flag r F.lineSynceCfgEn && !s.flag r F.lineSynceCfgSquelched then
    .clock (if s.fld r F.lineSynceCfgFreq = 0 then 156250 else 25000)
  else .low

/-- The level of a ball. A SerDes transmitter is at no level while it idles. -/
def State.level (s : State) (b : Ball) : Level :=
  match b with
  | .serdesTx _ => if s.bootStateOf == 0 || s.pwr.tripped then .floating else .bus
  | .twinHealthOut => if s.healthOut then .high else .low
  | .intN k => if s.intPin k then .low else .floating
  | .spiCs _ => if s.spiFree then .weakHigh else .bus
  | .spiSck | .spiIo _ => if s.spiFree then .floating else .bus
  | .uartTx => .high
  | .ppsOut => if s.flag R.pwrTbCfg F.pwrTbCfgPpsOutEn && s.now < s.pwr.ppsFall then .high else .low
  | .mfSync => if s.flag R.pwrTbCfg F.pwrTbCfgMfSyncEn && s.now < s.pwr.mfFall then .high else .low
  | .synceClk m => s.synceLevel m
  | .gpio _ => .weakLow
  | .avsBus => if s.bootStateOf == 0 then .floating else .bus

end Sys2Proof.Machine
end

