-- ==== Sys2Proof/Tests/Slice0.lean ====
section
/-! SUPPORT. Tests of the model: commands that WellFormed refuses, and for each statement of
Certificates/Slice0/Obligations.lean concrete states that meet its hypotheses, clause by clause, mostly with what the
command answers there. Expected results are worked out from the rules of spec/ by hand. -/

open Sys2Proof Sys2Proof.Machine

namespace Sys2Proof.Tests
set_option Elab.async false

/-! ### Helpers -/

/-- The outcome is a next state that meets a condition. -/
def gives (r : Res) (p : State → Bool) : Bool :=
  match r with
  | .next t => p t
  | _ => false

def f00 : Fn := ⟨0, 0⟩
def f01 : Fn := ⟨0, 1⟩
def f10 : Fn := ⟨1, 0⟩

def put (l : List (Nat × Word)) (s : State) : State := l.foldl (fun s w => s.wr w.1 w.2) s

/-- A record of the partition map: every block, stencil tree and range. -/
def grantAll (p : Nat) (first : Word) : List (Nat × Word) :=
  [(R.pmap p 0, first), (R.pmap p 1, 0xAAAAAAAAAAAAAAAA), (R.pmap p 2, 0xFFFFFFFFFFFFFFFF), (R.pmap p 3, 0xFFFFFFFFFFFFFFFF)] ++
    (List.range 24).map (fun i => (R.pmap p (4 + i), 0xFFFFFFFF00000000)) ++ [(R.pmap p 28, 0xFFFFFFFF)]

/-- Registers that differ from reset on a device that is READY: partition 0 has every right, partition 1 none. -/
def labRegs : SMap Word := [(R.bootState, 4), (R.pmapLock, 1)] ++ grantAll 0 0x3FF00000001 ++ grantAll 1 0x10001

/-- A device that is READY; partitions 0 and 1 are enabled, and all functions are presented. -/
def lab : State :=
  { State.reset with
    regs := labRegs
    now := 1000000000000
    host := { State.reset.host with recOk := [true, true, false, false] }
    boot := { State.reset.boot with straps := ⟨false, 3, false⟩, stewardUp := true, ready := true, serdesDone := true,
                                    traceDone := true, hbmDone := [true, true, true, true, true] } }

theorem lab_owns : lab.Owns f00 0 := ⟨by decide +kernel, by decide +kernel, by decide +kernel⟩
theorem lab_mayWrite : ∀ b < 32, 1 < b → lab.MayWrite f00 0 b := fun b hb h1 =>
  ⟨lab_owns, (by decide +kernel : ∀ b < 32, 1 < b → 2 ≤ lab.blockAccess 0 b) b hb h1⟩
theorem lab_owns1 : lab.Owns f01 1 := ⟨by decide +kernel, by decide +kernel, by decide +kernel⟩
theorem lab_mayWrite1 : ∀ b < 32, 1 < b → lab.MayWrite f01 1 b := fun b hb h1 =>
  ⟨lab_owns1, (by decide +kernel : ∀ b < 32, 1 < b → 2 ≤ lab.blockAccess 1 b) b hb h1⟩
theorem lab_takes : lab.Takes .plate ∧ lab.Takes .ppm ∧ lab.Takes (.tbl 0) ∧ lab.Takes (.asa 0) ∧ lab.Takes (.bpm 0) ∧
    lab.Takes (.q 0) ∧ lab.Takes .sched ∧ lab.Takes (.burin 0) ∧ lab.Takes .sealE ∧ lab.Takes .upd ∧ lab.Takes .twin := by
  refine ⟨?_, ?_, ?_, ?_, ?_, ?_, ?_, ?_, ?_, ?_, ?_⟩ <;> exact ⟨by decide +kernel, by decide +kernel⟩

/-- The outcome is this state. -/
def isNext (r : Res) (t : State) : Bool := gives r (fun u => decide (u = t))

/-- A write that passes every check, with the register it reaches. -/
def stores (s : State) (fn : Fn) (p off : Nat) (v : Word) : Bool :=
  match regAt off with
  | none => false
  | some (d, ix) => fnOk fn && s.reached fn && decide (isCmd d.reg = false ∧ ¬(d.reg ∈ [.sealLock, .updPreempt, .erqAck, .erqFatalClr,
      .intStatus, .intRingStatus, .intEnable, .intRingEnable])) && decide (permit s fn d ix true = .ok p) &&
      decide (s.noPort d.reg ix = false) && decide (d.locked = false ∧ d.inTable v = true ∧ writeOk s p d.reg ix v = true) &&
      decide (d.changesQ (s.rd off) v = false ∨ s.quiet d.reg ix = true)

theorem stores_Stores {s : State} {fn : Fn} {p off : Nat} {v : Word} (h : stores s fn p off v = true) :
    ∃ d ix, s.Stores fn p off d ix v := by
  unfold stores at h
  split at h
  · cases h
  · rename_i d ix hr
    simp only [Bool.and_eq_true, decide_eq_true_eq] at h
    obtain ⟨⟨⟨⟨⟨⟨h1, h2⟩, h3⟩, h4⟩, h5⟩, h6⟩, h7⟩ := h
    exact ⟨d, ix, h1, h2, hr, h3, h4, h5, h6, h7⟩

/-- A value there is, and it meets a condition. -/
def given {α : Type} (o : Option α) (f : α → Bool) : Bool :=
  match o with
  | some a => f a
  | none => false

/-- The register at an offset. -/
def descAt (off : Nat) : RegDesc × List Nat := (regAt off).getD (⟨.devId, 0, [], false, false, false, []⟩, [])


/-- No codeword was corrected or lost. -/
def fec0 : Fec := ⟨0, 0, 0, 0⟩

/-! ### WellFormed

Each check of Instr.wf has a command that breaks it alone, and the machine refuses that command. -/

def ill0 : List Instr :=
  [.powerOnReset ⟨⟨false, 4, false⟩, 0⟩,
   .regWrite ⟨2, 0⟩ 0 0 0,
   .regWrite ⟨0, 0⟩ 268500992 0 0,
   .halfWriteLow ⟨2, 0⟩ 0 0,
   .halfWriteLow ⟨0, 0⟩ 268435456 0,
   .halfWriteLow ⟨0, 0⟩ 4 0,
   .counterLowRead ⟨2, 0⟩ 0,
   .counterLowRead ⟨0, 0⟩ 268500992,
   .readClear ⟨2, 0⟩ 0 0,
   .readClear ⟨0, 0⟩ 268500992 0,
   .lineTsFifoLoRead ⟨2, 0⟩ 0,
   .lineTsFifoLoRead ⟨0, 0⟩ 96,
   .pwrTbTimeRead ⟨2, 0⟩,
   .bridgeWireTest [(96, 0)],
   .bridgeWireTest [(0, 42)],
   .hbmTrainingDone 5 false,
   .bootTraceCheck [(120, [])],
   .bridgeFlitReceive 0 0 0 false (zeros 63),
   .bridgeFlitReceive 2 0 0 false (zeros 64),
   .bridgeFlitReceive 0 48 0 false (zeros 64),
   .stewardFault [⟨4, 0, [], 0⟩],
   .stewardFault [⟨0, 256, [], 0⟩],
   .stewardFault [⟨0, 0, [], 5⟩],
   .erqAck ⟨2, 0⟩ 0 0,
   .erqAck ⟨0, 0⟩ 2 0,
   .erqFatalClr ⟨2, 0⟩ 0,
   .erqFatalClr ⟨0, 0⟩ 2,
   .headerSegmentArrive 0 (zeros 385) true false fec0,
   .headerSegmentArrive 0 (zeros 383) false false fec0,
   .headerSegmentArrive 96 (zeros 384) false false fec0,
   .frameTailArrive 96 [] .good fec0,
   .pauseFrameReceive 96 0 false 0 fec0,
   .pauseFrameReceive 0 0 false 65536 fec0,
   .pfcFrameReceive 0 0 false 0 [65536] fec0,
   .pfcFrameReceive 96 0 false 0 [] fec0,
   .pauseExpire 96,
   .linkStateChange 96 false false false fec0,
   .synceSquelch 2 false,
   .lineOctetModeWrite ⟨2, 0⟩ 0 0,
   .lineOctetModeWrite ⟨0, 0⟩ 12 0]

def ill1 : List Instr :=
  [.lineOctetModeWrite ⟨0, 0⟩ 0 16,
   .flowMatch 0 (zeros 65) 0 fec0 .agree,
   .flowMatch 0 (zeros 15) 0 fec0 .agree,
   .flowMatch 0 (zeros 64) mfTicks fec0 .agree,
   .flowMatch 0 (zeros 64) 0 fec0 (.outvoted 3),
   .flowMatch 96 (zeros 64) 0 fec0 .agree,
   .schedOverlen 96 [] fec0,
   .schedFrameTail 96 [] .good fec0,
   .ppmScanEnd 0 [(4096, .ok)],
   .reorderArrival 97 0,
   .reorderArrival 0 65536,
   .reorderTimeout 97,
   .egressEntry 96,
   .txFrame 96,
   .xoffSignal 96 0,
   .xoffSignal 0 8,
   .xonSignal 96 0,
   .xonSignal 0 8,
   .pfcRefresh 96 0,
   .pfcRefresh 0 8,
   .plateLoad ⟨2, 0⟩ 0 0,
   .plateLoad ⟨0, 0⟩ 2 0,
   .plateLoad ⟨0, 0⟩ 0 65536,
   .plateSwap ⟨2, 0⟩ 0 0,
   .plateSwap ⟨0, 0⟩ 2 0,
   .plateSwap ⟨0, 0⟩ 0 65536,
   .plateAbort ⟨2, 0⟩ 0 0,
   .plateAbort ⟨0, 0⟩ 2 0,
   .plateAbort ⟨0, 0⟩ 0 65536,
   .plateScrub 2 0 .ok,
   .plateScrub 0 1048576 .ok,
   .pipeQuiesce ⟨2, 0⟩ 0,
   .pipelineQuiesced 16,
   .ppmWrite ⟨2, 0⟩ 0,
   .ppmWrite ⟨0, 0⟩ 4096,
   .ppmRead ⟨2, 0⟩ 0 .ok,
   .ppmRead ⟨0, 0⟩ 4096 .ok,
   .ppmInvalidate ⟨2, 0⟩ 0,
   .ppmInvalidate ⟨0, 0⟩ 4096,
   .tblWrite ⟨2, 0⟩ 0]

def ill2 : List Instr :=
  [.tblWrite ⟨0, 0⟩ 256,
   .tblRead ⟨2, 0⟩ 0 0 .ok,
   .tblRead ⟨0, 0⟩ 256 0 .ok,
   .tblInsert ⟨2, 0⟩ 0 0,
   .tblInsert ⟨0, 0⟩ 256 0,
   .tblDelete ⟨2, 0⟩ 0 0,
   .tblDelete ⟨0, 0⟩ 256 0,
   .tblLookup ⟨2, 0⟩ 0 0,
   .tblLookup ⟨0, 0⟩ 256 0,
   .tblCommit ⟨2, 0⟩,
   .tblFence ⟨2, 0⟩,
   .tblFenceDone 4 false,
   .tblFenceTimeout 4 false,
   .tblRingGroup 4 .timeout 0,
   .macAgerVisit 16 0,
   .tblScrub 0 0 0 .ok,
   .tblScrub 9 0 0 .ok,
   .tblScrub 2 0 0 .ok,
   .tblScrub 1 16 0 .ok,
   .asaWrite ⟨2, 0⟩ 0,
   .asaWrite ⟨0, 0⟩ 16,
   .asaRead ⟨2, 0⟩ 0 .ok,
   .asaRead ⟨0, 0⟩ 16 .ok,
   .asaInvalidate ⟨2, 0⟩ 0,
   .asaInvalidate ⟨0, 0⟩ 16,
   .asaInsertAt ⟨2, 0⟩ 0 .ok,
   .asaInsertAt ⟨0, 0⟩ 16 .ok,
   .asaSearchCmd ⟨2, 0⟩ 0 .ok,
   .asaSearchCmd ⟨0, 0⟩ 16 .ok,
   .asaTableCfgWrite ⟨2, 0⟩ 0 0,
   .asaTableCfgWrite ⟨0, 0⟩ 16 0,
   .asaScrubVisit 16 0 .clean,
   .asaScrubVisit 0 16384 .clean,
   .pageRequest 0 0 (some (poolSize 0)),
   .pageRequest 23 0 none,
   .pageRequest 0 2 none,
   .pageFree 0 0 (poolSize 0) 0,
   .pageFree 23 0 0 0,
   .pageFree 0 3 0 0,
   .refInc 0 0 (poolSize 0)]

def ill3 : List Instr :=
  [.refInc 23 0 0,
   .refInc 0 3 0,
   .refDec 0 0 (poolSize 0) 0,
   .refDec 23 0 0 0,
   .refDec 0 3 0 0,
   .bpmReadRec ⟨2, 0⟩ .ok,
   .bpmReadRef ⟨2, 0⟩ .ok,
   .bpmRetire ⟨2, 0⟩,
   .bpmRestore ⟨2, 0⟩,
   .bpmQuotaWrite ⟨2, 0⟩ 0 0 0,
   .bpmQuotaWrite ⟨0, 0⟩ 23 0 0,
   .bpmQuotaWrite ⟨0, 0⟩ 0 2 0,
   .bpmStackFailed 5 false 0,
   .bpmMemoryError (.summary 2 0) .ok,
   .bpmMemoryError (.leaf 0 4 0) .ok,
   .bpmMemoryError (.leaf 1 0 4096) .ok,
   .bpmMemoryError (.count 4194304) .ok,
   .bpmMemoryError (.record 3 0) .ok,
   .bpmMemoryError (.record 0 (poolSize 0)) .ok,
   .queueArrival 23,
   .egressDequeue 96,
   .ctUnderrun 96,
   .voqPacketStart voqCount,
   .creditRefresh voqCount,
   .requestExpire 128 0 0,
   .requestExpire 0 8 0,
   .requestExpire 0 0 4096,
   .grantIssue 96,
   .qWrite ⟨2, 0⟩ 0,
   .qWrite ⟨0, 0⟩ 256,
   .qRead ⟨2, 0⟩ 0 .ok,
   .qRead ⟨0, 0⟩ 256 .ok,
   .qCommit ⟨2, 0⟩ 0,
   .qCommit ⟨0, 0⟩ 256,
   .qFlush ⟨2, 0⟩,
   .flushDone 4,
   .flushTimeout 4,
   .qEccUncorr (.obj 0 0) .ok,
   .qEccUncorr (.obj 11 0) .ok,
   .qEccUncorr (.obj 6 16) .ok]

def ill4 : List Instr :=
  [.qEccUncorr (.list 1048576) .ok,
   .qEccUncorr (.stby 5 0) .ok,
   .qEccUncorr (.stby 6 512) .ok,
   .qEccUncorr (.count 1048576 0) .ok,
   .qEccUncorr (.count 0 3) .ok,
   .qEccUncorr (.devCount 24) .ok,
   .fallbackAutoClear ⟨2, 0⟩,
   .schedLoad ⟨2, 0⟩ 0 0,
   .schedLoad ⟨0, 0⟩ 2 0,
   .schedLoad ⟨0, 0⟩ 0 65536,
   .schedSwap ⟨2, 0⟩ 0 0,
   .schedSwap ⟨0, 0⟩ 2 0,
   .schedSwap ⟨0, 0⟩ 0 65536,
   .schedAbort ⟨2, 0⟩ 0 0,
   .schedAbort ⟨0, 0⟩ 2 0,
   .schedAbort ⟨0, 0⟩ 0 65536,
   .schedRestart ⟨2, 0⟩ .agree,
   .schedRestart ⟨0, 0⟩ (.outvoted 3),
   .schedBankEccError 2,
   .multiframeBoundary (.outvoted 3),
   .cellSlotPick 0 0 [] .ok (.outvoted 3),
   .cellSlotPick 120 0 [] .ok .agree,
   .cellSlotPick 0 10240 [] .ok .agree,
   .schedCellReceive .ok (.outvoted 3),
   .schedRelease 0 0 (.outvoted 3),
   .schedRelease 2 0 .agree,
   .schedRelease 0 16384 .agree,
   .framerStart ⟨2, 0⟩,
   .framerStop ⟨2, 0⟩,
   .fabLaneEnable ⟨2, 0⟩ 0 0,
   .fabLaneEnable ⟨0, 0⟩ 120 0,
   .traceCheck ⟨2, 0⟩ 0,
   .traceCheck ⟨0, 0⟩ 120,
   .fabReachWrite ⟨2, 0⟩ 0 0,
   .fabReachWrite ⟨0, 0⟩ 4096 0,
   .fabFrameTransmit 120,
   .fabFrameReceive 0 0 (zeros 10495),
   .fabFrameReceive 120 0 (zeros 10496),
   .fabFrameReceive 0 83968 (zeros 10496),
   .fabLos 120]

def ill5 : List Instr :=
  [.groupFrameRead 24,
   .fabCellReceive 0 0 (zeros 255),
   .fabCellReceive 120 0 (zeros 256),
   .fabCellReceive 0 10240 (zeros 256),
   .fabMsgReceive 120 0,
   .reasmTimeout 4096 0 0,
   .reasmTimeout 0 32 0,
   .reasmTimeout 0 0 8,
   .repinGuardExpire 4096,
   .burinEvent ⟨2, 0⟩ 0,
   .burinEvent ⟨0, 0⟩ 256,
   .burinCreate ⟨2, 0⟩,
   .burinDelete ⟨2, 0⟩,
   .burinCtxRead ⟨2, 0⟩ .ok,
   .burinClearFault ⟨2, 0⟩,
   .burinLoad ⟨2, 0⟩ .timeout,
   .burinEventStart 64 0 .ok,
   .burinEventStart 0 16384 .ok,
   .burinEventEnd 0 [(131328, .ok)],
   .burinEventEnd 64 [],
   .burinEventAbandon 0 [(131328, .ok)],
   .burinEventAbandon 64 [],
   .burinFault 0 [(131328, .ok)],
   .burinFault 64 [],
   .burinTimerExpire 16384 0,
   .burinTimerExpire 0 2,
   .perstN 2,
   .functionLevelReset ⟨2, 0⟩,
   .pioTxDescriptor 4 0 .timeout .timeout,
   .pioTxDescriptor 0 64 .timeout .timeout,
   .pioRingDisable ⟨2, 0⟩ 0 0,
   .pioRingDisable ⟨0, 0⟩ 64 0,
   .rxCoalExpire 4 0,
   .rxCoalExpire 0 64,
   .intStatusClear ⟨2, 0⟩ false 0,
   .msixUnmask ⟨2, 0⟩ 0,
   .msixUnmask ⟨0, 0⟩ 256,
   .mbxVersion ⟨2, 0⟩,
   .mbxThermal ⟨2, 0⟩,
   .mbxPing ⟨2, 0⟩]

def ill6 : List Instr :=
  [.settingsGet ⟨2, 0⟩,
   .settingsPut ⟨2, 0⟩,
   .calibRead ⟨2, 0⟩ .timeout,
   .calibWrite ⟨2, 0⟩ .timeout,
   .smbusRead 128 [0] .byte false,
   .smbusRead 0 [] .byte false,
   .sealAcquire ⟨2, 0⟩,
   .sealRelease ⟨2, 0⟩,
   .sealBreak ⟨2, 0⟩,
   .sealUnwrap ⟨2, 0⟩ 0 .timeout .ok .ok,
   .sealUnwrap ⟨0, 0⟩ 32 .timeout .ok .ok,
   .sealEncrypt ⟨2, 0⟩ 0 0 .timeout .timeout [] .ok,
   .sealEncrypt ⟨0, 0⟩ 32 0 .timeout .timeout [] .ok,
   .sealEncrypt ⟨0, 0⟩ 0 32 .timeout .timeout [] .ok,
   .sealDecrypt ⟨2, 0⟩ 0 0 false .timeout .timeout [] .ok,
   .sealDecrypt ⟨0, 0⟩ 32 0 false .timeout .timeout [] .ok,
   .sealDecrypt ⟨0, 0⟩ 0 32 false .timeout .timeout [] .ok,
   .sealClear ⟨2, 0⟩ 0 .ok,
   .sealClear ⟨0, 0⟩ 32 .ok,
   .updOpen ⟨2, 0⟩ .timeout,
   .updWrite ⟨2, 0⟩ 0 .timeout false,
   .updWrite ⟨0, 0⟩ 256 .timeout false,
   .updVerify ⟨2, 0⟩,
   .updActivate ⟨2, 0⟩ .done,
   .updActivate ⟨0, 0⟩ (.flashFail 2 false),
   .updActivate ⟨0, 0⟩ (.failed 0 0),
   .updConfirm ⟨2, 0⟩,
   .updRevert ⟨2, 0⟩,
   .updClose ⟨2, 0⟩,
   .updPreempt ⟨2, 0⟩,
   .pwrRailCfgWrite ⟨2, 0⟩ 0 0,
   .pwrRailCfgWrite ⟨0, 0⟩ 2 0,
   .avsReadback 2 0,
   .avsReadback 0 65536,
   .thermalRead (List.replicate 31 0),
   .thermalRead (List.replicate 32 32001),
   .thermalRead (List.replicate 32 (-32001)),
   .domainSleep (.port 96),
   .domainSleep (.pair 8),
   .domainSleep (.group 24)]

def ill7 : List Instr :=
  [.domainWake (.port 96) 0,
   .domainWake .burin 4294967296,
   .wakeBudgetWrite ⟨2, 0⟩ .burin 0,
   .wakeBudgetWrite ⟨0, 0⟩ (.group 24) 0,
   .twinEnable ⟨2, 0⟩ 0,
   .twinSwitch ⟨2, 0⟩,
   .twinForceActive ⟨2, 0⟩,
   .twinClearFailed ⟨2, 0⟩,
   .twinRecordReceive 0 (zeros 255),
   .twinRecordReceive 120 (zeros 256),
   .fabSignalLock 120,
   .perstNRise 2,
   .voqAgeDiscard voqCount]

/-- Every command of a list is ill-formed, and the machine refuses it. -/
def refusedAll (l : List Instr) : Bool :=
  l.all (fun c => !c.wf && (match exec c lab with | .refused .illFormed => true | _ => false))

theorem test_refused_0 : refusedAll ill0 = true := by decide +kernel
theorem test_refused_1 : refusedAll ill1 = true := by decide +kernel
theorem test_refused_2 : refusedAll ill2 = true := by decide +kernel
theorem test_refused_3 : refusedAll ill3 = true := by decide +kernel
theorem test_refused_4 : refusedAll ill4 = true := by decide +kernel
theorem test_refused_5 : refusedAll ill5 = true := by decide +kernel
theorem test_refused_6 : refusedAll ill6 = true := by decide +kernel
theorem test_refused_7 : refusedAll ill7 = true := by decide +kernel

/-! ### The machine -/

theorem witness_ResetIsSound : State.reset.regs = [] ∧ State.reset.host.erqF.length ≤ 64 := by decide
theorem witness_StepKeepsSound : State.reset.Sound ∧ ∃ t, step State.reset = .next t :=
  ⟨⟨⟨List.Pairwise.nil, by simp [State.reset]⟩, by decide, by decide⟩, _, rfl⟩
theorem witness_StepLeavesTheRest : gives (step { lab with pending := [.mbxPing f00, .ready] })
    (fun t => t.pending == [.ready] && t.outs == lab.outs) = true := by decide +kernel
theorem witness_IdleStepPassesAPeriod : State.reset.pending = [] ∧ State.reset.bootStateOf = 0 ∧
    lab.pending = [] ∧ lab.bootStateOf ≠ 0 ∧ gives (step lab) (fun t => t.fab.ref == 1 && decide (t.now = lab.now + 64)) = true := by
  decide +kernel
theorem witness_WellFormedCommandsAnswer : (Instr.mbxPing f00).wf = true ∧ (Instr.mbxPing ⟨2, 0⟩).wf = false ∧
    gives (exec (.mbxPing f00) lab) (fun _ => true) = true := by decide +kernel
theorem test_reset_registers : State.reset.rd R.devId = 0x0B9A9600 ∧ State.reset.holder = 7 ∧ State.reset.updHolder = 7 ∧
    State.reset.keyState 31 = slotEmpty ∧ State.reset.rd (R.sealCount 3) = 0 ∧ State.reset.bankState 1 = Pb.empty ∧
    State.reset.calState 1 = Cb.empty ∧ State.reset.updState = Us.idle := by decide +kernel

/-! ### Register access -/

/-- A write whose whole effect is the register. -/
theorem witness_ConfigurationWritesStore_register : stores lab f00 0 R.schedArg0 0x1234 = true ∧ barOk R.schedArg0 = true ∧
    isNext (exec (.regWrite f00 R.schedArg0 8 0x1234) lab)
      (storeWrite (descAt R.schedArg0).1 [] R.schedArg0 0x1234 (dropHeld f00 lab)) = true := by decide +kernel
theorem witness_StoredWordMergesByAccess : stores lab f00 0 R.plateArg0 0xFFFFFFFFFFFFFFFF = true ∧
    (descAt R.plateArg0).1.reg = .plateArg0 ∧
    (storeWrite (descAt R.plateArg0).1 [] R.plateArg0 0xFFFFFFFFFFFFFFFF (dropHeld f00 lab)).rd R.plateArg0 =
      (descAt R.plateArg0).1.merge (lab.rd R.plateArg0) 0xFFFFFFFFFFFFFFFF := by decide +kernel
/-- SCHED_STATUS holds W1C and RO fields alone: DISARMED is cleared, CODE stays. -/
theorem witness_StoredWordMergesByAccess_w1c :
    let s := put [(R.schedStatus, setF (setF 0 F.schedStatusDisarmed 1) stCode 0x21)] lab
    let t := storeWrite (descAt R.schedStatus).1 [] R.schedStatus 0xFFFFFFFFFFFFFFFF (dropHeld f00 s)
    stores s f00 0 R.schedStatus 0xFFFFFFFFFFFFFFFF = true ∧ (descAt R.schedStatus).1.reg = .schedStatus ∧
    t = (dropHeld f00 s).wr R.schedStatus (setF 0 stCode 0x21) := by decide +kernel

/-- PORT_EN of port 0 is set: its octet is not quiesced. -/
def busyPort : State := lab.wr (R.linePortCfg 0) (setF (lab.rd (R.linePortCfg 0)) F.linePortCfgPortEn 1)

theorem witness_RejectedWritesAreRejectedWhole_table :
    let v := setF 0 F.lineOctetCfgMode 15
    permit lab f00 (descAt (R.lineOctetCfg 0)).1 [0] true = .ok 0 ∧ lab.noPort .lineOctetCfg [0] = false ∧
    ((descAt (R.lineOctetCfg 0)).1.inTable v = false ∨ writeOk lab 0 .lineOctetCfg [0] v = false) ∧
    isNext (exec (.regWrite f00 (R.lineOctetCfg 0) 8 v) lab) (denied f00 (R.lineOctetCfg 0) 1 (dropHeld f00 lab)) = true := by
  decide +kernel
theorem witness_RejectedWritesAreRejectedWhole_locked : (descAt (R.pmap 0 0)).1.locked = true ∧
    permit lab f00 (descAt (R.pmap 0 0)).1 [0, 0] true = .ok 0 ∧
    isNext (exec (.regWrite f00 (R.pmap 0 0) 8 0) lab) (denied f00 (R.pmap 0 0) 1 (dropHeld f00 lab)) = true := by decide +kernel
theorem witness_RejectedWritesAreRejectedWhole_quiesce :
    let v := setF 0 F.lineOctetCfgMode 3
    let s := put [(R.lineOctetCfg 0, setF 0 F.lineOctetCfgMode 2)] busyPort
    permit s f00 (descAt (R.lineOctetCfg 0)).1 [0] true = .ok 0 ∧ (descAt (R.lineOctetCfg 0)).1.inTable v = true ∧
    writeOk s 0 .lineOctetCfg [0] v = true ∧ (descAt (R.lineOctetCfg 0)).1.changesQ (s.rd (R.lineOctetCfg 0)) v = true ∧
    s.quiet .lineOctetCfg [0] = false ∧
    isNext (exec (.regWrite f00 (R.lineOctetCfg 0) 8 v) s) (quiesceLog f00 (R.lineOctetCfg 0) 1 (dropHeld f00 s)) ∧
    (descAt (R.lineOctetCfg 0)).1.changesQ (s.rd (R.lineOctetCfg 0)) (s.rd (R.lineOctetCfg 0)) = false ∧
    isNext (exec (.regWrite f00 (R.lineOctetCfg 0) 8 (s.rd (R.lineOctetCfg 0))) s)
      (storeWrite (descAt (R.lineOctetCfg 0)).1 [0] (R.lineOctetCfg 0) (s.rd (R.lineOctetCfg 0)) (dropHeld f00 s)) = true := by
  decide +kernel

/-- Partition 1 with a map that lets it write no block. -/
def mapped : State := put [(R.pmap 1 1, 0x5555555555555555)] lab

theorem witness_DeniedWriteChangesOnlyTheLog : barOk R.schedArg0 = true ∧ mapped.reached f01 = true ∧
    permit mapped f01 (descAt R.schedArg0).1 [] true = .denied ∧
    isNext (exec (.regWrite f01 R.schedArg0 8 7) mapped) (denied f01 R.schedArg0 1 (dropHeld f01 mapped)) = true := by decide +kernel
theorem witness_HalfWritesJoin : lab.reached f00 = true ∧ barOk (R.schedArg0 + 4) = true ∧ R.schedArg0 % 8 = 0 ∧
    gives (exec (.halfWriteLow f00 R.schedArg0 5) lab) (fun s =>
      decide (s.regs = lab.regs) && gives (exec (.regWrite f00 (R.schedArg0 + 4) 4 3) s)
        (fun t => decide (t.rd R.schedArg0 = 0x300000005)) &&
      gives (exec (.regWrite f00 (R.schedArg0 + 12) 4 3) s) (fun t => decide (t.rd R.schedArg0 = 0))) = true := by decide +kernel
theorem witness_CounterHalvesAgree :
    let s := lab.wr (R.tblDevCtr 0) 0x700000009
    s.reached f00 = true ∧ (descAt (R.tblDevCtr 0)).1.counter = true ∧ permit s f00 (descAt (R.tblDevCtr 0)).1 [0] false = .ok 0 ∧
    s.slotHidden 0 (descAt (R.tblDevCtr 0)).1.reg [0] = false ∧
    gives (exec (.counterLowRead f00 (R.tblDevCtr 0)) s) (fun t => t.outs == [.readReply f00 (R.tblDevCtr 0) 9] &&
      gives (exec (.counterLowRead f00 (R.tblDevCtr 0 + 4)) (t.wr (R.tblDevCtr 0) 0x800000001))
        (fun u => u.outs.head? == some (.readReply f00 (R.tblDevCtr 0 + 4) 7))) = true := by decide +kernel
theorem witness_ReadsAnswerAndClear :
    permit lab f00 (descAt (R.bpmSharedStat 0)).1 [0] false = .ok 0 ∧ lab.slotHidden 0 .bpmSharedStat [0] = false ∧
    permit lab f00 (descAt R.schedSlackMin).1 [] false = .ok 0 ∧ permit lab f00 (descAt R.pwrTbTime0).1 [] false = .ok 0 ∧
    permit lab f00 (descAt (R.lineTsFifoLo 95)).1 [95] false = .ok 0 ∧ permit lab f00 (descAt R.devId).1 [] false = .ok 0 ∧
    gives (exec (.readClear f00 R.devId 8) lab) (fun t => t.outs == [.readReply f00 R.devId 0x0B9A9600] && decide (t.regs = lab.regs)) ∧
    gives (exec (.readClear f00 R.schedSlackMin 8) lab) (fun t => decide (t.fld R.schedSlackMin F.schedSlackMinMinSlackPs = 0x7FFFFFFF)) ∧
    gives (exec (.readClear f00 R.pwrTbTime0 8) lab) (fun t => decide (t.fld R.pwrTbTime1 F.pwrTbTime1TsHigh = stampHi lab.now) &&
      isNext (exec (.pwrTbTimeRead f00) lab) t) ∧
    gives (exec (.lineTsFifoLoRead f00 95) { lab with line := { lab.line with tsFifo := [(95, [(1, 2), (3, 4)])] } })
      (fun t => t.line.tsFifo == [(95, [(3, 4)])]) = true := by decide +kernel
/-- The halves of DEV_ID, and an access of 2 bytes. -/
theorem witness_ReadsAnswerAndClear_sizes : (descAt R.devId).1.counter = false ∧ lab.locked = true ∧ State.reset.locked = false ∧
    gives (exec (.counterLowRead f00 R.devId) lab) (fun t => t.outs == [.readReply f00 R.devId 0x0B9A9600]) ∧
    gives (exec (.counterLowRead f00 (R.devId + 4)) lab) (fun t => t.outs == [.readReply f00 (R.devId + 4) 0]) ∧
    isNext (exec (.readClear f00 2 2) lab) (report .f 0x01 0 .k 0x003 [] ((dropHeld f00 lab).emit (.unsupported f00))) ∧
    isNext (exec (.regWrite f00 2 2 7) lab) (report .f 0x01 0 .k 0x003 [] ((dropHeld f00 lab).emit (.unsupported f00))) = true := by
  decide +kernel

/-- The rows that write one register, on a state that takes the write. -/
def storesRow (s : State) (off : Nat) (v : Word) (c : Instr) : Bool :=
  stores s f00 0 off v && isNext (exec c s) (storeWrite (descAt off).1 (descAt off).2 off v (dropHeld f00 s))

theorem witness_ConfigurationWritesStore_line : storesRow lab (R.lineOctetCfg 11) (setF 0 F.lineOctetCfgMode 2) (.lineOctetModeWrite f00 11 2) ∧
    storesRow lab R.plateCtl (lab.rd R.plateCtl) (.pipeQuiesce f00 (lab.rd R.plateCtl)) ∧
    storesRow lab (R.asaTableCfg 15) (lab.rd (R.asaTableCfg 15)) (.asaTableCfgWrite f00 15 (lab.rd (R.asaTableCfg 15))) ∧
    storesRow lab (R.bpmQuota 22 1) (lab.rd (R.bpmQuota 22 1)) (.bpmQuotaWrite f00 22 1 (lab.rd (R.bpmQuota 22 1))) ∧
    storesRow lab R.qAdmitCfg (setF (lab.rd R.qAdmitCfg) F.qAdmitCfgAuto 1) (.fallbackAutoClear f00) = true := by decide +kernel
theorem witness_ConfigurationWritesStore_fabric :
    storesRow lab R.fabCtl (setF (lab.rd R.fabCtl) F.fabCtlFramerStart 1) (.framerStart f00) ∧
    storesRow lab R.fabCtl (setF (lab.rd R.fabCtl) F.fabCtlFramerStop 1) (.framerStop f00) ∧
    stores lab f00 0 (R.fabLaneCfg 119) (setF 0 F.fabLaneCfgEn 1) ∧
    storesRow lab (R.fabLaneCfg 119) 0 (.fabLaneEnable f00 119 0) ∧
    storesRow lab (R.fabLaneCfg 119) (setF (lab.rd (R.fabLaneCfg 119)) F.fabLaneCfgTraceCheck 1) (.traceCheck f00 119) ∧
    storesRow lab (R.fabReach 4095) 5 (.fabReachWrite f00 4095 5) = true := by decide +kernel
/-- A write of TWIN_CMD carries FORCE_ACTIVE out; SEAL_LOCK, UPD_PREEMPT and INT_ENABLE take what is written. -/
theorem witness_ConfigurationWritesStore_special :
    isCmd (descAt R.twinCmd).1.reg = true ∧ permit lab f00 (descAt R.twinCmd).1 [] true = .ok 0 ∧
    gives (exec (.regWrite f00 R.twinCmd 8 (setF 0 F.twinCmdOpcode 2)) lab) (fun t => t.fld R.twinStatus stCode == Code.notfound) ∧
    gives (exec (.regWrite f00 R.sealLock 8 (setF 0 F.sealLockAcquire 1)) lab) (fun t => t.holder == 0) ∧
    gives (exec (.regWrite f00 (R.intEnable 0) 8 0xFFFFF) lab) (fun t => t.rd (R.intEnable 0) == 0x1FFFF) ∧
    gives (exec (.regWrite f00 (R.intRingEnable 0) 8 0x8000000000000000) lab)
      (fun t => t.rd (R.intRingEnable 0) == 0x8000000000000000) = true := by decide +kernel
/-- Entry 255 of the MSI-X table is written, which unmasks it, and read again. -/
theorem witness_ConfigurationWritesStore_msix :
    let s := { lab with host := { lab.host with msixPend := [255] } }
    gives (exec (.regWrite f00 (2 ^ 28 + 16 * 255) 8 0xFEE00000) s) (fun t =>
      t.bar2Word 0 510 == 0xFEE00000 && gives (exec (.readClear f00 (2 ^ 28 + 16 * 255) 8) t)
        (fun u => u.outs == [.readReply f00 (2 ^ 28 + 16 * 255) 0xFEE00000]) &&
      gives (exec (.regWrite f00 (2 ^ 28 + 16 * 255 + 8) 8 0x41) t) (fun u =>
        u.outs == [.msix 0 255 0xFEE00000 0x41] && u.host.msixPend == [] && u.bar2Word 0 511 == 0x41) &&
      gives (exec (.regWrite f00 (2 ^ 28 + 16 * 255 + 8) 8 0x100000041) t) (fun u => u.outs == [] && u.bar2Word 0 511 == 0x100000041)) =
      true := by decide +kernel
theorem witness_ConfigurationWritesStore_host : storesRow lab (R.pioRingCfg 0 63) (lab.rd (R.pioRingCfg 0 63)) (.pioRingDisable f00 63 (lab.rd (R.pioRingCfg 0 63))) ∧
    storesRow lab (R.pwrRailCfg 1) (lab.rd (R.pwrRailCfg 1)) (.pwrRailCfgWrite f00 1 (lab.rd (R.pwrRailCfg 1))) ∧
    storesRow lab (domainReg (.port 95)) 0 (.wakeBudgetWrite f00 (.port 95) 0) ∧
    storesRow lab R.twinCfg (lab.rd R.twinCfg) (.twinEnable f00 (lab.rd R.twinCfg)) = true := by decide +kernel

/-! ### Plates and the pattern matcher -/

/-- A plate whose pipelines all let a packet through, roles ingress 0 to 7 and egress 8 to 15. -/
def passAll : StageProg := ⟨1, []⟩
def labCode : PlateCode :=
  { progs := List.replicate 8 passAll ++ List.replicate 8 ⟨2, []⟩, builders := [[⟨4, false, 0, 0, 7, 5, 16⟩]],
    carving := List.replicate 160 0, templates := [], classMaps := 0, editCode := 0, classCode := 0 }
def labBank : PlateBank := { emptyBank with metaAcc := [0, 1], graph := zeros 128, code := some labCode }

/-- Bank `b` holds a proof. -/
def proofIn (b : Nat) (s : State) : State := bankTo b Pb.proof (setBank b labBank s)

/-- Bank 0 is live and every pipeline has its role. -/
def live : State :=
  { lab with
    regs := labRegs ++ [(R.plateBank 0, setF 0 F.plateBankState Pb.live)] ++
      (List.range 16).map (fun n => (R.platePipe n, setF 0 F.platePipeRole (if n < 8 then 1 else 2)))
    plate := { lab.plate with live := some 0, banks := [labBank, emptyBank] } }

theorem live_regs : (live.regs.map (·.1)).Pairwise (· < ·) := by decide +kernel

theorem witness_PlateCommandsRun_load : lab.right 0 Right.plate = true ∧ lab.bankState 1 = Pb.empty ∧ plateArgsOk lab = true ∧
    isNext (exec (.plateLoad f00 1 (lab.bankGen 1)) lab)
      (bankTo 1 Pb.loading { lab.taken f00 .plate 1 0 with plate := { lab.plate with loading := some 1 } }) = true := by
  decide +kernel
theorem witness_PlateCommandsRun_firstSwap :
    let s := (proofIn 0 lab).setFld R.plateQstat F.plateQstatQuiesced 0xFFFF
    s.bankState 0 = Pb.proof ∧ s.plate.live = none ∧ s.fld R.plateQstat F.plateQstatQuiesced = 0xFFFF ∧
    isNext (exec (.plateSwap f00 0 (s.bankGen 0)) s)
      { s.taken f00 .plate 2 0 with plate := { s.plate with swapTo := some 0 } } = true := by decide +kernel
theorem witness_PlateCommandsRun_swap :
    let s := proofIn 1 live
    s.bankState 1 = Pb.proof ∧ s.plate.live = some 0 ∧ s.carvingMatch 1 = true ∧
    s.fld (R.plateBank 0) F.plateBankMetaEmit ∈ (s.bank 1).metaAcc ∧ (s.bank 1).byUpd = false ∧
    isNext (exec (.plateSwap f00 1 (s.bankGen 1)) s)
      { s.taken f00 .plate 2 0 with plate := { s.plate with swapTo := some 1 } } = true := by decide +kernel
theorem witness_PlateCommandsRun_abort :
    let s := proofIn 1 live
    s.bankState 1 = Pb.proof ∧ (s.bank 1).byUpd = false ∧ s.backWaits = false ∧
    isNext (exec (.plateAbort f00 1 (s.bankGen 1)) s) (complete .plate Code.ok 0
      (bankTo 1 Pb.empty { s.taken f00 .plate 3 0 with plate := { s.plate with loading := none } })) = true := by decide +kernel
theorem witness_CommandsThatAreTurnedAway_plate : (65535 : Nat) ≠ lab.bankGen 0 ∧ lab.backWaits = false ∧
    isNext (exec (.plateLoad f00 0 65535) lab) (complete .plate Code.staleBank 0 (lab.taken f00 .plate 1 0)) ∧
    isNext (exec (.plateSwap f00 0 65535) lab) (complete .plate Code.staleBank 0 (lab.taken f00 .plate 2 0)) ∧
    isNext (exec (.plateAbort f00 0 65535) lab) (complete .plate Code.staleBank 0 (lab.taken f00 .plate 3 0)) = true := by
  decide +kernel

/-- The bank of a LOAD that has begun, with a length of 64 bytes. -/
def loading : State :=
  let s := lab.setFld R.plateArg1 F.plateArg1Length 64
  bankTo 1 Pb.loading { s.taken f00 .plate 1 0 with plate := { s.plate with loading := some 1, len := 64 } }

theorem witness_PlateCommandsRun_abortBusy : loading.busy .plate = true ∧ loading.plate.loading = some 1 ∧
    isNext (exec (.plateAbort f00 1 (loading.bankGen 1)) loading) (complete .plate Code.ok 0
      (bankTo 1 Pb.empty { loading.taken f00 .plate 3 0 with plate := { loading.plate with loading := none } })) = true := by
  decide +kernel
theorem witness_PlateLoadReadsTheImage : loading.backWaits = false ∧ loading.plate.loading = some 1 ∧ loading.bankState 1 = Pb.loading ∧
    isNext (exec (.plateLoadData (.data [1, 2]) true) loading)
      (setBank 1 { loading.bank 1 with image := [1, 2] } loading) ∧
    isNext (exec (.plateLoadData (.data (zeros 64)) true) loading) (match arrivedFail plateKind 64 (zeros 64) with
      | some f => plateFail 1 f (setBank 1 { loading.bank 1 with image := zeros 64 } loading) | none => lab) ∧
    isNext (exec (.plateLoadData .timeout true) loading) (plateFail 1 (Code.timeout, 0x0F) loading) ∧
    isNext (exec (.plateLoadData .poison true) loading) (plateFail 1 (Code.eccUncorrectable, 0x0F) loading) ∧
    isNext (exec (.plateLoadData (.data [1]) false) loading)
      (plateFail 1 (Code.eccUncorrectable, 0x11) (loading.inc R.plateEccUncorr)) = true := by decide +kernel
theorem witness_PlateProofGoesLive_verify :
    let s := bankTo 1 Pb.verifying loading
    s.plate.loading = some 1 ∧ s.bankState 1 = Pb.verifying ∧ s.boot.restarting = false ∧ s.backWaits = false := by decide +kernel
theorem witness_PlateProofGoesLive_swap :
    let s := { proofIn 1 live with plate := { (proofIn 1 live).plate with swapTo := some 1 } }
    s.bankState 1 = Pb.proof ∧ s.plate.live = some 0 ∧ s.carvingMatch 1 = true ∧
    gives (exec .plateSwapPoint s) (fun t => t.plate.live == some 1 && t.plate.swapTo == none && t.plate.swapAt == s.now &&
      t.bankState 1 == Pb.live && t.bankState 0 == Pb.draining && t.rd R.plateSwapCount == s.rd R.plateSwapCount + 1 &&
      t.rd R.plateSwapTs0 == BitVec.ofNat 64 (stampLo s.now) && t.fld R.plateStatus stCode == Code.ok && !t.busy .plate) = true := by
  decide +kernel
/-- The proof of another carving, whose pairs are awake: a swap that is not hitless. -/
def otherBank : PlateBank := { labBank with code := some { labCode with carving := List.replicate 160 1 } }

theorem witness_PlateProofGoesLive_notHitless :
    let s := bankTo 1 Pb.proof (setBank 1 otherBank live)
    let u := { s with plate := { s.plate with swapTo := some 1 } }
    u.bankState 1 = Pb.proof ∧ u.carvingMatch 1 = false ∧ u.proofAwake 1 = true ∧
    gives (exec .plateSwapPoint u) (fun t => t.plate.live == some 1 && t.bankState 0 != Pb.draining) = true := by decide +kernel
theorem witness_PlateProofGoesLive_first :
    let s := proofIn 0 lab
    let u := { s with plate := { s.plate with swapTo := some 0 } }
    u.plate.live = none ∧ u.bankState 0 = Pb.proof ∧ u.proofAwake 0 = true ∧
    gives (exec .plateSwapPoint u) (fun t => t.plate.live == some 0 && t.bankState 0 == Pb.live &&
      t.rd R.plateSwapCount == u.rd R.plateSwapCount + 1) = true := by decide +kernel
theorem witness_BadArrivalsAreHandled_swap :
    let s := { lab with plate := { lab.plate with swapTo := some 1 } }
    s.bankState 1 ≠ Pb.proof ∧ isNext (exec .plateSwapPoint s)
      (complete .plate Code.eccUncorrectable 0x11 { s with plate := { s.plate with swapTo := none } }) = true := by decide +kernel

/-- A packet of bank 0 stands in pipeline 3 while the bank drains. -/
def draining : State :=
  let s := bankTo 0 Pb.draining (proofIn 1 live)
  setPkt 5 { noPacket with pipe := 3, bank := 0, stage := some 0 } { s with plate := { s.plate with swapAt := s.now - 400000 } }

theorem witness_DrainsErrorsAndQuiesce_drain : draining.backWaits = false ∧ draining.draining = some 0 ∧ draining.tagged 0 = [5] ∧
    gives (exec .plateDrainEnd draining) (fun t => t.draining == some 0) = true := by decide +kernel
theorem witness_DrainsErrorsAndQuiesce_overrun : draining.plate.swapAt + 400000 ≤ draining.now ∧
    gives (exec .plateDrainOverrun draining) (fun t => t.pkt 5 == none && t.bankState 0 == Pb.proof &&
      t.rd R.plateDrainDrop == 1 && t.host.erqF.length == 1) = true := by decide +kernel
theorem witness_DrainsErrorsAndQuiesce_end : (erasePkt 5 draining).tagged 0 = [] ∧
    gives (exec .plateDrainEnd (erasePkt 5 draining)) (fun t => t.bankState 0 == Pb.proof &&
      t.fld R.plateStatus F.plateStatusDrained == 1 && t.fld R.plateDrainNs F.plateDrainNsDrainNs == 40000) = true := by
  decide +kernel
theorem witness_DrainsErrorsAndQuiesce_errors :
    let s := proofIn 1 live
    s.bankState 1 ≠ Pb.empty ∧ isNext (exec (.plateScrub 1 0 .corr) s) (report .f 0x04 1 .c 0x002 [] (s.inc R.plateEccCorr)) ∧
    s.bankState 1 = Pb.proof ∧ isNext (exec (.plateScrub 1 1048575 .uncorr) s)
      (bankTo 1 Pb.invalid (report .f 0x04 1 .k 0x003 [] (s.inc R.plateEccUncorr))) ∧
    s.bankState 0 = Pb.live ∧ 7 ∉ (s.bank 0).badWords ∧ isNext (exec (.plateScrub 0 7 .uncorr) s)
      (setBank 0 { s.bank 0 with badWords := [7] } (s.inc R.plateEccUncorr)) = true := by decide +kernel
theorem witness_DrainsErrorsAndQuiesce_quiesce :
    let s := lab.setFld R.plateCtl F.plateCtlPipeQuiesce 0x8000
    s.quiescing 15 = true ∧ s.pipeHolds 15 = false ∧
    gives (exec (.pipelineQuiesced 15) s) (fun t => t.fld R.plateQstat F.plateQstatQuiesced == 0x8000) = true := by decide +kernel

/-- A pattern of one byte 0x41, class 3. -/
def patA : Bytes := patch 0x40 [0x41] (patch 0 [1, 3, 1, 0, 0, 0, 16, 0] (zeros 128))

theorem witness_PpmCommandsRun :
    let s := setData R.ppmData 16 patA lab
    let u := setPattern 4095 patA lab
    ppmOk (s.dataBytes R.ppmData 16) = true ∧ s.inRange 0 5 4095 1 = true ∧
    isNext (exec (.ppmWrite f00 4095) s) (complete .ppm Code.ok 0 (setPattern 4095 patA (s.taken f00 .ppm 1 0))) ∧
    4095 ∉ u.ppm.bad ∧ isNext (exec (.ppmRead f00 4095 .corr) u)
      (complete .ppm Code.ok 0 (setData R.ppmData 16 patA (ppmError 4095 .corr (u.taken f00 .ppm 2 0)))) ∧
    ppmValid (u.pattern 4095) = true ∧
    gives (exec (.ppmInvalidate f00 4095) u) (fun t => !ppmValid (t.pattern 4095) && t.pattern 4094 == u.pattern 4094 &&
      t.ppm.bad == u.ppm.bad) = true := by decide +kernel

/-- A whole packet with a scan that runs over its bytes. -/
def scanning (b : Bytes) : State :=
  setPkt 9 { noPacket with bytes := b, pr := patch 4 (toLe 2 2 ++ toLe 2 0xFFFF) (zeros 128), scan := some ⟨[(7, patA)], [], 0⟩ } lab

theorem witness_PpmCommandsRun_scan :
    (match (scanning [1, 2, 3, 0x41]).pkt 9 with
      | some q => scanDue q && ppmFirst (ppmHits [(7, patA)] (scanPayload q)) == some ⟨2, 7, 3, 1⟩ &&
          gives (exec (.ppmScanEnd 9 []) (scanning [1, 2, 3, 0x41])) (fun t =>
            t.pkt 9 == some { q with pr := ppmResult (pfPpmDone + pfPpmHit) 8 7 1 q.pr, scan := none })
      | none => false) = true ∧
    (match (scanning [1, 2, 3]).pkt 9 with
      | some q => scanDue q && (ppmHits [(7, patA)] (scanPayload q)).isEmpty &&
          gives (exec (.ppmScanEnd 9 []) (scanning [1, 2, 3])) (fun t =>
            t.pkt 9 == some { q with pr := ppmResult pfPpmDone 0 0 0 q.pr, scan := none })
      | none => false) = true := by decide +kernel

/-! ### Tables and the search array -/

/-- TBL_ARG and TBL_DATA of partition 0. -/
def tblIn (arg : Nat) (data : Bytes) (s : State) : State :=
  setData (R.tblData 0) 8 data (s.setFld (R.tblArg 0) F.tblArgIndex arg)

/-- Banks carved as label, host route, next hop, group, member and MAC tables; the rest as stencils. -/
def carved : State :=
  { live with plate := { live.plate with banks := [{ labBank with code := some { labCode with
      carving := [2, 3, 4, 5, 6, 16, 16] ++ List.replicate 153 1 } }, emptyBank] } }

def mac1 : Bytes := patch 0 [1, 2, 3, 4, 5, 6, 7, 0, 9, 0, 0, 1] (zeros 14)
def oOf (s : State) (op table mask : Nat) : TblOp := tblOpOf s 0 op table mask
def tblTaken (s : State) (op : Nat) : State := s.taken f00 (.tbl 0) op 0

def wordIn : State := tblIn 3 (toLe 8 0x100000000) carved
theorem witness_TableCommandsRun_write : Passes (tblChecks (tblTaken wordIn 1) 0 (oOf wordIn 1 1 0)) ∧
    isNext (exec (.tblWrite f00 1) wordIn) (complete (.tbl 0) Code.ok 0 (tblStore (oOf wordIn 1 1 0) (tblTaken wordIn 1))) = true := by
  decide +kernel
theorem witness_TableCommandsRun_read : Passes (tblChecks (tblTaken wordIn 2) 0 (oOf wordIn 2 1 0)) ∧
    wordIn.isBad 1 0 (oOf wordIn 2 1 0).arg = false ∧
    isNext (exec (.tblRead f00 1 0 .ok) wordIn) (complete (.tbl 0) Code.ok 0
      (setData (R.tblData 0) 8 (tblEntry (tblTaken wordIn 2) (oOf wordIn 2 1 0)) (tblTaken wordIn 2))) = true := by decide +kernel

def tblTaken3 (s : State) : State := (tblTaken s 3).setFld (R.tblStatus 0) F.tblStatusMoves 0
def macArg : State := tblIn 0 mac1 carved
theorem witness_TableCommandsRun_insert : Passes (tblChecks (tblTaken3 macArg) 0 (oOf macArg 3 5 1)) ∧
    given (tblInsertAll (tblTaken3 macArg) (oOf macArg 3 5 1)) (fun r => isNext (exec (.tblInsert f00 5 1) macArg)
      (complete (.tbl 0) Code.ok 0 ((r.1.setFld (R.tblArg 0) F.tblArgIndex r.2.1).setFld (R.tblStatus 0) F.tblStatusMoves r.2.2))) =
        true := by decide +kernel

/-- The MAC table of pipeline 0 holds one entry, in the slot of its first hash. -/
def macSlot : Nat := ((keySlots 2 (macArg.emBuckets 2) (emKey 2 mac1)).headD 0)
def macIn : State := setEm 2 [(macSlot, emImage 2 mac1)] macArg

theorem witness_TableCommandsRun_delete : Passes (tblChecks (tblTaken macIn 4) 0 (oOf macIn 4 5 1)) ∧
    given (tblDeleteAll (tblTaken macIn 4) (oOf macIn 4 5 1)) (fun u =>
      isNext (exec (.tblDelete f00 5 1) macIn) (complete (.tbl 0) Code.ok 0 u)) = true := by decide +kernel
theorem witness_TableCommandsRun_lookup : Passes (tblChecks (tblTaken macIn 5) 0 (oOf macIn 5 5 1)) ∧ (oOf macIn 5 5 1).ems = [2] ∧
    emFind 2 (macIn.emBuckets 2) (emKey 2 mac1) (macIn.emTab 2) = some macSlot ∧
    gives (exec (.tblLookup f00 5 1) macIn) (fun t => t.fld (R.tblStatus 0) stCode == Code.ok &&
      t.fld (R.tblArg 0) F.tblArgIndex == macSlot) ∧
    emFind 2 (macArg.emBuckets 2) (emKey 2 mac1) (macArg.emTab 2) = none ∧
    gives (exec (.tblLookup f00 5 1) macArg) (fun t => t.fld (R.tblStatus 0) stCode == Code.notfound) = true := by decide +kernel

def rootIn : State := tblIn 63 (toLe 8 0x8008000000000000) carved
theorem witness_TableCommandsRun_commit : Passes (tblChecks (tblTaken rootIn 7) 0 (oOf rootIn 7 9 0)) ∧
    isNext (exec (.tblCommit f00) rootIn) (complete (.tbl 0) Code.ok 0
      ((tblTaken rootIn 7).wr (R.tblStencilRoot 63) 0x8008000000000000)) = true := by decide +kernel

/-- A fence that waits for packet 5. -/
def fenced : State :=
  let s := setPkt 5 noPacket lab
  { s with tbl := { s.tbl with fenceC := s.tbl.fenceC.set 0 (some { pkts := [5], at_ := s.now - 1000000 }) } }

theorem witness_FencesAndRingGroups_fence : gives (exec (.tblFence f00) lab) (fun t => t.busy (.tbl 0) &&
    t.tbl.fenceC == [some { pkts := lab.inFdie, at_ := lab.now }, none, none, none] && t.rd (R.tblDevCtr 3) == 1) = true := by
  decide +kernel
theorem witness_FencesAndRingGroups_timeout : 5 ∈ fenced.inFdie ∧ isNext (exec (.tblFenceTimeout 0 false) fenced)
    (complete (.tbl 0) Code.timeout 0 (clearFence 0 false (report .f 0x07 0x3FF .k 0x005 [] fenced))) = true := by decide +kernel
theorem witness_FencesAndRingGroups_done : 5 ∉ (erasePkt 5 fenced).inFdie ∧ isNext (exec (.tblFenceDone 0 false) (erasePkt 5 fenced))
    (complete (.tbl 0) Code.ok 0 (clearFence 0 false (erasePkt 5 fenced))) = true := by decide +kernel

/-- The table ring of partition 0 holds one descriptor: a WRITE of stencil word 3, with END. -/
def ringed : State := (carved.setFld (R.tblRingCfg 0) F.tblRingCfgRingEn 1).setFld (R.tblRingTail 0) F.tblRingTailTail 1
def desc (b : Nat) : Bytes := patch 0x40 (toLe 8 0x100000000) (patch 0 ([1, 0, 0, 0, 1, 0, 0, 0, 3] ++ zeros 7 ++ toLe 1 b) (zeros 128))

theorem witness_FencesAndRingGroups_ring : ringed.boot.ready = true ∧ ringed.mayInt 0 = true ∧ ringed.flag (R.tblRingCfg 0) F.tblRingCfgRingEn = true ∧
    ringed.tbl.fenceR.getD 0 none = none ∧ ringed.tbl.big.getD 0 false = false ∧
    (2 ^ 32 + ringed.fld (R.tblRingTail 0) F.tblRingTailTail - ringed.tblHead 0) % 2 ^ 32 = 1 ∧
    ringEnd (desc 1) 0 = true ∧ groupCheck ringed 0 (desc 1) 1 = Code.ok ∧ (ringOp (desc 1) 0).op = 1 ∧
    isNext (exec (.tblRingGroup 0 (.data (desc 1)) 1) ringed)
      (ringComplete 0 0 Code.ok 1 (tblStore (ringOp (desc 1) 0) ringed)) = true := by decide +kernel
theorem witness_BadArrivalsAreHandled_ring :
    groupCheck ringed 0 (patch 0 [9] (desc 1)) 1 ≠ Code.ok ∧ ringEnd (patch 0 [9] (desc 1)) 0 = true ∧
    gives (exec (.tblRingGroup 0 (.data (patch 0 [9] (desc 1))) 1) ringed) (fun t => t.tbl == ringed.tbl && t.tblHead 0 == 1) ∧
    isNext (exec (.tblRingGroup 0 .timeout 1) ringed) (setBig 0 false (ringComplete 0 0 Code.timeout 1 ringed)) ∧
    isNext (exec (.tblRingGroup 0 .poison 1) ringed) (setBig 0 false (ringComplete 0 0 Code.eccUncorrectable 1 ringed)) = true := by decide +kernel

/-- The ager runs over a table with the entry of `macIn`. -/
def aging (flags : Nat) : State :=
  setEm 2 [(7, patch 11 (toLe 1 flags) (emImage 2 mac1))] (carved.setFld R.tblAgeCfg F.tblAgeCfgAgeEn 1)

theorem witness_AgerAndScrubbersVisit_ager : 7 < (aging 5).emSlots 2 ∧ (aging 5).tbl.visited = [] ∧
    macHit (emGet 2 7 ((aging 5).emTab 2)) = true ∧
    gives (exec (.macAgerVisit 0 7) (aging 5)) (fun t => !macHit (emGet 2 7 (t.emTab 2)) && emValid 2 (emGet 2 7 (t.emTab 2))) ∧
    macHit (emGet 2 7 ((aging 1).emTab 2)) = false ∧ macStatic (emGet 2 7 ((aging 1).emTab 2)) = false ∧
    gives (exec (.macAgerVisit 0 7) (aging 1)) (fun t => !emValid 2 (emGet 2 7 (t.emTab 2)) && t.rd (R.tblPipeCtr 0 8) == 1) ∧
    macStatic (emGet 2 7 ((aging 3).emTab 2)) = true ∧
    gives (exec (.macAgerVisit 0 7) (aging 3)) (fun t => t.tbl.em == (aging 3).tbl.em) = true := by decide +kernel
def scrubbing : State := carved.setFld R.tblScrubCfg F.tblScrubCfgScrubEn 1
def scrubbedAt (table pipe slot : Nat) (s : State) : State :=
  { s with tbl := { s.tbl with scrubbed := [(scrubKey table pipe slot, s.now)] } }
theorem witness_AgerAndScrubbersVisit_scrub : scrubbing.flag R.tblScrubCfg F.tblScrubCfgScrubEn = true ∧
    7 < scrubbing.tblCarved 5 0 ∧ 7 < scrubbing.tblCarved 1 15 ∧ scrubbing.tbl.scrubbed = [] ∧
    isNext (exec (.tblScrub 5 0 7 .uncorr) scrubbing) (entryLost 2 7 1 (scrubbedAt 5 0 7 scrubbing)) ∧
    isNext (exec (.tblScrub 1 15 7 .uncorr) scrubbing) (markBad 1 0 7 (scrubbedAt 1 15 7 scrubbing)) ∧
    isNext (exec (.tblScrub 5 0 7 .corr) scrubbing)
      (report .f 0x07 0 .c 0x001 [] ((scrubbedAt 5 0 7 scrubbing).inc (R.tblDevCtr 0))) = true := by
  decide +kernel

/-- Search array: table 0 takes banks 0 and 1, narrow entries, holes every 4 entries. -/
def asaCfg : Word := setF (setF (setF 0 F.asaTableCfgEn 1) F.asaTableCfgBankCount 2) F.asaTableCfgHoleLog2 4
def ent (b flags : Nat) : Bytes := patch 0 [BitVec.ofNat 8 b] (patch 20 [255] (patch 50 [BitVec.ofNat 8 flags] (zeros 64)))
def asaIn (x : Nat) (img : Bytes) (rows : SMap Bytes) : State :=
  setData (R.asaData 0) 24 img ((put [(R.asaTableCfg 0, asaCfg)] { lab with asa := { rows := rows, badRes := [], told := [], lost := [], scrubbed := [] } }).setFld
    (R.asaArg 0) F.asaArgIndex x)
def asaTaken (s : State) (op : Nat) : State := s.taken f00 (.asa 0) op 0
def asaTaken4 (s : State) : State := (asaTaken s 4).setFld (R.asaStatus 0) F.asaStatusMoves 0

def asaA : State := asaIn 5 (ent 7 1) []
theorem witness_AsaCommandsRun_write :
    Passes (asaChecks (asaTaken asaA 1) 0 1 0 5 (asaA.dataBytes (R.asaData 0) 24)) ∧
    gives (exec (.asaWrite f00 0) asaA) (fun t => t.fld (R.asaStatus 0) stCode == Code.ok &&
      t.asaGet (asaA.asaTab 0) 5 == ent 7 1) = true := by decide +kernel
theorem witness_AsaCommandsRun_read :
    Passes (asaChecks (asaTaken asaA 2) 0 2 0 5 (asaA.dataBytes (R.asaData 0) 24)) ∧ asaA.asaBad 0 5 .corr = false ∧
    gives (exec (.asaRead f00 0 .corr) asaA) (fun t => t.fld (R.asaStatus 0) stCode == Code.ok &&
      t.dataBytes (R.asaData 0) 24 == zeros 192) = true := by decide +kernel

def asaB : State := asaIn 5 (ent 9 1) [(5, ent 7 1), (6, ent 8 1)]
theorem witness_AsaCommandsRun_invalidate :
    Passes (asaChecks (asaTaken asaB 3) 0 3 0 5 (asaB.dataBytes (R.asaData 0) 24)) ∧
    gives (exec (.asaInvalidate f00 0) asaB) (fun t => t.asaGet (asaB.asaTab 0) 5 == ent 7 0 && t.asaGet (asaB.asaTab 0) 6 == ent 8 1) =
      true := by decide +kernel
theorem witness_AsaCommandsRun_insert :
    Passes (asaChecks (asaTaken4 asaB) 0 4 0 5 (asaB.dataBytes (R.asaData 0) 24)) ∧
    asaPlan asaB (asaB.asaTab 0) 5 = some { land := 4, moves := [] } ∧
    gives (exec (.asaInsertAt f00 0 .ok) asaB) (fun t => t.fld (R.asaStatus 0) stCode == Code.ok &&
      (asaPlan asaB (asaB.asaTab 0) 5).map (·.land) == some (t.fld (R.asaArg 0) F.asaArgIndex)) = true := by decide +kernel

/-- A segment of 16 full entries has no hole. -/
def asaFull : State := asaIn 5 (ent 9 1) ((List.range 16).map (fun i => (i, ent i 1)))
theorem witness_CommandsThatAreTurnedAway_asa :
    Passes (asaChecks (asaTaken asaFull 4) 0 4 0 5 (asaFull.dataBytes (R.asaData 0) 24)) ∧
    asaPlan asaFull (asaFull.asaTab 0) 5 = none ∧
    isNext (exec (.asaInsertAt f00 0 .ok) asaFull) (complete (.asa 0) Code.nospace 0
      ((asaTaken asaFull 4).setFld (R.asaStatus 0) F.asaStatusMoves 0)) = true := by decide +kernel
theorem witness_AsaCommandsRun_search :
    Passes (asaChecks (asaTaken asaB 5) 0 5 0 5 (asaB.dataBytes (R.asaData 0) 24)) ∧
    asaWinner asaB (asaB.asaTab 0) (asaValue (asaB.asaTab 0) (ent 8 1)) = some (6, ent 8 1) ∧
    asaWinner asaB (asaB.asaTab 0) (asaValue (asaB.asaTab 0) (asaB.dataBytes (R.asaData 0) 24)) = none ∧
    gives (exec (.asaSearchCmd f00 0 .ok) asaB) (fun t => t.fld (R.asaStatus 0) stCode == Code.notfound) ∧
    gives (exec (.asaSearchCmd f00 0 .ok) (setData (R.asaData 0) 24 (ent 8 1) asaB)) (fun t => t.fld (R.asaArg 0) F.asaArgIndex == 6 &&
      t.fld (R.asaStatus 0) stCode == Code.ok && t.rd (R.asaTableCtr 0 1) == 1) = true := by decide +kernel
theorem witness_AgerAndScrubbersVisit_asa :
    let s := put [(R.asaScrubCfg, setF (asaB.rd R.asaScrubCfg) F.asaScrubCfgScrubEn 1)] asaB
    s.flag R.asaScrubCfg F.asaScrubCfgScrubEn = true ∧
    s.asaTableOf 0 = some 0 ∧ s.asaTableOf 15 = none ∧
    s.asaScrubDue 0 16383 = true ∧ s.asaScrubDue 15 16383 = true ∧ s.asaPlace 15 16383 ∉ s.asa.lost ∧
    isNext (exec (.asaScrubVisit 0 16383 .mismatch) s) (report .f 0x08 0 .c 0x001 [] ((asaVisited 0 16383 s).inc (R.asaDevCtr 0))) ∧
    isNext (exec (.asaScrubVisit 0 16383 .shadowCorr) s) (report .f 0x08 0 .c 0x002 [] ((asaVisited 0 16383 s).inc (R.asaDevCtr 1))) ∧
    (asaVisited 0 16383 s).asaScrubDue 0 16383 = false ∧
    gives (exec (.asaScrubVisit 15 16383 .shadowUncorr) s) (fun t => t.asa.rows == s.asa.rows && t.asa.lost == [262143] && t.rd (R.asaDevCtr 2) == 1) ∧
    gives (exec (.asaScrubVisit 0 5 .shadowUncorr) s) (fun t => t.asaGet (s.asaTab 0) 5 == ent 7 0 && t.rd (R.asaDevCtr 2) == 1) =
      true := by decide +kernel

/-! ### Buffer pool and queue engine -/

def bpmArg (pool x : Nat) (s : State) : State :=
  (s.setFld (R.bpmArg 0) F.bpmArgPool pool).setFld (R.bpmArg 0) F.bpmArgIndex x

/-- Page 9 of the egress pool is in use by requester 3, alone; page 10 of the HBM pool is shared twice under entry 0. -/
def paged : State :=
  { lab with bpm := { lab.bpm with
      pages := [(10, .used (setF (setBit (newRec 3) 63 true) (57, 36) 0)), (pageKey 1 9, .used (newRec 3))], refs := [(0, 2)] } }

theorem witness_BpmCommandsRun_read : lab.upd.tload = none ∧ (bpmArg 1 9 paged).onFailed 1 9 = false ∧ lab.right 0 Right.bpm = true ∧ (bpmArg 1 9 paged).page 1 9 = some (.used (newRec 3)) ∧
    isNext (exec (.bpmReadRec f00 .ok) (bpmArg 1 9 paged)) (complete (.bpm 0) Code.ok 0
      (((bpmArg 1 9 paged).taken f00 (.bpm 0) 1 0).wr (R.bpmData 0) (newRec 3))) ∧
    isNext (exec (.bpmReadRef f00 .ok) (bpmArg 0 0 paged)) (complete (.bpm 0) Code.ok 0
      (((bpmArg 0 0 paged).taken f00 (.bpm 0) 2 0).wr (R.bpmData 0) 2)) = true := by decide +kernel
theorem witness_BpmCommandsRun_retire : (∀ i < 4, (bpmArg 0 3 lab).stackState i = 0) ∧
    isNext (exec (.bpmRetire f00) (bpmArg 0 3 lab)) (complete (.bpm 0) Code.ok 0 (setStack 3 1 ((bpmArg 0 3 lab).taken f00 (.bpm 0) 3 0))) =
      true := by decide +kernel
theorem witness_BpmCommandsRun_second :
    let s := (bpmArg 0 3 lab).setFld (R.bpmStack 0) F.bpmStackState 2
    s.stackState 3 = 0 ∧ s.stackState 0 ≠ 0 ∧
    isNext (exec (.bpmRetire f00) s) (complete (.bpm 0) Code.nospace 0 (s.taken f00 (.bpm 0) 3 0)) ∧
    isNext (exec (.bpmRestore f00) (bpmArg 0 0 s)) (complete (.bpm 0) Code.ok 0 (setStack 0 0 ((bpmArg 0 0 s).taken f00 (.bpm 0) 4 0))) =
      true := by decide +kernel

theorem witness_PagesAndStacks_grant : paged.quotaAllows 22 1 = true ∧ paged.firstFree 1 0 (2 ^ 18) = some 0 ∧ paged.usedOf 22 1 + 1 < 2 ^ 29 ∧
    gives (exec (.pageRequest 22 1 none) paged) (fun t => t.page 1 0 == some (.used (newRec 22)) && t.usedOf 22 1 == 1 &&
      t.outs.head? == some (.pageGrant 22 1 0) && t.page 1 9 == paged.page 1 9) = true := by decide +kernel
theorem witness_BadArrivalsAreHandled_quota :
    let s := put [(R.bpmQuota 22 1, 0)] paged
    s.quotaAllows 22 1 = false ∧ isNext (exec (.pageRequest 22 1 none) s) (s.inc (R.bpmReqCtr 22 2)) = true := by decide +kernel
/-- The head of a body stands alone on page 8 of stack 3, whose first free page is 0 of the next stack in turn. -/
def heading : State := { lab with bpm := { lab.bpm with lastStk := 2, pages := [(2 ^ 26 * 3 + 8, .used (newRec 5))] } }
theorem witness_PagesAndStacks_hbm : heading.bpm.stopped = false ∧ heading.quotaAllows 5 0 = true ∧ heading.nextStack = some 3 ∧
    heading.firstFree 0 (2 ^ 26 * 3) (2 ^ 26) = some (2 ^ 26 * 3) ∧
    gives (exec (.pageRequest 5 0 none) heading) (fun t => t.page 0 (2 ^ 26 * 3) == some (.used (newRec 5)) && t.bpm.lastStk == 3 &&
      t.outs.head? == some (.pageGrant 5 0 (2 ^ 26 * 3)) && t.usedOf 5 0 == 1) ∧
    heading.pageFor 0 (some (2 ^ 26 * 3 + 8)) = some (2 ^ 26 * 3) ∧ heading.record 0 (2 ^ 26 * 3 + 8) = some (newRec 5) ∧
    recLast (newRec 5) = true ∧
    gives (exec (.pageRequest 5 0 (some (2 ^ 26 * 3 + 8))) heading) (fun t =>
      given (t.record 0 (2 ^ 26 * 3 + 8)) (fun w => !recLast w && getF w (25, 0) == 0) && t.bpm.lastStk == 2) = true := by decide +kernel
theorem witness_PagesAndStacks_refused :
    let s := { heading with regs := (heading.wr (R.bpmQuota 5 0) 0).regs }
    s.quotaAllows 5 0 = false ∧ isNext (exec (.pageRequest 5 0 none) s) (s.inc (R.bpmReqCtr 5 2)) ∧
    isNext (exec (.pageRequest 5 0 (some (2 ^ 26 * 3 + 8))) s) (cutStored 0 (2 ^ 26 * 3 + 8) (s.inc (R.bpmReqCtr 5 2))) = true := by
  decide +kernel
theorem witness_PagesAndStacks_stack : lab.stackState 3 ≤ 1 ∧ lab.fld R.bpmCfg F.bpmCfgFailThresh ≤ 4000000 ∧ 0 < lab.fld R.bpmCfg F.bpmCfgFailThresh ∧
    gives (exec (.bpmStackFailed 3 false 4000000) lab) (fun t => t.stackState 3 == 3) ∧
    lab.bpm.unc.length = 4 ∧ lab.boot.f0Out = false := by decide +kernel

theorem witness_ReferencesCount_inc : paged.page 1 9 = some (.used (newRec 3)) ∧ recOwner (newRec 3) = 3 ∧ recShared (newRec 3) = false ∧
    paged.freeRef = 1 ∧
    isNext (exec (.refInc 3 1 9) paged)
      (setRef 1 2 (setPage 1 9 (.used (setF (setBit (newRec 3) 63 true) (57, 36) 1)) paged)) = true := by decide +kernel
theorem witness_ReferencesCount_shared :
    let w := setF (setBit (newRec 3) 63 true) (57, 36) 0
    paged.page 0 10 = some (.used w) ∧ recOwner w = 3 ∧ recShared w = true ∧ recRef w = 0 ∧ paged.refCount 0 = 2 ∧
    isNext (exec (.refInc 3 0 10) paged) (setRef 0 3 paged) ∧ isNext (exec (.refDec 3 0 10 1) paged) (setRef 0 1 paged) ∧
    isNext (exec (.pageFree 3 0 10 1) paged) (setRef 0 1 paged) ∧
    isNext (exec (.refDec 3 0 10 1) (setRef 0 1 paged)) (freeChain 3 0 10 1 (setRef 0 0 (setRef 0 1 paged))) = true := by decide +kernel
/-- Stack 3 has failed: a FREE of a packet on it walks nothing. -/
theorem witness_ReferencesCount_failed :
    let s := heading.setFld (R.bpmStack 3) F.bpmStackState 3
    s.page 0 (2 ^ 26 * 3 + 8) = some (.used (newRec 5)) ∧ s.onFailed 0 (2 ^ 26 * 3 + 8) = true ∧
    isNext (exec (.pageFree 5 0 (2 ^ 26 * 3 + 8) 9) s) (bpmRefresh (dropUsed 5 0 (2 ^ 26 * 3 + 8) 9 s)) = true := by decide +kernel
theorem witness_ReferencesCount_free : paged.onFailed 1 9 = false ∧ paged.onFailed 0 10 = false ∧ isNext (exec (.pageFree 3 1 9 1) paged) (freeChain 3 1 9 1 paged) = true := by decide +kernel

/-- An image of a VOQ: EN as given, ALPHA 7, GMIN 65,536, DEST device 5. -/
def voqImg (en : Nat) : Bytes := patch 0 (toLe 1 en ++ [7, 0, 0] ++ toLe 4 65536) (patch 0x18 (toLe 4 5) (zeros 32))
def qIn (i : Nat) (b : Bytes) (s : State) : State := setData (R.qData 0) 4 b (s.setFld (R.qArg 0) F.qArgIndex i)
def qTaken (s : State) (op : Nat) : State := s.taken f00 (.q 0) op 0
def withQueue (q : Nat) (k : QueueSt) (s : State) : State := { s with q := { s.q with queues := [(q, k)] } }

def qA : State := qIn 100 (voqImg 1) lab
theorem witness_QueueCommandsRun_write : Passes (qChecks (qTaken qA 1) 0 1 1 100) ∧ (qTaken qA 1).imgOk 1 100 (voqImg 1) = true ∧
    (qTaken qA 1).objQuiesced 1 100 = true ∧
    isNext (exec (.qWrite f00 1) qA) (complete (.q 0) Code.ok 0 (qStore 1 100 (voqImg 1) (qTaken qA 1))) = true := by decide +kernel

/-- The VOQ is enabled: its DEST is of class Q. -/
def qB : State := withQueue 100 { emptyQueue with img := voqImg 1 } (qIn 100 (patch 0x18 (toLe 4 6) (voqImg 1)) lab)
theorem witness_CommandsThatAreTurnedAway_quiesce : Passes (qChecks (qTaken qB 1) 0 1 1 100) ∧
    qFields 1 (patch 0x18 (toLe 4 6) (voqImg 1)) ≠ qFields 1 (qB.objImg 1 100) ∧ (qTaken qB 1).objQuiesced 1 100 = false ∧
    isNext (exec (.qWrite f00 1) qB) (complete (.q 0) Code.quiesceRequired 0 (quiesceLog f00 (R.qCmd 0) 2 (qTaken qB 1))) = true := by
  decide +kernel
theorem witness_QueueCommandsRun_read : Passes (qChecks (qTaken qB 2) 0 2 1 100) ∧ qB.objBad 1 100 = false ∧
    gives (exec (.qRead f00 1 .ok) qB) (fun t => t.dataBytes (R.qData 0) 4 == voqImg 1 && t.fld (R.qStatus 0) stCode == Code.ok) ∧
    Passes (qChecks (qTaken qB 4) 0 4 1 100) ∧ (qB.que 100).en = true ∧
    isNext (exec (.qFlush f00) qB) (complete (.q 0) Code.quiesceRequired 0 (qTaken qB 4)) = true := by decide +kernel
theorem witness_QueueCommandsRun_flush : Passes (qChecks (qTaken qA 4) 0 4 1 100) ∧ (qA.que 100).en = false ∧
    gives (exec (.qFlush f00) qA) (fun t => t.q.flushes == [some { q := 100, at_ := qA.now }, none, none, none] && t.busy (.q 0)) =
      true := by decide +kernel

/-- Curve 15 of the ECN curves, its standby points all 5. -/
def qC : State :=
  let s := qIn 15 [] lab
  { s with q := { s.q with ecnStby := (List.range 32).map (fun k => (480 + k, 5)) } }
theorem witness_QueueCommandsRun_commit : (∀ k < 32, qC.objBad 16 (32 * 15 + k) = false) ∧ Passes (qChecks (qTaken qC 3) 0 3 6 15) ∧
    depthsRise ((List.range 32).map (fun k => smapGet ecnReset (32 * 15 + k) qC.q.ecnStby)) = true ∧
    gives (exec (.qCommit f00 6) qC) (fun u => u.fld (R.qStatus 0) stCode == Code.ok && u.q.ecnAct == qC.q.ecnStby) = true := by
  decide +kernel

/-- Curve 7 of the credit curves. -/
def qD : State :=
  let s := qIn 7 [] lab
  { s with q := { s.q with crStby := (List.range 32).map (fun k => (224 + k, 5)) } }
theorem witness_QueueCommandsRun_commitCredit : (∀ k < 32, qD.objBad 17 (32 * 7 + k) = false) ∧
    Passes (qChecks (qTaken qD 3) 0 3 7 7) ∧
    depthsRise ((List.range 32).map (fun k => smapGet creditReset (32 * 7 + k) qD.q.crStby)) = true ∧
    gives (exec (.qCommit f00 7) qD) (fun u => u.fld (R.qStatus 0) stCode == Code.ok && u.q.crAct == qD.q.crStby) = true := by
  decide +kernel

def flushing (at_ : Nat) : State :=
  let s := withQueue 100 { emptyQueue with img := voqImg 0 } lab
  { s with q := { s.q with flushes := [none, none, none, some { q := 100, at_ := at_ }] } }
theorem witness_QueueCommandsRun_ends : gives (exec (.flushDone 3) (flushing 0)) (fun t => t.q.flushes == [none, none, none, none]) ∧
    (flushing (lab.now - 1000000000)).q.flushes.getD 3 none = some { q := 100, at_ := lab.now - 1000000000 } ∧
    lab.now - 1000000000 + 1000000000 ≤ (flushing (lab.now - 1000000000)).now ∧
    qObjOk 10 131071 = true ∧ lab.objBad 10 131071 = false ∧
    gives (exec (.qEccUncorr (.obj 10 131071) .uncorr) lab) (fun t => t.objBad 10 131071 && t.rd (R.qDevCtr 23) == 1) ∧
    qMemOk (.list 1048575) = true ∧
    gives (exec (.qEccUncorr (.list 1048575) .corr) lab) (fun t => t.rd (R.qDevCtr 22) == 1) = true := by decide +kernel

/-- A packet of 64 bytes for VOQ 100 waits at requester 15. -/
def mdTo (target : Nat) : Bytes := mdPut Md.target target (mdPut Md.voq 100 (mdPut Md.len 68 (zeros 32)))
def bridgePkt (target : Nat) : Packet := { noPacket with place := .bridge, bytes := zeros 64, md := mdTo target }
def waiting (target : Nat) : State :=
  let s := withQueue 100 { emptyQueue with img := voqImg 1 } lab
  { s with pkts := [(7, bridgePkt target)], q := { s.q with nextPkt := 8, arrivals := [(15, [7])] } }

theorem witness_UnicastArrivalIsQueued : mdF (mdTo 0) Md.target = 0 ∧ mdF (mdTo 0) Md.mc = 0 ∧ mdF (mdTo 0) Md.polEn = 0 ∧
    ((waiting 0).que 100).en = true ∧ (waiting 0).admits ((waiting 0).que 100) 68 0 = true ∧ qEcnEn ((waiting 0).que 100).img = false ∧
    (waiting 0).quotaAllows 15 0 = true ∧ ((waiting 0).pageFor 0 none).isSome = true ∧
    gives (exec (.queueArrival 15) (waiting 0)) (fun t => (t.que 100).depth == 68 && t.q.arrivals == [] &&
      (t.que 100).ents == [{ pkt := 7, len := 68, at_ := lab.now, md := mdTo 0 }] &&
      given ((waiting 0).pageFor 0 none) (fun h => t.page 0 h == some (.used (newRec 15)))) = true := by decide +kernel
/-- Policer 0 drops what is red, and its buckets are empty. -/
def policed : State :=
  let p := { bridgePkt 0 with md := mdPut Md.polEn 1 (mdTo 0) }
  { waiting 0 with pkts := [(7, p)],
                   q := { (waiting 0).q with policers := [(0, { img := patch 16 [9] (zeros 32), c := 0, p := 0, at_ := 0, bad := false })] } }
theorem witness_UnicastArrivalIsQueued_policed :
    (police (mdPut Md.polEn 1 (mdTo 0)) 68 policed).2 = none ∧
    gives (exec (.queueArrival 15) policed) (fun t => t.rd (R.qDevCtr 12) == 1 && (t.que 100).drop == 1 && t.pkt 7 == none) = true := by
  decide +kernel
theorem witness_UnicastArrivalIsQueued_recirc : (waiting 2).recircDepth + 68 ≤ lab.fld R.qRecircCfg F.qRecircCfgLimit ∧
    (waiting 2).quotaAllows 22 0 = true ∧ ((waiting 2).pageFor 0 none).isSome = true ∧
    gives (exec (.queueArrival 15) (waiting 2)) (fun t => t.q.recirc == [{ pkt := 7, len := 68, at_ := lab.now, md := mdTo 2 }] &&
      given ((waiting 2).pageFor 0 none) (fun h => t.page 0 h == some (.used (newRec 22)))) = true := by decide +kernel
/-- Ingress group 5 has one entry, VOQ 100; group 0 is not valid. -/
def multi (g : Nat) : State :=
  let p := { bridgePkt 0 with md := mdPut Md.mcGroup g (mdPut Md.mc 1 (mdTo 0)) }
  { waiting 0 with pkts := [(7, p)], q := { (waiting 0).q with mcIn := [(5, setF (setBit 0 31 true) (24, 17) 1)], mcEnt := [(0, 100)] } }
theorem witness_UnicastArrivalIsQueued_multicast :
    ((multi 5).mcCopies false (mdPut Md.mcGroup 5 (mdPut Md.mc 1 (mdTo 0)))).isSome = true ∧
    gives (exec (.queueArrival 15) (multi 5)) (fun t => (t.que 100).ents.map (·.pkt) == [7] && t.store 7 != none) ∧
    (multi 0).mcCopies false (mdPut Md.mcGroup 0 (mdPut Md.mc 1 (mdTo 0))) = none ∧
    gives (exec (.queueArrival 15) (multi 0)) (fun t => t.rd (R.qDevCtr 1) == 1 && t.pkt 7 == none) = true := by decide +kernel
theorem witness_BadArrivalsAreHandled_target : mdF (mdTo 3) Md.target = 3 ∧ (waiting 3).pkt 7 = some (bridgePkt 3) ∧
    gives (exec (.queueArrival 15) (waiting 3)) (fun t => t.rd (R.qDevCtr 1) == 1 && t.pkt 7 == none) = true := by decide +kernel

/-- The packet is stored as the head of VOQ 100, with a path to device 5 through group 2. -/
def stored7 (tailIn : Bool) : Stored :=
  { bytes := zeros 64, tailIn := tailIn, stomp := false, cut := false, req := 0, pool := 0, head := 3, pages := 1, pfc := none,
    acct := 68, copies := 1, hatch := 0, stamp := 0, port := 0 }
def ent7 : QEnt := { pkt := 7, len := 68, at_ := 0, md := mdTo 0 }
def groupUp (g : Nat) (s : State) : State :=
  put [(R.fabReach 5, BitVec.ofNat 64 (2 ^ g)), (R.fabGroupCfg g, setF 0 F.fabGroupCfgEn 1), (R.fabGroupStat g, setF (setF 0 F.fabGroupStatUp 1) F.fabGroupStatTxService 1)] s
def queued (cb : Int) (age : Nat) : State :=
  let s := withQueue 100 { emptyQueue with img := patch 8 (toLe 4 age) (voqImg 1), ents := [ent7], depth := 68, cb := cb } (groupUp 2 lab)
  { s with q := { s.q with stored := [(7, stored7 true)] } }

theorem witness_PacketsMoveThroughTheQueues_tail :
    let s := { lab with pkts := [(7, bridgePkt 0)], q := { lab.q with stored := [(7, stored7 false)] } }
    s.store 7 = some (stored7 false) ∧ s.pkt 7 = some (bridgePkt 0) ∧ (bridgePkt 0).bytes.length ≤ pageBytes 0 ∧
    gives (exec (.packetTailStored 7) s) (fun t => t.pkt 7 == none && t.store 7 == some { stored7 true with acct := 68 }) = true := by
  decide +kernel
theorem witness_PacketsMoveThroughTheQueues_age : (queued 0 5).headAged ((queued 0 5).que 100) = true ∧
    gives (exec (.voqAgeDiscard 100) (queued 0 5)) (fun t => (t.que 100).ents == [] && t.rd (R.qDevCtr 5) == 1) ∧
    (queued 0 0).headAged ((queued 0 0).que 100) = false ∧ isNext (exec (.voqAgeDiscard 100) (queued 0 0)) (queued 0 0) = true := by
  decide +kernel
theorem witness_PacketsMoveThroughTheQueues_start : ((queued 1 0).que 100).ents = [ent7] ∧ 0 < ((queued 1 0).que 100).cb ∧
    ((queued 1 0).que 100).shaped (queued 1 0).now = true ∧ (queued 1 0).repinHeld 5 = false ∧ (queued 1 0).headBad ent7 = none ∧
    hatchGroup ((queued 1 0).reachMask 5) 0 = some 2 ∧ smapFind 0 ((queued 1 0).linkGroup 2).tx = none ∧
    gives (exec (.voqPacketStart 100) (queued 1 0)) (fun t => (t.que 100).ents == [] && (t.que 100).cb == -67 && (t.que 100).depth == 0 &&
      smapFind 0 (t.linkGroup 2).tx == some { st := 7, q := 100, dev := 5, seq := 0, cell := 0, md := mdTo 0 }) ∧
    isNext (exec (.voqPacketStart 100) (queued 0 0)) (queued 0 0) = true := by decide +kernel

/-- Port 0 exists and its link is up; an egress queue of it holds a packet, and every node above it is enabled. -/
def portUp (s : State) : State :=
  put [(R.lineOctetCfg 0, setF 0 F.lineOctetCfgMode 2), (R.linePortCfg 0, setF (setF 0 F.linePortCfgPortEn 1) F.linePortCfgMaxFrame 9600),
    (R.linePortStat 0, setF 0 F.linePortStatLinkUp 1)] s
def nodeOn : NodeSt := { emptyNode with img := patch 0 [1] (zeros 16) }
def egress : State :=
  let s := withQueue voqCount { emptyQueue with img := voqImg 1, ents := [ent7], depth := 68 } (portUp live)
  { s with q := { s.q with stored := [(7, stored7 true)], nextPkt := 8, n1 := [(0, nodeOn)], n2 := [(0, nodeOn)], n3 := [(0, nodeOn)] } }
theorem witness_PacketsMoveThroughTheQueues_egress : egress.portExists 0 = true ∧ egress.agedQueue 0 = none ∧ egress.linkUp 0 = true ∧
    (egress.node 4 0).tokAt ≤ egress.now ∧ (pickQueue 0 egress).2 = some voqCount ∧
    gives (exec (.egressDequeue 0) egress) (fun t => (t.pkt 8).isSome) = true := by decide +kernel

/-- The packet waits for its egress pipeline, 8. -/
def waitingOut (role : Nat) : State :=
  let s := put [(R.platePipe 8, setF 0 F.platePipeRole role)] live
  setPkt 8 { bridgePkt 0 with place := .egressWait, egress := true } s
theorem witness_PacketsMoveThroughTheQueues_entry : ((waitingOut 2).egressWaiting 0).isSome = true ∧ (waitingOut 2).egressPipe 0 = 8 ∧
    (waitingOut 2).plate.live = some 0 ∧ (waitingOut 2).role 8 = 2 ∧ (waitingOut 2).quiescing 8 = false ∧ (waitingOut 2).ctxFree 0 = true ∧
    0 ∈ ((waitingOut 2).bank 0).metaAcc ∧
    gives (exec (.egressEntry 0) (waitingOut 2)) (fun t => given (t.pkt 8) (fun p => p.place == .pipe && p.pipe == 8 && p.egress)) ∧
    (waitingOut 0).role 8 ≠ 2 ∧
    gives (exec (.egressEntry 0) (waitingOut 0)) (fun t => t.pkt 8 == none && t.rd (R.qDevCtr 19) == 1) = true := by decide +kernel

/-- A cut-through packet that was sent to port 0 and has run dry. -/
def dry : State :=
  { portUp lab with q := { lab.q with stored := [(7, stored7 false)], started := [{ pkt := 8, st := 7, port := 0, at_ := 0, had := 0 }] },
                    pkts := [(8, { bridgePkt 0 with place := .egressWait, egress := true, tailIn := false, bytes := [] })] }
theorem witness_PacketsMoveThroughTheQueues_underrun :
    (dry.q.started.find? (fun x => x.port == 0 && (dry.storedBytes x.st).length < dry.bytesNeeded x)).isSome = true ∧
    gives (exec (.ctUnderrun 0) dry) (fun t => t.rd (R.qDevCtr 8) == 1 && t.q.started == [] &&
      given (t.pkt 8) (fun p => p.bytes == dry.storedBytes 7 && p.tailIn && p.stomp)) = true := by decide +kernel
def recircs : State := { live with q := { lab.q with stored := [(7, stored7 true)], recirc := [ent7] } }
theorem witness_PacketsMoveThroughTheQueues_recirc : recircs.store 7 = some (stored7 true) ∧ recircs.q.recircAt ≤ recircs.now ∧
    (recircs.stream recircStream).outstanding < 32768 ∧ nextPipe recircs recircs.line.rr = some 0 ∧
    gives (exec .recircReturn recircs) (fun t => t.q.recirc == [] && t.pkts.length == 1 && t.q.recircAt == recircs.now + 16) = true := by
  decide +kernel

theorem witness_CreditMoves_refresh :
    let s := withQueue 262143 { emptyQueue with img := voqImg 1, ents := [ent7], active := true } lab
    (s.que 262143).active = true ∧ (s.que 262143).reqAt + usT (s.fld R.qCreditCfg F.qCreditCfgRefreshUs) ≤ s.now ∧
    gives (exec (.creditRefresh 262143) s) (fun t => (t.que 262143).reqAt == s.now) = true := by decide +kernel
def reqFrom (active : Bool) : ReqMsg := { issuer := 4095, target := 0, voq := 1, port := 0, tc := 7, active := active }
def src4095 (at_ : Nat) : Source := { port := 0, tc := 7, dev := 4095, voq := 1, at_ := at_ }
theorem witness_CreditMoves_request :
    gives (exec .requestReceive { lab with q := { lab.q with reqIn := [reqFrom true] } })
      (fun t => t.q.reqIn == [] && t.q.sources == [src4095 lab.now]) ∧
    gives (exec .requestReceive { lab with q := { lab.q with reqIn := [reqFrom false], sources := [src4095 0] } })
      (fun t => t.q.sources == []) ∧
    gives (exec (.requestExpire 0 7 4095) { lab with q := { lab.q with sources := [src4095 0] } }) (fun t => t.q.sources == []) ∧
    gives (exec (.requestExpire 0 7 4095) { lab with q := { lab.q with sources := [src4095 lab.now] } })
      (fun t => t.q.sources == [src4095 lab.now]) = true := by decide +kernel
def granting : State :=
  let s := put [(R.qPortCfg 0, setF (setF (lab.rd (R.qPortCfg 0)) F.qPortCfgCreditCurve 0) F.qPortCfgEgressPipe 8)] (portUp lab)
  { s with q := { s.q with sources := [src4095 lab.now], crAct := (List.range 32).map (fun k => (k, 0xFFFF)) } }
theorem witness_CreditMoves_grant : granting.portExists 0 = true ∧ (granting.grantGap 0).isSome = true ∧ (granting.pickTc 0).isSome = true ∧
    nextSource 0 (granting.srcs 0 7) = some (src4095 lab.now) ∧
    gives (exec (.grantIssue 0) granting) (fun t => t.rd (R.qDevCtr 15) == 1 &&
      given (granting.grantGap 0) (fun g => smapGet (fun _ => 0) 0 t.q.grantAt == granting.now + g)) = true := by decide +kernel
/-- The source is device 4095, reached through group 2; or the device itself. -/
theorem witness_CreditMoves_sent :
    let s := put [(R.fabReach 4095, 4), (R.fabGroupCfg 2, setF 0 F.fabGroupCfgEn 1), (R.fabGroupStat 2, setF (setF 0 F.fabGroupStatUp 1) F.fabGroupStatTxService 1)] granting
    let g : GrantMsg := { issuer := s.devIndex, target := 4095, voq := 1, credit := s.fld R.qCreditCfg F.qCreditCfgGrantUnits }
    let o := s.wr R.fabDevIndex 4095
    s.devIndex ≠ 4095 ∧ s.reachMask 4095 = [2] ∧
    gives (exec (.grantIssue 0) s) (fun t => (t.linkGroup 2).msgs == [creditWord (.grant g)]) ∧ o.devIndex = 4095 ∧
    gives (exec (.grantIssue 0) o) (fun t => t.q.grantIn.map (·.target) == [4095]) = true := by decide +kernel
def grantIn (issuer : Nat) : State :=
  let s := withQueue 100 { emptyQueue with img := voqImg 1 } lab
  { s with q := { s.q with grantIn := [{ issuer := issuer, target := 0, voq := 100, credit := 64 }] } }
theorem witness_CreditMoves_take : ((grantIn 5).que 100).en = true ∧ qDestDev ((grantIn 5).que 100).img = 5 ∧
    (0 : Int) + (64 * 256 : Nat) ≤ (lab.fld R.qCreditCfg F.qCreditCfgCbMax * 256 : Nat) ∧
    gives (exec .grantReceive (grantIn 5)) (fun t => (t.que 100).cb == 16384 && t.rd (R.qDevCtr 16) == 1 && t.q.grantIn == []) ∧
    (let s := (grantIn 5).setFld R.qCreditCfg F.qCreditCfgCbMax 63
     gives (exec .grantReceive s) (fun t => (t.que 100).cb == 16128 && t.rd (R.qDevCtr 17) == 1)) ∧
    isNext (exec .grantReceive (grantIn 6)) (({ grantIn 6 with q := { (grantIn 6).q with grantIn := [] } } : State).inc (R.qDevCtr 18)) =
      true := by decide +kernel

/-! ### The calendar -/

/-- A slot section whose only entry is lane 0's. -/
def oneSlot (e : Nat) : Bytes := patch 0 (toLe 4 (2 ^ 17)) (zeros 512) ++ toLe 4 e

/-- A calendar of one flow from port 0 to port 0, one window, a TX slot at position 17, an RX slot at position 18 and
one release. -/
def calImage : Bytes :=
  let head := patch 0x2C (toLe 2 1) (patch 6 (toLe 2 6) (zeros 64))
  let sec := fun (t o n : Nat) => toLe 4 t ++ toLe 4 o ++ toLe 4 n ++ toLe 4 0
  let flow := patch 0 [25, 1, 0, 0] (patch 0xC (toLe 2 240 ++ [1, 0x11]) (patch 0x12 (toLe 2 1) (zeros 32)))
  head ++ (sec 1 160 32 ++ sec 2 192 8 ++ sec 3 200 516 ++ sec 4 716 516 ++ sec 5 1232 8 ++ sec 6 1240 0) ++
    flow ++ toLe 8 (100 * 2 ^ 20) ++ oneSlot 17 ++ oneSlot 18 ++ toLe 8 5000

/-- Bank 0 is in a state and holds the calendar. -/
def calIn (st : Nat) (s : State) : State :=
  setCalImg 0 calImage (s.setFld (R.schedBank 0) F.schedBankState st)

theorem witness_SchedCommandsRun_load :
    let s := put [(R.schedArg1, 1536)] lab
    lab.right 0 Right.calendar = true ∧ lab.upd.tload = none ∧ s.calState 0 = Cb.empty ∧ s.boot.restarting = false ∧ s.fld R.schedArg0 F.schedArg0AddrOrMf % 64 = 0 ∧
    s.fld R.schedArg1 F.schedArg1Length = 1536 ∧
    isNext (exec (.schedLoad f00 0 (s.calGen 0)) s)
      (calTo 0 Cb.loading { s.taken f00 .sched 1 0 with cal := { s.cal with loading := some 0, len := 1536 } }) = true := by decide +kernel
def standing : State := put [(R.schedArg0, 100)] (calIn Cb.standby (portUp lab))
theorem witness_SchedCommandsRun_swap : standing.calState 0 = Cb.standby ∧ Passes (swapChecks (standing.taken f00 .sched 2 0) 0 100) ∧
    isNext (exec (.schedSwap f00 0 (standing.calGen 0)) standing)
      { standing.taken f00 .sched 2 0 with cal := { standing.cal with swapReq := some (0, 100) } } = true := by decide +kernel
theorem witness_SchedCommandsRun_abort : standing.calState 0 = Cb.standby ∧ standing.cal.loading = none ∧
    isNext (exec (.schedAbort f00 0 (standing.calGen 0)) standing) (complete .sched Code.ok 0 (calTo 0 Cb.empty (standing.taken f00 .sched 3 0))) = true := by
  decide +kernel
def armedAt (m : Nat) : State :=
  let s := calIn Cb.armed lab
  { s with cal := { s.cal with armed := [(0, m)] } }
theorem witness_SchedCommandsRun_disarm : (armedAt 100).calState 0 = Cb.armed ∧ (armedAt 100).lateAbort 0 = false ∧ (armedAt 2).lateAbort 0 = true ∧
    isNext (exec (.schedAbort f00 0 ((armedAt 100).calGen 0)) (armedAt 100))
      (complete .sched Code.ok 0 (disarm 0 (calTo 0 Cb.standby ((armedAt 100).taken f00 .sched 3 0)))) = true := by decide +kernel
theorem witness_SchedCommandsRun_restart :
    let s := lab.setFld R.schedVote F.schedVoteHalt 1
    s.halted = true ∧ voteOk .agree = true ∧
    isNext (exec (.schedRestart f00 .agree) s) { s.taken f00 .sched 4 0 with cal := { s.cal with resume := some 2 } } = true := by decide +kernel

/-- A load of 1,280 bytes into bank 0 is in progress. -/
def calLoading (st : Nat) (img : Bytes) : State :=
  let s := setCalImg 0 img (put [(R.schedStatus, 1)] (lab.setFld (R.schedBank 0) F.schedBankState st))
  { s with cal := { s.cal with loading := some 0, len := 1280 } }
theorem witness_SchedCommandsRun_busy :
    let s := calLoading Cb.loading []
    s.busy .sched = true ∧ s.cal.loading = some 0 ∧ s.calState 0 ≠ Cb.armed ∧
    isNext (exec (.schedAbort f00 0 (s.calGen 0)) s)
      (complete .sched Code.ok 0 (calTo 0 Cb.empty { s.taken f00 .sched 3 0 with cal := { s.cal with loading := none } })) = true := by
  decide +kernel
theorem witness_SchedLoads_data :
    let s := calLoading Cb.loading []
    s.cal.loading = some 0 ∧ s.calState 0 = Cb.loading ∧ s.boot.restarting = false ∧ arrivedFail calKind 1280 [0x4F] = none ∧
    isNext (exec (.schedLoadData (.data [0x4F]) true) s) (setCalImg 0 [0x4F] s) ∧
    arrivedFail calKind 1280 (zeros 64) ≠ none ∧
    gives (exec (.schedLoadData (.data (zeros 64)) true) s) (fun t => t.calState 0 == Cb.invalid && t.cal.loading == none) = true := by decide +kernel
theorem witness_SchedLoads_verify :
    let s := calLoading Cb.verifying calImage
    s.cal.loading = some 0 ∧ s.calState 0 = Cb.verifying ∧ s.boot.restarting = false := by decide +kernel
def arming (raise_ : Nat) : State :=
  let s := (calIn Cb.standby lab).setFld R.schedCtl F.schedCtlSlackRaisePs raise_
  { s with cal := { s.cal with swapReq := some (0, 100) } }
theorem witness_SchedLoads_arm : (arming 0).cal.swapReq = some (0, 100) ∧ (arming 0).calLive = none ∧ (arming 0).slackRaise ≤ (arming 0).bankSlack 0 ∧
    gives (exec .schedArm (arming 0)) (fun t => t.calState 0 == Cb.armed && t.cal.swapReq == none && t.cal.armed == [(0, 100)] &&
      t.fld R.tsiStat F.tsiStatAnnounce == 1 && t.fld R.tsiStat F.tsiStatSwapMf == 100) ∧
    standing.calState 0 = Cb.standby ∧ standing.cal.swapReq = none ∧
    isNext (exec (.schedBankEccError 0) standing) (calTo 0 Cb.invalid standing) = true := by decide +kernel

/-- The calendar runs on a live bank 0 with port 0 up; calendar time is that many reference periods. -/
def onAir (ref halt : Nat) : State :=
  let s := put [(R.fabCtl, setF 0 F.fabCtlFramerRun 1), (R.schedVote, setF 0 F.schedVoteHalt halt)] (calIn Cb.live (portUp lab))
  { s with cal := { s.cal with run := .on }, fab := { s.fab with ref := ref } }
def first64 : Bytes := zeros 64
def held (sent : Nat) (len : Nat) (whole : Bool) : TxFrame :=
  { flow := 0, len := len, whole := whole, stomp := false, sent := sent, late := false, mf := 0 }
theorem witness_ScheduledFrames_match : (onAir 10 0).rxOn 0 = true ∧ smapFind 0 (onAir 10 0).line.rx = none ∧
    (onAir 10 0).flowOf 0 first64 100 = some (0, 0, 0) ∧ (onAir 10 0).halted = false ∧ windowAt ((onAir 10 0).calImg 0) 0 100 = some 0 ∧
    (onAir 10 0).txFrameOf (calKey 0 0) = none ∧
    gives (exec (.flowMatch 0 first64 100 fec0 .agree) (onAir 10 0)) (fun u => u.txFrameOf 0 == some (held 0 64 false) &&
      u.rd (R.schedFlowCtr 0 0) == 1) = true := by decide +kernel
theorem witness_ScheduledFrames_other :
    let s := put [(R.linePortCfg 8, setF 0 F.linePortCfgPortEn 1), (R.linePortStat 8, setF 0 F.linePortStatLinkUp 1),
      (R.lineOctetCfg 1, setF 0 F.lineOctetCfgMode 2)] (onAir 0 0)
    s.rxOn 8 = true ∧ smapFind 8 s.line.rx = none ∧ s.flowOf 8 first64 0 = none ∧
    isNext (exec (.flowMatch 8 first64 0 fec0 .agree) s) (awaitSegment 8 64 false s) = true := by decide +kernel
def receiving (sent : Nat) : State :=
  let s := setTxFrame 0 (held sent 64 false) (onAir 0 0)
  { s with line := { s.line with rx := [(0, { pkt := none, len := 64, sched := some 0, bad := false, wait := false })] } }
theorem witness_ScheduledFrames_tail : (receiving 0).schedCur 0 = some (0, held 0 64 false) ∧ (receiving 0).maxLenOf 0 0 = 240 ∧
    gives (exec (.schedOverlen 0 (zeros 177) fec0) (receiving 0)) (fun u =>
      u.txFrameOf 0 == some { held 0 240 true with stomp := true } && u.rd (R.schedCtr 2) == 1) ∧
    (receiving 0).curBad 0 = false ∧
    gives (exec (.schedFrameTail 0 (zeros 176) .good fec0) (receiving 0)) (fun u =>
      smapFind 0 u.line.rx == none && u.txFrameOf 0 == some (held 0 240 true)) = true := by
  decide +kernel

/-- Lane 0 of group 0 runs and has sent 17 cells of its first frame. -/
def sending (ref grp : Nat) (s : State) : State :=
  let s := put [(R.fabLaneCfg 0, setF 0 F.fabLaneCfgEn 1), (R.fabGroupCfg 0, setF (setF 0 F.fabGroupCfgEn grp) F.fabGroupCfgSize 1)] s
  setLane 0 { emptyLane with txNext := 1, txCell := 17 } { s with fab := { s.fab with ref := ref } }
def sendingFrame (ref : Nat) : State := sending ref 1 (setTxFrame 0 (held 0 240 true) (onAir 0 0))
theorem witness_SlotsSendTheirCells_frame : (sendingFrame 29).framerRun = true ∧ (sendingFrame 29).pwr.tripped = false ∧
    (sendingFrame 29).laneOn 0 = true ∧ ((sendingFrame 29).lane 0).txCell = 17 ∧ (sendingFrame 29).curFrame = 0 ∧
    pickTime 17 ≤ (sendingFrame 29).calTime ∧ (sendingFrame 29).twinLane 0 = false ∧ (sendingFrame 29).servingSlot 0 17 = some (0, 17, true) ∧
    ((sendingFrame 29).lane 0).ais = false ∧ txCarry ((sendingFrame 29).calImg 0) 17 = false ∧ sCell 17 = 0 ∧ calKey 0 (sRef 17) = 0 ∧
    gives (exec (.cellSlotPick 0 17 [] .ok .agree) (sendingFrame 29)) (fun t =>
      t.outs == [.fabCell 0 17 (scrCell 17 (schedCellOf 0 0 0 (held 0 240 true) (zeros 240)))] && t.txFrameOf 0 == some (held 1 240 true)) = true := by
  decide +kernel
theorem witness_SlotsSendTheirCells_ais :
    let s := sending 29 0 (put [(R.fabCtl, setF 0 F.fabCtlFramerRun 1)] lab)
    s.servingSlot 0 17 = none ∧ s.sendsAis 0 = true ∧
    gives (exec (.cellSlotPick 0 17 [] .ok .agree) s) (fun t =>
      t.outs == [.fabCell 0 17 (scrCell 17 idleCell)] && (t.lane 0).txCell == 18) = true := by decide +kernel

/-- A scheduled cell of 64 bytes with a LAST flag, of an epoch. -/
def schedCell (epoch : Nat) : Bytes := schedCellOf 5 epoch 0 (held 0 64 true) (zeros 64)
def cellWaits (s : State) (epoch : Nat) : State :=
  { s with cal := { s.cal with cells := [{ lane := 0, pos := 18, cell := schedCell epoch, bad := false }] } }
theorem witness_ScheduledReleases_cell :
    let s := cellWaits (onAir 0 0) 0
    s.cal.run ≠ .off ∧ s.halted = false ∧ s.rxSlot { lane := 0, pos := 18, cell := schedCell 0, bad := false } = some (0, 18) ∧
    sRef 18 = 0 ∧ sCell 18 = 0 ∧ cellLast (schedCell 0) = true ∧
    gives (exec (.schedCellReceive .ok .agree) s) (fun t => t.cal.cells == [] &&
      (t.rxBuf (relPage (s.calImg 0) (relEnt (s.calImg 0) 0))) == { cells := [(0, 64)], last := some 0, stomp := false, endAt := none }) = true := by decide +kernel
def rxWhole (stomp : Bool) : RxBuf := { cells := [(0, 64)], last := some 0, stomp := stomp, endAt := none }
def relBuf : Nat := relPage calImage (relEnt calImage 0)
def releasing (b : RxBuf) : State := setRxBuf relBuf b (onAir 100 0)
theorem witness_ScheduledReleases_release : (releasing (rxWhole false)).relDue 0 0 = some 0 ∧ (rxWhole false).complete = true ∧
    (releasing (rxWhole false)).linkUp 0 = true ∧ (releasing (rxWhole false)).halted = false ∧
    gives (exec (.schedRelease 0 0 .agree) (releasing (rxWhole false))) (fun t =>
      t.macQueue 0 == [.sched (zeros 64) 0 ((releasing (rxWhole false)).relAt (relEnt calImage 0) 0)] && (smapGet (fun _ => emptyRx) relBuf t.cal.rx).endAt == some ((releasing (rxWhole false)).relAt (relEnt calImage 0) 0) &&
      t.rd (R.schedFlowCtr 0 3) == 1 && t.relDue 0 0 == none) = true := by decide +kernel

theorem witness_BoundariesComeOnTime :
    (onAir 16384 0).framerRun = true ∧ (onAir 16384 0).fab.mfRef = 0 ∧
    gives (exec (.multiframeBoundary .agree) (onAir 16384 0)) (fun u => u.fab.mfRef == 16384 && u.mfNum == 1) = true := by
  decide +kernel
def startAt (t : Nat) : State := { lab with fab := { lab.fab with ref := 100000, startAt := some t } }
theorem witness_BoundariesComeOnTime_start : (startAt 999999999936).fab.startAt = some 999999999936 ∧
    gives (exec .framerRun (startAt 999999999936)) (fun u => u.framerRun && u.fab.startAt == none && u.fab.mfRef == 99999 &&
      u.fab.run0 == 99999) = true := by decide +kernel

/-! ### The fabric interface -/

/-- Lane 0 runs, with its status. -/
def lane0 (stat : Word) (s : State) : State :=
  put [(R.fabLaneCfg 0, setF 0 F.fabLaneCfgEn 1), (R.fabLaneStat 0, stat)] s
def running : State := put [(R.fabCtl, setF 0 F.fabCtlFramerRun 1)] lab
theorem witness_LanesAlign_los : gives (exec (.fabLos 0) (lane0 (setF 0 F.fabLaneStatAlign 2) lab)) (fun t =>
      t.laneFlag 0 F.fabLaneStatLos && t.laneStat 0 F.fabLaneStatAlign == 0) ∧
    gives (exec (.fabSignalLock 0) (lane0 (setF 0 F.fabLaneStatLos 1) lab)) (fun t => !t.laneFlag 0 F.fabLaneStatLos) = true := by
  decide +kernel
theorem witness_LanesAlign_send :
    let s := lane0 0 running
    s.framerRun = true ∧ s.laneOn 0 = true ∧ (s.lane 0).txNext ≤ s.curFrame ∧
    gives (exec (.fabFrameTransmit 0) s) (fun t => (t.lane 0).txNext == 1 && (t.lane 0).txCell == 0 && t.outs.length == 1) = true := by decide +kernel
/-- A frame with a number and an alignment word. -/
def frame (w : Bytes) (n : Nat) : Bytes := scrFrame (w ++ toBe 1 n) ++ zeros 10487
def badFaw : Bytes := toBe 8 0xF6F6F6F628282820
def worseFaw : Bytes := zeros 8
theorem witness_LanesAlign_hunt : (frame faw 7).length = 10496 ∧ (lane0 0 lab).laneStat 0 F.fabLaneStatAlign = 0 ∧
    fawErrors (frame faw 7) = 0 ∧ byteAt 8 (scrFrame ((frame faw 7).take 9)) = 7 ∧
    gives (exec (.fabFrameReceive 0 5 (frame faw 7)) (lane0 0 lab)) (fun t => t.laneStat 0 F.fabLaneStatAlign == 1 &&
      (t.lane 0).pos == 5 && (t.lane 0).fn == 7) = true := by
  decide +kernel
def presync : State := setLane 0 { emptyLane with pos := 5, fn := 7 } (lane0 (setF 0 F.fabLaneStatAlign 1) lab)
theorem witness_LanesAlign_presync : presync.laneStat 0 F.fabLaneStatAlign = 1 ∧ (presync.lane 0).pos = 5 ∧
    gives (exec (.fabFrameReceive 0 5 (frame faw 8)) presync) (fun t => t.laneStat 0 F.fabLaneStatAlign == 2) = true := by decide +kernel
theorem witness_LanesAlign_lost :
    let s := setLane 0 { emptyLane with pos := 5, fn := 7, miss := 4 } (lane0 (setF 0 F.fabLaneStatAlign 2) lab)
    (s.lane 0).miss = 4 ∧ (s.lane 0).pos = 5 ∧ s.laneStat 0 F.fabLaneStatAlign = 2 ∧ 2 < fawErrors (frame worseFaw 8) ∧
    gives (exec (.fabFrameReceive 0 5 (frame worseFaw 8)) s) (fun t => t.laneStat 0 F.fabLaneStatAlign == 0) = true := by decide +kernel

/-- Group 0 has one lane, in SYNC, and is up. -/
def group0 (s : State) : State :=
  put [(R.fabGroupCfg 0, setF (setF 0 F.fabGroupCfgEn 1) F.fabGroupCfgSize 1), (R.fabGroupStat 0, setF 0 F.fabGroupStatUp 1)]
    (lane0 (setF 0 F.fabLaneStatAlign 2) s)
theorem witness_FabricReceives_read :
    let s := group0 lab
    s.groupEn 0 = true ∧ s.groupCfgOk 0 = true ∧ (∀ l ∈ s.members 0, s.inSync l = true) ∧ s.members 0 = [0] ∧
    isNext (exec (.groupFrameRead 0) s) (groupAdvance 0 1 (setGroup 0 { emptyGroup with readAt := 64 } s)) = true := by decide +kernel
/-- A routed cell: its metadata and 64 bytes, the only cell of its packet. -/
def routed (dest : Nat) : Bytes := mkCell (cellTop 1 1 1 0 0 dest 9 3 2 0 0 96) (mdTo 0 ++ zeros 64)
/-- The cell stands at the head of its group's store; or the lane belongs to a group that is not read. -/
def cellHeld (pos : Nat) (c : Bytes) : State := setGroup 0 { emptyGroup with cells := [(0, pos, c)] } (group0 lab)
def unread : State := put [(R.fabGroupCfg 0, 0)] (group0 lab)
theorem witness_FabricReceives_routed :
    let s := cellHeld 0 (routed 0)
    (s.linkGroup 0).cells.head? = some (0, 0, routed 0) ∧
    s.inSync 0 = true ∧ s.twinLane 0 = false ∧ hecOk (routed 0) = true ∧ cellType (routed 0) = 1 ∧ cellDest (routed 0) = s.devIndex ∧
    pcrcOk (routed 0) = true ∧ cellFirst (routed 0) = true ∧ cellNum (routed 0) = 0 ∧ s.laneGroup 0 = 0 ∧ s.ctxOpen < 32768 ∧ smapFind (reasmKey 9 2 3) s.fab.ctx = none ∧ cellSrc (routed 0) = 9 ∧
    cellGroup (routed 0) = 2 ∧ cellTc (routed 0) = 3 ∧ s.flag (R.fabGroupStat 0) F.fabGroupStatUp = true ∧
    gives (exec (.fabCellReceive 0 0 (routed 0)) s) (fun t => given (t.pkt s.q.nextPkt) (fun k => k.md == mdTo 0 && k.bytes == zeros 64 &&
      k.tailIn) && smapGet (fun _ => []) 16 t.q.arrivals == [s.q.nextPkt]) = true := by decide +kernel
theorem witness_FabricReceives_cells :
    let s := cellHeld 18 (schedCell 0)
    s.laneClean 0 = true ∧ hecOk (schedCell 0) = true ∧ cellType (schedCell 0) = 2 ∧ pcrcOk (schedCell 0) = true ∧
    isNext (exec (.fabCellReceive 0 18 (schedCell 0)) s) (cellWaits (setGroup 0 emptyGroup s) 0) ∧
    (unread.linkGroup 0).cells = [] ∧ unread.inSync 0 = true ∧ unread.laneClean 0 = true ∧ unread.groupReads (unread.laneGroup 0) = false ∧
    isNext (exec (.fabCellReceive 0 18 (schedCell 0)) unread) (cellWaits unread 0) = true := by decide +kernel
theorem witness_FabricReceives_msg :
    let w := creditWord (.grant { issuer := 9, target := 0, voq := 5, credit := 3 })
    let s := setGroup 0 { emptyGroup with inMsgs := [(0, w)] } (group0 lab)
    s.laneGroup 0 = 0 ∧ (0, w) ∈ (s.linkGroup 0).inMsgs ∧ (unread.linkGroup 0).inMsgs = [] ∧
    given (creditOf w) (fun m => msgTarget m == s.devIndex &&
      isNext (exec (.fabMsgReceive 0 w) s) (takeCredit m (setGroup 0 emptyGroup s)) &&
      isNext (exec (.fabMsgReceive 0 w) unread) (takeCredit m unread)) = true := by decide +kernel
def reasm (at_ : Nat) : State :=
  { lab with fab := { lab.fab with ctx := [(reasmKey 4095 31 7, { pkt := 7, next := 1, at_ := at_, open_ := true })] } }
theorem witness_FabricReceives_timeout : (0 : Nat) + usT (lab.fld R.fabRxCfg F.fabRxCfgReasmTimeoutUs) ≤ lab.now ∧
    gives (exec (.reasmTimeout 4095 31 7) (reasm 0)) (fun t => smapFind (reasmKey 4095 31 7) t.fab.ctx ==
      some { pkt := 7, next := 1, at_ := 0, open_ := false }) = true := by decide +kernel
def holding (t : Nat) : State := { lab with fab := { lab.fab with hold := [(4095, t)] } }
theorem witness_FabricReceives_hold : gives (exec (.repinGuardExpire 4095) (holding lab.now)) (fun t => !t.repinHeld 4095) = true := by decide +kernel
theorem witness_FabricReceives_latch :
    lab.fab.second < lab.now / ticksPerSec ∧
    (let s := { lab with fab := { lab.fab with ctr := [(R.fabLaneCtr 119 4, 7)] } }
     fabLatched (R.fabLaneCtr 119 4) = true ∧ gives (exec .fabPmLatch s) (fun t => t.rd (R.fabLaneCtr 119 4) == 7)) ∧
    gives (exec .fabPmLatch lab) (fun t => t.fab.second == 100 && t.rd R.fabPmStamp0 == BitVec.ofNat 64 (stampLo (100 * ticksPerSec))) = true := by decide +kernel

/-! ### The burin engines -/

def labCtx (service flags : Nat) : Bytes := patch 0 (toBe 1 service ++ toBe 1 flags ++ toBe 1 0) (zeros 256)
/-- Session 5 of partition 0 has a context, and BURIN_ARG names it. -/
def sessionOf (c : Bytes) : State := setCtx 5 c ((put [(R.burinCfg, setF (lab.rd R.burinCfg) F.burinCfgEn 1)] lab).setFld (R.burinArg 0) F.burinArgSession 5)
def burinEv (op : Nat) : BurinEv := plainEvent op 3 5 0 0 (zeros 32)
theorem witness_BurinCommandsRun_event : Passes (burinChecks ((sessionOf (labCtx 1 0)).taken f00 (.burin 0) 1 0) 0 1 5) ∧
    isNext (exec (.burinEvent f00 255) (sessionOf (labCtx 1 0))) (complete (.burin 0) Code.ok 0
      (burinPush (plainEvent 255 3 5 0 0 (hostArg (sessionOf (labCtx 1 0)) 0)) ((sessionOf (labCtx 1 0)).taken f00 (.burin 0) 1 0))) = true := by
  decide +kernel
theorem witness_BurinCommandsRun_create :
    let s := put [(R.burinData 0 4, 0x0201)] (sessionOf (zeros 256))
    Passes (burinChecks (s.taken f00 (.burin 0) 2 0) 0 2 5) ∧ createByte s 0 0 = 1 ∧ createByte s 0 1 = 2 ∧
    gives (exec (.burinCreate f00) s) (fun t => ctxService (t.ctxOf 5) == 1 && (t.burin.queue.map (·.op)) == [2] &&
      t.fld (R.burinStatus 0) stCode == Code.ok) = true := by decide +kernel
def runs (sess : Nat) (s : State) : State := { s with burin := { s.burin with run := [(0, { burinEv 1 with sess := sess })] } }
theorem witness_BurinCommandsRun_delete :
    let s := sessionOf (labCtx 1 0)
    Passes (burinChecks (s.taken f00 (.burin 0) 3 0) 0 3 5) ∧ s.sessRuns 5 = false ∧ (runs 5 s).sessRuns 5 = true ∧
    Passes (burinChecks ((runs 5 s).taken f00 (.burin 0) 3 0) 0 3 5) ∧
    gives (exec (.burinDelete f00) s) (fun t => ctxService (t.ctxOf 5) == 0) ∧
    gives (exec (.burinDelete f00) (runs 5 s)) (fun t => t.burin.deletes == [(0, 5)] && t.busy (.burin 0)) = true := by decide +kernel
theorem witness_BurinCommandsRun_read :
    let s := sessionOf (patch 0x48 [1] (labCtx 1 0))
    Passes (burinChecks (s.taken f00 (.burin 0) 4 0) 0 4 5) ∧
    gives (exec (.burinCtxRead f00 .ok) s) (fun t => t.dataBytes (R.burinData 0) 32 == labCtx 1 0) = true := by
  decide +kernel
theorem witness_BurinCommandsRun_clear :
    let s := sessionOf (labCtx 1 1)
    Passes (burinChecks (s.taken f00 (.burin 0) 5 0) 0 5 5) ∧
    gives (exec (.burinClearFault f00) s) (fun t => t.ctxOf 5 == labCtx 1 0) = true := by decide +kernel
theorem witness_BurinCommandsRun_load : lab.right 0 Right.burinLoad = true ∧ lab.boot.restarting = false ∧ lab.burin.load = none ∧
    lab.burin.verify = none ∧
    given (loadFail 0 0 (.data [])) (fun f => isNext (exec (.burinLoad f00 (.data [])) lab)
      (complete (.burin 0) f.1 f.2 (lab.taken f00 (.burin 0) 6 0))) = true := by decide +kernel

/-- The vendor store serves opcode 1, with one micro-word. -/
def store (micro : Nat) (s : State) : State :=
  { s with burin := { s.burin with vendor := ⟨[micro], 0, [0], [0, 2 ^ 31]⟩ } }
def queuedEv (op : Nat) (s : State) : State := { s with burin := { s.burin with queue := [burinEv op] } }
theorem witness_BurinEventsRun_start :
    let s := queuedEv 1 (store 0 (sessionOf (labCtx 1 0)))
    s.burinOn = true ∧ smapFind 63 s.burin.run = none ∧ s.sessRuns 5 = false ∧ takeSession 5 s.burin.queue = some (burinEv 1, []) ∧
    s.opHeld 1 = false ∧ ctxFaulted (s.ctxOf 5) = false ∧ dispKey 1 ∉ s.burin.bad ∧ nbit (s.dispWord 1) 31 = true ∧
    gives (exec (.burinEventStart 63 5 .ok) s) (fun t => smapFind 63 t.burin.run == some (burinEv 1) && t.burin.queue == [] &&
      t.rd (R.burinEng 63) == engWord 1 5 0) = true := by decide +kernel
/-- The one micro-word ends the event as its sequencing says. -/
def ends (seq : Nat) : State :=
  let s := store (seq * 2 ^ 29) (sessionOf (labCtx 1 0))
  { s with burin := { s.burin with run := [(0, burinEv 0x40)] } }
theorem witness_BurinEventsRun_end : (ends 5).pwr.tripped = false ∧
    given ((ends 5).eventRun 0 []) (fun r => r.2.2 == .done) ∧ given ((ends 6).eventRun 0 []) (fun r => r.2.2 == .abandon) ∧
    given ((ends 7).eventRun 0 []) (fun r => r.2.2 == .fault 2) ∧
    gives (exec (.burinEventEnd 0 []) (ends 5)) (fun t => t.burin.run == [] && t.rd (R.burinCtr 0) == 1 && beAt 0x18 4 (t.ctxOf 5) == 1) ∧
    gives (exec (.burinEventAbandon 0 []) (ends 6)) (fun t => t.burin.run == [] && t.rd (R.burinCtr 0) == 0 && t.ctxOf 5 == labCtx 1 0) ∧
    gives (exec (.burinFault 0 []) (ends 7)) (fun t => t.burin.run == [] && ctxFaulted (t.ctxOf 5) && t.rd (R.burinCtr 6) == 1) = true := by
  decide +kernel
/-- An event of a timer of session 5 runs; the micro-code ends it at once. -/
def timing (op src service : Nat) (fields : Bytes → Bytes) : State :=
  let s := store (5 * 2 ^ 29) (sessionOf (fields (labCtx service 0)))
  { s with burin := { s.burin with run := [(0, plainEvent op src 5 0 0 [])] } }
theorem witness_BurinEventsRun_detect :
    let cfm := timing 0x21 2 2 (cput Svc.cfmRmepState 2)
    let bfd := timing 0x21 2 1 (cput Svc.bfdState 3)
    nbit (cget Svc.cfmDefects (cfm.ctxOf 5)) 2 = false ∧ 2 ≤ cget Svc.bfdState (bfd.ctxOf 5) ∧
    given (cfm.eventRun 0 []) (fun r => r.2.2 == .done && cget Svc.cfmRmepState r.2.1.ctx == 3 && cget Svc.cfmDefects r.2.1.ctx == 4 &&
      r.2.1.acts.length == 1) ∧
    given (bfd.eventRun 0 []) (fun r => r.2.2 == .done && cget Svc.bfdState r.2.1.ctx == 1 && cget Svc.bfdDiag r.2.1.ctx == 1 &&
      cget Svc.bfdChanges r.2.1.ctx == 1) = true := by decide +kernel
/-- RFC 5880: Down goes to Init and Up, Up to Down; an interval of 10 min ends after 35 min. A CCM is sent every 10 ms. -/
theorem test_services : (List.range 4).map (bfdNext 1) = [1, 2, 3, 1] ∧ (List.range 4).map (bfdNext 2) = [1, 2, 3, 3] ∧
    (List.range 4).map (bfdNext 3) = [1, 1, 3, 3] ∧ ccmDetect 7 = 2100000000 ∧ ccmDetect 1 = 11667 ∧
    defect 2 false 7 = 3 ∧ defect 2 true 3 = 7 ∧
    given ((timing 0x20 1 2 (cput Svc.cfmInterval 2)).eventRun 0 []) (fun r => r.2.2 == .done && cget Svc.cfmTxSeq r.2.1.ctx == 1 &&
      r.2.1.acts.getLast? == some (.timer 0 (lab.timeUs + 10000))) = true := by decide +kernel
def switching (op : Nat) : State :=
  let s := sessionOf (labCtx 1 0)
  { s with burin := { s.burin with run := [(0, burinEv op)], load := some (3, patch 0x18 [7] (zeros 64)) } }
theorem witness_BurinEventsRun_switch : gives (exec .burinRegionSwitch (switching 0xBF)) (fun t => t.burin.load == none &&
      t.burin.cust == custRegion (patch 0x18 [7] (zeros 64)) && t.fld (R.burinStatus 3) stCode == Code.ok && !t.busy (.burin 3) &&
      t.rd R.burinCustId == 7) = true := by decide +kernel
/-- A LOAD of partition 3 whose image has not been verified yet, and a return of the confirmed set that waits for the vendor
region. -/
def unverified : State := { lab with burin := { lab.burin with verify := some (3, []) } }
def returning : State := { lab with upd := { lab.upd with mcNext := some (.back (.revert 2 false)) } }
theorem witness_BurinEventsRun_verify :
    unverified.burin.load = none ∧ unverified.burin.vload = none ∧ unverified.upd.mcNext = none ∧
    given (firstBad (loadVerifyChecks lab.upd.cfg.plateKeys [])) (fun f => isNext (exec .burinRegionSwitch unverified) (loadEnd 3 f unverified)) ∧
    (burinSwitch returning).upd.mcNext = some (.back (.revert 2 false)) ∧ (burinSwitch returning).upd.tload = none ∧
    gives (exec .burinRegionSwitch returning) (fun t => t.upd.mcNext == none && t.flag R.updStatus F.updStatusReverted) = true := by decide +kernel
/-- Timer 1 of session 5 is due at a time in µs; `n` events of the session wait. -/
def timed (due n : Nat) : State :=
  let s := sessionOf (setDue 1 due (labCtx 1 0))
  { s with burin := { s.burin with queue := List.replicate n (burinEv 1) } }
theorem witness_BurinEventsRun_timer : (timed 1 0).timeUs = 100000000 ∧ (timed 1 0).opHeld 0 = false ∧ (timed 1 0).burinRoom 5 = true ∧
    gives (exec (.burinTimerExpire 5 1) (timed 100000000 0)) (fun t => t.ctxOf 5 == labCtx 1 0 &&
      t.burin.queue == [plainEvent 0 2 5 0 (stampOf lab.now) []]) = true := by
  decide +kernel

/-! ### The seal engine -/

def sealHeld (h : Nat) : State := lab.setFld R.sealLock F.sealLockHolder h
theorem witness_TheSealLockPasses : lab.right 0 Right.sealEng = true ∧ lab.holder = 7 ∧
    gives (exec (.sealAcquire f00) lab) (fun t => t.holder == 0 && sealRegs.all (fun r => t.rd r == regReset r)) ∧
    (sealHeld 0).holder = 0 ∧ (sealHeld 0).busy .sealE = false ∧
    isNext (exec (.sealRelease f00) (sealHeld 0)) (lockFree (sealHeld 0)) ∧
    isNext (exec (.sealBreak f00) (sealHeld 3)) (report .f 0x0A 0 .k 0x003 [(3, 1), (0, 1)] ((lockFree (sealHeld 3)).inc (R.sealCount 3))) =
      true := by decide +kernel
/-- Partition 1 has SEAL too. -/
def sealTwo (h : Nat) : State := put [(R.pmap 1 0, 0x3FF00010001)] (sealHeld h)

/-- Partition 0 holds the lock; slot 31 is as given. -/
def keySlot (w ctr : Nat) : State := put [(R.sealSlot 31, BitVec.ofNat 64 w), (R.sealCtr 31, BitVec.ofNat 64 ctr)] (sealHeld 0)
def slotWord (state usage : Nat) : Nat := (setF (setF 0 F.sealSlotState state) F.sealSlotUsage usage).toNat
def labBlob : Bytes := patch 0 (toLe 4 0x5742554F ++ [1, 0x20] ++ toLe 2 48) (zeros 64)
theorem witness_SealCommandsRun_unwrap :
    let s := keySlot 0 0
    let t := (s.taken f00 .sealE 1 0).wr R.sealBytesOut 0
    s.holder = 0 ∧ s.busy .sealE = false ∧ s.slotOk 0 31 = true ∧ s.keyState 31 = slotEmpty ∧ Passes (unwrapChecks t 0 labBlob) := by decide +kernel
theorem witness_SealCommandsRun_crypt :
    let s := keySlot (slotWord slotLoaded 3) 9
    Passes (cryptChecks ((s.taken f00 .sealE 2 0).wr R.sealBytesOut 0) 31 0 16 (2 ^ 32 - 1)) ∧
    Passes (cryptChecks ((s.taken f00 .sealE 3 0).wr R.sealBytesOut 0) 31 1 12 1048576) ∧
    isNext (exec (.sealClear f00 31 .ok) s) (sealDone Code.ok (slotClear 31 ((s.taken f00 .sealE 4 0).wr R.sealBytesOut 0))) = true := by
  decide +kernel

/-! ### The update controller -/

/-- A session state, its holder and the time of its last command. -/
def updAt (st h last : Nat) : State :=
  let s := (lab.setFld R.updSession F.updSessionState st).setFld R.updSession F.updSessionHolder h
  { s with upd := { s.upd with lastCmd := last } }
theorem witness_UpdateCommandsRun_open : lab.updHolder = 7 ∧ lab.updState = Us.idle ∧ lab.flash.slots.length = 2 ∧
    lab.fld R.updArg0 F.updArg0Addr % 64 = 0 ∧ lab.fld R.updArg1 F.updArg1Length ≤ 4352 ∧
    given (firstBad (openChecks lab 0 [])) (fun f => isNext (exec (.updOpen f00 (.data [])) lab)
      (updDone f.1 f.2 (updHold 0 (lab.taken f00 .upd 1 0)))) = true := by decide +kernel
theorem witness_UpdateCommandsRun_write :
    let s := updAt Us.isOpen 0 5
    s.updHolder = 0 ∧ s.updState = Us.isOpen ∧
    gives (exec (.updWrite f00 5 (.data [1]) true) s) (fun t => t.fld R.updStatus stCode == Code.ok && t.upd.lastCmd == lab.now) = true := by
  decide +kernel
def held4 (s : State) : State := s.setFld R.sealLock F.sealLockHolder 1
/-- The staging slot is spoilt. -/
def spoil (s : State) : State := setSlot s.staging { s.slot s.staging with spoilt := true } s
theorem witness_UpdateCommandsRun_verify :
    let s := spoil (updAt Us.isOpen 0 5)
    ((List.range 5).all (fun i => s.fld (R.updRcvd i) F.updRcvdReceived == entryLen (manEntry (s.slot s.staging).manifest i))) = true ∧
    s.holder = 7 ∧ gives (exec (.updVerify f00) s) (fun t => !t.busy .upd && t.updState == Us.isOpen && t.fld R.updStatus stCode == Code.tagFail) ∧
    (held4 s).holder ≠ 7 ∧
    gives (exec (.updVerify f00) (held4 s)) (fun t => t.updState == Us.verifying && t.upd.wait == some (lab.now, .verify)) = true := by
  decide +kernel
def modeSlot (m : Nat) (s : State) : State := setSlot s.staging { s.slot s.staging with manifest := patch 0x24 (toLe 1 m) (zeros 64) } s
theorem witness_UpdateCommandsRun_activate :
    let s := modeSlot 1 (updAt Us.verified 0 5)
    manMode (s.slot s.staging).manifest = 1 ∧ s.flash.bcr.length = 2 ∧ s.switching = false ∧
    gives (exec (.updActivate f00 .done) s) (fun t => t.updState == Us.pendingReset && t.upd.bcr.trial && t.upd.bcr.trialSlot == s.staging &&
      t.flash.bcr == [bcrBytes t.upd.bcr, bcrBytes t.upd.bcr]) = true := by decide +kernel
theorem witness_UpdateCommandsRun_hot :
    let s := modeSlot 0 (updAt Us.verified 0 5)
    manMode (s.slot s.staging).manifest ≠ 1 ∧ s.bankState s.spareBank = Pb.empty ∧ s.holder = 7 ∧
    gives (exec (.updActivate f00 .done) s) (fun t => t.updState == Us.verified && t.fld R.updStatus stCode == Code.incompatible &&
      t.fld R.updStatus F.updStatusDetail == 0x41) = true := by decide +kernel
def onTrial (p : Nat) : State :=
  let s := updAt Us.trial p 5
  { s with upd := { s.upd with bcr := { s.upd.bcr with trial := true, trialSlot := 1 }, trialBoot := true, confirmAt := some 7 } }
/-- The confirmed set ran before the trial, with no reset between them; partition 0 holds the lock, or nobody. -/
def offTrial (h : Nat) : State :=
  let s := (onTrial 0).setFld R.sealLock F.sealLockHolder h
  { s with upd := { s.upd with trialBoot := false } }
theorem witness_UpdateCommandsRun_revert : (offTrial 1).updState = Us.trial ∧ (offTrial 1).upd.trialBoot = false ∧
    gives (exec (.updRevert f00) (offTrial 1)) (fun t => t.busy .upd && t.upd.wait == some (lab.now, .back (.revert 2 true)) &&
      t.upd.confirmAt == none && t.updState == Us.trial) = true := by decide +kernel
theorem witness_UpdateCommandsRun_confirm : (onTrial 0).updState = Us.trial ∧ (onTrial 0).upd.trialBoot = true ∧
    gives (exec (.updConfirm f00) (onTrial 0)) (fun t => t.updState == Us.idle && !t.upd.bcr.trial && t.upd.bcr.confirmed == 1 &&
      t.flash.bcr == [bcrBytes t.upd.bcr, bcrBytes t.upd.bcr] && t.upd.confirmAt == none) ∧
    gives (exec (.updRevert f00) (onTrial 0)) (fun t => !t.upd.bcr.trial && t.flag R.updStatus F.updStatusReverted && t.upd.confirmAt == none &&
      t.updState == Us.pendingReset && !t.busy .upd) ∧
    gives (exec (.updClose f00) (updAt Us.verified 0 5)) (fun t => t.updState == Us.idle && t.updHolder == 7 && t.upd.hidden == [] &&
      (t.slot t.staging).state == Ss.invalid) = true := by decide +kernel

theorem witness_UpdateEventsEnd_preempt :
    let act := updAt Us.activating 3 5
    lab.right 0 Right.update = true ∧ isNext (exec (.updPreempt f00) act) { act with upd := { act.upd with preempt := true } } ∧
    gives (exec (.updPreempt f00) (updAt Us.verified 3 5)) (fun t => t.updHolder == 0 && t.updState == Us.idle && t.upd.hidden == []) ∧
    gives (exec (.updPreempt f00) (updAt Us.idle 7 5)) (fun t => t.updHolder == 0 && t.updState == Us.idle) ∧
    gives (exec (.updPreempt f00) (onTrial 3)) (fun t => t.updHolder == 0 && t.updState == Us.trial) = true := by decide +kernel
def lockWait (at_ : Nat) : State := { updAt Us.verifying 0 5 with upd := { lab.upd with lastCmd := 5, wait := some (at_, .verify) } }
theorem witness_UpdateEventsEnd_wait :
    isNext (exec .updSealWaitTimeout (lockWait (lab.now - 60 * ticksPerSec))) (updDone Code.timeout 0x4D (updTo Us.isOpen
      { lockWait 0 with upd := { lab.upd with lastCmd := 5, wait := none } })) = true := by
  decide +kernel
def awaits (at_ : Nat) : State :=
  let s := updAt Us.activating 0 5
  { s with upd := { s.upd with readyWait := some at_ }, boot := { s.boot with restarting := true } }
theorem witness_UpdateEventsEnd_ready : lab.now ≤ (lab.now - msT 500) + msT 500 ∧ (awaits 0).upd.preempt = false ∧
    gives (exec .stewardReady (awaits (lab.now - msT 500))) (fun t => t.updState == Us.trial && !t.boot.restarting &&
      t.upd.readyWait == none && t.upd.confirmAt == some lab.now && t.fld R.updStatus stCode == Code.ok) = true := by decide +kernel
theorem witness_UpdateEventsEnd_lapse :
    let s := { updAt Us.isOpen 0 0 with now := 600 * ticksPerSec }
    s.busy .upd = false ∧ gives (exec .updSessionLapsed s) (fun t => t.updState == Us.idle && t.updHolder == 7 && t.upd.hidden == []) = true := by decide +kernel
def confirming (n at_ : Nat) : State :=
  let s := (onTrial 0).setFld R.updCfg F.updCfgConfirmS n
  { s with upd := { s.upd with confirmAt := some at_ } }
theorem witness_UpdateEventsEnd_confirm :
    gives (exec .confirmTimerExpire (confirming 1 (lab.now - ticksPerSec))) (fun t => !t.upd.bcr.trial && t.upd.confirmAt == none &&
      t.flag R.updStatus F.updStatusReverted) ∧
    (let s := { confirming 1 (lab.now - ticksPerSec) with upd := { (confirming 1 (lab.now - ticksPerSec)).upd with trialBoot := false } }
     isNext (exec .confirmTimerExpire s) (backStart (.revert 0 false) { s with upd := { s.upd with confirmAt := none } })) = true := by
  decide +kernel

/-! ### Reset and boot -/

/-- A device whose boot has reached a stage, with an owner configuration that checks. -/
def booting (n : Nat) (failed : Bool) : State :=
  let s := State.reset.setFld R.bootState F.bootStateStage n
  { s with boot := { s.boot with failed := failed }, flash := { s.flash with owner := [{ emptyOwner with valid := true }, emptyOwner] },
           now := 1000000000000, upd := { s.upd with cfg := { emptyOwner with valid := true } } }
theorem witness_BootStagesFollow_calib : (booting 1 false).stage = 1 ∧ (booting 1 false).ownerOf = some { emptyOwner with valid := true } ∧
    calibValid emptyOwner.updKeys (booting 1 false).flash.calib = false ∧ calibValid emptyOwner.updKeys (booting 1 false).flash.scratch = false ∧
    gives (exec .bootCalibCheck (booting 1 false)) (fun t => t.stage == 2 && t.pwr.absent && t.pwr.curves == [] && t.flash.scratch == []) ∧
    gives (exec (.bridgeWireTest [(95, 39)]) (booting 2 false)) (fun t => t.stage == 3) = true := by decide +kernel
theorem witness_BootStagesFollow_wires : 47 ∉ ((booting 2 false).bridge 1).retired ∧ (booting 2 false).pwr.record = [] ∧
    ((booting 2 false).bridge 1).wires = [] ∧
    gives (exec (.bridgeWireTest [(95, 41), (95, 39)]) (booting 2 false)) (fun t => t.stage == 3 &&
      (t.bridge 1).chan 47 == { used := [(39, 0)], bad := [1] } && !(t.bridge 1).retired.contains 47) ∧
    gives (exec (.bridgeWireTest [(95, 0), (95, 1), (95, 39)]) (booting 2 false)) (fun t => t.stage == 3 &&
      (t.bridge 1).retired.contains 47) = true := by decide +kernel
theorem witness_BootStagesFollow_set : (booting 3 false).stage = 3 ∧
    gives (exec .bootSetSelect (booting 3 false)) (fun t => t.stage == 4 && t.upd.cfg == { emptyOwner with valid := true }) ∧
    (booting 4 false).upd.bcr.trial = false ∧
    gives (exec .bootManifestCheck (booting 4 false)) (fun t => t.boot.failed) ∧
    gives (exec .pmapLock (booting 5 false)) (fun t => t.stage == 6 && t.locked) = true := by decide +kernel
def trained (l : List Bool) : State := { booting 7 false with boot := { (booting 7 false).boot with hbmDone := l } }
theorem witness_BootStagesFollow_hbm :
    gives (exec (.hbmTrainingDone 4 true) (trained [true, true, true, true, false])) (fun t => t.stage == 8 && t.bootStateOf == 3) ∧
    gives (exec (.hbmTrainingDone 0 true) (trained [false, true, true, true, false])) (fun t => t.stage == 7 &&
      t.boot.hbmDone == [true, true, true, true, false]) ∧
    gives (exec .serdesCalibrationDone (booting 8 false)) (fun t => t.stage == 9 && t.boot.serdesDone) ∧
    (trained [true, true, true, true, false]).boot.hbmDone.getD 4 true = false := by decide +kernel
theorem witness_BootStagesFollow_stack :
    gives (exec (.hbmTrainingDone 0 false) (trained [false, true, true, true, false])) (fun t => t.stackState 0 == 3) = true := by decide +kernel
/-- The lanes hand nothing back; a lane that no operand names hands back its own trace. -/
def silent : List (Nat × List Bytes) := (List.range 120).map (fun l => (l, []))
theorem witness_BootStagesFollow_trace : bootAccepted [(119, [])] 0 = some (bootTrace 0) ∧
    ((List.range 120).all (fun l => !(booting 10 false).laneEn l) && (bootAccepted silent 119).isNone &&
    gives (exec (.bootTraceCheck silent) (booting 10 false)) (fun t => t.stage == 11 && t.boot.traceDone &&
      t.rd R.bootFabFail0 == BitVec.ofNat 64 (2 ^ 64 - 1) && t.rd R.bootFabFail1 == BitVec.ofNat 64 (2 ^ 56 - 1))) = true :=
  ⟨rfl, by decide +kernel⟩
theorem witness_BootStagesFollow_ready :
    let s := live.setFld R.bootState F.bootStateStage 11
    let u := { s with boot := { s.boot with ready := false } }
    u.stage = 11 ∧ u.readyConds = true ∧ gives (exec .ready u) (fun t => t.stage == 12 && t.bootStateOf == 4 && t.boot.ready) = true := by decide +kernel

theorem witness_ResetAndFaults_por : (lab.flashAt 0 = lab.flash) ∧ gives (exec (.powerOnReset ⟨⟨true, 3, true⟩, 0⟩) lab) (fun t => t.stage == 1 && t.bootStateOf == 1 &&
      t.flash == lab.flash && t.boot.straps == ⟨true, 3, true⟩ && !t.boot.ready && t.holder == 7 && !t.locked &&
      t.fld R.bootState F.bootStatePcieMode == 3) = true := by decide +kernel
theorem witness_ResetAndFaults_failed : (booting 4 true).bootStateOf ≠ 0x80 ∧
    gives (exec .bootFailed (booting 4 true)) (fun t => t.bootStateOf == 0x80 && t.locked && (List.range 4).all (fun p => !t.enabled p)) = true := by decide +kernel
theorem witness_ResetAndFaults_steward :
    let s := { lab with boot := { lab.boot with restarting := true } }
    lab.boot.stewardUp = true ∧ lab.boot.restarting = false ∧
    gives (exec (.stewardFault []) lab) (fun t => t.boot.restarting && t.flag (R.erqStat 0) F.erqStatFatal && (List.range 4).all (fun p => !t.busy (.mbx p))) ∧
    lab.backWaits = false ∧ s.upd.readyWait = none ∧ s.boot.faultAt + msT 5 ≤ s.now ∧ gives (exec .stewardRestart s) (fun t => !t.boot.restarting) = true := by
  decide +kernel
def bridged (b : BridgeDir) : State := { lab with brFT := b }
def br (expect : Nat) (replays : SMap (Nat × Nat)) (retired : List Nat) : BridgeDir :=
  { lab.brFT with next := expect, expect := expect, replays := replays, retired := retired }
def flit : BrFlit := ⟨true, none, zeros 64⟩
theorem witness_ResetAndFaults_bridge :
    (br 3 [] []).stopped = false ∧ (br 3 [] []).mayCarry 47 3 = true ∧
    gives (exec (.bridgeFlitReceive 0 47 3 true (zeros 64)) (bridged { br 3 [] [] with schedQ := [flit] })) (fun t =>
      t.brFT.got == [flit] && t.brFT.expect == 4 && t.outs == [.bridgeAck 0 3]) ∧
    smapFind 3 ({ br 3 [] [] with next := 4, sent := [(3, (47, flit))] } : BridgeDir).sent = some (47, flit) ∧
    gives (exec (.bridgeFlitReceive 0 47 3 true (zeros 64)) (bridged { br 3 [] [] with next := 4, sent := [(3, (47, flit))] })) (fun t =>
      t.brFT.got == [flit] && t.brFT.expect == 4 && t.outs == [.bridgeAck 0 3]) ∧
    smapFind 3 (br 3 [(3, (47, 8))] []).replays = some (47, 8) ∧
    gives (exec (.bridgeFlitReceive 0 47 3 false (zeros 64)) (bridged (br 3 [(3, (47, 8))] []))) (fun t => t.brFT.retired == [47]) = true := by
  decide +kernel

/-- The TAP is in Capture-DR with IDCODE; a configuration request comes before the lock. -/
theorem witness_ResetRegisters_edge :
    let s := { State.reset with boot := { State.reset.boot with straps := ⟨false, 3, false⟩ } }.setFld R.bootState F.bootStateState 1
    let t : TapSt := { tapReset with ctl := TapCtl.captDr }
    s.locked = false ∧ s.bootStateOf ≠ 0 ∧ presented s.boot.straps.pcieMode f00 = true ∧ s.host.perst.getD f00.port false = false ∧
    s.configAnswer f00 = .retry ∧ t.ctl = TapCtl.captDr ∧ t.instr = TapInstr.idcode ∧ (tapClock false false [] t).dr = lsbFirst 32 0x109600F3 := by
  decide +kernel

/-! ### The host interface -/

theorem witness_HostResetsAndInterrupts_perst : lab.upd.wait = none ∧
    gives (exec (.perstN 1) lab) (fun t => !t.reached f10 && t.reached f00) ∧
    gives (exec (.perstNRise 1) { lab with host := { lab.host with perst := [false, true] } }) (fun t => t.reached f10) = true := by
  decide +kernel
theorem witness_HostResetsAndInterrupts_flr :
    let s := put [(R.intEnable 0, 5), (R.intStatus 0, 7)] lab
    let p := { lab with host := { lab.host with msixPend := [255] } }
    gives (exec (.functionLevelReset f00) s) (fun t => t.rd (R.intEnable 0) == regReset (R.intEnable 0) && t.rd (R.pmap 0 0) == s.rd (R.pmap 0 0)) ∧
    gives (exec (.intStatusClear f00 false 3) s) (fun t => t.rd (R.intStatus 0) == 4) ∧
    gives (exec (.intStatusClear f00 true 1) (put [(R.intRingStatus 0, 9)] lab)) (fun t => t.rd (R.intRingStatus 0) == 8) ∧
    gives (exec (.msixUnmask f00 255) p) (fun t => t.outs == [p.msiOut 0 255] && t.host.msixPend == [] && t.host.msixOpen == [255]) ∧
    gives (exec (.msixUnmask f00 254) p) (fun t => t.outs == [] && t.host.msixPend == [255]) = true := by decide +kernel

/-- A function level reset of partition 0 leaves partition 1's register and the tables as they were. -/
theorem witness_HostResetsAndInterrupts_alone :
    let s := put [(R.intEnable 1, 5)] lab
    s.holder ≠ 0 ∧ s.upd.tHeld = [] ∧ s.q.flushes.getD 0 none = none ∧
    gives (exec (.functionLevelReset f00) s) (fun t => t.rd (R.intEnable 1) == 5 && t.q == s.q && t.tbl.em == s.tbl.em && t.plate == s.plate) =
      true := by decide +kernel

def errRec (code count : Nat) : ErqRec := { unit := 1024 * 4 + 5, code := 16384 + code, count := count, stamp := 1, last := 2, ctx := [] }
def queuedErr (l : List ErqRec) : State := { lab with host := { lab.host with erqF := l } }
def erqs (n : Nat) : List ErqRec := (List.range n).map (fun i => errRec (100 + i) 1)
theorem witness_ErrorsMergeOrQueue :
    let s := report .f 4 5 .k 7 [(9, 1)] (queuedErr [errRec 8 1, errRec 7 65535])
    let n := report .f 4 5 .k 7 [] (queuedErr (erqs 63))
    let d := report .f 4 5 .k 7 [] (queuedErr (erqs 64))
    let x := report .f 4 5 .f 7 [] (queuedErr (erqs 64))
    Sev.k.bits = 1 ∧ s.host.erqF = [errRec 8 1, { errRec 7 65535 with last := lab.now }] ∧ n.host.erqF.length = 64 ∧
    (n.host.erqF.getLast?).map (·.count) = some 1 ∧ d.host.erqF = erqs 64 ∧ d.rd (R.erqDropped 0) = 1 ∧ d.flag (R.erqStat 0) F.erqStatErqOvf = true ∧
    x.host.erqF = erqs 64 ∧ x.rd (R.erqDropped 0) = 1 ∧ x.flag (R.erqStat 0) F.erqStatErqOvf = true := by decide +kernel
def ackWord (seq count : Nat) : Word := setF (setF 0 F.erqAckSeq seq) F.erqAckCount count
theorem witness_ErrorsAreAcknowledged :
    let s := put [(R.erqStat 0, setF 0 F.erqStatHeadSeq 65535), (R.erqFatal 0 3, 9)] (queuedErr [errRec 8 3, errRec 9 1])
    s.erq (dieOf 0) = [errRec 8 3, errRec 9 1] ∧
    gives (exec (.erqAck f00 0 (ackWord 65535 3)) s) (fun t => t.host.erqF == [errRec 9 1] && t.fld (R.erqStat 0) F.erqStatHeadSeq == 0) ∧
    gives (exec (.erqAck f00 0 (ackWord 65535 1)) s) (fun t => t.host.erqF == [{ errRec 8 2 with stamp := 2 }, errRec 9 1] &&
      t.fld (R.erqStat 0) F.erqStatHeadSeq == 65535 && t.flag (R.erqStat 0) F.erqStatPartial) ∧
    isNext (exec (.erqAck f00 0 (ackWord 0 1)) s) s ∧ isNext (exec (.erqAck f00 0 (ackWord 65535 4)) s) s ∧
    gives (exec (.erqFatalClr f00 0) s) (fun t => t.rd (R.erqFatal 0 3) == 0 && !t.flag (R.erqStat 0) F.erqStatFatal) = true := by
  decide +kernel

/-- Settings area 0 holds key 7. -/
def settled : State := { lab with flash := { lab.flash with areas := [[(7, zeros 56)], []] } }
def keyIs (k : Nat) (s : State) : State := put [(R.mbxData 0 0, BitVec.ofNat 64 k)] s
theorem witness_MailboxesAnswer_basic : lab.busy (.mbx 0) = false ∧ lab.boot.stewardUp = true ∧ lab.boot.restarting = false ∧
    isNext (exec (.mbxPing f00) lab) (complete (.mbx 0) Code.ok 0 (lab.taken f00 (.mbx 0) 0 0)) ∧
    gives (exec (.mbxThermal f00) { lab with pwr := { lab.pwr with temps := List.replicate 32 (-5) } }) (fun t =>
      t.rd (R.mbxData 0 0) == 0xFFFBFFFBFFFBFFFB) ∧
    isNext (exec (.settingsGet f00) (keyIs 7 settled)) (complete (.mbx 0) Code.ok 0 (setData (fun i => R.mbxData 0 (i + 1)) 7 (zeros 56)
      ((keyIs 7 settled).taken f00 (.mbx 0) 0 0))) = true := by decide +kernel
theorem witness_MailboxesAnswer_put :
    let s := put [(R.mbxData 0 1, 9)] (keyIs 7 settled)
    s.putAreas = [0] ∧ s.flash.areas.length = 2 ∧
    s.putAreas.any (fun a => (smapFind 7 (s.area a)).isNone && Config.settingsCapacity ≤ (s.area a).length) = false ∧
    gives (exec (.settingsPut f00) s) (fun t => t.fld (R.mbxStatus 0) stCode == Code.ok &&
      smapFind 7 (t.area 0) == some (patch 0 [9] (zeros 56))) = true := by decide +kernel
def withCalib : State := { lab with pwr := { lab.pwr with absent := false } }
theorem witness_MailboxesAnswer_calib :
    gives (exec (.calibRead f00 (.data [])) (keyIs 64 withCalib)) (fun t => t.fld (R.mbxStatus 0) stCode == Code.ok && t.outs.length == 1) ∧
    lab.right 0 Right.calib = true ∧ mbxData 0 (put [(R.mbxData 0 2, 0x4F565752)] lab) 2 % 2 ^ 32 = 0x4F565752 ∧
    lab.bootStateOf ≠ 0 ∧
    gives (exec (.smbusRead 0x5A [1] .word false) lab) (fun t => t.outs == [.smbus (toLe 2 devStep)]) ∧
    gives (exec (.smbusRead 0x5A [255] .block true) lab) (fun t =>
      t.outs == [.smbus (smbFormat .block (smbReply lab 255) ++ [smbPec ([0xB4, 255, 0xB5] ++ smbFormat .block (smbReply lab 255))])]) = true := by decide +kernel
/-- A record that names itself and fails the last of its checks. -/
theorem witness_MailboxesAnswer_refused :
    let s := put [(R.mbxData 0 2, 0x4F565752), (R.mbxData 0 1, 1)] lab
    gives (exec (.calibWrite f00 (.data [])) s) (fun t => !t.busy (.mbx 0) && t.flash == lab.flash && t.fld (R.mbxStatus 0) stCode == Code.denied) =
      true := by decide +kernel

/-- TX ring 63 of partition 0 is enabled with 16 slots, and stands at an index. -/
def txRing (head tail : Nat) : State :=
  put [(R.pioRingCfg 0 63, setF (setF 0 F.pioRingCfgRingEn 1) F.pioRingCfgSizeLog2 4), (R.pioRingHead 0 63, BitVec.ofNat 64 head),
    (R.pioRingTail 0 63, BitVec.ofNat 64 tail)] lab
def txDesc (len : Nat) : Bytes := patch 8 (toLe 2 len) (zeros 32)
theorem witness_HostRingsRun_tx : (txRing 4294967295 0).ringOn 0 63 0 = true ∧ txCode (txRing 4294967295 0) 0 (.data (txDesc 96)) (.data (mdTo 0 ++ zeros 64)) = Code.ok ∧
    gives (exec (.pioTxDescriptor 0 63 (.data (txDesc 96)) (.data (mdTo 0 ++ zeros 64))) (txRing 4294967295 0)) (fun t =>
      t.ringHead 0 63 == 0 && given (t.pkt lab.q.nextPkt) (fun k => k.bytes == zeros 64 && k.md == mdTo 0 && k.port == 127) &&
      smapGet (fun _ => []) 18 t.q.arrivals == [lab.q.nextPkt]) ∧
    gives (exec (.pioTxDescriptor 0 63 (.data (txDesc 91)) (.data [])) (txRing 5 6)) (fun t => t.ringHead 0 63 == 6 && t.pkts == [] &&
      t.outs == [.dmaWrite 0 (32 * 5 + 10) (toLe 1 1 ++ toLe 1 Code.length)]) = true := by decide +kernel
def coal (t : Nat) : State := { lab with host := { lab.host with coal := [(255, (1, t))] } }
theorem witness_HostRingsRun_coal : gives (exec (.rxCoalExpire 3 63) (coal lab.now)) (fun t => smapFind 255 t.host.coal == none) ∧
    (let s := put [(R.pioRingCfg 3 63, setF 0 F.pioRingCfgIrqEn 1), (R.pmap 3 0, 0x3FF00010001)] (coal lab.now)
     let u := { s with host := { s.host with recOk := [true, true, true, true] } }
     u.mayInt 3 = true ∧ u.flag (R.pioRingCfg 3 63) F.pioRingCfgIrqEn = true ∧
     gives (exec (.rxCoalExpire 3 63) u) (fun t => t.rd (R.intRingStatus 3) == BitVec.ofNat 64 (2 ^ 63))) = true := by decide +kernel

/-! ### The line side -/

def onPort : State := portUp live
theorem witness_FramesArrive_whole : onPort.rxOn 0 = true ∧ smapFind 0 onPort.line.rx = none ∧ nextPipe onPort onPort.line.rr = some 0 ∧
    gives (exec (.headerSegmentArrive 0 (zeros 64) true false fec0) onPort) (fun t => given (t.pkt onPort.q.nextPkt) (fun k => k.bytes == zeros 60 &&
      k.port == 0 && k.place == .pipe && k.pipe == 0 && k.seq == 0 && k.tailIn && k.bank == 0) && (t.stream 0).next == 1 && t.line.rr == 1) = true := by decide +kernel
theorem witness_FramesArrive_long :
    gives (exec (.headerSegmentArrive 0 (zeros 384) false false fec0) onPort) (fun t =>
      smapFind 0 t.line.rx == some { pkt := some onPort.q.nextPkt, len := 384, sched := none, bad := false, wait := false }) = true := by decide +kernel
def half : Packet := { noPacket with place := .pipe, bytes := zeros 384 }
def tailing : State :=
  { onPort with pkts := [(7, half)], line := { onPort.line with rx := [(0, { pkt := some 7, len := 384, sched := none, bad := false, wait := false })] } }
theorem witness_FramesArrive_tail : tailing.pkt 7 = some half ∧ 384 + 16 ≤ tailing.fld (R.linePortCfg 0) F.linePortCfgMaxFrame ∧
    gives (exec (.frameTailArrive 0 (zeros 16) .good fec0) tailing) (fun t => smapFind 0 t.line.rx == none &&
      t.pkt 7 == some { half with bytes := zeros 396, tailIn := true, bad := none }) ∧
    gives (exec (.frameTailArrive 0 (zeros 16) .cut fec0) tailing) (fun t => smapFind 0 t.line.rx == none &&
      t.pkt 7 == some { half with bytes := zeros 396, tailIn := true, stomp := true, bad := some .fcs }) = true := by decide +kernel

/-- Port 0 with a pause mode and every priority enabled both ways. -/
def paused (mode : Nat) : State :=
  put [(R.linePfcCfg 0, setF (setF (setF (setF 0 F.linePfcCfgPauseMode mode) F.linePfcCfgRxEn 255) F.linePfcCfgTxEn 255) F.linePfcCfgPfcQuanta 65535),
    (R.qPfc 0, setF (setF 0 F.qPfcXoffBytes 1000) F.qPfcXonBytes 500)] (portUp lab)
theorem witness_PausesAndLinks_pause : (paused 1).rxOn 0 = true ∧ (paused 1).pauseMode 0 = 1 ∧
    gives (exec (.pauseFrameReceive 0 64 false 65535 fec0) (paused 1)) (fun t => t.fld (R.linePortStat 0) F.linePortStatPaused == 255 &&
      smapFind 7 t.line.holds == some (lab.now + quantaTicks (paused 1) 0 65535)) ∧
    (paused 2).pauseMode 0 = 2 ∧ nbit ((paused 2).fld (R.linePfcCfg 0) F.linePfcCfgRxEn) 7 = true ∧
    gives (exec (.pfcFrameReceive 0 64 false 128 [0, 0, 0, 0, 0, 0, 0, 1] fec0) (paused 2)) (fun t =>
      smapFind 7 t.line.holds == some (lab.now + quantaTicks (paused 2) 0 1) && t.fld (R.linePortStat 0) F.linePortStatPaused == 128) = true := by
  decide +kernel
theorem witness_PausesAndLinks_expire :
    let s := put [(R.linePortStat 0, setF (setF 0 F.linePortStatLinkUp 1) F.linePortStatPaused 128)] (paused 2)
    let u := { s with line := { s.line with holds := [(7, s.now)] } }
    smapFind 7 u.line.holds = some u.now ∧
    gives (exec (.pauseExpire 0) u) (fun t => t.line.holds == [] && t.fld (R.linePortStat 0) F.linePortStatPaused == 0) = true := by
  decide +kernel
/-- Bytes held of port 0, priority 7, whether XOFF has been sent, and when it is repeated. -/
def pfcIs (n : Nat) (xoff : List Nat) (again : SMap Nat) : State :=
  let s := paused 2
  { s with q := { s.q with pfcHeld := [(7, n)], pfcXoff := xoff }, line := { s.line with xoff := again } }
theorem witness_PausesAndLinks_xoff : (pfcIs 1000 [] []).portExists 0 = true ∧
    gives (exec (.xoffSignal 0 7) (pfcIs 1000 [] [])) (fun t => t.q.pfcXoff == [7] && smapFind 7 t.line.xoff == some (xoffRepeat (paused 2) 0) &&
      t.outs == [.pauseFrame 0 7 65535]) ∧
    gives (exec (.xonSignal 0 7) (pfcIs 500 [7] [(7, 1)])) (fun t => t.q.pfcXoff == [] && t.line.xoff == [] && t.outs == [.pauseFrame 0 7 0]) ∧
    gives (exec (.pfcRefresh 0 7) (pfcIs 1000 [7] [(7, lab.now)])) (fun t => smapFind 7 t.line.xoff == some (xoffRepeat (paused 2) 0) &&
      t.outs == [.pauseFrame 0 7 65535]) = true := by decide +kernel
theorem witness_PausesAndLinks_link :
    let s := setMacQueue 0 [.routed 7] (portUp lab)
    gives (exec (.linkStateChange 0 false false false fec0) s) (fun t => !t.linkUp 0 && t.macQueue 0 == []) ∧ s.portOn 0 = true ∧
    gives (exec (.linkStateChange 0 true false false fec0) s) (fun t => t.linkUp 0) ∧
    gives (exec (.synceSquelch 1 true) lab) (fun t => t.flag (R.lineSynceCfg 1) F.lineSynceCfgSquelched &&
      t.rd (R.lineSynceCfg 0) == lab.rd (R.lineSynceCfg 0)) = true := by decide +kernel

/-! ### The pipelines -/

def noReads : StageIn := { reads := [], ecc := .ok, eccNh := .ok, desc := .timeout, dmaOk := true }
def inPipe (stage : Option Nat) (bytes : Bytes) : Packet := { noPacket with place := .pipe, bytes := bytes, tailIn := true, stage := stage }
def piping (p : Packet) : State := { live with pkts := [(7, p)], q := { live.q with nextPkt := 8 } }
theorem witness_PacketsMoveThroughThePipelines_parse :
    let s := setBank 0 { labBank with graph := patch 5 [1, 1] (zeros 128) } (piping (inPipe none (zeros 60)))
    let pr := parsePacket (s.bank 0).graph (zeros 60) 0 true (s.fld R.parserTpid F.parserTpidTpid0) (s.fld R.parserTpid F.parserTpidTpid1)
    s.pkt 7 = some (inPipe none (zeros 60)) ∧ (inPipe none (zeros 60)).hasSegment = true ∧ s.pairAwake 0 = true ∧ startState (s.bank 0).graph (inPipe none (zeros 60)) = 0 ∧
    excAction (s.bank 0).graph (prFlags pr) = 1 ∧
    gives (exec (.packetParse 7 noReads) s) (fun t => t.pkt 7 == some { inPipe none (zeros 60) with
        pr := pr, effEnd := parseEnd (s.bank 0).graph (zeros 60) 0 true, stage := some 0 } &&
      t.rd (R.parserCtr 0 0) == 1) = true := by decide +kernel
theorem witness_PacketsMoveThroughThePipelines_leave :
    let s := piping (inPipe (some 0) (zeros 60))
    (s.prog 0 0).stages[0]? = none ∧ isNext (exec (.pipelineStage 7 noReads) s) (leavePipe 7 (inPipe (some 0) (zeros 60)) s)= true := by decide +kernel
/-- A stage that does nothing, or only reads the pattern matcher's result. -/
def idleStage (ppm : Bool) : Stage :=
  { builder := none, table := .none, hashB := none, onHit := [], onSpec := [], onMiss := [], onFlood := [], trapRing := none, recvRing := none, readsPpm := ppm }
def staged (ppm : Bool) (scan : Option Scan) : State :=
  let s := piping { inPipe (some 0) (zeros 60) with scan := scan }
  setBank 0 { labBank with code := some { labCode with progs := List.replicate 16 ⟨1, [idleStage ppm]⟩ } } s
theorem witness_PacketsMoveThroughThePipelines_stage : ((staged true none).prog 0 0).stages[0]? = some (idleStage true) ∧
    isNext (exec (.pipelineStage 7 noReads) (staged true none))
      (runStage noReads (idleStage true) 7 (inPipe (some 0) (zeros 60)) (staged true none)) = true := by decide +kernel
/-- Packet 7 of stream 0 leaves the pipeline with number 65,535; E is as given. -/
def reordering (e : Nat) : State :=
  setStream 0 { emptyReorder with next := 0, e := e } (piping { inPipe (some 0) (zeros 60) with place := .done, seq := 65535 })
theorem witness_PacketsMoveThroughThePipelines_reorder : (reordering 65535).donePkt 0 65535 = some 7 ∧
    ((reordering 65534).stream 0).ahead 65535 = true ∧ (reordering 65534).heldPkt 0 65534 = none ∧
    isNext (exec (.reorderArrival 0 65535) (reordering 65534))
      (setPkt 7 { inPipe (some 0) (zeros 60) with place := .reorder, seq := 65535 } (reordering 65534)) ∧
    gives (exec (.reorderArrival 0 65535) (reordering 65535)) (fun t => given (t.pkt 7) (fun p => p.place == .bridge) && (t.stream 0).e == 0 &&
      t.q.arrivals == [(0, [7])]) = true := by decide +kernel
def skipping (since : Nat) : State := setStream 96 { emptyReorder with next := 1, since := since } lab
theorem witness_PacketsMoveThroughThePipelines_timeout : (0 : Nat) + nsT (lab.fld R.reorderCfg F.reorderCfgReorderTimeoutNs) ≤ lab.now ∧
    gives (exec (.reorderTimeout 96) (skipping 0)) (fun t => (t.stream 96).e == 1 && t.rd R.reorderRecircSkip == 1) = true := by decide +kernel
def macHolds (m : MacItem) (st : Nat) : State :=
  setMacQueue 0 [m] ((piping (inPipe none (zeros 60)) |> portUp).setFld R.twinState F.twinStateState st)
theorem witness_PacketsMoveThroughThePipelines_send : (macHolds (.routed 7) 0).heldAtMac 0 (.routed 7) = false ∧ (macHolds (.routed 7) 0).relGuard 0 = false ∧
    (macHolds (.routed 7) 0).outputHeld = false ∧ (macHolds (.routed 7) 0).linkUp 0 = true ∧ (macHolds (.routed 7) 0).pwr.tripped = false ∧
    (macHolds (.sched [1] 0 5) 0).anyHold 0 = false ∧ 5 ≤ (macHolds (.sched [1] 0 5) 0).now ∧
    isNext (exec (.txFrame 0) (macHolds (.sched [1] 0 5) 0)) (sendSched 0 [1] 45 (setMacQueue 0 [] (macHolds (.sched [1] 0 5) 0))) =
      true := by decide +kernel

/-! ### The power manager and the timebase -/

/-- Rail 1 has been asked for 850 mV. -/
def asked (tries readAt : Nat) : State :=
  setRail 1 ⟨tries, readAt, [], true⟩ (lab.setFld (R.pwrRailStat 1) F.pwrRailStatVsetMv 850)
theorem witness_RailsAndSensors_rail :
    gives (exec (.avsReadback 1 840) (asked 0 lab.now)) (fun t => t.rail 1 == ⟨0, lab.now + msT 1, [], false⟩ && t.outs == [] &&
      !t.flag (R.pwrRailStat 1) F.pwrRailStatAvsFault) ∧
    gives (exec (.avsReadback 1 861) (asked 2 lab.now)) (fun t => t.rail 1 == ⟨3, lab.now + msT 1, [lab.now + usT 200], true⟩ && t.outs == [.avs 1 850] &&
      t.rd (R.pwrCtr 2) == 1) = true := by
  decide +kernel
theorem witness_RailsAndSensors_sensors :
    gives (exec (.thermalRead (List.replicate 32 (-400))) (lab.setFld R.pwrThermStat F.pwrThermStatStale 1)) (fun t => t.pwr.readAt == lab.now &&
      t.pwr.temps.length == 32 && !t.flag R.pwrThermStat F.pwrThermStatStale) ∧
    lab.pwr.readAt + msT 20 ≤ lab.now ∧ gives (exec .thermalStale lab) (fun t => t.flag R.pwrThermStat F.pwrThermStatStale) = true := by decide +kernel
def evaluating (en : Nat) (next : Nat) : State :=
  let s := lab.setFld R.pwrCtl F.pwrCtlPmEn en
  { s with pwr := { s.pwr with nextMf := next, absent := false } }
/-- What the boundary notes before it judges the rails. -/
def evaluated (en : Nat) : State :=
  let s := evaluating en lab.now
  { s with pwr := { s.pwr with nextMf := s.ptpBoundary (lab.now + 1), pmOn := en == 1, raised := s.pwr.raised + 1, lowered := s.pwr.lowered + 1 } }
theorem witness_RailsAndSensors_boundary : (evaluating 0 lab.now).pwr.nextMf ≤ lab.now ∧
    lab.pwr.temps = [] ∧ lab.pwr.newCrv = [] ∧ lab.pwr.tripped = false ∧ lab.flag R.pwrThermStat F.pwrThermStatStale = false ∧
    lab.flag R.pwrThermStat F.pwrThermStatThrottle = false ∧ lab.framerRun = false ∧
    gives (exec (.ptpMfBoundary 5 6) (evaluating 0 lab.now)) (fun t => t.fld (R.pwrRailStat 0) F.pwrRailStatReason == 8 &&
      t.fld (R.pwrRailStat 1) F.pwrRailStatReason == 8) ∧
    (evaluated 1).measured [] 5 = 0 := by decide +kernel
theorem witness_RailsAndSensors_eval :
    (evaluating 1 lab.now).flag R.pwrCtl F.pwrCtlPmEn = true ∧ (evaluating 1 lab.now).pwr.absent = false ∧
    exec (.ptpMfBoundary 5 6) (evaluating 1 lab.now) = .next (microBoundary
      (railEval ((evaluated 1).packetRate ((evaluated 1).measured [] 5)) ((evaluated 1).packetRate ((evaluated 1).measured [] 6)) (evaluated 1))) :=
  ⟨by decide +kernel, rfl, rfl⟩
def sleepy (budget state : Nat) : State :=
  let s := (evaluating 1 0).setFld (R.pwrWakePort 95) wakeBudget budget
  s.setFld (R.pwrWakePort 95) wakeState state
theorem witness_DomainsAndPulses_sleep : (sleepy 20000 1).sleepState (.port 95) = 2 ∧
    gives (exec (.domainSleep (.port 95)) (sleepy 20000 1)) (fun t => t.fld (R.pwrWakePort 95) wakeState == 2) = true := by decide +kernel
theorem witness_DomainsAndPulses_wake :
    let s := put [(R.linePortCfg 95, setF 0 F.linePortCfgPortEn 1)] (sleepy 20000 2)
    s.wakeWanted (.port 95) = true ∧
    gives (exec (.domainWake (.port 95) 4294967295) s) (fun t => t.fld (R.pwrWakePort 95) wakeState == 0 && t.rd (R.pwrCtr 3) == 1) = true := by
  decide +kernel
def pulses (f : Fld) (now : Nat) : State := { lab.setFld R.pwrTbCfg f 1 with now := now }
theorem witness_DomainsAndPulses_pps :
    let s := pulses F.pwrTbCfgPpsOutEn (100 * ticksPerSec + 64)
    let i := pulses F.pwrTbCfgPpsInEn lab.now
    gives (exec .ppsOut s) (fun t => t.outs == [.pulse 0] && t.pwr.ppsNext == 101 * ticksPerSec) ∧
    gives (exec .ppsInEdge i) (fun t => t.rd R.pwrTbPps0 == BitVec.ofNat 64 (stampLo lab.now) && t.pwr.ppsAt == lab.now) ∧
    gives (exec .ppsLoss i) (fun t => t.flag R.pwrTbStat F.pwrTbStatPpsLoss) = true := by decide +kernel

/-! ### Twin mode -/

/-- A twin pair: own and mate's state, the mate healthy, the link up. -/
def twin (own mate : Nat) : State :=
  let s := put [(R.fabLaneStat 119, setF 0 F.fabLaneStatAlign 2),
    (R.twinState, setF (setF (setF (setF 0 F.twinStateState own) F.twinStateMateState mate) F.twinStateLinkUp 1) F.twinStatePinIn 1)] lab
  { s with twin := { s.twin with mateHl := 1, statAt := some 0 }, boot := { s.boot with straps := { s.boot.straps with twinEn := true } } }
theorem witness_TwinsChangeRoles_commands : Passes (twinChecks ((twin 3 2).taken f00 .twin 1 0) 1) ∧
    gives (exec (.twinSwitch f00) (twin 3 2)) (fun t => t.twin.switchM == some 2 && t.fld R.twinStatus stCode == Code.ok && t.twinState == 3) ∧
    Passes (twinChecks ((twin 2 2).taken f00 .twin 2 0) 2) ∧
    isNext (exec (.twinForceActive f00) (twin 2 2)) (complete .twin Code.ok 0
      { (twin 2 2).taken f00 .twin 2 0 with twin := { (twin 2 2).twin with force := true } }) ∧
    Passes (twinChecks ((twin 4 3).taken f00 .twin 3 0) 3) ∧
    gives (exec (.twinClearFailed f00) (twin 4 3)) (fun t => t.twinState == 2 && t.fld R.twinStatus stCode == Code.ok) = true := by
  decide +kernel
def statusCell : Bytes := mkCell (cellTop 3 1 1 0 0 0 9 0 0 0 0 64) ([1, 2, 1] ++ zeros 61)
theorem witness_TwinsChangeRoles_record : (twin 3 2).twinLane 119 = true ∧ (twin 3 2).inSync 119 = true ∧ hecOk statusCell = true ∧
    cellType statusCell = 3 ∧ pcrcOk statusCell = true ∧ (twin 3 2).laneClean 119 = true ∧ (twin 3 2).laneFlag 119 F.fabLaneStatTim = false ∧
    byteAt 0 (slice 16 64 statusCell) = 1 ∧
    gives (exec (.twinRecordReceive 119 statusCell) ((twin 3 5).setFld R.twinState F.twinStateLinkUp 0)) (fun t => t.twinLinkUp &&
      t.twin.statAt == some lab.now && t.mateState == 2) = true := by decide +kernel
/-- The record of multiframe 1 and the lane's frame has come on lane 118 already: lane 119's copy does nothing. -/
def seen118 : State := { twin 3 5 with twin := { (twin 3 5).twin with seen := [(256 * beAt 4 4 (slice 16 64 statusCell) + ((twin 3 5).lane 119).fn, 118)] } }
theorem witness_TwinsChangeRoles_copy :
    seen118.statusCopy 119 (256 * beAt 4 4 (slice 16 64 statusCell) + (seen118.lane 119).fn) = true ∧
    (twin 3 5).statusCopy 119 (256 * beAt 4 4 (slice 16 64 statusCell) + ((twin 3 5).lane 119).fn) = false ∧
    isNext (exec (.twinRecordReceive 119 statusCell) seen118) seen118 = true := by decide +kernel
def heard (own at_ : Nat) : State := { twin own 3 with twin := { (twin own 3).twin with statAt := some at_, waitTo := some at_ } }
theorem witness_TwinsChangeRoles_link : gives (exec .twinLinkDown (heard 2 (lab.now - 32768))) (fun t => !t.twinLinkUp && t.rd (R.twinCtr 5) == 1) ∧
    gives (exec .twinHealthInFall (twin 2 3)) (fun t => !t.flag R.twinState F.twinStatePinIn && t.twin.waitTo == some (16384 + lab.now)) ∧
    gives (exec .twinHealthInRise (heard 2 1)) (fun t => t.flag R.twinState F.twinStatePinIn && t.twin == (heard 2 1).twin) ∧
    gives (exec .twinHealthWaitExpire (heard 2 lab.now)) (fun t => t.twinState == 3 && t.activeSince == 0 && t.twin.waitTo == none) = true := by decide +kernel

/-! ### What does not go through -/

theorem witness_CommandsThatAreTurnedAway_sched : (65535 : Nat) ≠ standing.calGen 0 ∧ standing.boot.restarting = false ∧
    isNext (exec (.schedLoad f00 0 65535) standing) (complete .sched Code.staleBank 0 (standing.taken f00 .sched 1 0)) ∧
    isNext (exec (.schedSwap f00 0 65535) standing) (complete .sched Code.staleBank 0 (standing.taken f00 .sched 2 0)) ∧
    isNext (exec (.schedAbort f00 0 65535) standing) (complete .sched Code.staleBank 0 (standing.taken f00 .sched 3 0)) ∧
    lab.halted = false ∧
    isNext (exec (.schedRestart f00 .agree) lab) (complete .sched Code.notfound 0 (lab.taken f00 .sched 4 0)) = true := by decide +kernel
theorem witness_CommandsThatAreTurnedAway_lookup : Passes (tblChecks (tblTaken macArg 5) 0 (oOf macArg 5 5 1)) ∧
    isNext (exec (.tblLookup f00 5 1) macArg) (complete (.tbl 0) Code.notfound 0 (tblTaken macArg 5)) = true := by decide +kernel
theorem witness_CommandsThatAreTurnedAway_search :
    isNext (exec (.asaSearchCmd f00 0 .ok) asaB) (complete (.asa 0) Code.notfound 0 ((asaTaken asaB 5).inc (R.asaTableCtr 0 0))) =
      true := by decide +kernel
theorem witness_CommandsThatAreTurnedAway_retire :
    let s := (bpmArg 0 3 lab).setFld (R.bpmStack 0) F.bpmStackState 2
    s.fld (R.bpmArg 0) F.bpmArgIndex = 3 ∧ s.stackState 3 = 0 ∧ s.stackState 0 ≠ 0 ∧
    isNext (exec (.bpmRetire f00) s) (complete (.bpm 0) Code.nospace 0 (s.taken f00 (.bpm 0) 3 0)) = true := by decide +kernel
theorem witness_CommandsThatAreTurnedAway_flush : Passes (qChecks (qTaken qB 4) 0 4 1 100) ∧ (qB.que 100).en = true ∧
    isNext (exec (.qFlush f00) qB) (complete (.q 0) Code.quiesceRequired 0 (qTaken qB 4)) = true := by decide +kernel
theorem witness_CommandsThatAreTurnedAway_burin :
    let s := sessionOf (labCtx 1 0)
    Passes (burinChecks (s.taken f00 (.burin 0) 4 0) 0 4 5) ∧
    isNext (exec (.burinCtxRead f00 .uncorr) s) (complete (.burin 0) Code.eccUncorrectable 0 (s.taken f00 (.burin 0) 4 0)) = true := by
  decide +kernel
theorem witness_CommandsThatAreTurnedAway_lock :
    let s := put [(R.sealStatus, 1)] (sealHeld 0)
    isNext (exec (.sealAcquire f00) (sealHeld 4)) (sealHeld 4) ∧ isNext (exec (.sealRelease f00) (sealHeld 1)) (sealHeld 1) ∧
    s.busy .sealE = true ∧ isNext (exec (.sealRelease f00) s) s ∧
    (sealTwo 0).right 1 Right.sealEng = true ∧ (sealTwo 0).reached f01 = true ∧ (sealTwo 0).blockAccess 1 12 = 2 ∧
    isNext (exec (.sealBreak f01) (sealTwo 0)) (sealTwo 0) = true := by decide +kernel
theorem witness_CommandsThatAreTurnedAway_unwrap :
    let s := keySlot 0 0
    let full := keySlot (slotWord slotLoaded 3) 0
    s.keyState 31 = slotEmpty ∧ s.slotOk 0 31 = true ∧ full.slotOk 0 31 = true ∧
    isNext (exec (.sealUnwrap f00 31 .timeout .ok .ok) s) (sealDmaFail 0 .timeout ((s.taken f00 .sealE 1 0).wr R.sealBytesOut 0)) ∧
    full.keyState 31 ≠ slotEmpty ∧
    isNext (exec (.sealUnwrap f00 31 (.data labBlob) .ok .uncorr) full)
      (sealFail f00 Code.nospace ((full.taken f00 .sealE 1 0).wr R.sealBytesOut 0)) = true := by decide +kernel
theorem witness_CommandsThatAreTurnedAway_preempt :
    isNext (exec (.updPreempt f01) lab) (denied f01 R.updPreempt 1 lab) = true := by decide +kernel
theorem witness_CommandsThatAreTurnedAway_open : lab.right 0 Right.update = true ∧ lab.boot.restarting = false ∧
    lab.updHolder = 7 ∧ lab.updState = Us.idle ∧ given (firstBad (openChecks lab 0 [])) (fun f =>
      isNext (exec (.updOpen f00 (.data [])) lab) (updDone f.1 f.2 (updHold 0 (lab.taken f00 .upd 1 0)))) = true := by decide +kernel
theorem witness_CommandsThatAreTurnedAway_verify :
    let s := spoil (updAt Us.isOpen 0 5)
    let n := (s.slot s.staging).manifest
    let t := { (held4 s).taken f00 .upd 3 0 with upd := { s.upd with lastCmd := s.now, wait := some (s.now, .verify) } }
    ((List.range 5).all (fun i => s.fld (R.updRcvd i) F.updRcvdReceived == entryLen (manEntry n i))) = true ∧
    (held4 s).holder ≠ 7 ∧ isNext (exec (.updVerify f00) (held4 s)) (updTo Us.verifying t) ∧
    s.holder = 7 ∧ gives (exec (.updVerify f00) s) (fun t => !t.busy .upd && t.updState == Us.isOpen && t.fld R.updStatus stCode == Code.tagFail) =
      true := by decide +kernel
theorem witness_CommandsThatAreTurnedAway_activate :
    let s := modeSlot 0 (updAt Us.verified 0 5)
    manMode (s.slot s.staging).manifest ≠ 1 ∧ s.holder = 7 ∧ s.bankState s.spareBank = Pb.empty ∧
    compatHas (s.slot s.staging).manifest (tupleOf s.upd.run.hashes) = false ∧
    gives (exec (.updActivate f00 .done) s) (fun t => t.fld R.updStatus stCode == Code.incompatible) = true := by decide +kernel
theorem witness_CommandsThatAreTurnedAway_mailbox :
    isNext (exec (.settingsGet f00) (keyIs 8 settled)) (complete (.mbx 0) Code.notfound 0 ((keyIs 8 settled).taken f00 (.mbx 0) 0 0)) ∧
    isNext (exec (.calibWrite f00 (.data [])) lab) (failCmd (.mbx 0) f00 Code.denied (lab.taken f00 (.mbx 0) 0 0)) ∧
    isNext (exec (.smbusRead 0x5A [0] .byte false) { lab with regs := [] }) ({ lab with regs := [] } |>.emit .smbusNak) ∧
    isNext (exec (.smbusRead 0x5B [0] .byte false) lab) (lab.emit .smbusNak) = true := by decide +kernel

theorem witness_BadArrivalsAreHandled_plate :
    let s := proofIn 1 live
    s.backWaits = false ∧
    isNext (exec (.plateScrub 1 0 .corr) s) (report .f 0x04 1 .c 0x002 [] (s.inc R.plateEccCorr)) ∧
    lab.bankState 0 = Pb.empty ∧ isNext (exec (.plateScrub 0 7 .uncorr) lab) (lab.inc R.plateEccUncorr) ∧
    s.bankState 0 = Pb.live ∧ 7 ∉ (s.bank 0).badWords ∧ isNext (exec (.plateScrub 0 7 .uncorr) s)
      (setBank 0 { s.bank 0 with badWords := [7] } (s.inc R.plateEccUncorr)) ∧
    isNext (exec (.plateLoadData .timeout true) loading) (plateFail 1 (Code.timeout, 0x0F) loading) ∧
    isNext (exec (.plateLoadData .poison true) loading) (plateFail 1 (Code.eccUncorrectable, 0x0F) loading) ∧
    isNext (exec (.plateLoadData (.data [1]) false) loading)
      (plateFail 1 (Code.eccUncorrectable, 0x11) (loading.inc R.plateEccUncorr)) = true := by decide +kernel
theorem witness_BadArrivalsAreHandled_scrub :
    let s := put [(R.asaScrubCfg, setF (asaB.rd R.asaScrubCfg) F.asaScrubCfgScrubEn 1)] asaB
    let u := { s with asa := { s.asa with lost := [s.asaPlace 0 5] } }
    isNext (exec (.tblScrub 5 0 7 .corr) (setEm 2 [(7, emImage 2 mac1)] scrubbing)) (report .f 0x07 0 .c 0x001 []
      ((scrubbedAt 5 0 7 (setEm 2 [(7, emImage 2 mac1)] scrubbing)).inc (R.tblDevCtr 0))) ∧
    s.asaScrubDue 0 16383 = true ∧
    isNext (exec (.asaScrubVisit 0 16383 .shadowCorr) s) (report .f 0x08 0 .c 0x002 [] ((asaVisited 0 16383 s).inc (R.asaDevCtr 1))) ∧
    isNext (exec (.asaScrubVisit 0 5 .shadowUncorr) u) (asaVisited 0 5 u) ∧
    s.asaTableOf 0 = some 0 ∧ s.asaRowOf 0 5 = (0, (s.asaTab 0).index 5) ∧ s.asaPlace 0 5 ∉ s.asa.lost ∧
    gives (exec (.asaScrubVisit 0 5 .shadowUncorr) s) (fun t => t.rd (R.asaDevCtr 2) == 1 && t.asa.lost == u.asa.lost) ∧
    s.asaTableOf 15 = none ∧
    gives (exec (.asaScrubVisit 15 16383 .shadowUncorr) s) (fun t => t.asa.rows == s.asa.rows && t.rd (R.asaDevCtr 2) == 1) =
      true := by decide +kernel
theorem witness_BadArrivalsAreHandled_pages : paged.page 1 8 = none ∧ paged.page 1 9 = some (.used (newRec 3)) ∧ recOwner (newRec 3) ≠ 4 ∧
    gives (exec (.pageFree 3 1 8 1) paged) (fun t => t.rd (R.bpmReqCtr 3 3) == 1) ∧
    gives (exec (.pageFree 4 1 9 1) paged) (fun t => t.rd (R.bpmReqCtr 4 4) == 1) ∧
    gives (exec (.bpmMemoryError (.count 4194303) .corr) lab) (fun t => t.rd (R.bpmDevCtr 4) == 1) = true := by decide +kernel
theorem witness_BadArrivalsAreHandled_queue : (waitingOut 0).egressWaiting 0 = some (8, { bridgePkt 0 with place := .egressWait, egress := true }) ∧
    (waitingOut 0).plate.live = some 0 ∧ (waitingOut 0).role ((waitingOut 0).egressPipe 0) ≠ 2 ∧
    gives (exec (.egressEntry 0) (waitingOut 0)) (fun t => t.pkt 8 == none && t.rd (R.qDevCtr 19) == 1) ∧
    qDestDev ((grantIn 6).que 100).img ≠ 6 ∧
    isNext (exec .grantReceive (grantIn 6)) (({ grantIn 6 with q := { (grantIn 6).q with grantIn := [] } } : State).inc (R.qDevCtr 18)) ∧
    gives (exec (.qEccUncorr (.count 1048575 1) .uncorr) (withQueue 1048575 { emptyQueue with fwd := 3, drop := 4, mcDrop := 5 } lab)) (fun t =>
      (t.que 1048575).fwd == 3 && (t.que 1048575).drop == 0 && (t.que 1048575).mcDrop == 5 && t.rd (R.qDevCtr 23) == 1) = true := by decide +kernel
theorem witness_BadArrivalsAreHandled_calendar :
    let s := calLoading Cb.loading []
    isNext (exec (.schedLoadData .timeout true) s) (calFail 0 (Code.timeout, 0x0F) s) ∧
    isNext (exec (.schedLoadData .poison true) s) (calFail 0 (Code.eccUncorrectable, 0x0F) s) ∧
    isNext (exec (.schedLoadData (.data []) false) s) (calFail 0 (Code.eccUncorrectable, 0x11) s) ∧
    isNext (exec (.schedBankEccError 0) s) (calFail 0 (Code.eccUncorrectable, 0x11) s) ∧
    isNext (exec (.schedBankEccError 0) (calLoading Cb.verifying calImage)) (calFail 0 (Code.eccUncorrectable, 0x11) (calLoading Cb.verifying calImage)) ∧
    (arming 0).cal.swapReq = some (0, 100) ∧ (arming 0).calState 0 = Cb.standby ∧
    isNext (exec (.schedBankEccError 0) (arming 0)) (complete .sched Code.eccUncorrectable 0x11
      (calTo 0 Cb.invalid { arming 0 with cal := { (arming 0).cal with swapReq := none } })) ∧
    (armedAt 100).cal.armed.find? (fun a => a.1 == 0) = some (0, 100) ∧
    gives (exec (.schedBankEccError 0) (armedAt 100)) (fun t => t.calState 0 == Cb.invalid) = true := by decide +kernel
theorem witness_BadArrivalsAreHandled_match : (onAir 10 0).flowOf 0 (zeros 63) 100 = some (0, 0, 0) ∧
    isNext (exec (.flowMatch 0 (zeros 63) 100 fec0 .agree) (onAir 10 0)) ((countRx 0 63 fec0 (onAir 10 0)).inc (lineCtr 0 3)) ∧
    (onAir 10 1).flowOf 0 first64 100 = some (0, 0, 0) ∧ (onAir 10 1).halted = true ∧
    gives (exec (.flowMatch 0 first64 100 fec0 .agree) (onAir 10 1)) (fun t => t.rd (R.schedCtr 8) == 1) ∧
    windowAt ((onAir 10 0).calImg 0) 0 101 = none ∧
    gives (exec (.flowMatch 0 first64 101 fec0 .agree) (onAir 10 0)) (fun t => t.rd (R.schedFlowCtr 0 1) == 1) = true := by decide +kernel
theorem witness_BadArrivalsAreHandled_cut :
    gives (exec (.schedFrameTail 0 (zeros 177) .cut fec0) (receiving 0)) (fun u => smapFind 0 u.line.rx == none &&
      u.txFrameOf 0 == some { held 0 240 true with stomp := true }) ∧
    gives (exec (.schedFrameTail 0 (zeros 10) .cut fec0) (receiving 1)) (fun u => u.txFrameOf 0 == some { held 1 74 true with stomp := true }) ∧
    gives (exec (.schedFrameTail 0 (zeros 10) .cut fec0) (receiving 0)) (fun u => u.txFrameOf 0 == some (held 0 0 true)) = true := by
  decide +kernel
theorem witness_BadArrivalsAreHandled_cells :
    isNext (exec (.schedCellReceive .ok .agree) (cellWaits (onAir 0 1) 0)) (onAir 0 1) ∧
    (cellWaits (onAir 0 0) 1).rxSlot { lane := 0, pos := 18, cell := schedCell 1, bad := false } = none ∧
    isNext (exec (.schedCellReceive .ok .agree) (cellWaits (onAir 0 0) 1)) ((onAir 0 0).inc (R.schedCtr 4)) = true := by decide +kernel
theorem witness_BadArrivalsAreHandled_releases :
    let part := { rxWhole false with last := none }
    (onAir 100 0).relDue 0 0 = some 0 ∧ part.complete = false ∧ (rxWhole true).complete = true ∧
    isNext (exec (.schedRelease 0 0 .agree) (onAir 100 0)) (relOver 0 0 0 0 none ((onAir 100 0).inc (R.schedCtr 5))) ∧
    isNext (exec (.schedRelease 0 0 .agree) (releasing part)) (relOver 0 0 0 0 none ((releasing part).inc (R.schedCtr 6))) ∧
    isNext (exec (.schedRelease 0 0 .agree) (releasing (rxWhole true))) (relOver 0 0 0 0 none ((releasing (rxWhole true)).inc (R.schedCtr 7))) =
      true := by decide +kernel
theorem witness_BadArrivalsAreHandled_fabric :
    let s := cellHeld 10239 (zeros 256)
    let d := cellHeld 0 (routed 4095)
    hecOk (zeros 256) = false ∧ gives (exec (.fabCellReceive 0 10239 (zeros 256)) s) (fun t => t.fab.ctr != [] && (t.linkGroup 0).cells == []) ∧
    gives (exec (.fabCellReceive 0 10239 (zeros 256)) unread) (fun t => t.fab.ctr != []) ∧
    cellDest (routed 4095) ≠ d.devIndex ∧ gives (exec (.fabCellReceive 0 0 (routed 4095)) d) (fun t => t.fab.ctr != []) ∧
    crc8 (toBe 7 0) ≠ 1 ∧ gives (exec (.fabMsgReceive 0 1) unread) (fun t => t.fab.ctr != []) ∧
    gives (exec (.fabMsgReceive 0 1) (setGroup 0 { emptyGroup with inMsgs := [(0, 1)] } (group0 lab))) (fun t => t.fab.ctr != []) = true := by
  decide +kernel
theorem witness_BadArrivalsAreHandled_frames : fawErrors (frame badFaw 7) = 1 ∧
    isNext (exec (.fabFrameReceive 0 5 (frame badFaw 7)) (lane0 0 lab)) (lane0 0 lab) ∧
    isNext (exec (.fabFrameReceive 0 5 (frame faw 9)) presync) (toHunt 0 presync) ∧
    gives (exec (.twinRecordReceive 119 (zeros 256)) (twin 3 2)) (fun t => t.fab.ctr != []) = true := by decide +kernel
theorem witness_BadArrivalsAreHandled_burin :
    let s := queuedEv 1 (store 0 (sessionOf (labCtx 1 1)))
    let n := queuedEv 0 (store 0 (sessionOf (labCtx 1 0)))
    ctxFaulted (s.ctxOf 5) = true ∧ nbit (n.dispWord 0) 31 = false ∧ s.opHeld 1 = false ∧
    gives (exec (.burinEventStart 63 5 .ok) s) (fun t => t.burin.queue == [] && t.rd (R.burinCtr 7) == 1) ∧
    gives (exec (.burinEventStart 63 5 .ok) n) (fun t => t.burin.queue == [] && t.rd (R.burinCtr 4) == 1) ∧
    (timed 1 8).burinRoom 5 = false ∧
    gives (exec (.burinTimerExpire 5 1) (timed 1 8)) (fun t => t.burin.queue.length == 8 && t.rd (R.burinCtr 3) == 1) ∧
    lab.burin.verify = none ∧ lab.upd.mcNext = none ∧
    gives (exec .burinRegionSwitch { lab with burin := { lab.burin with vload := some (zeros 64) } }) (fun t => t.burin.vload == none) = true := by decide +kernel
theorem witness_BadArrivalsAreHandled_ready :
    isNext (exec .stewardReady (awaits (lab.now - msT 500 - 1))) (backStart (.undo 1 Code.timeout)
      { awaits (lab.now - msT 500 - 1) with upd := { (awaits (lab.now - msT 500 - 1)).upd with readyWait := none } }) = true ∧ (lab.now - msT 500 - 1) + msT 500 < lab.now ∧
    (awaits (lab.now - msT 500 - 1)).upd.readyWait = some (lab.now - msT 500 - 1) := by decide +kernel
theorem witness_BadArrivalsAreHandled_boot :
    let s := State.reset.setFld R.bootState F.bootStateStage 3
    s.boot.failed = false ∧ s.stage = 3 ∧ s.ownerOf = none ∧ (booting 6 false).upd.bcr.trial = false ∧
    (slotFail (booting 6 false) 7 (booting 6 false).upd.run.slot).isSome = true ∧
    (slotFail (booting 9 false) 10 (booting 9 false).upd.run.slot).isSome = true ∧
    gives (exec .bootImageLoad (booting 6 false)) (fun t => t.boot.failed) ∧
    gives (exec .bootPlateLoad (booting 9 false)) (fun t => t.boot.failed) = true := by decide +kernel
theorem witness_BadArrivalsAreHandled_bridge :
    gives (exec (.bridgeFlitReceive 0 47 2 true (zeros 64)) (bridged (br 3 [] []))) (fun t => t.brFT.got == [] && t.outs == [.bridgeAck 0 2]) ∧
    (br 3 [] []).mayCarry 47 3 = true ∧
    gives (exec (.bridgeFlitReceive 0 47 3 false (zeros 64)) (bridged (br 3 [] []))) (fun t => t.outs.head? == some (.bridgeNak 0 47 3) &&
      t.brFT.got == []) = true := by decide +kernel
theorem witness_BadArrivalsAreHandled_rail : ((asked 3 lab.now).rail 1).due = [] ∧
    gives (exec (.avsReadback 1 861) (asked 3 lab.now)) (fun t => t.flag (R.pwrRailStat 1) F.pwrRailStatAvsFault && !(t.rail 1).open_) =
      true := by decide +kernel
theorem witness_BadArrivalsAreHandled_line :
    let full := setStream 0 { emptyReorder with next := 32768 } onPort
    onPort.rxFree 0 = true ∧ onPort.curBad 0 = false ∧ onPort.segMatches 0 (zeros 64) = false ∧
    isNext (exec (.headerSegmentArrive 0 (zeros 63) true false fec0) onPort) ((countRx 0 63 fec0 onPort).inc (R.lineCtr 0 3)) ∧
    isNext (exec (.headerSegmentArrive 0 (zeros 64) true true fec0) onPort) ((countRx 0 64 fec0 onPort).inc (R.lineCtr 0 2)) ∧
    (full.stream 0).outstanding = 32768 ∧
    isNext (exec (.headerSegmentArrive 0 (zeros 64) true false fec0) full) ((countRx 0 64 fec0 full).inc (R.lineCtr 0 6)) ∧
    nextPipe (portUp lab) (portUp lab).line.rr = none ∧
    isNext (exec (.headerSegmentArrive 0 (zeros 64) true false fec0) (portUp lab)) ((countRx 0 64 fec0 (portUp lab)).inc (R.lineCtr 0 5)) ∧
    (paused 2).pauseMode 0 ≠ 1 ∧
    isNext (exec (.pauseFrameReceive 0 64 false 1 fec0) (paused 2)) ((countRx 0 64 fec0 (paused 2)).inc (R.lineCtr 0 8)) = true := by
  decide +kernel
theorem witness_BadArrivalsAreHandled_order :
    let s := setPkt 7 { inPipe (some 0) (zeros 60) with place := .done, seq := 65535, bad := some .fcs } (reordering 65534)
    (reordering 0).donePkt 0 65535 = some 7 ∧ ((reordering 0).stream 0).ahead 65535 = false ∧
    isNext (exec (.reorderArrival 0 65535) (reordering 0)) (countLate 0 (erasePkt 7 (reordering 0))) ∧
    s.donePkt 0 65535 = some 7 ∧ (s.stream 0).ahead 65535 = true ∧
    isNext (exec (.reorderArrival 0 65535) s) (holeArrives 0 65535 (countBad 0 .fcs (erasePkt 7 s))) ∧
    (macHolds (.routed 7) 2).outputHeld = true ∧
    isNext (exec (.txFrame 0) (macHolds (.routed 7) 2)) (heldFrame (erasePkt 7 (setMacQueue 0 [] (macHolds (.routed 7) 2)))) = true := by
  decide +kernel

/-! ### Events that are not due -/

theorem witness_EventsThatAreNotDue_plate : draining.draining = some 0 ∧ draining.backWaits = false ∧ draining.tagged 0 ≠ [] ∧
    isNext (exec .plateDrainEnd draining) draining ∧
    isNext (exec .plateDrainOverrun { draining with now := draining.plate.swapAt + 399999 }) { draining with now := draining.plate.swapAt + 399999 } =
      true := by decide +kernel
theorem witness_EventsThatAreNotDue_queues : (queued 0 0).headAged ((queued 0 0).que 100) = false ∧ ((queued 0 0).que 100).cb ≤ 0 ∧
    isNext (exec (.voqAgeDiscard 100) (queued 0 0)) (queued 0 0) ∧ isNext (exec (.voqPacketStart 100) (queued 0 0)) (queued 0 0) ∧
    isNext (exec (.flushTimeout 3) (flushing (lab.now - 999999999))) (flushing (lab.now - 999999999)) ∧
    0 < lab.fld R.bpmCfg F.bpmCfgFailThresh ∧ lab.bpm.unc.length = 4 ∧
    isNext (exec (.bpmStackFailed 3 false 0) lab) (countUnc 3 0 lab) = true := by decide +kernel
theorem witness_EventsThatAreNotDue_calendar :
    (arming 1).cal.swapReq = some (0, 100) ∧ (arming 1).bankSlack 0 < (arming 1).slackRaise ∧ isNext (exec .schedArm (arming 1)) (arming 1) ∧
    (onAir 0 0).relDue 0 0 = none ∧ isNext (exec (.schedRelease 0 0 .noMajority) (onAir 0 0)) (onAir 0 0) ∧
    (onAir 10 0).segMatches 0 first64 = true ∧
    isNext (exec (.headerSegmentArrive 0 first64 true false fec0) (onAir 10 0)) (onAir 10 0) ∧
    (receiving 0).schedCur 0 = some (0, held 0 64 false) ∧ (64 : Nat) + 176 ≤ (receiving 0).maxLenOf 0 0 ∧
    isNext (exec (.schedOverlen 0 (zeros 176) fec0) (receiving 0)) (markCur 0 fec0 (countFec 0 fec0 (receiving 0))) ∧
    (sendingFrame 0).calTime < pickTime 17 ∧
    isNext (exec (.cellSlotPick 0 17 [] .ok .agree) (sendingFrame 0)) (sendingFrame 0) ∧
    isNext (exec (.multiframeBoundary .agree) (onAir 16383 0)) (onAir 16383 0) ∧
    lab.framerRun = false ∧ isNext (exec (.multiframeBoundary (.outvoted 2)) lab) lab ∧
    isNext (exec .framerRun (startAt 1000000000001)) (startAt 1000000000001) = true := by decide +kernel
theorem witness_EventsThatAreNotDue_fabric :
    let later := setGroup 0 { emptyGroup with readAt := 1 } (group0 lab)
    let ahead := setLane 0 { emptyLane with txNext := 1 } (lane0 0 running)
    let latched := { lab with fab := { lab.fab with second := 100 } }
    later.fab.ref < (later.linkGroup 0).readAt ∧ isNext (exec (.groupFrameRead 0) later) later ∧
    isNext (exec (.reasmTimeout 4095 31 7) (reasm lab.now)) (reasm lab.now) ∧
    isNext (exec (.repinGuardExpire 4095) (holding (lab.now + 1))) (holding (lab.now + 1)) ∧
    latched.now / ticksPerSec ≤ latched.fab.second ∧ isNext (exec .fabPmLatch latched) latched ∧
    ahead.curFrame < (ahead.lane 0).txNext ∧ isNext (exec (.fabFrameTransmit 0) ahead) ahead = true := by decide +kernel
theorem witness_EventsThatAreNotDue_burin : (switching 0xC0).burin.vload = none ∧ (switching 0xC0).burin.verify = none ∧
    (switching 0xC0).upd.mcNext = none ∧
    isNext (exec .burinRegionSwitch (switching 0xC0)) (switching 0xC0) ∧
    isNext (exec (.burinTimerExpire 5 1) (timed 100000001 0)) (timed 100000001 0) = true := by decide +kernel
theorem witness_EventsThatAreNotDue_power :
    let fresh := { lab with now := msT 20 - 1 }
    let off := put [(R.pwrTbCfg, 0)] lab
    (asked 0 (lab.now + 1)).readDue 1 = false ∧ isNext (exec (.avsReadback 1 850) (asked 0 (lab.now + 1))) (asked 0 (lab.now + 1)) ∧
    isNext (exec .thermalStale fresh) fresh ∧
    isNext (exec (.ptpMfBoundary 0 0) (evaluating 1 (lab.now + 1))) (evaluating 1 (lab.now + 1)) ∧
    (sleepy 19999 1).sleepState (.port 95) ≤ 1 ∧ isNext (exec (.domainSleep (.port 95)) (sleepy 19999 1)) (sleepy 19999 1) ∧
    (sleepy 20000 2).wakeWanted (.port 95) = false ∧ isNext (exec (.domainWake (.port 95) 0) (sleepy 20000 2)) (sleepy 20000 2) ∧
    isNext (exec .ppsOut off) off ∧ isNext (exec .ppsInEdge off) off ∧ isNext (exec .ppsLoss off) off = true := by decide +kernel
theorem witness_EventsThatAreNotDue_twin :
    isNext (exec .twinLinkDown (heard 2 (lab.now - 32767))) (heard 2 (lab.now - 32767)) ∧
    isNext (exec .twinHealthWaitExpire (heard 2 (lab.now + 1))) (heard 2 (lab.now + 1)) = true := by decide +kernel
theorem witness_EventsThatAreNotDue_update :
    let early := { updAt Us.isOpen 0 0 with now := 600 * ticksPerSec - 1 }
    isNext (exec .updSealWaitTimeout (lockWait (lab.now - 60 * ticksPerSec + 1))) (lockWait (lab.now - 60 * ticksPerSec + 1)) ∧
    isNext (exec .updSessionLapsed early) early ∧
    isNext (exec .confirmTimerExpire (confirming 0 0)) (confirming 0 0) ∧
    isNext (exec .confirmTimerExpire (confirming 1 lab.now)) (confirming 1 lab.now) = true := by decide +kernel
theorem witness_EventsThatAreNotDue_boot : (booting 11 false).readyConds = false ∧ isNext (exec .ready (booting 11 false)) (booting 11 false) ∧
    (booting 4 true).boot.failed = true ∧ isNext (exec .bootManifestCheck (booting 4 true)) (booting 4 true) ∧
    lab.boot.failed = false ∧ isNext (exec .bootFailed lab) lab ∧
    State.reset.boot.stewardUp = false ∧ isNext (exec (.stewardFault []) State.reset) State.reset ∧
    isNext (exec .stewardRestart { lab with boot := { lab.boot with faultAt := lab.now, restarting := true } })
      { lab with boot := { lab.boot with faultAt := lab.now, restarting := true } } ∧
    47 ∈ (br 3 [] [47]).retired ∧
    isNext (exec (.bridgeFlitReceive 0 47 3 true (zeros 64)) (bridged (br 3 [] [47]))) (bridged (br 3 [] [47])) = true := by decide +kernel
theorem witness_EventsThatAreNotDue_host :
    (txRing 5 5).ringHead 0 63 = (txRing 5 5).ringTail 0 63 ∧
    isNext (exec (.pioTxDescriptor 0 63 (.data (txDesc 96)) (.data [])) (txRing 5 5)) (txRing 5 5) ∧
    isNext (exec (.rxCoalExpire 3 63) (coal (lab.now + 1))) (coal (lab.now + 1)) ∧
    isNext (exec (.xoffSignal 0 7) (pfcIs 999 [] [])) (pfcIs 999 [] []) ∧
    isNext (exec (.pfcRefresh 0 7) (pfcIs 1000 [7] [(7, lab.now + 1)])) (pfcIs 1000 [7] [(7, lab.now + 1)]) = true := by decide +kernel
theorem witness_EventsThatAreNotDue_pipelines :
    let out := piping { inPipe (some 0) [] with place := .reorder }
    let later := macHolds (.sched [1] 0 (lab.now + 1)) 0
    isNext (exec (.packetParse 7 noReads) out) out ∧ isNext (exec (.pipelineStage 7 noReads) out) out ∧
    (staged true (some ⟨[], [], 0⟩)).prog 0 0 = ⟨1, [idleStage true]⟩ ∧
    isNext (exec (.pipelineStage 7 noReads) (staged true (some ⟨[], [], 0⟩))) (staged true (some ⟨[], [], 0⟩)) ∧
    isNext (exec (.reorderTimeout 96) (skipping lab.now)) (skipping lab.now) ∧
    later.macQueue 0 = [.sched [1] 0 (lab.now + 1)] ∧ isNext (exec (.txFrame 0) later) later = true := by decide +kernel

end Sys2Proof.Tests
end

section
/-! SUPPORT. Writes of 64 bits: what the map and the checks of R11, R12 and R548 make of them, and what an error record that
is not fatal leaves of the registers. -/

namespace Sys2Proof.Machine

variable {s : State} {fn : Fn} {p off : Nat} {d : RegDesc} {ix : List Nat} {v : Word}

/-! ### What a held low half does not touch -/

@[simp] theorem dropHeld_slotHidden (r : Reg) : (dropHeld fn s).slotHidden p r ix = s.slotHidden p r ix := rfl
@[simp] theorem dropHeld_bar2Word (i : Nat) : (dropHeld fn s).bar2Word p i = s.bar2Word p i := rfl

/-! ### The registers that an error record shows in -/

/-- A write of an interrupt status register and its enable register changes these two; the messages change none. -/
theorem intWrite_rd (src0 n statOff enOff r : Nat) (stat en : Word) :
    (intWrite p src0 n statOff enOff stat en s).rd r =
      if r = enOff then en else if r = statOff then stat else s.rd r := by
  unfold intWrite
  rw [forEach_rd (fun i _ s => doIf_rd (sendMsi_rd _ _) s), State.rd_wr, State.rd_wr]

/-- Raising one of the sources 0 to 16 of a partition changes no register but its INT_STATUS. -/
theorem raiseSrc_rd_of_ne_intStatus {src r : Nat} (hsrc : src < 17) (hr : r ≠ R.intStatus p) :
    (raiseSrc p src s).rd r = s.rd r := by
  unfold raiseSrc
  rw [if_pos hsrc]
  split
  · rw [intWrite_rd, if_neg hr]
    split
    · next he => rw [he]
    · rfl
  · rfl

theorem raiseBlock_rd_of_ne_intStatus {src blk r : Nat} (hsrc : src < 17) (hr : ∀ p < 4, r ≠ R.intStatus p) :
    (raiseBlock src blk s).rd r = s.rd r :=
  forEach_rd (fun p hp s => doIf_rd (fun _ => raiseSrc_rd_of_ne_intStatus hsrc (hr p (by simp at hp; omega))) s) s

@[simp] theorem setErq_rd (e : Die) (q : List ErqRec) (r : Nat) : (setErq e q s).rd r = s.rd r := by cases e <;> rfl

/-- An error record of the F-die that is not fatal shows in ERQ_STAT_0, in ERQ_DROPPED_0 and in the interrupt status of the
partitions, and in no other register. -/
theorem report_rd_of_not_fatal {cls inst code r : Nat} {sev : Sev} {items : List (Nat × Nat)} (hsev : sev ≠ .f)
    (hstat : r ≠ R.erqStat 0) (hdrop : r ≠ R.erqDropped 0) (hint : ∀ p < 4, r ≠ R.intStatus p) :
    (report .f cls inst sev code items s).rd r = s.rd r := by
  have hf : (sev == .f) = false := by simpa using hsev
  unfold report
  simp only [hf, Bool.false_and, doIf_false, Bool.false_eq_true, if_false, Die.num]
  rw [doIf_rd (fun _ => raiseBlock_rd_of_ne_intStatus (by decide) hint)]
  split
  · exact setErq_rd ..
  · split
    · exact setErq_rd ..
    · rw [State.rd_inc_ne _ hdrop, State.rd_setFld_ne _ _ _ hstat]

theorem denied_rd {acc r : Nat} (hstat : r ≠ R.erqStat 0) (hdrop : r ≠ R.erqDropped 0)
    (hint : ∀ p < 4, r ≠ R.intStatus p) : (denied fn off acc s).rd r = s.rd r :=
  report_rd_of_not_fatal (by decide) hstat hdrop hint

theorem quiesceLog_rd {acc r : Nat} (hstat : r ≠ R.erqStat 0) (hdrop : r ≠ R.erqDropped 0)
    (hint : ∀ p < 4, r ≠ R.intStatus p) : (quiesceLog fn off acc s).rd r = s.rd r :=
  report_rd_of_not_fatal (by decide) hstat hdrop hint

/-! ### A write of 64 bits -/

/-- A register whose write the model carries out without storing the word that is written. -/
abbrev ActsOnWrite (r : Reg) : Prop :=
  r ∈ [Reg.sealLock, .updPreempt, .erqAck, .erqFatalClr, .intStatus, .intRingStatus, .intEnable, .intRingEnable]

theorem barOk_of_bar0 (h : off < 2 ^ 28) : barOk off = true := by simp [barOk]; omega
theorem inBar2_of_bar0 (h : off < 2 ^ 28) : inBar2 off = false := by simp [inBar2]; omega
theorem barOk_of_bar2 {i : Nat} (h : i < 8192) : barOk (2 ^ 28 + 8 * i) = true := by simp [barOk]; omega
theorem inBar2_of_bar2 (i : Nat) : inBar2 (2 ^ 28 + 8 * i) = true := by simp [inBar2]

/-- An aligned REG_WRITE of 8 bytes to BAR0 is a write of 64 bits. -/
theorem exec_regWrite_bar0 (hoff : off < 2 ^ 28) (hal : off % 8 = 0) :
    exec (.regWrite fn off 8 v) s = guardWf (fnOk fn) (hostWrite fn off v s) := by
  show guardWf _ _ = _
  simp [barOk_of_bar0 hoff, inBar2_of_bar0 hoff, regWrite, hal]

theorem exec_regWrite_bar0_next (hfn : fnOk fn = true) (hoff : off < 2 ^ 28) (hal : off % 8 = 0) :
    exec (.regWrite fn off 8 v) s = .next (hostWrite fn off v s) := by
  rw [exec_regWrite_bar0 hoff hal, hfn, guardWf_true]

theorem hostWrite_denied (hr : s.reached fn = true) (ha : regAt off = some (d, ix))
    (hp : permit s fn d ix true = .denied) : hostWrite fn off v s = denied fn off 1 (dropHeld fn s) :=
  access_denied hr ha hp

theorem hostWrite_cmd (hr : s.reached fn = true) (ha : regAt off = some (d, ix)) (hp : permit s fn d ix true = .ok p)
    (hc : isCmd d.reg = true) : hostWrite fn off v s = cmdWrite fn p d.reg v (dropHeld fn s) := by
  unfold hostWrite
  rw [access_ok (acc := 1) hr ha hp, if_pos hc]

theorem hostWrite_let (hr : s.reached fn = true) (ha : regAt off = some (d, ix)) (hp : permit s fn d ix true = .ok p)
    (hc : isCmd d.reg = false) : hostWrite fn off v s = letWrite fn p off d ix v (dropHeld fn s) := by
  unfold hostWrite
  rw [access_ok (acc := 1) hr ha hp, hc]
  rfl

theorem letWrite_plain (h : ¬ActsOnWrite d.reg) : letWrite fn p off d ix v s = plainWrite fn p off d ix v s := by
  unfold letWrite
  split <;> simp_all

theorem hostWrite_plain (hr : s.reached fn = true) (ha : regAt off = some (d, ix)) (hp : permit s fn d ix true = .ok p)
    (hc : isCmd d.reg = false) (hs : ¬ActsOnWrite d.reg) :
    hostWrite fn off v s = plainWrite fn p off d ix v (dropHeld fn s) := by
  rw [hostWrite_let hr ha hp hc, letWrite_plain hs]

/-! ### The checks of R11, R12 and R548 -/

theorem plainWrite_denied (hn : s.noPort d.reg ix = false)
    (h : d.locked = true ∨ d.inTable v = false ∨ writeOk s p d.reg ix v = false) :
    plainWrite fn p off d ix v s = denied fn off 1 s := by
  have hb : (d.locked || !d.inTable v || !writeOk s p d.reg ix v) = true := by
    rcases h with h | h | h <;> simp [h]
  simp [plainWrite, hn, hb]

theorem plainWrite_quiesce (hn : s.noPort d.reg ix = false)
    (h : d.locked = false ∧ d.inTable v = true ∧ writeOk s p d.reg ix v = true)
    (hq : d.changesQ (s.rd off) v = true) (hu : s.quiet d.reg ix = false) :
    plainWrite fn p off d ix v s = quiesceLog fn off 1 s := by
  obtain ⟨hl, ht, hw⟩ := h
  simp [plainWrite, hn, hl, ht, hw, hq, hu]

theorem plainWrite_stores (hn : s.noPort d.reg ix = false)
    (h : d.locked = false ∧ d.inTable v = true ∧ writeOk s p d.reg ix v = true)
    (hq : d.changesQ (s.rd off) v = false ∨ s.quiet d.reg ix = true) :
    plainWrite fn p off d ix v s = storeWrite d ix off v s := by
  obtain ⟨hl, ht, hw⟩ := h
  rcases hq with hq | hq <;> simp [plainWrite, hn, hl, ht, hw, hq]

/-- A write that passes every check is stored. -/
theorem State.Stores.hostWrite_eq (h : s.Stores fn p off d ix v) :
    hostWrite fn off v s = storeWrite d ix off v (dropHeld fn s) := by
  obtain ⟨hc, hs⟩ := h.plain
  rw [hostWrite_plain h.reached h.place h.map hc hs]
  exact plainWrite_stores h.exists_ h.writes h.still

/-! ### The statements on writes that are not stored -/

/-- Settles O56: the map's denial is recorded, and a record shows in no register but those of the error queue and the
interrupt status. -/
theorem deniedWriteChangesOnlyTheLog : Obligations.DeniedWriteChangesOnlyTheLog := by
  intro s fn off d ix v hoff hal hfn hr ha hp
  constructor
  · rw [exec_regWrite_bar0_next hfn hoff hal, hostWrite_denied hr ha hp]
  · intro r hstat hdrop hint
    rw [denied_rd hstat hdrop hint, dropHeld_rd]

/-- Settles O55: each rejection is one branch of the plain write, and both records leave the other registers alone. -/
theorem rejectedWritesAreRejectedWhole : Obligations.RejectedWritesAreRejectedWhole := by
  intro s fn p off d ix v hoff hal hfn hr ha hc hs hp hn
  have hw : exec (.regWrite fn off 8 v) s = .next (plainWrite fn p off d ix v (dropHeld fn s)) := by
    rw [exec_regWrite_bar0_next hfn hoff hal, hostWrite_plain hr ha hp hc hs]
  rw [hw]
  refine ⟨fun h => ?_, fun hl ht ho hq hu => ?_, fun hl ht ho hq => ?_, fun r hstat hdrop hint => ⟨?_, ?_⟩⟩
  · exact congrArg _ (plainWrite_denied (s := dropHeld fn s) hn h)
  · exact congrArg _ (plainWrite_quiesce (s := dropHeld fn s) hn ⟨hl, ht, ho⟩ hq hu)
  · exact congrArg _ (plainWrite_stores (s := dropHeld fn s) hn ⟨hl, ht, ho⟩ (.inl hq))
  · rw [denied_rd hstat hdrop hint, dropHeld_rd]
  · rw [quiesceLog_rd hstat hdrop hint, dropHeld_rd]

end Sys2Proof.Machine
end

section
/-! SUPPORT. O42: the rows that write one register, the registers that act on what is written, and the MSI-X table of BAR2. -/

namespace Sys2Proof.Machine

variable {s : State} {fn : Fn} {p off vec : Nat} {d : RegDesc} {ix : List Nat} {v : Word}

/-! ### The rows that write one register -/

/-- A row that writes one register stores what REG_WRITE would. -/
theorem State.Stores.row {ok : Bool} (h : s.Stores fn p off d ix v) (hok : ok = true) :
    guardWf ok (hostWrite fn off v s) = .next (storeWrite d ix off v (dropHeld fn s)) := by
  rw [hok, guardWf_true, h.hostWrite_eq]

/-! ### The registers that act on what is written -/

theorem access_congr {acc : Nat} {k k' : Nat → RegDesc → List Nat → State → State} (ha : regAt off = some (d, ix))
    (hk : ∀ p s, k p d ix s = k' p d ix s) : access fn off acc k s = access fn off acc k' s := by
  simp [access, ha, hk]

theorem exec_regWrite_sealLock : exec (.regWrite fn R.sealLock 8 v) s =
    guardWf (fnOk fn) (access fn R.sealLock 1 (fun p _ _ s => lockWrite fn p v s) s) := by
  rw [exec_regWrite_bar0 (by decide) (by decide)]
  exact congrArg _ (access_congr rfl fun _ _ => rfl)

theorem lockWrite_acquire : lockWrite fn p (setF 0 F.sealLockAcquire 1) s = lockAcquire fn p s := rfl
theorem lockWrite_release : lockWrite fn p (setF 0 F.sealLockRelease 1) s = lockRelease p s := rfl
theorem lockWrite_break : lockWrite fn p (setF 0 F.sealLockBreak 1) s = lockBreak p s := rfl

theorem regWrite_acquire :
    exec (.regWrite fn R.sealLock 8 (setF 0 F.sealLockAcquire 1)) s = exec (.sealAcquire fn) s := by
  simp only [exec_regWrite_sealLock, lockWrite_acquire]
  rfl

theorem regWrite_release :
    exec (.regWrite fn R.sealLock 8 (setF 0 F.sealLockRelease 1)) s = exec (.sealRelease fn) s := by
  simp only [exec_regWrite_sealLock, lockWrite_release]
  rfl

theorem regWrite_break :
    exec (.regWrite fn R.sealLock 8 (setF 0 F.sealLockBreak 1)) s = exec (.sealBreak fn) s := by
  simp only [exec_regWrite_sealLock, lockWrite_break]
  rfl

theorem regWrite_preempt :
    exec (.regWrite fn R.updPreempt 8 (setF 0 F.updPreemptPreempt 1)) s = exec (.updPreempt fn) s := by
  rw [exec_regWrite_bar0 (by decide) (by decide)]
  exact congrArg _ (access_congr rfl fun _ _ => rfl)

/-- A write of an opcode to TWIN_CMD is the row of that opcode; the two free values of a written command are counted. -/
theorem hostWrite_twinCmd (h : s.MayWrite fn p 15) (op : Nat) :
    hostWrite fn R.twinCmd (setF 0 F.twinCmdOpcode op) s = twinIssue fn op { s with freeCtr := s.freeCtr + 2 } := by
  obtain ⟨d, ha, hreg, hd⟩ : ∃ d, regAt R.twinCmd = some (d, []) ∧ d.reg = .twinCmd ∧
      (blockOf d.base == 15 && decide (1 < 15) && !d.perPart && d.reg != .bpmQuota) = true := ⟨_, rfl, rfl, by decide⟩
  have h' : ({ s with freeCtr := s.freeCtr + 2 } : State).MayWrite fn p 15 := ⟨⟨h.shape, h.reached, h.part⟩, h.block⟩
  unfold hostWrite twinIssue
  rw [access_block h ha (by decide) hd, access_block h' ha (by decide) hd, hreg]
  rfl

theorem exec_regWrite_twinCmd (h : s.MayWrite fn p 15) (op : Nat) :
    exec (.regWrite fn R.twinCmd 8 (setF 0 F.twinCmdOpcode op)) s =
      guardWf (fnOk fn) (twinIssue fn op { s with freeCtr := s.freeCtr + 2 }) := by
  rw [exec_regWrite_bar0 (by decide) (by decide), hostWrite_twinCmd h]

/-- The enable register of a partition's sources 0 to 16, or of its rings. -/
def intEnableReg (p : Nat) (rings : Bool) : Nat := if rings then R.intRingEnable p else R.intEnable p

/-- The bits of a written word that the enable register takes: one for each source. -/
def intEnableBits (rings : Bool) (v : Word) : Word := if rings then v else v &&& lowMask 17

theorem intWrite_enable_rd (src0 n statOff enOff r : Nat) (en : Word) :
    (intWrite p src0 n statOff enOff (s.rd statOff) en s).rd r = if r = enOff then en else s.rd r := by
  rw [intWrite_rd]
  split_ifs with h1 h2
  · rfl
  · rw [h2]
  · rfl

theorem intEnableTo_rd (rings : Bool) (r : Nat) :
    (intEnableTo p rings v s).rd r = if r = intEnableReg p rings then intEnableBits rings v else s.rd r := by
  cases rings <;> exact intWrite_enable_rd ..

theorem hostWrite_intEnable (h : s.Owns fn p) (rings : Bool) :
    hostWrite fn (intEnableReg p rings) v s = intEnableTo p rings v (dropHeld fn s) := by
  have hp := own_lt h
  obtain ⟨d, ha, hreg, hb, hd⟩ : ∃ d, regAt (intEnableReg p rings) = some (d, [p]) ∧
      d.reg = (if rings then .intRingEnable else .intEnable) ∧ blockOf d.base ≠ 0 ∧ d.perPart = true := by
    cases rings <;> interval_cases p <;> exact ⟨_, rfl, rfl, by decide, rfl⟩
  have hc : isCmd d.reg = false := by rw [hreg]; cases rings <;> rfl
  rw [hostWrite_let h.reached ha (permit_own h hb hd rfl true) hc]
  cases rings <;> simp [letWrite, hreg]

/-- An enable register takes its bits, and no other register changes. -/
theorem regWrite_intEnable (h : s.Owns fn p) (rings : Bool) :
    ∃ t, exec (.regWrite fn (intEnableReg p rings) 8 v) s = .next t ∧
      t.rd (intEnableReg p rings) = intEnableBits rings v ∧ ∀ r, r ≠ intEnableReg p rings → t.rd r = s.rd r := by
  have hp := own_lt h
  have hoff : intEnableReg p rings < 2 ^ 28 ∧ intEnableReg p rings % 8 = 0 := by
    cases rings <;> simp [intEnableReg, R.intEnable, R.intRingEnable] <;> omega
  refine ⟨intEnableTo p rings v (dropHeld fn s), ?_, ?_, fun r hr => ?_⟩
  · rw [exec_regWrite_bar0_next h.shape hoff.1 hoff.2, hostWrite_intEnable h]
  · rw [intEnableTo_rd, if_pos rfl]
  · rw [intEnableTo_rd, if_neg hr, dropHeld_rd]

/-! ### The MSI-X table of BAR2 -/

/-- A REG_WRITE of 8 bytes to word `i` of BAR2. -/
theorem exec_regWrite_bar2 {i : Nat} (h : s.Owns fn p) (hi : i < 8192) :
    exec (.regWrite fn (2 ^ 28 + 8 * i) 8 v) s = .next (bar2Write p i v (dropHeld fn s)) := by
  have hstore : bar2Store fn (8 * i) 8 v s = bar2Write p i v (dropHeld fn s) := by
    simp [bar2Store, h.reached, h.part]
  show guardWf _ _ = _
  rw [h.shape, barOk_of_bar2 hi, inBar2_of_bar2, if_pos rfl, Nat.add_sub_cancel_left, hstore]
  rfl

theorem bar2Write_address (hv : vec < 256) : bar2Write p (2 * vec) v s = setMsixWord (512 * p + 2 * vec) v s := by
  have h : ¬512 ≤ 2 * vec := by omega
  simp [bar2Write, h]

theorem bar2Write_data (hv : vec < 256) : bar2Write p (2 * vec + 1) v s =
    if bitOf v 32 then mask p vec (setMsixWord (512 * p + (2 * vec + 1)) (v &&& lowMask 32) s)
    else unmask p vec (setMsixWord (512 * p + (2 * vec + 1)) (v &&& lowMask 32) s) := by
  have h : ¬512 ≤ 2 * vec + 1 := by omega
  have h1 : (2 * vec + 1) / 2 = vec := by omega
  have h2 : (2 * vec + 1) % 2 ≠ 0 := by omega
  simp only [bar2Write, h, h1, h2, if_false]

theorem bar2Word_address (hv : vec < 256) : s.bar2Word p (2 * vec) =
    smapGet (fun _ => (0 : Word)) (512 * p + 2 * vec) s.host.msixTbl := by
  have h : 2 * vec < 512 := by omega
  simp [State.bar2Word, h]

theorem bar2Word_data (hv : vec < 256) : s.bar2Word p (2 * vec + 1) =
    setBit (smapGet (fun _ => (0 : Word)) (512 * p + (2 * vec + 1)) s.host.msixTbl) 32
      (!s.host.msixOpen.contains (256 * p + vec)) := by
  have h : 2 * vec + 1 < 512 := by omega
  have h1 : (2 * vec + 1) / 2 = vec := by omega
  have h2 : (2 * vec + 1) % 2 ≠ 0 := by omega
  simp only [State.bar2Word, h, h1, h2, if_true, if_false]

theorem setMsixWord_get (k : Nat) (w : Word) :
    smapGet (fun _ => (0 : Word)) k (setMsixWord k w s).host.msixTbl = w := smapGet_put_same

/-- A masked vector is not open. -/
theorem mask_closed : (mask p vec s).host.msixOpen.contains (256 * p + vec) = false := by
  simp [mask]

theorem doIf_emit_host (b : Bool) (f : State → Out) : (doIf b (fun s => s.emit (f s)) s).host = s.host := by
  cases b <;> rfl

theorem doIf_emit_regs (b : Bool) (f : State → Out) : (doIf b (fun s => s.emit (f s)) s).regs = s.regs := by
  cases b <;> rfl

/-- What unmasking a vector leaves of the host interface: the vector open, and no message of it pending. -/
theorem unmask_host : (unmask p vec s).host = { s.host with
    msixOpen := if s.host.msixOpen.contains (256 * p + vec) then s.host.msixOpen else s.host.msixOpen ++ [256 * p + vec]
    msixPend := s.host.msixPend.filter (· != 256 * p + vec) } := doIf_emit_host ..

theorem unmask_regs : (unmask p vec s).regs = s.regs := doIf_emit_regs ..

theorem unmask_open : (unmask p vec s).host.msixOpen.contains (256 * p + vec) = true := by
  rw [unmask_host]
  dsimp only
  split
  · assumption
  · simp

theorem unmask_not_pending : 256 * p + vec ∉ (unmask p vec s).host.msixPend := by
  simp [unmask_host]

theorem unmask_msiOut : (unmask p vec s).msiOut p vec = s.msiOut p vec := by
  simp only [State.msiOut, unmask_host]

/-- Unmasking a vector sends the message that waited. -/
theorem unmask_outs : (unmask p vec s).outs =
    (if 256 * p + vec ∈ s.host.msixPend then [(unmask p vec s).msiOut p vec] else []) ++ s.outs := by
  rw [unmask_msiOut]
  by_cases h : 256 * p + vec ∈ s.host.msixPend
  · rw [if_pos h]
    simp only [unmask, List.contains_iff_mem.2 h, doIf_true]
    rfl
  · have hc : s.host.msixPend.contains (256 * p + vec) = false := by simpa using h
    rw [if_neg h]
    simp only [unmask, hc, doIf_false]
    rfl

/-- An entry takes its address word. -/
theorem regWrite_msixAddress (h : s.Owns fn p) (hv : vec < 256) :
    ∃ t, exec (.regWrite fn (2 ^ 28 + 16 * vec) 8 v) s = .next t ∧ t.bar2Word p (2 * vec) = v ∧ t.regs = s.regs := by
  refine ⟨setMsixWord (512 * p + 2 * vec) v (dropHeld fn s), ?_, ?_, rfl⟩
  · rw [show 16 * vec = 8 * (2 * vec) by omega, exec_regWrite_bar2 h (by omega), bar2Write_address hv]
  · rw [bar2Word_address hv, setMsixWord_get]

/-- An entry takes its data with the mask bit; clearing the mask sends the message that waited. -/
theorem regWrite_msixData (h : s.Owns fn p) (hv : vec < 256) :
    ∃ t, exec (.regWrite fn (2 ^ 28 + 16 * vec + 8) 8 v) s = .next t ∧ t.regs = s.regs ∧
      t.bar2Word p (2 * vec + 1) = setBit (v &&& lowMask 32) 32 (bitOf v 32) ∧
      (bitOf v 32 = true → t.outs = s.outs) ∧
      (bitOf v 32 = false → 256 * p + vec ∉ t.host.msixPend ∧
        t.outs = (if 256 * p + vec ∈ s.host.msixPend then [t.msiOut p vec] else []) ++ s.outs) := by
  let u := setMsixWord (512 * p + (2 * vec + 1)) (v &&& lowMask 32) (dropHeld fn s)
  have hx : exec (.regWrite fn (2 ^ 28 + 16 * vec + 8) 8 v) s =
      .next (if bitOf v 32 then mask p vec u else unmask p vec u) := by
    rw [show 2 ^ 28 + 16 * vec + 8 = 2 ^ 28 + 8 * (2 * vec + 1) by omega, exec_regWrite_bar2 h (by omega),
      bar2Write_data hv]
  have hu : smapGet (fun _ => (0 : Word)) (512 * p + (2 * vec + 1)) u.host.msixTbl = v &&& lowMask 32 := setMsixWord_get ..
  refine ⟨_, hx, ?_⟩
  cases hb : bitOf v 32 with
  | true =>
    refine ⟨rfl, ?_, fun _ => rfl, nofun⟩
    rw [if_pos rfl, bar2Word_data hv, mask_closed]
    exact congrArg (setBit · 32 true) hu
  | false =>
    rw [if_neg (by decide)]
    refine ⟨unmask_regs, ?_, nofun, fun _ => ⟨unmask_not_pending, unmask_outs⟩⟩
    rw [bar2Word_data hv, unmask_open, unmask_host, hu]
    rfl

/-- Settles O42: a stored write is stored by every row that makes it, and each register that acts on what is written does what
the row of its name does. -/
theorem configurationWritesStore : Obligations.ConfigurationWritesStore := by
  intro s fn p d ix
  refine ⟨?regWrite, fun o m ho hm h => h.row (by simp [h.shape, ho, hm]), fun v h => h.row h.shape,
    fun t v ht h => h.row (by simp [h.shape, ht]), fun r k v hr hk h => h.row (by simp [h.shape, hr, hk]), ?fallback,
    ?start, ?stop, fun l v hl h => h.row (by simp [h.shape, hl]), ?trace, fun n v hn h => h.row (by simp [h.shape, hn]),
    ?ring, fun die v hd h => h.row (by simp [h.shape, hd]), fun x v hx h => h.row (by simp [h.shape, hx]),
    fun v h => h.row h.shape, ?command, fun h => ⟨exec_regWrite_twinCmd h 1, exec_regWrite_twinCmd h 2, exec_regWrite_twinCmd h 3⟩,
    ⟨regWrite_acquire, regWrite_release, regWrite_break, regWrite_preempt⟩,
    fun h v => ⟨regWrite_intEnable h false, regWrite_intEnable h true⟩,
    fun h vec v hv => ⟨regWrite_msixAddress h hv, regWrite_msixData h hv⟩⟩
  case regWrite =>
    intro off v hoff hal h
    rw [exec_regWrite_bar0_next h.shape hoff hal, h.hostWrite_eq]
  case fallback => rintro v h rfl; exact h.row h.shape
  case start => rintro v h rfl; exact h.row h.shape
  case stop => rintro v h rfl; exact h.row h.shape
  case trace => rintro l v hl h rfl; exact h.row (by simp [h.shape, hl])
  case ring =>
    intro r v hr h hp
    show guardWf _ (hostWrite fn (R.pioRingCfg ((s.partOf fn).getD 0) r) _ s) = _
    rw [hp]
    exact h.row (by simp [h.shape, hr])
  case command =>
    intro off v hoff hal hfn hr ha hc hp
    rw [exec_regWrite_bar0_next hfn hoff hal, hostWrite_cmd hr ha hp hc]

end Sys2Proof.Machine
end

section
/-! SUPPORT. O54: the word that a stored write leaves, bit by bit. -/

namespace Sys2Proof.Machine

variable {s : State} {fn : Fn} {p off i : Nat} {d : RegDesc} {ix : List Nat} {old v : Word}

/-! ### The fields of a register stand apart -/

/-- A field holds bit `i`. -/
abbrev FieldDesc.has (f : FieldDesc) (i : Nat) : Prop := f.lo ≤ i ∧ i ≤ f.hi

/-- The fields lie in the word, and no two share a bit. -/
def RegDesc.Apart (d : RegDesc) : Prop :=
  (∀ f ∈ d.fields, f.hi < 64) ∧ ∀ f ∈ d.fields, ∀ g ∈ d.fields, f = g ∨ f.hi < g.lo ∨ g.hi < f.lo

theorem findReg_mem {l : List RegDesc} (h : findReg off l = some (d, ix)) : d ∈ l := by
  induction l with
  | nil => cases h
  | cons e l ih =>
    simp only [findReg] at h
    split at h
    · exact List.mem_cons_of_mem _ (ih h)
    · split at h
      · cases h; exact List.mem_cons_self
      · exact List.mem_cons_of_mem _ (ih h)

theorem regsOfBlock_apart (b : Nat) : ∀ d ∈ regsOfBlock b, d.Apart := by
  unfold regsOfBlock RegDesc.Apart
  split <;> decide

theorem regAt_apart (h : regAt off = some (d, ix)) : d.Apart := regsOfBlock_apart _ d (findReg_mem h)

/-- Only one field holds a bit. -/
theorem RegDesc.Apart.eq_of_has (h : d.Apart) {f g : FieldDesc} (hf : f ∈ d.fields) (hg : g ∈ d.fields) (hi : f.has i)
    (hj : g.has i) : f = g := by
  obtain ⟨hi1, hi2⟩ := hi
  obtain ⟨hj1, hj2⟩ := hj
  rcases h.2 f hf g hg with he | hlt | hlt
  · exact he
  · omega
  · omega

/-! ### The bits of a mask and of the merged word -/

theorem FieldDesc.mask_bit (f : FieldDesc) (hi : i < 64) : f.mask.getLsbD i = decide (f.has i) := by
  have hw : i - f.lo < 64 := by omega
  unfold FieldDesc.mask
  rw [BitVec.getLsbD_shiftLeft, lowMask_bit hw, Bool.eq_iff_iff]
  simp only [hi, decide_true, Bool.true_and, Bool.and_eq_true, Bool.not_eq_true', decide_eq_false_iff_not,
    decide_eq_true_iff]
  unfold FieldDesc.fld fldWidth FieldDesc.has
  omega

theorem foldl_mask_bit (l : List FieldDesc) (m : Word) (hi : i < 64) :
    (l.foldl (fun m f => m ||| f.mask) m).getLsbD i = (m.getLsbD i || l.any (fun f => decide (f.has i))) := by
  induction l generalizing m with
  | nil => simp
  | cons f l ih => rw [List.foldl_cons, ih, BitVec.getLsbD_or, f.mask_bit hi, List.any_cons, Bool.or_assoc]

theorem RegDesc.maskOf_bit (d : RegDesc) (a : Access) (hi : i < 64) :
    (d.maskOf a).getLsbD i = true ↔ ∃ f ∈ d.fields, f.acc = a ∧ f.has i := by
  unfold RegDesc.maskOf
  rw [foldl_mask_bit _ _ hi]
  simp

theorem RegDesc.merge_bit (d : RegDesc) (old v : Word) (hi : i < 64) :
    (d.merge old v).getLsbD i =
      (((old.getLsbD i && !(d.maskOf .rw).getLsbD i) || (v.getLsbD i && (d.maskOf .rw).getLsbD i)) &&
        !(v.getLsbD i && (d.maskOf .w1c).getLsbD i)) := by
  simp [RegDesc.merge, hi]

/-- In the bits of a field only the mask of its own access code is set. -/
theorem RegDesc.Apart.maskOf_field (h : d.Apart) {f : FieldDesc} (hf : f ∈ d.fields) (hi : f.has i) (a : Access) :
    (d.maskOf a).getLsbD i = decide (f.acc = a) := by
  have h64 : i < 64 := lt_of_le_of_lt hi.2 (h.1 f hf)
  rw [Bool.eq_iff_iff, d.maskOf_bit a h64, decide_eq_true_iff]
  constructor
  · rintro ⟨g, hg, ha, hj⟩
    rwa [h.eq_of_has hf hg hi hj]
  · exact fun ha => ⟨f, hf, ha, hi⟩

/-- In the bits of a field the merged word follows the field's access code alone. -/
theorem RegDesc.Apart.merge_field (h : d.Apart) {f : FieldDesc} (hf : f ∈ d.fields) (hi : f.has i) :
    (d.merge old v).getLsbD i =
      (((old.getLsbD i && !decide (f.acc = .rw)) || (v.getLsbD i && decide (f.acc = .rw))) &&
        !(v.getLsbD i && decide (f.acc = .w1c))) := by
  have h64 : i < 64 := lt_of_le_of_lt hi.2 (h.1 f hf)
  rw [d.merge_bit old v h64, h.maskOf_field hf hi, h.maskOf_field hf hi]

/-- A merged write keeps the bits of no field. -/
theorem RegDesc.merge_reserved (h : ∀ f ∈ d.fields, ¬f.has i) : (d.merge old v).getLsbD i = old.getLsbD i := by
  by_cases h64 : i < 64
  · have hm : ∀ a, (d.maskOf a).getLsbD i = false := fun a => by
      rw [← Bool.not_eq_true, d.maskOf_bit a h64]
      rintro ⟨f, hf, -, hi⟩
      exact h f hf hi
    rw [d.merge_bit old v h64, hm, hm]
    simp
  · rw [BitVec.getLsbD_of_ge _ _ (by omega), BitVec.getLsbD_of_ge _ _ (by omega)]

/-! ### A stored write -/

/-- A register whose stored write has a further effect. -/
abbrev HasEffect (r : Reg) : Prop :=
  r ∈ [Reg.linePortCfg, .plateCtl, .lineOctetCfg, .asaTableCfg, .bpmQuota, .qAdmitCfg, .schedCtl, .fabCtl, .fabLaneCfg,
    .fabGroupCfg, .fabReach, .pwrCtl, .pwrWakePort, .pwrWakePair, .pwrWakeGroup, .pwrWakeBurin, .pwrTbCfg, .twinCfg, .updCfg]

theorem writeEffect_none {r : Reg} (h : ¬HasEffect r) : writeEffect r ix off old v s = s := by
  unfold writeEffect
  split <;> simp_all

theorem portOff_none {r : Reg} (h : ¬HasEffect r) : portOff r ix v s = s := by
  have hr : r ≠ .linePortCfg := fun he => h (by simp [he])
  simp [portOff, hr]

/-- Where nothing follows, the store of the merged word is all that a stored write does. -/
theorem storeWrite_no_effect (h : ¬HasEffect d.reg) :
    storeWrite d ix off v s = s.wr off (d.merge (s.rd off) v) := by
  unfold storeWrite
  rw [portOff_none h]
  exact writeEffect_none h

/-- Settles O54: fields of a register share no bit, so each bit of the merged word follows the access code of its field. -/
theorem storedWordMergesByAccess : Obligations.StoredWordMergesByAccess := by
  intro s fn p off d ix v hst
  have hd : d.Apart := regAt_apart hst.place
  refine ⟨fun h => ⟨?_, ?_⟩, fun f hf i hlo hhi => ⟨fun ha => ?_, fun ha => ?_, fun h1 h2 => ?_⟩,
    fun i h => RegDesc.merge_reserved h⟩
  · rw [storeWrite_no_effect h, dropHeld_rd]
  · rw [storeWrite_no_effect h, State.rd_wr_same, dropHeld_rd]
  · simp [hd.merge_field hf ⟨hlo, hhi⟩, ha]
  · simp [hd.merge_field hf ⟨hlo, hhi⟩, ha]
  · simp [hd.merge_field hf ⟨hlo, hhi⟩, h1, h2]

end Sys2Proof.Machine
end

section
/-! SUPPORT. Reads: what a read of 64 or of 32 bits answers and does, and the accesses of other sizes and of BAR2. -/

namespace Sys2Proof.Machine

variable {s : State} {fn : Fn} {p q off size : Nat} {d : RegDesc} {ix : List Nat} {v : Word} {r : Reg}

/-! ### A read that reaches its register -/

/-- A read by the function of partition `p` of the register at `off` passes the map and meets no hidden slot. -/
structure State.MayRead (s : State) (fn : Fn) (p off : Nat) (d : RegDesc) (ix : List Nat) : Prop where
  shape   : fnOk fn = true
  reached : s.reached fn = true
  place   : regAt off = some (d, ix)
  map     : permit s fn d ix false = .ok p
  shown   : s.slotHidden p d.reg ix = false

theorem State.MayRead.hostRead_eq (h : s.MayRead fn p off d ix) (half : Nat) :
    hostRead fn off half s = readReg fn p off half d ix (dropHeld fn s) := by
  simp [hostRead, h.reached, h.place, permit_dropHeld, h.map, h.shown]

theorem exec_readClear_bar0 (hfn : fnOk fn = true) (hoff : off < 2 ^ 28) :
    exec (.readClear fn off size) s = .next (regRead fn off size s) := by
  show guardWf _ _ = _
  simp [hfn, barOk_of_bar0 hoff, barRead, inBar2_of_bar0 hoff]

theorem exec_counterLowRead_bar0 (hfn : fnOk fn = true) (hoff : off < 2 ^ 28) :
    exec (.counterLowRead fn off) s = .next (regRead fn off 4 s) :=
  exec_readClear_bar0 (size := 4) hfn hoff

/-- An aligned read of 8 bytes. -/
theorem State.MayRead.exec_read64 (h : s.MayRead fn p off d ix) (hoff : off < 2 ^ 28) (hal : off % 8 = 0) :
    exec (.readClear fn off 8) s = .next (readReg fn p off 2 d ix (dropHeld fn s)) := by
  rw [exec_readClear_bar0 h.shape hoff]
  simp [regRead, hal, read64, h.hostRead_eq]

/-- A read of the low 4 bytes of a register. -/
theorem State.MayRead.exec_readLow (h : s.MayRead fn p off d ix) (hoff : off < 2 ^ 28) (hal : off % 8 = 0) :
    exec (.counterLowRead fn off) s = .next (readReg fn p off 0 d ix (dropHeld fn s)) := by
  have h4 : off % 4 = 0 := by omega
  have h8 : off / 8 * 8 = off := by omega
  rw [exec_counterLowRead_bar0 h.shape hoff]
  simp [regRead, h4, read32, hal, h8, h.hostRead_eq]

/-- A read of the high 4 bytes of a register. -/
theorem State.MayRead.exec_readHigh (h : s.MayRead fn p off d ix) (hoff : off < 2 ^ 28) (hal : off % 8 = 0) :
    exec (.counterLowRead fn (off + 4)) s = .next (readReg fn p off 1 d ix (dropHeld fn s)) := by
  have h4 : (off + 4) % 4 = 0 := by omega
  have h8 : (off + 4) / 8 * 8 = off := by omega
  have h1 : (off + 4) % 8 / 4 = 1 := by omega
  rw [exec_counterLowRead_bar0 h.shape (by omega)]
  simp [regRead, h4, read32, h1, h8, h.hostRead_eq]

/-! ### The answer -/

theorem readReg_whole : readReg fn p off 2 d ix s =
    readEffect d.reg ix off (s.emit (.readReply fn off (s.view fn p off d.reg ix).toNat)) := by
  cases hc : d.counter <;> simp [readReg, partWord, hc]

theorem readReg_low (hc : d.counter = false) : readReg fn p off 0 d ix s =
    readEffect d.reg ix off (s.emit (.readReply fn off ((s.view fn p off d.reg ix).toNat % 2 ^ 32))) := by
  simp [readReg, partWord, hc]

theorem readReg_high (hc : d.counter = false) : readReg fn p off 1 d ix s =
    s.emit (.readReply fn (off + 4) ((s.view fn p off d.reg ix).toNat / 2 ^ 32)) := by
  simp [readReg, partWord, hc]

/-- A counter's high half, as a function latches it. -/
def latchHigh (fn : Fn) (off high : Nat) (s : State) : State :=
  { s with host := { s.host with latch := smapInsert (4 * off + fnKey fn) high s.host.latch } }

theorem readReg_counter_low (hc : d.counter = true) : readReg fn p off 0 d ix s =
    readEffect d.reg ix off ((latchHigh fn off ((s.view fn p off d.reg ix).toNat / 2 ^ 32) s).emit
      (.readReply fn off ((s.view fn p off d.reg ix).toNat % 2 ^ 32))) := by
  simp [readReg, partWord, hc, latchHigh]

theorem readReg_counter_high_outs {high : Nat} (hc : d.counter = true)
    (hl : smapFind (4 * off + fnKey fn) s.host.latch = some high) :
    (readReg fn p off 1 d ix s).outs = .readReply fn (off + 4) high :: s.outs := by
  simp [readReg, hc, hl, State.emit]

/-! ### What follows a read -/

@[simp] theorem readEffect_outs : (readEffect r ix off s).outs = s.outs := by
  unfold readEffect
  split <;> rfl

@[simp] theorem readEffect_host : (readEffect r ix off s).host = s.host := by
  unfold readEffect
  split <;> rfl

/-- What follows in the registers does not depend on the answer. -/
theorem readEffect_emit_regs (o : Out) : (readEffect r ix off (s.emit o)).regs = (readEffect r ix off s).regs := by
  unfold readEffect
  split <;> rfl

theorem readEffect_regs (h : r ∉ [Reg.bpmSharedStat, .schedSlackMin, .pwrTbTime0]) :
    (readEffect r ix off s).regs = s.regs := by
  unfold readEffect
  split
  · rfl
  · simp at h
  · simp at h
  · simp at h
  · rfl

/-- MIN_SHARED_FREE starts again at the present SHARED_FREE. -/
theorem readEffect_minSharedFree : (readEffect .bpmSharedStat ix off s).fld off F.bpmSharedStatMinSharedFree =
    (readEffect .bpmSharedStat ix off s).fld off F.bpmSharedStatSharedFree := by
  have hlt : s.fld off F.bpmSharedStatSharedFree < 2 ^ fldWidth F.bpmSharedStatMinSharedFree := getF_lt ..
  simp only [readEffect, State.fld, State.rd_setFld_same]
  rw [getF_setF _ _ _ (by decide), getF_setF_ne _ _ _ _ (by decide) (by decide) (by decide)]
  exact Nat.mod_eq_of_lt hlt

/-- SCHED_SLACK_MIN starts again at its greatest value. -/
theorem readEffect_minSlack : (readEffect .schedSlackMin ix off s).fld off F.schedSlackMinMinSlackPs = 0x7FFFFFFF := by
  simp only [readEffect, State.fld, State.rd_setFld_same]
  rw [getF_setF _ _ _ (by decide)]
  rfl

/-- A read of PWR_TB_TIME_0 latches the high part of the same time. -/
theorem readEffect_tsHigh : (readEffect .pwrTbTime0 ix off s).fld R.pwrTbTime1 F.pwrTbTime1TsHigh =
    stampHi s.now % 2 ^ fldWidth F.pwrTbTime1TsHigh := by
  simp only [readEffect, State.fld, State.rd_setFld_same]
  exact getF_setF _ _ _ (by decide)

/-- The two-step FIFO of a port loses its head. -/
theorem readEffect_tsFifo (port : Nat) :
    smapGet (fun _ => []) port (readEffect .lineTsFifoLo [port] off s).line.tsFifo =
      (smapGet (fun _ => []) port s.line.tsFifo).tail := smapGet_put_same

/-- The register of two-step FIFO `port` is the one of its offset. -/
theorem regAt_lineTsFifoLo : ∀ port < 96,
    (regAt (R.lineTsFifoLo port)).map (fun e => (e.1.reg, e.2)) = some (.lineTsFifoLo, [port]) := by decide

/-! ### Accesses of other sizes, and reads of BAR2 -/

theorem exec_regWrite_badSize (hfn : fnOk fn = true) (hoff : off < 2 ^ 28) (h8 : ¬(size = 8 ∧ off % 8 = 0))
    (h4 : ¬(size = 4 ∧ off % 4 = 0)) : exec (.regWrite fn off size v) s = .next (badSize fn s) := by
  have hl : ¬(size = 4 ∧ off % 8 = 0) := by omega
  have hh : ¬(size = 4 ∧ off % 8 = 4) := by omega
  show guardWf _ _ = _
  simp [hfn, barOk_of_bar0 hoff, inBar2_of_bar0 hoff, regWrite, h8, hl, hh]

theorem exec_readClear_badSize (hfn : fnOk fn = true) (hoff : off < 2 ^ 28) (h8 : ¬(size = 8 ∧ off % 8 = 0))
    (h4 : ¬(size = 4 ∧ off % 4 = 0)) : exec (.readClear fn off size) s = .next (badSize fn s) := by
  rw [exec_readClear_bar0 hfn hoff]
  simp [regRead, h8, h4]

/-- Before the map is locked an access of a bad size is answered and not recorded. -/
theorem badSize_unlocked (hr : s.reached fn = true) (hl : s.locked = false) :
    badSize fn s = (dropHeld fn s).emit (.unsupported fn) := by
  have hl' : ((dropHeld fn s).emit (.unsupported fn)).locked = false := hl
  simp [badSize, hr, hl']

/-- Once the map is locked it is recorded with the partition of the function. -/
theorem badSize_locked (hr : s.reached fn = true) (hl : s.locked = true) (hp : s.partOf fn = some p) :
    badSize fn s = report .f 0x01 p .k 0x003 [] ((dropHeld fn s).emit (.unsupported fn)) := by
  have hl' : ((dropHeld fn s).emit (.unsupported fn)).locked = true := hl
  have hp' : ((dropHeld fn s).emit (.unsupported fn)).partOf fn = some p := hp
  simp [badSize, hr, hl', hp']

/-- A read of 8 bytes of word `i` of BAR2. -/
theorem exec_readClear_bar2 {i : Nat} (hfn : fnOk fn = true) (hr : s.reached fn = true) (hp : s.partOf fn = some p)
    (hi : i < 8192) : exec (.readClear fn (2 ^ 28 + 8 * i) 8) s =
      .next ((dropHeld fn s).emit (.readReply fn (2 ^ 28 + 8 * i) (s.bar2Word p i).toNat)) := by
  have hload : bar2Load fn (8 * i) 8 s =
      (dropHeld fn s).emit (.readReply fn (2 ^ 28 + 8 * i) (s.bar2Word p i).toNat) := by
    simp [bar2Load, hr, hp]
  show guardWf _ (barRead fn (2 ^ 28 + 8 * i) 8 s) = _
  unfold barRead
  rw [hfn, barOk_of_bar2 hi, inBar2_of_bar2, if_pos rfl, Nat.add_sub_cancel_left, hload]
  rfl

/-! ### The statements on reads -/

/-- Settles O53: the low half's read latches the high half, and the latch answers before the counter is looked at. -/
theorem counterHalvesAgree : Obligations.CounterHalvesAgree := by
  intro s fn p off d ix hfn hr hoff hal ha hc hp hh w
  have hm : s.MayRead fn p off d ix := ⟨hfn, hr, ha, hp, hh⟩
  refine ⟨⟨_, hm.exec_read64 (by omega) hal, ?_⟩, _, hm.exec_readLow (by omega) hal, ?_, ?_⟩
  · rw [readReg_whole, readEffect_outs]
    rfl
  · rw [readReg_counter_low hc, readEffect_outs]
    rfl
  · intro v q hlatch hrv hpv hhv
    have hmv : v.MayRead fn q off d ix := ⟨hfn, hrv, ha, hpv, hhv⟩
    have hfind : smapFind (4 * off + fnKey fn) (dropHeld fn v).host.latch = some (w / 2 ^ 32) := by
      show smapFind _ v.host.latch = _
      rw [hlatch, readReg_counter_low hc, readEffect_host]
      exact smapFind_insert_same
    exact ⟨_, hmv.exec_readHigh (by omega) hal, readReg_counter_high_outs hc hfind⟩

/-- Settles O43: every clause is the answer of a read or the effect that follows it. -/
theorem readsAnswerAndClear : Obligations.ReadsAnswerAndClear := by
  intro s fn p off d ix hfn hr hoff hal ha hp hh
  have hm : s.MayRead fn p off d ix := ⟨hfn, hr, ha, hp, hh⟩
  refine ⟨_, hm.exec_read64 hoff hal, ?_⟩
  rw [readReg_whole]
  refine ⟨?answer, ?minFree, ?minSlack, ?time, ?fifo, ?regs, ?halves, ?sizes, ?bar2⟩
  case answer => rw [readEffect_outs]; rfl
  case minFree => intro hd; rw [hd]; exact readEffect_minSharedFree
  case minSlack => intro hd; rw [hd]; exact readEffect_minSlack
  case time =>
    rintro rfl
    have hd : d.reg = .pwrTbTime0 := by
      have h : (regAt R.pwrTbTime0).map (·.1.reg) = some .pwrTbTime0 := rfl
      simpa [ha] using h
    constructor
    · show guardWf _ (hostRead fn R.pwrTbTime0 2 s) = _
      rw [hfn, guardWf_true, hm.hostRead_eq, readReg_whole]
    · rw [hd]; exact readEffect_tsHigh
  case fifo =>
    rintro port hport rfl
    obtain ⟨hd, rfl⟩ : d.reg = .lineTsFifoLo ∧ ix = [port] := by
      simpa [ha] using regAt_lineTsFifoLo port hport
    constructor
    · show guardWf _ (hostRead fn (R.lineTsFifoLo port) 2 s) = _
      rw [hfn, decide_eq_true hport, hm.hostRead_eq, readReg_whole]
      rfl
    · rw [hd]; exact readEffect_tsFifo port
  case regs => intro hd; rw [readEffect_regs hd]; rfl
  case halves =>
    intro hc
    refine ⟨⟨_, hm.exec_readLow hoff hal, ?_, ?_⟩, _, hm.exec_readHigh hoff hal, ?_, ?_⟩
    · rw [readReg_low hc, readEffect_outs]; rfl
    · rw [readReg_low hc, readEffect_emit_regs, readEffect_emit_regs]
    · rw [readReg_high hc]; rfl
    · rw [readReg_high hc]; rfl
  case sizes =>
    intro at_ size v hat h8 h4 u
    rw [exec_regWrite_badSize hfn hat h8 h4, exec_readClear_badSize hfn hat h8 h4]
    exact ⟨rfl, fun hl => by rw [badSize_unlocked hr hl], fun hl hq => by rw [badSize_locked hr hl hq]⟩
  case bar2 => exact fun i hi hq => ⟨_, exec_readClear_bar2 hfn hr hq hi, rfl, rfl⟩

end Sys2Proof.Machine
end

section
/-! SUPPORT. What interrupts, error records, ended commands and pages taken leave alone: the bridge, the boot, the update
controller, and what has left the device. -/

namespace Sys2Proof.Machine

/-- From `s` to `t` the device works beside the bridge, the boot and the update controller: these three stand, and what has
left the device stays said. -/
structure Beside (s t : State) : Prop where
  said : s.outs <:+ t.outs
  brFT : t.brFT = s.brFT
  brTF : t.brTF = s.brTF
  boot : t.boot = s.boot
  upd  : t.upd = s.upd

variable {s t u : State}

theorem Beside.refl : Beside s s := ⟨List.suffix_rfl, rfl, rfl, rfl, rfl⟩

theorem Beside.trans (h : Beside s t) (k : Beside t u) : Beside s u :=
  ⟨h.said.trans k.said, k.brFT.trans h.brFT, k.brTF.trans h.brTF, k.boot.trans h.boot, k.upd.trans h.upd⟩

theorem Beside.bridge (h : Beside s t) (dir : Nat) : t.bridge dir = s.bridge dir := by
  simp [State.bridge, h.brFT, h.brTF]

theorem Beside.backWaits (h : Beside s t) : t.backWaits = s.backWaits := by simp [State.backWaits, h.upd]

theorem Beside.doIf {f : State → State} (hf : ∀ s, Beside s (f s)) (b : Bool) : Beside s (doIf b f s) := by
  cases b
  · exact .refl
  · exact hf s

theorem Beside.forEach {α : Type} {f : α → State → State} (hf : ∀ a s, Beside s (f a s)) (as : List α) :
    Beside s (forEach as f s) := by
  unfold Machine.forEach
  induction as generalizing s with
  | nil => exact .refl
  | cons a as ih => exact (hf a s).trans ih

theorem beside_wr (off : Nat) (v : Word) : Beside s (s.wr off v) := ⟨List.suffix_rfl, rfl, rfl, rfl, rfl⟩
theorem beside_setFld (off : Nat) (f : Fld) (v : Nat) : Beside s (s.setFld off f v) := beside_wr ..
theorem beside_inc (off : Nat) : Beside s (s.inc off) := beside_wr ..
theorem beside_emit (o : Out) : Beside s (s.emit o) := ⟨List.suffix_cons .., rfl, rfl, rfl, rfl⟩

/-! ### Interrupts and error records -/

theorem beside_sendMsi (p src : Nat) : Beside s (sendMsi p src s) := by
  unfold sendMsi
  dsimp only
  split
  · exact beside_emit _
  · split
    · exact .refl
    · exact ⟨List.suffix_rfl, rfl, rfl, rfl, rfl⟩

theorem beside_intWrite (p src0 n statOff enOff : Nat) (stat en : Word) :
    Beside s (intWrite p src0 n statOff enOff stat en s) :=
  ((beside_wr ..).trans (beside_wr ..)).trans (.forEach (fun i _ => .doIf (fun _ => beside_sendMsi p (src0 + i)) _) _)

theorem beside_raiseSrc (p src : Nat) : Beside s (raiseSrc p src s) := by
  unfold raiseSrc
  split
  · split <;> exact beside_intWrite ..
  · exact .refl

theorem beside_raiseBlock (src blk : Nat) : Beside s (raiseBlock src blk s) :=
  .forEach (fun p _ => .doIf (fun _ => beside_raiseSrc p src) _) _

theorem beside_raiseRight (src right : Nat) : Beside s (raiseRight src right s) :=
  .forEach (fun p _ => .doIf (fun _ => beside_raiseSrc p src) _) _

theorem beside_raiseFatal (src : Nat) : Beside s (raiseFatal src s) := by
  refine .forEach (fun p s => ?_) _
  split
  · have hforced : ∀ u : State, Beside u { u with host := { u.host with
        forced := u.host.forced.set p (u.host.forced.getD p 0 ||| 2 ^ src) } } :=
      fun _ => ⟨List.suffix_rfl, rfl, rfl, rfl, rfl⟩
    exact ((beside_wr ..).trans (hforced _)).trans (beside_sendMsi p src)
  · exact .refl

theorem beside_setErq (d : Die) (l : List ErqRec) : Beside s (setErq d l s) := by
  cases d <;> exact ⟨List.suffix_rfl, rfl, rfl, rfl, rfl⟩

theorem beside_twinTo (st : Nat) : Beside s (twinTo st s) := by
  have hlog : ∀ l, Beside s { s with twin := { s.twin with heldLog := l } } :=
    fun _ => ⟨List.suffix_rfl, rfl, rfl, rfl, rfl⟩
  exact ((hlog _).trans (beside_setFld ..)).trans (.doIf (fun _ => beside_raiseBlock 16 15) _)

theorem beside_twinFall : Beside s (twinFall s) := by
  unfold twinFall
  split
  · exact beside_twinTo 4
  · exact .refl

/-- The record that an occurrence makes. -/
def recOf (d : Die) (cls inst : Nat) (sev : Sev) (code : Nat) (items : List (Nat × Nat)) (s : State) : ErqRec :=
  { unit := 1024 * cls + inst % 1024, code := 16384 * sev.bits + code, count := 1, stamp := s.nowOf d, last := s.nowOf d,
    ctx := ctxBytes items }

/-- A fatal record shows in ERQ_FATAL where none does. -/
def showFatal (n : Nat) (r : ErqRec) (s : State) : State :=
  doIf (!s.flag (R.erqStat n) F.erqStatFatal) (fun s =>
    forEach [0, 1, 2, 3] (fun i s => s.wr (R.erqFatal n i) (wordAt i r.bytes)) (s.setFld (R.erqStat n) F.erqStatFatal 1)) s

/-- A record is merged, queued, or dropped and counted. -/
def queueRec (d : Die) (r : ErqRec) (s : State) : State :=
  match mergeRec r.unit r.code r.stamp (s.erq d) with
  | some q => setErq d q s
  | none =>
    if (s.erq d).length < 64 then setErq d (s.erq d ++ [r]) s
    else (s.setFld (R.erqStat d.num) F.erqStatErqOvf 1).inc (R.erqDropped d.num)

theorem report_fatal_eq (d : Die) (cls inst code : Nat) (items : List (Nat × Nat)) :
    report d cls inst .f code items s = doIf (cls != 0x02) twinFall (raiseFatal d.num
      (queueRec d (recOf d cls inst .f code items s) (showFatal d.num (recOf d cls inst .f code items s) s))) := rfl

theorem report_eq_of_not_fatal {sev : Sev} (h : sev ≠ .f) (d : Die) (cls inst code : Nat) (items : List (Nat × Nat)) :
    ∃ b, report d cls inst sev code items s =
      doIf b (raiseBlock d.num 16) (queueRec d (recOf d cls inst sev code items s) s) := by
  cases sev with
  | f => exact absurd rfl h
  | c | k => exact ⟨_, rfl⟩

theorem beside_showFatal (n : Nat) (r : ErqRec) : Beside s (showFatal n r s) :=
  .doIf (fun _ => (beside_setFld ..).trans (.forEach (fun _ _ => beside_wr ..) _)) _

theorem beside_queueRec (d : Die) (r : ErqRec) : Beside s (queueRec d r s) := by
  unfold queueRec
  split
  · exact beside_setErq ..
  · split
    · exact beside_setErq ..
    · exact (beside_setFld ..).trans (beside_inc _)

theorem beside_report (d : Die) (cls inst : Nat) (sev : Sev) (code : Nat) (items : List (Nat × Nat)) :
    Beside s (report d cls inst sev code items s) := by
  by_cases hsev : sev = .f
  · rw [hsev, report_fatal_eq]
    exact ((beside_showFatal ..).trans (beside_queueRec ..)).trans
      ((beside_raiseFatal _).trans (.doIf (fun _ => beside_twinFall) _))
  · obtain ⟨b, hb⟩ := report_eq_of_not_fatal (s := s) hsev d cls inst code items
    rw [hb]
    exact (beside_queueRec ..).trans (.doIf (fun _ => beside_raiseBlock ..) b)

/-! ### Commands that end -/

theorem beside_accept (i : Ifc) (op p : Nat) : Beside s (accept i op p s) := beside_wr ..

theorem beside_doneIrq (i : Ifc) : Beside s (doneIrq i s) := by
  cases i with
  | plate | ppm | sched | twin => exact .doIf (fun _ => beside_raiseBlock ..) _
  | upd => exact .doIf (fun _ => beside_raiseRight ..) _
  | tbl p => exact .refl
  | asa p | bpm p | q p | burin p | mbx p | sealE => exact .doIf (fun _ => beside_raiseSrc ..) _

theorem beside_complete (i : Ifc) (code detail : Nat) : Beside s (complete i code detail s) :=
  (beside_wr ..).trans (beside_doneIrq i)

/-! ### Pages taken -/

theorem beside_stackIrq : Beside s (stackIrq s) := .doIf (fun _ => beside_raiseBlock 7 7) _

theorem beside_retireCheck : Beside s (retireCheck s) := by
  refine .forEach (fun i s => ?_) _
  split
  · exact (beside_setFld ..).trans beside_stackIrq
  · exact .refl

theorem beside_bpmRefresh : Beside s (bpmRefresh s) :=
  (beside_retireCheck.trans (.forEach (fun _ _ => (beside_setFld ..).trans (beside_setFld ..)) _)).trans
    (.forEach (fun _ _ => (beside_setFld ..).trans (beside_setFld ..)) _)

theorem beside_setPage (pool page : Nat) (p : PageSt) : Beside s (setPage pool page p s) :=
  ⟨List.suffix_rfl, rfl, rfl, rfl, rfl⟩

theorem beside_linkPage (pool head page : Nat) : Beside s (linkPage pool head page s) := by
  unfold linkPage
  dsimp only
  split
  · exact beside_setPage ..
  · exact .refl

theorem beside_addUsed (r pool page : Nat) : Beside s (addUsed r pool page s) := by
  unfold addUsed
  exact Beside.trans (beside_setFld (R.bpmUsed r pool) _ _) (.doIf (fun _ => beside_setFld ..) _)

/-- A page becomes a requester's own. -/
theorem beside_pageTaken (r pool page : Nat) : Beside s (bpmRefresh ((addUsed r pool page
    (setPage pool page (.used (newRec r)) s)).inc (R.bpmReqCtr r 0))) := by
  refine Beside.trans ?_ beside_bpmRefresh
  refine Beside.trans ?_ (beside_inc _)
  exact (beside_setPage ..).trans (beside_addUsed r pool page)

theorem beside_grantPage (r pool : Nat) (head : Option Nat) : Beside s (grantPage r pool head s).1 := by
  unfold grantPage
  split
  · next page _ _ =>
    refine Beside.trans ?_ (beside_pageTaken r pool page)
    cases head with
    | some h => exact beside_linkPage pool h page
    | none =>
      refine .doIf (fun _ => ?_) _
      exact ⟨List.suffix_rfl, rfl, rfl, rfl, rfl⟩
  · exact beside_inc _

theorem beside_bodyPages (r pool head n got : Nat) : Beside s (bodyPages r pool head n got s).1 := by
  induction n generalizing got s with
  | zero => exact .refl
  | succ n ih =>
    have hg : Beside s (grantPage r pool (some head) s).1 := beside_grantPage ..
    unfold bodyPages
    split
    · next e => rw [e] at hg; exact hg.trans (ih _)
    · next e => rw [e] at hg; exact hg

theorem beside_setStore (id : Nat) (k : Stored) : Beside s (setStore id k s) := ⟨List.suffix_rfl, rfl, rfl, rfl, rfl⟩

theorem beside_takeBody (id : Nat) : Beside s (takeBody id s) := by
  unfold takeBody
  split
  · next k p _ _ =>
    split
    · exact .refl
    · exact (beside_bodyPages ..).trans ((beside_setStore ..).trans (.doIf (fun _ => beside_setStore ..) _))
  · exact .refl

end Sys2Proof.Machine
end

section
/-! SUPPORT. The bridge: what a flit that arrives on its channel leaves of the direction, good or bad (R22 to R25). -/

namespace Sys2Proof.Machine

variable {s : State} {b : BridgeDir} {dir chan seq : Nat} {copy : Bytes} {f : BrFlit}

theorem smapGet_of_find {α : Type} {d : Nat → α} {k : Nat} {v : α} {m : SMap α} (h : smapFind k m = some v) :
    smapGet d k m = v := by
  induction m with
  | nil => simp [smapFind] at h
  | cons a m ih =>
    simp only [smapFind, smapGet] at h ⊢
    split at h
    · next hk => rw [if_pos hk]; exact Option.some.inj h
    · next hk => rw [if_neg hk]; exact ih h

@[simp] theorem bridge_setBridge : (setBridge dir b s).bridge dir = b := by
  unfold setBridge State.bridge
  split <;> rfl

@[simp] theorem setBridge_outs : (setBridge dir b s).outs = s.outs := by
  unfold setBridge
  split <;> rfl

@[simp] theorem bridge_emit (o : Out) : (s.emit o).bridge dir = s.bridge dir := rfl

/-! ### The sender starts flits -/

/-- Starting flits is the sender's business alone: only its queues, its count and its replay buffer change. -/
theorem BridgeDir.startN_eq (n : Nat) (b : BridgeDir) : ∃ sched routed next sent, b.startN copy n =
    { b with schedQ := sched, routedQ := routed, next := next, sent := sent } := by
  induction n generalizing b with
  | zero => exact ⟨_, _, _, _, rfl⟩
  | succ n ih => exact ih (b.start copy)

/-- Flit `seq` on its way on channel `chan`: started, with those before it, and in the replay buffer. -/
def BridgeDir.carried (chan seq : Nat) (copy : Bytes) (b : BridgeDir) : BridgeDir :=
  let c := b.started seq copy
  { c with sent := smapInsert seq (chan, ((smapFind seq c.sent).map (·.2)).getD ⟨false, none, copy⟩) c.sent }

/-- What the receiver knows is not changed by a flit on its way. -/
theorem BridgeDir.carried_receiver : (b.carried chan seq copy).expect = b.expect ∧
    (b.carried chan seq copy).waiting = b.waiting ∧ (b.carried chan seq copy).got = b.got ∧
    (b.carried chan seq copy).replays = b.replays := by
  obtain ⟨_, _, _, _, h⟩ := BridgeDir.startN_eq (copy := copy) (seq + 1 - b.next) b
  unfold BridgeDir.carried BridgeDir.started
  rw [h]
  exact ⟨rfl, rfl, rfl, rfl⟩

/-- The flit on its way: the one in the replay buffer, or the next of the sender's queues, the scheduled before the routed. -/
theorem BridgeDir.carried_sent
    (h : (seq < b.next ∧ (smapFind seq b.sent).map (·.2) = some f) ∨
      (smapFind seq b.sent = none ∧ seq = b.next ∧ f = (b.schedQ ++ b.routedQ).headD ⟨false, none, copy⟩)) :
    smapFind seq (b.carried chan seq copy).sent = some (chan, f) := by
  have hf : (smapFind seq (b.started seq copy).sent).map (·.2) = some f := by
    rcases h with ⟨hlt, hf⟩ | ⟨-, rfl, rfl⟩
    · have h0 : seq + 1 - b.next = 0 := by omega
      rwa [BridgeDir.started, h0]
    · have h1 : b.next + 1 - b.next = 1 := by omega
      rw [BridgeDir.started, h1]
      simp [BridgeDir.startN, BridgeDir.start, smapFind_insert_same]
  simp [BridgeDir.carried, hf, smapFind_insert_same]

/-- A flit that its channel may carry arrives there. -/
theorem flitReceive_carried (crcOk : Bool) (hs : (s.bridge dir).stopped = false) (hr : chan ∉ (s.bridge dir).retired)
    (hm : (s.bridge dir).mayCarry chan seq = true) : flitReceive dir chan seq crcOk copy s =
      if crcOk then flitGood dir seq copy (setBridge dir ((s.bridge dir).carried chan seq copy) s)
      else flitBad dir chan seq (setBridge dir ((s.bridge dir).carried chan seq copy) s) := by
  simp [flitReceive, hs, hr, hm, BridgeDir.carried]

/-! ### A good copy -/

theorem bridgeDrain_of_none_waiting (n : Nat) (h : b.waiting = []) : bridgeDrain n b = b := by
  cases n <;> simp [bridgeDrain, h, smapFind]

/-- The flit that is due, with none waiting behind it. -/
theorem bridgeDrain_of_due (n : Nat) (h : b.waiting = [(b.expect, f)]) :
    bridgeDrain (n + 1) b = { b with expect := b.expect + 1, waiting := [], got := b.got ++ [f] } := by
  simp only [bridgeDrain, h, smapFind, smapErase, if_true]
  exact bridgeDrain_of_none_waiting n rfl

/-- A good copy of the flit that is due is delivered and acknowledged. -/
theorem flitGood_of_due {c : Nat} (hsent : smapFind seq (s.bridge dir).sent = some (c, f))
    (hdue : seq = (s.bridge dir).expect) (hw : (s.bridge dir).waiting = []) :
    ((flitGood dir seq copy s).bridge dir).got = (s.bridge dir).got ++ [f.seen copy] ∧
    ((flitGood dir seq copy s).bridge dir).expect = seq + 1 ∧
    (flitGood dir seq copy s).outs = .bridgeAck dir seq :: s.outs := by
  unfold flitGood
  simp only [hsent, hw, smapInsert, bridge_emit, bridge_setBridge, State.emit_outs, setBridge_outs]
  rw [bridgeDrain_of_due (f := f.seen copy) _ (by rw [hdue])]
  exact ⟨rfl, by rw [hdue], trivial⟩

/-! ### A bad copy -/

theorem beside_bridgeRecord (sev : Sev) (code : Nat) : Beside s (bridgeRecord dir chan sev code s) := beside_report ..

theorem retireChannel_retired : chan ∈ ((retireChannel dir chan s).bridge dir).retired := by
  unfold retireChannel
  extract_lets b l c last t
  split
  · next h => simpa using h
  · have ht : t.bridge dir = { c with stopped := c.stopped || last } :=
      ((beside_bridgeRecord ..).bridge dir).trans bridge_setBridge
    rw [(Beside.doIf (fun _ => beside_bridgeRecord ..) last).bridge dir, ht]
    simp [c]

/-- The ninth bad copy of a flit in a row on a channel retires the channel. -/
theorem flitBad_ninth (h : smapFind seq (s.bridge dir).replays = some (chan, 8)) :
    chan ∈ ((flitBad dir chan seq s).bridge dir).retired := by
  unfold flitBad
  simp only [smapGet_of_find h, if_true]
  exact retireChannel_retired

/-! ### The pages of what has crossed -/

/-- What a flit completes takes its pages beside the bridge. -/
theorem beside_flitAndPages (crcOk : Bool) :
    Beside (flitReceive dir chan seq crcOk copy s) (flitAndPages dir chan seq crcOk copy s) :=
  .forEach (fun id _ => beside_takeBody id) _

theorem exec_bridgeFlitReceive (crcOk : Bool) (hd : dir < 2) (hc : chan < 48) (hl : copy.length = 64) :
    exec (.bridgeFlitReceive dir chan seq crcOk copy) s = .next (flitAndPages dir chan seq crcOk copy s) := by
  show guardWf _ _ = _
  simp [hd, hc, hl]

/-- A good copy of the flit that is due is delivered in its order and acknowledged. -/
theorem flitAndPages_of_due (hs : (s.bridge dir).stopped = false) (hr : chan ∉ (s.bridge dir).retired)
    (hm : (s.bridge dir).mayCarry chan seq = true)
    (hf : smapFind seq ((s.bridge dir).carried chan seq copy).sent = some (chan, f))
    (hdue : seq = (s.bridge dir).expect) (hw : (s.bridge dir).waiting = []) :
    ((flitAndPages dir chan seq true copy s).bridge dir).got = (s.bridge dir).got ++ [f.seen copy] ∧
    ((flitAndPages dir chan seq true copy s).bridge dir).expect = seq + 1 ∧
    (.bridgeAck dir seq :: s.outs) <:+ (flitAndPages dir chan seq true copy s).outs := by
  have hp := beside_flitAndPages (dir := dir) (chan := chan) (seq := seq) (copy := copy) (s := s) true
  obtain ⟨hexpect, hwaiting, hgot, -⟩ := BridgeDir.carried_receiver (b := s.bridge dir) (chan := chan) (seq := seq) (copy := copy)
  have hgood := flitGood_of_due (s := setBridge dir ((s.bridge dir).carried chan seq copy) s) (dir := dir) (copy := copy)
    (by rw [bridge_setBridge]; exact hf) (by rw [bridge_setBridge, hexpect]; exact hdue)
    (by rw [bridge_setBridge, hwaiting]; exact hw)
  rw [bridge_setBridge, hgot, setBridge_outs] at hgood
  obtain ⟨hg, he, ho⟩ := hgood
  have hrec := flitReceive_carried (copy := copy) true hs hr hm
  rw [if_pos rfl] at hrec
  rw [hrec] at hp
  exact ⟨by rw [hp.bridge, hg], by rw [hp.bridge, he], ho ▸ hp.said⟩

/-- The ninth bad copy in a row of one flit on a channel retires the channel. -/
theorem flitAndPages_ninth_bad (hs : (s.bridge dir).stopped = false) (hr : chan ∉ (s.bridge dir).retired)
    (hm : (s.bridge dir).mayCarry chan seq = true) (h8 : smapFind seq (s.bridge dir).replays = some (chan, 8)) :
    chan ∈ ((flitAndPages dir chan seq false copy s).bridge dir).retired := by
  obtain ⟨-, -, -, hreplays⟩ := BridgeDir.carried_receiver (b := s.bridge dir) (chan := chan) (seq := seq) (copy := copy)
  rw [(beside_flitAndPages false).bridge, flitReceive_carried false hs hr hm, if_neg Bool.false_ne_true]
  exact flitBad_ninth (by rw [bridge_setBridge, hreplays]; exact h8)

end Sys2Proof.Machine
end

section
/-! SUPPORT. What a rise of POR_N and a boot that failed leave (R24, R524, R531). -/

namespace Sys2Proof.Machine

variable {s : State} {off : Nat}

/-! ### A rise of POR_N -/

theorem requestRail_rd (d v : Nat) (h : off ≠ R.pwrRailStat d) : (requestRail d v s).rd off = s.rd off :=
  State.rd_setFld_ne s _ _ h

/-- The straps as BOOT_STATE shows them. -/
def strapWord (st : Straps) : Word :=
  setF (setF (setF 0 F.bootStateTwinEn (b2n st.twinEn)) F.bootStatePcieMode st.pcieMode)
    F.bootStateBootFlashSel (b2n st.flashSel)

/-- The rails aside, a rise of POR_N leaves every register but BOOT_STATE at its reset value. -/
theorem powerOn_rd (up : PowerUp) (h0 : off ≠ R.pwrRailStat 0) (h1 : off ≠ R.pwrRailStat 1) :
    (powerOn up s).rd off = if off = R.bootState
      then setF (setF (strapWord up.straps) F.bootStateState 1) F.bootStateStage 1 else regReset off := by
  have hrails : (powerOn up s).rd off =
      (stageTo 1 (bootTo 1 ((freshState up s).wr R.bootState (strapWord up.straps)))).rd off :=
    (requestRail_rd 1 _ h1).trans (requestRail_rd 0 _ h0)
  rw [hrails]
  split
  · next h =>
    subst h
    rw [stageTo, State.rd_setFld_same, bootTo, State.rd_setFld_same, State.rd_wr_same]
  · next h =>
    rw [stageTo, State.rd_setFld_ne _ _ _ h, bootTo, State.rd_setFld_ne _ _ _ h, State.rd_wr_ne _ _ h]
    rfl

theorem powerOn_bootState (up : PowerUp) : (powerOn up s).rd R.bootState =
    setF (setF (strapWord up.straps) F.bootStateState 1) F.bootStateStage 1 := by
  rw [powerOn_rd up (by decide) (by decide), if_pos rfl]

theorem powerOn_stage (up : PowerUp) : (powerOn up s).stage = 1 := by
  rw [State.stage, State.fld, powerOn_bootState, getF_setF _ _ _ (by decide)]
  rfl

theorem powerOn_bootStateOf (up : PowerUp) : (powerOn up s).bootStateOf = 1 := by
  rw [State.bootStateOf, State.fld, powerOn_bootState, getF_setF_ne _ _ _ _ (by decide) (by decide) (by decide),
    getF_setF _ _ _ (by decide)]
  rfl

theorem powerOn_pcieMode (up : PowerUp) (h : up.straps.pcieMode < 4) :
    (powerOn up s).fld R.bootState F.bootStatePcieMode = up.straps.pcieMode := by
  rw [State.fld, powerOn_bootState, getF_setF_ne _ _ _ _ (by decide) (by decide) (by decide),
    getF_setF_ne _ _ _ _ (by decide) (by decide) (by decide), strapWord,
    getF_setF_ne _ _ _ _ (by decide) (by decide) (by decide), getF_setF _ _ _ (by decide)]
  exact Nat.mod_eq_of_lt h

theorem powerOn_holder (up : PowerUp) : (powerOn up s).holder = 7 := by
  rw [State.holder, State.fld, powerOn_rd up (by decide) (by decide), if_neg (by decide)]
  decide

theorem powerOn_locked (up : PowerUp) : (powerOn up s).locked = false := by
  rw [State.locked, State.flag, State.fld, powerOn_rd up (by decide) (by decide), if_neg (by decide)]
  decide

/-- With the power failing after the last write, the flashes hold what was written. -/
theorem flashAt_zero : s.flashAt 0 = s.flash := by simp [State.flashAt]

theorem exec_powerOnReset (up : PowerUp) (h : up.straps.pcieMode < 4) :
    exec (.powerOnReset up) s = .next (powerOn up s) := by
  show guardWf _ _ = _
  rw [decide_eq_true h, guardWf_true]

/-! ### A boot that failed -/

/-- What every step of a loop keeps, the loop keeps. -/
theorem forEach_keeps {α β : Type} {f : α → State → State} (g : State → β) (hf : ∀ a s, g (f a s) = g s) (as : List α) :
    g (forEach as f s) = g s := by
  unfold forEach
  induction as generalizing s with
  | nil => rfl
  | cons a as ih => exact ih.trans (hf a s)

/-- The ports' training and the partitions' reset show in no register and leave the accepted records. -/
theorem portsOn_keeps {β : Type} (g : State → β) (htrain : ∀ port s, g (trainPort port s) = g s)
    (hreset : ∀ p x s, g (inResetSet p x s) = g s) : g (portsOn s) = g s := by
  unfold portsOn
  refine forEach_keeps g (fun port s => ?_) _
  exact (forEach_keeps g (fun p _ => hreset p _ _) _).trans (htrain port s)

theorem portsOn_rd : (portsOn s).rd off = s.rd off :=
  portsOn_keeps (fun s => s.rd off) (fun _ _ => rfl) (fun _ _ _ => rfl)

theorem portsOn_recOk : (portsOn s).host.recOk = s.host.recOk :=
  portsOn_keeps (fun s => s.host.recOk) (fun _ _ => rfl) (fun _ _ _ => rfl)

/-- The boot-failed state. -/
theorem failStage_eq (hf : s.boot.failed = true) (hb : s.bootStateOf ≠ 0x80) :
    failStage s = uartText (portsOn (bootTo 0x80 (State.setFld R.pmapLock F.pmapLockPmapLock 1
      { s with host := { s.host with recOk := [false, false, false, false] } }))) := by
  simp [failStage, hf, hb]

theorem failStage_bootStateOf (hf : s.boot.failed = true) (hb : s.bootStateOf ≠ 0x80) :
    (failStage s).bootStateOf = 0x80 := by
  rw [failStage_eq hf hb]
  show getF ((portsOn _).rd R.bootState) _ = _
  rw [portsOn_rd, bootTo, State.rd_setFld_same, getF_setF _ _ _ (by decide)]
  rfl

theorem failStage_locked (hf : s.boot.failed = true) (hb : s.bootStateOf ≠ 0x80) : (failStage s).locked = true := by
  rw [failStage_eq hf hb]
  show (getF ((portsOn _).rd R.pmapLock) _ != 0) = _
  rw [portsOn_rd, bootTo, State.rd_setFld_ne _ _ _ (by decide), State.rd_setFld_same, getF_setF _ _ _ (by decide)]
  rfl

theorem failStage_enabled (hf : s.boot.failed = true) (hb : s.bootStateOf ≠ 0x80) {p : Nat} (hp : p < 4) :
    (failStage s).enabled p = false := by
  have hrec : (failStage s).host.recOk = [false, false, false, false] := by
    rw [failStage_eq hf hb]
    exact portsOn_recOk
  rw [State.enabled, hrec]
  interval_cases p <;> simp

end Sys2Proof.Machine
end

section
/-! SUPPORT. The steward: the commands and loads that end as it stops, the record of its fault, its restart (R37, R38). -/

namespace Sys2Proof.Machine

variable {s : State} {off : Nat}

/-! ### The mailboxes of a steward that stops -/

/-- Below the interrupt registers lies no interrupt register. -/
theorem not_intReg_of_lt (h : off < R.intStatus 0) (p : Nat) : ¬IntReg p off := by
  simp only [IntReg, R.intStatus, R.intEnable, R.intRingStatus, R.intRingEnable] at h ⊢
  omega

theorem mbxStatus_lt {p : Nat} (h : p < 4) : R.mbxStatus p < R.intStatus 0 := by
  simp only [R.mbxStatus, R.intStatus]
  omega

/-- An ended command shows in its status register; the registers below the interrupt registers stand. -/
theorem complete_rd_of_lt {i : Ifc} {code detail : Nat} (h : off < R.intStatus 0) (hi : off ≠ i.status) :
    (complete i code detail s).rd off = s.rd off := by
  rw [complete, doneIrq_rd (not_intReg_of_lt h), State.rd_wr_ne _ _ hi]

/-- An ended mailbox command leaves its mailbox free. -/
theorem complete_mbx_free {p code detail : Nat} (h : p < 4) :
    (complete (.mbx p) code detail s).busy (.mbx p) = false := by
  have hrd : (complete (.mbx p) code detail s).rd (R.mbxStatus p) =
      setF (setF (setF (s.rd (R.mbxStatus p)) stCode code) stBusy 0) stDone 1 :=
    (doneIrq_rd (not_intReg_of_lt (mbxStatus_lt h)) _).trans (State.rd_wr_same ..)
  rw [State.busy, State.flag, State.fld, Ifc.status, hrd,
    getF_setF_ne _ _ _ _ (by decide) (by decide) (by decide), getF_setF _ _ _ (by decide)]
  rfl

theorem complete_mbx_free_of_free {p q code detail : Nat} (hq : q < 4) (h : s.busy (.mbx q) = false) :
    (complete (.mbx p) code detail s).busy (.mbx q) = false := by
  by_cases hpq : q = p
  · exact hpq ▸ complete_mbx_free (hpq ▸ hq)
  · have hne : R.mbxStatus q ≠ R.mbxStatus p := by
      simp only [R.mbxStatus]
      omega
    rw [State.busy, State.flag, State.fld, Ifc.status, complete_rd_of_lt (i := .mbx p) (mbxStatus_lt hq) hne]
    exact h

/-- What one turn of a loop brings about and every turn keeps stands after the loop. -/
theorem forEach_reaches {α : Type} {f : α → State → State} {Q : State → Prop} {a : α} {as : List α}
    (hset : ∀ s, Q (f a s)) (hkeep : ∀ b s, Q s → Q (f b s)) (ha : a ∈ as) : Q (forEach as f s) := by
  have hstays : ∀ (bs : List α) (u : State), Q u → Q (forEach bs f u) := fun bs => by
    induction bs with
    | nil => exact fun _ h => h
    | cons b bs ih => exact fun u h => ih _ (hkeep b u h)
  induction as generalizing s with
  | nil => cases ha
  | cons b as ih =>
    rcases List.mem_cons.1 ha with rfl | ha
    · exact hstays as _ (hset s)
    · exact ih ha

/-- The mailbox commands that wait as the steward stops end. -/
def mbxDrop (s : State) : State :=
  forEach [0, 1, 2, 3] (fun p s => doIf (s.busy (.mbx p)) (complete (.mbx p) Code.timeout 0) s) s

theorem mbxDrop_free {p : Nat} (h : p < 4) : (mbxDrop s).busy (.mbx p) = false := by
  refine forEach_reaches (Q := fun u => u.busy (.mbx p) = false) (a := p) (fun u => ?_) (fun q u hu => ?_) (by simp; omega)
  · cases hb : u.busy (.mbx p)
    · exact hb
    · exact complete_mbx_free h
  · cases u.busy (.mbx q)
    · exact hu
    · exact complete_mbx_free_of_free h hu

/-! ### The loads that end as the steward stops -/

theorem plateRefresh_rd_of_lt (h : off < R.intStatus 0) : (plateRefresh s).rd off = s.rd off := by
  refine forEach_rd (fun b _ s => State.rd_setFld_ne s _ _ ?_) s
  simp only [R.intStatus, R.plateBank] at h ⊢
  omega

theorem plateShow_rd_of_lt {b : Nat} {hdr : Bytes} (h : off < R.intStatus 0) : (plateShow b hdr s).rd off = s.rd off := by
  have hn : off ≠ R.plateBank b ∧ off ≠ R.plateId b ∧ off ≠ R.plateVer b := by
    simp only [R.intStatus, R.plateBank, R.plateId, R.plateVer] at h ⊢
    omega
  obtain ⟨hbank, hid, hver⟩ := hn
  rw [plateShow, State.rd_wr_ne _ _ hver, State.rd_wr_ne _ _ hid, State.rd_setFld_ne _ _ _ hbank]

theorem bankTo_rd_of_lt {b st : Nat} (h : off < R.intStatus 0) : (bankTo b st s).rd off = s.rd off := by
  have hbank : off ≠ R.plateBank b := by
    simp only [R.intStatus, R.plateBank] at h ⊢
    omega
  unfold bankTo
  rw [plateRefresh_rd_of_lt h]
  refine (doIf_rd (fun s => ?_) _).trans ?_
  · exact plateShow_rd_of_lt h
  · exact (doIf_rd (fun s => State.rd_setFld_ne s _ _ hbank) _).trans (State.rd_setFld_ne _ _ _ hbank)

theorem calTo_rd_of_lt {b st : Nat} (h : off < R.intStatus 0) : (calTo b st s).rd off = s.rd off := by
  have hbank : off ≠ R.schedBank b := by
    simp only [R.intStatus, R.schedBank] at h ⊢
    omega
  unfold calTo
  refine (doIf_rd (fun s => ?_) _).trans ?_
  · rw [calShow, State.rd_setFld_ne _ _ _ hbank, State.rd_setFld_ne _ _ _ hbank]
    rfl
  · exact (doIf_rd (fun s => State.rd_setFld_ne s _ _ hbank) _).trans (State.rd_setFld_ne _ _ _ hbank)

theorem ne_plateStatus_of_lt (h : off < R.intStatus 0) : off ≠ Ifc.plate.status := ne_of_lt (h.trans (by decide))
theorem ne_schedStatus_of_lt (h : off < R.intStatus 0) : off ≠ Ifc.sched.status := ne_of_lt (h.trans (by decide))
theorem ne_burinStatus_of_lt (h : off < R.intStatus 0) (p : Nat) : off ≠ (Ifc.burin p).status := by
  simp only [Ifc.status, R.intStatus, R.burinStatus] at h ⊢
  omega

theorem plateFail_rd_of_lt {b : Nat} {f : Fail} (h : off < R.intStatus 0) : (plateFail b f s).rd off = s.rd off := by
  rw [plateFail, complete_rd_of_lt h (ne_plateStatus_of_lt h), bankTo_rd_of_lt h]
  rfl

theorem calFail_rd_of_lt {b : Nat} {f : Fail} (h : off < R.intStatus 0) : (calFail b f s).rd off = s.rd off := by
  rw [calFail, complete_rd_of_lt h (ne_schedStatus_of_lt h), calTo_rd_of_lt h]
  rfl

theorem loadDrop_rd_of_lt (h : off < R.intStatus 0) : (loadDrop s).rd off = s.rd off := by
  unfold loadDrop
  split
  · rfl
  · next p _ _ => exact doIf_rd (fun _ => complete_rd_of_lt h (ne_burinStatus_of_lt h p)) _

theorem beside_plateShow (b : Nat) (hdr : Bytes) : Beside s (plateShow b hdr s) :=
  (beside_setFld ..).trans ((beside_wr ..).trans (beside_wr ..))

theorem beside_setBank (b : Nat) (k : PlateBank) : Beside s (setBank b k s) := ⟨List.suffix_rfl, rfl, rfl, rfl, rfl⟩
theorem beside_setCalImg (b : Nat) (i : Bytes) : Beside s (setCalImg b i s) := ⟨List.suffix_rfl, rfl, rfl, rfl, rfl⟩

theorem beside_plateRefresh : Beside s (plateRefresh s) := .forEach (fun _ _ => beside_setFld ..) _

theorem beside_bankTo (b st : Nat) : Beside s (bankTo b st s) := by
  unfold bankTo
  refine Beside.trans ?_ beside_plateRefresh
  refine Beside.trans ?_ (.doIf (fun _ => (beside_setBank ..).trans (beside_plateShow ..)) _)
  exact (beside_setFld ..).trans (.doIf (fun _ => beside_setFld ..) _)

theorem beside_calTo (b st : Nat) : Beside s (calTo b st s) := by
  unfold calTo
  refine Beside.trans ?_ (.doIf (fun _ => (beside_setCalImg ..).trans ((beside_setFld ..).trans (beside_setFld ..))) _)
  exact (beside_setFld ..).trans (.doIf (fun _ => beside_setFld ..) _)

theorem beside_plateFail (b : Nat) (f : Fail) : Beside s (plateFail b f s) := by
  have hload : Beside s { s with plate := { s.plate with loading := none } } := ⟨List.suffix_rfl, rfl, rfl, rfl, rfl⟩
  exact hload.trans ((beside_bankTo b Pb.invalid).trans (beside_complete ..))

theorem beside_calFail (b : Nat) (f : Fail) : Beside s (calFail b f s) := by
  have hload : Beside s { s with cal := { s.cal with loading := none } } := ⟨List.suffix_rfl, rfl, rfl, rfl, rfl⟩
  exact hload.trans ((beside_calTo b Cb.invalid).trans (beside_complete ..))

theorem beside_loadDrop : Beside s (loadDrop s) := by
  unfold loadDrop
  split
  · exact .refl
  · have hverify : Beside s { s with burin := { s.burin with verify := none } } := ⟨List.suffix_rfl, rfl, rfl, rfl, rfl⟩
    exact hverify.trans (.doIf (fun _ => beside_complete ..) _)

/-- A plate load that is being verified ends. -/
def plateDrop (s : State) : State :=
  match s.plate.loading with
  | some b => doIf (s.bankState b == Pb.verifying) (plateFail b (Code.timeout, 0x10)) s
  | none => s

/-- A calendar load that is being verified ends. -/
def calDrop (s : State) : State :=
  match s.cal.loading with
  | some b => doIf (s.calState b == Cb.verifying) (calFail b (Code.timeout, 0x10)) s
  | none => s

theorem stewardDrop_eq (s : State) : stewardDrop s = calDrop (loadDrop (plateDrop (mbxDrop s))) := rfl

theorem plateDrop_rd_of_lt (h : off < R.intStatus 0) : (plateDrop s).rd off = s.rd off := by
  unfold plateDrop
  split
  · exact doIf_rd (fun _ => plateFail_rd_of_lt h) _
  · rfl

theorem calDrop_rd_of_lt (h : off < R.intStatus 0) : (calDrop s).rd off = s.rd off := by
  unfold calDrop
  split
  · exact doIf_rd (fun _ => calFail_rd_of_lt h) _
  · rfl

theorem beside_plateDrop : Beside s (plateDrop s) := by
  unfold plateDrop
  split
  · exact .doIf (fun _ => beside_plateFail ..) _
  · exact .refl

theorem beside_calDrop : Beside s (calDrop s) := by
  unfold calDrop
  split
  · exact .doIf (fun _ => beside_calFail ..) _
  · exact .refl

theorem beside_mbxDrop : Beside s (mbxDrop s) := .forEach (fun _ _ => .doIf (fun _ => beside_complete ..) _) _

theorem beside_stewardDrop : Beside s (stewardDrop s) :=
  beside_mbxDrop.trans (beside_plateDrop.trans (beside_loadDrop.trans beside_calDrop))

/-- A steward that stops leaves every mailbox free. -/
theorem stewardDrop_free {p : Nat} (h : p < 4) : (stewardDrop s).busy (.mbx p) = false := by
  have hlt := mbxStatus_lt h
  rw [stewardDrop_eq, State.busy, State.flag, State.fld, Ifc.status, calDrop_rd_of_lt hlt, loadDrop_rd_of_lt hlt,
    plateDrop_rd_of_lt hlt]
  exact mbxDrop_free h

/-! ### A fault of the steward -/

theorem beside_calibCut (step : Nat) (b : Bytes) : Beside s (calibCut step b s) := by
  unfold calibCut
  dsimp only
  split <;> exact ⟨List.suffix_rfl, rfl, rfl, rfl, rfl⟩

theorem beside_mbxCut (c : MbxCut) : Beside s (mbxCut c s) := by
  unfold mbxCut
  extract_lets i t b passed
  split
  · exact .refl
  · exact (beside_accept ..).trans ((Beside.doIf (fun _ => beside_calibCut ..) _).trans (beside_complete ..))

theorem lateBack_of_not_waiting (h : s.backWaits = false) : lateBack s = s := by
  unfold lateBack
  split
  · next hk => simp [State.backWaits, hk] at h
  · rfl

theorem raiseFatal_rd {src : Nat} (h : ∀ p < 4, off ≠ R.intStatus p) : (raiseFatal src s).rd off = s.rd off := by
  refine forEach_rd (fun p hp s => ?_) s
  split
  · rw [sendMsi_rd]
    exact State.rd_wr_ne s _ (h p (by simp at hp; omega))
  · rfl

theorem showFatal_flag (n : Nat) (r : ErqRec) : (showFatal n r s).flag (R.erqStat n) F.erqStatFatal = true := by
  unfold showFatal
  cases hf : s.flag (R.erqStat n) F.erqStatFatal
  · have hne : ∀ i ∈ [0, 1, 2, 3], R.erqStat n ≠ R.erqFatal n i := fun i _ => by
      simp only [R.erqStat, R.erqFatal]
      omega
    rw [Bool.not_false, doIf_true, State.flag, State.fld, forEach_rd (fun i hi s => State.rd_wr_ne s _ (hne i hi)),
      State.rd_setFld_same, getF_setF _ _ _ (by decide)]
    rfl
  · exact hf

theorem queueRec_flag (d : Die) (r : ErqRec) (n : Nat) (hn : n = d.num) :
    (queueRec d r s).flag (R.erqStat n) F.erqStatFatal = s.flag (R.erqStat n) F.erqStatFatal := by
  subst hn
  unfold queueRec State.flag State.fld
  split
  · rw [setErq_rd]
  · split
    · rw [setErq_rd]
    · rw [State.rd_inc_ne _ (by simp only [R.erqStat, R.erqDropped]; omega), State.rd_setFld_same,
        getF_setF_ne _ _ _ _ (by decide) (by decide) (by decide)]

/-- The record of a steward fault. -/
def faultRecord (s : State) : State := report .f 0x02 0 .f 0x001 [] s

theorem faultRecord_eq : faultRecord s = raiseFatal 0 (queueRec .f (recOf .f 0x02 0 .f 0x001 [] s)
    (showFatal 0 (recOf .f 0x02 0 .f 0x001 [] s) s)) := rfl

/-- A steward fault is recorded as fatal. -/
theorem faultRecord_fatal : (faultRecord s).flag (R.erqStat 0) F.erqStatFatal = true := by
  have hint : ∀ p < 4, R.erqStat 0 ≠ R.intStatus p := by decide
  rw [faultRecord_eq, State.flag, State.fld, raiseFatal_rd hint]
  exact (queueRec_flag .f _ 0 rfl).trans (showFatal_flag 0 _)

theorem queueRec_rd {d : Die} {r : ErqRec} (hs : off ≠ R.erqStat d.num) (hd : off ≠ R.erqDropped d.num) :
    (queueRec d r s).rd off = s.rd off := by
  unfold queueRec
  split
  · exact setErq_rd ..
  · split
    · exact setErq_rd ..
    · rw [State.rd_inc_ne _ hd, State.rd_setFld_ne _ _ _ hs]

theorem showFatal_rd {n : Nat} {r : ErqRec} (hs : off ≠ R.erqStat n) (hf : ∀ i, off ≠ R.erqFatal n i) :
    (showFatal n r s).rd off = s.rd off :=
  doIf_rd (fun s => (forEach_rd (fun i _ s => State.rd_wr_ne s _ (hf i)) _).trans (State.rd_setFld_ne s _ _ hs)) s

/-- The registers below the interrupt registers stand. -/
theorem faultRecord_rd_of_lt (h : off < R.intStatus 0) : (faultRecord s).rd off = s.rd off := by
  have hstat : off ≠ R.erqStat 0 := ne_of_lt (h.trans (by decide))
  have hdrop : off ≠ R.erqDropped 0 := ne_of_lt (h.trans (by decide))
  have hint : ∀ p < 4, off ≠ R.intStatus p := fun p _ he => not_intReg_of_lt h p (.inl he)
  have hfatal : ∀ i, off ≠ R.erqFatal 0 i := fun i => by
    simp only [R.intStatus, R.erqFatal] at h ⊢
    omega
  rw [faultRecord_eq, raiseFatal_rd hint, queueRec_rd hstat hdrop, showFatal_rd hstat hfatal]

/-- The steward as it restarts, the mailbox commands of the fault ended. -/
def faulted (cut : List MbxCut) (s : State) : State :=
  let u := restartSteward (forEach cut mbxCut s)
  { u with boot := { u.boot with faultAt := u.now } }

/-- While no return to the confirmed set waits, a fault restarts the steward, is recorded, and does no more. -/
theorem stewardFault_eq (cut : List MbxCut) (hup : s.boot.stewardUp = true) (hr : s.boot.restarting = false)
    (hw : s.backWaits = false) : stewardFault cut s = uartText (faultRecord (faulted cut s)) := by
  have hw' : (faulted cut s).backWaits = false :=
    ((Beside.forEach (fun c _ => beside_mbxCut c) cut).trans beside_stewardDrop).backWaits.trans hw
  have hrun : stewardFault cut s = uartText (faultRecord (lateBack (faulted cut s))) := by
    simp only [stewardFault, hup, hr, Bool.not_false, Bool.and_self, if_true]
    rfl
  rw [hrun, lateBack_of_not_waiting hw']

theorem faultRecord_restarting (cut : List MbxCut) : (faultRecord (faulted cut s)).boot.restarting = true := by
  rw [faultRecord, (beside_report ..).boot]
  rfl

theorem faultRecord_free (cut : List MbxCut) {p : Nat} (h : p < 4) :
    (faultRecord (faulted cut s)).busy (.mbx p) = false := by
  rw [State.busy, State.flag, State.fld, Ifc.status, faultRecord_rd_of_lt (mbxStatus_lt h)]
  exact stewardDrop_free h

theorem exec_stewardFault (cut : List MbxCut) (hc : cut.all cutOk = true) :
    exec (.stewardFault cut) s = .next (stewardFault cut s) := by
  show guardWf _ _ = _
  rw [hc, guardWf_true]

/-- The steward is back, 5 ms after its fault at the earliest. -/
theorem stewardRestart_eq (hr : s.boot.restarting = true) (hn : s.upd.readyWait = none) (hw : s.backWaits = false)
    (ht : s.boot.faultAt + msT 5 ≤ s.now) :
    stewardRestart s = uartText { s with boot := { s.boot with restarting := false } } := by
  simp [stewardRestart, hr, hn, hw, ht]

end Sys2Proof.Machine
end

section
/-! SUPPORT. The statements on reset: O35 and O49. -/

namespace Sys2Proof.Machine

/-- Settles O49: no register stands listed, and both error queues are empty. -/
theorem resetIsSound : Obligations.ResetIsSound :=
  { regs := SMapWf.nil regReset
    erqF := Nat.zero_le 64
    erqT := Nat.zero_le 64 }

/-- Settles O35: the state after a rise of POR_N is read register by register; a fault's end of the mailbox commands and its
record work beside each other; and what a flit completes takes its pages beside the bridge. -/
theorem resetAndFaults : Obligations.ResetAndFaults := by
  intro s st cut dir chan seq flit
  refine ⟨fun hmode => ?por, fun hf hb => ?failed, fun c hc hup hr hw => ?fault, fun hr hn hw ht => ?restart,
    fun hd hc hl => ?bridge⟩
  case por =>
    refine ⟨_, exec_powerOnReset ⟨st, cut⟩ hmode, powerOn_stage _, powerOn_bootStateOf _, rfl, ?_, rfl, rfl, rfl,
      powerOn_holder _, powerOn_locked _, powerOn_pcieMode _ hmode⟩
    rintro rfl
    exact flashAt_zero
  case failed =>
    exact ⟨_, rfl, failStage_bootStateOf hf hb, failStage_locked hf hb, fun p hp => failStage_enabled hf hb hp⟩
  case fault =>
    refine ⟨_, exec_stewardFault c hc, ?_⟩
    rw [stewardFault_eq c hup hr hw]
    exact ⟨faultRecord_restarting c, faultRecord_fatal, fun p hp => faultRecord_free c hp⟩
  case restart => exact congrArg _ (stewardRestart_eq hr hn hw ht)
  case bridge =>
    intro b hs hret
    refine ⟨fun f hf hm hdue hw => ⟨_, exec_bridgeFlitReceive true hd hc hl, ?_⟩,
      fun hm h8 => ⟨_, exec_bridgeFlitReceive false hd hc hl, flitAndPages_ninth_bad hs hret hm h8⟩⟩
    exact flitAndPages_of_due hs hret hm (BridgeDir.carried_sent hf) hdue hw

end Sys2Proof.Machine
end

section
/-! SUPPORT. The commands of the plate controller: LOAD, SWAP and ABORT of a bank (R54 to R62). -/

namespace Sys2Proof.Machine

variable {s : State} {fn : Fn} {p b gen op off : Nat}

/-! ### What the acceptance of a plate command leaves alone -/

theorem taken_plate_rd {off : Nat} (h : off ≠ R.plateStatus) : (s.taken fn .plate op p).rd off = s.rd off := taken_rd h

theorem plateBank_ne_status (b : Nat) : R.plateBank b ≠ R.plateStatus := by simp only [R.plateBank, R.plateStatus]; omega

theorem bankState_taken (b : Nat) : (s.taken fn .plate op p).bankState b = s.bankState b := by
  rw [State.bankState, State.fld, taken_plate_rd (plateBank_ne_status b)]
  rfl

theorem carvingMatch_congr {t : State} (hp : t.plate = s.plate) (hb : ∀ b, t.bankState b = s.bankState b) (b : Nat) :
    t.carvingMatch b = s.carvingMatch b := by
  unfold State.carvingMatch State.holdsPlate State.bank
  simp only [hp, hb]

/-- The checks of a plate command read nothing that its acceptance writes. -/
theorem plateChecks_taken : plateChecks (s.taken fn .plate op p) op b gen = plateChecks s op b gen := by
  have hplate : (s.taken fn .plate op p).plate = s.plate := rfl
  have hcarve : (s.taken fn .plate op p).carvingMatch b = s.carvingMatch b := carvingMatch_congr hplate bankState_taken b
  have hbank : ∀ l, (s.taken fn .plate op p).rd (R.plateBank l) = s.rd (R.plateBank l) :=
    fun l => taken_plate_rd (plateBank_ne_status l)
  have hquiet : (s.taken fn .plate op p).rd R.plateQstat = s.rd R.plateQstat := taken_plate_rd (by decide)
  simp only [plateChecks, bankState_taken, hcarve, State.bankGen, State.bank, State.fld, hplate, hbank, hquiet]

/-! ### The rows -/

theorem bankGen_lt (s : State) (b : Nat) : s.bankGen b < 65536 := getF_lt ..

theorem exec_plateLoad (h : s.MayWrite fn p 2) (hr : s.right p Right.plate = true) (ht : s.Takes .plate) (hb : b < 2)
    (hg : gen < 65536) : exec (.plateLoad fn b gen) s = .next (platePerform 1 b gen (s.taken fn .plate 1 p)) := by
  show guardWf _ _ = _
  rw [plate_takes h hr ht (by decide) hb hg]
  simp [h.shape, hb, hg]

theorem exec_plateSwap (h : s.MayWrite fn p 2) (hr : s.right p Right.plate = true) (ht : s.Takes .plate) (hb : b < 2)
    (hg : gen < 65536) : exec (.plateSwap fn b gen) s = .next (platePerform 2 b gen (s.taken fn .plate 2 p)) := by
  show guardWf _ _ = _
  rw [plate_takes h hr ht (by decide) hb hg]
  simp [h.shape, hb, hg]

/-- What the plate controller does at the end of its rows waits for nothing but a return to the confirmed set. -/
theorem lateBack_of_beside {t : State} (h : Beside s t) (hw : s.backWaits = false) : lateBack t = t :=
  lateBack_of_not_waiting (h.backWaits.trans hw)

theorem beside_taken (i : Ifc) : Beside s (s.taken fn i op p) :=
  ⟨List.suffix_rfl, rfl, rfl, rfl, rfl⟩

theorem beside_plateLoading (l : Option Nat) : Beside s { s with plate := { s.plate with loading := l } } :=
  ⟨List.suffix_rfl, rfl, rfl, rfl, rfl⟩

theorem beside_plateAbort : Beside s (plateAbort b s) :=
  (beside_plateLoading none).trans ((beside_bankTo b Pb.empty).trans (beside_complete ..))

theorem exec_plateAbort (h : s.MayWrite fn p 2) (hb : b < 2) (hg : gen < 65536) {t : State}
    (hi : plateIssue fn 3 b gen s = t) (ht : Beside s t) (hw : s.backWaits = false) :
    exec (.plateAbort fn b gen) s = .next t := by
  show guardWf _ (lateBack _) = _
  rw [hi, lateBack_of_beside ht hw]
  simp [h.shape, hb, hg]

/-! ### The registers that show a bank -/

/-- A register that shows no bank: not PLATE_BANK, PLATE_ID or PLATE_VER of bank 0 or 1. -/
abbrev NoBankReg (off : Nat) : Prop := off < R.plateBank 0 ∨ R.plateVer 1 < off

theorem NoBankReg.ne (h : NoBankReg off) (hb : b < 2) : off ≠ R.plateBank b ∧ off ≠ R.plateId b ∧ off ≠ R.plateVer b := by
  simp only [NoBankReg, R.plateBank, R.plateId, R.plateVer] at h ⊢
  omega

theorem plateRefresh_rd (h : NoBankReg off) : (plateRefresh s).rd off = s.rd off :=
  forEach_rd (fun b hb s => State.rd_setFld_ne s _ _ (h.ne (by simp at hb; omega)).1) s

theorem plateShow_rd {hdr : Bytes} (h : NoBankReg off) (hb : b < 2) : (plateShow b hdr s).rd off = s.rd off := by
  obtain ⟨hbank, hid, hver⟩ := h.ne hb
  rw [plateShow, State.rd_wr_ne _ _ hver, State.rd_wr_ne _ _ hid, State.rd_setFld_ne _ _ _ hbank]

/-- A bank that changes its state shows it in its own registers alone. -/
theorem bankTo_rd {st : Nat} (h : NoBankReg off) (hb : b < 2) : (bankTo b st s).rd off = s.rd off := by
  obtain ⟨hbank, -, -⟩ := h.ne hb
  unfold bankTo
  rw [plateRefresh_rd h]
  refine (doIf_rd (fun _ => ?_) _).trans ((doIf_rd (fun s => State.rd_setFld_ne s _ _ hbank) _).trans ?_)
  · exact plateShow_rd h hb
  · exact State.rd_setFld_ne _ _ _ hbank

/-! ### The checks of LOAD, SWAP and ABORT -/

/-- A plate command that a check of R62 turns away completes with the code and detail of the check. -/
theorem platePerform_turned {f : Fail} (hr : s.boot.restarting = false) (h : firstBad (plateChecks s op b gen) = some f) :
    platePerform op b gen s = complete .plate f.1 f.2 s := by
  simp [platePerform, hr, h]

theorem plateArgsOk_congr {t : State} (h0 : t.rd R.plateArg0 = s.rd R.plateArg0) (h1 : t.rd R.plateArg1 = s.rd R.plateArg1) :
    plateArgsOk t = plateArgsOk s := by
  unfold plateArgsOk State.fld
  rw [h0, h1]

theorem platePerform_load (hb : b < 2) (hr : s.boot.restarting = false) (h : firstBad (plateChecks s 1 b gen) = none)
    (ha : plateArgsOk s = true) : platePerform 1 b gen s = bankTo b Pb.loading { s with plate := { s.plate with
      loading := some b, len := s.fld R.plateArg1 F.plateArg1Length } } := by
  have ha' : plateArgsOk (bankTo b Pb.loading { s with plate := { s.plate with
      loading := some b, len := s.fld R.plateArg1 F.plateArg1Length } }) = true :=
    (plateArgsOk_congr (bankTo_rd (by decide) hb) (bankTo_rd (by decide) hb)).trans ha
  simp only [platePerform, hr, h, Bool.and_false, Bool.false_eq_true, if_false, plateLoad, ha', if_true]

theorem platePerform_swap (h : firstBad (plateChecks s 2 b gen) = none) : platePerform 2 b gen s = plateSwap b s := by
  simp [platePerform, h]

theorem platePerform_abort (h : firstBad (plateChecks s 3 b gen) = none) : platePerform 3 b gen s = plateAbort b s := by
  simp [platePerform, h]

/-- LOAD is let through for an EMPTY or INVALID bank at its present GEN. -/
theorem plateChecks_load (hu : (s.bank b).byUpd = false) (hst : s.bankState b = Pb.empty ∨ s.bankState b = Pb.invalid) :
    firstBad (plateChecks s 1 b (s.bankGen b)) = none := by
  rcases hst with hst | hst <;> simp [plateChecks, firstBad, hst, hu, Pb.empty, Pb.invalid, Pb.draining]

/-- SWAP is let through for a PROOF that accepts what the live plate emits, where the carvings match or all is quiesced. -/
theorem plateChecks_swap (hu : (s.bank b).byUpd = false) (hst : s.bankState b = Pb.proof)
    (hmeta : ∀ l, s.plate.live = some l → s.fld (R.plateBank l) F.plateBankMetaEmit ∈ (s.bank b).metaAcc)
    (hq : s.carvingMatch b = true ∨ s.fld R.plateQstat F.plateQstatQuiesced = 0xFFFF) :
    firstBad (plateChecks s 2 b (s.bankGen b)) = none := by
  cases hl : s.plate.live with
  | none => rcases hq with hq | hq <;> simp [plateChecks, firstBad, hst, hu, hl, hq, Pb.proof, Pb.draining]
  | some l =>
    have hm := hmeta l hl
    rcases hq with hq | hq <;> simp [plateChecks, firstBad, hst, hu, hl, hq, hm, Pb.proof, Pb.draining]

/-- ABORT is let through for a bank that is loaded, verified or holds a proof. -/
theorem plateChecks_abort (hu : (s.bank b).byUpd = false)
    (hst : s.bankState b = Pb.loading ∨ s.bankState b = Pb.verifying ∨ s.bankState b = Pb.proof) :
    firstBad (plateChecks s 3 b (s.bankGen b)) = none := by
  rcases hst with hst | hst | hst <;> simp [plateChecks, firstBad, hst, hu, Pb.loading, Pb.verifying, Pb.proof, Pb.draining]

/-- An ABORT of the load in progress is taken while the interface is BUSY (R58). -/
theorem plateIssue_abortsLoad (h : s.MayWrite fn p 2) (hr : s.right p Right.plate = true) (hbusy : s.busy .plate = true)
    (hb : b < 2) (hl : s.plate.loading = some b) :
    plateIssue fn 3 b (s.bankGen b) s = plateAbort b (s.taken fn .plate 3 p) := by
  let w := setF (setF (setF 0 F.plateCmdOpcode 3) F.plateCmdBank b) F.plateCmdGen (s.bankGen b)
  have hop : getF w F.plateCmdOpcode = 3 := by
    rw [getF_setF_ne _ _ _ _ (by decide) (by decide) (by decide), getF_setF_ne _ _ _ _ (by decide) (by decide) (by decide)]
    exact getF_one _ _ (by decide) (by decide)
  have hbank : getF w F.plateCmdBank = b := by
    rw [getF_setF_ne _ _ _ _ (by decide) (by decide) (by decide)]
    exact getF_last _ _ _ (by decide) hb
  have hgen : getF w F.plateCmdGen = s.bankGen b := getF_last _ _ _ (by decide) (bankGen_lt s b)
  have hd : ((dropHeld fn s).busy .plate && abortsLoad (dropHeld fn s) 3 b (s.bankGen b)) = true := by
    rw [dropHeld_busy, hbusy, abortsLoad]
    simp [dropHeld, hl, State.bankGen, State.fld, State.rd]
  unfold plateIssue
  rw [access_block h (d := _) (ix := _) rfl (by decide) (by decide)]
  unfold plateCommand
  simp only [w] at hop hbank hgen
  simp only [hop, hbank, hgen, dropHeld_right, hr, hd, Bool.not_true, Bool.false_eq_true, if_false, if_true] <;> rfl

/-- Settles O4: each command passes the checks of R62, which its acceptance leaves as they were. -/
theorem plateCommandsRun : Obligations.PlateCommandsRun := by
  intro s fn p b h hr hb hu
  have hg := bankGen_lt s b
  have htaken : ∀ {op gen}, firstBad (plateChecks s op b gen) = none →
      firstBad (plateChecks (s.taken fn .plate op p) op b gen) = none := fun hc => by rw [plateChecks_taken, hc]
  refine ⟨fun ht hst hrest ha => ?load, fun ht hst hlive hq => ?first, fun l ht hst hlive hq hm => ?swap, fun hw hst => ?abort⟩
  case load =>
    have hargs : plateArgsOk (s.taken fn .plate 1 p) = true :=
      (plateArgsOk_congr (taken_plate_rd (by decide)) (taken_plate_rd (by decide))).trans ha
    have hlen : (s.taken fn .plate 1 p).fld R.plateArg1 F.plateArg1Length = s.fld R.plateArg1 F.plateArg1Length := by
      rw [State.fld, taken_plate_rd (by decide)]
      rfl
    rw [exec_plateLoad h hr ht hb hg, platePerform_load hb (s := s.taken fn .plate 1 p) hrest (htaken (plateChecks_load hu hst)) hargs, hlen]
    rfl
  case first =>
    rw [exec_plateSwap h hr ht hb hg,
      platePerform_swap (htaken (plateChecks_swap hu hst (by simp [hlive]) (.inr hq)))]
    rfl
  case swap =>
    rw [exec_plateSwap h hr ht hb hg,
      platePerform_swap (htaken (plateChecks_swap hu hst (by simp [hlive, hm]) hq))]
    rfl
  case abort =>
    have hbeside : Beside s (plateAbort b (s.taken fn .plate 3 p)) := (beside_taken .plate).trans beside_plateAbort
    refine exec_plateAbort h hb hg (t := plateAbort b (s.taken fn .plate 3 p)) ?_ hbeside hw
    rcases hst with ⟨ht, hst⟩ | ⟨hbusy, hl⟩
    · rw [plate_takes h hr ht (by decide) hb hg, platePerform_abort (htaken (plateChecks_abort hu hst))]
    · exact plateIssue_abortsLoad h hr hbusy hb hl

end Sys2Proof.Machine
end

section
/-! SUPPORT. What an interrupt, an ended command and a bank's change of state change. -/

namespace Sys2Proof.Machine

variable {s t u : State} {b l off : Nat}

/-! ### Interrupts change registers, the host interface and what has left the device, and nothing else -/

/-- From `s` to `t` only registers, the host interface and what has left the device differ. -/
def Signals (s t : State) : Prop := ∃ regs host outs, t = { s with regs := regs, host := host, outs := outs }

theorem Signals.refl : Signals s s := ⟨_, _, _, rfl⟩

theorem Signals.trans (h : Signals s t) (k : Signals t u) : Signals s u := by
  obtain ⟨_, _, _, rfl⟩ := h
  obtain ⟨_, _, _, rfl⟩ := k
  exact ⟨_, _, _, rfl⟩

theorem Signals.doIf {f : State → State} (hf : ∀ s, Signals s (f s)) (c : Bool) : Signals s (doIf c f s) := by
  cases c
  · exact .refl
  · exact hf s

theorem Signals.forEach {α : Type} {f : α → State → State} (hf : ∀ a s, Signals s (f a s)) (as : List α) :
    Signals s (forEach as f s) := by
  unfold Machine.forEach
  induction as generalizing s with
  | nil => exact .refl
  | cons a as ih => exact (hf a s).trans ih

theorem signals_wr (off : Nat) (v : Word) : Signals s (s.wr off v) := ⟨_, _, _, rfl⟩
theorem signals_setFld (off : Nat) (f : Fld) (v : Nat) : Signals s (s.setFld off f v) := signals_wr ..
theorem signals_inc (off : Nat) : Signals s (s.inc off) := signals_wr ..

theorem signals_sendMsi (p src : Nat) : Signals s (sendMsi p src s) := by
  unfold sendMsi
  dsimp only
  split
  · exact ⟨_, _, _, rfl⟩
  · split <;> exact ⟨_, _, _, rfl⟩

theorem signals_intWrite (p src0 n statOff enOff : Nat) (stat en : Word) :
    Signals s (intWrite p src0 n statOff enOff stat en s) :=
  ((signals_wr ..).trans (signals_wr ..)).trans (.forEach (fun i _ => .doIf (fun _ => signals_sendMsi p (src0 + i)) _) _)

theorem signals_raiseSrc (p src : Nat) : Signals s (raiseSrc p src s) := by
  unfold raiseSrc
  split
  · split <;> exact signals_intWrite ..
  · exact .refl

theorem signals_raiseBlock (src blk : Nat) : Signals s (raiseBlock src blk s) :=
  .forEach (fun p _ => .doIf (fun _ => signals_raiseSrc p src) _) _

theorem signals_raiseRight (src right : Nat) : Signals s (raiseRight src right s) :=
  .forEach (fun p _ => .doIf (fun _ => signals_raiseSrc p src) _) _

theorem signals_doneIrq (i : Ifc) : Signals s (doneIrq i s) := by
  cases i with
  | plate | ppm | sched | twin => exact .doIf (fun _ => signals_raiseBlock ..) _
  | upd => exact .doIf (fun _ => signals_raiseRight ..) _
  | tbl p => exact .refl
  | asa p | bpm p | q p | burin p | mbx p | sealE => exact .doIf (fun _ => signals_raiseSrc ..) _

theorem signals_complete (i : Ifc) (code detail : Nat) : Signals s (complete i code detail s) :=
  (signals_wr ..).trans (signals_doneIrq i)

theorem signals_setErq (d : Die) (q : List ErqRec) : Signals s (setErq d q s) := by
  cases d <;> exact ⟨_, _, _, rfl⟩

/-- So does an error record that is not fatal. -/
theorem signals_report {sev : Sev} (h : sev ≠ .f) (d : Die) (cls inst code : Nat) (items : List (Nat × Nat)) :
    Signals s (report d cls inst sev code items s) := by
  obtain ⟨c, hc⟩ := report_eq_of_not_fatal (s := s) h d cls inst code items
  rw [hc]
  refine Signals.trans ?_ (.doIf (fun _ => signals_raiseBlock ..) c)
  unfold queueRec
  split
  · exact signals_setErq ..
  · split
    · exact signals_setErq ..
    · exact (signals_setFld ..).trans (signals_inc _)

/-! ### Registers that no interrupt touches -/

/-- No partition's interrupt registers lie at or above those of the plate controller. -/
theorem not_intReg_of_ge (h : R.plateCmd ≤ off) : ∀ p < 4, ¬IntReg p off := by
  intro p hp
  simp only [IntReg, R.plateCmd, R.intStatus, R.intEnable, R.intRingStatus, R.intRingEnable] at h ⊢
  omega

theorem doneIrq_plate_rd (h : R.plateCmd ≤ off) : (doneIrq .plate s).rd off = s.rd off :=
  doIf_rd (raiseBlock_rd (not_intReg_of_ge h)) s

theorem complete_plate_rd {code detail : Nat} (h : R.plateCmd ≤ off) (hne : off ≠ R.plateStatus) :
    (complete .plate code detail s).rd off = s.rd off := by
  rw [complete, doneIrq_plate_rd h]
  exact State.rd_wr_ne _ _ hne

theorem complete_plate_status {code detail : Nat} :
    (complete .plate code detail s).rd R.plateStatus =
      setF (setF (setF (setF (s.rd R.plateStatus) stCode code) stBusy 0) stDone 1) stDetail detail := by
  rw [complete, doneIrq_plate_rd (by decide)]
  exact State.rd_wr_same ..

theorem complete_plate_code {code detail : Nat} (h : code < 256) :
    (complete .plate code detail s).fld R.plateStatus stCode = code := by
  rw [State.fld, complete_plate_status, getF_setF_ne _ _ _ _ (by decide) (by decide) (by decide),
    getF_setF_ne _ _ _ _ (by decide) (by decide) (by decide), getF_setF_ne _ _ _ _ (by decide) (by decide) (by decide),
    getF_setF _ _ _ (by decide)]
  exact Nat.mod_eq_of_lt h

theorem complete_plate_free {code detail : Nat} : (complete .plate code detail s).busy .plate = false := by
  rw [State.busy, State.flag, State.fld, Ifc.status, complete_plate_status,
    getF_setF_ne _ _ _ _ (by decide) (by decide) (by decide), getF_setF_ne _ _ _ _ (by decide) (by decide) (by decide),
    getF_setF _ _ _ (by decide)]
  rfl

/-! ### The state of a bank -/

/-- A field stands when a field apart from it is stored, in the same register or in another. -/
theorem State.fld_setFld_apart (s : State) (off o : Nat) (f g : Fld) (v : Nat) (hf : FldOk f) (hg : FldOk g)
    (h : f.1 < g.2 ∨ g.1 < f.2) : (s.setFld off f v).fld o g = s.fld o g := by
  by_cases ho : o = off
  · rw [ho, State.fld, State.rd_setFld_same, getF_setF_ne _ _ _ _ hf hg h]
    rfl
  · rw [State.fld, State.rd_setFld_ne _ _ _ ho]
    rfl

theorem plateRefresh_bankState : (plateRefresh s).bankState l = s.bankState l :=
  forEach_keeps (fun s => s.bankState l)
    (fun _ s => s.fld_setFld_apart _ _ _ _ _ (by decide) (by decide) (by decide)) _

theorem doIf_keeps {β : Type} {f : State → State} (g : State → β) (hf : ∀ s, g (f s) = g s) (c : Bool) (s : State) :
    g (doIf c f s) = g s := by
  cases c
  · rfl
  · exact hf s

theorem plateShow_bankState {hdr : Bytes} (hb : b < 2) (hl : l < 2) : (plateShow b hdr s).bankState l = s.bankState l := by
  have hid : R.plateBank l ≠ R.plateId b := by simp only [R.plateBank, R.plateId]; omega
  have hver : R.plateBank l ≠ R.plateVer b := by simp only [R.plateBank, R.plateVer]; omega
  rw [plateShow, State.bankState, State.fld, State.rd_wr_ne _ _ hver, State.rd_wr_ne _ _ hid]
  exact s.fld_setFld_apart _ _ _ _ _ (by decide) (by decide) (by decide)

/-- Once its state is stored, what else a bank shows leaves the states alone. -/
theorem bankTo_bankState_eq {st : Nat} (hb : b < 2) (hl : l < 2) :
    (bankTo b st s).bankState l = (s.setFld (R.plateBank b) F.plateBankState st).bankState l := by
  unfold bankTo
  rw [plateRefresh_bankState]
  refine (doIf_keeps (fun s => s.bankState l) (fun s => ?_) _ _).trans
    (doIf_keeps (fun s => s.bankState l) (fun s => s.fld_setFld_apart _ _ _ _ _ (by decide) (by decide) (by decide)) _ _)
  exact plateShow_bankState hb hl

theorem bankTo_bankState {st : Nat} (hb : b < 2) (hst : st < 16) : (bankTo b st s).bankState b = st := by
  rw [bankTo_bankState_eq hb hb, State.bankState, State.fld, State.rd_setFld_same, getF_setF _ _ _ (by decide)]
  exact Nat.mod_eq_of_lt hst

theorem bankTo_bankState_ne {st : Nat} (hb : b < 2) (hl : l < 2) (h : l ≠ b) :
    (bankTo b st s).bankState l = s.bankState l := by
  have hne : R.plateBank l ≠ R.plateBank b := by simp only [R.plateBank]; omega
  rw [bankTo_bankState_eq hb hl, State.bankState, State.fld, State.rd_setFld_ne _ _ _ hne]
  rfl

/-- Signals, and the contents of banks: what a bank's change of state changes. -/
def Rebanks (s t : State) : Prop := ∃ regs host outs banks, t = { s with
  regs := regs, host := host, outs := outs, plate := { s.plate with banks := banks } }

theorem Rebanks.trans (h : Rebanks s t) (k : Rebanks t u) : Rebanks s u := by
  obtain ⟨_, _, _, _, rfl⟩ := h
  obtain ⟨_, _, _, _, rfl⟩ := k
  exact ⟨_, _, _, _, rfl⟩

theorem Signals.rebanks (h : Signals s t) : Rebanks s t := by
  obtain ⟨_, _, _, rfl⟩ := h
  exact ⟨_, _, _, s.plate.banks, rfl⟩

theorem Rebanks.doIf {f : State → State} (hf : ∀ s, Rebanks s (f s)) (c : Bool) : Rebanks s (doIf c f s) := by
  cases c
  · exact Signals.refl.rebanks
  · exact hf s

theorem rebanks_bankTo (b st : Nat) : Rebanks s (bankTo b st s) := by
  have hset : ∀ (k : PlateBank) (s : State), Rebanks s (setBank b k s) := fun _ s => ⟨s.regs, s.host, s.outs, _, rfl⟩
  have hshow : ∀ hdr (s : State), Signals s (plateShow b hdr s) :=
    fun _ _ => (signals_setFld ..).trans ((signals_wr ..).trans (signals_wr ..))
  have hrefresh : ∀ s : State, Signals s (plateRefresh s) := fun _ => .forEach (fun _ _ => signals_setFld ..) _
  unfold bankTo
  refine Rebanks.trans ?_ (hrefresh _).rebanks
  refine Rebanks.trans ?_ (.doIf (fun s => (hset _ s).trans (hshow _ _).rebanks) _)
  exact ((signals_setFld ..).trans (.doIf (fun _ => signals_setFld ..) _)).rebanks

theorem rebanks_drainDone : Rebanks s (drainDone b s) := by
  unfold drainDone
  refine Rebanks.trans ?_ (signals_doneIrq .plate).rebanks
  exact (rebanks_bankTo ..).trans ((signals_setFld ..).trans (signals_setFld ..)).rebanks

/-- The registers of a bank that goes live, and PLATE_PIPE. -/
theorem showPipes_rd (h : off < R.platePipe 0) : (showPipes b s).rd off = s.rd off :=
  forEach_rd (fun n _ s => State.rd_wr_ne s _ (by simp only [R.platePipe] at h ⊢; omega)) s

end Sys2Proof.Machine
end

section
/-! SUPPORT. The image of a plate as it arrives and is verified, its swap point, the drain, errors in the store, and quiesce
(R51 to R55, R64 to R79). -/

namespace Sys2Proof.Machine

variable {s t u : State} {b l n w off : Nat} {x : Bytes}

/-! ### The image as it arrives -/

/-- The image of a bank with the bytes that arrive. -/
def State.arrivedImg (s : State) (b : Nat) (x : Bytes) : Bytes := ((s.bank b).image ++ x).take s.plate.len

/-- What a bank that is loaded makes of an image as far as it has arrived. -/
def judgeArrived (b len : Nat) (img : Bytes) (s : State) : State :=
  match arrivedFail plateKind len img with
  | some f => plateFail b f s
  | none => if img.length < len then s else bankTo b Pb.verifying s

theorem plateData_data (hl : s.plate.loading = some b) (hst : s.bankState b = Pb.loading) (hr : s.boot.restarting = false) :
    plateData (.data x) true s = judgeArrived b s.plate.len (s.arrivedImg b x)
      (setBank b { s.bank b with image := s.arrivedImg b x } s) := by
  have hr' : ∀ k, (setBank b k s).boot.restarting = false := fun _ => hr
  simp only [plateData, judgeArrived, State.arrivedImg, hl, hst, bne_self_eq_false, Bool.not_true, Bool.false_eq_true,
    if_false, hr'] <;> rfl

/-- Bytes that cannot be read, or not be stored, end the LOAD. -/
theorem plateData_timeout (hl : s.plate.loading = some b) (hst : s.bankState b = Pb.loading) :
    plateData .timeout true s = plateFail b (Code.timeout, 0x0F) s := by simp [plateData, hl, hst]

theorem plateData_poison (hl : s.plate.loading = some b) (hst : s.bankState b = Pb.loading) :
    plateData .poison true s = plateFail b (Code.eccUncorrectable, 0x0F) s := by simp [plateData, hl, hst]

theorem plateData_badStore {d : Dma} (hl : s.plate.loading = some b) (hst : s.bankState b = Pb.loading) :
    plateData d false s = plateFail b (Code.eccUncorrectable, 0x11) (s.inc R.plateEccUncorr) := by
  simp [plateData, hl, hst]

theorem beside_judgeArrived {len : Nat} {img : Bytes} : Beside s (judgeArrived b len img s) := by
  unfold judgeArrived
  split
  · exact beside_plateFail ..
  · split
    · exact .refl
    · exact beside_bankTo ..

theorem exec_plateLoadData {d : Dma} {ok : Bool} (hd : plateData d ok s = t) (ht : Beside s t) (hw : s.backWaits = false) :
    exec (.plateLoadData d ok) s = .next t := by
  show guardWf true (lateBack _) = _
  rw [hd, lateBack_of_beside ht hw, guardWf_true]

/-- Settles O5: what has arrived is judged, and nothing else waits for it. -/
theorem plateLoadReadsTheImage : Obligations.PlateLoadReadsTheImage := by
  intro s b x hl hst hr hw
  exact exec_plateLoadData (plateData_data hl hst hr) ((beside_setBank ..).trans beside_judgeArrived) hw

/-! ### The end of the verification -/

theorem plateVerify_done (hl : s.plate.loading = some b) (hst : s.bankState b = Pb.verifying) (hr : s.boot.restarting = false) :
    plateVerify s = match firstBad (plateVerifyChecks s.upd.cfg.plateKeys (s.bank b).image) with
      | some f => plateFail b f s
      | none => complete .plate Code.ok 0
          (plateProof b (s.bank b).image { s with plate := { s.plate with loading := none } }) := by
  simp only [plateVerify, hl, hst, hr, beq_self_eq_true, Bool.not_false, Bool.and_self, if_true] <;> rfl

theorem beside_plateVerify : Beside s (plateVerify s) := by
  unfold plateVerify
  split
  · exact .refl
  · split
    · dsimp only
      split
      · exact beside_plateFail ..
      · refine Beside.trans ?_ (beside_complete ..)
        refine (beside_plateLoading none).trans ?_
        exact (beside_setBank ..).trans ((beside_plateShow ..).trans (beside_bankTo ..))
    · exact .refl

theorem exec_plateVerifyDone (hw : s.backWaits = false) : exec .plateVerifyDone s = .next (plateVerify s) := by
  show guardWf true (lateBack _) = _
  rw [lateBack_of_beside beside_plateVerify hw, guardWf_true]

/-! ### The swap point -/

/-- The old bank, if there is one, starts to drain as the swap point comes. -/
def swapDrain (s : State) : State :=
  match s.plate.live with
  | some l => bankTo l Pb.draining { s with plate := { s.plate with swapTo := none, swapAt := s.now } }
  | none => { s with plate := { s.plate with swapTo := none, swapAt := s.now } }

/-- The swap's time and count, and the completion of the SWAP. -/
def swapStamp (s : State) : State :=
  complete .plate Code.ok 0 (((s.wr R.plateSwapTs0 (BitVec.ofNat 64 (stampLo s.now))).wr R.plateSwapTs1
    (BitVec.ofNat 64 (stampHi s.now))).inc R.plateSwapCount)

/-- The first plate goes live. -/
theorem swapPoint_first (hs : s.plate.swapTo = some b) (hst : s.bankState b = Pb.proof) (hlive : s.plate.live = none)
    (ha : s.proofAwake b = true) : swapPoint s = swapStamp (goLive b (swapDrain s)) := by
  simp only [swapPoint, swapDrain, hs, hst, hlive, ha, bne_self_eq_false, Bool.not_true, Bool.and_false,
    Bool.false_eq_true, if_false] <;> rfl

/-- A plate goes live in place of another, whose drain has ended at once where the swap is not hitless. -/
theorem swapPoint_swap (hs : s.plate.swapTo = some b) (hst : s.bankState b = Pb.proof) (hlive : s.plate.live = some l)
    (ha : s.carvingMatch b = true ∨ s.proofAwake b = true) :
    swapPoint s = doIf (!s.carvingMatch b) (drainDone l) (swapStamp (goLive b (swapDrain s))) := by
  have hgo : (!s.carvingMatch b && !s.proofAwake b) = false := by rcases ha with h | h <;> simp [h]
  simp only [swapPoint, swapDrain, hs, hst, hlive, hgo, bne_self_eq_false, Bool.false_eq_true, if_false] <;> rfl

/-- What a swap point leaves of the plate's bookkeeping: the bank that is live, since when, and no SWAP waiting. -/
structure WentLive (s t : State) (b : Nat) : Prop where
  live   : t.plate.live = some b
  swapTo : t.plate.swapTo = none
  swapAt : t.plate.swapAt = s.now
  state  : t.bankState b = Pb.live
  stamp  : t.rd R.plateSwapTs0 = BitVec.ofNat 64 (stampLo s.now)
  count  : t.rd R.plateSwapCount = s.rd R.plateSwapCount + 1
  code   : t.fld R.plateStatus stCode = Code.ok
  free   : t.busy .plate = false

/-- The live bank, the waiting SWAP, the time of the last swap point and the present time. -/
def State.swapView (s : State) : Option Nat × Option Nat × Nat × Nat :=
  (s.plate.live, s.plate.swapTo, s.plate.swapAt, s.now)

theorem Rebanks.swapView (h : Rebanks s t) : t.swapView = s.swapView := by
  obtain ⟨_, _, _, _, rfl⟩ := h
  rfl

theorem swapDrain_swapView : (swapDrain s).swapView = (s.plate.live, none, s.now, s.now) := by
  unfold swapDrain
  cases h : s.plate.live with
  | none => simp [State.swapView, h]
  | some l => rw [(rebanks_bankTo l Pb.draining).swapView]; simp [State.swapView, h]

/-- The bank that goes live, but for the tables that are carved for it. -/
def liveBank (b : Nat) (s : State) : State :=
  bankTo b Pb.live (showPipes b { s with plate := { s.plate with live := some b } })

/-- What the carving of the tables keeps, a bank that goes live keeps after its change of state. -/
theorem goLive_keeps {β : Type} (g : State → β) (hg : ∀ old new u, g (carve old new u) = g u) :
    g (goLive b s) = g (liveBank b s) := doIf_keeps g (fun u => hg _ _ u) _ _

theorem signals_showPipes : Signals s (showPipes b s) := .forEach (fun _ _ => signals_wr ..) _

theorem goLive_swapView : (goLive b s).swapView = (some b, s.plate.swapTo, s.plate.swapAt, s.now) := by
  rw [goLive_keeps State.swapView (fun _ _ _ => rfl), liveBank, (rebanks_bankTo b Pb.live).swapView,
    signals_showPipes.rebanks.swapView]
  rfl

theorem goLive_bankState (hb : b < 2) : (goLive b s).bankState b = Pb.live := by
  rw [goLive_keeps (fun u => u.bankState b) (fun _ _ _ => rfl), liveBank, bankTo_bankState hb (by decide)]

theorem goLive_rd (hb : b < 2) (h : NoBankReg off) (hp : off < R.platePipe 0) : (goLive b s).rd off = s.rd off := by
  rw [goLive_keeps (fun u => u.rd off) (fun _ _ _ => rfl), liveBank, bankTo_rd h hb, showPipes_rd hp]
  rfl

theorem goLive_bankState_ne (hb : b < 2) (hl : l < 2) (h : l ≠ b) : (goLive b s).bankState l = s.bankState l := by
  have hlt : R.plateBank l < R.platePipe 0 := by simp only [R.plateBank, R.platePipe]; omega
  rw [goLive_keeps (fun u => u.bankState l) (fun _ _ _ => rfl), liveBank, bankTo_bankState_ne hb hl h, State.bankState,
    State.fld, showPipes_rd hlt]
  rfl

theorem swapDrain_rd (hlive : ∀ l, s.plate.live = some l → l < 2) (h : NoBankReg off) : (swapDrain s).rd off = s.rd off := by
  unfold swapDrain
  cases hl : s.plate.live with
  | none => rfl
  | some l => exact (bankTo_rd h (hlive l hl)).trans rfl

theorem signals_swapStamp : Signals s (swapStamp s) :=
  ((signals_wr ..).trans ((signals_wr ..).trans (signals_inc _))).trans (signals_complete ..)

theorem swapStamp_rd (h : R.plateCmd ≤ off) (hst : off ≠ R.plateStatus) : (swapStamp s).rd off =
    if off = R.plateSwapCount then s.rd off + 1
    else if off = R.plateSwapTs1 then BitVec.ofNat 64 (stampHi s.now)
    else if off = R.plateSwapTs0 then BitVec.ofNat 64 (stampLo s.now) else s.rd off := by
  rw [swapStamp, complete_plate_rd h hst]
  by_cases hc : off = R.plateSwapCount
  · subst hc
    rw [if_pos rfl, State.rd_inc_same, State.rd_wr_ne _ _ (by decide), State.rd_wr_ne _ _ (by decide)]
  · rw [if_neg hc, State.rd_inc_ne _ hc, State.rd_wr, State.rd_wr]

theorem swapStamp_bankState (hl : l < 2) : (swapStamp s).bankState l = s.bankState l := by
  rw [State.bankState, State.fld, swapStamp_rd]
  · interval_cases l <;> rfl
  · simp only [R.plateCmd, R.plateBank]; omega
  · exact plateBank_ne_status l

/-- A swap point as far as the end of the SWAP. -/
theorem wentLive_swapStamp (hb : b < 2) (hlive : ∀ l, s.plate.live = some l → l < 2) :
    WentLive s (swapStamp (goLive b (swapDrain s))) b := by
  obtain ⟨hl, hto, hat, hnow⟩ : (swapDrain s).plate.live = s.plate.live ∧ (swapDrain s).plate.swapTo = none ∧
      (swapDrain s).plate.swapAt = s.now ∧ (swapDrain s).now = s.now := by
    simpa [State.swapView] using swapDrain_swapView (s := s)
  obtain ⟨glive, gto, gat, gnow⟩ : (goLive b (swapDrain s)).plate.live = some b ∧
      (goLive b (swapDrain s)).plate.swapTo = none ∧ (goLive b (swapDrain s)).plate.swapAt = s.now ∧
      (goLive b (swapDrain s)).now = s.now := by
    simpa [State.swapView, hto, hat, hnow] using goLive_swapView (b := b) (s := swapDrain s)
  obtain ⟨vlive, vto, vat, -⟩ : (swapStamp (goLive b (swapDrain s))).plate.live = some b ∧
      (swapStamp (goLive b (swapDrain s))).plate.swapTo = none ∧
      (swapStamp (goLive b (swapDrain s))).plate.swapAt = s.now ∧ (swapStamp (goLive b (swapDrain s))).now = s.now := by
    simpa [State.swapView, glive, gto, gat, gnow] using (signals_swapStamp (s := goLive b (swapDrain s))).rebanks.swapView
  refine ⟨vlive, vto, vat, ?_, ?_, ?_, complete_plate_code (by decide), complete_plate_free⟩
  · rw [swapStamp_bankState hb, goLive_bankState hb]
  · rw [swapStamp_rd (by decide) (by decide), gnow]
    rfl
  · rw [swapStamp_rd (by decide) (by decide), if_pos rfl, goLive_rd hb (.inr (by decide)) (by decide),
      swapDrain_rd hlive (.inr (by decide))]

/-! ### The end of a drain -/

theorem drainDone_rd (hl : l < 2) (h : R.plateVer 1 < off) (hd : off ≠ R.plateDrainNs) : (drainDone l s).rd off = s.rd off := by
  have hst : off ≠ R.plateStatus := by simp only [R.plateVer, R.plateStatus] at h ⊢; omega
  unfold drainDone
  dsimp only
  rw [doneIrq_plate_rd (by simp only [R.plateVer, R.plateCmd] at h ⊢; omega), State.rd_setFld_ne _ _ _ hst,
    State.rd_setFld_ne _ _ _ hd, bankTo_rd (.inr h) hl]

/-- DRAINED stands apart from the other fields of PLATE_STATUS. -/
theorem drainDone_status_fld (hl : l < 2) (g : Fld) (hg : FldOk g) (h : 3 < g.2 ∨ g.1 < 3) :
    (drainDone l s).fld R.plateStatus g = s.fld R.plateStatus g := by
  unfold drainDone
  dsimp only
  rw [State.fld, doneIrq_plate_rd (by decide), State.rd_setFld_same,
    getF_setF_ne _ _ _ _ (by decide) hg h, State.rd_setFld_ne _ _ _ (by decide), bankTo_rd (.inl (by decide)) hl]
  rfl

theorem drainDone_bankState_eq {k : Nat} (hk : k < 2) : (drainDone l s).bankState k =
    (bankTo l (if (s.bank l).badWords.isEmpty then Pb.proof else Pb.invalid) s).bankState k := by
  have h1 : R.plateBank k ≠ R.plateStatus := plateBank_ne_status k
  have h2 : R.plateBank k ≠ R.plateDrainNs := by simp only [R.plateBank, R.plateDrainNs]; omega
  unfold drainDone
  dsimp only
  rw [State.bankState, State.fld, doneIrq_plate_rd (by simp only [R.plateBank, R.plateCmd]; omega),
    State.rd_setFld_ne _ _ _ h1, State.rd_setFld_ne _ _ _ h2]
  rfl

theorem drainDone_bankState (hl : l < 2) : (drainDone l s).bankState l = Pb.proof ∨ (drainDone l s).bankState l = Pb.invalid := by
  rw [drainDone_bankState_eq hl]
  split
  · exact .inl (bankTo_bankState hl (by decide))
  · exact .inr (bankTo_bankState hl (by decide))

theorem WentLive.drainDone (h : WentLive s t b) (hb : b < 2) (hl : l < 2) (hne : l ≠ b) : WentLive s (drainDone l t) b := by
  obtain ⟨vlive, vto, vat, -⟩ : (Machine.drainDone l t).plate.live = t.plate.live ∧
      (Machine.drainDone l t).plate.swapTo = t.plate.swapTo ∧
      (Machine.drainDone l t).plate.swapAt = t.plate.swapAt ∧ (Machine.drainDone l t).now = t.now := by
    simpa [State.swapView] using (rebanks_drainDone (b := l) (s := t)).swapView
  refine ⟨vlive.trans h.live, vto.trans h.swapTo, vat.trans h.swapAt, ?_, ?_, ?_, ?_, ?_⟩
  · rw [drainDone_bankState_eq hb, bankTo_bankState_ne hl hb hne.symm, h.state]
  · rw [drainDone_rd hl (by decide) (by decide), h.stamp]
  · rw [drainDone_rd hl (by decide) (by decide), h.count]
  · rw [drainDone_status_fld hl _ (by decide) (by decide), h.code]
  · rw [State.busy, State.flag, Ifc.status, drainDone_status_fld hl _ (by decide) (by decide)]
    exact h.free

theorem Beside.drainDone (h : Beside s t) : Beside s (drainDone b t) := by
  unfold Machine.drainDone
  refine Beside.trans ?_ (beside_doneIrq .plate)
  exact h.trans ((beside_bankTo ..).trans ((beside_setFld ..).trans (beside_setFld ..)))

theorem beside_swapDrain : Beside s (swapDrain s) := by
  have hplate : ∀ p : PlateSt, Beside s { s with plate := p } := fun _ => ⟨List.suffix_rfl, rfl, rfl, rfl, rfl⟩
  unfold swapDrain
  split
  · exact (hplate _).trans (beside_bankTo ..)
  · exact hplate _

theorem beside_goLive : Beside s (goLive b s) := by
  have hplate : ∀ p : PlateSt, Beside s { s with plate := p } := fun _ => ⟨List.suffix_rfl, rfl, rfl, rfl, rfl⟩
  have hcarve : ∀ old new (u : State), Beside u (carve old new u) := fun _ _ _ => ⟨List.suffix_rfl, rfl, rfl, rfl, rfl⟩
  have hpipes : ∀ u : State, Beside u (showPipes b u) := fun _ => .forEach (fun _ _ => beside_wr ..) _
  have hlive : Beside s (liveBank b s) := (hplate _).trans ((hpipes _).trans (beside_bankTo ..))
  exact hlive.trans (.doIf (hcarve _ _) _)

theorem beside_swapStamp : Beside s (swapStamp s) :=
  ((beside_wr ..).trans ((beside_wr ..).trans (beside_inc _))).trans (beside_complete ..)

theorem exec_plateSwapPoint (hs : swapPoint s = t) (ht : Beside s t) (hw : s.backWaits = false) :
    exec .plateSwapPoint s = .next t := by
  show guardWf true (lateBack _) = _
  rw [hs, lateBack_of_beside ht hw, guardWf_true]

/-- Settles O6: the SWAP ends with the new bank live, before the end of a drain that ends at once, which leaves the other
bank alone. -/
theorem plateProofGoesLive : Obligations.PlateProofGoesLive := by
  intro s b hb hw
  have hstamped : Beside s (swapStamp (goLive b (swapDrain s))) :=
    beside_swapDrain.trans (beside_goLive.trans beside_swapStamp)
  refine ⟨fun hl hst hr => ?verify, fun hlive hs hst ha => ?first, fun l hl hne hs hst hlive ha => ?swap⟩
  case verify => exact (exec_plateVerifyDone hw).trans (congrArg _ (plateVerify_done hl hst hr))
  case first =>
    obtain ⟨v1, v2, v3, v4, v5, v6, v7, v8⟩ := wentLive_swapStamp (s := s) hb (by simp [hlive])
    exact ⟨_, exec_plateSwapPoint (swapPoint_first hs hst hlive ha) hstamped hw, v1, v2, v3, v4, v5, v6, v7, v8⟩
  case swap =>
    have hgo := swapPoint_swap hs hst hlive ha
    have hlt : ∀ k, s.plate.live = some k → k < 2 := fun k hk => by
      rw [hlive] at hk
      exact Option.some.inj hk ▸ hl
    have hwent := wentLive_swapStamp (s := s) hb hlt
    cases hm : s.carvingMatch b with
    | true =>
      rw [hm, Bool.not_true, doIf_false] at hgo
      obtain ⟨v1, v2, v3, v4, v5, v6, v7, v8⟩ := hwent
      refine ⟨_, exec_plateSwapPoint hgo hstamped hw, v1, v2, v3, v4, v5, v6, v7, v8, fun _ => ?_, nofun⟩
      rw [swapStamp_bankState hl, goLive_bankState_ne hb hl hne, swapDrain, hlive]
      exact bankTo_bankState hl (by decide)
    | false =>
      rw [hm, Bool.not_false, doIf_true] at hgo
      obtain ⟨v1, v2, v3, v4, v5, v6, v7, v8⟩ := hwent.drainDone hb hl hne
      exact ⟨_, exec_plateSwapPoint hgo hstamped.drainDone hw, v1, v2, v3, v4, v5, v6, v7, v8, nofun,
        fun _ => drainDone_bankState hl⟩

/-! ### Drains, errors in the store, quiesce -/

theorem beside_leaveHole (id : Nat) : Beside s (leaveHole id s) := by
  have htouch : ∀ u : State, Beside u (touchOld id u) := fun u => by
    unfold touchOld touchPair
    split
    · split
      · exact ⟨List.suffix_rfl, rfl, rfl, rfl, rfl⟩
      · exact .refl
    · exact .refl
  have herase : Beside s (erasePkt id s) := (htouch s).trans ⟨List.suffix_rfl, rfl, rfl, rfl, rfl⟩
  have hmark : ∀ stream seq (u : State), Beside u (marker stream seq u) := fun _ _ _ => ⟨List.suffix_rfl, rfl, rfl, rfl, rfl⟩
  unfold leaveHole
  split
  · exact .refl
  · exact herase.trans (.doIf (hmark _ _) _)

theorem exec_plateDrainEnd (hd : s.draining = some b) (ht : s.tagged b = []) (hw : s.backWaits = false) :
    exec .plateDrainEnd s = .next (drainDone b s) := by
  have hend : drainEnd s = drainDone b s := by simp [drainEnd, hd, ht]
  show guardWf true (lateBack _) = _
  rw [hend, lateBack_of_beside (Beside.refl.drainDone) hw, guardWf_true]

theorem exec_plateDrainOverrun (hd : s.draining = some b) (ht : s.tagged b ≠ []) (hnow : s.plate.swapAt + 400000 ≤ s.now)
    (hw : s.backWaits = false) : exec .plateDrainOverrun s = .next (drainDone b (report .f 0x04 b .k 0x001 []
      (forEach (s.tagged b) (fun id t => leaveHole id (t.inc R.plateDrainDrop)) s))) := by
  have hdue : (!(s.tagged b).isEmpty && decide (s.plate.swapAt + usT 40 ≤ s.now)) = true := by
    have h40 : usT 40 = 400000 := by decide
    simp [ht, h40, hnow]
  have hbeside : Beside s (report .f 0x04 b .k 0x001 []
      (forEach (s.tagged b) (fun id t => leaveHole id (t.inc R.plateDrainDrop)) s)) :=
    (Beside.forEach (fun id _ => (beside_inc _).trans (beside_leaveHole id)) _).trans (beside_report ..)
  have hover : drainOverrun s = drainDone b (report .f 0x04 b .k 0x001 []
      (forEach (s.tagged b) (fun id t => leaveHole id (t.inc R.plateDrainDrop)) s)) := by
    simp only [drainOverrun, hd]
    rw [if_pos (by simpa using hdue)]
  show guardWf true (lateBack _) = _
  rw [hover, lateBack_of_beside hbeside.drainDone hw, guardWf_true]

theorem exec_plateScrub {ecc : Ecc} (hb : b < 2) (hword : w < 1048576) (hs : plateScrub b w ecc s = t) (ht : Beside s t)
    (hw : s.backWaits = false) : exec (.plateScrub b w ecc) s = .next t := by
  show guardWf _ (lateBack _) = _
  rw [hs, lateBack_of_beside ht hw]
  simp [hb, hword]

/-- A corrected error is counted and recorded, whatever the state of the bank. -/
theorem exec_plateScrub_corr (hb : b < 2) (hword : w < 1048576) (hw : s.backWaits = false) :
    exec (.plateScrub b w .corr) s = .next (report .f 0x04 b .c 0x002 [] (s.inc R.plateEccCorr)) :=
  exec_plateScrub hb hword rfl ((beside_inc _).trans (beside_report ..)) hw

/-- An uncorrectable error in a bank that holds nothing is counted. -/
theorem exec_plateScrub_idle (hb : b < 2) (hword : w < 1048576) (hw : s.backWaits = false)
    (hst : s.bankState b = Pb.empty ∨ s.bankState b = Pb.invalid) :
    exec (.plateScrub b w .uncorr) s = .next (s.inc R.plateEccUncorr) := by
  refine exec_plateScrub hb hword ?_ (beside_inc _) hw
  rcases hst with hst | hst <;> simp [plateScrub, hst]

/-- An uncorrectable error in a proof makes its bank INVALID. -/
theorem exec_plateScrub_proof (hb : b < 2) (hword : w < 1048576) (hw : s.backWaits = false) (hst : s.bankState b = Pb.proof) :
    exec (.plateScrub b w .uncorr) s =
      .next (bankTo b Pb.invalid (report .f 0x04 b .k 0x003 [] (s.inc R.plateEccUncorr))) := by
  refine exec_plateScrub hb hword ?_ ((beside_inc _).trans ((beside_report ..).trans (beside_bankTo ..))) hw
  simp [plateScrub, hst, Pb.proof, Pb.empty, Pb.invalid, Pb.loading, Pb.verifying]

/-- An uncorrectable error in a plate in use marks the word bad. -/
theorem exec_plateScrub_used (hb : b < 2) (hword : w < 1048576) (hw : s.backWaits = false)
    (hst : s.bankState b = Pb.live ∨ s.bankState b = Pb.draining) (hnew : w ∉ (s.bank b).badWords) :
    exec (.plateScrub b w .uncorr) s = .next (setBank b
      { s.bank b with badWords := (s.bank b).badWords ++ [w] } (s.inc R.plateEccUncorr)) := by
  have hnew' : w ∉ ((s.inc R.plateEccUncorr).bank b).badWords := hnew
  refine exec_plateScrub hb hword ?_ ((beside_inc _).trans (beside_setBank ..)) hw
  rcases hst with hst | hst <;>
    simp [plateScrub, hst, hnew', Pb.live, Pb.draining, Pb.proof, Pb.empty, Pb.invalid, Pb.loading, Pb.verifying] <;> rfl

/-- An empty pipeline that is asked to quiesce sets its bit of QUIESCED. -/
theorem exec_pipelineQuiesced (hn : n < 16) (hq : s.quiescing n = true) (hp : s.pipeHolds n = false) :
    exec (.pipelineQuiesced n) s = .next (s.setFld R.plateQstat F.plateQstatQuiesced
      (s.fld R.plateQstat F.plateQstatQuiesced ||| 2 ^ n)) := by
  show guardWf _ (pipeQuiet n s) = _
  simp [hn, pipeQuiet, hq, hp]

theorem setFld_quiesced (hn : n < 16) : (s.setFld R.plateQstat F.plateQstatQuiesced
    (s.fld R.plateQstat F.plateQstatQuiesced ||| 2 ^ n)).fld R.plateQstat F.plateQstatQuiesced =
      s.fld R.plateQstat F.plateQstatQuiesced ||| 2 ^ n := by
  have hold : s.fld R.plateQstat F.plateQstatQuiesced < 2 ^ 16 := getF_lt ..
  have hbit : 2 ^ n < 2 ^ 16 := Nat.pow_lt_pow_right (by decide) hn
  rw [State.fld, State.rd_setFld_same, getF_setF _ _ _ (by decide)]
  exact Nat.mod_eq_of_lt (Nat.or_lt_two_pow hold hbit)

/-- Settles O7: each end is one branch of the drain, of the scrubber or of the quiesce. -/
theorem drainsErrorsAndQuiesce : Obligations.DrainsErrorsAndQuiesce := by
  intro s b w n hb hn hw
  exact ⟨fun hd => ⟨fun ht => exec_plateDrainEnd hd ht hw, fun ht hnow => exec_plateDrainOverrun hd ht hnow hw⟩,
    fun hword => exec_plateScrub_corr hb hword hw, fun hst hword => exec_plateScrub_proof hb hword hw hst,
    fun hst hword hnew => exec_plateScrub_used hb hword hw hst hnew,
    fun hq hp => ⟨_, exec_pipelineQuiesced hn hq hp, setFld_quiesced hn, fun _ hr => State.rd_setFld_ne _ _ _ hr⟩⟩

end Sys2Proof.Machine
end

section
/-! SUPPORT. Commands that are turned away. -/

namespace Sys2Proof.Machine

variable {s t u : State} {fn : Fn} {p b gen op slot : Nat}

/-! ### A stale GEN -/

theorem plateChecks_stale (h : gen ≠ s.bankGen b) (h1 : 1 ≤ op) (h3 : op ≤ 3) :
    firstBad (plateChecks s op b gen) = some (Code.staleBank, 0) := by
  simp [plateChecks, firstBad, h, h1, h3]

theorem platePerform_stale (hr : s.boot.restarting = false) (h : gen ≠ s.bankGen b) (h1 : 1 ≤ op) (h3 : op ≤ 3) :
    platePerform op b gen (s.taken fn .plate op p) = complete .plate Code.staleBank 0 (s.taken fn .plate op p) :=
  platePerform_turned (f := (Code.staleBank, 0)) hr (by rw [plateChecks_taken, plateChecks_stale h h1 h3])

theorem calGen_taken (b : Nat) : (s.taken fn .sched op p).calGen b = s.calGen b := by
  have h : R.schedBank b ≠ Ifc.sched.status := by simp only [R.schedBank, Ifc.status, R.schedStatus]; omega
  rw [State.calGen, State.fld, taken_rd h]
  rfl

theorem schedPerform_stale {v : Vote} (hr : s.boot.restarting = false) (h : gen ≠ s.calGen b) (h1 : 1 ≤ op) (h3 : op ≤ 3) :
    schedPerform op b gen v (s.taken fn .sched op p) = complete .sched Code.staleBank 0 (s.taken fn .sched op p) := by
  have hr' : (s.taken fn .sched op p).boot.restarting = false := hr
  have h4 : op ≠ 4 := by omega
  simp [schedPerform, hr', h4, h1, h3, schedChecks, firstBad, calGen_taken, h]

/-- RESTART of a sequencer that is not halted finds nothing to restart. -/
theorem schedPerform_restart_running (h : s.halted = false) : schedPerform 4 0 0 .agree (s.taken fn .sched 4 p) =
    complete .sched Code.notfound 0 (s.taken fn .sched 4 p) := by
  have hh : (s.taken fn .sched 4 p).halted = false := by
    rw [State.halted, State.flag, State.fld, taken_rd (by decide)]
    exact h
  simp [schedPerform, schedRestart, voteWord, hh]

/-- A row that writes SCHED_CMD. -/
theorem exec_sched_row {v : Vote} {i : Instr} {ok : Bool} (hi : exec i s = guardWf ok (schedIssue fn op b gen v s))
    (hok : ok = true) (h : s.MayWrite fn p 9) (hr : s.right p Right.calendar = true) (ht : s.Takes .sched)
    (hu : s.upd.tload = none) (ho : op < 256) (hb : b < 2) (hg : gen < 65536) :
    exec i s = .next (schedPerform op b gen v (s.taken fn .sched op p)) := by
  rw [hi, hok, guardWf_true, sched_takes h hr ht hu ho hb hg]

/-! ### Tables, the search array, the buffers -/

theorem exec_tblLookup_none {table : Nat} {mask : BitVec 16} (h : s.Owns fn p) (ht : s.Takes (.tbl p)) (hb : table < 256)
    (hc : Passes (tblChecks (s.taken fn (.tbl p) 5 p) p (tblOpOf s p 5 table mask.toNat)))
    (hn : let o := tblOpOf s p 5 table mask.toNat
      let t := s.taken fn (.tbl p) 5 p
      emFind (o.ems.headD 0) (t.emBuckets (o.ems.headD 0)) (emKey (o.ems.headD 0) o.data) (t.emTab (o.ems.headD 0)) = none) :
    exec (.tblLookup fn table mask) s = .next (complete (.tbl p) Code.notfound 0 (s.taken fn (.tbl p) 5 p)) := by
  have hperform : tblPerform p (tblOpOf s p 5 table mask.toNat) .ok (s.taken fn (.tbl p) 5 p) =
      complete (.tbl p) Code.notfound 0 (s.taken fn (.tbl p) 5 p) := by
    show tblLookup p _ _ = _
    unfold tblLookup
    dsimp only at hn ⊢
    rw [hn]
  show guardWf _ (tblIssue fn 5 table mask.toNat .ok s) = _
  rw [tbl_takes h ht (by decide) hb mask.isLt hc]
  exact (congrArg (guardWf _) hperform).trans (by simp [h.shape, hb])

/-- The plan of an INSERT_AT reads the rows alone. -/
theorem asaPlan_congr (h : t.asa = s.asa) (a : AsaTab) (x : Nat) : asaPlan t a x = asaPlan s a x := by
  unfold asaPlan State.asaGet
  rw [h]

theorem asaWinner_congr (h : t.asa = s.asa) (a : AsaTab) (key : Bytes) : asaWinner t a key = asaWinner s a key := by
  unfold asaWinner asaHits
  rw [h]

theorem asaOk_congr {table : Nat} (h : t.pmap p 3 = s.pmap p 3) : t.asaOk p table = s.asaOk p table := by
  unfold State.asaOk
  rw [h]

theorem inRange_congr {kind first n : Nat} (h : t.pmap p (4 + kind) = s.pmap p (4 + kind)) :
    t.inRange p kind first n = s.inRange p kind first n := by
  unfold State.inRange
  rw [h]

/-- The checks of an ASA command read the rows, the table's configuration and the partition's record. -/
theorem asaChecks_congr {table x : Nat} {img : Bytes} (h : t.asa = s.asa) (htab : t.asaTab table = s.asaTab table)
    (hmask : t.pmap p 3 = s.pmap p 3) (hrange : t.pmap p (4 + 6) = s.pmap p (4 + 6)) :
    asaChecks t p op table x img = asaChecks s p op table x img := by
  simp only [asaChecks, asaTouched, htab, asaPlan_congr h, asaWinner_congr h, asaOk_congr hmask, inRange_congr hrange]

theorem asaTableCfg_ne_status {table : Nat} (hp : p < 4) : R.asaTableCfg table ≠ R.asaStatus p := by
  simp only [R.asaTableCfg, R.asaStatus]
  omega

theorem pmap_ne_asaStatus {i : Nat} (hi : i < 32) : R.pmap p i ≠ R.asaStatus p := by
  simp only [R.pmap, R.asaStatus]
  omega

theorem exec_asaInsertAt_full {table : Nat} {ecc : Ecc} (h : s.Owns fn p) (ht : s.Takes (.asa p)) (hb : table < 16)
    (hc : Passes (asaChecks (s.taken fn (.asa p) 4 p) p 4 table (s.fld (R.asaArg p) F.asaArgIndex)
      (s.dataBytes (R.asaData p) 24)))
    (hn : asaPlan s (s.asaTab table) (s.fld (R.asaArg p) F.asaArgIndex) = none) :
    exec (.asaInsertAt fn table ecc) s = .next (complete (.asa p) Code.nospace 0 ((s.taken fn (.asa p) 4 p).setFld
      (R.asaStatus p) F.asaStatusMoves 0)) := by
  have hp := own_lt h
  have hrd : ∀ off, off ≠ R.asaStatus p → (s.asaTaken fn 4 p).rd off = s.rd off :=
    fun off hne => (State.rd_setFld_ne _ _ _ hne).trans (taken_rd hne)
  have htab : (s.asaTaken fn 4 p).asaTab table = s.asaTab table := congrArg asaTabOf (hrd _ (asaTableCfg_ne_status hp))
  have hcheck : Passes (asaChecks (s.asaTaken fn 4 p) p 4 table (s.fld (R.asaArg p) F.asaArgIndex)
      (s.dataBytes (R.asaData p) 24)) := by
    have hkeep : ∀ off, off ≠ R.asaStatus p → (s.asaTaken fn 4 p).rd off = (s.taken fn (.asa p) 4 p).rd off :=
      fun off hne => State.rd_setFld_ne _ _ _ hne
    have heq : asaChecks (s.asaTaken fn 4 p) p 4 table (s.fld (R.asaArg p) F.asaArgIndex) (s.dataBytes (R.asaData p) 24) =
        asaChecks (s.taken fn (.asa p) 4 p) p 4 table (s.fld (R.asaArg p) F.asaArgIndex) (s.dataBytes (R.asaData p) 24) :=
      asaChecks_congr rfl (congrArg asaTabOf (hkeep _ (asaTableCfg_ne_status hp)))
        (congrArg BitVec.toNat (hkeep _ (pmap_ne_asaStatus (by decide))))
        (congrArg BitVec.toNat (hkeep _ (pmap_ne_asaStatus (by decide))))
    exact heq ▸ hc
  have hplan : asaPlan (s.asaTaken fn 4 p) (s.asaTab table) (s.fld (R.asaArg p) F.asaArgIndex) = none :=
    (asaPlan_congr rfl _ _).trans hn
  show guardWf _ (asaIssue fn 4 table ecc s) = _
  rw [asa_takes h ht (by decide) hb hcheck]
  simp only [h.shape, hb, asaPerform, asaInsert, htab, hplan, decide_true, Bool.and_self, guardWf_true] <;> rfl

theorem exec_asaSearch_none {table : Nat} {ecc : Ecc} (h : s.Owns fn p) (ht : s.Takes (.asa p)) (hb : table < 16)
    (hc : Passes (asaChecks (s.taken fn (.asa p) 5 p) p 5 table (s.fld (R.asaArg p) F.asaArgIndex)
      (s.dataBytes (R.asaData p) 24)))
    (hn : asaWinner s (s.asaTab table) (asaValue (s.asaTab table) (s.dataBytes (R.asaData p) 24)) = none) :
    exec (.asaSearchCmd fn table ecc) s =
      .next (complete (.asa p) Code.notfound 0 ((s.taken fn (.asa p) 5 p).inc (R.asaTableCtr table 0))) := by
  have hp := own_lt h
  have htab : (s.taken fn (.asa p) 5 p).asaTab table = s.asaTab table :=
    congrArg asaTabOf (taken_rd (asaTableCfg_ne_status hp))
  have hwin : asaWinner (s.taken fn (.asa p) 5 p) (s.asaTab table)
      (asaValue (s.asaTab table) (s.dataBytes (R.asaData p) 24)) = none := (asaWinner_congr rfl _ _).trans hn
  show guardWf _ (asaIssue fn 5 table ecc s) = _
  rw [asa_takes h ht (by decide) hb hc]
  show guardWf _ (asaSearchDo p table _ ecc (s.taken fn (.asa p) 5 p)) = _
  simp only [h.shape, hb, asaSearchDo, asaSearch, htab, hwin, decide_true, Bool.and_self, guardWf_true] <;> rfl

theorem bpmStack_ne_status {i : Nat} (hi : i < 4) : R.bpmStack i ≠ R.bpmStatus p := by
  simp only [R.bpmStack, R.bpmStatus]
  omega

/-- RETIRE of a second stack finds no place for its pages. -/
theorem exec_bpmRetire_second (h : s.Owns fn p) (ht : s.Takes (.bpm p)) (hr : s.right p Right.bpm = true) (hu : s.upd.tload = none)
    (hx : s.fld (R.bpmArg p) F.bpmArgIndex < 4) (hin : s.stackState (s.fld (R.bpmArg p) F.bpmArgIndex) = 0)
    (hout : ∃ i < 4, s.stackState i ≠ 0) :
    exec (.bpmRetire fn) s = .next (complete (.bpm p) Code.nospace 0 (s.taken fn (.bpm p) 3 p)) := by
  have hstack : ∀ i < 4, (s.taken fn (.bpm p) 3 p).stackState i = s.stackState i := fun i hi => by
    rw [State.stackState, State.fld, taken_rd (bpmStack_ne_status hi)]
    rfl
  have hso : (s.taken fn (.bpm p) 3 p).stackOut = true := by
    obtain ⟨i, hi, hne⟩ := hout
    refine List.any_eq_true.2 ⟨i, by simp; omega, ?_⟩
    rw [hstack i hi]
    simpa using hne
  have hx' : ¬4 ≤ s.fld (R.bpmArg p) F.bpmArgIndex := by omega
  show guardWf _ (bpmIssue fn 3 .ok s) = _
  rw [bpm_takes (op := 3) h hu ht hr (by decide) (decide_eq_true hx)]
  show guardWf _ (retireStack p _ _) = _
  simp [h.shape, retireStack, hx', hstack _ hx, hin, hso]

/-! ### Queues -/

theorem qData_taken {n : Nat} : (s.taken fn (.q p) op p).dataBytes (R.qData p) n = s.dataBytes (R.qData p) n :=
  dataBytes_congr fun i hi => taken_rd (by simp only [R.qData, Ifc.status, R.qStatus]; omega)

theorem exec_qWrite_running {obj : Nat} (h : s.Owns fn p) (ht : s.Takes (.q p)) (hb : obj < 256) (hu : s.upd.tload = none)
    (hc : Passes (qChecks (s.taken fn (.q p) 1 p) p 1 obj (s.fld (R.qArg p) F.qArgIndex)))
    (hf : qFields obj (slice 0 (objBytes obj) (s.dataBytes (R.qData p) 4)) ≠
      qFields obj (s.objImg obj (s.fld (R.qArg p) F.qArgIndex)))
    (hq : (s.taken fn (.q p) 1 p).objQuiesced obj (s.fld (R.qArg p) F.qArgIndex) = false) :
    exec (.qWrite fn obj) s = .next (complete (.q p) Code.quiesceRequired 0
      (quiesceLog fn (R.qCmd p) 2 (s.taken fn (.q p) 1 p))) := by
  have himg : (s.taken fn (.q p) 1 p).objImg obj (s.fld (R.qArg p) F.qArgIndex) =
      s.objImg obj (s.fld (R.qArg p) F.qArgIndex) := rfl
  show guardWf _ (qIssue fn 1 obj .ok s) = _
  rw [q_takes h hu ht (by decide) hb hc]
  show guardWf _ (qWriteDo fn p obj _ _) = _
  simp [h.shape, hb, qWriteDo, qData_taken, himg, hf, hq]

theorem exec_qFlush_running (h : s.Owns fn p) (ht : s.Takes (.q p)) (hu : s.upd.tload = none)
    (hc : Passes (qChecks (s.taken fn (.q p) 4 p) p 4 1 (s.fld (R.qArg p) F.qArgIndex)))
    (hen : (s.que (s.fld (R.qArg p) F.qArgIndex)).en = true) :
    exec (.qFlush fn) s = .next (complete (.q p) Code.quiesceRequired 0 (s.taken fn (.q p) 4 p)) := by
  have hen' : ((s.taken fn (.q p) 4 p).que (s.fld (R.qArg p) F.qArgIndex)).en = true := hen
  show guardWf _ (qIssue fn 4 1 .ok s) = _
  rw [q_takes h hu ht (by decide) (by decide) hc]
  show guardWf _ (qFlushDo p _ _) = _
  simp [h.shape, qFlushDo, hen']

/-! ### Burin contexts and mailboxes -/

theorem exec_burinCtxRead_uncorr (h : s.Owns fn p) (ht : s.Takes (.burin p))
    (hc : Passes (burinChecks (s.taken fn (.burin p) 4 p) p 4 (s.fld (R.burinArg p) F.burinArgSession))) :
    exec (.burinCtxRead fn .uncorr) s = .next (complete (.burin p) Code.eccUncorrectable 0 (s.taken fn (.burin p) 4 p)) := by
  show guardWf _ (burinIssue fn 4 0 .uncorr .timeout s) = _
  rw [burin_takes h ht (by decide) (by decide) hc, h.shape, guardWf_true]
  rfl

/-! ### The seal engine -/

theorem exec_sealLock {i : Instr} {act : Nat → State → State}
    (hi : exec i s = guardWf (fnOk fn) (access fn R.sealLock 1 (fun p _ _ s => act p s) s)) (h : s.MayWrite fn p 12) :
    exec i s = .next (act p (dropHeld fn s)) := by
  rw [hi, access_block h (d := _) (ix := _) rfl (by decide) (by decide), h.shape, guardWf_true]

/-- An ACQUIRE of a lock that is held changes nothing. -/
theorem lockAcquire_held (hr : s.right p Right.sealEng = true) (h : s.holder ≠ 7) : lockAcquire fn p s = s := by
  simp [lockAcquire, hr, h]

/-- A RELEASE by another, or in the middle of a command, changes nothing. -/
theorem lockRelease_refused (h : s.holder ≠ p ∨ s.busy .sealE = true) : lockRelease p s = s := by
  rcases h with h | h <;> simp [lockRelease, h]

/-- A BREAK by a partition other than 0 changes nothing. -/
theorem lockBreak_refused (h : p ≠ 0) : lockBreak p s = s := by simp [lockBreak, h]

theorem exec_sealUnwrap {d : Dma} {ke : Ecc} (h : s.MayWrite fn p 12) (hh : s.holder = p) (ht : s.Takes .sealE)
    (hs : s.slotOk p slot = true) (h32 : slot < 32) : exec (.sealUnwrap fn slot d .ok ke) s =
      .next (unwrapAct fn slot d ke p ((s.taken fn .sealE 1 p).wr R.sealBytesOut 0)) := by
  show guardWf _ (sealIssue fn 1 slot .ok _ s) = _
  rw [seal_takes h hh ht hs, h.shape, decide_eq_true h32]
  rfl

theorem keyState_taken (n : Nat) : ((s.taken fn .sealE op p).wr R.sealBytesOut 0).keyState n = s.keyState n := by
  have h1 : R.sealSlot n ≠ R.sealBytesOut := by simp only [R.sealSlot, R.sealBytesOut]; omega
  have h2 : R.sealSlot n ≠ Ifc.sealE.status := by simp only [R.sealSlot, Ifc.status, R.sealStatus]; omega
  rw [State.keyState, State.fld, State.rd_wr_ne _ _ h1, taken_rd h2]
  rfl

theorem unwrapAct_full {d : Dma} {ke : Ecc} (h : s.keyState slot ≠ slotEmpty) :
    unwrapAct fn slot d ke p s = sealFail fn Code.nospace s := by simp [unwrapAct, h]

theorem unwrapAct_timeout {ke : Ecc} (h : s.keyState slot = slotEmpty) :
    unwrapAct fn slot .timeout ke p s = sealDmaFail p .timeout s := by simp [unwrapAct, h]

/-! ### The update controller -/

theorem exec_updPreempt_other (h : s.MayWrite fn p 13) (hp : p ≠ 0) :
    exec (.updPreempt fn) s = .next (denied fn R.updPreempt 1 (dropHeld fn s)) := by
  show guardWf _ (access fn R.updPreempt 1 _ s) = _
  rw [access_block h (d := _) (ix := _) rfl (by decide) (by decide), h.shape, guardWf_true]
  simp [preemptWrite, hp]

theorem taken_upd_rd {off : Nat} (h : off ≠ R.updStatus) : (s.taken fn .upd op p).rd off = s.rd off := taken_rd h

/-- The state on which a command of the session's holder acts: its time counts as progress. -/
def State.updTaken (s : State) (fn : Fn) (op p : Nat) : State :=
  { s.taken fn .upd op p with upd := { s.upd with lastCmd := s.now } }

/-- The update controller takes a command of partition `p`, which may give it one, and no restart or switch is under way. -/
structure State.UpdTakes (s : State) (fn : Fn) (p : Nat) : Prop where
  may   : s.MayWrite fn p 13
  right : s.right p Right.update = true
  takes : s.Takes .upd
  up    : s.boot.restarting = false
  still : s.switching = false

/-- An OPEN where no session stands. -/
theorem State.UpdTakes.exec_open {d : Dma} (hu : s.UpdTakes fn p) (hh : s.updHolder = 7) (hst : s.updState = Us.idle) :
    exec (.updOpen fn d) s = .next (openAct p d (s.taken fn .upd 1 p)) := by
  obtain ⟨h, hr, ht, hrest, hsw⟩ := hu
  have hp : p < 4 := own_lt h.toOwns
  have h7 : (7 == p) = false := by simp; omega
  have hmap : R.pmap p 0 ≠ R.updStatus := by simp only [R.pmap, R.updStatus]; omega
  have hH : (s.taken fn .upd 1 p).updHolder = 7 := by
    rw [State.updHolder, State.fld, taken_upd_rd (by decide)]
    exact hh
  have hS : (s.taken fn .upd 1 p).updState = Us.idle := by
    rw [State.updState, State.fld, taken_upd_rd (by decide)]
    exact hst
  have hR : (s.taken fn .upd 1 p).right p Right.update = true := by
    rw [State.right, State.pmap, taken_upd_rd hmap]
    exact hr
  have hrest' : (s.taken fn .upd 1 p).boot.restarting = false := hrest
  have hsw' : (s.taken fn .upd 1 p).switching = false := hsw
  show guardWf _ (updIssue fn 1 0 _ s) = _
  unfold updIssue
  rw [access_block h (d := _) (ix := _) rfl (by decide) (by decide)]
  unfold updCommand
  rw [issue_takes ht]
  simp [h.shape, hH, hS, hR, h7, hrest', hsw']

/-- The checks of a manifest read the owner's keys and the least set version. -/
theorem openChecks_congr {len : Nat} {x : Bytes} (h : t.upd = s.upd) : openChecks t len x = openChecks s len x := by
  simp only [openChecks, h]

theorem whenLockFree_held {w : UpdWait} {act : State → State} (h : s.holder ≠ 7) :
    whenLockFree w act s = { s with upd := { s.upd with wait := some (s.now, w) } } := if_neg h

theorem whenLockFree_free {w : UpdWait} {act : State → State} (h : s.holder = 7) :
    whenLockFree w act s = act (lockPass s) := if_pos h

/-- An OPEN of a manifest that a check turns away. -/
theorem openAct_bad {x : Bytes} {f : Fail} {len : Nat} (hlen : (updHold p s).fld R.updArg1 F.updArg1Length = len)
    (ha : (updHold p s).fld R.updArg0 F.updArg0Addr % 64 = 0) (hl : len ≤ 4352)
    (hf : firstBad (openChecks s len (slice 0 len x)) = some f) :
    openAct p (.data x) s = updDone f.1 f.2 (updHold p s) := by
  have hl' : ¬4352 < len := by omega
  have hf' : firstBad (openChecks (updHold p s) len (slice 0 len x)) = some f := (congrArg _ (openChecks_congr rfl)).trans hf
  simp only [openAct, hlen, ha, hl', bne_self_eq_false, Bool.false_eq_true, if_false, hf']

/-- An OPEN of a sound manifest waits for the seal lock. -/
theorem openAct_waits {x : Bytes} {len : Nat} (hlen : (updHold p s).fld R.updArg1 F.updArg1Length = len)
    (ha : (updHold p s).fld R.updArg0 F.updArg0Addr % 64 = 0) (hl : len ≤ 4352)
    (hf : firstBad (openChecks s len (slice 0 len x)) = none) (hh : (updHold p s).holder ≠ 7) :
    openAct p (.data x) s = { updHold p s with upd := { s.upd with wait := some (s.now, .opening (slice 0 len x)) } } := by
  have hl' : ¬4352 < len := by omega
  have hf' : firstBad (openChecks (updHold p s) len (slice 0 len x)) = none := (congrArg _ (openChecks_congr rfl)).trans hf
  simp only [openAct, hlen, ha, hl', bne_self_eq_false, Bool.false_eq_true, if_false, hf', whenLockFree_held hh] <;> rfl

/-- All the bytes that the manifest tells have been received. -/
def State.allReceived (s : State) : Bool := (List.range 5).all (fun i =>
  s.fld (R.updRcvd i) F.updRcvdReceived == entryLen (manEntry (s.slot s.staging).manifest i))

theorem verifyAct_eq (h : s.allReceived = true) : verifyAct s = whenLockFree .verify verifyFinish (updTo Us.verifying s) :=
  if_pos h

theorem updTaken_rd {off : Nat} (h : off ≠ R.updStatus) : (s.updTaken fn op p).rd off = s.rd off := taken_upd_rd h

theorem allReceived_updTaken : (s.updTaken fn op p).allReceived = s.allReceived := by
  have hrcvd : ∀ i, (s.updTaken fn op p).rd (R.updRcvd i) = s.rd (R.updRcvd i) :=
    fun i => updTaken_rd (by simp only [R.updRcvd, R.updStatus]; omega)
  simp only [State.allReceived, State.fld, hrcvd] <;> rfl

theorem signals_lockTo (k : Nat) : Signals s (lockTo k s) :=
  (signals_setFld ..).trans (.forEach (fun _ _ => signals_wr ..) _)

theorem signals_lockPass : Signals s (lockPass s) := (signals_lockTo 4).trans (signals_lockTo 7)

/-- The checks of the images read the flash, the owner's keys, the staging slot and the content key. -/
theorem allImgChecks_congr (hf : t.flash = s.flash) (hc : t.upd.cfg = s.upd.cfg) (hb : t.upd.bcr = s.upd.bcr)
    (hk : t.upd.hidden = s.upd.hidden) : allImgChecks t = allImgChecks s := by
  simp only [allImgChecks, State.slot, State.staging, hf, hc, hb, hk]

/-- VERIFY of images that a check turns away ends with the session open. -/
theorem verifyFinish_bad {f : Fail} (h : firstBad (allImgChecks s) = some f) :
    verifyFinish s = updDone f.1 f.2 (updTo Us.isOpen { s with upd := { s.upd with wait := none } }) := by
  have h' : firstBad (allImgChecks { s with upd := { s.upd with wait := none } }) = some f :=
    (congrArg _ (allImgChecks_congr rfl rfl rfl rfl)).trans h
  simp only [verifyFinish, h']

theorem complete_upd_rd {off code detail : Nat} (h : R.plateCmd ≤ off) (hne : off ≠ R.updStatus) :
    (complete .upd code detail s).rd off = s.rd off := by
  rw [complete, doneIrq, doIf_rd (raiseRight_rd (not_intReg_of_ge h))]
  exact State.rd_wr_ne _ _ hne

theorem complete_upd_status {code detail : Nat} : (complete .upd code detail s).rd R.updStatus =
    setF (setF (setF (setF (s.rd R.updStatus) stCode code) stBusy 0) stDone 1) stDetail detail := by
  rw [complete, doneIrq, doIf_rd (raiseRight_rd (not_intReg_of_ge (by decide)))]
  exact State.rd_wr_same ..

theorem updDone_free {code detail : Nat} : (updDone code detail s).busy .upd = false := by
  rw [updDone, State.busy, State.flag, State.fld, Ifc.status, complete_upd_status,
    getF_setF_ne _ _ _ _ (by decide) (by decide) (by decide), getF_setF_ne _ _ _ _ (by decide) (by decide) (by decide),
    getF_setF _ _ _ (by decide)]
  rfl

theorem updDone_code {code detail : Nat} : (updDone code detail s).fld R.updStatus stCode = code % 256 := by
  rw [updDone, State.fld, complete_upd_status, getF_setF_ne _ _ _ _ (by decide) (by decide) (by decide),
    getF_setF_ne _ _ _ _ (by decide) (by decide) (by decide), getF_setF_ne _ _ _ _ (by decide) (by decide) (by decide),
    getF_setF _ _ _ (by decide)]
  rfl

theorem updDone_updState {code detail : Nat} : (updDone code detail s).updState = s.updState := by
  rw [updDone, State.updState, State.fld, complete_upd_rd (by decide) (by decide)]
  rfl

theorem updTo_updState {st : Nat} (h : st < 2 ^ fldWidth F.updSessionState) : (updTo st s).updState = st := by
  rw [updTo, State.updState, State.fld, State.rd_setFld_same, getF_setF _ _ _ (by decide)]
  exact Nat.mod_eq_of_lt h

/-- VERIFY by the holder of the session. -/
theorem State.UpdTakes.exec_verify (h : s.UpdTakes fn p) (hh : s.updHolder = p) (hst : s.updState = Us.isOpen) :
    exec (.updVerify fn) s = .next (verifyAct (s.updTaken fn 3 p)) := by
  show guardWf _ (updIssue fn 3 0 _ s) = _
  rw [upd_takes h.may h.right h.takes h.up h.still (by decide) hh (by decide) (by simp [updAllowed, hst]), h.may.shape,
    guardWf_true]
  rfl

/-- ACTIVATE by the holder of the session. -/
theorem State.UpdTakes.exec_activate (h : s.UpdTakes fn p) (hh : s.updHolder = p) (hst : s.updState = Us.verified) :
    exec (.updActivate fn .done) s = .next (activateAct .done (s.updTaken fn 4 p)) := by
  show guardWf _ (updIssue fn 4 0 _ s) = _
  rw [upd_takes h.may h.right h.takes h.up h.still (by decide) hh (by decide) (by simp [updAllowed, hst]), h.may.shape]
  rfl

/-- ACTIVATE of a set that no tuple lets run with the running one. -/
theorem activateAct_incompatible (hm : manMode (s.slot s.staging).manifest ≠ 1)
    (hb : s.bankState s.spareBank = Pb.empty ∨ s.bankState s.spareBank = Pb.invalid)
    (hc : compatHas (s.slot s.staging).manifest (tupleOf s.upd.run.hashes) = false) :
    activateAct .done s = updDone Code.incompatible 0x41 s := by
  have hb' : (s.bankState s.spareBank != Pb.empty && s.bankState s.spareBank != Pb.invalid) = false := by
    rcases hb with hb | hb <;> simp [hb]
  simp only [activateAct, hm, hb', hc, if_false, Bool.not_false, Bool.false_eq_true, if_true]

/-! ### Mailboxes and SMBus -/

theorem exec_settingsGet (h : s.Owns fn p) (hb : s.busy (.mbx p) = false) (hu : s.boot.stewardUp = true)
    (hr : s.boot.restarting = false) : exec (.settingsGet fn) s = .next (settingsGet p (s.taken fn (.mbx p) 0 p)) := by
  show guardWf _ (mbxDo fn _ s) = _
  rw [mbx_takes h hb hu hr, h.shape, guardWf_true]

theorem exec_calibWrite {d : Dma} (h : s.Owns fn p) (hb : s.busy (.mbx p) = false) (hu : s.boot.stewardUp = true)
    (hr : s.boot.restarting = false) :
    exec (.calibWrite fn d) s = .next (calibWrite fn p d (s.taken fn (.mbx p) 0 p)) := by
  show guardWf _ (mbxDo fn (fun p => calibWrite fn p d) s) = _
  rw [mbx_takes h hb hu hr, h.shape, guardWf_true]

theorem mbxData_taken {i : Nat} (hi : 0 ≤ i) : mbxData p (s.taken fn (.mbx p) op p) i = mbxData p s i := by
  rw [mbxData, taken_rd (by simp only [R.mbxData, Ifc.status, R.mbxStatus]; omega)]
  rfl

theorem settingsGet_unknown (h : smapFind (mbxData p s 0 % 2 ^ 32) (s.area s.readArea) = none) :
    settingsGet p s = complete (.mbx p) Code.notfound 0 s := by
  unfold settingsGet
  rw [h]

/-- CALIB_WRITE without its key word is denied. -/
theorem calibWrite_keyless {d : Dma} (h : mbxData p s 2 % 2 ^ 32 ≠ 0x4F565752) :
    calibWrite fn p d s = failCmd (.mbx p) fn Code.denied s := by
  have hkey : (mbxData p s 2 % 2 ^ 32 == 0x4F565752) = false := beq_false_of_ne h
  simp only [calibWrite, hkey, Bool.and_false, Bool.not_false, if_true]

theorem exec_smbusRead_unanswered {addr : Nat} {sent : Bytes} {fmt : SmbFmt} {pec : Bool} (ha : addr < 128) (hs : sent ≠ [])
    (h : s.bootStateOf = 0 ∨ addr ≠ 0x5A) : exec (.smbusRead addr sent fmt pec) s = .next (s.emit .smbusNak) := by
  have hlen : 1 ≤ sent.length := List.length_pos_iff.2 hs
  have hnak : smbusRead addr sent fmt pec s = s.emit .smbusNak := by rcases h with h | h <;> simp [smbusRead, h]
  show guardWf _ _ = _
  rw [hnak]
  simp [ha, hlen]

/-- VERIFY with bad images: the lock passes, and the session is open again. -/
theorem verifyAct_bad {f : Fail} (hall : s.allReceived = true) (hh : s.holder = 7) (hf : firstBad (allImgChecks s) = some f) :
    (verifyAct s).busy .upd = false ∧ (verifyAct s).updState = Us.isOpen ∧
      (verifyAct s).fld R.updStatus stCode = f.1 % 256 := by
  have hh' : (updTo Us.verifying s).holder = 7 := by
    rw [updTo, State.holder, State.fld, State.rd_setFld_ne _ _ _ (by decide)]
    exact hh
  obtain ⟨_, _, _, hpass⟩ := signals_lockPass (s := updTo Us.verifying s)
  have hf' : firstBad (allImgChecks (lockPass (updTo Us.verifying s))) = some f := by
    rw [hpass]
    exact (congrArg _ (allImgChecks_congr rfl rfl rfl rfl)).trans hf
  rw [verifyAct_eq hall, whenLockFree_free hh', verifyFinish_bad hf']
  exact ⟨updDone_free, updDone_updState.trans (updTo_updState (by decide)), updDone_code⟩

/-- What the acceptance of an OPEN and the session it starts leave alone. -/
theorem updHold_taken_rd {off : Nat} (h1 : off ≠ R.updStatus) (h2 : off ≠ R.updSession) :
    (updHold p (s.taken fn .upd op p)).rd off = s.rd off := (State.rd_setFld_ne _ _ _ h2).trans (taken_upd_rd h1)

theorem State.UpdTakes.exec_open_bad {x : Bytes} {f : Fail} (h : s.UpdTakes fn p) (hh : s.updHolder = 7)
    (hst : s.updState = Us.idle) (ha : s.fld R.updArg0 F.updArg0Addr % 64 = 0) (hl : s.fld R.updArg1 F.updArg1Length ≤ 4352)
    (hf : firstBad (openChecks s (s.fld R.updArg1 F.updArg1Length) (slice 0 (s.fld R.updArg1 F.updArg1Length) x)) = some f) :
    exec (.updOpen fn (.data x)) s = .next (updDone f.1 f.2 (updHold p (s.taken fn .upd 1 p))) := by
  have hlen : (updHold p (s.taken fn .upd 1 p)).fld R.updArg1 F.updArg1Length = s.fld R.updArg1 F.updArg1Length :=
    congrArg (getF · _) (updHold_taken_rd (by decide) (by decide))
  have haddr : (updHold p (s.taken fn .upd 1 p)).fld R.updArg0 F.updArg0Addr % 64 = 0 := by
    rw [State.fld, updHold_taken_rd (by decide) (by decide)]
    exact ha
  exact (h.exec_open hh hst).trans
    (congrArg _ (openAct_bad hlen haddr hl ((congrArg _ (openChecks_congr rfl)).trans hf)))

theorem State.UpdTakes.exec_open_waits {x : Bytes} (h : s.UpdTakes fn p) (hh : s.updHolder = 7)
    (hst : s.updState = Us.idle) (ha : s.fld R.updArg0 F.updArg0Addr % 64 = 0) (hl : s.fld R.updArg1 F.updArg1Length ≤ 4352)
    (hf : firstBad (openChecks s (s.fld R.updArg1 F.updArg1Length) (slice 0 (s.fld R.updArg1 F.updArg1Length) x)) = none)
    (hheld : s.holder ≠ 7) : exec (.updOpen fn (.data x)) s = .next { updHold p (s.taken fn .upd 1 p) with
      upd := { s.upd with wait := some (s.now, .opening (slice 0 (s.fld R.updArg1 F.updArg1Length) x)) } } := by
  have hlen : (updHold p (s.taken fn .upd 1 p)).fld R.updArg1 F.updArg1Length = s.fld R.updArg1 F.updArg1Length :=
    congrArg (getF · _) (updHold_taken_rd (by decide) (by decide))
  have haddr : (updHold p (s.taken fn .upd 1 p)).fld R.updArg0 F.updArg0Addr % 64 = 0 := by
    rw [State.fld, updHold_taken_rd (by decide) (by decide)]
    exact ha
  have hheld' : (updHold p (s.taken fn .upd 1 p)).holder ≠ 7 := by
    rw [State.holder, State.fld, updHold_taken_rd (by decide) (by decide)]
    exact hheld
  exact (h.exec_open hh hst).trans
    (congrArg _ (openAct_waits hlen haddr hl ((congrArg _ (openChecks_congr rfl)).trans hf) hheld'))

/-- A VERIFY while the lock is held waits for it. -/
theorem verifyAct_waits (hall : s.allReceived = true) (h : s.holder ≠ 7) : verifyAct s =
    { updTo Us.verifying s with upd := { s.upd with wait := some (s.now, .verify) } } := by
  have hh : (updTo Us.verifying s).holder ≠ 7 := by
    rw [updTo, State.holder, State.fld, State.rd_setFld_ne _ _ _ (by decide)]
    exact h
  rw [verifyAct_eq hall, whenLockFree_held hh]
  rfl

theorem updTaken_holder : (s.updTaken fn op p).holder = s.holder := congrArg (getF · _) (updTaken_rd (by decide))

theorem spareBank_lt : s.spareBank < 2 := by
  unfold State.spareBank
  split <;> omega

theorem updTaken_spareState : (s.updTaken fn op p).bankState s.spareBank = s.bankState s.spareBank := by
  have hb := spareBank_lt (s := s)
  exact congrArg (getF · _) (updTaken_rd (by simp only [R.plateBank, R.updStatus]; omega))

/-- Settles O58: each command meets the check or the condition that turns it away, on the state that has accepted it. -/
theorem commandsThatAreTurnedAway : Obligations.CommandsThatAreTurnedAway := by
  intro s fn p
  refine ⟨?plate, ?sched, ?lookup, ?asa, ?retire, ?queue, ?burin, ?lock, ?unwrap, ?preempt, ?update, ?mailbox, ?smbus⟩
  case plate =>
    intro b gen h hr ht hb hg hne hrest hw t
    refine ⟨?_, ?_, exec_plateAbort h hb hg ?_ ((beside_taken .plate).trans (beside_complete ..)) hw⟩
    · rw [exec_plateLoad h hr ht hb hg, platePerform_stale hrest hne (by decide) (by decide)]
    · rw [exec_plateSwap h hr ht hb hg, platePerform_stale hrest hne (by decide) (by decide)]
    · rw [plate_takes h hr ht (by decide) hb hg, platePerform_stale hrest hne (by decide) (by decide)]
  case sched =>
    intro h hr ht hu t
    refine ⟨fun b gen hb hg hne hrest => ?_, fun hh => ?_⟩
    · have hok : (fnOk fn && decide (b < 2) && decide (gen < 65536)) = true := by simp [h.shape, hb, hg]
      exact ⟨(exec_sched_row rfl hok h hr ht hu (by decide) hb hg).trans
          (congrArg _ (schedPerform_stale hrest hne (by decide) (by decide))),
        (exec_sched_row rfl hok h hr ht hu (by decide) hb hg).trans
          (congrArg _ (schedPerform_stale hrest hne (by decide) (by decide))),
        (exec_sched_row rfl hok h hr ht hu (by decide) hb hg).trans
          (congrArg _ (schedPerform_stale hrest hne (by decide) (by decide)))⟩
    · exact (exec_sched_row (v := .agree) rfl (by simp [h.shape, voteOk]) h hr ht hu (by decide) (by decide) (by decide)).trans
        (congrArg _ (schedPerform_restart_running hh))
  case lookup => exact fun table mask h ht hb hc hn => exec_tblLookup_none h ht hb hc hn
  case asa =>
    intro table ecc h ht hb x img t
    exact ⟨fun hc hn => exec_asaInsertAt_full h ht hb hc hn, fun hc hn => exec_asaSearch_none h ht hb hc hn⟩
  case retire => exact fun h ht hr hu hx hin hout => exec_bpmRetire_second h ht hr hu hx hin hout
  case queue =>
    intro obj h ht hb hu i b t
    exact ⟨fun hc hf hq => exec_qWrite_running h ht hb hu hc hf hq, fun hc hen => exec_qFlush_running h ht hu hc hen⟩
  case burin => exact fun h ht hc => exec_burinCtxRead_uncorr h ht hc
  case lock =>
    intro h hr d
    refine ⟨fun hh => ?_, fun hh => ?_, fun hb => ?_, fun hp => ?_⟩
    · rw [exec_sealLock (act := lockAcquire fn) rfl h, lockAcquire_held (s := dropHeld fn s) hr hh]
    · rw [exec_sealLock (act := lockRelease) rfl h, lockRelease_refused (s := dropHeld fn s) (.inl hh)]
    · rw [exec_sealLock (act := lockRelease) rfl h, lockRelease_refused (s := dropHeld fn s) (.inr hb)]
    · rw [exec_sealLock (act := lockBreak) rfl h, lockBreak_refused hp]
  case unwrap =>
    intro slot h hh ht h32 hs t
    refine ⟨fun hk d ke => ?_, fun hk ke => ?_⟩
    · rw [exec_sealUnwrap h hh ht hs h32, unwrapAct_full (by rw [keyState_taken]; exact hk)]
    · rw [exec_sealUnwrap h hh ht hs h32, unwrapAct_timeout (by rw [keyState_taken]; exact hk)]
  case preempt => exact fun h hp => exec_updPreempt_other h hp
  case update =>
    intro h hr ht hrest hsw t man
    have hu : s.UpdTakes fn p := ⟨h, hr, ht, hrest, hsw⟩
    refine ⟨fun hh hst ha hl x => ⟨fun f hf => hu.exec_open_bad hh hst ha hl hf, fun hf => hu.exec_open_waits hh hst ha hl hf⟩,
      fun hh hst hall => ⟨fun hheld => ?_, fun hfree f hf => ?_⟩, fun hh hst hm _ hb hc => ?_⟩
    · exact (hu.exec_verify hh hst).trans (congrArg _ (verifyAct_waits (allReceived_updTaken.trans hall)
        (updTaken_holder.trans_ne hheld)))
    · exact ⟨_, hu.exec_verify hh hst, verifyAct_bad (allReceived_updTaken.trans hall) (updTaken_holder.trans hfree)
        ((congrArg _ (allImgChecks_congr rfl rfl rfl rfl)).trans hf)⟩
    · exact (hu.exec_activate hh hst).trans (congrArg _ (activateAct_incompatible (s := s.updTaken fn 4 p) hm
        (hb.imp updTaken_spareState.trans updTaken_spareState.trans) hc))
  case mailbox =>
    intro h hb hu hr t
    refine ⟨fun hn => ?_, fun d hk => ?_⟩
    · rw [exec_settingsGet h hb hu hr, settingsGet_unknown (by rw [mbxData_taken (by decide)]; exact hn)]
    · rw [exec_calibWrite h hb hu hr, calibWrite_keyless (by rw [mbxData_taken (by decide)]; exact hk)]
  case smbus => exact fun addr sent fmt pec ha hs h => exec_smbusRead_unanswered ha hs h

end Sys2Proof.Machine
end

section
/-! SUPPORT. A Pause frame whose first bytes wait at the port for their header segment. -/

namespace Sys2Proof.Machine

variable {s : State} {port len quanta : Nat} {fec : Fec}

/-- No counter of a port is where the port's pause mode stands. -/
theorem linePfcCfg_ne_lineCtr {i : Nat} (hi : i < 32) (q : Nat) : R.linePfcCfg port ≠ lineCtr q i := by
  simp only [R.linePfcCfg, lineCtr, R.lineCtr]
  omega

theorem countRx_pauseMode : (countRx port len fec s).pauseMode port = s.pauseMode port := by
  have hctr : ∀ i < 32, R.linePfcCfg port ≠ lineCtr port i := fun i hi => linePfcCfg_ne_lineCtr hi port
  unfold State.pauseMode State.fld countRx countFec State.bump
  rw [State.rd_wr_ne _ _ (hctr 24 (by decide)), State.rd_wr_ne _ _ (hctr 23 (by decide)),
    State.rd_wr_ne _ _ (hctr 1 (by decide)), State.rd_inc_ne _ (hctr 0 (by decide))]

/-- A good Pause frame that is not obeyed is counted; bytes of it that wait for their header segment (R86) wait no longer. -/
theorem exec_pauseFrameReceive_waiting (hp : port < 96) (hq : quanta < 65536) (hon : s.rxOn port = true) {c : RxCur}
    (hcur : smapFind port s.line.rx = some c) (hwait : c.wait = true) (hgood : c.bad = false) (hlen : 64 ≤ len)
    (hfec : fec.uncorr = 0) (hmode : s.pauseMode port ≠ 1) : exec (.pauseFrameReceive port len false quanta fec) s =
      .next ((countRx port len fec (clearCur port s)).inc (lineCtr port 8)) := by
  have hfree : s.rxFree port = true := by rw [State.rxFree, hcur]; exact hwait
  have hmode' : ((countRx port len fec (clearCur port s)).inc (lineCtr port 8)).pauseMode port ≠ 1 := by
    rw [State.pauseMode, State.fld, State.rd_inc_ne _ (linePfcCfg_ne_lineCtr (by decide) port)]
    exact ne_of_eq_of_ne countRx_pauseMode hmode
  show guardWf (decide _ && decide _) (controlFrame ..) = _
  rw [decide_eq_true hp, decide_eq_true hq, controlFrame, hon, hfree, hcur]
  simp only [Option.map_some, Option.getD_some, hwait, hgood, hfec, Nat.not_lt.mpr hlen, beq_false_of_ne hmode', doIf_true,
    doIf_false, Bool.and_false, Bool.or_false, Bool.and_self, if_true, if_false, Bool.false_eq_true, lt_irrefl, decide_false,
    guardWf_true]

/-- Port 0 receives in no pause mode, and has left the first 64 bytes of a frame to its header segment. -/
def segmentAwaited : State :=
  awaitSegment 0 64 false (((State.reset.wr (R.lineOctetCfg 0) (setF 0 F.lineOctetCfgMode 2)).wr (R.linePortCfg 0)
    (setF 0 F.linePortCfgPortEn 1)).wr (R.linePortStat 0) (setF 0 F.linePortStatLinkUp 1))

theorem segmentAwaited_rxOn : segmentAwaited.rxOn 0 = true := by decide

theorem segmentAwaited_pauseMode : segmentAwaited.pauseMode 0 = 0 := by decide

theorem segmentAwaited_rx : smapFind 0 segmentAwaited.line.rx =
    some { pkt := none, len := 64, sched := none, bad := false, wait := true } := rfl

/-- Refutes O59: its clause on a Pause frame that is not obeyed lets nothing but counters change, whatever waits at the port.
Where the frame's first 64 bytes were left to the spreader (R86) and the MAC then takes it as a Pause frame, its receive
slot is given up too. -/
theorem not_badArrivalsAreHandled : ¬ Obligations.BadArrivalsAreHandled := by
  unfold Obligations.BadArrivalsAreHandled
  rintro ⟨-, -, -, -, -, -, -, -, -, -, -, -, -, -, hline, -⟩
  have hmode : segmentAwaited.pauseMode 0 ≠ 1 := by rw [segmentAwaited_pauseMode]; decide
  obtain ⟨-, hpause⟩ := hline segmentAwaited 0 64 0 [] ⟨0, 0, 0, 0⟩ (by decide) segmentAwaited_rxOn
  have hclaim := hpause hmode (by decide) (by decide) rfl
  have hmodel := exec_pauseFrameReceive_waiting (quanta := 0) (len := 64) (fec := ⟨0, 0, 0, 0⟩) (by decide) (by decide)
    segmentAwaited_rxOn segmentAwaited_rx rfl rfl (by decide) rfl hmode
  have hstate := Host.Outcome.next.inj (hmodel.symm.trans hclaim)
  have hslot : smapFind 0 (smapErase 0 segmentAwaited.line.rx) = smapFind 0 segmentAwaited.line.rx :=
    congrArg (fun t : State => smapFind 0 t.line.rx) hstate
  rw [smapFind_erase_same, segmentAwaited_rx] at hslot
  cases hslot

end Sys2Proof.Machine
end

section
/-! SUPPORT. O48: packets in a pipeline, in the reorder unit and at the line MAC. -/

namespace Sys2Proof.Machine

variable {s : State} {id n port : Nat} {p : Packet} {x : StageIn}

/-- A command whose operands name something the device has runs. -/
theorem guardWf_of {ok : Bool} (h : ok = true) : guardWf ok s = .next s := if_pos h

/-! ### A pass through a pipeline -/

@[simp] theorem pkt_setPkt_same : (setPkt id p s).pkt id = some p := smapFind_insert_same

@[simp] theorem touchPair_regs : (touchPair p s).regs = s.regs := by
  unfold touchPair
  split <;> rfl

@[simp] theorem touchOld_regs : (touchOld id s).regs = s.regs := by
  unfold touchOld
  split
  · exact touchPair_regs
  · rfl

@[simp] theorem setPkt_rd (off : Nat) : (setPkt id p s).rd off = s.rd off :=
  congrArg (smapGet regReset off) (touchPair_regs.trans touchOld_regs)

theorem erasePkt_rd (off : Nat) : (erasePkt id s).rd off = s.rd off := congrArg (smapGet regReset off) touchOld_regs

/-- The counters of a pipeline's parser are registers of their own. -/
theorem parserCtr_ne {pipe i j : Nat} (h : i ≠ j) : R.parserCtr pipe i ≠ R.parserCtr pipe j := by
  simp only [R.parserCtr]
  omega

theorem inc_parserCtr_rd {pipe i : Nat} (h : i ≠ 0) :
    (s.inc (R.parserCtr pipe i)).rd (R.parserCtr pipe 0) = s.rd (R.parserCtr pipe 0) :=
  State.rd_inc_ne s (parserCtr_ne h.symm)

/-- The flags of a parse are counted beside the packets parsed. -/
theorem countFlags_parsed (pipe flags : Nat) :
    (countFlags pipe flags s).rd (R.parserCtr pipe 0) = s.rd (R.parserCtr pipe 0) := by
  have hfrag : ∀ u : State, (if flags &&& pfFragLater != 0 then u.inc (R.parserCtr pipe 8) else u.inc (R.parserCtr pipe 7)).rd
      (R.parserCtr pipe 0) = u.rd (R.parserCtr pipe 0) := fun u => by
    split
    · exact inc_parserCtr_rd (by decide)
    · exact inc_parserCtr_rd (by decide)
  exact (doIf_rd hfrag _).trans
    ((doIf_rd (fun _ => inc_parserCtr_rd (by decide)) _).trans (doIf_rd (fun _ => inc_parserCtr_rd (by decide)) _))

theorem lenLate_parsed (len : Nat) : (lenLate p len s).rd (R.parserCtr p.pipe 0) = s.rd (R.parserCtr p.pipe 0) :=
  doIf_rd (fun _ => inc_parserCtr_rd (by decide)) s

theorem lateBefore_parsed (effEnd : Option Nat) :
    (lateBefore p effEnd s).rd (R.parserCtr p.pipe 0) = s.rd (R.parserCtr p.pipe 0) :=
  doIf_rd (fun _ => lenLate_parsed (p := { p with effEnd := effEnd }) _) s

/-- A packet that reads no word of the plate store goes on. -/
theorem withPlateWords_none (k : State → State) : withPlateWords id p [] k s = k s := rfl

/-- A packet that no exception action takes is parsed and goes to its first stage. -/
theorem packetParse_continues (hp : s.pkt id = some p) (hx : x.reads = []) (hplace : p.place = .pipe)
    (hawake : s.pairAwake p.pipe = true) (htrip : s.pwr.tripped = false) (hstage : p.stage = none)
    (hseg : p.hasSegment = true) :
    let g := (s.bank p.bank).graph
    let known : Bool := p.tailIn && p.bytes.length + 4 ≤ 384
    let pr := parsePacket g p.bytes (startState g p) known
      (s.fld R.parserTpid F.parserTpidTpid0) (s.fld R.parserTpid F.parserTpidTpid1)
    let effEnd := parseEnd g p.bytes (startState g p) known
    excAction g (prFlags pr) = 1 → packetParse id x s =
      setPkt id { p with pr := pr, effEnd := effEnd, stage := some 0, scan := none }
        (lateBefore p effEnd (countFlags p.pipe (prFlags pr) (s.inc (R.parserCtr p.pipe 0)))) := by
  intro g known pr effEnd hact
  unfold packetParse
  rw [hp]
  simp only [hplace, hstage, hseg, hawake, htrip, hx, withPlateWords_none, beq_self_eq_true, Option.isNone_none, Bool.not_false,
    Bool.and_self, if_true]
  rw [if_neg (by rw [hact]; decide), if_neg (by rw [hact]; decide)]
  rfl

theorem pipelineStage_last {k : Nat} (hp : s.pkt id = some p) (hplace : p.place = .pipe) (hawake : s.pairAwake p.pipe = true)
    (htrip : s.pwr.tripped = false) (hstage : p.stage = some k) (hend : (s.prog p.bank p.pipe).stages[k]? = none) :
    pipelineStage id x s = leavePipe id p s := by
  unfold pipelineStage
  rw [hp]
  simp only [hstage, hplace, hawake, htrip, hend, beq_self_eq_true, Bool.not_false, Bool.and_self, if_true]

/-- A stage runs where it need not wait for the matcher. -/
theorem pipelineStage_runs {k : Nat} {st : Stage} (hp : s.pkt id = some p) (hx : x.reads = []) (hplace : p.place = .pipe)
    (hawake : s.pairAwake p.pipe = true) (htrip : s.pwr.tripped = false) (hstage : p.stage = some k)
    (hst : (s.prog p.bank p.pipe).stages[k]? = some st) (hscan : st.readsPpm = false ∨ p.scan = none) :
    pipelineStage id x s = runStage x st id p s := by
  have hgo : (st.readsPpm && p.scan.isSome) = false := by
    rcases hscan with h | h
    · rw [h, Bool.false_and]
    · rw [h, Option.isSome_none, Bool.and_false]
  unfold pipelineStage
  rw [hp]
  simp only [hstage, hplace, hawake, htrip, hst, hgo, hx, withPlateWords_none, beq_self_eq_true, Bool.not_false, Bool.and_self,
    if_true, if_false, Bool.false_eq_true]

/-! ### The reorder unit -/

/-- A good packet ahead of E, or E itself, takes its place. -/
theorem reorderArrival_takes {seq : Nat} (hp : s.pkt id = some p) (hdone : s.donePkt n seq = some id)
    (hahead : (s.stream n).ahead seq = true) (hgood : p.bad = none) :
    reorderArrival n seq s = release n (setPkt id { p with place := .reorder } s) := by
  unfold reorderArrival
  simp only [hdone, hp, hahead, hgood, if_true]

theorem reorderTimeout_skips (hnext : (s.stream n).next ≠ (s.stream n).e)
    (hdue : (s.stream n).since + nsT (s.fld R.reorderCfg F.reorderCfgReorderTimeoutNs) ≤ s.now) :
    reorderTimeout n s = release n (advanceE n (report .f 0x05 n .k 0x001 [] (countSkip n s))) := by
  unfold reorderTimeout
  rw [if_pos]
  simp only [bne_iff_ne.2 hnext, decide_eq_true hdue, Bool.and_self]

/-! ### The line MAC -/

theorem takeFirst_head {α : Type} {f : α → Bool} {a : α} {l : List α} (h : f a = true) : takeFirst f (a :: l) = some (a, l) :=
  if_pos h

/-- A routed frame that no pause holds goes once it is whole and no release is near. -/
theorem txFrame_routed {rest : List MacItem} (hp : s.pkt id = some p) (htrip : s.pwr.tripped = false)
    (hup : s.linkUp port = true) (hq : s.macQueue port = .routed id :: rest) (hheld : s.heldAtMac port (.routed id) = false)
    (htail : p.tailIn = true) (hguard : s.relGuard port = false) (hout : s.outputHeld = false) :
    txFrame port s = sendRouted port p (erasePkt id (setMacQueue port rest s)) := by
  have hturn : s.turnAtMac port (.routed id) = true := by simp only [State.turnAtMac, hheld, Bool.not_false, Bool.or_true]
  have hwhole : s.wholeAtMac (.routed id) = true := by simp only [State.wholeAtMac, hp, Option.map_some, Option.getD_some, htail]
  have hrd (off : Nat) : (erasePkt id (setMacQueue port rest s)).rd off = s.rd off := erasePkt_rd off
  have hup' : (erasePkt id (setMacQueue port rest s)).linkUp port = true :=
    (congrArg (fun w => getF w F.linePortStatLinkUp != 0) (hrd _)).trans hup
  have hout' : (erasePkt id (setMacQueue port rest s)).outputHeld = false := by
    rw [State.outputHeld, State.twinState, State.fld, hrd]
    exact hout
  have hp' : (setMacQueue port rest s).pkt id = some p := hp
  unfold txFrame
  simp only [htrip, hq, takeFirst_head hturn, hwhole, hguard, sendItem, hp', hout', hup', Bool.not_false, Bool.and_self,
    Bool.or_true, if_true, if_false, Bool.false_eq_true]

/-- A release goes at its TIME, whatever pause holds. -/
theorem txFrame_sched {rest : List MacItem} {b : Bytes} {flow at_ : Nat} (htrip : s.pwr.tripped = false)
    (hup : s.linkUp port = true) (hq : s.macQueue port = .sched b flow at_ :: rest) (hdue : at_ ≤ s.now)
    (hout : s.outputHeld = false) (hhold : s.anyHold port = false) :
    txFrame port s = sendSched port b (min s.now (at_ + 40)) (setMacQueue port rest s) := by
  have hturn : s.turnAtMac port (.sched b flow at_) = true := decide_eq_true hdue
  have hup' : (setMacQueue port rest s).linkUp port = true := hup
  have hout' : (setMacQueue port rest s).outputHeld = false := hout
  have hhold' : (setMacQueue port rest s).anyHold port = false := hhold
  unfold txFrame
  simp only [htrip, hq, takeFirst_head hturn, sendItem, hup', hout', hhold', doIf_false, if_true, if_false, Bool.false_eq_true]
  rfl

/-- Settles O48: each command meets one branch of its unit, whose conditions are those of the statement. -/
theorem packetsMoveThroughThePipelines : Obligations.PacketsMoveThroughThePipelines := by
  intro s id n seq port p x hp hx
  refine ⟨fun hplace hawake htrip => ⟨?parse, fun k hstage => ⟨?last, ?stage⟩⟩,
    ?arrival, ?timeout, fun hport htrip hup => ⟨?routed, ?sched⟩⟩
  case parse =>
    intro hstage g pr hseg hact _
    refine ⟨_, congrArg Host.Outcome.next (packetParse_continues hp hx hplace hawake htrip hstage hseg hact), pkt_setPkt_same, ?_⟩
    rw [setPkt_rd, lateBefore_parsed, countFlags_parsed, State.rd_inc_same]
  case last => exact fun hend => congrArg _ (pipelineStage_last hp hplace hawake htrip hstage hend)
  case stage => exact fun st hst hscan => congrArg _ (pipelineStage_runs hp hx hplace hawake htrip hstage hst hscan)
  case arrival =>
    intro hn hseq hdone _ _ hgood hahead
    rw [← reorderArrival_takes hp hdone hahead hgood]
    exact guardWf_of (Bool.and_eq_true_iff.2 ⟨decide_eq_true hn, decide_eq_true hseq⟩)
  case timeout =>
    intro hn hnext hdue
    rw [← reorderTimeout_skips hnext hdue]
    exact guardWf_of (decide_eq_true hn)
  case routed =>
    intro rest hq hheld htail hguard hout
    rw [← txFrame_routed hp htrip hup hq hheld htail hguard hout]
    exact guardWf_of (decide_eq_true hport)
  case sched =>
    intro rest b flow at_ hq hdue hout hhold
    rw [← txFrame_sched htrip hup hq hdue hout hhold]
    exact guardWf_of (decide_eq_true hport)

end Sys2Proof.Machine
end

section
/-! SUPPORT. O46: the header segment of a frame and its tail. -/

namespace Sys2Proof.Machine

variable {s : State} {port pipe off id len : Nat} {p : Packet} {fec : Fec} {seg rest : Bytes} {tail : Tail} {cur : RxCur}

/-! ### The counters of a port -/

/-- No counter of a line port stands at an offset. -/
def NoLineCtr (off : Nat) : Prop := ∀ port, ∀ i < 32, off ≠ lineCtr port i

theorem noLineCtr_of_low (h : off < R.linePortCfg 0) : NoLineCtr off := by
  intro q i _
  simp only [R.linePortCfg] at h
  simp only [lineCtr, R.lineCtr]
  omega

theorem noLineCtr_linePortCfg : NoLineCtr (R.linePortCfg port) := by
  intro q i _
  simp only [R.linePortCfg, lineCtr, R.lineCtr]
  omega

theorem inc_lineCtr_rd {i : Nat} (h : NoLineCtr off) (hi : i < 32) : (s.inc (lineCtr port i)).rd off = s.rd off :=
  State.rd_inc_ne s (h port i hi)

theorem countFec_rd (h : NoLineCtr off) : (countFec port fec s).rd off = s.rd off :=
  (State.rd_wr_ne _ _ (h port 24 (by decide))).trans (State.rd_wr_ne _ _ (h port 23 (by decide)))

theorem countRx_rd (h : NoLineCtr off) : (countRx port len fec s).rd off = s.rd off :=
  (countFec_rd h).trans ((State.rd_wr_ne _ _ (h port 1 (by decide))).trans (inc_lineCtr_rd h (by decide)))

/-- Counting a frame changes registers alone. -/
theorem countFec_keeps {β : Type} (g : State → β) (hg : ∀ (u : State) off v, g (u.wr off v) = g u) :
    g (countFec port fec s) = g s := (hg ..).trans (hg ..)

theorem countRx_keeps {β : Type} (g : State → β) (hg : ∀ (u : State) off v, g (u.wr off v) = g u) :
    g (countRx port len fec s) = g s := (countFec_keeps g hg).trans ((hg ..).trans (hg ..))

theorem countRx_fld {f : Fld} (h : NoLineCtr off) : (countRx port len fec s).fld off f = s.fld off f :=
  congrArg (getF · f) (countRx_rd h)

theorem clearCur_fld {f : Fld} : (clearCur port s).fld off f = s.fld off f := rfl

/-! ### The spreader -/

/-- From `s` to `t` a port may have been given up, and no register changes but counters of line ports. -/
structure Counted (s t : State) : Prop where
  plate   : t.plate = s.plate
  pkts    : t.pkts = s.pkts
  brFT    : t.brFT = s.brFT
  q       : t.q = s.q
  streams : t.line.streams = s.line.streams
  rr      : t.line.rr = s.line.rr
  rd      : ∀ off, NoLineCtr off → t.rd off = s.rd off

theorem counted_countRx : Counted s (countRx port len fec (clearCur port s)) :=
  ⟨countRx_keeps State.plate State.wr_plate, countRx_keeps State.pkts State.wr_pkts, countRx_keeps State.brFT State.wr_brFT,
    countRx_keeps State.q State.wr_q, countRx_keeps (fun u : State => u.line.streams) (fun _ _ _ => rfl),
    countRx_keeps (fun u : State => u.line.rr) (fun _ _ _ => rfl), fun _ h => countRx_rd h⟩

theorem counted_countFec : Counted s (countFec port fec (clearCur port s)) :=
  ⟨countFec_keeps State.plate State.wr_plate, countFec_keeps State.pkts State.wr_pkts, countFec_keeps State.brFT State.wr_brFT,
    countFec_keeps State.q State.wr_q, countFec_keeps (fun u : State => u.line.streams) (fun _ _ _ => rfl),
    countFec_keeps (fun u : State => u.line.rr) (fun _ _ _ => rfl), fun _ h => countFec_rd h⟩

/-- The contexts in use show in the packets listed and in the flits of the bridge. -/
theorem Counted.ctxFree {t : State} (h : Counted s t) (n : Nat) : t.ctxFree n = s.ctxFree n := by
  have hholds : t.holdsCtx = s.holdsCtx := by
    funext i p
    unfold State.holdsCtx
    rw [h.brFT]
  unfold State.ctxFree State.ctxUsed
  rw [hholds, h.pkts]

theorem Counted.ingressOk {t : State} {n : Nat} (h : Counted s t) (hn : n < 16) : t.ingressOk n = s.ingressOk n := by
  have hrole : t.role n = s.role n :=
    congrArg (getF · _) (h.rd _ (noLineCtr_of_low (by simp only [R.platePipe, R.linePortCfg]; omega)))
  have hquiesce : t.quiescing n = s.quiescing n :=
    congrArg (fun w => nbit (getF w F.plateCtlPipeQuiesce) n) (h.rd _ (noLineCtr_of_low (by decide)))
  unfold State.ingressOk
  rw [hrole, hquiesce, h.plate, h.ctxFree]

theorem Counted.nextPipe {t : State} (h : Counted s t) (from_ : Nat) : nextPipe t from_ = nextPipe s from_ := by
  unfold Machine.nextPipe
  refine List.find?_congr fun n hn => h.ingressOk ?_
  obtain ⟨i, _, rfl⟩ := List.mem_map.1 hn
  exact Nat.mod_lt _ (by decide)

/-- The packet that the spreader makes of a header segment. -/
def spreadPkt (port : Nat) (bytes : Bytes) (whole : Bool) (s : State) : Packet :=
  { noPacket with port := port, bytes := bytes, tailIn := whole,
                  stamp := s.rxStamp port (bytes.length + if whole then 4 else 0) }

theorem spread_admits {bytes : Bytes} {whole : Bool} (hout : (s.stream port).outstanding < 32768)
    (hpipe : nextPipe s s.line.rr = some pipe) :
    spread port bytes whole s = admitTo port pipe (spreadPkt port bytes whole s) s := by
  unfold spread
  rw [if_neg (Nat.not_le.2 hout), hpipe]
  rfl

@[simp] theorem touchPair_line : (touchPair p s).line = s.line := by
  unfold touchPair
  split <;> rfl

@[simp] theorem touchPair_q : (touchPair p s).q = s.q := by
  unfold touchPair
  split <;> rfl

@[simp] theorem touchOld_line : (touchOld id s).line = s.line := by
  unfold touchOld
  split
  · exact touchPair_line
  · rfl

@[simp] theorem setPkt_line : (setPkt id p s).line = s.line := touchPair_line.trans touchOld_line

theorem newPkt_line : (newPkt p s).line = s.line := touchPair_line

theorem newPkt_nextPkt : (newPkt p s).q.nextPkt = s.q.nextPkt + 1 := congrArg (·.nextPkt + 1) touchPair_q

theorem newPkt_pkt : (newPkt p s).pkt s.q.nextPkt = some p := by
  rw [← touchPair_q (p := p) (s := s)]
  exact smapFind_insert_same

/-- A packet as a pipeline takes it: it carries the number that its stream gives next, and the live bank's tag. -/
def inPipeline (n pipe : Nat) (p : Packet) (s : State) : Packet :=
  { p with place := .pipe, stream := n, seq := (s.stream n).next, egress := false, pipe := pipe,
           bank := s.plate.live.getD 0, pass := 0, stage := none }

/-- The next number of a stream is given, to a packet for a pipeline. -/
def numbered (n pipe : Nat) (s : State) : State :=
  setStream n { s.stream n with next := ((s.stream n).next + 1) % 65536,
                                since := if (s.stream n).next = (s.stream n).e then s.now else (s.stream n).since }
    (notePass 1 { s with line := { s.line with rr := (pipe + 1) % 16 } })

theorem admitTo_eq (n : Nat) : admitTo n pipe p s = newPkt (inPipeline n pipe p s) (numbered n pipe s) := rfl

theorem admitTo_pkt (n : Nat) : (admitTo n pipe p s).pkt s.q.nextPkt = some (inPipeline n pipe p s) :=
  newPkt_pkt (s := numbered n pipe s)

theorem admitTo_nextPkt (n : Nat) : (admitTo n pipe p s).q.nextPkt = s.q.nextPkt + 1 := newPkt_nextPkt (s := numbered n pipe s)

theorem admitTo_rr (n : Nat) : (admitTo n pipe p s).line.rr = (pipe + 1) % 16 :=
  congrArg (·.rr) (newPkt_line (s := numbered n pipe s))

theorem admitTo_next (n : Nat) : ((admitTo n pipe p s).stream n).next = ((s.stream n).next + 1) % 65536 := by
  rw [admitTo_eq, State.stream, newPkt_line]
  exact congrArg Reorder.next smapGet_put_same

/-- What the spreader does of a header segment as the port's counters stand after it. -/
theorem spread_counted {u : State} {bytes : Bytes} {whole : Bool} (h : Counted s u)
    (hout : (s.stream port).outstanding < 32768) (hpipe : nextPipe s s.line.rr = some pipe) :
    let t := spread port bytes whole u
    t.pkt s.q.nextPkt = some (inPipeline port pipe (spreadPkt port bytes whole u) s) ∧
      (t.stream port).next = ((s.stream port).next + 1) % 65536 ∧ t.line.rr = (pipe + 1) % 16 ∧
      t.q.nextPkt = u.q.nextPkt + 1 := by
  have hstream : u.stream port = s.stream port := congrArg (smapGet _ port) h.streams
  have hadmit : spread port bytes whole u = admitTo port pipe (spreadPkt port bytes whole u) u :=
    spread_admits (hstream ▸ hout) ((h.nextPipe _).trans (h.rr ▸ hpipe))
  have hpkt : inPipeline port pipe (spreadPkt port bytes whole u) u = inPipeline port pipe (spreadPkt port bytes whole u) s := by
    unfold inPipeline
    rw [hstream, h.plate]
  intro t
  refine ⟨?_, ?_, ?_, ?_⟩
  · rw [← hpkt, ← h.q]
    exact (congrArg (State.pkt · _) hadmit).trans (admitTo_pkt port)
  · rw [← hstream]
    exact (congrArg (fun v : State => (v.stream port).next) hadmit).trans (admitTo_next port)
  · exact (congrArg (fun v : State => v.line.rr) hadmit).trans (admitTo_rr port)
  · exact (congrArg (fun v : State => v.q.nextPkt) hadmit).trans (admitTo_nextPkt port)

theorem clearCur_pkt : (clearCur port s).pkt id = s.pkt id := rfl
theorem setCur_pkt {c : RxCur} : (setCur port c s).pkt id = s.pkt id := rfl
theorem setCur_stream {c : RxCur} (n : Nat) : (setCur port c s).stream n = s.stream n := rfl
theorem setCur_rr {c : RxCur} : (setCur port c s).line.rr = s.line.rr := rfl

/-! ### The header segment -/

theorem exec_headerSegmentArrive {whole : Bool} (hp : port < 96) (hmatch : s.segMatches port seg = false)
    (hlen : seg.length ≤ 384) (hwhole : whole = true ∨ seg.length = 384) :
    exec (.headerSegmentArrive port seg whole false fec) s = .next (headerSegment port seg whole false fec s) := by
  have hw : (whole || seg.length == 384) = true := by
    rcases hwhole with h | h
    · rw [h, Bool.true_or]
    · rw [h, beq_self_eq_true, Bool.or_true]
  show guardWf (decide (port < 96) && decide (seg.length ≤ 384) && (whole || seg.length == 384)) (routedSegment ..) = _
  rw [decide_eq_true hp, decide_eq_true hlen, hw, routedSegment, hmatch]
  rfl

/-- A good frame that is received whole goes to the spreader without its FCS. -/
theorem headerSegment_whole (hon : s.rxOn port = true) (hfree : s.rxFree port = true) (hgood : s.curBad port = false)
    (hlen : 64 ≤ seg.length) (hfec : fec.uncorr = 0) : headerSegment port seg true false fec s =
      spread port (dropFcs seg) true (countRx port seg.length fec (clearCur port s)) := by
  have hbad : ((smapFind port s.line.rx).map (·.bad)).getD false = false := hgood
  unfold headerSegment
  simp only [hon, hfree, hbad, hfec, Nat.not_lt.2 hlen, Bool.and_self, Bool.or_false, if_true, if_false, lt_irrefl, decide_false,
    Bool.false_eq_true]

/-- The first bytes of a longer frame become a packet, and the port receives the rest of it. -/
theorem headerSegment_first (hon : s.rxOn port = true) (hfree : s.rxFree port = true) (hgood : s.curBad port = false) :
    let u := countFec port fec (clearCur port s)
    let t := spread port seg false u
    t.q.nextPkt ≠ u.q.nextPkt → headerSegment port seg false false fec s =
      setCur port { pkt := some u.q.nextPkt, len := seg.length, sched := none, bad := 0 < fec.uncorr, wait := false } t := by
  have hbad : ((smapFind port s.line.rx).map (·.bad)).getD false = false := hgood
  intro u t hnew
  unfold headerSegment
  simp only [hon, hfree, hbad, Bool.and_self, Bool.or_false, Bool.false_or, if_true, if_false, Bool.false_eq_true]
  rw [if_neg hnew]
  rfl

/-! ### The tail -/

/-- Why a tail makes its frame bad, if it does: oversize is judged first. -/
def tailFault (most full : Nat) (bad : Bool) : Option BadTail :=
  if most < full then some .oversize else if bad then some .fcs else none

theorem tailFault_good {most full : Nat} (h : full ≤ most) : tailFault most full false = none := if_neg (Nat.not_lt.2 h)

theorem tailFault_bad {most full : Nat} {bad : Bool} (h : most < full ∨ bad = true) :
    tailFault most full bad = some (if most < full then .oversize else .fcs) := by
  unfold tailFault
  by_cases hm : most < full
  · rw [if_pos hm, if_pos hm]
  · rw [if_neg hm, if_neg hm, if_pos (h.resolve_left hm)]

/-- The tail of a frame whose packet is listed. -/
theorem frameTail_listed (hcur : smapFind port s.line.rx = some cur) (hon : s.rxOn port = true) (hsched : cur.sched = none)
    (hpkt : cur.pkt = some id) : frameTail port rest tail fec s =
      tailOf port id rest cur.len (tailFault (s.fld (R.linePortCfg port) F.linePortCfgMaxFrame) (cur.len + rest.length)
        (tail != .good || cur.bad || 0 < fec.uncorr)) (clearCur port (countRx port (cur.len + rest.length) fec s)) := by
  have hmost : (clearCur port (countRx port (cur.len + rest.length) fec s)).fld (R.linePortCfg port) F.linePortCfgMaxFrame =
      s.fld (R.linePortCfg port) F.linePortCfgMaxFrame := clearCur_fld.trans (countRx_fld noLineCtr_linePortCfg)
  unfold frameTail
  simp only [hcur, hon, hsched, hpkt, hmost, Option.isNone_none, Bool.and_self, if_true]
  rfl

/-- The packet of a frame that ends while its pipeline has it. -/
def ended (p : Packet) (rest : Bytes) (b : Option BadTail) : Packet :=
  { p with bytes := dropFcs (p.bytes ++ rest), tailIn := true, stomp := p.stomp || b.isSome, bad := b }

theorem lenLate_rd {q : Packet} (h : off < R.parserCtr 0 0) : (lenLate q len s).rd off = s.rd off :=
  doIf_rd (fun _ => State.rd_inc_ne _ (by simp only [R.parserCtr] at h ⊢; omega)) s

theorem doIf_lenLate_rd {q : Packet} (b : Bool) (h : off < R.parserCtr 0 0) :
    (doIf b (lenLate q len) s).rd off = s.rd off := doIf_rd (fun _ => lenLate_rd h) s

theorem lenLate_line {q : Packet} : (lenLate q len s).line = s.line := 
  doIf_keeps (fun u : State => u.line) (fun u => u.inc_line (R.parserCtr q.pipe 6)) _ s

theorem doIf_lenLate_line {q : Packet} (b : Bool) : (doIf b (lenLate q len) s).line = s.line :=
  doIf_keeps (fun u : State => u.line) (fun _ => lenLate_line) b s

/-- The tail of a packet in a pipeline: bytes of it beyond MAX_FRAME are cut off, and only a counter tells of a late length. -/
theorem tailOf_inPipe {had : Nat} {b : Option BadTail} (hport : port < 96) (hp : s.pkt id = some p) (hplace : p.place = .pipe) :
    ∃ u, u.line = s.line ∧ tailOf port id rest had b s =
      setPkt id (ended p (rest.take (s.fld (R.linePortCfg port) F.linePortCfgMaxFrame - had)) b) u := by
  refine ⟨doIf (p.place != .dropped && (p.stage.isSome || p.pass != 0)) (lenLate p (had + rest.length - 4)) s,
    doIf_lenLate_line _, ?_⟩
  have hmost : (doIf (p.place != .dropped && (p.stage.isSome || p.pass != 0)) (lenLate p (had + rest.length - 4)) s).fld
      (R.linePortCfg port) F.linePortCfgMaxFrame = s.fld (R.linePortCfg port) F.linePortCfgMaxFrame :=
    congrArg (getF · _) (doIf_lenLate_rd _ (by simp only [R.linePortCfg, R.parserCtr]; omega))
  unfold tailOf
  rw [hp]
  simp only [hmost]
  cases p
  cases hplace
  rfl

/-- What a frame's end sends on, it sends of packets for a ring or a burin alone. -/
theorem tailAndAfter_inPipe {k : State → State} (hcur : smapFind port s.line.rx = some cur) (hpkt : cur.pkt = some id)
    (hp : (k s).pkt id = some p) (hplace : p.place = .pipe) : tailAndAfter port k s = k s := by
  unfold tailAndAfter
  rw [hcur, Option.bind_some, hpkt]
  simp only [ringWrite, burinWhole, hp, hplace]

theorem exec_frameTailArrive (hp : port < 96) :
    exec (.frameTailArrive port rest tail fec) s = .next (tailAndAfter port (frameTail port rest tail fec) s) :=
  guardWf_of (decide_eq_true hp)

/-- The tail of a frame in a pipeline: the port is free again, and the packet is whole. -/
theorem exec_frameTailArrive_inPipe (hport : port < 96) (hcur : smapFind port s.line.rx = some cur)
    (hon : s.rxOn port = true) (hsched : cur.sched = none) (hpkt : cur.pkt = some id) (hp : s.pkt id = some p)
    (hplace : p.place = .pipe) :
    let most := s.fld (R.linePortCfg port) F.linePortCfgMaxFrame
    ∃ t, exec (.frameTailArrive port rest tail fec) s = .next t ∧ smapFind port t.line.rx = none ∧
      t.pkt id = some (ended p (rest.take (most - cur.len))
        (tailFault most (cur.len + rest.length) (tail != .good || cur.bad || 0 < fec.uncorr))) := by
  intro most
  have hpkts : (clearCur port (countRx port (cur.len + rest.length) fec s)).pkt id = some p :=
    clearCur_pkt.trans ((countRx_keeps (State.pkt · id) fun _ _ _ => rfl).trans hp)
  obtain ⟨u, hline, htail⟩ := tailOf_inPipe (rest := rest) (had := cur.len)
    (b := tailFault most (cur.len + rest.length) (tail != .good || cur.bad || 0 < fec.uncorr))
    (s := clearCur port (countRx port (cur.len + rest.length) fec s)) hport hpkts hplace
  have hmost : (clearCur port (countRx port (cur.len + rest.length) fec s)).fld (R.linePortCfg port) F.linePortCfgMaxFrame =
      most :=
    clearCur_fld.trans (countRx_fld noLineCtr_linePortCfg)
  rw [hmost] at htail
  have hframe := (frameTail_listed (rest := rest) (tail := tail) (fec := fec) hcur hon hsched hpkt).trans htail
  have hended := (congrArg (State.pkt · id) hframe).trans pkt_setPkt_same
  refine ⟨frameTail port rest tail fec s, ?_, ?_, hended⟩
  · rw [exec_frameTailArrive hport, tailAndAfter_inPipe hcur hpkt hended hplace]
  · rw [hframe, setPkt_line, hline]
    exact smapFind_erase_same

/-- Settles O46: the spreader admits the frame to the pipeline whose turn it is, and the tail is judged by its one fault. -/
theorem framesArrive : Obligations.FramesArrive := by
  intro s port pipe seg rest fec hport hon
  refine ⟨?segment, ?tail⟩
  case segment =>
    intro hfree hgood hmatch hlen hmin hout hpipe whole hwhole
    have hshape : whole = true ∨ seg.length = 384 := hwhole.imp And.left And.right
    rw [exec_headerSegmentArrive hport hmatch hlen hshape]
    rcases hwhole with ⟨rfl, hfec⟩ | ⟨rfl, hseg⟩
    · obtain ⟨hpkt, hnext, hrr, -⟩ := spread_counted (bytes := dropFcs seg) (whole := true)
        (counted_countRx (port := port) (len := seg.length) (fec := fec)) hout hpipe
      rw [headerSegment_whole hon hfree hgood hmin hfec]
      exact ⟨_, _, rfl, hpkt, rfl, rfl, rfl, rfl, rfl, rfl, rfl, rfl, hnext, hrr, nofun⟩
    · have hcount := counted_countFec (s := s) (port := port) (fec := fec)
      obtain ⟨hpkt, hnext, hrr, hnew⟩ := spread_counted (bytes := seg) (whole := false) hcount hout hpipe
      rw [headerSegment_first hon hfree hgood (by rw [hnew]; exact Nat.succ_ne_self _), hseg, hcount.q]
      exact ⟨_, _, rfl, setCur_pkt.trans hpkt, rfl, rfl, rfl, rfl, rfl, rfl, rfl, rfl,
        (congrArg Reorder.next (setCur_stream port)).trans hnext, setCur_rr.trans hrr, fun _ => smapFind_insert_same⟩
  case tail =>
    intro id len p tail cur hcur hpkt hlen hsched hp hplace most full whole good
    subst hlen
    obtain ⟨t, hexec, hfree, ht⟩ := exec_frameTailArrive_inPipe (rest := rest) (tail := tail) (fec := fec) hport hcur hon hsched
      hpkt hp hplace
    refine ⟨t, hexec, hfree, fun hgood => ?_, fun hbad => ?_⟩
    · obtain ⟨hmost, htail, hcw, hfec⟩ := hgood
      have hfault : (tail != .good || cur.bad || decide (0 < fec.uncorr)) = false := by simp [htail, hcw, hfec]
      rw [ht, hfault, tailFault_good hmost]
      simp only [ended, whole, full, dropFcs, Option.isSome_none, Bool.or_false, most]
    · have hfault : most < cur.len + rest.length ∨ (tail != .good || cur.bad || decide (0 < fec.uncorr)) = true := by
        by_contra hno
        obtain ⟨hmost, hnone⟩ := not_or.1 hno
        simp only [Bool.or_eq_true, bne_iff_ne, decide_eq_true_eq, not_or, not_not, Bool.not_eq_true, Nat.not_lt,
          Nat.le_zero] at hnone
        exact hbad ⟨Nat.not_lt.1 hmost, hnone.1.1, hnone.1.2, hnone.2⟩
      rw [ht, tailFault_bad hfault]
      simp only [ended, whole, full, dropFcs, Option.isSome_some, Bool.or_true, most]

end Sys2Proof.Machine
end

section
/-! SUPPORT. O47: pause and PFC, the links and the SyncE outputs. -/

namespace Sys2Proof.Machine

variable {s t u : State} {port prio off id len quanta i : Nat} {p : Packet} {fec : Fec}

/-! ### The registers of a port -/

theorem noLineCtr_linePortStat : NoLineCtr (R.linePortStat port) := by
  intro q i _
  simp only [R.linePortStat, lineCtr, R.lineCtr]
  omega

theorem noLineCtr_linePfcCfg : NoLineCtr (R.linePfcCfg port) := fun q _ hi => linePfcCfg_ne_lineCtr hi q

theorem lineOctetCfg_lt (hport : port < 96) : R.lineOctetCfg (port / 8) < R.linePortCfg 0 := by
  simp only [R.lineOctetCfg, R.linePortCfg]
  omega

theorem linePortStat_ne_linePfcCfg (q : Nat) : R.linePfcCfg port ≠ R.linePortStat q := by
  simp only [R.linePortStat, R.linePfcCfg]
  omega

theorem linePortCfg_le_linePortStat : R.linePortCfg 0 ≤ R.linePortStat port := by
  simp only [R.linePortStat, R.linePortCfg]
  omega

/-- From `s` to `t` time stands still, and the modes of a port's lanes and of its pauses stand. -/
structure SamePort (port : Nat) (s t : State) : Prop where
  now   : t.now = s.now
  octet : t.rd (R.lineOctetCfg (port / 8)) = s.rd (R.lineOctetCfg (port / 8))
  pfc   : t.rd (R.linePfcCfg port) = s.rd (R.linePfcCfg port)

theorem SamePort.refl : SamePort port s s := ⟨rfl, rfl, rfl⟩

theorem SamePort.trans (h : SamePort port s t) (k : SamePort port t u) : SamePort port s u :=
  ⟨k.now.trans h.now, k.octet.trans h.octet, k.pfc.trans h.pfc⟩

theorem SamePort.quantaTicks (h : SamePort port s t) (n : Nat) : quantaTicks t port n = quantaTicks s port n :=
  congrArg (fun w => ceilDiv (n * 5120) (max 1 (modeRate (getF w F.lineOctetCfgMode)))) h.octet

theorem SamePort.pauseMode (h : SamePort port s t) : t.pauseMode port = s.pauseMode port := congrArg (getF · _) h.pfc

theorem SamePort.rxEn (h : SamePort port s t) :
    t.fld (R.linePfcCfg port) F.linePfcCfgRxEn = s.fld (R.linePfcCfg port) F.linePfcCfgRxEn := congrArg (getF · _) h.pfc

theorem samePort_inc (hport : port < 96) (hi : i < 32) : SamePort port s (s.inc (lineCtr port i)) :=
  ⟨rfl, inc_lineCtr_rd (noLineCtr_of_low (lineOctetCfg_lt hport)) hi, inc_lineCtr_rd noLineCtr_linePfcCfg hi⟩

theorem samePort_countRx (hport : port < 96) : SamePort port s (countRx port len fec s) :=
  ⟨countRx_keeps State.now State.wr_now, countRx_rd (noLineCtr_of_low (lineOctetCfg_lt hport)), countRx_rd noLineCtr_linePfcCfg⟩

theorem samePort_clearCur (b : Bool) : SamePort port s (doIf b (clearCur port) s) := by
  cases b <;> exact ⟨rfl, rfl, rfl⟩

/-! ### Holds -/

/-- A priority of a port is held until a time, or not at all: PAUSED shows it. -/
structure Held (port prio : Nat) (until_ : Option Nat) (s : State) : Prop where
  hold   : smapFind (8 * port + prio) s.line.holds = until_
  paused : nbit (s.fld (R.linePortStat port) F.linePortStatPaused) prio = until_.isSome

theorem Held.congr {e : Option Nat} (h : Held port prio e s) (hline : t.line = s.line)
    (hstat : t.rd (R.linePortStat port) = s.rd (R.linePortStat port)) : Held port prio e t :=
  ⟨hline ▸ h.hold, (congrArg (fun w => nbit (getF w F.linePortStatPaused) prio) hstat).trans h.paused⟩

/-- The bits that PAUSED takes. -/
theorem paused_setFld (v : Nat) (hi : i < 8) :
    nbit ((s.setFld (R.linePortStat port) F.linePortStatPaused v).fld (R.linePortStat port) F.linePortStatPaused) i = nbit v i := by
  rw [State.fld, State.rd_setFld_same, getF_setF _ _ _ (by decide)]
  rw [nbit, Nat.testBit_mod_two_pow, decide_eq_true (show i < fldWidth F.linePortStatPaused from hi), Bool.true_and]
  rfl

theorem nbit_or_pow (v p i : Nat) : nbit (v ||| 2 ^ p) i = (nbit v i || decide (p = i)) := by
  rw [nbit, Nat.testBit_or, Nat.testBit_two_pow]
  rfl

theorem nbit_and_clear (v : Nat) {p i : Nat} (hp : p < 8) (hi : i < 8) :
    nbit (v &&& (255 - 2 ^ p)) i = (nbit v i && decide (p ≠ i)) := by
  have hmask : ∀ p < 8, ∀ i < 8, (255 - 2 ^ p).testBit i = decide (p ≠ i) := by decide
  rw [nbit, Nat.testBit_and, hmask p hp i hi]
  rfl

theorem samePort_setFld (hport : port < 96) (f : Fld) (v : Nat) : SamePort port s (s.setFld (R.linePortStat port) f v) :=
  ⟨rfl, State.rd_setFld_ne _ _ _ (Nat.ne_of_lt ((lineOctetCfg_lt hport).trans_le linePortCfg_le_linePortStat)),
    State.rd_setFld_ne _ _ _ (linePortStat_ne_linePfcCfg _)⟩

theorem SamePort.line {l : LineSt} (h : SamePort port s t) : SamePort port s { t with line := l } := ⟨h.now, h.octet, h.pfc⟩

theorem holdPrio_samePort (hport : port < 96) (q p : Nat) : SamePort port s (holdPrio port q p s) := by
  unfold holdPrio
  split
  · exact (samePort_setFld hport _ _).line
  · exact (samePort_setFld hport _ _).line

/-- Quanta hold a priority from now on; quanta 0 ends its hold. -/
theorem holdPrio_held (hport : port < 96) (q : Nat) (hp : prio < 8) :
    Held port prio (if q = 0 then none else some (s.now + quantaTicks s port q)) (holdPrio port q prio s) := by
  unfold holdPrio
  split
  · refine ⟨smapFind_erase_same, ?_⟩
    refine (paused_setFld _ hp).trans ?_
    rw [nbit_and_clear _ hp hp, decide_eq_false (not_not.2 rfl), Bool.and_false]
    rfl
  · refine ⟨smapFind_insert_same.trans ?_, ?_⟩
    · exact congrArg (fun n => some (s.now + n)) ((samePort_setFld hport _ _).quantaTicks q)
    · refine (paused_setFld _ hp).trans ?_
      rw [nbit_or_pow, decide_eq_true rfl, Bool.or_true]
      rfl

/-- The other priorities stand. -/
theorem holdPrio_held_ne {e : Option Nat} {q p : Nat} (hp : p < 8) (hi : prio < 8) (hne : p ≠ prio) (h : Held port prio e s) :
    Held port prio e (holdPrio port q p s) := by
  have hkey : 8 * port + prio ≠ 8 * port + p := by omega
  unfold holdPrio
  split
  · refine ⟨(smapFind_erase_ne hkey).trans h.hold, (paused_setFld _ hi).trans ?_⟩
    rw [nbit_and_clear _ hp hi, decide_eq_true hne, Bool.and_true]
    exact h.paused
  · refine ⟨(smapFind_insert_ne hkey).trans h.hold, (paused_setFld _ hi).trans ?_⟩
    rw [nbit_or_pow, decide_eq_false hne, Bool.or_false]
    exact h.paused

/-- What a turn of a loop brings about stands after the loop, where every turn keeps `I`, and the other turns keep it. -/
theorem forEach_establishes {α : Type} {f : α → State → State} {I Q : State → Prop} {a : α} {as : List α}
    (hinv : ∀ b ∈ as, ∀ s, I s → I (f b s)) (hset : ∀ s, I s → Q (f a s))
    (hkeep : ∀ b ∈ as, b ≠ a → ∀ s, Q s → Q (f b s)) (ha : a ∈ as) (hs : I s) : Q (forEach as f s) := by
  have hstays : ∀ bs ⊆ as, ∀ v, I v → Q v → Q (forEach bs f v) := fun bs => by
    induction bs with
    | nil => exact fun _ _ _ h => h
    | cons b bs ih =>
      intro hsub v hI hQ
      obtain ⟨hb, hbs⟩ := List.cons_subset.1 hsub
      refine ih hbs _ (hinv b hb v hI) ?_
      by_cases hba : b = a
      · exact hba ▸ hset v hI
      · exact hkeep b hb hba v hQ
  have hreach : ∀ bs ⊆ as, a ∈ bs → ∀ v, I v → Q (forEach bs f v) := fun bs => by
    induction bs with
    | nil => exact fun _ h => nomatch h
    | cons b bs ih =>
      intro hsub hmem v hI
      obtain ⟨hb, hbs⟩ := List.cons_subset.1 hsub
      rcases List.mem_cons.1 hmem with rfl | hmem
      · exact hstays bs hbs _ (hinv a hb v hI) (hset v hI)
      · exact ih hbs hmem _ (hinv b hb v hI)
  exact hreach as (List.Subset.refl as) ha s hs

/-! ### Pause and PFC frames -/

/-- A good control frame acts once it is counted and its first bytes wait no longer. -/
theorem controlFrame_good {k : State → State} (hon : s.rxOn port = true) (hlen : 64 ≤ len) (hfec : fec.uncorr = 0)
    (hwait : ∀ c, smapFind port s.line.rx = some c → c.wait = true → c.bad = false) :
    controlFrame port len false fec k s = k (countRx port len fec (doIf (s.rxFree port) (clearCur port) s)) := by
  have hgood : ((smapFind port s.line.rx).map (fun c => c.wait && c.bad)).getD false = false := by
    cases hc : smapFind port s.line.rx with
    | none => rfl
    | some c =>
      cases hw : c.wait with
      | false => simp only [Option.map_some, Option.getD_some, hw, Bool.false_and]
      | true => simp only [Option.map_some, Option.getD_some, hwait c hc hw, Bool.and_false]
  unfold controlFrame
  simp only [hon, hgood, hfec, Nat.not_lt.2 hlen, Bool.or_false, lt_irrefl, decide_false, if_true, if_false, Bool.false_eq_true]

/-- A Pause frame that is obeyed holds every priority. -/
theorem exec_pauseFrameReceive_obeyed (hport : port < 96) (hq : quanta < 65536) (hon : s.rxOn port = true) (hlen : 64 ≤ len)
    (hfec : fec.uncorr = 0) (hwait : ∀ c, smapFind port s.line.rx = some c → c.wait = true → c.bad = false)
    (hmode : s.pauseMode port = 1) : ∃ u, SamePort port s u ∧
      exec (.pauseFrameReceive port len false quanta fec) s = .next (forEach (List.range 8) (holdPrio port quanta) u) := by
  let u := (countRx port len fec (doIf (s.rxFree port) (clearCur port) s)).inc (lineCtr port 8)
  have hsame : SamePort port s u :=
    ((samePort_clearCur _).trans (samePort_countRx hport)).trans (samePort_inc hport (by decide))
  have hobey : (u.pauseMode port == 1) = true := beq_iff_eq.2 (hsame.pauseMode.trans hmode)
  refine ⟨u, hsame, ?_⟩
  show guardWf (decide (port < 96) && decide (quanta < 65536)) (pauseReceive port len false quanta fec s) = _
  rw [decide_eq_true hport, decide_eq_true hq, pauseReceive, controlFrame_good hon hlen hfec hwait]
  show Host.Outcome.next (doIf (u.pauseMode port == 1) _ u) = _
  rw [hobey]
  rfl

theorem holdAll_held (hport : port < 96) (hprio : prio < 8) (hq : 0 < quanta) (h : SamePort port s u) :
    Held port prio (some (s.now + quantaTicks s port quanta)) (forEach (List.range 8) (holdPrio port quanta) u) := by
  refine forEach_establishes (I := SamePort port s) (a := prio) (fun p _ v hv => hv.trans (holdPrio_samePort hport quanta p))
    (fun v hv => ?_) (fun p hp hne v hv => holdPrio_held_ne (List.mem_range.1 hp) hprio hne hv) (List.mem_range.2 hprio) h
  have hheld := holdPrio_held (s := v) hport quanta hprio
  rw [if_neg hq.ne', hv.now, hv.quantaTicks] at hheld
  exact hheld

/-- Eight bits that are all set. -/
theorem eq_255_of_nbit {n : Nat} (hn : n < 2 ^ 8) (h : ∀ i < 8, nbit n i = true) : n = 255 := by
  apply Nat.eq_of_testBit_eq
  intro i
  rw [show 255 = 2 ^ 8 - 1 from rfl, Nat.testBit_two_pow_sub_one]
  by_cases hi : i < 8
  · rw [decide_eq_true hi]
    exact h i hi
  · rw [decide_eq_false hi]
    exact Nat.testBit_lt_two_pow (hn.trans_le (Nat.pow_le_pow_right (by decide) (Nat.not_lt.1 hi)))

/-- What a PFC frame does of one priority. -/
def pfcTurn (port : Nat) (en : BitVec 8) (qs : List Nat) (p : Nat) (s : State) : State :=
  if en.getLsbD p then
    let s := s.inc (lineCtr port (9 + p))
    doIf (s.pauseMode port == 2 && nbit (s.fld (R.linePfcCfg port) F.linePfcCfgRxEn) p) (holdPrio port (qs.getD p 0) p) s
  else s

theorem pfcReceive_eq {en : BitVec 8} {qs : List Nat} {bad : Bool} : pfcReceive port len bad en qs fec s =
    controlFrame port len bad fec (forEach (List.range 8) (pfcTurn port en qs)) s := rfl

variable {en : BitVec 8} {qs : List Nat}

theorem pfcTurn_samePort (hport : port < 96) (hp : i < 8) : SamePort port s (pfcTurn port en qs i s) := by
  have hinc : SamePort port s (s.inc (lineCtr port (9 + i))) := samePort_inc hport (by omega)
  unfold pfcTurn
  split
  · dsimp only
    cases (s.inc (lineCtr port (9 + i))).pauseMode port == 2 &&
        nbit ((s.inc (lineCtr port (9 + i))).fld (R.linePfcCfg port) F.linePfcCfgRxEn) i with
    | false => exact hinc
    | true => exact hinc.trans (holdPrio_samePort hport _ _)
  · exact .refl

theorem Held.inc {e : Option Nat} (h : Held port prio e s) (hi : i < 32) : Held port prio e (s.inc (lineCtr port i)) :=
  h.congr rfl (inc_lineCtr_rd noLineCtr_linePortStat hi)

theorem pfcTurn_held_ne {e : Option Nat} (hp : i < 8) (hprio : prio < 8) (hne : i ≠ prio) (h : Held port prio e s) :
    Held port prio e (pfcTurn port en qs i s) := by
  have hinc := h.inc (i := 9 + i) (by omega)
  unfold pfcTurn
  split
  · dsimp only
    cases (s.inc (lineCtr port (9 + i))).pauseMode port == 2 &&
        nbit ((s.inc (lineCtr port (9 + i))).fld (R.linePfcCfg port) F.linePfcCfgRxEn) i with
    | false => exact hinc
    | true => exact holdPrio_held_ne hp hprio hne hinc
  · exact h

/-- An enabled priority that obeys PFC is held for its quanta. -/
theorem pfcTurn_held (hport : port < 96) (hprio : prio < 8) (hmode : s.pauseMode port = 2) (hen : en.getLsbD prio = true)
    (hrx : nbit (s.fld (R.linePfcCfg port) F.linePfcCfgRxEn) prio = true) (hq : 0 < qs.getD prio 0) :
    Held port prio (some (s.now + quantaTicks s port (qs.getD prio 0))) (pfcTurn port en qs prio s) := by
  have hinc : SamePort port s (s.inc (lineCtr port (9 + prio))) := samePort_inc hport (by omega)
  have hobey : ((s.inc (lineCtr port (9 + prio))).pauseMode port == 2 &&
      nbit ((s.inc (lineCtr port (9 + prio))).fld (R.linePfcCfg port) F.linePfcCfgRxEn) prio) = true := by
    rw [hinc.pauseMode, hinc.rxEn, hmode, hrx]
    rfl
  have hheld := holdPrio_held (s := s.inc (lineCtr port (9 + prio))) hport (qs.getD prio 0) hprio
  rw [if_neg hq.ne', hinc.now, hinc.quantaTicks] at hheld
  unfold pfcTurn
  rw [if_pos hen]
  dsimp only
  rw [hobey]
  exact hheld

theorem exec_pfcFrameReceive_good (hport : port < 96) (hqs : qs.all (· < 65536) = true) (hon : s.rxOn port = true)
    (hlen : 64 ≤ len) (hfec : fec.uncorr = 0)
    (hwait : ∀ c, smapFind port s.line.rx = some c → c.wait = true → c.bad = false) : ∃ u, SamePort port s u ∧
      exec (.pfcFrameReceive port len false en qs fec) s = .next (forEach (List.range 8) (pfcTurn port en qs) u) := by
  refine ⟨_, (samePort_clearCur (s.rxFree port)).trans (samePort_countRx (len := len) (fec := fec) hport), ?_⟩
  show guardWf (decide (port < 96) && qs.all (· < 65536)) (pfcReceive port len false en qs fec s) = _
  rw [decide_eq_true hport, hqs, pfcReceive_eq, controlFrame_good hon hlen hfec hwait]
  rfl

theorem pfcAll_held (hport : port < 96) (hprio : prio < 8) (h : SamePort port s u) (hmode : s.pauseMode port = 2)
    (hen : en.getLsbD prio = true) (hrx : nbit (s.fld (R.linePfcCfg port) F.linePfcCfgRxEn) prio = true)
    (hq : 0 < qs.getD prio 0) : Held port prio (some (s.now + quantaTicks s port (qs.getD prio 0)))
      (forEach (List.range 8) (pfcTurn port en qs) u) := by
  refine forEach_establishes (I := SamePort port s) (a := prio)
    (fun p hp v hv => hv.trans (pfcTurn_samePort hport (List.mem_range.1 hp))) (fun v hv => ?_)
    (fun p hp hne v hv => pfcTurn_held_ne (List.mem_range.1 hp) hprio hne hv) (List.mem_range.2 hprio) h
  have hheld := pfcTurn_held (s := v) (qs := qs) hport hprio (hv.pauseMode.trans hmode) hen (hv.rxEn ▸ hrx) hq
  rw [hv.now, hv.quantaTicks] at hheld
  exact hheld

/-! ### The end of holds -/

/-- A hold whose time has come ends. -/
def endTurn (port p : Nat) (s : State) : State :=
  match smapFind (8 * port + p) s.line.holds with
  | some at_ => doIf (at_ ≤ s.now) (holdPrio port 0 p) s
  | none => s

theorem pauseEnd_eq : pauseEnd port s = forEach (List.range 8) (endTurn port) s := rfl

theorem holdPrio_now (q p : Nat) : (holdPrio port q p s).now = s.now := by
  unfold holdPrio
  split <;> rfl

theorem endTurn_keeps {Q : State → Prop} {p : Nat} (hQ : ∀ v, Q v → Q (holdPrio port 0 p v)) (h : Q s) :
    Q (endTurn port p s) := by
  unfold endTurn
  split
  · next at_ _ =>
    cases decide (at_ ≤ s.now)
    · exact h
    · exact hQ s h
  · exact h

/-- A priority whose hold has run out, until its end is seen, and after. -/
def RunOut (port prio : Nat) (s : State) : Prop :=
  (∃ at_, smapFind (8 * port + prio) s.line.holds = some at_ ∧ at_ ≤ s.now) ∨ Held port prio none s

theorem endTurn_held (hport : port < 96) (hprio : prio < 8) (h : RunOut port prio s) : Held port prio none (endTurn port prio s) := by
  unfold endTurn
  rcases h with ⟨at_, hat, hdue⟩ | h
  · rw [hat]
    dsimp only
    rw [decide_eq_true hdue]
    exact holdPrio_held hport 0 hprio
  · rw [h.hold]
    exact h

theorem holdPrio_holds_ne {q p : Nat} (hne : p ≠ prio) :
    smapFind (8 * port + prio) (holdPrio port q p s).line.holds = smapFind (8 * port + prio) s.line.holds := by
  have hkey : 8 * port + prio ≠ 8 * port + p := by omega
  unfold holdPrio
  split
  · exact smapFind_erase_ne hkey
  · exact smapFind_insert_ne hkey

theorem endTurn_runOut {p : Nat} (hport : port < 96) (hp : p < 8) (hprio : prio < 8) (h : RunOut port prio s) :
    RunOut port prio (endTurn port p s) := by
  by_cases hne : p = prio
  · subst hne
    exact .inr (endTurn_held hport hprio h)
  · refine endTurn_keeps (fun v hv => hv.imp (fun ⟨at_, hat, hdue⟩ => ⟨at_, ?_, ?_⟩) (holdPrio_held_ne hp hprio hne)) h
    · exact (holdPrio_holds_ne hne).trans hat
    · rw [holdPrio_now]
      exact hdue

theorem pauseEnd_held {at_ : Nat} (hport : port < 96) (hprio : prio < 8) (hat : smapFind (8 * port + prio) s.line.holds = some at_)
    (hdue : at_ ≤ s.now) : Held port prio none (pauseEnd port s) := by
  rw [pauseEnd_eq]
  exact forEach_establishes (I := RunOut port prio) (a := prio) (fun _ hp _ hv => endTurn_runOut hport (List.mem_range.1 hp) hprio hv)
    (fun _ hv => endTurn_held hport hprio hv)
    (fun _ hp hne _ hv => endTurn_keeps (fun _ hw => holdPrio_held_ne (List.mem_range.1 hp) hprio hne hw) hv)
    (List.mem_range.2 hprio) (.inl ⟨at_, hat, hdue⟩)

/-! ### XOFF and XON -/

theorem sendPause_q (q : Nat) : (sendPause port prio q s).q = s.q := by
  unfold sendPause
  split <;> rfl

theorem sendPause_line (q : Nat) : (sendPause port prio q s).line = s.line := by
  unfold sendPause
  split <;> rfl

/-- What lets the MAC of a port signal a priority (R98, R501). -/
def MaySend (port prio : Nat) (s : State) : Prop :=
  s.portOn port = true ∧ s.linkUp port = true ∧ s.outputHeld = false ∧ s.pauseMode port ≠ 0 ∧
    nbit (s.fld (R.linePfcCfg port) F.linePfcCfgTxEn) prio = true

theorem sendPause_outs {q : Nat} (h : MaySend port prio s) : (sendPause port prio q s).outs = .pauseFrame port prio q :: s.outs := by
  obtain ⟨hon, hup, hout, hmode, htx⟩ := h
  unfold sendPause
  rw [hon, hup, hout, htx, bne_iff_ne.2 hmode]
  rfl

theorem exec_xoffSignal (hport : port < 96) (hprio : prio < 8) :
    exec (.xoffSignal port prio) s = .next (xoffNow port prio s) :=
  guardWf_of (Bool.and_eq_true_iff.2 ⟨decide_eq_true hport, decide_eq_true hprio⟩)

theorem exec_xonSignal (hport : port < 96) (hprio : prio < 8) : exec (.xonSignal port prio) s = .next (xonNow port prio s) :=
  guardWf_of (Bool.and_eq_true_iff.2 ⟨decide_eq_true hport, decide_eq_true hprio⟩)

theorem exec_pfcRefresh (hport : port < 96) (hprio : prio < 8) :
    exec (.pfcRefresh port prio) s = .next (xoffAgain port prio s) :=
  guardWf_of (Bool.and_eq_true_iff.2 ⟨decide_eq_true hport, decide_eq_true hprio⟩)

/-- The XOFF of a priority stands as sent, to be repeated at a time, or does not stand. -/
def xoffIs (xoff : List Nat) (again : SMap Nat) (s : State) : State :=
  { s with q := { s.q with pfcXoff := xoff }, line := { s.line with xoff := again } }

theorem xoffNow_sends (he : s.portExists port = true) (h0 : 0 < s.fld (R.qPfc port) F.qPfcXoffBytes)
    (hheld : s.fld (R.qPfc port) F.qPfcXoffBytes ≤ s.pfcHeldOf port prio) (hx : 8 * port + prio ∉ s.q.pfcXoff) :
    xoffNow port prio s = sendPause port prio (s.fld (R.linePfcCfg port) F.linePfcCfgPfcQuanta)
      (xoffIs (s.q.pfcXoff ++ [8 * port + prio]) (smapInsert (8 * port + prio) (xoffRepeat s port) s.line.xoff) s) := by
  have hx' : s.q.pfcXoff.contains (8 * port + prio) = false := by simpa using hx
  unfold xoffNow
  simp only [he, bne_iff_ne.2 h0.ne', decide_eq_true hheld, hx', Bool.not_false, Bool.and_self, if_true]
  rfl

theorem xonNow_sends (hheld : s.pfcHeldOf port prio ≤ s.fld (R.qPfc port) F.qPfcXonBytes) (hx : 8 * port + prio ∈ s.q.pfcXoff) :
    xonNow port prio s = sendPause port prio 0
      (xoffIs (s.q.pfcXoff.filter (· != 8 * port + prio)) (smapErase (8 * port + prio) s.line.xoff) s) := by
  have hx' : s.q.pfcXoff.contains (8 * port + prio) = true := List.contains_iff_mem.2 hx
  unfold xonNow
  simp only [hx', decide_eq_true hheld, Bool.true_or, Bool.and_self, if_true]
  rfl

theorem xoffAgain_sends {at_ : Nat} (hat : smapFind (8 * port + prio) s.line.xoff = some at_) (hdue : at_ ≤ s.now) :
    xoffAgain port prio s = sendPause port prio (s.fld (R.linePfcCfg port) F.linePfcCfgPfcQuanta)
      (xoffIs s.q.pfcXoff (smapInsert (8 * port + prio) (xoffRepeat s port) s.line.xoff) s) := by
  unfold xoffAgain
  rw [hat]
  dsimp only
  rw [if_pos hdue]
  rfl

/-! ### Links -/

/-- The packet of a frame that has ended goes on to a ring or a burin; what both leave alone stands. -/
theorem tailAndAfter_keeps {β : Type} {k : State → State} (g : State → β) (hring : ∀ id v, g (ringWrite id v) = g v)
    (hburin : ∀ id v, g (burinWhole id v) = g v) : g (tailAndAfter port k s) = g (k s) := by
  unfold tailAndAfter
  split
  · exact (hburin _ _).trans (hring _ _)
  · rfl

theorem erasePkt_line : (erasePkt id s).line = s.line := touchOld_line

theorem rxComplete_line (q r : Nat) : (rxComplete q r s).line = s.line := by
  have hsignal : ∀ b v, (doIf b (raiseSrc q (17 + r)) v).line = v.line := fun b v =>
    doIf_keeps State.line (fun w => by obtain ⟨_, _, _, h⟩ := signals_raiseSrc (s := w) q (17 + r); rw [h]) b v
  unfold rxComplete
  dsimp only
  split
  · exact hsignal ..
  · rfl

/-- A ring's interrupt shows in the status of rings alone. -/
theorem raiseRing_rd {q r : Nat} (h : off ≠ R.intRingStatus q) : (raiseSrc q (17 + r) s).rd off = s.rd off := by
  unfold raiseSrc
  rw [if_neg (show ¬17 + r < 17 by omega)]
  split
  · rw [intWrite_rd, if_neg h]
    split
    · next he => rw [he]
    · rfl
  · rfl

theorem rxComplete_rd {q r : Nat} (h : off ≠ R.intRingStatus q) : (rxComplete q r s).rd off = s.rd off := by
  unfold rxComplete
  dsimp only
  split
  · exact doIf_rd (fun _ => raiseRing_rd h) _
  · rfl

theorem ringWrite_line : (ringWrite id s).line = s.line := by
  unfold ringWrite
  split
  · rfl
  · split
    · split
      · exact (rxComplete_line _ _).trans erasePkt_line
      · rfl
    · rfl

theorem ringWrite_rd (hctr : ∀ q r, off ≠ R.ringCtr q r 0) (hint : ∀ q, off ≠ R.intRingStatus q) :
    (ringWrite id s).rd off = s.rd off := by
  unfold ringWrite
  split
  · rfl
  · split
    · split
      · exact (rxComplete_rd (hint _)).trans ((State.rd_inc_ne _ (hctr _ _)).trans (erasePkt_rd off))
      · rfl
    · rfl

theorem burinPacket_line (op sess : Nat) : (burinPacket op sess p s).line = s.line := by
  unfold burinPacket
  split <;> rfl

theorem burinPacket_rd {op sess : Nat} (h : off ≠ R.burinCtr 2) : (burinPacket op sess p s).rd off = s.rd off := by
  unfold burinPacket
  split
  · rfl
  · exact State.rd_inc_ne _ h

theorem burinWhole_line : (burinWhole id s).line = s.line := by
  unfold burinWhole
  split
  · rfl
  · split
    · exact doIf_keeps State.line (fun _ => (burinPacket_line _ _).trans erasePkt_line) _ s
    · rfl

theorem burinWhole_rd (h : off ≠ R.burinCtr 2) : (burinWhole id s).rd off = s.rd off := by
  unfold burinWhole
  split
  · rfl
  · split
    · exact doIf_rd (fun _ => (burinPacket_rd h).trans (erasePkt_rd off)) s
    · rfl

theorem tailAndAfter_macQueue {k : State → State} : (tailAndAfter port k s).macQueue port = (k s).macQueue port :=
  congrArg (fun l : LineSt => smapGet (fun _ => []) port l.macQ)
    (tailAndAfter_keeps State.line (fun _ _ => ringWrite_line) fun _ _ => burinWhole_line)

theorem tailAndAfter_linkUp {k : State → State} : (tailAndAfter port k s).linkUp port = (k s).linkUp port :=
  congrArg (fun w => getF w F.linePortStatLinkUp != 0) (tailAndAfter_keeps (State.rd · (R.linePortStat port))
    (fun _ _ => ringWrite_rd (fun q r => by simp only [R.linePortStat, R.ringCtr]; omega)
      fun q => by simp only [R.linePortStat, R.intRingStatus]; omega)
    fun _ _ => burinWhole_rd (by simp only [R.linePortStat, R.burinCtr]; omega))

/-- A port shows its link: LINK_UP, the faults, and whether it sends remote fault. -/
def linkShown (port : Nat) (up lf rf : Bool) (s : State) : State :=
  let st := R.linePortStat port
  let s := ((s.setFld st F.linePortStatLinkUp (b2n up)).setFld st F.linePortStatLocalFault (b2n lf)).setFld st
    F.linePortStatRemoteFault (b2n rf)
  { s with line := { s.line with
    sendRf := if lf then (s.line.sendRf.filter (· != port)) ++ [port] else s.line.sendRf.filter (· != port) } }

/-- A change of a link shows, after the frame in reception, and a link that is down has nothing to send. -/
theorem linkChange_eq {up lf rf : Bool} (he : s.portExists port = true) : ∃ v, linkChange port up lf rf fec s =
    doIf (!(up && !lf && !rf && s.portOn port)) (dropMacQueue port) (linkShown port (up && !lf && !rf && s.portOn port) lf rf v) :=
  ⟨_, if_pos he⟩

theorem linkShown_linkUp (up lf rf : Bool) : (linkShown port up lf rf s).linkUp port = up := by
  have hword : (linkShown port up lf rf s).rd (R.linePortStat port) = setF (setF (setF (s.rd (R.linePortStat port))
      F.linePortStatLinkUp (b2n up)) F.linePortStatLocalFault (b2n lf)) F.linePortStatRemoteFault (b2n rf) := by
    refine (State.rd_setFld_same ..).trans ?_
    rw [State.rd_setFld_same, State.rd_setFld_same]
  rw [State.linkUp, State.flag, State.fld, hword, getF_setF_ne _ _ _ _ (by decide) (by decide) (by decide),
    getF_setF_ne _ _ _ _ (by decide) (by decide) (by decide), getF_setF _ _ _ (by decide)]
  cases up <;> rfl

theorem dropMacQueue_linkUp : (dropMacQueue port s).linkUp port = s.linkUp port := by
  refine congrArg (fun w => getF w F.linePortStatLinkUp != 0) ((forEach_rd (fun m _ v => ?_) _).trans rfl)
  have hinc := inc_lineCtr_rd (s := v) (port := port) (i := 21) (noLineCtr_linePortStat (port := port)) (by decide)
  cases m with
  | routed id => exact (erasePkt_rd _).trans hinc
  | sched b flow at_ => exact hinc

theorem setMacQueue_macQueue (l : List MacItem) : (setMacQueue port l s).macQueue port = l := smapGet_put_same

theorem dropMacQueue_macQueue : (dropMacQueue port s).macQueue port = [] := by
  refine Eq.trans ?_ (setMacQueue_macQueue (s := s) (port := port) [])
  refine congrArg (fun l : LineSt => smapGet (fun _ => []) port l.macQ) (forEach_keeps State.line (fun m v => ?_) _)
  cases m with
  | routed id => exact erasePkt_line
  | sched b flow at_ => rfl

theorem linkChange_down (lf rf : Bool) (he : s.portExists port = true) :
    (linkChange port false lf rf fec s).linkUp port = false ∧ (linkChange port false lf rf fec s).macQueue port = [] := by
  obtain ⟨v, h⟩ := linkChange_eq (up := false) (lf := lf) (rf := rf) (fec := fec) he
  rw [h]
  exact ⟨dropMacQueue_linkUp.trans (linkShown_linkUp ..), dropMacQueue_macQueue⟩

theorem linkChange_up (hon : s.portOn port = true) (he : s.portExists port = true) :
    (linkChange port true false false fec s).linkUp port = true := by
  obtain ⟨v, h⟩ := linkChange_eq (up := true) (lf := false) (rf := false) (fec := fec) he
  rw [h, hon]
  exact linkShown_linkUp ..

/-! ### A scheduled frame in reception is cut -/

theorem poolWrite_rd (a : Nat) (b : Bytes) : (poolWrite a b s).rd off = s.rd off := by
  refine forEach_rd (fun _ _ _ => ?_) s
  rfl

theorem bridgeSched_rd (dir : Nat) (b : Bytes) : (bridgeSched dir b s).rd off = s.rd off := by
  unfold bridgeSched setBridge
  dsimp only
  split <;> rfl

theorem storeTx_rd (key : Nat) (f : TxFrame) (b : Bytes) : (storeTx key f b s).rd off = s.rd off :=
  (poolWrite_rd _ _).trans (bridgeSched_rd _ _)

theorem overlenCut_rd {key : Nat} {f : TxFrame} {body : Bytes} (h : off < R.linePortCfg 0) :
    (overlenCut port key f body s).rd off = s.rd off := by
  have hflow : off ≠ R.schedFlowCtr f.flow 1 := by simp only [R.linePortCfg, R.schedFlowCtr] at h ⊢; omega
  have hsched : off ≠ R.schedCtr 2 := by simp only [R.linePortCfg, R.schedCtr] at h ⊢; omega
  exact (State.rd_inc_ne _ hsched).trans ((State.rd_inc_ne _ hflow).trans (storeTx_rd _ _ _))

theorem clearCur_rd : (clearCur port s).rd off = s.rd off := rfl
theorem setTxFrame_rd (key : Nat) (f : TxFrame) : (setTxFrame key f s).rd off = s.rd off := rfl

theorem ended_rd (n : Nat) (h : NoLineCtr off) : (clearCur port (countRx port n fec s)).rd off = s.rd off :=
  clearCur_rd.trans (countRx_rd h)

/-- A scheduled frame that ends changes no register below those of the ports. -/
theorem schedTail_rd {body : Bytes} {tail : Tail} (h : off < R.linePortCfg 0) :
    (schedTail port body tail fec s).rd off = s.rd off := by
  have hctr : NoLineCtr off := noLineCtr_of_low h
  unfold schedTail
  split
  · rfl
  · next f _ =>
    dsimp only
    split
    · exact (ended_rd _ hctr).trans (overlenCut_rd h)
    · split
      · exact (storeTx_rd ..).trans (ended_rd _ hctr)
      · have hinc : ∀ v : State, (v.inc (lineCtr port (if tail = .cut ∧ f.len + body.length < 64 then 3 else 2))).rd off =
            v.rd off := fun _ => inc_lineCtr_rd hctr (by split <;> decide)
        split
        · exact (storeTx_rd ..).trans ((hinc _).trans (ended_rd _ hctr))
        · exact (setTxFrame_rd _ _).trans ((hinc _).trans (ended_rd _ hctr))

theorem portExists_congr (h : t.rd (R.lineOctetCfg (port / 8)) = s.rd (R.lineOctetCfg (port / 8))) :
    t.portExists port = s.portExists port := by
  unfold State.portExists State.portWidth State.laneMode State.fld
  rw [h]

theorem exec_linkStateChange (hport : port < 96) (up lf rf : Bool) :
    exec (.linkStateChange port up lf rf fec) s = .next (linkAndSched port up lf rf fec s) :=
  guardWf_of (decide_eq_true hport)

/-- A port whose link is lost is down and has nothing to send, whatever it was receiving. -/
theorem linkAndSched_down (hport : port < 96) (lf rf : Bool) (he : s.portExists port = true) :
    (linkAndSched port false lf rf fec s).linkUp port = false ∧ (linkAndSched port false lf rf fec s).macQueue port = [] := by
  unfold linkAndSched
  split
  · have he' : (schedTail port [] .cut fec s).portExists port = true :=
      (portExists_congr (schedTail_rd (lineOctetCfg_lt hport))).trans he
    obtain ⟨hup, hq⟩ := linkChange_down (fec := noFec) lf rf he'
    exact ⟨tailAndAfter_linkUp.trans hup, tailAndAfter_macQueue.trans hq⟩
  · obtain ⟨hup, hq⟩ := linkChange_down (fec := fec) lf rf he
    exact ⟨tailAndAfter_linkUp.trans hup, tailAndAfter_macQueue.trans hq⟩

theorem linkAndSched_up (hon : s.portOn port = true) (he : s.portExists port = true) :
    (linkAndSched port true false false fec s).linkUp port = true := tailAndAfter_linkUp.trans (linkChange_up hon he)

/-! ### SyncE -/

theorem exec_synceSquelch {out : Nat} (bad : Bool) (hout : out < 2) : exec (.synceSquelch out bad) s =
    .next (s.setFld (R.lineSynceCfg out) F.lineSynceCfgSquelched (b2n bad)) := guardWf_of (decide_eq_true hout)

theorem squelched_flag {out : Nat} (bad : Bool) :
    (s.setFld (R.lineSynceCfg out) F.lineSynceCfgSquelched (b2n bad)).flag (R.lineSynceCfg out) F.lineSynceCfgSquelched = bad := by
  rw [State.flag, State.fld, State.rd_setFld_same, getF_setF _ _ _ (by decide)]
  cases bad <;> rfl

/-- Settles O47: each priority's hold is set or ended by its own turn of the MAC's loop, and a link that is lost is shown after
whatever the port was receiving has been cut. -/
theorem pausesAndLinks : Obligations.PausesAndLinks := by
  intro s port prio len quanta qs en fec hport hprio hq0 hq hlen hfec hwait
  refine ⟨fun hon => ⟨fun hmode => ?pause, fun hmode hqs hq0 hen hrx => ?pfc⟩, fun at_ hat hdue => ?expire,
    ⟨fun he h0 hheld hx => ?xoff, fun hx hheld => ?xon, fun at_ hat hdue => ?again⟩, fun he => ⟨?down, fun hon => ?up⟩,
    fun out bad hout => ?synce⟩
  case pause =>
    obtain ⟨u, hsame, hexec⟩ := exec_pauseFrameReceive_obeyed hport hq hon hlen hfec hwait hmode
    have hheld : ∀ i < 8, Held port i (some (s.now + quantaTicks s port quanta))
        (forEach (List.range 8) (holdPrio port quanta) u) := fun i hi => holdAll_held hport hi hq0 hsame
    exact ⟨_, hexec, eq_255_of_nbit (getF_lt _ _) fun i hi => (hheld i hi).paused, (hheld prio hprio).hold⟩
  case pfc =>
    obtain ⟨u, hsame, hexec⟩ := exec_pfcFrameReceive_good (en := en) hport hqs hon hlen hfec hwait
    have hheld := pfcAll_held hport hprio hsame hmode hen hrx hq0
    exact ⟨_, hexec, hheld.hold, hheld.paused⟩
  case expire =>
    have hheld := pauseEnd_held hport hprio hat hdue
    exact ⟨pauseEnd port s, guardWf_of (decide_eq_true hport), hheld.hold, hheld.paused⟩
  case xoff =>
    refine ⟨_, (exec_xoffSignal hport hprio).trans (congrArg _ (xoffNow_sends he h0 hheld hx)), ?_, ?_, fun hsends => ?_⟩
    · rw [sendPause_q]
      exact List.mem_append_right _ (List.mem_singleton.2 rfl)
    · rw [sendPause_line]
      exact smapFind_insert_same
    · exact sendPause_outs hsends
  case xon =>
    refine ⟨_, (exec_xonSignal hport hprio).trans (congrArg _ (xonNow_sends hheld hx)), ?_, ?_, fun hsends => ?_⟩
    · rw [sendPause_q]
      exact fun hmem => by simpa using (List.mem_filter.1 hmem).2
    · rw [sendPause_line]
      exact smapFind_erase_same
    · exact sendPause_outs hsends
  case again =>
    refine ⟨_, (exec_pfcRefresh hport hprio).trans (congrArg _ (xoffAgain_sends hat hdue)), ?_, fun hsends => ?_⟩
    · rw [sendPause_line]
      exact smapFind_insert_same
    · exact sendPause_outs hsends
  case down =>
    obtain ⟨hup, hqueue⟩ := linkAndSched_down (fec := fec) hport false false he
    exact ⟨_, exec_linkStateChange hport .., hup, hqueue⟩
  case up => exact ⟨_, exec_linkStateChange hport .., linkAndSched_up hon he⟩
  case synce =>
    exact ⟨_, exec_synceSquelch bad hout, squelched_flag bad, fun r hr => State.rd_setFld_ne _ _ _ hr⟩

end Sys2Proof.Machine
end

section
/-! SUPPORT. O8: the commands of the pattern matcher and the end of a scan (R124 to R132). -/

namespace Sys2Proof.Machine

variable {s : State} {fn : Fn} {p op i id : Nat} {ecc : Ecc}

/-! ### Entries -/

theorem length_slice (o n : Nat) (b : Bytes) : (slice o n b).length = n := by
  simp only [slice, zeros, List.length_append, List.length_replicate, List.length_take]
  omega

/-- The byte a patch starts at is the first byte written. -/
theorem byteAt_patch_head (o : Nat) (x : BitVec 8) (new b : Bytes) : byteAt o (patch o (x :: new) b) = x.toNat := by
  have hlen : (slice 0 o b).length = o := length_slice 0 o b
  rw [byteAt, patch, List.append_assoc, List.getD_append_right _ _ _ _ hlen.le, hlen, Nat.sub_self]
  rfl

/-- An entry with VALID cleared; the other flags of its byte stand. -/
def ppmInvalid (e : Bytes) : Bytes := patch 2 (toLe 1 (byteAt 2 e / 2 * 2)) e

theorem ppmValid_ppmInvalid (e : Bytes) : ppmValid (ppmInvalid e) = false := by
  have hbyte : byteAt 2 (ppmInvalid e) = byteAt 2 e / 2 * 2 % 256 := byteAt_patch_head 2 _ [] e
  rw [ppmValid, hbyte, nbit, Nat.testBit_zero]
  exact decide_eq_false (by omega)

/-! ### The store of patterns -/

theorem setPattern_pattern_same (e : Bytes) : (setPattern i e s).pattern i = e := smapGet_put_same

theorem setPattern_pattern_ne {j : Nat} (e : Bytes) (h : j ≠ i) : (setPattern i e s).pattern j = s.pattern j :=
  smapGet_put_ne h

/-! ### The commands -/

/-- The partition's range of patterns stands in its record, which no command's acceptance writes. -/
theorem inRange_taken_ppm : (s.taken fn .ppm op p).inRange p 5 i 1 = s.inRange p 5 i 1 := by
  have hrec : R.pmap p (4 + 5) ≠ Ifc.ppm.status := by
    simp only [R.pmap, Ifc.status, R.ppmStatus]
    omega
  exact inRange_congr (congrArg BitVec.toNat (taken_rd hrec))

theorem ppmChecks_pass {e : Bytes} (hop : 1 ≤ op ∧ op ≤ 3) (hi : i < 4096) (hr : s.inRange p 5 i 1 = true)
    (he : op = 1 → ppmOk e = true) : Passes (ppmChecks (s.taken fn .ppm op p) p op i e) := by
  have hlength : (op != 1 || ppmOk e) = true := by
    by_cases h : op = 1
    · rw [he h, Bool.or_true]
    · rw [bne_iff_ne.2 h, Bool.true_or]
  simp [ppmChecks, inRange_taken_ppm, hop, hi, hr, hlength]

/-- A matcher command in its partition's range is performed. -/
theorem ppmIssue_performs (h : s.MayWrite fn p 4) (ht : s.Takes .ppm) (hop : 1 ≤ op ∧ op ≤ 3) (hi : i < 4096)
    (hr : s.inRange p 5 i 1 = true) (he : op = 1 → ppmOk (s.dataBytes R.ppmData 16) = true) :
    guardWf (fnOk fn && decide (i < 4096)) (ppmIssue fn op i ecc s) =
      .next (ppmPerform op i (s.dataBytes R.ppmData 16) ecc (s.taken fn .ppm op p)) := by
  rw [ppm_takes h ht (by omega) hi (ppmChecks_pass hop hi hr he)]
  exact guardWf_of (Bool.and_eq_true_iff.2 ⟨h.shape, decide_eq_true hi⟩)

theorem ppmPerform_read {e : Bytes} (hecc : ecc ≠ .uncorr) (hbad : i ∉ s.ppm.bad) :
    ppmPerform 2 i e ecc s = complete .ppm Code.ok 0 (setData R.ppmData 16 (s.pattern i) (ppmError i ecc s)) :=
  if_neg (by simp [hecc, hbad])

theorem ppmPerform_read_uncorr {e : Bytes} (h : ecc = .uncorr ∨ i ∈ s.ppm.bad) :
    ppmPerform 2 i e ecc s = complete .ppm Code.eccUncorrectable 0 (ppmError i .uncorr s) :=
  if_pos (by simpa using h)

/-- An INVALIDATE stores the entry with VALID cleared; an entry out of matching stays out of it (R129, R131). -/
theorem ppmPerform_invalidate {e : Bytes} : ppmPerform 3 i e ecc s = complete .ppm Code.ok 0
    { setPattern i (ppmInvalid (s.pattern i)) s with
      ppm := { (setPattern i (ppmInvalid (s.pattern i)) s).ppm with bad := s.ppm.bad } } := rfl

/-! ### The end of a scan -/

theorem ne_nil_of_ppmFirst {hits : List PpmHit} {h : PpmHit} (hf : ppmFirst hits = some h) : hits ≠ [] := by
  rintro rfl
  simp [ppmFirst] at hf

/-- A scan that met no error in the store and found nothing ends with PPM_DONE alone (R125). -/
theorem scanEnd_none {q : Packet} {c : Scan} (hq : s.pkt id = some q) (hc : q.scan = some c) (hdue : scanDue q = true)
    (hn : ppmHits c.pats (scanPayload q) = []) :
    scanEnd id [] s = setPkt id { q with pr := ppmResult pfPpmDone 0 0 0 q.pr, scan := none } s := by
  simp only [scanEnd, forEach, List.foldl_nil, hq, hc, hdue, hn, ppmFirst, Option.isSome_some, Bool.and_self, if_true,
    Option.bind_some, Option.map_some, Option.getD_some, List.isEmpty_nil, Bool.not_true, doIf_false]

/-- A scan that met no error in the store and has a first match reports it with the classes of all, and is counted (R125, R132). -/
theorem scanEnd_hit {q : Packet} {c : Scan} {h : PpmHit} (hq : s.pkt id = some q) (hc : q.scan = some c)
    (hdue : scanDue q = true) (hf : ppmFirst (ppmHits c.pats (scanPayload q)) = some h) :
    scanEnd id [] s = setPkt id { q with
      pr := ppmResult (pfPpmDone + pfPpmHit)
        ((ppmHits c.pats (scanPayload q)).foldl (fun m h => m ||| 2 ^ h.cls) 0) h.id h.off q.pr
      scan := none } (s.inc (parserCtr q.pipe 11)) := by
  have hany : (ppmHits c.pats (scanPayload q)).isEmpty = false := List.isEmpty_eq_false_iff.2 (ne_nil_of_ppmFirst hf)
  simp only [scanEnd, forEach, List.foldl_nil, hq, hc, hdue, hf, hany, Option.isSome_some, Bool.and_self, if_true,
    Option.bind_some, Option.map_some, Option.getD_some, Bool.not_false, doIf_true]

/-- Settles O8: each command passes the checks of R129 on the state that has accepted it and is one branch of the matcher; a
scan ends by whether it has a first match. -/
theorem ppmCommandsRun : Obligations.PpmCommandsRun := by
  refine ⟨fun s fn p i ecc h ht hi hr => ⟨fun hok => ?write, fun hecc hbad => ?read, fun hlost => ?uncorr, ?invalidate⟩,
    fun s id q c hq hc hdue => ⟨fun hn => ?none, fun first hf => ?hit⟩⟩
  case write => exact ppmIssue_performs h ht (op := 1) (by decide) hi hr fun _ => hok
  case read =>
    exact (ppmIssue_performs h ht (op := 2) (by decide) hi hr nofun).trans (congrArg _ (ppmPerform_read hecc hbad))
  case uncorr =>
    exact (ppmIssue_performs h ht (op := 2) (by decide) hi hr nofun).trans (congrArg _ (ppmPerform_read_uncorr hlost))
  case invalidate =>
    refine ⟨_, (ppmIssue_performs h ht (op := 3) (by decide) hi hr nofun).trans (congrArg _ ppmPerform_invalidate), ?_,
      fun j hj => setPattern_pattern_ne _ hj, rfl⟩
    exact (congrArg ppmValid (setPattern_pattern_same _)).trans (ppmValid_ppmInvalid _)
  case none => exact congrArg Host.Outcome.next (scanEnd_none hq hc hdue hn)
  case hit => exact congrArg Host.Outcome.next (scanEnd_hit hq hc hdue hf)

end Sys2Proof.Machine
end

section
/-! SUPPORT. O9: the commands of the forwarding tables, each one branch of what an accepted command performs (R148, R160 to
R162). -/

namespace Sys2Proof.Machine

variable {s u : State} {fn : Fn} {p op table mask slot moves i : Nat} {ecc : Ecc} {o : TblOp}

/-- A row that writes TBL_CMD performs its command, where the checks of R546 pass on the state that has accepted it. -/
theorem tblIssue_performs {ok : Bool} (hok : ok = true) (h : s.Owns fn p) (ht : s.Takes (.tbl p)) (ho : op < 256)
    (hb : table < 256) (hm : mask < 65536) (hc : Passes (tblChecks (s.tblTaken fn op p) p (tblOpOf s p op table mask))) :
    guardWf ok (tblIssue fn op table mask ecc s) =
      .next (tblPerform p (tblOpOf s p op table mask) ecc (s.tblTaken fn op p)) := by
  rw [tbl_takes h ht ho hb hm hc, guardWf_of hok]

/-! ### What is performed -/

theorem tblPerform_write (ho : o.op = 1) : tblPerform p o ecc s = complete (.tbl p) Code.ok 0 (tblStore o s) := by
  simp only [tblPerform, ho]

theorem tblPerform_read (ho : o.op = 2) (hbad : s.isBad o.table 0 o.arg = false) :
    tblPerform p o .ok s = complete (.tbl p) Code.ok 0 (setData (R.tblData p) 8 (tblEntry s o) s) := by
  simp only [tblPerform, ho, tblRead, hbad]
  rfl

theorem tblPerform_insert (ho : o.op = 3) (hi : tblInsertAll s o = some (u, slot, moves)) :
    tblPerform p o ecc s = complete (.tbl p) Code.ok 0
      ((u.setFld (R.tblArg p) F.tblArgIndex slot).setFld (R.tblStatus p) F.tblStatusMoves moves) := by
  simp only [tblPerform, ho, hi]

theorem tblPerform_delete (ho : o.op = 4) (hd : tblDeleteAll s o = some u) :
    tblPerform p o ecc s = complete (.tbl p) Code.ok 0 u := by
  simp only [tblPerform, ho, hd]

theorem tblPerform_lookup {e : Nat} (ho : o.op = 5) (he : o.ems.headD 0 = e)
    (hf : emFind e (s.emBuckets e) (emKey e o.data) (s.emTab e) = some i) :
    tblPerform p o ecc s = complete (.tbl p) Code.ok 0
      ((setData (R.tblData p) 8 (emGet e i (s.emTab e)) s).setFld (R.tblArg p) F.tblArgIndex i) := by
  simp only [tblPerform, ho, tblLookup, he, hf]

theorem tblPerform_commit (ho : o.op = 7) : tblPerform p o ecc s =
    complete (.tbl p) Code.ok 0 (s.wr (R.tblStencilRoot o.arg) (wordAt 0 o.data)) := by
  simp only [tblPerform, ho, tblCommitRoot]

/-- Settles O9: a command that its interface accepts and whose checks pass is one branch of what is performed. -/
theorem tableCommandsRun : Obligations.TableCommandsRun := by
  intro s fn p table mask ecc h ht hb
  have hok : (fnOk fn && decide (table < 256)) = true := Bool.and_eq_true_iff.2 ⟨h.shape, decide_eq_true hb⟩
  refine ⟨fun hc => ?write, fun hc hecc hbad => ?read, fun u slot moves hc hi => ?insert, fun u hc hd => ?delete,
    fun hc i hf => ?lookup, fun htable hc => ?commit⟩
  case write =>
    exact (tblIssue_performs hok h ht (op := 1) (by decide) hb (by decide) hc).trans (congrArg _ (tblPerform_write rfl))
  case read =>
    subst hecc
    exact (tblIssue_performs hok h ht (op := 2) (by decide) hb mask.isLt hc).trans (congrArg _ (tblPerform_read rfl hbad))
  case insert =>
    exact (tblIssue_performs hok h ht (op := 3) (by decide) hb mask.isLt hc).trans (congrArg _ (tblPerform_insert rfl hi))
  case delete =>
    exact (tblIssue_performs hok h ht (op := 4) (by decide) hb mask.isLt hc).trans (congrArg _ (tblPerform_delete rfl hd))
  case lookup =>
    exact (tblIssue_performs hok h ht (op := 5) (by decide) hb mask.isLt hc).trans (congrArg _ (tblPerform_lookup rfl rfl hf))
  case commit =>
    subst htable
    exact (tblIssue_performs h.shape h ht (op := 7) (by decide) (by decide) (by decide) hc).trans
      (congrArg _ (tblPerform_commit rfl))

end Sys2Proof.Machine
end

section
/-! SUPPORT. O10: fences, and the groups of a table ring (R167 to R173). -/

namespace Sys2Proof.Machine

variable {s : State} {fn : Fn} {p n code : Nat} {f : Fence} {b : Bytes} {o : TblOp}

/-! ### Fences -/

/-- A FENCE is listed, names no index, needs no grant and writes nothing. -/
theorem tblChecks_fence (ho : o.op = 6) : Passes (tblChecks s p o) := by
  simp [tblChecks, tblListed, tblMaskOk, tblIndexOk, tblGranted, tblContents, ho]

/-- An ordered FENCE is counted, and waits for the packets that are inside the F-die. -/
theorem tblPerform_fence {ecc : Ecc} (ho : o.op = 6) : tblPerform p o ecc s =
    { s.inc (R.tblDevCtr 3) with tbl := { s.tbl with fenceC := s.tbl.fenceC.set p (some (newFence s)) } } := by
  simp only [tblPerform, ho]

theorem Fence.over_iff : f.over s = true ↔ ∀ i ∈ f.pkts, i ∉ s.inFdie := by
  simp [Fence.over]

theorem fence_command (h : s.tbl.fenceC.getD p none = some f) : s.fence p false = some (f, 0) := by
  simp only [State.fence, h, Bool.false_eq_true, if_false, Option.map_some]

theorem fenceEnd_command : fenceEnd p false code n s = complete (.tbl p) code 0 (clearFence p false s) := rfl

theorem fenceDone_over (h : s.tbl.fenceC.getD p none = some f) (hover : f.over s = true) :
    fenceDone p false s = complete (.tbl p) Code.ok 0 (clearFence p false s) := by
  simp only [fenceDone, fence_command h, hover, doIf_true, fenceEnd_command]

/-- A fence that still waits 100 µs after its order times out with a record (R173). -/
theorem fenceTimeout_due (h : s.tbl.fenceC.getD p none = some f) (hover : f.over s = false) (hdue : f.at_ + usT 100 ≤ s.now) :
    fenceTimeout p false s =
      complete (.tbl p) Code.timeout 0 (clearFence p false (report .f 0x07 0x3FF .k 0x005 [] s)) := by
  simp only [fenceTimeout, fence_command h, hover, hdue, decide_true, Bool.not_false, Bool.and_self, doIf_true,
    fenceEnd_command]

/-! ### Groups of a table ring -/

/-- A group that passes its checks and is one WRITE is stored and completed (R169). -/
theorem runGroup_write (hr : s.boot.ready = true) (hc : groupCheck s p b 1 = Code.ok) (ho : (ringOp b 0).op = 1) :
    runGroup p 1 b s = ringComplete p 0 Code.ok 1 (tblStore (ringOp b 0) s) := by
  simp only [runGroup, hr, hc, ho, if_true, bne_self_eq_false, Bool.false_eq_true, if_false]
  rfl

/-- A descriptor read alone that has END is a group, where no longer one is being passed over. -/
theorem ringRun_one {full : Bool} (he : ringEnd b 0 = true) (hbig : s.tbl.big.getD p false = false) :
    ringRun p 1 full b s = runGroup p 1 b s := by
  have hfind : (List.range 1).find? (fun i => ringEnd b i) = some 0 := by simp [he]
  simp only [ringRun, hfind, hbig, Bool.false_eq_true, if_false]

/-- A ring that is on, waits for no fence and holds one descriptor goes on with it. -/
theorem ringGroup_one {group : Nat} (hint : s.mayInt p = true) (hen : s.flag (R.tblRingCfg p) F.tblRingCfgRingEn = true)
    (hf : s.tbl.fenceR.getD p none = none)
    (hn : (2 ^ 32 + s.fld (R.tblRingTail p) F.tblRingTailTail - s.tblHead p) % 2 ^ 32 = 1) :
    ∃ full, ringGroup p (.data b) group s = ringRun p 1 full b s := by
  have hcap : 1 ≤ 2 ^ s.fld (R.tblRingCfg p) F.tblRingCfgSizeLog2 := Nat.one_le_two_pow
  have hmin : min 1 4096 = 1 := rfl
  refine ⟨decide (1 = 2 ^ s.fld (R.tblRingCfg p) F.tblRingCfgSizeLog2), ?_⟩
  simp only [ringGroup, hn, hint, hen, hf, hcap, hmin, Option.isNone_none, Nat.lt_one_iff, OfNat.one_ne_ofNat, decide_true,
    decide_false, Bool.or_false, Bool.and_self, if_true]

/-- Settles O10: a FENCE passes its checks whatever stands in ARG and DATA, and ends by whether one of its packets is left; a
ring with one sound WRITE stores it. -/
theorem fencesAndRingGroups : Obligations.FencesAndRingGroups := by
  intro s fn p f b
  refine ⟨fun h ht => ?order, fun hp hf hleft => ?done, fun i hp hf hi hin hdue => ?timeout,
    fun hp hr hint hen hf hbig hn he hc ho => ?ring⟩
  case order =>
    exact (tblIssue_performs h.shape h ht (op := 6) (by decide) (by decide) (by decide) (tblChecks_fence rfl)).trans
      (congrArg _ (tblPerform_fence rfl))
  case done =>
    exact (guardWf_of (decide_eq_true hp)).trans (congrArg _ (fenceDone_over hf (Fence.over_iff.2 hleft)))
  case timeout =>
    have hover : f.over s = false := Bool.eq_false_iff.2 fun h => Fence.over_iff.1 h i hi hin
    exact (guardWf_of (decide_eq_true hp)).trans (congrArg _ (fenceTimeout_due hf hover hdue))
  case ring =>
    obtain ⟨full, hrun⟩ := ringGroup_one (b := b) (group := 1) hint hen hf hn
    calc exec (.tblRingGroup p (.data b) 1) s
        = .next (ringGroup p (.data b) 1 s) := guardWf_of (decide_eq_true hp)
      _ = .next (runGroup p 1 b s) := by rw [hrun, ringRun_one he hbig]
      _ = .next (ringComplete p 0 Code.ok 1 (tblStore (ringOp b 0) s)) := by rw [runGroup_write hr hc ho]

end Sys2Proof.Machine
end

section
/-! SUPPORT. O11: the visits of the ager and of the scrubbers of the tables and of the search array (R149, R150, R153, R196). -/

namespace Sys2Proof.Machine

variable {s : State} {pipe slot table i bank row : Nat}

/-! ### The ager -/

/-- The state once the ager has noted a visit. -/
def agerVisited (pipe slot : Nat) (s : State) : State :=
  { s with tbl := { s.tbl with visited := smapInsert (2 ^ 20 * pipe + slot) s.now s.tbl.visited } }

/-- AGE_PERIOD_S has passed since the ager's last visit to a slot, or there was none. -/
def State.agerDue (s : State) (pipe slot : Nat) : Bool :=
  match smapFind (2 ^ 20 * pipe + slot) s.tbl.visited with
  | some v => decide (v + ticksPerSec * s.fld R.tblAgeCfg F.tblAgeCfgAgePeriodS ≤ s.now)
  | none => true

theorem agerDue_of (h : ∀ v, smapFind (2 ^ 20 * pipe + slot) s.tbl.visited = some v →
    v + ticksPerSec * s.fld R.tblAgeCfg F.tblAgeCfgAgePeriodS ≤ s.now) : s.agerDue pipe slot = true := by
  unfold State.agerDue
  split
  · next v hv => exact decide_eq_true (h v hv)
  · rfl

/-- What a visit that is due does with a valid entry (R153). -/
theorem agerVisit_valid {e : Bytes} (hen : s.flag R.tblAgeCfg F.tblAgeCfgAgeEn = true) (hslot : slot < s.emSlots (2 + pipe))
    (hdue : s.agerDue pipe slot = true) (he : emGet (2 + pipe) slot (s.emTab (2 + pipe)) = e)
    (hv : emValid (2 + pipe) e = true) : agerVisit pipe slot s =
      if macHit e then setEm (2 + pipe) (emPut (2 + pipe) slot (setHit false e) (s.emTab (2 + pipe))) (agerVisited pipe slot s)
      else if macStatic e then agerVisited pipe slot s
      else learnEvent 3 pipe (emKey (2 + pipe) e) (emResult (2 + pipe) e) 0xFFFFFF
        ((setEm (2 + pipe) (emPut (2 + pipe) slot (zeros 16) (s.emTab (2 + pipe))) (agerVisited pipe slot s)).inc
          (R.tblPipeCtr pipe 8)) := by
  subst he
  have hvisit : (s.flag R.tblAgeCfg F.tblAgeCfgAgeEn && decide (slot < s.emSlots (2 + pipe)) && s.agerDue pipe slot) = true := by
    rw [hen, decide_eq_true hslot, hdue]
    rfl
  have hkept : ¬(!emValid (2 + pipe) (emGet (2 + pipe) slot (s.emTab (2 + pipe)))) = true := by
    rw [hv]
    decide
  exact (if_pos hvisit).trans (if_neg hkept)

/-! ### The scrubber of the tables -/

/-- The state once the scrubber has noted a visit. -/
def tblScrubbed (table pipe i : Nat) (s : State) : State :=
  { s with tbl := { s.tbl with scrubbed := smapInsert (scrubKey table pipe i) s.now s.tbl.scrubbed } }

/-- An uncorrectable word loses an exact-match entry, and makes an entry of another table bad (R150). -/
theorem scrub_uncorr (hen : s.flag R.tblScrubCfg F.tblScrubCfgScrubEn = true) (hi : i < s.tblCarved table pipe)
    (hdue : s.scrubDue table pipe i = true) : scrub table pipe i .uncorr s =
      if table = 3 then entryLost 0 i 1 (tblScrubbed table pipe i s)
      else if table = 4 then entryLost 1 i 1 (tblScrubbed table pipe i s)
      else if table = 5 then entryLost (2 + pipe) i 1 (tblScrubbed table pipe i s)
      else markBad table 0 i (tblScrubbed table pipe i s) := by
  simp only [scrub, hen, hi, hdue, decide_true, Bool.and_self, if_true]
  rfl

/-! ### The scrubber of the search array -/

/-- A row that differs from its shadow is repaired from it, counted and recorded (R196). -/
theorem asaScrub_mismatch (hen : s.flag R.asaScrubCfg F.asaScrubCfgScrubEn = true) (hdue : s.asaScrubDue bank row = true) :
    asaScrub bank row .mismatch s =
      report .f 0x08 (s.asaRowOf bank row).1 .c 0x001 [] ((asaVisited bank row s).inc (R.asaDevCtr 0)) := by
  simp only [asaScrub, hen, hdue, Bool.and_self, if_true]

/-- A row whose shadow is lost, and was not before, becomes a hole (R196). -/
theorem asaScrub_shadowUncorr (hen : s.flag R.asaScrubCfg F.asaScrubCfgScrubEn = true)
    (hdue : s.asaScrubDue bank row = true) (hlost : s.asaPlace bank row ∉ s.asa.lost) :
    asaScrub bank row .shadowUncorr s =
      report .f 0x08 (s.asaRowOf bank row).1 .k 0x003 [((s.asaRowOf bank row).1, 1), ((s.asaRowOf bank row).2, 4)]
        ((asaHole bank row (asaVisited bank row s)).inc (R.asaDevCtr 2)) := by
  have hnew : ¬(asaVisited bank row s).asa.lost.contains ((asaVisited bank row s).asaPlace bank row) = true :=
    fun h => hlost (List.contains_iff_mem.1 h)
  simp only [asaScrub, hen, hdue, Bool.and_self, if_true]
  exact if_neg hnew

/-- Settles O11: each clause is one branch of a visit that is due. -/
theorem agerAndScrubbersVisit : Obligations.AgerAndScrubbersVisit := by
  intro s pipe slot hpipe
  have hage : exec (.macAgerVisit pipe slot) s = .next (agerVisit pipe slot s) := guardWf_of (decide_eq_true hpipe)
  refine ⟨fun hen hslot hdue hv => ⟨fun hhit => ?used, fun hhit hstatic => ?unused⟩,
    fun table hen hslot hdue => ⟨fun htable => ?lost, fun htable => ?bad⟩,
    fun bank row hbank hrow hen hdue => ?asa⟩
  case used =>
    rw [hage, agerVisit_valid hen hslot (agerDue_of hdue) rfl hv, if_pos hhit]
    rfl
  case unused =>
    rw [hage, agerVisit_valid hen hslot (agerDue_of hdue) rfl hv, if_neg (ne_true_of_eq_false hhit),
      if_neg (ne_true_of_eq_false hstatic)]
    rfl
  case lost =>
    subst htable
    have hx : exec (.tblScrub 5 pipe slot .uncorr) s = .next (scrub 5 pipe slot .uncorr s) := guardWf_of (by simp [hpipe])
    rw [hx, scrub_uncorr hen hslot hdue]
    rfl
  case bad =>
    subst htable
    have hx : exec (.tblScrub 1 pipe slot .uncorr) s = .next (scrub 1 pipe slot .uncorr s) := guardWf_of (by simp [hpipe])
    rw [hx, scrub_uncorr hen hslot hdue]
    rfl
  case asa =>
    have hx (found : AsaFind) : exec (.asaScrubVisit bank row found) s = .next (asaScrub bank row found s) :=
      guardWf_of (by simp [hbank, hrow])
    refine ⟨?_, fun hlost => ?_⟩
    · rw [hx, asaScrub_mismatch hen hdue]
    · rw [hx, asaScrub_shadowUncorr hen hdue hlost]

end Sys2Proof.Machine
end

section
/-! SUPPORT. O12: the commands of the search array (R175, R186 to R195). -/

namespace Sys2Proof.Machine

/-! ### Maps and images -/

section
variable {α : Type} {d : Nat → α} {k : Nat} {m : SMap α}

/-- A key that no entry has reads as unlisted. -/
theorem smapGet_of_forall_ne (h : ∀ e ∈ m, e.1 ≠ k) : smapGet d k m = d k := by
  induction m with
  | nil => rfl
  | cons a m ih =>
    obtain ⟨ha, hm⟩ := List.forall_mem_cons.1 h
    simp only [smapGet, if_neg ha.symm, ih hm]

/-- A filter of a map whose keys rise unlists what it drops: no later entry has the key. -/
theorem smapGet_filter (h : Rising m) (q : Nat × α → Bool) :
    smapGet d k (m.filter q) = if q (k, smapGet d k m) then smapGet d k m else d k := by
  induction m with
  | nil => exact (ite_self _).symm
  | cons a m ih =>
    obtain ⟨j, v⟩ := a
    obtain ⟨hlater, hm⟩ := List.pairwise_cons.1 h
    by_cases hk : k = j
    · subst hk
      have hrest : smapGet d k (m.filter q) = d k :=
        smapGet_of_forall_ne fun e he => (hlater e (List.mem_of_mem_filter he)).ne'
      by_cases hq : q (k, v) = true <;> simp [smapGet, hq, hrest]
    · by_cases hq : q (j, v) = true <;> simp [smapGet, hq, hk, ih hm]

end

section
variable {s t : State} {a : AsaTab} {x y : Nat} {e : Bytes}

theorem slice_zero_self (b : Bytes) : slice 0 b.length b = b := by simp [slice, zeros]

theorem slice_zero_nil_of_allZero (h : allZero e = true) : slice 0 e.length [] = e := by
  have hzero : ∀ b ∈ e, b = 0 := fun b hb => beq_iff_eq.1 (List.all_eq_true.1 h b hb)
  rw [List.eq_replicate_of_mem hzero]
  simp [slice, zeros]

/-- A patch that ends within a byte string keeps its length. -/
theorem length_patch {o : Nat} {new b : Bytes} (h : o + new.length ≤ b.length) : (patch o new b).length = b.length := by
  simp only [patch, List.length_append, length_slice, List.length_drop]
  omega

/-- The FLAGS byte lies in the image (R186). -/
theorem asaFlagsOff_lt (a : AsaTab) : asaFlagsOff a < a.imgLen := by
  unfold asaFlagsOff AsaTab.keyLen AsaTab.imgLen
  split <;> decide

theorem asaGet_length (s : State) (a : AsaTab) (x : Nat) : (s.asaGet a x).length = a.imgLen := length_slice ..

theorem asaClear_length (h : e.length = a.imgLen) : (asaClear a e).length = a.imgLen := by
  refine (length_patch ?_).trans h
  rw [h]
  exact asaFlagsOff_lt a

/-! ### The store of entries -/

theorem asaGet_congr (h : t.asa.rows = s.asa.rows) : t.asaGet a x = s.asaGet a x := by
  unfold State.asaGet
  rw [h]

/-- An image reads as it was stored; one of zeros is not listed. -/
theorem asaPut_asaGet_same (h : e.length = a.imgLen) : (asaPut a x e s).asaGet a x = e := by
  simp only [State.asaGet, asaPut, smapGet_put_same, AsaTab.fits]
  by_cases hz : allZero e = true
  · simp only [hz, if_true, ite_self, ← h]
    exact slice_zero_nil_of_allZero hz
  · simp only [hz, h, beq_self_eq_true, if_true, if_false, Bool.false_eq_true]
    rw [← h]
    exact slice_zero_self e

/-- The other entries of the table stand: those of the other width in its bank, which are lost (R175), are none of it. -/
theorem asaPut_asaGet_ne (hrows : Rising s.asa.rows) (h : a.key y ≠ a.key x) :
    (asaPut a x e s).asaGet a y = s.asaGet a y := by
  simp only [State.asaGet, asaPut, smapGet_put_ne h, smapGet_filter hrows]
  by_cases hfits : a.fits (smapGet (fun _ => []) (a.key y) s.asa.rows) = true
  · simp only [hfits, Bool.or_true, if_true]
  · simp only [hfits, if_false, Bool.false_eq_true, apply_ite a.fits]
    split <;> simp only [ite_self, if_false, Bool.false_eq_true]

theorem asaPutRow_asaGet : (asaPutRow a x e s).asaGet a y = (asaPut a x e s).asaGet a y := asaGet_congr rfl

theorem asaPutRow_badRes : (asaPutRow a x e s).asa.badRes = s.asa.badRes := rfl

end

/-! ### Acceptance and completion -/

section
variable {s : State} {fn : Fn} {p op table x i off code detail : Nat} {ecc : Ecc} {img e : Bytes}

theorem asaTaken_asaTab (hp : p < 4) : (s.asaTaken fn op p).asaTab table = s.asaTab table :=
  congrArg asaTabOf ((doIf_rd (fun t => State.rd_setFld_ne t _ _ (asaTableCfg_ne_status hp)) _).trans
    (taken_rd (asaTableCfg_ne_status hp)))

theorem taken_asa {ifc : Ifc} : (s.taken fn ifc op p).asa = s.asa := rfl

theorem asaTaken_asa : (s.asaTaken fn op p).asa = s.asa :=
  (doIf_keeps State.asa (fun t => State.setFld_asa t _ _ _) (op == 4) _).trans taken_asa

theorem asaTaken_asaGet {a : AsaTab} : (s.asaTaken fn op p).asaGet a x = s.asaGet a x :=
  asaGet_congr (congrArg AsaSt.rows asaTaken_asa)

theorem asaTaken_asaBad (hp : p < 4) : (s.asaTaken fn op p).asaBad table x ecc = s.asaBad table x ecc := by
  rw [State.asaBad, asaTaken_asaTab hp, asaTaken_asa]
  rfl

/-- A row that writes ASA_CMD performs its command, where the checks of R546 pass on the state that has accepted it. -/
theorem asaIssue_performs (h : s.Owns fn p) (ht : s.Takes (.asa p)) (ho : op < 256) (hb : table < 16)
    (hc : Passes (asaChecks (s.asaTaken fn op p) p op table (s.fld (R.asaArg p) F.asaArgIndex)
      (s.dataBytes (R.asaData p) 24))) :
    guardWf (fnOk fn && decide (table < 16)) (asaIssue fn op table ecc s) =
      .next (asaPerform p op table (s.fld (R.asaArg p) F.asaArgIndex) (s.dataBytes (R.asaData p) 24) ecc
        (s.asaTaken fn op p)) := by
  rw [asa_takes h ht ho hb hc]
  exact guardWf_of (Bool.and_eq_true_iff.2 ⟨h.shape, decide_eq_true hb⟩)

theorem complete_asa {ifc : Ifc} : (complete ifc code detail s).asa = s.asa := by
  obtain ⟨_, _, _, h⟩ := signals_complete (s := s) ifc code detail
  rw [h]

/-- A command that takes a slot for its write and ends leaves the entries alone. -/
theorem complete_asaSlot_asa {ifc : Ifc} : (complete ifc code detail (asaSlot table s)).asa = s.asa :=
  complete_asa.trans (State.inc_asa s _)

theorem complete_asa_rd (hp : p < 4) (h : R.plateCmd ≤ off) (hne : off ≠ R.asaStatus p) :
    (complete (.asa p) code detail s).rd off = s.rd off := by
  rw [complete, doneIrq, doIf_rd (raiseSrc_rd (not_intReg_of_ge h p hp))]
  exact State.rd_wr_ne _ _ hne

theorem complete_asa_code (hp : p < 4) (h : code < 256) :
    (complete (.asa p) code detail s).fld (R.asaStatus p) stCode = code := by
  have hge : R.plateCmd ≤ R.asaStatus p := by simp only [R.plateCmd, R.asaStatus]; omega
  rw [State.fld, complete, doneIrq, doIf_rd (raiseSrc_rd (not_intReg_of_ge hge p hp)), Ifc.status, State.rd_wr_same]
  simp only [Ifc.hasDetail, Bool.false_eq_true, if_false]
  rw [getF_setF_ne _ _ _ _ (by decide) (by decide) (by decide), getF_setF_ne _ _ _ _ (by decide) (by decide) (by decide),
    getF_setF _ _ _ (by decide)]
  exact Nat.mod_eq_of_lt h

/-! ### What is performed -/

theorem asaPerform_write : asaPerform p 1 table x img ecc s = complete (.asa p) Code.ok 0
    (asaWriteAt table (s.asaTab table) x (slice 0 (s.asaTab table).imgLen img) s) := rfl

theorem asaPerform_read (hbad : s.asaBad table x ecc = false) :
    asaPerform p 2 table x img ecc s = complete (.asa p) Code.ok 0
      (setData (R.asaData p) ((s.asaTab table).imgLen / 8) (s.asaGet (s.asaTab table) x) s) :=
  if_neg (ne_true_of_eq_false hbad)

theorem asaPerform_invalidate : asaPerform p 3 table x img ecc s = complete (.asa p) Code.ok 0
    (asaSlot table (asaPutRow (s.asaTab table) x (asaClear (s.asaTab table) (s.asaGet (s.asaTab table) x)) s)) := rfl

theorem asaPerform_insert {plan : AsaPlan} (hplan : asaPlan s (s.asaTab table) x = some plan) (hecc : ecc ≠ .uncorr) :
    asaPerform p 4 table x img ecc s = complete (.asa p) Code.ok 0
      (((asaWriteAt table (s.asaTab table) plan.land (slice 0 (s.asaTab table).imgLen img)
          (forEach plan.moves (asaMove table (s.asaTab table)) s)).setFld
        (R.asaArg p) F.asaArgIndex plan.land).setFld (R.asaStatus p) F.asaStatusMoves plan.moves.length) := by
  simp [asaPerform, asaInsert, hplan, hecc]

/-- The state of a search that has found: both of its counters have counted (R198). -/
def asaFound (table : Nat) (s : State) : State := (s.inc (R.asaTableCtr table 0)).inc (R.asaTableCtr table 1)

/-- The state that shows a winner: its image in DATA and its index in ARG, and a corrected word counted. -/
def asaShow (p table i : Nat) (e : Bytes) (ecc : Ecc) (s : State) : State :=
  (setData (R.asaData p) ((s.asaTab table).imgLen / 8) e (doIf (ecc == .corr) (fun t => t.inc (R.asaDevCtr 3)) s)).setFld
    (R.asaArg p) F.asaArgIndex i

theorem asaFound_asaTab : (asaFound table s).asaTab table = s.asaTab table := by
  have hne : ∀ j, R.asaTableCfg table ≠ R.asaTableCtr table j := fun j => by
    simp only [R.asaTableCfg, R.asaTableCtr]
    omega
  exact congrArg asaTabOf ((State.rd_inc_ne _ (hne 1)).trans (State.rd_inc_ne _ (hne 0)))

theorem asaPerform_search (hwin : asaWinner s (s.asaTab table) (asaValue (s.asaTab table) img) = some (i, e))
    (hbad : s.asaBad table i ecc = false) :
    asaPerform p 5 table x img ecc s = complete (.asa p) Code.ok 0 (asaShow p table i e ecc (asaFound table s)) := by
  have hsearch : asaSearch table (asaValue (s.asaTab table) img) s = (asaFound table s, some (i, e)) := by
    simp only [asaSearch, hwin]
    rfl
  have hbad' : (asaFound table s).asaBad table i ecc = false := by
    rw [State.asaBad, asaFound_asaTab]
    exact hbad
  show asaSearchDo p table img ecc s = _
  simp only [asaSearchDo, hsearch, asaHit, hbad']
  rfl

/-! ### The registers that show a winner -/

/-- Filling data registers leaves every other register alone. -/
theorem setData_rd_ne {data : Nat → Nat} {n : Nat} (h : ∀ j < n, off ≠ data j) : (setData data n e s).rd off = s.rd off :=
  forEach_rd (fun j hj t => State.rd_wr_ne t _ (h j (List.mem_range.1 hj))) s

/-- Each data register holds its word, and no later one writes it again. -/
theorem setData_rd {data : Nat → Nat} {n k : Nat} (hdata : Function.Injective data) (hk : k < n) :
    (setData data n e s).rd (data k) = wordAt k e := by
  induction n with
  | zero => exact absurd hk (Nat.not_lt_zero k)
  | succ n ih =>
    have hlast : setData data (n + 1) e s = (setData data n e s).wr (data n) (wordAt n e) := by
      simp only [setData, forEach, List.range_succ, List.foldl_append, List.foldl_cons, List.foldl_nil]
    rw [hlast]
    by_cases hkn : k = n
    · rw [hkn, State.rd_wr_same]
    · rw [State.rd_wr_ne _ _ (hdata.ne hkn)]
      exact ih (by omega)

theorem asaData_injective : Function.Injective (R.asaData p) := fun j k h => by
  simp only [R.asaData] at h
  omega

theorem asaData_ne_asaArg (j : Nat) : R.asaData p j ≠ R.asaArg p := by
  simp only [R.asaData, R.asaArg]
  omega

theorem asaShow_arg : (asaShow p table i e ecc s).fld (R.asaArg p) F.asaArgIndex = i % 2 ^ fldWidth F.asaArgIndex := by
  rw [asaShow, State.fld, State.rd_setFld_same, getF_setF _ _ _ (by decide)]

theorem asaShow_data {k : Nat} (hk : k < (s.asaTab table).imgLen / 8) :
    (asaShow p table i e ecc s).rd (R.asaData p k) = wordAt k e := by
  rw [asaShow, State.rd_setFld_ne _ _ _ (asaData_ne_asaArg k), setData_rd asaData_injective hk]

theorem asaShow_tableCtr (hp : p < 4) (hb : table < 16) :
    (asaShow p table i e ecc s).rd (R.asaTableCtr table 1) = s.rd (R.asaTableCtr table 1) := by
  have hlen : (s.asaTab table).imgLen / 8 ≤ 24 := by
    unfold AsaTab.imgLen
    split <;> decide
  have harg : R.asaTableCtr table 1 ≠ R.asaArg p := by simp only [R.asaTableCtr, R.asaArg]; omega
  have hdata : ∀ j < (s.asaTab table).imgLen / 8, R.asaTableCtr table 1 ≠ R.asaData p j := fun j hj => by
    simp only [R.asaTableCtr, R.asaData]
    omega
  have hdev : R.asaTableCtr table 1 ≠ R.asaDevCtr 3 := by simp only [R.asaTableCtr, R.asaDevCtr]; omega
  rw [asaShow, State.rd_setFld_ne _ _ _ harg, setData_rd_ne hdata]
  exact doIf_rd (fun t => State.rd_inc_ne t hdev) s

theorem asaFound_tableCtr : (asaFound table s).rd (R.asaTableCtr table 1) = s.rd (R.asaTableCtr table 1) + 1 := by
  have hne : R.asaTableCtr table 1 ≠ R.asaTableCtr table 0 := by simp only [R.asaTableCtr]; omega
  rw [asaFound, State.rd_inc_same, State.rd_inc_ne _ hne]

/-- What a SEARCH with a winner shows (R188, R197), and its count of hits (R198). -/
theorem complete_asaShow_asaFound (hp : p < 4) (hb : table < 16) :
    let u := complete (.asa p) Code.ok 0 (asaShow p table i e ecc (asaFound table s))
    u.fld (R.asaArg p) F.asaArgIndex = i % 2 ^ fldWidth F.asaArgIndex ∧
      (∀ k < (s.asaTab table).imgLen / 8, u.rd (R.asaData p k) = wordAt k e) ∧
      u.fld (R.asaStatus p) stCode = Code.ok ∧ u.rd (R.asaTableCtr table 1) = s.rd (R.asaTableCtr table 1) + 1 := by
  have harg : R.plateCmd ≤ R.asaArg p ∧ R.asaArg p ≠ R.asaStatus p := by
    simp only [R.plateCmd, R.asaArg, R.asaStatus]
    omega
  have hdata : ∀ k, R.plateCmd ≤ R.asaData p k ∧ R.asaData p k ≠ R.asaStatus p := fun k => by
    simp only [R.plateCmd, R.asaData, R.asaStatus]
    omega
  have hctr : R.plateCmd ≤ R.asaTableCtr table 1 ∧ R.asaTableCtr table 1 ≠ R.asaStatus p := by
    simp only [R.plateCmd, R.asaTableCtr, R.asaStatus]
    omega
  refine ⟨?_, fun k hk => ?_, complete_asa_code hp (by decide), ?_⟩
  · rw [State.fld, complete_asa_rd hp harg.1 harg.2]
    exact asaShow_arg
  · have hk' : k < ((asaFound table s).asaTab table).imgLen / 8 := by rwa [asaFound_asaTab]
    rw [complete_asa_rd hp (hdata k).1 (hdata k).2, asaShow_data hk']
  · rw [complete_asa_rd hp hctr.1 hctr.2, asaShow_tableCtr hp hb, asaFound_tableCtr]

end

/-- Settles O12: an accepted command whose checks pass is one branch of what is performed, on the table and the entries that
its acceptance leaves as they were. -/
theorem asaCommandsRun : Obligations.AsaCommandsRun := by
  intro s fn p table ecc h ht hb
  have hp := own_lt h
  have htab : ∀ op, (s.asaTaken fn op p).asaTab table = s.asaTab table := fun _ => asaTaken_asaTab hp
  refine ⟨fun hc => ?write, fun hc hbad => ?read, fun hc => ?invalidate, fun plan hc hplan hecc => ?insert,
    fun i e hc hwin hbad => ?search⟩
  case write =>
    refine (asaIssue_performs h ht (op := 1) (by decide) hb hc).trans (congrArg _ ?_)
    rw [asaPerform_write, htab 1]
    rfl
  case read =>
    refine (asaIssue_performs h ht (op := 2) (by decide) hb hc).trans (congrArg _ ?_)
    rw [asaPerform_read ((asaTaken_asaBad hp).trans hbad), htab 2]
    rfl
  case invalidate =>
    refine ⟨_, (asaIssue_performs h ht (op := 3) (by decide) hb hc).trans (congrArg _ asaPerform_invalidate), ?_,
      fun hrows y hy => ?_, ?_⟩
    · rw [asaGet_congr (congrArg AsaSt.rows complete_asaSlot_asa), htab 3, asaPutRow_asaGet,
        asaPut_asaGet_same (asaClear_length (asaGet_length ..)), asaTaken_asaGet]
    · have hrise : Rising (s.asaTaken fn 3 p).asa.rows := by
        rw [asaTaken_asa]
        exact List.pairwise_map.1 hrows
      rw [asaGet_congr (congrArg AsaSt.rows complete_asaSlot_asa), htab 3, asaPutRow_asaGet, asaPut_asaGet_ne hrise hy,
        asaTaken_asaGet]
    · rw [complete_asaSlot_asa, asaPutRow_badRes, asaTaken_asa]
  case insert =>
    have hplan' : asaPlan (s.asaTaken fn 4 p) ((s.asaTaken fn 4 p).asaTab table) (s.fld (R.asaArg p) F.asaArgIndex) =
        some plan := by rw [htab 4, asaPlan_congr asaTaken_asa, hplan]
    refine (asaIssue_performs h ht (op := 4) (by decide) hb hc).trans (congrArg _ ?_)
    rw [asaPerform_insert hplan' hecc, htab 4]
    rfl
  case search =>
    have hwin' : asaWinner (s.asaTaken fn 5 p) ((s.asaTaken fn 5 p).asaTab table)
        (asaValue ((s.asaTaken fn 5 p).asaTab table) (s.dataBytes (R.asaData p) 24)) = some (i, e) := by
      rw [htab 5, asaWinner_congr asaTaken_asa, hwin]
    have hctr0 : (s.asaTaken fn 5 p).rd (R.asaTableCtr table 1) = s.rd (R.asaTableCtr table 1) :=
      taken_rd (by simp only [R.asaTableCtr, Ifc.status, R.asaStatus]; omega)
    obtain ⟨harg, hdata, hcode, hctr⟩ :=
      complete_asaShow_asaFound (s := s.asaTaken fn 5 p) (i := i) (e := e) (ecc := ecc) hp hb
    rw [htab 5] at hdata
    rw [hctr0] at hctr
    exact ⟨_, (asaIssue_performs h ht (op := 5) (by decide) hb hc).trans
      (congrArg _ (asaPerform_search hwin' ((asaTaken_asaBad hp).trans hbad))), harg, hdata, hcode, hctr⟩

end Sys2Proof.Machine
end

section
/-! SUPPORT. The buffer pool: what pages, records and stacks read after each operation of the pool, and what the pool's
registers leave alone. -/

namespace Sys2Proof.Machine

variable {s t : State} {r pool page off i : Nat}

/-! ### The registers of the pool -/

theorem Signals.bpm (h : Signals s t) : t.bpm = s.bpm := by
  obtain ⟨_, _, _, rfl⟩ := h
  rfl

theorem State.fld_setFld_same (s : State) {f : Fld} {v : Nat} (hf : FldOk f) (hv : v < 2 ^ fldWidth f) :
    (s.setFld off f v).fld off f = v := by
  rw [State.fld, State.rd_setFld_same, getF_setF _ _ _ hf, Nat.mod_eq_of_lt hv]

theorem signals_stackIrq : Signals s (stackIrq s) := .doIf (fun _ => signals_raiseBlock 7 7) _

theorem stackIrq_rd (h : R.plateCmd ≤ off) : (stackIrq s).rd off = s.rd off :=
  doIf_rd (raiseBlock_rd (not_intReg_of_ge h)) s

theorem signals_retireCheck : Signals s (retireCheck s) := by
  refine .forEach (fun i s => ?_) _
  split
  · exact (signals_setFld ..).trans signals_stackIrq
  · exact .refl

theorem signals_bpmRefresh : Signals s (bpmRefresh s) :=
  (signals_retireCheck.trans (.forEach (fun _ _ => (signals_setFld ..).trans (signals_setFld ..)) _)).trans
    (.forEach (fun _ _ => (signals_setFld ..).trans (signals_setFld ..)) _)

/-- After the check of the retiring stacks only the figures of the pools are written, which lie below the stacks. -/
theorem bpmRefresh_rd_retireCheck (h : R.bpmStack 0 ≤ off) : (bpmRefresh s).rd off = (retireCheck s).rd off := by
  simp only [R.bpmStack] at h
  have hpool : ∀ k ∈ [0, 1, 2], off ≠ R.bpmPoolStat k := fun k hk => by simp at hk; simp only [R.bpmPoolStat]; omega
  have hshared : ∀ k ∈ [0, 1], off ≠ R.bpmSharedStat k := fun k hk => by simp at hk; simp only [R.bpmSharedStat]; omega
  unfold bpmRefresh
  rw [forEach_rd (fun k hk s => by rw [State.rd_setFld_ne _ _ _ (hshared k hk), State.rd_setFld_ne _ _ _ (hshared k hk)]),
    forEach_rd (fun k hk s => by rw [State.rd_setFld_ne _ _ _ (hpool k hk), State.rd_setFld_ne _ _ _ (hpool k hk)])]

/-- The registers of the pool above the stacks' do not follow its quantities. -/
theorem bpmRefresh_rd (h : R.bpmStack 3 < off) : (bpmRefresh s).rd off = s.rd off := by
  simp only [R.bpmStack] at h
  have hstack : ∀ i ∈ [0, 1, 2, 3], off ≠ R.bpmStack i := fun i hi => by simp at hi; simp only [R.bpmStack]; omega
  rw [bpmRefresh_rd_retireCheck (by simp only [R.bpmStack]; omega)]
  refine forEach_rd (fun i hi s => ?_) s
  split
  · rw [stackIrq_rd (by simp only [R.plateCmd]; omega), State.rd_setFld_ne _ _ _ (hstack i hi)]
  · rfl

/-- An error record that is not fatal shows in no register between the interrupts' and the error queues'. -/
theorem report_rd_of_unit {d : Die} {cls inst code : Nat} {sev : Sev} {items : List (Nat × Nat)} (hsev : sev ≠ .f)
    (hge : R.plateCmd ≤ off) (hlt : off < R.erqStat 0) : (report d cls inst sev code items s).rd off = s.rd off := by
  obtain ⟨b, hb⟩ := report_eq_of_not_fatal (s := s) hsev d cls inst code items
  simp only [R.erqStat] at hlt
  rw [hb, doIf_rd (raiseBlock_rd (not_intReg_of_ge hge)),
    queueRec_rd (by simp only [R.erqStat]; omega) (by simp only [R.erqDropped]; omega)]

/-! ### Pages and their records -/

theorem page_congr (h : t.bpm = s.bpm) : t.page pool page = s.page pool page := by rw [State.page, State.page, h]

theorem setPage_page_same (x : PageSt) : (setPage pool page x s).page pool page = some x := smapFind_insert_same

theorem setPage_page_ne {q : Nat} (x : PageSt) (h : q ≠ page) : (setPage pool page x s).page pool q = s.page pool q :=
  smapFind_insert_ne (by simpa [pageKey] using h)

theorem record_of_page {w : Word} (h : s.page pool page = some (.used w)) : s.record pool page = some w := by
  rw [State.record, h, Option.bind_some]

theorem lastPage_of_last {n : Nat} {w : Word} (h : s.record pool page = some w) (hl : recLast w = true) :
    s.lastPage pool n page = page := by
  cases n with
  | zero => rfl
  | succ n => simp [State.lastPage, h, hl]

/-- The first body page of a packet is named in the record of its head. -/
theorem linkPage_of_last {head : Nat} {w : Word} (h : s.record pool head = some w) (hl : recLast w = true) :
    linkPage pool head page s =
      setPage pool head (.used (setF (setBit w 27 false) (25, 0) (page - spaceBase pool page))) s := by
  rw [linkPage, lastPage_of_last h hl, h]

/-! ### Free pages -/

theorem le_firstFreeFrom (lo : Nat) (m : SMap PageSt) : lo ≤ firstFreeFrom lo m := by
  induction m generalizing lo with
  | nil => exact Nat.le_refl lo
  | cons e m ih =>
    unfold firstFreeFrom
    split
    · exact ih lo
    · split
      · exact (Nat.le_succ lo).trans (ih (lo + 1))
      · exact Nat.le_refl lo

/-- A free page of a stack or pool lies in it. -/
theorem firstFree_bounds {base size : Nat} (h : s.firstFree pool base size = some page) :
    base ≤ page ∧ page < base + size := by
  have hle := le_firstFreeFrom (pageKey pool base) s.bpm.pages
  simp only [State.firstFree, Option.ite_none_right_eq_some, Option.some.injEq] at h
  obtain ⟨hlt, rfl⟩ := h
  simp only [pageKey] at hle hlt ⊢
  omega

theorem nextStack_lt {k : Nat} (h : s.nextStack = some k) : k < 4 := by
  obtain ⟨j, -, rfl⟩ := List.mem_map.1 (List.mem_of_find?_eq_some h)
  exact Nat.mod_lt _ (by decide)

/-! ### The states of the stacks -/

theorem onFailed_congr (h : ∀ i < 4, t.stackState i = s.stackState i) (hp : page < poolSize pool) :
    t.onFailed pool page = s.onFailed pool page := by
  by_cases h0 : pool = 0
  · subst h0
    simp only [poolSize] at hp
    rw [State.onFailed, State.onFailed, h _ (by omega)]
  · rw [State.onFailed, State.onFailed, beq_eq_false_iff_ne.2 h0, Bool.false_and, Bool.false_and]

/-- RETIRING and RETIRED are the only states that the end of a retirement is about: a stack is FAILED after it where it was
before. -/
theorem retireCheck_failed : ((retireCheck s).stackState i == 3) = (s.stackState i == 3) := by
  refine forEach_keeps (fun u : State => u.stackState i == 3) (fun j u => ?_) _
  split
  · next hj =>
    have hirq (v : State) : (stackIrq v).stackState i = v.stackState i :=
      congrArg (getF · _) (stackIrq_rd (by simp only [R.plateCmd, R.bpmStack]; omega))
    rw [hirq]
    by_cases h : i = j
    · subst h
      simp only [Bool.and_eq_true, beq_iff_eq] at hj
      rw [hj.1, State.stackState, State.fld_setFld_same _ (by decide) (by decide)]
      rfl
    · have hne : R.bpmStack i ≠ R.bpmStack j := by simp only [R.bpmStack]; omega
      rw [State.stackState, State.fld, State.rd_setFld_ne _ _ _ hne]
      rfl
  · rfl

theorem bpmRefresh_failed (h : s.stackState i = 3) : (bpmRefresh s).stackState i = 3 := by
  rw [State.stackState, State.fld, bpmRefresh_rd_retireCheck (by simp only [R.bpmStack]; omega)]
  exact beq_iff_eq.1 (retireCheck_failed.trans (beq_iff_eq.2 h))

end Sys2Proof.Machine
end

section
/-! SUPPORT. O13: the commands of the buffer pool manager, each one branch of what an accepted command performs (R217 to
R223, R235). -/

namespace Sys2Proof.Machine

variable {s : State} {fn : Fn} {p op pool x i : Nat} {w : Word}

/-! ### The state that has accepted a command -/

theorem taken_stackState (hi : i < 4) : (s.taken fn (.bpm p) op p).stackState i = s.stackState i :=
  congrArg (getF · _) (taken_rd (bpmStack_ne_status hi))

theorem taken_onFailed (hx : x < poolSize pool) : (s.taken fn (.bpm p) op p).onFailed pool x = s.onFailed pool x :=
  onFailed_congr (fun _ => taken_stackState) hx

theorem stackOut_false (h : ∀ i < 4, s.stackState i = 0) : s.stackOut = false := by
  simp [State.stackOut, h]

/-! ### What is performed -/

/-- A row that writes BPM_CMD performs its command, where ARG names something that the command can name. -/
theorem bpmIssue_performs {ecc : Ecc} (h : s.Owns fn p) (ht : s.Takes (.bpm p)) (hu : s.upd.tload = none)
    (hr : s.right p Right.bpm = true) (ho : 1 ≤ op ∧ op ≤ 4)
    (hx : bpmArgOk op (s.fld (R.bpmArg p) F.bpmArgPool) (s.fld (R.bpmArg p) F.bpmArgIndex) = true) :
    guardWf (fnOk fn) (bpmIssue fn op ecc s) = .next (bpmPerform p op (s.fld (R.bpmArg p) F.bpmArgPool)
      (s.fld (R.bpmArg p) F.bpmArgIndex) ecc (s.taken fn (.bpm p) op p)) := by
  rw [bpm_takes h hu ht hr ho hx, guardWf_of h.shape]

theorem readRec_used (hpool : pool < 2) (hx : x < poolSize pool) (hp : s.page pool x = some (.used w))
    (hf : s.onFailed pool x = false) : readRec p pool x .ok s = complete (.bpm p) Code.ok 0 (s.wr (R.bpmData p) w) := by
  have hin : ¬poolSize pool ≤ x := by omega
  have hsched : pool ≠ 2 := by omega
  have hecc : (Ecc.ok == Ecc.uncorr) = false := rfl
  simp only [readRec, hin, hsched, hp, hf, hecc, if_false, Bool.false_eq_true]
  rfl

theorem readRef_ok (h : i ∉ s.bpm.badRefs) :
    readRef p i .ok s = complete (.bpm p) Code.ok 0 (s.wr (R.bpmData p) (BitVec.ofNat 64 (s.refCount i))) :=
  if_neg (by simpa [bpmError] using h)

theorem retireStack_ok (hi : i < 4) (h : ∀ i < 4, s.stackState i = 0) :
    retireStack p i s = complete (.bpm p) Code.ok 0 (setStack i 1 s) := by
  rw [retireStack, if_neg (by simp [hi, h]), stackOut_false h, if_neg (by decide)]

theorem restoreStack_ok (hi : i < 4) (h : s.stackState i = 2) :
    restoreStack p i s = complete (.bpm p) Code.ok 0 (setStack i 0 s) := if_neg (by simp [hi, h])

/-- Settles O13: the checks pass where ARG names something, and the state that has accepted the command has the pages, the
counts and the stacks it had. -/
theorem bpmCommandsRun : Obligations.BpmCommandsRun := by
  intro s fn p h ht hu hr pool x t
  refine ⟨fun w hpool hx hp hf => ?rec, fun hx hbad => ?ref, fun hx hin => ?retire, fun hx hret => ?restore⟩
  case rec =>
    exact (bpmIssue_performs (op := 1) h ht hu hr (by decide) (decide_eq_true hx)).trans
      (congrArg _ (readRec_used hpool hx hp ((taken_onFailed hx).trans hf)))
  case ref =>
    exact (bpmIssue_performs (op := 2) h ht hu hr (by decide) (decide_eq_true hx)).trans (congrArg _ (readRef_ok hbad))
  case retire =>
    exact (bpmIssue_performs (op := 3) h ht hu hr (by decide) (decide_eq_true hx)).trans
      (congrArg _ (retireStack_ok hx fun i hi => (taken_stackState hi).trans (hin i hi)))
  case restore =>
    exact (bpmIssue_performs (op := 4) h ht hu hr (by decide) (decide_eq_true hx)).trans
      (congrArg _ (restoreStack_ok hx ((taken_stackState hx).trans hret)))

end Sys2Proof.Machine
end

section
/-! SUPPORT. O14: the references to a packet and the end of its chain (R211 to R215, R219). -/

namespace Sys2Proof.Machine

variable {s : State} {r pool head count : Nat} {w : Word}

/-- A requester finds the record of a packet that it owns. -/
theorem headFind_owned (hpool : pool < 2) (hp : s.page pool head = some (.used w)) (ho : recOwner w = r) :
    s.headFind r pool head = .ok w := by
  have hsched : pool ≠ 2 := by omega
  simp only [State.headFind, hsched, hp, ho, if_false, if_true]

/-! ### INC -/

theorem bpmInc_owned (hf : s.onFailed pool head = false) (h : s.headFind r pool head = .ok w) :
    (bpmInc r pool head s).1 =
      if recShared w = false then
        if 4194304 ≤ s.freeRef then s.inc (R.bpmDevCtr 0)
        else setRef s.freeRef 2 (setPage pool head (.used (setF (setBit w 63 true) (57, 36) s.freeRef)) s)
      else if recRef w ∈ s.bpm.badRefs then s
      else if 255 ≤ s.refCount (recRef w) then s.inc (R.bpmDevCtr 1)
      else setRef (recRef w) (s.refCount (recRef w) + 1) s := by
  simp only [bpmInc, hf, h, Bool.false_and, Bool.false_eq_true, if_false, Bool.not_eq_true', List.contains_iff_mem,
    apply_ite Prod.fst]

/-! ### FREE and DEC -/

theorem bpmRelease_unshared (h : s.headFind r pool head = .ok w) (hs : recShared w = false) :
    bpmRelease r pool head count s = freeChain r pool head count s := by
  simp only [bpmRelease, h, hs, Bool.not_false, if_true]

/-- A reference to a shared packet goes; with the last one the chain does. -/
theorem bpmRelease_shared (h : s.headFind r pool head = .ok w) (hs : recShared w = true) (hb : recRef w ∉ s.bpm.badRefs) :
    bpmRelease r pool head count s =
      if s.refCount (recRef w) ≤ 1 then freeChain r pool head count (setRef (recRef w) 0 s)
      else setRef (recRef w) (s.refCount (recRef w) - 1) s := by
  simp only [bpmRelease, h, hs, List.contains_iff_mem, hb, Bool.not_true, Bool.false_eq_true, if_false]

/-- On a FAILED stack a chain is not walked (R219). -/
theorem freeChain_failed (hf : s.onFailed pool head = true) :
    freeChain r pool head count s = bpmRefresh (dropUsed r pool head count s) := if_pos hf

/-- Settles O14: what the head's record says decides between a count and the chain. -/
theorem referencesCount : Obligations.ReferencesCount := by
  intro s r pool head count w hr hpool hhead
  have hok : (decide (r < 23) && decide (pool < 3) && decide (head < poolSize pool)) = true := by
    simp [hr, hhead]; omega
  have hinc : exec (.refInc r pool head) s = .next (bpmInc r pool head s).1 := guardWf_of hok
  have hdec : exec (.refDec r pool head count) s = .next (bpmRelease r pool head count s) := guardWf_of hok
  have hfree : exec (.pageFree r pool head count) s = .next (bpmRelease r pool head count s) := guardWf_of hok
  rw [hinc, hdec, hfree]
  refine ⟨fun hp hf ho hs hroom => ?share,
    fun hp hf ho hs hb => ⟨fun hroom => ?add, fun hmore => ?drop, fun hlast => ?last⟩,
    fun hp hf ho hs => ?alone, fun hp hf ho hs => ?failed⟩
  case share =>
    rw [bpmInc_owned hf (headFind_owned hpool hp ho), if_pos hs, if_neg (by omega)]
  case add =>
    rw [bpmInc_owned hf (headFind_owned hpool hp ho), hs, if_neg (by decide), if_neg hb, if_neg (by omega)]
  case drop =>
    rw [bpmRelease_shared (headFind_owned hpool hp ho) hs hb, if_neg (by omega)]
    exact ⟨rfl, rfl⟩
  case last =>
    rw [bpmRelease_shared (headFind_owned hpool hp ho) hs hb, if_pos hlast]
  case alone =>
    rw [bpmRelease_unshared (headFind_owned hpool hp ho) hs]
    exact ⟨rfl, rfl⟩
  case failed =>
    rw [bpmRelease_unshared (headFind_owned hpool hp ho) hs, freeChain_failed hf]

end Sys2Proof.Machine
end

section
/-! SUPPORT. O15: pages that are granted and refused, stacks that fail, and errors in the pool's memories (R28, R201 to R210,
R217, R222). -/

namespace Sys2Proof.Machine

variable {s t : State} {r pool page head i n k : Nat}

/-! ### A page that is granted -/

/-- A page becomes a requester's own: its record, the requester's USED and the count of pages granted. -/
def takePage (r pool page : Nat) (s : State) : State :=
  bpmRefresh ((addUsed r pool page (setPage pool page (.used (newRec r)) s)).inc (R.bpmReqCtr r 0))

/-- The stack of a packet's first page is where the rotation stands (R201). -/
def turnStack (pool page : Nat) (s : State) : State :=
  doIf (pool == 0) (fun s => { s with bpm := { s.bpm with lastStk := page / 2 ^ 26 } }) s

theorem pageRequest_first (hq : s.quotaAllows r pool = true) (hp : s.pageFor pool none = some page) :
    pageRequest r pool none s = (takePage r pool page (turnStack pool page s)).emit (.pageGrant r pool page) := by
  simp only [pageRequest, grantPage, hq, hp]
  rfl

theorem pageRequest_body (hq : s.quotaAllows r pool = true) (hp : s.pageFor pool (some head) = some page) :
    pageRequest r pool (some head) s =
      (onStored pool head (fun _ k => { k with pages := k.pages + 1 })
        (takePage r pool page (linkPage pool head page s))).emit (.pageGrant r pool page) := by
  simp only [pageRequest, grantPage, hq, hp]
  rfl

/-- A request that the quota rule refuses is counted in NOBUF (R208). -/
theorem grantPage_refused {body : Option Nat} (hq : s.quotaAllows r pool = false) :
    grantPage r pool body s = (s.inc (R.bpmReqCtr r 2), none) := by
  simp only [grantPage, hq]

theorem pageRequest_first_refused (hq : s.quotaAllows r pool = false) :
    pageRequest r pool none s = s.inc (R.bpmReqCtr r 2) := by
  simp only [pageRequest, grantPage_refused hq]

/-- One for a body cuts its packet (R210). -/
theorem pageRequest_body_refused (hq : s.quotaAllows r pool = false) :
    pageRequest r pool (some head) s = cutStored pool head (s.inc (R.bpmReqCtr r 2)) := by
  simp only [pageRequest, grantPage_refused hq]

theorem addUsed_bpm : (addUsed r pool page s).bpm = s.bpm := by
  unfold addUsed
  exact doIf_keeps State.bpm (fun u => u.setFld_bpm ..) _ _

theorem takePage_bpm : (takePage r pool page s).bpm = (setPage pool page (.used (newRec r)) s).bpm := by
  rw [takePage, signals_bpmRefresh.bpm, State.inc_bpm, addUsed_bpm]

theorem takePage_page_same : (takePage r pool page s).page pool page = some (.used (newRec r)) :=
  (page_congr takePage_bpm).trans (setPage_page_same _)

theorem takePage_page_ne {q : Nat} (h : q ≠ page) : (takePage r pool page s).page pool q = s.page pool q :=
  (page_congr takePage_bpm).trans (setPage_page_ne _ h)

/-- A page of the HBM pool is counted on its stack as well, which is one of the four. -/
theorem addUsed_usedOf (hstk : pool = 0 → page / 2 ^ 26 < 4) (h : s.usedOf r pool + 1 < 2 ^ 29) :
    (addUsed r pool page s).usedOf r pool = s.usedOf r pool + 1 := by
  have hset : (s.setFld (R.bpmUsed r pool) F.bpmUsedUsed (s.usedOf r pool + 1)).usedOf r pool = s.usedOf r pool + 1 :=
    State.fld_setFld_same _ (by decide) h
  unfold addUsed
  by_cases h0 : pool = 0
  · have hne : R.bpmUsed r pool ≠ R.bpmStack (page / 2 ^ 26) := by
      have := hstk h0
      simp only [R.bpmUsed, R.bpmStack]
      omega
    rw [beq_iff_eq.2 h0, doIf_true, State.usedOf, State.fld, State.rd_setFld_ne _ _ _ hne]
    exact hset
  · rw [beq_eq_false_iff_ne.2 h0, doIf_false]
    exact hset

theorem takePage_usedOf (hr : r < 23) (hpool : pool < 2) (hstk : pool = 0 → page / 2 ^ 26 < 4)
    (h : s.usedOf r pool + 1 < 2 ^ 29) : (takePage r pool page s).usedOf r pool = s.usedOf r pool + 1 := by
  have hne : R.bpmUsed r pool ≠ R.bpmReqCtr r 0 := by simp only [R.bpmUsed, R.bpmReqCtr]; omega
  have hlt : R.bpmStack 3 < R.bpmUsed r pool := by simp only [R.bpmUsed, R.bpmStack]; omega
  rw [takePage, State.usedOf, State.fld, bpmRefresh_rd hlt, State.rd_inc_ne _ hne]
  exact addUsed_usedOf (s := setPage pool page (.used (newRec r)) s) hstk h

theorem turnStack_usedOf : (turnStack pool page s).usedOf r pool = s.usedOf r pool := by
  unfold turnStack
  cases pool == 0 <;> rfl

theorem turnStack_page {q : Nat} : (turnStack pool page s).page pool q = s.page pool q := by
  unfold turnStack
  cases pool == 0 <;> rfl

theorem takePage_turnStack_lastStk : (takePage r 0 page (turnStack 0 page s)).bpm.lastStk = page / 2 ^ 26 := by
  rw [takePage_bpm]
  rfl

theorem emit_page {o : Out} {q : Nat} : (s.emit o).page pool q = s.page pool q := rfl

theorem emit_usedOf {o : Out} : (s.emit o).usedOf r pool = s.usedOf r pool := rfl

theorem onStored_page {f : Nat → Stored → Stored} {q : Nat} : (onStored pool head f s).page pool q = s.page pool q := rfl

/-- A first page that is granted. -/
structure Granted (s t : State) (r pool page : Nat) : Prop where
  record : t.page pool page = some (.used (newRec r))
  used   : t.usedOf r pool = s.usedOf r pool + 1
  answer : t.outs.head? = some (.pageGrant r pool page)
  others : ∀ q, q ≠ page → t.page pool q = s.page pool q

theorem granted_first (hr : r < 23) (hpool : pool < 2) (hstk : pool = 0 → page / 2 ^ 26 < 4)
    (hu : s.usedOf r pool + 1 < 2 ^ 29) :
    Granted s ((takePage r pool page (turnStack pool page s)).emit (.pageGrant r pool page)) r pool page where
  record := by rw [emit_page, takePage_page_same]
  used := by rw [emit_usedOf, takePage_usedOf hr hpool hstk (by rwa [turnStack_usedOf]), turnStack_usedOf]
  answer := by rw [State.emit_outs, List.head?_cons]
  others q hq := by rw [emit_page, takePage_page_ne hq, turnStack_page]

theorem pageFor_egress : s.pageFor 1 none = s.firstFree 1 0 (2 ^ 18) := rfl

/-- A first page of the HBM pool is the lowest free one of the next stack in turn (R201, R207). -/
theorem pageFor_hbm (hrun : s.bpm.stopped = false) (hk : s.nextStack = some k) : s.pageFor 0 none = s.stackFree k := by
  show (if s.bpm.stopped = true then none else s.nextStack.bind s.stackFree) = _
  rw [hrun, hk, if_neg (by decide), Option.bind_some]

theorem exec_pageRequest_first (hr : r < 23) (hpool : pool < 2) (hq : s.quotaAllows r pool = true)
    (hp : s.pageFor pool none = some page) : exec (.pageRequest r pool none) s =
      .next ((takePage r pool page (turnStack pool page s)).emit (.pageGrant r pool page)) := by
  rw [← pageRequest_first hq hp]
  exact guardWf_of (by simp [hr, hpool])

theorem exec_pageRequest_body (hr : r < 23) (hpool : pool < 2) (hh : head < poolSize pool) :
    exec (.pageRequest r pool (some head)) s = .next (pageRequest r pool (some head) s) :=
  guardWf_of (by simp [hr, hpool, hh])

/-! ### A stack that fails -/

theorem setStack_failed (hi : i < 4) : (setStack i 3 s).stackState i = 3 := by
  have hge : R.plateCmd ≤ R.bpmStack i := by simp only [R.plateCmd, R.bpmStack]; omega
  have hlt : R.bpmStack i < R.erqStat 0 := by simp only [R.bpmStack, R.erqStat]; omega
  unfold setStack
  by_cases h : s.stackState i = 3
  · rw [if_pos h, h]
  · rw [if_neg h]
    refine bpmRefresh_failed ?_
    rw [State.stackState, State.fld, stackIrq_rd hge, doIf_rd (fun s => report_rd_of_unit (s := s) (by decide) hge hlt)]
    exact State.fld_setFld_same _ (by decide) (by decide)

/-- The uncorrectable reads of a stack in the present second, with `n` more (R217). -/
theorem countUnc_unc (hl : s.bpm.unc.length = 4) (hi : i < 4) : (countUnc i n s).bpm.unc.getD i 0 =
    (if s.bpm.uncSec = s.now / ticksPerSec then s.bpm.unc.getD i 0 else 0) + n := by
  by_cases hsec : s.bpm.uncSec = s.now / ticksPerSec
  · simp [countUnc, hsec, hl, hi]
  · have hzero : [0, 0, 0, 0].getD i 0 = 0 := by interval_cases i <;> rfl
    simp only [countUnc, hsec, if_false, hzero]
    simp [hi]

theorem stackFailed_of_thresh (hin : s.stackState i ≤ 1)
    (hth : s.fld R.bpmCfg F.bpmCfgFailThresh ≤ (countUnc i n s).bpm.unc.getD i 0) :
    stackFailed i false n s = failStack i (countUnc i n s) := by
  have hin' : (countUnc i n s).stackState i ≤ 1 := hin
  have hth' : (countUnc i n s).fld R.bpmCfg F.bpmCfgFailThresh ≤ (countUnc i n s).bpm.unc.getD i 0 := hth
  exact if_pos (by rw [decide_eq_true hin', decide_eq_true hth']; rfl)

theorem failStack_failed (hi : i < 4) : (failStack i s).stackState i = 3 := setStack_failed hi

theorem exec_bpmStackFailed (hi : i < 4) : exec (.bpmStackFailed i false n) s = .next (stackFailed i false n s) := by
  show guardWf (i < 5) (if i = 4 then _ else _) = _
  rw [guardWf_of (decide_eq_true (by omega)), if_neg (by omega)]

/-- The fifth stack is F0, which goes out with its link (R28). -/
theorem exec_bpmStackFailed_f0 :
    exec (.bpmStackFailed 4 true n) s = .next (doIf (true && !s.boot.f0Out) f0Fail s) := rfl

theorem exec_bpmMemoryError_count (hi : i < 4194304) :
    exec (.bpmMemoryError (.count i) .uncorr) s = .next (bpmRefresh (loseRef i s)) :=
  guardWf_of (decide_eq_true hi)

/-- Settles O15: a grant is a page taken, with the rotation turned or the head's record linked; a stack at its threshold
fails, and nothing in the state's refresh brings it back. -/
theorem pagesAndStacks : Obligations.PagesAndStacks := by
  intro s r page st n i hr hst hi
  refine ⟨fun _ hu hq hfree => ?egress, fun k hrun hu hq hk hfree => ?hbm, fun pool h w hpool hh hne hq hp hw hl => ?body,
    fun pool h hpool hh hq => ⟨?refusedHead, ?refusedBody⟩, fun hlen hin hth => ?stack, fun hf => ?f0, ?count⟩
  case egress =>
    obtain ⟨hrec, hused, hout, hothers⟩ :=
      granted_first (s := s) (page := page) hr (pool := 1) (by decide) nofun hu
    exact ⟨_, exec_pageRequest_first hr (by decide) hq (pageFor_egress.trans hfree), hrec, hused, hout, hothers⟩
  case hbm =>
    have hfor : s.pageFor 0 none = some page := (pageFor_hbm hrun hk).trans hfree
    have hstk : page / 2 ^ 26 < 4 := by
      have := nextStack_lt hk
      have := firstFree_bounds hfree
      omega
    obtain ⟨hrec, hused, hout, hothers⟩ :=
      granted_first (s := s) (page := page) hr (pool := 0) (by decide) (fun _ => hstk) hu
    refine ⟨_, exec_pageRequest_first hr (by decide) hq hfor, hrec, hused, ?_, hout, hothers⟩
    rw [State.emit_bpm, takePage_turnStack_lastStk]
  case body =>
    refine ⟨_, (exec_pageRequest_body hr hpool hh).trans (congrArg _ (pageRequest_body hq hp)), ?_, ?_, ?_⟩
    · rw [emit_page, onStored_page, takePage_page_same]
    · rw [emit_page, onStored_page, takePage_page_ne hne, linkPage_of_last hw hl, setPage_page_same]
    · rw [State.emit_outs, List.head?_cons]
  case refusedHead =>
    exact (guardWf_of (by simp [hr, hpool])).trans (congrArg _ (pageRequest_first_refused hq))
  case refusedBody =>
    exact (exec_pageRequest_body hr hpool hh).trans (congrArg _ (pageRequest_body_refused hq))
  case stack =>
    have hfail := stackFailed_of_thresh (n := n) hin (hth.trans_eq (countUnc_unc hlen hst).symm)
    exact ⟨_, (exec_bpmStackFailed hst).trans (congrArg _ hfail), failStack_failed hst⟩
  case f0 =>
    rw [exec_bpmStackFailed_f0, hf]
    rfl
  case count => exact exec_bpmMemoryError_count hi

end Sys2Proof.Machine
end

section
/-! SUPPORT. The queue engine: what a queue reads after each operation on it, and what such an operation leaves alone. -/

namespace Sys2Proof.Machine

variable {s t u : State} {q x : Nat} {k : QueueSt}

/-! ### A queue is stored -/

/-- A port that holds a lane block is one of the 96. -/
theorem queuePort_lt {n : Nat} (h : s.queuePort q = some n) : n < 96 := by
  unfold State.queuePort State.blockPort at h
  split at h
  · cases h
  · exact List.mem_range.1 (List.mem_of_find?_eq_some h)

/-- From `s` to `t` only registers, the queues themselves and credit messages on their way differ. -/
def Requeues (s t : State) : Prop := ∃ regs fab queues reqIn grantIn, t = { s with
  regs := regs, fab := fab, q := { s.q with queues := queues, reqIn := reqIn, grantIn := grantIn } }

theorem Requeues.refl : Requeues s s := ⟨_, _, _, _, _, rfl⟩

theorem Requeues.trans (h : Requeues s t) (k : Requeues t u) : Requeues s u := by
  obtain ⟨_, _, _, _, _, rfl⟩ := h
  obtain ⟨_, _, _, _, _, rfl⟩ := k
  exact ⟨_, _, _, _, _, rfl⟩

/-- What a stored queue leaves: itself in the map of queues, and registers that follow its depth. -/
theorem setQue_eq (q : Nat) (k : QueueSt) (s : State) : ∃ regs, setQue q k s = { s with
    regs := regs, q := { s.q with queues := smapPut (fun _ => emptyQueue) q k s.q.queues } } := by
  unfold setQue
  dsimp only
  split <;> exact ⟨_, rfl⟩

theorem requeues_setQue : Requeues s (setQue q k s) := by
  obtain ⟨_, h⟩ := setQue_eq q k s
  rw [h]
  exact ⟨_, _, _, _, _, rfl⟩

@[simp] theorem setQue_que_same : (setQue q k s).que q = k := by
  obtain ⟨_, h⟩ := setQue_eq q k s
  rw [h]
  exact smapGet_put_same

theorem setQue_que_ne (h : x ≠ q) : (setQue q k s).que x = s.que x := by
  obtain ⟨_, he⟩ := setQue_eq q k s
  rw [he]
  exact smapGet_put_ne h

/-- Of the registers only FBU and the depths of the ports follow a queue. -/
theorem setQue_rd {off : Nat} (hfbu : off ≠ R.qFbStat) (hport : ∀ n < 96, off ≠ R.qPortDepth n) :
    (setQue q k s).rd off = s.rd off := by
  unfold setQue
  dsimp only
  split
  · next n hn => rw [State.rd_setFld_ne _ _ _ (hport n (queuePort_lt hn)), State.rd_setFld_ne _ _ _ hfbu]; rfl
  · rw [State.rd_setFld_ne _ _ _ hfbu]; rfl

theorem setQue_rd_qDevCtr {i : Nat} : (setQue q k s).rd (R.qDevCtr i) = s.rd (R.qDevCtr i) :=
  setQue_rd (by simp only [R.qDevCtr, R.qFbStat]; omega) fun n hn => by simp only [R.qDevCtr, R.qPortDepth]; omega

/-! ### Credit messages -/

theorem linkGroup_setGroup_same {g : Nat} {gs : GroupSt} : (setGroup g gs s).linkGroup g = gs := smapGet_put_same

/-- A message goes to the queue engine itself or to a group of the fabric. -/
theorem sendCredit_cases (d : Nat) (m : CreditMsg) (s : State) :
    sendCredit d m s = takeCredit m s ∨ ∃ fab, sendCredit d m s = { s with fab := fab } := by
  unfold sendCredit
  split
  · exact .inl rfl
  · dsimp only
    split
    · exact .inr ⟨_, rfl⟩
    · split <;> exact .inr ⟨_, rfl⟩

theorem takeCredit_eq (m : CreditMsg) (s : State) :
    ∃ reqIn grantIn, takeCredit m s = { s with q := { s.q with reqIn := reqIn, grantIn := grantIn } } := by
  cases m <;> exact ⟨_, _, rfl⟩

theorem sendCredit_eq (d : Nat) (m : CreditMsg) (s : State) : ∃ fab reqIn grantIn,
    sendCredit d m s = { s with fab := fab, q := { s.q with reqIn := reqIn, grantIn := grantIn } } := by
  rcases sendCredit_cases d m s with h | ⟨_, h⟩ <;> rw [h]
  · obtain ⟨_, _, h⟩ := takeCredit_eq m s
    exact ⟨_, _, _, h⟩
  · exact ⟨_, _, _, rfl⟩

theorem requeues_sendCredit (d : Nat) (m : CreditMsg) : Requeues s (sendCredit d m s) := by
  obtain ⟨_, _, _, h⟩ := sendCredit_eq d m s
  rw [h]
  exact ⟨_, _, _, _, _, rfl⟩

theorem sendCredit_rd (d : Nat) (m : CreditMsg) (off : Nat) : (sendCredit d m s).rd off = s.rd off := by
  obtain ⟨_, _, _, h⟩ := sendCredit_eq d m s
  rw [h]
  rfl

theorem sendCredit_que (d : Nat) (m : CreditMsg) : (sendCredit d m s).que x = s.que x := by
  obtain ⟨_, _, _, h⟩ := sendCredit_eq d m s
  rw [h]
  rfl

theorem sendCredit_grantAt (d : Nat) (m : CreditMsg) : (sendCredit d m s).q.grantAt = s.q.grantAt := by
  obtain ⟨_, _, _, h⟩ := sendCredit_eq d m s
  rw [h]

/-- A GRANT for the device itself reaches its queue engine. -/
theorem sendCredit_grant_self {d : Nat} {m : GrantMsg} (h : d = s.devIndex) :
    (sendCredit d (.grant m) s).q.grantIn = s.q.grantIn ++ [m] := by
  rw [sendCredit, if_pos h]
  rfl

/-- A message for another device waits at the lowest group that reaches it. -/
theorem sendCredit_group {d g : Nat} {gs : List Nat} {m : CreditMsg} (hd : d ≠ s.devIndex)
    (hg : s.reachMask d = g :: gs) (hroom : (s.linkGroup g).msgs.length < 2048) :
    ((sendCredit d m s).linkGroup g).msgs = (s.linkGroup g).msgs ++ [creditWord m] := by
  rw [sendCredit, if_neg hd, hg]
  simp only [List.head?_cons, hroom, if_true, linkGroup_setGroup_same]

end Sys2Proof.Machine
end

section
/-! SUPPORT. O19: requests, grants and the credit that they move (R246 to R248). -/

namespace Sys2Proof.Machine

variable {s : State} {port tc dev left gap : Nat} {m : GrantMsg} {n : ReqMsg} {x : Source}

/-! ### Sources -/

theorem mem_takeReq (h : n.active = true) :
    ({ port := n.port, tc := n.tc, dev := n.issuer, voq := n.voq, at_ := s.now } : Source) ∈ (takeReq n s).q.sources := by
  simp [takeReq, h]

theorem not_mem_takeReq (h : n.active = false) (hx : x ∈ (takeReq n s).q.sources) :
    ¬(x.port = n.port ∧ x.tc = n.tc ∧ x.dev = n.issuer) := by
  simp only [takeReq, h, Bool.false_eq_true, if_false, List.append_nil, List.mem_filter, Bool.not_eq_true',
    Bool.and_eq_false_iff, beq_eq_false_iff_ne] at hx
  tauto

/-- A source leaves the set only where it is the one named and has not been heard of for 3 × REFRESH_US. -/
theorem mem_requestExpire : x ∈ (requestExpire port tc dev s).q.sources ↔ x ∈ s.q.sources ∧ ¬(x.port = port ∧ x.tc = tc ∧
    x.dev = dev ∧ x.at_ + 3 * usT (s.fld R.qCreditCfg F.qCreditCfgRefreshUs) ≤ s.now) := by
  simp only [requestExpire, List.mem_filter, Bool.not_eq_true', Bool.and_eq_false_iff, beq_eq_false_iff_ne,
    decide_eq_false_iff_not]
  tauto

/-! ### A grant is issued -/

/-- The round robins of a port move on, and its next grant is due `gap` later. -/
def turnGrant (port tc left dev gap : Nat) (s : State) : State :=
  { s with q := { s.q with tcDef := smapInsert port (tc * 256 + left) s.q.tcDef,
                           srcPtr := smapInsert (8 * port + tc) (dev + 1) s.q.srcPtr,
                           grantAt := smapInsert port (s.now + gap) s.q.grantAt } }

/-- The GRANT that a port of the device issues to a source. -/
def State.grantFor (s : State) (x : Source) : GrantMsg :=
  { issuer := s.devIndex, target := x.dev, voq := x.voq, credit := s.fld R.qCreditCfg F.qCreditCfgGrantUnits }

theorem grantIssue_due (hport : s.portExists port = true) (hat : smapGet (fun _ => 0) port s.q.grantAt ≤ s.now)
    (hgap : s.grantGap port = some gap) (htc : s.pickTc port = some (tc, left))
    (hx : nextSource (smapGet (fun _ => 0) (8 * port + tc) s.q.srcPtr) (s.srcs port tc) = some x) :
    grantIssue port s =
      sendCredit x.dev (.grant (s.grantFor x)) ((turnGrant port tc left x.dev gap s).inc (R.qDevCtr 15)) := by
  simp only [grantIssue, hport, hat, hgap, htc, hx, decide_true, Bool.and_self, if_true]
  rfl

theorem turnGrant_count_devIndex : ((turnGrant port tc left dev gap s).inc (R.qDevCtr 15)).devIndex = s.devIndex :=
  congrArg (getF · _) (State.rd_inc_ne _ (by decide))

theorem turnGrant_count_reachMask {d : Nat} :
    ((turnGrant port tc left dev gap s).inc (R.qDevCtr 15)).reachMask d = s.reachMask d := by
  have hreach : R.fabReach d ≠ R.qDevCtr 15 := by simp only [R.fabReach, R.qDevCtr]; omega
  have hstat (g : Nat) : R.fabGroupStat g ≠ R.qDevCtr 15 := by simp only [R.fabGroupStat, R.qDevCtr]; omega
  simp only [State.reachMask, State.txService, State.flag, State.fld, State.rd_inc_ne _ hreach, State.rd_inc_ne _ (hstat _)]
  rfl

/-! ### A grant is taken -/

/-- A GRANT from the device that the VOQ sends to is counted and adds its credit. -/
theorem takeGrant_within (hen : (s.que m.voq).en = true) (hdev : qDestDev (s.que m.voq).img = m.issuer)
    (hcap : (s.que m.voq).cb + (m.credit * 256 : Nat) ≤ (s.fld R.qCreditCfg F.qCreditCfgCbMax * 256 : Nat)) :
    takeGrant m s =
      setQue m.voq { s.que m.voq with cb := (s.que m.voq).cb + (m.credit * 256 : Nat) } (s.inc (R.qDevCtr 16)) := by
  simp only [takeGrant, hen, hdev, not_lt.2 hcap, decide_false, doIf_false, Bool.not_true, bne_self_eq_false, Bool.or_self,
    Bool.false_eq_true, if_false]
  rfl

/-- One beyond the cap is counted as capped, and takes the credit to the cap at most. -/
theorem takeGrant_capped (hen : (s.que m.voq).en = true) (hdev : qDestDev (s.que m.voq).img = m.issuer)
    (hcap : (s.fld R.qCreditCfg F.qCreditCfgCbMax * 256 : Nat) < (s.que m.voq).cb + (m.credit * 256 : Nat)) :
    takeGrant m s =
      setQue m.voq { s.que m.voq with cb := max ((s.fld R.qCreditCfg F.qCreditCfgCbMax * 256 : Nat) : Int) (s.que m.voq).cb }
        ((s.inc (R.qDevCtr 16)).inc (R.qDevCtr 17)) := by
  simp only [takeGrant, hen, hdev, hcap, decide_true, doIf_true, Bool.not_true, bne_self_eq_false, Bool.or_self,
    Bool.false_eq_true, if_false, if_true]
  rfl

theorem setQue_grantIn {q : Nat} {k : QueueSt} : (setQue q k s).q.grantIn = s.q.grantIn := by
  obtain ⟨_, h⟩ := setQue_eq q k s
  rw [h]

theorem qDevCtr_ne {i j : Nat} (h : i ≠ j) : R.qDevCtr i ≠ R.qDevCtr j := by
  simp only [R.qDevCtr]
  omega

/-- The state whose first GRANT has been read. -/
abbrev grantRead (ms : List GrantMsg) (s : State) : State := { s with q := { s.q with grantIn := ms } }

theorem exec_grantReceive {ms : List GrantMsg} (h : s.q.grantIn = m :: ms) :
    exec .grantReceive s = .next (takeGrant m (grantRead ms s)) := by
  show guardWf true (grantReceive s) = _
  rw [grantReceive, h]
  rfl

/-- Settles O19: each message meets one branch of the queue engine. -/
theorem creditMoves : Obligations.CreditMoves := by
  intro s q port tc dev m n ms ns
  refine ⟨fun hq hact hdue => ?refresh, fun hin => ?request, fun hport htc hdev => ?expire,
    fun gap left x hport hex hat hgap htc hx => ?grant, fun hin hen hdev hcap => ?within, fun hin hen hdev hcap => ?capped⟩
  case refresh =>
    refine (guardWf_of (decide_eq_true hq)).trans (congrArg _ ?_)
    rw [creditRefresh, hact, decide_eq_true hdue]
    rfl
  case request =>
    refine ⟨takeReq n { s with q := { s.q with reqIn := ns } }, ?_, rfl, mem_takeReq, fun h _ hx => not_mem_takeReq h hx⟩
    show guardWf true (requestReceive s) = _
    rw [requestReceive, hin]
    rfl
  case expire =>
    exact ⟨requestExpire port tc dev s, guardWf_of (by simp [hport, htc, hdev]), fun _ => mem_requestExpire⟩
  case grant =>
    intro g
    refine ⟨(turnGrant port tc left x.dev gap s).inc (R.qDevCtr 15), _,
      (guardWf_of (decide_eq_true hport)).trans (congrArg _ (grantIssue_due hex hat hgap htc hx)), rfl, ?_, ?_, fun hself => ?_,
      fun k ks hother hreach hroom => ?_⟩
    · rw [sendCredit_grantAt]
      exact smapGet_insert_same
    · rw [sendCredit_rd, State.rd_inc_same]
      rfl
    · rw [sendCredit_grant_self (hself.trans turnGrant_count_devIndex.symm)]
      rfl
    · exact sendCredit_group (hother.trans_eq turnGrant_count_devIndex.symm) (turnGrant_count_reachMask.trans hreach) hroom
  case within =>
    refine ⟨_, (exec_grantReceive hin).trans (congrArg _ (takeGrant_within hen hdev hcap)), ?_, ?_, ?_⟩
    · rw [setQue_que_same]
      rfl
    · rw [setQue_rd_qDevCtr, State.rd_inc_same]
      rfl
    · rw [setQue_grantIn]
      rfl
  case capped =>
    refine ⟨_, (exec_grantReceive hin).trans (congrArg _ (takeGrant_capped hen hdev hcap)), ?_, ?_, ?_, ?_⟩
    · rw [setQue_que_same]
      rfl
    · rw [setQue_rd_qDevCtr, State.rd_inc_ne _ (qDevCtr_ne (by decide)), State.rd_inc_same]
      rfl
    · rw [setQue_rd_qDevCtr, State.rd_inc_same, State.rd_inc_ne _ (qDevCtr_ne (by decide))]
      rfl
    · rw [setQue_grantIn]
      rfl

end Sys2Proof.Machine
end

section
/-! SUPPORT. O16: the commands of the queue engine, the end of a FLUSH, and errors in its objects (R237, R252, R257 to R261). -/

namespace Sys2Proof.Machine

variable {s t : State} {fn : Fn} {p op obj i c k : Nat} {ecc : Ecc} {f : Flush} {m : QMem}

/-- A row that writes Q_CMD performs its command, where the checks of R546 pass on the state that has accepted it. -/
theorem qIssue_performs {ok : Bool} (hok : ok = true) (h : s.Owns fn p) (ht : s.Takes (.q p)) (hu : s.upd.tload = none)
    (ho : op < 256) (hb : obj < 256) (hc : Passes (qChecks (s.taken fn (.q p) op p) p op obj (s.fld (R.qArg p) F.qArgIndex))) :
    guardWf ok (qIssue fn op obj ecc s) =
      .next (qPerform fn p op obj (s.fld (R.qArg p) F.qArgIndex) ecc (s.taken fn (.q p) op p)) := by
  rw [q_takes h hu ht ho hb hc, guardWf_of hok]

/-! ### WRITE and READ -/

theorem qPerform_write {b : Bytes} (hdata : slice 0 (objBytes obj) (s.dataBytes (R.qData p) 4) = b)
    (himg : s.imgOk obj i b = true) (hq : qFields obj b = qFields obj (s.objImg obj i) ∨ s.objQuiesced obj i = true) :
    qPerform fn p 1 obj i ecc s = complete (.q p) Code.ok 0 (qStore obj i b s) := by
  have hclass : (qFields obj b != qFields obj (s.objImg obj i) && !s.objQuiesced obj i) = false := by
    rcases hq with h | h <;> simp [h]
  simp only [qPerform, qWriteDo, hdata, himg, hclass, Bool.not_true, Bool.false_eq_true, if_false]

theorem qPerform_read (hbad : s.objBad (wordObj obj) i = false) :
    qPerform fn p 2 obj i .ok s = complete (.q p) Code.ok 0 (setData (R.qData p) 4 (s.objImg obj i) s) := by
  have hcorr : (Ecc.ok == Ecc.corr) = false := rfl
  have huncorr : (Ecc.ok == Ecc.uncorr) = false := rfl
  simp only [qPerform, qReadDo, hcorr, huncorr, hbad, Bool.false_and, doIf_false, Bool.or_self, Bool.false_eq_true, if_false]

/-! ### COMMIT -/

/-- The points of a curve, put into a map one by one. -/
def putPoints (d : Nat → Word) (idx : List Nat) (v : Nat → Word) (m : SMap Word) : SMap Word :=
  (idx.zip (idx.map v)).foldl (fun m e => smapPut d e.1 e.2 m) m

theorem putPoints_cons (d : Nat → Word) (j : Nat) (idx : List Nat) (v : Nat → Word) (m : SMap Word) :
    putPoints d (j :: idx) v m = putPoints d idx v (smapPut d j (v j) m) := rfl

theorem smapGet_putPoints_of_get {d : Nat → Word} {idx : List Nat} {v : Nat → Word} {m : SMap Word} {j : Nat}
    (h : smapGet d j m = v j) : smapGet d j (putPoints d idx v m) = v j := by
  induction idx generalizing m with
  | nil => exact h
  | cons a idx ih =>
    rw [putPoints_cons]
    refine ih ?_
    by_cases ha : j = a
    · rw [ha, smapGet_put_same]
    · rw [smapGet_put_ne ha, h]

/-- Every point that is put reads as it was put. -/
theorem smapGet_putPoints {d : Nat → Word} {idx : List Nat} {v : Nat → Word} {m : SMap Word} {j : Nat} (h : j ∈ idx) :
    smapGet d j (putPoints d idx v m) = v j := by
  induction idx generalizing m with
  | nil => cases h
  | cons a idx ih =>
    rw [putPoints_cons]
    rcases List.mem_cons.1 h with rfl | h
    · exact smapGet_putPoints_of_get smapGet_put_same
    · exact ih h

/-- The indices of the points of a curve. -/
def curveIdx (c : Nat) : List Nat := (List.range 32).map (fun i => 32 * c + i)

theorem mem_curveIdx (hk : k < 32) : 32 * c + k ∈ curveIdx c := List.mem_map.2 ⟨k, List.mem_range.2 hk, rfl⟩

theorem any_curveIdx_eq_false {g : Nat → Bool} (h : ∀ k < 32, g (32 * c + k) = false) : (curveIdx c).any g = false := by
  rw [List.any_eq_false]
  intro j hj
  obtain ⟨k, hk, rfl⟩ := List.mem_map.1 hj
  simp [h k (List.mem_range.1 hk)]

/-- A standby point of a curve of either kind. -/
def State.stbyPoint (s : State) (obj j : Nat) : Word :=
  smapGet (if obj = 6 then ecnReset else creditReset) j (if obj = 6 then s.q.ecnStby else s.q.crStby)

/-- The standby points of a curve become its active ones. -/
def commitCurve (obj c : Nat) (s : State) : State :=
  if obj = 6 then { s with q := { s.q with ecnAct := putPoints ecnReset (curveIdx c) (s.stbyPoint 6) s.q.ecnAct } }
  else { s with q := { s.q with crAct := putPoints creditReset (curveIdx c) (s.stbyPoint 7) s.q.crAct } }

theorem ecnAct_commitCurve (hk : k < 32) : smapGet ecnReset (32 * c + k) (setObjBad 6 c false (commitCurve 6 c s)).q.ecnAct =
    smapGet ecnReset (32 * c + k) s.q.ecnStby := smapGet_putPoints (mem_curveIdx hk)

theorem crAct_commitCurve (hk : k < 32) : smapGet creditReset (32 * c + k) (setObjBad 7 c false (commitCurve 7 c s)).q.crAct =
    smapGet creditReset (32 * c + k) s.q.crStby := smapGet_putPoints (mem_curveIdx hk)

theorem qPerform_commit (hobj : obj = 6 ∨ obj = 7) (hbad : ∀ k < 32, s.objBad (wordObj obj) (32 * c + k) = false)
    (hrise : depthsRise ((List.range 32).map (fun k => s.stbyPoint obj (32 * c + k))) = true) :
    qPerform fn p 3 obj c ecc s = complete (.q p) Code.ok 0 (setObjBad obj c false (commitCurve obj c s)) := by
  have hgood : (curveIdx c).any (s.objBad (wordObj obj)) = false := any_curveIdx_eq_false hbad
  have hmap : (curveIdx c).map (s.stbyPoint obj) = (List.range 32).map (fun k => s.stbyPoint obj (32 * c + k)) :=
    List.map_map
  rw [← hmap] at hrise
  unfold curveIdx State.stbyPoint at hrise
  unfold curveIdx at hgood
  simp only [qPerform, qCommitDo, hgood, hrise, if_false, Bool.not_true, Bool.false_eq_true]
  rcases hobj with rfl | rfl <;> rfl

/-! ### FLUSH -/

theorem qPerform_flush (hen : (s.que i).en = false) : qPerform fn p 4 1 i ecc s =
    { s with q := { s.q with flushes := s.q.flushes.set p (some { q := i, at_ := s.now }) } } := by
  simp only [qPerform, qFlushDo, hen, Bool.false_eq_true, if_false]

/-- The FLUSH of a partition is over. -/
abbrev flushOver (p : Nat) (s : State) : State := { s with q := { s.q with flushes := s.q.flushes.set p none } }

theorem flushDone_of (h : s.q.flushes.getD p none = some f) :
    flushDone p s = complete (.q p) Code.ok 0 (flushQue f.q (flushOver p s)) := by
  simp only [flushDone, h]

theorem flushTimeout_of (h : s.q.flushes.getD p none = some f) (hdue : f.at_ + 1000000000 ≤ s.now) :
    flushTimeout p s = complete (.q p) Code.timeout 0
      (flushSome f.q (Config.flushSoFar s.freeCtr % max 1 (s.que f.q).ents.length)
        { flushOver p s with freeCtr := s.freeCtr + 1 }) := by
  have hms : f.at_ + msT 100 ≤ s.now := hdue
  simp only [flushTimeout, h, hms, if_true]

/-! ### Errors in objects -/

/-- The first uncorrectable word of an object other than a queue's counters is counted and recorded, and makes it bad. -/
theorem qEccBad_first (hobj : obj < 11) (hgood : s.objBad obj i = false) : qEccBad obj i s = doIf (obj == 1) (queueBroken i)
    (setObjBad obj i true (report .t 0x11 0 .k 0x002 [(obj, 1), (i, 4)] (s.inc (R.qDevCtr 23)))) := by
  have hcount : (s.inc (R.qDevCtr 23)).objBad obj i = false := hgood
  have h11 : obj ≠ 11 := by omega
  have h16 : obj < 16 := by omega
  simp only [qEccBad, h11, h16, hcount, if_true, if_false, Bool.not_false, doIf_true]

/-- Settles O16: a command that its interface accepts and whose checks pass is one branch of what is performed. -/
theorem queueCommandsRun : Obligations.QueueCommandsRun := by
  intro s fn p obj h ht hu hb i b t
  have hok : (fnOk fn && decide (obj < 256)) = true := Bool.and_eq_true_iff.2 ⟨h.shape, decide_eq_true hb⟩
  refine ⟨fun hc himg hq => ?write, fun hc hbad => ?read, fun hobj hc hbad hrise => ?ecn, fun hobj hc hbad hrise => ?credit,
    fun hc hen => ?flush, fun f hp hf => ⟨?done, fun hdue => ?timeout⟩, fun k hlo hhi hex hgood => ?uncorr, fun m hm => ?corr⟩
  case write =>
    exact (qIssue_performs hok h ht hu (op := 1) (by decide) hb hc).trans
      (congrArg _ (qPerform_write (congrArg _ qData_taken) himg hq))
  case read =>
    exact (qIssue_performs hok h ht hu (op := 2) (by decide) hb hc).trans (congrArg _ (qPerform_read hbad))
  case ecn =>
    subst hobj
    exact ⟨_, (qIssue_performs hok h ht hu (op := 3) (by decide) hb hc).trans
      (congrArg _ (qPerform_commit (.inl rfl) hbad hrise)), fun _ hk => ecnAct_commitCurve (s := t 3) hk⟩
  case credit =>
    subst hobj
    exact ⟨_, (qIssue_performs hok h ht hu (op := 3) (by decide) hb hc).trans
      (congrArg _ (qPerform_commit (.inr rfl) hbad hrise)), fun _ hk => crAct_commitCurve (s := t 3) hk⟩
  case flush =>
    exact (qIssue_performs h.shape h ht hu (op := 4) (by decide) (by decide) hc).trans (congrArg _ (qPerform_flush hen))
  case done =>
    exact (guardWf_of (decide_eq_true hp)).trans (congrArg _ (flushDone_of hf))
  case timeout =>
    exact ⟨_, Nat.mod_lt _ (by omega), (guardWf_of (decide_eq_true hp)).trans (congrArg _ (flushTimeout_of hf hdue))⟩
  case uncorr =>
    have hmem : qMemOk (.obj obj k) = true := by
      have h11 : (obj != 11) = true := bne_iff_ne.2 (by omega)
      rw [qMemOk, h11, hex, Bool.true_and]
    refine (guardWf_of hmem).trans (congrArg _ ((qEccBad_first (by omega) hgood).trans ?_))
    simp only [doIf, beq_iff_eq]
  case corr =>
    exact guardWf_of hm

end Sys2Proof.Machine
end

section
/-! SUPPORT. Packets that join their queues: what the policers, the curves, the pages and the queues leave alone, and what a
packet's first page says. -/

namespace Sys2Proof.Machine

variable {s t u : State} {r pool page head id q x len : Nat} {md : Bytes} {k : Stored}

/-! ### The pool, seen through its registers -/

theorem sumReq_congr {f g : Nat → Nat} (h : ∀ r < 23, f r = g r) : sumReq f = sumReq g :=
  congrArg List.sum (List.map_congr_left fun r hr => h r (List.mem_range.1 hr))

/-- The pool of `t` is that of `s`: its pages, and the registers of its stacks, quotas and counts. -/
structure SamePool (s t : State) : Prop where
  bpm : t.bpm = s.bpm
  rd  : ∀ off < R.bpmCmd 0, t.rd off = s.rd off

namespace SamePool

theorem stackState (h : SamePool s t) {i : Nat} (hi : i < 4) : t.stackState i = s.stackState i :=
  congrArg (getF · _) (h.rd _ (by simp only [R.bpmStack, R.bpmCmd]; omega))

theorem usedOf (h : SamePool s t) (hr : r < 23) (hp : pool < 2) : t.usedOf r pool = s.usedOf r pool :=
  congrArg (getF · _) (h.rd _ (by simp only [R.bpmUsed, R.bpmCmd]; omega))

theorem resOf (h : SamePool s t) (hr : r < 23) (hp : pool < 2) : t.resOf r pool = s.resOf r pool :=
  congrArg (getF · _) (h.rd _ (by simp only [R.bpmQuota, R.bpmCmd]; omega))

theorem smaxOf (h : SamePool s t) (hr : r < 23) (hp : pool < 2) : t.smaxOf r pool = s.smaxOf r pool :=
  congrArg (getF · _) (h.rd _ (by simp only [R.bpmQuota, R.bpmCmd]; omega))

theorem sharedUse (h : SamePool s t) (hr : r < 23) (hp : pool < 2) : t.sharedUse r pool = s.sharedUse r pool := by
  rw [State.sharedUse, State.sharedUse, h.usedOf hr hp, h.resOf hr hp]

theorem inService (h : SamePool s t) : t.inService pool = s.inService pool := by
  have hlost (i : Nat) : t.lostOf i = s.lostOf i := by rw [State.lostOf, State.lostOf, h.bpm]
  have hstacks : [0, 1, 2, 3].filter (fun i => t.stackState i == 0) = [0, 1, 2, 3].filter (fun i => s.stackState i == 0) :=
    List.filter_congr fun i hi => by rw [h.stackState (by simp at hi; omega)]
  simp only [State.inService, hstacks, hlost]

theorem freeOf (h : SamePool s t) (hp : pool < 2) : t.freeOf pool = s.freeOf pool := by
  have h2 : pool ≠ 2 := by omega
  rw [State.freeOf, State.freeOf, if_neg h2, if_neg h2, h.inService, sumReq_congr fun r hr => h.usedOf hr hp]

theorem sharedFree (h : SamePool s t) (hp : pool < 2) : t.sharedFree pool = s.sharedFree pool := by
  rw [State.sharedFree, State.sharedFree, h.freeOf hp, h.inService, sumReq_congr fun r hr => h.resOf hr hp,
    sumReq_congr fun r hr => h.sharedUse hr hp]

theorem quotaAllows (h : SamePool s t) (hr : r < 23) (hp : pool < 2) : t.quotaAllows r pool = s.quotaAllows r pool := by
  rw [State.quotaAllows, State.quotaAllows, h.usedOf hr hp, h.resOf hr hp, h.freeOf hp, h.sharedUse hr hp, h.smaxOf hr hp,
    h.sharedFree hp]

theorem firstFree (h : SamePool s t) {base size : Nat} : t.firstFree pool base size = s.firstFree pool base size := by
  rw [State.firstFree, State.firstFree, h.bpm]

theorem nextStack (h : SamePool s t) : t.nextStack = s.nextStack := by
  unfold State.nextStack
  rw [h.bpm]
  refine List.find?_congr fun i hi => ?_
  obtain ⟨j, -, rfl⟩ := List.mem_map.1 hi
  rw [h.stackState (Nat.mod_lt _ (by decide)), State.stackFree, State.stackFree, h.firstFree]

theorem pageFor (h : SamePool s t) : t.pageFor pool none = s.pageFor pool none := by
  have hfree : t.stackFree = s.stackFree := funext fun _ => h.firstFree
  simp only [State.pageFor, h.bpm, h.nextStack, hfree, h.firstFree]

theorem trans (h : SamePool s t) (h' : SamePool t u) : SamePool s u :=
  ⟨h'.bpm.trans h.bpm, fun off hoff => (h'.rd off hoff).trans (h.rd off hoff)⟩

end SamePool

/-- The registers that follow a queue are none of the pool's. -/
theorem samePool_onQue {f : QueueSt → QueueSt} : SamePool s (onQue q f s) where
  bpm := by
    obtain ⟨_, h⟩ := setQue_eq q (f (s.que q)) s
    rw [onQue, h]
  rd off hoff := by
    simp only [R.bpmCmd] at hoff
    exact setQue_rd (by simp only [R.qFbStat]; omega) fun n _ => by simp only [R.qPortDepth]; omega

/-! ### The judgement of a packet -/

/-- From `s` to `t` a packet has been judged: only the policers, the counters of the queue engine and the free value drawn
differ. -/
structure Judges (s t : State) : Prop where
  eq : ∃ regs freeCtr policers, t = { s with regs := regs, freeCtr := freeCtr, q := { s.q with policers := policers } }
  rd : ∀ off < R.qDevCtr 0, t.rd off = s.rd off

namespace Judges

theorem refl : Judges s s := ⟨⟨_, _, _, rfl⟩, fun _ _ => rfl⟩

theorem trans (h : Judges s t) (h' : Judges t u) : Judges s u := by
  obtain ⟨⟨_, _, _, rfl⟩, hrd⟩ := h
  obtain ⟨⟨_, _, _, rfl⟩, hrd'⟩ := h'
  exact ⟨⟨_, _, _, rfl⟩, fun off hoff => (hrd' off hoff).trans (hrd off hoff)⟩

theorem que (h : Judges s t) : t.que q = s.que q := by
  obtain ⟨_, _, _, rfl⟩ := h.eq
  rfl

theorem samePool (h : Judges s t) : SamePool s t where
  bpm := by
    obtain ⟨_, _, _, rfl⟩ := h.eq
    rfl
  rd off hoff := h.rd off (by simp only [R.bpmCmd, R.qDevCtr] at hoff ⊢; omega)

theorem fld (h : Judges s t) {off : Nat} {f : Fld} (hoff : off < R.qDevCtr 0) : t.fld off f = s.fld off f :=
  congrArg (getF · f) (h.rd off hoff)

theorem portWidth (h : Judges s t) {n : Nat} (hn : n < 96) : t.portWidth n = s.portWidth n := by
  have hreg : R.lineOctetCfg (n / 8) < R.qDevCtr 0 := by simp only [R.lineOctetCfg, R.qDevCtr]; omega
  rw [State.portWidth, State.portWidth, State.laneMode, State.laneMode, h.fld hreg]

theorem queueExists (h : Judges s t) : t.queueExists q = s.queueExists q := by
  have hport (b : Nat) : t.blockPort b = s.blockPort b := by
    refine List.find?_congr fun n hn => ?_
    simp only [State.portExists, h.portWidth (List.mem_range.1 hn)]
  simp only [State.queueExists, State.queuePort, hport]

theorem admits (h : Judges s t) {k : QueueSt} {c : Nat} : t.admits k len c = s.admits k len c := by
  have hshift : t.colourShift c = s.colourShift c := by
    unfold State.colourShift
    split
    · rfl
    · exact h.fld (by decide)
    · exact h.fld (by decide)
  have hlimit : t.threshold k c = s.threshold k c := by
    rw [State.threshold, State.threshold, h.samePool.sharedFree (by decide), hshift]
  rw [State.admits, State.admits, State.flag, State.flag, h.fld (by decide), h.fld (by decide), h.fld (by decide), hlimit, hshift]

end Judges

theorem judges_inc (i : Nat) : Judges s (s.inc (R.qDevCtr i)) :=
  ⟨⟨_, _, _, rfl⟩, fun off hoff => State.rd_inc_ne _ (by simp only [R.qDevCtr] at hoff ⊢; omega)⟩

theorem judges_setPolicer {i : Nat} {k : PolicerSt} : Judges s (setPolicer i k s) := ⟨⟨_, _, _, rfl⟩, fun _ _ => rfl⟩

theorem judges_police (md : Bytes) (len : Nat) (s : State) : Judges s (police md len s).1 := by
  unfold police
  extract_lets i k fl
  split
  · exact .refl
  · split
    · exact judges_inc 12
    · split
      · exact .refl
      · generalize k.judge (nbit fl 1) (mdF md Md.colour) len = v
        obtain ⟨c, k'⟩ := v
        have hcount : Judges s ((setPolicer i k' s).inc (R.qDevCtr (9 + c))) := judges_setPolicer.trans (judges_inc _)
        dsimp only
        split
        · exact hcount.trans (judges_inc 12)
        · exact hcount

theorem judges_ecnMark (q : Nat) (md : Bytes) (s : State) : Judges s (ecnMark q md s).1 := by
  have hdraw : Judges s { s with freeCtr := s.freeCtr + 1 } := ⟨⟨_, _, _, rfl⟩, fun _ _ => rfl⟩
  unfold ecnMark
  dsimp only
  split
  · exact .refl
  · split
    · exact hdraw
    · split
      · exact hdraw.trans (judges_inc 3)
      · split
        · exact hdraw.trans (judges_inc 4)
        · exact hdraw

/-! ### Pages of a packet and its place in the store -/

/-- From `s` to `t` a packet takes pages or a place in the store: the queues stand. -/
def Shelves (s t : State) : Prop := ∃ regs host outs bpm stored pfcHeld, t = { s with
  regs := regs, host := host, outs := outs, bpm := bpm, q := { s.q with stored := stored, pfcHeld := pfcHeld } }

theorem Shelves.refl : Shelves s s := ⟨_, _, _, _, _, _, rfl⟩

theorem Shelves.trans (h : Shelves s t) (h' : Shelves t u) : Shelves s u := by
  obtain ⟨_, _, _, _, _, _, rfl⟩ := h
  obtain ⟨_, _, _, _, _, _, rfl⟩ := h'
  exact ⟨_, _, _, _, _, _, rfl⟩

theorem Signals.shelves (h : Signals s t) : Shelves s t := by
  obtain ⟨_, _, _, rfl⟩ := h
  exact ⟨_, _, _, _, _, _, rfl⟩

theorem Shelves.doIf {f : State → State} (hf : ∀ s, Shelves s (f s)) (c : Bool) : Shelves s (doIf c f s) := by
  cases c
  · exact .refl
  · exact hf s

theorem Shelves.que (h : Shelves s t) : t.que q = s.que q := by
  obtain ⟨_, _, _, _, _, _, rfl⟩ := h
  rfl

theorem shelves_setPage {x : PageSt} : Shelves s (setPage pool page x s) := ⟨_, _, _, _, _, _, rfl⟩

theorem shelves_setStore : Shelves s (setStore id k s) := ⟨_, _, _, _, _, _, rfl⟩

theorem shelves_addPfc {x : Option (Nat × Nat)} {add sub : Nat} : Shelves s (addPfc x add sub s) := by
  cases x <;> exact ⟨_, _, _, _, _, _, rfl⟩

theorem shelves_turnStack : Shelves s (turnStack pool page s) := .doIf (fun _ => ⟨_, _, _, _, _, _, rfl⟩) _

theorem shelves_linkPage : Shelves s (linkPage pool head page s) := by
  unfold linkPage
  dsimp only
  split
  · exact shelves_setPage
  · exact .refl

theorem signals_addUsed : Signals s (addUsed r pool page s) := by
  unfold addUsed
  exact (signals_setFld (s := s) ..).trans (.doIf (fun _ => signals_setFld ..) _)

theorem shelves_takePage : Shelves s (takePage r pool page s) :=
  shelves_setPage.trans ((signals_addUsed.trans (signals_inc _)).trans signals_bpmRefresh).shelves

/-- A first page that is granted: the page is taken, with the rotation turned. -/
theorem grantPage_first (hq : s.quotaAllows r pool = true) (hp : s.pageFor pool none = some page) :
    grantPage r pool none s = (takePage r pool page (turnStack pool page s), some page) := by
  simp only [grantPage, hq, hp]
  rfl

/-- A page for a packet's body is refused, or is taken with the chain's last record linked to it. -/
theorem grantPage_body_cases (r pool head : Nat) (s : State) :
    (grantPage r pool (some head) s).1 = s.inc (R.bpmReqCtr r 2) ∨
      ∃ page, (grantPage r pool (some head) s).1 = takePage r pool page (linkPage pool head page s) := by
  unfold grantPage
  split
  · exact .inr ⟨_, rfl⟩
  · exact .inl rfl

theorem shelves_grantPage_body : Shelves s (grantPage r pool (some head) s).1 := by
  rcases grantPage_body_cases r pool head s with h | ⟨page, h⟩ <;> rw [h]
  · exact (signals_inc _).shelves
  · exact shelves_linkPage.trans shelves_takePage

theorem bodyPages_induct {I : State → Prop} (hstep : ∀ s, I s → I (grantPage r pool (some head) s).1) (n got : Nat)
    (h : I s) : I (bodyPages r pool head n got s).1 := by
  induction n generalizing got s with
  | zero => exact h
  | succ n ih =>
    have hg := hstep s h
    unfold bodyPages
    split
    · next e => rw [e] at hg; exact ih _ hg
    · next e => rw [e] at hg; exact hg

theorem takeBody_induct {I : State → Prop} (hk : s.store id = some k)
    (hpage : ∀ s, I s → I (grantPage k.req k.pool (some k.head) s).1) (hstore : ∀ j s, I s → I (setStore id j s))
    (h : I s) : I (takeBody id s) := by
  have hpages (n : Nat) : I (bodyPages k.req k.pool k.head n 0 s).1 := bodyPages_induct hpage n 0 h
  unfold takeBody
  rw [hk]
  dsimp only
  split
  · next k' p hk' hp =>
    cases hk'
    split
    · exact h
    · generalize hb : bodyPages k.req k.pool k.head _ 0 s = b
      have hi := hpages (ceilDiv (s.here id p) (pageBytes k.pool) - k.pages)
      rw [hb] at hi
      cases b.2.2
      · exact hstore _ _ (hstore _ _ hi)
      · exact hstore _ _ hi
  · exact h

theorem shelves_takeBody : Shelves s (takeBody id s) := by
  cases hk : s.store id with
  | none =>
    unfold takeBody
    rw [hk]
    exact .refl
  | some k =>
    exact takeBody_induct (I := Shelves s) hk (fun _ h => h.trans shelves_grantPage_body) (fun _ _ h => h.trans shelves_setStore)
      .refl

theorem shelves_storePkt {n : Nat} {p : Packet} : Shelves s (storePkt id r pool head len n p md s) :=
  shelves_setStore.trans shelves_addPfc

theorem addPfc_bpm {x : Option (Nat × Nat)} {add sub : Nat} : (addPfc x add sub s).bpm = s.bpm := by
  cases x <;> rfl

theorem addPfc_store {x : Option (Nat × Nat)} {add sub : Nat} : (addPfc x add sub s).store id = s.store id := by
  cases x <;> rfl

theorem setStore_store_same : (setStore id k s).store id = some k := smapFind_insert_same

/-! ### Whose page it is -/

/-- The page is in use, and its record names requester `r`. -/
def State.pageOf (s : State) (r pool page : Nat) : Prop := ∃ w, s.page pool page = some (.used w) ∧ recOwner w = r

theorem pageOf_congr (h : t.bpm = s.bpm) (hs : s.pageOf r pool page) : t.pageOf r pool page := by
  obtain ⟨w, hw, hr⟩ := hs
  exact ⟨w, (page_congr h).trans hw, hr⟩

theorem recOwner_newRec (hr : r < 23) : recOwner (newRec r) = r := by
  rw [recOwner, newRec, setBit, getF_setF_ne _ _ _ _ (by decide) (by decide) (by decide), getF_setF _ _ _ (by decide)]
  exact Nat.mod_eq_of_lt (Nat.lt_trans hr (by decide))

theorem takePage_pageOf (hr : r < 23) : (takePage r pool page s).pageOf r pool page :=
  ⟨_, takePage_page_same, recOwner_newRec hr⟩

theorem page_of_record {w : Word} (h : s.record pool page = some w) : s.page pool page = some (.used w) := by
  unfold State.record at h
  cases hp : s.page pool page with
  | none => rw [hp] at h; cases h
  | some y =>
    rw [hp] at h
    cases y <;> cases h
    rfl

/-- A record that is linked on keeps its owner. -/
theorem pageOf_linkPage (h : s.pageOf r pool page) : (linkPage pool head x s).pageOf r pool page := by
  unfold linkPage
  dsimp only
  split
  · next w hw =>
    by_cases hl : page = s.lastPage pool s.bpm.pages.length head
    · obtain ⟨w', hw', hr⟩ := h
      rw [← hl] at hw ⊢
      cases hw'.symm.trans (page_of_record hw)
      refine ⟨_, setPage_page_same _, ?_⟩
      rw [recOwner, setBit, getF_setF_ne _ _ _ _ (by decide) (by decide) (by decide),
        getF_setF_ne _ _ _ _ (by decide) (by decide) (by decide)]
      exact hr
    · obtain ⟨w', hw', hr⟩ := h
      exact ⟨w', (setPage_page_ne _ hl).trans hw', hr⟩
  · exact h

theorem pageOf_takePage (hr : r < 23) (h : s.pageOf r pool page) : (takePage r pool x s).pageOf r pool page := by
  by_cases hx : page = x
  · rw [hx]
    exact takePage_pageOf hr
  · obtain ⟨w, hw, ho⟩ := h
    exact ⟨w, (takePage_page_ne hx).trans hw, ho⟩

/-- The pages that a packet's body takes leave its own pages its own. -/
theorem pageOf_takeBody (hk : s.store id = some k) (hr : k.req < 23) (h : s.pageOf k.req k.pool page) :
    (takeBody id s).pageOf k.req k.pool page := by
  refine takeBody_induct (I := fun u => u.pageOf k.req k.pool page) hk (fun u hu => ?_) (fun _ _ hu => hu) h
  rcases grantPage_body_cases k.req k.pool k.head u with he | ⟨x, he⟩ <;> rw [he]
  · exact hu
  · exact pageOf_takePage hr (pageOf_linkPage hu)

/-! ### A VOQ tells its state, an entry joins a queue -/

theorem requeues_onQue {f : QueueSt → QueueSt} : Requeues s (onQue q f s) := requeues_setQue

theorem requeues_inc (off : Nat) : Requeues s (s.inc off) := ⟨_, _, _, _, _, rfl⟩

theorem requeues_sendRequest : Requeues s (sendRequest q s) :=
  ((requeues_inc _).trans requeues_onQue).trans (requeues_sendCredit _ _)

theorem sendRequest_que_same : (sendRequest q s).que q = { s.que q with reqAt := s.now } :=
  (sendCredit_que _ _).trans setQue_que_same

theorem sendRequest_que_ne (h : x ≠ q) : (sendRequest q s).que x = s.que x :=
  (sendCredit_que _ _).trans (setQue_que_ne h)

theorem requeues_voqState : Requeues s (voqState q s) := by
  unfold voqState
  dsimp only
  split
  · exact requeues_setQue.trans requeues_sendRequest
  · exact .refl

/-- Only what a VOQ last told changes in it. -/
theorem voqState_que_same : ∃ reqAt active, (voqState q s).que q = { s.que q with reqAt := reqAt, active := active } := by
  unfold voqState
  dsimp only
  split
  · rw [sendRequest_que_same, setQue_que_same]
    exact ⟨_, _, rfl⟩
  · exact ⟨_, _, rfl⟩

theorem voqState_que_ne (h : x ≠ q) : (voqState q s).que x = s.que x := by
  unfold voqState
  dsimp only
  split
  · rw [sendRequest_que_ne h, setQue_que_ne h]
  · rfl

theorem requeues_pushEnt : Requeues s (pushEnt q id len pool md s) :=
  ((requeues_inc _).trans requeues_onQue).trans requeues_voqState

theorem pushEnt_que_same : ((pushEnt q id len pool md s).que q).ents =
      (s.que q).ents ++ [{ pkt := id, len := len, at_ := s.now, md := md }] ∧
    ((pushEnt q id len pool md s).que q).depth = (s.que q).depth := by
  unfold pushEnt
  obtain ⟨_, _, h⟩ := voqState_que_same (q := q) (s := onQue q (fun k => { k with
    ents := k.ents ++ [{ pkt := id, len := len, at_ := s.now, md := md }],
    ondie := if pool = 1 then k.ondie + len else k.ondie }) (s.inc (R.qDevCtr 0)))
  rw [h, onQue, setQue_que_same]
  exact ⟨rfl, rfl⟩

theorem pushEnt_que_ne (h : x ≠ q) : (pushEnt q id len pool md s).que x = s.que x :=
  (voqState_que_ne h).trans (setQue_que_ne h)

end Sys2Proof.Machine
end

section
/-! SUPPORT. O17: an arrival is policed, marked, replicated or recirculated, and joins its queue (R228 to R241, R256). -/

namespace Sys2Proof.Machine

variable {s t u u1 u2 : State} {r q id head len : Nat} {l : List Nat} {p : Packet} {md m1 m2 : Bytes}

/-! ### The arrival and its policer -/

/-- The packet at the front of a requester's arrivals is taken off the bridge. -/
abbrev takeArrival (r id : Nat) (l : List Nat) (s : State) : State :=
  offBridge 0 id { s with q := { s.q with arrivals := smapPut (fun _ => []) r l s.q.arrivals } }

theorem exec_queueArrival (hr : r < 23) (ha : smapGet (fun _ => []) r s.q.arrivals = id :: l) (hp : s.pkt id = some p)
    (hplace : p.place = .bridge) (hc : s.crossed 0 id = true) :
    exec (.queueArrival r) s = .next (handleArrival r id p (takeArrival r id l s)) := by
  have hp' : (takeArrival r id l s).pkt id = some p := hp
  refine (guardWf_of (decide_eq_true hr)).trans (congrArg _ ?_)
  simp only [queueArrival, ha, hc, hp', hplace, beq_self_eq_true, if_true]

/-- Step 2 of R229: only what came from the ports is policed. -/
def judged (r : Nat) (md : Bytes) (len : Nat) (s : State) : State × Option Bytes :=
  if r < 16 then police md len s else (s, some md)

theorem judges_judged (h : judged r md len s = (t, some m1)) : Judges s t := by
  have hj : Judges s (judged r md len s).1 := by
    unfold judged
    split
    · exact judges_police md len s
    · exact .refl
  rwa [h] at hj

theorem police_of_judged (hr : ¬16 ≤ r) (h : judged r md len s = (t, some m1)) : police md len s = (t, some m1) := by
  rwa [judged, if_pos (Nat.lt_of_not_le hr)] at h

theorem eq_of_judged (hr : 16 ≤ r) (h : judged r md len s = (t, some m1)) : t = s ∧ m1 = md := by
  rw [judged, if_neg (Nat.not_lt.2 hr)] at h
  cases h
  exact ⟨rfl, rfl⟩

theorem handleArrival_one (h : r = 16 ∧ mdF p.md Md.mc = 0 ∨
      r ≠ 16 ∧ (mdF p.md Md.target = 1 ∨ mdF p.md Md.target = 0 ∧ mdF p.md Md.mc = 0)) :
    handleArrival r id p s = policedUnicast r id (s.targetQueue (r == 16) p.md) (s.admitLen p.md) p p.md s := by
  unfold handleArrival
  rcases h with ⟨hr, hmc⟩ | ⟨hr, ht | ⟨ht, hmc⟩⟩
  · simp [hr, hmc]
  · simp [hr, ht]
  · simp [ht, hmc]

theorem handleArrival_recirc (hr : r ≠ 16) (ht : mdF p.md Md.target = 2)
    (h : judged r p.md (s.admitLen p.md) s = (t, some m1)) :
    handleArrival r id p s = recircEnqueue r id (s.admitLen p.md) p m1 t := by
  by_cases h16 : 16 ≤ r
  · obtain ⟨rfl, rfl⟩ := eq_of_judged h16 h
    simp [handleArrival, hr, ht, h16]
  · simp [handleArrival, hr, ht, h16, police_of_judged h16 h]

theorem handleArrival_group (hmc : mdF p.md Md.mc = 1) (hr : r = 16 ∨ mdF p.md Md.target = 0)
    (h : judged r p.md (s.admitLen p.md) s = (t, some m1)) :
    handleArrival r id p s = multicast r id (s.admitLen p.md) (r == 16) p m1 t := by
  have hfabric (n : Nat) (hn : n ≠ 0) : (!(r == 16) && mdF p.md Md.target == n) = false := by
    rcases hr with hr | ht
    · simp [hr]
    · simp [ht, hn.symm]
  have hgroup : (mdF p.md Md.mc == 1 && (r == 16 || mdF p.md Md.target == 0)) = true := by
    rcases hr with hr | ht
    · simp [hmc, hr]
    · simp [hmc, ht]
  by_cases h16 : 16 ≤ r
  · obtain ⟨rfl, rfl⟩ := eq_of_judged h16 h
    simp [handleArrival, hfabric, hgroup, h16]
  · simp [handleArrival, hfabric, hgroup, h16, police_of_judged h16 h]

/-! ### One packet for one queue -/

theorem policedUnicast_dropped (hex : s.queueExists q = true) (hen : (s.que q).en = true) (hr : r < 16)
    (h : police md len s = (t, none)) : policedUnicast r id q len p md s = refusePkt id (countDrop q t) := by
  simp [policedUnicast, hex, hen, hr, h]

theorem policedUnicast_judged (hex : s.queueExists q = true) (hen : (s.que q).en = true)
    (h : judged r md len s = (t, some m1)) : policedUnicast r id q len p md s = unicast r id q len p m1 t := by
  by_cases h16 : 16 ≤ r
  · obtain ⟨rfl, rfl⟩ := eq_of_judged h16 h
    simp [policedUnicast, h16]
  · simp [policedUnicast, hex, hen, h16, police_of_judged h16 h]

theorem unicast_dropped (hex : s.queueExists q = true) (hen : (s.que q).en = true)
    (ha : s.admits (s.que q) len (mdF md Md.colour) = true) (h : ecnMark q md s = (t, none)) :
    unicast r id q len p md s = refusePkt id (countDrop q t) := by
  simp [unicast, tryQueue, admitStep, hex, hen, ha, h]

/-- The depth of a queue rises by a packet admitted to it. -/
abbrev deepen (q len : Nat) (s : State) : State := onQue q (fun k => { k with depth := k.depth + len }) s

theorem unicast_admitted (hex : s.queueExists q = true) (hen : (s.que q).en = true)
    (ha : s.admits (s.que q) len (mdF md Md.colour) = true) (h : ecnMark q md s = (t, some m1)) :
    unicast r id q len p md s = enqueueOne false r id q len p m1 (deepen q len t) := by
  simp [unicast, tryQueue, admitStep, hex, hen, ha, h]

/-- An entry has joined the tail of a queue, with a first page of its requester. -/
structure Joins (s t : State) (r q pool head : Nat) (e : QEnt) : Prop where
  ents     : (t.que q).ents = (s.que q).ents ++ [e]
  depth    : (t.que q).depth = (s.que q).depth
  others   : ∀ x, x ≠ q → t.que x = s.que x
  page     : t.pageOf r pool head
  arrivals : t.q.arrivals = s.q.arrivals

theorem storePkt_store {n pool : Nat} : ∃ k, (storePkt id r pool head len n p md s).store id = some k ∧ k.req = r ∧
    k.pool = pool := ⟨_, addPfc_store.trans setStore_store_same, rfl, rfl⟩

theorem storePkt_bpm {n pool : Nat} : (storePkt id r pool head len n p md s).bpm = s.bpm := by
  rw [storePkt, addPfc_bpm, setStore]

theorem Shelves.arrivals (h : Shelves s t) : t.q.arrivals = s.q.arrivals := by
  obtain ⟨_, _, _, _, _, _, rfl⟩ := h
  rfl

theorem Shelves.recirc (h : Shelves s t) : t.q.recirc = s.q.recirc := by
  obtain ⟨_, _, _, _, _, _, rfl⟩ := h
  rfl

theorem Shelves.now (h : Shelves s t) : t.now = s.now := by
  obtain ⟨_, _, _, _, _, _, rfl⟩ := h
  rfl

/-- What joining a queue does not touch: the pages, the store and the arrivals. -/
theorem Requeues.stands (h : Requeues s t) : t.bpm = s.bpm ∧ t.store id = s.store id ∧ t.q.arrivals = s.q.arrivals := by
  obtain ⟨_, _, _, _, _, rfl⟩ := h
  exact ⟨rfl, rfl, rfl⟩

/-- A packet in the store, with its first page, joins its queue; its body takes the pages still wanting. -/
theorem joins_pushEnt {k : Stored} (hv : Shelves s t) (hpage : t.pageOf k.req k.pool head) (hk : t.store id = some k)
    (hr : k.req < 23) : Joins s (takeBody id (pushEnt q id len k.pool md t)) k.req q k.pool head
      { pkt := id, len := len, at_ := s.now, md := md } := by
  obtain ⟨hbpm, hstore, harr⟩ :=
    (requeues_pushEnt (s := t) (q := q) (id := id) (len := len) (pool := k.pool) (md := md)).stands (id := id)
  obtain ⟨hents, hdepth⟩ := pushEnt_que_same (s := t) (q := q) (id := id) (len := len) (pool := k.pool) (md := md)
  refine ⟨?_, ?_, fun x hx => ?_, pageOf_takeBody (hstore.trans hk) hr (pageOf_congr hbpm hpage), ?_⟩
  · rw [shelves_takeBody.que, hents, hv.que, hv.now]
  · rw [shelves_takeBody.que, hdepth, hv.que]
  · rw [shelves_takeBody.que, pushEnt_que_ne hx, hv.que]
  · rw [shelves_takeBody.arrivals, harr, hv.arrivals]

/-- The packet takes its first page and its place in the store. -/
abbrev shelve (id r pool head len : Nat) (p : Packet) (md : Bytes) (s : State) : State :=
  storePkt id r pool head len 1 p md (takePage r pool head (turnStack pool head s))

theorem shelves_shelve {pool : Nat} : Shelves s (shelve id r pool head len p md s) :=
  (shelves_turnStack.trans shelves_takePage).trans shelves_storePkt

theorem shelve_pageOf {pool : Nat} (hr : r < 23) : (shelve id r pool head len p md s).pageOf r pool head :=
  pageOf_congr storePkt_bpm (takePage_pageOf hr)

theorem enqueueOne_granted (hq : s.quotaAllows r (s.poolFor q len) = true)
    (hp : s.pageFor (s.poolFor q len) none = some head) : enqueueOne false r id q len p md s =
      takeBody id (pushEnt q id len (s.poolFor q len) md (shelve id r (s.poolFor q len) head len p md s)) := by
  simp only [enqueueOne, grantPage_first hq hp, doIf_false]

theorem enqueueOne_joins (hr : r < 23) (hq : s.quotaAllows r (s.poolFor q len) = true)
    (hp : s.pageFor (s.poolFor q len) none = some head) : Joins s (enqueueOne false r id q len p md s) r q
      (s.poolFor q len) head { pkt := id, len := len, at_ := s.now, md := md } := by
  rw [enqueueOne_granted hq hp]
  obtain ⟨k, hk, hreq, hpool⟩ := storePkt_store (id := id) (r := r) (pool := s.poolFor q len) (head := head) (len := len) (n := 1)
    (p := p) (md := md) (s := takePage r (s.poolFor q len) head (turnStack (s.poolFor q len) head s))
  have hpage : (shelve id r (s.poolFor q len) head len p md s).pageOf k.req k.pool head := by
    rw [hreq, hpool]
    exact shelve_pageOf hr
  have hj := joins_pushEnt (q := q) (len := len) (md := md) shelves_shelve hpage hk (hreq.trans_lt hr)
  rwa [hreq, hpool] at hj

theorem poolFor_lt : s.poolFor q len < 2 := by
  unfold State.poolFor
  dsimp only
  split <;> decide

theorem deepen_que : (deepen q len s).que q = { s.que q with depth := (s.que q).depth + len } := setQue_que_same

theorem deepen_poolFor : (deepen q len s).poolFor q len = s.poolFor q len := by
  rw [State.poolFor, State.poolFor, deepen_que]

theorem Judges.poolFor (h : Judges s t) : t.poolFor q len = s.poolFor q len := by
  rw [State.poolFor, State.poolFor, h.que]

theorem Requeues.now (h : Requeues s t) : t.now = s.now := by
  obtain ⟨_, _, _, _, _, rfl⟩ := h
  rfl

theorem Judges.stands (h : Judges s t) : t.now = s.now ∧ t.q.arrivals = s.q.arrivals ∧ t.q.recirc = s.q.recirc := by
  obtain ⟨_, _, _, rfl⟩ := h.eq
  exact ⟨rfl, rfl, rfl⟩

/-! ### Recirculation -/

/-- The packet takes its first page at the charge of requester 22, and its place in the store. -/
def shelveRecirc (r id head len : Nat) (p : Packet) (md : Bytes) (s : State) : State :=
  addPfc (pfcOf r p md) len 0 (setStore id
    { bytes := [], tailIn := false, stomp := false, cut := false, req := 22, pool := 0, head := head, pages := 1,
      pfc := pfcOf r p md, acct := len, copies := 1, hatch := p.hatch, stamp := p.stamp, port := p.port }
    (takePage 22 0 head (turnStack 0 head s)))

/-- An entry joins the recirculation queue. -/
def pushRecirc (id len : Nat) (md : Bytes) (s : State) : State :=
  { s.inc (R.qDevCtr 0) with q := { s.q with recirc := s.q.recirc ++ [{ pkt := id, len := len, at_ := s.now, md := md }] } }

theorem shelves_shelveRecirc : Shelves s (shelveRecirc r id head len p md s) :=
  ((shelves_turnStack.trans shelves_takePage).trans shelves_setStore).trans shelves_addPfc

theorem shelveRecirc_bpm : (shelveRecirc r id head len p md s).bpm = (takePage 22 0 head (turnStack 0 head s)).bpm := by
  rw [shelveRecirc, addPfc_bpm, setStore]

theorem shelveRecirc_store :
    ∃ k, (shelveRecirc r id head len p md s).store id = some k ∧ k.req = 22 ∧ k.pool = 0 :=
  ⟨_, addPfc_store.trans setStore_store_same, rfl, rfl⟩

theorem recircEnqueue_granted (hroom : s.recircDepth + len ≤ s.fld R.qRecircCfg F.qRecircCfgLimit)
    (hq : s.quotaAllows 22 0 = true) (hp : s.pageFor 0 none = some head) :
    recircEnqueue r id len p md s = takeBody id (pushRecirc id len md (shelveRecirc r id head len p md s)) := by
  simp only [recircEnqueue, Nat.not_lt.2 hroom, grantPage_first hq hp, if_false]
  rfl

theorem recircEnqueue_joins (hroom : s.recircDepth + len ≤ s.fld R.qRecircCfg F.qRecircCfgLimit)
    (hq : s.quotaAllows 22 0 = true) (hp : s.pageFor 0 none = some head) :
    (recircEnqueue r id len p md s).q.recirc = s.q.recirc ++ [{ pkt := id, len := len, at_ := s.now, md := md }] ∧
    (recircEnqueue r id len p md s).pageOf 22 0 head := by
  rw [recircEnqueue_granted hroom hq hp]
  constructor
  · rw [shelves_takeBody.recirc, pushRecirc, shelves_shelveRecirc.recirc, shelves_shelveRecirc.now]
  · obtain ⟨k, hk, hreq, hpool⟩ := shelveRecirc_store (r := r) (id := id) (head := head) (len := len) (p := p) (md := md) (s := s)
    have hpage : (pushRecirc id len md (shelveRecirc r id head len p md s)).pageOf k.req k.pool head := by
      rw [hreq, hpool]
      exact pageOf_congr shelveRecirc_bpm (takePage_pageOf (by decide))
    have hj := pageOf_takeBody (s := pushRecirc id len md (shelveRecirc r id head len p md s)) hk (hreq.trans_lt (by decide)) hpage
    rwa [hreq, hpool] at hj

/-! ### Replication -/

theorem multicast_invalid (h : s.mcCopies (r == 16) md = none) :
    multicast r id len (r == 16) p md s = refusePkt id (s.inc (R.qDevCtr 1)) := by
  simp only [multicast, h]

theorem multicast_valid {c : List (Option (Nat × Bytes))} (h : s.mcCopies (r == 16) md = some c) :
    multicast r id len (r == 16) p md s = storeCopies r id len p (judgeCopies len c s).2 (judgeCopies len c s).1 := by
  simp only [multicast, h]

/-! ### The statement -/

/-- The packet that the judgement admits, in the terms of the state before its arrival. -/
theorem unicast_joins (hr : r < 23) (hu : Judges u u2) (hq : u.quotaAllows r (u.poolFor q len) = true)
    (hp : u.pageFor (u.poolFor q len) none = some head) :
    let t := enqueueOne false r id q len p md (deepen q len u2)
    (t.que q).ents = (u.que q).ents ++ [{ pkt := id, len := len, at_ := u.now, md := md }] ∧
      (t.que q).depth = (u.que q).depth + len ∧ (∀ x, x ≠ q → t.que x = u.que x) ∧
      t.pageOf r (u.poolFor q len) head ∧ t.q.arrivals = u.q.arrivals := by
  intro t
  have hpool : (deepen q len u2).poolFor q len = u.poolFor q len := deepen_poolFor.trans hu.poolFor
  have hsame : SamePool u (deepen q len u2) := hu.samePool.trans samePool_onQue
  obtain ⟨hnow, harr, -⟩ := hu.stands
  obtain ⟨hents, hdepth, hothers, hpage, harrivals⟩ := enqueueOne_joins (s := deepen q len u2) (id := id) (p := p) (md := md)
    (head := head) hr (by rw [hpool, hsame.quotaAllows hr poolFor_lt]; exact hq) (by rw [hpool, hsame.pageFor]; exact hp)
  have hdeep : (deepen q len u2).now = u.now ∧ (deepen q len u2).q.arrivals = u.q.arrivals :=
    ⟨requeues_onQue.now.trans hnow, (requeues_onQue.stands (id := id)).2.2.trans harr⟩
  refine ⟨?_, ?_, fun x hx => ?_, hpool ▸ hpage, harrivals.trans hdeep.2⟩
  · rw [hents, deepen_que, hdeep.1, hu.que]
  · rw [hdepth, deepen_que, hu.que]
  · rw [hothers x hx, deepen, onQue, setQue_que_ne hx, hu.que]

theorem Judges.recircDepth (h : Judges s t) : t.recircDepth = s.recircDepth := by
  rw [State.recircDepth, State.recircDepth, h.stands.2.2]

/-- Settles O17: the handling of an arrival takes one branch for each kind of target, and neither the policer nor the curve
touches what its pages and its queue are judged by. -/
theorem unicastArrivalIsQueued : Obligations.UnicastArrivalIsQueued := by
  intro s r id l k u1 m1 hr ha hp hplace hc u target q len one group
  have hexec : exec (.queueArrival r) s = .next (handleArrival r id k u) := exec_queueArrival hr ha hp hplace hc
  rw [hexec]
  refine ⟨fun hone hex hen => ?one, fun hfab htarget hj hroom hq head hpage => ?recirc, fun hgroup hj => ?group⟩
  case one =>
    have hex' : u.queueExists q = true := hex
    have hen' : (u.que q).en = true := hen
    have hunicast : handleArrival r id k u = policedUnicast r id q len k k.md u := handleArrival_one hone
    rw [hunicast]
    refine ⟨fun h16 hpol => congrArg _ (policedUnicast_dropped hex' hen' h16 hpol), fun hj hadm => ?_⟩
    have hju : Judges u u1 := judges_judged (r := r) hj
    have hex1 : u1.queueExists q = true := hju.queueExists.trans hex
    have hen1 : (u1.que q).en = true := by rw [hju.que]; exact hen
    have hadm1 : u1.admits (u1.que q) len (mdF m1 Md.colour) = true := by rw [hju.que, hju.admits]; exact hadm
    rw [policedUnicast_judged hex' hen' hj]
    refine ⟨fun u2 hm => congrArg _ (unicast_dropped hex1 hen1 hadm1 hm), fun u2 m2 head hm hq hpage => ?_⟩
    rw [unicast_admitted hex1 hen1 hadm1 hm]
    have hju2 : Judges u u2 := hju.trans (by have hmark := judges_ecnMark q m1 u1; rwa [hm] at hmark)
    obtain ⟨hents, hdepth, hothers, hown, harr⟩ := unicast_joins (id := id) (p := k) (md := m2) hr hju2 hq hpage
    exact ⟨_, rfl, hents, hdepth, hothers, hown, (congrArg (smapGet (fun _ => []) r) harr).trans smapGet_put_same⟩
  case recirc =>
    have hju : Judges u u1 := judges_judged (r := r) hj
    have hroom' : u1.recircDepth + len ≤ u1.fld R.qRecircCfg F.qRecircCfgLimit := by
      rw [hju.recircDepth, hju.fld (by decide)]
      exact hroom
    have hq' : u1.quotaAllows 22 0 = true := (hju.samePool.quotaAllows (by decide) (by decide)).trans hq
    obtain ⟨hnow, -, hrecirc⟩ := hju.stands
    rw [handleArrival_recirc hfab htarget hj]
    obtain ⟨hjoined, hown⟩ := recircEnqueue_joins (r := r) (id := id) (p := k) (md := m1) hroom' hq'
      (hju.samePool.pageFor.trans hpage)
    rw [hnow, hrecirc] at hjoined
    exact ⟨_, rfl, hjoined, hown⟩
  case group =>
    obtain ⟨hmc, hto⟩ := hgroup
    rw [handleArrival_group hmc hto hj]
    exact ⟨fun hnone => congrArg _ (multicast_invalid hnone), fun c hc => congrArg _ (multicast_valid hc)⟩

end Sys2Proof.Machine
end

section
/-! SUPPORT. O18: a cut-through packet that runs dry, stored under a head page that lies in no stack. -/

namespace Sys2Proof.Machine

variable {s : State} {r head n id port off : Nat} {k : Stored} {x : Started} {w : Word}

theorem addPfc_rd {c : Option (Nat × Nat)} {add sub : Nat} : (addPfc c add sub s).rd off = s.rd off := by
  cases c <;> rfl

theorem forgetPkt_rd : (forgetPkt id s).rd off = s.rd off := by
  unfold forgetPkt
  split
  · split
    · exact erasePkt_rd off
    · exact setPkt_rd off
  · rfl

/-- With its last reference a stored packet goes; the registers change as its pages are released. -/
theorem dropRef_last_rd (hk : s.store id = some k) (hc : k.copies ≤ 1) :
    (dropRef id s).rd off = (bpmRelease k.req k.pool k.head k.pages s).rd off := by
  simp only [dropRef, hk, hc, if_true]
  exact forgetPkt_rd.trans addPfc_rd

theorem bridgeTail_rd {dir : Nat} {b : Bytes} : (bridgeTail dir id b s).rd off = s.rd off := by
  unfold bridgeTail bridgeRouted setBridge
  dsimp only
  split <;> split <;> rfl

/-- The state that has counted an underrun and streams the packet no longer. -/
abbrev underrunCounted (x : Started) (s : State) : State :=
  { s.inc (R.qDevCtr 8) with q := { s.q with started := s.q.started.filter (fun y => y.pkt != x.pkt) } }

/-- Once an underrun is counted, only the release of the stored packet changes registers. -/
theorem underrun_rd (hx : s.q.started.find? (fun x => x.port == port && (s.storedBytes x.st).length < s.bytesNeeded x) = some x) :
    (underrun port s).rd off = (dropRef x.st (underrunCounted x s)).rd off := by
  unfold underrun
  rw [hx]
  dsimp only
  split
  · exact bridgeTail_rd.trans (setPkt_rd off)
  · rfl

theorem exec_ctUnderrun (hp : port < 96) : exec (.ctUnderrun port) s = .next (underrun port s) :=
  guardWf_of (decide_eq_true hp)

/-- The release of a packet of the HBM pool whose first page reads as on a FAILED stack writes the USED of that stack. -/
theorem bpmRelease_failed_rd (hp : s.page 0 head = some (.used w)) (ho : recOwner w = r) (hs : recShared w = false)
    (hf : s.onFailed 0 head = true) (hlow : 3 < head / 2 ^ 26) (hne : R.bpmStack (head / 2 ^ 26) ≠ R.bpmUsed r 0) :
    (bpmRelease r 0 head n s).rd (R.bpmStack (head / 2 ^ 26)) = setF (s.rd (R.bpmStack (head / 2 ^ 26))) F.bpmStackUsed
      (s.fld (R.bpmStack (head / 2 ^ 26)) F.bpmStackUsed - n) := by
  have hhigh : R.bpmStack 3 < R.bpmStack (head / 2 ^ 26) := by simp only [R.bpmStack]; omega
  have hused (u : State) : (doIf (r < 23) (fun s => s.setFld (R.bpmUsed r 0) F.bpmUsedUsed (s.usedOf r 0 - n)) u).rd
      (R.bpmStack (head / 2 ^ 26)) = u.rd (R.bpmStack (head / 2 ^ 26)) :=
    doIf_rd (fun u => State.rd_setFld_ne u _ _ hne) u
  rw [bpmRelease_unshared (headFind_owned (by decide) hp ho) hs, freeChain_failed hf, bpmRefresh_rd hhigh, dropUsed,
    beq_self_eq_true, doIf_true, State.rd_setFld_same, State.fld, hused, State.fld]

/-- A page number beyond the pool: as a page of a stack it would be counted where DEV_CTR 8 of the queue engine stands. -/
def strayHead : Nat := 134144 * 2 ^ 26

/-- Port 0 has sent a packet that ran dry, and what is stored of it names `strayHead`; DEV_CTR 8 holds 2^32 + 2. -/
def strayDry : State :=
  let s := (State.reset.wr (R.lineOctetCfg 0) (setF 0 F.lineOctetCfgMode 2)).wr (R.qDevCtr 8) 0x100000002
  { s with
    now := 80, pkts := [(8, noPacket)]
    bpm := { s.bpm with pages := [(strayHead, .used (newRec 0))] }
    q := { s.q with
      stored := [(7, { bytes := [], tailIn := false, stomp := false, cut := false, req := 0, pool := 0, head := strayHead,
                       pages := 1, pfc := none, acct := 0, copies := 1, hatch := 0, stamp := 0, port := 0 })]
      started := [{ pkt := 8, st := 7, port := 0, at_ := 0, had := 0 }] } }

theorem strayDry_underrun : strayDry.q.started.find? (fun x => x.port == 0 &&
    (strayDry.storedBytes x.st).length < strayDry.bytesNeeded x) = some { pkt := 8, st := 7, port := 0, at_ := 0, had := 0 } := by
  decide

/-- The stray page reads as one of a FAILED stack, and the release of the packet clears bits 58 to 32 of the counter. -/
theorem strayDry_count : (underrun 0 strayDry).rd (R.qDevCtr 8) = 3 := by
  have hfailed : (underrunCounted ⟨8, 7, 0, 0, 0⟩ strayDry).onFailed 0 strayHead = true := by decide
  have hcounter : R.qDevCtr 8 = R.bpmStack (strayHead / 2 ^ 26) := by decide
  rw [underrun_rd strayDry_underrun, dropRef_last_rd rfl (by decide), hcounter,
    bpmRelease_failed_rd (w := newRec 0) rfl (by decide) (by decide) hfailed (by decide) (by decide)]
  decide

/-- Refutes O18: its clause on an underrun does not say that what is stored lies in the pool. The packet of `strayDry` names
a head page beyond it, and the release of that page writes the very register that counts the underrun. -/
theorem not_packetsMoveThroughTheQueues : ¬ Obligations.PacketsMoveThroughTheQueues := by
  unfold Obligations.PacketsMoveThroughTheQueues
  intro h
  obtain ⟨-, -, -, -, -, hunderrun, -⟩ := h strayDry 0 0 0 0
    { bytes := [], tailIn := false, stomp := false, cut := false, req := 0, pool := 0, head := 0, pages := 0, pfc := none,
      acct := 0, copies := 0, hatch := 0, stamp := 0, port := 0 } noPacket { pkt := 0, len := 0, at_ := 0, md := [] } []
  obtain ⟨t, hexec, hcount, -⟩ := hunderrun _ (by decide) strayDry_underrun (by decide) rfl
  have hmodel : exec (.ctUnderrun 0) strayDry = .next (underrun 0 strayDry) := exec_ctUnderrun (by decide)
  cases Host.Outcome.next.inj (hmodel.symm.trans hexec)
  rw [strayDry_count] at hcount
  exact absurd hcount (by decide)

end Sys2Proof.Machine
end

section
/-! SUPPORT. O51 and O25: a reference period, the framer's boundary and its start. -/

namespace Sys2Proof.Machine

variable {s : State} {n t off : Nat} {v : Vote}

/-! ### A reference period -/

/-- The steward's readings show in no register, and nothing leaves the device with them. -/
theorem smbRefresh_stands : (smbRefresh s).fab = s.fab ∧ (smbRefresh s).regs = s.regs ∧ (smbRefresh s).outs = s.outs := by
  unfold smbRefresh
  split <;> exact ⟨rfl, rfl, rfl⟩

theorem idleTick_before_boot (h : s.bootStateOf = 0) : idleTick s = s := if_pos h

theorem idleTick_after_boot (h : s.bootStateOf ≠ 0) : (idleTick s).fab.ref = s.fab.ref + 1 ∧
    (idleTick s).regs = s.regs ∧ (idleTick s).outs = s.outs := by
  unfold idleTick
  rw [if_neg h]
  obtain ⟨hfab, hregs, houts⟩ := smbRefresh_stands (s := { timeAdvance s with
    fab := { (timeAdvance s).fab with ref := (timeAdvance s).fab.ref + 1 } })
  exact ⟨congrArg FabSt.ref hfab, hregs, houts⟩

theorem step_idle (h : s.pending = []) : step s = .next (idleTick s) := by
  unfold step
  rw [h]

/-- Settles O51: the step on an empty queue is a reference period, which passes once POR_N has risen. -/
theorem idleStepPassesAPeriod : Obligations.IdleStepPassesAPeriod := by
  intro s hpending
  rw [step_idle hpending]
  exact ⟨fun h => congrArg _ (idleTick_before_boot h), fun h => ⟨_, rfl, idleTick_after_boot h⟩⟩

/-! ### The boundary of a multiframe -/

theorem mfPulse_fab : (mfPulse s).fab = s.fab := by
  unfold mfPulse
  split <;> rfl

theorem mfPulse_regs : (mfPulse s).regs = s.regs := by
  unfold mfPulse
  split <;> rfl

theorem digestEnd_fab : (digestEnd n s).fab = s.fab := by
  unfold digestEnd
  split <;> rfl

theorem digestEnd_regs : (digestEnd n s).regs = s.regs := by
  unfold digestEnd
  split <;> rfl

theorem signals_fabIrq : Signals s (fabIrq s) := .doIf (fun _ => signals_raiseBlock ..) _

theorem fabIrq_fab : (fabIrq s).fab = s.fab := by
  obtain ⟨_, _, _, h⟩ := signals_fabIrq (s := s)
  rw [h]

theorem fabIrq_rd (h : R.plateCmd ≤ off) : (fabIrq s).rd off = s.rd off := doIf_rd (raiseBlock_rd (not_intReg_of_ge h)) s

/-- The state in which multiframe `n` begins: the framer counts from its boundary, and the digest of the one before is
taken. -/
def mfBegun (n : Nat) (s : State) : State :=
  digestEnd n (mfPulse { s with fab := { s.fab with mfRef := 16384 + s.fab.mfRef } })

theorem mfBegun_fab : (mfBegun n s).fab = { s.fab with mfRef := 16384 + s.fab.mfRef } := digestEnd_fab.trans mfPulse_fab

theorem mfBegun_regs : (mfBegun n s).regs = s.regs := digestEnd_regs.trans mfPulse_regs

theorem multiframeBoundary_due (h : s.mfDue = true) : multiframeBoundary v s =
    twinBoundary ((s.mfNum + 1) % 2 ^ 32) (calBoundary ((s.mfNum + 1) % 2 ^ 32) v (mfBegun ((s.mfNum + 1) % 2 ^ 32) s)) :=
  if_pos h

theorem exec_multiframeBoundary_due (h : s.mfDue = true) (hv : voteOk v = true) : exec (.multiframeBoundary v) s =
    .next (microBoundary (twinBoundary ((s.mfNum + 1) % 2 ^ 32)
      (calBoundary ((s.mfNum + 1) % 2 ^ 32) v (mfBegun ((s.mfNum + 1) % 2 ^ 32) s)))) := by
  show guardWf (voteOk v) (doIf s.mfDue microBoundary (multiframeBoundary v s)) = _
  rw [hv, h, guardWf_true, doIf_true, multiframeBoundary_due h]

/-! ### The start of the framer -/

/-- The state in which the framer has started at `t`: its lanes and groups begin, it counts from there, and the calendar
has made no release. -/
def framerStarted (t : Nat) (s : State) : State :=
  let r := s.fab.ref - (s.now - t) / 64
  let lanes := s.fab.lanes.map (fun e => (e.1, e.2.fresh 0))
  let groups := s.fab.groups.map (fun e => (e.1, { e.2 with txPar := 0, txAcc := 0, txNum := 0, frame := [] }))
  let fab := { s.fab with startAt := none, run0 := r, mfRef := r, lanes := lanes, groups := groups }
  mfPulse (fabIrq ({ s with fab := fab, cal := { s.cal with relDone := [] } }.setFld R.fabCtl F.fabCtlFramerRun 1))

theorem framerStarted_fab : (framerStarted t s).fab.startAt = none ∧
    (framerStarted t s).fab.mfRef = s.fab.ref - (s.now - t) / 64 ∧
    (framerStarted t s).fab.run0 = (framerStarted t s).fab.mfRef := by
  unfold framerStarted
  dsimp only
  rw [mfPulse_fab, fabIrq_fab]
  exact ⟨rfl, rfl, rfl⟩

theorem framerStarted_rd (h : R.plateCmd ≤ off) : (framerStarted t s).rd off =
    (s.setFld R.fabCtl F.fabCtlFramerRun 1).rd off := by
  have hpulse : ∀ u : State, (mfPulse u).rd off = u.rd off := fun u => congrArg (smapGet regReset off) mfPulse_regs
  exact (hpulse _).trans (fabIrq_rd h)

theorem framerStarted_runs : (framerStarted t s).framerRun = true := by
  rw [State.framerRun, State.flag, State.fld, framerStarted_rd (by decide), State.rd_setFld_same, getF_setF _ _ _ (by decide)]
  rfl

theorem framerStarted_ptpMf : (framerStarted t s).ptpMf t = s.ptpMf t := by
  have hoff : (framerStarted t s).fld R.schedMfOffset F.schedMfOffsetMfOffset =
      s.fld R.schedMfOffset F.schedMfOffsetMfOffset := by
    rw [State.fld, framerStarted_rd (by decide), State.rd_setFld_ne _ _ _ (by decide)]
    rfl
  rw [State.ptpMf, hoff]
  rfl

theorem framerRun_due (hs : s.fab.startAt = some t) (ht : t ≤ s.now) : framerRun s =
    calBoundary ((s.ptpMf t) % (2 ^ 32 : Nat)).toNat .agree (framerStarted t s) := by
  rw [← framerStarted_ptpMf]
  unfold framerRun
  rw [hs]
  exact if_neg (Nat.not_lt.2 ht)

/-- Settles O25: a boundary that is due, and a start whose time has come, each take the one branch of the framer that acts. -/
theorem boundariesComeOnTime : Obligations.BoundariesComeOnTime := by
  intro s
  refine ⟨fun hrun hdue v hv => ?boundary, fun t hs ht => ?start⟩
  case boundary =>
    have hmf : s.mfDue = true := by simp [State.mfDue, hrun, hdue]
    refine ⟨_, exec_multiframeBoundary_due hmf hv, ?_, mfBegun_regs⟩
    rw [mfBegun_fab]
    exact Nat.add_comm ..
  case start =>
    obtain ⟨hstart, href, hrun0⟩ := framerStarted_fab (s := s) (t := t)
    exact ⟨_, congrArg (guardWf true) (framerRun_due hs ht), framerStarted_runs, hstart, href, hrun0⟩

end Sys2Proof.Machine
end

section
/-! SUPPORT. O20 and O21: the calendar's banks, its commands, its images and the arming of a swap. -/

namespace Sys2Proof.Machine

variable {s : State} {fn : Fn} {p b op off st : Nat} {v : Vote}

/-! ### The state of a calendar bank -/

theorem calTo_rd (h : off ≠ R.schedBank b) : (calTo b st s).rd off = s.rd off := by
  unfold calTo
  refine (doIf_rd (fun s => ?_) _).trans ((doIf_rd (fun s => State.rd_setFld_ne s _ _ h) _).trans (State.rd_setFld_ne _ _ _ h))
  rw [calShow, State.rd_setFld_ne _ _ _ h, State.rd_setFld_ne _ _ _ h]
  rfl

/-- A bank that keeps its image changes its STATE alone. -/
theorem calTo_eq_setFld (h : st ∉ [Cb.empty, Cb.loading, Cb.invalid]) :
    calTo b st s = s.setFld (R.schedBank b) F.schedBankState st := by
  simp only [List.mem_cons, List.not_mem_nil, or_false, not_or, ← beq_eq_false_iff_ne] at h
  obtain ⟨hempty, hloading, hinvalid⟩ := h
  simp only [calTo, hempty, hloading, hinvalid, Bool.or_self, doIf_false]

theorem calTo_loading_stands : (calTo b st s).cal.loading = s.cal.loading := by
  unfold calTo
  refine (doIf_keeps (fun u : State => u.cal.loading) (fun _ => ?_) _ _).trans
    (doIf_keeps (fun u : State => u.cal.loading) (fun _ => ?_) _ _)
  · rfl
  · rfl

theorem setFld_calState (hst : st < 16) : (s.setFld (R.schedBank b) F.schedBankState st).calState b = st := by
  rw [State.calState, State.fld, State.rd_setFld_same, getF_setF _ _ _ (by decide)]
  exact Nat.mod_eq_of_lt hst

theorem schedBank_ne_schedStatus (b : Nat) (h : b < 2) : R.schedBank b ≠ R.schedStatus := by
  simp only [R.schedBank, R.schedStatus]
  omega

theorem calGen_lt (s : State) (b : Nat) : s.calGen b < 65536 := getF_lt ..

theorem calEpoch_lt (img : Bytes) : calEpoch img < 2 := Nat.mod_lt _ (by decide)

/-! ### The end of a calendar command -/

/-- A field of a status register below DETAIL reads after a completion as in the word written without DETAIL, where the
done interrupt does not touch the register. -/
theorem complete_status_fld {i : Ifc} {code detail : Nat} {g : Fld} (hg : FldOk g) (hlow : g.1 < 48)
    (hirq : ∀ u : State, (doneIrq i u).rd i.status = u.rd i.status) : (complete i code detail s).fld i.status g =
      getF (setF (setF (setF (s.rd i.status) stCode code) stBusy 0) stDone 1) g := by
  simp only [State.fld, complete, hirq, State.rd_wr_same]
  cases i.hasDetail
  · rfl
  · exact getF_setF_ne _ _ _ _ (by decide) hg (.inr hlow)

theorem complete_code {i : Ifc} {code detail : Nat} (hirq : ∀ u : State, (doneIrq i u).rd i.status = u.rd i.status)
    (h : code < 256) : (complete i code detail s).fld i.status stCode = code := by
  rw [complete_status_fld (by decide) (by decide) hirq, getF_setF_ne _ _ _ _ (by decide) (by decide) (by decide),
    getF_setF_ne _ _ _ _ (by decide) (by decide) (by decide), getF_setF _ _ _ (by decide)]
  exact Nat.mod_eq_of_lt h

/-- A completed command leaves its interface free. -/
theorem complete_free {i : Ifc} {code detail : Nat} (hirq : ∀ u : State, (doneIrq i u).rd i.status = u.rd i.status) :
    (complete i code detail s).busy i = false := by
  rw [State.busy, State.flag, complete_status_fld (by decide) (by decide) hirq,
    getF_setF_ne _ _ _ _ (by decide) (by decide) (by decide), getF_setF _ _ _ (by decide)]
  rfl

theorem doneIrq_sched_rd (h : R.plateCmd ≤ off) : (doneIrq .sched s).rd off = s.rd off :=
  doIf_rd (raiseBlock_rd (not_intReg_of_ge h)) s

theorem complete_sched_rd {code detail : Nat} (h : R.plateCmd ≤ off) (hne : off ≠ R.schedStatus) :
    (complete .sched code detail s).rd off = s.rd off := (doneIrq_sched_rd h).trans (State.rd_wr_ne _ _ hne)

theorem complete_sched_code {code detail : Nat} (h : code < 256) :
    (complete .sched code detail s).fld R.schedStatus stCode = code :=
  complete_code (i := .sched) (fun _ => doneIrq_sched_rd (by decide)) h

theorem complete_sched_free {code detail : Nat} : (complete .sched code detail s).busy .sched = false :=
  complete_free fun _ => doneIrq_sched_rd (by decide)

theorem complete_cal (i : Ifc) (code detail : Nat) : (complete i code detail s).cal = s.cal := by
  obtain ⟨_, _, _, h⟩ := signals_complete (s := s) i code detail
  rw [h]

/-! ### What the acceptance of a calendar command leaves alone -/

theorem calState_taken (b : Nat) : (s.taken fn .sched op p).calState b = s.calState b := by
  have h : R.schedBank b ≠ Ifc.sched.status := by simp only [R.schedBank, Ifc.status, R.schedStatus]; omega
  rw [State.calState, State.fld, taken_rd h]
  rfl

theorem halted_taken : (s.taken fn .sched op p).halted = s.halted := by
  rw [State.halted, State.flag, State.fld, taken_rd (by decide)]
  rfl

theorem mfNum_taken : (s.taken fn .sched op p).mfNum = s.mfNum := by
  rw [State.mfNum, State.fld, taken_rd (by decide)]
  rfl

theorem lateAbort_taken : (s.taken fn .sched op p).lateAbort b = s.lateAbort b := by
  unfold State.lateAbort
  rw [mfNum_taken]
  rfl

/-- The checks of a calendar command read nothing that its acceptance writes. -/
theorem schedChecks_taken {k gen : Nat} : schedChecks (s.taken fn .sched op p) k b gen = schedChecks s k b gen := by
  simp only [schedChecks, calState_taken, calGen_taken, lateAbort_taken]

/-! ### The commands -/

theorem schedChecks_load (h : s.calState b = Cb.empty ∨ s.calState b = Cb.invalid) :
    firstBad (schedChecks s 1 b (s.calGen b)) = none := by
  rcases h with h | h <;> simp [schedChecks, firstBad, h, Cb.empty, Cb.invalid, Cb.retiring]

theorem schedChecks_swap (h : s.calState b = Cb.standby) : firstBad (schedChecks s 2 b (s.calGen b)) = none := by
  simp [schedChecks, firstBad, h, Cb.standby, Cb.retiring]

theorem schedChecks_abort (h : s.calState b = Cb.standby ∨ s.calState b = Cb.armed ∧ s.lateAbort b = false) :
    firstBad (schedChecks s 3 b (s.calGen b)) = none := by
  rcases h with h | ⟨h, hlate⟩
  · simp [schedChecks, firstBad, h, Cb.standby, Cb.armed, Cb.retiring]
  · simp [schedChecks, firstBad, h, hlate, Cb.armed, Cb.retiring]

theorem schedPerform_load {gen : Nat} (hr : s.boot.restarting = false) (h : firstBad (schedChecks s 1 b gen) = none) :
    schedPerform 1 b gen v s = schedLoad b s := by simp [schedPerform, hr, h]

theorem schedPerform_swap {gen : Nat} (h : firstBad (schedChecks s 2 b gen) = none) :
    schedPerform 2 b gen v s = schedSwap b s := by simp [schedPerform, h]

theorem schedPerform_abort {gen : Nat} (h : firstBad (schedChecks s 3 b gen) = none) :
    schedPerform 3 b gen v s = schedAbort b s := by simp [schedPerform, h]

theorem schedPerform_restart_halted {gen : Nat} (h : s.halted = true) :
    schedPerform 4 b gen v s = { s with cal := { s.cal with resume := some ((s.mfNum + 2) % 2 ^ 32) } } := by
  simp [schedPerform, schedRestart, h]

/-- A LOAD whose address and length pass check 1 puts its bank into LOADING. -/
theorem schedLoad_sound (ha : s.fld R.schedArg0 F.schedArg0AddrOrMf % 64 = 0)
    (hl : s.fld R.schedArg1 F.schedArg1Length % 64 = 0) (hmax : s.fld R.schedArg1 F.schedArg1Length ≤ 1540608) :
    schedLoad b s = calTo b Cb.loading { s with cal := { s.cal with
      loading := some b, len := s.fld R.schedArg1 F.schedArg1Length } } := by
  have h0 : R.schedArg0 ≠ R.schedBank b := by simp only [R.schedArg0, R.schedBank]; omega
  have h1 : R.schedArg1 ≠ R.schedBank b := by simp only [R.schedArg1, R.schedBank]; omega
  unfold schedLoad
  dsimp only
  refine if_pos ?_
  simp only [State.fld, calTo_rd h0, calTo_rd h1, Bool.and_eq_true, beq_iff_eq, decide_eq_true_eq]
  exact ⟨⟨ha, hl⟩, hmax⟩

theorem schedSwapAt_pass {m : Nat} (h : Passes (swapChecks s b m)) :
    schedSwapAt b m s = { s with cal := { s.cal with swapReq := some (b, m) } } := by
  unfold schedSwapAt
  rw [firstBad_pass h]

theorem schedAbort_armed (h : s.calState b = Cb.armed) :
    schedAbort b s = complete .sched Code.ok 0 (disarm b (calTo b Cb.standby s)) := by
  unfold schedAbort
  rw [if_pos h]

theorem schedAbort_loading (h : s.calState b ≠ Cb.armed) (hl : s.cal.loading = some b) :
    schedAbort b s = complete .sched Code.ok 0 (calTo b Cb.empty { s with cal := { s.cal with loading := none } }) := by
  unfold schedAbort
  rw [if_neg h, if_pos hl]

/-- With no load in progress an ABORT has none to forget. -/
theorem schedAbort_idle (h : s.calState b ≠ Cb.armed) (hl : s.cal.loading = none) :
    schedAbort b s = complete .sched Code.ok 0 (calTo b Cb.empty s) := by
  have hsame : ({ s with cal := { s.cal with loading := if s.cal.loading = some b then none else s.cal.loading } } : State) =
      s := by rw [hl, if_neg nofun, ← hl]
  unfold schedAbort
  rw [if_neg h, hsame]

/-- The ABORT of the load in progress is taken while the interface is busy. -/
theorem sched_aborts (h : s.MayWrite fn p 9) (hr : s.right p Right.calendar = true) (hu : s.upd.tload = none)
    (hb : b < 2) (hbusy : s.busy .sched = true) (hl : s.cal.loading = some b) :
    schedIssue fn 3 b (s.calGen b) v s = schedAbort b (s.taken fn .sched 3 p) := by
  have hgen := calGen_lt s b
  generalize hg : s.calGen b = gen at hgen
  have e1 : getF (setF (setF (setF 0 F.schedCmdOpcode 3) F.schedCmdBank b) F.schedCmdGen gen) F.schedCmdOpcode = 3 := by
    rw [getF_setF_ne _ _ _ _ (by decide) (by decide) (by decide), getF_setF_ne _ _ _ _ (by decide) (by decide) (by decide),
      getF_one _ _ (by decide) (by decide)]
  have e2 : getF (setF (setF (setF 0 F.schedCmdOpcode 3) F.schedCmdBank b) F.schedCmdGen gen) F.schedCmdBank = b := by
    rw [getF_setF_ne _ _ _ _ (by decide) (by decide) (by decide), getF_last _ _ _ (by decide) hb]
  have e3 : getF (setF (setF (setF 0 F.schedCmdOpcode 3) F.schedCmdBank b) F.schedCmdGen gen) F.schedCmdGen = gen :=
    getF_last _ _ _ (by decide) hgen
  have habort : abortsCal (dropHeld fn s) 3 b gen = true := by
    have hl' : (dropHeld fn s).cal.loading = some b := hl
    have hg' : (dropHeld fn s).calGen b = gen := hg
    simp [abortsCal, hl', hg']
  unfold schedIssue
  rw [access_block h (d := _) (ix := _) rfl (by decide) (by decide)]
  unfold schedCommand
  simp only [e1, e2, e3, dropHeld_right, hr, dropHeld_busy, hbusy, habort, Bool.not_true, Bool.and_self, if_true,
    Bool.false_eq_true, if_false]
  exact orHold_acts hu

/-- Settles O20: the checks of R62 pass on the state that has accepted the command, and each opcode takes its one branch. -/
theorem schedCommandsRun : Obligations.SchedCommandsRun := by
  intro s fn p b hw hr hu hb t m
  have hgen := calGen_lt s b
  have hok : (fnOk fn && decide (b < 2) && decide (s.calGen b < 65536)) = true := by simp [hw.shape, hb, hgen]
  have harg0 : ∀ op, (t op).fld R.schedArg0 F.schedArg0AddrOrMf = s.fld R.schedArg0 F.schedArg0AddrOrMf :=
    fun _ => congrArg (getF · _) (taken_rd (by decide))
  have harg1 : ∀ op, (t op).fld R.schedArg1 F.schedArg1Length = s.fld R.schedArg1 F.schedArg1Length :=
    fun _ => congrArg (getF · _) (taken_rd (by decide))
  refine ⟨fun ht => ⟨fun hst hrest ha hl hmax => ?load, fun hst hc => ?swap, fun hst hl => ?abort, fun hst hlate => ?disarm,
    fun v hh hv => ?restart⟩, fun hbusy hl hst => ?stop⟩
  case load =>
    rw [exec_sched_row (v := .agree) rfl hok hw hr ht hu (by decide) hb hgen,
      schedPerform_load (s := s.taken fn .sched 1 p) hrest (by rw [schedChecks_taken, schedChecks_load hst]),
      schedLoad_sound ((harg0 1).symm ▸ ha) ((harg1 1).symm ▸ hl) ((harg1 1).symm ▸ hmax), harg1 1]
    rfl
  case swap =>
    rw [exec_sched_row (v := .agree) rfl hok hw hr ht hu (by decide) hb hgen,
      schedPerform_swap (by rw [schedChecks_taken, schedChecks_swap hst]), schedSwap, harg0 2]
    exact congrArg _ (schedSwapAt_pass hc)
  case abort =>
    rw [exec_sched_row (v := .agree) rfl hok hw hr ht hu (by decide) hb hgen,
      schedPerform_abort (by rw [schedChecks_taken, schedChecks_abort (.inl hst)])]
    exact congrArg _ (schedAbort_idle (by rw [calState_taken, hst]; decide) hl)
  case disarm =>
    rw [exec_sched_row (v := .agree) rfl hok hw hr ht hu (by decide) hb hgen,
      schedPerform_abort (by rw [schedChecks_taken, schedChecks_abort (.inr ⟨hst, hlate⟩)])]
    exact congrArg _ (schedAbort_armed (calState_taken b |>.trans hst))
  case restart =>
    rw [exec_sched_row (b := 0) (gen := 0) rfl (by simp [hw.shape, hv]) hw hr ht hu (by decide) (by decide) (by decide),
      schedPerform_restart_halted (halted_taken.trans hh), mfNum_taken]
    rfl
  case stop =>
    have hexec : exec (.schedAbort fn b (s.calGen b)) s = guardWf _ (schedIssue fn 3 b (s.calGen b) .agree s) := rfl
    rw [hexec, guardWf_of hok, sched_aborts hw hr hu hb hbusy hl]
    exact congrArg _ (schedAbort_loading (by rw [calState_taken]; exact hst) hl)

/-! ### An image is read and verified -/

theorem schedData_failed {x : Bytes} {f : Fail} (hl : s.cal.loading = some b) (hst : s.calState b = Cb.loading)
    (hf : arrivedFail calKind s.cal.len ((s.calImg b ++ x).take s.cal.len) = some f) :
    schedData (.data x) true s = calFail b f (setCalImg b ((s.calImg b ++ x).take s.cal.len) s) := by
  simp [schedData, hl, hst, hf]

/-- Bytes that checks 2 to 9 find no fault in are stored, and the last of them start the verification. -/
theorem schedData_stored {x : Bytes} (hl : s.cal.loading = some b) (hst : s.calState b = Cb.loading)
    (hr : s.boot.restarting = false) (hf : arrivedFail calKind s.cal.len ((s.calImg b ++ x).take s.cal.len) = none) :
    let img := (s.calImg b ++ x).take s.cal.len
    schedData (.data x) true s =
      if img.length < s.cal.len then setCalImg b img s else calTo b Cb.verifying (setCalImg b img s) := by
  have hr' : ∀ i, (setCalImg b i s).boot.restarting = false := fun _ => hr
  simp only [schedData, hl, hst, hf, hr', bne_self_eq_false, Bool.not_true, Bool.false_eq_true, if_false]

theorem schedVerify_bad {f : Fail} (hl : s.cal.loading = some b) (hst : s.calState b = Cb.verifying)
    (hr : s.boot.restarting = false) (h : firstBad (calVerifyChecks s (s.calImg b)) = some f) :
    schedVerify s = calFail b f s := by
  simp [schedVerify, hl, hst, hr, h]

/-- The state with a sound image in STANDBY, shown, before its LOAD completes. -/
def calVerified (b : Nat) (s : State) : State :=
  calShow b (calFlowCount (s.calImg b)) (calEpoch (s.calImg b))
    ({ s with cal := { s.cal with loading := none } }.setFld (R.schedBank b) F.schedBankState Cb.standby)

theorem schedVerify_good (hl : s.cal.loading = some b) (hst : s.calState b = Cb.verifying)
    (hr : s.boot.restarting = false) (h : firstBad (calVerifyChecks s (s.calImg b)) = none) :
    schedVerify s = complete .sched Code.ok 0 (calVerified b s) := by
  have hto : ∀ u, calTo b Cb.standby u = u.setFld (R.schedBank b) F.schedBankState Cb.standby :=
    fun _ => calTo_eq_setFld (by decide)
  simp [schedVerify, hl, hst, hr, h, hto, calVerified]

theorem calVerified_bank : (calVerified b s).rd (R.schedBank b) = setF (setF (setF (s.rd (R.schedBank b))
    F.schedBankState Cb.standby) F.schedBankFlowCount (calFlowCount (s.calImg b))) F.schedBankEpoch (calEpoch (s.calImg b)) := by
  rw [calVerified, calShow, State.rd_setFld_same, State.rd_setFld_same, State.rd_setFld_same]
  rfl

/-- What a bank shows once its image is verified. -/
theorem calVerified_shows : (calVerified b s).calState b = Cb.standby ∧ (calVerified b s).calGen b = s.calGen b ∧
    (calVerified b s).fld (R.schedBank b) F.schedBankFlowCount = calFlowCount (s.calImg b) % 2 ^ 14 ∧
    (calVerified b s).fld (R.schedBank b) F.schedBankEpoch = calEpoch (s.calImg b) := by
  simp only [State.calState, State.calGen, State.fld, calVerified_bank]
  refine ⟨?_, ?_, ?_, ?_⟩
  · rw [getF_setF_ne _ _ _ _ (by decide) (by decide) (by decide), getF_setF_ne _ _ _ _ (by decide) (by decide) (by decide),
      getF_setF _ _ _ (by decide)]
    rfl
  · rw [getF_setF_ne _ _ _ _ (by decide) (by decide) (by decide), getF_setF_ne _ _ _ _ (by decide) (by decide) (by decide),
      getF_setF_ne _ _ _ _ (by decide) (by decide) (by decide)]
  · rw [getF_setF_ne _ _ _ _ (by decide) (by decide) (by decide), getF_setF _ _ _ (by decide)]
    rfl
  · rw [getF_setF _ _ _ (by decide)]
    exact Nat.mod_eq_of_lt (calEpoch_lt _)

theorem calFail_ends {f : Fail} : (calFail b f s).cal.loading = none ∧ (calFail b f s).busy .sched = false :=
  ⟨(congrArg CalSt.loading (complete_cal ..)).trans calTo_loading_stands, complete_sched_free⟩

/-! ### A swap is armed -/

theorem calLive_slack_ok (h : ∀ l, s.calLive = some l → s.slackRaise ≤ s.bankSlack l) :
    (match s.calLive with
      | some l => decide (s.slackRaise ≤ s.bankSlack l)
      | none => true) = true := by
  split
  · next l hl => exact decide_eq_true (h l hl)
  · rfl

/-- The state with a bank ARMED for multiframe `m`, before TSI_STAT follows and its SWAP completes. -/
def calArmed (b m : Nat) (s : State) : State :=
  { s with cal := { s.cal with swapReq := none, armed := s.cal.armed ++ [(b, m)] } }.setFld (R.schedBank b)
    F.schedBankState Cb.armed

theorem schedArm_slack {m : Nat} (hs : s.cal.swapReq = some (b, m))
    (hlive : ∀ l, s.calLive = some l → s.slackRaise ≤ s.bankSlack l) (hbank : s.slackRaise ≤ s.bankSlack b) :
    schedArm s = complete .sched Code.ok 0 (tsiRefresh (calArmed b m s)) := by
  have hto : ∀ u, calTo b Cb.armed u = u.setFld (R.schedBank b) F.schedBankState Cb.armed :=
    fun _ => calTo_eq_setFld (by decide)
  unfold schedArm
  rw [hs]
  dsimp only
  rw [if_pos (Bool.and_eq_true _ _ ▸ ⟨calLive_slack_ok hlive, decide_eq_true hbank⟩), hto]
  rfl

theorem tsiRefresh_rd (h : off ≠ R.tsiStat) : (tsiRefresh s).rd off = s.rd off := by
  unfold tsiRefresh
  dsimp only
  split <;> rw [State.rd_setFld_ne _ _ _ h, State.rd_setFld_ne _ _ _ h, State.rd_setFld_ne _ _ _ h]

theorem tsiRefresh_cal : (tsiRefresh s).cal = s.cal := by
  unfold tsiRefresh
  dsimp only
  split <;> rfl

/-- TSI_STAT announces the first bank that is armed. -/
theorem tsiRefresh_announces {m : Nat} {l : List (Nat × Nat)} (h : s.cal.armed = (b, m) :: l) :
    (tsiRefresh s).fld R.tsiStat F.tsiStatAnnounce = 1 ∧ (tsiRefresh s).fld R.tsiStat F.tsiStatSwapMf = m % 2 ^ 32 := by
  have hword : ∃ page, (tsiRefresh s).rd R.tsiStat =
      setF (setF (setF (s.rd R.tsiStat) F.tsiStatPage page) F.tsiStatAnnounce 1) F.tsiStatSwapMf m := by
    unfold tsiRefresh
    simp only [State.setFld_cal, h, List.head?_cons, State.rd_setFld_same]
    exact ⟨_, rfl⟩
  obtain ⟨page, hword⟩ := hword
  rw [State.fld, State.fld, hword]
  constructor
  · rw [getF_setF_ne _ _ _ _ (by decide) (by decide) (by decide), getF_setF _ _ _ (by decide)]
    rfl
  · rw [getF_setF _ _ _ (by decide)]
    rfl

theorem calEcc_standby (hst : s.calState b = Cb.standby) (hs : s.cal.swapReq = none) : calEcc b s = calTo b Cb.invalid s := by
  simp [calEcc, hst, hs, Cb.standby, Cb.loading, Cb.verifying, Cb.armed]

/-- Settles O21: what arrives, what is verified, what is armed and what an error takes each follow from the state of the
bank, and neither the end of the command nor TSI_STAT touches what SCHED_BANK shows. -/
theorem schedLoads : Obligations.SchedLoads := by
  intro s b m x hb
  have hne : R.schedBank b ≠ R.schedStatus := schedBank_ne_schedStatus b hb
  have hge : R.plateCmd ≤ R.schedBank b := by simp only [R.plateCmd, R.schedBank]; omega
  have hbank : ∀ u : State, (complete .sched Code.ok 0 u).rd (R.schedBank b) = u.rd (R.schedBank b) :=
    fun _ => complete_sched_rd hge hne
  refine ⟨fun hl hst => ?data, fun hl hst hr => ?verify, fun hs hlive hslack => ?arm, fun hst hs => ?ecc⟩
  case data =>
    intro len img t hr
    cases hf : arrivedFail calKind len img with
    | some f => exact congrArg (guardWf true) (schedData_failed hl hst hf)
    | none => exact congrArg (guardWf true) (schedData_stored hl hst hr hf)
  case verify =>
    cases hbad : firstBad (calVerifyChecks s (s.calImg b)) with
    | some f =>
      obtain ⟨hload, hfree⟩ := calFail_ends (b := b) (f := f) (s := s)
      refine ⟨_, congrArg (guardWf true) (schedVerify_bad hl hst hr hbad), hload, hfree, fun g hg => ?_, nofun⟩
      rw [Option.some.inj hg]
    | none =>
      obtain ⟨hstate, hgen, hflows, hepoch⟩ := calVerified_shows (b := b) (s := s)
      have hcal := complete_cal (s := calVerified b s) .sched Code.ok 0
      have himg : (complete .sched Code.ok 0 (calVerified b s)).calImg b = s.calImg b :=
        (congrArg (fun c : CalSt => c.images.getD b []) hcal).trans rfl
      refine ⟨_, congrArg (guardWf true) (schedVerify_good hl hst hr hbad), congrArg CalSt.loading hcal,
        complete_sched_free, nofun, fun _ => ⟨?_, himg, ?_, ?_, ?_, complete_sched_code (by decide)⟩⟩
      · exact (congrArg (getF · _) (hbank _)).trans hstate
      · exact (congrArg (getF · _) (hbank _)).trans hgen
      · exact (congrArg (getF · _) (hbank _)).trans hflows
      · exact (congrArg (getF · _) (hbank _)).trans hepoch
  case arm =>
    have hcal : (complete .sched Code.ok 0 (tsiRefresh (calArmed b m s))).cal = (calArmed b m s).cal :=
      (complete_cal ..).trans tsiRefresh_cal
    have htsi : R.schedBank b ≠ R.tsiStat := by simp only [R.schedBank, R.tsiStat]; omega
    have hstat : ∀ u : State, (complete .sched Code.ok 0 u).rd R.tsiStat = u.rd R.tsiStat :=
      fun _ => complete_sched_rd (by decide) (by decide)
    refine ⟨_, congrArg (guardWf true) (schedArm_slack hs hlive hslack), ?_, congrArg CalSt.swapReq hcal,
      congrArg CalSt.armed hcal, complete_sched_code (by decide), fun hnone => ?_⟩
    · exact (congrArg (getF · _) ((hbank _).trans (tsiRefresh_rd htsi))).trans (setFld_calState (by decide))
    · have harmed : (calArmed b m s).cal.armed = (b, m) :: [] := congrArg (· ++ [(b, m)]) hnone
      obtain ⟨hann, hmf⟩ := tsiRefresh_announces harmed
      exact ⟨(congrArg (getF · _) (hstat _)).trans hann, (congrArg (getF · _) (hstat _)).trans hmf⟩
  case ecc =>
    show guardWf (decide (b < 2)) (calEcc b s) = _
    rw [guardWf_of (decide_eq_true hb), calEcc_standby hst hs]

end Sys2Proof.Machine
end

section
/-! SUPPORT. O22: a scheduled frame from its 64th byte to its tail. -/

namespace Sys2Proof.Machine

variable {s : State} {port t off key k b mf flow w : Nat} {first body bytes : Bytes} {fec : Fec} {v : Vote}
  {f g : TxFrame}

/-! ### The scheduled pool and the frames that it holds -/

/-- Bytes written to the pool change the pool alone. -/
theorem poolWrite_keeps {β : Type} (g : State → β) (hg : ∀ (u : State) p x, g (setPoolPage p x u) = g u) (a : Nat) :
    g (poolWrite a bytes s) = g s := forEach_keeps g (fun _ _ => hg ..) _

/-- What a bridge's direction does not show stands when scheduled bytes are handed over. -/
theorem bridgeSched_keeps {β : Type} (g : State → β) (hft : ∀ (u : State) d, g { u with brFT := d } = g u)
    (htf : ∀ (u : State) d, g { u with brTF := d } = g u) (dir : Nat) : g (bridgeSched dir bytes s) = g s := by
  unfold bridgeSched setBridge
  dsimp only
  split
  · exact hft ..
  · exact htf ..

theorem storeTx_line : (storeTx key f bytes s).line = s.line :=
  (poolWrite_keeps State.line (fun _ _ _ => rfl) _).trans (bridgeSched_keeps State.line (fun _ _ => rfl) (fun _ _ => rfl) _)

/-- A stored frame is longer by what was stored. -/
theorem storeTx_txFrameOf : (storeTx key f bytes s).txFrameOf key = some { f with len := f.len + bytes.length } :=
  smapFind_insert_same

theorem setTxFrame_txFrameOf : (setTxFrame key f s).txFrameOf key = some f := smapFind_insert_same

/-! ### What counting and voting leave alone -/

/-- The calendar's registers stand above the counters of every port. -/
theorem countFec_sched_rd (hp : port < 96) (h : R.schedCmd ≤ off) : (countFec port fec s).rd off = s.rd off := by
  have hne : ∀ i < 32, off ≠ lineCtr port i := fun i _ => by
    simp only [R.schedCmd, lineCtr, R.lineCtr] at h ⊢
    omega
  exact (State.rd_wr_ne _ _ (hne 24 (by decide))).trans (State.rd_wr_ne _ _ (hne 23 (by decide)))

theorem countFec_cal : (countFec port fec s).cal = s.cal := countFec_keeps State.cal State.wr_cal

theorem countFec_halted (hp : port < 96) : (countFec port fec s).halted = s.halted :=
  congrArg (getF · F.schedVoteHalt != 0) (countFec_sched_rd hp (by decide))

/-- Copies that agree change nothing. -/
theorem voteWord_agree : voteWord .agree s = s := by
  unfold voteWord
  split <;> rfl

/-! ### A frame at its 64th byte -/

theorem flowMatch_unmatched (hon : s.rxOn port = true) (hfree : smapFind port s.line.rx = none)
    (hf : s.flowOf port first t = none) : flowMatch port first t fec v s =
      awaitSegment port first.length (0 < fec.uncorr) (countFec port fec s) := by
  simp [flowMatch, hon, hfree, hf]

theorem flowMatch_matched (hp : port < 96) (hon : s.rxOn port = true) (hfree : smapFind port s.line.rx = none)
    (hf : s.flowOf port first t = some (b, mf, flow)) (hlen : first.length = 64) (hh : s.halted = false) :
    flowMatch port first t fec .agree s = admitFlow b mf flow port first t (0 < fec.uncorr) (countFec port fec s) := by
  simp [flowMatch, hon, hfree, hf, hlen, voteWord_agree, countFec_halted hp, hh]

/-- A frame in a window that none holds in its multiframe is held under that window. -/
theorem admitFlow_held {bad : Bool} (hw : windowAt (s.calImg b) flow t = some w)
    (hfree : ∀ g, s.txFrameOf (calKey b w) = some g → g.mf ≠ mf) :
    admitFlow b mf flow port first t bad s =
      (setCur port { pkt := none, len := first.length, sched := some (calKey b w), bad := bad, wait := false }
        (storeTx (calKey b w) { flow := flow, len := 0, whole := false, stomp := false, sent := 0, late := false, mf := mf }
          first s)).inc (R.schedFlowCtr flow 0) := by
  have hnone : ((s.txFrameOf (calKey b w)).map (·.mf == mf)).getD false = false := by
    cases hx : s.txFrameOf (calKey b w) with
    | none => rfl
    | some g => exact beq_false_of_ne (hfree g hx)
  simp [admitFlow, hw, hnone]

/-! ### The rest of a frame -/

theorem schedOverlen_cut (hc : s.schedCur port = some (k, g)) (hmax : s.maxLenOf k g.flow < g.len + body.length) :
    schedOverlen port body fec s = overlenCut port k g body (countFec port fec s) := by
  have hmax' : (countFec port fec s).maxLenOf k g.flow = s.maxLenOf k g.flow := by
    simp only [State.maxLenOf, State.calImg, countFec_cal]
  unfold schedOverlen
  rw [hc]
  dsimp only
  rw [hmax', if_neg (Nat.not_le.2 hmax)]

theorem discardRx_cal {len : Nat} : (discardRx port len s).cal = s.cal := rfl

/-- A frame that is cut holds MAX_LEN bytes, where it has not passed them before. -/
theorem overlenCut_txFrameOf (hmax : s.maxLenOf k g.flow < g.len + body.length) :
    (overlenCut port k g body s).txFrameOf k =
      some { g with len := g.len + (s.maxLenOf k g.flow - g.len), whole := true, stomp := true } := by
  have hcut : (body.take (s.maxLenOf k g.flow - g.len)).length = s.maxLenOf k g.flow - g.len := by
    rw [List.length_take]
    omega
  unfold overlenCut State.txFrameOf
  dsimp only
  rw [State.inc_cal, State.inc_cal, discardRx_cal, ← State.txFrameOf, storeTx_txFrameOf, hcut]

theorem overlenCut_counts : (overlenCut port k g body s).rd (R.schedCtr 2) = s.rd (R.schedCtr 2) + 1 := by
  have hne : R.schedCtr 2 ≠ R.schedFlowCtr g.flow 1 := by simp only [R.schedCtr, R.schedFlowCtr]; omega
  unfold overlenCut
  dsimp only
  rw [State.rd_inc_same, State.rd_inc_ne _ hne]
  exact congrArg (· + 1) (storeTx_rd ..)

theorem schedTail_good (hc : s.schedCur port = some (k, g)) (hmax : g.len + body.length ≤ s.maxLenOf k g.flow)
    (hbad : s.curBad port = false) (hfec : fec.uncorr = 0) : schedTail port body .good fec s =
      storeTx k { g with whole := true } body (clearCur port (countRx port (g.len + body.length) fec s)) := by
  simp [schedTail, hc, Nat.not_lt.2 hmax, hbad, hfec]

/-- Settles O22: the 64th byte, the byte past MAX_LEN and the good tail each take one branch, and the counters of the port
stand apart from the calendar's. -/
theorem scheduledFrames : Obligations.ScheduledFrames := by
  intro s port t first body fec hp
  refine ⟨fun hmin hlen ht hon hfree => ?first, fun k g hc => ⟨fun hmax _ => ?cut, fun hmax hbad hfec => ?tail⟩⟩
  case first =>
    have hok : (decide (port < 96) && decide (first.length ≤ 64) && decide (16 ≤ first.length) && decide (t < mfTicks) &&
        voteOk .agree) = true := by simp [hp, hlen, hmin, ht, voteOk]
    have hexec : exec (.flowMatch port first t fec .agree) s = .next (flowMatch port first t fec .agree s) := guardWf_of hok
    rw [hexec]
    refine ⟨fun hnone => congrArg _ (flowMatch_unmatched hon hfree hnone), fun b mf f w hf h64 hh hw hheld => ?_⟩
    have hcal : (countFec port fec s).cal = s.cal := countFec_cal
    have hw' : windowAt ((countFec port fec s).calImg b) f t = some w := by rw [State.calImg, hcal]; exact hw
    have hheld' : ∀ g, (countFec port fec s).txFrameOf (calKey b w) = some g → g.mf ≠ mf := by
      rw [State.txFrameOf, hcal]; exact hheld
    have hctr : R.schedCmd ≤ R.schedFlowCtr f 0 := by simp only [R.schedCmd, R.schedFlowCtr]; omega
    rw [flowMatch_matched hp hon hfree hf h64 hh, admitFlow_held hw' hheld']
    refine ⟨_, rfl, ?_, ?_⟩
    · rw [← h64, ← Nat.zero_add first.length]
      exact storeTx_txFrameOf
    · rw [State.rd_inc_same]
      exact congrArg (· + 1) ((storeTx_rd ..).trans (countFec_sched_rd hp hctr))
  case cut =>
    have hmax' : (countFec port fec s).maxLenOf k g.flow = s.maxLenOf k g.flow := by
      simp only [State.maxLenOf, State.calImg, countFec_cal]
    have hexec : exec (.schedOverlen port body fec) s = .next (schedOverlen port body fec s) :=
      guardWf_of (decide_eq_true hp)
    refine ⟨_, hexec.trans (congrArg _ (schedOverlen_cut hc hmax)), ?_, ?_⟩
    · rw [overlenCut_txFrameOf (hmax'.symm ▸ hmax), hmax']
    · exact overlenCut_counts.trans (congrArg (· + 1) (countFec_sched_rd hp (by decide)))
  case tail =>
    have hexec : exec (.schedFrameTail port body .good fec) s = .next (schedTail port body .good fec s) :=
      guardWf_of (decide_eq_true hp)
    refine ⟨_, hexec.trans (congrArg _ (schedTail_good hc hmax hbad hfec)), ?_, storeTx_txFrameOf⟩
    rw [storeTx_line]
    exact smapFind_erase_same

end Sys2Proof.Machine
end

section
/-! SUPPORT. O23: the cells of a scheduled frame are placed, and its release sends it. -/

namespace Sys2Proof.Machine

variable {s t u : State} {a b e r n mf len page port off : Nat} {x : RxCell} {l : List RxCell} {bytes : Bytes}
  {f : Option Bytes} {k : RxBuf}

/-! ### RX buffers -/

/-- A buffer that no release has judged, or whose release is still to come, reads as it was written. -/
theorem setRxBuf_rxBuf (h : ∀ at_, k.endAt = some at_ → s.now ≤ at_) : (setRxBuf page k s).rxBuf page = k := by
  have hget : smapGet (fun _ => emptyRx) page (setRxBuf page k s).cal.rx = k := smapGet_put_same
  have hlasts : (k.endAt.map (fun at_ => decide (at_ < s.now))).getD false = false := by
    cases hat : k.endAt with
    | none => rfl
    | some at_ => exact decide_eq_false (Nat.not_lt.2 (h at_ hat))
  unfold State.rxBuf
  rw [hget]
  exact if_neg (Bool.eq_false_iff.1 hlasts)

/-- After the TIME of its release a buffer is empty. -/
theorem rxBuf_over {at_ : Nat} (h : smapGet (fun _ => emptyRx) page s.cal.rx = k) (hat : k.endAt = some at_) (hlt : at_ < s.now) :
    s.rxBuf page = emptyRx := by
  have hpast : (k.endAt.map (fun at_ => decide (at_ < s.now))).getD false = true := by
    rw [hat]
    exact decide_eq_true hlt
  unfold State.rxBuf
  rw [h]
  exact if_pos hpast

/-- A buffer that is read has not met the TIME of its release. -/
theorem rxBuf_endAt {at_ : Nat} (h : (s.rxBuf page).endAt = some at_) : s.now ≤ at_ := by
  unfold State.rxBuf at h
  dsimp only at h
  split at h
  · cases h
  · next hlasts =>
    rw [h] at hlasts
    exact Nat.not_lt.1 fun hlt => hlasts (decide_eq_true hlt)

/-- A buffer with every cell up to its last holds cell 0. -/
theorem cells_of_complete (h : k.complete = true) : k.cells.isEmpty = false := by
  unfold RxBuf.complete at h
  split at h
  · next n _ =>
    have hfirst := List.all_eq_true.1 h 0 (List.mem_range.2 (Nat.succ_pos n))
    cases hc : k.cells with
    | nil => rw [hc] at hfirst; cases hfirst
    | cons c cs => rfl
  · cases h

/-! ### A cell is placed -/

/-- The state in which the cells of `l` wait to be placed. -/
def withCells (l : List RxCell) (s : State) : State := { s with cal := { s.cal with cells := l } }

theorem withCells_calImg : (withCells l s).calImg b = s.calImg b := rfl

/-- The pool is written alike whatever cells wait. -/
theorem poolWrite_withCells_pool : (poolWrite a bytes (withCells l s)).cal.pool = (poolWrite a bytes s).cal.pool := by
  have hcomm : poolWrite a bytes (withCells l s) = withCells l (poolWrite a bytes s) := by
    unfold poolWrite forEach
    exact List.foldl_hom (withCells l) (fun _ _ => rfl)
  rw [hcomm]
  rfl

theorem poolWrite_stands : (poolWrite a bytes s).now = s.now ∧ (poolWrite a bytes s).cal.cells = s.cal.cells :=
  ⟨poolWrite_keeps State.now (fun _ _ _ => rfl) a, poolWrite_keeps (fun u : State => u.cal.cells) (fun _ _ _ => rfl) a⟩

theorem schedCellReceive_placed (hc : s.cal.cells = x :: l) (hh : s.halted = false) (hrun : s.cal.run ≠ .off)
    (hslot : s.rxSlot x = some (b, e)) : schedCellReceive .ok .agree s =
      placeCell x b e (withCells l s) := by
  have hecc : (Ecc.ok == Ecc.uncorr) = false := rfl
  have hh' : (withCells l s).halted = false := hh
  have hslot' : (withCells l s).rxSlot x = some (b, e) := hslot
  unfold withCells at hh' hslot' ⊢
  simp [schedCellReceive, hc, voteWord_agree, hh', hslot', tsiWord, hrun, hecc]

/-- The buffer once the cell is in it. -/
def rxPlaced (x : RxCell) (e : Nat) (k : RxBuf) : RxBuf :=
  { k with
    cells := smapInsert (sCell e) (cellPay x.cell).length k.cells
    last := if cellLast x.cell then some (sCell e) else k.last
    stomp := k.stomp || cellStomp x.cell || x.bad }

theorem placeCell_eq : placeCell x b e s =
    setRxBuf (relPage (s.calImg b) (relEnt (s.calImg b) (sRef e)))
      (rxPlaced x e (s.rxBuf (relPage (s.calImg b) (relEnt (s.calImg b) (sRef e)))))
      (poolWrite (256 * relPage (s.calImg b) (relEnt (s.calImg b) (sRef e)) + 240 * sCell e) (cellPay x.cell) s) := rfl

theorem placeCell_rxBuf : (placeCell x b e s).rxBuf (relPage (s.calImg b) (relEnt (s.calImg b) (sRef e))) =
    rxPlaced x e (s.rxBuf (relPage (s.calImg b) (relEnt (s.calImg b) (sRef e)))) := by
  rw [placeCell_eq]
  refine setRxBuf_rxBuf fun at_ hat => ?_
  rw [poolWrite_stands.1]
  exact rxBuf_endAt hat

theorem placeCell_stands : (placeCell x b e s).cal.cells = s.cal.cells := by
  rw [placeCell_eq]
  exact poolWrite_stands.2

theorem placeCell_pool : (placeCell x b e s).cal.pool =
    (poolWrite (256 * relPage (s.calImg b) (relEnt (s.calImg b) (sRef e)) + 240 * sCell e) (cellPay x.cell) s).cal.pool := by
  rw [placeCell_eq]
  rfl

/-! ### A release is judged -/

theorem digestRel_keeps {β : Type} (g : State → β)
    (hg : ∀ (u : State) d, g { u with cal := { u.cal with digRel := d } } = g u) :
    g (digestRel b r mf f s) = g s := by
  unfold digestRel
  exact doIf_keeps g (fun _ => hg ..) _ _

/-- The buffer of a judged release ends at its TIME. -/
theorem relOver_endAt (hn : relEnt (s.calImg b) r = n) (hpage : relPage (s.calImg b) n = page) :
    (smapGet (fun _ => emptyRx) page (relOver b r mf len f s).cal.rx).endAt = some (s.relAt n mf) := by
  subst hn hpage
  exact congrArg RxBuf.endAt smapGet_put_same

theorem relOver_relDone : smapFind (calKey b r) (relOver b r mf len f s).cal.relDone = some (mf, len) := smapFind_insert_same

theorem relOver_line : (relOver b r mf len f s).line = s.line := by
  unfold relOver setRxBuf
  exact digestRel_keeps State.line (fun _ _ => rfl)

theorem relOver_macQueue : (relOver b r mf len f s).macQueue port = s.macQueue port := by
  rw [State.macQueue, relOver_line]
  rfl

theorem relOver_rd : (relOver b r mf len f s).rd off = s.rd off := by
  unfold relOver setRxBuf
  exact digestRel_keeps (State.rd · off) (fun _ _ => rfl)

/-- A release acts once in its multiframe. -/
theorem relDue_done (h : smapFind (calKey b r) s.cal.relDone = some (mf, len)) : s.relDue b r ≠ some mf := by
  unfold State.relDue
  rw [h]
  dsimp only
  intro hdue
  split at hdue
  · cases hdue
  · split at hdue
    · next hnext => exact hnext.2.2 (hdue ▸ rfl)
    · split at hdue
      · next hnow => exact hnow.2.2.1 (hdue ▸ rfl)
      · cases hdue

/-! ### A release sends its frame -/

/-- The state in which a frame has been counted as released and handed to the bridge. -/
def relCrossed (flow : Nat) (bytes : Bytes) (s : State) : State := bridgeSched 1 bytes (s.inc (R.schedFlowCtr flow 3))

theorem relCrossed_keeps {β : Type} (g : State → β) (hwr : ∀ (u : State) o v, g (u.wr o v) = g u)
    (hft : ∀ (u : State) d, g { u with brFT := d } = g u) (htf : ∀ (u : State) d, g { u with brTF := d } = g u) (flow : Nat) :
    g (relCrossed flow bytes s) = g s := (bridgeSched_keeps g hft htf 1).trans (hwr ..)

theorem relCrossed_linkUp (flow : Nat) : (relCrossed flow bytes s).linkUp port = s.linkUp port := by
  have hne : R.linePortStat port ≠ R.schedFlowCtr flow 3 := by simp only [R.linePortStat, R.schedFlowCtr]; omega
  exact congrArg (getF · F.linePortStatLinkUp != 0) ((bridgeSched_rd ..).trans (State.rd_inc_ne _ hne))

theorem relCrossed_counts (flow : Nat) :
    (relCrossed flow bytes s).rd (R.schedFlowCtr flow 3) = s.rd (R.schedFlowCtr flow 3) + 1 :=
  (bridgeSched_rd ..).trans (State.rd_inc_same ..)

theorem relCrossed_calImg (flow : Nat) : (relCrossed flow bytes s).calImg b = s.calImg b :=
  relCrossed_keeps (State.calImg · b) (fun _ _ _ => rfl) (fun _ _ => rfl) (fun _ _ => rfl) flow

theorem relCrossed_relAt (flow : Nat) : (relCrossed flow bytes s).relAt n mf = s.relAt n mf :=
  relCrossed_keeps (State.relAt · n mf) (fun _ _ _ => rfl) (fun _ _ => rfl) (fun _ _ => rfl) flow

theorem relCrossed_macQueue (flow : Nat) : (relCrossed flow bytes s).macQueue port = s.macQueue port :=
  relCrossed_keeps (State.macQueue · port) (fun _ _ _ => rfl) (fun _ _ => rfl) (fun _ _ => rfl) flow

theorem setMacQueue_rd (q : List MacItem) : (setMacQueue port q s).rd off = s.rd off := rfl
theorem setMacQueue_calImg (q : List MacItem) : (setMacQueue port q s).calImg b = s.calImg b := rfl
theorem setMacQueue_relAt (q : List MacItem) : (setMacQueue port q s).relAt n mf = s.relAt n mf := rfl

/-- The state in which release `n` of multiframe `mf` has sent the frame of the buffer at `page` to `port`: the frame goes
to the MAC ahead of all that waits there, and the release is over. -/
def relSent (b r mf n page port : Nat) (s : State) : State :=
  relOver b r mf (s.rxFrame page).length (some (s.rxFrame page))
    (setMacQueue port (.sched (s.rxFrame page) (rFlow n) (s.relAt n mf) :: s.macQueue port)
      (relCrossed (rFlow n) (s.rxFrame page) s))

theorem relSent_macQueue : (relSent b r mf n page port s).macQueue port =
    .sched (s.rxFrame page) (rFlow n) (s.relAt n mf) :: s.macQueue port := by
  rw [relSent, relOver_macQueue]
  exact setMacQueue_macQueue _

theorem relSent_counts : (relSent b r mf n page port s).rd (R.schedFlowCtr (rFlow n) 3) =
    s.rd (R.schedFlowCtr (rFlow n) 3) + 1 := by
  rw [relSent, relOver_rd, setMacQueue_rd, relCrossed_counts]

theorem relSent_relDue : (relSent b r mf n page port s).relDue b r ≠ some mf := relDue_done relOver_relDone

/-- After TIME the buffer of the release is empty. -/
theorem relSent_rxBuf (hn : relEnt (s.calImg b) r = n) (hpage : relPage (s.calImg b) n = page)
    (hrx : u.cal.rx = (relSent b r mf n page port s).cal.rx) (hlt : s.relAt n mf < u.now) : u.rxBuf page = emptyRx := by
  have himg : ∀ q, (setMacQueue port q (relCrossed (rFlow n) (s.rxFrame page) s)).calImg b = s.calImg b :=
    fun q => (setMacQueue_calImg q).trans (relCrossed_calImg (rFlow n))
  refine rxBuf_over rfl ?_ hlt
  rw [hrx, relSent, relOver_endAt (by rw [himg, hn]) (by rw [himg, hpage]), setMacQueue_relAt, relCrossed_relAt]

theorem releaseFrame_up (hn : relEnt (s.calImg b) r = n) (hpage : relPage (s.calImg b) n = page)
    (hport : fOut (flowEnt (s.calImg b) (rFlow n)) = port) (hup : s.linkUp port = true) :
    releaseFrame b r mf s = relSent b r mf n page port s := by
  have hup' : (relCrossed (rFlow n) (s.rxFrame page) s).linkUp port = true := (relCrossed_linkUp _).trans hup
  unfold releaseFrame relSent
  dsimp only
  rw [hn, hpage, hport, ← relCrossed, if_pos hup', relCrossed_relAt, relCrossed_macQueue]

theorem schedRelease_sends (hn : relEnt (s.calImg b) r = n) (hpage : relPage (s.calImg b) n = page)
    (hdue : s.relDue b r = some mf) (hh : s.halted = false) (hc : (s.rxBuf page).complete = true)
    (hs : (s.rxBuf page).stomp = false) : schedRelease b r .agree s = releaseFrame b r mf s := by
  subst hn hpage
  simp only [schedRelease, hdue, voteWord_agree, hh, cells_of_complete hc, hc, hs, Bool.not_true, Bool.false_eq_true, if_false]

/-- Settles O23: the cell is written to the buffer that its slot names, and the release of a whole buffer takes the branch
that sends. -/
theorem scheduledReleases : Obligations.ScheduledReleases := by
  intro s x l b e r mf
  refine ⟨fun hc hh hrun hslot => ?cell, fun hb hr hdue hh => ?release⟩
  case cell =>
    have hexec : exec (.schedCellReceive .ok .agree) s = .next (schedCellReceive .ok .agree s) := guardWf_of rfl
    have hbuf := placeCell_rxBuf (x := x) (b := b) (e := e) (s := withCells l s)
    rw [withCells_calImg] at hbuf
    refine ⟨_, hexec.trans (congrArg _ (schedCellReceive_placed hc hh hrun hslot)), placeCell_stands, ?_, ?_, fun hlast => ?_⟩
    · rw [hbuf]
      exact smapFind_insert_same
    · rw [placeCell_pool, withCells_calImg, poolWrite_withCells_pool]
    · rw [hbuf]
      exact if_pos hlast
  case release =>
    intro n page buf port hc hs hup
    have hexec : exec (.schedRelease b r .agree) s = .next (schedRelease b r .agree s) :=
      guardWf_of (by simp [hb, hr, voteOk])
    have hsent : schedRelease b r .agree s = relSent b r mf n page port s :=
      (schedRelease_sends rfl rfl hdue hh hc hs).trans (releaseFrame_up rfl rfl rfl hup)
    exact ⟨_, hexec.trans (congrArg _ hsent), relSent_macQueue, fun u hrx hlt => relSent_rxBuf rfl rfl hrx hlt,
      relSent_counts, relSent_relDue⟩

end Sys2Proof.Machine
end

section
/-! SUPPORT. O24: the slot of a lane at its pick time. -/

namespace Sys2Proof.Machine

variable {s : State} {l pos b e key : Nat} {f : TxFrame} {arrived c : Bytes} {ecc : Ecc} {v : Vote}

theorem storeArrived_nil : storeArrived key [] s = s := by
  unfold storeArrived
  split
  · rfl
  · exact if_pos (Bool.or_true _)

/-- The cell of a held frame, as its slot sends it. -/
def heldCell (b e : Nat) (f : TxFrame) (s : State) : Bytes :=
  schedCellOf s.devIndex (calEpoch (s.calImg b)) (sCell e) f (s.cellBytes (calKey b (sRef e)) (sCell e) f)

/-- An entry yields the cell of the frame that is held for it in this multiframe, once all its bytes have come. -/
theorem entryCell_held (hf : s.txFrameOf (calKey b (sRef e)) = some f)
    (hmf : f.mf + b2n (txCarry (s.calImg b) e) = s.mfIndex) (hlate : f.late = false) (hlen : 240 * (sCell e + 1) ≤ f.len) :
    entryCell b e l pos [] s = (setTxFrame (calKey b (sRef e)) { f with sent := sCell e + 1 } s, heldCell b e f s) := by
  have hmore : ¬ f.len ≤ 240 * sCell e := by omega
  simp [entryCell, storeArrived_nil, hf, hmf, hlate, hmore, Nat.not_lt.2 hlen, heldCell]

theorem schedSlot_held (hh : s.halted = false) (hf : s.txFrameOf (calKey b (sRef e)) = some f)
    (hmf : f.mf + b2n (txCarry (s.calImg b) e) = s.mfIndex) (hlate : f.late = false) (hlen : 240 * (sCell e + 1) ≤ f.len) :
    schedSlot b e true l pos [] .ok .agree s = (digestCell l pos (heldCell b e f s)
      (setTxFrame (calKey b (sRef e)) { f with sent := sCell e + 1 } s), heldCell b e f s) := by
  have hecc : (Ecc.ok == Ecc.uncorr) = false := rfl
  simp [schedSlot, calCell, voteWord_agree, tsiWord, hh, hecc, entryCell_held hf hmf hlate hlen]

/-- A slot that an entry serves sends what the entry yields, where its frame carries no AIS. -/
theorem slotCell_served (ht : s.twinLane l = false) (hs : s.servingSlot l pos = some (b, e, true))
    (hais : (s.lane l).ais = false) :
    slotCell l pos arrived ecc v s = schedSlot b e true l pos arrived ecc v s := by
  simp [slotCell, ht, hs, hais]

/-- A slot at its pick time sends its cell scrambled, and the rest of the pick leaves the frames that are held alone. -/
theorem slotPick_sends (hrun : s.framerRun = true) (hpwr : s.pwr.tripped = false) (hon : s.laneOn l = true)
    (hcell : (s.lane l).txCell < 40) (hnext : (s.lane l).txNext = s.curFrame + 1)
    (hpos : pos = 40 * (s.curFrame % 256) + (s.lane l).txCell) (htime : pickTime pos ≤ s.calTime)
    (hmay : s.slotMay l pos = true) :
    (slotPick l pos arrived ecc v s).outs =
      .fabCell l pos (scrCell (s.lane l).txCell (slotCell l pos arrived ecc v s).2) :: (slotCell l pos arrived ecc v s).1.outs ∧
    (slotPick l pos arrived ecc v s).cal = (slotCell l pos arrived ecc v s).1.cal := by
  have hdue : (s.framerRun && !s.pwr.tripped && s.laneOn l && (s.lane l).txCell < 40 && (s.lane l).txNext == s.curFrame + 1 &&
      pos == 40 * (s.curFrame % 256) + (s.lane l).txCell && pickTime pos ≤ s.calTime && s.slotMay l pos) = true := by
    simp [hrun, hpwr, hon, hcell, hnext, ← hpos, htime, hmay]
  unfold slotPick
  dsimp only
  rw [if_pos hdue]
  rw [State.emit_outs, State.emit_cal]
  unfold doIf
  split <;> exact ⟨rfl, rfl⟩

theorem digestCell_stands : (digestCell l pos c s).outs = s.outs ∧ (digestCell l pos c s).txFrameOf key = s.txFrameOf key := by
  unfold digestCell doIf
  split <;> exact ⟨rfl, rfl⟩

/-- Settles O24: the pick is due, the slot's entry serves it, and the frame that the entry names holds the whole cell. -/
theorem slotsSendTheirCells : Obligations.SlotsSendTheirCells := by
  intro s l pos b e f hl hp hrun hpwr hon hcell hnext hpos htime htwin hserve hais hh hf hmf hlate hlen
  have hexec : exec (.cellSlotPick l pos [] .ok .agree) s = .next (slotPick l pos [] .ok .agree s) :=
    guardWf_of (by simp [hl, hp, voteOk])
  have hmay : s.slotMay l pos = true := by simp [State.slotMay, hserve]
  have hslot := (slotCell_served (arrived := []) (ecc := .ok) (v := .agree) htwin hserve hais).trans
    (schedSlot_held hh hf hmf hlate hlen)
  obtain ⟨houts, hcal⟩ := slotPick_sends (arrived := []) (ecc := .ok) (v := .agree) hrun hpwr hon hcell hnext hpos htime hmay
  obtain ⟨hdigOuts, hdigFrame⟩ := digestCell_stands (l := l) (pos := pos) (c := heldCell b e f s) (key := calKey b (sRef e))
    (s := setTxFrame (calKey b (sRef e)) { f with sent := sCell e + 1 } s)
  rw [hslot] at houts hcal
  refine ⟨_, hexec, houts.trans (congrArg (_ :: ·) hdigOuts), ?_⟩
  exact (congrArg (fun c : CalSt => smapFind (calKey b (sRef e)) c.frames) hcal).trans (hdigFrame.trans setTxFrame_txFrameOf)

end Sys2Proof.Machine
end

section
/-! SUPPORT. FAB_LANE_STAT: which of its fields an operation on a lane or on a group writes, and that all others stand. -/

namespace Sys2Proof.Machine

variable {s : State} {l x g : Nat} {f : Fld}

/-! ### What a group does shows in no lane's status -/

theorem fabLaneStat_ge : R.plateCmd ≤ R.fabLaneStat l := by
  simp only [R.plateCmd, R.fabLaneStat]
  omega

theorem fabLaneStat_lt (hl : l < 120) : R.fabLaneStat l < R.erqStat 0 := by
  simp only [R.erqStat, R.fabLaneStat]
  omega

theorem fabLaneStat_ne_fabGroupStat (hl : l < 120) (g : Nat) : R.fabLaneStat l ≠ R.fabGroupStat g := by
  simp only [R.fabGroupStat, R.fabLaneStat]
  omega

/-- The record and the interrupt of a defect show in no lane's status. -/
theorem defectRecord_rd_laneStat (hl : l < 120) {inst : Nat} {items : List (Nat × Nat)} :
    (fabIrq (report .t 0x13 inst .k 0x001 items s)).rd (R.fabLaneStat l) = s.rd (R.fabLaneStat l) :=
  (fabIrq_rd fabLaneStat_ge).trans (report_rd_of_unit (by decide) fabLaneStat_ge (fabLaneStat_lt hl))

theorem setGroupStat_rd_laneStat (hl : l < 120) (v : Nat) :
    (s.setFld (R.fabGroupStat g) f v).rd (R.fabLaneStat l) = s.rd (R.fabLaneStat l) :=
  State.rd_setFld_ne _ _ _ (fabLaneStat_ne_fabGroupStat hl g)

theorem groupDefect_rd_laneStat (hl : l < 120) {byte : Nat} :
    (groupDefect f byte g s).rd (R.fabLaneStat l) = s.rd (R.fabLaneStat l) := by
  unfold groupDefect
  split
  · rfl
  · exact (defectRecord_rd_laneStat hl).trans (setGroupStat_rd_laneStat hl 1)

theorem repinGroup_regs : (repinGroup g s).regs = s.regs := forEach_keeps (f := repin) State.regs (fun _ _ => rfl) _

theorem refreshGroup_rd_laneStat (hl : l < 120) : (refreshGroup g s).rd (R.fabLaneStat l) = s.rd (R.fabLaneStat l) := by
  have hrepin : ∀ u : State, (repinGroup g u).rd (R.fabLaneStat l) = u.rd (R.fabLaneStat l) :=
    fun u => congrArg (smapGet regReset _) repinGroup_regs
  unfold refreshGroup
  dsimp only
  rw [doIf_rd hrepin, doIf_rd fun u => report_rd_of_unit (by decide) fabLaneStat_ge (fabLaneStat_lt hl),
    setGroupStat_rd_laneStat hl, setGroupStat_rd_laneStat hl, setGroupStat_rd_laneStat hl]

theorem refreshLane_rd_laneStat (hl : l < 120) : (refreshLane x s).rd (R.fabLaneStat l) = s.rd (R.fabLaneStat l) := by
  unfold refreshLane
  split
  · rfl
  · exact refreshGroup_rd_laneStat hl

theorem refreshLane_laneStat (hl : l < 120) : (refreshLane x s).laneStat l f = s.laneStat l f :=
  congrArg (getF · f) (refreshLane_rd_laneStat hl)

/-! ### The fields of a lane's status -/

/-- Two fields of a word that share no bit. -/
abbrev Apart (d f : Fld) : Prop := (FldOk d ∧ FldOk f) ∧ (d.1 < f.2 ∨ f.1 < d.2)

theorem State.fld_setFld_of_apart (s : State) {off o v : Nat} {d : Fld} (h : Apart d f) :
    (s.setFld off d v).fld o f = s.fld o f := by
  obtain ⟨⟨hd, hf⟩, hbits⟩ := h
  exact s.fld_setFld_apart off o d f v hd hf hbits

theorem setLaneStat_apart {d : Fld} {v : Nat} (h : Apart d f) : (setLaneStat x d v s).laneStat l f = s.laneStat l f :=
  s.fld_setFld_of_apart h

theorem setLane_laneStat {k : LaneSt} : (setLane x k s).laneStat l f = s.laneStat l f := rfl

theorem laneDefect_laneStat (hl : l < 120) {d : Fld × Nat} :
    (laneDefect d x s).laneStat l f = (setLaneStat x d.1 1 s).laneStat l f :=
  congrArg (getF · f) (defectRecord_rd_laneStat hl)

/-- On its way to HUNT a lane writes ALIGN, and of its status at most LOF beside. -/
theorem toHunt_laneStat (hl : l < 120) (h : Apart F.fabLaneStatLof f) :
    (toHunt l s).laneStat l f = (setLaneStat l F.fabLaneStatAlign 0 s).laneStat l f := by
  unfold toHunt
  dsimp only
  rw [doIf_keeps (·.laneStat l f) fun u => (laneDefect_laneStat hl).trans (setLaneStat_apart h),
    doIf_keeps (f := clearStore l) (·.laneStat l f) fun _ => rfl, setLane_laneStat]

theorem toHunt_align (hl : l < 120) : (toHunt l s).laneStat l F.fabLaneStatAlign = 0 :=
  (toHunt_laneStat hl (by decide)).trans (s.fld_setFld_same (by decide) (by decide))

theorem toHunt_los (hl : l < 120) : (toHunt l s).laneStat l F.fabLaneStatLos = s.laneStat l F.fabLaneStatLos :=
  (toHunt_laneStat hl (by decide)).trans (setLaneStat_apart (by decide))

/-! ### Signal lost and found -/

theorem laneFlag_of_laneStat {v : Nat} (h : s.laneStat l f = v) : s.laneFlag l f = (v != 0) := by rw [← h]; rfl

theorem fabLos_align (hl : l < 120) : (fabLos l s).laneStat l F.fabLaneStatAlign = 0 :=
  (refreshLane_laneStat hl).trans (toHunt_align hl)

theorem fabLos_los (hl : l < 120) : (fabLos l s).laneFlag l F.fabLaneStatLos = true := by
  have hdeclared : ∀ u : State, (laneDefect defLos l u).laneStat l F.fabLaneStatLos = 1 := fun u =>
    (laneDefect_laneStat hl).trans (u.fld_setFld_same (by decide) (by decide))
  have hkept : (fabLos l s).laneStat l F.fabLaneStatLos =
      (doIf (!s.laneFlag l F.fabLaneStatLos) (laneDefect defLos l) s).laneStat l F.fabLaneStatLos :=
    (refreshLane_laneStat hl).trans (toHunt_los hl)
  cases hlos : s.laneFlag l F.fabLaneStatLos with
  | true =>
    rw [hlos] at hkept
    exact (laneFlag_of_laneStat hkept).trans hlos
  | false =>
    rw [hlos] at hkept
    exact laneFlag_of_laneStat (hkept.trans (hdeclared s))

theorem fabSignalLock_los (hl : l < 120) (h : s.laneFlag l F.fabLaneStatLos = true) :
    (fabSignalLock l s).laneFlag l F.fabLaneStatLos = false := by
  rw [fabSignalLock, if_pos h]
  exact laneFlag_of_laneStat ((refreshLane_laneStat hl).trans (s.fld_setFld_same (by decide) (by decide)))

end Sys2Proof.Machine
end

section
/-! SUPPORT. O27: a lane sends its frames, and its receiver finds and loses their alignment (R311, R313, R314, R323). -/

namespace Sys2Proof.Machine

variable {s : State} {l pos n : Nat} {w : Bytes}

theorem lane_setLane_same {k : LaneSt} : (setLane l k s).lane l = k := smapGet_put_same

/-! ### A frame is sent -/

theorem turnGroup_outs {g : Nat} : (turnGroup g n s).outs = s.outs := by
  unfold turnGroup
  dsimp only
  split <;> rfl

/-- A frame goes out with the alignment word, which is not scrambled (R306). -/
theorem take_scrFrame_overhead {par : Nat} : (scrFrame (overhead l n par s)).take 8 = faw := by
  have hword : (overhead l n par s).take 8 = faw := by
    simp only [overhead, List.append_assoc]
    exact List.take_left' rfl
  rw [scrFrame, hword]
  exact List.take_left' rfl

/-- A lane that runs and has not begun the frame in progress begins it. -/
theorem frameTransmit_due (hrun : s.framerRun = true) (hpwr : s.pwr.tripped = false) (hon : s.laneOn l = true)
    (hnext : (s.lane l).txNext ≤ s.curFrame) : ∃ w k u, w.take 8 = faw ∧ k.txNext = s.curFrame + 1 ∧ k.txCell = 0 ∧
      u.outs = s.outs ∧ frameTransmit l s = (setLane l k u).emit (.fabFrame l w) := by
  have hdue : (s.framerRun && !s.pwr.tripped && s.laneOn l && decide ((s.lane l).txNext ≤ s.curFrame)) = true := by
    simp [hrun, hpwr, hon, hnext]
  unfold frameTransmit
  dsimp only
  rw [if_pos hdue]
  exact ⟨_, _, _, take_scrFrame_overhead, rfl, rfl, doIf_keeps State.outs (fun _ => turnGroup_outs) _ s, rfl⟩

/-! ### A frame that is read leaves ALIGN alone -/

theorem laneDefect_align (hl : l < 120) {d : Fld × Nat} {x : Nat} (h : Apart d.1 F.fabLaneStatAlign) :
    (laneDefect d x s).laneStat l F.fabLaneStatAlign = s.laneStat l F.fabLaneStatAlign :=
  (laneDefect_laneStat hl).trans (setLaneStat_apart h)

theorem bipCheck_regs {carried : Nat} : (bipCheck l w carried s).regs = s.regs := by
  unfold bipCheck
  dsimp only
  split
  · rfl
  · exact doIf_keeps (f := fabInc _) State.regs (fun _ => rfl) _ _

theorem showOverhead_align : (showOverhead l w s).laneStat l F.fabLaneStatAlign = s.laneStat l F.fabLaneStatAlign := by
  have hfield (u : State) (off v : Nat) {d : Fld} (h : Apart d F.fabLaneStatAlign) :
      (u.setFld off d v).laneStat l F.fabLaneStatAlign = u.laneStat l F.fabLaneStatAlign :=
    u.fld_setFld_of_apart h
  unfold showOverhead setLaneStat
  dsimp only
  iterate 9 rw [hfield _ _ _ (by decide)]

theorem aisFrame_align (hl : l < 120) {seen : Bool} :
    (aisFrame l seen s).laneStat l F.fabLaneStatAlign = s.laneStat l F.fabLaneStatAlign := by
  unfold aisFrame
  dsimp only
  split
  · split
    · exact laneDefect_align hl (by decide)
    · exact setLaneStat_apart (by decide)
  · rfl

theorem fabIrq_align : (fabIrq s).laneStat l F.fabLaneStatAlign = s.laneStat l F.fabLaneStatAlign :=
  congrArg (getF · _) (fabIrq_rd fabLaneStat_ge)

theorem rdiFrame_align {seen : Bool} :
    (rdiFrame l seen s).laneStat l F.fabLaneStatAlign = s.laneStat l F.fabLaneStatAlign := by
  unfold rdiFrame
  dsimp only
  split
  · exact (doIf_keeps (·.laneStat l F.fabLaneStatAlign) (fun _ => fabIrq_align) _ _).trans (setLaneStat_apart (by decide))
  · rfl

theorem traceAccept_align (hl : l < 120) :
    (traceAccept l w s).laneStat l F.fabLaneStatAlign = s.laneStat l F.fabLaneStatAlign := by
  have hshown : (forEach (List.range 8) (fun i s => s.wr (R.fabTtiAcc l i) (wordAt i w)) s).laneStat l F.fabLaneStatAlign =
      s.laneStat l F.fabLaneStatAlign :=
    congrArg (getF · _) (forEach_rd (fun i _ u => State.rd_wr_ne u _
      (by simp only [R.fabTtiAcc, R.fabLaneStat]; omega)) s)
  have hcompared (u : State) (k : LaneSt) (v : Nat) : (fabIrq (setLaneStat l F.fabLaneStatTraceMatch v
      (setLaneStat l F.fabLaneStatTraceDone 1 (setLane l k u)))).laneStat l F.fabLaneStatAlign =
        u.laneStat l F.fabLaneStatAlign :=
    ((fabIrq_align.trans (setLaneStat_apart (by decide))).trans (setLaneStat_apart (by decide))).trans setLane_laneStat
  unfold traceAccept
  dsimp only
  split
  · split
    · split
      · exact ((setLaneStat_apart (by decide)).trans (hcompared ..)).trans hshown
      · split
        · exact (hcompared ..).trans hshown
        · exact ((laneDefect_align hl (by decide)).trans (hcompared ..)).trans hshown
    · exact setLane_laneStat.trans hshown
  · exact hshown

/-- A trace byte is collected, and the last one of a string may have it accepted. -/
theorem traceByte_align (hl : l < 120) {fn : Nat} {b : BitVec 8} :
    (traceByte l fn b s).laneStat l F.fabLaneStatAlign = s.laneStat l F.fabLaneStatAlign := by
  have hwhole (k : LaneSt) (str : Bytes) (n : Nat) :
      (if n = 3 then traceAccept l str (setLane l k s) else setLane l k s).laneStat l F.fabLaneStatAlign =
        s.laneStat l F.fabLaneStatAlign := by
    split
    · exact (traceAccept_align hl).trans setLane_laneStat
    · exact setLane_laneStat
  unfold traceByte
  dsimp only
  split
  · exact setLane_laneStat
  · split
    · split
      · split
        · exact hwhole ..
        · exact setLane_laneStat
      · exact setLane_laneStat
    · exact setLane_laneStat

theorem gmmFrame_rd_laneStat (hl : l < 120) {g : Nat} :
    (gmmFrame g s).rd (R.fabLaneStat l) = s.rd (R.fabLaneStat l) := by
  unfold gmmFrame
  dsimp only
  split
  · split
    · exact setGroupStat_rd_laneStat hl 0
    · exact groupDefect_rd_laneStat hl
  · rfl

theorem rdiPFrame_rd_laneStat (hl : l < 120) {g : Nat} {seen : Bool} :
    (rdiPFrame g seen s).rd (R.fabLaneStat l) = s.rd (R.fabLaneStat l) := by
  unfold rdiPFrame
  dsimp only
  split
  · exact (doIf_rd (fun _ => fabIrq_rd fabLaneStat_ge) _).trans (setGroupStat_rd_laneStat hl _)
  · rfl

theorem memberFrame_rd_laneStat (hl : l < 120) {x : Nat} {rdiP : Bool} :
    (memberFrame x rdiP s).rd (R.fabLaneStat l) = s.rd (R.fabLaneStat l) :=
  (doIf_rd (fun _ => rdiPFrame_rd_laneStat hl) _).trans (doIf_rd (fun _ => gmmFrame_rd_laneStat hl) _)

theorem readFrame_align (hl : l < 120) :
    (readFrame l w s).laneStat l F.fabLaneStatAlign = s.laneStat l F.fabLaneStatAlign := by
  have hmember (u : State) (rdiP : Bool) (d : Bytes) :
      (memberFrame l rdiP (storeFrame l d u)).laneStat l F.fabLaneStatAlign = u.laneStat l F.fabLaneStatAlign :=
    congrArg (getF · _) (memberFrame_rd_laneStat hl)
  have hparity (u : State) (off k carried : Nat) :
      (fabBump off k (bipCheck l w carried u)).laneStat l F.fabLaneStatAlign = u.laneStat l F.fabLaneStatAlign :=
    congrArg (fun r => getF (smapGet regReset _ r) _) bipCheck_regs
  unfold readFrame
  dsimp only
  rw [refreshLane_laneStat hl, doIf_keeps (·.laneStat l F.fabLaneStatAlign) fun _ => hmember _ _ _, traceByte_align hl,
    rdiFrame_align, aisFrame_align hl, showOverhead_align, hparity]
  rfl

/-! ### The alignment state machine -/

theorem enterSync_align : (enterSync l s).laneStat l F.fabLaneStatAlign = 2 :=
  setLane_laneStat.trans (s.fld_setFld_same (by decide) (by decide))

theorem exec_fabFrameReceive (hl : l < 120) (hw : w.length = 10496) (hpos : pos < 83968) :
    exec (.fabFrameReceive l pos w) s = .next (frameReceive l pos w s) := guardWf_of (by simp [hl, hw, hpos])

/-- The receiver of a lane that runs and has its signal. -/
abbrev State.Listens (s : State) (l : Nat) : Prop := s.laneOn l = true ∧ s.laneFlag l F.fabLaneStatLos = false

/-- In HUNT the alignment word leads to PRESYNC. -/
theorem frameReceive_hunt (hs : s.Listens l) (ha : s.laneStat l F.fabLaneStatAlign = 0) (hw : fawErrors w = 0) :
    frameReceive l pos w s = setLane l { s.lane l with pos := pos, fn := byteAt 8 (scrFrame (w.take 9)) }
      (setLaneStat l F.fabLaneStatAlign 1 s) := by
  obtain ⟨hon, hlos⟩ := hs
  simp [frameReceive, hon, hlos, ha, hw]

/-- In PRESYNC the frame with the following number, where it is awaited, leads to SYNC and is read. -/
theorem frameReceive_presync (hs : s.Listens l) (ha : s.laneStat l F.fabLaneStatAlign = 1) (hpos : (s.lane l).pos = pos)
    (hw : fawErrors w = 0) (hfn : byteAt 8 (scrFrame (w.take 9)) = ((s.lane l).fn + 1) % 256) :
    frameReceive l pos w s = readFrame l w (enterSync l s) := by
  obtain ⟨hon, hlos⟩ := hs
  simp [frameReceive, hon, hlos, ha, hpos, hw, hfn]

/-- In SYNC the fifth frame in a row with more than two wrong bits in the word leads to HUNT. -/
theorem frameReceive_lost (hs : s.Listens l) (ha : s.laneStat l F.fabLaneStatAlign = 2) (hpos : (s.lane l).pos = pos)
    (hw : 2 < fawErrors w) (hmiss : (s.lane l).miss = 4) : frameReceive l pos w s = refreshLane l (toHunt l s) := by
  obtain ⟨hon, hlos⟩ := hs
  simp [frameReceive, hon, hlos, ha, hpos, Nat.not_le.2 hw, hmiss]

/-- Settles O27: each step of a lane writes ALIGN once, and what a frame that is read writes beside it, and what the lane's
group shows, leave ALIGN alone. -/
theorem lanesAlign : Obligations.LanesAlign := by
  intro s l pos w hl
  refine ⟨?los, fun hlos => ?lock, fun hrun hpwr hon hnext => ?send, fun hw hpos hon hlos => ?receive⟩
  case los => exact ⟨_, guardWf_of (by simp [hl]), fabLos_los hl, fabLos_align hl⟩
  case lock => exact ⟨_, guardWf_of (by simp [hl]), fabSignalLock_los hl hlos⟩
  case send =>
    obtain ⟨w, k, u, hw, hnext, hcell, houts, heq⟩ := frameTransmit_due hrun hpwr hon hnext
    refine ⟨_, w, (guardWf_of (by simp [hl])).trans (congrArg _ heq), congrArg (_ :: ·) houts, hw, ?_, ?_⟩
    · exact (congrArg LaneSt.txNext lane_setLane_same).trans hnext
    · exact (congrArg LaneSt.txCell lane_setLane_same).trans hcell
  case receive =>
    have hexec := exec_fabFrameReceive (s := s) hl hw hpos
    refine ⟨fun ha hfaw => ?hunt, fun ha hat hfaw hfn => ?presync, fun ha hat hfaw hmiss => ?lost⟩
    case hunt =>
      refine ⟨_, hexec.trans (congrArg _ (frameReceive_hunt ⟨hon, hlos⟩ ha hfaw)),
        setLane_laneStat.trans (s.fld_setFld_same (by decide) (by decide)), ?_, ?_⟩
      · exact congrArg LaneSt.pos lane_setLane_same
      · exact congrArg LaneSt.fn lane_setLane_same
    case presync =>
      exact ⟨_, hexec.trans (congrArg _ (frameReceive_presync ⟨hon, hlos⟩ ha hat hfaw hfn)),
        (readFrame_align hl).trans enterSync_align⟩
    case lost => exact hexec.trans (congrArg _ (frameReceive_lost ⟨hon, hlos⟩ ha hat hfaw hmiss))

end Sys2Proof.Machine
end

section
/-! SUPPORT. O26: what a lane's group has read, and a lane of no such group as it comes: cells and messages (R310, R317, R318,
R335, R339). -/

namespace Sys2Proof.Machine

variable {s u : State} {g l pos key seq : Nat} {c : Bytes} {w : Word} {m : CreditMsg}

/-! ### A group is read -/

theorem groupFrameRead_due (hen : s.groupEn g = true) (hcfg : s.groupCfgOk g = true) (hdue : (s.linkGroup g).readAt ≤ s.fab.ref)
    (hlate : s.fab.ref < (s.linkGroup g).readAt + 64) : groupFrameRead g s = groupAdvance g (s.groupSize g)
      (setGroup g { s.linkGroup g with readAt := (s.linkGroup g).readAt + 64 } s) := by
  simp [groupFrameRead, hen, hcfg, hdue, hlate]

/-! ### A cell or a message is taken -/

/-- From `s` to `u` only what the link groups hold differs. -/
def Regroups (s u : State) : Prop := ∃ groups, u = { s with fab := { s.fab with groups := groups } }

theorem regroups_setGroup {k : GroupSt} : Regroups s (setGroup g k s) := ⟨_, rfl⟩

theorem Regroups.refl : Regroups s s := ⟨_, rfl⟩

/-- A cell that comes is the next one that the lane's group has read, or the group does not read. -/
theorem takeCell_eq (ht : s.twinLane l = false)
    (h : ((s.linkGroup (s.laneGroup l)).cells.head? = some (l, pos, c) ∧
        u = setGroup (s.laneGroup l)
          { s.linkGroup (s.laneGroup l) with cells := (s.linkGroup (s.laneGroup l)).cells.tail } s) ∨
      ((s.linkGroup (s.laneGroup l)).cells.head? ≠ some (l, pos, c) ∧ s.groupReads (s.laneGroup l) = false ∧ u = s)) :
    Regroups s u ∧ takeCell l pos c s = cellReceive l pos c u := by
  rcases h with ⟨hhead, rfl⟩ | ⟨hhead, hreads, rfl⟩
  · exact ⟨regroups_setGroup, if_pos (by simp [ht, hhead])⟩
  · exact ⟨.refl, (if_neg (by simp [hhead])).trans (if_pos (by simp [hreads]))⟩

/-- A message that comes is one that the lane's group has read, or the group does not read. -/
theorem takeMsg_eq (ht : s.twinLane l = false)
    (h : ((l, w) ∈ (s.linkGroup (s.laneGroup l)).inMsgs ∧
        u = setGroup (s.laneGroup l)
          { s.linkGroup (s.laneGroup l) with inMsgs := (s.linkGroup (s.laneGroup l)).inMsgs.erase (l, w) } s) ∨
      ((l, w) ∉ (s.linkGroup (s.laneGroup l)).inMsgs ∧ s.groupReads (s.laneGroup l) = false ∧ u = s)) :
    Regroups s u ∧ takeMsg l w s = msgReceive l w u := by
  rcases h with ⟨hmem, rfl⟩ | ⟨hmem, hreads, rfl⟩
  · exact ⟨regroups_setGroup, if_pos (by simp [ht, hmem])⟩
  · exact ⟨.refl, (if_neg (by simp [hmem])).trans (if_pos (by simp [hreads]))⟩

/-! ### A routed cell -/

theorem cellReceive_routed (hsync : s.inSync l = true) (ht : s.twinLane l = false) (hhec : hecOk c = true)
    (htype : cellType c = 1) (hdest : cellDest c = s.devIndex) : cellReceive l pos c s = routedReceive l c s := by
  simp [cellReceive, hsync, ht, hhec, htype, hdest]

/-- The first cell of a packet, good and on a group that is up, opens it. -/
theorem routedReceive_first (hgood : pcrcOk c = true) (hfirst : cellFirst c = true) (hnum : cellNum c = 0)
    (hup : s.flag (R.fabGroupStat (s.laneGroup l)) F.fabGroupStatUp = true) :
    routedReceive l c s = firstCell (s.laneGroup l) (reasmKey (cellSrc c) (cellGroup c) (cellTc c)) c s := by
  simp [routedReceive, hgood, hfirst, hnum, hup]

/-- The packet that a first cell opens: its metadata and the bytes after them. -/
def openedPkt (c : Bytes) (now : Nat) : Packet :=
  { noPacket with place := .bridge, stream := 97, md := slice 0 32 (cellPay c), bytes := (cellPay c).drop 32,
                  tailIn := cellLast c || cellStomp c, stomp := cellStomp c, stamp := now }

theorem seqCheck_fab : ∃ fab, seqCheck key seq s = { s with fab := fab } := by
  unfold seqCheck doIf
  dsimp only
  split
  · split <;> exact ⟨_, rfl⟩
  · exact ⟨_, rfl⟩

theorem newPkt_arrivals {p : Packet} : (newPkt p s).q.arrivals = s.q.arrivals := by
  show (touchPair p s).q.arrivals = _
  rw [touchPair_q]

/-- With room for a context that is not in use, a first cell lists its packet and sends it to the queue engine. -/
theorem firstCell_room (hroom : s.ctxOpen < 32768) (hnone : smapFind key s.fab.ctx = none) : ∃ fab fab', firstCell g key c s =
    { arrive 16 s.q.nextPkt (newPkt (openedPkt c s.now) { s with fab := fab }) with fab := fab' } := by
  obtain ⟨fab, hfab⟩ := seqCheck_fab (key := key) (seq := cellSeqNo c) (s := fabInc (R.fabGroupCtr g 5) s)
  have hcounted : seqCheck key (cellSeqNo c) (fabInc (R.fabGroupCtr g 5) s) = { s with fab := fab } := hfab
  unfold firstCell
  dsimp only
  rw [hnone]
  dsimp only
  rw [if_neg (Nat.not_le.2 hroom), hcounted]
  exact ⟨fab, _, rfl⟩

theorem arrive_arrivals {r id : Nat} : smapGet (fun _ => []) r (arrive r id s).q.arrivals =
    smapGet (fun _ => []) r s.q.arrivals ++ [id] := smapGet_insert_same

/-- The packet that a first cell opens is listed, and is the last one on its way to the queue engine. -/
theorem firstCell_opens (hroom : s.ctxOpen < 32768) (hnone : smapFind key s.fab.ctx = none) :
    (firstCell g key c s).pkt s.q.nextPkt = some (openedPkt c s.now) ∧
      smapGet (fun _ => []) 16 (firstCell g key c s).q.arrivals =
        smapGet (fun _ => []) 16 s.q.arrivals ++ [s.q.nextPkt] := by
  obtain ⟨fab, fab', heq⟩ := firstCell_room (g := g) (c := c) hroom hnone
  have hlisted : (newPkt (openedPkt c s.now) { s with fab := fab }).pkt s.q.nextPkt = some (openedPkt c s.now) := newPkt_pkt
  rw [heq]
  refine ⟨hlisted, arrive_arrivals.trans ?_⟩
  rw [newPkt_arrivals]

theorem cellReceive_opens (hsync : s.inSync l = true) (ht : s.twinLane l = false) (hhec : hecOk c = true)
    (htype : cellType c = 1) (hdest : cellDest c = s.devIndex) (hgood : pcrcOk c = true) (hfirst : cellFirst c = true)
    (hnum : cellNum c = 0) (hup : s.flag (R.fabGroupStat (s.laneGroup l)) F.fabGroupStatUp = true)
    (hroom : s.ctxOpen < 32768) (hnone : smapFind (reasmKey (cellSrc c) (cellGroup c) (cellTc c)) s.fab.ctx = none) :
    (cellReceive l pos c s).pkt s.q.nextPkt = some (openedPkt c s.now) ∧
      smapGet (fun _ => []) 16 (cellReceive l pos c s).q.arrivals =
        smapGet (fun _ => []) 16 s.q.arrivals ++ [s.q.nextPkt] := by
  rw [cellReceive_routed hsync ht hhec htype hdest, routedReceive_first hgood hfirst hnum hup]
  exact firstCell_opens hroom hnone

/-! ### A scheduled cell -/

theorem cellReceive_sched (hsync : s.inSync l = true) (ht : s.twinLane l = false) (hhec : hecOk c = true)
    (htype : cellType c = 2) (hclean : s.laneClean l = true) (hgood : pcrcOk c = true) : cellReceive l pos c s =
      { s with cal := { s.cal with cells := s.cal.cells ++ [{ lane := l, pos := pos, cell := c, bad := false }] } } := by
  simp [cellReceive, schedReceive, hsync, ht, hhec, htype, hclean, hgood]

/-! ### A credit message -/

/-- A word that says something carries its check and no reserved type. -/
theorem creditOf_some (h : creditOf w = some m) :
    crc8 (toBe 7 (w.toNat / 256)) = w.toNat % 256 ∧ nbits w.toNat 63 62 ≠ 3 := by
  unfold creditOf at h
  dsimp only at h
  split at h
  · cases h
  · next hcheck =>
    refine ⟨by simpa using hcheck, fun htype => ?_⟩
    rw [htype] at h
    cases h

theorem msgReceive_credit (hsync : s.inSync l = true) (ht : s.twinLane l = false)
    (hais : s.laneFlag l F.fabLaneStatAis = false) (htim : s.laneFlag l F.fabLaneStatTim = false)
    (hm : creditOf w = some m) (hdev : msgTarget m = s.devIndex) : msgReceive l w s = takeCredit m s := by
  obtain ⟨hcheck, htype⟩ := creditOf_some hm
  simp [msgReceive, hsync, ht, hais, htim, hcheck, htype, hm, hdev]

end Sys2Proof.Machine
end

section
/-! SUPPORT. O26: waits and holds that end, and the latch of the counters at a whole second (R333, R336, R340). -/

namespace Sys2Proof.Machine

variable {s : State} {d key off at_ : Nat} {x : Reasm}

/-! ### Waits and holds -/

/-- A context that has waited for its next cell too long is closed, and its packet ends with a stomp. -/
theorem reasmTimeout_due (hx : smapFind key s.fab.ctx = some x) (hopen : x.open_ = true)
    (hdue : x.at_ + usT (s.fld R.fabRxCfg F.fabRxCfgReasmTimeoutUs) ≤ s.now) : reasmTimeout key s =
      setReasm key { x with open_ := false } (endPacket x.pkt true (fabInc (R.fabDevCtr 3) s)) := by
  have hcounted : smapFind key (fabInc (R.fabDevCtr 3) s).fab.ctx = some x := hx
  simp [reasmTimeout, stompCtx, hx, hcounted, hopen, hdue]

theorem repinGuard_due (hd : smapFind d s.fab.hold = some at_) (hdue : at_ ≤ s.now) :
    (repinGuard d s).repinHeld d = false := by
  rw [repinGuard, hd]
  dsimp only
  rw [if_pos hdue]
  exact congrArg Option.isSome smapFind_erase_same

/-! ### The latch -/

/-- The judgement of DEG signals, and counts nothing. -/
theorem signals_degJudge {l : Nat} : Signals s (degJudge l s) :=
  (signals_setFld ..).trans (.doIf (fun _ => (signals_report (by decide) ..).trans signals_fabIrq) _)

theorem signals_degJudgeAll : Signals s (forEach (List.range 120) degJudge s) := .forEach (fun _ _ => signals_degJudge) _

/-- Where no two words go to the same register, each register reads as it was written. -/
theorem forEach_wr_rd {ws : List (Nat × Word)} {e : Nat × Word} (hdup : (ws.map (·.1)).Nodup) (he : e ∈ ws) :
    (forEach ws (fun e s => s.wr e.1 e.2) s).rd e.1 = e.2 :=
  forEach_establishes (I := fun _ => True) (Q := fun u => u.rd e.1 = e.2) (fun _ _ _ _ => trivial)
    (fun u _ => u.rd_wr_same e.1 e.2)
    (fun _ hb hne u hu => (State.rd_wr_ne u _ fun hkey => hne (List.inj_on_of_nodup_map hdup hb he hkey.symm)).trans hu)
    he trivial

/-- The state in which DEG is judged and every counter is latched. -/
def countersLatched (s : State) : State := latchAll (forEach (List.range 120) degJudge s)

theorem countersLatched_rd {e : Nat × Word} (hdup : (s.fab.ctr.map (·.1)).Nodup) (he : e ∈ s.fab.ctr) :
    (countersLatched s).rd e.1 = e.2 := by
  obtain ⟨regs, host, outs, hjudged⟩ := signals_degJudgeAll (s := s)
  rw [countersLatched, hjudged]
  exact forEach_wr_rd hdup he

/-- The counters are latched, and the latch's stamp holds the time of the second. -/
def secondStamped (s : State) : State :=
  let at_ := s.now / ticksPerSec * ticksPerSec
  ((countersLatched s).wr R.fabPmStamp0 (BitVec.ofNat 64 (stampLo at_))).setFld R.fabPmStamp1 F.fabPmStamp1TsHigh (stampHi at_)

theorem pmLatch_due (h : s.fab.second < s.now / ticksPerSec) : pmLatch s =
    { secondStamped s with fab := { (secondStamped s).fab with second := s.now / ticksPerSec } } := by
  unfold pmLatch secondStamped countersLatched
  dsimp only
  rw [if_neg (Nat.not_le.2 h)]

theorem pmLatch_rd (h : s.fab.second < s.now / ticksPerSec) : (pmLatch s).rd off = (secondStamped s).rd off := by
  have hfab (u : State) (fab : FabSt) : ({ u with fab := fab } : State).rd off = u.rd off := rfl
  rw [pmLatch_due h, hfab]

theorem secondStamped_stamp :
    (secondStamped s).rd R.fabPmStamp0 = BitVec.ofNat 64 (stampLo (s.now / ticksPerSec * ticksPerSec)) :=
  (State.rd_setFld_ne _ _ _ (by decide)).trans (State.rd_wr_same ..)

theorem ge_of_fabLatched (h : fabLatched off = true) : R.fabLaneCtr 0 0 ≤ off := by
  simp only [fabLatched, Bool.or_eq_true, Bool.and_eq_true, decide_eq_true_eq] at h
  simp only [R.fabLaneCtr, R.fabGroupCtr, R.fabDevCtr] at h ⊢
  omega

/-- A latched counter is neither half of the latch's stamp. -/
theorem ne_fabPmStamp_of_fabLatched (h : fabLatched off = true) : off ≠ R.fabPmStamp0 ∧ off ≠ R.fabPmStamp1 := by
  have hge := ge_of_fabLatched h
  simp only [R.fabLaneCtr, R.fabPmStamp0, R.fabPmStamp1] at hge ⊢
  omega

theorem secondStamped_rd (h : fabLatched off = true) : (secondStamped s).rd off = (countersLatched s).rd off := by
  obtain ⟨h0, h1⟩ := ne_fabPmStamp_of_fabLatched h
  exact (State.rd_setFld_ne _ _ _ h1).trans (State.rd_wr_ne _ _ h0)

/-- Settles O26: what comes is taken on the state that its group leaves, where each takes one branch of the receiver; waits and
holds end at their time, and the latch writes each counter's register once. -/
theorem fabricReceives : Obligations.FabricReceives := by
  intro s g l pos d key src tc c w x u
  refine ⟨fun hg hen hcfg _ hdue hlate => ?read, fun hl hpos hlen hsync ht hu => ?cell,
    fun hl hsync ht hais htim hu m hm hdev => ?message, fun hsrc hg htc hkey hx hopen hdue => ?timeout,
    fun at_ hd hat hdue => ?hold, fun hsec => ?latch⟩
  case read => exact (guardWf_of (decide_eq_true hg)).trans (congrArg _ (groupFrameRead_due hen hcfg hdue hlate))
  case cell =>
    obtain ⟨⟨groups, rfl⟩, htake⟩ := takeCell_eq ht hu
    have hexec := (guardWf_of (ok := decide (l < 120) && decide (pos < 10240) && (c.length == 256))
      (by simp [hl, hpos, hlen])).trans (congrArg Host.Outcome.next htake)
    refine ⟨fun hhec htype hdest hgood hfirst hnum hup hroom hnone => ?routed, fun hhec htype hclean hgood => ?sched⟩
    case routed =>
      obtain ⟨hlisted, harrivals⟩ := cellReceive_opens (s := { s with fab := { s.fab with groups := groups } }) (pos := pos)
        hsync ht hhec htype hdest hgood hfirst hnum hup hroom hnone
      exact ⟨_, _, hexec, hlisted, rfl, rfl, rfl, harrivals⟩
    case sched =>
      exact hexec.trans (congrArg _ (cellReceive_sched (s := { s with fab := { s.fab with groups := groups } })
        hsync ht hhec htype hclean hgood))
  case message =>
    obtain ⟨⟨groups, rfl⟩, htake⟩ := takeMsg_eq ht hu
    exact (guardWf_of (decide_eq_true hl)).trans (congrArg _ (htake.trans
      (msgReceive_credit (s := { s with fab := { s.fab with groups := groups } }) hsync ht hais htim hm hdev)))
  case timeout =>
    subst hkey
    exact (guardWf_of (by simp [hsrc, hg, htc])).trans (congrArg _ (reasmTimeout_due hx hopen hdue))
  case hold => exact ⟨_, guardWf_of (decide_eq_true hd), repinGuard_due hat hdue⟩
  case latch =>
    refine ⟨pmLatch s, guardWf_of rfl, ?second, (pmLatch_rd hsec).trans secondStamped_stamp,
      fun hdup e he hlatched => ?counter⟩
    case second => rw [pmLatch_due hsec]
    case counter => exact ((pmLatch_rd hsec).trans (secondStamped_rd hlatched)).trans (countersLatched_rd hdup he)

end Sys2Proof.Machine
end

section
/-! SUPPORT. The statements on the whole machine (O1, O3, O50) and on what reset leaves (O52). -/

namespace Sys2Proof.Machine

variable {s t : State} {fn : Fn}

/-! ### Steps -/

theorem State.Sound.kept (h : s.Sound) : Kept s.pending s.flash.owner s.outs s :=
  ⟨h.regs, rfl, rfl, h.erqF, h.erqT, List.suffix_rfl⟩

theorem Kept.sound {kl : List Instr} {ko : List OwnerCfg} {ku : List Out} (h : Kept kl ko ku s) : s.Sound :=
  ⟨h.regs, h.erqF, h.erqT⟩

/-- Settles O1: a step is a reference period or a command, and each keeps what Kept says. -/
theorem stepKeepsSound : Obligations.StepKeepsSound := by
  intro s t hs hstep
  unfold step at hstep
  split at hstep
  case h_1 =>
    cases hstep
    exact (kept_idleTick hs.kept).sound
  case h_2 c rest _ =>
    have hrest : State.Sound { s with pending := rest } := ⟨hs.regs, hs.erqF, hs.erqT⟩
    exact (kept_exec hstep hrest.kept).sound

/-- Settles O50: a step matches on the queue. -/
theorem stepRunsTheFrontCommand : Obligations.StepRunsTheFrontCommand := fun _ _ _ => rfl

/-- Every command is guarded by the check of its operands. -/
theorem exec_guarded (i : Instr) (s : State) : ∃ t, exec i s = guardWf i.wf t := by
  cases i <;> exact ⟨_, rfl⟩

/-- Settles O3: the guard of every command is its well-formedness. -/
theorem wellFormedCommandsAnswer : Obligations.WellFormedCommandsAnswer := by
  intro i s
  obtain ⟨t, ht⟩ := exec_guarded i s
  rw [ht]
  exact ⟨fun h => ⟨t, guardWf_of h⟩, fun h => by rw [h]; rfl⟩

/-! ### Reset -/

/-- No function answers a configuration request with success before the map is locked. -/
theorem configAnswer_unlocked (h : s.locked = false) :
    s.configAnswer fn = if s.bootStateOf == 0 || !presented s.boot.straps.pcieMode fn || s.host.perst.getD fn.port false
      then .silent else .retry := by
  unfold State.configAnswer
  rw [h]
  rfl

/-- In Capture-DR the IDCODE instruction loads the number of the device, whatever TMS says. -/
theorem tapClock_captures_idcode {a : TapSt} {pins : List Bool} {tdi tms : Bool} (hc : a.ctl = .captDr)
    (hi : a.instr = .idcode) : (tapClock tms tdi pins a).dr = lsbFirst 32 0x109600F3 := by
  unfold tapClock tapAct tapActIn
  rw [hc, hi]
  rfl

/-- Settles O52: the reset values are closed facts; a configuration request and a clock of the TAP follow their cases. -/
theorem resetRegisters : Obligations.ResetRegisters := by
  refine ⟨by decide, by decide, by decide, by decide, by decide, by decide, by decide, by decide,
    fun s fn hl => ?unlocked, fun s fn hl hb hp hr => ?retry, fun a pins tdi tms hc hi => tapClock_captures_idcode hc hi, rfl⟩
  case unlocked =>
    rw [configAnswer_unlocked hl]
    split <;> decide
  case retry =>
    rw [configAnswer_unlocked hl, hp, hr, beq_false_of_ne hb]
    rfl

end Sys2Proof.Machine
end

section
/-! SUPPORT. Error records: O57 (R399, R401) and O45 (R400, R402). -/

namespace Sys2Proof.Machine

variable {s t u : State} {d : Die} {fn : Fn} {p n off : Nat}

/-! ### What interrupts leave of the host interface -/

/-- From `s` to `t` interrupts have been raised: they change registers, the messages that wait under a mask, the pins that a
fatal source holds, and what has left the device. -/
def Raises (s t : State) : Prop :=
  ∃ regs outs pend forced, t = { s with
    regs := regs, outs := outs, host := { s.host with msixPend := pend, forced := forced } }

theorem Raises.refl : Raises s s := ⟨_, _, _, _, rfl⟩

theorem Raises.trans (h : Raises s t) (k : Raises t u) : Raises s u := by
  obtain ⟨_, _, _, _, rfl⟩ := h
  obtain ⟨_, _, _, _, rfl⟩ := k
  exact ⟨_, _, _, _, rfl⟩

theorem Raises.doIf {f : State → State} (hf : ∀ s, Raises s (f s)) (c : Bool) : Raises s (doIf c f s) := by
  cases c
  · exact .refl
  · exact hf s

theorem Raises.forEach {α : Type} {f : α → State → State} (hf : ∀ a s, Raises s (f a s)) (as : List α) :
    Raises s (forEach as f s) := by
  unfold Machine.forEach
  induction as generalizing s with
  | nil => exact .refl
  | cons a as ih => exact (hf a s).trans ih

theorem raises_wr (off : Nat) (v : Word) : Raises s (s.wr off v) := ⟨_, _, _, _, rfl⟩

theorem raises_sendMsi (p src : Nat) : Raises s (sendMsi p src s) := by
  unfold sendMsi
  dsimp only
  split
  · exact ⟨_, _, _, _, rfl⟩
  · split <;> exact ⟨_, _, _, _, rfl⟩

theorem raises_intWrite (p src0 n statOff enOff : Nat) (stat en : Word) :
    Raises s (intWrite p src0 n statOff enOff stat en s) :=
  ((raises_wr ..).trans (raises_wr ..)).trans (.forEach (fun i _ => .doIf (fun _ => raises_sendMsi p (src0 + i)) _) _)

theorem raises_raiseSrc (p src : Nat) : Raises s (raiseSrc p src s) := by
  unfold raiseSrc
  split
  · split <;> exact raises_intWrite ..
  · exact .refl

theorem raises_raiseBlock (src blk : Nat) : Raises s (raiseBlock src blk s) :=
  .forEach (fun p _ => .doIf (fun _ => raises_raiseSrc p src) _) _

theorem raises_raiseRight (src right : Nat) : Raises s (raiseRight src right s) :=
  .forEach (fun p _ => .doIf (fun _ => raises_raiseSrc p src) _) _

theorem raises_raiseFatal (src : Nat) : Raises s (raiseFatal src s) := by
  refine .forEach (fun p s => ?_) _
  split
  · exact .trans (t := { s.wr (R.intStatus p) (setBit (s.rd (R.intStatus p)) src true) with host := { s.host with
        forced := s.host.forced.set p (s.host.forced.getD p 0 ||| 2 ^ src) } }) ⟨_, _, _, _, rfl⟩ (raises_sendMsi p src)
  · exact .refl

theorem raises_doneIrq (i : Ifc) : Raises s (doneIrq i s) := by
  cases i with
  | plate | ppm | sched | twin => exact .doIf (fun _ => raises_raiseBlock ..) _
  | upd => exact .doIf (fun _ => raises_raiseRight ..) _
  | tbl p => exact .refl
  | asa p | bpm p | q p | burin p | mbx p | sealE => exact .doIf (fun _ => raises_raiseSrc ..) _

theorem raises_complete (i : Ifc) (code detail : Nat) : Raises s (complete i code detail s) :=
  (raises_wr ..).trans (raises_doneIrq i)

theorem Raises.erq (h : Raises s t) (d : Die) : t.erq d = s.erq d := by
  obtain ⟨_, _, _, _, rfl⟩ := h
  cases d <;> rfl

theorem twinFall_erq : (twinFall s).erq d = s.erq d := by
  unfold twinFall
  split
  · exact ((Raises.doIf (fun _ => raises_raiseBlock 16 15) _).erq d).trans (by cases d <;> rfl)
  · rfl

theorem setErq_erq (q : List ErqRec) : (setErq d q s).erq d = q := by cases d <;> rfl

/-! ### An occurrence meets the queue -/

theorem mergeRec_of_first {l m : List ErqRec} {r : ErqRec} {unit code now : Nat}
    (hl : ∀ x ∈ l, ¬(x.unit = unit ∧ x.code = code)) (hr : r.unit = unit ∧ r.code = code) :
    mergeRec unit code now (l ++ r :: m) = some (l ++ { r with count := min (r.count + 1) 65535, last := now } :: m) := by
  induction l with
  | nil => exact if_pos hr
  | cons x l ih =>
    rw [List.cons_append, mergeRec, if_neg (hl x List.mem_cons_self), ih (fun y hy => hl y (List.mem_cons_of_mem _ hy))]
    rfl

theorem mergeRec_of_none {l : List ErqRec} {unit code now : Nat} (hl : ∀ x ∈ l, ¬(x.unit = unit ∧ x.code = code)) :
    mergeRec unit code now l = none := by
  induction l with
  | nil => rfl
  | cons x l ih =>
    rw [mergeRec, if_neg (hl x List.mem_cons_self), ih (fun y hy => hl y (List.mem_cons_of_mem _ hy))]
    rfl

theorem showFatal_erq (n : Nat) (r : ErqRec) : (showFatal n r s).erq d = s.erq d :=
  (Raises.doIf (fun _ => .trans (raises_wr ..) (.forEach (fun _ _ => raises_wr ..) _)) _).erq d

/-- What an occurrence leaves of its queue: what merging, queueing or dropping it leaves, whatever its severity raises. -/
theorem report_erq (cls inst : Nat) (sev : Sev) (code : Nat) (items : List (Nat × Nat)) :
    (report d cls inst sev code items s).erq d = (queueRec d (recOf d cls inst sev code items s) s).erq d := by
  by_cases hsev : sev = .f
  · subst hsev
    rw [report_fatal_eq, doIf_keeps (fun s => s.erq d) (fun _ => twinFall_erq), (raises_raiseFatal _).erq]
    unfold queueRec
    rw [showFatal_erq]
    split
    · rw [setErq_erq, setErq_erq]
    · split
      · rw [setErq_erq, setErq_erq]
      · exact (showFatal_erq ..)
  · obtain ⟨b, hb⟩ := report_eq_of_not_fatal (s := s) hsev d cls inst code items
    rw [hb]
    exact (Raises.doIf (fun _ => raises_raiseBlock ..) b).erq d

theorem queueRec_merges {r : ErqRec} {q : List ErqRec} (h : mergeRec r.unit r.code r.stamp (s.erq d) = some q) :
    queueRec d r s = setErq d q s := by
  unfold queueRec
  rw [h]

theorem queueRec_appends {r : ErqRec} (h : mergeRec r.unit r.code r.stamp (s.erq d) = none) (hl : (s.erq d).length < 64) :
    queueRec d r s = setErq d (s.erq d ++ [r]) s := by
  unfold queueRec
  rw [h]
  exact if_pos hl

/-- An occurrence that finds the queue full is dropped. -/
def dropRec (d : Die) (s : State) : State := (s.setFld (R.erqStat d.num) F.erqStatErqOvf 1).inc (R.erqDropped d.num)

theorem queueRec_drops {r : ErqRec} (h : mergeRec r.unit r.code r.stamp (s.erq d) = none) (hl : 64 ≤ (s.erq d).length) :
    queueRec d r s = dropRec d s := by
  unfold queueRec
  rw [h]
  exact if_neg (by omega)

theorem dropRec_erq : (dropRec d s).erq d = s.erq d := by cases d <;> rfl

theorem erqDropped_ne_erqStat (m n : Nat) : R.erqDropped m ≠ R.erqStat n := by
  simp only [R.erqDropped, R.erqStat]
  omega

theorem Die.num_lt (d : Die) : d.num < 2 := by cases d <;> decide

theorem dropRec_dropped : (dropRec d s).rd (R.erqDropped d.num) = s.rd (R.erqDropped d.num) + 1 := by
  rw [dropRec, State.rd_inc_same, State.rd_setFld_ne _ _ _ (erqDropped_ne_erqStat _ _)]

theorem dropRec_ovf : (dropRec d s).flag (R.erqStat d.num) F.erqStatErqOvf = true := by
  rw [State.flag, State.fld, dropRec, State.rd_inc_ne _ (erqDropped_ne_erqStat _ _).symm,
    State.rd_setFld_same, getF_setF _ _ _ (by decide)]
  rfl

/-- The registers that show an error queue are none that interrupts or the twin controller's state are shown in. -/
theorem erqReg_apart {n : Nat} (hn : n < 2) (h : off = R.erqStat n ∨ off = R.erqDropped n) :
    (∀ p < 4, ¬IntReg p off) ∧ off ≠ R.twinState := by
  simp only [IntReg, R.intStatus, R.intEnable, R.intRingStatus, R.intRingEnable, R.twinState, R.erqStat, R.erqDropped] at h ⊢
  refine ⟨fun p hp => ?_, ?_⟩ <;> omega

theorem twinFall_rd (hint : ∀ p < 4, ¬IntReg p off) (ht : off ≠ R.twinState) : (twinFall s).rd off = s.rd off := by
  unfold twinFall
  split
  · exact (doIf_rd (raiseBlock_rd hint) _).trans (State.rd_setFld_ne _ _ _ ht)
  · rfl

theorem showFatal_dropped (n : Nat) (r : ErqRec) : (showFatal n r s).rd (R.erqDropped n) = s.rd (R.erqDropped n) := by
  have hne : ∀ i ∈ [0, 1, 2, 3], R.erqDropped n ≠ R.erqFatal n i := fun i hi => by
    simp only [R.erqDropped, R.erqFatal, List.mem_cons, List.not_mem_nil, or_false] at hi ⊢
    omega
  exact doIf_rd (fun s => (forEach_rd (fun i hi s => State.rd_wr_ne s _ (hne i hi)) _).trans
    (State.rd_setFld_ne s _ _ (erqDropped_ne_erqStat _ _))) s

/-- An occurrence that finds no record of its kind and the queue full shows in ERQ_STAT and ERQ_DROPPED as one that is
dropped, whatever its severity raises. -/
theorem report_drops {cls inst code : Nat} {sev : Sev} {items : List (Nat × Nat)}
    (hnone : mergeRec (1024 * cls + inst % 1024) (16384 * sev.bits + code) (s.nowOf d) (s.erq d) = none)
    (hfull : 64 ≤ (s.erq d).length) :
    ∃ v, v.rd (R.erqDropped d.num) = s.rd (R.erqDropped d.num) ∧
      ∀ off, off = R.erqStat d.num ∨ off = R.erqDropped d.num →
        (report d cls inst sev code items s).rd off = (dropRec d v).rd off := by
  by_cases hsev : sev = .f
  · subst hsev
    refine ⟨_, showFatal_dropped d.num (recOf d cls inst .f code items s), fun off h => ?_⟩
    obtain ⟨hint, htwin⟩ := erqReg_apart d.num_lt h
    rw [report_fatal_eq, doIf_rd (fun _ => twinFall_rd hint htwin), raiseFatal_rd (fun p hp he => hint p hp (.inl he)),
      queueRec_drops (by rw [showFatal_erq]; exact hnone) (by rw [showFatal_erq]; exact hfull)]
  · refine ⟨s, rfl, fun off h => ?_⟩
    obtain ⟨b, hb⟩ := report_eq_of_not_fatal (s := s) hsev d cls inst code items
    rw [hb, doIf_rd (raiseBlock_rd (erqReg_apart d.num_lt h).1), queueRec_drops hnone hfull]

theorem report_of_not_fatal {sev : Sev} (h : sev ≠ .f) {cls inst code : Nat} {items : List (Nat × Nat)} :
    report d cls inst sev code items s =
      doIf ((mergeRec (1024 * cls + inst % 1024) (16384 * sev.bits + code) (s.nowOf d) (s.erq d)).isNone &&
        decide ((s.erq d).length < 64)) (raiseBlock d.num 16) (queueRec d (recOf d cls inst sev code items s) s) := by
  cases sev with
  | f => exact absurd rfl h
  | c | k => rfl

/-- One that joins a waiting record and is not fatal changes its queue and nothing else. -/
theorem report_merges {cls inst code : Nat} {sev : Sev} {items : List (Nat × Nat)} {q : List ErqRec} (hsev : sev ≠ .f)
    (h : mergeRec (1024 * cls + inst % 1024) (16384 * sev.bits + code) (s.nowOf d) (s.erq d) = some q) :
    report d cls inst sev code items s = setErq d q s := by
  have hnone : (mergeRec (1024 * cls + inst % 1024) (16384 * sev.bits + code) (s.nowOf d) (s.erq d)).isNone = false := by
    rw [h]
    rfl
  cases sev with
  | f => exact absurd rfl hsev
  | c | k =>
    rw [report_of_not_fatal hsev, hnone]
    exact queueRec_merges h

/-- Settles O57, by what the search of the queue for a record of the same kind finds. -/
theorem errorsMergeOrQueue : Obligations.ErrorsMergeOrQueue := by
  intro s d cls inst sev code items
  refine ⟨fun l r m hq hl hu hc => ?merge, fun hnone => ⟨fun hroom => ?queue, fun hfull => ?drop⟩⟩
  case merge =>
    have hm := hq ▸ mergeRec_of_first (now := s.nowOf d) (m := m) hl ⟨hu, hc⟩
    exact ⟨(report_erq ..).trans (by rw [queueRec_merges hm, setErq_erq]), fun hsev => report_merges hsev hm⟩
  case queue =>
    exact (report_erq ..).trans (by rw [queueRec_appends (mergeRec_of_none hnone) hroom, setErq_erq]; rfl)
  case drop =>
    have hm := mergeRec_of_none (now := s.nowOf d) hnone
    obtain ⟨v, hv, hrd⟩ := report_drops (cls := cls) (inst := inst) (sev := sev) (code := code) (items := items) hm hfull
    refine ⟨(report_erq ..).trans (by rw [queueRec_drops hm hfull, dropRec_erq]), ?_, ?_⟩
    · rw [hrd _ (.inr rfl), dropRec_dropped, hv]
    · rw [State.flag, State.fld, hrd _ (.inl rfl)]
      exact dropRec_ovf

/-! ### Records are acknowledged -/

theorem exec_erqAck (h : s.MayWrite fn p 16) (hn : n < 2) (v : Word) :
    exec (.erqAck fn n v) s = .next (ackWrite n v (dropHeld fn s)) := by
  refine (guardWf_of (by simp [h.shape, hn])).trans (congrArg _ ?_)
  obtain rfl | rfl : n = 0 ∨ n = 1 := by omega
  all_goals exact access_block h (d := _) (ix := _) rfl (by decide) (by decide)

theorem exec_erqFatalClr (h : s.MayWrite fn p 16) (hn : n < 2) :
    exec (.erqFatalClr fn n) s = .next (fatalClear n (dropHeld fn s)) := by
  refine (guardWf_of (by simp [h.shape, hn])).trans (congrArg _ ?_)
  obtain rfl | rfl : n = 0 ∨ n = 1 := by omega
  all_goals exact access_block h (d := _) (ix := _) rfl (by decide) (by decide)

section
variable {r : ErqRec} {rest : List ErqRec} {v : Word} (hq : s.erq (dieOf n) = r :: rest)
include hq

theorem ackWrite_whole (hseq : getF v F.erqAckSeq = s.fld (R.erqStat n) F.erqStatHeadSeq)
    (hcnt : getF v F.erqAckCount = r.count) (h0 : getF v F.erqAckCount ≠ 0) : ackWrite n v s =
      (setErq (dieOf n) rest s).setFld (R.erqStat n) F.erqStatHeadSeq ((getF v F.erqAckSeq + 1) % 65536) := by
  simp [ackWrite, hq, hseq, hcnt, hcnt ▸ h0]

theorem ackWrite_part (hseq : getF v F.erqAckSeq = s.fld (R.erqStat n) F.erqStatHeadSeq) (h0 : getF v F.erqAckCount ≠ 0)
    (hcnt : getF v F.erqAckCount < r.count) : ackWrite n v s =
      (setErq (dieOf n) ({ r with count := r.count - getF v F.erqAckCount, stamp := r.last } :: rest) s).setFld (R.erqStat n)
        F.erqStatPartial 1 := by
  simp [ackWrite, hq, hseq, h0, hcnt.ne, not_lt.2 hcnt.le]

theorem ackWrite_other (h : getF v F.erqAckSeq ≠ s.fld (R.erqStat n) F.erqStatHeadSeq ∨ getF v F.erqAckCount = 0 ∨
    r.count < getF v F.erqAckCount) : ackWrite n v s = s := by
  simp [ackWrite, hq, h]

end

theorem setFld_erq (f : Fld) (v : Nat) : (s.setFld off f v).erq d = s.erq d := by cases d <;> rfl

theorem fatalClear_flag : (fatalClear n s).flag (R.erqStat n) F.erqStatFatal = false := by
  have hne : ∀ i, R.erqStat n ≠ R.erqFatal n i := fun i => by
    simp only [R.erqStat, R.erqFatal]
    omega
  rw [State.flag, State.fld, fatalClear, forEach_rd (fun i _ s => State.rd_wr_ne s _ (hne i)), State.rd_setFld_same,
    getF_setF _ _ _ (by decide)]
  rfl

theorem fatalClear_rd {i : Nat} (hi : i < 4) : (fatalClear n s).rd (R.erqFatal n i) = 0 := by
  refine forEach_reaches (Q := fun s => s.rd (R.erqFatal n i) = 0) (a := i) (fun s => State.rd_wr_same ..)
    (fun j s hs => ?_) (by simp; omega)
  rw [State.rd_wr, hs]
  exact ite_self 0

/-- Settles O45: a write to ERQ_ACK has three cases, by SEQ and COUNT of the head record. -/
theorem errorsAreAcknowledged : Obligations.ErrorsAreAcknowledged := by
  intro s fn p n v r rest h hn hq
  have hd : (dropHeld fn s).erq (dieOf n) = r :: rest := hq ▸ by cases dieOf n <;> rfl
  refine ⟨fun hseq hcnt h0 => ?whole, fun hseq h0 hcnt => ?part, fun ho => ?other, _, exec_erqFatalClr h hn, fatalClear_flag,
    fun i hi => fatalClear_rd hi⟩
  case whole =>
    refine ⟨_, (exec_erqAck h hn v).trans (congrArg _ (ackWrite_whole hd hseq hcnt h0)), ?_, ?_⟩
    · rw [setFld_erq, setErq_erq]
    · rw [State.fld, State.rd_setFld_same, getF_setF _ _ _ (by decide), hseq]
      exact Nat.mod_mod_of_dvd _ (by decide)
  case part =>
    refine ⟨_, (exec_erqAck h hn v).trans (congrArg _ (ackWrite_part hd hseq h0 hcnt)), ?_, ?_, ?_⟩
    · rw [setFld_erq, setErq_erq]
    · rw [State.fld, State.rd_setFld_same, getF_setF_ne _ _ _ _ (by decide) (by decide) (by decide), setErq_rd]
      rfl
    · rw [State.flag, State.fld, State.rd_setFld_same, getF_setF _ _ _ (by decide)]
      rfl
  case other => exact (exec_erqAck h hn v).trans (congrArg _ (ackWrite_other hd ho))

end Sys2Proof.Machine
end

section
/-! SUPPORT. O44: the low half that a function holds (R375). -/

namespace Sys2Proof.Machine

variable {s : State} {fn : Fn} {off size : Nat} {v : Word} {hi lo : BitVec 32}

/-! ### What is held is gone once it is dropped -/

theorem smapErase_insert {α : Type} {k : Nat} {x : α} {m : SMap α} : smapErase k (smapInsert k x m) = smapErase k m := by
  induction m with
  | nil => simp [smapInsert, smapErase]
  | cons a m ih =>
    by_cases hlt : k < a.1
    · simp [smapInsert, smapErase, hlt]
    · by_cases he : k = a.1 <;> simp [smapInsert, smapErase, hlt, he, ih]

theorem smapErase_erase {α : Type} {k : Nat} {m : SMap α} : smapErase k (smapErase k m) = smapErase k m := by
  induction m with
  | nil => rfl
  | cons a m ih => by_cases he : k = a.1 <;> simp [smapErase, he] <;> simpa [he] using ih

theorem dropHeld_dropHeld : dropHeld fn (dropHeld fn s) = dropHeld fn s := by
  simp [dropHeld, smapErase_erase]

theorem holdLow_reached (hr : s.reached fn = true) :
    holdLow fn off lo s = { s with host := { s.host with held := smapInsert (fnKey fn) (off, lo) s.host.held } } := if_pos hr

theorem dropHeld_holdLow : dropHeld fn (holdLow fn off lo s) = dropHeld fn s := by
  unfold holdLow
  split
  · simp [dropHeld, smapErase_insert]
  · rfl

theorem holdLow_find (hr : s.reached fn = true) :
    smapFind (fnKey fn) (holdLow fn off lo s).host.held = some (off, lo) := by
  rw [holdLow_reached hr]
  exact smapFind_insert_same

theorem holdLow_presents : (holdLow fn off lo s).reached fn = s.reached fn := by
  unfold holdLow
  split <;> rfl

/-! ### An access acts on the state that holds nothing -/

theorem access_dropHeld {acc : Nat} {k : Nat → RegDesc → List Nat → State → State} (hr : s.reached fn = true) :
    access fn off acc k (dropHeld fn s) = access fn off acc k s := by
  have hd : (dropHeld fn s).reached fn = true := hr
  unfold access
  rw [hr, hd, dropHeld_dropHeld]
  rfl

theorem hostWrite_dropHeld (hr : s.reached fn = true) : hostWrite fn off v (dropHeld fn s) = hostWrite fn off v s :=
  access_dropHeld hr

theorem hostRead_dropHeld {half : Nat} (hr : s.reached fn = true) :
    hostRead fn off half (dropHeld fn s) = hostRead fn off half s := by
  have hd : (dropHeld fn s).reached fn = true := hr
  unfold hostRead
  rw [hr, hd, dropHeld_dropHeld]
  rfl

theorem bar2Store_dropHeld (hr : s.reached fn = true) :
    bar2Store fn off size v (dropHeld fn s) = bar2Store fn off size v s := by
  have hd : (dropHeld fn s).reached fn = true := hr
  unfold bar2Store
  rw [hr, hd, dropHeld_dropHeld]
  rfl

theorem bar2Load_dropHeld (hr : s.reached fn = true) :
    bar2Load fn off size (dropHeld fn s) = bar2Load fn off size s := by
  have hd : (dropHeld fn s).reached fn = true := hr
  unfold bar2Load
  rw [hr, hd, dropHeld_dropHeld]
  rfl

/-! ### The rows -/

theorem exec_regWrite_dropHeld (hr : s.reached fn = true) (hal : off % 8 = 0) :
    exec (.regWrite fn off 8 v) (dropHeld fn s) = exec (.regWrite fn off 8 v) s := by
  have heff : ∀ u, exec (.regWrite fn off 8 v) u = guardWf (fnOk fn && barOk off)
      (if inBar2 off then bar2Store fn (off - 2 ^ 28) 8 v u else hostWrite fn off v u) := fun u => by
    simp [exec, execRegWrite, regWrite, hal]
  rw [heff, heff, bar2Store_dropHeld hr, hostWrite_dropHeld hr]

theorem regRead_dropHeld (hr : s.reached fn = true) (hal : off % 8 = 0) (hs : size = 8 ∨ size = 4) :
    regRead fn off size (dropHeld fn s) = regRead fn off size s := by
  have h4 : off % 4 = 0 := by omega
  rcases hs with rfl | rfl <;> simp [regRead, read64, read32, hal, h4, hostRead_dropHeld hr]

theorem exec_readClear_dropHeld (hr : s.reached fn = true) (hal : off % 8 = 0) :
    exec (.readClear fn off 8) (dropHeld fn s) = exec (.readClear fn off 8) s := by
  show guardWf _ (barRead fn off 8 (dropHeld fn s)) = guardWf _ (barRead fn off 8 s)
  unfold barRead
  rw [bar2Load_dropHeld hr, regRead_dropHeld hr hal (.inl rfl)]

theorem exec_counterLowRead_dropHeld (hr : s.reached fn = true) (hal : off % 8 = 0) :
    exec (.counterLowRead fn off) (dropHeld fn s) = exec (.counterLowRead fn off) s := by
  show guardWf _ (barRead fn off 4 (dropHeld fn s)) = guardWf _ (barRead fn off 4 s)
  unfold barRead
  rw [bar2Load_dropHeld hr, regRead_dropHeld hr hal (.inr rfl)]

/-- The low half that a write of the high half at `off` finds held. -/
def State.heldLow (s : State) (fn : Fn) (off : Nat) : BitVec 32 :=
  match smapFind (fnKey fn) s.host.held with
  | some (o, x) => if o = off then x else 0#32
  | none => 0#32

theorem heldLow_dropHeld : (dropHeld fn s).heldLow fn off = 0#32 := by
  simp [State.heldLow, dropHeld, smapFind_erase_same]

theorem heldLow_holdLow (hr : s.reached fn = true) {o : Nat} :
    (holdLow fn o lo s).heldLow fn off = if o = off then lo else 0#32 := by
  rw [State.heldLow, holdLow_find hr]

theorem toNat_append_halves (hi lo : BitVec 32) : BitVec.ofNat 64 (2 ^ 32 * hi.toNat + lo.toNat) = hi ++ lo := by
  apply BitVec.eq_of_toNat_eq
  rw [BitVec.toNat_append, BitVec.toNat_ofNat, ← Nat.shiftLeft_add_eq_or_of_lt lo.isLt, Nat.shiftLeft_eq]
  omega

theorem writeHigh_eq (hi : BitVec 32) : writeHigh fn off hi s = hostWrite fn off (hi ++ s.heldLow fn off) s := by
  rw [← toNat_append_halves]
  unfold writeHigh State.heldLow
  cases smapFind (fnKey fn) s.host.held with
  | none => rfl
  | some e => exact congrArg (fun n => hostWrite fn off (BitVec.ofNat 64 (2 ^ 32 * hi.toNat + n)) s) (by dsimp; split <;> rfl)

theorem exec_regWrite_high (hal : off % 8 = 0) :
    exec (.regWrite fn (off + 4) 4 v) s = guardWf (fnOk fn && barOk (off + 4))
      (if inBar2 (off + 4) then bar2Store fn (off + 4 - 2 ^ 28) 4 v s
        else hostWrite fn off (v.setWidth 32 ++ s.heldLow fn off) s) := by
  have h4 : (off + 4) % 8 = 4 := by omega
  simp [exec, execRegWrite, regWrite, h4, writeHigh_eq]

/-- A write of a high half whose low half is not held goes as if nothing were. -/
theorem exec_regWrite_high_dropHeld (hr : s.reached fn = true) (hal : off % 8 = 0) (hlow : s.heldLow fn off = 0#32) :
    exec (.regWrite fn (off + 4) 4 v) (dropHeld fn s) = exec (.regWrite fn (off + 4) 4 v) s := by
  rw [exec_regWrite_high hal, exec_regWrite_high hal, bar2Store_dropHeld hr, heldLow_dropHeld, hlow, hostWrite_dropHeld hr]

/-- A write of a high half is the write of all 64 bits with the low half that is held. -/
theorem exec_regWrite_joins (hr : s.reached fn = true) (hoff : off + 4 < 2 ^ 28) (hal : off % 8 = 0) :
    exec (.regWrite fn (off + 4) 4 (hi.setWidth 64)) s =
      exec (.regWrite fn off 8 (hi ++ s.heldLow fn off)) (dropHeld fn s) := by
  rw [exec_regWrite_high hal, inBar2_of_bar0 hoff, barOk_of_bar0 hoff, exec_regWrite_bar0 (by omega) hal, Bool.and_true,
    hostWrite_dropHeld hr, if_neg Bool.false_ne_true, BitVec.setWidth_setWidth_of_le _ (by decide), BitVec.setWidth_eq]

theorem exec_halfWriteLow (hfn : fnOk fn = true) (hoff : off < 2 ^ 28) (hal : off % 8 = 0) :
    exec (.halfWriteLow fn off lo) s = .next (holdLow fn off lo s) := guardWf_of (by simp [hfn, hal]; omega)

/-- Settles O44: an access acts on the state that holds nothing, and a write of a high half takes what was held. -/
theorem halfWritesJoin : Obligations.HalfWritesJoin := by
  intro s fn off lo hi hfn hr hoff hal t d
  have ht : t.reached fn = true := holdLow_presents.trans hr
  have htd : dropHeld fn t = d := dropHeld_holdLow
  have hd : d.reached fn = true := hr
  have hlow : ∀ o, t.heldLow fn o = if off = o then lo else 0#32 := fun o => heldLow_holdLow hr
  refine ⟨exec_halfWriteLow hfn (by omega) hal, by rw [show t = _ from holdLow_reached hr],
    by rw [show t = _ from holdLow_reached hr], ?joins, fun o w ho => ⟨?_, ?_, ?_, fun hne => ?_⟩, fun o w hne => ?discarded,
    ?alone⟩
  case joins =>
    rw [exec_regWrite_joins ht hoff hal, htd, hlow, if_pos rfl]
  · rw [← htd, exec_regWrite_dropHeld ht ho]
  · rw [← htd, exec_readClear_dropHeld ht ho]
  · rw [← htd, exec_counterLowRead_dropHeld ht ho]
  · rw [← htd, exec_regWrite_high_dropHeld ht ho (by rw [hlow, if_neg hne.symm])]
  case discarded =>
    rw [exec_regWrite_joins (holdLow_presents.trans ht) hoff hal, dropHeld_holdLow, htd, heldLow_holdLow ht, if_neg hne]
  case alone =>
    rw [exec_regWrite_joins hd hoff hal, heldLow_dropHeld, show dropHeld fn d = d from dropHeld_dropHeld]

end Sys2Proof.Machine
end

section
/-! SUPPORT. The seal engine: O31, the lock (R404 to R407), and O30, its commands (R409 to R421). -/

namespace Sys2Proof.Machine

variable {s t : State} {fn : Fn} {p off slot tagLen op code : Nat}

/-! ### The lock -/

theorem sealLock_notMem_sealRegs : R.sealLock ∉ sealRegs := by decide

theorem lockTo_holder (h : Nat) : (lockTo h s).holder = h % 8 := by
  have hne : ∀ r ∈ sealRegs, R.sealLock ≠ r := fun r hr he => sealLock_notMem_sealRegs (he ▸ hr)
  rw [State.holder, State.fld, lockTo, forEach_rd (fun r hr s => State.rd_wr_ne s _ (hne r hr)), State.rd_setFld_same,
    getF_setF _ _ _ (by decide)]
  rfl

theorem lockTo_resets (h : Nat) {r : Nat} (hr : r ∈ sealRegs) : (lockTo h s).rd r = regReset r := by
  refine forEach_reaches (Q := fun s => s.rd r = regReset r) (a := r) (fun s => State.rd_wr_same ..) (fun b s hs => ?_) hr
  rw [State.rd_wr, hs]
  split
  · next he => rw [he]
  · rfl

theorem lockAcquire_free (hr : s.right p Right.sealEng = true) (h : s.holder = 7) : lockAcquire fn p s = lockTo p s := by
  simp [lockAcquire, hr, h]

theorem lockRelease_held (h : s.holder = p) (hb : s.busy .sealE = false) : lockRelease p s = lockFree s := by
  simp [lockRelease, h, hb]

theorem lockBreak_other (hr : s.right 0 Right.sealEng = true) (h1 : 1 ≤ s.holder) (h4 : s.holder < 4) : lockBreak 0 s =
    report .f 0x0A 0 .k 0x003 [(s.holder, 1), (0, 1)] ((lockFree s).inc (R.sealCount 3)) := by
  simp [lockBreak, hr, h1, h4]

/-- Settles O31: a write to SEAL_LOCK acts by HOLDER. -/
theorem theSealLockPasses : Obligations.TheSealLockPasses := by
  intro s fn p h hr d
  refine ⟨fun hf => ?acquire, fun hh hb => ?release, fun hp h1 h4 => ?brk⟩
  case acquire =>
    refine ⟨_, (exec_sealLock rfl h).trans (congrArg _ (lockAcquire_free hr hf)), ?_, fun r hr => lockTo_resets p hr⟩
    rw [lockTo_holder, Nat.mod_eq_of_lt ((own_lt h.toOwns).trans (by decide))]
  case release => exact (exec_sealLock rfl h).trans (congrArg _ (lockRelease_held hh hb))
  case brk =>
    subst hp
    exact (exec_sealLock rfl h).trans (congrArg _ (lockBreak_other hr h1 h4))

/-! ### What stands while a command runs -/

/-- The registers from SEAL_LOCK to SEAL_CTL. -/
abbrev SealReg (off : Nat) : Prop := R.sealLock ≤ off ∧ off ≤ R.sealCtl

theorem SealReg.ne (h : SealReg off) (n : Nat) :
    off ≠ R.sealSlot n ∧ off ≠ R.sealCtr n ∧ off ≠ R.sealSlotId n ∧ off ≠ R.sealCount n := by
  simp only [SealReg, R.sealLock, R.sealCtl, R.sealSlot, R.sealCtr, R.sealSlotId, R.sealCount] at h ⊢
  omega

theorem doneIrq_seal_rd (h : R.plateCmd ≤ off) (s : State) : (doneIrq .sealE s).rd off = s.rd off := by
  unfold doneIrq
  cases hc : s.flag R.sealCtl F.sealCtlDoneIrqEn && decide (s.fld R.sealLock F.sealLockHolder < 4)
  · rfl
  · simp only [Bool.and_eq_true, decide_eq_true_eq] at hc
    exact raiseSrc_rd (not_intReg_of_ge h _ hc.2) s

theorem complete_seal_rd {detail : Nat} (h : R.plateCmd ≤ off) (hne : off ≠ R.sealStatus) :
    (complete .sealE code detail s).rd off = s.rd off := (doneIrq_seal_rd h _).trans (State.rd_wr_ne _ _ hne)

theorem sealDone_rd (h : R.plateCmd ≤ off) (hst : off ≠ R.sealStatus) (hc : ∀ i < 3, off ≠ R.sealCount i) :
    (sealDone code s).rd off = s.rd off := by
  have hinc : ∀ i < 3, ∀ s : State, (s.inc (R.sealCount i)).rd off = s.rd off := fun i hi s => State.rd_inc_ne s (hc i hi)
  unfold sealDone
  rw [complete_seal_rd h hst, doIf_rd (hinc 2 (by decide)), doIf_rd (hinc 1 (by decide)), doIf_rd (hinc 0 (by decide))]

theorem sealDone_sealReg (h : SealReg off) (hst : off ≠ R.sealStatus) : (sealDone code s).rd off = s.rd off :=
  sealDone_rd (Nat.le_trans (by decide) h.1) hst (fun i _ => (h.ne i).2.2.2)

theorem sealDone_code (h : code < 256) : (sealDone code s).fld R.sealStatus stCode = code :=
  complete_code (i := .sealE) (doneIrq_seal_rd (by decide)) h

theorem sealDone_free : (sealDone code s).busy .sealE = false := complete_free (doneIrq_seal_rd (by decide))

theorem sealDone_said : s.outs <:+ (sealDone code s).outs := by
  have hinc : ∀ i, ∀ s : State, Beside s (s.inc (R.sealCount i)) := fun i s => beside_inc _
  exact (((Beside.doIf (hinc 0) _).trans (.doIf (hinc 1) _)).trans (.doIf (hinc 2) _)).trans (beside_complete ..) |>.said

/-- The state on which a command is performed: SEAL_BYTES_OUT counts from 0. -/
abbrev State.sealTaken (s : State) (fn : Fn) (op p : Nat) : State := (s.taken fn .sealE op p).wr R.sealBytesOut 0

theorem sealTaken_rd (hst : off ≠ R.sealStatus) (hb : off ≠ R.sealBytesOut) : (s.sealTaken fn op p).rd off = s.rd off :=
  (State.rd_wr_ne _ _ hb).trans (taken_rd hst)

theorem sealCtr_ne_sealReg (n : Nat) : ¬SealReg (R.sealCtr n) := fun h => (h.ne n).2.1 rfl

theorem sealTaken_ctr (n : Nat) : (s.sealTaken fn op p).rd (R.sealCtr n) = s.rd (R.sealCtr n) :=
  sealTaken_rd (fun he => sealCtr_ne_sealReg n (he ▸ by decide)) (fun he => sealCtr_ne_sealReg n (he ▸ by decide))

theorem sealTaken_slot (n : Nat) : (s.sealTaken fn op p).rd (R.sealSlot n) = s.rd (R.sealSlot n) :=
  sealTaken_rd (fun he => (SealReg.ne (off := R.sealSlot n) (he ▸ by decide) n).1 rfl)
    (fun he => (SealReg.ne (off := R.sealSlot n) (he ▸ by decide) n).1 rfl)

theorem sealTaken_nonce : slotNonce (s.sealTaken fn op p) slot = slotNonce s slot := by
  unfold slotNonce State.slotFixed State.fld
  rw [sealTaken_slot, sealTaken_ctr]

/-! ### The commands -/

theorem sealChecks_pass {cs : List (Bool × Nat)} {act : State → State} (h : Passes cs) : sealChecks fn cs act s = act s := by
  have hnone : cs.find? (fun c => !c.1) = none := by
    rw [List.find?_eq_none]
    intro c hc
    simp [List.all_eq_true.1 h c hc]
  unfold sealChecks
  rw [hnone]

theorem unwrapAct_passes {x b : Bytes} {o : Option Bytes} (hb : slice 0 64 x = b) (hk : s.keyState slot = slotEmpty)
    (hc : Passes (unwrapChecks s p b)) (hr : blobRecord (kekKey s (blobKek b)) b = o) :
    unwrapAct fn slot (.data x) .ok p s = match o with
      | none => sealFail fn Code.tagFail s
      | some r =>
        if recordOk r = true then sealDone Code.ok (slotLoad slot r (blobId b) (s.rd R.sealIv0).toNat s)
        else sealFail fn Code.length s := by
  have hread : ∀ k act, kekRead k .ok act s = act s := fun _ _ => ite_self _
  simp only [unwrapAct, hb, hk, bne_self_eq_false, Bool.false_eq_true, if_false, sealChecks_pass hc, hread, hr]
  cases o <;> rfl

/-- What is read from host memory has the length asked for. -/
theorem sealBytes_data {n : Nat} {b : Bytes} : sealBytes n (.data b) = some (slice 0 n b) := by
  unfold sealBytes
  split
  · next h => simp [h, slice, zeros]
  · rfl

theorem slotCount_rd {n c : Nat} (hctr : off ≠ R.sealCtr n) (hslot : off ≠ R.sealSlot n) :
    (slotCount n c s).rd off = s.rd off := (State.rd_setFld_ne _ _ _ hslot).trans (State.rd_wr_ne _ _ hctr)

theorem slotCount_ctr {n c : Nat} : (slotCount n c s).rd (R.sealCtr n) = BitVec.ofNat 64 c :=
  (State.rd_setFld_ne _ _ _ (by simp only [R.sealCtr, R.sealSlot]; omega)).trans (State.rd_wr_same ..)

theorem drawNonce_sealReg (h : SealReg off) : (drawNonce slot s).rd off =
    if off = R.sealIv1 then wordAt 1 (slotNonce s slot) else if off = R.sealIv0 then wordAt 0 (slotNonce s slot)
      else s.rd off := by
  rw [drawNonce, slotCount_rd (h.ne slot).2.1 (h.ne slot).1, State.rd_wr, State.rd_wr]

theorem drawNonce_ctr : (drawNonce slot s).rd (R.sealCtr slot) = s.rd (R.sealCtr slot) + 1 := by
  rw [drawNonce, slotCount_ctr]
  apply BitVec.eq_of_toNat_eq
  simp [BitVec.toNat_add]

theorem sealOut_rd {b : Bytes} (h : off ≠ R.sealBytesOut) : (sealOut p b s).rd off = s.rd off :=
  (doIf_rd (fun _ => State.rd_emit ..) _).trans (State.rd_wr_ne _ _ h)

theorem sealOut_count {b : Bytes} : (sealOut p b s).rd R.sealBytesOut = BitVec.ofNat 64 b.length :=
  (doIf_rd (fun _ => State.rd_emit ..) _).trans (State.rd_wr_same ..)

theorem sealOut_outs {b : Bytes} (h : b ≠ []) :
    (sealOut p b s).outs = .dmaWrite p (s.rd R.sealDst).toNat b :: s.outs := by
  have hb : (!b.isEmpty) = true := by simpa using h
  have hd : (s.wr R.sealBytesOut (BitVec.ofNat 64 b.length)).rd R.sealDst = s.rd R.sealDst := State.rd_wr_ne _ _ (by decide)
  simp [sealOut, hb, hd]

/-- The state in which an ENCRYPT that succeeds ends: the nonce drawn, the tag and the cipher text written. -/
def encrypted (p slot : Nat) (tag c : Bytes) (s : State) : State :=
  sealDone Code.ok (sealOut p c (((drawNonce slot s).wr R.sealTag0 (wordAt 0 tag)).wr R.sealTag1 (wordAt 1 tag)))

theorem encryptAct_passes {a x : Bytes} (hc : Passes (cryptChecks s slot 0 tagLen (2 ^ 32 - 1))) :
    let iv := slotNonce s slot
    let c := gcmCtr (s.keyBytes slot) iv (slice 0 (s.fld R.sealLen F.sealLenLen) x)
    encryptAct fn slot tagLen (.data a) (.data x) [] p s = encrypted p slot
      (tagOf (s.keyBytes slot) iv (slice 0 (s.fld R.sealLen F.sealLenAadLen) a) c tagLen) c s := by
  have hlen : ∀ f, (drawNonce slot s).fld R.sealLen f = s.fld R.sealLen f := fun f =>
    congrArg (getF · f) (drawNonce_sealReg (by decide))
  simp only [encryptAct, sealChecks_pass hc, sealBytes_data, hlen]
  rfl

/-- A register of the engine other than its status and its count of bytes, after an ENCRYPT. -/
theorem encrypted_sealReg {tag c : Bytes} (h : SealReg off) (hst : off ≠ R.sealStatus) (hb : off ≠ R.sealBytesOut) :
    (encrypted p slot tag c s).rd off = if off = R.sealTag1 then wordAt 1 tag else if off = R.sealTag0 then wordAt 0 tag
      else (drawNonce slot s).rd off := by
  rw [encrypted, sealDone_sealReg h hst, sealOut_rd hb, State.rd_wr, State.rd_wr]

theorem encrypted_ctr {tag c : Bytes} (h : slot < 32) :
    (encrypted p slot tag c s).rd (R.sealCtr slot) = s.rd (R.sealCtr slot) + 1 := by
  have hreg : ∀ r, SealReg r → R.sealCtr slot ≠ r := fun r hr => (hr.ne slot).2.1.symm
  rw [encrypted, sealDone_rd (by simp only [R.plateCmd, R.sealCtr]; omega) (hreg _ (by decide))
    (fun i _ => by simp only [R.sealCtr, R.sealCount]; omega), sealOut_rd (hreg _ (by decide)),
    State.rd_wr_ne _ _ (hreg _ (by decide)), State.rd_wr_ne _ _ (hreg _ (by decide)), drawNonce_ctr]

theorem encrypted_said {tag c : Bytes} (hc : c ≠ []) :
    .dmaWrite p (s.rd R.sealDst).toNat c ∈ (encrypted p slot tag c s).outs := by
  refine sealDone_said.subset ?_
  rw [sealOut_outs hc, State.rd_wr_ne _ _ (by decide), State.rd_wr_ne _ _ (by decide), drawNonce_sealReg (by decide)]
  exact List.mem_cons_self

theorem decryptAct_passes {stream : Bool} {a x : Bytes}
    (hc : Passes (cryptChecks s slot 1 tagLen (if stream then 2 ^ 32 - 1 else 1048576))) :
    let iv := slice 0 12 (toLe 8 (s.rd R.sealIv0).toNat ++ toLe 4 (s.rd R.sealIv1).toNat)
    let given := toLe 8 (s.rd R.sealTag0).toNat ++ toLe 8 (s.rd R.sealTag1).toNat
    let c := slice 0 (s.fld R.sealLen F.sealLenLen) x
    let text := gcmCtr (s.keyBytes slot) iv c
    decryptAct fn slot tagLen stream (.data a) (.data x) [] p s =
      if tagOf (s.keyBytes slot) iv (slice 0 (s.fld R.sealLen F.sealLenAadLen) a) c tagLen = given.take tagLen then
        sealDone Code.ok (sealOut p text s)
      else sealDone Code.tagFail (sealOut p (released stream false text) s) := by
  intro iv given c text
  simp only [decryptAct, sealChecks_pass hc, sealBytes_data]
  by_cases htag : tagOf (s.keyBytes slot) iv (slice 0 (s.fld R.sealLen F.sealLenAadLen) a) c tagLen = given.take tagLen
  · rw [if_pos htag, beq_iff_eq.2 htag]
    rfl
  · rw [if_neg htag, beq_false_of_ne htag]
    rfl

section
variable (h : s.MayWrite fn p 12) (hh : s.holder = p) (ht : s.Takes .sealE) (hs : s.slotOk p slot = true) (h32 : slot < 32)
include h hh ht hs h32

theorem exec_sealEncrypt {aad text : Dma} {part : Bytes} (htag : tagLen < 32) :
    exec (.sealEncrypt fn slot tagLen aad text part .ok) s =
      .next (encryptAct fn slot tagLen aad text part p (s.sealTaken fn 2 p)) :=
  (guardWf_of (by simp [h.shape, h32, htag])).trans (congrArg _ (seal_takes h hh ht hs))

theorem exec_sealDecrypt {stream : Bool} {aad text : Dma} {part : Bytes} (htag : tagLen < 32) :
    exec (.sealDecrypt fn slot tagLen stream aad text part .ok) s =
      .next (decryptAct fn slot tagLen stream aad text part p (s.sealTaken fn 3 p)) :=
  (guardWf_of (by simp [h.shape, h32, htag])).trans (congrArg _ (seal_takes h hh ht hs))

theorem exec_sealClear : exec (.sealClear fn slot .ok) s = .next (sealDone Code.ok (slotClear slot (s.sealTaken fn 4 p))) :=
  (guardWf_of (by simp [h.shape, h32])).trans
    (congrArg _ (seal_takes (act := fun _ s => sealDone Code.ok (slotClear slot s)) h hh ht hs))

end

/-- Settles O30: each command performs its act on the state that has accepted it. -/
theorem sealCommandsRun : Obligations.SealCommandsRun := by
  intro s fn p slot tagLen h hh ht h32 htag hs t key aadLen len
  have hrd : ∀ op, ∀ off, off ≠ R.sealStatus → off ≠ R.sealBytesOut → (t op).rd off = s.rd off :=
    fun op off => sealTaken_rd
  have hlen : ∀ op f, (t op).fld R.sealLen f = s.fld R.sealLen f := fun op f =>
    congrArg (getF · f) (hrd op _ (by decide) (by decide))
  refine ⟨fun hk x => ?unwrap, fun hc a x => ?encrypt, fun stream a x hc => ?decrypt, exec_sealClear h hh ht hs h32⟩
  case unwrap =>
    dsimp only
    generalize hb : slice 0 64 x = b
    intro hc
    obtain ⟨o, ho⟩ : ∃ o, blobRecord (kekKey s (blobKek b)) b = o := ⟨_, rfl⟩
    have hto : blobRecord (kekKey (t 1) (blobKek b)) b = o := ho
    rw [exec_sealUnwrap h hh ht hs h32, unwrapAct_passes hb ((keyState_taken slot).trans hk) hc hto, ho,
      hrd 1 _ (by decide) (by decide)]
    cases o <;> rfl
  case encrypt =>
    intro iv c tag
    have hiv : slotNonce (t 2) slot = iv := sealTaken_nonce
    have hact : encryptAct fn slot tagLen (.data a) (.data x) [] p (t 2) = encrypted p slot tag c (t 2) := by
      rw [encryptAct_passes hc, hiv, hlen, hlen]
      rfl
    have hreg : ∀ {off}, SealReg off → off ≠ R.sealStatus → off ≠ R.sealBytesOut →
        (encrypted p slot tag c (t 2)).rd off = _ := encrypted_sealReg
    refine ⟨_, (exec_sealEncrypt h hh ht hs h32 htag).trans (congrArg _ hact), ?_, ?_, ?_, ?_, ?_, ?_, fun hc => ?_,
      sealDone_code (by decide), sealDone_free⟩
    · rw [encrypted_ctr h32, sealTaken_ctr]
    · rw [hreg (by decide) (by decide) (by decide), drawNonce_sealReg (by decide), hiv]
      rfl
    · rw [hreg (by decide) (by decide) (by decide), drawNonce_sealReg (by decide), hiv]
      rfl
    · exact hreg (by decide) (by decide) (by decide)
    · exact hreg (by decide) (by decide) (by decide)
    · exact (sealDone_sealReg (by decide) (by decide)).trans sealOut_count
    · rw [← hrd 2 R.sealDst (by decide) (by decide)]
      exact encrypted_said hc
  case decrypt =>
    intro iv given c
    rw [exec_sealDecrypt h hh ht hs h32 htag, decryptAct_passes hc, hlen, hlen, hrd 3 _ (by decide) (by decide),
      hrd 3 _ (by decide) (by decide), hrd 3 _ (by decide) (by decide), hrd 3 _ (by decide) (by decide)]
    rfl

end Sys2Proof.Machine
end

section
/-! SUPPORT. Mailbox commands end with what they read or wrote (R393, R394, R449, R450, R488 to R490), and SMBus answers
(R395). -/

namespace Sys2Proof.Machine

variable {s : State} {fn : Fn} {p op : Nat}

/-! ### Mailbox registers -/

theorem mbxData_lt (hp : p < 4) (j : Nat) (hj : j < 8) : R.mbxData p j < R.intStatus 0 := by
  simp only [R.mbxData, R.intStatus]
  omega

theorem mbxData_ne_status (p j : Nat) : R.mbxData p j ≠ (Ifc.mbx p).status := by
  simp only [R.mbxData, Ifc.status, R.mbxStatus]
  omega

theorem complete_mbx_code {code detail : Nat} (hp : p < 4) (h : code < 256) :
    (complete (.mbx p) code detail s).fld (R.mbxStatus p) stCode = code :=
  complete_code (i := .mbx p) (fun u => doneIrq_rd (i := .mbx p) (not_intReg_of_lt (mbxStatus_lt hp)) u) h

theorem complete_mbxData {code detail j : Nat} (hp : p < 4) (hj : j < 8) :
    (complete (.mbx p) code detail s).rd (R.mbxData p j) = s.rd (R.mbxData p j) :=
  complete_rd_of_lt (mbxData_lt hp j hj) (mbxData_ne_status p j)

theorem mbxData_injective : Function.Injective (R.mbxData p) := by
  intro i j h
  simp only [R.mbxData] at h
  omega

/-- Word 0 of a mailbox that a command filled. -/
theorem complete_mbxWord {code detail n : Nat} {b : Bytes} (hp : p < 4) (hn : 0 < n) :
    (complete (.mbx p) code detail (setData (R.mbxData p) n b s)).rd (R.mbxData p 0) = wordAt 0 b := by
  rw [complete_mbxData hp (by decide), setData_rd mbxData_injective hn]

/-! ### Words of byte strings -/

theorem leNat_append (a b : Bytes) : leNat (a ++ b) = leNat a + 256 ^ a.length * leNat b := by
  induction a with
  | nil => simp [leNat]
  | cons x xs ih =>
    rw [List.cons_append, leNat, ih, leNat, List.length_cons, pow_succ]
    ring

theorem leNat_toLe (n v : Nat) : leNat (toLe n v) = v % 256 ^ n := by
  induction n generalizing v with
  | zero => simp [toLe, leNat, Nat.mod_one]
  | succ n ih =>
    have h8 : (BitVec.ofNat 8 v).toNat = v % 256 := BitVec.toNat_ofNat v 8
    rw [toLe, leNat, ih, h8, pow_succ', Nat.mod_mul]

theorem length_toLe (n v : Nat) : (toLe n v).length = n := by
  induction n generalizing v with
  | zero => rfl
  | succ n ih => rw [toLe, List.length_cons, ih]

/-- Word 0 is of the first eight bytes alone. -/
theorem wordAt_zero_append {a : Bytes} (b : Bytes) (ha : a.length = 8) : wordAt 0 (a ++ b) = wordAt 0 a := by
  simp only [wordAt, leAt, slice, Nat.mul_zero, List.drop_zero]
  rw [← ha, List.take_left, List.take_length]

theorem wordAt_zero_toLe (v : Nat) : wordAt 0 (toLe 8 v) = BitVec.ofNat 64 v := by
  have hl := length_toLe 8 v
  have ht : (toLe 8 v).take 8 = toLe 8 v := List.take_of_length_le hl.le
  simp only [wordAt, leAt, slice, Nat.mul_zero, List.drop_zero, ht, hl, Nat.sub_self, zeros, List.replicate_zero,
    List.append_nil]
  rw [leNat_toLe]
  exact BitVec.eq_of_toNat_eq (by simp)

/-- The first word of 32 temperatures holds the first four. -/
theorem wordAt_zero_temps (f : Nat → Nat) :
    wordAt 0 ((List.range 32).flatMap (fun i => toLe 2 (f i))) = wordAt 0 ((List.range 4).flatMap (fun i => toLe 2 (f i))) := by
  have h32 : List.range 32 = List.range 4 ++ (List.range 28).map (4 + ·) := List.range_add (n := 4) (m := 28)
  rw [h32, List.flatMap_append]
  refine wordAt_zero_append _ ?_
  rfl

/-! ### Settings -/

theorem setArea_area_same {a : Nat} {m : SMap Bytes} (h : a < s.flash.areas.length) : (setArea a m s).area a = m := by
  simp [setArea, flashTo, State.area, h]

theorem setArea_area_ne {a b : Nat} {m : SMap Bytes} (h : a ≠ b) : (setArea a m s).area b = s.area b := by
  simp [setArea, flashTo, State.area, List.getD_eq_getElem?_getD, List.getElem?_set_ne h]

/-- The settings areas with a key's value put in those listed. -/
def putKey (key : Nat) (v : Bytes) (as : List Nat) (s : State) : State :=
  forEach as (fun a s => setArea a (smapInsert key v (s.area a)) s) s

theorem putKey_length {key : Nat} {v : Bytes} {as : List Nat} :
    (putKey key v as s).flash.areas.length = s.flash.areas.length := by
  unfold putKey forEach
  induction as generalizing s with
  | nil => rfl
  | cons a as ih =>
    rw [List.foldl_cons, ih]
    exact List.length_set

/-- Each area that is put holds the key with its value, and keeps it when another area is put. -/
theorem putKey_found {key a : Nat} {v : Bytes} {as : List Nat} (hlen : ∀ b ∈ as, b < s.flash.areas.length)
    (h : a ∈ as ∨ smapFind key (s.area a) = some v) : smapFind key ((putKey key v as s).area a) = some v := by
  unfold putKey forEach
  induction as generalizing s with
  | nil => exact h.resolve_left (by simp)
  | cons b bs ih =>
    rw [List.foldl_cons]
    have hb := hlen b List.mem_cons_self
    refine ih (fun c hc => ?_) ?_
    · rw [show (setArea b (smapInsert key v (s.area b)) s).flash.areas.length = s.flash.areas.length from List.length_set]
      exact hlen c (List.mem_cons_of_mem _ hc)
    · by_cases hab : b = a
      · right
        rw [← hab, setArea_area_same hb, smapFind_insert_same]
      · rw [setArea_area_ne hab]
        rcases h with h | h
        · exact .inl ((List.mem_cons.1 h).resolve_left (Ne.symm hab))
        · exact .inr h

theorem settingsPut_room (h : s.putAreas.any (fun a => (smapFind (mbxData p s 0 % 2 ^ 32) (s.area a)).isNone &&
      Config.settingsCapacity ≤ (s.area a).length) = false) :
    settingsPut p s = complete (.mbx p) Code.ok 0
      (putKey (mbxData p s 0 % 2 ^ 32) (s.dataBytes (fun i => R.mbxData p (i + 1)) 7) s.putAreas s) := by
  rw [settingsPut, h]
  rfl

theorem settingsGet_found {v : Bytes} (h : smapFind (mbxData p s 0 % 2 ^ 32) (s.area s.readArea) = some v) :
    settingsGet p s = complete (.mbx p) Code.ok 0 (setData (fun i => R.mbxData p (i + 1)) 7 v s) := by
  rw [settingsGet, h]

theorem complete_area {i : Ifc} {code detail : Nat} (a : Nat) : (complete i code detail s).area a = s.area a := by
  obtain ⟨_, _, _, h⟩ := signals_complete (s := s) i code detail
  rw [h]
  rfl

theorem mbxBytes_taken :
    (s.taken fn (.mbx p) op p).dataBytes (fun i => R.mbxData p (i + 1)) 7 = s.dataBytes (fun i => R.mbxData p (i + 1)) 7 :=
  dataBytes_congr (fun _ _ => taken_rd (mbxData_ne_status p _))

/-! ### The calibration record -/

/-- A calibration record that passed its checks is stored, recorded in the error queue and awaited by the rails. -/
def calibStored (p : Nat) (b : Bytes) (s : State) : State :=
  complete (.mbx p) Code.ok 0 (report .f 0x0C 0 .c 0x00A [(calibCount b, 4)]
    (calibFlash b { s with pwr := { s.pwr with newCrv := b } }))

/-- A CALIB_WRITE that was let through reads the record and judges it. -/
theorem calibWrite_judges {x : Bytes} (hp : p = 0) (hr : s.right 0 Right.calib = true)
    (hkey : mbxData p s 2 % 2 ^ 32 = 0x4F565752) : calibWrite fn p (.data x) s =
      runChecks (.mbx p) fn (calibChecks s p (slice 0 65536 x)) (calibStored p (slice 0 65536 x)) s := by
  subst hp
  simp only [calibWrite, hr, hkey, beq_self_eq_true, Bool.and_true, Bool.not_true, Bool.false_eq_true, if_false]
  rfl

theorem calibStored_keeps (p : Nat) (b : Bytes) :
    (calibStored p b s).flash.calib = b ∧ (calibStored p b s).pwr.newCrv = b := by
  have hs : Signals (calibFlash b { s with pwr := { s.pwr with newCrv := b } }) (calibStored p b s) :=
    (signals_report (by decide) ..).trans (signals_complete ..)
  obtain ⟨_, _, _, h⟩ := hs
  rw [h]
  exact ⟨rfl, rfl⟩

/-- A command that fails signals and records, and keeps the flash and the rails. -/
theorem failCmd_keeps (i : Ifc) (code : Nat) : (failCmd i fn code s).flash = s.flash ∧ (failCmd i fn code s).pwr = s.pwr := by
  have hs : Signals s (failCmd i fn code s) :=
    (Signals.doIf (fun _ => signals_report (by decide) ..) _).trans (signals_complete ..)
  obtain ⟨_, _, _, h⟩ := hs
  rw [h]
  exact ⟨rfl, rfl⟩

theorem runChecks_failed {i : Ifc} {cs : List (Bool × Nat)} {act : State → State} (h : ¬ Passes cs) :
    ∃ code, runChecks i fn cs act s = failCmd i fn code s := by
  cases hf : cs.find? (fun c => !c.1) with
  | some c => exact ⟨_, runChecks_fail hf⟩
  | none =>
    refine absurd (List.all_eq_true.2 fun c hc => ?_) h
    simpa using List.find?_eq_none.1 hf c hc

/-! ### SMBus -/

/-- What SMBus answers to a command code. -/
theorem smbusRead_answers {c : Byte} {fmt : SmbFmt} {pec : Bool} (h : s.bootStateOf ≠ 0) :
    exec (.smbusRead 0x5A [c] fmt pec) s = .next (s.emit (.smbus
      (if pec then smbFormat fmt (smbReply s c.toNat) ++ [smbPec ([0xB4, c, 0xB5] ++ smbFormat fmt (smbReply s c.toNat))]
       else smbFormat fmt (smbReply s c.toNat)))) := by
  have hread : smbusRead 0x5A [c] fmt pec s = s.emit (.smbus
      (if pec then smbFormat fmt (smbReply s c.toNat) ++ [smbPec ([0xB4, c, 0xB5] ++ smbFormat fmt (smbReply s c.toNat))]
       else smbFormat fmt (smbReply s c.toNat))) := by
    simp [smbusRead, h, smbSentOk, byteAt]
  rw [← hread]
  rfl

/-- Codes 0 and 1 answer the device number and its stepping. -/
theorem smbReply_code (c : Byte) :
    (if c = 0 then toLe 4 devId else if c = 1 then toLe 2 devStep else smbReply s c.toNat) = smbReply s c.toNat := by
  split
  · next h => rw [h]; rfl
  · split
    · next h => rw [h]; rfl
    · rfl

/-- Settles O39: each command acts on the state that took it, and its answer stands in data registers that its completion
leaves alone. -/
theorem mailboxesAnswer : Obligations.MailboxesAnswer := by
  intro s fn p x
  refine ⟨fun h hb hu hr => ?mailbox, fun c fmt pec hn => ?smbus⟩
  case smbus =>
    rw [smbReply_code]
    exact smbusRead_answers hn
  intro t key val
  have hp : p < 4 := own_lt h
  have hdo : ∀ act : Nat → State → State, guardWf (fnOk fn) (mbxDo fn act s) = .next (act p t) := fun act => by
    rw [mbx_takes h hb hu hr, h.shape, guardWf_true]
  have hdata : ∀ i, mbxData p t i = mbxData p s i := fun i => mbxData_taken (Nat.zero_le i)
  refine ⟨hdo mbxPing, ⟨_, hdo mbxVersion, complete_mbx_code hp (by decide), ?version⟩,
    ⟨_, hdo mbxThermal, complete_mbx_code hp (by decide), ?thermal⟩, fun v hv => ?get, fun hlen hroom => ?put,
    fun hal hab => ?calibRead, fun hp0 hright hkey => ?calibWrite⟩
  case version =>
    unfold mbxVersion
    rw [complete_mbxWord hp (Nat.succ_pos _), List.append_assoc, wordAt_zero_append _ (length_toLe ..), wordAt_zero_toLe]
  case thermal =>
    unfold mbxThermal
    rw [complete_mbxWord hp (Nat.succ_pos _)]
    exact wordAt_zero_temps _
  case get =>
    rw [exec_settingsGet h hb hu hr, settingsGet_found (by rw [hdata]; exact hv)]
  case put =>
    have hput : settingsPut p t = complete (.mbx p) Code.ok 0 (putKey key val s.putAreas t) := by
      rw [settingsPut_room (by rw [hdata]; exact hroom), hdata, mbxBytes_taken]
      rfl
    refine ⟨_, (hdo settingsPut).trans (congrArg _ hput), complete_mbx_code hp (by decide), fun a ha => ?_⟩
    rw [complete_area]
    exact putKey_found hlen (.inl ha)
  case calibRead =>
    refine (hdo (fun p => calibRead p (.data []))).trans (congrArg _ ?_)
    have habs : t.pwr.absent = false := hab
    simp only [calibRead, hdata, hal, habs, bne_self_eq_false, Bool.false_eq_true, if_false]
    rfl
  case calibWrite =>
    have hr0 : t.right 0 Right.calib = true := by
      rw [← hright, State.right, State.pmap, taken_rd (by simp only [R.pmap, Ifc.status, R.mbxStatus]; omega)]
      rfl
    have hchecks : calibChecks t p (slice 0 65536 x) = calibChecks s p (slice 0 65536 x) := by
      simp only [calibChecks, hdata]
      rfl
    have hex := (exec_calibWrite (d := .data x) h hb hu hr).trans
      (congrArg _ (calibWrite_judges hp0 hr0 ((congrArg (· % 2 ^ 32) (hdata 2)).trans hkey)))
    rw [hchecks] at hex
    by_cases hpass : Passes (calibChecks s p (slice 0 65536 x))
    · rw [runChecks_pass hpass] at hex
      obtain ⟨hcalib, hcrv⟩ := calibStored_keeps (s := t) p (slice 0 65536 x)
      exact ⟨_, hex, complete_mbx_free hp, fun _ => ⟨hcalib, hcrv, complete_mbx_code hp (by decide)⟩,
        fun hnot => absurd hpass hnot⟩
    · obtain ⟨code, hfail⟩ := runChecks_failed (i := .mbx p) (fn := fn) (s := t)
        (act := calibStored p (slice 0 65536 x)) hpass
      rw [hfail] at hex
      exact ⟨_, hex, complete_mbx_free hp, fun hyes => absurd hyes hpass, fun _ => failCmd_keeps ..⟩

end Sys2Proof.Machine
end

section
/-! SUPPORT. Packet I/O rings: a TX descriptor that is consumed, and RX completions that are signalled (R385, R386,
R389). -/

namespace Sys2Proof.Machine

variable {s : State} {p r : Nat}

/-! ### The interrupt of a ring -/

theorem bitOf_setBit (w : Word) {i j : Nat} (hi : i < 64) (hj : j < 64) (b : Bool) :
    bitOf (setBit w i b) j = if j = i then b else bitOf w j := by
  rw [bitOf, setBit, setF_bit _ _ _ _ ⟨le_refl i, hi⟩ hj]
  by_cases h : j = i
  · rw [if_pos (by simp only; omega), if_pos h, h]
    cases b <;> simp
  · rw [if_neg (by simp only; omega), if_neg h]
    rfl

/-- A loop of which one turn alone acts is that turn. -/
theorem forEach_only {α : Type} {f : α → State → State} {a : α} {as : List α} (hnd : as.Nodup) (ha : a ∈ as)
    (hf : ∀ b ∈ as, b ≠ a → ∀ s, f b s = s) : forEach as f s = f a s := by
  have hidle : ∀ bs ⊆ as, a ∉ bs → ∀ u, forEach bs f u = u := fun bs => by
    induction bs with
    | nil => exact fun _ _ _ => rfl
    | cons b bs ih =>
      intro hsub hout u
      have hb : f b u = u := hf b (hsub List.mem_cons_self) (fun h => hout (h ▸ List.mem_cons_self)) u
      exact (congrArg (forEach bs f) hb).trans
        (ih (fun x hx => hsub (List.mem_cons_of_mem _ hx)) (fun h => hout (List.mem_cons_of_mem _ h)) u)
  obtain ⟨pre, post, rfl⟩ := List.append_of_mem ha
  have hout : a ∉ pre ∧ a ∉ post := by
    have := List.nodup_append.1 hnd
    exact ⟨fun h => this.2.2 a h a List.mem_cons_self rfl, (List.nodup_cons.1 this.2.1).1⟩
  have hsplit : forEach (pre ++ a :: post) f s = forEach post f (f a (forEach pre f s)) := by
    simp only [forEach, List.foldl_append, List.foldl_cons]
  rw [hsplit, hidle pre (fun x hx => List.mem_append_left _ hx) hout.1,
    hidle post (fun x hx => List.mem_append_right _ (List.mem_cons_of_mem _ hx)) hout.2]

theorem raiseRing_status (hi : s.mayInt p = true) :
    (raiseSrc p (17 + r) s).rd (R.intRingStatus p) = setBit (s.rd (R.intRingStatus p)) r true := by
  have hne : R.intRingStatus p ≠ R.intRingEnable p := by simp [R.intRingStatus, R.intRingEnable]
  simp only [raiseSrc, hi, if_true, show ¬17 + r < 17 by omega, if_false, intWrite_rd, hne, Nat.add_sub_cancel_left]

theorem sendMsi_wr_outs {src off : Nat} {v : Word} (h : R.intVec p src ≠ off) :
    (sendMsi p src (s.wr off v)).outs = (sendMsi p src s).outs := by
  have hvec : (s.wr off v).fld (R.intVec p src) F.intVecVector = s.fld (R.intVec p src) F.intVecVector :=
    congrArg (getF · F.intVecVector) (State.rd_wr_ne _ _ h)
  have hmsg : ∀ vec, (s.wr off v).msiOut p vec = s.msiOut p vec := fun _ => rfl
  unfold sendMsi
  simp only [hvec, hmsg, apply_ite State.outs]
  rfl

/-- A ring whose enabled bit turns on sends the message of its vector, and no other. -/
theorem raiseRing_outs (hi : s.mayInt p = true) (hr : r < 64) (hoff : bitOf (s.rd (R.intRingStatus p)) r = false)
    (hen : bitOf (s.rd (R.intRingEnable p)) r = true) :
    (raiseSrc p (17 + r) s).outs = (sendMsi p (17 + r) s).outs := by
  simp only [raiseSrc, hi, if_true, show ¬17 + r < 17 by omega, if_false, Nat.add_sub_cancel_left, intWrite]
  rw [forEach_only (a := r) List.nodup_range (List.mem_range.2 hr)]
  · have hon : (bitOf (setBit (s.rd (R.intRingStatus p)) r true &&& s.rd (R.intRingEnable p)) r &&
        !bitOf (s.rd (R.intRingStatus p) &&& s.rd (R.intRingEnable p)) r) = true := by
      have hset := bitOf_setBit (s.rd (R.intRingStatus p)) hr hr true
      rw [if_pos rfl] at hset
      simp only [bitOf, BitVec.getLsbD_and] at hset hoff hen ⊢
      rw [hset, hoff, hen]
      rfl
    rw [hon]
    exact (sendMsi_wr_outs (by simp only [R.intVec, R.intRingEnable]; omega)).trans
      (sendMsi_wr_outs (by simp only [R.intVec, R.intRingStatus]; omega))
  · intro i hi64 hne u
    have hsame : bitOf (setBit (s.rd (R.intRingStatus p)) r true) i = bitOf (s.rd (R.intRingStatus p)) i :=
      (bitOf_setBit _ hr (List.mem_range.1 hi64) true).trans (if_neg hne)
    have hidle : (bitOf (setBit (s.rd (R.intRingStatus p)) r true &&& s.rd (R.intRingEnable p)) i &&
        !bitOf (s.rd (R.intRingStatus p) &&& s.rd (R.intRingEnable p)) i) = false := by
      simp only [bitOf, BitVec.getLsbD_and] at hsame ⊢
      rw [hsame, Bool.and_not_self]
    rw [hidle]
    rfl

/-! ### A TX descriptor is consumed -/

theorem signals_emit (o : Out) : Signals s (s.emit o) := ⟨_, _, _, rfl⟩

theorem signals_txDone (p r code : Nat) : Signals s (txDone p r code s) :=
  (((signals_emit _).trans (signals_setFld ..)).trans (.doIf (fun _ => signals_inc _) _)).trans
    (.doIf (fun _ => signals_raiseSrc ..) _)

theorem beside_txDone (p r code : Nat) :
    Beside (s.emit (.dmaWrite p (s.ringDesc p r 32 + 10) (toLe 1 1 ++ toLe 1 code))) (txDone p r code s) :=
  ((beside_setFld ..).trans (.doIf (fun _ => beside_inc _) _)).trans (.doIf (fun _ => beside_raiseSrc ..) _)

/-- HEAD stands one further, and neither the counter nor the interrupt moves it. -/
theorem txDone_ringHead (hr : r < 64) (code : Nat) :
    (txDone p r code s).ringHead p r = (s.ringHead p r + 1) % 2 ^ 32 := by
  have hctr : R.pioRingHead p r ≠ R.ringCtr p r 0 := by simp only [R.pioRingHead, R.ringCtr]; omega
  have hirq : R.pioRingHead p r ≠ R.intRingStatus p := by simp only [R.pioRingHead, R.intRingStatus]; omega
  have hrd : (txDone p r code s).rd (R.pioRingHead p r) =
      (ringAdvance p r (s.emit (.dmaWrite p (s.ringDesc p r 32 + 10) (toLe 1 1 ++ toLe 1 code)))).rd (R.pioRingHead p r) :=
    (doIf_rd (fun _ => raiseRing_rd hirq) _).trans (doIf_rd (fun _ => State.rd_inc_ne _ hctr) _)
  rw [State.ringHead, State.fld, hrd, ringAdvance, State.setFld, State.rd_wr_same, getF_setF _ _ _ (by decide)]
  exact Nat.mod_mod _ _

/-- The code of a descriptor and a frame that were read is no DMA fault. -/
theorem txCode_read (p : Nat) (d f : Bytes) : txCode s p (.data d) (.data f) = Code.ok ∨
    txCode s p (.data d) (.data f) = Code.length ∨ txCode s p (.data d) (.data f) = Code.denied := by
  simp only [txCode]
  split
  · exact .inr (.inl rfl)
  · split
    · exact .inl rfl
    · exact .inr (.inr rfl)

/-- A descriptor and a frame that were read: the frame is sent where its code is OK, and the descriptor is done. -/
theorem txDescriptor_read {d f : Bytes} (hon : s.ringOn p r 0 = true) (hne : s.ringHead p r ≠ s.ringTail p r) :
    txDescriptor p r (.data d) (.data f) s = txDone p r (txCode s p (.data d) (.data f))
      (doIf (txCode s p (.data d) (.data f) == Code.ok) (txSend p (leAt 8 2 d) f) s) := by
  have hdue : (s.ringOn p r 0 && s.ringHead p r != s.ringTail p r) = true := by simp [hon, hne]
  unfold txDescriptor
  rw [if_pos hdue]
  dsimp only
  rcases txCode_read (s := s) p d f with h | h | h <;> rw [h] <;> rfl

theorem txCode_ok_len {d f : Bytes} (h : txCode s p (.data d) (.data f) = Code.ok) : 92 ≤ leAt 8 2 d := by
  by_contra hlt
  have hc : txCode s p (.data d) (.data f) = Code.length := by
    simp only [txCode]
    rw [if_pos (by simp; omega)]
  rw [hc] at h
  exact absurd h (by decide)

theorem txSend_rd (len : Nat) (f : Bytes) (off : Nat) : (txSend p len f s).rd off = s.rd off := setPkt_rd off

theorem touchOld_q {id : Nat} : (touchOld id s).q = s.q := by
  unfold touchOld
  split
  · exact touchPair_q
  · rfl

theorem setPkt_q {id : Nat} {k : Packet} : (setPkt id k s).q = s.q := touchPair_q.trans touchOld_q

/-- A packet handed to the bridge awaits its requester's turn. -/
theorem toBridge_arrivals {g id : Nat} {k : Packet} : smapGet (fun _ => []) g (toBridge g id k s).q.arrivals =
    smapGet (fun _ => []) g s.q.arrivals ++ [id] := by
  have hq : (bridgeRouted 0 id k.bytes (setPkt id { k with place := .bridge } s)).q = s.q :=
    (show _ = (setPkt id { k with place := .bridge } s).q from rfl).trans setPkt_q
  rw [toBridge, arrive, hq]
  exact smapGet_insert_same

/-- The frame that is sent stands as a packet of the host port, its metadata first, and awaits the queue engine. -/
theorem txSend_sends {len : Nat} {f : Bytes} (hlen : 92 ≤ len) :
    ∃ k, (txSend p len f s).pkt s.q.nextPkt = some k ∧ k.md ++ k.bytes = slice 0 len f ∧ k.md.length = 32 ∧ k.port = 127 ∧
      smapGet (fun _ => []) (18 + p) (txSend p len f s).q.arrivals =
        smapGet (fun _ => []) (18 + p) s.q.arrivals ++ [s.q.nextPkt] := by
  refine ⟨_, pkt_setPkt_same, List.take_append_drop 32 _, ?_, rfl, ?_⟩
  · simp only [slice, List.drop_zero, List.length_take, List.length_append, zeros, List.length_replicate]
    omega
  · exact toBridge_arrivals

/-! ### RX completions -/

/-- What an interrupt of a ring leaves of the coalescing. -/
theorem ringIrq_coal : (ringIrq p r s).host.coal = s.host.coal := by
  obtain ⟨_, _, _, _, h⟩ := Raises.doIf (fun _ => raises_raiseSrc p (17 + r)) (s.flag (R.pioRingCfg p r) F.pioRingCfgIrqEn) (s := s)
  rw [ringIrq, h]

/-- No completion of a ring waits for its time any more. -/
def coalDone (p r : Nat) (s : State) : State :=
  { s with host := { s.host with coal := smapErase (64 * p + r) s.host.coal } }

theorem sendMsi_coalDone_outs {src : Nat} : (sendMsi p src (coalDone p r s)).outs = (sendMsi p src s).outs := by
  simp only [sendMsi, apply_ite State.outs]
  rfl

theorem ringIrq_on (h : s.flag (R.pioRingCfg p r) F.pioRingCfgIrqEn = true) : ringIrq p r s = raiseSrc p (17 + r) s := by
  rw [ringIrq, h]
  rfl

theorem rxCoal_due {n t0 : Nat} (h : smapFind (64 * p + r) s.host.coal = some (n, t0)) (ht : t0 ≤ s.now) :
    rxCoal p r s = ringIrq p r (coalDone p r s) := by
  unfold rxCoal
  rw [h]
  simp [doIf, ht, coalDone]

/-- Settles O41: a descriptor that was read is carried out on the state that its frame left, and the interrupt of a ring
turns one status bit on. -/
theorem hostRingsRun : Obligations.HostRingsRun := by
  intro s p r d f hp hr
  refine ⟨fun hon hne => ?tx, fun n t0 hc ht => ?rx⟩
  case tx =>
    generalize hcode : txCode s p (.data d) (.data f) = code
    generalize hu : doIf (code == Code.ok) (txSend p (leAt 8 2 d) f) s = u
    have hrd : ∀ off, u.rd off = s.rd off := fun off => hu ▸ doIf_rd (fun v => txSend_rd _ _ off) s
    have hex : exec (.pioTxDescriptor p r (.data d) (.data f)) s = .next (txDone p r code u) := by
      rw [← hu, ← hcode, ← txDescriptor_read hon hne]
      exact guardWf_of (by simp [hp, hr])
    obtain ⟨_, _, _, hsig⟩ := signals_txDone (s := u) p r code
    refine ⟨_, hex, ?_, ?_, fun hok => ?_, fun hbad => ?_⟩
    · rw [txDone_ringHead hr, State.ringHead, State.fld, hrd]
      rfl
    · refine (beside_txDone p r code).said.subset ?_
      have hdesc : u.ringDesc p r 32 = s.ringDesc p r 32 := by simp only [State.ringDesc, State.ringHead, State.fld, hrd]
      rw [hdesc]
      exact List.mem_cons_self
    · rw [hsig]
      rw [hok, beq_self_eq_true] at hu
      rw [hok] at hcode
      exact hu ▸ txSend_sends (txCode_ok_len hcode)
    · rw [hsig, ← hu, beq_false_of_ne hbad]
      rfl
  case rx =>
    refine ⟨_, (guardWf_of (by simp [hp, hr])).trans (congrArg _ (rxCoal_due hc ht)), ?_, fun hi hirq => ?_⟩
    · rw [ringIrq_coal]
      exact smapFind_erase_same
    · have hon : (coalDone p r s).flag (R.pioRingCfg p r) F.pioRingCfgIrqEn = true := hirq
      rw [ringIrq_on hon]
      exact ⟨raiseRing_status (s := coalDone p r s) hi, fun hoff hen =>
        (raiseRing_outs (s := coalDone p r s) hi hr hoff hen).trans sendMsi_coalDone_outs⟩

end Sys2Proof.Machine
end

section
/-! SUPPORT. What the commands of the page manager, the queue engine and the calendar leave alone: the waiting commands, the
flash, the boot, the update controller and the resets of the ports. -/

namespace Sys2Proof.Machine

set_option linter.unreachableTactic false
set_option linter.unusedTactic false
set_option linter.unusedVariables false

/-- Work of the device that goes on beside what `s0` holds of the waiting commands, the flash, the boot, the update controller
and the resets of the ports, and takes back nothing that has left the device. -/
structure Works (s0 s : State) : Prop where
  queue : s.pending = s0.pending
  flash : s.flash = s0.flash
  boot  : s.boot = s0.boot
  upd   : s.upd = s0.upd
  perst : s.host.perst = s0.host.perst
  said  : s0.outs <:+ s.outs

variable {s0 s : State}

theorem Works.refl : Works s s := ⟨rfl, rfl, rfl, rfl, rfl, List.suffix_rfl⟩

/-- An update of any other field goes on beside it. -/
theorem Works.upd' {regs now freeCtr outs pending host boot brFT brTF tap pkts line plate ppm tbl asa bpm q burin flash cuts cutAt
    upd sealSt pwr fab cal twin} (h : Works s0 s) (ho : outs = s.outs) (hp : pending = s.pending)
    (hh : host.perst = s.host.perst) (hb : boot = s.boot) (hu : upd = s.upd) (hw : flash = s.flash) :
    Works s0 ⟨regs, now, freeCtr, outs, pending, host, boot, brFT, brTF, tap, pkts, line, plate, ppm, tbl, asa, bpm, q,
      burin, flash, cuts, cutAt, upd, sealSt, pwr, fab, cal, twin⟩ :=
  ⟨hp ▸ h.queue, hw ▸ h.flash, hb ▸ h.boot, hu ▸ h.upd, hh ▸ h.perst, ho ▸ h.said⟩

/-- A value on the way that works beside `s0` may be taken for any such state. -/
theorem Works.gen {x : State} (hv : Works s0 x) {P : Prop} (hb : Works s0 x → P) : P := hb hv

theorem Works.ite {c : Prop} [Decidable c] {a b : State} (ha : c → Works s0 a) (hb : ¬c → Works s0 b) :
    Works s0 (if c then a else b) := by
  by_cases h : c
  · rw [if_pos h]; exact ha h
  · rw [if_neg h]; exact hb h

theorem Works.ofFst {α : Type _} {p : State × α} {a : State} {b : α} (h : Works s0 p.1) (e : p = (a, b)) :
    Works s0 a := by subst e; exact h

theorem Works.ofSnd {α : Type _} {p : α × State} {a : State} {b : α} (h : Works s0 p.2) (e : p = (b, a)) :
    Works s0 a := by subst e; exact h

theorem works_wr (off : Nat) (v : Word) (h : Works s0 s) : Works s0 (s.wr off v) :=
  ⟨h.queue, h.flash, h.boot, h.upd, h.perst, h.said⟩

theorem works_emit (x : Out) (h : Works s0 s) : Works s0 (s.emit x) :=
  ⟨h.queue, h.flash, h.boot, h.upd, h.perst, h.said.trans (List.suffix_cons _ _)⟩

theorem works_doIf {b : Bool} {f : State → State} (hf : ∀ s, Works s0 s → Works s0 (f s)) (h : Works s0 s) :
    Works s0 (doIf b f s) := by cases b <;> [exact h; exact hf s h]

theorem works_forEach {α : Type} {f : α → State → State} {as : List α}
    (hf : ∀ a s, Works s0 s → Works s0 (f a s)) (h : Works s0 s) : Works s0 (forEach as f s) := by
  unfold forEach
  induction as generalizing s with
  | nil => exact h
  | cons a as ih => exact ih (hf a s h)

theorem works_setErq {d : Die} {q : List ErqRec} (h : Works s0 s) : Works s0 (setErq d q s) := by
  cases d <;> exact ⟨h.queue, h.flash, h.boot, h.upd, h.perst, h.said⟩

theorem works_setFld {off : Nat} {f : Fld} {v : Nat} (h0 : Works s0 s) :
    Works s0 (s.setFld off f v) := by
  unfold State.setFld
  repeat' first
    | with_reducible assumption | with_reducible refine Works.ite (fun _ => ?_) (fun _ => ?_)
    | with_reducible apply works_wr | fail_if_no_progress (with_reducible refine Works.upd' ?_ rfl rfl rfl rfl rfl rfl)
    | split | with_reducible refine Works.ofFst ?_ (by assumption)
    | with_reducible refine Works.ofSnd ?_ (by assumption) | (clear_value *; split)

theorem works_bump {off n : Nat} (h0 : Works s0 s) :
    Works s0 (s.bump off n) := by
  unfold State.bump
  repeat' first
    | with_reducible assumption | with_reducible refine Works.ite (fun _ => ?_) (fun _ => ?_)
    | with_reducible apply works_wr | fail_if_no_progress (with_reducible refine Works.upd' ?_ rfl rfl rfl rfl rfl rfl)
    | split | with_reducible refine Works.ofFst ?_ (by assumption)
    | with_reducible refine Works.ofSnd ?_ (by assumption) | (clear_value *; split)

theorem works_inc {off : Nat} (h0 : Works s0 s) :
    Works s0 (s.inc off) := by
  unfold State.inc
  repeat' first
    | with_reducible assumption | with_reducible refine Works.ite (fun _ => ?_) (fun _ => ?_)
    | with_reducible refine works_bump ?_
    | fail_if_no_progress (with_reducible refine Works.upd' ?_ rfl rfl rfl rfl rfl rfl) | split
    | with_reducible refine Works.ofFst ?_ (by assumption) | with_reducible refine Works.ofSnd ?_ (by assumption)
    | (clear_value *; split)

theorem works_sendMsi {p src : Nat} (h0 : Works s0 s) :
    Works s0 (sendMsi p src s) := by
  unfold sendMsi
  repeat' first
    | with_reducible assumption | with_reducible refine Works.ite (fun _ => ?_) (fun _ => ?_)
    | (intro x; with_reducible refine Works.gen (s0 := s0) (x := x) ?_ ?_; (on_goal 1 => unfold x); (on_goal 2 => (intro _; clear_value x)))
    | (intro x; (have t : Nat := x; clear t); clear_value x) | (intro x) | lift_lets -underBinder
    | with_reducible apply works_emit | fail_if_no_progress (with_reducible refine Works.upd' ?_ rfl rfl rfl rfl rfl rfl)
    | split | with_reducible refine Works.ofFst ?_ (by assumption) | with_reducible refine Works.ofSnd ?_ (by assumption)
    | (clear_value *; split)

theorem works_intWrite {p src0 n statOff enOff : Nat} {stat en : Word} (h0 : Works s0 s) :
    Works s0 (intWrite p src0 n statOff enOff stat en s) := by
  unfold intWrite
  repeat' first
    | with_reducible assumption | with_reducible refine Works.ite (fun _ => ?_) (fun _ => ?_)
    | (intro x; with_reducible refine Works.gen (s0 := s0) (x := x) ?_ ?_; (on_goal 1 => unfold x); (on_goal 2 => (intro _; clear_value x)))
    | (intro x; (have t : Nat := x; clear t); clear_value x) | (intro x) | lift_lets -underBinder
    | with_reducible refine works_doIf (fun _ _ => ?_) ?_ | with_reducible refine works_forEach (fun _ _ _ => ?_) ?_
    | with_reducible apply works_wr | with_reducible refine works_sendMsi ?_
    | fail_if_no_progress (with_reducible refine Works.upd' ?_ rfl rfl rfl rfl rfl rfl) | split
    | with_reducible refine Works.ofFst ?_ (by assumption) | with_reducible refine Works.ofSnd ?_ (by assumption)
    | (clear_value *; split)

theorem works_raiseSrc {p src : Nat} (h0 : Works s0 s) :
    Works s0 (raiseSrc p src s) := by
  unfold raiseSrc
  repeat' first
    | with_reducible assumption | with_reducible refine Works.ite (fun _ => ?_) (fun _ => ?_)
    | with_reducible refine works_intWrite ?_
    | fail_if_no_progress (with_reducible refine Works.upd' ?_ rfl rfl rfl rfl rfl rfl) | split
    | with_reducible refine Works.ofFst ?_ (by assumption) | with_reducible refine Works.ofSnd ?_ (by assumption)
    | (clear_value *; split)

theorem works_raiseBlock {src blk : Nat} (h0 : Works s0 s) :
    Works s0 (raiseBlock src blk s) := by
  unfold raiseBlock
  repeat' first
    | with_reducible assumption | with_reducible refine Works.ite (fun _ => ?_) (fun _ => ?_)
    | with_reducible refine works_doIf (fun _ _ => ?_) ?_ | with_reducible refine works_forEach (fun _ _ _ => ?_) ?_
    | with_reducible refine works_raiseSrc ?_
    | fail_if_no_progress (with_reducible refine Works.upd' ?_ rfl rfl rfl rfl rfl rfl) | split
    | with_reducible refine Works.ofFst ?_ (by assumption) | with_reducible refine Works.ofSnd ?_ (by assumption)
    | (clear_value *; split)

theorem works_raiseRight {src right : Nat} (h0 : Works s0 s) :
    Works s0 (raiseRight src right s) := by
  unfold raiseRight
  repeat' first
    | with_reducible assumption | with_reducible refine Works.ite (fun _ => ?_) (fun _ => ?_)
    | with_reducible refine works_doIf (fun _ _ => ?_) ?_ | with_reducible refine works_forEach (fun _ _ _ => ?_) ?_
    | with_reducible refine works_raiseSrc ?_
    | fail_if_no_progress (with_reducible refine Works.upd' ?_ rfl rfl rfl rfl rfl rfl) | split
    | with_reducible refine Works.ofFst ?_ (by assumption) | with_reducible refine Works.ofSnd ?_ (by assumption)
    | (clear_value *; split)

theorem works_raiseFatal {src : Nat} (h0 : Works s0 s) :
    Works s0 (raiseFatal src s) := by
  unfold raiseFatal
  repeat' first
    | with_reducible assumption | with_reducible refine Works.ite (fun _ => ?_) (fun _ => ?_)
    | (intro x; with_reducible refine Works.gen (s0 := s0) (x := x) ?_ ?_; (on_goal 1 => unfold x); (on_goal 2 => (intro _; clear_value x)))
    | (intro x; (have t : Nat := x; clear t); clear_value x) | (intro x) | lift_lets -underBinder
    | with_reducible refine works_forEach (fun _ _ _ => ?_) ?_ | with_reducible apply works_wr
    | with_reducible refine works_sendMsi ?_
    | fail_if_no_progress (with_reducible refine Works.upd' ?_ rfl rfl rfl rfl rfl rfl) | split
    | with_reducible refine Works.ofFst ?_ (by assumption) | with_reducible refine Works.ofSnd ?_ (by assumption)
    | (clear_value *; split)

theorem works_twinTo {st : Nat} (h0 : Works s0 s) :
    Works s0 (twinTo st s) := by
  unfold twinTo
  repeat' first
    | with_reducible assumption | with_reducible refine Works.ite (fun _ => ?_) (fun _ => ?_)
    | (intro x; with_reducible refine Works.gen (s0 := s0) (x := x) ?_ ?_; (on_goal 1 => unfold x); (on_goal 2 => (intro _; clear_value x)))
    | (intro x; (have t : Nat := x; clear t); clear_value x) | (intro x) | lift_lets -underBinder
    | with_reducible refine works_doIf (fun _ _ => ?_) ?_ | with_reducible refine works_setFld ?_
    | with_reducible refine works_raiseBlock ?_
    | fail_if_no_progress (with_reducible refine Works.upd' ?_ rfl rfl rfl rfl rfl rfl) | split
    | with_reducible refine Works.ofFst ?_ (by assumption) | with_reducible refine Works.ofSnd ?_ (by assumption)
    | (clear_value *; split)

theorem works_twinFall (h0 : Works s0 s) :
    Works s0 (twinFall s) := by
  unfold twinFall
  repeat' first
    | with_reducible assumption | with_reducible refine Works.ite (fun _ => ?_) (fun _ => ?_)
    | with_reducible refine works_twinTo ?_
    | fail_if_no_progress (with_reducible refine Works.upd' ?_ rfl rfl rfl rfl rfl rfl) | split
    | with_reducible refine Works.ofFst ?_ (by assumption) | with_reducible refine Works.ofSnd ?_ (by assumption)
    | (clear_value *; split)

theorem works_report {d : Die} {cls inst : Nat} {sev : Sev} {code : Nat} {items : List (Nat × Nat)} (h : Works s0 s) :
    Works s0 (report d cls inst sev code items s) := by
  unfold report
  extract_lets unit cw now r n s1 q merged s2
  have h1 : Works s0 s1 := by
    refine works_doIf (fun s hs => ?_) h
    exact works_forEach (fun _ _ hs => works_wr _ _ hs) (works_setFld hs)
  have h2 : Works s0 s2 := by
    unfold s2
    rcases hm : merged with _ | q' <;> dsimp only
    · split
      · exact works_setErq h1
      · exact works_inc (works_setFld h1)
    · exact works_setErq h1
  split
  · exact works_doIf (fun _ hs => works_twinFall hs) (works_raiseFatal h2)
  · exact works_doIf (fun _ hs => works_raiseBlock hs) h2

theorem works_denied {fn : Fn} {off acc : Nat} (h0 : Works s0 s) :
    Works s0 (denied fn off acc s) := by
  unfold denied
  repeat' first
    | with_reducible assumption | with_reducible refine Works.ite (fun _ => ?_) (fun _ => ?_)
    | with_reducible refine works_report ?_
    | fail_if_no_progress (with_reducible refine Works.upd' ?_ rfl rfl rfl rfl rfl rfl) | split
    | with_reducible refine Works.ofFst ?_ (by assumption) | with_reducible refine Works.ofSnd ?_ (by assumption)
    | (clear_value *; split)

theorem works_quiesceLog {fn : Fn} {off acc : Nat} (h0 : Works s0 s) :
    Works s0 (quiesceLog fn off acc s) := by
  unfold quiesceLog
  repeat' first
    | with_reducible assumption | with_reducible refine Works.ite (fun _ => ?_) (fun _ => ?_)
    | with_reducible refine works_report ?_
    | fail_if_no_progress (with_reducible refine Works.upd' ?_ rfl rfl rfl rfl rfl rfl) | split
    | with_reducible refine Works.ofFst ?_ (by assumption) | with_reducible refine Works.ofSnd ?_ (by assumption)
    | (clear_value *; split)

theorem works_doneIrq {i : Ifc} (h0 : Works s0 s) :
    Works s0 (doneIrq i s) := by
  unfold doneIrq
  repeat' first
    | with_reducible assumption | with_reducible refine Works.ite (fun _ => ?_) (fun _ => ?_)
    | (intro x; with_reducible refine Works.gen (s0 := s0) (x := x) ?_ ?_; (on_goal 1 => unfold x); (on_goal 2 => (intro _; clear_value x)))
    | (intro x; (have t : Nat := x; clear t); clear_value x) | (intro x) | lift_lets -underBinder
    | with_reducible refine works_doIf (fun _ _ => ?_) ?_ | with_reducible refine works_raiseSrc ?_
    | with_reducible refine works_raiseBlock ?_ | with_reducible refine works_raiseRight ?_
    | fail_if_no_progress (with_reducible refine Works.upd' ?_ rfl rfl rfl rfl rfl rfl) | split
    | with_reducible refine Works.ofFst ?_ (by assumption) | with_reducible refine Works.ofSnd ?_ (by assumption)
    | (clear_value *; split)

theorem works_complete {i : Ifc} {code detail : Nat} (h0 : Works s0 s) :
    Works s0 (complete i code detail s) := by
  unfold complete
  repeat' first
    | with_reducible assumption | with_reducible refine Works.ite (fun _ => ?_) (fun _ => ?_)
    | (intro x; with_reducible refine Works.gen (s0 := s0) (x := x) ?_ ?_; (on_goal 1 => unfold x); (on_goal 2 => (intro _; clear_value x)))
    | (intro x; (have t : Nat := x; clear t); clear_value x) | (intro x) | lift_lets -underBinder
    | with_reducible apply works_wr | with_reducible refine works_doneIrq ?_
    | fail_if_no_progress (with_reducible refine Works.upd' ?_ rfl rfl rfl rfl rfl rfl) | split
    | with_reducible refine Works.ofFst ?_ (by assumption) | with_reducible refine Works.ofSnd ?_ (by assumption)
    | (clear_value *; split)

theorem works_failCmd {i : Ifc} {fn : Fn} {code : Nat} (h0 : Works s0 s) :
    Works s0 (failCmd i fn code s) := by
  unfold failCmd
  repeat' first
    | with_reducible assumption | with_reducible refine Works.ite (fun _ => ?_) (fun _ => ?_)
    | with_reducible refine works_doIf (fun _ _ => ?_) ?_ | with_reducible refine works_denied ?_
    | with_reducible refine works_complete ?_
    | fail_if_no_progress (with_reducible refine Works.upd' ?_ rfl rfl rfl rfl rfl rfl) | split
    | with_reducible refine Works.ofFst ?_ (by assumption) | with_reducible refine Works.ofSnd ?_ (by assumption)
    | (clear_value *; split)

theorem works_runChecks {i : Ifc} {fn : Fn} {checks : List (Bool × Nat)} {act : State → State} (hact : ∀ s, Works s0 s → Works s0 (act s)) (h0 : Works s0 s) :
    Works s0 (runChecks i fn checks act s) := by
  unfold runChecks
  repeat' first
    | with_reducible assumption | with_reducible refine Works.ite (fun _ => ?_) (fun _ => ?_)
    | (intro x; with_reducible refine Works.gen (s0 := s0) (x := x) ?_ ?_; (on_goal 1 => unfold x); (on_goal 2 => (intro _; clear_value x)))
    | (intro x; (have t : Nat := x; clear t); clear_value x) | (intro x) | lift_lets -underBinder
    | with_reducible refine hact _ ?_ | with_reducible refine works_failCmd ?_
    | fail_if_no_progress (with_reducible refine Works.upd' ?_ rfl rfl rfl rfl rfl rfl) | split
    | with_reducible refine Works.ofFst ?_ (by assumption) | with_reducible refine Works.ofSnd ?_ (by assumption)
    | (clear_value *; split)

theorem works_setData {off : Nat → Nat} {n : Nat} {b : Bytes} (h0 : Works s0 s) :
    Works s0 (setData off n b s) := by
  unfold setData
  repeat' first
    | with_reducible assumption | with_reducible refine Works.ite (fun _ => ?_) (fun _ => ?_)
    | with_reducible refine works_forEach (fun _ _ _ => ?_) ?_ | with_reducible apply works_wr
    | fail_if_no_progress (with_reducible refine Works.upd' ?_ rfl rfl rfl rfl rfl rfl) | split
    | with_reducible refine Works.ofFst ?_ (by assumption) | with_reducible refine Works.ofSnd ?_ (by assumption)
    | (clear_value *; split)

theorem works_touchPair {p : Packet} (h0 : Works s0 s) :
    Works s0 (touchPair p s) := by
  unfold touchPair
  repeat' first
    | with_reducible assumption | with_reducible refine Works.ite (fun _ => ?_) (fun _ => ?_)
    | (intro x; with_reducible refine Works.gen (s0 := s0) (x := x) ?_ ?_; (on_goal 1 => unfold x); (on_goal 2 => (intro _; clear_value x)))
    | (intro x; (have t : Nat := x; clear t); clear_value x) | (intro x) | lift_lets -underBinder
    | fail_if_no_progress (with_reducible refine Works.upd' ?_ rfl rfl rfl rfl rfl rfl) | split
    | with_reducible refine Works.ofFst ?_ (by assumption) | with_reducible refine Works.ofSnd ?_ (by assumption)
    | (clear_value *; split)

theorem works_touchOld {id : Nat} (h0 : Works s0 s) :
    Works s0 (touchOld id s) := by
  unfold touchOld
  repeat' first
    | with_reducible assumption | with_reducible refine Works.ite (fun _ => ?_) (fun _ => ?_)
    | (intro x; with_reducible refine Works.gen (s0 := s0) (x := x) ?_ ?_; (on_goal 1 => unfold x); (on_goal 2 => (intro _; clear_value x)))
    | (intro x; (have t : Nat := x; clear t); clear_value x) | (intro x) | lift_lets -underBinder
    | with_reducible refine works_touchPair ?_
    | fail_if_no_progress (with_reducible refine Works.upd' ?_ rfl rfl rfl rfl rfl rfl) | split
    | with_reducible refine Works.ofFst ?_ (by assumption) | with_reducible refine Works.ofSnd ?_ (by assumption)
    | (clear_value *; split)

theorem works_setPkt {id : Nat} {p : Packet} (h0 : Works s0 s) :
    Works s0 (setPkt id p s) := by
  unfold setPkt
  repeat' first
    | with_reducible assumption | with_reducible refine Works.ite (fun _ => ?_) (fun _ => ?_)
    | (intro x; with_reducible refine Works.gen (s0 := s0) (x := x) ?_ ?_; (on_goal 1 => unfold x); (on_goal 2 => (intro _; clear_value x)))
    | (intro x; (have t : Nat := x; clear t); clear_value x) | (intro x) | lift_lets -underBinder
    | with_reducible refine works_touchPair ?_ | with_reducible refine works_touchOld ?_
    | fail_if_no_progress (with_reducible refine Works.upd' ?_ rfl rfl rfl rfl rfl rfl) | split
    | with_reducible refine Works.ofFst ?_ (by assumption) | with_reducible refine Works.ofSnd ?_ (by assumption)
    | (clear_value *; split)

theorem works_erasePkt {id : Nat} (h0 : Works s0 s) :
    Works s0 (erasePkt id s) := by
  unfold erasePkt
  repeat' first
    | with_reducible assumption | with_reducible refine Works.ite (fun _ => ?_) (fun _ => ?_)
    | (intro x; with_reducible refine Works.gen (s0 := s0) (x := x) ?_ ?_; (on_goal 1 => unfold x); (on_goal 2 => (intro _; clear_value x)))
    | (intro x; (have t : Nat := x; clear t); clear_value x) | (intro x) | lift_lets -underBinder
    | with_reducible refine works_touchOld ?_
    | fail_if_no_progress (with_reducible refine Works.upd' ?_ rfl rfl rfl rfl rfl rfl) | split
    | with_reducible refine Works.ofFst ?_ (by assumption) | with_reducible refine Works.ofSnd ?_ (by assumption)
    | (clear_value *; split)

theorem works_setPage {pool page : Nat} {p : PageSt} (h0 : Works s0 s) :
    Works s0 (setPage pool page p s) := by
  unfold setPage
  repeat' first
    | with_reducible assumption | with_reducible refine Works.ite (fun _ => ?_) (fun _ => ?_)
    | (intro x; with_reducible refine Works.gen (s0 := s0) (x := x) ?_ ?_; (on_goal 1 => unfold x); (on_goal 2 => (intro _; clear_value x)))
    | (intro x; (have t : Nat := x; clear t); clear_value x) | (intro x) | lift_lets -underBinder
    | fail_if_no_progress (with_reducible refine Works.upd' ?_ rfl rfl rfl rfl rfl rfl) | split
    | with_reducible refine Works.ofFst ?_ (by assumption) | with_reducible refine Works.ofSnd ?_ (by assumption)
    | (clear_value *; split)

theorem works_erasePage {pool page : Nat} (h0 : Works s0 s) :
    Works s0 (erasePage pool page s) := by
  unfold erasePage
  repeat' first
    | with_reducible assumption | with_reducible refine Works.ite (fun _ => ?_) (fun _ => ?_)
    | (intro x; with_reducible refine Works.gen (s0 := s0) (x := x) ?_ ?_; (on_goal 1 => unfold x); (on_goal 2 => (intro _; clear_value x)))
    | (intro x; (have t : Nat := x; clear t); clear_value x) | (intro x) | lift_lets -underBinder
    | fail_if_no_progress (with_reducible refine Works.upd' ?_ rfl rfl rfl rfl rfl rfl) | split
    | with_reducible refine Works.ofFst ?_ (by assumption) | with_reducible refine Works.ofSnd ?_ (by assumption)
    | (clear_value *; split)

theorem works_stackIrq (h0 : Works s0 s) :
    Works s0 (stackIrq s) := by
  unfold stackIrq
  repeat' first
    | with_reducible assumption | with_reducible refine Works.ite (fun _ => ?_) (fun _ => ?_)
    | with_reducible refine works_doIf (fun _ _ => ?_) ?_ | with_reducible refine works_raiseBlock ?_
    | fail_if_no_progress (with_reducible refine Works.upd' ?_ rfl rfl rfl rfl rfl rfl) | split
    | with_reducible refine Works.ofFst ?_ (by assumption) | with_reducible refine Works.ofSnd ?_ (by assumption)
    | (clear_value *; split)

theorem works_retireCheck (h0 : Works s0 s) :
    Works s0 (retireCheck s) := by
  unfold retireCheck
  repeat' first
    | with_reducible assumption | with_reducible refine Works.ite (fun _ => ?_) (fun _ => ?_)
    | with_reducible refine works_forEach (fun _ _ _ => ?_) ?_ | with_reducible refine works_setFld ?_
    | with_reducible refine works_stackIrq ?_
    | fail_if_no_progress (with_reducible refine Works.upd' ?_ rfl rfl rfl rfl rfl rfl) | split
    | with_reducible refine Works.ofFst ?_ (by assumption) | with_reducible refine Works.ofSnd ?_ (by assumption)
    | (clear_value *; split)

theorem works_bpmRefresh (h0 : Works s0 s) :
    Works s0 (bpmRefresh s) := by
  unfold bpmRefresh
  repeat' first
    | with_reducible assumption | with_reducible refine Works.ite (fun _ => ?_) (fun _ => ?_)
    | (intro x; with_reducible refine Works.gen (s0 := s0) (x := x) ?_ ?_; (on_goal 1 => unfold x); (on_goal 2 => (intro _; clear_value x)))
    | (intro x; (have t : Nat := x; clear t); clear_value x) | (intro x) | lift_lets -underBinder
    | with_reducible refine works_forEach (fun _ _ _ => ?_) ?_ | with_reducible refine works_setFld ?_
    | with_reducible refine works_retireCheck ?_
    | fail_if_no_progress (with_reducible refine Works.upd' ?_ rfl rfl rfl rfl rfl rfl) | split
    | with_reducible refine Works.ofFst ?_ (by assumption) | with_reducible refine Works.ofSnd ?_ (by assumption)
    | (clear_value *; split)

theorem works_setStore {id : Nat} {k : Stored} (h0 : Works s0 s) :
    Works s0 (setStore id k s) := by
  unfold setStore
  repeat' first
    | with_reducible assumption | with_reducible refine Works.ite (fun _ => ?_) (fun _ => ?_)
    | (intro x; with_reducible refine Works.gen (s0 := s0) (x := x) ?_ ?_; (on_goal 1 => unfold x); (on_goal 2 => (intro _; clear_value x)))
    | (intro x; (have t : Nat := x; clear t); clear_value x) | (intro x) | lift_lets -underBinder
    | fail_if_no_progress (with_reducible refine Works.upd' ?_ rfl rfl rfl rfl rfl rfl) | split
    | with_reducible refine Works.ofFst ?_ (by assumption) | with_reducible refine Works.ofSnd ?_ (by assumption)
    | (clear_value *; split)

theorem works_fbRefresh (h0 : Works s0 s) :
    Works s0 (fbRefresh s) := by
  unfold fbRefresh
  repeat' first
    | with_reducible assumption | with_reducible refine Works.ite (fun _ => ?_) (fun _ => ?_)
    | with_reducible refine works_setFld ?_
    | fail_if_no_progress (with_reducible refine Works.upd' ?_ rfl rfl rfl rfl rfl rfl) | split
    | with_reducible refine Works.ofFst ?_ (by assumption) | with_reducible refine Works.ofSnd ?_ (by assumption)
    | (clear_value *; split)

theorem works_stackLeaves {i : Nat} (h0 : Works s0 s) :
    Works s0 (stackLeaves i s) := by
  unfold stackLeaves
  repeat' first
    | with_reducible assumption | with_reducible refine Works.ite (fun _ => ?_) (fun _ => ?_)
    | (intro x; with_reducible refine Works.gen (s0 := s0) (x := x) ?_ ?_; (on_goal 1 => unfold x); (on_goal 2 => (intro _; clear_value x)))
    | (intro x; (have t : Nat := x; clear t); clear_value x) | (intro x) | lift_lets -underBinder
    | with_reducible refine works_doIf (fun _ _ => ?_) ?_ | with_reducible refine works_setFld ?_
    | with_reducible refine works_inc ?_ | with_reducible refine works_report ?_
    | with_reducible refine works_fbRefresh ?_
    | fail_if_no_progress (with_reducible refine Works.upd' ?_ rfl rfl rfl rfl rfl rfl) | split
    | with_reducible refine Works.ofFst ?_ (by assumption) | with_reducible refine Works.ofSnd ?_ (by assumption)
    | (clear_value *; split)

theorem works_setStack {i st : Nat} (h0 : Works s0 s) :
    Works s0 (setStack i st s) := by
  unfold setStack
  repeat' first
    | with_reducible assumption | with_reducible refine Works.ite (fun _ => ?_) (fun _ => ?_)
    | (intro x; with_reducible refine Works.gen (s0 := s0) (x := x) ?_ ?_; (on_goal 1 => unfold x); (on_goal 2 => (intro _; clear_value x)))
    | (intro x; (have t : Nat := x; clear t); clear_value x) | (intro x) | lift_lets -underBinder
    | with_reducible refine works_doIf (fun _ _ => ?_) ?_ | with_reducible refine works_setFld ?_
    | with_reducible refine works_report ?_ | with_reducible refine works_stackIrq ?_
    | with_reducible refine works_bpmRefresh ?_ | with_reducible refine works_stackLeaves ?_
    | fail_if_no_progress (with_reducible refine Works.upd' ?_ rfl rfl rfl rfl rfl rfl) | split
    | with_reducible refine Works.ofFst ?_ (by assumption) | with_reducible refine Works.ofSnd ?_ (by assumption)
    | (clear_value *; split)

theorem works_failStack {i : Nat} (h0 : Works s0 s) :
    Works s0 (failStack i s) := by
  unfold failStack
  repeat' first
    | with_reducible assumption | with_reducible refine Works.ite (fun _ => ?_) (fun _ => ?_)
    | (intro x; with_reducible refine Works.gen (s0 := s0) (x := x) ?_ ?_; (on_goal 1 => unfold x); (on_goal 2 => (intro _; clear_value x)))
    | (intro x; (have t : Nat := x; clear t); clear_value x) | (intro x) | lift_lets -underBinder
    | with_reducible refine works_setStack ?_
    | fail_if_no_progress (with_reducible refine Works.upd' ?_ rfl rfl rfl rfl rfl rfl) | split
    | with_reducible refine Works.ofFst ?_ (by assumption) | with_reducible refine Works.ofSnd ?_ (by assumption)
    | (clear_value *; split)

theorem works_countUnc {i n : Nat} (h0 : Works s0 s) :
    Works s0 (countUnc i n s) := by
  unfold countUnc
  repeat' first
    | with_reducible assumption | with_reducible refine Works.ite (fun _ => ?_) (fun _ => ?_)
    | (intro x; with_reducible refine Works.gen (s0 := s0) (x := x) ?_ ?_; (on_goal 1 => unfold x); (on_goal 2 => (intro _; clear_value x)))
    | (intro x; (have t : Nat := x; clear t); clear_value x) | (intro x) | lift_lets -underBinder
    | fail_if_no_progress (with_reducible refine Works.upd' ?_ rfl rfl rfl rfl rfl rfl) | split
    | with_reducible refine Works.ofFst ?_ (by assumption) | with_reducible refine Works.ofSnd ?_ (by assumption)
    | (clear_value *; split)

theorem works_stackFailed {i : Nat} {phyLost : Bool} {uncorr : Nat} (h0 : Works s0 s) :
    Works s0 (stackFailed i phyLost uncorr s) := by
  unfold stackFailed
  repeat' first
    | with_reducible assumption | with_reducible refine Works.ite (fun _ => ?_) (fun _ => ?_)
    | (intro x; with_reducible refine Works.gen (s0 := s0) (x := x) ?_ ?_; (on_goal 1 => unfold x); (on_goal 2 => (intro _; clear_value x)))
    | (intro x; (have t : Nat := x; clear t); clear_value x) | (intro x) | lift_lets -underBinder
    | with_reducible refine works_failStack ?_ | with_reducible refine works_countUnc ?_
    | fail_if_no_progress (with_reducible refine Works.upd' ?_ rfl rfl rfl rfl rfl rfl) | split
    | with_reducible refine Works.ofFst ?_ (by assumption) | with_reducible refine Works.ofSnd ?_ (by assumption)
    | (clear_value *; split)

theorem works_dropUsed {r pool page n : Nat} (h0 : Works s0 s) :
    Works s0 (dropUsed r pool page n s) := by
  unfold dropUsed
  repeat' first
    | with_reducible assumption | with_reducible refine Works.ite (fun _ => ?_) (fun _ => ?_)
    | (intro x; with_reducible refine Works.gen (s0 := s0) (x := x) ?_ ?_; (on_goal 1 => unfold x); (on_goal 2 => (intro _; clear_value x)))
    | (intro x; (have t : Nat := x; clear t); clear_value x) | (intro x) | lift_lets -underBinder
    | with_reducible refine works_doIf (fun _ _ => ?_) ?_ | with_reducible refine works_setFld ?_
    | fail_if_no_progress (with_reducible refine Works.upd' ?_ rfl rfl rfl rfl rfl rfl) | split
    | with_reducible refine Works.ofFst ?_ (by assumption) | with_reducible refine Works.ofSnd ?_ (by assumption)
    | (clear_value *; split)

theorem works_losePages {pool page n : Nat} (h0 : Works s0 s) :
    Works s0 (losePages pool page n s) := by
  unfold losePages
  repeat' first
    | with_reducible assumption | with_reducible refine Works.ite (fun _ => ?_) (fun _ => ?_)
    | (intro x; with_reducible refine Works.gen (s0 := s0) (x := x) ?_ ?_; (on_goal 1 => unfold x); (on_goal 2 => (intro _; clear_value x)))
    | (intro x; (have t : Nat := x; clear t); clear_value x) | (intro x) | lift_lets -underBinder
    | with_reducible refine works_bump ?_
    | fail_if_no_progress (with_reducible refine Works.upd' ?_ rfl rfl rfl rfl rfl rfl) | split
    | with_reducible refine Works.ofFst ?_ (by assumption) | with_reducible refine Works.ofSnd ?_ (by assumption)
    | (clear_value *; split)

theorem works_unreadRead {pool page : Nat} (h0 : Works s0 s) :
    Works s0 (unreadRead pool page s) := by
  unfold unreadRead
  repeat' first
    | with_reducible assumption | with_reducible refine Works.ite (fun _ => ?_) (fun _ => ?_)
    | with_reducible refine works_doIf (fun _ _ => ?_) ?_ | with_reducible refine works_stackFailed ?_
    | fail_if_no_progress (with_reducible refine Works.upd' ?_ rfl rfl rfl rfl rfl rfl) | split
    | with_reducible refine Works.ofFst ?_ (by assumption) | with_reducible refine Works.ofSnd ?_ (by assumption)
    | (clear_value *; split)

theorem works_walkFree {pool n page : Nat} {k : Walk} (h : Works s0 s) : Works s0 (walkFree pool n page k s).1 := by
  induction n generalizing page k s with
  | zero => exact h
  | succ n ih =>
    unfold walkFree
    split
    · lift_lets -underBinder
      intro s1 k1
      split
      · exact works_erasePage h
      · split
        · exact works_erasePage h
        · exact ih (works_erasePage h)
    · exact works_unreadRead h

theorem works_walkOn {pool n page : Nat} (h : Works s0 s) : Works s0 (walkOn pool n page s).1 := by
  induction n generalizing page s with
  | zero => exact h
  | succ n ih =>
    unfold walkOn
    split
    · lift_lets -underBinder
      intro s1
      split
      · exact works_setPage h
      · exact ih (works_setPage h)
    · exact works_unreadRead h

theorem works_freeChain {r pool head count : Nat} (h0 : Works s0 s) :
    Works s0 (freeChain r pool head count s) := by
  unfold freeChain
  repeat' first
    | with_reducible assumption | with_reducible refine Works.ite (fun _ => ?_) (fun _ => ?_)
    | (intro x; with_reducible refine Works.gen (s0 := s0) (x := x) ?_ ?_; (on_goal 1 => unfold x); (on_goal 2 => (intro _; clear_value x)))
    | (intro x; (have t : Nat := x; clear t); clear_value x) | (intro x) | lift_lets -underBinder
    | with_reducible refine works_bump ?_ | with_reducible refine works_inc ?_ | with_reducible refine works_report ?_
    | with_reducible refine works_bpmRefresh ?_ | with_reducible refine works_dropUsed ?_
    | with_reducible refine works_losePages ?_ | with_reducible refine works_walkFree ?_
    | with_reducible refine works_walkOn ?_
    | fail_if_no_progress (with_reducible refine Works.upd' ?_ rfl rfl rfl rfl rfl rfl) | split
    | with_reducible refine Works.ofFst ?_ (by assumption) | with_reducible refine Works.ofSnd ?_ (by assumption)
    | (clear_value *; split)

theorem works_setRef {i n : Nat} (h0 : Works s0 s) :
    Works s0 (setRef i n s) := by
  unfold setRef
  repeat' first
    | with_reducible assumption | with_reducible refine Works.ite (fun _ => ?_) (fun _ => ?_)
    | (intro x; with_reducible refine Works.gen (s0 := s0) (x := x) ?_ ?_; (on_goal 1 => unfold x); (on_goal 2 => (intro _; clear_value x)))
    | (intro x; (have t : Nat := x; clear t); clear_value x) | (intro x) | lift_lets -underBinder
    | fail_if_no_progress (with_reducible refine Works.upd' ?_ rfl rfl rfl rfl rfl rfl) | split
    | with_reducible refine Works.ofFst ?_ (by assumption) | with_reducible refine Works.ofSnd ?_ (by assumption)
    | (clear_value *; split)

theorem works_rejectOp {r head : Nat} {h : HeadFind} (h0 : Works s0 s) :
    Works s0 (rejectOp r head h s) := by
  unfold rejectOp
  repeat' first
    | with_reducible assumption | with_reducible refine Works.ite (fun _ => ?_) (fun _ => ?_)
    | (intro x; with_reducible refine Works.gen (s0 := s0) (x := x) ?_ ?_; (on_goal 1 => unfold x); (on_goal 2 => (intro _; clear_value x)))
    | (intro x; (have t : Nat := x; clear t); clear_value x) | (intro x) | lift_lets -underBinder
    | with_reducible refine works_inc ?_ | with_reducible refine works_report ?_
    | fail_if_no_progress (with_reducible refine Works.upd' ?_ rfl rfl rfl rfl rfl rfl) | split
    | with_reducible refine Works.ofFst ?_ (by assumption) | with_reducible refine Works.ofSnd ?_ (by assumption)
    | (clear_value *; split)

theorem works_bpmRelease {r pool head count : Nat} (h0 : Works s0 s) :
    Works s0 (bpmRelease r pool head count s) := by
  unfold bpmRelease
  repeat' first
    | with_reducible assumption | with_reducible refine Works.ite (fun _ => ?_) (fun _ => ?_)
    | (intro x; with_reducible refine Works.gen (s0 := s0) (x := x) ?_ ?_; (on_goal 1 => unfold x); (on_goal 2 => (intro _; clear_value x)))
    | (intro x; (have t : Nat := x; clear t); clear_value x) | (intro x) | lift_lets -underBinder
    | with_reducible refine works_freeChain ?_ | with_reducible refine works_setRef ?_
    | with_reducible refine works_rejectOp ?_
    | fail_if_no_progress (with_reducible refine Works.upd' ?_ rfl rfl rfl rfl rfl rfl) | split
    | with_reducible refine Works.ofFst ?_ (by assumption) | with_reducible refine Works.ofSnd ?_ (by assumption)
    | (clear_value *; split)

theorem works_loseLeaf {pool base : Nat} (h0 : Works s0 s) :
    Works s0 (loseLeaf pool base s) := by
  unfold loseLeaf
  repeat' first
    | with_reducible assumption | with_reducible refine Works.ite (fun _ => ?_) (fun _ => ?_)
    | (intro x; with_reducible refine Works.gen (s0 := s0) (x := x) ?_ ?_; (on_goal 1 => unfold x); (on_goal 2 => (intro _; clear_value x)))
    | (intro x; (have t : Nat := x; clear t); clear_value x) | (intro x) | lift_lets -underBinder
    | with_reducible refine works_forEach (fun _ _ _ => ?_) ?_ | with_reducible refine works_setPage ?_
    | with_reducible refine works_losePages ?_
    | fail_if_no_progress (with_reducible refine Works.upd' ?_ rfl rfl rfl rfl rfl rfl) | split
    | with_reducible refine Works.ofFst ?_ (by assumption) | with_reducible refine Works.ofSnd ?_ (by assumption)
    | (clear_value *; split)

theorem works_loseRef {i : Nat} (h0 : Works s0 s) :
    Works s0 (loseRef i s) := by
  unfold loseRef
  repeat' first
    | with_reducible assumption | with_reducible refine Works.ite (fun _ => ?_) (fun _ => ?_)
    | (intro x; with_reducible refine Works.gen (s0 := s0) (x := x) ?_ ?_; (on_goal 1 => unfold x); (on_goal 2 => (intro _; clear_value x)))
    | (intro x; (have t : Nat := x; clear t); clear_value x) | (intro x) | lift_lets -underBinder
    | with_reducible refine works_report ?_ | with_reducible refine works_dropUsed ?_
    | with_reducible refine works_losePages ?_
    | fail_if_no_progress (with_reducible refine Works.upd' ?_ rfl rfl rfl rfl rfl rfl) | split
    | with_reducible refine Works.ofFst ?_ (by assumption) | with_reducible refine Works.ofSnd ?_ (by assumption)
    | (clear_value *; split)

theorem works_bpmError {m : BpmMem} {ecc : Ecc} (h0 : Works s0 s) :
    Works s0 (bpmError m ecc s) := by
  unfold bpmError
  repeat' first
    | with_reducible assumption | with_reducible refine Works.ite (fun _ => ?_) (fun _ => ?_)
    | (intro x; with_reducible refine Works.gen (s0 := s0) (x := x) ?_ ?_; (on_goal 1 => unfold x); (on_goal 2 => (intro _; clear_value x)))
    | (intro x; (have t : Nat := x; clear t); clear_value x) | (intro x) | lift_lets -underBinder
    | with_reducible refine works_doIf (fun _ _ => ?_) ?_ | with_reducible refine works_inc ?_
    | with_reducible refine works_report ?_ | with_reducible refine works_setPage ?_
    | with_reducible refine works_bpmRefresh ?_ | with_reducible refine works_stackFailed ?_
    | with_reducible refine works_loseLeaf ?_ | with_reducible refine works_loseRef ?_
    | fail_if_no_progress (with_reducible refine Works.upd' ?_ rfl rfl rfl rfl rfl rfl) | split
    | with_reducible refine Works.ofFst ?_ (by assumption) | with_reducible refine Works.ofSnd ?_ (by assumption)
    | (clear_value *; split)

theorem works_readRec {p pool page : Nat} {ecc : Ecc} (h0 : Works s0 s) :
    Works s0 (readRec p pool page ecc s) := by
  have h1 := works_bpmError (m := .record pool page) (ecc := ecc) h0
  unfold readRec
  extract_lets none_ ok bad
  have hn : ∀ s, Works s0 s → Works s0 (none_ s) := fun _ hs => works_complete (works_wr _ _ hs)
  have ho : ∀ w s, Works s0 s → Works s0 (ok w s) := fun _ _ hs => works_complete (works_wr _ _ hs)
  have hb : ∀ s, Works s0 s → Works s0 (bad s) := fun _ hs => works_complete hs
  clear_value none_ ok bad
  refine Works.ite (fun _ => hn _ h0) (fun _ => Works.ite (fun _ => Works.ite (fun _ => hn _ h0) (fun _ => ?_)) (fun _ => ?_))
  · exact Works.ite (fun _ => hb _ h1) (fun _ => ho _ _ h1)
  · rcases s.page pool page with _ | x
    · exact hn _ h0
    · refine Works.ite (fun _ => hb _ h0) (fun _ => ?_)
      generalize (ecc == .uncorr) = b
      cases b <;> cases x <;> first | exact hb _ h1 | exact ho _ _ h1 | exact hb _ (works_unreadRead h1)

theorem works_readRef {p i : Nat} {ecc : Ecc} (h0 : Works s0 s) :
    Works s0 (readRef p i ecc s) := by
  unfold readRef
  repeat' first
    | with_reducible assumption | with_reducible refine Works.ite (fun _ => ?_) (fun _ => ?_)
    | (intro x; with_reducible refine Works.gen (s0 := s0) (x := x) ?_ ?_; (on_goal 1 => unfold x); (on_goal 2 => (intro _; clear_value x)))
    | (intro x; (have t : Nat := x; clear t); clear_value x) | (intro x) | lift_lets -underBinder
    | with_reducible apply works_wr | with_reducible refine works_complete ?_ | with_reducible refine works_bpmError ?_
    | fail_if_no_progress (with_reducible refine Works.upd' ?_ rfl rfl rfl rfl rfl rfl) | split
    | with_reducible refine Works.ofFst ?_ (by assumption) | with_reducible refine Works.ofSnd ?_ (by assumption)
    | (clear_value *; split)

theorem works_retireStack {p i : Nat} (h0 : Works s0 s) :
    Works s0 (retireStack p i s) := by
  unfold retireStack
  repeat' first
    | with_reducible assumption | with_reducible refine Works.ite (fun _ => ?_) (fun _ => ?_)
    | with_reducible refine works_complete ?_ | with_reducible refine works_setStack ?_
    | fail_if_no_progress (with_reducible refine Works.upd' ?_ rfl rfl rfl rfl rfl rfl) | split
    | with_reducible refine Works.ofFst ?_ (by assumption) | with_reducible refine Works.ofSnd ?_ (by assumption)
    | (clear_value *; split)

theorem works_restoreStack {p i : Nat} (h0 : Works s0 s) :
    Works s0 (restoreStack p i s) := by
  unfold restoreStack
  repeat' first
    | with_reducible assumption | with_reducible refine Works.ite (fun _ => ?_) (fun _ => ?_)
    | with_reducible refine works_complete ?_ | with_reducible refine works_setStack ?_
    | fail_if_no_progress (with_reducible refine Works.upd' ?_ rfl rfl rfl rfl rfl rfl) | split
    | with_reducible refine Works.ofFst ?_ (by assumption) | with_reducible refine Works.ofSnd ?_ (by assumption)
    | (clear_value *; split)

theorem works_bpmPerform {p op pool i : Nat} {ecc : Ecc} (h0 : Works s0 s) :
    Works s0 (bpmPerform p op pool i ecc s) := by
  unfold bpmPerform
  repeat' first
    | with_reducible assumption | with_reducible refine Works.ite (fun _ => ?_) (fun _ => ?_)
    | (intro x; with_reducible refine Works.gen (s0 := s0) (x := x) ?_ ?_; (on_goal 1 => unfold x); (on_goal 2 => (intro _; clear_value x)))
    | (intro x; (have t : Nat := x; clear t); clear_value x) | (intro x) | lift_lets -underBinder
    | with_reducible refine works_readRec ?_ | with_reducible refine works_readRef ?_
    | with_reducible refine works_retireStack ?_ | with_reducible refine works_restoreStack ?_
    | fail_if_no_progress (with_reducible refine Works.upd' ?_ rfl rfl rfl rfl rfl rfl) | split
    | with_reducible refine Works.ofFst ?_ (by assumption) | with_reducible refine Works.ofSnd ?_ (by assumption)
    | (clear_value *; split)

theorem works_bpmAct {fn : Fn} {p op pool i : Nat} {ecc : Ecc} (h0 : Works s0 s) :
    Works s0 (bpmAct fn p op pool i ecc s) := by
  unfold bpmAct
  repeat' first
    | with_reducible assumption | with_reducible refine Works.ite (fun _ => ?_) (fun _ => ?_)
    | (intro x; with_reducible refine Works.gen (s0 := s0) (x := x) ?_ ?_; (on_goal 1 => unfold x); (on_goal 2 => (intro _; clear_value x)))
    | (intro x; (have t : Nat := x; clear t); clear_value x) | (intro x) | lift_lets -underBinder
    | with_reducible refine works_doIf (fun _ _ => ?_) ?_ | with_reducible apply works_wr
    | with_reducible refine works_denied ?_ | with_reducible refine works_runChecks (fun _ _ => ?_) ?_
    | with_reducible refine works_bpmPerform ?_
    | fail_if_no_progress (with_reducible refine Works.upd' ?_ rfl rfl rfl rfl rfl rfl) | split
    | with_reducible refine Works.ofFst ?_ (by assumption) | with_reducible refine Works.ofSnd ?_ (by assumption)
    | (clear_value *; split)

theorem works_fabBump {off n : Nat} (h0 : Works s0 s) :
    Works s0 (fabBump off n s) := by
  unfold fabBump
  repeat' first
    | with_reducible assumption | with_reducible refine Works.ite (fun _ => ?_) (fun _ => ?_)
    | (intro x; with_reducible refine Works.gen (s0 := s0) (x := x) ?_ ?_; (on_goal 1 => unfold x); (on_goal 2 => (intro _; clear_value x)))
    | (intro x; (have t : Nat := x; clear t); clear_value x) | (intro x) | lift_lets -underBinder
    | fail_if_no_progress (with_reducible refine Works.upd' ?_ rfl rfl rfl rfl rfl rfl) | split
    | with_reducible refine Works.ofFst ?_ (by assumption) | with_reducible refine Works.ofSnd ?_ (by assumption)
    | (clear_value *; split)

theorem works_fabInc {off : Nat} (h0 : Works s0 s) :
    Works s0 (fabInc off s) := by
  unfold fabInc
  repeat' first
    | with_reducible assumption | with_reducible refine Works.ite (fun _ => ?_) (fun _ => ?_)
    | with_reducible refine works_fabBump ?_
    | fail_if_no_progress (with_reducible refine Works.upd' ?_ rfl rfl rfl rfl rfl rfl) | split
    | with_reducible refine Works.ofFst ?_ (by assumption) | with_reducible refine Works.ofSnd ?_ (by assumption)
    | (clear_value *; split)

theorem works_setGroup {g : Nat} {k : GroupSt} (h0 : Works s0 s) :
    Works s0 (setGroup g k s) := by
  unfold setGroup
  repeat' first
    | with_reducible assumption | with_reducible refine Works.ite (fun _ => ?_) (fun _ => ?_)
    | (intro x; with_reducible refine Works.gen (s0 := s0) (x := x) ?_ ?_; (on_goal 1 => unfold x); (on_goal 2 => (intro _; clear_value x)))
    | (intro x; (have t : Nat := x; clear t); clear_value x) | (intro x) | lift_lets -underBinder
    | fail_if_no_progress (with_reducible refine Works.upd' ?_ rfl rfl rfl rfl rfl rfl) | split
    | with_reducible refine Works.ofFst ?_ (by assumption) | with_reducible refine Works.ofSnd ?_ (by assumption)
    | (clear_value *; split)

theorem works_takeCredit {m : CreditMsg} (h0 : Works s0 s) :
    Works s0 (takeCredit m s) := by
  unfold takeCredit
  repeat' first
    | with_reducible assumption | with_reducible refine Works.ite (fun _ => ?_) (fun _ => ?_)
    | (intro x; with_reducible refine Works.gen (s0 := s0) (x := x) ?_ ?_; (on_goal 1 => unfold x); (on_goal 2 => (intro _; clear_value x)))
    | (intro x; (have t : Nat := x; clear t); clear_value x) | (intro x) | lift_lets -underBinder
    | fail_if_no_progress (with_reducible refine Works.upd' ?_ rfl rfl rfl rfl rfl rfl) | split
    | with_reducible refine Works.ofFst ?_ (by assumption) | with_reducible refine Works.ofSnd ?_ (by assumption)
    | (clear_value *; split)

theorem works_sendCredit {t : Nat} {m : CreditMsg} (h0 : Works s0 s) :
    Works s0 (sendCredit t m s) := by
  unfold sendCredit
  repeat' first
    | with_reducible assumption | with_reducible refine Works.ite (fun _ => ?_) (fun _ => ?_)
    | (intro x; with_reducible refine Works.gen (s0 := s0) (x := x) ?_ ?_; (on_goal 1 => unfold x); (on_goal 2 => (intro _; clear_value x)))
    | (intro x; (have t : Nat := x; clear t); clear_value x) | (intro x) | lift_lets -underBinder
    | with_reducible refine works_fabInc ?_ | with_reducible refine works_setGroup ?_
    | with_reducible refine works_takeCredit ?_
    | fail_if_no_progress (with_reducible refine Works.upd' ?_ rfl rfl rfl rfl rfl rfl) | split
    | with_reducible refine Works.ofFst ?_ (by assumption) | with_reducible refine Works.ofSnd ?_ (by assumption)
    | (clear_value *; split)

theorem works_setQue {q : Nat} {k : QueueSt} (h0 : Works s0 s) :
    Works s0 (setQue q k s) := by
  unfold setQue
  repeat' first
    | with_reducible assumption | with_reducible refine Works.ite (fun _ => ?_) (fun _ => ?_)
    | (intro x; with_reducible refine Works.gen (s0 := s0) (x := x) ?_ ?_; (on_goal 1 => unfold x); (on_goal 2 => (intro _; clear_value x)))
    | (intro x; (have t : Nat := x; clear t); clear_value x) | (intro x) | lift_lets -underBinder
    | with_reducible refine works_setFld ?_
    | fail_if_no_progress (with_reducible refine Works.upd' ?_ rfl rfl rfl rfl rfl rfl) | split
    | with_reducible refine Works.ofFst ?_ (by assumption) | with_reducible refine Works.ofSnd ?_ (by assumption)
    | (clear_value *; split)

theorem works_onQue {q : Nat} {f : QueueSt → QueueSt} (h0 : Works s0 s) :
    Works s0 (onQue q f s) := by
  unfold onQue
  repeat' first
    | with_reducible assumption | with_reducible refine Works.ite (fun _ => ?_) (fun _ => ?_)
    | with_reducible refine works_setQue ?_
    | fail_if_no_progress (with_reducible refine Works.upd' ?_ rfl rfl rfl rfl rfl rfl) | split
    | with_reducible refine Works.ofFst ?_ (by assumption) | with_reducible refine Works.ofSnd ?_ (by assumption)
    | (clear_value *; split)

theorem works_countDrop {q : Nat} (h0 : Works s0 s) :
    Works s0 (countDrop q s) := by
  unfold countDrop
  repeat' first
    | with_reducible assumption | with_reducible refine Works.ite (fun _ => ?_) (fun _ => ?_)
    | (intro x; with_reducible refine Works.gen (s0 := s0) (x := x) ?_ ?_; (on_goal 1 => unfold x); (on_goal 2 => (intro _; clear_value x)))
    | (intro x; (have t : Nat := x; clear t); clear_value x) | (intro x) | lift_lets -underBinder
    | with_reducible refine works_onQue ?_
    | fail_if_no_progress (with_reducible refine Works.upd' ?_ rfl rfl rfl rfl rfl rfl) | split
    | with_reducible refine Works.ofFst ?_ (by assumption) | with_reducible refine Works.ofSnd ?_ (by assumption)
    | (clear_value *; split)

theorem works_addPfc {k : Option (Nat × Nat)} {add sub : Nat} (h0 : Works s0 s) :
    Works s0 (addPfc k add sub s) := by
  unfold addPfc
  repeat' first
    | with_reducible assumption | with_reducible refine Works.ite (fun _ => ?_) (fun _ => ?_)
    | (intro x; with_reducible refine Works.gen (s0 := s0) (x := x) ?_ ?_; (on_goal 1 => unfold x); (on_goal 2 => (intro _; clear_value x)))
    | (intro x; (have t : Nat := x; clear t); clear_value x) | (intro x) | lift_lets -underBinder
    | fail_if_no_progress (with_reducible refine Works.upd' ?_ rfl rfl rfl rfl rfl rfl) | split
    | with_reducible refine Works.ofFst ?_ (by assumption) | with_reducible refine Works.ofSnd ?_ (by assumption)
    | (clear_value *; split)

theorem works_forgetPkt {id : Nat} (h0 : Works s0 s) :
    Works s0 (forgetPkt id s) := by
  unfold forgetPkt
  repeat' first
    | with_reducible assumption | with_reducible refine Works.ite (fun _ => ?_) (fun _ => ?_)
    | (intro x; with_reducible refine Works.gen (s0 := s0) (x := x) ?_ ?_; (on_goal 1 => unfold x); (on_goal 2 => (intro _; clear_value x)))
    | (intro x; (have t : Nat := x; clear t); clear_value x) | (intro x) | lift_lets -underBinder
    | with_reducible refine works_setPkt ?_ | with_reducible refine works_erasePkt ?_
    | fail_if_no_progress (with_reducible refine Works.upd' ?_ rfl rfl rfl rfl rfl rfl) | split
    | with_reducible refine Works.ofFst ?_ (by assumption) | with_reducible refine Works.ofSnd ?_ (by assumption)
    | (clear_value *; split)

theorem works_dropRef {id : Nat} (h0 : Works s0 s) :
    Works s0 (dropRef id s) := by
  unfold dropRef
  repeat' first
    | with_reducible assumption | with_reducible refine Works.ite (fun _ => ?_) (fun _ => ?_)
    | (intro x; with_reducible refine Works.gen (s0 := s0) (x := x) ?_ ?_; (on_goal 1 => unfold x); (on_goal 2 => (intro _; clear_value x)))
    | (intro x; (have t : Nat := x; clear t); clear_value x) | (intro x) | lift_lets -underBinder
    | with_reducible refine works_setStore ?_ | with_reducible refine works_bpmRelease ?_
    | with_reducible refine works_addPfc ?_ | with_reducible refine works_forgetPkt ?_
    | fail_if_no_progress (with_reducible refine Works.upd' ?_ rfl rfl rfl rfl rfl rfl) | split
    | with_reducible refine Works.ofFst ?_ (by assumption) | with_reducible refine Works.ofSnd ?_ (by assumption)
    | (clear_value *; split)

theorem works_sendRequest {q : Nat} (h0 : Works s0 s) :
    Works s0 (sendRequest q s) := by
  unfold sendRequest
  repeat' first
    | with_reducible assumption | with_reducible refine Works.ite (fun _ => ?_) (fun _ => ?_)
    | (intro x; with_reducible refine Works.gen (s0 := s0) (x := x) ?_ ?_; (on_goal 1 => unfold x); (on_goal 2 => (intro _; clear_value x)))
    | (intro x; (have t : Nat := x; clear t); clear_value x) | (intro x) | lift_lets -underBinder
    | with_reducible refine works_inc ?_ | with_reducible refine works_sendCredit ?_
    | with_reducible refine works_onQue ?_
    | fail_if_no_progress (with_reducible refine Works.upd' ?_ rfl rfl rfl rfl rfl rfl) | split
    | with_reducible refine Works.ofFst ?_ (by assumption) | with_reducible refine Works.ofSnd ?_ (by assumption)
    | (clear_value *; split)

theorem works_voqState {q : Nat} (h0 : Works s0 s) :
    Works s0 (voqState q s) := by
  unfold voqState
  repeat' first
    | with_reducible assumption | with_reducible refine Works.ite (fun _ => ?_) (fun _ => ?_)
    | (intro x; with_reducible refine Works.gen (s0 := s0) (x := x) ?_ ?_; (on_goal 1 => unfold x); (on_goal 2 => (intro _; clear_value x)))
    | (intro x; (have t : Nat := x; clear t); clear_value x) | (intro x) | lift_lets -underBinder
    | with_reducible refine works_setQue ?_ | with_reducible refine works_sendRequest ?_
    | fail_if_no_progress (with_reducible refine Works.upd' ?_ rfl rfl rfl rfl rfl rfl) | split
    | with_reducible refine Works.ofFst ?_ (by assumption) | with_reducible refine Works.ofSnd ?_ (by assumption)
    | (clear_value *; split)

theorem works_setNode {level i : Nat} {k : NodeSt} (h0 : Works s0 s) :
    Works s0 (setNode level i k s) := by
  unfold setNode
  repeat' first
    | with_reducible assumption | with_reducible refine Works.ite (fun _ => ?_) (fun _ => ?_)
    | (intro x; with_reducible refine Works.gen (s0 := s0) (x := x) ?_ ?_; (on_goal 1 => unfold x); (on_goal 2 => (intro _; clear_value x)))
    | (intro x; (have t : Nat := x; clear t); clear_value x) | (intro x) | lift_lets -underBinder
    | fail_if_no_progress (with_reducible refine Works.upd' ?_ rfl rfl rfl rfl rfl rfl) | split
    | with_reducible refine Works.ofFst ?_ (by assumption) | with_reducible refine Works.ofSnd ?_ (by assumption)
    | (clear_value *; split)

theorem works_restNodes {q : Nat} (h0 : Works s0 s) :
    Works s0 (restNodes q s) := by
  unfold restNodes
  repeat' first
    | with_reducible assumption | with_reducible refine Works.ite (fun _ => ?_) (fun _ => ?_)
    | with_reducible refine works_forEach (fun _ _ _ => ?_) ?_ | with_reducible refine works_setNode ?_
    | fail_if_no_progress (with_reducible refine Works.upd' ?_ rfl rfl rfl rfl rfl rfl) | split
    | with_reducible refine Works.ofFst ?_ (by assumption) | with_reducible refine Works.ofSnd ?_ (by assumption)
    | (clear_value *; split)

theorem works_popEnt {q : Nat} (h0 : Works s0 s) :
    Works s0 (popEnt q s) := by
  unfold popEnt
  repeat' first
    | with_reducible assumption | with_reducible refine Works.ite (fun _ => ?_) (fun _ => ?_)
    | (intro x; with_reducible refine Works.gen (s0 := s0) (x := x) ?_ ?_; (on_goal 1 => unfold x); (on_goal 2 => (intro _; clear_value x)))
    | (intro x; (have t : Nat := x; clear t); clear_value x) | (intro x) | lift_lets -underBinder
    | with_reducible refine works_doIf (fun _ _ => ?_) ?_ | with_reducible refine works_setQue ?_
    | with_reducible refine works_voqState ?_ | with_reducible refine works_restNodes ?_
    | fail_if_no_progress (with_reducible refine Works.upd' ?_ rfl rfl rfl rfl rfl rfl) | split
    | with_reducible refine Works.ofFst ?_ (by assumption) | with_reducible refine Works.ofSnd ?_ (by assumption)
    | (clear_value *; split)

theorem works_discardHead {q : Nat} {ctr : Option Nat} (h0 : Works s0 s) :
    Works s0 (discardHead q ctr s) := by
  unfold discardHead
  repeat' first
    | with_reducible assumption | with_reducible refine Works.ite (fun _ => ?_) (fun _ => ?_)
    | (intro x; with_reducible refine Works.gen (s0 := s0) (x := x) ?_ ?_; (on_goal 1 => unfold x); (on_goal 2 => (intro _; clear_value x)))
    | (intro x; (have t : Nat := x; clear t); clear_value x) | (intro x) | lift_lets -underBinder
    | with_reducible refine works_inc ?_ | with_reducible refine works_countDrop ?_
    | with_reducible refine works_dropRef ?_ | with_reducible refine works_popEnt ?_
    | fail_if_no_progress (with_reducible refine Works.upd' ?_ rfl rfl rfl rfl rfl rfl) | split
    | with_reducible refine Works.ofFst ?_ (by assumption) | with_reducible refine Works.ofSnd ?_ (by assumption)
    | (clear_value *; split)

theorem works_setPolicer {i : Nat} {k : PolicerSt} (h0 : Works s0 s) :
    Works s0 (setPolicer i k s) := by
  unfold setPolicer
  repeat' first
    | with_reducible assumption | with_reducible refine Works.ite (fun _ => ?_) (fun _ => ?_)
    | (intro x; with_reducible refine Works.gen (s0 := s0) (x := x) ?_ ?_; (on_goal 1 => unfold x); (on_goal 2 => (intro _; clear_value x)))
    | (intro x; (have t : Nat := x; clear t); clear_value x) | (intro x) | lift_lets -underBinder
    | fail_if_no_progress (with_reducible refine Works.upd' ?_ rfl rfl rfl rfl rfl rfl) | split
    | with_reducible refine Works.ofFst ?_ (by assumption) | with_reducible refine Works.ofSnd ?_ (by assumption)
    | (clear_value *; split)

theorem works_flushSome {q n : Nat} (h0 : Works s0 s) :
    Works s0 (flushSome q n s) := by
  unfold flushSome
  repeat' first
    | with_reducible assumption | with_reducible refine Works.ite (fun _ => ?_) (fun _ => ?_)
    | with_reducible refine works_forEach (fun _ _ _ => ?_) ?_ | with_reducible refine works_discardHead ?_
    | fail_if_no_progress (with_reducible refine Works.upd' ?_ rfl rfl rfl rfl rfl rfl) | split
    | with_reducible refine Works.ofFst ?_ (by assumption) | with_reducible refine Works.ofSnd ?_ (by assumption)
    | (clear_value *; split)

theorem works_flushQue {q : Nat} (h0 : Works s0 s) :
    Works s0 (flushQue q s) := by
  unfold flushQue
  repeat' first
    | with_reducible assumption | with_reducible refine Works.ite (fun _ => ?_) (fun _ => ?_)
    | with_reducible refine works_flushSome ?_
    | fail_if_no_progress (with_reducible refine Works.upd' ?_ rfl rfl rfl rfl rfl rfl) | split
    | with_reducible refine Works.ofFst ?_ (by assumption) | with_reducible refine Works.ofSnd ?_ (by assumption)
    | (clear_value *; split)

theorem works_loseHead {q : Nat} (h0 : Works s0 s) :
    Works s0 (loseHead q s) := by
  unfold loseHead
  repeat' first
    | with_reducible assumption | with_reducible refine Works.ite (fun _ => ?_) (fun _ => ?_)
    | (intro x; with_reducible refine Works.gen (s0 := s0) (x := x) ?_ ?_; (on_goal 1 => unfold x); (on_goal 2 => (intro _; clear_value x)))
    | (intro x; (have t : Nat := x; clear t); clear_value x) | (intro x) | lift_lets -underBinder
    | with_reducible refine works_bpmRefresh ?_ | with_reducible refine works_dropUsed ?_
    | with_reducible refine works_losePages ?_ | with_reducible refine works_walkOn ?_
    | with_reducible refine works_addPfc ?_ | with_reducible refine works_forgetPkt ?_
    | with_reducible refine works_dropRef ?_ | with_reducible refine works_popEnt ?_
    | fail_if_no_progress (with_reducible refine Works.upd' ?_ rfl rfl rfl rfl rfl rfl) | split
    | with_reducible refine Works.ofFst ?_ (by assumption) | with_reducible refine Works.ofSnd ?_ (by assumption)
    | (clear_value *; split)

theorem works_queueBroken {q : Nat} (h0 : Works s0 s) :
    Works s0 (queueBroken q s) := by
  unfold queueBroken
  repeat' first
    | with_reducible assumption | with_reducible refine Works.ite (fun _ => ?_) (fun _ => ?_)
    | (intro x; with_reducible refine Works.gen (s0 := s0) (x := x) ?_ ?_; (on_goal 1 => unfold x); (on_goal 2 => (intro _; clear_value x)))
    | (intro x; (have t : Nat := x; clear t); clear_value x) | (intro x) | lift_lets -underBinder
    | with_reducible refine works_forEach (fun _ _ _ => ?_) ?_ | with_reducible refine works_flushSome ?_
    | with_reducible refine works_loseHead ?_
    | fail_if_no_progress (with_reducible refine Works.upd' ?_ rfl rfl rfl rfl rfl rfl) | split
    | with_reducible refine Works.ofFst ?_ (by assumption) | with_reducible refine Works.ofSnd ?_ (by assumption)
    | (clear_value *; split)

theorem works_setObjBad {obj i : Nat} {b : Bool} (h0 : Works s0 s) :
    Works s0 (setObjBad obj i b s) := by
  unfold setObjBad
  repeat' first
    | with_reducible assumption | with_reducible refine Works.ite (fun _ => ?_) (fun _ => ?_)
    | (intro x; with_reducible refine Works.gen (s0 := s0) (x := x) ?_ ?_; (on_goal 1 => unfold x); (on_goal 2 => (intro _; clear_value x)))
    | (intro x; (have t : Nat := x; clear t); clear_value x) | (intro x) | lift_lets -underBinder
    | with_reducible refine works_onQue ?_ | with_reducible refine works_setPolicer ?_
    | with_reducible refine works_setNode ?_
    | fail_if_no_progress (with_reducible refine Works.upd' ?_ rfl rfl rfl rfl rfl rfl) | split
    | with_reducible refine Works.ofFst ?_ (by assumption) | with_reducible refine Works.ofSnd ?_ (by assumption)
    | (clear_value *; split)

theorem works_qCountBad {q i : Nat} (h0 : Works s0 s) :
    Works s0 (qCountBad q i s) := by
  unfold qCountBad
  repeat' first
    | with_reducible assumption | with_reducible refine Works.ite (fun _ => ?_) (fun _ => ?_)
    | with_reducible refine works_inc ?_ | with_reducible refine works_report ?_ | with_reducible refine works_onQue ?_
    | fail_if_no_progress (with_reducible refine Works.upd' ?_ rfl rfl rfl rfl rfl rfl) | split
    | with_reducible refine Works.ofFst ?_ (by assumption) | with_reducible refine Works.ofSnd ?_ (by assumption)
    | (clear_value *; split)

theorem works_qEccBad {obj i : Nat} (h0 : Works s0 s) :
    Works s0 (qEccBad obj i s) := by
  unfold qEccBad
  repeat' first
    | with_reducible assumption | with_reducible refine Works.ite (fun _ => ?_) (fun _ => ?_)
    | (intro x; with_reducible refine Works.gen (s0 := s0) (x := x) ?_ ?_; (on_goal 1 => unfold x); (on_goal 2 => (intro _; clear_value x)))
    | (intro x; (have t : Nat := x; clear t); clear_value x) | (intro x) | lift_lets -underBinder
    | with_reducible refine works_doIf (fun _ _ => ?_) ?_ | with_reducible refine works_inc ?_
    | with_reducible refine works_report ?_ | with_reducible refine works_queueBroken ?_
    | with_reducible refine works_setObjBad ?_ | with_reducible refine works_qCountBad ?_
    | fail_if_no_progress (with_reducible refine Works.upd' ?_ rfl rfl rfl rfl rfl rfl) | split
    | with_reducible refine Works.ofFst ?_ (by assumption) | with_reducible refine Works.ofSnd ?_ (by assumption)
    | (clear_value *; split)

theorem works_qEccFix {obj i : Nat} (h0 : Works s0 s) :
    Works s0 (qEccFix obj i s) := by
  unfold qEccFix
  repeat' first
    | with_reducible assumption | with_reducible refine Works.ite (fun _ => ?_) (fun _ => ?_)
    | with_reducible refine works_inc ?_ | with_reducible refine works_report ?_
    | fail_if_no_progress (with_reducible refine Works.upd' ?_ rfl rfl rfl rfl rfl rfl) | split
    | with_reducible refine Works.ofFst ?_ (by assumption) | with_reducible refine Works.ofSnd ?_ (by assumption)
    | (clear_value *; split)

theorem works_qStore {obj i : Nat} {b : Bytes} (h0 : Works s0 s) :
    Works s0 (qStore obj i b s) := by
  unfold qStore
  repeat' first
    | with_reducible assumption | with_reducible refine Works.ite (fun _ => ?_) (fun _ => ?_)
    | (intro x; with_reducible refine Works.gen (s0 := s0) (x := x) ?_ ?_; (on_goal 1 => unfold x); (on_goal 2 => (intro _; clear_value x)))
    | (intro x; (have t : Nat := x; clear t); clear_value x) | (intro x) | lift_lets -underBinder
    | with_reducible refine works_onQue ?_ | with_reducible refine works_setNode ?_
    | with_reducible refine works_setPolicer ?_ | with_reducible refine works_setObjBad ?_
    | fail_if_no_progress (with_reducible refine Works.upd' ?_ rfl rfl rfl rfl rfl rfl) | split
    | with_reducible refine Works.ofFst ?_ (by assumption) | with_reducible refine Works.ofSnd ?_ (by assumption)
    | (clear_value *; split)

theorem works_qWriteDo {fn : Fn} {p obj i : Nat} (h0 : Works s0 s) :
    Works s0 (qWriteDo fn p obj i s) := by
  unfold qWriteDo
  repeat' first
    | with_reducible assumption | with_reducible refine Works.ite (fun _ => ?_) (fun _ => ?_)
    | (intro x; with_reducible refine Works.gen (s0 := s0) (x := x) ?_ ?_; (on_goal 1 => unfold x); (on_goal 2 => (intro _; clear_value x)))
    | (intro x; (have t : Nat := x; clear t); clear_value x) | (intro x) | lift_lets -underBinder
    | with_reducible refine works_quiesceLog ?_ | with_reducible refine works_complete ?_
    | with_reducible refine works_qStore ?_
    | fail_if_no_progress (with_reducible refine Works.upd' ?_ rfl rfl rfl rfl rfl rfl) | split
    | with_reducible refine Works.ofFst ?_ (by assumption) | with_reducible refine Works.ofSnd ?_ (by assumption)
    | (clear_value *; split)

theorem works_qReadDo {p obj i : Nat} {ecc : Ecc} (h0 : Works s0 s) :
    Works s0 (qReadDo p obj i ecc s) := by
  unfold qReadDo
  repeat' first
    | with_reducible assumption | with_reducible refine Works.ite (fun _ => ?_) (fun _ => ?_)
    | (intro x; with_reducible refine Works.gen (s0 := s0) (x := x) ?_ ?_; (on_goal 1 => unfold x); (on_goal 2 => (intro _; clear_value x)))
    | (intro x; (have t : Nat := x; clear t); clear_value x) | (intro x) | lift_lets -underBinder
    | with_reducible refine works_doIf (fun _ _ => ?_) ?_ | with_reducible refine works_complete ?_
    | with_reducible refine works_setData ?_ | with_reducible refine works_qEccBad ?_
    | with_reducible refine works_qEccFix ?_
    | fail_if_no_progress (with_reducible refine Works.upd' ?_ rfl rfl rfl rfl rfl rfl) | split
    | with_reducible refine Works.ofFst ?_ (by assumption) | with_reducible refine Works.ofSnd ?_ (by assumption)
    | (clear_value *; split)

theorem works_qCommitDo {p obj c : Nat} (h0 : Works s0 s) :
    Works s0 (qCommitDo p obj c s) := by
  unfold qCommitDo
  dsimp only
  repeat' first
    | with_reducible assumption | with_reducible refine Works.ite (fun _ => ?_) (fun _ => ?_)
    | with_reducible refine works_complete ?_ | with_reducible refine works_setObjBad ?_
    | fail_if_no_progress (with_reducible refine Works.upd' ?_ rfl rfl rfl rfl rfl rfl) | split
    | with_reducible refine Works.ofFst ?_ (by assumption) | with_reducible refine Works.ofSnd ?_ (by assumption)
    | (clear_value *; split)

theorem works_qFlushDo {p i : Nat} (h0 : Works s0 s) :
    Works s0 (qFlushDo p i s) := by
  unfold qFlushDo
  repeat' first
    | with_reducible assumption | with_reducible refine Works.ite (fun _ => ?_) (fun _ => ?_)
    | (intro x; with_reducible refine Works.gen (s0 := s0) (x := x) ?_ ?_; (on_goal 1 => unfold x); (on_goal 2 => (intro _; clear_value x)))
    | (intro x; (have t : Nat := x; clear t); clear_value x) | (intro x) | lift_lets -underBinder
    | with_reducible refine works_complete ?_
    | fail_if_no_progress (with_reducible refine Works.upd' ?_ rfl rfl rfl rfl rfl rfl) | split
    | with_reducible refine Works.ofFst ?_ (by assumption) | with_reducible refine Works.ofSnd ?_ (by assumption)
    | (clear_value *; split)

theorem works_qPerform {fn : Fn} {p op obj i : Nat} {ecc : Ecc} (h0 : Works s0 s) :
    Works s0 (qPerform fn p op obj i ecc s) := by
  unfold qPerform
  repeat' first
    | with_reducible assumption | with_reducible refine Works.ite (fun _ => ?_) (fun _ => ?_)
    | (intro x; with_reducible refine Works.gen (s0 := s0) (x := x) ?_ ?_; (on_goal 1 => unfold x); (on_goal 2 => (intro _; clear_value x)))
    | (intro x; (have t : Nat := x; clear t); clear_value x) | (intro x) | lift_lets -underBinder
    | with_reducible refine works_qWriteDo ?_ | with_reducible refine works_qReadDo ?_
    | with_reducible refine works_qCommitDo ?_ | with_reducible refine works_qFlushDo ?_
    | fail_if_no_progress (with_reducible refine Works.upd' ?_ rfl rfl rfl rfl rfl rfl) | split
    | with_reducible refine Works.ofFst ?_ (by assumption) | with_reducible refine Works.ofSnd ?_ (by assumption)
    | (clear_value *; split)

theorem works_qAct {fn : Fn} {p op obj i : Nat} {ecc : Ecc} (h0 : Works s0 s) :
    Works s0 (qAct fn p op obj i ecc s) := by
  unfold qAct
  repeat' first
    | with_reducible assumption | with_reducible refine Works.ite (fun _ => ?_) (fun _ => ?_)
    | with_reducible refine works_runChecks (fun _ _ => ?_) ?_ | with_reducible refine works_qPerform ?_
    | fail_if_no_progress (with_reducible refine Works.upd' ?_ rfl rfl rfl rfl rfl rfl) | split
    | with_reducible refine Works.ofFst ?_ (by assumption) | with_reducible refine Works.ofSnd ?_ (by assumption)
    | (clear_value *; split)

theorem works_setCalImg {b : Nat} {i : Bytes} (h0 : Works s0 s) :
    Works s0 (setCalImg b i s) := by
  unfold setCalImg
  repeat' first
    | with_reducible assumption | with_reducible refine Works.ite (fun _ => ?_) (fun _ => ?_)
    | (intro x; with_reducible refine Works.gen (s0 := s0) (x := x) ?_ ?_; (on_goal 1 => unfold x); (on_goal 2 => (intro _; clear_value x)))
    | (intro x; (have t : Nat := x; clear t); clear_value x) | (intro x) | lift_lets -underBinder
    | fail_if_no_progress (with_reducible refine Works.upd' ?_ rfl rfl rfl rfl rfl rfl) | split
    | with_reducible refine Works.ofFst ?_ (by assumption) | with_reducible refine Works.ofSnd ?_ (by assumption)
    | (clear_value *; split)

theorem works_calShow {b flows epoch : Nat} (h0 : Works s0 s) :
    Works s0 (calShow b flows epoch s) := by
  unfold calShow
  repeat' first
    | with_reducible assumption | with_reducible refine Works.ite (fun _ => ?_) (fun _ => ?_)
    | with_reducible refine works_setFld ?_
    | fail_if_no_progress (with_reducible refine Works.upd' ?_ rfl rfl rfl rfl rfl rfl) | split
    | with_reducible refine Works.ofFst ?_ (by assumption) | with_reducible refine Works.ofSnd ?_ (by assumption)
    | (clear_value *; split)

theorem works_calTo {b st : Nat} (h0 : Works s0 s) :
    Works s0 (calTo b st s) := by
  unfold calTo
  repeat' first
    | with_reducible assumption | with_reducible refine Works.ite (fun _ => ?_) (fun _ => ?_)
    | (intro x; with_reducible refine Works.gen (s0 := s0) (x := x) ?_ ?_; (on_goal 1 => unfold x); (on_goal 2 => (intro _; clear_value x)))
    | (intro x; (have t : Nat := x; clear t); clear_value x) | (intro x) | lift_lets -underBinder
    | with_reducible refine works_doIf (fun _ _ => ?_) ?_ | with_reducible refine works_setFld ?_
    | with_reducible refine works_setCalImg ?_ | with_reducible refine works_calShow ?_
    | fail_if_no_progress (with_reducible refine Works.upd' ?_ rfl rfl rfl rfl rfl rfl) | split
    | with_reducible refine Works.ofFst ?_ (by assumption) | with_reducible refine Works.ofSnd ?_ (by assumption)
    | (clear_value *; split)

theorem works_tsiRefresh (h0 : Works s0 s) :
    Works s0 (tsiRefresh s) := by
  unfold tsiRefresh
  repeat' first
    | with_reducible assumption | with_reducible refine Works.ite (fun _ => ?_) (fun _ => ?_)
    | (intro x; with_reducible refine Works.gen (s0 := s0) (x := x) ?_ ?_; (on_goal 1 => unfold x); (on_goal 2 => (intro _; clear_value x)))
    | (intro x; (have t : Nat := x; clear t); clear_value x) | (intro x) | lift_lets -underBinder
    | with_reducible refine works_setFld ?_
    | fail_if_no_progress (with_reducible refine Works.upd' ?_ rfl rfl rfl rfl rfl rfl) | split
    | with_reducible refine Works.ofFst ?_ (by assumption) | with_reducible refine Works.ofSnd ?_ (by assumption)
    | (clear_value *; split)

theorem works_disarm {b : Nat} (h0 : Works s0 s) :
    Works s0 (disarm b s) := by
  unfold disarm
  repeat' first
    | with_reducible assumption | with_reducible refine Works.ite (fun _ => ?_) (fun _ => ?_)
    | (intro x; with_reducible refine Works.gen (s0 := s0) (x := x) ?_ ?_; (on_goal 1 => unfold x); (on_goal 2 => (intro _; clear_value x)))
    | (intro x; (have t : Nat := x; clear t); clear_value x) | (intro x) | lift_lets -underBinder
    | with_reducible refine works_tsiRefresh ?_
    | fail_if_no_progress (with_reducible refine Works.upd' ?_ rfl rfl rfl rfl rfl rfl) | split
    | with_reducible refine Works.ofFst ?_ (by assumption) | with_reducible refine Works.ofSnd ?_ (by assumption)
    | (clear_value *; split)

theorem works_calAlarm (h0 : Works s0 s) :
    Works s0 (calAlarm s) := by
  unfold calAlarm
  repeat' first
    | with_reducible assumption | with_reducible refine Works.ite (fun _ => ?_) (fun _ => ?_)
    | with_reducible refine works_doIf (fun _ _ => ?_) ?_ | with_reducible refine works_raiseBlock ?_
    | fail_if_no_progress (with_reducible refine Works.upd' ?_ rfl rfl rfl rfl rfl rfl) | split
    | with_reducible refine Works.ofFst ?_ (by assumption) | with_reducible refine Works.ofSnd ?_ (by assumption)
    | (clear_value *; split)

theorem works_voteHalt (h0 : Works s0 s) :
    Works s0 (voteHalt s) := by
  unfold voteHalt
  repeat' first
    | with_reducible assumption | with_reducible refine Works.ite (fun _ => ?_) (fun _ => ?_)
    | with_reducible refine works_setFld ?_ | with_reducible refine works_report ?_
    | with_reducible refine works_calAlarm ?_
    | fail_if_no_progress (with_reducible refine Works.upd' ?_ rfl rfl rfl rfl rfl rfl) | split
    | with_reducible refine Works.ofFst ?_ (by assumption) | with_reducible refine Works.ofSnd ?_ (by assumption)
    | (clear_value *; split)

theorem works_outvote {c : Nat} (h0 : Works s0 s) :
    Works s0 (outvote c s) := by
  unfold outvote
  repeat' first
    | with_reducible assumption | with_reducible refine Works.ite (fun _ => ?_) (fun _ => ?_)
    | (intro x; with_reducible refine Works.gen (s0 := s0) (x := x) ?_ ?_; (on_goal 1 => unfold x); (on_goal 2 => (intro _; clear_value x)))
    | (intro x; (have t : Nat := x; clear t); clear_value x) | (intro x) | lift_lets -underBinder
    | with_reducible refine works_setFld ?_ | with_reducible refine works_inc ?_
    | with_reducible refine works_report ?_ | with_reducible refine works_voteHalt ?_
    | fail_if_no_progress (with_reducible refine Works.upd' ?_ rfl rfl rfl rfl rfl rfl) | split
    | with_reducible refine Works.ofFst ?_ (by assumption) | with_reducible refine Works.ofSnd ?_ (by assumption)
    | (clear_value *; split)

theorem works_voteWord {v : Vote} (h0 : Works s0 s) :
    Works s0 (voteWord v s) := by
  unfold voteWord
  repeat' first
    | with_reducible assumption | with_reducible refine Works.ite (fun _ => ?_) (fun _ => ?_)
    | (intro x; with_reducible refine Works.gen (s0 := s0) (x := x) ?_ ?_; (on_goal 1 => unfold x); (on_goal 2 => (intro _; clear_value x)))
    | (intro x; (have t : Nat := x; clear t); clear_value x) | (intro x) | lift_lets -underBinder
    | with_reducible refine works_voteHalt ?_ | with_reducible refine works_outvote ?_
    | fail_if_no_progress (with_reducible refine Works.upd' ?_ rfl rfl rfl rfl rfl rfl) | split
    | with_reducible refine Works.ofFst ?_ (by assumption) | with_reducible refine Works.ofSnd ?_ (by assumption)
    | (clear_value *; split)

theorem works_calFail {b : Nat} {f : Fail} (h0 : Works s0 s) :
    Works s0 (calFail b f s) := by
  unfold calFail
  repeat' first
    | with_reducible assumption | with_reducible refine Works.ite (fun _ => ?_) (fun _ => ?_)
    | (intro x; with_reducible refine Works.gen (s0 := s0) (x := x) ?_ ?_; (on_goal 1 => unfold x); (on_goal 2 => (intro _; clear_value x)))
    | (intro x; (have t : Nat := x; clear t); clear_value x) | (intro x) | lift_lets -underBinder
    | with_reducible refine works_complete ?_ | with_reducible refine works_calTo ?_
    | fail_if_no_progress (with_reducible refine Works.upd' ?_ rfl rfl rfl rfl rfl rfl) | split
    | with_reducible refine Works.ofFst ?_ (by assumption) | with_reducible refine Works.ofSnd ?_ (by assumption)
    | (clear_value *; split)

theorem works_schedLoad {b : Nat} (h0 : Works s0 s) :
    Works s0 (schedLoad b s) := by
  unfold schedLoad
  repeat' first
    | with_reducible assumption | with_reducible refine Works.ite (fun _ => ?_) (fun _ => ?_)
    | (intro x; with_reducible refine Works.gen (s0 := s0) (x := x) ?_ ?_; (on_goal 1 => unfold x); (on_goal 2 => (intro _; clear_value x)))
    | (intro x; (have t : Nat := x; clear t); clear_value x) | (intro x) | lift_lets -underBinder
    | with_reducible refine works_calTo ?_ | with_reducible refine works_calFail ?_
    | fail_if_no_progress (with_reducible refine Works.upd' ?_ rfl rfl rfl rfl rfl rfl) | split
    | with_reducible refine Works.ofFst ?_ (by assumption) | with_reducible refine Works.ofSnd ?_ (by assumption)
    | (clear_value *; split)

theorem works_schedSwapAt {b m : Nat} (h0 : Works s0 s) :
    Works s0 (schedSwapAt b m s) := by
  unfold schedSwapAt
  repeat' first
    | with_reducible assumption | with_reducible refine Works.ite (fun _ => ?_) (fun _ => ?_)
    | (intro x; with_reducible refine Works.gen (s0 := s0) (x := x) ?_ ?_; (on_goal 1 => unfold x); (on_goal 2 => (intro _; clear_value x)))
    | (intro x; (have t : Nat := x; clear t); clear_value x) | (intro x) | lift_lets -underBinder
    | with_reducible refine works_complete ?_
    | fail_if_no_progress (with_reducible refine Works.upd' ?_ rfl rfl rfl rfl rfl rfl) | split
    | with_reducible refine Works.ofFst ?_ (by assumption) | with_reducible refine Works.ofSnd ?_ (by assumption)
    | (clear_value *; split)

theorem works_schedSwap {b : Nat} (h0 : Works s0 s) :
    Works s0 (schedSwap b s) := by
  unfold schedSwap
  repeat' first
    | with_reducible assumption | with_reducible refine Works.ite (fun _ => ?_) (fun _ => ?_)
    | with_reducible refine works_schedSwapAt ?_
    | fail_if_no_progress (with_reducible refine Works.upd' ?_ rfl rfl rfl rfl rfl rfl) | split
    | with_reducible refine Works.ofFst ?_ (by assumption) | with_reducible refine Works.ofSnd ?_ (by assumption)
    | (clear_value *; split)

theorem works_schedAbort {b : Nat} (h0 : Works s0 s) :
    Works s0 (schedAbort b s) := by
  unfold schedAbort
  repeat' first
    | with_reducible assumption | with_reducible refine Works.ite (fun _ => ?_) (fun _ => ?_)
    | (intro x; with_reducible refine Works.gen (s0 := s0) (x := x) ?_ ?_; (on_goal 1 => unfold x); (on_goal 2 => (intro _; clear_value x)))
    | (intro x; (have t : Nat := x; clear t); clear_value x) | (intro x) | lift_lets -underBinder
    | with_reducible refine works_complete ?_ | with_reducible refine works_calTo ?_
    | with_reducible refine works_disarm ?_
    | fail_if_no_progress (with_reducible refine Works.upd' ?_ rfl rfl rfl rfl rfl rfl) | split
    | with_reducible refine Works.ofFst ?_ (by assumption) | with_reducible refine Works.ofSnd ?_ (by assumption)
    | (clear_value *; split)

theorem works_schedRestart {v : Vote} (h0 : Works s0 s) :
    Works s0 (schedRestart v s) := by
  unfold schedRestart
  repeat' first
    | with_reducible assumption | with_reducible refine Works.ite (fun _ => ?_) (fun _ => ?_)
    | with_reducible refine works_complete ?_ | with_reducible refine works_voteWord ?_
    | fail_if_no_progress (with_reducible refine Works.upd' ?_ rfl rfl rfl rfl rfl rfl) | split
    | with_reducible refine Works.ofFst ?_ (by assumption) | with_reducible refine Works.ofSnd ?_ (by assumption)
    | (clear_value *; split)

theorem works_schedPerform {op b gen : Nat} {v : Vote} (h0 : Works s0 s) :
    Works s0 (schedPerform op b gen v s) := by
  unfold schedPerform
  repeat' first
    | with_reducible assumption | with_reducible refine Works.ite (fun _ => ?_) (fun _ => ?_)
    | with_reducible refine works_complete ?_ | with_reducible refine works_schedLoad ?_
    | with_reducible refine works_schedSwap ?_ | with_reducible refine works_schedAbort ?_
    | with_reducible refine works_schedRestart ?_
    | fail_if_no_progress (with_reducible refine Works.upd' ?_ rfl rfl rfl rfl rfl rfl) | split
    | with_reducible refine Works.ofFst ?_ (by assumption) | with_reducible refine Works.ofSnd ?_ (by assumption)
    | (clear_value *; split)

end Sys2Proof.Machine
end

section
/-! SUPPORT. PERST_N, function level reset, interrupt status and MSI-X (R384, R391). -/

namespace Sys2Proof.Machine

variable {s t : State} {fn : Fn} {p port vec off : Nat} {v : Word} {d : RegDesc} {ix : List Nat}

/-! ### Commands of a partition in progress -/

theorem works_runHeld {s0 : State} {h : HeldCmd} (hs : Works s0 s) : Works s0 (runHeld h s) := by
  cases h with
  | bpm => exact works_bpmAct hs
  | q => exact works_qAct hs
  | sched => exact works_schedPerform hs

/-- What the end of a partition's commands leaves alone: the resets of the ports and what the update controller waits for. -/
theorem dropCommands_keeps : (dropCommands p s).host.perst = s.host.perst ∧ (dropCommands p s).upd.wait = s.upd.wait := by
  unfold dropCommands
  extract_lets mine src s1 q1 s2
  have h1 : Works { s with upd := { s.upd with tHeld := s.upd.tHeld.filter (fun h => h.part? != some p) } } s1 :=
    works_forEach (fun _ _ h => works_runHeld h) .refl
  have h2 : Works { s with upd := { s.upd with tHeld := s.upd.tHeld.filter (fun h => h.part? != some p) } } s2 := by
    unfold s2
    split
    · exact works_flushQue (h1.upd' rfl rfl rfl rfl rfl rfl)
    · exact h1
  have hw := congrArg UpdSt.wait h2.upd
  exact ⟨h2.perst, hw⟩

/-- Dropping the packets of a partition's rings counts them, and touches the packets and the rails beside. -/
theorem dropRingPkts_keeps {β : Type} (g : State → β) (hinc : ∀ r s, g (s.inc (R.ringCtr p r 2)) = g s)
    (herase : ∀ id s, g (erasePkt id s) = g s) : g (dropRingPkts p s) = g s := by
  refine forEach_keeps g (fun e s => ?_) _
  split
  · next q r _ _ _ _ =>
    by_cases hq : q = p
    · rw [hq, beq_self_eq_true, doIf_true, herase, hinc]
    · rw [beq_false_of_ne hq, doIf_false]
  · rfl

theorem erasePkt_keeps {β : Type} (g : State → β)
    (hg : ∀ s pwr pkts, g { s with pwr := pwr, pkts := pkts } = g s) (id : Nat) (s : State) : g (erasePkt id s) = g s := by
  unfold erasePkt touchOld touchPair
  split
  · split
    · exact hg s _ _
    · exact hg s s.pwr _
  · exact hg s s.pwr _

/-- What a field other than the registers, the packets and the rails holds, ring packets that are dropped leave alone. -/
theorem dropRingPkts_field {β : Type} (g : State → β)
    (hg : ∀ s regs pwr pkts, g { s with regs := regs, pwr := pwr, pkts := pkts } = g s) : g (dropRingPkts p s) = g s :=
  dropRingPkts_keeps g (fun _ s => hg s _ s.pwr s.pkts) (erasePkt_keeps g fun s => hg s s.regs)

/-- Ring packets that are dropped change the registers, the rails and the packets alone. -/
theorem dropRingPkts_eq : dropRingPkts p s = { s with
    regs := (dropRingPkts p s).regs, pwr := (dropRingPkts p s).pwr, pkts := (dropRingPkts p s).pkts } :=
  dropRingPkts_field (fun u => { u with
    regs := (dropRingPkts p s).regs, pwr := (dropRingPkts p s).pwr, pkts := (dropRingPkts p s).pkts }) fun _ _ _ _ => rfl

/-! ### The lock of a partition that is reset -/

theorem raises_lockTo (k : Nat) : Raises s (lockTo k s) :=
  .trans (raises_wr ..) (.forEach (fun _ _ => raises_wr ..) _)

/-- With no image waiting for the lock, a partition that is reset only gives the lock back. -/
theorem lockReset_idle (h : s.upd.wait = none) : lockReset p s = if s.holder = p then lockTo 7 s else s := by
  have hw : (lockTo 7 s).upd.wait = none := by
    obtain ⟨_, _, _, _, hs⟩ := raises_lockTo (s := s) 7
    rw [hs]
    exact h
  have hfree : lockFree s = lockTo 7 s := by
    rw [lockFree, updResume, hw]
    exact ite_self _
  rw [lockReset, hfree]

/-- The registers and the interrupts of a partition after its commands and packets are gone. -/
def partCleared (p : Nat) (s : State) : State :=
  dropInterrupts p (perstRegs p (dropRingPkts p (dropCommands p s)))

theorem partCleared_keeps :
    (partCleared p s).host.perst = s.host.perst ∧ (partCleared p s).upd.wait = s.upd.wait := by
  obtain ⟨hperst, hwait⟩ := dropCommands_keeps (s := s) (p := p)
  exact ⟨(dropRingPkts_field (·.host.perst) fun _ _ _ _ => rfl).trans hperst,
    (dropRingPkts_field (·.upd.wait) fun _ _ _ _ => rfl).trans hwait⟩

theorem resetPartition_eq (h : s.upd.wait = none) : resetPartition p s =
    if (partCleared p s).holder = p then lockTo 7 (partCleared p s) else partCleared p s :=
  lockReset_idle (partCleared_keeps.2.trans h)

theorem resetPartition_keeps (h : s.upd.wait = none) :
    (resetPartition p s).host.perst = s.host.perst ∧ (resetPartition p s).upd.wait = none := by
  obtain ⟨hperst, hwait⟩ := partCleared_keeps (s := s) (p := p)
  rw [resetPartition_eq h]
  split
  · obtain ⟨_, _, _, _, hs⟩ := raises_lockTo (s := partCleared p s) 7
    rw [hs]
    exact ⟨hperst, hwait.trans h⟩
  · exact ⟨hperst, hwait.trans h⟩

/-! ### The registers of a partition that is reset -/

/-- A filter on keys keeps what it keeps the key of, and the rest reads as unlisted. -/
theorem smapGet_filter_key {α : Type} {d : Nat → α} {k : Nat} {m : SMap α} (q : Nat → Bool) :
    smapGet d k (m.filter (fun e => q e.1)) = if q k then smapGet d k m else d k := by
  induction m with
  | nil => exact (ite_self _).symm
  | cons e m ih =>
    by_cases hk : k = e.1
    · by_cases hq : q e.1
      · simp [hk, hq, smapGet]
      · rw [hk] at ih ⊢
        simpa [hq] using ih
    · by_cases hq : q e.1
      · simp [hq, smapGet, hk, ih]
      · simp [hq, smapGet, hk, ih]

/-- The reset of a partition leaves the register at an offset alone. -/
def outlivesPerst (p off : Nat) : Bool :=
  match regAt off with
  | some (d, ix) => !(resetByPerst d && ix.headD 0 == p)
  | none => true

theorem perstRegs_rd (ha : regAt off = some (d, ix)) :
    (perstRegs p s).rd off = if resetByPerst d && ix.headD 0 == p then regReset off else s.rd off := by
  have hq : outlivesPerst p off = !(resetByPerst d && ix.headD 0 == p) := by rw [outlivesPerst, ha]
  calc (perstRegs p s).rd off = if outlivesPerst p off then s.rd off else regReset off :=
        smapGet_filter_key (d := regReset) (outlivesPerst p)
    _ = _ := by
      rw [hq]
      by_cases hb : (resetByPerst d && ix.headD 0 == p) = true
      · rw [if_pos hb, hb]
        rfl
      · rw [if_neg hb, Bool.eq_false_of_not_eq_true hb]
        rfl

theorem partCleared_rd_own (ha : regAt off = some (d, ix)) (hd : resetByPerst d = true) (hp : ix.headD 0 = p) :
    (partCleared p s).rd off = regReset off := by
  refine (perstRegs_rd ha).trans ?_
  rw [hd, hp, beq_self_eq_true]
  rfl

/-- The lock and the registers of the seal engine are of no partition. -/
theorem sealLock_shared (ha : regAt off = some (d, ix)) (hd : d.perPart = true) : off ≠ R.sealLock := by
  rintro rfl
  rw [show regAt R.sealLock = some _ from rfl] at ha
  cases ha
  exact absurd hd (by decide)

theorem lockTo_rd_ne (k : Nat) (h : off ≠ R.sealLock) (hr : off ∉ sealRegs) : (lockTo k s).rd off = s.rd off :=
  (forEach_rd (fun r hm s => State.rd_wr_ne s _ fun he => hr (by rw [he]; exact hm)) _).trans (State.rd_setFld_ne _ _ _ h)

/-- A register of the partition that the reset reaches holds its reset value. -/
theorem resetPartition_rd_own (h : s.upd.wait = none) (ha : regAt off = some (d, ix)) (hd : resetByPerst d = true)
    (hp : ix.headD 0 = p) : (resetPartition p s).rd off = regReset off := by
  have hpart : d.perPart = true := by
    simp only [resetByPerst, Bool.and_eq_true] at hd
    exact hd.1.1
  rw [resetPartition_eq h]
  split
  · by_cases hr : off ∈ sealRegs
    · exact lockTo_resets 7 hr
    · rw [lockTo_rd_ne 7 (sealLock_shared ha hpart) hr, partCleared_rd_own ha hd hp]
  · exact partCleared_rd_own ha hd hp

/-! ### What a reset leaves of the other partitions -/

/-- The counters of a partition's rings are its own registers. -/
theorem regAt_ringCtr : ∀ p < 4, ∀ r < 64,
    ((regAt (R.ringCtr p r 2)).any fun e => e.1.perPart && e.2.headD 0 == p) = true := by decide

theorem ringCtr_own {r : Nat} (hp : p < 4) (hr : r < 64) (ha : regAt off = some (d, ix))
    (hd : d.perPart = false ∨ ix.headD 0 ≠ p) : off ≠ R.ringCtr p r 2 := by
  rintro rfl
  have h := regAt_ringCtr p hp r hr
  rw [ha] at h
  simp only [Option.any_some, Bool.and_eq_true, beq_iff_eq] at h
  exact hd.elim (fun hf => Bool.false_ne_true (hf.symm.trans h.1)) fun hn => hn h.2

theorem dropRingPkts_rd (hp : p < 4) (hring : ∀ e ∈ s.pkts, ∀ q r n at_ desc, e.2.place = .ring q r n at_ desc → r < 64)
    (ha : regAt off = some (d, ix)) (hd : d.perPart = false ∨ ix.headD 0 ≠ p) : (dropRingPkts p s).rd off = s.rd off := by
  refine forEach_rd (fun e he u => ?_) s
  split
  · next q r n at_ desc hplace =>
    by_cases hq : q = p
    · rw [hq, beq_self_eq_true, doIf_true, erasePkt_rd]
      exact State.rd_inc_ne u (ringCtr_own hp (hring e he q r n at_ desc hplace) ha hd)
    · rw [beq_false_of_ne hq, doIf_false]
  · rfl

/-- With none of its commands held and no FLUSH, a partition's commands end in the tables' and the burin's books alone. -/
theorem dropCommands_idle (hh : s.upd.tHeld = []) (hf : s.q.flushes.getD p none = none) :
    ∃ upd fenceC fenceR big deletes verify load, dropCommands p s = { s with
      upd := upd
      tbl := { s.tbl with fenceC := fenceC, fenceR := fenceR, big := big }
      burin := { s.burin with deletes := deletes, verify := verify, load := load } } := by
  unfold dropCommands
  rw [hh]
  dsimp only [List.filter_nil, forEach, List.foldl_nil]
  rw [hf]
  exact ⟨_, _, _, _, _, _, _, rfl⟩

theorem partCleared_rd_other (hp : p < 4) (hh : s.upd.tHeld = []) (hf : s.q.flushes.getD p none = none)
    (hring : ∀ e ∈ s.pkts, ∀ q r n at_ desc, e.2.place = .ring q r n at_ desc → r < 64)
    (ha : regAt off = some (d, ix)) (hd : d.perPart = false ∨ ix.headD 0 ≠ p) : (partCleared p s).rd off = s.rd off := by
  have hkeep : (resetByPerst d && ix.headD 0 == p) = false := by
    rcases hd with hd | hd
    · simp [resetByPerst, hd]
    · rw [beq_false_of_ne hd, Bool.and_false]
  refine (perstRegs_rd ha).trans ?_
  rw [hkeep, if_neg Bool.false_ne_true]
  obtain ⟨_, _, _, _, _, _, _, hs⟩ := dropCommands_idle hh hf
  rw [hs]
  exact dropRingPkts_rd hp hring ha hd

theorem partCleared_msix :
    (partCleared p s).host.msixOpen = (dropCommands p s).host.msixOpen.filter (fun v => v / 256 != p) ∧
      (partCleared p s).host.msixPend = (dropCommands p s).host.msixPend.filter (fun v => v / 256 != p) := by
  have hh : (dropRingPkts p (dropCommands p s)).host = (dropCommands p s).host :=
    dropRingPkts_field (·.host) fun _ _ _ _ => rfl
  rw [← hh]
  exact ⟨rfl, rfl⟩

/-- With none of its commands held and no FLUSH, a partition that is cleared leaves the tables, the plates and the queues. -/
theorem partCleared_idle (hh : s.upd.tHeld = []) (hf : s.q.flushes.getD p none = none) :
    ∃ regs host pwr pkts upd fenceC fenceR big deletes verify load, partCleared p s = { s with
      regs := regs, host := host, pwr := pwr, pkts := pkts, upd := upd
      tbl := { s.tbl with fenceC := fenceC, fenceR := fenceR, big := big }
      burin := { s.burin with deletes := deletes, verify := verify, load := load } } := by
  obtain ⟨_, _, _, _, _, _, _, hs⟩ := dropCommands_idle hh hf
  rw [partCleared, dropRingPkts_eq, hs]
  exact ⟨_, _, _, _, _, _, _, _, _, _, _, rfl⟩

/-! ### Loops that keep an invariant, and vectors -/

theorem forEach_holds {α : Type} {f : α → State → State} {P : State → Prop} (hP : ∀ a s, P s → P (f a s)) {as : List α}
    (h : P s) : P (forEach as f s) := by
  unfold forEach
  induction as generalizing s with
  | nil => exact h
  | cons a as ih => exact ih (hP a s h)

theorem filter_other {l : List Nat} {v : Nat} (h : v / 256 ≠ p) : v ∈ l.filter (fun v => v / 256 != p) ↔ v ∈ l := by
  simp [h]

/-- The status register of a partition's sources 0 to 16, or of its rings. -/
def intStatusReg (p : Nat) (rings : Bool) : Nat := if rings then R.intRingStatus p else R.intStatus p

theorem exec_intStatusClear (h : s.Owns fn p) (rings : Bool) :
    exec (.intStatusClear fn rings v) s = .next (intClear p rings v (dropHeld fn s)) := by
  have hp : p < 4 := own_lt h
  have ha : ∃ d, regAt (intStatusReg p rings) = some (d, [p]) ∧
      (blockOf d.base != 0 && d.perPart && [p].headD 0 == p) = true := by
    cases rings <;> interval_cases p <;> exact ⟨_, rfl, by decide⟩
  obtain ⟨d, ha, hd⟩ := ha
  show guardWf _ (access fn _ _ _ s) = _
  rw [h.shape, h.part, guardWf_true]
  exact congrArg _ (access_own h ha hd)

/-- The bits that are written as ones are cleared. -/
theorem intClear_rd (rings : Bool) :
    (intClear p rings v s).rd (intStatusReg p rings) = s.rd (intStatusReg p rings) &&& ~~~v := by
  have hne : R.intStatus p ≠ R.intEnable p ∧ R.intRingStatus p ≠ R.intRingEnable p := by
    simp [R.intStatus, R.intEnable, R.intRingStatus, R.intRingEnable]
  cases rings
  · exact (intWrite_rd ..).trans ((if_neg hne.1).trans (if_pos rfl))
  · exact (intWrite_rd ..).trans ((if_neg hne.2).trans (if_pos rfl))

/-- Settles O40: a reset filters what is kept for its partition, and what lies outside the filters stands. -/
theorem hostResetsAndInterrupts : Obligations.HostResetsAndInterrupts := by
  intro s fn p port vec v hwait
  refine ⟨fun hport hlen => ⟨?fall, ?rise⟩, fun h => ?function⟩
  case fall =>
    have hinv : ∀ u : State, u.upd.wait = none ∧ u.host.perst.getD port false = true →
        ∀ q, (inResetSet q true (resetPartition q u)).upd.wait = none ∧
          (inResetSet q true (resetPartition q u)).host.perst.getD port false = true := fun u hu q => by
      obtain ⟨hperst, hw⟩ := resetPartition_keeps (p := q) hu.1
      exact ⟨hw, (congrArg (·.getD port false) hperst).trans hu.2⟩
    refine ⟨perstFall port s, guardWf_of (by simpa using hport), fun g hg => ?_⟩
    have hdown : (perstFall port s).host.perst.getD port false = true := by
      refine (forEach_holds (s := trainPort port (perstSet port true s)) (f := fun q u => inResetSet q true (resetPartition q u))
        (P := fun u => u.upd.wait = none ∧ u.host.perst.getD port false = true) (fun q u hu => hinv u hu q) ⟨hwait, ?_⟩).2
      simp [trainPort, perstSet, hlen]
    rw [State.reached, hg, hdown]
    exact Bool.and_false _
  case rise =>
    have hup : (perstRise port s).host.perst = s.host.perst.set port false := by
      refine (forEach_keeps (·.host.perst) (fun q u => ?_) _).trans rfl
      rfl
    refine ⟨perstRise port s, guardWf_of (by simpa using hport), ?_, fun g hg => ?_⟩
    · rw [hup]
      simp [hlen]
    · have hboot : (perstRise port s).boot = s.boot := by
        refine (forEach_keeps (·.boot) (fun q u => ?_) _).trans rfl
        rfl
      rw [State.reached, hg, hup, hboot]
      simp [hlen]
  have hp : p < 4 := own_lt h
  have hflr : exec (.functionLevelReset fn) s = .next (resetPartition p s) := by
    show guardWf _ (flr fn s) = _
    rw [h.shape, guardWf_true, flr, if_pos h.reached, h.part]
  refine ⟨⟨_, hflr, fun off d ix ha hd hix => resetPartition_rd_own hwait ha hd hix⟩, fun hnl hh hf hring => ?frame, ?status,
    ?ringStatus, fun hvec => ?unmask⟩
  case frame =>
    have hkept : (partCleared p s).holder = s.holder := by
      rw [State.holder, State.fld, partCleared_rd_other hp hh hf hring (off := R.sealLock) rfl (.inl (by decide))]
      rfl
    have heq : resetPartition p s = partCleared p s := by rw [resetPartition_eq hwait, hkept, if_neg hnl]
    obtain ⟨hopen, hpend⟩ := partCleared_msix (s := s) (p := p)
    obtain ⟨_, _, _, _, _, _, _, hdrop⟩ := dropCommands_idle hh hf
    refine ⟨_, hflr.trans (congrArg _ heq), fun off d ix ha hd => partCleared_rd_other hp hh hf hring ha hd,
      fun v hv => ?_, ?_⟩
    · rw [hopen, hpend, hdrop]
      exact ⟨filter_other hv, filter_other hv⟩
    · obtain ⟨_, _, _, _, _, _, _, _, _, _, _, hs⟩ := partCleared_idle hh hf
      rw [hs]
      exact ⟨rfl, rfl, rfl, rfl, rfl, rfl, rfl, rfl, rfl, rfl, rfl, rfl⟩
  case status =>
    exact ⟨_, exec_intStatusClear h false, intClear_rd false⟩
  case ringStatus =>
    exact ⟨_, exec_intStatusClear h true, intClear_rd true⟩
  case unmask =>
    have hex : exec (.msixUnmask fn vec) s = .next (unmask p vec (dropHeld fn s)) := by
      have hdo : msixUnmask fn vec s = unmask p vec (dropHeld fn s) := by
        rw [msixUnmask, if_pos h.reached]
        exact congrArg (fun o : Option Nat => match o with | some p => unmask p vec (dropHeld fn s) | none => dropHeld fn s) h.part
      show guardWf _ _ = _
      rw [hdo, h.shape]
      simp [hvec]
    exact ⟨_, hex, unmask_regs, List.contains_iff_mem.1 unmask_open, unmask_not_pending,
      unmask_outs.trans (by rw [unmask_msiOut]; rfl)⟩

end Sys2Proof.Machine
end

section
/-! SUPPORT. The commands of the burin sessions (R361, R363 to R367). -/

namespace Sys2Proof.Machine

variable {s : State} {fn : Fn} {p op x : Nat}

/-! ### The state that takes a burin command -/

theorem burinData_taken (i : Nat) : (s.taken fn (.burin p) op p).rd (R.burinData p i) = s.rd (R.burinData p i) :=
  taken_rd (by simp only [R.burinData, Ifc.status, R.burinStatus]; omega)

theorem hostArg_taken : hostArg (s.taken fn (.burin p) op p) p = hostArg s p := by
  simp only [hostArg, burinData_taken]

theorem createByte_taken (i : Nat) : createByte (s.taken fn (.burin p) op p) p i = createByte s p i := by
  simp only [createByte, burinData_taken]

theorem right_taken_burin (i : Nat) : (s.taken fn (.burin p) op p).right p i = s.right p i := by
  unfold State.right State.pmap
  rw [taken_rd (by simp only [R.pmap, Ifc.status, R.burinStatus]; omega)]

/-! ### CLEAR_FAULT -/

theorem ctxOf_setCtx_same (c : Bytes) : (setCtx x c s).ctxOf x = c := smapGet_put_same

theorem ctxOf_setCtx_ne {y : Nat} (c : Bytes) (h : y ≠ x) : (setCtx x c s).ctxOf y = s.ctxOf y := smapGet_put_ne h

theorem complete_ctxOf (i : Ifc) (code detail y : Nat) : (complete i code detail s).ctxOf y = s.ctxOf y := by
  obtain ⟨_, _, _, h⟩ := signals_complete (s := s) i code detail
  rw [h]
  rfl

theorem byteAt_patch_one (b : Byte) (c : Bytes) : byteAt 1 (patch 1 [b] c) = b.toNat := by
  cases c <;> rfl

/-- The flag byte of a session is written with its bit 0 cleared. -/
theorem ctxFaulted_cleared (c : Bytes) : ctxFaulted (patch 1 (toBe 1 (byteAt 1 c / 2 * 2)) c) = false := by
  have hb : (BitVec.ofNat 8 (byteAt 1 c / 2 * 2)).toNat = byteAt 1 c / 2 * 2 % 256 := BitVec.toNat_ofNat ..
  rw [ctxFaulted, show toBe 1 (byteAt 1 c / 2 * 2) = [BitVec.ofNat 8 (byteAt 1 c / 2 * 2)] from rfl, byteAt_patch_one, hb,
    nbit, Nat.testBit_zero]
  simp only [decide_eq_false_iff_not]
  omega

/-! ### LOAD -/

/-- A LOAD of the customer region that its partition may give, with none in hand: what the bytes' checks find, or the
verification. -/
theorem burinLoad_judged {b : Bytes} (hr : s.right p Right.burinLoad = true) (hs : s.boot.restarting = false)
    (hl : s.burin.load = none) (hv : s.burin.verify = none) : burinLoad fn p (.data b) s =
      match loadFail (s.rd (R.burinData p 0)).toNat (s.rd (R.burinData p 1)).toNat (.data b) with
      | some f => complete (.burin p) f.1 f.2 s
      | none => { s with burin := { s.burin with verify := some (p, b) } } := by
  simp only [burinLoad, hr, hs, hl, hv, Bool.not_true, Option.isSome_none, Bool.or_self, Bool.false_eq_true, if_false]
  cases loadFail (s.rd (R.burinData p 0)).toNat (s.rd (R.burinData p 1)).toNat (.data b) <;> rfl

/-- Settles O28: each session command is carried out on the state that took it, whose data registers and contexts are
those of the state before. -/
theorem burinCommandsRun : Obligations.BurinCommandsRun := by
  intro s fn p h ht x t c
  have hdo : ∀ {op evtOp : Nat} {ecc : Ecc} {d : Dma}, op < 6 → evtOp < 256 → Passes (burinChecks (t op) p op x) →
      burinIssue fn op evtOp ecc d s = burinPerform p op x evtOp ecc (t op) := fun ho hb hc => burin_takes h ht ho hb hc
  have hfn : fnOk fn = true := h.shape
  refine ⟨fun op hop hc => ?event, fun hc => ?create, fun hc => ⟨fun hrun => ?deleteNow, fun hrun => ?deleteLater⟩,
    fun hc => ?read, fun hc => ?clear, fun hr hs hl hv b => ?load⟩
  case event =>
    show guardWf (fnOk fn && decide (op < 256)) _ = _
    rw [hdo (by decide) hop hc, hfn, decide_eq_true hop]
    simp only [burinPerform, t, hostArg_taken]
    rfl
  case create =>
    show guardWf (fnOk fn) _ = _
    rw [hdo (by decide) (by decide) hc, hfn]
    simp only [burinPerform, t, hostArg_taken, createByte_taken]
    rfl
  case deleteNow =>
    show guardWf (fnOk fn) _ = _
    have hrun' : (t 3).sessRuns x = false := hrun
    rw [hdo (by decide) (by decide) hc, hfn]
    simp only [burinPerform, hrun']
    rfl
  case deleteLater =>
    show guardWf (fnOk fn) _ = _
    have hrun' : (t 3).sessRuns x = true := hrun
    rw [hdo (by decide) (by decide) hc, hfn]
    simp only [burinPerform, hrun']
    rfl
  case read =>
    show guardWf (fnOk fn) _ = _
    rw [hdo (by decide) (by decide) hc, hfn]
    rfl
  case clear =>
    refine ⟨burinPerform p 5 x 0 .ok (t 5), ?_, ?_, fun y hy => ?_⟩
    · show guardWf (fnOk fn) _ = _
      rw [hdo (by decide) (by decide) hc, hfn]
      rfl
    · exact (congrArg ctxFaulted ((complete_ctxOf ..).trans (ctxOf_setCtx_same _))).trans (ctxFaulted_cleared _)
    · exact (complete_ctxOf ..).trans (ctxOf_setCtx_ne _ hy)
  case load =>
    have hr' : (t 6).right p Right.burinLoad = true := (right_taken_burin _).trans hr
    show guardWf (fnOk fn) _ = _
    rw [burinLoad_takes h ht, burinLoad_judged hr' hs hl hv, hfn, burinData_taken, burinData_taken]
    cases loadFail (s.rd (R.burinData p 0)).toNat (s.rd (R.burinData p 1)).toNat (.data b) <;> rfl

end Sys2Proof.Machine
end

section
/-! SUPPORT. Burin events: their starts, their ends, the detection times of CFM and BFD, timers, and the switch of the
customer region (R344 to R348, R356, R358, R360, R367). -/

namespace Sys2Proof.Machine

variable {s : State} {g sess p n : Nat} {ev : BurinEv} {e : Eng} {c : Bytes}

/-! ### Bytes of a context that is written -/

theorem getD_slice_zero (o i : Nat) (b : Bytes) (h : i < o) : (slice 0 o b).getD i 0 = b.getD i 0 := by
  simp only [slice, List.drop_zero, List.getD_eq_getElem?_getD, zeros]
  by_cases hb : i < b.length
  · rw [List.getElem?_append_left (by rw [List.length_take]; omega), List.getElem?_take_of_lt h]
  · rw [List.getElem?_append_right (by rw [List.length_take]; omega), List.getElem?_eq_none (by omega : b.length ≤ i),
      List.getElem?_replicate]
    split <;> rfl

/-- A byte of a string that is patched: of the patch where it covers the byte, and as it was elsewhere. -/
theorem byteAt_patch (o i : Nat) (new b : Bytes) : byteAt i (patch o new b) =
    if o ≤ i ∧ i < o + new.length then byteAt (i - o) new else byteAt i b := by
  have hlen : (slice 0 o b).length = o := length_slice ..
  simp only [byteAt, patch, List.getD_eq_getElem?_getD]
  by_cases hlo : i < o
  · rw [if_neg (by omega), List.append_assoc, List.getElem?_append_left (by omega), ← List.getD_eq_getElem?_getD,
      getD_slice_zero o i b hlo, List.getD_eq_getElem?_getD]
  · by_cases hhi : i < o + new.length
    · rw [if_pos ⟨by omega, hhi⟩, List.append_assoc, List.getElem?_append_right (by omega), hlen,
        List.getElem?_append_left (by omega)]
    · rw [if_neg (by omega), List.getElem?_append_right (by rw [List.length_append]; omega), List.length_append, hlen,
        List.getElem?_drop]
      congr 3
      omega

theorem length_toBe (n v : Nat) : (toBe n v).length = n := by rw [toBe, List.length_reverse, length_toLe]

/-- A field of one byte is that byte. -/
theorem cget_byte (o : Nat) (b : Bytes) : cget (o, 1) b = byteAt o b := by
  simp only [cget, beAt, slice, byteAt, List.getD_eq_getElem?_getD]
  cases hd : b.drop o with
  | nil =>
    have hn : b[o]? = none := List.getElem?_eq_none (List.drop_eq_nil_iff.1 hd)
    rw [hn]
    rfl
  | cons x xs =>
    have hx : b[o]? = some x := by rw [← List.head?_drop, hd, List.head?_cons]
    rw [hx]
    simp [zeros, beNat]

theorem cget_byte_cput (o v : Nat) (c : Bytes) : cget (o, 1) (cput (o, 1) v c) = v % 256 := by
  have hb : byteAt 0 (toBe 1 (v % 2 ^ (8 * 1))) = v % 256 := by
    have hv : (BitVec.ofNat 8 (v % 256)).toNat = v % 256 := by
      rw [BitVec.toNat_ofNat]
      exact Nat.mod_mod _ _
    exact hv
  rw [cget_byte, cput, byteAt_patch, if_pos ⟨Nat.le_refl _, by rw [length_toBe]; omega⟩, Nat.sub_self, hb]

theorem cget_byte_cput_ne {o : Nat} {f : Nat × Nat} (v : Nat) (c : Bytes) (h : o < f.1 ∨ f.1 + f.2 ≤ o) :
    cget (o, 1) (cput f v c) = cget (o, 1) c := by
  rw [cget_byte, cget_byte, cput, byteAt_patch, if_neg (by rw [length_toBe]; omega)]

/-! ### Detection times (R356, log entry 165) -/

theorem timerFar_svcNotify (us : Nat) (ev : BurinEv) (d : Bytes) : timerFar us (svcNotify ev d) = false := rfl

/-- A built-in service whose micro-code ends writes back what the service does. -/
theorem eventRun_commits {d : Bytes} {acts : List BurinAct} (hrun : smapFind g s.burin.run = some ev)
    (hend : (engRun s (badNow s []) ev (s.fld R.burinCfg F.burinCfgStepLimit) (engStart s g ev)).2 = .done)
    (hsvc : ∀ rnd, svcRun s ev rnd (s.ctxOf ev.sess) = some (.commit d acts)) (hacts : acts.any (timerFar s.timeUs) = false) :
    ∃ u, s.eventRun g [] = some (ev, u, .done) ∧ u.ctx = d ∧ u.acts = acts := by
  obtain ⟨r, how, hr⟩ : ∃ r how,
      engRun s (badNow s []) ev (s.fld R.burinCfg F.burinCfgStepLimit) (engStart s g ev) = (r, how) := ⟨_, _, rfl⟩
  rw [hr] at hend
  refine ⟨{ r with ctx := d, acts := acts, rnd := r.rnd + 1 }, ?_, rfl, rfl⟩
  rw [State.eventRun, hrun, Option.map_some, hr]
  simp only [svcEnds, hsvc, show how = .done from hend, hacts, Bool.false_eq_true, if_false]

/-- The detection time of a remote MEP. -/
theorem svcRun_ccmFail (hop : ev.op = 0x21) (hsrc : ev.src = 2) (hsvc : ctxService c = 2) (rnd : Nat) :
    svcRun s ev rnd c = some (ccmFail ev c) := by
  simp only [svcRun, hop, hsrc, hsvc]

theorem svcRun_bfdDetect (hop : ev.op = 0x21) (hsrc : ev.src = 2) (hsvc : ctxService c = 1) (rnd : Nat) :
    svcRun s ev rnd c = some (bfdDetect ev c) := by
  simp only [svcRun, hop, hsrc, hsvc]

/-- The context of a CFM session whose remote MEP has failed. -/
def ccmFailed (c : Bytes) : Bytes :=
  cput Svc.cfmRmepState 3 (cput Svc.cfmDefects (defect 2 true (cget Svc.cfmDefects c)) c)

theorem ccmFailed_state : cget Svc.cfmRmepState (ccmFailed c) = 3 := cget_byte_cput ..

theorem ccmFailed_defect : nbit (cget Svc.cfmDefects (ccmFailed c)) 2 = true := by
  have hd : cget Svc.cfmDefects (ccmFailed c) = (cget Svc.cfmDefects c ||| 2 ^ 2) % 256 :=
    (cget_byte_cput_ne _ _ (by decide)).trans (cget_byte_cput ..)
  rw [hd, nbit, show 256 = 2 ^ 8 from rfl, Nat.testBit_mod_two_pow, Nat.testBit_or, Nat.testBit_two_pow_self]
  simp

/-- The context of a BFD session that its detection time takes down. -/
def bfdDetected (c : Bytes) : Bytes := bfdTo 1 (cput Svc.bfdDiag 1 (cput Svc.bfdYourDisc 0 c))

theorem bfdDetect_up (h : 2 ≤ cget Svc.bfdState c) :
    bfdDetect ev c = .commit (bfdDetected c) [svcNotify ev (bfdDetected c)] := by
  rw [bfdDetect, if_neg (by omega)]
  rfl

theorem bfdDetected_eq (h : 2 ≤ cget Svc.bfdState c) :
    bfdDetected c = cadd Svc.bfdChanges 1 (cput Svc.bfdState 1 (cput Svc.bfdDiag 1 (cput Svc.bfdYourDisc 0 c))) := by
  have hs : cget Svc.bfdState (cput Svc.bfdDiag 1 (cput Svc.bfdYourDisc 0 c)) = cget Svc.bfdState c :=
    (cget_byte_cput_ne _ _ (by decide)).trans (cget_byte_cput_ne _ _ (by decide))
  rw [bfdDetected, bfdTo, hs, if_neg (by omega)]

theorem bfdDetected_state (h : 2 ≤ cget Svc.bfdState c) : cget Svc.bfdState (bfdDetected c) = 1 := by
  rw [bfdDetected_eq h]
  exact (cget_byte_cput_ne _ _ (by decide)).trans (cget_byte_cput ..)

theorem bfdDetected_diag (h : 2 ≤ cget Svc.bfdState c) : cget Svc.bfdDiag (bfdDetected c) = 1 := by
  rw [bfdDetected_eq h]
  exact (cget_byte_cput_ne _ _ (by decide)).trans ((cget_byte_cput_ne _ _ (by decide)).trans (cget_byte_cput ..))

/-! ### The start of an event -/

theorem eventStart_starts {rest : List BurinEv} (hon : s.burinOn = true) (hidle : smapFind g s.burin.run = none)
    (hruns : s.sessRuns sess = false) (htake : takeSession sess s.burin.queue = some (ev, rest)) (hheld : s.opHeld ev.op = false)
    (hok : ctxFaulted (s.ctxOf sess) = false) (hgood : dispKey ev.op ∉ s.burin.bad) (hserved : nbit (s.dispWord ev.op) 31 = true) :
    eventStart g sess .ok s = { s with burin := { s.burin with queue := rest, run := smapInsert g ev s.burin.run } }.wr
      (R.burinEng g) (engWord ev.op sess (s.dispWord ev.op % 65536)) := by
  have hok' : ctxFaulted (State.ctxOf { s with burin := { s.burin with queue := rest } } sess) = false := hok
  have hgood' : s.burin.bad.contains (dispKey ev.op) = false := by simpa using hgood
  have hserved' : nbit (State.dispWord { s with burin := { s.burin with queue := rest } } ev.op) 31 = true := hserved
  have hstart : (s.burinOn && (smapFind g s.burin.run).isNone && !s.sessRuns sess) = true := by
    rw [hon, hidle, hruns]
    rfl
  unfold eventStart
  rw [if_pos hstart, htake]
  simp only [hheld, hok', hgood', hserved', storeError, Bool.false_eq_true, Bool.not_true, if_false]
  rfl

/-! ### The end of an event -/

theorem engineIdle_idle : smapFind g (engineIdle g e s).burin.run = none := smapFind_erase_same

theorem engineIdle_shows (hg : g < 64) : (engineIdle g e s).rd (R.burinEng g) = 0 := by
  have hne : R.burinEng g ≠ R.burinCtr 1 := by simp only [R.burinEng, R.burinCtr]; omega
  exact (State.rd_wr_ne _ _ hne).trans (State.rd_wr_same ..)

theorem eventEnd_done (h : s.eventRun g [] = some (ev, e, .done)) : eventEnd g [] s =
    finishDelete ev.sess (forEach e.acts (performAct g ev.sess)
      (setCtx ev.sess (patch 0x18 (toBe 4 ((beAt 0x18 4 (s.ctxOf ev.sess) + 1) % 2 ^ 32))
        (if ev.op < 0xC0 then svcClean (ctxService (s.ctxOf ev.sess))
            (slice 0 0x20 (s.ctxOf ev.sess) ++ slice 0x20 224 e.ctx)
          else slice 0 0x20 (s.ctxOf ev.sess) ++ slice 0x20 224 e.ctx)) ((engineIdle g e s).inc (R.burinCtr 0)))) := by
  rw [eventEnd, h]
  rfl

theorem eventAbandon_abandoned (h : s.eventRun g [] = some (ev, e, .abandon)) :
    eventAbandon g [] s = finishDelete ev.sess (engineIdle g e s) := by
  rw [eventAbandon, h]
  rfl

theorem eventFault_faulted {cause : Nat} (h : s.eventRun g [] = some (ev, e, .fault cause)) :
    eventFault g [] s = finishDelete ev.sess (faultEvent g ev e.pc cause (engineIdle g e s)) := by
  rw [eventFault, h]
  rfl

/-! ### Timers -/

theorem timerExpire_due {c : Bytes} (hc : s.ctxOf sess = c) (hsvc : ctxService c ≠ 0) (hset : ctxDue c n ≠ 0)
    (hdue : ctxDue c n ≤ s.timeUs) (hheld : s.opHeld (ctxTimerOp c n) = false) (hdel : ∀ d ∈ s.burin.deletes, d.2 ≠ sess)
    (hroom : s.burinRoom sess = true) : timerExpire sess n s = setCtx sess (setDue n 0 c) { s with burin := { s.burin with
      queue := s.burin.queue ++ [plainEvent (ctxTimerOp c n) (1 + n) sess 0 (stampOf (s.now / 10000 * 10000)) []]
      late := s.burin.late.filter (· != 2 * sess + n) } } := by
  have hall : s.burin.deletes.all (·.2 != sess) = true := by simpa using hdel
  have hcond : (ctxService c != 0 && ctxDue c n != 0 && ctxDue c n ≤ s.timeUs && !s.opHeld (ctxTimerOp c n) &&
      s.burin.deletes.all (·.2 != sess)) = true := by
    rw [hheld, hall]
    simp [hsvc, hset, hdue]
  subst hc
  rw [timerExpire]
  dsimp only
  rw [if_pos hcond, if_pos hroom]
  rfl

/-! ### The switch of the customer region -/

theorem doneIrq_burin_rd {off : Nat} (h : off ≠ R.intStatus p) (s : State) : (doneIrq (.burin p) s).rd off = s.rd off :=
  doIf_rd (fun _ => raiseSrc_rd_of_ne_intStatus (by decide) h) s

theorem regionSwitch_idle (h : s.burin.load = none) : regionSwitch s = s := by
  rw [regionSwitch, h]

theorem vendorSwitch_idle (h : s.burin.vload = none) : vendorSwitch s = s := by
  rw [vendorSwitch, h]

theorem mcGo_idle (h : s.upd.mcNext = none) : mcGo s = s := by
  rw [mcGo, h]

/-- The state in which the region of a customer image stands and its LOAD completes. -/
def regionWritten (b : Bytes) (bad : List Nat) (s : State) : State :=
  (({ s with burin := { s.burin with cust := custRegion b, load := none, bad := bad } }.wr R.burinCustId
    (wordAt 0 (slice 0x18 8 b))).wr R.burinCustVer
      (setF (setF 0 F.burinCustVerLoaded 1) F.burinCustVerVersion (leAt 0x20 4 b)))

theorem regionSwitch_writes {b : Bytes} (hl : s.burin.load = some (p, b)) (hrun : s.regionRuns true = false) (hp : p < 4) :
    ∃ bad, regionSwitch s = complete (.burin p) Code.ok 0 (regionWritten b bad s) := by
  rw [regionSwitch, hl]
  dsimp only
  rw [hrun, decide_eq_true hp]
  exact ⟨_, rfl⟩

theorem loadVerify_idle (h : s.burin.verify = none) : loadVerify s = s := by
  rw [loadVerify, h]

theorem loadVerify_bad {b : Bytes} {f : Fail} (hv : s.burin.verify = some (p, b)) (hs : s.boot.restarting = false)
    (hf : firstBad (loadVerifyChecks s.upd.cfg.plateKeys b) = some f) : loadVerify s = loadEnd p f s := by
  rw [loadVerify, hv]
  dsimp only
  rw [hs, hf]
  rfl

theorem loadVerify_good {b : Bytes} (hv : s.burin.verify = some (p, b)) (hs : s.boot.restarting = false)
    (hf : firstBad (loadVerifyChecks s.upd.cfg.plateKeys b) = none) :
    loadVerify s = { s with burin := { s.burin with verify := none, load := some (p, b) } } := by
  rw [loadVerify, hv]
  dsimp only
  rw [hs, hf]
  rfl

theorem signals_complete_of (i : Ifc) (code detail : Nat) (c : Bool) : Signals s (doIf c (complete i code detail) s) :=
  .doIf (fun _ => signals_complete ..) c

/-- A LOAD that ends leaves the regions and what waits for the microcode alone. -/
theorem loadEnd_keeps (f : Fail) : (loadEnd p f s).burin = { s.burin with verify := none } ∧ (loadEnd p f s).upd = s.upd := by
  obtain ⟨_, _, _, h⟩ := signals_complete_of (s := { s with burin := { s.burin with verify := none } }) (.burin p) f.1 f.2
    (decide (p < 4))
  rw [loadEnd, h]
  exact ⟨rfl, rfl⟩

theorem exec_burinRegionSwitch (h : s.pwr.tripped = false) :
    exec .burinRegionSwitch s = .next (mcGo (regionSwitch (vendorSwitch (loadVerify s)))) := by
  show guardWf true (mcGo (burinSwitch s)) = _
  rw [burinSwitch, h]
  rfl

theorem regionRuns_cust (h : ∀ r ∈ s.burin.run, r.2.op < 0xC0) : s.regionRuns true = false := by
  rw [State.regionRuns, List.any_eq_false]
  intro r hr
  have := h r hr
  simp only [beq_true, decide_eq_true_eq]
  omega

/-- A region that waits for an idle pool of engines is written, and its LOAD completes. -/
theorem regionSwitch_completes {b : Bytes} (hl : s.burin.load = some (p, b)) (hmc : s.upd.mcNext = none) (hp : p < 4)
    (hrun : ∀ r ∈ s.burin.run, r.2.op < 0xC0) : let t := mcGo (regionSwitch s)
    t.burin.cust = custRegion b ∧ t.burin.load = none ∧ t.fld (R.burinStatus p) stCode = Code.ok ∧
      t.busy (.burin p) = false ∧ t.rd R.burinCustId = wordAt 0 (slice 0x18 8 b) := by
  obtain ⟨bad, hw⟩ := regionSwitch_writes hl (regionRuns_cust hrun) hp
  obtain ⟨_, _, _, hs⟩ := signals_complete (s := regionWritten b bad s) (.burin p) Code.ok 0
  have hgo : mcGo (regionSwitch s) = complete (.burin p) Code.ok 0 (regionWritten b bad s) := by
    rw [hw]
    refine mcGo_idle ?_
    rw [hs]
    exact hmc
  have hst : R.burinStatus p ≠ R.intStatus p := by simp only [R.burinStatus, R.intStatus]; omega
  have hid : R.burinCustId ≠ R.burinStatus p := by simp only [R.burinCustId, R.burinStatus]; omega
  have hid' : R.burinCustId ≠ R.intStatus p := by simp only [R.burinCustId, R.intStatus]; omega
  dsimp only
  rw [hgo]
  refine ⟨?_, ?_, complete_code (doneIrq_burin_rd hst) (by decide), complete_free (doneIrq_burin_rd hst), ?_⟩
  · rw [hs]; rfl
  · rw [hs]; rfl
  · exact (doneIrq_burin_rd hid' _).trans ((State.rd_wr_ne _ _ hid).trans
      ((State.rd_wr_ne _ _ (by decide)).trans (State.rd_wr_same ..)))

/-- Settles O29: each event's own definition takes the branch that the hypotheses name, and the services of a detection
time write the fields that the statement reads. -/
theorem burinEventsRun : Obligations.BurinEventsRun := by
  intro s g sess ev rest e hg hsess
  refine ⟨fun hon hidle hruns htake hheld hok hgood hserved => ?start, fun htrip => ?ends, fun hrun hop hsrc hend => ?detect,
    fun n hn hsvc hset hdue hheld hdel hroom => ?timer⟩
  case start =>
    refine ⟨_, (guardWf_of (by simp [hg, hsess])).trans
      (congrArg _ (eventStart_starts hon hidle hruns htake hheld hok hgood hserved)), smapFind_insert_same, rfl, ?_⟩
    exact State.rd_wr_same ..
  case ends =>
    intro i old
    have hex : ∀ f : State → State, guardWf (decide (g < 64) && storeErrsOk []) (doIf (!s.pwr.tripped) f s) = .next (f s) :=
      fun f => by
        rw [htrip, decide_eq_true hg]
        rfl
    refine ⟨engineIdle_idle, engineIdle_shows hg, fun h => ?_, fun h => ?_, fun cause h => ?_,
      fun p b f hv hs hl hvl hmc hf => ?_, fun p b hload hvl hmc hp hrun => ?_⟩
    · exact (hex _).trans (congrArg _ (eventEnd_done h))
    · exact (hex _).trans (congrArg _ (eventAbandon_abandoned h))
    · exact (hex _).trans (congrArg _ (eventFault_faulted h))
    · obtain ⟨hb, hu⟩ := loadEnd_keeps (s := s) (p := p) f
      rw [exec_burinRegionSwitch htrip, loadVerify_bad hv hs hf, vendorSwitch_idle (by rw [hb]; exact hvl),
        regionSwitch_idle (by rw [hb]; exact hl), mcGo_idle (by rw [hu]; exact hmc)]
    · refine ⟨_, exec_burinRegionSwitch htrip, ?_⟩
      rcases hload with ⟨hl, hv⟩ | ⟨hv, hs, hf⟩
      · rw [loadVerify_idle hv, vendorSwitch_idle hvl]
        exact regionSwitch_completes hl hmc hp hrun
      · rw [loadVerify_good hv hs hf, vendorSwitch_idle (by exact hvl)]
        exact regionSwitch_completes (by rfl) hmc hp hrun
  case detect =>
    intro c
    refine ⟨fun hsvc => ?_, fun hsvc hup => ?_⟩
    · obtain ⟨u, hu, hctx, hacts⟩ := eventRun_commits hrun hend (svcRun_ccmFail hop hsrc hsvc)
        (by cases nbit (cget Svc.cfmDefects c) 2 <;> rfl)
      refine ⟨u, hu, ?_, ?_, fun hclear => ?_⟩
      · rw [hctx]; exact ccmFailed_state
      · rw [hctx]; exact ccmFailed_defect
      · rw [hacts, hctx, hclear]; rfl
    · obtain ⟨u, hu, hctx, hacts⟩ := eventRun_commits hrun hend
        (fun rnd => (svcRun_bfdDetect hop hsrc hsvc rnd).trans (congrArg some (bfdDetect_up hup))) rfl
      refine ⟨u, hu, ?_, ?_, ?_⟩
      · rw [hctx]; exact bfdDetected_state hup
      · rw [hctx]; exact bfdDetected_diag hup
      · rw [hacts, hctx]
  case timer =>
    refine ⟨_, (guardWf_of (by simp [hn, hsess])).trans
      (congrArg _ (timerExpire_due rfl hsvc hset hdue hheld hdel hroom)), ctxOf_setCtx_same _, rfl⟩

end Sys2Proof.Machine
end

section
/-! SUPPORT. Sleep states and 1PPS pulses (R474 to R477, R483). -/

namespace Sys2Proof.Machine

variable {s : State} {d : Domain} {off : Nat}

/-! ### The registers of the power manager -/

/-- The registers of the power manager and the timebase. -/
def PwrReg (off : Nat) : Prop := R.pwrCtl ≤ off ∧ off < R.twinCfg

theorem PwrReg.ge (h : PwrReg off) : R.plateCmd ≤ off := Nat.le_trans (by decide) h.1

theorem PwrReg.lt (h : PwrReg off) : off < R.erqStat 0 := Nat.lt_trans h.2 (by decide)

theorem PwrReg.report {dd : Die} {cls inst code : Nat} {sev : Sev} {items : List (Nat × Nat)} (h : PwrReg off) (hsev : sev ≠ .f) :
    (report dd cls inst sev code items s).rd off = s.rd off := report_rd_of_unit hsev h.ge h.lt

theorem PwrReg.pwrIrq (h : PwrReg off) : (pwrIrq s).rd off = s.rd off :=
  doIf_rd (raiseBlock_rd (not_intReg_of_ge h.ge)) s

theorem PwrReg.ne_fabGroupStat (h : PwrReg off) {g : Nat} (hg : g < 24) : off ≠ R.fabGroupStat g := by
  simp only [PwrReg, R.pwrCtl, R.fabGroupStat] at h ⊢
  omega

theorem PwrReg.ne_fabLaneStat (h : PwrReg off) {l : Nat} (hl : l < 120) : off ≠ R.fabLaneStat l := by
  simp only [PwrReg, R.pwrCtl, R.fabLaneStat] at h ⊢
  omega

theorem PwrReg.refreshGroup (h : PwrReg off) {g : Nat} (hg : g < 24) : (refreshGroup g s).rd off = s.rd off := by
  have hrepin : ∀ u : State, (repinGroup g u).rd off = u.rd off := fun u => congrArg (smapGet regReset _) repinGroup_regs
  unfold Machine.refreshGroup
  dsimp only
  rw [doIf_rd hrepin, doIf_rd fun u => h.report (by decide), State.rd_setFld_ne _ _ _ (h.ne_fabGroupStat hg),
    State.rd_setFld_ne _ _ _ (h.ne_fabGroupStat hg), State.rd_setFld_ne _ _ _ (h.ne_fabGroupStat hg)]

theorem PwrReg.laneStart (h : PwrReg off) {l : Nat} (hl : l < 120) : (laneStart l s).rd off = s.rd off := by
  have hne := h.ne_fabLaneStat hl
  exact (fabIrq_rd h.ge).trans ((h.report (by decide)).trans
    ((State.rd_setFld_ne _ _ _ hne).trans (State.rd_setFld_ne _ _ _ hne)))

theorem PwrReg.reachedS0 (h : PwrReg off) (hd : domainOk d = true) : (reachedS0 d s).rd off = s.rd off := by
  cases d with
  | port | pair | burin => rfl
  | group g =>
    have hg : g < 24 := by simpa [domainOk] using hd
    refine (h.refreshGroup hg).trans (forEach_rd (fun l hl u => h.laneStart ?_) s)
    exact List.mem_range.1 (List.mem_of_mem_filter hl)

/-! ### Sleep states -/

theorem domainReg_pwr (hd : domainOk d = true) : PwrReg (domainReg d) ∧ domainReg d < R.pwrTbPps0 := by
  cases d <;> simp [domainOk] at hd <;>
    simp only [PwrReg, domainReg, R.pwrCtl, R.twinCfg, R.pwrTbPps0, R.pwrWakePort, R.pwrWakePair, R.pwrWakeGroup, R.pwrWakeBurin] <;>
    omega

theorem pwrCtr_pwr {i : Nat} (hi : i < 8) : PwrReg (R.pwrCtr i) := by
  simp only [PwrReg, R.pwrCtl, R.twinCfg, R.pwrCtr]
  omega

theorem sleepState_le (s : State) (d : Domain) : s.sleepState d ≤ 3 := by
  unfold State.sleepState
  split
  · omega
  · cases h : [3, 2, 1].find? (fun k => k ≤ budgetState (s.fld (domainReg d) wakeBudget) && s.mayEnter d k) with
    | none => exact Nat.zero_le 3
    | some k =>
      have hk := List.mem_of_find?_eq_some h
      simp at hk
      simp only [Option.getD_some]
      omega

theorem domainSleep_rd (h : s.fld (domainReg d) wakeState < s.sleepState d) (r : Nat) :
    (domainSleep d s).rd r = (s.setFld (domainReg d) wakeState (s.sleepState d)).rd r := by
  rw [domainSleep, if_pos h]
  refine doIf_rd (fun _ => ?_) _
  rfl

/-- A wake is counted beside the registers of the domains. -/
theorem wakeDone_rd {k tookNs : Nat} (h : PwrReg off) (h4 : off ≠ R.pwrCtr 4) :
    (wakeDone d k tookNs s).rd off = (s.inc (R.pwrCtr 3)).rd off :=
  doIf_rd (fun _ => (h.report (by decide)).trans (State.rd_inc_ne _ h4)) _

theorem domainWake_wakes {ns : Nat} (hk : s.fld (domainReg d) wakeState ≠ 0) (hw : s.wakeWanted d = true) :
    domainWake d ns s = reachedS0 d (wakeDone d (s.fld (domainReg d) wakeState) ns (s.setFld (domainReg d) wakeState 0)) := by
  have hc : (s.fld (domainReg d) wakeState != 0 && s.wakeWanted d) = true := by simp [hk, hw]
  rw [domainWake]
  exact if_pos hc

theorem domainWake_rd {ns : Nat} (hd : domainOk d = true) (hk : s.fld (domainReg d) wakeState ≠ 0)
    (hw : s.wakeWanted d = true) (h : PwrReg off) (h4 : off ≠ R.pwrCtr 4) :
    (domainWake d ns s).rd off = ((s.setFld (domainReg d) wakeState 0).inc (R.pwrCtr 3)).rd off := by
  rw [domainWake_wakes hk hw]
  exact (h.reachedS0 hd).trans (wakeDone_rd h h4)

/-! ### Pulses -/

theorem burinPps_regs {stamp : Nat} : (burinPps stamp s).regs = s.regs := by
  unfold burinPps
  split
  · rfl
  · refine doIf_keeps State.regs (fun _ => ?_) _ s
    rfl

theorem burinPps_pwr {stamp : Nat} : (burinPps stamp s).pwr = s.pwr := by
  unfold burinPps
  split
  · rfl
  · refine doIf_keeps State.pwr (fun _ => ?_) _ s
    rfl

theorem ppsOut_rises (hen : s.flag R.pwrTbCfg F.pwrTbCfgPpsOutEn = true) (hw : s.now % ticksPerSec < 65)
    (hnext : s.pwr.ppsNext ≤ s.now) : ppsOut s = ({ s with pwr := { s.pwr with
      ppsNext := (s.now / ticksPerSec + 1) * ticksPerSec
      ppsFall := s.now / ticksPerSec * ticksPerSec + msT 1 } }).emit (.pulse 0) := by
  have hc : (s.flag R.pwrTbCfg F.pwrTbCfgPpsOutEn && s.now % ticksPerSec < 65 && s.pwr.ppsNext ≤ s.now) = true := by
    rw [hen, decide_eq_true hw, decide_eq_true hnext]
    rfl
  exact if_pos hc

theorem ppsInEdge_stamps (hen : s.flag R.pwrTbCfg F.pwrTbCfgPpsInEn = true) : ∃ v,
    (ppsInEdge s).pwr.ppsAt = s.now ∧ (ppsInEdge s).regs =
      (((s.wr R.pwrTbPps0 (BitVec.ofNat 64 (stampLo s.now))).wr R.pwrTbPps1 v).setFld R.pwrTbStat F.pwrTbStatPpsLoss 0).regs := by
  rw [ppsInEdge, if_pos hen]
  exact ⟨_, congrArg PwrSt.ppsAt burinPps_pwr, burinPps_regs⟩

theorem ppsLoss_declared (hen : s.flag R.pwrTbCfg F.pwrTbCfgPpsInEn = true)
    (hno : s.flag R.pwrTbStat F.pwrTbStatPpsLoss = false) (hat : s.pwr.ppsAt + msT 1500 ≤ s.now) :
    ppsLoss s = pwrIrq (report .f 0x0C 0 .k 0x008 [] (s.setFld R.pwrTbStat F.pwrTbStatPpsLoss 1)) := by
  have hc : (s.flag R.pwrTbCfg F.pwrTbCfgPpsInEn && !s.flag R.pwrTbStat F.pwrTbStatPpsLoss && s.pwr.ppsAt + msT 1500 ≤ s.now) =
      true := by
    rw [hen, hno, decide_eq_true hat]
    rfl
  exact if_pos hc

theorem State.flag_eq_of_fld {f : Fld} {v : Nat} (h : s.fld off f = v) : s.flag off f = (v != 0) := by
  rw [State.flag, h]

/-- Settles O36: each event writes its own registers of the power manager, and what it records, counts or starts beside
them shows in no register of theirs. -/
theorem domainsAndPulses : Obligations.DomainsAndPulses := by
  intro s d ns hd hns st
  obtain ⟨hreg, hlow⟩ := domainReg_pwr hd
  refine ⟨fun h => ?sleep, fun hk hw => ?wake, fun hen hw hnext => ?pulse, fun hen => ⟨?edge, fun hno hat => ?loss⟩⟩
  case sleep =>
    refine ⟨_, guardWf_of hd, ?_, fun r hr => (domainSleep_rd h r).trans (State.rd_setFld_ne _ _ _ hr)⟩
    rw [State.fld, domainSleep_rd h]
    exact State.fld_setFld_same s (by decide) (Nat.lt_of_le_of_lt (sleepState_le s d) (by decide))
  case wake =>
    have hctr : ∀ i, domainReg d ≠ R.pwrCtr i := fun i => by
      simp only [R.pwrTbPps0, R.pwrCtr] at hlow ⊢
      omega
    refine ⟨_, guardWf_of (by rw [hd, decide_eq_true hns]; rfl), ?_, ?_⟩
    · rw [State.fld, domainWake_rd hd hk hw hreg (hctr 4), State.rd_inc_ne _ (hctr 3)]
      exact State.fld_setFld_same s (by decide) (by decide)
    · rw [domainWake_rd hd hk hw (pwrCtr_pwr (by decide)) (by decide), State.rd_inc_same,
        State.rd_setFld_ne _ _ _ (hctr 3).symm]
  case pulse =>
    refine ⟨_, (guardWf_of rfl).trans (congrArg _ (ppsOut_rises hen hw hnext)), rfl, rfl, rfl, rfl⟩
  case edge =>
    obtain ⟨v, hat, hregs⟩ := ppsInEdge_stamps hen
    have hrd : ∀ off, (ppsInEdge s).rd off = _ := fun off => congrArg (smapGet regReset off) hregs
    refine ⟨_, guardWf_of rfl, ?_, ?_, hat⟩
    · exact (hrd _).trans ((State.rd_setFld_ne _ _ _ (by decide)).trans ((State.rd_wr_ne _ _ (by decide)).trans (State.rd_wr_same ..)))
    · refine State.flag_eq_of_fld (v := 0) ?_
      exact (congrArg (getF · _) (hrd _)).trans (State.fld_setFld_same _ (by decide) (by decide))
  case loss =>
    refine ⟨_, (guardWf_of rfl).trans (congrArg _ (ppsLoss_declared hen hno hat)), ?_⟩
    have hpps : PwrReg R.pwrTbStat := ⟨by decide, by decide⟩
    refine State.flag_eq_of_fld (v := 1) ?_
    rw [State.fld, hpps.pwrIrq, hpps.report (by decide)]
    exact State.fld_setFld_same _ (by decide) (by decide)

end Sys2Proof.Machine
end

section
/-! SUPPORT. What a link that goes down leaves alone of the thermal sensors: their readings, the time of the last, and STALE
(R478 to R481). -/

namespace Sys2Proof.Machine

set_option linter.unreachableTactic false
set_option linter.unusedTactic false
set_option linter.unusedVariables false

/-- The readings `ts` of time `at_` are in force, and STALE reads `v`. -/
structure Reads (ts : List Int) (at_ v : Nat) (s : State) : Prop where
  temps : s.pwr.temps = ts
  time  : s.pwr.readAt = at_
  stale : s.fld R.pwrThermStat F.pwrThermStatStale = v

variable {ts : List Int} {at_ v : Nat} {s : State}

/-- An update of any other field leaves them alone. -/
theorem Reads.upd {regs now freeCtr outs pending host boot brFT brTF tap pkts line plate ppm tbl asa bpm q burin flash cuts cutAt
    upd sealSt pwr fab cal twin} (h : Reads ts at_ v s) (hr : regs = s.regs) (ht : pwr.temps = s.pwr.temps)
    (ha : pwr.readAt = s.pwr.readAt) :
    Reads ts at_ v ⟨regs, now, freeCtr, outs, pending, host, boot, brFT, brTF, tap, pkts, line, plate, ppm, tbl, asa, bpm, q,
      burin, flash, cuts, cutAt, upd, sealSt, pwr, fab, cal, twin⟩ :=
  ⟨ht.trans h.temps, ha.trans h.time, hr ▸ h.stale⟩

/-- A value on the way with these readings may be taken for any such state. -/
theorem Reads.gen {x : State} (hv : Reads ts at_ v x) {P : Prop} (hb : Reads ts at_ v x → P) : P := hb hv

theorem Reads.ite {c : Prop} [Decidable c] {a b : State} (ha : c → Reads ts at_ v a) (hb : ¬c → Reads ts at_ v b) :
    Reads ts at_ v (if c then a else b) := by
  by_cases h : c
  · rw [if_pos h]; exact ha h
  · rw [if_neg h]; exact hb h

theorem Reads.ofFst {α : Type _} {p : State × α} {a : State} {b : α} (h : Reads ts at_ v p.1) (e : p = (a, b)) :
    Reads ts at_ v a := by subst e; exact h

theorem Reads.ofSnd {α : Type _} {p : α × State} {a : State} {b : α} (h : Reads ts at_ v p.2) (e : p = (b, a)) :
    Reads ts at_ v a := by subst e; exact h

/-! ### Writes of other registers -/

theorem reads_wr {off : Nat} {w : Word} (hne : off ≠ R.pwrThermStat) (h : Reads ts at_ v s) : Reads ts at_ v (s.wr off w) :=
  ⟨h.temps, h.time, (congrArg (getF · F.pwrThermStatStale) (State.rd_wr_ne s w hne.symm)).trans h.stale⟩

theorem reads_setFld {off n : Nat} {f : Fld} (h : Reads ts at_ v s) (hne : off ≠ R.pwrThermStat) :
    Reads ts at_ v (s.setFld off f n) := reads_wr hne h

theorem reads_bump {off n : Nat} (h : Reads ts at_ v s) (hne : off ≠ R.pwrThermStat) : Reads ts at_ v (s.bump off n) :=
  reads_wr hne h

theorem reads_inc {off : Nat} (h : Reads ts at_ v s) (hne : off ≠ R.pwrThermStat) : Reads ts at_ v (s.inc off) :=
  reads_bump h hne

theorem lineCtr_apart (port : Nat) {i : Nat} (hi : i < 64) : lineCtr port i ≠ R.pwrThermStat := by
  simp only [lineCtr, R.lineCtr, R.pwrThermStat]
  omega

theorem linePortStat_apart (port : Nat) : R.linePortStat port ≠ R.pwrThermStat := by
  simp only [R.linePortStat, R.pwrThermStat]
  omega

theorem parserCtr_apart (pipe : Nat) : R.parserCtr pipe 6 ≠ R.pwrThermStat := by
  simp only [R.parserCtr, R.pwrThermStat]
  omega

theorem ringCtr_apart (p r : Nat) : R.ringCtr p r 0 ≠ R.pwrThermStat := by
  simp only [R.ringCtr, R.pwrThermStat]
  omega

theorem schedFlowCtr_apart (flow : Nat) : R.schedFlowCtr flow 1 ≠ R.pwrThermStat := by
  simp only [R.schedFlowCtr, R.pwrThermStat]
  omega

theorem reorderLate_apart : R.reorderRecircLate ≠ R.pwrThermStat := by decide
theorem burinCtr_apart : R.burinCtr 2 ≠ R.pwrThermStat := by decide
theorem schedCtr_apart : R.schedCtr 2 ≠ R.pwrThermStat := by decide

theorem intRegs_apart (p : Nat) : R.intStatus p ≠ R.pwrThermStat ∧ R.intEnable p ≠ R.pwrThermStat ∧
    R.intRingStatus p ≠ R.pwrThermStat ∧ R.intRingEnable p ≠ R.pwrThermStat := by
  simp only [R.intStatus, R.intEnable, R.intRingStatus, R.intRingEnable, R.pwrThermStat]
  omega

/-! ### The operations of a link that goes down -/

theorem reads_emit (x : Out) (h : Reads ts at_ v s) : Reads ts at_ v (s.emit x) := ⟨h.temps, h.time, h.stale⟩

theorem reads_doIf {b : Bool} {f : State → State} (hf : ∀ s, Reads ts at_ v s → Reads ts at_ v (f s)) (h : Reads ts at_ v s) :
    Reads ts at_ v (doIf b f s) := by cases b <;> [exact h; exact hf s h]

theorem reads_forEach {α : Type} {f : α → State → State} {as : List α}
    (hf : ∀ a s, Reads ts at_ v s → Reads ts at_ v (f a s)) (h : Reads ts at_ v s) : Reads ts at_ v (forEach as f s) := by
  unfold forEach
  induction as generalizing s with
  | nil => exact h
  | cons a as ih => exact ih (hf a s h)

theorem reads_sendMsi {p src : Nat} (h0 : Reads ts at_ v s) :
    Reads ts at_ v (sendMsi p src s) := by
  unfold sendMsi
  repeat' first
    | with_reducible assumption | with_reducible refine Reads.ite (fun _ => ?_) (fun _ => ?_)
    | (intro x; with_reducible refine Reads.gen (ts := ts) (at_ := at_) (v := v) (x := x) ?_ ?_; (on_goal 1 => unfold x); (on_goal 2 => (intro _; clear_value x)))
    | (intro x; (have t : Nat := x; clear t); clear_value x) | (intro x) | lift_lets -underBinder
    | with_reducible apply reads_emit | fail_if_no_progress (with_reducible refine Reads.upd ?_ rfl rfl rfl)
    | split | with_reducible refine Reads.ofFst ?_ (by assumption) | with_reducible refine Reads.ofSnd ?_ (by assumption)
    | (clear_value *; split)

theorem reads_intWrite {p src0 n statOff enOff : Nat} {stat en : Word} (hs : statOff ≠ R.pwrThermStat)
    (he : enOff ≠ R.pwrThermStat) (h0 : Reads ts at_ v s) : Reads ts at_ v (intWrite p src0 n statOff enOff stat en s) :=
  reads_forEach (fun _ _ h => reads_doIf (fun _ h => reads_sendMsi h) h) (reads_wr he (reads_wr hs h0))

theorem reads_raiseSrc {p src : Nat} (h0 : Reads ts at_ v s) : Reads ts at_ v (raiseSrc p src s) := by
  obtain ⟨hs, he, hrs, hre⟩ := intRegs_apart p
  unfold raiseSrc
  split
  · split
    · exact reads_intWrite hs he h0
    · exact reads_intWrite hrs hre h0
  · exact h0

theorem reads_touchPair {p : Packet} (h0 : Reads ts at_ v s) :
    Reads ts at_ v (touchPair p s) := by
  unfold touchPair
  repeat' first
    | with_reducible assumption | with_reducible refine Reads.ite (fun _ => ?_) (fun _ => ?_)
    | (intro x; with_reducible refine Reads.gen (ts := ts) (at_ := at_) (v := v) (x := x) ?_ ?_; (on_goal 1 => unfold x); (on_goal 2 => (intro _; clear_value x)))
    | (intro x; (have t : Nat := x; clear t); clear_value x) | (intro x) | lift_lets -underBinder
    | fail_if_no_progress (with_reducible refine Reads.upd ?_ rfl rfl rfl) | split
    | with_reducible refine Reads.ofFst ?_ (by assumption) | with_reducible refine Reads.ofSnd ?_ (by assumption)
    | (clear_value *; split)

theorem reads_touchOld {id : Nat} (h0 : Reads ts at_ v s) :
    Reads ts at_ v (touchOld id s) := by
  unfold touchOld
  repeat' first
    | with_reducible assumption | with_reducible refine Reads.ite (fun _ => ?_) (fun _ => ?_)
    | (intro x; with_reducible refine Reads.gen (ts := ts) (at_ := at_) (v := v) (x := x) ?_ ?_; (on_goal 1 => unfold x); (on_goal 2 => (intro _; clear_value x)))
    | (intro x; (have t : Nat := x; clear t); clear_value x) | (intro x) | lift_lets -underBinder
    | with_reducible refine reads_touchPair ?_
    | fail_if_no_progress (with_reducible refine Reads.upd ?_ rfl rfl rfl) | split
    | with_reducible refine Reads.ofFst ?_ (by assumption) | with_reducible refine Reads.ofSnd ?_ (by assumption)
    | (clear_value *; split)

theorem reads_setPkt {id : Nat} {p : Packet} (h0 : Reads ts at_ v s) :
    Reads ts at_ v (setPkt id p s) := by
  unfold setPkt
  repeat' first
    | with_reducible assumption | with_reducible refine Reads.ite (fun _ => ?_) (fun _ => ?_)
    | (intro x; with_reducible refine Reads.gen (ts := ts) (at_ := at_) (v := v) (x := x) ?_ ?_; (on_goal 1 => unfold x); (on_goal 2 => (intro _; clear_value x)))
    | (intro x; (have t : Nat := x; clear t); clear_value x) | (intro x) | lift_lets -underBinder
    | with_reducible refine reads_touchPair ?_ | with_reducible refine reads_touchOld ?_
    | fail_if_no_progress (with_reducible refine Reads.upd ?_ rfl rfl rfl) | split
    | with_reducible refine Reads.ofFst ?_ (by assumption) | with_reducible refine Reads.ofSnd ?_ (by assumption)
    | (clear_value *; split)

theorem reads_erasePkt {id : Nat} (h0 : Reads ts at_ v s) :
    Reads ts at_ v (erasePkt id s) := by
  unfold erasePkt
  repeat' first
    | with_reducible assumption | with_reducible refine Reads.ite (fun _ => ?_) (fun _ => ?_)
    | (intro x; with_reducible refine Reads.gen (ts := ts) (at_ := at_) (v := v) (x := x) ?_ ?_; (on_goal 1 => unfold x); (on_goal 2 => (intro _; clear_value x)))
    | (intro x; (have t : Nat := x; clear t); clear_value x) | (intro x) | lift_lets -underBinder
    | with_reducible refine reads_touchOld ?_
    | fail_if_no_progress (with_reducible refine Reads.upd ?_ rfl rfl rfl) | split
    | with_reducible refine Reads.ofFst ?_ (by assumption) | with_reducible refine Reads.ofSnd ?_ (by assumption)
    | (clear_value *; split)

theorem reads_arrive {r id : Nat} (h0 : Reads ts at_ v s) :
    Reads ts at_ v (arrive r id s) := by
  unfold arrive
  repeat' first
    | with_reducible assumption | with_reducible refine Reads.ite (fun _ => ?_) (fun _ => ?_)
    | (intro x; with_reducible refine Reads.gen (ts := ts) (at_ := at_) (v := v) (x := x) ?_ ?_; (on_goal 1 => unfold x); (on_goal 2 => (intro _; clear_value x)))
    | (intro x; (have t : Nat := x; clear t); clear_value x) | (intro x) | lift_lets -underBinder
    | fail_if_no_progress (with_reducible refine Reads.upd ?_ rfl rfl rfl) | split
    | with_reducible refine Reads.ofFst ?_ (by assumption) | with_reducible refine Reads.ofSnd ?_ (by assumption)
    | (clear_value *; split)

theorem reads_setBridge {dir : Nat} {b : BridgeDir} (h0 : Reads ts at_ v s) :
    Reads ts at_ v (setBridge dir b s) := by
  unfold setBridge
  repeat' first
    | with_reducible assumption | with_reducible refine Reads.ite (fun _ => ?_) (fun _ => ?_)
    | (intro x; with_reducible refine Reads.gen (ts := ts) (at_ := at_) (v := v) (x := x) ?_ ?_; (on_goal 1 => unfold x); (on_goal 2 => (intro _; clear_value x)))
    | (intro x; (have t : Nat := x; clear t); clear_value x) | (intro x) | lift_lets -underBinder
    | fail_if_no_progress (with_reducible refine Reads.upd ?_ rfl rfl rfl) | split
    | with_reducible refine Reads.ofFst ?_ (by assumption) | with_reducible refine Reads.ofSnd ?_ (by assumption)
    | (clear_value *; split)

theorem reads_bridgeRouted {dir id : Nat} {b : Bytes} (h0 : Reads ts at_ v s) :
    Reads ts at_ v (bridgeRouted dir id b s) := by
  unfold bridgeRouted
  repeat' first
    | with_reducible assumption | with_reducible refine Reads.ite (fun _ => ?_) (fun _ => ?_)
    | (intro x; with_reducible refine Reads.gen (ts := ts) (at_ := at_) (v := v) (x := x) ?_ ?_; (on_goal 1 => unfold x); (on_goal 2 => (intro _; clear_value x)))
    | (intro x; (have t : Nat := x; clear t); clear_value x) | (intro x) | lift_lets -underBinder
    | with_reducible refine reads_setBridge ?_
    | fail_if_no_progress (with_reducible refine Reads.upd ?_ rfl rfl rfl) | split
    | with_reducible refine Reads.ofFst ?_ (by assumption) | with_reducible refine Reads.ofSnd ?_ (by assumption)
    | (clear_value *; split)

theorem reads_bridgeTail {dir id : Nat} {b : Bytes} (h0 : Reads ts at_ v s) :
    Reads ts at_ v (bridgeTail dir id b s) := by
  unfold bridgeTail
  repeat' first
    | with_reducible assumption | with_reducible refine Reads.ite (fun _ => ?_) (fun _ => ?_)
    | (intro x; with_reducible refine Reads.gen (ts := ts) (at_ := at_) (v := v) (x := x) ?_ ?_; (on_goal 1 => unfold x); (on_goal 2 => (intro _; clear_value x)))
    | (intro x; (have t : Nat := x; clear t); clear_value x) | (intro x) | lift_lets -underBinder
    | with_reducible refine reads_setBridge ?_ | with_reducible refine reads_bridgeRouted ?_
    | fail_if_no_progress (with_reducible refine Reads.upd ?_ rfl rfl rfl) | split
    | with_reducible refine Reads.ofFst ?_ (by assumption) | with_reducible refine Reads.ofSnd ?_ (by assumption)
    | (clear_value *; split)

theorem reads_bridgeSched {dir : Nat} {b : Bytes} (h0 : Reads ts at_ v s) :
    Reads ts at_ v (bridgeSched dir b s) := by
  unfold bridgeSched
  repeat' first
    | with_reducible assumption | with_reducible refine Reads.ite (fun _ => ?_) (fun _ => ?_)
    | (intro x; with_reducible refine Reads.gen (ts := ts) (at_ := at_) (v := v) (x := x) ?_ ?_; (on_goal 1 => unfold x); (on_goal 2 => (intro _; clear_value x)))
    | (intro x; (have t : Nat := x; clear t); clear_value x) | (intro x) | lift_lets -underBinder
    | with_reducible refine reads_setBridge ?_
    | fail_if_no_progress (with_reducible refine Reads.upd ?_ rfl rfl rfl) | split
    | with_reducible refine Reads.ofFst ?_ (by assumption) | with_reducible refine Reads.ofSnd ?_ (by assumption)
    | (clear_value *; split)

theorem reads_setStream {n : Nat} {r : Reorder} (h0 : Reads ts at_ v s) :
    Reads ts at_ v (setStream n r s) := by
  unfold setStream
  repeat' first
    | with_reducible assumption | with_reducible refine Reads.ite (fun _ => ?_) (fun _ => ?_)
    | (intro x; with_reducible refine Reads.gen (ts := ts) (at_ := at_) (v := v) (x := x) ?_ ?_; (on_goal 1 => unfold x); (on_goal 2 => (intro _; clear_value x)))
    | (intro x; (have t : Nat := x; clear t); clear_value x) | (intro x) | lift_lets -underBinder
    | fail_if_no_progress (with_reducible refine Reads.upd ?_ rfl rfl rfl) | split
    | with_reducible refine Reads.ofFst ?_ (by assumption) | with_reducible refine Reads.ofSnd ?_ (by assumption)
    | (clear_value *; split)

theorem reads_countLate {n : Nat} (h0 : Reads ts at_ v s) :
    Reads ts at_ v (countLate n s) := by
  unfold countLate
  repeat' first
    | exact reorderLate_apart
    | exact lineCtr_apart _ (by decide)
    | with_reducible assumption | with_reducible refine Reads.ite (fun _ => ?_) (fun _ => ?_)
    | with_reducible refine reads_inc ?_ ?_
    | fail_if_no_progress (with_reducible refine Reads.upd ?_ rfl rfl rfl) | split
    | with_reducible refine Reads.ofFst ?_ (by assumption) | with_reducible refine Reads.ofSnd ?_ (by assumption)
    | (clear_value *; split)

theorem reads_advanceE {n : Nat} (h0 : Reads ts at_ v s) :
    Reads ts at_ v (advanceE n s) := by
  unfold advanceE
  repeat' first
    | with_reducible assumption | with_reducible refine Reads.ite (fun _ => ?_) (fun _ => ?_)
    | (intro x; with_reducible refine Reads.gen (ts := ts) (at_ := at_) (v := v) (x := x) ?_ ?_; (on_goal 1 => unfold x); (on_goal 2 => (intro _; clear_value x)))
    | (intro x; (have t : Nat := x; clear t); clear_value x) | (intro x) | lift_lets -underBinder
    | with_reducible refine reads_setStream ?_
    | fail_if_no_progress (with_reducible refine Reads.upd ?_ rfl rfl rfl) | split
    | with_reducible refine Reads.ofFst ?_ (by assumption) | with_reducible refine Reads.ofSnd ?_ (by assumption)
    | (clear_value *; split)

theorem reads_toBridge {r id : Nat} {p : Packet} (h0 : Reads ts at_ v s) :
    Reads ts at_ v (toBridge r id p s) := by
  unfold toBridge
  repeat' first
    | with_reducible assumption | with_reducible refine Reads.ite (fun _ => ?_) (fun _ => ?_)
    | with_reducible refine reads_setPkt ?_ | with_reducible refine reads_arrive ?_
    | with_reducible refine reads_bridgeRouted ?_
    | fail_if_no_progress (with_reducible refine Reads.upd ?_ rfl rfl rfl) | split
    | with_reducible refine Reads.ofFst ?_ (by assumption) | with_reducible refine Reads.ofSnd ?_ (by assumption)
    | (clear_value *; split)

theorem reads_sendReordered {id : Nat} {p : Packet} (h0 : Reads ts at_ v s) :
    Reads ts at_ v (sendReordered id p s) := by
  unfold sendReordered
  repeat' first
    | with_reducible assumption | with_reducible refine Reads.ite (fun _ => ?_) (fun _ => ?_)
    | (intro x; with_reducible refine Reads.gen (ts := ts) (at_ := at_) (v := v) (x := x) ?_ ?_; (on_goal 1 => unfold x); (on_goal 2 => (intro _; clear_value x)))
    | (intro x; (have t : Nat := x; clear t); clear_value x) | (intro x) | lift_lets -underBinder
    | with_reducible refine reads_toBridge ?_
    | fail_if_no_progress (with_reducible refine Reads.upd ?_ rfl rfl rfl) | split
    | with_reducible refine Reads.ofFst ?_ (by assumption) | with_reducible refine Reads.ofSnd ?_ (by assumption)
    | (clear_value *; split)

theorem reads_releaseRun {n fuel : Nat} (h : Reads ts at_ v s) : Reads ts at_ v (releaseRun n fuel s) := by
  induction fuel generalizing s with
  | zero => exact h
  | succ fuel ih =>
    unfold releaseRun
    dsimp only
    split
    · exact ih (reads_advanceE h)
    · split
      · split
        · exact ih (reads_sendReordered (reads_advanceE h))
        · exact h
      · exact h

theorem reads_release {n : Nat} (h0 : Reads ts at_ v s) :
    Reads ts at_ v (release n s) := by
  unfold release
  repeat' first
    | with_reducible assumption | with_reducible refine Reads.ite (fun _ => ?_) (fun _ => ?_)
    | with_reducible refine reads_releaseRun ?_
    | fail_if_no_progress (with_reducible refine Reads.upd ?_ rfl rfl rfl) | split
    | with_reducible refine Reads.ofFst ?_ (by assumption) | with_reducible refine Reads.ofSnd ?_ (by assumption)
    | (clear_value *; split)

theorem reads_holeArrives {n seq : Nat} (h0 : Reads ts at_ v s) :
    Reads ts at_ v (holeArrives n seq s) := by
  unfold holeArrives
  repeat' first
    | with_reducible assumption | with_reducible refine Reads.ite (fun _ => ?_) (fun _ => ?_)
    | (intro x; with_reducible refine Reads.gen (ts := ts) (at_ := at_) (v := v) (x := x) ?_ ?_; (on_goal 1 => unfold x); (on_goal 2 => (intro _; clear_value x)))
    | (intro x; (have t : Nat := x; clear t); clear_value x) | (intro x) | lift_lets -underBinder
    | with_reducible refine reads_setStream ?_ | with_reducible refine reads_countLate ?_
    | with_reducible refine reads_release ?_
    | fail_if_no_progress (with_reducible refine Reads.upd ?_ rfl rfl rfl) | split
    | with_reducible refine Reads.ofFst ?_ (by assumption) | with_reducible refine Reads.ofSnd ?_ (by assumption)
    | (clear_value *; split)

theorem reads_countBad {port : Nat} {b : BadTail} (h0 : Reads ts at_ v s) :
    Reads ts at_ v (countBad port b s) := by
  unfold countBad
  repeat' first
    | exact lineCtr_apart _ (by decide)
    | with_reducible assumption | with_reducible refine Reads.ite (fun _ => ?_) (fun _ => ?_)
    | (intro x; with_reducible refine Reads.gen (ts := ts) (at_ := at_) (v := v) (x := x) ?_ ?_; (on_goal 1 => unfold x); (on_goal 2 => (intro _; clear_value x)))
    | (intro x; (have t : Nat := x; clear t); clear_value x) | (intro x) | lift_lets -underBinder
    | with_reducible refine reads_inc ?_ ?_
    | fail_if_no_progress (with_reducible refine Reads.upd ?_ rfl rfl rfl) | split
    | with_reducible refine Reads.ofFst ?_ (by assumption) | with_reducible refine Reads.ofSnd ?_ (by assumption)
    | (clear_value *; split)

theorem reads_countFec {port : Nat} {fec : Fec} (h0 : Reads ts at_ v s) :
    Reads ts at_ v (countFec port fec s) := by
  unfold countFec
  repeat' first
    | exact lineCtr_apart _ (by decide)
    | with_reducible assumption | with_reducible refine Reads.ite (fun _ => ?_) (fun _ => ?_)
    | with_reducible refine reads_bump ?_ ?_
    | fail_if_no_progress (with_reducible refine Reads.upd ?_ rfl rfl rfl) | split
    | with_reducible refine Reads.ofFst ?_ (by assumption) | with_reducible refine Reads.ofSnd ?_ (by assumption)
    | (clear_value *; split)

theorem reads_countRx {port len : Nat} {fec : Fec} (h0 : Reads ts at_ v s) :
    Reads ts at_ v (countRx port len fec s) := by
  unfold countRx
  repeat' first
    | exact lineCtr_apart _ (by decide)
    | with_reducible assumption | with_reducible refine Reads.ite (fun _ => ?_) (fun _ => ?_)
    | with_reducible refine reads_bump ?_ ?_ | with_reducible refine reads_inc ?_ ?_ | with_reducible refine reads_countFec ?_
    | fail_if_no_progress (with_reducible refine Reads.upd ?_ rfl rfl rfl) | split
    | with_reducible refine Reads.ofFst ?_ (by assumption) | with_reducible refine Reads.ofSnd ?_ (by assumption)
    | (clear_value *; split)

theorem reads_countStomp {port : Nat} {b : BadTail} (h0 : Reads ts at_ v s) :
    Reads ts at_ v (countStomp port b s) := by
  unfold countStomp
  repeat' first
    | exact lineCtr_apart _ (by decide)
    | with_reducible assumption | with_reducible refine Reads.ite (fun _ => ?_) (fun _ => ?_)
    | with_reducible refine reads_inc ?_ ?_ | with_reducible refine reads_countBad ?_
    | fail_if_no_progress (with_reducible refine Reads.upd ?_ rfl rfl rfl) | split
    | with_reducible refine Reads.ofFst ?_ (by assumption) | with_reducible refine Reads.ofSnd ?_ (by assumption)
    | (clear_value *; split)

theorem reads_clearCur {port : Nat} (h0 : Reads ts at_ v s) :
    Reads ts at_ v (clearCur port s) := by
  unfold clearCur
  repeat' first
    | with_reducible assumption | with_reducible refine Reads.ite (fun _ => ?_) (fun _ => ?_)
    | (intro x; with_reducible refine Reads.gen (ts := ts) (at_ := at_) (v := v) (x := x) ?_ ?_; (on_goal 1 => unfold x); (on_goal 2 => (intro _; clear_value x)))
    | (intro x; (have t : Nat := x; clear t); clear_value x) | (intro x) | lift_lets -underBinder
    | fail_if_no_progress (with_reducible refine Reads.upd ?_ rfl rfl rfl) | split
    | with_reducible refine Reads.ofFst ?_ (by assumption) | with_reducible refine Reads.ofSnd ?_ (by assumption)
    | (clear_value *; split)

theorem reads_lenLate {p : Packet} {len : Nat} (h0 : Reads ts at_ v s) :
    Reads ts at_ v (lenLate p len s) := by
  unfold lenLate
  repeat' first
    | exact parserCtr_apart _
    | with_reducible assumption | with_reducible refine Reads.ite (fun _ => ?_) (fun _ => ?_)
    | with_reducible refine reads_doIf (fun _ _ => ?_) ?_ | with_reducible refine reads_inc ?_ ?_
    | fail_if_no_progress (with_reducible refine Reads.upd ?_ rfl rfl rfl) | split
    | with_reducible refine Reads.ofFst ?_ (by assumption) | with_reducible refine Reads.ofSnd ?_ (by assumption)
    | (clear_value *; split)

theorem reads_tailOf {port id : Nat} {rest : Bytes} {had : Nat} {b : Option BadTail} (h0 : Reads ts at_ v s) :
    Reads ts at_ v (tailOf port id rest had b s) := by
  unfold tailOf
  repeat' first
    | with_reducible assumption | with_reducible refine Reads.ite (fun _ => ?_) (fun _ => ?_)
    | (intro x; with_reducible refine Reads.gen (ts := ts) (at_ := at_) (v := v) (x := x) ?_ ?_; (on_goal 1 => unfold x); (on_goal 2 => (intro _; clear_value x)))
    | (intro x; (have t : Nat := x; clear t); clear_value x) | (intro x) | lift_lets -underBinder
    | with_reducible refine reads_doIf (fun _ _ => ?_) ?_ | with_reducible refine reads_setPkt ?_
    | with_reducible refine reads_erasePkt ?_ | with_reducible refine reads_bridgeTail ?_
    | with_reducible refine reads_holeArrives ?_ | with_reducible refine reads_countBad ?_
    | with_reducible refine reads_countStomp ?_ | with_reducible refine reads_lenLate ?_
    | fail_if_no_progress (with_reducible refine Reads.upd ?_ rfl rfl rfl) | split
    | with_reducible refine Reads.ofFst ?_ (by assumption) | with_reducible refine Reads.ofSnd ?_ (by assumption)
    | (clear_value *; split)

theorem reads_frameTail {port : Nat} {rest : Bytes} {tail : Tail} {fec : Fec} (h0 : Reads ts at_ v s) :
    Reads ts at_ v (frameTail port rest tail fec s) := by
  unfold frameTail
  repeat' first
    | exact lineCtr_apart _ (by decide)
    | with_reducible assumption | with_reducible refine Reads.ite (fun _ => ?_) (fun _ => ?_)
    | (intro x; with_reducible refine Reads.gen (ts := ts) (at_ := at_) (v := v) (x := x) ?_ ?_; (on_goal 1 => unfold x); (on_goal 2 => (intro _; clear_value x)))
    | (intro x; (have t : Nat := x; clear t); clear_value x) | (intro x) | lift_lets -underBinder
    | with_reducible refine reads_doIf (fun _ _ => ?_) ?_ | with_reducible refine reads_inc ?_ ?_
    | with_reducible refine reads_countBad ?_ | with_reducible refine reads_countRx ?_
    | with_reducible refine reads_clearCur ?_ | with_reducible refine reads_tailOf ?_
    | fail_if_no_progress (with_reducible refine Reads.upd ?_ rfl rfl rfl) | split
    | with_reducible refine Reads.ofFst ?_ (by assumption) | with_reducible refine Reads.ofSnd ?_ (by assumption)
    | (clear_value *; split)

theorem reads_setMacQueue {port : Nat} {l : List MacItem} (h0 : Reads ts at_ v s) :
    Reads ts at_ v (setMacQueue port l s) := by
  unfold setMacQueue
  repeat' first
    | with_reducible assumption | with_reducible refine Reads.ite (fun _ => ?_) (fun _ => ?_)
    | (intro x; with_reducible refine Reads.gen (ts := ts) (at_ := at_) (v := v) (x := x) ?_ ?_; (on_goal 1 => unfold x); (on_goal 2 => (intro _; clear_value x)))
    | (intro x; (have t : Nat := x; clear t); clear_value x) | (intro x) | lift_lets -underBinder
    | fail_if_no_progress (with_reducible refine Reads.upd ?_ rfl rfl rfl) | split
    | with_reducible refine Reads.ofFst ?_ (by assumption) | with_reducible refine Reads.ofSnd ?_ (by assumption)
    | (clear_value *; split)

theorem reads_dropMacQueue {port : Nat} (h0 : Reads ts at_ v s) :
    Reads ts at_ v (dropMacQueue port s) := by
  unfold dropMacQueue
  repeat' first
    | exact lineCtr_apart _ (by decide)
    | with_reducible assumption | with_reducible refine Reads.ite (fun _ => ?_) (fun _ => ?_)
    | (intro x; with_reducible refine Reads.gen (ts := ts) (at_ := at_) (v := v) (x := x) ?_ ?_; (on_goal 1 => unfold x); (on_goal 2 => (intro _; clear_value x)))
    | (intro x; (have t : Nat := x; clear t); clear_value x) | (intro x) | lift_lets -underBinder
    | with_reducible refine reads_forEach (fun _ _ _ => ?_) ?_ | with_reducible refine reads_inc ?_ ?_
    | with_reducible refine reads_erasePkt ?_ | with_reducible refine reads_setMacQueue ?_
    | fail_if_no_progress (with_reducible refine Reads.upd ?_ rfl rfl rfl) | split
    | with_reducible refine Reads.ofFst ?_ (by assumption) | with_reducible refine Reads.ofSnd ?_ (by assumption)
    | (clear_value *; split)

theorem reads_linkChange {port : Nat} {up lf rf : Bool} {fec : Fec} (h0 : Reads ts at_ v s) :
    Reads ts at_ v (linkChange port up lf rf fec s) := by
  have hst := linePortStat_apart port
  unfold linkChange
  split
  · refine reads_doIf (fun _ h => reads_dropMacQueue h) (Reads.upd ?_ rfl rfl rfl)
    refine reads_setFld (reads_setFld (reads_setFld (reads_doIf (fun u h => ?_) h0) hst) hst) hst
    split
    · exact reads_frameTail h
    · exact reads_countFec h
  · exact h0

theorem reads_ringIrq {p r : Nat} (h0 : Reads ts at_ v s) :
    Reads ts at_ v (ringIrq p r s) := by
  unfold ringIrq
  repeat' first
    | with_reducible assumption | with_reducible refine Reads.ite (fun _ => ?_) (fun _ => ?_)
    | with_reducible refine reads_doIf (fun _ _ => ?_) ?_ | with_reducible refine reads_raiseSrc ?_
    | fail_if_no_progress (with_reducible refine Reads.upd ?_ rfl rfl rfl) | split
    | with_reducible refine Reads.ofFst ?_ (by assumption) | with_reducible refine Reads.ofSnd ?_ (by assumption)
    | (clear_value *; split)

theorem reads_rxComplete {p r : Nat} (h0 : Reads ts at_ v s) :
    Reads ts at_ v (rxComplete p r s) := by
  unfold rxComplete
  repeat' first
    | with_reducible assumption | with_reducible refine Reads.ite (fun _ => ?_) (fun _ => ?_)
    | (intro x; with_reducible refine Reads.gen (ts := ts) (at_ := at_) (v := v) (x := x) ?_ ?_; (on_goal 1 => unfold x); (on_goal 2 => (intro _; clear_value x)))
    | (intro x; (have t : Nat := x; clear t); clear_value x) | (intro x) | lift_lets -underBinder
    | with_reducible refine reads_ringIrq ?_
    | fail_if_no_progress (with_reducible refine Reads.upd ?_ rfl rfl rfl) | split
    | with_reducible refine Reads.ofFst ?_ (by assumption) | with_reducible refine Reads.ofSnd ?_ (by assumption)
    | (clear_value *; split)

theorem reads_ringWrite {id : Nat} (h0 : Reads ts at_ v s) :
    Reads ts at_ v (ringWrite id s) := by
  unfold ringWrite
  repeat' first
    | exact ringCtr_apart _ _
    | with_reducible assumption | with_reducible refine Reads.ite (fun _ => ?_) (fun _ => ?_)
    | (intro x; with_reducible refine Reads.gen (ts := ts) (at_ := at_) (v := v) (x := x) ?_ ?_; (on_goal 1 => unfold x); (on_goal 2 => (intro _; clear_value x)))
    | (intro x; (have t : Nat := x; clear t); clear_value x) | (intro x) | lift_lets -underBinder
    | with_reducible apply reads_emit | with_reducible refine reads_inc ?_ ?_ | with_reducible refine reads_erasePkt ?_
    | with_reducible refine reads_rxComplete ?_
    | fail_if_no_progress (with_reducible refine Reads.upd ?_ rfl rfl rfl) | split
    | with_reducible refine Reads.ofFst ?_ (by assumption) | with_reducible refine Reads.ofSnd ?_ (by assumption)
    | (clear_value *; split)

theorem reads_burinPush {e : BurinEv} (h0 : Reads ts at_ v s) :
    Reads ts at_ v (burinPush e s) := by
  unfold burinPush
  repeat' first
    | with_reducible assumption | with_reducible refine Reads.ite (fun _ => ?_) (fun _ => ?_)
    | (intro x; with_reducible refine Reads.gen (ts := ts) (at_ := at_) (v := v) (x := x) ?_ ?_; (on_goal 1 => unfold x); (on_goal 2 => (intro _; clear_value x)))
    | (intro x; (have t : Nat := x; clear t); clear_value x) | (intro x) | lift_lets -underBinder
    | fail_if_no_progress (with_reducible refine Reads.upd ?_ rfl rfl rfl) | split
    | with_reducible refine Reads.ofFst ?_ (by assumption) | with_reducible refine Reads.ofSnd ?_ (by assumption)
    | (clear_value *; split)

theorem reads_burinPacket {op sess : Nat} {p : Packet} (h0 : Reads ts at_ v s) :
    Reads ts at_ v (burinPacket op sess p s) := by
  unfold burinPacket
  repeat' first
    | exact burinCtr_apart
    | with_reducible assumption | with_reducible refine Reads.ite (fun _ => ?_) (fun _ => ?_)
    | with_reducible refine reads_inc ?_ ?_ | with_reducible refine reads_burinPush ?_
    | fail_if_no_progress (with_reducible refine Reads.upd ?_ rfl rfl rfl) | split
    | with_reducible refine Reads.ofFst ?_ (by assumption) | with_reducible refine Reads.ofSnd ?_ (by assumption)
    | (clear_value *; split)

theorem reads_burinWhole {id : Nat} (h0 : Reads ts at_ v s) :
    Reads ts at_ v (burinWhole id s) := by
  unfold burinWhole
  repeat' first
    | with_reducible assumption | with_reducible refine Reads.ite (fun _ => ?_) (fun _ => ?_)
    | (intro x; with_reducible refine Reads.gen (ts := ts) (at_ := at_) (v := v) (x := x) ?_ ?_; (on_goal 1 => unfold x); (on_goal 2 => (intro _; clear_value x)))
    | (intro x; (have t : Nat := x; clear t); clear_value x) | (intro x) | lift_lets -underBinder
    | with_reducible refine reads_doIf (fun _ _ => ?_) ?_ | with_reducible refine reads_erasePkt ?_
    | with_reducible refine reads_burinPacket ?_
    | fail_if_no_progress (with_reducible refine Reads.upd ?_ rfl rfl rfl) | split
    | with_reducible refine Reads.ofFst ?_ (by assumption) | with_reducible refine Reads.ofSnd ?_ (by assumption)
    | (clear_value *; split)

theorem reads_tailAndAfter {port : Nat} {k : State → State} (hk : ∀ s, Reads ts at_ v s → Reads ts at_ v (k s)) (h0 : Reads ts at_ v s) :
    Reads ts at_ v (tailAndAfter port k s) := by
  unfold tailAndAfter
  repeat' first
    | with_reducible assumption | with_reducible refine Reads.ite (fun _ => ?_) (fun _ => ?_)
    | (intro x; with_reducible refine Reads.gen (ts := ts) (at_ := at_) (v := v) (x := x) ?_ ?_; (on_goal 1 => unfold x); (on_goal 2 => (intro _; clear_value x)))
    | (intro x; (have t : Nat := x; clear t); clear_value x) | (intro x) | lift_lets -underBinder
    | with_reducible refine hk _ ?_ | with_reducible refine reads_ringWrite ?_
    | with_reducible refine reads_burinWhole ?_
    | fail_if_no_progress (with_reducible refine Reads.upd ?_ rfl rfl rfl) | split
    | with_reducible refine Reads.ofFst ?_ (by assumption) | with_reducible refine Reads.ofSnd ?_ (by assumption)
    | (clear_value *; split)

theorem reads_setTxFrame {key : Nat} {f : TxFrame} (h0 : Reads ts at_ v s) :
    Reads ts at_ v (setTxFrame key f s) := by
  unfold setTxFrame
  repeat' first
    | with_reducible assumption | with_reducible refine Reads.ite (fun _ => ?_) (fun _ => ?_)
    | (intro x; with_reducible refine Reads.gen (ts := ts) (at_ := at_) (v := v) (x := x) ?_ ?_; (on_goal 1 => unfold x); (on_goal 2 => (intro _; clear_value x)))
    | (intro x; (have t : Nat := x; clear t); clear_value x) | (intro x) | lift_lets -underBinder
    | fail_if_no_progress (with_reducible refine Reads.upd ?_ rfl rfl rfl) | split
    | with_reducible refine Reads.ofFst ?_ (by assumption) | with_reducible refine Reads.ofSnd ?_ (by assumption)
    | (clear_value *; split)

theorem reads_setPoolPage {p : Nat} {b : Bytes} (h0 : Reads ts at_ v s) :
    Reads ts at_ v (setPoolPage p b s) := by
  unfold setPoolPage
  repeat' first
    | with_reducible assumption | with_reducible refine Reads.ite (fun _ => ?_) (fun _ => ?_)
    | fail_if_no_progress (with_reducible refine Reads.upd ?_ rfl rfl rfl) | split
    | with_reducible refine Reads.ofFst ?_ (by assumption) | with_reducible refine Reads.ofSnd ?_ (by assumption)
    | (clear_value *; split)

theorem reads_poolWrite {a : Nat} {b : Bytes} (h0 : Reads ts at_ v s) :
    Reads ts at_ v (poolWrite a b s) := by
  unfold poolWrite
  repeat' first
    | with_reducible assumption | with_reducible refine Reads.ite (fun _ => ?_) (fun _ => ?_)
    | (intro x; with_reducible refine Reads.gen (ts := ts) (at_ := at_) (v := v) (x := x) ?_ ?_; (on_goal 1 => unfold x); (on_goal 2 => (intro _; clear_value x)))
    | (intro x; (have t : Nat := x; clear t); clear_value x) | (intro x) | lift_lets -underBinder
    | with_reducible refine reads_forEach (fun _ _ _ => ?_) ?_ | with_reducible refine reads_setPoolPage ?_
    | fail_if_no_progress (with_reducible refine Reads.upd ?_ rfl rfl rfl) | split
    | with_reducible refine Reads.ofFst ?_ (by assumption) | with_reducible refine Reads.ofSnd ?_ (by assumption)
    | (clear_value *; split)

theorem reads_storeTx {key : Nat} {f : TxFrame} {b : Bytes} (h0 : Reads ts at_ v s) :
    Reads ts at_ v (storeTx key f b s) := by
  unfold storeTx
  repeat' first
    | with_reducible assumption | with_reducible refine Reads.ite (fun _ => ?_) (fun _ => ?_)
    | with_reducible refine reads_bridgeSched ?_ | with_reducible refine reads_setTxFrame ?_
    | with_reducible refine reads_poolWrite ?_
    | fail_if_no_progress (with_reducible refine Reads.upd ?_ rfl rfl rfl) | split
    | with_reducible refine Reads.ofFst ?_ (by assumption) | with_reducible refine Reads.ofSnd ?_ (by assumption)
    | (clear_value *; split)

theorem reads_setCur {port : Nat} {c : RxCur} (h0 : Reads ts at_ v s) :
    Reads ts at_ v (setCur port c s) := by
  unfold setCur
  repeat' first
    | with_reducible assumption | with_reducible refine Reads.ite (fun _ => ?_) (fun _ => ?_)
    | fail_if_no_progress (with_reducible refine Reads.upd ?_ rfl rfl rfl) | split
    | with_reducible refine Reads.ofFst ?_ (by assumption) | with_reducible refine Reads.ofSnd ?_ (by assumption)
    | (clear_value *; split)

theorem reads_discardRx {port len : Nat} (h0 : Reads ts at_ v s) :
    Reads ts at_ v (discardRx port len s) := by
  unfold discardRx
  repeat' first
    | with_reducible assumption | with_reducible refine Reads.ite (fun _ => ?_) (fun _ => ?_)
    | with_reducible refine reads_setCur ?_
    | fail_if_no_progress (with_reducible refine Reads.upd ?_ rfl rfl rfl) | split
    | with_reducible refine Reads.ofFst ?_ (by assumption) | with_reducible refine Reads.ofSnd ?_ (by assumption)
    | (clear_value *; split)

theorem reads_overlenCut {port key : Nat} {f : TxFrame} {body : Bytes} (h0 : Reads ts at_ v s) :
    Reads ts at_ v (overlenCut port key f body s) := by
  unfold overlenCut
  repeat' first
    | exact schedFlowCtr_apart _
    | exact schedCtr_apart
    | with_reducible assumption | with_reducible refine Reads.ite (fun _ => ?_) (fun _ => ?_)
    | (intro x; with_reducible refine Reads.gen (ts := ts) (at_ := at_) (v := v) (x := x) ?_ ?_; (on_goal 1 => unfold x); (on_goal 2 => (intro _; clear_value x)))
    | (intro x; (have t : Nat := x; clear t); clear_value x) | (intro x) | lift_lets -underBinder
    | with_reducible refine reads_inc ?_ ?_ | with_reducible refine reads_storeTx ?_
    | with_reducible refine reads_discardRx ?_
    | fail_if_no_progress (with_reducible refine Reads.upd ?_ rfl rfl rfl) | split
    | with_reducible refine Reads.ofFst ?_ (by assumption) | with_reducible refine Reads.ofSnd ?_ (by assumption)
    | (clear_value *; split)

theorem reads_schedTail {port : Nat} {body : Bytes} {tail : Tail} {fec : Fec} (h0 : Reads ts at_ v s) :
    Reads ts at_ v (schedTail port body tail fec s) := by
  unfold schedTail
  repeat' first
    | exact lineCtr_apart _ (by split <;> decide)
    | with_reducible assumption | with_reducible refine Reads.ite (fun _ => ?_) (fun _ => ?_)
    | (intro x; with_reducible refine Reads.gen (ts := ts) (at_ := at_) (v := v) (x := x) ?_ ?_; (on_goal 1 => unfold x); (on_goal 2 => (intro _; clear_value x)))
    | (intro x; (have t : Nat := x; clear t); clear_value x) | (intro x) | lift_lets -underBinder
    | with_reducible refine reads_inc ?_ ?_ | with_reducible refine reads_countRx ?_
    | with_reducible refine reads_clearCur ?_ | with_reducible refine reads_setTxFrame ?_
    | with_reducible refine reads_storeTx ?_ | with_reducible refine reads_overlenCut ?_
    | fail_if_no_progress (with_reducible refine Reads.upd ?_ rfl rfl rfl) | split
    | with_reducible refine Reads.ofFst ?_ (by assumption) | with_reducible refine Reads.ofSnd ?_ (by assumption)
    | (clear_value *; split)

theorem reads_linkAndSched {port : Nat} {up lf rf : Bool} {fec : Fec} (h0 : Reads ts at_ v s) :
    Reads ts at_ v (linkAndSched port up lf rf fec s) := by
  unfold linkAndSched
  repeat' first
    | with_reducible assumption | with_reducible refine Reads.ite (fun _ => ?_) (fun _ => ?_)
    | with_reducible refine reads_linkChange ?_ | with_reducible refine reads_tailAndAfter (fun _ _ => ?_) ?_
    | with_reducible refine reads_schedTail ?_
    | fail_if_no_progress (with_reducible refine Reads.upd ?_ rfl rfl rfl) | split
    | with_reducible refine Reads.ofFst ?_ (by assumption) | with_reducible refine Reads.ofSnd ?_ (by assumption)
    | (clear_value *; split)

/-! ### Records and interrupts -/

theorem reads_raiseBlock {src blk : Nat} (h0 : Reads ts at_ v s) : Reads ts at_ v (raiseBlock src blk s) :=
  reads_forEach (fun _ _ h => reads_doIf (fun _ h => reads_raiseSrc h) h) h0

theorem reads_raiseFatal {src : Nat} (h0 : Reads ts at_ v s) : Reads ts at_ v (raiseFatal src s) := by
  refine reads_forEach (fun p u h => ?_) h0
  split
  · exact reads_sendMsi (Reads.upd (reads_wr (intRegs_apart p).1 h) rfl rfl rfl)
  · exact h

theorem reads_twinTo {st : Nat} (h0 : Reads ts at_ v s) : Reads ts at_ v (twinTo st s) :=
  reads_doIf (fun _ h => reads_raiseBlock h) (reads_setFld (Reads.upd h0 rfl rfl rfl) (by decide))

theorem reads_twinFall (h0 : Reads ts at_ v s) : Reads ts at_ v (twinFall s) := by
  unfold twinFall
  split
  · exact reads_twinTo h0
  · exact h0

theorem erqRegs_apart (n i : Nat) :
    R.erqStat n ≠ R.pwrThermStat ∧ R.erqDropped n ≠ R.pwrThermStat ∧ R.erqFatal n i ≠ R.pwrThermStat := by
  simp only [R.erqStat, R.erqDropped, R.erqFatal, R.pwrThermStat]
  omega

theorem reads_showFatal {n : Nat} {r : ErqRec} (h0 : Reads ts at_ v s) : Reads ts at_ v (showFatal n r s) :=
  reads_doIf (fun _ h => reads_forEach (fun i _ h => reads_wr (erqRegs_apart n i).2.2 h)
    (reads_setFld h (erqRegs_apart n 0).1)) h0

theorem reads_setErq {d : Die} {q : List ErqRec} (h0 : Reads ts at_ v s) : Reads ts at_ v (setErq d q s) := by
  cases d <;> exact h0.upd rfl rfl rfl

theorem reads_queueRec {d : Die} {r : ErqRec} (h0 : Reads ts at_ v s) : Reads ts at_ v (queueRec d r s) := by
  unfold queueRec
  split
  · exact reads_setErq h0
  · split
    · exact reads_setErq h0
    · exact reads_inc (reads_setFld h0 (erqRegs_apart _ 0).1) (erqRegs_apart _ 0).2.1

theorem reads_report {d : Die} {cls inst : Nat} {sev : Sev} {code : Nat} {items : List (Nat × Nat)} (h0 : Reads ts at_ v s) :
    Reads ts at_ v (report d cls inst sev code items s) := by
  by_cases hsev : sev = .f
  · rw [hsev, report_fatal_eq]
    exact reads_doIf (fun _ h => reads_twinFall h) (reads_raiseFatal (reads_queueRec (reads_showFatal h0)))
  · obtain ⟨c, hc⟩ := report_eq_of_not_fatal (s := s) hsev d cls inst code items
    rw [hc]
    exact reads_doIf (fun _ h => reads_raiseBlock h) (reads_queueRec h0)

/-! ### The temperatures are judged -/

theorem pwrRailStat_apart {d : Nat} (hd : d < 2) : R.pwrRailStat d ≠ R.pwrThermStat := by
  simp only [R.pwrRailStat, R.pwrThermStat]
  omega

theorem reads_requestRail {d mv : Nat} (hd : d < 2) (h0 : Reads ts at_ v s) : Reads ts at_ v (requestRail d mv s) :=
  reads_emit _ (Reads.upd (reads_setFld h0 (pwrRailStat_apart hd)) rfl rfl rfl)

theorem reads_trip {d : Nat} (h0 : Reads ts at_ v s) : Reads ts at_ v (trip d s) := by
  have hlinks : Reads ts at_ v (forEach (List.range 96) (fun n s => doIf (s.linkUp n) (linkAndSched n false false false noFec) s)
      (report .f 0x0C d .f 0x005 [(d, 1), (((s.dieTemp d) % 65536).toNat, 2)] s)) :=
    reads_forEach (fun _ _ h => reads_doIf (fun _ h => reads_linkAndSched h) h) (reads_report h0)
  exact reads_requestRail (by decide) (reads_requestRail (by decide) (Reads.upd hlinks rfl rfl rfl))

/-- A flag of the sensors other than STALE is written. -/
theorem reads_thermField {f : Fld} {n : Nat} (hf : FldOk f) (hlow : f.1 < 2) (h0 : Reads ts at_ v s) :
    Reads ts at_ v (s.setFld R.pwrThermStat f n) :=
  ⟨h0.temps, h0.time, (State.fld_setFld_apart s _ _ _ _ _ hf (by decide) (.inl hlow)).trans h0.stale⟩

theorem reads_thermFlag {f : Fld} {thr : Nat} {sev : Sev} {code : Nat} (hf : FldOk f) (hlow : f.1 < 2)
    (h0 : Reads ts at_ v s) : Reads ts at_ v (thermFlag f thr sev code s) := by
  unfold thermFlag
  split
  · exact reads_doIf (fun _ h => reads_thermField hf hlow h) h0
  · split
    · exact h0
    · exact reads_doIf (fun _ h => reads_raiseBlock h)
        (reads_thermField hf hlow (reads_forEach (fun _ _ h => reads_report h) h0))

theorem reads_thermJudge (h0 : Reads ts at_ v s) : Reads ts at_ v (thermJudge s) := by
  have hflags : ∀ w t, Reads ts at_ v (thermFlag F.pwrThermStatThrottle t .k 0x004 (thermFlag F.pwrThermStatWarn w .c 0x003 s)) :=
    fun w t => reads_thermFlag (by decide) (by decide) (reads_thermFlag (by decide) (by decide) h0)
  unfold thermJudge
  split
  · exact h0
  · dsimp only
    split
    · exact hflags _ _
    · split
      · exact reads_trip (hflags _ _)
      · exact hflags _ _

/-- The highest temperatures are shown beside the flags. -/
theorem reads_showTemps {f t : Int} (h0 : Reads ts at_ v s) : Reads ts at_ v (showTemps f t s) := by
  have hstale : (showTemps f t s).fld R.pwrThermStat F.pwrThermStatStale = s.fld R.pwrThermStat F.pwrThermStatStale :=
    (State.fld_setFld_apart _ _ _ _ _ _ (by decide) (by decide) (by decide)).trans
      (State.fld_setFld_apart _ _ _ _ _ _ (by decide) (by decide) (by decide))
  exact ⟨h0.temps, h0.time, hstale.trans h0.stale⟩

theorem thermalStale_sets (hat : s.pwr.readAt + msT 20 ≤ s.now) (hno : s.flag R.pwrThermStat F.pwrThermStatStale = false) :
    Reads s.pwr.temps s.pwr.readAt 1 (thermalStale s) := by
  have hc : (s.pwr.readAt + msT 20 ≤ s.now && !s.flag R.pwrThermStat F.pwrThermStatStale) = true := by
    rw [hno, decide_eq_true hat]
    rfl
  rw [thermalStale, if_pos hc]
  exact reads_thermJudge (reads_showTemps ⟨rfl, rfl, State.fld_setFld_same s (by decide) (by decide)⟩)

theorem markSensor_now {temps : List Int} (i : Nat) : (markSensor temps i s).now = s.now := by
  obtain ⟨_, _, _, h⟩ := (signals_setFld (s := s) R.pwrSensorBad F.pwrSensorBadBad
    (s.fld R.pwrSensorBad F.pwrSensorBadBad ||| 2 ^ i)).trans (signals_report (sev := .k) (by decide) .f 0x0C (0x100 + i) 0x002
      [(i, 1), ((temps.getD i 0 % 65536).toNat, 2)])
  rw [markSensor, h]

theorem thermalRead_reads {raw : List Int} (hs : s.boot.restarting = false) :
    Reads ((List.range 32).map (fun i => raw.getD i 0 + s.sensorOffset i)) s.now 0 (thermalRead raw s) := by
  unfold thermalRead
  rw [hs, if_neg Bool.false_ne_true]
  dsimp only
  refine reads_thermJudge (reads_showTemps ⟨rfl, ?_, State.fld_setFld_same (v := 0) _ (by decide) (by decide)⟩)
  exact forEach_keeps (·.now) (fun i _ => markSensor_now i) _

end Sys2Proof.Machine
end

section
/-! SUPPORT. Rails are read back, requested and judged at a PTP boundary (R466, R467, R472, R473, R478, R479). -/

namespace Sys2Proof.Machine

variable {s : State} {d mv : Nat}

/-! ### Rails -/

theorem pwrRailStat_pwr (hd : d < 2) : PwrReg (R.pwrRailStat d) := by
  simp only [PwrReg, R.pwrRailStat, R.pwrCtl, R.twinCfg]
  omega

theorem setRail_rail (r : RailSt) (hd : d < s.pwr.rails.length) : (setRail d r s).rail d = r := by
  simp [State.rail, setRail, hd]

theorem setRail_rd (r : RailSt) (off : Nat) : (setRail d r s).rd off = s.rd off := rfl

/-- A read-back is recorded: the time of the next and those still due. -/
def readRail (d : Nat) (s : State) : RailSt :=
  { s.rail d with
    due := (s.rail d).due.filter (fun t => decide (s.now < t))
    readAt := if (s.rail d).readAt ≤ s.now then s.now + msT 1 else (s.rail d).readAt }

/-- A rail whose request is over. -/
def restRail (d : Nat) (s : State) : RailSt := { readRail d s with tries := 0, open_ := false }

/-- The voltage that was read. -/
def railShown (d mv : Nat) (s : State) : State := s.setFld (R.pwrRailStat d) F.pwrRailStatVreadMv mv

theorem railShown_set : (railShown d mv s).fld (R.pwrRailStat d) F.pwrRailStatVsetMv = s.fld (R.pwrRailStat d) F.pwrRailStatVsetMv :=
  State.fld_setFld_apart _ _ _ _ _ _ (by decide) (by decide) (by decide)

/-- What a read-back that is due does where a request is open. -/
theorem avsReadback_open (hdue : s.readDue d = true) (hopen : (s.rail d).open_ = true) : avsReadback d mv s =
    if mvNear mv (s.fld (R.pwrRailStat d) F.pwrRailStatVsetMv) then
      setRail d (restRail d s) ((railShown d mv s).setFld (R.pwrRailStat d) F.pwrRailStatAvsFault 0)
    else if !(readRail d s).due.isEmpty then setRail d (readRail d s) (railShown d mv s)
    else if (s.rail d).tries < 3 then
      askRail d (s.fld (R.pwrRailStat d) F.pwrRailStatVsetMv) ((s.rail d).tries + 1)
        (setRail d (readRail d s) ((railShown d mv s).inc (R.pwrCtr 2)))
    else pwrIrq (report .f 0x0C d .k 0x001 [(d, 1), (s.fld (R.pwrRailStat d) F.pwrRailStatVsetMv, 2)]
      (setRail d (restRail d s) ((railShown d mv s).setFld (R.pwrRailStat d) F.pwrRailStatAvsFault 1))) := by
  have hset : (s.setFld (R.pwrRailStat d) F.pwrRailStatVreadMv mv).fld (R.pwrRailStat d) F.pwrRailStatVsetMv =
    s.fld (R.pwrRailStat d) F.pwrRailStatVsetMv := railShown_set
  unfold avsReadback
  rw [hdue]
  dsimp only
  rw [hset, if_neg (by decide), if_neg (by simp [hopen])]
  rfl

theorem mvNear_of (h1 : mv ≤ d + 10) (h2 : d ≤ mv + 10) : mvNear mv d = true := by simp [mvNear, h1, h2]

theorem not_mvNear_of (h : d + 10 < mv ∨ mv + 10 < d) : mvNear mv d = false := by
  simp only [mvNear, Bool.and_eq_false_iff, decide_eq_false_iff_not]
  omega

theorem avsReadback_confirmed (hd : d < 2) (hl : s.pwr.rails.length = 2) :
    let t := setRail d (restRail d s) ((railShown d mv s).setFld (R.pwrRailStat d) F.pwrRailStatAvsFault 0)
    t.flag (R.pwrRailStat d) F.pwrRailStatAvsFault = false ∧ t.rail d = restRail d s ∧ t.outs = s.outs :=
  ⟨State.flag_eq_of_fld (v := 0) (State.fld_setFld_same _ (by decide) (by decide)), setRail_rail _ (by show d < s.pwr.rails.length; omega), rfl⟩

theorem askRail_rail {v n : Nat} (hd : d < s.pwr.rails.length) : (askRail d v n s).rail d =
    { s.rail d with tries := n, due := (s.rail d).due ++ [s.now + usT 200], open_ := true } := setRail_rail _ hd

/-- A request that the last read-back due does not confirm is repeated. -/
theorem avsReadback_repeated (hd : d < 2) (hl : s.pwr.rails.length = 2) (n v : Nat) (hdue : (readRail d s).due = []) :
    let t := askRail d v n (setRail d (readRail d s) ((railShown d mv s).inc (R.pwrCtr 2)))
    t.outs = .avs d v :: s.outs ∧
      t.rail d = { tries := n, readAt := (readRail d s).readAt, due := [s.now + usT 200], open_ := true } ∧
      t.rd (R.pwrCtr 2) = s.rd (R.pwrCtr 2) + 1 := by
  have hlen : d < s.pwr.rails.length := by omega
  have hne : R.pwrCtr 2 ≠ R.pwrRailStat d := by simp only [R.pwrCtr, R.pwrRailStat]; omega
  refine ⟨rfl, ?_, ?_⟩
  · rw [askRail_rail (by simpa [setRail] using (show d < (railShown d mv s).pwr.rails.length from hlen)), setRail_rail _ (by exact hlen), hdue]
    rfl
  · exact (State.rd_setFld_ne _ _ _ hne).trans ((State.rd_inc_same _ _).trans
      (congrArg (· + 1) (State.rd_setFld_ne _ _ _ hne)))

/-- A request that was repeated in vain puts its rail in AVS_FAULT. -/
theorem avsReadback_faulted (hd : d < 2) (hl : s.pwr.rails.length = 2) {items : List (Nat × Nat)} :
    let t := pwrIrq (report .f 0x0C d .k 0x001 items
      (setRail d (restRail d s) ((railShown d mv s).setFld (R.pwrRailStat d) F.pwrRailStatAvsFault 1)))
    t.flag (R.pwrRailStat d) F.pwrRailStatAvsFault = true ∧ t.rail d = restRail d s := by
  have hreg := pwrRailStat_pwr hd
  refine ⟨?_, ?_⟩
  · refine State.flag_eq_of_fld (v := 1) ?_
    rw [State.fld, hreg.pwrIrq, hreg.report (by decide)]
    exact State.fld_setFld_same _ (by decide) (by decide)
  · obtain ⟨_, _, _, h⟩ := (signals_report (sev := .k) (by decide) .f 0x0C d 0x001 items (s := setRail d (restRail d s)
      ((railShown d mv s).setFld (R.pwrRailStat d) F.pwrRailStatAvsFault 1))).trans
        (.doIf (fun _ => signals_raiseBlock 15 14) _)
    refine (congrArg (fun u : State => u.rail d) h).trans ?_
    exact setRail_rail _ (by show d < s.pwr.rails.length; omega)

/-- A read-back that is not the last one due asks for nothing. -/
theorem avsReadback_waits (hd : d < 2) (hl : s.pwr.rails.length = 2) :
    (setRail d (readRail d s) (railShown d mv s)).outs = s.outs ∧ (setRail d (readRail d s) (railShown d mv s)).rail d = readRail d s :=
  ⟨rfl, setRail_rail _ (by show d < s.pwr.rails.length; omega)⟩

/-! ### A PTP boundary -/

/-- One rail is requested at its greatest voltage. -/
def railTurn (d : Nat) (s : State) : State :=
  let set := s.fld (R.pwrRailStat d) F.pwrRailStatVsetMv
  let s :=
    if set < s.vmax d then { requestRail d (s.vmax d) s with pwr := { (requestRail d (s.vmax d) s).pwr with raised := 0 } }
    else if s.vmax d < set && !s.flag (R.pwrRailStat d) F.pwrRailStatAvsFault then
      { requestRail d (s.vmax d) s with pwr := { (requestRail d (s.vmax d) s).pwr with lowered := 0 } }
    else s
  s.setFld (R.pwrRailStat d) F.pwrRailStatReason 8

theorem railTop_eq : railTop s = railTurn 1 (railTurn 0 s) := rfl

theorem railTurn_reason : (railTurn d s).fld (R.pwrRailStat d) F.pwrRailStatReason = 8 :=
  State.fld_setFld_same _ (by decide) (by decide)

/-- The turn of a rail writes the register of that rail alone. -/
theorem railTurn_rd {off : Nat} (h : off ≠ R.pwrRailStat d) : (railTurn d s).rd off = s.rd off := by
  unfold railTurn
  dsimp only
  rw [State.rd_setFld_ne _ _ _ h]
  split
  · exact State.rd_setFld_ne _ _ _ h
  · split
    · exact State.rd_setFld_ne _ _ _ h
    · rfl

theorem railTop_reason (hd : d < 2) : (railTop s).fld (R.pwrRailStat d) F.pwrRailStatReason = 8 := by
  rw [railTop_eq]
  obtain rfl | rfl : d = 0 ∨ d = 1 := by omega
  · rw [State.fld, railTurn_rd (by decide)]
    exact railTurn_reason
  · exact railTurn_reason

/-- Without a temperature nothing is judged. -/
theorem thermJudge_idle (ht : s.pwr.temps = []) (hs : s.flag R.pwrThermStat F.pwrThermStatStale = false) : thermJudge s = s := by
  rw [thermJudge, ht, hs]
  rfl

theorem throttled_idle (h : s.flag R.pwrThermStat F.pwrThermStatThrottle = false) : throttled s = s := by
  rw [throttled, h]
  rfl

/-- The power manager at a PTP boundary. -/
def atBoundary (s : State) : State :=
  { s with pwr := { s.pwr with nextMf := s.ptpBoundary (s.now + 1)
                               pmOn := s.flag R.pwrCtl F.pwrCtlPmEn && !s.pwr.absent
                               raised := s.pwr.raised + 1
                               lowered := s.pwr.lowered + 1 } }

/-- Without new curves a boundary leaves those in force. -/
theorem atBoundary_curves (h : s.pwr.newCrv = []) : atBoundary s =
    { s with pwr := { s.pwr with
      nextMf := s.ptpBoundary (s.now + 1)
      curves := if s.pwr.newCrv.isEmpty then s.pwr.curves else s.pwr.newCrv
      newCrv := []
      pmOn := s.flag R.pwrCtl F.pwrCtlPmEn && !s.pwr.absent
      raised := s.pwr.raised + 1
      lowered := s.pwr.lowered + 1 } } := by
  unfold atBoundary
  dsimp only
  rw [h]
  rfl

theorem ptpMfBoundary_evaluates {a b : Nat} (hmf : s.pwr.nextMf ≤ s.now) (hboot : s.bootStateOf ≠ 0) (ht : s.pwr.temps = [])
    (hs : s.flag R.pwrThermStat F.pwrThermStatStale = false) (hth : s.flag R.pwrThermStat F.pwrThermStatThrottle = false)
    (htr : s.pwr.tripped = false) (hcrv : s.pwr.newCrv = []) : ptpMfBoundary a b s =
      if s.flag R.pwrCtl F.pwrCtlPmEn && !s.pwr.absent then
        railEval ((atBoundary s).packetRate ((atBoundary s).measured s.pwr.passIn a))
          ((atBoundary s).packetRate ((atBoundary s).measured s.pwr.passOut b)) (atBoundary s)
      else railTop (atBoundary s) := by
  have hdue : ¬ (s.now < s.pwr.nextMf ∨ s.bootStateOf = 0) := fun h => h.elim (Nat.not_lt.2 hmf) hboot
  have hjudge : thermJudge (throttled (atBoundary s)) = atBoundary s := by
    rw [throttled_idle (s := atBoundary s) hth, thermJudge_idle (s := atBoundary s) ht hs]
  rw [ptpMfBoundary, if_neg (by simpa using hdue)]
  dsimp only
  rw [← atBoundary_curves hcrv, hjudge, if_neg (show ¬ (atBoundary s).pwr.tripped = true from by simp [atBoundary, htr])]
  rfl

theorem exec_ptpMfBoundary {a b : Nat} (hmf : s.pwr.nextMf ≤ s.now) : exec (.ptpMfBoundary a b) s =
    .next (doIf (!s.framerRun) microBoundary (ptpMfBoundary a b s)) := by
  show guardWf true (doIf (!s.framerRun && decide (s.pwr.nextMf ≤ s.now)) microBoundary (ptpMfBoundary a b s)) = _
  rw [decide_eq_true hmf, Bool.and_true]
  rfl

/-- Settles O37: a read-back by what it finds of the request, a reading and its absence by the flags that `Reads` follows through
the judgement, and a PTP boundary by the power manager's state at it. -/
theorem railsAndSensors : Obligations.RailsAndSensors := by
  intro s d mv raw hd hmv hl
  refine ⟨fun hdue hopen => ?_, fun hlen hraw hrun => ?_, fun hat hno => ?_, fun a b hmf hboot ht hs hth htr hcrv => ?_⟩
  · have hexec : exec (.avsReadback d mv) s = .next (avsReadback d mv s) := by
      show guardWf _ _ = _
      rw [guardWf, decide_eq_true hd, decide_eq_true hmv]
      rfl
    rw [hexec, avsReadback_open hdue hopen]
    have hrest : readRail d s = { readRail d s with open_ := true } := by rw [← hopen]; rfl
    refine ⟨fun h1 h2 => ?_, fun hfar => ⟨fun hleft => ?_, fun hleft hn => ?_, fun hleft hn => ?_⟩⟩
    · rw [if_pos (mvNear_of h1 h2)]
      obtain ⟨hf, hr, ho⟩ := avsReadback_confirmed (mv := mv) hd hl
      exact ⟨_, rfl, hf, hr, ho⟩
    · have hne : (!(readRail d s).due.isEmpty) = true := by
        rw [Bool.not_eq_true', List.isEmpty_eq_false_iff]
        exact hleft
      rw [if_neg (by rw [not_mvNear_of hfar]; decide), if_pos hne]
      obtain ⟨ho, hr⟩ := avsReadback_waits (mv := mv) hd hl
      exact ⟨_, rfl, ho, hr⟩
    · have hnil : (readRail d s).due = [] := hleft
      rw [if_neg (by rw [not_mvNear_of hfar]; decide), if_neg (by rw [hnil]; decide), if_pos hn]
      obtain ⟨ho, hr, hc⟩ := avsReadback_repeated (mv := mv) hd hl ((s.rail d).tries + 1)
        (s.fld (R.pwrRailStat d) F.pwrRailStatVsetMv) hnil
      exact ⟨_, rfl, ho, hr, hc⟩
    · have hnil : (readRail d s).due = [] := hleft
      rw [if_neg (by rw [not_mvNear_of hfar]; decide), if_neg (by rw [hnil]; decide), if_neg (by omega)]
      obtain ⟨hf, hr⟩ := avsReadback_faulted (mv := mv) hd hl (items := [(d, 1), (s.fld (R.pwrRailStat d) F.pwrRailStatVsetMv, 2)])
      refine ⟨_, rfl, hf, hr.trans ?_⟩
      rw [← hleft]
      rfl
  · have hread := thermalRead_reads (raw := raw) hrun
    have hexec : exec (.thermalRead raw) s = .next (thermalRead raw s) := by
      show guardWf _ _ = _
      rw [guardWf, hlen, hraw]
      rfl
    exact ⟨_, hexec, hread.time, hread.temps, State.flag_eq_of_fld hread.stale⟩
  · exact ⟨_, rfl, State.flag_eq_of_fld (thermalStale_sets hat hno).stale⟩
  · refine ⟨fun hoff => ⟨?_, fun e he => railTop_reason he⟩, fun hon => ?_⟩
    · rw [exec_ptpMfBoundary hmf, ptpMfBoundary_evaluates hmf hboot ht hs hth htr hcrv, if_neg (by rw [hoff]; decide)]
      rfl
    · rw [exec_ptpMfBoundary hmf, ptpMfBoundary_evaluates hmf hboot ht hs hth htr hcrv, if_pos hon]
      rfl

end Sys2Proof.Machine
end

section
/-! SUPPORT. O38: the twin's commands, its STATUS records and the health pin (R497, R504, R508, R512, R513). -/

namespace Sys2Proof.Machine

variable {s : State} {fn : Fn} {p op off n m : Nat}

/-! ### What a twin's record in the error queue leaves -/

/-- The registers of the twin controller. -/
def TwinReg (off : Nat) : Prop := R.twinCfg ≤ off ∧ off < R.erqStat 0

theorem TwinReg.ge (h : TwinReg off) : R.plateCmd ≤ off := Nat.le_trans (by decide) h.1

theorem TwinReg.irq (h : TwinReg off) : (twinIrq s).rd off = s.rd off := doIf_rd (raiseBlock_rd (not_intReg_of_ge h.ge)) s

theorem TwinReg.log {code : Nat} {items : List (Nat × Nat)} (h : TwinReg off) : (twinLog code items s).rd off = s.rd off :=
  h.irq.trans (report_rd_of_unit (by decide) h.ge h.2)

theorem TwinReg.complete {code detail : Nat} (h : TwinReg off) (hne : off ≠ R.twinStatus) :
    (complete .twin code detail s).rd off = s.rd off :=
  (doIf_rd (raiseBlock_rd (not_intReg_of_ge h.ge)) _).trans (State.rd_wr_ne _ _ hne)

theorem twinComplete_code {code detail : Nat} (h : code < 256) : (complete .twin code detail s).fld R.twinStatus stCode = code :=
  complete_code (i := .twin) (fun _ => doIf_rd (raiseBlock_rd (not_intReg_of_ge (by decide))) _) h

theorem twinState_reg : TwinReg R.twinState := ⟨by decide, by decide⟩

theorem signals_twinLog (code : Nat) (items : List (Nat × Nat)) : Signals s (twinLog code items s) :=
  (signals_report (by decide) ..).trans (.doIf (fun _ => signals_raiseBlock 16 15) _)

theorem twinLog_twin {code : Nat} {items : List (Nat × Nat)} : (twinLog code items s).twin = s.twin := by
  obtain ⟨_, _, _, h⟩ := signals_twinLog (s := s) code items
  rw [h]

/-- A counter of the twin controller is not TWIN_STATE. -/
theorem twinState_inc {i : Nat} {f : Fld} : (s.inc (R.twinCtr i)).fld R.twinState f = s.fld R.twinState f := by
  have hne : R.twinState ≠ R.twinCtr i := by
    simp only [R.twinState, R.twinCtr]
    omega
  exact congrArg (getF · f) (State.rd_inc_ne _ hne)

/-! ### A change of role -/

/-- A change of role leaves the other fields of TWIN_STATE, the time of the last STATUS record and what is awaited. -/
structure RoleMoves (s t : State) : Prop where
  fld : ∀ f : Fld, FldOk f → 2 < f.2 → f.1 < 32 → t.fld R.twinState f = s.fld R.twinState f
  statAt : t.twin.statAt = s.twin.statAt
  waitTo : t.twin.waitTo = s.twin.waitTo

namespace RoleMoves

variable {t u : State}

theorem refl : RoleMoves s s := ⟨fun _ _ _ _ => rfl, rfl, rfl⟩

theorem trans (h : RoleMoves s t) (h' : RoleMoves t u) : RoleMoves s u :=
  ⟨fun f hf hl hh => (h'.fld f hf hl hh).trans (h.fld f hf hl hh), h'.statAt.trans h.statAt, h'.waitTo.trans h.waitTo⟩

theorem log (code : Nat) (items : List (Nat × Nat)) : RoleMoves s (twinLog code items s) :=
  ⟨fun f _ _ _ => by rw [State.fld, twinState_reg.log]; rfl, by rw [twinLog_twin], by rw [twinLog_twin]⟩

theorem role : RoleMoves s (twinTo n s) := by
  have htwin (c : Bool) (u : State) : (doIf c (raiseBlock 16 15) u).twin = u.twin := by
    obtain ⟨_, _, _, h⟩ := Signals.doIf (fun _ => signals_raiseBlock 16 15) (s := u) c
    rw [h]
  unfold twinTo
  dsimp only
  refine ⟨fun f hf hl hh => ?_, ?_, ?_⟩
  · rw [State.fld, doIf_rd (raiseBlock_rd (not_intReg_of_ge (by decide)))]
    exact State.fld_setFld_apart _ _ _ _ _ _ (by decide) hf (.inl hl)
  · rw [htwin]
    rfl
  · rw [htwin]
    rfl

theorem enter : RoleMoves s (enterActive n s) := by
  have hset : RoleMoves s (s.setFld R.twinState F.twinStateActiveSince n) :=
    ⟨fun f hf _ hh => State.fld_setFld_apart _ _ _ _ _ _ (by decide) hf (.inr hh), rfl, rfl⟩
  have hinc (u : State) : RoleMoves u (u.inc (R.twinCtr 3)) :=
    ⟨fun _ _ _ _ => twinState_inc, rfl, rfl⟩
  exact hset.trans (role.trans (hinc _))

theorem change : RoleMoves s (switchover n s) := log ..

end RoleMoves

theorem twinTo_state (hn : n < 8) : (twinTo n s).twinState = n := by
  unfold twinTo
  dsimp only
  rw [State.twinState, State.fld, doIf_rd (raiseBlock_rd (not_intReg_of_ge (by decide)))]
  exact State.fld_setFld_same _ (by decide) hn

theorem twinTo_activeSince : (twinTo n s).activeSince = s.activeSince := by
  unfold twinTo
  dsimp only
  rw [State.activeSince, State.fld, doIf_rd (raiseBlock_rd (not_intReg_of_ge (by decide)))]
  exact State.fld_setFld_apart _ _ _ _ _ _ (by decide) (by decide) (by decide)

theorem enterActive_state : (enterActive n s).twinState = 3 :=
  twinState_inc.trans (twinTo_state (by decide))

theorem enterActive_since (hn : n < 2 ^ 32) : (enterActive n s).activeSince = n :=
  twinState_inc.trans (twinTo_activeSince.trans (State.fld_setFld_same _ (by decide) hn))

theorem mfNum_lt : s.mfNum < 2 ^ 32 := getF_lt (s.rd R.schedMfStat) F.schedMfStatMfNum

theorem switchover_fld {f : Fld} : (switchover n s).fld R.twinState f = s.fld R.twinState f := by
  rw [State.fld, switchover, twinState_reg.log]
  rfl

/-! ### STATUS records -/

theorem statusWait_moves : ∃ w, RoleMoves { s with twin := { s.twin with waitTo := w } } (statusWait s) := by
  unfold statusWait
  split
  · next h => exact ⟨s.twin.waitTo, .refl⟩
  · refine ⟨none, ?_⟩
    dsimp only
    split
    · exact .refl
    · split
      · have hinc (u : State) : RoleMoves u (u.inc (R.twinCtr 6)) :=
          ⟨fun _ _ _ _ => twinState_inc, rfl, rfl⟩
        exact (hinc _).trans (.log ..)
      · exact RoleMoves.enter.trans .change

theorem statusInit_moves : RoleMoves s (statusInit s) := by
  have hinit (x : Option Nat) : RoleMoves s { s with twin := { s.twin with initM := x } } := ⟨fun _ _ _ _ => rfl, rfl, rfl⟩
  unfold statusInit
  split
  · exact .refl
  · split
    · exact (hinit none).trans .role
    · split
      · exact hinit _
      · exact hinit none

/-- Both devices ACTIVE is logged, and the one that yields noted. -/
theorem dualActive_moves : RoleMoves s (dualActive s) := by
  have hyield (y : Bool) : RoleMoves s { s with twin := { s.twin with yield_ := y } } := ⟨fun _ _ _ _ => rfl, rfl, rfl⟩
  exact (hyield _).trans (.log ..)

/-- A STATUS record that is accepted brings the link up. -/
theorem twinStatus_up {l key : Nat} {r : Bytes} : (twinStatus l key r s).twinLinkUp = true ∧
    (twinStatus l key r s).twin.statAt = some s.now ∧ (twinStatus l key r s).mateState = byteAt 1 r % 8 := by
  unfold twinStatus
  extract_lets was u o v w
  have hw : RoleMoves v w := by
    show RoleMoves v (doIf _ dualActive v)
    cases (!was && v.twinState == 3 && v.mateState == 3)
    · exact .refl
    · exact dualActive_moves
  obtain ⟨x, hx⟩ := statusWait_moves (s := w)
  have hfld (f : Fld) (hf : FldOk f) (hl : 2 < f.2) (hh : f.1 < 32) :
      (statusInit (statusWait w)).fld R.twinState f = v.fld R.twinState f :=
    (statusInit_moves.fld f hf hl hh).trans ((hx.fld f hf hl hh).trans (hw.fld f hf hl hh))
  have hup : v.fld R.twinState F.twinStateLinkUp = 1 := State.fld_setFld_same _ (by decide) (by decide)
  have hmate : v.fld R.twinState F.twinStateMateState = byteAt 1 r % 8 :=
    (State.fld_setFld_apart _ _ _ _ _ _ (by decide) (by decide) (by decide)).trans
      (State.fld_setFld_same _ (by decide) (Nat.mod_lt _ (by decide)))
  refine ⟨State.flag_eq_of_fld ((hfld _ (by decide) (by decide) (by decide)).trans hup), ?_,
    (hfld _ (by decide) (by decide) (by decide)).trans hmate⟩
  exact statusInit_moves.statAt.trans (hx.statAt.trans hw.statAt)

theorem twinRecord_status {l : Nat} {r : Bytes} (h : byteAt 0 r = 1) : twinRecord l r s =
    if s.statusCopy l (256 * beAt 4 4 r + (s.lane l).fn) then s else twinStatus l (256 * beAt 4 4 r + (s.lane l).fn) r s := by
  unfold twinRecord
  rw [h]
  rfl

/-- A cell of TYPE 3 on a clean twin lane hands its record on. -/
theorem twinReceive_record {l : Nat} {c : Bytes} (hlane : s.twinLane l = true) (hsync : s.inSync l = true) (hhec : hecOk c = true)
    (htype : cellType c = 3) (hcrc : pcrcOk c = true) (hclean : s.laneClean l = true) (hst : s.twinState ≠ 0) :
    twinReceive l c s = twinRecord l (slice 16 64 c) s := by
  obtain ⟨hlos, hlof, hais, -⟩ : s.laneFlag l F.fabLaneStatLos = false ∧ s.laneFlag l F.fabLaneStatLof = false ∧
      s.laneFlag l F.fabLaneStatAis = false ∧ s.laneFlag l F.fabLaneStatTim = false := by
    simpa [State.laneClean] using hclean
  have hst' : (s.twinState == 0) = false := beq_false_of_ne hst
  simp [twinReceive, hlane, hsync, hhec, htype, hcrc, hlos, hlof, hais, hst']

theorem exec_twinRecordReceive {l : Nat} {c : Bytes} (hl : l < 120) (hc : c.length = 256) :
    exec (.twinRecordReceive l c) s = .next (twinReceive l c s) := by
  show guardWf _ _ = _
  rw [guardWf, decide_eq_true hl, hc]
  rfl

/-! ### The link and the pin -/

theorem mateLost_fld {f : Fld} (hf : FldOk f) (hh : f.2 > 11 ∨ f.1 < 11) : (mateLost s).fld R.twinState f = s.fld R.twinState f := by
  unfold mateLost
  split
  · rw [State.fld, twinState_reg.log]
    exact State.fld_setFld_apart _ _ _ _ _ _ (by decide) hf hh
  · rfl

theorem mateLost_rd (h : TwinReg off) (hne : off ≠ R.twinState) : (mateLost s).rd off = s.rd off := by
  unfold mateLost
  split
  · exact h.log.trans (State.rd_setFld_ne _ _ _ hne)
  · rfl

theorem twinLinkDown_falls {at_ : Nat} (hat : s.twin.statAt = some at_) (hup : s.twinLinkUp = true) (hlate : 32768 + at_ ≤ s.now) :
    (twinLinkDown s).twinLinkUp = false ∧ (twinLinkDown s).rd (R.twinCtr 5) = s.rd (R.twinCtr 5) + 1 := by
  have hreg : TwinReg (R.twinCtr 5) := ⟨by decide, by decide⟩
  unfold twinLinkDown
  rw [hat]
  dsimp only
  rw [hup, decide_eq_true hlate, if_pos (by decide)]
  refine ⟨State.flag_eq_of_fld (v := 0) ?_, ?_⟩
  · rw [doIf_keeps (fun u : State => u.fld R.twinState F.twinStateLinkUp) (fun _ => mateLost_fld (by decide) (by decide)),
      State.fld, twinState_reg.log]
    exact twinState_inc.trans <| (State.fld_setFld_apart _ _ _ _ _ _ (by decide) (by decide) (by decide)).trans
      (State.fld_setFld_same _ (by decide) (by decide))
  · rw [doIf_rd fun _ => mateLost_rd hreg (by decide), hreg.log, State.rd_inc_same, State.rd_setFld_ne _ _ _ (by decide),
      State.rd_setFld_ne _ _ _ (by decide)]

theorem healthInFall_falls (h : s.flag R.twinState F.twinStatePinIn = true) :
    (healthInFall s).flag R.twinState F.twinStatePinIn = false ∧
      (s.twinState = 2 → s.twinLinkUp = true → (healthInFall s).twin.waitTo = some (16384 + s.now)) := by
  have hpin : (s.setFld R.twinState F.twinStatePinIn 0).fld R.twinState F.twinStatePinIn = 0 :=
    State.fld_setFld_same _ (by decide) (by decide)
  have hst : (s.setFld R.twinState F.twinStatePinIn 0).twinState = s.twinState :=
    State.fld_setFld_apart _ _ _ _ _ _ (by decide) (by decide) (by decide)
  have hup : (s.setFld R.twinState F.twinStatePinIn 0).twinLinkUp = s.twinLinkUp :=
    congrArg (· != 0) (State.fld_setFld_apart _ _ _ _ _ _ (by decide) (by decide) (by decide))
  unfold healthInFall
  rw [if_pos h]
  dsimp only
  rw [hst, hup]
  refine ⟨?_, fun h2 hl => ?_⟩
  · split
    · exact State.flag_eq_of_fld hpin
    · split
      · exact State.flag_eq_of_fld hpin
      · exact State.flag_eq_of_fld ((mateLost_fld (by decide) (by decide)).trans hpin)
  · rw [h2, hl]
    rfl

theorem healthWait_enters {at_ : Nat} (hat : s.twin.waitTo = some at_) (hdue : at_ ≤ s.now) (h2 : s.twinState = 2) :
    (healthWait s).twinState = 3 ∧ (healthWait s).activeSince = s.mfNum ∧ (healthWait s).twin.waitTo = none := by
  unfold healthWait
  rw [hat]
  dsimp only
  rw [if_pos hdue]
  have hst : ({ s with twin := { s.twin with waitTo := none } } : State).twinState = 2 := h2
  rw [if_pos hst]
  refine ⟨switchover_fld.trans enterActive_state, switchover_fld.trans (enterActive_since mfNum_lt), ?_⟩
  exact RoleMoves.change.waitTo.trans RoleMoves.enter.waitTo

/-! ### Commands -/

theorem mfNum_taken_twin : (s.taken fn .twin op p).mfNum = s.mfNum := congrArg (getF · F.schedMfStatMfNum) (taken_rd (by decide))

theorem mfAfter2_taken_twin : (s.taken fn .twin op p).mfAfter2 = s.mfAfter2 := by
  unfold State.mfAfter2
  rw [mfNum_taken_twin]
  rfl

theorem twinState_taken : (s.taken fn .twin op p).twinState = s.twinState := congrArg (getF · F.twinStateState) (taken_rd (by decide))

/-- The multiframe that a SWITCH names. -/
def State.switchMf (s : State) : Nat :=
  let own := mfLater (s.twin.switchM.getD s.mfAfter2) s.mfAfter2
  match s.twin.mateM with
  | none => own
  | some x => if mfReached x s.mfNum then own else mfLater own x

theorem switchMf_taken : (s.taken fn .twin op p).switchMf = s.switchMf := by
  unfold State.switchMf
  rw [mfNum_taken_twin, mfAfter2_taken_twin]
  rfl

theorem twinAct_switch : twinAct 1 s = { s with twin := { s.twin with switchM := some s.switchMf } } := by
  unfold twinAct State.switchMf
  cases h : s.twin.mateM <;> rfl

theorem twinAct_switch_state : (twinAct 1 s).twinState = s.twinState := by
  rw [twinAct_switch]
  rfl

theorem twinAct_force : twinAct 2 s = { s with twin := { s.twin with force := true } } := rfl

/-- What completes a command leaves the role. -/
theorem twinComplete_state {code detail : Nat} : (complete .twin code detail s).twinState = s.twinState :=
  congrArg (getF · F.twinStateState) (twinState_reg.complete (by decide))

theorem exec_twin {i : Instr} (hi : exec i s = guardWf (fnOk fn) (twinIssue fn op s)) (ho : op < 256) (h : s.MayWrite fn p 15)
    (ht : s.Takes .twin) (hc : Passes (twinChecks (s.taken fn .twin op p) op)) :
    exec i s = .next (complete .twin Code.ok 0 (twinAct op (s.taken fn .twin op p))) := by
  rw [hi, twin_takes h ht ho hc, h.1.1]
  rfl

/-- Settles O38: the commands by what `twinAct` does, a STATUS record by `RoleMoves`, which says what no change of role touches. -/
theorem twinsChangeRoles : Obligations.TwinsChangeRoles := by
  intro s fn p l at_ c
  refine ⟨fun h ht => ⟨fun hc => ?_, fun hc => ?_, fun hc => ?_⟩, fun hl hlen hlane hsync hhec htype hcrc hclean _ hst hrec => ?_,
    fun hat hup hlate => ⟨_, rfl, twinLinkDown_falls hat hup hlate⟩, fun hpin => ⟨_, rfl, healthInFall_falls hpin⟩,
    ⟨_, rfl, State.flag_eq_of_fld (v := 1) (State.fld_setFld_same _ (by decide) (by decide)), rfl⟩,
    fun hat hdue h2 => ⟨_, rfl, healthWait_enters hat hdue h2⟩⟩
  · refine ⟨_, exec_twin rfl (by decide) h ht hc, ?_, twinComplete_code (by decide), ?_⟩
    · obtain ⟨_, _, _, hs⟩ := signals_complete (s := twinAct 1 (s.taken fn .twin 1 p)) .twin Code.ok 0
      rw [hs, twinAct_switch, switchMf_taken]
      unfold State.switchMf
      cases s.twin.mateM <;> rfl
    · exact twinComplete_state.trans (twinAct_switch_state.trans twinState_taken)
  · rw [exec_twin (op := 2) rfl (by decide) h ht hc, twinAct_force]
    rfl
  · refine ⟨_, exec_twin rfl (by decide) h ht hc, ?_, twinComplete_code (by decide)⟩
    exact twinComplete_state.trans (twinTo_state (by decide))
  · rw [exec_twinRecordReceive hl hlen, twinReceive_record hlane hsync hhec htype hcrc hclean hst, twinRecord_status hrec]
    exact ⟨fun hcopy => by rw [if_pos hcopy], fun hcopy => ⟨_, by rw [if_neg (by rw [hcopy]; decide)], twinStatus_up⟩⟩

end Sys2Proof.Machine
end

section
/-! SUPPORT. O60: events that are not due, each by the guard that stands before its work (log entry 2). -/

namespace Sys2Proof.Machine

variable {s : State} {b n p r q m l t g port prio id key : Nat}

theorem not_le_of_lt_decide {a c : Nat} (h : a < c) : decide (c ≤ a) = false := decide_eq_false (Nat.not_le.2 h)

/-- A command that is well formed and finds nothing to do. -/
theorem guardWf_idle {ok : Bool} {u : State} (hok : ok = true) (h : u = s) : guardWf ok u = .next s := by
  rw [hok, h]
  rfl

/-! ### Plates, queues and pools -/

theorem drainEnd_tagged (hd : s.draining = some b) (ht : s.tagged b ≠ []) : drainEnd s = s := by
  rw [drainEnd, hd]
  exact if_neg (by rw [List.isEmpty_iff]; exact ht)

theorem drainOverrun_early (hd : s.draining = some b) (h : s.now < s.plate.swapAt + 400000) : drainOverrun s = s := by
  have hlate : decide (s.plate.swapAt + usT 40 ≤ s.now) = false := not_le_of_lt_decide h
  rw [drainOverrun, hd]
  dsimp only
  rw [hlate, Bool.and_false, if_neg Bool.false_ne_true]

theorem voqAge_young (h : s.headAged (s.que q) = false) : voqAge q s = s := by
  rw [voqAge, h, Bool.and_false, if_neg Bool.false_ne_true]

/-- A queue without credit starts nothing. -/
theorem voqStart_uncredited (h : s.headAged (s.que q) = false) (hcb : (s.que q).cb ≤ 0) : voqStart q s = s := by
  unfold voqStart
  dsimp only
  split
  · rfl
  · rw [h, decide_eq_false (Int.not_lt.2 hcb)]
    rfl

theorem flushTimeout_early {f : Flush} (hf : s.q.flushes.getD p none = some f) (h : s.now < f.at_ + 1000000000) :
    flushTimeout p s = s := by
  rw [flushTimeout, hf]
  exact if_neg (Nat.not_le.2 h)

theorem stackFailed_below (hs : b < 4) (hl : s.bpm.unc.length = 4)
    (h : (if s.bpm.uncSec = s.now / ticksPerSec then s.bpm.unc.getD b 0 else 0) + n < s.fld R.bpmCfg F.bpmCfgFailThresh) :
    stackFailed b false n s = countUnc b n s := by
  have hlow : decide ((countUnc b n s).fld R.bpmCfg F.bpmCfgFailThresh ≤ (countUnc b n s).bpm.unc.getD b 0) = false := by
    rw [countUnc_unc hl hs]
    exact not_le_of_lt_decide h
  rw [stackFailed]
  rw [hlow, Bool.or_false, Bool.and_false, if_neg Bool.false_ne_true]

/-! ### The calendar and the line -/

theorem schedArm_short (hw : s.cal.swapReq = some (b, m)) (h : s.bankSlack b < s.slackRaise) : schedArm s = s := by
  rw [schedArm, hw]
  dsimp only
  rw [decide_eq_false (Int.not_le.2 h), Bool.and_false, if_neg Bool.false_ne_true]

theorem schedRelease_early {v : Vote} (h : s.relDue b r = none) : schedRelease b r v s = s := by rw [schedRelease, h]

/-- A segment that matches a flow is the calendar's, not a routed packet. -/
theorem routedSegment_flow {seg : Bytes} {whole bad : Bool} {fec : Fec} (h : s.segMatches port seg = true) :
    routedSegment port seg whole bad fec s = s := if_pos h

theorem schedOverlen_within {k : Nat} {f : TxFrame} {body : Bytes} {fec : Fec} (hc : s.schedCur port = some (k, f))
    (h : f.len + body.length ≤ s.maxLenOf k f.flow) :
    schedOverlen port body fec s = markCur port fec (countFec port fec s) := by
  have hmax : (countFec port fec s).maxLenOf k f.flow = s.maxLenOf k f.flow := by
    simp only [State.maxLenOf, State.calImg, countFec_cal]
  unfold schedOverlen
  rw [hc]
  dsimp only
  rw [hmax, if_pos h]

theorem slotPick_early {pos : Nat} {x : Bytes} {ecc : Ecc} {v : Vote} (h : s.calTime < pickTime pos) :
    slotPick l pos x ecc v s = s := by
  have hlate : decide (pickTime pos ≤ s.calTime) = false := not_le_of_lt_decide h
  rw [slotPick]
  dsimp only
  rw [hlate, Bool.and_false, Bool.false_and, if_neg Bool.false_ne_true]

theorem not_mfDue (h : s.framerRun = false ∨ s.fab.ref < 16384 + s.fab.mfRef) : s.mfDue = false := by
  unfold State.mfDue
  rcases h with h | h
  · rw [h, Bool.false_and]
  · rw [not_le_of_lt_decide h, Bool.and_false]

theorem multiframeBoundary_early {v : Vote} (h : s.mfDue = false) : multiframeBoundary v s = s :=
  if_neg (by rw [h]; decide)

theorem txFrame_early {c : Bytes} {flow : Nat} (hq : s.macQueue port = [.sched c flow t]) (h : s.now < t) : txFrame port s = s := by
  have hturn : s.turnAtMac port (.sched c flow t) = false := not_le_of_lt_decide h
  unfold txFrame
  rw [hq]
  simp [takeFirst, hturn]

theorem xoffNow_below (h : s.pfcHeldOf port prio < s.fld (R.qPfc port) F.qPfcXoffBytes) : xoffNow port prio s = s := by
  rw [xoffNow]
  dsimp only
  rw [not_le_of_lt_decide h, Bool.and_false, Bool.false_and, if_neg Bool.false_ne_true]

theorem xoffAgain_early (hx : smapFind (8 * port + prio) s.line.xoff = some t) (h : s.now < t) : xoffAgain port prio s = s := by
  rw [xoffAgain, hx]
  exact if_neg (Nat.not_le.2 h)

theorem reorderTimeout_early (h : s.now < (s.stream n).since + nsT (s.fld R.reorderCfg F.reorderCfgReorderTimeoutNs)) :
    reorderTimeout n s = s := by
  rw [reorderTimeout]
  rw [not_le_of_lt_decide h, Bool.and_false, if_neg Bool.false_ne_true]

/-! ### The fabric -/

theorem framerRun_early (hs : s.fab.startAt = some t) (h : s.now < t) : framerRun s = s := by
  rw [framerRun, hs]
  exact if_pos h

theorem groupFrameRead_early (h : s.fab.ref < (s.linkGroup g).readAt) : groupFrameRead g s = s := by
  rw [groupFrameRead]
  dsimp only
  rw [not_le_of_lt_decide h, Bool.and_false, if_neg Bool.false_ne_true]

theorem reasmTimeout_early {x : Reasm} (hx : smapFind key s.fab.ctx = some x)
    (h : s.now < x.at_ + usT (s.fld R.fabRxCfg F.fabRxCfgReasmTimeoutUs)) : reasmTimeout key s = s := by
  rw [reasmTimeout, hx]
  dsimp only
  rw [not_le_of_lt_decide h, Bool.and_false, if_neg Bool.false_ne_true]

theorem repinGuard_early {d : Nat} (hd : smapFind d s.fab.hold = some t) (h : s.now < t) : repinGuard d s = s := by
  rw [repinGuard, hd]
  exact if_neg (Nat.not_le.2 h)

theorem frameTransmit_early (h : s.curFrame < (s.lane l).txNext) : frameTransmit l s = s := by
  rw [frameTransmit]
  dsimp only
  rw [not_le_of_lt_decide h, Bool.and_false, if_neg Bool.false_ne_true]

/-- A channel that is retired carries nothing, and so brings no packet a new body. -/
theorem flitAndPages_retired {dir chan seq : Nat} {ok : Bool} {flit : Bytes} (h : chan ∈ (s.bridge dir).retired) :
    flitAndPages dir chan seq ok flit s = s := by
  have hidle : flitReceive dir chan seq ok flit s = s := by
    rw [flitReceive]
    dsimp only
    rw [List.contains_iff_mem.2 h, Bool.or_true, if_pos rfl]
  rw [flitAndPages, hidle]
  rw [List.drop_length]
  rfl

/-! ### Burins -/

/-- While an engine runs an opcode of the customer's region nothing is switched. -/
theorem burinSwitch_busy (hv : s.burin.vload = none) (hy : s.burin.verify = none) (hr : ∃ e ∈ s.burin.run, 0xC0 ≤ e.2.op) :
    burinSwitch s = s := by
  have hruns : s.regionRuns true = true := by
    obtain ⟨e, he, hop⟩ := hr
    exact List.any_eq_true.2 ⟨e, he, by rw [decide_eq_true hop]; rfl⟩
  have hregion : regionSwitch s = s := by
    unfold regionSwitch
    split
    · rfl
    · exact if_pos hruns
  have hverify : loadVerify s = s := by rw [loadVerify, hy]
  have hvendor : vendorSwitch s = s := by rw [vendorSwitch, hv]
  unfold burinSwitch doIf
  split
  · show regionSwitch (vendorSwitch (loadVerify s)) = s
    rw [hverify, hvendor, hregion]
  · rfl

theorem timerExpire_early (h : s.timeUs < ctxDue (s.ctxOf g) n) : timerExpire g n s = s := by
  rw [timerExpire]
  dsimp only
  rw [not_le_of_lt_decide h, Bool.and_false, Bool.false_and, Bool.false_and, if_neg Bool.false_ne_true]

/-! ### Power and the twin -/

theorem avsReadback_early {d mv : Nat} (h : s.readDue d = false) : avsReadback d mv s = s := if_pos (by rw [h]; rfl)

theorem thermalStale_early (h : s.now < s.pwr.readAt + msT 20) : thermalStale s = s := by
  rw [thermalStale, not_le_of_lt_decide h, Bool.false_and, if_neg Bool.false_ne_true]

theorem ptpMfBoundary_early {a c : Nat} (h : s.now < s.pwr.nextMf) : ptpMfBoundary a c s = s := if_pos (by simp [h])

theorem domainSleep_deepest {d : Domain} (h : s.sleepState d ≤ s.fld (domainReg d) wakeState) : domainSleep d s = s :=
  if_neg (Nat.not_lt.2 h)

theorem domainWake_unwanted {d : Domain} {ns : Nat} (h : s.wakeWanted d = false) : domainWake d ns s = s := by
  rw [domainWake]
  rw [h, Bool.and_false, if_neg Bool.false_ne_true]

theorem ppsOut_off (h : s.flag R.pwrTbCfg F.pwrTbCfgPpsOutEn = false) : ppsOut s = s := by
  rw [ppsOut, h, Bool.false_and, Bool.false_and, if_neg Bool.false_ne_true]

theorem ppsInEdge_off (h : s.flag R.pwrTbCfg F.pwrTbCfgPpsInEn = false) : ppsInEdge s = s := by
  rw [ppsInEdge, h, if_neg Bool.false_ne_true]

theorem ppsLoss_off (h : s.flag R.pwrTbCfg F.pwrTbCfgPpsInEn = false) : ppsLoss s = s := by
  rw [ppsLoss, h, Bool.false_and, Bool.false_and, if_neg Bool.false_ne_true]

theorem twinLinkDown_early (ht : s.twin.statAt = some t) (h : s.now < 32768 + t) : twinLinkDown s = s := by
  rw [twinLinkDown, ht]
  dsimp only
  rw [not_le_of_lt_decide h, Bool.and_false, if_neg Bool.false_ne_true]

theorem healthWait_early (ht : s.twin.waitTo = some t) (h : s.now < t) : healthWait s = s := by
  rw [healthWait, ht]
  exact if_neg (Nat.not_le.2 h)

/-! ### Updates and the boot -/

theorem sealWaitTimeout_early (hw : s.upd.wait = some (t, .verify)) (h : s.now < 60 * ticksPerSec + t) : sealWaitTimeout s = s := by
  rw [sealWaitTimeout, hw]
  exact if_neg (Nat.not_le.2 h)

theorem sessionLapse_early (h : s.now < 600 * ticksPerSec + s.upd.lastCmd) : sessionLapse s = s := by
  rw [sessionLapse]
  rw [not_le_of_lt_decide h, Bool.and_false, if_neg Bool.false_ne_true]

theorem confirmExpire_early (ht : s.upd.confirmAt = some t)
    (h : s.fld R.updCfg F.updCfgConfirmS = 0 ∨ s.now < t + s.fld R.updCfg F.updCfgConfirmS * ticksPerSec) :
    confirmExpire s = s := by
  rw [confirmExpire, ht]
  dsimp only
  rcases h with h | h
  · rw [h]
    simp [doIf]
  · rw [not_le_of_lt_decide h, Bool.and_false]
    rfl

theorem atStage_failed {act : State → State} (h : s.boot.failed = true) : atStage n act s = s :=
  if_neg (by rw [h, Bool.not_true, Bool.and_false]; decide)

/-- A boot that has failed does the work of no stage. -/
theorem exec_boot_failed (h : s.boot.failed = true) :
    ∀ c ∈ ([.bootCalibCheck, .bridgeWireTest [], .bootSetSelect, .bootManifestCheck, .pmapLock, .bootImageLoad,
      .hbmTrainingDone 0 true, .serdesCalibrationDone, .bootPlateLoad, .bootTraceCheck [], .ready] : List Instr),
      exec c s = .next s := by
  have hstage (k : Nat) (act : State → State) : guardWf true (atStage k act s) = .next s := guardWf_idle rfl (atStage_failed h)
  simp only [List.forall_mem_cons, List.not_mem_nil, false_implies, implies_true, and_true]
  refine ⟨hstage .., hstage .., hstage .., hstage .., hstage .., hstage .., guardWf_idle rfl ?_, hstage .., hstage .., hstage ..,
    guardWf_idle rfl ?_⟩
  · split
    · rfl
    · exact atStage_failed h
  · split
    · exact atStage_failed h
    · rfl

theorem failStage_whole (h : s.boot.failed = false) : failStage s = s := by
  rw [failStage, h, Bool.false_and, if_neg Bool.false_ne_true]

theorem stewardFault_down {cut : List MbxCut} (h : s.boot.stewardUp = false) : stewardFault cut s = s := by
  rw [stewardFault, h, Bool.false_and, if_neg Bool.false_ne_true]

theorem stewardRestart_early (h : s.now < s.boot.faultAt + msT 5) : stewardRestart s = s := by
  rw [stewardRestart, not_le_of_lt_decide h, Bool.and_false, if_neg Bool.false_ne_true]

/-! ### Rings and pipelines -/

theorem txDescriptor_none {d f : Dma} (h : s.ringHead p r = s.ringTail p r) : txDescriptor p r d f s = s := by
  have hnone : (s.ringHead p r != s.ringTail p r) = false := by simp [h]
  rw [txDescriptor, hnone, Bool.and_false, if_neg Bool.false_ne_true]

theorem rxCoal_early (hc : smapFind (64 * p + r) s.host.coal = some (n, t)) (h : s.now < t) : rxCoal p r s = s := by
  rw [rxCoal, hc]
  dsimp only
  rw [not_le_of_lt_decide h]
  rfl

theorem packetParse_elsewhere {k : Packet} {x : StageIn} (hk : s.pkt id = some k) (h : k.place ≠ .pipe) :
    packetParse id x s = s := by
  have hpipe : (k.place == .pipe) = false := beq_false_of_ne h
  rw [packetParse, hk]
  simp [hpipe]

theorem pipelineStage_elsewhere {k : Packet} {x : StageIn} (hk : s.pkt id = some k) (h : k.place ≠ .pipe) :
    pipelineStage id x s = s := by
  have hpipe : (k.place == .pipe) = false := beq_false_of_ne h
  rw [pipelineStage, hk]
  dsimp only
  split
  · rfl
  · simp [hpipe]

/-- A stage that reads a plate waits for the scan of its table. -/
theorem pipelineStage_scans {k : Packet} {x : StageIn} {st : Stage} (hk : s.pkt id = some k) (hn : k.stage = some n)
    (hst : (s.prog k.bank k.pipe).stages[n]? = some st) (hreads : st.readsPpm = true) (hscan : k.scan ≠ none) :
    pipelineStage id x s = s := by
  have hsome : k.scan.isSome = true := Option.isSome_iff_ne_none.2 hscan
  rw [pipelineStage, hk]
  dsimp only
  rw [hn]
  dsimp only
  rw [hst]
  simp [hreads, hsome]

/-- Settles O60: each event meets the guard before its work, and what an event counts it counts before the guard. -/
theorem eventsThatAreNotDue : Obligations.EventsThatAreNotDue := by
  intro s
  refine ⟨fun b hb hw => ⟨fun ht => ?_, fun h => ?_⟩, fun q hq h => ⟨?_, fun hcb => ?_⟩, fun p f hp hf h => ?_,
    fun st n hst hl h => ?_, fun b m hw h => guardWf_idle rfl (schedArm_short hw h), fun b r v hb hr hv h => ?_,
    fun port seg whole bad fec hp hl hwhole h => ?_, fun port k g body fec hp hc h => ?_, fun l pos x ecc v hl hpos hv h => ?_,
    fun v hv h => ?_, fun t hs h => guardWf_idle rfl (framerRun_early hs h), fun g hg h => ?_, fun src g tc x hs hg ht hx h => ?_,
    fun d end_ hd he h => ?_, fun h => guardWf_idle rfl (if_pos h), fun l hl h => ?_, fun hv hy hm hr => ?_,
    fun g n hg hn h => ?_, fun d mv hd hm h => ?_, fun h => guardWf_idle rfl (thermalStale_early h), fun a c h => ?_,
    fun d ns hd hn => ⟨fun h => ?_, fun h => ?_⟩, fun h => guardWf_idle rfl (ppsOut_off h),
    fun h => ⟨guardWf_idle rfl (ppsInEdge_off h), guardWf_idle rfl (ppsLoss_off h)⟩,
    fun t ht h => guardWf_idle rfl (twinLinkDown_early ht h), fun t ht h => guardWf_idle rfl (healthWait_early ht h),
    fun t hw h => guardWf_idle rfl (sealWaitTimeout_early hw h), fun h => guardWf_idle rfl (sessionLapse_early h),
    fun t ht h => guardWf_idle rfl (confirmExpire_early ht h), fun h => guardWf_idle rfl (if_neg (by rw [h]; decide)),
    fun h => exec_boot_failed h, fun h => guardWf_idle rfl (failStage_whole h), fun cut hcut h => ?_,
    fun h => guardWf_idle rfl (stewardRestart_early h), fun dir chan seq ok flit hd hc hf h => ?_, fun p r d f hp hr h => ?_,
    fun p r n t hp hr hc h => ?_, fun port prio hp hq => ⟨fun h => ?_, fun t ht h => ?_⟩, fun id k x hk => ⟨fun h => ⟨?_, ?_⟩, ?_⟩,
    fun n hn h => ?_, fun port b flow t hp hq h => ?_⟩
  · exact guardWf_idle rfl (by rw [drainEnd_tagged hb ht, lateBack_of_not_waiting hw])
  · exact guardWf_idle rfl (by rw [drainOverrun_early hb h, lateBack_of_not_waiting hw])
  · exact guardWf_idle (decide_eq_true hq) (voqAge_young h)
  · exact guardWf_idle (decide_eq_true hq) (voqStart_uncredited h hcb)
  · exact guardWf_idle (decide_eq_true hp) (flushTimeout_early hf h)
  · rw [exec_bpmStackFailed hst, stackFailed_below hst hl h]
  · exact guardWf_idle (by rw [decide_eq_true hb, decide_eq_true hr, hv]; rfl) (schedRelease_early h)
  · refine guardWf_idle ?_ (routedSegment_flow h)
    rw [decide_eq_true hp, decide_eq_true hl]
    rcases hwhole with rfl | hwhole
    · rfl
    · rw [hwhole]
      cases whole <;> rfl
  · show guardWf _ _ = _
    rw [guardWf_of (decide_eq_true hp), schedOverlen_within hc h]
  · exact guardWf_idle (by rw [decide_eq_true hl, decide_eq_true hpos, hv]; rfl) (slotPick_early h)
  · exact guardWf_idle hv (by rw [not_mfDue h, multiframeBoundary_early (not_mfDue h)]; rfl)
  · exact guardWf_idle (decide_eq_true hg) (groupFrameRead_early h)
  · exact guardWf_idle (by rw [decide_eq_true hs, decide_eq_true hg, decide_eq_true ht]; rfl) (reasmTimeout_early hx h)
  · exact guardWf_idle (decide_eq_true hd) (repinGuard_early he h)
  · exact guardWf_idle (decide_eq_true hl) (frameTransmit_early h)
  · exact guardWf_idle rfl (by rw [burinSwitch_busy hv hy hr, mcGo_idle hm])
  · exact guardWf_idle (by rw [decide_eq_true hg, decide_eq_true hn]; rfl) (timerExpire_early h)
  · exact guardWf_idle (by rw [decide_eq_true hd, decide_eq_true hm]; rfl) (avsReadback_early h)
  · exact guardWf_idle rfl (by rw [ptpMfBoundary_early h, not_le_of_lt_decide h, Bool.and_false]; rfl)
  · exact guardWf_idle hd (domainSleep_deepest h)
  · exact guardWf_idle (by rw [hd, decide_eq_true hn]; rfl) (domainWake_unwanted h)
  · exact guardWf_idle hcut (stewardFault_down h)
  · exact guardWf_idle (by rw [decide_eq_true hd, decide_eq_true hc, hf]; rfl) (flitAndPages_retired h)
  · exact guardWf_idle (by rw [decide_eq_true hp, decide_eq_true hr]; rfl) (txDescriptor_none h)
  · exact guardWf_idle (by rw [decide_eq_true hp, decide_eq_true hr]; rfl) (rxCoal_early hc h)
  · exact guardWf_idle (by rw [decide_eq_true hp, decide_eq_true hq]; rfl) (xoffNow_below h)
  · exact guardWf_idle (by rw [decide_eq_true hp, decide_eq_true hq]; rfl) (xoffAgain_early ht h)
  · exact guardWf_idle rfl (packetParse_elsewhere hk h)
  · exact guardWf_idle rfl (pipelineStage_elsewhere hk h)
  · exact fun n st hn hst hreads hscan => guardWf_idle rfl (pipelineStage_scans hk hn hst hreads hscan)
  · exact guardWf_idle (decide_eq_true hn) (reorderTimeout_early h)
  · exact guardWf_idle (decide_eq_true hp) (txFrame_early hq h)

end Sys2Proof.Machine
end

section
/-! SUPPORT. O32: what the parts of an update command leave and write (R439 to R459). -/

namespace Sys2Proof.Machine

variable {s t : State} {fn : Fn} {p off n : Nat} {b : Bcr}

/-! ### The registers of the update controller -/

/-- The registers of the update controller. -/
def UpdReg (off : Nat) : Prop := R.updCmd ≤ off ∧ off < R.pwrCtl

theorem UpdReg.ge (h : UpdReg off) : R.plateCmd ≤ off := Nat.le_trans (by decide) h.1

theorem UpdReg.lockTo {k : Nat} (h : UpdReg off) : (lockTo k s).rd off = s.rd off := by
  have hne : ∀ r ∈ sealRegs, off ≠ r := fun r hr he => by
    have hlow : r < R.updCmd := (by decide : ∀ r ∈ sealRegs, r < R.updCmd) r hr
    exact absurd h.1 (by rw [he]; exact Nat.not_le.2 hlow)
  have hlock : off ≠ R.sealLock := fun he => absurd h.1 (by rw [he]; decide)
  unfold Machine.lockTo
  rw [forEach_rd fun r hr u => State.rd_wr_ne u _ (hne r hr)]
  exact State.rd_setFld_ne _ _ _ hlock

theorem UpdReg.lock (h : UpdReg off) : (lockPass s).rd off = s.rd off := h.lockTo.trans h.lockTo

theorem UpdReg.right {src rt : Nat} (h : UpdReg off) : (raiseRight src rt s).rd off = s.rd off :=
  raiseRight_rd (not_intReg_of_ge h.ge) s

theorem UpdReg.record {sev : Sev} {code : Nat} {items : List (Nat × Nat)} (h : UpdReg off) (hsev : sev ≠ .f) :
    (updRecord sev code items s).rd off = s.rd off :=
  report_rd_of_unit hsev h.ge (Nat.lt_trans h.2 (by decide))

theorem UpdReg.done {code detail : Nat} (h : UpdReg off) (hne : off ≠ R.updStatus) : (updDone code detail s).rd off = s.rd off :=
  complete_upd_rd h.ge hne

theorem writeCopies_rd : (writeCopies b s).rd off = s.rd off := rfl

theorem useBcr_rd (hne : off ≠ R.updBcr) : (useBcr b s).rd off = s.rd off := by
  unfold useBcr showBcr
  dsimp only
  rw [State.rd_wr_ne _ _ hne]
  rfl

theorem UpdReg.bcr (hne : off ≠ R.updBcr) : (writeBcr b s).rd off = s.rd off :=
  (useBcr_rd (b := { b with seq := (s.upd.bcr.seq + 1) % 2 ^ 32 }) hne).trans
    (writeCopies_rd (b := { b with seq := (s.upd.bcr.seq + 1) % 2 ^ 32 }))

theorem updSession_reg : UpdReg R.updSession := ⟨by decide, by decide⟩
theorem updStatus_reg : UpdReg R.updStatus := ⟨by decide, by decide⟩

theorem signals_updRecord {sev : Sev} (h : sev ≠ .f) (code : Nat) (items : List (Nat × Nat)) :
    Signals s (updRecord sev code items s) := signals_report h ..

/-- The end of a command leaves what it has done, but for the time of the last command. -/
theorem updDone_keeps (code detail : Nat) : Signals { s with upd := { s.upd with lastCmd := s.now } } (updDone code detail s) :=
  signals_complete ..

theorem updDone_flash {code detail : Nat} : (updDone code detail s).flash = s.flash := by
  obtain ⟨_, _, _, h⟩ := updDone_keeps (s := s) code detail
  rw [h]

theorem updDone_upd {code detail : Nat} : (updDone code detail s).upd = { s.upd with lastCmd := s.now } := by
  obtain ⟨_, _, _, h⟩ := updDone_keeps (s := s) code detail
  rw [h]

theorem updDone_holder {code detail : Nat} : (updDone code detail s).updHolder = s.updHolder :=
  congrArg (getF · _) (updSession_reg.done (by decide))

theorem updDone_ok {detail : Nat} : (updDone Code.ok detail s).fld R.updStatus stCode = Code.ok := updDone_code

theorem updHold_holder (hp : p < 8) : (updHold p s).updHolder = p := State.fld_setFld_same _ (by decide) hp

theorem updHold_state : (updHold p s).updState = s.updState :=
  State.fld_setFld_apart _ _ _ _ _ _ (by decide) (by decide) (by decide)

theorem updTo_holder {st : Nat} : (updTo st s).updHolder = s.updHolder :=
  State.fld_setFld_apart _ _ _ _ _ _ (by decide) (by decide) (by decide)

/-! ### Slots and the record -/

theorem staging_lt : s.staging < 2 := by
  unfold State.staging
  omega

theorem setSlot_slot {x : SetSlot} (hn : n < s.flash.slots.length) : (setSlot n x s).slot n = x := by
  simp [State.slot, setSlot, flashTo, hn]

theorem setSlot_length {x : SetSlot} : (setSlot n x s).flash.slots.length = s.flash.slots.length := List.length_set

theorem slot_congr (h : t.flash.slots = s.flash.slots) : t.slot n = s.slot n := congrArg (·.getD n emptySlot) h

theorem writeBcr_upd : (writeBcr b s).upd = { s.upd with bcr := { b with seq := (s.upd.bcr.seq + 1) % 2 ^ 32 } } := rfl

theorem writeBcr_slots : (writeBcr b s).flash.slots = s.flash.slots := rfl

theorem writeBcr_length : (writeBcr b s).flash.bcr.length = s.flash.bcr.length := by
  simp [writeBcr, writeCopies, writeCopy, useBcr, showBcr, flashTo, State.wr]

/-- Both copies hold the record that is in force. -/
theorem writeBcr_copies (hl : s.flash.bcr.length = 2) :
    (writeBcr b s).flash.bcr = [bcrBytes (writeBcr b s).upd.bcr, bcrBytes (writeBcr b s).upd.bcr] := by
  obtain ⟨x, y, hxy⟩ := List.length_eq_two.1 hl
  rw [writeBcr_upd]
  dsimp only
  generalize hb : bcrBytes { b with seq := (s.upd.bcr.seq + 1) % 2 ^ 32 } = r
  simp [-Nat.reducePow, writeBcr, writeCopies, writeCopy, useBcr, showBcr, flashTo, State.wr, hxy, hb]

theorem dropNewArea_upd : (dropNewArea b s).upd =
    { s.upd with bcr := { b with dual := false, seq := (s.upd.bcr.seq + 1) % 2 ^ 32 } } := by
  unfold dropNewArea
  dsimp only
  rw [writeBcr_upd]
  cases s.upd.bcr.dual <;> rfl

theorem dropNewArea_slots : (dropNewArea b s).flash.slots = s.flash.slots := by
  unfold dropNewArea
  dsimp only
  rw [writeBcr_slots]
  cases s.upd.bcr.dual <;> rfl

theorem dropNewArea_rd (hne : off ≠ R.updBcr) : (dropNewArea b s).rd off = s.rd off :=
  (UpdReg.bcr hne).trans (doIf_rd (f := setArea (1 - s.upd.bcr.confArea) []) (fun _ => rfl) s)

/-- A slot whose STATE is ANDed with a value. -/
theorem setSlot_to_state (st : Nat) (k : SetSlot) (h : st < 256) : (k.to st).state = k.state &&& st := by
  have hlt : k.state &&& st < 256 := Nat.lt_of_le_of_lt Nat.and_le_right h
  have hb : toLe 1 (k.state &&& st) = [BitVec.ofNat 8 (k.state &&& st)] := rfl
  rw [SetSlot.state, SetSlot.to, byteAt_patch, if_pos ⟨Nat.le_refl _, by rw [hb]; exact Nat.lt_succ_self 4⟩, hb, Nat.sub_self]
  exact Nat.mod_eq_of_lt hlt

/-! ### The end of a session -/

/-- The session is over: no holder, no content key, the staging slot INVALID. -/
structure SessionOver (s u : State) : Prop where
  state : u.updState = Us.idle
  holder : u.updHolder = 7
  hidden : u.upd.hidden = []
  staging : u.staging = s.staging
  invalid : s.flash.slots.length = 2 → (u.slot u.staging).state = Ss.invalid

/-- The session's end before the registers tell it. -/
def sessionCleared (s : State) : State :=
  let n := s.staging
  let u := doIf s.upd.bcr.dual (dropNewArea s.upd.bcr) (setSlot n ((s.slot n).to Ss.invalid) s)
  { u with upd := { u.upd with hidden := [], wait := none } }

theorem sessionCleared_confirmed : (sessionCleared s).upd.bcr.confirmed = s.upd.bcr.confirmed := by
  unfold sessionCleared doIf
  dsimp only
  split
  · rw [dropNewArea_upd]
  · rfl

theorem sessionCleared_slot (hl : s.flash.slots.length = 2) : (sessionCleared s).slot s.staging = (s.slot s.staging).to Ss.invalid := by
  have hset : (setSlot s.staging ((s.slot s.staging).to Ss.invalid) s).slot s.staging = (s.slot s.staging).to Ss.invalid :=
    setSlot_slot (by rw [hl]; exact staging_lt)
  refine Eq.trans (slot_congr ?_) hset
  unfold sessionCleared doIf
  dsimp only
  split
  · exact dropNewArea_slots
  · rfl

theorem endSession_eq : endSession s = raiseRight 14 Right.update (updHold 7 (updTo Us.idle (sessionCleared s))) := by
  unfold endSession sessionCleared
  dsimp only
  rfl

theorem endSession_over : SessionOver s (endSession s) := by
  obtain ⟨_, _, _, hsig⟩ := (signals_setFld (s := sessionCleared s) R.updSession F.updSessionState Us.idle).trans
    ((signals_setFld R.updSession F.updSessionHolder 7).trans (signals_raiseRight 14 Right.update))
  have hreg : (endSession s).rd R.updSession = (updHold 7 (updTo Us.idle (sessionCleared s))).rd R.updSession := by
    rw [endSession_eq]
    exact updSession_reg.right
  have heq : endSession s = _ := endSession_eq.trans hsig
  have hstage : (endSession s).staging = s.staging := by
    rw [heq]
    exact congrArg (1 - ·) sessionCleared_confirmed
  refine ⟨(congrArg (getF · _) hreg).trans (updHold_state.trans (updTo_updState (by decide))),
    (congrArg (getF · _) hreg).trans (updHold_holder (by decide)), ?_, hstage, fun hl => ?_⟩
  · rw [heq]
    rfl
  · rw [hstage, heq]
    refine (congrArg SetSlot.state (sessionCleared_slot hl)).trans ?_
    rw [setSlot_to_state _ _ (by decide)]
    exact Nat.and_zero _

/-- What leaves the session register, the flash and the controller's state leaves a session that is over. -/
theorem SessionOver.of_signals {u v : State} (h : SessionOver s u) (hv : Signals u v) (hr : v.rd R.updSession = u.rd R.updSession) :
    SessionOver s v := by
  obtain ⟨hst, hho, hhid, hstg, hinv⟩ := h
  obtain ⟨_, _, _, heq⟩ := hv
  refine ⟨(congrArg (getF · _) hr).trans hst, (congrArg (getF · _) hr).trans hho, ?_, ?_, fun hl => ?_⟩
  · rw [heq]
    exact hhid
  · rw [heq]
    exact hstg
  · rw [heq]
    exact hinv hl

theorem closeAct_over : SessionOver s (closeAct s) := by
  have hover : SessionOver s { endSession s with upd := { (endSession s).upd with lastCmd := (endSession s).now } } := by
    obtain ⟨hst, hho, hhid, hstg, hinv⟩ := endSession_over (s := s)
    exact ⟨hst, hho, hhid, hstg, hinv⟩
  exact hover.of_signals (updDone_keeps ..) (updSession_reg.done (by decide))

end Sys2Proof.Machine
end

section
/-! SUPPORT. O32: the commands of the update controller (R444 to R459). -/

namespace Sys2Proof.Machine

variable {s : State} {fn : Fn} {p n : Nat}

/-! ### OPEN -/

/-- The staging slot takes the manifest. -/
def slotTaken (x : Bytes) (s : State) : State :=
  let s := setSlot s.staging emptySlot s
  setSlot s.staging { emptySlot with head := slotHead Ss.downloading, manifest := x } s

/-- No byte of a component has been received. -/
def rcvdCleared (s : State) : State := forEach [0, 1, 2, 3, 4] (fun i s => s.wr (R.updRcvd i) 0) s

/-- Nothing waits for the seal lock. -/
def waitOver (s : State) : State := { s with upd := { s.upd with wait := none } }

/-- The staging slot takes the manifest, and the hidden slot the content key. -/
def manifestTaken (key x : Bytes) (s : State) : State :=
  (setHidden key (rcvdCleared (slotTaken x (waitOver s)))).inc (R.updCtr 0)

theorem openFinish_good {x key : Bytes} (hk : contentKey s.upd.cfg.rootKey x = .ok key) :
    openFinish x s = updDone Code.ok 0 (updTo Us.isOpen (manifestTaken key x s)) := by
  unfold openFinish manifestTaken rcvdCleared slotTaken setHidden waitOver
  dsimp only
  rw [hk]

theorem signals_rcvdCleared : Signals s (rcvdCleared s) := .forEach (fun _ _ => signals_wr _ 0) _

theorem rcvdCleared_session : (rcvdCleared s).rd R.updSession = s.rd R.updSession := by
  refine forEach_rd (f := fun i (u : State) => u.wr (R.updRcvd i) 0) (fun i _ u => State.rd_wr_ne u _ ?_) s
  simp only [R.updSession, R.updRcvd]
  omega

theorem setSlot_rd {x : SetSlot} {off : Nat} : (setSlot n x s).rd off = s.rd off := rfl

theorem setHidden_rd {key : Bytes} {off : Nat} : (setHidden key s).rd off = s.rd off := rfl

theorem waitOver_rd {off : Nat} : (waitOver s).rd off = s.rd off := rfl

theorem slotTaken_slot {x : Bytes} (hl : s.flash.slots.length = 2) : (slotTaken x s).slot s.staging =
    { emptySlot with head := slotHead Ss.downloading, manifest := x } := by
  refine setSlot_slot (s := setSlot s.staging emptySlot s) ?_
  rw [setSlot_length, hl]
  exact staging_lt

theorem manifestTaken_session {key x : Bytes} : (manifestTaken key x s).rd R.updSession = s.rd R.updSession := by
  unfold manifestTaken slotTaken
  dsimp only
  rw [State.rd_inc_ne _ (by decide), setHidden_rd, rcvdCleared_session, setSlot_rd, setSlot_rd, waitOver_rd]

theorem manifestTaken_holder {key x : Bytes} : (manifestTaken key x s).updHolder = s.updHolder :=
  congrArg (getF · F.updSessionHolder) manifestTaken_session

theorem setHidden_hidden {key : Bytes} {off : Nat} : ((setHidden key s).inc off).upd.hidden = key := rfl

theorem setHidden_slots {key : Bytes} {off : Nat} : ((setHidden key s).inc off).flash = s.flash := rfl

theorem manifestTaken_hidden {key x : Bytes} : (manifestTaken key x s).upd.hidden = key := setHidden_hidden

theorem updDone_slot {code detail : Nat} : (updDone code detail s).slot n = s.slot n :=
  slot_congr (congrArg (·.slots) updDone_flash)

theorem updDone_hidden {code detail : Nat} : (updDone code detail s).upd.hidden = s.upd.hidden :=
  congrArg (·.hidden) updDone_upd

theorem updTo_slot {st : Nat} : (updTo st s).slot n = s.slot n := rfl

theorem updTo_upd {st : Nat} : (updTo st s).upd = s.upd := rfl

theorem manifestTaken_slot {key x : Bytes} (hl : s.flash.slots.length = 2) : (manifestTaken key x s).slot s.staging =
    { emptySlot with head := slotHead Ss.downloading, manifest := x } := by
  obtain ⟨_, _, _, h⟩ := signals_rcvdCleared (s := slotTaken x (waitOver s))
  refine (slot_congr (s := slotTaken x (waitOver s)) ?_).trans (slotTaken_slot (s := waitOver s) hl)
  rw [manifestTaken, setHidden_slots, h]

/-- An OPEN of a sound manifest under a free seal lock. -/
theorem openAct_free {x : Bytes} {len : Nat} (hlen : (updHold p s).fld R.updArg1 F.updArg1Length = len)
    (ha : (updHold p s).fld R.updArg0 F.updArg0Addr % 64 = 0) (hl : len ≤ 4352)
    (hf : firstBad (openChecks s len (slice 0 len x)) = none) (hh : (updHold p s).holder = 7) :
    openAct p (.data x) s = openFinish (slice 0 len x) (lockPass (updHold p s)) := by
  have hl' : ¬4352 < len := by omega
  have hf' : firstBad (openChecks (updHold p s) len (slice 0 len x)) = none := (congrArg _ (openChecks_congr rfl)).trans hf
  simp only [openAct, hlen, ha, hl', bne_self_eq_false, Bool.false_eq_true, if_false, hf', whenLockFree_free hh]

theorem State.UpdTakes.exec_open_free {x : Bytes} (h : s.UpdTakes fn p) (hh : s.updHolder = 7) (hst : s.updState = Us.idle)
    (ha : s.fld R.updArg0 F.updArg0Addr % 64 = 0) (hl : s.fld R.updArg1 F.updArg1Length ≤ 4352)
    (hf : firstBad (openChecks s (s.fld R.updArg1 F.updArg1Length) (slice 0 (s.fld R.updArg1 F.updArg1Length) x)) = none)
    (hfree : s.holder = 7) : exec (.updOpen fn (.data x)) s =
      .next (openFinish (slice 0 (s.fld R.updArg1 F.updArg1Length) x) (lockPass (updHold p (s.taken fn .upd 1 p)))) := by
  have hlen : (updHold p (s.taken fn .upd 1 p)).fld R.updArg1 F.updArg1Length = s.fld R.updArg1 F.updArg1Length :=
    congrArg (getF · _) (updHold_taken_rd (by decide) (by decide))
  have haddr : (updHold p (s.taken fn .upd 1 p)).fld R.updArg0 F.updArg0Addr % 64 = 0 := by
    rw [State.fld, updHold_taken_rd (by decide) (by decide)]
    exact ha
  have hfree' : (updHold p (s.taken fn .upd 1 p)).holder = 7 := by
    rw [State.holder, State.fld, updHold_taken_rd (by decide) (by decide)]
    exact hfree
  exact (h.exec_open hh hst).trans
    (congrArg _ (openAct_free hlen haddr hl ((congrArg _ (openChecks_congr rfl)).trans hf) hfree'))

/-- What an OPEN that succeeds leaves. -/
theorem openFinish_opens {x key : Bytes} (hp : p < 8) (hslots : s.flash.slots.length = 2)
    (hk : contentKey s.upd.cfg.rootKey x = .ok key) :
    let w := openFinish x (lockPass (updHold p s))
    w.updState = Us.isOpen ∧ w.updHolder = p ∧ w.upd.hidden = key ∧
      w.slot s.staging = { emptySlot with head := slotHead Ss.downloading, manifest := x } ∧
      w.fld R.updStatus stCode = Code.ok ∧ w.busy .upd = false := by
  obtain ⟨_, _, _, hpass⟩ := signals_lockPass (s := updHold p s)
  have hk' : contentKey (lockPass (updHold p s)).upd.cfg.rootKey x = .ok key := by
    rw [hpass]
    exact hk
  have hl : (lockPass (updHold p s)).flash.slots.length = 2 := by
    rw [hpass]
    exact hslots
  have hstage : (lockPass (updHold p s)).staging = s.staging := by
    rw [hpass]
    rfl
  have hholder : (lockPass (updHold p s)).updHolder = p :=
    (congrArg (getF · _) updSession_reg.lock).trans (updHold_holder hp)
  intro w
  have hw : w = updDone Code.ok 0 (updTo Us.isOpen (manifestTaken key x (lockPass (updHold p s)))) := openFinish_good hk'
  refine ⟨?_, ?_, ?_, ?_, ?_, ?_⟩
  · rw [hw, updDone_updState]
    exact updTo_updState (by decide)
  · rw [hw, updDone_holder, updTo_holder, manifestTaken_holder, hholder]
  · rw [hw, updDone_hidden, updTo_upd, manifestTaken_hidden]
  · rw [hw, ← hstage, updDone_slot, updTo_slot, manifestTaken_slot hl]
  · rw [hw]
    exact updDone_ok
  · rw [hw]
    exact updDone_free

/-! ### WRITE and VERIFY -/

/-- A slot whose image `i` has grown. -/
def SetSlot.grow (i : Nat) (x : Bytes) (k : SetSlot) : SetSlot := { k with images := k.images.set i (k.images.getD i [] ++ x) }

/-- The next bytes of a component. -/
def chunkTaken (comp : Nat) (x : Bytes) (s : State) : State :=
  let n := s.staging
  let len := s.fld R.updArg1 F.updArg1Length
  (setSlot n ((s.slot n).grow (comp - 1) (slice 0 len x)) s).setFld
      (R.updRcvd (comp - 1)) F.updRcvdReceived (s.fld R.updArg1 F.updArg1Offset + len)

theorem writeAct_good {comp : Nat} {x : Bytes} (hc : 1 ≤ comp ∧ comp ≤ 5)
    (hoff : s.fld R.updArg1 F.updArg1Offset = s.fld (R.updRcvd (comp - 1)) F.updRcvdReceived)
    (hlen : s.fld R.updArg1 F.updArg1Length ≤ 1048576)
    (hwhole : s.fld R.updArg1 F.updArg1Length % 4096 = 0 ∨ s.fld R.updArg1 F.updArg1Offset + s.fld R.updArg1 F.updArg1Length =
      entryLen (manEntry (s.slot s.staging).manifest (comp - 1)))
    (hfit : s.fld R.updArg1 F.updArg1Offset + s.fld R.updArg1 F.updArg1Length ≤
      entryLen (manEntry (s.slot s.staging).manifest (comp - 1))) :
    writeAct p comp (.data x) true s = updDone Code.ok 0 (chunkTaken comp x s) := by
  have hcomp : (decide (comp = 0) || decide (5 < comp)) = false := by
    rw [Bool.or_eq_false_iff, decide_eq_false_iff_not, decide_eq_false_iff_not]
    omega
  unfold writeAct
  dsimp only
  rw [hcomp, if_neg Bool.false_ne_true]
  have hargs : (s.fld R.updArg1 F.updArg1Offset != s.fld (R.updRcvd (comp - 1)) F.updRcvdReceived ||
      decide (1048576 < s.fld R.updArg1 F.updArg1Length) ||
      (s.fld R.updArg1 F.updArg1Length % 4096 != 0 && s.fld R.updArg1 F.updArg1Offset + s.fld R.updArg1 F.updArg1Length !=
        entryLen (manEntry (s.slot s.staging).manifest (comp - 1))) ||
      decide (entryLen (manEntry (s.slot s.staging).manifest (comp - 1)) <
        s.fld R.updArg1 F.updArg1Offset + s.fld R.updArg1 F.updArg1Length)) = false := by
    rw [decide_eq_false (Nat.not_lt.2 hlen), decide_eq_false (Nat.not_lt.2 hfit), hoff, bne_self_eq_false]
    rcases hwhole with h | h
    · rw [h]
      rfl
    · rw [← hoff, h, bne_self_eq_false, Bool.and_false]
      rfl
  rw [hargs, if_neg Bool.false_ne_true, if_pos rfl]
  rfl

theorem convertSettings_slots {man key : Bytes} {images : List Bytes} :
    (convertSettings man key images s).flash.slots = s.flash.slots := by
  unfold convertSettings
  split
  · rfl
  · exact writeBcr_slots

/-- VERIFY of complete images that pass: the set is VERIFIED. -/
theorem verifyAct_good (hall : s.allReceived = true) (hh : s.holder = 7) (hf : firstBad (allImgChecks s) = none)
    (hslots : s.flash.slots.length = 2) (hhead : (s.slot s.staging).head = slotHead Ss.downloading) :
    (verifyAct s).busy .upd = false ∧ (verifyAct s).updState = Us.verified ∧
      ((verifyAct s).slot s.staging).state = Ss.verified ∧ (verifyAct s).fld R.updStatus stCode = Code.ok := by
  have hh' : (updTo Us.verifying s).holder = 7 := by
    rw [updTo, State.holder, State.fld, State.rd_setFld_ne _ _ _ (by decide)]
    exact hh
  obtain ⟨_, _, _, hpass⟩ := signals_lockPass (s := updTo Us.verifying s)
  generalize hu : ({ lockPass (updTo Us.verifying s) with upd := { (lockPass (updTo Us.verifying s)).upd with wait := none } } : State) = u
  have hflash : u.flash = s.flash := by
    rw [← hu, hpass]
    rfl
  have hupd : u.upd = { s.upd with wait := none } := by
    rw [← hu, hpass]
    rfl
  have hf' : firstBad (allImgChecks u) = none := by
    rw [allImgChecks_congr hflash (by rw [hupd]) (by rw [hupd]) (by rw [hupd])]
    exact hf
  have hstage : u.staging = s.staging := by
    rw [State.staging, hupd]
    rfl
  have hslot : u.slot s.staging = s.slot s.staging := slot_congr (congrArg (·.slots) hflash)
  have heq : verifyAct s = updDone Code.ok 0 (updTo Us.verified (setSlot s.staging ((s.slot s.staging).to Ss.verified)
      (convertSettings (s.slot s.staging).manifest u.upd.hidden (s.slot s.staging).images u))) := by
    rw [verifyAct_eq hall, whenLockFree_free hh', verifyFinish]
    dsimp only
    have hhidden : (lockPass (updTo Us.verifying s)).upd.hidden = u.upd.hidden := by rw [← hu]
    rw [hu, hf']
    dsimp only
    rw [hstage, hslot, hhidden]
  have hl : s.staging < (convertSettings (s.slot s.staging).manifest u.upd.hidden (s.slot s.staging).images u).flash.slots.length := by
    rw [convertSettings_slots, hflash, hslots]
    exact staging_lt
  rw [heq]
  refine ⟨updDone_free, updDone_updState.trans (updTo_updState (by decide)), ?_, updDone_ok⟩
  refine (congrArg SetSlot.state ((slot_congr (congrArg (·.slots) updDone_flash)).trans (setSlot_slot hl))).trans ?_
  rw [setSlot_to_state _ _ (by decide), SetSlot.state, hhead]
  decide

/-! ### ACTIVATE -/

theorem activateAct_reset (hm : manMode (s.slot s.staging).manifest = 1) :
    activateAct .done s = updDone Code.ok 0 (updTo Us.pendingReset ((writeBcr (trialBcr s) s).inc (R.updCtr 1))) := if_pos hm

/-- ACTIVATE of a set whose components are switched at once. -/
theorem activateAct_now (hm : manMode (s.slot s.staging).manifest ≠ 1) (hh : s.holder = 7)
    (hb : s.bankState s.spareBank = Pb.empty ∨ s.bankState s.spareBank = Pb.invalid)
    (hc : compatHas (s.slot s.staging).manifest (tupleOf s.upd.run.hashes) = true) : activateAct .done s =
      activateSteps .done (lockPass (setByUpd s.spareBank true (updTo Us.activating s))) := by
  have hb' : (s.bankState s.spareBank != Pb.empty && s.bankState s.spareBank != Pb.invalid) = false := by
    rcases hb with hb | hb <;> simp [hb]
  have hh' : (setByUpd s.spareBank true (updTo Us.activating s)).holder = 7 := by
    refine Eq.trans ?_ hh
    exact congrArg (getF · _) (State.rd_setFld_ne (s := s) _ _ (by decide))
  simp only [activateAct, hm, hb', hc, if_false, Bool.not_true, Bool.false_eq_true, whenLockFree_free hh']

/-- The record of a trial that waits for the next reset. -/
theorem activateAct_reset_record (hl : s.flash.bcr.length = 2) :
    let u := updDone Code.ok 0 (updTo Us.pendingReset ((writeBcr (trialBcr s) s).inc (R.updCtr 1)))
    u.updState = Us.pendingReset ∧ u.upd.bcr.trial = true ∧ u.upd.bcr.trialSlot = s.staging ∧
      u.flash.bcr = [bcrBytes u.upd.bcr, bcrBytes u.upd.bcr] := by
  intro u
  have hupd : u.upd.bcr = (writeBcr (trialBcr s) s).upd.bcr := congrArg (·.bcr) updDone_upd
  have hflash : u.flash.bcr = (writeBcr (trialBcr s) s).flash.bcr := congrArg (·.bcr) updDone_flash
  refine ⟨updDone_updState.trans (updTo_updState (by decide)), ?_, ?_, ?_⟩
  · rw [hupd, writeBcr_upd]
    rfl
  · rw [hupd, writeBcr_upd]
    rfl
  · rw [hflash, hupd]
    exact writeBcr_copies hl

/-! ### CONFIRM -/

/-- The trial set becomes the confirmed one, first marked and then written. -/
def confirmWritten (s : State) : State :=
  let s := writeBcr { s.upd.bcr with tries := 0, confirming := true } s
  let b := s.upd.bcr
  writeBcr { b with trial := false, confirming := false, confirmed := b.trialSlot, confId := b.trialId, trialId := 0,
                    confArea := if b.dual then 1 - b.confArea else b.confArea, dual := false } s

theorem confirmWritten_bcr : (confirmWritten s).upd.bcr.trial = false ∧ (confirmWritten s).upd.bcr.confirmed = s.upd.bcr.trialSlot := by
  unfold confirmWritten
  dsimp only
  rw [writeBcr_upd]
  exact ⟨rfl, rfl⟩

theorem confirmWritten_copies (hl : s.flash.bcr.length = 2) : (confirmWritten s).flash.bcr =
    [bcrBytes (confirmWritten s).upd.bcr, bcrBytes (confirmWritten s).upd.bcr] :=
  writeBcr_copies (writeBcr_length.trans hl)

/-- The area of the old format is discarded after the record. -/
theorem confirmAct_keeps : (confirmAct s).upd =
      { (confirmWritten s).upd with confirmAt := none, prev := none, trialBoot := false } ∧
    (confirmAct s).flash.bcr = (confirmWritten s).flash.bcr := by
  have harea (c : Bool) (a : Nat) (u : State) : (doIf c (setArea a []) u).upd = u.upd ∧
      (doIf c (setArea a []) u).flash.bcr = u.flash.bcr := by
    cases c <;> exact ⟨rfl, rfl⟩
  constructor
  · exact congrArg (fun u : UpdSt => { u with confirmAt := none, prev := none, trialBoot := false }) (harea _ _ _).1
  · exact (harea _ _ _).2

theorem confirmAct_confirms (hl : s.flash.bcr.length = 2) :
    let u := updDone Code.ok 0 (confirmAct s)
    u.updState = Us.idle ∧ u.upd.bcr.trial = false ∧ u.upd.bcr.confirmed = s.upd.bcr.trialSlot ∧
      u.flash.bcr = [bcrBytes u.upd.bcr, bcrBytes u.upd.bcr] ∧ u.upd.confirmAt = none := by
  intro u
  obtain ⟨hupd, hflash⟩ := confirmAct_keeps (s := s)
  have hu : u.upd = { (confirmAct s).upd with lastCmd := (confirmAct s).now } := updDone_upd
  have hbcr : u.upd.bcr = (confirmWritten s).upd.bcr := by
    rw [hu, hupd]
  refine ⟨updDone_updState.trans (updTo_updState (by decide)), ?_, ?_, ?_, ?_⟩
  · rw [hbcr]
    exact confirmWritten_bcr.1
  · rw [hbcr]
    exact confirmWritten_bcr.2
  · rw [hbcr]
    exact ((congrArg (·.bcr) updDone_flash).trans hflash).trans (confirmWritten_copies hl)
  · rw [hu, hupd]

/-! ### REVERT -/

/-- The state a reversion leaves the session in. -/
def State.revertTo (s : State) : Nat := if s.updState = Us.trial && s.upd.trialBoot then Us.pendingReset else Us.idle

/-- The record is without a trial and the reversion is told, but no command completes yet. -/
def revertTold (cause : Nat) (s : State) : State :=
  let t := dropNewArea s.upd.bcr.noTrial s
  raiseRight 14 Right.update (revertMark s.upd.bcr.trialId cause
    (updTo s.revertTo { t with upd := { t.upd with confirmAt := none } }))

theorem revertEnd_eq {cause : Nat} {cmd : Bool} {f : Option Fail} : revertEnd cause cmd f s =
    doIf cmd (updDone (f.getD (Code.ok, 0)).1 (f.getD (Code.ok, 0)).2) (revertTold cause s) := rfl

theorem revertTo_lt : s.revertTo < 2 ^ fldWidth F.updSessionState := by
  unfold State.revertTo
  split <;> decide

theorem signals_revertMark {id cause : Nat} : Signals s (revertMark id cause s) :=
  (signals_updRecord (by decide) ..).trans ((signals_inc _).trans (signals_setFld ..))

theorem revertTold_upd {cause : Nat} : (revertTold cause s).upd =
    { (dropNewArea s.upd.bcr.noTrial s).upd with confirmAt := none } := by
  unfold revertTold
  dsimp only
  obtain ⟨_, _, _, h⟩ := (signals_revertMark (id := s.upd.bcr.trialId) (cause := cause) (s := updTo s.revertTo
    { dropNewArea s.upd.bcr.noTrial s with upd := { (dropNewArea s.upd.bcr.noTrial s).upd with confirmAt := none } })).trans
      (signals_raiseRight 14 Right.update)
  rw [h]
  rfl

theorem revertTold_record {cause : Nat} : (revertTold cause s).upd.bcr.trial = false ∧ (revertTold cause s).upd.confirmAt = none := by
  rw [revertTold_upd, dropNewArea_upd]
  exact ⟨rfl, rfl⟩

theorem revertMark_reverted {id cause : Nat} : (revertMark id cause s).fld R.updStatus F.updStatusReverted = 1 :=
  State.fld_setFld_same _ (by decide) (by decide)

theorem revertMark_session {id cause : Nat} : (revertMark id cause s).rd R.updSession = s.rd R.updSession := by
  unfold revertMark
  dsimp only
  rw [State.rd_setFld_ne _ _ _ (by decide), State.rd_inc_ne _ (by decide)]
  exact updSession_reg.record (by decide)

theorem revertTold_reverted {cause : Nat} : (revertTold cause s).fld R.updStatus F.updStatusReverted = 1 :=
  (congrArg (getF · _) updStatus_reg.right).trans revertMark_reverted

theorem revertTold_state {cause : Nat} : (revertTold cause s).updState = s.revertTo :=
  (congrArg (getF · _) (updSession_reg.right.trans revertMark_session)).trans (updTo_updState revertTo_lt)

theorem updDone_reverted {code detail : Nat} :
    (updDone code detail s).fld R.updStatus F.updStatusReverted = s.fld R.updStatus F.updStatusReverted := by
  rw [updDone, State.fld, complete_upd_status, getF_setF_ne _ _ _ _ (by decide) (by decide) (by decide),
    getF_setF_ne _ _ _ _ (by decide) (by decide) (by decide), getF_setF_ne _ _ _ _ (by decide) (by decide) (by decide),
    getF_setF_ne _ _ _ _ (by decide) (by decide) (by decide)]
  rfl

/-- A REVERT of a trial boot. -/
theorem revertEnd_command {cause : Nat} : let u := revertEnd cause true none s
    u.upd.bcr.trial = false ∧ u.flag R.updStatus F.updStatusReverted = true ∧ u.upd.confirmAt = none ∧
      u.updState = s.revertTo ∧ u.busy .upd = false := by
  intro u
  have hu : u = updDone Code.ok 0 (revertTold cause s) := revertEnd_eq
  refine ⟨?_, State.flag_eq_of_fld (v := 1) ?_, ?_, ?_, ?_⟩
  · rw [hu, updDone_upd]
    exact revertTold_record.1
  · rw [hu, updDone_reverted]
    exact revertTold_reverted
  · rw [hu, updDone_upd]
    exact revertTold_record.2
  · rw [hu, updDone_updState]
    exact revertTold_state
  · rw [hu]
    exact updDone_free

/-! ### What the acceptance of a command leaves -/

theorem updTaken_state {op : Nat} : (s.updTaken fn op p).updState = s.updState := congrArg (getF · _) (updTaken_rd (by decide))

theorem updTaken_arg {op : Nat} {f : Fld} : (s.updTaken fn op p).fld R.updArg1 f = s.fld R.updArg1 f :=
  congrArg (getF · _) (updTaken_rd (by decide))

theorem updTaken_rcvd {op i : Nat} {f : Fld} : (s.updTaken fn op p).fld (R.updRcvd i) f = s.fld (R.updRcvd i) f :=
  congrArg (getF · _) (updTaken_rd (by simp only [R.updRcvd, R.updStatus]; omega))

theorem updTaken_revertTo {op : Nat} : (s.updTaken fn op p).revertTo = s.revertTo := by
  unfold State.revertTo
  rw [updTaken_state]
  rfl

theorem chunkTaken_updTaken {comp : Nat} {x : Bytes} : chunkTaken comp x (s.updTaken fn 2 p) =
    (setSlot s.staging ((s.slot s.staging).grow (comp - 1) (slice 0 (s.fld R.updArg1 F.updArg1Length) x))
      (s.updTaken fn 2 p)).setFld (R.updRcvd (comp - 1)) F.updRcvdReceived (s.fld R.updArg1 F.updArg1Offset + s.fld R.updArg1 F.updArg1Length) := by
  unfold chunkTaken
  rw [updTaken_arg, updTaken_arg]
  rfl

/-- A command by the holder of the session, in a state that lists it. -/
theorem State.UpdTakes.exec_of {i : Instr} {op comp : Nat} {ok : Bool} {act : Nat → State → State} (h : s.UpdTakes fn p)
    (hi : exec i s = guardWf ok (updIssue fn op comp act s)) (hok : ok = true) (ho : 2 ≤ op ∧ op ≤ 7) (hh : s.updHolder = p)
    (hc : op = 2 → 1 ≤ comp ∧ comp ≤ 5) (ha : updAllowed s op p = true) : exec i s = .next (act p (s.updTaken fn op p)) := by
  rw [hi, upd_takes h.may h.right h.takes h.up h.still ho hh hc ha, hok]
  rfl

theorem State.UpdTakes.exec_write {comp : Nat} {d : Dma} (h : s.UpdTakes fn p) (hh : s.updHolder = p) (hst : s.updState = Us.isOpen)
    (hc : 1 ≤ comp ∧ comp ≤ 5) : exec (.updWrite fn comp d true) s = .next (writeAct p comp d true (s.updTaken fn 2 p)) := by
  refine h.exec_of (act := fun p => writeAct p comp d true) rfl ?_ (by decide) hh (fun _ => hc) (by simp [updAllowed, hst])
  rw [h.may.shape, decide_eq_true (by omega)]
  rfl

theorem State.UpdTakes.exec_confirm (h : s.UpdTakes fn p) (hh : s.updHolder = p) (hst : s.updState = Us.trial) :
    exec (.updConfirm fn) s = .next (updDone Code.ok 0 (confirmAct (s.updTaken fn 5 p))) :=
  h.exec_of (act := fun _ s => updDone Code.ok 0 (confirmAct s)) rfl h.may.shape (by decide) hh (by decide) (by simp [updAllowed, hst])

theorem State.UpdTakes.exec_revert (h : s.UpdTakes fn p) (hh : s.updHolder = p) (hst : s.updState = Us.trial) :
    exec (.updRevert fn) s = .next (revertAct 2 true (s.updTaken fn 6 p)) :=
  h.exec_of (act := fun _ => revertAct 2 true) rfl h.may.shape (by decide) hh (by decide) (by simp [updAllowed, hst])

theorem State.UpdTakes.exec_close (h : s.UpdTakes fn p) (hh : s.updHolder = p)
    (hst : s.updState = Us.idle ∨ s.updState = Us.isOpen ∨ s.updState = Us.verified) :
    exec (.updClose fn) s = .next (closeAct (s.updTaken fn 7 p)) := by
  refine h.exec_of (act := fun _ => closeAct) rfl h.may.shape (by decide) hh (by decide) ?_
  rcases hst with hst | hst | hst <;> simp [updAllowed, hh, hst]

/-- Settles O32: each command is what its act does to the state that has accepted it, and what the act leaves is told by the
lemmas on the record, the slots and the session. -/
theorem updateCommandsRun : Obligations.UpdateCommandsRun := by
  intro s fn p hmay hright htakes hup hstill hslots hbcr t n man
  have h : s.UpdTakes fn p := ⟨hmay, hright, htakes, hup, hstill⟩
  have hp : p < 4 := own_lt hmay.toOwns
  refine ⟨?opened, fun hh => ⟨?write,
    fun hst hhead hall hfree hf => ?verify, fun hst hm => ?reset, fun hst hm hfree hb hc => ?now,
    fun hst => ⟨?confirm, fun hboot => ?revert, fun hboot => ?back⟩, fun hst => ?close⟩⟩
  case opened =>
    intro hh hst ha hl x b hf hfree key hkey
    exact ⟨_, h.exec_open_free hh hst ha hl hf hfree, openFinish_opens (s := s.taken fn .upd 1 p) (by omega) hslots hkey⟩
  case write =>
    intro comp x h1 h5 hst off len total hoff hlen hwhole hfit
    rw [h.exec_write hh hst ⟨h1, h5⟩]
    rw [writeAct_good ⟨h1, h5⟩ (by rw [updTaken_arg, updTaken_rcvd]; exact hoff) (by rw [updTaken_arg]; exact hlen)
      (by rw [updTaken_arg, updTaken_arg]; exact hwhole) (by rw [updTaken_arg, updTaken_arg]; exact hfit), chunkTaken_updTaken]
    rfl
  case verify =>
    refine ⟨_, h.exec_verify hh hst, ?_⟩
    have hall' : s.allReceived = true := hall
    exact verifyAct_good (allReceived_updTaken.trans hall') (updTaken_holder.trans hfree)
      ((congrArg _ (allImgChecks_congr rfl rfl rfl rfl)).trans hf) hslots hhead
  case reset =>
    refine ⟨_, (h.exec_activate hh hst).trans (congrArg _ (activateAct_reset hm)), ?_⟩
    exact activateAct_reset_record (s := s.updTaken fn 4 p) hbcr
  case now =>
    have hspare : (s.updTaken fn 4 p).bankState (s.updTaken fn 4 p).spareBank = s.bankState s.spareBank := updTaken_spareState
    rw [h.exec_activate hh hst, activateAct_now (s := s.updTaken fn 4 p) hm (updTaken_holder.trans hfree) (by rw [hspare]; exact hb) hc]
    rfl
  case confirm => exact ⟨_, h.exec_confirm hh hst, confirmAct_confirms (s := s.updTaken fn 5 p) hbcr⟩
  case revert =>
    have hact : revertAct 2 true (s.updTaken fn 6 p) = revertEnd 2 true none (s.updTaken fn 6 p) := by
      refine if_neg ?_
      have hb : (s.updTaken fn 6 p).upd.trialBoot = true := hboot
      rw [hb, Bool.not_true, Bool.and_false]
      decide
    obtain ⟨htrial, hrev, hat, hstate, hfree⟩ := revertEnd_command (s := s.updTaken fn 6 p) (cause := 2)
    have hto : s.revertTo = Us.pendingReset := if_pos (by rw [hst, hboot]; rfl)
    exact ⟨_, (h.exec_revert hh hst).trans (congrArg _ hact), htrial, hrev, hat, hstate.trans (updTaken_revertTo.trans hto), hfree⟩
  case back =>
    rw [h.exec_revert hh hst, revertAct, if_pos]
    · rfl
    · have hb : (s.updTaken fn 6 p).upd.trialBoot = false := hboot
      rw [hb, updTaken_state, hst]
      rfl
  case close =>
    obtain ⟨hstate, hholder, hhidden, -, hinv⟩ := closeAct_over (s := s.updTaken fn 7 p)
    exact ⟨_, h.exec_close hh hst, hstate, hholder, hhidden, hinv hslots⟩

end Sys2Proof.Machine
end

section
/-! SUPPORT. O33: pre-emption, waits, the lapse of a session and the confirm timer (R442, R443, R449, R452, R459). -/

namespace Sys2Proof.Machine

variable {s : State} {fn : Fn} {p n t : Nat}

/-! ### Pre-emption -/

/-- The record of a pre-emption, the session taken. -/
def sessionTaken (former : Nat) (s : State) : State :=
  updRecord .k 0x004 [(former, 1)] (updHold 0 { s with upd := { s.upd with preempt := false, lastCmd := s.now } })

/-- The session that stands ends, and the command that waits in it completes. -/
def sessionPut (s : State) : State :=
  lapseSession s.updHolder (doIf s.upd.wait.isSome
    (fun s => complete .upd ((Config.preemptCode s.freeCtr).val + 1) 0 { s with freeCtr := s.freeCtr + 1 }) s)

theorem preemptNow_takes (hst : s.updState ≠ Us.activating) : preemptNow s = sessionTaken s.updHolder
    (if s.updState != Us.trial && s.updState != Us.pendingReset && s.updHolder != 7 then sessionPut s else s) := by
  unfold preemptNow
  dsimp only
  rw [if_neg hst]
  rfl

theorem sessionTaken_session {former : Nat} : (sessionTaken former s).rd R.updSession =
    (updHold 0 { s with upd := { s.upd with preempt := false, lastCmd := s.now } }).rd R.updSession :=
  updSession_reg.record (by decide)

theorem sessionTaken_holder {former : Nat} : (sessionTaken former s).updHolder = 0 :=
  (congrArg (getF · F.updSessionHolder) sessionTaken_session).trans (updHold_holder (by decide))

theorem sessionTaken_state {former : Nat} : (sessionTaken former s).updState = s.updState :=
  (congrArg (getF · F.updSessionState) sessionTaken_session).trans updHold_state

theorem sessionTaken_hidden {former : Nat} : (sessionTaken former s).upd.hidden = s.upd.hidden := by
  obtain ⟨_, _, _, h⟩ := (signals_setFld (s := { s with upd := { s.upd with preempt := false, lastCmd := s.now } })
    R.updSession F.updSessionHolder 0).trans (signals_updRecord (by decide) 0x004 [(former, 1)] (sev := .k))
  exact congrArg (·.upd.hidden) h

/-- A session that lapses is over, and told. -/
theorem lapseSession_over {h : Nat} : SessionOver s (lapseSession h s) :=
  endSession_over.of_signals (signals_updRecord (by decide) ..) (updSession_reg.record (by decide))

theorem sessionPut_over : (sessionPut s).updState = Us.idle ∧ (sessionPut s).upd.hidden = [] :=
  ⟨lapseSession_over.state, lapseSession_over.hidden⟩

/-- A session outside an activation and a trial is ended. -/
theorem preemptNow_ends (hst : s.updState ∈ [Us.idle, Us.isOpen, Us.verifying, Us.verified]) (hh : s.updHolder ≠ 7) :
    preemptNow s = sessionTaken s.updHolder (sessionPut s) := by
  have hends : s.updState ≠ Us.activating ∧
      (s.updState != Us.trial && s.updState != Us.pendingReset && s.updHolder != 7) = true := by
    have h7 : (s.updHolder != 7) = true := bne_iff_ne.2 hh
    simp only [List.mem_cons, List.not_mem_nil, or_false] at hst
    rcases hst with hst | hst | hst | hst <;> rw [hst, h7] <;> decide
  rw [preemptNow_takes hends.1, if_pos hends.2]

/-- A trial goes on, and where no session stands none ends. -/
theorem preemptNow_leaves (hst : s.updState = Us.idle ∧ s.updHolder = 7 ∨ s.updState ∈ [Us.trial, Us.pendingReset]) :
    preemptNow s = sessionTaken s.updHolder s := by
  have hleaves : s.updState ≠ Us.activating ∧
      (s.updState != Us.trial && s.updState != Us.pendingReset && s.updHolder != 7) = false := by
    simp only [List.mem_cons, List.not_mem_nil, or_false] at hst
    rcases hst with ⟨hst, hh⟩ | hst | hst
    · rw [hst, hh]
      decide
    · rw [hst]
      exact ⟨by decide, rfl⟩
    · rw [hst]
      exact ⟨by decide, rfl⟩
  rw [preemptNow_takes hleaves.1, hleaves.2, if_neg Bool.false_ne_true]

/-- UPD_PREEMPT by partition 0. -/
theorem exec_updPreempt (h : s.MayWrite fn 0 13) (hr : s.right 0 Right.update = true) :
    exec (.updPreempt fn) s = .next (preemptNow (dropHeld fn s)) := by
  have hr' : (dropHeld fn s).right 0 Right.update = true := hr
  show guardWf _ (access fn R.updPreempt 1 (fun p _ _ s => preemptWrite fn p true s) s) = _
  rw [access_block h (d := _) (ix := _) rfl (by decide) (by decide), h.shape, preemptWrite, hr']
  rfl

theorem preemptNow_activating (hst : s.updState = Us.activating) :
    preemptNow s = { s with upd := { s.upd with preempt := true } } := if_pos hst

/-! ### New firmware, a lapse, the confirm timer -/

theorem latePreempt_idle (h : s.upd.preempt = false) : latePreempt s = s := by
  rw [latePreempt, h]
  rfl

/-- The trial begins: the command completes and the confirm timer starts. -/
def trialBegun (s : State) : State := updDone Code.ok 0 (startConfirm (updTo Us.trial (s.inc (R.updCtr 1))))

theorem signals_trialBegun : ∃ u, Signals u (trialBegun s) ∧ u.upd = { s.upd with confirmAt := some s.now, lastCmd := s.now } ∧
    u.boot = s.boot := ⟨_, updDone_keeps .., rfl, rfl⟩

theorem trialBegun_trial : (trialBegun s).updState = Us.trial ∧ (trialBegun s).boot = s.boot ∧
    (trialBegun s).upd = { s.upd with confirmAt := some s.now, lastCmd := s.now } ∧
    (trialBegun s).fld R.updStatus stCode = Code.ok := by
  obtain ⟨u, ⟨_, _, _, h⟩, hupd, hboot⟩ := signals_trialBegun (s := s)
  refine ⟨updDone_updState.trans (updTo_updState (by decide)), ?_, ?_, updDone_ok⟩
  · rw [h, ← hboot]
  · rw [h, ← hupd]

theorem trialBegun_unpreempted (h : s.upd.preempt = false) : latePreempt (trialBegun s) = trialBegun s := by
  obtain ⟨-, -, hupd, -⟩ := trialBegun_trial (s := s)
  exact latePreempt_idle (by rw [hupd]; exact h)

/-- New steward firmware that reports in time starts the trial. -/
theorem stewardReady_trial (hw : s.upd.readyWait = some t) (hin : s.now ≤ t + msT 500) (hp : s.upd.preempt = false) :
    stewardReady s = trialBegun
      { s with boot := { s.boot with restarting := false }, upd := { s.upd with readyWait := none } } := by
  unfold stewardReady
  rw [hw]
  dsimp only
  rw [if_neg (Nat.not_lt.2 hin)]
  exact trialBegun_unpreempted hp

theorem sessionLapse_due (hlive : (s.updState = Us.idle ∧ s.updHolder ≠ 7) ∨ s.updState = Us.isOpen ∨ s.updState = Us.verified)
    (hb : s.busy .upd = false) (hdue : 600 * ticksPerSec + s.upd.lastCmd ≤ s.now) :
    sessionLapse s = lapseSession s.updHolder s := by
  have hlive' : (s.updState == Us.idle && s.updHolder != 7 || s.updState == Us.isOpen || s.updState == Us.verified) = true := by
    simpa [or_assoc] using hlive
  rw [sessionLapse]
  rw [hlive', hb, decide_eq_true hdue]
  rfl

theorem mcGo_back {k : Back} (hk : s.upd.mcNext = some (.back k)) (ht : s.upd.tload = none) (hv : s.burin.vload = none) :
    mcGo s = backFinish k none { s with upd := { s.upd with mcNext := none } } := by
  rw [mcGo, hk]
  dsimp only
  rw [ht, hv]
  rfl

theorem confirmExpire_due (hat : s.upd.confirmAt = some t) (hst : s.updState = Us.trial) (hn : s.fld R.updCfg F.updCfgConfirmS ≠ 0)
    (hdue : t + s.fld R.updCfg F.updCfgConfirmS * ticksPerSec ≤ s.now) : confirmExpire s = revertAct 0 false s := by
  have hne : (s.fld R.updCfg F.updCfgConfirmS != 0) = true := bne_iff_ne.2 hn
  rw [confirmExpire, hat, hst]
  dsimp only
  rw [hne, decide_eq_true hdue]
  rfl

/-- Settles O33: the events by the lemma on each, and the ends of a session by `SessionOver`. -/
theorem updateEventsEnd : Obligations.UpdateEventsEnd := by
  intro s fn p t n
  refine ⟨fun h hp0 hr => ?preempt, fun hw hdue => ?wait, fun hw hin hp => ?ready, fun hlive hb hdue => ?lapse, fun k => ?micro,
    fun hat hst hn hn0 hdue => ?confirm⟩
  case preempt =>
    subst hp0
    refine ⟨fun hst => ?_, fun hst hh => ?_, fun hst => ?_⟩
    · rw [exec_updPreempt h hr, preemptNow_activating (s := dropHeld fn s) hst]
      rfl
    · refine ⟨_, (exec_updPreempt h hr).trans (congrArg _ (preemptNow_ends (s := dropHeld fn s) hst hh)), sessionTaken_holder, ?_, ?_⟩
      · exact sessionTaken_state.trans sessionPut_over.1
      · exact sessionTaken_hidden.trans sessionPut_over.2
    · exact ⟨_, (exec_updPreempt h hr).trans (congrArg _ (preemptNow_leaves (s := dropHeld fn s) hst)), sessionTaken_holder,
        sessionTaken_state⟩
  case wait =>
    have hend : sealWaitTimeout s =
        updDone Code.timeout 0x4D (updTo Us.isOpen { s with upd := { s.upd with wait := none } }) := by
      rw [sealWaitTimeout, hw]
      exact if_pos hdue
    exact guardWf_of rfl |>.trans (congrArg _ hend)
  case ready =>
    obtain ⟨hstate, hboot, hupd, hcode⟩ := trialBegun_trial
      (s := { s with boot := { s.boot with restarting := false }, upd := { s.upd with readyWait := none } })
    refine ⟨_, congrArg Host.Outcome.next (stewardReady_trial hw hin hp), hstate, ?_, ?_, ?_, hcode⟩
    · rw [hboot]
    · rw [hupd]
    · rw [hupd]
  case lapse =>
    refine ⟨_, congrArg Host.Outcome.next (sessionLapse_due hlive hb hdue), ?_⟩
    exact ⟨lapseSession_over.state, lapseSession_over.holder, lapseSession_over.hidden⟩
  case micro =>
    intro u hk ht hv
    exact congrArg Host.Outcome.next (mcGo_back hk ht hv)
  case confirm =>
    subst hn
    have hact := confirmExpire_due hat hst hn0 hdue
    refine ⟨fun hb => ?_, fun hb => ?_⟩
    · have hend : revertAct 0 false s = revertTold 0 s := if_neg (by rw [hb, Bool.not_true, Bool.and_false]; decide)
      exact ⟨_, congrArg Host.Outcome.next (hact.trans hend), revertTold_record.1, revertTold_record.2,
        State.flag_eq_of_fld revertTold_reverted⟩
    · refine congrArg Host.Outcome.next (hact.trans (if_pos ?_))
      rw [hst, hb]
      rfl

end Sys2Proof.Machine
end

section
/-! SUPPORT. O34: the stages of the boot up to the partition map (R26, R456, R486, R526). -/

namespace Sys2Proof.Machine

variable {s t : State} {n off dir chan : Nat}

/-! ### Stages -/

theorem stageTo_stage (h : n < 256) : (stageTo n s).stage = n := State.fld_setFld_same _ (by decide) h

theorem bootTo_bootStateOf (h : n < 256) : (bootTo n s).bootStateOf = n := State.fld_setFld_same _ (by decide) h

theorem stageTo_bootStateOf : (stageTo n s).bootStateOf = s.bootStateOf :=
  State.fld_setFld_apart _ _ _ _ _ _ (by decide) (by decide) (by decide)

theorem bootTo_stage : (bootTo n s).stage = s.stage :=
  State.fld_setFld_apart _ _ _ _ _ _ (by decide) (by decide) (by decide)

/-- A stage acts after the one before it, and is logged. -/
theorem atStage_acts {act : State → State} (hf : s.boot.failed = false) (hs : s.stage + 1 = n) :
    atStage n act s = uartText (act s) := if_pos (by rw [hs, hf]; simp)

/-- The registers of the boot block, which no interrupt writes. -/
theorem raiseRight_low {src rt : Nat} (h : off < R.intStatus 0) : (raiseRight src rt s).rd off = s.rd off :=
  raiseRight_rd (fun p _ => not_intReg_of_lt h p) s

theorem report_low {d : Die} {cls inst code : Nat} {sev : Sev} {items : List (Nat × Nat)} (hsev : sev ≠ .f)
    (h : off < R.intStatus 0) : (report d cls inst sev code items s).rd off = s.rd off := by
  obtain ⟨b, hb⟩ := report_eq_of_not_fatal (s := s) hsev d cls inst code items
  simp only [R.intStatus] at h
  rw [hb, doIf_rd (raiseBlock_rd fun p _ => not_intReg_of_lt (by simp only [R.intStatus]; omega) p)]
  exact queueRec_rd (by simp only [R.erqStat]; omega) (by simp only [R.erqDropped]; omega)

theorem lateIrq_low (h : off < R.intStatus 0) : (lateIrq s).rd off = s.rd off := by
  unfold lateIrq
  split
  · exact raiseRight_low h
  · rfl

theorem lateIrq_high (h : R.plateCmd ≤ off) : (lateIrq s).rd off = s.rd off := by
  unfold lateIrq
  split
  · exact raiseRight_rd (not_intReg_of_ge h) _
  · rfl

theorem lateIrq_keeps : ∃ w, Signals { s with upd := { s.upd with irqWait := w } } (lateIrq s) := by
  unfold lateIrq
  split
  · exact ⟨false, signals_raiseRight ..⟩
  · exact ⟨s.upd.irqWait, .refl⟩

/-! ### The calibration record -/

/-- The record area after what an interrupted write left. -/
def State.calibAfter (s : State) (k : KeySet) : Bytes :=
  if !calibValid k s.flash.calib && calibValid k s.flash.scratch then s.flash.scratch else s.flash.calib

theorem calibMend_keeps {k : KeySet} : (calibMend k s).flash = { s.flash with calib := s.calibAfter k, scratch := [] } := by
  unfold calibMend State.calibAfter
  dsimp only
  split <;> rfl

/-- The record in the record area is used, or none. -/
def calibUsed (k : KeySet) (s : State) : State :=
  if calibValid k s.flash.calib then
    applyPtp s.flash.calib { s with pwr := { s.pwr with absent := false, record := s.flash.calib, curves := s.flash.calib } }
  else
    report .f 0x0C 0 .k 0x009 [(Config.calibCheck ((calibConds k s.flash.calib).findIdx (fun x => !x)), 1)]
      { s with pwr := { s.pwr with absent := true, record := [], curves := [] } }

theorem calibStage_eq {c : OwnerCfg} (h : s.ownerOf = some c) : calibStage s = stageTo 2 (calibUsed c.updKeys (calibMend c.updKeys s)) := by
  unfold calibStage calibUsed
  rw [h]
  rfl

theorem signals_applyPtp (b : Bytes) : Signals s (applyPtp b s) := .forEach (fun _ _ => signals_wr ..) _

theorem calibUsed_flash {k : KeySet} : (calibUsed k s).flash = s.flash := by
  unfold calibUsed
  split
  · obtain ⟨_, _, _, h⟩ := signals_applyPtp s.flash.calib
      (s := { s with pwr := { s.pwr with absent := false, record := s.flash.calib, curves := s.flash.calib } })
    rw [h]
  · obtain ⟨_, _, _, h⟩ := signals_report (sev := .k) (by decide) .f 0x0C 0 0x009
      [(Config.calibCheck ((calibConds k s.flash.calib).findIdx (fun x => !x)), 1)]
      (s := { s with pwr := { s.pwr with absent := true, record := [], curves := [] } })
    rw [h]

theorem calibUsed_valid {k : KeySet} (h : calibValid k s.flash.calib = true) :
    (calibUsed k s).pwr.absent = false ∧ (calibUsed k s).pwr.curves = s.flash.calib := by
  obtain ⟨_, _, _, hptp⟩ := signals_applyPtp s.flash.calib
    (s := { s with pwr := { s.pwr with absent := false, record := s.flash.calib, curves := s.flash.calib } })
  rw [calibUsed, if_pos h, hptp]
  exact ⟨rfl, rfl⟩

theorem calibUsed_absent {k : KeySet} (h : calibValid k s.flash.calib = false) :
    (calibUsed k s).pwr.absent = true ∧ (calibUsed k s).pwr.curves = [] := by
  obtain ⟨_, _, _, hr⟩ := signals_report (sev := .k) (by decide) .f 0x0C 0 0x009
    [(Config.calibCheck ((calibConds k s.flash.calib).findIdx (fun x => !x)), 1)]
    (s := { s with pwr := { s.pwr with absent := true, record := [], curves := [] } })
  rw [calibUsed, if_neg (by rw [h]; decide), hr]
  exact ⟨rfl, rfl⟩

/-- The boot's second stage. -/
theorem calibStage_reads {c : OwnerCfg} (h : s.ownerOf = some c) :
    (calibStage s).stage = 2 ∧ (calibStage s).flash.scratch = [] ∧
      (calibValid c.updKeys s.flash.calib = true → (calibStage s).pwr.absent = false ∧ (calibStage s).pwr.curves = s.flash.calib) ∧
      (calibValid c.updKeys s.flash.calib = false → calibValid c.updKeys s.flash.scratch = false →
        (calibStage s).pwr.absent = true ∧ (calibStage s).pwr.curves = []) ∧
      (calibValid c.updKeys s.flash.calib = false → calibValid c.updKeys s.flash.scratch = true →
        (calibStage s).pwr.absent = false ∧ (calibStage s).flash.calib = s.flash.scratch ∧
          (calibStage s).pwr.curves = s.flash.scratch) := by
  have hflash : (calibUsed c.updKeys (calibMend c.updKeys s)).flash =
      { s.flash with calib := s.calibAfter c.updKeys, scratch := [] } := calibUsed_flash.trans calibMend_keeps
  have hcalib : (calibMend c.updKeys s).flash.calib = s.calibAfter c.updKeys := congrArg (·.calib) calibMend_keeps
  rw [calibStage_eq h]
  refine ⟨stageTo_stage (by decide), congrArg (·.scratch) hflash, fun hv => ?_, fun hv hs => ?_, fun hv hs => ?_⟩
  · have hafter : s.calibAfter c.updKeys = s.flash.calib := if_neg (by rw [hv]; simp)
    have hused := calibUsed_valid (s := calibMend c.updKeys s) (k := c.updKeys) (by rw [hcalib, hafter]; exact hv)
    rw [hcalib, hafter] at hused
    exact hused
  · have hafter : s.calibAfter c.updKeys = s.flash.calib := if_neg (by rw [hs]; simp)
    exact calibUsed_absent (s := calibMend c.updKeys s) (k := c.updKeys) (by rw [hcalib, hafter]; exact hv)
  · have hafter : s.calibAfter c.updKeys = s.flash.scratch := if_pos (by rw [hv, hs]; rfl)
    have hused := calibUsed_valid (s := calibMend c.updKeys s) (k := c.updKeys) (by rw [hcalib, hafter]; exact hs)
    rw [hcalib, hafter] at hused
    exact ⟨hused.1, (congrArg (·.calib) hflash).trans hafter, hused.2⟩

/-! ### The bridge's wires -/

theorem mapWires_none : mapWires [] dir chan = noWires := by
  have hbyte (i : Nat) : byteAt i [] = 0 := rfl
  simp [mapWires, hbyte, nbit, noWires]

theorem forEach_idle {α : Type} {f : α → State → State} (hf : ∀ a s, f a s = s) (as : List α) : forEach as f s = s :=
  forEach_keeps (fun u => u) hf as

/-- Without a record no wire is mapped. -/
theorem applyWires_none : applyWires [] s = s := by
  refine forEach_idle (fun dir u => forEach_idle (fun c v => ?_) _) _
  rw [mapWires_none]
  rfl

theorem setWires_chan (w : ChanWires) : ((setWires dir chan w s).bridge dir).chan chan = w := by
  rw [setWires, bridge_setBridge]
  exact smapGet_of_find (smapFind_insert_same)

theorem setWires_retired (w : ChanWires) : ((setWires dir chan w s).bridge dir).retired = (s.bridge dir).retired := by
  rw [setWires, bridge_setBridge]

/-- A free spare takes the place of a failed wire. -/
theorem replaceWire_free {wire i : Nat} (h : ((s.bridge dir).chan chan).free = some i) :
    ((replaceWire dir chan wire s).bridge dir).chan chan =
        { (s.bridge dir).chan chan with used := ((s.bridge dir).chan chan).used ++ [(wire, i)] } ∧
      ((replaceWire dir chan wire s).bridge dir).retired = (s.bridge dir).retired := by
  rw [replaceWire]
  dsimp only
  rw [h]
  dsimp only
  rw [(beside_bridgeRecord ..).bridge dir]
  exact ⟨setWires_chan _, setWires_retired _⟩

theorem wireFail_data {wire : Nat} (hw : wire < 40) (hu : ((s.bridge dir).chan chan).used.any (·.1 == wire) = false) :
    wireFail dir chan wire s = replaceWire dir chan wire s := by
  rw [wireFail]
  dsimp only
  rw [if_pos hw, hu, if_neg Bool.false_ne_true]

/-- A spare that no wire uses fails. -/
theorem wireFail_spare {i : Nat} (h : (s.bridge dir).chan chan = noWires) :
    wireFail dir chan (40 + i) s = setWires dir chan { used := [], bad := [i] } s := by
  rw [wireFail]
  dsimp only
  rw [h, if_neg (by omega), Nat.add_sub_cancel_left]
  rfl

theorem replaceWire_none {wire : Nat} (h : ((s.bridge dir).chan chan).free = none) :
    replaceWire dir chan wire s = retireChannel dir chan s := by
  rw [replaceWire, h]

/-- One spare of a channel and one data wire fail: the other spare takes the wire. -/
theorem wires_one_left {w i : Nat} (hw : w < 40) (hi : i < 2) (hnone : (s.bridge dir).chan chan = noWires) :
    let t := wireFail dir chan w (wireFail dir chan (40 + i) s)
    (t.bridge dir).chan chan = { used := [(w, 1 - i)], bad := [i] } ∧ (t.bridge dir).retired = (s.bridge dir).retired := by
  intro t
  have hchan := setWires_chan (s := s) (dir := dir) (chan := chan) { used := [], bad := [i] }
  have hfree : (({ used := [], bad := [i] } : ChanWires)).free = some (1 - i) := by
    obtain rfl | rfl : i = 0 ∨ i = 1 := by omega
    · rfl
    · rfl
  have ht : t = replaceWire dir chan w (setWires dir chan { used := [], bad := [i] } s) := by
    show wireFail dir chan w (wireFail dir chan (40 + i) s) = _
    rw [wireFail_spare hnone, wireFail_data hw (by rw [hchan]; rfl)]
  obtain ⟨hc, hr⟩ := replaceWire_free (wire := w) (by rw [hchan]; exact hfree)
  rw [ht]
  exact ⟨by rw [hc, hchan]; rfl, hr.trans (setWires_retired _)⟩

/-- A third failed wire finds no spare. -/
theorem wires_none_left {v w x : Nat} (hvw : v < w) (hwx : w < x) (hx : x < 40) (hnone : (s.bridge dir).chan chan = noWires) :
    chan ∈ ((wireFail dir chan x (wireFail dir chan w (wireFail dir chan v s))).bridge dir).retired := by
  have h0 : wireFail dir chan v s = replaceWire dir chan v s := wireFail_data (by omega) (by rw [hnone]; rfl)
  obtain ⟨hc1, -⟩ := replaceWire_free (s := s) (wire := v) (dir := dir) (chan := chan) (i := 0) (by rw [hnone]; rfl)
  rw [← h0, hnone] at hc1
  have hne1 : (v == w) = false := beq_false_of_ne (Nat.ne_of_lt hvw)
  have h1 : wireFail dir chan w (wireFail dir chan v s) = replaceWire dir chan w (wireFail dir chan v s) :=
    wireFail_data (by omega) (by rw [hc1]; simp [noWires, hne1])
  obtain ⟨hc2, -⟩ := replaceWire_free (s := wireFail dir chan v s) (wire := w) (dir := dir) (chan := chan) (i := 1)
    (by rw [hc1]; rfl)
  rw [← h1, hc1] at hc2
  have hne2 : (v == x) = false := beq_false_of_ne (by omega)
  have hne3 : (w == x) = false := beq_false_of_ne (by omega)
  rw [wireFail_data hx (by rw [hc2]; simp [noWires, hne2, hne3]), replaceWire_none (by rw [hc2]; rfl)]
  exact retireChannel_retired

theorem chan_of_no_wires (h : (s.bridge dir).wires = []) : (s.bridge dir).chan chan = noWires := by
  rw [BridgeDir.chan, h]
  rfl

/-! ### The set -/

theorem Signals.upd_cfg (h : Signals s t) : t.upd.cfg = s.upd.cfg := by
  obtain ⟨_, _, _, rfl⟩ := h
  rfl

theorem bcrRead_cfg : (bcrRead s).upd.cfg = s.upd.cfg := by
  unfold bcrRead
  dsimp only
  split
  · rfl
  · split
    · exact (signals_updRecord (by decide) ..).upd_cfg
    · rfl

theorem revertMark_cfg {id cause : Nat} : (revertMark id cause s).upd = s.upd := by
  obtain ⟨_, _, _, h⟩ := signals_revertMark (s := s) (id := id) (cause := cause)
  rw [h]

theorem chooseSlot_cfg : (chooseSlot s).2.upd.cfg = s.upd.cfg := by
  unfold chooseSlot
  dsimp only
  split
  · rw [writeBcr_upd]
  · split
    · show (revertMark _ _ _).upd.cfg = _
      rw [revertMark_cfg, dropNewArea_upd]
    · unfold doIf
      split
      · rw [dropNewArea_upd]
      · rfl

theorem setStage_eq {c : OwnerCfg} (h : s.ownerOf = some c) : setStage s =
    let r := chooseSlot (bcrRead { s with upd := { s.upd with cfg := c } })
    stageTo 4 (bootSlot r.1 r.2) := by
  unfold setStage
  rw [h]

theorem setStage_chooses {c : OwnerCfg} (h : s.ownerOf = some c) : (setStage s).stage = 4 ∧ (setStage s).upd.cfg = c := by
  rw [setStage_eq h]
  exact ⟨stageTo_stage (by decide), chooseSlot_cfg.trans bcrRead_cfg⟩

/-- A fallback is told: the trial is over. -/
def fallbackTold (f : Fail) (s : State) : State :=
  ((updRecord .k 0x001 [(s.upd.run.slot, 1), (f.1, 1), (f.2, 1)] (dropNewArea s.upd.bcr.noTrial s)).inc (R.updCtr 4)).setFld
    R.updStatus F.updStatusFallback 1

/-- The source 14 of what has been told waits for the partitions. -/
def irqWaits (s : State) : State := { s with upd := { s.upd with irqWait := true } }

/-- What a fallback leaves (R456). -/
def fallenBack (f : Fail) (s : State) : State := bootSlot s.upd.bcr.confirmed (irqWaits (fallbackTold f s))

variable {k : Nat} {f : Fail} {fall act : State → State}

theorem setOkElse_none (h : slotFail s k s.upd.run.slot = none) : setOkElse k fall act s = act s := by
  unfold setOkElse
  dsimp only
  rw [h]

theorem setOkElse_confirmed (h : slotFail s k s.upd.run.slot = some f)
    (hb : s.upd.bcr.trial = false ∨ s.upd.run.slot ≠ s.upd.bcr.trialSlot) : setOkElse k fall act s = bootFail f s := by
  have hno : (s.upd.bcr.trial && s.upd.run.slot == s.upd.bcr.trialSlot) = false := by
    rcases hb with hb | hb
    · rw [hb, Bool.false_and]
    · rw [beq_false_of_ne hb, Bool.and_false]
  unfold setOkElse
  dsimp only
  rw [h]
  dsimp only
  rw [hno, if_neg Bool.false_ne_true]

theorem setOkElse_trial (h : slotFail s k s.upd.run.slot = some f) (ht : s.upd.bcr.trial = true)
    (hn : s.upd.run.slot = s.upd.bcr.trialSlot) : setOkElse k fall act s =
      match slotFail (fallenBack f s) k s.upd.bcr.confirmed with
      | none => act (fall (fallenBack f s))
      | some g => bootFail g (fallenBack f s) := by
  have hyes : (s.upd.bcr.trial && s.upd.run.slot == s.upd.bcr.trialSlot) = true := by rw [ht, hn, beq_self_eq_true]; rfl
  unfold setOkElse
  dsimp only
  rw [h]
  dsimp only
  rw [hyes, if_pos rfl]
  rfl

theorem bootSlot_rd : (bootSlot n s).rd off = s.rd off := rfl

theorem irqWaits_rd : (irqWaits s).rd off = s.rd off := rfl

theorem fallbackTold_fallback : (fallbackTold f s).fld R.updStatus F.updStatusFallback = 1 :=
  State.fld_setFld_same _ (by decide) (by decide)

theorem signals_fallbackTold : Signals (dropNewArea s.upd.bcr.noTrial s) (fallbackTold f s) :=
  (signals_updRecord (by decide) ..).trans ((signals_inc _).trans (signals_setFld ..))

theorem fallbackTold_upd : (fallbackTold f s).upd = (dropNewArea s.upd.bcr.noTrial s).upd := by
  obtain ⟨_, _, _, h⟩ := signals_fallbackTold (s := s) (f := f)
  rw [h]

theorem fallenBack_fallback : (fallenBack f s).fld R.updStatus F.updStatusFallback = 1 := by
  rw [State.fld, fallenBack, bootSlot_rd, irqWaits_rd]
  exact fallbackTold_fallback

theorem fallenBack_trial : (fallenBack f s).upd.bcr.trial = false := by
  have hbcr : (fallenBack f s).upd.bcr = (fallbackTold f s).upd.bcr := rfl
  rw [hbcr, fallbackTold_upd, dropNewArea_upd]
  rfl

/-- A trial set whose manifest fails: the confirmed set is judged, and the boot goes on or fails. -/
theorem manifest_fallback (h : slotFail s 5 s.upd.run.slot = some f) (ht : s.upd.bcr.trial = true)
    (hn : s.upd.run.slot = s.upd.bcr.trialSlot) : let t := setOkElse 5 id (stageTo 5) s
    t.flag R.updStatus F.updStatusFallback = true ∧ t.upd.run.slot = s.upd.bcr.confirmed ∧ t.upd.bcr.trial = false := by
  have hslot : (fallenBack f s).upd.run.slot = s.upd.bcr.confirmed := rfl
  have hfall := fallenBack_fallback (s := s) (f := f)
  have htrial := fallenBack_trial (s := s) (f := f)
  intro t
  have hcases : t = _ := setOkElse_trial h ht hn
  rw [hcases]
  generalize fallenBack f s = u at hslot hfall htrial ⊢
  split
  · refine ⟨State.flag_eq_of_fld (v := 1) ?_, hslot, htrial⟩
    rw [State.fld, stageTo, State.rd_setFld_ne _ _ _ (by decide)]
    exact hfall
  · refine ⟨State.flag_eq_of_fld (v := 1) ?_, hslot, htrial⟩
    refine Eq.trans (congrArg (getF · _) ?_) hfall
    exact (State.rd_setFld_ne _ _ _ (by decide)).trans (State.rd_setFld_ne _ _ _ (by decide))

end Sys2Proof.Machine
end

section
/-! SUPPORT. O34: the stages of the boot from the partition map to READY (R527, R529, R530). -/

namespace Sys2Proof.Machine

variable {s t : State} {n off k l : Nat}

/-! ### The partition map and the images -/

theorem pmapStage_maps : (pmapStage s).stage = 6 ∧ (pmapStage s).locked = true := by
  unfold pmapStage
  dsimp only
  generalize forEach [0, 1, 2, 3] (pmapRecord _) _ = u
  have hrd (o : Nat) (h : o < R.intStatus 0) : (lateIrq (portsOn (stageTo 6 (u.setFld R.pmapLock F.pmapLockPmapLock 1)))).rd o =
      (stageTo 6 (u.setFld R.pmapLock F.pmapLockPmapLock 1)).rd o := (lateIrq_low h).trans portsOn_rd
  constructor
  · exact (congrArg (getF · _) (hrd R.bootState (by decide))).trans (stageTo_stage (by decide))
  · refine State.flag_eq_of_fld (v := 1) ((congrArg (getF · _) (hrd R.pmapLock (by decide))).trans ?_)
    exact (congrArg (getF · _) (State.rd_setFld_ne _ _ _ (by decide))).trans (State.fld_setFld_same _ (by decide) (by decide))

theorem setHidden_keeps {key : Bytes} : (setHidden key s).boot = s.boot ∧ (setHidden key s).plate = s.plate := ⟨rfl, rfl⟩

/-- Under the key of a slot only what the act does is done, and the hidden slot holds again what it held. -/
theorem underKey_hidden {act : State → State} : (underKey n act s).upd.hidden = s.upd.hidden := by
  unfold underKey
  split
  · rfl
  · rfl

theorem underKey_boot {act : State → State} (h : ∀ u, (act u).boot = u.boot) : (underKey n act s).boot = s.boot := by
  unfold underKey
  split
  · rfl
  · exact h _

theorem underKey_ok {act : State → State} {key : Bytes} (h : s.slotKey n = .ok key) :
    underKey n act s = setHidden s.upd.hidden (act (setHidden key s)) := by
  unfold underKey
  rw [h]

theorem loadVendor_boot {b : Bytes} : (loadVendor b s).boot = s.boot := by
  unfold loadVendor
  split <;> rfl

theorem bootMicro_keeps : (bootMicro s).boot = s.boot ∧ (bootMicro s).upd.hidden = s.upd.hidden :=
  ⟨underKey_boot fun _ => loadVendor_boot, underKey_hidden⟩

theorem lateIrq_boot : (lateIrq s).boot = s.boot := by
  obtain ⟨_, _, _, _, h⟩ := lateIrq_keeps (s := s)
  rw [h]

theorem lateIrq_hidden : (lateIrq s).upd.hidden = s.upd.hidden := by
  obtain ⟨_, _, _, _, h⟩ := lateIrq_keeps (s := s)
  rw [h]

theorem lateIrq_plate : (lateIrq s).plate = s.plate := by
  obtain ⟨_, _, _, _, h⟩ := lateIrq_keeps (s := s)
  rw [h]

/-- The steward firmware runs. -/
def stewardUp (s : State) : State := { s with boot := { s.boot with stewardUp := true } }

theorem imageStage_eq : imageStage s = lateIrq (stageTo 7 (bootTo 2 (bootMicro (stewardUp s)))) := rfl

theorem stageTo_boot : (stageTo n (bootTo k s)).boot = s.boot := rfl

theorem stageTo_upd : (stageTo n (bootTo k s)).upd = s.upd := rfl

theorem imageStage_runs : (imageStage s).stage = 7 ∧ (imageStage s).bootStateOf = 2 ∧ (imageStage s).boot.stewardUp = true ∧
    (imageStage s).upd.hidden = s.upd.hidden := by
  have hreg : (imageStage s).rd R.bootState = (stageTo 7 (bootTo 2 (bootMicro (stewardUp s)))).rd R.bootState :=
    lateIrq_low (by decide)
  refine ⟨(congrArg (getF · _) hreg).trans (stageTo_stage (by decide)),
    (congrArg (getF · _) hreg).trans (stageTo_bootStateOf.trans (bootTo_bootStateOf (by decide))), ?_, ?_⟩
  · rw [imageStage_eq, lateIrq_boot, stageTo_boot, bootMicro_keeps.1]
    rfl
  · rw [imageStage_eq, lateIrq_hidden, stageTo_upd, bootMicro_keeps.2]
    rfl

/-! ### HBM -/

/-- The end of a stack's training, by the boot code's list. -/
def hbmTold (stack : Nat) (ok : Bool) (s : State) : State :=
  { s with boot := { s.boot with
    hbmDone := s.boot.hbmDone.set stack true
    hbmBad := s.boot.hbmBad.set stack (!ok)
    seeds := s.boot.seeds.set stack
      (if s.pwr.record.isEmpty then [] else slice (0x3000 + 4096 * ((stack + 1) % 5)) 4096 s.pwr.record) } }

/-- A stack that did not train is out of service. -/
def hbmOut (stack : Nat) (s : State) : State := (if stack = 4 then f0Fail else failStack stack) s

/-- With the last stack the stage is done. -/
def hbmEnd (s : State) : State := doIf (s.boot.hbmDone.all id) (fun s => stageTo 8 (bootTo 3 s)) s

theorem hbmStage_eq {ok : Bool} : hbmStage n ok s = hbmEnd (doIf (!ok) (hbmOut n) (hbmTold n ok s)) := rfl

theorem hbmEnd_boot : (hbmEnd s).boot = s.boot := by
  unfold hbmEnd doIf
  split <;> rfl

theorem hbmEnd_stages : (s.boot.hbmDone.all id = true → (hbmEnd s).stage = 8 ∧ (hbmEnd s).bootStateOf = 3) ∧
    (s.boot.hbmDone.all id = false → (hbmEnd s).stage = s.stage) := by
  constructor
  · intro h
    rw [hbmEnd, h, doIf_true]
    exact ⟨stageTo_stage (by decide), stageTo_bootStateOf.trans (bootTo_bootStateOf (by decide))⟩
  · intro h
    rw [hbmEnd, h]
    rfl

theorem hbmEnd_rd (h : off ≠ R.bootState) : (hbmEnd s).rd off = s.rd off :=
  doIf_rd (fun _ => (State.rd_setFld_ne _ _ _ h).trans (State.rd_setFld_ne _ _ _ h)) s

/-- The boot's notes after a stack is taken out. -/
theorem hbmOut_boot : (hbmOut n s).boot = if n = 4 then { s.boot with f0Out := true } else s.boot := by
  unfold hbmOut
  split
  · exact (works_report .refl).boot
  · exact (works_failStack .refl).boot

theorem exec_hbmTrainingDone {ok : Bool} (hn : n < 5) (hf : s.boot.failed = false) (hs : s.stage = 7)
    (hd : s.boot.hbmDone.getD n true = false) : exec (.hbmTrainingDone n ok) s = .next (uartText (hbmStage n ok s)) := by
  show guardWf (n < 5) (if s.boot.hbmDone.getD n true then s else atStage 8 (hbmStage n ok) s) = _
  rw [guardWf_of (decide_eq_true hn), hd, if_neg Bool.false_ne_true, atStage_acts hf (by rw [hs])]

theorem hbmStage_trained (hs : s.stage = 7) : (hbmStage n true s).boot.hbmDone = s.boot.hbmDone.set n true ∧
    ((s.boot.hbmDone.set n true).all id = true → (hbmStage n true s).stage = 8 ∧ (hbmStage n true s).bootStateOf = 3) ∧
    ((s.boot.hbmDone.set n true).all id = false → (hbmStage n true s).stage = 7) := by
  have heq : hbmStage n true s = hbmEnd (hbmTold n true s) := rfl
  rw [heq]
  obtain ⟨hall, hnot⟩ := hbmEnd_stages (s := hbmTold n true s)
  exact ⟨congrArg (·.hbmDone) hbmEnd_boot, hall, fun h => (hnot h).trans hs⟩

theorem hbmStage_out (hn : n < 5) : (hbmStage n false s).boot.hbmDone = s.boot.hbmDone.set n true ∧
    (n < 4 → (hbmStage n false s).stackState n = 3) ∧ (n = 4 → (hbmStage n false s).boot.f0Out = true) := by
  have heq : hbmStage n false s = hbmEnd (hbmOut n (hbmTold n false s)) := rfl
  have hboot : (hbmStage n false s).boot =
      if n = 4 then { (hbmTold n false s).boot with f0Out := true } else (hbmTold n false s).boot := by
    rw [heq, hbmEnd_boot, hbmOut_boot]
  refine ⟨?_, fun h4 => ?_, fun h4 => ?_⟩
  · rw [hboot]
    split <;> rfl
  · have hne : R.bpmStack n ≠ R.bootState := by
      simp only [R.bpmStack, R.bootState]
      omega
    rw [heq, State.stackState, State.fld, hbmEnd_rd hne, hbmOut, if_neg (by omega)]
    exact failStack_failed h4
  · rw [hboot, if_pos h4]

/-! ### The plate -/

/-- A set that passes every check has its content key. -/
theorem slotKey_of_slotFail (h : slotFail s 10 n = none) : ∃ key, s.slotKey n = .ok key := by
  unfold slotFail at h
  split at h
  · cases h
  · rw [if_neg (by decide)] at h
    split at h
    · cases h
    · rw [if_neg (by decide)] at h
      unfold slotPlateFail at h
      split at h
      · cases h
      · next key hkey => exact ⟨key, hkey⟩

theorem plateStage_live (h : slotFail s 10 s.upd.run.slot = none) :
    (plateStage s).stage = 10 ∧ (plateStage s).plate.live = some 0 ∧ (plateStage s).bankState 0 = Pb.live := by
  obtain ⟨key, hkey⟩ := slotKey_of_slotFail h
  unfold plateStage
  dsimp only
  rw [underKey_ok hkey]
  generalize plateProof 0 _ _ = u
  refine ⟨?_, ?_, ?_⟩
  · rw [State.stage, State.fld, lateIrq_low (by decide)]
    exact stageTo_stage (by decide)
  · rw [lateIrq_plate]
    exact congrArg (·.1) goLive_swapView
  · rw [State.bankState, State.fld, lateIrq_high (by decide), stageTo, State.rd_setFld_ne _ _ _ (by decide), setHidden_rd]
    exact goLive_bankState (by decide)

/-! ### The trace check -/

/-- The register that names a lane whose trace did not come back. -/
def failReg (l : Nat) : Nat := if l < 64 then R.bootFabFail0 else R.bootFabFail1

theorem failReg_low : failReg l < R.intStatus 0 := by
  unfold failReg
  split <;> decide

theorem traceFail_rd_low (h : off < R.intStatus 0) :
    (traceFail l s).rd off = if off = failReg l then setBit (s.rd off) (l % 64) true else s.rd off := by
  unfold traceFail
  dsimp only
  rw [report_low (by decide) h]
  by_cases ho : off = failReg l
  · rw [if_pos ho, ho]
    exact State.rd_wr_same ..
  · rw [if_neg ho]
    exact State.rd_wr_ne _ _ ho

theorem traceFail_rd_unit (hge : R.plateCmd ≤ off) (hlt : off < R.erqStat 0) : (traceFail l s).rd off = s.rd off := by
  have hne : off ≠ failReg l := fun he => by
    have h1 := failReg_low (l := l)
    have h2 : R.intStatus 0 < R.plateCmd := by decide
    omega
  unfold traceFail
  dsimp only
  rw [report_rd_of_unit (by decide) hge hlt]
  exact State.rd_wr_ne _ _ hne

/-- What a lane accepted in the check is shown. -/
def traceShown (l : Nat) (str : Bytes) (s : State) : State :=
  setLaneStat l F.fabLaneStatTraceMatch (b2n (str == bootTrace l)) (setLaneStat l F.fabLaneStatTraceDone 1
    (forEach (List.range 8) (fun i s => s.wr (R.fabTtiAcc l i) (wordAt i str)) s))

/-- The check of a lane before it returns to EN 0. -/
def traceJudged (echo : List (Nat × List Bytes)) (l : Nat) (s : State) : State :=
  match bootAccepted echo l with
  | none => traceFail l s
  | some str => doIf (!(str == bootTrace l)) (traceFail l) (traceShown l str s)

theorem traceLane_eq {echo : List (Nat × List Bytes)} (h : (traceJudged echo l s).laneEn l = false) :
    traceLane echo l s = traceJudged echo l s := by
  unfold traceLane
  dsimp only
  refine Eq.trans (b := doIf ((traceJudged echo l s).laneEn l) _ (traceJudged echo l s)) rfl ?_
  rw [h]
  rfl

theorem traceShown_rd {str : Bytes} (h1 : ∀ i < 8, off ≠ R.fabTtiAcc l i) (h2 : off ≠ R.fabLaneStat l) :
    (traceShown l str s).rd off = s.rd off := by
  unfold traceShown
  rw [setLaneStat, State.rd_setFld_ne _ _ _ h2, setLaneStat, State.rd_setFld_ne _ _ _ h2]
  exact forEach_rd (f := fun i (u : State) => u.wr (R.fabTtiAcc l i) (wordAt i str))
    (fun i hi u => State.rd_wr_ne u _ (h1 i (List.mem_range.1 hi))) s

theorem traceShown_rd_low {str : Bytes} (h : off < R.intStatus 0) : (traceShown l str s).rd off = s.rd off := by
  simp only [R.intStatus] at h
  refine traceShown_rd (fun i _ => ?_) ?_
  · simp only [R.fabTtiAcc]
    omega
  · simp only [R.fabLaneStat]
    omega

theorem traceShown_cfg {str : Bytes} (hl : l < 120) (hk : k < 120) : (traceShown l str s).rd (R.fabLaneCfg k) = s.rd (R.fabLaneCfg k) := by
  refine traceShown_rd (fun i hi => ?_) ?_
  · simp only [R.fabTtiAcc, R.fabLaneCfg]
    omega
  · simp only [R.fabLaneStat, R.fabLaneCfg]
    omega

variable {echo : List (Nat × List Bytes)}

theorem traceJudged_cfg (hl : l < 120) (hk : k < 120) : (traceJudged echo l s).rd (R.fabLaneCfg k) = s.rd (R.fabLaneCfg k) := by
  have hge : R.plateCmd ≤ R.fabLaneCfg k := by
    simp only [R.plateCmd, R.fabLaneCfg]
    omega
  have hlt : R.fabLaneCfg k < R.erqStat 0 := by
    simp only [R.erqStat, R.fabLaneCfg]
    omega
  unfold traceJudged
  split
  · exact traceFail_rd_unit hge hlt
  · exact (doIf_rd (fun _ => traceFail_rd_unit hge hlt) _).trans (traceShown_cfg hl hk)

/-- The bit of a lane in the list of those that failed, after the check of a lane. -/
theorem traceJudged_bit (hl : l < 120) (hk : k < 120) : bitOf ((traceJudged echo k s).rd (failReg l)) (l % 64) =
    if k = l ∧ bootAccepted echo l ≠ some (bootTrace l) then true else bitOf (s.rd (failReg l)) (l % 64) := by
  have hbit (u : State) : bitOf ((traceFail k u).rd (failReg l)) (l % 64) =
      if k = l then true else bitOf (u.rd (failReg l)) (l % 64) := by
    rw [traceFail_rd_low failReg_low]
    by_cases hreg : failReg l = failReg k
    · rw [if_pos hreg, bitOf_setBit _ (Nat.mod_lt k (by decide)) (Nat.mod_lt l (by decide))]
      have hsame : l % 64 = k % 64 ↔ k = l := by
        constructor
        · intro h
          have hside : (l < 64) = (k < 64) := by
            unfold failReg at hreg
            by_cases h1 : l < 64 <;> by_cases h2 : k < 64 <;> simp [h1, h2, R.bootFabFail0, R.bootFabFail1] at hreg ⊢
          have hside' : l < 64 ↔ k < 64 := iff_of_eq hside
          omega
        · exact fun h => by rw [h]
      simp only [hsame]
    · have hne : k ≠ l := fun h => hreg (by rw [h])
      rw [if_neg hreg, if_neg hne]
  unfold traceJudged
  split
  · next hacc =>
    rw [hbit]
    by_cases hkl : k = l
    · subst hkl
      simp [hacc]
    · simp [hkl]
  · next str hacc =>
    by_cases hstr : str = bootTrace k
    · have hgood : (!(str == bootTrace k)) = false := by simp [hstr]
      rw [hgood, doIf, if_neg Bool.false_ne_true, traceShown_rd_low failReg_low, if_neg]
      rintro ⟨rfl, hbad⟩
      exact hbad (by rw [hacc, hstr])
    · have hbad : (!(str == bootTrace k)) = true := by simp [hstr]
      rw [hbad, doIf, if_pos rfl, hbit, traceShown_rd_low failReg_low]
      by_cases hkl : k = l
      · subst hkl
        rw [if_pos rfl, if_pos ⟨rfl, by rw [hacc]; exact fun h => hstr (Option.some.inj h)⟩]
      · rw [if_neg hkl, if_neg (fun h => hkl h.1)]

theorem traceJudged_boot : (traceJudged echo l s).boot = s.boot := by
  have hfail (u : State) : (traceFail l u).boot = u.boot := by
    unfold traceFail
    dsimp only
    exact (beside_report ..).boot
  have hshown (str : Bytes) : (traceShown l str s).boot = s.boot :=
    ((Beside.forEach (fun _ _ => beside_wr ..) _).trans ((beside_setFld ..).trans (beside_setFld ..))).boot
  unfold traceJudged
  split
  · exact hfail s
  · exact (doIf_keeps State.boot hfail _ _).trans (hshown _)

/-- The check of the lanes of a list, none of which is enabled, so that none has to return to EN 0. -/
theorem traceLanes_judge (as : List Nat) (has : ∀ a ∈ as, a < 120) (hen : ∀ l < 120, s.laneEn l = false) :
    (forEach as (traceLane echo) s).boot = s.boot ∧ ∀ l < 120,
      bitOf ((forEach as (traceLane echo) s).rd (failReg l)) (l % 64) =
        if l ∈ as ∧ bootAccepted echo l ≠ some (bootTrace l) then true else bitOf (s.rd (failReg l)) (l % 64) := by
  induction as generalizing s with
  | nil => exact ⟨rfl, fun l _ => by simp [forEach]⟩
  | cons a as ih =>
    have ha : a < 120 := has a List.mem_cons_self
    have hen' : ∀ l < 120, (traceJudged echo a s).laneEn l = false := fun l hl =>
      (congrArg (getF · F.fabLaneCfgEn != 0) (traceJudged_cfg ha hl)).trans (hen l hl)
    have hstep : forEach (a :: as) (traceLane echo) s = forEach as (traceLane echo) (traceJudged echo a s) :=
      congrArg (forEach as (traceLane echo)) (traceLane_eq (hen' a ha))
    obtain ⟨hboot, hbits⟩ := ih (fun x hx => has x (List.mem_cons_of_mem _ hx)) hen'
    rw [hstep]
    refine ⟨hboot.trans traceJudged_boot, fun l hl => ?_⟩
    rw [hbits l hl, traceJudged_bit hl ha]
    by_cases hbad : bootAccepted echo l = some (bootTrace l)
    · simp [hbad]
    · by_cases hla : l = a
      · subst hla
        simp [hbad]
      · simp [hbad, hla, Ne.symm hla]

/-- The trace check begins with its flag set. -/
def traceBegun (s : State) : State := { s with boot := { s.boot with traceDone := true } }

theorem traceStage_names (hen : ∀ l < 120, s.laneEn l = false) :
    (traceStage echo s).stage = 11 ∧ (traceStage echo s).boot.traceDone = true ∧ ∀ l < 120,
      bitOf ((traceStage echo s).rd (failReg l)) (l % 64) =
        if bootAccepted echo l ≠ some (bootTrace l) then true else bitOf (s.rd (failReg l)) (l % 64) := by
  obtain ⟨hboot, hbits⟩ := traceLanes_judge (echo := echo) (s := traceBegun s) (List.range 120)
    (fun a h => List.mem_range.1 h) hen
  refine ⟨stageTo_stage (by decide), congrArg (·.traceDone) hboot, fun l hl => ?_⟩
  have hne : failReg l ≠ R.bootState := by
    unfold failReg
    split <;> decide
  have hrd : (traceStage echo s).rd (failReg l) = (forEach (List.range 120) (traceLane echo) (traceBegun s)).rd (failReg l) :=
    State.rd_setFld_ne _ _ _ hne
  rw [hrd, hbits l hl]
  simp only [List.mem_range, hl, true_and]
  rfl

/-! ### READY -/

theorem readyStage_ready : (readyStage s).stage = 12 ∧ (readyStage s).bootStateOf = 4 ∧ (readyStage s).boot.ready = true := by
  have htrial (u : State) : (trialReady u).rd R.bootState = u.rd R.bootState ∧ (trialReady u).boot = u.boot := by
    unfold trialReady
    dsimp only
    split
    · exact ⟨State.rd_setFld_ne (s := { u with upd := { u.upd with trialBoot := true } }) _ _ (by decide), rfl⟩
    · exact ⟨rfl, rfl⟩
  have harea (u : State) : (eraseOldArea u).rd R.bootState = u.rd R.bootState ∧ (eraseOldArea u).boot = u.boot := by
    unfold eraseOldArea doIf
    split <;> exact ⟨rfl, rfl⟩
  unfold readyStage
  dsimp only
  refine ⟨?_, ?_, ?_⟩
  · rw [State.stage, State.fld, (htrial _).1, (harea _).1]
    exact stageTo_stage (by decide)
  · rw [State.bootStateOf, State.fld, (htrial _).1, (harea _).1]
    exact stageTo_bootStateOf.trans (bootTo_bootStateOf (by decide))
  · rw [(htrial _).2, (harea _).2]
    rfl

/-- Settles O34: each stage acts once after the one before it, and what its work leaves is told by the lemmas on the stage. -/
theorem bootStagesFollow : Obligations.BootStagesFollow := by
  intro s hf
  have hstage {j m : Nat} {act : State → State} (hs : s.stage = j) (hm : j + 1 = m) :
      guardWf true (atStage m act s) = .next (uartText (act s)) := by rw [guardWf_true, atStage_acts hf (by rw [hs, hm])]
  refine ⟨fun hs c hc => ⟨_, hstage hs rfl, calibStage_reads hc⟩, fun hs failed hok => ?wires, ?spares,
    fun hs c hc => ⟨_, hstage hs rfl, setStage_chooses hc⟩, fun hs => ?manifest, fun hs => ⟨_, hstage hs rfl, pmapStage_maps⟩,
    fun hs hset => ?images, fun hs n hn hd => ⟨_, exec_hbmTrainingDone hn hf hs hd, hbmStage_trained hs⟩,
    fun hs n hn hd => ⟨_, exec_hbmTrainingDone hn hf hs hd, hbmStage_out hn⟩, fun hs => hstage hs rfl,
    fun hs hset => ?plate, fun hs echo hecho hen => ?trace, fun hs hc => ?ready⟩
  case wires =>
    show guardWf _ (atStage 3 (wireStage failed) s) = _
    rw [hok]
    exact hstage hs rfl
  case spares =>
    intro dir chan hs hd hc hret hrec hnone
    have hwires (failed : List (Nat × Nat)) (hok : failed.all (fun w => w.1 < 96 && w.2 < 42) = true) :
        exec (.bridgeWireTest failed) s = .next (uartText (stageTo 3
          (forEach failed (fun w s => wireFail (w.1 / 48) (w.1 % 48) w.2 s) s))) := by
      show guardWf _ (atStage 3 (wireStage failed) s) = _
      rw [hok, hstage hs rfl, wireStage, hrec, applyWires_none]
    have hdiv : (48 * dir + chan) / 48 = dir := by omega
    have hmod : (48 * dir + chan) % 48 = chan := by omega
    have hch : 48 * dir + chan < 96 := by omega
    have hchan := chan_of_no_wires (chan := chan) hnone
    refine ⟨fun w i hw hi => ?_, fun v w x hvw hwx hx => ?_⟩
    · obtain ⟨hused, hkept⟩ := wires_one_left (s := s) (chan := chan) hw hi hchan
      refine ⟨_, hwires _ (by simp [hch]; omega), stageTo_stage (by decide), ?_, ?_⟩
      · simp only [forEach, List.foldl, hdiv, hmod]
        exact hused
      · simp only [forEach, List.foldl, hdiv, hmod]
        exact fun h => hret (hkept ▸ h)
    · refine ⟨_, hwires _ (by simp [hch]; omega), stageTo_stage (by decide), ?_⟩
      simp only [forEach, List.foldl, hdiv, hmod]
      exact wires_none_left hvw hwx hx hchan
  case manifest =>
    refine ⟨fun h => ?_, fun f h hb => ?_, fun f h ht hn => ⟨_, hstage hs rfl, manifest_fallback h ht hn⟩⟩
    · exact (hstage hs rfl).trans (congrArg _ (congrArg uartText (setOkElse_none h)))
    · exact (hstage hs rfl).trans (congrArg _ (congrArg uartText (setOkElse_confirmed h hb)))
  case images =>
    exact ⟨_, (hstage hs rfl).trans (congrArg _ (congrArg uartText (setOkElse_none hset))), imageStage_runs⟩
  case plate =>
    exact ⟨_, (hstage hs rfl).trans (congrArg _ (congrArg uartText (setOkElse_none hset))), plateStage_live hset⟩
  case trace =>
    have hexec : exec (.bootTraceCheck echo) s = .next (uartText (traceStage echo s)) := by
      show guardWf _ (atStage 11 (traceStage echo) s) = _
      rw [hecho]
      exact hstage hs rfl
    obtain ⟨hst, hdone, hbits⟩ := traceStage_names (echo := echo) hen
    refine ⟨_, hexec, hst, hdone, fun l hl => ⟨fun hacc => ?_, fun hacc => ?_⟩⟩
    · exact (hbits l hl).trans (if_neg (fun h => h hacc))
    · exact (hbits l hl).trans (if_pos hacc)
  case ready =>
    have hexec : exec .ready s = .next (uartText (readyStage s)) := by
      show guardWf true (if s.readyConds then atStage 12 readyStage s else s) = _
      rw [if_pos hc]
      exact hstage hs rfl
    exact ⟨_, hexec, readyStage_ready⟩

end Sys2Proof.Machine
end

section
/-! SUPPORT. What a step leaves alone, operation by operation and from every state: the waiting commands, the owner
configuration, what has left the device. The operations of Ops, Operands, Bridge, Line, Rings, Parser, Tables. -/

namespace Sys2Proof.Machine

variable {s t : State}

-- Each proof waits for the ones it cites: elaborated in turn, no thread stands waiting for another.
set_option Elab.async false

/-! ### What leaves the rest alone, put together -/

theorem State.Leaves.refl (s : State) : s.Leaves s := ⟨rfl, rfl, List.suffix_rfl⟩

theorem State.Leaves.trans {u : State} (h : s.Leaves t) (k : t.Leaves u) : s.Leaves u :=
  ⟨k.queue.trans h.queue, k.owner.trans h.owner, h.said.trans k.said⟩

/-- The same, the last operation named first. -/
theorem State.Leaves.after {u : State} (k : t.Leaves u) (h : s.Leaves t) : s.Leaves u := h.trans k

theorem leaves_wr (off : Nat) (v : Word) : s.Leaves (s.wr off v) := ⟨rfl, rfl, List.suffix_rfl⟩

theorem leaves_emit (o : Out) : s.Leaves (s.emit o) := ⟨rfl, rfl, List.suffix_cons ..⟩

theorem leaves_doIf {b : Bool} {f : State → State} (hf : ∀ s : State, s.Leaves (f s)) : s.Leaves (doIf b f s) := by
  cases b <;> [exact .refl s; exact hf s]

theorem leaves_forEach {α : Type} {as : List α} {f : α → State → State} (hf : ∀ a s, State.Leaves s (f a s)) :
    s.Leaves (forEach as f s) := by
  unfold forEach
  induction as generalizing s with
  | nil => exact .refl s
  | cons a as ih => exact (hf a s).trans ih

/-! ### Ops -/

theorem leaves_setErq {d : Die} {q : List ErqRec} : s.Leaves (setErq d q s) := by
  cases d <;> exact ⟨rfl, rfl, List.suffix_rfl⟩

theorem leaves_setFld {off : Nat} {f : Fld} {v : Nat} : s.Leaves (s.setFld off f v) := by
  unfold State.setFld
  grind [State.Leaves, List.IsSuffix.trans, leaves_wr]

theorem leaves_bump {off n : Nat} : s.Leaves (s.bump off n) := by
  unfold State.bump
  grind [State.Leaves, List.IsSuffix.trans, leaves_wr]

theorem leaves_inc {off : Nat} : s.Leaves (s.inc off) := by
  unfold State.inc
  grind [State.Leaves, List.IsSuffix.trans, leaves_bump]

theorem leaves_sendMsi {p src : Nat} : s.Leaves (sendMsi p src s) := by
  unfold sendMsi
  grind [State.Leaves, List.IsSuffix.trans, leaves_emit]

theorem leaves_intWrite {p src0 n statOff enOff : Nat} {stat en : Word} :
    s.Leaves (intWrite p src0 n statOff enOff stat en s) := by
  unfold intWrite
  grind [State.Leaves, List.IsSuffix.trans, doIf, leaves_forEach, leaves_wr, leaves_sendMsi]

theorem leaves_raiseSrc {p src : Nat} : s.Leaves (raiseSrc p src s) := by
  unfold raiseSrc
  grind [State.Leaves, List.IsSuffix.trans, leaves_intWrite]

theorem leaves_raiseBlock {src blk : Nat} : s.Leaves (raiseBlock src blk s) := by
  unfold raiseBlock
  grind [State.Leaves, List.IsSuffix.trans, doIf, leaves_forEach, leaves_raiseSrc]

theorem leaves_raiseRight {src right : Nat} : s.Leaves (raiseRight src right s) := by
  unfold raiseRight
  grind [State.Leaves, List.IsSuffix.trans, doIf, leaves_forEach, leaves_raiseSrc]

theorem leaves_raiseFatal {src : Nat} : s.Leaves (raiseFatal src s) := by
  unfold raiseFatal
  grind [State.Leaves, List.IsSuffix.trans, leaves_forEach, leaves_wr, leaves_sendMsi]

theorem leaves_mfPulse : s.Leaves (mfPulse s) := by
  unfold mfPulse
  grind [State.Leaves, List.IsSuffix.trans, leaves_emit]

theorem leaves_twinTo {st : Nat} : s.Leaves (twinTo st s) := by
  unfold twinTo
  grind [State.Leaves, List.IsSuffix.trans, doIf, leaves_setFld, leaves_raiseBlock]

theorem leaves_twinFall : s.Leaves (twinFall s) := by
  unfold twinFall
  grind [State.Leaves, List.IsSuffix.trans, leaves_twinTo]

theorem leaves_report {d : Die} {cls inst : Nat} {sev : Sev} {code : Nat} {items : List (Nat × Nat)} :
    s.Leaves (report d cls inst sev code items s) := by
  unfold report
  extract_lets unit cw now r n s1 q merged s2
  have h1 : s.Leaves s1 :=
    leaves_doIf fun _ => leaves_setFld.trans (leaves_forEach fun _ _ => leaves_wr _ _)
  have h2 : s.Leaves s2 := by
    unfold s2
    rcases merged with _ | q' <;> dsimp only
    · split
      · exact h1.trans leaves_setErq
      · exact h1.trans (leaves_setFld.trans leaves_inc)
    · exact h1.trans leaves_setErq
  split
  · exact h2.trans (leaves_raiseFatal.trans (leaves_doIf fun _ => leaves_twinFall))
  · exact h2.trans (leaves_doIf fun _ => leaves_raiseBlock)

theorem leaves_denied {fn : Fn} {off acc : Nat} : s.Leaves (denied fn off acc s) := by
  unfold denied
  grind [State.Leaves, List.IsSuffix.trans, leaves_report]

theorem leaves_quiesceLog {fn : Fn} {off acc : Nat} : s.Leaves (quiesceLog fn off acc s) := by
  unfold quiesceLog
  grind [State.Leaves, List.IsSuffix.trans, leaves_report]

theorem leaves_dropHeld {fn : Fn} : s.Leaves (dropHeld fn s) := by
  unfold dropHeld
  grind [State.Leaves, List.IsSuffix.trans]

theorem leaves_access {fn : Fn} {off acc : Nat} {k : Nat → RegDesc → List Nat → State → State}
    (hk : ∀ x0 x1 x2 (s : State), s.Leaves (k x0 x1 x2 s)) :
    s.Leaves (access fn off acc k s) := by
  unfold access
  grind [State.Leaves, List.IsSuffix.trans, leaves_denied, leaves_dropHeld]

theorem leaves_doneIrq {i : Ifc} : s.Leaves (doneIrq i s) := by
  unfold doneIrq
  grind [State.Leaves, List.IsSuffix.trans, doIf, leaves_raiseSrc, leaves_raiseBlock, leaves_raiseRight]

theorem leaves_accept {i : Ifc} {op p : Nat} : s.Leaves (accept i op p s) := by
  unfold accept
  grind [State.Leaves, List.IsSuffix.trans, leaves_wr]

theorem leaves_complete {i : Ifc} {code detail : Nat} : s.Leaves (complete i code detail s) := by
  unfold complete
  grind [State.Leaves, List.IsSuffix.trans, leaves_wr, leaves_doneIrq]

theorem leaves_overrun {i : Ifc} : s.Leaves (overrun i s) := by
  unfold overrun
  grind [State.Leaves, List.IsSuffix.trans, leaves_setFld]

theorem leaves_flashTo {f : FlashSt → FlashSt} (hf : ∀ x : FlashSt, (f x).owner = x.owner) : s.Leaves (flashTo f s) :=
  ⟨rfl, hf _, List.suffix_rfl⟩

theorem leaves_orHold {h : HeldCmd} {act : State → State} (hact : ∀ s : State, s.Leaves (act s)) :
    s.Leaves (orHold h act s) := by
  unfold orHold
  grind [State.Leaves, List.IsSuffix.trans]

theorem leaves_issue {i : Ifc} {op p : Nat} {act : State → State} (hact : ∀ s : State, s.Leaves (act s)) :
    s.Leaves (issue i op p act s) := by
  unfold issue
  grind [State.Leaves, List.IsSuffix.trans, leaves_accept, leaves_complete, leaves_overrun]

theorem leaves_failCmd {i : Ifc} {fn : Fn} {code : Nat} : s.Leaves (failCmd i fn code s) := by
  unfold failCmd
  grind [State.Leaves, List.IsSuffix.trans, doIf, leaves_denied, leaves_complete]

theorem leaves_runChecks {i : Ifc} {fn : Fn} {checks : List (Bool × Nat)} {act : State → State}
    (hact : ∀ s : State, s.Leaves (act s)) :
    s.Leaves (runChecks i fn checks act s) := by
  unfold runChecks
  grind [State.Leaves, List.IsSuffix.trans, leaves_failCmd]

theorem leaves_setData {off : Nat → Nat} {n : Nat} {b : Bytes} : s.Leaves (setData off n b s) := by
  unfold setData
  grind [State.Leaves, List.IsSuffix.trans, leaves_forEach, leaves_wr]

/-! ### Operands -/

theorem leaves_touchPair {p : Packet} : s.Leaves (touchPair p s) := by
  unfold touchPair
  grind [State.Leaves, List.IsSuffix.trans]

theorem leaves_notePass {role : Nat} : s.Leaves (notePass role s) := by
  unfold notePass
  grind [State.Leaves, List.IsSuffix.trans]

theorem leaves_touchOld {id : Nat} : s.Leaves (touchOld id s) := by
  unfold touchOld
  grind [State.Leaves, List.IsSuffix.trans, leaves_touchPair]

theorem leaves_setPkt {id : Nat} {p : Packet} : s.Leaves (setPkt id p s) := by
  unfold setPkt
  grind [State.Leaves, List.IsSuffix.trans, leaves_touchPair, leaves_touchOld]

theorem leaves_erasePkt {id : Nat} : s.Leaves (erasePkt id s) := by
  unfold erasePkt
  grind [State.Leaves, List.IsSuffix.trans, leaves_touchOld]

theorem leaves_newPkt {p : Packet} : s.Leaves (newPkt p s) := by
  unfold newPkt
  grind [State.Leaves, List.IsSuffix.trans, leaves_touchPair]

theorem leaves_setBank {b : Nat} {k : PlateBank} : s.Leaves (setBank b k s) := by
  unfold setBank
  grind [State.Leaves, List.IsSuffix.trans]

theorem leaves_marker {stream seq : Nat} : s.Leaves (marker stream seq s) := by
  unfold marker
  grind [State.Leaves, List.IsSuffix.trans]

theorem leaves_leaveHole {id : Nat} : s.Leaves (leaveHole id s) := by
  unfold leaveHole
  grind [State.Leaves, List.IsSuffix.trans, doIf, leaves_erasePkt, leaves_marker]

theorem leaves_arrive {r id : Nat} : s.Leaves (arrive r id s) := by
  unfold arrive
  grind [State.Leaves, List.IsSuffix.trans]

/-! ### Bridge -/

theorem leaves_setBridge {dir : Nat} {b : BridgeDir} : s.Leaves (setBridge dir b s) := by
  unfold setBridge
  grind [State.Leaves, List.IsSuffix.trans]

theorem leaves_bridgeRouted {dir id : Nat} {b : Bytes} : s.Leaves (bridgeRouted dir id b s) := by
  unfold bridgeRouted
  grind [State.Leaves, List.IsSuffix.trans, leaves_setBridge]

theorem leaves_bridgeTail {dir id : Nat} {b : Bytes} : s.Leaves (bridgeTail dir id b s) := by
  unfold bridgeTail
  grind [State.Leaves, List.IsSuffix.trans, leaves_setBridge, leaves_bridgeRouted]

theorem leaves_bridgeSched {dir : Nat} {b : Bytes} : s.Leaves (bridgeSched dir b s) := by
  unfold bridgeSched
  grind [State.Leaves, List.IsSuffix.trans, leaves_setBridge]

theorem leaves_bridgeRecord {dir chan : Nat} {sev : Sev} {code : Nat} : s.Leaves (bridgeRecord dir chan sev code s) := by
  unfold bridgeRecord
  grind [State.Leaves, List.IsSuffix.trans, leaves_report]

theorem leaves_retireChannel {dir chan : Nat} : s.Leaves (retireChannel dir chan s) := by
  unfold retireChannel
  grind [State.Leaves, List.IsSuffix.trans, doIf, leaves_setBridge, leaves_bridgeRecord]

theorem leaves_takeFlits {dir id : Nat} : s.Leaves (takeFlits dir id s) := by
  unfold takeFlits
  grind [State.Leaves, List.IsSuffix.trans, leaves_setBridge]

theorem leaves_flitGood {dir seq : Nat} {copy : Bytes} : s.Leaves (flitGood dir seq copy s) := by
  unfold flitGood
  grind [State.Leaves, List.IsSuffix.trans, leaves_emit, leaves_setBridge]

theorem leaves_flitBad {dir chan seq : Nat} : s.Leaves (flitBad dir chan seq s) := by
  unfold flitBad
  grind [State.Leaves, List.IsSuffix.trans, leaves_emit, leaves_setBridge, leaves_bridgeRecord, leaves_retireChannel]

theorem leaves_flitReceive {dir chan seq : Nat} {crcOk : Bool} {flit : Bytes} :
    s.Leaves (flitReceive dir chan seq crcOk flit s) := by
  unfold flitReceive
  grind [State.Leaves, List.IsSuffix.trans, leaves_emit, leaves_setBridge, leaves_flitGood, leaves_flitBad]

theorem leaves_setWires {dir chan : Nat} {w : ChanWires} : s.Leaves (setWires dir chan w s) := by
  unfold setWires
  grind [State.Leaves, List.IsSuffix.trans, leaves_setBridge]

theorem leaves_replaceWire {dir chan wire : Nat} : s.Leaves (replaceWire dir chan wire s) := by
  unfold replaceWire
  grind [State.Leaves, List.IsSuffix.trans, leaves_bridgeRecord, leaves_retireChannel, leaves_setWires]

theorem leaves_wireFail {dir chan wire : Nat} : s.Leaves (wireFail dir chan wire s) := by
  unfold wireFail
  grind [State.Leaves, List.IsSuffix.trans, leaves_setWires, leaves_replaceWire]

theorem leaves_applyWires {rec_ : Bytes} : s.Leaves (applyWires rec_ s) := by
  unfold applyWires
  grind [State.Leaves, List.IsSuffix.trans, doIf, leaves_forEach, leaves_setWires]

/-! ### Line -/

theorem leaves_setStream {n : Nat} {r : Reorder} : s.Leaves (setStream n r s) := by
  unfold setStream
  grind [State.Leaves, List.IsSuffix.trans]

theorem leaves_countLate {n : Nat} : s.Leaves (countLate n s) := by
  unfold countLate
  grind [State.Leaves, List.IsSuffix.trans, leaves_inc]

theorem leaves_countSkip {n : Nat} : s.Leaves (countSkip n s) := by
  unfold countSkip
  grind [State.Leaves, List.IsSuffix.trans, leaves_inc]

theorem leaves_advanceE {n : Nat} : s.Leaves (advanceE n s) := by
  unfold advanceE
  grind [State.Leaves, List.IsSuffix.trans, leaves_setStream]

theorem leaves_toBridge {r id : Nat} {p : Packet} : s.Leaves (toBridge r id p s) := by
  unfold toBridge
  grind [State.Leaves, List.IsSuffix.trans, leaves_setPkt, leaves_arrive, leaves_bridgeRouted]

theorem leaves_sendReordered {id : Nat} {p : Packet} : s.Leaves (sendReordered id p s) := by
  unfold sendReordered
  grind [State.Leaves, List.IsSuffix.trans, leaves_toBridge]

theorem leaves_releaseRun {n fuel : Nat} : s.Leaves (releaseRun n fuel s) := by
  induction fuel generalizing s with
  | zero => exact .refl s
  | succ fuel ih =>
    unfold releaseRun
    dsimp only
    split
    · exact leaves_advanceE.trans ih
    · split
      · split
        · exact leaves_advanceE.trans (leaves_sendReordered.trans ih)
        · exact .refl s
      · exact .refl s

theorem leaves_release {n : Nat} : s.Leaves (release n s) := by
  unfold release
  grind [State.Leaves, List.IsSuffix.trans, leaves_releaseRun]

theorem leaves_holeArrives {n seq : Nat} : s.Leaves (holeArrives n seq s) := by
  unfold holeArrives
  grind [State.Leaves, List.IsSuffix.trans, leaves_setStream, leaves_countLate, leaves_release]

theorem leaves_countBad {port : Nat} {b : BadTail} : s.Leaves (countBad port b s) := by
  unfold countBad
  grind [State.Leaves, List.IsSuffix.trans, leaves_inc]

theorem leaves_countFec {port : Nat} {fec : Fec} : s.Leaves (countFec port fec s) := by
  unfold countFec
  grind [State.Leaves, List.IsSuffix.trans, leaves_bump]

theorem leaves_countRx {port len : Nat} {fec : Fec} : s.Leaves (countRx port len fec s) := by
  unfold countRx
  grind [State.Leaves, List.IsSuffix.trans, leaves_bump, leaves_inc, leaves_countFec]

theorem leaves_countStomp {port : Nat} {b : BadTail} : s.Leaves (countStomp port b s) := by
  unfold countStomp
  grind [State.Leaves, List.IsSuffix.trans, leaves_inc, leaves_countBad]

theorem leaves_admitTo {n pipe : Nat} {p : Packet} : s.Leaves (admitTo n pipe p s) := by
  unfold admitTo
  grind [State.Leaves, List.IsSuffix.trans, leaves_notePass, leaves_newPkt, leaves_setStream]

theorem leaves_spread {port : Nat} {bytes : Bytes} {whole : Bool} : s.Leaves (spread port bytes whole s) := by
  unfold spread
  grind [State.Leaves, List.IsSuffix.trans, leaves_inc, leaves_admitTo]

theorem leaves_clearCur {port : Nat} : s.Leaves (clearCur port s) := by
  unfold clearCur
  grind [State.Leaves, List.IsSuffix.trans]

theorem leaves_headerSegment {port : Nat} {seg : Bytes} {whole bad : Bool} {fec : Fec} :
    s.Leaves (headerSegment port seg whole bad fec s) := by
  unfold headerSegment
  grind [State.Leaves, List.IsSuffix.trans, leaves_inc, leaves_countFec, leaves_countRx, leaves_spread, leaves_clearCur]

theorem leaves_lenLate {p : Packet} {len : Nat} : s.Leaves (lenLate p len s) := by
  unfold lenLate
  grind [State.Leaves, List.IsSuffix.trans, doIf, leaves_inc]

theorem leaves_tailOf {port id : Nat} {rest : Bytes} {had : Nat} {b : Option BadTail} :
    s.Leaves (tailOf port id rest had b s) := by
  unfold tailOf
  split
  · exact .refl s
  · extract_lets u rest' p'
    have hu : s.Leaves u := leaves_doIf fun _ => leaves_lenLate
    clear_value u p'
    refine hu.trans ?_
    rcases b with _ | why <;>
      grind [State.Leaves, List.IsSuffix.trans, leaves_setPkt, leaves_erasePkt, leaves_bridgeTail, leaves_holeArrives,
        leaves_countBad, leaves_countStomp]

theorem leaves_frameTail {port : Nat} {rest : Bytes} {tail : Tail} {fec : Fec} : s.Leaves (frameTail port rest tail fec s) := by
  unfold frameTail
  grind [State.Leaves, List.IsSuffix.trans, doIf, leaves_inc, leaves_countBad, leaves_countRx, leaves_clearCur, leaves_tailOf]

theorem leaves_holdPrio {port quanta prio : Nat} : s.Leaves (holdPrio port quanta prio s) := by
  unfold holdPrio
  grind [State.Leaves, List.IsSuffix.trans, leaves_setFld]

theorem leaves_controlFrame {port len : Nat} {bad : Bool} {fec : Fec} {k : State → State} (hk : ∀ s : State, s.Leaves (k s)) :
    s.Leaves (controlFrame port len bad fec k s) := by
  unfold controlFrame
  grind [State.Leaves, List.IsSuffix.trans, doIf, leaves_inc, leaves_countRx, leaves_clearCur]

theorem leaves_pauseReceive {port len : Nat} {bad : Bool} {quanta : Nat} {fec : Fec} :
    s.Leaves (pauseReceive port len bad quanta fec s) := by
  unfold pauseReceive
  grind [State.Leaves, List.IsSuffix.trans, doIf, leaves_forEach, leaves_inc, leaves_holdPrio, leaves_controlFrame]

theorem leaves_pfcReceive {port len : Nat} {bad : Bool} {enables : BitVec 8} {quanta : List Nat} {fec : Fec} :
    s.Leaves (pfcReceive port len bad enables quanta fec s) := by
  unfold pfcReceive
  grind [State.Leaves, List.IsSuffix.trans, doIf, leaves_forEach, leaves_inc, leaves_holdPrio, leaves_controlFrame]

theorem leaves_pauseEnd {port : Nat} : s.Leaves (pauseEnd port s) := by
  unfold pauseEnd
  grind [State.Leaves, List.IsSuffix.trans, doIf, leaves_forEach, leaves_holdPrio]

theorem leaves_sendPause {port prio quanta : Nat} : s.Leaves (sendPause port prio quanta s) := by
  unfold sendPause
  grind [State.Leaves, List.IsSuffix.trans, leaves_emit, leaves_inc]

theorem leaves_xoffNow {port prio : Nat} : s.Leaves (xoffNow port prio s) := by
  unfold xoffNow
  grind [State.Leaves, List.IsSuffix.trans, leaves_sendPause]

theorem leaves_xonNow {port prio : Nat} : s.Leaves (xonNow port prio s) := by
  unfold xonNow
  grind [State.Leaves, List.IsSuffix.trans, leaves_sendPause]

theorem leaves_xoffAgain {port prio : Nat} : s.Leaves (xoffAgain port prio s) := by
  unfold xoffAgain
  grind [State.Leaves, List.IsSuffix.trans, leaves_sendPause]

theorem leaves_setMacQueue {port : Nat} {l : List MacItem} : s.Leaves (setMacQueue port l s) := by
  unfold setMacQueue
  grind [State.Leaves, List.IsSuffix.trans]

theorem leaves_macPush {port : Nat} {m : MacItem} : s.Leaves (macPush port m s) := by
  unfold macPush
  grind [State.Leaves, List.IsSuffix.trans, leaves_setMacQueue]

theorem leaves_tsPush {port tag : Nat} : s.Leaves (tsPush port tag s) := by
  unfold tsPush
  grind [State.Leaves, List.IsSuffix.trans, leaves_inc]

theorem leaves_sendFrame {port : Nat} {b : Bytes} {stomp sched : Bool} : s.Leaves (sendFrame port b stomp sched s) := by
  unfold sendFrame
  grind [State.Leaves, List.IsSuffix.trans, doIf, leaves_emit, leaves_bump, leaves_inc]

theorem leaves_sendSched {port : Nat} {b : Bytes} {at_ : Nat} : s.Leaves (sendSched port b at_ s) := by
  unfold sendSched
  grind [State.Leaves, List.IsSuffix.trans, leaves_emit, leaves_bump, leaves_inc]

theorem leaves_sendRouted {port : Nat} {p : Packet} : s.Leaves (sendRouted port p s) := by
  unfold sendRouted
  grind [State.Leaves, List.IsSuffix.trans, leaves_tsPush, leaves_sendFrame]

theorem leaves_dropMacQueue {port : Nat} : s.Leaves (dropMacQueue port s) := by
  unfold dropMacQueue
  grind [State.Leaves, List.IsSuffix.trans, leaves_forEach, leaves_inc, leaves_erasePkt, leaves_setMacQueue]

theorem leaves_linkChange {port : Nat} {up lf rf : Bool} {fec : Fec} : s.Leaves (linkChange port up lf rf fec s) := by
  unfold linkChange
  grind [State.Leaves, List.IsSuffix.trans, doIf, leaves_setFld, leaves_countFec, leaves_frameTail, leaves_dropMacQueue]

theorem leaves_reorderArrival {n seq : Nat} : s.Leaves (reorderArrival n seq s) := by
  unfold reorderArrival
  split
  · split
    · exact .refl s
    · split
      · split
        · exact leaves_erasePkt.trans (leaves_countBad.trans leaves_holeArrives)
        · exact leaves_setPkt.trans leaves_release
      · exact leaves_erasePkt.trans leaves_countLate
  · grind [State.Leaves, List.IsSuffix.trans, leaves_holeArrives]

theorem leaves_reorderTimeout {n : Nat} : s.Leaves (reorderTimeout n s) := by
  unfold reorderTimeout
  grind [State.Leaves, List.IsSuffix.trans, leaves_report, leaves_countSkip, leaves_advanceE, leaves_release]

theorem leaves_toMac {id : Nat} {p : Packet} : s.Leaves (toMac id p s) := by
  unfold toMac
  grind [State.Leaves, List.IsSuffix.trans, leaves_inc, leaves_setPkt, leaves_erasePkt, leaves_macPush]

/-! ### Rings -/

theorem leaves_dmaFault {part : Nat} : s.Leaves (dmaFault part s) := by
  unfold dmaFault
  grind [State.Leaves, List.IsSuffix.trans, leaves_report]

theorem leaves_ringAdvance {p r : Nat} : s.Leaves (ringAdvance p r s) := by
  unfold ringAdvance
  grind [State.Leaves, List.IsSuffix.trans, leaves_setFld]

theorem leaves_ringIrq {p r : Nat} : s.Leaves (ringIrq p r s) := by
  unfold ringIrq
  grind [State.Leaves, List.IsSuffix.trans, doIf, leaves_raiseSrc]

theorem leaves_rxComplete {p r : Nat} : s.Leaves (rxComplete p r s) := by
  unfold rxComplete
  grind [State.Leaves, List.IsSuffix.trans, leaves_ringIrq]

theorem leaves_rxCoal {p r : Nat} : s.Leaves (rxCoal p r s) := by
  unfold rxCoal
  grind [State.Leaves, List.IsSuffix.trans, doIf, leaves_ringIrq]

theorem leaves_ringWrite {id : Nat} : s.Leaves (ringWrite id s) := by
  unfold ringWrite
  grind [State.Leaves, List.IsSuffix.trans, leaves_emit, leaves_inc, leaves_erasePkt, leaves_rxComplete]

theorem leaves_ringDeliver {id q r reason : Nat} {p : Packet} {desc : Dma} {dmaOk : Bool} :
    s.Leaves (ringDeliver id q r reason p desc dmaOk s) := by
  unfold ringDeliver
  grind [State.Leaves, List.IsSuffix.trans, leaves_inc, leaves_setPkt, leaves_erasePkt, leaves_dmaFault, leaves_ringAdvance,
    leaves_ringWrite]

theorem leaves_goesOn {p : Packet} : s.Leaves (goesOn p s) := by
  unfold goesOn
  grind [State.Leaves, List.IsSuffix.trans, leaves_countStomp]

theorem leaves_trapPacket {id q r reason : Nat} {x : StageIn} : s.Leaves (trapPacket id q r reason x s) := by
  unfold trapPacket
  grind [State.Leaves, List.IsSuffix.trans, doIf, leaves_marker, leaves_ringDeliver, leaves_goesOn]

theorem leaves_txDone {p r code : Nat} : s.Leaves (txDone p r code s) := by
  unfold txDone
  grind [State.Leaves, List.IsSuffix.trans, doIf, leaves_emit, leaves_inc, leaves_ringAdvance, leaves_ringIrq]

theorem leaves_txSend {p len : Nat} {f : Bytes} : s.Leaves (txSend p len f s) := by
  unfold txSend
  grind [State.Leaves, List.IsSuffix.trans, leaves_toBridge]

theorem leaves_txDescriptor {p r : Nat} {desc frame : Dma} : s.Leaves (txDescriptor p r desc frame s) := by
  unfold txDescriptor
  grind [State.Leaves, List.IsSuffix.trans, doIf, leaves_inc, leaves_dmaFault, leaves_txDone, leaves_txSend]

/-! ### Parser -/

theorem leaves_withPlateWords {id : Nat} {p : Packet} {reads : List Nat} {k : State → State}
    (hk : ∀ s : State, s.Leaves (k s)) : s.Leaves (withPlateWords id p reads k s) := by
  unfold withPlateWords
  extract_lets b new u
  have hu : s.Leaves u := (leaves_forEach fun _ _ => leaves_report).after leaves_setBank
  clear_value u
  split
  · exact leaves_leaveHole.after hu
  · exact hk s

theorem leaves_countFlags {pipe flags : Nat} : s.Leaves (countFlags pipe flags s) := by
  unfold countFlags
  grind [State.Leaves, List.IsSuffix.trans, doIf, leaves_inc]

theorem leaves_lateBefore {p : Packet} {effEnd : Option Nat} : s.Leaves (lateBefore p effEnd s) := by
  unfold lateBefore
  grind [State.Leaves, List.IsSuffix.trans, doIf, leaves_lenLate]

theorem leaves_packetParse {id : Nat} {x : StageIn} : s.Leaves (packetParse id x s) := by
  unfold packetParse
  grind [State.Leaves, List.IsSuffix.trans, leaves_inc, leaves_setPkt, leaves_leaveHole, leaves_trapPacket,
    leaves_withPlateWords, leaves_countFlags, leaves_lateBefore]

/-! ### Tables -/

theorem leaves_setEm {t : Nat} {tab : SMap Bytes} : s.Leaves (setEm t tab s) := by
  unfold setEm
  grind [State.Leaves, List.IsSuffix.trans]

theorem leaves_clearBad {table pipe i : Nat} : s.Leaves (clearBad table pipe i s) := by
  unfold clearBad
  grind [State.Leaves, List.IsSuffix.trans]

theorem leaves_markBad {table pipe i : Nat} : s.Leaves (markBad table pipe i s) := by
  unfold markBad
  grind [State.Leaves, List.IsSuffix.trans]

theorem leaves_tellOnce {inst table i code : Nat} : s.Leaves (tellOnce inst table i code s) := by
  unfold tellOnce
  grind [State.Leaves, List.IsSuffix.trans, leaves_report]

theorem leaves_countCorr {x : Ecc} : s.Leaves (countCorr x s) := by
  unfold countCorr
  grind [State.Leaves, List.IsSuffix.trans, doIf, leaves_inc]

theorem leaves_learnEvent {type pipe : Nat} {key : Bytes} {old new : Nat} : s.Leaves (learnEvent type pipe key old new s) := by
  unfold learnEvent
  grind [State.Leaves, List.IsSuffix.trans, doIf, leaves_emit, leaves_setFld, leaves_inc, leaves_raiseSrc]

theorem leaves_entryLost {t slot ctr : Nat} : s.Leaves (entryLost t slot ctr s) := by
  unfold entryLost
  grind [State.Leaves, List.IsSuffix.trans, doIf, leaves_inc, leaves_report, leaves_setEm, leaves_learnEvent]

theorem leaves_agerVisit {pipe slot : Nat} : s.Leaves (agerVisit pipe slot s) := by
  unfold agerVisit
  grind [State.Leaves, List.IsSuffix.trans, leaves_inc, leaves_setEm, leaves_learnEvent]

theorem leaves_scrub {table pipe i : Nat} {ecc : Ecc} : s.Leaves (scrub table pipe i ecc s) := by
  unfold scrub
  grind [State.Leaves, List.IsSuffix.trans, leaves_inc, leaves_report, leaves_markBad, leaves_entryLost]

theorem leaves_tblStore {o : TblOp} : s.Leaves (tblStore o s) := by
  unfold tblStore
  grind [State.Leaves, List.IsSuffix.trans, leaves_clearBad]

theorem leaves_tblInsertAll {x : TblOp} {r : State × Nat × Nat} (e : tblInsertAll s x = some r) : s.Leaves r.1 := by
  unfold tblInsertAll at e
  suffices ∀ (ts : List Nat) (a : Option (State × Nat × Nat)), (∀ y ∈ a, s.Leaves y.1) →
      ∀ y ∈ ts.foldl (fun a t =>
        match a with
        | none => none
        | some (s, _, _) =>
          (emInsert t (s.emBuckets t) 32 (emImage t x.data) (s.emTab t)).map (fun r => (setEm t r.1 s, r.2.1, r.2.2))) a,
        s.Leaves y.1 from this _ _ (by rintro y ⟨⟩; exact .refl s) r e
  intro ts
  induction ts with
  | nil => exact fun a ha => ha
  | cons t ts ih =>
    refine fun a ha => ih _ fun z hz => ?_
    cases a with
    | none => cases hz
    | some b =>
      obtain ⟨r, -, rfl⟩ := Option.map_eq_some_iff.1 hz
      exact (ha b rfl).trans leaves_setEm

theorem leaves_tblInsertAll' {x : TblOp} {a b : Nat} (e : tblInsertAll s x = some (t, a, b)) : s.Leaves t :=
  leaves_tblInsertAll (r := (t, a, b)) e

theorem leaves_tblDeleteAll {x : TblOp} (e : tblDeleteAll s x = some t) : s.Leaves t := by
  unfold tblDeleteAll at e
  suffices ∀ (ts : List Nat) (a : Option State), (∀ y ∈ a, s.Leaves y) →
      ∀ y ∈ ts.foldl (fun a t =>
        match a with
        | none => none
        | some s =>
          (emFind t (s.emBuckets t) (emKey t x.data) (s.emTab t)).map (fun i =>
            setEm t (emPut t i (zeros (emSize t)) (s.emTab t)) s)) a,
        s.Leaves y from this _ _ (by rintro y ⟨⟩; exact .refl s) t e
  intro ts
  induction ts with
  | nil => exact fun a ha => ha
  | cons t ts ih =>
    refine fun a ha => ih _ fun z hz => ?_
    cases a with
    | none => cases hz
    | some b =>
      obtain ⟨r, -, rfl⟩ := Option.map_eq_some_iff.1 hz
      exact (ha b rfl).trans leaves_setEm

theorem leaves_tblCommitRoot {o : TblOp} : s.Leaves (tblCommitRoot o s) := by
  unfold tblCommitRoot
  grind [State.Leaves, List.IsSuffix.trans, leaves_wr]

theorem leaves_tblRead {p : Nat} {o : TblOp} {ecc : Ecc} : s.Leaves (tblRead p o ecc s) := by
  unfold tblRead
  grind [State.Leaves, List.IsSuffix.trans, doIf, leaves_inc, leaves_report, leaves_complete, leaves_setData]

theorem leaves_tblLookup {p : Nat} {o : TblOp} : s.Leaves (tblLookup p o s) := by
  unfold tblLookup
  grind [State.Leaves, List.IsSuffix.trans, leaves_setFld, leaves_complete, leaves_setData]

theorem leaves_tblPerform {p : Nat} {o : TblOp} {ecc : Ecc} : s.Leaves (tblPerform p o ecc s) := by
  unfold tblPerform
  dsimp only
  split
  · exact leaves_tblStore.trans leaves_complete
  · exact leaves_tblRead
  · split
    · exact leaves_complete
    · next e => exact (leaves_tblInsertAll' e).trans (leaves_setFld.trans (leaves_setFld.trans leaves_complete))
  · split
    · exact leaves_complete
    · next e => exact (leaves_tblDeleteAll e).trans leaves_complete
  · exact leaves_tblLookup
  · exact (leaves_inc (off := R.tblDevCtr 3)).trans ⟨rfl, rfl, List.suffix_rfl⟩
  · exact leaves_tblCommitRoot.trans leaves_complete

theorem leaves_tblCommand {fn : Fn} {p : Nat} {w : Word} {ecc : Ecc} : s.Leaves (tblCommand fn p w ecc s) := by
  unfold tblCommand
  grind [State.Leaves, List.IsSuffix.trans, doIf, leaves_setFld, leaves_issue, leaves_runChecks, leaves_tblPerform]

theorem leaves_tblIssue {fn : Fn} {op table mask : Nat} {ecc : Ecc} : s.Leaves (tblIssue fn op table mask ecc s) := by
  unfold tblIssue
  grind [State.Leaves, List.IsSuffix.trans, leaves_access, leaves_tblCommand]

theorem leaves_ringComplete {p i code endBit : Nat} : s.Leaves (ringComplete p i code endBit s) := by
  unfold ringComplete
  grind [State.Leaves, List.IsSuffix.trans, doIf, leaves_emit, leaves_setFld, leaves_inc, leaves_raiseSrc]

theorem leaves_runGroup {p n : Nat} {d : Bytes} : s.Leaves (runGroup p n d s) := by
  unfold runGroup
  extract_lets code t o
  have ht : s.Leaves t := leaves_forEach fun _ _ => leaves_tblStore
  split
  · exact (leaves_doIf fun _ => leaves_denied).trans leaves_ringComplete
  · split
    · exact ht.trans (leaves_tblStore.trans leaves_ringComplete)
    · split
      · exact leaves_ringComplete
      · next e => exact ht.trans ((leaves_tblInsertAll' e).trans leaves_ringComplete)
    · split
      · exact leaves_ringComplete
      · next e => exact ht.trans ((leaves_tblDeleteAll e).trans leaves_ringComplete)
    · exact ht.trans (leaves_tblCommitRoot.trans leaves_ringComplete)
    · exact ht.trans ((leaves_inc (off := R.tblDevCtr 3)).trans ⟨rfl, rfl, List.suffix_rfl⟩)

theorem leaves_setBig {p : Nat} {v : Bool} : s.Leaves (setBig p v s) := by
  unfold setBig
  grind [State.Leaves, List.IsSuffix.trans]

theorem leaves_ringRun {p m : Nat} {full : Bool} {b : Bytes} : s.Leaves (ringRun p m full b s) := by
  unfold ringRun
  grind [State.Leaves, List.IsSuffix.trans, leaves_setFld, leaves_ringComplete, leaves_runGroup, leaves_setBig]

theorem leaves_ringGroup {p : Nat} {d : Dma} {group : Nat} : s.Leaves (ringGroup p d group s) := by
  unfold ringGroup
  extract_lets cfg n cap
  split
  · split
    · exact leaves_ringRun
    · exact leaves_doIf fun _ => leaves_ringComplete.trans leaves_setBig
  · exact .refl s

theorem leaves_clearFence {p : Nat} {ring : Bool} : s.Leaves (clearFence p ring s) := by
  unfold clearFence
  grind [State.Leaves, List.IsSuffix.trans]

theorem leaves_fenceEnd {p : Nat} {ring : Bool} {code n : Nat} : s.Leaves (fenceEnd p ring code n s) := by
  unfold fenceEnd
  grind [State.Leaves, List.IsSuffix.trans, leaves_complete, leaves_ringComplete, leaves_clearFence]

theorem leaves_fenceDone {p : Nat} {ring : Bool} : s.Leaves (fenceDone p ring s) := by
  unfold fenceDone
  grind [State.Leaves, List.IsSuffix.trans, doIf, leaves_fenceEnd]

theorem leaves_fenceTimeout {p : Nat} {ring : Bool} : s.Leaves (fenceTimeout p ring s) := by
  unfold fenceTimeout
  split
  · exact leaves_doIf fun _ => leaves_fenceEnd.after leaves_report
  · exact .refl s

end Sys2Proof.Machine
end

section
/-! SUPPORT. The same of the operations of Asa, Ppm, Burin, Pipeline, Plates. -/

namespace Sys2Proof.Machine

variable {s t : State}

-- Each proof waits for the ones it cites: elaborated in turn, no thread stands waiting for another.
set_option Elab.async false

/-! ### Asa -/

theorem leaves_asaPut {a : AsaTab} {x : Nat} {e : Bytes} : s.Leaves (asaPut a x e s) := by
  unfold asaPut
  grind [State.Leaves, List.IsSuffix.trans]

theorem leaves_asaPutRow {a : AsaTab} {x : Nat} {e : Bytes} : s.Leaves (asaPutRow a x e s) := by
  unfold asaPutRow
  grind [State.Leaves, List.IsSuffix.trans, leaves_asaPut]

theorem leaves_asaSlot {t : Nat} : s.Leaves (asaSlot t s) := by
  unfold asaSlot
  grind [State.Leaves, List.IsSuffix.trans, leaves_inc]

theorem leaves_asaWriteAt {t : Nat} {a : AsaTab} {x : Nat} {e : Bytes} : s.Leaves (asaWriteAt t a x e s) := by
  unfold asaWriteAt
  grind [State.Leaves, List.IsSuffix.trans, leaves_asaPut, leaves_asaSlot]

theorem leaves_asaSearch {t : Nat} {key : Bytes} : s.Leaves (asaSearch t key s).1 := by
  unfold asaSearch
  grind [State.Leaves, List.IsSuffix.trans, doIf, leaves_inc]

theorem leaves_asaResultBad {t x : Nat} : s.Leaves (asaResultBad t x s) := by
  unfold asaResultBad
  grind [State.Leaves, List.IsSuffix.trans, leaves_report]

theorem leaves_asaMove {t : Nat} {a : AsaTab} {m : Nat × Nat} : s.Leaves (asaMove t a m s) := by
  unfold asaMove
  grind [State.Leaves, List.IsSuffix.trans, leaves_asaWriteAt]

theorem leaves_asaRead {p t x : Nat} {ecc : Ecc} : s.Leaves (asaRead p t x ecc s) := by
  unfold asaRead
  grind [State.Leaves, List.IsSuffix.trans, leaves_complete, leaves_setData]

theorem leaves_asaInsert {p t x : Nat} {img : Bytes} {ecc : Ecc} : s.Leaves (asaInsert p t x img ecc s) := by
  unfold asaInsert
  grind [State.Leaves, List.IsSuffix.trans, leaves_forEach, leaves_setFld, leaves_complete, leaves_asaWriteAt, leaves_asaMove]

theorem leaves_asaHit {p t x : Nat} {e : Bytes} {ecc : Ecc} : s.Leaves (asaHit p t x e ecc s) := by
  unfold asaHit
  grind [State.Leaves, List.IsSuffix.trans, doIf, leaves_setFld, leaves_inc, leaves_complete, leaves_setData,
    leaves_asaResultBad]

theorem leaves_asaSearchDo {p t : Nat} {img : Bytes} {ecc : Ecc} : s.Leaves (asaSearchDo p t img ecc s) := by
  unfold asaSearchDo
  grind [State.Leaves, List.IsSuffix.trans, leaves_complete, leaves_asaSearch, leaves_asaHit]

theorem leaves_asaPerform {p op t x : Nat} {img : Bytes} {ecc : Ecc} : s.Leaves (asaPerform p op t x img ecc s) := by
  unfold asaPerform
  grind [State.Leaves, List.IsSuffix.trans, leaves_complete, leaves_asaPutRow, leaves_asaSlot, leaves_asaWriteAt,
    leaves_asaRead, leaves_asaInsert, leaves_asaSearchDo]

theorem leaves_asaCommand {fn : Fn} {p : Nat} {w : Word} {ecc : Ecc} : s.Leaves (asaCommand fn p w ecc s) := by
  unfold asaCommand
  grind [State.Leaves, List.IsSuffix.trans, doIf, leaves_setFld, leaves_issue, leaves_runChecks, leaves_asaPerform]

theorem leaves_asaIssue {fn : Fn} {op t : Nat} {ecc : Ecc} : s.Leaves (asaIssue fn op t ecc s) := by
  unfold asaIssue
  grind [State.Leaves, List.IsSuffix.trans, leaves_access, leaves_asaCommand]

theorem leaves_asaCfgEffect {old new : Word} : s.Leaves (asaCfgEffect old new s) := by
  unfold asaCfgEffect
  grind [State.Leaves, List.IsSuffix.trans]

theorem leaves_asaHole {bank row : Nat} : s.Leaves (asaHole bank row s) := by
  unfold asaHole
  grind [State.Leaves, List.IsSuffix.trans, leaves_asaPutRow]

theorem leaves_asaVisited {bank row : Nat} : s.Leaves (asaVisited bank row s) := by
  unfold asaVisited
  grind [State.Leaves, List.IsSuffix.trans]

theorem leaves_asaScrub {bank row : Nat} {find : AsaFind} : s.Leaves (asaScrub bank row find s) := by
  unfold asaScrub
  grind [State.Leaves, List.IsSuffix.trans, leaves_inc, leaves_report, leaves_asaHole, leaves_asaVisited]

/-! ### Ppm -/

theorem leaves_setPattern {i : Nat} {e : Bytes} : s.Leaves (setPattern i e s) := by
  unfold setPattern
  grind [State.Leaves, List.IsSuffix.trans]

theorem leaves_ppmLose {i : Nat} : s.Leaves (ppmLose i s) := by
  unfold ppmLose
  grind [State.Leaves, List.IsSuffix.trans]

theorem leaves_ppmError {i : Nat} {ecc : Ecc} : s.Leaves (ppmError i ecc s) := by
  unfold ppmError
  grind [State.Leaves, List.IsSuffix.trans, leaves_inc, leaves_report, leaves_ppmLose]

theorem leaves_scanStart {id : Nat} {p : Packet} : s.Leaves (scanStart id p s) := by
  unfold scanStart
  grind [State.Leaves, List.IsSuffix.trans, leaves_inc, leaves_setPkt]

theorem leaves_scanEnd {id : Nat} {errs : List (Nat × Ecc)} : s.Leaves (scanEnd id errs s) := by
  unfold scanEnd
  grind [State.Leaves, List.IsSuffix.trans, doIf, leaves_forEach, leaves_inc, leaves_setPkt, leaves_ppmError]

theorem leaves_ppmPerform {op i : Nat} {e : Bytes} {ecc : Ecc} : s.Leaves (ppmPerform op i e ecc s) := by
  unfold ppmPerform
  grind [State.Leaves, List.IsSuffix.trans, leaves_complete, leaves_setData, leaves_setPattern, leaves_ppmError]

theorem leaves_ppmCommand {fn : Fn} {p : Nat} {w : Word} {ecc : Ecc} : s.Leaves (ppmCommand fn p w ecc s) := by
  unfold ppmCommand
  grind [State.Leaves, List.IsSuffix.trans, leaves_issue, leaves_runChecks, leaves_ppmPerform]

theorem leaves_ppmIssue {fn : Fn} {op i : Nat} {ecc : Ecc} : s.Leaves (ppmIssue fn op i ecc s) := by
  unfold ppmIssue
  grind [State.Leaves, List.IsSuffix.trans, leaves_access, leaves_ppmCommand]

/-! ### Services -/

theorem leaves_setCtx {n : Nat} {b : Bytes} : s.Leaves (setCtx n b s) := by
  unfold setCtx
  grind [State.Leaves, List.IsSuffix.trans]

/-! ### Burin -/

theorem leaves_burinPush {e : BurinEv} : s.Leaves (burinPush e s) := by
  unfold burinPush
  grind [State.Leaves, List.IsSuffix.trans]

theorem leaves_burinPacket {op sess : Nat} {p : Packet} : s.Leaves (burinPacket op sess p s) := by
  unfold burinPacket
  grind [State.Leaves, List.IsSuffix.trans, leaves_inc, leaves_burinPush]

theorem leaves_storeError {engine key : Nat} {ecc : Ecc} : s.Leaves (storeError engine key ecc s) := by
  unfold storeError
  grind [State.Leaves, List.IsSuffix.trans, leaves_inc, leaves_report]

theorem leaves_notify {sess code : Nat} {data : Bytes} : s.Leaves (notify sess code data s) := by
  unfold notify
  grind [State.Leaves, List.IsSuffix.trans, doIf, leaves_emit, leaves_setFld, leaves_inc, leaves_raiseSrc]

theorem leaves_tbAdj {arg : Nat} {res : Word} : s.Leaves (tbAdj arg res s) := by
  unfold tbAdj
  grind [State.Leaves, List.IsSuffix.trans, leaves_inc, leaves_report]

theorem leaves_deleteNow {sess : Nat} : s.Leaves (deleteNow sess s) := by
  unfold deleteNow
  grind [State.Leaves, List.IsSuffix.trans, leaves_bump, leaves_setCtx]

theorem leaves_finishDelete {sess : Nat} : s.Leaves (finishDelete sess s) := by
  unfold finishDelete
  grind [State.Leaves, List.IsSuffix.trans, doIf, leaves_forEach, leaves_complete, leaves_deleteNow]

theorem leaves_engineIdle {engine : Nat} {e : Eng} : s.Leaves (engineIdle engine e s) := by
  unfold engineIdle
  grind [State.Leaves, List.IsSuffix.trans, leaves_wr, leaves_bump]

theorem leaves_performAct {engine sess : Nat} {a : BurinAct} : s.Leaves (performAct engine sess a s) := by
  unfold performAct
  grind [State.Leaves, List.IsSuffix.trans, leaves_inc, leaves_toBridge, leaves_setCtx, leaves_notify, leaves_tbAdj]

theorem leaves_eventEnd {engine : Nat} {errs : List (Nat × Ecc)} : s.Leaves (eventEnd engine errs s) := by
  unfold eventEnd
  grind [State.Leaves, List.IsSuffix.trans, leaves_forEach, leaves_inc, leaves_setCtx, leaves_storeError, leaves_finishDelete,
    leaves_engineIdle, leaves_performAct]

theorem leaves_eventAbandon {engine : Nat} {errs : List (Nat × Ecc)} : s.Leaves (eventAbandon engine errs s) := by
  unfold eventAbandon
  grind [State.Leaves, List.IsSuffix.trans, leaves_forEach, leaves_storeError, leaves_finishDelete, leaves_engineIdle]

theorem leaves_faultEvent {engine : Nat} {ev : BurinEv} {pc cause : Nat} : s.Leaves (faultEvent engine ev pc cause s) := by
  unfold faultEvent
  grind [State.Leaves, List.IsSuffix.trans, leaves_inc, leaves_report, leaves_setCtx, leaves_notify]

theorem leaves_eventFault {engine : Nat} {errs : List (Nat × Ecc)} : s.Leaves (eventFault engine errs s) := by
  unfold eventFault
  grind [State.Leaves, List.IsSuffix.trans, leaves_forEach, leaves_storeError, leaves_finishDelete, leaves_engineIdle,
    leaves_faultEvent]

theorem leaves_eventStart {engine sess : Nat} {ecc : Ecc} : s.Leaves (eventStart engine sess ecc s) := by
  unfold eventStart
  grind [State.Leaves, List.IsSuffix.trans, leaves_wr, leaves_inc, leaves_storeError, leaves_faultEvent]

theorem leaves_timerExpire {sess t : Nat} : s.Leaves (timerExpire sess t s) := by
  unfold timerExpire
  grind [State.Leaves, List.IsSuffix.trans, leaves_inc, leaves_setCtx, leaves_burinPush]

theorem leaves_burinPps {stamp : Nat} : s.Leaves (burinPps stamp s) := by
  unfold burinPps
  grind [State.Leaves, List.IsSuffix.trans, doIf, leaves_burinPush]

theorem leaves_burinPerform {p op sess evtOp : Nat} {ecc : Ecc} : s.Leaves (burinPerform p op sess evtOp ecc s) := by
  unfold burinPerform
  grind [State.Leaves, List.IsSuffix.trans, leaves_complete, leaves_setData, leaves_setCtx, leaves_burinPush, leaves_deleteNow]

/-! ### Ops -/

theorem leaves_burinLoad {fn : Fn} {p : Nat} {d : Dma} : s.Leaves (burinLoad fn p d s) := by
  unfold burinLoad
  grind [State.Leaves, List.IsSuffix.trans, leaves_denied, leaves_complete, leaves_failCmd]

/-! ### Burin -/

theorem leaves_loadEnd {p : Nat} {f : Fail} : s.Leaves (loadEnd p f s) := by
  unfold loadEnd
  grind [State.Leaves, List.IsSuffix.trans, doIf, leaves_complete]

theorem leaves_loadDrop : s.Leaves (loadDrop s) := by
  unfold loadDrop
  grind [State.Leaves, List.IsSuffix.trans, leaves_loadEnd]

theorem leaves_loadVerify : s.Leaves (loadVerify s) := by
  unfold loadVerify
  grind [State.Leaves, List.IsSuffix.trans, leaves_loadEnd]

theorem leaves_writeVendor {image : Bytes} : s.Leaves (writeVendor image s) := by
  unfold writeVendor
  grind [State.Leaves, List.IsSuffix.trans]

theorem leaves_loadVendor {image : Bytes} : s.Leaves (loadVendor image s) := by
  unfold loadVendor
  grind [State.Leaves, List.IsSuffix.trans, leaves_writeVendor]

theorem leaves_vendorSwitch : s.Leaves (vendorSwitch s) := by
  unfold vendorSwitch
  grind [State.Leaves, List.IsSuffix.trans, leaves_writeVendor]

theorem leaves_regionSwitch : s.Leaves (regionSwitch s) := by
  unfold regionSwitch
  grind [State.Leaves, List.IsSuffix.trans, doIf, leaves_wr, leaves_complete]

theorem leaves_burinSwitch : s.Leaves (burinSwitch s) := by
  unfold burinSwitch
  grind [State.Leaves, List.IsSuffix.trans, doIf, leaves_loadVerify, leaves_vendorSwitch, leaves_regionSwitch]

theorem leaves_burinCommand {fn : Fn} {p : Nat} {w : Word} {ecc : Ecc} {d : Dma} : s.Leaves (burinCommand fn p w ecc d s) := by
  unfold burinCommand
  grind [State.Leaves, List.IsSuffix.trans, leaves_issue, leaves_runChecks, leaves_burinPerform, leaves_burinLoad]

theorem leaves_burinIssue {fn : Fn} {op evtOp : Nat} {ecc : Ecc} {d : Dma} : s.Leaves (burinIssue fn op evtOp ecc d s) := by
  unfold burinIssue
  grind [State.Leaves, List.IsSuffix.trans, leaves_access, leaves_burinCommand]

/-! ### Pipeline -/

theorem leaves_burinWhole {id : Nat} : s.Leaves (burinWhole id s) := by
  unfold burinWhole
  grind [State.Leaves, List.IsSuffix.trans, doIf, leaves_erasePkt, leaves_burinPacket]

theorem leaves_tailAndAfter {port : Nat} {k : State → State} (hk : ∀ s : State, s.Leaves (k s)) :
    s.Leaves (tailAndAfter port k s) := by
  unfold tailAndAfter
  grind [State.Leaves, List.IsSuffix.trans, leaves_ringWrite, leaves_burinWhole]

theorem leaves_stencilErr {pipe table i : Nat} : s.Leaves (stencilErr pipe table i s) := by
  unfold stencilErr
  grind [State.Leaves, List.IsSuffix.trans, leaves_inc, leaves_tellOnce]

theorem leaves_stencilLeaf {pipe leaf p : Nat} {key : Bytes} {ecc : Ecc} : s.Leaves (stencilLeaf pipe leaf p key ecc s).1 := by
  unfold stencilLeaf
  grind [State.Leaves, List.IsSuffix.trans, doIf, leaves_inc, leaves_markBad, leaves_countCorr, leaves_stencilErr]

theorem leaves_stencilWordLost {pipe i : Nat} {ecc : Ecc} : s.Leaves (stencilWordLost pipe i ecc s) := by
  unfold stencilWordLost
  grind [State.Leaves, List.IsSuffix.trans, doIf, leaves_markBad, leaves_stencilErr]

theorem leaves_stencilL2 {pipe i p : Nat} {key : Bytes} {x : StageIn} : s.Leaves (stencilL2 pipe i p key x s).1 := by
  unfold stencilL2
  grind [State.Leaves, List.IsSuffix.trans, leaves_countCorr, leaves_stencilErr, leaves_stencilLeaf, leaves_stencilWordLost]

theorem leaves_stencilLookup {pipe sid : Nat} {key : Bytes} {x : StageIn} : s.Leaves (stencilLookup pipe sid key x s).1 := by
  unfold stencilLookup
  grind [State.Leaves, List.IsSuffix.trans, leaves_inc, leaves_countCorr, leaves_stencilErr, leaves_stencilWordLost,
    leaves_stencilL2]

theorem leaves_emLookup {pipe t : Nat} {key : Bytes} {ecc : Ecc} : s.Leaves (emLookup pipe t key ecc s).1 := by
  unfold emLookup
  grind [State.Leaves, List.IsSuffix.trans, doIf, leaves_inc, leaves_setEm, leaves_countCorr, leaves_entryLost]

theorem leaves_resolveDrop {id pipe ctr : Nat} {tell : Option (Nat × Nat)} : s.Leaves (resolveDrop id pipe ctr tell s) := by
  unfold resolveDrop
  grind [State.Leaves, List.IsSuffix.trans, leaves_inc, leaves_leaveHole, leaves_tellOnce]

theorem leaves_carry {id : Nat} {e : Bytes} : s.Leaves (carry id e s) := by
  unfold carry
  grind [State.Leaves, List.IsSuffix.trans, leaves_setPkt]

theorem leaves_nhRing {id : Nat} {p : Packet} {ring : Option (Nat × Nat)} {reason : Nat} {x : StageIn} :
    s.Leaves (nhRing id p ring reason x s) := by
  unfold nhRing
  grind [State.Leaves, List.IsSuffix.trans, leaves_trapPacket, leaves_resolveDrop]

theorem leaves_readEntry {id pipe code table i size : Nat} {valid : Bool} {e : Bytes} {ecc : Ecc} {k : State → ActEnd}
    (hk : ∀ s : State, s.Leaves (endState (k s))) :
    s.Leaves (endState (readEntry id pipe code table i size valid e ecc k s)) := by
  unfold readEntry
  split
  · simp only [endState]; exact leaves_resolveDrop.after (leaves_doIf fun _ => leaves_markBad)
  · split
    · simp only [endState]; exact leaves_resolveDrop
    · exact (hk _).after (leaves_carry.after leaves_countCorr)

theorem leaves_nextHopAct {id n : Nat} {p : Packet} {st : Stage} {x : StageIn} :
    s.Leaves (endState (nextHopAct id n p st x s)) := by
  unfold nextHopAct
  lift_lets
  intro e
  refine leaves_readEntry fun u => ?_
  split
  · exact leaves_setPkt
  · exact leaves_leaveHole
  · exact leaves_nhRing
  · exact leaves_nhRing

theorem leaves_ecmpAct {id g i : Nat} {p : Packet} {st : Stage} {x : StageIn} :
    s.Leaves (endState (ecmpAct id g i p st x s)) := by
  unfold ecmpAct
  lift_lets
  intro e
  exact leaves_readEntry fun _ => leaves_readEntry fun _ => leaves_nextHopAct

theorem leaves_resolveAct {id i : Nat} {p : Packet} {st : Stage} {x : StageIn} :
    s.Leaves (endState (resolveAct id i p st x s)) := by
  unfold resolveAct
  dsimp only
  split
  · exact leaves_nextHopAct
  · exact leaves_ecmpAct
  · exact .refl s

theorem leaves_learnAct {pipe dest : Nat} {key : Bytes} : s.Leaves (endState (learnAct pipe key dest s)) := by
  unfold learnAct
  dsimp only
  split
  · exact .refl s
  · split
    · split
      · exact leaves_setEm
      · split
        · exact leaves_inc
        · exact leaves_setEm.trans (leaves_inc.trans leaves_learnEvent)
    · split
      · exact leaves_setEm.trans (leaves_inc.trans leaves_learnEvent)
      · exact leaves_inc.trans leaves_learnEvent

theorem leaves_leavePipe {id : Nat} {p : Packet} : s.Leaves (leavePipe id p s) := by
  unfold leavePipe
  grind [State.Leaves, List.IsSuffix.trans, leaves_emit, leaves_setPkt, leaves_leaveHole, leaves_toMac]

theorem leaves_recircAct {id : Nat} {p : Packet} : s.Leaves (recircAct id p s) := by
  unfold recircAct
  grind [State.Leaves, List.IsSuffix.trans, leaves_inc, leaves_setPkt, leaves_leaveHole]

theorem leaves_runAct {x : StageIn} {st : Stage} {p0 : Packet} {id : Nat} {p : Packet} {a : Action} :
    s.Leaves (endState (runAct x st p0 id p a s)) := by
  unfold runAct
  cases a with
  | drop => exact leaves_leaveHole
  | trap q r => exact leaves_trapPacket
  | forward => exact leaves_leavePipe
  | recirc => exact leaves_recircAct
  | resolve => exact leaves_resolveAct
  | learn f m d => exact leaves_learnAct
  | scan => exact leaves_scanStart
  | burin op off => exact leaves_setPkt.trans ((leaves_doIf fun _ => leaves_marker).trans (leaves_goesOn.trans leaves_burinWhole))
  | _ => exact leaves_setPkt

theorem leaves_stageNext {id : Nat} : s.Leaves (stageNext id s) := by
  unfold stageNext
  grind [State.Leaves, List.IsSuffix.trans, leaves_setPkt, leaves_leavePipe]

theorem leaves_runActs {x : StageIn} {st : Stage} {p0 : Packet} {flood : State → State} {id : Nat} {as : List Action}
    (hf : ∀ s : State, s.Leaves (flood s)) : s.Leaves (runActs x st p0 flood id as s) := by
  induction as generalizing s with
  | nil => exact leaves_stageNext
  | cons a as ih =>
    unfold runActs
    split
    · exact .refl s
    · next p _ =>
      have hr := leaves_runAct (s := s) (x := x) (st := st) (p0 := p0) (id := id) (p := p) (a := a)
      split
      · next t e => rw [e] at hr; exact hr.trans ih
      · next t e => rw [e] at hr; exact hr
      · next t e => rw [e] at hr; exact hr.trans (hf t)

theorem leaves_stageActs {x : StageIn} {st : Stage} {p0 : Packet} {id : Nat} {as : List Action} :
    s.Leaves (stageActs x st p0 id as s) :=
  leaves_runActs fun _ => leaves_runActs fun _ => leaves_stageNext

theorem leaves_onWord {x : StageIn} {st : Stage} {p0 : Packet} {id w : Nat} : s.Leaves (onWord x st p0 id w s) := by
  unfold onWord
  grind [State.Leaves, List.IsSuffix.trans, leaves_stageActs]

theorem leaves_setPrev {id v : Nat} : s.Leaves (setPrev id v s) := by
  unfold setPrev
  grind [State.Leaves, List.IsSuffix.trans, leaves_setPkt]

theorem leaves_withWord {x : StageIn} {st : Stage} {p0 : Packet} {id w : Nat} : s.Leaves (withWord x st p0 id w s) := by
  unfold withWord
  grind [State.Leaves, List.IsSuffix.trans, leaves_onWord, leaves_setPrev]

theorem leaves_asaStage {x : StageIn} {st : Stage} {p0 : Packet} {id t : Nat} {wide : Bool} {key : Bytes} :
    s.Leaves (asaStage x st p0 id t wide key s) := by
  unfold asaStage
  grind [State.Leaves, List.IsSuffix.trans, doIf, leaves_inc, leaves_leaveHole, leaves_asaSearch, leaves_asaResultBad,
    leaves_carry, leaves_stageActs, leaves_setPrev]

theorem leaves_emStage {x : StageIn} {st : Stage} {id : Nat} {p : Packet} {t : Nat} {key : Bytes} :
    s.Leaves (emStage x st id p t key s) := by
  unfold emStage
  grind [State.Leaves, List.IsSuffix.trans, doIf, leaves_setPkt, leaves_leaveHole, leaves_emLookup, leaves_carry,
    leaves_withWord]

theorem leaves_runStage {x : StageIn} {st : Stage} {id : Nat} {p : Packet} : s.Leaves (runStage x st id p s) := by
  unfold runStage
  grind [State.Leaves, List.IsSuffix.trans, leaves_leaveHole, leaves_stencilLookup, leaves_stageActs, leaves_setPrev,
    leaves_withWord, leaves_asaStage, leaves_emStage]

theorem leaves_pipelineStage {id : Nat} {x : StageIn} : s.Leaves (pipelineStage id x s) := by
  unfold pipelineStage
  grind [State.Leaves, List.IsSuffix.trans, leaves_withPlateWords, leaves_leavePipe, leaves_runStage]

/-! ### Plates -/

theorem leaves_plateRefresh : s.Leaves (plateRefresh s) := by
  unfold plateRefresh
  grind [State.Leaves, List.IsSuffix.trans, leaves_forEach, leaves_setFld]

theorem leaves_plateShow {b : Nat} {hdr : Bytes} : s.Leaves (plateShow b hdr s) := by
  unfold plateShow
  grind [State.Leaves, List.IsSuffix.trans, leaves_wr, leaves_setFld]

theorem leaves_bankTo {b st : Nat} : s.Leaves (bankTo b st s) := by
  unfold bankTo
  grind [State.Leaves, List.IsSuffix.trans, doIf, leaves_setFld, leaves_setBank, leaves_plateRefresh, leaves_plateShow]

theorem leaves_plateProof {b : Nat} {img : Bytes} : s.Leaves (plateProof b img s) := by
  unfold plateProof
  grind [State.Leaves, List.IsSuffix.trans, leaves_setBank, leaves_plateShow, leaves_bankTo]

theorem leaves_plateFail {b : Nat} {f : Fail} : s.Leaves (plateFail b f s) := by
  unfold plateFail
  grind [State.Leaves, List.IsSuffix.trans, leaves_complete, leaves_bankTo]

theorem leaves_plateLoad {b : Nat} : s.Leaves (plateLoad b s) := by
  unfold plateLoad
  grind [State.Leaves, List.IsSuffix.trans, leaves_bankTo, leaves_plateFail]

theorem leaves_plateAbort {b : Nat} : s.Leaves (plateAbort b s) := by
  unfold plateAbort
  grind [State.Leaves, List.IsSuffix.trans, leaves_complete, leaves_bankTo]

theorem leaves_plateSwap {b : Nat} : s.Leaves (plateSwap b s) := by
  unfold plateSwap
  grind [State.Leaves, List.IsSuffix.trans]

theorem leaves_platePerform {op b gen : Nat} : s.Leaves (platePerform op b gen s) := by
  unfold platePerform
  grind [State.Leaves, List.IsSuffix.trans, leaves_complete, leaves_plateLoad, leaves_plateAbort, leaves_plateSwap]

theorem leaves_plateCommand {fn : Fn} {p : Nat} {w : Word} : s.Leaves (plateCommand fn p w s) := by
  unfold plateCommand
  grind [State.Leaves, List.IsSuffix.trans, leaves_denied, leaves_accept, leaves_issue, leaves_plateAbort, leaves_platePerform]

theorem leaves_plateIssue {fn : Fn} {op b gen : Nat} : s.Leaves (plateIssue fn op b gen s) := by
  unfold plateIssue
  grind [State.Leaves, List.IsSuffix.trans, leaves_access, leaves_plateCommand]

theorem leaves_plateData {d : Dma} {storeOk : Bool} : s.Leaves (plateData d storeOk s) := by
  unfold plateData
  rcases s.plate.loading with _ | b
  · exact .refl s
  · cases d <;> dsimp only <;>
      grind [State.Leaves, List.IsSuffix.trans, leaves_inc, leaves_setBank, leaves_bankTo, leaves_plateFail]

theorem leaves_plateVerify : s.Leaves (plateVerify s) := by
  unfold plateVerify
  grind [State.Leaves, List.IsSuffix.trans, leaves_complete, leaves_plateProof, leaves_plateFail]

theorem leaves_carve {old new : List Nat} : s.Leaves (carve old new s) := by
  unfold carve
  grind [State.Leaves, List.IsSuffix.trans]

theorem leaves_showPipes {b : Nat} : s.Leaves (showPipes b s) := by
  unfold showPipes
  grind [State.Leaves, List.IsSuffix.trans, leaves_forEach, leaves_wr]

theorem leaves_goLive {b : Nat} : s.Leaves (goLive b s) := by
  unfold goLive
  grind [State.Leaves, List.IsSuffix.trans, doIf, leaves_bankTo, leaves_carve, leaves_showPipes]

theorem leaves_drainDone {b : Nat} : s.Leaves (drainDone b s) := by
  unfold drainDone
  grind [State.Leaves, List.IsSuffix.trans, leaves_setFld, leaves_doneIrq, leaves_bankTo]

theorem leaves_swapPoint : s.Leaves (swapPoint s) := by
  unfold swapPoint
  rcases s.plate.swapTo with _ | b
  · exact .refl s
  · cases s.plate.live <;> dsimp only <;>
      grind [State.Leaves, List.IsSuffix.trans, doIf, leaves_wr, leaves_inc, leaves_complete, leaves_bankTo, leaves_goLive,
        leaves_drainDone]

theorem leaves_drainEnd : s.Leaves (drainEnd s) := by
  unfold drainEnd
  grind [State.Leaves, List.IsSuffix.trans, doIf, leaves_drainDone]

theorem leaves_drainOverrun : s.Leaves (drainOverrun s) := by
  unfold drainOverrun
  grind [State.Leaves, List.IsSuffix.trans, leaves_forEach, leaves_inc, leaves_report, leaves_leaveHole, leaves_drainDone]

theorem leaves_plateScrub {b word : Nat} {ecc : Ecc} : s.Leaves (plateScrub b word ecc s) := by
  unfold plateScrub
  grind [State.Leaves, List.IsSuffix.trans, leaves_inc, leaves_report, leaves_setBank, leaves_bankTo, leaves_plateFail]

theorem leaves_pipeQuiet {n : Nat} : s.Leaves (pipeQuiet n s) := by
  unfold pipeQuiet
  grind [State.Leaves, List.IsSuffix.trans, doIf, leaves_setFld]

theorem leaves_quiesceEffect : s.Leaves (quiesceEffect s) := by
  unfold quiesceEffect
  grind [State.Leaves, List.IsSuffix.trans, leaves_setFld]

end Sys2Proof.Machine
end

section
/-! SUPPORT. The same of the operations of Bpm, Lanes, Queue. -/

namespace Sys2Proof.Machine

variable {s t : State}

-- Each proof waits for the ones it cites: elaborated in turn, no thread stands waiting for another.
set_option Elab.async false

/-! ### Bpm -/

theorem leaves_setPage {pool page : Nat} {p : PageSt} : s.Leaves (setPage pool page p s) := by
  unfold setPage
  grind [State.Leaves, List.IsSuffix.trans]

theorem leaves_erasePage {pool page : Nat} : s.Leaves (erasePage pool page s) := by
  unfold erasePage
  grind [State.Leaves, List.IsSuffix.trans]

theorem leaves_stackIrq : s.Leaves (stackIrq s) := by
  unfold stackIrq
  grind [State.Leaves, List.IsSuffix.trans, doIf, leaves_raiseBlock]

theorem leaves_retireCheck : s.Leaves (retireCheck s) := by
  unfold retireCheck
  grind [State.Leaves, List.IsSuffix.trans, leaves_forEach, leaves_setFld, leaves_stackIrq]

theorem leaves_bpmRefresh : s.Leaves (bpmRefresh s) := by
  unfold bpmRefresh
  grind [State.Leaves, List.IsSuffix.trans, leaves_forEach, leaves_setFld, leaves_retireCheck]

theorem leaves_linkPage {pool head page : Nat} : s.Leaves (linkPage pool head page s) := by
  unfold linkPage
  grind [State.Leaves, List.IsSuffix.trans, leaves_setPage]

theorem leaves_addUsed {r pool page : Nat} : s.Leaves (addUsed r pool page s) := by
  unfold addUsed
  grind [State.Leaves, List.IsSuffix.trans, doIf, leaves_setFld]

theorem leaves_grantPage {r pool : Nat} {head : Option Nat} : s.Leaves (grantPage r pool head s).1 := by
  unfold grantPage
  grind [State.Leaves, List.IsSuffix.trans, doIf, leaves_inc, leaves_setPage, leaves_bpmRefresh, leaves_linkPage,
    leaves_addUsed]

theorem leaves_setStore {id : Nat} {k : Stored} : s.Leaves (setStore id k s) := by
  unfold setStore
  grind [State.Leaves, List.IsSuffix.trans]

theorem leaves_onStored {pool head : Nat} {f : Nat → Stored → Stored} : s.Leaves (onStored pool head f s) := by
  unfold onStored
  grind [State.Leaves, List.IsSuffix.trans]

theorem leaves_cutStored {pool head : Nat} : s.Leaves (cutStored pool head s) := by
  unfold cutStored
  grind [State.Leaves, List.IsSuffix.trans, leaves_onStored]

theorem leaves_fbRefresh : s.Leaves (fbRefresh s) := by
  unfold fbRefresh
  grind [State.Leaves, List.IsSuffix.trans, leaves_setFld]

theorem leaves_stackLeaves {i : Nat} : s.Leaves (stackLeaves i s) := by
  unfold stackLeaves
  grind [State.Leaves, List.IsSuffix.trans, doIf, leaves_setFld, leaves_inc, leaves_report, leaves_fbRefresh]

theorem leaves_setStack {i st : Nat} : s.Leaves (setStack i st s) := by
  unfold setStack
  grind [State.Leaves, List.IsSuffix.trans, doIf, leaves_setFld, leaves_report, leaves_stackIrq, leaves_bpmRefresh,
    leaves_stackLeaves]

theorem leaves_failStack {i : Nat} : s.Leaves (failStack i s) := by
  unfold failStack
  grind [State.Leaves, List.IsSuffix.trans, leaves_setStack]

theorem leaves_countUnc {i n : Nat} : s.Leaves (countUnc i n s) := by
  unfold countUnc
  grind [State.Leaves, List.IsSuffix.trans]

theorem leaves_stackFailed {i : Nat} {phyLost : Bool} {uncorr : Nat} : s.Leaves (stackFailed i phyLost uncorr s) := by
  unfold stackFailed
  grind [State.Leaves, List.IsSuffix.trans, leaves_failStack, leaves_countUnc]

theorem leaves_f0Fail : s.Leaves (f0Fail s) := by
  unfold f0Fail
  grind [State.Leaves, List.IsSuffix.trans, leaves_report]

theorem leaves_pageRequest {r pool : Nat} {body : Option Nat} : s.Leaves (pageRequest r pool body s) := by
  unfold pageRequest
  grind [State.Leaves, List.IsSuffix.trans, leaves_emit, leaves_grantPage, leaves_onStored, leaves_cutStored]

theorem leaves_dropUsed {r pool page n : Nat} : s.Leaves (dropUsed r pool page n s) := by
  unfold dropUsed
  grind [State.Leaves, List.IsSuffix.trans, doIf, leaves_setFld]

theorem leaves_losePages {pool page n : Nat} : s.Leaves (losePages pool page n s) := by
  unfold losePages
  grind [State.Leaves, List.IsSuffix.trans, leaves_bump]

theorem leaves_unreadRead {pool page : Nat} : s.Leaves (unreadRead pool page s) := by
  unfold unreadRead
  grind [State.Leaves, List.IsSuffix.trans, doIf, leaves_stackFailed]

theorem leaves_walkFree {pool n page : Nat} {k : Walk} : s.Leaves (walkFree pool n page k s).1 := by
  induction n generalizing page k s with
  | zero => exact .refl s
  | succ n ih =>
    unfold walkFree
    split
    · lift_lets -underBinder
      intro s1 k1
      have h1 : s.Leaves s1 := leaves_erasePage
      split
      · exact h1
      · split
        · exact h1
        · exact h1.trans ih
    · exact leaves_unreadRead

theorem leaves_walkOn {pool n page : Nat} : s.Leaves (walkOn pool n page s).1 := by
  induction n generalizing page s with
  | zero => exact .refl s
  | succ n ih =>
    unfold walkOn
    split
    · lift_lets -underBinder
      intro s1
      have h1 : s.Leaves s1 := leaves_setPage
      split
      · exact h1
      · exact h1.trans ih
    · exact leaves_unreadRead

theorem leaves_freeChain {r pool head count : Nat} : s.Leaves (freeChain r pool head count s) := by
  unfold freeChain
  grind [State.Leaves, List.IsSuffix.trans, leaves_bump, leaves_inc, leaves_report, leaves_bpmRefresh, leaves_dropUsed,
    leaves_losePages, leaves_walkFree, leaves_walkOn]

theorem leaves_setRef {i n : Nat} : s.Leaves (setRef i n s) := by
  unfold setRef
  grind [State.Leaves, List.IsSuffix.trans]

theorem leaves_rejectOp {r head : Nat} {h : HeadFind} : s.Leaves (rejectOp r head h s) := by
  unfold rejectOp
  grind [State.Leaves, List.IsSuffix.trans, leaves_inc, leaves_report]

theorem leaves_bpmRelease {r pool head count : Nat} : s.Leaves (bpmRelease r pool head count s) := by
  unfold bpmRelease
  grind [State.Leaves, List.IsSuffix.trans, leaves_freeChain, leaves_setRef, leaves_rejectOp]

theorem leaves_bpmInc {r pool head : Nat} : s.Leaves (bpmInc r pool head s).1 := by
  unfold bpmInc
  grind [State.Leaves, List.IsSuffix.trans, leaves_inc, leaves_report, leaves_setPage, leaves_unreadRead, leaves_setRef,
    leaves_rejectOp]

theorem leaves_loseLeaf {pool base : Nat} : s.Leaves (loseLeaf pool base s) := by
  unfold loseLeaf
  grind [State.Leaves, List.IsSuffix.trans, leaves_forEach, leaves_setPage, leaves_losePages]

theorem leaves_loseRef {i : Nat} : s.Leaves (loseRef i s) := by
  unfold loseRef
  grind [State.Leaves, List.IsSuffix.trans, leaves_report, leaves_dropUsed, leaves_losePages]

theorem leaves_bpmError {m : BpmMem} {ecc : Ecc} : s.Leaves (bpmError m ecc s) := by
  unfold bpmError
  grind [State.Leaves, List.IsSuffix.trans, doIf, leaves_inc, leaves_report, leaves_setPage, leaves_bpmRefresh,
    leaves_stackFailed, leaves_loseLeaf, leaves_loseRef]

theorem leaves_readRec {p pool page : Nat} {ecc : Ecc} : s.Leaves (readRec p pool page ecc s) := by
  unfold readRec
  grind [State.Leaves, List.IsSuffix.trans, leaves_bpmError, leaves_complete, leaves_wr, leaves_unreadRead]

theorem leaves_readRef {p i : Nat} {ecc : Ecc} : s.Leaves (readRef p i ecc s) := by
  unfold readRef
  grind [State.Leaves, List.IsSuffix.trans, leaves_wr, leaves_complete, leaves_bpmError]

theorem leaves_retireStack {p i : Nat} : s.Leaves (retireStack p i s) := by
  unfold retireStack
  grind [State.Leaves, List.IsSuffix.trans, leaves_complete, leaves_setStack]

theorem leaves_restoreStack {p i : Nat} : s.Leaves (restoreStack p i s) := by
  unfold restoreStack
  grind [State.Leaves, List.IsSuffix.trans, leaves_complete, leaves_setStack]

theorem leaves_bpmPerform {p op pool i : Nat} {ecc : Ecc} : s.Leaves (bpmPerform p op pool i ecc s) := by
  unfold bpmPerform
  grind [State.Leaves, List.IsSuffix.trans, leaves_readRec, leaves_readRef, leaves_retireStack, leaves_restoreStack]

theorem leaves_bpmAct {fn : Fn} {p op pool i : Nat} {ecc : Ecc} : s.Leaves (bpmAct fn p op pool i ecc s) := by
  unfold bpmAct
  grind [State.Leaves, List.IsSuffix.trans, doIf, leaves_wr, leaves_denied, leaves_runChecks, leaves_bpmPerform]

theorem leaves_bpmCommand {fn : Fn} {p : Nat} {w : Word} {ecc : Ecc} : s.Leaves (bpmCommand fn p w ecc s) := by
  unfold bpmCommand
  grind [State.Leaves, List.IsSuffix.trans, leaves_orHold, leaves_issue, leaves_bpmAct]

theorem leaves_bpmIssue {fn : Fn} {op : Nat} {ecc : Ecc} : s.Leaves (bpmIssue fn op ecc s) := by
  unfold bpmIssue
  grind [State.Leaves, List.IsSuffix.trans, leaves_access, leaves_bpmCommand]

/-! ### Lanes -/

theorem leaves_fabBump {off n : Nat} : s.Leaves (fabBump off n s) := by
  unfold fabBump
  grind [State.Leaves, List.IsSuffix.trans]

theorem leaves_fabInc {off : Nat} : s.Leaves (fabInc off s) := by
  unfold fabInc
  grind [State.Leaves, List.IsSuffix.trans, leaves_fabBump]

theorem leaves_fabIrq : s.Leaves (fabIrq s) := by
  unfold fabIrq
  grind [State.Leaves, List.IsSuffix.trans, doIf, leaves_raiseBlock]

theorem leaves_setLane {l : Nat} {k : LaneSt} : s.Leaves (setLane l k s) := by
  unfold setLane
  grind [State.Leaves, List.IsSuffix.trans]

theorem leaves_setGroup {g : Nat} {k : GroupSt} : s.Leaves (setGroup g k s) := by
  unfold setGroup
  grind [State.Leaves, List.IsSuffix.trans]

theorem leaves_repin {d : Nat} : s.Leaves (repin d s) := by
  unfold repin
  grind [State.Leaves, List.IsSuffix.trans, leaves_fabInc]

theorem leaves_takeCredit {m : CreditMsg} : s.Leaves (takeCredit m s) := by
  unfold takeCredit
  grind [State.Leaves, List.IsSuffix.trans]

theorem leaves_sendCredit {t : Nat} {m : CreditMsg} : s.Leaves (sendCredit t m s) := by
  unfold sendCredit
  grind [State.Leaves, List.IsSuffix.trans, leaves_fabInc, leaves_setGroup, leaves_takeCredit]

/-! ### Queue -/

theorem leaves_setQue {q : Nat} {k : QueueSt} : s.Leaves (setQue q k s) := by
  unfold setQue
  grind [State.Leaves, List.IsSuffix.trans, leaves_setFld]

theorem leaves_portDepths : s.Leaves (portDepths s) := by
  unfold portDepths
  grind [State.Leaves, List.IsSuffix.trans, leaves_forEach, leaves_setFld]

theorem leaves_onQue {q : Nat} {f : QueueSt → QueueSt} : s.Leaves (onQue q f s) := by
  unfold onQue
  grind [State.Leaves, List.IsSuffix.trans, leaves_setQue]

theorem leaves_countDrop {q : Nat} : s.Leaves (countDrop q s) := by
  unfold countDrop
  grind [State.Leaves, List.IsSuffix.trans, leaves_onQue]

theorem leaves_countMcDrop {q : Nat} : s.Leaves (countMcDrop q s) := by
  unfold countMcDrop
  grind [State.Leaves, List.IsSuffix.trans, leaves_onQue]

theorem leaves_addPfc {k : Option (Nat × Nat)} {add sub : Nat} : s.Leaves (addPfc k add sub s) := by
  unfold addPfc
  grind [State.Leaves, List.IsSuffix.trans]

theorem leaves_forgetPkt {id : Nat} : s.Leaves (forgetPkt id s) := by
  unfold forgetPkt
  grind [State.Leaves, List.IsSuffix.trans, leaves_setPkt, leaves_erasePkt]

theorem leaves_dropRef {id : Nat} : s.Leaves (dropRef id s) := by
  unfold dropRef
  grind [State.Leaves, List.IsSuffix.trans, leaves_setStore, leaves_bpmRelease, leaves_addPfc, leaves_forgetPkt]

theorem leaves_sendRequest {q : Nat} : s.Leaves (sendRequest q s) := by
  unfold sendRequest
  grind [State.Leaves, List.IsSuffix.trans, leaves_inc, leaves_sendCredit, leaves_onQue]

theorem leaves_voqState {q : Nat} : s.Leaves (voqState q s) := by
  unfold voqState
  grind [State.Leaves, List.IsSuffix.trans, leaves_setQue, leaves_sendRequest]

theorem leaves_setNode {level i : Nat} {k : NodeSt} : s.Leaves (setNode level i k s) := by
  unfold setNode
  grind [State.Leaves, List.IsSuffix.trans]

theorem leaves_restNodes {q : Nat} : s.Leaves (restNodes q s) := by
  unfold restNodes
  grind [State.Leaves, List.IsSuffix.trans, leaves_forEach, leaves_setNode]

theorem leaves_popEnt {q : Nat} : s.Leaves (popEnt q s) := by
  unfold popEnt
  grind [State.Leaves, List.IsSuffix.trans, doIf, leaves_setQue, leaves_voqState, leaves_restNodes]

theorem leaves_discardHead {q : Nat} {ctr : Option Nat} : s.Leaves (discardHead q ctr s) := by
  unfold discardHead
  grind [State.Leaves, List.IsSuffix.trans, leaves_inc, leaves_countDrop, leaves_dropRef, leaves_popEnt]

theorem leaves_setPolicer {i : Nat} {k : PolicerSt} : s.Leaves (setPolicer i k s) := by
  unfold setPolicer
  grind [State.Leaves, List.IsSuffix.trans]

theorem leaves_police {md : Bytes} {len : Nat} : s.Leaves (police md len s).1 := by
  unfold police
  split
  · exact .refl s
  · extract_lets i k fl
    clear_value k fl
    split
    · exact leaves_inc
    · split
      · exact .refl s
      · split
        next c k' _ =>
        extract_lets u
        have hu : s.Leaves u := leaves_inc.after leaves_setPolicer
        clear_value u
        split
        · exact leaves_inc.after hu
        · exact hu

theorem leaves_ecnMark {q : Nat} {md : Bytes} : s.Leaves (ecnMark q md s).1 := by
  unfold ecnMark
  grind [State.Leaves, List.IsSuffix.trans, leaves_inc]

theorem leaves_admitStep {q len : Nat} {md : Bytes} : s.Leaves (admitStep q len md s).1 := by
  unfold admitStep
  grind [State.Leaves, List.IsSuffix.trans, leaves_inc, leaves_ecnMark]

theorem leaves_tryQueue {q len : Nat} {md : Bytes} : s.Leaves (tryQueue q len md s).1 := by
  unfold tryQueue
  grind [State.Leaves, List.IsSuffix.trans, leaves_onQue, leaves_admitStep]

theorem leaves_refusePkt {id : Nat} : s.Leaves (refusePkt id s) := by
  unfold refusePkt
  grind [State.Leaves, List.IsSuffix.trans, leaves_forgetPkt]

theorem leaves_undoDepth {q len : Nat} : s.Leaves (undoDepth q len s) := by
  unfold undoDepth
  grind [State.Leaves, List.IsSuffix.trans, leaves_onQue]

theorem leaves_storePkt {id r pool head len copies : Nat} {p : Packet} {md : Bytes} :
    s.Leaves (storePkt id r pool head len copies p md s) := by
  unfold storePkt
  grind [State.Leaves, List.IsSuffix.trans, leaves_setStore, leaves_addPfc]

theorem leaves_pushEnt {q id len pool : Nat} {md : Bytes} : s.Leaves (pushEnt q id len pool md s) := by
  unfold pushEnt
  grind [State.Leaves, List.IsSuffix.trans, leaves_inc, leaves_onQue, leaves_voqState]

theorem leaves_bodyPages {r pool head n got : Nat} : s.Leaves (bodyPages r pool head n got s).1 := by
  induction n generalizing got s with
  | zero => exact .refl s
  | succ n ih =>
    have ht := leaves_grantPage (s := s) (r := r) (pool := pool) (head := some head)
    unfold bodyPages
    split
    · next e => rw [e] at ht; exact ht.trans ih
    · next e => rw [e] at ht; exact ht

theorem leaves_takeBody {id : Nat} : s.Leaves (takeBody id s) := by
  unfold takeBody
  grind [State.Leaves, List.IsSuffix.trans, doIf, leaves_setStore, leaves_bodyPages]

theorem leaves_enqueueOne {mc : Bool} {r id q len : Nat} {p : Packet} {md : Bytes} :
    s.Leaves (enqueueOne mc r id q len p md s) := by
  unfold enqueueOne
  grind [State.Leaves, List.IsSuffix.trans, doIf, leaves_inc, leaves_grantPage, leaves_countDrop, leaves_countMcDrop,
    leaves_refusePkt, leaves_undoDepth, leaves_storePkt, leaves_pushEnt, leaves_takeBody]

theorem leaves_unicast {r id q len : Nat} {p : Packet} {md : Bytes} : s.Leaves (unicast r id q len p md s) := by
  unfold unicast
  grind [State.Leaves, List.IsSuffix.trans, leaves_inc, leaves_countDrop, leaves_tryQueue, leaves_refusePkt, leaves_enqueueOne]

theorem leaves_judgeCopies {len : Nat} {cs : List (Option (Nat × Bytes))} : s.Leaves (judgeCopies len cs s).1 := by
  induction cs generalizing s with
  | nil => exact .refl s
  | cons c cs ih =>
    cases c with
    | none => exact leaves_inc.trans ih
    | some x =>
      have ht := leaves_tryQueue (s := s) (q := x.1) (len := len) (md := x.2)
      unfold judgeCopies
      dsimp only
      split
      · next e => rw [e] at ht; exact ht.trans ih
      · next e => rw [e] at ht; exact ht.trans (leaves_inc.trans ih)
      · next e => rw [e] at ht; exact ht.trans (leaves_countMcDrop.trans ih)

theorem leaves_takeRefs {r id head len : Nat} {cs : List (Nat × Bytes)} : s.Leaves (takeRefs r id head len cs s) := by
  induction cs generalizing s with
  | nil => exact .refl s
  | cons c cs ih =>
    have ht := leaves_bpmInc (s := s) (r := r) (pool := 0) (head := head)
    unfold takeRefs
    dsimp only
    split
    · next e =>
      rw [e] at ht
      refine ht.trans (.trans ?_ (leaves_inc.trans (leaves_pushEnt.trans ih)))
      split
      · exact leaves_setStore
      · exact .refl _
    · next e =>
      rw [e] at ht
      exact ht.trans (leaves_forEach fun _ _ => leaves_undoDepth.trans leaves_countMcDrop)

theorem leaves_storeCopies {r id len : Nat} {p : Packet} {l : List (Nat × Bytes)} : s.Leaves (storeCopies r id len p l s) := by
  unfold storeCopies
  grind [State.Leaves, List.IsSuffix.trans, leaves_forEach, leaves_inc, leaves_grantPage, leaves_countMcDrop, leaves_refusePkt,
    leaves_undoDepth, leaves_storePkt, leaves_pushEnt, leaves_takeBody, leaves_enqueueOne, leaves_takeRefs]

theorem leaves_multicast {r id len : Nat} {egress : Bool} {p : Packet} {md : Bytes} :
    s.Leaves (multicast r id len egress p md s) := by
  unfold multicast
  grind [State.Leaves, List.IsSuffix.trans, leaves_inc, leaves_refusePkt, leaves_judgeCopies, leaves_storeCopies]

theorem leaves_recircEnqueue {r id len : Nat} {p : Packet} {md : Bytes} : s.Leaves (recircEnqueue r id len p md s) := by
  unfold recircEnqueue
  grind [State.Leaves, List.IsSuffix.trans, leaves_inc, leaves_grantPage, leaves_setStore, leaves_addPfc, leaves_refusePkt,
    leaves_takeBody]

theorem leaves_policedUnicast {r id q len : Nat} {p : Packet} {md : Bytes} : s.Leaves (policedUnicast r id q len p md s) := by
  unfold policedUnicast
  grind [State.Leaves, List.IsSuffix.trans, leaves_countDrop, leaves_police, leaves_refusePkt, leaves_unicast]

theorem leaves_handleArrival {r id : Nat} {p : Packet} : s.Leaves (handleArrival r id p s) := by
  unfold handleArrival
  grind [State.Leaves, List.IsSuffix.trans, leaves_inc, leaves_police, leaves_refusePkt, leaves_multicast,
    leaves_recircEnqueue, leaves_policedUnicast]

theorem leaves_offBridge {dir id : Nat} : s.Leaves (offBridge dir id s) := by
  unfold offBridge
  grind [State.Leaves, List.IsSuffix.trans, leaves_takeFlits]

theorem leaves_queueArrival {r : Nat} : s.Leaves (queueArrival r s) := by
  unfold queueArrival
  grind [State.Leaves, List.IsSuffix.trans, leaves_handleArrival, leaves_offBridge]

theorem leaves_correctEnts {id len : Nat} {pool : Nat} : s.Leaves (correctEnts id len pool s) := by
  unfold correctEnts
  grind [State.Leaves, List.IsSuffix.trans, leaves_forEach, leaves_setQue]

theorem leaves_tailToEgress {id : Nat} {bytes : Bytes} {stomp : Bool} : s.Leaves (tailToEgress id bytes stomp s) := by
  unfold tailToEgress
  split
  · exact .refl s
  · refine .after (leaves_forEach fun x u => .trans (leaves_dropRef (id := id)) ?_) ⟨rfl, rfl, List.suffix_rfl⟩
    dsimp only
    split
    · exact leaves_bridgeTail.after (leaves_setPkt.after (leaves_doIf fun _ => leaves_lenLate))
    · exact .refl _

theorem leaves_tailKept {id : Nat} : s.Leaves (tailKept id s) := by
  unfold tailKept
  grind [State.Leaves, List.IsSuffix.trans, leaves_erasePkt, leaves_setStore, leaves_addPfc, leaves_offBridge,
    leaves_correctEnts, leaves_tailToEgress]

theorem leaves_tailStored {id : Nat} : s.Leaves (tailStored id s) := by
  unfold tailStored
  grind [State.Leaves, List.IsSuffix.trans, leaves_takeBody, leaves_tailKept]

theorem leaves_flitAndPages {dir chan seq : Nat} {crcOk : Bool} {flit : Bytes} :
    s.Leaves (flitAndPages dir chan seq crcOk flit s) := by
  unfold flitAndPages
  grind [State.Leaves, List.IsSuffix.trans, leaves_forEach, leaves_flitReceive, leaves_takeBody]

theorem leaves_voqAge {q : Nat} : s.Leaves (voqAge q s) := by
  unfold voqAge
  grind [State.Leaves, List.IsSuffix.trans, leaves_discardHead]

theorem leaves_chargeQue {q len : Nat} : s.Leaves (chargeQue q len s) := by
  unfold chargeQue
  grind [State.Leaves, List.IsSuffix.trans, leaves_onQue]

theorem leaves_startHead {q : Nat} {e : QEnt} : s.Leaves (startHead q e s) := by
  unfold startHead
  grind [State.Leaves, List.IsSuffix.trans, leaves_fabInc, leaves_setGroup, leaves_onQue, leaves_dropRef, leaves_popEnt,
    leaves_chargeQue]

theorem leaves_voqStart {q : Nat} : s.Leaves (voqStart q s) := by
  unfold voqStart
  grind [State.Leaves, List.IsSuffix.trans, leaves_discardHead, leaves_startHead]

theorem leaves_creditRefresh {q : Nat} : s.Leaves (creditRefresh q s) := by
  unfold creditRefresh
  grind [State.Leaves, List.IsSuffix.trans, leaves_sendRequest]

theorem leaves_takeGrant {m : GrantMsg} : s.Leaves (takeGrant m s) := by
  unfold takeGrant
  grind [State.Leaves, List.IsSuffix.trans, doIf, leaves_inc, leaves_setQue]

theorem leaves_grantReceive : s.Leaves (grantReceive s) := by
  unfold grantReceive
  grind [State.Leaves, List.IsSuffix.trans, leaves_takeGrant]

theorem leaves_takeReq {m : ReqMsg} : s.Leaves (takeReq m s) := by
  unfold takeReq
  grind [State.Leaves, List.IsSuffix.trans]

theorem leaves_requestReceive : s.Leaves (requestReceive s) := by
  unfold requestReceive
  grind [State.Leaves, List.IsSuffix.trans, leaves_takeReq]

theorem leaves_requestExpire {port tc dev : Nat} : s.Leaves (requestExpire port tc dev s) := by
  unfold requestExpire
  grind [State.Leaves, List.IsSuffix.trans]

theorem leaves_grantIssue {port : Nat} : s.Leaves (grantIssue port s) := by
  unfold grantIssue
  grind [State.Leaves, List.IsSuffix.trans, leaves_inc, leaves_sendCredit]

theorem leaves_drrStore {level parentLevel parent : Nat} {r : Cand × List (Nat × Int)} :
    s.Leaves (drrStore level parentLevel parent r s) := by
  unfold drrStore
  grind [State.Leaves, List.IsSuffix.trans, leaves_forEach, leaves_onQue, leaves_setNode]

theorem leaves_chargeNode {level i len : Nat} : s.Leaves (chargeNode level i len s) := by
  unfold chargeNode
  grind [State.Leaves, List.IsSuffix.trans, leaves_setNode]

theorem leaves_chargePath {port q len : Nat} : s.Leaves (chargePath port q len s) :=
  leaves_chargeQue.trans (leaves_chargeNode.trans (leaves_chargeNode.trans leaves_chargeNode))

theorem leaves_serveLevel {level parentLevel parent : Nat} {kids : List Cand} :
    s.Leaves (serveLevel level parentLevel parent kids s).1 := by
  unfold serveLevel
  grind [State.Leaves, List.IsSuffix.trans, leaves_drrStore]

theorem leaves_pickQueue {port : Nat} : s.Leaves (pickQueue port s).1 := by
  unfold pickQueue
  grind [State.Leaves, List.IsSuffix.trans, leaves_serveLevel]

theorem leaves_portBusy {port len : Nat} : s.Leaves (portBusy port len s) := by
  unfold portBusy
  grind [State.Leaves, List.IsSuffix.trans, leaves_setNode]

theorem leaves_startEgress {port q : Nat} {e : QEnt} {st : Stored} : s.Leaves (startEgress port q e st s) := by
  unfold startEgress
  grind [State.Leaves, List.IsSuffix.trans, leaves_newPkt, leaves_bridgeRouted, leaves_dropRef, leaves_popEnt,
    leaves_chargePath, leaves_portBusy]

theorem leaves_serveEgress {port q : Nat} : s.Leaves (serveEgress port q s) := by
  unfold serveEgress
  grind [State.Leaves, List.IsSuffix.trans, leaves_discardHead, leaves_startEgress]

theorem leaves_egressDequeue {port : Nat} : s.Leaves (egressDequeue port s) := by
  unfold egressDequeue
  grind [State.Leaves, List.IsSuffix.trans, leaves_discardHead, leaves_pickQueue, leaves_serveEgress]

theorem leaves_underrun {port : Nat} : s.Leaves (underrun port s) := by
  unfold underrun
  grind [State.Leaves, List.IsSuffix.trans, leaves_inc, leaves_setPkt, leaves_bridgeTail, leaves_dropRef]

theorem leaves_egressEntry {port : Nat} : s.Leaves (egressEntry port s) := by
  unfold egressEntry
  grind [State.Leaves, List.IsSuffix.trans, leaves_inc, leaves_notePass, leaves_setPkt, leaves_erasePkt, leaves_takeFlits,
    leaves_countDrop]

theorem leaves_recircReturn : s.Leaves (recircReturn s) := by
  unfold recircReturn
  split
  · exact .refl s
  · split
    · exact ⟨rfl, rfl, List.suffix_rfl⟩
    · split
      · exact .refl s
      · dsimp only
        split
        · next ctr _ =>
          refine leaves_dropRef.after ?_
          rcases ctr with _ | c
          · exact ⟨rfl, rfl, List.suffix_rfl⟩
          · exact (leaves_inc (off := R.qDevCtr c)).trans ⟨rfl, rfl, List.suffix_rfl⟩
        · split
          · exact .refl s
          · split
            · exact .refl s
            · exact leaves_admitTo.after (leaves_dropRef.after ⟨rfl, rfl, List.suffix_rfl⟩)

theorem leaves_flushSome {q n : Nat} : s.Leaves (flushSome q n s) := by
  unfold flushSome
  grind [State.Leaves, List.IsSuffix.trans, leaves_forEach, leaves_discardHead]

theorem leaves_flushQue {q : Nat} : s.Leaves (flushQue q s) := by
  unfold flushQue
  grind [State.Leaves, List.IsSuffix.trans, leaves_flushSome]

theorem leaves_loseHead {q : Nat} : s.Leaves (loseHead q s) := by
  unfold loseHead
  grind [State.Leaves, List.IsSuffix.trans, leaves_bpmRefresh, leaves_dropUsed, leaves_losePages, leaves_walkOn, leaves_addPfc,
    leaves_forgetPkt, leaves_dropRef, leaves_popEnt]

theorem leaves_queueBroken {q : Nat} : s.Leaves (queueBroken q s) := by
  unfold queueBroken
  exact (leaves_forEach fun _ _ => leaves_loseHead).after (leaves_flushSome.after ⟨rfl, rfl, List.suffix_rfl⟩)

theorem leaves_setObjBad {obj i : Nat} {b : Bool} : s.Leaves (setObjBad obj i b s) := by
  unfold setObjBad
  grind [State.Leaves, List.IsSuffix.trans, leaves_onQue, leaves_setPolicer, leaves_setNode]

theorem leaves_qCountBad {q i : Nat} : s.Leaves (qCountBad q i s) := by
  unfold qCountBad
  grind [State.Leaves, List.IsSuffix.trans, leaves_inc, leaves_report, leaves_onQue]

theorem leaves_qEccBad {obj i : Nat} : s.Leaves (qEccBad obj i s) := by
  unfold qEccBad
  grind [State.Leaves, List.IsSuffix.trans, doIf, leaves_inc, leaves_report, leaves_queueBroken, leaves_setObjBad,
    leaves_qCountBad]

theorem leaves_qEccFix {obj i : Nat} : s.Leaves (qEccFix obj i s) := by
  unfold qEccFix
  grind [State.Leaves, List.IsSuffix.trans, leaves_inc, leaves_report]

theorem leaves_qMemBad {m : QMem} : s.Leaves (qMemBad m s) := by
  unfold qMemBad
  grind [State.Leaves, List.IsSuffix.trans, leaves_wr, leaves_inc, leaves_report, leaves_qCountBad, leaves_qEccBad]

theorem leaves_qEccFound {m : QMem} {ecc : Ecc} : s.Leaves (qEccFound m ecc s) := by
  unfold qEccFound
  grind [State.Leaves, List.IsSuffix.trans, leaves_qEccFix, leaves_qMemBad]

theorem leaves_qStore {obj i : Nat} {b : Bytes} : s.Leaves (qStore obj i b s) := by
  unfold qStore
  grind [State.Leaves, List.IsSuffix.trans, leaves_onQue, leaves_setNode, leaves_setPolicer, leaves_setObjBad]

theorem leaves_qWriteDo {fn : Fn} {p obj i : Nat} : s.Leaves (qWriteDo fn p obj i s) := by
  unfold qWriteDo
  grind [State.Leaves, List.IsSuffix.trans, leaves_quiesceLog, leaves_complete, leaves_qStore]

theorem leaves_qReadDo {p obj i : Nat} {ecc : Ecc} : s.Leaves (qReadDo p obj i ecc s) := by
  unfold qReadDo
  grind [State.Leaves, List.IsSuffix.trans, doIf, leaves_complete, leaves_setData, leaves_qEccBad, leaves_qEccFix]

theorem leaves_qCommitDo {p obj c : Nat} : s.Leaves (qCommitDo p obj c s) := by
  unfold qCommitDo
  grind [State.Leaves, List.IsSuffix.trans, leaves_complete, leaves_setObjBad]

theorem leaves_qFlushDo {p i : Nat} : s.Leaves (qFlushDo p i s) := by
  unfold qFlushDo
  grind [State.Leaves, List.IsSuffix.trans, leaves_complete]

theorem leaves_flushDone {p : Nat} : s.Leaves (flushDone p s) := by
  unfold flushDone
  grind [State.Leaves, List.IsSuffix.trans, leaves_complete, leaves_flushQue]

theorem leaves_flushTimeout {p : Nat} : s.Leaves (flushTimeout p s) := by
  unfold flushTimeout
  split
  · exact .refl s
  · split
    · exact leaves_complete.after (leaves_flushSome.after ⟨rfl, rfl, List.suffix_rfl⟩)
    · exact .refl s

theorem leaves_qPerform {fn : Fn} {p op obj i : Nat} {ecc : Ecc} : s.Leaves (qPerform fn p op obj i ecc s) := by
  unfold qPerform
  grind [State.Leaves, List.IsSuffix.trans, leaves_qWriteDo, leaves_qReadDo, leaves_qCommitDo, leaves_qFlushDo]

theorem leaves_qAct {fn : Fn} {p op obj i : Nat} {ecc : Ecc} : s.Leaves (qAct fn p op obj i ecc s) := by
  unfold qAct
  grind [State.Leaves, List.IsSuffix.trans, leaves_runChecks, leaves_qPerform]

theorem leaves_qCommand {fn : Fn} {p : Nat} {w : Word} {ecc : Ecc} : s.Leaves (qCommand fn p w ecc s) := by
  unfold qCommand
  grind [State.Leaves, List.IsSuffix.trans, leaves_orHold, leaves_issue, leaves_qAct]

theorem leaves_qIssue {fn : Fn} {op obj : Nat} {ecc : Ecc} : s.Leaves (qIssue fn op obj ecc s) := by
  unfold qIssue
  grind [State.Leaves, List.IsSuffix.trans, leaves_access, leaves_qCommand]

theorem leaves_clearAuto : s.Leaves (clearAuto s) := by
  unfold clearAuto
  grind [State.Leaves, List.IsSuffix.trans, leaves_setFld, leaves_fbRefresh]

end Sys2Proof.Machine
end

section
/-! SUPPORT. The same of the operations of Calendar, Fabric. -/

namespace Sys2Proof.Machine

variable {s t : State}

-- Each proof waits for the ones it cites: elaborated in turn, no thread stands waiting for another.
set_option Elab.async false

/-! ### Calendar -/

theorem leaves_setCalImg {b : Nat} {i : Bytes} : s.Leaves (setCalImg b i s) := by
  unfold setCalImg
  grind [State.Leaves, List.IsSuffix.trans]

theorem leaves_calShow {b flows epoch : Nat} : s.Leaves (calShow b flows epoch s) := by
  unfold calShow
  grind [State.Leaves, List.IsSuffix.trans, leaves_setFld]

theorem leaves_calTo {b st : Nat} : s.Leaves (calTo b st s) := by
  unfold calTo
  grind [State.Leaves, List.IsSuffix.trans, doIf, leaves_setFld, leaves_setCalImg, leaves_calShow]

theorem leaves_tsiRefresh : s.Leaves (tsiRefresh s) := by
  unfold tsiRefresh
  grind [State.Leaves, List.IsSuffix.trans, leaves_setFld]

theorem leaves_calReserve : s.Leaves (calReserve s) := by
  unfold calReserve
  exact leaves_bpmRefresh.after ⟨rfl, rfl, List.suffix_rfl⟩

theorem leaves_disarm {b : Nat} : s.Leaves (disarm b s) := by
  unfold disarm
  grind [State.Leaves, List.IsSuffix.trans, leaves_tsiRefresh]

theorem leaves_calAlarm : s.Leaves (calAlarm s) := by
  unfold calAlarm
  grind [State.Leaves, List.IsSuffix.trans, doIf, leaves_raiseBlock]

theorem leaves_voteHalt : s.Leaves (voteHalt s) := by
  unfold voteHalt
  grind [State.Leaves, List.IsSuffix.trans, leaves_setFld, leaves_report, leaves_calAlarm]

theorem leaves_outvote {c : Nat} : s.Leaves (outvote c s) := by
  unfold outvote
  grind [State.Leaves, List.IsSuffix.trans, leaves_setFld, leaves_inc, leaves_report, leaves_voteHalt]

theorem leaves_voteWord {v : Vote} : s.Leaves (voteWord v s) := by
  unfold voteWord
  grind [State.Leaves, List.IsSuffix.trans, leaves_voteHalt, leaves_outvote]

theorem leaves_calFail {b : Nat} {f : Fail} : s.Leaves (calFail b f s) := by
  unfold calFail
  grind [State.Leaves, List.IsSuffix.trans, leaves_complete, leaves_calTo]

theorem leaves_schedLoad {b : Nat} : s.Leaves (schedLoad b s) := by
  unfold schedLoad
  grind [State.Leaves, List.IsSuffix.trans, leaves_calTo, leaves_calFail]

theorem leaves_schedSwapAt {b m : Nat} : s.Leaves (schedSwapAt b m s) := by
  unfold schedSwapAt
  grind [State.Leaves, List.IsSuffix.trans, leaves_complete]

theorem leaves_schedSwap {b : Nat} : s.Leaves (schedSwap b s) := by
  unfold schedSwap
  grind [State.Leaves, List.IsSuffix.trans, leaves_schedSwapAt]

theorem leaves_schedAbort {b : Nat} : s.Leaves (schedAbort b s) := by
  unfold schedAbort
  grind [State.Leaves, List.IsSuffix.trans, leaves_complete, leaves_calTo, leaves_disarm]

theorem leaves_schedRestart {v : Vote} : s.Leaves (schedRestart v s) := by
  unfold schedRestart
  grind [State.Leaves, List.IsSuffix.trans, leaves_complete, leaves_voteWord]

theorem leaves_schedPerform {op b gen : Nat} {v : Vote} : s.Leaves (schedPerform op b gen v s) := by
  unfold schedPerform
  grind [State.Leaves, List.IsSuffix.trans, leaves_complete, leaves_schedLoad, leaves_schedSwap, leaves_schedAbort,
    leaves_schedRestart]

theorem leaves_schedCommand {fn : Fn} {p : Nat} {w : Word} {v : Vote} : s.Leaves (schedCommand fn p w v s) := by
  unfold schedCommand
  grind [State.Leaves, List.IsSuffix.trans, leaves_denied, leaves_accept, leaves_orHold, leaves_issue, leaves_schedAbort,
    leaves_schedPerform]

theorem leaves_schedIssue {fn : Fn} {op b gen : Nat} {v : Vote} : s.Leaves (schedIssue fn op b gen v s) := by
  unfold schedIssue
  grind [State.Leaves, List.IsSuffix.trans, leaves_access, leaves_schedCommand]

theorem leaves_schedData {d : Dma} {storeOk : Bool} : s.Leaves (schedData d storeOk s) := by
  unfold schedData
  rcases s.cal.loading with _ | b
  · exact .refl s
  · cases d <;> dsimp only <;> grind [State.Leaves, List.IsSuffix.trans, leaves_setCalImg, leaves_calTo, leaves_calFail]

theorem leaves_schedVerify : s.Leaves (schedVerify s) := by
  unfold schedVerify
  grind [State.Leaves, List.IsSuffix.trans, leaves_complete, leaves_calShow, leaves_calTo, leaves_calFail]

theorem leaves_schedArm : s.Leaves (schedArm s) := by
  unfold schedArm
  grind [State.Leaves, List.IsSuffix.trans, leaves_complete, leaves_calTo, leaves_tsiRefresh]

theorem leaves_disarmedEvent {b m : Nat} : s.Leaves (disarmedEvent b m s) := by
  unfold disarmedEvent
  grind [State.Leaves, List.IsSuffix.trans, leaves_setFld, leaves_report, leaves_disarm, leaves_calAlarm]

theorem leaves_calEcc {b : Nat} : s.Leaves (calEcc b s) := by
  unfold calEcc
  grind [State.Leaves, List.IsSuffix.trans, leaves_complete, leaves_calTo, leaves_calFail, leaves_disarmedEvent]

theorem leaves_setTxFrame {key : Nat} {f : TxFrame} : s.Leaves (setTxFrame key f s) := by
  unfold setTxFrame
  grind [State.Leaves, List.IsSuffix.trans]

theorem leaves_setPoolPage {p : Nat} {b : Bytes} : s.Leaves (setPoolPage p b s) := by
  unfold setPoolPage
  grind [State.Leaves, List.IsSuffix.trans]

theorem leaves_poolWrite {a : Nat} {b : Bytes} : s.Leaves (poolWrite a b s) := by
  unfold poolWrite
  grind [State.Leaves, List.IsSuffix.trans, leaves_forEach, leaves_setPoolPage]

theorem leaves_storeTx {key : Nat} {f : TxFrame} {b : Bytes} : s.Leaves (storeTx key f b s) := by
  unfold storeTx
  grind [State.Leaves, List.IsSuffix.trans, leaves_bridgeSched, leaves_setTxFrame, leaves_poolWrite]

theorem leaves_setCur {port : Nat} {c : RxCur} : s.Leaves (setCur port c s) := by
  unfold setCur
  grind [State.Leaves, List.IsSuffix.trans]

theorem leaves_discardRx {port len : Nat} : s.Leaves (discardRx port len s) := by
  unfold discardRx
  grind [State.Leaves, List.IsSuffix.trans, leaves_setCur]

theorem leaves_awaitSegment {port len : Nat} {bad : Bool} : s.Leaves (awaitSegment port len bad s) := by
  unfold awaitSegment
  grind [State.Leaves, List.IsSuffix.trans, leaves_setCur]

theorem leaves_nonConforming {port len : Nat} {bad : Bool} {e : Bytes} {flow : Nat} :
    s.Leaves (nonConforming port len bad e flow s) := by
  unfold nonConforming
  grind [State.Leaves, List.IsSuffix.trans, leaves_inc, leaves_discardRx, leaves_awaitSegment]

theorem leaves_admitFlow {bank mf flow port : Nat} {first : Bytes} {t : Nat} {bad : Bool} :
    s.Leaves (admitFlow bank mf flow port first t bad s) := by
  unfold admitFlow
  grind [State.Leaves, List.IsSuffix.trans, leaves_inc, leaves_storeTx, leaves_setCur, leaves_nonConforming]

theorem leaves_flowMatch {port : Nat} {first : Bytes} {t : Nat} {fec : Fec} {v : Vote} :
    s.Leaves (flowMatch port first t fec v s) := by
  unfold flowMatch
  grind [State.Leaves, List.IsSuffix.trans, leaves_inc, leaves_countFec, leaves_countRx, leaves_voteWord, leaves_discardRx,
    leaves_awaitSegment, leaves_admitFlow]

theorem leaves_routedSegment {port : Nat} {seg : Bytes} {whole bad : Bool} {fec : Fec} :
    s.Leaves (routedSegment port seg whole bad fec s) := by
  unfold routedSegment
  grind [State.Leaves, List.IsSuffix.trans, leaves_headerSegment]

theorem leaves_overlenCut {port key : Nat} {f : TxFrame} {body : Bytes} : s.Leaves (overlenCut port key f body s) := by
  unfold overlenCut
  grind [State.Leaves, List.IsSuffix.trans, leaves_inc, leaves_storeTx, leaves_discardRx]

theorem leaves_markCur {port : Nat} {fec : Fec} : s.Leaves (markCur port fec s) := by
  unfold markCur
  grind [State.Leaves, List.IsSuffix.trans, leaves_setCur]

theorem leaves_schedOverlen {port : Nat} {body : Bytes} {fec : Fec} : s.Leaves (schedOverlen port body fec s) := by
  unfold schedOverlen
  grind [State.Leaves, List.IsSuffix.trans, leaves_countFec, leaves_overlenCut, leaves_markCur]

theorem leaves_schedTail {port : Nat} {body : Bytes} {tail : Tail} {fec : Fec} : s.Leaves (schedTail port body tail fec s) := by
  unfold schedTail
  grind [State.Leaves, List.IsSuffix.trans, leaves_inc, leaves_countRx, leaves_clearCur, leaves_setTxFrame, leaves_storeTx,
    leaves_overlenCut]

theorem leaves_linkAndSched {port : Nat} {up lf rf : Bool} {fec : Fec} : s.Leaves (linkAndSched port up lf rf fec s) := by
  unfold linkAndSched
  grind [State.Leaves, List.IsSuffix.trans, leaves_linkChange, leaves_tailAndAfter, leaves_schedTail]

theorem leaves_storeArrived {key : Nat} {arrived : Bytes} : s.Leaves (storeArrived key arrived s) := by
  unfold storeArrived
  grind [State.Leaves, List.IsSuffix.trans, leaves_storeTx, leaves_setCur, leaves_overlenCut]

theorem leaves_lateCell {key lane pos : Nat} {f : TxFrame} : s.Leaves (lateCell key lane pos f s) := by
  unfold lateCell
  grind [State.Leaves, List.IsSuffix.trans, doIf, leaves_inc, leaves_report, leaves_setTxFrame]

theorem leaves_entryCell {bank e lane pos : Nat} {arrived : Bytes} : s.Leaves (entryCell bank e lane pos arrived s).1 := by
  unfold entryCell
  grind [State.Leaves, List.IsSuffix.trans, leaves_setTxFrame, leaves_storeArrived, leaves_lateCell]

theorem leaves_tsiWord {lane : Nat} {ecc : Ecc} : s.Leaves (tsiWord lane ecc s) := by
  unfold tsiWord
  grind [State.Leaves, List.IsSuffix.trans, leaves_report, leaves_fabInc]

theorem leaves_digestCell {lane pos : Nat} {c : Bytes} : s.Leaves (digestCell lane pos c s) := by
  unfold digestCell
  grind [State.Leaves, List.IsSuffix.trans, doIf]

theorem leaves_calCell {bank e : Nat} {act : Bool} {lane pos : Nat} {arrived : Bytes} {ecc : Ecc} :
    s.Leaves (calCell bank e act lane pos arrived ecc s).1 := by
  unfold calCell
  grind [State.Leaves, List.IsSuffix.trans, leaves_entryCell]

theorem leaves_schedSlot {bank e : Nat} {act : Bool} {lane pos : Nat} {arrived : Bytes} {ecc : Ecc} {v : Vote} :
    s.Leaves (schedSlot bank e act lane pos arrived ecc v s).1 := by
  unfold schedSlot
  grind [State.Leaves, List.IsSuffix.trans, leaves_voteWord, leaves_tsiWord, leaves_digestCell, leaves_calCell]

theorem leaves_setRxBuf {key : Nat} {r : RxBuf} : s.Leaves (setRxBuf key r s) := by
  unfold setRxBuf
  grind [State.Leaves, List.IsSuffix.trans]

theorem leaves_placeCell {x : RxCell} {b e : Nat} : s.Leaves (placeCell x b e s) := by
  unfold placeCell
  grind [State.Leaves, List.IsSuffix.trans, leaves_poolWrite, leaves_setRxBuf]

theorem leaves_schedCellReceive {ecc : Ecc} {v : Vote} : s.Leaves (schedCellReceive ecc v s) := by
  unfold schedCellReceive
  grind [State.Leaves, List.IsSuffix.trans, leaves_inc, leaves_voteWord, leaves_tsiWord, leaves_placeCell]

theorem leaves_digestRel {bank r mf : Nat} {f : Option Bytes} : s.Leaves (digestRel bank r mf f s) := by
  unfold digestRel
  grind [State.Leaves, List.IsSuffix.trans, doIf]

theorem leaves_relOver {bank r mf len : Nat} {f : Option Bytes} : s.Leaves (relOver bank r mf len f s) := by
  unfold relOver
  grind [State.Leaves, List.IsSuffix.trans, leaves_setRxBuf, leaves_digestRel]

theorem leaves_releaseFrame {bank r mf : Nat} : s.Leaves (releaseFrame bank r mf s) := by
  unfold releaseFrame
  grind [State.Leaves, List.IsSuffix.trans, leaves_inc, leaves_bridgeSched, leaves_setMacQueue, leaves_relOver]

theorem leaves_schedRelease {bank r : Nat} {v : Vote} : s.Leaves (schedRelease bank r v s) := by
  unfold schedRelease
  grind [State.Leaves, List.IsSuffix.trans, leaves_inc, leaves_complete, leaves_voteWord, leaves_relOver, leaves_releaseFrame]

theorem leaves_heldFrame : s.Leaves (heldFrame s) := by
  unfold heldFrame
  grind [State.Leaves, List.IsSuffix.trans, leaves_inc]

theorem leaves_sendItem {port : Nat} {m : MacItem} : s.Leaves (sendItem port m s) := by
  unfold sendItem
  grind [State.Leaves, List.IsSuffix.trans, doIf, leaves_inc, leaves_erasePkt, leaves_sendSched, leaves_sendRouted,
    leaves_heldFrame]

theorem leaves_txFrame {port : Nat} : s.Leaves (txFrame port s) := by
  unfold txFrame
  grind [State.Leaves, List.IsSuffix.trans, leaves_setMacQueue, leaves_sendItem]

theorem leaves_alignCheck {n : Nat} : s.Leaves (alignCheck n s) := by
  unfold alignCheck
  grind [State.Leaves, List.IsSuffix.trans, leaves_setFld, leaves_report, leaves_calAlarm]

theorem leaves_slackCheck : s.Leaves (slackCheck s) := by
  unfold slackCheck
  grind [State.Leaves, List.IsSuffix.trans, doIf, leaves_setFld, leaves_report, leaves_calAlarm]

theorem leaves_armDeadline {n : Nat} : s.Leaves (armDeadline n s) := by
  unfold armDeadline
  extract_lets due u
  have hu : s.Leaves u := leaves_forEach fun _ _ => leaves_doIf fun _ => leaves_disarmedEvent.after leaves_calTo
  clear_value due u
  refine hu.trans ?_
  split
  · split
    · exact leaves_complete.after ⟨rfl, rfl, List.suffix_rfl⟩
    · exact .refl u
  · exact .refl u

theorem leaves_tsiCheck {n : Nat} : s.Leaves (tsiCheck n s) := by
  unfold tsiCheck
  grind [State.Leaves, List.IsSuffix.trans, doIf, leaves_forEach, leaves_setFld, leaves_report, leaves_fabInc]

theorem leaves_swapLive {b : Nat} : s.Leaves (swapLive b s) := by
  unfold swapLive
  grind [State.Leaves, List.IsSuffix.trans, doIf, leaves_wr, leaves_setFld, leaves_inc, leaves_raiseBlock, leaves_calTo,
    leaves_tsiRefresh, leaves_calReserve]

theorem leaves_retireEnd : s.Leaves (retireEnd s) := by
  unfold retireEnd
  grind [State.Leaves, List.IsSuffix.trans, leaves_calTo, leaves_calReserve]

theorem leaves_calRunNext : s.Leaves (calRunNext s) := by
  unfold calRunNext
  grind [State.Leaves, List.IsSuffix.trans, doIf]

theorem leaves_haltEnd {n : Nat} : s.Leaves (haltEnd n s) := by
  unfold haltEnd
  grind [State.Leaves, List.IsSuffix.trans, leaves_setFld, leaves_complete]

theorem leaves_calBoundary {n : Nat} {v : Vote} : s.Leaves (calBoundary n v s) := by
  unfold calBoundary
  extract_lets s1 s2 s3 s4 keep done src c s5 s6 s7 s8
  have h4 : s.Leaves s4 :=
    leaves_voteWord.after (leaves_haltEnd.after (leaves_setFld.after (leaves_alignCheck.after leaves_setFld)))
  have h6 : s4.Leaves s6 := leaves_retireEnd.after ⟨rfl, rfl, List.suffix_rfl⟩
  have h7 : s6.Leaves s7 := by
    unfold s7
    split
    · exact leaves_swapLive
    · exact .refl s6
  have h8 : s7.Leaves s8 := leaves_calRunNext
  exact leaves_tsiCheck.after (leaves_armDeadline.after (leaves_slackCheck.after (h8.after (h7.after (h6.after h4)))))

/-! ### Fabric -/

theorem leaves_setLaneStat {l : Nat} {f : Fld} {v : Nat} : s.Leaves (setLaneStat l f v s) := by
  unfold setLaneStat
  grind [State.Leaves, List.IsSuffix.trans, leaves_setFld]

theorem leaves_repinGroup {g : Nat} : s.Leaves (repinGroup g s) := by
  unfold repinGroup
  grind [State.Leaves, List.IsSuffix.trans, leaves_forEach, leaves_repin]

theorem leaves_refreshGroup {g : Nat} : s.Leaves (refreshGroup g s) := by
  unfold refreshGroup
  grind [State.Leaves, List.IsSuffix.trans, doIf, leaves_setFld, leaves_report, leaves_repinGroup]

theorem leaves_refreshLane {l : Nat} : s.Leaves (refreshLane l s) := by
  unfold refreshLane
  grind [State.Leaves, List.IsSuffix.trans, leaves_refreshGroup]

theorem leaves_laneDefect {d : Fld × Nat} {l : Nat} : s.Leaves (laneDefect d l s) := by
  unfold laneDefect
  grind [State.Leaves, List.IsSuffix.trans, leaves_report, leaves_fabIrq, leaves_setLaneStat]

theorem leaves_groupDefect {f : Fld} {byte g : Nat} : s.Leaves (groupDefect f byte g s) := by
  unfold groupDefect
  grind [State.Leaves, List.IsSuffix.trans, leaves_setFld, leaves_report, leaves_fabIrq]

theorem leaves_clearStore {l : Nat} : s.Leaves (clearStore l s) := by
  unfold clearStore
  grind [State.Leaves, List.IsSuffix.trans, leaves_setGroup]

theorem leaves_toHunt {l : Nat} : s.Leaves (toHunt l s) := by
  unfold toHunt
  grind [State.Leaves, List.IsSuffix.trans, doIf, leaves_setLane, leaves_setLaneStat, leaves_laneDefect, leaves_clearStore]

theorem leaves_fabLos {l : Nat} : s.Leaves (fabLos l s) := by
  unfold fabLos
  grind [State.Leaves, List.IsSuffix.trans, doIf, leaves_refreshLane, leaves_laneDefect, leaves_toHunt]

theorem leaves_fabSignalLock {l : Nat} : s.Leaves (fabSignalLock l s) := by
  unfold fabSignalLock
  grind [State.Leaves, List.IsSuffix.trans, leaves_setLaneStat, leaves_refreshLane]

theorem leaves_framerStart : s.Leaves (framerStart s) := by
  unfold framerStart
  grind [State.Leaves, List.IsSuffix.trans]

theorem leaves_framerStop : s.Leaves (framerStop s) := by
  unfold framerStop
  grind [State.Leaves, List.IsSuffix.trans, doIf, leaves_forEach, leaves_setFld, leaves_bump, leaves_fabIrq]

/-! ### Lanes -/

theorem leaves_framerRun : s.Leaves (framerRun s) := by
  unfold framerRun
  grind [State.Leaves, List.IsSuffix.trans, leaves_setFld, leaves_mfPulse, leaves_fabIrq, leaves_calBoundary]

/-! ### Fabric -/

theorem leaves_laneStart {l : Nat} : s.Leaves (laneStart l s) := by
  unfold laneStart
  grind [State.Leaves, List.IsSuffix.trans, leaves_setLane, leaves_setLaneStat, leaves_laneDefect]

theorem leaves_laneStop {l : Nat} : s.Leaves (laneStop l s) := by
  unfold laneStop
  grind [State.Leaves, List.IsSuffix.trans, leaves_toHunt]

theorem leaves_traceDue {l : Nat} : s.Leaves (traceDue l s) := by
  unfold traceDue
  grind [State.Leaves, List.IsSuffix.trans, leaves_setLane]

theorem leaves_laneCfgEffect {l : Nat} {old : Word} {check : Bool} : s.Leaves (laneCfgEffect l old check s) := by
  unfold laneCfgEffect
  grind [State.Leaves, List.IsSuffix.trans, doIf, leaves_setLaneStat, leaves_refreshGroup, leaves_laneStart, leaves_laneStop,
    leaves_traceDue]

theorem leaves_reachEffect {d : Nat} {old : Word} : s.Leaves (reachEffect d old s) := by
  unfold reachEffect
  grind [State.Leaves, List.IsSuffix.trans, doIf, leaves_repin]

theorem leaves_repinGuard {d : Nat} : s.Leaves (repinGuard d s) := by
  unfold repinGuard
  grind [State.Leaves, List.IsSuffix.trans]

theorem leaves_turnGroup {g n : Nat} : s.Leaves (turnGroup g n s) := by
  unfold turnGroup
  grind [State.Leaves, List.IsSuffix.trans, leaves_setGroup]

theorem leaves_frameTransmit {l : Nat} : s.Leaves (frameTransmit l s) := by
  unfold frameTransmit
  grind [State.Leaves, List.IsSuffix.trans, doIf, leaves_emit, leaves_setLane, leaves_framerRun, leaves_turnGroup]

theorem leaves_pickStream {g : Nat} : s.Leaves (pickStream g s).1 := by
  unfold pickStream
  grind [State.Leaves, List.IsSuffix.trans]

theorem leaves_routedCell {g : Nat} : s.Leaves (routedCell g s).1 := by
  unfold routedCell
  grind [State.Leaves, List.IsSuffix.trans, leaves_fabInc, leaves_setGroup, leaves_dropRef, leaves_pickStream]

theorem leaves_slotCell {l pos : Nat} {arrived : Bytes} {ecc : Ecc} {v : Vote} : s.Leaves (slotCell l pos arrived ecc v s).1 :=
    by
  unfold slotCell
  grind [State.Leaves, List.IsSuffix.trans, leaves_schedSlot, leaves_routedCell]

theorem leaves_slotPick {l pos : Nat} {arrived : Bytes} {ecc : Ecc} {v : Vote} : s.Leaves (slotPick l pos arrived ecc v s) := by
  unfold slotPick
  grind [State.Leaves, List.IsSuffix.trans, doIf, leaves_emit, leaves_setLane, leaves_setGroup, leaves_framerRun,
    leaves_slotCell]

theorem leaves_aisFrame {l : Nat} {seen : Bool} : s.Leaves (aisFrame l seen s) := by
  unfold aisFrame
  grind [State.Leaves, List.IsSuffix.trans, leaves_setLane, leaves_setLaneStat, leaves_laneDefect]

theorem leaves_rdiFrame {l : Nat} {seen : Bool} : s.Leaves (rdiFrame l seen s) := by
  unfold rdiFrame
  grind [State.Leaves, List.IsSuffix.trans, doIf, leaves_fabIrq, leaves_setLane, leaves_setLaneStat]

theorem leaves_traceAccept {l : Nat} {str : Bytes} : s.Leaves (traceAccept l str s) := by
  unfold traceAccept
  grind [State.Leaves, List.IsSuffix.trans, leaves_forEach, leaves_wr, leaves_fabIrq, leaves_setLane, leaves_setLaneStat,
    leaves_laneDefect]

theorem leaves_traceByte {l fn : Nat} {b : BitVec 8} : s.Leaves (traceByte l fn b s) := by
  unfold traceByte
  grind [State.Leaves, List.IsSuffix.trans, leaves_setLane, leaves_traceAccept]

theorem leaves_bipCheck {l : Nat} {wire : Bytes} {carried : Nat} : s.Leaves (bipCheck l wire carried s) := by
  unfold bipCheck
  grind [State.Leaves, List.IsSuffix.trans, doIf, leaves_fabBump, leaves_fabInc, leaves_setLane]

theorem leaves_showOverhead {l : Nat} {d : Bytes} : s.Leaves (showOverhead l d s) := by
  unfold showOverhead
  grind [State.Leaves, List.IsSuffix.trans, leaves_setFld, leaves_setLaneStat]

theorem leaves_storeFrame {l : Nat} {d : Bytes} : s.Leaves (storeFrame l d s) := by
  unfold storeFrame
  grind [State.Leaves, List.IsSuffix.trans, leaves_setGroup]

theorem leaves_heldFrameMore {l : Nat} : s.Leaves (heldFrameMore l s) := by
  unfold heldFrameMore
  grind [State.Leaves, List.IsSuffix.trans, doIf, leaves_setLane, leaves_setLaneStat]

theorem leaves_gmmFrame {g : Nat} : s.Leaves (gmmFrame g s) := by
  unfold gmmFrame
  grind [State.Leaves, List.IsSuffix.trans, leaves_setFld, leaves_setGroup, leaves_groupDefect]

theorem leaves_rdiPFrame {g : Nat} {seen : Bool} : s.Leaves (rdiPFrame g seen s) := by
  unfold rdiPFrame
  grind [State.Leaves, List.IsSuffix.trans, doIf, leaves_setFld, leaves_fabIrq, leaves_setGroup]

theorem leaves_memberFrame {l : Nat} {rdiP : Bool} : s.Leaves (memberFrame l rdiP s) := by
  unfold memberFrame
  grind [State.Leaves, List.IsSuffix.trans, doIf, leaves_gmmFrame, leaves_rdiPFrame]

theorem leaves_readFrame {l : Nat} {wire : Bytes} : s.Leaves (readFrame l wire s) := by
  unfold readFrame
  grind [State.Leaves, List.IsSuffix.trans, doIf, leaves_fabBump, leaves_setLane, leaves_refreshLane, leaves_aisFrame,
    leaves_rdiFrame, leaves_traceByte, leaves_bipCheck, leaves_showOverhead, leaves_storeFrame, leaves_memberFrame]

theorem leaves_enterSync {l : Nat} : s.Leaves (enterSync l s) := by
  unfold enterSync
  grind [State.Leaves, List.IsSuffix.trans, leaves_setLane, leaves_setLaneStat]

theorem leaves_frameReceive {l pos : Nat} {wire : Bytes} : s.Leaves (frameReceive l pos wire s) := by
  unfold frameReceive
  grind [State.Leaves, List.IsSuffix.trans, leaves_fabInc, leaves_setLane, leaves_setLaneStat, leaves_refreshLane,
    leaves_toHunt, leaves_heldFrameMore, leaves_readFrame, leaves_enterSync]

theorem leaves_groupSkew {g : Nat} {l : List MemFrame} : s.Leaves (groupSkew g l s) := by
  unfold groupSkew
  grind [State.Leaves, List.IsSuffix.trans, doIf, leaves_setFld, leaves_setGroup, leaves_groupDefect]

theorem leaves_groupParity {g n : Nat} {l : List MemFrame} : s.Leaves (groupParity g n l s) := by
  unfold groupParity
  grind [State.Leaves, List.IsSuffix.trans, leaves_fabBump, leaves_setGroup]

theorem leaves_groupTake {g n : Nat} {l : List MemFrame} : s.Leaves (groupTake g n l s) := by
  unfold groupTake
  grind [State.Leaves, List.IsSuffix.trans, leaves_setGroup, leaves_refreshGroup, leaves_groupSkew, leaves_groupParity]

theorem leaves_groupRepeat {g : Nat} : s.Leaves (groupRepeat g s) := by
  unfold groupRepeat
  grind [State.Leaves, List.IsSuffix.trans, leaves_report, leaves_fabInc]

theorem leaves_groupDrop {g z n : Nat} : s.Leaves (groupDrop g z n s) := by
  unfold groupDrop
  grind [State.Leaves, List.IsSuffix.trans, leaves_report, leaves_fabInc, leaves_setGroup, leaves_groupTake]

theorem leaves_groupAdvance {g z : Nat} : s.Leaves (groupAdvance g z s) := by
  unfold groupAdvance
  grind [State.Leaves, List.IsSuffix.trans, doIf, leaves_setGroup, leaves_refreshGroup, leaves_groupDefect, leaves_groupTake,
    leaves_groupRepeat, leaves_groupDrop]

theorem leaves_groupFrameRead {g : Nat} : s.Leaves (groupFrameRead g s) := by
  unfold groupFrameRead
  grind [State.Leaves, List.IsSuffix.trans, leaves_setGroup, leaves_groupAdvance]

theorem leaves_setReasm {key : Nat} {c : Reasm} : s.Leaves (setReasm key c s) := by
  unfold setReasm
  grind [State.Leaves, List.IsSuffix.trans]

theorem leaves_endPacket {id : Nat} {stomp : Bool} : s.Leaves (endPacket id stomp s) := by
  unfold endPacket
  grind [State.Leaves, List.IsSuffix.trans, leaves_setPkt, leaves_erasePkt]

theorem leaves_stompCtx {key : Nat} : s.Leaves (stompCtx key s) := by
  unfold stompCtx
  grind [State.Leaves, List.IsSuffix.trans, doIf, leaves_setReasm, leaves_endPacket]

theorem leaves_reasmErr {key : Nat} : s.Leaves (reasmErr key s) := by
  unfold reasmErr
  grind [State.Leaves, List.IsSuffix.trans, leaves_fabInc, leaves_stompCtx]

theorem leaves_seqCheck {key seq : Nat} : s.Leaves (seqCheck key seq s) := by
  unfold seqCheck
  grind [State.Leaves, List.IsSuffix.trans, doIf, leaves_fabInc]

theorem leaves_firstCell {g key : Nat} {c : Bytes} : s.Leaves (firstCell g key c s) := by
  unfold firstCell
  grind [State.Leaves, List.IsSuffix.trans, doIf, leaves_newPkt, leaves_arrive, leaves_fabInc, leaves_reasmErr, leaves_seqCheck]

theorem leaves_laterCell {g key : Nat} {c : Bytes} : s.Leaves (laterCell g key c s) := by
  unfold laterCell
  grind [State.Leaves, List.IsSuffix.trans, leaves_setPkt, leaves_fabInc, leaves_takeBody, leaves_setReasm, leaves_endPacket,
    leaves_stompCtx, leaves_reasmErr]

theorem leaves_routedReceive {l : Nat} {c : Bytes} : s.Leaves (routedReceive l c s) := by
  unfold routedReceive
  grind [State.Leaves, List.IsSuffix.trans, doIf, leaves_fabInc, leaves_setReasm, leaves_reasmErr, leaves_firstCell,
    leaves_laterCell]

theorem leaves_schedReceive {l pos : Nat} {c : Bytes} : s.Leaves (schedReceive l pos c s) := by
  unfold schedReceive
  grind [State.Leaves, List.IsSuffix.trans, doIf, leaves_fabInc]

theorem leaves_cellReceive {l pos : Nat} {c : Bytes} : s.Leaves (cellReceive l pos c s) := by
  unfold cellReceive
  grind [State.Leaves, List.IsSuffix.trans, leaves_fabInc, leaves_routedReceive, leaves_schedReceive]

theorem leaves_takeCell {l pos : Nat} {c : Bytes} : s.Leaves (takeCell l pos c s) := by
  unfold takeCell
  grind [State.Leaves, List.IsSuffix.trans, leaves_setGroup, leaves_cellReceive]

theorem leaves_reasmTimeout {key : Nat} : s.Leaves (reasmTimeout key s) := by
  unfold reasmTimeout
  grind [State.Leaves, List.IsSuffix.trans, leaves_fabInc, leaves_stompCtx]

theorem leaves_msgReceive {l : Nat} {w : Word} : s.Leaves (msgReceive l w s) := by
  unfold msgReceive
  grind [State.Leaves, List.IsSuffix.trans, leaves_fabInc, leaves_takeCredit]

theorem leaves_takeMsg {l : Nat} {w : Word} : s.Leaves (takeMsg l w s) := by
  unfold takeMsg
  grind [State.Leaves, List.IsSuffix.trans, leaves_setGroup, leaves_msgReceive]

theorem leaves_degJudge {l : Nat} : s.Leaves (degJudge l s) := by
  unfold degJudge
  grind [State.Leaves, List.IsSuffix.trans, doIf, leaves_report, leaves_fabIrq, leaves_setLaneStat]

theorem leaves_latchAll : s.Leaves (latchAll s) :=
  State.Leaves.trans (t := { s with regs := s.regs.filter (fun e => !fabLatched e.1) }) ⟨rfl, rfl, List.suffix_rfl⟩
    (leaves_forEach fun _ _ => leaves_wr _ _)

theorem leaves_pmLatch : s.Leaves (pmLatch s) := by
  unfold pmLatch
  grind [State.Leaves, List.IsSuffix.trans, leaves_forEach, leaves_wr, leaves_setFld, leaves_degJudge, leaves_latchAll]

end Sys2Proof.Machine
end

section
/-! SUPPORT. The same of the operations of Power, Twin, Lock, Update. -/

namespace Sys2Proof.Machine

variable {s t : State}

-- Each proof waits for the ones it cites: elaborated in turn, no thread stands waiting for another.
set_option Elab.async false

/-! ### Power -/

theorem leaves_pwrIrq : s.Leaves (pwrIrq s) := by
  unfold pwrIrq
  grind [State.Leaves, List.IsSuffix.trans, doIf, leaves_raiseBlock]

theorem leaves_setRail {d : Nat} {r : RailSt} : s.Leaves (setRail d r s) := by
  unfold setRail
  grind [State.Leaves, List.IsSuffix.trans]

theorem leaves_askRail {d v tries : Nat} : s.Leaves (askRail d v tries s) := by
  unfold askRail
  grind [State.Leaves, List.IsSuffix.trans, leaves_emit, leaves_setFld, leaves_setRail]

theorem leaves_requestRail {d v : Nat} : s.Leaves (requestRail d v s) := by
  unfold requestRail
  grind [State.Leaves, List.IsSuffix.trans, leaves_askRail]

theorem leaves_avsReadback {d mv : Nat} : s.Leaves (avsReadback d mv s) := by
  unfold avsReadback
  grind [State.Leaves, List.IsSuffix.trans, leaves_setFld, leaves_inc, leaves_report, leaves_pwrIrq, leaves_setRail,
    leaves_askRail]

theorem leaves_railUp {d rin rout : Nat} : s.Leaves (railUp d rin rout s) := by
  unfold railUp
  grind [State.Leaves, List.IsSuffix.trans, leaves_inc, leaves_requestRail]

theorem leaves_railDown {rin rout : Nat} : s.Leaves (railDown rin rout s) := by
  unfold railDown
  grind [State.Leaves, List.IsSuffix.trans, leaves_inc, leaves_requestRail]

theorem leaves_railEval {rin rout : Nat} : s.Leaves (railEval rin rout s) := by
  unfold railEval
  grind [State.Leaves, List.IsSuffix.trans, leaves_forEach, leaves_setFld, leaves_railUp, leaves_railDown]

theorem leaves_railTop : s.Leaves (railTop s) := by
  unfold railTop
  grind [State.Leaves, List.IsSuffix.trans, leaves_forEach, leaves_setFld, leaves_requestRail]

theorem leaves_trip {d : Nat} : s.Leaves (trip d s) := by
  unfold trip
  grind [State.Leaves, List.IsSuffix.trans, doIf, leaves_forEach, leaves_report, leaves_linkAndSched, leaves_requestRail]

theorem leaves_thermFlag {f : Fld} {thr : Nat} {sev : Sev} {code : Nat} : s.Leaves (thermFlag f thr sev code s) := by
  unfold thermFlag
  grind [State.Leaves, List.IsSuffix.trans, doIf, leaves_forEach, leaves_setFld, leaves_report, leaves_pwrIrq]

theorem leaves_thermJudge : s.Leaves (thermJudge s) := by
  unfold thermJudge
  grind [State.Leaves, List.IsSuffix.trans, leaves_trip, leaves_thermFlag]

theorem leaves_showTemps {f t : Int} : s.Leaves (showTemps f t s) := by
  unfold showTemps
  grind [State.Leaves, List.IsSuffix.trans, leaves_setFld]

theorem leaves_thermalStale : s.Leaves (thermalStale s) := by
  unfold thermalStale
  split
  · exact leaves_setFld.trans (leaves_showTemps.trans leaves_thermJudge)
  · exact .refl s

theorem leaves_markSensor {temps : List Int} {i : Nat} : s.Leaves (markSensor temps i s) := by
  unfold markSensor
  grind [State.Leaves, List.IsSuffix.trans, leaves_setFld, leaves_report]

theorem leaves_thermalRead {raw : List Int} : s.Leaves (thermalRead raw s) := by
  unfold thermalRead
  grind [State.Leaves, List.IsSuffix.trans, leaves_forEach, leaves_setFld, leaves_thermJudge, leaves_showTemps,
    leaves_markSensor]

theorem leaves_throttled : s.Leaves (throttled s) := by
  unfold throttled
  grind [State.Leaves, List.IsSuffix.trans, leaves_bump]

theorem leaves_ptpMfBoundary {phaseIn phaseOut : Nat} : s.Leaves (ptpMfBoundary phaseIn phaseOut s) := by
  unfold ptpMfBoundary
  grind [State.Leaves, List.IsSuffix.trans, leaves_railEval, leaves_railTop, leaves_thermJudge, leaves_throttled]

theorem leaves_domainSleep {d : Domain} : s.Leaves (domainSleep d s) := by
  unfold domainSleep
  grind [State.Leaves, List.IsSuffix.trans, doIf, leaves_setFld]

theorem leaves_wakeDone {d : Domain} {k tookNs : Nat} : s.Leaves (wakeDone d k tookNs s) := by
  unfold wakeDone
  grind [State.Leaves, List.IsSuffix.trans, doIf, leaves_inc, leaves_report]

theorem leaves_reachedS0 {d : Domain} : s.Leaves (reachedS0 d s) := by
  unfold reachedS0
  grind [State.Leaves, List.IsSuffix.trans, leaves_forEach, leaves_refreshGroup, leaves_laneStart]

theorem leaves_domainWake {d : Domain} {tookNs : Nat} : s.Leaves (domainWake d tookNs s) := by
  unfold domainWake
  grind [State.Leaves, List.IsSuffix.trans, leaves_setFld, leaves_wakeDone, leaves_reachedS0]

theorem leaves_budgetEffect {off : Nat} : s.Leaves (budgetEffect off s) := by
  unfold budgetEffect
  grind [State.Leaves, List.IsSuffix.trans, doIf, leaves_setFld, leaves_inc, leaves_reachedS0]

theorem leaves_ppsOut : s.Leaves (ppsOut s) := by
  unfold ppsOut
  grind [State.Leaves, List.IsSuffix.trans, leaves_emit]

theorem leaves_ppsInEdge : s.Leaves (ppsInEdge s) := by
  unfold ppsInEdge
  grind [State.Leaves, List.IsSuffix.trans, leaves_wr, leaves_setFld, leaves_burinPps]

theorem leaves_ppsLoss : s.Leaves (ppsLoss s) := by
  unfold ppsLoss
  grind [State.Leaves, List.IsSuffix.trans, leaves_setFld, leaves_report, leaves_pwrIrq]

/-! ### Twin -/

theorem leaves_twinIrq : s.Leaves (twinIrq s) := by
  unfold twinIrq
  grind [State.Leaves, List.IsSuffix.trans, doIf, leaves_raiseBlock]

theorem leaves_twinLog {code : Nat} {items : List (Nat × Nat)} : s.Leaves (twinLog code items s) := by
  unfold twinLog
  grind [State.Leaves, List.IsSuffix.trans, leaves_report, leaves_twinIrq]

theorem leaves_enterActive {since : Nat} : s.Leaves (enterActive since s) := by
  unfold enterActive
  grind [State.Leaves, List.IsSuffix.trans, leaves_setFld, leaves_inc, leaves_twinTo]

theorem leaves_switchover {cause : Nat} : s.Leaves (switchover cause s) := by
  unfold switchover
  grind [State.Leaves, List.IsSuffix.trans, leaves_twinLog]

theorem leaves_dualActive : s.Leaves (dualActive s) := by
  unfold dualActive
  grind [State.Leaves, List.IsSuffix.trans, leaves_twinLog]

theorem leaves_statusWait : s.Leaves (statusWait s) := by
  unfold statusWait
  grind [State.Leaves, List.IsSuffix.trans, leaves_inc, leaves_twinLog, leaves_enterActive, leaves_switchover]

theorem leaves_statusInit : s.Leaves (statusInit s) := by
  unfold statusInit
  grind [State.Leaves, List.IsSuffix.trans, leaves_twinTo]

/-! ### Regs -/

theorem leaves_twinStatus {l key : Nat} {r : Bytes} : s.Leaves (twinStatus l key r s) := by
  unfold twinStatus
  grind [State.Leaves, List.IsSuffix.trans, doIf, leaves_setFld, leaves_dualActive, leaves_statusWait, leaves_statusInit]

/-! ### Twin -/

theorem leaves_twinRecord {l : Nat} {r : Bytes} : s.Leaves (twinRecord l r s) := by
  unfold twinRecord
  grind [State.Leaves, List.IsSuffix.trans, leaves_twinStatus]

theorem leaves_twinReceive {l : Nat} {c : Bytes} : s.Leaves (twinReceive l c s) := by
  unfold twinReceive
  grind [State.Leaves, List.IsSuffix.trans, leaves_fabInc, leaves_twinRecord]

theorem leaves_mateLost : s.Leaves (mateLost s) := by
  unfold mateLost
  grind [State.Leaves, List.IsSuffix.trans, leaves_setFld, leaves_twinLog]

theorem leaves_twinLinkDown : s.Leaves (twinLinkDown s) := by
  unfold twinLinkDown
  grind [State.Leaves, List.IsSuffix.trans, doIf, leaves_setFld, leaves_inc, leaves_twinLog, leaves_mateLost]

theorem leaves_healthInFall : s.Leaves (healthInFall s) := by
  unfold healthInFall
  grind [State.Leaves, List.IsSuffix.trans, leaves_setFld, leaves_mateLost]

theorem leaves_healthInRise : s.Leaves (healthInRise s) := by
  unfold healthInRise
  grind [State.Leaves, List.IsSuffix.trans, leaves_setFld]

theorem leaves_healthWait : s.Leaves (healthWait s) := by
  unfold healthWait
  grind [State.Leaves, List.IsSuffix.trans, leaves_enterActive, leaves_switchover]

theorem leaves_twinAct {op : Nat} : s.Leaves (twinAct op s) := by
  unfold twinAct
  grind [State.Leaves, List.IsSuffix.trans, leaves_twinTo]

theorem leaves_twinCommand {fn : Fn} {p : Nat} {w : Word} : s.Leaves (twinCommand fn p w s) := by
  unfold twinCommand
  grind [State.Leaves, List.IsSuffix.trans, leaves_complete, leaves_issue, leaves_runChecks, leaves_twinAct]

theorem leaves_twinIssue {fn : Fn} {op : Nat} : s.Leaves (twinIssue fn op s) := by
  unfold twinIssue
  grind [State.Leaves, List.IsSuffix.trans, leaves_access, leaves_twinCommand]

theorem leaves_twinCfgEffect {old : Word} : s.Leaves (twinCfgEffect old s) := by
  unfold twinCfgEffect
  grind [State.Leaves, List.IsSuffix.trans, leaves_setFld, leaves_twinTo]

theorem leaves_digestEnd {n : Nat} : s.Leaves (digestEnd n s) := by
  unfold digestEnd
  grind [State.Leaves, List.IsSuffix.trans]

theorem leaves_mismatch {n m loc mate : Nat} : s.Leaves (mismatch n m loc mate s) := by
  unfold mismatch
  grind [State.Leaves, List.IsSuffix.trans, leaves_twinLog, leaves_twinTo, leaves_enterActive, leaves_switchover]

theorem leaves_digestCompare {n : Nat} : s.Leaves (digestCompare n s) := by
  unfold digestCompare
  grind [State.Leaves, List.IsSuffix.trans, leaves_wr, leaves_setFld, leaves_inc, leaves_mismatch]

theorem leaves_switchEnd {n : Nat} : s.Leaves (switchEnd n s) := by
  unfold switchEnd
  grind [State.Leaves, List.IsSuffix.trans, leaves_twinTo, leaves_enterActive, leaves_switchover]

theorem leaves_forceEnd {n : Nat} : s.Leaves (forceEnd n s) := by
  unfold forceEnd
  grind [State.Leaves, List.IsSuffix.trans, leaves_enterActive, leaves_switchover]

theorem leaves_initEnd {n : Nat} : s.Leaves (initEnd n s) := by
  unfold initEnd
  grind [State.Leaves, List.IsSuffix.trans, leaves_twinTo, leaves_enterActive]

theorem leaves_yieldEnd : s.Leaves (yieldEnd s) := by
  unfold yieldEnd
  grind [State.Leaves, List.IsSuffix.trans, leaves_twinTo]

theorem leaves_twinBoundary {n : Nat} : s.Leaves (twinBoundary n s) := by
  unfold twinBoundary
  grind [State.Leaves, List.IsSuffix.trans, leaves_digestCompare, leaves_switchEnd, leaves_forceEnd, leaves_initEnd,
    leaves_yieldEnd]

theorem leaves_multiframeBoundary {v : Vote} : s.Leaves (multiframeBoundary v s) := by
  unfold multiframeBoundary
  grind [State.Leaves, List.IsSuffix.trans, leaves_mfPulse, leaves_calBoundary, leaves_digestEnd, leaves_twinBoundary]

/-! ### Lock -/

theorem leaves_lockTo {h : Nat} : s.Leaves (lockTo h s) := by
  unfold lockTo
  grind [State.Leaves, List.IsSuffix.trans, leaves_forEach, leaves_wr, leaves_setFld]

theorem leaves_lockPass : s.Leaves (lockPass s) := by
  unfold lockPass
  grind [State.Leaves, List.IsSuffix.trans, leaves_lockTo]

/-! ### Update -/

theorem leaves_showBcr : s.Leaves (showBcr s) := by
  unfold showBcr
  grind [State.Leaves, List.IsSuffix.trans, leaves_wr]

theorem leaves_useBcr {b : Bcr} : s.Leaves (useBcr b s) := by
  unfold useBcr
  grind [State.Leaves, List.IsSuffix.trans, leaves_showBcr]

theorem leaves_writeCopy {n : Nat} {x : Bytes} : s.Leaves (writeCopy n x s) :=
  ⟨rfl, rfl, List.suffix_rfl⟩

theorem leaves_writeCopies {b : Bcr} : s.Leaves (writeCopies b s) := by
  unfold writeCopies
  grind [State.Leaves, List.IsSuffix.trans, leaves_writeCopy]

theorem leaves_writeBcr {b : Bcr} : s.Leaves (writeBcr b s) := by
  unfold writeBcr
  grind [State.Leaves, List.IsSuffix.trans, leaves_useBcr, leaves_writeCopies]

theorem leaves_updTo {st : Nat} : s.Leaves (updTo st s) := by
  unfold updTo
  grind [State.Leaves, List.IsSuffix.trans, leaves_setFld]

theorem leaves_updHold {p : Nat} : s.Leaves (updHold p s) := by
  unfold updHold
  grind [State.Leaves, List.IsSuffix.trans, leaves_setFld]

theorem leaves_setSlot {n : Nat} {x : SetSlot} : s.Leaves (setSlot n x s) := by
  unfold setSlot
  grind [State.Leaves, List.IsSuffix.trans, leaves_flashTo]

theorem leaves_setArea {a : Nat} {m : SMap Bytes} : s.Leaves (setArea a m s) := by
  unfold setArea
  grind [State.Leaves, List.IsSuffix.trans, leaves_flashTo]

theorem leaves_dropNewArea {b : Bcr} : s.Leaves (dropNewArea b s) := by
  unfold dropNewArea
  grind [State.Leaves, List.IsSuffix.trans, doIf, leaves_writeBcr, leaves_setArea]

theorem leaves_endSession : s.Leaves (endSession s) := by
  unfold endSession
  grind [State.Leaves, List.IsSuffix.trans, doIf, leaves_raiseRight, leaves_updTo, leaves_updHold, leaves_setSlot,
    leaves_dropNewArea]

theorem leaves_updDone {code detail : Nat} : s.Leaves (updDone code detail s) := by
  unfold updDone
  grind [State.Leaves, List.IsSuffix.trans, leaves_complete]

theorem leaves_updRecord {sev : Sev} {code : Nat} {items : List (Nat × Nat)} : s.Leaves (updRecord sev code items s) := by
  unfold updRecord
  grind [State.Leaves, List.IsSuffix.trans, leaves_report]

theorem leaves_lapseSession {h : Nat} : s.Leaves (lapseSession h s) := by
  unfold lapseSession
  grind [State.Leaves, List.IsSuffix.trans, leaves_endSession, leaves_updRecord]

theorem leaves_preemptNow : s.Leaves (preemptNow s) := by
  unfold preemptNow
  grind [State.Leaves, List.IsSuffix.trans, doIf, leaves_complete, leaves_updHold, leaves_updRecord, leaves_lapseSession]

theorem leaves_latePreempt : s.Leaves (latePreempt s) := by
  unfold latePreempt
  grind [State.Leaves, List.IsSuffix.trans, doIf, leaves_preemptNow]

theorem leaves_preemptWrite {fn : Fn} {p : Nat} {one : Bool} : s.Leaves (preemptWrite fn p one s) := by
  unfold preemptWrite
  grind [State.Leaves, List.IsSuffix.trans, doIf, leaves_denied, leaves_preemptNow]

theorem leaves_openFinish {b : Bytes} : s.Leaves (openFinish b s) := by
  unfold openFinish
  grind [State.Leaves, List.IsSuffix.trans, leaves_forEach, leaves_wr, leaves_inc, leaves_updTo, leaves_setSlot, leaves_updDone]

theorem leaves_whenLockFree {w : UpdWait} {act : State → State} (hact : ∀ s : State, s.Leaves (act s)) :
    s.Leaves (whenLockFree w act s) := by
  unfold whenLockFree
  grind [State.Leaves, List.IsSuffix.trans, leaves_lockPass]

theorem leaves_openAct {p : Nat} {d : Dma} : s.Leaves (openAct p d s) := by
  unfold openAct
  grind [State.Leaves, List.IsSuffix.trans, leaves_dmaFault, leaves_updHold, leaves_updDone, leaves_openFinish,
    leaves_whenLockFree]

theorem leaves_writeAct {p comp : Nat} {d : Dma} {progOk : Bool} : s.Leaves (writeAct p comp d progOk s) := by
  unfold writeAct
  grind [State.Leaves, List.IsSuffix.trans, leaves_setFld, leaves_dmaFault, leaves_setSlot, leaves_updDone, leaves_updRecord]

theorem leaves_convertSettings {man key : Bytes} {images : List Bytes} : s.Leaves (convertSettings man key images s) := by
  unfold convertSettings
  grind [State.Leaves, List.IsSuffix.trans, leaves_writeBcr, leaves_setArea]

theorem leaves_verifyFinish : s.Leaves (verifyFinish s) := by
  unfold verifyFinish
  grind [State.Leaves, List.IsSuffix.trans, leaves_updTo, leaves_setSlot, leaves_updDone, leaves_convertSettings]

theorem leaves_verifyAct : s.Leaves (verifyAct s) := by
  unfold verifyAct
  grind [State.Leaves, List.IsSuffix.trans, leaves_updTo, leaves_updDone, leaves_whenLockFree, leaves_verifyFinish]

theorem leaves_sealWaitTimeout : s.Leaves (sealWaitTimeout s) := by
  unfold sealWaitTimeout
  generalize 60 * ticksPerSec = d
  grind [State.Leaves, List.IsSuffix.trans, leaves_updTo, leaves_updDone]

theorem leaves_updSwap {b : Nat} : s.Leaves (updSwap b s) := by
  unfold updSwap
  grind [State.Leaves, List.IsSuffix.trans, doIf, leaves_wr, leaves_inc, leaves_bankTo, leaves_goLive, leaves_drainDone]

theorem leaves_setByUpd {b : Nat} {x : Bool} : s.Leaves (setByUpd b x s) := by
  unfold setByUpd
  grind [State.Leaves, List.IsSuffix.trans, leaves_setBank]

theorem leaves_setHidden {k : Bytes} : s.Leaves (setHidden k s) := by
  unfold setHidden
  grind [State.Leaves, List.IsSuffix.trans]

theorem leaves_underKey {n : Nat} {act : State → State} (hact : ∀ s : State, s.Leaves (act s)) :
    s.Leaves (underKey n act s) := by
  unfold underKey
  grind [State.Leaves, List.IsSuffix.trans, leaves_setHidden]

theorem leaves_stewardDrop : s.Leaves (stewardDrop s) := by
  unfold stewardDrop
  grind [State.Leaves, List.IsSuffix.trans, doIf, leaves_forEach, leaves_complete, leaves_loadDrop, leaves_plateFail,
    leaves_calFail]

theorem leaves_restartSteward : s.Leaves (restartSteward s) := by
  unfold restartSteward
  grind [State.Leaves, List.IsSuffix.trans, leaves_stewardDrop]

theorem leaves_microSwitch {k : McNext} {n : Nat} : s.Leaves (microSwitch k n s) := by
  unfold microSwitch
  grind [State.Leaves, List.IsSuffix.trans, leaves_loadVendor]

theorem leaves_runHeld {h : HeldCmd} : s.Leaves (runHeld h s) := by
  unfold runHeld
  grind [State.Leaves, List.IsSuffix.trans, leaves_bpmAct, leaves_qAct, leaves_schedPerform]

theorem leaves_tSwitch : s.Leaves (tSwitch s) := by
  unfold tSwitch
  grind [State.Leaves, List.IsSuffix.trans, leaves_forEach, leaves_runHeld]

theorem leaves_plateBack {n : Nat} : s.Leaves (plateBack n s) := by
  unfold plateBack
  grind [State.Leaves, List.IsSuffix.trans, doIf, leaves_bankTo, leaves_plateProof, leaves_updSwap]

theorem leaves_activateEnd {f : Fail} : s.Leaves (activateEnd f s) := by
  unfold activateEnd
  grind [State.Leaves, List.IsSuffix.trans, doIf, leaves_bankTo, leaves_updTo, leaves_updDone, leaves_latePreempt,
    leaves_setByUpd]

theorem leaves_bcrRepair {chip : Nat} {rewriteFails : Bool} : s.Leaves (bcrRepair chip rewriteFails s) := by
  unfold bcrRepair
  extract_lets old src trialB fixed pick left copies u
  refine leaves_updRecord.after ?_
  clear_value trialB fixed copies
  unfold u
  split
  · exact leaves_useBcr.after (.after (leaves_flashTo fun _ => rfl) ⟨rfl, rfl, List.suffix_rfl⟩)
  · exact leaves_useBcr.after leaves_writeCopies

theorem leaves_activateUndo {type code : Nat} : s.Leaves (activateUndo type code s) := by
  unfold activateUndo
  grind [State.Leaves, List.IsSuffix.trans, leaves_writeBcr, leaves_updTo, leaves_updDone, leaves_updRecord,
    leaves_latePreempt, leaves_setByUpd]

theorem leaves_startConfirm : s.Leaves (startConfirm s) := by
  unfold startConfirm
  grind [State.Leaves, List.IsSuffix.trans]

theorem leaves_revertMark {setId cause : Nat} : s.Leaves (revertMark setId cause s) := by
  unfold revertMark
  grind [State.Leaves, List.IsSuffix.trans, leaves_setFld, leaves_inc, leaves_updRecord]

theorem leaves_revertEnd {cause : Nat} {cmd : Bool} {f : Option Fail} : s.Leaves (revertEnd cause cmd f s) := by
  unfold revertEnd
  grind [State.Leaves, List.IsSuffix.trans, doIf, leaves_raiseRight, leaves_updTo, leaves_dropNewArea, leaves_updDone,
    leaves_revertMark]

theorem leaves_backFinish {k : Back} {f : Option Fail} : s.Leaves (backFinish k f s) := by
  unfold backFinish
  grind [State.Leaves, List.IsSuffix.trans, doIf, leaves_activateUndo, leaves_revertEnd]

theorem leaves_backGo {k : Back} : s.Leaves (backGo k s) := by
  unfold backGo
  grind [State.Leaves, List.IsSuffix.trans, doIf, leaves_lockPass, leaves_underKey, leaves_restartSteward, leaves_microSwitch,
    leaves_plateBack, leaves_backFinish]

theorem leaves_backStart {k : Back} : s.Leaves (backStart k s) := by
  unfold backStart
  grind [State.Leaves, List.IsSuffix.trans, leaves_drainEnd, leaves_backGo]

theorem leaves_lateBack : s.Leaves (lateBack s) := by
  unfold lateBack
  grind [State.Leaves, List.IsSuffix.trans, leaves_backGo]

theorem leaves_activateSwitch {sw : SwitchEnd} : s.Leaves (activateSwitch sw s) := by
  unfold activateSwitch
  grind [State.Leaves, List.IsSuffix.trans, leaves_microSwitch, leaves_activateUndo]

theorem leaves_forwardGo {sw : SwitchEnd} : s.Leaves (forwardGo sw s) := by
  unfold forwardGo
  grind [State.Leaves, List.IsSuffix.trans, leaves_updSwap, leaves_setByUpd, leaves_restartSteward, leaves_backStart]

theorem leaves_mcGo : s.Leaves (mcGo s) := by
  unfold mcGo
  grind [State.Leaves, List.IsSuffix.trans, leaves_backFinish, leaves_forwardGo]

theorem leaves_microBoundary : s.Leaves (microBoundary s) := by
  unfold microBoundary
  grind [State.Leaves, List.IsSuffix.trans, leaves_tSwitch, leaves_mcGo]

theorem leaves_lostSwap : s.Leaves (lostSwap s) := by
  unfold lostSwap
  grind [State.Leaves, List.IsSuffix.trans, doIf, leaves_swapPoint]

theorem leaves_activateSteps {sw : SwitchEnd} : s.Leaves (activateSteps sw s) := by
  unfold activateSteps
  extract_lets src u n b k key v w emit checks
  have hv : s.Leaves v := leaves_bankTo.after (leaves_lostSwap.after ⟨rfl, rfl, List.suffix_rfl⟩)
  have hw : v.Leaves w := leaves_setByUpd.after leaves_plateProof
  clear_value checks w v
  refine hv.trans ?_
  split
  · exact leaves_activateEnd.after leaves_bankTo
  · refine hw.trans ?_
    split
    · exact leaves_activateEnd
    · split
      · exact leaves_activateEnd.after leaves_bcrRepair
      · exact leaves_activateSwitch.after leaves_writeBcr

theorem leaves_activateAct {sw : SwitchEnd} : s.Leaves (activateAct sw s) := by
  unfold activateAct
  grind [State.Leaves, List.IsSuffix.trans, leaves_inc, leaves_writeBcr, leaves_updTo, leaves_updDone, leaves_latePreempt,
    leaves_whenLockFree, leaves_setByUpd, leaves_bcrRepair, leaves_activateSteps]

theorem leaves_stewardReady : s.Leaves (stewardReady s) := by
  unfold stewardReady
  generalize msT 500 = d
  grind [State.Leaves, List.IsSuffix.trans, leaves_backStart, leaves_inc, leaves_updTo, leaves_startConfirm, leaves_updDone,
    leaves_latePreempt]

theorem leaves_confirmAct : s.Leaves (confirmAct s) := by
  unfold confirmAct
  grind [State.Leaves, List.IsSuffix.trans, doIf, leaves_inc, leaves_writeBcr, leaves_updTo, leaves_setArea]

theorem leaves_revertAct {cause : Nat} {cmd : Bool} : s.Leaves (revertAct cause cmd s) := by
  unfold revertAct
  grind [State.Leaves, List.IsSuffix.trans, leaves_revertEnd, leaves_backStart]

theorem leaves_confirmExpire : s.Leaves (confirmExpire s) := by
  unfold confirmExpire
  split
  · exact leaves_doIf fun _ => leaves_revertAct
  · exact .refl s

theorem leaves_updCfgEffect : s.Leaves (updCfgEffect s) := by
  unfold updCfgEffect
  grind [State.Leaves, List.IsSuffix.trans]

theorem leaves_updCommand {fn : Fn} {op p comp : Nat} {act : State → State} (hact : ∀ s : State, s.Leaves (act s)) :
    s.Leaves (updCommand fn op p comp act s) := by
  unfold updCommand
  grind [State.Leaves, List.IsSuffix.trans, doIf, leaves_denied, leaves_complete, leaves_issue, leaves_failCmd, leaves_updHold]

theorem leaves_updIssue {fn : Fn} {op comp : Nat} {act : Nat → State → State} (hact : ∀ x0 (s : State), s.Leaves (act x0 s)) :
    s.Leaves (updIssue fn op comp act s) := by
  unfold updIssue
  grind [State.Leaves, List.IsSuffix.trans, leaves_access, leaves_updCommand]

theorem leaves_closeAct : s.Leaves (closeAct s) := by
  unfold closeAct
  grind [State.Leaves, List.IsSuffix.trans, leaves_endSession, leaves_updDone]

theorem leaves_sessionLapse : s.Leaves (sessionLapse s) := by
  unfold sessionLapse
  grind [State.Leaves, List.IsSuffix.trans, leaves_lapseSession]

theorem leaves_updResume : s.Leaves (updResume s) := by
  unfold updResume
  grind [State.Leaves, List.IsSuffix.trans, leaves_lockPass, leaves_openFinish, leaves_verifyFinish, leaves_lateBack,
    leaves_activateSteps]

end Sys2Proof.Machine
end

section
/-! SUPPORT. The same of the operations of Seal, Hosts, Boot, RegWrite, Idle. -/

namespace Sys2Proof.Machine

variable {s t : State}

-- Each proof waits for the ones it cites: elaborated in turn, no thread stands waiting for another.
set_option Elab.async false

/-! ### Seal -/

theorem leaves_lockFree : s.Leaves (lockFree s) := by
  unfold lockFree
  grind [State.Leaves, List.IsSuffix.trans, leaves_lockTo, leaves_updResume]

theorem leaves_lockAcquire {fn : Fn} {p : Nat} : s.Leaves (lockAcquire fn p s) := by
  unfold lockAcquire
  grind [State.Leaves, List.IsSuffix.trans, leaves_denied, leaves_lockTo]

theorem leaves_lockRelease {p : Nat} : s.Leaves (lockRelease p s) := by
  unfold lockRelease
  grind [State.Leaves, List.IsSuffix.trans, leaves_lockFree]

theorem leaves_lockBreak {p : Nat} : s.Leaves (lockBreak p s) := by
  unfold lockBreak
  grind [State.Leaves, List.IsSuffix.trans, leaves_inc, leaves_report, leaves_lockFree]

theorem leaves_lockWrite {fn : Fn} {p : Nat} {w : Word} : s.Leaves (lockWrite fn p w s) := by
  unfold lockWrite
  grind [State.Leaves, List.IsSuffix.trans, doIf, leaves_lockAcquire, leaves_lockRelease, leaves_lockBreak]

theorem leaves_lockReset {p : Nat} : s.Leaves (lockReset p s) := by
  unfold lockReset
  grind [State.Leaves, List.IsSuffix.trans, leaves_lockFree]

theorem leaves_slotClear {n : Nat} : s.Leaves (slotClear n s) := by
  unfold slotClear
  grind [State.Leaves, List.IsSuffix.trans, leaves_wr]

theorem leaves_slotCount {n c : Nat} : s.Leaves (slotCount n c s) := by
  unfold slotCount
  grind [State.Leaves, List.IsSuffix.trans, leaves_wr, leaves_setFld]

theorem leaves_slotLoad {n : Nat} {r : Bytes} {id : Word} {ctr : Nat} : s.Leaves (slotLoad n r id ctr s) := by
  unfold slotLoad
  grind [State.Leaves, List.IsSuffix.trans, leaves_wr, leaves_slotCount]

theorem leaves_sealDone {code : Nat} : s.Leaves (sealDone code s) := by
  unfold sealDone
  grind [State.Leaves, List.IsSuffix.trans, doIf, leaves_inc, leaves_complete]

theorem leaves_sealFail {fn : Fn} {code : Nat} : s.Leaves (sealFail fn code s) := by
  unfold sealFail
  grind [State.Leaves, List.IsSuffix.trans, doIf, leaves_denied, leaves_sealDone]

theorem leaves_sealChecks {fn : Fn} {checks : List (Bool × Nat)} {act : State → State} (hact : ∀ s : State, s.Leaves (act s)) :
    s.Leaves (sealChecks fn checks act s) := by
  unfold sealChecks
  grind [State.Leaves, List.IsSuffix.trans, leaves_sealFail]

theorem leaves_slotRead {n : Nat} {ecc : Ecc} {act : State → State} (hact : ∀ s : State, s.Leaves (act s)) :
    s.Leaves (slotRead n ecc act s) := by
  unfold slotRead
  grind [State.Leaves, List.IsSuffix.trans, leaves_report, leaves_slotClear, leaves_sealDone]

theorem leaves_sealIssue {fn : Fn} {op slot : Nat} {ecc : Ecc} {act : Nat → State → State}
    (hact : ∀ x0 (s : State), s.Leaves (act x0 s)) :
    s.Leaves (sealIssue fn op slot ecc act s) := by
  unfold sealIssue
  grind [State.Leaves, List.IsSuffix.trans, leaves_wr, leaves_denied, leaves_access, leaves_issue, leaves_sealChecks,
    leaves_slotRead]

theorem leaves_sealDmaFail {p : Nat} {d : Dma} : s.Leaves (sealDmaFail p d s) := by
  unfold sealDmaFail
  grind [State.Leaves, List.IsSuffix.trans, leaves_dmaFault, leaves_sealDone]

theorem leaves_kekRead {k : Nat} {ecc : Ecc} {act : State → State} (hact : ∀ s : State, s.Leaves (act s)) :
    s.Leaves (kekRead k ecc act s) := by
  unfold kekRead
  split
  · exact hact s
  · exact leaves_slotRead hact

theorem leaves_unwrapAct {fn : Fn} {slot : Nat} {blob : Dma} {kekEcc : Ecc} {p : Nat} :
    s.Leaves (unwrapAct fn slot blob kekEcc p s) := by
  unfold unwrapAct
  split
  · exact leaves_sealFail
  · split
    · refine leaves_sealChecks fun u => leaves_kekRead fun v => ?_
      split
      · exact leaves_sealFail
      · split
        · exact leaves_slotLoad.trans leaves_sealDone
        · exact leaves_sealFail
    · exact leaves_sealDmaFail

theorem leaves_drawNonce {slot : Nat} : s.Leaves (drawNonce slot s) := by
  unfold drawNonce
  grind [State.Leaves, List.IsSuffix.trans, leaves_wr, leaves_slotCount]

theorem leaves_sealOut {p : Nat} {b : Bytes} : s.Leaves (sealOut p b s) := by
  unfold sealOut
  grind [State.Leaves, List.IsSuffix.trans, doIf, leaves_wr, leaves_emit]

theorem leaves_sealCut {p unit : Nat} {d : Dma} {out : Bytes} : s.Leaves (sealCut p unit d out s) := by
  unfold sealCut
  grind [State.Leaves, List.IsSuffix.trans, leaves_sealDmaFail, leaves_sealOut]

theorem leaves_encryptAct {fn : Fn} {slot tagLen : Nat} {aad text : Dma} {part : Bytes} {p : Nat} :
    s.Leaves (encryptAct fn slot tagLen aad text part p s) := by
  unfold encryptAct
  refine leaves_sealChecks fun u => .trans (leaves_drawNonce (slot := slot)) ?_
  dsimp only
  split
  · exact leaves_sealDmaFail
  · split
    · exact leaves_sealCut
    · exact (leaves_wr ..).trans ((leaves_wr ..).trans (leaves_sealOut.trans leaves_sealDone))

theorem leaves_decryptAct {fn : Fn} {slot tagLen : Nat} {stream : Bool} {aad text : Dma} {part : Bytes} {p : Nat} :
    s.Leaves (decryptAct fn slot tagLen stream aad text part p s) := by
  unfold decryptAct
  grind [State.Leaves, List.IsSuffix.trans, leaves_sealDone, leaves_sealChecks, leaves_sealDmaFail, leaves_sealOut,
    leaves_sealCut]

/-! ### Hosts -/

theorem leaves_perstRegs {p : Nat} : s.Leaves (perstRegs p s) := ⟨rfl, rfl, List.suffix_rfl⟩

theorem leaves_dropCommands {p : Nat} : s.Leaves (dropCommands p s) := by
  unfold dropCommands
  grind [State.Leaves, List.IsSuffix.trans, leaves_forEach, leaves_flushQue, leaves_runHeld]

theorem leaves_dropRingPkts {p : Nat} : s.Leaves (dropRingPkts p s) := by
  unfold dropRingPkts
  grind [State.Leaves, List.IsSuffix.trans, doIf, leaves_forEach, leaves_inc, leaves_erasePkt]

theorem leaves_dropInterrupts {p : Nat} : s.Leaves (dropInterrupts p s) := by
  unfold dropInterrupts
  grind [State.Leaves, List.IsSuffix.trans]

theorem leaves_resetPartition {p : Nat} : s.Leaves (resetPartition p s) := by
  unfold resetPartition
  grind [State.Leaves, List.IsSuffix.trans, leaves_lockReset, leaves_perstRegs, leaves_dropCommands, leaves_dropRingPkts,
    leaves_dropInterrupts]

theorem leaves_perstSet {port : Nat} {x : Bool} : s.Leaves (perstSet port x s) := by
  unfold perstSet
  grind [State.Leaves, List.IsSuffix.trans]

theorem leaves_inResetSet {p : Nat} {x : Bool} : s.Leaves (inResetSet p x s) := by
  unfold inResetSet
  grind [State.Leaves, List.IsSuffix.trans]

theorem leaves_trainPort {port : Nat} : s.Leaves (trainPort port s) := by
  unfold trainPort
  grind [State.Leaves, List.IsSuffix.trans]

theorem leaves_perstFall {port : Nat} : s.Leaves (perstFall port s) := by
  unfold perstFall
  grind [State.Leaves, List.IsSuffix.trans, leaves_forEach, leaves_resetPartition, leaves_perstSet, leaves_inResetSet,
    leaves_trainPort]

theorem leaves_perstRise {port : Nat} : s.Leaves (perstRise port s) := by
  unfold perstRise
  grind [State.Leaves, List.IsSuffix.trans, leaves_forEach, leaves_perstSet, leaves_inResetSet, leaves_trainPort]

theorem leaves_flr {fn : Fn} : s.Leaves (flr fn s) := by
  unfold flr
  grind [State.Leaves, List.IsSuffix.trans, leaves_resetPartition]

theorem leaves_keepForced {p : Nat} : s.Leaves (keepForced p s) := by
  unfold keepForced
  grind [State.Leaves, List.IsSuffix.trans]

theorem leaves_intClear {p : Nat} {rings : Bool} {v : Word} : s.Leaves (intClear p rings v s) := by
  unfold intClear
  grind [State.Leaves, List.IsSuffix.trans, leaves_intWrite, leaves_keepForced]

theorem leaves_intEnableTo {p : Nat} {rings : Bool} {v : Word} : s.Leaves (intEnableTo p rings v s) := by
  unfold intEnableTo
  grind [State.Leaves, List.IsSuffix.trans, leaves_intWrite]

theorem leaves_unmask {p vec : Nat} : s.Leaves (unmask p vec s) := by
  unfold unmask
  grind [State.Leaves, List.IsSuffix.trans, doIf, leaves_emit]

theorem leaves_mask {p vec : Nat} : s.Leaves (mask p vec s) := by
  unfold mask
  grind [State.Leaves, List.IsSuffix.trans]

theorem leaves_msixUnmask {fn : Fn} {vec : Nat} : s.Leaves (msixUnmask fn vec s) := by
  unfold msixUnmask
  grind [State.Leaves, List.IsSuffix.trans, leaves_dropHeld, leaves_unmask]

theorem leaves_setMsixWord {k : Nat} {w : Word} : s.Leaves (setMsixWord k w s) := by
  unfold setMsixWord
  grind [State.Leaves, List.IsSuffix.trans]

theorem leaves_bar2Write {p i : Nat} {w : Word} : s.Leaves (bar2Write p i w s) := by
  unfold bar2Write
  grind [State.Leaves, List.IsSuffix.trans, leaves_unmask, leaves_mask, leaves_setMsixWord]

theorem leaves_bar2Store {fn : Fn} {off size : Nat} {v : Word} : s.Leaves (bar2Store fn off size v s) := by
  unfold bar2Store
  grind [State.Leaves, List.IsSuffix.trans, leaves_emit, leaves_dropHeld, leaves_bar2Write]

theorem leaves_bar2Load {fn : Fn} {off size : Nat} : s.Leaves (bar2Load fn off size s) := by
  unfold bar2Load
  grind [State.Leaves, List.IsSuffix.trans, leaves_emit, leaves_dropHeld]

theorem leaves_ackWrite {n : Nat} {v : Word} : s.Leaves (ackWrite n v s) := by
  unfold ackWrite
  grind [State.Leaves, List.IsSuffix.trans, leaves_setFld, leaves_setErq]

theorem leaves_fatalClear {n : Nat} : s.Leaves (fatalClear n s) := by
  unfold fatalClear
  grind [State.Leaves, List.IsSuffix.trans, leaves_forEach, leaves_wr, leaves_setFld]

theorem leaves_mbxIssue {p : Nat} {act : State → State} (hact : ∀ s : State, s.Leaves (act s)) :
    s.Leaves (mbxIssue p act s) := by
  unfold mbxIssue
  grind [State.Leaves, List.IsSuffix.trans, leaves_accept, leaves_complete, leaves_overrun]

theorem leaves_mbxVersion {p : Nat} : s.Leaves (mbxVersion p s) := by
  unfold mbxVersion
  grind [State.Leaves, List.IsSuffix.trans, leaves_complete, leaves_setData]

theorem leaves_mbxThermal {p : Nat} : s.Leaves (mbxThermal p s) := by
  unfold mbxThermal
  grind [State.Leaves, List.IsSuffix.trans, leaves_complete, leaves_setData]

theorem leaves_mbxPing {p : Nat} : s.Leaves (mbxPing p s) := by
  unfold mbxPing
  grind [State.Leaves, List.IsSuffix.trans, leaves_complete]

theorem leaves_settingsGet {p : Nat} : s.Leaves (settingsGet p s) := by
  unfold settingsGet
  grind [State.Leaves, List.IsSuffix.trans, leaves_complete, leaves_setData]

theorem leaves_settingsPut {p : Nat} : s.Leaves (settingsPut p s) := by
  unfold settingsPut
  grind [State.Leaves, List.IsSuffix.trans, leaves_forEach, leaves_complete, leaves_setArea]

theorem leaves_calibRead {p : Nat} {d : Dma} : s.Leaves (calibRead p d s) := by
  unfold calibRead
  grind [State.Leaves, List.IsSuffix.trans, leaves_emit, leaves_complete, leaves_dmaFault]

theorem leaves_calibFlash {b : Bytes} : s.Leaves (calibFlash b s) := ⟨rfl, rfl, List.suffix_rfl⟩

theorem leaves_calibWrite {fn : Fn} {p : Nat} {d : Dma} : s.Leaves (calibWrite fn p d s) := by
  unfold calibWrite
  grind [State.Leaves, List.IsSuffix.trans, leaves_report, leaves_denied, leaves_complete, leaves_failCmd, leaves_runChecks,
    leaves_dmaFault, leaves_calibFlash]

theorem leaves_calibCut {step : Nat} {b : Bytes} : s.Leaves (calibCut step b s) := by
  unfold calibCut
  grind [State.Leaves, List.IsSuffix.trans]

theorem leaves_mbxCut {c : MbxCut} : s.Leaves (mbxCut c s) := by
  unfold mbxCut
  grind [State.Leaves, List.IsSuffix.trans, doIf, leaves_accept, leaves_complete, leaves_calibCut]

theorem leaves_mbxDo {fn : Fn} {act : Nat → State → State} (hact : ∀ x0 (s : State), s.Leaves (act x0 s)) :
    s.Leaves (mbxDo fn act s) := by
  unfold mbxDo
  grind [State.Leaves, List.IsSuffix.trans, leaves_access, leaves_mbxIssue]

theorem leaves_smbRefresh : s.Leaves (smbRefresh s) := by
  unfold smbRefresh
  grind [State.Leaves, List.IsSuffix.trans]

theorem leaves_smbusRead {addr : Nat} {sent : Bytes} {fmt : SmbFmt} {pec : Bool} : s.Leaves (smbusRead addr sent fmt pec s) :=
    by
  unfold smbusRead
  grind [State.Leaves, List.IsSuffix.trans, leaves_emit]

/-! ### Boot -/

theorem leaves_stageTo {n : Nat} : s.Leaves (stageTo n s) := by
  unfold stageTo
  grind [State.Leaves, List.IsSuffix.trans, leaves_setFld]

theorem leaves_bootTo {st : Nat} : s.Leaves (bootTo st s) := by
  unfold bootTo
  grind [State.Leaves, List.IsSuffix.trans, leaves_setFld]

theorem leaves_uartText : s.Leaves (uartText s) := ⟨rfl, rfl, List.suffix_cons ..⟩

theorem leaves_atStage {n : Nat} {act : State → State} (hact : ∀ s : State, s.Leaves (act s)) : s.Leaves (atStage n act s) := by
  unfold atStage
  grind [State.Leaves, List.IsSuffix.trans, leaves_uartText]

theorem leaves_bootFail {f : Fail} : s.Leaves (bootFail f s) := by
  unfold bootFail
  grind [State.Leaves, List.IsSuffix.trans, leaves_setFld]

theorem flashAt_owner {cut : Nat} : (s.flashAt cut).owner = s.flash.owner := by
  unfold State.flashAt
  split <;> rfl

theorem leaves_freshState {up : PowerUp} : s.Leaves (freshState up s) := ⟨rfl, flashAt_owner, List.suffix_rfl⟩

theorem leaves_powerOn {up : PowerUp} : s.Leaves (powerOn up s) := by
  unfold powerOn
  grind [State.Leaves, List.IsSuffix.trans, leaves_wr, leaves_requestRail, leaves_stageTo, leaves_bootTo, leaves_uartText,
    leaves_freshState]

theorem leaves_applyPtp {b : Bytes} : s.Leaves (applyPtp b s) := by
  unfold applyPtp
  grind [State.Leaves, List.IsSuffix.trans, leaves_forEach, leaves_wr]

theorem leaves_calibMend {k : KeySet} : s.Leaves (calibMend k s) := by
  unfold calibMend
  extract_lets f
  split
  · exact .after (leaves_flashTo fun _ => rfl) (leaves_flashTo fun _ => rfl)
  · exact leaves_flashTo fun _ => rfl

theorem leaves_calibStage : s.Leaves (calibStage s) := by
  unfold calibStage
  grind [State.Leaves, List.IsSuffix.trans, leaves_report, leaves_stageTo, leaves_applyPtp, leaves_calibMend]

theorem leaves_wireStage {failed : List (Nat × Nat)} : s.Leaves (wireStage failed s) := by
  unfold wireStage
  grind [State.Leaves, List.IsSuffix.trans, leaves_forEach, leaves_wireFail, leaves_applyWires, leaves_stageTo]

theorem leaves_bcrRead : s.Leaves (bcrRead s) := by
  unfold bcrRead
  grind [State.Leaves, List.IsSuffix.trans, leaves_useBcr, leaves_writeCopy, leaves_updRecord]

theorem leaves_chooseSlot : s.Leaves (chooseSlot s).2 := by
  unfold chooseSlot
  grind [State.Leaves, List.IsSuffix.trans, doIf, leaves_writeBcr, leaves_dropNewArea, leaves_revertMark]

theorem leaves_bootSlot {n : Nat} : s.Leaves (bootSlot n s) := by
  unfold bootSlot
  grind [State.Leaves, List.IsSuffix.trans]

theorem leaves_setStage : s.Leaves (setStage s) := by
  unfold setStage
  grind [State.Leaves, List.IsSuffix.trans, leaves_stageTo, leaves_bootFail, leaves_bcrRead, leaves_chooseSlot, leaves_bootSlot]

theorem leaves_setOkElse {stage : Nat} {fall act : State → State} (hfall : ∀ s : State, s.Leaves (fall s))
    (hact : ∀ s : State, s.Leaves (act s)) :
    s.Leaves (setOkElse stage fall act s) := by
  unfold setOkElse
  grind [State.Leaves, List.IsSuffix.trans, leaves_setFld, leaves_inc, leaves_dropNewArea, leaves_updRecord, leaves_bootFail,
    leaves_bootSlot]

/-! ### Regs -/

theorem leaves_pmapRecord {recs : List Bytes} {p : Nat} : s.Leaves (pmapRecord recs p s) := by
  unfold pmapRecord
  grind [State.Leaves, List.IsSuffix.trans, doIf, leaves_forEach, leaves_wr, leaves_report]

/-! ### Boot -/

theorem leaves_portsOn : s.Leaves (portsOn s) := by
  unfold portsOn
  grind [State.Leaves, List.IsSuffix.trans, leaves_forEach, leaves_inResetSet, leaves_trainPort]

theorem leaves_lateIrq : s.Leaves (lateIrq s) := by
  unfold lateIrq
  grind [State.Leaves, List.IsSuffix.trans, leaves_raiseRight]

theorem leaves_pmapStage : s.Leaves (pmapStage s) := by
  unfold pmapStage
  grind [State.Leaves, List.IsSuffix.trans, leaves_forEach, leaves_setFld, leaves_stageTo, leaves_pmapRecord, leaves_portsOn,
    leaves_lateIrq]

theorem leaves_bootMicro : s.Leaves (bootMicro s) := by
  unfold bootMicro
  grind [State.Leaves, List.IsSuffix.trans, leaves_loadVendor, leaves_underKey]

theorem leaves_imageStage : s.Leaves (imageStage s) := by
  unfold imageStage
  grind [State.Leaves, List.IsSuffix.trans, leaves_stageTo, leaves_bootTo, leaves_lateIrq, leaves_bootMicro]

theorem leaves_hbmStage {stack : Nat} {ok : Bool} : s.Leaves (hbmStage stack ok s) := by
  unfold hbmStage
  grind [State.Leaves, List.IsSuffix.trans, doIf, leaves_failStack, leaves_f0Fail, leaves_stageTo, leaves_bootTo]

theorem leaves_serdesStage : s.Leaves (serdesStage s) := by
  unfold serdesStage
  grind [State.Leaves, List.IsSuffix.trans, leaves_stageTo]

theorem leaves_plateStage : s.Leaves (plateStage s) := by
  unfold plateStage
  grind [State.Leaves, List.IsSuffix.trans, leaves_bankTo, leaves_plateProof, leaves_goLive, leaves_underKey, leaves_stageTo,
    leaves_lateIrq]

theorem leaves_imagesAgain : s.Leaves (imagesAgain s) := by
  unfold imagesAgain
  grind [State.Leaves, List.IsSuffix.trans, leaves_restartSteward, leaves_bootMicro]

theorem leaves_traceFail {lane : Nat} : s.Leaves (traceFail lane s) := by
  unfold traceFail
  grind [State.Leaves, List.IsSuffix.trans, leaves_wr, leaves_report]

theorem leaves_traceLane {echo : List (Nat × List Bytes)} {lane : Nat} : s.Leaves (traceLane echo lane s) := by
  unfold traceLane
  grind [State.Leaves, List.IsSuffix.trans, doIf, leaves_forEach, leaves_wr, leaves_setFld, leaves_setLaneStat,
    leaves_laneCfgEffect, leaves_traceFail]

theorem leaves_traceStage {echo : List (Nat × List Bytes)} : s.Leaves (traceStage echo s) := by
  unfold traceStage
  grind [State.Leaves, List.IsSuffix.trans, leaves_forEach, leaves_stageTo, leaves_traceLane]

theorem leaves_trialReady : s.Leaves (trialReady s) := by
  unfold trialReady
  grind [State.Leaves, List.IsSuffix.trans, leaves_updTo, leaves_startConfirm]

theorem leaves_eraseOldArea : s.Leaves (eraseOldArea s) := by
  unfold eraseOldArea
  grind [State.Leaves, List.IsSuffix.trans, doIf, leaves_setArea]

theorem leaves_readyStage : s.Leaves (readyStage s) := by
  unfold readyStage
  grind [State.Leaves, List.IsSuffix.trans, leaves_setFld, leaves_stageTo, leaves_bootTo, leaves_trialReady,
    leaves_eraseOldArea]

theorem leaves_failStage : s.Leaves (failStage s) := by
  unfold failStage
  grind [State.Leaves, List.IsSuffix.trans, leaves_setFld, leaves_bootTo, leaves_uartText, leaves_portsOn]

theorem leaves_stewardFault {cut : List MbxCut} : s.Leaves (stewardFault cut s) := by
  unfold stewardFault
  grind [State.Leaves, List.IsSuffix.trans, leaves_forEach, leaves_report, leaves_restartSteward, leaves_lateBack,
    leaves_mbxCut, leaves_uartText]

theorem leaves_stewardRestart : s.Leaves (stewardRestart s) := by
  unfold stewardRestart
  grind [State.Leaves, List.IsSuffix.trans, leaves_uartText]

/-! ### RegWrite -/

theorem leaves_admitEffect {old v : Word} : s.Leaves (admitEffect old v s) := by
  unfold admitEffect
  grind [State.Leaves, List.IsSuffix.trans, doIf, leaves_setFld, leaves_fbRefresh, leaves_clearAuto]

theorem leaves_writeEffect {r : Reg} {ix : List Nat} {off : Nat} {old v : Word} : s.Leaves (writeEffect r ix off old v s) := by
  unfold writeEffect
  grind [State.Leaves, List.IsSuffix.trans, doIf, leaves_setFld, leaves_asaCfgEffect, leaves_quiesceEffect, leaves_bpmRefresh,
    leaves_portDepths, leaves_refreshGroup, leaves_framerStart, leaves_framerStop, leaves_laneCfgEffect, leaves_reachEffect,
    leaves_budgetEffect, leaves_twinCfgEffect, leaves_updCfgEffect, leaves_admitEffect]

theorem leaves_portOff {r : Reg} {ix : List Nat} {v : Word} : s.Leaves (portOff r ix v s) := by
  unfold portOff
  grind [State.Leaves, List.IsSuffix.trans, leaves_linkAndSched]

theorem leaves_storeWrite {d : RegDesc} {ix : List Nat} {off : Nat} {v : Word} : s.Leaves (storeWrite d ix off v s) := by
  unfold storeWrite
  grind [State.Leaves, List.IsSuffix.trans, leaves_wr, leaves_writeEffect, leaves_portOff]

theorem leaves_sealWord {fn : Fn} {p n : Nat} {w : Word} : s.Leaves (sealWord fn p n w s) := by
  unfold sealWord
  grind [State.Leaves, List.IsSuffix.trans, leaves_wr, leaves_denied, leaves_issue, leaves_slotClear, leaves_sealDone,
    leaves_sealIssue, leaves_unwrapAct, leaves_encryptAct, leaves_decryptAct]

theorem leaves_updWordAct {p n op comp : Nat} : s.Leaves (updWordAct p n op comp s) := by
  unfold updWordAct
  grind [State.Leaves, List.IsSuffix.trans, leaves_updDone, leaves_openAct, leaves_writeAct, leaves_verifyAct,
    leaves_activateAct, leaves_confirmAct, leaves_revertAct, leaves_closeAct]

theorem leaves_updWord {fn : Fn} {p n : Nat} {w : Word} : s.Leaves (updWord fn p n w s) := by
  unfold updWord
  grind [State.Leaves, List.IsSuffix.trans, leaves_updCommand, leaves_updWordAct]

theorem leaves_mbxWordAct {fn : Fn} {p n op : Nat} : s.Leaves (mbxWordAct fn p n op s) := by
  unfold mbxWordAct
  grind [State.Leaves, List.IsSuffix.trans, leaves_complete, leaves_mbxVersion, leaves_mbxThermal, leaves_mbxPing,
    leaves_settingsGet, leaves_settingsPut, leaves_calibRead, leaves_calibWrite]

theorem leaves_mbxWord {fn : Fn} {p n : Nat} {w : Word} : s.Leaves (mbxWord fn p n w s) := by
  unfold mbxWord
  grind [State.Leaves, List.IsSuffix.trans, leaves_mbxIssue, leaves_mbxWordAct]

theorem leaves_cmdWrite {fn : Fn} {p : Nat} {r : Reg} {w : Word} : s.Leaves (cmdWrite fn p r w s) := by
  unfold cmdWrite
  grind [State.Leaves, List.IsSuffix.trans, leaves_tblCommand, leaves_asaCommand, leaves_ppmCommand, leaves_burinCommand,
    leaves_plateCommand, leaves_bpmCommand, leaves_qCommand, leaves_schedCommand, leaves_twinCommand, leaves_lateBack,
    leaves_sealWord, leaves_updWord, leaves_mbxWord]

theorem leaves_plainWrite {fn : Fn} {p off : Nat} {d : RegDesc} {ix : List Nat} {v : Word} :
    s.Leaves (plainWrite fn p off d ix v s) := by
  unfold plainWrite
  grind [State.Leaves, List.IsSuffix.trans, leaves_denied, leaves_quiesceLog, leaves_storeWrite]

theorem leaves_letWrite {fn : Fn} {p off : Nat} {d : RegDesc} {ix : List Nat} {v : Word} :
    s.Leaves (letWrite fn p off d ix v s) := by
  unfold letWrite
  grind [State.Leaves, List.IsSuffix.trans, doIf, leaves_preemptWrite, leaves_lockWrite, leaves_intClear, leaves_intEnableTo,
    leaves_ackWrite, leaves_fatalClear, leaves_plainWrite]

theorem leaves_hostWrite {fn : Fn} {off : Nat} {v : Word} : s.Leaves (hostWrite fn off v s) := by
  unfold hostWrite
  grind [State.Leaves, List.IsSuffix.trans, leaves_access, leaves_cmdWrite, leaves_letWrite]

theorem leaves_holdLow {fn : Fn} {off : Nat} {v : BitVec 32} : s.Leaves (holdLow fn off v s) := by
  unfold holdLow
  grind [State.Leaves, List.IsSuffix.trans]

theorem leaves_writeHigh {fn : Fn} {off : Nat} {v : BitVec 32} : s.Leaves (writeHigh fn off v s) := by
  unfold writeHigh
  grind [State.Leaves, List.IsSuffix.trans, leaves_hostWrite]

theorem leaves_badSize {fn : Fn} : s.Leaves (badSize fn s) := by
  unfold badSize
  grind [State.Leaves, List.IsSuffix.trans, doIf, leaves_emit, leaves_report, leaves_dropHeld]

theorem leaves_regWrite {fn : Fn} {off size : Nat} {v : Word} : s.Leaves (regWrite fn off size v s) := by
  unfold regWrite
  grind [State.Leaves, List.IsSuffix.trans, leaves_hostWrite, leaves_holdLow, leaves_writeHigh, leaves_badSize]

theorem leaves_readEffect {r : Reg} {ix : List Nat} {off : Nat} : s.Leaves (readEffect r ix off s) := by
  unfold readEffect
  grind [State.Leaves, List.IsSuffix.trans, leaves_setFld]

theorem leaves_readReg {fn : Fn} {p : Nat} {off half : Nat} {d : RegDesc} {ix : List Nat} :
    s.Leaves (readReg fn p off half d ix s) := by
  unfold readReg
  grind [State.Leaves, List.IsSuffix.trans, doIf, leaves_emit, leaves_readEffect]

theorem leaves_hostRead {fn : Fn} {off half : Nat} : s.Leaves (hostRead fn off half s) := by
  unfold hostRead
  grind [State.Leaves, List.IsSuffix.trans, leaves_emit, leaves_denied, leaves_dropHeld, leaves_readReg]

theorem leaves_read32 {fn : Fn} {off : Nat} : s.Leaves (read32 fn off s) := by
  unfold read32
  grind [State.Leaves, List.IsSuffix.trans, leaves_hostRead]

theorem leaves_read64 {fn : Fn} {off : Nat} : s.Leaves (read64 fn off s) := by
  unfold read64
  grind [State.Leaves, List.IsSuffix.trans, leaves_hostRead]

theorem leaves_regRead {fn : Fn} {off size : Nat} : s.Leaves (regRead fn off size s) := by
  unfold regRead
  grind [State.Leaves, List.IsSuffix.trans, leaves_badSize, leaves_read32, leaves_read64]

theorem leaves_barRead {fn : Fn} {off size : Nat} : s.Leaves (barRead fn off size s) := by
  unfold barRead
  grind [State.Leaves, List.IsSuffix.trans, leaves_bar2Load, leaves_regRead]

/-! ### Idle -/

theorem leaves_timeAdvance : s.Leaves (timeAdvance s) := by
  unfold timeAdvance
  grind [State.Leaves, List.IsSuffix.trans]

theorem leaves_idleTick : s.Leaves (idleTick s) := by
  unfold idleTick
  grind [State.Leaves, List.IsSuffix.trans, leaves_smbRefresh, leaves_timeAdvance]

end Sys2Proof.Machine
end

section
/-! SUPPORT. Every command, and so every step, leaves the rest alone: the proof that settles O2. -/

namespace Sys2Proof.Machine

variable {s t : State}

theorem leaves_of_guardWf {ok : Bool} {u : State} (hu : s.Leaves u) (h : guardWf ok u = .next t) : s.Leaves t := by
  obtain ⟨-, rfl⟩ := guardWf_next h
  exact hu

theorem leaves_of_next {u : State} (hu : s.Leaves u) (h : (.next u : Res) = .next t) : s.Leaves t := by
  cases h
  exact hu

theorem State.Leaves.ite {c : Prop} [Decidable c] {u : State} (ht : s.Leaves t) (hu : s.Leaves u) :
    s.Leaves (if c then t else u) := by
  split <;> [exact ht; exact hu]

/-- Every command leaves the queue, the owner configuration and what has left the device alone. -/
theorem exec_leaves {i : Instr} (h : exec i s = .next t) : s.Leaves t :=
  match i, h with
  | .powerOnReset _, h => leaves_of_guardWf leaves_powerOn h
  | .regWrite _ _ _ _, h => leaves_of_guardWf (.ite leaves_bar2Store leaves_regWrite) h
  | .halfWriteLow _ _ _, h => leaves_of_guardWf leaves_holdLow h
  | .counterLowRead _ _, h => leaves_of_guardWf leaves_barRead h
  | .readClear _ _ _, h => leaves_of_guardWf leaves_barRead h
  | .lineTsFifoLoRead _ _, h => leaves_of_guardWf leaves_read64 h
  | .pwrTbTimeRead _, h => leaves_of_guardWf leaves_read64 h
  | .bootCalibCheck, h => leaves_of_next (leaves_atStage fun _ => leaves_calibStage) h
  | .bridgeWireTest _, h => leaves_of_guardWf (leaves_atStage fun _ => leaves_wireStage) h
  | .bootSetSelect, h => leaves_of_next (leaves_atStage fun _ => leaves_setStage) h
  | .bootManifestCheck, h => leaves_of_next (leaves_atStage fun _ => leaves_setOkElse .refl fun _ => leaves_stageTo) h
  | .pmapLock, h => leaves_of_next (leaves_atStage fun _ => leaves_pmapStage) h
  | .bootImageLoad, h => leaves_of_next (leaves_atStage fun _ => leaves_setOkElse .refl fun _ => leaves_imageStage) h
  | .hbmTrainingDone _ _, h => leaves_of_guardWf (.ite (.refl s) (leaves_atStage fun _ => leaves_hbmStage)) h
  | .serdesCalibrationDone, h => leaves_of_next (leaves_atStage fun _ => leaves_serdesStage) h
  | .bootPlateLoad, h => leaves_of_next (leaves_atStage fun _ =>
      leaves_setOkElse (fun _ => leaves_imagesAgain) fun _ => leaves_plateStage) h
  | .bootTraceCheck _, h => leaves_of_guardWf (leaves_atStage fun _ => leaves_traceStage) h
  | .ready, h => leaves_of_next (.ite (leaves_atStage fun _ => leaves_readyStage) (.refl s)) h
  | .bootFailed, h => leaves_of_next leaves_failStage h
  | .bridgeFlitReceive _ _ _ _ _, h => leaves_of_guardWf leaves_flitAndPages h
  | .stewardFault _, h => leaves_of_guardWf leaves_stewardFault h
  | .stewardRestart, h => leaves_of_next leaves_stewardRestart h
  | .erqAck _ _ _, h => leaves_of_guardWf (leaves_access fun _ _ _ _ => leaves_ackWrite) h
  | .erqFatalClr _ _, h => leaves_of_guardWf (leaves_access fun _ _ _ _ => leaves_fatalClear) h
  | .headerSegmentArrive _ _ _ _ _, h => leaves_of_guardWf leaves_routedSegment h
  | .frameTailArrive _ _ _ _, h => leaves_of_guardWf (leaves_tailAndAfter fun _ => leaves_frameTail) h
  | .pauseFrameReceive _ _ _ _ _, h => leaves_of_guardWf leaves_pauseReceive h
  | .pfcFrameReceive _ _ _ _ _ _, h => leaves_of_guardWf leaves_pfcReceive h
  | .pauseExpire _, h => leaves_of_guardWf leaves_pauseEnd h
  | .linkStateChange _ _ _ _ _, h => leaves_of_guardWf leaves_linkAndSched h
  | .synceSquelch _ _, h => leaves_of_guardWf leaves_setFld h
  | .lineOctetModeWrite _ _ _, h => leaves_of_guardWf leaves_hostWrite h
  | .flowMatch _ _ _ _ _, h => leaves_of_guardWf leaves_flowMatch h
  | .schedOverlen _ _ _, h => leaves_of_guardWf leaves_schedOverlen h
  | .schedFrameTail _ _ _ _, h => leaves_of_guardWf leaves_schedTail h
  | .packetParse _ _, h => leaves_of_next leaves_packetParse h
  | .pipelineStage _ _, h => leaves_of_next leaves_pipelineStage h
  | .ppmScanEnd _ _, h => leaves_of_guardWf leaves_scanEnd h
  | .reorderArrival _ _, h => leaves_of_guardWf leaves_reorderArrival h
  | .reorderTimeout _, h => leaves_of_guardWf leaves_reorderTimeout h
  | .egressEntry _, h => leaves_of_guardWf leaves_egressEntry h
  | .txFrame _, h => leaves_of_guardWf leaves_txFrame h
  | .xoffSignal _ _, h => leaves_of_guardWf leaves_xoffNow h
  | .xonSignal _ _, h => leaves_of_guardWf leaves_xonNow h
  | .pfcRefresh _ _, h => leaves_of_guardWf leaves_xoffAgain h
  | .plateLoad _ _ _, h => leaves_of_guardWf leaves_plateIssue h
  | .plateSwap _ _ _, h => leaves_of_guardWf leaves_plateIssue h
  | .plateAbort _ _ _, h => leaves_of_guardWf (leaves_lateBack.after leaves_plateIssue) h
  | .plateLoadData _ _, h => leaves_of_next (leaves_lateBack.after leaves_plateData) h
  | .plateVerifyDone, h => leaves_of_next (leaves_lateBack.after leaves_plateVerify) h
  | .plateSwapPoint, h => leaves_of_next (leaves_lateBack.after leaves_swapPoint) h
  | .plateDrainEnd, h => leaves_of_next (leaves_lateBack.after leaves_drainEnd) h
  | .plateDrainOverrun, h => leaves_of_next (leaves_lateBack.after leaves_drainOverrun) h
  | .plateScrub _ _ _, h => leaves_of_guardWf (leaves_lateBack.after leaves_plateScrub) h
  | .pipeQuiesce _ _, h => leaves_of_guardWf leaves_hostWrite h
  | .pipelineQuiesced _, h => leaves_of_guardWf leaves_pipeQuiet h
  | .ppmWrite _ _, h => leaves_of_guardWf leaves_ppmIssue h
  | .ppmRead _ _ _, h => leaves_of_guardWf leaves_ppmIssue h
  | .ppmInvalidate _ _, h => leaves_of_guardWf leaves_ppmIssue h
  | .tblWrite _ _, h => leaves_of_guardWf leaves_tblIssue h
  | .tblRead _ _ _ _, h => leaves_of_guardWf leaves_tblIssue h
  | .tblInsert _ _ _, h => leaves_of_guardWf leaves_tblIssue h
  | .tblDelete _ _ _, h => leaves_of_guardWf leaves_tblIssue h
  | .tblLookup _ _ _, h => leaves_of_guardWf leaves_tblIssue h
  | .tblCommit _, h => leaves_of_guardWf leaves_tblIssue h
  | .tblFence _, h => leaves_of_guardWf leaves_tblIssue h
  | .tblFenceDone _ _, h => leaves_of_guardWf leaves_fenceDone h
  | .tblFenceTimeout _ _, h => leaves_of_guardWf leaves_fenceTimeout h
  | .tblRingGroup _ _ _, h => leaves_of_guardWf leaves_ringGroup h
  | .macAgerVisit _ _, h => leaves_of_guardWf leaves_agerVisit h
  | .tblScrub _ _ _ _, h => leaves_of_guardWf leaves_scrub h
  | .asaWrite _ _, h => leaves_of_guardWf leaves_asaIssue h
  | .asaRead _ _ _, h => leaves_of_guardWf leaves_asaIssue h
  | .asaInvalidate _ _, h => leaves_of_guardWf leaves_asaIssue h
  | .asaInsertAt _ _ _, h => leaves_of_guardWf leaves_asaIssue h
  | .asaSearchCmd _ _ _, h => leaves_of_guardWf leaves_asaIssue h
  | .asaTableCfgWrite _ _ _, h => leaves_of_guardWf leaves_hostWrite h
  | .asaScrubVisit _ _ _, h => leaves_of_guardWf leaves_asaScrub h
  | .pageRequest _ _ _, h => leaves_of_guardWf leaves_pageRequest h
  | .pageFree _ _ _ _, h => leaves_of_guardWf leaves_bpmRelease h
  | .refInc _ _ _, h => leaves_of_guardWf leaves_bpmInc h
  | .refDec _ _ _ _, h => leaves_of_guardWf leaves_bpmRelease h
  | .bpmReadRec _ _, h => leaves_of_guardWf leaves_bpmIssue h
  | .bpmReadRef _ _, h => leaves_of_guardWf leaves_bpmIssue h
  | .bpmRetire _, h => leaves_of_guardWf leaves_bpmIssue h
  | .bpmRestore _, h => leaves_of_guardWf leaves_bpmIssue h
  | .bpmQuotaWrite _ _ _ _, h => leaves_of_guardWf leaves_hostWrite h
  | .bpmStackFailed _ _ _, h => leaves_of_guardWf (.ite (leaves_doIf fun _ => leaves_f0Fail) leaves_stackFailed) h
  | .bpmMemoryError _ _, h => leaves_of_guardWf leaves_bpmError h
  | .queueArrival _, h => leaves_of_guardWf leaves_queueArrival h
  | .packetTailStored _, h => leaves_of_next leaves_tailStored h
  | .recircReturn, h => leaves_of_next leaves_recircReturn h
  | .egressDequeue _, h => leaves_of_guardWf leaves_egressDequeue h
  | .ctUnderrun _, h => leaves_of_guardWf leaves_underrun h
  | .voqPacketStart _, h => leaves_of_guardWf leaves_voqStart h
  | .creditRefresh _, h => leaves_of_guardWf leaves_creditRefresh h
  | .requestReceive, h => leaves_of_next leaves_requestReceive h
  | .requestExpire _ _ _, h => leaves_of_guardWf leaves_requestExpire h
  | .grantIssue _, h => leaves_of_guardWf leaves_grantIssue h
  | .grantReceive, h => leaves_of_next leaves_grantReceive h
  | .qWrite _ _, h => leaves_of_guardWf leaves_qIssue h
  | .qRead _ _ _, h => leaves_of_guardWf leaves_qIssue h
  | .qCommit _ _, h => leaves_of_guardWf leaves_qIssue h
  | .qFlush _, h => leaves_of_guardWf leaves_qIssue h
  | .flushDone _, h => leaves_of_guardWf leaves_flushDone h
  | .flushTimeout _, h => leaves_of_guardWf leaves_flushTimeout h
  | .qEccUncorr _ _, h => leaves_of_guardWf leaves_qEccFound h
  | .fallbackAutoClear _, h => leaves_of_guardWf leaves_hostWrite h
  | .schedLoad _ _ _, h => leaves_of_guardWf leaves_schedIssue h
  | .schedSwap _ _ _, h => leaves_of_guardWf leaves_schedIssue h
  | .schedAbort _ _ _, h => leaves_of_guardWf leaves_schedIssue h
  | .schedRestart _ _, h => leaves_of_guardWf leaves_schedIssue h
  | .schedLoadData _ _, h => leaves_of_next leaves_schedData h
  | .schedVerifyDone, h => leaves_of_next leaves_schedVerify h
  | .schedArm, h => leaves_of_next leaves_schedArm h
  | .schedBankEccError _, h => leaves_of_guardWf leaves_calEcc h
  | .multiframeBoundary _, h => leaves_of_guardWf (.after (leaves_doIf fun _ => leaves_microBoundary) leaves_multiframeBoundary) h
  | .cellSlotPick _ _ _ _ _, h => leaves_of_guardWf leaves_slotPick h
  | .schedCellReceive _ _, h => leaves_of_guardWf leaves_schedCellReceive h
  | .schedRelease _ _ _, h => leaves_of_guardWf leaves_schedRelease h
  | .framerStart _, h => leaves_of_guardWf leaves_hostWrite h
  | .framerStop _, h => leaves_of_guardWf leaves_hostWrite h
  | .framerRun, h => leaves_of_next leaves_framerRun h
  | .fabLaneEnable _ _ _, h => leaves_of_guardWf leaves_hostWrite h
  | .traceCheck _ _, h => leaves_of_guardWf leaves_hostWrite h
  | .fabReachWrite _ _ _, h => leaves_of_guardWf leaves_hostWrite h
  | .fabFrameTransmit _, h => leaves_of_guardWf leaves_frameTransmit h
  | .fabFrameReceive _ _ _, h => leaves_of_guardWf leaves_frameReceive h
  | .fabLos _, h => leaves_of_guardWf leaves_fabLos h
  | .groupFrameRead _, h => leaves_of_guardWf leaves_groupFrameRead h
  | .fabCellReceive _ _ _, h => leaves_of_guardWf leaves_takeCell h
  | .fabMsgReceive _ _, h => leaves_of_guardWf leaves_takeMsg h
  | .reasmTimeout _ _ _, h => leaves_of_guardWf leaves_reasmTimeout h
  | .repinGuardExpire _, h => leaves_of_guardWf leaves_repinGuard h
  | .fabPmLatch, h => leaves_of_next leaves_pmLatch h
  | .burinEvent _ _, h => leaves_of_guardWf leaves_burinIssue h
  | .burinCreate _, h => leaves_of_guardWf leaves_burinIssue h
  | .burinDelete _, h => leaves_of_guardWf leaves_burinIssue h
  | .burinCtxRead _ _, h => leaves_of_guardWf leaves_burinIssue h
  | .burinClearFault _, h => leaves_of_guardWf leaves_burinIssue h
  | .burinLoad _ _, h => leaves_of_guardWf leaves_burinIssue h
  | .burinRegionSwitch, h => leaves_of_next (leaves_mcGo.after leaves_burinSwitch) h
  | .burinEventStart _ _ _, h => leaves_of_guardWf leaves_eventStart h
  | .burinEventEnd _ _, h => leaves_of_guardWf (leaves_doIf fun _ => leaves_eventEnd) h
  | .burinEventAbandon _ _, h => leaves_of_guardWf (leaves_doIf fun _ => leaves_eventAbandon) h
  | .burinFault _ _, h => leaves_of_guardWf (leaves_doIf fun _ => leaves_eventFault) h
  | .burinTimerExpire _ _, h => leaves_of_guardWf leaves_timerExpire h
  | .perstN _, h => leaves_of_guardWf leaves_perstFall h
  | .functionLevelReset _, h => leaves_of_guardWf leaves_flr h
  | .pioTxDescriptor _ _ _ _, h => leaves_of_guardWf leaves_txDescriptor h
  | .pioRingDisable _ _ _, h => leaves_of_guardWf leaves_hostWrite h
  | .rxCoalExpire _ _, h => leaves_of_guardWf leaves_rxCoal h
  | .intStatusClear _ _ _, h => leaves_of_guardWf (leaves_access fun _ _ _ _ => leaves_intClear) h
  | .msixUnmask _ _, h => leaves_of_guardWf leaves_msixUnmask h
  | .mbxVersion _, h => leaves_of_guardWf (leaves_mbxDo fun _ _ => leaves_mbxVersion) h
  | .mbxThermal _, h => leaves_of_guardWf (leaves_mbxDo fun _ _ => leaves_mbxThermal) h
  | .mbxPing _, h => leaves_of_guardWf (leaves_mbxDo fun _ _ => leaves_mbxPing) h
  | .settingsGet _, h => leaves_of_guardWf (leaves_mbxDo fun _ _ => leaves_settingsGet) h
  | .settingsPut _, h => leaves_of_guardWf (leaves_mbxDo fun _ _ => leaves_settingsPut) h
  | .calibRead _ _, h => leaves_of_guardWf (leaves_mbxDo fun _ _ => leaves_calibRead) h
  | .calibWrite _ _, h => leaves_of_guardWf (leaves_mbxDo fun _ _ => leaves_calibWrite) h
  | .smbusRead _ _ _ _, h => leaves_of_guardWf leaves_smbusRead h
  | .sealAcquire _, h => leaves_of_guardWf (leaves_access fun _ _ _ _ => leaves_lockAcquire) h
  | .sealRelease _, h => leaves_of_guardWf (leaves_access fun _ _ _ _ => leaves_lockRelease) h
  | .sealBreak _, h => leaves_of_guardWf (leaves_access fun _ _ _ _ => leaves_lockBreak) h
  | .sealUnwrap _ _ _ _ _, h => leaves_of_guardWf (leaves_sealIssue fun _ _ => leaves_unwrapAct) h
  | .sealEncrypt _ _ _ _ _ _ _, h => leaves_of_guardWf (leaves_sealIssue fun _ _ => leaves_encryptAct) h
  | .sealDecrypt _ _ _ _ _ _ _ _, h => leaves_of_guardWf (leaves_sealIssue fun _ _ => leaves_decryptAct) h
  | .sealClear _ _ _, h => leaves_of_guardWf (leaves_sealIssue fun _ _ => leaves_sealDone.after leaves_slotClear) h
  | .updOpen _ _, h => leaves_of_guardWf (leaves_updIssue fun _ _ => leaves_openAct) h
  | .updWrite _ _ _ _, h => leaves_of_guardWf (leaves_updIssue fun _ _ => leaves_writeAct) h
  | .updVerify _, h => leaves_of_guardWf (leaves_updIssue fun _ _ => leaves_verifyAct) h
  | .updSealWaitTimeout, h => leaves_of_next leaves_sealWaitTimeout h
  | .updActivate _ _, h => leaves_of_guardWf (leaves_updIssue fun _ _ => leaves_activateAct) h
  | .stewardReady, h => leaves_of_next leaves_stewardReady h
  | .updConfirm _, h => leaves_of_guardWf (leaves_updIssue fun _ _ => leaves_updDone.after leaves_confirmAct) h
  | .updRevert _, h => leaves_of_guardWf (leaves_updIssue fun _ _ => leaves_revertAct) h
  | .updClose _, h => leaves_of_guardWf (leaves_updIssue fun _ _ => leaves_closeAct) h
  | .updPreempt _, h => leaves_of_guardWf (leaves_access fun _ _ _ _ => leaves_preemptWrite) h
  | .updSessionLapsed, h => leaves_of_next leaves_sessionLapse h
  | .confirmTimerExpire, h => leaves_of_next leaves_confirmExpire h
  | .ptpMfBoundary _ _, h => leaves_of_next (.after (leaves_doIf fun _ => leaves_microBoundary) leaves_ptpMfBoundary) h
  | .pwrRailCfgWrite _ _ _, h => leaves_of_guardWf leaves_hostWrite h
  | .avsReadback _ _, h => leaves_of_guardWf leaves_avsReadback h
  | .thermalRead _, h => leaves_of_guardWf leaves_thermalRead h
  | .thermalStale, h => leaves_of_next leaves_thermalStale h
  | .domainSleep _, h => leaves_of_guardWf leaves_domainSleep h
  | .domainWake _ _, h => leaves_of_guardWf leaves_domainWake h
  | .wakeBudgetWrite _ _ _, h => leaves_of_guardWf leaves_hostWrite h
  | .ppsOut, h => leaves_of_next leaves_ppsOut h
  | .ppsInEdge, h => leaves_of_next leaves_ppsInEdge h
  | .ppsLoss, h => leaves_of_next leaves_ppsLoss h
  | .twinEnable _ _, h => leaves_of_guardWf leaves_hostWrite h
  | .twinSwitch _, h => leaves_of_guardWf leaves_twinIssue h
  | .twinForceActive _, h => leaves_of_guardWf leaves_twinIssue h
  | .twinClearFailed _, h => leaves_of_guardWf leaves_twinIssue h
  | .twinRecordReceive _ _, h => leaves_of_guardWf leaves_twinReceive h
  | .twinLinkDown, h => leaves_of_next leaves_twinLinkDown h
  | .twinHealthInFall, h => leaves_of_next leaves_healthInFall h
  | .twinHealthWaitExpire, h => leaves_of_next leaves_healthWait h
  | .fabSignalLock _, h => leaves_of_guardWf leaves_fabSignalLock h
  | .perstNRise _, h => leaves_of_guardWf leaves_perstRise h
  | .voqAgeDiscard _, h => leaves_of_guardWf leaves_voqAge h
  | .twinHealthInRise, h => leaves_of_next leaves_healthInRise h

/-- Settles O2: a step is a reference period, or a command on the state without it in the queue. -/
theorem stepLeavesTheRest : Obligations.StepLeavesTheRest := by
  intro s t hstep
  unfold step at hstep
  split at hstep
  next hq =>
    cases hstep
    obtain ⟨queue, owner, said⟩ := leaves_idleTick (s := s)
    exact ⟨queue.trans (by rw [hq]; rfl), owner, said⟩
  next c rest hq =>
    obtain ⟨queue, owner, said⟩ := exec_leaves hstep
    exact ⟨queue.trans (by rw [hq]; rfl), owner, said⟩

end Sys2Proof.Machine
end
